-- ==== Sys2Proof/Word.lean ====
section
/-! DEFINITION. The words of the machine (R1): bytes, 32-bit words, 64-bit double words, lane masks and register numbers. -/
namespace Sys2Proof

abbrev Byte := BitVec 8
/-- A lane register, a scalar register or a Marrow word: 32 bits (R39, R40, R60). -/
abbrev Word := BitVec 32
/-- A 64-bit value, an address or a Radish word (R39, R76). -/
abbrev DWord := BitVec 64
/-- One bit a lane: EM, a predicate (R41, R42). -/
abbrev Lanes := BitVec 32
/-- The number of a lane register, v0 to v255 (R39). -/
abbrev VReg := BitVec 8
/-- The number of a scalar register, s0 to s63 (R40). -/
abbrev SReg := BitVec 6

end Sys2Proof
end

