-- ==== Sys2Proof/Syntax.lean ====
section
/-! DEFINITION. Syntax: the one inductive `Instr`, a constructor for every row of the opcode table.
A Marrow instruction carries the fields of its 32-bit word (R61 to R71); an immediate or byte offset that a LIT
supplies is not in the word (R66).  A Radish form carries the MODE of its word first and its immediate as an `RImm`
(R76, R78).  The other constructors are the device's own steps (what each step holds): they are no words, and what
the device or the outside chooses within such a step is an argument of it. -/
set_option linter.all false
namespace Sys2Proof

/-- The immediate of a Radish word (R78): its 16-bit field, and the 64-bit literal word that follows when bit 16 is 1. -/
structure RImm where
  imm : BitVec 16
  lit : Option (BitVec 64)
  deriving DecidableEq, Repr

/-- Where the scheduler places one cluster: the core of its first member, the cluster's number, and the base of each group's
lane-private region, which the resident OS assigns (R221, R277). -/
structure PlaceAt where
  core : Nat
  number : Nat
  pb : List (BitVec 64)
  deriving DecidableEq, Repr

/-- Where a storage error is found (R317): corrected; a word of a group's v or s register, of a stream's m register, x tile or
accumulator, of a team's window; a memory line by its key; or a structure of a die that is not poisoned. -/
inductive EccSite where
  | corrected
  | vreg (g r lane : Nat)
  | sreg (g r : Nat)
  | mreg (t r : Nat)
  | xword (t x word : Nat)
  | zelem (t z elem : Nat)
  | window (t word : Nat)
  | line (key : Nat)
  | structure_ (die : Nat)
  deriving DecidableEq, Repr

/-- Who makes a system call (R331): a steward core on behalf of a context, or a mailbox function with the tag of its entry. -/
inductive Caller where
  | steward (core asid : Nat)
  | mailbox (fn : Nat) (tag : BitVec 16)
  deriving DecidableEq, Repr

/-- A register without a step of its own (R3, R333): a domain-table entry, an invalidation word, a word of the scheduler's
command block, or a word of a function's mailbox block that the host or the resident OS writes. -/
inductive Reg where
  | domain (i : Nat)
  | invalStart
  | invalPages
  | invalAsid
  | cmdTarget
  | cmdSave
  | ring (fn : Nat)
  | cpl (fn : Nat)
  /-- LOG2N [7:0], EN [8] and ERR [9], a word of its own here -/
  | control (fn : Nat)
  /-- READY [0] and the function's context [15:8], which the resident OS sets (R329, R330) -/
  | serve (fn : Nat)
  deriving DecidableEq, Repr

/-- A packet by its sender and the number that it gave it (R319). -/
structure PktId where
  src : Nat
  id : Nat
  deriving DecidableEq, Repr

/-- What a loop's packet finds at its destination: a full buffer (R285), whether it passes its check, and whether its acknowledgement
comes back (R319). -/
structure Arrival where
  full : Bool
  crcOk : Bool
  acked : Bool
  deriving DecidableEq, Repr

/-- An image in flash (R340): whether each of its signatures verifies, its version, what is measured of it, and its bytes. -/
structure FlashImage where
  ecdsa : Bool
  lms : Bool
  version : Nat
  digest : Nat
  bytes : List Byte
  deriving DecidableEq, Repr

/-- What the boot finds: the images of both slots, the rollback counter in fuses, the device's index (R339), the addresses in HBM4E
to which the resident OS image and the Devicetree go, and the functions that the resident OS serves, with their contexts. -/
structure FlashState where
  shallotA : FlashImage
  shallotB : FlashImage
  osA : FlashImage
  osB : FlashImage
  rollback : Nat
  index : Nat
  osAt : Nat
  dtAt : Nat
  serves : List (Nat × Nat)
  deriving DecidableEq, Repr

/-- What of the device a process may use (R341): dies, and ranges of memory by first byte and length. -/
structure DtCut where
  dies : List Nat
  mems : List (Nat × Nat)
  deriving DecidableEq, Repr

/-- What trips the module (R348, R350): a die's hottest junction at a temperature, or the supply. -/
inductive TripCause where
  | junction (die temp : Nat)
  | supply
  deriving DecidableEq, Repr

/-- An access of a steward core to device memory (R353): n bytes at a physical address; `aq` and `rl` are the RISC-V bits. AMO
operations: 0 swap, 1 add, 2 xor, 3 and, 4 or, 5 min, 6 max, 7 minu, 8 maxu. A FENCE has its predecessor set (reads, writes) and its
successor set; `ecall` is a call with the number in a7. -/
inductive StewardAccess where
  | load (pa n : Nat)
  | store (pa : Nat) (bytes : List Byte)
  | lr (pa n : Nat) (aq rl : Bool)
  | sc (pa : Nat) (bytes : List Byte) (aq rl : Bool)
  | amo (op pa n x : Nat) (aq rl : Bool)
  | fence (pr pw sr sw : Bool)
  | ecall (num : Nat)
  deriving DecidableEq, Repr

/-- What the resident OS asks of Shallot (R305, R307). -/
inductive ShallotReq where
  | newKey (key : Nat)
  | giveKey (key asid : Nat)
  | assign (frames : List Nat) (key : Nat)
  | confidential (asid : Nat) (on : Bool)
  deriving DecidableEq, Repr

/-- A point of .geari.eqmap (R104): its number and role, its byte addresses from the section starts, and its two tables. -/
structure EqPoint where
  point : Nat
  role : Nat
  zero : Nat
  marrow : Nat
  radish : Nat
  toRadish : List Byte
  toMarrow : List Byte
  deriving DecidableEq, Repr

/-- A kernel of a bundle (R33, R342): its name, its sections, the errata section as its bytes, and the addresses of its code. -/
structure BundleKernel where
  name : List Byte
  record : List Byte
  points : List EqPoint
  errata : List Byte
  marrow : List Byte
  radish : List Byte
  marrowBase : Nat
  radishBase : Nat
  deriving DecidableEq, Repr

/-- A Jallas bundle (R342): the bytes of its file, and the frames with which the resident OS maps its sections. -/
structure Bundle where
  file : List Byte
  frames : List Nat
  deriving DecidableEq, Repr


/-- Every instruction word of both encodings and every step of the device. -/
inductive Instr where
  /-- NOP (R84): Does nothing. -/
  | nop
  /-- SETM (R84): Checks the immediate and writes it into MODE (Marrow only). -/
  | setm (m : BitVec 13)
  /-- SETMS (R84): Checks a scalar register and writes it into MODE (Marrow only). -/
  | setms (k : SReg)
  /-- GETM (R84): Copies MODE into a scalar register. -/
  | getm (k : SReg)
  /-- BRA (R85): Moves the whole fragment to the target. -/
  | bra (h : BitVec 2) (off : BitVec 22)
  /-- BRD (R86): Branches each lane by a predicate, splitting the fragment when the lanes diverge. -/
  | brd (h : BitVec 2) (p : BitVec 3) (inv : Bool) (off : BitVec 18)
  /-- BRX (R87): Branches each lane through a table of offsets indexed by a lane register. -/
  | brx (h : BitVec 2) (v : VReg) (tbl : List (BitVec 32))
  /-- CALL (R88): Saves the return address in a scalar pair and branches. -/
  | callAddr (b : BitVec 3) (off : BitVec 21)
  /-- RET (R88): Branches to the address held in a scalar pair. -/
  | ret (b : BitVec 3)
  /-- MARK (R91): Creates a join record for a rejoin address. -/
  | markJoin (off : BitVec 22)
  /-- JOIN (R91): Waits at the innermost join record and fuses the fragments when all have arrived. -/
  | joinFrags
  /-- PPUSH (R92): Pushes EM and narrows it by a predicate. -/
  | ppush (p : BitVec 3)
  /-- PINV (R92): Sets EM to the top of the stack and not EM. -/
  | pinv
  /-- PPOP (R92): Restores EM from the top of the predicate stack and pops it. -/
  | ppop
  /-- EMRD (R93): Copies EM into a scalar register. -/
  | emrd (k : SReg)
  /-- EMWR (R93): Replaces EM with a scalar value that must be a subset of the fragment's lanes. -/
  | emwr (k : SReg)
  /-- WAITC (R94): Holds issue until the load, store, tile and batch-lag counters are within bounds. -/
  | waitc (a : BitVec 6) (b : BitVec 6) (c : BitVec 4) (d : BitVec 4)
  /-- CBATCH (R95): Closes the group's open copies into a new batch. -/
  | cbatch
  /-- WAITB (R95): Waits until a given batch has completed, or faults if it was never closed. -/
  | waitb (n : BitVec 16)
  /-- BAR (R98): Drains stores, arrives at a hardware barrier and waits for the phase to complete. -/
  | bar (c : BitVec 2) (i : BitVec 4)
  /-- BARA (R98): Drains stores and arrives at a hardware barrier without waiting. -/
  | bara (c : BitVec 2) (i : BitVec 4)
  /-- BARW (R98): Waits for the phase of the pending arrival, or the current phase, to complete. -/
  | barw (c : BitVec 2) (i : BitVec 4)
  /-- DRAIN (R98): Waits for stores and every copy to complete, then arrives at a hardware barrier. -/
  | drain (c : BitVec 2) (i : BitVec 4)
  /-- EQP (R101): Records an equivalence point and may let the scheduler migrate the team there. -/
  | eqp (n : BitVec 16)
  /-- MIGR (R102): Checks the conditions and sends the team to the migration queue once all groups arrive. -/
  | migrTeam (cls : Bool) (n : BitVec 16)
  /-- ROLESW (R105): Switches the group to another declared role, keeping the stated state. -/
  | rolesw (i : BitVec 3)
  /-- YIELD (R96): Gives up issue until other ready fragments have had an opportunity or 64 cycles pass. -/
  | yieldIssue
  /-- EXIT (R106): Retires the lanes of the fragment and, with the last fragment, the group or stream. -/
  | exitFrag
  /-- TRAP (R109): Raises the software-trap fault with a code. -/
  | trapCode (c : BitVec 16)
  /-- XRET (R110): Leaves the handler, restoring EM and MODE, and replays or skips the faulting instruction. -/
  | xret (skip : Bool)
  /-- XRD (R111): Reads a trap register, FLAGS or a barrier instance into a scalar. -/
  | xrd (k : SReg) (i : BitVec 8)
  /-- XWR (R111): Writes a trap register, FLAGS or a barrier instance from a scalar. -/
  | xwr (k : SReg) (i : BitVec 8)
  /-- SREAD (R112): Reads a special value such as ids, counters or device time. -/
  | sread (k : SReg) (i : BitVec 8)
  /-- LAUNCH (R107): Reads a launch record and places the launch in its queue. -/
  | launchQueue (b : BitVec 3)
  /-- IFENCE (R108): Discards prefetched instruction words. -/
  | ifence
  /-- CPREF (R90): Prefetches code lines into the instruction buffer. -/
  | cpref (l : BitVec 2) (off : BitVec 22)
  /-- SNOOZE (R96): Stops issue of the fragment for a number of core cycles. -/
  | snooze (n : BitVec 16)
  /-- LOOP (R89): Decrements a scalar count and branches while it is nonzero. -/
  | loopCount (k : SReg) (off : BitVec 18)
  /-- IADD (R116): Integer add per lane. -/
  | iadd (d : VReg) (a : VReg) (b : VReg)
  /-- ISUB (R116): Integer subtract per lane. -/
  | isub (d : VReg) (a : VReg) (b : VReg)
  /-- IMUL (R116): Integer multiply per lane. -/
  | imul (d : VReg) (a : VReg) (b : VReg)
  /-- IMULH (R116): High half of the exact integer product per lane. -/
  | imulh (d : VReg) (a : VReg) (b : VReg)
  /-- IMAD (R116): Integer multiply-add into the destination per lane. -/
  | imad (d : VReg) (a : VReg) (b : VReg)
  /-- IDIV (R118): Integer division rounded toward zero per lane. -/
  | idiv (d : VReg) (a : VReg) (b : VReg)
  /-- IREM (R118): Integer remainder per lane. -/
  | irem (d : VReg) (a : VReg) (b : VReg)
  /-- IMIN (R116): Integer minimum per lane. -/
  | imin (d : VReg) (a : VReg) (b : VReg)
  /-- IMAX (R116): Integer maximum per lane. -/
  | imax (d : VReg) (a : VReg) (b : VReg)
  /-- IABS (R116): Integer absolute value per lane. -/
  | iabs (d : VReg) (a : VReg)
  /-- INEG (R116): Integer negation per lane. -/
  | ineg (d : VReg) (a : VReg)
  /-- IADDC (R117): 32-bit add with carry held in p7. -/
  | iaddc (d : VReg) (a : VReg) (b : VReg)
  /-- ICMP (R119): Integer compare writing a predicate. -/
  | icmp (c : BitVec 3) (p : BitVec 3) (a : VReg) (b : VReg)
  /-- SEL (R116): Selects A where the guard holds and B elsewhere, in every lane of EM. -/
  | selLane (d : VReg) (a : VReg) (b : VReg)
  /-- AND (R120): Bitwise and per lane. -/
  | andBits (d : VReg) (a : VReg) (b : VReg)
  /-- OR (R120): Bitwise or per lane. -/
  | orBits (d : VReg) (a : VReg) (b : VReg)
  /-- XOR (R120): Bitwise exclusive or per lane. -/
  | xorBits (d : VReg) (a : VReg) (b : VReg)
  /-- NOT (R120): Bitwise complement per lane. -/
  | notBits (d : VReg) (a : VReg)
  /-- SHL (R120): Shift left per lane. -/
  | shl (d : VReg) (a : VReg) (b : VReg)
  /-- SHR (R120): Logical shift right per lane. -/
  | shr (d : VReg) (a : VReg) (b : VReg)
  /-- SAR (R120): Arithmetic shift right per lane. -/
  | sar (d : VReg) (a : VReg) (b : VReg)
  /-- ROTL (R120): Rotate left per lane. -/
  | rotl (d : VReg) (a : VReg) (b : VReg)
  /-- POPC (R120): Population count per lane. -/
  | popc (d : VReg) (a : VReg)
  /-- CLZ (R120): Count of leading zeros per lane. -/
  | clz (d : VReg) (a : VReg)
  /-- CTZ (R120): Count of trailing zeros per lane. -/
  | ctz (d : VReg) (a : VReg)
  /-- BREV (R120): Bit reversal per lane. -/
  | brev (d : VReg) (a : VReg)
  /-- BFE (R120): Bit-field extract per lane. -/
  | bfe (d : VReg) (a : VReg) (b : VReg)
  /-- BFI (R120): Bit-field insert per lane. -/
  | bfi (d : VReg) (a : VReg) (b : VReg)
  /-- MOV (R121): Copies a lane register. -/
  | movLane (d : VReg) (a : VReg)
  /-- MOVI (R121): Writes an immediate into a lane register. -/
  | movi (d : VReg) (i : BitVec 8)
  /-- LEA (R121): Computes the 64-bit effective address of a form M operand per lane. -/
  | lea (d : VReg) (k : VReg) (b : BitVec 3)
  /-- IADDI (R121): Adds an immediate per lane. -/
  | iaddi (d : VReg) (a : VReg) (i : BitVec 8)
  /-- SADD (R122): Scalar add. -/
  | sadd (d : SReg) (a : SReg) (b : SReg)
  /-- SSUB (R122): Scalar subtract. -/
  | ssub (d : SReg) (a : SReg) (b : SReg)
  /-- SMUL (R122): Scalar multiply. -/
  | smul (d : SReg) (a : SReg) (b : SReg)
  /-- SAND (R122): Scalar bitwise and. -/
  | sand (d : SReg) (a : SReg) (b : SReg)
  /-- SOR (R122): Scalar bitwise or. -/
  | sor (d : SReg) (a : SReg) (b : SReg)
  /-- SXOR (R122): Scalar bitwise exclusive or. -/
  | sxor (d : SReg) (a : SReg) (b : SReg)
  /-- SSHL (R122): Scalar shift left. -/
  | sshl (d : SReg) (a : SReg) (b : SReg)
  /-- SSHR (R122): Scalar logical shift right. -/
  | sshr (d : SReg) (a : SReg) (b : SReg)
  /-- SCMP (R123): Signed scalar compare writing a predicate in every lane of EM. -/
  | scmp (c : BitVec 3) (p : BitVec 3) (a : SReg) (b : SReg)
  /-- SMOV (R122): Copies a scalar register. -/
  | smov (d : SReg) (a : SReg)
  /-- SMOVI (R122): Writes an immediate or literal into a scalar register or pair. -/
  | smovi (d : SReg) (i : BitVec 8)
  /-- SLEA (R122): Computes a scalar 64-bit address from a base pair and offset. -/
  | slea (d : SReg) (b : BitVec 3)
  /-- VTOS (R122): Copies the lowest active lane's value into a scalar. -/
  | vtos (d : SReg) (a : VReg)
  /-- STOV (R122): Broadcasts a scalar into every lane of EM. -/
  | stov (d : VReg) (a : SReg)
  /-- SMIN (R122): Signed scalar minimum. -/
  | smin (d : SReg) (a : SReg) (b : SReg)
  /-- SMAX (R122): Signed scalar maximum. -/
  | smax (d : SReg) (a : SReg) (b : SReg)
  /-- FADD (R125): Floating-point add per lane. -/
  | fadd (d : VReg) (a : VReg) (b : VReg)
  /-- FSUB (R125): Floating-point subtract per lane. -/
  | fsub (d : VReg) (a : VReg) (b : VReg)
  /-- FMUL (R125): Floating-point multiply per lane. -/
  | fmul (d : VReg) (a : VReg) (b : VReg)
  /-- FFMA (R125): Fused multiply-add into the destination, rounded once. -/
  | ffma (d : VReg) (a : VReg) (b : VReg)
  /-- FMIN (R125): Floating-point minimumNumber per lane. -/
  | fmin (d : VReg) (a : VReg) (b : VReg)
  /-- FMAX (R125): Floating-point maximumNumber per lane. -/
  | fmax (d : VReg) (a : VReg) (b : VReg)
  /-- FABS (R125): Clears the sign bit per lane. -/
  | fabs (d : VReg) (a : VReg)
  /-- FNEG (R125): Inverts the sign bit per lane. -/
  | fneg (d : VReg) (a : VReg)
  /-- FCMP (R126): Floating-point compare writing a predicate. -/
  | fcmp (c : BitVec 3) (p : BitVec 3) (a : VReg) (b : VReg)
  /-- FCLASS (R127): Writes a one-hot class mask per lane. -/
  | fclass (d : VReg) (a : VReg)
  /-- FDIV (R125): Floating-point divide per lane. -/
  | fdiv (d : VReg) (a : VReg) (b : VReg)
  /-- FSQRT (R125): Floating-point square root per lane. -/
  | fsqrt (d : VReg) (a : VReg)
  /-- FRND (R125): Rounds to an integral value per lane. -/
  | frnd (d : VReg) (a : VReg)
  /-- FLDEXP (R125): Scales by a power of two per lane. -/
  | fldexp (d : VReg) (a : VReg) (b : VReg)
  /-- FEXPO (R125): Extracts the unbiased exponent as s32 per lane. -/
  | fexpo (d : VReg) (a : VReg)
  /-- FSGNJ (R125): Takes the sign of B onto A per lane. -/
  | fsgnj (d : VReg) (a : VReg) (b : VReg)
  /-- FRCP (R128): Correctly rounded reciprocal in the special-function unit. -/
  | frcp (d : VReg) (a : VReg)
  /-- FRSQ (R128): Correctly rounded reciprocal square root. -/
  | frsq (d : VReg) (a : VReg)
  /-- FEX2 (R128): Correctly rounded power of two. -/
  | fex2 (d : VReg) (a : VReg)
  /-- FLG2 (R128): Correctly rounded base-2 logarithm. -/
  | flg2 (d : VReg) (a : VReg)
  /-- FSIN (R128): Correctly rounded sine. -/
  | fsin (d : VReg) (a : VReg)
  /-- FCOS (R128): Correctly rounded cosine. -/
  | fcos (d : VReg) (a : VReg)
  /-- FTANH (R128): Correctly rounded hyperbolic tangent. -/
  | ftanh (d : VReg) (a : VReg)
  /-- CVT (R129): Converts from a source type to the MODE type per lane. -/
  | cvt (d : VReg) (a : VReg) (src : BitVec 4)
  /-- CVTI (R130): Converts float to integer with truncation per lane. -/
  | cvti (d : VReg) (a : VReg) (src : BitVec 4)
  /-- PACK (R131): Converts and packs two narrow elements per lane. -/
  | pack (d : VReg) (a : VReg) (b : VReg)
  /-- UNPK (R131): Unpacks narrow elements into consecutive registers. -/
  | unpk (d : VReg) (a : VReg)
  /-- QHIST (R133): Counts active lanes' exponents into a histogram pair. -/
  | qhist (d : VReg) (a : VReg) (b : VReg)
  /-- QSCALE (R134): Chooses an E8 scale from a histogram at a percentile. -/
  | qscale (d : VReg) (a : VReg) (b : VReg)
  /-- QUANT (R135): Quantises each lane's value under its scale word. -/
  | quant (d : VReg) (a : VReg) (b : VReg)
  /-- DEQ (R135): Dequantises each lane's value under its scale word. -/
  | deq (d : VReg) (a : VReg) (b : VReg)
  /-- QCLR (R133): Clears every bin of a histogram pair. -/
  | qclr (d : VReg)
  /-- SHFL (R137): Reads each lane's value from a lane given by a register. -/
  | shfl (d : VReg) (a : VReg) (b : VReg)
  /-- SHFLU (R137): Shuffles from lane l minus n. -/
  | shflu (d : VReg) (a : VReg) (i : BitVec 8)
  /-- SHFLD (R137): Shuffles from lane l plus n. -/
  | shfld (d : VReg) (a : VReg) (i : BitVec 8)
  /-- SHFLX (R137): Shuffles from lane l xor n. -/
  | shflx (d : VReg) (a : VReg) (i : BitVec 8)
  /-- VOTE (R138): Writes all, any or ballot of a predicate over active lanes to a scalar. -/
  | vote (d : SReg) (p : BitVec 3) (i : BitVec 8)
  /-- REDU (R139): Reduces active lanes over a fixed binary tree. -/
  | redu (d : VReg) (a : VReg) (i : BitVec 8)
  /-- SCAN (R140): Inclusive scan over active lanes in five fixed steps. -/
  | scanLanes (d : VReg) (a : VReg) (i : BitVec 8)
  /-- MATCH (R141): Writes the mask of active lanes holding equal bits. -/
  | matchLanes (d : VReg) (a : VReg)
  /-- BCAST (R137): Broadcasts lane n's value. -/
  | bcast (d : VReg) (a : VReg) (i : BitVec 8)
  /-- FIRST (R137): Broadcasts the lowest active lane's value. -/
  | firstLane (d : VReg) (a : VReg)
  /-- LD (R149): Global load per lane with scope and order. -/
  | ldGlobal (d : VReg) (k : VReg) (sc : BitVec 3) (o : BitVec 2) (b : BitVec 3)
  /-- ST (R149): Global store per lane with scope and order. -/
  | stGlobal (d : VReg) (k : VReg) (sc : BitVec 3) (o : BitVec 2) (b : BitVec 3)
  /-- LDX (R150): Loads a memory format and widens it into a 32-bit register. -/
  | ldx (d : VReg) (k : VReg) (sc : BitVec 3) (o : BitVec 2) (b : BitVec 3)
  /-- STX (R150): Narrows a 32-bit register to a memory format and stores it. -/
  | stx (d : VReg) (k : VReg) (sc : BitVec 3) (o : BitVec 2) (b : BitVec 3)
  /-- LDS (R151): Local-store load, interlocked. -/
  | lds (d : VReg) (k : VReg)
  /-- STS (R151): Local-store store. -/
  | sts (d : VReg) (k : VReg)
  /-- LDP (R151): Lane-private load, counted and pending. -/
  | ldp (d : VReg) (k : VReg)
  /-- STP (R151): Lane-private store, counted. -/
  | stp (d : VReg) (k : VReg)
  /-- STN (R153): Stores and parks the line at the level chosen by the reader set. -/
  | stn (d : VReg) (k : VReg) (sc : BitVec 3) (o : BitVec 2) (b : BitVec 3)
  /-- SRSET (R152): Checks and writes the reader-set descriptor RSET. -/
  | srset (k : SReg)
  /-- ATADD (R156): Atomic add returning the old value. -/
  | atadd (d : VReg) (k : VReg) (sc : BitVec 3) (o : BitVec 2) (b : BitVec 3)
  /-- ATMIN (R156): Atomic minimum returning the old value. -/
  | atmin (d : VReg) (k : VReg) (sc : BitVec 3) (o : BitVec 2) (b : BitVec 3)
  /-- ATMAX (R156): Atomic maximum returning the old value. -/
  | atmax (d : VReg) (k : VReg) (sc : BitVec 3) (o : BitVec 2) (b : BitVec 3)
  /-- ATAND (R156): Atomic and returning the old value. -/
  | atand (d : VReg) (k : VReg) (sc : BitVec 3) (o : BitVec 2) (b : BitVec 3)
  /-- ATOR (R156): Atomic or returning the old value. -/
  | ator (d : VReg) (k : VReg) (sc : BitVec 3) (o : BitVec 2) (b : BitVec 3)
  /-- ATXOR (R156): Atomic exclusive or returning the old value. -/
  | atxor (d : VReg) (k : VReg) (sc : BitVec 3) (o : BitVec 2) (b : BitVec 3)
  /-- ATXCH (R156): Atomic exchange. -/
  | atxch (d : VReg) (k : VReg) (sc : BitVec 3) (o : BitVec 2) (b : BitVec 3)
  /-- ATCAS (R156): Atomic compare and swap. -/
  | atcas (d : VReg) (k : VReg) (sc : BitVec 3) (o : BitVec 2) (b : BitVec 3)
  /-- REDADD (R156): Reduction add at memory, returning nothing. -/
  | redadd (d : VReg) (k : VReg) (sc : BitVec 3) (o : BitVec 2) (b : BitVec 3)
  /-- REDMIN (R156): Reduction minimum at memory. -/
  | redmin (d : VReg) (k : VReg) (sc : BitVec 3) (o : BitVec 2) (b : BitVec 3)
  /-- REDMAX (R156): Reduction maximum at memory. -/
  | redmax (d : VReg) (k : VReg) (sc : BitVec 3) (o : BitVec 2) (b : BitVec 3)
  /-- FENCE (R157): Fence with scope and order, optionally sequentially consistent. -/
  | fence (sc : BitVec 3) (o : BitVec 2) (seq : Bool)
  /-- OFENCE (R158): Fence acting on one coherence object. -/
  | ofence (sc : BitVec 3) (o : BitVec 2) (b : BitVec 3)
  /-- RFLUSH (R159): Writes dirty copies of a range home and unparks its lines. -/
  | rflush (n : SReg) (b : BitVec 3)
  /-- RINV (R159): Invalidates clean non-home copies of a range on the issuing die. -/
  | rinv (n : SReg) (b : BitVec 3)
  /-- PFETCH (R160): Prefetches each lane's line into L1. -/
  | pfetch (k : VReg) (b : BitVec 3)
  /-- LOCATE (R161): Widens the reader set of parked lines to include the issuer. -/
  | locate (k : VReg) (b : BitVec 3)
  /-- REPARK (R159): Moves parked lines of a range to the level for RSET. -/
  | repark (n : SReg) (b : BitVec 3)
  /-- UNPARK (R159): Demotes parked lines of a range to home. -/
  | unpark (n : SReg) (b : BitVec 3)
  /-- OBJDEF (R163): Defines or changes the state of a coherence object from a shape record. -/
  | objdef (n : SReg) (b : BitVec 3)
  /-- OBJDEL (R164): Removes a coherence object after writing back and unparking its lines. -/
  | objdel (n : SReg)
  /-- PCOMMIT (R165): Asks Tuber to commit a run of sparse tiles. -/
  | pcommit (n : SReg) (b : BitVec 3)
  /-- PDECOMMIT (R165): Asks Tuber to decommit a run of sparse tiles. -/
  | pdecommit (n : SReg) (b : BitVec 3)
  /-- ALLOC (R166): Asks Tuber for a heap block of a size class. -/
  | allocBlock (n : SReg)
  /-- FREE (R166): Returns a heap block to Tuber with a device-scope release. -/
  | freeBlock (n : SReg)
  /-- PQUERY (R165): Asks Tuber for the state of one tile. -/
  | pquery (n : SReg) (b : BitVec 3)
  /-- TCOPY (R171): Starts a tensor box copy between global memory and local store or a scale FIFO. -/
  | tcopy (d : SReg) (a : SReg) (b : SReg)
  /-- TCOPYM (R171): Starts a tensor box load into several cluster members' windows. -/
  | tcopym (d : SReg) (a : SReg) (b : SReg)
  /-- CHAIN (R174): Starts a memory-to-memory element-wise chain. -/
  | chain (d : SReg) (a : SReg)
  /-- BBINIT (R177): Opens a new byte-barrier generation with an expected count. -/
  | bbinit (a : SReg) (b : SReg)
  /-- BBEXP (R177): Adds to a byte barrier's expected count. -/
  | bbexp (a : SReg) (b : SReg)
  /-- BBWAIT (R177): Waits for a byte-barrier generation and writes its status. -/
  | bbwait (d : SReg) (a : SReg)
  /-- BBINV (R177): Ends a byte-barrier generation as invalidated. -/
  | bbinv (a : SReg)
  /-- BBARR (R177): Arrives at a byte barrier with a byte count, as a release. -/
  | bbarr (a : SReg) (b : SReg)
  /-- RINIT (R180): Initialises a stage ring. -/
  | rinit (a : SReg)
  /-- RACQ (R180): Acquires the next free slot of a ring for a producer. -/
  | racq (d : SReg) (a : SReg)
  /-- RPUB (R180): Publishes an acquired slot with its header. -/
  | rpub (d : SReg) (a : SReg) (b : SReg)
  /-- RTAKE (R180): Takes the next full slot of a ring for a consumer. -/
  | rtake (d : SReg) (a : SReg)
  /-- RDONE (R180): Releases a taken slot. -/
  | rdone (a : SReg) (b : SReg)
  /-- RCLOSE (R180): Closes a ring and releases its waiters. -/
  | rclose (a : SReg)
  /-- SPUSH (R182): Pushes a scale batch into a scale FIFO of the matrix stream. -/
  | spush (a : SReg) (b : SReg)
  /-- MMA_64_64_64 (R192): Matrix product 64x64 with base K 64, accumulating block sums. -/
  | mma64x64x64 (z : BitVec 8) (r : Bool) (x : BitVec 3) (m : BitVec 4)
  /-- MMA_64_128_64 (R192): Matrix product 64x128 with base K 64. -/
  | mma64x128x64 (z : BitVec 8) (r : Bool) (x : BitVec 3) (m : BitVec 4)
  /-- MMA_128_128_64 (R192): Matrix product 128x128 with base K 64. -/
  | mma128x128x64 (z : BitVec 8) (r : Bool) (x : BitVec 3) (m : BitVec 4)
  /-- MMA_128_64_128 (R192): Matrix product 128x64 with base K 128. -/
  | mma128x64x128 (z : BitVec 8) (r : Bool) (x : BitVec 3) (m : BitVec 4)
  /-- FBSET (R187): Sets the format-block register. -/
  | fbset (m : BitVec 4)
  /-- XLD (R188): Loads 8 KiB of local store into an operand tile. -/
  | xld (x : BitVec 3) (m : BitVec 4)
  /-- XLDR (R188): Loads the oldest taken ring slot's payload into an operand tile. -/
  | xldr (x : BitVec 3) (m : BitVec 4)
  /-- ZCLR (R195): Zeroes and closes a range of accumulator tiles. -/
  | zclr (z : BitVec 8) (m : BitVec 4)
  /-- ZCVT (R197): Converts an accumulator tile between s32 and f32 with scaling. -/
  | zcvt (z : BitVec 8) (m : BitVec 4)
  /-- ZST (R196): Stores an accumulator tile to local store. -/
  | zst (z : BitVec 8) (m : BitVec 4)
  /-- ZLD (R196): Loads an accumulator tile from local store. -/
  | zld (z : BitVec 8) (m : BitVec 4)
  /-- ZADD (R197): Adds a source accumulator tile into a destination tile. -/
  | zadd (z : BitVec 8) (m : BitVec 4)
  /-- ZSCL (R197): Scales an accumulator tile by a power of two. -/
  | zscl (z : BitVec 8) (m : BitVec 4)
  /-- LIT (R66): Supplies a 32- or 64-bit literal to the following consumer, which it forms one instruction with. -/
  | lit (wide : Bool) (v : BitVec 64)
  /-- LOAD_RESULT_RETURN (R47): A load, atomic or engine result returns, is written to its pending register and LDC falls. -/
  | loadResultReturn (g : Nat) (ch : Nat)
  /-- STORE_ACK (R243): A store, reduction or range operation is acknowledged to its sender and STC falls. -/
  | storeAck (g : Nat) (ix : Nat) (ch : Nat)
  /-- TUBER_ANSWER (R165): Tuber answers a tile or heap operation, writing any result and lowering TLC. -/
  | tuberAnswer (g : Nat) (ch : Nat)
  /-- OBJECT_TABLE_ANSWER (R163): The object table answers an OBJDEF or OBJDEL after the write-backs it needs. -/
  | objectTableAnswer (g : Nat)
  /-- SFU_RESULT_WRITE (R48): A special-function result leaves the in-order queue and is written to its register. -/
  | sfuResultWrite (g : Nat)
  /-- LOCATE_FAULT_DETECT (R145): An access finds a parked line whose set excludes it and raises the locate fault after issue. -/
  | locateFaultDetect (g : Nat) (f : Nat)
  /-- COPY_PIECE_TRANSFER (R171): The copy engine translates a piece, claims and writes its lines and sends its 16-byte arrivals to the byte barrier. -/
  | copyPieceTransfer (c : Nat) (n : Nat) (ch : Nat)
  /-- COPY_COMPLETE (R171): A copy or chain ends, writes its status word, enters a scale batch and lets CBD advance. -/
  | copyComplete (c : Nat)
  /-- SNOOZE_EXPIRY (R96): A snoozing fragment's cycle count runs out and it becomes ready. -/
  | snoozeExpiry (g : Nat) (f : Nat)
  /-- YIELD_EXPIRY (R96): A yielding fragment becomes ready after others have issued or 64 cycles pass. -/
  | yieldExpiry (g : Nat) (f : Nat)
  /-- ISSUE_AGE_PROMOTION (R281): A ready fragment not issued for 256 cycles joins the promoted set. -/
  | issueAgePromotion (g : Nat) (f : Nat)
  /-- ISSUE_SLOT (R281): An issue slot takes one ready fragment by promotion, class and age. -/
  | issueSlot (core : Nat) (seq : Bool) (ch : Nat)
  /-- PACKET_AGE_PROMOTION (R284): A queued loop packet reaches age 512 and is promoted. -/
  | packetAgePromotion (l : Nat) (n : Nat)
  /-- LOOP_SLOT_PASS (R284): A loop slot passes a node, which injects, reserves or lets it pass. -/
  | loopSlotPass (l : Nat) (n : Nat) (sl : Nat) (k : Nat) (offer : Option (Nat × Bool × Nat))
  /-- PACKET_ARRIVAL (R285): A packet reaches its destination and is ejected, sent round again, or placed in the last-chance entry. -/
  | packetArrival (l : Nat) (sl : Nat) (came : Arrival)
  /-- LAST_CHANCE_DRAIN (R285): The node drains the last-chance entry in the next loop cycle. -/
  | lastChanceDrain (l : Nat) (n : Nat) (bulk : Bool)
  /-- FLIT_RECEIVE (R319): A receiver checks a flit's CRC, discards bad or duplicate packets, and acknowledges good ones. -/
  | flitReceive (l : Nat) (pkt : PktId) (crcOk : Bool) (acked : Bool)
  /-- RETRANSMIT_TIMEOUT (R319): An unacknowledged packet is retransmitted after 4,096 loop cycles, marking the link failed after eight tries. -/
  | retransmitTimeout (l : Nat) (pkt : PktId)
  /-- ECC_ERROR_DETECTED (R317): A storage error is corrected and counted, poisons the word or line, or raises a device error. -/
  | eccErrorDetected (site : EccSite)
  /-- COLLAPSE_REQUEST (R304): The coordinator takes a collapse request for a tile and asks every holder to split. -/
  | collapseRequest (asid : Nat) (va : Nat)
  /-- COLLAPSE_SPLIT (R304): A holder marks its leaf collapsing, splits it into 64 KiB leaves, makes the tile single and acknowledges. -/
  | collapseSplit (asid : Nat) (va : Nat) (dev : Nat) (frame : Nat) (ch : Nat)
  /-- COLLAPSE_ACK (R304): When every holder has acknowledged, the writer's Tuber replays the held write. -/
  | collapseAck (asid : Nat) (va : Nat) (dev : Nat) (failed : Bool)
  /-- LAUNCH_DISPATCH (R276): The scheduler places a dispatchable head's next cluster or whole grid, pre-empting lower classes if needed. -/
  | launchDispatch (pl : List PlaceAt) (back : Option Nat)
  /-- WAIT_WORD_POLL (R275): The scheduler reads a head launch's wait words at least once per microsecond. -/
  | waitWordPoll (q : Nat)
  /-- HEAD_RESERVE_TIMEOUT (R276): A class 0 or 1 head lacking room for 100 us reserves the dies it fits. -/
  | headReserveTimeout (l : Nat)
  /-- TT_RELEASE (R280): Device time reaches NEXT of an enabled entry, which releases or skips its launch. -/
  | ttRelease (e : Nat)
  /-- MIGRATION_DISPATCH (R283): The migration queue serves an entry and starts moving the team to a chosen core. -/
  | migrationDispatch (core : Nat) (bal : Option Nat)
  /-- MIGRATION_AGE_TIMEOUT (R283): A migration entry that has waited 100 us is served ahead of later entries. -/
  | migrationAgeTimeout (t : Nat)
  /-- MIGRATION_COMPLETE (R103): The state-mapping table is applied and each group resumes past the point on the destination core. -/
  | migrationComplete (t : Nat)
  /-- PREEMPT_HALT (R314): The named teams stop at instruction boundaries, abandoning waits and draining SFU queues. -/
  | preemptHalt (t : Nat)
  /-- PREEMPT_SAVE_COMPLETE (R315): The team's image becomes complete after outstanding results, stores and copies are folded in. -/
  | preemptSaveComplete (t : Nat)
  /-- MAILBOX_HEAD_WRITE (R330): The host writes HEAD to ring the doorbell, ignored with ERR if out of range. -/
  | mailboxHeadWrite (fn : Nat) (v : BitVec 16)
  /-- MAILBOX_CTAIL_WRITE (R330): The host consumes completions by writing CTAIL, ignored with ERR if invalid. -/
  | mailboxCtailWrite (fn : Nat) (v : BitVec 16)
  /-- MAILBOX_ENTRY_TAKE (R330): The device takes a 64-byte command entry from the ring when completion room allows. -/
  | mailboxEntryTake (fn : Nat)
  /-- COMPLETION_WRITE (R330): The device writes a completion with its phase bit and raises MSI-X. -/
  | completionWrite (fn : Nat)
  /-- SYS_EXIT (R331): System call 0: exit. -/
  | sysExit (who : Caller) (a0 : Nat)
  /-- SYS_LOG (R331): System call 1: log bytes. -/
  | sysLog (who : Caller) (a0 : Nat) (a1 : Nat)
  /-- SYS_MAP (R331): System call 2: map a range with leaf attributes. -/
  | sysMap (who : Caller) (a0 : Nat) (a1 : Nat) (a2 : Nat) (frames : List Nat)
  /-- SYS_UNMAP (R331): System call 3: unmap a range. -/
  | sysUnmap (who : Caller) (a0 : Nat) (a1 : Nat)
  /-- SYS_LAUNCH (R332): System call 4: fill a launch record and queue it. -/
  | sysLaunch (who : Caller) (a0 : Nat) (a1 : Nat) (a2 : Nat) (a3 : Nat) (dest : Nat)
  /-- SYS_WAIT (R331): System call 5: wait for a launch or a timeout. -/
  | sysWait (who : Caller) (a0 : Nat) (a1 : Nat)
  /-- SYS_POOL (R331): System call 6: add frames to the commit pool. -/
  | sysPool (who : Caller) (a0 : Nat) (frames : List Nat)
  /-- SYS_TTSET (R331): System call 7: set a time-triggered entry. -/
  | sysTtset (who : Caller) (a0 : Nat) (a1 : Nat) (a2 : Nat) (a3 : Nat)
  /-- SYS_DTPAGE (R341): System call 8: return the Devicetree page address. -/
  | sysDtpage (who : Caller) (va : Nat) (frames : List Nat) (cut : DtCut)
  /-- SYS_ATTEST (R331): System call 9: produce an attestation report. -/
  | sysAttest (who : Caller) (a0 : Nat) (a1 : Nat)
  /-- SYS_RECORD (R332): System call 10: build a launch record without queueing it. -/
  | sysRecord (who : Caller) (a0 : Nat) (a1 : Nat) (a2 : Nat) (a3 : Nat)
  /-- SYS_WAIT_TIMEOUT (R331): A wait call's timeout expires and it returns 1. -/
  | sysWaitTimeout (who : Caller)
  /-- QUEUE_TABLE_WRITE (R336): Writes a queue-table entry, discarded if it changes ASID or class while launches are pending. -/
  | queueTableWrite (q : Nat) (v : BitVec 128)
  /-- TT_ENTRY_WRITE (R280): Writes a time-triggered entry, taking effect at the next release. -/
  | ttEntryWrite (e : Nat) (v : BitVec 256)
  /-- ASID_DESCRIPTOR_WRITE (R292): Writes an ASID descriptor, effective after the next invalidation, with BADFREE cleared on write. -/
  | asidDescriptorWrite (a : Nat) (v : BitVec 256) (badfree : Bool)
  /-- POOL_FEED (R334): Adds a frame to a context's commit pool, discarded if held or owned by a foreign key. -/
  | poolFeed (v : BitVec 64)
  /-- INVALIDATE_GO (R335): Starts a translation invalidation of a range or whole ASID. -/
  | invalidateGo (v : BitVec 64)
  /-- INVALIDATE_DONE (R299): Every translation cache has dropped the range; BUSY clears and the stewards are interrupted. -/
  | invalidateDone
  /-- SCHED_PREEMPT (R337): Scheduler command 0: pre-empt and save the named clusters. -/
  | schedPreempt
  /-- SCHED_RESTORE (R337): Scheduler command 1: place and resume saved teams. -/
  | schedRestore
  /-- SCHED_RESUME_REPLAY (R337): Scheduler command 2: resume a suspended group or stream with replay. -/
  | schedResumeReplay
  /-- SCHED_RESUME_SKIP (R337): Scheduler command 3: resume a suspended group or stream with skip. -/
  | schedResumeSkip
  /-- SCHED_END_LAUNCH (R337): Scheduler command 4: end the launch. -/
  | schedEndLaunch
  /-- SCHED_CMD_RESERVED (R337): A reserved scheduler command code completes with result 4. -/
  | schedCmdReserved (c : BitVec 4)
  /-- SCHED_CMD_DONE (R337): A scheduler command completes, writing RESULT and clearing BUSY. -/
  | schedCmdDone
  /-- FAULT_QUEUE_TAIL_WRITE (R338): The resident OS consumes reports, letting held reports be written. -/
  | faultQueueTailWrite (v : VReg)
  /-- PLIM_WRITE (R350): Management writes the power limit, discarded outside 1,200 to 3,600 W. -/
  | plimWrite (v : BitVec 16)
  /-- REGISTER_WRITE (R3): Write to a register without behaviour of its own, obeying its access codes. -/
  | registerWrite (r : Reg) (v : BitVec 64)
  /-- SPDM_REQUEST (R307): Shallot answers an SPDM 1.3 attestation message. -/
  | spdmRequest (nonce : Nat)
  /-- PTP_MESSAGE (R349): An IEEE 1588 message disciplines device time by slewing. -/
  | ptpMessage (offset : Int)
  /-- MAIN_SUPPLY_ON (R340): Main supply appears or reset ends and the boot order runs. -/
  | mainSupplyOn (fl : FlashState)
  /-- MAIN_SUPPLY_OFF (R346): Main supply is lost and the module enters OFF. -/
  | mainSupplyOff
  /-- IDLE_REQUEST (R346): The resident OS requests IDLE or ON. -/
  | idleRequest (on : Bool)
  /-- IDLE_ENTER (R346): The module enters IDLE once no team is resident. -/
  | idleEnter
  /-- POWER_OVER_LIMIT (R347): Measured power exceeds PLIM and MMA starts and throttled classes are delayed. -/
  | powerOverLimit (watts : Nat)
  /-- JUNCTION_OVER_95C (R348): A junction exceeds 95 C and the module throttles. -/
  | junctionOver95c (die : Nat) (temp : Nat)
  /-- THERMAL_TRIP (R348): A junction reaches 105 C or a supply trips and the module enters HOLD. -/
  | thermalTrip (cause : TripCause)
  /-- COOLANT_FLOW_TIMEOUT (R348): Coolant flow below 2.0 L/min for 1 s puts the module in HOLD. -/
  | coolantFlowTimeout
  /-- SUPPLY_SAG_TRIP (R321): A supply-sag detector trips and the die's clocks stretch. -/
  | supplySagTrip (die : Nat)
  /-- UNLISTED_OPCODE (R73): A fetched word that no instruction's encoding accepts is issued and raises the illegal-instruction fault. This covers an unlisted opcode, a reserved field value, and SETM, SETMS or LIT in the Radish encoding; a matrix opcode on a Radish core raises the role fault instead. -/
  | unlistedOpcode (rad : Bool) (w : BitVec 64)
  /-- STEWARD_CORE_ACCESS (R353): A steward core load, store, LR/SC, AMO or FENCE acts on device memory at system scope. -/
  | stewardCoreAccess (st : Nat) (acc : StewardAccess) (ch : Nat)
  /-- SHALLOT_REQUEST (R305): At the resident OS's request, Shallot generates or replaces a key, gives it to an ASID, assigns frames to a key or returns them to key 0 with a zero-fill, or sets CONF. -/
  | shallotRequest (rq : ShallotReq)
  /-- BUNDLE_LOAD (R343): The resident OS loads a Jallas bundle, checking the ELF, the eqmap tables, the launch records and the errata, and refuses the whole bundle on the first failure. -/
  | bundleLoad (asid : Nat) (bd : Bundle)
  /-- GRANDMASTER_LOST (R349): The IEEE 1588 grandmaster stops being heard, SYNC drops to 0 and device time runs free from the oscillator. -/
  | grandmasterLost
  /-- POWER_WITHIN_LIMIT (R347): The 1 ms average power falls back to PLIM or below, and MMA delays and issue withholding stop. -/
  | powerWithinLimit (watts : Nat)
  /-- JUNCTION_BELOW_95C (R348): Every junction returns to 95 C or below, ending the temperature-driven throttling. -/
  | junctionBelow95c (temp : Nat)
  /-- SUPPLY_SAG_CLEAR (R321): The die's supply-sag detectors clear and its clocks stop stretching. -/
  | supplySagClear (die : Nat)
  /-- COOLANT_FLOW_CHANGE (R348): Coolant flow crosses 2.0 L/min, which starts or cancels the 1 s count toward HOLD. -/
  | coolantFlowChange (low : Bool) (inlet : Nat)
  /-- MMA_COMPLETE (R198): A matrix-unit operation or a stream transfer on the local-store port finishes its cycles, freeing the unit or port. This releases later stream instructions and BAR waits, and lets pre-emption halt the stream. -/
  | mmaComplete (t : Nat)
  /-- NOP_RADISH (R84): Radish 64-bit form of NOP. -/
  | nopRadish (w : BitVec 13)
  /-- GETM_RADISH (R84): Radish form of GETM, returning the MODE its word loaded. -/
  | getmRadish (w : BitVec 13) (k : SReg)
  /-- BRA_RADISH (R85): Radish form of BRA with offset in the low half. -/
  | braRadish (w : BitVec 13) (h : BitVec 2) (off : RImm)
  /-- BRD_RADISH (R86): Radish form of BRD. -/
  | brdRadish (w : BitVec 13) (h : BitVec 2) (p : BitVec 3) (inv : Bool) (off : RImm)
  /-- BRX_RADISH (R87): Radish form of BRX with 8-byte table words. -/
  | brxRadish (w : BitVec 13) (h : BitVec 2) (v : VReg) (tbl : List (BitVec 64))
  /-- CALL_RADISH (R88): Radish form of CALL. -/
  | callAddrRadish (w : BitVec 13) (b : BitVec 3) (off : RImm)
  /-- RET_RADISH (R88): Radish form of RET. -/
  | retRadish (w : BitVec 13) (b : BitVec 3)
  /-- MARK_RADISH (R91): Radish form of MARK. -/
  | markJoinRadish (w : BitVec 13) (off : RImm)
  /-- JOIN_RADISH (R91): Radish form of JOIN. -/
  | joinFragsRadish (w : BitVec 13)
  /-- PPUSH_RADISH (R92): Radish form of PPUSH. -/
  | ppushRadish (w : BitVec 13) (p : BitVec 3)
  /-- PINV_RADISH (R92): Radish form of PINV. -/
  | pinvRadish (w : BitVec 13)
  /-- PPOP_RADISH (R92): Radish form of PPOP. -/
  | ppopRadish (w : BitVec 13)
  /-- EMRD_RADISH (R93): Radish form of EMRD. -/
  | emrdRadish (w : BitVec 13) (k : SReg)
  /-- EMWR_RADISH (R93): Radish form of EMWR. -/
  | emwrRadish (w : BitVec 13) (k : SReg)
  /-- WAITC_RADISH (R94): Radish form of WAITC. -/
  | waitcRadish (w : BitVec 13) (a : BitVec 6) (b : BitVec 6) (c : BitVec 4) (d : BitVec 4)
  /-- CBATCH_RADISH (R95): Radish form of CBATCH. -/
  | cbatchRadish (w : BitVec 13)
  /-- WAITB_RADISH (R95): Radish form of WAITB. -/
  | waitbRadish (w : BitVec 13) (n : BitVec 16)
  /-- BAR_RADISH (R98): Radish form of BAR. -/
  | barRadish (w : BitVec 13) (c : BitVec 2) (i : BitVec 4)
  /-- BARA_RADISH (R98): Radish form of BARA. -/
  | baraRadish (w : BitVec 13) (c : BitVec 2) (i : BitVec 4)
  /-- BARW_RADISH (R98): Radish form of BARW. -/
  | barwRadish (w : BitVec 13) (c : BitVec 2) (i : BitVec 4)
  /-- DRAIN_RADISH (R98): Radish form of DRAIN. -/
  | drainRadish (w : BitVec 13) (c : BitVec 2) (i : BitVec 4)
  /-- EQP_RADISH (R101): Radish form of EQP. -/
  | eqpRadish (w : BitVec 13) (n : BitVec 16)
  /-- MIGR_RADISH (R102): Radish form of MIGR. -/
  | migrTeamRadish (w : BitVec 13) (cls : Bool) (n : BitVec 16)
  /-- ROLESW_RADISH (R105): Radish form of ROLESW. -/
  | roleswRadish (w : BitVec 13) (i : BitVec 3)
  /-- YIELD_RADISH (R96): Radish form of YIELD. -/
  | yieldIssueRadish (w : BitVec 13)
  /-- EXIT_RADISH (R106): Radish form of EXIT. -/
  | exitFragRadish (w : BitVec 13)
  /-- TRAP_RADISH (R109): Radish form of TRAP. -/
  | trapCodeRadish (w : BitVec 13) (c : BitVec 16)
  /-- XRET_RADISH (R110): Radish form of XRET. -/
  | xretRadish (w : BitVec 13) (skip : Bool)
  /-- XRD_RADISH (R111): Radish form of XRD. -/
  | xrdRadish (w : BitVec 13) (k : SReg) (i : BitVec 8)
  /-- XWR_RADISH (R111): Radish form of XWR. -/
  | xwrRadish (w : BitVec 13) (k : SReg) (i : BitVec 8)
  /-- SREAD_RADISH (R112): Radish form of SREAD. -/
  | sreadRadish (w : BitVec 13) (k : SReg) (i : BitVec 8)
  /-- LAUNCH_RADISH (R107): Radish form of LAUNCH. -/
  | launchQueueRadish (w : BitVec 13) (b : BitVec 3)
  /-- IFENCE_RADISH (R108): Radish form of IFENCE. -/
  | ifenceRadish (w : BitVec 13)
  /-- CPREF_RADISH (R90): Radish form of CPREF. -/
  | cprefRadish (w : BitVec 13) (l : BitVec 2) (off : RImm)
  /-- SNOOZE_RADISH (R96): Radish form of SNOOZE. -/
  | snoozeRadish (w : BitVec 13) (n : BitVec 16)
  /-- LOOP_RADISH (R89): Radish form of LOOP. -/
  | loopCountRadish (w : BitVec 13) (k : SReg) (off : RImm)
  /-- IADD_RADISH (R116): Radish form of IADD. -/
  | iaddRadish (w : BitVec 13) (d : VReg) (a : VReg) (b : VReg)
  /-- ISUB_RADISH (R116): Radish form of ISUB. -/
  | isubRadish (w : BitVec 13) (d : VReg) (a : VReg) (b : VReg)
  /-- IMUL_RADISH (R116): Radish form of IMUL. -/
  | imulRadish (w : BitVec 13) (d : VReg) (a : VReg) (b : VReg)
  /-- IMULH_RADISH (R116): Radish form of IMULH. -/
  | imulhRadish (w : BitVec 13) (d : VReg) (a : VReg) (b : VReg)
  /-- IMAD_RADISH (R116): Radish form of IMAD. -/
  | imadRadish (w : BitVec 13) (d : VReg) (a : VReg) (b : VReg)
  /-- IDIV_RADISH (R118): Radish form of IDIV. -/
  | idivRadish (w : BitVec 13) (d : VReg) (a : VReg) (b : VReg)
  /-- IREM_RADISH (R118): Radish form of IREM. -/
  | iremRadish (w : BitVec 13) (d : VReg) (a : VReg) (b : VReg)
  /-- IMIN_RADISH (R116): Radish form of IMIN. -/
  | iminRadish (w : BitVec 13) (d : VReg) (a : VReg) (b : VReg)
  /-- IMAX_RADISH (R116): Radish form of IMAX. -/
  | imaxRadish (w : BitVec 13) (d : VReg) (a : VReg) (b : VReg)
  /-- IABS_RADISH (R116): Radish form of IABS. -/
  | iabsRadish (w : BitVec 13) (d : VReg) (a : VReg)
  /-- INEG_RADISH (R116): Radish form of INEG. -/
  | inegRadish (w : BitVec 13) (d : VReg) (a : VReg)
  /-- IADDC_RADISH (R117): Radish form of IADDC. -/
  | iaddcRadish (w : BitVec 13) (d : VReg) (a : VReg) (b : VReg)
  /-- ICMP_RADISH (R119): Radish form of ICMP. -/
  | icmpRadish (w : BitVec 13) (c : BitVec 3) (p : BitVec 3) (a : VReg) (b : VReg)
  /-- SEL_RADISH (R116): Radish form of SEL. -/
  | selLaneRadish (w : BitVec 13) (d : VReg) (a : VReg) (b : VReg)
  /-- AND_RADISH (R120): Radish form of AND. -/
  | andBitsRadish (w : BitVec 13) (d : VReg) (a : VReg) (b : VReg)
  /-- OR_RADISH (R120): Radish form of OR. -/
  | orBitsRadish (w : BitVec 13) (d : VReg) (a : VReg) (b : VReg)
  /-- XOR_RADISH (R120): Radish form of XOR. -/
  | xorBitsRadish (w : BitVec 13) (d : VReg) (a : VReg) (b : VReg)
  /-- NOT_RADISH (R120): Radish form of NOT. -/
  | notBitsRadish (w : BitVec 13) (d : VReg) (a : VReg)
  /-- SHL_RADISH (R120): Radish form of SHL. -/
  | shlRadish (w : BitVec 13) (d : VReg) (a : VReg) (b : VReg)
  /-- SHR_RADISH (R120): Radish form of SHR. -/
  | shrRadish (w : BitVec 13) (d : VReg) (a : VReg) (b : VReg)
  /-- SAR_RADISH (R120): Radish form of SAR. -/
  | sarRadish (w : BitVec 13) (d : VReg) (a : VReg) (b : VReg)
  /-- ROTL_RADISH (R120): Radish form of ROTL. -/
  | rotlRadish (w : BitVec 13) (d : VReg) (a : VReg) (b : VReg)
  /-- POPC_RADISH (R120): Radish form of POPC. -/
  | popcRadish (w : BitVec 13) (d : VReg) (a : VReg)
  /-- CLZ_RADISH (R120): Radish form of CLZ. -/
  | clzRadish (w : BitVec 13) (d : VReg) (a : VReg)
  /-- CTZ_RADISH (R120): Radish form of CTZ. -/
  | ctzRadish (w : BitVec 13) (d : VReg) (a : VReg)
  /-- BREV_RADISH (R120): Radish form of BREV. -/
  | brevRadish (w : BitVec 13) (d : VReg) (a : VReg)
  /-- BFE_RADISH (R120): Radish form of BFE. -/
  | bfeRadish (w : BitVec 13) (d : VReg) (a : VReg) (b : VReg)
  /-- BFI_RADISH (R120): Radish form of BFI. -/
  | bfiRadish (w : BitVec 13) (d : VReg) (a : VReg) (b : VReg)
  /-- MOV_RADISH (R121): Radish form of MOV. -/
  | movLaneRadish (w : BitVec 13) (d : VReg) (a : VReg)
  /-- MOVI_RADISH (R121): Radish form of MOVI with the immediate in the low half or a literal word. -/
  | moviRadish (w : BitVec 13) (d : VReg) (i : RImm)
  /-- LEA_RADISH (R121): Radish form of LEA. -/
  | leaRadish (w : BitVec 13) (d : VReg) (k : VReg) (b : BitVec 3) (off : RImm)
  /-- IADDI_RADISH (R121): Radish form of IADDI. -/
  | iaddiRadish (w : BitVec 13) (d : VReg) (a : VReg) (i : RImm)
  /-- SADD_RADISH (R122): Radish form of SADD. -/
  | saddRadish (w : BitVec 13) (d : SReg) (a : SReg) (b : SReg)
  /-- SSUB_RADISH (R122): Radish form of SSUB. -/
  | ssubRadish (w : BitVec 13) (d : SReg) (a : SReg) (b : SReg)
  /-- SMUL_RADISH (R122): Radish form of SMUL. -/
  | smulRadish (w : BitVec 13) (d : SReg) (a : SReg) (b : SReg)
  /-- SAND_RADISH (R122): Radish form of SAND. -/
  | sandRadish (w : BitVec 13) (d : SReg) (a : SReg) (b : SReg)
  /-- SOR_RADISH (R122): Radish form of SOR. -/
  | sorRadish (w : BitVec 13) (d : SReg) (a : SReg) (b : SReg)
  /-- SXOR_RADISH (R122): Radish form of SXOR. -/
  | sxorRadish (w : BitVec 13) (d : SReg) (a : SReg) (b : SReg)
  /-- SSHL_RADISH (R122): Radish form of SSHL. -/
  | sshlRadish (w : BitVec 13) (d : SReg) (a : SReg) (b : SReg)
  /-- SSHR_RADISH (R122): Radish form of SSHR. -/
  | sshrRadish (w : BitVec 13) (d : SReg) (a : SReg) (b : SReg)
  /-- SCMP_RADISH (R123): Radish form of SCMP. -/
  | scmpRadish (w : BitVec 13) (c : BitVec 3) (p : BitVec 3) (a : SReg) (b : SReg)
  /-- SMOV_RADISH (R122): Radish form of SMOV. -/
  | smovRadish (w : BitVec 13) (d : SReg) (a : SReg)
  /-- SMOVI_RADISH (R122): Radish form of SMOVI, writing a pair when the low half marks it. -/
  | smoviRadish (w : BitVec 13) (d : SReg) (i : RImm)
  /-- SLEA_RADISH (R122): Radish form of SLEA. -/
  | sleaRadish (w : BitVec 13) (d : SReg) (b : BitVec 3) (off : RImm)
  /-- VTOS_RADISH (R122): Radish form of VTOS. -/
  | vtosRadish (w : BitVec 13) (d : SReg) (a : VReg)
  /-- STOV_RADISH (R122): Radish form of STOV. -/
  | stovRadish (w : BitVec 13) (d : VReg) (a : SReg)
  /-- SMIN_RADISH (R122): Radish form of SMIN. -/
  | sminRadish (w : BitVec 13) (d : SReg) (a : SReg) (b : SReg)
  /-- SMAX_RADISH (R122): Radish form of SMAX. -/
  | smaxRadish (w : BitVec 13) (d : SReg) (a : SReg) (b : SReg)
  /-- FADD_RADISH (R125): Radish form of FADD. -/
  | faddRadish (w : BitVec 13) (d : VReg) (a : VReg) (b : VReg)
  /-- FSUB_RADISH (R125): Radish form of FSUB. -/
  | fsubRadish (w : BitVec 13) (d : VReg) (a : VReg) (b : VReg)
  /-- FMUL_RADISH (R125): Radish form of FMUL. -/
  | fmulRadish (w : BitVec 13) (d : VReg) (a : VReg) (b : VReg)
  /-- FFMA_RADISH (R125): Radish form of FFMA. -/
  | ffmaRadish (w : BitVec 13) (d : VReg) (a : VReg) (b : VReg)
  /-- FMIN_RADISH (R125): Radish form of FMIN. -/
  | fminRadish (w : BitVec 13) (d : VReg) (a : VReg) (b : VReg)
  /-- FMAX_RADISH (R125): Radish form of FMAX. -/
  | fmaxRadish (w : BitVec 13) (d : VReg) (a : VReg) (b : VReg)
  /-- FABS_RADISH (R125): Radish form of FABS. -/
  | fabsRadish (w : BitVec 13) (d : VReg) (a : VReg)
  /-- FNEG_RADISH (R125): Radish form of FNEG. -/
  | fnegRadish (w : BitVec 13) (d : VReg) (a : VReg)
  /-- FCMP_RADISH (R126): Radish form of FCMP. -/
  | fcmpRadish (w : BitVec 13) (c : BitVec 3) (p : BitVec 3) (a : VReg) (b : VReg)
  /-- FCLASS_RADISH (R127): Radish form of FCLASS. -/
  | fclassRadish (w : BitVec 13) (d : VReg) (a : VReg)
  /-- FDIV_RADISH (R125): Radish form of FDIV. -/
  | fdivRadish (w : BitVec 13) (d : VReg) (a : VReg) (b : VReg)
  /-- FSQRT_RADISH (R125): Radish form of FSQRT. -/
  | fsqrtRadish (w : BitVec 13) (d : VReg) (a : VReg)
  /-- FRND_RADISH (R125): Radish form of FRND. -/
  | frndRadish (w : BitVec 13) (d : VReg) (a : VReg)
  /-- FLDEXP_RADISH (R125): Radish form of FLDEXP. -/
  | fldexpRadish (w : BitVec 13) (d : VReg) (a : VReg) (b : VReg)
  /-- FEXPO_RADISH (R125): Radish form of FEXPO. -/
  | fexpoRadish (w : BitVec 13) (d : VReg) (a : VReg)
  /-- FSGNJ_RADISH (R125): Radish form of FSGNJ. -/
  | fsgnjRadish (w : BitVec 13) (d : VReg) (a : VReg) (b : VReg)
  /-- FRCP_RADISH (R128): Radish form of FRCP. -/
  | frcpRadish (w : BitVec 13) (d : VReg) (a : VReg)
  /-- FRSQ_RADISH (R128): Radish form of FRSQ. -/
  | frsqRadish (w : BitVec 13) (d : VReg) (a : VReg)
  /-- FEX2_RADISH (R128): Radish form of FEX2. -/
  | fex2Radish (w : BitVec 13) (d : VReg) (a : VReg)
  /-- FLG2_RADISH (R128): Radish form of FLG2. -/
  | flg2Radish (w : BitVec 13) (d : VReg) (a : VReg)
  /-- FSIN_RADISH (R128): Radish form of FSIN. -/
  | fsinRadish (w : BitVec 13) (d : VReg) (a : VReg)
  /-- FCOS_RADISH (R128): Radish form of FCOS. -/
  | fcosRadish (w : BitVec 13) (d : VReg) (a : VReg)
  /-- FTANH_RADISH (R128): Radish form of FTANH. -/
  | ftanhRadish (w : BitVec 13) (d : VReg) (a : VReg)
  /-- CVT_RADISH (R129): Radish form of CVT. -/
  | cvtRadish (w : BitVec 13) (d : VReg) (a : VReg) (src : BitVec 4)
  /-- CVTI_RADISH (R130): Radish form of CVTI. -/
  | cvtiRadish (w : BitVec 13) (d : VReg) (a : VReg) (src : BitVec 4)
  /-- PACK_RADISH (R131): Radish form of PACK. -/
  | packRadish (w : BitVec 13) (d : VReg) (a : VReg) (b : VReg)
  /-- UNPK_RADISH (R131): Radish form of UNPK. -/
  | unpkRadish (w : BitVec 13) (d : VReg) (a : VReg)
  /-- QHIST_RADISH (R133): Radish form of QHIST. -/
  | qhistRadish (w : BitVec 13) (d : VReg) (a : VReg) (b : VReg)
  /-- QSCALE_RADISH (R134): Radish form of QSCALE. -/
  | qscaleRadish (w : BitVec 13) (d : VReg) (a : VReg) (b : VReg)
  /-- QUANT_RADISH (R135): Radish form of QUANT. -/
  | quantRadish (w : BitVec 13) (d : VReg) (a : VReg) (b : VReg)
  /-- DEQ_RADISH (R135): Radish form of DEQ. -/
  | deqRadish (w : BitVec 13) (d : VReg) (a : VReg) (b : VReg)
  /-- QCLR_RADISH (R133): Radish form of QCLR. -/
  | qclrRadish (w : BitVec 13) (d : VReg)
  /-- SHFL_RADISH (R137): Radish form of SHFL. -/
  | shflRadish (w : BitVec 13) (d : VReg) (a : VReg) (b : VReg)
  /-- SHFLU_RADISH (R137): Radish form of SHFLU. -/
  | shfluRadish (w : BitVec 13) (d : VReg) (a : VReg) (i : RImm)
  /-- SHFLD_RADISH (R137): Radish form of SHFLD. -/
  | shfldRadish (w : BitVec 13) (d : VReg) (a : VReg) (i : RImm)
  /-- SHFLX_RADISH (R137): Radish form of SHFLX. -/
  | shflxRadish (w : BitVec 13) (d : VReg) (a : VReg) (i : RImm)
  /-- VOTE_RADISH (R138): Radish form of VOTE. -/
  | voteRadish (w : BitVec 13) (d : SReg) (p : BitVec 3) (i : RImm)
  /-- REDU_RADISH (R139): Radish form of REDU. -/
  | reduRadish (w : BitVec 13) (d : VReg) (a : VReg) (i : RImm)
  /-- SCAN_RADISH (R140): Radish form of SCAN. -/
  | scanLanesRadish (w : BitVec 13) (d : VReg) (a : VReg) (i : RImm)
  /-- MATCH_RADISH (R141): Radish form of MATCH. -/
  | matchLanesRadish (w : BitVec 13) (d : VReg) (a : VReg)
  /-- BCAST_RADISH (R137): Radish form of BCAST. -/
  | bcastRadish (w : BitVec 13) (d : VReg) (a : VReg) (i : RImm)
  /-- FIRST_RADISH (R137): Radish form of FIRST. -/
  | firstLaneRadish (w : BitVec 13) (d : VReg) (a : VReg)
  /-- LD_RADISH (R149): Radish form of LD with the byte offset in the low half. -/
  | ldGlobalRadish (w : BitVec 13) (d : VReg) (k : VReg) (sc : BitVec 3) (o : BitVec 2) (b : BitVec 3) (off : RImm)
  /-- ST_RADISH (R149): Radish form of ST. -/
  | stGlobalRadish (w : BitVec 13) (d : VReg) (k : VReg) (sc : BitVec 3) (o : BitVec 2) (b : BitVec 3) (off : RImm)
  /-- LDX_RADISH (R150): Radish form of LDX. -/
  | ldxRadish (w : BitVec 13) (d : VReg) (k : VReg) (sc : BitVec 3) (o : BitVec 2) (b : BitVec 3) (off : RImm)
  /-- STX_RADISH (R150): Radish form of STX. -/
  | stxRadish (w : BitVec 13) (d : VReg) (k : VReg) (sc : BitVec 3) (o : BitVec 2) (b : BitVec 3) (off : RImm)
  /-- LDS_RADISH (R151): Radish form of LDS. -/
  | ldsRadish (w : BitVec 13) (d : VReg) (k : VReg) (off : RImm)
  /-- STS_RADISH (R151): Radish form of STS. -/
  | stsRadish (w : BitVec 13) (d : VReg) (k : VReg) (off : RImm)
  /-- LDP_RADISH (R151): Radish form of LDP. -/
  | ldpRadish (w : BitVec 13) (d : VReg) (k : VReg) (off : RImm)
  /-- STP_RADISH (R151): Radish form of STP. -/
  | stpRadish (w : BitVec 13) (d : VReg) (k : VReg) (off : RImm)
  /-- STN_RADISH (R153): Radish form of STN. -/
  | stnRadish (w : BitVec 13) (d : VReg) (k : VReg) (sc : BitVec 3) (o : BitVec 2) (b : BitVec 3) (off : RImm)
  /-- SRSET_RADISH (R152): Radish form of SRSET. -/
  | srsetRadish (w : BitVec 13) (k : SReg)
  /-- ATADD_RADISH (R156): Radish form of ATADD. -/
  | ataddRadish (w : BitVec 13) (d : VReg) (k : VReg) (sc : BitVec 3) (o : BitVec 2) (b : BitVec 3) (off : RImm)
  /-- ATMIN_RADISH (R156): Radish form of ATMIN. -/
  | atminRadish (w : BitVec 13) (d : VReg) (k : VReg) (sc : BitVec 3) (o : BitVec 2) (b : BitVec 3) (off : RImm)
  /-- ATMAX_RADISH (R156): Radish form of ATMAX. -/
  | atmaxRadish (w : BitVec 13) (d : VReg) (k : VReg) (sc : BitVec 3) (o : BitVec 2) (b : BitVec 3) (off : RImm)
  /-- ATAND_RADISH (R156): Radish form of ATAND. -/
  | atandRadish (w : BitVec 13) (d : VReg) (k : VReg) (sc : BitVec 3) (o : BitVec 2) (b : BitVec 3) (off : RImm)
  /-- ATOR_RADISH (R156): Radish form of ATOR. -/
  | atorRadish (w : BitVec 13) (d : VReg) (k : VReg) (sc : BitVec 3) (o : BitVec 2) (b : BitVec 3) (off : RImm)
  /-- ATXOR_RADISH (R156): Radish form of ATXOR. -/
  | atxorRadish (w : BitVec 13) (d : VReg) (k : VReg) (sc : BitVec 3) (o : BitVec 2) (b : BitVec 3) (off : RImm)
  /-- ATXCH_RADISH (R156): Radish form of ATXCH. -/
  | atxchRadish (w : BitVec 13) (d : VReg) (k : VReg) (sc : BitVec 3) (o : BitVec 2) (b : BitVec 3) (off : RImm)
  /-- ATCAS_RADISH (R156): Radish form of ATCAS. -/
  | atcasRadish (w : BitVec 13) (d : VReg) (k : VReg) (sc : BitVec 3) (o : BitVec 2) (b : BitVec 3) (off : RImm)
  /-- REDADD_RADISH (R156): Radish form of REDADD. -/
  | redaddRadish (w : BitVec 13) (d : VReg) (k : VReg) (sc : BitVec 3) (o : BitVec 2) (b : BitVec 3) (off : RImm)
  /-- REDMIN_RADISH (R156): Radish form of REDMIN. -/
  | redminRadish (w : BitVec 13) (d : VReg) (k : VReg) (sc : BitVec 3) (o : BitVec 2) (b : BitVec 3) (off : RImm)
  /-- REDMAX_RADISH (R156): Radish form of REDMAX. -/
  | redmaxRadish (w : BitVec 13) (d : VReg) (k : VReg) (sc : BitVec 3) (o : BitVec 2) (b : BitVec 3) (off : RImm)
  /-- FENCE_RADISH (R157): Radish form of FENCE. -/
  | fenceRadish (w : BitVec 13) (sc : BitVec 3) (o : BitVec 2) (seq : Bool)
  /-- OFENCE_RADISH (R158): Radish form of OFENCE. -/
  | ofenceRadish (w : BitVec 13) (sc : BitVec 3) (o : BitVec 2) (b : BitVec 3)
  /-- RFLUSH_RADISH (R159): Radish form of RFLUSH. -/
  | rflushRadish (w : BitVec 13) (n : SReg) (b : BitVec 3) (off : RImm)
  /-- RINV_RADISH (R159): Radish form of RINV. -/
  | rinvRadish (w : BitVec 13) (n : SReg) (b : BitVec 3) (off : RImm)
  /-- PFETCH_RADISH (R160): Radish form of PFETCH. -/
  | pfetchRadish (w : BitVec 13) (k : VReg) (b : BitVec 3) (off : RImm)
  /-- LOCATE_RADISH (R161): Radish form of LOCATE. -/
  | locateRadish (w : BitVec 13) (k : VReg) (b : BitVec 3) (off : RImm)
  /-- REPARK_RADISH (R159): Radish form of REPARK. -/
  | reparkRadish (w : BitVec 13) (n : SReg) (b : BitVec 3) (off : RImm)
  /-- UNPARK_RADISH (R159): Radish form of UNPARK. -/
  | unparkRadish (w : BitVec 13) (n : SReg) (b : BitVec 3) (off : RImm)
  /-- OBJDEF_RADISH (R163): Radish form of OBJDEF. -/
  | objdefRadish (w : BitVec 13) (n : SReg) (b : BitVec 3)
  /-- OBJDEL_RADISH (R164): Radish form of OBJDEL. -/
  | objdelRadish (w : BitVec 13) (n : SReg)
  /-- PCOMMIT_RADISH (R165): Radish form of PCOMMIT. -/
  | pcommitRadish (w : BitVec 13) (n : SReg) (b : BitVec 3) (off : RImm)
  /-- PDECOMMIT_RADISH (R165): Radish form of PDECOMMIT. -/
  | pdecommitRadish (w : BitVec 13) (n : SReg) (b : BitVec 3) (off : RImm)
  /-- ALLOC_RADISH (R166): Radish form of ALLOC. -/
  | allocBlockRadish (w : BitVec 13) (n : SReg)
  /-- FREE_RADISH (R166): Radish form of FREE. -/
  | freeBlockRadish (w : BitVec 13) (n : SReg)
  /-- PQUERY_RADISH (R165): Radish form of PQUERY. -/
  | pqueryRadish (w : BitVec 13) (n : SReg) (b : BitVec 3) (off : RImm)
  /-- TCOPY_RADISH (R171): Radish form of TCOPY. -/
  | tcopyRadish (w : BitVec 13) (d : SReg) (a : SReg) (b : SReg)
  /-- TCOPYM_RADISH (R171): Radish form of TCOPYM. -/
  | tcopymRadish (w : BitVec 13) (d : SReg) (a : SReg) (b : SReg)
  /-- CHAIN_RADISH (R174): Radish form of CHAIN. -/
  | chainRadish (w : BitVec 13) (d : SReg) (a : SReg)
  /-- BBINIT_RADISH (R177): Radish form of BBINIT. -/
  | bbinitRadish (w : BitVec 13) (a : SReg) (b : SReg)
  /-- BBEXP_RADISH (R177): Radish form of BBEXP. -/
  | bbexpRadish (w : BitVec 13) (a : SReg) (b : SReg)
  /-- BBWAIT_RADISH (R177): Radish form of BBWAIT. -/
  | bbwaitRadish (w : BitVec 13) (d : SReg) (a : SReg)
  /-- BBINV_RADISH (R177): Radish form of BBINV. -/
  | bbinvRadish (w : BitVec 13) (a : SReg)
  /-- BBARR_RADISH (R177): Radish form of BBARR. -/
  | bbarrRadish (w : BitVec 13) (a : SReg) (b : SReg)
  /-- RINIT_RADISH (R180): Radish form of RINIT. -/
  | rinitRadish (w : BitVec 13) (a : SReg)
  /-- RACQ_RADISH (R180): Radish form of RACQ. -/
  | racqRadish (w : BitVec 13) (d : SReg) (a : SReg)
  /-- RPUB_RADISH (R180): Radish form of RPUB. -/
  | rpubRadish (w : BitVec 13) (d : SReg) (a : SReg) (b : SReg)
  /-- RTAKE_RADISH (R180): Radish form of RTAKE. -/
  | rtakeRadish (w : BitVec 13) (d : SReg) (a : SReg)
  /-- RDONE_RADISH (R180): Radish form of RDONE. -/
  | rdoneRadish (w : BitVec 13) (a : SReg) (b : SReg)
  /-- RCLOSE_RADISH (R180): Radish form of RCLOSE. -/
  | rcloseRadish (w : BitVec 13) (a : SReg)
  /-- SPUSH_RADISH (R182): Radish form of SPUSH. -/
  | spushRadish (w : BitVec 13) (a : SReg) (b : SReg)
  deriving DecidableEq, Repr

end Sys2Proof
end

