-- ==== Sys2Proof/Machine/State.lean ====
section
/-! DEFINITION. The state of the device as plain data, the reasons a step can stop, and the state after reset.
Everything the spec gives the machine is a field here (see INVENTORY.md); maps by number are lists of pairs with rising
keys that list no default value, so equal maps are equal data.  Registers no rule gives a reset value hold zero
(assumption 1). -/
set_option linter.all false
namespace Sys2Proof.Machine

/-- Why the machine stops. -/
inductive Fault where
  /-- A steward core's access to a physical address where the spec places neither memory nor a register (R223, R333);
  raised by `execStewardCoreAccess`.  Safe: the machine stops where the spec says nothing is there. -/
  | noMemory (pa : Nat)
  deriving DecidableEq, Repr

/-- Why the machine refuses an instruction. -/
inductive Refusal where
  /-- The instruction has no meaning yet; raised by an arm of `exec`.  Safe. -/
  | notModelled (mnemonic : String)
  deriving DecidableEq, Repr

/-! ### Ordering data (R245 to R256) -/

/-- The instances that contain an agent (R245). `kind` is 0 for an agent of a core, 1 for a steward core, 2 for the host. -/
structure Place where
  kind : Nat
  group : Nat
  team : Nat
  cluster : Nat
  die : Nat
  dev : Nat
  deriving DecidableEq, Repr

/-- A release a write carries: the event that releases, its scope and place, and the object bounds of an OFENCE (R247). -/
structure RelEnt where
  node : Nat
  sc : Nat
  place : Place
  obj : Option (Nat × Nat)
  deriving DecidableEq, Repr

/-- One write of W(x) (R249): bytes from `addr`, performed or not, acknowledged or not, with the releases it publishes, for an
atomic the place of its chain (R254), and, once performed, the bytes that stood there before it. `took` holds the writes that an
atomic returned; `priv` marks a store to lane-private memory that its core's L1 may still hold back (R222). -/
structure WriteRec where
  node : Nat
  agent : Nat
  place : Place
  addr : Nat
  bytes : List Byte
  strong : Bool
  sc : Nat
  done : Bool
  acked : Bool
  rel : List RelEnt
  chain : Option Nat
  old : List Byte
  took : List Nat
  priv : Bool
  deriving DecidableEq, Repr

/-- A load's returned write that a later acquire fence can pair with: the releases it carries and the load's scope (R247). -/
structure PendAcq where
  rel : List RelEnt
  sc : Nat
  deriving DecidableEq, Repr

/-- What the ordering rules keep for one agent: its last event, the releases its later stores publish, the writes it has
observed (R251), what an acquire fence would acquire, and what acquiring loads of it found acknowledged (R253). -/
structure AgentOrd where
  at_ : Option Nat
  relF : List RelEnt
  obs : List (Nat × Nat)
  pend : List PendAcq
  floor : List (Nat × Nat × Nat)
  deriving DecidableEq, Repr

/-- The sequentially consistent fences of one scope instance so far: the last one's event and what came before them (R256). -/
structure ScInst where
  key : Nat × Nat
  node : Nat
  obs : List (Nat × Nat)
  deriving DecidableEq, Repr

/-- The ordering state: for every event so far, by number, the set of events that happen before it (bit a for event a: R248),
each agent's part, the writes, those performed last first, and the orders of sequentially consistent fences. -/
structure Ord where
  past : Array Nat
  /-- the same for bytes of local-store windows, by the edges that R220 lists -/
  wpast : Array Nat
  /-- for events that acquire for one object or block only: its bounds and an event that counts as before for its bytes (R158, R166) -/
  lim : List (Nat × List (Nat × Nat × Nat))
  agents : List (Nat × AgentOrd)
  writes : List WriteRec
  sc : List ScInst
  /-- what acquiring loads returned: byte, load, write (R262) -/
  acqObs : List (Nat × Nat × Nat)
  /-- atomics and reductions issued and not performed: event, first byte, bytes (R249, R250, R254) -/
  pendAt : List (Nat × Nat × Nat)
  deriving DecidableEq, Repr

/-! ### Groups -/

/-- A literal that a LIT holds for its consumer (R66, R67). -/
structure Lit where
  val : DWord
  wide : Bool
  pc : DWord
  deriving DecidableEq, Repr

/-- What a fragment waits for at issue (R281). The instruction it waits in has not issued; it issues again when it can
(DESIGN CHOICE, log 9). -/
inductive Wait where
  | run
  | ctr (a b c d : Nat)
  | batch (n : BitVec 16)
  | lag
  | full (counter : Nat)
  | stores
  | copies
  | phase (cls idx ph : Nat)
  | nextPhase (cls idx ph : Nat)
  | join (j : Nat)
  | snooze (since n : Nat)
  | yield (since : Nat) (others : List (Nat × Nat))
  | bbar (off gen : Nat) (rel : Option Nat)
  | ring (off : Nat) (take : Bool) (order : Nat)
  /-- a waiting RACQ or RTAKE that RCLOSE has served with 0xFFFF_FFFF (R180) -/
  | closed
  | migr (cls : Bool) (n : BitVec 16)
  /-- the fragment whose access is held at a parked line -/
  | locate (fid : Nat)
  | release
  /-- an acquire of the group is outstanding: a later access performs after it (R147) -/
  | acquire
  | engine
  | fifo (sb : Bool)
  | queue (q : Nat)
  | object
  | sfu
  /-- a stream: the matrix unit runs an earlier operation (R198) -/
  | matrix
  /-- a stream: an MMA waits for a batch in each FIFO (R192) -/
  | scales
  /-- a write held for collapse: the lanes that it holds with their addresses (R304) -/
  | collapse (asid : Nat) (ls : List (Nat × Nat))
  deriving DecidableEq, Repr

/-- A fragment of a group (R52). The predicate stack's top is its head. -/
structure Frag where
  em : Lanes
  pc : DWord
  stack : List Lanes
  inner : Option Nat
  wait : Wait
  /-- core cycles it has been ready and not issued (R281) -/
  age : Nat
  /-- not issued for 256 cycles while ready (R281) -/
  promoted : Bool
  lit : Option Lit
  /-- lanes an XRET replay of a store or atomic still serves (R110) -/
  replay : Option Lanes
  /-- counts what it has done: an access of it can fault precisely while it has gone no further (R308) (DEDUCED, log 51) -/
  did : Nat
  deriving DecidableEq, Repr

/-- A join record (R52). -/
structure Join where
  target : DWord
  arrived : Lanes
  stack : List Lanes
  parent : Option Nat
  deriving DecidableEq, Repr

/-- One lane's access of a memory operation: lane, virtual and physical address (device-qualified), and its event. -/
structure LaneAcc where
  lane : Nat
  va : Nat
  pa : Nat
  node : Nat
  deriving DecidableEq, Repr

/-- What an operation of the load queue does when it returns. -/
inductive LoadKind where
  /-- `ext` is LDX's extension by type code -/
  | load (ext : Bool)
  | atomic (op : Nat)
  | pfetch
  | locate
  /-- a ring result, already served (R180) -/
  | result (val : Word)
  deriving DecidableEq, Repr

/-- An outstanding operation counted in LDC (R47). `file` and `reg` name its destination; `opv` holds the lanes' operands. -/
structure LoadOp where
  seq : Nat
  frag : Nat
  kind : LoadKind
  ty : Nat
  width : Nat
  sc : Nat
  ord : Nat
  strong : Bool
  dst : Option (Nat × Nat)
  accs : List LaneAcc
  opv : List (Nat × Nat × Nat)
  /-- acquire fences issued while it was outstanding: lane, event, scope, and the object of an OFENCE -/
  acqFences : List (Nat × Nat × Nat × Option (Nat × Nat))
  /-- an atomic performs only once stores with a smaller number are acknowledged: the last release fence (R147) -/
  after : Nat
  /-- the lanes that issued it -/
  em : Lanes
  /-- the lanes whose page has CACHE 2, by the translation that each used (R296, R299) -/
  two : Lanes
  /-- its instruction's address, and what its fragment had done just after it: what a precise fault needs (R308) -/
  pc : DWord
  did : Nat
  deriving DecidableEq, Repr

inductive StoreKind where
  | store
  | stn (desc : Word)
  | red (op : Nat)
  | range (op : Nat) (desc : Word) (a n : Nat)
  deriving DecidableEq, Repr

/-- An outstanding operation counted in STC (R47, R243). -/
structure StoreOp where
  seq : Nat
  frag : Nat
  kind : StoreKind
  ty : Nat
  width : Nat
  sc : Nat
  ord : Nat
  strong : Bool
  accs : List LaneAcc
  opv : List (Nat × Nat × Nat)
  /-- stores with a smaller number must be acknowledged first: the last release fence (R147) -/
  after : Nat
  /-- the lanes whose page has CACHE 2, by the translation that each used (R296, R299) -/
  two : Lanes
  /-- its instruction's address, what its fragment had done just after it, and FLAGS before it (R308) -/
  pc : DWord
  did : Nat
  flags : Word
  deriving DecidableEq, Repr

/-- An access that waits at a parked line whose set excludes the core (R145, R241). -/
structure HeldOp where
  load : Option LoadOp
  store : Option StoreOp
  excl : Lanes
  keys : List Nat
  ea : Nat
  deriving DecidableEq, Repr

/-- An outstanding operation counted in TLC (R165, R166): opcode, tile or heap address, count or size, and the destination. -/
structure TileOp where
  op : Nat
  va : Nat
  n : Nat
  dst : Option Nat
  node : Nat
  /-- the accesses issued before it have smaller numbers -/
  seq : Nat
  /-- the lanes that issued it -/
  em : Lanes
  deriving DecidableEq, Repr

/-- An OBJDEF or OBJDEL that the object table has not answered (R163, R164). -/
structure ObjOp where
  frag : Nat
  del : Bool
  dst : Nat
  num : Nat
  base : Nat
  foot : Nat
  state : Nat
  shape : List Byte
  deriving DecidableEq, Repr

/-- A result in the special-function queue: register, lanes and values (R48). -/
structure SfuRes where
  reg : Nat
  mask : Lanes
  vals : List Word
  hi : Option (List Word)
  deriving DecidableEq, Repr

/-- A group: its registers, its fragments and joins, its counters and queues, and its trap registers (R34 to R53). -/
structure Group where
  live : Bool
  /-- every fragment has exited; stores or copies still run (R106) -/
  exited : Bool
  /-- the fragment whose fault the resident OS holds (R313) -/
  susp : Option Nat
  /-- stopped for pre-emption or migration (R314, R283) -/
  halted : Bool
  team : Nat
  idx : Nat
  role : Nat
  allot : Nat
  /-- registers a lane reserved while it is resident (R105) -/
  resv : Nat
  prio : Nat
  v : List (Nat × List Word)
  s : List (Nat × Word)
  p : List (Nat × Lanes)
  mode : Word
  flags : Word
  rset : Word
  pb : DWord
  frags : List (Nat × Frag)
  joins : List (Nat × Join)
  nextId : Nat
  loads : List LoadOp
  stores : List StoreOp
  tiles : List TileOp
  obj : Option ObjOp
  /-- accesses held at a parked line that excludes the core: fragment, what the other lanes do, the excluded lanes with
  their keys, the first one's address (R145, R241) -/
  held : List (Nat × HeldOp)
  seq : Nat
  relSeq : Nat
  /-- release fences limited to an object: the number of the next access, and the object's bounds (R158) -/
  objRel : List (Nat × Nat × Nat)
  cb : BitVec 16
  cbd : BitVec 16
  opn : Bool
  pend : List (Nat × Nat)
  sfu : List SfuRes
  vpois : List (Nat × Lanes)
  spois : List Nat
  lastEqp : BitVec 16
  /-- the role in whose text the last point was passed (R58, R102) -/
  eqpRole : Nat
  justEqp : Option (BitVec 16)
  /-- the EQP just executed met R55, under policy 2 (R101) -/
  eqpMay : Bool
  retired : DWord
  xpc : DWord
  xem : Lanes
  xmode : Word
  inh : Bool
  xrec : List (Nat × Word)
  /-- the fragment in the handler, with its stack and the joins as entry found them (R110, R311) -/
  hctx : Option (Nat × List Lanes × List (Nat × Join))
  /-- the fault of the fetch of further words of the instruction that issues: cause, flag, address, EM; none between steps -/
  late : Option (Nat × Nat × Nat × Lanes)
  deriving DecidableEq, Repr

/-! ### The matrix stream -/

/-- An accumulator tile (R191): 4,096 elements, whether a block is open, its position and parameters, and the exact sums of
the open block. Elements and sums list no zero. -/
structure ZTile where
  el : List (Nat × Word)
  opened : Bool
  pos : Nat
  par : List Nat
  sums : List (Nat × Int)
  deriving DecidableEq, Repr

/-- A scale batch: its tag and its E8 bytes (R182). -/
structure Batch where
  tag : Nat
  bytes : List Byte
  deriving DecidableEq, Repr

/-- The matrix stream of a team (R54). -/
structure Stream where
  live : Bool
  susp : Bool
  halted : Bool
  pc : DWord
  m : List (Nat × Word)
  x : List (Nat × List Host.Cell)
  fb : Word
  z : List (Nat × ZTile)
  tiles : Nat
  latch : Option Nat
  mstat : Word
  lit : Option Lit
  wait : Wait
  /-- ring slots taken and not released, oldest first: descriptor and slot offsets (R188) -/
  taken : List (Nat × Nat)
  /-- an MMA still runs (R198, R200) -/
  busy : Bool
  sa : List Batch
  sb : List Batch
  xpois : List (Nat × Nat)
  mpois : List Nat
  zpois : List (Nat × Nat)
  xpc : DWord
  xmode : Word
  xrec : List (Nat × Word)
  deriving DecidableEq, Repr

/-! ### Teams, clusters, launches -/

/-- A hardware barrier instance (R97, R98). Members, pending arrivals and exited members `gone` are named by group id (a stream by its
team's id past 2^40), an exited one with the event of its exit; `arr` holds the events arrived in the current phase and `rels`
the event of each completed one. -/
structure Bar where
  expect : Nat
  arrived : Nat
  phase : Nat
  members : List Nat
  pend : List (Nat × Nat)
  gone : List (Nat × Nat)
  arr : List Nat
  rels : List (Nat × Nat)
  deriving DecidableEq, Repr

/-- The launch's record as read, with its context and its progress (R271 to R277, R332). -/
structure Launch where
  asid : Nat
  record : List Byte
  /-- argument words (role, index) once read -/
  args : Option (List Byte)
  queue : Option Nat
  tt : Option Nat
  cls : Nat
  placed : Nat
  ended : Nat
  /-- end requested (R320, R337) -/
  ending : Bool
  gb : List (Nat × Bar)
  kernel : Option Nat
  /-- its wait words were satisfied when last read (R275) -/
  waits : Bool
  /-- device time since which its head lacks only room (R276) -/
  lack : Option Nat
  /-- its head has lacked room for 100 µs: greater classes are not placed before it (R276) -/
  reserved : Bool
  /-- its place in the order of dispatch, once its first cluster is placed (R276) -/
  disp : Nat
  deriving DecidableEq, Repr

structure Cluster where
  launch : Nat
  number : Nat
  linear : Nat
  base : Nat
  kb : List (Nat × Bar)
  deriving DecidableEq, Repr

structure Team where
  resident : Bool
  core : Nat
  launch : Nat
  cluster : Nat
  member : Nat
  groups : List Nat
  win : List Host.Cell
  winSize : Nat
  tb : List (Nat × Bar)
  stream : Option Stream
  wpois : List Nat
  /-- events that release a byte barrier's generation or a ring slot: offset, generation or kind, event (R178, R181) -/
  evs : List (Nat × Nat × Nat)
  /-- byte barriers that BBINIT has initialised: offset, and the device's most recent update of its 16 bytes (R176) -/
  bbs : List (Nat × Nat)
  /-- groups that have arrived at MIGR or an EQP the scheduler takes: class, point, arrived groups (R102) -/
  migr : Option (Bool × Nat × List Nat)
  /-- pre-emption: 0 none, 1 requested, 2 halted, 3 its image is complete (R314, R315) -/
  preempt : Nat
  saveAt : Option Nat
  /-- the scheduler may place it again: it saved the team itself, or a restore command names it (R276, R337) -/
  bySched : Bool
  deriving DecidableEq, Repr

/-- A copy or CHAIN in flight (R169 to R175): its record or program, its command block, the destination teams with barrier
offset and generation, the translations of the piece under way (64 KiB page, key of its first byte) and where that piece
starts and stops, and the 16-byte units done of the total. `fin` says that nothing more will land, `ended` that the status is written. -/
structure Copy where
  gid : Nat
  core : Nat
  chain : Bool
  layout : List Byte
  cmd : List Word
  dests : List (Nat × Option (Nat × Nat))
  batch : Option (BitVec 16)
  pieces : List (Nat × Nat)
  done : Nat
  start : Nat
  stop : Nat
  total : Nat
  code : Nat
  stale : Bool
  fin : Bool
  ended : Bool
  dst : Nat
  node : Nat
  nodes : List Nat
  scale : Option (Bool × Nat)
  sbytes : List Byte
  seq : Nat
  /-- units of the piece under way that have not landed, and the lines of it still to be written (R171, R172) -/
  left : List Nat
  lines : List Nat
  /-- the line the copy has claimed, with the events of the accesses that the claim holds (R172, R242) -/
  claim : Option (Nat × List Nat)
  /-- the unit or line whose sources another copy's claim holds, with the event of its reads (R242) -/
  next : Option (Nat × Nat)
  /-- the releases of its group's fences before it, which its writes publish (R172, R247) -/
  rel : List RelEnt
  deriving DecidableEq, Repr

/-! ### Memory management -/

/-- An address-space descriptor (R292). -/
structure Asid where
  en : Bool
  conf : Bool
  root : Nat
  heap : Nat
  htiles : Nat
  badfree : Word
  sarea : Nat
  pool : List Nat
  /-- the resident OS's mapping of the Devicetree page (R341) -/
  dtpage : DWord
  /-- a descriptor written while a team was resident: in effect after the next invalidation (R292) -/
  next : Option (BitVec 256)
  deriving DecidableEq, Repr

/-- A cached translation (R298): ASID, the 64 KiB page whose access found it, level of the leaf and the leaf's bits. -/
structure Tlb where
  asid : Nat
  page : Nat
  level : Nat
  leaf : DWord
  deriving DecidableEq, Repr

/-- A table entry that Tuber keeps (R298): ASID, its level, the address bits that led to it and the node it names. -/
structure TabEnt where
  asid : Nat
  level : Nat
  prefix_ : Nat
  node : Nat
  deriving DecidableEq, Repr

/-- One die's quarter of one context's heap (R301): the tiles in use with their class, and free and live blocks with the
event of their last FREE. -/
structure Heap where
  asid : Nat
  die : Nat
  slabs : List (Nat × Nat)
  free : List (Nat × Nat × Option Nat)
  live : List (Nat × Nat)
  deriving DecidableEq, Repr

/-- A collapse that this device has taken part in and that is not over (R304): the entry it changed, by its address, as it was
before, and the frame it took for a node. -/
structure Collapse where
  asid : Nat
  tile : Nat
  pa : Nat
  old : Nat
  node : Option Nat
  deriving DecidableEq, Repr

/-- A coherence object (R163, R226 to R228). -/
structure Obj where
  asid : Nat
  base : Nat
  foot : Nat
  state : Nat
  shape : List Byte
  deriving DecidableEq, Repr

/-- A parked line (R152, R234 to R238): its physical line, context and set; its levels from where it stands downwards (0 pod, 1
cluster pod, 2 die slices), each with the pod or slices that hold it there; the home slice that holds its directory entry; and the
bytes that home memory keeps below it. A pod is named by its core, a slice by 256 + its number. -/
structure Park where
  line : Nat
  asid : Nat
  desc : Word
  path : List (Nat × List Nat)
  home : Nat
  below : List Byte
  deriving DecidableEq, Repr

/-- The level at which a parked line stands. -/
def Park.level (p : Park) : Nat := (p.path.head?.map (·.1)).getD 3
/-- The pod or slices that hold a parked line. -/
def Park.places (p : Park) : List Nat := (p.path.head?.map (·.2)).getD []

/-! ### Scheduler, registers, host, power -/

structure Queue where
  asid : Nat
  cls : Nat
  en : Bool
  pending : List Nat
  deriving DecidableEq, Repr

/-- A time-triggered entry (R279). -/
structure TtEnt where
  next : DWord
  record : DWord
  period : Word
  en : Bool
  run : Bool
  asid : BitVec 8
  skips : Word
  deriving DecidableEq, Repr

/-- A team in the migration queue (R283): class and point it goes to, its priority class, the device time it entered, whether
it has waited 100 µs. -/
structure MigEnt where
  team : Nat
  radish : Bool
  point : Nat
  cls : Nat
  since : Nat
  aged : Bool
  /-- the core it moves to, once it is served -/
  dest : Option Nat
  deriving DecidableEq, Repr

/-- A scheduler command in progress (R337). -/
structure Sched where
  launch : Word
  cluster : BitVec 12
  member : BitVec 4
  group : BitVec 5
  stream : Bool
  save : DWord
  busy : Bool
  result : BitVec 8
  /-- the command under way and the result it will write -/
  op : Nat
  res : BitVec 8
  /-- the teams that the command under way names -/
  teams : List Nat
  deriving DecidableEq, Repr

/-- A mailbox block (R330), with completions the device holds and the number of the function's raised vectors. -/
structure Mbox where
  ring : DWord
  head : BitVec 16
  tail : BitVec 16
  log2n : BitVec 8
  en : Bool
  err : Bool
  ready : Bool
  cpl : DWord
  chead : BitVec 16
  ctail : BitVec 16
  asid : Nat
  /-- entries taken and not yet answered: tag, call number, arguments -/
  taken : List (BitVec 16 × Nat × List DWord)
  held : List (BitVec 16 × DWord)
  msix : Nat
  deriving DecidableEq, Repr

/-- A fault report (R338). -/
structure Report where
  asid : Nat
  core : Nat
  group : Nat
  launch : Nat
  xpc : DWord
  xem : Word
  xmode : Word
  xrec : List (Nat × Word)
  time : Nat
  deriving DecidableEq, Repr

/-- A domain-table entry (R336). -/
structure Dom where
  port : Nat
  valid : Bool
  lanes : BitVec 8
  deriving DecidableEq, Repr

/-- A range of translations: an address, a length in 4 KiB pages, an address space, or all of it (R335). -/
structure InvalRange where
  start : DWord
  pages : DWord
  asid : BitVec 8
  all : Bool
  deriving DecidableEq, Repr

/-- The invalidation registers (R335), and the range under way, as GO found it. -/
structure Inval where
  reg : InvalRange
  work : Option InvalRange
  deriving DecidableEq, Repr

/-- BUSY: from the GO write until Tuber answers. -/
def Inval.busy (x : Inval) : Bool := x.work.isSome

/-- A packet on a loop (R284): the node that sends it and the number it gives it (R319), its class, its destination node, and the
arrivals it has made there. -/
structure Pkt where
  src : Nat
  id : Nat
  bulk : Bool
  dest : Nat
  age : Nat
  promoted : Bool
  resv : Option Nat
  arrivals : Nat
  deriving DecidableEq, Repr

structure Slot where
  pkt : Option Pkt
  /-- the node and packet that reserved it -/
  resv : Option (Nat × Nat)
  deriving DecidableEq, Repr

/-- A node of a loop: its two injection queues, the turn of its round robin (0 to 3 urgent, 4 bulk), its last-chance
entries and what it has ejected. -/
structure Node where
  urgent : List Pkt
  bulk : List Pkt
  turn : Nat
  lastU : Option Pkt
  lastB : Option Pkt
  ejected : List Nat
  deriving DecidableEq, Repr

structure Loop where
  slots : List (Nat × Slot)
  nodes : List (Nat × Node)
  deriving DecidableEq, Repr

/-- A packet that its sender keeps (R319): the sender and its number, how often it was sent again, the loop cycle in which it was last
sent, and on a loop the packet itself. -/
structure Unacked where
  src : Nat
  id : Nat
  tries : Nat
  sent : Nat
  pkt : Option Pkt
  deriving DecidableEq, Repr

/-- A link (R319): the packets not acknowledged, those accepted by sender and number, and whether it has failed. -/
structure Link where
  unacked : List Unacked
  accepted : List (Nat × Nat)
  failed : Bool
  deriving DecidableEq, Repr

/-- A loaded kernel of a bundle (R33, R104, R342): its launch record, its code bases and its point records. -/
structure PointTab where
  point : Nat
  role : Nat
  marrow : Nat
  radish : Nat
  toRadish : List Byte
  toMarrow : List Byte
  deriving DecidableEq, Repr

structure Kernel where
  asid : Nat
  index : Nat
  record : List Byte
  marrowBase : DWord
  radishBase : DWord
  points : List PointTab
  errata : List Nat
  deriving DecidableEq, Repr

/-- Module state (R345 to R350). Power states: 0 OFF, 1 BOOT, 2 ON, 3 IDLE, 4 HOLD. -/
structure Module where
  state : Nat
  bootStep : Nat
  plim : BitVec 16
  power : BitVec 16
  tmax : BitVec 8
  tcool : BitVec 8
  throt : Bool
  sync : Bool
  corr : Word
  holdc : Word
  idleReq : Bool
  overPower : Bool
  /-- dies with a junction above 95 °C, with its temperature (R348, R350) -/
  hot : List (Nat × Nat)
  lowFlow : Option Nat
  stretch : List Nat
  deriving DecidableEq, Repr

/-- What Shallot keeps (R305 to R307, R340). -/
structure Shallot where
  /-- key id of a 64 KiB frame, none listed for key 0 -/
  owner : List (Nat × Nat)
  /-- ASID that owns a key id -/
  keys : List (Nat × Nat)
  /-- how often each key has been generated -/
  gens : List (Nat × Nat)
  /-- accesses to keyed frames that read zero or were discarded (R306) -/
  refused : Nat
  measured : List Nat
  /-- attestation answers: the nonce, what was measured, the count of refused accesses -/
  spdm : List (Nat × List Nat × Nat)
  deriving DecidableEq, Repr

/-- What a steward core shows of its accesses to device memory (R353): its reservation (first byte, bytes, the write it found)
and the value its last load, atomic or system call returned (PRESUMED, log 85). -/
structure Steward where
  resv : Option (Nat × Nat × Option Nat)
  out : DWord
  deriving DecidableEq, Repr

/-- A wait call that has not returned (R331): caller, launch and deadline. -/
structure WaitCall where
  who : Caller
  launch : Nat
  until_ : Nat
  deriving DecidableEq, Repr

/-- What the device keeps of a core: the pod's carve-out in 32 KiB units (R240), hits by latency class (R237), the fragments that its
issue slots have taken in the cycle `cyc` (R281), and the last core cycles in which it withheld the throttled classes (R347). -/
structure Core where
  carve : Nat
  hits : List (Nat × Nat)
  cyc : Nat
  taken : List (Nat × Nat)
  slow : List Nat
  deriving DecidableEq, Repr

/-- Who acts next: a fragment of a group, or a team's matrix stream. -/
inductive Agent where
  | frag (gid fid : Nat)
  | stream (tid : Nat)
  deriving DecidableEq, Repr

/-- What happens next outside the running fragment: a step of the device, or time passing. -/
inductive Input where
  | ev (i : Instr)
  | tick (ns : Nat) (cycles : List Nat)
  /-- the host writes its own memory -/
  | host (addr : Nat) (bytes : List Byte)
  /-- the host writes, or reads n bytes of, the BAR0 of a function (R329) -/
  | barWrite (fn off : Nat) (bytes : List Byte)
  | barRead (fn off n : Nat)
  deriving DecidableEq, Repr

/-- The state of the device. -/
structure State where
  groups : List (Nat × Group)
  teams : List (Nat × Team)
  clusters : List (Nat × Cluster)
  launches : List (Nat × Launch)
  nextLaunch : Nat
  nextUnit : Nat
  cores : List (Nat × Core)
  copies : List (Nat × Copy)
  mem : List Host.Cell
  hostMem : List Host.Cell
  ord : Ord
  mpois : List Nat
  parks : List Park
  objs : List (Nat × Obj)
  asids : List (Nat × Asid)
  tlb : List Tlb
  /-- Tuber's cache of table entries (R298) -/
  tabs : List TabEnt
  heaps : List Heap
  collapses : List Collapse
  queues : List (Nat × Queue)
  turns : List (Nat × Nat)
  tt : List (Nat × TtEnt)
  migq : List MigEnt
  cmd : Sched
  inval : Inval
  repHead : BitVec 8
  repTail : BitVec 8
  repHeld : List Report
  repMem : List (Nat × Report)
  mboxes : List (Nat × Mbox)
  /-- what the host's last read of a BAR0 returned (R329) -/
  barOut : List Byte
  stewards : List (Nat × Steward)
  waitCalls : List WaitCall
  domain : List (Nat × Dom)
  self : Nat
  loops : List (Nat × Loop)
  links : List (Nat × Link)
  kernels : List Kernel
  images : List (Nat × Nat)
  mod : Module
  shallot : Shallot
  /-- device time in ns and the correction a slew has yet to make (R349) -/
  time : Nat
  slew : Int
  /-- nanoseconds passed that a slewed correction has not yet counted, below 2,000 (R349) -/
  slewRem : Nat
  /-- cycles of each die's clocks: key 2·die for its Marrow cores, 2·die + 1 for its Radish cores, 8 + die for its loops, 12 for
  the loops of the I/O and control die (R6) -/
  cycles : List (Nat × Nat)
  irqs : Nat
  log : List String
  inputs : List Input
  cur : Option Agent
  fresh : Nat
  deriving DecidableEq, Repr

/-- The ordering state with no access made. -/
def Ord.empty : Ord := ⟨#[], #[], [], [], [], [], [], []⟩

/-- The module with the main supply just present: BOOT, PLIM 3,600 W (R346, R350). -/
def Module.reset : Module :=
  ⟨1, 1, 3600, 0, 0, 0, false, false, 0, 0, false, false, [], none, []⟩

/-- The device right after reset: no team resident, every table empty, in BOOT (R340, R346). -/
def State.reset : State where
  groups := []
  teams := []
  clusters := []
  launches := []
  nextLaunch := 0
  nextUnit := 0
  cores := []
  copies := []
  mem := []
  hostMem := []
  ord := Ord.empty
  mpois := []
  parks := []
  objs := []
  asids := []
  tlb := []
  tabs := []
  heaps := []
  collapses := []
  queues := []
  turns := []
  tt := []
  migq := []
  cmd := ⟨0, 0, 0, 0, false, 0, false, 0, 0, 0, []⟩
  inval := ⟨⟨0, 0, 0, false⟩, none⟩
  repHead := 0
  repTail := 0
  repHeld := []
  repMem := []
  mboxes := []
  barOut := []
  stewards := []
  waitCalls := []
  domain := []
  self := 0
  loops := []
  links := []
  kernels := []
  images := []
  mod := Module.reset
  shallot := ⟨[], [], [], 0, [], []⟩
  time := 0
  slew := 0
  slewRem := 0
  cycles := []
  irqs := 0
  log := []
  inputs := []
  cur := none
  fresh := 0

end Sys2Proof.Machine
end

