-- ==== Sys2Proof/Machine/Store.lean ====
section
/-! DEFINITION. Maps by number: lists of pairs with strictly rising keys.  `aset d` lists no entry equal to the default d,
so the list of a map is unique: the canonical form of memory, register files and windows. -/
set_option linter.all false
namespace Sys2Proof.Machine

/-- The value at a key, or the default. -/
def aget {α : Type} (d : α) (k : Nat) : List (Nat × α) → α
  | [] => d
  | (k', v) :: r => if k' = k then v else aget d k r

/-- The value at a key, if listed. -/
def afind {α : Type} (k : Nat) : List (Nat × α) → Option α
  | [] => none
  | (k', v) :: r => if k' = k then some v else afind k r

/-- Lists a value at a key. -/
def aput {α : Type} (k : Nat) (v : α) : List (Nat × α) → List (Nat × α)
  | [] => [(k, v)]
  | (k', v') :: r =>
    if k < k' then (k, v) :: (k', v') :: r
    else if k = k' then (k, v) :: r
    else (k', v') :: aput k v r

/-- Lists nothing at a key. -/
def adel {α : Type} (k : Nat) : List (Nat × α) → List (Nat × α)
  | [] => []
  | (k', v') :: r => if k = k' then adel k r else (k', v') :: adel k r

/-- Sets the value at a key; the default is not listed. -/
def aset {α : Type} [DecidableEq α] (d : α) (k : Nat) (v : α) (l : List (Nat × α)) : List (Nat × α) :=
  if v = d then adel k l else aput k v l

/-- Keys strictly rising. -/
def rising {α : Type} : List (Nat × α) → Bool
  | (k, _) :: (k', v) :: r => decide (k < k') && rising ((k', v) :: r)
  | _ => true

/-- The canonical form of memory: addresses strictly rising and no byte equal to what an unlisted address reads, which is
zero (assumption 3). -/
def Memory.wf (m : List Host.Cell) : Bool := rising m && m.all fun p => p.2 != 0

/-- What an unlisted address reads: zero (assumption 3). -/
def memDefault : Byte := 0

/-- A byte of a memory. -/
def mget (m : List Host.Cell) (a : Nat) : Byte := aget memDefault a m

/-- A byte written. -/
def mset (m : List Host.Cell) (a : Nat) (b : Byte) : List Host.Cell := aset memDefault a b m

/-- Bytes a, a+1, … of a memory. -/
def mread (m : List Host.Cell) (a n : Nat) : List Byte :=
  let part := m.filter fun c => a ≤ c.1 && c.1 < a + n
  (List.range n).map fun i => mget part (a + i)

/-- Bytes from address a as cells; a byte equal to what an unlisted address reads is not listed. -/
def cellsOf (a : Nat) : List Byte → List Host.Cell
  | [] => []
  | b :: r => if b = memDefault then cellsOf (a + 1) r else (a, b) :: cellsOf (a + 1) r

/-- Writes bytes from address a. -/
def mwrite (m : List Host.Cell) (a : Nat) (bs : List Byte) : List Host.Cell :=
  (m.filter fun c => c.1 < a) ++ cellsOf a bs ++ m.filter fun c => a + bs.length ≤ c.1

/-- Bytes read as a little-endian number (R1). -/
def leNat : List Byte → Nat
  | [] => 0
  | b :: r => b.toNat + 256 * leNat r

/-- A number as n little-endian bytes (R1). -/
def natLe : Nat → Nat → List Byte
  | 0, _ => []
  | n + 1, v => BitVec.ofNat 8 v :: natLe n (v / 256)

/-- Little-endian field [lo, lo+n) of a record. -/
def field (r : List Byte) (lo n : Nat) : Nat := leNat ((r.drop lo).take n)

/-- Replaces bytes [lo, lo+n) of a record by the n-byte number v. -/
def setField (r : List Byte) (lo n v : Nat) : List Byte := r.take lo ++ natLe n v ++ r.drop (lo + n)

/-- Bits hi..lo of a number. -/
def bits (v lo n : Nat) : Nat := v / 2 ^ lo % 2 ^ n

/-- The numbers 0 to 31: the lanes. -/
def lanes : List Nat := List.range 32

/-- The lanes of a mask in ascending order. -/
def lanesOf (m : Lanes) : List Nat := lanes.filter fun l => m.getLsbD l

/-- The mask of a lane predicate. -/
def maskOf (f : Nat → Bool) : Lanes := lanes.foldl (fun m l => if f l then m ||| (1#32 <<< l) else m) 0

end Sys2Proof.Machine
end

