-- ==== Sys2Proof/Machine/Ops.lean ====
section
/-! DEFINITION. The named operations over groups, registers, teams and memory that every meaning uses (R39 to R54). -/
set_option linter.all false
namespace Sys2Proof.Machine

/-! ### Empty records -/

/-- A slot that holds no group. XREC3's POINT is 0xFFFF, as at group entry (R310). -/
def Group.empty : Group where
  live := false
  exited := false
  susp := none
  halted := false
  team := 0
  idx := 0
  role := 0
  allot := 0
  resv := 0
  prio := 0
  v := []
  s := []
  p := []
  mode := 0x20
  flags := 0
  rset := 0
  pb := 0
  frags := []
  joins := []
  nextId := 0
  loads := []
  stores := []
  tiles := []
  obj := none
  held := []
  seq := 0
  relSeq := 0
  objRel := []
  cb := 0
  cbd := 0
  opn := false
  pend := []
  sfu := []
  vpois := []
  spois := []
  lastEqp := 0xFFFF
  eqpRole := 0
  justEqp := none
  eqpMay := false
  retired := 0
  xpc := 0
  xem := 0
  xmode := 0
  inh := false
  xrec := [(3, 0xFFFF)]
  hctx := none
  late := none

/-- A fragment with every lane, about to issue at pc (R42). -/
def Frag.entry (pc : DWord) : Frag := ⟨0xFFFF_FFFF, pc, [], none, .run, 0, false, none, none, 0⟩

def Frag.none_ : Frag := ⟨0, 0, [], none, .run, 0, false, none, none, 0⟩

def Team.empty : Team := ⟨false, 0, 0, 0, 0, [], [], 0, [], none, [], [], [], none, 0, none, false⟩

def Cluster.empty : Cluster := ⟨0, 0, 0, 0, []⟩

def Launch.empty : Launch := ⟨0, [], none, none, none, 0, 0, 0, false, [], none, false, none, false, 0⟩

def Core.empty : Core := ⟨0, [], 0, [], []⟩

def Bar.empty : Bar := ⟨0, 0, 0, [], [], [], [], []⟩

def AgentOrd.empty : AgentOrd := ⟨none, [], [], [], []⟩

def Asid.empty : Asid := ⟨false, false, 0, 0, 0, 0, 0, [], 0, none⟩

def Copy.empty : Copy := ⟨0, 0, false, [], [], [], none, [], 0, 0, 0, 0, 0, false, false, false, 0, 0, [], none, [], 0, [], [], none, none, []⟩

def ZTile.empty : ZTile := ⟨[], false, 0, [], []⟩

def Queue.empty : Queue := ⟨0, 0, false, []⟩

def TtEnt.empty : TtEnt := ⟨0, 0, 0, false, false, 0, 0⟩

def Mbox.empty : Mbox := ⟨0, 0, 0, 4, false, false, false, 0, 0, 0, 0, [], [], 0⟩

def Steward.empty : Steward := ⟨none, 0⟩

def Dom.empty : Dom := ⟨0, false, 0⟩

def Stream.empty : Stream :=
  ⟨false, false, false, 0, [], [], 0, [], 0, none, 0, none, .run, [], false, [], [], [], [], [], 0, 0x20, [(3, 0xFFFF)]⟩

/-! ### Parts of the state -/

def State.grp (s : State) (gid : Nat) : Group := aget Group.empty gid s.groups
def State.setGrp (s : State) (gid : Nat) (g : Group) : State := { s with groups := aput gid g s.groups }
def State.modGrp (s : State) (gid : Nat) (f : Group → Group) : State := s.setGrp gid (f (s.grp gid))

def State.team (s : State) (t : Nat) : Team := aget Team.empty t s.teams
def State.setTeam (s : State) (t : Nat) (x : Team) : State := { s with teams := aput t x s.teams }
def State.modTeam (s : State) (t : Nat) (f : Team → Team) : State := s.setTeam t (f (s.team t))

def State.cluster (s : State) (c : Nat) : Cluster := aget Cluster.empty c s.clusters
def State.launch (s : State) (l : Nat) : Launch := aget Launch.empty l s.launches
def State.setLaunch (s : State) (l : Nat) (x : Launch) : State := { s with launches := aput l x s.launches }
def State.modLaunch (s : State) (l : Nat) (f : Launch → Launch) : State := s.setLaunch l (f (s.launch l))
def State.setCluster (s : State) (c : Nat) (x : Cluster) : State := { s with clusters := aput c x s.clusters }
def State.core (s : State) (c : Nat) : Core := aget Core.empty c s.cores
def State.asid (s : State) (a : Nat) : Asid := aget Asid.empty a s.asids
def State.setAsid (s : State) (a : Nat) (x : Asid) : State := { s with asids := aput a x s.asids }
def State.copy (s : State) (c : Nat) : Copy := aget Copy.empty c s.copies
def State.setCopy (s : State) (c : Nat) (x : Copy) : State := { s with copies := aput c x s.copies }
def State.queue (s : State) (q : Nat) : Queue := aget Queue.empty q s.queues
def State.setQueue (s : State) (q : Nat) (x : Queue) : State := { s with queues := aput q x s.queues }
def State.mbox (s : State) (f : Nat) : Mbox := aget Mbox.empty f s.mboxes
def State.setMbox (s : State) (f : Nat) (x : Mbox) : State := { s with mboxes := aput f x s.mboxes }

/-- A system call returns: to a steward core's a0, or to the mailbox as a completion that the device holds (R330, R331). -/
def State.answer (s : State) (who : Caller) (v : DWord) : State :=
  match who with
  | .steward core _ => { s with stewards := aput core { aget Steward.empty core s.stewards with out := v } s.stewards }
  | .mailbox fn tag => s.setMbox fn { s.mbox fn with held := (s.mbox fn).held ++ [(tag, v)] }

/-- The stream of a team; a team without one has one that is not live. -/
def Team.str (t : Team) : Stream := t.stream.getD Stream.empty

def State.str (s : State) (t : Nat) : Stream := (s.team t).str
def State.setStr (s : State) (t : Nat) (x : Stream) : State := s.modTeam t fun m => { m with stream := some x }

def Group.frag (g : Group) (f : Nat) : Frag := aget Frag.none_ f g.frags
def Group.setFrag (g : Group) (f : Nat) (x : Frag) : Group := { g with frags := aput f x g.frags }
def Group.modFrag (g : Group) (f : Nat) (h : Frag → Frag) : Group := g.setFrag f (h (g.frag f))

/-- The fragment's lane set: the bottom of its predicate stack, or EM where the stack is empty (R93). -/
def Frag.laneSet (f : Frag) : Lanes := f.stack.getLastD f.em

/-- The lanes that another fragment has to itself: its EM and what it has pushed since the stacks of the two went apart. -/
def Frag.ownBeside (o f : Frag) : Lanes :=
  let common := ((List.zip o.stack.reverse f.stack.reverse).takeWhile fun p => p.1 == p.2).length
  (o.stack.take (o.stack.length - common)).foldl (· ||| ·) o.em

/-- The lanes that a fragment's instructions stand in the program order of: its lane set, masked lanes as well, without those of
other fragments (R93, R246) (DEDUCED, log 16). -/
def Group.fragMask (g : Group) (fid : Nat) : Lanes :=
  let f := g.frag fid
  g.frags.foldl (fun m p => if p.1 = fid then m else m &&& ~~~(p.2.ownBeside f)) f.laneSet ||| f.em

/-! ### Registers -/

def zeros32 : List Word := List.replicate 32 0

/-- The 32 lanes of v register r (R39). -/
def Group.vreg (g : Group) (r : Nat) : List Word := aget zeros32 r g.v

/-- v register r of lane l. -/
def Group.vl (g : Group) (r l : Nat) : Word := (g.vreg r).getD l 0

/-- The pair vr:r+1 of lane l, low half in the even register (R39). -/
def Group.vl64 (g : Group) (r l : Nat) : DWord := g.vl (r + 1) l ++ g.vl r l

/-- Writes the lanes of a mask in v register r (R39). -/
def Group.setV (g : Group) (r : Nat) (m : Lanes) (f : Nat → Word) : Group :=
  { g with v := aset zeros32 r (lanes.map fun l => if m.getLsbD l then f l else g.vl r l) g.v }

/-- Writes the lanes of a mask in the pair vr:r+1. -/
def Group.setV64 (g : Group) (r : Nat) (m : Lanes) (f : Nat → DWord) : Group :=
  (g.setV r m fun l => (f l).extractLsb' 0 32).setV (r + 1) m fun l => (f l).extractLsb' 32 32

/-- Scalar register k; s0 reads zero (R40). -/
def Group.sreg (g : Group) (k : Nat) : Word := if k = 0 then 0 else aget 0 k g.s

/-- Writes scalar register k; writes to s0 are ignored (R40). -/
def Group.setS (g : Group) (k : Nat) (w : Word) : Group :=
  if k = 0 then g else { g with s := aset 0 k w g.s }

/-- The pair sk:k+1, low half in sk (R40). -/
def Group.sreg64 (g : Group) (k : Nat) : DWord := g.sreg (k + 1) ++ g.sreg k

def Group.setS64 (g : Group) (k : Nat) (w : DWord) : Group :=
  (g.setS k (w.extractLsb' 0 32)).setS (k + 1) (w.extractLsb' 32 32)

/-- Predicate k; p0 reads all ones (R41). -/
def Group.preg (g : Group) (k : Nat) : Lanes := if k = 0 then BitVec.allOnes 32 else aget 0 k g.p

/-- Writes predicate k in the lanes of a mask; writes to p0 are ignored (R41). -/
def Group.setP (g : Group) (k : Nat) (m v : Lanes) : Group :=
  if k = 0 then g else { g with p := aset 0 k ((g.preg k &&& ~~~m) ||| (v &&& m)) g.p }

/-! ### MODE and the guard (R43, R50) -/

def modeGuard (m : Word) : Nat := (m.extractLsb' 0 3).toNat
def modeInv (m : Word) : Bool := m.getLsbD 3
def modeType (m : Word) : Nat := (m.extractLsb' 4 4).toNat
def modeRnd (m : Word) : Nat := (m.extractLsb' 8 3).toNat
def modeSat (m : Word) : Bool := m.getLsbD 11
def modeFtz (m : Word) : Bool := m.getLsbD 12

/-- A MODE value that an instruction may run under (R43, R74). -/
def modeLegal (m : Word) : Bool := m.toNat < 2 ^ 13 && modeType m != 15 && modeRnd m < 5

/-- The lanes of a fragment whose guard holds: Active(l) of R50 and R59. -/
def activeMask (g : Group) (mode : Word) (em : Lanes) : Lanes :=
  em &&& (if modeInv mode then ~~~(g.preg (modeGuard mode)) else g.preg (modeGuard mode))

/-! ### Where an agent stands (R7, R8, R35) -/

/-- The device's cores: 64 per die (R7). -/
def dieOf (core : Nat) : Nat := core / 64
/-- Column x of a core's site (R7). -/
def colOf (core : Nat) : Nat := core % 8
def rowOf (core : Nat) : Nat := core % 64 / 8
/-- Columns 3 and 4 hold Radish cores (R8). -/
def isRadishCore (core : Nat) : Bool := colOf core == 3 || colOf core == 4

def State.coreOf (s : State) (g : Group) : Nat := (s.team g.team).core
def State.launchOf (s : State) (g : Group) : Launch := s.launch (s.team g.team).launch
def State.asidOf (s : State) (g : Group) : Nat := (s.launchOf g).asid

/-- Encoding class of a group: that of its core (R112 index 0x0A). -/
def State.radOf (s : State) (g : Group) : Bool := isRadishCore (s.coreOf g)

/-- Core cycles on a core's die, whatever the core's class: what an unqualified duration counts (R2, R6). -/
def State.coreCyc (s : State) (core : Nat) : Nat := aget 0 (2 * dieOf core) s.cycles

/-- Cycles of a core's own clock, stretched cycles included (R6, R112) (DEDUCED, log 79). -/
def State.cyc (s : State) (core : Nat) : Nat :=
  aget 0 (2 * dieOf core + if isRadishCore core then 1 else 0) s.cycles

def State.placeOf (s : State) (gid : Nat) : Place :=
  let g := s.grp gid
  let t := s.team g.team
  ⟨0, gid, g.team, t.cluster, dieOf t.core, s.self⟩

def State.streamPlace (s : State) (tid : Nat) : Place :=
  let t := s.team tid
  ⟨0, 2 ^ 40 + tid, tid, t.cluster, dieOf t.core, s.self⟩

/-! ### The launch record (R271, R273) -/

def Launch.fld (l : Launch) (lo n : Nat) : Nat := field l.record lo n
/-- Role entry i: bytes [lo, lo+n) of it. -/
def Launch.role (l : Launch) (i lo n : Nat) : Nat := field l.record (144 + 14 * i + lo) n
/-- 0 copy, 1 vector, 2 matrix, 3 absent. -/
def Launch.roleKind (l : Launch) (i : Nat) : Nat := bits (l.role i 6 1) 0 2
def Launch.roleCount (l : Launch) (i : Nat) : Nat := bits (l.role i 6 1) 2 6
def Launch.w (l : Launch) : Nat := bits (l.fld 62 1) 0 4
def Launch.h (l : Launch) : Nat := bits (l.fld 62 1) 4 4
def Launch.policy (l : Launch) : Nat := bits (l.fld 64 1) 0 2
def Launch.startRadish (l : Launch) : Bool := bits (l.fld 64 1) 2 1 == 1
def Launch.codeBase (l : Launch) (rad : Bool) : Nat := if rad then l.fld 8 8 else l.fld 0 8
/-- The entry address of role i in an encoding (R273). -/
def Launch.entry (l : Launch) (i : Nat) (rad : Bool) : DWord :=
  BitVec.ofNat 64 (l.codeBase rad + (if rad then 8 * l.role i 3 3 else 4 * l.role i 0 3))
/-- The allotment of role i on a class of core: 256 on Radish (R10, R273). -/
def Launch.allot (l : Launch) (i : Nat) (rad : Bool) : Nat := if rad then 256 else 8 * l.role i 7 1
/-- Handler entry offset in an encoding; none for 0xFFFF_FFFF (R271). -/
def Launch.handler (l : Launch) (rad : Bool) : Option DWord :=
  let o := if rad then l.fld 28 4 else l.fld 24 4
  if o = 0xFFFF_FFFF then none else some (BitVec.ofNat 64 (l.codeBase rad + o))
/-- Lane-private bytes per lane (R221, R271). -/
def Launch.private_ (l : Launch) : Nat := 4 * l.fld 74 2

/-- The role kind of a group. -/
def State.kindOf (s : State) (g : Group) : Nat := (s.launchOf g).roleKind g.role

/-! ### Counters (R47) -/

def Group.ldc (g : Group) : Nat := g.loads.length
def Group.stc (g : Group) : Nat := g.stores.length
def Group.tlc (g : Group) : Nat := g.tiles.length
/-- (CB − CBD) mod 2^16. -/
def Group.lagN (g : Group) : Nat := (g.cb - g.cbd).toNat

/-- The counter word (R47). -/
def Group.counters (g : Group) : DWord :=
  BitVec.ofNat 64 (g.ldc % 64 + g.stc % 64 * 2 ^ 6 + g.tlc % 16 * 2 ^ 12 + g.cb.toNat * 2 ^ 16 + g.cbd.toNat * 2 ^ 32 +
    (if g.opn then 2 ^ 48 else 0))

/-! ### Pending registers (R48): file 0 v, 1 s -/

def Group.isPend (g : Group) (file r : Nat) : Bool := g.pend.any fun p => p == (file, r)
def Group.addPend (g : Group) (file r : Nat) : Group :=
  if g.isPend file r || (file == 1 && r == 0) then g else { g with pend := g.pend ++ [(file, r)] }
def Group.clrPend (g : Group) (file r : Nat) : Group := { g with pend := g.pend.filter fun p => p != (file, r) }

/-! ### Poison marks (R318) -/

def Group.vPois (g : Group) (r : Nat) : Lanes := aget 0 r g.vpois
def Group.setVPois (g : Group) (r : Nat) (m : Lanes) : Group := { g with vpois := aset 0 r m g.vpois }
/-- A write of every named lane's whole word clears their marks. -/
def Group.clrVPois (g : Group) (r : Nat) (m : Lanes) : Group := g.setVPois r (g.vPois r &&& ~~~m)
def Group.setSPois (g : Group) (r : Nat) (b : Bool) : Group :=
  { g with spois := if b then (if g.spois.contains r then g.spois else r :: g.spois) else g.spois.filter (· != r) }

/-- Writes the lanes of a mask, whole words, in v register r; their poison marks are cleared (R39, R318). -/
def Group.putV (g : Group) (r : Nat) (m : Lanes) (f : Nat → Word) : Group := (g.setV r m f).clrVPois r m
def Group.putV64 (g : Group) (r : Nat) (m : Lanes) (f : Nat → DWord) : Group :=
  ((g.setV64 r m f).clrVPois r m).clrVPois (r + 1) m
/-- Writes scalar register k and clears its mark. -/
def Group.putS (g : Group) (k : Nat) (w : Word) : Group := (g.setS k w).setSPois k false
def Group.putS64 (g : Group) (k : Nat) (w : DWord) : Group := ((g.setS64 k w).setSPois k false).setSPois (k + 1) false

/-! ### The special-function queue (R48, R49) -/

def Group.applySfu (g : Group) (r : SfuRes) : Group :=
  let g := (g.setV r.reg r.mask fun l => r.vals.getD l 0).clrVPois r.reg r.mask
  match r.hi with
  | some h => (g.setV (r.reg + 1) r.mask fun l => h.getD l 0).clrVPois (r.reg + 1) r.mask
  | none => g

/-- Drains the queue into the registers, oldest first. -/
def Group.drainSfu (g : Group) : Group := { g.sfu.foldl Group.applySfu g with sfu := [] }

/-- The present bytes of a team's window, as a number. -/
def State.win (s : State) (tid off n : Nat) : Nat := leNat (mread (s.team tid).win off n)

/-! ### Bytes of memory: a key is device · 2^48 + physical address (R223, R296) -/

def devKey (dev pa : Nat) : Nat := dev * 2 ^ 48 + pa
/-- A link; the peer ports are links 6 to 23 (R13, R319). -/
def State.link (s : State) (l : Nat) : Link := aget ⟨[], [], false⟩ l s.links

/-- FAIL of a domain-table entry: the port it names has been marked failed (R336). -/
def State.domFail (s : State) (d : Dom) : Bool := d.port < 18 && (s.link (6 + d.port)).failed

/-- A byte of another device, whose peer port has been marked failed (R319, R320, R336). -/
def State.portFailed (s : State) (key : Nat) : Bool :=
  key < 2 ^ 70 && key / 2 ^ 48 != s.self && s.domFail (aget Dom.empty (key / 2 ^ 48) s.domain)

/-- A memory line is poisoned (R318). -/
def State.linePois (s : State) (key : Nat) : Bool := s.mpois.contains (key / 128)

/-- A store to a failed peer port is reported lost (R320). -/
def State.lostStore (s : State) : State := { s with log := s.log ++ ["store lost"] }

def State.byte (s : State) (k : Nat) : Byte := mget s.mem k
def State.rd (s : State) (k n : Nat) : Nat := leNat (mread s.mem k n)

end Sys2Proof.Machine
end

