-- ==== Sys2Proof/Config.lean ====
section
/-! DEFINITION. What the spec leaves open: free values. Nothing in Lean can evaluate them, so a statement about a run holds
for every choice the device may make. -/
namespace Sys2Proof

/-- A free choice, applied to the state's counter `fresh`, which a step that makes one advances, or to the number of the event
that makes it, to what is chosen (0 a granule's write, 1 a translation, 2 a code word, 3 one of several, 4 a byte or number, 5 a
flag or code, 6 whether a lane-private line was written back, 7 an update of a live barrier's word) and to an index that tells
the choices of one step apart (assumption 4). -/
opaque Config.free : Nat → Nat → Nat → Nat

/-- Whether the device has corrected an erratum, by its id (R344); the level decides (assumption 5). -/
opaque Config.errCorrected : Nat → Bool

/-- Whether an erratum is on Shallot's preserved list (R344; assumption 5). -/
opaque Config.errPreserved : Nat → Bool

end Sys2Proof
end

