-- ==== Sys2Proof/Machine/Translate.lean ====
section
/-! DEFINITION. Translation (R292 to R299, R303, R306): the five-level walk, the checks of R297 in their order, and the
physical byte an access reaches. -/
set_option linter.all false
namespace Sys2Proof.Machine

/-- Where R223 places no memory. -/
def memLimit : Nat := 0x300_0000_0000

/-- The kind of an access that R297 checks. -/
inductive Acc where
  | read
  | write
  | atomic
  | fetch
  deriving DecidableEq, Repr

/-- What the walk finds. -/
inductive Walk where
  | noMap
  | malformed
  | leaf (e level : Nat)
  deriving DecidableEq, Repr

/-- The index of a level: VA[56:48], [47:39], [38:30], [29:21], [20:16] (R294). -/
def vaIndex (va level : Nat) : Nat :=
  match level with
  | 0 => bits va 48 9
  | 1 => bits va 39 9
  | 2 => bits va 30 9
  | 3 => bits va 21 9
  | _ => bits va 16 5

/-- log2 of what a leaf maps, by its level (R294). -/
def leafBits (level : Nat) : Nat := if level = 2 then 30 else if level = 3 then 21 else 16

/-- The SIZE code of a level (R294, R296). -/
def sizeOf_ (level : Nat) : Nat := 4 - level

/-- Step 2 of R297 for a leaf found at a level. -/
def leafMalformed (s : State) (e level : Nat) : Bool :=
  let home := bits e 56 8
  let frame := bits e 16 32 * 2 ^ 16
  level < 2 || bits e 2 2 != sizeOf_ level || bits e 8 2 == 3 || bits e 48 2 == 3 ||
    (bits e 15 1 == 1 && (frame % 2 ^ leafBits level != 0 || frame ≥ memLimit)) ||
    home > 143 || (home != s.self && !(aget Dom.empty home s.domain).valid) ||
    (bits e 50 6 != 0 && home != s.self)

/-- Step 2 of R297 for a table entry at a level. -/
def tableMalformed (e level : Nat) : Bool :=
  level ≥ 4 || bits e 2 6 != 0 || bits e 48 16 != 0 || (level < 3 && bits e 8 4 != 0) || bits e 8 40 * 2 ^ 8 ≥ memLimit

/-- The walk from a node at `5 - fuel` (R294, R298); every entry is read whole at its home (DEDUCED, log 62). -/
def walkFrom (s : State) (va : Nat) : Nat → Nat → Walk
  | 0, _ => .malformed
  | fuel + 1, node =>
    let level := 4 - fuel
    let e := s.rd (devKey s.self (node + 8 * vaIndex va level)) 8
    if bits e 0 1 = 0 then .noMap
    else if bits e 1 1 = 1 then (if leafMalformed s e level then .malformed else .leaf e level)
    else if tableMalformed e level then .malformed
    else walkFrom s va fuel (bits e 8 40 * 2 ^ 8)

/-- The walk of an address space (DEDUCED, log 62). -/
def walk (s : State) (asid va : Nat) : Walk :=
  if va ≥ 2 ^ 57 then .noMap
  else if (s.asid asid).root * 4096 ≥ memLimit then .malformed
  else walkFrom s va 5 ((s.asid asid).root * 4096)

/-- Step 5 of R297: the key of a leaf is owned by the context, and owns every frame the leaf maps (R306). -/
def keyOk (s : State) (asid e level : Nat) : Bool :=
  let k := bits e 50 6
  k == 0 || (afind k s.shallot.keys == some asid &&
    (bits e 15 1 == 0 ||
      (List.range (2 ^ (leafBits level - 16))).all fun i => aget 0 (bits e 16 32 + i) s.shallot.owner == k))

/-- What translation answers: the key of the first byte with its leaf, a fault by cause and flag (R308), or a write held
for collapse (step 7). -/
inductive Xlate where
  | ok (key leaf level : Nat)
  | fault (cause flag : Nat)
  | collapse
  deriving DecidableEq, Repr

/-- Steps 3 to 7 of R297 on a leaf. -/
def checkLeaf (s : State) (asid va : Nat) (k : Acc) (e level : Nat) : Xlate :=
  if bits e 7 1 = 0 then .fault 6 2
  else if (k = .read ∨ k = .atomic) ∧ bits e 4 1 = 0 then .fault 6 3
  else if (k = .write ∨ k = .atomic) ∧ bits e 5 1 = 0 then .fault 6 4
  else if k = .fetch ∧ bits e 6 1 = 0 then .fault 6 5
  else if !keyOk s asid e level then .fault 6 6
  else if bits e 15 1 = 0 then .fault 8 0
  else if (k = .write ∨ k = .atomic) ∧ (bits e 48 2 = 1 ∨ bits e 48 2 = 2) then .collapse
  else
    let dev := if bits e 48 2 = 0 then bits e 56 8 else s.self
    .ok (devKey dev (bits e 16 32 * 2 ^ 16 + va % 2 ^ leafBits level)) e level

/-- The 64 KiB page of an address. -/
def vpage (va : Nat) : Nat := va / 2 ^ 16

/-- A cached translation serves a 64 KiB page: one of the whole page that its leaf maps (R294, R298). -/
def Tlb.serves (t : Tlb) (page : Nat) : Bool :=
  t.page / 2 ^ (leafBits t.level - 16) == page / 2 ^ (leafBits t.level - 16)

/-- The address bits that lead to an entry of a level. -/
def tabPrefix (va level : Nat) : Nat := va / 2 ^ (48 - 9 * level)

/-- What cached translations and table entries say of an address where that differs from the tables: each cached entry is whole,
and the walk goes on from it (R298, R299) (DEDUCED, log 19). -/
def staleWalks (s : State) (asid va : Nat) (w : Walk) : List Walk :=
  let leaves := (s.tlb.filter fun t => t.asid == asid && t.serves (vpage va)).map fun t =>
    if leafMalformed s t.leaf.toNat t.level then Walk.malformed else Walk.leaf t.leaf.toNat t.level
  let tabs := (s.tabs.filter fun t => t.asid == asid && t.prefix_ == tabPrefix va t.level).map fun t =>
    walkFrom s va (4 - t.level) t.node
  (leaves ++ tabs).filter fun x => decide (x ≠ w)

/-- What a walk's result answers. -/
def answerOf (s : State) (asid va : Nat) (k : Acc) : Walk → Xlate
  | .noMap => .fault 6 0
  | .malformed => .fault 6 1
  | .leaf e level => checkLeaf s asid va k e level

/-- Translates an access: by the tables, or by a cached entry that differs until Tuber has answered (R299); which of them is the
device's choice, a free value (assumption 4). `i` tells the accesses of one instruction apart (DEDUCED, log 19). -/
def translate (s : State) (asid va : Nat) (k : Acc) (i : Nat) : Xlate :=
  let w := walk s asid va
  if va ≥ 2 ^ 57 then answerOf s asid va k w
  else match staleWalks s asid va w with
  | [] => answerOf s asid va k w
  | l => answerOf s asid va k
      ((w :: l).getD (Config.free s.fresh 1 (2 ^ 64 * asid + 64 * vpage va + i) % (l.length + 1)) w)

/-- The table entries on the walk of an address. -/
def tabsOf (s : State) (asid va : Nat) : Nat → Nat → List TabEnt
  | 0, _ => []
  | fuel + 1, node =>
    let level := 4 - fuel
    let e := s.rd (devKey s.self (node + 8 * vaIndex va level)) 8
    if bits e 0 1 = 0 ∨ bits e 1 1 = 1 ∨ tableMalformed e level then []
    else ⟨asid, level, tabPrefix va level, bits e 8 40 * 2 ^ 8⟩ :: tabsOf s asid va fuel (bits e 8 40 * 2 ^ 8)

/-- Keeps the translation an access used, and the table entries to it, so that they may be used again (R298). -/
def noteTlb (s : State) (asid va : Nat) (leaf level : Nat) : State :=
  let t : Tlb := ⟨asid, vpage va, level, BitVec.ofNat 64 leaf⟩
  let new := (tabsOf s asid va 5 ((s.asid asid).root * 4096)).filter fun e =>
    !(s.tabs.any fun u => u.asid == asid && u.level == e.level && u.prefix_ == e.prefix_)
  { s with
    tlb := if s.tlb.any fun u => u.asid == asid && u.serves (vpage va) then s.tlb else t :: s.tlb
    tabs := new ++ s.tabs }

/-- Attributes of a leaf (R296): CACHE 2 makes the page not parkable. -/
def leafPark (e : Nat) : Bool := bits e 14 1 == 1 && bits e 8 2 != 2

/-- The home die of a line (R223), on the device its key names. -/
def homeDie (key : Nat) : Nat :=
  let pa := key % 2 ^ 48
  if pa < 2 ^ 40 then bits pa 38 2 else Nat.xor (bits pa 7 2) (bits pa 15 2)

/-- The home site of a line by the six-bit folds of its line number (R224). -/
def homeSite (key : Nat) : Nat :=
  let l := key % 2 ^ 48 / 128
  ((List.range 8).map fun i => l / 2 ^ (6 * i) % 64).foldl Nat.xor 0

/-! ### Keyed frames (R306) -/

/-- The key id of a frame of this device. -/
def keyOf (s : State) (key : Nat) : Nat := if key / 2 ^ 48 = s.self then aget 0 (key % 2 ^ 48 / 65536) s.shallot.owner else 0

/-- A byte lies in a frame of a key that a context does not own: a read finds zero and a write is discarded (R306). -/
def State.foreign (s : State) (asid key : Nat) : Bool :=
  keyOf s key != 0 && afind (keyOf s key) s.shallot.keys != some asid

/-- Shallot counts an access it refuses (R306). -/
def refuse (s : State) : State := { s with shallot := { s.shallot with refused := s.shallot.refused + 1 } }

/-- Shallot counts those of a context's accesses that it refuses (R306). -/
def refuseAll (s : State) (asid : Nat) (keys : List Nat) : State :=
  (keys.filter (s.foreign asid)).foldl (fun s _ => refuse s) s

/-- Bytes of memory as a device reads them for a context at home (R306). -/
def State.shown (s : State) (asid key n : Nat) : List Byte :=
  if s.foreign asid key then List.replicate n 0 else mread s.mem key n

end Sys2Proof.Machine
end

