-- ==== Sys2Proof/Machine/Devtree.lean ====
section
/-! DEFINITION. The Devicetree that the boot firmware builds, and what the resident OS keeps of it for a process (R340, R341): a
flattened blob of version 17. -/
set_option linter.all false
namespace Sys2Proof.Machine

/-! ### The form of a blob -/

/-- A number's n bytes, most significant first. -/
def natBe (n v : Nat) : List Byte := (natLe n v).reverse

def asciiOf (t : String) : List Byte := t.toList.map fun c => BitVec.ofNat 8 c.toNat

/-- A string with its terminating zero. -/
def dtStr (t : String) : List Byte := asciiOf t ++ [0]

/-- Bytes filled up with zeros to a multiple of four. -/
def pad4 (b : List Byte) : List Byte := b ++ List.replicate ((4 - b.length % 4) % 4) 0

/-- The property names of the tree (DESIGN CHOICE, log 112). -/
def dtNames : List String :=
  ["compatible", "geari-level", "device-index", "site-grid", "core-class", "device_type", "reg", "link-state", "class",
    "#address-cells", "#size-cells"]

/-- The strings block. -/
def dtStrings : List Byte := dtNames.flatMap dtStr

/-- Where a name stands in the strings block. -/
def nameOff (n : String) : Nat := ((dtNames.takeWhile (· != n)).map fun t => t.length + 1).sum

/-- A property: its token, its length, its name and its value. -/
def dtProp (n : String) (v : List Byte) : List Byte := natBe 4 3 ++ natBe 4 v.length ++ natBe 4 (nameOff n) ++ pad4 v

/-- A node: its name, its properties, the nodes in it. -/
def dtNode (n : String) (props : List (List Byte)) (kids : List (List Byte)) : List Byte :=
  natBe 4 1 ++ pad4 (dtStr n) ++ props.flatten ++ kids.flatten ++ natBe 4 2

/-- The blob of a root node: the header, no memory reservation, the structure and the strings. -/
def dtBlob (root : List Byte) : List Byte :=
  let st := root ++ natBe 4 9
  let offS := 56 + st.length
  [0xd00dfeed, offS + dtStrings.length, 56, offS, 40, 17, 16, 0, dtStrings.length, st.length].flatMap (natBe 4) ++
    List.replicate 16 0 ++ st ++ dtStrings

/-! ### The nodes (R341) -/

/-- A die: its grid of sites, and each site's core class, 0 Marrow and 1 Radish, in the order of the site numbers (R7, R8). -/
def dieNode (d : Nat) : List Byte :=
  dtNode ("die@" ++ toString d)
    [dtProp "site-grid" (natBe 4 8 ++ natBe 4 8),
      dtProp "core-class" ((List.range 64).map fun i => if isRadishCore (64 * d + i) then 1 else 0)] []

/-- A range of memory. -/
def memNode (r : Nat × Nat) : List Byte :=
  dtNode ("memory@" ++ String.ofList (Nat.toDigits 16 r.1)) [dtProp "device_type" (dtStr "memory"), dtProp "reg" (natBe 8 r.1 ++ natBe 8 r.2)] []

/-- A peer port, with its link state: 1 up, 0 failed. -/
def peerNode (s : State) (p : Nat) : List Byte :=
  dtNode ("peer@" ++ toString p) [dtProp "link-state" (natBe 4 (if (s.link (6 + p)).failed then 0 else 1))] []

/-- A launch queue, with its class. -/
def queueNode (s : State) (q : Nat) : List Byte := dtNode ("queue@" ++ toString q) [dtProp "class" (natBe 4 (s.queue q).cls)] []

/-- The tree of some dies, ranges of memory and queues, with the peers and the device index (R341) (DESIGN CHOICE, log 112). -/
def dtTree (s : State) (dies : List Nat) (mems : List (Nat × Nat)) (queues : List Nat) : List Byte :=
  dtBlob (dtNode ""
    [dtProp "#address-cells" (natBe 4 2), dtProp "#size-cells" (natBe 4 2), dtProp "compatible" (dtStr "axrok,knaevenu"),
      dtProp "geari-level" (natBe 4 1), dtProp "device-index" (natBe 4 s.self)]
    (dies.map dieNode ++ mems.map memNode ++ queues.map (queueNode s) ++ (List.range 18).map (peerNode s)))

/-- HBM4E and the second tier (R223). -/
def allMemory : List (Nat × Nat) := [(0, 2 ^ 40), (2 ^ 40, 2 ^ 41)]

/-- What the boot firmware builds. -/
def devicetree (s : State) : List Byte := dtTree s (List.range 4) allMemory []

/-- A range lies within one memory of the device. -/
def memRange (r : Nat × Nat) : Bool := 0 < r.2 && allMemory.any fun m => m.1 ≤ r.1 && r.1 + r.2 ≤ m.1 + m.2

/-- What the resident OS keeps for a process: the dies and the memory that it may use, and its queues. -/
def processTree (s : State) (asid : Nat) (c : DtCut) : List Byte :=
  dtTree s (c.dies.filter (· < 4)).eraseDups (c.mems.filter memRange)
    ((List.range 256).filter fun q => (s.queue q).en && (s.queue q).asid == asid)

end Sys2Proof.Machine
end

