-- ==== Sys2Proof/WellFormed.lean ====
section
/-! DEFINITION. Well-formed instructions: the operand values that a word of both encodings may hold (R73), apart from
those that depend on MODE, on the group's allotment or on a literal, which issue checks. -/
set_option linter.all false
namespace Sys2Proof

/-- A 64-bit operand names an even register (R39). -/
def evenReg (n : Nat) : Bool := n % 2 == 0

/-- A BRX table holds 1 to 255 words (R63). -/
def tblOk (n : Nat) : Bool := 1 ≤ n && n ≤ 255

/-- A barrier class and an index within it: tb 0-15, kb 0-7, gb 0-3 (R63). -/
def barOk (c : BitVec 2) (i : BitVec 4) : Bool :=
  c == 0 || (c == 1 && i.toNat < 8) || (c == 2 && i.toNat < 4)

/-- An index that XRD and XWR list (R111). -/
def trapIndex (i : Nat) : Bool :=
  i < 5 || (8 ≤ i && i < 0x11) || (0x20 ≤ i && i < 0x30) || (0x30 ≤ i && i < 0x3C)

/-- An index that SREAD lists; one of a 64-bit value takes an even register (R112). -/
def specialIndex (i k : Nat) : Bool :=
  i < 0x0F || (0x10 ≤ i && i ≤ 0x1A && i % 2 == 0 && evenReg k)

/-- A Radish immediate: with a literal the 16-bit field is zero (R78). -/
def rimmOk (r : RImm) : Bool := r.lit.isNone || r.imm == 0

/-- The immediate of a Radish SMOVI: with a literal the field is 0 or 1, and without one it is any value (R78). -/
def rimmPairOk (r : RImm) : Bool := r.lit.isNone || r.imm == 0 || r.imm == 1

/-- A LIT's value lies in its literal words: 32 bits for the narrow form (R66). -/
def litOk (wide : Bool) (v : BitVec 64) : Bool := wide || v.toNat < 2 ^ 32

/-- The field values R73 allows, one arm a constructor. -/
def WellFormed : Instr → Bool
  | .nop => true
  | .setm _ => true
  | .setms _ => true
  | .getm _ => true
  | .bra _ _ => true
  | .brd _ _ _ _ => true
  | .brx _ _ tbl => tblOk tbl.length
  | .callAddr b _ => b != 0
  | .ret b => b != 0
  | .markJoin _ => true
  | .joinFrags => true
  | .ppush _ => true
  | .pinv => true
  | .ppop => true
  | .emrd _ => true
  | .emwr _ => true
  | .waitc _ _ _ _ => true
  | .cbatch => true
  | .waitb _ => true
  | .bar c i => barOk c i
  | .bara c i => barOk c i
  | .barw c i => barOk c i
  | .drain c i => barOk c i
  | .eqp n => n != 0xFFFF
  | .migrTeam _ n => n != 0xFFFF
  | .rolesw _ => true
  | .yieldIssue => true
  | .exitFrag => true
  | .trapCode _ => true
  | .xret _ => true
  | .xrd _ i => trapIndex i.toNat
  | .xwr _ i => trapIndex i.toNat
  | .sread k i => specialIndex i.toNat k.toNat
  | .launchQueue _ => true
  | .ifence => true
  | .cpref _ _ => true
  | .snooze _ => true
  | .loopCount _ _ => true
  | .iadd _ _ _ => true
  | .isub _ _ _ => true
  | .imul _ _ _ => true
  | .imulh _ _ _ => true
  | .imad _ _ _ => true
  | .idiv _ _ _ => true
  | .irem _ _ _ => true
  | .imin _ _ _ => true
  | .imax _ _ _ => true
  | .iabs _ _ => true
  | .ineg _ _ => true
  | .iaddc _ _ _ => true
  | .icmp c _ _ _ => c.toNat < 6
  | .selLane _ _ _ => true
  | .andBits _ _ _ => true
  | .orBits _ _ _ => true
  | .xorBits _ _ _ => true
  | .notBits _ _ => true
  | .shl _ _ _ => true
  | .shr _ _ _ => true
  | .sar _ _ _ => true
  | .rotl _ _ _ => true
  | .popc _ _ => true
  | .clz _ _ => true
  | .ctz _ _ => true
  | .brev _ _ => true
  | .bfe _ _ _ => true
  | .bfi _ _ _ => true
  | .movLane _ _ => true
  | .movi _ _ => true
  | .lea d _ _ => evenReg d.toNat
  | .iaddi _ _ _ => true
  | .sadd _ _ _ => true
  | .ssub _ _ _ => true
  | .smul _ _ _ => true
  | .sand _ _ _ => true
  | .sor _ _ _ => true
  | .sxor _ _ _ => true
  | .sshl _ _ _ => true
  | .sshr _ _ _ => true
  | .scmp c _ _ _ => c.toNat < 6
  | .smov _ _ => true
  | .smovi _ _ => true
  | .slea d _ => evenReg d.toNat
  | .vtos _ _ => true
  | .stov _ _ => true
  | .smin _ _ _ => true
  | .smax _ _ _ => true
  | .fadd _ _ _ => true
  | .fsub _ _ _ => true
  | .fmul _ _ _ => true
  | .ffma _ _ _ => true
  | .fmin _ _ _ => true
  | .fmax _ _ _ => true
  | .fabs _ _ => true
  | .fneg _ _ => true
  | .fcmp c _ _ _ => c.toNat < 7
  | .fclass _ _ => true
  | .fdiv _ _ _ => true
  | .fsqrt _ _ => true
  | .frnd _ _ => true
  | .fldexp _ _ _ => true
  | .fexpo _ _ => true
  | .fsgnj _ _ _ => true
  | .frcp _ _ => true
  | .frsq _ _ => true
  | .fex2 _ _ => true
  | .flg2 _ _ => true
  | .fsin _ _ => true
  | .fcos _ _ => true
  | .ftanh _ _ => true
  | .cvt _ _ src => src.toNat < 12
  | .cvti _ _ src => (2 ≤ src.toNat && src.toNat ≤ 5)
  | .pack _ _ _ => true
  | .unpk _ _ => true
  | .qhist _ _ _ => true
  | .qscale _ _ _ => true
  | .quant _ _ _ => true
  | .deq _ _ _ => true
  | .qclr _ => true
  | .shfl _ _ _ => true
  | .shflu _ _ _ => true
  | .shfld _ _ _ => true
  | .shflx _ _ _ => true
  | .vote _ _ _ => true
  | .redu _ _ _ => true
  | .scanLanes _ _ _ => true
  | .matchLanes _ _ => true
  | .bcast _ _ _ => true
  | .firstLane _ _ => true
  | .ldGlobal _ _ sc _ _ => sc.toNat < 6
  | .stGlobal _ _ sc _ _ => sc.toNat < 6
  | .ldx _ _ sc _ _ => sc.toNat < 6
  | .stx _ _ sc _ _ => sc.toNat < 6
  | .lds _ _ => true
  | .sts _ _ => true
  | .ldp _ _ => true
  | .stp _ _ => true
  | .stn _ _ sc _ _ => sc.toNat < 6
  | .srset _ => true
  | .atadd _ _ sc _ _ => sc.toNat < 6
  | .atmin _ _ sc _ _ => sc.toNat < 6
  | .atmax _ _ sc _ _ => sc.toNat < 6
  | .atand _ _ sc _ _ => sc.toNat < 6
  | .ator _ _ sc _ _ => sc.toNat < 6
  | .atxor _ _ sc _ _ => sc.toNat < 6
  | .atxch _ _ sc _ _ => sc.toNat < 6
  | .atcas d _ sc _ _ => evenReg d.toNat && sc.toNat < 6
  | .redadd _ _ sc _ _ => sc.toNat < 6
  | .redmin _ _ sc _ _ => sc.toNat < 6
  | .redmax _ _ sc _ _ => sc.toNat < 6
  | .fence sc o seq => sc.toNat < 6 && (!seq || o == 3)
  | .ofence sc _ _ => sc.toNat < 6
  | .rflush _ _ => true
  | .rinv _ _ => true
  | .pfetch _ _ => true
  | .locate _ _ => true
  | .repark _ _ => true
  | .unpark _ _ => true
  | .objdef _ _ => true
  | .objdel _ => true
  | .pcommit _ _ => true
  | .pdecommit _ _ => true
  | .allocBlock n => evenReg n.toNat
  | .freeBlock n => evenReg n.toNat
  | .pquery _ _ => true
  | .tcopy _ _ b => evenReg b.toNat
  | .tcopym _ _ b => evenReg b.toNat
  | .chain _ _ => true
  | .bbinit _ _ => true
  | .bbexp _ _ => true
  | .bbwait _ _ => true
  | .bbinv _ => true
  | .bbarr _ _ => true
  | .rinit _ => true
  | .racq _ _ => true
  | .rpub _ _ _ => true
  | .rtake _ _ => true
  | .rdone _ _ => true
  | .rclose _ => true
  | .spush _ _ => true
  | .mma64x64x64 _ _ _ _ => true
  | .mma64x128x64 _ _ _ _ => true
  | .mma128x128x64 _ _ _ _ => true
  | .mma128x64x128 _ _ _ _ => true
  | .fbset _ => true
  | .xld _ _ => true
  | .xldr _ _ => true
  | .zclr _ _ => true
  | .zcvt _ _ => true
  | .zst _ _ => true
  | .zld _ _ => true
  | .zadd _ _ => true
  | .zscl _ _ => true
  | .lit wide v => litOk wide v
  | .loadResultReturn _ _ => true
  | .storeAck _ _ _ => true
  | .tuberAnswer _ _ => true
  | .objectTableAnswer _ => true
  | .sfuResultWrite _ => true
  | .locateFaultDetect _ _ => true
  | .copyPieceTransfer _ _ _ => true
  | .copyComplete _ => true
  | .snoozeExpiry _ _ => true
  | .yieldExpiry _ _ => true
  | .issueAgePromotion _ _ => true
  | .issueSlot _ _ _ => true
  | .packetAgePromotion _ _ => true
  | .loopSlotPass _ _ _ _ _ => true
  | .packetArrival _ _ _ => true
  | .lastChanceDrain _ _ _ => true
  | .flitReceive _ _ _ _ => true
  | .retransmitTimeout _ _ => true
  | .eccErrorDetected _ => true
  | .collapseRequest _ _ => true
  | .collapseSplit _ _ _ _ _ => true
  | .collapseAck _ _ _ _ => true
  | .launchDispatch _ _ => true
  | .waitWordPoll _ => true
  | .headReserveTimeout _ => true
  | .ttRelease _ => true
  | .migrationDispatch _ _ => true
  | .migrationAgeTimeout _ => true
  | .migrationComplete _ => true
  | .preemptHalt _ => true
  | .preemptSaveComplete _ => true
  | .mailboxHeadWrite _ _ => true
  | .mailboxCtailWrite _ _ => true
  | .mailboxEntryTake _ => true
  | .completionWrite _ => true
  | .sysExit _ _ => true
  | .sysLog _ _ _ => true
  | .sysMap _ _ _ _ _ => true
  | .sysUnmap _ _ _ => true
  | .sysLaunch _ _ _ _ _ _ => true
  | .sysWait _ _ _ => true
  | .sysPool _ _ _ => true
  | .sysTtset _ _ _ _ _ => true
  | .sysDtpage _ _ _ _ => true
  | .sysAttest _ _ _ => true
  | .sysRecord _ _ _ _ _ => true
  | .sysWaitTimeout _ => true
  | .queueTableWrite _ _ => true
  | .ttEntryWrite _ _ => true
  | .asidDescriptorWrite _ _ _ => true
  | .poolFeed _ => true
  | .invalidateGo _ => true
  | .invalidateDone => true
  | .schedPreempt => true
  | .schedRestore => true
  | .schedResumeReplay => true
  | .schedResumeSkip => true
  | .schedEndLaunch => true
  | .schedCmdReserved _ => true
  | .schedCmdDone => true
  | .faultQueueTailWrite _ => true
  | .plimWrite _ => true
  | .registerWrite _ _ => true
  | .spdmRequest _ => true
  | .ptpMessage _ => true
  | .mainSupplyOn _ => true
  | .mainSupplyOff => true
  | .idleRequest _ => true
  | .idleEnter => true
  | .powerOverLimit _ => true
  | .junctionOver95c _ _ => true
  | .thermalTrip _ => true
  | .coolantFlowTimeout => true
  | .supplySagTrip _ => true
  | .unlistedOpcode _ _ => true
  | .stewardCoreAccess _ _ _ => true
  | .shallotRequest _ => true
  | .bundleLoad _ _ => true
  | .grandmasterLost => true
  | .powerWithinLimit _ => true
  | .junctionBelow95c _ => true
  | .supplySagClear _ => true
  | .coolantFlowChange _ _ => true
  | .mmaComplete _ => true
  | .nopRadish _ => true
  | .getmRadish _ _ => true
  | .braRadish _ _ off => rimmOk off
  | .brdRadish _ _ _ _ off => rimmOk off
  | .brxRadish _ _ _ tbl => tblOk tbl.length
  | .callAddrRadish _ b off => b != 0 && rimmOk off
  | .retRadish _ b => b != 0
  | .markJoinRadish _ off => rimmOk off
  | .joinFragsRadish _ => true
  | .ppushRadish _ _ => true
  | .pinvRadish _ => true
  | .ppopRadish _ => true
  | .emrdRadish _ _ => true
  | .emwrRadish _ _ => true
  | .waitcRadish _ _ _ _ _ => true
  | .cbatchRadish _ => true
  | .waitbRadish _ _ => true
  | .barRadish _ c i => barOk c i
  | .baraRadish _ c i => barOk c i
  | .barwRadish _ c i => barOk c i
  | .drainRadish _ c i => barOk c i
  | .eqpRadish _ n => n != 0xFFFF
  | .migrTeamRadish _ _ n => n != 0xFFFF
  | .roleswRadish _ _ => true
  | .yieldIssueRadish _ => true
  | .exitFragRadish _ => true
  | .trapCodeRadish _ _ => true
  | .xretRadish _ _ => true
  | .xrdRadish _ _ i => trapIndex i.toNat
  | .xwrRadish _ _ i => trapIndex i.toNat
  | .sreadRadish _ k i => specialIndex i.toNat k.toNat
  | .launchQueueRadish _ _ => true
  | .ifenceRadish _ => true
  | .cprefRadish _ _ off => rimmOk off
  | .snoozeRadish _ _ => true
  | .loopCountRadish _ _ off => rimmOk off
  | .iaddRadish _ _ _ _ => true
  | .isubRadish _ _ _ _ => true
  | .imulRadish _ _ _ _ => true
  | .imulhRadish _ _ _ _ => true
  | .imadRadish _ _ _ _ => true
  | .idivRadish _ _ _ _ => true
  | .iremRadish _ _ _ _ => true
  | .iminRadish _ _ _ _ => true
  | .imaxRadish _ _ _ _ => true
  | .iabsRadish _ _ _ => true
  | .inegRadish _ _ _ => true
  | .iaddcRadish _ _ _ _ => true
  | .icmpRadish _ c _ _ _ => c.toNat < 6
  | .selLaneRadish _ _ _ _ => true
  | .andBitsRadish _ _ _ _ => true
  | .orBitsRadish _ _ _ _ => true
  | .xorBitsRadish _ _ _ _ => true
  | .notBitsRadish _ _ _ => true
  | .shlRadish _ _ _ _ => true
  | .shrRadish _ _ _ _ => true
  | .sarRadish _ _ _ _ => true
  | .rotlRadish _ _ _ _ => true
  | .popcRadish _ _ _ => true
  | .clzRadish _ _ _ => true
  | .ctzRadish _ _ _ => true
  | .brevRadish _ _ _ => true
  | .bfeRadish _ _ _ _ => true
  | .bfiRadish _ _ _ _ => true
  | .movLaneRadish _ _ _ => true
  | .moviRadish _ _ i => rimmOk i
  | .leaRadish _ d _ _ off => evenReg d.toNat && rimmOk off
  | .iaddiRadish _ _ _ i => rimmOk i
  | .saddRadish _ _ _ _ => true
  | .ssubRadish _ _ _ _ => true
  | .smulRadish _ _ _ _ => true
  | .sandRadish _ _ _ _ => true
  | .sorRadish _ _ _ _ => true
  | .sxorRadish _ _ _ _ => true
  | .sshlRadish _ _ _ _ => true
  | .sshrRadish _ _ _ _ => true
  | .scmpRadish _ c _ _ _ => c.toNat < 6
  | .smovRadish _ _ _ => true
  | .smoviRadish _ _ i => rimmPairOk i
  | .sleaRadish _ d _ off => evenReg d.toNat && rimmOk off
  | .vtosRadish _ _ _ => true
  | .stovRadish _ _ _ => true
  | .sminRadish _ _ _ _ => true
  | .smaxRadish _ _ _ _ => true
  | .faddRadish _ _ _ _ => true
  | .fsubRadish _ _ _ _ => true
  | .fmulRadish _ _ _ _ => true
  | .ffmaRadish _ _ _ _ => true
  | .fminRadish _ _ _ _ => true
  | .fmaxRadish _ _ _ _ => true
  | .fabsRadish _ _ _ => true
  | .fnegRadish _ _ _ => true
  | .fcmpRadish _ c _ _ _ => c.toNat < 7
  | .fclassRadish _ _ _ => true
  | .fdivRadish _ _ _ _ => true
  | .fsqrtRadish _ _ _ => true
  | .frndRadish _ _ _ => true
  | .fldexpRadish _ _ _ _ => true
  | .fexpoRadish _ _ _ => true
  | .fsgnjRadish _ _ _ _ => true
  | .frcpRadish _ _ _ => true
  | .frsqRadish _ _ _ => true
  | .fex2Radish _ _ _ => true
  | .flg2Radish _ _ _ => true
  | .fsinRadish _ _ _ => true
  | .fcosRadish _ _ _ => true
  | .ftanhRadish _ _ _ => true
  | .cvtRadish _ _ _ src => src.toNat < 12
  | .cvtiRadish _ _ _ src => (2 ≤ src.toNat && src.toNat ≤ 5)
  | .packRadish _ _ _ _ => true
  | .unpkRadish _ _ _ => true
  | .qhistRadish _ _ _ _ => true
  | .qscaleRadish _ _ _ _ => true
  | .quantRadish _ _ _ _ => true
  | .deqRadish _ _ _ _ => true
  | .qclrRadish _ _ => true
  | .shflRadish _ _ _ _ => true
  | .shfluRadish _ _ _ i => rimmOk i
  | .shfldRadish _ _ _ i => rimmOk i
  | .shflxRadish _ _ _ i => rimmOk i
  | .voteRadish _ _ _ i => rimmOk i
  | .reduRadish _ _ _ i => rimmOk i
  | .scanLanesRadish _ _ _ i => rimmOk i
  | .matchLanesRadish _ _ _ => true
  | .bcastRadish _ _ _ i => rimmOk i
  | .firstLaneRadish _ _ _ => true
  | .ldGlobalRadish _ _ _ sc _ _ off => sc.toNat < 6 && rimmOk off
  | .stGlobalRadish _ _ _ sc _ _ off => sc.toNat < 6 && rimmOk off
  | .ldxRadish _ _ _ sc _ _ off => sc.toNat < 6 && rimmOk off
  | .stxRadish _ _ _ sc _ _ off => sc.toNat < 6 && rimmOk off
  | .ldsRadish _ _ _ off => rimmOk off
  | .stsRadish _ _ _ off => rimmOk off
  | .ldpRadish _ _ _ off => rimmOk off
  | .stpRadish _ _ _ off => rimmOk off
  | .stnRadish _ _ _ sc _ _ off => sc.toNat < 6 && rimmOk off
  | .srsetRadish _ _ => true
  | .ataddRadish _ _ _ sc _ _ off => sc.toNat < 6 && rimmOk off
  | .atminRadish _ _ _ sc _ _ off => sc.toNat < 6 && rimmOk off
  | .atmaxRadish _ _ _ sc _ _ off => sc.toNat < 6 && rimmOk off
  | .atandRadish _ _ _ sc _ _ off => sc.toNat < 6 && rimmOk off
  | .atorRadish _ _ _ sc _ _ off => sc.toNat < 6 && rimmOk off
  | .atxorRadish _ _ _ sc _ _ off => sc.toNat < 6 && rimmOk off
  | .atxchRadish _ _ _ sc _ _ off => sc.toNat < 6 && rimmOk off
  | .atcasRadish _ d _ sc _ _ off => evenReg d.toNat && sc.toNat < 6 && rimmOk off
  | .redaddRadish _ _ _ sc _ _ off => sc.toNat < 6 && rimmOk off
  | .redminRadish _ _ _ sc _ _ off => sc.toNat < 6 && rimmOk off
  | .redmaxRadish _ _ _ sc _ _ off => sc.toNat < 6 && rimmOk off
  | .fenceRadish _ sc o seq => sc.toNat < 6 && (!seq || o == 3)
  | .ofenceRadish _ sc _ _ => sc.toNat < 6
  | .rflushRadish _ _ _ off => rimmOk off
  | .rinvRadish _ _ _ off => rimmOk off
  | .pfetchRadish _ _ _ off => rimmOk off
  | .locateRadish _ _ _ off => rimmOk off
  | .reparkRadish _ _ _ off => rimmOk off
  | .unparkRadish _ _ _ off => rimmOk off
  | .objdefRadish _ _ _ => true
  | .objdelRadish _ _ => true
  | .pcommitRadish _ _ _ off => rimmOk off
  | .pdecommitRadish _ _ _ off => rimmOk off
  | .allocBlockRadish _ n => evenReg n.toNat
  | .freeBlockRadish _ n => evenReg n.toNat
  | .pqueryRadish _ _ _ off => rimmOk off
  | .tcopyRadish _ _ _ b => evenReg b.toNat
  | .tcopymRadish _ _ _ b => evenReg b.toNat
  | .chainRadish _ _ _ => true
  | .bbinitRadish _ _ _ => true
  | .bbexpRadish _ _ _ => true
  | .bbwaitRadish _ _ _ => true
  | .bbinvRadish _ _ => true
  | .bbarrRadish _ _ _ => true
  | .rinitRadish _ _ => true
  | .racqRadish _ _ _ => true
  | .rpubRadish _ _ _ _ => true
  | .rtakeRadish _ _ _ => true
  | .rdoneRadish _ _ _ => true
  | .rcloseRadish _ _ => true
  | .spushRadish _ _ _ => true

end Sys2Proof
end

