-- ==== Sys2Proof/Decode.lean ====
section
/-! DEFINITION. Decoding and encoding (R60 to R79).  The decoder is total: a word is an instruction or is rejected by name.
It reads the fields of a word; field values that R73 reserves without a fixed zero are left to `WellFormed`, which issue
checks.  The encoder writes the words of an instruction from the same layouts. -/
set_option linter.all false
namespace Sys2Proof

/-- Why a word is no instruction: an opcode the map leaves unlisted (R68, R79), or a field the layout fixes that holds
another value (R60, R73), or a matrix opcode in a Radish word, which raises the role fault (R79). -/
inductive Reject where
  | unlisted
  | reserved
  | role
  deriving DecidableEq, Repr

/-- Bits lo to lo+n-1 of a word. -/
def fld (w : BitVec 32) (lo n : Nat) : BitVec n := w.extractLsb' lo n

/-- One bit of a word. -/
def bit (w : BitVec 32) (i : Nat) : Bool := w.getLsbD i

/-- The instruction, if the fixed fields hold their values. -/
def reqd (b : Bool) (i : Instr) : Except Reject Instr := if b then .ok i else .error .reserved

/-- MODE as bits [31:19] of a Radish word give it (R30, R76). -/
def radMode (w : BitVec 64) : BitVec 13 :=
  w.extractLsb' 19 1 ++ w.extractLsb' 20 1 ++ w.extractLsb' 21 3 ++ w.extractLsb' 24 4 ++ w.extractLsb' 28 1 ++
    w.extractLsb' 29 3

/-- The branch hint of a Radish word, bits [18:17] (R76). -/
def radHint (w : BitVec 64) : BitVec 2 := w.extractLsb' 17 2

/-- The immediate of a Radish word: bits [15:0], with the literal word when bit 16 is 1 (R78). -/
def radImm (w : BitVec 64) (ex : List (BitVec 64)) : RImm :=
  ⟨w.extractLsb' 0 16, if w.getLsbD 16 then some (ex.headD 0) else none⟩

/-- Bits [18:17] are zero where the instruction has no hint (R76). -/
def noHint (w : BitVec 64) : Bool := w.extractLsb' 17 2 == 0
/-- Bits [16:0] are zero where the instruction has no immediate (R78). -/
def noImm (w : BitVec 64) : Bool := w.extractLsb' 0 17 == 0
/-- Bits [18:0] are zero where the instruction has neither (R76, R78). -/
def noLow (w : BitVec 64) : Bool := w.extractLsb' 0 19 == 0


/-- Marrow words with opcode 0x00 to 0x0F (R68 to R71); `ex` is the table that follows a BRX. -/
def decodeMarrow0 (lo : Nat) (w : BitVec 32) (ex : List (BitVec 32)) : Except Reject Instr :=
  match lo with
  | 0 => reqd (fld w 0 24 == 0) (.nop)
  | 1 => reqd (fld w 13 11 == 0) (.setm (fld w 0 13))
  | 2 => reqd (fld w 6 18 == 0) (.setms (fld w 0 6))
  | 3 => reqd (fld w 6 18 == 0) (.getm (fld w 0 6))
  | 4 => .ok (.bra (fld w 22 2) (fld w 0 22))
  | 5 => .ok (.brd (fld w 22 2) (fld w 19 3) (bit w 18) (fld w 0 18))
  | 6 => reqd (fld w 16 6 == 0) (.brx (fld w 22 2) (fld w 8 8) ex)
  | 7 => .ok (.callAddr (fld w 21 3) (fld w 0 21))
  | 8 => reqd (fld w 3 21 == 0) (.ret (fld w 0 3))
  | 9 => reqd (fld w 22 2 == 0) (.markJoin (fld w 0 22))
  | 10 => reqd (fld w 0 24 == 0) (.joinFrags)
  | 11 => reqd (fld w 3 21 == 0) (.ppush (fld w 0 3))
  | 12 => reqd (fld w 0 24 == 0) (.pinv)
  | 13 => reqd (fld w 0 24 == 0) (.ppop)
  | 14 => reqd (fld w 6 18 == 0) (.emrd (fld w 0 6))
  | 15 => reqd (fld w 6 18 == 0) (.emwr (fld w 0 6))
  | _ => .error .unlisted

/-- Marrow words with opcode 0x10 to 0x1F (R68 to R71); `ex` is the table that follows a BRX. -/
def decodeMarrow1 (lo : Nat) (w : BitVec 32) (ex : List (BitVec 32)) : Except Reject Instr :=
  match lo with
  | 0 => reqd (fld w 0 4 == 0) (.waitc (fld w 18 6) (fld w 12 6) (fld w 8 4) (fld w 4 4))
  | 1 => reqd (fld w 0 24 == 0) (.cbatch)
  | 2 => reqd (fld w 16 8 == 0) (.waitb (fld w 0 16))
  | 3 => reqd (fld w 6 18 == 0) (.bar (fld w 4 2) (fld w 0 4))
  | 4 => reqd (fld w 6 18 == 0) (.bara (fld w 4 2) (fld w 0 4))
  | 5 => reqd (fld w 6 18 == 0) (.barw (fld w 4 2) (fld w 0 4))
  | 6 => reqd (fld w 6 18 == 0) (.drain (fld w 4 2) (fld w 0 4))
  | 7 => reqd (fld w 16 8 == 0) (.eqp (fld w 0 16))
  | 8 => reqd (fld w 17 7 == 0) (.migrTeam (bit w 16) (fld w 0 16))
  | 9 => reqd (fld w 3 21 == 0) (.rolesw (fld w 0 3))
  | 10 => reqd (fld w 0 24 == 0) (.yieldIssue)
  | 11 => reqd (fld w 0 24 == 0) (.exitFrag)
  | 12 => reqd (fld w 16 8 == 0) (.trapCode (fld w 0 16))
  | 13 => reqd (fld w 1 23 == 0) (.xret (bit w 0))
  | 14 => reqd (fld w 14 10 == 0) (.xrd (fld w 8 6) (fld w 0 8))
  | 15 => reqd (fld w 14 10 == 0) (.xwr (fld w 8 6) (fld w 0 8))
  | _ => .error .unlisted

/-- Marrow words with opcode 0x20 to 0x2F (R68 to R71); `ex` is the table that follows a BRX. -/
def decodeMarrow2 (lo : Nat) (w : BitVec 32) (ex : List (BitVec 32)) : Except Reject Instr :=
  match lo with
  | 0 => reqd (fld w 14 10 == 0) (.sread (fld w 8 6) (fld w 0 8))
  | 1 => reqd (fld w 3 21 == 0) (.launchQueue (fld w 0 3))
  | 2 => reqd (fld w 0 24 == 0) (.ifence)
  | 3 => .ok (.cpref (fld w 22 2) (fld w 0 22))
  | 4 => reqd (fld w 16 8 == 0) (.snooze (fld w 0 16))
  | 5 => .ok (.loopCount (fld w 18 6) (fld w 0 18))
  | _ => .error .unlisted

/-- Marrow words with opcode 0x30 to 0x3F (R68 to R71); `ex` is the table that follows a BRX. -/
def decodeMarrow3 (lo : Nat) (w : BitVec 32) (ex : List (BitVec 32)) : Except Reject Instr :=
  match lo with
  | 0 => .ok (.iadd (fld w 16 8) (fld w 8 8) (fld w 0 8))
  | 1 => .ok (.isub (fld w 16 8) (fld w 8 8) (fld w 0 8))
  | 2 => .ok (.imul (fld w 16 8) (fld w 8 8) (fld w 0 8))
  | 3 => .ok (.imulh (fld w 16 8) (fld w 8 8) (fld w 0 8))
  | 4 => .ok (.imad (fld w 16 8) (fld w 8 8) (fld w 0 8))
  | 5 => .ok (.idiv (fld w 16 8) (fld w 8 8) (fld w 0 8))
  | 6 => .ok (.irem (fld w 16 8) (fld w 8 8) (fld w 0 8))
  | 7 => .ok (.imin (fld w 16 8) (fld w 8 8) (fld w 0 8))
  | 8 => .ok (.imax (fld w 16 8) (fld w 8 8) (fld w 0 8))
  | 9 => reqd (fld w 0 8 == 0) (.iabs (fld w 16 8) (fld w 8 8))
  | 10 => reqd (fld w 0 8 == 0) (.ineg (fld w 16 8) (fld w 8 8))
  | 11 => .ok (.iaddc (fld w 16 8) (fld w 8 8) (fld w 0 8))
  | 12 => reqd (fld w 19 2 == 0) (.icmp (fld w 21 3) (fld w 16 3) (fld w 8 8) (fld w 0 8))
  | 13 => .ok (.selLane (fld w 16 8) (fld w 8 8) (fld w 0 8))
  | 14 => .ok (.andBits (fld w 16 8) (fld w 8 8) (fld w 0 8))
  | 15 => .ok (.orBits (fld w 16 8) (fld w 8 8) (fld w 0 8))
  | _ => .error .unlisted

/-- Marrow words with opcode 0x40 to 0x4F (R68 to R71); `ex` is the table that follows a BRX. -/
def decodeMarrow4 (lo : Nat) (w : BitVec 32) (ex : List (BitVec 32)) : Except Reject Instr :=
  match lo with
  | 0 => .ok (.xorBits (fld w 16 8) (fld w 8 8) (fld w 0 8))
  | 1 => reqd (fld w 0 8 == 0) (.notBits (fld w 16 8) (fld w 8 8))
  | 2 => .ok (.shl (fld w 16 8) (fld w 8 8) (fld w 0 8))
  | 3 => .ok (.shr (fld w 16 8) (fld w 8 8) (fld w 0 8))
  | 4 => .ok (.sar (fld w 16 8) (fld w 8 8) (fld w 0 8))
  | 5 => .ok (.rotl (fld w 16 8) (fld w 8 8) (fld w 0 8))
  | 6 => reqd (fld w 0 8 == 0) (.popc (fld w 16 8) (fld w 8 8))
  | 7 => reqd (fld w 0 8 == 0) (.clz (fld w 16 8) (fld w 8 8))
  | 8 => reqd (fld w 0 8 == 0) (.ctz (fld w 16 8) (fld w 8 8))
  | 9 => reqd (fld w 0 8 == 0) (.brev (fld w 16 8) (fld w 8 8))
  | 10 => .ok (.bfe (fld w 16 8) (fld w 8 8) (fld w 0 8))
  | 11 => .ok (.bfi (fld w 16 8) (fld w 8 8) (fld w 0 8))
  | 12 => reqd (fld w 0 8 == 0) (.movLane (fld w 16 8) (fld w 8 8))
  | 13 => reqd (fld w 8 8 == 0) (.movi (fld w 16 8) (fld w 0 8))
  | 14 => reqd (fld w 3 5 == 0) (.lea (fld w 16 8) (fld w 8 8) (fld w 0 3))
  | 15 => .ok (.iaddi (fld w 16 8) (fld w 8 8) (fld w 0 8))
  | _ => .error .unlisted

/-- Marrow words with opcode 0x50 to 0x5F (R68 to R71); `ex` is the table that follows a BRX. -/
def decodeMarrow5 (lo : Nat) (w : BitVec 32) (ex : List (BitVec 32)) : Except Reject Instr :=
  match lo with
  | 0 => reqd (fld w 22 2 == 0 && fld w 14 2 == 0 && fld w 6 2 == 0) (.sadd (fld w 16 6) (fld w 8 6) (fld w 0 6))
  | 1 => reqd (fld w 22 2 == 0 && fld w 14 2 == 0 && fld w 6 2 == 0) (.ssub (fld w 16 6) (fld w 8 6) (fld w 0 6))
  | 2 => reqd (fld w 22 2 == 0 && fld w 14 2 == 0 && fld w 6 2 == 0) (.smul (fld w 16 6) (fld w 8 6) (fld w 0 6))
  | 3 => reqd (fld w 22 2 == 0 && fld w 14 2 == 0 && fld w 6 2 == 0) (.sand (fld w 16 6) (fld w 8 6) (fld w 0 6))
  | 4 => reqd (fld w 22 2 == 0 && fld w 14 2 == 0 && fld w 6 2 == 0) (.sor (fld w 16 6) (fld w 8 6) (fld w 0 6))
  | 5 => reqd (fld w 22 2 == 0 && fld w 14 2 == 0 && fld w 6 2 == 0) (.sxor (fld w 16 6) (fld w 8 6) (fld w 0 6))
  | 6 => reqd (fld w 22 2 == 0 && fld w 14 2 == 0 && fld w 6 2 == 0) (.sshl (fld w 16 6) (fld w 8 6) (fld w 0 6))
  | 7 => reqd (fld w 22 2 == 0 && fld w 14 2 == 0 && fld w 6 2 == 0) (.sshr (fld w 16 6) (fld w 8 6) (fld w 0 6))
  | 8 => reqd (fld w 19 2 == 0 && fld w 14 2 == 0 && fld w 6 2 == 0) (.scmp (fld w 21 3) (fld w 16 3) (fld w 8 6) (fld w 0 6))
  | 9 => reqd (fld w 22 2 == 0 && fld w 14 2 == 0 && fld w 0 8 == 0) (.smov (fld w 16 6) (fld w 8 6))
  | 10 => reqd (fld w 22 2 == 0 && fld w 8 8 == 0) (.smovi (fld w 16 6) (fld w 0 8))
  | 11 => reqd (fld w 22 2 == 0 && fld w 8 8 == 255 && fld w 3 5 == 0) (.slea (fld w 16 6) (fld w 0 3))
  | 12 => reqd (fld w 22 2 == 0 && fld w 0 8 == 0) (.vtos (fld w 16 6) (fld w 8 8))
  | 13 => reqd (fld w 14 2 == 0 && fld w 0 8 == 0) (.stov (fld w 16 8) (fld w 8 6))
  | 14 => reqd (fld w 22 2 == 0 && fld w 14 2 == 0 && fld w 6 2 == 0) (.smin (fld w 16 6) (fld w 8 6) (fld w 0 6))
  | 15 => reqd (fld w 22 2 == 0 && fld w 14 2 == 0 && fld w 6 2 == 0) (.smax (fld w 16 6) (fld w 8 6) (fld w 0 6))
  | _ => .error .unlisted

/-- Marrow words with opcode 0x60 to 0x6F (R68 to R71); `ex` is the table that follows a BRX. -/
def decodeMarrow6 (lo : Nat) (w : BitVec 32) (ex : List (BitVec 32)) : Except Reject Instr :=
  match lo with
  | 0 => .ok (.fadd (fld w 16 8) (fld w 8 8) (fld w 0 8))
  | 1 => .ok (.fsub (fld w 16 8) (fld w 8 8) (fld w 0 8))
  | 2 => .ok (.fmul (fld w 16 8) (fld w 8 8) (fld w 0 8))
  | 3 => .ok (.ffma (fld w 16 8) (fld w 8 8) (fld w 0 8))
  | 4 => .ok (.fmin (fld w 16 8) (fld w 8 8) (fld w 0 8))
  | 5 => .ok (.fmax (fld w 16 8) (fld w 8 8) (fld w 0 8))
  | 6 => reqd (fld w 0 8 == 0) (.fabs (fld w 16 8) (fld w 8 8))
  | 7 => reqd (fld w 0 8 == 0) (.fneg (fld w 16 8) (fld w 8 8))
  | 8 => reqd (fld w 19 2 == 0) (.fcmp (fld w 21 3) (fld w 16 3) (fld w 8 8) (fld w 0 8))
  | 9 => reqd (fld w 0 8 == 0) (.fclass (fld w 16 8) (fld w 8 8))
  | 10 => .ok (.fdiv (fld w 16 8) (fld w 8 8) (fld w 0 8))
  | 11 => reqd (fld w 0 8 == 0) (.fsqrt (fld w 16 8) (fld w 8 8))
  | 12 => reqd (fld w 0 8 == 0) (.frnd (fld w 16 8) (fld w 8 8))
  | 13 => .ok (.fldexp (fld w 16 8) (fld w 8 8) (fld w 0 8))
  | 14 => reqd (fld w 0 8 == 0) (.fexpo (fld w 16 8) (fld w 8 8))
  | 15 => .ok (.fsgnj (fld w 16 8) (fld w 8 8) (fld w 0 8))
  | _ => .error .unlisted

/-- Marrow words with opcode 0x70 to 0x7F (R68 to R71); `ex` is the table that follows a BRX. -/
def decodeMarrow7 (lo : Nat) (w : BitVec 32) (ex : List (BitVec 32)) : Except Reject Instr :=
  match lo with
  | 0 => reqd (fld w 0 8 == 0) (.frcp (fld w 16 8) (fld w 8 8))
  | 1 => reqd (fld w 0 8 == 0) (.frsq (fld w 16 8) (fld w 8 8))
  | 2 => reqd (fld w 0 8 == 0) (.fex2 (fld w 16 8) (fld w 8 8))
  | 3 => reqd (fld w 0 8 == 0) (.flg2 (fld w 16 8) (fld w 8 8))
  | 4 => reqd (fld w 0 8 == 0) (.fsin (fld w 16 8) (fld w 8 8))
  | 5 => reqd (fld w 0 8 == 0) (.fcos (fld w 16 8) (fld w 8 8))
  | 6 => reqd (fld w 0 8 == 0) (.ftanh (fld w 16 8) (fld w 8 8))
  | _ => .error .unlisted

/-- Marrow words with opcode 0x80 to 0x8F (R68 to R71); `ex` is the table that follows a BRX. -/
def decodeMarrow8 (lo : Nat) (w : BitVec 32) (ex : List (BitVec 32)) : Except Reject Instr :=
  match lo with
  | 0 => reqd (fld w 4 4 == 0) (.cvt (fld w 16 8) (fld w 8 8) (fld w 0 4))
  | 1 => reqd (fld w 4 4 == 0) (.cvti (fld w 16 8) (fld w 8 8) (fld w 0 4))
  | 2 => .ok (.pack (fld w 16 8) (fld w 8 8) (fld w 0 8))
  | 3 => reqd (fld w 0 8 == 0) (.unpk (fld w 16 8) (fld w 8 8))
  | 4 => .ok (.qhist (fld w 16 8) (fld w 8 8) (fld w 0 8))
  | 5 => .ok (.qscale (fld w 16 8) (fld w 8 8) (fld w 0 8))
  | 6 => .ok (.quant (fld w 16 8) (fld w 8 8) (fld w 0 8))
  | 7 => .ok (.deq (fld w 16 8) (fld w 8 8) (fld w 0 8))
  | 8 => reqd (fld w 8 8 == 0 && fld w 0 8 == 0) (.qclr (fld w 16 8))
  | _ => .error .unlisted

/-- Marrow words with opcode 0x90 to 0x9F (R68 to R71); `ex` is the table that follows a BRX. -/
def decodeMarrow9 (lo : Nat) (w : BitVec 32) (ex : List (BitVec 32)) : Except Reject Instr :=
  match lo with
  | 0 => .ok (.shfl (fld w 16 8) (fld w 8 8) (fld w 0 8))
  | 1 => .ok (.shflu (fld w 16 8) (fld w 8 8) (fld w 0 8))
  | 2 => .ok (.shfld (fld w 16 8) (fld w 8 8) (fld w 0 8))
  | 3 => .ok (.shflx (fld w 16 8) (fld w 8 8) (fld w 0 8))
  | 4 => reqd (fld w 22 2 == 0 && fld w 11 5 == 0) (.vote (fld w 16 6) (fld w 8 3) (fld w 0 8))
  | 5 => .ok (.redu (fld w 16 8) (fld w 8 8) (fld w 0 8))
  | 6 => .ok (.scanLanes (fld w 16 8) (fld w 8 8) (fld w 0 8))
  | 7 => reqd (fld w 0 8 == 0) (.matchLanes (fld w 16 8) (fld w 8 8))
  | 8 => .ok (.bcast (fld w 16 8) (fld w 8 8) (fld w 0 8))
  | 9 => reqd (fld w 0 8 == 0) (.firstLane (fld w 16 8) (fld w 8 8))
  | _ => .error .unlisted

/-- Marrow words with opcode 0xA0 to 0xAF (R68 to R71); `ex` is the table that follows a BRX. -/
def decodeMarrowA (lo : Nat) (w : BitVec 32) (ex : List (BitVec 32)) : Except Reject Instr :=
  match lo with
  | 0 => .ok (.ldGlobal (fld w 16 8) (fld w 8 8) (fld w 5 3) (fld w 3 2) (fld w 0 3))
  | 1 => .ok (.stGlobal (fld w 16 8) (fld w 8 8) (fld w 5 3) (fld w 3 2) (fld w 0 3))
  | 2 => .ok (.ldx (fld w 16 8) (fld w 8 8) (fld w 5 3) (fld w 3 2) (fld w 0 3))
  | 3 => .ok (.stx (fld w 16 8) (fld w 8 8) (fld w 5 3) (fld w 3 2) (fld w 0 3))
  | 4 => reqd (fld w 0 8 == 0) (.lds (fld w 16 8) (fld w 8 8))
  | 5 => reqd (fld w 0 8 == 0) (.sts (fld w 16 8) (fld w 8 8))
  | 6 => reqd (fld w 0 8 == 0) (.ldp (fld w 16 8) (fld w 8 8))
  | 7 => reqd (fld w 0 8 == 0) (.stp (fld w 16 8) (fld w 8 8))
  | 8 => .ok (.stn (fld w 16 8) (fld w 8 8) (fld w 5 3) (fld w 3 2) (fld w 0 3))
  | 9 => reqd (fld w 6 18 == 0) (.srset (fld w 0 6))
  | 10 => .ok (.atadd (fld w 16 8) (fld w 8 8) (fld w 5 3) (fld w 3 2) (fld w 0 3))
  | 11 => .ok (.atmin (fld w 16 8) (fld w 8 8) (fld w 5 3) (fld w 3 2) (fld w 0 3))
  | 12 => .ok (.atmax (fld w 16 8) (fld w 8 8) (fld w 5 3) (fld w 3 2) (fld w 0 3))
  | 13 => .ok (.atand (fld w 16 8) (fld w 8 8) (fld w 5 3) (fld w 3 2) (fld w 0 3))
  | 14 => .ok (.ator (fld w 16 8) (fld w 8 8) (fld w 5 3) (fld w 3 2) (fld w 0 3))
  | 15 => .ok (.atxor (fld w 16 8) (fld w 8 8) (fld w 5 3) (fld w 3 2) (fld w 0 3))
  | _ => .error .unlisted

/-- Marrow words with opcode 0xB0 to 0xBF (R68 to R71); `ex` is the table that follows a BRX. -/
def decodeMarrowB (lo : Nat) (w : BitVec 32) (ex : List (BitVec 32)) : Except Reject Instr :=
  match lo with
  | 0 => .ok (.atxch (fld w 16 8) (fld w 8 8) (fld w 5 3) (fld w 3 2) (fld w 0 3))
  | 1 => .ok (.atcas (fld w 16 8) (fld w 8 8) (fld w 5 3) (fld w 3 2) (fld w 0 3))
  | 2 => .ok (.redadd (fld w 16 8) (fld w 8 8) (fld w 5 3) (fld w 3 2) (fld w 0 3))
  | 3 => .ok (.redmin (fld w 16 8) (fld w 8 8) (fld w 5 3) (fld w 3 2) (fld w 0 3))
  | 4 => .ok (.redmax (fld w 16 8) (fld w 8 8) (fld w 5 3) (fld w 3 2) (fld w 0 3))
  | 5 => reqd (fld w 16 8 == 0 && fld w 8 8 == 255 && fld w 1 2 == 0) (.fence (fld w 5 3) (fld w 3 2) (bit w 0))
  | 6 => reqd (fld w 16 8 == 0 && fld w 8 8 == 255) (.ofence (fld w 5 3) (fld w 3 2) (fld w 0 3))
  | 7 => reqd (fld w 22 2 == 0 && fld w 8 8 == 255 && fld w 3 5 == 0) (.rflush (fld w 16 6) (fld w 0 3))
  | 8 => reqd (fld w 22 2 == 0 && fld w 8 8 == 255 && fld w 3 5 == 0) (.rinv (fld w 16 6) (fld w 0 3))
  | 9 => reqd (fld w 16 8 == 0 && fld w 3 5 == 0) (.pfetch (fld w 8 8) (fld w 0 3))
  | 10 => reqd (fld w 16 8 == 0 && fld w 3 5 == 0) (.locate (fld w 8 8) (fld w 0 3))
  | 11 => reqd (fld w 22 2 == 0 && fld w 8 8 == 255 && fld w 3 5 == 0) (.repark (fld w 16 6) (fld w 0 3))
  | 12 => reqd (fld w 22 2 == 0 && fld w 8 8 == 255 && fld w 3 5 == 0) (.unpark (fld w 16 6) (fld w 0 3))
  | 13 => reqd (fld w 22 2 == 0 && fld w 8 8 == 255 && fld w 3 5 == 0) (.objdef (fld w 16 6) (fld w 0 3))
  | 14 => reqd (fld w 22 2 == 0 && fld w 8 8 == 255 && fld w 0 8 == 0) (.objdel (fld w 16 6))
  | _ => .error .unlisted

/-- Marrow words with opcode 0xC0 to 0xCF (R68 to R71); `ex` is the table that follows a BRX. -/
def decodeMarrowC (lo : Nat) (w : BitVec 32) (ex : List (BitVec 32)) : Except Reject Instr :=
  match lo with
  | 0 => reqd (fld w 22 2 == 0 && fld w 8 8 == 255 && fld w 3 5 == 0) (.pcommit (fld w 16 6) (fld w 0 3))
  | 1 => reqd (fld w 22 2 == 0 && fld w 8 8 == 255 && fld w 3 5 == 0) (.pdecommit (fld w 16 6) (fld w 0 3))
  | 2 => reqd (fld w 22 2 == 0 && fld w 8 8 == 255 && fld w 0 8 == 0) (.allocBlock (fld w 16 6))
  | 3 => reqd (fld w 22 2 == 0 && fld w 8 8 == 255 && fld w 0 8 == 0) (.freeBlock (fld w 16 6))
  | 4 => reqd (fld w 22 2 == 0 && fld w 8 8 == 255 && fld w 3 5 == 0) (.pquery (fld w 16 6) (fld w 0 3))
  | 8 => reqd (fld w 22 2 == 0 && fld w 14 2 == 0 && fld w 6 2 == 0) (.tcopy (fld w 16 6) (fld w 8 6) (fld w 0 6))
  | 9 => reqd (fld w 22 2 == 0 && fld w 14 2 == 0 && fld w 6 2 == 0) (.tcopym (fld w 16 6) (fld w 8 6) (fld w 0 6))
  | 10 => reqd (fld w 22 2 == 0 && fld w 14 2 == 0 && fld w 0 8 == 0) (.chain (fld w 16 6) (fld w 8 6))
  | 11 => reqd (fld w 16 8 == 0 && fld w 14 2 == 0 && fld w 6 2 == 0) (.bbinit (fld w 8 6) (fld w 0 6))
  | 12 => reqd (fld w 16 8 == 0 && fld w 14 2 == 0 && fld w 6 2 == 0) (.bbexp (fld w 8 6) (fld w 0 6))
  | 13 => reqd (fld w 22 2 == 0 && fld w 14 2 == 0 && fld w 0 8 == 0) (.bbwait (fld w 16 6) (fld w 8 6))
  | 14 => reqd (fld w 16 8 == 0 && fld w 14 2 == 0 && fld w 0 8 == 0) (.bbinv (fld w 8 6))
  | 15 => reqd (fld w 16 8 == 0 && fld w 14 2 == 0 && fld w 6 2 == 0) (.bbarr (fld w 8 6) (fld w 0 6))
  | _ => .error .unlisted

/-- Marrow words with opcode 0xD0 to 0xDF (R68 to R71); `ex` is the table that follows a BRX. -/
def decodeMarrowD (lo : Nat) (w : BitVec 32) (ex : List (BitVec 32)) : Except Reject Instr :=
  match lo with
  | 0 => reqd (fld w 16 8 == 0 && fld w 14 2 == 0 && fld w 0 8 == 0) (.rinit (fld w 8 6))
  | 1 => reqd (fld w 22 2 == 0 && fld w 14 2 == 0 && fld w 0 8 == 0) (.racq (fld w 16 6) (fld w 8 6))
  | 2 => reqd (fld w 22 2 == 0 && fld w 14 2 == 0 && fld w 6 2 == 0) (.rpub (fld w 16 6) (fld w 8 6) (fld w 0 6))
  | 3 => reqd (fld w 22 2 == 0 && fld w 14 2 == 0 && fld w 0 8 == 0) (.rtake (fld w 16 6) (fld w 8 6))
  | 4 => reqd (fld w 16 8 == 0 && fld w 14 2 == 0 && fld w 6 2 == 0) (.rdone (fld w 8 6) (fld w 0 6))
  | 5 => reqd (fld w 16 8 == 0 && fld w 14 2 == 0 && fld w 0 8 == 0) (.rclose (fld w 8 6))
  | 6 => reqd (fld w 16 8 == 0 && fld w 14 2 == 0 && fld w 6 2 == 0) (.spush (fld w 8 6) (fld w 0 6))
  | _ => .error .unlisted

/-- Marrow words with opcode 0xE0 to 0xEF (R68 to R71); `ex` is the table that follows a BRX. -/
def decodeMarrowE (lo : Nat) (w : BitVec 32) (ex : List (BitVec 32)) : Except Reject Instr :=
  match lo with
  | 0 => reqd (fld w 12 4 == 0 && fld w 4 4 == 0) (.mma64x64x64 (fld w 16 8) (bit w 11) (fld w 8 3) (fld w 0 4))
  | 1 => reqd (fld w 12 4 == 0 && fld w 4 4 == 0) (.mma64x128x64 (fld w 16 8) (bit w 11) (fld w 8 3) (fld w 0 4))
  | 2 => reqd (fld w 12 4 == 0 && fld w 4 4 == 0) (.mma128x128x64 (fld w 16 8) (bit w 11) (fld w 8 3) (fld w 0 4))
  | 3 => reqd (fld w 12 4 == 0 && fld w 4 4 == 0) (.mma128x64x128 (fld w 16 8) (bit w 11) (fld w 8 3) (fld w 0 4))
  | 4 => reqd (fld w 4 20 == 0) (.fbset (fld w 0 4))
  | 5 => reqd (fld w 11 13 == 0 && fld w 4 4 == 0) (.xld (fld w 8 3) (fld w 0 4))
  | 6 => reqd (fld w 11 13 == 0 && fld w 4 4 == 0) (.xldr (fld w 8 3) (fld w 0 4))
  | 7 => reqd (fld w 4 12 == 0) (.zclr (fld w 16 8) (fld w 0 4))
  | 8 => reqd (fld w 4 12 == 0) (.zcvt (fld w 16 8) (fld w 0 4))
  | 9 => reqd (fld w 4 12 == 0) (.zst (fld w 16 8) (fld w 0 4))
  | 10 => reqd (fld w 4 12 == 0) (.zld (fld w 16 8) (fld w 0 4))
  | 11 => reqd (fld w 4 12 == 0) (.zadd (fld w 16 8) (fld w 0 4))
  | 12 => reqd (fld w 4 12 == 0) (.zscl (fld w 16 8) (fld w 0 4))
  | _ => .error .unlisted

/-- Radish words with opcode 0x00 to 0x0F (R76, R78); `u` is the upper half of `w`. -/
noncomputable def decodeRadish0 (lo : Nat) (u : BitVec 32) (w : BitVec 64) (ex : List (BitVec 64)) : Except Reject Instr :=
  match lo with
  | 0 => reqd (fld u 0 24 == 0 && noLow w) (.nopRadish (radMode w))
  | 3 => reqd (fld u 6 18 == 0 && noLow w) (.getmRadish (radMode w) (fld u 0 6))
  | 4 => .ok (.braRadish (radMode w) (radHint w) (radImm w ex))
  | 5 => .ok (.brdRadish (radMode w) (radHint w) (fld u 19 3) (bit u 18) (radImm w ex))
  | 6 => reqd (fld u 16 6 == 0 && noImm w) (.brxRadish (radMode w) (radHint w) (fld u 8 8) ex)
  | 7 => reqd (noHint w) (.callAddrRadish (radMode w) (fld u 21 3) (radImm w ex))
  | 8 => reqd (fld u 3 21 == 0 && noLow w) (.retRadish (radMode w) (fld u 0 3))
  | 9 => reqd (fld u 22 2 == 0 && noHint w) (.markJoinRadish (radMode w) (radImm w ex))
  | 10 => reqd (fld u 0 24 == 0 && noLow w) (.joinFragsRadish (radMode w))
  | 11 => reqd (fld u 3 21 == 0 && noLow w) (.ppushRadish (radMode w) (fld u 0 3))
  | 12 => reqd (fld u 0 24 == 0 && noLow w) (.pinvRadish (radMode w))
  | 13 => reqd (fld u 0 24 == 0 && noLow w) (.ppopRadish (radMode w))
  | 14 => reqd (fld u 6 18 == 0 && noLow w) (.emrdRadish (radMode w) (fld u 0 6))
  | 15 => reqd (fld u 6 18 == 0 && noLow w) (.emwrRadish (radMode w) (fld u 0 6))
  | _ => .error .unlisted

/-- Radish words with opcode 0x10 to 0x1F (R76, R78); `u` is the upper half of `w`. -/
noncomputable def decodeRadish1 (lo : Nat) (u : BitVec 32) (w : BitVec 64) (ex : List (BitVec 64)) : Except Reject Instr :=
  match lo with
  | 0 => reqd (fld u 0 4 == 0 && noLow w) (.waitcRadish (radMode w) (fld u 18 6) (fld u 12 6) (fld u 8 4) (fld u 4 4))
  | 1 => reqd (fld u 0 24 == 0 && noLow w) (.cbatchRadish (radMode w))
  | 2 => reqd (fld u 16 8 == 0 && noLow w) (.waitbRadish (radMode w) (fld u 0 16))
  | 3 => reqd (fld u 6 18 == 0 && noLow w) (.barRadish (radMode w) (fld u 4 2) (fld u 0 4))
  | 4 => reqd (fld u 6 18 == 0 && noLow w) (.baraRadish (radMode w) (fld u 4 2) (fld u 0 4))
  | 5 => reqd (fld u 6 18 == 0 && noLow w) (.barwRadish (radMode w) (fld u 4 2) (fld u 0 4))
  | 6 => reqd (fld u 6 18 == 0 && noLow w) (.drainRadish (radMode w) (fld u 4 2) (fld u 0 4))
  | 7 => reqd (fld u 16 8 == 0 && noLow w) (.eqpRadish (radMode w) (fld u 0 16))
  | 8 => reqd (fld u 17 7 == 0 && noLow w) (.migrTeamRadish (radMode w) (bit u 16) (fld u 0 16))
  | 9 => reqd (fld u 3 21 == 0 && noLow w) (.roleswRadish (radMode w) (fld u 0 3))
  | 10 => reqd (fld u 0 24 == 0 && noLow w) (.yieldIssueRadish (radMode w))
  | 11 => reqd (fld u 0 24 == 0 && noLow w) (.exitFragRadish (radMode w))
  | 12 => reqd (fld u 16 8 == 0 && noLow w) (.trapCodeRadish (radMode w) (fld u 0 16))
  | 13 => reqd (fld u 1 23 == 0 && noLow w) (.xretRadish (radMode w) (bit u 0))
  | 14 => reqd (fld u 14 10 == 0 && noLow w) (.xrdRadish (radMode w) (fld u 8 6) (fld u 0 8))
  | 15 => reqd (fld u 14 10 == 0 && noLow w) (.xwrRadish (radMode w) (fld u 8 6) (fld u 0 8))
  | _ => .error .unlisted

/-- Radish words with opcode 0x20 to 0x2F (R76, R78); `u` is the upper half of `w`. -/
noncomputable def decodeRadish2 (lo : Nat) (u : BitVec 32) (w : BitVec 64) (ex : List (BitVec 64)) : Except Reject Instr :=
  match lo with
  | 0 => reqd (fld u 14 10 == 0 && noLow w) (.sreadRadish (radMode w) (fld u 8 6) (fld u 0 8))
  | 1 => reqd (fld u 3 21 == 0 && noLow w) (.launchQueueRadish (radMode w) (fld u 0 3))
  | 2 => reqd (fld u 0 24 == 0 && noLow w) (.ifenceRadish (radMode w))
  | 3 => reqd (noHint w) (.cprefRadish (radMode w) (fld u 22 2) (radImm w ex))
  | 4 => reqd (fld u 16 8 == 0 && noLow w) (.snoozeRadish (radMode w) (fld u 0 16))
  | 5 => reqd (noHint w) (.loopCountRadish (radMode w) (fld u 18 6) (radImm w ex))
  | _ => .error .unlisted

/-- Radish words with opcode 0x30 to 0x3F (R76, R78); `u` is the upper half of `w`. -/
noncomputable def decodeRadish3 (lo : Nat) (u : BitVec 32) (w : BitVec 64) (ex : List (BitVec 64)) : Except Reject Instr :=
  match lo with
  | 0 => reqd (noLow w) (.iaddRadish (radMode w) (fld u 16 8) (fld u 8 8) (fld u 0 8))
  | 1 => reqd (noLow w) (.isubRadish (radMode w) (fld u 16 8) (fld u 8 8) (fld u 0 8))
  | 2 => reqd (noLow w) (.imulRadish (radMode w) (fld u 16 8) (fld u 8 8) (fld u 0 8))
  | 3 => reqd (noLow w) (.imulhRadish (radMode w) (fld u 16 8) (fld u 8 8) (fld u 0 8))
  | 4 => reqd (noLow w) (.imadRadish (radMode w) (fld u 16 8) (fld u 8 8) (fld u 0 8))
  | 5 => reqd (noLow w) (.idivRadish (radMode w) (fld u 16 8) (fld u 8 8) (fld u 0 8))
  | 6 => reqd (noLow w) (.iremRadish (radMode w) (fld u 16 8) (fld u 8 8) (fld u 0 8))
  | 7 => reqd (noLow w) (.iminRadish (radMode w) (fld u 16 8) (fld u 8 8) (fld u 0 8))
  | 8 => reqd (noLow w) (.imaxRadish (radMode w) (fld u 16 8) (fld u 8 8) (fld u 0 8))
  | 9 => reqd (fld u 0 8 == 0 && noLow w) (.iabsRadish (radMode w) (fld u 16 8) (fld u 8 8))
  | 10 => reqd (fld u 0 8 == 0 && noLow w) (.inegRadish (radMode w) (fld u 16 8) (fld u 8 8))
  | 11 => reqd (noLow w) (.iaddcRadish (radMode w) (fld u 16 8) (fld u 8 8) (fld u 0 8))
  | 12 => reqd (fld u 19 2 == 0 && noLow w) (.icmpRadish (radMode w) (fld u 21 3) (fld u 16 3) (fld u 8 8) (fld u 0 8))
  | 13 => reqd (noLow w) (.selLaneRadish (radMode w) (fld u 16 8) (fld u 8 8) (fld u 0 8))
  | 14 => reqd (noLow w) (.andBitsRadish (radMode w) (fld u 16 8) (fld u 8 8) (fld u 0 8))
  | 15 => reqd (noLow w) (.orBitsRadish (radMode w) (fld u 16 8) (fld u 8 8) (fld u 0 8))
  | _ => .error .unlisted

/-- Radish words with opcode 0x40 to 0x4F (R76, R78); `u` is the upper half of `w`. -/
noncomputable def decodeRadish4 (lo : Nat) (u : BitVec 32) (w : BitVec 64) (ex : List (BitVec 64)) : Except Reject Instr :=
  match lo with
  | 0 => reqd (noLow w) (.xorBitsRadish (radMode w) (fld u 16 8) (fld u 8 8) (fld u 0 8))
  | 1 => reqd (fld u 0 8 == 0 && noLow w) (.notBitsRadish (radMode w) (fld u 16 8) (fld u 8 8))
  | 2 => reqd (noLow w) (.shlRadish (radMode w) (fld u 16 8) (fld u 8 8) (fld u 0 8))
  | 3 => reqd (noLow w) (.shrRadish (radMode w) (fld u 16 8) (fld u 8 8) (fld u 0 8))
  | 4 => reqd (noLow w) (.sarRadish (radMode w) (fld u 16 8) (fld u 8 8) (fld u 0 8))
  | 5 => reqd (noLow w) (.rotlRadish (radMode w) (fld u 16 8) (fld u 8 8) (fld u 0 8))
  | 6 => reqd (fld u 0 8 == 0 && noLow w) (.popcRadish (radMode w) (fld u 16 8) (fld u 8 8))
  | 7 => reqd (fld u 0 8 == 0 && noLow w) (.clzRadish (radMode w) (fld u 16 8) (fld u 8 8))
  | 8 => reqd (fld u 0 8 == 0 && noLow w) (.ctzRadish (radMode w) (fld u 16 8) (fld u 8 8))
  | 9 => reqd (fld u 0 8 == 0 && noLow w) (.brevRadish (radMode w) (fld u 16 8) (fld u 8 8))
  | 10 => reqd (noLow w) (.bfeRadish (radMode w) (fld u 16 8) (fld u 8 8) (fld u 0 8))
  | 11 => reqd (noLow w) (.bfiRadish (radMode w) (fld u 16 8) (fld u 8 8) (fld u 0 8))
  | 12 => reqd (fld u 0 8 == 0 && noLow w) (.movLaneRadish (radMode w) (fld u 16 8) (fld u 8 8))
  | 13 => reqd (fld u 8 8 == 0 && noHint w) (.moviRadish (radMode w) (fld u 16 8) (radImm w ex))
  | 14 => reqd (fld u 3 5 == 0 && noHint w) (.leaRadish (radMode w) (fld u 16 8) (fld u 8 8) (fld u 0 3) (radImm w ex))
  | 15 => reqd (noHint w) (.iaddiRadish (radMode w) (fld u 16 8) (fld u 8 8) (radImm w ex))
  | _ => .error .unlisted

/-- Radish words with opcode 0x50 to 0x5F (R76, R78); `u` is the upper half of `w`. -/
noncomputable def decodeRadish5 (lo : Nat) (u : BitVec 32) (w : BitVec 64) (ex : List (BitVec 64)) : Except Reject Instr :=
  match lo with
  | 0 => reqd (fld u 22 2 == 0 && fld u 14 2 == 0 && fld u 6 2 == 0 && noLow w) (.saddRadish (radMode w) (fld u 16 6) (fld u 8 6) (fld u 0 6))
  | 1 => reqd (fld u 22 2 == 0 && fld u 14 2 == 0 && fld u 6 2 == 0 && noLow w) (.ssubRadish (radMode w) (fld u 16 6) (fld u 8 6) (fld u 0 6))
  | 2 => reqd (fld u 22 2 == 0 && fld u 14 2 == 0 && fld u 6 2 == 0 && noLow w) (.smulRadish (radMode w) (fld u 16 6) (fld u 8 6) (fld u 0 6))
  | 3 => reqd (fld u 22 2 == 0 && fld u 14 2 == 0 && fld u 6 2 == 0 && noLow w) (.sandRadish (radMode w) (fld u 16 6) (fld u 8 6) (fld u 0 6))
  | 4 => reqd (fld u 22 2 == 0 && fld u 14 2 == 0 && fld u 6 2 == 0 && noLow w) (.sorRadish (radMode w) (fld u 16 6) (fld u 8 6) (fld u 0 6))
  | 5 => reqd (fld u 22 2 == 0 && fld u 14 2 == 0 && fld u 6 2 == 0 && noLow w) (.sxorRadish (radMode w) (fld u 16 6) (fld u 8 6) (fld u 0 6))
  | 6 => reqd (fld u 22 2 == 0 && fld u 14 2 == 0 && fld u 6 2 == 0 && noLow w) (.sshlRadish (radMode w) (fld u 16 6) (fld u 8 6) (fld u 0 6))
  | 7 => reqd (fld u 22 2 == 0 && fld u 14 2 == 0 && fld u 6 2 == 0 && noLow w) (.sshrRadish (radMode w) (fld u 16 6) (fld u 8 6) (fld u 0 6))
  | 8 => reqd (fld u 19 2 == 0 && fld u 14 2 == 0 && fld u 6 2 == 0 && noLow w) (.scmpRadish (radMode w) (fld u 21 3) (fld u 16 3) (fld u 8 6) (fld u 0 6))
  | 9 => reqd (fld u 22 2 == 0 && fld u 14 2 == 0 && fld u 0 8 == 0 && noLow w) (.smovRadish (radMode w) (fld u 16 6) (fld u 8 6))
  | 10 => reqd (fld u 22 2 == 0 && fld u 8 8 == 0 && noHint w) (.smoviRadish (radMode w) (fld u 16 6) (radImm w ex))
  | 11 => reqd (fld u 22 2 == 0 && fld u 8 8 == 255 && fld u 3 5 == 0 && noHint w) (.sleaRadish (radMode w) (fld u 16 6) (fld u 0 3) (radImm w ex))
  | 12 => reqd (fld u 22 2 == 0 && fld u 0 8 == 0 && noLow w) (.vtosRadish (radMode w) (fld u 16 6) (fld u 8 8))
  | 13 => reqd (fld u 14 2 == 0 && fld u 0 8 == 0 && noLow w) (.stovRadish (radMode w) (fld u 16 8) (fld u 8 6))
  | 14 => reqd (fld u 22 2 == 0 && fld u 14 2 == 0 && fld u 6 2 == 0 && noLow w) (.sminRadish (radMode w) (fld u 16 6) (fld u 8 6) (fld u 0 6))
  | 15 => reqd (fld u 22 2 == 0 && fld u 14 2 == 0 && fld u 6 2 == 0 && noLow w) (.smaxRadish (radMode w) (fld u 16 6) (fld u 8 6) (fld u 0 6))
  | _ => .error .unlisted

/-- Radish words with opcode 0x60 to 0x6F (R76, R78); `u` is the upper half of `w`. -/
noncomputable def decodeRadish6 (lo : Nat) (u : BitVec 32) (w : BitVec 64) (ex : List (BitVec 64)) : Except Reject Instr :=
  match lo with
  | 0 => reqd (noLow w) (.faddRadish (radMode w) (fld u 16 8) (fld u 8 8) (fld u 0 8))
  | 1 => reqd (noLow w) (.fsubRadish (radMode w) (fld u 16 8) (fld u 8 8) (fld u 0 8))
  | 2 => reqd (noLow w) (.fmulRadish (radMode w) (fld u 16 8) (fld u 8 8) (fld u 0 8))
  | 3 => reqd (noLow w) (.ffmaRadish (radMode w) (fld u 16 8) (fld u 8 8) (fld u 0 8))
  | 4 => reqd (noLow w) (.fminRadish (radMode w) (fld u 16 8) (fld u 8 8) (fld u 0 8))
  | 5 => reqd (noLow w) (.fmaxRadish (radMode w) (fld u 16 8) (fld u 8 8) (fld u 0 8))
  | 6 => reqd (fld u 0 8 == 0 && noLow w) (.fabsRadish (radMode w) (fld u 16 8) (fld u 8 8))
  | 7 => reqd (fld u 0 8 == 0 && noLow w) (.fnegRadish (radMode w) (fld u 16 8) (fld u 8 8))
  | 8 => reqd (fld u 19 2 == 0 && noLow w) (.fcmpRadish (radMode w) (fld u 21 3) (fld u 16 3) (fld u 8 8) (fld u 0 8))
  | 9 => reqd (fld u 0 8 == 0 && noLow w) (.fclassRadish (radMode w) (fld u 16 8) (fld u 8 8))
  | 10 => reqd (noLow w) (.fdivRadish (radMode w) (fld u 16 8) (fld u 8 8) (fld u 0 8))
  | 11 => reqd (fld u 0 8 == 0 && noLow w) (.fsqrtRadish (radMode w) (fld u 16 8) (fld u 8 8))
  | 12 => reqd (fld u 0 8 == 0 && noLow w) (.frndRadish (radMode w) (fld u 16 8) (fld u 8 8))
  | 13 => reqd (noLow w) (.fldexpRadish (radMode w) (fld u 16 8) (fld u 8 8) (fld u 0 8))
  | 14 => reqd (fld u 0 8 == 0 && noLow w) (.fexpoRadish (radMode w) (fld u 16 8) (fld u 8 8))
  | 15 => reqd (noLow w) (.fsgnjRadish (radMode w) (fld u 16 8) (fld u 8 8) (fld u 0 8))
  | _ => .error .unlisted

/-- Radish words with opcode 0x70 to 0x7F (R76, R78); `u` is the upper half of `w`. -/
noncomputable def decodeRadish7 (lo : Nat) (u : BitVec 32) (w : BitVec 64) (ex : List (BitVec 64)) : Except Reject Instr :=
  match lo with
  | 0 => reqd (fld u 0 8 == 0 && noLow w) (.frcpRadish (radMode w) (fld u 16 8) (fld u 8 8))
  | 1 => reqd (fld u 0 8 == 0 && noLow w) (.frsqRadish (radMode w) (fld u 16 8) (fld u 8 8))
  | 2 => reqd (fld u 0 8 == 0 && noLow w) (.fex2Radish (radMode w) (fld u 16 8) (fld u 8 8))
  | 3 => reqd (fld u 0 8 == 0 && noLow w) (.flg2Radish (radMode w) (fld u 16 8) (fld u 8 8))
  | 4 => reqd (fld u 0 8 == 0 && noLow w) (.fsinRadish (radMode w) (fld u 16 8) (fld u 8 8))
  | 5 => reqd (fld u 0 8 == 0 && noLow w) (.fcosRadish (radMode w) (fld u 16 8) (fld u 8 8))
  | 6 => reqd (fld u 0 8 == 0 && noLow w) (.ftanhRadish (radMode w) (fld u 16 8) (fld u 8 8))
  | _ => .error .unlisted

/-- Radish words with opcode 0x80 to 0x8F (R76, R78); `u` is the upper half of `w`. -/
noncomputable def decodeRadish8 (lo : Nat) (u : BitVec 32) (w : BitVec 64) (ex : List (BitVec 64)) : Except Reject Instr :=
  match lo with
  | 0 => reqd (fld u 4 4 == 0 && noLow w) (.cvtRadish (radMode w) (fld u 16 8) (fld u 8 8) (fld u 0 4))
  | 1 => reqd (fld u 4 4 == 0 && noLow w) (.cvtiRadish (radMode w) (fld u 16 8) (fld u 8 8) (fld u 0 4))
  | 2 => reqd (noLow w) (.packRadish (radMode w) (fld u 16 8) (fld u 8 8) (fld u 0 8))
  | 3 => reqd (fld u 0 8 == 0 && noLow w) (.unpkRadish (radMode w) (fld u 16 8) (fld u 8 8))
  | 4 => reqd (noLow w) (.qhistRadish (radMode w) (fld u 16 8) (fld u 8 8) (fld u 0 8))
  | 5 => reqd (noLow w) (.qscaleRadish (radMode w) (fld u 16 8) (fld u 8 8) (fld u 0 8))
  | 6 => reqd (noLow w) (.quantRadish (radMode w) (fld u 16 8) (fld u 8 8) (fld u 0 8))
  | 7 => reqd (noLow w) (.deqRadish (radMode w) (fld u 16 8) (fld u 8 8) (fld u 0 8))
  | 8 => reqd (fld u 8 8 == 0 && fld u 0 8 == 0 && noLow w) (.qclrRadish (radMode w) (fld u 16 8))
  | _ => .error .unlisted

/-- Radish words with opcode 0x90 to 0x9F (R76, R78); `u` is the upper half of `w`. -/
noncomputable def decodeRadish9 (lo : Nat) (u : BitVec 32) (w : BitVec 64) (ex : List (BitVec 64)) : Except Reject Instr :=
  match lo with
  | 0 => reqd (noLow w) (.shflRadish (radMode w) (fld u 16 8) (fld u 8 8) (fld u 0 8))
  | 1 => reqd (noHint w) (.shfluRadish (radMode w) (fld u 16 8) (fld u 8 8) (radImm w ex))
  | 2 => reqd (noHint w) (.shfldRadish (radMode w) (fld u 16 8) (fld u 8 8) (radImm w ex))
  | 3 => reqd (noHint w) (.shflxRadish (radMode w) (fld u 16 8) (fld u 8 8) (radImm w ex))
  | 4 => reqd (fld u 22 2 == 0 && fld u 11 5 == 0 && noHint w) (.voteRadish (radMode w) (fld u 16 6) (fld u 8 3) (radImm w ex))
  | 5 => reqd (noHint w) (.reduRadish (radMode w) (fld u 16 8) (fld u 8 8) (radImm w ex))
  | 6 => reqd (noHint w) (.scanLanesRadish (radMode w) (fld u 16 8) (fld u 8 8) (radImm w ex))
  | 7 => reqd (fld u 0 8 == 0 && noLow w) (.matchLanesRadish (radMode w) (fld u 16 8) (fld u 8 8))
  | 8 => reqd (noHint w) (.bcastRadish (radMode w) (fld u 16 8) (fld u 8 8) (radImm w ex))
  | 9 => reqd (fld u 0 8 == 0 && noLow w) (.firstLaneRadish (radMode w) (fld u 16 8) (fld u 8 8))
  | _ => .error .unlisted

/-- Radish words with opcode 0xA0 to 0xAF (R76, R78); `u` is the upper half of `w`. -/
noncomputable def decodeRadishA (lo : Nat) (u : BitVec 32) (w : BitVec 64) (ex : List (BitVec 64)) : Except Reject Instr :=
  match lo with
  | 0 => reqd (noHint w) (.ldGlobalRadish (radMode w) (fld u 16 8) (fld u 8 8) (fld u 5 3) (fld u 3 2) (fld u 0 3) (radImm w ex))
  | 1 => reqd (noHint w) (.stGlobalRadish (radMode w) (fld u 16 8) (fld u 8 8) (fld u 5 3) (fld u 3 2) (fld u 0 3) (radImm w ex))
  | 2 => reqd (noHint w) (.ldxRadish (radMode w) (fld u 16 8) (fld u 8 8) (fld u 5 3) (fld u 3 2) (fld u 0 3) (radImm w ex))
  | 3 => reqd (noHint w) (.stxRadish (radMode w) (fld u 16 8) (fld u 8 8) (fld u 5 3) (fld u 3 2) (fld u 0 3) (radImm w ex))
  | 4 => reqd (fld u 0 8 == 0 && noHint w) (.ldsRadish (radMode w) (fld u 16 8) (fld u 8 8) (radImm w ex))
  | 5 => reqd (fld u 0 8 == 0 && noHint w) (.stsRadish (radMode w) (fld u 16 8) (fld u 8 8) (radImm w ex))
  | 6 => reqd (fld u 0 8 == 0 && noHint w) (.ldpRadish (radMode w) (fld u 16 8) (fld u 8 8) (radImm w ex))
  | 7 => reqd (fld u 0 8 == 0 && noHint w) (.stpRadish (radMode w) (fld u 16 8) (fld u 8 8) (radImm w ex))
  | 8 => reqd (noHint w) (.stnRadish (radMode w) (fld u 16 8) (fld u 8 8) (fld u 5 3) (fld u 3 2) (fld u 0 3) (radImm w ex))
  | 9 => reqd (fld u 6 18 == 0 && noLow w) (.srsetRadish (radMode w) (fld u 0 6))
  | 10 => reqd (noHint w) (.ataddRadish (radMode w) (fld u 16 8) (fld u 8 8) (fld u 5 3) (fld u 3 2) (fld u 0 3) (radImm w ex))
  | 11 => reqd (noHint w) (.atminRadish (radMode w) (fld u 16 8) (fld u 8 8) (fld u 5 3) (fld u 3 2) (fld u 0 3) (radImm w ex))
  | 12 => reqd (noHint w) (.atmaxRadish (radMode w) (fld u 16 8) (fld u 8 8) (fld u 5 3) (fld u 3 2) (fld u 0 3) (radImm w ex))
  | 13 => reqd (noHint w) (.atandRadish (radMode w) (fld u 16 8) (fld u 8 8) (fld u 5 3) (fld u 3 2) (fld u 0 3) (radImm w ex))
  | 14 => reqd (noHint w) (.atorRadish (radMode w) (fld u 16 8) (fld u 8 8) (fld u 5 3) (fld u 3 2) (fld u 0 3) (radImm w ex))
  | 15 => reqd (noHint w) (.atxorRadish (radMode w) (fld u 16 8) (fld u 8 8) (fld u 5 3) (fld u 3 2) (fld u 0 3) (radImm w ex))
  | _ => .error .unlisted

/-- Radish words with opcode 0xB0 to 0xBF (R76, R78); `u` is the upper half of `w`. -/
noncomputable def decodeRadishB (lo : Nat) (u : BitVec 32) (w : BitVec 64) (ex : List (BitVec 64)) : Except Reject Instr :=
  match lo with
  | 0 => reqd (noHint w) (.atxchRadish (radMode w) (fld u 16 8) (fld u 8 8) (fld u 5 3) (fld u 3 2) (fld u 0 3) (radImm w ex))
  | 1 => reqd (noHint w) (.atcasRadish (radMode w) (fld u 16 8) (fld u 8 8) (fld u 5 3) (fld u 3 2) (fld u 0 3) (radImm w ex))
  | 2 => reqd (noHint w) (.redaddRadish (radMode w) (fld u 16 8) (fld u 8 8) (fld u 5 3) (fld u 3 2) (fld u 0 3) (radImm w ex))
  | 3 => reqd (noHint w) (.redminRadish (radMode w) (fld u 16 8) (fld u 8 8) (fld u 5 3) (fld u 3 2) (fld u 0 3) (radImm w ex))
  | 4 => reqd (noHint w) (.redmaxRadish (radMode w) (fld u 16 8) (fld u 8 8) (fld u 5 3) (fld u 3 2) (fld u 0 3) (radImm w ex))
  | 5 => reqd (fld u 16 8 == 0 && fld u 8 8 == 255 && fld u 1 2 == 0 && noLow w) (.fenceRadish (radMode w) (fld u 5 3) (fld u 3 2) (bit u 0))
  | 6 => reqd (fld u 16 8 == 0 && fld u 8 8 == 255 && noLow w) (.ofenceRadish (radMode w) (fld u 5 3) (fld u 3 2) (fld u 0 3))
  | 7 => reqd (fld u 22 2 == 0 && fld u 8 8 == 255 && fld u 3 5 == 0 && noHint w) (.rflushRadish (radMode w) (fld u 16 6) (fld u 0 3) (radImm w ex))
  | 8 => reqd (fld u 22 2 == 0 && fld u 8 8 == 255 && fld u 3 5 == 0 && noHint w) (.rinvRadish (radMode w) (fld u 16 6) (fld u 0 3) (radImm w ex))
  | 9 => reqd (fld u 16 8 == 0 && fld u 3 5 == 0 && noHint w) (.pfetchRadish (radMode w) (fld u 8 8) (fld u 0 3) (radImm w ex))
  | 10 => reqd (fld u 16 8 == 0 && fld u 3 5 == 0 && noHint w) (.locateRadish (radMode w) (fld u 8 8) (fld u 0 3) (radImm w ex))
  | 11 => reqd (fld u 22 2 == 0 && fld u 8 8 == 255 && fld u 3 5 == 0 && noHint w) (.reparkRadish (radMode w) (fld u 16 6) (fld u 0 3) (radImm w ex))
  | 12 => reqd (fld u 22 2 == 0 && fld u 8 8 == 255 && fld u 3 5 == 0 && noHint w) (.unparkRadish (radMode w) (fld u 16 6) (fld u 0 3) (radImm w ex))
  | 13 => reqd (fld u 22 2 == 0 && fld u 8 8 == 255 && fld u 3 5 == 0 && noLow w) (.objdefRadish (radMode w) (fld u 16 6) (fld u 0 3))
  | 14 => reqd (fld u 22 2 == 0 && fld u 8 8 == 255 && fld u 0 8 == 0 && noLow w) (.objdelRadish (radMode w) (fld u 16 6))
  | _ => .error .unlisted

/-- Radish words with opcode 0xC0 to 0xCF (R76, R78); `u` is the upper half of `w`. -/
noncomputable def decodeRadishC (lo : Nat) (u : BitVec 32) (w : BitVec 64) (ex : List (BitVec 64)) : Except Reject Instr :=
  match lo with
  | 0 => reqd (fld u 22 2 == 0 && fld u 8 8 == 255 && fld u 3 5 == 0 && noHint w) (.pcommitRadish (radMode w) (fld u 16 6) (fld u 0 3) (radImm w ex))
  | 1 => reqd (fld u 22 2 == 0 && fld u 8 8 == 255 && fld u 3 5 == 0 && noHint w) (.pdecommitRadish (radMode w) (fld u 16 6) (fld u 0 3) (radImm w ex))
  | 2 => reqd (fld u 22 2 == 0 && fld u 8 8 == 255 && fld u 0 8 == 0 && noLow w) (.allocBlockRadish (radMode w) (fld u 16 6))
  | 3 => reqd (fld u 22 2 == 0 && fld u 8 8 == 255 && fld u 0 8 == 0 && noLow w) (.freeBlockRadish (radMode w) (fld u 16 6))
  | 4 => reqd (fld u 22 2 == 0 && fld u 8 8 == 255 && fld u 3 5 == 0 && noHint w) (.pqueryRadish (radMode w) (fld u 16 6) (fld u 0 3) (radImm w ex))
  | 8 => reqd (fld u 22 2 == 0 && fld u 14 2 == 0 && fld u 6 2 == 0 && noLow w) (.tcopyRadish (radMode w) (fld u 16 6) (fld u 8 6) (fld u 0 6))
  | 9 => reqd (fld u 22 2 == 0 && fld u 14 2 == 0 && fld u 6 2 == 0 && noLow w) (.tcopymRadish (radMode w) (fld u 16 6) (fld u 8 6) (fld u 0 6))
  | 10 => reqd (fld u 22 2 == 0 && fld u 14 2 == 0 && fld u 0 8 == 0 && noLow w) (.chainRadish (radMode w) (fld u 16 6) (fld u 8 6))
  | 11 => reqd (fld u 16 8 == 0 && fld u 14 2 == 0 && fld u 6 2 == 0 && noLow w) (.bbinitRadish (radMode w) (fld u 8 6) (fld u 0 6))
  | 12 => reqd (fld u 16 8 == 0 && fld u 14 2 == 0 && fld u 6 2 == 0 && noLow w) (.bbexpRadish (radMode w) (fld u 8 6) (fld u 0 6))
  | 13 => reqd (fld u 22 2 == 0 && fld u 14 2 == 0 && fld u 0 8 == 0 && noLow w) (.bbwaitRadish (radMode w) (fld u 16 6) (fld u 8 6))
  | 14 => reqd (fld u 16 8 == 0 && fld u 14 2 == 0 && fld u 0 8 == 0 && noLow w) (.bbinvRadish (radMode w) (fld u 8 6))
  | 15 => reqd (fld u 16 8 == 0 && fld u 14 2 == 0 && fld u 6 2 == 0 && noLow w) (.bbarrRadish (radMode w) (fld u 8 6) (fld u 0 6))
  | _ => .error .unlisted

/-- Radish words with opcode 0xD0 to 0xDF (R76, R78); `u` is the upper half of `w`. -/
noncomputable def decodeRadishD (lo : Nat) (u : BitVec 32) (w : BitVec 64) (ex : List (BitVec 64)) : Except Reject Instr :=
  match lo with
  | 0 => reqd (fld u 16 8 == 0 && fld u 14 2 == 0 && fld u 0 8 == 0 && noLow w) (.rinitRadish (radMode w) (fld u 8 6))
  | 1 => reqd (fld u 22 2 == 0 && fld u 14 2 == 0 && fld u 0 8 == 0 && noLow w) (.racqRadish (radMode w) (fld u 16 6) (fld u 8 6))
  | 2 => reqd (fld u 22 2 == 0 && fld u 14 2 == 0 && fld u 6 2 == 0 && noLow w) (.rpubRadish (radMode w) (fld u 16 6) (fld u 8 6) (fld u 0 6))
  | 3 => reqd (fld u 22 2 == 0 && fld u 14 2 == 0 && fld u 0 8 == 0 && noLow w) (.rtakeRadish (radMode w) (fld u 16 6) (fld u 8 6))
  | 4 => reqd (fld u 16 8 == 0 && fld u 14 2 == 0 && fld u 6 2 == 0 && noLow w) (.rdoneRadish (radMode w) (fld u 8 6) (fld u 0 6))
  | 5 => reqd (fld u 16 8 == 0 && fld u 14 2 == 0 && fld u 0 8 == 0 && noLow w) (.rcloseRadish (radMode w) (fld u 8 6))
  | 6 => reqd (fld u 16 8 == 0 && fld u 14 2 == 0 && fld u 6 2 == 0 && noLow w) (.spushRadish (radMode w) (fld u 8 6) (fld u 0 6))
  | _ => .error .unlisted

/-- The opcode of a Marrow word, bits [31:24] (R60). -/
def opcodeOf (w : BitVec 32) : Nat := (fld w 24 8).toNat

/-- A LIT with its literal words, low word first (R66). -/
def decodeLit (w : BitVec 32) (ex : List (BitVec 32)) : Except Reject Instr :=
  if fld w 1 23 == 0 then
    .ok (.lit (bit w 0) (if bit w 0 then ex.getD 1 0 ++ ex.headD 0 else 0#32 ++ ex.headD 0))
  else .error .reserved

/-- How many further words belong to a Marrow word: a BRX table or the literal words of a LIT (R63, R66). -/
def marrowExtra (w : BitVec 32) : Nat :=
  if opcodeOf w = 0x06 then (fld w 0 8).toNat
  else if opcodeOf w = 0xFF then (if bit w 0 then 2 else 1)
  else 0

/-- A Marrow word and the words that belong to it (R68). -/
def decodeMarrow (w : BitVec 32) (ex : List (BitVec 32)) : Except Reject Instr :=
  let lo := opcodeOf w % 16
  match opcodeOf w / 16 with
  | 0 => decodeMarrow0 lo w ex
  | 1 => decodeMarrow1 lo w ex
  | 2 => decodeMarrow2 lo w ex
  | 3 => decodeMarrow3 lo w ex
  | 4 => decodeMarrow4 lo w ex
  | 5 => decodeMarrow5 lo w ex
  | 6 => decodeMarrow6 lo w ex
  | 7 => decodeMarrow7 lo w ex
  | 8 => decodeMarrow8 lo w ex
  | 9 => decodeMarrow9 lo w ex
  | 10 => decodeMarrowA lo w ex
  | 11 => decodeMarrowB lo w ex
  | 12 => decodeMarrowC lo w ex
  | 13 => decodeMarrowD lo w ex
  | 14 => decodeMarrowE lo w ex
  | _ => if lo = 15 then decodeLit w ex else .error .unlisted

/-- The upper half of a Radish word: the Marrow word (R76). -/
def radUpper (w : BitVec 64) : BitVec 32 := w.extractLsb' 32 32

/-- How many further words belong to a Radish word: a BRX table, or the literal word of bit 16 (R76, R78). -/
def radishExtra (w : BitVec 64) : Nat :=
  if opcodeOf (radUpper w) = 0x06 then (fld (radUpper w) 0 8).toNat
  else if w.getLsbD 16 then 1 else 0

/-- A Radish word and the words that belong to it; matrix opcodes raise the role fault (R79).  Marked noncomputable only
because Lean's code generator builds no constructor of an inductive beyond its 245th; the kernel evaluates it. -/
noncomputable def decodeRadish (w : BitVec 64) (ex : List (BitVec 64)) : Except Reject Instr :=
  let u := radUpper w
  let lo := opcodeOf u % 16
  match opcodeOf u / 16 with
  | 0 => decodeRadish0 lo u w ex
  | 1 => decodeRadish1 lo u w ex
  | 2 => decodeRadish2 lo u w ex
  | 3 => decodeRadish3 lo u w ex
  | 4 => decodeRadish4 lo u w ex
  | 5 => decodeRadish5 lo u w ex
  | 6 => decodeRadish6 lo u w ex
  | 7 => decodeRadish7 lo u w ex
  | 8 => decodeRadish8 lo u w ex
  | 9 => decodeRadish9 lo u w ex
  | 10 => decodeRadishA lo u w ex
  | 11 => decodeRadishB lo u w ex
  | 12 => decodeRadishC lo u w ex
  | 13 => decodeRadishD lo u w ex
  | 14 => if lo < 13 then .error .role else .error .unlisted
  | _ => .error .unlisted

/-- The lower half of a Radish word: MODE at [31:19], hint, literal flag and immediate (R30, R76). -/
def radLow (m : BitVec 13) (h : BitVec 2) (r : RImm) : BitVec 32 :=
  m.extractLsb' 0 3 ++ m.extractLsb' 3 1 ++ m.extractLsb' 4 4 ++ m.extractLsb' 8 3 ++ m.extractLsb' 11 1 ++
    m.extractLsb' 12 1 ++ h ++ BitVec.ofBool r.lit.isSome ++ r.imm

/-- The literal word of a Radish immediate, as two halves, low first (R76, R78). -/
def radLit (r : RImm) : List (BitVec 32) :=
  match r.lit with
  | some v => [v.extractLsb' 0 32, v.extractLsb' 32 32]
  | none => []

/-- The table words of a Radish BRX, each as two halves, low first (R78). -/
def radTbl (t : List (BitVec 64)) : List (BitVec 32) := t.flatMap fun v => [v.extractLsb' 0 32, v.extractLsb' 32 32]

/-- The immediate of a word that has none: all zero. -/
def RImm.zero : RImm := ⟨0, none⟩


/-- The words of an instruction as memory holds them, lowest address first, each 32 bits: a Marrow word, its literal or
table words; the two halves, low first, of each Radish word.  A step of the device has no words. -/
def encodeWords : Instr → List (BitVec 32)
  | .nop => (0x00#8 ++ 0#24) :: []
  | .setm m => (0x01#8 ++ 0#11 ++ m) :: []
  | .setms k => (0x02#8 ++ 0#18 ++ k) :: []
  | .getm k => (0x03#8 ++ 0#18 ++ k) :: []
  | .bra h off => (0x04#8 ++ h ++ off) :: []
  | .brd h p inv off => (0x05#8 ++ h ++ p ++ BitVec.ofBool inv ++ off) :: []
  | .brx h v tbl => (0x06#8 ++ h ++ 0#6 ++ v ++ BitVec.ofNat 8 tbl.length) :: tbl
  | .callAddr b off => (0x07#8 ++ b ++ off) :: []
  | .ret b => (0x08#8 ++ 0#21 ++ b) :: []
  | .markJoin off => (0x09#8 ++ 0#2 ++ off) :: []
  | .joinFrags => (0x0A#8 ++ 0#24) :: []
  | .ppush p => (0x0B#8 ++ 0#21 ++ p) :: []
  | .pinv => (0x0C#8 ++ 0#24) :: []
  | .ppop => (0x0D#8 ++ 0#24) :: []
  | .emrd k => (0x0E#8 ++ 0#18 ++ k) :: []
  | .emwr k => (0x0F#8 ++ 0#18 ++ k) :: []
  | .waitc a b c d => (0x10#8 ++ a ++ b ++ c ++ d ++ 0#4) :: []
  | .cbatch => (0x11#8 ++ 0#24) :: []
  | .waitb n => (0x12#8 ++ 0#8 ++ n) :: []
  | .bar c i => (0x13#8 ++ 0#18 ++ c ++ i) :: []
  | .bara c i => (0x14#8 ++ 0#18 ++ c ++ i) :: []
  | .barw c i => (0x15#8 ++ 0#18 ++ c ++ i) :: []
  | .drain c i => (0x16#8 ++ 0#18 ++ c ++ i) :: []
  | .eqp n => (0x17#8 ++ 0#8 ++ n) :: []
  | .migrTeam cls n => (0x18#8 ++ 0#7 ++ BitVec.ofBool cls ++ n) :: []
  | .rolesw i => (0x19#8 ++ 0#21 ++ i) :: []
  | .yieldIssue => (0x1A#8 ++ 0#24) :: []
  | .exitFrag => (0x1B#8 ++ 0#24) :: []
  | .trapCode c => (0x1C#8 ++ 0#8 ++ c) :: []
  | .xret skip => (0x1D#8 ++ 0#23 ++ BitVec.ofBool skip) :: []
  | .xrd k i => (0x1E#8 ++ 0#10 ++ k ++ i) :: []
  | .xwr k i => (0x1F#8 ++ 0#10 ++ k ++ i) :: []
  | .sread k i => (0x20#8 ++ 0#10 ++ k ++ i) :: []
  | .launchQueue b => (0x21#8 ++ 0#21 ++ b) :: []
  | .ifence => (0x22#8 ++ 0#24) :: []
  | .cpref l off => (0x23#8 ++ l ++ off) :: []
  | .snooze n => (0x24#8 ++ 0#8 ++ n) :: []
  | .loopCount k off => (0x25#8 ++ k ++ off) :: []
  | .iadd d a b => (0x30#8 ++ d ++ a ++ b) :: []
  | .isub d a b => (0x31#8 ++ d ++ a ++ b) :: []
  | .imul d a b => (0x32#8 ++ d ++ a ++ b) :: []
  | .imulh d a b => (0x33#8 ++ d ++ a ++ b) :: []
  | .imad d a b => (0x34#8 ++ d ++ a ++ b) :: []
  | .idiv d a b => (0x35#8 ++ d ++ a ++ b) :: []
  | .irem d a b => (0x36#8 ++ d ++ a ++ b) :: []
  | .imin d a b => (0x37#8 ++ d ++ a ++ b) :: []
  | .imax d a b => (0x38#8 ++ d ++ a ++ b) :: []
  | .iabs d a => (0x39#8 ++ d ++ a ++ 0#8) :: []
  | .ineg d a => (0x3A#8 ++ d ++ a ++ 0#8) :: []
  | .iaddc d a b => (0x3B#8 ++ d ++ a ++ b) :: []
  | .icmp c p a b => (0x3C#8 ++ c ++ 0#2 ++ p ++ a ++ b) :: []
  | .selLane d a b => (0x3D#8 ++ d ++ a ++ b) :: []
  | .andBits d a b => (0x3E#8 ++ d ++ a ++ b) :: []
  | .orBits d a b => (0x3F#8 ++ d ++ a ++ b) :: []
  | .xorBits d a b => (0x40#8 ++ d ++ a ++ b) :: []
  | .notBits d a => (0x41#8 ++ d ++ a ++ 0#8) :: []
  | .shl d a b => (0x42#8 ++ d ++ a ++ b) :: []
  | .shr d a b => (0x43#8 ++ d ++ a ++ b) :: []
  | .sar d a b => (0x44#8 ++ d ++ a ++ b) :: []
  | .rotl d a b => (0x45#8 ++ d ++ a ++ b) :: []
  | .popc d a => (0x46#8 ++ d ++ a ++ 0#8) :: []
  | .clz d a => (0x47#8 ++ d ++ a ++ 0#8) :: []
  | .ctz d a => (0x48#8 ++ d ++ a ++ 0#8) :: []
  | .brev d a => (0x49#8 ++ d ++ a ++ 0#8) :: []
  | .bfe d a b => (0x4A#8 ++ d ++ a ++ b) :: []
  | .bfi d a b => (0x4B#8 ++ d ++ a ++ b) :: []
  | .movLane d a => (0x4C#8 ++ d ++ a ++ 0#8) :: []
  | .movi d i => (0x4D#8 ++ d ++ 0#8 ++ i) :: []
  | .lea d k b => (0x4E#8 ++ d ++ k ++ 0#5 ++ b) :: []
  | .iaddi d a i => (0x4F#8 ++ d ++ a ++ i) :: []
  | .sadd d a b => (0x50#8 ++ 0#2 ++ d ++ 0#2 ++ a ++ 0#2 ++ b) :: []
  | .ssub d a b => (0x51#8 ++ 0#2 ++ d ++ 0#2 ++ a ++ 0#2 ++ b) :: []
  | .smul d a b => (0x52#8 ++ 0#2 ++ d ++ 0#2 ++ a ++ 0#2 ++ b) :: []
  | .sand d a b => (0x53#8 ++ 0#2 ++ d ++ 0#2 ++ a ++ 0#2 ++ b) :: []
  | .sor d a b => (0x54#8 ++ 0#2 ++ d ++ 0#2 ++ a ++ 0#2 ++ b) :: []
  | .sxor d a b => (0x55#8 ++ 0#2 ++ d ++ 0#2 ++ a ++ 0#2 ++ b) :: []
  | .sshl d a b => (0x56#8 ++ 0#2 ++ d ++ 0#2 ++ a ++ 0#2 ++ b) :: []
  | .sshr d a b => (0x57#8 ++ 0#2 ++ d ++ 0#2 ++ a ++ 0#2 ++ b) :: []
  | .scmp c p a b => (0x58#8 ++ c ++ 0#2 ++ p ++ 0#2 ++ a ++ 0#2 ++ b) :: []
  | .smov d a => (0x59#8 ++ 0#2 ++ d ++ 0#2 ++ a ++ 0#8) :: []
  | .smovi d i => (0x5A#8 ++ 0#2 ++ d ++ 0#8 ++ i) :: []
  | .slea d b => (0x5B#8 ++ 0#2 ++ d ++ 255#8 ++ 0#5 ++ b) :: []
  | .vtos d a => (0x5C#8 ++ 0#2 ++ d ++ a ++ 0#8) :: []
  | .stov d a => (0x5D#8 ++ d ++ 0#2 ++ a ++ 0#8) :: []
  | .smin d a b => (0x5E#8 ++ 0#2 ++ d ++ 0#2 ++ a ++ 0#2 ++ b) :: []
  | .smax d a b => (0x5F#8 ++ 0#2 ++ d ++ 0#2 ++ a ++ 0#2 ++ b) :: []
  | .fadd d a b => (0x60#8 ++ d ++ a ++ b) :: []
  | .fsub d a b => (0x61#8 ++ d ++ a ++ b) :: []
  | .fmul d a b => (0x62#8 ++ d ++ a ++ b) :: []
  | .ffma d a b => (0x63#8 ++ d ++ a ++ b) :: []
  | .fmin d a b => (0x64#8 ++ d ++ a ++ b) :: []
  | .fmax d a b => (0x65#8 ++ d ++ a ++ b) :: []
  | .fabs d a => (0x66#8 ++ d ++ a ++ 0#8) :: []
  | .fneg d a => (0x67#8 ++ d ++ a ++ 0#8) :: []
  | .fcmp c p a b => (0x68#8 ++ c ++ 0#2 ++ p ++ a ++ b) :: []
  | .fclass d a => (0x69#8 ++ d ++ a ++ 0#8) :: []
  | .fdiv d a b => (0x6A#8 ++ d ++ a ++ b) :: []
  | .fsqrt d a => (0x6B#8 ++ d ++ a ++ 0#8) :: []
  | .frnd d a => (0x6C#8 ++ d ++ a ++ 0#8) :: []
  | .fldexp d a b => (0x6D#8 ++ d ++ a ++ b) :: []
  | .fexpo d a => (0x6E#8 ++ d ++ a ++ 0#8) :: []
  | .fsgnj d a b => (0x6F#8 ++ d ++ a ++ b) :: []
  | .frcp d a => (0x70#8 ++ d ++ a ++ 0#8) :: []
  | .frsq d a => (0x71#8 ++ d ++ a ++ 0#8) :: []
  | .fex2 d a => (0x72#8 ++ d ++ a ++ 0#8) :: []
  | .flg2 d a => (0x73#8 ++ d ++ a ++ 0#8) :: []
  | .fsin d a => (0x74#8 ++ d ++ a ++ 0#8) :: []
  | .fcos d a => (0x75#8 ++ d ++ a ++ 0#8) :: []
  | .ftanh d a => (0x76#8 ++ d ++ a ++ 0#8) :: []
  | .cvt d a src => (0x80#8 ++ d ++ a ++ 0#4 ++ src) :: []
  | .cvti d a src => (0x81#8 ++ d ++ a ++ 0#4 ++ src) :: []
  | .pack d a b => (0x82#8 ++ d ++ a ++ b) :: []
  | .unpk d a => (0x83#8 ++ d ++ a ++ 0#8) :: []
  | .qhist d a b => (0x84#8 ++ d ++ a ++ b) :: []
  | .qscale d a b => (0x85#8 ++ d ++ a ++ b) :: []
  | .quant d a b => (0x86#8 ++ d ++ a ++ b) :: []
  | .deq d a b => (0x87#8 ++ d ++ a ++ b) :: []
  | .qclr d => (0x88#8 ++ d ++ 0#8 ++ 0#8) :: []
  | .shfl d a b => (0x90#8 ++ d ++ a ++ b) :: []
  | .shflu d a i => (0x91#8 ++ d ++ a ++ i) :: []
  | .shfld d a i => (0x92#8 ++ d ++ a ++ i) :: []
  | .shflx d a i => (0x93#8 ++ d ++ a ++ i) :: []
  | .vote d p i => (0x94#8 ++ 0#2 ++ d ++ 0#5 ++ p ++ i) :: []
  | .redu d a i => (0x95#8 ++ d ++ a ++ i) :: []
  | .scanLanes d a i => (0x96#8 ++ d ++ a ++ i) :: []
  | .matchLanes d a => (0x97#8 ++ d ++ a ++ 0#8) :: []
  | .bcast d a i => (0x98#8 ++ d ++ a ++ i) :: []
  | .firstLane d a => (0x99#8 ++ d ++ a ++ 0#8) :: []
  | .ldGlobal d k sc o b => (0xA0#8 ++ d ++ k ++ sc ++ o ++ b) :: []
  | .stGlobal d k sc o b => (0xA1#8 ++ d ++ k ++ sc ++ o ++ b) :: []
  | .ldx d k sc o b => (0xA2#8 ++ d ++ k ++ sc ++ o ++ b) :: []
  | .stx d k sc o b => (0xA3#8 ++ d ++ k ++ sc ++ o ++ b) :: []
  | .lds d k => (0xA4#8 ++ d ++ k ++ 0#8) :: []
  | .sts d k => (0xA5#8 ++ d ++ k ++ 0#8) :: []
  | .ldp d k => (0xA6#8 ++ d ++ k ++ 0#8) :: []
  | .stp d k => (0xA7#8 ++ d ++ k ++ 0#8) :: []
  | .stn d k sc o b => (0xA8#8 ++ d ++ k ++ sc ++ o ++ b) :: []
  | .srset k => (0xA9#8 ++ 0#18 ++ k) :: []
  | .atadd d k sc o b => (0xAA#8 ++ d ++ k ++ sc ++ o ++ b) :: []
  | .atmin d k sc o b => (0xAB#8 ++ d ++ k ++ sc ++ o ++ b) :: []
  | .atmax d k sc o b => (0xAC#8 ++ d ++ k ++ sc ++ o ++ b) :: []
  | .atand d k sc o b => (0xAD#8 ++ d ++ k ++ sc ++ o ++ b) :: []
  | .ator d k sc o b => (0xAE#8 ++ d ++ k ++ sc ++ o ++ b) :: []
  | .atxor d k sc o b => (0xAF#8 ++ d ++ k ++ sc ++ o ++ b) :: []
  | .atxch d k sc o b => (0xB0#8 ++ d ++ k ++ sc ++ o ++ b) :: []
  | .atcas d k sc o b => (0xB1#8 ++ d ++ k ++ sc ++ o ++ b) :: []
  | .redadd d k sc o b => (0xB2#8 ++ d ++ k ++ sc ++ o ++ b) :: []
  | .redmin d k sc o b => (0xB3#8 ++ d ++ k ++ sc ++ o ++ b) :: []
  | .redmax d k sc o b => (0xB4#8 ++ d ++ k ++ sc ++ o ++ b) :: []
  | .fence sc o seq => (0xB5#8 ++ 0#8 ++ 255#8 ++ sc ++ o ++ 0#2 ++ BitVec.ofBool seq) :: []
  | .ofence sc o b => (0xB6#8 ++ 0#8 ++ 255#8 ++ sc ++ o ++ b) :: []
  | .rflush n b => (0xB7#8 ++ 0#2 ++ n ++ 255#8 ++ 0#5 ++ b) :: []
  | .rinv n b => (0xB8#8 ++ 0#2 ++ n ++ 255#8 ++ 0#5 ++ b) :: []
  | .pfetch k b => (0xB9#8 ++ 0#8 ++ k ++ 0#5 ++ b) :: []
  | .locate k b => (0xBA#8 ++ 0#8 ++ k ++ 0#5 ++ b) :: []
  | .repark n b => (0xBB#8 ++ 0#2 ++ n ++ 255#8 ++ 0#5 ++ b) :: []
  | .unpark n b => (0xBC#8 ++ 0#2 ++ n ++ 255#8 ++ 0#5 ++ b) :: []
  | .objdef n b => (0xBD#8 ++ 0#2 ++ n ++ 255#8 ++ 0#5 ++ b) :: []
  | .objdel n => (0xBE#8 ++ 0#2 ++ n ++ 255#8 ++ 0#8) :: []
  | .pcommit n b => (0xC0#8 ++ 0#2 ++ n ++ 255#8 ++ 0#5 ++ b) :: []
  | .pdecommit n b => (0xC1#8 ++ 0#2 ++ n ++ 255#8 ++ 0#5 ++ b) :: []
  | .allocBlock n => (0xC2#8 ++ 0#2 ++ n ++ 255#8 ++ 0#8) :: []
  | .freeBlock n => (0xC3#8 ++ 0#2 ++ n ++ 255#8 ++ 0#8) :: []
  | .pquery n b => (0xC4#8 ++ 0#2 ++ n ++ 255#8 ++ 0#5 ++ b) :: []
  | .tcopy d a b => (0xC8#8 ++ 0#2 ++ d ++ 0#2 ++ a ++ 0#2 ++ b) :: []
  | .tcopym d a b => (0xC9#8 ++ 0#2 ++ d ++ 0#2 ++ a ++ 0#2 ++ b) :: []
  | .chain d a => (0xCA#8 ++ 0#2 ++ d ++ 0#2 ++ a ++ 0#8) :: []
  | .bbinit a b => (0xCB#8 ++ 0#8 ++ 0#2 ++ a ++ 0#2 ++ b) :: []
  | .bbexp a b => (0xCC#8 ++ 0#8 ++ 0#2 ++ a ++ 0#2 ++ b) :: []
  | .bbwait d a => (0xCD#8 ++ 0#2 ++ d ++ 0#2 ++ a ++ 0#8) :: []
  | .bbinv a => (0xCE#8 ++ 0#8 ++ 0#2 ++ a ++ 0#8) :: []
  | .bbarr a b => (0xCF#8 ++ 0#8 ++ 0#2 ++ a ++ 0#2 ++ b) :: []
  | .rinit a => (0xD0#8 ++ 0#8 ++ 0#2 ++ a ++ 0#8) :: []
  | .racq d a => (0xD1#8 ++ 0#2 ++ d ++ 0#2 ++ a ++ 0#8) :: []
  | .rpub d a b => (0xD2#8 ++ 0#2 ++ d ++ 0#2 ++ a ++ 0#2 ++ b) :: []
  | .rtake d a => (0xD3#8 ++ 0#2 ++ d ++ 0#2 ++ a ++ 0#8) :: []
  | .rdone a b => (0xD4#8 ++ 0#8 ++ 0#2 ++ a ++ 0#2 ++ b) :: []
  | .rclose a => (0xD5#8 ++ 0#8 ++ 0#2 ++ a ++ 0#8) :: []
  | .spush a b => (0xD6#8 ++ 0#8 ++ 0#2 ++ a ++ 0#2 ++ b) :: []
  | .mma64x64x64 z r x m => (0xE0#8 ++ z ++ 0#4 ++ BitVec.ofBool r ++ x ++ 0#4 ++ m) :: []
  | .mma64x128x64 z r x m => (0xE1#8 ++ z ++ 0#4 ++ BitVec.ofBool r ++ x ++ 0#4 ++ m) :: []
  | .mma128x128x64 z r x m => (0xE2#8 ++ z ++ 0#4 ++ BitVec.ofBool r ++ x ++ 0#4 ++ m) :: []
  | .mma128x64x128 z r x m => (0xE3#8 ++ z ++ 0#4 ++ BitVec.ofBool r ++ x ++ 0#4 ++ m) :: []
  | .fbset m => (0xE4#8 ++ 0#20 ++ m) :: []
  | .xld x m => (0xE5#8 ++ 0#13 ++ x ++ 0#4 ++ m) :: []
  | .xldr x m => (0xE6#8 ++ 0#13 ++ x ++ 0#4 ++ m) :: []
  | .zclr z m => (0xE7#8 ++ z ++ 0#12 ++ m) :: []
  | .zcvt z m => (0xE8#8 ++ z ++ 0#12 ++ m) :: []
  | .zst z m => (0xE9#8 ++ z ++ 0#12 ++ m) :: []
  | .zld z m => (0xEA#8 ++ z ++ 0#12 ++ m) :: []
  | .zadd z m => (0xEB#8 ++ z ++ 0#12 ++ m) :: []
  | .zscl z m => (0xEC#8 ++ z ++ 0#12 ++ m) :: []
  | .lit wide v => (0xFF#8 ++ 0#23 ++ BitVec.ofBool wide) :: (if wide then [v.extractLsb' 0 32, v.extractLsb' 32 32] else [v.extractLsb' 0 32])
  | .loadResultReturn _ _ => []
  | .storeAck _ _ _ => []
  | .tuberAnswer _ _ => []
  | .objectTableAnswer _ => []
  | .sfuResultWrite _ => []
  | .locateFaultDetect _ _ => []
  | .copyPieceTransfer _ _ _ => []
  | .copyComplete _ => []
  | .snoozeExpiry _ _ => []
  | .yieldExpiry _ _ => []
  | .issueAgePromotion _ _ => []
  | .issueSlot _ _ _ => []
  | .packetAgePromotion _ _ => []
  | .loopSlotPass _ _ _ _ _ => []
  | .packetArrival _ _ _ => []
  | .lastChanceDrain _ _ _ => []
  | .flitReceive _ _ _ _ => []
  | .retransmitTimeout _ _ => []
  | .eccErrorDetected _ => []
  | .collapseRequest _ _ => []
  | .collapseSplit _ _ _ _ _ => []
  | .collapseAck _ _ _ _ => []
  | .launchDispatch _ _ => []
  | .waitWordPoll _ => []
  | .headReserveTimeout _ => []
  | .ttRelease _ => []
  | .migrationDispatch _ _ => []
  | .migrationAgeTimeout _ => []
  | .migrationComplete _ => []
  | .preemptHalt _ => []
  | .preemptSaveComplete _ => []
  | .mailboxHeadWrite _ _ => []
  | .mailboxCtailWrite _ _ => []
  | .mailboxEntryTake _ => []
  | .completionWrite _ => []
  | .sysExit _ _ => []
  | .sysLog _ _ _ => []
  | .sysMap _ _ _ _ _ => []
  | .sysUnmap _ _ _ => []
  | .sysLaunch _ _ _ _ _ _ => []
  | .sysWait _ _ _ => []
  | .sysPool _ _ _ => []
  | .sysTtset _ _ _ _ _ => []
  | .sysDtpage _ _ _ _ => []
  | .sysAttest _ _ _ => []
  | .sysRecord _ _ _ _ _ => []
  | .sysWaitTimeout _ => []
  | .queueTableWrite _ _ => []
  | .ttEntryWrite _ _ => []
  | .asidDescriptorWrite _ _ _ => []
  | .poolFeed _ => []
  | .invalidateGo _ => []
  | .invalidateDone => []
  | .schedPreempt => []
  | .schedRestore => []
  | .schedResumeReplay => []
  | .schedResumeSkip => []
  | .schedEndLaunch => []
  | .schedCmdReserved _ => []
  | .schedCmdDone => []
  | .faultQueueTailWrite _ => []
  | .plimWrite _ => []
  | .registerWrite _ _ => []
  | .spdmRequest _ => []
  | .ptpMessage _ => []
  | .mainSupplyOn _ => []
  | .mainSupplyOff => []
  | .idleRequest _ => []
  | .idleEnter => []
  | .powerOverLimit _ => []
  | .junctionOver95c _ _ => []
  | .thermalTrip _ => []
  | .coolantFlowTimeout => []
  | .supplySagTrip _ => []
  | .unlistedOpcode _ _ => []
  | .stewardCoreAccess _ _ _ => []
  | .shallotRequest _ => []
  | .bundleLoad _ _ => []
  | .grandmasterLost => []
  | .powerWithinLimit _ => []
  | .junctionBelow95c _ => []
  | .supplySagClear _ => []
  | .coolantFlowChange _ _ => []
  | .mmaComplete _ => []
  | .nopRadish w => radLow w 0#2 RImm.zero :: (0x00#8 ++ 0#24) :: []
  | .getmRadish w k => radLow w 0#2 RImm.zero :: (0x03#8 ++ 0#18 ++ k) :: []
  | .braRadish w h off => radLow w h off :: (0x04#8 ++ 0#2 ++ 0#22) :: radLit off
  | .brdRadish w h p inv off => radLow w h off :: (0x05#8 ++ 0#2 ++ p ++ BitVec.ofBool inv ++ 0#18) :: radLit off
  | .brxRadish w h v tbl => radLow w h RImm.zero :: (0x06#8 ++ 0#2 ++ 0#6 ++ v ++ BitVec.ofNat 8 tbl.length) :: radTbl tbl
  | .callAddrRadish w b off => radLow w 0#2 off :: (0x07#8 ++ b ++ 0#21) :: radLit off
  | .retRadish w b => radLow w 0#2 RImm.zero :: (0x08#8 ++ 0#21 ++ b) :: []
  | .markJoinRadish w off => radLow w 0#2 off :: (0x09#8 ++ 0#2 ++ 0#22) :: radLit off
  | .joinFragsRadish w => radLow w 0#2 RImm.zero :: (0x0A#8 ++ 0#24) :: []
  | .ppushRadish w p => radLow w 0#2 RImm.zero :: (0x0B#8 ++ 0#21 ++ p) :: []
  | .pinvRadish w => radLow w 0#2 RImm.zero :: (0x0C#8 ++ 0#24) :: []
  | .ppopRadish w => radLow w 0#2 RImm.zero :: (0x0D#8 ++ 0#24) :: []
  | .emrdRadish w k => radLow w 0#2 RImm.zero :: (0x0E#8 ++ 0#18 ++ k) :: []
  | .emwrRadish w k => radLow w 0#2 RImm.zero :: (0x0F#8 ++ 0#18 ++ k) :: []
  | .waitcRadish w a b c d => radLow w 0#2 RImm.zero :: (0x10#8 ++ a ++ b ++ c ++ d ++ 0#4) :: []
  | .cbatchRadish w => radLow w 0#2 RImm.zero :: (0x11#8 ++ 0#24) :: []
  | .waitbRadish w n => radLow w 0#2 RImm.zero :: (0x12#8 ++ 0#8 ++ n) :: []
  | .barRadish w c i => radLow w 0#2 RImm.zero :: (0x13#8 ++ 0#18 ++ c ++ i) :: []
  | .baraRadish w c i => radLow w 0#2 RImm.zero :: (0x14#8 ++ 0#18 ++ c ++ i) :: []
  | .barwRadish w c i => radLow w 0#2 RImm.zero :: (0x15#8 ++ 0#18 ++ c ++ i) :: []
  | .drainRadish w c i => radLow w 0#2 RImm.zero :: (0x16#8 ++ 0#18 ++ c ++ i) :: []
  | .eqpRadish w n => radLow w 0#2 RImm.zero :: (0x17#8 ++ 0#8 ++ n) :: []
  | .migrTeamRadish w cls n => radLow w 0#2 RImm.zero :: (0x18#8 ++ 0#7 ++ BitVec.ofBool cls ++ n) :: []
  | .roleswRadish w i => radLow w 0#2 RImm.zero :: (0x19#8 ++ 0#21 ++ i) :: []
  | .yieldIssueRadish w => radLow w 0#2 RImm.zero :: (0x1A#8 ++ 0#24) :: []
  | .exitFragRadish w => radLow w 0#2 RImm.zero :: (0x1B#8 ++ 0#24) :: []
  | .trapCodeRadish w c => radLow w 0#2 RImm.zero :: (0x1C#8 ++ 0#8 ++ c) :: []
  | .xretRadish w skip => radLow w 0#2 RImm.zero :: (0x1D#8 ++ 0#23 ++ BitVec.ofBool skip) :: []
  | .xrdRadish w k i => radLow w 0#2 RImm.zero :: (0x1E#8 ++ 0#10 ++ k ++ i) :: []
  | .xwrRadish w k i => radLow w 0#2 RImm.zero :: (0x1F#8 ++ 0#10 ++ k ++ i) :: []
  | .sreadRadish w k i => radLow w 0#2 RImm.zero :: (0x20#8 ++ 0#10 ++ k ++ i) :: []
  | .launchQueueRadish w b => radLow w 0#2 RImm.zero :: (0x21#8 ++ 0#21 ++ b) :: []
  | .ifenceRadish w => radLow w 0#2 RImm.zero :: (0x22#8 ++ 0#24) :: []
  | .cprefRadish w l off => radLow w 0#2 off :: (0x23#8 ++ l ++ 0#22) :: radLit off
  | .snoozeRadish w n => radLow w 0#2 RImm.zero :: (0x24#8 ++ 0#8 ++ n) :: []
  | .loopCountRadish w k off => radLow w 0#2 off :: (0x25#8 ++ k ++ 0#18) :: radLit off
  | .iaddRadish w d a b => radLow w 0#2 RImm.zero :: (0x30#8 ++ d ++ a ++ b) :: []
  | .isubRadish w d a b => radLow w 0#2 RImm.zero :: (0x31#8 ++ d ++ a ++ b) :: []
  | .imulRadish w d a b => radLow w 0#2 RImm.zero :: (0x32#8 ++ d ++ a ++ b) :: []
  | .imulhRadish w d a b => radLow w 0#2 RImm.zero :: (0x33#8 ++ d ++ a ++ b) :: []
  | .imadRadish w d a b => radLow w 0#2 RImm.zero :: (0x34#8 ++ d ++ a ++ b) :: []
  | .idivRadish w d a b => radLow w 0#2 RImm.zero :: (0x35#8 ++ d ++ a ++ b) :: []
  | .iremRadish w d a b => radLow w 0#2 RImm.zero :: (0x36#8 ++ d ++ a ++ b) :: []
  | .iminRadish w d a b => radLow w 0#2 RImm.zero :: (0x37#8 ++ d ++ a ++ b) :: []
  | .imaxRadish w d a b => radLow w 0#2 RImm.zero :: (0x38#8 ++ d ++ a ++ b) :: []
  | .iabsRadish w d a => radLow w 0#2 RImm.zero :: (0x39#8 ++ d ++ a ++ 0#8) :: []
  | .inegRadish w d a => radLow w 0#2 RImm.zero :: (0x3A#8 ++ d ++ a ++ 0#8) :: []
  | .iaddcRadish w d a b => radLow w 0#2 RImm.zero :: (0x3B#8 ++ d ++ a ++ b) :: []
  | .icmpRadish w c p a b => radLow w 0#2 RImm.zero :: (0x3C#8 ++ c ++ 0#2 ++ p ++ a ++ b) :: []
  | .selLaneRadish w d a b => radLow w 0#2 RImm.zero :: (0x3D#8 ++ d ++ a ++ b) :: []
  | .andBitsRadish w d a b => radLow w 0#2 RImm.zero :: (0x3E#8 ++ d ++ a ++ b) :: []
  | .orBitsRadish w d a b => radLow w 0#2 RImm.zero :: (0x3F#8 ++ d ++ a ++ b) :: []
  | .xorBitsRadish w d a b => radLow w 0#2 RImm.zero :: (0x40#8 ++ d ++ a ++ b) :: []
  | .notBitsRadish w d a => radLow w 0#2 RImm.zero :: (0x41#8 ++ d ++ a ++ 0#8) :: []
  | .shlRadish w d a b => radLow w 0#2 RImm.zero :: (0x42#8 ++ d ++ a ++ b) :: []
  | .shrRadish w d a b => radLow w 0#2 RImm.zero :: (0x43#8 ++ d ++ a ++ b) :: []
  | .sarRadish w d a b => radLow w 0#2 RImm.zero :: (0x44#8 ++ d ++ a ++ b) :: []
  | .rotlRadish w d a b => radLow w 0#2 RImm.zero :: (0x45#8 ++ d ++ a ++ b) :: []
  | .popcRadish w d a => radLow w 0#2 RImm.zero :: (0x46#8 ++ d ++ a ++ 0#8) :: []
  | .clzRadish w d a => radLow w 0#2 RImm.zero :: (0x47#8 ++ d ++ a ++ 0#8) :: []
  | .ctzRadish w d a => radLow w 0#2 RImm.zero :: (0x48#8 ++ d ++ a ++ 0#8) :: []
  | .brevRadish w d a => radLow w 0#2 RImm.zero :: (0x49#8 ++ d ++ a ++ 0#8) :: []
  | .bfeRadish w d a b => radLow w 0#2 RImm.zero :: (0x4A#8 ++ d ++ a ++ b) :: []
  | .bfiRadish w d a b => radLow w 0#2 RImm.zero :: (0x4B#8 ++ d ++ a ++ b) :: []
  | .movLaneRadish w d a => radLow w 0#2 RImm.zero :: (0x4C#8 ++ d ++ a ++ 0#8) :: []
  | .moviRadish w d i => radLow w 0#2 i :: (0x4D#8 ++ d ++ 0#8 ++ 0#8) :: radLit i
  | .leaRadish w d k b off => radLow w 0#2 off :: (0x4E#8 ++ d ++ k ++ 0#5 ++ b) :: radLit off
  | .iaddiRadish w d a i => radLow w 0#2 i :: (0x4F#8 ++ d ++ a ++ 0#8) :: radLit i
  | .saddRadish w d a b => radLow w 0#2 RImm.zero :: (0x50#8 ++ 0#2 ++ d ++ 0#2 ++ a ++ 0#2 ++ b) :: []
  | .ssubRadish w d a b => radLow w 0#2 RImm.zero :: (0x51#8 ++ 0#2 ++ d ++ 0#2 ++ a ++ 0#2 ++ b) :: []
  | .smulRadish w d a b => radLow w 0#2 RImm.zero :: (0x52#8 ++ 0#2 ++ d ++ 0#2 ++ a ++ 0#2 ++ b) :: []
  | .sandRadish w d a b => radLow w 0#2 RImm.zero :: (0x53#8 ++ 0#2 ++ d ++ 0#2 ++ a ++ 0#2 ++ b) :: []
  | .sorRadish w d a b => radLow w 0#2 RImm.zero :: (0x54#8 ++ 0#2 ++ d ++ 0#2 ++ a ++ 0#2 ++ b) :: []
  | .sxorRadish w d a b => radLow w 0#2 RImm.zero :: (0x55#8 ++ 0#2 ++ d ++ 0#2 ++ a ++ 0#2 ++ b) :: []
  | .sshlRadish w d a b => radLow w 0#2 RImm.zero :: (0x56#8 ++ 0#2 ++ d ++ 0#2 ++ a ++ 0#2 ++ b) :: []
  | .sshrRadish w d a b => radLow w 0#2 RImm.zero :: (0x57#8 ++ 0#2 ++ d ++ 0#2 ++ a ++ 0#2 ++ b) :: []
  | .scmpRadish w c p a b => radLow w 0#2 RImm.zero :: (0x58#8 ++ c ++ 0#2 ++ p ++ 0#2 ++ a ++ 0#2 ++ b) :: []
  | .smovRadish w d a => radLow w 0#2 RImm.zero :: (0x59#8 ++ 0#2 ++ d ++ 0#2 ++ a ++ 0#8) :: []
  | .smoviRadish w d i => radLow w 0#2 i :: (0x5A#8 ++ 0#2 ++ d ++ 0#8 ++ 0#8) :: radLit i
  | .sleaRadish w d b off => radLow w 0#2 off :: (0x5B#8 ++ 0#2 ++ d ++ 255#8 ++ 0#5 ++ b) :: radLit off
  | .vtosRadish w d a => radLow w 0#2 RImm.zero :: (0x5C#8 ++ 0#2 ++ d ++ a ++ 0#8) :: []
  | .stovRadish w d a => radLow w 0#2 RImm.zero :: (0x5D#8 ++ d ++ 0#2 ++ a ++ 0#8) :: []
  | .sminRadish w d a b => radLow w 0#2 RImm.zero :: (0x5E#8 ++ 0#2 ++ d ++ 0#2 ++ a ++ 0#2 ++ b) :: []
  | .smaxRadish w d a b => radLow w 0#2 RImm.zero :: (0x5F#8 ++ 0#2 ++ d ++ 0#2 ++ a ++ 0#2 ++ b) :: []
  | .faddRadish w d a b => radLow w 0#2 RImm.zero :: (0x60#8 ++ d ++ a ++ b) :: []
  | .fsubRadish w d a b => radLow w 0#2 RImm.zero :: (0x61#8 ++ d ++ a ++ b) :: []
  | .fmulRadish w d a b => radLow w 0#2 RImm.zero :: (0x62#8 ++ d ++ a ++ b) :: []
  | .ffmaRadish w d a b => radLow w 0#2 RImm.zero :: (0x63#8 ++ d ++ a ++ b) :: []
  | .fminRadish w d a b => radLow w 0#2 RImm.zero :: (0x64#8 ++ d ++ a ++ b) :: []
  | .fmaxRadish w d a b => radLow w 0#2 RImm.zero :: (0x65#8 ++ d ++ a ++ b) :: []
  | .fabsRadish w d a => radLow w 0#2 RImm.zero :: (0x66#8 ++ d ++ a ++ 0#8) :: []
  | .fnegRadish w d a => radLow w 0#2 RImm.zero :: (0x67#8 ++ d ++ a ++ 0#8) :: []
  | .fcmpRadish w c p a b => radLow w 0#2 RImm.zero :: (0x68#8 ++ c ++ 0#2 ++ p ++ a ++ b) :: []
  | .fclassRadish w d a => radLow w 0#2 RImm.zero :: (0x69#8 ++ d ++ a ++ 0#8) :: []
  | .fdivRadish w d a b => radLow w 0#2 RImm.zero :: (0x6A#8 ++ d ++ a ++ b) :: []
  | .fsqrtRadish w d a => radLow w 0#2 RImm.zero :: (0x6B#8 ++ d ++ a ++ 0#8) :: []
  | .frndRadish w d a => radLow w 0#2 RImm.zero :: (0x6C#8 ++ d ++ a ++ 0#8) :: []
  | .fldexpRadish w d a b => radLow w 0#2 RImm.zero :: (0x6D#8 ++ d ++ a ++ b) :: []
  | .fexpoRadish w d a => radLow w 0#2 RImm.zero :: (0x6E#8 ++ d ++ a ++ 0#8) :: []
  | .fsgnjRadish w d a b => radLow w 0#2 RImm.zero :: (0x6F#8 ++ d ++ a ++ b) :: []
  | .frcpRadish w d a => radLow w 0#2 RImm.zero :: (0x70#8 ++ d ++ a ++ 0#8) :: []
  | .frsqRadish w d a => radLow w 0#2 RImm.zero :: (0x71#8 ++ d ++ a ++ 0#8) :: []
  | .fex2Radish w d a => radLow w 0#2 RImm.zero :: (0x72#8 ++ d ++ a ++ 0#8) :: []
  | .flg2Radish w d a => radLow w 0#2 RImm.zero :: (0x73#8 ++ d ++ a ++ 0#8) :: []
  | .fsinRadish w d a => radLow w 0#2 RImm.zero :: (0x74#8 ++ d ++ a ++ 0#8) :: []
  | .fcosRadish w d a => radLow w 0#2 RImm.zero :: (0x75#8 ++ d ++ a ++ 0#8) :: []
  | .ftanhRadish w d a => radLow w 0#2 RImm.zero :: (0x76#8 ++ d ++ a ++ 0#8) :: []
  | .cvtRadish w d a src => radLow w 0#2 RImm.zero :: (0x80#8 ++ d ++ a ++ 0#4 ++ src) :: []
  | .cvtiRadish w d a src => radLow w 0#2 RImm.zero :: (0x81#8 ++ d ++ a ++ 0#4 ++ src) :: []
  | .packRadish w d a b => radLow w 0#2 RImm.zero :: (0x82#8 ++ d ++ a ++ b) :: []
  | .unpkRadish w d a => radLow w 0#2 RImm.zero :: (0x83#8 ++ d ++ a ++ 0#8) :: []
  | .qhistRadish w d a b => radLow w 0#2 RImm.zero :: (0x84#8 ++ d ++ a ++ b) :: []
  | .qscaleRadish w d a b => radLow w 0#2 RImm.zero :: (0x85#8 ++ d ++ a ++ b) :: []
  | .quantRadish w d a b => radLow w 0#2 RImm.zero :: (0x86#8 ++ d ++ a ++ b) :: []
  | .deqRadish w d a b => radLow w 0#2 RImm.zero :: (0x87#8 ++ d ++ a ++ b) :: []
  | .qclrRadish w d => radLow w 0#2 RImm.zero :: (0x88#8 ++ d ++ 0#8 ++ 0#8) :: []
  | .shflRadish w d a b => radLow w 0#2 RImm.zero :: (0x90#8 ++ d ++ a ++ b) :: []
  | .shfluRadish w d a i => radLow w 0#2 i :: (0x91#8 ++ d ++ a ++ 0#8) :: radLit i
  | .shfldRadish w d a i => radLow w 0#2 i :: (0x92#8 ++ d ++ a ++ 0#8) :: radLit i
  | .shflxRadish w d a i => radLow w 0#2 i :: (0x93#8 ++ d ++ a ++ 0#8) :: radLit i
  | .voteRadish w d p i => radLow w 0#2 i :: (0x94#8 ++ 0#2 ++ d ++ 0#5 ++ p ++ 0#8) :: radLit i
  | .reduRadish w d a i => radLow w 0#2 i :: (0x95#8 ++ d ++ a ++ 0#8) :: radLit i
  | .scanLanesRadish w d a i => radLow w 0#2 i :: (0x96#8 ++ d ++ a ++ 0#8) :: radLit i
  | .matchLanesRadish w d a => radLow w 0#2 RImm.zero :: (0x97#8 ++ d ++ a ++ 0#8) :: []
  | .bcastRadish w d a i => radLow w 0#2 i :: (0x98#8 ++ d ++ a ++ 0#8) :: radLit i
  | .firstLaneRadish w d a => radLow w 0#2 RImm.zero :: (0x99#8 ++ d ++ a ++ 0#8) :: []
  | .ldGlobalRadish w d k sc o b off => radLow w 0#2 off :: (0xA0#8 ++ d ++ k ++ sc ++ o ++ b) :: radLit off
  | .stGlobalRadish w d k sc o b off => radLow w 0#2 off :: (0xA1#8 ++ d ++ k ++ sc ++ o ++ b) :: radLit off
  | .ldxRadish w d k sc o b off => radLow w 0#2 off :: (0xA2#8 ++ d ++ k ++ sc ++ o ++ b) :: radLit off
  | .stxRadish w d k sc o b off => radLow w 0#2 off :: (0xA3#8 ++ d ++ k ++ sc ++ o ++ b) :: radLit off
  | .ldsRadish w d k off => radLow w 0#2 off :: (0xA4#8 ++ d ++ k ++ 0#8) :: radLit off
  | .stsRadish w d k off => radLow w 0#2 off :: (0xA5#8 ++ d ++ k ++ 0#8) :: radLit off
  | .ldpRadish w d k off => radLow w 0#2 off :: (0xA6#8 ++ d ++ k ++ 0#8) :: radLit off
  | .stpRadish w d k off => radLow w 0#2 off :: (0xA7#8 ++ d ++ k ++ 0#8) :: radLit off
  | .stnRadish w d k sc o b off => radLow w 0#2 off :: (0xA8#8 ++ d ++ k ++ sc ++ o ++ b) :: radLit off
  | .srsetRadish w k => radLow w 0#2 RImm.zero :: (0xA9#8 ++ 0#18 ++ k) :: []
  | .ataddRadish w d k sc o b off => radLow w 0#2 off :: (0xAA#8 ++ d ++ k ++ sc ++ o ++ b) :: radLit off
  | .atminRadish w d k sc o b off => radLow w 0#2 off :: (0xAB#8 ++ d ++ k ++ sc ++ o ++ b) :: radLit off
  | .atmaxRadish w d k sc o b off => radLow w 0#2 off :: (0xAC#8 ++ d ++ k ++ sc ++ o ++ b) :: radLit off
  | .atandRadish w d k sc o b off => radLow w 0#2 off :: (0xAD#8 ++ d ++ k ++ sc ++ o ++ b) :: radLit off
  | .atorRadish w d k sc o b off => radLow w 0#2 off :: (0xAE#8 ++ d ++ k ++ sc ++ o ++ b) :: radLit off
  | .atxorRadish w d k sc o b off => radLow w 0#2 off :: (0xAF#8 ++ d ++ k ++ sc ++ o ++ b) :: radLit off
  | .atxchRadish w d k sc o b off => radLow w 0#2 off :: (0xB0#8 ++ d ++ k ++ sc ++ o ++ b) :: radLit off
  | .atcasRadish w d k sc o b off => radLow w 0#2 off :: (0xB1#8 ++ d ++ k ++ sc ++ o ++ b) :: radLit off
  | .redaddRadish w d k sc o b off => radLow w 0#2 off :: (0xB2#8 ++ d ++ k ++ sc ++ o ++ b) :: radLit off
  | .redminRadish w d k sc o b off => radLow w 0#2 off :: (0xB3#8 ++ d ++ k ++ sc ++ o ++ b) :: radLit off
  | .redmaxRadish w d k sc o b off => radLow w 0#2 off :: (0xB4#8 ++ d ++ k ++ sc ++ o ++ b) :: radLit off
  | .fenceRadish w sc o seq => radLow w 0#2 RImm.zero :: (0xB5#8 ++ 0#8 ++ 255#8 ++ sc ++ o ++ 0#2 ++ BitVec.ofBool seq) :: []
  | .ofenceRadish w sc o b => radLow w 0#2 RImm.zero :: (0xB6#8 ++ 0#8 ++ 255#8 ++ sc ++ o ++ b) :: []
  | .rflushRadish w n b off => radLow w 0#2 off :: (0xB7#8 ++ 0#2 ++ n ++ 255#8 ++ 0#5 ++ b) :: radLit off
  | .rinvRadish w n b off => radLow w 0#2 off :: (0xB8#8 ++ 0#2 ++ n ++ 255#8 ++ 0#5 ++ b) :: radLit off
  | .pfetchRadish w k b off => radLow w 0#2 off :: (0xB9#8 ++ 0#8 ++ k ++ 0#5 ++ b) :: radLit off
  | .locateRadish w k b off => radLow w 0#2 off :: (0xBA#8 ++ 0#8 ++ k ++ 0#5 ++ b) :: radLit off
  | .reparkRadish w n b off => radLow w 0#2 off :: (0xBB#8 ++ 0#2 ++ n ++ 255#8 ++ 0#5 ++ b) :: radLit off
  | .unparkRadish w n b off => radLow w 0#2 off :: (0xBC#8 ++ 0#2 ++ n ++ 255#8 ++ 0#5 ++ b) :: radLit off
  | .objdefRadish w n b => radLow w 0#2 RImm.zero :: (0xBD#8 ++ 0#2 ++ n ++ 255#8 ++ 0#5 ++ b) :: []
  | .objdelRadish w n => radLow w 0#2 RImm.zero :: (0xBE#8 ++ 0#2 ++ n ++ 255#8 ++ 0#8) :: []
  | .pcommitRadish w n b off => radLow w 0#2 off :: (0xC0#8 ++ 0#2 ++ n ++ 255#8 ++ 0#5 ++ b) :: radLit off
  | .pdecommitRadish w n b off => radLow w 0#2 off :: (0xC1#8 ++ 0#2 ++ n ++ 255#8 ++ 0#5 ++ b) :: radLit off
  | .allocBlockRadish w n => radLow w 0#2 RImm.zero :: (0xC2#8 ++ 0#2 ++ n ++ 255#8 ++ 0#8) :: []
  | .freeBlockRadish w n => radLow w 0#2 RImm.zero :: (0xC3#8 ++ 0#2 ++ n ++ 255#8 ++ 0#8) :: []
  | .pqueryRadish w n b off => radLow w 0#2 off :: (0xC4#8 ++ 0#2 ++ n ++ 255#8 ++ 0#5 ++ b) :: radLit off
  | .tcopyRadish w d a b => radLow w 0#2 RImm.zero :: (0xC8#8 ++ 0#2 ++ d ++ 0#2 ++ a ++ 0#2 ++ b) :: []
  | .tcopymRadish w d a b => radLow w 0#2 RImm.zero :: (0xC9#8 ++ 0#2 ++ d ++ 0#2 ++ a ++ 0#2 ++ b) :: []
  | .chainRadish w d a => radLow w 0#2 RImm.zero :: (0xCA#8 ++ 0#2 ++ d ++ 0#2 ++ a ++ 0#8) :: []
  | .bbinitRadish w a b => radLow w 0#2 RImm.zero :: (0xCB#8 ++ 0#8 ++ 0#2 ++ a ++ 0#2 ++ b) :: []
  | .bbexpRadish w a b => radLow w 0#2 RImm.zero :: (0xCC#8 ++ 0#8 ++ 0#2 ++ a ++ 0#2 ++ b) :: []
  | .bbwaitRadish w d a => radLow w 0#2 RImm.zero :: (0xCD#8 ++ 0#2 ++ d ++ 0#2 ++ a ++ 0#8) :: []
  | .bbinvRadish w a => radLow w 0#2 RImm.zero :: (0xCE#8 ++ 0#8 ++ 0#2 ++ a ++ 0#8) :: []
  | .bbarrRadish w a b => radLow w 0#2 RImm.zero :: (0xCF#8 ++ 0#8 ++ 0#2 ++ a ++ 0#2 ++ b) :: []
  | .rinitRadish w a => radLow w 0#2 RImm.zero :: (0xD0#8 ++ 0#8 ++ 0#2 ++ a ++ 0#8) :: []
  | .racqRadish w d a => radLow w 0#2 RImm.zero :: (0xD1#8 ++ 0#2 ++ d ++ 0#2 ++ a ++ 0#8) :: []
  | .rpubRadish w d a b => radLow w 0#2 RImm.zero :: (0xD2#8 ++ 0#2 ++ d ++ 0#2 ++ a ++ 0#2 ++ b) :: []
  | .rtakeRadish w d a => radLow w 0#2 RImm.zero :: (0xD3#8 ++ 0#2 ++ d ++ 0#2 ++ a ++ 0#8) :: []
  | .rdoneRadish w a b => radLow w 0#2 RImm.zero :: (0xD4#8 ++ 0#8 ++ 0#2 ++ a ++ 0#2 ++ b) :: []
  | .rcloseRadish w a => radLow w 0#2 RImm.zero :: (0xD5#8 ++ 0#8 ++ 0#2 ++ a ++ 0#8) :: []
  | .spushRadish w a b => radLow w 0#2 RImm.zero :: (0xD6#8 ++ 0#8 ++ 0#2 ++ a ++ 0#2 ++ b) :: []

/-- The 64-bit words that a list of 32-bit words holds, low half first (R76). -/
def pairUp : List (BitVec 32) → List (BitVec 64)
  | lo :: hi :: r => (hi ++ lo) :: pairUp r
  | _ => []

/-- The Marrow instruction at the front of a list of words, and the words after it; none where the list is too short. -/
def decodeMarrowList (ws : List (BitVec 32)) : Option (Except Reject (Instr × List (BitVec 32))) :=
  match ws with
  | [] => none
  | w :: r =>
    if r.length < marrowExtra w then none
    else some ((decodeMarrow w (r.take (marrowExtra w))).map fun i => (i, r.drop (marrowExtra w)))

/-- The Radish instruction at the front of a list of 64-bit words, and the words after it. -/
noncomputable def decodeRadishList (ws : List (BitVec 64)) : Option (Except Reject (Instr × List (BitVec 64))) :=
  match ws with
  | [] => none
  | w :: r =>
    if r.length < radishExtra w then none
    else some ((decodeRadish w (r.take (radishExtra w))).map fun i => (i, r.drop (radishExtra w)))

/-- The four bytes of a word, lowest address first: little-endian (R1, R60). -/
def wordBytes (w : BitVec 32) : List Byte :=
  [w.extractLsb' 0 8, w.extractLsb' 8 8, w.extractLsb' 16 8, w.extractLsb' 24 8]

/-- The words that a list of bytes holds, little-endian; bytes past the last whole word are left (R1). -/
def bytesWords : List Byte → List (BitVec 32)
  | b0 :: b1 :: b2 :: b3 :: r => (b3 ++ b2 ++ b1 ++ b0) :: bytesWords r
  | _ => []

/-- The bytes of an instruction as memory holds them. -/
def encode (i : Instr) : List Byte := (encodeWords i).flatMap wordBytes

/-- The Marrow decoder on bytes. -/
def decodeMarrowBytes (bs : List Byte) : Option (Except Reject Instr) :=
  (decodeMarrowList (bytesWords bs)).map fun e => e.map (·.1)

/-- The Radish decoder on bytes. -/
noncomputable def decodeRadishBytes (bs : List Byte) : Option (Except Reject Instr) :=
  (decodeRadishList (pairUp (bytesWords bs))).map fun e => e.map (·.1)

/-- What the decoder reads from the bytes of an instruction whose first 32 bits are w and whose further words are zero.
The opcode table gives bits to the Marrow words alone; a Radish form has none there. -/
def decodeTableWord (nbits w : Nat) : Option Instr :=
  if nbits = 32 then
    let v := BitVec.ofNat 32 w
    match decodeMarrowBytes (wordBytes v ++ List.replicate (4 * marrowExtra v) 0) with
    | some (.ok i) => some i
    | _ => none
  else none

end Sys2Proof
end

