-- ==== Sys2Proof/Machine/Order.lean ====
section
/-! DEFINITION. The ordering rules (R245 to R256): events, for each the set of events that happen before it, the candidate writes
of a load, synchronisation, chains of atomics and sequentially consistent fences. A byte is named by its key: a physical byte by `devKey`, a byte of a local-store window by `lsKey`. -/
set_option linter.all false
namespace Sys2Proof.Machine

/-- A window byte's key, past every physical address (R249) (DESIGN CHOICE, log 95). -/
def lsKey (tid off : Nat) : Nat := 2 ^ 70 + tid * 2 ^ 33 + off

/-! ### Agents (R245) -/
def laneAgent (gid l : Nat) : Nat := 32 * gid + l
/-- A group as the unit whose local-store accesses keep program order (R151): an LDS returns what the group stored last. -/
def lsAgent (gid : Nat) : Nat := 2 ^ 50 + gid
def streamAgent (tid : Nat) : Nat := 2 ^ 51 + tid
def copyAgent (cid : Nat) : Nat := 2 ^ 52 + cid
def stewardAgent (i : Nat) : Nat := 2 ^ 53 + i

/-- Whether the instance of a scope for one agent contains the other (R245) (DEDUCED, log 16). -/
def sameInst (sc : Nat) (p q : Place) : Bool :=
  match sc with
  | 0 => p.kind == 0 && q.kind == 0 && p.dev == q.dev && p.group == q.group
  | 1 => p.kind == 0 && q.kind == 0 && p.dev == q.dev && p.team == q.team
  | 2 => p.kind == 0 && q.kind == 0 && p.dev == q.dev && p.cluster == q.cluster
  | 3 => p.kind == 0 && q.kind == 0 && p.dev == q.dev && p.die == q.die
  | 4 => p.kind != 2 && q.kind != 2 && p.dev == q.dev
  | _ => true

/-- The instance of a scope that contains an agent, as a key. -/
def instKey (sc : Nat) (p : Place) : Nat × Nat :=
  match sc with
  | 0 => (0, p.group)
  | 1 => (1, p.team)
  | 2 => (2, p.cluster)
  | 3 => (3, p.dev * 4 + p.die)
  | 4 => (4, p.dev)
  | _ => (5, 0)

/-! ### Events and happens-before (R246 to R248) -/

def Ord.ag (o : Ord) (a : Nat) : AgentOrd := aget AgentOrd.empty a o.agents
def Ord.setAg (o : Ord) (a : Nat) (x : AgentOrd) : Ord := { o with agents := aput a x o.agents }

/-- The events that happen before event n, as a set of bits. -/
def Ord.before (o : Ord) (n : Nat) : Nat := o.past.getD n 0
/-- The same by the edges that order window accesses alone (R220, R249). -/
def Ord.wbefore (o : Ord) (n : Nat) : Nat := o.wpast.getD n 0

/-- Event n with everything that happens before it. -/
def Ord.upTo (o : Ord) (n : Nat) : Nat := o.before n ||| 1 <<< n

/-- Everything in or before one of some events. -/
def Ord.upToAll (o : Ord) (ps : List Nat) : Nat := ps.foldl (fun m p => m ||| o.upTo p) 0
def Ord.wUpToAll (o : Ord) (ps : List Nat) : Nat := ps.foldl (fun m p => m ||| (o.wbefore p ||| 1 <<< p)) 0

/-- a happens before b. -/
def Ord.hb (o : Ord) (a b : Nat) : Bool := (o.before b).testBit a

/-- What event n has acquired for some bytes only (R158, R166). -/
def Ord.limits (o : Ord) (n : Nat) : List (Nat × Nat × Nat) := aget [] n o.lim

/-- A byte: its key, and the virtual address by which an object or a block holds it; a window's byte has none. -/
structure ByteRef where
  key : Nat
  va : Nat
  deriving DecidableEq, Repr

/-- What happens before event n for accesses to one byte: a window's by its own edges, and a byte of an object or block with what
was acquired for that alone (R158, R166, R220). -/
def Ord.beforeAt (o : Ord) (b : ByteRef) (n : Nat) : Nat :=
  if b.key ≥ 2 ^ 70 then o.wbefore n
  else ((o.limits n).filter fun x => x.1 ≤ b.va && b.va < x.2.1).foldl (fun m x => m ||| o.upTo x.2.2) (o.before n)

/-- Everything before one of some events, for one byte. -/
def Ord.beforeAll (o : Ord) (b : ByteRef) (ps : List Nat) : Nat := ps.foldl (fun m p => m ||| o.beforeAt b p) 0

/-- A new event with its direct predecessors, and those of them that order window accesses. -/
def Ord.newNode2 (o : Ord) (ps ws : List Nat) : Nat × Ord :=
  let ls := (ps.flatMap o.limits).eraseDups
  (o.past.size, { o with
    past := o.past.push (o.upToAll ps), wpast := o.wpast.push (o.wUpToAll ws),
    lim := if ls.isEmpty then o.lim else aput o.past.size ls o.lim })

/-- A new event with direct predecessors. -/
def Ord.newNode (o : Ord) (ps : List Nat) : Nat × Ord := o.newNode2 ps ps

/-- A set of events with those of `add` when it holds event n. -/
def spread (n add m : Nat) : Nat := if m.testBit n then m ||| add else m

/-- Event n, and all that it is before, have acquired some limits as well. -/
def Ord.addLims (o : Ord) (n : Nat) (ls : List (Nat × Nat × Nat)) : Ord :=
  if ls.isEmpty then o
  else { o with lim := (List.range o.past.size).foldl (fun l m =>
    if m = n || (o.before m).testBit n then aput m (aget [] m l ++ ls).eraseDups l else l) o.lim }

/-- One more direct predecessor p of event n: p and all before it are now before n and before all that n is before. -/
def Ord.addPred (o : Ord) (n p : Nat) : Ord :=
  let add := o.upTo p
  let o := if (o.before n ||| add) = o.before n then o
    else
      let l := o.past.toList.map (spread n add)
      { o with past := (l.set n (o.before n ||| add)).toArray }
  o.addLims n (o.limits p)

/-- Event n acquires event p for the bytes of [lo, hi) alone, with what p acquired for some of them (R158, R166). -/
def Ord.addLim (o : Ord) (n lo hi p : Nat) : Ord :=
  o.addLims n ((lo, hi, p) :: ((o.limits p).map fun x => (max lo x.1, min hi x.2.1, x.2.2)).filter fun x => x.1 < x.2.1)

/-- The next event of an agent in its program order (R246). -/
def Ord.event (o : Ord) (a : Nat) (more : List Nat) : Nat × Ord :=
  let x := o.ag a
  let (n, o) := o.newNode (x.at_.toList ++ more)
  (n, o.setAg a { x with at_ := some n })

/-! ### Bytes -/

/-- The present value of a byte: of a window or of memory (DESIGN CHOICE, log 95). -/
def State.peek (s : State) (k : Nat) : Byte :=
  if k < 2 ^ 70 then s.byte k
  else mget (s.team ((k - 2 ^ 70) / 2 ^ 33)).win ((k - 2 ^ 70) % 2 ^ 33)

/-- The present values of n bytes of one window or of memory. -/
def State.peeks (s : State) (k n : Nat) : List Byte :=
  if k < 2 ^ 70 then mread s.mem k n
  else mread (s.team ((k - 2 ^ 70) / 2 ^ 33)).win ((k - 2 ^ 70) % 2 ^ 33) n

/-- Sets the present values of bytes of one window or of memory. -/
def State.pokes (s : State) (k : Nat) (bs : List Byte) : State :=
  if k < 2 ^ 70 then { s with mem := mwrite s.mem k bs }
  else s.modTeam ((k - 2 ^ 70) / 2 ^ 33) fun t => { t with win := mwrite t.win ((k - 2 ^ 70) % 2 ^ 33) bs }

def WriteRec.covers (w : WriteRec) (k : Nat) : Bool := w.addr ≤ k && k < w.addr + w.bytes.length
def WriteRec.byteAt (w : WriteRec) (k : Nat) : Byte := w.bytes.getD (k - w.addr) 0

/-- The initial write I_x of a byte (R249): what stood there before the first write of it that performed. -/
def State.initByte (s : State) (k : Nat) : Byte :=
  let first : Option WriteRec := s.ord.writes.foldl (fun a w => if w.done && w.covers k then some w else a) none
  match first with
  | some w => w.old.getD (k - w.addr) 0
  | none => s.peek k

/-! ### Candidates (R250, R251, R253) -/

/-- A candidate: a write, or the initial write. -/
abbrev Cand := Option WriteRec

/-- The writes of a byte that a load event n has to return or to pass over for no earlier one: those that an earlier acquiring
load of its lane found acknowledged when it issued, in the instance of its scope (R253) (DEDUCED, log 14). -/
def floorOf (s : State) (n agent k : Nat) (place : Place) (acq : Option Nat) : List Nat :=
  match acq with
  | none => []
  | some sc => (((s.ord.ag agent).floor.filter fun f => f.1 == k && f.2.2 < n).map (·.2.1)).filter fun f =>
      s.ord.writes.any fun w => w.node == f && w.covers k && sameInst sc place w.place

/-- A store to lane-private memory that its owner's L1 may hold back from a reader at a place (R222). -/
def WriteRec.hidden (w : WriteRec) (place : Place) : Bool := w.priv && !(sameInst 0 place w.place)

/-- The candidate writes of a byte for a load event n of an agent; `acq` is the scope of an acquiring load (R253). What an
acquiring load before it returned rules out what happens before that write, as its own earlier loads do (R251, R262)
(DEDUCED, log 11; DEDUCED, log 13). A store that another group's L1 may hold back rules nothing out (R222). -/
def candidates (s : State) (n agent : Nat) (b : ByteRef) (place : Place) (acq : Option Nat) : List Cand :=
  let o := s.ord
  let x := o.ag agent
  let ws := o.writes.filter fun w => w.covers b.key
  let known := o.beforeAt b n
  let kn := (ws.filter fun w => known.testBit w.node && !w.hidden place).map (·.node)
  let seen := (x.obs.filter fun p => p.1 == b.key).map (·.2) ++
    (o.acqObs.filter fun e => e.1 == b.key && known.testBit e.2.1).map (·.2.2)
  let floor := floorOf s n agent b.key place acq
  let ruled := o.beforeAll b (kn ++ seen ++ floor)
  let good (w : WriteRec) : Bool :=
    (w.done || known.testBit w.node) && w.node != n && !(o.beforeAt b w.node).testBit n && !ruled.testBit w.node
  let init : List Cand := if kn.isEmpty && seen.isEmpty && floor.isEmpty then [none] else []
  ((ws.filter good).map some) ++ init

def candByte (s : State) (k : Nat) (c : Cand) : Byte :=
  match c with
  | some w => w.byteAt k
  | none => s.initByte k

def candNode (c : Cand) : Option Nat := c.map (·.node)

/-- Takes the element that a choice names. -/
def pick {α : Type} (l : List α) (ch : Nat) : Option α := l[ch % l.length]?

/-- Whether taking c for a byte with candidates cs agrees with a strong write w taken for another byte: a strong write taken for one
byte of a granule is taken for every byte of it that it wrote and that no later write has ruled out (R146, R250); what an STS or an
engine writes at one event is one write (R220). Where a reader returns one write for its whole width, `all`, every write is taken so
(R108, R255) (DEDUCED, log 12). -/
def agrees (all : Bool) (w c : Cand) (cs : List Cand) : Bool :=
  match w with
  | none => true
  | some w => !(all || w.strong) || !(cs.any fun d => candNode d == some w.node) || candNode c == some w.node

/-- Every way to take one candidate per byte, each list beside its byte, so that strong writes stay whole: `got` holds what
is taken for the bytes so far, the last first (DEDUCED, log 12). -/
def wholeFrom (all : Bool) : List (Nat × List Cand × Cand) → List (Nat × List Cand) → List (List Cand)
  | got, [] => [(got.map (·.2.2)).reverse]
  | got, (k, cs) :: r => cs.flatMap fun c =>
      if got.all fun g => agrees all g.2.2 c cs && agrees all c g.2.2 g.2.1 then wholeFrom all ((k, cs, c) :: got) r
      else []

/-- One candidate per byte, each byte by itself: the choice is read as a number with one digit a byte. -/
def pickEach : List (List Cand) → Nat → List Cand × Nat
  | [], ch => ([], ch)
  | l :: r, ch => let x := pickEach r (ch / max 1 l.length)
                  ((l[ch % l.length]?).getD none :: x.1, x.2)

/-- How a reader keeps writes whole: not at all (a plain load), the strong ones (R250), or every write (R108, R255). -/
inductive Whole where
  | bytes
  | strong
  | all
  deriving DecidableEq, Repr

/-- The bytes of one granule (or the whole width of an atomic) that a choice takes, with the rest of the choice. -/
def chooseGranule (ks : List Nat) (cs : List (List Cand)) (w : Whole) (ch : Nat) : List Cand × Nat :=
  let ways := match w with
    | .bytes => []
    | _ => wholeFrom (w == .all) [] (List.zip ks cs)
  match pick ways ch with
  | some a => (a, ch / ways.length)
  | none => pickEach cs ch

/-- Bytes that follow one another within aligned 4-byte granules: each run's first byte and its length. -/
def refRuns : List ByteRef → List (ByteRef × Nat)
  | [] => []
  | b :: r => match refRuns r with
    | (x, n) :: t => if x.key = b.key + 1 ∧ x.key / 4 = b.key / 4 then (b, n + 1) :: t else (b, 1) :: (x, n) :: t
    | [] => [(b, 1)]

/-- Cells of rising addresses as runs of neighbours. -/
def runsOf : List (Nat × Byte) → List (Nat × List Byte)
  | [] => []
  | (k, b) :: r => match runsOf r with
    | (k', bs) :: t => if k' = k + 1 then (k, b :: bs) :: t else (k, [b]) :: (k', bs) :: t
    | [] => [(k, [b])]

/-- Bytes grouped by aligned 4-byte granule. -/
def granules (k n : Nat) : List (List Nat) :=
  if n ≤ 4 then [(List.range n).map (k + ·)]
  else [(List.range 4).map (k + ·), (List.range (n - 4)).map (k + 4 + ·)]

/-- What a load of n bytes from byte b on returns: for each byte the write taken; `ch` is the device's choice (R250)
(DEDUCED, log 11). -/
def loadCands (s : State) (node agent : Nat) (b : ByteRef) (n : Nat) (place : Place) (acq : Option Nat) (strong : Bool)
    (ch : Nat) : List (Nat × Cand) × Nat :=
  (granules b.key n).foldl (fun (acc : List (Nat × Cand) × Nat) ks =>
    let r := chooseGranule ks (ks.map fun x => candidates s node agent ⟨x, b.va + (x - b.key)⟩ place acq)
      (if strong then .strong else .bytes) acc.2
    (acc.1 ++ List.zip ks r.1, r.2)) ([], ch)

/-- A read at an event whose bytes an atomic or reduction that happens before it has yet to write: it performs later
(R249, R250, R254). -/
def blocked (s : State) (node k n : Nat) : Bool :=
  s.ord.pendAt.any fun p => p.2.1 < k + n && k < p.2.1 + p.2.2 && s.ord.hb p.1 node

/-- Notes atomics as they issue, by their events and bytes; and takes one that has performed out. -/
def State.notePend (s : State) (ps : List (Nat × Nat × Nat)) : State := { s with ord := { s.ord with pendAt := ps ++ s.ord.pendAt } }
def State.endPend (s : State) (node : Nat) : State :=
  { s with ord := { s.ord with pendAt := s.ord.pendAt.filter fun p => p.1 != node } }

/-! ### Writes -/

/-- Enters a write of an agent in W(x), not yet performed. -/
def State.addWrite (s : State) (w : WriteRec) : State := { s with ord := { s.ord with writes := w :: s.ord.writes } }

def setWrites (s : State) (f : WriteRec → WriteRec) : State :=
  { s with ord := { s.ord with writes := s.ord.writes.map f } }

/-- Performs the write of an event: its bytes become the present ones, and it stands in performing order. -/
def State.perform (s : State) (node : Nat) : State :=
  match s.ord.writes.find? fun w => w.node == node && !w.done with
  | none => s
  | some w =>
    let w := { w with done := true, old := s.peeks w.addr w.bytes.length }
    let s := s.pokes w.addr w.bytes
    { s with ord := { s.ord with
        writes := w :: s.ord.writes.filter fun v => v.node != node || v.done } }

/-- Acknowledges the write of an event (R243). -/
def State.ackW (s : State) (node : Nat) : State := setWrites s fun w => if w.node = node then { w with acked := true } else w

/-! ### Synchronisation (R247) -/

/-- The releases among those a write carries that an acquire of scope sc at a place pairs with (DEDUCED, log 16). -/
def pairs (rel : List RelEnt) (sc : Nat) (q : Place) : List RelEnt :=
  rel.filter fun e => sameInst e.sc e.place q && sameInst sc e.place q

/-- The bytes that both of two limits hold; no limit holds all. -/
def meetObj : Option (Nat × Nat) → Option (Nat × Nat) → Option (Nat × Nat)
  | none, b => b
  | a, none => a
  | some a, some b => some (max a.1 b.1, min a.2 b.2)

/-- An event acquires a list of releases; one limited to an object, on either side, orders only accesses to it (R158). -/
def acquire (o : Ord) (node : Nat) (obj : Option (Nat × Nat)) (es : List RelEnt) : Ord :=
  es.foldl (fun o e => match meetObj e.obj obj with
    | none => o.addPred node e.node
    | some b => o.addLim node b.1 b.2 e.node) o

/-- The releases a write of an agent carries: its own when it is a release, and those of earlier release fences, which pair
within both scopes (R247). -/
def relOf (x : AgentOrd) (node : Nat) (place : Place) (sc : Nat) (rel strong : Bool) : List RelEnt :=
  (if rel then [⟨node, sc, place, none⟩] else []) ++
    (if strong then x.relF.map fun e => { e with sc := min e.sc sc } else [])

/-- A load returns: what it took is observed, and by its order it acquires now or leaves it for a fence (R247, R251)
(DEDUCED, log 13). `fences` are the acquire fences that have issued since: event, scope and object. -/
def returnLoad (s : State) (agent node : Nat) (place : Place) (sc : Nat) (acq strong : Bool)
    (fences : List (Nat × Nat × Option (Nat × Nat))) (got : List (Nat × Cand)) : State :=
  let ws := got.filterMap fun p => p.2
  let rel := (ws.flatMap (·.rel)).eraseDups
  let o := s.ord
  let x := o.ag agent
  let obs := (got.filterMap fun p => p.2.map fun w => (p.1, w.node)).filter fun p => !x.obs.contains p
  let o := o.setAg agent { x with obs := obs ++ x.obs, pend := if strong && !rel.isEmpty then ⟨rel, sc⟩ :: x.pend else x.pend }
  let o := if acq then
      let new := (got.filterMap fun p => p.2.map fun w => (p.1, node, w.node)).filter fun e =>
        !(o.acqObs.any fun f => f.1 == e.1 && f.2.2 == e.2.2 && o.hb f.2.1 node)
      acquire { o with acqObs := new ++ o.acqObs } node none (pairs rel sc place)
    else o
  let o := if strong then
      fences.foldl (fun o f => acquire o f.1 f.2.2 (pairs (pairs rel sc place) f.2.1 place)) o
    else o
  { s with ord := o }

/-- What acquiring loads of an agent find acknowledged when one issues (R253) (DEDUCED, log 14). -/
def noteFloor (s : State) (agent node k n : Nat) (place : Place) (sc : Nat) : State :=
  let ws := s.ord.writes.filter fun w => w.acked && sameInst sc place w.place
  let new := ((List.range n).map (k + ·)).flatMap fun b =>
    (ws.filter fun w => w.covers b).map fun w => (b, w.node, node)
  let x := s.ord.ag agent
  let new := new.filter fun e => !(x.floor.any fun f => f.1 == e.1 && f.2.1 == e.2.1)
  { s with ord := s.ord.setAg agent { x with floor := new ++ x.floor } }

/-! ### Atomics (R254, R255) -/

/-- The place an atomic performs, as a chain: the issuing core's L1 or pod, a slice, or the home slice (R148); `home` says that
a cluster- or die-scope atomic of the core performs at the line's home slice (DEDUCED, log 17). -/
def chainOf (sc core key : Nat) (home : Bool) : Nat :=
  let line := key / 128
  if sc ≤ 1 then 4 * (line * 512 + core)
  else if sc ≤ 3 then (if home then 4 * (line * 512) + 1 else 4 * (line * 512 + core) + 2)
  else 4 * (line * 512) + 1

/-- The writes outside its chain that atomics of a chain have returned: the chain has passed them, so that a lock word's free
value is taken once, relaxed or not (R255, R259) (DEDUCED, log 17). -/
def passed (s : State) (chain : Nat) : List Nat :=
  (s.ord.writes.filter fun w => w.chain == some chain && w.done).flatMap (·.took)

/-- The newest write of a chain that has performed on a byte. -/
def chainPred (s : State) (chain k : Nat) : Option WriteRec :=
  s.ord.writes.find? fun w => w.chain == some chain && w.done && w.covers k

/-- The choices an atomic has for its old value: for each byte what the chain has left there, so that a 64-bit atomic finds both of
two 32-bit ones on its halves (R254), or candidates outside the chain that happen before none of its predecessors; an acquiring
atomic passes over what R253 rules out. The write performed last comes first (DEDUCED, log 17). -/
def atomicCands (s : State) (node agent : Nat) (b : ByteRef) (n : Nat) (place : Place) (acq : Option Nat) (chain : Nat)
    (ch : Nat) : List (Nat × Cand) :=
  let bs := (List.range n).map fun i => (⟨b.key + i, b.va + i⟩ : ByteRef)
  let preds := (bs.filterMap fun x => chainPred s chain x.key).map (·.node)
  let gone := passed s chain
  let cs := bs.map fun x =>
    let c := (candidates s node agent x place acq).filter fun d => match d with
      | some w => w.chain != some chain && !(preds.any fun p => (s.ord.beforeAt x p).testBit w.node) && !gone.contains w.node
      | none => (chainPred s chain x.key).isNone
    let own := (chainPred s chain x.key).filter fun p => !(s.ord.beforeAll x (floorOf s node agent x.key place acq)).testBit p.node
    ((s.ord.writes.filter fun w => (w.done && own.any fun p => p.node == w.node) ||
      c.any fun d => candNode d == some w.node).map some) ++ c.filter fun d => d.isNone
  let cs := List.zipWith (fun x c => if c.isEmpty then candidates s node agent x place acq else c) bs cs
  let ks := bs.map (·.key)
  List.zip ks (chooseGranule ks cs .all ch).1

/-! ### Fences (R147, R157, R158, R256) -/

/-- A fence of an agent: an event; a release is published by later stores, an acquire takes what earlier loads returned, and
a sequentially consistent one joins the order of its instance (DEDUCED, log 15). -/
def fenceAgent (o : Ord) (agent : Nat) (place : Place) (sc : Nat) (acq rel seq : Bool) (obj : Option (Nat × Nat)) :
    Nat × Ord :=
  let (n, o) := o.event agent []
  let x := o.ag agent
  let inst := instKey sc place
  let o := if seq then
      match o.sc.find? fun i => i.key == inst with
      | some i =>
        let o := o.addPred n i.node
        o.setAg agent { o.ag agent with obs := ((o.ag agent).obs ++ i.obs).eraseDups }
      | none => o
    else o
  let o := if acq then x.pend.foldl (fun o p => acquire o n obj (pairs (pairs p.rel p.sc place) sc place)) o else o
  let x := o.ag agent
  let o := if rel then o.setAg agent { x with relF := ⟨n, sc, place, obj⟩ :: x.relF } else o
  (n, o)

/-- After a sequentially consistent fence by some agents: the instance's order ends with it (R256) (DEDUCED, log 15). -/
def scNote (o : Ord) (agents : List (Nat × Nat)) (inst : Nat × Nat) : Ord :=
  let (n, o) := o.newNode (agents.map (·.2))
  let obs := agents.flatMap fun a => (o.ag a.1).obs ++
    (o.writes.filter fun w => w.agent == a.1).flatMap fun w => (List.range w.bytes.length).map fun i => (w.addr + i, w.node)
  let old := (o.sc.find? fun i => i.key == inst)
  let obs := (obs ++ (match old with | some i => i.obs | none => [])).eraseDups
  { o with sc := ⟨inst, n, obs⟩ :: o.sc.filter fun i => i.key != inst }

end Sys2Proof.Machine
end

