-- ==== Sys2Proof/Machine/Trap.lean ====
section
/-! DEFINITION. Taking a fault (R58, R145, R308 to R313, R338): the record, the routing, the entry to a handler, the report to
the resident OS; and leaving a handler (R110, R312). One operation for every instruction. -/
set_option linter.all false
namespace Sys2Proof.Machine

/-- A fault as an instruction raises it: class and flag codes of R308, the address or value for XREC6 (`va`: a virtual
address, whose upper bits go to EAMID and EAHI), the lanes for XREC7 where the fault names them, and the recorded PC where
it is not the instruction's. -/
structure FaultInfo where
  cause : Nat
  flag : Nat
  ea : Nat
  va : Bool
  mask : Option Lanes
  pc : Option DWord
  deriving DecidableEq, Repr

/-- A fault with no address. -/
def flt (cause flag : Nat) : FaultInfo := ⟨cause, flag, 0, false, none, none⟩
/-- A fault on a value for XREC6. -/
def fltV (cause flag ea : Nat) : FaultInfo := ⟨cause, flag, ea, false, none, none⟩
/-- A fault on a virtual address. -/
def fltA (cause flag ea : Nat) : FaultInfo := ⟨cause, flag, ea, true, none, none⟩
/-- A fault on data addresses of lanes (R145). -/
def fltL (cause flag ea : Nat) (va : Bool) (m : Lanes) : FaultInfo := ⟨cause, flag, ea, va, some m, none⟩

/-- Whether the launch's handler may receive a class and flag (R308). -/
def handlerOk (cause flag : Nat) : Bool :=
  match cause with
  | 6 => flag != 1 && flag != 6
  | 9 => flag == 0
  | 10 => false
  | 11 => flag < 3
  | _ => true

/-- The point records of the kernel a launch runs (R104) (DEDUCED, log 89). -/
def State.points (s : State) (l : Launch) : List PointTab :=
  match l.kernel with
  | none => []
  | some k => match s.kernels.find? fun x => x.asid == l.asid && x.index == k with
    | some x => x.points
    | none => []

/-- A point's address in an encoding. -/
def pointAddr (l : Launch) (p : PointTab) (rad : Bool) : DWord :=
  BitVec.ofNat 64 (l.codeBase rad + if rad then p.radish else p.marrow)

/-- The role in whose text a group passes point n at an address: that of the record which gives the address, which is another role's
where a branch has led the group there (R58, R102); else the group's own (DEDUCED, log 58). -/
def State.pointRole (s : State) (g : Group) (n : BitVec 16) (pc : DWord) : Nat :=
  let l := s.launchOf g
  (((s.points l).find? fun p => p.point == n.toNat && pointAddr l p (s.radOf g) == pc).map (·.role)).getD g.role

/-- The address in the other encoding of the point that the group passed, by the role in whose text it did; zero when it has none
(R58) (DEDUCED, log 58). -/
def State.otherAddr (s : State) (l : Launch) (role : Nat) (n : BitVec 16) (rad : Bool) : DWord :=
  if n = 0xFFFF then 0
  else match (s.points l).find? fun p => p.point == n.toNat && p.role == role with
    | some p => pointAddr l p (!rad)
    | none => 0

/-- XREC0 to XREC7 (R310) (DEDUCED, log 58). -/
def mkXrec (f : FaultInfo) (pc : DWord) (point : BitVec 16) (rad nest stream : Bool) (other : DWord) (mask : Lanes) :
    List (Nat × Word) :=
  let mid := if f.va then bits f.ea 32 16 else 0
  let hi := if f.va then bits f.ea 48 9 else 0
  let b (x : Bool) : Nat := if x then 1 else 0
  let rs : List Nat := [f.cause + 256 * f.flag + 2 ^ 16 * mid, (pc.extractLsb' 0 32).toNat, (pc.extractLsb' 32 32).toNat,
    point.toNat + 2 ^ 16 * b rad + 2 ^ 17 * b nest + 2 ^ 18 * b stream + 2 ^ 19 * hi,
    (other.extractLsb' 0 32).toNat, (other.extractLsb' 32 32).toNat, f.ea % 2 ^ 32, mask.toNat]
  (rs.zipIdx).foldl (fun (l : List (Nat × Word)) p => aset 0 p.2 (BitVec.ofNat 32 p.1) l) []

/-- Writes a report to the fault report queue, or holds it while 255 are unconsumed (R338). -/
def State.report (s : State) (r : Report) : State :=
  if s.repHead - s.repTail = 255 || !s.repHeld.isEmpty then { s with repHeld := s.repHeld ++ [r] }
  else { s with repMem := aput s.repHead.toNat r s.repMem, repHead := s.repHead + 1, irqs := s.irqs + 1 }

/-- The PC a fault of a fragment records: its LIT's when it is a literal's consumer (R67). -/
def Frag.faultPc (f : Frag) : DWord := match f.lit with | some l => l.pc | none => f.pc

/-- Accesses held at parked lines have not performed: as a fault takes the group their fragments are to issue them again (R311). -/
def Group.dropHeld (g : Group) : Group :=
  { g with held := [], frags := g.frags.map fun p => match p.2.wait with
      | .locate _ => (p.1, { p.2 with wait := .run })
      | _ => p }

/-- A fault of a group's fragment is taken (R309 to R313): the registers of R310 and XPC, XEM, XMODE are written at once;
it goes to the launch's handler where R309 allows, and else the group is suspended and the report goes to the resident OS
(DEDUCED, log 94). -/
def takeFault (s : State) (gid fid : Nat) (fi : FaultInfo) (mask : Lanes) : State :=
  let g := s.grp gid
  let f := g.frag fid
  let l := s.launchOf g
  let rad := s.radOf g
  let pc := fi.pc.getD f.faultPc
  let xr := mkXrec fi pc g.lastEqp rad g.inh false (s.otherAddr l g.eqpRole g.lastEqp rad) (fi.mask.getD mask)
  let g := { g.drainSfu.dropHeld with xrec := xr, xpc := pc, xem := f.em, xmode := g.mode }
  match l.handler rad with
  | some h =>
    if !g.inh && handlerOk fi.cause fi.flag then
      s.setGrp gid ({ g with inh := true, mode := 0x20, hctx := some (fid, f.stack, g.joins) }.setFrag fid
        { f with pc := h, lit := none, wait := .run, replay := none, age := 0, promoted := false, did := f.did + 1 })
    else osFault s gid fid f g l xr pc
  | none => osFault s gid fid f g l xr pc
where
  /-- The group is suspended until the resident OS resumes or ends it (R313). -/
  osFault (s : State) (gid fid : Nat) (f : Frag) (g : Group) (l : Launch) (xr : List (Nat × Word)) (pc : DWord) : State :=
    (s.setGrp gid ({ g with susp := some fid }.setFrag fid
      { f with lit := none, wait := .run, did := f.did + 1 })).report
      ⟨l.asid, s.coreOf g, g.idx, (s.team g.team).launch, pc, f.em, g.xmode, xr, s.time⟩

/-- A fault of a matrix stream suspends the stream alone, empties its latch and goes to the resident OS (R185, R194, R309,
R310). -/
def takeStreamFault (s : State) (tid : Nat) (fi : FaultInfo) : State :=
  let x := s.str tid
  let t := s.team tid
  let l := s.launch t.launch
  let pc := fi.pc.getD (match x.lit with | some l => l.pc | none => x.pc)
  let xr := mkXrec fi pc 0xFFFF false false true 0 0
  (s.setStr tid { x with susp := true, xpc := pc, xrec := xr, lit := none, latch := none, wait := .run }).report
    ⟨l.asid, t.core, 0xFF, t.launch, pc, 0, x.xmode, xr, s.time⟩

/-- Resumes a fragment at XPC under XEM and XMODE (R110, R312). After a locate fault of a store or atomic, a replay serves
the lanes XREC7 names only; `pc` is XPC, or the address past its instruction. -/
def Group.xret (g : Group) (fid : Nat) (pc : DWord) (replay : Option Lanes) : Group :=
  { g with inh := false, mode := g.xmode, hctx := none, susp := none }.modFrag fid fun f =>
    { f with em := g.xem, pc := pc, replay := replay, wait := .run, lit := none, age := 0, promoted := false, did := f.did + 1 }

end Sys2Proof.Machine
end

