-- ==== Sys2Proof/Machine/Issue.lean ====
section
/-! DEFINITION. Issue: the checks a word passes before it acts, in the order of R75 (with R77 for a Radish word as step 6),
then hazard and poison; and what retiring, waiting and faulting do to the fragment. -/
set_option linter.all false
namespace Sys2Proof.Machine

/-- A register an instruction names: file 0 v or 1 s, its first number, how many words it spans, whether it is read. -/
structure Use where
  file : Nat
  num : Nat
  n : Nat
  rd : Bool
  deriving DecidableEq, Repr

/-- Where an instruction takes its immediate or byte offset from (R23, R66, R78). -/
inductive Imm where
  | none
  | val (v : DWord)
  | byte (b : BitVec 8)
  | off
  | rad (r : RImm)
  deriving DecidableEq, Repr

/-- What issue must know of an instruction: opcode, MODE of a Radish word, whether its fields are well formed, whether its
class takes the guard (R21), the registers it names and the types it accepts (by type code), and its immediate. -/
structure Info where
  op : Nat
  rad : Option (BitVec 13)
  wf : Bool
  guarded : Bool
  uses : Nat → List Use
  /-- the types accepted, by the immediate: REDU and SCAN take fewer for some (R139) -/
  types : DWord → Nat → Bool
  imm : Imm
  /-- the immediate is 64 bits wide under this type (R66) -/
  wide : Nat → Bool
  /-- the range its entry gives the immediate (R73) -/
  immOk : DWord → Bool
  /-- further words that belong to it: table words -/
  extra : Nat

/-- A class that takes no guard and no type, with no immediate. -/
def Info.plain (op : Nat) (rad : Option (BitVec 13)) (wf : Bool) (uses : List Use) : Info :=
  ⟨op, rad, wf, false, fun _ => uses, fun _ _ => true, .none, fun _ => false, fun _ => true, 0⟩

/-- A class with guard and type (R21). -/
def Info.vec (op : Nat) (rad : Option (BitVec 13)) (wf : Bool) (uses : Nat → List Use) (types : Nat → Bool) : Info :=
  ⟨op, rad, wf, true, uses, fun _ => types, .none, fun _ => false, fun _ => true, 0⟩

/-- The executing fragment as a meaning sees it: `act` is Lanes() of R59, `em` its execution mask, `pc` the address of the
instruction's word, `len` its bytes. -/
structure Ctx where
  gid : Nat
  fid : Nat
  rad : Bool
  mode : Word
  em : Lanes
  act : Lanes
  imm : DWord
  /-- a literal supplied the immediate; whether it is the 64-bit form -/
  lit : Bool
  wideLit : Bool
  pc : DWord
  len : Nat
  replay : Option Lanes
  wait : Wait
  deriving DecidableEq, Repr

def Ctx.ty (c : Ctx) : Nat := modeType c.mode

/-- What a meaning does: complete, go elsewhere, arrange the fragments itself, go on as part of its consumer (LIT), wait at
issue, or fault. -/
inductive Act where
  | done (s : State)
  | jump (s : State) (pc : DWord)
  | stay (s : State)
  | same (s : State)
  | wait (s : State) (w : Wait)
  | fault (s : State) (f : FaultInfo)

/-- The opcodes a role may issue (R37): 0 copy, 1 vector. -/
def roleAllows (kind op : Nat) : Bool :=
  op ≤ 0x25 || (0x50 ≤ op && op ≤ 0x5F) || (0xCB ≤ op && op ≤ 0xCF) || op == 0xFF ||
    (if kind = 0 then (0xC8 ≤ op && op ≤ 0xCA) || op == 0xD6
     else (0x30 ≤ op && op ≤ 0x4F) || (0x60 ≤ op && op ≤ 0x76) || (0x80 ≤ op && op ≤ 0x88) ||
       (0x90 ≤ op && op ≤ 0x99) || (0xA0 ≤ op && op ≤ 0xBE) || (0xC0 ≤ op && op ≤ 0xC4) ||
       (0xD0 ≤ op && op ≤ 0xD5))

/-- The opcodes a matrix stream may issue (R37, R184). -/
def streamAllows (op : Nat) : Bool :=
  (0xE0 ≤ op && op ≤ 0xEC) || op == 0x00 || op == 0x13 || op == 0xD3 || op == 0xD4 || op == 0x1B || op == 0xFF

/-- The immediate of an instruction: from a LIT, from its own field, or from the Radish word (R66, R78). -/
def immOf (i : Imm) (l : Option Lit) : DWord :=
  match i with
  | .none => 0
  | .val v => v
  | .byte b => match l with
    | some x => if x.wide then x.val else (x.val.extractLsb' 0 32).signExtend 64
    | none => b.signExtend 64
  | .off => match l with
    | some x => (x.val.extractLsb' 0 32).signExtend 64
    | none => 0
  | .rad r => match r.lit with
    | some v => v
    | none => r.imm.signExtend 64

/-- A Radish literal of a 32-bit consumer whose high half is not the sign of its low half (R78). -/
def litMisuse (i : Info) (ty : Nat) : Bool :=
  match i.imm with
  | .rad r => match r.lit with
    | some v => !i.wide ty && v != (v.extractLsb' 0 32).signExtend 64
    | none => false
  | _ => false

/-- The bytes of an instruction (R60, R76, R78): its word, table words, and in Radish its literal word. -/
def Info.len (i : Info) : Nat :=
  let lit := match i.imm with | .rad r => if r.lit.isSome then 8 else 0 | _ => 0
  if i.rad.isSome then 8 + 8 * i.extra + lit else 4 + 4 * i.extra

/-- The words a use spans. -/
def Use.regs (u : Use) : List Nat := (List.range u.n).map (u.num + ·)

/-- A use whose number is not a multiple of the words it spans: an odd pair (R39), or UNPK's run of four (R131). -/
def Use.odd (u : Use) : Bool := u.n > 1 && u.num % u.n != 0

/-- A pair that runs past its file. -/
def Use.past (u : Use) : Bool := u.num + u.n > (if u.file = 0 then 256 else 64)

/-- The first pending register an instruction names, in the order of its uses, the destination first (R48): the one of several
that XREC6 names (DESIGN CHOICE, log 106). -/
def pendingUse (g : Group) (us : List Use) : Option (Nat × Nat) :=
  (us.flatMap fun u => u.regs.map fun r => (u.file, r)).find? fun p => g.isPend p.1 p.2

/-- An instruction reads a poisoned register (R318), in a lane it executes. -/
def poisonedUse (g : Group) (us : List Use) (act : Lanes) : Bool :=
  us.any fun u => u.rd && u.regs.any fun r =>
    if u.file = 0 then (g.vPois r &&& act) != 0 else g.spois.contains r

/-- The MODE an instruction runs under: the group's, or its Radish word's (R43, R77). -/
def Info.mode (i : Info) (g : Group) : Word := match i.rad with | some w => w.zeroExtend 32 | none => g.mode

/-- The checks of R75 before MODE is loaded (DEDUCED, log 59). -/
def precheck (s : State) (g : Group) (f : Frag) (i : Info) : Option FaultInfo :=
  let mode := i.mode g
  let ty := modeType mode
  let us := i.uses ty
  if !roleAllows (s.kindOf g) i.op then some (flt 3 0)
  else if litMisuse i ty then some (flt 1 3)
  else if !i.wf || us.any Use.odd || us.any Use.past || !i.immOk (immOf i.imm f.lit) then some (flt 1 1)
  else if us.any fun u => u.file == 0 && u.num + u.n > g.allot then some (flt 1 2)
  else if i.rad.isSome && !modeLegal mode then some (flt 2 0)
  else none

/-- Queued special-function results are interlocked: they land before an instruction that names their register (R48). -/
def Group.interlock (g : Group) (us : List Use) : Group :=
  if g.sfu.any fun r => us.any fun u => u.file == 0 && (u.regs.contains r.reg || (r.hi.isSome && u.regs.contains (r.reg + 1)))
  then g.drainSfu else g

/-- The fault of the fetch of an instruction's further words, which waits for R75's checks of its first word (R75, R77). -/
def lateFault (g : Group) : Option FaultInfo :=
  g.late.map fun e => { fltA e.1 e.2.1 e.2.2.1 with mask := some e.2.2.2 }

/-- The checks after MODE is loaded: the type (R74), the fetch of further words, then hazard, and poison as the interlocked
results leave it (R48, R75, R318). -/
def postcheck (g : Group) (i : Info) (act : Lanes) (imm : DWord) : Option FaultInfo :=
  let ty := modeType (i.mode g)
  if !i.types imm ty then some (flt 2 1)
  else match lateFault g with
    | some e => some e
    | none => match pendingUse g (i.uses ty) with
      | some p => some (fltV 4 0 (p.2 + 256 * p.1))
      | none => if poisonedUse (g.interlock (i.uses ty)) (i.uses ty) act then some (flt 15 0) else none

/-- The group after an instruction has retired (R112), whatever it did to its fragments. -/
def Group.retire (g : Group) : Group := { g with retired := g.retired + 1 }

/-- The fragment goes on at pc. -/
def Group.goto (g : Group) (fid : Nat) (pc : DWord) : Group :=
  { g with held := adel fid g.held }.modFrag fid fun f =>
    { f with pc := pc, lit := none, wait := .run, replay := none, age := 0, promoted := false, did := f.did + 1 }

/-- The fragment has gone further, where it still is: an access it issued before no longer faults precisely (R308). -/
def Group.passOn (g : Group) (fid : Nat) : Group :=
  { g with frags := g.frags.map fun p => if p.1 = fid then (p.1, { p.2 with did := p.2.did + 1 }) else p }

/-- The fragment waits at issue (DESIGN CHOICE, log 9). -/
def Group.await (g : Group) (fid : Nat) (w : Wait) : Group := g.modFrag fid fun f => { f with wait := w }

/-- Ends an instruction by what its meaning did. -/
def finish (c : Ctx) (mask : Lanes) : Act → State
  | .done s => s.modGrp c.gid fun g => g.retire.goto c.fid (c.pc + BitVec.ofNat 64 c.len)
  | .jump s pc => s.modGrp c.gid fun g => g.retire.goto c.fid pc
  | .stay s => s.modGrp c.gid fun g => g.retire.passOn c.fid
  | .same s => s
  | .wait s w => s.modGrp c.gid fun g => g.await c.fid w
  | .fault s f => takeFault s c.gid c.fid f mask

/-- The context in which a fragment runs an instruction. -/
def mkCtx (gid fid : Nat) (g : Group) (f : Frag) (i : Info) : Ctx :=
  let mode := i.mode g
  { gid := gid
    fid := fid
    rad := i.rad.isSome
    mode := mode
    em := f.em
    act := if i.guarded then activeMask g mode f.em else f.em
    imm := immOf i.imm f.lit
    lit := match i.imm with | .rad r => r.lit.isSome | .byte _ => f.lit.isSome | .off => f.lit.isSome | _ => false
    wideLit := match i.imm with | .rad r => r.lit.isSome | .byte _ => (f.lit.map (·.wide)).getD false | _ => false
    pc := f.pc
    len := i.len
    replay := f.replay
    wait := f.wait }

/-- The state in which a checked instruction's meaning runs: MODE loaded (R77), interlocked results landed (R48). An EQP is
the last executed instruction until the next one enters; a MIGR still reads it (R102). -/
def enter (s : State) (gid : Nat) (i : Info) : State :=
  s.modGrp gid fun g =>
    let g := { g with mode := i.mode g, justEqp := if i.op = 0x18 then g.justEqp else none }
    g.interlock (i.uses (modeType g.mode))

/-- A fragment issues an instruction (DEDUCED, log 59). -/
def issueFrag (s : State) (gid fid : Nat) (i : Info) (body : Ctx → State → Act) : State :=
  let g := s.grp gid
  match afind fid g.frags with
  | none => s
  | some f =>
    let c := mkCtx gid fid g f i
    match precheck s g f i with
    | some e => takeFault s gid fid e c.act
    | none =>
      match postcheck g i c.act c.imm with
      | some e => takeFault (enter s gid i) gid fid e c.act
      | none => finish c c.act (body c (enter s gid i))

/-- An instruction of the general map issues: by a fragment; a matrix stream may not (R37). -/
def issue (s : State) (i : Info) (body : Ctx → State → Act) : Host.Outcome State Fault Refusal :=
  match s.cur with
  | some (.frag gid fid) => .next (issueFrag s gid fid i body)
  | some (.stream tid) => .next (takeStreamFault s tid (flt 3 0))
  | none => .next s

/-- What a stream instruction does (R183 to R186). -/
inductive SAct where
  | done (s : State)
  | stay (s : State)
  | wait (s : State) (w : Wait)
  | fault (f : FaultInfo)

/-- Ends a stream instruction. -/
def finishStream (tid : Nat) : SAct → State → State
  | .done s, _ => let x := s.str tid
    s.setStr tid { x with pc := x.pc + 4, lit := none, wait := .run }
  | .stay s, _ => s
  | .wait s w, _ => s.setStr tid { s.str tid with wait := w }
  | .fault f, s => takeStreamFault s tid f

/-- An instruction that a matrix stream may issue as well (R184): `sbody` is its meaning there, `swf` its fields there. -/
def issueBoth (s : State) (i : Info) (swf : Bool) (body : Ctx → State → Act) (sbody : Nat → State → SAct) :
    Host.Outcome State Fault Refusal :=
  match s.cur with
  | some (.frag gid fid) => .next (issueFrag s gid fid i body)
  | some (.stream tid) =>
    .next (if i.rad.isSome then takeStreamFault s tid (flt 3 0)
      else if !swf then takeStreamFault s tid (flt 1 1)
      else finishStream tid (sbody tid s) s)
  | none => .next s

/-- A matrix opcode: a group that issues one takes the role fault (R37). -/
def issueMatrix (s : State) (wf : Bool) (allot : Nat → Bool) (sbody : Nat → State → SAct) :
    Host.Outcome State Fault Refusal :=
  match s.cur with
  | some (.frag gid fid) => .next (takeFault s gid fid (flt 3 0) ((s.grp gid).frag fid).em)
  | some (.stream tid) =>
    .next (if !wf then takeStreamFault s tid (flt 1 1)
      else if !allot (s.str tid).tiles then takeStreamFault s tid (flt 1 2)
      else finishStream tid (sbody tid s) s)
  | none => .next s

end Sys2Proof.Machine
end

