-- ==== Sys2Proof/Machine/Park.lean ====
section
/-! DEFINITION. Reader sets and parked lines (R152 to R154, R161, R225, R234 to R241), and coherence objects as they place
lines (R226 to R229). -/
set_option linter.all false
namespace Sys2Proof.Machine

/-! ### Clusters as descriptors name them -/

/-- The resident cluster of a number: cluster numbers are unique among the resident ones (R277). -/
def State.clusterNo (s : State) (n : Nat) : Option (Nat × Cluster) :=
  s.clusters.find? fun c => c.2.number == n && s.teams.any fun t => t.2.resident && t.2.cluster == c.1

/-- The resident cluster that a descriptor of a launch names (R152). -/
def State.clusterIn (s : State) (lch n : Nat) : Option (Nat × Cluster) :=
  match s.clusterNo n with
  | some c => if c.2.launch = lch then some c else none
  | none => none

def clusterW (s : State) (c : Cluster) : Nat := (s.launch c.launch).w
def clusterSize (s : State) (c : Cluster) : Nat := (s.launch c.launch).w * (s.launch c.launch).h

/-- The core of member j of a cluster's rectangle: column offset j mod w, row offset j / w (R35). -/
def memberCore (s : State) (c : Cluster) (j : Nat) : Nat :=
  let w := max 1 (clusterW s c)
  c.base + 8 * (j / w) + j % w

/-- The member index of a core in a cluster. -/
def memberOf (s : State) (c : Cluster) (core : Nat) : Option Nat :=
  (List.range (clusterSize s c)).find? fun j => memberCore s c j == core

/-- The cluster that holds a team on a core, of a context. -/
def clusterOn (s : State) (core asid : Nat) : Option (Nat × Cluster) :=
  match s.teams.find? fun t => t.2.resident && t.2.core == core && (s.launch t.2.launch).asid == asid with
  | some t => (afind t.2.cluster s.clusters).map fun c => (t.2.cluster, c)
  | none => none

/-! ### Descriptors (R152) -/

def descKind (d : Word) : Nat := bits d.toNat 29 3
def descCore (d : Word) : Nat := bits d.toNat 0 8
def descCl (d : Word) : Nat := bits d.toNat 16 12
def descMask (d : Word) : Nat := bits d.toNat 0 12
def descA (d : Word) : Nat := bits d.toNat 12 12
def descB (d : Word) : Nat := bits d.toNat 0 12
def descTwo (d : Word) : Bool := bits d.toNat 24 1 == 1
def descDies (d : Word) : Nat := bits d.toNat 0 4

/-- SRSET's check: a reserved kind, a bit the kind does not use, an empty mask, a member beyond the resident cluster, a
core id above 255 (R152) (DEDUCED, log 47). -/
def descOk (s : State) (lch : Nat) (d : Word) : Bool :=
  let n := d.toNat
  match descKind d with
  | 0 => n == 0
  | 1 => bits n 8 21 == 0
  | 2 => bits n 28 1 == 0 && bits n 12 4 == 0 && descMask d != 0 &&
      (match s.clusterIn lch (descCl d) with
       | some c => descMask d < 2 ^ clusterSize s c.2
       | none => true)
  | 3 => bits n 25 4 == 0
  | 4 => bits n 4 25 == 0 && descDies d != 0
  | _ => false

/-- Every cluster a descriptor of a launch names is resident. -/
def descResident (s : State) (lch : Nat) (d : Word) : Bool :=
  match descKind d with
  | 2 => (s.clusterIn lch (descCl d)).isSome
  | 3 => (s.clusterIn lch (descA d)).isSome && (!descTwo d || (s.clusterIn lch (descB d)).isSome)
  | _ => true

/-- Whether a core is in a set. -/
def inSet (s : State) (d : Word) (core : Nat) : Bool :=
  let inCl (n : Nat) : Bool := match s.clusterNo n with | some c => (memberOf s c.2 core).isSome | none => false
  match descKind d with
  | 1 => descCore d == core
  | 2 => match s.clusterNo (descCl d) with
    | some c => match memberOf s c.2 core with | some j => Nat.testBit (descMask d) j | none => false
    | none => false
  | 3 => inCl (descA d) || (descTwo d && inCl (descB d))
  | 4 => Nat.testBit (descDies d) (dieOf core)
  | _ => true

/-! ### Objects -/

/-- The parts of [a, a + n) within each unit of u bytes: where each starts and its length. -/
def partsOf (u a n : Nat) : List (Nat × Nat) :=
  if n = 0 then []
  else (List.range ((a + n - 1) / u - a / u + 1)).map fun i =>
    let lo := max a ((a / u + i) * u)
    (lo, min (a + n) ((a / u + i) * u + u) - lo)

/-- The lane-private regions of the resident groups: context, first address and bytes (R221). -/
def State.privRegions (s : State) : List (Nat × Nat × Nat) :=
  (s.groups.filter fun p => p.2.live && (s.team p.2.team).resident && (s.launchOf p.2).private_ != 0).map fun p =>
    (s.asidOf p.2, p.2.pb.toNat, 32 * (s.launchOf p.2).private_)

/-- An address of a context in a resident group's lane-private region, which no object holds (R222). -/
def State.privAt (s : State) (asid va : Nat) : Bool :=
  s.privRegions.any fun r => r.1 == asid && r.2.1 ≤ va && va < r.2.1 + r.2.2

/-- A byte of a resident group's lane-private region, by whichever address it is reached: its line is never parked (R222). -/
def State.privKey (s : State) (key : Nat) : Bool :=
  s.privRegions.any fun r => (partsOf 65536 r.2.1 r.2.2).any fun p =>
    match walk s r.1 p.1 with
    | .leaf e level =>
      let k := devKey (if bits e 48 2 = 0 then bits e 56 8 else s.self) (bits e 16 32 * 2 ^ 16 + p.1 % 2 ^ leafBits level)
      bits e 15 1 == 1 && k / 128 ≤ key / 128 && key < k + p.2
    | _ => false

/-- The object of a context that holds an address (R228). -/
def State.objAt (s : State) (asid va : Nat) : Option (Nat × Obj) :=
  if s.privAt asid va then none
  else s.objs.find? fun o => o.2.asid == asid && o.2.base ≤ va && va < o.2.base + o.2.foot

/-- The object's home-die offset and owner die (R163). -/
def Obj.off (o : Obj) : Nat := bits (field o.shape 11 1) 0 2
def Obj.owner (o : Obj) : Nat := bits (field o.shape 11 1) 2 2

/-- Extent, stride and tile of dimension k of a shape record (R163). -/
def shExt (r : List Byte) (k : Nat) : Nat := field r (16 + 4 * k) 4
def shStride (r : List Byte) (k : Nat) : Nat := field r (48 + 8 * k) 8
def shTile (r : List Byte) (k : Nat) : Nat := field r (112 + 2 * k) 2

/-- The element index of a linear index. -/
def elemOf (r : List Byte) : Nat → Nat → List Nat
  | 0, _ => []
  | n + 1, i =>
    let k := field r 9 1 - (n + 1)
    (i % max 1 (shExt r k)) :: elemOf r n (i / max 1 (shExt r k))

/-- Byte offset of an element. -/
def elemOff (r : List Byte) (ix : List Nat) : Nat := ((ix.zipIdx).map fun p => p.1 * shStride r p.2).sum

def shElems (r : List Byte) : Nat := ((List.range (field r 9 1)).map (shExt r)).foldl (· * ·) 1

/-- The first element in linear order whose bytes overlap a line at an offset of the object (R226). -/
def firstElem (r : List Byte) (lineOff : Nat) : Option (List Nat) :=
  let e := 2 ^ field r 8 1
  ((List.range (shElems r)).map (elemOf r (field r 9 1))).find? fun ix =>
    decide (elemOff r ix < lineOff + 128) && decide (lineOff < elemOff r ix + e)

/-- u of R226, by Horner's rule over the higher tile coordinates. -/
def foldU (ts : List (Nat × Nat)) : Nat := ts.foldr (fun p acc => p.1 + p.2 * acc) 0

/-- Home die and site of a line inside an object (R226); a line that overlaps no element is placed by R224. -/
def objHome (o : Obj) (va key : Nat) : Nat × Nat :=
  let r := o.shape
  match firstElem r (va / 128 * 128 - o.base) with
  | none => (homeDie key, homeSite key)
  | some ix =>
    let t (k : Nat) : Nat := ix.getD k 0 / max 1 (shTile r k)
    let tt (k : Nat) : Nat := (shExt r k + shTile r k - 1) / max 1 (shTile r k)
    let u := foldU (((List.range (field r 9 1)).drop 1).map fun k => (t k, tt k))
    (if o.state = 2 then o.owner else (t 0 / 8 + u / 8 + o.off) % 4, t 0 % 8 + 8 * (u % 8))

/-- Home die and site of a line as the context's objects place it (R224, R226). -/
def homeAt (s : State) (asid va key : Nat) : Nat × Nat :=
  match s.objAt asid va with
  | some o => objHome o.2 va key
  | none => (homeDie key, homeSite key)

/-- Its home slice. -/
def homeSliceAt (s : State) (asid va key : Nat) : Nat := 64 * (homeAt s asid va key).1 + (homeAt s asid va key).2

/-! ### Parked lines -/

def State.parkOf (s : State) (key : Nat) : Option Park := s.parks.find? fun p => p.line == key / 128

/-- Demotes a line to home, unparked. -/
def State.unpark (s : State) (line : Nat) : State := { s with parks := s.parks.filter fun p => p.line != line }

/-- The cluster-pod slice of a line for a cluster (R234). -/
def podSlice (s : State) (c : Cluster) (line : Nat) : Nat :=
  let l := line % 2 ^ 41
  let x := Nat.xor (Nat.xor l (l / 2 ^ 11)) (Nat.xor (l / 2 ^ 22) (l / 2 ^ 33)) % 2 ^ 11
  256 + memberCore s c (x % max 1 (clusterSize s c))

/-- The die slice of a line on a die, by the line's home slice (R225). -/
def dieSlice (home die : Nat) : Nat := 256 + 64 * die + home % 64

/-- The levels of a set from the one that Park chooses down to home memory, with the pod or slices that hold the line at each
(R152, R153, R236); `home` is the line's home slice. -/
def parkPath (s : State) (line asid home : Nat) (d : Word) : List (Nat × List Nat) :=
  let dieOfCl (n : Nat) : List Nat := match s.clusterNo n with | some c => [dieOf c.2.base] | none => []
  let dies (l : List Nat) : List (Nat × List Nat) := [(2, l.eraseDups.map (dieSlice home))]
  match descKind d with
  | 1 => (if (s.core (descCore d)).carve = 0 then [] else [(0, [descCore d])]) ++
      (match clusterOn s (descCore d) asid with | some c => [(1, [podSlice s c.2 line])] | none => []) ++ dies [dieOf (descCore d)]
  | 2 => (match s.clusterNo (descCl d) with | some c => [(1, [podSlice s c.2 line])] | none => []) ++ dies (dieOfCl (descCl d))
  | 3 => dies (dieOfCl (descA d) ++ if descTwo d then dieOfCl (descB d) else [])
  | 4 => dies ((List.range 4).filter fun x => Nat.testBit (descDies d) x)
  | _ => []

/-- Capacity of a structure in parked lines: a pod by its carve-out, a slice's array of 12,288 lines (R7, R235). -/
def placeCap (s : State) (k : Nat) : Nat := if k < 256 then (s.core k).carve * 256 else 12288

/-- The oldest parked line of a structure: lines are kept newest first. -/
def oldestAt (s : State) (k : Nat) : Option Park := (s.parks.filter fun p => p.places.contains k).getLast?

/-- Reader-set descriptors in use in a slice (R235). -/
def setsAt (s : State) (k : Nat) : List Word :=
  ((s.parks.filter fun p => p.places.contains k).map (·.desc)).eraseDups

/-- Lines parked away from a home slice: its directory's entries (R235). -/
def dirOf (s : State) (slice : Nat) : List Park :=
  s.parks.filter fun p => p.home == slice && p.places.any fun k => k != 256 + slice

/-- Moves a parked line one level down, or home (R236); the time it was last parked is kept (DEDUCED, log 53). -/
def demoteLine (s : State) (line : Nat) : State :=
  { s with parks := s.parks.filterMap fun p =>
      if p.line = line then (if p.path.length ≤ 1 then none else some { p with path := p.path.tail }) else some p }

/-- A structure that is over its capacity, with the lines to demote: a full pod or array or directory its oldest line, a
full reader-set table every line of the oldest line's descriptor (R236). -/
def overfull (s : State) : Option (List Nat) :=
  let ks := (s.parks.flatMap (·.places)).eraseDups
  match ks.find? fun k => (s.parks.filter fun p => p.places.contains k).length > placeCap s k with
  | some k => (oldestAt s k).map fun p => [p.line]
  | none =>
    match ks.find? fun k => k ≥ 256 && (setsAt s k).length > 64 with
    | some k => (oldestAt s k).map fun p =>
        (s.parks.filter fun q => q.desc == p.desc && q.places.contains k).map (·.line)
    | none =>
      match (s.parks.map (·.home)).eraseDups.find? fun h => (dirOf s h).length > 4096 with
      | some h => (dirOf s h).getLast?.map fun p => [p.line]
      | none => none

/-- Demotes until no structure is over its capacity; each pass moves some line down (DEDUCED, log 53). -/
def settleParks (s : State) : Nat → State
  | 0 => s
  | n + 1 => match overfull s with
    | none => s
    | some ls => settleParks (ls.foldl demoteLine s) n

/-- Parks a line for a set: the newest parked line at its level, its home memory as it was (R152, R153). -/
def parkLine (s : State) (va key asid : Nat) (d : Word) : State :=
  let line := key / 128
  let home := homeSliceAt s asid va key
  let below := match s.parkOf key with | some p => p.below | none => mread s.mem (line * 128) 128
  let s := s.unpark line
  let path := parkPath s line asid home d
  let s := if path.isEmpty then s else { s with parks := ⟨line, asid, d, path, home, below⟩ :: s.parks }
  settleParks s (3 * s.parks.length)

/-- What home memory holds of a byte: a parked line is written there only when it goes home (R238, R264). -/
def State.homeByte (s : State) (key : Nat) : Byte :=
  match s.parkOf key with
  | some p => p.below.getD (key % 128) 0
  | none => s.byte key

/-- A team of a context is resident on a core. -/
def coreHas (s : State) (core asid : Nat) : Bool :=
  s.teams.any fun t => t.2.resident && t.2.core == core && (s.launch t.2.launch).asid == asid
def coreUsed (s : State) (core : Nat) : Bool := s.teams.any fun t => t.2.resident && t.2.core == core

/-- An STN acts as an ordinary store to home (R153); `park` is the page's attribute. -/
def stnOrdinary (s : State) (asid lch : Nat) (d : Word) (key : Nat) (park : Bool) : Bool :=
  descKind d == 0 || s.privKey key || !park || !descResident s lch d || (descKind d == 1 && !coreHas s (descCore d) asid)

/-- Such an STN under kind 001 that names a core where only another context's team is resident sets PXC (R44, R153)
(DEDUCED, log 52). -/
def stnPxc (s : State) (asid : Nat) (d : Word) : Bool :=
  descKind d == 1 && !coreHas s (descCore d) asid && coreUsed s (descCore d)

/-- An access reaches a parked line from outside its set (R154, R241); another context's request demotes it (R239). -/
def excluded (s : State) (key core asid : Nat) : Bool :=
  match s.parkOf key with
  | some p => p.asid == asid && !inSet s p.desc core && !s.privKey key
  | none => false

/-- A request from another context demotes the line to home (R239). -/
def crossDemote (s : State) (key asid : Nat) : State :=
  match s.parkOf key with
  | some p => if p.asid != asid then s.unpark p.line else s
  | none => s

/-- Places the line of an STN: at Park, from home where another context had it (R239), or demoted to home where it acts as an ordinary
store (R153). -/
def stnPlace (s : State) (va key asid : Nat) (d : Word) (ordinary : Bool) : State :=
  if ordinary then s.unpark (key / 128) else parkLine (crossDemote s key asid) va key asid d

/-- What a read of n bytes by the device for a context leaves: another context's parked lines go home (R239), the translation is kept
(R298) and Shallot counts a read that it refuses (R306). `i` tells accesses apart as in `translate`. -/
def State.noteRead (s : State) (asid va n i : Nat) : State :=
  match translate s asid va .read i with
  | .ok key leaf level =>
    let s := (partsOf 128 key n).foldl (fun (s : State) (p : Nat × Nat) => crossDemote s p.1 asid) s
    noteTlb (refuseAll s asid [key]) asid va leaf level
  | _ => s

/-- The latency class in which a core of a cluster finds a parked line along its lookup path: pod 0, cluster pod 1, die slice 2;
where every level of the path misses, the home slice's directory forwards the request: 3 (R234, R237). -/
def hitClass (s : State) (p : Park) (core cl : Nat) : Nat :=
  let pod := match afind cl s.clusters with | some c => p.places.contains (podSlice s c p.line) | none => false
  if p.places.contains core then 0
  else if pod then 1
  else if p.places.contains (dieSlice p.home (dieOf core)) then 2
  else 3

/-- A hit of a declared reader, on a core and in a cluster, is counted in its latency class (R237). -/
def countHit (s : State) (key core cl asid : Nat) : State :=
  match s.parkOf key with
  | some p =>
    if p.asid = asid ∧ inSet s p.desc core then
      let k := hitClass s p core cl
      let c := s.core core
      { s with cores := aput core { c with hits := aset 0 k (aget 0 k c.hits + 1) c.hits } s.cores }
    else s
  | none => s

/-- The set LOCATE of a core's group in a cluster widens to (R161); none where it names a cluster no longer resident. -/
def widen (s : State) (d : Word) (core cl : Nat) : Option Word :=
  let w (n : Nat) : Word := BitVec.ofNat 32 n
  let dieBit (c : Nat) : Nat := 2 ^ dieOf c
  let dies (l : List Nat) : Nat := l.foldl (fun a c => Nat.lor a (dieBit c)) 0
  let mine := (afind cl s.clusters).map fun c => (cl, c)
  match descKind d with
  | 1 =>
    let c' := descCore d
    match mine with
    | some k => match memberOf s k.2 c', memberOf s k.2 core with
      | some i, some j => some (w (2 * 2 ^ 29 + k.2.number * 2 ^ 16 + Nat.lor (2 ^ i) (2 ^ j)))
      | _, _ => some (w (4 * 2 ^ 29 + dies [c', core]))
    | none => some (w (4 * 2 ^ 29 + dies [c', core]))
  | 2 =>
    match s.clusterNo (descCl d), mine with
    | some k, some m =>
      if k.1 = m.1 then match memberOf s k.2 core with
        | some j => some (d ||| w (2 ^ j))
        | none => none
      else some (w (3 * 2 ^ 29 + 2 ^ 24 + descCl d * 2 ^ 12 + m.2.number))
    | _, _ => none
  | 3 =>
    let cl (n : Nat) : List Nat := match s.clusterNo n with | some c => [c.2.base] | none => []
    if (s.clusterNo (descA d)).isSome && (!descTwo d || (s.clusterNo (descB d)).isSome) then
      some (w (4 * 2 ^ 29 + dies (cl (descA d) ++ (if descTwo d then cl (descB d) else []) ++ [core])))
    else none
  | 4 => some (d ||| w (dieBit core))
  | _ => some d

/-- LOCATE on one line (R161); another context's request demotes it (R239). -/
def locateLine (s : State) (va key core asid cl : Nat) : State :=
  match s.parkOf key with
  | none => s
  | some p =>
    if p.asid ≠ asid then s.unpark p.line
    else if inSet s p.desc core then s
    else match widen s p.desc core cl with
      | some d => parkLine s va key asid d
      | none => s.unpark p.line

/-- A store to a line of a Shared object from another die than the object's home die (R149, R228); parked lines are not
governed by the state. -/
def sharedFault (s : State) (asid va key core : Nat) : Bool :=
  match s.objAt asid va with
  | some o => o.2.state == 1 && dieOf core != o.2.off && (s.parkOf key).isNone
  | none => false

end Sys2Proof.Machine
end

