-- ==== Sys2Proof/Machine/Barrier.lean ====
section
/-! DEFINITION. Hardware barriers (R97 to R100), batches of copies (R95), the end of groups, teams and launches (R106), and
when a waiting fragment is ready (R281). -/
set_option linter.all false
namespace Sys2Proof.Machine

/-! ### Events of several lanes (R99, R246) -/

/-- One event of some lanes of a group and of its local-store order: later accesses of each follow earlier ones of all. `more`
orders what it orders in memory, `wmore` in the window (R220). -/
def lanesEvent (s : State) (gid : Nat) (ls more wmore : List Nat) : Nat × State :=
  let o := s.ord
  let ags := ls.map (laneAgent gid)
  let ps := ags.filterMap fun a => (o.ag a).at_
  let (n, o) := o.newNode2 (ps ++ more) ((o.ag (lsAgent gid)).at_.toList ++ wmore)
  (n, { s with ord := (lsAgent gid :: ags).foldl (fun o a => o.setAg a { o.ag a with at_ := some n }) o })

/-- An event of every lane of a group. -/
def groupEvent (s : State) (gid : Nat) (more : List Nat) : Nat × State := lanesEvent s gid lanes more more

/-- The lanes whose program order an instruction of a fragment stands in, masked ones as well (R93, R246) (DEDUCED, log 16). -/
def Ctx.own (c : Ctx) (s : State) : Lanes := (s.grp c.gid).fragMask c.fid

/-- An event of the fragment that executes an instruction: lanes of other fragments follow no program order of it (R246). -/
def fragEvent (c : Ctx) (s : State) (more : List Nat) : Nat × State := lanesEvent s c.gid (lanesOf (c.own s)) more more

/-- A device-scope release or acquire by every lane of a group, as a FENCE of the whole group makes it: the ones a migration and
a pre-emption carry (R103, R245, R315). -/
def groupFence (s : State) (gid : Nat) (acq rel : Bool) : State :=
  let s := (groupEvent s gid []).2
  let pl := s.placeOf gid
  { s with ord := lanes.foldl (fun o l => (fenceAgent o (laneAgent gid l) pl 4 acq rel false none).2) s.ord }

/-! ### Barrier instances -/

/-- A member's name in an instance: the group's id, or the stream of a team. -/
def streamMember (tid : Nat) : Nat := 2 ^ 40 + tid

/-- The instance tb, kb or gb i of a team (R97). -/
def State.bar (s : State) (tid cls i : Nat) : Bar :=
  let t := s.team tid
  match cls with
  | 0 => aget Bar.empty i t.tb
  | 1 => aget Bar.empty i (s.cluster t.cluster).kb
  | _ => aget Bar.empty i (s.launch t.launch).gb

def State.setBar (s : State) (tid cls i : Nat) (b : Bar) : State :=
  let t := s.team tid
  match cls with
  | 0 => s.setTeam tid { t with tb := aput i b t.tb }
  | 1 => let c := s.cluster t.cluster; s.setCluster t.cluster { c with kb := aput i b c.kb }
  | _ => let l := s.launch t.launch; s.setLaunch t.launch { l with gb := aput i b l.gb }

/-- Exited members that count in the current phase and hold no pending arrival in it (R98). -/
def Bar.uncounted (b : Bar) : Nat :=
  (b.gone.filter fun m => !(b.pend.any fun p => p == (m.1, b.phase))).length

/-- ARRIVED reaches EXPECT: the phase completes, its arrivals' events become those its returns acquire, and pending
arrivals in it are consumed (R98, R99). A phase that its exited members alone fill completes as the next member comes to it
(DEDUCED, log 37). -/
def barAdvance (s : State) (b : Bar) : State × Bar :=
  if b.expect ≤ b.arrived + b.uncounted then
    let (n, o) := s.ord.newNode (b.arr ++ b.gone.map (·.2))
    ({ s with ord := o },
     { b with phase := b.phase + 1, arrived := 0, arr := [], rels := (b.phase, n) :: b.rels,
              pend := b.pend.filter fun p => p.2 != b.phase })
  else (s, b)

/-- A member arrives in the current phase with an event that releases (R98, R99). -/
def barArrive (s : State) (tid cls i member node : Nat) : State :=
  let b := s.bar tid cls i
  let b := { b with arrived := b.arrived + 1, arr := node :: b.arr,
                    pend := (member, b.phase) :: b.pend.filter fun p => p.1 != member }
  let (s, b) := barAdvance s b
  s.setBar tid cls i b

/-- An exited member starts to count in the current and every later phase (R98) (DEDUCED, log 37). -/
def barLeave (s : State) (tid cls i member node : Nat) : State :=
  let b := s.bar tid cls i
  let (s, b) := barAdvance s { b with gone := (member, node) :: b.gone }
  s.setBar tid cls i b

/-- A member comes to the current phase without arriving: the phase completes if it is full (R98) (DEDUCED, log 37). -/
def barLook (s : State) (tid cls i : Nat) : State :=
  let (s, b) := barAdvance s (s.bar tid cls i)
  s.setBar tid cls i b

/-- A member has a pending arrival in the current phase. -/
def Bar.pendNow (b : Bar) (m : Nat) : Bool := b.pend.any fun p => p == (m, b.phase)

/-- The register of an instance: EXPECT, ARRIVED with the exited members that count, PHASE (R97). -/
def Bar.word (b : Bar) : Word :=
  if b.members.isEmpty then 0
  else BitVec.ofNat 32 (b.expect % 2 ^ 14 + (b.arrived + b.uncounted) % 2 ^ 14 * 2 ^ 14 + b.phase % 16 * 2 ^ 28)

/-- Every instance a member of a team belongs to: 16 tb, 8 kb, 4 gb. -/
def allBars : List (Nat × Nat) :=
  (List.range 16).map (fun i => (0, i)) ++ (List.range 8).map (fun i => (1, i)) ++ (List.range 4).map (fun i => (2, i))

/-- The return of BAR or BARW from phase p acquires every arrival of it, for memory and for the window, whatever the barrier's class
(R99) (DEDUCED, log 16). -/
def barReturn (s : State) (gid tid cls i p : Nat) : State :=
  match (s.bar tid cls i).rels.find? fun r => r.1 == p with
  | some r => (groupEvent s gid [r.2]).2
  | none => s

/-! ### Copies and batches (R95) -/

/-- The copies a group has issued that have not ended. -/
def State.copiesOf (s : State) (gid : Nat) : List (Nat × Copy) :=
  s.copies.filter fun c => c.2.gid == gid && !c.2.ended

/-- CBD advances over batches whose copies have all ended, in order; at most 16 are closed. -/
def advanceCbd (s : State) (gid : Nat) : Nat → State
  | 0 => s
  | n + 1 =>
    let g := s.grp gid
    if g.cbd = g.cb then s
    else if (s.copiesOf gid).any fun c => c.2.batch == some (g.cbd + 1) then s
    else advanceCbd (s.setGrp gid { g with cbd := g.cbd + 1 }) gid n

/-- Closes the open batch: CB rises and the open copies belong to it (R95). -/
def closeBatch (s : State) (gid : Nat) : State :=
  let g := s.grp gid
  let n := g.cb + 1
  let s := s.setGrp gid { g with cb := n, opn := false }
  let s := { s with copies := s.copies.map fun c =>
    if c.2.gid = gid ∧ c.2.batch = none then (c.1, { c.2 with batch := some n }) else c }
  advanceCbd s gid 16

/-! ### Join records (R52) -/

/-- The chain from a record to the outermost. -/
def chainOfJoin (js : List (Nat × Join)) : Nat → Option Nat → List Nat
  | 0, _ => []
  | _, none => []
  | n + 1, some j => j :: (match afind j js with | some r => chainOfJoin js n r.parent | none => [])

/-- The records a fragment is under. -/
def Group.chain (g : Group) (f : Frag) : List Nat := chainOfJoin g.joins 9 f.inner

/-- When every fragment created under record j waits at its JOIN, they fuse (R52); `word` is the length of the JOIN. -/
def tryFuse (g : Group) (j word : Nat) : Group :=
  match afind j g.joins with
  | none => g
  | some r =>
    let under := g.frags.filter fun p => (g.chain p.2).contains j
    match under with
    | [] => { g with joins := adel j g.joins }
    | (k, _) :: _ =>
      if under.all fun p => p.2.wait == .join j then
        let em := under.foldl (fun m p => m ||| p.2.em) 0
        let f : Frag := ⟨em, r.target + BitVec.ofNat 64 word, r.stack, r.parent, .run, 0, false, none, none, (g.frag k).did + 1⟩
        { g with joins := adel j g.joins
                 frags := aput k f (g.frags.filter fun p => !(under.any fun q => q.1 == p.1)) }
      else g

/-- After a fragment has exited: its lanes count as arrived at every record that waited for them (R53). -/
def fuseAll (g : Group) (word : Nat) : Group := (g.joins.map (·.1)).reverse.foldl (fun g j => tryFuse g j word) g

/-! ### The end of groups, teams and launches (R106) -/

/-- A launch completes when every team has ended: its time-triggered entry's RUN returns to 0 (R280), calls that wait for it return 0. -/
def endLaunch (s : State) (lid : Nat) : State :=
  let l := s.launch lid
  let s := match l.tt with
    | some e => { s with tt := aput e { aget TtEnt.empty e s.tt with run := false } s.tt }
    | none => s
  let mine := s.waitCalls.filter fun w => w.launch == lid
  let s := mine.foldl (fun s w => s.answer w.who 0) s
  { s with launches := adel lid s.launches, waitCalls := s.waitCalls.filter fun w => w.launch != lid }

/-- Clusters a launch has in all. -/
def Launch.clusters (l : Launch) : Nat := l.fld 56 2 * l.fld 58 2 * l.fld 60 2

/-- A team that has not ended: resident, or halted or saved by a pre-emption (R314, R315). -/
def Team.alive (t : Team) : Bool := t.resident || t.preempt ≥ 2

/-- A team ends when every group and its stream have retired; with it the cluster's number, and the launch after its last; nothing
clears its window (R268, R289) (DEDUCED, log 36). -/
def settleTeam (s : State) (tid : Nat) : State :=
  let t := s.team tid
  if !t.alive then s
  else if t.groups.any fun g => (s.grp g).live then s
  else if (t.stream.map (·.live)).getD false then s
  else
    let s := s.setTeam tid { t with resident := false, preempt := 0, stream := none }
    let s := { s with migq := s.migq.filter fun m => m.team != tid }
    if s.teams.any fun x => x.2.alive && x.2.cluster == t.cluster then s
    else
      let s := { s with clusters := adel t.cluster s.clusters }
      let l := s.launch t.launch
      let s := s.setLaunch t.launch { l with ended := l.ended + 1 }
      let l := s.launch t.launch
      if l.ended = l.placed ∧ (l.placed = l.clusters ∨ l.ending) then endLaunch s t.launch else s

/-! ### Lane-private lines (R46, R222) -/

/-- Takes writes back that have performed: each of their bytes is again what the other writes left. -/
def unwrite (s : State) (p : WriteRec → Bool) : State :=
  let gone := s.ord.writes.filter fun w => w.done && p w
  let ks := (gone.flatMap fun w => (List.range w.bytes.length).map (w.addr + ·)).eraseDups
  let init := ks.map fun k => (k, s.initByte k)
  let fix (w : WriteRec) : WriteRec := { w with old := w.old.zipIdx.map fun b => (init.lookup (w.addr + b.2)).getD b.1 }
  let ws := (s.ord.writes.filter fun w => !(w.done && p w)).map fix
  let s := { s with ord := { s.ord with writes := ws } }
  init.foldl (fun s x => s.pokes x.1 [match ws.find? fun w => w.done && w.covers x.1 with
    | some w => w.byteAt x.1
    | none => x.2]) s

/-- A group exits: its lane-private lines are dropped without write-back, each that its L1 still held back, which of them the
device chooses (R46, R106, assumption 4). -/
def dropPriv (s : State) (gid : Nat) : State :=
  let mine (w : WriteRec) : Bool := w.priv && w.place.group == gid
  if s.ord.writes.any mine then
    { unwrite s fun w => mine w && Config.free s.fresh 6 (w.addr / 128) % 2 == 1 with fresh := s.fresh + 1 }
  else s

/-- Migration and pre-emption write a group's lane-private lines back (R46, R57). -/
def flushPriv (s : State) (gid : Nat) : State :=
  setWrites s fun w => if w.place.group = gid then { w with priv := false } else w

/-- An exited group counts at its barriers once its stores are acknowledged, and frees its slot once its copies have
completed as well, and its atomics in flight have performed; its lane-private lines are gone then (R98, R106)
(DEDUCED, log 36). -/
def settleGroup (s : State) (gid : Nat) : State :=
  let g := s.grp gid
  if !(g.live && g.exited) || !g.stores.isEmpty then s
  else
    let (n, s) := groupEvent s gid []
    let s := allBars.foldl (fun s p =>
      let b := s.bar g.team p.1 p.2
      if b.members.contains gid && !(b.gone.any fun m => m.1 == gid) then barLeave s g.team p.1 p.2 gid n else s) s
    if (s.copiesOf gid).isEmpty && g.loads.isEmpty then
      settleTeam ((dropPriv s gid).modGrp gid fun g => { g with live := false }) g.team
    else s

/-- Groups of a team that have not exited. -/
def State.liveGroups (s : State) (tid : Nat) : List Nat :=
  (s.team tid).groups.filter fun g => (s.grp g).live && !(s.grp g).exited

/-- The priority class of a team: the smallest of its groups that have not exited (DEDUCED, log 40). -/
def teamClass (s : State) (tid : Nat) : Nat := (s.liveGroups tid).foldl (fun m g => min m (s.grp g).prio) 3

/-- A team of which some group waits at MIGR and every other that has not exited as well enters the migration queue, once
(R102, R283) (DEDUCED, log 40). -/
def migSettle (s : State) (tid : Nat) : State :=
  match (s.team tid).migr with
  | none => s
  | some m =>
    let gs := s.liveGroups tid
    if gs.isEmpty || !(gs.all m.2.2.contains) || s.migq.any fun e => e.team == tid then s
    else { s with migq := s.migq ++ [⟨tid, m.1, m.2.1, teamClass s tid, s.time, false, none⟩] }

/-- What a retiring group leaves of its load queue: an atomic on its way performs, and its result is discarded (R106). -/
def LoadOp.orphan (op : LoadOp) : Option LoadOp :=
  match op.kind with | .atomic _ => some { op with dst := none } | _ => none

/-- The group retires: pending load results are discarded, open copies form one final batch (R106), and the
rest of its team may now all stand at MIGR (R102). -/
def retireGroup (s : State) (gid : Nat) : State :=
  let s := s.modGrp gid fun g => { g with
    exited := true, loads := g.loads.filterMap LoadOp.orphan, pend := [], sfu := [], frags := [], joins := [] }
  let s := migSettle s (s.grp gid).team
  settleGroup (if (s.grp gid).opn then closeBatch s gid else s) gid

/-! ### Byte barriers and rings as waits see them (R176, R179) -/

/-- Fields of the byte barrier at a window offset: EXPECTED, ARRIVED, GEN, flags (STALE 1, INVAL 2, OVER 4, SHORT 8),
WAITERS. -/
structure BB where
  exp : Nat
  arr : Nat
  gen : Nat
  fl : Nat
  waiters : Nat
  deriving DecidableEq, Repr

def State.bb (s : State) (tid off : Nat) : BB :=
  let v := s.win tid off 16
  ⟨bits v 0 32, bits v 32 32, bits v 64 16, bits v 80 4, bits v 96 32⟩

/-- A generation that releases its waiters: complete, or INVAL, SHORT or OVER (R177). -/
def BB.over (b : BB) : Bool := b.arr == b.exp || b.fl / 2 % 8 != 0

/-- Fields of the ring descriptor at a window offset (R179). -/
structure Ring where
  base : Nat
  sbytes : Nat
  slots : Nat
  closed : Bool
  fault : Bool
  rsv : Nat
  head : Nat
  tail : Nat
  pubs : Nat
  dones : Nat
  rsv2 : Nat
  phase : Nat
  deriving DecidableEq, Repr

def State.ring (s : State) (tid off : Nat) : Ring :=
  let v := s.win tid off 32
  ⟨bits v 0 32, bits v 32 32, bits v 64 8, bits v 72 1 == 1, bits v 73 1 == 1, bits v 74 6, bits v 80 8, bits v 88 8,
    bits v 96 32, bits v 128 32, bits v 160 32, bits v 192 64⟩

def Ring.slot (r : Ring) (j : Nat) : Nat := r.base + j * r.sbytes

/-- STATE of slot j: 0 free, 1 acquired, 2 full, 3 taken. -/
def State.slotState (s : State) (tid : Nat) (r : Ring) (j : Nat) : Nat := bits (s.win tid (r.slot j) 16) 40 2

/-- Whether the atomic unit can serve an RTAKE (`take`) or RACQ of a ring now (R180). -/
def ringServes (s : State) (tid off : Nat) (take : Bool) : Bool :=
  let r := s.ring tid off
  if take then s.slotState tid r r.tail == 2 || (r.closed && s.slotState tid r r.tail == 0)
  else r.closed || s.slotState tid r r.head == 0

/-- Fragments of a team that wait on a ring: whether RTAKE, and their order of arrival. -/
def ringWaiters (s : State) (tid off : Nat) : List (Bool × Nat) :=
  ((s.groups.filter fun p => p.2.team == tid && p.2.live).flatMap fun p => p.2.frags.filterMap fun f =>
    match f.2.wait with | .ring o t n => if o = off then some (t, n) else none | _ => none) ++
  (match (s.str tid).wait with | .ring o t n => if o = off ∧ (s.str tid).live then [(t, n)] else [] | _ => [])

/-- No other fragment arrived earlier for the same kind of service. -/
def ringFirst (s : State) (tid off : Nat) (take : Bool) (n : Nat) : Bool :=
  !((ringWaiters s tid off).any fun w => w.1 == take && w.2 < n)

/-- A scale FIFO of a team's stream holds 16 batches (R182). -/
def fifoFull (s : State) (tid : Nat) (sb : Bool) : Bool :=
  (if sb then (s.str tid).sb else (s.str tid).sa).length ≥ 16

/-- A scale copy of the group to a FIFO has not ended: a later batch of the group waits for it (R182). -/
def scaleBusy (s : State) (gid : Nat) (sb : Bool) : Bool :=
  (s.copiesOf gid).any fun c => match c.2.scale with | some x => x.1 == sb | none => false

/-! ### Readiness (R281) -/

/-- An acquire of a group is outstanding, its own or a fence's: later accesses perform after it (R147). A ring's result acquires
as it returns (R181). -/
def Group.acquiring (g : Group) : Bool :=
  g.loads.any fun op => !op.acqFences.isEmpty ||
    (match op.kind with | .result _ => false | _ => op.ord == 1 || op.ord == 3)

/-- What a record that an instruction reads at issue waits for in its own group: acquires, atomics and reductions (R147, R250). -/
def Group.recordBusy (g : Group) : Bool :=
  g.acquiring || (g.loads.any fun op => match op.kind with | .atomic _ => true | _ => false) ||
    g.stores.any fun op => match op.kind with | .red _ => true | _ => false

def collapseIs (asid va : Nat) (c : Collapse) : Bool := c.asid == asid && c.tile == va / 65536

/-- A collapse of the tile of an address is under way: not every holder has answered (R304). -/
def State.collapsing (s : State) (asid va : Nat) : Bool := s.collapses.any (collapseIs asid va)

/-- Whether what a fragment waits for has come; a wait the device ends by a step of its own stays until that step. -/
def waitOver (s : State) (gid : Nat) (f : Frag) : Bool :=
  let g := s.grp gid
  match f.wait with
  | .run => true
  | .ctr a b c d => g.ldc ≤ a && g.stc ≤ b && g.tlc ≤ c && g.lagN ≤ d
  | .batch n => g.lagN ≤ (g.cb - n).toNat
  | .lag => g.lagN < 15
  | .full 0 => g.ldc < 63
  | .full 1 => g.stc < 63
  | .full _ => g.tlc < 15
  | .stores => g.stores.isEmpty
  | .copies => g.stores.isEmpty && (s.copiesOf gid).isEmpty
  | .phase cls i p => p < (s.bar g.team cls i).phase
  | .nextPhase cls i p => p < (s.bar g.team cls i).phase
  | .release => g.loads.isEmpty && g.stores.isEmpty
  | .acquire => !g.recordBusy
  | .engine => (s.copies.filter fun c => c.2.core == s.coreOf g && !c.2.ended).length < 256
  | .fifo sb => !fifoFull s g.team sb && !scaleBusy s gid sb
  | .queue q => (s.queue q).pending.length < 64
  | .sfu => g.sfu.length < 16
  | .object => g.obj.isNone
  | .bbar off gen rel => rel.isSome || (s.bb g.team off).gen != gen || (s.bb g.team off).over
  | .ring off take n => g.ldc < 63 && ringServes s g.team off take && ringFirst s g.team off take n
  | .closed => g.ldc < 63
  | .join _ => false
  | .snooze _ _ => false
  | .yield _ _ => false
  | .migr _ _ => false
  | .locate k => match afind k g.held with
    | some h => h.keys.any fun x => !excluded s x (s.coreOf g) (s.asidOf g)
    | none => true
  | .matrix => true
  | .scales => true
  | .collapse asid ls => !(ls.any fun l => s.collapsing asid l.2 || match walk s asid l.2 with
    | .leaf e _ => bits e 48 2 == 1 || bits e 48 2 == 2
    | _ => false)

/-- A stream that may issue its next instruction (R198). -/
def streamReady (s : State) (tid : Nat) : Bool :=
  let t := s.team tid
  let x := t.str
  t.resident && t.stream.isSome && x.live && !x.susp && !x.halted &&
    (match x.wait with
     | .phase cls i p => p < (s.bar tid cls i).phase
     | .nextPhase cls i p => p < (s.bar tid cls i).phase
     | .ring off take n => ringServes s tid off take && ringFirst s tid off take n
     | .matrix => !x.busy
     | .scales => !x.sa.isEmpty && !x.sb.isEmpty
     | _ => true)

/-- A fragment of a resident, running group may issue: while a handler runs, only the handler's fragment (R311); while the object
table answers the group, none (R163, R164). -/
def runnable (s : State) (gid fid : Nat) : Bool :=
  let g := s.grp gid
  g.live && !g.exited && !g.halted && g.susp.isNone && g.obj.isNone && (s.team g.team).resident &&
    (match g.hctx with | some h => !g.inh || h.1 == fid | none => true)

/-- A ready fragment (R281). -/
def ready (s : State) (gid fid : Nat) : Bool :=
  match afind fid (s.grp gid).frags with
  | none => false
  | some f => runnable s gid fid && waitOver s gid f

/-- Every fragment of a core's resident groups that is ready. -/
def readyOn (s : State) (core : Nat) : List (Nat × Nat) :=
  (s.groups.filter fun p => (s.team p.2.team).core == core).flatMap fun p =>
    (p.2.frags.filter fun f => ready s p.1 f.1).map fun f => (p.1, f.1)

end Sys2Proof.Machine
end

