-- ==== Sys2Proof/Machine/Operands.lean ====
section
/-! DEFINITION. Operands under the type in force (R39, R72, R113): widths, how a value stands in a register, reading and
writing lanes, clamping and wrapping (Sat of R59), and the type sets instructions accept. -/
set_option linter.all false
namespace Sys2Proof.Machine

/-- The 64-bit type codes (R72). -/
def is64 (ty : Nat) : Bool := ty == 5 || ty == 6 || ty == 7

/-- Access width in bytes of a type code (R72, R144). -/
def widthOf (ty : Nat) : Nat :=
  match ty with
  | 3 | 4 | 8 | 9 => 2
  | 5 | 6 | 7 => 8
  | 10 | 11 | 12 | 13 | 14 => 1
  | _ => 4

/-- How a value of a type stands in a register: sign-extended for s16, s8 and si8, else zero-extended (R113, R151). -/
def regOfMem (ty v : Nat) : Nat :=
  if ty = 8 then (BitVec.ofNat 16 v).signExtend 32 |>.toNat
  else if ty = 10 ∨ ty = 14 then (BitVec.ofNat 8 v).signExtend 32 |>.toNat
  else v

/-- Words a value of a type takes in registers (R113). -/
def regsOf (ty : Nat) : Nat := if is64 ty then 2 else 1

/-- The value a lane stores from register d under a type (R113). -/
def storeVal (g : Group) (ty : Nat) (d l : Nat) : Nat :=
  if is64 ty then (g.vl64 d l).toNat else (g.vl d l).toNat % 2 ^ (8 * widthOf ty)

/-- An integer clamped to a narrow type under saturation, else wrapped (R59 Sat); `x` is read signed for s types. -/
def satNarrow (ty : Nat) (sat : Bool) (x : Word) : Nat :=
  let w := 8 * widthOf ty
  let sg := ty == 8 || ty == 10
  let i : Int := if sg then x.toInt else (x.toNat : Int)
  let lo : Int := if sg then -(2 ^ (w - 1) : Nat) else 0
  let hi : Int := if sg then (2 ^ (w - 1) : Nat) - 1 else (2 ^ w : Nat) - 1
  let i := if sat then max lo (min hi i) else i
  (i % (2 ^ w : Nat)).toNat

/-- The value of an operand of a type in lane l, as a number of its width. -/
def Group.rdT (g : Group) (ty r l : Nat) : Nat := storeVal g ty r l

/-- A lane of a mask holds a poisoned value of a type in register r (R318). -/
def Group.poisAt (g : Group) (ty r : Nat) (m : Lanes) : Bool :=
  (g.vPois r &&& m) != 0 || (is64 ty && (g.vPois (r + 1) &&& m) != 0)

/-- Writes a value of a type in the lanes of a mask (R113). -/
def Group.putT (g : Group) (ty r : Nat) (m : Lanes) (f : Nat → Nat) : Group :=
  if is64 ty then g.putV64 r m fun l => BitVec.ofNat 64 (f l)
  else g.putV r m fun l => BitVec.ofNat 32 (regOfMem ty (f l))

/-- Bits of a type. -/
def wBits (ty : Nat) : Nat := 8 * widthOf ty

/-- A signed integer type (R72). -/
def isSigned (ty : Nat) : Bool := ty == 0 || ty == 6 || ty == 8 || ty == 10

/-- The integer an encoding of a type stands for. -/
def intOf (ty v : Nat) : Int := if isSigned ty then (BitVec.ofNat (wBits ty) v).toInt else ((v % 2 ^ wBits ty : Nat) : Int)

def minOf (ty : Nat) : Int := if isSigned ty then -(2 ^ (wBits ty - 1) : Nat) else 0
def maxOf (ty : Nat) : Int := if isSigned ty then (2 ^ (wBits ty - 1) : Nat) - 1 else (2 ^ wBits ty : Nat) - 1

/-- Clamps an integer to the range of a type. -/
def clampT (ty : Nat) (i : Int) : Int := max (minOf ty) (min (maxOf ty) i)

/-- An integer as its encoding modulo 2^w. -/
def wrapT (ty : Nat) (i : Int) : Nat := (i % (2 ^ wBits ty : Nat)).toNat

/-- Sat(i, t) of R59: clamped when MODE.SAT is 1, else wrapped. -/
def satT (ty : Nat) (sat : Bool) (i : Int) : Nat := wrapT ty (if sat then clampT ty i else i)

/-- The integer types (R115). -/
def intTypes (ty : Nat) : Bool := ty == 0 || ty == 1 || (6 ≤ ty && ty ≤ 11)
/-- The floating types of 0x60–0x6F (R124). -/
def floatTypes (ty : Nat) : Bool := 2 ≤ ty && ty ≤ 5
/-- The special-function unit's types (R128). -/
def sfuTypes (ty : Nat) : Bool := 2 ≤ ty && ty ≤ 4
/-- The cross-lane types (R136). -/
def crossTypes (ty : Nat) : Bool := ty < 12
/-- PACK and UNPK (R131). -/
def packTypes (ty : Nat) : Bool := ty == 3 || ty == 4 || (8 ≤ ty && ty ≤ 11)
def isFloat (ty : Nat) : Bool := 2 ≤ ty && ty ≤ 5

end Sys2Proof.Machine
end

