-- ==== Sys2Proof/Machine/Code.lean ====
section
/-! DEFINITION. Fetching instruction words (R60, R76, R88, R108, R318): translation with the execute permission, poison, and
which of the words written a fetch takes when code is changed without an IFENCE. -/
set_option linter.all false
namespace Sys2Proof.Machine

/-- The agent of a group's instruction fetches: its last event is its last IFENCE (R108). -/
def fetchAgent (gid : Nat) : Nat := 2 ^ 55 + gid

/-- The 32-bit word of code at a key: where the ordering rules leave several words written, each of them whole
whether its store is strong or plain, a free choice (R108, assumption 4) (DEDUCED, log 20). -/
def codeWord (s : State) (agent : Nat) (place : Place) (k va : Nat) : Word :=
  let ks := [k, k + 1, k + 2, k + 3]
  let bs : List Byte :=
    if s.ord.writes.any fun w => ks.any w.covers then
      let n := (s.ord.ag agent).at_.getD s.ord.past.size
      let cs := ks.map fun x => candidates s n agent ⟨x, va + (x - k)⟩ place none
      List.zipWith (fun x c => candByte s x c) ks (chooseGranule ks cs .all (Config.free s.fresh 2 (k / 4))).1
    else ks.map s.peek
  BitVec.ofNat 32 (leNat bs)

/-- Fetches the 32-bit word at an address for an agent of a context (DEDUCED, log 20). -/
def fetchWord (s : State) (agent : Nat) (place : Place) (asid : Nat) (pc : DWord) : Except FaultInfo Word :=
  match translate s asid pc.toNat .fetch 63 with
  | .fault c f => .error (fltA c f pc.toNat)
  | .collapse => .error (fltA 6 5 pc.toNat)
  | .ok k _ _ =>
    if s.linePois k || s.portFailed k then .error (fltA 15 2 pc.toNat)
    else .ok (if s.foreign asid k then 0 else codeWord s agent place k pc.toNat)

/-- What fetching n words from an address leaves: another context's parked line goes home (R239), the translations are kept (R298), and
Shallot counts each word that it refuses (R306). -/
def State.noteWords (s : State) (asid : Nat) (pc : DWord) (n : Nat) : State :=
  (List.range n).foldl (fun s i =>
    let a := (pc + BitVec.ofNat 64 (4 * i)).toNat
    match translate s asid a .fetch 63 with
    | .ok key leaf level => noteTlb (refuseAll (crossDemote s key asid) asid [key]) asid a leaf level
    | _ => s) s

/-- Fetches n words from an address, in order. -/
def fetchWords (s : State) (agent : Nat) (place : Place) (asid : Nat) (pc : DWord) : Nat → Except FaultInfo (List Word)
  | 0 => .ok []
  | n + 1 =>
    match fetchWord s agent place asid pc with
    | .error e => .error e
    | .ok w => (fetchWords s agent place asid (pc + 4) n).map fun r => w :: r

/-- The form I opcodes, whose immediate a LIT may replace (R66, R69). -/
def isFormI (op : Nat) : Bool :=
  op == 0x4D || op == 0x4F || op == 0x5A || op == 0x91 || op == 0x92 || op == 0x93 || op == 0x94 || op == 0x95 ||
    op == 0x96 || op == 0x98

/-- The form M opcodes that accept a literal byte offset (R70). -/
def isFormMLit (op : Nat) : Bool :=
  (0xA0 ≤ op && op ≤ 0xA8) || (0xAA ≤ op && op ≤ 0xB4) || op == 0x4E || op == 0x5B || op == 0xB7 || op == 0xB8 ||
    op == 0xBB || op == 0xBC || op == 0xB9 || op == 0xBA || op == 0xC0 || op == 0xC1 || op == 0xC4

/-- Whether a word is an accepted consumer of a literal under a MODE (R66). -/
def acceptsLit (mode : Word) (wide : Bool) (w : Word) : Bool :=
  let op := opcodeOf w
  if isFormI op then
    fld w 0 8 == 0 && (!wide || op == 0x5A || ((op == 0x4D || op == 0x4F) && is64 (modeType mode)))
  else isFormMLit op && !wide

/-- The length in bytes of the whole instruction at an address: a LIT with its words and consumer, a BRX with its table
(R67, R110). A word that cannot be fetched counts as one word. -/
def wholeLen (s : State) (agent : Nat) (place : Place) (asid : Nat) (rad : Bool) (pc : DWord) : Nat :=
  match fetchWords s agent place asid pc (if rad then 2 else 1) with
  | .ok (w :: r) =>
    if rad then 8 + 8 * radishExtra ((r.headD 0) ++ w)
    else if opcodeOf w = 0xFF then 4 * (2 + marrowExtra w) else 4 + 4 * marrowExtra w
  | _ => if rad then 8 else 4

end Sys2Proof.Machine
end

