-- ==== Sys2Proof/Machine/Control.lean ====
section
/-! DEFINITION. The effects of the control, synchronisation and system instructions (R84 to R112), shared by both encodings. -/
set_option linter.all false
namespace Sys2Proof.Machine

/-- A target: the address of the word that holds the offset, plus the offset in words of the encoding (R60, R76). -/
def target (c : Ctx) (off : DWord) : DWord := c.pc + off * (if c.rad then 8 else 4)

def wordLen (c : Ctx) : Nat := if c.rad then 8 else 4

/-- The address after the instruction. -/
def nextPc (c : Ctx) : DWord := c.pc + BitVec.ofNat 64 c.len

def onGrp (s : State) (c : Ctx) (f : Group → Group) : State := s.modGrp c.gid f

/-! ### Mode (R84) -/

def nopB (_ : Ctx) (s : State) : Act := .done s

/-- SETM and SETMS check the value; MODE keeps its old value on a failed check (R43, R74) (DEDUCED, log 25). -/
def setModeB (v : Word) (c : Ctx) (s : State) : Act :=
  if modeLegal v then .done (onGrp s c fun g => { g with mode := v }) else .fault s (flt 2 0)

def setmB (m : BitVec 13) : Ctx → State → Act := setModeB (m.zeroExtend 32)
def setmsB (k : SReg) (c : Ctx) (s : State) : Act := setModeB ((s.grp c.gid).sreg k.toNat) c s
def getmB (k : SReg) (c : Ctx) (s : State) : Act := .done (onGrp s c fun g => g.putS k.toNat g.mode)

/-! ### Branches (R85 to R90) -/

def braB (c : Ctx) (s : State) : Act := .jump s (target c c.imm)

/-- Places the parts of a divergent branch: the first keeps the fragment, the others are new ones with its predicate stack
and innermost record; none retires elsewhere (R52). -/
def splitInto (g : Group) (fid : Nat) (f : Frag) : List (DWord × Lanes) → Group
  | [] => g
  | p :: r =>
    let mk (q : DWord × Lanes) : Frag := ⟨q.2, q.1, f.stack, f.inner, .run, 0, false, none, none, f.did⟩
    r.foldl (fun g q => { (g.setFrag g.nextId (mk q)) with nextId := g.nextId + 1 }) (g.setFrag fid (mk p))

/-- A branch whose lanes choose the given targets: one moves the fragment whole; more split it, which needs a join record
and room in the split table's 32 entries (R52) (DEDUCED, log 46). -/
def branchTo (parts : List (DWord × Lanes)) (c : Ctx) (s : State) : Act :=
  match parts with
  | [] => .jump s (nextPc c)
  | [p] => .jump s p.1
  | _ =>
    let g := s.grp c.gid
    let f := g.frag c.fid
    if f.inner.isNone then .fault s (flt 12 0)
    else if g.frags.length + g.joins.length + parts.length - 1 > 32 then .fault s (flt 13 0)
    else .stay (s.setGrp c.gid (splitInto g c.fid f parts))

def brdB (p : BitVec 3) (inv : Bool) (c : Ctx) (s : State) : Act :=
  let pr := (s.grp c.gid).preg p.toNat
  let t := c.em &&& (if inv then ~~~pr else pr)
  if t = c.em then .jump s (target c c.imm)
  else if t = 0 then .jump s (nextPc c)
  else branchTo [(target c c.imm, t), (nextPc c, c.em &&& ~~~t)] c s

/-- Lanes grouped by the target they choose, in the order of the lowest lane (DEDUCED, log 46). -/
def groupTargets (f : Nat → DWord) : List Nat → List (DWord × Lanes) → List (DWord × Lanes)
  | [], acc => acc
  | l :: r, acc =>
    let t := f l
    let b : Lanes := 1#32 <<< l
    groupTargets f r (if acc.any fun p => p.1 == t then acc.map fun p => if p.1 = t then (p.1, p.2 ||| b) else p
      else acc ++ [(t, b)])

def brxB (v : VReg) (tbl : List DWord) (c : Ctx) (s : State) : Act :=
  let g := s.grp c.gid
  let tgt (l : Nat) : DWord :=
    match tbl[(g.vl v.toNat l).toNat]? with
    | some o => target c o
    | none => nextPc c
  branchTo (groupTargets tgt (lanesOf c.em) []) c s

def callB (b : BitVec 3) (c : Ctx) (s : State) : Act :=
  .jump (onGrp s c fun g => g.putS64 (2 * b.toNat) (nextPc c)) (target c c.imm)

/-- RET to an address misaligned for its encoding raises the alignment fault at the RET (R88). -/
def retB (b : BitVec 3) (c : Ctx) (s : State) : Act :=
  let a := (s.grp c.gid).sreg64 (2 * b.toNat)
  if a.toNat % wordLen c ≠ 0 then .fault s (fltA 5 0 a.toNat) else .jump s a

def loopB (k : SReg) (c : Ctx) (s : State) : Act :=
  let n := (s.grp c.gid).sreg k.toNat
  let n' := if n = 0 then n else n - 1
  let s' := onGrp s c fun g => g.putS k.toNat n'
  if n' = 0 then .jump s' (nextPc c) else .jump s' (target c c.imm)

/-- CPREF has no architectural effect (R90) (DESIGN CHOICE, log 96). -/
def cprefB (_ : Ctx) (s : State) : Act := .done s

/-! ### Divergence (R51, R52, R91 to R93) -/

/-- MARK: of a full mark stack and a full split table the stack's fault is raised (R52, R91) (DESIGN CHOICE, log 106). -/
def markB (c : Ctx) (s : State) : Act :=
  let g := s.grp c.gid
  let f := g.frag c.fid
  if (g.chain f).length ≥ 8 then .fault s (flt 11 2)
  else if g.frags.length + g.joins.length + 1 > 32 then .fault s (flt 13 0)
  else
    let j := g.nextId
    .done (s.setGrp c.gid ({ g with
      joins := aput j ⟨target c c.imm, 0, f.stack, f.inner⟩ g.joins, nextId := j + 1 }.setFrag c.fid
        { f with inner := some j }))

/-- JOIN at the innermost record's address: the fragment arrives and waits; when all have arrived they fuse (R52)
(DEDUCED, log 45). -/
def joinB (c : Ctx) (s : State) : Act :=
  let g := s.grp c.gid
  let f := g.frag c.fid
  match f.inner with
  | none => .fault s (flt 12 1)
  | some j =>
    match afind j g.joins with
    | none => .fault s (flt 12 1)
    | some r =>
      if r.target ≠ c.pc then .fault s (flt 12 1)
      else
        let g := { g with joins := aput j { r with arrived := r.arrived ||| f.em } g.joins }
        .stay (s.setGrp c.gid (tryFuse (g.setFrag c.fid { f with wait := .join j }) j (wordLen c)))

def ppushB (p : BitVec 3) (c : Ctx) (s : State) : Act :=
  let g := s.grp c.gid
  let f := g.frag c.fid
  if f.stack.length ≥ 8 then .fault s (flt 11 0)
  else .done (s.setGrp c.gid (g.setFrag c.fid { f with stack := f.em :: f.stack, em := f.em &&& g.preg p.toNat }))

def pinvB (c : Ctx) (s : State) : Act :=
  let g := s.grp c.gid
  let f := g.frag c.fid
  match f.stack with
  | [] => .fault s (flt 11 1)
  | t :: _ => .done (s.setGrp c.gid (g.setFrag c.fid { f with em := t &&& ~~~f.em }))

def ppopB (c : Ctx) (s : State) : Act :=
  let g := s.grp c.gid
  let f := g.frag c.fid
  match f.stack with
  | [] => .fault s (flt 11 1)
  | t :: r => .done (s.setGrp c.gid (g.setFrag c.fid { f with em := t, stack := r }))

def emrdB (k : SReg) (c : Ctx) (s : State) : Act := .done (onGrp s c fun g => g.putS k.toNat c.em)

def emwrB (k : SReg) (c : Ctx) (s : State) : Act :=
  let g := s.grp c.gid
  let f := g.frag c.fid
  let v := g.sreg k.toNat
  if v &&& ~~~f.laneSet ≠ 0 then .fault s (flt 1 4)
  else .done (s.setGrp c.gid (g.setFrag c.fid { f with em := v }))

/-! ### Waiting (R94 to R96) -/

def waitcB (a b : BitVec 6) (t d : BitVec 4) (c : Ctx) (s : State) : Act :=
  let g := s.grp c.gid
  if g.ldc ≤ a.toNat ∧ g.stc ≤ b.toNat ∧ g.tlc ≤ t.toNat ∧ g.lagN ≤ d.toNat then .done s
  else .wait s (.ctr a.toNat b.toNat t.toNat d.toNat)

def cbatchB (c : Ctx) (s : State) : Act :=
  if (s.grp c.gid).lagN = 15 then .wait s .lag else .done (closeBatch s c.gid)

/-- The return of a WAITB orders the writes of the copies its batch covers before later accesses, of memory and of the window
(R172) (DEDUCED, log 16). -/
def copyNodes (s : State) (gid : Nat) (p : Copy → Bool) : List Nat :=
  (s.copies.filter fun x => x.2.gid == gid && p x.2).flatMap fun x => x.2.nodes

/-- Batch b is n or an earlier one. -/
def batchCovers (n : BitVec 16) (x : Copy) : Bool :=
  match x.batch with | some b => (n - b).toNat < 2 ^ 15 | none => false

def waitbB (n : BitVec 16) (c : Ctx) (s : State) : Act :=
  let g := s.grp c.gid
  let age := (g.cb - n).toNat
  if age ≥ 2 ^ 15 then .fault s (fltV 4 3 n.toNat)
  else if g.lagN ≤ age then .done (fragEvent c s (copyNodes s c.gid (batchCovers n))).2
  else .wait s (.batch n)

/-- YIELD: not issued again until every other ready fragment of the core has had an opportunity or 64 cycles pass (R96). -/
def yieldB (c : Ctx) (s : State) : Act :=
  .wait s (.yield (s.coreCyc (s.coreOf (s.grp c.gid))) ((readyOn s (s.coreOf (s.grp c.gid))).filter fun p => p != (c.gid, c.fid)))

/-- SNOOZE n: past the instruction, and not issued for at least n cycles; 0 acts as YIELD (R96). -/
def snoozeB (n : BitVec 16) (c : Ctx) (s : State) : Act :=
  if n = 0 then yieldB c s
  else .stay (onGrp s c fun g => (g.goto c.fid (nextPc c)).await c.fid (.snooze (s.coreCyc (s.coreOf (s.grp c.gid))) n.toNat))

/-! ### Hardware barriers (R97 to R100) -/

/-- A group-uniform instruction needs one fragment (R53). -/
def uniform (c : Ctx) (s : State) (k : State → Act) : Act :=
  if (s.grp c.gid).frags.length > 1 then .fault s (flt 12 2) else k s

/-- Arrives at an instance with an event of the whole group and further events. -/
def arriveAs (s : State) (gid tid cls i : Nat) (more : List Nat) : State :=
  let (n, s) := groupEvent s gid more
  barArrive s tid cls i gid n

/-- What BAR, BARA and DRAIN share up to their arrival: membership, the wait for stores (and for a DRAIN the copies), the
wait for the group's own pending arrival (R98, R100); the uniform-instruction fault stands before the role fault
(DESIGN CHOICE, log 106). -/
def arriveB (drain : Bool) (cls : BitVec 2) (i : BitVec 4) (c : Ctx) (s : State) (k : State → Act) : Act :=
  uniform c s fun s =>
    let g := s.grp c.gid
    let b := s.bar g.team cls.toNat i.toNat
    if !b.members.contains c.gid then .fault s (flt 3 1)
    else if !g.stores.isEmpty then .wait s (if drain then .copies else .stores)
    else if drain && !(s.copiesOf c.gid).isEmpty then .wait s .copies
    else if b.pendNow c.gid then .wait s (.nextPhase cls.toNat i.toNat b.phase)
    else k (arriveAs s c.gid g.team cls.toNat i.toNat (if drain then copyNodes s c.gid fun _ => true else []))

/-- Returns from phase p, or waits for it. -/
def awaitPhase (c : Ctx) (s : State) (tid cls i p : Nat) : Act :=
  if p < (s.bar tid cls i).phase then .done (barReturn s c.gid tid cls i p) else .wait s (.phase cls i p)

def barB (cls : BitVec 2) (i : BitVec 4) (c : Ctx) (s : State) : Act :=
  let tid := (s.grp c.gid).team
  match c.wait with
  | .phase k j p => awaitPhase c s tid k j p
  | _ => arriveB false cls i c s fun t => awaitPhase c t tid cls.toNat i.toNat (s.bar tid cls.toNat i.toNat).phase

def baraB (cls : BitVec 2) (i : BitVec 4) (c : Ctx) (s : State) : Act := arriveB false cls i c s fun t => .done t

def drainB (cls : BitVec 2) (i : BitVec 4) (c : Ctx) (s : State) : Act := arriveB true cls i c s fun t => .done t

def barwB (cls : BitVec 2) (i : BitVec 4) (c : Ctx) (s : State) : Act :=
  let tid := (s.grp c.gid).team
  match c.wait with
  | .phase k j p => awaitPhase c s tid k j p
  | _ => uniform c s fun s =>
    let b := s.bar tid cls.toNat i.toNat
    if !b.members.contains c.gid then .fault s (flt 3 1)
    else match b.pend.find? fun p => p.1 == c.gid with
      | some p => awaitPhase c s tid cls.toNat i.toNat p.2
      | none => awaitPhase c (barLook s tid cls.toNat i.toNat) tid cls.toNat i.toNat b.phase

/-! ### Equivalence points, migration, roles (R101, R102, R105) -/

/-- The counter conditions of R55: the first counter that is not zero, by its number (R310) (DEDUCED, log 39). -/
def busyCounter (g : Group) : Option Nat :=
  if g.ldc ≠ 0 then some 0 else if g.stc ≠ 0 then some 1 else if g.tlc ≠ 0 then some 2 else if g.opn then some 3 else none

/-- The group's role has a point record for n (R104) (DEDUCED, log 39). -/
def hasPoint (s : State) (g : Group) (n : BitVec 16) : Bool :=
  (s.points (s.launchOf g)).any fun p => p.point == n.toNat && p.role == g.role

/-- R55's conditions at point n of a group with one fragment. -/
def eqpMeets (s : State) (g : Group) (n : BitVec 16) : Bool := g.joins.isEmpty && (busyCounter g).isNone && hasPoint s g n

/-- EQP n: the group's last point is n, and its last instruction; under policy 2 it notes whether R55 holds, without a fault
(R55, R101). A scheduler that takes the team there does so by its own step (DEDUCED, log 38). -/
def eqpB (n : BitVec 16) (c : Ctx) (s : State) : Act :=
  uniform c s fun s => .stay (onGrp s c fun g =>
    { (g.goto c.fid (nextPc c)) with
      lastEqp := n, eqpRole := s.pointRole g n c.pc, justEqp := some n, eqpMay := (s.launchOf g).policy == 2 && eqpMeets s g n })

/-- A group arrives at MIGR; when all of its team have, the team enters the migration queue (R102, R283)
(DEDUCED, log 40). -/
def migrArrive (s : State) (gid : Nat) (cls : Bool) (n : BitVec 16) : State :=
  let tid := (s.grp gid).team
  let t := s.team tid
  let arr := match t.migr with | some m => gid :: m.2.2 | none => [gid]
  migSettle (s.setTeam tid { t with migr := some (cls, n.toNat, arr) }) tid

/-- MIGR, its faults in the order of R102; of the hazard's causes the counter is named first, and a MIGR that does not follow its
EQP names nothing, XREC6 0 (DEDUCED, log 39). -/
def migrB (cls : Bool) (n : BitVec 16) (c : Ctx) (s : State) : Act :=
  match c.wait with
  | .migr _ _ => .wait s (.migr cls n)
  | _ =>
    let g := s.grp c.gid
    let t := s.team g.team
    let l := s.launchOf g
    if l.policy = 0 then .fault s (flt 3 2)
    else if t.stream.isSome && cls then .fault s (flt 3 5)
    else if g.frags.length > 1 || !g.joins.isEmpty then .fault s (flt 12 2)
    else match busyCounter g with
      | some k => .fault s (fltV 4 1 (k + 256 * 4))
      | none =>
        if g.justEqp ≠ some n then .fault s (flt 4 1)
        else if !hasPoint s g n then .fault s (fltV 4 1 (256 * 7))
        else if (match t.migr with | some m => m.1 != cls || m.2.1 != n.toNat | none => false) then .fault s (flt 12 3)
        else .wait (migrArrive s c.gid cls n) (.migr cls n)

/-- A group's v registers above an allotment are gone, with their marks and the special-function results still queued for them
(R38). -/
def Group.keepV (g : Group) (n : Nat) : Group :=
  let g := g.drainSfu
  { g with v := g.v.filter fun p => p.1 < n, vpois := g.vpois.filter fun p => p.1 < n }

/-- ROLESW i (R38, R105); of a hazard and a role fault that both hold the hazard is raised (DEDUCED, log 44;
DESIGN CHOICE, log 106). -/
def roleswB (i : BitVec 3) (c : Ctx) (s : State) : Act :=
  uniform c s fun s =>
    let g := s.grp c.gid
    let l := s.launchOf g
    if g.ldc ≠ 0 then .fault s (fltV 4 2 (256 * 4))
    else if g.tlc ≠ 0 then .fault s (fltV 4 2 (2 + 256 * 4))
    else if g.opn then .fault s (fltV 4 2 (3 + 256 * 4))
    else if l.roleKind i.toNat ≥ 2 || !Nat.testBit (l.role g.role 9 1) i.toNat then .fault s (flt 3 4)
    else
      let a := l.allot i.toNat c.rad
      .stay (onGrp s c fun g =>
        { ((g.keepV (min a g.allot)).goto c.fid (l.entry i.toNat c.rad)) with
          role := i.toNat, allot := a, prio := bits (l.role i.toNat 8 1) 0 2, mode := 0x20 })

/-! ### Exit, launch, fence of code (R106, R108) -/

/-- EXIT retires the fragment's lanes; the group retires with its last fragment (R53, R106). From a handler it clears INH
(R312). -/
def exitB (c : Ctx) (s : State) : Act :=
  let g := s.grp c.gid
  let h := match g.hctx with | some h => g.inh && h.1 == c.fid | none => false
  let g := if h then { g with inh := false, hctx := none } else g
  let g := fuseAll { g with frags := adel c.fid g.frags } (wordLen c)
  let s := s.setGrp c.gid g
  .stay (if g.frags.isEmpty then retireGroup s c.gid else s)

/-- IFENCE: the group's later fetches see every code word written by a store that happens before it, in the program order of the
fragment that executes it (R108, R246). -/
def ifenceB (c : Ctx) (s : State) : Act :=
  let o := s.ord
  let ps := (lanesOf (c.own s)).filterMap fun l => (o.ag (laneAgent c.gid l)).at_
  let (n, o) := o.newNode (ps ++ (o.ag (fetchAgent c.gid)).at_.toList)
  .done { s with ord := o.setAg (fetchAgent c.gid) { o.ag (fetchAgent c.gid) with at_ := some n } }

/-! ### Traps (R109 to R111) -/

def trapB (code : BitVec 16) (_ : Ctx) (s : State) : Act := .fault s (fltV 16 0 code.toNat)

/-- XRET: legal in a handler that left the predicate stack and join records as it found them (R110). -/
def xretB (skip : Bool) (c : Ctx) (s : State) : Act :=
  let g := s.grp c.gid
  match g.hctx with
  | none => .fault s (flt 1 5)
  | some (_, st, js) =>
    let f := g.frag c.fid
    if !g.inh then .fault s (flt 1 5)
    else if f.stack ≠ st || g.joins ≠ js then .fault s (flt 11 3)
    else if g.xpc.toNat % wordLen c ≠ 0 then .fault s (fltA 5 0 g.xpc.toNat)
    else
      let cause := bits (aget 0 0 g.xrec).toNat 0 8
      let rep : Option Lanes := if !skip && cause == 7 then some (aget 0 7 g.xrec) else none
      let pc := if skip then
          g.xpc + BitVec.ofNat 64 (wholeLen s (fetchAgent c.gid) (s.placeOf c.gid) (s.asidOf g) c.rad g.xpc)
        else g.xpc
      .stay (onGrp (if skip then s.noteWords (s.asidOf g) g.xpc (if c.rad then 2 else 1) else s) c fun g => g.xret c.fid pc rep)

/-- The instance an XRD or XWR index names: class and number. -/
def barIndex (i : Nat) : Option (Nat × Nat) :=
  if 0x20 ≤ i ∧ i < 0x30 then some (0, i - 0x20)
  else if 0x30 ≤ i ∧ i < 0x38 then some (1, i - 0x30)
  else if 0x38 ≤ i ∧ i < 0x3C then some (2, i - 0x38)
  else none

/-- The value of a trap register (R111). -/
def xrdValue (s : State) (g : Group) (i : Nat) : Word :=
  match barIndex i with
  | some p => (s.bar g.team p.1 p.2).word
  | none =>
    match i with
    | 0x00 => g.xpc.extractLsb' 0 32
    | 0x01 => g.xpc.extractLsb' 32 32
    | 0x02 => g.xem
    | 0x03 => g.xmode
    | 0x04 => if g.inh then 1 else 0
    | 0x10 => g.flags
    | _ => aget 0 (i - 8) g.xrec

def xrdB (k : SReg) (i : BitVec 8) (c : Ctx) (s : State) : Act :=
  .done (onGrp s c fun g => g.putS k.toNat (xrdValue s g i.toNat))

/-- A wait on an instance whose phase it is has not completed: one that a completed phase has released waits no longer (R100). -/
def Wait.onBar (cls i phase : Nat) : Wait → Bool
  | .phase k j p => k == cls && j == i && decide (phase ≤ p)
  | .nextPhase k j p => k == cls && j == i && decide (phase ≤ p)
  | _ => false

/-- A member waits on an instance: a group by a fragment, or the stream of a team. -/
def barWaited (s : State) (cls i : Nat) (b : Bar) : Bool :=
  b.members.any fun m => ((s.grp m).frags.any fun f => f.2.wait.onBar cls i b.phase) ||
    (m ≥ streamMember 0 && (s.str (m - streamMember 0)).wait.onBar cls i b.phase)

/-- XWR to a hardware barrier (R100); exited members that already reach the new EXPECT complete the phase at once. -/
def xwrBar (cls i : Nat) (v : Word) (c : Ctx) (s : State) : Act :=
  let tid := (s.grp c.gid).team
  let b := s.bar tid cls i
  let e := (v.extractLsb' 0 14).toNat
  if b.arrived ≠ 0 || barWaited s cls i b then .fault s (flt 14 0)
  else if e = 0 || e > b.members.length then .fault s (flt 1 4)
  else
    let (s, b) := barAdvance s { b with expect := e, arrived := 0, arr := [] }
    .done (s.setBar tid cls i b)

/-- The defined bits of FLAGS (R44). -/
def flagBits : Word := 0x11F

def xwrB (k : SReg) (i : BitVec 8) (c : Ctx) (s : State) : Act :=
  let g := s.grp c.gid
  let v := g.sreg k.toNat
  match barIndex i.toNat with
  | some p => xwrBar p.1 p.2 v c s
  | none =>
    if i.toNat < 4 then
      if !g.inh then .fault s (flt 1 5)
      else match i.toNat with
        | 0 => .done (onGrp s c fun g => { g with xpc := g.xpc.extractLsb' 32 32 ++ v })
        | 1 => .done (onGrp s c fun g => { g with xpc := v ++ g.xpc.extractLsb' 0 32 })
        | 2 => .done (onGrp s c fun g => { g with xem := v })
        | _ => if modeLegal v then .done (onGrp s c fun g => { g with xmode := v }) else .fault s (flt 2 0)
    else if i = 0x10 then .done (onGrp s c fun g => { g with flags := g.flags &&& ~~~(v &&& flagBits) })
    else .done s

/-! ### Special values (R112) -/

/-- Whether an index names a 64-bit value. -/
def sreadWide (i : Nat) : Bool := i ≥ 0x10

/-- The linear index's grid coordinates, x fastest (R276). -/
def gridCoord (l : Launch) (n k : Nat) : Nat :=
  let x := l.fld 56 2
  let y := l.fld 58 2
  if k = 0 then n % x else if k = 1 then n / x % y else n / (x * y)

def sreadValue (s : State) (g : Group) (rad : Bool) (i : Nat) : Nat :=
  let t := s.team g.team
  let k := s.cluster t.cluster
  let l := s.launchOf g
  match i with
  | 0x00 => t.core
  | 0x01 => k.number
  | 0x02 => t.member
  | 0x03 => l.fld 62 1
  | 0x04 => gridCoord l k.linear 0
  | 0x05 => gridCoord l k.linear 1
  | 0x06 => gridCoord l k.linear 2
  | 0x07 => g.idx
  | 0x08 => l.fld 63 1
  | 0x09 => g.role
  | 0x0A => if rad then 1 else 0
  | 0x0B => g.lastEqp.toNat
  | 0x0C => g.prio
  | 0x0D => l.asid
  | 0x0E => (t.stream.map (·.mstat.toNat)).getD 0
  | 0x10 => g.counters.toNat
  | 0x12 => s.time
  | 0x14 => s.cyc t.core
  | 0x16 => g.retired.toNat
  | 0x18 => g.pb.toNat
  | _ => (s.asid l.asid).dtpage.toNat

def sreadB (k : SReg) (i : BitVec 8) (c : Ctx) (s : State) : Act :=
  .done (onGrp s c fun g =>
    let v := sreadValue s g c.rad i.toNat
    if sreadWide i.toNat then g.putS64 k.toNat (BitVec.ofNat 64 v) else g.putS k.toNat (BitVec.ofNat 32 v))

/-! ### Literals (R66, R67) -/

/-- LIT holds its literal for the instruction after its literal words, if that accepts it. -/
def litB (wide : Bool) (v : DWord) (c : Ctx) (s : State) : Act :=
  let g := s.grp c.gid
  let f := g.frag c.fid
  let next := c.pc + (if wide then 12 else 8)
  if f.lit.isSome then .fault s (flt 1 3)
  else match fetchWord s (fetchAgent c.gid) (s.placeOf c.gid) (s.asidOf g) next with
    | .error e => .fault s { e with pc := none }
    | .ok w =>
      if acceptsLit g.mode wide w then
        .same (s.setGrp c.gid (g.setFrag c.fid { f with pc := next, lit := some ⟨v, wide, c.pc⟩, wait := .run }))
      else .fault s (flt 1 3)

end Sys2Proof.Machine
end

