-- ==== Sys2Proof/Machine/Float.lean ====
section
/-! DEFINITION. Floating-point formats and the one rounding (R59, R201, R202): a finite value is an exact sign, integer and
power of two; every result is rounded once from its exact value. Flags are the bits of FLAGS: NV 1, DZ 2, OF 4, UF 8, NX 16
(R44, R206). -/
set_option linter.all false
namespace Sys2Proof.Machine

/-- Exponent and fraction widths of a format (R201). -/
structure Fmt where
  e : Nat
  f : Nat
  deriving DecidableEq, Repr

def f64 : Fmt := ⟨11, 52⟩
def f32 : Fmt := ⟨8, 23⟩
def f16 : Fmt := ⟨5, 10⟩
def bf16 : Fmt := ⟨8, 7⟩
def e4m3 : Fmt := ⟨4, 3⟩
def e5m2 : Fmt := ⟨5, 2⟩

/-- The format of a type code (R72). -/
def fmtOf (ty : Nat) : Fmt :=
  match ty with
  | 3 => f16
  | 4 => bf16
  | 5 => f64
  | 12 => e4m3
  | 13 => e5m2
  | _ => f32

/-- A value read: a NaN (signalling or not), an infinity, or ±m·2^e. -/
inductive Num where
  | nan (sig : Bool)
  | inf (neg : Bool)
  | fin (neg : Bool) (m : Nat) (e : Int)
  deriving DecidableEq, Repr

def Fmt.width (F : Fmt) : Nat := 1 + F.e + F.f
def Fmt.bias (F : Fmt) : Nat := 2 ^ (F.e - 1) - 1
/-- The exponent of the subnormal grid. -/
def Fmt.qmin (F : Fmt) : Int := 1 - (F.bias : Int) - (F.f : Int)
def Fmt.signBit (F : Fmt) (neg : Bool) : Nat := if neg then 2 ^ (F.e + F.f) else 0
def Fmt.infBits (F : Fmt) : Nat := (2 ^ F.e - 1) * 2 ^ F.f
/-- The canonical NaN: sign 0, quiet (R201). -/
def Fmt.nanBits (F : Fmt) : Nat := if F = e4m3 then 0x7F else F.infBits + 2 ^ (F.f - 1)
/-- The largest finite encoding. -/
def Fmt.maxBits (F : Fmt) : Nat := if F = e4m3 then 0x7E else F.infBits - 1

/-- Reads an encoding; with `ftz` a subnormal reads as zero of its sign (R43). Every NaN of the 8-bit formats is quiet. -/
def unpack (F : Fmt) (ftz : Bool) (v : Nat) : Num :=
  let neg := bits v (F.e + F.f) 1 == 1
  let ex := bits v F.f F.e
  let fr := bits v 0 F.f
  if F = e4m3 then
    if ex = 15 ∧ fr = 7 then .nan false
    else if ex = 0 then .fin neg fr F.qmin else .fin neg (2 ^ F.f + fr) (F.qmin + (ex - 1))
  else if ex = 2 ^ F.e - 1 then
    if fr = 0 then .inf neg else .nan (F.f > 2 && fr < 2 ^ (F.f - 1))
  else if ex = 0 then .fin neg (if ftz then 0 else fr) F.qmin
  else .fin neg (2 ^ F.f + fr) (F.qmin + (ex - 1))

/-- A sign and a magnitude as an integer. -/
def signed (neg : Bool) (m : Nat) : Int := if neg then -(m : Int) else m

/-- m·2^e to a multiple of 2^q by a rounding mode (R202): the multiple, and whether it differs. -/
def roundGrid (rm : Nat) (neg : Bool) (m : Nat) (e q : Int) : Nat × Bool :=
  if q ≤ e then (m * 2 ^ (e - q).toNat, false)
  else
    let k := (q - e).toNat
    let lo := m / 2 ^ k
    let rem := m % 2 ^ k
    let half := 2 ^ (k - 1)
    let up := match rm with
      | 0 => rem > half || (rem == half && lo % 2 == 1)
      | 1 => false
      | 2 => neg && rem != 0
      | 3 => !neg && rem != 0
      | _ => rem ≥ half
    (if up then lo + 1 else lo, rem != 0)

/-- What an overflow gives in each rounding mode (R202, Table 2). -/
def overflowBits (F : Fmt) (rm : Nat) (neg : Bool) : Nat :=
  let toInf := match rm with
    | 0 => true
    | 1 => false
    | 2 => neg
    | 3 => !neg
    | _ => true
  F.signBit neg + if toInf then F.infBits else F.maxBits

/-- Round(x, t) of ±m·2^e (R202): encoding and flags. `sticky` says that the exact magnitude lies strictly between m·2^e and
(m+1)·2^e. A flushed subnormal result is zero of its sign and sets UF and NX. -/
def roundTo (F : Fmt) (rm : Nat) (ftz neg : Bool) (m : Nat) (e : Int) (sticky : Bool) : Nat × Nat :=
  if m = 0 ∧ !sticky then (F.signBit neg, 0)
  else
    let m := 4 * m + if sticky then 1 else 0
    let e := e - 2
    let q0 := e + (Nat.log2 m + 1 : Nat) - (F.f + 1 : Nat)
    let (r0, x0) := roundGrid rm neg m e q0
    let top : Int := q0 + (F.f : Int) + if r0 = 2 ^ (F.f + 1) then 1 else 0
    if top < F.qmin + (F.f : Int) then
      let (r, x) := roundGrid rm neg m e F.qmin
      if ftz then
        if r < 2 ^ F.f then (F.signBit neg, 8 + 16) else (F.signBit neg + r, if x then 8 + 16 else 0)
      else (F.signBit neg + r, if x then 8 + 16 else 0)
    else
      let b := ((q0 - F.qmin) * (2 ^ F.f : Nat) + r0).toNat
      if b > F.maxBits then (overflowBits F rm neg, 4 + 16)
      else (F.signBit neg + b, if x0 then 16 else 0)

/-- Rounds an exact integer over an exponent; an exact zero takes the sign given. -/
def roundInt (F : Fmt) (rm : Nat) (ftz : Bool) (v : Int) (e : Int) (zneg : Bool) : Nat × Nat :=
  if v = 0 then (F.signBit zneg, 0) else roundTo F rm ftz (decide (v < 0)) v.natAbs e false

def Num.isSig : Num → Bool
  | .nan s => s
  | _ => false

/-- NV of signalling operands (R206). -/
def sigNv (a b : Num) : Nat := if a.isSig || b.isSig then 1 else 0

/-- The sum of two values (R125): a zero sum of opposite signs is −0 under RDN and else +0. -/
def fAdd (F : Fmt) (rm : Nat) (ftz : Bool) (a b : Num) : Nat × Nat :=
  let nv := sigNv a b
  match a, b with
  | .nan _, _ => (F.nanBits, nv)
  | _, .nan _ => (F.nanBits, nv)
  | .inf x, .inf y => if x = y then (F.signBit x + F.infBits, 0) else (F.nanBits, 1)
  | .inf x, _ => (F.signBit x + F.infBits, 0)
  | _, .inf y => (F.signBit y + F.infBits, 0)
  | .fin n1 m1 e1, .fin n2 m2 e2 =>
    let e := min e1 e2
    let v := signed n1 (m1 * 2 ^ (e1 - e).toNat) + signed n2 (m2 * 2 ^ (e2 - e).toNat)
    let zneg := if m1 = 0 ∧ m2 = 0 ∧ n1 = n2 then n1 else rm == 2
    roundInt F rm ftz v e zneg

/-- The product of two values (R125). -/
def fMul (F : Fmt) (rm : Nat) (ftz : Bool) (a b : Num) : Nat × Nat :=
  let nv := sigNv a b
  match a, b with
  | .nan _, _ => (F.nanBits, nv)
  | _, .nan _ => (F.nanBits, nv)
  | .inf x, .inf y => (F.signBit (x != y) + F.infBits, 0)
  | .inf x, .fin y m _ => if m = 0 then (F.nanBits, 1) else (F.signBit (x != y) + F.infBits, 0)
  | .fin x m _, .inf y => if m = 0 then (F.nanBits, 1) else (F.signBit (x != y) + F.infBits, 0)
  | .fin x m1 e1, .fin y m2 e2 => roundTo F rm ftz (x != y) (m1 * m2) (e1 + e2) false

/-- A number rounded to an integer by a rounding mode, with whether it differs (R129, R175) (DEDUCED, log 23). -/
def toIntR (rm : Nat) (neg : Bool) (m : Nat) (e : Int) : Int × Bool :=
  let (r, x) := roundGrid rm neg m e 0
  (signed neg r, x)

def Num.neg : Num → Num
  | .fin n m e => .fin (!n) m e
  | .inf n => .inf (!n)
  | .nan s => .nan s

/-- The order of two values that are no NaN: less, equal or greater as −1, 0, 1. -/
def fCmp (a b : Num) : Int :=
  match a, b with
  | .inf x, .inf y => if x = y then 0 else if x then -1 else 1
  | .inf x, _ => if x then -1 else 1
  | _, .inf y => if y then 1 else -1
  | .fin n1 m1 e1, .fin n2 m2 e2 =>
    let e := min e1 e2
    let x := signed n1 (m1 * 2 ^ (e1 - e).toNat)
    let y := signed n2 (m2 * 2 ^ (e2 - e).toNat)
    if x < y then -1 else if x = y then 0 else 1
  | _, _ => 0

def Num.isNan : Num → Bool
  | .nan _ => true
  | _ => false

def Num.negative : Num → Bool
  | .inf n => n
  | .fin n _ _ => n
  | .nan _ => false

/-- Re-encodes a value read (a flushed subnormal as zero). -/
def pack (F : Fmt) : Num → Nat
  | .nan _ => F.nanBits
  | .inf n => F.signBit n + F.infBits
  | .fin n m e => (roundTo F 0 false n m e false).1

/-- minimumNumber and maximumNumber (R125, R155): −0 is less than +0; of a number and a NaN, the number. -/
def fMinMax (F : Fmt) (isMax : Bool) (a b : Num) : Nat × Nat :=
  let nv := sigNv a b
  if a.isNan then (if b.isNan then F.nanBits else pack F b, nv)
  else if b.isNan then (pack F a, nv)
  else
    let c := fCmp a b
    let aLess := decide (c < 0) || (c == 0 && a.negative)
    (pack F (if aLess != isMax then a else b), nv)

/-- LDX: an f16, bf16, e4m3 or e5m2 value widened exactly to f32, a NaN canonical; no flag (R150) (DEDUCED, log 22). -/
def widenF32 (ty v : Nat) : Nat := pack f32 (unpack (fmtOf ty) false v)

/-- An 8-bit format's overflow (R150): the largest finite value under saturation, else the NaN of its sign (e4m3) or an
infinity (e5m2) (DEDUCED, log 91). -/
def over8 (F : Fmt) (sat neg : Bool) : Nat :=
  F.signBit neg + if sat then F.maxBits else if F = e4m3 then 0x7F else F.infBits

/-- STX and CHAIN: an f32 value as the 8-bit or 16-bit format of a type (R150) (DEDUCED, log 91). -/
def narrowF32 (ty rm : Nat) (ftz sat : Bool) (v : Nat) : Nat × Nat :=
  let F := fmtOf ty
  match unpack f32 ftz v with
  | .nan s => (F.nanBits, if s then 1 else 0)
  | .inf n => if F = e4m3 then (over8 F sat n, 4 + 16)
              else (F.signBit n + F.infBits, 0)
  | .fin n m e =>
    let r := roundTo F rm ftz n m e false
    if (F = e4m3 ∨ F = e5m2) ∧ bits r.2 2 1 = 1 then (over8 F sat n, 4 + 16) else r

end Sys2Proof.Machine
end

