-- ==== Sys2Proof/Machine/Flags.lean ====
section
/-! DEFINITION. FLAGS (R44, R206): conditions of lanes are combined by OR and stay until software clears them. -/
set_option linter.all false
namespace Sys2Proof.Machine

/-- Sets the bits of conditions raised. -/
def Group.raise (g : Group) (n : Nat) : Group := { g with flags := g.flags ||| BitVec.ofNat 32 n }

/-- The conditions raised in the lanes of a mask, combined by OR (R206). -/
def laneFlags (m : Lanes) (f : Nat → Nat) : Nat := (lanesOf m).foldl (fun n l => Nat.lor n (f l)) 0

end Sys2Proof.Machine
end

