-- ==== Sys2Proof/Machine/Integer.lean ====
section
/-! DEFINITION. The effects of the vector integer and logic instructions (R115 to R121) and of the scalar ones (R122, R123). -/
set_option linter.all false
namespace Sys2Proof.Machine

/-! ### Vector arithmetic (R116, R118) -/

/-- A lane operation of a type: from SAT, the two sources and the old destination, as encodings of w bits. -/
abbrev LaneOp := Nat → Bool → Nat → Nat → Nat → Nat

def iaddOp : LaneOp := fun t sat a b _ => satT t sat (intOf t a + intOf t b)
def isubOp : LaneOp := fun t sat a b _ => satT t sat (intOf t a - intOf t b)
def imulOp : LaneOp := fun t sat a b _ => satT t sat (intOf t a * intOf t b)
def imulhOp : LaneOp := fun t _ a b _ => wrapT t (intOf t a * intOf t b / (2 ^ wBits t : Nat))
def imadOp : LaneOp := fun t sat a b d => satT t sat (intOf t a * intOf t b + intOf t d)
def iminOp : LaneOp := fun t _ a b _ => if intOf t a ≤ intOf t b then a else b
def imaxOp : LaneOp := fun t _ a b _ => if intOf t a ≤ intOf t b then b else a
def iabsOp : LaneOp := fun t sat a _ _ => satT t sat ((intOf t a).natAbs : Int)
def inegOp : LaneOp := fun t sat a _ _ => satT t sat (-(intOf t a))

/-- IDIV: the quotient toward zero; all ones for a zero divisor (R118). -/
def idivOp : LaneOp := fun t sat a b _ =>
  if b = 0 then 2 ^ wBits t - 1 else satT t sat ((intOf t a).tdiv (intOf t b))
/-- IREM: the dividend for a zero divisor (R118). -/
def iremOp : LaneOp := fun t _ a b _ =>
  if b = 0 then a else wrapT t ((intOf t a).tmod (intOf t b))

/-! ### Logic and bits (R120) -/

def andOp : LaneOp := fun _ _ a b _ => Nat.land a b
def orOp : LaneOp := fun _ _ a b _ => Nat.lor a b
def xorOp : LaneOp := fun _ _ a b _ => Nat.xor a b
def notOp : LaneOp := fun t _ a _ _ => 2 ^ wBits t - 1 - a

/-- The shift count: b read unsigned, from the even register of a pair (R120). -/
def cnt (b : Nat) : Nat := b % 2 ^ 32

def shlOp : LaneOp := fun t sat a b _ =>
  if sat then satT t true (intOf t a * (2 ^ min (cnt b) 64 : Nat))
  else if cnt b ≥ wBits t then 0 else a * 2 ^ cnt b % 2 ^ wBits t
def shrOp : LaneOp := fun t _ a b _ => if cnt b ≥ wBits t then 0 else a / 2 ^ cnt b
def sarOp : LaneOp := fun t _ a b _ =>
  wrapT t ((BitVec.ofNat (wBits t) a).toInt / (2 ^ min (cnt b) (wBits t - 1) : Nat))
def rotlOp : LaneOp := fun t _ a b _ =>
  let w := wBits t
  let n := cnt b % w
  (a * 2 ^ n + a / 2 ^ (w - n)) % 2 ^ w

def bitsSet (w a : Nat) : List Nat := (List.range w).filter fun i => Nat.testBit a i
def popcOp : LaneOp := fun t _ a _ _ => (bitsSet (wBits t) a).length
def clzOp : LaneOp := fun t _ a _ _ => match (bitsSet (wBits t) a).getLast? with | some i => wBits t - 1 - i | none => wBits t
def ctzOp : LaneOp := fun t _ a _ _ => match (bitsSet (wBits t) a).head? with | some i => i | none => wBits t
def brevOp : LaneOp := fun t _ a _ _ => ((bitsSet (wBits t) a).map fun i => 2 ^ (wBits t - 1 - i)).sum

/-- Position and length of a field's control word (R120). -/
def ctlPos (b : Nat) : Nat := bits b 0 6
def ctlLen (b : Nat) : Nat := min (bits b 8 7) 64

def bfeOp : LaneOp := fun t _ a b _ =>
  let p := ctlPos b
  let n := ctlLen b
  if n = 0 ∨ p ≥ wBits t then 0
  else
    let f := a / 2 ^ p % 2 ^ n
    if isSigned t && Nat.testBit f (n - 1) then (f + (2 ^ 64 - 2 ^ n)) % 2 ^ wBits t else f
def bfiOp : LaneOp := fun t _ a b d =>
  let p := ctlPos b
  let n := ctlLen b
  let m := (2 ^ n - 1) * 2 ^ p
  Nat.lor (Nat.land d (2 ^ 128 - 1 - m)) (Nat.land (a * 2 ^ p) m) % 2 ^ wBits t

def movOp : LaneOp := fun _ _ a _ _ => a

/-- A lane operation over the active lanes (R113, R116): `b` and `d` are read under the type as well. -/
def intB (op : LaneOp) (d a b : Nat) (c : Ctx) (s : State) : Act :=
  .done (onGrp s c fun g => g.putT c.ty d c.act fun l =>
    op c.ty (modeSat c.mode) (g.rdT c.ty a l) (g.rdT c.ty b l) (g.rdT c.ty d l))

/-- BFE and BFI read their control word from the even or only register of b, as a number of its own (R120). -/
def fieldB (op : LaneOp) (d a b : Nat) (c : Ctx) (s : State) : Act :=
  .done (onGrp s c fun g => g.putT c.ty d c.act fun l =>
    op c.ty (modeSat c.mode) (g.rdT c.ty a l) (g.vl b l).toNat (g.rdT c.ty d l))

/-- SEL acts in every lane of EM: a where the guard holds, else b (R69, R116). -/
def selB (d a b : Nat) (c : Ctx) (s : State) : Act :=
  let on := activeMask (s.grp c.gid) c.mode c.em
  if (s.grp c.gid).poisAt c.ty a on || (s.grp c.gid).poisAt c.ty b (c.em &&& ~~~on) then .fault s (flt 15 0)
  else .done (onGrp s c fun g =>
    let on := activeMask g c.mode c.em
    g.putT c.ty d c.em fun l => if on.getLsbD l then g.rdT c.ty a l else g.rdT c.ty b l)

/-- IADDC keeps its carry in p7 (R117). -/
def iaddcB (d a b : Nat) (c : Ctx) (s : State) : Act :=
  .done (onGrp s c fun g =>
    let t (l : Nat) : Nat := (g.vl a l).toNat + (g.vl b l).toNat + if (g.preg 7).getLsbD l then 1 else 0
    (g.putV d c.act fun l => BitVec.ofNat 32 (t l)).setP 7 c.act (maskOf fun l => decide (t l ≥ 2 ^ 32)))

/-- The conditions 0 to 5 of R69. -/
def condOk (cond : Nat) (a b : Int) : Bool :=
  match cond with
  | 0 => a == b
  | 1 => a != b
  | 2 => decide (a < b)
  | 3 => decide (a ≤ b)
  | 4 => decide (a > b)
  | _ => decide (a ≥ b)

def icmpB (cond : BitVec 3) (p : BitVec 3) (a b : Nat) (c : Ctx) (s : State) : Act :=
  .done (onGrp s c fun g => g.setP p.toNat c.act
    (maskOf fun l => condOk cond.toNat (intOf c.ty (g.rdT c.ty a l)) (intOf c.ty (g.rdT c.ty b l))))

/-- The immediate of MOVI and IADDI, signed under every type (R121): a Marrow 32-bit literal and the Radish literal word that
R80 puts in its place so come to one value (DEDUCED, log 107). -/
def immInt (c : Ctx) : Int := c.imm.toInt

def moviB (d : Nat) (c : Ctx) (s : State) : Act :=
  .done (onGrp s c fun g => g.putT c.ty d c.act fun _ => satT c.ty (modeSat c.mode) (immInt c))
def iaddiB (d a : Nat) (c : Ctx) (s : State) : Act :=
  .done (onGrp s c fun g => g.putT c.ty d c.act fun l => satT c.ty (modeSat c.mode) (intOf c.ty (g.rdT c.ty a l) + immInt c))

/-- LEA writes the address of a form M access, in 64 bits under every type (R121, R143). -/
def leaB (d : Nat) (k : VReg) (b : BitVec 3) (c : Ctx) (s : State) : Act :=
  .done (onGrp s c fun g => g.putV64 d c.act fun l =>
    g.sreg64 (2 * b.toNat) + (if k = 0xFF then 0 else (g.vl k.toNat l).signExtend 64) + c.imm)

/-! ### Scalar (R122, R123) -/

def scalB (f : Word → Word → Word) (d a b : SReg) (c : Ctx) (s : State) : Act :=
  .done (onGrp s c fun g => g.putS d.toNat (f (g.sreg a.toNat) (g.sreg b.toNat)))

/-- The shift amount b[5:0]. -/
def samt (b : Word) : Nat := (b.extractLsb' 0 6).toNat
def sshlOp (a b : Word) : Word := a <<< samt b
def sshrOp (a b : Word) : Word := a >>> samt b
def sminOp (a b : Word) : Word := if a.toInt ≤ b.toInt then a else b
def smaxOp (a b : Word) : Word := if a.toInt ≤ b.toInt then b else a

def smovB (d a : SReg) (c : Ctx) (s : State) : Act := .done (onGrp s c fun g => g.putS d.toNat (g.sreg a.toNat))

/-- SMOVI writes sd, or the pair under a 64-bit literal (R122). -/
def smoviB (pair : Bool) (d : SReg) (c : Ctx) (s : State) : Act :=
  .done (onGrp s c fun g => if pair then g.putS64 d.toNat c.imm else g.putS d.toNat (c.imm.extractLsb' 0 32))

def sleaB (d : SReg) (b : BitVec 3) (c : Ctx) (s : State) : Act :=
  .done (onGrp s c fun g => g.putS64 d.toNat (g.sreg64 (2 * b.toNat) + c.imm))

def scmpB (cond : BitVec 3) (p : BitVec 3) (a b : SReg) (c : Ctx) (s : State) : Act :=
  .done (onGrp s c fun g => g.setP p.toNat c.em
    (if condOk cond.toNat (g.sreg a.toNat).toInt (g.sreg b.toNat).toInt then BitVec.allOnes 32 else 0))

/-- The lowest lane of a mask. -/
def lowLane (m : Lanes) : Option Nat := (lanesOf m).head?

def vtosB (d : SReg) (a : Nat) (c : Ctx) (s : State) : Act :=
  match lowLane c.em with
  | none => .done s
  | some l =>
    if ((s.grp c.gid).vPois a).getLsbD l then .fault s (flt 15 0)
    else .done (onGrp s c fun g => g.putS d.toNat (g.vl a l))

def stovB (d : Nat) (a : SReg) (c : Ctx) (s : State) : Act :=
  .done (onGrp s c fun g => g.putV d c.em fun _ => g.sreg a.toNat)

end Sys2Proof.Machine
end

