-- ==== Sys2Proof/Machine/FloatOps.lean ====
section
/-! DEFINITION. The effects of the floating-point, special-function, conversion and quantisation instructions (R124 to R135). -/
set_option linter.all false
namespace Sys2Proof.Machine

/-! ### The exact operations and their one rounding (R125) -/

/-- a·b + d, rounded once; 0·∞ sets NV for every d. -/
def fFma (F : Fmt) (rm : Nat) (ftz : Bool) (a b d : Num) : Nat × Nat :=
  let nv := Nat.lor (sigNv a b) (sigNv d d)
  let bad := match a, b with
    | .inf _, .fin _ 0 _ => true
    | .fin _ 0 _, .inf _ => true
    | _, _ => false
  if bad then (F.nanBits, 1)
  else if a.isNan || b.isNan || d.isNan then (F.nanBits, nv)
  else match a, b with
    | .fin x m1 e1, .fin y m2 e2 => fAdd F rm ftz (.fin (x != y) (m1 * m2) (e1 + e2)) d
    | _, _ => fAdd F rm ftz (.inf (a.negative != b.negative)) d

/-- a / b (R125). -/
def fDiv (F : Fmt) (rm : Nat) (ftz : Bool) (a b : Num) : Nat × Nat :=
  let nv := sigNv a b
  let sg := a.negative != b.negative
  match a, b with
  | .nan _, _ => (F.nanBits, nv)
  | _, .nan _ => (F.nanBits, nv)
  | .inf _, .inf _ => (F.nanBits, 1)
  | .inf _, _ => (F.signBit sg + F.infBits, 0)
  | _, .inf _ => (F.signBit sg, 0)
  | .fin _ m1 e1, .fin _ m2 e2 =>
    if m2 = 0 then (if m1 = 0 then (F.nanBits, 1) else (F.signBit sg + F.infBits, 2))
    else
      let k := F.f + 3 + Nat.log2 m2 + 1
      let q := m1 * 2 ^ k / m2
      roundTo F rm ftz sg q (e1 - e2 - (k : Int)) (m1 * 2 ^ k % m2 != 0)

/-- The integer square root below 4^n, bit by bit. -/
def isqrt : Nat → Nat → Nat
  | 0, _ => 0
  | n + 1, x =>
    let r := isqrt n (x / 4)
    if (2 * r + 1) * (2 * r + 1) ≤ x then 2 * r + 1 else 2 * r

/-- √a (R125). -/
def fSqrt (F : Fmt) (rm : Nat) (ftz : Bool) (a : Num) : Nat × Nat :=
  match a with
  | .nan s => (F.nanBits, if s then 1 else 0)
  | .inf n => if n then (F.nanBits, 1) else (F.infBits, 0)
  | .fin n m e =>
    if m = 0 then (F.signBit n, 0)
    else if n then (F.nanBits, 1)
    else
      let m' := if e % 2 = 0 then m else 2 * m
      let e' := if e % 2 = 0 then e else e - 1
      let k := F.f + 5
      let x := m' * 4 ^ k
      let r := isqrt (Nat.log2 x / 2 + 1) x
      roundTo F rm ftz false r (e' / 2 - (k : Int)) (r * r != x)

/-- Rounds to an integral value of the same type (R125, FRND). -/
def fRnd (F : Fmt) (rm : Nat) (a : Num) : Nat × Nat :=
  match a with
  | .nan s => (F.nanBits, if s then 1 else 0)
  | .inf n => (F.signBit n + F.infBits, 0)
  | .fin n m e =>
    if e ≥ 0 then (pack F a, 0)
    else
      let r := roundGrid rm n m e 0
      ((roundTo F 0 false n r.1 0 false).1, if r.2 then 16 else 0)

/-- a·2^n (R125, FLDEXP); beyond ±10,000 every n gives the same result in every format. -/
def fLdexp (F : Fmt) (rm : Nat) (ftz : Bool) (a : Num) (n : Int) : Nat × Nat :=
  match a with
  | .nan s => (F.nanBits, if s then 1 else 0)
  | .inf x => (F.signBit x + F.infBits, 0)
  | .fin x m e => roundTo F rm ftz x m (e + max (-10000) (min 10000 n)) false

/-- ⌊log2 |a|⌋ as s32 (R125, FEXPO). -/
def fExpo (a : Num) : Nat × Nat :=
  match a with
  | .nan _ => (0x7FFF_FFFF, 1)
  | .inf _ => (0x7FFF_FFFF, 0)
  | .fin _ m e => if m = 0 then (0x8000_0000, 2) else (wrapT 0 (e + (Nat.log2 m : Nat)), 0)

/-- The class mask of an encoding (R127). -/
def fClass (F : Fmt) (v : Nat) : Nat :=
  let neg := bits v (F.e + F.f) 1 == 1
  let ex := bits v F.f F.e
  let fr := bits v 0 F.f
  if ex = 2 ^ F.e - 1 then
    if fr = 0 then (if neg then 4 else 512) else if fr < 2 ^ (F.f - 1) then 1 else 2
  else if ex = 0 then
    if fr = 0 then (if neg then 32 else 64) else if neg then 16 else 128
  else if neg then 8 else 256

/-- FCMP: the result and NV (R126). -/
def fCmpOk (cond : Nat) (a b : Num) : Bool × Nat :=
  let nan := a.isNan || b.isNan
  let sig := sigNv a b
  match cond with
  | 0 => (!nan && fCmp a b == 0, sig)
  | 1 => (nan || fCmp a b != 0, sig)
  | 6 => (nan, sig)
  | 2 => (!nan && decide (fCmp a b < 0), if nan then 1 else 0)
  | 3 => (!nan && decide (fCmp a b ≤ 0), if nan then 1 else 0)
  | 4 => (!nan && decide (fCmp a b > 0), if nan then 1 else 0)
  | _ => (!nan && decide (fCmp a b ≥ 0), if nan then 1 else 0)

/-! ### The instructions over lanes -/

/-- A floating operation of a lane: format, MODE, sources a and b and the old destination as read under MODE.FTZ. -/
abbrev FloatOp := Fmt → Word → Num → Num → Num → Nat × Nat

def faddOp : FloatOp := fun F m a b _ => fAdd F (modeRnd m) (modeFtz m) a b
def fsubOp : FloatOp := fun F m a b _ => fAdd F (modeRnd m) (modeFtz m) a b.neg
def fmulOp : FloatOp := fun F m a b _ => fMul F (modeRnd m) (modeFtz m) a b
def ffmaOp : FloatOp := fun F m a b d => fFma F (modeRnd m) (modeFtz m) a b d
def fminOp : FloatOp := fun F _ a b _ => fMinMax F false a b
def fmaxOp : FloatOp := fun F _ a b _ => fMinMax F true a b
def fdivOp : FloatOp := fun F m a b _ => fDiv F (modeRnd m) (modeFtz m) a b
def fsqrtOp : FloatOp := fun F m a _ _ => fSqrt F (modeRnd m) (modeFtz m) a
def frndOp : FloatOp := fun F m a _ _ => fRnd F (modeRnd m) a

def Group.rdF (g : Group) (c : Ctx) (r l : Nat) : Num := unpack (fmtOf c.ty) (modeFtz c.mode) (g.rdT c.ty r l)

/-- A result of each active lane in the type in force, with the flags the lanes raise. -/
def flagT (c : Ctx) (s : State) (d : Nat) (f : Group → Nat → Nat × Nat) : Act :=
  .done (onGrp s c fun g => (g.putT c.ty d c.act fun l => (f g l).1).raise (laneFlags c.act fun l => (f g l).2))

/-- A 32-bit result of each active lane, whatever the type. -/
def flag32 (c : Ctx) (s : State) (d : Nat) (f : Group → Nat → Nat × Nat) : Act :=
  .done (onGrp s c fun g =>
    (g.putV d c.act fun l => BitVec.ofNat 32 (f g l).1).raise (laneFlags c.act fun l => (f g l).2))

def floatB (op : FloatOp) (d a b : Nat) (c : Ctx) (s : State) : Act :=
  flagT c s d fun g l => op (fmtOf c.ty) c.mode (g.rdF c a l) (g.rdF c b l) (g.rdF c d l)

/-- FLDEXP takes n from one register under every type. -/
def fldexpB (d a b : Nat) (c : Ctx) (s : State) : Act :=
  flagT c s d fun g l => fLdexp (fmtOf c.ty) (modeRnd c.mode) (modeFtz c.mode) (g.rdF c a l) (g.vl b l).toInt

def fexpoB (d a : Nat) (c : Ctx) (s : State) : Act := flag32 c s d fun g l => fExpo (g.rdF c a l)
def fclassB (d a : Nat) (c : Ctx) (s : State) : Act := flag32 c s d fun g l => (fClass (fmtOf c.ty) (g.rdT c.ty a l), 0)

/-- FABS 0, FNEG 1, FSGNJ 2: the sign bit alone (R125). -/
def fsignB (k : Nat) (d a b : Nat) (c : Ctx) (s : State) : Act :=
  .done (onGrp s c fun g => g.putT c.ty d c.act fun l =>
    let sb := 2 ^ (wBits c.ty - 1)
    let x := g.rdT c.ty a l
    let y := g.rdT c.ty b l
    match k with
    | 0 => x % sb
    | 1 => if x ≥ sb then x - sb else x + sb
    | _ => x % sb + y / sb * sb)

def fcmpB (cond : BitVec 3) (p : BitVec 3) (a b : Nat) (c : Ctx) (s : State) : Act :=
  .done (onGrp s c fun g =>
    let r (l : Nat) : Bool × Nat := fCmpOk cond.toNat (g.rdF c a l) (g.rdF c b l)
    (g.setP p.toNat c.act (maskOf fun l => (r l).1)).raise (laneFlags c.act fun l => (r l).2))

/-! ### Special functions (R128): fixed-point values with P fraction bits, far beyond f32's 24 -/

def fxP : Nat := 320

/-- The sum of t_1 + … of a series by its next-term function, n terms. -/
def series (next : Nat → Nat → Nat) : Nat → Nat → Nat → Nat
  | 0, _, _ => 0
  | n + 1, k, t => if t = 0 then 0 else t + series next n (k + 1) (next k t)

/-- arctan(1/x) with p fraction bits: the sum of its positive terms less that of its negative ones. -/
def atanInv (p x : Nat) : Nat :=
  let term (k : Nat) : Nat := 2 ^ p / x ^ (2 * k + 1) / (2 * k + 1)
  let pos := ((List.range 130).map fun k => term (2 * k)).sum
  let neg := ((List.range 130).map fun k => term (2 * k + 1)).sum
  pos - neg

/-- π by Machin's formula. -/
def piFx (p : Nat) : Nat := 4 * (4 * atanInv p 5 - atanInv p 239)

/-- ln((1+z)/(1−z))/2 of z < 1 with P fraction bits. -/
def atanhFx (z : Nat) : Nat :=
  let z2 := z * z / 2 ^ fxP
  let rec go : Nat → Nat → Nat → Nat
    | 0, _, _ => 0
    | n + 1, k, pw => if pw = 0 then 0 else pw / (2 * k + 1) + go n (k + 1) (pw * z2 / 2 ^ fxP)
  go 260 0 z

/-- ln 2 = 2·artanh(1/3). -/
def ln2Fx : Nat := 2 * atanhFx (2 ^ fxP / 3)

/-- e^x of a fixed-point x (UNVERIFIED, log 24). -/
def expFx (x : Nat) : Nat := series (fun k t => t * x / 2 ^ fxP / (k + 1)) 300 0 (2 ^ fxP)

/-- Even (`odd` false) or odd part of the exponential series with alternating signs: cos x or sin x
(UNVERIFIED, log 24). -/
def trigFx (odd : Bool) (x : Nat) : Int :=
  let x2 := x * x / 2 ^ fxP
  let o := if odd then 1 else 0
  let rec go : Nat → Nat → Nat → Int
    | 0, _, _ => 0
    | n + 1, k, t => if t = 0 then 0 else (t : Int) - go n (k + 1) (t * x2 / 2 ^ fxP / ((2 * k + 1 + o) * (2 * k + 2 + o)))
  go 200 0 (if odd then x else 2 ^ fxP)

/-- m·2^e in fixed point. -/
def toFx (m : Nat) (e : Int) : Nat :=
  let k := e + (fxP : Int)
  if k ≥ 0 then m * 2 ^ k.toNat else m / 2 ^ (-k).toNat

/-- m·2^e modulo 2π in fixed point; π carries enough bits for the largest f32. -/
def reduce2pi (m : Nat) (e : Int) : Nat :=
  let q := 2 * piFx (fxP + 160)
  (m * 2 ^ (e + (fxP + 160 : Nat)).toNat % q) / 2 ^ 160

/-- A fixed-point value rounded to f32 with RNE. -/
def fxRound (neg : Bool) (v : Nat) (e : Int) : Nat × Nat := roundTo f32 0 false neg v (e - (fxP : Int)) true

/-- The functions of the special-function unit on an f32 value that is no NaN (R128): encoding, flags. -/
def sfuF32 (fn : Nat) (a : Num) : Nat × Nat :=
  match fn, a with
  | _, .nan _ => (f32.nanBits, 0)
  -- FRCP
  | 0, .inf n => (f32.signBit n, 0)
  | 0, .fin n m e => if m = 0 then (f32.signBit n + f32.infBits, 2) else fDiv f32 0 false (.fin n 1 0) (.fin false m e)
  -- FRSQ
  | 1, .inf n => if n then (f32.nanBits, 1) else (0, 0)
  | 1, .fin n m e =>
    if m = 0 then (f32.signBit n + f32.infBits, 2)
    else if n then (f32.nanBits, 1)
    else
      let m' := if e % 2 = 0 then m else 2 * m
      let e' := if e % 2 = 0 then e else e - 1
      let x := 2 ^ 200 / m'
      let r := isqrt 101 x
      roundTo f32 0 false false r (-(e' / 2) - 100) (r * r * m' != 2 ^ 200)
  -- FEX2
  | 2, .inf n => (if n then 0 else f32.infBits, 0)
  | 2, .fin n m e =>
    if m = 0 then roundTo f32 0 false false 1 0 false
    else if e ≥ 8 ∨ m * 2 ^ (e + 200).toNat ≥ 200 * 2 ^ 200 then
      (if n then (0, 0) else roundTo f32 0 false false 1 1000 false)
    else
      let x := toFx m e
      let i : Int := if n then -((x + 2 ^ fxP - 1) / 2 ^ fxP : Nat) else (x / 2 ^ fxP : Nat)
      let f := if n then (2 ^ fxP - x % 2 ^ fxP) % 2 ^ fxP else x % 2 ^ fxP
      if f = 0 then roundTo f32 0 false false 1 i false else fxRound false (expFx (f * ln2Fx / 2 ^ fxP)) i
  -- FLG2
  | 3, .inf n => if n then (f32.nanBits, 1) else (f32.infBits, 0)
  | 3, .fin n m e =>
    if m = 0 then (f32.signBit true + f32.infBits, 2)
    else if n then (f32.nanBits, 1)
    else
      let k := Nat.log2 m
      let i : Int := e + (k : Nat)
      if m = 2 ^ k then roundInt f32 0 false i 0 false
      else
        let z := (m - 2 ^ k) * 2 ^ fxP / (m + 2 ^ k)
        let l : Int := (2 * atanhFx z * 2 ^ fxP / ln2Fx : Nat) + i * (2 ^ fxP : Nat)
        fxRound (decide (l < 0)) l.natAbs 0
  -- FSIN, FCOS
  | 4, .inf _ => (f32.nanBits, 1)
  | 4, .fin n m e =>
    if m = 0 then (f32.signBit n, 0)
    else let v := trigFx true (reduce2pi m e); fxRound (decide (v < 0) != n) v.natAbs 0
  | 5, .inf _ => (f32.nanBits, 1)
  | 5, .fin _ m e => let v := trigFx false (reduce2pi m e); fxRound (decide (v < 0)) v.natAbs 0
  -- FTANH
  | _, .inf n => (f32.signBit n + 127 * 2 ^ 23, 0)
  | _, .fin n m e =>
    if m = 0 then (f32.signBit n, 0)
    else if e ≥ 5 ∨ m * 2 ^ (e + 200).toNat ≥ 16 * 2 ^ 200 then (f32.signBit n + 127 * 2 ^ 23, 0)
    else
      let y := expFx (2 * toFx m e)
      fxRound n ((y - 2 ^ fxP) * 2 ^ fxP / (y + 2 ^ fxP)) 0

/-- A subnormal encoding flushed to zero of its sign (DEDUCED, log 21). -/
def flushBits (F : Fmt) (v : Nat) : Nat := if bits v F.f F.e = 0 then v / 2 ^ (F.e + F.f) * 2 ^ (F.e + F.f) else v

/-- One lane of the special-function unit (R128): widened exactly, computed in f32, rounded to the type. Of the rounding's
flags only an overflow's are kept. -/
def sfuLane (fn ty : Nat) (ftz : Bool) (v : Nat) : Nat × Nat :=
  let F := fmtOf ty
  let ov (n : Nat) : Nat := if bits n 2 1 = 1 then 4 + 16 else 0
  match unpack F ftz v with
  | .nan s => (F.nanBits, if s then 1 else 0)
  | a =>
    let r := sfuF32 fn a
    let r32 := if ftz then flushBits f32 r.1 else r.1
    let fl := Nat.lor (r.2 % 4) (ov r.2)
    if ty = 2 then (r32, fl)
    else match unpack f32 false r32 with
      | .nan _ => (F.nanBits, fl)
      | .inf n => (F.signBit n + F.infBits, fl)
      | .fin n m e =>
        let q := roundTo F 0 false n m e false
        (if ftz then flushBits F q.1 else q.1, Nat.lor fl (ov q.2))

/-- FRCP to FTANH: the result enters the group's queue of 16 (R48, R128). -/
def sfuB (fn : Nat) (d a : Nat) (c : Ctx) (s : State) : Act :=
  let g := s.grp c.gid
  if c.act = 0 then .done s
  else if g.sfu.length ≥ 16 then .wait s .sfu
  else
    let r := lanes.map fun l => if c.act.getLsbD l then sfuLane fn c.ty (modeFtz c.mode) (g.rdT c.ty a l) else (0, 0)
    let fl := r.foldl (fun n p => Nat.lor n p.2) 0
    .done (onGrp s c fun g =>
      { (g.raise fl) with sfu := g.sfu ++ [⟨d, c.act, r.map fun p => BitVec.ofNat 32 p.1, none⟩] })

/-! ### Conversion (R129 to R131) -/

/-- A float as an integer of a type: rounded, then clamped; NX where the result written is not the exact value, by rounding or by
clamping (R129, R206) (DEDUCED, log 23). -/
def floatToInt (ty rm : Nat) (a : Num) : Nat × Nat :=
  match a with
  | .nan _ => (0, 1)
  | .inf n => (wrapT ty (if n then minOf ty else maxOf ty), 17)
  | .fin n m e =>
    let r := toIntR rm n m e
    let cl := clampT ty r.1 ≠ r.1
    (wrapT ty (clampT ty r.1), Nat.lor (if cl then 1 else 0) (if r.2 || cl then 16 else 0))

/-- A float of one format as another's (R129). -/
def floatToFloat (F : Fmt) (rm : Nat) (ftz : Bool) (a : Num) : Nat × Nat :=
  match a with
  | .nan s => (F.nanBits, if s then 1 else 0)
  | .inf n => (F.signBit n + F.infBits, 0)
  | .fin n m e => roundTo F rm ftz n m e false

/-- One value converted between types (R129) (DEDUCED, log 21). -/
def convert (src ty rm : Nat) (ftz sat : Bool) (v : Nat) : Nat × Nat :=
  if isFloat src then
    let a := unpack (fmtOf src) ftz v
    if isFloat ty then floatToFloat (fmtOf ty) rm ftz a else floatToInt ty rm a
  else
    let i := intOf src v
    if isFloat ty then roundInt (fmtOf ty) rm ftz i 0 false else (satT ty sat i, 0)

def cvtB (src : Nat) (d a : Nat) (c : Ctx) (s : State) : Act :=
  flagT c s d fun g l => convert src c.ty (modeRnd c.mode) (modeFtz c.mode) (modeSat c.mode) (g.rdT src a l)

/-- CVTI rounds toward zero (R130). -/
def cvtiB (src : Nat) (d a : Nat) (c : Ctx) (s : State) : Act :=
  flagT c s d fun g l => convert src c.ty 1 (modeFtz c.mode) (modeSat c.mode) (g.rdT src a l)

/-- The type PACK reads and UNPK writes: s32, n32 or f32 (R131). -/
def wideTy (ty : Nat) : Nat := if isFloat ty then 2 else if isSigned ty then 0 else 1

def packB (d a b : Nat) (c : Ctx) (s : State) : Act :=
  flag32 c s d fun g l =>
    let e (r : Nat) : Nat × Nat :=
      convert (wideTy c.ty) c.ty (modeRnd c.mode) (modeFtz c.mode) (modeSat c.mode) (g.vl r l).toNat
    (if wBits c.ty = 16 then (e a).1 + (e b).1 * 2 ^ 16
      else (g.vl d l).toNat / 2 ^ 16 + ((e a).1 + (e b).1 * 2 ^ 8) * 2 ^ 16, Nat.lor (e a).2 (e b).2)

/-- Element i of a packed register, widened exactly (R131) (DEDUCED, log 22). -/
def unpkEl (ty : Nat) (ftz : Bool) (v i : Nat) : Nat × Nat :=
  convert ty (wideTy ty) 0 ftz false (bits v (wBits ty * i) (wBits ty))

def unpkB (d a : Nat) (c : Ctx) (s : State) : Act :=
  let n := 32 / wBits c.ty
  .done (onGrp s c fun g =>
    let el (i l : Nat) : Nat × Nat := unpkEl c.ty (modeFtz c.mode) (g.vl a l).toNat i
    let g' := (List.range n).foldl (fun h i => h.putV (d + i) c.act fun l => BitVec.ofNat 32 (el i l).1) g
    g'.raise (laneFlags c.act fun l => (List.range n).foldl (fun x i => Nat.lor x (el i l).2) 0))

/-! ### Quantisation (R132 to R135) -/

/-- Bin i of the histogram at h: lane i mod 32 of register h + i/32. -/
def histBin (g : Group) (h i : Nat) : Nat := (g.vl (h + i / 32) (i % 32)).toNat

/-- Writes all 64 bins. -/
def setHist (g : Group) (h : Nat) (f : Nat → Nat) : Group :=
  (g.putV h (BitVec.allOnes 32) fun l => BitVec.ofNat 32 (f l)).putV (h + 1) (BitVec.allOnes 32) fun l =>
    BitVec.ofNat 32 (f (32 + l))

/-- A poisoned register of the histogram pair is read whatever lanes are active (R132, R318). -/
def histPois (g : Group) (h : Nat) : Bool := (g.vPois h ||| g.vPois (h + 1)) != 0

/-- QHIST and QSCALE read the control word of the lowest active lane alone; a poisoned one is a use (R132, R318). -/
def ctlPois (g : Group) (b l0 : Nat) : Bool := (g.vPois b).getLsbD l0

/-- Width of a format code (R132). -/
def fmtWidth (fmt : Nat) : Nat := match fmt with | 0 => 8 | 1 => 6 | 2 => 4 | _ => 16

def qclrB (h : Nat) (c : Ctx) (s : State) : Act := .done (onGrp s c fun g => setHist g h fun _ => 0)

/-- The bin of a value, none for a NaN (R133) (DEDUCED, log 27). -/
def histIx (v b : Nat) : Option Nat :=
  let e := bits v 23 8
  if e = 255 ∧ bits v 0 23 ≠ 0 then none
  else if e = 0 then some 0
  else some (min 63 (e + 63 - b))

def qhistB (h a b : Nat) (c : Ctx) (s : State) : Act :=
  let g := s.grp c.gid
  match lowLane c.act with
  | none => .done s
  | some l0 =>
    if histPois g h || ctlPois g b l0 then .fault s (flt 15 0)
    else
      let base := bits (g.vl b l0).toNat 0 8
      let ix := (lanesOf c.act).map fun l => histIx (g.vl a l).toNat base
      let n (i : Nat) : Nat := (ix.filter (· == some i)).length
      .done (onGrp s c fun g =>
        (setHist g h fun i => min (histBin g h i + n i) 0xFFFF_FFFF).raise (if ix.any (·.isNone) then 1 else 0))

/-- QSCALE's scale from the bins (R134). -/
def qscaleOf (bin : Nat → Nat) (b q w : Nat) : Nat :=
  let n := ((List.range 64).map bin).sum
  if n = 0 then 127
  else
    let t := max 1 ((n * q + 1023) / 1024)
    let k := ((List.range 64).find? fun i => decide (((List.range (i + 1)).map bin).sum ≥ t)).getD 63
    min 254 (b + k + 2 - 63 - w)

def qscaleB (d h b : Nat) (c : Ctx) (s : State) : Act :=
  let g := s.grp c.gid
  match lowLane c.act with
  | none => .done s
  | some l0 =>
    if histPois g h || ctlPois g b l0 then .fault s (flt 15 0)
    else
      let ctl := (g.vl b l0).toNat
      let q := bits ctl 10 11
      let f := bits ctl 8 2
      if q > 1024 then .fault s (flt 1 4)
      else .done (onGrp s c fun g => g.putV d c.act fun _ =>
        BitVec.ofNat 32 (qscaleOf (histBin g h) (bits ctl 0 8) q (fmtWidth f) + f * 256))

/-- QUANT of one lane (R135). -/
def quantLane (v ctl : Nat) : Nat × Nat :=
  let s := bits ctl 0 8
  let w := fmtWidth (bits ctl 8 2)
  let lo : Int := -(2 ^ (w - 1) : Nat)
  let hi : Int := (2 ^ (w - 1) : Nat) - 1
  match unpack f32 false v with
  | .nan _ => (0, 1)
  | .inf n => if s = 0xFF then (0, 0) else (wrapT 0 (if n then lo else hi), 16)
  | .fin n m e =>
    if s = 0xFF then (0, 0)
    else
      let r := toIntR 0 n m (e + 127 - (s : Int))
      let d := max lo (min hi r.1)
      (wrapT 0 d, if r.2 || d != r.1 then 16 else 0)

def quantB (d a b : Nat) (c : Ctx) (s : State) : Act :=
  flag32 c s d fun g l => quantLane (g.vl a l).toNat (g.vl b l).toNat

/-- DEQ of one lane (R135). -/
def deqLane (rm : Nat) (ftz : Bool) (v ctl : Nat) : Nat × Nat :=
  let s := bits ctl 0 8
  let w := fmtWidth (bits ctl 8 2)
  if s = 0xFF then (f32.nanBits, 0)
  else roundInt f32 rm ftz ((BitVec.ofNat w v).toInt) ((s : Int) - 127) false

def deqB (d a b : Nat) (c : Ctx) (s : State) : Act :=
  flag32 c s d fun g l => deqLane (modeRnd c.mode) (modeFtz c.mode) (g.vl a l).toNat (g.vl b l).toNat

end Sys2Proof.Machine
end

