-- ==== Sys2Proof/Machine/Memory.lean ====
section
/-! DEFINITION. The effects of the memory instructions at issue (R143 to R166): addresses, the checks of every lane before
any lane performs, and the operations they leave outstanding. What completes them is in Async. -/
set_option linter.all false
namespace Sys2Proof.Machine

/-! ### Conversions of LDX and STX (R150) -/

/-- What LDX writes: f32 for the formats, an extension for the integers (R150). -/
def ldxReg (ty v : Nat) : Nat := if ty = 3 ∨ ty = 4 ∨ ty = 12 ∨ ty = 13 then widenF32 ty v else regOfMem ty v

/-- What STX stores, with the flags it sets (R150). -/
def stxMem (ty : Nat) (mode : Word) (x : Word) : Nat × Nat :=
  if ty = 3 ∨ ty = 4 ∨ ty = 12 ∨ ty = 13 then narrowF32 ty (modeRnd mode) (modeFtz mode) (modeSat mode) x.toNat
  else (satNarrow ty (modeSat mode) x, 0)

/-! ### Addresses -/

/-- EA(l) of R143: base pair, lane register unless 0xFF, byte offset, modulo 2^64. -/
def effAddr (g : Group) (b : BitVec 3) (k : VReg) (off : DWord) (l : Nat) : Nat :=
  (g.sreg64 (2 * b.toNat) + (if k = 0xFF then 0 else (g.vl k.toNat l).signExtend 64) + off).toNat

/-- o(l) of R143, in 32 bits. -/
def locAddr (g : Group) (k : VReg) (off : DWord) (l : Nat) : Nat :=
  ((if k = 0xFF then 0 else g.vl k.toNat l) + off.extractLsb' 0 32).toNat

/-- PrivAddr(l, o) of R221. -/
def privAddr (pb o l : Nat) : Nat := pb + o / 4 * 128 + 4 * l + o % 4

/-! ### The checks of every lane (R145, R297) -/

/-- What one lane's address comes to. -/
inductive LaneRes where
  | ok (l va key leaf level : Nat)
  | bad (l va cause flag : Nat)
  | held (l va : Nat)
  deriving DecidableEq, Repr

/-- Checks one lane: alignment, then translation, then write protection. -/
def checkLane (s : State) (asid core : Nat) (k : Acc) (w va l : Nat) : LaneRes :=
  if va % w ≠ 0 then .bad l va 5 0
  else match translate s asid va k l with
    | .fault c f => .bad l va c f
    | .collapse => .held l va
    | .ok key leaf level =>
      if (k = .write ∨ k = .atomic) ∧ sharedFault s asid va key core then .bad l va 9 0
      else .ok l va key leaf level

/-- The fault of an access, if a lane fails: the lowest failing lane's class and address, the lanes that failed in it. -/
def lanesFault (rs : List LaneRes) : Option FaultInfo :=
  let bads := rs.filterMap fun r => match r with | .bad l va c f => some (l, va, c, f) | _ => none
  match bads with
  | [] => none
  | (l, va, c, f) :: _ => some (fltL c f va true (maskOf fun i => bads.any fun b => b.1 == i && b.2.2.1 == c))

/-- The lanes whose writes are held for collapse (R304). -/
def lanesHeld (rs : List LaneRes) : List (Nat × Nat) :=
  rs.filterMap fun r => match r with | .held l va => some (l, va) | _ => none

/-- The lanes that passed: lane, virtual address, key, leaf, level. -/
def lanesOk (rs : List LaneRes) : List (Nat × Nat × Nat × Nat × Nat) :=
  rs.filterMap fun r => match r with | .ok l va k e v => some (l, va, k, e, v) | _ => none

/-- Runs the checks for accesses, each a lane and its address, in lane order; then goes on with those that passed. -/
def withAccs (c : Ctx) (s : State) (k : Acc) (w : Nat) (xs : List (Nat × Nat))
    (go : List (Nat × Nat × Nat × Nat × Nat) → Act) : Act :=
  let g := s.grp c.gid
  let asid := s.asidOf g
  let rs := xs.map fun x => checkLane s asid (s.coreOf g) k w x.2 x.1
  match lanesFault rs with
  | some f => .fault s f
  | none => match lanesHeld rs with
    | [] => go (lanesOk rs)
    | h => .wait s (.collapse asid h)

/-- The same for the lanes of a mask. -/
def withLanes (c : Ctx) (s : State) (k : Acc) (w : Nat) (m : Lanes) (addr : Nat → Nat)
    (go : List (Nat × Nat × Nat × Nat × Nat) → Act) : Act :=
  withAccs c s k w ((lanesOf m).map fun l => (l, addr l)) go

/-- Keeps the translations used; the free choices made are spent (R298, assumption 4). -/
def noteAll (s : State) (asid : Nat) (as_ : List (Nat × Nat × Nat × Nat × Nat)) : State :=
  let s := as_.foldl (fun s a => noteTlb s asid a.2.1 a.2.2.2.1 a.2.2.2.2) s
  { s with fresh := s.fresh + 1 }

/-! ### Orders (R147) -/

/-- Whether the order field acquires or releases for a kind of access: 0 load, 1 store, 2 atomic. -/
def acquires (kind o : Nat) : Bool := kind != 1 && (o == 1 || o == 3)
def releases (kind o : Nat) : Bool := kind != 0 && (o == 2 || o == 3)
/-- An access is plain when its scope is group and its order relaxed: its order field 0. One whose kind ignores a nonzero order is
strong, for the rule makes every other access of form M so (R146, R147) (DEDUCED, log 16). -/
def strongAcc (sc o : Nat) : Bool := !(sc == 0 && o == 0)

/-! ### Events of lanes -/

/-- An event of each accessing lane, in lane order. -/
def laneEvents (s : State) (gid : Nat) (as_ : List (Nat × Nat × Nat)) : List LaneAcc × State :=
  as_.foldl (fun (p : List LaneAcc × State) a =>
    let ag := laneAgent gid a.1
    let (n, o) := p.2.ord.event ag []
    (p.1 ++ [⟨a.1, a.2.1, a.2.2, n⟩], { p.2 with ord := o })) ([], s)

/-- Registers of a destination: one, or a pair for the 64-bit types. -/
def addPendV (g : Group) (d n : Nat) : Group := (List.range n).foldl (fun g i => g.addPend 0 (d + i)) g

/-- Enqueues an operation counted in LDC. -/
def pushLoad (s : State) (gid : Nat) (op : LoadOp) (dregs : Nat) : State :=
  s.modGrp gid fun g =>
    let g := match op.dst with | some (_, d) => addPendV g d dregs | none => g
    { g with loads := g.loads ++ [{ op with seq := g.seq, after := g.relSeq }], seq := g.seq + 1 }

/-- Enqueues an operation counted in STC. -/
def pushStore (s : State) (gid : Nat) (op : StoreOp) : State :=
  s.modGrp gid fun g => { g with stores := g.stores ++ [{ op with seq := g.seq, after := g.relSeq }], seq := g.seq + 1 }

/-- Lanes of an access whose line is parked for a set that excludes the core (R154, R241) (DEDUCED, log 51). -/
def exclMask (s : State) (core asid : Nat) (as_ : List (Nat × Nat × Nat × Nat × Nat)) : Lanes :=
  maskOf fun l => as_.any fun a => a.1 == l && excluded s a.2.2.1 core asid

/-- Lanes whose page has CACHE 2 (R296). -/
def twoMask (as_ : List (Nat × Nat × Nat × Nat × Nat)) : Lanes :=
  maskOf fun l => as_.any fun a => a.1 == l && bits a.2.2.2.1 8 2 == 2

/-- The lines of an STN that it parks: `opv` holds for each lane whether it does (R153). -/
def StoreOp.parked (op : StoreOp) : List Nat :=
  (op.accs.filter fun a => ((op.opv.lookup a.lane).map fun o => o.2 % 2 == 1).getD false).map (·.pa / 128)

/-- An STN or REPARK of the group has yet to park one of the lines for a set that excludes its core: an access that follows it to
the line is sent after it (R145, R153, R241) (DEDUCED, log 51). -/
def ownPark (s : State) (gid : Nat) (as_ : List (Nat × Nat × Nat × Nat × Nat)) : Bool :=
  let core := s.coreOf (s.grp gid)
  (s.grp gid).stores.any fun op => match op.kind with
    | .stn d => !inSet s d core && as_.any fun a => op.parked.contains (a.2.2.1 / 128)
    | .range 2 d lo n => !inSet s d core && n != 0 && as_.any fun a => lo / 128 ≤ a.2.1 / 128 && a.2.1 / 128 ≤ (lo + n - 1) / 128
    | _ => false

/-- Holds an access at a parked line that excludes the core: the fragment waits for the detection (R145, R241)
(DEDUCED, log 51). -/
def holdAt (c : Ctx) (s : State) (excl : Lanes) (as_ : List (Nat × Nat × Nat × Nat × Nat)) (ld : Option LoadOp)
    (st : Option StoreOp) : Act :=
  let bad := as_.filter fun a => excl.getLsbD a.1
  let h : HeldOp := ⟨ld, st, excl, bad.map (·.2.2.1), (bad.head?.map (·.2.1)).getD 0⟩
  .wait (s.modGrp c.gid fun g => { g with held := aput c.fid h g.held }) (.locate c.fid)

/-! ### Global loads (R149, R150) -/

/-- The address of the instruction a fragment executes, its LIT's for a literal's consumer (R67). -/
def instPc (c : Ctx) (s : State) : DWord := ((s.grp c.gid).frag c.fid).faultPc

/-- A load of the load queue, without its accesses. -/
def mkLoad (c : Ctx) (s : State) (kind : LoadKind) (sc o : Nat) (dst : Option (Nat × Nat)) : LoadOp :=
  ⟨0, c.fid, kind, c.ty, widthOf c.ty, sc, o, strongAcc sc o, dst, [], [], [], 0, c.own s, 0, instPc c s,
    ((s.grp c.gid).frag c.fid).did + 1⟩

/-- An operation counted in STC, without its accesses. -/
def mkStore (c : Ctx) (s : State) (kind : StoreKind) (sc o : Nat) : StoreOp :=
  ⟨0, c.fid, kind, c.ty, widthOf c.ty, sc, o, strongAcc sc o, [], [], 0, 0, instPc c s, ((s.grp c.gid).frag c.fid).did + 1,
    (s.grp c.gid).flags⟩

/-- The bytes that the lanes of an atomic will write, by their events. -/
def pendOf (w : Nat) (accs : List LaneAcc) : List (Nat × Nat × Nat) := accs.map fun a => (a.node, a.pa, w)

/-- What acquiring loads find acknowledged as they issue (R253). -/
def noteFloors (s : State) (gid : Nat) (acq : Bool) (sc w : Nat) (accs : List LaneAcc) : State :=
  if acq then accs.foldl (fun s a => noteFloor s (laneAgent gid a.lane) a.node a.pa w (s.placeOf gid) sc) s else s

def loadB (ext : Bool) (d k : VReg) (sc : BitVec 3) (o : BitVec 2) (b : BitVec 3) (c : Ctx) (s : State) : Act :=
  let g := s.grp c.gid
  if c.act = 0 then .done s
  else if g.ldc ≥ 63 then .wait s (.full 0)
  else
    let w := widthOf c.ty
    withLanes c s .read w c.act (effAddr g b k c.imm) fun as_ =>
      let ex := exclMask s (s.coreOf g) (s.asidOf g) as_
      let op := mkLoad c s (.load ext) sc.toNat o.toNat (some (0, d.toNat))
      if ownPark s c.gid as_ then .wait s .stores
      else if ex ≠ 0 then holdAt c s ex as_ (some op) none
      else
        let s := noteAll s (s.asidOf g) as_
        let (accs, s) := laneEvents s c.gid (as_.map fun a => (a.1, a.2.1, a.2.2.1))
        let s := noteFloors s c.gid (acquires 0 o.toNat) sc.toNat w accs
        .done (pushLoad s c.gid { op with accs := accs } (if ext then 1 else regsOf c.ty))

/-! ### Global stores (R149, R150, R153) -/

/-- Of lanes that name one address, only the highest writes (R149): the widths are equal and aligned. -/
def topLanes (as_ : List (Nat × Nat × Nat × Nat × Nat)) : List (Nat × Nat × Nat × Nat × Nat) :=
  as_.filter fun a => !(as_.any fun b => b.2.1 == a.2.1 && a.1 < b.1)

/-- Enters the writes of a store in W(x), at issue and not yet performed; with the releases each carries (R247). One that Shallot
discards enters nothing (R306). -/
def enterWrites (s : State) (gid : Nat) (sc o w : Nat) (accs : List LaneAcc) (val : Nat → Nat) : State :=
  accs.foldl (fun s a =>
    let ag := laneAgent gid a.lane
    let x := s.ord.ag ag
    if s.foreign (s.asidOf (s.grp gid)) a.pa then s else
    s.addWrite ⟨a.node, ag, s.placeOf gid, a.pa, natLe w (val a.lane), strongAcc sc o, sc, false, false,
      relOf x a.node (s.placeOf gid) sc (releases 1 o) (strongAcc sc o), none, [], [], false⟩) s

/-- Whether a store parks the line of a lane: an STN that does not act as an ordinary store, as it finds the set, the clusters and the
core when it issues (R153) (DEDUCED, log 52). -/
def parksAt (s : State) (gid : Nat) (kind : StoreKind) (a : Nat × Nat × Nat × Nat × Nat) : Bool :=
  let g := s.grp gid
  match kind with
  | .stn d => !stnOrdinary s (s.asidOf g) (s.team g.team).launch d a.2.2.1 (leafPark a.2.2.2.1)
  | _ => false

/-- What a store keeps of each lane: its value, and in one number the flags it raises above whether it parks the line. -/
def storeOpv (s : State) (gid : Nat) (kind : StoreKind) (vals : Nat → Nat × Nat)
    (as_ : List (Nat × Nat × Nat × Nat × Nat)) : List (Nat × Nat × Nat) :=
  as_.map fun a => (a.1, (vals a.1).1, (if parksAt s gid kind a then 1 else 0) + 2 * (vals a.1).2)

/-- The flags that lanes of a store raise. -/
def opvFlags (opv : List (Nat × Nat × Nat)) (m : Lanes) : Word :=
  BitVec.ofNat 32 (opv.foldl (fun n x => if m.getLsbD x.1 then Nat.lor n (x.2.2 / 2) else n) 0)

def storeB (kind : StoreKind) (val : Group → Word → Nat → Nat × Nat) (d k : VReg) (sc : BitVec 3) (o : BitVec 2)
    (b : BitVec 3) (c : Ctx) (s : State) : Act :=
  let g := s.grp c.gid
  let m := match c.replay with | some r => c.act &&& r | none => c.act
  if m = 0 then .done s
  else if g.stc ≥ 63 then .wait s (.full 1)
  else
    let w := widthOf c.ty
    withLanes c s .write w m (effAddr g b k c.imm) fun as_ =>
      let ex := match kind with
        | .store => exclMask s (s.coreOf g) (s.asidOf g) as_
        | _ => 0
      let op := { mkStore c s kind sc.toNat o.toNat with opv := storeOpv s c.gid kind (val g c.mode) as_ }
      let srv := topLanes (as_.filter fun a => !ex.getLsbD a.1)
      if kind = .store ∧ ownPark s c.gid as_ then .wait s .stores
      else if ex ≠ 0 then
        holdAt c s ex as_ none (some { op with accs := srv.map fun a => ⟨a.1, a.2.1, a.2.2.1, 0⟩ })
      else
        let pxc := match kind with | .stn dsc => stnPxc s (s.asidOf g) dsc && as_.any fun a => !parksAt s c.gid kind a | _ => false
        let s := noteAll s (s.asidOf g) as_
        let (accs, s) := laneEvents s c.gid (srv.map fun a => (a.1, a.2.1, a.2.2.1))
        let s := enterWrites s c.gid sc.toNat o.toNat w accs fun l => (val g c.mode l).1
        let s := s.modGrp c.gid fun g =>
          { g with flags := g.flags ||| opvFlags op.opv m ||| (if pxc then 0x100 else 0) }
        .done (pushStore s c.gid { op with accs := accs })

/-- ST: the register's value (R149). -/
def stVal (d : VReg) (g : Group) (mode : Word) (l : Nat) : Nat × Nat := (storeVal g (modeType mode) d.toNat l, 0)
/-- STX: the converted value and its flags (R150). -/
def stxVal (d : VReg) (g : Group) (mode : Word) (l : Nat) : Nat × Nat := stxMem (modeType mode) mode (g.vl d.toNat l)

def stB (d k : VReg) (sc : BitVec 3) (o : BitVec 2) (b : BitVec 3) : Ctx → State → Act :=
  storeB .store (stVal d) d k sc o b
def stxB (d k : VReg) (sc : BitVec 3) (o : BitVec 2) (b : BitVec 3) : Ctx → State → Act :=
  storeB .store (stxVal d) d k sc o b
def stnB (d k : VReg) (sc : BitVec 3) (o : BitVec 2) (b : BitVec 3) (c : Ctx) (s : State) : Act :=
  storeB (.stn (s.grp c.gid).rset) (stVal d) d k sc o b c s

/-- A write that covers a whole poisoned line clears its mark (R318). -/
def clearPois (s : State) (keys : List (Nat × Nat)) : State :=
  if s.mpois.isEmpty then s
  else
    let covered (line : Nat) : Bool := (List.range 128).all fun i =>
      keys.any fun k => k.1 ≤ line * 128 + i && line * 128 + i < k.1 + k.2
    { s with mpois := s.mpois.filter fun l => !covered l }

/-! ### Atomics and reductions (R155, R156) -/

/-- Op(old, x) by operation: 0 add, 1 minimum, 2 maximum, 3 and, 4 or, 5 xor, 6 exchange, 7 compare (`y` is the swap). -/
def atomicOp (op ty old x y : Nat) : Nat :=
  let w := 8 * widthOf ty
  let F := fmtOf ty
  let fl := ty == 2 || ty == 5
  let sg := ty == 0 || ty == 6
  let lt (a b : Nat) : Bool :=
    if sg then decide ((BitVec.ofNat w a).toInt < (BitVec.ofNat w b).toInt) else decide (a < b)
  match op with
  | 0 => if fl then (fAdd F 0 false (unpack F false old) (unpack F false x)).1 else (old + x) % 2 ^ w
  | 1 => if fl then (fMinMax F false (unpack F false old) (unpack F false x)).1 else if lt x old then x else old
  | 2 => if fl then (fMinMax F true (unpack F false old) (unpack F false x)).1 else if lt old x then x else old
  | 3 => Nat.land old x
  | 4 => Nat.lor old x
  | 5 => Nat.xor old x
  | 6 => x
  | _ => if old = x then y else old

/-- Lane operands of an atomic: compare or operand, and swap (R156). -/
def atOperands (g : Group) (ty d l : Nat) : Nat × Nat :=
  if is64 ty then ((g.vl64 d l).toNat, (g.vl64 (d + 2) l).toNat) else ((g.vl d l).toNat, (g.vl (d + 1) l).toNat)

/-- A returning atomic (R156). Device and system scope demote a parked line (R154). -/
def atomicB (aop : Nat) (d k : VReg) (sc : BitVec 3) (o : BitVec 2) (b : BitVec 3) (c : Ctx) (s : State) : Act :=
  let g := s.grp c.gid
  let m := match c.replay with | some r => c.act &&& r | none => c.act
  if m = 0 then .done s
  else if g.ldc ≥ 63 then .wait s (.full 0)
  else
    let w := widthOf c.ty
    withLanes c s .atomic w m (effAddr g b k c.imm) fun as_ =>
      let ex := if sc.toNat ≤ 3 then exclMask s (s.coreOf g) (s.asidOf g) as_ else 0
      let srv := as_.filter fun a => !ex.getLsbD a.1
      let opv := srv.map fun a => (a.1, atOperands g c.ty d.toNat a.1)
      let op := { mkLoad c s (.atomic aop) sc.toNat o.toNat (some (0, d.toNat)) with opv := opv, two := twoMask as_ }
      if sc.toNat ≤ 3 ∧ ownPark s c.gid as_ then .wait s .stores
      else if ex ≠ 0 then holdAt c s ex as_ (some { op with accs := srv.map fun a => ⟨a.1, a.2.1, a.2.2.1, 0⟩ }) none
      else
        let s := noteAll s (s.asidOf g) as_
        let (accs, s) := laneEvents s c.gid (srv.map fun a => (a.1, a.2.1, a.2.2.1))
        let s := noteFloors s c.gid (acquires 2 o.toNat) sc.toNat w accs
        .done (pushLoad (s.notePend (pendOf w accs)) c.gid { op with accs := accs } (regsOf c.ty))

/-- A reduction (R155, R156): counted in STC, returns nothing. -/
def reduceB (aop : Nat) (d k : VReg) (sc : BitVec 3) (o : BitVec 2) (b : BitVec 3) (c : Ctx) (s : State) : Act :=
  let g := s.grp c.gid
  if c.act = 0 then .done s
  else if g.stc ≥ 63 then .wait s (.full 1)
  else
    let w := widthOf c.ty
    withLanes c s .atomic w c.act (effAddr g b k c.imm) fun as_ =>
      let op := { mkStore c s (.red aop) sc.toNat o.toNat with
        opv := as_.map fun (a : Nat × Nat × Nat × Nat × Nat) => (a.1, atOperands g c.ty d.toNat a.1), two := twoMask as_ }
      let s := noteAll s (s.asidOf g) as_
      let (accs, s) := laneEvents s c.gid (as_.map fun a => (a.1, a.2.1, a.2.2.1))
      .done (pushStore (s.notePend (pendOf w accs)) c.gid { op with accs := accs })

/-! ### Local store and lane-private memory (R151, R219 to R222) -/

/-- The local-store checks of every lane: alignment, then the window (R144, R151). -/
def lsFault (w lim : Nat) (m : Lanes) (addr : Nat → Nat) : Option FaultInfo :=
  let chk (l : Nat) : Option (Nat × Nat) :=
    if addr l % w ≠ 0 then some (5, 0) else if addr l ≥ lim then some (6, 8) else none
  let bads := (lanesOf m).filterMap fun l => (chk l).map fun e => (l, e)
  match bads with
  | [] => none
  | (l, e) :: _ => some (fltL e.1 e.2 (addr l) false (maskOf fun i => bads.any fun b => b.1 == i && b.2.1 == e.1))

/-- The bytes of a poisoned 4-byte window word that a range touches (R318). -/
def winPois (t : Team) (o w : Nat) : Bool := t.wpois.any fun x => decide (x * 4 < o + w) && decide (o < x * 4 + 4)

/-- A window's byte as the ordering rules name it: no object holds it. -/
def winRef (tid o : Nat) : ByteRef := ⟨lsKey tid o, 2 ^ 64⟩

/-- The candidates a group's event takes for w bytes of a window, for a lane: per 4-byte word one of them (R151, R220); the
choice is free (assumption 4). -/
def lsCands (s : State) (gid l tid o w ch node : Nat) : List (Nat × Cand) :=
  (loadCands s node (laneAgent gid l) (winRef tid o) w (s.placeOf gid) none true ch).1

/-- A read of a window by a group in its program order, for a lane: what the lane observes (R251), and the bytes. -/
def lsRead (s : State) (gid l tid o w ch node : Nat) : State × List Byte :=
  let got := lsCands s gid l tid o w ch node
  (returnLoad s (laneAgent gid l) node (s.placeOf gid) 0 false false [] got, got.map fun x => candByte s x.1 x.2)

/-- A group's next local-store event. Its lanes' accesses to memory do not follow one another through it (R246). -/
def lsEvent (s : State) (gid : Nat) (ls : List Nat) : Nat × State :=
  let o := s.ord
  let x := o.ag (lsAgent gid)
  let (n, o) := o.newNode2 (ls.filterMap fun l => (o.ag (laneAgent gid l)).at_) x.at_.toList
  (n, { s with ord := o.setAg (lsAgent gid) { x with at_ := some n } })

/-- The lanes of an LDS in order: what each observes (R251), and the value it loads. -/
def lsLoads (s : State) (gid tid w node : Nat) (addr : Nat → Nat) (ls : List Nat) : State × List (Nat × Nat) :=
  ls.foldl (fun (p : State × List (Nat × Nat)) l =>
    let r := lsRead p.1 gid l tid (addr l) w (Config.free s.fresh 0 l) node
    (r.1, p.2 ++ [(l, leNat r.2)])) (s, [])

def ldsB (d k : VReg) (c : Ctx) (s : State) : Act :=
  let g := s.grp c.gid
  let t := s.team g.team
  let w := widthOf c.ty
  match lsFault w t.winSize c.act (locAddr g k c.imm) with
  | some f => .fault s f
  | none =>
    if c.act = 0 then .done s
    else
      let (n, s) := lsEvent s c.gid (lanesOf c.act)
      let (s, vals) := lsLoads s c.gid g.team w n (locAddr g k c.imm) (lanesOf c.act)
      let val (l : Nat) : Nat := regOfMem c.ty ((vals.lookup l).getD 0)
      let pois := maskOf fun l => c.act.getLsbD l && winPois t (locAddr g k c.imm l) w
      let s := { s with fresh := s.fresh + 1 }
      .done (s.modGrp c.gid fun g =>
        let g := if is64 c.ty then g.putV64 d.toNat c.act fun l => BitVec.ofNat 64 (val l)
          else g.putV d.toNat c.act fun l => BitVec.ofNat 32 (val l)
        if pois = 0 then g else
          (List.range (regsOf c.ty)).foldl (fun g i => g.setVPois (d.toNat + i) (g.vPois (d.toNat + i) ||| pois)) g)

/-- One local-store write of an event, performed at once, by an agent at a place. -/
def lsWriteAs (s : State) (ag : Nat) (pl : Place) (tid o : Nat) (bytes : List Byte) (node : Nat) : State :=
  let s := s.addWrite ⟨node, ag, pl, lsKey tid o, bytes, true, 1, false, false, [], none, [], [], false⟩
  let s := s.perform node
  s.modTeam tid fun t => { t with wpois := t.wpois.filter fun x => !(o ≤ x * 4 && x * 4 + 4 ≤ o + bytes.length) }

/-- One local-store write of a group's event. -/
def lsWrite (s : State) (gid tid o : Nat) (bytes : List Byte) (node : Nat) : State :=
  lsWriteAs s (lsAgent gid) (s.placeOf gid) tid o bytes node

/-- What an STS leaves in the bytes it names: in each 4-byte word of a barrier that BBINIT has initialised, its own value or the
device's most recent update of the word, a free choice (R176, assumption 4). -/
def stsBytes (s : State) (tid o node : Nat) (bytes : List Byte) : List Byte :=
  bytes.zipIdx.map fun b =>
    let a := o + b.2
    match (s.team tid).bbs.find? fun x => x.1 ≤ a && a < x.1 + 16 with
    | some x => if Config.free node 7 (a / 4) % 2 = 1 then BitVec.ofNat 8 (x.2 / 2 ^ (8 * (a - x.1))) else b.1
    | none => b.1

/-- The bytes that the lanes of an STS write, by offset: of lanes that name one address only the highest writes (R149, R151). -/
def stsCells (g : Group) (ty : Nat) (d : VReg) (addr : Nat → Nat) (ls : List Nat) : List Host.Cell :=
  ls.foldl (fun m l => (natLe (widthOf ty) (storeVal g ty d.toNat l)).zipIdx.foldl (fun m b => aput (addr l + b.2) b.1 m) m) []

/-- STS performs once the group's earlier loads have returned (R252); what its lanes write of one aligned 4-byte word is one write of
it (R220). -/
def stsB (d k : VReg) (c : Ctx) (s : State) : Act :=
  let g := s.grp c.gid
  let t := s.team g.team
  match lsFault (widthOf c.ty) t.winSize c.act (locAddr g k c.imm) with
  | some f => .fault s f
  | none =>
    if c.act = 0 then .done s
    else if !g.loads.isEmpty then .wait s (.ctr 0 63 15 15)
    else
      let (n, s) := lsEvent s c.gid (lanesOf c.act)
      .done ((runsOf (stsCells g c.ty d (locAddr g k c.imm) (lanesOf c.act))).foldl (fun s r =>
        lsWrite s c.gid g.team r.1 (stsBytes s g.team r.1 n r.2) n) s)

/-- The words of a lane-private value: a 64-bit one is two, each at its own offset (R221). -/
def privWords (w o : Nat) : List Nat := if w ≤ 4 then [o] else [o, o + 4]

/-- The private-memory checks: alignment, then the per-lane size, then translation of each word (R151, R221). -/
def withPriv (c : Ctx) (s : State) (k : Acc) (kr : VReg) (go : List (Nat × Nat × Nat × Nat × Nat) → Act) : Act :=
  let g := s.grp c.gid
  let w := widthOf c.ty
  match lsFault w (s.launchOf g).private_ c.act (locAddr g kr c.imm) with
  | some f => .fault s f
  | none => withAccs c s k 1 ((lanesOf c.act).flatMap fun l =>
      (privWords w (locAddr g kr c.imm l)).map fun o => (l, privAddr g.pb.toNat o l)) go

def ldpB (d k : VReg) (c : Ctx) (s : State) : Act :=
  let g := s.grp c.gid
  if c.act = 0 then .done s
  else if g.ldc ≥ 63 then .wait s (.full 0)
  else withPriv c s .read k fun as_ =>
    let s := noteAll s (s.asidOf g) as_
    let (accs, s) := laneEvents s c.gid (as_.map fun a => (a.1, a.2.1, a.2.2.1))
    let op := { mkLoad c s (.load false) 0 0 (some (0, d.toNat)) with width := min 4 (widthOf c.ty) }
    .done (pushLoad s c.gid { op with accs := accs } (regsOf c.ty))

def stpB (d k : VReg) (c : Ctx) (s : State) : Act :=
  let g := s.grp c.gid
  if c.act = 0 then .done s
  else if g.stc ≥ 63 then .wait s (.full 1)
  else withPriv c s .write k fun as_ =>
    let w := widthOf c.ty
    let s := noteAll s (s.asidOf g) as_
    let (accs, s) := laneEvents s c.gid (as_.map fun a => (a.1, a.2.1, a.2.2.1))
    let s := accs.zipIdx.foldl (fun s p =>
      let a := p.1
      let hi := w == 8 && p.2 % 2 == 1
      let v := storeVal g c.ty d.toNat a.lane
      let ag := laneAgent c.gid a.lane
      if s.foreign (s.asidOf g) a.pa then s else
      s.addWrite ⟨a.node, ag, s.placeOf c.gid, a.pa, natLe (min w 4) (if hi then v / 2 ^ 32 else v), false, 0, false,
        false, [], none, [], [], true⟩) s
    .done (pushStore s c.gid { mkStore c s .store 0 0 with accs := accs })

/-! ### Reader sets, fences, ranges (R152, R157 to R161) -/

def srsetB (k : SReg) (c : Ctx) (s : State) : Act :=
  let v := (s.grp c.gid).sreg k.toNat
  if descOk s (s.team (s.grp c.gid).team).launch v then .done (onGrp s c fun g => { g with rset := v }) else .fault s (flt 1 4)

/-- A fence by every lane of the fragment, masked ones as well, each a fence of its own in the order of R256 (R147, R157, R158, R246):
after a release, later stores perform only once the earlier ones are acknowledged; an acquire is noted on the loads still
outstanding. -/
def fenceLanes (c : Ctx) (s : State) (sc o : Nat) (seq : Bool) (obj : Option (Nat × Nat)) : State :=
  let place := s.placeOf c.gid
  let acq := o == 1 || o == 3
  let rel := o == 2 || o == 3
  let r := (lanesOf (c.own s)).foldl (fun (p : List (Nat × Nat) × Ord) l =>
    let ag := laneAgent c.gid l
    let (n, o) := fenceAgent p.2 ag place sc acq rel seq obj
    (p.1 ++ [(l, n)], if seq then scNote o [(ag, n)] (instKey sc place) else o)) ([], s.ord)
  let s := { s with ord := r.2 }
  let s := if rel then s.modGrp c.gid fun g => match obj with
      | none => { g with relSeq := g.seq }
      | some b => { g with objRel := (g.seq, b.1, b.2) :: g.objRel }
    else s
  let mine (op : LoadOp) : List (Nat × Nat × Nat × Option (Nat × Nat)) :=
    (r.1.filter fun p => op.accs.any fun a => a.lane == p.1).map fun p => (p.1, p.2, sc, obj)
  if acq then s.modGrp c.gid fun g =>
    { g with loads := g.loads.map fun op => { op with acqFences := op.acqFences ++ mine op } }
  else s

def fenceB (sc : BitVec 3) (o : BitVec 2) (seq : Bool) (c : Ctx) (s : State) : Act :=
  let g := s.grp c.gid
  if o = 0 then .done s
  else if seq && !(g.loads.isEmpty && g.stores.isEmpty) then .wait s .release
  else .done (fenceLanes c s sc.toNat o.toNat seq none)

/-- OFENCE acts on the object that holds the address; in none it acts as FENCE (R158). -/
def ofenceB (sc : BitVec 3) (o : BitVec 2) (b : BitVec 3) (c : Ctx) (s : State) : Act :=
  let g := s.grp c.gid
  match s.objAt (s.asidOf g) (g.sreg64 (2 * b.toNat)).toNat with
  | none => fenceB sc o false c s
  | some x =>
    if o = 0 then .done s
    else .done (fenceLanes c s sc.toNat o.toNat false (some (x.2.base, x.2.base + x.2.foot)))

/-- RFLUSH 0, RINV 1, REPARK 2, UNPARK 3: counted in STC until the range has been handled (R159) (DEDUCED, log 48). A range past 2^57
has flag 0 and XREC6 its start, which no rule gives (DESIGN CHOICE, log 110). -/
def rangeB (rop : Nat) (n : SReg) (b : BitVec 3) (c : Ctx) (s : State) : Act :=
  let g := s.grp c.gid
  let a := (g.sreg64 (2 * b.toNat) + c.imm).toNat
  let len := (g.sreg n.toNat).toNat
  if c.em = 0 then .done s
  else if g.stc ≥ 63 then .wait s (.full 1)
  else if len ≠ 0 ∧ a + len > 2 ^ 57 then .fault s (fltA 6 0 a)
  else if len = 0 then .done s
  else .done (pushStore s c.gid (mkStore c s (.range rop g.rset a len) 4 0))

/-- PFETCH: counted in LDC; failures are discarded (R160). -/
def pfetchB (k : VReg) (b : BitVec 3) (c : Ctx) (s : State) : Act :=
  let g := s.grp c.gid
  if c.em = 0 then .done s
  else if g.ldc ≥ 63 then .wait s (.full 0)
  else .done (pushLoad s c.gid (mkLoad c s .pfetch 4 0 none) 0)

/-- LOCATE: the faults of a load without alignment; counted in LDC until every line is placed (R161). -/
def locateB (k : VReg) (b : BitVec 3) (c : Ctx) (s : State) : Act :=
  let g := s.grp c.gid
  if c.em = 0 then .done s
  else if g.ldc ≥ 63 then .wait s (.full 0)
  else withLanes c s .read 1 c.em (effAddr g b k c.imm) fun as_ =>
    let s := noteAll s (s.asidOf g) as_
    let op := mkLoad c s .locate 4 0 none
    .done (pushLoad s c.gid { op with accs := as_.map fun a => ⟨a.1, a.2.1, a.2.2.1, 0⟩ } 0)

/-! ### Objects (R163, R164) -/

/-- Only the leader's lane reads a record (R107, R168): the one that a fault on its address names (R310) (DEDUCED, log 57). -/
def leaderMask (c : Ctx) : Lanes := maskOf fun l => l == (lanesOf c.em).headD 0

/-- The lines of a record with their keys and leaves, in order: translated as a load's, and of one that is poisoned or behind a failed
peer port (R320) the poison-use fault, whose flag no rule gives: a free value among those of its class (assumption 4) (DEDUCED, log 56). -/
def recordLines (c : Ctx) (s : State) (va n : Nat) : Except FaultInfo (List (Nat × Nat × Nat × Nat × Nat)) :=
  (partsOf 128 va n).foldr (fun p r =>
    match translate s (s.asidOf (s.grp c.gid)) p.1 .read 0 with
    | .fault k f => .error (fltL k f va true (leaderMask c))
    | .collapse => .error (fltL 6 0 va true (leaderMask c))
    | .ok key leaf level =>
      if s.linePois key || s.portFailed key then .error (fltL 15 (Config.free s.fresh 5 0 % 3) va true (leaderMask c))
      else r.map fun l => (p.1, p.2, key, leaf, level) :: l) (.ok [])

/-- The event of a record's read: after everything the group has issued (R107, R169). -/
def recordEvent (c : Ctx) (s : State) : Nat × Ord :=
  s.ord.newNode (lanes.filterMap fun l => (s.ord.ag (laneAgent c.gid l)).at_)

/-- Reads n bytes of memory for a group's instruction, as a strong relaxed load of the leader's lane after the group's own earlier
stores: what is left of it, and the bytes (R107, R163, R169, R251) (DEDUCED, log 56). -/
def readRecord (c : Ctx) (s : State) (va n : Nat) : Except FaultInfo (State × List Byte) :=
  (recordLines c s va n).map fun ls =>
    let ag := laneAgent c.gid ((lanesOf c.em).headD 0)
    let (nd, o) := recordEvent c s
    let s := { s with ord := o.setAg ag { o.ag ag with at_ := some nd } }
    (ls.flatMap fun p => (partsOf 4 p.1 p.2.1).map fun x => (x.1, x.2, p.2.2.1 + (x.1 - p.1))).foldl (fun (p : State × List Byte) x =>
      if p.1.foreign (s.asidOf (s.grp c.gid)) x.2.2 then (p.1, p.2 ++ List.replicate x.2.1 0)
      else
        let got := (loadCands p.1 nd ag ⟨x.2.2, x.1⟩ x.2.1 (s.placeOf c.gid) none true (Config.free s.fresh 0 (x.1 / 4))).1
        (returnLoad p.1 ag nd (s.placeOf c.gid) 4 false true [] got, p.2 ++ got.map fun q => candByte p.1 q.1 q.2)) (s, [])

/-- A record's read performs after the acquires the group has issued, and after its atomics and those that happen before it
(R147, R250). -/
def recordWaits (c : Ctx) (s : State) (va n : Nat) : Bool :=
  (s.grp c.gid).recordBusy ||
    match recordLines c s va n with
    | .error _ => false
    | .ok ls =>
      let (nd, o) := recordEvent c s
      ls.any fun p => blocked { s with ord := o } nd p.2.2.1 p.2.1

/-- What a record's read leaves besides: another context's parked line goes home (R239), the translations used are kept (R298), Shallot
counts what it refuses (R306), and the choices made are spent. -/
def noteRecord (c : Ctx) (s : State) (va n : Nat) : State :=
  let asid := s.asidOf (s.grp c.gid)
  let s' := match recordLines c s va n with
    | .error _ => s
    | .ok ls =>
      let ks := ls.map fun (p : Nat × Nat × Nat × Nat × Nat) => p.2.2.1
      let s := ls.foldl (fun (s : State) (p : Nat × Nat × Nat × Nat × Nat) => noteTlb (crossDemote s p.2.2.1 asid) asid p.1 p.2.2.2.1 p.2.2.2.2) s
      refuseAll s asid ks
  { s' with fresh := s'.fresh + 1 }

/-- Runs the rest of an instruction on the record it reads. -/
def withRecord (c : Ctx) (s : State) (va n : Nat) (k : List Byte → State → Act) : Act :=
  if recordWaits c s va n then .wait s .acquire
  else match readRecord c s va n with
    | .error e => .fault (noteRecord c s va n) e
    | .ok r => k r.2 (noteRecord c r.1 va n)

/-- The footprint of a shape record, rounded up to 256 bytes (R163). -/
def footOf (r : List Byte) : Nat :=
  let x := ((List.range (field r 9 1)).map fun k => (shExt r k - 1) * shStride r k).sum + 2 ^ field r 8 1
  (x + 255) / 256 * 256

/-- The rules of the shape record's table (R163). -/
def shapeOk (r : List Byte) : Bool :=
  let rank := field r 9 1
  field r 0 8 % 256 == 0 && field r 8 1 ≤ 3 && 1 ≤ rank && rank ≤ 8 && field r 10 1 ≤ 3 &&
    bits (field r 11 1) 4 4 == 0 && field r 12 4 == 0 &&
    ((List.range 8).all fun k =>
      if k < rank then shExt r k != 0 && shTile r k != 0 else shExt r k == 0 && shTile r k == 0)

/-- OBJDEF (R163); the permission fault of a record that asks for state 4 has flag 2 and XREC6 the record's address, which no rule gives
(DESIGN CHOICE, log 110). -/
def objdefB (n : SReg) (b : BitVec 3) (c : Ctx) (s : State) : Act :=
  let g := s.grp c.gid
  if c.em = 0 then .done s
  else if g.obj.isSome then .wait s .object
  else
    let a := (g.sreg64 (2 * b.toNat)).toNat
    withRecord c s a 128 fun r s =>
      if field r 10 1 = 4 then .fault s (fltA 6 2 a)
      else if !shapeOk r then .fault s (flt 1 4)
      else
        let op : ObjOp := ⟨c.fid, false, n.toNat, 0, field r 0 8, footOf r, field r 10 1, r⟩
        .wait (s.modGrp c.gid fun g => { g with obj := some op }) .object

def objdelB (n : SReg) (c : Ctx) (s : State) : Act :=
  let g := s.grp c.gid
  let k := (g.sreg n.toNat).toNat
  if c.em = 0 then .done s
  else if g.obj.isSome then .wait s .object
  else match afind k s.objs with
    | none => .fault s (flt 1 4)
    | some o =>
      if o.asid ≠ s.asidOf g then .fault s (flt 1 4)
      else
        let op : ObjOp := ⟨c.fid, true, 0, k, o.base, o.foot, o.state, o.shape⟩
        .wait (s.modGrp c.gid fun g => { g with obj := some op }) .object

/-! ### Sparse tiles and the heap (R165, R166) -/

/-- The level-4 node under a 2 MiB entry of an address, if the entry carries a 64 KiB sub-table (R300). -/
def subTable (s : State) (asid va : Nat) : Option Nat :=
  let rec go : Nat → Nat → Option Nat
    | 0, _ => none
    | fuel + 1, node =>
      let level := 3 - fuel
      let e := s.rd (devKey s.self (node + 8 * vaIndex va level)) 8
      if bits e 0 1 = 0 ∨ bits e 1 1 = 1 ∨ tableMalformed e level then none
      else if level = 3 then some (bits e 8 40 * 2 ^ 8) else go fuel (bits e 8 40 * 2 ^ 8)
  if va ≥ 2 ^ 57 then none else go 4 ((s.asid asid).root * 4096)

/-- PCOMMIT 0xC0, PDECOMMIT 0xC1, PQUERY 0xC4 at issue (R165) (DEDUCED, log 48). -/
def tileB (top : Nat) (n : SReg) (b : BitVec 3) (c : Ctx) (s : State) : Act :=
  let g := s.grp c.gid
  let a := (g.sreg64 (2 * b.toNat) + c.imm).toNat
  let cnt := (g.sreg n.toNat).toNat
  if c.em = 0 then .done s
  else if g.tlc ≥ 15 then .wait s (.full 2)
  else if a % 65536 ≠ 0 then .fault s (fltA 5 0 a)
  else if a ≥ 2 ^ 57 then .fault s (fltA 6 0 a)
  else if top ≠ 0xC4 ∧ (subTable s (s.asidOf g) a).isNone then .fault s (fltA 6 7 a)
  else if top ≠ 0xC4 ∧ cnt > 65535 then .fault s (flt 1 4)
  else
    let (nd, s) := fragEvent c s []
    .done (s.modGrp c.gid fun g =>
      let g := if top = 0xC4 then g.addPend 1 n.toNat else g
      { g with tiles := g.tiles ++ [⟨top, a, cnt, if top = 0xC4 then some n.toNat else none, nd, g.seq, c.own s⟩] })

def allocB (n : SReg) (c : Ctx) (s : State) : Act :=
  let g := s.grp c.gid
  let size := (g.sreg n.toNat).toNat
  if c.em = 0 then .done s
  else if g.tlc ≥ 15 then .wait s (.full 2)
  else if size = 0 ∨ size > 65536 then .fault s (flt 1 4)
  else
    let (nd, s) := fragEvent c s []
    .done (s.modGrp c.gid fun g =>
      { (g.addPend 1 n.toNat).addPend 1 (n.toNat + 1) with tiles := g.tiles ++ [⟨0xC2, 0, size, some n.toNat, nd, g.seq, c.own s⟩] })

def freeB (n : SReg) (c : Ctx) (s : State) : Act :=
  let g := s.grp c.gid
  if c.em = 0 then .done s
  else if g.tlc ≥ 15 then .wait s (.full 2)
  else
    let (nd, s) := fragEvent c s []
    .done (s.modGrp c.gid fun g =>
      { g with tiles := g.tiles ++ [⟨0xC3, (g.sreg64 n.toNat).toNat, 0, none, nd, g.seq, c.own s⟩] })

end Sys2Proof.Machine
end

