-- ==== Sys2Proof/Machine/Engine.lean ====
section
/-! DEFINITION. The effects of the engine instructions (R167 to R182) at issue, and of the copy engine's own steps: the
transfer of a piece of a copy and the writing of its status. -/
set_option linter.all false
namespace Sys2Proof.Machine

/-! ### Common checks (R168) -/

/-- Only the leader's lane acts; with no lane the instruction retires without effect. -/
def engineB (c : Ctx) (s : State) (k : State → Act) : Act := if c.em = 0 then .done s else k s

/-- An object of n bytes at a window offset: its alignment, then the window (DEDUCED, log 57). -/
def objFault (c : Ctx) (s : State) (tid off n al : Nat) : Option FaultInfo :=
  if off % al ≠ 0 then some (fltL 5 0 off false (leaderMask c))
  else if off + n > (s.team tid).winSize then some (fltL 6 8 off false (leaderMask c))
  else none

/-- Runs a meaning when an object passes and holds no poison, for its words are read (R168, R318) (DEDUCED, log 57). -/
def withObj (c : Ctx) (s : State) (off n al : Nat) (k : Act) : Act :=
  let tid := (s.grp c.gid).team
  match objFault c s tid off n al with
  | some f => .fault s f
  | none => if winPois (s.team tid) off n then .fault s (flt 15 1) else k

/-- A release waits until the group's earlier loads have returned and its earlier stores are acknowledged (R147). -/
def releaseB (c : Ctx) (s : State) (k : Act) : Act :=
  if (s.grp c.gid).loads.isEmpty && (s.grp c.gid).stores.isEmpty then k else .wait s .release

def sNat (s : State) (c : Ctx) (r : SReg) : Nat := ((s.grp c.gid).sreg r.toNat).toNat

/-! ### Byte barriers (R176 to R178) -/

def BB.val (b : BB) : Nat := b.exp % 2 ^ 32 + b.arr % 2 ^ 32 * 2 ^ 32 + b.gen % 2 ^ 16 * 2 ^ 64 + b.fl % 16 * 2 ^ 80 +
  b.waiters % 2 ^ 32 * 2 ^ 96

/-- The status a BBWAIT reports: 1 invalidated, 3 short, 2 over, 0 complete. -/
def BB.status (b : BB) : Nat := if b.fl / 2 % 2 = 1 then 1 else if b.fl / 8 % 2 = 1 then 3 else if b.fl / 4 % 2 = 1 then 2 else 0

def BB.flag (b : BB) (f : Nat) : BB := { b with fl := Nat.lor b.fl f }

/-- Every fragment of the team that waits on a generation of the barrier at an offset resumes with a status. -/
def releaseBB (s : State) (tid off st : Nat) (gen : Nat → Bool) : State :=
  { s with groups := s.groups.map fun p =>
      if p.2.team = tid then
        (p.1, { p.2 with frags := p.2.frags.map fun f => match f.2.wait with
          | .bbar o g none => if o = off ∧ gen g then (f.1, { f.2 with wait := .bbar o g (some st) }) else f
          | _ => f })
      else p }

/-- A write by the local-store atomic unit of words that it has read: poison marks stay (R318). -/
def lsUpdate (s : State) (ag : Nat) (pl : Place) (tid off : Nat) (bytes : List Byte) (node : Nat) : State :=
  (lsWriteAs s ag pl tid off bytes node).modTeam tid fun t => { t with wpois := (s.team tid).wpois }

/-- The device's update of a barrier's 16 bytes; of one that BBINIT has initialised, or does now, it is remembered (R176). -/
def putBB (s : State) (ag : Nat) (pl : Place) (tid off node : Nat) (init : Bool) (b : BB) : State :=
  (lsUpdate s ag pl tid off (natLe 16 b.val) node).modTeam tid fun t =>
    if init || (afind off t.bbs).isSome then { t with bbs := aput off b.val t.bbs } else t

/-- Updates a barrier for an agent's event; when its generation is over, its waiters resume and WAITERS falls to 0. -/
def setBB (s : State) (ag : Nat) (pl : Place) (tid off node : Nat) (b : BB) : State :=
  let b' := if b.over then { b with waiters := 0 } else b
  let s := putBB s ag pl tid off node false b'
  if b.over then releaseBB s tid off b.status (· == b.gen) else s

/-- An event releases a generation of a barrier or a ring slot. -/
def noteEv (s : State) (tid off kind node : Nat) : State := s.modTeam tid fun t => { t with evs := (off, kind, node) :: t.evs }

def evsOf (s : State) (tid off kind : Nat) : List Nat :=
  ((s.team tid).evs.filter fun e => e.1 == off && e.2.1 == kind).map fun e => e.2.2

def dropEvs (s : State) (tid off kind : Nat) : State :=
  s.modTeam tid fun t => { t with evs := t.evs.filter fun e => !(e.1 == off && e.2.1 == kind) }

/-- An arrival of n bytes with a generation; whether it was discarded as stale. OVER compares the exact sum (R4, R177). -/
def arriveBB (s : State) (ag : Nat) (pl : Place) (tid off gen n node : Nat) : State × Bool :=
  let b := s.bb tid off
  if b.gen ≠ gen then (setBB s ag pl tid off node (b.flag 1), true)
  else
    let b := if b.arr + n > b.exp then b.flag 4 else b
    let b := { b with arr := (b.arr + n) % 2 ^ 32 }
    (noteEv (setBB s ag pl tid off node b) tid off gen node, false)

/-- BBINIT (`some n`) and BBINV (`none`): the next generation (R177). -/
def nextGen (c : Ctx) (s : State) (off : Nat) (n : Option Nat) : State :=
  let tid := (s.grp c.gid).team
  let b := s.bb tid off
  let (nd, s) := fragEvent c s []
  let g := (b.gen + 1) % 2 ^ 16
  let s := releaseBB s tid off 1 fun _ => true
  let s := dropEvs s tid off g
  putBB s (lsAgent c.gid) (s.placeOf c.gid) tid off nd n.isSome ⟨n.getD 0, 0, g, if n.isSome then 0 else 2, 0⟩

def bbinitB (a b : SReg) (c : Ctx) (s : State) : Act :=
  engineB c s fun s => withObj c s (sNat s c a) 16 16
    (if sNat s c b = 0 then .fault s (flt 1 4) else .done (nextGen c s (sNat s c a) (some (sNat s c b))))

def bbinvB (a : SReg) (c : Ctx) (s : State) : Act :=
  engineB c s fun s => withObj c s (sNat s c a) 16 16 (.done (nextGen c s (sNat s c a) none))

def bbexpB (a b : SReg) (c : Ctx) (s : State) : Act :=
  engineB c s fun s => withObj c s (sNat s c a) 16 16
    (let g := s.grp c.gid
     let x := s.bb g.team (sNat s c a)
     let n := x.exp + sNat s c b
     let x := { x with exp := n % 2 ^ 32 }
     let x := if n ≥ 2 ^ 32 then x.flag 4 else x
     let (nd, s) := fragEvent c s []
     .done (setBB s (lsAgent c.gid) (s.placeOf c.gid) g.team (sNat s c a) nd x))

/-- BBARR: an arrival with the current generation, a release at team scope (R177, R178). -/
def bbarrB (a b : SReg) (c : Ctx) (s : State) : Act :=
  engineB c s fun s => withObj c s (sNat s c a) 16 16 <| releaseB c s
    (let g := s.grp c.gid
     let off := sNat s c a
     let n := sNat s c b
     let (nd, s) := fragEvent c s []
     .done (arriveBB s (lsAgent c.gid) (s.placeOf c.gid) g.team off (s.bb g.team off).gen n nd).1)

/-- A BBWAIT returns with a status: an acquire of the generation's arrivals (R178). -/
def bbReturn (d : SReg) (c : Ctx) (s : State) (off gen st : Nat) : Act :=
  let s := (fragEvent c s (evsOf s (s.grp c.gid).team off gen)).2
  .done (onGrp s c fun g => g.putS d.toNat (BitVec.ofNat 32 st))

/-- BBWAIT (R177, R178). One that waits and finds the barrier poisoned takes the fault with nothing done, no longer among WAITERS (R318). -/
def bbwaitB (d a : SReg) (c : Ctx) (s : State) : Act :=
  engineB c s fun s =>
    let tid := (s.grp c.gid).team
    let me := lsAgent c.gid
    match c.wait with
    | .bbar off gen (some st) => bbReturn d c s off gen st
    | .bbar off gen none =>
      let b := s.bb tid off
      if winPois (s.team tid) off 16 then
        let (nd, s) := fragEvent c s []
        .fault (putBB s me (s.placeOf c.gid) tid off nd false { b with waiters := b.waiters - 1 }) (flt 15 1)
      else if b.gen ≠ gen then bbReturn d c s off gen 1
      else if b.over then
        let (nd, s) := fragEvent c s []
        let s := putBB s me (s.placeOf c.gid) tid off nd false { b with waiters := b.waiters - 1 }
        bbReturn d c s off gen b.status
      else .wait s (.bbar off gen none)
    | _ =>
      let off := sNat s c a
      withObj c s off 16 16
        (let b := s.bb tid off
         if b.over then bbReturn d c s off b.gen b.status
         else
           let (nd, s) := fragEvent c s []
           .wait (putBB s me (s.placeOf c.gid) tid off nd false { b with waiters := b.waiters + 1 }) (.bbar off b.gen none))

/-! ### Stage rings (R179 to R181) -/

def b2n (b : Bool) : Nat := if b then 1 else 0

def Ring.val (r : Ring) : Nat := r.base + r.sbytes * 2 ^ 32 + r.slots * 2 ^ 64 + b2n r.closed * 2 ^ 72 + b2n r.fault * 2 ^ 73 +
  r.rsv * 2 ^ 74 + r.head * 2 ^ 80 + r.tail * 2 ^ 88 + r.pubs % 2 ^ 32 * 2 ^ 96 + r.dones % 2 ^ 32 * 2 ^ 128 +
  r.rsv2 * 2 ^ 160 + r.phase * 2 ^ 192

/-- BASE, SBYTES and SLOTS meet Table 6. -/
def Ring.table (r : Ring) : Bool :=
  r.base % 16 == 0 && r.sbytes % 16 == 0 && 32 ≤ r.sbytes && r.sbytes ≤ 65536 && 2 ≤ r.slots && r.slots ≤ 64

/-- Every slot lies in the window. -/
def Ring.fits (r : Ring) (win : Nat) : Bool := r.base + r.slots * r.sbytes ≤ win

/-- The check of every ring instruction but RINIT (R180). -/
def Ring.ok (r : Ring) (win : Nat) : Bool :=
  r.table && r.fits win && r.head < r.slots && r.tail < r.slots && r.rsv == 0 && r.rsv2 == 0

/-- The slot an offset starts. -/
def Ring.index (r : Ring) (o : Nat) : Option Nat := (List.range r.slots).find? fun j => r.slot j == o

/-- Who acts on a ring: an agent at a place, with the event of the act. -/
structure Who where
  ag : Nat
  pl : Place
  tid : Nat
  node : Nat

def setRing (s : State) (w : Who) (off : Nat) (r : Ring) : State := lsUpdate s w.ag w.pl w.tid off (natLe 32 r.val) w.node

/-- Sets STATE of a slot; the other bits of its word stay. -/
def setSlot (s : State) (w : Who) (o st : Nat) : State :=
  let v := s.win w.tid (o + 4) 4
  lsUpdate s w.ag w.pl w.tid (o + 4) (natLe 4 (v - bits v 8 2 * 256 + st * 256)) w.node

/-- The word that holds a slot's STATE is poisoned: an instruction that reads it takes the poison-use fault (R318). -/
def slotPois (s : State) (tid o : Nat) : Bool := winPois (s.team tid) (o + 4) 4

/-- The kinds under which a slot's publication and its release are noted. -/
def evPub : Nat := 2 ^ 17
def evDone : Nat := 2 ^ 17 + 1

/-- RDONE by a group or a stream: the state after, or the fault (R180). -/
def ringDone (s : State) (w : Who) (off slot : Nat) : Except FaultInfo State :=
  let r := s.ring w.tid off
  match r.index slot with
  | none => .error (flt 1 6)
  | some j =>
    if slotPois s w.tid slot then .error (flt 15 1)
    else if s.slotState w.tid r j ≠ 3 then .error (flt 1 6)
    else
      let s := setSlot s w slot 0
      let s := setRing s w off { r with phase := r.phase - bits r.phase j 1 * 2 ^ j, dones := r.dones + 1 }
      .ok (noteEv (dropEvs s w.tid slot evDone) w.tid slot evDone w.node)

/-- The atomic unit serves an RACQ or RTAKE that it can serve: the result, and the events its return acquires
(DEDUCED, log 61). -/
def ringServe (s : State) (w : Who) (off : Nat) (take : Bool) : State × Nat × List Nat :=
  let r := s.ring w.tid off
  if take then
    if s.slotState w.tid r r.tail = 2 then
      let o := r.slot r.tail
      let ev := evsOf s w.tid o evPub
      (setRing (setSlot s w o 3) w off { r with tail := (r.tail + 1) % r.slots }, o, ev)
    else (s, 0xFFFF_FFFF, [])
  else if r.closed then (s, 0xFFFF_FFFF, [])
  else
    let o := r.slot r.head
    let ev := evsOf s w.tid o evDone
    (setRing (setSlot s w o 1) w off { r with head := (r.head + 1) % r.slots }, o, ev)

/-- A group's event for its act on a ring. -/
def whoGrp (c : Ctx) (s : State) : Who × State :=
  let (nd, s) := fragEvent c s []
  (⟨lsAgent c.gid, s.placeOf c.gid, (s.grp c.gid).team, nd⟩, s)

/-- Runs a ring instruction when its descriptor passes (R180). -/
def withRing (c : Ctx) (s : State) (off : Nat) (k : Act) : Act :=
  let tid := (s.grp c.gid).team
  withObj c s off 32 32
    (if (s.ring tid off).ok (s.team tid).winSize then k else .fault s (flt 1 4))

/-- RINIT (R180). A slot past the window is the permission fault "outside window" with XREC6 BASE: the rule says only that RINIT checks it
(DESIGN CHOICE, log 110). -/
def rinitB (a : SReg) (c : Ctx) (s : State) : Act :=
  engineB c s fun s =>
    let off := sNat s c a
    let tid := (s.grp c.gid).team
    withObj c s off 32 32
      (let r := s.ring tid off
       if !r.table || r.rsv != 0 || r.rsv2 != 0 then .fault s (flt 1 4)
       else if !r.fits (s.team tid).winSize then .fault s (fltL 6 8 r.base false (leaderMask c))
       else if !(ringWaiters s tid off).isEmpty then .fault s (flt 14 1)
       else
         let (w, s) := whoGrp c s
         let s := (List.range r.slots).foldl (fun s j =>
           dropEvs (dropEvs (setSlot s w (r.slot j) 0) tid (r.slot j) evPub) tid (r.slot j) evDone) s
         .done (setRing s w off ⟨r.base, r.sbytes, r.slots, false, false, 0, 0, 0, 0, 0, 0, 0⟩))

/-- A served RACQ or RTAKE: its result is pending and counted in LDC, its return acquires what `ev` names (R180, R181). -/
def ringIssue (c : Ctx) (s : State) (d : SReg) (v : Nat) (ev : List Nat) : Act :=
  let op : LoadOp := { mkLoad c s (.result (BitVec.ofNat 32 v)) 1 1 (some (1, d.toNat)) with
    ty := 1, width := 4, strong := true, opv := ev.map fun n => (n, 0, 0) }
  .done (s.modGrp c.gid fun g =>
    { (g.addPend 1 d.toNat) with loads := g.loads ++ [{ op with seq := g.seq }], seq := g.seq + 1 })

/-- RACQ and RTAKE of a group: a service in order of arrival, which one that waits keeps while LDC is full; one that RCLOSE has
served goes on (R180). -/
def ringGetB (take : Bool) (d a : SReg) (c : Ctx) (s : State) : Act :=
  engineB c s fun s =>
    let off := sNat s c a
    let g := s.grp c.gid
    match c.wait with
    | .closed => if g.ldc ≥ 63 then .wait s .closed else ringIssue c s d 0xFFFF_FFFF []
    | w => withRing c s off
      (let r := s.ring g.team off
       let arrived := match w with | .ring _ _ n => some n | _ => none
       if slotPois s g.team (r.slot (if take then r.tail else r.head)) then .fault s (flt 15 1)
       else if arrived.isNone && g.ldc ≥ 63 then .wait s (.full 0)
       else
         let (ord, s) := match arrived with
           | some n => (n, s)
           | none => (s.nextUnit, { s with nextUnit := s.nextUnit + 1 })
         if !(ringServes s g.team off take && ringFirst s g.team off take ord) || g.ldc ≥ 63 then .wait s (.ring off take ord)
         else
           let (w, s) := whoGrp c s
           let (s, v, ev) := ringServe s w off take
           ringIssue c s d v ev)

def rpubB (d a b : SReg) (c : Ctx) (s : State) : Act :=
  engineB c s fun s =>
    let off := sNat s c d
    let slot := sNat s c a
    let h := sNat s c b
    let tid := (s.grp c.gid).team
    withRing c s off
      (let r := s.ring tid off
       match r.index slot with
       | none => .fault s (flt 1 6)
       | some j =>
         if slotPois s tid slot then .fault s (flt 15 1)
         else if s.slotState tid r j ≠ 1 then .fault s (flt 1 6)
         else if bits h 0 24 > r.sbytes - 16 ∨ bits h 26 6 ≠ 0 then .fault s (flt 1 4)
         else releaseB c s <|
           let (w, s) := whoGrp c s
           let s := lsWriteAs s w.ag w.pl tid slot
             (natLe 8 (bits h 0 24 + bits h 24 1 * 2 ^ 32 + bits h 25 1 * 2 ^ 33 + 2 * 2 ^ 40)) w.node
           let s := setRing s w off
             { r with phase := Nat.lor r.phase (2 ^ j), pubs := r.pubs + 1, fault := r.fault || bits h 25 1 == 1 }
           .done (noteEv (dropEvs s tid slot evPub) tid slot evPub w.node))

def rdoneB (a b : SReg) (c : Ctx) (s : State) : Act :=
  engineB c s fun s =>
    withRing c s (sNat s c a)
      (let (w, t) := whoGrp c s
       match ringDone t w (sNat s c a) (sNat s c b) with
       | .error e => .fault s e
       | .ok t => releaseB c s (.done t))

/-- RCLOSE serves each RACQ that waits on the ring, and each RTAKE that waits for a free slot, with 0xFFFF_FFFF (R180). -/
def Wait.onClose (off : Nat) (free : Bool) : Wait → Wait
  | .ring o take n => if o = off ∧ (!take || free) then .closed else .ring o take n
  | w => w

def closeWaiters (s : State) (tid off : Nat) : State :=
  let r := s.ring tid off
  let free := s.slotState tid r r.tail == 0
  let s := { s with groups := s.groups.map fun (p : Nat × Group) =>
    if p.2.team = tid then
      (p.1, { p.2 with frags := p.2.frags.map fun (f : Nat × Frag) => (f.1, { f.2 with wait := f.2.wait.onClose off free }) })
    else p }
  s.modTeam tid fun t => { t with stream := t.stream.map fun x => { x with wait := x.wait.onClose off free } }

def rcloseB (a : SReg) (c : Ctx) (s : State) : Act :=
  engineB c s fun s =>
    let off := sNat s c a
    withRing c s off
      (let (w, s) := whoGrp c s
       .done (closeWaiters (setRing s w off { s.ring w.tid off with closed := true }) w.tid off))

/-! ### Scale batches (R182) -/

/-- Enters a batch in a FIFO of a team's stream (DEDUCED, log 28). -/
def pushBatch (s : State) (tid : Nat) (sb : Bool) (b : Batch) : State :=
  let x := s.str tid
  s.setStr tid (if sb then { x with sb := x.sb ++ [b] } else { x with sa := x.sa ++ [b] })

/-- Reads n bytes of the group's window in its program order for the leader's lane, each with its whole aligned 4-byte word, which the
lane observes (R151, R182, R251). -/
def lsBytes (c : Ctx) (s : State) (off n node : Nat) : State × List Byte :=
  (partsOf 4 off n).foldl (fun (p : State × List Byte) x =>
    let o := x.1 / 4 * 4
    let r := lsRead p.1 c.gid ((lanesOf c.em).headD 0) (s.grp c.gid).team o 4 (Config.free s.fresh 0 (x.1 / 4)) node
    (r.1, p.2 ++ (r.2.drop (x.1 - o)).take x.2)) (s, [])

def spushB (a b : SReg) (c : Ctx) (s : State) : Act :=
  engineB c s fun s =>
    let tid := (s.grp c.gid).team
    let ctl := sNat s c a
    let off := sNat s c b
    let n := bits ctl 17 11
    let sb := bits ctl 16 1 == 1
    if (s.team tid).stream.isNone then .fault s (flt 3 3)
    else if bits ctl 28 4 ≠ 0 ∨ n = 0 ∨ n > 1024 then .fault s (flt 1 4)
    else withObj c s off n 1
      (if fifoFull s tid sb || scaleBusy s c.gid sb then .wait s (.fifo sb)
       else
         let (nd, s) := fragEvent c s []
         let (s, bs) := lsBytes c s off n nd
         .done (pushBatch { s with fresh := s.fresh + 1 } tid sb ⟨bits ctl 0 16, bs⟩))

/-! ### Tensor copies at issue (R169 to R171) -/

def recFmt (r : List Byte) : Nat := bits (field r 8 1) 0 4
def recRank (r : List Byte) : Nat := field r 9 1
def recDir (r : List Byte) : Bool := bits (field r 10 2) 0 1 == 1
def recScale (r : List Byte) : Bool := bits (field r 10 2) 1 1 == 1
def recFifo (r : List Byte) : Bool := bits (field r 10 2) 2 1 == 1
/-- Element size by R144. -/
def recEl (r : List Byte) : Nat := widthOf (recFmt r)
def recBox (r : List Byte) (k : Nat) : Nat := shTile r k

/-- Bytes of the box (R170). -/
def boxBytes (r : List Byte) : Nat := recEl r * (((List.range (recRank r)).map (recBox r)).foldl (· * ·) 1)

/-- The limits of Table 2; a multicast takes a plain load only (R170). -/
def recOk (r : List Byte) (multi : Bool) : Bool :=
  field r 0 8 % 16 == 0 && bits (field r 8 1) 4 4 == 0 && recFmt r != 15 && 1 ≤ recRank r && recRank r ≤ 8 &&
    bits (field r 10 2) 3 13 == 0 && !(recScale r && recDir r) && !(multi && (recDir r || recScale r)) && field r 12 4 == 0 &&
    ((List.range 8).all fun k => if k < recRank r then shExt r k != 0 && recBox r k != 0
      else shExt r k == 0 && recBox r k == 0 && shStride r k == 0) &&
    shStride r 0 == recEl r && ((List.range 8).all fun k => k == 0 || shStride r k % 16 == 0) &&
    recBox r 0 * recEl r % 16 == 0

/-- A pending register of the command block past the three that every copy names. -/
def cmdPend (g : Group) (a r : Nat) : Option Nat := ((List.range r).map (a + 3 + ·)).find? fun k => g.isPend 1 k

/-- The generations of a barrier in the windows of some teams, as local-store reads of the group find them (R171). -/
def readGens (c : Ctx) (s : State) (off node : Nat) (ts : List Nat) : State × List (Nat × Option (Nat × Nat)) :=
  ts.foldl (fun (p : State × List (Nat × Option (Nat × Nat))) t =>
    let r := lsRead p.1 c.gid ((lanesOf c.em).headD 0) t (off + 8) 4 (Config.free s.fresh 0 p.2.length) node
    (r.1, p.2 ++ [(t, some (off, leNat r.2 % 2 ^ 16))])) (s, [])

/-- The releases of earlier fences of the fragment's lanes that a copy's writes publish: strong stores at device scope (R172, R247). -/
def copyRel (c : Ctx) (s : State) : List RelEnt :=
  (lanesOf (c.own s)).flatMap fun l => relOf (s.ord.ag (laneAgent c.gid l)) 0 (s.placeOf c.gid) 4 false true

/-- The teams of a cluster that a member mask names, in member order. -/
def membersOf (s : State) (cl mask : Nat) : List Nat :=
  (s.teams.filter fun t => t.2.alive && t.2.cluster == cl && Nat.testBit mask t.2.member).map (·.1)

/-- Hands a copy to the engine: OPEN, the pending status register, its place in the open batch (R95, R171). -/
def startCopy (c : Ctx) (s : State) (d : SReg) (cp : Copy) : State :=
  let cid := s.nextUnit
  let s := { s with nextUnit := cid + 1, copies := aput cid cp s.copies, fresh := s.fresh + 1 }
  onGrp s c fun g => { (g.addPend 1 d.toNat) with opn := true }

/-- TCOPY and TCOPYM (`multi`) at issue, checks in the order of R168. -/
def tcopyB (multi : Bool) (d a : SReg) (b : SReg) (c : Ctx) (s : State) : Act :=
  engineB c s fun s =>
    let g := s.grp c.gid
    let t := s.team g.team
    let va := (g.sreg64 b.toNat).toNat
    let a := a.toNat
    if (s.copies.filter fun x => x.2.core == t.core && !x.2.ended).length ≥ 256 then .wait s .engine
    else if va % 128 ≠ 0 then .fault s (fltL 5 0 va true (leaderMask c))
    else withRecord c s va 128 fun r s =>
      let rank := recRank r
      if !recOk r multi then .fault s (flt 1 4)
      else if recScale r && t.stream.isNone then .fault s (flt 3 3)
      else if a = 0 ∨ a + 2 + rank > 63 then .fault s (flt 1 4)
      else match cmdPend g a rank with
      | some k => .fault s (fltV 4 0 (k + 256))
      | none =>
        if (List.range rank).any fun k => g.spois.contains (a + 3 + k) then .fault s (flt 15 0) else
        let cmd := (List.range (3 + rank)).map fun i => g.sreg (a + i)
        let lo := (g.sreg a).toNat
        let bar := (g.sreg (a + 1)).toNat
        let x := (g.sreg (a + 2)).toNat
        let n := boxBytes r
        let size := clusterSize s (s.cluster t.cluster)
        let bad := if multi then x = 0 ∨ x ≥ 2 ^ size
          else if recScale r then x ≥ 2 ^ 16 ∨ bar ≠ 0xFFFF_FFFF ∨ n < 16 ∨ n > 1024
          else x ≠ 0
        if bad then .fault s (flt 1 4)
        else match if recScale r then none else objFault c s g.team lo n 16 with
        | some f => .fault s f
        | none =>
          match if bar = 0xFFFF_FFFF then none else objFault c s g.team bar 16 16 with
          | some f => .fault s f
          | none =>
            let ts := if multi then membersOf s t.cluster x else [g.team]
            if bar ≠ 0xFFFF_FFFF ∧ (g.team :: ts).any fun m => winPois (s.team m) bar 16 then .fault s (flt 15 1) else
            let (nd, s) := fragEvent c s []
            let (s, dests) := if bar = 0xFFFF_FFFF then (s, ts.map fun m => (m, none)) else readGens c s bar nd ts
            .done (startCopy c s d { Copy.empty with
              gid := c.gid, core := t.core, layout := r, cmd := cmd, dests := dests, total := n / 16, dst := d.toNat,
              node := nd, scale := if recScale r then some (recFifo r, x) else none, seq := s.nextUnit, rel := copyRel c s })

/-! ### Chains at issue (R174) -/

def chSrc (p : List Byte) : Nat := field p 0 8
def chDst (p : List Byte) : Nat := field p 8 8
def chN (p : List Byte) : Nat := field p 16 4
def chSty (p : List Byte) : Nat := field p 20 1
def chDty (p : List Byte) : Nat := field p 21 1
def chK (p : List Byte) : Nat := field p 22 1
def chSat (p : List Byte) : Bool := bits (field p 23 1) 0 1 == 1
def chCode (p : List Byte) (j : Nat) : Nat := field p (32 + 8 * j) 1
def chConst (p : List Byte) (j : Nat) : Nat := field p (36 + 8 * j) 4

/-- The type codes a chain takes (R174). -/
def chType (t : Nat) : Bool := t ≤ 4 || (8 ≤ t && t ≤ 13)

def chainOk (p : List Byte) : Bool :=
  chType (chSty p) && chType (chDty p) && chSrc p % widthOf (chSty p) == 0 && chDst p % 16 == 0 &&
    1 ≤ chN p && chN p ≤ 2 ^ 28 && chN p * widthOf (chDty p) % 16 == 0 && chK p ≤ 8 && field p 23 1 < 2 &&
    field p 24 8 == 0 && ((List.range (min 8 (chK p))).all fun j => chCode p j ≤ 6 && field p (33 + 8 * j) 3 == 0)

def chainB (d a : SReg) (c : Ctx) (s : State) : Act :=
  engineB c s fun s =>
    let g := s.grp c.gid
    let core := (s.team g.team).core
    let off := sNat s c a
    if (s.copies.filter fun x => x.2.core == core && !x.2.ended).length ≥ 256 then .wait s .engine
    else withObj c s off 96 16
      (if g.acquiring then .wait s .acquire
       else
         let (nd, t) := fragEvent c s []
         let (t, p) := lsBytes c t off 96 nd
         if !chainOk p then .fault s (flt 1 4)
         else .done (startCopy c t d { Copy.empty with
           gid := c.gid, core := core, chain := true, layout := p, cmd := [c.mode], total := chN p * widthOf (chDty p) / 16,
           dst := d.toNat, node := nd, seq := s.nextUnit, rel := copyRel c s }))

/-! ### The elements of a unit (R170, R175) -/

/-- One element of a 16-byte unit: its offset in the box, its size, the global address it is read from and written to in a
chain, or its one global address in a copy (`none` out of bounds). -/
structure Elem where
  off : Nat
  src : Option Nat
  dst : Option Nat
  deriving DecidableEq, Repr

/-- The coordinate of dimension k of box element q, added to the origin. -/
def boxCoord (cp : Copy) (q k : Nat) : Int :=
  let below := ((List.range k).map (recBox cp.layout)).foldl (· * ·) 1
  ((cp.cmd.getD (3 + k) 0).toInt) + (q / max 1 below % max 1 (recBox cp.layout k) : Nat)

/-- The global address of box element q, an exact sum (R4, R170), none out of bounds. -/
def boxAddr (cp : Copy) (q : Nat) : Option Nat :=
  let ks := List.range (recRank cp.layout)
  if ks.all fun k => decide (0 ≤ boxCoord cp q k) && decide (boxCoord cp q k < (shExt cp.layout k : Int)) then
    some (field cp.layout 0 8 + (ks.map fun k => (boxCoord cp q k).toNat * shStride cp.layout k).sum)
  else none

/-- Element size of the destination of a copy or chain. -/
def Copy.el (cp : Copy) : Nat := if cp.chain then widthOf (chDty cp.layout) else recEl cp.layout

/-- Copies that write global memory. -/
def Copy.stores (cp : Copy) : Bool := cp.chain || recDir cp.layout

def Copy.unit (cp : Copy) (u : Nat) : List Elem :=
  let e := max 1 cp.el
  (List.range (16 / e)).map fun j =>
    let q := u * (16 / e) + j
    if cp.chain then ⟨q * e, some (chSrc cp.layout + q * widthOf (chSty cp.layout)), some (chDst cp.layout + q * e)⟩
    else ⟨q * e, if recDir cp.layout then none else boxAddr cp q, if recDir cp.layout then boxAddr cp q else none⟩

/-- The address by which an element belongs to a page: in the box, which for a chain is its destination (R171, R175). -/
def Elem.at_ (cp : Copy) (e : Elem) : Option Nat := if cp.stores then e.dst else e.src

/-! ### Pieces (R171) -/

/-- The leaf page of an address: level and number; a failing walk counts 64 KiB pages (DEDUCED, log 32). -/
def leafPage (s : State) (asid va : Nat) : Nat × Nat :=
  match walk s asid va with
  | .leaf _ level => (level, va / 2 ^ leafBits level)
  | _ => (5, va / 2 ^ 16)

/-- The page of a unit's first in-bounds element (DEDUCED, log 32). -/
def unitPage (s : State) (asid : Nat) (cp : Copy) (u : Nat) : Option (Nat × Nat) :=
  ((cp.unit u).findSome? fun e => e.at_ cp).map (leafPage s asid)

/-- Where the piece that begins at a unit ends: units of one leaf page, and units with no in-bounds element. -/
def pieceEnd (s : State) (asid : Nat) (cp : Copy) : Nat → Nat → Option (Nat × Nat) → Nat
  | 0, u, _ => u
  | n + 1, u, pg =>
    match unitPage s asid cp u, pg with
    | none, _ => pieceEnd s asid cp n (u + 1) pg
    | some p, none => pieceEnd s asid cp n (u + 1) (some p)
    | some p, some q => if p = q then pieceEnd s asid cp n (u + 1) pg else u

/-- What checking the addresses of a piece finds. -/
inductive PieceRes where
  | ok (tr : List (Nat × Nat))
  | fail (code : Nat)
  | held (va : Nat)
  deriving DecidableEq, Repr

/-- The copy code of a translation fault: 3 for steps 3 to 5 of R297, else 1. -/
def faultCode (cause flag : Nat) : Nat := if cause = 6 ∧ 2 ≤ flag then 3 else 1

/-- The copy code of a store to a Shared object from another die, which R228 refuses: one of the two that tell of a refused
address, a free value (assumption 4) (DESIGN CHOICE, log 108). -/
def sharedCode (s : State) : Nat := if Config.free s.fresh 5 2 % 2 = 0 then 1 else 3

/-- Translates the accesses of a piece in order, keeping a translation for each 64 KiB page and kind, and checks each store
against the objects (R171, R228). -/
def checkPiece (s : State) (asid core : Nat) : List (Nat × Acc) → List (Nat × Nat) → PieceRes
  | [], tr => .ok tr
  | (va, k) :: r, tr =>
    let pg := 2 * (va / 2 ^ 16) + if k = .write then 1 else 0
    match afind pg tr with
    | some b => if k = .write ∧ sharedFault s asid va (b + va % 2 ^ 16) core then .fail (sharedCode s)
      else checkPiece s asid core r tr
    | none =>
      match translate s asid va k 0 with
      | .fault c f => .fail (faultCode c f)
      | .collapse => .held va
      | .ok key _ _ =>
        if k = .write ∧ sharedFault s asid va key core then .fail (sharedCode s)
        else checkPiece s asid core r (aput pg (key - va % 2 ^ 16) tr)

/-- The key of an address under the piece's translations. -/
def Copy.key (cp : Copy) (va : Nat) (w : Bool) : Nat :=
  aget 0 (2 * (va / 2 ^ 16) + if w then 1 else 0) cp.pieces + va % 2 ^ 16

/-- The accesses of the units of a piece. -/
def pieceAccs (cp : Copy) (u n : Nat) : List (Nat × Acc) :=
  ((List.range n).flatMap fun i => cp.unit (u + i)).flatMap fun e =>
    (e.src.toList.map fun v => (v, Acc.read)) ++ e.dst.toList.map fun v => (v, Acc.write)

/-- A poisoned source of some units: a memory line, one behind a failed peer port, or a window word of an element that a storing copy
writes; no source of an element out of bounds is read (R170, R171, R318, R320). -/
def unitsPois (s : State) (cp : Copy) (us : List Nat) : Bool :=
  let tid := (s.grp cp.gid).team
  (us.flatMap cp.unit).any fun e =>
    (match e.src with
     | some va => let k := cp.key va false; s.linePois k || s.portFailed k
     | none => false) ||
    (!cp.chain && e.dst.isSome && winPois (s.team tid) ((cp.cmd.getD 0 0).toNat + e.off) cp.el)

/-! ### One element of a chain (R175) -/

/-- A step of a chain on an f32 value; NaNs become canonical, subnormals stay (DESIGN CHOICE, log 29). -/
def chainStep (code k x : Nat) : Nat :=
  let a := unpack f32 false x
  let b := unpack f32 false k
  match code with
  | 0 => (fAdd f32 0 false a b).1
  | 1 => (fMul f32 0 false a b).1
  | 2 => (fMinMax f32 false a b).1
  | 3 => (fMinMax f32 true a b).1
  | 4 => if a.isNan then f32.nanBits else x % 2 ^ 31
  | 5 => if a.isNan then f32.nanBits else Nat.xor x (2 ^ 31)
  | _ => (fLdexp f32 0 false a (BitVec.ofNat 32 k).toInt).1

/-- Widens a source element to f32 (R150, R175) (DESIGN CHOICE, log 29). -/
def chainIn (ty v : Nat) : Nat :=
  if ty = 2 ∨ ty = 3 ∨ ty = 4 ∨ ty = 12 ∨ ty = 13 then widenF32 ty v else (roundInt f32 0 false (intOf ty v) 0 false).1

/-- Writes a destination element; a float as STX does under the MODE of issue, without flushing (R150, R175). -/
def chainOut (ty rm : Nat) (sat : Bool) (x : Nat) : Nat :=
  if ty = 2 then pack f32 (unpack f32 false x)
  else if ty = 3 ∨ ty = 4 ∨ ty = 12 ∨ ty = 13 then (narrowF32 ty rm false sat x).1
  else (floatToInt ty 0 (unpack f32 false x)).1

def chainElem (cp : Copy) (v : Nat) : Nat :=
  let p := cp.layout
  let x := (List.range (chK p)).foldl (fun x j => chainStep (chCode p j) (chConst p j) x) (chainIn (chSty p) v)
  chainOut (chDty p) (modeRnd (cp.cmd.getD 0 0)) (chSat p) x

/-! ### Transfers (COPY_PIECE_TRANSFER) -/

/-- Bytes of one aligned 4-byte granule that a copy's event reads, by the device's choice among candidates (R172, R250)
(DEDUCED, log 31). -/
def copyRead (s : State) (cid node : Nat) (b : ByteRef) (n : Nat) (pl : Place) (ch : Nat) : List Byte × Nat :=
  if s.foreign (s.asidOf (s.grp (s.copy cid).gid)) b.key then (List.replicate n 0, ch) else
  let r := loadCands s node (copyAgent cid) b n pl none true ch
  (r.1.map fun p => candByte s p.1 p.2, r.2)

/-- Bytes that a copy's event reads, whatever elements they belong to: those of one granule together (R146, R216). -/
def copyReads (s : State) (cid node : Nat) (pl : Place) (bs : List ByteRef) (ch : Nat) : List (Nat × Byte) × Nat :=
  (refRuns bs).foldl (fun (p : List (Nat × Byte) × Nat) r =>
    let x := copyRead s cid node r.1 r.2 pl p.2
    (p.1 ++ x.1.zipIdx.map fun b => (r.1.key + b.2, b.1), x.2)) ([], ch)

/-- The bytes of memory that an element is read from; none out of bounds. -/
def Copy.srcBytes (cp : Copy) (e : Elem) : List ByteRef :=
  match e.src with
  | some va => (List.range (if cp.chain then widthOf (chSty cp.layout) else cp.el)).map fun i => ⟨cp.key va false + i, va + i⟩
  | none => []

/-- The bytes that an in-bounds element of a storing copy is read from: of memory for a CHAIN, else of the window. -/
def Copy.storeSrc (cp : Copy) (tid : Nat) (e : Elem) : List ByteRef :=
  if cp.chain then cp.srcBytes e
  else (List.range cp.el).map fun i => winRef tid ((cp.cmd.getD 0 0).toNat + e.off + i)

/-- A run of global bytes that a copy writes: a strong relaxed store at device scope to a line claimed at home, which publishes what
its group's earlier fences release (R172, R242, R247) (DEDUCED, log 31). -/
def copyWrite (s : State) (cid node key : Nat) (pl : Place) (bytes : List Byte) : State :=
  if s.foreign (s.asidOf (s.grp (s.copy cid).gid)) key then s
  else if s.portFailed key then s.lostStore
  else
    let s := s.addWrite ⟨node, copyAgent cid, pl, key, bytes, true, 4, false, false, (s.copy cid).rel, none, [], [], false⟩
    clearPois ((s.perform node).ackW node) [(key, bytes.length)]

/-- The in-bounds elements of a piece that a storing copy has still to write, with their destination keys. -/
def Copy.todo (cp : Copy) : List (Elem × Nat) :=
  (cp.left.flatMap cp.unit).filterMap fun e => e.dst.map fun va => (e, cp.key va true)

/-- The lines that units of a storing copy write. -/
def Copy.linesOf (cp : Copy) (us : List Nat) : List Nat :=
  ((us.flatMap cp.unit).filterMap fun e => e.dst.map fun va => cp.key va true / 128).eraseDups

/-- The elements of a list in an order that the choice names, with the rest of the choice. -/
def shuffle {α : Type} : Nat → List α → Nat → List α × Nat
  | 0, l, ch => (l, ch)
  | n + 1, l, ch => match l[ch % l.length]? with
    | none => ([], ch)
    | some x => let r := shuffle n (l.eraseIdx (ch % l.length)) (ch / l.length)
                (x :: r.1, r.2)

/-- The bytes of one element of a storing copy: `mem` holds what its sources read, `here` what this line's elements computed so far
hold. An element of a CHAIN whose source these have computed takes that value or the one read, by the choice (R175). -/
def elemBytes (cp : Copy) (tid : Nat) (e : Elem) (mem here : List (Nat × Byte)) (ch : Nat) : List Byte :=
  let ks := (cp.storeSrc tid e).map (·.key)
  let own := ks.filterMap fun k => afind k here
  let v := if own.length = ks.length ∧ ch % 2 = 1 then own else ks.map fun k => (mem.lookup k).getD 0
  if cp.chain then natLe cp.el (chainElem cp (leNat v)) else v

/-! ### Claimed lines that copies read (R242) -/

/-- Lines that other copies have claimed. -/
def claimedBeside (s : State) (cid : Nat) : List Nat :=
  (s.copies.filter fun c => c.1 != cid).filterMap fun c => c.2.claim.map (·.1)

/-- Whether a copy's reads at an event are held: at lines that other copies have claimed, where the device lets them find the line at
home (R242); the claims then hold the event. -/
def holdReads (s : State) (cid what node : Nat) (bs : List ByteRef) (find : Bool) : Option State :=
  let cp := s.copy cid
  let hit (c : Nat × Copy) : Bool := c.1 != cid && match c.2.claim with
    | some (line, _) => bs.any fun b => b.key / 128 == line
    | none => false
  if (cp.next.isSome || find) && s.copies.any hit then
    let s := { s with copies := s.copies.map fun c => if hit c then
      (c.1, { c.2 with claim := c.2.claim.map fun (x : Nat × List Nat) => (x.1, (node :: x.2).eraseDups) }) else c }
    some (s.setCopy cid { s.copy cid with next := some (what, node) })
  else none

/-- Another context's parked lines that a copy's reads reach go home (R239). -/
def demoteReads (s : State) (asid : Nat) (bs : List ByteRef) : State :=
  ((bs.filter fun b => b.key < 2 ^ 70).map fun b => b.key / 128).eraseDups.foldl (fun (s : State) (line : Nat) => crossDemote s (line * 128) asid) s

/-- The event of a copy's step: the one that was held, or a new one. -/
def copyEvent (s : State) (cp : Copy) : Nat × State :=
  match cp.next with
  | some x => (x.2, s)
  | none => let (nd, o) := s.ord.newNode [cp.node]; (nd, { s with ord := o })

/-- Writes the claimed line in one step, its elements computed in any order, and lets the accesses that the claim held follow
(R172, R175, R242, R247); it waits while other copies' claims hold its reads. -/
def writeLine (s : State) (cid line : Nat) (held : List Nat) (ch : Nat) : State :=
  let cp := s.copy cid
  let pl := s.placeOf cp.gid
  let tid := (s.grp cp.gid).team
  let (nd, s) := copyEvent s cp
  let es := cp.todo.filter fun x => x.2 / 128 == line
  let srcs := es.flatMap fun x => cp.storeSrc tid x.1
  match holdReads s cid line nd srcs (ch % 2 == 1) with
  | some s => s
  | none =>
    let s := demoteReads s (s.asidOf (s.grp cp.gid)) srcs
    let mem := copyReads s cid nd pl srcs (ch / 2)
    let r := shuffle es.length es mem.2
    let cells := r.1.foldl (fun (a : List (Nat × Byte) × Nat) (x : Elem × Nat) =>
      ((elemBytes cp tid x.1 mem.1 a.1 a.2).zipIdx.foldl (fun m b => aput (x.2 + b.2) b.1 m) a.1, a.2 / 2)) ([], r.2)
    let s := (runsOf cells.1).foldl (fun s w => copyWrite s cid nd w.1 pl w.2) s
    let s := { s with ord := held.foldl (fun o h => o.addPred h nd) s.ord }
    s.setCopy cid { s.copy cid with lines := cp.lines.erase line, claim := none, next := none, nodes := nd :: cp.nodes }

/-- Units land: their 16 bytes each arrive at every barrier with an event (R171, R177). -/
def arriveUnits (s : State) (cid : Nat) (us : List Nat) (nd : Nat) : State :=
  let cp := s.copy cid
  let pl := s.placeOf cp.gid
  let (s, st) := us.foldl (fun (p : State × Bool) _ => cp.dests.foldl (fun (p : State × Bool) d => match d.2 with
    | some b => if (p.1.team d.1).alive then
        let r := arriveBB p.1 (copyAgent cid) pl d.1 b.1 b.2 16 nd
        (r.1, p.2 || r.2)
      else p
    | none => p) p) (s, false)
  let cp := s.copy cid
  s.setCopy cid { cp with
    done := cp.done + us.length, left := cp.left.filter fun u => !us.contains u, stale := cp.stale || st }

/-- The events of a copy's writes of a unit's bytes: one for each line that it spans. -/
def unitNodes (s : State) (cid : Nat) (cp : Copy) (u : Nat) : List Nat :=
  let ks := (cp.unit u).filterMap fun e => e.dst.map fun va => cp.key va true
  ((s.ord.writes.filter fun w => w.agent == copyAgent cid && ks.any w.covers).map (·.node)).eraseDups

/-- A storing copy's units of which no line is left to write land, each after every line of it (R172, R178). -/
def landStored (s : State) (cid : Nat) : State :=
  let cp := s.copy cid
  (cp.left.filter fun u => !((cp.linesOf [u]).any cp.lines.contains)).foldl (fun s u =>
    let (nd, o) := s.ord.newNode (cp.node :: unitNodes s cid cp u)
    arriveUnits { s with ord := o } cid [u] nd) s

/-- One step of a storing copy: it claims a line of the piece that no other copy has claimed, whichever the device takes, or writes the
line it has claimed; with none left to write the piece's last units land (R172, R242). -/
def storeMove (s : State) (cid ch : Nat) : State :=
  let cp := s.copy cid
  match cp.claim with
  | some (line, held) => landStored (writeLine s cid line held ch) cid
  | none =>
    if cp.lines.isEmpty then landStored s cid
    else match pick (cp.lines.filter fun l => !(claimedBeside s cid).contains l) ch with
      | some line => (s.unpark line).setCopy cid { cp with claim := some (line, []) }
      | none => s

/-- One step of a loading copy: a unit of the piece, whichever the device takes, is read and lands; the bytes of a scale batch are
taken in their order (R171, R172, R182). A unit whose reads other copies' claims hold is read once they are over (R242). -/
def loadMove (s : State) (cid ch : Nat) : State :=
  let cp := s.copy cid
  match if let some x := cp.next then some x.1 else if cp.scale.isSome then cp.left.head? else pick cp.left ch with
  | none => s
  | some u =>
    let pl := s.placeOf cp.gid
    let lo := (cp.cmd.getD 0 0).toNat
    let ch := ch / cp.left.length
    let (nd, s) := copyEvent s cp
    let srcs := (cp.unit u).flatMap cp.srcBytes
    match holdReads s cid u nd srcs (ch % 2 == 1) with
    | some s => s
    | none =>
      let s := demoteReads s (s.asidOf (s.grp cp.gid)) srcs
      let mem := (copyReads s cid nd pl srcs (ch / 2)).1
      let got := (cp.unit u).flatMap fun e =>
        if e.src.isNone then List.replicate cp.el 0 else (cp.srcBytes e).map fun b => (mem.lookup b.key).getD 0
      let s := s.setCopy cid { s.copy cid with
        next := none
        nodes := nd :: cp.nodes
        sbytes := if cp.scale.isSome then cp.sbytes ++ got else cp.sbytes }
      let s := if cp.scale.isSome then s
        else cp.dests.foldl (fun s d =>
          if (s.team d.1).alive then lsWriteAs s (copyAgent cid) pl d.1 (lo + 16 * u) got nd else s) s
      arriveUnits s cid [u] nd

/-- What a failed load copy leaves in the rest of its box: each byte its old value, zero, or the source byte, zero in a frame that its
context does not own (R171, R306), by the base-3 digits of the device's choice (DEDUCED, log 30). -/
def failBytes (s : State) (cid : Nat) (ch : Nat) : State :=
  let cp := s.copy cid
  if ch = 0 ∨ cp.stores ∨ cp.scale.isSome then s
  else
    let (nd, o) := s.ord.newNode [cp.node]
    let s := { s with ord := o }
    let pl := s.placeOf cp.gid
    let asid := s.asidOf (s.grp cp.gid)
    let lo := (cp.cmd.getD 0 0).toNat
    ((List.range ((cp.total - cp.done) * 16)).map (cp.done * 16 + ·)).foldl (fun s i =>
      let dg := ch / 3 ^ (i - cp.done * 16) % 3
      if dg = 0 then s
      else
        let key : Option Nat := if dg = 1 then none else (boxAddr cp (i / cp.el)).bind fun va =>
          match translate s asid (va + i % cp.el) .read 0 with | .ok k _ _ => some k | _ => none
        let s := refuseAll s asid key.toList
        let v : Byte := match key with
          | some k => if s.foreign asid k then 0 else s.peek k
          | none => 0
        cp.dests.foldl (fun s d => if (s.team d.1).alive then
          lsWriteAs s (copyAgent cid) pl d.1 (lo + i) [v] nd else s) s) s

/-- A piece fails: the copy ends with a code and counts the pieces before; its claims are released without a write (R171, R242). -/
def failPiece (s : State) (cid code ch : Nat) : State :=
  let cp := s.copy cid
  failBytes (s.setCopy cid { cp with
    fin := true, code := code, done := if cp.done < cp.stop then cp.start else cp.done, left := [], lines := [], claim := none,
    next := none }) cid ch

/-- Keeps the translations of a piece (R298). -/
def notePieces (s : State) (asid : Nat) (tr : List (Nat × Nat)) : State :=
  tr.foldl (fun s p => match translate s asid (p.1 / 2 * 2 ^ 16) (if p.1 % 2 = 1 then .write else .read) 0 with
    | .ok _ leaf level => noteTlb s asid (p.1 / 2 * 2 ^ 16) leaf level
    | _ => s) s

/-- A piece begins: its units, the lines it will write and its translations; Shallot counts the accesses that it refuses (R306). -/
def beginPiece (s : State) (cid : Nat) (cp : Copy) (stop : Nat) (tr : List (Nat × Nat)) : State :=
  let us := (List.range (stop - cp.done)).map (cp.done + ·)
  let cp := { cp with start := cp.done, stop := stop, pieces := tr, left := us }
  let cp := { cp with lines := if cp.stores then cp.linesOf us else [] }
  let asid := s.asidOf (s.grp cp.gid)
  let s := refuseAll (notePieces s asid tr) asid ((us.flatMap cp.unit).flatMap fun e =>
    (e.src.toList.map fun v => cp.key v false) ++ e.dst.toList.map fun v => cp.key v true)
  let s := s.setCopy cid cp
  { s with fresh := s.fresh + 1 }

/-- The units of a piece whose sources have yet to be found sound: a loading copy's, as each is read; a storing copy's, all before the
piece's first line is written, for a piece that fails leaves global memory as it was (R171, R318) (DEDUCED, log 31). -/
def Copy.unread (cp : Copy) : List Nat :=
  if cp.stores && cp.lines.length != (cp.linesOf cp.left).length then [] else cp.left

/-- Steps of a copy's piece, until it is done or finds a poisoned source (R171, R318). -/
def copyMoves (s : State) (cid : Nat) : Nat → Nat → State
  | 0, _ => s
  | n + 1, ch =>
    let cp := s.copy cid
    if cp.left.isEmpty then s
    else if unitsPois s cp cp.unread then failPiece s cid 1 ch
    else copyMoves (if cp.stores then storeMove s cid ch else loadMove s cid ch) cid n (ch / 2 ^ 16)

/-- Takes the next n steps of the copy's piece, all of them for n = 0; a new piece is translated first, and one that
fails ends the copy (R171). A piece waits whose page must collapse first, or whose source an atomic that happens before the copy
has yet to write (R250). -/
def transferPiece (s : State) (cid n ch : Nat) : State :=
  match afind cid s.copies with
  | none => s
  | some cp =>
    if cp.fin then s
    else
      let asid := s.asidOf (s.grp cp.gid)
      let begin_ : Except State State :=
        if cp.done < cp.stop then .ok s
        else
          let e := pieceEnd s asid cp (cp.total - cp.done) cp.done none
          let accs := pieceAccs cp cp.done (e - cp.done)
          match checkPiece s asid cp.core accs [] with
          | .held _ => .error s
          | .fail k => .error (failPiece s cid k ch)
          | .ok tr =>
            let cp := { cp with stop := e, pieces := tr }
            if accs.any fun a => a.2 == .write && s.collapsing asid a.1 then .error s
            else if accs.any fun a => a.2 == .read && blocked s cp.node (cp.key a.1 false) 8 then .error s
            else .ok (beginPiece s cid cp e tr)
      match begin_ with
      | .error s => s
      | .ok s =>
        let cp := s.copy cid
        let s := copyMoves s cid (if n = 0 then cp.left.length + 2 * cp.lines.length + 1 else n) ch
        let cp := s.copy cid
        if cp.done = cp.total then s.setCopy cid { cp with fin := true } else s

/-- The status word (R171, Table 4). -/
def Copy.status (cp : Copy) : Word :=
  BitVec.ofNat 32 ((if cp.code ≠ 0 then cp.code else if cp.stale then 2 else 0) * 2 ^ 28 + cp.done)

/-- A scale copy may enter its batch: room in the FIFO, and no earlier batch of the group outstanding (R182)
(DEDUCED, log 28). -/
def scaleReady (s : State) (cp : Copy) : Bool :=
  match cp.scale with
  | none => true
  | some (sb, _) => !(fifoFull s (s.grp cp.gid).team sb && cp.code == 0) &&
      !((s.copiesOf cp.gid).any fun c => c.2.seq < cp.seq && (match c.2.scale with | some x => x.1 == sb | none => false))

/-- COPY_COMPLETE: a short generation is marked, the status is written, the batch may complete (R94, R171, R177)
(DEDUCED, log 30). -/
def completeCopy (s : State) (cid : Nat) : State :=
  match afind cid s.copies with
  | none => s
  | some cp =>
    if !cp.fin || cp.ended || !scaleReady s cp then s
    else
      let tid := (s.grp cp.gid).team
      let (nd, o) := s.ord.newNode (cp.node :: cp.nodes)
      let s := { s with ord := o }
      let pl := s.placeOf cp.gid
      let s := if cp.code = 0 then s else cp.dests.foldl (fun s d => match d.2 with
        | some b => if (s.team d.1).alive && (s.bb d.1 b.1).gen == b.2 then
            noteEv (setBB s (copyAgent cid) pl d.1 b.1 nd ((s.bb d.1 b.1).flag 8)) d.1 b.1 b.2 nd else s
        | none => s) s
      let s := match cp.scale with
        | some (sb, tag) => if cp.code = 0 then pushBatch s tid sb ⟨tag, cp.sbytes⟩ else s
        | none => s
      let s := s.setCopy cid { cp with ended := true }
      let s := s.modGrp cp.gid fun g => (g.putS cp.dst cp.status).clrPend 1 cp.dst
      settleGroup (advanceCbd s cp.gid 16) cp.gid

end Sys2Proof.Machine
end

