-- ==== Sys2Proof/Machine/Async.lean ====
section
/-! DEFINITION. The device's own steps that complete what groups have issued: loads and atomics in issue order, stores in any
order, tile and heap operations, the object table, the special-function queue and the detection of a locate fault (R47, R48,
R94, R145, R149 to R166, R243, R300 to R302). -/
set_option linter.all false
namespace Sys2Proof.Machine

/-! ### Where an atomic performs (R148, R254, R296) -/

/-- Whether cluster- and die-scope atomics of a core perform at a line's home slice: a home on the core's die, or an object's line
that no replica slice may hold (R148, R228). -/
def slicedAtHome (s : State) (asid core va key : Nat) : Bool :=
  (key / 2 ^ 48 == s.self && (homeAt s asid va key).1 == dieOf core) ||
    ((s.parkOf key).isNone && match s.objAt asid va with | some o => o.2.state != 1 && o.2.state != 4 | none => false)

/-- The chain of an atomic of a core; `home` says that it performs at the home slice whatever its scope: one to a page of CACHE 2
(R296), or a reduction whose line was parked (R154). -/
def chainAt (s : State) (asid core sc va key : Nat) (home : Bool) : Nat :=
  chainOf (if home then 4 else sc) core key (slicedAtHome s asid core va key)

/-- A group's access reaches lines: another context's demotes a parked one, and a declared reader's hit counts once for each
line (R237, R239). -/
def touchLines (s : State) (gid : Nat) (accs : List LaneAcc) : State :=
  let g := s.grp gid
  ((accs.map fun a => a.pa / 128).eraseDups).foldl (fun s line =>
    countHit (crossDemote s (line * 128) (s.asidOf g)) (line * 128) (s.coreOf g) (s.team g.team).cluster (s.asidOf g)) s

/-! ### Claimed lines (R172, R242) -/

/-- Holds the accesses of an operation at lines that copies have claimed, if there are any: each is ordered after the write of its
line. An access that happens before the copy has reached the line before the claim (R248). -/
def holdClaimed (s : State) (accs : List LaneAcc) : Option State :=
  let hit (c : Copy) : List Nat := match c.claim with
    | some (line, _) => (accs.filter fun a => a.pa / 128 == line && !s.ord.hb a.node c.node).map (·.node)
    | none => []
  if s.copies.any fun c => !(hit c.2).isEmpty then
    some { s with copies := s.copies.map fun c =>
      (c.1, { c.2 with claim := c.2.claim.map fun x => (x.1, (x.2 ++ hit c.2).eraseDups) }) }
  else none

/-! ### The locate fault of an access that has issued (R145, R154, R241) -/

/-- The lanes of an operation whose line is now parked for a set that excludes the core. -/
def lateExcl (s : State) (gid : Nat) (accs : List LaneAcc) : Lanes :=
  maskOf fun l => accs.any fun a => a.lane == l && excluded s a.pa (s.coreOf (s.grp gid)) (s.asidOf (s.grp gid))

/-- A wait that has part of its instruction's effect behind it: an arrival that counts, WAITERS, an object-table entry on its way, a
place at MIGR. -/
def Wait.begun : Wait → Bool
  | .phase _ _ _ => true
  | .bbar _ _ _ => true
  | .object => true
  | .migr _ _ => true
  | _ => false

/-- Whether a fault of an operation would be precise: its fragment has done nothing since it issued (R308). An access whose
fragment has gone on had found its line when it was sent, since every fault is precise (DEDUCED, log 51). -/
def faultable (g : Group) (frag did : Nat) : Bool :=
  match afind frag g.frags with
  | some f => g.live && !g.exited && f.did == did && !f.wait.begun
  | none => false

/-- The group can take a fault of a fragment now: another's handler does not run, and nothing holds the group (R311, R313). -/
def faultsNow (g : Group) (frag : Nat) : Bool :=
  !g.halted && g.susp.isNone && (!g.inh || match g.hctx with | some h => h.1 == frag | none => false)

/-- An operation's instruction has not performed, or not for every lane: its fragment stands before it again. -/
def standBefore (s : State) (gid frag : Nat) (pc : DWord) (did : Nat) : State :=
  s.modGrp gid fun g => { g with retired := g.retired - 1, held := adel frag g.held }.modFrag frag fun f =>
    { f with pc := pc, wait := .run, lit := none, did := did - 1 }

/-- The operation's fragment takes the locate fault at its instruction's boundary (R145, R311). -/
def lateFaultAt (s : State) (gid frag : Nat) (pc : DWord) (did : Nat) (accs : List LaneAcc) (excl : Lanes) : State :=
  takeFault (standBefore s gid frag pc did) gid frag
    (fltL 7 0 ((accs.find? fun a => excl.getLsbD a.lane).map (·.va) |>.getD 0) true excl) excl

/-! ### Loads (R149 to R151, R250) -/

/-- One lane of a load returns by the device's choice; the state after, the value, and the rest of the choice. A frame of a key
that the context does not own reads zero (R306). -/
def loadLane (s : State) (gid : Nat) (op : LoadOp) (a : LaneAcc) (ch : Nat) : State × Nat × Nat :=
  if s.foreign (s.asidOf (s.grp gid)) a.pa then (refuse s, 0, ch) else
  let ag := laneAgent gid a.lane
  let pl := s.placeOf gid
  let acq := acquires 0 op.ord
  let r := loadCands s a.node ag ⟨a.pa, a.va⟩ op.width pl (if acq then some op.sc else none) op.strong ch
  let v := leNat (r.1.map fun x => candByte s x.1 x.2)
  let fences := (op.acqFences.filter fun f => f.1 == a.lane).map (·.2)
  (returnLoad s ag a.node pl op.sc acq op.strong fences r.1, v, r.2)

/-- One lane of an atomic performs (R156, R254, R255): it returns the old value, and its write joins its chain, carrying the
releases of every atomic of its bytes that it follows there (R247). One of scope group and relaxed order is plain (R146). -/
def atomicLane (s : State) (gid aop ty w sc ord : Nat) (red : Bool) (two : Lanes)
    (fences : List (Nat × Nat × Option (Nat × Nat))) (a : LaneAcc) (x y ch : Nat) : State × Nat × Nat :=
  let ag := laneAgent gid a.lane
  let pl := s.placeOf gid
  let asid := s.asidOf (s.grp gid)
  let home := two.getLsbD a.lane || (red && (s.parkOf a.pa).isSome)
  let s := if red || sc ≥ 4 then s.unpark (a.pa / 128) else s
  let s := s.endPend a.node
  if s.foreign asid a.pa then (refuse s, 0, ch) else
  if s.portFailed a.pa then (s.lostStore, 0, ch) else
  let chain := chainAt s asid (s.coreOf (s.grp gid)) sc a.va a.pa home
  let acq := !red && acquires 2 ord
  let strong := strongAcc sc ord
  let got := atomicCands s a.node ag ⟨a.pa, a.va⟩ w pl (if acq then some sc else none) chain ch
  let old := leNat (got.map fun p => candByte s p.1 p.2)
  let rel := relOf (s.ord.ag ag) a.node pl sc (releases 2 ord) strong
  let carried := (s.ord.writes.filter fun v => v.chain == some chain && v.done &&
    (List.range w).any fun i => v.covers (a.pa + i)).flatMap (·.rel)
  let s := returnLoad s ag a.node pl sc acq (!red && strong) fences got
  let s := s.addWrite ⟨a.node, ag, pl, a.pa, natLe w (atomicOp aop ty old x y), strong, sc, false, false,
    (rel ++ carried).eraseDups, some chain, [], (got.filterMap fun p => candNode p.2).eraseDups, false⟩
  ((s.perform a.node).ackW a.node, old, ch / 2 ^ 16)

/-- How many lanes of an atomic or reduction one step performs: between two lanes at device and system scope other agents' may
fall, at the device's choice (R156). -/
def atomicLanes (sc n ch : Nat) : Nat := if sc ≥ 4 ∧ ch % 2 = 1 then 1 else n

/-- The next lanes of an atomic or reduction perform, in lane order; the state and the lanes' old values. -/
def atomicRun (s : State) (gid aop ty w sc ord : Nat) (red : Bool) (two : Lanes)
    (fences : Nat → List (Nat × Nat × Option (Nat × Nat))) (opv : List (Nat × Nat × Nat)) (accs : List LaneAcc) (ch : Nat) : State × List (Nat × Nat) :=
  let r := accs.foldl (fun (p : State × List (Nat × Nat) × Nat) (a : LaneAcc) =>
    let o := (opv.lookup a.lane).getD (0, 0)
    let x := atomicLane p.1 gid aop ty w sc ord red two (fences a.lane) a o.1 o.2 p.2.2
    (x.1, p.2.1 ++ [(a.lane, x.2.1)], x.2.2)) (s, [], ch)
  (r.1, r.2.1)

/-- Writes the lanes' results in a load's destination, the words of a 64-bit lane-private value put together (R221), and marks
those read from poisoned lines (R149, R318). -/
def LoadOp.land (op : LoadOp) (g : Group) (vals : List (Nat × Nat)) (pois : Lanes) : Group :=
  match op.dst with
  | none => g
  | some (file, d) =>
    let v (l : Nat) : Nat := (vals.filter fun p => p.1 == l).foldr (fun p n => p.2 + 2 ^ (8 * op.width) * n) 0
    let m := maskOf fun l => vals.any fun p => p.1 == l
    let n := match op.kind with | .load true => 1 | _ => regsOf op.ty
    let conv (l : Nat) : Nat := match op.kind with
      | .load true => ldxReg op.ty (v l)
      | .load false => regOfMem op.ty (v l)
      | _ => v l
    if file = 1 then (g.putS d (BitVec.ofNat 32 (v 0))).clrPend 1 d
    else
      let g := if n = 2 then g.putV64 d m fun l => BitVec.ofNat 64 (conv l) else g.putV d m fun l => BitVec.ofNat 32 (conv l)
      (List.range n).foldl (fun g i =>
        (if pois = 0 then g else g.setVPois (d + i) (g.vPois (d + i) ||| pois)).clrPend 0 (d + i)) g

/-- The write of an event is lost: it will not perform (R320). -/
def loseWrite (s : State) (node : Nat) : State :=
  ({ s with ord := { s.ord with writes := s.ord.writes.filter fun w => w.node != node } }).lostStore

/-- The write of an event is performed and acknowledged; to a failed peer port it is lost (DEDUCED, log 75). -/
def performAt (s : State) (node key : Nat) : State :=
  if s.portFailed key then loseWrite s node else (s.perform node).ackW node

/-- The bytes of the write of an event, as a key and a length. -/
def writeSpan (s : State) (a : LaneAcc) : Nat × Nat :=
  (a.pa, ((s.ord.writes.find? fun w => w.node == a.node).map (·.bytes.length)).getD 0)

/-- The lanes that read a poisoned line, or through a failed peer port (R318, R320) (DEDUCED, log 75). -/
def poisLanes (s : State) (op : LoadOp) : Lanes :=
  maskOf fun l => op.accs.any fun a => a.lane == l && (s.linePois a.pa || s.portFailed a.pa)

/-- Lines that accesses touch. -/
def accLines (accs : List LaneAcc) : List Nat := (accs.map fun a => a.pa / 128).eraseDups

/-- Stores that an access numbered seq waits for: those before its last release fence, those to an object before a release fence
of that object (R147, R158), and earlier ones to its lines (R243). -/
def storesBefore (g : Group) (seq after : Nat) (accs : List LaneAcc) : Bool :=
  g.stores.any fun t => t.seq < after ||
    (g.objRel.any fun r => r.1 ≤ seq && t.seq < r.1 && t.accs.any fun a => r.2.1 ≤ a.va && a.va < r.2.2) ||
    (t.seq < seq && (accLines accs).any fun x => (accLines t.accs).contains x)

/-- An atomic that happens before one of an operation's accesses and shares its line has yet to perform: one chain follows
happens-before (R254). -/
def atomicBlocked (s : State) (accs : List LaneAcc) : Bool := accs.any fun a => blocked s a.node (a.pa / 128 * 128) 128

/-- Whether an atomic may perform: the stores it waits for are acknowledged, for its own release all earlier ones (R147), and the
atomics that happen before it have performed. -/
def atomicMay (s : State) (g : Group) (op : LoadOp) : Bool :=
  !storesBefore g op.seq op.after op.accs && !(releases 2 op.ord && g.stores.any fun t => t.seq < op.seq) &&
    !atomicBlocked s op.accs

/-- A load waits for atomics and reductions that happen before it and write its bytes (R250). -/
def loadMay (s : State) (op : LoadOp) : Bool := !op.accs.any fun a => blocked s a.node a.pa op.width

/-- LOAD_RESULT_RETURN: the oldest operation counted in LDC returns (R47, R94). `ch` is the device's choice among the
candidates of each byte, whether a load finds its line at home while a copy has it claimed, and how many lanes of an atomic perform
(DESIGN CHOICE, log 10; DEDUCED, log 18; DEDUCED, log 61). -/
def loadReturn (s : State) (gid ch : Nat) : State :=
  let g := s.grp gid
  match g.loads with
  | [] => s
  | op :: rest =>
    let pop (s : State) : State := settleGroup (s.modGrp gid fun g => { g with loads := rest }) gid
    let undo (s : State) : State := pop (s.modGrp gid fun g => match op.dst with
      | some (_, d) => (List.range (regsOf op.ty)).foldl (fun g i => g.clrPend 0 (d + i)) g
      | none => g)
    match op.kind with
    | .pfetch => pop s
    | .locate => pop (op.accs.foldl (fun (s : State) (a : LaneAcc) =>
        locateLine s a.va a.pa (s.coreOf g) (s.asidOf g) (s.team g.team).cluster) s)
    | .result v =>
      let evs := op.opv.map (·.1)
      let s := (lanesEvent s gid (lanesOf op.em) evs evs).2
      pop (s.modGrp gid fun g => op.land g [(0, v.toNat)] 0)
    | .load _ =>
      let ex := lateExcl s gid op.accs
      if !loadMay s op then s
      else if ex ≠ 0 ∧ faultable g op.frag op.did then
        if faultsNow g op.frag then lateFaultAt (undo s) gid op.frag op.pc op.did op.accs ex
        else standBefore (undo s) gid op.frag op.pc op.did
      else match if ch % 2 = 1 then holdClaimed s op.accs else none with
      | some s => s
      | none =>
        let s := touchLines s gid op.accs
        let pois := poisLanes s op
        let r := op.accs.foldl (fun (p : State × List (Nat × Nat) × Nat) (a : LaneAcc) =>
          let x := loadLane p.1 gid op a p.2.2
          (x.1, p.2.1 ++ [(a.lane, x.2.1)], x.2.2)) (s, [], ch / 2)
        pop (r.1.modGrp gid fun g => op.land g r.2.1 pois)
    | .atomic aop =>
      let ex := if op.sc ≤ 3 then lateExcl s gid op.accs else 0
      let fences (l : Nat) := (op.acqFences.filter fun f => f.1 == l).map (·.2)
      if !atomicMay s g op then s
      else match holdClaimed s op.accs with
      | some s => s
      | none =>
        if ex ≠ 0 ∧ faultable g op.frag op.did then
          if !faultsNow g op.frag then
            standBefore (undo (op.accs.foldl (fun s a => s.endPend a.node) s)) gid op.frag op.pc op.did
          else
            let now := op.accs.filter fun a => !ex.getLsbD a.lane
            let pois := poisLanes s { op with accs := now }
            let r := atomicRun (touchLines s gid now) gid aop op.ty op.width op.sc op.ord false op.two fences op.opv now ch
            let s := op.accs.foldl (fun s a => s.endPend a.node) r.1
            let s := s.modGrp gid fun g => if r.2.isEmpty then g else op.land g r.2 pois
            lateFaultAt (undo s) gid op.frag op.pc op.did op.accs ex
        else
          let n := atomicLanes op.sc op.accs.length ch
          let now := op.accs.take n
          let s := if op.sc ≥ 4 then s else touchLines s gid now
          let pois := poisLanes s { op with accs := now }
          let r := atomicRun s gid aop op.ty op.width op.sc op.ord false op.two fences op.opv now (ch / 2)
          let s := r.1.modGrp gid fun g => op.land g r.2 pois
          if (op.accs.drop n).isEmpty then pop s
          else s.modGrp gid fun g =>
            let g := { g with loads := { op with accs := op.accs.drop n } :: rest }
            match op.dst with | some (_, d) => addPendV g d (regsOf op.ty) | none => g

/-! ### Stores (R149, R153, R155, R159, R243) -/

/-- Whether a store may perform: earlier loads have returned (R252), the stores it follows have been acknowledged (R147, R243),
for a release and for an operation on a range every earlier one (R159), and a reduction follows the atomics before it. -/
def storeMay (s : State) (g : Group) (op : StoreOp) : Bool :=
  let range := match op.kind with | .range _ _ _ _ => true | _ => false
  !(g.loads.any fun l => l.seq < op.seq) && !storesBefore g op.seq op.after op.accs &&
    !((releases 1 op.ord || range) && g.stores.any fun t => t.seq < op.seq) &&
    !(match op.kind with | .red _ => atomicBlocked s op.accs | _ => false)

/-- The lines of a range that pass steps 1, 2, 3, 5 and 6 of R297 and grant R or W: address, key and leaf. -/
def rangeLine (s : State) (asid va : Nat) : Option (Nat × Nat) :=
  match walk s asid va with
  | .leaf e level =>
    if bits e 7 1 = 0 ∨ !keyOk s asid e level ∨ bits e 15 1 = 0 ∨ (bits e 4 1 = 0 ∧ bits e 5 1 = 0) then none
    else
      let dev := if bits e 48 2 = 0 then bits e 56 8 else s.self
      some (devKey dev (bits e 16 32 * 2 ^ 16 + va % 2 ^ leafBits level), e)
  | _ => none

/-- The addresses of the lines that overlap [a, a + n). -/
def lineVas (a n : Nat) : List Nat :=
  if n = 0 then [] else (List.range ((a + n - 1) / 128 - a / 128 + 1)).map fun i => (a / 128 + i) * 128

/-- An access of a group to a line that is on its way, whose fragment has gone on, and that waits for no store: what it waits for is
at most loads and atomics that may return. -/
def onWay (s : State) (g : Group) (line : Nat) : Bool :=
  let may (op : LoadOp) : Bool := match op.kind with
    | .load _ => loadMay s op
    | .atomic _ => atomicMay s g op
    | _ => true
  let ready := g.loads.takeWhile may
  let hit (accs : List LaneAcc) (frag did : Nat) : Bool := accs.any (fun a => a.pa / 128 == line) && !faultable g frag did
  (ready.any fun op => (match op.kind with | .load _ => true | .atomic _ => op.sc ≤ 3 | _ => false) && hit op.accs op.frag op.did) ||
    g.stores.any fun op => op.kind == .store && hit op.accs op.frag op.did && !storesBefore g op.seq op.after op.accs &&
      !(releases 1 op.ord && g.stores.any fun t => t.seq < op.seq) &&
      (g.loads.filter fun l => l.seq < op.seq).all ready.contains

/-- A line is not parked for a set while an access from a core outside it is on its way there, whose fault could no longer be
precise: it found the line before (R241, R308) (DEDUCED, log 51). -/
def parkWaits (s : State) (asid key : Nat) (d : Word) : Bool :=
  s.groups.any fun p => p.2.live && s.asidOf p.2 == asid && !inSet s d (s.coreOf p.2) && onWay s p.2 (key / 128)

/-- A range operation on one line: RFLUSH 0, RINV 1, REPARK 2, UNPARK 3 (R159); REPARK sets no PXC, which an STN alone sets
(R206) (DEDUCED, log 52), and leaves another context's line at home (R239). -/
def rangeOne (rop : Nat) (desc : Word) (gid : Nat) (s : State) (va : Nat) : State :=
  let asid := s.asidOf (s.grp gid)
  match rangeLine s asid va with
  | none => s
  | some (key, e) =>
    match rop with
    | 1 => s
    | 2 =>
      let s := crossDemote s key asid
      if (s.parkOf key).isNone then s
      else stnPlace s va key asid desc (stnOrdinary s asid (s.team (s.grp gid).team).launch desc key (leafPark e))
    | _ => s.unpark (key / 128)

/-- The lines that an STN or a REPARK is to park, with its set: it waits while one of them may not be parked yet. -/
def parksLater (s : State) (asid : Nat) (op : StoreOp) : Bool :=
  match op.kind with
  | .stn d => op.parked.any fun line => parkWaits s asid (line * 128) d
  | .range 2 d a n => (lineVas a n).any fun v => match rangeLine s asid v with
    | some (key, _) => (s.parkOf key).isSome && parkWaits s asid key d
    | none => false
  | _ => false

/-- FLAGS without what a store has raised, but for the lanes of a mask. -/
def StoreOp.flagsFor (op : StoreOp) (g : Group) (m : Lanes) : Word :=
  (g.flags &&& ~~~(opvFlags op.opv (BitVec.allOnes 32) &&& ~~~op.flags)) ||| opvFlags op.opv m

/-- The writes of lanes of a store that will not perform. -/
def dropWrites (s : State) (accs : List LaneAcc) : State :=
  let lost := accs.map (·.node)
  { s with ord := { s.ord with writes := s.ord.writes.filter fun w => !lost.contains w.node } }

/-- STORE_ACK: the ix-th outstanding store, reduction or range operation is performed and acknowledged, if it may be; of a
reduction at device or system scope one lane at a time, at the device's choice (DESIGN CHOICE, log 10; DEDUCED, log 18). -/
def storeAck (s : State) (gid ix ch : Nat) : State :=
  let g := s.grp gid
  match g.stores[ix]? with
  | none => s
  | some op =>
    let asid := s.asidOf g
    if !storeMay s g op || parksLater s asid op then s
    else match holdClaimed s op.accs with
    | some s => s
    | none =>
      let pop (s : State) : State :=
        settleGroup (s.modGrp gid fun g => { g with stores := g.stores.filter fun t => t.seq != op.seq }) gid
      let ack (s : State) (accs : List LaneAcc) : State :=
        let s := refuseAll s asid (accs.map (·.pa))
        clearPois (accs.foldl (fun (s : State) (a : LaneAcc) => performAt s a.node a.pa) s) (accs.map (writeSpan s))
      match op.kind with
      | .range rop desc a n => pop ((lineVas a n).foldl (rangeOne rop desc gid) s)
      | .red aop =>
        let n := atomicLanes op.sc op.accs.length ch
        let r := atomicRun s gid aop op.ty op.width op.sc op.ord true op.two (fun _ => []) op.opv (op.accs.take n) (ch / 2)
        let rest := op.accs.drop n
        if rest.isEmpty then pop r.1
        else r.1.modGrp gid fun g =>
          { g with stores := g.stores.map fun t => if t.seq = op.seq then { t with accs := rest } else t }
      | .stn desc =>
        pop (ack (op.accs.foldl (fun (s : State) (a : LaneAcc) =>
          stnPlace s a.va a.pa asid desc !(op.parked.contains (a.pa / 128))) s) op.accs)
      | .store =>
        let ex := lateExcl s gid op.accs
        if ex ≠ 0 ∧ faultable g op.frag op.did then
          let m := if faultsNow g op.frag then ~~~ex else 0
          let s := ack s (op.accs.filter fun a => m.getLsbD a.lane)
          let s := dropWrites s (op.accs.filter fun a => !m.getLsbD a.lane)
          let s := pop (s.modGrp gid fun g => { g with flags := op.flagsFor g m })
          if faultsNow g op.frag then lateFaultAt s gid op.frag op.pc op.did op.accs ex
          else standBefore s gid op.frag op.pc op.did
        else pop (ack (touchLines s gid op.accs) op.accs)

/-! ### Tile operations (R165, R300) -/

/-- Tuber, as the agent of its own writes. -/
def tuberAgent : Nat := 2 ^ 56

def tuberPlace (s : State) : Place := ⟨1, 2 ^ 42, 2 ^ 42, 2 ^ 42, 0, s.self⟩

/-- A write of a table entry by an agent: one indivisible 8-byte store of a scope, which may release. -/
def putEntryAs (s : State) (ag : Nat) (pl : Place) (sc : Nat) (rel : Bool) (pa v : Nat) : State :=
  let (n, o) := s.ord.event ag []
  let s := { s with ord := o }
  let s := s.addWrite ⟨n, ag, pl, devKey s.self pa, natLe 8 v, true, sc, false, false, relOf (s.ord.ag ag) n pl sc rel true,
    none, [], [], false⟩
  (s.perform n).ackW n

/-- Tuber's write of a table entry: a store at device scope with release order (R298). -/
def putEntry (s : State) (pa v : Nat) : State := putEntryAs s tuberAgent (tuberPlace s) 4 true pa v

/-- A frame leaves what it held: its bytes read zero, no earlier write to it can be read, and its marks are cleared. -/
def zeroFrame (s : State) (frame : Nat) : State :=
  let lo := devKey s.self (frame * 2 ^ 16)
  let inF (k : Nat) : Bool := lo ≤ k && k < lo + 2 ^ 16
  let o := s.ord
  { s with
    mem := s.mem.filter fun c => !inF c.1
    mpois := s.mpois.filter fun l => !inF (l * 128)
    ord := { o with
      writes := o.writes.filter fun w => !inF w.addr
      acqObs := o.acqObs.filter fun e => !inF e.1
      agents := o.agents.map fun a => (a.1, { a.2 with
        obs := a.2.obs.filter fun p => !inF p.1, floor := a.2.floor.filter fun p => !inF p.1 }) } }

/-- An access of a context that used a translation of some 64 KiB pages has yet to perform (R299). -/
def unperformed (s : State) (asid : Nat) (page : Nat → Bool) : Bool :=
  let hit (accs : List LaneAcc) : Bool := accs.any fun a => page (vpage a.va)
  (s.groups.any fun p => s.asidOf p.2 == asid && ((p.2.loads.any fun o => hit o.accs) || (p.2.stores.any fun o => hit o.accs) ||
    p.2.held.any fun h => (h.2.load.any fun o => hit o.accs) || h.2.store.any fun o => hit o.accs)) ||
  s.copies.any fun c => !c.2.fin && c.2.done < c.2.stop && s.asidOf (s.grp c.2.gid) == asid && c.2.pieces.any fun p => page (p.1 / 2)

/-- Drops the cached translations of a 64 KiB page (R165, R299). -/
def dropTlb (s : State) (asid va : Nat) : State :=
  { s with tlb := s.tlb.filter fun t => !(t.asid == asid && t.serves (vpage va)) }

/-- A frame of a key in a context's commit pool, the device choosing which (R300). -/
def poolFrame (s : State) (asid key ch : Nat) : Option Nat :=
  pick ((s.asid asid).pool.filter fun f => aget 0 f s.shallot.owner == key) ch

def takeFrame (s : State) (asid f : Nat) : State :=
  let a := s.asid asid
  s.setAsid asid { a with pool := a.pool.erase f }

/-- Commits one tile; `none` where the operation stops (R165, R300) (DEDUCED, log 49). -/
def commitTile (asid ch : Nat) (s : State) (va : Nat) : Option State :=
  if va ≥ 2 ^ 57 then none
  else match subTable s asid va with
  | none => none
  | some node =>
    let pa := node + 8 * vaIndex va 4
    let e := s.rd (devKey s.self pa) 8
    if bits e 0 1 = 0 ∨ bits e 1 1 = 0 then none
    else if bits e 15 1 = 1 then some s
    else match poolFrame s asid (bits e 50 6) ch with
    | none => none
    | some f =>
      let s := zeroFrame (takeFrame s asid f) f
      some (dropTlb (putEntry s pa (e - bits e 16 32 * 2 ^ 16 + f * 2 ^ 16 + 2 ^ 15)) asid va)

/-- Decommits one tile: its contents and parked lines are discarded, its frame returns to the pool. -/
def decommitTile (asid : Nat) (s : State) (va : Nat) : Option State :=
  if va ≥ 2 ^ 57 then none
  else match subTable s asid va with
  | none => none
  | some node =>
    let pa := node + 8 * vaIndex va 4
    let e := s.rd (devKey s.self pa) 8
    if bits e 0 1 = 0 ∨ bits e 1 1 = 0 then none
    else if bits e 15 1 = 0 then some s
    else
      let f := bits e 16 32
      let line := devKey s.self (f * 2 ^ 16) / 128
      let s := { s with parks := s.parks.filter fun p => !(line ≤ p.line && p.line < line + 512) }
      let a := s.asid asid
      let s := s.setAsid asid { a with pool := a.pool ++ [f] }
      some (dropTlb (putEntry s pa (e - f * 2 ^ 16 - 2 ^ 15)) asid va)

/-- Tiles in ascending order until one stops the operation. -/
def tiles (op : State → Nat → Option State) : State → Nat → Nat → State
  | s, _, 0 => s
  | s, va, n + 1 => match op s va with
    | none => s
    | some s => tiles op s (va + 65536) n

/-- The result word of PQUERY (R165) (DEDUCED, log 54). -/
def queryTile (s : State) (asid va : Nat) : Nat :=
  match walk s asid va with
  | .leaf e level => bits e 15 1 + 2 + 4 * bits e 2 2 + 16 * bits e 48 2 +
      (if bits e 5 1 = 1 ∧ bits e 7 1 = 1 ∧ keyOk s asid e level then 64 else 0)
  | _ => 0

/-! ### The heap (R166, R301, R302) -/

/-- The block class of a size: the power of two at least 64. -/
def blockClass (size : Nat) : Nat := (((List.range 11).map fun i => 2 ^ (6 + i)).find? fun c => size ≤ c).getD 65536

def State.heapOf (s : State) (asid die : Nat) : Heap :=
  (s.heaps.find? fun h => h.asid == asid && h.die == die).getD ⟨asid, die, [], [], []⟩

def State.setHeap (s : State) (h : Heap) : State :=
  { s with heaps := h :: s.heaps.filter fun x => !(x.asid == h.asid && x.die == h.die) }

/-- The next unused tile of a die's quarter. -/
def nextTile (s : State) (asid die : Nat) : Option Nat :=
  let a := s.asid asid
  let q := a.htiles / 4
  let n := (s.heapOf asid die).slabs.length
  if n < q then some (a.heap + (die * q + n) * 65536) else none

/-- Takes the next unused tile as a slab of a class, committing it when it is uncommitted; a tile under a committed leaf of any
size needs no commit (R301) (DEDUCED, log 50). -/
def newSlab (s : State) (asid die cls ch : Nat) : Option State :=
  match nextTile s asid die with
  | none => none
  | some va =>
    let ready := match walk s asid va with | .leaf e _ => bits e 15 1 == 1 | _ => false
    match if ready then some s else commitTile asid ch s va with
    | none => none
    | some s =>
      let h := s.heapOf asid die
      some (s.setHeap { h with
        slabs := h.slabs ++ [(va, cls)]
        free := h.free ++ (List.range (65536 / cls)).map fun i => (va + i * cls, cls, none) })

/-- ALLOC is served: a free block of the class, or one of a new slab, by the device's choice; zero where there is none;
with the event of the block's last FREE, which the ALLOC acquires for the block alone (R166) (DEDUCED, log 50). -/
def allocServe (s : State) (asid die size ch : Nat) : State × Nat × Option Nat :=
  let cls := blockClass size
  let blocks (s : State) : List (Nat × Nat × Option Nat) := (s.heapOf asid die).free.filter fun b => b.2.1 == cls
  let s' := if ch % 2 = 1 || (blocks s).isEmpty then (newSlab s asid die cls (ch / 2)).getD s else s
  match pick (blocks s') (ch / 2) with
  | none => (s', 0, none)
  | some b =>
    let h := s'.heapOf asid die
    (s'.setHeap { h with free := h.free.filter fun x => x.1 != b.1, live := (b.1, cls) :: h.live }, b.1, b.2.2)

/-- FREE is served with the event of its release: its parked lines go home and the block is free; an address that starts no
live block is counted. -/
def freeServe (s : State) (asid va node : Nat) : State :=
  match s.heaps.find? fun h => h.asid == asid && h.live.any fun b => b.1 == va with
  | none =>
    let a := s.asid asid
    s.setAsid asid { a with badfree := a.badfree + 1 }
  | some h =>
    let cls := (h.live.lookup va).getD 0
    let s := (lineVas va cls).foldl (fun s v => match walk s asid v with
      | .leaf e level =>
        s.unpark (devKey (bits e 56 8) (bits e 16 32 * 2 ^ 16 + v % 2 ^ leafBits level) / 128)
      | _ => s) s
    s.setHeap { h with live := h.live.filter fun b => b.1 != va, free := (va, cls, some node) :: h.free }

/-- Whether an operation is a FREE whose release still waits for earlier accesses of its group (R147, R166). -/
def freeWaits (g : Group) (op : TileOp) : Bool :=
  op.op == 0xC3 && ((g.loads.any fun l => l.seq < op.seq) || g.stores.any fun t => t.seq < op.seq)

/-- TUBER_ANSWER: the oldest operation counted in TLC is served and answered (R94, R165, R166), a PDECOMMIT once every access
that used a translation of its tiles has performed (R299) (DEDUCED, log 49). -/
def tuberAnswer (s : State) (gid ch : Nat) : State :=
  let g := s.grp gid
  match g.tiles with
  | [] => s
  | op :: rest =>
    if freeWaits g op then s
    else
      let asid := s.asidOf g
      let pop (s : State) : State := s.modGrp gid fun g => { g with tiles := rest }
      let d := op.dst.getD 0
      match op.op with
      | 0xC0 => pop (tiles (commitTile asid ch) s op.va op.n)
      | 0xC1 =>
        if unperformed s asid fun p => op.va / 65536 ≤ p && p < op.va / 65536 + op.n then s
        else pop (tiles (decommitTile asid) s op.va op.n)
      | 0xC2 =>
        let (s, a, ev) := allocServe s asid (dieOf (s.coreOf g)) op.n ch
        let (n, s) := lanesEvent s gid (lanesOf op.em) [] []
        let s := match ev with
          | some e => { s with ord := s.ord.addLim n a (a + blockClass op.n) e }
          | none => s
        pop (s.modGrp gid fun g => ((g.putS64 d (BitVec.ofNat 64 a)).clrPend 1 d).clrPend 1 (d + 1))
      | 0xC3 => pop (freeServe s asid op.va op.node)
      | _ => pop (s.modGrp gid fun g => (g.putS d (BitVec.ofNat 32 (queryTile s asid op.va))).clrPend 1 d)

/-! ### The object table (R163, R164, R229) -/

/-- The bytes of two footprints meet. -/
def overlaps (b n b' n' : Nat) : Bool := b < b' + n' && b' < b + n

/-- The home slices of an object's parked lines, by the context's objects: the directory entry of a line follows its home (R229), and a
directory that is then over its capacity demotes its oldest (R236). -/
def moveDirs (s : State) (asid : Nat) (op : ObjOp) : State :=
  let s := (lineVas op.base op.foot).foldl (fun s v => match rangeLine s asid v with
    | some (key, _) => { s with parks := s.parks.map fun p =>
        if p.line = key / 128 then { p with home := homeSliceAt s asid v key } else p }
    | none => s) s
  settleParks s (3 * s.parks.length)

/-- The answer to an OBJDEF: the object table after it, and the result word. A new object takes any unused number, a free
value (assumption 4) (DEDUCED, log 55). -/
def objDefine (s : State) (asid : Nat) (op : ObjOp) : State × Word :=
  match s.objs.find? fun o => o.2.asid == asid && o.2.base == op.base && o.2.foot == op.foot with
  | some (k, o) =>
    let own := field op.shape 11 1
    let shape := setField o.shape 11 1 (bits (field o.shape 11 1) 0 2 + 4 * bits own 2 2)
    ({ s with objs := aput k { o with state := op.state, shape := shape } s.objs }, BitVec.ofNat 32 k)
  | none =>
    if s.objs.any fun o => o.2.asid == asid && overlaps o.2.base o.2.foot op.base op.foot then (s, 0x9000_0000)
    else if s.objs.length ≥ 16384 then (s, 0xA000_0000)
    else
      let free := (List.range 16384).filter fun k => (afind k s.objs).isNone
      let k := (pick free (Config.free s.fresh 3 0)).getD 0
      ({ s with objs := aput k ⟨asid, op.base, op.foot, op.state, op.shape⟩ s.objs, fresh := s.fresh + 1 },
        BitVec.ofNat 32 k)

/-- The answer to an OBJDEL: its parked lines go home and the entry is removed. -/
def objDelete (s : State) (asid : Nat) (op : ObjOp) : State :=
  let s := (lineVas op.base op.foot).foldl (fun s v => match walk s asid v with
    | .leaf e level => s.unpark (devKey (bits e 56 8) (bits e 16 32 * 2 ^ 16 + v % 2 ^ leafBits level) / 128)
    | _ => s) s
  { s with objs := adel op.num s.objs }

/-- OBJECT_TABLE_ANSWER: the table answers and the fragment goes on past its OBJDEF or OBJDEL (DEDUCED, log 55). -/
def objAnswer (s : State) (gid : Nat) : State :=
  let g := s.grp gid
  match g.obj with
  | none => s
  | some op =>
    let asid := s.asidOf g
    let len : DWord := if s.radOf g then 8 else 4
    let fin (s : State) (f : Group → Group) : State := s.modGrp gid fun g =>
      let g := { f g with obj := none }
      match afind op.frag g.frags with
      | some fr => g.retire.goto op.frag (fr.pc + len)
      | none => g
    if op.del then fin (objDelete s asid op) id
    else
      let r := objDefine s asid op
      fin (if r.2.getLsbD 31 then r.1 else moveDirs r.1 asid op) fun g => g.putS op.dst r.2

/-! ### The special-function queue (R48) -/

/-- SFU_RESULT_WRITE: the oldest result is written to its register. -/
def sfuWrite (s : State) (gid : Nat) : State :=
  s.modGrp gid fun g => match g.sfu with
    | [] => g
    | r :: rest => { g with sfu := rest }.applySfu r

/-! ### The locate fault (R145, R154, R241) -/

/-- Issues the lanes of a held store or atomic that its parked lines do not exclude. -/
def serveHeld (s : State) (gid : Nat) (h : HeldOp) : State :=
  match h.store, h.load with
  | some op, _ =>
    if op.accs.isEmpty then s
    else
      let v (l : Nat) : Nat := ((op.opv.lookup l).map (·.1)).getD 0
      let (accs, s) := laneEvents s gid (op.accs.map fun a => (a.lane, a.va, a.pa))
      let s := enterWrites s gid op.sc op.ord op.width accs v
      let s := s.modGrp gid fun g => { g with flags := g.flags ||| opvFlags op.opv (~~~h.excl) }
      pushStore s gid { op with accs := accs }
  | none, some op =>
    match op.kind with
    | .atomic _ =>
      if op.accs.isEmpty then s
      else
        let (accs, s) := laneEvents s gid (op.accs.map fun a => (a.lane, a.va, a.pa))
        let s := noteFloors s gid (acquires 2 op.ord) op.sc op.width accs
        pushLoad (s.notePend (pendOf op.width accs)) gid { op with accs := accs } (regsOf op.ty)
    | _ => s
  | none, none => s

/-- LOCATE_FAULT_DETECT: the access a fragment holds at a parked line raises the locate fault, unless the group is held or runs
another fragment's handler (R311, R313). A load performs for no lane; a
store or atomic has been sent for every lane that the fault does not name. -/
def locateDetect (s : State) (gid fid : Nat) : State :=
  let g := s.grp gid
  match afind fid g.held with
  | none => s
  | some h =>
    if !faultsNow g fid || !((g.frag fid).wait == .locate fid) || !(h.keys.all fun k => excluded s k (s.coreOf g) (s.asidOf g)) then s
    else
      let s := serveHeld s gid h
      let s := s.modGrp gid fun g => { g with held := adel fid g.held }
      takeFault s gid fid (fltL 7 0 h.ea true h.excl) h.excl

/-! ### Waits that time ends (R96, R281) -/

/-- The fragment is ready again. -/
def wake (s : State) (gid fid : Nat) : State :=
  s.modGrp gid fun g => g.modFrag fid fun f => { f with wait := .run, age := 0, promoted := false }

/-- SNOOZE_EXPIRY, once the cycles have passed. -/
def snoozeEnd (s : State) (gid fid : Nat) : State :=
  match afind fid (s.grp gid).frags with
  | some f => match f.wait with
    | .snooze since n => if since + n ≤ s.coreCyc (s.coreOf (s.grp gid)) then wake s gid fid else s
    | _ => s
  | none => s

/-- YIELD_EXPIRY: every other fragment that was ready has had its issue opportunity or is no longer ready, or 64 cycles have
passed; the fragment goes on past its YIELD. -/
def yieldEnd (s : State) (gid fid : Nat) : State :=
  let g := s.grp gid
  match afind fid g.frags with
  | some f => match f.wait with
    | .yield since others =>
      if since + 64 ≤ s.coreCyc (s.coreOf g) ∨ !(others.any fun o => ready s o.1 o.2) then
        s.modGrp gid fun g => g.retire.goto fid (f.pc + if s.radOf g then 8 else 4)
      else s
    | _ => s
  | none => s

/-- ISSUE_AGE_PROMOTION: ready and not issued for 256 cycles. -/
def promote (s : State) (gid fid : Nat) : State :=
  if ready s gid fid && ((s.grp gid).frag fid).age ≥ 256 then
    s.modGrp gid fun g => g.modFrag fid fun f => { f with promoted := true }
  else s

/-- The fragments that the issue slots of a core have taken in its present cycle. -/
def takenNow (s : State) (core : Nat) : List (Nat × Nat) :=
  if (s.core core).cyc = s.cyc core then (s.core core).taken else []

/-- Issue slots of a core in one cycle of its clock: four of a Marrow core, each taking a distinct fragment, one of a Radish core
(R281). -/
def slotsOf (core : Nat) : Nat := if isRadishCore core then 1 else 4

/-- The opcode of a fragment's next instruction, past a LIT of it; 0 where its words cannot be fetched. -/
def nextOp (s : State) (p : Nat × Nat) : Nat :=
  let g := s.grp p.1
  let rad := s.radOf g
  let pc := (g.frag p.2).pc
  let word (a : DWord) : Word :=
    match fetchWord s (fetchAgent p.1) (s.placeOf p.1) (s.asidOf g) (if rad then a + 4 else a) with
    | .ok w => w
    | .error _ => 0
  let w := word pc
  if opcodeOf w = 0xFF then opcodeOf (word (pc + BitVec.ofNat 64 (4 + 4 * marrowExtra w))) else opcodeOf w

/-- The throttled classes: vector integer, floating point, special function, conversion and cross-lane (R347). -/
def throttledOp (op : Nat) : Bool := (0x30 ≤ op && op ≤ 0x4F) || (0x60 ≤ op && op ≤ 0x99)

/-- The number of a core's present core cycle: two of a Radish core's cycles make one. -/
def coreCycle (s : State) (core : Nat) : Nat := if isRadishCore core then s.cyc core / 2 else s.cyc core

/-- Whether a core withholds the throttled classes in its present cycle: while the module throttles, in at most three of every four core
cycles, at the device's choice, a free value, made once for a cycle (R347; assumption 4) (DESIGN CHOICE, log 96). -/
def withholds (s : State) (core : Nat) : Bool :=
  let c := coreCycle s core
  let slow := (s.core core).slow
  s.mod.throt && (slow.contains c || ((takenNow s core).isEmpty && !([1, 2, 3].all fun i => i ≤ c && slow.contains (c - i)) &&
    Config.free s.fresh 3 1 % 2 == 1))

/-- The last core cycles in which a core withheld the throttled classes, the present one with them. -/
def slowNow (s : State) (core : Nat) : List Nat :=
  let slow := (s.core core).slow
  if withholds s core && !slow.contains (coreCycle s core) then coreCycle s core :: slow.take 2 else slow

/-- The ready fragments that the next issue slot may take: of those that no slot of the cycle has taken and whose next instruction is not
withheld, the promoted that have been ready longest, or in the smallest class present those ready longest (R281, R347). -/
def slotCands (s : State) (core : Nat) : List (Nat × Nat) :=
  let free := if (takenNow s core).length < slotsOf core then (readyOn s core).filter fun p => !(takenNow s core).contains p else []
  let all := free.filter fun p => !(withholds s core && throttledOp (nextOp s p))
  let fr (p : Nat × Nat) : Frag := (s.grp p.1).frag p.2
  let prom := all.filter fun p => (fr p).promoted || (fr p).age ≥ 256
  let c := if prom.isEmpty then
      let cl := all.foldl (fun m p => min m (s.grp p.1).prio) 3
      all.filter fun p => (s.grp p.1).prio == cl
    else prom
  let age := c.foldl (fun m p => max m (fr p).age) 0
  c.filter fun p => (fr p).age == age

/-- A fragment's issue opportunity counts for every YIELD that waits for it. -/
def hadTurn (s : State) (a : Nat × Nat) : State :=
  { s with groups := s.groups.map fun p => (p.1, { p.2 with frags := p.2.frags.map fun f => match f.2.wait with
      | .yield t os => (f.1, { f.2 with wait := .yield t (os.filter fun o => o != a) })
      | _ => f }) }

/-- ISSUE_SLOT: a slot of a core takes one ready fragment, or its sequencer slot a ready stream (R198, R281). -/
def issueSlot (s : State) (core : Nat) (sequencer : Bool) (ch : Nat) : State :=
  if sequencer then
    match pick ((s.teams.filter fun t => t.2.core == core && streamReady s t.1).map (·.1)) ch with
    | some t => { s with cur := some (.stream t) }
    | none => s
  else match pick (slotCands s core) ch with
    | some a =>
      let k : Core := { s.core core with cyc := s.cyc core, taken := a :: takenNow s core, slow := slowNow s core }
      { hadTurn s a with cur := some (.frag a.1 a.2), cores := aput core k s.cores }
    | none => if withholds s core then { s with cores := aput core { s.core core with slow := slowNow s core } s.cores } else s

/-- MMA_COMPLETE: the stream's unit or port is free. -/
def unitDone (s : State) (tid : Nat) : State :=
  if (s.team tid).stream.isSome then s.setStr tid { s.str tid with busy := false } else s

end Sys2Proof.Machine
end

