-- ==== Sys2Proof/Machine/Record.lean ====
section
/-! DEFINITION. Launch records (R271 to R274), what a team of a launch needs of a core (R36, R105), and LAUNCH (R107). -/
set_option linter.all false
namespace Sys2Proof.Machine

/-! ### What a role reserves (R105) -/

/-- The roles a set of roles may switch to, in one step more. -/
def switchStep (l : Launch) (m : Nat) : Nat :=
  (List.range 8).foldl (fun a i => if Nat.testBit m i && l.roleKind i < 2 then Nat.lor a (l.role i 9 1) else a) m

/-- Registers a lane that a group of role i reserves: the largest allotment among the roles it may come to (R105)
(DEDUCED, log 34). -/
def reserveOf (l : Launch) (i : Nat) (rad : Bool) : Nat :=
  let m := (List.range 8).foldl (fun m _ => switchStep l m) (2 ^ i)
  (List.range 8).foldl (fun a j => if Nat.testBit m j && l.roleKind j < 2 then max a (l.allot j rad) else a) 0

/-- Groups of a team by their roles, and the registers they reserve in all. -/
def Launch.teamGroups (l : Launch) : Nat := ((List.range 8).map fun i => if l.roleKind i < 2 then l.roleCount i else 0).sum
def Launch.teamRegs (l : Launch) (rad : Bool) : Nat :=
  ((List.range 8).map fun i => if l.roleKind i < 2 then l.roleCount i * reserveOf l i rad else 0).sum
def Launch.hasMatrix (l : Launch) : Bool := (List.range 8).any fun i => l.roleKind i == 2
def Launch.winBytes (l : Launch) : Nat := l.fld 68 4
def Launch.carve (l : Launch) : Nat := l.fld 72 1
def Launch.hasGb (l : Launch) : Bool := (List.range 8).any fun i => l.roleKind i < 2 && bits (l.role i 10 4) 24 4 != 0

/-- Slots, registers and local store of a core by class (R9, R10, R36). -/
def coreSlots (rad : Bool) : Nat := if rad then 8 else 64
def coreRegs (rad : Bool) : Nat := if rad then 2048 else 4096
def coreWin (rad : Bool) : Nat := if rad then 262144 else 524288

/-! ### The checks of R274 -/

/-- Role entry i lies in the ranges of R273; `qc` is the class its queue gives, where it is known (DEDUCED, log 35). -/
def roleOk (l : Launch) (i qc : Nat) : Bool :=
  let k := l.roleKind i
  let mem := l.role i 10 4
  if k = 3 then l.role i 0 6 == 0 && l.role i 6 1 == 3 && l.role i 7 7 == 0
  else
    (if k = 2 then l.roleCount i == 1 && l.role i 7 1 == 0 && mem < 2 ^ 16
     else 1 ≤ l.roleCount i && l.roleCount i ≤ 32 && 2 ≤ l.role i 7 1 && l.role i 7 1 ≤ 32) &&
      l.role i 8 1 < 4 && qc ≤ l.role i 8 1 && mem < 2 ^ 28

/-- Every zero field is zero, and every field lies in the range that Table 1 gives (R271 to R273) (DEDUCED, log 35). -/
def fieldsOk (l : Launch) (qc : Nat) : Bool :=
  let rad := l.startRadish
  l.fld 73 1 == 0 && l.fld 76 4 == 0 && l.fld 64 1 < 8 && bits (l.fld 66 1) 6 1 == 0 &&
    (l.fld 24 4 == 0xFFFF_FFFF || l.fld 24 4 % 4 == 0) && (l.fld 28 4 == 0xFFFF_FFFF || l.fld 28 4 % 8 == 0) &&
    l.fld 16 8 % 256 == 0 && l.fld 32 8 % 4 == 0 && l.fld 40 8 % 4 == 0 &&
    l.fld 56 2 != 0 && l.fld 58 2 != 0 && l.fld 60 2 != 0 &&
    1 ≤ l.w && 1 ≤ l.h && l.w * l.h ≤ 12 && l.fld 63 1 == l.teamGroups && l.policy != 3 && l.fld 67 1 ≤ 192 &&
    l.winBytes % 128 == 0 && (if rad then [0, 2, 4, 6, 8] else [0, 1, 2, 4]).contains l.carve &&
    ((List.range 8).all fun i => bits (l.fld (80 + 8 * i) 8) 0 2 != 3) && (List.range 8).all fun i => roleOk l i qc

/-- Clusters of a launch that an otherwise empty device holds at once (R274): by rectangles in each run of columns of its
class, by what a core holds of such teams, and by the 4,096 cluster numbers (DEDUCED, log 34). -/
def deviceHolds (l : Launch) : Nat :=
  let rad := l.startRadish
  let rects := 4 * (if rad then 2 / l.w else 2 * (3 / l.w)) * (8 / l.h)
  let by_ (cap n : Nat) : Nat := if n = 0 then coreSlots rad else cap / n
  let per := min (by_ (coreSlots rad) l.teamGroups) (min (by_ (coreRegs rad) (l.teamRegs rad))
    (min (by_ (coreWin rad) l.winBytes) (if l.hasMatrix then 1 else coreSlots rad)))
  min 4096 (rects * per)

/-- Why a record is refused (R274), if it is; `tt` says that it is for a time-triggered entry. -/
def recordCause (l : Launch) (qc : Nat) (tt : Bool) : Option String :=
  let rad := l.startRadish
  let plain := (List.range 8).filter fun i => l.roleKind i < 2
  if !fieldsOk l qc then some "field"
  else if ((List.range 8).filter fun i => l.roleKind i == 2).length > 1 || (rad && l.hasMatrix) then some "matrix role"
  else if l.teamGroups > (if rad then 8 else 32) || l.teamRegs rad > coreRegs rad || l.winBytes > coreWin rad then some "team size"
  else if l.policy ≠ 0 ∧ (l.teamGroups > 8 ∨ l.w * l.h ≠ 1 ∨ l.winBytes > 262144 ∨ l.hasMatrix) then some "migration"
  else if bits (l.fld 66 1) 7 1 = 1 ∧ !tt then some "time slot"
  else if rad ∧ l.fld 8 8 = 0 then some "Radish code base"
  else if (rad ∨ l.policy ≠ 0) ∧ plain.any fun i => l.role i 3 3 == 0xFF_FFFF then some "Radish entry"
  else if l.w > (if rad then 2 else 3) ∨ l.h > 8 then some "rectangle"
  else if l.hasGb && l.fld 56 2 * l.fld 58 2 * l.fld 60 2 > deviceHolds l then some "grid barrier"
  else none

/-- A launch of a context from a record, not yet queued; the kernel it runs is the one loaded at its code base
(DEDUCED, log 89). -/
def newLaunch (s : State) (asid : Nat) (r : List Byte) (q : Option Nat) (cls : Nat) : Launch :=
  let l := { Launch.empty with asid := asid, record := r, queue := q, cls := cls }
  { l with kernel := (s.kernels.find? fun k => k.asid == asid && k.marrowBase.toNat == l.codeBase false).map (·.index) }

/-- Puts a launch at the end of its queue. -/
def enqueueLaunch (s : State) (q : Nat) (l : Launch) : State :=
  let id := s.nextLaunch
  let x := s.queue q
  ({ s with nextLaunch := id + 1, launches := aput id l s.launches }).setQueue q { x with pending := x.pending ++ [id] }

/-- LAUNCH: the lowest lane's record goes to the queue it names (R107). The flag of the permission fault of a queue that the
context may not use is stated nowhere: a free value among those of its class (assumption 4) (DEDUCED, log 33). -/
def launchB (b : BitVec 3) (c : Ctx) (s : State) : Act :=
  let g := s.grp c.gid
  if c.em = 0 then .done s
  else
    let a := (g.sreg64 (2 * b.toNat)).toNat
    if a % 256 ≠ 0 then .fault s (fltL 5 0 a true (leaderMask c))
    else withRecord c s a 256 fun r t =>
      let q := field r 65 1
      let x := s.queue q
      let l := newLaunch s (s.asidOf g) r (some q) x.cls
      if !x.en || x.asid != s.asidOf g then .fault t (flt 6 (Config.free s.fresh 5 1 % 9))
      else if (recordCause l x.cls false).isSome then .fault t (flt 1 4)
      else if x.pending.length ≥ 64 then .wait s (.queue q)
      else .done (enqueueLaunch t q l)

end Sys2Proof.Machine
end

