-- ==== Sys2Proof/Machine/Sched.lean ====
section
/-! DEFINITION. The scheduler's own steps: placing clusters and grids (R36, R240, R275 to R278), time-triggered releases (R280),
and the end of launches (R106, R337). -/
set_option linter.all false
namespace Sys2Proof.Machine

/-! ### Room on a core (R36, R240) -/

/-- What a team needs of a core, or what teams use of one. -/
structure Need where
  groups : Nat
  regs : Nat
  win : Nat
  streams : Nat
  carve : Nat
  deriving DecidableEq, Repr

def Launch.need (l : Launch) (rad : Bool) : Need :=
  ⟨l.teamGroups, l.teamRegs rad, l.winBytes, if l.hasMatrix then 1 else 0, l.carve⟩

/-- What a team that exists needs on a core of a class: its groups that hold slots (DEDUCED, log 90). -/
def teamNeed (s : State) (tid : Nat) (rad : Bool) : Need :=
  let t := s.team tid
  let gs := t.groups.filter fun g => (s.grp g).live
  ⟨gs.length, (gs.map fun g => if rad then 256 else (s.grp g).resv).sum, t.winSize, if t.stream.isSome then 1 else 0,
    (s.launch t.launch).carve⟩

/-- The teams that hold room on a core: those resident, and those that move to it. -/
def teamsOn (s : State) (core : Nat) : List Nat :=
  (s.teams.filter fun t => t.2.resident && (t.2.core == core ||
    s.migq.any fun m => m.team == t.1 && m.dest == some core)).map (·.1)

/-- A carve-out, in 32 KiB units, that an L1 of a class can take: 0, 1, 2 or 4 ways of 32 KiB, or 0 to 4 of 64 KiB (R240). -/
def carveFits (rad : Bool) (c : Nat) : Bool := if rad then [0, 2, 4, 6, 8].contains c else [0, 1, 2, 4].contains c

/-- A core has room for k more teams of a need, beside those of `skip`; it has none for a carve-out that its L1 cannot take
(DEDUCED, log 43). -/
def roomFor (s : State) (core : Nat) (nd : Need) (k : Nat) (skip : Option Nat) : Bool :=
  let rad := isRadishCore core
  let us := ((teamsOn s core).filter fun t => some t != skip).map fun t => teamNeed s t rad
  (us.map (·.groups)).sum + k * nd.groups ≤ coreSlots rad && (us.map (·.regs)).sum + k * nd.regs ≤ coreRegs rad &&
    (us.map (·.win)).sum + k * nd.win ≤ coreWin rad &&
    (us.map (·.streams)).sum + k * nd.streams ≤ (if rad then 0 else 1) && carveFits rad nd.carve &&
    us.all fun u => u.carve == nd.carve

/-- A rectangle of sites of one class on one die (R8, R35). -/
def rectOk (rad : Bool) (w h base : Nat) : Bool :=
  base < 256 && rowOf base + h ≤ 8 &&
    (if rad then 3 ≤ colOf base && colOf base + w ≤ 5
     else colOf base + w ≤ 3 || (5 ≤ colOf base && colOf base + w ≤ 8))

/-- The cores of a rectangle in member order. -/
def rectCores (w h base : Nat) : List Nat := (List.range (w * h)).map fun j => base + 8 * (j / max 1 w) + j % max 1 w

/-- One more cluster of a launch fits at a base. -/
def clusterFits (s : State) (l : Launch) (base : Nat) : Bool :=
  rectOk l.startRadish l.w l.h base &&
    (rectCores l.w l.h base).all fun c => roomFor s c (l.need l.startRadish) 1 none

/-- n more clusters fit at once, at bases in rising order from `lo`, beside members already counted on `held`. -/
def gangFits (s : State) (l : Launch) : Nat → Nat → List Nat → Bool
  | 0, _, _ => true
  | n + 1, lo, held => (List.range 256).any fun b =>
      lo ≤ b && rectOk l.startRadish l.w l.h b &&
        (rectCores l.w l.h b).all (fun c => roomFor s c (l.need l.startRadish) (held.count c + 1) none) &&
        gangFits s l n b (rectCores l.w l.h b ++ held)

/-! ### Heads of the queues (R275, R276) -/

/-- Released time-triggered launches whose clusters are not all placed, then the heads of the queues, class by class and
round robin: launch, queue and class. -/
def heads (s : State) : List (Nat × Option Nat × Nat) :=
  ((s.launches.filter fun l => l.2.tt.isSome && l.2.placed < l.2.clusters && !l.2.ending).map fun l => (l.1, none, 0)) ++
    (List.range 4).flatMap fun c =>
      let qs := (s.queues.filter fun q => q.2.cls == c && !q.2.pending.isEmpty).map (·.1)
      let rot := match afind c s.turns with
        | some last => (qs.filter fun q => last < q) ++ qs.filter fun q => q ≤ last
        | none => qs
      rot.filterMap fun q => (s.queue q).pending.head?.map fun l => (l, some q, c)

/-- Wait words that a launch names: address and value. -/
def Launch.waitWords (l : Launch) : List (Nat × Nat) :=
  [(l.fld 32 8, l.fld 48 4), (l.fld 40 8, l.fld 52 4)].filter fun p => p.1 != 0

/-- Its wait words hold nothing back: they were satisfied when last read, or its first cluster is placed. -/
def waitsOver (l : Launch) : Bool := 0 < l.placed || l.waitWords.isEmpty || l.waits

/-- Its next cluster, or its whole grid, can be placed now. -/
def canPlace (s : State) (l : Launch) : Bool :=
  if l.hasGb then gangFits s l l.clusters 0 [] else (List.range 256).any (clusterFits s l)

/-- Its head has lacked only room for 100 µs (R276) (DEDUCED, log 64). -/
def lackedLong (s : State) (l : Launch) : Bool := match l.lack with | some t => t + 100000 ≤ s.time && !canPlace s l | none => false

/-- A reserved head of a smaller class, or one that has lacked room long enough, keeps it from every die (R276) (DEDUCED, log 64). -/
def heldBack (s : State) (cls : Nat) : Bool :=
  (heads s).any fun h => h.2.2 < cls && ((s.launch h.1).reserved || lackedLong s (s.launch h.1))

/-- A head that may be placed now. An address space whose EN is 0 is given no team (R292) (DEDUCED, log 63). -/
def dispatchable (s : State) (h : Nat × Option Nat × Nat) : Bool :=
  let l := s.launch h.1
  (s.asid l.asid).en && waitsOver l && !heldBack s h.2.2 && canPlace s l

/-- A head of class 0 or 1 that only lacks room (DEDUCED, log 63). -/
def lacksRoom (s : State) (h : Nat × Option Nat × Nat) : Bool :=
  let l := s.launch h.1
  h.2.2 ≤ 1 && (s.asid l.asid).en && waitsOver l && !canPlace s l

/-- Keeps the time since which each head of class 0 or 1 lacks room. -/
def noteLack (s : State) : State :=
  (heads s).foldl (fun s h => s.modLaunch h.1 fun l =>
    if lacksRoom s h then { l with lack := some (l.lack.getD s.time) } else { l with lack := none }) s

/-- HEAD_RESERVE_TIMEOUT: a head has lacked only room for 100 µs (DEDUCED, log 64). -/
def headReserve (s : State) (lid : Nat) : State :=
  if (heads s).any fun h => h.1 == lid && lacksRoom s h then
    s.modLaunch lid fun l => match l.lack with
      | some t => if t + 100000 ≤ s.time then { l with reserved := true } else l
      | none => l
  else s

/-- A launch leaves its queue. -/
def dequeue (s : State) (lid : Nat) : State :=
  match (s.launch lid).queue with
  | some q => s.setQueue q { s.queue q with pending := (s.queue q).pending.filter (· != lid) }
  | none => s

/-- A launch ends without starting; the cause is recorded (R275, R332). -/
def endUnstarted (s : State) (lid : Nat) (cause : String) : State :=
  let s := endLaunch (dequeue s lid) lid
  { s with log := s.log ++ [cause] }

/-- WAIT_WORD_POLL: the head's wait words are read at home (R275). -/
def pollWaits (s : State) (q : Nat) : State :=
  match (s.queue q).pending with
  | [] => s
  | lid :: _ =>
    let l := s.launch lid
    if l.placed ≠ 0 then s
    else
      let rs := l.waitWords.map fun w => match translate s l.asid w.1 .read 0 with
        | .ok key _ _ => some (decide (w.2 ≤ leNat (s.shown l.asid key 4)))
        | _ => none
      let s := l.waitWords.foldl (fun s w => s.noteRead l.asid w.1 4 0) s
      let s := { s with fresh := s.fresh + 1 }
      if rs.contains none then endUnstarted s lid "wait word"
      else s.setLaunch lid { l with waits := rs.all (· == some true) }

/-! ### Placing (R272, R273, R277, R332) -/

/-- A placement wakes a module in IDLE to ON (R346). -/
def Module.woken (m : Module) : Module := if m.state = 3 then { m with state := 2 } else m

/-- The pod lines of a core go home, unparked (R239, R240) (DEDUCED, log 43). -/
def demotePod (s : State) (core : Nat) : State :=
  { s with parks := s.parks.filter fun p => !(p.places.contains core && p.level == 0) }

/-- A core takes a carve-out (DEDUCED, log 43). -/
def setCarve (s : State) (core c : Nat) : State :=
  if (s.core core).carve = c then s
  else
    let s := demotePod s core
    { s with cores := aput core { s.core core with carve := c } s.cores }

/-- The argument block: 256 bytes a present role entry (R332); none where it cannot be read. -/
def readArgs (s : State) (l : Launch) : Option (List Byte) :=
  (List.range 8).foldl (fun (a : Option (List Byte)) i => match a with
    | none => none
    | some bs =>
      if l.roleKind i = 3 then some (bs ++ List.replicate 256 0)
      else match translate s l.asid (l.fld 16 8 + 256 * i) .read i with
        | .ok key _ _ => some (bs ++ s.shown l.asid key 256)
        | _ => none) (some [])

/-- What reading the argument block leaves (R239, R298, R306). -/
def noteArgs (s : State) (l : Launch) : State :=
  (List.range 8).foldl (fun s i => if l.roleKind i = 3 then s else s.noteRead l.asid (l.fld 16 8 + 256 * i) 256 i) s

/-- Word j of a role's arguments. -/
def argWord (args : List Byte) (i j : Nat) : Word := BitVec.ofNat 32 (field args (256 * i + 4 * j) 4)

/-- The scalar registers at entry: s1 to s63 (R40, R332). -/
def argRegs (args : List Byte) (i lo n : Nat) : List (Nat × Word) :=
  (List.range n).foldl (fun (m : List (Nat × Word)) j => aset 0 (lo + j) (argWord args i (lo + j)) m) []

/-- A group at entry (R25, R38 to R46). -/
def newGroup (l : Launch) (args : List Byte) (tid idx i : Nat) (rad : Bool) (pb : DWord) : Group :=
  { Group.empty with
    live := true, team := tid, idx := idx, role := i, allot := l.allot i rad, resv := reserveOf l i false
    prio := bits (l.role i 8 1) 0 2, s := argRegs args i 1 63, pb := pb
    frags := [(0, Frag.entry (l.entry i rad))], nextId := 1 }

/-- A matrix stream at entry (R54). -/
def newStream (l : Launch) (args : List Byte) (i : Nat) : Stream :=
  { Stream.empty with live := true, pc := l.entry i false, m := argRegs args i 0 16, tiles := l.fld 67 1 }

/-- The roles of a team's groups in group order (R273). -/
def Launch.groupRoles (l : Launch) : List Nat :=
  (List.range 8).flatMap fun i => if l.roleKind i < 2 then List.replicate (l.roleCount i) i else []

/-- A barrier instance with its members; EXPECT is their number (R97). -/
def newBar (ms : List Nat) : Bar := { Bar.empty with expect := ms.length, members := ms }

/-- A team's members of one barrier, by its membership bit. -/
def barMembers (l : Launch) (s : State) (tid bit : Nat) : List Nat :=
  ((s.team tid).groups.filter fun g => Nat.testBit (l.role (s.grp g).role 10 4) bit) ++
    (match (List.range 8).find? fun i => l.roleKind i == 2 with
     | some i => if bit < 16 && Nat.testBit (l.role i 10 4) bit then [streamMember tid] else []
     | none => [])

/-- Makes a team resident on a core: its slots, window, registers and stream (R34 to R46, R54). -/
def placeTeam (s : State) (lid cid core member : Nat) (pbs : List DWord) : State :=
  let l := s.launch lid
  let rad := isRadishCore core
  let args := l.args.getD []
  let tid := s.nextUnit
  let rs := l.groupRoles
  let gids := (List.range rs.length).map fun k => tid + 1 + k
  let s := setCarve s core l.carve
  let s := { s with nextUnit := tid + 1 + rs.length }
  let s := rs.zipIdx.foldl (fun s p =>
    s.setGrp (tid + 1 + p.2) (newGroup l args tid p.2 p.1 rad (pbs.getD p.2 0))) s
  let s := s.setTeam tid { Team.empty with
    resident := true, core := core, launch := lid, cluster := cid, member := member, groups := gids
    winSize := l.winBytes
    stream := ((List.range 8).find? fun i => l.roleKind i == 2).map (newStream l args) }
  s.modTeam tid fun t => { t with
    tb := (List.range 16).filterMap fun i =>
      let ms := barMembers l s tid i
      if ms.isEmpty then none else some (i, newBar ms) }

/-- The teams of a cluster, of a launch. -/
def teamsOf (s : State) (p : Team → Bool) : List Nat := (s.teams.filter fun t => p t.2).map (·.1)

/-- Places one cluster whole (R277): every member team is resident, and its number given, before any group issues. -/
def placeCluster (s : State) (lid : Nat) (p : PlaceAt) : State :=
  let l := s.launch lid
  let cid := s.nextUnit
  let s := { s with nextUnit := cid + 1 }
  let s := s.setCluster cid ⟨lid, p.number, l.placed, p.core, []⟩
  let n := l.teamGroups
  let s := (rectCores l.w l.h p.core).zipIdx.foldl (fun s c =>
    placeTeam s lid cid c.1 c.2 ((p.pb.drop (c.2 * n)).take n)) s
  let ts := teamsOf s fun t => t.cluster == cid
  let s := s.setCluster cid { s.cluster cid with
    kb := (List.range 8).filterMap fun i =>
      let ms := ts.flatMap fun t => barMembers l s t (16 + i)
      if ms.isEmpty then none else some (i, newBar ms) }
  s.modLaunch lid fun l => { l with placed := l.placed + 1 }

/-- A place that a cluster of a launch may take: room, an unused cluster number, and a 128-byte aligned base of each group's
lane-private region (R221, R277). -/
def placeOk (s : State) (l : Launch) (p : PlaceAt) : Bool :=
  clusterFits s l p.core && p.number < 4096 && !(s.clusters.any fun c => c.2.number == p.number) &&
    p.pb.length == l.w * l.h * l.teamGroups && p.pb.all fun a => a.toNat % 128 == 0

/-- Places clusters one after another; `none` where a place is not good. -/
def placeAll (lid : Nat) : State → List PlaceAt → Option State
  | s, [] => some s
  | s, p :: r => if placeOk s (s.launch lid) p then placeAll lid (placeCluster s lid p) r else none

/-- The grid barriers of a launch once its clusters are resident (R97, R277). -/
def gridBars (s : State) (lid : Nat) : State :=
  let l := s.launch lid
  let ts := teamsOf s fun t => t.launch == lid
  s.setLaunch lid { l with gb := (List.range 4).filterMap fun i =>
    let ms := ts.flatMap fun t => barMembers l s t (24 + i)
    if ms.isEmpty then none else some (i, newBar ms) }

/-- Places the next cluster, or the whole grid, of a head at the places the scheduler chooses. A team that has neither group
nor stream ends at once. -/
def placeHead (s : State) (h : Nat × Option Nat × Nat) (pl : List PlaceAt) : State :=
  let lid := h.1
  let l := s.launch lid
  if pl.length ≠ (if l.hasGb then l.clusters else 1) then s
  else
    let first := l.placed == 0
    match (if first then readArgs s l else l.args) with
    | none => endUnstarted { noteArgs s l with fresh := s.fresh + 1 } lid "argument block"
    | some args =>
      let s0 := s
      let s := if first then noteArgs s l else s
      let s := s.setLaunch lid { l with args := some args, disp := if first then s.nextUnit else l.disp, lack := none
                                        reserved := false }
      match placeAll lid s pl with
      | none => s0
      | some s =>
        let s := if l.hasGb then gridBars s lid else s
        let s := { s with
          fresh := s.fresh + 1
          turns := match h.2.1 with | some q => aput h.2.2 q s.turns | none => s.turns
          mod := s.mod.woken }
        let s := if (s.launch lid).placed = l.clusters then dequeue s lid else s
        (teamsOf s fun t => t.launch == lid).foldl settleTeam s

/-! ### Pre-emption by the scheduler (R276, R314, R337) -/

/-- Bytes of a team's image (R315). -/
def imageSize (s : State) (tid : Nat) : Nat :=
  let t := s.team tid
  4096 + (t.groups.map fun g => 1024 + 128 * (if isRadishCore t.core then 256 else (s.grp g).allot)).sum + t.winSize +
    (match t.stream with | some x => 99328 + 81920 * x.tiles | none => 0)

/-- An image's part of a save area: whole 64 KiB units. -/
def imageParts (s : State) (tid : Nat) : Nat := (imageSize s tid + 65535) / 65536 * 65536

/-- Teams with the part of an area each takes, one after another. -/
def layImages (s : State) : Nat → List Nat → List (Nat × Nat)
  | _, [] => []
  | a, t :: r => (t, a) :: layImages s (a + imageParts s t) r

/-- A save area holds n bytes in frames that the context's key owns (R307, R337); a context without a key has the frames of
key 0. -/
def areaOk (s : State) (asid base n : Nat) : Bool :=
  let size := s.rd (devKey s.self base) 8
  base % 65536 == 0 && n ≤ size && base + n ≤ memLimit &&
    (List.range ((n + 65535) / 65536)).all fun i =>
      let k := aget 0 (base / 65536 + i) s.shallot.owner
      if k = 0 then !(s.shallot.keys.any fun x => x.2 == asid) else afind k s.shallot.keys == some asid

/-- The end of the images that an area already holds. -/
def areaUsed (s : State) (base : Nat) (asid : Nat) : Nat :=
  s.teams.foldl (fun n t => match t.2.saveAt with
    | some a => if t.2.bySched && (s.launch t.2.launch).asid == asid && t.2.preempt != 0 then max n (a + imageParts s t.1) else n
    | none => n) base

/-- Requests the pre-emption of teams into an area. -/
def requestHalt (s : State) (at_ : Nat) (ts : List Nat) (sched : Bool) : State :=
  (layImages s at_ ts).foldl (fun s p => s.modTeam p.1 fun t =>
    { t with preempt := 1, saveAt := some p.2, bySched := sched }) s

/-- Resident teams of a launch that no pre-emption has named. -/
def haltable (s : State) (lid : Nat) : List Nat := teamsOf s fun t => t.launch == lid && t.resident && t.preempt == 0

/-- The launches a lacking head may pre-empt: greatest class first, then the latest dispatched; only a context whose save
area holds their images (DEDUCED, log 65). -/
def victim (s : State) (cls : Nat) : Option (Nat × Nat) :=
  let ok (p : Nat × Launch) : Bool :=
    let base := (s.asid p.2.asid).sarea * 65536
    let ts := haltable s p.1
    (if cls = 0 then 2 ≤ p.2.cls else p.2.cls == 3) && !ts.isEmpty && base != 0 &&
      areaOk s p.2.asid base (areaUsed s base p.2.asid - base + (ts.map (imageParts s)).sum)
  let c := s.launches.filter ok
  let top := c.foldl (fun m p => max m p.2.cls) 0
  let c := c.filter fun p => p.2.cls == top
  let last := c.foldl (fun m p => max m p.2.disp) 0
  (c.find? fun p => p.2.disp == last).map fun p => (p.1, (s.asid p.2.asid).sarea * 65536)

/-- A head of class 0 or 1 that lacks room pre-empts the teams of one launch (DEDUCED, log 65). -/
def preemptFor (s : State) : State :=
  match (heads s).find? (lacksRoom s) with
  | none => s
  | some h => match victim s h.2.2 with
    | none => s
    | some v => requestHalt s (areaUsed s v.2 (s.launch v.1).asid) (haltable s v.1) true

/-! ### Restoring (R316, R337) -/

/-- Saved teams of a cluster (DEDUCED, log 68). -/
def savedOf (s : State) (cid : Nat) : List Nat := teamsOf s fun t => t.cluster == cid && t.preempt == 3

/-- A saved cluster resumes on a rectangle of its class that has room, unless a reserved head of a smaller class keeps it from
there (R276); each group's resume is an acquire (R315, R316)
(DEDUCED, log 68). -/
def restoreCluster (s : State) (cid base : Nat) : State :=
  let c := s.cluster cid
  let l := s.launch c.launch
  let ts := savedOf s cid
  let at_ (t : Nat) : Nat := (rectCores l.w l.h base).getD (s.team t).member 0
  let rad := ts.any fun t => isRadishCore (s.team t).core
  if ts.isEmpty || heldBack s l.cls || !rectOk rad l.w l.h base || !(ts.all fun t => (s.team t).bySched && roomFor s (at_ t) (teamNeed s t rad) 1 none) then s
  else
    let s := { s.setCluster cid { c with base := base } with mod := s.mod.woken }
    ts.foldl (fun s t =>
      let s := setCarve s (at_ t) l.carve
      let s := s.modTeam t fun x => { x with resident := true, core := at_ t, preempt := 0, saveAt := none, bySched := false }
      let s := (s.team t).groups.foldl (fun s g => groupFence s g true false) s
      settleTeam s t) s

/-- LAUNCH_DISPATCH: the scheduler places the first dispatchable head at places it chooses, places a saved cluster again, or,
with no place and no head that can be placed, pre-empts for a head that lacks room (R276 to R278, R316). Nothing is placed outside ON and IDLE (R346). -/
def dispatch (s : State) (pl : List PlaceAt) (back : Option Nat) : State :=
  if s.mod.state ≠ 2 ∧ s.mod.state ≠ 3 then s
  else match back, pl with
  | some cid, p :: _ => restoreCluster s cid p.core
  | some _, [] => s
  | none, [] => if (heads s).any (dispatchable s) then s else preemptFor s
  | none, pl => match (heads s).find? (dispatchable s) with
    | some h => placeHead s h pl
    | none => s

/-! ### The halt and the save of a team (R314, R315) -/

/-- What a fragment waits for once its wait is abandoned: the instruction issues again, but an arrival that a BAR has made, a
returned generation of a BBWAIT, a served RACQ or RTAKE, a place in the migration queue and a table's answer are kept, and a SNOOZE is past
(DEDUCED, log 67). -/
def haltWait : Wait → Wait
  | .phase c i p => .phase c i p
  | .bbar o g (some st) => .bbar o g (some st)
  | .migr c n => .migr c n
  | .object => .object
  | .closed => .closed
  | _ => .run

/-- A halted BBWAIT no longer waits on its barrier: WAITERS falls (R177) (DEDUCED, log 67). -/
def leaveBB (s : State) (tid gid : Nat) (w : Wait) : State :=
  match w with
  | .bbar off gen none =>
    let b := s.bb tid off
    if b.gen = gen then
      let (n, s) := lsEvent s gid []
      putBB s (lsAgent gid) (s.placeOf gid) tid off n false { b with waiters := b.waiters - 1 }
    else s
  | _ => s

/-- A group at its halt: its special-function results are in their registers, its waits abandoned; a consumer that waited issues
again from its LIT (R67). -/
def haltGroup (g : Group) : Group :=
  { g.drainSfu with
    held := []
    frags := g.frags.map fun f =>
      (f.1, { f.2 with pc := f.2.faultPc, lit := none, wait := haltWait f.2.wait, age := 0, promoted := false }) }

/-- PREEMPT_HALT: a team named by a pre-emption stops at instruction boundaries; an MMA that runs completes first (R200). -/
def preemptHalt (s : State) (tid : Nat) : State :=
  let t := s.team tid
  if t.preempt ≠ 1 ∨ !t.resident ∨ t.str.busy then s
  else
    let ws := t.groups.flatMap fun g => (s.grp g).frags.map fun f => (g, f.2.wait)
    let s := ws.foldl (fun s w => leaveBB s tid w.1 w.2) s
    let s := t.groups.foldl (fun s g => s.modGrp g haltGroup) s
    s.modTeam tid fun t => { t with
      resident := false, preempt := 2
      stream := t.stream.map fun x => { x with latch := none, wait := haltWait x.wait } }

/-- The bytes of an image are the device's own: free values; the area keeps the size its first 8 bytes hold
(DESIGN CHOICE, log 66). -/
def writeImage (s : State) (base n : Nat) : State :=
  let k := devKey s.self base
  let bs := (List.range (n - 8)).map fun i => BitVec.ofNat 8 (Config.free s.fresh 4 i)
  { s with mem := mwrite s.mem (k + 8) bs, fresh := s.fresh + 1 }

/-- PREEMPT_SAVE_COMPLETE: loads, stores, tile and table operations and copies have come in; the core's pod lines are demoted,
lane-private lines are written back and each group's save is a release (R315) (DESIGN CHOICE, log 66). -/
def saveComplete (s : State) (tid : Nat) : State :=
  let t := s.team tid
  let busy := t.groups.any fun g =>
    let x := s.grp g
    !x.loads.isEmpty || !x.stores.isEmpty || !x.tiles.isEmpty || x.obj.isSome || !(s.copiesOf g).isEmpty
  if t.preempt ≠ 2 ∨ busy then s
  else
    let s := demotePod s t.core
    let s := t.groups.foldl (fun s g => groupFence (flushPriv s g) g false true) s
    let s := match t.saveAt with | some a => writeImage s a (imageSize s tid) | none => s
    s.modTeam tid fun t => { t with preempt := 3 }

/-! ### Ending launches (R106, R320, R337) -/

/-- A team is retired as by EXIT. -/
def endTeam (s : State) (tid : Nat) : State :=
  let t := s.team tid
  let s := t.groups.foldl (fun s g =>
    if (s.grp g).live && !(s.grp g).exited then retireGroup (s.modGrp g fun g => { g with susp := none, hctx := none }) g else s) s
  let s := if (s.team tid).stream.isSome then s.setStr tid { s.str tid with live := false, susp := false, busy := false } else s
  settleTeam s tid

/-- A launch ends: its unplaced clusters never start, its teams retire, and it completes with its last team. -/
def endLaunchNow (s : State) (lid : Nat) : State :=
  match afind lid s.launches with
  | none => s
  | some l =>
    let s := (dequeue s lid).setLaunch lid { l with ending := true }
    let s := (teamsOf s fun t => t.launch == lid && t.alive).foldl endTeam s
    if l.placed = 0 then endLaunch s lid else s

/-- Every launch of some contexts ends as by a device error, and the resident OS is told (R320). -/
def endContexts (s : State) (p : Nat → Bool) (what : String) : State :=
  let s := (s.launches.filter fun l => p l.2.asid).foldl (fun s l => endLaunchNow s l.1) s
  { s with log := s.log ++ [what], irqs := s.irqs + 1 }

/-- A device error ends every launch of the contexts that it affects; the resident OS and management are told, the latter by bit 3 of
HOLDC (R320, R350). -/
def deviceError (s : State) (p : Nat → Bool) (what : String) : State :=
  let s := endContexts s p what
  { s with mod := { s.mod with holdc := s.mod.holdc ||| 8 } }

/-- Contexts with state on a die: a team, parked lines in its pods or slices, or slabs of its quarter of their heap
(DEDUCED, log 74). -/
def onDie (s : State) (die asid : Nat) : Bool :=
  (s.teams.any fun t => t.2.alive && dieOf t.2.core == die && (s.launch t.2.launch).asid == asid) ||
  (s.parks.any fun p => p.asid == asid && p.places.any fun k => k % 256 / 64 == die) ||
  s.heaps.any fun h => h.asid == asid && h.die == die && !h.slabs.isEmpty

/-! ### Time-triggered releases (R279, R280) -/

/-- The launch of a record, if a release may start it. -/
def ttLaunch (s : State) (e : Nat) (t : TtEnt) (r : List Byte) : Option Launch :=
  let l := newLaunch s t.asid.toNat r none 0
  let ok := t.record.toNat % 256 == 0 && l.waitWords.isEmpty && l.fld 66 1 == 128 + e && (recordCause l 0 true).isNone
  if ok then some { l with tt := some e } else none

/-- The launch that a release reads: its record in the entry's address space, which must name no wait word, be of this entry
and pass R274 (DEDUCED, log 70). -/
def ttRecord (s : State) (e : Nat) (t : TtEnt) : Option Launch :=
  match translate s t.asid.toNat t.record.toNat .read 0 with
  | .ok key _ _ =>
    ttLaunch s e t (s.shown t.asid.toNat key 256)
  | _ => none

/-- TT_RELEASE: one pass of an enabled entry whose NEXT has come (DEDUCED, log 70). -/
def ttPass (s : State) (e : Nat) : State :=
  match afind e s.tt with
  | none => s
  | some t =>
    if !t.en || s.time < t.next.toNat then s
    else
      let next := t.next + t.period.zeroExtend 64
      let skip : State := { s with tt := aput e { t with next := next, skips := t.skips + 1 } s.tt, fresh := s.fresh + 1 }
      if t.run || t.next.toNat + t.period.toNat ≤ s.time then skip
      else match ttRecord s e t with
      | none => skip.noteRead t.asid.toNat t.record.toNat 256 0
      | some l =>
        let id := s.nextLaunch
        { s.noteRead t.asid.toNat t.record.toNat 256 0 with
          tt := aput e { t with next := next, run := true } s.tt, fresh := s.fresh + 1
          nextLaunch := id + 1, launches := aput id l s.launches }

end Sys2Proof.Machine
end

