-- ==== Sys2Proof/Machine/Power.lean ====
section
/-! DEFINITION. Boot (R340), power states, throttling and cooling (R346 to R348, R350), device time (R349), clock stretching
(R321), and the passing of time. -/
set_option linter.all false
namespace Sys2Proof.Machine

/-! ### Boot (R339, R340) -/

/-- An image is accepted: both signatures verify and its version is at least the rollback counter. -/
def flashOk (f : FlashImage) (rollback : Nat) : Bool := f.ecdsa && f.lms && rollback ≤ f.version

/-- The image of slot A, or of slot B if A fails (DEDUCED, log 77). -/
def bootSlot (a b : FlashImage) (rollback : Nat) : Option FlashImage :=
  if flashOk a rollback then some a else if flashOk b rollback then some b else none

/-- What outlives a loss of the main supply: the outside world, and what the model itself keeps. No island of the module stays on, so
device time starts anew (R345) (DEDUCED, log 76). -/
def State.cold (s : State) : State :=
  { State.reset with inputs := s.inputs, fresh := s.fresh, hostMem := s.hostMem }

/-- Bytes come to lie in HBM4E: the part of them that fits (R223). -/
def State.loadHbm (s : State) (pa : Nat) (bytes : List Byte) : State :=
  { s with mem := mwrite s.mem (devKey s.self pa) (bytes.take (2 ^ 40 - pa)) }

/-- MAIN_SUPPLY_ON: the boot order runs: the resident OS image comes into HBM4E, and the firmware builds the Devicetree there. Where both
slots of an image fail, the device stays in step 2 or 3 (DEDUCED, log 76; DEDUCED, log 77; DEDUCED, log 80; DESIGN CHOICE, log 111). -/
def supplyOn (s : State) (fl : FlashState) : State :=
  if s.mod.state ≥ 2 ∨ fl.index > 143 then s
  else
    let c := s.cold
    let c := { c with self := fl.index }
    match bootSlot fl.shallotA fl.shallotB fl.rollback with
    | none => { c with mod := { c.mod with bootStep := 2 } }
    | some a =>
      let c := { c with shallot := { c.shallot with measured := [a.digest] } }
      match bootSlot fl.osA fl.osB fl.rollback with
      | none => { c with mod := { c.mod with bootStep := 3 } }
      | some o =>
        let c := (c.loadHbm fl.osAt o.bytes).loadHbm fl.dtAt (devicetree c)
        let c := { c with
          shallot := { c.shallot with measured := [a.digest, o.digest] }
          mod := { c.mod with bootStep := 5, state := 2 } }
        fl.serves.foldl (fun (c : State) (f : Nat × Nat) =>
          if f.1 < 17 ∧ f.2 < 256 then c.setMbox f.1 { c.mbox f.1 with ready := true, asid := f.2 } else c) c

/-- MAIN_SUPPLY_OFF: nothing runs, and nothing in the device is kept. -/
def supplyOff (s : State) : State :=
  let c := s.cold
  { c with mod := { c.mod with state := 0, bootStep := 0 } }

/-! ### Power states (R346) -/

/-- IDLE_REQUEST: the resident OS requests IDLE or ON. -/
def idleRequest (s : State) (on : Bool) : State :=
  let m := s.mod
  if on then { s with mod := { m with idleReq := true } }
  else { s with mod := { m with idleReq := false, state := if m.state = 3 then 2 else m.state } }

/-- IDLE_ENTER: no team is resident. -/
def idleEnter (s : State) : State :=
  if s.mod.idleReq && s.mod.state == 2 && !(s.teams.any fun t => t.2.resident) then
    { s with mod := { s.mod with state := 3, idleReq := false } }
  else s

/-- HOLD, with its cause: every launch ends as by a device error. It is left only by a reset. -/
def enterHold (s : State) (cause : Nat) : State :=
  if s.mod.state = 0 ∨ s.mod.state = 4 then s
  else
    let s := endContexts s (fun _ => true) "hold"
    { s with mod := { s.mod with state := 4, holdc := s.mod.holdc ||| BitVec.ofNat 32 (2 ^ cause) } }

/-! ### The limit and the sensors (R347, R348, R350) -/

/-- POWER_OVER_LIMIT: the measured power exceeds PLIM; throttling delays issue and changes nothing else. -/
def powerOver (s : State) (watts : Nat) : State :=
  if watts ≤ s.mod.plim.toNat then s
  else { s with mod := { s.mod with power := BitVec.ofNat 16 watts, overPower := true, throt := true } }

def powerWithin (s : State) (watts : Nat) : State :=
  if watts ≤ s.mod.plim.toNat then
    { s with mod := { s.mod with power := BitVec.ofNat 16 watts, overPower := false, throt := !s.mod.hot.isEmpty } }
  else s

/-- The hottest of some junctions. -/
def hottest (l : List (Nat × Nat)) : BitVec 8 := BitVec.ofNat 8 (min 255 ((l.map (·.2)).foldl max 0))

/-- JUNCTION_OVER_95C: the hottest junction of a die has a temperature. Above 95 °C it throttles, and at 105 °C the module enters HOLD; at
95 °C or below the die counts no more among those above while another is (DEDUCED, log 78). -/
def junctionOver (s : State) (die temp : Nat) : State :=
  let rest := s.mod.hot.filter fun h => h.1 != die
  let hot := if temp ≤ 95 then rest else (die, temp) :: rest
  if die ≥ 5 ∨ hot.isEmpty then s
  else
    let s := { s with mod := { s.mod with tmax := hottest hot, hot := hot, throt := true } }
    if temp ≥ 105 then enterHold s 0 else s

/-- JUNCTION_BELOW_95C: the hottest junction of the module is no longer above 95 °C: no die's is. -/
def junctionBelow (s : State) (temp : Nat) : State :=
  if temp ≤ 95 then { s with mod := { s.mod with tmax := BitVec.ofNat 8 temp, hot := [], throt := s.mod.overPower } }
  else s

/-- THERMAL_TRIP: a junction at 105 °C, or the supply. -/
def thermalTrip (s : State) (c : TripCause) : State :=
  match c with
  | .junction die temp => if temp ≥ 105 then junctionOver s die temp else s
  | .supply => enterHold s 2

/-- COOLANT_FLOW_CHANGE: the flow falls below 2.0 L/min or is restored; the inlet temperature is sampled
(DEDUCED, log 78). -/
def coolantFlow (s : State) (low : Bool) (inlet : Nat) : State :=
  { s with mod := { s.mod with
      tcool := BitVec.ofNat 8 inlet, lowFlow := if low then some (s.mod.lowFlow.getD s.time) else none } }

/-- COOLANT_FLOW_TIMEOUT: the flow has been low for 1 s. -/
def coolantTimeout (s : State) : State :=
  match s.mod.lowFlow with
  | some t => if t + 1000000000 ≤ s.time then enterHold s 1 else s
  | none => s

/-- PLIM_WRITE: 1,200 to 3,600 W; another value is discarded. -/
def plimWrite (s : State) (v : BitVec 16) : State :=
  if 1200 ≤ v.toNat ∧ v.toNat ≤ 3600 then { s with mod := { s.mod with plim := v } } else s

/-- SUPPLY_SAG_TRIP and SUPPLY_SAG_CLEAR: the die's clocks stretch; it has no architectural effect (R321)
(DESIGN CHOICE, log 96). -/
def sagTrip (s : State) (die : Nat) : State :=
  { s with mod := { s.mod with stretch := if s.mod.stretch.contains die then s.mod.stretch else die :: s.mod.stretch } }
def sagClear (s : State) (die : Nat) : State :=
  { s with mod := { s.mod with stretch := s.mod.stretch.filter (· != die) } }

/-- The status block that management reads, 128 bits (R350). -/
def statusBlock (s : State) : Nat :=
  let m := s.mod
  m.power.toNat + m.plim.toNat * 2 ^ 16 + m.tmax.toNat * 2 ^ 32 + m.tcool.toNat * 2 ^ 40 + m.state % 8 * 2 ^ 48 +
    m.throt.toNat * 2 ^ 51 + m.sync.toNat * 2 ^ 52 + m.corr.toNat * 2 ^ 64 + m.holdc.toNat * 2 ^ 96

/-! ### Time (R349) -/

/-- PTP_MESSAGE: the grandmaster is heard; the offset remains to be slewed. -/
def ptpMessage (s : State) (offset : Int) : State := { s with slew := offset, mod := { s.mod with sync := true } }

/-- GRANDMASTER_LOST: device time runs free. -/
def ptpLost (s : State) : State := { s with slew := 0, mod := { s.mod with sync := false } }

/-- The part of a correction made in ns nanoseconds: at most 500 ppm. What is left of them below 2,000 counts with the next. -/
def slewStep (ns : Nat) (slew : Int) : Int := max (-((ns / 2000 : Nat) : Int)) (min ((ns / 2000 : Nat) : Int) slew)

/-- Adds to the clocks' counts (DEDUCED, log 79). -/
def addCycles (c : List (Nat × Nat)) (d : List Nat) : List (Nat × Nat) :=
  (d.zipIdx).foldl (fun (c : List (Nat × Nat)) p => aset 0 p.2 (aget 0 p.2 c + p.1) c) c

/-- A group's fragments age in core cycles while they are ready (R2, R281). -/
def ageGroup (s : State) (d : List Nat) (gid : Nat) (g : Group) : Group :=
  let core := s.coreOf g
  let n := d.getD (2 * dieOf core) 0
  { g with frags := g.frags.map fun (f : Nat × Frag) =>
      if ready s gid f.1 then (f.1, { f.2 with age := f.2.age + n }) else (f.1, { f.2 with age := 0, promoted := false }) }

/-- The cycles that count: in IDLE the compute dies' clocks are gated (R346). -/
def gated (s : State) (d : List Nat) : List Nat := if s.mod.state = 3 then List.replicate 12 0 ++ d.drop 12 else d

/-- Time passes: ns nanoseconds, and on each die's clocks the cycles of a list. -/
def tick (s : State) (ns : Nat) (d : List Nat) : State :=
  let d := gated s d
  let s := noteLack s
  let gs := s.groups.map fun (g : Nat × Group) => (g.1, ageGroup s d g.1 g.2)
  let k := slewStep (s.slewRem + ns) s.slew
  { s with
    groups := gs, time := ((s.time + ns : Nat) + k).toNat, slew := s.slew - k, slewRem := if s.slew = k then 0 else (s.slewRem + ns) % 2000
    cycles := addCycles s.cycles d }

end Sys2Proof.Machine
end

