-- ==== Sys2Proof/Machine/Migrate.lean ====
section
/-! DEFINITION. Migration (R55 to R57, R101 to R104, R283) and the collapse of duplicated pages (R303, R304). -/
set_option linter.all false
namespace Sys2Proof.Machine

/-! ### The migration queue (R283) -/

/-- An entry has waited 100 µs by a device time. -/
def MigEnt.waitedLong (a : MigEnt) (now : Nat) : Bool := a.aged || a.since + 100000 ≤ now

/-- Whether entry a, earlier in the queue than b, may still be served after b: its class is greater and it has not waited 100 µs. -/
def yieldsTo (now : Nat) (a b : MigEnt) : Bool := !a.waitedLong now && b.cls < a.cls

/-- Entries in the order in which they are served: each entry stands behind the smaller classes and the entries before it, and
one that has waited 100 µs behind none that entered after it (DEDUCED, log 41). -/
def serveOrder (now : Nat) : List MigEnt → List MigEnt
  | [] => []
  | e :: r => ins e (serveOrder now r)
where
  /-- Puts an earlier entry before the first later one that does not overtake it. -/
  ins (e : MigEnt) : List MigEnt → List MigEnt
    | [] => [e]
    | x :: r => if yieldsTo now e x then x :: ins e r else e :: x :: r

/-- Cores of a class in the order R283 prefers them: the old core, the old die's, then the dies counted on from it. -/
def migTiers (old : Nat) (rad : Bool) : List (List Nat) :=
  let dieCores (d : Nat) : List Nat := ((List.range 64).map (64 * d + ·)).filter fun c => isRadishCore c == rad
  (if isRadishCore old == rad then [[old]] else []) ++ (List.range 4).map fun k => dieCores ((dieOf old + k) % 4)

/-- The cores the scheduler may pick: those with room of the first tier that has any. -/
def migCores (s : State) (tid : Nat) (rad : Bool) : List Nat :=
  let nd := teamNeed s tid rad
  ((migTiers (s.team tid).core rad).map fun cs => cs.filter fun c => roomFor s c nd 1 (some tid)).find? (fun cs => !cs.isEmpty)
    |>.getD []

/-- A group whose last instruction is an EQP n that met R55 (policy 2, R101). -/
def atPoint (s : State) (gid : Nat) (n : Nat) : Bool :=
  let g := s.grp gid
  g.justEqp == some (BitVec.ofNat 16 n) && g.eqpMay && g.frags.all fun f => f.2.wait == .run

/-- The entry of a team that the scheduler migrates at an EQP of its own choice, to a class of which some core has room (R101,
R283) (DEDUCED, log 38). -/
def balanceEntry (s : State) (tid : Nat) (rad : Bool) : Option MigEnt :=
  let t := s.team tid
  match s.liveGroups tid with
  | [] => none
  | g :: r => match (s.grp g).justEqp with
    | none => none
    | some n =>
      if t.resident && (s.launch t.launch).policy == 2 && ((g :: r).all fun x => atPoint s x n.toNat) &&
          !(s.migq.any fun m => m.team == tid) && !(migCores s tid rad).isEmpty then
        some ⟨tid, rad, n.toNat, teamClass s tid, s.time, false, none⟩
      else none

/-- The move begins: the pod lines of the old core go home, lane-private lines are written back (R57), and each group releases
(R103, step 1). -/
def beginMove (s : State) (tid : Nat) : State :=
  let t := s.team tid
  let s := demotePod s t.core
  t.groups.foldl (fun s g => groupFence (flushPriv s g) g false true) s

/-- MIGRATION_DISPATCH: the first entry in order for which some core has room begins its move to the core that the scheduler
picks; or a team that the scheduler takes at an EQP of its own choice (policy 2) enters the queue for the class of a core, and
its groups stop there (DEDUCED, log 41). -/
def migDispatch (s : State) (core : Nat) (bal : Option Nat) : State :=
  match bal with
  | some tid => match (if core < 256 then balanceEntry s tid (isRadishCore core) else none) with
    | none => s
    | some e =>
      (s.team tid).groups.foldl (fun s g => s.modGrp g fun g => { g with halted := true }) { s with migq := s.migq ++ [e] }
  | none =>
    match (serveOrder s.time (s.migq.filter fun m => m.dest.isNone)).find? fun m =>
        (s.team m.team).resident && !(migCores s m.team m.radish).isEmpty with
    | none => s
    | some m =>
      if (migCores s m.team m.radish).contains core then
        beginMove { s with migq := s.migq.map fun x => if x.team = m.team then { x with dest := some core } else x } m.team
      else s

/-- MIGRATION_AGE_TIMEOUT: an entry has waited 100 µs. -/
def migAge (s : State) (tid : Nat) : State :=
  { s with migq := s.migq.map fun m =>
      if m.team = tid ∧ m.dest.isNone ∧ m.since + 100000 ≤ s.time then { m with aged := true } else m }

/-! ### The state-mapping table (R103, R104) -/

def tabMode (t : List Byte) : Word := BitVec.ofNat 32 (field t 0 4)
def tabDepth (t : List Byte) : Nat := field t 4 1
def tabCarry (t : List Byte) : Nat := field t 5 1
def tabCount (t : List Byte) : Nat := field t 6 2
def tabBase (t : List Byte) : Nat := field t 8 4
def tabSlots (t : List Byte) : Nat := field t 12 2
def tabMask (t : List Byte) (i : Nat) : Lanes := BitVec.ofNat 32 (field t (16 + 4 * i) 4)
def tabEntry (t : List Byte) (i : Nat) : Nat := field t (48 + 4 * i) 4

/-- The window offset of slot k of group j. -/
def slotOff (t : List Byte) (j k : Nat) : Nat := tabBase t + 128 * (j * tabSlots t + k)

/-- A moved value: 32 lanes and their poison marks. -/
abbrev Moved := List Word × Lanes

/-- The value of a register of the old file or of a slot of the old window. -/
def srcOf (old : Group) (win : Team) (tab : List Byte) (j : Nat) (slot : Bool) (n : Nat) : Moved :=
  if slot then
    (lanes.map fun l => BitVec.ofNat 32 (leNat (mread win.win (slotOff tab j n + 4 * l) 4)),
      maskOf fun l => winPois win (slotOff tab j n + 4 * l) 4)
  else (old.vreg n, old.vPois n)

/-- Writes a value to a register of the new file or a slot of the new window. -/
def dstTo (s : State) (gid tid : Nat) (tab : List Byte) (j : Nat) (slot : Bool) (n node : Nat) (m : Moved) : State :=
  if slot then
    let s := lsWrite s gid tid (slotOff tab j n) (m.1.flatMap fun w => natLe 4 w.toNat) node
    s.modTeam tid fun t => { t with wpois := t.wpois ++ (lanesOf m.2).map fun l => (slotOff tab j n + 4 * l) / 4 }
  else s.modGrp gid fun g => (g.setV n 0xFFFF_FFFF fun l => m.1.getD l 0).setVPois n m.2

/-- One value entry: one register or slot, or a pair. -/
def applyEntry (old : Group) (win : Team) (gid tid : Nat) (tab : List Byte) (node : Nat) (s : State) (e : Nat) : State :=
  (List.range (if bits e 0 1 = 1 then 2 else 1)).foldl (fun s i =>
    dstTo s gid tid tab old.idx (bits e 19 1 == 1) (bits e 8 11 + i) node
      (srcOf old win tab old.idx (bits e 31 1 == 1) (bits e 20 11 + i))) s

/-- The predicate stack that a table installs; the machine keeps the top first. -/
def tabStack (tab : List Byte) (old : List Lanes) : List Lanes :=
  let o := old.reverse
  ((List.range (tabDepth tab)).map fun i =>
    if Nat.testBit (tabCarry tab) i then o.getD i (tabMask tab i) else tabMask tab i).reverse

/-- The table of a role's point in the direction of a move. -/
def tabOf (s : State) (l : Launch) (role n : Nat) (toRad : Bool) : Option (PointTab × List Byte) :=
  ((s.points l).find? fun p => p.point == n && p.role == role).map fun p => (p, if toRad then p.toRadish else p.toMarrow)

/-- One group at the destination (R57, R103). Between cores of one class no table applies: its registers are carried whole
(DEDUCED, log 42). A group that moves at its EQP has still executed that EQP last. -/
def moveGroup (m : MigEnt) (core : Nat) (oldWin : Team) (s : State) (gid : Nat) : State :=
  let g := (s.grp gid).drainSfu
  if !g.live || g.exited then s
  else
    let l := s.launchOf g
    let same := isRadishCore oldWin.core == m.radish
    let word : DWord := if m.radish then 8 else 4
    let viaMigr := g.frags.any fun f => match f.2.wait with | .migr _ _ => true | _ => false
    let (nd, s) := groupEvent s gid []
    let settle (s : State) (pc : DWord → DWord) : State := s.modGrp gid fun g =>
      let g := { g with halted := false, frags := g.frags.map fun (f : Nat × Frag) =>
        (f.1, { f.2 with pc := pc f.2.pc, wait := .run, age := 0, promoted := false }) }
      { (if viaMigr then { g.retire with justEqp := none } else g) with eqpMay := false }
    if same then settle (s.setGrp gid g) fun pc => if viaMigr then pc + word else pc
    else match tabOf s l g.role m.point m.radish with
    | none => settle (s.setGrp gid g) fun pc => if viaMigr then pc + word else pc
    | some (p, tab) =>
      let s := s.setGrp gid { g with
        v := [], vpois := [], mode := tabMode tab, allot := l.allot g.role m.radish
        frags := g.frags.map fun f => (f.1, { f.2 with stack := tabStack tab f.2.stack }) }
      let s := ((List.range (tabCount tab)).map (tabEntry tab)).foldl (applyEntry g oldWin gid g.team tab nd) s
      settle s fun _ => pointAddr l p m.radish + word * (if viaMigr then 2 else 1)

/-- MIGRATION_COMPLETE: once the team's copies have completed (R173), the team stands on its destination core, and each group
acquires and resumes past the point (R103) (DEDUCED, log 42). -/
def migComplete (s : State) (tid : Nat) : State :=
  match s.migq.find? fun m => m.team == tid with
  | none => s
  | some m => match m.dest with
    | none => s
    | some core =>
      let old := s.team tid
      if !old.resident || old.groups.any fun g => !(s.copiesOf g).isEmpty then s
      else
        let s := { s with migq := s.migq.filter fun x => x.team != tid }
        let s := if core = old.core then s else setCarve s core (s.launch old.launch).carve
        let s := old.groups.foldl (moveGroup m core old) s
        let s := s.modTeam tid fun t => { t with core := core, migr := none }
        let s := (s.liveGroups tid).foldl (fun s g => groupFence s g true false) s
        s.setCluster old.cluster { s.cluster old.cluster with base := core }

/-! ### Collapse (R303, R304) -/

/-- The address of the entry that covers an address: its physical address, its value and its level. -/
def entryAt (s : State) (asid va : Nat) : Option (Nat × Nat × Nat) :=
  let rec go : Nat → Nat → Option (Nat × Nat × Nat)
    | 0, _ => none
    | fuel + 1, node =>
      let level := 4 - fuel
      let pa := node + 8 * vaIndex va level
      let e := s.rd (devKey s.self pa) 8
      if bits e 0 1 = 0 then none
      else if bits e 1 1 = 1 then some (pa, e, level)
      else if tableMalformed e level then none else go fuel (bits e 8 40 * 2 ^ 8)
  if va ≥ 2 ^ 57 then none else go 5 ((s.asid asid).root * 4096)

def dupOf (e : Nat) : Nat := bits e 48 2
def setDup (e d : Nat) : Nat := e - dupOf e * 2 ^ 48 + d * 2 ^ 48

/-- Notes an entry about to change for a collapse, unless it is noted already. -/
def noteCollapse (s : State) (asid va pa old : Nat) : State :=
  if s.collapses.any (collapseIs asid va) then s
  else { s with collapses := ⟨asid, va / 65536, pa, old, none⟩ :: s.collapses }

/-- COLLAPSE_REQUEST: as coordinator, this device takes a request for a tile, marks its own leaf and sends a request to every
holder; a tile already single is answered at once. -/
def collapseRequest (s : State) (asid va : Nat) : State :=
  match entryAt s asid va with
  | none => s
  | some (pa, e, _) =>
    if dupOf e = 0 ∨ bits e 56 8 ≠ s.self then s
    else putEntry (noteCollapse s asid va pa e) pa (setDup e 2)

/-- Drops the translations of a 2 MiB page. -/
def drop2M (s : State) (asid va : Nat) : State :=
  { s with
    tlb := s.tlb.filter fun t => !(t.asid == asid && t.page / 32 == va / 2 ^ 21)
    tabs := s.tabs.filter fun t => !(t.asid == asid && t.level == 3 && t.prefix_ == va / 2 ^ 21) }

/-- Drops the parked lines of a tile of this device (R304). -/
def dropTile (s : State) (frame : Nat) : State :=
  let line := devKey s.self (frame * 2 ^ 16) / 128
  { s with parks := s.parks.filter fun p => !(line ≤ p.line && p.line < line + 512) }

/-- A tile's leaf once single: DUP 0, homed on the writer's device at its frame. -/
def singleLeaf (e dev frame : Nat) : Nat :=
  e % 2 ^ 16 + frame % 2 ^ 32 * 2 ^ 16 + bits e 50 6 * 2 ^ 50 + dev % 2 ^ 8 * 2 ^ 56

/-- COLLAPSE_SPLIT: this holder marks its leaf; once every access by the old translation has performed (R299) it splits it under
a node from its pool, makes the tile single, drops what it holds of its own tile, parked lines as well, and acknowledges; without a frame for the node it answers that it cannot, its leaf marked. `frame` is the writer's part; on the writer's own
device it is this device's part. -/
def collapseSplit (s : State) (asid va dev frame ch : Nat) : State :=
  match entryAt s asid va with
  | none => s
  | some (pa, e, level) =>
    if dupOf e = 0 then s
    else if unperformed s asid fun p => p / 32 == va / 2 ^ 21 then
      if dupOf e = 2 then s else putEntry (noteCollapse s asid va pa e) pa (setDup e 2)
    else
      let s := noteCollapse s asid va pa e
      if level = 4 then
        let f := if dev = s.self then bits e 16 32 else frame
        drop2M (putEntry (dropTile s (bits e 16 32)) pa (singleLeaf e dev f)) asid va
      else if level ≠ 3 then s
      else
        let tile := va / 65536 % 32
        match pick (s.asid asid).pool ch with
        | none => putEntry s pa (setDup e 2)
        | some node =>
          let s := takeFrame s asid node
          let at_ := node * 2 ^ 16
          let part (j : Nat) : Nat := bits e 16 32 + j
          let small := setDup (e - bits e 16 32 * 2 ^ 16 - bits e 2 2 * 4) 1
          let s := (List.range 32).foldl (fun s j =>
            let x := if j = tile then singleLeaf small dev (if dev = s.self then part j else frame) else small + part j * 2 ^ 16
            putEntry s (at_ + 8 * j) x) s
          let mark (c : Collapse) : Collapse := if collapseIs asid va c then { c with node := some node } else c
          let s := dropTile { s with collapses := s.collapses.map mark } (part tile)
          drop2M (putEntry s pa (1 + at_)) asid va

/-- Every entry stays as it was: the entry and the frame go back (DEDUCED, log 71). -/
def undoCollapse (s : State) (asid va : Nat) : State :=
  match s.collapses.find? (collapseIs asid va) with
  | none => s
  | some c =>
    let s := match c.node with
      | some f => let a := s.asid asid; s.setAsid asid { a with pool := a.pool ++ [f] }
      | none => s
    drop2M (putEntry s c.pa (if dupOf c.old = 2 then setDup c.old 1 else c.old)) asid va

/-- The fragments whose held writes lie in a tile. -/
def heldIn (s : State) (asid va : Nat) : List (Nat × Nat × List (Nat × Nat)) :=
  s.groups.flatMap fun p => p.2.frags.filterMap fun (f : Nat × Frag) => match f.2.wait with
    | .collapse a ls =>
      let mine := ls.filter fun l => l.2 / 65536 == va / 65536
      if a = asid ∧ !mine.isEmpty then some (p.1, f.1, mine) else none
    | _ => none

/-- A copy whose next piece is held at a tile. -/
def copyHeld (s : State) (asid va : Nat) (c : Copy) : Bool :=
  let accs := pieceAccs c c.done (pieceEnd s asid c (c.total - c.done) c.done none - c.done)
  !c.fin && c.done == c.stop && s.asidOf (s.grp c.gid) == asid &&
    match checkPiece s asid c.core accs [] with
    | .held v => v / 65536 == va / 65536
    | .ok _ => s.collapsing asid va && accs.any fun a => a.2 == .write && a.1 / 65536 == va / 65536
    | _ => false

/-- COLLAPSE_ACK: every holder has answered the writer's Tuber. On the writer's device the held writes issue again; or, where a
holder could not split, every entry is as it was, each held write raises the write-protection fault, and a copy that waits ends
with CODE 1 (R304) (DEDUCED, log 71). -/
def collapseAck (s : State) (asid va dev : Nat) (failed : Bool) : State :=
  let hs := if dev = s.self then heldIn s asid va else []
  let held := s.copies.map fun c => (c.1, dev == s.self && failed && copyHeld s asid va c.2)
  let s := if failed then undoCollapse s asid va else s
  let s := { s with collapses := s.collapses.filter fun c => !collapseIs asid va c }
  if failed then
    let s := held.foldl (fun s h =>
      if h.2 then s.setCopy h.1 { s.copy h.1 with fin := true, code := 1 } else s) s
    hs.foldl (fun s h =>
      takeFault s h.1 h.2.1 (fltL 9 1 ((h.2.2.head?.map (·.2)).getD 0) true (maskOf fun l => h.2.2.any fun x => x.1 == l)) 0) s
  else hs.foldl (fun s h => wake s h.1 h.2.1) s

end Sys2Proof.Machine
end

