-- ==== Sys2Proof/Machine/Host.lean ====
section
/-! DEFINITION. Steward agents and memory as the resident OS reaches it (R306, R353), the mailbox (R329, R330), the system
calls (R331, R332, R341) and the building of mappings and launch records. -/
set_option linter.all false
namespace Sys2Proof.Machine

/-! ### A steward core's accesses (R306, R353) -/

/-- Where steward core i stands. -/
def stewardPlace (s : State) (i : Nat) : Place := ⟨1, 2 ^ 41 + i, 2 ^ 41 + i, 2 ^ 41 + i, 4, s.self⟩

/-- The core on which the resident OS serves the mailbox and loads bundles, as an agent. The spec does not say which core that is: the
model makes it an agent of its own, none of the sixteen, so what it does stands in the program order of none of them
(DESIGN CHOICE, log 110). -/
def osCore : Nat := 2 ^ 20

/-- A byte of memory as a physical access names it: no object's or block's own limits apply. -/
def physRef (key : Nat) : ByteRef := ⟨key, 2 ^ 64⟩

/-- A steward core reads n bytes: zero from a keyed frame; a parked line goes home first (R239). The state after and the bytes. -/
def stewRead (s : State) (i key n : Nat) (aq : Bool) (ch : Nat) : State × List Byte :=
  if keyOf s key ≠ 0 then (refuse s, List.replicate n 0)
  else
    let s := s.unpark (key / 128)
    let ag := stewardAgent i
    let pl := stewardPlace s i
    let (nd, o) := s.ord.event ag []
    let s := { s with ord := o }
    let s := if aq then noteFloor s ag nd key n pl 5 else s
    let r := loadCands s nd ag (physRef key) n pl (if aq then some 5 else none) true ch
    (returnLoad s ag nd pl 5 aq true [] r.1, r.1.map fun p => candByte s p.1 p.2)

/-- A steward core writes bytes: discarded in a keyed frame, lost on a failed peer port. -/
def stewWrite (s : State) (i key : Nat) (bytes : List Byte) (rl : Bool) : State :=
  if keyOf s key ≠ 0 then refuse s
  else if s.portFailed key then s.lostStore
  else
    let s := (partsOf 128 key bytes.length).foldl (fun s p => s.unpark (p.1 / 128)) s
    let ag := stewardAgent i
    let pl := stewardPlace s i
    let (nd, o) := s.ord.event ag []
    let s := { s with ord := o }
    let s := s.addWrite ⟨nd, ag, pl, key, bytes, true, 5, false, false, relOf (s.ord.ag ag) nd pl 5 rl true, none, [], [], false⟩
    (s.perform nd).ackW nd

/-- The 64 KiB pages that [a, a + n) touches. -/
def pagesOf (a n : Nat) : List Nat :=
  if n = 0 then [] else (List.range ((a + n - 1) / 65536 - a / 65536 + 1)).map fun i => (a / 65536 + i) * 65536

/-- The parts of [a, a + n) within each page: their keys and lengths; none where a page fails translation. -/
def spans (s : State) (asid a n : Nat) (k : Acc) : Option (List (Nat × Nat)) :=
  (pagesOf a n).foldl (fun (r : Option (List (Nat × Nat))) p =>
    match r, translate s asid (max a p) k 0 with
    | some l, .ok key _ _ => some (l ++ [(key, min (a + n) (p + 65536) - max a p)])
    | _, _ => none) (some [])

/-- The resident OS reads memory of a context for a call: plain loads of steward core i, word by word in order of address; which writes
they find is the device's choice, a free value (R353; assumption 4). -/
def osRead (s : State) (i asid a n : Nat) : Option (State × List Byte) :=
  (spans s asid a n .read).map fun l => (l.flatMap fun p => partsOf 4 p.1 p.2).zipIdx.foldl (fun (r : State × List Byte) p =>
    let x := stewRead r.1 i p.1.1 p.1.2 false (Config.free s.fresh 0 p.2)
    (x.1, r.2 ++ x.2)) (s, [])

/-- The resident OS writes memory of a context for a call. -/
def osWrite (s : State) (i asid a : Nat) (bytes : List Byte) : Option State :=
  (spans s asid a bytes.length .write).map fun l =>
    (l.foldl (fun (r : State × List Byte) p => (stewWrite r.1 i p.1 (r.2.take p.2) false, r.2.drop p.2)) (s, bytes)).1

/-! ### The mailbox (R330) -/

def Mbox.size (m : Mbox) : Nat := 2 ^ m.log2n.toNat

/-- MAILBOX_HEAD_WRITE. -/
def headWrite (s : State) (fn : Nat) (v : BitVec 16) : State :=
  let m := s.mbox fn
  if fn ≥ 17 then s
  else if m.size < (v - m.tail).toNat ∨ (v - m.tail).toNat < (m.head - m.tail).toNat then s.setMbox fn { m with err := true }
  else s.setMbox fn { m with head := v }

/-- MAILBOX_CTAIL_WRITE. -/
def ctailWrite (s : State) (fn : Nat) (v : BitVec 16) : State :=
  let m := s.mbox fn
  if fn ≥ 17 then s
  else if (m.chead - m.ctail).toNat < (m.chead - v).toNat then s.setMbox fn { m with err := true }
  else s.setMbox fn { m with ctail := v }

/-- The completion ring has no room. -/
def Mbox.cplFull (m : Mbox) : Bool := m.size ≤ (m.chead - m.ctail).toNat

/-- A command entry: tag, call number, arguments. -/
def entryOf (b : List Byte) : BitVec 16 × Nat × List DWord :=
  (BitVec.ofNat 16 (field b 2 2), field b 0 2, (List.range 6).map fun i => BitVec.ofNat 64 (field b (8 + 8 * i) 8))

/-- MAILBOX_ENTRY_TAKE: the entry at TAIL is read; an unknown number is answered at once (R331). -/
def entryTake (s : State) (fn : Nat) : State :=
  let m := s.mbox fn
  if !m.en || !m.ready || m.tail == m.head || m.cplFull then s
  else
    let e := entryOf (mread s.hostMem (m.ring.toNat + 64 * (m.tail.toNat % m.size)) 64)
    let m := { m with tail := m.tail + 1 }
    if e.2.1 > 10 then s.setMbox fn { m with held := m.held ++ [(e.1, -1)] }
    else s.setMbox fn { m with taken := m.taken ++ [e] }

/-- COMPLETION_WRITE: the oldest held completion is written, with its phase bit, and the function's vector is raised. -/
def completionWrite (s : State) (fn : Nat) : State :=
  let m := s.mbox fn
  match m.held with
  | [] => s
  | (tag, v) :: r =>
    if m.cplFull then s
    else
      let phase := 1 - m.chead.toNat / m.size % 2
      let b := natLe 2 tag.toNat ++ [BitVec.ofNat 8 phase] ++ List.replicate 5 0 ++ natLe 8 v.toNat
      let s := { s with hostMem := mwrite s.hostMem (m.cpl.toNat + 16 * (m.chead.toNat % m.size)) b }
      s.setMbox fn { m with held := r, chead := m.chead + 1, msix := m.msix + 1 }

/-! ### Calls (R331) -/

def callErr (n : Nat) : DWord := BitVec.ofInt 64 (-(n : Int))

def callerAsid (s : State) (who : Caller) : Nat :=
  match who with
  | .steward _ asid => asid
  | .mailbox fn _ => (s.mbox fn).asid

/-- The core on which the resident OS serves a call: the caller's own, or the one that serves the mailbox (DESIGN CHOICE, log 110). -/
def callerCore (who : Caller) : Nat := match who with | .steward core _ => core | .mailbox _ _ => osCore

/-- A call begins: the ecall of one of the sixteen steward cores (R14), or an entry that the mailbox has taken, with this number
and these arguments; its context is one of the 256 address spaces (R16). -/
def callBegin (s : State) (who : Caller) (num : Nat) (args : List Nat) : Option State :=
  if callerAsid s who ≥ 256 then none else
  match who with
  | .steward core _ => if core < 16 then some s else none
  | .mailbox fn tag =>
    let m := s.mbox fn
    match m.taken.find? fun e => e.1 == tag && e.2.1 == num && (e.2.2.take args.length).map (·.toNat) == args with
    | some e => some (s.setMbox fn { m with taken := m.taken.erase e })
    | none => none

/-- Serves a call. -/
def call (s : State) (who : Caller) (num : Nat) (args : List Nat) (body : State → State × DWord) : State :=
  match callBegin s who num args with
  | none => s
  | some s => let r := body s; r.1.answer who r.2

/-- exit: it has no result, so a completion's is a free value (assumption 4) (DEDUCED, log 83). -/
def sysExit (s : State) (who : Caller) (code : Nat) : State :=
  match who with
  | .steward _ _ => s
  | .mailbox _ _ => call s who 0 [code] fun s => ({ s with fresh := s.fresh + 1 }, BitVec.ofNat 64 (Config.free s.fresh 4 0))

/-- log: a text goes to the log. -/
def sysLog (s : State) (who : Caller) (a n : Nat) : State :=
  call s who 1 [a, n] fun s =>
    match osRead s (callerCore who) (callerAsid s who) a n with
    | none => (s, callErr 3)
    | some r => ({ r.1 with log := r.1.log ++ [String.ofList (r.2.map fun b => Char.ofNat b.toNat)] }, BitVec.ofNat 64 n)

/-! ### Mapping (R294 to R296) -/

/-- A frame that the resident OS may use for a leaf of a key, or for a node: memory, in no pool, of that key (R223, R305). -/
def frameFree (s : State) (key f : Nat) : Bool :=
  f * 65536 < memLimit && aget 0 f s.shallot.owner == key && !(s.asids.any fun a => a.2.pool.contains f)

/-- The resident OS writes a table entry from steward core i: one indivisible store of system scope (R299, R353). -/
def osEntry (s : State) (i pa v : Nat) : State := putEntryAs s (stewardAgent i) (stewardPlace s i) 5 false pa v

/-- Puts a leaf at an address, taking a zeroed frame for each node that is missing; none where a leaf already stands there
(3) or the frames run out (4). -/
def mapLeaf (s : State) (i asid va level leaf : Nat) (frames : List Nat) : Except Nat (State × List Nat) :=
  let rec go : Nat → State → Nat → Nat → List Nat → Except Nat (State × List Nat)
    | 0, _, _, _, _ => .error 3
    | fuel + 1, s, node, lv, fs =>
      let pa := node + 8 * vaIndex va lv
      let e := s.rd (devKey s.self pa) 8
      if lv = level then (if bits e 0 1 = 1 then .error 3 else .ok (osEntry s i pa leaf, fs))
      else if bits e 0 1 = 1 then
        (if bits e 1 1 = 1 then .error 3 else go fuel s (bits e 8 40 * 2 ^ 8) (lv + 1) fs)
      else match fs with
        | [] => .error 4
        | f :: r =>
          if !frameFree s 0 f then .error 4
          else go fuel (osEntry (zeroFrame s f) i pa (1 + f * 65536)) (f * 65536) (lv + 1) r
  go 5 s ((s.asid asid).root * 4096) 0 frames

/-- The bits of a leaf that a caller may give: SIZE to CMT, and KEY (R296). -/
def attrBits (a : Nat) : Nat := bits a 2 14 * 4 + bits a 50 6 * 2 ^ 50

/-- Maps n leaves from va; the frames are those of the leaves, then those of the nodes (DEDUCED, log 81). -/
def mapRange (s : State) (c asid va n attr : Nat) (frames : List Nat) : Except Nat State :=
  let level := 4 - bits attr 2 2
  let step := 2 ^ leafBits level
  let cmt := bits attr 15 1 == 1
  let data := if cmt then n else 0
  if frames.length < data then .error 4
  else
    let key := bits attr 50 6
    let lf := frames.take data
    if !(lf.all fun f => f * 65536 % step == 0 && f * 65536 + step ≤ memLimit &&
        (List.range (step / 65536)).all fun i => frameFree s key (f + i)) || !lf.Nodup then .error 4
    else
      let r := (List.range n).foldl (fun (r : Except Nat (State × List Nat)) i => match r with
        | .error e => .error e
        | .ok (s, fs) =>
          let pa := if cmt then lf.getD i 0 * 65536 else 0
          mapLeaf s c asid (va + i * step) level (3 + attr + pa + s.self * 2 ^ 56) fs) (.ok (s, frames.drop data))
      r.map (·.1)

/-- map (DEDUCED, log 81). -/
def sysMap (s : State) (who : Caller) (va n attr : Nat) (frames : List Nat) : State :=
  call s who 2 [va, n, attr] fun s =>
    let asid := callerAsid s who
    let step := 2 ^ leafBits (4 - bits attr 2 2)
    let key := bits attr 50 6
    if attr ≠ attrBits attr ∨ bits attr 2 2 = 3 ∨ bits attr 8 2 = 3 ∨ va % step ≠ 0 ∨ n % step ≠ 0 ∨ n = 0 ∨ va + n > 2 ^ 57 then
      (s, callErr 2)
    else if key ≠ 0 ∧ afind key s.shallot.keys ≠ some asid then (s, callErr 3)
    else match mapRange s (callerCore who) asid va (n / step) attr frames with
      | .error e => (s, callErr e)
      | .ok t => (t, 0)

/-- unmap: entries are cleared and their translations dropped, once every access by them has performed (R299); part of a larger
leaf is outside the range of the call (DEDUCED, log 82). -/
def sysUnmap (s : State) (who : Caller) (va n : Nat) : State :=
  if unperformed s (callerAsid s who) fun p => va / 65536 ≤ p && p < va / 65536 + n / 65536 then s else
  call s who 3 [va, n] fun s =>
    let asid := callerAsid s who
    if va % 65536 ≠ 0 ∨ n % 65536 ≠ 0 ∨ n = 0 ∨ va + n > 2 ^ 57 then (s, callErr 2)
    else
      let es := (pagesOf va n).filterMap fun p => (entryAt s asid p).map fun e => (p, e)
      let whole (p : Nat) (e : Nat × Nat × Nat) : Bool :=
        let size := 2 ^ leafBits e.2.2
        va ≤ p / size * size && p / size * size + size ≤ va + n
      if !(es.all fun e => whole e.1 e.2) then (s, callErr 2)
      else
        let clear (s : State) (e : Nat × Nat × Nat × Nat) : State := dropTlb (osEntry s (callerCore who) e.2.1 0) asid e.1
        (es.foldl clear s, 0)

/-! ### Launch records (R332) -/

/-- The context's kernel of an index. -/
def State.kernel (s : State) (asid i : Nat) : Option Kernel := s.kernels.find? fun k => k.asid == asid && k.index == i

/-- The record of a kernel with its fields filled in; `wait` is the first 24 bytes of a wait block. -/
def buildRecord (k : Kernel) (arg q : Nat) (wait : List Byte) : List Byte :=
  let r := setField (setField (setField k.record 0 8 k.marrowBase.toNat) 8 8 k.radishBase.toNat) 16 8 arg
  let r := r.take 32 ++ wait ++ r.drop 56
  setField r 65 1 q

/-- The wait words of a call: zero without a wait block; the error of a block that is not well formed (2) or that the context may not
read (3). -/
def waitBlock (s : State) (i asid a : Nat) : Except Nat (State × List Byte) :=
  if a = 0 then .ok (s, List.replicate 24 0)
  else if a % 8 ≠ 0 then .error 2
  else match osRead s i asid a 32 with
    | some r => if field r.2 24 8 = 0 then .ok (r.1, r.2.take 24) else .error 2
    | none => .error 3

/-- launch; `dest` is where the resident OS copies the record to. -/
def sysLaunch (s : State) (who : Caller) (idx arg q wb dest : Nat) : State :=
  call s who 4 [idx, arg, q, wb] fun s =>
    let asid := callerAsid s who
    let core := callerCore who
    let x := s.queue q
    match s.kernel asid idx with
    | none => (s, callErr 2)
    | some k =>
      if arg % 256 ≠ 0 ∨ q ≥ 256 then (s, callErr 2)
      else if !x.en || x.asid != asid then (s, callErr 3)
      else match waitBlock s core asid wb with
      | .error e => (s, callErr e)
      | .ok w =>
        let r := buildRecord k arg q w.2
        let l := newLaunch w.1 asid r (some q) x.cls
        match recordCause l x.cls false with
        | some c => ({ s with log := s.log ++ [c] }, callErr 2)
        | none =>
          if x.pending.length ≥ 64 ∨ dest % 256 ≠ 0 then (s, callErr 4)
          else match osWrite w.1 core asid dest r with
          | none => (s, callErr 4)
          | some t => (enqueueLaunch t q { l with kernel := some idx }, BitVec.ofNat 64 t.nextLaunch)

/-- record: the same record at a destination, with queue and time slot zero; nothing is queued. -/
def sysRecord (s : State) (who : Caller) (idx arg dest wb : Nat) : State :=
  call s who 10 [idx, arg, dest, wb] fun s =>
    let asid := callerAsid s who
    let core := callerCore who
    match s.kernel asid idx with
    | none => (s, callErr 2)
    | some k =>
      if arg % 256 ≠ 0 ∨ dest % 256 ≠ 0 then (s, callErr 2)
      else match waitBlock s core asid wb with
      | .error e => (s, callErr e)
      | .ok w =>
        let r := setField (buildRecord k arg 0 w.2) 66 1 0
        match recordCause (newLaunch w.1 asid r none 0) 0 false with
        | some c => ({ s with log := s.log ++ [c] }, callErr 2)
        | none => match osWrite w.1 core asid dest r with
          | none => (s, callErr 3)
          | some t => (t, 0)

/-- wait: 0 once the launch is done; else the call waits until it is, or until its timeout (DEDUCED, log 83). -/
def sysWait (s : State) (who : Caller) (id timeout : Nat) : State :=
  match callBegin s who 5 [id, timeout] with
  | none => s
  | some s =>
    if id ≥ s.nextLaunch then s.answer who (callErr 2)
    else match afind id s.launches with
    | none => s.answer who 0
    | some l =>
      if l.asid ≠ callerAsid s who then s.answer who (callErr 3)
      else { s with waitCalls := s.waitCalls ++ [⟨who, id, s.time + timeout⟩] }

/-- SYS_WAIT_TIMEOUT: the timeout of a waiting call has passed. -/
def sysWaitTimeout (s : State) (who : Caller) : State :=
  match s.waitCalls.find? fun w => w.who == who && w.until_ ≤ s.time with
  | none => s
  | some w => ({ s with waitCalls := s.waitCalls.erase w }).answer who 1

/-! ### Pools, time-triggered entries, the Devicetree page, attestation -/

/-- A frame that a pool accepts (R334). -/
def feedOk (s : State) (asid f : Nat) : Bool :=
  let k := aget 0 f s.shallot.owner
  !(s.asids.any fun a => a.2.pool.contains f) && (k == 0 || afind k s.shallot.keys == some asid)

/-- A frame fed to a pool, or discarded (R334). -/
def feed (s : State) (asid f : Nat) : State :=
  if feedOk s asid f then let a := s.asid asid; s.setAsid asid { a with pool := a.pool ++ [f] } else s

/-- pool: the resident OS adds frames that it chooses, at most as many as asked. -/
def sysPool (s : State) (who : Caller) (n : Nat) (frames : List Nat) : State :=
  call s who 6 [n] fun s =>
    let asid := callerAsid s who
    let old := (s.asid asid).pool.length
    let t := ((frames.take n).filter fun f => f * 65536 < memLimit).foldl (fun s f => feed s asid f) s
    let k := (t.asid asid).pool.length - old
    if k = 0 ∧ n ≠ 0 then (s, callErr 4) else (t, BitVec.ofNat 64 k)

/-- ttset. -/
def sysTtset (s : State) (who : Caller) (e rec first period : Nat) : State :=
  call s who 7 [e, rec, first, period] fun s =>
    let asid := callerAsid s who
    let core := callerCore who
    let t := aget TtEnt.empty e s.tt
    if e ≥ 64 ∨ rec % 256 ≠ 0 ∨ period < 10000 ∨ period ≥ 2 ^ 32 then (s, callErr 2)
    else if t.en && t.asid.toNat != asid then (s, callErr 3)
    else match osRead s core asid rec 256 with
    | none => (s, callErr 3)
    | some r =>
      let bytes := setField r.2 66 1 (128 + e)
      match recordCause (newLaunch r.1 asid bytes none 0) 0 true with
      | some c => ({ s with log := s.log ++ [c] }, callErr 2)
      | none => match osWrite r.1 core asid (rec + 66) [BitVec.ofNat 8 (128 + e)] with
        | none => (s, callErr 3)
        | some u =>
          let v : TtEnt := { t with next := BitVec.ofNat 64 first, record := BitVec.ofNat 64 rec, period := BitVec.ofNat 32 period
                                    en := true, asid := BitVec.ofNat 8 asid }
          ({ u with tt := aput e v u.tt }, 0)

/-- The leaf of the Devicetree page: read-only (R341). -/
def dtAttr : Nat := 0x8090

/-- dtpage: the resident OS builds the process's Devicetree, maps it once, and answers its address; where, and what of the device the
process may use, is its choice (R341). -/
def sysDtpage (s : State) (who : Caller) (va : Nat) (frames : List Nat) (cut : DtCut) : State :=
  call s who 8 [] fun s =>
    let asid := callerAsid s who
    let a := s.asid asid
    let blob := processTree s asid cut
    if a.dtpage ≠ 0 then (s, a.dtpage)
    else if va % 65536 ≠ 0 ∨ va = 0 ∨ va ≥ 2 ^ 57 ∨ blob.length > 65536 then (s, callErr 4)
    else match frames with
    | [] => (s, callErr 4)
    | f :: _ => match mapRange (zeroFrame s f) (callerCore who) asid va 1 dtAttr frames with
      | .error _ => (s, callErr 4)
      | .ok t =>
        let t := stewWrite t (callerCore who) (devKey t.self (f * 65536)) blob false
        (t.setAsid asid { t.asid asid with dtpage := BitVec.ofNat 64 va }, BitVec.ofNat 64 va)

/-- attest: Shallot's report on a nonce; its bytes and their number are free values (assumption 4)
(DESIGN CHOICE, log 84). -/
def sysAttest (s : State) (who : Caller) (nonce rep : Nat) : State :=
  call s who 9 [nonce, rep] fun s =>
    let asid := callerAsid s who
    let core := callerCore who
    let n := Config.free s.fresh 4 0 % 65536
    let bytes : List Byte := (List.range n).map fun i => BitVec.ofNat 8 (Config.free s.fresh 4 (i + 1))
    match osRead s core asid nonce 32 with
    | none => (s, callErr 3)
    | some r => match osWrite { r.1 with fresh := r.1.fresh + 2 } core asid rep bytes with
      | none => (s, callErr 3)
      | some t =>
        let x : Nat × List Nat × Nat := (leNat r.2, t.shallot.measured, t.shallot.refused)
        ({ t with shallot := { t.shallot with spdm := t.shallot.spdm ++ [x] } }, BitVec.ofNat 64 n)

end Sys2Proof.Machine
end

