-- ==== Sys2Proof/Machine/Regs.lean ====
section
/-! DEFINITION. The register space of the steward cores (R279, R292, R299, R333 to R339), the scheduler's commands (R313, R337),
and a steward core's accesses to device memory (R306, R353). -/
set_option linter.all false
namespace Sys2Proof.Machine

/-- The bits [lo, lo + n) of a register's value. -/
def rb {w : Nat} (v : BitVec w) (lo n : Nat) : Nat := bits v.toNat lo n

/-! ### Queue table, time-triggered table, descriptors -/

/-- QUEUE_TABLE_WRITE: discarded where it changes ASID or CLASS while launches pend (R336). -/
def queueWrite (s : State) (q : Nat) (v : BitVec 128) : State :=
  let x := s.queue q
  if q ≥ 256 then s
  else if !x.pending.isEmpty && (x.asid != rb v 0 8 || x.cls != rb v 8 2) then s
  else s.setQueue q { x with asid := rb v 0 8, cls := rb v 8 2, en := v.getLsbD 10 }

/-- TT_ENTRY_WRITE; a period below 10,000 ns with EN = 1 is outside the field's range and the write is discarded (R279). -/
def ttWrite (s : State) (e : Nat) (v : BitVec 256) : State :=
  if e ≥ 64 ∨ (v.getLsbD 160 = true ∧ rb v 128 32 < 10000) then s
  else
    let t := aget TtEnt.empty e s.tt
    { s with tt := aput e { t with
        next := v.extractLsb' 0 64, record := v.extractLsb' 64 64, period := v.extractLsb' 128 32, en := v.getLsbD 160
        asid := v.extractLsb' 162 8, skips := v.extractLsb' 192 32 } s.tt }

/-- A descriptor takes effect; CONF and POOL are not written (R292). -/
def setDesc (a : Asid) (v : BitVec 256) : Asid :=
  { a with en := v.getLsbD 0, root := rb v 12 36, heap := rb v 64 57, htiles := rb v 128 32, sarea := rb v 224 32, next := none }

/-- A team of an address space is resident. -/
def asidResident (s : State) (a : Nat) : Bool := s.teams.any fun t => t.2.resident && (s.launch t.2.launch).asid == a

/-- ASID_DESCRIPTOR_WRITE: with a team resident it takes effect after the next invalidation; `badfree` says that the write
reaches BADFREE. -/
def descWrite (s : State) (a : Nat) (v : BitVec 256) (badfree : Bool) : State :=
  if a ≥ 256 then s
  else
    let x := s.asid a
    let x := if badfree then { x with badfree := 0 } else x
    s.setAsid a (if asidResident s a then { x with next := some v } else setDesc x v)

/-- POOL_FEED. -/
def poolFeed (s : State) (v : DWord) : State := feed s (rb v 0 8) (rb v 16 32)

/-! ### Invalidation (R299, R335) -/

/-- INVALIDATE_GO: a write of 1 to GO starts on the range that the registers hold then; discarded while one is under way. -/
def invalGo (s : State) (v : DWord) : State :=
  if v.getLsbD 0 && !s.inval.busy then { s with inval := { s.inval with work := some s.inval.reg } } else s

/-- The range [start, start + n) meets bytes [lo, hi). -/
def InvalRange.hits (x : InvalRange) (lo hi : Nat) : Bool :=
  x.all || (x.start.toNat / 4096 * 4096 < hi && lo < x.start.toNat / 4096 * 4096 + x.pages.toNat * 4096)

/-- The range meets a 64 KiB page. -/
def InvalRange.meets (x : InvalRange) (page : Nat) : Bool := x.hits (page * 65536) ((page + 1) * 65536)

/-- The range meets what a cached leaf maps. -/
def InvalRange.meetsTlb (x : InvalRange) (t : Tlb) : Bool :=
  x.hits (t.page * 65536 / 2 ^ leafBits t.level * 2 ^ leafBits t.level) ((t.page * 65536 / 2 ^ leafBits t.level + 1) * 2 ^ leafBits t.level)

/-- The range meets what a table entry leads to. -/
def InvalRange.meetsTab (x : InvalRange) (t : TabEnt) : Bool :=
  x.hits (t.prefix_ * 2 ^ (48 - 9 * t.level)) ((t.prefix_ + 1) * 2 ^ (48 - 9 * t.level))

/-- INVALIDATE_DONE: once every access that used a translation of the range has performed (R299), the translations are dropped, a
descriptor that waits takes effect, and Tuber answers. -/
def invalDone (s : State) : State :=
  match s.inval.work with
  | none => s
  | some x =>
    let a := x.asid.toNat
    if unperformed s a x.meets then s
    else
      let s := { s with
        tlb := s.tlb.filter fun t => !(t.asid == a && x.meetsTlb t)
        tabs := s.tabs.filter fun t => !(t.asid == a && x.meetsTab t)
        inval := { s.inval with work := none }, irqs := s.irqs + 1 }
      match (s.asid a).next with
      | some v => s.setAsid a (setDesc (s.asid a) v)
      | none => s

/-! ### The scheduler command block (R337) -/

/-- The teams that the block names: every cluster of the launch, or one by its linear index; in cluster order, then member
order. -/
def cmdTeams (s : State) : List Nat :=
  let l := s.cmd.launch.toNat
  let cs := s.clusters.filter fun c => c.2.launch == l && (s.cmd.cluster == 0xFFF || c.2.linear == s.cmd.cluster.toNat)
  let by_ (n : Nat) : List (Nat × Cluster) := cs.filter fun c => c.2.linear == n
  ((List.range (s.launch l).placed).flatMap by_).flatMap fun c =>
    (List.range 12).flatMap fun m => teamsOf s fun t => t.alive && t.cluster == c.1 && t.member == m

/-- A command is under way and will end with a result. -/
def cmdStart (s : State) (op res : Nat) (ts : List Nat) : State :=
  { s with cmd := { s.cmd with busy := true, op := op, res := BitVec.ofNat 8 res, teams := ts } }

def launchKnown (s : State) : Bool := (afind s.cmd.launch.toNat s.launches).isSome

/-- The save area of the block holds n bytes for the launch's context. -/
def cmdArea (s : State) (n : Nat) : Bool :=
  areaOk s (s.launch s.cmd.launch.toNat).asid s.cmd.save.toNat n

/-- SCHED_PREEMPT (DEDUCED, log 69). -/
def cmdPreempt (s : State) : State :=
  let ts := cmdTeams s
  if s.cmd.busy then s
  else if !launchKnown s || ts.isEmpty then cmdStart s 0 1 []
  else if !(ts.all fun t => (s.team t).resident && (s.team t).preempt == 0) then cmdStart s 0 2 []
  else if !cmdArea s (ts.map (imageParts s)).sum then cmdStart s 0 3 []
  else cmdStart (requestHalt s s.cmd.save.toNat ts false) 0 0 ts

/-- SCHED_RESTORE: the teams whose complete images lie in the area may be placed again (DEDUCED, log 69). -/
def cmdRestore (s : State) : State :=
  let ts := cmdTeams s
  if s.cmd.busy then s
  else if !launchKnown s || ts.isEmpty then cmdStart s 1 1 []
  else if !(ts.all fun t => (s.team t).preempt == 3 && !(s.team t).bySched) then cmdStart s 1 2 []
  else if !cmdArea s (ts.map (imageParts s)).sum || (layImages s s.cmd.save.toNat ts).any (fun p => (s.team p.1).saveAt != some p.2) then
    cmdStart s 1 3 []
  else cmdStart (ts.foldl (fun s t => s.modTeam t fun x => { x with bySched := true }) s) 1 0 ts

/-- The team of commands 2 and 3. -/
def cmdTeam (s : State) : Option Nat := (cmdTeams s).find? fun t => (s.team t).member == s.cmd.member.toNat

/-- A suspended fragment resumes as XRET would (R110, R313). -/
def resumeGroup (s : State) (gid fid : Nat) (skip : Bool) : State :=
  let g := s.grp gid
  let rep : Option Lanes := if !skip && bits (aget 0 0 g.xrec).toNat 0 8 == 7 then some (aget 0 7 g.xrec) else none
  let pc := if skip then
      g.xpc + BitVec.ofNat 64 (wholeLen s (fetchAgent gid) (s.placeOf gid) (s.asidOf g) (s.radOf g) g.xpc)
    else g.xpc
  (if skip then s.noteWords (s.asidOf g) g.xpc (if s.radOf g then 2 else 1) else s).setGrp gid (g.xret fid pc rep)

/-- The agent of a stream's fetches. -/
def streamFetch (tid : Nat) : Nat := fetchAgent (2 ^ 40 + tid)

/-- A suspended stream resumes. -/
def resumeStream (s : State) (tid : Nat) (skip : Bool) : State :=
  let x := s.str tid
  let asid := (s.launch (s.team tid).launch).asid
  let pc := if skip then
      x.xpc + BitVec.ofNat 64 (wholeLen s (streamFetch tid) (s.streamPlace tid) asid false x.xpc)
    else x.xpc
  (if skip then s.noteWords asid x.xpc 1 else s).setStr tid { x with susp := false, pc := pc, wait := .run, lit := none }

/-- SCHED_RESUME_REPLAY and SCHED_RESUME_SKIP. -/
def cmdResume (s : State) (skip : Bool) : State :=
  let op := if skip then 3 else 2
  if s.cmd.busy then s
  else if !launchKnown s then cmdStart s op 1 []
  else match cmdTeam s with
  | none => cmdStart s op 1 []
  | some t =>
    if s.cmd.stream then
      if (s.team t).stream.isNone then cmdStart s op 1 []
      else if !(s.str t).live || !(s.str t).susp then cmdStart s op 2 []
      else cmdStart (resumeStream s t skip) op 0 []
    else match (s.team t).groups[s.cmd.group.toNat]? with
    | none => cmdStart s op 1 []
    | some g => match (s.grp g).live, (s.grp g).susp with
      | true, some f => cmdStart (resumeGroup s g f skip) op 0 []
      | _, _ => cmdStart s op 2 []

/-- SCHED_END_LAUNCH. -/
def cmdEnd (s : State) : State :=
  if s.cmd.busy then s
  else if !launchKnown s then cmdStart s 4 1 []
  else cmdStart (endLaunchNow s s.cmd.launch.toNat) 4 0 (teamsOf s fun t => t.alive && t.launch == s.cmd.launch.toNat)

/-- SCHED_CMD_RESERVED: codes 5 to 15. -/
def cmdReserved (s : State) : State := if s.cmd.busy then s else cmdStart s 5 4 []

/-- What the command asks of a team has come about, or the team has ended. -/
def cmdOver (s : State) (t : Nat) : Bool :=
  let x := s.team t
  match s.cmd.op with
  | 0 => !x.alive || x.preempt == 3
  | 1 => x.preempt < 2
  | 4 => !x.alive
  | _ => true

/-- SCHED_CMD_DONE: BUSY returns to 0 and RESULT is written. -/
def cmdDone (s : State) : State :=
  if s.cmd.busy && s.cmd.teams.all (cmdOver s) then
    { s with cmd := { s.cmd with busy := false, result := s.cmd.res, teams := [] } }
  else s

/-! ### The fault report queue (R338) -/

/-- Held reports are written while the queue has room. -/
def releaseReports (s : State) : Nat → State
  | 0 => s
  | n + 1 => match s.repHeld with
    | [] => s
    | r :: rest =>
      if s.repHead - s.repTail = 255 then s
      else releaseReports { s with
        repMem := aput s.repHead.toNat r s.repMem, repHead := s.repHead + 1, repHeld := rest, irqs := s.irqs + 1 } n

/-- FAULT_QUEUE_TAIL_WRITE: discarded where TAIL would pass HEAD or move back. -/
def tailWrite (s : State) (v : BitVec 8) : State :=
  if (s.repHead - s.repTail).toNat < (s.repHead - v).toNat then s
  else releaseReports { s with repTail := v } s.repHeld.length

/-- A report as the queue's memory shows it. -/
def Report.bytes (r : Report) : List Byte :=
  natLe 1 r.asid ++ natLe 1 r.core ++ natLe 1 r.group ++ [0] ++ natLe 4 r.launch ++ natLe 8 r.xpc.toNat ++
    natLe 4 r.xem.toNat ++ natLe 4 r.xmode.toNat ++ ((List.range 8).flatMap fun i => natLe 4 (aget 0 i r.xrec).toNat) ++
    natLe 8 r.time

/-! ### Registers without a step of their own -/

/-- REGISTER_WRITE. LOG2N, RING and CPL are not written while EN = 1, and LOG2N not outside 4 to 12; ERR is cleared by a 1
(R330) (DEDUCED, log 80). -/
def regWrite (s : State) (r : Reg) (v : DWord) : State :=
  match r with
  | .domain i =>
    if i ≥ 144 then s
    else
      let d := aget Dom.empty i s.domain
      { s with domain := aput i { d with port := rb v 0 5, valid := v.getLsbD 5 && i != s.self, lanes := v.extractLsb' 8 8 } s.domain }
  | .invalStart => { s with inval := { s.inval with reg := { s.inval.reg with start := v } } }
  | .invalPages => { s with inval := { s.inval with reg := { s.inval.reg with pages := v } } }
  | .invalAsid => { s with inval := { s.inval with reg := { s.inval.reg with asid := v.extractLsb' 0 8, all := v.getLsbD 8 } } }
  | .cmdTarget => { s with cmd := { s.cmd with
      launch := v.extractLsb' 0 32, cluster := v.extractLsb' 32 12, member := v.extractLsb' 44 4
      group := v.extractLsb' 48 5, stream := v.getLsbD 53 } }
  | .cmdSave => { s with cmd := { s.cmd with save := v } }
  | .ring fn => if fn ≥ 17 ∨ (s.mbox fn).en = true then s else s.setMbox fn { s.mbox fn with ring := v }
  | .cpl fn => if fn ≥ 17 ∨ (s.mbox fn).en = true then s else s.setMbox fn { s.mbox fn with cpl := v }
  | .control fn =>
    if fn ≥ 17 then s
    else
      let m := s.mbox fn
      let n := rb v 0 8
      s.setMbox fn { m with
        log2n := if m.en || n < 4 || 12 < n then m.log2n else BitVec.ofNat 8 n
        en := v.getLsbD 8, err := m.err && !v.getLsbD 9 }
  | .serve fn => if fn ≥ 17 then s else s.setMbox fn { s.mbox fn with ready := v.getLsbD 0, asid := rb v 8 8 }

/-! ### The register space as a steward core reads and writes it (R333) -/

def flag (b : Bool) : Nat := if b then 1 else 0

def queueImage (s : State) (q : Nat) : Nat :=
  let x := s.queue q
  x.asid + x.cls * 2 ^ 8 + flag x.en * 2 ^ 10 + x.pending.length * 2 ^ 16

def ttImage (s : State) (e : Nat) : Nat :=
  let t := aget TtEnt.empty e s.tt
  t.next.toNat + t.record.toNat * 2 ^ 64 + t.period.toNat * 2 ^ 128 + flag t.en * 2 ^ 160 + flag t.run * 2 ^ 161 +
    t.asid.toNat * 2 ^ 162 + t.skips.toNat * 2 ^ 192

/-- What a descriptor reads as: the values last written. -/
def descImage (s : State) (a : Nat) : Nat :=
  let x := s.asid a
  let y := match x.next with | some v => setDesc x v | none => x
  flag y.en + flag x.conf * 2 + y.root * 2 ^ 12 + y.heap * 2 ^ 64 + y.htiles * 2 ^ 128 + x.badfree.toNat * 2 ^ 160 +
    x.pool.length % 2 ^ 32 * 2 ^ 192 + y.sarea * 2 ^ 224

def invalImage (s : State) : Nat :=
  let x := s.inval.reg
  x.start.toNat + x.pages.toNat * 2 ^ 64 + x.asid.toNat * 2 ^ 128 + flag x.all * 2 ^ 136 + flag s.inval.busy * 2 ^ 193

def cmdImage (s : State) : Nat :=
  let x := s.cmd
  x.launch.toNat + x.cluster.toNat * 2 ^ 32 + x.member.toNat * 2 ^ 44 + x.group.toNat * 2 ^ 48 + flag x.stream * 2 ^ 53 +
    x.save.toNat * 2 ^ 64 + flag x.busy * 2 ^ 132 + x.result.toNat * 2 ^ 136

def mboxImage (s : State) (fn : Nat) : Nat :=
  let m := s.mbox fn
  m.ring.toNat + m.head.toNat * 2 ^ 64 + m.tail.toNat * 2 ^ 80 + m.log2n.toNat * 2 ^ 96 + flag m.en * 2 ^ 104 +
    flag m.err * 2 ^ 105 + flag m.ready * 2 ^ 106 + m.cpl.toNat * 2 ^ 128 + m.chead.toNat * 2 ^ 192 + m.ctail.toNat * 2 ^ 208

def domImage (s : State) (i : Nat) : Nat :=
  let d := aget Dom.empty i s.domain
  d.port + flag d.valid * 2 ^ 5 + d.lanes.toNat * 2 ^ 8 + flag (s.domFail d) * 2 ^ 16

def repImage (s : State) (off : Nat) : Nat :=
  if off < 8 then bits (s.repHead.toNat + s.repTail.toNat * 2 ^ 8) (8 * off) 8
  else if off < 0x100 then 0
  else match afind ((off - 0x100) / 64) s.repMem with
    | some r => (r.bytes.getD ((off - 0x100) % 64) 0).toNat
    | none => 0

/-- The registers of the space: the part that holds an offset, with its entry and the byte within it. -/
inductive RegAt where
  | queue (q b : Nat)
  | tt (e b : Nat)
  | desc (a b : Nat)
  | pool (b : Nat)
  | inval (b : Nat)
  | cmd (b : Nat)
  | report (off : Nat)
  | mbox (fn b : Nat)
  | domain (i b : Nat)
  deriving DecidableEq, Repr

/-- Where an offset from 2^48 lies; none where the table places nothing (DEDUCED, log 86). -/
def regAt (o : Nat) : Option RegAt :=
  if o < 0x1000 then some (.queue (o / 16) (o % 16))
  else if o < 0x1800 then some (.tt ((o - 0x1000) / 32) (o % 32))
  else if 0x10000 ≤ o ∧ o < 0x12000 then some (.desc ((o - 0x10000) / 32) (o % 32))
  else if 0x12000 ≤ o ∧ o < 0x12008 then some (.pool (o % 8))
  else if 0x12008 ≤ o ∧ o < 0x12028 then some (.inval (o - 0x12008))
  else if 0x13000 ≤ o ∧ o < 0x13040 then some (.cmd (o - 0x13000))
  else if 0x14000 ≤ o ∧ o < 0x18100 then some (.report (o - 0x14000))
  else if 0x20000 ≤ o ∧ o < 0x20220 then some (.mbox ((o - 0x20000) / 32) (o % 32))
  else if 0x100000 ≤ o ∧ o < 0x100480 then some (.domain ((o - 0x100000) / 8) (o % 8))
  else none

/-- A byte of the space. -/
def regByte (s : State) (r : RegAt) : Nat :=
  match r with
  | .queue q b => bits (queueImage s q) (8 * b) 8
  | .tt e b => bits (ttImage s e) (8 * b) 8
  | .desc a b => bits (descImage s a) (8 * b) 8
  | .pool _ => 0
  | .inval b => bits (invalImage s) (8 * b) 8
  | .cmd b => bits (cmdImage s) (8 * b) 8
  | .report off => repImage s off
  | .mbox fn b => bits (mboxImage s fn) (8 * b) 8
  | .domain i b => bits (domImage s i) (8 * b) 8

/-- Replaces bytes [b, b + n) of a register's image by written ones. -/
def merge (old b : Nat) (bytes : List Byte) : Nat :=
  old % 2 ^ (8 * b) + leNat bytes * 2 ^ (8 * b) + old / 2 ^ (8 * (b + bytes.length)) * 2 ^ (8 * (b + bytes.length))

/-- A write of bytes [b, b + n) reaches byte x. -/
def touches (b n x : Nat) : Bool := b ≤ x && x < b + n

/-- A command code starts its command. -/
def cmdCode (s : State) (c : Nat) : State :=
  match c with
  | 0 => cmdPreempt s
  | 1 => cmdRestore s
  | 2 => cmdResume s false
  | 3 => cmdResume s true
  | 4 => cmdEnd s
  | _ => cmdReserved s

/-- A write of at most 8 bytes within one aligned 8-byte word of the space. -/
def regStore (s : State) (r : RegAt) (bytes : List Byte) : State :=
  let n := bytes.length
  let v := leNat bytes
  let word (img k : Nat) : DWord := BitVec.ofNat 64 (img / 2 ^ (64 * k))
  match r with
  | .queue q b => queueWrite s q (BitVec.ofNat 128 (merge (queueImage s q) b bytes))
  | .tt e b => ttWrite s e (BitVec.ofNat 256 (merge (ttImage s e) b bytes))
  | .desc a b => descWrite s a (BitVec.ofNat 256 (merge (descImage s a) b bytes))
      ((List.range 4).any fun i => touches b n (20 + i))
  | .pool b => if b = 0 then poolFeed s (BitVec.ofNat 64 v) else s
  | .inval b =>
    let img := merge (invalImage s) b bytes
    match b / 8 with
    | 0 => regWrite s .invalStart (word img 0)
    | 1 => regWrite s .invalPages (word img 1)
    | 2 => regWrite s .invalAsid (word img 2)
    | _ => if b = 24 then invalGo s (BitVec.ofNat 64 v) else s
  | .cmd b =>
    let img := merge (cmdImage s) b bytes
    match b / 8 with
    | 0 => regWrite s .cmdTarget (word img 0)
    | 1 => regWrite s .cmdSave (word img 1)
    | 2 => if b = 16 then cmdCode s (v % 16) else s
    | _ => s
  | .report off => if off ≤ 1 ∧ 1 < off + n then tailWrite s (BitVec.ofNat 8 (v / 2 ^ (8 * (1 - off)))) else s
  | .mbox fn b =>
    let img := merge (mboxImage s fn) b bytes
    match b / 8 with
    | 0 => regWrite s (.ring fn) (word img 0)
    | 1 =>
      let s := if touches b n 8 || touches b n 9 then headWrite s fn (BitVec.ofNat 16 (img / 2 ^ 64)) else s
      if touches b n 12 || touches b n 13 then
        regWrite s (.control fn) (BitVec.ofNat 64 (img / 2 ^ 96 % 2 ^ 9 + if touches b n 13 then img / 2 ^ 105 % 2 * 2 ^ 9 else 0))
      else s
    | 2 => regWrite s (.cpl fn) (word img 2)
    | _ => if touches b n 26 || touches b n 27 then ctailWrite s fn (BitVec.ofNat 16 (img / 2 ^ 208)) else s
  | .domain i b => regWrite s (.domain i) (BitVec.ofNat 64 (merge (domImage s i) b bytes))

/-! ### The host at a function's BAR0 (R329, R330) -/

/-- A byte that the host reads: of the mailbox block at offset 0, and zero above it. -/
def barByte (s : State) (fn off : Nat) : Byte := if off < 32 then BitVec.ofNat 8 (regByte s (.mbox fn off)) else 0

/-- The host reads n bytes of the BAR0 of a function, one of 17. -/
def barRead (s : State) (fn off n : Nat) : State :=
  if fn ≥ 17 ∨ off + n > 65536 then s else { s with barOut := (List.range n).map fun i => barByte s fn (off + i) }

/-- The host writes within one aligned 8-byte word of a BAR0; above the mailbox block the write is discarded. -/
def barWrite (s : State) (fn off : Nat) (bytes : List Byte) : State :=
  if fn ≥ 17 ∨ off ≥ 32 ∨ off % 8 + bytes.length > 8 ∨ bytes.isEmpty then s else regStore s (.mbox fn off) bytes

/-! ### STEWARD_CORE_ACCESS (R353) -/

/-- A steward core's access waits at the home slice while a copy has its line claimed, and for atomics that happen before it
(R242, R250, R254). -/
def stewWaits (s : State) (i key n : Nat) : Bool :=
  (s.copies.any fun c => match c.2.claim with | some x => x.1 == key / 128 | none => false) ||
    blocked { s with ord := (s.ord.event (stewardAgent i) []).2 } (s.ord.event (stewardAgent i) []).1 key n

/-- Memory of this device, at a physical address. -/
def memAt (pa n : Nat) : Bool := pa + n ≤ memLimit

def State.steward (s : State) (i : Nat) : Steward := aget Steward.empty i s.stewards
def State.setSteward (s : State) (i : Nat) (x : Steward) : State := { s with stewards := aput i x s.stewards }

/-- The write that a byte's present value came from. -/
def lastWrite (s : State) (key : Nat) : Option Nat := (s.ord.writes.find? fun w => w.done && w.covers key).map (·.node)

/-- The operation and type code of a RISC-V AMO. -/
def amoOp (op n : Nat) : Nat × Nat :=
  let sg := if n = 8 then 6 else 0
  let us := if n = 8 then 7 else 1
  match op with
  | 0 => (6, us)
  | 1 => (0, us)
  | 2 => (5, us)
  | 3 => (3, us)
  | 4 => (4, us)
  | 5 => (1, sg)
  | 6 => (2, sg)
  | 7 => (1, us)
  | _ => (2, us)

/-- An AMO at the line's home slice, in the chain of device-scope atomics; in a keyed frame it reads zero and writes nothing. -/
def stewAmo (s : State) (i op pa n x : Nat) (aq rl : Bool) (ch : Nat) : State × Nat :=
  let key := devKey s.self pa
  if keyOf s key ≠ 0 then (refuse s, 0)
  else
    let s := s.unpark (key / 128)
    let ag := stewardAgent i
    let pl := stewardPlace s i
    let (nd, o) := s.ord.event ag []
    let s := { s with ord := o }
    let s := if aq then noteFloor s ag nd key n pl 5 else s
    let chain := chainOf 4 0 key true
    let got := atomicCands s nd ag (physRef key) n pl (if aq then some 5 else none) chain ch
    let old := leNat (got.map fun p => candByte s p.1 p.2)
    let rel := relOf (s.ord.ag ag) nd pl 5 rl true
    let carried := (s.ord.writes.filter fun v => v.chain == some chain && v.done &&
      (List.range n).any fun j => v.covers (key + j)).flatMap (·.rel)
    let s := returnLoad s ag nd pl 5 aq true [] got
    let s := s.addWrite ⟨nd, ag, pl, key, natLe n (atomicOp (amoOp op n).1 (amoOp op n).2 old x 0), true, 5, false, false,
      (rel ++ carried).eraseDups, some chain, [], (got.filterMap fun p => candNode p.2).eraseDups, false⟩
    ((s.perform nd).ackW nd, old)

/-- A load from the register space, byte by byte; none where a byte is placed nowhere. -/
def regLoad (s : State) (pa n : Nat) : Option Nat :=
  let bs := (List.range n).map fun i => (regAt (pa + i - 2 ^ 48)).map (regByte s)
  if bs.contains none then none else some (leNat (bs.map fun b => BitVec.ofNat 8 (b.getD 0)))

/-- A steward core's access, of a FENCE by its predecessor and successor sets (R353), or its `ecall` with a number that no row of R331
lists, which answers −1; none where the spec places neither memory nor a register. The value a load, LR, SC or AMO returns
goes to `out`; one that waits changes nothing; an SC may fail at the device's choice (PRESUMED, log 85; DEDUCED, log 86). -/
def stewAccess (s : State) (i : Nat) (acc : StewardAccess) (ch : Nat) : Option State :=
  let put (s : State) (v : Nat) : State := s.setSteward i { s.steward i with out := BitVec.ofNat 64 v }
  let waits (pa n : Nat) : Bool := stewWaits s i (devKey s.self pa) n
  match acc with
  | .load pa n =>
    if pa ≥ 2 ^ 48 then (regLoad s pa n).map (put s)
    else if !memAt pa n then none
    else if waits pa n then some s
    else let r := stewRead s i (devKey s.self pa) n false ch; some (put r.1 (leNat r.2))
  | .store pa bs =>
    if pa ≥ 2 ^ 48 then
      (if pa % 8 + bs.length > 8 then none else (regAt (pa - 2 ^ 48)).map fun r => regStore s r bs)
    else if !memAt pa bs.length then none
    else if waits pa bs.length then some s
    else some (stewWrite s i (devKey s.self pa) bs false)
  | .lr pa n aq rl =>
    if !memAt pa n then none
    else if waits pa n then some s
    else
      let s := if rl then { s with ord := (fenceAgent s.ord (stewardAgent i) (stewardPlace s i) 5 false true false none).2 } else s
      let k := devKey s.self pa
      let r := stewRead s i k n aq ch
      some (r.1.setSteward i ⟨some (pa, n, lastWrite s k), BitVec.ofNat 64 (leNat r.2)⟩)
  | .sc pa bs aq rl =>
    if !memAt pa bs.length then none
    else if waits pa bs.length then some s
    else
      let k := devKey s.self pa
      let ok := (s.steward i).resv == some (pa, bs.length, lastWrite s k) && ch % 2 == 0
      let s' := if ok then stewWrite s i k bs rl else s
      let s' := if aq then { s' with ord := (fenceAgent s'.ord (stewardAgent i) (stewardPlace s' i) 5 true false false none).2 } else s'
      some (s'.setSteward i ⟨none, if ok then 0 else 1⟩)
  | .amo op pa n x aq rl =>
    if !memAt pa n then none
    else if waits pa n then some s
    else let r := stewAmo s i op pa n x aq rl ch; some (put r.1 r.2)
  | .fence pr pw sr sw =>
    some { s with ord := (fenceAgent s.ord (stewardAgent i) (stewardPlace s i) 5 (pr && sr && sw) (pr && pw && sw) false none).2 }
  | .ecall n => some (if n > 10 then put s (callErr 1).toNat else s)

end Sys2Proof.Machine
end

