-- ==== Sys2Proof/Machine/Cross.lean ====
section
/-! DEFINITION. The effects of the cross-lane instructions (R136 to R141). Every lane reads before any writes (R4). -/
set_option linter.all false
namespace Sys2Proof.Machine

/-- The lane that a lane reads: its source if that is an active lane, else itself (R136, R137). -/
def srcLane (src : Group → Nat → Option Nat) (c : Ctx) (g : Group) (l : Nat) : Nat :=
  match src g l with
  | some j => if j < 32 && c.act.getLsbD j then j else l
  | none => l

/-- The raw bits that a move or a match takes of register a in lane l: the whole register, or the pair under a 64-bit type
(R136). -/
def rawBits (g : Group) (ty a l : Nat) : DWord := if is64 ty then g.vl64 a l else (g.vl a l).zeroExtend 64

/-- Writes raw bits to the whole register, or to the pair under a 64-bit type (R136). -/
def putRaw (g : Group) (ty d : Nat) (m : Lanes) (f : Nat → DWord) : Group :=
  if is64 ty then g.putV64 d m f else g.putV d m fun l => (f l).extractLsb' 0 32

/-- d ← a of each active lane's source lane (R136, R137); a poisoned lane that is read raises the poison-use fault (R318). -/
def moveB (src : Group → Nat → Option Nat) (d a : Nat) (c : Ctx) (s : State) : Act :=
  let g := s.grp c.gid
  if g.poisAt c.ty a (maskOf fun j => (lanesOf c.act).any fun l => srcLane src c g l == j) then .fault s (flt 15 0)
  else .done (onGrp s c fun g => putRaw g c.ty d c.act fun l => rawBits g c.ty a (srcLane src c g l))

def shflB (d a b : Nat) : Ctx → State → Act := moveB (fun g l => some (bits (g.vl b l).toNat 0 5)) d a
def shfluB (d a : Nat) (c : Ctx) (s : State) : Act :=
  moveB (fun _ l => if l < c.imm.toNat then none else some (l - c.imm.toNat)) d a c s
def shfldB (d a : Nat) (c : Ctx) (s : State) : Act := moveB (fun _ l => some (l + c.imm.toNat)) d a c s
def shflxB (d a : Nat) (c : Ctx) (s : State) : Act := moveB (fun _ l => some (Nat.xor l c.imm.toNat)) d a c s
def bcastB (d a : Nat) (c : Ctx) (s : State) : Act := moveB (fun _ _ => some c.imm.toNat) d a c s
def firstB (d a : Nat) (c : Ctx) (s : State) : Act := moveB (fun _ _ => lowLane c.act) d a c s

/-- VOTE: 0 all, 1 any, 2 ballot (R138). -/
def voteB (d : SReg) (p : BitVec 3) (c : Ctx) (s : State) : Act :=
  .done (onGrp s c fun g =>
    let m := g.preg p.toNat &&& c.act
    g.putS d.toNat (match c.imm.toNat with
      | 0 => if m = c.act then 1 else 0
      | 1 => if m = 0 then 0 else 1
      | _ => m))

/-- The identity of a reduction under a type (R139): add, mul, min, max, and, or, xor (DEDUCED, log 26). -/
def redIdent (op ty : Nat) : Nat :=
  let F := fmtOf ty
  if isFloat ty then
    match op with
    | 0 => F.signBit true
    | 1 => F.bias * 2 ^ F.f
    | 2 => F.infBits
    | _ => F.signBit true + F.infBits
  else
    match op with
    | 1 => 1
    | 2 => wrapT ty (maxOf ty)
    | 3 => wrapT ty (minOf ty)
    | 4 => 2 ^ wBits ty - 1
    | _ => 0

/-- One node of a reduction: result and flags (R139). -/
def redOp (op ty : Nat) (mode : Word) (x y : Nat) : Nat × Nat :=
  let sat := modeSat mode
  if isFloat ty then
    let F := fmtOf ty
    let a := unpack F (modeFtz mode) x
    let b := unpack F (modeFtz mode) y
    match op with
    | 0 => faddOp F mode a b a
    | 1 => fmulOp F mode a b a
    | 2 => fminOp F mode a b a
    | _ => fmaxOp F mode a b a
  else
    (match op with
      | 0 => iaddOp ty sat x y 0
      | 1 => imulOp ty sat x y 0
      | 2 => iminOp ty sat x y 0
      | 3 => imaxOp ty sat x y 0
      | 4 => andOp ty sat x y 0
      | 5 => orOp ty sat x y 0
      | _ => xorOp ty sat x y 0, 0)

/-- One level of the tree: neighbours combined, flags gathered (DEDUCED, log 26). -/
def redLevel (f : Nat → Nat → Nat × Nat) : List Nat → List Nat × Nat
  | x :: y :: r =>
    let q := f x y
    let t := redLevel f r
    (q.1 :: t.1, Nat.lor q.2 t.2)
  | l => (l, 0)

/-- The tree over 32 positions: five levels (R139). -/
def redTree (f : Nat → Nat → Nat × Nat) (xs : List Nat) : Nat × Nat :=
  let r := (List.range 5).foldl (fun (p : List Nat × Nat) _ =>
    let q := redLevel f p.1
    (q.1, Nat.lor p.2 q.2)) (xs, 0)
  (r.1.headD 0, r.2)

/-- The five steps of an inclusive scan (R140). -/
def scanSteps (f : Nat → Nat → Nat × Nat) (xs : List Nat) : List Nat × Nat :=
  (List.range 5).foldl (fun (p : List Nat × Nat) st =>
    let q := lanes.map fun l => if l < 2 ^ st then (p.1.getD l 0, 0) else f (p.1.getD (l - 2 ^ st) 0) (p.1.getD l 0)
    (q.map (·.1), q.foldl (fun n r => Nat.lor n r.2) p.2)) (xs, 0)

/-- The operands of a reduction: the active lanes' values, else the identity. -/
def redIn (g : Group) (c : Ctx) (op a : Nat) : List Nat :=
  lanes.map fun l => if c.act.getLsbD l then g.rdT c.ty a l else redIdent op c.ty

/-- The types a reduction takes: and, or and xor take no float type (R139). -/
def redTypes (imm : DWord) (ty : Nat) : Bool := crossTypes ty && !(imm.toNat ≥ 4 && isFloat ty)

def reduB (d a : Nat) (c : Ctx) (s : State) : Act :=
  if c.act = 0 then .done s
  else .done (onGrp s c fun g =>
    let r := redTree (redOp c.imm.toNat c.ty c.mode) (redIn g c c.imm.toNat a)
    (g.putT c.ty d c.act fun _ => r.1).raise r.2)

def scanB (d a : Nat) (c : Ctx) (s : State) : Act :=
  if c.act = 0 then .done s
  else .done (onGrp s c fun g =>
    let r := scanSteps (redOp c.imm.toNat c.ty c.mode) (redIn g c c.imm.toNat a)
    (g.putT c.ty d c.act fun l => r.1.getD l 0).raise r.2)

/-- MATCH: the active lanes that hold the same bits (R141). -/
def matchB (d a : Nat) (c : Ctx) (s : State) : Act :=
  .done (onGrp s c fun g => g.putV d c.act fun l =>
    maskOf fun j => c.act.getLsbD j && rawBits g c.ty a j == rawBits g c.ty a l)

end Sys2Proof.Machine
end

