-- ==== Sys2Proof/Machine/Matrix.lean ====
section
/-! DEFINITION. The effects of the matrix stream's instructions (R183 to R200) with the exact block sums and the one rounding
per block (R204, R208 to R212). -/
set_option linter.all false
namespace Sys2Proof.Machine

/-! ### Registers of the stream -/

def Stream.mreg (x : Stream) (k : Nat) : Nat := (aget 0 k x.m : Word).toNat
def Stream.setM (x : Stream) (k : Nat) (w : Word) : Stream :=
  { x with m := aset 0 k w x.m, mpois := x.mpois.filter (· != k) }
def Stream.tile (x : Stream) (t : Nat) : ZTile := aget ZTile.empty t x.z
def Stream.setTile (x : Stream) (t : Nat) (z : ZTile) : Stream :=
  { x with z := aput t z x.z, zpois := x.zpois.filter fun p => p.1 != t }
def Stream.xbyte (x : Stream) (t i : Nat) : Nat := (mget (aget [] t x.x) i).toNat

/-- Writes a whole operand tile. -/
def Stream.setX (x : Stream) (t : Nat) (bs : List Byte) : Stream :=
  { x with x := aput t (mwrite [] 0 bs) x.x, xpois := x.xpois.filter fun p => p.1 != t }

/-- The x tiles the reuse latch holds: first tile and count, as one number (R194). -/
def latched (x : Stream) (t : Nat) : Bool :=
  match x.latch with
  | some v => v / 8 ≤ t && t < v / 8 + v % 8
  | none => false

/-- Fields of FB (R187). -/
def fbA (w : Word) : Nat := bits w.toNat 0 4
def fbB (w : Word) : Nat := bits w.toNat 4 4
def fbL (w : Word) : Nat := bits w.toNat 8 3
def fbMode (w : Word) : Nat := bits w.toNat 11 1
def fbTag (w : Word) : Nat := bits w.toNat 16 16
/-- The parameters a block is opened under (R191). -/
def fbPar (w : Word) : List Nat := [fbA w, fbB w, fbL w, fbMode w]

/-! ### Local-store accesses of the stream (R199) -/

/-- A 4-byte word of a window as an event of the stream reads it: one of the candidates (R199, assumption 4). -/
def strWord (s : State) (tid o node : Nat) : List Byte :=
  let k := lsKey tid o
  if s.ord.writes.any fun w => decide (w.addr < k + 4) && decide (k < w.addr + w.bytes.length) then
    (loadCands s node (streamAgent tid) (winRef tid o) 4 (s.streamPlace tid) none true (Config.free s.fresh 0 (o / 4))).1.map
      fun p => candByte s p.1 p.2
  else [s.peek k, s.peek (k + 1), s.peek (k + 2), s.peek (k + 3)]

/-- n bytes from an aligned offset. -/
def strRead (s : State) (tid off n node : Nat) : List Byte :=
  ((List.range ((n + 3) / 4)).flatMap fun i => strWord s tid (off + 4 * i) node).take n

/-- The stream's next event in program order. -/
def strEvent (s : State) (tid : Nat) (more : List Nat) : Nat × State :=
  let (n, o) := s.ord.event (streamAgent tid) more
  (n, { s with ord := o })

/-- A window range of a stream access: alignment, window, then poison (R185, R188, R318). -/
def strRange (s : State) (tid off n al : Nat) (rd : Bool) : Option FaultInfo :=
  let t := s.team tid
  if off % al ≠ 0 then some (fltV 5 0 off)
  else if off + n > t.winSize then some (fltV 6 8 off)
  else if rd && winPois t off n then some (flt 15 1)
  else none

/-- Runs a stream instruction that reads m register k, whose value passes no poison (R318). -/
def withM (tid : Nat) (s : State) (k : Nat) (f : Stream → Nat → SAct) : SAct :=
  let x := s.str tid
  if x.mpois.contains k then .fault (flt 15 0) else f x (x.mreg k)

def modStr (s : State) (tid : Nat) (f : Stream → Stream) : State := s.setStr tid (f (s.str tid))

/-! ### General instructions of the stream (R184) -/

def strNopB (_ : Nat) (s : State) : SAct := .done s

/-- BAR of a stream: tb only; it arrives after its earlier instructions have completed (R100, R184). -/
def strBarB (cls : BitVec 2) (i : BitVec 4) (tid : Nat) (s : State) : SAct :=
  let x := s.str tid
  let me := streamMember tid
  let await (s : State) (p : Nat) : SAct :=
    let b := s.bar tid 0 i.toNat
    if p < b.phase then
      .done (strEvent s tid ((b.rels.filter fun r => r.1 == p).map (·.2))).2
    else .wait s (.phase 0 i.toNat p)
  match x.wait with
  | .phase _ _ p => await s p
  | _ =>
    let b := s.bar tid 0 i.toNat
    if cls ≠ 0 ∨ !b.members.contains me then .fault (flt 3 1)
    else if x.busy then .wait s .matrix
    else if b.pendNow me then .wait s (.nextPhase 0 i.toNat b.phase)
    else
      let (n, s) := strEvent s tid []
      await (barArrive s tid 0 i.toNat me n) b.phase

/-- A ring descriptor's check for the stream, which reads its words (R180, R318). -/
def strRing (s : State) (tid off : Nat) : Option FaultInfo :=
  match strRange s tid off 32 32 true with
  | some f => some f
  | none => if (s.ring tid off).ok (s.team tid).winSize then none else some (flt 1 4)

/-- RTAKE of a stream writes its m register at once (R180, R184); one that RCLOSE has served goes on. -/
def strRtakeB (d a : SReg) (tid : Nat) (s : State) : SAct :=
  withM tid s a.toNat fun x off =>
    if x.wait = .closed then .done (modStr s tid fun x => x.setM d.toNat 0xFFFF_FFFF) else
    match strRing s tid off with
    | some f => .fault f
    | none =>
      if slotPois s tid ((s.ring tid off).slot (s.ring tid off).tail) then .fault (flt 15 1) else
      let (ord, s) := match x.wait with
        | .ring _ _ n => (n, s)
        | _ => (s.nextUnit, { s with nextUnit := s.nextUnit + 1 })
      if !(ringServes s tid off true && ringFirst s tid off true ord) then .wait s (.ring off true ord)
      else
        let (n, s) := strEvent s tid []
        let (s, v, ev) := ringServe s ⟨streamAgent tid, s.streamPlace tid, tid, n⟩ off true
        let s := (strEvent s tid ev).2
        .done (modStr s tid fun x =>
          { (x.setM d.toNat (BitVec.ofNat 32 v)) with taken := if v = 0xFFFF_FFFF then x.taken else x.taken ++ [(off, v)] })

def strRdoneB (a b : SReg) (tid : Nat) (s : State) : SAct :=
  withM tid s a.toNat fun x off => withM tid s b.toNat fun _ slot =>
    match strRing s tid off with
    | some f => .fault f
    | none =>
      let (n, s) := strEvent s tid []
      match ringDone s ⟨streamAgent tid, s.streamPlace tid, tid, n⟩ off slot with
      | .error f => .fault f
      | .ok s => .done (modStr s tid fun x => { x with taken := x.taken.erase (off, slot) })

/-- EXIT retires the stream; it counts as arrived at its barriers from then on, and the team may end (R98, R106)
(DEDUCED, log 36). -/
def strExitB (tid : Nat) (s : State) : SAct :=
  let (n, s) := strEvent s tid []
  let s := (List.range 16).foldl (fun s i =>
    if (s.bar tid 0 i).members.contains (streamMember tid) then barLeave s tid 0 i (streamMember tid) n else s) s
  .stay (settleTeam (modStr s tid fun x => { x with live := false, latch := none, busy := false }) tid)

/-! ### FB and operand tiles (R187, R188) -/

def fbsetB (m : Nat) (tid : Nat) (s : State) : SAct :=
  withM tid s m fun _ v =>
    if bits v 0 4 > 3 ∨ bits v 4 4 > 3 ∨ bits v 8 3 ≥ 6 ∨ bits v 12 4 ≠ 0 then .fault (flt 1 4)
    else .done (modStr s tid fun x => { x with fb := BitVec.ofNat 32 v })

/-- A write of a latched tile (R188). -/
def latchFault (t : Nat) : FaultInfo := fltV 4 4 (t + 3 * 256)

/-- XLD. A latched tile's fault comes before the alignment and window faults (DESIGN CHOICE, log 106). -/
def xldB (t m : Nat) (tid : Nat) (s : State) : SAct :=
  withM tid s m fun x off =>
    if latched x t then .fault (latchFault t)
    else match strRange s tid off 8192 64 true with
    | some f => .fault f
    | none =>
      let (n, s) := strEvent s tid []
      let bs := strRead s tid off 8192 n
      .done (modStr { s with fresh := s.fresh + 1 } tid fun x => x.setX t bs)

/-- XLDR reads the payload of the oldest slot of the ring that the stream holds. A latched tile's fault comes before those of the ring, and a
payload past the window has the slot's offset in XREC6 (DESIGN CHOICE, log 106). -/
def xldrB (t m : Nat) (tid : Nat) (s : State) : SAct :=
  withM tid s m fun x off =>
    if latched x t then .fault (latchFault t)
    else match x.taken.find? fun p => p.1 == off with
    | none => .fault (flt 1 6)
    | some p =>
      let n := min (s.win tid p.2 4) 8192
      if winPois (s.team tid) p.2 4 then .fault (flt 15 1)
      else match strRange s tid (p.2 + 16) n 1 true with
      | some f => .fault (if f.cause = 6 then fltV 6 8 p.2 else f)
      | none =>
        let (nd, s) := strEvent s tid []
        let bs := strRead s tid (p.2 + 16) n nd
        .done (modStr { s with fresh := s.fresh + 1 } tid fun x => x.setX t (bs ++ List.replicate (8192 - n) 0))

/-! ### Matrix products (R189 to R194, R204, R208 to R212) -/

/-- Element width of a format in bits (R204). -/
def elBits (f : Nat) : Nat := match f with | 0 => 8 | 1 => 6 | 2 => 4 | _ => 16

/-- Element k of a packed row that starts at a byte of a byte function (R190, R204). -/
def elemAt (f : Nat) (rd : Nat → Nat) (base k : Nat) : Int :=
  match f with
  | 0 => (BitVec.ofNat 8 (rd (base + k))).toInt
  | 1 =>
    let b := base + 3 * (k / 4)
    (BitVec.ofNat 6 (bits (rd b + 256 * rd (b + 1) + 65536 * rd (b + 2)) (6 * (k % 4)) 6)).toInt
  | 2 => (BitVec.ofNat 4 (bits (rd (base + k / 2)) (4 * (k % 2)) 4)).toInt
  | _ => (BitVec.ofNat 16 (rd (base + 2 * k) + 256 * rd (base + 2 * k + 1))).toInt

/-- Shape: M, N, base K, output tiles (R189, Table 2). -/
structure Shape where
  m : Nat
  n : Nat
  k : Nat
  c : Nat

def shapes (op : Nat) : Shape :=
  match op with
  | 0xE0 => ⟨64, 64, 64, 1⟩
  | 0xE1 => ⟨64, 128, 64, 2⟩
  | 0xE2 => ⟨128, 128, 64, 4⟩
  | _ => ⟨128, 64, 128, 2⟩

/-- K in force: doubled when both formats are SI4 (R189). -/
def effK (sh : Shape) (fb : Word) : Nat := if fbA fb = 2 ∧ fbB fb = 2 then 2 * sh.k else sh.k

/-- x tiles of A (R189). -/
def aTiles (sh : Shape) (fb : Word) : Nat := (sh.m * effK sh fb * elBits (fbA fb) + 65535) / 65536

/-- 64-byte rows of one column of B (R190). -/
def bRows (sh : Shape) (fb : Word) : Nat := (effK sh fb * elBits (fbB fb) + 511) / 512

/-- The rounding of a completed block into an element (R192, R211, R212): the element and MSTAT bits. -/
def blockInto (mode : Nat) (acc : Word) (S : Int) (ea eb : Nat) : Word × Nat :=
  if mode = 1 then
    let v := acc.toInt + S
    (BitVec.ofNat 32 (wrapT 0 (clampT 0 v)), if clampT 0 v ≠ v then 1 else 0)
  else if ea = 0xFF ∨ eb = 0xFF then (BitVec.ofNat 32 f32.nanBits, 2)
  else if S = 0 then (acc, 0)
  else (BitVec.ofNat 32 (fAdd f32 0 false (unpack f32 false acc.toNat)
    (.fin (decide (S < 0)) S.natAbs ((ea + eb : Nat) - 254 : Int))).1, 0)

/-- One output element: from its partial sum P and element, over k = 0 … K−1 with p elements already in the block; `ab k` is
A[i][k]·B[k][n], `ea j`, `eb j` the scales of block j. Answers P, the element, MSTAT bits (R192) (DEDUCED, log 92). -/
def dotBlocks (mode L p : Nat) (ab : Nat → Int) (ea eb : Nat → Nat) : Nat → Int × Word × Nat → Int × Word × Nat
  | 0, st => st
  | k + 1, st =>
    let (P, acc, ms) := dotBlocks mode L p ab ea eb k st
    let P := P + ab k
    if (p + k + 1) % L = 0 then
      let j := (p + k + 1) / L - 1
      let r := blockInto mode acc P (ea j) (eb j)
      (0, r.1, Nat.lor ms r.2)
    else (P, acc, ms)

/-- What an MMA checks of its tiles and batches (R192): a fault, the wait for a batch, or the position and block count. -/
inductive MmaChk where
  | fault (f : FaultInfo)
  | wait
  | go (p nb : Nat)

def mmaCheck (x : Stream) (sh : Shape) (z : Nat) : MmaChk :=
  let fb := x.fb
  let ts := (List.range sh.c).map fun i => x.tile (z + i)
  let t0 := x.tile z
  let L := 32 * 2 ^ fbL fb
  if ts.any fun t => (t.opened && t.par != fbPar fb) || t.opened != t0.opened || t.pos != t0.pos then .fault (flt 10 3)
  else
    let nb := (t0.pos + effK sh fb) / L
    if nb = 0 then .go t0.pos 0
    else match x.sa, x.sb with
      | a :: _, b :: _ =>
        if a.tag ≠ fbTag fb ∨ b.tag ≠ fbTag fb then .fault (flt 10 0)
        else if a.bytes.length ≠ sh.m * nb ∨ b.bytes.length ≠ sh.n * nb then .fault (flt 10 1)
        else if fbMode fb = 1 ∧ (a.bytes ++ b.bytes).any fun e => e != 127 then .fault (flt 10 2)
        else .go t0.pos nb
      | _, _ => .wait

/-- The stream after an MMA whose checks passed: A from the x tiles, B from the bytes read (DEDUCED, log 92). -/
def mmaRun (x : Stream) (sh : Shape) (z a p nb : Nat) (reuse : Bool) (bb : List Byte) : Stream :=
  let fb := x.fb
  let K := effK sh fb
  let L := 32 * 2 ^ fbL fb
  let ra := K * elBits (fbA fb) / 8
  let rb := 64 * bRows sh fb
  let ba := ((List.range (8192 * aTiles sh fb)).map fun i => x.xbyte (a + i / 8192) (i % 8192)).toArray
  let bn := (bb.map (·.toNat)).toArray
  let ea := ((List.range (sh.m * K)).map fun j => elemAt (fbA fb) (fun i => ba.getD i 0) (j / K * ra) (j % K)).toArray
  let eb := ((List.range (sh.n * K)).map fun j => elemAt (fbB fb) (fun i => bn.getD i 0) (j / K * rb) (j % K)).toArray
  let sa := (x.sa.head?.map (·.bytes)).getD []
  let sb := (x.sb.head?.map (·.bytes)).getD []
  let out (t e : Nat) : Int × Word × Nat :=
    let i := 64 * (t / (sh.n / 64)) + e / 64
    let n := 64 * (t % (sh.n / 64)) + e % 64
    let zt := x.tile (z + t)
    dotBlocks (fbMode fb) L p (fun k => ea.getD (i * K + k) 0 * eb.getD (n * K + k) 0)
      (fun j => (sa.getD (j * sh.m + i) 0).toNat) (fun j => (sb.getD (j * sh.n + n) 0).toNat) K
      (aget 0 e zt.sums, aget 0 e zt.el, 0)
  let pos := (p + K) % L
  let x' := (List.range sh.c).foldl (fun y t =>
    let rs := (List.range 4096).map fun e => (e, out t e)
    let el := rs.foldr (fun r acc => if r.2.2.1 = 0 then acc else (r.1, r.2.2.1) :: acc) []
    let sums := rs.foldr (fun r acc => if r.2.1 = 0 then acc else (r.1, r.2.1) :: acc) []
    let ms := rs.foldl (fun m r => Nat.lor m r.2.2.2) 0
    let y := y.setTile (z + t)
      (if pos = 0 then ⟨el, false, 0, [], []⟩ else ⟨el, true, pos, fbPar fb, sums⟩)
    { y with mstat := y.mstat ||| BitVec.ofNat 32 ms }) x
  let t := aTiles sh fb
  let x' := { x' with busy := true, latch := if reuse then some (a * 8 + t) else none }
  if nb = 0 then x'
  else { x' with sa := x'.sa.drop 1, sb := x'.sb.drop 1,
                 fb := BitVec.ofNat 16 (fbTag fb + 1) ++ fb.extractLsb' 0 16 }

/-- An MMA (R189 to R194): field checks, B's alignment and window, poison, the checks of R192, then the product; the order of these faults
is no rule's (DESIGN CHOICE, log 106). -/
def mmaB (op z : Nat) (reuse : Bool) (a m : Nat) (tid : Nat) (s : State) : SAct :=
  withM tid s m fun x mb =>
    let sh := shapes op
    let t := aTiles sh x.fb
    let n := 64 * bRows sh x.fb * sh.n
    if a % t ≠ 0 then .fault (flt 1 4)
    else match strRange s tid mb n 64 true with
    | some f => .fault f
    | none =>
      if x.xpois.any fun p => decide (a ≤ p.1) && decide (p.1 < a + t) then .fault (flt 15 1)
      else if x.zpois.any fun p => decide (z ≤ p.1) && decide (p.1 < z + sh.c) then .fault (flt 15 0)
      else match mmaCheck x sh z with
      | .fault f => .fault f
      | .wait => .wait s .scales
      | .go p nb =>
        if x.busy then .wait s .matrix
        else
          let (nd, s) := strEvent s tid []
          let bb := strRead s tid mb n nd
          .done (modStr { s with fresh := s.fresh + 1 } tid fun x => mmaRun x sh z a p nb reuse bb)

/-! ### Accumulator operations (R195 to R197) -/

/-- Waits for the matrix unit (R198), then runs. -/
def onUnit (tid : Nat) (s : State) (k : SAct) : SAct := if (s.str tid).busy then .wait s .matrix else k

def zclrB (z m : Nat) (tid : Nat) (s : State) : SAct :=
  withM tid s m fun x n =>
    if n = 0 ∨ z + n > x.tiles then .fault (flt 1 4)
    else onUnit tid s (.done (modStr s tid fun x =>
      (List.range n).foldl (fun y i => y.setTile (z + i) ZTile.empty) x))

/-- Runs on tiles that must be closed (R195) and hold no poison. -/
def onClosed (x : Stream) (zs : List Nat) (k : SAct) : SAct :=
  if zs.any fun z => (x.tile z).opened then .fault (flt 10 4)
  else if zs.any fun z => x.zpois.any fun p => p.1 == z then .fault (flt 15 0)
  else k

/-- Every element of a tile replaced, with MSTAT bits. -/
def mapTile (x : Stream) (z : Nat) (f : Nat → Word → Word × Nat) : Stream :=
  let rs := (List.range 4096).map fun e => (e, f e (aget 0 e (x.tile z).el))
  let el := rs.foldr (fun r acc => if r.2.1 = 0 then acc else (r.1, r.2.1) :: acc) []
  let y := x.setTile z { x.tile z with el := el }
  { y with mstat := y.mstat ||| BitVec.ofNat 32 (rs.foldl (fun m r => Nat.lor m r.2.2) 0) }

/-- ZCVT operation 0: s32 to f32, scaled, one rounding (DEDUCED, log 93). -/
def zcvtF (e : Nat) (w : Word) : Word × Nat :=
  (BitVec.ofNat 32 (roundInt f32 0 false w.toInt ((e : Int) - 127) false).1, 0)

/-- ZCVT operation 1: f32 scaled to s32 with RNE and a clamp (DEDUCED, log 93). -/
def zcvtI (e : Nat) (w : Word) : Word × Nat :=
  match unpack f32 false w.toNat with
  | .nan _ => (0, 1)
  | .inf n => (BitVec.ofNat 32 (wrapT 0 (if n then minOf 0 else maxOf 0)), 1)
  | .fin n m ex =>
    let r := (toIntR 0 n m (ex + (e : Int) - 127)).1
    (BitVec.ofNat 32 (wrapT 0 (clampT 0 r)), if clampT 0 r ≠ r then 1 else 0)

/-- ZCVT; the faults of its operands come before that of an open block (DESIGN CHOICE, log 106). -/
def zcvtB (z m : Nat) (tid : Nat) (s : State) : SAct :=
  withM tid s m fun x v =>
    let e := bits v 8 8
    if bits v 0 2 > 1 ∨ bits v 2 6 ≠ 0 ∨ e = 0xFF ∨ bits v 16 16 ≠ 0 then .fault (flt 1 4)
    else onClosed x [z] (onUnit tid s (.done (modStr s tid fun x =>
      mapTile x z fun _ w => if bits v 0 2 = 0 then zcvtF e w else zcvtI e w)))

/-- The address word of ZST and ZLD (R196): a fault, or offset and format. -/
def zAddr (s : State) (tid : Nat) (x : Stream) (v : Nat) (rd : Bool) : Except FaultInfo (Nat × Nat) :=
  let off := bits v 0 19
  let f := bits v 19 2
  if bits v 21 11 ≠ 0 ∨ f = 3 ∨ (f ≠ 0 ∧ fbMode x.fb = 1) then .error (flt 1 4)
  else match strRange s tid off (4096 * if f = 0 then 4 else 2) 64 rd with
    | some e => .error e
    | none => .ok (off, f)

/-- The type code of SFMT 1 and 2. -/
def sfmtTy (f : Nat) : Nat := if f = 1 then 4 else 3

/-- ZST; the faults of its operands come before that of an open block (DESIGN CHOICE, log 106). -/
def zstB (z m : Nat) (tid : Nat) (s : State) : SAct :=
  withM tid s m fun x v =>
    match zAddr s tid x v false with
    | .error e => .fault e
    | .ok (off, f) => onClosed x [z]
      (let el (e : Nat) : Nat := (aget 0 e (x.tile z).el : Word).toNat
       let bs := (List.range 4096).flatMap fun e =>
         if f = 0 then natLe 4 (el e) else natLe 2 (narrowF32 (sfmtTy f) 0 false false (el e)).1
       let (n, s) := strEvent s tid []
       .done (lsWriteAs s (streamAgent tid) (s.streamPlace tid) tid off bs n))

/-- ZLD; the faults of its operands come before that of an open block (DESIGN CHOICE, log 106). -/
def zldB (z m : Nat) (tid : Nat) (s : State) : SAct :=
  withM tid s m fun x v =>
    match zAddr s tid x v true with
    | .error e => .fault e
    | .ok (off, f) =>
      if (x.tile z).opened then .fault (flt 10 4)
      else
        let w := if f = 0 then 4 else 2
        let (n, s) := strEvent s tid []
        let bs := strRead s tid off (4096 * w) n
        let val (e : Nat) : Nat :=
          let b := leNat ((bs.drop (w * e)).take w)
          if f = 0 then b else widenF32 (sfmtTy f) b
        .done (modStr { s with fresh := s.fresh + 1 } tid fun x => mapTile x z fun e _ => (BitVec.ofNat 32 (val e), 0))

/-- ZADD; the faults of its operands come before that of an open block (DESIGN CHOICE, log 106). -/
def zaddB (z m : Nat) (tid : Nat) (s : State) : SAct :=
  withM tid s m fun x src =>
    if src ≥ x.tiles then .fault (flt 1 4)
    else onClosed x [z, src] (onUnit tid s (.done (modStr s tid fun x =>
      mapTile x z fun e w =>
        let v : Word := aget 0 e (x.tile src).el
        if fbMode x.fb = 1 then
          let r := w.toInt + v.toInt
          (BitVec.ofNat 32 (wrapT 0 (clampT 0 r)), if clampT 0 r ≠ r then 1 else 0)
        else (BitVec.ofNat 32 (fAdd f32 0 false (unpack f32 false w.toNat) (unpack f32 false v.toNat)).1, 0))))

/-- ZSCL; the faults of its operands come before that of an open block (DESIGN CHOICE, log 106). -/
def zsclB (z m : Nat) (tid : Nat) (s : State) : SAct :=
  withM tid s m fun x v =>
    if v ≥ 0xFF then .fault (flt 1 4)
    else onClosed x [z] (onUnit tid s (.done (modStr s tid fun x =>
      mapTile x z fun _ w => (BitVec.ofNat 32 (fLdexp f32 0 false (unpack f32 false w.toNat) ((v : Int) - 127)).1, 0))))

end Sys2Proof.Machine
end

