-- ==== Sys2Proof/Machine/Uses.lean ====
section
/-! DEFINITION. What the forms of instruction words name: the registers, the types and the ranges of immediates that issue
checks (R39, R40, R48, R66, R70, R73). -/
set_option linter.all false
namespace Sys2Proof.Machine

/-- n v registers read, or written. -/
def rV (r : VReg) (n : Nat) : Use := ⟨0, r.toNat, n, true⟩
def wV (r : VReg) (n : Nat) : Use := ⟨0, r.toNat, n, false⟩
/-- n s registers read, or written. -/
def rS (k : SReg) (n : Nat) : Use := ⟨1, k.toNat, n, true⟩
def wS (k : SReg) (n : Nat) : Use := ⟨1, k.toNat, n, false⟩
/-- The pair s(2b):s(2b+1). -/
def rP (b : BitVec 3) : Use := ⟨1, 2 * b.toNat, 2, true⟩
def wP (b : BitVec 3) : Use := ⟨1, 2 * b.toNat, 2, false⟩

/-- The next register after one: UNPK's, a histogram's and ATCAS's further registers. -/
def Use.up (u : Use) (k : Nat) : Use := { u with num := u.num + k }

/-- The offset register of a form M access; 0xFF names none (R70). -/
def offV (k : VReg) : List Use := if k = 0xFF then [] else [rV k 1]

/-- d ← f(a, b), d ← f(a) under the type in force. -/
def dab (d a b : VReg) (ty : Nat) : List Use := [wV d (regsOf ty), rV a (regsOf ty), rV b (regsOf ty)]
def dabOld (d a b : VReg) (ty : Nat) : List Use := [rV d (regsOf ty), rV a (regsOf ty), rV b (regsOf ty)]
def da (d a : VReg) (ty : Nat) : List Use := [wV d (regsOf ty), rV a (regsOf ty)]
/-- Of a, issue checks the registers; the meaning checks the lanes that are read. -/
def daMove (d a : VReg) (ty : Nat) : List Use := [wV d (regsOf ty), wV a (regsOf ty)]
def ab (a b : VReg) (ty : Nat) : List Use := [rV a (regsOf ty), rV b (regsOf ty)]

/-- A global access: its base pair and offset register, and its data (R70). -/
def memU (k : VReg) (b : BitVec 3) (data : Nat → List Use) (ty : Nat) : List Use := data ty ++ rP b :: offV k

def ldData (d : VReg) (ty : Nat) : List Use := [wV d (regsOf ty)]
def stData (d : VReg) (ty : Nat) : List Use := [rV d (regsOf ty)]
/-- ATCAS reads the compare value and the swap value after it (R156). -/
def casData (d : VReg) (ty : Nat) : List Use := [rV d (regsOf ty), (rV d (regsOf ty)).up (regsOf ty)]

/-- UNPK's destination: two registers, or four under an 8-bit type (R131). -/
def unpkU (d a : VReg) (ty : Nat) : List Use := [wV d (if wBits ty = 8 then 4 else 2), rV a 1]
/-- PACK keeps half of d under an 8-bit type (R131). -/
def packU (d a b : VReg) (ty : Nat) : List Use := [if wBits ty = 8 then rV d 1 else wV d 1, rV a 1, rV b 1]
/-- A histogram pair (R132). -/
def histR (h : VReg) : List Use := [rV h 1, (rV h 1).up 1]
def histW (h : VReg) : List Use := [wV h 1, (wV h 1).up 1]

/-- The registers of a command block that every copy has (R170): those within the file; issue of the copy checks the range. -/
def blockU (a : SReg) : List Use := ((List.range 3).map fun i => (rS a 1).up i).filter fun u => u.num < 64

/-- Types of LD, ST, STN: every integer and floating type (R149). -/
def memTypes (ty : Nat) : Bool := ty < 12
/-- Types of LDX and STX (R150). -/
def extTypes (ty : Nat) : Bool := ty == 3 || ty == 4 || (8 ≤ ty && ty ≤ 13)
/-- Types of LDS, STS, LDP, STP (R151). -/
def lsTypes (ty : Nat) : Bool := ty < 12 || ty == 14
/-- Types of the atomics (R155): addition, minimum and maximum, logic, exchange. -/
def addTypes (ty : Nat) : Bool := ty == 0 || ty == 1 || ty == 2 || ty == 5 || ty == 6 || ty == 7
def minTypes (ty : Nat) : Bool := ty == 0 || ty == 1 || ty == 2 || ty == 6 || ty == 7
def logicTypes (ty : Nat) : Bool := ty == 0 || ty == 1 || ty == 6 || ty == 7
def xchTypes (ty : Nat) : Bool := ty == 0 || ty == 1 || ty == 2 || ty == 5 || ty == 6 || ty == 7
/-- IADDC (R117). -/
def carryTypes (ty : Nat) : Bool := ty < 2
/-- QCLR to DEQ (R132). -/
def quantTypes (ty : Nat) : Bool := ty == 2
/-- CVT's destinations (R129). -/
def cvtTypes (ty : Nat) : Bool := ty < 12

/-- With an immediate whose range is given. -/
def Info.withImm (i : Info) (imm : Imm) (ok : DWord → Bool) : Info := { i with imm := imm, immOk := ok }
/-- Without the guard (SEL, which reads it as an operand: R69). -/
def Info.bare (i : Info) : Info := { i with guarded := false }
/-- With further words. -/
def Info.plus (i : Info) (n : Nat) : Info := { i with extra := n }
/-- With an immediate that is 64 bits wide under some types (R66). -/
def Info.wideUnder (i : Info) (w : Nat → Bool) : Info := { i with wide := w }
/-- With types that depend on the immediate (R139). -/
def Info.typed (i : Info) (t : DWord → Nat → Bool) : Info := { i with types := t }

/-- An immediate below a bound. -/
def below (n : Nat) (v : DWord) : Bool := v.toNat < n
def anyImm (_ : DWord) : Bool := true

/-- The pair form of SMOVI: the literal is 64 bits wide (R23, R66, R78). -/
def radPair (r : RImm) : Bool := r.lit.isSome && r.imm == 1

/-- Whether the fragment about to issue holds a 64-bit literal. -/
def State.wideLit (s : State) : Bool :=
  match s.cur with
  | some (.frag gid fid) => (((s.grp gid).frag fid).lit.map (·.wide)).getD false
  | _ => false

/-- Tiles a stream has, for a matrix opcode that names tiles z to z + n − 1 (R54). -/
def tilesOk (z : BitVec 8) (n : Nat) (tiles : Nat) : Bool := z.toNat + n ≤ tiles
def noTiles (_ : Nat) : Bool := true

end Sys2Proof.Machine
end

