-- ==== Sys2Proof/Machine/ExecControl.lean ====
section
/-! DEFINITION. The control, synchronisation and system instructions (R84 to R112) and LIT (R66): each word of both encodings issues under its checks and has
the effect that its body gives. -/
set_option linter.all false
namespace Sys2Proof.Machine

/-- NOP (R84). -/
def execNop (s : State) : Host.Outcome State Fault Refusal :=
  issueBoth s (Info.plain 0x00 none true []) true (nopB) (strNopB)

/-- SETM (R84). -/
def execSetm (m : BitVec 13) (s : State) : Host.Outcome State Fault Refusal :=
  issue s (Info.plain 0x01 none true []) (setmB m)

/-- SETMS (R84). -/
def execSetms (k : SReg) (s : State) : Host.Outcome State Fault Refusal :=
  issue s (Info.plain 0x02 none true [rS k 1]) (setmsB k)

/-- GETM (R84). -/
def execGetm (k : SReg) (s : State) : Host.Outcome State Fault Refusal :=
  issue s (Info.plain 0x03 none true [wS k 1]) (getmB k)

/-- BRA (R85). -/
def execBra (h : BitVec 2) (off : BitVec 22) (s : State) : Host.Outcome State Fault Refusal :=
  issue s ((Info.plain 0x04 none true []).withImm (.val (off.signExtend 64)) anyImm) (braB)

/-- BRD (R86). -/
def execBrd (h : BitVec 2) (p : BitVec 3) (inv : Bool) (off : BitVec 18) (s : State) : Host.Outcome State Fault Refusal :=
  issue s ((Info.plain 0x05 none true []).withImm (.val (off.signExtend 64)) anyImm) (brdB p inv)

/-- BRX (R87). -/
def execBrx (h : BitVec 2) (v : VReg) (tbl : List (BitVec 32)) (s : State) : Host.Outcome State Fault Refusal :=
  issue s ((Info.plain 0x06 none (tblOk tbl.length) [rV v 1]).plus tbl.length) (brxB v (tbl.map fun o => o.signExtend 64))

/-- CALL (R88). -/
def execCallAddr (b : BitVec 3) (off : BitVec 21) (s : State) : Host.Outcome State Fault Refusal :=
  issue s ((Info.plain 0x07 none (b != 0) [wP b]).withImm (.val (off.signExtend 64)) anyImm) (callB b)

/-- RET (R88). -/
def execRet (b : BitVec 3) (s : State) : Host.Outcome State Fault Refusal :=
  issue s (Info.plain 0x08 none (b != 0) [rP b]) (retB b)

/-- MARK (R91). -/
def execMarkJoin (off : BitVec 22) (s : State) : Host.Outcome State Fault Refusal :=
  issue s ((Info.plain 0x09 none true []).withImm (.val (off.signExtend 64)) anyImm) (markB)

/-- JOIN (R91). -/
def execJoinFrags (s : State) : Host.Outcome State Fault Refusal :=
  issue s (Info.plain 0x0A none true []) (joinB)

/-- PPUSH (R92). -/
def execPpush (p : BitVec 3) (s : State) : Host.Outcome State Fault Refusal :=
  issue s (Info.plain 0x0B none true []) (ppushB p)

/-- PINV (R92). -/
def execPinv (s : State) : Host.Outcome State Fault Refusal :=
  issue s (Info.plain 0x0C none true []) (pinvB)

/-- PPOP (R92). -/
def execPpop (s : State) : Host.Outcome State Fault Refusal :=
  issue s (Info.plain 0x0D none true []) (ppopB)

/-- EMRD (R93). -/
def execEmrd (k : SReg) (s : State) : Host.Outcome State Fault Refusal :=
  issue s (Info.plain 0x0E none true [wS k 1]) (emrdB k)

/-- EMWR (R93). -/
def execEmwr (k : SReg) (s : State) : Host.Outcome State Fault Refusal :=
  issue s (Info.plain 0x0F none true [rS k 1]) (emwrB k)

/-- WAITC (R94). -/
def execWaitc (a : BitVec 6) (b : BitVec 6) (c : BitVec 4) (d : BitVec 4) (s : State) : Host.Outcome State Fault Refusal :=
  issue s (Info.plain 0x10 none true []) (waitcB a b c d)

/-- CBATCH (R95). -/
def execCbatch (s : State) : Host.Outcome State Fault Refusal :=
  issue s (Info.plain 0x11 none true []) (cbatchB)

/-- WAITB (R95). -/
def execWaitb (n : BitVec 16) (s : State) : Host.Outcome State Fault Refusal :=
  issue s (Info.plain 0x12 none true []) (waitbB n)

/-- BAR (R98). -/
def execBar (c : BitVec 2) (i : BitVec 4) (s : State) : Host.Outcome State Fault Refusal :=
  issueBoth s (Info.plain 0x13 none (barOk c i) []) (barOk c i) (barB c i) (strBarB c i)

/-- BARA (R98). -/
def execBara (c : BitVec 2) (i : BitVec 4) (s : State) : Host.Outcome State Fault Refusal :=
  issue s (Info.plain 0x14 none (barOk c i) []) (baraB c i)

/-- BARW (R98). -/
def execBarw (c : BitVec 2) (i : BitVec 4) (s : State) : Host.Outcome State Fault Refusal :=
  issue s (Info.plain 0x15 none (barOk c i) []) (barwB c i)

/-- DRAIN (R98). -/
def execDrain (c : BitVec 2) (i : BitVec 4) (s : State) : Host.Outcome State Fault Refusal :=
  issue s (Info.plain 0x16 none (barOk c i) []) (drainB c i)

/-- EQP (R101). -/
def execEqp (n : BitVec 16) (s : State) : Host.Outcome State Fault Refusal :=
  issue s (Info.plain 0x17 none (n != 0xFFFF) []) (eqpB n)

/-- MIGR (R102). -/
def execMigrTeam (cls : Bool) (n : BitVec 16) (s : State) : Host.Outcome State Fault Refusal :=
  issue s (Info.plain 0x18 none (n != 0xFFFF) []) (migrB cls n)

/-- ROLESW (R105). -/
def execRolesw (i : BitVec 3) (s : State) : Host.Outcome State Fault Refusal :=
  issue s (Info.plain 0x19 none true []) (roleswB i)

/-- YIELD (R96). -/
def execYieldIssue (s : State) : Host.Outcome State Fault Refusal :=
  issue s (Info.plain 0x1A none true []) (yieldB)

/-- EXIT (R106). -/
def execExitFrag (s : State) : Host.Outcome State Fault Refusal :=
  issueBoth s (Info.plain 0x1B none true []) true (exitB) (strExitB)

/-- TRAP (R109). -/
def execTrapCode (c : BitVec 16) (s : State) : Host.Outcome State Fault Refusal :=
  issue s (Info.plain 0x1C none true []) (trapB c)

/-- XRET (R110). -/
def execXret (skip : Bool) (s : State) : Host.Outcome State Fault Refusal :=
  issue s (Info.plain 0x1D none true []) (xretB skip)

/-- XRD (R111). -/
def execXrd (k : SReg) (i : BitVec 8) (s : State) : Host.Outcome State Fault Refusal :=
  issue s (Info.plain 0x1E none (trapIndex i.toNat) [wS k 1]) (xrdB k i)

/-- XWR (R111). -/
def execXwr (k : SReg) (i : BitVec 8) (s : State) : Host.Outcome State Fault Refusal :=
  issue s (Info.plain 0x1F none (trapIndex i.toNat) [rS k 1]) (xwrB k i)

/-- SREAD (R112). -/
def execSread (k : SReg) (i : BitVec 8) (s : State) : Host.Outcome State Fault Refusal :=
  issue s (Info.plain 0x20 none (specialIndex i.toNat k.toNat) [wS k (if sreadWide i.toNat then 2 else 1)]) (sreadB k i)

/-- LAUNCH (R107). -/
def execLaunchQueue (b : BitVec 3) (s : State) : Host.Outcome State Fault Refusal :=
  issue s (Info.plain 0x21 none true [rP b]) (launchB b)

/-- IFENCE (R108). -/
def execIfence (s : State) : Host.Outcome State Fault Refusal :=
  issue s (Info.plain 0x22 none true []) (ifenceB)

/-- CPREF (R90). -/
def execCpref (l : BitVec 2) (off : BitVec 22) (s : State) : Host.Outcome State Fault Refusal :=
  issue s ((Info.plain 0x23 none true []).withImm (.val (off.signExtend 64)) anyImm) (cprefB)

/-- SNOOZE (R96). -/
def execSnooze (n : BitVec 16) (s : State) : Host.Outcome State Fault Refusal :=
  issue s (Info.plain 0x24 none true []) (snoozeB n)

/-- LOOP (R89). -/
def execLoopCount (k : SReg) (off : BitVec 18) (s : State) : Host.Outcome State Fault Refusal :=
  issue s ((Info.plain 0x25 none true [rS k 1]).withImm (.val (off.signExtend 64)) anyImm) (loopB k)

/-- LIT (R66). -/
def execLit (wide : Bool) (v : BitVec 64) (s : State) : Host.Outcome State Fault Refusal :=
  issueBoth s (Info.plain 0xFF none (litOk wide v) []) true (litB wide v) (fun _ _ => .fault (flt 1 3))

/-- NOP RADISH (R84). -/
def execNopRadish (w : BitVec 13) (s : State) : Host.Outcome State Fault Refusal :=
  issue s (Info.plain 0x00 (some w) true []) (nopB)

/-- GETM RADISH (R84). -/
def execGetmRadish (w : BitVec 13) (k : SReg) (s : State) : Host.Outcome State Fault Refusal :=
  issue s (Info.plain 0x03 (some w) true [wS k 1]) (getmB k)

/-- BRA RADISH (R85). -/
def execBraRadish (w : BitVec 13) (h : BitVec 2) (off : RImm) (s : State) : Host.Outcome State Fault Refusal :=
  issue s ((Info.plain 0x04 (some w) (rimmOk off) []).withImm (.rad off) anyImm) (braB)

/-- BRD RADISH (R86). -/
def execBrdRadish (w : BitVec 13) (h : BitVec 2) (p : BitVec 3) (inv : Bool) (off : RImm) (s : State) : Host.Outcome State Fault Refusal :=
  issue s ((Info.plain 0x05 (some w) (rimmOk off) []).withImm (.rad off) anyImm) (brdB p inv)

/-- BRX RADISH (R87). -/
def execBrxRadish (w : BitVec 13) (h : BitVec 2) (v : VReg) (tbl : List (BitVec 64)) (s : State) : Host.Outcome State Fault Refusal :=
  issue s ((Info.plain 0x06 (some w) (tblOk tbl.length) [rV v 1]).plus tbl.length) (brxB v tbl)

/-- CALL RADISH (R88). -/
def execCallAddrRadish (w : BitVec 13) (b : BitVec 3) (off : RImm) (s : State) : Host.Outcome State Fault Refusal :=
  issue s ((Info.plain 0x07 (some w) (b != 0 && rimmOk off) [wP b]).withImm (.rad off) anyImm) (callB b)

/-- RET RADISH (R88). -/
def execRetRadish (w : BitVec 13) (b : BitVec 3) (s : State) : Host.Outcome State Fault Refusal :=
  issue s (Info.plain 0x08 (some w) (b != 0) [rP b]) (retB b)

/-- MARK RADISH (R91). -/
def execMarkJoinRadish (w : BitVec 13) (off : RImm) (s : State) : Host.Outcome State Fault Refusal :=
  issue s ((Info.plain 0x09 (some w) (rimmOk off) []).withImm (.rad off) anyImm) (markB)

/-- JOIN RADISH (R91). -/
def execJoinFragsRadish (w : BitVec 13) (s : State) : Host.Outcome State Fault Refusal :=
  issue s (Info.plain 0x0A (some w) true []) (joinB)

/-- PPUSH RADISH (R92). -/
def execPpushRadish (w : BitVec 13) (p : BitVec 3) (s : State) : Host.Outcome State Fault Refusal :=
  issue s (Info.plain 0x0B (some w) true []) (ppushB p)

/-- PINV RADISH (R92). -/
def execPinvRadish (w : BitVec 13) (s : State) : Host.Outcome State Fault Refusal :=
  issue s (Info.plain 0x0C (some w) true []) (pinvB)

/-- PPOP RADISH (R92). -/
def execPpopRadish (w : BitVec 13) (s : State) : Host.Outcome State Fault Refusal :=
  issue s (Info.plain 0x0D (some w) true []) (ppopB)

/-- EMRD RADISH (R93). -/
def execEmrdRadish (w : BitVec 13) (k : SReg) (s : State) : Host.Outcome State Fault Refusal :=
  issue s (Info.plain 0x0E (some w) true [wS k 1]) (emrdB k)

/-- EMWR RADISH (R93). -/
def execEmwrRadish (w : BitVec 13) (k : SReg) (s : State) : Host.Outcome State Fault Refusal :=
  issue s (Info.plain 0x0F (some w) true [rS k 1]) (emwrB k)

/-- WAITC RADISH (R94). -/
def execWaitcRadish (w : BitVec 13) (a : BitVec 6) (b : BitVec 6) (c : BitVec 4) (d : BitVec 4) (s : State) : Host.Outcome State Fault Refusal :=
  issue s (Info.plain 0x10 (some w) true []) (waitcB a b c d)

/-- CBATCH RADISH (R95). -/
def execCbatchRadish (w : BitVec 13) (s : State) : Host.Outcome State Fault Refusal :=
  issue s (Info.plain 0x11 (some w) true []) (cbatchB)

/-- WAITB RADISH (R95). -/
def execWaitbRadish (w : BitVec 13) (n : BitVec 16) (s : State) : Host.Outcome State Fault Refusal :=
  issue s (Info.plain 0x12 (some w) true []) (waitbB n)

/-- BAR RADISH (R98). -/
def execBarRadish (w : BitVec 13) (c : BitVec 2) (i : BitVec 4) (s : State) : Host.Outcome State Fault Refusal :=
  issue s (Info.plain 0x13 (some w) (barOk c i) []) (barB c i)

/-- BARA RADISH (R98). -/
def execBaraRadish (w : BitVec 13) (c : BitVec 2) (i : BitVec 4) (s : State) : Host.Outcome State Fault Refusal :=
  issue s (Info.plain 0x14 (some w) (barOk c i) []) (baraB c i)

/-- BARW RADISH (R98). -/
def execBarwRadish (w : BitVec 13) (c : BitVec 2) (i : BitVec 4) (s : State) : Host.Outcome State Fault Refusal :=
  issue s (Info.plain 0x15 (some w) (barOk c i) []) (barwB c i)

/-- DRAIN RADISH (R98). -/
def execDrainRadish (w : BitVec 13) (c : BitVec 2) (i : BitVec 4) (s : State) : Host.Outcome State Fault Refusal :=
  issue s (Info.plain 0x16 (some w) (barOk c i) []) (drainB c i)

/-- EQP RADISH (R101). -/
def execEqpRadish (w : BitVec 13) (n : BitVec 16) (s : State) : Host.Outcome State Fault Refusal :=
  issue s (Info.plain 0x17 (some w) (n != 0xFFFF) []) (eqpB n)

/-- MIGR RADISH (R102). -/
def execMigrTeamRadish (w : BitVec 13) (cls : Bool) (n : BitVec 16) (s : State) : Host.Outcome State Fault Refusal :=
  issue s (Info.plain 0x18 (some w) (n != 0xFFFF) []) (migrB cls n)

/-- ROLESW RADISH (R105). -/
def execRoleswRadish (w : BitVec 13) (i : BitVec 3) (s : State) : Host.Outcome State Fault Refusal :=
  issue s (Info.plain 0x19 (some w) true []) (roleswB i)

/-- YIELD RADISH (R96). -/
def execYieldIssueRadish (w : BitVec 13) (s : State) : Host.Outcome State Fault Refusal :=
  issue s (Info.plain 0x1A (some w) true []) (yieldB)

/-- EXIT RADISH (R106). -/
def execExitFragRadish (w : BitVec 13) (s : State) : Host.Outcome State Fault Refusal :=
  issue s (Info.plain 0x1B (some w) true []) (exitB)

/-- TRAP RADISH (R109). -/
def execTrapCodeRadish (w : BitVec 13) (c : BitVec 16) (s : State) : Host.Outcome State Fault Refusal :=
  issue s (Info.plain 0x1C (some w) true []) (trapB c)

/-- XRET RADISH (R110). -/
def execXretRadish (w : BitVec 13) (skip : Bool) (s : State) : Host.Outcome State Fault Refusal :=
  issue s (Info.plain 0x1D (some w) true []) (xretB skip)

/-- XRD RADISH (R111). -/
def execXrdRadish (w : BitVec 13) (k : SReg) (i : BitVec 8) (s : State) : Host.Outcome State Fault Refusal :=
  issue s (Info.plain 0x1E (some w) (trapIndex i.toNat) [wS k 1]) (xrdB k i)

/-- XWR RADISH (R111). -/
def execXwrRadish (w : BitVec 13) (k : SReg) (i : BitVec 8) (s : State) : Host.Outcome State Fault Refusal :=
  issue s (Info.plain 0x1F (some w) (trapIndex i.toNat) [rS k 1]) (xwrB k i)

/-- SREAD RADISH (R112). -/
def execSreadRadish (w : BitVec 13) (k : SReg) (i : BitVec 8) (s : State) : Host.Outcome State Fault Refusal :=
  issue s (Info.plain 0x20 (some w) (specialIndex i.toNat k.toNat) [wS k (if sreadWide i.toNat then 2 else 1)]) (sreadB k i)

/-- LAUNCH RADISH (R107). -/
def execLaunchQueueRadish (w : BitVec 13) (b : BitVec 3) (s : State) : Host.Outcome State Fault Refusal :=
  issue s (Info.plain 0x21 (some w) true [rP b]) (launchB b)

/-- IFENCE RADISH (R108). -/
def execIfenceRadish (w : BitVec 13) (s : State) : Host.Outcome State Fault Refusal :=
  issue s (Info.plain 0x22 (some w) true []) (ifenceB)

/-- CPREF RADISH (R90). -/
def execCprefRadish (w : BitVec 13) (l : BitVec 2) (off : RImm) (s : State) : Host.Outcome State Fault Refusal :=
  issue s ((Info.plain 0x23 (some w) (rimmOk off) []).withImm (.rad off) anyImm) (cprefB)

/-- SNOOZE RADISH (R96). -/
def execSnoozeRadish (w : BitVec 13) (n : BitVec 16) (s : State) : Host.Outcome State Fault Refusal :=
  issue s (Info.plain 0x24 (some w) true []) (snoozeB n)

/-- LOOP RADISH (R89). -/
def execLoopCountRadish (w : BitVec 13) (k : SReg) (off : RImm) (s : State) : Host.Outcome State Fault Refusal :=
  issue s ((Info.plain 0x25 (some w) (rimmOk off) [rS k 1]).withImm (.rad off) anyImm) (loopB k)

end Sys2Proof.Machine
end

