-- ==== Sys2Proof/Machine/ExecCross.lean ====
section
/-! DEFINITION. The cross-lane instructions (R136 to R141): each word of both encodings issues under its checks and has
the effect that its body gives. -/
set_option linter.all false
namespace Sys2Proof.Machine

/-- SHFL (R137). The lane index b is one register of 32 bits under every type, odd or even (DESIGN CHOICE, log 110). -/
def execShfl (d : VReg) (a : VReg) (b : VReg) (s : State) : Host.Outcome State Fault Refusal :=
  issue s (Info.vec 0x90 none true (fun ty => daMove d a ty ++ [rV b 1]) crossTypes) (shflB d.toNat a.toNat b.toNat)

/-- SHFLU (R137). -/
def execShflu (d : VReg) (a : VReg) (i : BitVec 8) (s : State) : Host.Outcome State Fault Refusal :=
  issue s ((Info.vec 0x91 none true (daMove d a) crossTypes).withImm (.byte i) (below 32)) (shfluB d.toNat a.toNat)

/-- SHFLD (R137). -/
def execShfld (d : VReg) (a : VReg) (i : BitVec 8) (s : State) : Host.Outcome State Fault Refusal :=
  issue s ((Info.vec 0x92 none true (daMove d a) crossTypes).withImm (.byte i) (below 32)) (shfldB d.toNat a.toNat)

/-- SHFLX (R137). -/
def execShflx (d : VReg) (a : VReg) (i : BitVec 8) (s : State) : Host.Outcome State Fault Refusal :=
  issue s ((Info.vec 0x93 none true (daMove d a) crossTypes).withImm (.byte i) (below 32)) (shflxB d.toNat a.toNat)

/-- VOTE (R138). -/
def execVote (d : SReg) (p : BitVec 3) (i : BitVec 8) (s : State) : Host.Outcome State Fault Refusal :=
  issue s ((Info.vec 0x94 none true (fun _ => [wS d 1]) (fun _ => true)).withImm (.byte i) (below 3)) (voteB d p)

/-- REDU (R139). -/
def execRedu (d : VReg) (a : VReg) (i : BitVec 8) (s : State) : Host.Outcome State Fault Refusal :=
  issue s (((Info.vec 0x95 none true (da d a) crossTypes).withImm (.byte i) (below 7)).typed redTypes) (reduB d.toNat a.toNat)

/-- SCAN (R140). -/
def execScanLanes (d : VReg) (a : VReg) (i : BitVec 8) (s : State) : Host.Outcome State Fault Refusal :=
  issue s (((Info.vec 0x96 none true (da d a) crossTypes).withImm (.byte i) (below 7)).typed redTypes) (scanB d.toNat a.toNat)

/-- MATCH (R141). -/
def execMatchLanes (d : VReg) (a : VReg) (s : State) : Host.Outcome State Fault Refusal :=
  issue s (Info.vec 0x97 none true (fun ty => [wV d 1, rV a (regsOf ty)]) crossTypes) (matchB d.toNat a.toNat)

/-- BCAST (R137). -/
def execBcast (d : VReg) (a : VReg) (i : BitVec 8) (s : State) : Host.Outcome State Fault Refusal :=
  issue s ((Info.vec 0x98 none true (daMove d a) crossTypes).withImm (.byte i) (below 32)) (bcastB d.toNat a.toNat)

/-- FIRST (R137). -/
def execFirstLane (d : VReg) (a : VReg) (s : State) : Host.Outcome State Fault Refusal :=
  issue s (Info.vec 0x99 none true (daMove d a) crossTypes) (firstB d.toNat a.toNat)

/-- SHFL RADISH (R137), with its lane index as in SHFL (DESIGN CHOICE, log 110). -/
def execShflRadish (w : BitVec 13) (d : VReg) (a : VReg) (b : VReg) (s : State) : Host.Outcome State Fault Refusal :=
  issue s (Info.vec 0x90 (some w) true (fun ty => daMove d a ty ++ [rV b 1]) crossTypes) (shflB d.toNat a.toNat b.toNat)

/-- SHFLU RADISH (R137). -/
def execShfluRadish (w : BitVec 13) (d : VReg) (a : VReg) (i : RImm) (s : State) : Host.Outcome State Fault Refusal :=
  issue s ((Info.vec 0x91 (some w) (rimmOk i) (daMove d a) crossTypes).withImm (.rad i) (below 32)) (shfluB d.toNat a.toNat)

/-- SHFLD RADISH (R137). -/
def execShfldRadish (w : BitVec 13) (d : VReg) (a : VReg) (i : RImm) (s : State) : Host.Outcome State Fault Refusal :=
  issue s ((Info.vec 0x92 (some w) (rimmOk i) (daMove d a) crossTypes).withImm (.rad i) (below 32)) (shfldB d.toNat a.toNat)

/-- SHFLX RADISH (R137). -/
def execShflxRadish (w : BitVec 13) (d : VReg) (a : VReg) (i : RImm) (s : State) : Host.Outcome State Fault Refusal :=
  issue s ((Info.vec 0x93 (some w) (rimmOk i) (daMove d a) crossTypes).withImm (.rad i) (below 32)) (shflxB d.toNat a.toNat)

/-- VOTE RADISH (R138). -/
def execVoteRadish (w : BitVec 13) (d : SReg) (p : BitVec 3) (i : RImm) (s : State) : Host.Outcome State Fault Refusal :=
  issue s ((Info.vec 0x94 (some w) (rimmOk i) (fun _ => [wS d 1]) (fun _ => true)).withImm (.rad i) (below 3)) (voteB d p)

/-- REDU RADISH (R139). -/
def execReduRadish (w : BitVec 13) (d : VReg) (a : VReg) (i : RImm) (s : State) : Host.Outcome State Fault Refusal :=
  issue s (((Info.vec 0x95 (some w) (rimmOk i) (da d a) crossTypes).withImm (.rad i) (below 7)).typed redTypes) (reduB d.toNat a.toNat)

/-- SCAN RADISH (R140). -/
def execScanLanesRadish (w : BitVec 13) (d : VReg) (a : VReg) (i : RImm) (s : State) : Host.Outcome State Fault Refusal :=
  issue s (((Info.vec 0x96 (some w) (rimmOk i) (da d a) crossTypes).withImm (.rad i) (below 7)).typed redTypes) (scanB d.toNat a.toNat)

/-- MATCH RADISH (R141). -/
def execMatchLanesRadish (w : BitVec 13) (d : VReg) (a : VReg) (s : State) : Host.Outcome State Fault Refusal :=
  issue s (Info.vec 0x97 (some w) true (fun ty => [wV d 1, rV a (regsOf ty)]) crossTypes) (matchB d.toNat a.toNat)

/-- BCAST RADISH (R137). -/
def execBcastRadish (w : BitVec 13) (d : VReg) (a : VReg) (i : RImm) (s : State) : Host.Outcome State Fault Refusal :=
  issue s ((Info.vec 0x98 (some w) (rimmOk i) (daMove d a) crossTypes).withImm (.rad i) (below 32)) (bcastB d.toNat a.toNat)

/-- FIRST RADISH (R137). -/
def execFirstLaneRadish (w : BitVec 13) (d : VReg) (a : VReg) (s : State) : Host.Outcome State Fault Refusal :=
  issue s (Info.vec 0x99 (some w) true (daMove d a) crossTypes) (firstB d.toNat a.toNat)

end Sys2Proof.Machine
end

