-- ==== Sys2Proof/Machine/Elf.lean ====
section
/-! DEFINITION. The ELF64 file of a Jallas bundle (R33, R342): its sections, and the kernels and the control program in them. -/
set_option linter.all false
namespace Sys2Proof.Machine

/-- A section: its name, type, flags, address, alignment, size, and its bytes in the file. -/
structure Section where
  name : List Byte
  type : Nat
  flags : Nat
  addr : Nat
  align : Nat
  size : Nat
  bytes : List Byte
  deriving DecidableEq, Repr

def nameBytes (t : String) : List Byte := t.toList.map fun c => BitVec.ofNat 8 c.toNat

/-! ### Reading -/

/-- A section header's field of 4 or 8 bytes. -/
def shField (f : List Byte) (i off n : Nat) : Nat := field f (field f 40 8 + 64 * i + off) n

/-- Bytes of the file that a section covers: none of a section of type 0 or 8. -/
def shBytes (f : List Byte) (i : Nat) : List Byte :=
  if shField f i 4 4 = 0 ∨ shField f i 4 4 = 8 then [] else (f.drop (shField f i 24 8)).take (shField f i 32 8)

/-- A section's bytes lie in the file. -/
def shOk (f : List Byte) (i : Nat) : Bool :=
  shField f i 4 4 == 0 || shField f i 4 4 == 8 || shField f i 24 8 + shField f i 32 8 ≤ f.length

/-- The header of an ELF64 little-endian file for RISC-V, and a section table with a string section that lie in the file (R342). -/
def elfHeader (f : List Byte) : Bool :=
  64 ≤ f.length && f.take 7 == [0x7F, 0x45, 0x4C, 0x46, 2, 1, 1] && field f 18 2 == 243 && field f 20 4 == 1 && field f 52 2 == 64 &&
    field f 58 2 == 64 && field f 40 8 + 64 * field f 60 2 ≤ f.length && field f 62 2 < field f 60 2 &&
    shField f (field f 62 2) 4 4 == 3 && (List.range (field f 60 2)).all (shOk f)

/-- The section of a number; none where its name does not end in the string section. -/
def elfSection (f : List Byte) (i : Nat) : Option Section :=
  let n := (shBytes f (field f 62 2)).drop (shField f i 0 4)
  if n.contains 0 then
    some ⟨n.takeWhile (· != 0), shField f i 4 4, shField f i 8 8, shField f i 16 8, shField f i 48 8, shField f i 32 8, shBytes f i⟩
  else none

/-- The sections of a file, in the order of its table. -/
def elfSections (f : List Byte) : Option (List Section) :=
  if elfHeader f then
    let l := (List.range (field f 60 2)).map (elfSection f)
    if l.any (·.isNone) then none else some (l.filterMap id)
  else none

/-! ### Kernels (R33, R104, R342) -/

/-- The sections of a stem, with the kernel's name. -/
def ofStem (stem : String) (l : List Section) : List (List Byte × Section) :=
  let p := nameBytes stem ++ [0x2E]
  l.filterMap fun x => if x.name.take p.length == p then some (x.name.drop p.length, x) else none

def stems : List String := [".geari.marrow", ".geari.radish", ".geari.eqmap", ".geari.launch", ".geari.errata"]

/-- A table of .geari.eqmap at an offset; none where it passes the end. -/
def tableAt (b : List Byte) (off : Nat) : Option (List Byte) :=
  let n := 48 + 4 * field b (off + 6) 2
  if off + 48 ≤ b.length ∧ off + n ≤ b.length then some ((b.drop off).take n) else none

/-- The points of .geari.eqmap: as many records as stand before the first record's Marrow-to-Radish table (DEDUCED, log 101). -/
def readPoints (b : List Byte) : Option (List EqPoint) :=
  let n := field b 24 4 / 32
  if b.isEmpty then some []
  else if b.length < 32 ∨ field b 24 4 % 32 ≠ 0 ∨ n = 0 ∨ b.length < 32 * n then none
  else
    let l := (List.range n).map fun i =>
      let r := (b.drop (32 * i)).take 32
      match tableAt b (field r 24 4), tableAt b (field r 28 4) with
      | some x, some y => some (⟨field r 0 2, field r 2 1, field r 3 5, field r 8 8, field r 16 8, x, y⟩ : EqPoint)
      | _, _ => none
    if l.any (·.isNone) then none else some (l.filterMap id)

/-- A section is aligned as its rule asks. -/
def Section.aligned (x : Section) (n : Nat) : Bool := x.align != 0 && x.align % n == 0 && x.addr % n == 0

/-- A kernel of the name and launch record given; its code lies at the addresses of its sections. None where a section is missing,
doubled, not aligned, or not of whole words. -/
def kernelOf (l : List Section) (k : List Byte × Section) : Option BundleKernel :=
  let get (stem : String) : List Section := ((ofStem stem l).filter fun x => x.1 == k.1).map (·.2)
  let all4 := stems.all fun t => (get t).length ≤ 1
  match get ".geari.marrow", get ".geari.errata", readPoints (((get ".geari.eqmap").head?.map (·.bytes)).getD []) with
  | m :: _, e :: _, some ps =>
    let r := (get ".geari.radish").head?
    if all4 && m.aligned 4096 && r.all (·.aligned 4096) && k.2.aligned 256 && k.1.length ≤ 31 && k.2.bytes.length == 256 &&
        m.bytes.length % 4 == 0 && r.all (fun x => x.bytes.length % 8 == 0) && 8 ≤ e.bytes.length &&
        e.bytes.length == 8 + 4 * field e.bytes 4 4 then
      some ⟨k.1, k.2.bytes, ps, e.bytes, m.bytes, (r.map (·.bytes)).getD [], m.addr, (r.map (·.addr)).getD 0⟩
    else none
  | _, _, _ => none

/-- The kernels of a bundle, in the order of their launch records, which is that of the .kernel directives; at most 64, each section of a
kernel being one of theirs (R33, R342) (DEDUCED, log 88). -/
def kernelsIn (l : List Section) : Option (List BundleKernel) :=
  let ks := ofStem ".geari.launch" l
  let own := stems.all fun t => (ofStem t l).all fun x => ks.any fun k => k.1 == x.1
  let r := ks.map (kernelOf l)
  if 64 < ks.length || !own || r.any (·.isNone) then none else some (r.filterMap id)

/-- What the resident OS puts in memory: the address, the leaf attributes (R296), the bytes. -/
structure Loaded where
  addr : Nat
  attr : Nat
  bytes : List Byte
  deriving DecidableEq, Repr

/-- The leaf of a page of code: R, X and U, committed. -/
def codeAttr : Nat := 0x80D0

/-- The control program: the sections that take memory and are none of a kernel's, with R and U, and W and X as their flags say
(R33, R342) (DESIGN CHOICE, log 113). -/
def controlProgram (l : List Section) : List Loaded :=
  (l.filter fun x => x.flags / 2 % 2 == 1 && x.name.take 7 != nameBytes ".geari.").map fun x =>
    ⟨x.addr, 0x8090 + x.flags % 2 * 0x20 + x.flags / 4 % 2 * 0x40, if x.type = 8 then List.replicate x.size 0 else x.bytes⟩

/-- What a bundle's file holds: its kernels and its control program; none where its structure is not that of a bundle. -/
def readBundle (f : List Byte) : Option (List BundleKernel × List Loaded) :=
  match elfSections f with
  | none => none
  | some l => (kernelsIn l).map fun ks => (ks, controlProgram l)

/-! ### Writing -/

/-- The string section of some names, and where each stands in it. -/
def strTable (ns : List (List Byte)) : List Byte × List Nat :=
  ns.foldl (fun (r : List Byte × List Nat) n => (r.1 ++ n ++ [0], r.2 ++ [r.1.length])) ([0], [])

/-- A file of some sections, which come after the empty one and before the string section. -/
def elfFile (l : List Section) : List Byte :=
  let tab := strTable (l.map (·.name) ++ [nameBytes ".shstrtab"])
  let body := l.foldl (fun (r : List Byte × List Nat) x => (r.1 ++ x.bytes, r.2 ++ [64 + r.1.length])) ([], [])
  let at_ := 64 + body.1.length
  let hdr (name type flags addr off size align : Nat) : List Byte :=
    natLe 4 name ++ natLe 4 type ++ natLe 8 flags ++ natLe 8 addr ++ natLe 8 off ++ natLe 8 size ++ natLe 8 0 ++ natLe 8 align ++ natLe 8 0
  [0x7F, 0x45, 0x4C, 0x46, 2, 1, 1] ++ List.replicate 9 0 ++ natLe 2 2 ++ natLe 2 243 ++ natLe 4 1 ++ natLe 8 0 ++ natLe 8 0 ++
    natLe 8 (at_ + tab.1.length) ++ natLe 4 0 ++ natLe 2 64 ++ natLe 2 0 ++ natLe 2 0 ++ natLe 2 64 ++ natLe 2 (l.length + 2) ++
    natLe 2 (l.length + 1) ++ body.1 ++ tab.1 ++ List.replicate 64 0 ++
    (((l.zip tab.2).zip body.2).flatMap fun x => hdr x.1.2 x.1.1.type x.1.1.flags x.1.1.addr x.2 x.1.1.size x.1.1.align) ++
    hdr (tab.2.getLastD 0) 3 0 0 at_ tab.1.length 1

end Sys2Proof.Machine
end

