-- ==== Sys2Proof/Machine/Bundle.lean ====
section
/-! DEFINITION. Shallot's part of isolation (R305 to R307) and its reports, and the loading of a Jallas bundle (R33, R104,
R342 to R344). -/
set_option linter.all false
namespace Sys2Proof.Machine

/-! ### Keys and frames (R305) -/

/-- A frame whose contents no rule gives: its bytes are free values (assumption 4). -/
def freeFrame (s : State) (f : Nat) : State :=
  let s := zeroFrame s f
  let bs : List Byte := (List.range 65536).map fun i => BitVec.ofNat 8 (Config.free s.fresh 4 i)
  { s with mem := mwrite s.mem (devKey s.self (f * 65536)) bs, fresh := s.fresh + 1 }

/-- A new key: what was written under the old one in its frames is not readable any more (DEDUCED, log 87). -/
def newKey (s : State) (k : Nat) : State :=
  let fs := (s.shallot.owner.filter fun p => p.2 == k).map (·.1)
  let s := fs.foldl freeFrame s
  { s with shallot := { s.shallot with gens := aput k (aget 0 k s.shallot.gens + 1) s.shallot.gens } }

/-- A key id serves an address space; before it serves another the key is replaced (DEDUCED, log 87). -/
def giveKey (s : State) (k asid : Nat) : State :=
  let s := match afind k s.shallot.keys with
    | some a => if a = asid then s else newKey s k
    | none => newKey s k
  { s with shallot := { s.shallot with keys := aput k asid s.shallot.keys } }

/-- A frame comes to a key: zero-filled on its return to key 0; under another key than before, its contents are free. -/
def assignFrame (k : Nat) (s : State) (f : Nat) : State :=
  let old := aget 0 f s.shallot.owner
  if old = k then s
  else
    let s := if k = 0 then zeroFrame s f else freeFrame s f
    { s with shallot := { s.shallot with owner := aset 0 f k s.shallot.owner } }

/-- SHALLOT_REQUEST. -/
def shallotRequest (s : State) (r : ShallotReq) : State :=
  match r with
  | .newKey k => if 1 ≤ k ∧ k ≤ 63 then newKey s k else s
  | .giveKey k a => if 1 ≤ k ∧ k ≤ 63 ∧ a < 256 then giveKey s k a else s
  | .assign fs k => if k ≤ 63 then (fs.filter fun f => f * 65536 < memLimit).foldl (assignFrame k) s else s
  | .confidential a on => if a < 256 then s.setAsid a { s.asid a with conf := on } else s

/-- SPDM_REQUEST: the answer holds the nonce, the measurements and the count of refused accesses (R306, R307, R340)
(DESIGN CHOICE, log 84). -/
def spdmRequest (s : State) (nonce : Nat) : State :=
  { s with shallot := { s.shallot with spdm := s.shallot.spdm ++ [(nonce, s.shallot.measured, s.shallot.refused)] } }

/-! ### The checks of a bundle (R104, R274, R343, R344) -/

/-- The architecture level of the device (R331, R341). -/
def deviceLevel : Nat := 1

/-- A value entry's check: the destination within the allotment, slots within g, zero bits, even pairs. -/
def entryOk (allot slots e : Nat) : Bool :=
  let pair := bits e 0 1 == 1
  let n := if pair then 2 else 1
  let src := bits e 20 11
  let dst := bits e 8 11
  let sSlot := bits e 31 1 == 1
  let dSlot := bits e 19 1 == 1
  bits e 1 7 == 0 && (if dSlot then dst + n ≤ slots else dst + n ≤ allot && (!pair || dst % 2 == 0)) &&
    (if sSlot then src + n ≤ slots else src + n ≤ 256 && (!pair || src % 2 == 0))

/-- A state-mapping table's check, for a role of an allotment at the destination and a team of some groups. -/
def tableOk (t : List Byte) (allot groups : Nat) : Bool :=
  t.length == 48 + 4 * tabCount t && modeLegal (tabMode t) && tabDepth t ≤ 8 && field t 14 2 == 0 && tabBase t % 128 == 0 &&
    (tabSlots t == 0 || tabBase t + 128 * (groups * tabSlots t) ≤ 262144) &&
    (List.range (tabCount t)).all fun i => entryOk allot (tabSlots t) (tabEntry t i)

/-- The first point of a kernel whose record or tables do not pass. -/
def badPoint (l : Launch) (ps : List EqPoint) : Option EqPoint :=
  ps.find? fun p => !(p.zero == 0 && p.role < 8 && tableOk p.toRadish (l.allot p.role true) l.teamGroups &&
    tableOk p.toMarrow (l.allot p.role false) l.teamGroups)

/-- A kernel's record with its code bases, as a launch. -/
def kernelLaunch (s : State) (asid : Nat) (k : BundleKernel) : Launch :=
  newLaunch s asid (setField (setField k.record 0 8 k.marrowBase) 8 8 k.radishBase) none 0

/-- The architecture level of an errata section, and the erratum ids it lists (R342). -/
def errLevel (e : List Byte) : Nat := field e 0 4
def errIds (e : List Byte) : List Nat := (List.range (field e 4 4)).map fun i => field e (8 + 4 * i) 4

/-- Why a bundle is refused: the first failure in the order of R343 (DEDUCED, log 88). -/
def bundleCause (s : State) (asid : Nat) (b : Bundle) : Option String :=
  match readBundle b.file with
  | none => some "ELF"
  | some (ks, _) =>
    match ks.findSome? fun k => badPoint (kernelLaunch s asid k) k.points with
    | some p => some ("point " ++ toString p.point)
    | none => match ks.findSome? fun k => recordCause (kernelLaunch s asid k) 0 false with
      | some c => some c
      | none =>
        if ks.any fun k => errLevel k.errata > deviceLevel then some "level"
        else ((ks.flatMap fun k => errIds k.errata).find? fun e => Config.errCorrected e && !Config.errPreserved e).map
          fun e => "erratum " ++ toString e

/-! ### BUNDLE_LOAD -/

/-- What the resident OS puts in memory for a bundle: the code of its kernels, R, X and U, and the control program. -/
def loadedOf (b : Bundle) : List Loaded :=
  match readBundle b.file with
  | none => []
  | some (ks, ctl) => (ks.flatMap fun k => [⟨k.marrowBase, codeAttr, k.marrow⟩, ⟨k.radishBase, codeAttr, k.radish⟩]) ++ ctl

/-- Maps a page with the rights of an attribute: a page that a leaf of this device already maps, of key 0 and committed, gains them; another
takes a frame, and more for nodes; none where the leaf is another's, or the frames run out. -/
def mapPage (s : State) (asid attr p : Nat) (fs : List Nat) : Option (State × List Nat) :=
  match entryAt s asid p with
  | some (pa, e, level) =>
    if leafMalformed s e level || bits e 15 1 == 0 || bits e 48 2 != 0 || bits e 50 6 != 0 || bits e 56 8 != s.self then none
    else
      let v := e ||| attr % 256
      some (if v = e then s else dropTlb (osEntry s osCore pa v) asid p, fs)
  | none => match fs with
    | [] => none
    | f :: rest =>
      if !frameFree s 0 f then none
      else match mapLeaf (zeroFrame s f) osCore asid p 4 (3 + attr + f * 65536 + s.self * 2 ^ 56) rest with
        | .error _ => none
        | .ok x => some x

/-- Maps the pages of a section. -/
def mapSection (asid : Nat) (x : Loaded) (r : Option (State × List Nat)) : Option (State × List Nat) :=
  (pagesOf x.addr x.bytes.length).foldl (fun (r : Option (State × List Nat)) p => match r with
    | none => none
    | some (s, fs) => mapPage s asid x.attr p fs) r

/-- Writes a section's bytes to its pages. -/
def writeSection (asid : Nat) (x : Loaded) (s : State) : State :=
  ((pagesOf x.addr x.bytes.length).foldl (fun (r : State × List Byte) p =>
    let at_ := max x.addr p
    let n := min (x.addr + x.bytes.length) (p + 65536) - at_
    match walk r.1 asid at_ with
    | .leaf e level =>
      let key := devKey r.1.self (bits e 16 32 * 65536 + at_ % 2 ^ leafBits level)
      (stewWrite r.1 osCore key (r.2.take n) false, r.2.drop n)
    | _ => (r.1, r.2.drop n)) (s, x.bytes)).1

/-- The kernels of a bundle, as they are kept once it is loaded. -/
def kernelsOf (asid : Nat) (b : Bundle) : List Kernel :=
  match readBundle b.file with
  | none => []
  | some (ks, _) => ks.zipIdx.map fun k => ⟨asid, k.2, k.1.record, BitVec.ofNat 64 k.1.marrowBase, BitVec.ofNat 64 k.1.radishBase,
      k.1.points.map fun p => ⟨p.point, p.role, p.marrow, p.radish, p.toRadish, p.toMarrow⟩, errIds k.1.errata⟩

/-- The resident OS loads a bundle for one of the 256 contexts (R16), or refuses it whole and logs the first failure
(DEDUCED, log 88). -/
def bundleLoad (s : State) (asid : Nat) (b : Bundle) : State :=
  if asid ≥ 256 then s
  else match bundleCause s asid b with
  | some c => { s with log := s.log ++ [c] }
  | none =>
    if (loadedOf b).any fun x => x.addr + x.bytes.length > 2 ^ 57 then { s with log := s.log ++ ["ELF"] }
    else match (loadedOf b).foldl (fun r x => mapSection asid x r) (some (s, b.frames)) with
    | none => { s with log := s.log ++ ["frames"] }
    | some (t, _) =>
      let t := (loadedOf b).foldl (fun t x => writeSection asid x t) t
      { t with kernels := (t.kernels.filter fun k => k.asid != asid) ++ kernelsOf asid b }

end Sys2Proof.Machine
end

