-- ==== Sys2Proof/Machine/Loop.lean ====
section
/-! DEFINITION. The loops and links (R284, R285, R319, R320) and storage errors (R317, R318, R320). -/
set_option linter.all false
namespace Sys2Proof.Machine

/-! ### Loops (R284, R285) -/

def Slot.empty : Slot := ⟨none, none⟩
def Node.empty : Node := ⟨[], [], 0, none, none, []⟩

def State.loop (s : State) (l : Nat) : Loop := aget ⟨[], []⟩ l s.loops
def Loop.slot (x : Loop) (k : Nat) : Slot := aget Slot.empty k x.slots
def Loop.node (x : Loop) (n : Nat) : Node := aget Node.empty n x.nodes
def Loop.setSlot (x : Loop) (k : Nat) (v : Slot) : Loop := { x with slots := aput k v x.slots }
def Loop.setNode (x : Loop) (n : Nat) (v : Node) : Loop := { x with nodes := aput n v x.nodes }
def State.setLoop (s : State) (l : Nat) (x : Loop) : State := { s with loops := aput l x s.loops }

/-- A packet of a node's queues, as it enters one. -/
def Pkt.new (n : Nat) (o : Nat × Bool × Nat) : Pkt := ⟨n, o.1, o.2.1, o.2.2, 0, false, none, 0⟩

/-- Room in a class's queue of 16. -/
def Node.room (x : Node) (bulk : Bool) : Bool := if bulk then x.bulk.length < 16 else x.urgent.length < 16

/-- A packet enters its class's queue of 16, if there is room. -/
def Node.enqueue (x : Node) (p : Pkt) : Node :=
  if !x.room p.bulk then x
  else if p.bulk then { x with bulk := x.bulk ++ [p] }
  else { x with urgent := x.urgent ++ [p] }

/-- The ages of a node's queued packets rise by one loop cycle. -/
def Node.older (x : Node) : Node :=
  let up (p : Pkt) : Pkt := { p with age := p.age + 1 }
  { x with urgent := x.urgent.map up, bulk := x.bulk.map up }

/-- Age 512 or more. -/
def Pkt.old (p : Pkt) : Bool := p.promoted || p.age ≥ 512

def Node.queued (x : Node) : List Pkt := x.urgent ++ x.bulk

def Node.remove (x : Node) (id : Nat) : Node :=
  { x with urgent := x.urgent.filter fun p => p.id != id, bulk := x.bulk.filter fun p => p.id != id }

/-- The oldest promoted packets of a node. -/
def Node.oldest (x : Node) : List Pkt :=
  let c := x.queued.filter Pkt.old
  let m := c.foldl (fun a p => max a p.age) 0
  c.filter fun p => p.age == m

/-- A packet is injected in a slot of its loop; its reservation is released. -/
def inject (x : Loop) (n sl : Nat) (p : Pkt) : Loop :=
  let x := { x with slots := x.slots.map fun (k : Nat × Slot) => if k.2.resv = some (n, p.id) then (k.1, { k.2 with resv := none }) else k }
  let x := x.setSlot sl { x.slot sl with pkt := some { p with age := 0, promoted := false, resv := none, arrivals := 0 } }
  x.setNode n ((x.node n).remove p.id)

/-- The passing slot is reserved for a packet. -/
def reserve (x : Loop) (n sl : Nat) (p : Pkt) : Loop :=
  let y := x.node n
  let mark (q : Pkt) : Pkt := if q.id = p.id then { q with resv := some sl } else q
  (x.setSlot sl { x.slot sl with resv := some (n, p.id) }).setNode n
    { y with urgent := y.urgent.map mark, bulk := y.bulk.map mark }

/-- A free slot takes a packet by the round robin over the turns U, U, U, U, B. -/
def byTurn (x : Loop) (n sl : Nat) : Loop :=
  let y := x.node n
  let c := if y.turn = 4 then y.bulk ++ y.urgent else y.urgent ++ y.bulk
  match c with
  | [] => x
  | p :: _ =>
    let x := inject x n sl p
    x.setNode n { x.node n with turn := (y.turn + 1) % 5 }

/-- What a node does with a passing slot; `p` is its oldest promoted packet. A slot holds one reservation at most
(DEDUCED, log 72). -/
def slotPass (x : Loop) (n sl : Nat) (p : Option Pkt) : Loop :=
  let k := x.slot sl
  let free := k.pkt.isNone && k.resv.isNone
  match p with
  | some p =>
    if free || (k.pkt.isNone && k.resv == some (n, p.id)) then inject x n sl p
    else if p.resv.isNone && k.resv.isNone && !((x.node n).queued.any fun q => q.bulk == p.bulk && q.resv.isSome) then
      reserve x n sl p
    else x
  | none => if free then byTurn x n sl else x

/-- The loops: 56 on each die, then eight trunk loops of each die-pair edge, then eight of each link from the I/O and control die
(R11, R12). -/
def isTrunk (l : Nat) : Bool := 224 ≤ l

/-- The dies that a loop lies on; the edges are 0–1, 2–3, 0–2 and 1–3. -/
def loopDies (l : Nat) : List Nat :=
  if l < 224 then [l / 56]
  else if l < 256 then [[0, 1], [2, 3], [0, 2], [1, 3]].getD ((l - 224) / 8) []
  else [if l < 264 then 0 else 2]

/-- The hops of a loop: at most 28 on a die loop, at most 40 on a trunk loop (R12, R285). -/
def hopsOf (l : Nat) : Nat := if isTrunk l then 40 else 28

/-- Slot sl passes node n of loop l as the k-th abreast: one slot a hop on a die loop, five abreast on a trunk loop
(R12, R285). -/
def passOk (l n sl k : Nat) : Bool :=
  n < hopsOf l && if isTrunk l then l < 272 && sl < 200 && k < 5 && sl % 5 == k else sl < 28 && k == 0

/-! ### What a loop's link keeps (R319): a loop is a link of its own, whose number is 24 more -/

def State.setLink (s : State) (l : Nat) (x : Link) : State := { s with links := aput l x s.links }

/-- A packet is sent: its sender keeps it until it is acknowledged. -/
def Link.send (x : Link) (src id cyc : Nat) (p : Option Pkt) : Link :=
  if x.unacked.any fun u => u.src == src && u.id == id then
    { x with unacked := x.unacked.map fun u => if u.src = src ∧ u.id = id then { u with sent := cyc } else u }
  else { x with unacked := x.unacked ++ [⟨src, id, 0, cyc, p⟩] }

def Link.has (x : Link) (src id : Nat) : Bool := x.accepted.contains (src, id)

/-- A packet that passes its check comes to a receiver: it is accepted unless it is a duplicate, and acknowledged; `acked` says whether
the acknowledgement comes back. -/
def Link.accept (x : Link) (src id : Nat) (acked : Bool) : Link :=
  { x with
    accepted := if x.has src id then x.accepted else x.accepted ++ [(src, id)]
    unacked := if acked then x.unacked.filter fun u => !(u.src == src && u.id == id) else x.unacked }

/-- The links that the traffic between a die and the I/O and control die crosses: that of dies 1 and 3 crosses a die-pair edge first
(R13) (DEDUCED, log 74). -/
def ioPath (die : Nat) : List Nat := match die with | 0 => [4] | 1 => [0, 4] | 2 => [5] | _ => [1, 5]

/-- The dies whose traffic a link inside the package carries: those at its ends, and those whose way to the I/O and control die
leads over it (DEDUCED, log 74). -/
def linkDies (l : Nat) : List Nat :=
  let ends := match l with
    | 0 => [0, 1]
    | 1 => [2, 3]
    | 2 => [0, 2]
    | 3 => [1, 3]
    | 4 => [0]
    | 5 => [2]
    | _ => if l < 24 then [] else loopDies (l - 24)
  (ends ++ (List.range 4).filter fun d => (ioPath d).contains l).eraseDups

/-- Loop cycles where a link's sender stands: a peer port on the I/O and control die, else the link's first die. -/
def State.linkCyc (s : State) (l : Nat) : Nat :=
  aget 0 (if 6 ≤ l ∧ l < 24 then 12 else 8 + (linkDies l).headD 0) s.cycles

/-- A packet that a trunk node queues again leaves the ejection buffer it came to there (R284). -/
def takeEjected (s : State) (id : Nat) : State :=
  { s with loops := s.loops.map fun (x : Nat × Loop) =>
      (x.1, { x.2 with nodes := x.2.nodes.map fun (n : Nat × Node) =>
        (n.1, { n.2 with ejected := n.2.ejected.filter (· != id) }) }) }

/-- LOOP_SLOT_PASS: slot sl of loop l passes node n, the k-th abreast in this loop cycle; `offer` enters the node's queue, with age 0:
a packet of the node's site, or one that crosses dies and was ejected at this trunk node. Which of several promoted packets of one
age is the oldest is the device's choice, a free value (assumption 4) (DEDUCED, log 72). -/
def loopPass (s : State) (l n sl k : Nat) (offer : Option (Nat × Bool × Nat)) : State :=
  if !passOk l n sl k || (s.link (24 + l)).failed || offer.any (fun o => o.2.2 ≥ hopsOf l) then s else
  let s := match offer with
    | some o => if ((s.loop l).node n).room o.2.1 then takeEjected s o.1 else s
    | none => s
  let x := s.loop l
  let y := if k = 0 then (x.node n).older else x.node n
  let y := match offer with
    | some o => y.enqueue (Pkt.new n o)
    | none => y
  let p := pick y.oldest (Config.free s.fresh 3 0)
  let x' := slotPass (x.setNode n y) n sl p
  let s := match (x.slot sl).pkt, (x'.slot sl).pkt with
    | none, some q => s.setLink (24 + l) ((s.link (24 + l)).send n q.id (s.linkCyc (24 + l)) (some q))
    | _, _ => s
  { s.setLoop l x' with fresh := s.fresh + 1 }

/-- PACKET_AGE_PROMOTION: queued packets of age 512 are promoted. -/
def packetAge (s : State) (l n : Nat) : State :=
  let x := s.loop l
  let y := x.node n
  let up (p : Pkt) : Pkt := { p with promoted := p.old }
  s.setLoop l (x.setNode n { y with urgent := y.urgent.map up, bulk := y.bulk.map up })

/-- The last-chance entry of a class is drained, ahead of every other ejection of the class. -/
def Node.drain (y : Node) (bulk : Bool) : Node :=
  if bulk then (match y.lastB with | some p => { y with lastB := none, ejected := y.ejected ++ [p.id] } | none => y)
  else match y.lastU with | some p => { y with lastU := none, ejected := y.ejected ++ [p.id] } | none => y

/-- PACKET_ARRIVAL: the packet of a slot reaches its destination. One that fails its check, or is a duplicate, is discarded (R319);
another is ejected; or, the ejection buffer being full, goes round again, and on its third such arrival enters the last-chance entry.
`acked` says whether the acknowledgement of one taken comes back (DEDUCED, log 73). -/
def packetArrive (s : State) (l sl : Nat) (full crcOk acked : Bool) : State :=
  let x := s.loop l
  let k := x.slot sl
  match k.pkt with
  | none => s
  | some p =>
    let y := x.node p.dest
    let v := s.link (24 + l)
    if !crcOk then s.setLoop l (x.setSlot sl { k with pkt := none })
    else if v.has p.src p.id then (s.setLoop l (x.setSlot sl { k with pkt := none })).setLink (24 + l) (v.accept p.src p.id acked)
    else if !full then
      let y := y.drain p.bulk
      (s.setLoop l ((x.setSlot sl { k with pkt := none }).setNode p.dest { y with ejected := y.ejected ++ [p.id] })).setLink (24 + l)
        (v.accept p.src p.id acked)
    else if p.arrivals < 2 then
      s.setLoop l (x.setSlot sl { k with pkt := some { p with arrivals := p.arrivals + 1 } })
    else
      let y := y.drain p.bulk
      let y := if p.bulk then { y with lastB := some p } else { y with lastU := some p }
      (s.setLoop l ((x.setSlot sl { k with pkt := none }).setNode p.dest y)).setLink (24 + l) (v.accept p.src p.id acked)

/-- LAST_CHANCE_DRAIN. -/
def lastDrain (s : State) (l n : Nat) (bulk : Bool) : State :=
  let x := s.loop l
  s.setLoop l (x.setNode n ((x.node n).drain bulk))

/-! ### Links (R13, R319): 0 to 3 the die-pair edges 0–1, 2–3, 0–2, 1–3; 4, 5 the I/O die's; 6 to 23 the peer ports; the loops
follow, whose flits are checked and sent again in the same way -/

def isLink (l : Nat) : Bool := l < 24 + 272

/-- FLIT_RECEIVE: a packet of one of the two ends of a link comes in at the other. One that fails its check, or is a duplicate, is
discarded; a good one is accepted and acknowledged, and `acked` says whether the acknowledgement comes back. A loop's packets come
in at PACKET_ARRIVAL (DEDUCED, log 73). -/
def flitReceive (s : State) (l src pkt : Nat) (crcOk acked : Bool) : State :=
  let x := s.link l
  if x.failed || l ≥ 24 || src ≥ 2 then s
  else
    let x := if x.has src pkt || x.unacked.any (fun u => u.src == src && u.id == pkt) then x
      else x.send src pkt (s.linkCyc l) none
    s.setLink l (if crcOk then x.accept src pkt acked else x)

/-- Contexts with an access or a copy under way to a device reached through a peer port (DEDUCED, log 74). -/
def onPort (s : State) (port asid : Nat) : Bool :=
  let far (key : Nat) : Bool := key / 2 ^ 48 != s.self && key < 2 ^ 70 &&
    (aget Dom.empty (key / 2 ^ 48) s.domain).valid && (aget Dom.empty (key / 2 ^ 48) s.domain).port == port
  (s.groups.any fun g => s.asidOf g.2 == asid && ((g.2.loads.any fun o => o.accs.any fun a => far a.pa) ||
    g.2.stores.any fun o => o.accs.any fun a => far a.pa)) ||
    s.copies.any fun c => !c.2.ended && s.asidOf (s.grp c.2.gid) == asid && c.2.pieces.any fun p => far p.2

/-- A link is marked failed (R319, R320): a device error; the domain-table entries of a peer port show it. -/
def failLink (s : State) (l : Nat) : State :=
  let s := s.setLink l { s.link l with failed := true }
  deviceError s (if 6 ≤ l ∧ l < 24 then onPort s (l - 6) else fun a => (linkDies l).any fun d => onDie s d a) "link"

/-- A loop's packet enters its sender's queue again, with its age reset; `s` stands where the queue has no room, or the packet still
waits in it. -/
def requeue (s t : State) (l n : Nat) (p : Pkt) : State :=
  let x := s.loop l
  let y := x.node n
  if !y.room p.bulk || y.queued.any (fun q => q.id == p.id) then s
  else t.setLoop l (x.setNode n (y.enqueue { p with age := 0, promoted := false, resv := none, arrivals := 0 }))

/-- RETRANSMIT_TIMEOUT: no acknowledgement has come within 4,096 loop cycles, stretched ones included (R319, R321)
(DEDUCED, log 73). -/
def retransmit (s : State) (l src pkt : Nat) : State :=
  let x := s.link l
  let mine (u : Unacked) : Bool := u.src == src && u.id == pkt
  match x.unacked.find? mine with
  | none => s
  | some u =>
    if x.failed || !isLink l || s.linkCyc l < u.sent + 4096 then s
    else if u.tries ≥ 8 then failLink s l
    else
      let t := s.setLink l { x with
        unacked := x.unacked.map fun v => if mine v then { v with tries := v.tries + 1, sent := s.linkCyc l } else v }
      match u.pkt with
      | none => t
      | some p => requeue s t (l - 24) src p

/-! ### Storage errors (R317, R318) -/

/-- Adds a mark unless it stands. -/
def addMark {α : Type} [BEq α] (a : α) (l : List α) : List α := if l.contains a then l else a :: l

/-- ECC_ERROR_DETECTED; a corrected error is counted and reported to the resident OS, in its log and by an interrupt, and to the
management interface (R317) (DESIGN CHOICE, log 109). -/
def eccError (s : State) (site : EccSite) : State :=
  match site with
  | .corrected =>
    { s with mod := { s.mod with corr := s.mod.corr + 1 }, log := s.log ++ ["corrected"], irqs := s.irqs + 1 }
  | .vreg g r l =>
    if (s.grp g).live then s.modGrp g fun x => x.setVPois r (x.vPois r ||| (1#32 <<< (l % 32))) else s
  | .sreg g r => if (s.grp g).live && r != 0 then s.modGrp g fun x => x.setSPois r true else s
  | .mreg t r => if (s.str t).live then s.setStr t { s.str t with mpois := addMark r (s.str t).mpois } else s
  | .xword t x w => if (s.str t).live then s.setStr t { s.str t with xpois := addMark (x, w) (s.str t).xpois } else s
  | .zelem t z e => if (s.str t).live then s.setStr t { s.str t with zpois := addMark (z, e) (s.str t).zpois } else s
  | .window t w => if (s.team t).alive then s.modTeam t fun x => { x with wpois := addMark w x.wpois } else s
  | .line key => { s with mpois := addMark (key / 128) s.mpois }
  | .structure_ die => deviceError s (onDie s die) "storage"

end Sys2Proof.Machine
end

