-- ==== Sys2Proof/Machine/ExecDevice.lean ====
section
/-! DEFINITION. The steps of the device and of what stands around it, one definition each over its named operation. -/
set_option linter.all false
namespace Sys2Proof.Machine

/-- The matrix opcodes (R37). -/
def isMatrixOp (op : Nat) : Bool := 0xE0 ≤ op && op ≤ 0xEC

/-- The address that a steward core accesses. -/
def accPa : StewardAccess → Nat
  | .load pa _ => pa
  | .store pa _ => pa
  | .lr pa _ _ _ => pa
  | .sc pa _ _ _ => pa
  | .amo _ pa _ _ _ _ => pa
  | .fence _ _ _ _ => 0
  | .ecall _ => 0

/-- LOAD RESULT RETURN (R47). -/
def execLoadResultReturn (g : Nat) (ch : Nat) (s : State) : Host.Outcome State Fault Refusal :=
  .next (loadReturn s g ch)

/-- STORE ACK (R243). -/
def execStoreAck (g : Nat) (ix : Nat) (ch : Nat) (s : State) : Host.Outcome State Fault Refusal :=
  .next (storeAck s g ix ch)

/-- TUBER ANSWER (R165). -/
def execTuberAnswer (g : Nat) (ch : Nat) (s : State) : Host.Outcome State Fault Refusal :=
  .next (tuberAnswer s g ch)

/-- OBJECT TABLE ANSWER (R163). -/
def execObjectTableAnswer (g : Nat) (s : State) : Host.Outcome State Fault Refusal :=
  .next (objAnswer s g)

/-- SFU RESULT WRITE (R48). -/
def execSfuResultWrite (g : Nat) (s : State) : Host.Outcome State Fault Refusal :=
  .next (sfuWrite s g)

/-- LOCATE FAULT DETECT (R145). -/
def execLocateFaultDetect (g : Nat) (f : Nat) (s : State) : Host.Outcome State Fault Refusal :=
  .next (locateDetect s g f)

/-- COPY PIECE TRANSFER (R171). -/
def execCopyPieceTransfer (c : Nat) (n : Nat) (ch : Nat) (s : State) : Host.Outcome State Fault Refusal :=
  .next (transferPiece s c n ch)

/-- COPY COMPLETE (R171). -/
def execCopyComplete (c : Nat) (s : State) : Host.Outcome State Fault Refusal :=
  .next (completeCopy s c)

/-- SNOOZE EXPIRY (R96). -/
def execSnoozeExpiry (g : Nat) (f : Nat) (s : State) : Host.Outcome State Fault Refusal :=
  .next (snoozeEnd s g f)

/-- YIELD EXPIRY (R96). -/
def execYieldExpiry (g : Nat) (f : Nat) (s : State) : Host.Outcome State Fault Refusal :=
  .next (yieldEnd s g f)

/-- ISSUE AGE PROMOTION (R281). -/
def execIssueAgePromotion (g : Nat) (f : Nat) (s : State) : Host.Outcome State Fault Refusal :=
  .next (promote s g f)

/-- ISSUE SLOT (R281). -/
def execIssueSlot (core : Nat) (seq : Bool) (ch : Nat) (s : State) : Host.Outcome State Fault Refusal :=
  .next (issueSlot s core seq ch)

/-- PACKET AGE PROMOTION (R284). -/
def execPacketAgePromotion (l : Nat) (n : Nat) (s : State) : Host.Outcome State Fault Refusal :=
  .next (packetAge s l n)

/-- LOOP SLOT PASS (R284). -/
def execLoopSlotPass (l : Nat) (n : Nat) (sl : Nat) (k : Nat) (offer : Option (Nat × Bool × Nat)) (s : State) : Host.Outcome State Fault Refusal :=
  .next (loopPass s l n sl k offer)

/-- PACKET ARRIVAL (R285). -/
def execPacketArrival (l : Nat) (sl : Nat) (came : Arrival) (s : State) : Host.Outcome State Fault Refusal :=
  .next (packetArrive s l sl came.full came.crcOk came.acked)

/-- LAST CHANCE DRAIN (R285). -/
def execLastChanceDrain (l : Nat) (n : Nat) (bulk : Bool) (s : State) : Host.Outcome State Fault Refusal :=
  .next (lastDrain s l n bulk)

/-- FLIT RECEIVE (R319). -/
def execFlitReceive (l : Nat) (pkt : PktId) (crcOk : Bool) (acked : Bool) (s : State) : Host.Outcome State Fault Refusal :=
  .next (flitReceive s l pkt.src pkt.id crcOk acked)

/-- RETRANSMIT TIMEOUT (R319). -/
def execRetransmitTimeout (l : Nat) (pkt : PktId) (s : State) : Host.Outcome State Fault Refusal :=
  .next (retransmit s l pkt.src pkt.id)

/-- ECC ERROR DETECTED (R317). -/
def execEccErrorDetected (site : EccSite) (s : State) : Host.Outcome State Fault Refusal :=
  .next (eccError s site)

/-- COLLAPSE REQUEST (R304). -/
def execCollapseRequest (asid : Nat) (va : Nat) (s : State) : Host.Outcome State Fault Refusal :=
  .next (collapseRequest s asid va)

/-- COLLAPSE SPLIT (R304). -/
def execCollapseSplit (asid : Nat) (va : Nat) (dev : Nat) (frame : Nat) (ch : Nat) (s : State) : Host.Outcome State Fault Refusal :=
  .next (collapseSplit s asid va dev frame ch)

/-- COLLAPSE ACK (R304). -/
def execCollapseAck (asid : Nat) (va : Nat) (dev : Nat) (failed : Bool) (s : State) : Host.Outcome State Fault Refusal :=
  .next (collapseAck s asid va dev failed)

/-- LAUNCH DISPATCH (R276). -/
def execLaunchDispatch (pl : List PlaceAt) (back : Option Nat) (s : State) : Host.Outcome State Fault Refusal :=
  .next (dispatch s pl back)

/-- WAIT WORD POLL (R275). -/
def execWaitWordPoll (q : Nat) (s : State) : Host.Outcome State Fault Refusal :=
  .next (pollWaits s q)

/-- HEAD RESERVE TIMEOUT (R276). -/
def execHeadReserveTimeout (l : Nat) (s : State) : Host.Outcome State Fault Refusal :=
  .next (headReserve s l)

/-- TT RELEASE (R280). -/
def execTtRelease (e : Nat) (s : State) : Host.Outcome State Fault Refusal :=
  .next (ttPass s e)

/-- MIGRATION DISPATCH (R283). -/
def execMigrationDispatch (core : Nat) (bal : Option Nat) (s : State) : Host.Outcome State Fault Refusal :=
  .next (migDispatch s core bal)

/-- MIGRATION AGE TIMEOUT (R283). -/
def execMigrationAgeTimeout (t : Nat) (s : State) : Host.Outcome State Fault Refusal :=
  .next (migAge s t)

/-- MIGRATION COMPLETE (R103). -/
def execMigrationComplete (t : Nat) (s : State) : Host.Outcome State Fault Refusal :=
  .next (migComplete s t)

/-- PREEMPT HALT (R314). -/
def execPreemptHalt (t : Nat) (s : State) : Host.Outcome State Fault Refusal :=
  .next (preemptHalt s t)

/-- PREEMPT SAVE COMPLETE (R315). -/
def execPreemptSaveComplete (t : Nat) (s : State) : Host.Outcome State Fault Refusal :=
  .next (saveComplete s t)

/-- MAILBOX HEAD WRITE (R330). -/
def execMailboxHeadWrite (fn : Nat) (v : BitVec 16) (s : State) : Host.Outcome State Fault Refusal :=
  .next (headWrite s fn v)

/-- MAILBOX CTAIL WRITE (R330). -/
def execMailboxCtailWrite (fn : Nat) (v : BitVec 16) (s : State) : Host.Outcome State Fault Refusal :=
  .next (ctailWrite s fn v)

/-- MAILBOX ENTRY TAKE (R330). -/
def execMailboxEntryTake (fn : Nat) (s : State) : Host.Outcome State Fault Refusal :=
  .next (entryTake s fn)

/-- COMPLETION WRITE (R330). -/
def execCompletionWrite (fn : Nat) (s : State) : Host.Outcome State Fault Refusal :=
  .next (completionWrite s fn)

/-- SYS EXIT (R331). -/
def execSysExit (who : Caller) (a0 : Nat) (s : State) : Host.Outcome State Fault Refusal :=
  .next (sysExit s who a0)

/-- SYS LOG (R331). -/
def execSysLog (who : Caller) (a0 : Nat) (a1 : Nat) (s : State) : Host.Outcome State Fault Refusal :=
  .next (sysLog s who a0 a1)

/-- SYS MAP (R331). -/
def execSysMap (who : Caller) (a0 : Nat) (a1 : Nat) (a2 : Nat) (frames : List Nat) (s : State) : Host.Outcome State Fault Refusal :=
  .next (sysMap s who a0 a1 a2 frames)

/-- SYS UNMAP (R331). -/
def execSysUnmap (who : Caller) (a0 : Nat) (a1 : Nat) (s : State) : Host.Outcome State Fault Refusal :=
  .next (sysUnmap s who a0 a1)

/-- SYS LAUNCH (R332). -/
def execSysLaunch (who : Caller) (a0 : Nat) (a1 : Nat) (a2 : Nat) (a3 : Nat) (dest : Nat) (s : State) : Host.Outcome State Fault Refusal :=
  .next (sysLaunch s who a0 a1 a2 a3 dest)

/-- SYS WAIT (R331). -/
def execSysWait (who : Caller) (a0 : Nat) (a1 : Nat) (s : State) : Host.Outcome State Fault Refusal :=
  .next (sysWait s who a0 a1)

/-- SYS POOL (R331). -/
def execSysPool (who : Caller) (a0 : Nat) (frames : List Nat) (s : State) : Host.Outcome State Fault Refusal :=
  .next (sysPool s who a0 frames)

/-- SYS TTSET (R331). -/
def execSysTtset (who : Caller) (a0 : Nat) (a1 : Nat) (a2 : Nat) (a3 : Nat) (s : State) : Host.Outcome State Fault Refusal :=
  .next (sysTtset s who a0 a1 a2 a3)

/-- SYS DTPAGE (R341). -/
def execSysDtpage (who : Caller) (va : Nat) (frames : List Nat) (cut : DtCut) (s : State) : Host.Outcome State Fault Refusal :=
  .next (sysDtpage s who va frames cut)

/-- SYS ATTEST (R331). -/
def execSysAttest (who : Caller) (a0 : Nat) (a1 : Nat) (s : State) : Host.Outcome State Fault Refusal :=
  .next (sysAttest s who a0 a1)

/-- SYS RECORD (R332). -/
def execSysRecord (who : Caller) (a0 : Nat) (a1 : Nat) (a2 : Nat) (a3 : Nat) (s : State) : Host.Outcome State Fault Refusal :=
  .next (sysRecord s who a0 a1 a2 a3)

/-- SYS WAIT TIMEOUT (R331). -/
def execSysWaitTimeout (who : Caller) (s : State) : Host.Outcome State Fault Refusal :=
  .next (sysWaitTimeout s who)

/-- QUEUE TABLE WRITE (R336). -/
def execQueueTableWrite (q : Nat) (v : BitVec 128) (s : State) : Host.Outcome State Fault Refusal :=
  .next (queueWrite s q v)

/-- TT ENTRY WRITE (R280). -/
def execTtEntryWrite (e : Nat) (v : BitVec 256) (s : State) : Host.Outcome State Fault Refusal :=
  .next (ttWrite s e v)

/-- ASID DESCRIPTOR WRITE (R292). -/
def execAsidDescriptorWrite (a : Nat) (v : BitVec 256) (badfree : Bool) (s : State) : Host.Outcome State Fault Refusal :=
  .next (descWrite s a v badfree)

/-- POOL FEED (R334). -/
def execPoolFeed (v : BitVec 64) (s : State) : Host.Outcome State Fault Refusal :=
  .next (poolFeed s v)

/-- INVALIDATE GO (R335). -/
def execInvalidateGo (v : BitVec 64) (s : State) : Host.Outcome State Fault Refusal :=
  .next (invalGo s v)

/-- INVALIDATE DONE (R299). -/
def execInvalidateDone (s : State) : Host.Outcome State Fault Refusal :=
  .next (invalDone s)

/-- SCHED PREEMPT (R337). -/
def execSchedPreempt (s : State) : Host.Outcome State Fault Refusal :=
  .next (cmdPreempt s)

/-- SCHED RESTORE (R337). -/
def execSchedRestore (s : State) : Host.Outcome State Fault Refusal :=
  .next (cmdRestore s)

/-- SCHED RESUME REPLAY (R337). -/
def execSchedResumeReplay (s : State) : Host.Outcome State Fault Refusal :=
  .next (cmdResume s false)

/-- SCHED RESUME SKIP (R337). -/
def execSchedResumeSkip (s : State) : Host.Outcome State Fault Refusal :=
  .next (cmdResume s true)

/-- SCHED END LAUNCH (R337). -/
def execSchedEndLaunch (s : State) : Host.Outcome State Fault Refusal :=
  .next (cmdEnd s)

/-- SCHED CMD RESERVED (R337). -/
def execSchedCmdReserved (c : BitVec 4) (s : State) : Host.Outcome State Fault Refusal :=
  .next (if c.toNat < 5 then s else cmdReserved s)

/-- SCHED CMD DONE (R337). -/
def execSchedCmdDone (s : State) : Host.Outcome State Fault Refusal :=
  .next (cmdDone s)

/-- FAULT QUEUE TAIL WRITE (R338). -/
def execFaultQueueTailWrite (v : VReg) (s : State) : Host.Outcome State Fault Refusal :=
  .next (tailWrite s v)

/-- PLIM WRITE (R350). -/
def execPlimWrite (v : BitVec 16) (s : State) : Host.Outcome State Fault Refusal :=
  .next (plimWrite s v)

/-- REGISTER WRITE (R3). -/
def execRegisterWrite (r : Reg) (v : BitVec 64) (s : State) : Host.Outcome State Fault Refusal :=
  .next (regWrite s r v)

/-- SPDM REQUEST (R307). -/
def execSpdmRequest (nonce : Nat) (s : State) : Host.Outcome State Fault Refusal :=
  .next (spdmRequest s nonce)

/-- PTP MESSAGE (R349). -/
def execPtpMessage (offset : Int) (s : State) : Host.Outcome State Fault Refusal :=
  .next (ptpMessage s offset)

/-- MAIN SUPPLY ON (R340). -/
def execMainSupplyOn (fl : FlashState) (s : State) : Host.Outcome State Fault Refusal :=
  .next (supplyOn s fl)

/-- MAIN SUPPLY OFF (R346). -/
def execMainSupplyOff (s : State) : Host.Outcome State Fault Refusal :=
  .next (supplyOff s)

/-- IDLE REQUEST (R346). -/
def execIdleRequest (on : Bool) (s : State) : Host.Outcome State Fault Refusal :=
  .next (idleRequest s on)

/-- IDLE ENTER (R346). -/
def execIdleEnter (s : State) : Host.Outcome State Fault Refusal :=
  .next (idleEnter s)

/-- POWER OVER LIMIT (R347). -/
def execPowerOverLimit (watts : Nat) (s : State) : Host.Outcome State Fault Refusal :=
  .next (powerOver s watts)

/-- JUNCTION OVER 95C (R348). -/
def execJunctionOver95c (die : Nat) (temp : Nat) (s : State) : Host.Outcome State Fault Refusal :=
  .next (junctionOver s die temp)

/-- THERMAL TRIP (R348). -/
def execThermalTrip (cause : TripCause) (s : State) : Host.Outcome State Fault Refusal :=
  .next (thermalTrip s cause)

/-- COOLANT FLOW TIMEOUT (R348). -/
def execCoolantFlowTimeout (s : State) : Host.Outcome State Fault Refusal :=
  .next (coolantTimeout s)

/-- SUPPLY SAG TRIP (R321). -/
def execSupplySagTrip (die : Nat) (s : State) : Host.Outcome State Fault Refusal :=
  .next (sagTrip s die)

/-- UNLISTED OPCODE (R73). -/
def execUnlistedOpcode (rad : Bool) (w : BitVec 64) (s : State) : Host.Outcome State Fault Refusal :=
  match s.cur with
  | some (.frag gid fid) => .next (takeFault s gid fid (if rad && isMatrixOp (opcodeOf (radUpper w)) then flt 3 0 else flt 1 0)
      ((s.grp gid).frag fid).em)
  | some (.stream tid) => .next (takeStreamFault s tid (flt 1 0))
  | none => .next s

/-- STEWARD CORE ACCESS (R353), by one of the sixteen steward cores (R14); no other core makes one. -/
def execStewardCoreAccess (st : Nat) (acc : StewardAccess) (ch : Nat) (s : State) : Host.Outcome State Fault Refusal :=
  if st ≥ 16 then .next s
  else match stewAccess s st acc ch with
  | some t => .next t
  | none => .fault (.noMemory (accPa acc))

/-- SHALLOT REQUEST (R305). -/
def execShallotRequest (rq : ShallotReq) (s : State) : Host.Outcome State Fault Refusal :=
  .next (shallotRequest s rq)

/-- BUNDLE LOAD (R343). -/
def execBundleLoad (asid : Nat) (bd : Bundle) (s : State) : Host.Outcome State Fault Refusal :=
  .next (bundleLoad s asid bd)

/-- GRANDMASTER LOST (R349). -/
def execGrandmasterLost (s : State) : Host.Outcome State Fault Refusal :=
  .next (ptpLost s)

/-- POWER WITHIN LIMIT (R347). -/
def execPowerWithinLimit (watts : Nat) (s : State) : Host.Outcome State Fault Refusal :=
  .next (powerWithin s watts)

/-- JUNCTION BELOW 95C (R348). -/
def execJunctionBelow95c (temp : Nat) (s : State) : Host.Outcome State Fault Refusal :=
  .next (junctionBelow s temp)

/-- SUPPLY SAG CLEAR (R321). -/
def execSupplySagClear (die : Nat) (s : State) : Host.Outcome State Fault Refusal :=
  .next (sagClear s die)

/-- COOLANT FLOW CHANGE (R348). -/
def execCoolantFlowChange (low : Bool) (inlet : Nat) (s : State) : Host.Outcome State Fault Refusal :=
  .next (coolantFlow s low inlet)

/-- MMA COMPLETE (R198). -/
def execMmaComplete (t : Nat) (s : State) : Host.Outcome State Fault Refusal :=
  .next (unitDone s t)

end Sys2Proof.Machine
end

