-- ==== Sys2Proof/Machine/ExecEngine.lean ====
section
/-! DEFINITION. The engine instructions (R168 to R182): each word of both encodings issues under its checks and has
the effect that its body gives. -/
set_option linter.all false
namespace Sys2Proof.Machine

/-- TCOPY (R171). -/
def execTcopy (d : SReg) (a : SReg) (b : SReg) (s : State) : Host.Outcome State Fault Refusal :=
  issue s (Info.plain 0xC8 none (evenReg b.toNat) (wS d 1 :: rS b 2 :: blockU a)) (tcopyB false d a b)

/-- TCOPYM (R171). -/
def execTcopym (d : SReg) (a : SReg) (b : SReg) (s : State) : Host.Outcome State Fault Refusal :=
  issue s (Info.plain 0xC9 none (evenReg b.toNat) (wS d 1 :: rS b 2 :: blockU a)) (tcopyB true d a b)

/-- CHAIN (R174). -/
def execChain (d : SReg) (a : SReg) (s : State) : Host.Outcome State Fault Refusal :=
  issue s (Info.plain 0xCA none true [wS d 1, rS a 1]) (chainB d a)

/-- BBINIT (R177). -/
def execBbinit (a : SReg) (b : SReg) (s : State) : Host.Outcome State Fault Refusal :=
  issue s (Info.plain 0xCB none true [rS a 1, rS b 1]) (bbinitB a b)

/-- BBEXP (R177). -/
def execBbexp (a : SReg) (b : SReg) (s : State) : Host.Outcome State Fault Refusal :=
  issue s (Info.plain 0xCC none true [rS a 1, rS b 1]) (bbexpB a b)

/-- BBWAIT (R177). -/
def execBbwait (d : SReg) (a : SReg) (s : State) : Host.Outcome State Fault Refusal :=
  issue s (Info.plain 0xCD none true [wS d 1, rS a 1]) (bbwaitB d a)

/-- BBINV (R177). -/
def execBbinv (a : SReg) (s : State) : Host.Outcome State Fault Refusal :=
  issue s (Info.plain 0xCE none true [rS a 1]) (bbinvB a)

/-- BBARR (R177). -/
def execBbarr (a : SReg) (b : SReg) (s : State) : Host.Outcome State Fault Refusal :=
  issue s (Info.plain 0xCF none true [rS a 1, rS b 1]) (bbarrB a b)

/-- RINIT (R180). -/
def execRinit (a : SReg) (s : State) : Host.Outcome State Fault Refusal :=
  issue s (Info.plain 0xD0 none true [rS a 1]) (rinitB a)

/-- RACQ (R180). -/
def execRacq (d : SReg) (a : SReg) (s : State) : Host.Outcome State Fault Refusal :=
  issue s (Info.plain 0xD1 none true [wS d 1, rS a 1]) (ringGetB false d a)

/-- RPUB (R180). -/
def execRpub (d : SReg) (a : SReg) (b : SReg) (s : State) : Host.Outcome State Fault Refusal :=
  issue s (Info.plain 0xD2 none true [rS d 1, rS a 1, rS b 1]) (rpubB d a b)

/-- RTAKE (R180). -/
def execRtake (d : SReg) (a : SReg) (s : State) : Host.Outcome State Fault Refusal :=
  issueBoth s (Info.plain 0xD3 none true [wS d 1, rS a 1]) (d.toNat < 16 && a.toNat < 16) (ringGetB true d a) (strRtakeB d a)

/-- RDONE (R180). -/
def execRdone (a : SReg) (b : SReg) (s : State) : Host.Outcome State Fault Refusal :=
  issueBoth s (Info.plain 0xD4 none true [rS a 1, rS b 1]) (a.toNat < 16 && b.toNat < 16) (rdoneB a b) (strRdoneB a b)

/-- RCLOSE (R180). -/
def execRclose (a : SReg) (s : State) : Host.Outcome State Fault Refusal :=
  issue s (Info.plain 0xD5 none true [rS a 1]) (rcloseB a)

/-- SPUSH (R182). -/
def execSpush (a : SReg) (b : SReg) (s : State) : Host.Outcome State Fault Refusal :=
  issue s (Info.plain 0xD6 none true [rS a 1, rS b 1]) (spushB a b)

/-- TCOPY RADISH (R171). -/
def execTcopyRadish (w : BitVec 13) (d : SReg) (a : SReg) (b : SReg) (s : State) : Host.Outcome State Fault Refusal :=
  issue s (Info.plain 0xC8 (some w) (evenReg b.toNat) (wS d 1 :: rS b 2 :: blockU a)) (tcopyB false d a b)

/-- TCOPYM RADISH (R171). -/
def execTcopymRadish (w : BitVec 13) (d : SReg) (a : SReg) (b : SReg) (s : State) : Host.Outcome State Fault Refusal :=
  issue s (Info.plain 0xC9 (some w) (evenReg b.toNat) (wS d 1 :: rS b 2 :: blockU a)) (tcopyB true d a b)

/-- CHAIN RADISH (R174). -/
def execChainRadish (w : BitVec 13) (d : SReg) (a : SReg) (s : State) : Host.Outcome State Fault Refusal :=
  issue s (Info.plain 0xCA (some w) true [wS d 1, rS a 1]) (chainB d a)

/-- BBINIT RADISH (R177). -/
def execBbinitRadish (w : BitVec 13) (a : SReg) (b : SReg) (s : State) : Host.Outcome State Fault Refusal :=
  issue s (Info.plain 0xCB (some w) true [rS a 1, rS b 1]) (bbinitB a b)

/-- BBEXP RADISH (R177). -/
def execBbexpRadish (w : BitVec 13) (a : SReg) (b : SReg) (s : State) : Host.Outcome State Fault Refusal :=
  issue s (Info.plain 0xCC (some w) true [rS a 1, rS b 1]) (bbexpB a b)

/-- BBWAIT RADISH (R177). -/
def execBbwaitRadish (w : BitVec 13) (d : SReg) (a : SReg) (s : State) : Host.Outcome State Fault Refusal :=
  issue s (Info.plain 0xCD (some w) true [wS d 1, rS a 1]) (bbwaitB d a)

/-- BBINV RADISH (R177). -/
def execBbinvRadish (w : BitVec 13) (a : SReg) (s : State) : Host.Outcome State Fault Refusal :=
  issue s (Info.plain 0xCE (some w) true [rS a 1]) (bbinvB a)

/-- BBARR RADISH (R177). -/
def execBbarrRadish (w : BitVec 13) (a : SReg) (b : SReg) (s : State) : Host.Outcome State Fault Refusal :=
  issue s (Info.plain 0xCF (some w) true [rS a 1, rS b 1]) (bbarrB a b)

/-- RINIT RADISH (R180). -/
def execRinitRadish (w : BitVec 13) (a : SReg) (s : State) : Host.Outcome State Fault Refusal :=
  issue s (Info.plain 0xD0 (some w) true [rS a 1]) (rinitB a)

/-- RACQ RADISH (R180). -/
def execRacqRadish (w : BitVec 13) (d : SReg) (a : SReg) (s : State) : Host.Outcome State Fault Refusal :=
  issue s (Info.plain 0xD1 (some w) true [wS d 1, rS a 1]) (ringGetB false d a)

/-- RPUB RADISH (R180). -/
def execRpubRadish (w : BitVec 13) (d : SReg) (a : SReg) (b : SReg) (s : State) : Host.Outcome State Fault Refusal :=
  issue s (Info.plain 0xD2 (some w) true [rS d 1, rS a 1, rS b 1]) (rpubB d a b)

/-- RTAKE RADISH (R180). -/
def execRtakeRadish (w : BitVec 13) (d : SReg) (a : SReg) (s : State) : Host.Outcome State Fault Refusal :=
  issue s (Info.plain 0xD3 (some w) true [wS d 1, rS a 1]) (ringGetB true d a)

/-- RDONE RADISH (R180). -/
def execRdoneRadish (w : BitVec 13) (a : SReg) (b : SReg) (s : State) : Host.Outcome State Fault Refusal :=
  issue s (Info.plain 0xD4 (some w) true [rS a 1, rS b 1]) (rdoneB a b)

/-- RCLOSE RADISH (R180). -/
def execRcloseRadish (w : BitVec 13) (a : SReg) (s : State) : Host.Outcome State Fault Refusal :=
  issue s (Info.plain 0xD5 (some w) true [rS a 1]) (rcloseB a)

/-- SPUSH RADISH (R182). -/
def execSpushRadish (w : BitVec 13) (a : SReg) (b : SReg) (s : State) : Host.Outcome State Fault Refusal :=
  issue s (Info.plain 0xD6 (some w) true [rS a 1, rS b 1]) (spushB a b)

end Sys2Proof.Machine
end

