-- ==== Sys2Proof/Machine/ExecFloat.lean ====
section
/-! DEFINITION. The floating-point, special-function, conversion and quantisation instructions (R124 to R135): each word of both encodings issues under its checks and has
the effect that its body gives. -/
set_option linter.all false
namespace Sys2Proof.Machine

/-- FADD (R125). -/
def execFadd (d : VReg) (a : VReg) (b : VReg) (s : State) : Host.Outcome State Fault Refusal :=
  issue s (Info.vec 0x60 none true (dab d a b) floatTypes) (floatB faddOp d.toNat a.toNat b.toNat)

/-- FSUB (R125). -/
def execFsub (d : VReg) (a : VReg) (b : VReg) (s : State) : Host.Outcome State Fault Refusal :=
  issue s (Info.vec 0x61 none true (dab d a b) floatTypes) (floatB fsubOp d.toNat a.toNat b.toNat)

/-- FMUL (R125). -/
def execFmul (d : VReg) (a : VReg) (b : VReg) (s : State) : Host.Outcome State Fault Refusal :=
  issue s (Info.vec 0x62 none true (dab d a b) floatTypes) (floatB fmulOp d.toNat a.toNat b.toNat)

/-- FFMA (R125). -/
def execFfma (d : VReg) (a : VReg) (b : VReg) (s : State) : Host.Outcome State Fault Refusal :=
  issue s (Info.vec 0x63 none true (dabOld d a b) floatTypes) (floatB ffmaOp d.toNat a.toNat b.toNat)

/-- FMIN (R125). -/
def execFmin (d : VReg) (a : VReg) (b : VReg) (s : State) : Host.Outcome State Fault Refusal :=
  issue s (Info.vec 0x64 none true (dab d a b) floatTypes) (floatB fminOp d.toNat a.toNat b.toNat)

/-- FMAX (R125). -/
def execFmax (d : VReg) (a : VReg) (b : VReg) (s : State) : Host.Outcome State Fault Refusal :=
  issue s (Info.vec 0x65 none true (dab d a b) floatTypes) (floatB fmaxOp d.toNat a.toNat b.toNat)

/-- FABS (R125). -/
def execFabs (d : VReg) (a : VReg) (s : State) : Host.Outcome State Fault Refusal :=
  issue s (Info.vec 0x66 none true (da d a) floatTypes) (fsignB 0 d.toNat a.toNat a.toNat)

/-- FNEG (R125). -/
def execFneg (d : VReg) (a : VReg) (s : State) : Host.Outcome State Fault Refusal :=
  issue s (Info.vec 0x67 none true (da d a) floatTypes) (fsignB 1 d.toNat a.toNat a.toNat)

/-- FCMP (R126). -/
def execFcmp (c : BitVec 3) (p : BitVec 3) (a : VReg) (b : VReg) (s : State) : Host.Outcome State Fault Refusal :=
  issue s (Info.vec 0x68 none (c.toNat < 7) (ab a b) floatTypes) (fcmpB c p a.toNat b.toNat)

/-- FCLASS (R127). -/
def execFclass (d : VReg) (a : VReg) (s : State) : Host.Outcome State Fault Refusal :=
  issue s (Info.vec 0x69 none true (fun ty => [wV d 1, rV a (regsOf ty)]) floatTypes) (fclassB d.toNat a.toNat)

/-- FDIV (R125). -/
def execFdiv (d : VReg) (a : VReg) (b : VReg) (s : State) : Host.Outcome State Fault Refusal :=
  issue s (Info.vec 0x6A none true (dab d a b) floatTypes) (floatB fdivOp d.toNat a.toNat b.toNat)

/-- FSQRT (R125). -/
def execFsqrt (d : VReg) (a : VReg) (s : State) : Host.Outcome State Fault Refusal :=
  issue s (Info.vec 0x6B none true (da d a) floatTypes) (floatB fsqrtOp d.toNat a.toNat a.toNat)

/-- FRND (R125). -/
def execFrnd (d : VReg) (a : VReg) (s : State) : Host.Outcome State Fault Refusal :=
  issue s (Info.vec 0x6C none true (da d a) floatTypes) (floatB frndOp d.toNat a.toNat a.toNat)

/-- FLDEXP (R125). -/
def execFldexp (d : VReg) (a : VReg) (b : VReg) (s : State) : Host.Outcome State Fault Refusal :=
  issue s (Info.vec 0x6D none true (fun ty => da d a ty ++ [rV b 1]) floatTypes) (fldexpB d.toNat a.toNat b.toNat)

/-- FEXPO (R125). -/
def execFexpo (d : VReg) (a : VReg) (s : State) : Host.Outcome State Fault Refusal :=
  issue s (Info.vec 0x6E none true (fun ty => [wV d 1, rV a (regsOf ty)]) floatTypes) (fexpoB d.toNat a.toNat)

/-- FSGNJ (R125). -/
def execFsgnj (d : VReg) (a : VReg) (b : VReg) (s : State) : Host.Outcome State Fault Refusal :=
  issue s (Info.vec 0x6F none true (dab d a b) floatTypes) (fsignB 2 d.toNat a.toNat b.toNat)

/-- FRCP (R128). -/
def execFrcp (d : VReg) (a : VReg) (s : State) : Host.Outcome State Fault Refusal :=
  issue s (Info.vec 0x70 none true (da d a) sfuTypes) (sfuB 0 d.toNat a.toNat)

/-- FRSQ (R128). -/
def execFrsq (d : VReg) (a : VReg) (s : State) : Host.Outcome State Fault Refusal :=
  issue s (Info.vec 0x71 none true (da d a) sfuTypes) (sfuB 1 d.toNat a.toNat)

/-- FEX2 (R128). -/
def execFex2 (d : VReg) (a : VReg) (s : State) : Host.Outcome State Fault Refusal :=
  issue s (Info.vec 0x72 none true (da d a) sfuTypes) (sfuB 2 d.toNat a.toNat)

/-- FLG2 (R128). -/
def execFlg2 (d : VReg) (a : VReg) (s : State) : Host.Outcome State Fault Refusal :=
  issue s (Info.vec 0x73 none true (da d a) sfuTypes) (sfuB 3 d.toNat a.toNat)

/-- FSIN (R128). -/
def execFsin (d : VReg) (a : VReg) (s : State) : Host.Outcome State Fault Refusal :=
  issue s (Info.vec 0x74 none true (da d a) sfuTypes) (sfuB 4 d.toNat a.toNat)

/-- FCOS (R128). -/
def execFcos (d : VReg) (a : VReg) (s : State) : Host.Outcome State Fault Refusal :=
  issue s (Info.vec 0x75 none true (da d a) sfuTypes) (sfuB 5 d.toNat a.toNat)

/-- FTANH (R128). -/
def execFtanh (d : VReg) (a : VReg) (s : State) : Host.Outcome State Fault Refusal :=
  issue s (Info.vec 0x76 none true (da d a) sfuTypes) (sfuB 6 d.toNat a.toNat)

/-- CVT (R129). -/
def execCvt (d : VReg) (a : VReg) (src : BitVec 4) (s : State) : Host.Outcome State Fault Refusal :=
  issue s (Info.vec 0x80 none (src.toNat < 12) (fun ty => [wV d (regsOf ty), rV a (regsOf src.toNat)]) cvtTypes) (cvtB src.toNat d.toNat a.toNat)

/-- CVTI (R130). -/
def execCvti (d : VReg) (a : VReg) (src : BitVec 4) (s : State) : Host.Outcome State Fault Refusal :=
  issue s (Info.vec 0x81 none ((2 ≤ src.toNat && src.toNat ≤ 5)) (fun ty => [wV d (regsOf ty), rV a (regsOf src.toNat)]) intTypes) (cvtiB src.toNat d.toNat a.toNat)

/-- PACK (R131). -/
def execPack (d : VReg) (a : VReg) (b : VReg) (s : State) : Host.Outcome State Fault Refusal :=
  issue s (Info.vec 0x82 none true (packU d a b) packTypes) (packB d.toNat a.toNat b.toNat)

/-- UNPK (R131). -/
def execUnpk (d : VReg) (a : VReg) (s : State) : Host.Outcome State Fault Refusal :=
  issue s (Info.vec 0x83 none true (unpkU d a) packTypes) (unpkB d.toNat a.toNat)

/-- QHIST (R133). -/
def execQhist (d : VReg) (a : VReg) (b : VReg) (s : State) : Host.Outcome State Fault Refusal :=
  issue s (Info.vec 0x84 none true (fun _ => histR d ++ [rV a 1, wV b 1]) quantTypes) (qhistB d.toNat a.toNat b.toNat)

/-- QSCALE (R134). -/
def execQscale (d : VReg) (a : VReg) (b : VReg) (s : State) : Host.Outcome State Fault Refusal :=
  issue s (Info.vec 0x85 none true (fun _ => wV d 1 :: histR a ++ [wV b 1]) quantTypes) (qscaleB d.toNat a.toNat b.toNat)

/-- QUANT (R135). -/
def execQuant (d : VReg) (a : VReg) (b : VReg) (s : State) : Host.Outcome State Fault Refusal :=
  issue s (Info.vec 0x86 none true (dab d a b) quantTypes) (quantB d.toNat a.toNat b.toNat)

/-- DEQ (R135). -/
def execDeq (d : VReg) (a : VReg) (b : VReg) (s : State) : Host.Outcome State Fault Refusal :=
  issue s (Info.vec 0x87 none true (dab d a b) quantTypes) (deqB d.toNat a.toNat b.toNat)

/-- QCLR (R133). -/
def execQclr (d : VReg) (s : State) : Host.Outcome State Fault Refusal :=
  issue s (Info.vec 0x88 none true (fun _ => histW d) quantTypes) (qclrB d.toNat)

/-- FADD RADISH (R125). -/
def execFaddRadish (w : BitVec 13) (d : VReg) (a : VReg) (b : VReg) (s : State) : Host.Outcome State Fault Refusal :=
  issue s (Info.vec 0x60 (some w) true (dab d a b) floatTypes) (floatB faddOp d.toNat a.toNat b.toNat)

/-- FSUB RADISH (R125). -/
def execFsubRadish (w : BitVec 13) (d : VReg) (a : VReg) (b : VReg) (s : State) : Host.Outcome State Fault Refusal :=
  issue s (Info.vec 0x61 (some w) true (dab d a b) floatTypes) (floatB fsubOp d.toNat a.toNat b.toNat)

/-- FMUL RADISH (R125). -/
def execFmulRadish (w : BitVec 13) (d : VReg) (a : VReg) (b : VReg) (s : State) : Host.Outcome State Fault Refusal :=
  issue s (Info.vec 0x62 (some w) true (dab d a b) floatTypes) (floatB fmulOp d.toNat a.toNat b.toNat)

/-- FFMA RADISH (R125). -/
def execFfmaRadish (w : BitVec 13) (d : VReg) (a : VReg) (b : VReg) (s : State) : Host.Outcome State Fault Refusal :=
  issue s (Info.vec 0x63 (some w) true (dabOld d a b) floatTypes) (floatB ffmaOp d.toNat a.toNat b.toNat)

/-- FMIN RADISH (R125). -/
def execFminRadish (w : BitVec 13) (d : VReg) (a : VReg) (b : VReg) (s : State) : Host.Outcome State Fault Refusal :=
  issue s (Info.vec 0x64 (some w) true (dab d a b) floatTypes) (floatB fminOp d.toNat a.toNat b.toNat)

/-- FMAX RADISH (R125). -/
def execFmaxRadish (w : BitVec 13) (d : VReg) (a : VReg) (b : VReg) (s : State) : Host.Outcome State Fault Refusal :=
  issue s (Info.vec 0x65 (some w) true (dab d a b) floatTypes) (floatB fmaxOp d.toNat a.toNat b.toNat)

/-- FABS RADISH (R125). -/
def execFabsRadish (w : BitVec 13) (d : VReg) (a : VReg) (s : State) : Host.Outcome State Fault Refusal :=
  issue s (Info.vec 0x66 (some w) true (da d a) floatTypes) (fsignB 0 d.toNat a.toNat a.toNat)

/-- FNEG RADISH (R125). -/
def execFnegRadish (w : BitVec 13) (d : VReg) (a : VReg) (s : State) : Host.Outcome State Fault Refusal :=
  issue s (Info.vec 0x67 (some w) true (da d a) floatTypes) (fsignB 1 d.toNat a.toNat a.toNat)

/-- FCMP RADISH (R126). -/
def execFcmpRadish (w : BitVec 13) (c : BitVec 3) (p : BitVec 3) (a : VReg) (b : VReg) (s : State) : Host.Outcome State Fault Refusal :=
  issue s (Info.vec 0x68 (some w) (c.toNat < 7) (ab a b) floatTypes) (fcmpB c p a.toNat b.toNat)

/-- FCLASS RADISH (R127). -/
def execFclassRadish (w : BitVec 13) (d : VReg) (a : VReg) (s : State) : Host.Outcome State Fault Refusal :=
  issue s (Info.vec 0x69 (some w) true (fun ty => [wV d 1, rV a (regsOf ty)]) floatTypes) (fclassB d.toNat a.toNat)

/-- FDIV RADISH (R125). -/
def execFdivRadish (w : BitVec 13) (d : VReg) (a : VReg) (b : VReg) (s : State) : Host.Outcome State Fault Refusal :=
  issue s (Info.vec 0x6A (some w) true (dab d a b) floatTypes) (floatB fdivOp d.toNat a.toNat b.toNat)

/-- FSQRT RADISH (R125). -/
def execFsqrtRadish (w : BitVec 13) (d : VReg) (a : VReg) (s : State) : Host.Outcome State Fault Refusal :=
  issue s (Info.vec 0x6B (some w) true (da d a) floatTypes) (floatB fsqrtOp d.toNat a.toNat a.toNat)

/-- FRND RADISH (R125). -/
def execFrndRadish (w : BitVec 13) (d : VReg) (a : VReg) (s : State) : Host.Outcome State Fault Refusal :=
  issue s (Info.vec 0x6C (some w) true (da d a) floatTypes) (floatB frndOp d.toNat a.toNat a.toNat)

/-- FLDEXP RADISH (R125). -/
def execFldexpRadish (w : BitVec 13) (d : VReg) (a : VReg) (b : VReg) (s : State) : Host.Outcome State Fault Refusal :=
  issue s (Info.vec 0x6D (some w) true (fun ty => da d a ty ++ [rV b 1]) floatTypes) (fldexpB d.toNat a.toNat b.toNat)

/-- FEXPO RADISH (R125). -/
def execFexpoRadish (w : BitVec 13) (d : VReg) (a : VReg) (s : State) : Host.Outcome State Fault Refusal :=
  issue s (Info.vec 0x6E (some w) true (fun ty => [wV d 1, rV a (regsOf ty)]) floatTypes) (fexpoB d.toNat a.toNat)

/-- FSGNJ RADISH (R125). -/
def execFsgnjRadish (w : BitVec 13) (d : VReg) (a : VReg) (b : VReg) (s : State) : Host.Outcome State Fault Refusal :=
  issue s (Info.vec 0x6F (some w) true (dab d a b) floatTypes) (fsignB 2 d.toNat a.toNat b.toNat)

/-- FRCP RADISH (R128). -/
def execFrcpRadish (w : BitVec 13) (d : VReg) (a : VReg) (s : State) : Host.Outcome State Fault Refusal :=
  issue s (Info.vec 0x70 (some w) true (da d a) sfuTypes) (sfuB 0 d.toNat a.toNat)

/-- FRSQ RADISH (R128). -/
def execFrsqRadish (w : BitVec 13) (d : VReg) (a : VReg) (s : State) : Host.Outcome State Fault Refusal :=
  issue s (Info.vec 0x71 (some w) true (da d a) sfuTypes) (sfuB 1 d.toNat a.toNat)

/-- FEX2 RADISH (R128). -/
def execFex2Radish (w : BitVec 13) (d : VReg) (a : VReg) (s : State) : Host.Outcome State Fault Refusal :=
  issue s (Info.vec 0x72 (some w) true (da d a) sfuTypes) (sfuB 2 d.toNat a.toNat)

/-- FLG2 RADISH (R128). -/
def execFlg2Radish (w : BitVec 13) (d : VReg) (a : VReg) (s : State) : Host.Outcome State Fault Refusal :=
  issue s (Info.vec 0x73 (some w) true (da d a) sfuTypes) (sfuB 3 d.toNat a.toNat)

/-- FSIN RADISH (R128). -/
def execFsinRadish (w : BitVec 13) (d : VReg) (a : VReg) (s : State) : Host.Outcome State Fault Refusal :=
  issue s (Info.vec 0x74 (some w) true (da d a) sfuTypes) (sfuB 4 d.toNat a.toNat)

/-- FCOS RADISH (R128). -/
def execFcosRadish (w : BitVec 13) (d : VReg) (a : VReg) (s : State) : Host.Outcome State Fault Refusal :=
  issue s (Info.vec 0x75 (some w) true (da d a) sfuTypes) (sfuB 5 d.toNat a.toNat)

/-- FTANH RADISH (R128). -/
def execFtanhRadish (w : BitVec 13) (d : VReg) (a : VReg) (s : State) : Host.Outcome State Fault Refusal :=
  issue s (Info.vec 0x76 (some w) true (da d a) sfuTypes) (sfuB 6 d.toNat a.toNat)

/-- CVT RADISH (R129). -/
def execCvtRadish (w : BitVec 13) (d : VReg) (a : VReg) (src : BitVec 4) (s : State) : Host.Outcome State Fault Refusal :=
  issue s (Info.vec 0x80 (some w) (src.toNat < 12) (fun ty => [wV d (regsOf ty), rV a (regsOf src.toNat)]) cvtTypes) (cvtB src.toNat d.toNat a.toNat)

/-- CVTI RADISH (R130). -/
def execCvtiRadish (w : BitVec 13) (d : VReg) (a : VReg) (src : BitVec 4) (s : State) : Host.Outcome State Fault Refusal :=
  issue s (Info.vec 0x81 (some w) ((2 ≤ src.toNat && src.toNat ≤ 5)) (fun ty => [wV d (regsOf ty), rV a (regsOf src.toNat)]) intTypes) (cvtiB src.toNat d.toNat a.toNat)

/-- PACK RADISH (R131). -/
def execPackRadish (w : BitVec 13) (d : VReg) (a : VReg) (b : VReg) (s : State) : Host.Outcome State Fault Refusal :=
  issue s (Info.vec 0x82 (some w) true (packU d a b) packTypes) (packB d.toNat a.toNat b.toNat)

/-- UNPK RADISH (R131). -/
def execUnpkRadish (w : BitVec 13) (d : VReg) (a : VReg) (s : State) : Host.Outcome State Fault Refusal :=
  issue s (Info.vec 0x83 (some w) true (unpkU d a) packTypes) (unpkB d.toNat a.toNat)

/-- QHIST RADISH (R133). -/
def execQhistRadish (w : BitVec 13) (d : VReg) (a : VReg) (b : VReg) (s : State) : Host.Outcome State Fault Refusal :=
  issue s (Info.vec 0x84 (some w) true (fun _ => histR d ++ [rV a 1, wV b 1]) quantTypes) (qhistB d.toNat a.toNat b.toNat)

/-- QSCALE RADISH (R134). -/
def execQscaleRadish (w : BitVec 13) (d : VReg) (a : VReg) (b : VReg) (s : State) : Host.Outcome State Fault Refusal :=
  issue s (Info.vec 0x85 (some w) true (fun _ => wV d 1 :: histR a ++ [wV b 1]) quantTypes) (qscaleB d.toNat a.toNat b.toNat)

/-- QUANT RADISH (R135). -/
def execQuantRadish (w : BitVec 13) (d : VReg) (a : VReg) (b : VReg) (s : State) : Host.Outcome State Fault Refusal :=
  issue s (Info.vec 0x86 (some w) true (dab d a b) quantTypes) (quantB d.toNat a.toNat b.toNat)

/-- DEQ RADISH (R135). -/
def execDeqRadish (w : BitVec 13) (d : VReg) (a : VReg) (b : VReg) (s : State) : Host.Outcome State Fault Refusal :=
  issue s (Info.vec 0x87 (some w) true (dab d a b) quantTypes) (deqB d.toNat a.toNat b.toNat)

/-- QCLR RADISH (R133). -/
def execQclrRadish (w : BitVec 13) (d : VReg) (s : State) : Host.Outcome State Fault Refusal :=
  issue s (Info.vec 0x88 (some w) true (fun _ => histW d) quantTypes) (qclrB d.toNat)

end Sys2Proof.Machine
end

