-- ==== Sys2Proof/Machine/ExecInteger.lean ====
section
/-! DEFINITION. The vector integer, logic and scalar instructions (R115 to R123): each word of both encodings issues under its checks and has
the effect that its body gives. -/
set_option linter.all false
namespace Sys2Proof.Machine

/-- IADD (R116). -/
def execIadd (d : VReg) (a : VReg) (b : VReg) (s : State) : Host.Outcome State Fault Refusal :=
  issue s (Info.vec 0x30 none true (dab d a b) intTypes) (intB iaddOp d.toNat a.toNat b.toNat)

/-- ISUB (R116). -/
def execIsub (d : VReg) (a : VReg) (b : VReg) (s : State) : Host.Outcome State Fault Refusal :=
  issue s (Info.vec 0x31 none true (dab d a b) intTypes) (intB isubOp d.toNat a.toNat b.toNat)

/-- IMUL (R116). -/
def execImul (d : VReg) (a : VReg) (b : VReg) (s : State) : Host.Outcome State Fault Refusal :=
  issue s (Info.vec 0x32 none true (dab d a b) intTypes) (intB imulOp d.toNat a.toNat b.toNat)

/-- IMULH (R116). -/
def execImulh (d : VReg) (a : VReg) (b : VReg) (s : State) : Host.Outcome State Fault Refusal :=
  issue s (Info.vec 0x33 none true (dab d a b) intTypes) (intB imulhOp d.toNat a.toNat b.toNat)

/-- IMAD (R116). -/
def execImad (d : VReg) (a : VReg) (b : VReg) (s : State) : Host.Outcome State Fault Refusal :=
  issue s (Info.vec 0x34 none true (dabOld d a b) intTypes) (intB imadOp d.toNat a.toNat b.toNat)

/-- IDIV (R118). -/
def execIdiv (d : VReg) (a : VReg) (b : VReg) (s : State) : Host.Outcome State Fault Refusal :=
  issue s (Info.vec 0x35 none true (dab d a b) intTypes) (intB idivOp d.toNat a.toNat b.toNat)

/-- IREM (R118). -/
def execIrem (d : VReg) (a : VReg) (b : VReg) (s : State) : Host.Outcome State Fault Refusal :=
  issue s (Info.vec 0x36 none true (dab d a b) intTypes) (intB iremOp d.toNat a.toNat b.toNat)

/-- IMIN (R116). -/
def execImin (d : VReg) (a : VReg) (b : VReg) (s : State) : Host.Outcome State Fault Refusal :=
  issue s (Info.vec 0x37 none true (dab d a b) intTypes) (intB iminOp d.toNat a.toNat b.toNat)

/-- IMAX (R116). -/
def execImax (d : VReg) (a : VReg) (b : VReg) (s : State) : Host.Outcome State Fault Refusal :=
  issue s (Info.vec 0x38 none true (dab d a b) intTypes) (intB imaxOp d.toNat a.toNat b.toNat)

/-- IABS (R116). -/
def execIabs (d : VReg) (a : VReg) (s : State) : Host.Outcome State Fault Refusal :=
  issue s (Info.vec 0x39 none true (da d a) intTypes) (intB iabsOp d.toNat a.toNat a.toNat)

/-- INEG (R116). -/
def execIneg (d : VReg) (a : VReg) (s : State) : Host.Outcome State Fault Refusal :=
  issue s (Info.vec 0x3A none true (da d a) intTypes) (intB inegOp d.toNat a.toNat a.toNat)

/-- IADDC (R117). -/
def execIaddc (d : VReg) (a : VReg) (b : VReg) (s : State) : Host.Outcome State Fault Refusal :=
  issue s (Info.vec 0x3B none true (dab d a b) carryTypes) (iaddcB d.toNat a.toNat b.toNat)

/-- ICMP (R119). -/
def execIcmp (c : BitVec 3) (p : BitVec 3) (a : VReg) (b : VReg) (s : State) : Host.Outcome State Fault Refusal :=
  issue s (Info.vec 0x3C none (c.toNat < 6) (ab a b) intTypes) (icmpB c p a.toNat b.toNat)

/-- SEL (R116). -/
def execSelLane (d : VReg) (a : VReg) (b : VReg) (s : State) : Host.Outcome State Fault Refusal :=
  issue s ((Info.vec 0x3D none true (fun ty => daMove d a ty ++ [wV b (regsOf ty)]) intTypes).bare) (selB d.toNat a.toNat b.toNat)

/-- AND (R120). -/
def execAndBits (d : VReg) (a : VReg) (b : VReg) (s : State) : Host.Outcome State Fault Refusal :=
  issue s (Info.vec 0x3E none true (dab d a b) intTypes) (intB andOp d.toNat a.toNat b.toNat)

/-- OR (R120). -/
def execOrBits (d : VReg) (a : VReg) (b : VReg) (s : State) : Host.Outcome State Fault Refusal :=
  issue s (Info.vec 0x3F none true (dab d a b) intTypes) (intB orOp d.toNat a.toNat b.toNat)

/-- XOR (R120). -/
def execXorBits (d : VReg) (a : VReg) (b : VReg) (s : State) : Host.Outcome State Fault Refusal :=
  issue s (Info.vec 0x40 none true (dab d a b) intTypes) (intB xorOp d.toNat a.toNat b.toNat)

/-- NOT (R120). -/
def execNotBits (d : VReg) (a : VReg) (s : State) : Host.Outcome State Fault Refusal :=
  issue s (Info.vec 0x41 none true (da d a) intTypes) (intB notOp d.toNat a.toNat a.toNat)

/-- SHL (R120). -/
def execShl (d : VReg) (a : VReg) (b : VReg) (s : State) : Host.Outcome State Fault Refusal :=
  issue s (Info.vec 0x42 none true (dab d a b) intTypes) (intB shlOp d.toNat a.toNat b.toNat)

/-- SHR (R120). -/
def execShr (d : VReg) (a : VReg) (b : VReg) (s : State) : Host.Outcome State Fault Refusal :=
  issue s (Info.vec 0x43 none true (dab d a b) intTypes) (intB shrOp d.toNat a.toNat b.toNat)

/-- SAR (R120). -/
def execSar (d : VReg) (a : VReg) (b : VReg) (s : State) : Host.Outcome State Fault Refusal :=
  issue s (Info.vec 0x44 none true (dab d a b) intTypes) (intB sarOp d.toNat a.toNat b.toNat)

/-- ROTL (R120). -/
def execRotl (d : VReg) (a : VReg) (b : VReg) (s : State) : Host.Outcome State Fault Refusal :=
  issue s (Info.vec 0x45 none true (dab d a b) intTypes) (intB rotlOp d.toNat a.toNat b.toNat)

/-- POPC (R120). -/
def execPopc (d : VReg) (a : VReg) (s : State) : Host.Outcome State Fault Refusal :=
  issue s (Info.vec 0x46 none true (da d a) intTypes) (intB popcOp d.toNat a.toNat a.toNat)

/-- CLZ (R120). -/
def execClz (d : VReg) (a : VReg) (s : State) : Host.Outcome State Fault Refusal :=
  issue s (Info.vec 0x47 none true (da d a) intTypes) (intB clzOp d.toNat a.toNat a.toNat)

/-- CTZ (R120). -/
def execCtz (d : VReg) (a : VReg) (s : State) : Host.Outcome State Fault Refusal :=
  issue s (Info.vec 0x48 none true (da d a) intTypes) (intB ctzOp d.toNat a.toNat a.toNat)

/-- BREV (R120). -/
def execBrev (d : VReg) (a : VReg) (s : State) : Host.Outcome State Fault Refusal :=
  issue s (Info.vec 0x49 none true (da d a) intTypes) (intB brevOp d.toNat a.toNat a.toNat)

/-- BFE (R120). -/
def execBfe (d : VReg) (a : VReg) (b : VReg) (s : State) : Host.Outcome State Fault Refusal :=
  issue s (Info.vec 0x4A none true (dab d a b) intTypes) (fieldB bfeOp d.toNat a.toNat b.toNat)

/-- BFI (R120). -/
def execBfi (d : VReg) (a : VReg) (b : VReg) (s : State) : Host.Outcome State Fault Refusal :=
  issue s (Info.vec 0x4B none true (dabOld d a b) intTypes) (fieldB bfiOp d.toNat a.toNat b.toNat)

/-- MOV (R121). -/
def execMovLane (d : VReg) (a : VReg) (s : State) : Host.Outcome State Fault Refusal :=
  issue s (Info.vec 0x4C none true (da d a) intTypes) (intB movOp d.toNat a.toNat a.toNat)

/-- MOVI (R121). -/
def execMovi (d : VReg) (i : BitVec 8) (s : State) : Host.Outcome State Fault Refusal :=
  issue s (((Info.vec 0x4D none true (fun ty => [wV d (regsOf ty)]) intTypes).withImm (.byte i) anyImm).wideUnder is64) (moviB d.toNat)

/-- LEA (R121). -/
def execLea (d : VReg) (k : VReg) (b : BitVec 3) (s : State) : Host.Outcome State Fault Refusal :=
  issue s ((Info.vec 0x4E none (evenReg d.toNat) (fun _ => wV d 2 :: rP b :: offV k) intTypes).withImm .off anyImm) (leaB d.toNat k b)

/-- IADDI (R121). -/
def execIaddi (d : VReg) (a : VReg) (i : BitVec 8) (s : State) : Host.Outcome State Fault Refusal :=
  issue s (((Info.vec 0x4F none true (da d a) intTypes).withImm (.byte i) anyImm).wideUnder is64) (iaddiB d.toNat a.toNat)

/-- SADD (R122). -/
def execSadd (d : SReg) (a : SReg) (b : SReg) (s : State) : Host.Outcome State Fault Refusal :=
  issue s (Info.plain 0x50 none true [wS d 1, rS a 1, rS b 1]) (scalB (· + ·) d a b)

/-- SSUB (R122). -/
def execSsub (d : SReg) (a : SReg) (b : SReg) (s : State) : Host.Outcome State Fault Refusal :=
  issue s (Info.plain 0x51 none true [wS d 1, rS a 1, rS b 1]) (scalB (· - ·) d a b)

/-- SMUL (R122). -/
def execSmul (d : SReg) (a : SReg) (b : SReg) (s : State) : Host.Outcome State Fault Refusal :=
  issue s (Info.plain 0x52 none true [wS d 1, rS a 1, rS b 1]) (scalB (· * ·) d a b)

/-- SAND (R122). -/
def execSand (d : SReg) (a : SReg) (b : SReg) (s : State) : Host.Outcome State Fault Refusal :=
  issue s (Info.plain 0x53 none true [wS d 1, rS a 1, rS b 1]) (scalB (· &&& ·) d a b)

/-- SOR (R122). -/
def execSor (d : SReg) (a : SReg) (b : SReg) (s : State) : Host.Outcome State Fault Refusal :=
  issue s (Info.plain 0x54 none true [wS d 1, rS a 1, rS b 1]) (scalB (· ||| ·) d a b)

/-- SXOR (R122). -/
def execSxor (d : SReg) (a : SReg) (b : SReg) (s : State) : Host.Outcome State Fault Refusal :=
  issue s (Info.plain 0x55 none true [wS d 1, rS a 1, rS b 1]) (scalB (· ^^^ ·) d a b)

/-- SSHL (R122). -/
def execSshl (d : SReg) (a : SReg) (b : SReg) (s : State) : Host.Outcome State Fault Refusal :=
  issue s (Info.plain 0x56 none true [wS d 1, rS a 1, rS b 1]) (scalB sshlOp d a b)

/-- SSHR (R122). -/
def execSshr (d : SReg) (a : SReg) (b : SReg) (s : State) : Host.Outcome State Fault Refusal :=
  issue s (Info.plain 0x57 none true [wS d 1, rS a 1, rS b 1]) (scalB sshrOp d a b)

/-- SCMP (R123). -/
def execScmp (c : BitVec 3) (p : BitVec 3) (a : SReg) (b : SReg) (s : State) : Host.Outcome State Fault Refusal :=
  issue s (Info.plain 0x58 none (c.toNat < 6) [rS a 1, rS b 1]) (scmpB c p a b)

/-- SMOV (R122). -/
def execSmov (d : SReg) (a : SReg) (s : State) : Host.Outcome State Fault Refusal :=
  issue s (Info.plain 0x59 none true [wS d 1, rS a 1]) (smovB d a)

/-- SMOVI (R122). -/
def execSmovi (d : SReg) (i : BitVec 8) (s : State) : Host.Outcome State Fault Refusal :=
  issue s (((Info.plain 0x5A none true [wS d (if s.wideLit then 2 else 1)]).withImm (.byte i) anyImm).wideUnder fun _ => true) (smoviB s.wideLit d)

/-- SLEA (R122). -/
def execSlea (d : SReg) (b : BitVec 3) (s : State) : Host.Outcome State Fault Refusal :=
  issue s ((Info.plain 0x5B none (evenReg d.toNat) [wS d 2, rP b]).withImm .off anyImm) (sleaB d b)

/-- VTOS (R122). -/
def execVtos (d : SReg) (a : VReg) (s : State) : Host.Outcome State Fault Refusal :=
  issue s (Info.plain 0x5C none true [wS d 1, wV a 1]) (vtosB d a.toNat)

/-- STOV (R122). -/
def execStov (d : VReg) (a : SReg) (s : State) : Host.Outcome State Fault Refusal :=
  issue s (Info.plain 0x5D none true [wV d 1, rS a 1]) (stovB d.toNat a)

/-- SMIN (R122). -/
def execSmin (d : SReg) (a : SReg) (b : SReg) (s : State) : Host.Outcome State Fault Refusal :=
  issue s (Info.plain 0x5E none true [wS d 1, rS a 1, rS b 1]) (scalB sminOp d a b)

/-- SMAX (R122). -/
def execSmax (d : SReg) (a : SReg) (b : SReg) (s : State) : Host.Outcome State Fault Refusal :=
  issue s (Info.plain 0x5F none true [wS d 1, rS a 1, rS b 1]) (scalB smaxOp d a b)

/-- IADD RADISH (R116). -/
def execIaddRadish (w : BitVec 13) (d : VReg) (a : VReg) (b : VReg) (s : State) : Host.Outcome State Fault Refusal :=
  issue s (Info.vec 0x30 (some w) true (dab d a b) intTypes) (intB iaddOp d.toNat a.toNat b.toNat)

/-- ISUB RADISH (R116). -/
def execIsubRadish (w : BitVec 13) (d : VReg) (a : VReg) (b : VReg) (s : State) : Host.Outcome State Fault Refusal :=
  issue s (Info.vec 0x31 (some w) true (dab d a b) intTypes) (intB isubOp d.toNat a.toNat b.toNat)

/-- IMUL RADISH (R116). -/
def execImulRadish (w : BitVec 13) (d : VReg) (a : VReg) (b : VReg) (s : State) : Host.Outcome State Fault Refusal :=
  issue s (Info.vec 0x32 (some w) true (dab d a b) intTypes) (intB imulOp d.toNat a.toNat b.toNat)

/-- IMULH RADISH (R116). -/
def execImulhRadish (w : BitVec 13) (d : VReg) (a : VReg) (b : VReg) (s : State) : Host.Outcome State Fault Refusal :=
  issue s (Info.vec 0x33 (some w) true (dab d a b) intTypes) (intB imulhOp d.toNat a.toNat b.toNat)

/-- IMAD RADISH (R116). -/
def execImadRadish (w : BitVec 13) (d : VReg) (a : VReg) (b : VReg) (s : State) : Host.Outcome State Fault Refusal :=
  issue s (Info.vec 0x34 (some w) true (dabOld d a b) intTypes) (intB imadOp d.toNat a.toNat b.toNat)

/-- IDIV RADISH (R118). -/
def execIdivRadish (w : BitVec 13) (d : VReg) (a : VReg) (b : VReg) (s : State) : Host.Outcome State Fault Refusal :=
  issue s (Info.vec 0x35 (some w) true (dab d a b) intTypes) (intB idivOp d.toNat a.toNat b.toNat)

/-- IREM RADISH (R118). -/
def execIremRadish (w : BitVec 13) (d : VReg) (a : VReg) (b : VReg) (s : State) : Host.Outcome State Fault Refusal :=
  issue s (Info.vec 0x36 (some w) true (dab d a b) intTypes) (intB iremOp d.toNat a.toNat b.toNat)

/-- IMIN RADISH (R116). -/
def execIminRadish (w : BitVec 13) (d : VReg) (a : VReg) (b : VReg) (s : State) : Host.Outcome State Fault Refusal :=
  issue s (Info.vec 0x37 (some w) true (dab d a b) intTypes) (intB iminOp d.toNat a.toNat b.toNat)

/-- IMAX RADISH (R116). -/
def execImaxRadish (w : BitVec 13) (d : VReg) (a : VReg) (b : VReg) (s : State) : Host.Outcome State Fault Refusal :=
  issue s (Info.vec 0x38 (some w) true (dab d a b) intTypes) (intB imaxOp d.toNat a.toNat b.toNat)

/-- IABS RADISH (R116). -/
def execIabsRadish (w : BitVec 13) (d : VReg) (a : VReg) (s : State) : Host.Outcome State Fault Refusal :=
  issue s (Info.vec 0x39 (some w) true (da d a) intTypes) (intB iabsOp d.toNat a.toNat a.toNat)

/-- INEG RADISH (R116). -/
def execInegRadish (w : BitVec 13) (d : VReg) (a : VReg) (s : State) : Host.Outcome State Fault Refusal :=
  issue s (Info.vec 0x3A (some w) true (da d a) intTypes) (intB inegOp d.toNat a.toNat a.toNat)

/-- IADDC RADISH (R117). -/
def execIaddcRadish (w : BitVec 13) (d : VReg) (a : VReg) (b : VReg) (s : State) : Host.Outcome State Fault Refusal :=
  issue s (Info.vec 0x3B (some w) true (dab d a b) carryTypes) (iaddcB d.toNat a.toNat b.toNat)

/-- ICMP RADISH (R119). -/
def execIcmpRadish (w : BitVec 13) (c : BitVec 3) (p : BitVec 3) (a : VReg) (b : VReg) (s : State) : Host.Outcome State Fault Refusal :=
  issue s (Info.vec 0x3C (some w) (c.toNat < 6) (ab a b) intTypes) (icmpB c p a.toNat b.toNat)

/-- SEL RADISH (R116). -/
def execSelLaneRadish (w : BitVec 13) (d : VReg) (a : VReg) (b : VReg) (s : State) : Host.Outcome State Fault Refusal :=
  issue s ((Info.vec 0x3D (some w) true (fun ty => daMove d a ty ++ [wV b (regsOf ty)]) intTypes).bare) (selB d.toNat a.toNat b.toNat)

/-- AND RADISH (R120). -/
def execAndBitsRadish (w : BitVec 13) (d : VReg) (a : VReg) (b : VReg) (s : State) : Host.Outcome State Fault Refusal :=
  issue s (Info.vec 0x3E (some w) true (dab d a b) intTypes) (intB andOp d.toNat a.toNat b.toNat)

/-- OR RADISH (R120). -/
def execOrBitsRadish (w : BitVec 13) (d : VReg) (a : VReg) (b : VReg) (s : State) : Host.Outcome State Fault Refusal :=
  issue s (Info.vec 0x3F (some w) true (dab d a b) intTypes) (intB orOp d.toNat a.toNat b.toNat)

/-- XOR RADISH (R120). -/
def execXorBitsRadish (w : BitVec 13) (d : VReg) (a : VReg) (b : VReg) (s : State) : Host.Outcome State Fault Refusal :=
  issue s (Info.vec 0x40 (some w) true (dab d a b) intTypes) (intB xorOp d.toNat a.toNat b.toNat)

/-- NOT RADISH (R120). -/
def execNotBitsRadish (w : BitVec 13) (d : VReg) (a : VReg) (s : State) : Host.Outcome State Fault Refusal :=
  issue s (Info.vec 0x41 (some w) true (da d a) intTypes) (intB notOp d.toNat a.toNat a.toNat)

/-- SHL RADISH (R120). -/
def execShlRadish (w : BitVec 13) (d : VReg) (a : VReg) (b : VReg) (s : State) : Host.Outcome State Fault Refusal :=
  issue s (Info.vec 0x42 (some w) true (dab d a b) intTypes) (intB shlOp d.toNat a.toNat b.toNat)

/-- SHR RADISH (R120). -/
def execShrRadish (w : BitVec 13) (d : VReg) (a : VReg) (b : VReg) (s : State) : Host.Outcome State Fault Refusal :=
  issue s (Info.vec 0x43 (some w) true (dab d a b) intTypes) (intB shrOp d.toNat a.toNat b.toNat)

/-- SAR RADISH (R120). -/
def execSarRadish (w : BitVec 13) (d : VReg) (a : VReg) (b : VReg) (s : State) : Host.Outcome State Fault Refusal :=
  issue s (Info.vec 0x44 (some w) true (dab d a b) intTypes) (intB sarOp d.toNat a.toNat b.toNat)

/-- ROTL RADISH (R120). -/
def execRotlRadish (w : BitVec 13) (d : VReg) (a : VReg) (b : VReg) (s : State) : Host.Outcome State Fault Refusal :=
  issue s (Info.vec 0x45 (some w) true (dab d a b) intTypes) (intB rotlOp d.toNat a.toNat b.toNat)

/-- POPC RADISH (R120). -/
def execPopcRadish (w : BitVec 13) (d : VReg) (a : VReg) (s : State) : Host.Outcome State Fault Refusal :=
  issue s (Info.vec 0x46 (some w) true (da d a) intTypes) (intB popcOp d.toNat a.toNat a.toNat)

/-- CLZ RADISH (R120). -/
def execClzRadish (w : BitVec 13) (d : VReg) (a : VReg) (s : State) : Host.Outcome State Fault Refusal :=
  issue s (Info.vec 0x47 (some w) true (da d a) intTypes) (intB clzOp d.toNat a.toNat a.toNat)

/-- CTZ RADISH (R120). -/
def execCtzRadish (w : BitVec 13) (d : VReg) (a : VReg) (s : State) : Host.Outcome State Fault Refusal :=
  issue s (Info.vec 0x48 (some w) true (da d a) intTypes) (intB ctzOp d.toNat a.toNat a.toNat)

/-- BREV RADISH (R120). -/
def execBrevRadish (w : BitVec 13) (d : VReg) (a : VReg) (s : State) : Host.Outcome State Fault Refusal :=
  issue s (Info.vec 0x49 (some w) true (da d a) intTypes) (intB brevOp d.toNat a.toNat a.toNat)

/-- BFE RADISH (R120). -/
def execBfeRadish (w : BitVec 13) (d : VReg) (a : VReg) (b : VReg) (s : State) : Host.Outcome State Fault Refusal :=
  issue s (Info.vec 0x4A (some w) true (dab d a b) intTypes) (fieldB bfeOp d.toNat a.toNat b.toNat)

/-- BFI RADISH (R120). -/
def execBfiRadish (w : BitVec 13) (d : VReg) (a : VReg) (b : VReg) (s : State) : Host.Outcome State Fault Refusal :=
  issue s (Info.vec 0x4B (some w) true (dabOld d a b) intTypes) (fieldB bfiOp d.toNat a.toNat b.toNat)

/-- MOV RADISH (R121). -/
def execMovLaneRadish (w : BitVec 13) (d : VReg) (a : VReg) (s : State) : Host.Outcome State Fault Refusal :=
  issue s (Info.vec 0x4C (some w) true (da d a) intTypes) (intB movOp d.toNat a.toNat a.toNat)

/-- MOVI RADISH (R121). -/
def execMoviRadish (w : BitVec 13) (d : VReg) (i : RImm) (s : State) : Host.Outcome State Fault Refusal :=
  issue s (((Info.vec 0x4D (some w) (rimmOk i) (fun ty => [wV d (regsOf ty)]) intTypes).withImm (.rad i) anyImm).wideUnder is64) (moviB d.toNat)

/-- LEA RADISH (R121). -/
def execLeaRadish (w : BitVec 13) (d : VReg) (k : VReg) (b : BitVec 3) (off : RImm) (s : State) : Host.Outcome State Fault Refusal :=
  issue s ((Info.vec 0x4E (some w) (evenReg d.toNat && rimmOk off) (fun _ => wV d 2 :: rP b :: offV k) intTypes).withImm (.rad off) anyImm) (leaB d.toNat k b)

/-- IADDI RADISH (R121). -/
def execIaddiRadish (w : BitVec 13) (d : VReg) (a : VReg) (i : RImm) (s : State) : Host.Outcome State Fault Refusal :=
  issue s (((Info.vec 0x4F (some w) (rimmOk i) (da d a) intTypes).withImm (.rad i) anyImm).wideUnder is64) (iaddiB d.toNat a.toNat)

/-- SADD RADISH (R122). -/
def execSaddRadish (w : BitVec 13) (d : SReg) (a : SReg) (b : SReg) (s : State) : Host.Outcome State Fault Refusal :=
  issue s (Info.plain 0x50 (some w) true [wS d 1, rS a 1, rS b 1]) (scalB (· + ·) d a b)

/-- SSUB RADISH (R122). -/
def execSsubRadish (w : BitVec 13) (d : SReg) (a : SReg) (b : SReg) (s : State) : Host.Outcome State Fault Refusal :=
  issue s (Info.plain 0x51 (some w) true [wS d 1, rS a 1, rS b 1]) (scalB (· - ·) d a b)

/-- SMUL RADISH (R122). -/
def execSmulRadish (w : BitVec 13) (d : SReg) (a : SReg) (b : SReg) (s : State) : Host.Outcome State Fault Refusal :=
  issue s (Info.plain 0x52 (some w) true [wS d 1, rS a 1, rS b 1]) (scalB (· * ·) d a b)

/-- SAND RADISH (R122). -/
def execSandRadish (w : BitVec 13) (d : SReg) (a : SReg) (b : SReg) (s : State) : Host.Outcome State Fault Refusal :=
  issue s (Info.plain 0x53 (some w) true [wS d 1, rS a 1, rS b 1]) (scalB (· &&& ·) d a b)

/-- SOR RADISH (R122). -/
def execSorRadish (w : BitVec 13) (d : SReg) (a : SReg) (b : SReg) (s : State) : Host.Outcome State Fault Refusal :=
  issue s (Info.plain 0x54 (some w) true [wS d 1, rS a 1, rS b 1]) (scalB (· ||| ·) d a b)

/-- SXOR RADISH (R122). -/
def execSxorRadish (w : BitVec 13) (d : SReg) (a : SReg) (b : SReg) (s : State) : Host.Outcome State Fault Refusal :=
  issue s (Info.plain 0x55 (some w) true [wS d 1, rS a 1, rS b 1]) (scalB (· ^^^ ·) d a b)

/-- SSHL RADISH (R122). -/
def execSshlRadish (w : BitVec 13) (d : SReg) (a : SReg) (b : SReg) (s : State) : Host.Outcome State Fault Refusal :=
  issue s (Info.plain 0x56 (some w) true [wS d 1, rS a 1, rS b 1]) (scalB sshlOp d a b)

/-- SSHR RADISH (R122). -/
def execSshrRadish (w : BitVec 13) (d : SReg) (a : SReg) (b : SReg) (s : State) : Host.Outcome State Fault Refusal :=
  issue s (Info.plain 0x57 (some w) true [wS d 1, rS a 1, rS b 1]) (scalB sshrOp d a b)

/-- SCMP RADISH (R123). -/
def execScmpRadish (w : BitVec 13) (c : BitVec 3) (p : BitVec 3) (a : SReg) (b : SReg) (s : State) : Host.Outcome State Fault Refusal :=
  issue s (Info.plain 0x58 (some w) (c.toNat < 6) [rS a 1, rS b 1]) (scmpB c p a b)

/-- SMOV RADISH (R122). -/
def execSmovRadish (w : BitVec 13) (d : SReg) (a : SReg) (s : State) : Host.Outcome State Fault Refusal :=
  issue s (Info.plain 0x59 (some w) true [wS d 1, rS a 1]) (smovB d a)

/-- SMOVI RADISH (R122). -/
def execSmoviRadish (w : BitVec 13) (d : SReg) (i : RImm) (s : State) : Host.Outcome State Fault Refusal :=
  issue s (((Info.plain 0x5A (some w) (rimmPairOk i) [wS d (if (radPair i) then 2 else 1)]).withImm (.rad i) anyImm).wideUnder fun _ => radPair i) (smoviB (radPair i) d)

/-- SLEA RADISH (R122). -/
def execSleaRadish (w : BitVec 13) (d : SReg) (b : BitVec 3) (off : RImm) (s : State) : Host.Outcome State Fault Refusal :=
  issue s ((Info.plain 0x5B (some w) (evenReg d.toNat && rimmOk off) [wS d 2, rP b]).withImm (.rad off) anyImm) (sleaB d b)

/-- VTOS RADISH (R122). -/
def execVtosRadish (w : BitVec 13) (d : SReg) (a : VReg) (s : State) : Host.Outcome State Fault Refusal :=
  issue s (Info.plain 0x5C (some w) true [wS d 1, wV a 1]) (vtosB d a.toNat)

/-- STOV RADISH (R122). -/
def execStovRadish (w : BitVec 13) (d : VReg) (a : SReg) (s : State) : Host.Outcome State Fault Refusal :=
  issue s (Info.plain 0x5D (some w) true [wV d 1, rS a 1]) (stovB d.toNat a)

/-- SMIN RADISH (R122). -/
def execSminRadish (w : BitVec 13) (d : SReg) (a : SReg) (b : SReg) (s : State) : Host.Outcome State Fault Refusal :=
  issue s (Info.plain 0x5E (some w) true [wS d 1, rS a 1, rS b 1]) (scalB sminOp d a b)

/-- SMAX RADISH (R122). -/
def execSmaxRadish (w : BitVec 13) (d : SReg) (a : SReg) (b : SReg) (s : State) : Host.Outcome State Fault Refusal :=
  issue s (Info.plain 0x5F (some w) true [wS d 1, rS a 1, rS b 1]) (scalB smaxOp d a b)

end Sys2Proof.Machine
end

