-- ==== Sys2Proof/Machine/ExecMatrix.lean ====
section
/-! DEFINITION. The matrix-stream instructions (R183 to R197): each word of both encodings issues under its checks and has
the effect that its body gives. -/
set_option linter.all false
namespace Sys2Proof.Machine

/-- MMA 64 64 64 (R192). -/
def execMma64x64x64 (z : BitVec 8) (r : Bool) (x : BitVec 3) (m : BitVec 4) (s : State) : Host.Outcome State Fault Refusal :=
  issueMatrix s true (tilesOk z 1) (mmaB 0xE0 z.toNat r x.toNat m.toNat)

/-- MMA 64 128 64 (R192). -/
def execMma64x128x64 (z : BitVec 8) (r : Bool) (x : BitVec 3) (m : BitVec 4) (s : State) : Host.Outcome State Fault Refusal :=
  issueMatrix s true (tilesOk z 2) (mmaB 0xE1 z.toNat r x.toNat m.toNat)

/-- MMA 128 128 64 (R192). -/
def execMma128x128x64 (z : BitVec 8) (r : Bool) (x : BitVec 3) (m : BitVec 4) (s : State) : Host.Outcome State Fault Refusal :=
  issueMatrix s true (tilesOk z 4) (mmaB 0xE2 z.toNat r x.toNat m.toNat)

/-- MMA 128 64 128 (R192). -/
def execMma128x64x128 (z : BitVec 8) (r : Bool) (x : BitVec 3) (m : BitVec 4) (s : State) : Host.Outcome State Fault Refusal :=
  issueMatrix s true (tilesOk z 2) (mmaB 0xE3 z.toNat r x.toNat m.toNat)

/-- FBSET (R187). -/
def execFbset (m : BitVec 4) (s : State) : Host.Outcome State Fault Refusal :=
  issueMatrix s true noTiles (fbsetB m.toNat)

/-- XLD (R188). -/
def execXld (x : BitVec 3) (m : BitVec 4) (s : State) : Host.Outcome State Fault Refusal :=
  issueMatrix s true noTiles (xldB x.toNat m.toNat)

/-- XLDR (R188). -/
def execXldr (x : BitVec 3) (m : BitVec 4) (s : State) : Host.Outcome State Fault Refusal :=
  issueMatrix s true noTiles (xldrB x.toNat m.toNat)

/-- ZCLR (R195). -/
def execZclr (z : BitVec 8) (m : BitVec 4) (s : State) : Host.Outcome State Fault Refusal :=
  issueMatrix s true (tilesOk z 1) (zclrB z.toNat m.toNat)

/-- ZCVT (R197). -/
def execZcvt (z : BitVec 8) (m : BitVec 4) (s : State) : Host.Outcome State Fault Refusal :=
  issueMatrix s true (tilesOk z 1) (zcvtB z.toNat m.toNat)

/-- ZST (R196). -/
def execZst (z : BitVec 8) (m : BitVec 4) (s : State) : Host.Outcome State Fault Refusal :=
  issueMatrix s true (tilesOk z 1) (zstB z.toNat m.toNat)

/-- ZLD (R196). -/
def execZld (z : BitVec 8) (m : BitVec 4) (s : State) : Host.Outcome State Fault Refusal :=
  issueMatrix s true (tilesOk z 1) (zldB z.toNat m.toNat)

/-- ZADD (R197). -/
def execZadd (z : BitVec 8) (m : BitVec 4) (s : State) : Host.Outcome State Fault Refusal :=
  issueMatrix s true (tilesOk z 1) (zaddB z.toNat m.toNat)

/-- ZSCL (R197). -/
def execZscl (z : BitVec 8) (m : BitVec 4) (s : State) : Host.Outcome State Fault Refusal :=
  issueMatrix s true (tilesOk z 1) (zsclB z.toNat m.toNat)

end Sys2Proof.Machine
end

