-- ==== Sys2Proof/Machine/ExecMemory.lean ====
section
/-! DEFINITION. The memory instructions (R149 to R166): each word of both encodings issues under its checks and has
the effect that its body gives. -/
set_option linter.all false
namespace Sys2Proof.Machine

/-- LD (R149). -/
def execLdGlobal (d : VReg) (k : VReg) (sc : BitVec 3) (o : BitVec 2) (b : BitVec 3) (s : State) : Host.Outcome State Fault Refusal :=
  issue s ((Info.vec 0xA0 none (sc.toNat < 6) (memU k b (ldData d)) memTypes).withImm .off anyImm) (loadB false d k sc o b)

/-- ST (R149). -/
def execStGlobal (d : VReg) (k : VReg) (sc : BitVec 3) (o : BitVec 2) (b : BitVec 3) (s : State) : Host.Outcome State Fault Refusal :=
  issue s ((Info.vec 0xA1 none (sc.toNat < 6) (memU k b (stData d)) memTypes).withImm .off anyImm) (stB d k sc o b)

/-- LDX (R150). -/
def execLdx (d : VReg) (k : VReg) (sc : BitVec 3) (o : BitVec 2) (b : BitVec 3) (s : State) : Host.Outcome State Fault Refusal :=
  issue s ((Info.vec 0xA2 none (sc.toNat < 6) (memU k b (ldData d)) extTypes).withImm .off anyImm) (loadB true d k sc o b)

/-- STX (R150). -/
def execStx (d : VReg) (k : VReg) (sc : BitVec 3) (o : BitVec 2) (b : BitVec 3) (s : State) : Host.Outcome State Fault Refusal :=
  issue s ((Info.vec 0xA3 none (sc.toNat < 6) (memU k b (stData d)) extTypes).withImm .off anyImm) (stxB d k sc o b)

/-- LDS (R151). -/
def execLds (d : VReg) (k : VReg) (s : State) : Host.Outcome State Fault Refusal :=
  issue s ((Info.vec 0xA4 none true (fun ty => wV d (regsOf ty) :: offV k) lsTypes).withImm .off anyImm) (ldsB d k)

/-- STS (R151). -/
def execSts (d : VReg) (k : VReg) (s : State) : Host.Outcome State Fault Refusal :=
  issue s ((Info.vec 0xA5 none true (fun ty => rV d (regsOf ty) :: offV k) lsTypes).withImm .off anyImm) (stsB d k)

/-- LDP (R151). -/
def execLdp (d : VReg) (k : VReg) (s : State) : Host.Outcome State Fault Refusal :=
  issue s ((Info.vec 0xA6 none true (fun ty => wV d (regsOf ty) :: offV k) lsTypes).withImm .off anyImm) (ldpB d k)

/-- STP (R151). -/
def execStp (d : VReg) (k : VReg) (s : State) : Host.Outcome State Fault Refusal :=
  issue s ((Info.vec 0xA7 none true (fun ty => rV d (regsOf ty) :: offV k) lsTypes).withImm .off anyImm) (stpB d k)

/-- STN (R153). -/
def execStn (d : VReg) (k : VReg) (sc : BitVec 3) (o : BitVec 2) (b : BitVec 3) (s : State) : Host.Outcome State Fault Refusal :=
  issue s ((Info.vec 0xA8 none (sc.toNat < 6) (memU k b (stData d)) memTypes).withImm .off anyImm) (stnB d k sc o b)

/-- SRSET (R152). -/
def execSrset (k : SReg) (s : State) : Host.Outcome State Fault Refusal :=
  issue s (Info.plain 0xA9 none true [rS k 1]) (srsetB k)

/-- ATADD (R156). -/
def execAtadd (d : VReg) (k : VReg) (sc : BitVec 3) (o : BitVec 2) (b : BitVec 3) (s : State) : Host.Outcome State Fault Refusal :=
  issue s ((Info.vec 0xAA none (sc.toNat < 6) (memU k b (stData d)) addTypes).withImm .off anyImm) (atomicB 0 d k sc o b)

/-- ATMIN (R156). -/
def execAtmin (d : VReg) (k : VReg) (sc : BitVec 3) (o : BitVec 2) (b : BitVec 3) (s : State) : Host.Outcome State Fault Refusal :=
  issue s ((Info.vec 0xAB none (sc.toNat < 6) (memU k b (stData d)) minTypes).withImm .off anyImm) (atomicB 1 d k sc o b)

/-- ATMAX (R156). -/
def execAtmax (d : VReg) (k : VReg) (sc : BitVec 3) (o : BitVec 2) (b : BitVec 3) (s : State) : Host.Outcome State Fault Refusal :=
  issue s ((Info.vec 0xAC none (sc.toNat < 6) (memU k b (stData d)) minTypes).withImm .off anyImm) (atomicB 2 d k sc o b)

/-- ATAND (R156). -/
def execAtand (d : VReg) (k : VReg) (sc : BitVec 3) (o : BitVec 2) (b : BitVec 3) (s : State) : Host.Outcome State Fault Refusal :=
  issue s ((Info.vec 0xAD none (sc.toNat < 6) (memU k b (stData d)) logicTypes).withImm .off anyImm) (atomicB 3 d k sc o b)

/-- ATOR (R156). -/
def execAtor (d : VReg) (k : VReg) (sc : BitVec 3) (o : BitVec 2) (b : BitVec 3) (s : State) : Host.Outcome State Fault Refusal :=
  issue s ((Info.vec 0xAE none (sc.toNat < 6) (memU k b (stData d)) logicTypes).withImm .off anyImm) (atomicB 4 d k sc o b)

/-- ATXOR (R156). -/
def execAtxor (d : VReg) (k : VReg) (sc : BitVec 3) (o : BitVec 2) (b : BitVec 3) (s : State) : Host.Outcome State Fault Refusal :=
  issue s ((Info.vec 0xAF none (sc.toNat < 6) (memU k b (stData d)) logicTypes).withImm .off anyImm) (atomicB 5 d k sc o b)

/-- ATXCH (R156). -/
def execAtxch (d : VReg) (k : VReg) (sc : BitVec 3) (o : BitVec 2) (b : BitVec 3) (s : State) : Host.Outcome State Fault Refusal :=
  issue s ((Info.vec 0xB0 none (sc.toNat < 6) (memU k b (stData d)) xchTypes).withImm .off anyImm) (atomicB 6 d k sc o b)

/-- ATCAS (R156). -/
def execAtcas (d : VReg) (k : VReg) (sc : BitVec 3) (o : BitVec 2) (b : BitVec 3) (s : State) : Host.Outcome State Fault Refusal :=
  issue s ((Info.vec 0xB1 none (evenReg d.toNat && sc.toNat < 6) (memU k b (casData d)) xchTypes).withImm .off anyImm) (atomicB 7 d k sc o b)

/-- REDADD (R156). -/
def execRedadd (d : VReg) (k : VReg) (sc : BitVec 3) (o : BitVec 2) (b : BitVec 3) (s : State) : Host.Outcome State Fault Refusal :=
  issue s ((Info.vec 0xB2 none (sc.toNat < 6) (memU k b (stData d)) addTypes).withImm .off anyImm) (reduceB 0 d k sc o b)

/-- REDMIN (R156). -/
def execRedmin (d : VReg) (k : VReg) (sc : BitVec 3) (o : BitVec 2) (b : BitVec 3) (s : State) : Host.Outcome State Fault Refusal :=
  issue s ((Info.vec 0xB3 none (sc.toNat < 6) (memU k b (stData d)) minTypes).withImm .off anyImm) (reduceB 1 d k sc o b)

/-- REDMAX (R156). -/
def execRedmax (d : VReg) (k : VReg) (sc : BitVec 3) (o : BitVec 2) (b : BitVec 3) (s : State) : Host.Outcome State Fault Refusal :=
  issue s ((Info.vec 0xB4 none (sc.toNat < 6) (memU k b (stData d)) minTypes).withImm .off anyImm) (reduceB 2 d k sc o b)

/-- FENCE (R157). -/
def execFence (sc : BitVec 3) (o : BitVec 2) (seq : Bool) (s : State) : Host.Outcome State Fault Refusal :=
  issue s (Info.plain 0xB5 none (sc.toNat < 6 && (!seq || o == 3)) []) (fenceB sc o seq)

/-- OFENCE (R158). -/
def execOfence (sc : BitVec 3) (o : BitVec 2) (b : BitVec 3) (s : State) : Host.Outcome State Fault Refusal :=
  issue s (Info.plain 0xB6 none (sc.toNat < 6) [rP b]) (ofenceB sc o b)

/-- RFLUSH (R159). -/
def execRflush (n : SReg) (b : BitVec 3) (s : State) : Host.Outcome State Fault Refusal :=
  issue s ((Info.plain 0xB7 none true [rS n 1, rP b]).withImm .off anyImm) (rangeB 0 n b)

/-- RINV (R159). -/
def execRinv (n : SReg) (b : BitVec 3) (s : State) : Host.Outcome State Fault Refusal :=
  issue s ((Info.plain 0xB8 none true [rS n 1, rP b]).withImm .off anyImm) (rangeB 1 n b)

/-- PFETCH (R160). -/
def execPfetch (k : VReg) (b : BitVec 3) (s : State) : Host.Outcome State Fault Refusal :=
  issue s ((Info.plain 0xB9 none true (rP b :: offV k)).withImm .off anyImm) (pfetchB k b)

/-- LOCATE (R161). -/
def execLocate (k : VReg) (b : BitVec 3) (s : State) : Host.Outcome State Fault Refusal :=
  issue s ((Info.plain 0xBA none true (rP b :: offV k)).withImm .off anyImm) (locateB k b)

/-- REPARK (R159). -/
def execRepark (n : SReg) (b : BitVec 3) (s : State) : Host.Outcome State Fault Refusal :=
  issue s ((Info.plain 0xBB none true [rS n 1, rP b]).withImm .off anyImm) (rangeB 2 n b)

/-- UNPARK (R159). -/
def execUnpark (n : SReg) (b : BitVec 3) (s : State) : Host.Outcome State Fault Refusal :=
  issue s ((Info.plain 0xBC none true [rS n 1, rP b]).withImm .off anyImm) (rangeB 3 n b)

/-- OBJDEF (R163). -/
def execObjdef (n : SReg) (b : BitVec 3) (s : State) : Host.Outcome State Fault Refusal :=
  issue s (Info.plain 0xBD none true [wS n 1, rP b]) (objdefB n b)

/-- OBJDEL (R164). -/
def execObjdel (n : SReg) (s : State) : Host.Outcome State Fault Refusal :=
  issue s (Info.plain 0xBE none true [rS n 1]) (objdelB n)

/-- PCOMMIT (R165). -/
def execPcommit (n : SReg) (b : BitVec 3) (s : State) : Host.Outcome State Fault Refusal :=
  issue s ((Info.plain 0xC0 none true [rS n 1, rP b]).withImm .off anyImm) (tileB 0xC0 n b)

/-- PDECOMMIT (R165). -/
def execPdecommit (n : SReg) (b : BitVec 3) (s : State) : Host.Outcome State Fault Refusal :=
  issue s ((Info.plain 0xC1 none true [rS n 1, rP b]).withImm .off anyImm) (tileB 0xC1 n b)

/-- ALLOC (R166). -/
def execAllocBlock (n : SReg) (s : State) : Host.Outcome State Fault Refusal :=
  issue s (Info.plain 0xC2 none (evenReg n.toNat) [rS n 1, wS n 2]) (allocB n)

/-- FREE (R166). -/
def execFreeBlock (n : SReg) (s : State) : Host.Outcome State Fault Refusal :=
  issue s (Info.plain 0xC3 none (evenReg n.toNat) [rS n 2]) (freeB n)

/-- PQUERY (R165). -/
def execPquery (n : SReg) (b : BitVec 3) (s : State) : Host.Outcome State Fault Refusal :=
  issue s ((Info.plain 0xC4 none true [wS n 1, rP b]).withImm .off anyImm) (tileB 0xC4 n b)

/-- LD RADISH (R149). -/
def execLdGlobalRadish (w : BitVec 13) (d : VReg) (k : VReg) (sc : BitVec 3) (o : BitVec 2) (b : BitVec 3) (off : RImm) (s : State) : Host.Outcome State Fault Refusal :=
  issue s ((Info.vec 0xA0 (some w) (sc.toNat < 6 && rimmOk off) (memU k b (ldData d)) memTypes).withImm (.rad off) anyImm) (loadB false d k sc o b)

/-- ST RADISH (R149). -/
def execStGlobalRadish (w : BitVec 13) (d : VReg) (k : VReg) (sc : BitVec 3) (o : BitVec 2) (b : BitVec 3) (off : RImm) (s : State) : Host.Outcome State Fault Refusal :=
  issue s ((Info.vec 0xA1 (some w) (sc.toNat < 6 && rimmOk off) (memU k b (stData d)) memTypes).withImm (.rad off) anyImm) (stB d k sc o b)

/-- LDX RADISH (R150). -/
def execLdxRadish (w : BitVec 13) (d : VReg) (k : VReg) (sc : BitVec 3) (o : BitVec 2) (b : BitVec 3) (off : RImm) (s : State) : Host.Outcome State Fault Refusal :=
  issue s ((Info.vec 0xA2 (some w) (sc.toNat < 6 && rimmOk off) (memU k b (ldData d)) extTypes).withImm (.rad off) anyImm) (loadB true d k sc o b)

/-- STX RADISH (R150). -/
def execStxRadish (w : BitVec 13) (d : VReg) (k : VReg) (sc : BitVec 3) (o : BitVec 2) (b : BitVec 3) (off : RImm) (s : State) : Host.Outcome State Fault Refusal :=
  issue s ((Info.vec 0xA3 (some w) (sc.toNat < 6 && rimmOk off) (memU k b (stData d)) extTypes).withImm (.rad off) anyImm) (stxB d k sc o b)

/-- LDS RADISH (R151). -/
def execLdsRadish (w : BitVec 13) (d : VReg) (k : VReg) (off : RImm) (s : State) : Host.Outcome State Fault Refusal :=
  issue s ((Info.vec 0xA4 (some w) (rimmOk off) (fun ty => wV d (regsOf ty) :: offV k) lsTypes).withImm (.rad off) anyImm) (ldsB d k)

/-- STS RADISH (R151). -/
def execStsRadish (w : BitVec 13) (d : VReg) (k : VReg) (off : RImm) (s : State) : Host.Outcome State Fault Refusal :=
  issue s ((Info.vec 0xA5 (some w) (rimmOk off) (fun ty => rV d (regsOf ty) :: offV k) lsTypes).withImm (.rad off) anyImm) (stsB d k)

/-- LDP RADISH (R151). -/
def execLdpRadish (w : BitVec 13) (d : VReg) (k : VReg) (off : RImm) (s : State) : Host.Outcome State Fault Refusal :=
  issue s ((Info.vec 0xA6 (some w) (rimmOk off) (fun ty => wV d (regsOf ty) :: offV k) lsTypes).withImm (.rad off) anyImm) (ldpB d k)

/-- STP RADISH (R151). -/
def execStpRadish (w : BitVec 13) (d : VReg) (k : VReg) (off : RImm) (s : State) : Host.Outcome State Fault Refusal :=
  issue s ((Info.vec 0xA7 (some w) (rimmOk off) (fun ty => rV d (regsOf ty) :: offV k) lsTypes).withImm (.rad off) anyImm) (stpB d k)

/-- STN RADISH (R153). -/
def execStnRadish (w : BitVec 13) (d : VReg) (k : VReg) (sc : BitVec 3) (o : BitVec 2) (b : BitVec 3) (off : RImm) (s : State) : Host.Outcome State Fault Refusal :=
  issue s ((Info.vec 0xA8 (some w) (sc.toNat < 6 && rimmOk off) (memU k b (stData d)) memTypes).withImm (.rad off) anyImm) (stnB d k sc o b)

/-- SRSET RADISH (R152). -/
def execSrsetRadish (w : BitVec 13) (k : SReg) (s : State) : Host.Outcome State Fault Refusal :=
  issue s (Info.plain 0xA9 (some w) true [rS k 1]) (srsetB k)

/-- ATADD RADISH (R156). -/
def execAtaddRadish (w : BitVec 13) (d : VReg) (k : VReg) (sc : BitVec 3) (o : BitVec 2) (b : BitVec 3) (off : RImm) (s : State) : Host.Outcome State Fault Refusal :=
  issue s ((Info.vec 0xAA (some w) (sc.toNat < 6 && rimmOk off) (memU k b (stData d)) addTypes).withImm (.rad off) anyImm) (atomicB 0 d k sc o b)

/-- ATMIN RADISH (R156). -/
def execAtminRadish (w : BitVec 13) (d : VReg) (k : VReg) (sc : BitVec 3) (o : BitVec 2) (b : BitVec 3) (off : RImm) (s : State) : Host.Outcome State Fault Refusal :=
  issue s ((Info.vec 0xAB (some w) (sc.toNat < 6 && rimmOk off) (memU k b (stData d)) minTypes).withImm (.rad off) anyImm) (atomicB 1 d k sc o b)

/-- ATMAX RADISH (R156). -/
def execAtmaxRadish (w : BitVec 13) (d : VReg) (k : VReg) (sc : BitVec 3) (o : BitVec 2) (b : BitVec 3) (off : RImm) (s : State) : Host.Outcome State Fault Refusal :=
  issue s ((Info.vec 0xAC (some w) (sc.toNat < 6 && rimmOk off) (memU k b (stData d)) minTypes).withImm (.rad off) anyImm) (atomicB 2 d k sc o b)

/-- ATAND RADISH (R156). -/
def execAtandRadish (w : BitVec 13) (d : VReg) (k : VReg) (sc : BitVec 3) (o : BitVec 2) (b : BitVec 3) (off : RImm) (s : State) : Host.Outcome State Fault Refusal :=
  issue s ((Info.vec 0xAD (some w) (sc.toNat < 6 && rimmOk off) (memU k b (stData d)) logicTypes).withImm (.rad off) anyImm) (atomicB 3 d k sc o b)

/-- ATOR RADISH (R156). -/
def execAtorRadish (w : BitVec 13) (d : VReg) (k : VReg) (sc : BitVec 3) (o : BitVec 2) (b : BitVec 3) (off : RImm) (s : State) : Host.Outcome State Fault Refusal :=
  issue s ((Info.vec 0xAE (some w) (sc.toNat < 6 && rimmOk off) (memU k b (stData d)) logicTypes).withImm (.rad off) anyImm) (atomicB 4 d k sc o b)

/-- ATXOR RADISH (R156). -/
def execAtxorRadish (w : BitVec 13) (d : VReg) (k : VReg) (sc : BitVec 3) (o : BitVec 2) (b : BitVec 3) (off : RImm) (s : State) : Host.Outcome State Fault Refusal :=
  issue s ((Info.vec 0xAF (some w) (sc.toNat < 6 && rimmOk off) (memU k b (stData d)) logicTypes).withImm (.rad off) anyImm) (atomicB 5 d k sc o b)

/-- ATXCH RADISH (R156). -/
def execAtxchRadish (w : BitVec 13) (d : VReg) (k : VReg) (sc : BitVec 3) (o : BitVec 2) (b : BitVec 3) (off : RImm) (s : State) : Host.Outcome State Fault Refusal :=
  issue s ((Info.vec 0xB0 (some w) (sc.toNat < 6 && rimmOk off) (memU k b (stData d)) xchTypes).withImm (.rad off) anyImm) (atomicB 6 d k sc o b)

/-- ATCAS RADISH (R156). -/
def execAtcasRadish (w : BitVec 13) (d : VReg) (k : VReg) (sc : BitVec 3) (o : BitVec 2) (b : BitVec 3) (off : RImm) (s : State) : Host.Outcome State Fault Refusal :=
  issue s ((Info.vec 0xB1 (some w) (evenReg d.toNat && sc.toNat < 6 && rimmOk off) (memU k b (casData d)) xchTypes).withImm (.rad off) anyImm) (atomicB 7 d k sc o b)

/-- REDADD RADISH (R156). -/
def execRedaddRadish (w : BitVec 13) (d : VReg) (k : VReg) (sc : BitVec 3) (o : BitVec 2) (b : BitVec 3) (off : RImm) (s : State) : Host.Outcome State Fault Refusal :=
  issue s ((Info.vec 0xB2 (some w) (sc.toNat < 6 && rimmOk off) (memU k b (stData d)) addTypes).withImm (.rad off) anyImm) (reduceB 0 d k sc o b)

/-- REDMIN RADISH (R156). -/
def execRedminRadish (w : BitVec 13) (d : VReg) (k : VReg) (sc : BitVec 3) (o : BitVec 2) (b : BitVec 3) (off : RImm) (s : State) : Host.Outcome State Fault Refusal :=
  issue s ((Info.vec 0xB3 (some w) (sc.toNat < 6 && rimmOk off) (memU k b (stData d)) minTypes).withImm (.rad off) anyImm) (reduceB 1 d k sc o b)

/-- REDMAX RADISH (R156). -/
def execRedmaxRadish (w : BitVec 13) (d : VReg) (k : VReg) (sc : BitVec 3) (o : BitVec 2) (b : BitVec 3) (off : RImm) (s : State) : Host.Outcome State Fault Refusal :=
  issue s ((Info.vec 0xB4 (some w) (sc.toNat < 6 && rimmOk off) (memU k b (stData d)) minTypes).withImm (.rad off) anyImm) (reduceB 2 d k sc o b)

/-- FENCE RADISH (R157). -/
def execFenceRadish (w : BitVec 13) (sc : BitVec 3) (o : BitVec 2) (seq : Bool) (s : State) : Host.Outcome State Fault Refusal :=
  issue s (Info.plain 0xB5 (some w) (sc.toNat < 6 && (!seq || o == 3)) []) (fenceB sc o seq)

/-- OFENCE RADISH (R158). -/
def execOfenceRadish (w : BitVec 13) (sc : BitVec 3) (o : BitVec 2) (b : BitVec 3) (s : State) : Host.Outcome State Fault Refusal :=
  issue s (Info.plain 0xB6 (some w) (sc.toNat < 6) [rP b]) (ofenceB sc o b)

/-- RFLUSH RADISH (R159). -/
def execRflushRadish (w : BitVec 13) (n : SReg) (b : BitVec 3) (off : RImm) (s : State) : Host.Outcome State Fault Refusal :=
  issue s ((Info.plain 0xB7 (some w) (rimmOk off) [rS n 1, rP b]).withImm (.rad off) anyImm) (rangeB 0 n b)

/-- RINV RADISH (R159). -/
def execRinvRadish (w : BitVec 13) (n : SReg) (b : BitVec 3) (off : RImm) (s : State) : Host.Outcome State Fault Refusal :=
  issue s ((Info.plain 0xB8 (some w) (rimmOk off) [rS n 1, rP b]).withImm (.rad off) anyImm) (rangeB 1 n b)

/-- PFETCH RADISH (R160). -/
def execPfetchRadish (w : BitVec 13) (k : VReg) (b : BitVec 3) (off : RImm) (s : State) : Host.Outcome State Fault Refusal :=
  issue s ((Info.plain 0xB9 (some w) (rimmOk off) (rP b :: offV k)).withImm (.rad off) anyImm) (pfetchB k b)

/-- LOCATE RADISH (R161). -/
def execLocateRadish (w : BitVec 13) (k : VReg) (b : BitVec 3) (off : RImm) (s : State) : Host.Outcome State Fault Refusal :=
  issue s ((Info.plain 0xBA (some w) (rimmOk off) (rP b :: offV k)).withImm (.rad off) anyImm) (locateB k b)

/-- REPARK RADISH (R159). -/
def execReparkRadish (w : BitVec 13) (n : SReg) (b : BitVec 3) (off : RImm) (s : State) : Host.Outcome State Fault Refusal :=
  issue s ((Info.plain 0xBB (some w) (rimmOk off) [rS n 1, rP b]).withImm (.rad off) anyImm) (rangeB 2 n b)

/-- UNPARK RADISH (R159). -/
def execUnparkRadish (w : BitVec 13) (n : SReg) (b : BitVec 3) (off : RImm) (s : State) : Host.Outcome State Fault Refusal :=
  issue s ((Info.plain 0xBC (some w) (rimmOk off) [rS n 1, rP b]).withImm (.rad off) anyImm) (rangeB 3 n b)

/-- OBJDEF RADISH (R163). -/
def execObjdefRadish (w : BitVec 13) (n : SReg) (b : BitVec 3) (s : State) : Host.Outcome State Fault Refusal :=
  issue s (Info.plain 0xBD (some w) true [wS n 1, rP b]) (objdefB n b)

/-- OBJDEL RADISH (R164). -/
def execObjdelRadish (w : BitVec 13) (n : SReg) (s : State) : Host.Outcome State Fault Refusal :=
  issue s (Info.plain 0xBE (some w) true [rS n 1]) (objdelB n)

/-- PCOMMIT RADISH (R165). -/
def execPcommitRadish (w : BitVec 13) (n : SReg) (b : BitVec 3) (off : RImm) (s : State) : Host.Outcome State Fault Refusal :=
  issue s ((Info.plain 0xC0 (some w) (rimmOk off) [rS n 1, rP b]).withImm (.rad off) anyImm) (tileB 0xC0 n b)

/-- PDECOMMIT RADISH (R165). -/
def execPdecommitRadish (w : BitVec 13) (n : SReg) (b : BitVec 3) (off : RImm) (s : State) : Host.Outcome State Fault Refusal :=
  issue s ((Info.plain 0xC1 (some w) (rimmOk off) [rS n 1, rP b]).withImm (.rad off) anyImm) (tileB 0xC1 n b)

/-- ALLOC RADISH (R166). -/
def execAllocBlockRadish (w : BitVec 13) (n : SReg) (s : State) : Host.Outcome State Fault Refusal :=
  issue s (Info.plain 0xC2 (some w) (evenReg n.toNat) [rS n 1, wS n 2]) (allocB n)

/-- FREE RADISH (R166). -/
def execFreeBlockRadish (w : BitVec 13) (n : SReg) (s : State) : Host.Outcome State Fault Refusal :=
  issue s (Info.plain 0xC3 (some w) (evenReg n.toNat) [rS n 2]) (freeB n)

/-- PQUERY RADISH (R165). -/
def execPqueryRadish (w : BitVec 13) (n : SReg) (b : BitVec 3) (off : RImm) (s : State) : Host.Outcome State Fault Refusal :=
  issue s ((Info.plain 0xC4 (some w) (rimmOk off) [wS n 1, rP b]).withImm (.rad off) anyImm) (tileB 0xC4 n b)

end Sys2Proof.Machine
end

