-- ==== Sys2Proof/Machine/Dispatch.lean ====
section
/-! DEFINITION. One arm per instruction: a direct call of its meaning. -/
namespace Sys2Proof.Machine

/-- The meaning of every instruction. -/
def exec (i : Instr) (s : State) : Host.Outcome State Fault Refusal :=
  match i with
  | .nop => Sys2Proof.Machine.execNop s
  | .setm m => Sys2Proof.Machine.execSetm m s
  | .setms k => Sys2Proof.Machine.execSetms k s
  | .getm k => Sys2Proof.Machine.execGetm k s
  | .bra h off => Sys2Proof.Machine.execBra h off s
  | .brd h p inv off => Sys2Proof.Machine.execBrd h p inv off s
  | .brx h v tbl => Sys2Proof.Machine.execBrx h v tbl s
  | .callAddr b off => Sys2Proof.Machine.execCallAddr b off s
  | .ret b => Sys2Proof.Machine.execRet b s
  | .markJoin off => Sys2Proof.Machine.execMarkJoin off s
  | .joinFrags => Sys2Proof.Machine.execJoinFrags s
  | .ppush p => Sys2Proof.Machine.execPpush p s
  | .pinv => Sys2Proof.Machine.execPinv s
  | .ppop => Sys2Proof.Machine.execPpop s
  | .emrd k => Sys2Proof.Machine.execEmrd k s
  | .emwr k => Sys2Proof.Machine.execEmwr k s
  | .waitc a b c d => Sys2Proof.Machine.execWaitc a b c d s
  | .cbatch => Sys2Proof.Machine.execCbatch s
  | .waitb n => Sys2Proof.Machine.execWaitb n s
  | .bar c ix => Sys2Proof.Machine.execBar c ix s
  | .bara c ix => Sys2Proof.Machine.execBara c ix s
  | .barw c ix => Sys2Proof.Machine.execBarw c ix s
  | .drain c ix => Sys2Proof.Machine.execDrain c ix s
  | .eqp n => Sys2Proof.Machine.execEqp n s
  | .migrTeam cls n => Sys2Proof.Machine.execMigrTeam cls n s
  | .rolesw ix => Sys2Proof.Machine.execRolesw ix s
  | .yieldIssue => Sys2Proof.Machine.execYieldIssue s
  | .exitFrag => Sys2Proof.Machine.execExitFrag s
  | .trapCode c => Sys2Proof.Machine.execTrapCode c s
  | .xret skip => Sys2Proof.Machine.execXret skip s
  | .xrd k ix => Sys2Proof.Machine.execXrd k ix s
  | .xwr k ix => Sys2Proof.Machine.execXwr k ix s
  | .sread k ix => Sys2Proof.Machine.execSread k ix s
  | .launchQueue b => Sys2Proof.Machine.execLaunchQueue b s
  | .ifence => Sys2Proof.Machine.execIfence s
  | .cpref l off => Sys2Proof.Machine.execCpref l off s
  | .snooze n => Sys2Proof.Machine.execSnooze n s
  | .loopCount k off => Sys2Proof.Machine.execLoopCount k off s
  | .iadd d a b => Sys2Proof.Machine.execIadd d a b s
  | .isub d a b => Sys2Proof.Machine.execIsub d a b s
  | .imul d a b => Sys2Proof.Machine.execImul d a b s
  | .imulh d a b => Sys2Proof.Machine.execImulh d a b s
  | .imad d a b => Sys2Proof.Machine.execImad d a b s
  | .idiv d a b => Sys2Proof.Machine.execIdiv d a b s
  | .irem d a b => Sys2Proof.Machine.execIrem d a b s
  | .imin d a b => Sys2Proof.Machine.execImin d a b s
  | .imax d a b => Sys2Proof.Machine.execImax d a b s
  | .iabs d a => Sys2Proof.Machine.execIabs d a s
  | .ineg d a => Sys2Proof.Machine.execIneg d a s
  | .iaddc d a b => Sys2Proof.Machine.execIaddc d a b s
  | .icmp c p a b => Sys2Proof.Machine.execIcmp c p a b s
  | .selLane d a b => Sys2Proof.Machine.execSelLane d a b s
  | .andBits d a b => Sys2Proof.Machine.execAndBits d a b s
  | .orBits d a b => Sys2Proof.Machine.execOrBits d a b s
  | .xorBits d a b => Sys2Proof.Machine.execXorBits d a b s
  | .notBits d a => Sys2Proof.Machine.execNotBits d a s
  | .shl d a b => Sys2Proof.Machine.execShl d a b s
  | .shr d a b => Sys2Proof.Machine.execShr d a b s
  | .sar d a b => Sys2Proof.Machine.execSar d a b s
  | .rotl d a b => Sys2Proof.Machine.execRotl d a b s
  | .popc d a => Sys2Proof.Machine.execPopc d a s
  | .clz d a => Sys2Proof.Machine.execClz d a s
  | .ctz d a => Sys2Proof.Machine.execCtz d a s
  | .brev d a => Sys2Proof.Machine.execBrev d a s
  | .bfe d a b => Sys2Proof.Machine.execBfe d a b s
  | .bfi d a b => Sys2Proof.Machine.execBfi d a b s
  | .movLane d a => Sys2Proof.Machine.execMovLane d a s
  | .movi d ix => Sys2Proof.Machine.execMovi d ix s
  | .lea d k b => Sys2Proof.Machine.execLea d k b s
  | .iaddi d a ix => Sys2Proof.Machine.execIaddi d a ix s
  | .sadd d a b => Sys2Proof.Machine.execSadd d a b s
  | .ssub d a b => Sys2Proof.Machine.execSsub d a b s
  | .smul d a b => Sys2Proof.Machine.execSmul d a b s
  | .sand d a b => Sys2Proof.Machine.execSand d a b s
  | .sor d a b => Sys2Proof.Machine.execSor d a b s
  | .sxor d a b => Sys2Proof.Machine.execSxor d a b s
  | .sshl d a b => Sys2Proof.Machine.execSshl d a b s
  | .sshr d a b => Sys2Proof.Machine.execSshr d a b s
  | .scmp c p a b => Sys2Proof.Machine.execScmp c p a b s
  | .smov d a => Sys2Proof.Machine.execSmov d a s
  | .smovi d ix => Sys2Proof.Machine.execSmovi d ix s
  | .slea d b => Sys2Proof.Machine.execSlea d b s
  | .vtos d a => Sys2Proof.Machine.execVtos d a s
  | .stov d a => Sys2Proof.Machine.execStov d a s
  | .smin d a b => Sys2Proof.Machine.execSmin d a b s
  | .smax d a b => Sys2Proof.Machine.execSmax d a b s
  | .fadd d a b => Sys2Proof.Machine.execFadd d a b s
  | .fsub d a b => Sys2Proof.Machine.execFsub d a b s
  | .fmul d a b => Sys2Proof.Machine.execFmul d a b s
  | .ffma d a b => Sys2Proof.Machine.execFfma d a b s
  | .fmin d a b => Sys2Proof.Machine.execFmin d a b s
  | .fmax d a b => Sys2Proof.Machine.execFmax d a b s
  | .fabs d a => Sys2Proof.Machine.execFabs d a s
  | .fneg d a => Sys2Proof.Machine.execFneg d a s
  | .fcmp c p a b => Sys2Proof.Machine.execFcmp c p a b s
  | .fclass d a => Sys2Proof.Machine.execFclass d a s
  | .fdiv d a b => Sys2Proof.Machine.execFdiv d a b s
  | .fsqrt d a => Sys2Proof.Machine.execFsqrt d a s
  | .frnd d a => Sys2Proof.Machine.execFrnd d a s
  | .fldexp d a b => Sys2Proof.Machine.execFldexp d a b s
  | .fexpo d a => Sys2Proof.Machine.execFexpo d a s
  | .fsgnj d a b => Sys2Proof.Machine.execFsgnj d a b s
  | .frcp d a => Sys2Proof.Machine.execFrcp d a s
  | .frsq d a => Sys2Proof.Machine.execFrsq d a s
  | .fex2 d a => Sys2Proof.Machine.execFex2 d a s
  | .flg2 d a => Sys2Proof.Machine.execFlg2 d a s
  | .fsin d a => Sys2Proof.Machine.execFsin d a s
  | .fcos d a => Sys2Proof.Machine.execFcos d a s
  | .ftanh d a => Sys2Proof.Machine.execFtanh d a s
  | .cvt d a src => Sys2Proof.Machine.execCvt d a src s
  | .cvti d a src => Sys2Proof.Machine.execCvti d a src s
  | .pack d a b => Sys2Proof.Machine.execPack d a b s
  | .unpk d a => Sys2Proof.Machine.execUnpk d a s
  | .qhist d a b => Sys2Proof.Machine.execQhist d a b s
  | .qscale d a b => Sys2Proof.Machine.execQscale d a b s
  | .quant d a b => Sys2Proof.Machine.execQuant d a b s
  | .deq d a b => Sys2Proof.Machine.execDeq d a b s
  | .qclr d => Sys2Proof.Machine.execQclr d s
  | .shfl d a b => Sys2Proof.Machine.execShfl d a b s
  | .shflu d a ix => Sys2Proof.Machine.execShflu d a ix s
  | .shfld d a ix => Sys2Proof.Machine.execShfld d a ix s
  | .shflx d a ix => Sys2Proof.Machine.execShflx d a ix s
  | .vote d p ix => Sys2Proof.Machine.execVote d p ix s
  | .redu d a ix => Sys2Proof.Machine.execRedu d a ix s
  | .scanLanes d a ix => Sys2Proof.Machine.execScanLanes d a ix s
  | .matchLanes d a => Sys2Proof.Machine.execMatchLanes d a s
  | .bcast d a ix => Sys2Proof.Machine.execBcast d a ix s
  | .firstLane d a => Sys2Proof.Machine.execFirstLane d a s
  | .ldGlobal d k sc o b => Sys2Proof.Machine.execLdGlobal d k sc o b s
  | .stGlobal d k sc o b => Sys2Proof.Machine.execStGlobal d k sc o b s
  | .ldx d k sc o b => Sys2Proof.Machine.execLdx d k sc o b s
  | .stx d k sc o b => Sys2Proof.Machine.execStx d k sc o b s
  | .lds d k => Sys2Proof.Machine.execLds d k s
  | .sts d k => Sys2Proof.Machine.execSts d k s
  | .ldp d k => Sys2Proof.Machine.execLdp d k s
  | .stp d k => Sys2Proof.Machine.execStp d k s
  | .stn d k sc o b => Sys2Proof.Machine.execStn d k sc o b s
  | .srset k => Sys2Proof.Machine.execSrset k s
  | .atadd d k sc o b => Sys2Proof.Machine.execAtadd d k sc o b s
  | .atmin d k sc o b => Sys2Proof.Machine.execAtmin d k sc o b s
  | .atmax d k sc o b => Sys2Proof.Machine.execAtmax d k sc o b s
  | .atand d k sc o b => Sys2Proof.Machine.execAtand d k sc o b s
  | .ator d k sc o b => Sys2Proof.Machine.execAtor d k sc o b s
  | .atxor d k sc o b => Sys2Proof.Machine.execAtxor d k sc o b s
  | .atxch d k sc o b => Sys2Proof.Machine.execAtxch d k sc o b s
  | .atcas d k sc o b => Sys2Proof.Machine.execAtcas d k sc o b s
  | .redadd d k sc o b => Sys2Proof.Machine.execRedadd d k sc o b s
  | .redmin d k sc o b => Sys2Proof.Machine.execRedmin d k sc o b s
  | .redmax d k sc o b => Sys2Proof.Machine.execRedmax d k sc o b s
  | .fence sc o seq => Sys2Proof.Machine.execFence sc o seq s
  | .ofence sc o b => Sys2Proof.Machine.execOfence sc o b s
  | .rflush n b => Sys2Proof.Machine.execRflush n b s
  | .rinv n b => Sys2Proof.Machine.execRinv n b s
  | .pfetch k b => Sys2Proof.Machine.execPfetch k b s
  | .locate k b => Sys2Proof.Machine.execLocate k b s
  | .repark n b => Sys2Proof.Machine.execRepark n b s
  | .unpark n b => Sys2Proof.Machine.execUnpark n b s
  | .objdef n b => Sys2Proof.Machine.execObjdef n b s
  | .objdel n => Sys2Proof.Machine.execObjdel n s
  | .pcommit n b => Sys2Proof.Machine.execPcommit n b s
  | .pdecommit n b => Sys2Proof.Machine.execPdecommit n b s
  | .allocBlock n => Sys2Proof.Machine.execAllocBlock n s
  | .freeBlock n => Sys2Proof.Machine.execFreeBlock n s
  | .pquery n b => Sys2Proof.Machine.execPquery n b s
  | .tcopy d a b => Sys2Proof.Machine.execTcopy d a b s
  | .tcopym d a b => Sys2Proof.Machine.execTcopym d a b s
  | .chain d a => Sys2Proof.Machine.execChain d a s
  | .bbinit a b => Sys2Proof.Machine.execBbinit a b s
  | .bbexp a b => Sys2Proof.Machine.execBbexp a b s
  | .bbwait d a => Sys2Proof.Machine.execBbwait d a s
  | .bbinv a => Sys2Proof.Machine.execBbinv a s
  | .bbarr a b => Sys2Proof.Machine.execBbarr a b s
  | .rinit a => Sys2Proof.Machine.execRinit a s
  | .racq d a => Sys2Proof.Machine.execRacq d a s
  | .rpub d a b => Sys2Proof.Machine.execRpub d a b s
  | .rtake d a => Sys2Proof.Machine.execRtake d a s
  | .rdone a b => Sys2Proof.Machine.execRdone a b s
  | .rclose a => Sys2Proof.Machine.execRclose a s
  | .spush a b => Sys2Proof.Machine.execSpush a b s
  | .mma64x64x64 z r x m => Sys2Proof.Machine.execMma64x64x64 z r x m s
  | .mma64x128x64 z r x m => Sys2Proof.Machine.execMma64x128x64 z r x m s
  | .mma128x128x64 z r x m => Sys2Proof.Machine.execMma128x128x64 z r x m s
  | .mma128x64x128 z r x m => Sys2Proof.Machine.execMma128x64x128 z r x m s
  | .fbset m => Sys2Proof.Machine.execFbset m s
  | .xld x m => Sys2Proof.Machine.execXld x m s
  | .xldr x m => Sys2Proof.Machine.execXldr x m s
  | .zclr z m => Sys2Proof.Machine.execZclr z m s
  | .zcvt z m => Sys2Proof.Machine.execZcvt z m s
  | .zst z m => Sys2Proof.Machine.execZst z m s
  | .zld z m => Sys2Proof.Machine.execZld z m s
  | .zadd z m => Sys2Proof.Machine.execZadd z m s
  | .zscl z m => Sys2Proof.Machine.execZscl z m s
  | .lit wide v => Sys2Proof.Machine.execLit wide v s
  | .loadResultReturn g ch => Sys2Proof.Machine.execLoadResultReturn g ch s
  | .storeAck g ix ch => Sys2Proof.Machine.execStoreAck g ix ch s
  | .tuberAnswer g ch => Sys2Proof.Machine.execTuberAnswer g ch s
  | .objectTableAnswer g => Sys2Proof.Machine.execObjectTableAnswer g s
  | .sfuResultWrite g => Sys2Proof.Machine.execSfuResultWrite g s
  | .locateFaultDetect g f => Sys2Proof.Machine.execLocateFaultDetect g f s
  | .copyPieceTransfer c n ch => Sys2Proof.Machine.execCopyPieceTransfer c n ch s
  | .copyComplete c => Sys2Proof.Machine.execCopyComplete c s
  | .snoozeExpiry g f => Sys2Proof.Machine.execSnoozeExpiry g f s
  | .yieldExpiry g f => Sys2Proof.Machine.execYieldExpiry g f s
  | .issueAgePromotion g f => Sys2Proof.Machine.execIssueAgePromotion g f s
  | .issueSlot core seq ch => Sys2Proof.Machine.execIssueSlot core seq ch s
  | .packetAgePromotion l n => Sys2Proof.Machine.execPacketAgePromotion l n s
  | .loopSlotPass l n sl k offer => Sys2Proof.Machine.execLoopSlotPass l n sl k offer s
  | .packetArrival l sl came => Sys2Proof.Machine.execPacketArrival l sl came s
  | .lastChanceDrain l n bulk => Sys2Proof.Machine.execLastChanceDrain l n bulk s
  | .flitReceive l pkt crcOk acked => Sys2Proof.Machine.execFlitReceive l pkt crcOk acked s
  | .retransmitTimeout l pkt => Sys2Proof.Machine.execRetransmitTimeout l pkt s
  | .eccErrorDetected site => Sys2Proof.Machine.execEccErrorDetected site s
  | .collapseRequest asid va => Sys2Proof.Machine.execCollapseRequest asid va s
  | .collapseSplit asid va dev frame ch => Sys2Proof.Machine.execCollapseSplit asid va dev frame ch s
  | .collapseAck asid va dev failed => Sys2Proof.Machine.execCollapseAck asid va dev failed s
  | .launchDispatch pl back => Sys2Proof.Machine.execLaunchDispatch pl back s
  | .waitWordPoll q => Sys2Proof.Machine.execWaitWordPoll q s
  | .headReserveTimeout l => Sys2Proof.Machine.execHeadReserveTimeout l s
  | .ttRelease e => Sys2Proof.Machine.execTtRelease e s
  | .migrationDispatch core bal => Sys2Proof.Machine.execMigrationDispatch core bal s
  | .migrationAgeTimeout t => Sys2Proof.Machine.execMigrationAgeTimeout t s
  | .migrationComplete t => Sys2Proof.Machine.execMigrationComplete t s
  | .preemptHalt t => Sys2Proof.Machine.execPreemptHalt t s
  | .preemptSaveComplete t => Sys2Proof.Machine.execPreemptSaveComplete t s
  | .mailboxHeadWrite fn v => Sys2Proof.Machine.execMailboxHeadWrite fn v s
  | .mailboxCtailWrite fn v => Sys2Proof.Machine.execMailboxCtailWrite fn v s
  | .mailboxEntryTake fn => Sys2Proof.Machine.execMailboxEntryTake fn s
  | .completionWrite fn => Sys2Proof.Machine.execCompletionWrite fn s
  | .sysExit who a0 => Sys2Proof.Machine.execSysExit who a0 s
  | .sysLog who a0 a1 => Sys2Proof.Machine.execSysLog who a0 a1 s
  | .sysMap who a0 a1 a2 frames => Sys2Proof.Machine.execSysMap who a0 a1 a2 frames s
  | .sysUnmap who a0 a1 => Sys2Proof.Machine.execSysUnmap who a0 a1 s
  | .sysLaunch who a0 a1 a2 a3 dest => Sys2Proof.Machine.execSysLaunch who a0 a1 a2 a3 dest s
  | .sysWait who a0 a1 => Sys2Proof.Machine.execSysWait who a0 a1 s
  | .sysPool who a0 frames => Sys2Proof.Machine.execSysPool who a0 frames s
  | .sysTtset who a0 a1 a2 a3 => Sys2Proof.Machine.execSysTtset who a0 a1 a2 a3 s
  | .sysDtpage who va frames cut => Sys2Proof.Machine.execSysDtpage who va frames cut s
  | .sysAttest who a0 a1 => Sys2Proof.Machine.execSysAttest who a0 a1 s
  | .sysRecord who a0 a1 a2 a3 => Sys2Proof.Machine.execSysRecord who a0 a1 a2 a3 s
  | .sysWaitTimeout who => Sys2Proof.Machine.execSysWaitTimeout who s
  | .queueTableWrite q v => Sys2Proof.Machine.execQueueTableWrite q v s
  | .ttEntryWrite e v => Sys2Proof.Machine.execTtEntryWrite e v s
  | .asidDescriptorWrite a v badfree => Sys2Proof.Machine.execAsidDescriptorWrite a v badfree s
  | .poolFeed v => Sys2Proof.Machine.execPoolFeed v s
  | .invalidateGo v => Sys2Proof.Machine.execInvalidateGo v s
  | .invalidateDone => Sys2Proof.Machine.execInvalidateDone s
  | .schedPreempt => Sys2Proof.Machine.execSchedPreempt s
  | .schedRestore => Sys2Proof.Machine.execSchedRestore s
  | .schedResumeReplay => Sys2Proof.Machine.execSchedResumeReplay s
  | .schedResumeSkip => Sys2Proof.Machine.execSchedResumeSkip s
  | .schedEndLaunch => Sys2Proof.Machine.execSchedEndLaunch s
  | .schedCmdReserved c => Sys2Proof.Machine.execSchedCmdReserved c s
  | .schedCmdDone => Sys2Proof.Machine.execSchedCmdDone s
  | .faultQueueTailWrite v => Sys2Proof.Machine.execFaultQueueTailWrite v s
  | .plimWrite v => Sys2Proof.Machine.execPlimWrite v s
  | .registerWrite r v => Sys2Proof.Machine.execRegisterWrite r v s
  | .spdmRequest nonce => Sys2Proof.Machine.execSpdmRequest nonce s
  | .ptpMessage offset => Sys2Proof.Machine.execPtpMessage offset s
  | .mainSupplyOn fl => Sys2Proof.Machine.execMainSupplyOn fl s
  | .mainSupplyOff => Sys2Proof.Machine.execMainSupplyOff s
  | .idleRequest on => Sys2Proof.Machine.execIdleRequest on s
  | .idleEnter => Sys2Proof.Machine.execIdleEnter s
  | .powerOverLimit watts => Sys2Proof.Machine.execPowerOverLimit watts s
  | .junctionOver95c die temp => Sys2Proof.Machine.execJunctionOver95c die temp s
  | .thermalTrip cause => Sys2Proof.Machine.execThermalTrip cause s
  | .coolantFlowTimeout => Sys2Proof.Machine.execCoolantFlowTimeout s
  | .supplySagTrip die => Sys2Proof.Machine.execSupplySagTrip die s
  | .unlistedOpcode rad w => Sys2Proof.Machine.execUnlistedOpcode rad w s
  | .stewardCoreAccess st acc ch => Sys2Proof.Machine.execStewardCoreAccess st acc ch s
  | .shallotRequest rq => Sys2Proof.Machine.execShallotRequest rq s
  | .bundleLoad asid bd => Sys2Proof.Machine.execBundleLoad asid bd s
  | .grandmasterLost => Sys2Proof.Machine.execGrandmasterLost s
  | .powerWithinLimit watts => Sys2Proof.Machine.execPowerWithinLimit watts s
  | .junctionBelow95c temp => Sys2Proof.Machine.execJunctionBelow95c temp s
  | .supplySagClear die => Sys2Proof.Machine.execSupplySagClear die s
  | .coolantFlowChange low inlet => Sys2Proof.Machine.execCoolantFlowChange low inlet s
  | .mmaComplete t => Sys2Proof.Machine.execMmaComplete t s
  | .nopRadish w => Sys2Proof.Machine.execNopRadish w s
  | .getmRadish w k => Sys2Proof.Machine.execGetmRadish w k s
  | .braRadish w h off => Sys2Proof.Machine.execBraRadish w h off s
  | .brdRadish w h p inv off => Sys2Proof.Machine.execBrdRadish w h p inv off s
  | .brxRadish w h v tbl => Sys2Proof.Machine.execBrxRadish w h v tbl s
  | .callAddrRadish w b off => Sys2Proof.Machine.execCallAddrRadish w b off s
  | .retRadish w b => Sys2Proof.Machine.execRetRadish w b s
  | .markJoinRadish w off => Sys2Proof.Machine.execMarkJoinRadish w off s
  | .joinFragsRadish w => Sys2Proof.Machine.execJoinFragsRadish w s
  | .ppushRadish w p => Sys2Proof.Machine.execPpushRadish w p s
  | .pinvRadish w => Sys2Proof.Machine.execPinvRadish w s
  | .ppopRadish w => Sys2Proof.Machine.execPpopRadish w s
  | .emrdRadish w k => Sys2Proof.Machine.execEmrdRadish w k s
  | .emwrRadish w k => Sys2Proof.Machine.execEmwrRadish w k s
  | .waitcRadish w a b c d => Sys2Proof.Machine.execWaitcRadish w a b c d s
  | .cbatchRadish w => Sys2Proof.Machine.execCbatchRadish w s
  | .waitbRadish w n => Sys2Proof.Machine.execWaitbRadish w n s
  | .barRadish w c ix => Sys2Proof.Machine.execBarRadish w c ix s
  | .baraRadish w c ix => Sys2Proof.Machine.execBaraRadish w c ix s
  | .barwRadish w c ix => Sys2Proof.Machine.execBarwRadish w c ix s
  | .drainRadish w c ix => Sys2Proof.Machine.execDrainRadish w c ix s
  | .eqpRadish w n => Sys2Proof.Machine.execEqpRadish w n s
  | .migrTeamRadish w cls n => Sys2Proof.Machine.execMigrTeamRadish w cls n s
  | .roleswRadish w ix => Sys2Proof.Machine.execRoleswRadish w ix s
  | .yieldIssueRadish w => Sys2Proof.Machine.execYieldIssueRadish w s
  | .exitFragRadish w => Sys2Proof.Machine.execExitFragRadish w s
  | .trapCodeRadish w c => Sys2Proof.Machine.execTrapCodeRadish w c s
  | .xretRadish w skip => Sys2Proof.Machine.execXretRadish w skip s
  | .xrdRadish w k ix => Sys2Proof.Machine.execXrdRadish w k ix s
  | .xwrRadish w k ix => Sys2Proof.Machine.execXwrRadish w k ix s
  | .sreadRadish w k ix => Sys2Proof.Machine.execSreadRadish w k ix s
  | .launchQueueRadish w b => Sys2Proof.Machine.execLaunchQueueRadish w b s
  | .ifenceRadish w => Sys2Proof.Machine.execIfenceRadish w s
  | .cprefRadish w l off => Sys2Proof.Machine.execCprefRadish w l off s
  | .snoozeRadish w n => Sys2Proof.Machine.execSnoozeRadish w n s
  | .loopCountRadish w k off => Sys2Proof.Machine.execLoopCountRadish w k off s
  | .iaddRadish w d a b => Sys2Proof.Machine.execIaddRadish w d a b s
  | .isubRadish w d a b => Sys2Proof.Machine.execIsubRadish w d a b s
  | .imulRadish w d a b => Sys2Proof.Machine.execImulRadish w d a b s
  | .imulhRadish w d a b => Sys2Proof.Machine.execImulhRadish w d a b s
  | .imadRadish w d a b => Sys2Proof.Machine.execImadRadish w d a b s
  | .idivRadish w d a b => Sys2Proof.Machine.execIdivRadish w d a b s
  | .iremRadish w d a b => Sys2Proof.Machine.execIremRadish w d a b s
  | .iminRadish w d a b => Sys2Proof.Machine.execIminRadish w d a b s
  | .imaxRadish w d a b => Sys2Proof.Machine.execImaxRadish w d a b s
  | .iabsRadish w d a => Sys2Proof.Machine.execIabsRadish w d a s
  | .inegRadish w d a => Sys2Proof.Machine.execInegRadish w d a s
  | .iaddcRadish w d a b => Sys2Proof.Machine.execIaddcRadish w d a b s
  | .icmpRadish w c p a b => Sys2Proof.Machine.execIcmpRadish w c p a b s
  | .selLaneRadish w d a b => Sys2Proof.Machine.execSelLaneRadish w d a b s
  | .andBitsRadish w d a b => Sys2Proof.Machine.execAndBitsRadish w d a b s
  | .orBitsRadish w d a b => Sys2Proof.Machine.execOrBitsRadish w d a b s
  | .xorBitsRadish w d a b => Sys2Proof.Machine.execXorBitsRadish w d a b s
  | .notBitsRadish w d a => Sys2Proof.Machine.execNotBitsRadish w d a s
  | .shlRadish w d a b => Sys2Proof.Machine.execShlRadish w d a b s
  | .shrRadish w d a b => Sys2Proof.Machine.execShrRadish w d a b s
  | .sarRadish w d a b => Sys2Proof.Machine.execSarRadish w d a b s
  | .rotlRadish w d a b => Sys2Proof.Machine.execRotlRadish w d a b s
  | .popcRadish w d a => Sys2Proof.Machine.execPopcRadish w d a s
  | .clzRadish w d a => Sys2Proof.Machine.execClzRadish w d a s
  | .ctzRadish w d a => Sys2Proof.Machine.execCtzRadish w d a s
  | .brevRadish w d a => Sys2Proof.Machine.execBrevRadish w d a s
  | .bfeRadish w d a b => Sys2Proof.Machine.execBfeRadish w d a b s
  | .bfiRadish w d a b => Sys2Proof.Machine.execBfiRadish w d a b s
  | .movLaneRadish w d a => Sys2Proof.Machine.execMovLaneRadish w d a s
  | .moviRadish w d ix => Sys2Proof.Machine.execMoviRadish w d ix s
  | .leaRadish w d k b off => Sys2Proof.Machine.execLeaRadish w d k b off s
  | .iaddiRadish w d a ix => Sys2Proof.Machine.execIaddiRadish w d a ix s
  | .saddRadish w d a b => Sys2Proof.Machine.execSaddRadish w d a b s
  | .ssubRadish w d a b => Sys2Proof.Machine.execSsubRadish w d a b s
  | .smulRadish w d a b => Sys2Proof.Machine.execSmulRadish w d a b s
  | .sandRadish w d a b => Sys2Proof.Machine.execSandRadish w d a b s
  | .sorRadish w d a b => Sys2Proof.Machine.execSorRadish w d a b s
  | .sxorRadish w d a b => Sys2Proof.Machine.execSxorRadish w d a b s
  | .sshlRadish w d a b => Sys2Proof.Machine.execSshlRadish w d a b s
  | .sshrRadish w d a b => Sys2Proof.Machine.execSshrRadish w d a b s
  | .scmpRadish w c p a b => Sys2Proof.Machine.execScmpRadish w c p a b s
  | .smovRadish w d a => Sys2Proof.Machine.execSmovRadish w d a s
  | .smoviRadish w d ix => Sys2Proof.Machine.execSmoviRadish w d ix s
  | .sleaRadish w d b off => Sys2Proof.Machine.execSleaRadish w d b off s
  | .vtosRadish w d a => Sys2Proof.Machine.execVtosRadish w d a s
  | .stovRadish w d a => Sys2Proof.Machine.execStovRadish w d a s
  | .sminRadish w d a b => Sys2Proof.Machine.execSminRadish w d a b s
  | .smaxRadish w d a b => Sys2Proof.Machine.execSmaxRadish w d a b s
  | .faddRadish w d a b => Sys2Proof.Machine.execFaddRadish w d a b s
  | .fsubRadish w d a b => Sys2Proof.Machine.execFsubRadish w d a b s
  | .fmulRadish w d a b => Sys2Proof.Machine.execFmulRadish w d a b s
  | .ffmaRadish w d a b => Sys2Proof.Machine.execFfmaRadish w d a b s
  | .fminRadish w d a b => Sys2Proof.Machine.execFminRadish w d a b s
  | .fmaxRadish w d a b => Sys2Proof.Machine.execFmaxRadish w d a b s
  | .fabsRadish w d a => Sys2Proof.Machine.execFabsRadish w d a s
  | .fnegRadish w d a => Sys2Proof.Machine.execFnegRadish w d a s
  | .fcmpRadish w c p a b => Sys2Proof.Machine.execFcmpRadish w c p a b s
  | .fclassRadish w d a => Sys2Proof.Machine.execFclassRadish w d a s
  | .fdivRadish w d a b => Sys2Proof.Machine.execFdivRadish w d a b s
  | .fsqrtRadish w d a => Sys2Proof.Machine.execFsqrtRadish w d a s
  | .frndRadish w d a => Sys2Proof.Machine.execFrndRadish w d a s
  | .fldexpRadish w d a b => Sys2Proof.Machine.execFldexpRadish w d a b s
  | .fexpoRadish w d a => Sys2Proof.Machine.execFexpoRadish w d a s
  | .fsgnjRadish w d a b => Sys2Proof.Machine.execFsgnjRadish w d a b s
  | .frcpRadish w d a => Sys2Proof.Machine.execFrcpRadish w d a s
  | .frsqRadish w d a => Sys2Proof.Machine.execFrsqRadish w d a s
  | .fex2Radish w d a => Sys2Proof.Machine.execFex2Radish w d a s
  | .flg2Radish w d a => Sys2Proof.Machine.execFlg2Radish w d a s
  | .fsinRadish w d a => Sys2Proof.Machine.execFsinRadish w d a s
  | .fcosRadish w d a => Sys2Proof.Machine.execFcosRadish w d a s
  | .ftanhRadish w d a => Sys2Proof.Machine.execFtanhRadish w d a s
  | .cvtRadish w d a src => Sys2Proof.Machine.execCvtRadish w d a src s
  | .cvtiRadish w d a src => Sys2Proof.Machine.execCvtiRadish w d a src s
  | .packRadish w d a b => Sys2Proof.Machine.execPackRadish w d a b s
  | .unpkRadish w d a => Sys2Proof.Machine.execUnpkRadish w d a s
  | .qhistRadish w d a b => Sys2Proof.Machine.execQhistRadish w d a b s
  | .qscaleRadish w d a b => Sys2Proof.Machine.execQscaleRadish w d a b s
  | .quantRadish w d a b => Sys2Proof.Machine.execQuantRadish w d a b s
  | .deqRadish w d a b => Sys2Proof.Machine.execDeqRadish w d a b s
  | .qclrRadish w d => Sys2Proof.Machine.execQclrRadish w d s
  | .shflRadish w d a b => Sys2Proof.Machine.execShflRadish w d a b s
  | .shfluRadish w d a ix => Sys2Proof.Machine.execShfluRadish w d a ix s
  | .shfldRadish w d a ix => Sys2Proof.Machine.execShfldRadish w d a ix s
  | .shflxRadish w d a ix => Sys2Proof.Machine.execShflxRadish w d a ix s
  | .voteRadish w d p ix => Sys2Proof.Machine.execVoteRadish w d p ix s
  | .reduRadish w d a ix => Sys2Proof.Machine.execReduRadish w d a ix s
  | .scanLanesRadish w d a ix => Sys2Proof.Machine.execScanLanesRadish w d a ix s
  | .matchLanesRadish w d a => Sys2Proof.Machine.execMatchLanesRadish w d a s
  | .bcastRadish w d a ix => Sys2Proof.Machine.execBcastRadish w d a ix s
  | .firstLaneRadish w d a => Sys2Proof.Machine.execFirstLaneRadish w d a s
  | .ldGlobalRadish w d k sc o b off => Sys2Proof.Machine.execLdGlobalRadish w d k sc o b off s
  | .stGlobalRadish w d k sc o b off => Sys2Proof.Machine.execStGlobalRadish w d k sc o b off s
  | .ldxRadish w d k sc o b off => Sys2Proof.Machine.execLdxRadish w d k sc o b off s
  | .stxRadish w d k sc o b off => Sys2Proof.Machine.execStxRadish w d k sc o b off s
  | .ldsRadish w d k off => Sys2Proof.Machine.execLdsRadish w d k off s
  | .stsRadish w d k off => Sys2Proof.Machine.execStsRadish w d k off s
  | .ldpRadish w d k off => Sys2Proof.Machine.execLdpRadish w d k off s
  | .stpRadish w d k off => Sys2Proof.Machine.execStpRadish w d k off s
  | .stnRadish w d k sc o b off => Sys2Proof.Machine.execStnRadish w d k sc o b off s
  | .srsetRadish w k => Sys2Proof.Machine.execSrsetRadish w k s
  | .ataddRadish w d k sc o b off => Sys2Proof.Machine.execAtaddRadish w d k sc o b off s
  | .atminRadish w d k sc o b off => Sys2Proof.Machine.execAtminRadish w d k sc o b off s
  | .atmaxRadish w d k sc o b off => Sys2Proof.Machine.execAtmaxRadish w d k sc o b off s
  | .atandRadish w d k sc o b off => Sys2Proof.Machine.execAtandRadish w d k sc o b off s
  | .atorRadish w d k sc o b off => Sys2Proof.Machine.execAtorRadish w d k sc o b off s
  | .atxorRadish w d k sc o b off => Sys2Proof.Machine.execAtxorRadish w d k sc o b off s
  | .atxchRadish w d k sc o b off => Sys2Proof.Machine.execAtxchRadish w d k sc o b off s
  | .atcasRadish w d k sc o b off => Sys2Proof.Machine.execAtcasRadish w d k sc o b off s
  | .redaddRadish w d k sc o b off => Sys2Proof.Machine.execRedaddRadish w d k sc o b off s
  | .redminRadish w d k sc o b off => Sys2Proof.Machine.execRedminRadish w d k sc o b off s
  | .redmaxRadish w d k sc o b off => Sys2Proof.Machine.execRedmaxRadish w d k sc o b off s
  | .fenceRadish w sc o seq => Sys2Proof.Machine.execFenceRadish w sc o seq s
  | .ofenceRadish w sc o b => Sys2Proof.Machine.execOfenceRadish w sc o b s
  | .rflushRadish w n b off => Sys2Proof.Machine.execRflushRadish w n b off s
  | .rinvRadish w n b off => Sys2Proof.Machine.execRinvRadish w n b off s
  | .pfetchRadish w k b off => Sys2Proof.Machine.execPfetchRadish w k b off s
  | .locateRadish w k b off => Sys2Proof.Machine.execLocateRadish w k b off s
  | .reparkRadish w n b off => Sys2Proof.Machine.execReparkRadish w n b off s
  | .unparkRadish w n b off => Sys2Proof.Machine.execUnparkRadish w n b off s
  | .objdefRadish w n b => Sys2Proof.Machine.execObjdefRadish w n b s
  | .objdelRadish w n => Sys2Proof.Machine.execObjdelRadish w n s
  | .pcommitRadish w n b off => Sys2Proof.Machine.execPcommitRadish w n b off s
  | .pdecommitRadish w n b off => Sys2Proof.Machine.execPdecommitRadish w n b off s
  | .allocBlockRadish w n => Sys2Proof.Machine.execAllocBlockRadish w n s
  | .freeBlockRadish w n => Sys2Proof.Machine.execFreeBlockRadish w n s
  | .pqueryRadish w n b off => Sys2Proof.Machine.execPqueryRadish w n b off s
  | .tcopyRadish w d a b => Sys2Proof.Machine.execTcopyRadish w d a b s
  | .tcopymRadish w d a b => Sys2Proof.Machine.execTcopymRadish w d a b s
  | .chainRadish w d a => Sys2Proof.Machine.execChainRadish w d a s
  | .bbinitRadish w a b => Sys2Proof.Machine.execBbinitRadish w a b s
  | .bbexpRadish w a b => Sys2Proof.Machine.execBbexpRadish w a b s
  | .bbwaitRadish w d a => Sys2Proof.Machine.execBbwaitRadish w d a s
  | .bbinvRadish w a => Sys2Proof.Machine.execBbinvRadish w a s
  | .bbarrRadish w a b => Sys2Proof.Machine.execBbarrRadish w a b s
  | .rinitRadish w a => Sys2Proof.Machine.execRinitRadish w a s
  | .racqRadish w d a => Sys2Proof.Machine.execRacqRadish w d a s
  | .rpubRadish w d a b => Sys2Proof.Machine.execRpubRadish w d a b s
  | .rtakeRadish w d a => Sys2Proof.Machine.execRtakeRadish w d a s
  | .rdoneRadish w a b => Sys2Proof.Machine.execRdoneRadish w a b s
  | .rcloseRadish w a => Sys2Proof.Machine.execRcloseRadish w a s
  | .spushRadish w a b => Sys2Proof.Machine.execSpushRadish w a b s

end Sys2Proof.Machine
end

