-- ==== Sys2Proof/Machine/RunRadish.lean ====
section
/-! DEFINITION. Running a Radish word (R76 to R79). `runRadish` decodes the word and calls `exec`. Lean's code generator builds
no constructor of an inductive beyond its 245th, so compiled code runs `runRadishDirect`, which calls the meaning from the
word; `runRadish_eq` proves the two equal. -/
set_option linter.all false
namespace Sys2Proof.Machine

abbrev Ran := Host.Outcome State Fault Refusal

/-- What a decoded or rejected word leads to. -/
def ranOf (d : Except Reject Instr) (s : State) (rej : Reject → Ran) (ok : Ran → Ran) : Ran :=
  match d with
  | .ok i => ok (exec i s)
  | .error r => rej r

/-- Runs a Radish word: what `ok` makes of its instruction's meaning, or what follows a rejection. -/
noncomputable def runRadish (w : BitVec 64) (ex : List (BitVec 64)) (s : State) (rej : Reject → Ran) (ok : Ran → Ran) : Ran :=
  ranOf (decodeRadish w ex) s rej ok

/-- Runs a Radish word with opcode 0x00 to 0x0F without building the instruction. -/
def runRadish0 (lo : Nat) (u : BitVec 32) (w : BitVec 64) (ex : List (BitVec 64)) (s : State) (rej : Reject → Ran) (ok : Ran → Ran) : Ran :=
  match lo with
  | 0 => if fld u 0 24 == 0 && noLow w then ok (execNopRadish (radMode w) s) else rej .reserved
  | 3 => if fld u 6 18 == 0 && noLow w then ok (execGetmRadish (radMode w) (fld u 0 6) s) else rej .reserved
  | 4 => ok (execBraRadish (radMode w) (radHint w) (radImm w ex) s)
  | 5 => ok (execBrdRadish (radMode w) (radHint w) (fld u 19 3) (bit u 18) (radImm w ex) s)
  | 6 => if fld u 16 6 == 0 && noImm w then ok (execBrxRadish (radMode w) (radHint w) (fld u 8 8) ex s) else rej .reserved
  | 7 => if noHint w then ok (execCallAddrRadish (radMode w) (fld u 21 3) (radImm w ex) s) else rej .reserved
  | 8 => if fld u 3 21 == 0 && noLow w then ok (execRetRadish (radMode w) (fld u 0 3) s) else rej .reserved
  | 9 => if fld u 22 2 == 0 && noHint w then ok (execMarkJoinRadish (radMode w) (radImm w ex) s) else rej .reserved
  | 10 => if fld u 0 24 == 0 && noLow w then ok (execJoinFragsRadish (radMode w) s) else rej .reserved
  | 11 => if fld u 3 21 == 0 && noLow w then ok (execPpushRadish (radMode w) (fld u 0 3) s) else rej .reserved
  | 12 => if fld u 0 24 == 0 && noLow w then ok (execPinvRadish (radMode w) s) else rej .reserved
  | 13 => if fld u 0 24 == 0 && noLow w then ok (execPpopRadish (radMode w) s) else rej .reserved
  | 14 => if fld u 6 18 == 0 && noLow w then ok (execEmrdRadish (radMode w) (fld u 0 6) s) else rej .reserved
  | 15 => if fld u 6 18 == 0 && noLow w then ok (execEmwrRadish (radMode w) (fld u 0 6) s) else rej .reserved
  | _ => rej .unlisted

/-- Runs a Radish word with opcode 0x10 to 0x1F without building the instruction. -/
def runRadish1 (lo : Nat) (u : BitVec 32) (w : BitVec 64) (ex : List (BitVec 64)) (s : State) (rej : Reject → Ran) (ok : Ran → Ran) : Ran :=
  match lo with
  | 0 => if fld u 0 4 == 0 && noLow w then ok (execWaitcRadish (radMode w) (fld u 18 6) (fld u 12 6) (fld u 8 4) (fld u 4 4) s) else rej .reserved
  | 1 => if fld u 0 24 == 0 && noLow w then ok (execCbatchRadish (radMode w) s) else rej .reserved
  | 2 => if fld u 16 8 == 0 && noLow w then ok (execWaitbRadish (radMode w) (fld u 0 16) s) else rej .reserved
  | 3 => if fld u 6 18 == 0 && noLow w then ok (execBarRadish (radMode w) (fld u 4 2) (fld u 0 4) s) else rej .reserved
  | 4 => if fld u 6 18 == 0 && noLow w then ok (execBaraRadish (radMode w) (fld u 4 2) (fld u 0 4) s) else rej .reserved
  | 5 => if fld u 6 18 == 0 && noLow w then ok (execBarwRadish (radMode w) (fld u 4 2) (fld u 0 4) s) else rej .reserved
  | 6 => if fld u 6 18 == 0 && noLow w then ok (execDrainRadish (radMode w) (fld u 4 2) (fld u 0 4) s) else rej .reserved
  | 7 => if fld u 16 8 == 0 && noLow w then ok (execEqpRadish (radMode w) (fld u 0 16) s) else rej .reserved
  | 8 => if fld u 17 7 == 0 && noLow w then ok (execMigrTeamRadish (radMode w) (bit u 16) (fld u 0 16) s) else rej .reserved
  | 9 => if fld u 3 21 == 0 && noLow w then ok (execRoleswRadish (radMode w) (fld u 0 3) s) else rej .reserved
  | 10 => if fld u 0 24 == 0 && noLow w then ok (execYieldIssueRadish (radMode w) s) else rej .reserved
  | 11 => if fld u 0 24 == 0 && noLow w then ok (execExitFragRadish (radMode w) s) else rej .reserved
  | 12 => if fld u 16 8 == 0 && noLow w then ok (execTrapCodeRadish (radMode w) (fld u 0 16) s) else rej .reserved
  | 13 => if fld u 1 23 == 0 && noLow w then ok (execXretRadish (radMode w) (bit u 0) s) else rej .reserved
  | 14 => if fld u 14 10 == 0 && noLow w then ok (execXrdRadish (radMode w) (fld u 8 6) (fld u 0 8) s) else rej .reserved
  | 15 => if fld u 14 10 == 0 && noLow w then ok (execXwrRadish (radMode w) (fld u 8 6) (fld u 0 8) s) else rej .reserved
  | _ => rej .unlisted

/-- Runs a Radish word with opcode 0x20 to 0x2F without building the instruction. -/
def runRadish2 (lo : Nat) (u : BitVec 32) (w : BitVec 64) (ex : List (BitVec 64)) (s : State) (rej : Reject → Ran) (ok : Ran → Ran) : Ran :=
  match lo with
  | 0 => if fld u 14 10 == 0 && noLow w then ok (execSreadRadish (radMode w) (fld u 8 6) (fld u 0 8) s) else rej .reserved
  | 1 => if fld u 3 21 == 0 && noLow w then ok (execLaunchQueueRadish (radMode w) (fld u 0 3) s) else rej .reserved
  | 2 => if fld u 0 24 == 0 && noLow w then ok (execIfenceRadish (radMode w) s) else rej .reserved
  | 3 => if noHint w then ok (execCprefRadish (radMode w) (fld u 22 2) (radImm w ex) s) else rej .reserved
  | 4 => if fld u 16 8 == 0 && noLow w then ok (execSnoozeRadish (radMode w) (fld u 0 16) s) else rej .reserved
  | 5 => if noHint w then ok (execLoopCountRadish (radMode w) (fld u 18 6) (radImm w ex) s) else rej .reserved
  | _ => rej .unlisted

/-- Runs a Radish word with opcode 0x30 to 0x3F without building the instruction. -/
def runRadish3 (lo : Nat) (u : BitVec 32) (w : BitVec 64) (ex : List (BitVec 64)) (s : State) (rej : Reject → Ran) (ok : Ran → Ran) : Ran :=
  match lo with
  | 0 => if noLow w then ok (execIaddRadish (radMode w) (fld u 16 8) (fld u 8 8) (fld u 0 8) s) else rej .reserved
  | 1 => if noLow w then ok (execIsubRadish (radMode w) (fld u 16 8) (fld u 8 8) (fld u 0 8) s) else rej .reserved
  | 2 => if noLow w then ok (execImulRadish (radMode w) (fld u 16 8) (fld u 8 8) (fld u 0 8) s) else rej .reserved
  | 3 => if noLow w then ok (execImulhRadish (radMode w) (fld u 16 8) (fld u 8 8) (fld u 0 8) s) else rej .reserved
  | 4 => if noLow w then ok (execImadRadish (radMode w) (fld u 16 8) (fld u 8 8) (fld u 0 8) s) else rej .reserved
  | 5 => if noLow w then ok (execIdivRadish (radMode w) (fld u 16 8) (fld u 8 8) (fld u 0 8) s) else rej .reserved
  | 6 => if noLow w then ok (execIremRadish (radMode w) (fld u 16 8) (fld u 8 8) (fld u 0 8) s) else rej .reserved
  | 7 => if noLow w then ok (execIminRadish (radMode w) (fld u 16 8) (fld u 8 8) (fld u 0 8) s) else rej .reserved
  | 8 => if noLow w then ok (execImaxRadish (radMode w) (fld u 16 8) (fld u 8 8) (fld u 0 8) s) else rej .reserved
  | 9 => if fld u 0 8 == 0 && noLow w then ok (execIabsRadish (radMode w) (fld u 16 8) (fld u 8 8) s) else rej .reserved
  | 10 => if fld u 0 8 == 0 && noLow w then ok (execInegRadish (radMode w) (fld u 16 8) (fld u 8 8) s) else rej .reserved
  | 11 => if noLow w then ok (execIaddcRadish (radMode w) (fld u 16 8) (fld u 8 8) (fld u 0 8) s) else rej .reserved
  | 12 => if fld u 19 2 == 0 && noLow w then ok (execIcmpRadish (radMode w) (fld u 21 3) (fld u 16 3) (fld u 8 8) (fld u 0 8) s) else rej .reserved
  | 13 => if noLow w then ok (execSelLaneRadish (radMode w) (fld u 16 8) (fld u 8 8) (fld u 0 8) s) else rej .reserved
  | 14 => if noLow w then ok (execAndBitsRadish (radMode w) (fld u 16 8) (fld u 8 8) (fld u 0 8) s) else rej .reserved
  | 15 => if noLow w then ok (execOrBitsRadish (radMode w) (fld u 16 8) (fld u 8 8) (fld u 0 8) s) else rej .reserved
  | _ => rej .unlisted

/-- Runs a Radish word with opcode 0x40 to 0x4F without building the instruction. -/
def runRadish4 (lo : Nat) (u : BitVec 32) (w : BitVec 64) (ex : List (BitVec 64)) (s : State) (rej : Reject → Ran) (ok : Ran → Ran) : Ran :=
  match lo with
  | 0 => if noLow w then ok (execXorBitsRadish (radMode w) (fld u 16 8) (fld u 8 8) (fld u 0 8) s) else rej .reserved
  | 1 => if fld u 0 8 == 0 && noLow w then ok (execNotBitsRadish (radMode w) (fld u 16 8) (fld u 8 8) s) else rej .reserved
  | 2 => if noLow w then ok (execShlRadish (radMode w) (fld u 16 8) (fld u 8 8) (fld u 0 8) s) else rej .reserved
  | 3 => if noLow w then ok (execShrRadish (radMode w) (fld u 16 8) (fld u 8 8) (fld u 0 8) s) else rej .reserved
  | 4 => if noLow w then ok (execSarRadish (radMode w) (fld u 16 8) (fld u 8 8) (fld u 0 8) s) else rej .reserved
  | 5 => if noLow w then ok (execRotlRadish (radMode w) (fld u 16 8) (fld u 8 8) (fld u 0 8) s) else rej .reserved
  | 6 => if fld u 0 8 == 0 && noLow w then ok (execPopcRadish (radMode w) (fld u 16 8) (fld u 8 8) s) else rej .reserved
  | 7 => if fld u 0 8 == 0 && noLow w then ok (execClzRadish (radMode w) (fld u 16 8) (fld u 8 8) s) else rej .reserved
  | 8 => if fld u 0 8 == 0 && noLow w then ok (execCtzRadish (radMode w) (fld u 16 8) (fld u 8 8) s) else rej .reserved
  | 9 => if fld u 0 8 == 0 && noLow w then ok (execBrevRadish (radMode w) (fld u 16 8) (fld u 8 8) s) else rej .reserved
  | 10 => if noLow w then ok (execBfeRadish (radMode w) (fld u 16 8) (fld u 8 8) (fld u 0 8) s) else rej .reserved
  | 11 => if noLow w then ok (execBfiRadish (radMode w) (fld u 16 8) (fld u 8 8) (fld u 0 8) s) else rej .reserved
  | 12 => if fld u 0 8 == 0 && noLow w then ok (execMovLaneRadish (radMode w) (fld u 16 8) (fld u 8 8) s) else rej .reserved
  | 13 => if fld u 8 8 == 0 && noHint w then ok (execMoviRadish (radMode w) (fld u 16 8) (radImm w ex) s) else rej .reserved
  | 14 => if fld u 3 5 == 0 && noHint w then ok (execLeaRadish (radMode w) (fld u 16 8) (fld u 8 8) (fld u 0 3) (radImm w ex) s) else rej .reserved
  | 15 => if noHint w then ok (execIaddiRadish (radMode w) (fld u 16 8) (fld u 8 8) (radImm w ex) s) else rej .reserved
  | _ => rej .unlisted

/-- Runs a Radish word with opcode 0x50 to 0x5F without building the instruction. -/
def runRadish5 (lo : Nat) (u : BitVec 32) (w : BitVec 64) (ex : List (BitVec 64)) (s : State) (rej : Reject → Ran) (ok : Ran → Ran) : Ran :=
  match lo with
  | 0 => if fld u 22 2 == 0 && fld u 14 2 == 0 && fld u 6 2 == 0 && noLow w then ok (execSaddRadish (radMode w) (fld u 16 6) (fld u 8 6) (fld u 0 6) s) else rej .reserved
  | 1 => if fld u 22 2 == 0 && fld u 14 2 == 0 && fld u 6 2 == 0 && noLow w then ok (execSsubRadish (radMode w) (fld u 16 6) (fld u 8 6) (fld u 0 6) s) else rej .reserved
  | 2 => if fld u 22 2 == 0 && fld u 14 2 == 0 && fld u 6 2 == 0 && noLow w then ok (execSmulRadish (radMode w) (fld u 16 6) (fld u 8 6) (fld u 0 6) s) else rej .reserved
  | 3 => if fld u 22 2 == 0 && fld u 14 2 == 0 && fld u 6 2 == 0 && noLow w then ok (execSandRadish (radMode w) (fld u 16 6) (fld u 8 6) (fld u 0 6) s) else rej .reserved
  | 4 => if fld u 22 2 == 0 && fld u 14 2 == 0 && fld u 6 2 == 0 && noLow w then ok (execSorRadish (radMode w) (fld u 16 6) (fld u 8 6) (fld u 0 6) s) else rej .reserved
  | 5 => if fld u 22 2 == 0 && fld u 14 2 == 0 && fld u 6 2 == 0 && noLow w then ok (execSxorRadish (radMode w) (fld u 16 6) (fld u 8 6) (fld u 0 6) s) else rej .reserved
  | 6 => if fld u 22 2 == 0 && fld u 14 2 == 0 && fld u 6 2 == 0 && noLow w then ok (execSshlRadish (radMode w) (fld u 16 6) (fld u 8 6) (fld u 0 6) s) else rej .reserved
  | 7 => if fld u 22 2 == 0 && fld u 14 2 == 0 && fld u 6 2 == 0 && noLow w then ok (execSshrRadish (radMode w) (fld u 16 6) (fld u 8 6) (fld u 0 6) s) else rej .reserved
  | 8 => if fld u 19 2 == 0 && fld u 14 2 == 0 && fld u 6 2 == 0 && noLow w then ok (execScmpRadish (radMode w) (fld u 21 3) (fld u 16 3) (fld u 8 6) (fld u 0 6) s) else rej .reserved
  | 9 => if fld u 22 2 == 0 && fld u 14 2 == 0 && fld u 0 8 == 0 && noLow w then ok (execSmovRadish (radMode w) (fld u 16 6) (fld u 8 6) s) else rej .reserved
  | 10 => if fld u 22 2 == 0 && fld u 8 8 == 0 && noHint w then ok (execSmoviRadish (radMode w) (fld u 16 6) (radImm w ex) s) else rej .reserved
  | 11 => if fld u 22 2 == 0 && fld u 8 8 == 255 && fld u 3 5 == 0 && noHint w then ok (execSleaRadish (radMode w) (fld u 16 6) (fld u 0 3) (radImm w ex) s) else rej .reserved
  | 12 => if fld u 22 2 == 0 && fld u 0 8 == 0 && noLow w then ok (execVtosRadish (radMode w) (fld u 16 6) (fld u 8 8) s) else rej .reserved
  | 13 => if fld u 14 2 == 0 && fld u 0 8 == 0 && noLow w then ok (execStovRadish (radMode w) (fld u 16 8) (fld u 8 6) s) else rej .reserved
  | 14 => if fld u 22 2 == 0 && fld u 14 2 == 0 && fld u 6 2 == 0 && noLow w then ok (execSminRadish (radMode w) (fld u 16 6) (fld u 8 6) (fld u 0 6) s) else rej .reserved
  | 15 => if fld u 22 2 == 0 && fld u 14 2 == 0 && fld u 6 2 == 0 && noLow w then ok (execSmaxRadish (radMode w) (fld u 16 6) (fld u 8 6) (fld u 0 6) s) else rej .reserved
  | _ => rej .unlisted

/-- Runs a Radish word with opcode 0x60 to 0x6F without building the instruction. -/
def runRadish6 (lo : Nat) (u : BitVec 32) (w : BitVec 64) (ex : List (BitVec 64)) (s : State) (rej : Reject → Ran) (ok : Ran → Ran) : Ran :=
  match lo with
  | 0 => if noLow w then ok (execFaddRadish (radMode w) (fld u 16 8) (fld u 8 8) (fld u 0 8) s) else rej .reserved
  | 1 => if noLow w then ok (execFsubRadish (radMode w) (fld u 16 8) (fld u 8 8) (fld u 0 8) s) else rej .reserved
  | 2 => if noLow w then ok (execFmulRadish (radMode w) (fld u 16 8) (fld u 8 8) (fld u 0 8) s) else rej .reserved
  | 3 => if noLow w then ok (execFfmaRadish (radMode w) (fld u 16 8) (fld u 8 8) (fld u 0 8) s) else rej .reserved
  | 4 => if noLow w then ok (execFminRadish (radMode w) (fld u 16 8) (fld u 8 8) (fld u 0 8) s) else rej .reserved
  | 5 => if noLow w then ok (execFmaxRadish (radMode w) (fld u 16 8) (fld u 8 8) (fld u 0 8) s) else rej .reserved
  | 6 => if fld u 0 8 == 0 && noLow w then ok (execFabsRadish (radMode w) (fld u 16 8) (fld u 8 8) s) else rej .reserved
  | 7 => if fld u 0 8 == 0 && noLow w then ok (execFnegRadish (radMode w) (fld u 16 8) (fld u 8 8) s) else rej .reserved
  | 8 => if fld u 19 2 == 0 && noLow w then ok (execFcmpRadish (radMode w) (fld u 21 3) (fld u 16 3) (fld u 8 8) (fld u 0 8) s) else rej .reserved
  | 9 => if fld u 0 8 == 0 && noLow w then ok (execFclassRadish (radMode w) (fld u 16 8) (fld u 8 8) s) else rej .reserved
  | 10 => if noLow w then ok (execFdivRadish (radMode w) (fld u 16 8) (fld u 8 8) (fld u 0 8) s) else rej .reserved
  | 11 => if fld u 0 8 == 0 && noLow w then ok (execFsqrtRadish (radMode w) (fld u 16 8) (fld u 8 8) s) else rej .reserved
  | 12 => if fld u 0 8 == 0 && noLow w then ok (execFrndRadish (radMode w) (fld u 16 8) (fld u 8 8) s) else rej .reserved
  | 13 => if noLow w then ok (execFldexpRadish (radMode w) (fld u 16 8) (fld u 8 8) (fld u 0 8) s) else rej .reserved
  | 14 => if fld u 0 8 == 0 && noLow w then ok (execFexpoRadish (radMode w) (fld u 16 8) (fld u 8 8) s) else rej .reserved
  | 15 => if noLow w then ok (execFsgnjRadish (radMode w) (fld u 16 8) (fld u 8 8) (fld u 0 8) s) else rej .reserved
  | _ => rej .unlisted

/-- Runs a Radish word with opcode 0x70 to 0x7F without building the instruction. -/
def runRadish7 (lo : Nat) (u : BitVec 32) (w : BitVec 64) (ex : List (BitVec 64)) (s : State) (rej : Reject → Ran) (ok : Ran → Ran) : Ran :=
  match lo with
  | 0 => if fld u 0 8 == 0 && noLow w then ok (execFrcpRadish (radMode w) (fld u 16 8) (fld u 8 8) s) else rej .reserved
  | 1 => if fld u 0 8 == 0 && noLow w then ok (execFrsqRadish (radMode w) (fld u 16 8) (fld u 8 8) s) else rej .reserved
  | 2 => if fld u 0 8 == 0 && noLow w then ok (execFex2Radish (radMode w) (fld u 16 8) (fld u 8 8) s) else rej .reserved
  | 3 => if fld u 0 8 == 0 && noLow w then ok (execFlg2Radish (radMode w) (fld u 16 8) (fld u 8 8) s) else rej .reserved
  | 4 => if fld u 0 8 == 0 && noLow w then ok (execFsinRadish (radMode w) (fld u 16 8) (fld u 8 8) s) else rej .reserved
  | 5 => if fld u 0 8 == 0 && noLow w then ok (execFcosRadish (radMode w) (fld u 16 8) (fld u 8 8) s) else rej .reserved
  | 6 => if fld u 0 8 == 0 && noLow w then ok (execFtanhRadish (radMode w) (fld u 16 8) (fld u 8 8) s) else rej .reserved
  | _ => rej .unlisted

/-- Runs a Radish word with opcode 0x80 to 0x8F without building the instruction. -/
def runRadish8 (lo : Nat) (u : BitVec 32) (w : BitVec 64) (ex : List (BitVec 64)) (s : State) (rej : Reject → Ran) (ok : Ran → Ran) : Ran :=
  match lo with
  | 0 => if fld u 4 4 == 0 && noLow w then ok (execCvtRadish (radMode w) (fld u 16 8) (fld u 8 8) (fld u 0 4) s) else rej .reserved
  | 1 => if fld u 4 4 == 0 && noLow w then ok (execCvtiRadish (radMode w) (fld u 16 8) (fld u 8 8) (fld u 0 4) s) else rej .reserved
  | 2 => if noLow w then ok (execPackRadish (radMode w) (fld u 16 8) (fld u 8 8) (fld u 0 8) s) else rej .reserved
  | 3 => if fld u 0 8 == 0 && noLow w then ok (execUnpkRadish (radMode w) (fld u 16 8) (fld u 8 8) s) else rej .reserved
  | 4 => if noLow w then ok (execQhistRadish (radMode w) (fld u 16 8) (fld u 8 8) (fld u 0 8) s) else rej .reserved
  | 5 => if noLow w then ok (execQscaleRadish (radMode w) (fld u 16 8) (fld u 8 8) (fld u 0 8) s) else rej .reserved
  | 6 => if noLow w then ok (execQuantRadish (radMode w) (fld u 16 8) (fld u 8 8) (fld u 0 8) s) else rej .reserved
  | 7 => if noLow w then ok (execDeqRadish (radMode w) (fld u 16 8) (fld u 8 8) (fld u 0 8) s) else rej .reserved
  | 8 => if fld u 8 8 == 0 && fld u 0 8 == 0 && noLow w then ok (execQclrRadish (radMode w) (fld u 16 8) s) else rej .reserved
  | _ => rej .unlisted

/-- Runs a Radish word with opcode 0x90 to 0x9F without building the instruction. -/
def runRadish9 (lo : Nat) (u : BitVec 32) (w : BitVec 64) (ex : List (BitVec 64)) (s : State) (rej : Reject → Ran) (ok : Ran → Ran) : Ran :=
  match lo with
  | 0 => if noLow w then ok (execShflRadish (radMode w) (fld u 16 8) (fld u 8 8) (fld u 0 8) s) else rej .reserved
  | 1 => if noHint w then ok (execShfluRadish (radMode w) (fld u 16 8) (fld u 8 8) (radImm w ex) s) else rej .reserved
  | 2 => if noHint w then ok (execShfldRadish (radMode w) (fld u 16 8) (fld u 8 8) (radImm w ex) s) else rej .reserved
  | 3 => if noHint w then ok (execShflxRadish (radMode w) (fld u 16 8) (fld u 8 8) (radImm w ex) s) else rej .reserved
  | 4 => if fld u 22 2 == 0 && fld u 11 5 == 0 && noHint w then ok (execVoteRadish (radMode w) (fld u 16 6) (fld u 8 3) (radImm w ex) s) else rej .reserved
  | 5 => if noHint w then ok (execReduRadish (radMode w) (fld u 16 8) (fld u 8 8) (radImm w ex) s) else rej .reserved
  | 6 => if noHint w then ok (execScanLanesRadish (radMode w) (fld u 16 8) (fld u 8 8) (radImm w ex) s) else rej .reserved
  | 7 => if fld u 0 8 == 0 && noLow w then ok (execMatchLanesRadish (radMode w) (fld u 16 8) (fld u 8 8) s) else rej .reserved
  | 8 => if noHint w then ok (execBcastRadish (radMode w) (fld u 16 8) (fld u 8 8) (radImm w ex) s) else rej .reserved
  | 9 => if fld u 0 8 == 0 && noLow w then ok (execFirstLaneRadish (radMode w) (fld u 16 8) (fld u 8 8) s) else rej .reserved
  | _ => rej .unlisted

/-- Runs a Radish word with opcode 0xA0 to 0xAF without building the instruction. -/
def runRadishA (lo : Nat) (u : BitVec 32) (w : BitVec 64) (ex : List (BitVec 64)) (s : State) (rej : Reject → Ran) (ok : Ran → Ran) : Ran :=
  match lo with
  | 0 => if noHint w then ok (execLdGlobalRadish (radMode w) (fld u 16 8) (fld u 8 8) (fld u 5 3) (fld u 3 2) (fld u 0 3) (radImm w ex) s) else rej .reserved
  | 1 => if noHint w then ok (execStGlobalRadish (radMode w) (fld u 16 8) (fld u 8 8) (fld u 5 3) (fld u 3 2) (fld u 0 3) (radImm w ex) s) else rej .reserved
  | 2 => if noHint w then ok (execLdxRadish (radMode w) (fld u 16 8) (fld u 8 8) (fld u 5 3) (fld u 3 2) (fld u 0 3) (radImm w ex) s) else rej .reserved
  | 3 => if noHint w then ok (execStxRadish (radMode w) (fld u 16 8) (fld u 8 8) (fld u 5 3) (fld u 3 2) (fld u 0 3) (radImm w ex) s) else rej .reserved
  | 4 => if fld u 0 8 == 0 && noHint w then ok (execLdsRadish (radMode w) (fld u 16 8) (fld u 8 8) (radImm w ex) s) else rej .reserved
  | 5 => if fld u 0 8 == 0 && noHint w then ok (execStsRadish (radMode w) (fld u 16 8) (fld u 8 8) (radImm w ex) s) else rej .reserved
  | 6 => if fld u 0 8 == 0 && noHint w then ok (execLdpRadish (radMode w) (fld u 16 8) (fld u 8 8) (radImm w ex) s) else rej .reserved
  | 7 => if fld u 0 8 == 0 && noHint w then ok (execStpRadish (radMode w) (fld u 16 8) (fld u 8 8) (radImm w ex) s) else rej .reserved
  | 8 => if noHint w then ok (execStnRadish (radMode w) (fld u 16 8) (fld u 8 8) (fld u 5 3) (fld u 3 2) (fld u 0 3) (radImm w ex) s) else rej .reserved
  | 9 => if fld u 6 18 == 0 && noLow w then ok (execSrsetRadish (radMode w) (fld u 0 6) s) else rej .reserved
  | 10 => if noHint w then ok (execAtaddRadish (radMode w) (fld u 16 8) (fld u 8 8) (fld u 5 3) (fld u 3 2) (fld u 0 3) (radImm w ex) s) else rej .reserved
  | 11 => if noHint w then ok (execAtminRadish (radMode w) (fld u 16 8) (fld u 8 8) (fld u 5 3) (fld u 3 2) (fld u 0 3) (radImm w ex) s) else rej .reserved
  | 12 => if noHint w then ok (execAtmaxRadish (radMode w) (fld u 16 8) (fld u 8 8) (fld u 5 3) (fld u 3 2) (fld u 0 3) (radImm w ex) s) else rej .reserved
  | 13 => if noHint w then ok (execAtandRadish (radMode w) (fld u 16 8) (fld u 8 8) (fld u 5 3) (fld u 3 2) (fld u 0 3) (radImm w ex) s) else rej .reserved
  | 14 => if noHint w then ok (execAtorRadish (radMode w) (fld u 16 8) (fld u 8 8) (fld u 5 3) (fld u 3 2) (fld u 0 3) (radImm w ex) s) else rej .reserved
  | 15 => if noHint w then ok (execAtxorRadish (radMode w) (fld u 16 8) (fld u 8 8) (fld u 5 3) (fld u 3 2) (fld u 0 3) (radImm w ex) s) else rej .reserved
  | _ => rej .unlisted

/-- Runs a Radish word with opcode 0xB0 to 0xBF without building the instruction. -/
def runRadishB (lo : Nat) (u : BitVec 32) (w : BitVec 64) (ex : List (BitVec 64)) (s : State) (rej : Reject → Ran) (ok : Ran → Ran) : Ran :=
  match lo with
  | 0 => if noHint w then ok (execAtxchRadish (radMode w) (fld u 16 8) (fld u 8 8) (fld u 5 3) (fld u 3 2) (fld u 0 3) (radImm w ex) s) else rej .reserved
  | 1 => if noHint w then ok (execAtcasRadish (radMode w) (fld u 16 8) (fld u 8 8) (fld u 5 3) (fld u 3 2) (fld u 0 3) (radImm w ex) s) else rej .reserved
  | 2 => if noHint w then ok (execRedaddRadish (radMode w) (fld u 16 8) (fld u 8 8) (fld u 5 3) (fld u 3 2) (fld u 0 3) (radImm w ex) s) else rej .reserved
  | 3 => if noHint w then ok (execRedminRadish (radMode w) (fld u 16 8) (fld u 8 8) (fld u 5 3) (fld u 3 2) (fld u 0 3) (radImm w ex) s) else rej .reserved
  | 4 => if noHint w then ok (execRedmaxRadish (radMode w) (fld u 16 8) (fld u 8 8) (fld u 5 3) (fld u 3 2) (fld u 0 3) (radImm w ex) s) else rej .reserved
  | 5 => if fld u 16 8 == 0 && fld u 8 8 == 255 && fld u 1 2 == 0 && noLow w then ok (execFenceRadish (radMode w) (fld u 5 3) (fld u 3 2) (bit u 0) s) else rej .reserved
  | 6 => if fld u 16 8 == 0 && fld u 8 8 == 255 && noLow w then ok (execOfenceRadish (radMode w) (fld u 5 3) (fld u 3 2) (fld u 0 3) s) else rej .reserved
  | 7 => if fld u 22 2 == 0 && fld u 8 8 == 255 && fld u 3 5 == 0 && noHint w then ok (execRflushRadish (radMode w) (fld u 16 6) (fld u 0 3) (radImm w ex) s) else rej .reserved
  | 8 => if fld u 22 2 == 0 && fld u 8 8 == 255 && fld u 3 5 == 0 && noHint w then ok (execRinvRadish (radMode w) (fld u 16 6) (fld u 0 3) (radImm w ex) s) else rej .reserved
  | 9 => if fld u 16 8 == 0 && fld u 3 5 == 0 && noHint w then ok (execPfetchRadish (radMode w) (fld u 8 8) (fld u 0 3) (radImm w ex) s) else rej .reserved
  | 10 => if fld u 16 8 == 0 && fld u 3 5 == 0 && noHint w then ok (execLocateRadish (radMode w) (fld u 8 8) (fld u 0 3) (radImm w ex) s) else rej .reserved
  | 11 => if fld u 22 2 == 0 && fld u 8 8 == 255 && fld u 3 5 == 0 && noHint w then ok (execReparkRadish (radMode w) (fld u 16 6) (fld u 0 3) (radImm w ex) s) else rej .reserved
  | 12 => if fld u 22 2 == 0 && fld u 8 8 == 255 && fld u 3 5 == 0 && noHint w then ok (execUnparkRadish (radMode w) (fld u 16 6) (fld u 0 3) (radImm w ex) s) else rej .reserved
  | 13 => if fld u 22 2 == 0 && fld u 8 8 == 255 && fld u 3 5 == 0 && noLow w then ok (execObjdefRadish (radMode w) (fld u 16 6) (fld u 0 3) s) else rej .reserved
  | 14 => if fld u 22 2 == 0 && fld u 8 8 == 255 && fld u 0 8 == 0 && noLow w then ok (execObjdelRadish (radMode w) (fld u 16 6) s) else rej .reserved
  | _ => rej .unlisted

/-- Runs a Radish word with opcode 0xC0 to 0xCF without building the instruction. -/
def runRadishC (lo : Nat) (u : BitVec 32) (w : BitVec 64) (ex : List (BitVec 64)) (s : State) (rej : Reject → Ran) (ok : Ran → Ran) : Ran :=
  match lo with
  | 0 => if fld u 22 2 == 0 && fld u 8 8 == 255 && fld u 3 5 == 0 && noHint w then ok (execPcommitRadish (radMode w) (fld u 16 6) (fld u 0 3) (radImm w ex) s) else rej .reserved
  | 1 => if fld u 22 2 == 0 && fld u 8 8 == 255 && fld u 3 5 == 0 && noHint w then ok (execPdecommitRadish (radMode w) (fld u 16 6) (fld u 0 3) (radImm w ex) s) else rej .reserved
  | 2 => if fld u 22 2 == 0 && fld u 8 8 == 255 && fld u 0 8 == 0 && noLow w then ok (execAllocBlockRadish (radMode w) (fld u 16 6) s) else rej .reserved
  | 3 => if fld u 22 2 == 0 && fld u 8 8 == 255 && fld u 0 8 == 0 && noLow w then ok (execFreeBlockRadish (radMode w) (fld u 16 6) s) else rej .reserved
  | 4 => if fld u 22 2 == 0 && fld u 8 8 == 255 && fld u 3 5 == 0 && noHint w then ok (execPqueryRadish (radMode w) (fld u 16 6) (fld u 0 3) (radImm w ex) s) else rej .reserved
  | 8 => if fld u 22 2 == 0 && fld u 14 2 == 0 && fld u 6 2 == 0 && noLow w then ok (execTcopyRadish (radMode w) (fld u 16 6) (fld u 8 6) (fld u 0 6) s) else rej .reserved
  | 9 => if fld u 22 2 == 0 && fld u 14 2 == 0 && fld u 6 2 == 0 && noLow w then ok (execTcopymRadish (radMode w) (fld u 16 6) (fld u 8 6) (fld u 0 6) s) else rej .reserved
  | 10 => if fld u 22 2 == 0 && fld u 14 2 == 0 && fld u 0 8 == 0 && noLow w then ok (execChainRadish (radMode w) (fld u 16 6) (fld u 8 6) s) else rej .reserved
  | 11 => if fld u 16 8 == 0 && fld u 14 2 == 0 && fld u 6 2 == 0 && noLow w then ok (execBbinitRadish (radMode w) (fld u 8 6) (fld u 0 6) s) else rej .reserved
  | 12 => if fld u 16 8 == 0 && fld u 14 2 == 0 && fld u 6 2 == 0 && noLow w then ok (execBbexpRadish (radMode w) (fld u 8 6) (fld u 0 6) s) else rej .reserved
  | 13 => if fld u 22 2 == 0 && fld u 14 2 == 0 && fld u 0 8 == 0 && noLow w then ok (execBbwaitRadish (radMode w) (fld u 16 6) (fld u 8 6) s) else rej .reserved
  | 14 => if fld u 16 8 == 0 && fld u 14 2 == 0 && fld u 0 8 == 0 && noLow w then ok (execBbinvRadish (radMode w) (fld u 8 6) s) else rej .reserved
  | 15 => if fld u 16 8 == 0 && fld u 14 2 == 0 && fld u 6 2 == 0 && noLow w then ok (execBbarrRadish (radMode w) (fld u 8 6) (fld u 0 6) s) else rej .reserved
  | _ => rej .unlisted

/-- Runs a Radish word with opcode 0xD0 to 0xDF without building the instruction. -/
def runRadishD (lo : Nat) (u : BitVec 32) (w : BitVec 64) (ex : List (BitVec 64)) (s : State) (rej : Reject → Ran) (ok : Ran → Ran) : Ran :=
  match lo with
  | 0 => if fld u 16 8 == 0 && fld u 14 2 == 0 && fld u 0 8 == 0 && noLow w then ok (execRinitRadish (radMode w) (fld u 8 6) s) else rej .reserved
  | 1 => if fld u 22 2 == 0 && fld u 14 2 == 0 && fld u 0 8 == 0 && noLow w then ok (execRacqRadish (radMode w) (fld u 16 6) (fld u 8 6) s) else rej .reserved
  | 2 => if fld u 22 2 == 0 && fld u 14 2 == 0 && fld u 6 2 == 0 && noLow w then ok (execRpubRadish (radMode w) (fld u 16 6) (fld u 8 6) (fld u 0 6) s) else rej .reserved
  | 3 => if fld u 22 2 == 0 && fld u 14 2 == 0 && fld u 0 8 == 0 && noLow w then ok (execRtakeRadish (radMode w) (fld u 16 6) (fld u 8 6) s) else rej .reserved
  | 4 => if fld u 16 8 == 0 && fld u 14 2 == 0 && fld u 6 2 == 0 && noLow w then ok (execRdoneRadish (radMode w) (fld u 8 6) (fld u 0 6) s) else rej .reserved
  | 5 => if fld u 16 8 == 0 && fld u 14 2 == 0 && fld u 0 8 == 0 && noLow w then ok (execRcloseRadish (radMode w) (fld u 8 6) s) else rej .reserved
  | 6 => if fld u 16 8 == 0 && fld u 14 2 == 0 && fld u 6 2 == 0 && noLow w then ok (execSpushRadish (radMode w) (fld u 8 6) (fld u 0 6) s) else rej .reserved
  | _ => rej .unlisted

/-- Runs a Radish word without building the instruction. -/
def runRadishDirect (w : BitVec 64) (ex : List (BitVec 64)) (s : State) (rej : Reject → Ran) (ok : Ran → Ran) : Ran :=
  let u := radUpper w
  let lo := opcodeOf u % 16
  match opcodeOf u / 16 with
  | 0 => runRadish0 lo u w ex s rej ok
  | 1 => runRadish1 lo u w ex s rej ok
  | 2 => runRadish2 lo u w ex s rej ok
  | 3 => runRadish3 lo u w ex s rej ok
  | 4 => runRadish4 lo u w ex s rej ok
  | 5 => runRadish5 lo u w ex s rej ok
  | 6 => runRadish6 lo u w ex s rej ok
  | 7 => runRadish7 lo u w ex s rej ok
  | 8 => runRadish8 lo u w ex s rej ok
  | 9 => runRadish9 lo u w ex s rej ok
  | 10 => runRadishA lo u w ex s rej ok
  | 11 => runRadishB lo u w ex s rej ok
  | 12 => runRadishC lo u w ex s rej ok
  | 13 => runRadishD lo u w ex s rej ok
  | 14 => if lo < 13 then rej .role else rej .unlisted
  | _ => rej .unlisted

/-- What a rejected or accepted word leads to. -/
theorem run_reqd (b : Bool) (i : Instr) (s : State) (rej : Reject → Ran) (ok : Ran → Ran) :
    ranOf (reqd b i) s rej ok = if b then ok (exec i s) else rej .reserved := by
  cases b <;> rfl

theorem runRadish0_eq (lo : Nat) (u : BitVec 32) (w : BitVec 64) (ex : List (BitVec 64)) (s : State) (rej : Reject → Ran) (ok : Ran → Ran) :
    ranOf (decodeRadish0 lo u w ex) s rej ok = runRadish0 lo u w ex s rej ok := by
  unfold decodeRadish0 runRadish0
  split <;> first | rfl | exact run_reqd _ _ s rej ok | (split <;> first | rfl | contradiction | simp_all)

theorem runRadish1_eq (lo : Nat) (u : BitVec 32) (w : BitVec 64) (ex : List (BitVec 64)) (s : State) (rej : Reject → Ran) (ok : Ran → Ran) :
    ranOf (decodeRadish1 lo u w ex) s rej ok = runRadish1 lo u w ex s rej ok := by
  unfold decodeRadish1 runRadish1
  split <;> first | rfl | exact run_reqd _ _ s rej ok | (split <;> first | rfl | contradiction | simp_all)

theorem runRadish2_eq (lo : Nat) (u : BitVec 32) (w : BitVec 64) (ex : List (BitVec 64)) (s : State) (rej : Reject → Ran) (ok : Ran → Ran) :
    ranOf (decodeRadish2 lo u w ex) s rej ok = runRadish2 lo u w ex s rej ok := by
  unfold decodeRadish2 runRadish2
  split <;> first | rfl | exact run_reqd _ _ s rej ok | (split <;> first | rfl | contradiction | simp_all)

theorem runRadish3_eq (lo : Nat) (u : BitVec 32) (w : BitVec 64) (ex : List (BitVec 64)) (s : State) (rej : Reject → Ran) (ok : Ran → Ran) :
    ranOf (decodeRadish3 lo u w ex) s rej ok = runRadish3 lo u w ex s rej ok := by
  unfold decodeRadish3 runRadish3
  split <;> first | rfl | exact run_reqd _ _ s rej ok | (split <;> first | rfl | contradiction | simp_all)

theorem runRadish4_eq (lo : Nat) (u : BitVec 32) (w : BitVec 64) (ex : List (BitVec 64)) (s : State) (rej : Reject → Ran) (ok : Ran → Ran) :
    ranOf (decodeRadish4 lo u w ex) s rej ok = runRadish4 lo u w ex s rej ok := by
  unfold decodeRadish4 runRadish4
  split <;> first | rfl | exact run_reqd _ _ s rej ok | (split <;> first | rfl | contradiction | simp_all)

theorem runRadish5_eq (lo : Nat) (u : BitVec 32) (w : BitVec 64) (ex : List (BitVec 64)) (s : State) (rej : Reject → Ran) (ok : Ran → Ran) :
    ranOf (decodeRadish5 lo u w ex) s rej ok = runRadish5 lo u w ex s rej ok := by
  unfold decodeRadish5 runRadish5
  split <;> first | rfl | exact run_reqd _ _ s rej ok | (split <;> first | rfl | contradiction | simp_all)

theorem runRadish6_eq (lo : Nat) (u : BitVec 32) (w : BitVec 64) (ex : List (BitVec 64)) (s : State) (rej : Reject → Ran) (ok : Ran → Ran) :
    ranOf (decodeRadish6 lo u w ex) s rej ok = runRadish6 lo u w ex s rej ok := by
  unfold decodeRadish6 runRadish6
  split <;> first | rfl | exact run_reqd _ _ s rej ok | (split <;> first | rfl | contradiction | simp_all)

theorem runRadish7_eq (lo : Nat) (u : BitVec 32) (w : BitVec 64) (ex : List (BitVec 64)) (s : State) (rej : Reject → Ran) (ok : Ran → Ran) :
    ranOf (decodeRadish7 lo u w ex) s rej ok = runRadish7 lo u w ex s rej ok := by
  unfold decodeRadish7 runRadish7
  split <;> first | rfl | exact run_reqd _ _ s rej ok | (split <;> first | rfl | contradiction | simp_all)

theorem runRadish8_eq (lo : Nat) (u : BitVec 32) (w : BitVec 64) (ex : List (BitVec 64)) (s : State) (rej : Reject → Ran) (ok : Ran → Ran) :
    ranOf (decodeRadish8 lo u w ex) s rej ok = runRadish8 lo u w ex s rej ok := by
  unfold decodeRadish8 runRadish8
  split <;> first | rfl | exact run_reqd _ _ s rej ok | (split <;> first | rfl | contradiction | simp_all)

theorem runRadish9_eq (lo : Nat) (u : BitVec 32) (w : BitVec 64) (ex : List (BitVec 64)) (s : State) (rej : Reject → Ran) (ok : Ran → Ran) :
    ranOf (decodeRadish9 lo u w ex) s rej ok = runRadish9 lo u w ex s rej ok := by
  unfold decodeRadish9 runRadish9
  split <;> first | rfl | exact run_reqd _ _ s rej ok | (split <;> first | rfl | contradiction | simp_all)

theorem runRadishA_eq (lo : Nat) (u : BitVec 32) (w : BitVec 64) (ex : List (BitVec 64)) (s : State) (rej : Reject → Ran) (ok : Ran → Ran) :
    ranOf (decodeRadishA lo u w ex) s rej ok = runRadishA lo u w ex s rej ok := by
  unfold decodeRadishA runRadishA
  split <;> first | rfl | exact run_reqd _ _ s rej ok | (split <;> first | rfl | contradiction | simp_all)

theorem runRadishB_eq (lo : Nat) (u : BitVec 32) (w : BitVec 64) (ex : List (BitVec 64)) (s : State) (rej : Reject → Ran) (ok : Ran → Ran) :
    ranOf (decodeRadishB lo u w ex) s rej ok = runRadishB lo u w ex s rej ok := by
  unfold decodeRadishB runRadishB
  split <;> first | rfl | exact run_reqd _ _ s rej ok | (split <;> first | rfl | contradiction | simp_all)

theorem runRadishC_eq (lo : Nat) (u : BitVec 32) (w : BitVec 64) (ex : List (BitVec 64)) (s : State) (rej : Reject → Ran) (ok : Ran → Ran) :
    ranOf (decodeRadishC lo u w ex) s rej ok = runRadishC lo u w ex s rej ok := by
  unfold decodeRadishC runRadishC
  split <;> first | rfl | exact run_reqd _ _ s rej ok | (split <;> first | rfl | contradiction | simp_all)

theorem runRadishD_eq (lo : Nat) (u : BitVec 32) (w : BitVec 64) (ex : List (BitVec 64)) (s : State) (rej : Reject → Ran) (ok : Ran → Ran) :
    ranOf (decodeRadishD lo u w ex) s rej ok = runRadishD lo u w ex s rej ok := by
  unfold decodeRadishD runRadishD
  split <;> first | rfl | exact run_reqd _ _ s rej ok | (split <;> first | rfl | contradiction | simp_all)

@[csimp] theorem runRadish_eq : @runRadish = @runRadishDirect := by
  funext w ex s rej ok
  unfold runRadish runRadishDirect decodeRadish
  simp only
  generalize opcodeOf (radUpper w) / 16 = hi
  match hi with
  | 0 => exact runRadish0_eq _ _ w ex s rej ok
  | 1 => exact runRadish1_eq _ _ w ex s rej ok
  | 2 => exact runRadish2_eq _ _ w ex s rej ok
  | 3 => exact runRadish3_eq _ _ w ex s rej ok
  | 4 => exact runRadish4_eq _ _ w ex s rej ok
  | 5 => exact runRadish5_eq _ _ w ex s rej ok
  | 6 => exact runRadish6_eq _ _ w ex s rej ok
  | 7 => exact runRadish7_eq _ _ w ex s rej ok
  | 8 => exact runRadish8_eq _ _ w ex s rej ok
  | 9 => exact runRadish9_eq _ _ w ex s rej ok
  | 10 => exact runRadishA_eq _ _ w ex s rej ok
  | 11 => exact runRadishB_eq _ _ w ex s rej ok
  | 12 => exact runRadishC_eq _ _ w ex s rej ok
  | 13 => exact runRadishD_eq _ _ w ex s rej ok
  | 14 =>
    show ranOf (if opcodeOf (radUpper w) % 16 < 13 then .error .role else .error .unlisted) s rej ok =
      if opcodeOf (radUpper w) % 16 < 13 then rej .role else rej .unlisted
    split <;> rfl
  | _ + 15 => rfl

end Sys2Proof.Machine
end

