-- ==== Sys2Proof/Machine/Fetch.lean ====
section
/-! DEFINITION. One turn of an agent: the words at its PC are fetched, decoded and run, with the decode faults in the order
of R75; and one event of the device or of time outside the running agent. -/
set_option linter.all false
namespace Sys2Proof.Machine

/-! ### What the opcode alone says -/

/-- The opcodes that the map lists in an encoding (R68, R79). -/
def listedOp (rad : Bool) (op : Nat) : Bool :=
  (op ≤ 0x25 && !(rad && (op == 0x01 || op == 0x02))) || (0x30 ≤ op && op ≤ 0x5F) || (0x60 ≤ op && op ≤ 0x76) ||
    (0x80 ≤ op && op ≤ 0x88) || (0x90 ≤ op && op ≤ 0x99) || (0xA0 ≤ op && op ≤ 0xBE) || (0xC0 ≤ op && op ≤ 0xC4) ||
    (0xC8 ≤ op && op ≤ 0xD6) || (0xE0 ≤ op && op ≤ 0xEC) || (op == 0xFF && !rad)

/-- The opcodes whose class takes the guard; SEL reads it as an operand (R21, R69). -/
def guardedOp (op : Nat) : Bool :=
  (0x30 ≤ op && op ≤ 0x4F && op != 0x3D) || (0x60 ≤ op && op ≤ 0x76) || (0x80 ≤ op && op ≤ 0x88) ||
    (0x90 ≤ op && op ≤ 0x99) || (0xA0 ≤ op && op ≤ 0xB4 && op != 0xA9)

/-- The opcodes that take an immediate or an offset in a Radish word (R78). -/
def radTakesImm (op : Nat) : Bool :=
  isFormI op || isFormMLit op || op == 0x04 || op == 0x05 || op == 0x07 || op == 0x09 || op == 0x23 || op == 0x25

/-- Whether the literal of a Radish word is one that its consumer of 32 bits cannot take (R78). -/
def radMisuse (w : BitVec 64) (ex : List (BitVec 64)) : Bool :=
  let op := opcodeOf (radUpper w)
  let v := ex.headD 0
  let wide := (op == 0x5A && w.extractLsb' 0 16 == 1) ||
    ((op == 0x4D || op == 0x4F) && is64 (modeType ((radMode w).zeroExtend 32)))
  w.getLsbD 16 && radTakesImm op && !wide && v != (v.extractLsb' 0 32).signExtend 64

/-- The fault that a rejected word raises (R73, R79). -/
def rejectFault : Reject → FaultInfo
  | .unlisted => flt 1 0
  | .role => flt 3 0
  | .reserved => flt 1 1

/-! ### Fetching and running -/

/-- What fetching for an agent needs: the agent of its fetches, its place, context and PC, its encoding, and what it may
issue (R37); `mode` is its MODE and `take` how it takes a fault, of a word under a MODE or of the fetch. -/
structure Fetcher where
  agent : Nat
  place : Place
  asid : Nat
  pc : DWord
  rad : Bool
  allows : Nat → Bool
  mode : Word
  take : State → Option (Word × Word) → FaultInfo → State
  /-- the group and the fragment's EM; none for a stream -/
  frag : Option (Nat × Lanes)

/-- The lanes of XREC7 for a fault of a word that is not decoded: EM for a fault of the fetch; else Lanes(), or EM for a
class without guard (R310). -/
def decodeMask (g : Group) (f : Frag) (op : Option (Word × Word)) : Lanes :=
  match op with
  | some (u, mode) => if guardedOp (opcodeOf u) then activeMask g mode f.em else f.em
  | none => f.em

/-- How a fragment fetches. -/
def State.fragFetcher (s : State) (gid fid : Nat) (f : Frag) : Fetcher :=
  let g := s.grp gid
  ⟨fetchAgent gid, s.placeOf gid, s.asidOf g, f.pc, s.radOf g, roleAllows (s.kindOf g), g.mode,
    fun s op e => takeFault s gid fid e (decodeMask g f op), some (gid, f.em)⟩

/-- How a matrix stream fetches (R54, R184). -/
def State.streamFetcher (s : State) (tid : Nat) : Fetcher :=
  ⟨streamFetch tid, s.streamPlace tid, (s.launch (s.team tid).launch).asid, (s.str tid).pc, false, streamAllows, 0,
    fun s _ e => takeStreamFault s tid e, none⟩

/-- What the fetch of the word at the PC leaves. -/
def State.noteFetch (s : State) (x : Fetcher) : State := s.noteWords x.asid x.pc (if x.rad then 2 else 1)

/-- Applies a function to a next state. -/
def Ran.mapNext (r : Ran) (f : State → State) : Ran :=
  match r with
  | .next s => .next (f s)
  | .fault e => .fault e
  | .refused e => .refused e

/-- Runs the meaning of a word whose further words could not be fetched: its own checks stand first, then that fault (R75,
R77). -/
def runLate (s : State) (x : Fetcher) (e : FaultInfo) (run : State → Ran) : Ran :=
  match x.frag with
  | none => .next (x.take s none e)
  | some (gid, em) =>
    (run (s.modGrp gid fun g => { g with late := some (e.cause, e.flag, e.ea, em) })).mapNext fun t =>
      t.modGrp gid fun g => { g with late := none }

/-- Runs the Marrow word at the PC: a listed opcode, which the role may issue, with its literal or table words (R60, R63,
R66, R75). A LIT in a stream is literal misuse whatever follows it (R183); else the checks of the first word stand before a
fault of the fetch of its further words (DEDUCED, log 60). -/
def runMarrow (s : State) (x : Fetcher) (w : Word) : Ran :=
  if !listedOp false (opcodeOf w) then .next (x.take s (some (w, x.mode)) (flt 1 0))
  else if !x.allows (opcodeOf w) then .next (x.take s (some (w, x.mode)) (flt 3 0))
  else if x.frag.isNone && opcodeOf w == 0xFF then .next (x.take s none (flt 1 3))
  else match fetchWords s x.agent x.place x.asid (x.pc + 4) (marrowExtra w) with
    | .error e => match decodeMarrow w (List.replicate (marrowExtra w) 0) with
      | .error r => .next (x.take s (some (w, x.mode)) (rejectFault r))
      | .ok i => runLate s x e (exec i)
    | .ok ex =>
      let s := s.noteWords x.asid (x.pc + 4) (marrowExtra w)
      match decodeMarrow w ex with
      | .error r => .next (x.take s (some (w, x.mode)) (rejectFault r))
      | .ok i => exec i s

/-- Runs the Radish word at the PC, with its literal or table words (R76 to R79) (DEDUCED, log 60). -/
def runRadishWord (s : State) (x : Fetcher) (w : DWord) : Ran :=
  let op := opcodeOf (radUpper w)
  if !listedOp true op then .next (x.take s (some (radUpper w, (radMode w).zeroExtend 32)) (flt 1 0))
  else if !x.allows op then .next (x.take s (some (radUpper w, (radMode w).zeroExtend 32)) (flt 3 0))
  else match fetchWords s x.agent x.place x.asid (x.pc + 8) (2 * radishExtra w) with
    | .error e => runLate s x e fun t => runRadish w (List.replicate (radishExtra w) 0) t
        (fun r => .next (x.take s (some (radUpper w, (radMode w).zeroExtend 32)) (rejectFault r))) id
    | .ok ex =>
      let s := s.noteWords x.asid (x.pc + 8) (2 * radishExtra w)
      let l := pairUp ex
      runRadish w l s (fun r => .next (x.take s (some (radUpper w, (radMode w).zeroExtend 32)) (if radMisuse w l then flt 1 3 else rejectFault r))) id

/-- Fetches, decodes and runs the instruction at an agent's PC. -/
def runAt (s : State) (x : Fetcher) : Ran :=
  match fetchWords s x.agent x.place x.asid x.pc (if x.rad then 2 else 1) with
  | .error e => .next (x.take s none e)
  | .ok ws =>
    let s := s.noteFetch x
    if x.rad then runRadishWord s x (ws.getD 1 0 ++ ws.headD 0) else runMarrow s x (ws.headD 0)

/-- An agent's turn: a fragment or stream that is not there does nothing. -/
def runAgent (s : State) : Agent → Ran
  | .frag gid fid =>
    match afind fid (s.grp gid).frags with
    | some f => runAt s (s.fragFetcher gid fid f)
    | none => .next s
  | .stream tid => if (s.str tid).live then runAt s (s.streamFetcher tid) else .next s

/-- Whether an agent goes on with the consumer of its LIT, which is one instruction with it (R67); a consumer that waits at issue
leaves the slot to others, and its LIT's literal stays with it. -/
def holdsLit (s : State) : Agent → Bool
  | .frag gid fid => ((s.grp gid).frag fid).lit.isSome && ((s.grp gid).frag fid).wait == .run
  | .stream _ => false

/-- The end of an agent's turn; the free choices made are spent (assumption 4). -/
def endTurn (a : Agent) (s : State) : State :=
  { s with cur := if holdsLit s a then some a else none, fresh := s.fresh + 1 }

/-- What the steward cores and the resident OS do: the boot holds them in reset until it releases them (R340). -/
def bySteward : Instr → Bool
  | .stewardCoreAccess _ _ _ | .shallotRequest _ | .bundleLoad _ _ | .idleRequest _ | .mailboxEntryTake _ | .completionWrite _ |
    .sysExit _ _ | .sysLog _ _ _ | .sysMap _ _ _ _ _ | .sysUnmap _ _ _ | .sysLaunch _ _ _ _ _ _ | .sysWait _ _ _ |
    .sysPool _ _ _ | .sysTtset _ _ _ _ _ | .sysDtpage _ _ _ _ | .sysAttest _ _ _ | .sysRecord _ _ _ _ _ | .sysWaitTimeout _ |
    .queueTableWrite _ _ | .ttEntryWrite _ _ | .asidDescriptorWrite _ _ _ | .poolFeed _ | .invalidateGo _ | .schedPreempt |
    .schedRestore | .schedResumeReplay | .schedResumeSkip | .schedEndLaunch | .schedCmdReserved _ | .faultQueueTailWrite _ |
    .registerWrite _ _ => true
  | _ => false

/-- Whether an event can happen: without the main supply nothing runs but its return (R346), and before the boot has completed no
steward core does (R340). -/
def State.mayHappen (s : State) (i : Instr) : Bool :=
  if s.mod.state = 0 then (match i with | .mainSupplyOn _ => true | _ => false)
  else !bySteward i || decide (5 ≤ s.mod.bootStep)

/-- What happens next outside an agent's turn; without the main supply the device does nothing. -/
def runInput (s : State) : Input → Ran
  | .ev i => if s.mayHappen i then exec i s else .next s
  | .tick ns d => .next (if s.mod.state = 0 then s else tick s ns d)
  | .host a bs => .next { s with hostMem := mwrite s.hostMem a bs }
  | .barWrite fn off bs => .next (if s.mod.state = 0 then s else barWrite s fn off bs)
  | .barRead fn off n => .next (if s.mod.state = 0 then s else barRead s fn off n)

/-- The end of an event. -/
def endEvent (s : State) : State := { s with fresh := s.fresh + 1 }

/-- An agent's turn with its end. -/
def turn (s : State) (a : Agent) : Ran := (runAgent s a).mapNext (endTurn a)

/-- The next input with its end; with none, nothing happens (DESIGN CHOICE, log 8; DEDUCED, log 94). -/
def event (s : State) : Ran :=
  match s.inputs with
  | [] => .next s
  | i :: r => (runInput { s with inputs := r } i).mapNext endEvent

/-! ### Placing an instruction for the next step -/

/-- A launch record with one role: kind, count 1, 256 registers, entry offset 0, and no handler (R271, R273). -/
def placedRecord (kind : Nat) : List Byte :=
  List.replicate 24 0 ++ List.replicate 8 0xFF ++ List.replicate 112 0 ++
    [0, 0, 0, 0, 0, 0, BitVec.ofNat 8 (kind + 4), 32, 0, 0, 0, 0, 0, 0] ++
    (List.range 7).flatMap fun _ => [0, 0, 0, 0, 0, 0, 3, 0, 0, 0, 0, 0, 0, 0]

/-- The role kind that may issue an opcode: copy, vector or matrix (R37). -/
def placedKind (op : Nat) : Nat :=
  if 0xE0 ≤ op && op ≤ 0xEC then 2 else if (0xC8 ≤ op && op ≤ 0xCA) || op == 0xD6 then 0 else 1

/-- Eight bytes of a table entry. -/
def placedEntry (a v : Nat) (m : List Host.Cell) : List Host.Cell := mwrite m a (natLe 8 v)

/-- Tables that map virtual page 0 for reading and fetching to the frame at 0x20000 (R294, R296). -/
def placedTables (self : Nat) (m : List Host.Cell) : List Host.Cell :=
  let m := placedEntry (devKey self 0x10000) (0x11000 + 1) m
  let m := placedEntry (devKey self 0x11000) (0x12000 + 1) m
  let m := placedEntry (devKey self 0x12000) (0x13000 + 1) m
  let m := placedEntry (devKey self 0x13000) (0x14000 + 1) m
  placedEntry (devKey self 0x14000) (1 + 2 + 2 ^ 4 + 2 ^ 6 + 2 ^ 7 + 2 ^ 15 + 0x20000 + self * 2 ^ 56) m

/-- Where the agent whose turn it is fetches, if it can. -/
def State.fetchKey (s : State) : Option Nat :=
  match s.cur with
  | none => none
  | some a =>
    let x : Nat × Nat := match a with
      | .frag gid fid => (s.asidOf (s.grp gid), ((s.grp gid).frag fid).pc.toNat)
      | .stream tid => ((s.launch (s.team tid).launch).asid, (s.str tid).pc.toNat)
    match translate s x.1 x.2 .fetch 63 with
    | .ok k _ _ => some k
    | _ => none

/-- A state whose next step is the turn of an agent in VA 0 of a launch with that one agent: what loading a kernel and
dispatching it would leave, in the least form that fetches (assumption 6). -/
def State.placed (s : State) (op : Nat) : State :=
  let kind := placedKind op
  let lid := s.nextLaunch
  let tid := s.nextUnit
  let gid := tid + 1
  let g : Group := { Group.empty with live := true, team := tid, allot := 256, frags := [(0, Frag.entry 0)], nextId := 1 }
  let t : Team := { Team.empty with
    resident := true, launch := lid, winSize := 65536, groups := if kind = 2 then [] else [gid]
    stream := if kind = 2 then some { Stream.empty with live := true, tiles := 8 } else none }
  { s with
    nextLaunch := lid + 1
    nextUnit := tid + 2
    launches := aput lid { Launch.empty with record := placedRecord kind, placed := 1 } s.launches
    teams := aput tid t s.teams
    groups := if kind = 2 then s.groups else aput gid g s.groups
    asids := aput 0 { Asid.empty with en := true, root := 0x10 } s.asids
    mem := placedTables s.self s.mem
    cur := some (if kind = 2 then .stream tid else .frag gid 0) }

/-- Stores an instruction where the next step fetches: at the PC of the agent whose turn it is, and where none is running
or it cannot fetch, in the least launch that can. The bytes above it, up to the longest instruction (256 words, R63), are zero. -/
def State.placeWord (s : State) (w : Nat) : State :=
  let op := opcodeOf (BitVec.ofNat 32 w)
  let p : State × Nat := match s.fetchKey with
    | some k => (s, k)
    | none => (s.placed op, devKey s.self 0x20000)
  let m := p.1.mem.filter fun (c : Host.Cell) => c.1 < p.2 || p.2 + 1024 ≤ c.1
  { p.1 with mem := mwrite m p.2 (wordBytes (BitVec.ofNat 32 w)) }

end Sys2Proof.Machine
end

