-- ==== Sys2Proof/Machine/Step.lean ====
section
/-! DEFINITION. One step: the turn of the agent whose turn it is, or the next input. -/
namespace Sys2Proof.Machine

/-- One step of the device: where an agent has the issue slot, it fetches and runs the instruction at its PC; else the next
event of the device, of time or of the host happens (DESIGN CHOICE, log 8). -/
def step (s : State) : Host.Outcome State Fault Refusal :=
  match s.cur with
  | some a => turn s a
  | none => event s

/-- s with the instruction whose bits are w, and zeros above them, where step fetches next. The opcode table gives bits to
32-bit Marrow words alone; for another length nothing is placed. -/
def State.withFetchWord (s : State) (nbits w : Nat) : State := if nbits = 32 then s.placeWord w else s

end Sys2Proof.Machine
end

