-- ==== Sys2Proof/Safety.lean ====
section
/-! DEFINITION. What claims speak of: a safe step; for every instruction what issue checks of it; a fragment or a stream whose
instruction passes its checks; the state that an instruction's own effect leaves; and what reading a state finds. -/
set_option linter.all false
namespace Sys2Proof

/-- A step is safe when it ends in a next state: neither an access to memory that does not exist nor a refusal. -/
def SafeStep (s : Machine.State) : Prop := ∃ t, Machine.step s = .next t

namespace Machine

/-! ### Instructions of a fragment -/

/-- An instruction of either encoding: the Marrow one, or the Radish one under a MODE of its own. -/
def both (r : Option (BitVec 13)) (m : Instr) (f : BitVec 13 → Instr) : Instr :=
  match r with
  | none => m
  | some w => f w

/-- What issue checks of an instruction of the general map (R37, R39, R48, R63, R66, R73, R74): its opcode, whether its fields
are allowed, the registers it names and whether it reads them, the types it accepts, its immediate. -/
def describe (s : State) : Instr → Info
  | .nop => Info.plain 0x00 none true []
  | .setm _ => Info.plain 0x01 none true []
  | .setms k => Info.plain 0x02 none true [rS k 1]
  | .getm k => Info.plain 0x03 none true [wS k 1]
  | .bra _ off => (Info.plain 0x04 none true []).withImm (.val (off.signExtend 64)) anyImm
  | .brd _ _ _ off => (Info.plain 0x05 none true []).withImm (.val (off.signExtend 64)) anyImm
  | .brx _ v tbl => (Info.plain 0x06 none (tblOk tbl.length) [rV v 1]).plus tbl.length
  | .callAddr b off => (Info.plain 0x07 none (b != 0) [wP b]).withImm (.val (off.signExtend 64)) anyImm
  | .ret b => Info.plain 0x08 none (b != 0) [rP b]
  | .markJoin off => (Info.plain 0x09 none true []).withImm (.val (off.signExtend 64)) anyImm
  | .joinFrags => Info.plain 0x0A none true []
  | .ppush _ => Info.plain 0x0B none true []
  | .pinv => Info.plain 0x0C none true []
  | .ppop => Info.plain 0x0D none true []
  | .emrd k => Info.plain 0x0E none true [wS k 1]
  | .emwr k => Info.plain 0x0F none true [rS k 1]
  | .waitc _ _ _ _ => Info.plain 0x10 none true []
  | .cbatch => Info.plain 0x11 none true []
  | .waitb _ => Info.plain 0x12 none true []
  | .bar c i => Info.plain 0x13 none (barOk c i) []
  | .bara c i => Info.plain 0x14 none (barOk c i) []
  | .barw c i => Info.plain 0x15 none (barOk c i) []
  | .drain c i => Info.plain 0x16 none (barOk c i) []
  | .eqp n => Info.plain 0x17 none (n != 0xFFFF) []
  | .migrTeam _ n => Info.plain 0x18 none (n != 0xFFFF) []
  | .rolesw _ => Info.plain 0x19 none true []
  | .yieldIssue => Info.plain 0x1A none true []
  | .exitFrag => Info.plain 0x1B none true []
  | .trapCode _ => Info.plain 0x1C none true []
  | .xret _ => Info.plain 0x1D none true []
  | .xrd k i => Info.plain 0x1E none (trapIndex i.toNat) [wS k 1]
  | .xwr k i => Info.plain 0x1F none (trapIndex i.toNat) [rS k 1]
  | .sread k i => Info.plain 0x20 none (specialIndex i.toNat k.toNat) [wS k (if sreadWide i.toNat then 2 else 1)]
  | .launchQueue b => Info.plain 0x21 none true [rP b]
  | .ifence => Info.plain 0x22 none true []
  | .cpref _ off => (Info.plain 0x23 none true []).withImm (.val (off.signExtend 64)) anyImm
  | .snooze _ => Info.plain 0x24 none true []
  | .loopCount k off => (Info.plain 0x25 none true [rS k 1]).withImm (.val (off.signExtend 64)) anyImm
  | .iadd d a b => Info.vec 0x30 none true (dab d a b) intTypes
  | .isub d a b => Info.vec 0x31 none true (dab d a b) intTypes
  | .imul d a b => Info.vec 0x32 none true (dab d a b) intTypes
  | .imulh d a b => Info.vec 0x33 none true (dab d a b) intTypes
  | .imad d a b => Info.vec 0x34 none true (dabOld d a b) intTypes
  | .idiv d a b => Info.vec 0x35 none true (dab d a b) intTypes
  | .irem d a b => Info.vec 0x36 none true (dab d a b) intTypes
  | .imin d a b => Info.vec 0x37 none true (dab d a b) intTypes
  | .imax d a b => Info.vec 0x38 none true (dab d a b) intTypes
  | .iabs d a => Info.vec 0x39 none true (da d a) intTypes
  | .ineg d a => Info.vec 0x3A none true (da d a) intTypes
  | .iaddc d a b => Info.vec 0x3B none true (dab d a b) carryTypes
  | .icmp c _ a b => Info.vec 0x3C none (c.toNat < 6) (ab a b) intTypes
  | .selLane d a b => (Info.vec 0x3D none true (fun ty => daMove d a ty ++ [wV b (regsOf ty)]) intTypes).bare
  | .andBits d a b => Info.vec 0x3E none true (dab d a b) intTypes
  | .orBits d a b => Info.vec 0x3F none true (dab d a b) intTypes
  | .xorBits d a b => Info.vec 0x40 none true (dab d a b) intTypes
  | .notBits d a => Info.vec 0x41 none true (da d a) intTypes
  | .shl d a b => Info.vec 0x42 none true (dab d a b) intTypes
  | .shr d a b => Info.vec 0x43 none true (dab d a b) intTypes
  | .sar d a b => Info.vec 0x44 none true (dab d a b) intTypes
  | .rotl d a b => Info.vec 0x45 none true (dab d a b) intTypes
  | .popc d a => Info.vec 0x46 none true (da d a) intTypes
  | .clz d a => Info.vec 0x47 none true (da d a) intTypes
  | .ctz d a => Info.vec 0x48 none true (da d a) intTypes
  | .brev d a => Info.vec 0x49 none true (da d a) intTypes
  | .bfe d a b => Info.vec 0x4A none true (dab d a b) intTypes
  | .bfi d a b => Info.vec 0x4B none true (dabOld d a b) intTypes
  | .movLane d a => Info.vec 0x4C none true (da d a) intTypes
  | .movi d i => ((Info.vec 0x4D none true (fun ty => [wV d (regsOf ty)]) intTypes).withImm (.byte i) anyImm).wideUnder is64
  | .lea d k b => (Info.vec 0x4E none (evenReg d.toNat) (fun _ => wV d 2 :: rP b :: offV k) intTypes).withImm .off anyImm
  | .iaddi d a i => ((Info.vec 0x4F none true (da d a) intTypes).withImm (.byte i) anyImm).wideUnder is64
  | .sadd d a b => Info.plain 0x50 none true [wS d 1, rS a 1, rS b 1]
  | .ssub d a b => Info.plain 0x51 none true [wS d 1, rS a 1, rS b 1]
  | .smul d a b => Info.plain 0x52 none true [wS d 1, rS a 1, rS b 1]
  | .sand d a b => Info.plain 0x53 none true [wS d 1, rS a 1, rS b 1]
  | .sor d a b => Info.plain 0x54 none true [wS d 1, rS a 1, rS b 1]
  | .sxor d a b => Info.plain 0x55 none true [wS d 1, rS a 1, rS b 1]
  | .sshl d a b => Info.plain 0x56 none true [wS d 1, rS a 1, rS b 1]
  | .sshr d a b => Info.plain 0x57 none true [wS d 1, rS a 1, rS b 1]
  | .scmp c _ a b => Info.plain 0x58 none (c.toNat < 6) [rS a 1, rS b 1]
  | .smov d a => Info.plain 0x59 none true [wS d 1, rS a 1]
  | .smovi d i => ((Info.plain 0x5A none true [wS d (if s.wideLit then 2 else 1)]).withImm (.byte i) anyImm).wideUnder fun _ => true
  | .slea d b => (Info.plain 0x5B none (evenReg d.toNat) [wS d 2, rP b]).withImm .off anyImm
  | .vtos d a => Info.plain 0x5C none true [wS d 1, wV a 1]
  | .stov d a => Info.plain 0x5D none true [wV d 1, rS a 1]
  | .smin d a b => Info.plain 0x5E none true [wS d 1, rS a 1, rS b 1]
  | .smax d a b => Info.plain 0x5F none true [wS d 1, rS a 1, rS b 1]
  | .fadd d a b => Info.vec 0x60 none true (dab d a b) floatTypes
  | .fsub d a b => Info.vec 0x61 none true (dab d a b) floatTypes
  | .fmul d a b => Info.vec 0x62 none true (dab d a b) floatTypes
  | .ffma d a b => Info.vec 0x63 none true (dabOld d a b) floatTypes
  | .fmin d a b => Info.vec 0x64 none true (dab d a b) floatTypes
  | .fmax d a b => Info.vec 0x65 none true (dab d a b) floatTypes
  | .fabs d a => Info.vec 0x66 none true (da d a) floatTypes
  | .fneg d a => Info.vec 0x67 none true (da d a) floatTypes
  | .fcmp c _ a b => Info.vec 0x68 none (c.toNat < 7) (ab a b) floatTypes
  | .fclass d a => Info.vec 0x69 none true (fun ty => [wV d 1, rV a (regsOf ty)]) floatTypes
  | .fdiv d a b => Info.vec 0x6A none true (dab d a b) floatTypes
  | .fsqrt d a => Info.vec 0x6B none true (da d a) floatTypes
  | .frnd d a => Info.vec 0x6C none true (da d a) floatTypes
  | .fldexp d a b => Info.vec 0x6D none true (fun ty => da d a ty ++ [rV b 1]) floatTypes
  | .fexpo d a => Info.vec 0x6E none true (fun ty => [wV d 1, rV a (regsOf ty)]) floatTypes
  | .fsgnj d a b => Info.vec 0x6F none true (dab d a b) floatTypes
  | .frcp d a => Info.vec 0x70 none true (da d a) sfuTypes
  | .frsq d a => Info.vec 0x71 none true (da d a) sfuTypes
  | .fex2 d a => Info.vec 0x72 none true (da d a) sfuTypes
  | .flg2 d a => Info.vec 0x73 none true (da d a) sfuTypes
  | .fsin d a => Info.vec 0x74 none true (da d a) sfuTypes
  | .fcos d a => Info.vec 0x75 none true (da d a) sfuTypes
  | .ftanh d a => Info.vec 0x76 none true (da d a) sfuTypes
  | .cvt d a src => Info.vec 0x80 none (src.toNat < 12) (fun ty => [wV d (regsOf ty), rV a (regsOf src.toNat)]) cvtTypes
  | .cvti d a src => Info.vec 0x81 none ((2 ≤ src.toNat && src.toNat ≤ 5)) (fun ty => [wV d (regsOf ty), rV a (regsOf src.toNat)]) intTypes
  | .pack d a b => Info.vec 0x82 none true (packU d a b) packTypes
  | .unpk d a => Info.vec 0x83 none true (unpkU d a) packTypes
  | .qhist d a b => Info.vec 0x84 none true (fun _ => histR d ++ [rV a 1, wV b 1]) quantTypes
  | .qscale d a b => Info.vec 0x85 none true (fun _ => wV d 1 :: histR a ++ [wV b 1]) quantTypes
  | .quant d a b => Info.vec 0x86 none true (dab d a b) quantTypes
  | .deq d a b => Info.vec 0x87 none true (dab d a b) quantTypes
  | .qclr d => Info.vec 0x88 none true (fun _ => histW d) quantTypes
  | .shfl d a b => Info.vec 0x90 none true (fun ty => daMove d a ty ++ [rV b 1]) crossTypes
  | .shflu d a i => (Info.vec 0x91 none true (daMove d a) crossTypes).withImm (.byte i) (below 32)
  | .shfld d a i => (Info.vec 0x92 none true (daMove d a) crossTypes).withImm (.byte i) (below 32)
  | .shflx d a i => (Info.vec 0x93 none true (daMove d a) crossTypes).withImm (.byte i) (below 32)
  | .vote d _ i => (Info.vec 0x94 none true (fun _ => [wS d 1]) (fun _ => true)).withImm (.byte i) (below 3)
  | .redu d a i => ((Info.vec 0x95 none true (da d a) crossTypes).withImm (.byte i) (below 7)).typed redTypes
  | .scanLanes d a i => ((Info.vec 0x96 none true (da d a) crossTypes).withImm (.byte i) (below 7)).typed redTypes
  | .matchLanes d a => Info.vec 0x97 none true (fun ty => [wV d 1, rV a (regsOf ty)]) crossTypes
  | .bcast d a i => (Info.vec 0x98 none true (daMove d a) crossTypes).withImm (.byte i) (below 32)
  | .firstLane d a => Info.vec 0x99 none true (daMove d a) crossTypes
  | .ldGlobal d k sc _ b => (Info.vec 0xA0 none (sc.toNat < 6) (memU k b (ldData d)) memTypes).withImm .off anyImm
  | .stGlobal d k sc _ b => (Info.vec 0xA1 none (sc.toNat < 6) (memU k b (stData d)) memTypes).withImm .off anyImm
  | .ldx d k sc _ b => (Info.vec 0xA2 none (sc.toNat < 6) (memU k b (ldData d)) extTypes).withImm .off anyImm
  | .stx d k sc _ b => (Info.vec 0xA3 none (sc.toNat < 6) (memU k b (stData d)) extTypes).withImm .off anyImm
  | .lds d k => (Info.vec 0xA4 none true (fun ty => wV d (regsOf ty) :: offV k) lsTypes).withImm .off anyImm
  | .sts d k => (Info.vec 0xA5 none true (fun ty => rV d (regsOf ty) :: offV k) lsTypes).withImm .off anyImm
  | .ldp d k => (Info.vec 0xA6 none true (fun ty => wV d (regsOf ty) :: offV k) lsTypes).withImm .off anyImm
  | .stp d k => (Info.vec 0xA7 none true (fun ty => rV d (regsOf ty) :: offV k) lsTypes).withImm .off anyImm
  | .stn d k sc _ b => (Info.vec 0xA8 none (sc.toNat < 6) (memU k b (stData d)) memTypes).withImm .off anyImm
  | .srset k => Info.plain 0xA9 none true [rS k 1]
  | .atadd d k sc _ b => (Info.vec 0xAA none (sc.toNat < 6) (memU k b (stData d)) addTypes).withImm .off anyImm
  | .atmin d k sc _ b => (Info.vec 0xAB none (sc.toNat < 6) (memU k b (stData d)) minTypes).withImm .off anyImm
  | .atmax d k sc _ b => (Info.vec 0xAC none (sc.toNat < 6) (memU k b (stData d)) minTypes).withImm .off anyImm
  | .atand d k sc _ b => (Info.vec 0xAD none (sc.toNat < 6) (memU k b (stData d)) logicTypes).withImm .off anyImm
  | .ator d k sc _ b => (Info.vec 0xAE none (sc.toNat < 6) (memU k b (stData d)) logicTypes).withImm .off anyImm
  | .atxor d k sc _ b => (Info.vec 0xAF none (sc.toNat < 6) (memU k b (stData d)) logicTypes).withImm .off anyImm
  | .atxch d k sc _ b => (Info.vec 0xB0 none (sc.toNat < 6) (memU k b (stData d)) xchTypes).withImm .off anyImm
  | .atcas d k sc _ b => (Info.vec 0xB1 none (evenReg d.toNat && sc.toNat < 6) (memU k b (casData d)) xchTypes).withImm .off anyImm
  | .redadd d k sc _ b => (Info.vec 0xB2 none (sc.toNat < 6) (memU k b (stData d)) addTypes).withImm .off anyImm
  | .redmin d k sc _ b => (Info.vec 0xB3 none (sc.toNat < 6) (memU k b (stData d)) minTypes).withImm .off anyImm
  | .redmax d k sc _ b => (Info.vec 0xB4 none (sc.toNat < 6) (memU k b (stData d)) minTypes).withImm .off anyImm
  | .fence sc o seq => Info.plain 0xB5 none (sc.toNat < 6 && (!seq || o == 3)) []
  | .ofence sc _ b => Info.plain 0xB6 none (sc.toNat < 6) [rP b]
  | .rflush n b => (Info.plain 0xB7 none true [rS n 1, rP b]).withImm .off anyImm
  | .rinv n b => (Info.plain 0xB8 none true [rS n 1, rP b]).withImm .off anyImm
  | .pfetch k b => (Info.plain 0xB9 none true (rP b :: offV k)).withImm .off anyImm
  | .locate k b => (Info.plain 0xBA none true (rP b :: offV k)).withImm .off anyImm
  | .repark n b => (Info.plain 0xBB none true [rS n 1, rP b]).withImm .off anyImm
  | .unpark n b => (Info.plain 0xBC none true [rS n 1, rP b]).withImm .off anyImm
  | .objdef n b => Info.plain 0xBD none true [wS n 1, rP b]
  | .objdel n => Info.plain 0xBE none true [rS n 1]
  | .pcommit n b => (Info.plain 0xC0 none true [rS n 1, rP b]).withImm .off anyImm
  | .pdecommit n b => (Info.plain 0xC1 none true [rS n 1, rP b]).withImm .off anyImm
  | .allocBlock n => Info.plain 0xC2 none (evenReg n.toNat) [rS n 1, wS n 2]
  | .freeBlock n => Info.plain 0xC3 none (evenReg n.toNat) [rS n 2]
  | .pquery n b => (Info.plain 0xC4 none true [wS n 1, rP b]).withImm .off anyImm
  | .tcopy d a b => Info.plain 0xC8 none (evenReg b.toNat) (wS d 1 :: rS b 2 :: blockU a)
  | .tcopym d a b => Info.plain 0xC9 none (evenReg b.toNat) (wS d 1 :: rS b 2 :: blockU a)
  | .chain d a => Info.plain 0xCA none true [wS d 1, rS a 1]
  | .bbinit a b => Info.plain 0xCB none true [rS a 1, rS b 1]
  | .bbexp a b => Info.plain 0xCC none true [rS a 1, rS b 1]
  | .bbwait d a => Info.plain 0xCD none true [wS d 1, rS a 1]
  | .bbinv a => Info.plain 0xCE none true [rS a 1]
  | .bbarr a b => Info.plain 0xCF none true [rS a 1, rS b 1]
  | .rinit a => Info.plain 0xD0 none true [rS a 1]
  | .racq d a => Info.plain 0xD1 none true [wS d 1, rS a 1]
  | .rpub d a b => Info.plain 0xD2 none true [rS d 1, rS a 1, rS b 1]
  | .rtake d a => Info.plain 0xD3 none true [wS d 1, rS a 1]
  | .rdone a b => Info.plain 0xD4 none true [rS a 1, rS b 1]
  | .rclose a => Info.plain 0xD5 none true [rS a 1]
  | .spush a b => Info.plain 0xD6 none true [rS a 1, rS b 1]
  | .lit wide v => Info.plain 0xFF none (litOk wide v) []
  | .nopRadish w => Info.plain 0x00 (some w) true []
  | .getmRadish w k => Info.plain 0x03 (some w) true [wS k 1]
  | .braRadish w _ off => (Info.plain 0x04 (some w) (rimmOk off) []).withImm (.rad off) anyImm
  | .brdRadish w _ _ _ off => (Info.plain 0x05 (some w) (rimmOk off) []).withImm (.rad off) anyImm
  | .brxRadish w _ v tbl => (Info.plain 0x06 (some w) (tblOk tbl.length) [rV v 1]).plus tbl.length
  | .callAddrRadish w b off => (Info.plain 0x07 (some w) (b != 0 && rimmOk off) [wP b]).withImm (.rad off) anyImm
  | .retRadish w b => Info.plain 0x08 (some w) (b != 0) [rP b]
  | .markJoinRadish w off => (Info.plain 0x09 (some w) (rimmOk off) []).withImm (.rad off) anyImm
  | .joinFragsRadish w => Info.plain 0x0A (some w) true []
  | .ppushRadish w _ => Info.plain 0x0B (some w) true []
  | .pinvRadish w => Info.plain 0x0C (some w) true []
  | .ppopRadish w => Info.plain 0x0D (some w) true []
  | .emrdRadish w k => Info.plain 0x0E (some w) true [wS k 1]
  | .emwrRadish w k => Info.plain 0x0F (some w) true [rS k 1]
  | .waitcRadish w _ _ _ _ => Info.plain 0x10 (some w) true []
  | .cbatchRadish w => Info.plain 0x11 (some w) true []
  | .waitbRadish w _ => Info.plain 0x12 (some w) true []
  | .barRadish w c i => Info.plain 0x13 (some w) (barOk c i) []
  | .baraRadish w c i => Info.plain 0x14 (some w) (barOk c i) []
  | .barwRadish w c i => Info.plain 0x15 (some w) (barOk c i) []
  | .drainRadish w c i => Info.plain 0x16 (some w) (barOk c i) []
  | .eqpRadish w n => Info.plain 0x17 (some w) (n != 0xFFFF) []
  | .migrTeamRadish w _ n => Info.plain 0x18 (some w) (n != 0xFFFF) []
  | .roleswRadish w _ => Info.plain 0x19 (some w) true []
  | .yieldIssueRadish w => Info.plain 0x1A (some w) true []
  | .exitFragRadish w => Info.plain 0x1B (some w) true []
  | .trapCodeRadish w _ => Info.plain 0x1C (some w) true []
  | .xretRadish w _ => Info.plain 0x1D (some w) true []
  | .xrdRadish w k i => Info.plain 0x1E (some w) (trapIndex i.toNat) [wS k 1]
  | .xwrRadish w k i => Info.plain 0x1F (some w) (trapIndex i.toNat) [rS k 1]
  | .sreadRadish w k i => Info.plain 0x20 (some w) (specialIndex i.toNat k.toNat) [wS k (if sreadWide i.toNat then 2 else 1)]
  | .launchQueueRadish w b => Info.plain 0x21 (some w) true [rP b]
  | .ifenceRadish w => Info.plain 0x22 (some w) true []
  | .cprefRadish w _ off => (Info.plain 0x23 (some w) (rimmOk off) []).withImm (.rad off) anyImm
  | .snoozeRadish w _ => Info.plain 0x24 (some w) true []
  | .loopCountRadish w k off => (Info.plain 0x25 (some w) (rimmOk off) [rS k 1]).withImm (.rad off) anyImm
  | .iaddRadish w d a b => Info.vec 0x30 (some w) true (dab d a b) intTypes
  | .isubRadish w d a b => Info.vec 0x31 (some w) true (dab d a b) intTypes
  | .imulRadish w d a b => Info.vec 0x32 (some w) true (dab d a b) intTypes
  | .imulhRadish w d a b => Info.vec 0x33 (some w) true (dab d a b) intTypes
  | .imadRadish w d a b => Info.vec 0x34 (some w) true (dabOld d a b) intTypes
  | .idivRadish w d a b => Info.vec 0x35 (some w) true (dab d a b) intTypes
  | .iremRadish w d a b => Info.vec 0x36 (some w) true (dab d a b) intTypes
  | .iminRadish w d a b => Info.vec 0x37 (some w) true (dab d a b) intTypes
  | .imaxRadish w d a b => Info.vec 0x38 (some w) true (dab d a b) intTypes
  | .iabsRadish w d a => Info.vec 0x39 (some w) true (da d a) intTypes
  | .inegRadish w d a => Info.vec 0x3A (some w) true (da d a) intTypes
  | .iaddcRadish w d a b => Info.vec 0x3B (some w) true (dab d a b) carryTypes
  | .icmpRadish w c _ a b => Info.vec 0x3C (some w) (c.toNat < 6) (ab a b) intTypes
  | .selLaneRadish w d a b => (Info.vec 0x3D (some w) true (fun ty => daMove d a ty ++ [wV b (regsOf ty)]) intTypes).bare
  | .andBitsRadish w d a b => Info.vec 0x3E (some w) true (dab d a b) intTypes
  | .orBitsRadish w d a b => Info.vec 0x3F (some w) true (dab d a b) intTypes
  | .xorBitsRadish w d a b => Info.vec 0x40 (some w) true (dab d a b) intTypes
  | .notBitsRadish w d a => Info.vec 0x41 (some w) true (da d a) intTypes
  | .shlRadish w d a b => Info.vec 0x42 (some w) true (dab d a b) intTypes
  | .shrRadish w d a b => Info.vec 0x43 (some w) true (dab d a b) intTypes
  | .sarRadish w d a b => Info.vec 0x44 (some w) true (dab d a b) intTypes
  | .rotlRadish w d a b => Info.vec 0x45 (some w) true (dab d a b) intTypes
  | .popcRadish w d a => Info.vec 0x46 (some w) true (da d a) intTypes
  | .clzRadish w d a => Info.vec 0x47 (some w) true (da d a) intTypes
  | .ctzRadish w d a => Info.vec 0x48 (some w) true (da d a) intTypes
  | .brevRadish w d a => Info.vec 0x49 (some w) true (da d a) intTypes
  | .bfeRadish w d a b => Info.vec 0x4A (some w) true (dab d a b) intTypes
  | .bfiRadish w d a b => Info.vec 0x4B (some w) true (dabOld d a b) intTypes
  | .movLaneRadish w d a => Info.vec 0x4C (some w) true (da d a) intTypes
  | .moviRadish w d i => ((Info.vec 0x4D (some w) (rimmOk i) (fun ty => [wV d (regsOf ty)]) intTypes).withImm (.rad i) anyImm).wideUnder is64
  | .leaRadish w d k b off => (Info.vec 0x4E (some w) (evenReg d.toNat && rimmOk off) (fun _ => wV d 2 :: rP b :: offV k) intTypes).withImm (.rad off) anyImm
  | .iaddiRadish w d a i => ((Info.vec 0x4F (some w) (rimmOk i) (da d a) intTypes).withImm (.rad i) anyImm).wideUnder is64
  | .saddRadish w d a b => Info.plain 0x50 (some w) true [wS d 1, rS a 1, rS b 1]
  | .ssubRadish w d a b => Info.plain 0x51 (some w) true [wS d 1, rS a 1, rS b 1]
  | .smulRadish w d a b => Info.plain 0x52 (some w) true [wS d 1, rS a 1, rS b 1]
  | .sandRadish w d a b => Info.plain 0x53 (some w) true [wS d 1, rS a 1, rS b 1]
  | .sorRadish w d a b => Info.plain 0x54 (some w) true [wS d 1, rS a 1, rS b 1]
  | .sxorRadish w d a b => Info.plain 0x55 (some w) true [wS d 1, rS a 1, rS b 1]
  | .sshlRadish w d a b => Info.plain 0x56 (some w) true [wS d 1, rS a 1, rS b 1]
  | .sshrRadish w d a b => Info.plain 0x57 (some w) true [wS d 1, rS a 1, rS b 1]
  | .scmpRadish w c _ a b => Info.plain 0x58 (some w) (c.toNat < 6) [rS a 1, rS b 1]
  | .smovRadish w d a => Info.plain 0x59 (some w) true [wS d 1, rS a 1]
  | .smoviRadish w d i => ((Info.plain 0x5A (some w) (rimmPairOk i) [wS d (if (radPair i) then 2 else 1)]).withImm (.rad i) anyImm).wideUnder fun _ => radPair i
  | .sleaRadish w d b off => (Info.plain 0x5B (some w) (evenReg d.toNat && rimmOk off) [wS d 2, rP b]).withImm (.rad off) anyImm
  | .vtosRadish w d a => Info.plain 0x5C (some w) true [wS d 1, wV a 1]
  | .stovRadish w d a => Info.plain 0x5D (some w) true [wV d 1, rS a 1]
  | .sminRadish w d a b => Info.plain 0x5E (some w) true [wS d 1, rS a 1, rS b 1]
  | .smaxRadish w d a b => Info.plain 0x5F (some w) true [wS d 1, rS a 1, rS b 1]
  | .faddRadish w d a b => Info.vec 0x60 (some w) true (dab d a b) floatTypes
  | .fsubRadish w d a b => Info.vec 0x61 (some w) true (dab d a b) floatTypes
  | .fmulRadish w d a b => Info.vec 0x62 (some w) true (dab d a b) floatTypes
  | .ffmaRadish w d a b => Info.vec 0x63 (some w) true (dabOld d a b) floatTypes
  | .fminRadish w d a b => Info.vec 0x64 (some w) true (dab d a b) floatTypes
  | .fmaxRadish w d a b => Info.vec 0x65 (some w) true (dab d a b) floatTypes
  | .fabsRadish w d a => Info.vec 0x66 (some w) true (da d a) floatTypes
  | .fnegRadish w d a => Info.vec 0x67 (some w) true (da d a) floatTypes
  | .fcmpRadish w c _ a b => Info.vec 0x68 (some w) (c.toNat < 7) (ab a b) floatTypes
  | .fclassRadish w d a => Info.vec 0x69 (some w) true (fun ty => [wV d 1, rV a (regsOf ty)]) floatTypes
  | .fdivRadish w d a b => Info.vec 0x6A (some w) true (dab d a b) floatTypes
  | .fsqrtRadish w d a => Info.vec 0x6B (some w) true (da d a) floatTypes
  | .frndRadish w d a => Info.vec 0x6C (some w) true (da d a) floatTypes
  | .fldexpRadish w d a b => Info.vec 0x6D (some w) true (fun ty => da d a ty ++ [rV b 1]) floatTypes
  | .fexpoRadish w d a => Info.vec 0x6E (some w) true (fun ty => [wV d 1, rV a (regsOf ty)]) floatTypes
  | .fsgnjRadish w d a b => Info.vec 0x6F (some w) true (dab d a b) floatTypes
  | .frcpRadish w d a => Info.vec 0x70 (some w) true (da d a) sfuTypes
  | .frsqRadish w d a => Info.vec 0x71 (some w) true (da d a) sfuTypes
  | .fex2Radish w d a => Info.vec 0x72 (some w) true (da d a) sfuTypes
  | .flg2Radish w d a => Info.vec 0x73 (some w) true (da d a) sfuTypes
  | .fsinRadish w d a => Info.vec 0x74 (some w) true (da d a) sfuTypes
  | .fcosRadish w d a => Info.vec 0x75 (some w) true (da d a) sfuTypes
  | .ftanhRadish w d a => Info.vec 0x76 (some w) true (da d a) sfuTypes
  | .cvtRadish w d a src => Info.vec 0x80 (some w) (src.toNat < 12) (fun ty => [wV d (regsOf ty), rV a (regsOf src.toNat)]) cvtTypes
  | .cvtiRadish w d a src => Info.vec 0x81 (some w) ((2 ≤ src.toNat && src.toNat ≤ 5)) (fun ty => [wV d (regsOf ty), rV a (regsOf src.toNat)]) intTypes
  | .packRadish w d a b => Info.vec 0x82 (some w) true (packU d a b) packTypes
  | .unpkRadish w d a => Info.vec 0x83 (some w) true (unpkU d a) packTypes
  | .qhistRadish w d a b => Info.vec 0x84 (some w) true (fun _ => histR d ++ [rV a 1, wV b 1]) quantTypes
  | .qscaleRadish w d a b => Info.vec 0x85 (some w) true (fun _ => wV d 1 :: histR a ++ [wV b 1]) quantTypes
  | .quantRadish w d a b => Info.vec 0x86 (some w) true (dab d a b) quantTypes
  | .deqRadish w d a b => Info.vec 0x87 (some w) true (dab d a b) quantTypes
  | .qclrRadish w d => Info.vec 0x88 (some w) true (fun _ => histW d) quantTypes
  | .shflRadish w d a b => Info.vec 0x90 (some w) true (fun ty => daMove d a ty ++ [rV b 1]) crossTypes
  | .shfluRadish w d a i => (Info.vec 0x91 (some w) (rimmOk i) (daMove d a) crossTypes).withImm (.rad i) (below 32)
  | .shfldRadish w d a i => (Info.vec 0x92 (some w) (rimmOk i) (daMove d a) crossTypes).withImm (.rad i) (below 32)
  | .shflxRadish w d a i => (Info.vec 0x93 (some w) (rimmOk i) (daMove d a) crossTypes).withImm (.rad i) (below 32)
  | .voteRadish w d _ i => (Info.vec 0x94 (some w) (rimmOk i) (fun _ => [wS d 1]) (fun _ => true)).withImm (.rad i) (below 3)
  | .reduRadish w d a i => ((Info.vec 0x95 (some w) (rimmOk i) (da d a) crossTypes).withImm (.rad i) (below 7)).typed redTypes
  | .scanLanesRadish w d a i => ((Info.vec 0x96 (some w) (rimmOk i) (da d a) crossTypes).withImm (.rad i) (below 7)).typed redTypes
  | .matchLanesRadish w d a => Info.vec 0x97 (some w) true (fun ty => [wV d 1, rV a (regsOf ty)]) crossTypes
  | .bcastRadish w d a i => (Info.vec 0x98 (some w) (rimmOk i) (daMove d a) crossTypes).withImm (.rad i) (below 32)
  | .firstLaneRadish w d a => Info.vec 0x99 (some w) true (daMove d a) crossTypes
  | .ldGlobalRadish w d k sc _ b off => (Info.vec 0xA0 (some w) (sc.toNat < 6 && rimmOk off) (memU k b (ldData d)) memTypes).withImm (.rad off) anyImm
  | .stGlobalRadish w d k sc _ b off => (Info.vec 0xA1 (some w) (sc.toNat < 6 && rimmOk off) (memU k b (stData d)) memTypes).withImm (.rad off) anyImm
  | .ldxRadish w d k sc _ b off => (Info.vec 0xA2 (some w) (sc.toNat < 6 && rimmOk off) (memU k b (ldData d)) extTypes).withImm (.rad off) anyImm
  | .stxRadish w d k sc _ b off => (Info.vec 0xA3 (some w) (sc.toNat < 6 && rimmOk off) (memU k b (stData d)) extTypes).withImm (.rad off) anyImm
  | .ldsRadish w d k off => (Info.vec 0xA4 (some w) (rimmOk off) (fun ty => wV d (regsOf ty) :: offV k) lsTypes).withImm (.rad off) anyImm
  | .stsRadish w d k off => (Info.vec 0xA5 (some w) (rimmOk off) (fun ty => rV d (regsOf ty) :: offV k) lsTypes).withImm (.rad off) anyImm
  | .ldpRadish w d k off => (Info.vec 0xA6 (some w) (rimmOk off) (fun ty => wV d (regsOf ty) :: offV k) lsTypes).withImm (.rad off) anyImm
  | .stpRadish w d k off => (Info.vec 0xA7 (some w) (rimmOk off) (fun ty => rV d (regsOf ty) :: offV k) lsTypes).withImm (.rad off) anyImm
  | .stnRadish w d k sc _ b off => (Info.vec 0xA8 (some w) (sc.toNat < 6 && rimmOk off) (memU k b (stData d)) memTypes).withImm (.rad off) anyImm
  | .srsetRadish w k => Info.plain 0xA9 (some w) true [rS k 1]
  | .ataddRadish w d k sc _ b off => (Info.vec 0xAA (some w) (sc.toNat < 6 && rimmOk off) (memU k b (stData d)) addTypes).withImm (.rad off) anyImm
  | .atminRadish w d k sc _ b off => (Info.vec 0xAB (some w) (sc.toNat < 6 && rimmOk off) (memU k b (stData d)) minTypes).withImm (.rad off) anyImm
  | .atmaxRadish w d k sc _ b off => (Info.vec 0xAC (some w) (sc.toNat < 6 && rimmOk off) (memU k b (stData d)) minTypes).withImm (.rad off) anyImm
  | .atandRadish w d k sc _ b off => (Info.vec 0xAD (some w) (sc.toNat < 6 && rimmOk off) (memU k b (stData d)) logicTypes).withImm (.rad off) anyImm
  | .atorRadish w d k sc _ b off => (Info.vec 0xAE (some w) (sc.toNat < 6 && rimmOk off) (memU k b (stData d)) logicTypes).withImm (.rad off) anyImm
  | .atxorRadish w d k sc _ b off => (Info.vec 0xAF (some w) (sc.toNat < 6 && rimmOk off) (memU k b (stData d)) logicTypes).withImm (.rad off) anyImm
  | .atxchRadish w d k sc _ b off => (Info.vec 0xB0 (some w) (sc.toNat < 6 && rimmOk off) (memU k b (stData d)) xchTypes).withImm (.rad off) anyImm
  | .atcasRadish w d k sc _ b off => (Info.vec 0xB1 (some w) (evenReg d.toNat && sc.toNat < 6 && rimmOk off) (memU k b (casData d)) xchTypes).withImm (.rad off) anyImm
  | .redaddRadish w d k sc _ b off => (Info.vec 0xB2 (some w) (sc.toNat < 6 && rimmOk off) (memU k b (stData d)) addTypes).withImm (.rad off) anyImm
  | .redminRadish w d k sc _ b off => (Info.vec 0xB3 (some w) (sc.toNat < 6 && rimmOk off) (memU k b (stData d)) minTypes).withImm (.rad off) anyImm
  | .redmaxRadish w d k sc _ b off => (Info.vec 0xB4 (some w) (sc.toNat < 6 && rimmOk off) (memU k b (stData d)) minTypes).withImm (.rad off) anyImm
  | .fenceRadish w sc o seq => Info.plain 0xB5 (some w) (sc.toNat < 6 && (!seq || o == 3)) []
  | .ofenceRadish w sc _ b => Info.plain 0xB6 (some w) (sc.toNat < 6) [rP b]
  | .rflushRadish w n b off => (Info.plain 0xB7 (some w) (rimmOk off) [rS n 1, rP b]).withImm (.rad off) anyImm
  | .rinvRadish w n b off => (Info.plain 0xB8 (some w) (rimmOk off) [rS n 1, rP b]).withImm (.rad off) anyImm
  | .pfetchRadish w k b off => (Info.plain 0xB9 (some w) (rimmOk off) (rP b :: offV k)).withImm (.rad off) anyImm
  | .locateRadish w k b off => (Info.plain 0xBA (some w) (rimmOk off) (rP b :: offV k)).withImm (.rad off) anyImm
  | .reparkRadish w n b off => (Info.plain 0xBB (some w) (rimmOk off) [rS n 1, rP b]).withImm (.rad off) anyImm
  | .unparkRadish w n b off => (Info.plain 0xBC (some w) (rimmOk off) [rS n 1, rP b]).withImm (.rad off) anyImm
  | .objdefRadish w n b => Info.plain 0xBD (some w) true [wS n 1, rP b]
  | .objdelRadish w n => Info.plain 0xBE (some w) true [rS n 1]
  | .pcommitRadish w n b off => (Info.plain 0xC0 (some w) (rimmOk off) [rS n 1, rP b]).withImm (.rad off) anyImm
  | .pdecommitRadish w n b off => (Info.plain 0xC1 (some w) (rimmOk off) [rS n 1, rP b]).withImm (.rad off) anyImm
  | .allocBlockRadish w n => Info.plain 0xC2 (some w) (evenReg n.toNat) [rS n 1, wS n 2]
  | .freeBlockRadish w n => Info.plain 0xC3 (some w) (evenReg n.toNat) [rS n 2]
  | .pqueryRadish w n b off => (Info.plain 0xC4 (some w) (rimmOk off) [wS n 1, rP b]).withImm (.rad off) anyImm
  | .tcopyRadish w d a b => Info.plain 0xC8 (some w) (evenReg b.toNat) (wS d 1 :: rS b 2 :: blockU a)
  | .tcopymRadish w d a b => Info.plain 0xC9 (some w) (evenReg b.toNat) (wS d 1 :: rS b 2 :: blockU a)
  | .chainRadish w d a => Info.plain 0xCA (some w) true [wS d 1, rS a 1]
  | .bbinitRadish w a b => Info.plain 0xCB (some w) true [rS a 1, rS b 1]
  | .bbexpRadish w a b => Info.plain 0xCC (some w) true [rS a 1, rS b 1]
  | .bbwaitRadish w d a => Info.plain 0xCD (some w) true [wS d 1, rS a 1]
  | .bbinvRadish w a => Info.plain 0xCE (some w) true [rS a 1]
  | .bbarrRadish w a b => Info.plain 0xCF (some w) true [rS a 1, rS b 1]
  | .rinitRadish w a => Info.plain 0xD0 (some w) true [rS a 1]
  | .racqRadish w d a => Info.plain 0xD1 (some w) true [wS d 1, rS a 1]
  | .rpubRadish w d a b => Info.plain 0xD2 (some w) true [rS d 1, rS a 1, rS b 1]
  | .rtakeRadish w d a => Info.plain 0xD3 (some w) true [wS d 1, rS a 1]
  | .rdoneRadish w a b => Info.plain 0xD4 (some w) true [rS a 1, rS b 1]
  | .rcloseRadish w a => Info.plain 0xD5 (some w) true [rS a 1]
  | .spushRadish w a b => Info.plain 0xD6 (some w) true [rS a 1, rS b 1]
  | _ => Info.plain 0 none true []

/-- The context in which a fragment runs an instruction. -/
def ctxOf (s : State) (gid fid : Nat) (i : Instr) : Ctx :=
  mkCtx gid fid (s.grp gid) ((s.grp gid).frag fid) (describe s i)

/-- A fragment has the issue slot, and its instruction passes the checks of R75: the role may issue the opcode, its fields
and its literal are allowed, its registers lie in the allotment, MODE is legal and its type accepted, no register that it
names is pending, none that it reads is poisoned. -/
def CanIssue (s : State) (gid fid : Nat) (i : Instr) : Prop :=
  s.cur = some (.frag gid fid) ∧ (afind fid (s.grp gid).frags).isSome = true ∧
    precheck s (s.grp gid) ((s.grp gid).frag fid) (describe s i) = none ∧
    postcheck (s.grp gid) (describe s i) (ctxOf s gid fid i).act (ctxOf s gid fid i).imm = none

/-- The state in which the effect of an instruction begins: its MODE loaded (R77), results that it is interlocked with
landed (R48). -/
def entered (s : State) (gid : Nat) (i : Instr) : State := enter s gid (describe s i)

/-- The group as the effect of an instruction finds it. -/
def enteredGrp (s : State) (gid : Nat) (i : Instr) : Group := (entered s gid i).grp gid

/-- The state after an instruction whose effect on its own group is F and which goes on behind itself: it has retired, and
nothing else in the machine has changed. -/
def retired (s : State) (gid fid : Nat) (i : Instr) (F : Ctx → Group → Group) : State :=
  let c := ctxOf s gid fid i
  s.setGrp gid ((F c (enteredGrp s gid i)).retire.goto fid (nextPc c))

/-- The state after an instruction whose effect on its own group is F and which goes on at a target. -/
def jumped (s : State) (gid fid : Nat) (i : Instr) (F : Ctx → Group → Group) (pc : Ctx → Group → DWord) : State :=
  let c := ctxOf s gid fid i
  s.setGrp gid ((F c (enteredGrp s gid i)).retire.goto fid (pc c (enteredGrp s gid i)))

/-- An instruction that passes its checks retires with an effect F on its own group. -/
def Runs (i : Instr) (F : Ctx → Group → Group) : Prop :=
  ∀ s gid fid, CanIssue s gid fid i → exec i s = .next (retired s gid fid i F)

/-- As `Runs`, where its context and group meet a further condition. -/
def RunsIf (i : Instr) (P : Ctx → Group → Prop) (F : Ctx → Group → Group) : Prop :=
  ∀ s gid fid, CanIssue s gid fid i → P (ctxOf s gid fid i) (enteredGrp s gid i) →
    exec i s = .next (retired s gid fid i F)

/-- As `RunsIf`, for an instruction that goes on at a target. -/
def JumpsIf (i : Instr) (P : Ctx → Group → Prop) (F : Ctx → Group → Group) (pc : Ctx → Group → DWord) : Prop :=
  ∀ s gid fid, CanIssue s gid fid i → P (ctxOf s gid fid i) (enteredGrp s gid i) →
    exec i s = .next (jumped s gid fid i F pc)

/-- An instruction that passes its checks takes a fault instead of its effect, where a condition holds. -/
def FaultsIf (i : Instr) (P : Ctx → Group → Prop) (e : Ctx → Group → FaultInfo) : Prop :=
  ∀ s gid fid, CanIssue s gid fid i → P (ctxOf s gid fid i) (enteredGrp s gid i) →
    exec i s = .next (takeFault (entered s gid i) gid fid (e (ctxOf s gid fid i) (enteredGrp s gid i))
      (ctxOf s gid fid i).act)

/-- A fragment waits at issue: it stays at its instruction, and nothing else changes. -/
def waits (s : State) (gid fid : Nat) (i : Instr) (w : Wait) : State :=
  (entered s gid i).modGrp gid fun g => g.await fid w

/-- The form of an instruction that has a Radish word; the others have a Marrow word, or, steps of the device, none. -/
def isRadishForm (i : Instr) : Bool := (describe State.reset i).rad.isSome

/-- As `RunsIf`, for an instruction that places its group's fragments itself; the fragment, if it is still there, has gone further. -/
def StaysIf (i : Instr) (P : Ctx → Group → Prop) (F : Ctx → Group → Group) : Prop :=
  ∀ s gid fid, CanIssue s gid fid i → P (ctxOf s gid fid i) (enteredGrp s gid i) →
    exec i s = .next (s.setGrp gid ((F (ctxOf s gid fid i) (enteredGrp s gid i)).retire.passOn fid))

/-- An instruction that passes its checks waits at issue, where a condition holds. -/
def WaitsIf (i : Instr) (P : Ctx → State → Prop) (w : Ctx → State → Wait) : Prop :=
  ∀ s gid fid, CanIssue s gid fid i → P (ctxOf s gid fid i) (entered s gid i) →
    exec i s = .next (waits s gid fid i (w (ctxOf s gid fid i) (entered s gid i)))

/-- As `FaultsIf`, where the condition speaks of the state. -/
def TrapsIf (i : Instr) (P : Ctx → State → Prop) (e : Ctx → State → FaultInfo) : Prop :=
  ∀ s gid fid, CanIssue s gid fid i → P (ctxOf s gid fid i) (entered s gid i) →
    exec i s = .next (takeFault (entered s gid i) gid fid (e (ctxOf s gid fid i) (entered s gid i)) (ctxOf s gid fid i).act)

/-- An instruction whose effect reaches beyond its group's registers: from the state in which its effect begins it answers a
next state to which R relates it. -/
def DoesIf (i : Instr) (P : Ctx → State → Prop) (R : Ctx → State → State → Prop) : Prop :=
  ∀ s gid fid, CanIssue s gid fid i → P (ctxOf s gid fid i) (entered s gid i) →
    ∃ t, exec i s = .next t ∧ R (ctxOf s gid fid i) (entered s gid i) t

/-- The fragment stands behind its instruction, which has retired. -/
def WentOn (c : Ctx) (s t : State) : Prop :=
  ((t.grp c.gid).frag c.fid).pc = nextPc c ∧ (t.grp c.gid).retired = (s.grp c.gid).retired + 1

/-- Two groups have the same MODE, FLAGS, default descriptor, private base and trap registers. -/
def SameSpecials (g h : Group) : Prop :=
  h.mode = g.mode ∧ h.flags = g.flags ∧ h.rset = g.rset ∧ h.pb = g.pb ∧ h.xpc = g.xpc ∧ h.xem = g.xem ∧ h.xmode = g.xmode ∧
    h.inh = g.inh ∧ h.xrec = g.xrec

/-- Two groups have the same lane, scalar and predicate registers. -/
def SameRegs (g h : Group) : Prop := h.v = g.v ∧ h.s = g.s ∧ h.p = g.p

/-! ### Instructions of a matrix stream -/

/-- The stream stands behind its instruction. -/
def Stream.next (x : Stream) : Stream := { x with pc := x.pc + 4, lit := none, wait := .run }

/-- A stream that has the issue slot runs an instruction with an effect F on itself alone, where a condition holds. -/
def StreamRunsIf (i : Instr) (P : Nat → State → Prop) (F : Stream → Stream) : Prop :=
  ∀ s tid, s.cur = some (.stream tid) → P tid s → exec i s = .next (s.setStr tid (F (s.str tid)).next)

/-- As `StreamRunsIf`, for an effect that reaches beyond the stream. -/
def StreamDoesIf (i : Instr) (P : Nat → State → Prop) (R : Nat → State → State → Prop) : Prop :=
  ∀ s tid, s.cur = some (.stream tid) → P tid s → ∃ t, exec i s = .next t ∧ R tid s t

/-! ### Steps of the device -/

/-- A step of the device answers a next state to which R relates it, where a condition holds. -/
def Happens (i : Instr) (P : State → Prop) (R : State → State → Prop) : Prop :=
  ∀ s, P s → ∃ t, exec i s = .next t ∧ R s t

end Machine
end Sys2Proof
end

