-- ==== Sys2Proof/Certificates/Slice0/Obligations.lean ====
section
/-! DEFINITION. The statements about this machine, one definition each, after the numbered rules of the spec. -/
set_option linter.all false

/-! ### Helpers of the statements -/

namespace Sys2Proof.Machine

/-- The integer a source register holds in a lane, under the type in force (R115). -/
def srcInt (c : Ctx) (g : Group) (r : VReg) (l : Nat) : Int := intOf c.ty (g.rdT c.ty r.toNat l)
/-- The w-bit encoding a source register holds in a lane (R113). -/
def srcBits (c : Ctx) (g : Group) (r : VReg) (l : Nat) : Nat := g.rdT c.ty r.toNat l
/-- Sat(i, t) of R59 under the MODE in force. -/
def satIn (c : Ctx) (i : Int) : Nat := satT c.ty (modeSat c.mode) i
/-- i mod 2^w. -/
def wrapIn (c : Ctx) (i : Int) : Nat := wrapT c.ty i
/-- Writes a lane function to d in the active lanes, under the type in force; nothing else (R113). -/
def toLanes (d : VReg) (f : Ctx → Group → Nat → Nat) : Ctx → Group → Group :=
  fun c g => g.putT c.ty d.toNat c.act (f c g)
/-- The shift count: b, or the even register of its pair, read unsigned (R120). -/
def countIn (c : Ctx) (g : Group) (b : VReg) (l : Nat) : Nat := srcBits c g b l % 2 ^ 32
/-- Writes a scalar register; nothing else. -/
def toScalar (d : SReg) (f : Group → Word) : Ctx → Group → Group := fun _ g => g.putS d.toNat (f g)
def sVal (g : Group) (k : SReg) : Word := g.sreg k.toNat
/-- The bits set within w, ascending. -/
def onesIn (c : Ctx) (a : Nat) : List Nat := (List.range (wBits c.ty)).filter fun i => Nat.testBit a i
/-- cond of R119. -/
def holdsCond (cond : Nat) (a b : Int) : Bool :=
  match cond with
  | 0 => a == b
  | 1 => a != b
  | 2 => decide (a < b)
  | 3 => decide (a ≤ b)
  | 4 => decide (a > b)
  | _ => decide (a ≥ b)

end Sys2Proof.Machine

open Sys2Proof Sys2Proof.Machine

/-! ### Integer, logic and scalar instructions -/

/-- R116: IADD, ISUB, IMUL, IMULH, IMAD, IMIN, IMAX, IABS, INEG and SEL write Sat of the exact value in every active lane, in
both encodings, and change nothing else in the machine. SEL acts in every lane of EM, once no lane it reads is poisoned. -/
def Obligations.IntegerArithmeticWritesSatOfExactValue : Prop :=
  ∀ (r : Option (BitVec 13)) (d a b : VReg),
    Runs (both r (.iadd d a b) fun w => .iaddRadish w d a b)
      (toLanes d fun c g l => satIn c (srcInt c g a l + srcInt c g b l)) ∧
    Runs (both r (.isub d a b) fun w => .isubRadish w d a b)
      (toLanes d fun c g l => satIn c (srcInt c g a l - srcInt c g b l)) ∧
    Runs (both r (.imul d a b) fun w => .imulRadish w d a b)
      (toLanes d fun c g l => satIn c (srcInt c g a l * srcInt c g b l)) ∧
    Runs (both r (.imulh d a b) fun w => .imulhRadish w d a b)
      (toLanes d fun c g l => wrapIn c (srcInt c g a l * srcInt c g b l / (2 ^ wBits c.ty : Nat))) ∧
    Runs (both r (.imad d a b) fun w => .imadRadish w d a b)
      (toLanes d fun c g l => satIn c (srcInt c g a l * srcInt c g b l + srcInt c g d l)) ∧
    Runs (both r (.imin d a b) fun w => .iminRadish w d a b)
      (toLanes d fun c g l => if srcInt c g a l ≤ srcInt c g b l then srcBits c g a l else srcBits c g b l) ∧
    Runs (both r (.imax d a b) fun w => .imaxRadish w d a b)
      (toLanes d fun c g l => if srcInt c g a l ≤ srcInt c g b l then srcBits c g b l else srcBits c g a l) ∧
    Runs (both r (.iabs d a) fun w => .iabsRadish w d a)
      (toLanes d fun c g l => satIn c ((srcInt c g a l).natAbs : Int)) ∧
    Runs (both r (.ineg d a) fun w => .inegRadish w d a)
      (toLanes d fun c g l => satIn c (-(srcInt c g a l))) ∧
    RunsIf (both r (.selLane d a b) fun w => .selLaneRadish w d a b)
      (fun c g => g.poisAt c.ty a.toNat (activeMask g c.mode c.em) = false ∧
        g.poisAt c.ty b.toNat (c.em &&& ~~~(activeMask g c.mode c.em)) = false)
      (fun c g => g.putT c.ty d.toNat c.em fun l =>
        if (activeMask g c.mode c.em).getLsbD l then srcBits c g a l else srcBits c g b l)

/-- R118: IDIV and IREM, with their words. They raise no flag and take no fault: their own group's d is all that changes. -/
def Obligations.DivisionTruncatesAndZeroDivisorIsDefined : Prop :=
  ∀ (r : Option (BitVec 13)) (d a b : VReg),
    (encodeWords (.idiv d a b) = [0x35#8 ++ d ++ a ++ b] ∧ encodeWords (.irem d a b) = [0x36#8 ++ d ++ a ++ b]) ∧
    Runs (both r (.idiv d a b) fun w => .idivRadish w d a b)
      (toLanes d fun c g l =>
        if srcBits c g b l = 0 then 2 ^ wBits c.ty - 1
        else if srcInt c g a l = minOf c.ty ∧ srcInt c g b l = -1 then satIn c (-(srcInt c g a l))
        else satIn c ((srcInt c g a l).tdiv (srcInt c g b l))) ∧
    Runs (both r (.irem d a b) fun w => .iremRadish w d a b)
      (toLanes d fun c g l =>
        if srcBits c g b l = 0 then srcBits c g a l
        else if srcInt c g a l = minOf c.ty ∧ srcInt c g b l = -1 then 0
        else wrapIn c (srcInt c g a l - (srcInt c g a l).tdiv (srcInt c g b l) * srcInt c g b l))

/-- An instruction that a group whose role may issue it takes the illegal-instruction fault for, flag "reserved field" (R73, R75). -/
def Sys2Proof.Machine.Reserved (i : Instr) : Prop :=
  ∀ s gid fid, s.cur = some (.frag gid fid) → (afind fid (s.grp gid).frags).isSome = true →
    roleAllows (s.kindOf (s.grp gid)) (describe s i).op = true →
    exec i s = .next (takeFault s gid fid (flt 1 1) (ctxOf s gid fid i).act)

/-- R117: IADDC adds with the carry of p7 and leaves its carry there in the lanes that execute, a guard of p7 included; a type
other than s32 and n32 is not accepted. -/
def Sys2Proof.Machine.CarryAddKeepsItsCarryInP7 : Prop :=
  ∀ (r : Option (BitVec 13)) (d a b : VReg),
    encodeWords (.iaddc d a b) = [0x3B#8 ++ d ++ a ++ b] ∧
    (Runs (both r (.iaddc d a b) fun w => .iaddcRadish w d a b) fun c g =>
      let t (l : Nat) : Nat := (g.vl a.toNat l).toNat + (g.vl b.toNat l).toNat + (if (g.preg 7).getLsbD l then 1 else 0)
      (g.putV d.toNat c.act fun l => BitVec.ofNat 32 (t l)).setP 7 c.act (maskOf fun l => decide (2 ^ 32 ≤ t l))) ∧
    ∀ s gid fid, s.cur = some (.frag gid fid) → (afind fid (s.grp gid).frags).isSome = true →
      let i := both r (.iaddc d a b) fun w => .iaddcRadish w d a b
      precheck s (s.grp gid) ((s.grp gid).frag fid) (describe s i) = none →
      (ctxOf s gid fid i).ty ≠ 0 → (ctxOf s gid fid i).ty ≠ 1 →
      exec i s = .next (takeFault (entered s gid i) gid fid (flt 2 1) (ctxOf s gid fid i).act)

/-- R119, R123: ICMP and SCMP write a predicate, in the active lanes and in the lanes of EM; conditions 6 and 7 are reserved
values. -/
def Sys2Proof.Machine.ComparesWriteOnePredicate : Prop :=
  ∀ (r : Option (BitVec 13)) (cond p : BitVec 3),
    (∀ a b : VReg, Runs (both r (.icmp cond p a b) fun w => .icmpRadish w cond p a b) fun c g =>
      g.setP p.toNat c.act (maskOf fun l => holdsCond cond.toNat (srcInt c g a l) (srcInt c g b l))) ∧
    (∀ a b : SReg, Runs (both r (.scmp cond p a b) fun w => .scmpRadish w cond p a b) fun c g =>
      g.setP p.toNat c.em (if holdsCond cond.toNat (sVal g a).toInt (sVal g b).toInt then BitVec.allOnes 32 else 0)) ∧
    (∀ (a b : VReg) (x y : SReg), 6 ≤ cond.toNat →
      Reserved (both r (.icmp cond p a b) fun w => .icmpRadish w cond p a b) ∧
      Reserved (both r (.scmp cond p x y) fun w => .scmpRadish w cond p x y)) ∧
    (∀ a b : VReg, encodeWords (.icmp cond p a b) = [0x3C#8 ++ cond ++ 0#2 ++ p ++ a ++ b]) ∧
    encodeWords (.icmp 5 1 9 10) = [0x3CA1090A] ∧
    (∀ (g : Group) (m f : Lanes), g.setP 0 m f = g)

/-- R117, R119, R123, R41: IADDC, ICMP and SCMP. -/
def Obligations.CarryAddAndComparesWritePredicates : Prop := CarryAddKeepsItsCarryInP7 ∧ ComparesWriteOnePredicate

/-- R120: the logic and bit instructions. -/
def Obligations.LogicAndBitResults : Prop :=
  ∀ (r : Option (BitVec 13)) (d a b : VReg),
    Runs (both r (.andBits d a b) fun w => .andBitsRadish w d a b) (toLanes d fun c g l => Nat.land (srcBits c g a l) (srcBits c g b l)) ∧
    Runs (both r (.orBits d a b) fun w => .orBitsRadish w d a b) (toLanes d fun c g l => Nat.lor (srcBits c g a l) (srcBits c g b l)) ∧
    Runs (both r (.xorBits d a b) fun w => .xorBitsRadish w d a b) (toLanes d fun c g l => Nat.xor (srcBits c g a l) (srcBits c g b l)) ∧
    Runs (both r (.notBits d a) fun w => .notBitsRadish w d a) (toLanes d fun c g l => 2 ^ wBits c.ty - 1 - srcBits c g a l) ∧
    Runs (both r (.shl d a b) fun w => .shlRadish w d a b) (toLanes d fun c g l =>
      if modeSat c.mode then satIn c (srcInt c g a l * (2 ^ countIn c g b l : Nat))
      else if wBits c.ty ≤ countIn c g b l then 0
      else srcBits c g a l * 2 ^ countIn c g b l % 2 ^ wBits c.ty) ∧
    Runs (both r (.shr d a b) fun w => .shrRadish w d a b) (toLanes d fun c g l =>
      if wBits c.ty ≤ countIn c g b l then 0 else srcBits c g a l / 2 ^ countIn c g b l) ∧
    Runs (both r (.sar d a b) fun w => .sarRadish w d a b) (toLanes d fun c g l =>
      wrapIn c ((BitVec.ofNat (wBits c.ty) (srcBits c g a l)).toInt / (2 ^ min (countIn c g b l) (wBits c.ty - 1) : Nat))) ∧
    Runs (both r (.rotl d a b) fun w => .rotlRadish w d a b) (toLanes d fun c g l =>
      let n := countIn c g b l % wBits c.ty
      (srcBits c g a l * 2 ^ n + srcBits c g a l / 2 ^ (wBits c.ty - n)) % 2 ^ wBits c.ty) ∧
    Runs (both r (.popc d a) fun w => .popcRadish w d a) (toLanes d fun c g l => (onesIn c (srcBits c g a l)).length) ∧
    Runs (both r (.clz d a) fun w => .clzRadish w d a) (toLanes d fun c g l =>
      match (onesIn c (srcBits c g a l)).getLast? with | some i => wBits c.ty - 1 - i | none => wBits c.ty) ∧
    Runs (both r (.ctz d a) fun w => .ctzRadish w d a) (toLanes d fun c g l =>
      match (onesIn c (srcBits c g a l)).head? with | some i => i | none => wBits c.ty) ∧
    Runs (both r (.brev d a) fun w => .brevRadish w d a) (toLanes d fun c g l =>
      ((onesIn c (srcBits c g a l)).map fun i => 2 ^ (wBits c.ty - 1 - i)).sum) ∧
    Runs (both r (.bfe d a b) fun w => .bfeRadish w d a b) (toLanes d fun c g l =>
      let pos := bits (g.vl b.toNat l).toNat 0 6
      let len := min (bits (g.vl b.toNat l).toNat 8 7) 64
      if len = 0 ∨ wBits c.ty ≤ pos then 0
      else
        let f := srcBits c g a l / 2 ^ pos % 2 ^ len
        if isSigned c.ty && Nat.testBit f (len - 1) then (f + (2 ^ 64 - 2 ^ len)) % 2 ^ wBits c.ty else f) ∧
    Runs (both r (.bfi d a b) fun w => .bfiRadish w d a b) (toLanes d fun c g l =>
      let pos := bits (g.vl b.toNat l).toNat 0 6
      let len := min (bits (g.vl b.toNat l).toNat 8 7) 64
      let m := (2 ^ len - 1) * 2 ^ pos
      Nat.lor (Nat.land (srcBits c g d l) (2 ^ 128 - 1 - m)) (Nat.land (srcBits c g a l * 2 ^ pos) m) % 2 ^ wBits c.ty)

/-- R121: MOV, MOVI, IADDI and LEA. A Marrow immediate is the form I byte or the literal of a LIT, a Radish one the immediate
field or the literal word; LEA's result is the address of a form M access, in 64 bits under every type. -/
def Obligations.MoveAndAddressResults : Prop :=
  (∀ (r : Option (BitVec 13)) (d a : VReg),
    Runs (both r (.movLane d a) fun w => .movLaneRadish w d a) (toLanes d fun c g l => srcBits c g a l)) ∧
  (∀ (d a : VReg) (i : BitVec 8),
    Runs (.movi d i) (toLanes d fun c _ _ => satIn c (immInt c)) ∧
    Runs (.iaddi d a i) (toLanes d fun c g l => satIn c (srcInt c g a l + immInt c))) ∧
  (∀ (w : BitVec 13) (d a : VReg) (i : RImm),
    Runs (.moviRadish w d i) (toLanes d fun c _ _ => satIn c (immInt c)) ∧
    Runs (.iaddiRadish w d a i) (toLanes d fun c g l => satIn c (srcInt c g a l + immInt c))) ∧
  (∀ (w : BitVec 13) (d k : VReg) (b : BitVec 3) (off : RImm),
    let ea : Ctx → Group → Group := fun c g => g.putV64 d.toNat c.act fun l => BitVec.ofNat 64 (effAddr g b k c.imm l)
    Runs (.lea d k b) ea ∧ Runs (.leaRadish w d k b off) ea) ∧
  (∀ (b : BitVec 8) (x : RImm),
    immOf (.byte b) none = b.signExtend 64 ∧
    (∀ v pc, immOf (.byte b) (some ⟨v, false, pc⟩) = (v.extractLsb' 0 32).signExtend 64 ∧
      immOf (.byte b) (some ⟨v, true, pc⟩) = v ∧ immOf .off (some ⟨v, false, pc⟩) = (v.extractLsb' 0 32).signExtend 64) ∧
    immOf .off none = 0 ∧
    (x.lit = none → immOf (.rad x) none = x.imm.signExtend 64) ∧ (∀ v, x.lit = some v → immOf (.rad x) none = v))

/-- R122: the scalar instructions act once, on 32-bit values that wrap; SMOVI writes a pair under a 64-bit literal; VTOS reads
the lowest lane of EM, once that lane is not poisoned; STOV writes every lane of EM. -/
def Obligations.ScalarResults : Prop :=
  (∀ (r : Option (BitVec 13)) (d a b : SReg),
    Runs (both r (.sadd d a b) fun w => .saddRadish w d a b) (toScalar d fun g => sVal g a + sVal g b) ∧
    Runs (both r (.ssub d a b) fun w => .ssubRadish w d a b) (toScalar d fun g => sVal g a - sVal g b) ∧
    Runs (both r (.smul d a b) fun w => .smulRadish w d a b) (toScalar d fun g => sVal g a * sVal g b) ∧
    Runs (both r (.sand d a b) fun w => .sandRadish w d a b) (toScalar d fun g => sVal g a &&& sVal g b) ∧
    Runs (both r (.sor d a b) fun w => .sorRadish w d a b) (toScalar d fun g => sVal g a ||| sVal g b) ∧
    Runs (both r (.sxor d a b) fun w => .sxorRadish w d a b) (toScalar d fun g => sVal g a ^^^ sVal g b) ∧
    Runs (both r (.sshl d a b) fun w => .sshlRadish w d a b)
      (toScalar d fun g => sVal g a <<< ((sVal g b).extractLsb' 0 6).toNat) ∧
    Runs (both r (.sshr d a b) fun w => .sshrRadish w d a b)
      (toScalar d fun g => sVal g a >>> ((sVal g b).extractLsb' 0 6).toNat) ∧
    Runs (both r (.smin d a b) fun w => .sminRadish w d a b)
      (toScalar d fun g => if (sVal g a).toInt ≤ (sVal g b).toInt then sVal g a else sVal g b) ∧
    Runs (both r (.smax d a b) fun w => .smaxRadish w d a b)
      (toScalar d fun g => if (sVal g a).toInt ≤ (sVal g b).toInt then sVal g b else sVal g a) ∧
    Runs (both r (.smov d a) fun w => .smovRadish w d a) (toScalar d fun g => sVal g a)) ∧
  (∀ (d : SReg) (i : BitVec 8) s gid fid, CanIssue s gid fid (.smovi d i) →
    exec (.smovi d i) s = .next (retired s gid fid (.smovi d i) fun c g =>
      if s.wideLit then g.putS64 d.toNat c.imm else g.putS d.toNat (c.imm.extractLsb' 0 32))) ∧
  (∀ (w : BitVec 13) (d : SReg) (i : RImm), Runs (.smoviRadish w d i) fun c g =>
    if i.lit.isSome && i.imm == 1 then g.putS64 d.toNat c.imm else g.putS d.toNat (c.imm.extractLsb' 0 32)) ∧
  (∀ (w : BitVec 13) (d : SReg) (b : BitVec 3) (off : RImm),
    let ea : Ctx → Group → Group := fun c g => g.putS64 d.toNat (g.sreg64 (2 * b.toNat) + c.imm)
    Runs (.slea d b) ea ∧ Runs (.sleaRadish w d b off) ea) ∧
  (∀ (r : Option (BitVec 13)) (d : SReg) (a : VReg),
    RunsIf (both r (.vtos d a) fun w => .vtosRadish w d a)
      (fun c g => c.em = 0 ∨ ∃ l, lowLane c.em = some l ∧ (g.vPois a.toNat).getLsbD l = false)
      (fun c g => match lowLane c.em with | none => g | some l => g.putS d.toNat (g.vl a.toNat l))) ∧
  (∀ (r : Option (BitVec 13)) (d : VReg) (a : SReg),
    Runs (both r (.stov d a) fun w => .stovRadish w d a) fun c g => g.putV d.toNat c.em fun _ => sVal g a)

/-! ### Floating-point, special-function, conversion and quantisation instructions -/

namespace Sys2Proof.Machine

/-- The value a source register holds in a lane, a subnormal read as zero under FTZ (R124). -/
def srcNum (c : Ctx) (g : Group) (r : VReg) (l : Nat) : Num := unpack (fmtOf c.ty) (modeFtz c.mode) (srcBits c g r l)
/-- Writes a lane function to d in the active lanes under the type in force, and raises the flags of those lanes (R44, R206). -/
def toLanesFlagged (d : VReg) (f : Ctx → Group → Nat → Nat × Nat) : Ctx → Group → Group :=
  fun c g => (g.putT c.ty d.toNat c.act fun l => (f c g l).1).raise (laneFlags c.act fun l => (f c g l).2)
/-- The same for a result of 32 bits under every type. -/
def toWordsFlagged (d : VReg) (f : Ctx → Group → Nat → Nat × Nat) : Ctx → Group → Group :=
  fun c g => (g.putV d.toNat c.act fun l => BitVec.ofNat 32 (f c g l).1).raise (laneFlags c.act fun l => (f c g l).2)

end Sys2Proof.Machine

/-- R125: FADD to FRND, FLDEXP and FEXPO write the rounded result of each active lane and raise its flags; FABS, FNEG and FSGNJ
change the sign bit alone and raise none. -/
def Obligations.FloatArithmeticResults : Prop :=
  ∀ (r : Option (BitVec 13)) (d a b : VReg),
    Runs (both r (.fadd d a b) fun w => .faddRadish w d a b) (toLanesFlagged d fun c g l =>
      fAdd (fmtOf c.ty) (modeRnd c.mode) (modeFtz c.mode) (srcNum c g a l) (srcNum c g b l)) ∧
    Runs (both r (.fsub d a b) fun w => .fsubRadish w d a b) (toLanesFlagged d fun c g l =>
      fAdd (fmtOf c.ty) (modeRnd c.mode) (modeFtz c.mode) (srcNum c g a l) (srcNum c g b l).neg) ∧
    Runs (both r (.fmul d a b) fun w => .fmulRadish w d a b) (toLanesFlagged d fun c g l =>
      fMul (fmtOf c.ty) (modeRnd c.mode) (modeFtz c.mode) (srcNum c g a l) (srcNum c g b l)) ∧
    Runs (both r (.ffma d a b) fun w => .ffmaRadish w d a b) (toLanesFlagged d fun c g l =>
      fFma (fmtOf c.ty) (modeRnd c.mode) (modeFtz c.mode) (srcNum c g a l) (srcNum c g b l) (srcNum c g d l)) ∧
    Runs (both r (.fdiv d a b) fun w => .fdivRadish w d a b) (toLanesFlagged d fun c g l =>
      fDiv (fmtOf c.ty) (modeRnd c.mode) (modeFtz c.mode) (srcNum c g a l) (srcNum c g b l)) ∧
    Runs (both r (.fsqrt d a) fun w => .fsqrtRadish w d a) (toLanesFlagged d fun c g l =>
      fSqrt (fmtOf c.ty) (modeRnd c.mode) (modeFtz c.mode) (srcNum c g a l)) ∧
    Runs (both r (.frnd d a) fun w => .frndRadish w d a) (toLanesFlagged d fun c g l =>
      fRnd (fmtOf c.ty) (modeRnd c.mode) (srcNum c g a l)) ∧
    Runs (both r (.fldexp d a b) fun w => .fldexpRadish w d a b) (toLanesFlagged d fun c g l =>
      fLdexp (fmtOf c.ty) (modeRnd c.mode) (modeFtz c.mode) (srcNum c g a l) (g.vl b.toNat l).toInt) ∧
    Runs (both r (.fexpo d a) fun w => .fexpoRadish w d a) (toWordsFlagged d fun c g l => fExpo (srcNum c g a l)) ∧
    Runs (both r (.fmin d a b) fun w => .fminRadish w d a b) (toLanesFlagged d fun c g l =>
      fMinMax (fmtOf c.ty) false (srcNum c g a l) (srcNum c g b l)) ∧
    Runs (both r (.fmax d a b) fun w => .fmaxRadish w d a b) (toLanesFlagged d fun c g l =>
      fMinMax (fmtOf c.ty) true (srcNum c g a l) (srcNum c g b l)) ∧
    Runs (both r (.fabs d a) fun w => .fabsRadish w d a) (toLanes d fun c g l => srcBits c g a l % 2 ^ (wBits c.ty - 1)) ∧
    Runs (both r (.fneg d a) fun w => .fnegRadish w d a) (toLanes d fun c g l =>
      if 2 ^ (wBits c.ty - 1) ≤ srcBits c g a l then srcBits c g a l - 2 ^ (wBits c.ty - 1)
      else srcBits c g a l + 2 ^ (wBits c.ty - 1)) ∧
    Runs (both r (.fsgnj d a b) fun w => .fsgnjRadish w d a b) (toLanes d fun c g l =>
      srcBits c g a l % 2 ^ (wBits c.ty - 1) + srcBits c g b l / 2 ^ (wBits c.ty - 1) * 2 ^ (wBits c.ty - 1))

/-- The special cases of R125's table, over the operations that its instructions use; flags NV 1, DZ 2, OF 4, UF 8, NX 16. -/
def Obligations.FloatSpecialCasesGiveNanInfinityAndFlags : Prop :=
  ∀ (F : Fmt) (rm : Nat) (ftz n k : Bool) (m : Nat) (e : Int), m ≠ 0 →
    fAdd F rm ftz (.inf n) (.inf (!n)) = (F.nanBits, 1) ∧
    fAdd F rm ftz (.inf n) (.inf n) = (F.signBit n + F.infBits, 0) ∧
    fMul F rm ftz (.fin n 0 e) (.inf k) = (F.nanBits, 1) ∧
    fMul F rm ftz (.inf k) (.fin n 0 e) = (F.nanBits, 1) ∧
    (∀ x, fFma F rm ftz (.fin n 0 e) (.inf k) x = (F.nanBits, 1)) ∧
    fDiv F rm ftz (.fin n m e) (.fin k 0 e) = (F.signBit (n != k) + F.infBits, 2) ∧
    fDiv F rm ftz (.fin n 0 e) (.fin k 0 e) = (F.nanBits, 1) ∧
    fDiv F rm ftz (.inf n) (.inf k) = (F.nanBits, 1) ∧
    fSqrt F rm ftz (.fin true 0 e) = (F.signBit true, 0) ∧
    fSqrt F rm ftz (.fin true m e) = (F.nanBits, 1) ∧
    fSqrt F rm ftz (.inf true) = (F.nanBits, 1) ∧
    fExpo (.fin n 0 e) = (0x8000_0000, 2) ∧ fExpo (.inf n) = (0x7FFF_FFFF, 0) ∧
    fExpo (.nan false) = (0x7FFF_FFFF, 1) ∧ fExpo (.nan true) = (0x7FFF_FFFF, 1) ∧
    (∀ mx, fMinMax F mx (.nan n) (.nan k) = (F.nanBits, if n || k then 1 else 0)) ∧
    (∀ mx, (fMinMax F mx (.nan n) (.fin k m e)).1 = pack F (.fin k m e)) ∧
    (∀ mx, (fMinMax F mx (.fin k m e) (.nan n)).1 = pack F (.fin k m e))

/-- R126 and R127: FCMP writes one predicate in the active lanes with NV as its table gives it, and condition 7 alone is reserved;
FCLASS writes the class mask in one register, reads no FTZ and raises nothing. -/
def Obligations.FloatCompareAndClassResults : Prop :=
  (∀ (r : Option (BitVec 13)) (cond p : BitVec 3) (a b : VReg),
    Runs (both r (.fcmp cond p a b) fun w => .fcmpRadish w cond p a b) fun c g =>
      (g.setP p.toNat c.act (maskOf fun l => (fCmpOk cond.toNat (srcNum c g a l) (srcNum c g b l)).1)).raise
        (laneFlags c.act fun l => (fCmpOk cond.toNat (srcNum c g a l) (srcNum c g b l)).2)) ∧
  (∀ (a b : Sys2Proof.Machine.Num), a.isNan = false → b.isNan = false →
    fCmpOk 0 a b = (decide (fCmp a b = 0), 0) ∧ fCmpOk 1 a b = (decide (fCmp a b ≠ 0), 0) ∧
    fCmpOk 2 a b = (decide (fCmp a b < 0), 0) ∧ fCmpOk 3 a b = (decide (fCmp a b ≤ 0), 0) ∧
    fCmpOk 4 a b = (decide (fCmp a b > 0), 0) ∧ fCmpOk 5 a b = (decide (fCmp a b ≥ 0), 0) ∧ fCmpOk 6 a b = (false, 0)) ∧
  (∀ (a b : Sys2Proof.Machine.Num) (k : Nat), a.isNan = true ∨ b.isNan = true → k < 7 →
    (fCmpOk k a b).1 = decide (k = 1 ∨ k = 6) ∧
    ((fCmpOk k a b).2 = if (2 ≤ k ∧ k ≤ 5) ∨ a.isSig ∨ b.isSig then 1 else 0)) ∧
  (∀ (r : Option (BitVec 13)) (d a : VReg),
    Runs (both r (.fclass d a) fun w => .fclassRadish w d a) (toWordsFlagged d fun c g l =>
      (fClass (fmtOf c.ty) (srcBits c g a l), 0)))

/-- R128, R48: FRCP to FTANH put their result, with its lanes and flags, in the group's queue of 16, which keeps its order; with
no active lane nothing enters, and with the queue full the fragment waits at issue. The result depends on the operand's bits and
FTZ alone: MODE.RND and MODE.SAT are not read. -/
def Obligations.SpecialFunctionResultsEnterTheQueue : Prop :=
  ∀ (r : Option (BitVec 13)) (d a : VReg),
    let lane (fn : Nat) (c : Ctx) (g : Group) (l : Nat) : Nat × Nat :=
      if c.act.getLsbD l then sfuLane fn c.ty (modeFtz c.mode) (srcBits c g a l) else (0, 0)
    let F (fn : Nat) : Ctx → Group → Group := fun c g =>
      { (g.raise ((lanes.map (lane fn c g)).foldl (fun n p => Nat.lor n p.2) 0)) with
        sfu := g.sfu ++ [⟨d.toNat, c.act, (lanes.map (lane fn c g)).map fun p => BitVec.ofNat 32 p.1, none⟩] }
    let all : List (Nat × Instr) := [(0, both r (.frcp d a) fun w => .frcpRadish w d a), (1, both r (.frsq d a) fun w => .frsqRadish w d a),
      (2, both r (.fex2 d a) fun w => .fex2Radish w d a), (3, both r (.flg2 d a) fun w => .flg2Radish w d a),
      (4, both r (.fsin d a) fun w => .fsinRadish w d a), (5, both r (.fcos d a) fun w => .fcosRadish w d a),
      (6, both r (.ftanh d a) fun w => .ftanhRadish w d a)]
    ∀ p ∈ all,
      RunsIf p.2 (fun c g => c.act ≠ 0 ∧ g.sfu.length < 16) (F p.1) ∧
      RunsIf p.2 (fun c _ => c.act = 0) (fun _ g => g) ∧
      WaitsIf p.2 (fun c s => c.act ≠ 0 ∧ 16 ≤ (s.grp c.gid).sfu.length) (fun _ _ => .sfu)

/-- R129 to R131: CVT, CVTI, PACK and UNPK. -/
def Obligations.ConversionResults : Prop :=
  ∀ (r : Option (BitVec 13)) (d a b : VReg) (src : BitVec 4),
    Runs (both r (.cvt d a src) fun w => .cvtRadish w d a src) (toLanesFlagged d fun c g l =>
      convert src.toNat c.ty (modeRnd c.mode) (modeFtz c.mode) (modeSat c.mode) (g.rdT src.toNat a.toNat l)) ∧
    Runs (both r (.cvti d a src) fun w => .cvtiRadish w d a src) (toLanesFlagged d fun c g l =>
      convert src.toNat c.ty 1 (modeFtz c.mode) (modeSat c.mode) (g.rdT src.toNat a.toNat l)) ∧
    Runs (both r (.pack d a b) fun w => .packRadish w d a b) (toWordsFlagged d fun c g l =>
      let e (x : VReg) : Nat × Nat := convert (wideTy c.ty) c.ty (modeRnd c.mode) (modeFtz c.mode) (modeSat c.mode) (g.vl x.toNat l).toNat
      (if wBits c.ty = 16 then (e a).1 + (e b).1 * 2 ^ 16
        else (g.vl d.toNat l).toNat / 2 ^ 16 + ((e a).1 + (e b).1 * 2 ^ 8) * 2 ^ 16, Nat.lor (e a).2 (e b).2)) ∧
    (Runs (both r (.unpk d a) fun w => .unpkRadish w d a) fun c g =>
      let n := 32 / wBits c.ty
      let el (i l : Nat) : Nat × Nat :=
        convert c.ty (wideTy c.ty) 0 (modeFtz c.mode) false (bits (g.vl a.toNat l).toNat (wBits c.ty * i) (wBits c.ty))
      ((List.range n).foldl (fun h i => h.putV (d.toNat + i) c.act fun l => BitVec.ofNat 32 (el i l).1) g).raise
        (laneFlags c.act fun l => (List.range n).foldl (fun x i => Nat.lor x (el i l).2) 0)) ∧
    (∀ ty v rm ftz, isFloat ty = false → isFloat src.toNat = false →
      convert src.toNat ty rm ftz true v = (wrapT ty (clampT ty (intOf src.toNat v)), 0) ∧
      convert src.toNat ty rm ftz false v = (wrapT ty (intOf src.toNat v), 0)) ∧
    (∀ ty rm sat s, isFloat ty = false → floatToInt ty rm (.nan s) = (0, 1) ∧
      (convert 2 ty rm false sat 0x7FC0_0000 = (0, 1)))

/-- R132 to R135: the quantisation instructions. QCLR, QHIST and QSCALE act on all 64 bins whatever lanes are active; QHIST and
QSCALE read their control word in the lowest active lane and with none do nothing. -/
def Obligations.QuantisationResults : Prop :=
  ∀ (r : Option (BitVec 13)) (d a b : VReg),
    (Runs (both r (.qclr d) fun w => .qclrRadish w d) fun _ g => setHist g d.toNat fun _ => 0) ∧
    RunsIf (both r (.qhist d a b) fun w => .qhistRadish w d a b)
      (fun c g => histPois g d.toNat = false ∧ ∃ l, lowLane c.act = some l ∧ (g.vPois b.toNat).getLsbD l = false)
      (fun c g =>
        let base := bits (g.vl b.toNat ((lowLane c.act).getD 0)).toNat 0 8
        let ix := (lanesOf c.act).map fun l => histIx (g.vl a.toNat l).toNat base
        (setHist g d.toNat fun i => min (histBin g d.toNat i + (ix.filter (· == some i)).length) 0xFFFF_FFFF).raise
          (if ix.any (·.isNone) then 1 else 0)) ∧
    RunsIf (both r (.qhist d a b) fun w => .qhistRadish w d a b) (fun c _ => lowLane c.act = none) (fun _ g => g) ∧
    RunsIf (both r (.qscale d a b) fun w => .qscaleRadish w d a b)
      (fun c g => histPois g a.toNat = false ∧ (∃ l, lowLane c.act = some l ∧ (g.vPois b.toNat).getLsbD l = false) ∧
        bits (g.vl b.toNat ((lowLane c.act).getD 0)).toNat 10 11 ≤ 1024)
      (fun c g =>
        let ctl := (g.vl b.toNat ((lowLane c.act).getD 0)).toNat
        g.putV d.toNat c.act fun _ =>
          BitVec.ofNat 32 (qscaleOf (histBin g a.toNat) (bits ctl 0 8) (bits ctl 10 11) (fmtWidth (bits ctl 8 2)) + bits ctl 8 2 * 256)) ∧
    FaultsIf (both r (.qscale d a b) fun w => .qscaleRadish w d a b)
      (fun c g => histPois g a.toNat = false ∧ (∃ l, lowLane c.act = some l ∧ (g.vPois b.toNat).getLsbD l = false) ∧
        1024 < bits (g.vl b.toNat ((lowLane c.act).getD 0)).toNat 10 11)
      (fun _ _ => flt 1 4) ∧
    Runs (both r (.quant d a b) fun w => .quantRadish w d a b) (toWordsFlagged d fun _ g l =>
      quantLane (g.vl a.toNat l).toNat (g.vl b.toNat l).toNat) ∧
    Runs (both r (.deq d a b) fun w => .deqRadish w d a b) (toWordsFlagged d fun c g l =>
      deqLane (modeRnd c.mode) (modeFtz c.mode) (g.vl a.toNat l).toNat (g.vl b.toNat l).toNat)

/-! ### Cross-lane instructions -/

namespace Sys2Proof.Machine

/-- d ← the raw bits of a in each active lane's source lane, a whole register or under a 64-bit type its pair; a lane whose source
is not an active lane receives its own value (R136). -/
def movesFrom (d a : VReg) (src : Ctx → Group → Nat → Option Nat) : Ctx → Group → Group :=
  fun c g =>
    let from_ (l : Nat) : Nat := match src c g l with
      | some j => if j < 32 && c.act.getLsbD j then j else l
      | none => l
    if is64 c.ty then g.putV64 d.toNat c.act fun l => g.vl64 a.toNat (from_ l) else g.putV d.toNat c.act fun l => g.vl a.toNat (from_ l)

/-- No lane of a register holds a poisoned value of the type in force (R318). -/
def cleanReg (a : VReg) (c : Ctx) (g : Group) : Prop :=
  g.vPois a.toNat = 0 ∧ (is64 c.ty = true → g.vPois (a.toNat + 1) = 0)

end Sys2Proof.Machine

/-- R136, R137: the shuffles and broadcasts. Every lane is read before any is written. -/
def Obligations.ShufflesReadActiveSourceLanes : Prop :=
  (∀ (r : Option (BitVec 13)) (d a b : VReg),
    RunsIf (both r (.shfl d a b) fun w => .shflRadish w d a b) (cleanReg a)
      (movesFrom d a fun _ g l => some ((g.vl b.toNat l).toNat % 32)) ∧
    RunsIf (both r (.firstLane d a) fun w => .firstLaneRadish w d a) (cleanReg a) (movesFrom d a fun c _ _ => lowLane c.act)) ∧
  (∀ (i : Instr) (d a : VReg) (src : Ctx → Group → Nat → Option Nat),
    ((∃ n, i = .shflu d a n) ∨ (∃ w n, i = .shfluRadish w d a n)) ∧
        src = (fun c _ l => if l < c.imm.toNat then none else some (l - c.imm.toNat)) ∨
      ((∃ n, i = .shfld d a n) ∨ (∃ w n, i = .shfldRadish w d a n)) ∧ src = (fun c _ l => some (l + c.imm.toNat)) ∨
      ((∃ n, i = .shflx d a n) ∨ (∃ w n, i = .shflxRadish w d a n)) ∧ src = (fun c _ l => some (Nat.xor l c.imm.toNat)) ∨
      ((∃ n, i = .bcast d a n) ∨ (∃ w n, i = .bcastRadish w d a n)) ∧ src = (fun c _ _ => some c.imm.toNat) →
    RunsIf i (cleanReg a) (movesFrom d a src))

/-- R138 to R141: VOTE, REDU, SCAN and MATCH. -/
def Obligations.VoteReduceScanMatchResults : Prop :=
  (∀ (d : SReg) (p : BitVec 3) (i : Instr), (∃ n, i = .vote d p n) ∨ (∃ w n, i = .voteRadish w d p n) →
    Runs i fun c g => g.putS d.toNat (
      if c.imm.toNat = 0 then (if g.preg p.toNat &&& c.act = c.act then 1 else 0)
      else if c.imm.toNat = 1 then (if g.preg p.toNat &&& c.act = 0 then 0 else 1)
      else g.preg p.toNat &&& c.act)) ∧
  (∀ (d a : VReg) (i : Instr), (∃ n, i = .redu d a n) ∨ (∃ w n, i = .reduRadish w d a n) →
    RunsIf i (fun c _ => c.act = 0) (fun _ g => g) ∧
    RunsIf i (fun c _ => c.act ≠ 0) fun c g =>
      let x := lanes.map fun l => if c.act.getLsbD l then srcBits c g a l else redIdent c.imm.toNat c.ty
      let t := redTree (redOp c.imm.toNat c.ty c.mode) x
      (g.putT c.ty d.toNat c.act fun _ => t.1).raise t.2) ∧
  (∀ (d a : VReg) (i : Instr), (∃ n, i = .scanLanes d a n) ∨ (∃ w n, i = .scanLanesRadish w d a n) →
    RunsIf i (fun c _ => c.act = 0) (fun _ g => g) ∧
    RunsIf i (fun c _ => c.act ≠ 0) fun c g =>
      let x := lanes.map fun l => if c.act.getLsbD l then srcBits c g a l else redIdent c.imm.toNat c.ty
      let t := scanSteps (redOp c.imm.toNat c.ty c.mode) x
      (g.putT c.ty d.toNat c.act fun l => t.1.getD l 0).raise t.2) ∧
  (∀ (r : Option (BitVec 13)) (d a : VReg), Runs (both r (.matchLanes d a) fun w => .matchLanesRadish w d a) fun c g =>
    g.putV d.toNat c.act fun l => maskOf fun j => c.act.getLsbD j &&
      (if is64 c.ty then g.vl64 a.toNat j == g.vl64 a.toNat l else g.vl a.toNat j == g.vl a.toNat l))

/-! ### Mode, branches and divergence -/

namespace Sys2Proof.Machine

/-- A value that MODE may hold: bits [31:13] zero, TYPE not 0xF, RND below 5 (R43). -/
def legalMode (m : Word) : Prop := m.toNat < 2 ^ 13 ∧ (m.extractLsb' 4 4).toNat ≠ 15 ∧ (m.extractLsb' 8 3).toNat < 5
/-- The target of an offset in words of the encoding (R60, R76). -/
def targetOf (c : Ctx) : DWord := c.pc + c.imm * (if c.rad then 8 else 4)
/-- The executing fragment. -/
def fragOf (c : Ctx) (g : Group) : Frag := g.frag c.fid
/-- The lanes that a BRD sends to its target (R86). -/
def takenLanes (p : BitVec 3) (inv : Bool) (c : Ctx) (g : Group) : Lanes :=
  c.em &&& (if inv then ~~~(g.preg p.toNat) else g.preg p.toNat)
/-- Where a lane goes by a table of offsets (R87). -/
def tableTarget (v : VReg) (tbl : List DWord) (c : Ctx) (g : Group) (l : Nat) : DWord :=
  match tbl[(g.vl v.toNat l).toNat]? with
  | some o => c.pc + o * (if c.rad then 8 else 4)
  | none => nextPc c
/-- The targets that the lanes of EM choose, each with its lanes. -/
def tableParts (v : VReg) (tbl : List DWord) (c : Ctx) (g : Group) : List (DWord × Lanes) :=
  groupTargets (tableTarget v tbl c g) (lanesOf c.em) []
/-- A fragment made by a split: the old predicate stack and innermost record (R52). -/
def splitFrag (f : Frag) (pc : DWord) (m : Lanes) : Frag := ⟨m, pc, f.stack, f.inner, .run, 0, false, none, none, f.did⟩
/-- A split in two: the fragment goes to the target with its lanes, a new one to the next word with the others. -/
def splitInTwo (c : Ctx) (g : Group) (t : Lanes) : Group :=
  { (g.setFrag c.fid (splitFrag (fragOf c g) (targetOf c) t)).setFrag g.nextId
      (splitFrag (fragOf c g) (nextPc c) (c.em &&& ~~~t)) with nextId := g.nextId + 1 }
/-- Entries of the split table in use (R52). -/
def tableUsed (g : Group) : Nat := g.frags.length + g.joins.length

end Sys2Proof.Machine

/-- R84: NOP, SETM, SETMS and GETM, with their words; the new value is checked by R43 and R74; SETM and SETMS are no Radish words. -/
def Obligations.ModeInstructionsWriteAndReadMode : Prop :=
  (∀ r : Option (BitVec 13), Runs (both r .nop .nopRadish) fun _ g => g) ∧
  (∀ m : BitVec 13,
    RunsIf (.setm m) (fun _ _ => legalMode (m.zeroExtend 32)) (fun _ g => { g with mode := m.zeroExtend 32 }) ∧
    FaultsIf (.setm m) (fun _ _ => ¬legalMode (m.zeroExtend 32)) (fun _ _ => flt 2 0)) ∧
  (∀ k : SReg,
    RunsIf (.setms k) (fun _ g => legalMode (g.sreg k.toNat)) (fun _ g => { g with mode := g.sreg k.toNat }) ∧
    FaultsIf (.setms k) (fun _ g => ¬legalMode (g.sreg k.toNat)) (fun _ _ => flt 2 0)) ∧
  (∀ (r : Option (BitVec 13)) (k : SReg), Runs (both r (.getm k) fun w => .getmRadish w k) fun _ g => g.putS k.toNat g.mode) ∧
  (∀ g : Group, SameRegs g (g.putS 0 g.mode) ∧ SameSpecials g (g.putS 0 g.mode)) ∧
  (∀ (s : State) (gid : Nat) (w : BitVec 13) (k : SReg), (enteredGrp s gid (.getmRadish w k)).mode = w.zeroExtend 32) ∧
  (∀ (m : BitVec 13) (k : SReg), encodeWords .nop = [0] ∧ encodeWords (.setm m) = [0x01#8 ++ 0#11 ++ m] ∧
    encodeWords (.setms k) = [0x02#8 ++ 0#18 ++ k] ∧ encodeWords (.getm k) = [0x03#8 ++ 0#18 ++ k]) ∧
  (∀ (w : BitVec 64) (ex : List (BitVec 64)), opcodeOf (radUpper w) = 0x01 ∨ opcodeOf (radUpper w) = 0x02 →
    decodeRadish w ex = .error .unlisted)

/-- R85, R86, R88, R89, R90: a branch, call, return or counted loop moves the whole fragment; CPREF does nothing. -/
def Obligations.BranchesMoveTheWholeFragment : Prop :=
  (∀ (i : Instr), (∃ h off, i = .bra h off) ∨ (∃ w h off, i = .braRadish w h off) →
    JumpsIf i (fun _ _ => True) (fun _ g => g) (fun c _ => targetOf c)) ∧
  (∀ (p : BitVec 3) (inv : Bool) (i : Instr), (∃ h off, i = .brd h p inv off) ∨ (∃ w h off, i = .brdRadish w h p inv off) →
    JumpsIf i (fun c g => takenLanes p inv c g = c.em) (fun _ g => g) (fun c _ => targetOf c) ∧
    JumpsIf i (fun c g => takenLanes p inv c g ≠ c.em ∧ takenLanes p inv c g = 0) (fun _ g => g) (fun c _ => nextPc c)) ∧
  (∀ (b : BitVec 3) (i : Instr), (∃ off, i = .callAddr b off) ∨ (∃ w off, i = .callAddrRadish w b off) →
    JumpsIf i (fun _ _ => True) (fun c g => g.putS64 (2 * b.toNat) (nextPc c)) (fun c _ => targetOf c)) ∧
  (∀ (b : BitVec 3) (r : Option (BitVec 13)),
    JumpsIf (both r (.ret b) fun w => .retRadish w b)
      (fun c g => (g.sreg64 (2 * b.toNat)).toNat % (if c.rad then 8 else 4) = 0) (fun _ g => g) (fun _ g => g.sreg64 (2 * b.toNat)) ∧
    FaultsIf (both r (.ret b) fun w => .retRadish w b)
      (fun c g => (g.sreg64 (2 * b.toNat)).toNat % (if c.rad then 8 else 4) ≠ 0) (fun _ g => fltA 5 0 (g.sreg64 (2 * b.toNat)).toNat)) ∧
  (∀ (k : SReg) (i : Instr), (∃ off, i = .loopCount k off) ∨ (∃ w off, i = .loopCountRadish w k off) →
    JumpsIf i (fun _ g => 2 ≤ (g.sreg k.toNat).toNat) (fun _ g => g.putS k.toNat (g.sreg k.toNat - 1)) (fun c _ => targetOf c) ∧
    JumpsIf i (fun _ g => (g.sreg k.toNat).toNat < 2) (fun _ g => g.putS k.toNat 0) (fun c _ => nextPc c)) ∧
  (∀ (i : Instr), (∃ l off, i = .cpref l off) ∨ (∃ w l off, i = .cprefRadish w l off) → Runs i fun _ g => g) ∧
  (∀ (s : State) (gid fid : Nat) (h : BitVec 2) (off : BitVec 22), (ctxOf s gid fid (.bra h off)).imm = off.signExtend 64)

/-- R87: BRX by its table, with its words; a table of no word is reserved. Every lane of EM stands in the part of the target it
chooses, and no other lane in any part; lanes of one target move the fragment whole. Which part keeps the fragment, and that a BRX with
no lane in EM goes past its table, are the model's own (log 46). -/
def Obligations.TableBranchSendsEachLaneToItsTarget : Prop :=
  (∀ (f : Nat → DWord) (ls : List Nat), (∀ l ∈ ls, l < 32) →
    ((groupTargets f ls []).map (·.1)).Nodup ∧
    ∀ p ∈ groupTargets f ls [], ∀ l < 32, p.2.getLsbD l = true ↔ l ∈ ls ∧ f l = p.1) ∧
  (∀ (v : VReg) (tbl : List DWord) (i : Instr),
    (∃ h t, i = .brx h v t ∧ tbl = t.map fun o => o.signExtend 64) ∨ (∃ w h, i = .brxRadish w h v tbl) →
    JumpsIf i (fun c g => tableParts v tbl c g = []) (fun _ g => g) (fun c _ => nextPc c) ∧
    JumpsIf i (fun c g => ∃ p, tableParts v tbl c g = [p]) (fun _ g => g)
      (fun c g => ((tableParts v tbl c g).map (·.1)).headD 0) ∧
    StaysIf i (fun c g => 2 ≤ (tableParts v tbl c g).length ∧ (fragOf c g).inner.isSome = true ∧
        tableUsed g + (tableParts v tbl c g).length ≤ 33)
      (fun c g => splitInto g c.fid (fragOf c g) (tableParts v tbl c g)) ∧
    FaultsIf i (fun c g => 2 ≤ (tableParts v tbl c g).length ∧ (fragOf c g).inner = none) (fun _ _ => flt 12 0) ∧
    FaultsIf i (fun c g => 2 ≤ (tableParts v tbl c g).length ∧ (fragOf c g).inner.isSome = true ∧
        33 < tableUsed g + (tableParts v tbl c g).length) (fun _ _ => flt 13 0)) ∧
  (∀ (h : BitVec 2) (v : VReg) (t : List (BitVec 32)),
    encodeWords (.brx h v t) = (0x06#8 ++ h ++ 0#6 ++ v ++ BitVec.ofNat 8 t.length) :: t) ∧
  (∀ (h : BitVec 2) (v : VReg) (w : BitVec 13), Reserved (.brx h v []) ∧ Reserved (.brxRadish w h v []))

/-- R86, R52: a BRD whose lanes differ splits its fragment in two, which needs a join record and an entry of the split table. -/
def Sys2Proof.Machine.DivergentBranchSplitsInTwo : Prop :=
  ∀ (p : BitVec 3) (inv : Bool) (i : Instr), (∃ h off, i = .brd h p inv off) ∨ (∃ w h off, i = .brdRadish w h p inv off) →
    StaysIf i (fun c g => takenLanes p inv c g ≠ c.em ∧ takenLanes p inv c g ≠ 0 ∧ (fragOf c g).inner.isSome = true ∧ tableUsed g < 32)
      (fun c g => splitInTwo c g (takenLanes p inv c g)) ∧
    FaultsIf i (fun c g => takenLanes p inv c g ≠ c.em ∧ takenLanes p inv c g ≠ 0 ∧ (fragOf c g).inner = none)
      (fun _ _ => flt 12 0) ∧
    FaultsIf i (fun c g => takenLanes p inv c g ≠ c.em ∧ takenLanes p inv c g ≠ 0 ∧ (fragOf c g).inner.isSome = true ∧
      32 ≤ tableUsed g) (fun _ _ => flt 13 0)

/-- R52, R91: MARK creates a join record under the innermost one; a JOIN at the innermost record's address arrives there, and when
every fragment under that record waits at its JOIN they fuse. -/
def Sys2Proof.Machine.MarkAndJoinManageTheSplitTable : Prop :=
  (∀ (i : Instr), (∃ off, i = .markJoin off) ∨ (∃ w off, i = .markJoinRadish w off) →
    RunsIf i (fun c g => (g.chain (fragOf c g)).length < 8 ∧ tableUsed g < 32)
      (fun c g => { g with joins := aput g.nextId ⟨targetOf c, 0, (fragOf c g).stack, (fragOf c g).inner⟩ g.joins
                           nextId := g.nextId + 1 }.setFrag c.fid { fragOf c g with inner := some g.nextId }) ∧
    FaultsIf i (fun c g => 8 ≤ (g.chain (fragOf c g)).length) (fun _ _ => flt 11 2) ∧
    FaultsIf i (fun c g => (g.chain (fragOf c g)).length < 8 ∧ 32 ≤ tableUsed g) (fun _ _ => flt 13 0)) ∧
  (∀ (r : Option (BitVec 13)),
    StaysIf (both r .joinFrags .joinFragsRadish)
      (fun c g => ∃ j k, (fragOf c g).inner = some j ∧ afind j g.joins = some k ∧ k.target = c.pc)
      (fun c g =>
        let j := ((fragOf c g).inner).getD 0
        let k := aget ⟨0, 0, [], none⟩ j g.joins
        tryFuse ({ g with joins := aput j { k with arrived := k.arrived ||| (fragOf c g).em } g.joins }.setFrag c.fid
          { fragOf c g with wait := .join j }) j (if c.rad then 8 else 4)) ∧
    FaultsIf (both r .joinFrags .joinFragsRadish)
      (fun c g => (fragOf c g).inner = none ∨
        ∃ j k, (fragOf c g).inner = some j ∧ afind j g.joins = some k ∧ k.target ≠ c.pc) (fun _ _ => flt 12 1)) ∧
  (∀ (g : Group) (j word : Nat) (k : Join), afind j g.joins = some k →
    let under := g.frags.filter fun p => (g.chain p.2).contains j
    (∀ p q, under = p :: q → (under.all fun p => p.2.wait == .join j) = true →
      (tryFuse g j word).frags = aput p.1
        ⟨under.foldl (fun m p => m ||| p.2.em) 0, k.target + BitVec.ofNat 64 word, k.stack, k.parent, .run, 0, false, none, none,
          (g.frag p.1).did + 1⟩
        (g.frags.filter fun x => !(under.any fun y => y.1 == x.1)) ∧
      (tryFuse g j word).joins = adel j g.joins) ∧
    ((under.all fun p => p.2.wait == .join j) = false → tryFuse g j word = g))

/-- R52, R86, R91: BRD where its lanes differ, MARK and JOIN. Of a full mark stack and a full split table MARK raises the stack's fault,
which is the model's choice (log 106). -/
def Obligations.DivergenceAndJoinsManageTheSplitTable : Prop := DivergentBranchSplitsInTwo ∧ MarkAndJoinManageTheSplitTable

/-- R51, R92, R93: the predicate stack and the execution mask, with the words of their instructions. -/
def Obligations.PredicateStackAndExecutionMask : Prop :=
  ∀ (r : Option (BitVec 13)) (p : BitVec 3) (k : SReg),
    (encodeWords (.ppush p) = [0x0B#8 ++ 0#21 ++ p] ∧ encodeWords .pinv = [0x0C000000] ∧ encodeWords .ppop = [0x0D000000] ∧
      encodeWords (.emrd k) = [0x0E#8 ++ 0#18 ++ k] ∧ encodeWords (.emwr k) = [0x0F#8 ++ 0#18 ++ k]) ∧
    RunsIf (both r (.ppush p) fun w => .ppushRadish w p) (fun c g => (fragOf c g).stack.length < 8)
      (fun c g => g.setFrag c.fid { fragOf c g with
        stack := (fragOf c g).em :: (fragOf c g).stack, em := (fragOf c g).em &&& g.preg p.toNat }) ∧
    FaultsIf (both r (.ppush p) fun w => .ppushRadish w p) (fun c g => 8 ≤ (fragOf c g).stack.length) (fun _ _ => flt 11 0) ∧
    RunsIf (both r .pinv .pinvRadish) (fun c g => (fragOf c g).stack ≠ [])
      (fun c g => g.setFrag c.fid { fragOf c g with em := (fragOf c g).stack.headD 0 &&& ~~~(fragOf c g).em }) ∧
    FaultsIf (both r .pinv .pinvRadish) (fun c g => (fragOf c g).stack = []) (fun _ _ => flt 11 1) ∧
    RunsIf (both r .ppop .ppopRadish) (fun c g => (fragOf c g).stack ≠ [])
      (fun c g => g.setFrag c.fid { fragOf c g with em := (fragOf c g).stack.headD 0, stack := (fragOf c g).stack.tail }) ∧
    FaultsIf (both r .ppop .ppopRadish) (fun c g => (fragOf c g).stack = []) (fun _ _ => flt 11 1) ∧
    Runs (both r (.emrd k) fun w => .emrdRadish w k) (fun c g => g.putS k.toNat c.em) ∧
    RunsIf (both r (.emwr k) fun w => .emwrRadish w k)
      (fun c g => g.sreg k.toNat &&& ~~~((fragOf c g).stack.getLastD (fragOf c g).em) = 0)
      (fun c g => g.setFrag c.fid { fragOf c g with em := g.sreg k.toNat }) ∧
    FaultsIf (both r (.emwr k) fun w => .emwrRadish w k)
      (fun c g => g.sreg k.toNat &&& ~~~((fragOf c g).stack.getLastD (fragOf c g).em) ≠ 0) (fun _ _ => flt 1 4)

/-! ### Waiting, barriers, migration, traps and special values -/

namespace Sys2Proof.Machine

/-- The counters meet a WAITC's bounds (R94). -/
def countersMet (a b : BitVec 6) (t d : BitVec 4) (g : Group) : Prop :=
  g.ldc ≤ a.toNat ∧ g.stc ≤ b.toNat ∧ g.tlc ≤ t.toNat ∧ (g.cb - g.cbd).toNat ≤ d.toNat
/-- The age of batch n and the batches not yet complete (R95). -/
def batchAge (g : Group) (n : BitVec 16) : Nat := (g.cb - n).toNat
def batchLag (g : Group) : Nat := (g.cb - g.cbd).toNat
/-- The cycle count of the core that a group runs on, in core cycles (R2). -/
def ownCycle (c : Ctx) (s : State) : Nat := s.coreCyc (s.coreOf (s.grp c.gid))
/-- The other ready fragments of that core. -/
def otherReady (c : Ctx) (s : State) : List (Nat × Nat) :=
  (readyOn s (s.coreOf (s.grp c.gid))).filter fun p => p != (c.gid, c.fid)
/-- The instance that a barrier instruction names, and the group's team. -/
def barOf (k : BitVec 2) (i : BitVec 4) (c : Ctx) (s : State) : Bar := s.bar (s.grp c.gid).team k.toNat i.toNat
/-- One fragment, and the group belongs to the instance. -/
def uniformMember (k : BitVec 2) (i : BitVec 4) (c : Ctx) (s : State) : Prop :=
  (s.grp c.gid).frags.length ≤ 1 ∧ c.gid ∈ (barOf k i c s).members
/-- What an arrival that completes no phase leaves of the instance, and what one that completes it leaves (R98). -/
def ArrivedIn (c : Ctx) (b b' : Bar) : Prop :=
  b'.expect = b.expect ∧ b'.members = b.members ∧ b'.gone = b.gone ∧
  (b.arrived + 1 + (b.gone.filter fun m => m.1 ≠ c.gid ∧ (m.1, b.phase) ∉ b.pend).length < b.expect →
    b'.arrived = b.arrived + 1 ∧ b'.phase = b.phase ∧ (c.gid, b.phase) ∈ b'.pend) ∧
  (b.expect ≤ b.arrived + 1 + (b.gone.filter fun m => m.1 ≠ c.gid ∧ (m.1, b.phase) ∉ b.pend).length →
    b'.arrived = 0 ∧ b'.phase = b.phase + 1 ∧ ∀ p ∈ b'.pend, p.2 ≠ b.phase)
/-- A phase with its arrivals and the exited members that count in it (R98). -/
def counted (b : Bar) : Nat := b.arrived + (b.gone.filter fun m => (m.1, b.phase) ∉ b.pend).length
/-- The effect of an instruction that waits and changes its group otherwise as F says. -/
def AlsoWaits (w : Wait) (c : Ctx) (t : State) : Prop := ((t.grp c.gid).frag c.fid).wait = w ∧ ((t.grp c.gid).frag c.fid).pc = c.pc
/-- A wait on an instance in its present phase or a later one. -/
def waitsOn (q : Nat × Nat) (phase : Nat) (w : Wait) : Prop := ∃ p, phase ≤ p ∧ (w = .phase q.1 q.2 p ∨ w = .nextPhase q.1 q.2 p)
/-- Some member waits on an instance: a group by one of its fragments, or a team's stream (R97, R100). -/
def someWaits (s : State) (q : Nat × Nat) (b : Bar) : Prop :=
  ∃ m ∈ b.members, (∃ f ∈ (s.grp m).frags, waitsOn q b.phase f.2.wait) ∨ (2 ^ 40 ≤ m ∧ waitsOn q b.phase (s.str (m - 2 ^ 40)).wait)
/-- The value that an XRD reads by its index (R111). -/
def trapValue (s : State) (g : Group) (i : Nat) : Word :=
  if i = 0x00 then g.xpc.extractLsb' 0 32 else if i = 0x01 then g.xpc.extractLsb' 32 32 else if i = 0x02 then g.xem
  else if i = 0x03 then g.xmode else if i = 0x04 then (if g.inh then 1 else 0) else if i = 0x10 then g.flags
  else if 0x08 ≤ i ∧ i ≤ 0x0F then aget 0 (i - 8) g.xrec
  else if i < 0x30 then (s.bar g.team 0 (i - 0x20)).word else if i < 0x38 then (s.bar g.team 1 (i - 0x30)).word
  else (s.bar g.team 2 (i - 0x38)).word
/-- The special value of an index, those that R112 makes 32 bits wide and those that fill a pair. -/
def specialValue (s : State) (g : Group) (rad : Bool) (i : Nat) : Nat :=
  let t := s.team g.team
  let k := s.cluster t.cluster
  let l := s.launch t.launch
  let x := field l.record 56 2
  let y := field l.record 58 2
  if i = 0x00 then t.core else if i = 0x01 then k.number else if i = 0x02 then t.member else if i = 0x03 then field l.record 62 1
  else if i = 0x04 then k.linear % x else if i = 0x05 then k.linear / x % y else if i = 0x06 then k.linear / (x * y)
  else if i = 0x07 then g.idx else if i = 0x08 then field l.record 63 1 else if i = 0x09 then g.role
  else if i = 0x0A then (if rad then 1 else 0) else if i = 0x0B then g.lastEqp.toNat else if i = 0x0C then g.prio
  else if i = 0x0D then l.asid else if i = 0x0E then (t.stream.map (·.mstat.toNat)).getD 0
  else if i = 0x10 then g.counters.toNat else if i = 0x12 then s.time else if i = 0x14 then s.cyc t.core
  else if i = 0x16 then g.retired.toNat else if i = 0x18 then g.pb.toNat else (s.asid l.asid).dtpage.toNat
/-- The word after a LIT with its literal words. -/
def litNext (wide : Bool) (c : Ctx) : DWord := c.pc + if wide then 12 else 8
/-- What is read there. -/
def litWord (wide : Bool) (c : Ctx) (s : State) : Except FaultInfo Word :=
  fetchWord s (fetchAgent c.gid) (s.placeOf c.gid) (s.asidOf (s.grp c.gid)) (litNext wide c)
/-- A fault that suspends the group reports this (R313, R338). -/
def reportOf (s : State) (gid fid : Nat) (pc : DWord) (xr : List (Nat × Word)) : Report :=
  ⟨s.asidOf (s.grp gid), s.coreOf (s.grp gid), (s.grp gid).idx, (s.team (s.grp gid).team).launch, pc, ((s.grp gid).frag fid).em,
    (s.grp gid).mode, xr, s.time⟩
/-- The eight fault registers as R310 lays them out. -/
def faultRecord (e : FaultInfo) (pc : DWord) (point : BitVec 16) (rad nest : Bool) (other : DWord) (m : Lanes) (r : List (Nat × Word)) : Prop :=
  (aget 0 0 r).toNat = (e.cause + 256 * e.flag + 2 ^ 16 * (if e.va then e.ea / 2 ^ 32 % 2 ^ 16 else 0)) % 2 ^ 32 ∧
  aget 0 1 r = pc.extractLsb' 0 32 ∧ aget 0 2 r = pc.extractLsb' 32 32 ∧
  (aget 0 3 r).toNat = point.toNat + 2 ^ 16 * (if rad then 1 else 0) + 2 ^ 17 * (if nest then 1 else 0) +
    2 ^ 19 * (if e.va then e.ea / 2 ^ 48 % 2 ^ 9 else 0) ∧
  aget 0 4 r = other.extractLsb' 0 32 ∧ aget 0 5 r = other.extractLsb' 32 32 ∧
  aget 0 6 r = BitVec.ofNat 32 e.ea ∧ aget 0 7 r = e.mask.getD m

end Sys2Proof.Machine

/-- R94, R95, R96: WAITC, CBATCH and WAITB go on when their counters allow and wait else; YIELD and SNOOZE give up issue. -/
def Obligations.WaitInstructionsGoOnOrWait : Prop :=
  ∀ r : Option (BitVec 13),
  (∀ (a b : BitVec 6) (t d : BitVec 4),
    RunsIf (both r (.waitc a b t d) fun w => .waitcRadish w a b t d) (fun _ g => countersMet a b t d g) (fun _ g => g) ∧
    WaitsIf (both r (.waitc a b t d) fun w => .waitcRadish w a b t d) (fun c s => ¬countersMet a b t d (s.grp c.gid))
      (fun _ _ => .ctr a.toNat b.toNat t.toNat d.toNat)) ∧
  (WaitsIf (both r .cbatch .cbatchRadish) (fun c s => batchLag (s.grp c.gid) = 15) (fun _ _ => .lag) ∧
    DoesIf (both r .cbatch .cbatchRadish) (fun c s => batchLag (s.grp c.gid) ≠ 15) fun c s t =>
      WentOn c s t ∧ (t.grp c.gid).cb = (s.grp c.gid).cb + 1 ∧ (t.grp c.gid).opn = false ∧
      SameRegs (s.grp c.gid) (t.grp c.gid) ∧ SameSpecials (s.grp c.gid) (t.grp c.gid) ∧ t.mem = s.mem ∧
      ∀ k x, afind k s.copies = some x → afind k t.copies = some
        (if x.gid = c.gid ∧ x.batch = none then { x with batch := some ((s.grp c.gid).cb + 1) } else x)) ∧
  (∀ n : BitVec 16,
    FaultsIf (both r (.waitb n) fun w => .waitbRadish w n) (fun _ g => 2 ^ 15 ≤ batchAge g n) (fun _ _ => fltV 4 3 n.toNat) ∧
    WaitsIf (both r (.waitb n) fun w => .waitbRadish w n)
      (fun c s => batchAge (s.grp c.gid) n < 2 ^ 15 ∧ batchAge (s.grp c.gid) n < batchLag (s.grp c.gid)) (fun _ _ => .batch n) ∧
    DoesIf (both r (.waitb n) fun w => .waitbRadish w n)
      (fun c s => batchAge (s.grp c.gid) n < 2 ^ 15 ∧ batchLag (s.grp c.gid) ≤ batchAge (s.grp c.gid) n) fun c s t =>
      WentOn c s t ∧ SameRegs (s.grp c.gid) (t.grp c.gid) ∧ SameSpecials (s.grp c.gid) (t.grp c.gid) ∧ t.mem = s.mem ∧
      t.copies = s.copies) ∧
  WaitsIf (both r .yieldIssue .yieldIssueRadish) (fun _ _ => True) (fun c s => .yield (ownCycle c s) (otherReady c s)) ∧
  (∀ n : BitVec 16, DoesIf (both r (.snooze n) fun w => .snoozeRadish w n) (fun _ _ => n ≠ 0) fun c s t =>
    WentOn c s t ∧ ((t.grp c.gid).frag c.fid).wait = .snooze (ownCycle c s) n.toNat ∧
    SameRegs (s.grp c.gid) (t.grp c.gid) ∧ SameSpecials (s.grp c.gid) (t.grp c.gid) ∧ t.mem = s.mem) ∧
  WaitsIf (both r (.snooze 0) fun w => .snoozeRadish w 0) (fun _ _ => True) (fun c s => .yield (ownCycle c s) (otherReady c s))

/-- R98, R97, R53: BAR, BARA and DRAIN arrive at their instance once stores (and for DRAIN copies) are complete and the group's own
arrival in the current phase is gone; BARA and DRAIN go on; BAR and BARW wait for their phase. That a group which is no member and
has several fragments raises the uniform-instruction fault is the model's choice (log 106), and that a phase which exited members alone
fill completes as the next member comes to it is inferred (log 37). -/
def Obligations.BarrierInstructionsArriveAndWait : Prop :=
  ∀ (r : Option (BitVec 13)) (k : BitVec 2) (i : BitVec 4),
  let bar := both r (.bar k i) fun w => .barRadish w k i
  let bara := both r (.bara k i) fun w => .baraRadish w k i
  let barw := both r (.barw k i) fun w => .barwRadish w k i
  let drain := both r (.drain k i) fun w => .drainRadish w k i
  let fresh := fun (c : Ctx) => ∀ a b p, c.wait ≠ .phase a b p
  (∀ x, x = bar ∨ x = bara ∨ x = barw ∨ x = drain →
    TrapsIf x (fun c s => fresh c ∧ 1 < (s.grp c.gid).frags.length) (fun _ _ => flt 12 2) ∧
    TrapsIf x (fun c s => fresh c ∧ (s.grp c.gid).frags.length ≤ 1 ∧ c.gid ∉ (barOf k i c s).members) (fun _ _ => flt 3 1)) ∧
  (∀ x, x = bar ∨ x = bara →
    WaitsIf x (fun c s => fresh c ∧ uniformMember k i c s ∧ (s.grp c.gid).stores ≠ []) (fun _ _ => .stores)) ∧
  WaitsIf drain (fun c s => fresh c ∧ uniformMember k i c s ∧ ((s.grp c.gid).stores ≠ [] ∨ s.copiesOf c.gid ≠ []))
    (fun _ _ => .copies) ∧
  (∀ x, x = bar ∨ x = bara →
    WaitsIf x (fun c s => fresh c ∧ uniformMember k i c s ∧ (s.grp c.gid).stores = [] ∧ (c.gid, (barOf k i c s).phase) ∈ (barOf k i c s).pend)
      (fun c s => .nextPhase k.toNat i.toNat (barOf k i c s).phase)) ∧
  (∀ x, x = bara ∨ x = drain →
    DoesIf x (fun c s => fresh c ∧ uniformMember k i c s ∧ (s.grp c.gid).stores = [] ∧ (x = drain → s.copiesOf c.gid = []) ∧
        (c.gid, (barOf k i c s).phase) ∉ (barOf k i c s).pend) fun c s t =>
      WentOn c s t ∧ ArrivedIn c (barOf k i c s) (t.bar (s.grp c.gid).team k.toNat i.toNat) ∧
      SameRegs (s.grp c.gid) (t.grp c.gid) ∧ SameSpecials (s.grp c.gid) (t.grp c.gid) ∧ t.mem = s.mem) ∧
  DoesIf bar (fun c s => fresh c ∧ uniformMember k i c s ∧ (s.grp c.gid).stores = [] ∧
      (c.gid, (barOf k i c s).phase) ∉ (barOf k i c s).pend) (fun c s t =>
    ArrivedIn c (barOf k i c s) (t.bar (s.grp c.gid).team k.toNat i.toNat) ∧
    (if (t.bar (s.grp c.gid).team k.toNat i.toNat).phase = (barOf k i c s).phase
      then AlsoWaits (.phase k.toNat i.toNat (barOf k i c s).phase) c t else WentOn c s t) ∧
    SameRegs (s.grp c.gid) (t.grp c.gid) ∧ t.mem = s.mem) ∧
  (∀ x, x = bar ∨ x = barw → ∀ a b p : Nat,
    DoesIf x (fun c s => c.wait = .phase a b p ∧ p < (s.bar (s.grp c.gid).team a b).phase) (fun c s t =>
      WentOn c s t ∧ SameRegs (s.grp c.gid) (t.grp c.gid) ∧ t.mem = s.mem) ∧
    WaitsIf x (fun c s => c.wait = .phase a b p ∧ (s.bar (s.grp c.gid).team a b).phase ≤ p) (fun _ _ => .phase a b p)) ∧
  WaitsIf barw (fun c s => fresh c ∧ uniformMember k i c s ∧ (∃ q ∈ (barOf k i c s).pend, q.1 = c.gid) ∧
      ∀ q ∈ (barOf k i c s).pend, q.1 = c.gid → q.2 = (barOf k i c s).phase)
    (fun c s => .phase k.toNat i.toNat (barOf k i c s).phase) ∧
  DoesIf barw (fun c s => fresh c ∧ uniformMember k i c s ∧ ∀ q ∈ (barOf k i c s).pend, q.1 ≠ c.gid) (fun c s t =>
    (counted (barOf k i c s) < (barOf k i c s).expect →
      AlsoWaits (.phase k.toNat i.toNat (barOf k i c s).phase) c t ∧ t.bar (s.grp c.gid).team k.toNat i.toNat = barOf k i c s) ∧
    ((barOf k i c s).expect ≤ counted (barOf k i c s) →
      WentOn c s t ∧ (t.bar (s.grp c.gid).team k.toNat i.toNat).phase = (barOf k i c s).phase + 1 ∧
      (t.bar (s.grp c.gid).team k.toNat i.toNat).arrived = 0) ∧
    SameRegs (s.grp c.gid) (t.grp c.gid) ∧ t.mem = s.mem) ∧
  DoesIf barw (fun c s => fresh c ∧ uniformMember k i c s ∧
      ∃ q ∈ (barOf k i c s).pend, q.1 = c.gid ∧ ∀ q ∈ (barOf k i c s).pend, q.1 = c.gid → q.2 < (barOf k i c s).phase)
    (fun c s t => WentOn c s t ∧ SameRegs (s.grp c.gid) (t.grp c.gid) ∧ t.mem = s.mem)

/-- R101, R102, R105: EQP sets the last equivalence point; MIGR waits as its group's arrival, or faults in the order of R102; ROLESW
gives the group the role's entry, allotment and priority, or faults. The role in whose text an EQP stands is found by its address
(log 58); XREC6 of a MIGR that does not follow its EQP (log 39), the class of the queue entry (log 40), and of ROLESW's faults the hazard
first (log 106) are the model's own. -/
def Obligations.EquivalencePointMigrationAndRole : Prop :=
  ∀ r : Option (BitVec 13),
  (∀ n : BitVec 16,
    DoesIf (both r (.eqp n) fun w => .eqpRadish w n) (fun c s => (s.grp c.gid).frags.length ≤ 1) (fun c s t =>
      let g := s.grp c.gid
      t.grp c.gid = Group.passOn { g.goto c.fid (nextPc c) with
        lastEqp := n, eqpRole := (t.grp c.gid).eqpRole, justEqp := some n, retired := g.retired + 1
        eqpMay := (s.launchOf g).policy == 2 &&
          (g.joins == [] && g.loads == [] && g.stores == [] && g.tiles == [] && !g.opn && hasPoint s g n) } c.fid ∧
      t = s.setGrp c.gid (t.grp c.gid) ∧
      ((∀ p ∈ s.points (s.launchOf g), p.point = n.toNat → pointAddr (s.launchOf g) p (s.radOf g) ≠ c.pc) →
        (t.grp c.gid).eqpRole = g.role) ∧
      ∀ p ∈ s.points (s.launchOf g), p.point = n.toNat → pointAddr (s.launchOf g) p (s.radOf g) = c.pc →
        ∃ q ∈ s.points (s.launchOf g), q.point = n.toNat ∧ pointAddr (s.launchOf g) q (s.radOf g) = c.pc ∧
          (t.grp c.gid).eqpRole = q.role) ∧
    FaultsIf (both r (.eqp n) fun w => .eqpRadish w n) (fun _ g => 1 < g.frags.length) (fun _ _ => flt 12 2)) ∧
  (∀ (k : Bool) (n : BitVec 16),
    let x := both r (.migrTeam k n) fun w => .migrTeamRadish w k n
    let first := fun (c : Ctx) => ∀ a b, c.wait ≠ .migr a b
    let allowed := fun (c : Ctx) (s : State) => (s.launchOf (s.grp c.gid)).policy ≠ 0
    let noStream := fun (c : Ctx) (s : State) => (s.team (s.grp c.gid).team).stream = none ∨ k = false
    let one := fun (g : Group) => g.frags.length ≤ 1 ∧ g.joins = []
    let quiet := fun (g : Group) => g.loads = [] ∧ g.stores = [] ∧ g.tiles = [] ∧ g.opn = false
    let idle := fun (g : Group) => g.justEqp = some n ∧ quiet g
    TrapsIf x (fun c s => first c ∧ ¬allowed c s) (fun _ _ => flt 3 2) ∧
    TrapsIf x (fun c s => first c ∧ allowed c s ∧ ¬noStream c s) (fun _ _ => flt 3 5) ∧
    TrapsIf x (fun c s => first c ∧ allowed c s ∧ noStream c s ∧ ¬one (s.grp c.gid)) (fun _ _ => flt 12 2) ∧
    DoesIf x (fun c s => first c ∧ allowed c s ∧ noStream c s ∧ one (s.grp c.gid) ∧ ¬quiet (s.grp c.gid))
      (fun c _ t => (aget 0 0 (t.grp c.gid).xrec).toNat % 2 ^ 16 = 4 + 256 * 1) ∧
    TrapsIf x (fun c s => first c ∧ allowed c s ∧ noStream c s ∧ one (s.grp c.gid) ∧ quiet (s.grp c.gid) ∧ (s.grp c.gid).justEqp ≠ some n)
      (fun _ _ => flt 4 1) ∧
    TrapsIf x (fun c s => first c ∧ allowed c s ∧ noStream c s ∧ one (s.grp c.gid) ∧ idle (s.grp c.gid) ∧
        ∀ p ∈ s.points (s.launchOf (s.grp c.gid)), p.point = n.toNat → p.role ≠ (s.grp c.gid).role) (fun _ _ => fltV 4 1 (256 * 7)) ∧
    DoesIf x (fun c s => first c ∧ allowed c s ∧ noStream c s ∧ one (s.grp c.gid) ∧ idle (s.grp c.gid) ∧
        hasPoint s (s.grp c.gid) n = true ∧ (s.team (s.grp c.gid).team).migr = none ∧ c.gid ∈ s.liveGroups (s.grp c.gid).team ∧
        ∀ e ∈ s.migq, e.team ≠ (s.grp c.gid).team) (fun c s t =>
      AlsoWaits (.migr k n) c t ∧ (t.team (s.grp c.gid).team).migr = some (k, n.toNat, [c.gid]) ∧
      ((∀ g ∈ s.liveGroups (s.grp c.gid).team, g = c.gid) ↔ t.migq.length = s.migq.length + 1) ∧
      (t.migq ≠ s.migq → t.migq = s.migq ++ [⟨(s.grp c.gid).team, k, n.toNat, teamClass s (s.grp c.gid).team, s.time, false, none⟩]) ∧
      SameRegs (s.grp c.gid) (t.grp c.gid) ∧ t.mem = s.mem) ∧
    TrapsIf x (fun c s => first c ∧ allowed c s ∧ noStream c s ∧ one (s.grp c.gid) ∧ idle (s.grp c.gid) ∧
        hasPoint s (s.grp c.gid) n = true ∧ ∃ m, (s.team (s.grp c.gid).team).migr = some m ∧ (m.1 ≠ k ∨ m.2.1 ≠ n.toNat))
      (fun _ _ => flt 12 3)) ∧
  (∀ i : BitVec 3,
    let x := both r (.rolesw i) fun w => .roleswRadish w i
    let idle := fun (g : Group) => g.frags.length ≤ 1 ∧ g.loads = [] ∧ g.tiles = [] ∧ g.opn = false
    let mayBe := fun (c : Ctx) (s : State) => (s.launchOf (s.grp c.gid)).roleKind i.toNat < 2 ∧
      ((s.launchOf (s.grp c.gid)).role (s.grp c.gid).role 9 1).testBit i.toNat = true
    TrapsIf x (fun c s => 1 < (s.grp c.gid).frags.length) (fun _ _ => flt 12 2) ∧
    TrapsIf x (fun c s => (s.grp c.gid).frags.length ≤ 1 ∧ (s.grp c.gid).loads ≠ []) (fun _ _ => fltV 4 2 (256 * 4)) ∧
    TrapsIf x (fun c s => (s.grp c.gid).frags.length ≤ 1 ∧ (s.grp c.gid).loads = [] ∧ (s.grp c.gid).tiles ≠ [])
      (fun _ _ => fltV 4 2 (2 + 256 * 4)) ∧
    TrapsIf x (fun c s => (s.grp c.gid).frags.length ≤ 1 ∧ (s.grp c.gid).loads = [] ∧ (s.grp c.gid).tiles = [] ∧
      (s.grp c.gid).opn = true) (fun _ _ => fltV 4 2 (3 + 256 * 4)) ∧
    TrapsIf x (fun c s => idle (s.grp c.gid) ∧ ¬mayBe c s) (fun _ _ => flt 3 4) ∧
    DoesIf x (fun c s => idle (s.grp c.gid) ∧ mayBe c s) (fun c s t =>
      let l := s.launchOf (s.grp c.gid)
      let g := s.grp c.gid
      let h := t.grp c.gid
      h.role = i.toNat ∧ h.mode = 0x20 ∧ (h.frag c.fid).pc = l.entry i.toNat c.rad ∧ h.allot = l.allot i.toNat c.rad ∧
      h.prio = l.role i.toNat 8 1 % 4 ∧ h.retired = g.retired + 1 ∧ h.s = g.s ∧ h.p = g.p ∧ h.flags = g.flags ∧
      h.rset = g.rset ∧ h.stores = g.stores ∧ h.cb = g.cb ∧ h.cbd = g.cbd ∧ t.mem = s.mem ∧
      ∀ q, (q < h.allot ∧ q < g.allot → h.vreg q = g.drainSfu.vreg q) ∧
        (g.allot ≤ q → q < h.allot → h.vreg q = List.replicate 32 0 ∧ h.vPois q = 0)))

/-- R106, R108, R53: the last fragment's EXIT retires the group, another's leaves the rest, and its lanes count as arrived at every open
join record: one under which every other fragment waits at its JOIN fuses them. IFENCE changes no register; the group's later fetches
follow what the fragment's lanes have done before it (R246). -/
def Obligations.ExitRetiresLanesAndFenceOfCode : Prop :=
  ∀ r : Option (BitVec 13),
  DoesIf (both r .exitFrag .exitFragRadish) (fun c s => ∃ f, (s.grp c.gid).frags = [(c.fid, f)]) (fun c s t =>
    (t.grp c.gid).frags = [] ∧ (t.grp c.gid).joins = [] ∧ (t.grp c.gid).exited = true ∧
    (t.grp c.gid).loads = (s.grp c.gid).loads.filterMap LoadOp.orphan ∧ (∀ op ∈ (t.grp c.gid).loads, op.dst = none) ∧
    (t.grp c.gid).stores = (s.grp c.gid).stores ∧
    ((s.grp c.gid).stores = [] ∧ s.copiesOf c.gid = [] ∧ (t.grp c.gid).loads = [] → (t.grp c.gid).live = false) ∧
    ((s.grp c.gid).stores ≠ [] → (t.grp c.gid).live = (s.grp c.gid).live) ∧
    ∀ a, (∀ w ∈ s.ord.writes, w.priv = true → w.place.group = c.gid → w.covers a = false) → t.byte a = s.byte a) ∧
  DoesIf (both r .exitFrag .exitFragRadish) (fun c s => ∃ k f, k ≠ c.fid ∧ afind k (s.grp c.gid).frags = some f) (fun c s t =>
    let rest := { s.grp c.gid with frags := adel c.fid (s.grp c.gid).frags }
    let word := if c.rad then 8 else 4
    (t.grp c.gid).frags = (fuseAll rest word).frags.map (fun p => if p.1 = c.fid then (p.1, { p.2 with did := p.2.did + 1 }) else p) ∧
    (t.grp c.gid).joins = (fuseAll rest word).joins ∧
    ((s.grp c.gid).joins = [] → (t.grp c.gid).frags = rest.frags) ∧
    (∀ j k, (s.grp c.gid).joins = [(j, k)] → (∀ p ∈ rest.frags, j ∈ rest.chain p.2 → p.2.wait = .join j) →
      (t.grp c.gid).joins = []) ∧
    (∀ j k p, (s.grp c.gid).joins = [(j, k)] → p ∈ rest.frags → j ∈ rest.chain p.2 → p.2.wait ≠ .join j →
      (t.grp c.gid).joins = [(j, k)] ∧ (t.grp c.gid).frags = rest.frags) ∧ SameRegs (s.grp c.gid) (t.grp c.gid) ∧
    (t.grp c.gid).exited = (s.grp c.gid).exited ∧ t.mem = s.mem ∧
    ((s.grp c.gid).inh = true → (∃ st js, (s.grp c.gid).hctx = some (c.fid, st, js)) → (t.grp c.gid).inh = false)) ∧
  DoesIf (both r .ifence .ifenceRadish) (fun _ _ => True) (fun c s t =>
    WentOn c s t ∧ SameRegs (s.grp c.gid) (t.grp c.gid) ∧ SameSpecials (s.grp c.gid) (t.grp c.gid) ∧ t.mem = s.mem ∧
    ∃ n, (t.ord.ag (fetchAgent c.gid)).at_ = some n ∧
      (∀ l < 32, ((s.grp c.gid).fragMask c.fid).getLsbD l = true → ∀ m, (s.ord.ag (laneAgent c.gid l)).at_ = some m →
        m < s.ord.past.size → t.ord.hb m n = true) ∧
      ∀ m, (s.ord.ag (fetchAgent c.gid)).at_ = some m → m < s.ord.past.size → t.ord.hb m n = true) ∧
  (∀ (g : Group) (k l : Nat), l < 32 → ((g.frag k).em.getLsbD l = true → (g.fragMask k).getLsbD l = true) ∧
    (g.frags = [(k, g.frag k)] → ((g.fragMask k).getLsbD l = true ↔
      ((g.frag k).em ||| (g.frag k).stack.getLastD (g.frag k).em).getLsbD l = true)))

/-- R109: TRAP raises the software-trap fault with its code. -/
def Sys2Proof.Machine.TrapRaisesTheSoftwareTrap : Prop :=
  ∀ (r : Option (BitVec 13)) (k : BitVec 16),
    FaultsIf (both r (.trapCode k) fun w => .trapCodeRadish w k) (fun _ _ => True) (fun _ _ => fltV 16 0 k.toNat)

/-- R110: XRET leaves the handler with EM and MODE from XEM and XMODE, at XPC or past the instruction there, or faults. -/
def Sys2Proof.Machine.ReturnFromHandlerRestores : Prop :=
  ∀ (r : Option (BitVec 13)),
  let x := fun (skip : Bool) => both r (.xret skip) fun w => .xretRadish w skip
  let asFound := fun (c : Ctx) (g : Group) => ∃ k st js, g.hctx = some (k, st, js) ∧ (g.frag c.fid).stack = st ∧ g.joins = js
  let word := fun (c : Ctx) => if c.rad then 8 else 4
  (∀ skip, FaultsIf (x skip) (fun _ g => g.inh = false ∨ g.hctx = none) (fun _ _ => flt 1 5)) ∧
  (∀ skip, FaultsIf (x skip) (fun c g => g.inh = true ∧ g.hctx.isSome = true ∧ ¬asFound c g) (fun _ _ => flt 11 3)) ∧
  (∀ skip, FaultsIf (x skip) (fun c g => g.inh = true ∧ asFound c g ∧ g.xpc.toNat % word c ≠ 0) (fun _ g => fltA 5 0 g.xpc.toNat)) ∧
  (StaysIf (x false) (fun c g => g.inh = true ∧ asFound c g ∧ g.xpc.toNat % word c = 0) fun c g =>
    g.xret c.fid g.xpc (if (aget 0 0 g.xrec).toNat % 256 = 7 then some (aget 0 7 g.xrec) else none)) ∧
  (DoesIf (x true) (fun c s => (s.grp c.gid).inh = true ∧ asFound c (s.grp c.gid) ∧ (s.grp c.gid).xpc.toNat % word c = 0) fun c s t =>
    let g := s.grp c.gid
    t.grp c.gid = (g.xret c.fid (g.xpc + BitVec.ofNat 64
      (wholeLen s (fetchAgent c.gid) (s.placeOf c.gid) (s.asidOf g) c.rad g.xpc)) none).retire.passOn c.fid ∧
    (∀ k, k ≠ c.gid → t.grp k = s.grp k) ∧ t.mem = s.mem) ∧
  (∀ (g : Group) (f : Nat) (pc : DWord) (m : Option Lanes),
    let h := g.xret f pc m
    (h.frag f).em = g.xem ∧ h.mode = g.xmode ∧ (h.frag f).pc = pc ∧ h.inh = false ∧ h.susp = none ∧ SameRegs g h ∧
      h.xpc = g.xpc ∧ h.xrec = g.xrec ∧ (h.frag f).replay = m)

/-- R109, R110: TRAP and XRET. -/
def Obligations.TrapAndReturnFromHandler : Prop := TrapRaisesTheSoftwareTrap ∧ ReturnFromHandlerRestores

/-- R111, R100: XRD reads each trap register; XWR writes XPC, XEM and XMODE in a handler, clears FLAGS, sets a barrier's EXPECT,
and is ignored at a read-only register. -/
def Obligations.TrapRegistersReadAndWrite : Prop :=
  ∀ (r : Option (BitVec 13)) (k : SReg),
  (∀ i : BitVec 8, DoesIf (both r (.xrd k i) fun w => .xrdRadish w k i) (fun _ _ => trapIndex i.toNat = true) fun c s t =>
    WentOn c s t ∧ (t.grp c.gid).sreg k.toNat = (if k = 0 then 0 else trapValue s (s.grp c.gid) i.toNat) ∧
    (∀ j, j ≠ k.toNat → (t.grp c.gid).sreg j = (s.grp c.gid).sreg j) ∧ (t.grp c.gid).v = (s.grp c.gid).v ∧
    (t.grp c.gid).p = (s.grp c.gid).p ∧ SameSpecials (s.grp c.gid) (t.grp c.gid) ∧ t.mem = s.mem) ∧
  (let x := fun (i : BitVec 8) => both r (.xwr k i) fun w => .xwrRadish w k i
   (∀ i : BitVec 8, i.toNat < 4 → FaultsIf (x i) (fun _ g => g.inh = false) (fun _ _ => flt 1 5)) ∧
   RunsIf (x 0) (fun _ g => g.inh = true) (fun _ g => { g with xpc := g.xpc.extractLsb' 32 32 ++ g.sreg k.toNat }) ∧
   RunsIf (x 1) (fun _ g => g.inh = true) (fun _ g => { g with xpc := g.sreg k.toNat ++ g.xpc.extractLsb' 0 32 }) ∧
   RunsIf (x 2) (fun _ g => g.inh = true) (fun _ g => { g with xem := g.sreg k.toNat }) ∧
   RunsIf (x 3) (fun _ g => g.inh = true ∧ legalMode (g.sreg k.toNat)) (fun _ g => { g with xmode := g.sreg k.toNat }) ∧
   FaultsIf (x 3) (fun _ g => g.inh = true ∧ ¬legalMode (g.sreg k.toNat)) (fun _ _ => flt 2 0) ∧
   RunsIf (x 0x10) (fun _ _ => True) (fun _ g => { g with flags := g.flags &&& ~~~(g.sreg k.toNat &&& 0x11F) }) ∧
   (∀ i : BitVec 8, i = 4 ∨ (8 ≤ i.toNat ∧ i.toNat < 16) → Runs (x i) fun _ g => g) ∧
   (∀ (i : BitVec 8) (q : Nat × Nat),
      (0x20 ≤ i.toNat ∧ i.toNat < 0x30 ∧ q = (0, i.toNat - 0x20)) ∨ (0x30 ≤ i.toNat ∧ i.toNat < 0x38 ∧ q = (1, i.toNat - 0x30)) ∨
        (0x38 ≤ i.toNat ∧ i.toNat < 0x3C ∧ q = (2, i.toNat - 0x38)) →
      TrapsIf (x i) (fun c s => (s.bar (s.grp c.gid).team q.1 q.2).arrived ≠ 0 ∨ someWaits s q (s.bar (s.grp c.gid).team q.1 q.2))
        (fun _ _ => flt 14 0) ∧
      TrapsIf (x i) (fun c s => (s.bar (s.grp c.gid).team q.1 q.2).arrived = 0 ∧
          ¬someWaits s q (s.bar (s.grp c.gid).team q.1 q.2) ∧ (((s.grp c.gid).sreg k.toNat).toNat % 2 ^ 14 = 0 ∨
            (s.bar (s.grp c.gid).team q.1 q.2).members.length < ((s.grp c.gid).sreg k.toNat).toNat % 2 ^ 14)) (fun _ _ => flt 1 4) ∧
      DoesIf (x i) (fun c s => (s.bar (s.grp c.gid).team q.1 q.2).arrived = 0 ∧
          ¬someWaits s q (s.bar (s.grp c.gid).team q.1 q.2) ∧
          (s.bar (s.grp c.gid).team q.1 q.2).gone = [] ∧ 0 < ((s.grp c.gid).sreg k.toNat).toNat % 2 ^ 14 ∧
          ((s.grp c.gid).sreg k.toNat).toNat % 2 ^ 14 ≤ (s.bar (s.grp c.gid).team q.1 q.2).members.length) fun c s t =>
        WentOn c s t ∧ t.bar (s.grp c.gid).team q.1 q.2 = { s.bar (s.grp c.gid).team q.1 q.2 with
          expect := ((s.grp c.gid).sreg k.toNat).toNat % 2 ^ 14, arrived := 0, arr := [] }))

/-- R112: SREAD reads the special value of its index into a register, or a 64-bit one into a pair. -/
def Obligations.SpecialValuesRead : Prop :=
  ∀ (r : Option (BitVec 13)) (k : SReg) (i : BitVec 8),
    DoesIf (both r (.sread k i) fun w => .sreadRadish w k i) (fun _ _ => specialIndex i.toNat k.toNat = true) fun c s t =>
      WentOn c s t ∧
      (if i.toNat < 0x10
        then (t.grp c.gid).sreg k.toNat = (if k = 0 then 0 else BitVec.ofNat 32 (specialValue s (s.grp c.gid) c.rad i.toNat)) ∧
          ∀ j, j ≠ k.toNat → (t.grp c.gid).sreg j = (s.grp c.gid).sreg j
        else (t.grp c.gid).sreg (k.toNat + 1) = BitVec.ofNat 32 (specialValue s (s.grp c.gid) c.rad i.toNat / 2 ^ 32) ∧
          (k ≠ 0 → (t.grp c.gid).sreg k.toNat = BitVec.ofNat 32 (specialValue s (s.grp c.gid) c.rad i.toNat)) ∧
          ∀ j, j ≠ k.toNat → j ≠ k.toNat + 1 → (t.grp c.gid).sreg j = (s.grp c.gid).sreg j) ∧
      (t.grp c.gid).v = (s.grp c.gid).v ∧ (t.grp c.gid).p = (s.grp c.gid).p ∧ SameSpecials (s.grp c.gid) (t.grp c.gid) ∧ t.mem = s.mem

/-- R66, R67: LIT holds its literal for the instruction after its literal words, which it makes the next to run as part of itself; or
it faults at its own address. -/
def Obligations.LiteralIsHeldForItsConsumer : Prop :=
  ∀ (wide : Bool) (v : BitVec 64),
    DoesIf (.lit wide v) (fun c s => ((s.grp c.gid).frag c.fid).lit = none ∧
        ∃ w, litWord wide c s = .ok w ∧ acceptsLit (s.grp c.gid).mode wide w = true)
      (fun c s t => t = s.setGrp c.gid ((s.grp c.gid).setFrag c.fid { (s.grp c.gid).frag c.fid with
        pc := litNext wide c, lit := some ⟨v, wide, c.pc⟩, wait := .run })) ∧
    TrapsIf (.lit wide v) (fun c s => ((s.grp c.gid).frag c.fid).lit ≠ none ∨
        ∃ w, litWord wide c s = .ok w ∧ acceptsLit (s.grp c.gid).mode wide w = false) (fun _ _ => flt 1 3) ∧
    (∀ (mode w : Word), acceptsLit mode true w = true →
      w.toNat / 2 ^ 24 ∈ [0x4D, 0x4F, 0x5A] ∧ w.toNat % 256 = 0) ∧
    (∀ (mode w : Word), acceptsLit mode false w = true → w.toNat / 2 ^ 24 ≠ 0xFF)

/-- R309 to R311, R313: what taking a fault of a group leaves: the registers of R310 with XPC, XEM and XMODE; at the launch's handler with
INH set, or suspended with a report to the resident OS. Registers, memory and other groups stay, and accesses held at parked lines are
dropped. XREC4 and XREC5 look the point up by the role in whose text the group passed it (log 58). -/
def Obligations.TakingAFaultWritesItsRecord : Prop :=
  ∀ (s : State) (gid fid : Nat) (e : FaultInfo) (m : Lanes),
    let g := s.grp gid
    let f := g.frag fid
    let t := takeFault s gid fid e m
    let h := t.grp gid
    let l := s.launchOf g
    let rad := s.radOf g
    let pc := e.pc.getD (match f.lit with | some x => x.pc | none => f.pc)
    e.cause + 256 * e.flag < 2 ^ 16 →
    faultRecord e pc g.lastEqp rad g.inh (s.otherAddr l g.eqpRole g.lastEqp rad) m h.xrec ∧
    h.xpc = pc ∧ h.xem = f.em ∧ h.xmode = g.mode ∧ h.s = g.s ∧ h.p = g.p ∧ h.flags = g.flags ∧ (g.sfu = [] → h.v = g.v) ∧
    t.mem = s.mem ∧ (∀ k, k ≠ gid → t.grp k = s.grp k) ∧ h.held = [] ∧ (∀ w, (h.frag fid).wait ≠ .locate w) ∧
    (∀ a, l.handler rad = some a → g.inh = false → handlerOk e.cause e.flag = true →
      h.inh = true ∧ h.mode = 0x20 ∧ (h.frag fid).pc = a ∧ (h.frag fid).em = f.em ∧ h.hctx = some (fid, f.stack, g.joins) ∧
      h.susp = g.susp) ∧
    ((l.handler rad = none ∨ g.inh = true ∨ handlerOk e.cause e.flag = false) →
      h.susp = some fid ∧ h.inh = g.inh ∧ h.mode = g.mode ∧ (h.frag fid).pc = f.pc ∧
      (s.repHead - s.repTail ≠ 255 → s.repHeld = [] →
        afind s.repHead.toNat t.repMem = some (reportOf s gid fid pc h.xrec) ∧ t.repHead = s.repHead + 1))

/-- R107, R274: LAUNCH puts the record at its address at the end of the queue that the record names, waits while that queue is full
or an acquire before it is outstanding (R147), or faults; with no lane in EM it does nothing (DEDUCED, log 7). -/
def Obligations.LaunchQueuesItsRecord : Prop :=
  ∀ (r : Option (BitVec 13)) (b : BitVec 3),
  let x := both r (.launchQueue b) fun w => .launchQueueRadish w b
  let addr := fun (c : Ctx) (s : State) => ((s.grp c.gid).sreg64 (2 * b.toNat)).toNat
  let read := fun (c : Ctx) (s : State) (rec : List Byte) =>
    c.em ≠ 0 ∧ addr c s % 256 = 0 ∧ recordWaits c s (addr c s) 256 = false ∧
      ∃ u, readRecord c s (addr c s) 256 = .ok (u, rec)
  let queueOf := fun (rec : List Byte) => field rec 65 1
  let allowed := fun (c : Ctx) (s : State) (rec : List Byte) =>
    (s.queue (queueOf rec)).en = true ∧ (s.queue (queueOf rec)).asid = s.asidOf (s.grp c.gid)
  let sound := fun (c : Ctx) (s : State) (rec : List Byte) =>
    recordCause (newLaunch s (s.asidOf (s.grp c.gid)) rec (some (queueOf rec)) (s.queue (queueOf rec)).cls) (s.queue (queueOf rec)).cls false = none
  RunsIf x (fun c _ => c.em = 0) (fun _ g => g) ∧
  TrapsIf x (fun c s => c.em ≠ 0 ∧ addr c s % 256 ≠ 0) (fun c s => fltL 5 0 (addr c s) true (leaderMask c)) ∧
  WaitsIf x (fun c s => c.em ≠ 0 ∧ addr c s % 256 = 0 ∧ recordWaits c s (addr c s) 256 = true) (fun _ _ => .acquire) ∧
  (∀ rec : List Byte,
    DoesIf x (fun c s => read c s rec ∧ ¬allowed c s rec)
      (fun c s t => (aget 0 0 (t.grp c.gid).xrec).toNat % 256 = 6 ∧ t.launches = s.launches) ∧
    DoesIf x (fun c s => read c s rec ∧ allowed c s rec ∧ ¬sound c s rec)
      (fun c s t => ∃ u, readRecord c s (addr c s) 256 = .ok (u, rec) ∧
        t = takeFault (noteRecord c u (addr c s) 256) c.gid c.fid (flt 1 4) c.act ∧ t.launches = s.launches) ∧
    WaitsIf x (fun c s => read c s rec ∧ allowed c s rec ∧ sound c s rec ∧ 64 ≤ (s.queue (queueOf rec)).pending.length) (fun c s => .queue (queueOf rec)) ∧
    DoesIf x (fun c s => read c s rec ∧ allowed c s rec ∧ sound c s rec ∧ (s.queue (queueOf rec)).pending.length < 64) (fun c s t =>
      WentOn c s t ∧ (t.queue (queueOf rec)).pending = (s.queue (queueOf rec)).pending ++ [s.nextLaunch] ∧
      t.nextLaunch = s.nextLaunch + 1 ∧ (t.launch s.nextLaunch).record = rec ∧ (t.launch s.nextLaunch).asid = s.asidOf (s.grp c.gid) ∧
      (t.launch s.nextLaunch).placed = 0 ∧ (∀ l, l ≠ s.nextLaunch → t.launch l = s.launch l) ∧
      SameRegs (s.grp c.gid) (t.grp c.gid) ∧ SameSpecials (s.grp c.gid) (t.grp c.gid) ∧ t.mem = s.mem))

/-! ### Memory -/

namespace Sys2Proof.Machine

/-- EA(l) of R143. -/
def eaOf (k : VReg) (b : BitVec 3) (c : Ctx) (s : State) (l : Nat) : Nat :=
  (((s.grp c.gid).sreg64 (2 * b.toNat)).toNat + (if k = 0xFF then 0 else (((s.grp c.gid).vl k.toNat l).signExtend 64).toNat) +
    c.imm.toNat) % 2 ^ 64
/-- o(l) of R143. -/
def offOf (k : VReg) (c : Ctx) (s : State) (l : Nat) : Nat :=
  ((if k = 0xFF then 0 else ((s.grp c.gid).vl k.toNat l).toNat) + c.imm.toNat) % 2 ^ 32
/-- The lanes that a store or atomic serves: those active, and after a locate fault's replay those it had not served (R110, R145). -/
def served (c : Ctx) : Lanes := match c.replay with | some m => c.act &&& m | none => c.act
/-- A lane's access passes the checks of R145: aligned to w, mapped with the permission, not write-protected. -/
def lanePasses (k : Acc) (w : Nat) (c : Ctx) (s : State) (l va : Nat) : Prop :=
  va % w = 0 ∧ ∃ key leaf level, translate s (s.asidOf (s.grp c.gid)) va k l = .ok key leaf level ∧
    (k = .write ∨ k = .atomic → sharedFault s (s.asidOf (s.grp c.gid)) va key (s.coreOf (s.grp c.gid)) = false)
/-- Every lane of a mask passes. -/
def lanesPass (k : Acc) (w : Nat) (m : Lanes) (addr : Nat → Nat) (c : Ctx) (s : State) : Prop :=
  ∀ l < 32, m.getLsbD l = true → lanePasses k w c s l (addr l)
/-- No line that the lanes reach is parked for a set that excludes the core (R154). -/
def noneParkedAway (k : Acc) (m : Lanes) (addr : Nat → Nat) (c : Ctx) (s : State) : Prop :=
  ∀ l < 32, m.getLsbD l = true → ∀ key leaf level, translate s (s.asidOf (s.grp c.gid)) (addr l) k l = .ok key leaf level →
    excluded s key (s.coreOf (s.grp c.gid)) (s.asidOf (s.grp c.gid)) = false
/-- No STN or REPARK of the group has yet to park a line that the lanes reach for a set that excludes the core: what follows one to the
line is sent after it (R145, R153, log 51). -/
def noneToPark (k : Acc) (m : Lanes) (addr : Nat → Nat) (c : Ctx) (s : State) : Prop :=
  ∀ op ∈ (s.grp c.gid).stores,
    (∀ d, op.kind = .stn d → inSet s d (s.coreOf (s.grp c.gid)) = false → ∀ l < 32, m.getLsbD l = true → ∀ key leaf level,
      translate s (s.asidOf (s.grp c.gid)) (addr l) k l = .ok key leaf level → key / 128 ∉ op.parked) ∧
    (∀ d lo n, op.kind = .range 2 d lo n → inSet s d (s.coreOf (s.grp c.gid)) = false → n ≠ 0 → ∀ l < 32, m.getLsbD l = true →
      addr l / 128 < lo / 128 ∨ (lo + n - 1) / 128 < addr l / 128)
/-- Lane accesses that are those of a list of lanes and addresses, each at the byte that its translation names. -/
def accessesAt (k : Acc) (xs : List (Nat × Nat)) (c : Ctx) (s : State) (as_ : List LaneAcc) : Prop :=
  as_.map (fun a => (a.lane, a.va)) = xs ∧
  ∀ a ∈ as_, ∃ leaf level, translate s (s.asidOf (s.grp c.gid)) a.va k a.lane = .ok a.pa leaf level
/-- The same for a list of lanes at their addresses. -/
def accessesAre (k : Acc) (ls : List Nat) (addr : Nat → Nat) (c : Ctx) (s : State) (as_ : List LaneAcc) : Prop :=
  accessesAt k (ls.map fun l => (l, addr l)) c s as_
/-- Those of a store's accesses whose frames the context may write: Shallot discards the others (R306). -/
def entering (c : Ctx) (s : State) (as_ : List LaneAcc) : List LaneAcc := as_.filter fun a => !s.foreign (s.asidOf (s.grp c.gid)) a.pa
/-- The lanes of a store that write: of those that name one address the highest (R149). -/
def writers (m : Lanes) (addr : Nat → Nat) : List Nat :=
  (lanesOf m).filter fun l => !((lanesOf m).any fun j => addr j == addr l && decide (l < j))
/-- What a memory instruction leaves as it was as it issues: every register, special register and byte of memory. -/
def KeptAtIssue (c : Ctx) (s t : State) : Prop :=
  SameRegs (s.grp c.gid) (t.grp c.gid) ∧ SameSpecials (s.grp c.gid) (t.grp c.gid) ∧ t.mem = s.mem ∧ t.teams = s.teams
/-- One operation more in the load queue, and no other queue changed. -/
def OneLoadMore (c : Ctx) (s t : State) (op : LoadOp) : Prop :=
  (t.grp c.gid).loads = (s.grp c.gid).loads ++ [op] ∧ op.frag = c.fid ∧ (t.grp c.gid).stores = (s.grp c.gid).stores ∧
  (t.grp c.gid).tiles = (s.grp c.gid).tiles
/-- One store more, and no other queue changed. -/
def OneStoreMore (c : Ctx) (s t : State) (op : StoreOp) : Prop :=
  (t.grp c.gid).stores = (s.grp c.gid).stores ++ [op] ∧ op.frag = c.fid ∧ (t.grp c.gid).loads = (s.grp c.gid).loads ∧
  (t.grp c.gid).tiles = (s.grp c.gid).tiles
/-- Exactly the n registers from d are newly pending. -/
def PendingAlso (file d n : Nat) (g h : Group) : Prop :=
  ∀ f r, h.isPend f r = true ↔ g.isPend f r = true ∨ (f = file ∧ d ≤ r ∧ r < d + n ∧ ¬(file = 1 ∧ r = 0))
/-- The write that a store's lane enters in W(x) as it issues (R149, R249). -/
def writeOf (c : Ctx) (s : State) (sc o w : Nat) (val : Nat → Nat) (a : LaneAcc) (x : WriteRec) : Prop :=
  x.node = a.node ∧ x.agent = laneAgent c.gid a.lane ∧ x.addr = a.pa ∧ x.bytes = natLe w (val a.lane) ∧ x.done = false ∧ x.acked = false ∧
  x.sc = sc ∧ x.strong = !(sc == 0 && o == 0)
/-- The misaligned lanes of a mask. -/
def misaligned (w : Nat) (m : Lanes) (addr : Nat → Nat) : List Nat := (lanesOf m).filter fun l => addr l % w != 0
/-- The lowest failing lane is misaligned. -/
def misalignedFirst (k : Acc) (w : Nat) (m : Lanes) (addr : Nat → Nat) (c : Ctx) (s : State) : Prop :=
  ∃ l, l < 32 ∧ m.getLsbD l = true ∧ addr l % w ≠ 0 ∧ ∀ j < l, m.getLsbD j = true → lanePasses k w c s j (addr j)
/-- The alignment fault of R145. -/
def alignFault (w : Nat) (m : Lanes) (addr : Nat → Nat) (va : Bool) : FaultInfo :=
  fltL 5 0 (addr ((misaligned w m addr).headD 0)) va (maskOf fun l => (misaligned w m addr).contains l)
/-- The lowest failing lane's translation fails, all lanes aligned. -/
def unmappedFirst (k : Acc) (w : Nat) (m : Lanes) (addr : Nat → Nat) (c : Ctx) (s : State) (l cause flag : Nat) : Prop :=
  l < 32 ∧ m.getLsbD l = true ∧ (∀ j < 32, m.getLsbD j = true → addr j % w = 0) ∧
  translate s (s.asidOf (s.grp c.gid)) (addr l) k l = .fault cause flag ∧ ∀ j < l, m.getLsbD j = true → lanePasses k w c s j (addr j)
/-- The lowest failing lane writes a page that is shared and write-protected for its die (R231, R297). -/
def sharedFirst (k : Acc) (w : Nat) (m : Lanes) (addr : Nat → Nat) (c : Ctx) (s : State) (l : Nat) : Prop :=
  l < 32 ∧ m.getLsbD l = true ∧ addr l % w = 0 ∧ (∃ key leaf level, translate s (s.asidOf (s.grp c.gid)) (addr l) k l = .ok key leaf level ∧
    sharedFault s (s.asidOf (s.grp c.gid)) (addr l) key (s.coreOf (s.grp c.gid)) = true) ∧
  ∀ j < l, m.getLsbD j = true → lanePasses k w c s j (addr j)
/-- Lanes of an access and the lines they reach. -/
def laneReaches (k : Acc) (m : Lanes) (addr : Nat → Nat) (c : Ctx) (s : State) (l key : Nat) : Prop :=
  l < 32 ∧ m.getLsbD l = true ∧ ∃ leaf level, translate s (s.asidOf (s.grp c.gid)) (addr l) k l = .ok key leaf level
/-- An access held at the parked lines that exclude its core, until they answer with the locate fault (R145, R154, R241): nothing of it has
performed, the fragment waits at it, and it names exactly the lanes that reach such a line, the lowest one's address first. -/
def HeldAtParked (k : Acc) (m : Lanes) (addr : Nat → Nat) (c : Ctx) (s t : State) : Prop :=
  AlsoWaits (.locate c.fid) c t ∧ KeptAtIssue c s t ∧ (t.grp c.gid).loads = (s.grp c.gid).loads ∧ (t.grp c.gid).stores = (s.grp c.gid).stores ∧
  ∃ h, afind c.fid (t.grp c.gid).held = some h ∧
    (∀ l < 32, h.excl.getLsbD l = true ↔ ∃ key, laneReaches k m addr c s l key ∧ excluded s key (s.coreOf (s.grp c.gid)) (s.asidOf (s.grp c.gid)) = true) ∧
    ∃ l < 32, h.excl.getLsbD l = true ∧ h.ea = addr l ∧ ∀ j < l, h.excl.getLsbD j = false
/-- Some line that the lanes reach is parked for a set that excludes the core, and nothing else stops the access. -/
def parkedAway (k : Acc) (w : Nat) (m : Lanes) (addr : Nat → Nat) (c : Ctx) (s : State) : Prop :=
  lanesPass k w m addr c s ∧ ¬noneParkedAway k m addr c s
/-- The bytes that a private access of lane l names: words of a lane stand 128 bytes apart (R221). -/
def privOf (k : VReg) (c : Ctx) (s : State) (l : Nat) : Nat :=
  (s.grp c.gid).pb.toNat + offOf k c s l / 4 * 128 + 4 * l + offOf k c s l % 4
/-- The lanes and addresses of a private access: a 64-bit value is two words, each at its own offset (R221). -/
def privsOf (k : VReg) (c : Ctx) (s : State) : List (Nat × Nat) :=
  (lanesOf c.act).flatMap fun l => if widthOf c.ty ≤ 4 then [(l, privOf k c s l)] else [(l, privOf k c s l), (l, privOf k c s l + 128)]
/-- Every offset of a mask is aligned and inside a limit. -/
def offsetsPass (w lim : Nat) (m : Lanes) (k : VReg) (c : Ctx) (s : State) : Prop :=
  ∀ l < 32, m.getLsbD l = true → offOf k c s l % w = 0 ∧ offOf k c s l < lim
/-- The lowest failing lane's offset is aligned and reaches past a limit. -/
def outsideFirst (w lim : Nat) (m : Lanes) (k : VReg) (c : Ctx) (s : State) : Prop :=
  ∃ l, l < 32 ∧ m.getLsbD l = true ∧ offOf k c s l % w = 0 ∧ lim ≤ offOf k c s l ∧
    ∀ j < l, m.getLsbD j = true → offOf k c s j % w = 0 ∧ offOf k c s j < lim
/-- The out-of-window fault (R144): the lowest such lane's offset, and every lane that is aligned and outside. -/
def outsideFault (w lim : Nat) (m : Lanes) (k : VReg) (c : Ctx) (s : State) : FaultInfo :=
  let out := (lanesOf m).filter fun l => offOf k c s l % w == 0 && decide (lim ≤ offOf k c s l)
  fltL 6 8 (offOf k c s (out.headD 0)) false (maskOf fun l => out.contains l)
/-- An initialised byte barrier holds a byte of the window (R176). -/
def heldByBarrier (x : Nat × Nat) (a : Nat) : Prop := x.1 ≤ a ∧ a < x.1 + 16
/-- The window of the group's team. -/
def winOf (c : Ctx) (s : State) : Team := s.team (s.grp c.gid).team
/-- The atomics that return, each with its operation (R155). -/
def returningAtomics (r : Option (BitVec 13)) (d k : VReg) (sc : BitVec 3) (o : BitVec 2) (b : BitVec 3) (off : RImm) (x : Instr × Nat) : Prop := x ∈
  [(both r (.atadd d k sc o b) fun w => .ataddRadish w d k sc o b off, 0), (both r (.atmin d k sc o b) fun w => .atminRadish w d k sc o b off, 1),
   (both r (.atmax d k sc o b) fun w => .atmaxRadish w d k sc o b off, 2), (both r (.atand d k sc o b) fun w => .atandRadish w d k sc o b off, 3),
   (both r (.ator d k sc o b) fun w => .atorRadish w d k sc o b off, 4), (both r (.atxor d k sc o b) fun w => .atxorRadish w d k sc o b off, 5),
   (both r (.atxch d k sc o b) fun w => .atxchRadish w d k sc o b off, 6), (both r (.atcas d k sc o b) fun w => .atcasRadish w d k sc o b off, 7)]
/-- The reductions, each with its operation. -/
def reductions (r : Option (BitVec 13)) (d k : VReg) (sc : BitVec 3) (o : BitVec 2) (b : BitVec 3) (off : RImm) (x : Instr × Nat) : Prop := x ∈
  [(both r (.redadd d k sc o b) fun w => .redaddRadish w d k sc o b off, 0), (both r (.redmin d k sc o b) fun w => .redminRadish w d k sc o b off, 1),
   (both r (.redmax d k sc o b) fun w => .redmaxRadish w d k sc o b off, 2)]
/-- Loads and stores of a global address: with the operation each leaves. -/
def globalLoads (r : Option (BitVec 13)) (d k : VReg) (sc : BitVec 3) (o : BitVec 2) (b : BitVec 3) (off : RImm) (x : Instr × Bool) : Prop := x ∈
  [(both r (.ldGlobal d k sc o b) fun w => .ldGlobalRadish w d k sc o b off, false), (both r (.ldx d k sc o b) fun w => .ldxRadish w d k sc o b off, true)]
/-- The range instructions, each with its operation. -/
def rangeOps (r : Option (BitVec 13)) (n : SReg) (b : BitVec 3) (off : RImm) (x : Instr × Nat) : Prop := x ∈
  [(both r (.rflush n b) fun w => .rflushRadish w n b off, 0), (both r (.rinv n b) fun w => .rinvRadish w n b off, 1),
   (both r (.repark n b) fun w => .reparkRadish w n b off, 2), (both r (.unpark n b) fun w => .unparkRadish w n b off, 3)]

end Sys2Proof.Machine

/-- R143 to R145, R149, R150, R155, R156: LD, LDX and the returning atomics, whose lanes all pass, enter the load queue with their
lanes' addresses and operands and make their destination pending; nothing else changes as they issue. That one which follows an STN or
REPARK of its own group that has yet to park its line waits for it is the model's choice (log 51). -/
def Obligations.LoadsAndAtomicsEnterTheLoadQueue : Prop :=
  ∀ (r : Option (BitVec 13)) (d k : VReg) (sc : BitVec 3) (o : BitVec 2) (b : BitVec 3) (off : RImm),
  (∀ x, globalLoads r d k sc o b off x →
    RunsIf x.1 (fun c _ => c.act = 0) (fun _ g => g) ∧
    WaitsIf x.1 (fun c s => c.act ≠ 0 ∧ 63 ≤ (s.grp c.gid).loads.length) (fun _ _ => .full 0) ∧
    WaitsIf x.1 (fun c s => c.act ≠ 0 ∧ (s.grp c.gid).loads.length < 63 ∧ lanesPass .read (widthOf c.ty) c.act (eaOf k b c s) c s ∧
        ¬noneToPark .read c.act (eaOf k b c s) c s) (fun _ _ => .stores) ∧
    DoesIf x.1 (fun c s => c.act ≠ 0 ∧ (s.grp c.gid).loads.length < 63 ∧ lanesPass .read (widthOf c.ty) c.act (eaOf k b c s) c s ∧
        noneParkedAway .read c.act (eaOf k b c s) c s ∧ noneToPark .read c.act (eaOf k b c s) c s) fun c s t =>
      ∃ op, WentOn c s t ∧ KeptAtIssue c s t ∧ OneLoadMore c s t op ∧ op.kind = .load x.2 ∧ op.ty = c.ty ∧ op.width = widthOf c.ty ∧
        op.sc = sc.toNat ∧ op.ord = o.toNat ∧ op.dst = some (0, d.toNat) ∧
        accessesAre .read (lanesOf c.act) (eaOf k b c s) c s op.accs ∧
        PendingAlso 0 d.toNat (if x.2 then 1 else regsOf c.ty) (s.grp c.gid) (t.grp c.gid)) ∧
  (∀ x, returningAtomics r d k sc o b off x →
    RunsIf x.1 (fun c _ => served c = 0) (fun _ g => g) ∧
    WaitsIf x.1 (fun c s => served c ≠ 0 ∧ 63 ≤ (s.grp c.gid).loads.length) (fun _ _ => .full 0) ∧
    WaitsIf x.1 (fun c s => served c ≠ 0 ∧ sc.toNat ≤ 3 ∧ (s.grp c.gid).loads.length < 63 ∧
        lanesPass .atomic (widthOf c.ty) (served c) (eaOf k b c s) c s ∧ ¬noneToPark .atomic (served c) (eaOf k b c s) c s) (fun _ _ => .stores) ∧
    DoesIf x.1 (fun c s => served c ≠ 0 ∧ (s.grp c.gid).loads.length < 63 ∧ lanesPass .atomic (widthOf c.ty) (served c) (eaOf k b c s) c s ∧
        (sc.toNat ≤ 3 → noneParkedAway .atomic (served c) (eaOf k b c s) c s ∧ noneToPark .atomic (served c) (eaOf k b c s) c s)) fun c s t =>
      ∃ op, WentOn c s t ∧ KeptAtIssue c s t ∧ OneLoadMore c s t op ∧ op.kind = .atomic x.2 ∧ op.ty = c.ty ∧ op.width = widthOf c.ty ∧
        op.sc = sc.toNat ∧ op.ord = o.toNat ∧ op.dst = some (0, d.toNat) ∧
        accessesAre .atomic (lanesOf (served c)) (eaOf k b c s) c s op.accs ∧
        (∀ l < 32, (served c).getLsbD l = true → (l, atOperands (s.grp c.gid) c.ty d.toNat l) ∈ op.opv) ∧
        PendingAlso 0 d.toNat (regsOf c.ty) (s.grp c.gid) (t.grp c.gid))

/-- R145, R144, R143, R154, R241: a global access whose lowest failing lane is misaligned takes the alignment fault, one whose lowest
failing lane is refused by translation the fault that translation gives, one that writes a shared page from another die the
write-protection fault, each at that lane's address; no lane performs. A load or store, and an atomic below device scope, that reaches a
line parked for a set without its core is held there for the locate fault (log 51). -/
def Obligations.FailingLanesStopTheWholeAccess : Prop :=
  ∀ (r : Option (BitVec 13)) (d k : VReg) (sc : BitVec 3) (o : BitVec 2) (b : BitVec 3) (off : RImm) (l cause flag : Nat),
  let stops := fun (x : Instr) (acc : Acc) (m : Ctx → Lanes) (room : Ctx → State → Prop) =>
    TrapsIf x (fun c s => room c s ∧ misalignedFirst acc (widthOf c.ty) (m c) (eaOf k b c s) c s)
      (fun c s => alignFault (widthOf c.ty) (m c) (eaOf k b c s) true) ∧
    DoesIf x (fun c s => room c s ∧ unmappedFirst acc (widthOf c.ty) (m c) (eaOf k b c s) c s l cause flag)
      (fun c s t => ∃ f, t = takeFault s c.gid c.fid (fltL cause flag (eaOf k b c s l) true f) c.act ∧ f.getLsbD l = true) ∧
    (acc ≠ .read → DoesIf x (fun c s => room c s ∧ sharedFirst acc (widthOf c.ty) (m c) (eaOf k b c s) c s l)
      (fun c s t => ∃ f, t = takeFault s c.gid c.fid (fltL 9 0 (eaOf k b c s l) true f) c.act ∧ f.getLsbD l = true))
  let loads := fun (c : Ctx) (s : State) => (s.grp c.gid).loads.length < 63
  let stores := fun (c : Ctx) (s : State) => (s.grp c.gid).stores.length < 63
  let stn := both r (.stn d k sc o b) fun w => .stnRadish w d k sc o b off
  (∀ x, globalLoads r d k sc o b off x →
    stops x.1 .read Ctx.act loads ∧
    DoesIf x.1 (fun c s => loads c s ∧ parkedAway .read (widthOf c.ty) c.act (eaOf k b c s) c s ∧ noneToPark .read c.act (eaOf k b c s) c s)
      (fun c s t => HeldAtParked .read c.act (eaOf k b c s) c s t)) ∧
  (∀ x, returningAtomics r d k sc o b off x →
    stops x.1 .atomic served loads ∧
    DoesIf x.1 (fun c s => sc.toNat ≤ 3 ∧ loads c s ∧ parkedAway .atomic (widthOf c.ty) (served c) (eaOf k b c s) c s ∧
        noneToPark .atomic (served c) (eaOf k b c s) c s)
      (fun c s t => HeldAtParked .atomic (served c) (eaOf k b c s) c s t)) ∧
  (∀ x ∈ [both r (.stGlobal d k sc o b) fun w => .stGlobalRadish w d k sc o b off, both r (.stx d k sc o b) fun w => .stxRadish w d k sc o b off],
    stops x .write served stores ∧
    DoesIf x (fun c s => stores c s ∧ parkedAway .write (widthOf c.ty) (served c) (eaOf k b c s) c s ∧
        noneToPark .write (served c) (eaOf k b c s) c s)
      (fun c s t => HeldAtParked .write (served c) (eaOf k b c s) c s t)) ∧
  stops stn .write served stores ∧
  (∀ x, reductions r d k sc o b off x → stops x.1 .atomic Ctx.act stores)

/-- R149, R150, R153, R155: ST, STX, STN and the reductions, whose lanes all pass, enter the store queue; a store's lanes enter their
writes, of one address the highest lane alone and none that Shallot discards (R306). No byte of memory changes as they issue; STX
raises its conversion's flags. An STN that acts as an ordinary store to a core of another context's raises PXC, which with the line's
place is settled as it issues (log 52). -/
def Obligations.StoresEnterTheStoreQueue : Prop :=
  ∀ (r : Option (BitVec 13)) (d k : VReg) (sc : BitVec 3) (o : BitVec 2) (b : BitVec 3) (off : RImm),
  let st := both r (.stGlobal d k sc o b) fun w => .stGlobalRadish w d k sc o b off
  let stx := both r (.stx d k sc o b) fun w => .stxRadish w d k sc o b off
  let stn := both r (.stn d k sc o b) fun w => .stnRadish w d k sc o b off
  (∀ x ∈ [st, stx, stn],
    RunsIf x (fun c _ => served c = 0) (fun _ g => g) ∧
    WaitsIf x (fun c s => served c ≠ 0 ∧ 63 ≤ (s.grp c.gid).stores.length) (fun _ _ => .full 1) ∧
    (x ≠ stn → WaitsIf x (fun c s => served c ≠ 0 ∧ (s.grp c.gid).stores.length < 63 ∧
      lanesPass .write (widthOf c.ty) (served c) (eaOf k b c s) c s ∧ ¬noneToPark .write (served c) (eaOf k b c s) c s) (fun _ _ => .stores))) ∧
  (∀ x ∈ [st, stx, stn],
    DoesIf x (fun c s => served c ≠ 0 ∧ (s.grp c.gid).stores.length < 63 ∧ lanesPass .write (widthOf c.ty) (served c) (eaOf k b c s) c s ∧
        (x ≠ stn → noneParkedAway .write (served c) (eaOf k b c s) c s ∧ noneToPark .write (served c) (eaOf k b c s) c s)) fun c s t =>
      ∃ op, WentOn c s t ∧ SameRegs (s.grp c.gid) (t.grp c.gid) ∧ (t.grp c.gid).mode = (s.grp c.gid).mode ∧ t.mem = s.mem ∧
        t.teams = s.teams ∧ OneStoreMore c s t op ∧ (t.grp c.gid).pend = (s.grp c.gid).pend ∧
        op.kind = (if x = stn then .stn (s.grp c.gid).rset else .store) ∧ op.ty = c.ty ∧ op.width = widthOf c.ty ∧
        op.sc = sc.toNat ∧ op.ord = o.toNat ∧ accessesAre .write (writers (served c) (eaOf k b c s)) (eaOf k b c s) c s op.accs ∧
        (∃ ws, t.ord.writes = ws ++ s.ord.writes ∧ ws.length = (entering c s op.accs).length ∧
          ∀ p ∈ (entering c s op.accs).zip ws.reverse, writeOf c s sc.toNat o.toNat (widthOf c.ty)
            (fun l => if x = stx then (stxMem c.ty c.mode ((s.grp c.gid).vl d.toNat l)).1 else (s.grp c.gid).rdT c.ty d.toNat l) p.1 p.2) ∧
        (x = st → (t.grp c.gid).flags = (s.grp c.gid).flags) ∧
        (x = stx → (t.grp c.gid).flags = (s.grp c.gid).flags ||| BitVec.ofNat 32
          ((lanesOf (served c)).foldl (fun n l => Nat.lor n (stxMem c.ty c.mode ((s.grp c.gid).vl d.toNat l)).2) 0)) ∧
        (x = stn → ∀ stays : Prop, (stays ↔ ∃ l key leaf level, l < 32 ∧ (served c).getLsbD l = true ∧
            translate s (s.asidOf (s.grp c.gid)) (eaOf k b c s l) .write l = .ok key leaf level ∧
            stnOrdinary s (s.asidOf (s.grp c.gid)) (s.team (s.grp c.gid).team).launch (s.grp c.gid).rset key (leafPark leaf) = true) →
          (stnPxc s (s.asidOf (s.grp c.gid)) (s.grp c.gid).rset = true ∧ stays → (t.grp c.gid).flags = (s.grp c.gid).flags ||| 0x100) ∧
          (¬(stnPxc s (s.asidOf (s.grp c.gid)) (s.grp c.gid).rset = true ∧ stays) → (t.grp c.gid).flags = (s.grp c.gid).flags))) ∧
  (∀ x, reductions r d k sc o b off x →
    RunsIf x.1 (fun c _ => c.act = 0) (fun _ g => g) ∧
    WaitsIf x.1 (fun c s => c.act ≠ 0 ∧ 63 ≤ (s.grp c.gid).stores.length) (fun _ _ => .full 1) ∧
    DoesIf x.1 (fun c s => c.act ≠ 0 ∧ (s.grp c.gid).stores.length < 63 ∧ lanesPass .atomic (widthOf c.ty) c.act (eaOf k b c s) c s) fun c s t =>
      ∃ op, WentOn c s t ∧ KeptAtIssue c s t ∧ OneStoreMore c s t op ∧ op.kind = .red x.2 ∧ op.ty = c.ty ∧ op.sc = sc.toNat ∧ op.ord = o.toNat ∧
        accessesAre .atomic (lanesOf c.act) (eaOf k b c s) c s op.accs ∧
        (∀ l < 32, c.act.getLsbD l = true → (l, atOperands (s.grp c.gid) c.ty d.toNat l) ∈ op.opv) ∧
        (t.grp c.gid).pend = (s.grp c.gid).pend)

/-- R151, R143, R219: LDS reads the window into its lanes at once, STS, once the group's earlier loads have returned (R252), writes it
at once, of one offset the highest lane's value, but for the words of a byte barrier, which may keep the device's most recent update
(R176); a lowest failing lane that is misaligned or outside the window faults. No byte of memory changes. -/
def Obligations.LocalStoreReadsAndWritesTheWindow : Prop :=
  ∀ (r : Option (BitVec 13)) (d k : VReg) (off : RImm),
  let lds := both r (.lds d k) fun w => .ldsRadish w d k off
  let sts := both r (.sts d k) fun w => .stsRadish w d k off
  let w := fun (c : Ctx) => widthOf c.ty
  (∀ x ∈ [lds, sts],
    TrapsIf x (fun c s => ∃ l, l < 32 ∧ c.act.getLsbD l = true ∧ offOf k c s l % w c ≠ 0 ∧
        ∀ j < l, c.act.getLsbD j = true → offOf k c s j % w c = 0 ∧ offOf k c s j < (winOf c s).winSize)
      (fun c s => alignFault (w c) c.act (offOf k c s) false) ∧
    TrapsIf x (fun c s => outsideFirst (w c) (winOf c s).winSize c.act k c s)
      (fun c s => outsideFault (w c) (winOf c s).winSize c.act k c s)) ∧
  DoesIf lds (fun c s => offsetsPass (w c) (winOf c s).winSize c.act k c s) (fun c s t =>
    WentOn c s t ∧ (t.grp c.gid).s = (s.grp c.gid).s ∧ (t.grp c.gid).p = (s.grp c.gid).p ∧ SameSpecials (s.grp c.gid) (t.grp c.gid) ∧
    t.mem = s.mem ∧ t.teams = s.teams ∧ (t.grp c.gid).loads = (s.grp c.gid).loads ∧
    (∀ q, ∀ l < 32, (q < d.toNat ∨ d.toNat + regsOf c.ty ≤ q) ∨ c.act.getLsbD l = false → (t.grp c.gid).vl q l = (s.grp c.gid).vl q l) ∧
    ∀ l < 32, c.act.getLsbD l = true →
      (∀ y ∈ s.ord.writes, ∀ i < w c, y.covers (lsKey (s.grp c.gid).team (offOf k c s l + i)) = false) →
      (t.grp c.gid).rdT c.ty d.toNat l = leNat (mread (winOf c s).win (offOf k c s l) (w c))) ∧
  WaitsIf sts (fun c s => c.act ≠ 0 ∧ offsetsPass (w c) (winOf c s).winSize c.act k c s ∧ (s.grp c.gid).loads ≠ [])
    (fun _ _ => .ctr 0 63 15 15) ∧
  DoesIf sts (fun c s => offsetsPass (w c) (winOf c s).winSize c.act k c s ∧ (s.grp c.gid).loads = []) (fun c s t =>
    WentOn c s t ∧ SameRegs (s.grp c.gid) (t.grp c.gid) ∧ SameSpecials (s.grp c.gid) (t.grp c.gid) ∧ t.mem = s.mem ∧
    (t.grp c.gid).stores = (s.grp c.gid).stores ∧
    (∀ l ∈ writers c.act (offOf k c s),
      ((∀ x ∈ (winOf c s).bbs, ∀ i < w c, ¬heldByBarrier x (offOf k c s l + i)) →
        leNat (mread (winOf c t).win (offOf k c s l) (w c)) = (s.grp c.gid).rdT c.ty d.toNat l) ∧
      ∀ i < w c, mget (winOf c t).win (offOf k c s l + i) = BitVec.ofNat 8 ((s.grp c.gid).rdT c.ty d.toNat l / 2 ^ (8 * i)) ∨
        ∃ x ∈ (winOf c s).bbs, heldByBarrier x (offOf k c s l + i) ∧
          mget (winOf c t).win (offOf k c s l + i) = BitVec.ofNat 8 (x.2 / 2 ^ (8 * (offOf k c s l + i - x.1)))) ∧
    (∀ a, (∀ l < 32, c.act.getLsbD l = true → a < offOf k c s l ∨ offOf k c s l + w c ≤ a) → mget (winOf c t).win a = mget (winOf c s).win a) ∧
    ∀ u, u ≠ (s.grp c.gid).team → t.team u = s.team u)

/-- R151, R221: LDP and STP enter their queues as accesses of the group's private region; a lowest failing lane that is
misaligned, or outside the private size, faults. -/
def Obligations.PrivateAccessesEnterTheirQueues : Prop :=
  ∀ (r : Option (BitVec 13)) (d k : VReg) (off : RImm),
  let ldp := both r (.ldp d k) fun w => .ldpRadish w d k off
  let stp := both r (.stp d k) fun w => .stpRadish w d k off
  let w := fun (c : Ctx) => widthOf c.ty
  let size := fun (c : Ctx) (s : State) => 4 * field (s.launchOf (s.grp c.gid)).record 74 2
  (∀ x ∈ [ldp, stp],
    RunsIf x (fun c _ => c.act = 0) (fun _ g => g) ∧
    TrapsIf x (fun c s => (s.grp c.gid).loads.length < 63 ∧ (s.grp c.gid).stores.length < 63 ∧
        ∃ l, l < 32 ∧ c.act.getLsbD l = true ∧ offOf k c s l % w c ≠ 0 ∧
          ∀ j < l, c.act.getLsbD j = true → offOf k c s j % w c = 0 ∧ offOf k c s j < size c s)
      (fun c s => alignFault (w c) c.act (offOf k c s) false) ∧
    TrapsIf x (fun c s => (s.grp c.gid).loads.length < 63 ∧ (s.grp c.gid).stores.length < 63 ∧ outsideFirst (w c) (size c s) c.act k c s)
      (fun c s => outsideFault (w c) (size c s) c.act k c s)) ∧
  WaitsIf ldp (fun c s => c.act ≠ 0 ∧ 63 ≤ (s.grp c.gid).loads.length) (fun _ _ => .full 0) ∧
  WaitsIf stp (fun c s => c.act ≠ 0 ∧ 63 ≤ (s.grp c.gid).stores.length) (fun _ _ => .full 1) ∧
  DoesIf ldp (fun c s => c.act ≠ 0 ∧ (s.grp c.gid).loads.length < 63 ∧ offsetsPass (w c) (size c s) c.act k c s ∧
      ∀ p ∈ privsOf k c s, lanePasses .read 1 c s p.1 p.2) (fun c s t =>
    ∃ op, WentOn c s t ∧ KeptAtIssue c s t ∧ OneLoadMore c s t op ∧ op.kind = .load false ∧ op.ty = c.ty ∧ op.dst = some (0, d.toNat) ∧
      op.width = min 4 (w c) ∧ accessesAt .read (privsOf k c s) c s op.accs ∧ PendingAlso 0 d.toNat (regsOf c.ty) (s.grp c.gid) (t.grp c.gid)) ∧
  DoesIf stp (fun c s => c.act ≠ 0 ∧ (s.grp c.gid).stores.length < 63 ∧ offsetsPass (w c) (size c s) c.act k c s ∧
      ∀ p ∈ privsOf k c s, lanePasses .write 1 c s p.1 p.2) (fun c s t =>
    ∃ op, WentOn c s t ∧ KeptAtIssue c s t ∧ OneStoreMore c s t op ∧ op.kind = .store ∧ op.ty = c.ty ∧
      accessesAt .write (privsOf k c s) c s op.accs ∧
      ∃ ws, t.ord.writes = ws ++ s.ord.writes ∧ ws.length = (entering c s op.accs).length ∧
        ∀ p ∈ (entering c s op.accs).zip ws.reverse,
          p.2.node = p.1.node ∧ p.2.agent = laneAgent c.gid p.1.lane ∧ p.2.addr = p.1.pa ∧ p.2.priv = true ∧ p.2.strong = false ∧
          p.2.done = false ∧ p.2.bytes = natLe (min (w c) 4)
            ((s.grp c.gid).rdT c.ty d.toNat p.1.lane / if p.1.va = privOf k c s p.1.lane then 1 else 2 ^ 32))

/-- R157, R158, R147, R152, R159 to R161: FENCE and OFENCE order, SRSET sets RSET, the range instructions, PFETCH and LOCATE enter their
queues; none changes another register or memory as it issues. That a range instruction, PFETCH or LOCATE with no lane in EM does nothing
(log 7), and that a range past 2^57 has flag 0 and its start in XREC6 (logs 48, 110), are the model's choices. -/
def Obligations.FencesRangesAndReaderSets : Prop :=
  ∀ (r : Option (BitVec 13)) (k : VReg) (n : SReg) (sc : BitVec 3) (o : BitVec 2) (b : BitVec 3) (off : RImm),
  let kept := fun (c : Ctx) (s t : State) => KeptAtIssue c s t ∧ (t.grp c.gid).stores = (s.grp c.gid).stores ∧
    (t.grp c.gid).pend = (s.grp c.gid).pend ∧ (t.grp c.gid).loads.length = (s.grp c.gid).loads.length
  (∀ seq : Bool,
    let x := both r (.fence sc o seq) fun w => .fenceRadish w sc o seq
    RunsIf x (fun _ _ => o = 0) (fun _ g => g) ∧
    WaitsIf x (fun c s => o ≠ 0 ∧ seq = true ∧ ((s.grp c.gid).loads ≠ [] ∨ (s.grp c.gid).stores ≠ [])) (fun _ _ => .release) ∧
    DoesIf x (fun c s => o ≠ 0 ∧ (seq = true → (s.grp c.gid).loads = [] ∧ (s.grp c.gid).stores = [])) fun c s t =>
      WentOn c s t ∧ kept c s t ∧
      (t.grp c.gid).relSeq = (if o = 2 ∨ o = 3 then (s.grp c.gid).seq else (s.grp c.gid).relSeq)) ∧
  (let x := both r (.ofence sc o b) fun w => .ofenceRadish w sc o b
   RunsIf x (fun _ _ => o = 0) (fun _ g => g) ∧
   DoesIf x (fun _ _ => o ≠ 0) fun c s t => WentOn c s t ∧ kept c s t) ∧
  (let x := both r (.srset n) fun w => .srsetRadish w n
   DoesIf x (fun c s => descOk s (s.team (s.grp c.gid).team).launch ((s.grp c.gid).sreg n.toNat) = true) (fun c s t => WentOn c s t ∧
     (t.grp c.gid).rset = (s.grp c.gid).sreg n.toNat ∧ SameRegs (s.grp c.gid) (t.grp c.gid) ∧ (t.grp c.gid).flags = (s.grp c.gid).flags ∧
     (t.grp c.gid).mode = (s.grp c.gid).mode ∧ t.mem = s.mem) ∧
   TrapsIf x (fun c s => descOk s (s.team (s.grp c.gid).team).launch ((s.grp c.gid).sreg n.toNat) = false) (fun _ _ => flt 1 4)) ∧
  (∀ (s : State) (l : Nat) (d : Word), (descOk s l d = true → d.toNat / 2 ^ 29 ≤ 4) ∧
    (d.toNat / 2 ^ 29 = 0 → descOk s l d = decide (d = 0)) ∧
    (d.toNat / 2 ^ 29 = 1 → descOk s l d = decide (d.toNat % 2 ^ 29 < 256)) ∧
    (d.toNat / 2 ^ 29 = 3 → descOk s l d = decide (d.toNat / 2 ^ 25 % 16 = 0)) ∧
    (d.toNat / 2 ^ 29 = 4 → descOk s l d = decide (0 < d.toNat % 2 ^ 29 ∧ d.toNat % 2 ^ 29 < 16))) ∧
  (∀ x, rangeOps r n b off x →
    let addr := fun (c : Ctx) (s : State) => (((s.grp c.gid).sreg64 (2 * b.toNat)).toNat + c.imm.toNat) % 2 ^ 64
    let len := fun (c : Ctx) (s : State) => ((s.grp c.gid).sreg n.toNat).toNat
    RunsIf x.1 (fun c _ => c.em = 0) (fun _ g => g) ∧
    WaitsIf x.1 (fun c s => c.em ≠ 0 ∧ 63 ≤ (s.grp c.gid).stores.length) (fun _ _ => .full 1) ∧
    DoesIf x.1 (fun c s => (s.grp c.gid).stores.length < 63 ∧ len c s = 0) (fun c s t => WentOn c s t ∧ kept c s t) ∧
    TrapsIf x.1 (fun c s => c.em ≠ 0 ∧ (s.grp c.gid).stores.length < 63 ∧ len c s ≠ 0 ∧ 2 ^ 57 < addr c s + len c s) (fun c s => fltA 6 0 (addr c s)) ∧
    DoesIf x.1 (fun c s => (s.grp c.gid).stores.length < 63 ∧ len c s ≠ 0 ∧ addr c s + len c s ≤ 2 ^ 57 ∧ c.em ≠ 0) fun c s t =>
      ∃ op, WentOn c s t ∧ KeptAtIssue c s t ∧ OneStoreMore c s t op ∧ op.kind = .range x.2 (s.grp c.gid).rset (addr c s) (len c s) ∧
        (t.grp c.gid).pend = (s.grp c.gid).pend) ∧
  (∀ x ∈ [both r (.pfetch k b) fun w => .pfetchRadish w k b off, both r (.locate k b) fun w => .locateRadish w k b off],
    RunsIf x (fun c _ => c.em = 0) (fun _ g => g) ∧
    WaitsIf x (fun c s => c.em ≠ 0 ∧ 63 ≤ (s.grp c.gid).loads.length) (fun _ _ => .full 0)) ∧
  (let x := both r (.pfetch k b) fun w => .pfetchRadish w k b off
   DoesIf x (fun c s => c.em ≠ 0 ∧ (s.grp c.gid).loads.length < 63) fun c s t =>
     ∃ op, WentOn c s t ∧ KeptAtIssue c s t ∧ OneLoadMore c s t op ∧ op.kind = .pfetch ∧ op.dst = none ∧ (t.grp c.gid).pend = (s.grp c.gid).pend) ∧
  (let x := both r (.locate k b) fun w => .locateRadish w k b off
   DoesIf x (fun c s => c.em ≠ 0 ∧ (s.grp c.gid).loads.length < 63 ∧ lanesPass .read 1 c.em (eaOf k b c s) c s) fun c s t =>
     ∃ op, WentOn c s t ∧ KeptAtIssue c s t ∧ OneLoadMore c s t op ∧ op.kind = .locate ∧ op.dst = none ∧
       accessesAre .read (lanesOf c.em) (eaOf k b c s) c s op.accs ∧ (t.grp c.gid).pend = (s.grp c.gid).pend)

/-- R163 to R166: OBJDEF and OBJDEL hand a request to the object table and wait for its answer, or fault, OBJDEF once the acquires
before it have returned (R147); the tile and heap
instructions enter the tile queue. That with no lane in EM they do nothing (log 7), the hold until the answer (log 55), the reading of the
record (log 56), the flag and address of the fault for state 4 (log 110), and the order of checks (log 48) are the model's choices. -/
def Obligations.ObjectsTilesAndHeapAreRequested : Prop :=
  ∀ (r : Option (BitVec 13)) (n : SReg) (b : BitVec 3) (off : RImm),
  let waitsFor := fun (c : Ctx) (s t : State) (op : ObjOp) =>
    AlsoWaits .object c t ∧ (t.grp c.gid).obj = some op ∧ KeptAtIssue c s t ∧ t.objs = s.objs
  (let x := both r (.objdef n b) fun w => .objdefRadish w n b
   let addr := fun (c : Ctx) (s : State) => ((s.grp c.gid).sreg64 (2 * b.toNat)).toNat
   RunsIf x (fun c _ => c.em = 0) (fun _ g => g) ∧
   WaitsIf x (fun c s => c.em ≠ 0 ∧ (s.grp c.gid).obj.isSome = true) (fun _ _ => .object) ∧
   let read := fun (c : Ctx) (s : State) (rec : List Byte) =>
     c.em ≠ 0 ∧ (s.grp c.gid).obj = none ∧ recordWaits c s (addr c s) 128 = false ∧ ∃ u, readRecord c s (addr c s) 128 = .ok (u, rec)
   WaitsIf x (fun c s => c.em ≠ 0 ∧ (s.grp c.gid).obj = none ∧ recordWaits c s (addr c s) 128 = true) (fun _ _ => .acquire) ∧
   ∀ rec : List Byte,
     DoesIf x (fun c s => read c s rec ∧ field rec 10 1 = 4)
       (fun c s t => ∃ u, readRecord c s (addr c s) 128 = .ok (u, rec) ∧ t.objs = s.objs ∧
         t = takeFault (noteRecord c u (addr c s) 128) c.gid c.fid (fltA 6 2 (addr c s)) c.act) ∧
     DoesIf x (fun c s => read c s rec ∧ field rec 10 1 ≠ 4 ∧ shapeOk rec = false)
       (fun c s t => ∃ u, readRecord c s (addr c s) 128 = .ok (u, rec) ∧ t.objs = s.objs ∧
         t = takeFault (noteRecord c u (addr c s) 128) c.gid c.fid (flt 1 4) c.act) ∧
     DoesIf x (fun c s => read c s rec ∧ field rec 10 1 ≠ 4 ∧ shapeOk rec = true) fun c s t =>
       waitsFor c s t ⟨c.fid, false, n.toNat, 0, field rec 0 8, footOf rec, field rec 10 1, rec⟩) ∧
  (let x := both r (.objdel n) fun w => .objdelRadish w n
   let num := fun (c : Ctx) (s : State) => ((s.grp c.gid).sreg n.toNat).toNat
   RunsIf x (fun c _ => c.em = 0) (fun _ g => g) ∧
   WaitsIf x (fun c s => c.em ≠ 0 ∧ (s.grp c.gid).obj.isSome = true) (fun _ _ => .object) ∧
   TrapsIf x (fun c s => c.em ≠ 0 ∧ (s.grp c.gid).obj = none ∧
     ∀ o, afind (num c s) s.objs = some o → o.asid ≠ s.asidOf (s.grp c.gid)) (fun _ _ => flt 1 4) ∧
   ∀ o : Obj, DoesIf x (fun c s => c.em ≠ 0 ∧ (s.grp c.gid).obj = none ∧ afind (num c s) s.objs = some o ∧ o.asid = s.asidOf (s.grp c.gid))
     fun c s t => waitsFor c s t ⟨c.fid, true, 0, num c s, o.base, o.foot, o.state, o.shape⟩) ∧
  (let tile := fun (op : Nat) (va cnt : Nat) (dst : Option Nat) (c : Ctx) (s t : State) =>
     WentOn c s t ∧ KeptAtIssue c s t ∧ (t.grp c.gid).loads = (s.grp c.gid).loads ∧ (t.grp c.gid).stores = (s.grp c.gid).stores ∧
     ∃ q, (t.grp c.gid).tiles = (s.grp c.gid).tiles ++ [q] ∧ q.op = op ∧ q.va = va ∧ q.n = cnt ∧ q.dst = dst
   let addr := fun (c : Ctx) (s : State) => (((s.grp c.gid).sreg64 (2 * b.toNat)).toNat + c.imm.toNat) % 2 ^ 64
   let cnt := fun (c : Ctx) (s : State) => ((s.grp c.gid).sreg n.toNat).toNat
   let free := fun (c : Ctx) (s : State) => c.em ≠ 0 ∧ (s.grp c.gid).tiles.length < 15
   let all := [(both r (.pcommit n b) fun w => .pcommitRadish w n b off, 0xC0), (both r (.pdecommit n b) fun w => .pdecommitRadish w n b off, 0xC1),
     (both r (.pquery n b) fun w => .pqueryRadish w n b off, 0xC4)]
   let heap := [both r (.allocBlock n) fun w => .allocBlockRadish w n, both r (.freeBlock n) fun w => .freeBlockRadish w n]
   (∀ i, i ∈ all.map (·.1) ∨ i ∈ heap →
     RunsIf i (fun c _ => c.em = 0) (fun _ g => g) ∧ WaitsIf i (fun c s => c.em ≠ 0 ∧ 15 ≤ (s.grp c.gid).tiles.length) (fun _ _ => .full 2)) ∧
   (∀ x ∈ all,
     TrapsIf x.1 (fun c s => free c s ∧ addr c s % 65536 ≠ 0) (fun c s => fltA 5 0 (addr c s)) ∧
     TrapsIf x.1 (fun c s => free c s ∧ addr c s % 65536 = 0 ∧ 2 ^ 57 ≤ addr c s) (fun c s => fltA 6 0 (addr c s)) ∧
     TrapsIf x.1 (fun c s => free c s ∧ addr c s % 65536 = 0 ∧ addr c s < 2 ^ 57 ∧ x.2 ≠ 0xC4 ∧
       subTable s (s.asidOf (s.grp c.gid)) (addr c s) = none) (fun c s => fltA 6 7 (addr c s)) ∧
     DoesIf x.1 (fun c s => free c s ∧ addr c s % 65536 = 0 ∧ addr c s < 2 ^ 57 ∧
         (x.2 ≠ 0xC4 → (subTable s (s.asidOf (s.grp c.gid)) (addr c s)).isSome = true ∧ cnt c s ≤ 65535)) fun c s t =>
       tile x.2 (addr c s) (cnt c s) (if x.2 = 0xC4 then some n.toNat else none) c s t ∧
       PendingAlso 1 n.toNat (if x.2 = 0xC4 then 1 else 0) (s.grp c.gid) (t.grp c.gid)) ∧
   TrapsIf (both r (.allocBlock n) fun w => .allocBlockRadish w n) (fun c s => free c s ∧ (cnt c s = 0 ∨ 65536 < cnt c s)) (fun _ _ => flt 1 4) ∧
   DoesIf (both r (.allocBlock n) fun w => .allocBlockRadish w n) (fun c s => free c s ∧ 0 < cnt c s ∧ cnt c s ≤ 65536) (fun c s t =>
     tile 0xC2 0 (cnt c s) (some n.toNat) c s t ∧ PendingAlso 1 n.toNat 2 (s.grp c.gid) (t.grp c.gid)) ∧
   DoesIf (both r (.freeBlock n) fun w => .freeBlockRadish w n) (fun c s => free c s) (fun c s t =>
     tile 0xC3 ((s.grp c.gid).sreg64 n.toNat).toNat 0 none c s t ∧ PendingAlso 1 n.toNat 0 (s.grp c.gid) (t.grp c.gid)))

/-! ### Asynchronous engines and the matrix stream -/

namespace Sys2Proof.Machine

/-- A scalar register of the group, as a number. -/
def sIn (k : SReg) (c : Ctx) (s : State) : Nat := ((s.grp c.gid).sreg k.toNat).toNat
/-- The group's team. -/
def teamIn (c : Ctx) (s : State) : Nat := (s.grp c.gid).team
/-- An object of n bytes at an offset is aligned and lies in the window (R168). -/
def objectFits (off n al : Nat) (c : Ctx) (s : State) : Prop := off % al = 0 ∧ off + n ≤ (winOf c s).winSize
/-- So does one whose words are read, and none of them is poisoned (R168, R318). -/
def objectPasses (off n al : Nat) (c : Ctx) (s : State) : Prop := objectFits off n al c s ∧ winPois (winOf c s) off n = false
/-- An instruction of the engine that acts: some lane is in EM (R168). -/
def acts (c : Ctx) : Prop := c.em ≠ 0
/-- The faults of R168 for an object that an instruction comes to: its alignment, then the window, then the poison of a word of it
(R318). -/
def ObjectChecked (i : Instr) (comes : Ctx → Prop) (off : Ctx → State → Nat) (n al : Nat) : Prop :=
  TrapsIf i (fun c s => acts c ∧ comes c ∧ off c s % al ≠ 0) (fun c s => fltL 5 0 (off c s) false (leaderMask c)) ∧
  TrapsIf i (fun c s => acts c ∧ comes c ∧ off c s % al = 0 ∧ (winOf c s).winSize < off c s + n)
    (fun c s => fltL 6 8 (off c s) false (leaderMask c)) ∧
  TrapsIf i (fun c s => acts c ∧ comes c ∧ objectFits (off c s) n al c s ∧ winPois (winOf c s) (off c s) n = true) (fun _ _ => flt 15 1)
/-- RCLOSE has not served the instruction already (R180). -/
def unserved (c : Ctx) : Prop := c.wait ≠ .closed
/-- A release waits until the group's loads have returned and its stores are acknowledged (R147). -/
def quietIn (c : Ctx) (s : State) : Prop := (s.grp c.gid).loads = [] ∧ (s.grp c.gid).stores = []
/-- Memory, other teams and the registers that an instruction of the engine leaves as they were. -/
def EngineKept (c : Ctx) (s t : State) : Prop :=
  t.mem = s.mem ∧ SameRegs (s.grp c.gid) (t.grp c.gid) ∧ SameSpecials (s.grp c.gid) (t.grp c.gid) ∧
  ∀ u, u ≠ teamIn c s → t.team u = s.team u
/-- Every byte of the team's window outside n bytes at an offset is as it was. -/
def WindowKept (off n : Nat) (c : Ctx) (s t : State) : Prop :=
  ∀ a, a < off ∨ off + n ≤ a → mget (t.team (teamIn c s)).win a = mget (winOf c s).win a
/-- The copy engine of the core has room for a copy. -/
def engineRoom (c : Ctx) (s : State) : Prop := (s.copies.filter fun x => x.2.core == (winOf c s).core && !x.2.ended).length < 256
/-- A copy handed to the engine: it is in the open batch, its status register is pending. -/
def CopyStarted (d : SReg) (cp : Copy) (c : Ctx) (s t : State) : Prop :=
  WentOn c s t ∧ EngineKept c s t ∧ afind s.nextUnit t.copies = some cp ∧ (∀ k, k ≠ s.nextUnit → afind k t.copies = afind k s.copies) ∧
  cp.gid = c.gid ∧ cp.dst = d.toNat ∧ cp.batch = none ∧ cp.done = 0 ∧ cp.ended = false ∧ (t.grp c.gid).opn = true ∧
  PendingAlso 1 d.toNat 1 (s.grp c.gid) (t.grp c.gid) ∧ (t.grp c.gid).cb = (s.grp c.gid).cb ∧ t.teams = s.teams
/-- A command block of a copy of rank n at register a is readable (R168, R170). -/
def blockReady (a n : Nat) (c : Ctx) (s : State) : Prop :=
  a ≠ 0 ∧ a + 2 + n ≤ 63 ∧ ∀ k, a + 3 ≤ k → k < a + 3 + n → (s.grp c.gid).isPend 1 k = false ∧ k ∉ (s.grp c.gid).spois
/-- Register a + i of the command block. -/
def blockWord (a i : Nat) (c : Ctx) (s : State) : Nat := ((s.grp c.gid).sreg (a + i)).toNat
/-- What a barrier that an instruction has changed holds, once its waiters have gone where the generation is over (R177). -/
def settledBB (b : BB) : BB := if b.over then { b with waiters := 0 } else b
/-- The barrier of the team at an offset. -/
def bbAt (off : Nat) (c : Ctx) (s : State) : BB := s.bb (teamIn c s) off
/-- The ring of the team at an offset. -/
def ringAt (off : Nat) (c : Ctx) (s : State) : Ring := s.ring (teamIn c s) off
/-- A ring's descriptor passes (R180). -/
def ringPasses (off : Nat) (c : Ctx) (s : State) : Prop :=
  objectPasses off 32 32 c s ∧ (ringAt off c s).ok (winOf c s).winSize = true
/-- A ring whose slots do not lie over its descriptor. -/
def ringApart (off : Nat) (r : Ring) : Prop := off + 32 ≤ r.base ∨ r.base + r.slots * r.sbytes ≤ off
/-- The word of slot j that holds its STATE is not poisoned (R318). -/
def slotClean (off j : Nat) (c : Ctx) (s : State) : Prop := winPois (winOf c s) ((ringAt off c s).slot j + 4) 4 = false
/-- STATE of slot j. -/
def slotAt (off j : Nat) (c : Ctx) (s : State) : Nat := s.slotState (teamIn c s) (ringAt off c s) j
/-- The order in which a group's fragment waits at a ring: as it came, or as the newest. -/
def ringOrder (c : Ctx) (s : State) : Nat := match c.wait with | .ring _ _ n => n | _ => s.nextUnit
/-- The stream's word of m register k is not poisoned. -/
def mClean (tid : Nat) (s : State) (m : BitVec 4) : Prop := m.toNat ∉ (s.str tid).mpois
/-- The value of m register k. -/
def mIn (tid : Nat) (s : State) (m : BitVec 4) : Nat := (aget 0 m.toNat (s.str tid).m).toNat
/-- A range of the window that a stream's access may use (R185, R188). -/
def rangePasses (tid off n al : Nat) (s : State) : Prop :=
  off % al = 0 ∧ off + n ≤ (s.team tid).winSize ∧ winPois (s.team tid) off n = false
/-- No write of the ordering state bears on n bytes at an offset of the window: what stands there is what a read finds. -/
def windowSettled (tid off n : Nat) (s : State) : Prop :=
  ∀ w ∈ s.ord.writes, ¬(w.addr < lsKey tid off + n ∧ lsKey tid off < w.addr + w.bytes.length)
/-- The stream went on, and all of it but what is named is as it was: its m registers, rings and allotment. -/
def StreamKept (x y : Stream) : Prop :=
  y.pc = x.pc + 4 ∧ y.wait = .run ∧ y.m = x.m ∧ y.taken = x.taken ∧ y.live = x.live ∧ y.tiles = x.tiles
/-- Element e of tile z. -/
def zAt (x : Stream) (z e : Nat) : Word := aget 0 e (x.tile z).el
/-- A tile is closed and holds no poison. -/
def tileClosed (x : Stream) (z : Nat) : Prop := (x.tile z).opened = false ∧ ∀ p ∈ x.zpois, p.1 ≠ z
/-- A stream that takes a fault instead of an instruction's effect. -/
def StreamFaultsIf (i : Instr) (P : Nat → State → Prop) (f : Nat → State → FaultInfo) : Prop :=
  ∀ s tid, s.cur = some (.stream tid) → P tid s → exec i s = .next (takeStreamFault s tid (f tid s))
/-- MSTAT keeps its bits; bit 0 is set as well where a condition holds (R192, R197). -/
def mstatAlso (x y : Stream) (c : Prop) : Prop := ∀ i < 32, y.mstat.getLsbD i = true ↔ x.mstat.getLsbD i = true ∨ (i = 0 ∧ c)
/-- The faults of a stream's access to n bytes of the window at an offset: its alignment, then the window (R188, R190, R196). -/
def RangeChecked (i : Instr) (comes : Nat → State → Prop) (off n : Nat → State → Nat) : Prop :=
  StreamFaultsIf i (fun tid s => comes tid s ∧ off tid s % 64 ≠ 0) (fun tid s => fltV 5 0 (off tid s)) ∧
  StreamFaultsIf i (fun tid s => comes tid s ∧ off tid s % 64 = 0 ∧ (s.team tid).winSize < off tid s + n tid s) (fun tid s => fltV 6 8 (off tid s))
/-- The exact value of an element under the scale e of ZCVT operation 1 is not what it becomes (R197). -/
def cvtMoved (e : Nat) (w : Word) : Prop := (zcvtI e w).2 = 1
/-- A stream that waits. -/
def StreamWaitsIf (i : Instr) (P : Nat → State → Prop) (w : Nat → State → Wait) : Prop :=
  ∀ s tid, s.cur = some (.stream tid) → P tid s → exec i s = .next (s.setStr tid { s.str tid with wait := w tid s })
/-- The four products with their opcodes (R189). -/
def products (z : BitVec 8) (reuse : Bool) (x : BitVec 3) (m : BitVec 4) (p : Instr × Nat) : Prop := p ∈
  [(.mma64x64x64 z reuse x m, 0xE0), (.mma64x128x64 z reuse x m, 0xE1), (.mma128x128x64 z reuse x m, 0xE2), (.mma128x64x128 z reuse x m, 0xE3)]
/-- Row i of A at k, from the x tiles; B at k for column n, from window bytes (R189, R190). -/
def aElem (x : Stream) (sh : Shape) (a i k : Nat) : Int :=
  elemAt (fbA x.fb) (fun q => x.xbyte (a + q / 8192) (q % 8192)) (i * (effK sh x.fb * elBits (fbA x.fb) / 8)) k
def bElem (x : Stream) (sh : Shape) (rd : Nat → Nat) (n k : Nat) : Int :=
  elemAt (fbB x.fb) rd (n * (64 * bRows sh x.fb)) k
/-- A tile of the c differs from what FB or the first of them says (R192). -/
def blockChanged (x : Stream) (c z : Nat) : Prop :=
  ∃ i < c, ((x.tile (z + i)).opened = true ∧
      (x.tile (z + i)).par ≠ [x.fb.toNat % 16, x.fb.toNat / 16 % 16, x.fb.toNat / 256 % 8, x.fb.toNat / 2048 % 2]) ∨
    (x.tile (z + i)).opened ≠ (x.tile z).opened ∨ (x.tile (z + i)).pos ≠ (x.tile z).pos
/-- Block length in elements (R187). -/
def blockLen (fb : Word) : Nat := 32 * 2 ^ (fb.toNat / 256 % 8)
/-- What R192 lists for a product of a shape, in its order. -/
def MmaChecked (sh : Shape) : Prop :=
  ∀ (x : Stream) (z : Nat),
    let pos := (x.tile z).pos
    let nb := (pos + effK sh x.fb) / blockLen x.fb
    let tag := x.fb.extractLsb' 16 16
    (blockChanged x sh.c z → mmaCheck x sh z = .fault (flt 10 3)) ∧
    (¬blockChanged x sh.c z → nb = 0 → mmaCheck x sh z = .go pos 0) ∧
    (¬blockChanged x sh.c z → nb ≠ 0 → x.sa = [] ∨ x.sb = [] → mmaCheck x sh z = .wait) ∧
    ∀ a as_ b bs, ¬blockChanged x sh.c z → nb ≠ 0 → x.sa = a :: as_ → x.sb = b :: bs →
      let tags := a.tag = tag.toNat ∧ b.tag = tag.toNat
      let counts := a.bytes.length = sh.m * nb ∧ b.bytes.length = sh.n * nb
      let ones := x.fb.toNat / 2048 % 2 = 1 → ∀ e ∈ a.bytes ++ b.bytes, e = 127
      (¬tags → mmaCheck x sh z = .fault (flt 10 0)) ∧ (tags → ¬counts → mmaCheck x sh z = .fault (flt 10 1)) ∧
      (tags → counts → ¬ones → mmaCheck x sh z = .fault (flt 10 2)) ∧ (tags → counts → ones → mmaCheck x sh z = .go pos nb)

end Sys2Proof.Machine

/-- R169 to R171, R168, R95: TCOPY and TCOPYM whose record, command block and objects pass start a copy and make its status register
pending, once the acquires before them have returned (R147); with no lane in EM they do nothing. -/
def Sys2Proof.Machine.TensorCopiesStart : Prop :=
  ∀ (r : Option (BitVec 13)) (d a b : SReg) (multi : Bool),
  let x := if multi then both r (.tcopym d a b) fun w => .tcopymRadish w d a b else both r (.tcopy d a b) fun w => .tcopyRadish w d a b
  let addr := fun (c : Ctx) (s : State) => ((s.grp c.gid).sreg64 b.toNat).toNat
  let bar := fun (c : Ctx) (s : State) => blockWord a.toNat 1 c s
  let third := fun (rec : List Byte) (c : Ctx) (s : State) =>
    if multi then blockWord a.toNat 2 c s ≠ 0 ∧ blockWord a.toNat 2 c s < 2 ^ clusterSize s (s.cluster (winOf c s).cluster)
    else if recScale rec then blockWord a.toNat 2 c s < 2 ^ 16 ∧ bar c s = 0xFFFF_FFFF ∧ 16 ≤ boxBytes rec ∧ boxBytes rec ≤ 1024
    else blockWord a.toNat 2 c s = 0
  RunsIf x (fun c _ => ¬acts c) (fun _ g => g) ∧
  WaitsIf x (fun c s => acts c ∧ ¬engineRoom c s) (fun _ _ => .engine) ∧
  TrapsIf x (fun c s => acts c ∧ engineRoom c s ∧ addr c s % 128 ≠ 0) (fun c s => fltL 5 0 (addr c s) true (leaderMask c)) ∧
  WaitsIf x (fun c s => acts c ∧ engineRoom c s ∧ addr c s % 128 = 0 ∧ recordWaits c s (addr c s) 128 = true) (fun _ _ => .acquire) ∧
  (∀ rec : List Byte,
    let read := fun (c : Ctx) (s : State) =>
      acts c ∧ engineRoom c s ∧ addr c s % 128 = 0 ∧ recordWaits c s (addr c s) 128 = false ∧
        ∃ u, readRecord c s (addr c s) 128 = .ok (u, rec)
    let faults := fun (f : FaultInfo) (c : Ctx) (s t : State) => ∃ u, readRecord c s (addr c s) 128 = .ok (u, rec) ∧
      t = takeFault (noteRecord c u (addr c s) 128) c.gid c.fid f c.act ∧ t.copies = s.copies
    DoesIf x (fun c s => read c s ∧ recOk rec multi = false) (faults (flt 1 4)) ∧
    DoesIf x (fun c s => read c s ∧ recOk rec multi = true ∧ recScale rec = true ∧ (winOf c s).stream = none) (faults (flt 3 3)) ∧
    DoesIf x (fun c s => read c s ∧ recOk rec multi = true ∧
        (recScale rec = true → (winOf c s).stream ≠ none) ∧ blockReady a.toNat (recRank rec) c s ∧ third rec c s ∧
        (recScale rec = false → objectFits (blockWord a.toNat 0 c s) (boxBytes rec) 16 c s) ∧
        (bar c s ≠ 0xFFFF_FFFF → objectPasses (bar c s) 16 16 c s)) fun c s t =>
      ∃ cp, CopyStarted d cp c s t ∧ cp.chain = false ∧ cp.layout = rec ∧ cp.total = boxBytes rec / 16 ∧
        cp.cmd = (List.range (3 + recRank rec)).map (fun i => (s.grp c.gid).sreg (a.toNat + i)) ∧
        (multi = false → cp.dests.map (·.1) = [teamIn c s]) ∧
        (multi = true → cp.dests.map (·.1) = membersOf s (winOf c s).cluster (blockWord a.toNat 2 c s)) ∧
        (bar c s = 0xFFFF_FFFF → ∀ q ∈ cp.dests, q.2 = none) ∧ (bar c s ≠ 0xFFFF_FFFF → ∀ q ∈ cp.dests, q.2.map (·.1) = some (bar c s)) ∧
        cp.scale = if recScale rec then some (recFifo rec, blockWord a.toNat 2 c s) else none)

/-- R174, R168: CHAIN starts the chain whose program its window holds, or faults on it. -/
def Sys2Proof.Machine.ChainsStart : Prop :=
  ∀ (r : Option (BitVec 13)) (d a : SReg),
  let x := both r (.chain d a) fun w => .chainRadish w d a
  let off := sIn a
  let prog := fun (c : Ctx) (s : State) => (lsBytes c (fragEvent c s []).2 (off c s) 96 (fragEvent c s []).1).2
  let checked := fun (c : Ctx) (s : State) => acts c ∧ engineRoom c s ∧ objectPasses (off c s) 96 16 c s ∧ (s.grp c.gid).acquiring = false
  RunsIf x (fun c _ => ¬acts c) (fun _ g => g) ∧
  WaitsIf x (fun c s => acts c ∧ ¬engineRoom c s) (fun _ _ => .engine) ∧
  WaitsIf x (fun c s => acts c ∧ engineRoom c s ∧ objectPasses (off c s) 96 16 c s ∧ (s.grp c.gid).acquiring = true) (fun _ _ => .acquire) ∧
  TrapsIf x (fun c s => checked c s ∧ chainOk (prog c s) = false) (fun _ _ => flt 1 4) ∧
  DoesIf x (fun c s => checked c s ∧ chainOk (prog c s) = true) (fun c s t =>
    ∃ cp, CopyStarted d cp c s t ∧ cp.chain = true ∧ cp.layout = prog c s ∧ cp.cmd = [c.mode] ∧
      cp.total = field (prog c s) 16 4 * widthOf (field (prog c s) 21 1) / 16) ∧
  (∀ p : List Byte, chainOk p = true → 1 ≤ field p 16 4 ∧ field p 16 4 ≤ 2 ^ 28 ∧ field p 8 8 % 16 = 0 ∧ field p 22 1 ≤ 8 ∧
    field p 16 4 * widthOf (field p 21 1) % 16 = 0 ∧ field p 0 8 % widthOf (field p 20 1) = 0)

/-- R168 to R171, R174: TCOPY, TCOPYM and CHAIN. -/
def Obligations.CopiesAndChainsStart : Prop := TensorCopiesStart ∧ ChainsStart

/-- R176 to R178, R168: BBINIT, BBINV, BBEXP and BBARR, the last once it may release (R147), change their barrier as R177 says and no
other byte of the window; BBWAIT returns a status for a generation that is over and waits for any other; one that waits re-evaluates its barrier, and finds it
complete, begun anew, or poisoned (log 61). -/
def Obligations.ByteBarriersFollowTheirGenerations : Prop :=
  ∀ (r : Option (BitVec 13)) (d a b : SReg),
  let init := both r (.bbinit a b) fun w => .bbinitRadish w a b
  let inv := both r (.bbinv a) fun w => .bbinvRadish w a
  let exp := both r (.bbexp a b) fun w => .bbexpRadish w a b
  let arr := both r (.bbarr a b) fun w => .bbarrRadish w a b
  let wait := both r (.bbwait d a) fun w => .bbwaitRadish w d a
  let off := sIn a
  let passes := fun (c : Ctx) (s : State) => acts c ∧ objectPasses (off c s) 16 16 c s
  let kept := fun (c : Ctx) (s t : State) => WentOn c s t ∧ EngineKept c s t ∧ WindowKept (off c s) 16 c s t
  let inWait := fun (c : Ctx) => ∃ o g st, c.wait = .bbar o g st
  (∀ x ∈ [init, inv, exp, arr], RunsIf x (fun c _ => ¬acts c) (fun _ g => g) ∧ ObjectChecked x (fun _ => True) off 16 16) ∧
  TrapsIf init (fun c s => passes c s ∧ sIn b c s = 0) (fun _ _ => flt 1 4) ∧
  DoesIf init (fun c s => passes c s ∧ sIn b c s ≠ 0) (fun c s t =>
    kept c s t ∧ bbAt (off c s) c t = ⟨sIn b c s, 0, ((bbAt (off c s) c s).gen + 1) % 2 ^ 16, 0, 0⟩) ∧
  DoesIf inv passes (fun c s t => kept c s t ∧ bbAt (off c s) c t = ⟨0, 0, ((bbAt (off c s) c s).gen + 1) % 2 ^ 16, 2, 0⟩) ∧
  DoesIf exp passes (fun c s t => kept c s t ∧
    let o := bbAt (off c s) c s
    bbAt (off c s) c t = settledBB { o with exp := (o.exp + sIn b c s) % 2 ^ 32, fl := if 2 ^ 32 ≤ o.exp + sIn b c s then Nat.lor o.fl 4 else o.fl }) ∧
  WaitsIf arr (fun c s => passes c s ∧ ¬quietIn c s) (fun _ _ => .release) ∧
  DoesIf arr (fun c s => passes c s ∧ quietIn c s) (fun c s t => kept c s t ∧
    let o := bbAt (off c s) c s
    let n := o.arr + sIn b c s
    bbAt (off c s) c t = settledBB { o with arr := n % 2 ^ 32, fl := if o.exp < n then Nat.lor o.fl 4 else o.fl }) ∧
  (RunsIf wait (fun c _ => ¬acts c) (fun _ g => g) ∧ ObjectChecked wait (fun c => ¬inWait c) off 16 16 ∧
   (∀ o g : Nat,
     let waits := fun (c : Ctx) (s : State) => acts c ∧ c.wait = .bbar o g none ∧ objectFits o 16 16 c s
     let sound := fun (c : Ctx) (s : State) => waits c s ∧ winPois (winOf c s) o 16 = false
     let isOver := fun (c : Ctx) (s : State) => (bbAt o c s).arr = (bbAt o c s).exp ∨ (bbAt o c s).fl / 2 ≠ 0
     let fewer := fun (c : Ctx) (s t : State) => bbAt o c t = { bbAt o c s with waiters := (bbAt o c s).waiters - 1 } ∧ WindowKept o 16 c s t
     DoesIf wait (fun c s => waits c s ∧ winPois (winOf c s) o 16 = true) (fun c s t =>
       ∃ u, t = takeFault u c.gid c.fid (flt 15 1) c.act ∧ u.mem = s.mem ∧ u.groups = s.groups ∧ fewer c s u) ∧
     DoesIf wait (fun c s => sound c s ∧ (bbAt o c s).gen ≠ g) (fun c s t =>
       WentOn c s t ∧ t.mem = s.mem ∧ t.teams = s.teams ∧ (t.grp c.gid).sreg d.toNat = if d = 0 then 0 else 1) ∧
     DoesIf wait (fun c s => sound c s ∧ (bbAt o c s).gen = g ∧ isOver c s) (fun c s t =>
       WentOn c s t ∧ t.mem = s.mem ∧ fewer c s t ∧
       let fl := (bbAt o c s).fl
       (t.grp c.gid).sreg d.toNat = if d = 0 then 0 else if fl / 2 % 2 = 1 then 1 else if fl / 8 % 2 = 1 then 3 else if fl / 4 % 2 = 1 then 2 else 0) ∧
     WaitsIf wait (fun c s => sound c s ∧ (bbAt o c s).gen = g ∧ ¬isOver c s) (fun _ _ => .bbar o g none)) ∧
   DoesIf wait (fun c s => ¬inWait c ∧ passes c s ∧ ((bbAt (off c s) c s).arr = (bbAt (off c s) c s).exp ∨ (bbAt (off c s) c s).fl / 2 ≠ 0)) (fun c s t =>
     WentOn c s t ∧ t.mem = s.mem ∧ t.teams = s.teams ∧
     let fl := (bbAt (off c s) c s).fl
     (t.grp c.gid).sreg d.toNat = if d = 0 then 0 else if fl / 2 % 2 = 1 then 1 else if fl / 8 % 2 = 1 then 3 else if fl / 4 % 2 = 1 then 2 else 0) ∧
   DoesIf wait (fun c s => ¬inWait c ∧ passes c s ∧ (bbAt (off c s) c s).arr ≠ (bbAt (off c s) c s).exp ∧ (bbAt (off c s) c s).fl / 2 = 0) (fun c s t =>
     AlsoWaits (.bbar (off c s) (bbAt (off c s) c s).gen none) c t ∧ EngineKept c s t ∧ WindowKept (off c s) 16 c s t ∧
     bbAt (off c s) c t = { bbAt (off c s) c s with waiters := ((bbAt (off c s) c s).waiters + 1) % 2 ^ 32 }) ∧
   (∀ o g st : Nat, DoesIf wait (fun c s => acts c ∧ c.wait = .bbar o g (some st)) fun c s t =>
     WentOn c s t ∧ t.mem = s.mem ∧ (t.grp c.gid).sreg d.toNat = if d = 0 then 0 else BitVec.ofNat 32 st))

/-- R179 to R181, R168: the ring instructions on a ring whose descriptor passes: RINIT frees every slot; RACQ and RTAKE are served with
a slot or the end, or wait; RPUB fills and RDONE frees once they may release (R147), RCLOSE closes and serves each RACQ that waits and each RTAKE whose slot is
free. That RINIT's fault for a slot past the window is 6/8 with BASE (log 110), and the form of a waiter's order of arrival (log 61), are
the model's choices. -/
def Obligations.StageRingsPassSlotsInOrder : Prop :=
  ∀ (r : Option (BitVec 13)) (d a b : SReg),
  let init := both r (.rinit a) fun w => .rinitRadish w a
  let acq := both r (.racq d a) fun w => .racqRadish w d a
  let take := both r (.rtake d a) fun w => .rtakeRadish w d a
  let pub := both r (.rpub d a b) fun w => .rpubRadish w d a b
  let done := both r (.rdone a b) fun w => .rdoneRadish w a b
  let close := both r (.rclose a) fun w => .rcloseRadish w a
  let kept := fun (c : Ctx) (s t : State) => t.mem = s.mem ∧ SameSpecials (s.grp c.gid) (t.grp c.gid) ∧ SameRegs (s.grp c.gid) (t.grp c.gid) ∧
    ∀ u, u ≠ teamIn c s → t.team u = s.team u
  let got := fun (v : Nat) (c : Ctx) (s t : State) => WentOn c s t ∧ kept c s t ∧ PendingAlso 1 d.toNat 1 (s.grp c.gid) (t.grp c.gid) ∧
    ∃ op, OneLoadMore c s t op ∧ op.kind = .result (BitVec.ofNat 32 v) ∧ op.dst = some (1, d.toNat)
  let first := fun (k : Bool) (c : Ctx) (s : State) => ringFirst s (teamIn c s) (sIn a c s) k (ringOrder c s) = true
  (∀ x ∈ [init, acq, take, done, close], RunsIf x (fun c _ => ¬acts c) (fun _ g => g) ∧ ObjectChecked x unserved (sIn a) 32 32) ∧
  RunsIf pub (fun c _ => ¬acts c) (fun _ g => g) ∧ ObjectChecked pub (fun _ => True) (sIn d) 32 32 ∧
  (∀ x ∈ [acq, take, done, close], TrapsIf x (fun c s => acts c ∧ c.wait ≠ .closed ∧ objectPasses (sIn a c s) 32 32 c s ∧
    (ringAt (sIn a c s) c s).ok (winOf c s).winSize = false) (fun _ _ => flt 1 4)) ∧
  (let passes := fun (c : Ctx) (s : State) => acts c ∧ objectPasses (sIn a c s) 32 32 c s
   let sound := fun (c : Ctx) (s : State) =>
     (ringAt (sIn a c s) c s).table = true ∧ (ringAt (sIn a c s) c s).rsv = 0 ∧ (ringAt (sIn a c s) c s).rsv2 = 0
   let fits := fun (c : Ctx) (s : State) => (ringAt (sIn a c s) c s).fits (winOf c s).winSize = true
   TrapsIf init (fun c s => passes c s ∧ ¬sound c s) (fun _ _ => flt 1 4) ∧
   TrapsIf init (fun c s => passes c s ∧ sound c s ∧ ¬fits c s) (fun c s => fltL 6 8 (ringAt (sIn a c s) c s).base false (leaderMask c)) ∧
   TrapsIf init (fun c s => passes c s ∧ sound c s ∧ fits c s ∧ ringWaiters s (teamIn c s) (sIn a c s) ≠ []) (fun _ _ => flt 14 1) ∧
   DoesIf init (fun c s => passes c s ∧ sound c s ∧ fits c s ∧ ringWaiters s (teamIn c s) (sIn a c s) = []) (fun c s t =>
     let o := ringAt (sIn a c s) c s
     WentOn c s t ∧ kept c s t ∧ ringAt (sIn a c s) c t = ⟨o.base, o.sbytes, o.slots, false, false, 0, 0, 0, 0, 0, 0, 0⟩ ∧
     (ringApart (sIn a c s) o → ∀ j < o.slots, slotAt (sIn a c s) j c t = 0))) ∧
  (let rg := fun (c : Ctx) (s : State) => ringAt (sIn a c s) c s
   let inRing := fun (c : Ctx) => ∃ o k n, c.wait = .ring o k n
   let may := fun (j : Nat) (c : Ctx) (s : State) => acts c ∧ c.wait ≠ .closed ∧ ringPasses (sIn a c s) c s ∧ slotClean (sIn a c s) j c s
   let served := fun (k : Bool) (j : Nat) (c : Ctx) (s : State) => may j c s ∧ first k c s ∧ (s.grp c.gid).loads.length < 63
   let stays := fun (k : Bool) (c : Ctx) (s t : State) =>
     AlsoWaits (.ring (sIn a c s) k (ringOrder c s)) c t ∧ kept c s t ∧ (t.grp c.gid).loads = (s.grp c.gid).loads ∧ t.teams = s.teams
   (∀ x ∈ [acq, take],
     DoesIf x (fun c s => acts c ∧ c.wait = .closed ∧ (s.grp c.gid).loads.length < 63) (fun c s t => got 0xFFFF_FFFF c s t ∧ t.teams = s.teams) ∧
     WaitsIf x (fun c s => acts c ∧ c.wait = .closed ∧ 63 ≤ (s.grp c.gid).loads.length) (fun _ _ => .closed)) ∧
   WaitsIf acq (fun c s => may (rg c s).head c s ∧ ¬inRing c ∧ 63 ≤ (s.grp c.gid).loads.length) (fun _ _ => .full 0) ∧
   WaitsIf take (fun c s => may (rg c s).tail c s ∧ ¬inRing c ∧ 63 ≤ (s.grp c.gid).loads.length) (fun _ _ => .full 0) ∧
   DoesIf acq (fun c s => served false (rg c s).head c s ∧ (rg c s).closed = true) (fun c s t => got 0xFFFF_FFFF c s t) ∧
   DoesIf acq (fun c s => served false (rg c s).head c s ∧ (rg c s).closed = false ∧ slotAt (sIn a c s) (rg c s).head c s = 0) (fun c s t =>
     let o := rg c s
     got (o.slot o.head) c s t ∧ (ringApart (sIn a c s) o → ringAt (sIn a c s) c t = { o with head := (o.head + 1) % o.slots } ∧ slotAt (sIn a c s) o.head c t = 1)) ∧
   DoesIf take (fun c s => served true (rg c s).tail c s ∧ slotAt (sIn a c s) (rg c s).tail c s = 2) (fun c s t =>
     let o := rg c s
     got (o.slot o.tail) c s t ∧ (ringApart (sIn a c s) o →
       ringAt (sIn a c s) c t = { o with tail := (o.tail + 1) % o.slots } ∧ slotAt (sIn a c s) o.tail c t = 3)) ∧
   DoesIf take (fun c s => served true (rg c s).tail c s ∧ (rg c s).closed = true ∧ slotAt (sIn a c s) (rg c s).tail c s = 0)
     (fun c s t => got 0xFFFF_FFFF c s t) ∧
   DoesIf acq (fun c s => may (rg c s).head c s ∧ (inRing c ∨ (s.grp c.gid).loads.length < 63) ∧ (rg c s).closed = false ∧
       slotAt (sIn a c s) (rg c s).head c s ≠ 0) (fun c s t => stays false c s t) ∧
   DoesIf take (fun c s => may (rg c s).tail c s ∧ (inRing c ∨ (s.grp c.gid).loads.length < 63) ∧ slotAt (sIn a c s) (rg c s).tail c s ≠ 2 ∧
       ((rg c s).closed = false ∨ slotAt (sIn a c s) (rg c s).tail c s ≠ 0)) (fun c s t => stays true c s t)) ∧
  (∀ j : Nat,
    let mine := fun (off slot : Nat) (c : Ctx) (s : State) =>
      acts c ∧ ringPasses off c s ∧ (ringAt off c s).index slot = some j ∧ slotClean off j c s
    let filled := fun (c : Ctx) (s : State) => mine (sIn d c s) (sIn a c s) c s ∧ slotAt (sIn d c s) j c s = 1 ∧
      sIn b c s % 2 ^ 24 ≤ (ringAt (sIn d c s) c s).sbytes - 16 ∧ sIn b c s < 2 ^ 26
    let taken := fun (c : Ctx) (s : State) => mine (sIn a c s) (sIn b c s) c s ∧ slotAt (sIn a c s) j c s = 3
    TrapsIf pub (fun c s => mine (sIn d c s) (sIn a c s) c s ∧ slotAt (sIn d c s) j c s ≠ 1) (fun _ _ => flt 1 6) ∧
    WaitsIf pub (fun c s => filled c s ∧ ¬quietIn c s) (fun _ _ => .release) ∧
    DoesIf pub (fun c s => filled c s ∧ quietIn c s) (fun c s t =>
      let o := ringAt (sIn d c s) c s
      WentOn c s t ∧ kept c s t ∧ (ringApart (sIn d c s) o →
        ringAt (sIn d c s) c t = { o with phase := Nat.lor o.phase (2 ^ j), pubs := (o.pubs + 1) % 2 ^ 32, fault := o.fault || decide (2 ^ 25 ≤ sIn b c s) } ∧
        slotAt (sIn d c s) j c t = 2 ∧ t.win (teamIn c s) (sIn a c s) 4 = sIn b c s % 2 ^ 24)) ∧
    TrapsIf done (fun c s => mine (sIn a c s) (sIn b c s) c s ∧ slotAt (sIn a c s) j c s ≠ 3) (fun _ _ => flt 1 6) ∧
    WaitsIf done (fun c s => taken c s ∧ ¬quietIn c s) (fun _ _ => .release) ∧
    DoesIf done (fun c s => taken c s ∧ quietIn c s) (fun c s t =>
      let o := ringAt (sIn a c s) c s
      WentOn c s t ∧ kept c s t ∧ (ringApart (sIn a c s) o →
        slotAt (sIn a c s) j c t = 0 ∧ (ringAt (sIn a c s) c t).dones = (o.dones + 1) % 2 ^ 32 ∧
        ∀ i, (ringAt (sIn a c s) c t).phase.testBit i = (o.phase.testBit i && i != j)))) ∧
  DoesIf close (fun c s => acts c ∧ ringPasses (sIn a c s) c s) (fun c s t =>
    WentOn c s t ∧ kept c s t ∧ ringAt (sIn a c s) c t = { ringAt (sIn a c s) c s with closed := true } ∧ WindowKept (sIn a c s) 32 c s t ∧
    (∀ g f n, (g, f) ≠ (c.gid, c.fid) → (s.grp g).team = teamIn c s → ((s.grp g).frag f).wait = .ring (sIn a c s) false n →
      ((t.grp g).frag f).wait = .closed) ∧
    (ringApart (sIn a c s) (ringAt (sIn a c s) c s) →
      let free := slotAt (sIn a c s) (ringAt (sIn a c s) c s).tail c s = 0
      (∀ g f n, (g, f) ≠ (c.gid, c.fid) → (s.grp g).team = teamIn c s → ((s.grp g).frag f).wait = .ring (sIn a c s) true n →
        (free → ((t.grp g).frag f).wait = .closed) ∧ (¬free → ((t.grp g).frag f).wait = .ring (sIn a c s) true n)) ∧
      ∀ x n, (winOf c s).stream = some x → x.wait = .ring (sIn a c s) true n →
        (free → ((t.str (teamIn c s)).wait = .closed)) ∧ (¬free → (t.str (teamIn c s)).wait = .ring (sIn a c s) true n)) ∧
    (∀ g f, (g, f) ≠ (c.gid, c.fid) → (∀ k n, ((s.grp g).frag f).wait ≠ .ring (sIn a c s) k n) →
      ((t.grp g).frag f).wait = ((s.grp g).frag f).wait))

/-- R182, R168: SPUSH enters its batch in the FIFO that its control word names, waits while that FIFO is full, or faults. -/
def Obligations.ScaleBatchesEnterTheirFifo : Prop :=
  ∀ (r : Option (BitVec 13)) (a b : SReg),
  let x := both r (.spush a b) fun w => .spushRadish w a b
  let n := fun (c : Ctx) (s : State) => sIn a c s / 2 ^ 17 % 2 ^ 11
  let toSb := fun (c : Ctx) (s : State) => (sIn a c s).testBit 16
  let legal := fun (c : Ctx) (s : State) => sIn a c s < 2 ^ 28 ∧ 1 ≤ n c s ∧ n c s ≤ 1024
  let ready := fun (c : Ctx) (s : State) => acts c ∧ (winOf c s).stream ≠ none ∧ legal c s ∧ sIn b c s + n c s ≤ (winOf c s).winSize ∧
    winPois (winOf c s) (sIn b c s) (n c s) = false
  let full := fun (c : Ctx) (s : State) => fifoFull s (teamIn c s) (toSb c s) = true ∨ scaleBusy s c.gid (toSb c s) = true
  RunsIf x (fun c _ => ¬acts c) (fun _ g => g) ∧
  TrapsIf x (fun c s => acts c ∧ (winOf c s).stream = none) (fun _ _ => flt 3 3) ∧
  TrapsIf x (fun c s => acts c ∧ (winOf c s).stream ≠ none ∧ ¬legal c s) (fun _ _ => flt 1 4) ∧
  TrapsIf x (fun c s => acts c ∧ (winOf c s).stream ≠ none ∧ legal c s ∧ (winOf c s).winSize < sIn b c s + n c s)
    (fun c s => fltL 6 8 (sIn b c s) false (leaderMask c)) ∧
  TrapsIf x (fun c s => acts c ∧ (winOf c s).stream ≠ none ∧ legal c s ∧ sIn b c s + n c s ≤ (winOf c s).winSize ∧
    winPois (winOf c s) (sIn b c s) (n c s) = true) (fun _ _ => flt 15 1) ∧
  WaitsIf x (fun c s => ready c s ∧ full c s) (fun c s => .fifo (toSb c s)) ∧
  DoesIf x (fun c s => ready c s ∧ ¬full c s) (fun c s t =>
    WentOn c s t ∧ EngineKept c s t ∧ ∃ q : Batch, q.tag = sIn a c s % 2 ^ 16 ∧ q.bytes.length = n c s ∧
      (t.str (teamIn c s)).sa = (s.str (teamIn c s)).sa ++ (if toSb c s then [] else [q]) ∧
      (t.str (teamIn c s)).sb = (s.str (teamIn c s)).sb ++ (if toSb c s then [q] else []) ∧
      (windowSettled (teamIn c s) (sIn b c s) (n c s) s → q.bytes = mread (winOf c s).win (sIn b c s) (n c s)))

/-- R187, R188, R195 to R198: the matrix stream's register, tile and accumulator instructions: their values, MSTAT and faults. Where one
has several faults their order, and XREC6 of a payload past the window, are the model's choices (log 106); the conversions' exact steps
are inferred (log 93). -/
def Obligations.MatrixRegistersAndTiles : Prop :=
  ∀ (m : BitVec 4),
  StreamRunsIf (.fbset m) (fun tid s => mClean tid s m ∧ mIn tid s m % 16 ≤ 3 ∧ mIn tid s m / 16 % 16 ≤ 3 ∧ mIn tid s m / 256 % 8 < 6 ∧
      mIn tid s m / 4096 % 16 = 0) (fun x => { x with fb := aget 0 m.toNat x.m }) ∧
  StreamFaultsIf (.fbset m) (fun tid s => mClean tid s m ∧ (3 < mIn tid s m % 16 ∨ 3 < mIn tid s m / 16 % 16 ∨ 6 ≤ mIn tid s m / 256 % 8 ∨
      mIn tid s m / 4096 % 16 ≠ 0)) (fun _ _ => flt 1 4) ∧
  (∀ x : BitVec 3,
    StreamFaultsIf (.xld x m) (fun tid s => mClean tid s m ∧ latched (s.str tid) x.toNat = true) (fun _ _ => fltV 4 4 (x.toNat + 768)) ∧
    StreamFaultsIf (.xldr x m) (fun tid s => mClean tid s m ∧ latched (s.str tid) x.toNat = true) (fun _ _ => fltV 4 4 (x.toNat + 768)) ∧
    StreamDoesIf (.xld x m) (fun tid s => mClean tid s m ∧ latched (s.str tid) x.toNat = false ∧ rangePasses tid (mIn tid s m) 8192 64 s)
      (fun tid s t => StreamKept (s.str tid) (t.str tid) ∧ t.mem = s.mem ∧ (t.str tid).z = (s.str tid).z ∧
        (∀ y, y ≠ x.toNat → ∀ i, (t.str tid).xbyte y i = (s.str tid).xbyte y i) ∧
        (windowSettled tid (mIn tid s m) 8192 s →
          ∀ i < 8192, (t.str tid).xbyte x.toNat i = (mget (s.team tid).win (mIn tid s m + i)).toNat)) ∧
    RangeChecked (.xld x m) (fun tid s => mClean tid s m ∧ latched (s.str tid) x.toNat = false) (fun tid s => mIn tid s m) (fun _ _ => 8192) ∧
    (∀ slot : Nat,
      let held := fun (tid : Nat) (s : State) => mClean tid s m ∧ latched (s.str tid) x.toNat = false ∧
        (s.str tid).taken.find? (fun p => p.1 == mIn tid s m) = some (mIn tid s m, slot) ∧ slot < 2 ^ 32
      StreamFaultsIf (.xldr x m) (fun tid s => held tid s ∧ winPois (s.team tid) slot 4 = false ∧
        (s.team tid).winSize < slot + 16 + min (s.win tid slot 4) 8192) (fun _ _ => fltV 6 8 slot) ∧
      StreamFaultsIf (.xldr x m) (fun tid s => held tid s ∧ winPois (s.team tid) slot 4 = true) (fun _ _ => flt 15 1) ∧
      StreamDoesIf (.xldr x m) (fun tid s => mClean tid s m ∧ latched (s.str tid) x.toNat = false ∧
          (s.str tid).taken.find? (fun p => p.1 == mIn tid s m) = some (mIn tid s m, slot) ∧ slot < 2 ^ 32 ∧
          winPois (s.team tid) slot 4 = false ∧ rangePasses tid (slot + 16) (min (s.win tid slot 4) 8192) 1 s)
        (fun tid s t => StreamKept (s.str tid) (t.str tid) ∧ t.mem = s.mem ∧ (t.str tid).z = (s.str tid).z ∧
          (∀ y, y ≠ x.toNat → ∀ i, (t.str tid).xbyte y i = (s.str tid).xbyte y i) ∧
          (windowSettled tid (slot + 16) 8192 s → ∀ i < 8192, (t.str tid).xbyte x.toNat i =
            if i < s.win tid slot 4 then (mget (s.team tid).win (slot + 16 + i)).toNat else 0))) ∧
    StreamFaultsIf (.xldr x m) (fun tid s => mClean tid s m ∧ latched (s.str tid) x.toNat = false ∧
      ∀ p ∈ (s.str tid).taken, p.1 ≠ mIn tid s m) (fun _ _ => flt 1 6)) ∧
  (∀ z : BitVec 8,
    let fits := fun (tid : Nat) (s : State) => mClean tid s m ∧ z.toNat < (s.str tid).tiles
    let idle := fun (tid : Nat) (s : State) => (s.str tid).busy = false
    let closed := fun (tid : Nat) (s : State) => tileClosed (s.str tid) z.toNat
    let v := fun (tid : Nat) (s : State) => mIn tid s m
    let others := fun (x y : Stream) => StreamKept x y ∧ y.x = x.x ∧ y.fb = x.fb ∧ y.sa = x.sa ∧ y.sb = x.sb
    let only := fun (tid : Nat) (s t : State) => others (s.str tid) (t.str tid) ∧ t.mem = s.mem ∧
      ∀ y, y ≠ z.toNat → (t.str tid).tile y = (s.str tid).tile y
    let sameStat := fun (tid : Nat) (s t : State) => (t.str tid).mstat = (s.str tid).mstat
    let cvtOk := fun (tid : Nat) (s : State) => v tid s % 4 ≤ 1 ∧ v tid s / 4 % 64 = 0 ∧ v tid s / 256 % 256 ≠ 0xFF ∧ v tid s < 2 ^ 16
    let srcOk := fun (tid : Nat) (s : State) => v tid s < (s.str tid).tiles
    let sclOk := fun (tid : Nat) (s : State) => v tid s < 0xFF
    let clrOk := fun (tid : Nat) (s : State) => 1 ≤ v tid s ∧ z.toNat + v tid s ≤ (s.str tid).tiles
    let addrOk := fun (tid : Nat) (s : State) => v tid s / 2 ^ 19 < 3 ∧ (v tid s / 2 ^ 19 = 0 ∨ fbMode (s.str tid).fb ≠ 1)
    let size := fun (tid : Nat) (s : State) => 4096 * if v tid s / 2 ^ 19 = 0 then 4 else 2
    let at_ := fun (tid : Nat) (s : State) => v tid s % 2 ^ 19
    let placed := fun (tid : Nat) (s : State) => addrOk tid s ∧ at_ tid s % 64 = 0 ∧ at_ tid s + size tid s ≤ (s.team tid).winSize
    let sat := fun (tid : Nat) (s : State) (e : Nat) => (zAt (s.str tid) z.toNat e).toInt + (zAt (s.str tid) (v tid s) e).toInt
    let half := fun (tid : Nat) (s : State) => if v tid s / 2 ^ 19 = 1 then 4 else 3
    (∀ i ok, (i, ok) ∈ [(Instr.zcvt z m, cvtOk), (.zadd z m, srcOk), (.zscl z m, sclOk), (.zst z m, addrOk), (.zld z m, addrOk), (.zclr z m, clrOk)] →
      StreamFaultsIf i (fun tid s => fits tid s ∧ ¬ok tid s) (fun _ _ => flt 1 4)) ∧
    (∀ i ok, (i, ok) ∈ [(Instr.zcvt z m, cvtOk), (.zadd z m, srcOk), (.zscl z m, sclOk), (.zst z m, placed),
        (.zld z m, fun tid s => placed tid s ∧ winPois (s.team tid) (at_ tid s) (size tid s) = false)] →
      StreamFaultsIf i (fun tid s => fits tid s ∧ ok tid s ∧ ((s.str tid).tile z.toNat).opened = true) (fun _ _ => flt 10 4)) ∧
    StreamFaultsIf (.zadd z m) (fun tid s => fits tid s ∧ srcOk tid s ∧ ((s.str tid).tile (v tid s)).opened = true) (fun _ _ => flt 10 4) ∧
    (∀ i ∈ [Instr.zst z m, .zld z m], RangeChecked i (fun tid s => fits tid s ∧ addrOk tid s) at_ size) ∧
    (∀ i ok, (i, ok) ∈ [(Instr.zcvt z m, fun tid s => closed tid s ∧ cvtOk tid s), (.zscl z m, fun tid s => closed tid s ∧ sclOk tid s),
        (.zadd z m, fun tid s => closed tid s ∧ srcOk tid s ∧ tileClosed (s.str tid) (v tid s)), (.zclr z m, clrOk)] →
      StreamWaitsIf i (fun tid s => fits tid s ∧ ¬idle tid s ∧ ok tid s) (fun _ _ => .matrix)) ∧
    StreamDoesIf (.zclr z m) (fun tid s => fits tid s ∧ idle tid s ∧ clrOk tid s)
      (fun tid s t => others (s.str tid) (t.str tid) ∧ t.mem = s.mem ∧ sameStat tid s t ∧
        ∀ y, (t.str tid).tile y = if z.toNat ≤ y ∧ y < z.toNat + v tid s then ZTile.empty else (s.str tid).tile y) ∧
    StreamDoesIf (.zcvt z m) (fun tid s => fits tid s ∧ idle tid s ∧ closed tid s ∧ cvtOk tid s) (fun tid s t => only tid s t ∧
      mstatAlso (s.str tid) (t.str tid) (v tid s % 4 = 1 ∧ ∃ e < 4096, cvtMoved (v tid s / 256) (zAt (s.str tid) z.toNat e)) ∧
      ∀ e < 4096, zAt (t.str tid) z.toNat e = (if v tid s % 4 = 0 then zcvtF (v tid s / 256) (zAt (s.str tid) z.toNat e)
        else zcvtI (v tid s / 256) (zAt (s.str tid) z.toNat e)).1) ∧
    StreamDoesIf (.zadd z m) (fun tid s => fits tid s ∧ idle tid s ∧ closed tid s ∧ srcOk tid s ∧ tileClosed (s.str tid) (v tid s))
      (fun tid s t => only tid s t ∧
        mstatAlso (s.str tid) (t.str tid) (fbMode (s.str tid).fb = 1 ∧ ∃ e < 4096, sat tid s e < -(2 ^ 31) ∨ 2 ^ 31 - 1 < sat tid s e) ∧
        ∀ e < 4096, zAt (t.str tid) z.toNat e =
          if fbMode (s.str tid).fb = 1 then BitVec.ofInt 32 (max (-(2 ^ 31 : Int)) (min (2 ^ 31 - 1) (sat tid s e)))
          else BitVec.ofNat 32 (fAdd f32 0 false (unpack f32 false (zAt (s.str tid) z.toNat e).toNat)
            (unpack f32 false (zAt (s.str tid) (v tid s) e).toNat)).1) ∧
    StreamDoesIf (.zscl z m) (fun tid s => fits tid s ∧ idle tid s ∧ closed tid s ∧ sclOk tid s) (fun tid s t => only tid s t ∧ sameStat tid s t ∧
      ∀ e < 4096, zAt (t.str tid) z.toNat e = BitVec.ofNat 32 (fLdexp f32 0 false (unpack f32 false (zAt (s.str tid) z.toNat e).toNat)
        ((v tid s : Int) - 127)).1) ∧
    StreamDoesIf (.zld z m) (fun tid s => fits tid s ∧ ((s.str tid).tile z.toNat).opened = false ∧ addrOk tid s ∧ rangePasses tid (at_ tid s) (size tid s) 64 s)
      (fun tid s t => only tid s t ∧ sameStat tid s t ∧ (windowSettled tid (at_ tid s) (size tid s) s → ∀ e < 4096,
        (v tid s / 2 ^ 19 = 0 → (zAt (t.str tid) z.toNat e).toNat = s.win tid (at_ tid s + 4 * e) 4) ∧
        (v tid s / 2 ^ 19 ≠ 0 → (zAt (t.str tid) z.toNat e).toNat = widenF32 (half tid s) (s.win tid (at_ tid s + 2 * e) 2)))) ∧
    StreamDoesIf (.zst z m) (fun tid s => fits tid s ∧ closed tid s ∧ placed tid s)
      (fun tid s t => others (s.str tid) (t.str tid) ∧ t.mem = s.mem ∧ (t.str tid).z = (s.str tid).z ∧ sameStat tid s t ∧
        (∀ e < 4096, (v tid s / 2 ^ 19 = 0 → t.win tid (at_ tid s + 4 * e) 4 = (zAt (s.str tid) z.toNat e).toNat) ∧
          (v tid s / 2 ^ 19 ≠ 0 → t.win tid (at_ tid s + 2 * e) 2 =
            (narrowF32 (half tid s) 0 false false (zAt (s.str tid) z.toNat e).toNat).1)) ∧
        (∀ q, q < at_ tid s ∨ at_ tid s + size tid s ≤ q → mget (t.team tid).win q = mget (s.team tid).win q) ∧
        ∀ u, u ≠ tid → t.team u = s.team u))

/-- R189 to R194, R208 to R212: a product whose tiles, range and batches pass accumulates every element of its output tiles block by
block, ends or leaves open their blocks, takes its batches and leaves the unit busy; the checks come in R192's order after the field,
range and poison checks, whose order is the model's choice (log 106). -/
def Obligations.MatrixProductsAccumulateBlocks : Prop :=
  (∀ (z : BitVec 8) (reuse : Bool) (x : BitVec 3) (m : BitVec 4) (p : Instr × Nat), products z reuse x m p →
    let sh := shapes p.2
    let bytes := fun (y : Stream) => 64 * bRows sh y.fb * sh.n
    let ready := fun (tid : Nat) (s : State) => mClean tid s m ∧ z.toNat + sh.c ≤ (s.str tid).tiles ∧ x.toNat % aTiles sh (s.str tid).fb = 0 ∧
      rangePasses tid (mIn tid s m) (bytes (s.str tid)) 64 s ∧
      (∀ q ∈ (s.str tid).xpois, ¬(x.toNat ≤ q.1 ∧ q.1 < x.toNat + aTiles sh (s.str tid).fb)) ∧
      (∀ q ∈ (s.str tid).zpois, ¬(z.toNat ≤ q.1 ∧ q.1 < z.toNat + sh.c))
    StreamFaultsIf p.1 (fun tid s => mClean tid s m ∧ z.toNat + sh.c ≤ (s.str tid).tiles ∧ x.toNat % aTiles sh (s.str tid).fb ≠ 0) (fun _ _ => flt 1 4) ∧
    RangeChecked p.1 (fun tid s => mClean tid s m ∧ z.toNat + sh.c ≤ (s.str tid).tiles ∧ x.toNat % aTiles sh (s.str tid).fb = 0)
      (fun tid s => mIn tid s m) (fun tid s => bytes (s.str tid)) ∧
    MmaChecked sh ∧
    (∀ f, StreamFaultsIf p.1 (fun tid s => ready tid s ∧ mmaCheck (s.str tid) sh z.toNat = .fault f) (fun _ _ => f)) ∧
    StreamWaitsIf p.1 (fun tid s => ready tid s ∧ mmaCheck (s.str tid) sh z.toNat = .wait) (fun _ _ => .scales) ∧
    (∀ pos nb : Nat,
      StreamWaitsIf p.1 (fun tid s => ready tid s ∧ mmaCheck (s.str tid) sh z.toNat = .go pos nb ∧ (s.str tid).busy = true) (fun _ _ => .matrix) ∧
      StreamDoesIf p.1 (fun tid s => ready tid s ∧ mmaCheck (s.str tid) sh z.toNat = .go pos nb ∧ (s.str tid).busy = false) fun tid s t =>
        let a := s.str tid
        let b := t.str tid
        let after := (pos + effK sh a.fb) % blockLen a.fb
        StreamKept a b ∧ t.mem = s.mem ∧ b.x = a.x ∧ b.busy = true ∧
        (∀ y, latched b y = (reuse && decide (x.toNat ≤ y) && decide (y < x.toNat + aTiles sh a.fb))) ∧
        b.sa = a.sa.drop (if nb = 0 then 0 else 1) ∧ b.sb = a.sb.drop (if nb = 0 then 0 else 1) ∧
        b.fb.toNat = a.fb.toNat % 2 ^ 16 + 2 ^ 16 * ((a.fb.toNat / 2 ^ 16 + if nb = 0 then 0 else 1) % 2 ^ 16) ∧
        (∀ y, y < z.toNat ∨ z.toNat + sh.c ≤ y → b.tile y = a.tile y) ∧
        (∀ y < sh.c, (b.tile (z.toNat + y)).opened = decide (after ≠ 0) ∧ (b.tile (z.toNat + y)).pos = after) ∧
        (windowSettled tid (mIn tid s m) (bytes a) s →
          let dot := fun (y e : Nat) =>
            let row := 64 * (y / (sh.n / 64)) + e / 64
            let col := 64 * (y % (sh.n / 64)) + e % 64
            dotBlocks (fbMode a.fb) (blockLen a.fb) pos
              (fun k => aElem a sh x.toNat row k * bElem a sh (fun i => (mget (s.team tid).win (mIn tid s m + i)).toNat) col k)
              (fun j => (((a.sa.head?.map (·.bytes)).getD []).getD (j * sh.m + row) 0).toNat)
              (fun j => (((a.sb.head?.map (·.bytes)).getD []).getD (j * sh.n + col) 0).toNat) (effK sh a.fb)
              (aget 0 e (a.tile (z.toNat + y)).sums, zAt a (z.toNat + y) e, 0)
          (∀ y < sh.c, ∀ e < 4096, zAt b (z.toNat + y) e = (dot y e).2.1 ∧
            (after ≠ 0 → aget 0 e (b.tile (z.toNat + y)).sums = (dot y e).1)) ∧
          ∀ i < 32, b.mstat.getLsbD i = true ↔ a.mstat.getLsbD i = true ∨ ∃ y < sh.c, ∃ e < 4096, (dot y e).2.2.testBit i = true))) ∧
  (∀ (acc : Word) (S : Int) (ea eb : Nat),
    blockInto 1 acc S ea eb = (BitVec.ofInt 32 (max (-(2 ^ 31 : Int)) (min (2 ^ 31 - 1) (acc.toInt + S))),
      if acc.toInt + S < -(2 ^ 31) ∨ 2 ^ 31 - 1 < acc.toInt + S then 1 else 0) ∧
    (ea = 0xFF ∨ eb = 0xFF → blockInto 0 acc S ea eb = (0x7FC0_0000, 2)) ∧
    (ea ≠ 0xFF → eb ≠ 0xFF → blockInto 0 acc 0 ea eb = (acc, 0)) ∧
    (ea ≠ 0xFF → eb ≠ 0xFF → S ≠ 0 → blockInto 0 acc S ea eb = (BitVec.ofNat 32 (fAdd f32 0 false (unpack f32 false acc.toNat)
      (.fin (decide (S < 0)) S.natAbs ((ea : Int) + eb - 254))).1, 0))) ∧
  (∀ (mode L p : Nat) (ab : Nat → Int) (ea eb : Nat → Nat) (k : Nat) (st : Int × Word × Nat),
    dotBlocks mode L p ab ea eb 0 st = st ∧
    ∀ (P : Int) (acc : Word) (ms : Nat), dotBlocks mode L p ab ea eb k st = (P, acc, ms) →
      dotBlocks mode L p ab ea eb (k + 1) st = if (p + k + 1) % L ≠ 0 then (P + ab k, acc, ms) else
        let r := blockInto mode acc (P + ab k) (ea ((p + k + 1) / L - 1)) (eb ((p + k + 1) / L - 1))
        (0, r.1, Nat.lor ms r.2)) ∧
  (∀ (mode L p : Nat) (ab : Nat → Int) (ea eb : Nat → Nat) (K : Nat) (P : Int) (acc : Word), 0 < L → p + K < L →
    dotBlocks mode L p ab ea eb K (P, acc, 0) = (P + ((List.range K).map ab).sum, acc, 0))

/-- R184 to R186, R98, R100, R180: the instructions that a matrix stream shares with groups: NOP, BAR, RTAKE, RDONE and EXIT. -/
def Obligations.StreamsRunTheirGeneralInstructions : Prop :=
  StreamRunsIf .nop (fun _ _ => True) (fun x => x) ∧
  (∀ w : BitVec 13, StreamFaultsIf (.nopRadish w) (fun _ _ => True) (fun _ _ => flt 3 0)) ∧
  (∀ i : BitVec 4,
    let b := fun (tid : Nat) (s : State) => s.bar tid 0 i.toNat
    let fresh := fun (tid : Nat) (s : State) => ∀ a c p, (s.str tid).wait ≠ .phase a c p
    StreamFaultsIf (.bar 0 i) (fun tid s => fresh tid s ∧ streamMember tid ∉ (b tid s).members) (fun _ _ => flt 3 1) ∧
    StreamWaitsIf (.bar 0 i) (fun tid s => fresh tid s ∧ streamMember tid ∈ (b tid s).members ∧ (s.str tid).busy = true) (fun _ _ => .matrix) ∧
    StreamDoesIf (.bar 0 i) (fun tid s => fresh tid s ∧ streamMember tid ∈ (b tid s).members ∧ (s.str tid).busy = false ∧
        (streamMember tid, (b tid s).phase) ∉ (b tid s).pend ∧ (b tid s).gone = []) (fun tid s t =>
      t.mem = s.mem ∧
      if (b tid s).expect ≤ (b tid s).arrived + 1 then (b tid t).phase = (b tid s).phase + 1 ∧ (b tid t).arrived = 0 ∧ (t.str tid).pc = (s.str tid).pc + 4
      else (b tid t).phase = (b tid s).phase ∧ (b tid t).arrived = (b tid s).arrived + 1 ∧ (t.str tid).pc = (s.str tid).pc ∧
        (t.str tid).wait = .phase 0 i.toNat (b tid s).phase)) ∧
  (∀ d a : SReg, d.toNat < 16 → a.toNat < 16 →
    let off := fun (tid : Nat) (s : State) => (aget 0 a.toNat (s.str tid).m).toNat
    let rg := fun (tid : Nat) (s : State) => s.ring tid (off tid s)
    let ok := fun (tid : Nat) (s : State) => a.toNat ∉ (s.str tid).mpois ∧ off tid s % 32 = 0 ∧ off tid s + 32 ≤ (s.team tid).winSize ∧
      winPois (s.team tid) (off tid s) 32 = false ∧ (rg tid s).ok (s.team tid).winSize = true ∧
      winPois (s.team tid) ((rg tid s).slot (rg tid s).tail + 4) 4 = false ∧ (s.str tid).wait ≠ .closed
    StreamDoesIf (.rtake d a) (fun tid s => a.toNat ∉ (s.str tid).mpois ∧ (s.str tid).wait = .closed) (fun tid s t =>
      (t.str tid).pc = (s.str tid).pc + 4 ∧ (t.str tid).mreg d.toNat = 0xFFFF_FFFF ∧ t.mem = s.mem ∧ (t.str tid).taken = (s.str tid).taken) ∧
    StreamDoesIf (.rtake d a) (fun tid s => ok tid s ∧ (∀ o k n, (s.str tid).wait ≠ .ring o k n) ∧ s.slotState tid (rg tid s) (rg tid s).tail = 2 ∧
        ringFirst s tid (off tid s) true s.nextUnit = true) (fun tid s t =>
      (t.str tid).pc = (s.str tid).pc + 4 ∧ (t.str tid).mreg d.toNat = (rg tid s).slot (rg tid s).tail % 2 ^ 32 ∧ t.mem = s.mem ∧
      ((rg tid s).slot (rg tid s).tail ≠ 0xFFFF_FFFF → (t.str tid).taken = (s.str tid).taken ++ [(off tid s, (rg tid s).slot (rg tid s).tail)])) ∧
    StreamDoesIf (.rtake d a) (fun tid s => ok tid s ∧ (∀ o k n, (s.str tid).wait ≠ .ring o k n) ∧ s.slotState tid (rg tid s) (rg tid s).tail ≠ 2 ∧
        (rg tid s).closed = false) (fun tid s t => (t.str tid).pc = (s.str tid).pc ∧ (t.str tid).wait = .ring (off tid s) true s.nextUnit) ∧
    (∀ j : Nat, StreamDoesIf (.rdone d a) (fun tid s =>
        let o := (aget 0 d.toNat (s.str tid).m).toNat
        let r := s.ring tid o
        d.toNat ∉ (s.str tid).mpois ∧ a.toNat ∉ (s.str tid).mpois ∧ o % 32 = 0 ∧ o + 32 ≤ (s.team tid).winSize ∧
        winPois (s.team tid) o 32 = false ∧ r.ok (s.team tid).winSize = true ∧
        r.index (off tid s) = some j ∧ winPois (s.team tid) (off tid s + 4) 4 = false ∧ s.slotState tid r j = 3) (fun tid s t =>
      (t.str tid).pc = (s.str tid).pc + 4 ∧ t.mem = s.mem ∧ (t.str tid).m = (s.str tid).m ∧
      (t.str tid).taken = (s.str tid).taken.erase ((aget 0 d.toNat (s.str tid).m).toNat, off tid s)))) ∧
  StreamDoesIf .exitFrag (fun tid s => (s.team tid).resident = true ∧ ∃ g ∈ (s.team tid).groups, (s.grp g).live = true) (fun tid s t =>
    (t.str tid).live = false ∧ (t.str tid).busy = false ∧ t.mem = s.mem ∧ (t.team tid).resident = true)

/-! ### Steps of the device: results that come back, and who issues next -/

namespace Sys2Proof.Machine

/-- The registers that an operation of the load queue writes as it returns: file 0 lane registers, file 1 scalar registers. -/
def destRegs (op : LoadOp) : List (Nat × Nat) :=
  match op.kind, op.dst with
  | .pfetch, _ => []
  | .locate, _ => []
  | _, none => []
  | k, some (f, d) =>
    if f = 1 then [(1, d)]
    else (List.range (match k with | .load true => 1 | _ => regsOf op.ty)).map fun i => (0, d + i)
/-- A load that one lane makes to one 32-bit register, or none longer. -/
def oneLane (op : LoadOp) (a : LaneAcc) (ext : Bool) (d : Nat) : Prop :=
  op.accs = [a] ∧ op.opv = [] ∧ op.kind = .load ext ∧ op.dst = some (0, d) ∧ (ext = true ∨ regsOf op.ty = 1)
/-- The register of a 32-bit load from the bytes read. -/
def loadedReg (ext : Bool) (ty v : Nat) : Nat := if ext then ldxReg ty v else regOfMem ty v
/-- A byte that a write of one of an operation's accesses covers. -/
def opCovers (s : State) (op : StoreOp) (k : Nat) : Prop :=
  ∃ a ∈ op.accs, ∃ w ∈ s.ord.writes, w.node = a.node ∧ w.covers k = true
/-- No copy has claimed a line of some accesses (R172, R242). -/
def unclaimed (s : State) (accs : List LaneAcc) : Prop :=
  ∀ c ∈ s.copies, ∀ line held, c.2.claim = some (line, held) → ∀ a ∈ accs, a.pa / 128 ≠ line
/-- The oldest operation of the load queue returns whole now: a load whose bytes no earlier atomic has yet to write (R250), an atomic
whose turn in its chain has come (R147, R254), neither at a line parked for others (R154) or claimed by a copy (R172); any other
operation at once. By an odd choice a load finds a claimed line, and an atomic at device or system scope performs one lane (R156). -/
def returnsNow (s : State) (g ch : Nat) (op : LoadOp) : Prop :=
  match op.kind with
  | .load _ => loadMay s op = true ∧ lateExcl s g op.accs = 0 ∧ (ch % 2 = 1 → unclaimed s op.accs)
  | .atomic _ => atomicMay s (s.grp g) op = true ∧ (op.sc ≤ 3 → lateExcl s g op.accs = 0) ∧ unclaimed s op.accs ∧ (4 ≤ op.sc → ch % 2 = 0)
  | _ => True
/-- A store performs whole now: what it follows has come (R147, R243, R252), no copy has claimed a line of it, a plain store finds none
parked for others, and no access that could no longer fault is on its way to a line that it parks (log 51); by an odd choice a reduction at device or system scope performs one lane (R156). -/
def performsNow (s : State) (g ch : Nat) (op : StoreOp) : Prop :=
  storeMay s (s.grp g) op = true ∧ unclaimed s op.accs ∧ parksLater s (s.asidOf (s.grp g)) op = false ∧
    match op.kind with
    | .store => lateExcl s g op.accs = 0
    | .red _ => 4 ≤ op.sc → ch % 2 = 0
    | _ => True
/-- What a step of a queue leaves of its group: every register but those named, predicates, special registers, the other queues. -/
def QueueKept (s t : State) (g : Nat) (dest : List (Nat × Nat)) : Prop :=
  (t.grp g).p = (s.grp g).p ∧ SameSpecials (s.grp g) (t.grp g) ∧ (t.grp g).tiles = (s.grp g).tiles ∧
  (∀ r, (0, r) ∉ dest → (t.grp g).vreg r = (s.grp g).vreg r) ∧ ∀ k, (1, k) ∉ dest → (t.grp g).sreg k = (s.grp g).sreg k

/-- R47, R94, R149, R155: LOAD_RESULT_RETURN completes: the oldest operation leaves the queue, its destination is not pending, and no
other register, nor memory but for an atomic, changes. -/
def LoadResultReturnCompletes : Prop :=
  ∀ (s : State) (g ch : Nat) (op : LoadOp) (rest : List LoadOp), (s.grp g).loads = op :: rest → returnsNow s g ch op →
    ∃ t, exec (.loadResultReturn g ch) s = .next t ∧ (t.grp g).loads = rest ∧ (t.grp g).stores = (s.grp g).stores ∧
      QueueKept s t g (destRegs op) ∧ (∀ x ∈ destRegs op, (t.grp g).isPend x.1 x.2 = false) ∧
      ((∀ a, op.kind ≠ .atomic a) → (s.grp g).exited = false → t.mem = s.mem)

/-- R47, R94, R149, R243: STORE_ACK completes: the store leaves the queue, no register changes, and no byte that it does not write. -/
def StoreAckCompletes : Prop :=
  ∀ (s : State) (g ix ch : Nat) (op : StoreOp), (s.grp g).stores[ix]? = some op → performsNow s g ch op →
    ∃ t, exec (.storeAck g ix ch) s = .next t ∧ (t.grp g).stores = (s.grp g).stores.filter (fun x => x.seq != op.seq) ∧
      (t.grp g).loads = (s.grp g).loads ∧ SameRegs (s.grp g) (t.grp g) ∧ QueueKept s t g [] ∧
      ((∀ a, op.kind ≠ .red a) → (s.grp g).exited = false → ∀ k, ¬opCovers s op k → t.byte k = s.byte k)

/-- A fragment that has waited 256 cycles for an issue slot (R281). -/
def Frag.waitedLong (f : Frag) : Prop := f.promoted = true ∨ 256 ≤ f.age
/-- An issue slot of a core may take a fragment: the core has a slot left in its cycle, no slot of the cycle has taken it, and throttling
does not withhold its next instruction (R281, R347, log 96). -/
def mayTake (s : State) (core : Nat) (a : Nat × Nat) : Prop :=
  (takenNow s core).length < slotsOf core ∧ a ∉ takenNow s core ∧ (withholds s core = true → throttledOp (nextOp s a) = false)
/-- a is taken before b by an issue slot, or with it: promoted fragments first, longest ready first among them; else the smaller
class, and in a class the longer ready (R281). -/
def goesFirst (s : State) (a b : Nat × Nat) : Prop :=
  let f := (s.grp a.1).frag a.2
  let h := (s.grp b.1).frag b.2
  (f.waitedLong → h.waitedLong → h.age ≤ f.age) ∧
  (¬f.waitedLong → ¬h.waitedLong ∧ (s.grp a.1).prio ≤ (s.grp b.1).prio ∧ ((s.grp a.1).prio = (s.grp b.1).prio → h.age ≤ f.age))
/-- The 64 KiB pages of a tile operation. -/
def TileOp.pages (op : TileOp) (p : Nat) : Bool := decide (op.va / 65536 ≤ p) && decide (p < op.va / 65536 + op.n)
/-- A tile operation cannot be served yet: a FREE whose release waits (R166), a PDECOMMIT with an access by an old translation under
way (R299). -/
def tileWaits (s : State) (g : Nat) (op : TileOp) : Prop :=
  freeWaits (s.grp g) op = true ∨ (op.op = 0xC1 ∧ unperformed s (s.asidOf (s.grp g)) op.pages = true)
/-- The piece of a copy that begins at its next unit. -/
def nextPiece (s : State) (cp : Copy) : Nat := pieceEnd s (s.asidOf (s.grp cp.gid)) cp (cp.total - cp.done) cp.done none
/-- Nothing holds a copy's reads, and no source of its piece is poisoned. -/
def undisturbed (s : State) (c : Nat) (cp : Copy) : Prop :=
  (∀ x ∈ s.copies, x.1 ≠ c → x.2.claim = none) ∧ cp.next = none ∧ unitsPois s cp cp.left = false
/-- A piece of a copy is under way. -/
def midPiece (s : State) (c : Nat) (cp : Copy) : Prop :=
  afind c s.copies = some cp ∧ cp.fin = false ∧ cp.done < cp.stop ∧ cp.left ≠ []
/-- The offset of a copy's box in the window. -/
def Copy.lo (cp : Copy) : Nat := (cp.cmd.getD 0 0).toNat
/-- Byte i of unit u of a loading copy: zero out of bounds, else the byte of memory at its element's address (R170, R171). -/
def loadedByte (s : State) (cp : Copy) (u i : Nat) : Byte :=
  match ((cp.unit u)[i / cp.el]?).bind fun e => e.src with
  | none => 0
  | some va => if s.foreign (s.asidOf (s.grp cp.gid)) (cp.key va false) = true then 0 else s.byte (cp.key va false + i % cp.el)
/-- The bytes of memory that unit u is loaded from have no write in the ordering state. -/
def unitSettled (s : State) (cp : Copy) (u : Nat) : Prop := ∀ e ∈ cp.unit u, ∀ b ∈ cp.srcBytes e, ∀ w ∈ s.ord.writes, w.covers b.key = false
/-- A byte of a team's window is not of a barrier at which a copy's units arrive. -/
def noArrivalAt (cp : Copy) (tid a : Nat) : Prop := ∀ q ∈ cp.dests, q.1 = tid → ∀ b, q.2 = some b → a < b.1 ∨ b.1 + 16 ≤ a
/-- The elements that a storing copy has still to write on a line, each with where it goes. -/
def onLine (cp : Copy) (line : Nat) (x : Elem × Nat) : Prop := x ∈ cp.todo ∧ x.2 / 128 = line
/-- Byte i of what a storing copy writes for an element: its source's, or what its CHAIN makes of the source (R175). -/
def storedByte (s : State) (cp : Copy) (e : Elem) (i : Nat) : Byte :=
  let tid := (s.grp cp.gid).team
  let src := (cp.storeSrc tid e).map fun b => if s.foreign (s.asidOf (s.grp cp.gid)) b.key = true then 0 else s.peek b.key
  if cp.chain = true then (natLe cp.el (chainElem cp (leNat src))).getD i 0 else src.getD i 0
/-- The sources of a line's elements have no write in the ordering state and lie apart from what the line receives. -/
def lineSettled (s : State) (cp : Copy) (line : Nat) : Prop :=
  ∀ x, onLine cp line x → ∀ b ∈ cp.storeSrc (s.grp cp.gid).team x.1, (∀ w ∈ s.ord.writes, w.covers b.key = false) ∧
    ∀ y, onLine cp line y → b.key < y.2 ∨ y.2 + cp.el ≤ b.key
/-- What checking the addresses of that piece finds. -/
def nextCheck (s : State) (cp : Copy) : PieceRes :=
  checkPiece s (s.asidOf (s.grp cp.gid)) cp.core (pieceAccs cp cp.done (nextPiece s cp - cp.done)) []

end Sys2Proof.Machine

/-- R47, R94, R149, R150, R243, R250: LOAD_RESULT_RETURN and STORE_ACK complete; the oldest load writes its destination; each byte it
returns is one that the ordering rules allow; a load that must wait changes nothing; a store that performs leaves its bytes. That
STORE_ACK performs a store and acknowledges it in one step is the model's choice (log 10). -/
def Obligations.LoadsAndStoresComplete : Prop :=
  LoadResultReturnCompletes ∧ StoreAckCompletes ∧
  (∀ g ch, Happens (.loadResultReturn g ch) (fun s => (s.grp g).loads = []) fun s t => t = s) ∧
  (∀ g ch op rest ext, op.kind = .load ext → Happens (.loadResultReturn g ch)
    (fun s => (s.grp g).loads = op :: rest ∧ loadMay s op = false) fun s t => t = s) ∧
  (∀ g ch op rest a ext d, oneLane op a ext d → Happens (.loadResultReturn g ch)
      (fun s => (s.grp g).loads = op :: rest ∧ returnsNow s g ch op) fun s t =>
    (t.grp g).v = ((s.grp g).putV d (maskOf fun l => l == a.lane) fun _ =>
      BitVec.ofNat 32 (loadedReg ext op.ty (loadLane (touchLines s g op.accs) g op a (ch / 2)).2.1)).v) ∧
  (∀ (s : State) node agent b n pl acq strong ch, ∀ p ∈ (loadCands s node agent b n pl acq strong ch).1,
    let at_ : ByteRef := ⟨p.1, b.va + (p.1 - b.key)⟩
    p.2 ∈ candidates s node agent at_ pl acq ∨ candidates s node agent at_ pl acq = []) ∧
  (∀ g ix ch op a w, Happens (.storeAck g ix ch)
      (fun s => (s.grp g).stores[ix]? = some op ∧ performsNow s g ch op ∧ (s.grp g).exited = false ∧ op.kind = .store ∧
        op.accs = [a] ∧ s.portFailed a.pa = false ∧ (s.ord.writes.find? fun x => x.node == a.node && !x.done) = some w ∧
        w.addr < 2 ^ 70) fun s t =>
    ∀ k, w.covers k = true → t.byte k = w.byteAt k)

/-- R48, R96, R145, R163 to R166, R170 to R172, R175, R177, R198, R281: what Tuber, the object table, the special-function queue and a
copy bring back, with the bytes that a step of a copy moves and all that it leaves; the locate fault; the ends of SNOOZE and YIELD;
promotion, and the fragment that an issue slot takes. Where a unit stands among a copy's steps and the order of its lines are the
device's (logs 30, 31), the wait for the table's answer is inferred (log 55), and what a throttled core withholds is log 96. -/
def Obligations.QueuesAnswerAndSlotsIssue : Prop :=
  (∀ g ch op rest, Happens (.tuberAnswer g ch) (fun s => (s.grp g).tiles = op :: rest ∧ ¬tileWaits s g op) fun s t =>
    (t.grp g).tiles = rest ∧ (t.grp g).v = (s.grp g).v ∧ (t.grp g).p = (s.grp g).p ∧
    (op.op = 0xC0 ∨ op.op = 0xC1 ∨ op.op = 0xC3 → SameRegs (s.grp g) (t.grp g)) ∧
    (op.op = 0xC2 → (t.grp g).isPend 1 (op.dst.getD 0) = false ∧ (t.grp g).isPend 1 (op.dst.getD 0 + 1) = false) ∧
    (op.op = 0xC4 → (t.grp g).isPend 1 (op.dst.getD 0) = false ∧ t.mem = s.mem ∧
      (t.grp g).s = ((s.grp g).putS (op.dst.getD 0) (BitVec.ofNat 32 (queryTile s (s.asidOf (s.grp g)) op.va))).s)) ∧
  (∀ g ch, Happens (.tuberAnswer g ch) (fun s => (s.grp g).tiles = [] ∨ ∃ op ∈ (s.grp g).tiles.head?, tileWaits s g op)
    fun s t => t = s) ∧
  (∀ g op fr, Happens (.objectTableAnswer g) (fun s => (s.grp g).obj = some op ∧ afind op.frag (s.grp g).frags = some fr) fun s t =>
    (t.grp g).obj = none ∧ ((t.grp g).frag op.frag).pc = fr.pc + (if s.radOf (s.grp g) = true then 8 else 4) ∧
    (t.grp g).retired = (s.grp g).retired + 1 ∧
    (op.del = true → SameRegs (s.grp g) (t.grp g) ∧ t.objs = adel op.num s.objs) ∧
    (op.del = false → t.objs = (objDefine s (s.asidOf (s.grp g)) op).1.objs ∧
      (t.grp g).s = ((s.grp g).putS op.dst (objDefine s (s.asidOf (s.grp g)) op).2).s)) ∧
  (∀ g r rest, Happens (.sfuResultWrite g) (fun s => (s.grp g).sfu = r :: rest) fun s t =>
    t.grp g = ({ s.grp g with sfu := rest }).applySfu r ∧ t.mem = s.mem) ∧
  (∀ g f h, Happens (.locateFaultDetect g f) (fun s => afind f (s.grp g).held = some h ∧ ((s.grp g).frag f).wait = .locate f ∧
      faultsNow (s.grp g) f = true ∧ ∀ k ∈ h.keys, excluded s k (s.coreOf (s.grp g)) (s.asidOf (s.grp g)) = true) fun s t =>
    ∃ u : State, (u.grp g).held = adel f (s.grp g).held ∧ SameRegs (s.grp g) (u.grp g) ∧ u.mem = s.mem ∧
      t = takeFault u g f (fltL 7 0 h.ea true h.excl) h.excl) ∧
  (∀ c n ch cp, Happens (.copyPieceTransfer c n ch) (fun s => midPiece s c cp ∧ cp.left.Nodup ∧ undisturbed s c cp)
    fun s t => (t.copy c).done + (t.copy c).left.length = cp.done + cp.left.length ∧ (n = 0 → (t.copy c).left = []) ∧
      (n ≠ 0 → cp.stores = false → (t.copy c).done = cp.done + min n cp.left.length) ∧
      ((t.copy c).fin = true ↔ (t.copy c).done = cp.total)) ∧
  (∀ c ch cp, Happens (.copyPieceTransfer c 1 ch) (fun s => midPiece s c cp ∧ undisturbed s c cp ∧ cp.stores = false ∧ cp.scale = none ∧
      (∀ u ∈ cp.left, cp.lo + 16 * u + 16 ≤ 2 ^ 33) ∧ ∀ q ∈ cp.dests, ∀ b, q.2 = some b → b.1 + 16 ≤ 2 ^ 33)
    fun s t => ∃ u ∈ cp.left, (t.copy c).left = cp.left.filter (· != u) ∧ t.mem = s.mem ∧
      (unitSettled s cp u → ∀ q ∈ cp.dests, (s.team q.1).alive = true → ∀ i < 16, noArrivalAt cp q.1 (cp.lo + 16 * u + i) →
        mget (t.team q.1).win (cp.lo + 16 * u + i) = loadedByte s cp u i) ∧
      ∀ tid a, noArrivalAt cp tid a → ((∃ q ∈ cp.dests, q.1 = tid) → a < cp.lo + 16 * u ∨ cp.lo + 16 * u + 16 ≤ a) →
        mget (t.team tid).win a = mget (s.team tid).win a) ∧
  (∀ c ch cp, Happens (.copyPieceTransfer c 1 ch) (fun s => midPiece s c cp ∧ undisturbed s c cp ∧ cp.stores = true ∧ cp.claim = none ∧ cp.lines ≠ [])
    fun s t => ∃ line ∈ cp.lines, (t.copy c).claim = some (line, []) ∧ t.parkOf (line * 128) = none ∧ t.mem = s.mem ∧ t.teams = s.teams) ∧
  (∀ c ch cp line held, Happens (.copyPieceTransfer c 1 ch)
      (fun s => midPiece s c cp ∧ undisturbed s c cp ∧ cp.stores = true ∧ cp.claim = some (line, held) ∧ line < 2 ^ 60)
    fun s t => (t.copy c).claim = none ∧
      (∀ k, (∀ x, onLine cp line x → k < x.2 ∨ x.2 + cp.el ≤ k) → t.byte k = s.byte k) ∧
      (lineSettled s cp line → s.foreign (s.asidOf (s.grp cp.gid)) (line * 128) = false → s.portFailed (line * 128) = false →
        ∀ x, onLine cp line x → ∀ k, x.2 ≤ k → k < x.2 + cp.el →
          ∃ y, onLine cp line y ∧ y.2 ≤ k ∧ k < y.2 + cp.el ∧ t.byte k = storedByte s cp y.1 (k - y.2))) ∧
  (∀ c n ch cp, Happens (.copyPieceTransfer c n ch) (fun s => midPiece s c cp ∧ unitsPois s cp cp.unread = true)
    fun s t => (t.copy c).fin = true ∧ (t.copy c).code = 1 ∧ (t.copy c).done = cp.start ∧ t.mem = s.mem) ∧
  (∀ c ch cp tr, Happens (.copyPieceTransfer c 0 ch)
      (fun s => afind c s.copies = some cp ∧ cp.fin = false ∧ cp.stop ≤ cp.done ∧ nextCheck s cp = .ok tr ∧ cp.claim = none ∧
        undisturbed s c { cp with pieces := tr, left := (List.range (nextPiece s cp - cp.done)).map (cp.done + ·) } ∧
        ∀ a ∈ pieceAccs cp cp.done (nextPiece s cp - cp.done),
          (a.2 = .read → blocked s cp.node ({ cp with pieces := tr }.key a.1 false) 8 = false) ∧
          (a.2 = .write → s.collapsing (s.asidOf (s.grp cp.gid)) a.1 = false))
    fun s t => (t.copy c).done = cp.done + (nextPiece s cp - cp.done) ∧ ((t.copy c).fin = true ↔ (t.copy c).done = cp.total)) ∧
  (∀ c n ch cp code, Happens (.copyPieceTransfer c n ch)
      (fun s => afind c s.copies = some cp ∧ cp.fin = false ∧ cp.stop ≤ cp.done ∧ nextCheck s cp = .fail code)
    fun s t => (t.copy c).fin = true ∧ (t.copy c).code = code ∧ (t.copy c).done = cp.done) ∧
  (∀ c cp, Happens (.copyComplete c) (fun s => afind c s.copies = some cp ∧ cp.fin = true ∧ cp.ended = false ∧ scaleReady s cp = true)
    fun s t => (t.copy c).ended = true ∧ (t.grp cp.gid).isPend 1 cp.dst = false ∧
      (t.grp cp.gid).s = ((s.grp cp.gid).putS cp.dst cp.status).s ∧ ((s.grp cp.gid).exited = false → t.mem = s.mem)) ∧
  (∀ g f fr since n, Happens (.snoozeExpiry g f) (fun s => afind f (s.grp g).frags = some fr ∧ fr.wait = .snooze since n ∧
      since + n ≤ s.coreCyc (s.coreOf (s.grp g))) fun s t =>
    ((t.grp g).frag f).wait = .run ∧ ((t.grp g).frag f).pc = fr.pc ∧ SameRegs (s.grp g) (t.grp g)) ∧
  (∀ g f fr since others, Happens (.yieldExpiry g f) (fun s => afind f (s.grp g).frags = some fr ∧ fr.wait = .yield since others ∧
      (since + 64 ≤ s.coreCyc (s.coreOf (s.grp g)) ∨ ∀ o ∈ others, ready s o.1 o.2 = false)) fun s t =>
    ((t.grp g).frag f).wait = .run ∧ ((t.grp g).frag f).pc = fr.pc + (if s.radOf (s.grp g) = true then 8 else 4) ∧
    SameRegs (s.grp g) (t.grp g)) ∧
  (∀ g f, Happens (.issueAgePromotion g f) (fun s => ready s g f = true ∧ 256 ≤ ((s.grp g).frag f).age) fun s t =>
    ((t.grp g).frag f).promoted = true) ∧
  (∀ core ch, Happens (.issueSlot core false ch) (fun s => (∃ b ∈ readyOn s core, mayTake s core b) ∧ ∀ b ∈ readyOn s core, (s.grp b.1).prio ≤ 3) fun s t =>
    ∃ a ∈ readyOn s core, mayTake s core a ∧ t.cur = some (.frag a.1 a.2) ∧ (∀ b ∈ readyOn s core, mayTake s core b → goesFirst s a b) ∧
      a ∈ takenNow t core ∧ t.mem = s.mem ∧ ∀ g, SameRegs (s.grp g) (t.grp g)) ∧
  (∀ core ch, Happens (.issueSlot core false ch) (fun s => ∀ b ∈ readyOn s core, ¬mayTake s core b) fun s t =>
    t.cur = s.cur ∧ t.groups = s.groups ∧ t.mem = s.mem) ∧
  (∀ s core, (s.mod.throt = false → withholds s core = false) ∧
    (3 ≤ coreCycle s core → (∀ i ∈ [1, 2, 3], coreCycle s core - i ∈ (s.core core).slow) →
      coreCycle s core ∉ (s.core core).slow → withholds s core = false)) ∧
  (∀ core ch tid, Happens (.issueSlot core true ch) (fun s => ∃ x, (tid, x) ∈ s.teams ∧ x.core = core ∧ streamReady s tid = true) fun s t =>
    ∃ u, t = { s with cur := some (.stream u) } ∧ streamReady s u = true ∧ ∃ x, (u, x) ∈ s.teams ∧ x.core = core) ∧
  (∀ tid x, Happens (.mmaComplete tid) (fun s => (s.team tid).stream = some x) fun s t =>
    t.str tid = { x with busy := false } ∧ t.groups = s.groups ∧ t.mem = s.mem)

/-! ### Loops, links, storage errors and the collapse of duplicated pages -/

namespace Sys2Proof.Machine

/-- A node's queues as a slot passes: older by a cycle when it is the first slot abreast, the offered packet taken in. -/
def nodeAtPass (s : State) (l n k : Nat) (offer : Option (Nat × Bool × Nat)) : Node :=
  let y := if k = 0 then ((s.loop l).node n).older else (s.loop l).node n
  match offer with
  | some o => y.enqueue (Pkt.new n o)
  | none => y
/-- A slot passes a node of a loop that works, and what the node is offered has a destination on the loop (R12, R285). -/
def passes (l n sl k : Nat) (offer : Option (Nat × Bool × Nat)) (s : State) : Prop :=
  passOk l n sl k = true ∧ (s.link (24 + l)).failed = false ∧ ∀ o, offer = some o → o.2.2 < hopsOf l
/-- A sender keeps a packet that has not been acknowledged (R319). -/
def awaitsAck (s : State) (l src id : Nat) : Prop := ∃ u ∈ (s.link l).unacked, u.src = src ∧ u.id = id
/-- A packet as it leaves its node. -/
def injected (p : Pkt) : Pkt := { p with age := 0, promoted := false, resv := none, arrivals := 0 }
/-- Nothing of a loop but one node and one slot has changed, and no other loop. -/
def OtherNodesKept (s t : State) (l n : Nat) : Prop :=
  (∀ m, m ≠ n → (t.loop l).node m = (s.loop l).node m) ∧ ∀ m, m ≠ l → t.loop m = s.loop m
/-- A node once a packet that node n of loop l has taken in has left the ejection buffer that it came to (R284). -/
def without (s : State) (l n : Nat) (offer : Option (Nat × Bool × Nat)) (y : Node) : Node :=
  match offer with
  | some o => if ((s.loop l).node n).room o.2.1 = true then { y with ejected := y.ejected.filter (· != o.1) } else y
  | none => y
/-- As OtherNodesKept, but that the offered packet has left its ejection buffer. -/
def OtherNodesPass (s t : State) (l n : Nat) (offer : Option (Nat × Bool × Nat)) : Prop :=
  (∀ m, m ≠ n → (t.loop l).node m = without s l n offer ((s.loop l).node m)) ∧
  ∀ m, m ≠ l → (t.loop m).slots = (s.loop m).slots ∧ ∀ q, (t.loop m).node q = without s l n offer ((s.loop m).node q)

end Sys2Proof.Machine

/-- R284, R285, R304, R317 to R320: injection by promotion and by turns, ejection and the last chance; what a receiver does with a
packet, good, bad or come twice, on a loop and on a link; the packet that is sent again, and the ninth timeout that fails a link; where a
storage error leaves its mark; the steps of a collapse. One reservation a slot, which of equally old packets goes first and the numbering
of loops (log 72), loops as links with a loop's clock and the ninth timeout (log 73), what a corrected error leaves (log 109), and the
collapse's answer (log 71) are the model's own. -/
def Obligations.LoopsLinksErrorsAndCollapse : Prop :=
  (∀ l n, Happens (.packetAgePromotion l n) (fun _ => True) fun s t => OtherNodesKept s t l n ∧
    ∀ p ∈ ((t.loop l).node n).queued, 512 ≤ p.age → p.promoted = true) ∧
  (∀ l n sl k offer, Happens (.loopSlotPass l n sl k offer) (fun s => ¬passes l n sl k offer s) fun s t => t = s) ∧
  (∀ l n sl k offer p, Happens (.loopSlotPass l n sl k offer)
      (fun s => passes l n sl k offer s ∧ ((s.loop l).slot sl).pkt = some p) fun s t =>
    ((t.loop l).slot sl).pkt = some p ∧ t.links = s.links ∧ OtherNodesPass s t l n offer) ∧
  (∀ l n sl k offer, Happens (.loopSlotPass l n sl k offer)
      (fun s => passes l n sl k offer s ∧ ((s.loop l).slot sl) = Slot.empty ∧ (nodeAtPass s l n k offer).oldest ≠ []) fun s t =>
    ∃ p ∈ (nodeAtPass s l n k offer).oldest, ((t.loop l).slot sl).pkt = some (injected p) ∧ awaitsAck t (24 + l) n p.id) ∧
  (∀ l n sl k offer p r, Happens (.loopSlotPass l n sl k offer)
      (fun s => passes l n sl k offer s ∧ ((s.loop l).slot sl) = Slot.empty ∧ (nodeAtPass s l n k offer).oldest = [] ∧
        (if (nodeAtPass s l n k offer).turn = 4 then (nodeAtPass s l n k offer).bulk ++ (nodeAtPass s l n k offer).urgent
         else (nodeAtPass s l n k offer).urgent ++ (nodeAtPass s l n k offer).bulk) = p :: r) fun s t =>
    ((t.loop l).slot sl).pkt = some (injected p) ∧ ((t.loop l).node n).turn = ((nodeAtPass s l n k offer).turn + 1) % 5 ∧
    awaitsAck t (24 + l) n p.id) ∧
  (∀ l sl full crcOk acked p, Happens (.packetArrival l sl ⟨full, crcOk, acked⟩) (fun s => ((s.loop l).slot sl).pkt = some p) fun s t =>
    let had := (p.src, p.id) ∈ (s.link (24 + l)).accepted
    let taken := (p.src, p.id) ∈ (t.link (24 + l)).accepted ∧ (acked = true → ¬awaitsAck t (24 + l) p.src p.id)
    (crcOk = false → ((t.loop l).slot sl).pkt = none ∧ (t.loop l).nodes = (s.loop l).nodes ∧ t.links = s.links) ∧
    (crcOk = true → had → ((t.loop l).slot sl).pkt = none ∧ (t.loop l).nodes = (s.loop l).nodes ∧ taken) ∧
    (crcOk = true → ¬had → full = false → ((t.loop l).slot sl).pkt = none ∧ p.id ∈ ((t.loop l).node p.dest).ejected ∧ taken) ∧
    (crcOk = true → ¬had → full = true → p.arrivals < 2 →
      ((t.loop l).slot sl).pkt = some { p with arrivals := p.arrivals + 1 } ∧ t.links = s.links) ∧
    (crcOk = true → ¬had → full = true → 2 ≤ p.arrivals → ((t.loop l).slot sl).pkt = none ∧ taken ∧
      (if p.bulk = true then ((t.loop l).node p.dest).lastB else ((t.loop l).node p.dest).lastU) = some p)) ∧
  (∀ l n bulk p, Happens (.lastChanceDrain l n bulk)
      (fun s => (if bulk = true then ((s.loop l).node n).lastB else ((s.loop l).node n).lastU) = some p) fun s t =>
    (if bulk = true then ((t.loop l).node n).lastB else ((t.loop l).node n).lastU) = none ∧
    p.id ∈ ((t.loop l).node n).ejected ∧ OtherNodesKept s t l n) ∧
  (∀ l src pkt crcOk acked, Happens (.flitReceive l ⟨src, pkt⟩ crcOk acked)
      (fun s => (s.link l).failed = true ∨ 24 ≤ l ∨ 2 ≤ src) fun s t => t = s) ∧
  (∀ l src pkt crcOk acked, l < 24 → src < 2 → Happens (.flitReceive l ⟨src, pkt⟩ crcOk acked) (fun s => (s.link l).failed = false) fun s t =>
    (t.link l).accepted = (if crcOk = true ∧ (src, pkt) ∉ (s.link l).accepted then (s.link l).accepted ++ [(src, pkt)] else (s.link l).accepted) ∧
    (crcOk = true → acked = true → ¬awaitsAck t l src pkt) ∧
    (crcOk = false → (src, pkt) ∉ (s.link l).accepted → awaitsAck t l src pkt)) ∧
  (∀ l src pkt u, isLink l = true → Happens (.retransmitTimeout l ⟨src, pkt⟩) (fun s => (s.link l).failed = false ∧
      ((s.link l).unacked.find? fun x => x.src == src && x.id == pkt) = some u ∧ u.sent + 4096 ≤ s.linkCyc l) fun s t =>
    let again := (t.link l).failed = false ∧
      ((t.link l).unacked.find? fun x => x.src == src && x.id == pkt) = some { u with tries := u.tries + 1, sent := s.linkCyc l }
    (8 ≤ u.tries → (t.link l).failed = true ∧ t.irqs = s.irqs + 1 ∧ t.mod.holdc.getLsbD 3 = true) ∧
    (u.tries < 8 → u.pkt = none → again ∧ t.loops = s.loops) ∧
    (u.tries < 8 → ∀ p, u.pkt = some p →
      let y := (s.loop (l - 24)).node src
      (y.room p.bulk = true → (∀ q ∈ y.queued, q.id ≠ p.id) →
        again ∧ ∃ q ∈ ((t.loop (l - 24)).node src).queued, q.id = p.id ∧ q.dest = p.dest ∧ q.age = 0 ∧ q.promoted = false) ∧
      (y.room p.bulk = false ∨ (∃ q ∈ y.queued, q.id = p.id) → t = s))) ∧
  Happens (.eccErrorDetected .corrected) (fun _ => True) (fun s t =>
    t = { s with mod := { s.mod with corr := s.mod.corr + 1 }, log := s.log ++ ["corrected"], irqs := s.irqs + 1 }) ∧
  (∀ g r l, Happens (.eccErrorDetected (.vreg g r l)) (fun s => (s.grp g).live = true ∧ l < 32) fun s t =>
    (t.grp g).vPois r = (s.grp g).vPois r ||| (1#32 <<< l) ∧ SameRegs (s.grp g) (t.grp g)) ∧
  (∀ g r, Happens (.eccErrorDetected (.sreg g r)) (fun s => (s.grp g).live = true ∧ r ≠ 0) fun s t =>
    r ∈ (t.grp g).spois ∧ SameRegs (s.grp g) (t.grp g)) ∧
  (∀ tid r, Happens (.eccErrorDetected (.mreg tid r)) (fun s => (s.str tid).live = true) fun _ t => r ∈ (t.str tid).mpois) ∧
  (∀ tid x w, Happens (.eccErrorDetected (.xword tid x w)) (fun s => (s.str tid).live = true) fun _ t => (x, w) ∈ (t.str tid).xpois) ∧
  (∀ tid z e, Happens (.eccErrorDetected (.zelem tid z e)) (fun s => (s.str tid).live = true) fun _ t => (z, e) ∈ (t.str tid).zpois) ∧
  (∀ tid w, Happens (.eccErrorDetected (.window tid w)) (fun s => (s.team tid).alive = true) fun _ t => w ∈ (t.team tid).wpois) ∧
  (∀ key, Happens (.eccErrorDetected (.line key)) (fun _ => True) fun s t => t.linePois key = true ∧ t.mem = s.mem) ∧
  (∀ die, Happens (.eccErrorDetected (.structure_ die)) (fun _ => True) fun s t =>
    t.irqs = s.irqs + 1 ∧ t.log = s.log ++ ["storage"] ∧ t.mem = s.mem ∧ t.mod.holdc.getLsbD 3 = true) ∧
  (∀ asid va, Happens (.collapseRequest asid va) (fun s => entryAt s asid va = none) fun s t => t = s) ∧
  (∀ asid va pa e level, Happens (.collapseRequest asid va)
      (fun s => entryAt s asid va = some (pa, e, level) ∧ dupOf e ≠ 0 ∧ bits e 56 8 = s.self ∧ devKey s.self pa < 2 ^ 70) fun s t =>
    t.rd (devKey s.self pa) 8 = setDup e 2) ∧
  (∀ asid va pa e level dev frame ch, Happens (.collapseSplit asid va dev frame ch)
      (fun s => entryAt s asid va = some (pa, e, level) ∧ dupOf e ≠ 0 ∧ level = 4 ∧ devKey s.self pa < 2 ^ 70 ∧
        unperformed s asid (fun p => p / 32 == va / 2 ^ 21) = false) fun s t =>
    t.rd (devKey s.self pa) 8 = singleLeaf e dev (if dev = s.self then bits e 16 32 else frame) ∧
    ∀ x ∈ t.tlb, ¬(x.asid = asid ∧ x.page / 32 = va / 2 ^ 21)) ∧
  (∀ asid va pa e level dev frame ch, Happens (.collapseSplit asid va dev frame ch)
      (fun s => entryAt s asid va = some (pa, e, level) ∧ dupOf e ≠ 0 ∧ devKey s.self pa < 2 ^ 70 ∧
        unperformed s asid (fun p => p / 32 == va / 2 ^ 21) = true) fun s t =>
    (dupOf e = 2 → t = s) ∧ (dupOf e ≠ 2 → t.rd (devKey s.self pa) 8 = setDup e 2)) ∧
  (∀ asid va dev failed, Happens (.collapseAck asid va dev failed) (fun _ => True) fun s t =>
    (∀ c ∈ t.collapses, collapseIs asid va c = false) ∧
    (failed = false → dev = s.self → ∀ x ∈ heldIn s asid va, ((t.grp x.1).frag x.2.1).wait = .run))

/-! ### The scheduler's steps and commands -/

namespace Sys2Proof.Machine

/-- An entry of the time-triggered table whose release has come. -/
def ttDue (s : State) (e : Nat) (x : TtEnt) : Prop := afind e s.tt = some x ∧ x.en = true ∧ x.next.toNat ≤ s.time
/-- NEXT of an entry one period later. -/
def TtEnt.later (x : TtEnt) : DWord := x.next + x.period.zeroExtend 64
/-- The wait words of a launch, each with what reading it gives: whether it is satisfied, none where it is not readable (R275). -/
def waitReads (s : State) (l : Launch) : List (Option Bool) := l.waitWords.map fun w =>
  match translate s l.asid w.1 .read 0 with | .ok key _ _ => some (decide (w.2 ≤ leNat (s.shown l.asid key 4))) | _ => none
/-- Role i of a launch is a member of barrier `bit` (R273). -/
def Launch.memberOf (l : Launch) (bit i : Nat) : Bool := Nat.testBit (l.role i 10 4) bit
/-- What a group holds as its team becomes resident: one fragment of all lanes at its role's entry (R38, R42, R273), MODE 0x20 (R25, R43),
the launch's arguments in s1 to s63 (R40), and v registers, predicates, FLAGS and RSET zero (R39, R41, R44, R45). -/
def GroupEntered (l : Launch) (args : List Byte) (tid k role : Nat) (rad : Bool) (pb : DWord) (g : Group) : Prop :=
  g.live = true ∧ g.exited = false ∧ g.team = tid ∧ g.idx = k ∧ g.role = role ∧ g.allot = l.allot role rad ∧
  g.prio = bits (l.role role 8 1) 0 2 ∧ g.pb = pb ∧ g.mode = 0x20 ∧ g.flags = 0 ∧ g.rset = 0 ∧ (∀ r, g.vreg r = zeros32) ∧
  (∀ n, 1 ≤ n → n ≤ 63 → g.sreg n = BitVec.ofNat 32 (field args (256 * role + 4 * n) 4)) ∧ g.sreg 0 = 0 ∧
  (∀ n, 1 ≤ n → n ≤ 7 → g.preg n = 0) ∧ g.loads = [] ∧ g.stores = [] ∧ g.joins = [] ∧ g.inh = false ∧ g.susp = none ∧
  ∃ f, g.frags = [(0, f)] ∧ f.em = 0xFFFF_FFFF ∧ f.pc = l.entry role rad ∧ f.stack = [] ∧ f.wait = .run
/-- What a matrix stream holds at stream entry (R54, Table 3). -/
def StreamEntered (l : Launch) (args : List Byte) (role : Nat) (x : Stream) : Prop :=
  x.live = true ∧ x.pc = l.entry role false ∧ (∀ n, n < 16 → aget 0 n x.m = BitVec.ofNat 32 (field args (256 * role + 4 * n) 4)) ∧
  x.x = [] ∧ x.fb = 0 ∧ x.z = [] ∧ x.tiles = l.fld 67 1 ∧ x.latch = none ∧ x.sa = [] ∧ x.sb = [] ∧ x.mstat = 0 ∧ x.taken = [] ∧ x.wait = .run
/-- A team as it becomes resident on a core: its groups in role order (R273), its window's size, its stream, and each team barrier with
EXPECT the number of its members (R97). -/
def TeamEntered (l : Launch) (args : List Byte) (t : State) (tid core cid lid j : Nat) (pbs : List DWord) : Prop :=
  (t.team tid).resident = true ∧ (t.team tid).core = core ∧ (t.team tid).launch = lid ∧ (t.team tid).cluster = cid ∧
  (t.team tid).member = j ∧ (t.team tid).winSize = l.fld 68 4 ∧ (t.team tid).win = [] ∧
  (t.team tid).groups = (List.range l.teamGroups).map (fun k => tid + 1 + k) ∧
  (∀ k role, l.groupRoles[k]? = some role → GroupEntered l args tid k role (isRadishCore core) (pbs.getD k 0) (t.grp (tid + 1 + k))) ∧
  (∀ role, (List.range 8).find? (fun i => l.roleKind i == 2) = some role → ∃ x, (t.team tid).stream = some x ∧ StreamEntered l args role x) ∧
  ((∀ i, i < 8 → l.roleKind i ≠ 2) → (t.team tid).stream = none) ∧
  ∀ i, i < 16 → (aget Bar.empty i (t.team tid).tb).arrived = 0 ∧ (aget Bar.empty i (t.team tid).tb).phase = 0 ∧
    (aget Bar.empty i (t.team tid).tb).expect = (l.groupRoles.filter (l.memberOf i)).length +
      (match (List.range 8).find? (fun i => l.roleKind i == 2) with | some r => (l.memberOf i r).toNat | none => 0)
/-- The next cluster of a head may stand at a place: the arguments of its launch can be read, or were when its first cluster was placed
(R332), and the place is good (R8, R36, R240, R277). -/
def fitsAt (s : State) (lid : Nat) (p : PlaceAt) (args : List Byte) : Prop :=
  (if (s.launch lid).placed = 0 then readArgs s (s.launch lid) else (s.launch lid).args) = some args ∧
    (s.launch lid).hasGb = false ∧ placeOk s (s.launch lid) p = true ∧ (0 < (s.launch lid).teamGroups ∨ (s.launch lid).hasMatrix = true)
/-- A head of a smaller class is reserved, or has lacked only room for 100 µs (R276). -/
def keptBack (s : State) (cls : Nat) : Prop :=
  ∃ h ∈ heads s, h.2.2 < cls ∧ ((s.launch h.1).reserved = true ∨
    ∃ t0, (s.launch h.1).lack = some t0 ∧ t0 + 100000 ≤ s.time ∧ canPlace s (s.launch h.1) = false)
/-- A saved cluster can stand again with its corner at a core (R276, R316). -/
def backAt (s : State) (cid base : Nat) : Prop :=
  let l := s.launch (s.cluster cid).launch
  let rad := (savedOf s cid).any fun t => isRadishCore (s.team t).core
  savedOf s cid ≠ [] ∧ ¬keptBack s l.cls ∧ rectOk rad l.w l.h base = true ∧ ∀ t ∈ savedOf s cid, (s.team t).bySched = true ∧
    (∃ g ∈ (s.team t).groups, (s.grp g).live = true) ∧
    roomFor s ((rectCores l.w l.h base).getD (s.team t).member 0) (teamNeed s t rad) 1 none = true

/-- The command block shows a command under way with the result that it will write. -/
def CmdUnderWay (t : State) (op res : Nat) : Prop := t.cmd.busy = true ∧ t.cmd.op = op ∧ t.cmd.res = BitVec.ofNat 8 res
/-- The commands of codes 0 to 4, each with its code. -/
def commands (x : Instr × Nat) : Prop :=
  x ∈ [(.schedPreempt, 0), (.schedRestore, 1), (.schedResumeReplay, 2), (.schedResumeSkip, 3), (.schedEndLaunch, 4)]
/-- A group has nothing under way that a save would miss. -/
def Group.idle (s : State) (gid : Nat) : Prop :=
  (s.grp gid).loads = [] ∧ (s.grp gid).stores = [] ∧ (s.grp gid).tiles = [] ∧ (s.grp gid).obj = none ∧ s.copiesOf gid = []

end Sys2Proof.Machine

/-- R275 to R277, R280, R283, R103: what the scheduler places, what each team, group and stream of a placed cluster holds at entry, and when
nothing is placed; wait words and reservations; the release of a time-triggered entry or its skip; the migration queue and the end of a
move. The model's choices: what makes a head dispatchable and which launch is pre-empted are log 63 and log 65, the reservation log 64, a
saved cluster's return log 68, the skip of an unusable record log 70, an entry with no room passed over log 41, what a move ends with
log 42, the numbers of teams and groups the model's own. -/
def Obligations.SchedulerPlacesReleasesAndMoves : Prop :=
  (∀ pl back, Happens (.launchDispatch pl back) (fun s => s.mod.state ≠ 2 ∧ s.mod.state ≠ 3) fun s t => t = s) ∧
  (∀ p pl, Happens (.launchDispatch (p :: pl) none)
      (fun s => (s.mod.state = 2 ∨ s.mod.state = 3) ∧ ∀ h ∈ heads s, dispatchable s h = false) fun s t => t = s) ∧
  (∀ p pl h, Happens (.launchDispatch (p :: pl) none)
      (fun s => (s.mod.state = 2 ∨ s.mod.state = 3) ∧ (heads s).find? (dispatchable s) = some h) fun s t => t = placeHead s h (p :: pl)) ∧
  (∀ cid p pl, Happens (.launchDispatch (p :: pl) (some cid)) (fun s => s.mod.state = 2 ∨ s.mod.state = 3) fun s t =>
    t = restoreCluster s cid p.core) ∧
  (∀ p h args, Happens (.launchDispatch [p] none)
      (fun s => (s.mod.state = 2 ∨ s.mod.state = 3) ∧ (heads s).find? (dispatchable s) = some h ∧ fitsAt s h.1 p args) fun s t =>
    t.mod.state = 2 ∧ (t.cluster s.nextUnit).launch = h.1 ∧ (t.cluster s.nextUnit).number = p.number ∧
    (t.cluster s.nextUnit).linear = (s.launch h.1).placed ∧ (t.cluster s.nextUnit).base = p.core ∧
    ∀ j core, (rectCores (s.launch h.1).w (s.launch h.1).h p.core)[j]? = some core →
      TeamEntered (s.launch h.1) args t (s.nextUnit + 1 + j * ((s.launch h.1).teamGroups + 1)) core s.nextUnit h.1 j
        ((p.pb.drop (j * (s.launch h.1).teamGroups)).take (s.launch h.1).teamGroups)) ∧
  (∀ (s : State) h, keptBack s h.2.2 → dispatchable s h = false) ∧
  (∀ cid p pl, Happens (.launchDispatch (p :: pl) (some cid)) (fun s => (s.mod.state = 2 ∨ s.mod.state = 3) ∧ backAt s cid p.core) fun s t =>
    t.mod.state = 2 ∧ (t.cluster cid).base = p.core ∧ ∀ tid ∈ savedOf s cid, (t.team tid).resident = true ∧ (t.team tid).preempt = 0 ∧
      (t.team tid).core = (rectCores (s.launch (s.cluster cid).launch).w (s.launch (s.cluster cid).launch).h p.core).getD (s.team tid).member 0) ∧
  Happens (.launchDispatch [] none) (fun s => (s.mod.state = 2 ∨ s.mod.state = 3) ∧
      ((∃ h ∈ heads s, dispatchable s h = true) ∨ ∀ h ∈ heads s, lacksRoom s h = false)) (fun s t => t = s) ∧
  (∀ h v, Happens (.launchDispatch [] none) (fun s => (s.mod.state = 2 ∨ s.mod.state = 3) ∧ (∀ h ∈ heads s, dispatchable s h = false) ∧
      (heads s).find? (lacksRoom s) = some h ∧ victim s h.2.2 = some v) fun s t =>
    t.launches = s.launches ∧ t.groups = s.groups ∧ ∀ tid ∈ haltable s v.1, (t.team tid).preempt = 1 ∧ (t.team tid).bySched = true) ∧
  (∀ q lid r, Happens (.waitWordPoll q) (fun s => (s.queue q).pending = lid :: r ∧ (s.launch lid).placed = 0 ∧
      ∀ x ∈ waitReads s (s.launch lid), x ≠ none) fun s t =>
    ((t.launch lid).waits = true ↔ ∀ x ∈ waitReads s (s.launch lid), x = some true) ∧ (t.queue q).pending = lid :: r ∧ t.mem = s.mem) ∧
  (∀ lid h t0, Happens (.headReserveTimeout lid) (fun s => h ∈ heads s ∧ h.1 = lid ∧ lacksRoom s h = true ∧
      (s.launch lid).lack = some t0 ∧ t0 + 100000 ≤ s.time) fun _ t => (t.launch lid).reserved = true) ∧
  (∀ e, Happens (.ttRelease e) (fun s => ∀ x, ¬ttDue s e x) fun s t => t = s) ∧
  (∀ e x l, Happens (.ttRelease e) (fun s => ttDue s e x ∧ x.run = false ∧ s.time < x.next.toNat + x.period.toNat ∧ ttRecord s e x = some l)
    fun s t => afind e t.tt = some { x with next := x.later, run := true } ∧ afind s.nextLaunch t.launches = some l ∧
      t.nextLaunch = s.nextLaunch + 1 ∧ l.tt = some e ∧ l.asid = x.asid.toNat) ∧
  (∀ e x, Happens (.ttRelease e) (fun s => ttDue s e x ∧
      (x.run = true ∨ x.next.toNat + x.period.toNat ≤ s.time ∨ ttRecord s e x = none)) fun s t =>
    afind e t.tt = some { x with next := x.later, skips := x.skips + 1 } ∧ t.launches = s.launches) ∧
  (∀ core m, Happens (.migrationDispatch core none)
      (fun s => ((serveOrder s.time (s.migq.filter fun m => m.dest.isNone)).find? fun m =>
        (s.team m.team).resident && !(migCores s m.team m.radish).isEmpty) = some m ∧ core ∈ migCores s m.team m.radish) fun s t =>
    t.migq = (s.migq.map fun x => if x.team = m.team then { x with dest := some core } else x) ∧ t.groups = s.groups ∧
    ∀ p ∈ t.parks, ¬((s.team m.team).core ∈ p.places ∧ p.level = 0)) ∧
  (∀ core tid e, Happens (.migrationDispatch core (some tid)) (fun s => core < 256 ∧ balanceEntry s tid (isRadishCore core) = some e) fun s t =>
    t.migq = s.migq ++ [e] ∧ ∀ g ∈ (s.team tid).groups, (t.grp g).halted = true) ∧
  (∀ tid, Happens (.migrationAgeTimeout tid) (fun _ => True) fun s t =>
    t.migq = s.migq.map (fun m => if m.team = tid ∧ m.dest = none ∧ m.since + 100000 ≤ s.time then { m with aged := true } else m)) ∧
  (∀ tid m core, Happens (.migrationComplete tid) (fun s => (s.migq.find? fun m => m.team == tid) = some m ∧ m.dest = some core ∧
      (s.team tid).resident = true ∧ ∀ g ∈ (s.team tid).groups, s.copiesOf g = []) fun s t =>
    (t.team tid).core = core ∧ (∀ x ∈ t.migq, x.team ≠ tid) ∧ (t.cluster (s.team tid).cluster).base = core)

/-- R200, R313 to R316, R337: a team halts and its image becomes complete; what each command does, the result it will write, and the
end of a command. -/
def Obligations.PreemptionAndSchedulerCommands : Prop :=
  (∀ tid, Happens (.preemptHalt tid) (fun s => (s.team tid).preempt = 1 ∧ (s.team tid).resident = true ∧ (s.str tid).busy = false)
    fun s t => (t.team tid).resident = false ∧ (t.team tid).preempt = 2 ∧ t.mem = s.mem ∧
      ∀ g ∈ (s.team tid).groups, (t.grp g).sfu = [] ∧ (t.grp g).loads = (s.grp g).loads ∧ (t.grp g).s = (s.grp g).s) ∧
  (∀ tid, Happens (.preemptHalt tid) (fun s => (s.str tid).busy = true) fun s t => t = s) ∧
  (∀ tid, Happens (.preemptSaveComplete tid) (fun s => (s.team tid).preempt = 2 ∧ ∀ g ∈ (s.team tid).groups, Group.idle s g) fun s t => (t.team tid).preempt = 3 ∧ t.groups = s.groups ∧
      ∀ p ∈ t.parks, ¬((s.team tid).core ∈ p.places ∧ p.level = 0)) ∧
  (∀ tid, Happens (.preemptSaveComplete tid) (fun s => ∃ g ∈ (s.team tid).groups, (s.grp g).loads ≠ [] ∨ (s.grp g).stores ≠ []) fun s t =>
    t = s) ∧
  (∀ x, commands x → Happens x.1 (fun s => s.cmd.busy = true) fun s t => t = s) ∧
  (∀ x, commands x → Happens x.1 (fun s => s.cmd.busy = false ∧ launchKnown s = false) fun s t =>
    CmdUnderWay t x.2 1 ∧ t.teams = s.teams ∧ t.groups = s.groups) ∧
  Happens .schedPreempt (fun s => s.cmd.busy = false ∧ launchKnown s = true ∧ cmdTeams s ≠ [] ∧
      (∀ x ∈ cmdTeams s, (s.team x).resident = true ∧ (s.team x).preempt = 0) ∧
      cmdArea s ((cmdTeams s).map (imageParts s)).sum = true) (fun s t =>
    CmdUnderWay t 0 0 ∧ t.cmd.teams = cmdTeams s ∧ ∀ x ∈ cmdTeams s, (t.team x).preempt = 1 ∧ (t.team x).bySched = false) ∧
  Happens .schedPreempt (fun s => s.cmd.busy = false ∧ launchKnown s = true ∧
      ∃ x ∈ cmdTeams s, (s.team x).resident = false ∨ (s.team x).preempt ≠ 0) (fun s t => CmdUnderWay t 0 2 ∧ t.teams = s.teams) ∧
  Happens .schedPreempt (fun s => s.cmd.busy = false ∧ launchKnown s = true ∧ cmdTeams s ≠ [] ∧
      (∀ x ∈ cmdTeams s, (s.team x).resident = true ∧ (s.team x).preempt = 0) ∧
      cmdArea s ((cmdTeams s).map (imageParts s)).sum = false) (fun s t => CmdUnderWay t 0 3 ∧ t.teams = s.teams) ∧
  Happens .schedRestore (fun s => s.cmd.busy = false ∧ launchKnown s = true ∧ cmdTeams s ≠ [] ∧
      (∀ x ∈ cmdTeams s, (s.team x).preempt = 3 ∧ (s.team x).bySched = false) ∧
      cmdArea s ((cmdTeams s).map (imageParts s)).sum = true ∧
      ∀ p ∈ layImages s s.cmd.save.toNat (cmdTeams s), (s.team p.1).saveAt = some p.2) (fun s t =>
    CmdUnderWay t 1 0 ∧ t.cmd.teams = cmdTeams s ∧ ∀ x ∈ cmdTeams s, (t.team x).bySched = true) ∧
  (∀ skip tid gid fid, Happens (if skip = true then .schedResumeSkip else .schedResumeReplay)
      (fun s => s.cmd.busy = false ∧ launchKnown s = true ∧ cmdTeam s = some tid ∧ s.cmd.stream = false ∧
        (s.team tid).groups[s.cmd.group.toNat]? = some gid ∧ (s.grp gid).live = true ∧ (s.grp gid).susp = some fid) fun s t =>
    CmdUnderWay t (if skip = true then 3 else 2) 0 ∧ (t.grp gid).susp = none ∧ (t.grp gid).inh = false ∧
    (t.grp gid).mode = (s.grp gid).xmode ∧ ((t.grp gid).frag fid).em = (s.grp gid).xem ∧
    (skip = false → ((t.grp gid).frag fid).pc = (s.grp gid).xpc) ∧ SameRegs (s.grp gid) (t.grp gid)) ∧
  (∀ skip tid, Happens (if skip = true then .schedResumeSkip else .schedResumeReplay)
      (fun s => s.cmd.busy = false ∧ launchKnown s = true ∧ cmdTeam s = some tid ∧ s.cmd.stream = true ∧
        (s.team tid).stream.isSome = true ∧ (s.str tid).live = true ∧ (s.str tid).susp = true) fun s t =>
    CmdUnderWay t (if skip = true then 3 else 2) 0 ∧ (t.str tid).susp = false ∧ (skip = false → (t.str tid).pc = (s.str tid).xpc)) ∧
  Happens .schedEndLaunch (fun s => s.cmd.busy = false ∧ launchKnown s = true) (fun s t =>
    CmdUnderWay t 4 0 ∧ (∀ a, (∀ w ∈ s.ord.writes, w.priv = true → w.covers a = false) → t.byte a = s.byte a) ∧
      t.cmd.teams = teamsOf s (fun x => x.alive && x.launch == s.cmd.launch.toNat)) ∧
  (∀ c : BitVec 4, 5 ≤ c.toNat → Happens (.schedCmdReserved c) (fun s => s.cmd.busy = false) fun s t =>
    CmdUnderWay t 5 4 ∧ t.teams = s.teams ∧ t.launches = s.launches) ∧
  Happens .schedCmdDone (fun s => s.cmd.busy = true ∧ ∀ x ∈ s.cmd.teams, cmdOver s x = true) (fun s t =>
    t.cmd.busy = false ∧ t.cmd.result = s.cmd.res ∧ t.teams = s.teams) ∧
  Happens .schedCmdDone (fun s => ∃ x ∈ s.cmd.teams, cmdOver s x = false) (fun s t => t = s)

/-! ### The mailbox and the system calls -/

namespace Sys2Proof.Machine

/-- A call may begin: one of the sixteen steward cores (R14) makes it, or the mailbox has taken an entry with its tag, number and arguments;
its context is one of the 256 address spaces (R16). -/
def CallMade (s : State) (who : Caller) (num : Nat) (args : List Nat) : Prop :=
  callerAsid s who < 256 ∧ match who with
  | .steward core _ => core < 16
  | .mailbox fn tag => ∃ e ∈ (s.mbox fn).taken, e.1 = tag ∧ e.2.1 = num ∧ (e.2.2.take args.length).map (·.toNat) = args
/-- The state in which a call is served: its entry is no longer among those taken. -/
def served_ (s : State) (who : Caller) (num : Nat) (args : List Nat) : State := (callBegin s who num args).getD s
/-- A caller has its answer: a steward core in a0, a mailbox function as one completion more that the device holds. -/
def Answered (who : Caller) (s t : State) (v : DWord) : Prop :=
  match who with
  | .steward core _ => (aget Steward.empty core t.stewards).out = v
  | .mailbox fn tag => (t.mbox fn).held = (s.mbox fn).held ++ [(tag, v)]
/-- Every system call but exit, unmap and wait, with its number and its arguments. -/
def calls (who : Caller) (a0 a1 a2 a3 dest : Nat) (frames : List Nat) (cut : DtCut) (x : Instr × Nat × List Nat) : Prop := x ∈
  [(.sysLog who a0 a1, 1, [a0, a1]), (.sysMap who a0 a1 a2 frames, 2, [a0, a1, a2]),
   (.sysLaunch who a0 a1 a2 a3 dest, 4, [a0, a1, a2, a3]), (.sysPool who a0 frames, 6, [a0]), (.sysTtset who a0 a1 a2 a3, 7, [a0, a1, a2, a3]),
   (.sysDtpage who a0 frames cut, 8, []), (.sysAttest who a0 a1, 9, [a0, a1]), (.sysRecord who a0 a1 a2 a3, 10, [a0, a1, a2, a3])]
/-- What map does not accept: bits outside SIZE to CMT and KEY, a reserved size or cache policy, a range that is misaligned, empty or
past 2^57 (R296, R331). -/
def mapBad (va n attr : Nat) : Prop :=
  attr ≠ attrBits attr ∨ bits attr 2 2 = 3 ∨ bits attr 8 2 = 3 ∨ va % 2 ^ leafBits (4 - bits attr 2 2) ≠ 0 ∨
    n % 2 ^ leafBits (4 - bits attr 2 2) ≠ 0 ∨ n = 0 ∨ va + n > 2 ^ 57
/-- A launch call without a wait block passes every check: the kernel, the argument block, the queue and its room, the record, and the
destination of the record (R332). -/
def launchPasses (u : State) (who : Caller) (idx arg q dest : Nat) (k : Kernel) : Prop :=
  let r := buildRecord k arg q (List.replicate 24 0)
  u.kernel (callerAsid u who) idx = some k ∧ arg % 256 = 0 ∧ q < 256 ∧ dest % 256 = 0 ∧ (u.queue q).en = true ∧
    (u.queue q).asid = callerAsid u who ∧ (u.queue q).pending.length < 64 ∧
    recordCause (newLaunch u (callerAsid u who) r (some q) (u.queue q).cls) (u.queue q).cls false = none ∧
    spans u (callerAsid u who) dest r.length .write ≠ none
/-- A record call without a wait block passes every check, the record's queue and time slot being zero (R332). -/
def recordPasses (u : State) (who : Caller) (idx arg dest : Nat) (r : List Byte) : Prop :=
  ∃ k, u.kernel (callerAsid u who) idx = some k ∧ r = setField (buildRecord k arg 0 (List.replicate 24 0)) 66 1 0 ∧ arg % 256 = 0 ∧
    dest % 256 = 0 ∧ recordCause (newLaunch u (callerAsid u who) r none 0) 0 false = none
/-- What the resident OS writes at [a, a + n) lies in one page and lands in the bytes from a key: the page may be written, its frame is of
key 0, and its device is reached (R298, R306, R320). -/
def landsAt (u : State) (asid a n key : Nat) : Prop :=
  spans u asid a n .write = some [(key, n)] ∧ keyOf u key = 0 ∧ u.portFailed key = false ∧ key < 2 ^ 70
/-- A map call that passes the checks before the table: what building its leaves gives (R294, R296). -/
def mapGives (u : State) (who : Caller) (va n attr : Nat) (frames : List Nat) (r : Except Nat State) : Prop :=
  ¬mapBad va n attr ∧ (bits attr 50 6 = 0 ∨ afind (bits attr 50 6) u.shallot.keys = some (callerAsid u who)) ∧
    mapRange u (callerCore who) (callerAsid u who) va (n / 2 ^ leafBits (4 - bits attr 2 2)) attr frames = r
/-- An entry that an unmap of [va, va + n) clears (R299). -/
def unmaps (u : State) (asid va n : Nat) (e : Nat × Nat × Nat) : Prop := ∃ p ∈ pagesOf va n, entryAt u asid p = some e
/-- Each page of [va, va + n) that a leaf maps is mapped by a leaf that lies whole in it. -/
def unmapWhole (u : State) (asid va n : Nat) : Prop := ∀ p ∈ pagesOf va n, ∀ e, entryAt u asid p = some e →
  va ≤ p / 2 ^ leafBits e.2.2 * 2 ^ leafBits e.2.2 ∧ p / 2 ^ leafBits e.2.2 * 2 ^ leafBits e.2.2 + 2 ^ leafBits e.2.2 ≤ va + n
/-- What an unmap does not accept: a range that is misaligned, empty or past 2^57. -/
def unmapBad (va n : Nat) : Prop := va % 65536 ≠ 0 ∨ n % 65536 ≠ 0 ∨ n = 0 ∨ va + n > 2 ^ 57
/-- The tables of a context lie where 36 bits of a root reach, on a device of the domain. -/
def tablesReach (s : State) (asid : Nat) : Prop := s.self < 256 ∧ (s.asid asid).root < 2 ^ 36
/-- A ttset call reads the record r of its entry and passes every check; its time slot is written at a key (R331). -/
def ttsetPasses (u : State) (who : Caller) (e rec_ period : Nat) (key : Nat) : Prop :=
  e < 64 ∧ rec_ % 256 = 0 ∧ 10000 ≤ period ∧ period < 2 ^ 32 ∧
    ((aget TtEnt.empty e u.tt).en = true → (aget TtEnt.empty e u.tt).asid.toNat = callerAsid u who) ∧
    ∃ r, osRead u (callerCore who) (callerAsid u who) rec_ 256 = some r ∧
      recordCause (newLaunch r.1 (callerAsid u who) (setField r.2 66 1 (128 + e)) none 0) 0 true = none ∧
      landsAt r.1 (callerAsid u who) (rec_ + 66) 1 key
/-- A first dtpage call builds the page in a frame and maps it (R341). -/
def dtpagePasses (u : State) (who : Caller) (va f : Nat) (fs : List Nat) (cut : DtCut) (v : State) : Prop :=
  (u.asid (callerAsid u who)).dtpage = 0 ∧ va % 65536 = 0 ∧ 0 < va ∧ va < 2 ^ 57 ∧
    (processTree u (callerAsid u who) cut).length ≤ 65536 ∧
    mapRange (zeroFrame u f) (callerCore who) (callerAsid u who) va 1 dtAttr (f :: fs) = .ok v
/-- An attest call can read its nonce and write a report of any length (R331). -/
def attestPasses (u : State) (who : Caller) (nonce rep : Nat) (bytes : List Byte) : Prop :=
  ∃ r, osRead u (callerCore who) (callerAsid u who) nonce 32 = some r ∧ bytes = r.2 ∧
    ∀ n, n < 65536 → spans { r.1 with fresh := r.1.fresh + 2 } (callerAsid u who) rep n .write ≠ none
/-- Accesses by the entries that an unmap clears have not all performed: the call waits for them (R299). -/
def unmapWaits (s : State) (who : Caller) (va n : Nat) : Prop :=
  unperformed s (callerAsid s who) (fun p => va / 65536 ≤ p && p < va / 65536 + n / 65536) = true
/-- Nothing that a call could have changed has changed: memory, the tables of contexts and launches. -/
def TablesKept (s t : State) : Prop :=
  t.mem = s.mem ∧ t.asids = s.asids ∧ t.launches = s.launches ∧ t.queues = s.queues ∧ t.tt = s.tt ∧ t.kernels = s.kernels ∧ t.groups = s.groups

end Sys2Proof.Machine

/-- R330: the doorbell and its range check, the consumption of completions, the taking of an entry, and the writing of a completion
with its phase bit. -/
def Obligations.MailboxRings : Prop :=
  (∀ fn v, Happens (.mailboxHeadWrite fn v) (fun s => fn < 17 ∧ (v - (s.mbox fn).tail).toNat ≤ (s.mbox fn).size ∧
      ((s.mbox fn).head - (s.mbox fn).tail).toNat ≤ (v - (s.mbox fn).tail).toNat) fun s t =>
    t.mbox fn = { s.mbox fn with head := v }) ∧
  (∀ fn v, Happens (.mailboxHeadWrite fn v) (fun s => fn < 17 ∧ ((s.mbox fn).size < (v - (s.mbox fn).tail).toNat ∨
      (v - (s.mbox fn).tail).toNat < ((s.mbox fn).head - (s.mbox fn).tail).toNat)) fun s t =>
    t.mbox fn = { s.mbox fn with err := true }) ∧
  (∀ fn v, Happens (.mailboxCtailWrite fn v)
      (fun s => fn < 17 ∧ ((s.mbox fn).chead - v).toNat ≤ ((s.mbox fn).chead - (s.mbox fn).ctail).toNat) fun s t =>
    t.mbox fn = { s.mbox fn with ctail := v }) ∧
  (∀ fn v, Happens (.mailboxCtailWrite fn v)
      (fun s => fn < 17 ∧ ((s.mbox fn).chead - (s.mbox fn).ctail).toNat < ((s.mbox fn).chead - v).toNat) fun s t =>
    t.mbox fn = { s.mbox fn with err := true }) ∧
  (∀ fn e, Happens (.mailboxEntryTake fn) (fun s => (s.mbox fn).en = true ∧ (s.mbox fn).ready = true ∧ (s.mbox fn).tail ≠ (s.mbox fn).head ∧
      (s.mbox fn).cplFull = false ∧
      e = entryOf (mread s.hostMem ((s.mbox fn).ring.toNat + 64 * ((s.mbox fn).tail.toNat % (s.mbox fn).size)) 64)) fun s t =>
    (t.mbox fn).tail = (s.mbox fn).tail + 1 ∧ t.hostMem = s.hostMem ∧
    (e.2.1 ≤ 10 → (t.mbox fn).taken = (s.mbox fn).taken ++ [e] ∧ (t.mbox fn).held = (s.mbox fn).held) ∧
    (10 < e.2.1 → (t.mbox fn).taken = (s.mbox fn).taken ∧ (t.mbox fn).held = (s.mbox fn).held ++ [(e.1, -1)])) ∧
  (∀ fn, Happens (.mailboxEntryTake fn) (fun s => (s.mbox fn).en = false ∨ (s.mbox fn).ready = false ∨ (s.mbox fn).tail = (s.mbox fn).head ∨
      (s.mbox fn).cplFull = true) fun s t => t = s) ∧
  (∀ fn tag v r, Happens (.completionWrite fn) (fun s => (s.mbox fn).held = (tag, v) :: r ∧ (s.mbox fn).cplFull = false) fun s t =>
    (t.mbox fn).held = r ∧ (t.mbox fn).chead = (s.mbox fn).chead + 1 ∧ (t.mbox fn).msix = (s.mbox fn).msix + 1 ∧ t.mem = s.mem ∧
    mread t.hostMem ((s.mbox fn).cpl.toNat + 16 * ((s.mbox fn).chead.toNat % (s.mbox fn).size)) 16 =
      natLe 2 tag.toNat ++ [BitVec.ofNat 8 (1 - (s.mbox fn).chead.toNat / (s.mbox fn).size % 2), 0, 0, 0, 0, 0] ++ natLe 8 v.toNat ∧
    ∀ k, k < (s.mbox fn).cpl.toNat + 16 * ((s.mbox fn).chead.toNat % (s.mbox fn).size) ∨
      (s.mbox fn).cpl.toNat + 16 * ((s.mbox fn).chead.toNat % (s.mbox fn).size) + 16 ≤ k → mget t.hostMem k = mget s.hostMem k)

/-- R331, R332, R341: every system call answers its caller, with the error that its conditions give or with its result, and what it then
has changed: the leaves of a map, the entries of an unmap, the frames of a pool, the entry of a ttset, the report of an attest, the record
of a launch or a record call, the Devicetree page; how a wait ends. The model's choices: which error map gives is log 81, unmap's errors
log 82, exit's free completion and the answer 0 to a wait for a launch that is done log 83, the bytes and the length of a report log 84,
the core that serves a mailbox call log 110, what a process's tree says log 112. -/
def Obligations.SystemCallsAnswer : Prop :=
  (∀ who a0 a1 a2 a3 dest frames cut x, calls who a0 a1 a2 a3 dest frames cut x →
    Happens x.1 (fun s => CallMade s who x.2.1 x.2.2) (fun s t => ∃ v, Answered who s t v) ∧
    Happens x.1 (fun s => ¬CallMade s who x.2.1 x.2.2) fun s t => t = s) ∧
  (∀ who va n, Happens (.sysUnmap who va n) (fun s => CallMade s who 3 [va, n] ∧ ¬unmapWaits s who va n)
      (fun s t => ∃ v, Answered who s t v) ∧
    Happens (.sysUnmap who va n) (fun s => ¬CallMade s who 3 [va, n] ∨ unmapWaits s who va n) fun s t => t = s) ∧
  (∀ fn tag a0, Happens (.sysExit (.mailbox fn tag) a0) (fun s => CallMade s (.mailbox fn tag) 0 [a0]) fun s t =>
    (∃ v, Answered (.mailbox fn tag) s t v) ∧ TablesKept s t) ∧
  (∀ core asid a0, Happens (.sysExit (.steward core asid) a0) (fun _ => True) fun s t => t = s) ∧
  (∀ who va n, Happens (.sysLog who va n) (fun s => CallMade s who 1 [va, n] ∧
      spans (served_ s who 1 [va, n]) (callerAsid (served_ s who 1 [va, n]) who) va n .read = none) fun s t =>
    Answered who s t (-3) ∧ TablesKept s t ∧ t.log = s.log) ∧
  (∀ who va n l, Happens (.sysLog who va n) (fun s => CallMade s who 1 [va, n] ∧
      spans (served_ s who 1 [va, n]) (callerAsid (served_ s who 1 [va, n]) who) va n .read = some l) fun s t =>
    Answered who s t (BitVec.ofNat 64 n) ∧ TablesKept s t ∧ ∃ text, t.log = s.log ++ [text]) ∧
  (∀ who va n attr frames, mapBad va n attr → Happens (.sysMap who va n attr frames) (fun s => CallMade s who 2 [va, n, attr]) fun s t =>
    Answered who s t (-2) ∧ TablesKept s t) ∧
  (∀ who va n attr frames, ¬mapBad va n attr → bits attr 50 6 ≠ 0 →
    Happens (.sysMap who va n attr frames) (fun s => CallMade s who 2 [va, n, attr] ∧
        afind (bits attr 50 6) s.shallot.keys ≠ some (callerAsid (served_ s who 2 [va, n, attr]) who)) fun s t =>
      Answered who s t (-3) ∧ TablesKept s t) ∧
  (∀ who va n attr frames e, Happens (.sysMap who va n attr frames) (fun s => CallMade s who 2 [va, n, attr] ∧
      mapGives (served_ s who 2 [va, n, attr]) who va n attr frames (.error e)) fun s t => Answered who s t (callErr e) ∧ TablesKept s t) ∧
  (∀ who va n attr frames u, Happens (.sysMap who va n attr frames) (fun s => CallMade s who 2 [va, n, attr] ∧
      mapGives (served_ s who 2 [va, n, attr]) who va n attr frames (.ok u)) fun s t =>
    Answered who s t 0 ∧ t.mem = u.mem ∧ t.asids = s.asids ∧ t.launches = s.launches ∧ t.groups = s.groups) ∧
  (∀ who va n attr f u, n = 2 ^ leafBits (4 - bits attr 2 2) → bits attr 15 1 = 1 →
    Happens (.sysMap who va n attr [f]) (fun s => CallMade s who 2 [va, n, attr] ∧ tablesReach s (callerAsid s who) ∧
      mapGives (served_ s who 2 [va, n, attr]) who va n attr [f] (.ok u)) fun s t => ∃ pa, s.rd (devKey s.self pa) 8 % 2 = 0 ∧
    t.rd (devKey s.self pa) 8 = 3 + attr + f * 65536 + s.self * 2 ^ 56 ∧
    (∀ k, k < devKey s.self pa ∨ devKey s.self pa + 8 ≤ k → t.byte k = s.byte k) ∧
    ∀ e, entryAt t (callerAsid s who) va = some e → e = (pa, 3 + attr + f * 65536 + s.self * 2 ^ 56, 4 - bits attr 2 2)) ∧
  (∀ who va n, Happens (.sysUnmap who va n) (fun s => CallMade s who 3 [va, n] ∧ ¬unmapWaits s who va n ∧
      (unmapBad va n ∨ ¬unmapWhole (served_ s who 3 [va, n]) (callerAsid s who) va n)) fun s t => Answered who s t (-2) ∧ TablesKept s t) ∧
  (∀ who va n, ¬unmapBad va n → Happens (.sysUnmap who va n) (fun s => CallMade s who 3 [va, n] ∧ ¬unmapWaits s who va n ∧
      tablesReach s (callerAsid s who) ∧ unmapWhole s (callerAsid s who) va n) fun s t =>
    Answered who s t 0 ∧ (∀ e, unmaps s (callerAsid s who) va n e → t.rd (devKey s.self e.1) 8 = 0) ∧
    (∀ k, (∀ e, unmaps s (callerAsid s who) va n e → k < devKey s.self e.1 ∨ devKey s.self e.1 + 8 ≤ k) → t.byte k = s.byte k) ∧
    ∀ x ∈ t.tlb, x ∈ s.tlb ∧ (x.asid = callerAsid s who → ∀ p ∈ pagesOf va n, entryAt s (callerAsid s who) p ≠ none →
      x.serves (p / 65536) = false)) ∧
  (∀ who idx arg q wb dest, Happens (.sysLaunch who idx arg q wb dest) (fun s => CallMade s who 4 [idx, arg, q, wb] ∧
      (s.kernel (callerAsid (served_ s who 4 [idx, arg, q, wb]) who) idx = none ∨
        arg % 256 ≠ 0 ∨ 256 ≤ q)) fun s t => Answered who s t (-2) ∧ TablesKept s t) ∧
  (∀ who idx arg q wb dest k, Happens (.sysLaunch who idx arg q wb dest) (fun s => CallMade s who 4 [idx, arg, q, wb] ∧
      s.kernel (callerAsid (served_ s who 4 [idx, arg, q, wb]) who) idx = some k ∧ arg % 256 = 0 ∧ q < 256 ∧
      ((s.queue q).en = false ∨ (s.queue q).asid ≠ callerAsid (served_ s who 4 [idx, arg, q, wb]) who)) fun s t =>
    Answered who s t (-3) ∧ TablesKept s t) ∧
  (∀ who idx arg q dest k, Happens (.sysLaunch who idx arg q 0 dest) (fun s => CallMade s who 4 [idx, arg, q, 0] ∧
      launchPasses (served_ s who 4 [idx, arg, q, 0]) who idx arg q dest k)
    fun s t => Answered who s t (BitVec.ofNat 64 s.nextLaunch) ∧ (t.queue q).pending = (s.queue q).pending ++ [s.nextLaunch] ∧
      t.nextLaunch = s.nextLaunch + 1 ∧ (t.launch s.nextLaunch).record = buildRecord k arg q (List.replicate 24 0) ∧
      ∀ key, landsAt (served_ s who 4 [idx, arg, q, 0]) (callerAsid s who) dest (buildRecord k arg q (List.replicate 24 0)).length key →
        mread t.mem key (buildRecord k arg q (List.replicate 24 0)).length = buildRecord k arg q (List.replicate 24 0)) ∧
  (∀ who idx arg dest wb, Happens (.sysRecord who idx arg dest wb) (fun s => CallMade s who 10 [idx, arg, dest, wb] ∧
      (s.kernel (callerAsid (served_ s who 10 [idx, arg, dest, wb]) who) idx = none ∨ arg % 256 ≠ 0 ∨ dest % 256 ≠ 0)) fun s t =>
    Answered who s t (-2) ∧ TablesKept s t) ∧
  (∀ who idx arg dest r key, Happens (.sysRecord who idx arg dest 0) (fun s => CallMade s who 10 [idx, arg, dest, 0] ∧
      recordPasses (served_ s who 10 [idx, arg, dest, 0]) who idx arg dest r ∧
      landsAt (served_ s who 10 [idx, arg, dest, 0]) (callerAsid s who) dest r.length key) fun s t =>
    Answered who s t 0 ∧ mread t.mem key r.length = r ∧ (∀ k, k < key ∨ key + r.length ≤ k → t.byte k = s.byte k) ∧
    t.launches = s.launches ∧ t.queues = s.queues ∧ t.nextLaunch = s.nextLaunch) ∧
  (∀ who n frames, Happens (.sysPool who n frames) (fun s => CallMade s who 6 [n]) fun s t => ∃ add,
    (t.asid (callerAsid s who)).pool = (s.asid (callerAsid s who)).pool ++ add ∧ add.length ≤ n ∧ (∀ f ∈ add, f ∈ frames) ∧
    Answered who s t (if add = [] ∧ n ≠ 0 then -4 else BitVec.ofNat 64 add.length) ∧ t.mem = s.mem) ∧
  (∀ who n f fs, 0 < n → f * 65536 < memLimit → Happens (.sysPool who n (f :: fs))
      (fun s => CallMade s who 6 [n] ∧ feedOk s (callerAsid s who) f = true) fun s t => f ∈ (t.asid (callerAsid s who)).pool) ∧
  (∀ who e rec_ first period key, Happens (.sysTtset who e rec_ first period) (fun s => CallMade s who 7 [e, rec_, first, period] ∧
      ttsetPasses (served_ s who 7 [e, rec_, first, period]) who e rec_ period key) fun s t =>
    Answered who s t 0 ∧ t.byte key = BitVec.ofNat 8 (128 + e) ∧ t.launches = s.launches ∧
    afind e t.tt = some { aget TtEnt.empty e s.tt with
      next := BitVec.ofNat 64 first, record := BitVec.ofNat 64 rec_, period := BitVec.ofNat 32 period, en := true
      asid := BitVec.ofNat 8 (callerAsid s who) }) ∧
  (∀ who e rec_ first period, Happens (.sysTtset who e rec_ first period) (fun s => CallMade s who 7 [e, rec_, first, period] ∧
      e < 64 ∧ rec_ % 256 = 0 ∧ 10000 ≤ period ∧ period < 2 ^ 32 ∧ (((aget TtEnt.empty e s.tt).en = true ∧
        (aget TtEnt.empty e s.tt).asid.toNat ≠ callerAsid s who) ∨ spans (served_ s who 7 [e, rec_, first, period]) (callerAsid s who) rec_ 256 .read = none))
    fun s t => Answered who s t (-3) ∧ TablesKept s t) ∧
  (∀ who nonce rep bytes, Happens (.sysAttest who nonce rep) (fun s => CallMade s who 9 [nonce, rep] ∧
      attestPasses (served_ s who 9 [nonce, rep]) who nonce rep bytes) fun s t =>
    (∃ n, n < 65536 ∧ Answered who s t (BitVec.ofNat 64 n)) ∧
    t.shallot.spdm = s.shallot.spdm ++ [(leNat bytes, s.shallot.measured, t.shallot.refused)]) ∧
  (∀ who nonce rep, Happens (.sysAttest who nonce rep) (fun s => CallMade s who 9 [nonce, rep] ∧
      spans (served_ s who 9 [nonce, rep]) (callerAsid s who) nonce 32 .read = none) fun s t => Answered who s t (-3) ∧ TablesKept s t) ∧
  (∀ who id ns, Happens (.sysWait who id ns) (fun s => CallMade s who 5 [id, ns] ∧ s.nextLaunch ≤ id) fun s t =>
    Answered who s t (-2) ∧ t.waitCalls = s.waitCalls) ∧
  (∀ who id ns, Happens (.sysWait who id ns) (fun s => CallMade s who 5 [id, ns] ∧ id < s.nextLaunch ∧ afind id s.launches = none)
    fun s t => Answered who s t 0 ∧ t.waitCalls = s.waitCalls) ∧
  (∀ who id ns l, Happens (.sysWait who id ns) (fun s => CallMade s who 5 [id, ns] ∧ id < s.nextLaunch ∧ afind id s.launches = some l ∧
      l.asid = callerAsid (served_ s who 5 [id, ns]) who) fun s t => t.waitCalls = s.waitCalls ++ [⟨who, id, s.time + ns⟩]) ∧
  (∀ who w, Happens (.sysWaitTimeout who) (fun s => (s.waitCalls.find? fun x => x.who == who && decide (x.until_ ≤ s.time)) = some w) fun s t =>
    Answered who s t 1 ∧ t.waitCalls = s.waitCalls.erase w) ∧
  (∀ who e rec_ first period, 64 ≤ e ∨ rec_ % 256 ≠ 0 ∨ period < 10000 ∨ 2 ^ 32 ≤ period →
    Happens (.sysTtset who e rec_ first period) (fun s => CallMade s who 7 [e, rec_, first, period]) fun s t =>
      Answered who s t (-2) ∧ TablesKept s t) ∧
  (∀ who va f fs cut v, Happens (.sysDtpage who va (f :: fs) cut) (fun s => CallMade s who 8 [] ∧
      dtpagePasses (served_ s who 8 []) who va f fs cut v) fun s t =>
    Answered who s t (BitVec.ofNat 64 va) ∧ (t.asid (callerAsid s who)).dtpage = BitVec.ofNat 64 va ∧
    (keyOf v (devKey v.self (f * 65536)) = 0 → v.portFailed (devKey v.self (f * 65536)) = false → devKey v.self (f * 65536) < 2 ^ 70 →
      let tree := processTree (served_ s who 8 []) (callerAsid s who) cut
      mread t.mem (devKey v.self (f * 65536)) tree.length = tree)) ∧
  (∀ who va frames cut, va % 65536 ≠ 0 ∨ va = 0 ∨ 2 ^ 57 ≤ va ∨ frames = [] → Happens (.sysDtpage who va frames cut) (fun s => CallMade s who 8 [] ∧
      (s.asid (callerAsid (served_ s who 8 []) who)).dtpage = 0) fun s t => Answered who s t (-4) ∧ TablesKept s t) ∧
  (∀ who va frames cut, Happens (.sysDtpage who va frames cut) (fun s => CallMade s who 8 [] ∧
      (s.asid (callerAsid (served_ s who 8 []) who)).dtpage ≠ 0) fun s t =>
    Answered who s t (s.asid (callerAsid (served_ s who 8 []) who)).dtpage ∧ TablesKept s t)

/-! ### Registers, contexts, keys and the accesses of steward cores -/

namespace Sys2Proof.Machine

/-- Where the bytes [pa, pa + n) of this device begin, as a key. -/
def here (s : State) (pa : Nat) : Nat := devKey s.self pa
/-- A steward core reaches unkeyed memory of this device: the bytes lie in it, no access need wait for a claimed line or an earlier
atomic (R242, R254), and their frame is of key 0 (R306, R353). -/
def plainAt (s : State) (st pa n : Nat) : Prop :=
  pa < 2 ^ 48 ∧ memAt pa n = true ∧ stewWaits s st (here s pa) n = false ∧ keyOf s (here s pa) = 0 ∧ s.portFailed (here s pa) = false
/-- As `plainAt`, in a frame of another key. -/
def keyedAt (s : State) (st pa n : Nat) : Prop :=
  pa < 2 ^ 48 ∧ memAt pa n = true ∧ stewWaits s st (here s pa) n = false ∧ keyOf s (here s pa) ≠ 0
/-- The accesses to memory: each with its address and its number of bytes. -/
def reaches (acc : StewardAccess) (pa n : Nat) : Prop :=
  (acc = .load pa n ∧ pa < 2 ^ 48) ∨ (∃ bs, acc = .store pa bs ∧ bs.length = n ∧ pa < 2 ^ 48) ∨ (∃ aq rl, acc = .lr pa n aq rl) ∨
    (∃ bs aq rl, acc = .sc pa bs aq rl ∧ bs.length = n) ∨ ∃ op x aq rl, acc = .amo op pa n x aq rl
/-- No byte outside [pa, pa + n) of this device has changed. -/
def OnlyBytes (s t : State) (pa n : Nat) : Prop := ∀ k, k < here s pa ∨ here s pa + n ≤ k → t.byte k = s.byte k
/-- A frame that a pool of a context takes: in no pool, of key 0 or of a key of the context (R334). -/
def feedable (s : State) (asid f : Nat) : Prop :=
  (∀ a ∈ s.asids, f ∉ a.2.pool) ∧ (aget 0 f s.shallot.owner = 0 ∨ afind (aget 0 f s.shallot.owner) s.shallot.keys = some asid)

end Sys2Proof.Machine

/-- R279, R292, R299, R330, R334 to R336, R338, R350: the writes of tables and registers, those that are discarded, the pool, and the
invalidation that waits for the accesses of its range. The model's choices: the register of READY with its context is log 80, that a
LOG2N outside 4 to 12 is discarded log 70. -/
def Obligations.TablesAndRegistersAreWritten : Prop :=
  (∀ q v, Happens (.queueTableWrite q v) (fun s => q < 256 ∧ ((s.queue q).pending = [] ∨
      ((s.queue q).asid = bits v.toNat 0 8 ∧ (s.queue q).cls = bits v.toNat 8 2))) fun s t =>
    t.queue q = { s.queue q with asid := bits v.toNat 0 8, cls := bits v.toNat 8 2, en := v.getLsbD 10 }) ∧
  (∀ q v, Happens (.queueTableWrite q v) (fun s => (s.queue q).pending ≠ [] ∧
      ((s.queue q).asid ≠ bits v.toNat 0 8 ∨ (s.queue q).cls ≠ bits v.toNat 8 2)) fun s t => t = s) ∧
  (∀ e v, e < 64 → (v.getLsbD 160 = true → 10000 ≤ bits v.toNat 128 32) → Happens (.ttEntryWrite e v) (fun _ => True) fun s t =>
    afind e t.tt = some { aget TtEnt.empty e s.tt with
      next := v.extractLsb' 0 64, record := v.extractLsb' 64 64, period := v.extractLsb' 128 32, en := v.getLsbD 160
      asid := v.extractLsb' 162 8, skips := v.extractLsb' 192 32 }) ∧
  (∀ a v badfree, a < 256 → Happens (.asidDescriptorWrite a v badfree) (fun s => asidResident s a = false) fun s t =>
    (t.asid a).en = v.getLsbD 0 ∧ (t.asid a).root = bits v.toNat 12 36 ∧ (t.asid a).heap = bits v.toNat 64 57 ∧
    (t.asid a).htiles = bits v.toNat 128 32 ∧ (t.asid a).sarea = bits v.toNat 224 32 ∧ (t.asid a).conf = (s.asid a).conf ∧
    (t.asid a).pool = (s.asid a).pool ∧ (t.asid a).badfree = (if badfree = true then 0 else (s.asid a).badfree)) ∧
  (∀ a v badfree, a < 256 → Happens (.asidDescriptorWrite a v badfree) (fun s => asidResident s a = true) fun s t =>
    t.asid a = { s.asid a with next := some v, badfree := if badfree = true then 0 else (s.asid a).badfree }) ∧
  (∀ v, Happens (.poolFeed v) (fun s => feedable s (bits v.toNat 0 8) (bits v.toNat 16 32)) fun s t =>
    (t.asid (bits v.toNat 0 8)).pool = (s.asid (bits v.toNat 0 8)).pool ++ [bits v.toNat 16 32]) ∧
  (∀ v, Happens (.poolFeed v) (fun s => ¬feedable s (bits v.toNat 0 8) (bits v.toNat 16 32)) fun s t => t = s) ∧
  (∀ v, Happens (.invalidateGo v) (fun s => s.inval.busy = false ∧ v.getLsbD 0 = true) fun s t =>
    t = { s with inval := { s.inval with work := some s.inval.reg } } ∧ t.inval.busy = true) ∧
  (∀ v, Happens (.invalidateGo v) (fun s => s.inval.busy = true ∨ v.getLsbD 0 = false) fun s t => t = s) ∧
  (∀ x, Happens .invalidateDone (fun s => s.inval.work = some x ∧ unperformed s x.asid.toNat x.meets = false) fun s t =>
    t.inval = { s.inval with work := none } ∧ t.irqs = s.irqs + 1 ∧ t.mem = s.mem ∧
    (∀ e, e ∈ t.tlb ↔ e ∈ s.tlb ∧ ¬(e.asid = x.asid.toNat ∧ x.meets e.page = true)) ∧
    (∀ e, e ∈ t.tabs ↔ e ∈ s.tabs ∧ ¬(e.asid = x.asid.toNat ∧ x.meetsTab e = true)) ∧
    (∀ v, (s.asid x.asid.toNat).next = some v → t.asid x.asid.toNat = setDesc (s.asid x.asid.toNat) v) ∧
    ((s.asid x.asid.toNat).next = none → t.asids = s.asids)) ∧
  (∀ x, Happens .invalidateDone (fun s => s.inval.work = none ∨ (s.inval.work = some x ∧ unperformed s x.asid.toNat x.meets = true))
    fun s t => t = s) ∧
  (∀ v, Happens (.faultQueueTailWrite v) (fun s => s.repHeld = [] ∧ (s.repHead - v).toNat ≤ (s.repHead - s.repTail).toNat) fun s t =>
    t = { s with repTail := v }) ∧
  (∀ v r, Happens (.faultQueueTailWrite v) (fun s => s.repHeld = [r] ∧ s.repHead - s.repTail = 255 ∧ s.repHead - v ≠ 255 ∧
      (s.repHead - v).toNat ≤ (s.repHead - s.repTail).toNat) fun s t =>
    t.repTail = v ∧ t.repHeld = [] ∧ t.repHead = s.repHead + 1 ∧ afind s.repHead.toNat t.repMem = some r) ∧
  (∀ v, Happens (.faultQueueTailWrite v) (fun s => (s.repHead - s.repTail).toNat < (s.repHead - v).toNat) fun s t => t = s) ∧
  (∀ v, Happens (.plimWrite v) (fun _ => True) fun s t =>
    t = (if 1200 ≤ v.toNat ∧ v.toNat ≤ 3600 then { s with mod := { s.mod with plim := v } } else s)) ∧
  (∀ v, Happens (.registerWrite .invalStart v) (fun _ => True) fun s t => t = { s with inval := { s.inval with reg := { s.inval.reg with start := v } } }) ∧
  (∀ v, Happens (.registerWrite .invalPages v) (fun _ => True) fun s t => t = { s with inval := { s.inval with reg := { s.inval.reg with pages := v } } }) ∧
  (∀ v, Happens (.registerWrite .invalAsid v) (fun _ => True) fun s t =>
    t = { s with inval := { s.inval with reg := { s.inval.reg with asid := v.extractLsb' 0 8, all := v.getLsbD 8 } } }) ∧
  (∀ v, Happens (.registerWrite .cmdTarget v) (fun _ => True) fun s t =>
    t = { s with cmd := { s.cmd with launch := v.extractLsb' 0 32, cluster := v.extractLsb' 32 12, member := v.extractLsb' 44 4
                                     group := v.extractLsb' 48 5, stream := v.getLsbD 53 } }) ∧
  (∀ v, Happens (.registerWrite .cmdSave v) (fun _ => True) fun s t => t = { s with cmd := { s.cmd with save := v } }) ∧
  (∀ fn v, fn < 17 → Happens (.registerWrite (.ring fn) v) (fun _ => True) fun s t =>
    t.mbox fn = (if (s.mbox fn).en = true then s.mbox fn else { s.mbox fn with ring := v })) ∧
  (∀ fn v, fn < 17 → Happens (.registerWrite (.cpl fn) v) (fun _ => True) fun s t =>
    t.mbox fn = (if (s.mbox fn).en = true then s.mbox fn else { s.mbox fn with cpl := v })) ∧
  (∀ fn v, fn < 17 → Happens (.registerWrite (.control fn) v) (fun _ => True) fun s t =>
    (t.mbox fn).en = v.getLsbD 8 ∧ ((t.mbox fn).err = true ↔ (s.mbox fn).err = true ∧ v.getLsbD 9 = false) ∧
    (t.mbox fn).log2n = (if (s.mbox fn).en = false ∧ 4 ≤ bits v.toNat 0 8 ∧ bits v.toNat 0 8 ≤ 12 then BitVec.ofNat 8 (bits v.toNat 0 8)
      else (s.mbox fn).log2n)) ∧
  (∀ fn v, fn < 17 → Happens (.registerWrite (.serve fn) v) (fun _ => True) fun s t =>
    t.mbox fn = { s.mbox fn with ready := v.getLsbD 0, asid := bits v.toNat 8 8 }) ∧
  (∀ i v, i < 144 → Happens (.registerWrite (.domain i) v) (fun _ => True) fun s t =>
    (aget Dom.empty i t.domain).port = bits v.toNat 0 5 ∧
    ((aget Dom.empty i t.domain).valid = true ↔ v.getLsbD 5 = true ∧ i ≠ s.self) ∧
    t.links = s.links ∧ bits (domImage t i) 16 1 =
      flag (bits v.toNat 0 5 < 18 && (s.link (6 + bits v.toNat 0 5)).failed))

/-- R223, R305 to R307, R333, R343, R353: a steward core's accesses, what they find in keyed frames, and the stop where there is
neither memory nor a register; keys and frames; a bundle is refused whole. The model's choices: the stop where there is neither memory nor
a register is log 86, the code 1 of an SC that fails and the sets of a FENCE log 85, that a loaded bundle takes the place of its context's
earlier kernels, and a section past 2^57, logs 88 and 110. -/
def Obligations.StewardAccessesKeysAndBundles : Prop :=
  (∀ st pa n ch, st < 16 → pa < 2 ^ 48 → memAt pa n = false → ∀ s, exec (.stewardCoreAccess st (.load pa n) ch) s = .fault (.noMemory pa)) ∧
  (∀ st pa n ch, st < 16 → Happens (.stewardCoreAccess st (.load pa n) ch) (fun s => keyedAt s st pa n) fun s t =>
    (t.steward st).out = 0 ∧ t.shallot.refused = s.shallot.refused + 1 ∧ t.mem = s.mem) ∧
  (∀ st pa n ch, st < 16 → Happens (.stewardCoreAccess st (.load pa n) ch) (fun s => plainAt s st pa n) fun s t =>
    t.mem = s.mem ∧ t.shallot = s.shallot) ∧
  (∀ st pa n ch, st < 16 → Happens (.stewardCoreAccess st (.load pa n) ch) (fun s => plainAt s st pa n ∧ here s pa + n ≤ 2 ^ 70 ∧ s.ord = Ord.empty)
    fun s t => (t.steward st).out = BitVec.ofNat 64 (s.rd (here s pa) n)) ∧
  (∀ st pa n ch v, st < 16 → 2 ^ 48 ≤ pa → Happens (.stewardCoreAccess st (.load pa n) ch) (fun s => regLoad s pa n = some v) fun s t =>
    t = s.setSteward st { s.steward st with out := BitVec.ofNat 64 v }) ∧
  (∀ st pa bs ch, st < 16 → Happens (.stewardCoreAccess st (.store pa bs) ch) (fun s => keyedAt s st pa bs.length) fun s t =>
    t.mem = s.mem ∧ t.shallot.refused = s.shallot.refused + 1) ∧
  (∀ st pa bs ch, st < 16 → Happens (.stewardCoreAccess st (.store pa bs) ch) (fun s => plainAt s st pa bs.length ∧ here s pa < 2 ^ 70) fun s t =>
    mread t.mem (here s pa) bs.length = bs ∧ OnlyBytes s t pa bs.length) ∧
  (∀ st pa bs ch r, st < 16 → 2 ^ 48 ≤ pa → pa % 8 + bs.length ≤ 8 → regAt (pa - 2 ^ 48) = some r →
    Happens (.stewardCoreAccess st (.store pa bs) ch) (fun _ => True) fun s t => t = regStore s r bs) ∧
  (∀ st pa bs ch, st < 16 → 2 ^ 48 ≤ pa → (8 < pa % 8 + bs.length ∨ regAt (pa - 2 ^ 48) = none) →
    ∀ s, exec (.stewardCoreAccess st (.store pa bs) ch) s = .fault (.noMemory pa)) ∧
  (∀ st pa n aq rl ch, st < 16 → Happens (.stewardCoreAccess st (.lr pa n aq rl) ch) (fun s => plainAt s st pa n) fun s t =>
    (t.steward st).resv = some (pa, n, lastWrite s (here s pa)) ∧ t.mem = s.mem) ∧
  (∀ st pa bs aq rl ch, st < 16 → Happens (.stewardCoreAccess st (.sc pa bs aq rl) ch)
      (fun s => memAt pa bs.length = true ∧ (s.steward st).resv ≠ some (pa, bs.length, lastWrite s (here s pa))) fun s t =>
    (t.steward st).out = 1 ∧ (t.steward st).resv = none ∧ t.mem = s.mem) ∧
  (∀ st pa bs aq rl ch, st < 16 → ch % 2 = 0 → Happens (.stewardCoreAccess st (.sc pa bs aq rl) ch)
      (fun s => plainAt s st pa bs.length ∧ here s pa < 2 ^ 70 ∧ (s.steward st).resv = some (pa, bs.length, lastWrite s (here s pa)))
    fun s t => (t.steward st).out = 0 ∧ (t.steward st).resv = none ∧ mread t.mem (here s pa) bs.length = bs ∧ OnlyBytes s t pa bs.length) ∧
  (∀ st op pa n x aq rl ch, st < 16 → Happens (.stewardCoreAccess st (.amo op pa n x aq rl) ch) (fun s => plainAt s st pa n ∧ here s pa < 2 ^ 70) fun s t =>
    ∃ old, (t.steward st).out = BitVec.ofNat 64 old ∧ OnlyBytes s t pa n ∧
      mread t.mem (here s pa) n = natLe n (atomicOp (amoOp op n).1 (amoOp op n).2 old x 0)) ∧
  (∀ st acc pa n ch, st < 16 → reaches acc pa n → Happens (.stewardCoreAccess st acc ch)
    (fun s => memAt pa n = true ∧ stewWaits s st (here s pa) n = true) fun s t => t = s) ∧
  (∀ st pr pw sr sw ch, st < 16 → Happens (.stewardCoreAccess st (.fence pr pw sr sw) ch) (fun _ => True) fun s t =>
    t = { s with ord := (fenceAgent s.ord (stewardAgent st) (stewardPlace s st) 5 (pr && sr && sw) (pr && pw && sw) false none).2 }) ∧
  (∀ st k ch, st < 16 → 10 < k → Happens (.stewardCoreAccess st (.ecall k) ch) (fun _ => True) fun s t =>
    t = s.setSteward st { s.steward st with out := -1 }) ∧
  (∀ st k ch, st < 16 → k ≤ 10 → Happens (.stewardCoreAccess st (.ecall k) ch) (fun _ => True) fun s t => t = s) ∧
  (∀ st acc ch, 16 ≤ st → Happens (.stewardCoreAccess st acc ch) (fun _ => True) fun s t => t = s) ∧
  (∀ k a, 1 ≤ k → k ≤ 63 → a < 256 → Happens (.shallotRequest (.giveKey k a)) (fun _ => True) fun _ t =>
    afind k t.shallot.keys = some a) ∧
  (∀ k, 1 ≤ k → k ≤ 63 → Happens (.shallotRequest (.newKey k)) (fun _ => True) fun s t =>
    aget 0 k t.shallot.gens = aget 0 k s.shallot.gens + 1 ∧ t.shallot.owner = s.shallot.owner) ∧
  (∀ f, f * 65536 < memLimit → Happens (.shallotRequest (.assign [f] 0))
      (fun s => aget 0 f s.shallot.owner ≠ 0 ∧ rising s.shallot.owner = true) fun s t =>
    aget 0 f t.shallot.owner = 0 ∧ (∀ k, here s (f * 65536) ≤ k → k < here s (f * 65536) + 65536 → t.byte k = 0) ∧
    OnlyBytes s t (f * 65536) 65536) ∧
  (∀ f k, f * 65536 < memLimit → 1 ≤ k → k ≤ 63 → Happens (.shallotRequest (.assign [f] k)) (fun _ => True) fun s t =>
    aget 0 f t.shallot.owner = k ∧ OnlyBytes s t (f * 65536) 65536) ∧
  (∀ a on, a < 256 → Happens (.shallotRequest (.confidential a on)) (fun _ => True) fun s t =>
    t = s.setAsid a { s.asid a with conf := on }) ∧
  (∀ nonce, Happens (.spdmRequest nonce) (fun _ => True) fun s t =>
    t.shallot.spdm = s.shallot.spdm ++ [(nonce, s.shallot.measured, s.shallot.refused)]) ∧
  (∀ asid b, 256 ≤ asid → Happens (.bundleLoad asid b) (fun _ => True) fun s t => t = s) ∧
  (∀ asid b, asid < 256 → readBundle b.file = none → Happens (.bundleLoad asid b) (fun _ => True) fun s t => t = { s with log := s.log ++ ["ELF"] }) ∧
  (∀ asid b c, asid < 256 → Happens (.bundleLoad asid b) (fun s => bundleCause s asid b = some c) fun s t => t = { s with log := s.log ++ [c] }) ∧
  (∀ asid b x, asid < 256 → x ∈ loadedOf b → 2 ^ 57 < x.addr + x.bytes.length → Happens (.bundleLoad asid b) (fun s => bundleCause s asid b = none)
    fun s t => t = { s with log := s.log ++ ["ELF"] }) ∧
  (∀ asid b, asid < 256 → (∀ x ∈ loadedOf b, x.addr + x.bytes.length ≤ 2 ^ 57) →
    Happens (.bundleLoad asid b) (fun s => bundleCause s asid b = none) fun s t =>
      t = { s with log := s.log ++ ["frames"] } ∨
        (∀ k ∈ kernelsOf asid b, k ∈ t.kernels) ∧ ∀ k ∈ t.kernels, k.asid = asid → k ∈ kernelsOf asid b)

/-! ### Boot, power, cooling, time -/

namespace Sys2Proof.Machine

/-- HOLD entered with a cause, unless the module was in OFF or HOLD (R346, R348). -/
def HeldFor (cause : Nat) (s t : State) : Prop :=
  if s.mod.state = 0 ∨ s.mod.state = 4 then t = s
  else t.mod.state = 4 ∧ t.mod.holdc = s.mod.holdc ||| BitVec.ofNat 32 (2 ^ cause) ∧ t.irqs = s.irqs + 1 ∧ t.log = s.log ++ ["hold"] ∧
    ∀ a, (∀ w ∈ s.ord.writes, w.priv = true → w.covers a = false) → t.byte a = s.byte a
/-- The state once a die's hottest junction has been found at a temperature above 95 °C. -/
def sensed (s : State) (die temp : Nat) : State :=
  { s with mod := { s.mod with hot := (die, temp) :: s.mod.hot.filter (fun h => h.1 != die), throt := true
                               tmax := hottest ((die, temp) :: s.mod.hot.filter fun h => h.1 != die) } }
/-- The boot loads the resident OS image and the Devicetree: each lies at its address, and every other byte is zero (R340). -/
def BootLoaded (fl : FlashState) (o : FlashImage) (t : State) : Prop :=
  let os := o.bytes.take (2 ^ 40 - fl.osAt)
  let dt := (devicetree t).take (2 ^ 40 - fl.dtAt)
  mread t.mem (devKey fl.index fl.dtAt) dt.length = dt ∧
  (fl.osAt + os.length ≤ fl.dtAt ∨ fl.dtAt + dt.length ≤ fl.osAt → mread t.mem (devKey fl.index fl.osAt) os.length = os) ∧
  ∀ k, (k < devKey fl.index fl.dtAt ∨ devKey fl.index fl.dtAt + dt.length ≤ k) →
    (k < devKey fl.index fl.osAt ∨ devKey fl.index fl.osAt + os.length ≤ k) → t.byte k = 0

end Sys2Proof.Machine

/-- R321, R339, R340, R345 to R350: the boot order and where it stops, what it loads, the power states, the power limit, the sensors and HOLD,
clock stretching without architectural effect, device time, and the status block that management reads. The model's choices: memory that
reads zero after a supply is log 3, what a loss of the supply leaves log 76, a boot that fails and an index above 143 log 77, when the
sensors are read log 78, the addresses that the boot loads to log 111. -/
def Obligations.BootPowerCoolingAndTime : Prop :=
  (∀ fl, fl.index ≤ 143 → Happens (.mainSupplyOn fl) (fun s => s.mod.state < 2 ∧ bootSlot fl.shallotA fl.shallotB fl.rollback = none) fun _ t =>
    t.mod.state = 1 ∧ t.mod.bootStep = 2 ∧ t.teams = [] ∧ t.mem = [] ∧ t.time = 0) ∧
  (∀ fl a, fl.index ≤ 143 → Happens (.mainSupplyOn fl) (fun s => s.mod.state < 2 ∧ bootSlot fl.shallotA fl.shallotB fl.rollback = some a ∧
      bootSlot fl.osA fl.osB fl.rollback = none) fun _ t => t.mod.state = 1 ∧ t.mod.bootStep = 3 ∧ t.shallot.measured = [a.digest] ∧
    t.mem = []) ∧
  (∀ fl a o, fl.index ≤ 143 → Happens (.mainSupplyOn fl) (fun s => s.mod.state < 2 ∧ bootSlot fl.shallotA fl.shallotB fl.rollback = some a ∧
      bootSlot fl.osA fl.osB fl.rollback = some o) fun _ t =>
    t.mod.state = 2 ∧ t.self = fl.index ∧ t.shallot.measured = [a.digest, o.digest] ∧ t.mod.plim = 3600 ∧ t.teams = [] ∧ BootLoaded fl o t ∧
    t.time = 0) ∧
  (∀ fl, Happens (.mainSupplyOn fl) (fun s => 2 ≤ s.mod.state ∨ 143 < fl.index) fun s t => t = s) ∧
  Happens .mainSupplyOff (fun _ => True) (fun _ t => t.mod.state = 0 ∧ t.teams = [] ∧ t.launches = [] ∧ t.mem = [] ∧ t.shallot.keys = [] ∧
    t.time = 0) ∧
  Happens (.idleRequest true) (fun _ => True) (fun s t => t = { s with mod := { s.mod with idleReq := true } }) ∧
  Happens (.idleRequest false) (fun _ => True) (fun s t =>
    t = { s with mod := { s.mod with idleReq := false, state := if s.mod.state = 3 then 2 else s.mod.state } }) ∧
  Happens .idleEnter (fun s => s.mod.idleReq = true ∧ s.mod.state = 2 ∧ ∀ x ∈ s.teams, x.2.resident = false) (fun s t =>
    t.mod.state = 3 ∧ t.mem = s.mem ∧ t.launches = s.launches) ∧
  Happens .idleEnter (fun s => s.mod.idleReq = false ∨ s.mod.state ≠ 2 ∨ ∃ x ∈ s.teams, x.2.resident = true) (fun s t => t = s) ∧
  (∀ w, Happens (.powerOverLimit w) (fun s => s.mod.plim.toNat < w) fun s t =>
    t = { s with mod := { s.mod with power := BitVec.ofNat 16 w, overPower := true, throt := true } }) ∧
  (∀ w, Happens (.powerWithinLimit w) (fun s => w ≤ s.mod.plim.toNat) fun s t =>
    t = { s with mod := { s.mod with power := BitVec.ofNat 16 w, overPower := false, throt := !s.mod.hot.isEmpty } }) ∧
  (∀ die temp, die < 5 → 95 < temp → temp < 105 → Happens (.junctionOver95c die temp) (fun _ => True) fun s t => t = sensed s die temp) ∧
  (∀ die temp, die < 5 → 105 ≤ temp → Happens (.junctionOver95c die temp) (fun _ => True) fun s t => HeldFor 0 (sensed s die temp) t) ∧
  (∀ die temp, die < 5 → temp ≤ 95 → Happens (.junctionOver95c die temp) (fun s => ∃ h ∈ s.mod.hot, h.1 ≠ die) fun s t =>
    t.mod.throt = true ∧ t.mod.hot = s.mod.hot.filter (fun h => h.1 != die) ∧ t.mod.tmax = hottest t.mod.hot ∧ t.groups = s.groups ∧
    t.mem = s.mem) ∧
  (∀ die temp, 5 ≤ die → Happens (.junctionOver95c die temp) (fun _ => True) fun s t => t = s) ∧
  (∀ l : List (Nat × Nat), (∀ h ∈ l, min 255 h.2 ≤ (hottest l).toNat) ∧ (l ≠ [] → ∃ h ∈ l, (hottest l).toNat = min 255 h.2)) ∧
  (∀ temp, temp ≤ 95 → Happens (.junctionBelow95c temp) (fun _ => True) fun s t =>
    t.mod.throt = s.mod.overPower ∧ t.mod.hot = [] ∧ t.mod.tmax = BitVec.ofNat 8 temp ∧ t.groups = s.groups ∧ t.mem = s.mem) ∧
  (∀ die temp, die < 5 → 105 ≤ temp → Happens (.thermalTrip (.junction die temp)) (fun _ => True) fun s t => HeldFor 0 (sensed s die temp) t) ∧
  (∀ die temp, 5 ≤ die ∨ temp < 105 → Happens (.thermalTrip (.junction die temp)) (fun _ => True) fun s t => t = s) ∧
  Happens (.thermalTrip .supply) (fun _ => True) (HeldFor 2) ∧
  (∀ t0, Happens .coolantFlowTimeout (fun s => s.mod.lowFlow = some t0 ∧ t0 + 1000000000 ≤ s.time) (HeldFor 1)) ∧
  Happens .coolantFlowTimeout (fun s => ∀ t0, s.mod.lowFlow = some t0 → s.time < t0 + 1000000000) (fun s t => t = s) ∧
  (∀ inlet, Happens (.coolantFlowChange true inlet) (fun s => s.mod.lowFlow = none) fun s t =>
    t.mod.lowFlow = some s.time ∧ t.mod.tcool = BitVec.ofNat 8 inlet) ∧
  (∀ inlet, Happens (.coolantFlowChange false inlet) (fun _ => True) fun _ t =>
    t.mod.lowFlow = none ∧ t.mod.tcool = BitVec.ofNat 8 inlet) ∧
  (∀ die, Happens (.supplySagTrip die) (fun _ => True) fun s t =>
    die ∈ t.mod.stretch ∧ t = { s with mod := { s.mod with stretch := t.mod.stretch } }) ∧
  (∀ die, Happens (.supplySagClear die) (fun _ => True) fun s t =>
    die ∉ t.mod.stretch ∧ t = { s with mod := { s.mod with stretch := t.mod.stretch } }) ∧
  (∀ off, Happens (.ptpMessage off) (fun _ => True) fun s t => t = { s with slew := off, mod := { s.mod with sync := true } }) ∧
  Happens .grandmasterLost (fun _ => True) (fun s t => t = { s with slew := 0, mod := { s.mod with sync := false } }) ∧
  (∀ s ns cyc r, s.cur = none → s.inputs = .tick ns cyc :: r → s.mod.state ≠ 0 → ∃ t, Machine.step s = .next t ∧
    t.time ≤ s.time + ns + (s.slewRem + ns) / 2000 ∧ s.time + ns ≤ t.time + (s.slewRem + ns) / 2000 ∧ t.mem = s.mem ∧
    (s.slewRem < 2000 → (t.time : Int) + t.slew = s.time + ns + s.slew ∧ t.slewRem < 2000 ∧ s.time ≤ t.time ∧
      (2000 ≤ s.slewRem + ns → s.slew ≠ 0 → t.slew.natAbs < s.slew.natAbs))) ∧
  (∀ s : State, bits (statusBlock s) 0 16 = s.mod.power.toNat ∧ bits (statusBlock s) 16 16 = s.mod.plim.toNat ∧
    bits (statusBlock s) 32 8 = s.mod.tmax.toNat ∧ bits (statusBlock s) 40 8 = s.mod.tcool.toNat ∧
    bits (statusBlock s) 48 3 = s.mod.state % 8 ∧ bits (statusBlock s) 51 1 = s.mod.throt.toNat ∧
    bits (statusBlock s) 52 1 = s.mod.sync.toNat ∧ bits (statusBlock s) 53 11 = 0 ∧ bits (statusBlock s) 64 32 = s.mod.corr.toNat ∧
    bits (statusBlock s) 96 32 = s.mod.holdc.toNat)

/-! ### The whole machine: issue, the step, decoding, memory, reset -/

namespace Sys2Proof.Machine

/-- An instruction of the general map, which a group may name: it has a word, and no matrix opcode. -/
def isGeneral (i : Instr) : Bool :=
  isRadishForm i || match encodeWords i with | w :: _ => !isMatrixOp (opcodeOf w) | [] => false
/-- The registers that an instruction names under the MODE it runs with. -/
def usesOf (s : State) (gid : Nat) (i : Instr) : List Use :=
  (describe s i).uses (modeType ((describe s i).mode (s.grp gid)))
/-- A field holds a reserved value: one the layout or R73 forbids, an odd pair, a register past its file, an immediate out of range. -/
def reservedField (s : State) (gid fid : Nat) (i : Instr) : Prop :=
  (describe s i).wf = false ∨ (∃ u ∈ usesOf s gid i, u.odd = true ∨ u.past = true) ∨
    (describe s i).immOk (ctxOf s gid fid i).imm = false
/-- A lane register at or above the group's allotment. -/
def outsideAllot (s : State) (gid : Nat) (i : Instr) : Prop := ∃ u ∈ usesOf s gid i, u.file = 0 ∧ (s.grp gid).allot < u.num + u.n
/-- A register that an instruction names. -/
def names (s : State) (gid : Nat) (i : Instr) (p : Nat × Nat) : Prop := ∃ u ∈ usesOf s gid i, u.file = p.1 ∧ p.2 ∈ u.regs
/-- The fault that an instruction takes before its MODE is loaded, or after. -/
def traps (s : State) (gid fid : Nat) (i : Instr) (e : FaultInfo) : Prop :=
  exec i s = .next (takeFault s gid fid e (ctxOf s gid fid i).act)
def trapsEntered (s : State) (gid fid : Nat) (i : Instr) (e : FaultInfo) : Prop :=
  exec i s = .next (takeFault (entered s gid i) gid fid e (ctxOf s gid fid i).act)
/-- An instruction passes the first five conditions of R75. -/
def passesWord (s : State) (gid fid : Nat) (i : Instr) : Prop :=
  roleAllows (s.kindOf (s.grp gid)) (describe s i).op = true ∧ litMisuse (describe s i) (modeType ((describe s i).mode (s.grp gid))) = false ∧
    ¬reservedField s gid fid i ∧ ¬outsideAllot s gid i

end Sys2Proof.Machine

/-- R75, R37, R39, R73, R74, R48, R318: an instruction that a group issues takes the first fault of R75's order: the word's own, the
type's, then that of the fetch of its further words where they could not be fetched, then the hazard of a pending register, then poison
that the interlocked results leave, whatever lanes are active; a matrix opcode is the role fault. The model's choices: that the fault of
the fetch of further words stands there, with MODE loaded, is log 60; which register of several a hazard names, log 59. -/
def Obligations.IssueChecksFaultInOrder : Prop :=
  (∀ (i : Instr) (s : State) (gid fid : Nat), isGeneral i = true → s.cur = some (.frag gid fid) →
    (afind fid (s.grp gid).frags).isSome = true →
    (roleAllows (s.kindOf (s.grp gid)) (describe s i).op = false → traps s gid fid i (flt 3 0)) ∧
    (roleAllows (s.kindOf (s.grp gid)) (describe s i).op = true →
      litMisuse (describe s i) (modeType ((describe s i).mode (s.grp gid))) = true → traps s gid fid i (flt 1 3)) ∧
    (roleAllows (s.kindOf (s.grp gid)) (describe s i).op = true →
      litMisuse (describe s i) (modeType ((describe s i).mode (s.grp gid))) = false →
      reservedField s gid fid i → traps s gid fid i (flt 1 1)) ∧
    (roleAllows (s.kindOf (s.grp gid)) (describe s i).op = true →
      litMisuse (describe s i) (modeType ((describe s i).mode (s.grp gid))) = false →
      ¬reservedField s gid fid i → outsideAllot s gid i → traps s gid fid i (flt 1 2)) ∧
    (passesWord s gid fid i → (describe s i).rad.isSome = true → modeLegal ((describe s i).mode (s.grp gid)) = false →
      traps s gid fid i (flt 2 0)) ∧
    (passesWord s gid fid i → ((describe s i).rad.isSome = true → modeLegal ((describe s i).mode (s.grp gid)) = true) →
      ((describe s i).types (ctxOf s gid fid i).imm (modeType ((describe s i).mode (s.grp gid))) = false → trapsEntered s gid fid i (flt 2 1)) ∧
      (∀ c f ea em, (s.grp gid).late = some (c, f, ea, em) →
        (describe s i).types (ctxOf s gid fid i).imm (modeType ((describe s i).mode (s.grp gid))) = true →
        trapsEntered s gid fid i { fltA c f ea with mask := some em }) ∧
      ((s.grp gid).late = none → (describe s i).types (ctxOf s gid fid i).imm (modeType ((describe s i).mode (s.grp gid))) = true →
        ((∃ p, names s gid i p ∧ (s.grp gid).isPend p.1 p.2 = true) →
          ∃ p, names s gid i p ∧ (s.grp gid).isPend p.1 p.2 = true ∧ trapsEntered s gid fid i (fltV 4 0 (p.2 + 256 * p.1))) ∧
        ((∀ p, names s gid i p → (s.grp gid).isPend p.1 p.2 = false) →
          poisonedUse ((s.grp gid).interlock (usesOf s gid i)) (usesOf s gid i) (ctxOf s gid fid i).act = true → trapsEntered s gid fid i (flt 15 0))))) ∧
  (∀ (i : Instr) (s : State) (gid fid : Nat), (∃ w r, encodeWords i = w :: r ∧ isMatrixOp (opcodeOf w) = true ∧ isRadishForm i = false) →
    s.cur = some (.frag gid fid) → exec i s = .next (takeFault s gid fid (flt 3 0) ((s.grp gid).frag fid).em)) ∧
  (∀ (s : State) (gid fid : Nat) (rad : Bool) (w : BitVec 64), s.cur = some (.frag gid fid) →
    exec (.unlistedOpcode rad w) s = .next (takeFault s gid fid
      (if rad = true ∧ isMatrixOp (opcodeOf (radUpper w)) = true then flt 3 0 else flt 1 0) ((s.grp gid).frag fid).em))

namespace Sys2Proof.Machine

/-- What a fetcher finds at its PC: n words, and the state that its translation leaves. -/
def finds (s : State) (x : Fetcher) (n : Nat) (ws : List Word) : Prop := fetchWords s x.agent x.place x.asid x.pc n = .ok ws

end Sys2Proof.Machine

/-- R60, R75, R76, R183, R329, R340, R346: a step of the agent that has the issue slot runs exactly the instruction that the words at its PC decode
to, in the state that the fetch of its words leaves; a word that no opcode lists, a PC that cannot be fetched and a stream's LIT fault; without an
issuing agent the next input happens: an event, the host in its own memory or at a function's BAR0, which holds the mailbox block and
reads as zero above it; while the boot runs the steward cores do nothing, and in OFF nothing runs until the supply returns. The model's
choices: that inputs come one at a time in an order given from outside is log 8, and which events the steward cores make, so that none
happens in BOOT, log 77; where the fetch of further words stands is log 60. -/
def Obligations.StepRunsWhatItFetches : Prop :=
  (∀ (s : State) (gid fid : Nat) (f : Frag) (w : Word) (ex : List Word) (i : Instr), s.cur = some (.frag gid fid) →
    afind fid (s.grp gid).frags = some f → s.radOf (s.grp gid) = false → finds s (s.fragFetcher gid fid f) 1 [w] →
    (listedOp false (opcodeOf w) = false → Machine.step s = .next (endTurn (.frag gid fid)
      (takeFault (s.noteFetch (s.fragFetcher gid fid f)) gid fid (flt 1 0)
        (decodeMask (s.grp gid) f (some (w, (s.grp gid).mode)))))) ∧
    (listedOp false (opcodeOf w) = true → roleAllows (s.kindOf (s.grp gid)) (opcodeOf w) = true →
      fetchWords (s.noteFetch (s.fragFetcher gid fid f)) (fetchAgent gid) (s.placeOf gid) (s.asidOf (s.grp gid)) (f.pc + 4)
        (marrowExtra w) = .ok ex → decodeMarrow w ex = .ok i →
      Machine.step s = Ran.mapNext (exec i ((s.noteFetch (s.fragFetcher gid fid f)).noteWords (s.asidOf (s.grp gid)) (f.pc + 4) (marrowExtra w)))
        (endTurn (.frag gid fid)))) ∧
  (∀ (s : State) (gid fid : Nat) (f : Frag) (lo hi : Word) (ex : List Word) (i : Instr), s.cur = some (.frag gid fid) →
    afind fid (s.grp gid).frags = some f → s.radOf (s.grp gid) = true → finds s (s.fragFetcher gid fid f) 2 [lo, hi] →
    listedOp true (opcodeOf hi) = true → roleAllows (s.kindOf (s.grp gid)) (opcodeOf hi) = true →
    fetchWords (s.noteFetch (s.fragFetcher gid fid f)) (fetchAgent gid) (s.placeOf gid) (s.asidOf (s.grp gid)) (f.pc + 8)
      (2 * radishExtra (hi ++ lo)) = .ok ex → decodeRadish (hi ++ lo) (pairUp ex) = .ok i →
    Machine.step s = Ran.mapNext (exec i ((s.noteFetch (s.fragFetcher gid fid f)).noteWords (s.asidOf (s.grp gid)) (f.pc + 8)
      (2 * radishExtra (hi ++ lo)))) (endTurn (.frag gid fid))) ∧
  (∀ (s : State) (tid : Nat) (w : Word) (ex : List Word) (i : Instr), s.cur = some (.stream tid) → (s.str tid).live = true →
    finds s (s.streamFetcher tid) 1 [w] → listedOp false (opcodeOf w) = true → streamAllows (opcodeOf w) = true → opcodeOf w ≠ 0xFF →
    fetchWords (s.noteFetch (s.streamFetcher tid)) (streamFetch tid) (s.streamPlace tid) (s.launch (s.team tid).launch).asid
      ((s.str tid).pc + 4) (marrowExtra w) = .ok ex → decodeMarrow w ex = .ok i →
    Machine.step s = Ran.mapNext (exec i ((s.noteFetch (s.streamFetcher tid)).noteWords (s.launch (s.team tid).launch).asid ((s.str tid).pc + 4)
      (marrowExtra w))) (endTurn (.stream tid))) ∧
  (∀ (s : State) (tid : Nat) (w : Word), s.cur = some (.stream tid) → (s.str tid).live = true →
    finds s (s.streamFetcher tid) 1 [w] → opcodeOf w = 0xFF →
    Machine.step s = .next (endTurn (.stream tid) (takeStreamFault (s.noteFetch (s.streamFetcher tid)) tid (flt 1 3)))) ∧
  (∀ (s : State) (gid fid : Nat) (f : Frag) (e : FaultInfo), s.cur = some (.frag gid fid) → afind fid (s.grp gid).frags = some f →
    fetchWords s (fetchAgent gid) (s.placeOf gid) (s.asidOf (s.grp gid)) f.pc (if s.radOf (s.grp gid) = true then 2 else 1) = .error e →
    Machine.step s = .next (endTurn (.frag gid fid) (takeFault s gid fid e f.em))) ∧
  (∀ (s : State) (tid : Nat) (e : FaultInfo), s.cur = some (.stream tid) → (s.str tid).live = true →
    fetchWords s (streamFetch tid) (s.streamPlace tid) (s.launch (s.team tid).launch).asid (s.str tid).pc 1 = .error e →
    Machine.step s = .next (endTurn (.stream tid) (takeStreamFault s tid e))) ∧
  (∀ (s : State) (i : Instr) (r : List Input), s.cur = none → s.inputs = .ev i :: r →
    (s.mod.state ≠ 0 ∧ (5 ≤ s.mod.bootStep ∨ bySteward i = false) ∨ ∃ fl, i = .mainSupplyOn fl) →
    Machine.step s = Ran.mapNext (exec i { s with inputs := r }) endEvent) ∧
  (∀ (s : State) (i : Instr) (r : List Input), s.cur = none → s.inputs = .ev i :: r → s.mod.bootStep < 5 → bySteward i = true →
    Machine.step s = .next (endEvent { s with inputs := r })) ∧
  (∀ (s : State) (x : Input) (r : List Input), s.cur = none → s.inputs = x :: r → s.mod.state = 0 →
    (∀ fl, x ≠ .ev (.mainSupplyOn fl)) → (∀ a bs, x ≠ .host a bs) → Machine.step s = .next (endEvent { s with inputs := r })) ∧
  (∀ (s : State) (a : Nat) (bs : List Byte) (r : List Input), s.cur = none → s.inputs = .host a bs :: r →
    ∃ t, Machine.step s = .next t ∧ t.mem = s.mem ∧ mread t.hostMem a bs.length = bs ∧
      ∀ k, k < a ∨ a + bs.length ≤ k → mget t.hostMem k = mget s.hostMem k) ∧
  (∀ (s : State) (fn off n : Nat) (r : List Input), s.cur = none → s.inputs = .barRead fn off n :: r → s.mod.state ≠ 0 →
    fn < 17 → off + n ≤ 65536 →
    ∃ t, Machine.step s = .next t ∧ t.mem = s.mem ∧ t.hostMem = s.hostMem ∧ t.mboxes = s.mboxes ∧ t.barOut.length = n ∧
      ∀ j < n, t.barOut.getD j 0 = if off + j < 32 then BitVec.ofNat 8 (bits (mboxImage s fn) (8 * (off + j)) 8) else 0) ∧
  (∀ (s : State) (fn off : Nat) (bs : List Byte) (r : List Input), s.cur = none → s.inputs = .barWrite fn off bs :: r → 32 ≤ off →
    Machine.step s = .next (endEvent { s with inputs := r })) ∧
  (∀ (s : State) (fn off : Nat) (bs : List Byte) (r : List Input), s.cur = none → s.inputs = .barWrite fn off bs :: r →
    s.mod.state ≠ 0 → fn < 17 → off < 32 → off % 8 + bs.length ≤ 8 → bs ≠ [] →
    Machine.step s = .next (endEvent (regStore { s with inputs := r } (.mbox fn off) bs))) ∧
  (∀ s : State, s.cur = none → s.inputs = [] → Machine.step s = .next s)

/-- R60 to R72, R76 to R78: words written out from the encodings decode to the instructions they stand for. -/
def Obligations.WordsDecodeAsTheirEncodingsSay : Prop :=
  decodeMarrow 0x30010203#32 [] = .ok (.iadd 1 2 3) ∧
  decodeMarrow 0x01000321#32 [] = .ok (.setm 0x321) ∧
  decodeMarrow 0x04400010#32 [] = .ok (.bra 1 16) ∧
  decodeMarrow 0x0540_0004#32 [] = .ok (.brd 1 0 false 4) ∧
  decodeMarrow 0x06000502#32 [8, 12] = .ok (.brx 0 5 [8, 12]) ∧
  decodeMarrow 0x13000012#32 [] = .ok (.bar 1 2) ∧
  decodeMarrow 0x50010203#32 [] = .ok (.sadd 1 2 3) ∧
  decodeMarrow 0x60040506#32 [] = .ok (.fadd 4 5 6) ∧
  decodeMarrow 0x80010205#32 [] = .ok (.cvt 1 2 5) ∧
  decodeMarrow 0xA007FF8A#32 [] = .ok (.ldGlobal 7 0xFF 4 1 2) ∧
  decodeMarrow 0xC0000000#32 [] = .error .reserved ∧
  decodeMarrow 0xFF000000#32 [0x1234] = .ok (.lit false 0x1234) ∧
  decodeMarrow 0x26000000#32 [] = .error .unlisted ∧
  decodeRadish 0x3001020302000000#64 [] = .ok (.iaddRadish 0x20 1 2 3) ∧
  decodeRadish 0xE000000000000000#64 [] = .error .role

/-- R60 to R79: in both encodings the decoder reads back every well-formed instruction from the bytes that encode it, with every
operand at every value. -/
def Obligations.DecodingReadsBackEveryEncoding : Prop :=
  ∀ i : Instr, WellFormed i = true → encodeWords i ≠ [] →
    (isRadishForm i = false → decodeMarrowBytes (encode i) = some (.ok i)) ∧
    (isRadishForm i = true → decodeRadishBytes (encode i) = some (.ok i))

namespace Sys2Proof.Machine

/-- The memories of the device and of the host keep their canonical form. -/
def MemInv (s : State) : Prop := Memory.wf s.mem = true ∧ Memory.wf s.hostMem = true

end Sys2Proof.Machine

/-- From every state whose memories are in canonical form, a step that answers a next state leaves them so: equal memories are equal
data (the form is the model's own, log 3). -/
def Obligations.EveryStepKeepsMemoryCanonical : Prop :=
  ∀ s t : State, MemInv s → Machine.step s = .next t → MemInv t

/-- R3, R292, R330, R335 to R338, R346, R350: what reset leaves where the spec gives it: BOOT, PLIM 3,600 W, no team, nothing enabled,
nothing under way; and the canonical form holds. That the device holds no translation, launch, group or team then, and the zeros of the
ring indices, are the model's choices where the spec gives none (log 1). -/
def Obligations.ResetLeavesTheSpecsValues : Prop :=
  MemInv State.reset ∧ State.reset.mod.state = 1 ∧ State.reset.mod.plim = 3600 ∧ State.reset.mod.corr = 0 ∧ State.reset.mod.throt = false ∧
  State.reset.teams = [] ∧ State.reset.groups = [] ∧ State.reset.launches = [] ∧ State.reset.tlb = [] ∧ State.reset.tabs = [] ∧
  (∀ q, (State.reset.queue q).en = false) ∧ (∀ a, (State.reset.asid a).en = false ∧ (State.reset.asid a).conf = false) ∧
  (∀ e, (aget TtEnt.empty e State.reset.tt).en = false) ∧ (∀ i, (aget Dom.empty i State.reset.domain).valid = false) ∧
  (∀ fn, (State.reset.mbox fn).en = false ∧ (State.reset.mbox fn).ready = false ∧ (State.reset.mbox fn).head = 0 ∧
    (State.reset.mbox fn).tail = 0) ∧
  State.reset.inval.busy = false ∧ State.reset.cmd.busy = false ∧ State.reset.repHead = 0 ∧ State.reset.repTail = 0

/-- No step is refused, and one stops only where a steward core reaches for an address with neither memory nor a register, a stop that is the
model's choice (log 86): every other instruction and event ends in a next state. -/
def Obligations.OnlyMissingMemoryStopsAStep : Prop :=
  ∀ s : State, (∃ t, Machine.step s = .next t) ∨
    ∃ st acc ch r, st < 16 ∧ s.cur = none ∧ s.inputs = .ev (.stewardCoreAccess st acc ch) :: r ∧
      Machine.step s = .fault (.noMemory (accPa acc)) ∧ stewAccess { s with inputs := r } st acc ch = none
end

