-- ==== Sys2Proof/Laws/State.lean ====
section
/-! SUPPORT. What each update of the state, of a group and of a fragment leaves as it was, field by field, and what it sets: no
proof need unfold a record update. -/
set_option linter.all false
namespace Sys2Proof.Machine

/-! ### Updates of the state -/

@[simp] theorem State.setGrp_groups (s : State) (g : Nat) (x : Group) : (s.setGrp g x).groups = aput g x s.groups := rfl
@[simp] theorem State.setGrp_teams (s : State) (g : Nat) (x : Group) : (s.setGrp g x).teams = s.teams := rfl
@[simp] theorem State.setGrp_clusters (s : State) (g : Nat) (x : Group) : (s.setGrp g x).clusters = s.clusters := rfl
@[simp] theorem State.setGrp_launches (s : State) (g : Nat) (x : Group) : (s.setGrp g x).launches = s.launches := rfl
@[simp] theorem State.setGrp_nextLaunch (s : State) (g : Nat) (x : Group) : (s.setGrp g x).nextLaunch = s.nextLaunch := rfl
@[simp] theorem State.setGrp_nextUnit (s : State) (g : Nat) (x : Group) : (s.setGrp g x).nextUnit = s.nextUnit := rfl
@[simp] theorem State.setGrp_cores (s : State) (g : Nat) (x : Group) : (s.setGrp g x).cores = s.cores := rfl
@[simp] theorem State.setGrp_copies (s : State) (g : Nat) (x : Group) : (s.setGrp g x).copies = s.copies := rfl
@[simp] theorem State.setGrp_mem (s : State) (g : Nat) (x : Group) : (s.setGrp g x).mem = s.mem := rfl
@[simp] theorem State.setGrp_hostMem (s : State) (g : Nat) (x : Group) : (s.setGrp g x).hostMem = s.hostMem := rfl
@[simp] theorem State.setGrp_ord (s : State) (g : Nat) (x : Group) : (s.setGrp g x).ord = s.ord := rfl
@[simp] theorem State.setGrp_mpois (s : State) (g : Nat) (x : Group) : (s.setGrp g x).mpois = s.mpois := rfl
@[simp] theorem State.setGrp_parks (s : State) (g : Nat) (x : Group) : (s.setGrp g x).parks = s.parks := rfl
@[simp] theorem State.setGrp_objs (s : State) (g : Nat) (x : Group) : (s.setGrp g x).objs = s.objs := rfl
@[simp] theorem State.setGrp_asids (s : State) (g : Nat) (x : Group) : (s.setGrp g x).asids = s.asids := rfl
@[simp] theorem State.setGrp_tlb (s : State) (g : Nat) (x : Group) : (s.setGrp g x).tlb = s.tlb := rfl
@[simp] theorem State.setGrp_tabs (s : State) (g : Nat) (x : Group) : (s.setGrp g x).tabs = s.tabs := rfl
@[simp] theorem State.setGrp_heaps (s : State) (g : Nat) (x : Group) : (s.setGrp g x).heaps = s.heaps := rfl
@[simp] theorem State.setGrp_collapses (s : State) (g : Nat) (x : Group) : (s.setGrp g x).collapses = s.collapses := rfl
@[simp] theorem State.setGrp_queues (s : State) (g : Nat) (x : Group) : (s.setGrp g x).queues = s.queues := rfl
@[simp] theorem State.setGrp_turns (s : State) (g : Nat) (x : Group) : (s.setGrp g x).turns = s.turns := rfl
@[simp] theorem State.setGrp_tt (s : State) (g : Nat) (x : Group) : (s.setGrp g x).tt = s.tt := rfl
@[simp] theorem State.setGrp_migq (s : State) (g : Nat) (x : Group) : (s.setGrp g x).migq = s.migq := rfl
@[simp] theorem State.setGrp_cmd (s : State) (g : Nat) (x : Group) : (s.setGrp g x).cmd = s.cmd := rfl
@[simp] theorem State.setGrp_inval (s : State) (g : Nat) (x : Group) : (s.setGrp g x).inval = s.inval := rfl
@[simp] theorem State.setGrp_repHead (s : State) (g : Nat) (x : Group) : (s.setGrp g x).repHead = s.repHead := rfl
@[simp] theorem State.setGrp_repTail (s : State) (g : Nat) (x : Group) : (s.setGrp g x).repTail = s.repTail := rfl
@[simp] theorem State.setGrp_repHeld (s : State) (g : Nat) (x : Group) : (s.setGrp g x).repHeld = s.repHeld := rfl
@[simp] theorem State.setGrp_repMem (s : State) (g : Nat) (x : Group) : (s.setGrp g x).repMem = s.repMem := rfl
@[simp] theorem State.setGrp_mboxes (s : State) (g : Nat) (x : Group) : (s.setGrp g x).mboxes = s.mboxes := rfl
@[simp] theorem State.setGrp_barOut (s : State) (g : Nat) (x : Group) : (s.setGrp g x).barOut = s.barOut := rfl
@[simp] theorem State.setGrp_stewards (s : State) (g : Nat) (x : Group) : (s.setGrp g x).stewards = s.stewards := rfl
@[simp] theorem State.setGrp_waitCalls (s : State) (g : Nat) (x : Group) : (s.setGrp g x).waitCalls = s.waitCalls := rfl
@[simp] theorem State.setGrp_domain (s : State) (g : Nat) (x : Group) : (s.setGrp g x).domain = s.domain := rfl
@[simp] theorem State.setGrp_self (s : State) (g : Nat) (x : Group) : (s.setGrp g x).self = s.self := rfl
@[simp] theorem State.setGrp_loops (s : State) (g : Nat) (x : Group) : (s.setGrp g x).loops = s.loops := rfl
@[simp] theorem State.setGrp_links (s : State) (g : Nat) (x : Group) : (s.setGrp g x).links = s.links := rfl
@[simp] theorem State.setGrp_kernels (s : State) (g : Nat) (x : Group) : (s.setGrp g x).kernels = s.kernels := rfl
@[simp] theorem State.setGrp_images (s : State) (g : Nat) (x : Group) : (s.setGrp g x).images = s.images := rfl
@[simp] theorem State.setGrp_mod (s : State) (g : Nat) (x : Group) : (s.setGrp g x).mod = s.mod := rfl
@[simp] theorem State.setGrp_shallot (s : State) (g : Nat) (x : Group) : (s.setGrp g x).shallot = s.shallot := rfl
@[simp] theorem State.setGrp_time (s : State) (g : Nat) (x : Group) : (s.setGrp g x).time = s.time := rfl
@[simp] theorem State.setGrp_slew (s : State) (g : Nat) (x : Group) : (s.setGrp g x).slew = s.slew := rfl
@[simp] theorem State.setGrp_slewRem (s : State) (g : Nat) (x : Group) : (s.setGrp g x).slewRem = s.slewRem := rfl
@[simp] theorem State.setGrp_cycles (s : State) (g : Nat) (x : Group) : (s.setGrp g x).cycles = s.cycles := rfl
@[simp] theorem State.setGrp_irqs (s : State) (g : Nat) (x : Group) : (s.setGrp g x).irqs = s.irqs := rfl
@[simp] theorem State.setGrp_log (s : State) (g : Nat) (x : Group) : (s.setGrp g x).log = s.log := rfl
@[simp] theorem State.setGrp_inputs (s : State) (g : Nat) (x : Group) : (s.setGrp g x).inputs = s.inputs := rfl
@[simp] theorem State.setGrp_cur (s : State) (g : Nat) (x : Group) : (s.setGrp g x).cur = s.cur := rfl
@[simp] theorem State.setGrp_fresh (s : State) (g : Nat) (x : Group) : (s.setGrp g x).fresh = s.fresh := rfl

@[simp] theorem State.setTeam_groups (s : State) (g : Nat) (x : Team) : (s.setTeam g x).groups = s.groups := rfl
@[simp] theorem State.setTeam_teams (s : State) (g : Nat) (x : Team) : (s.setTeam g x).teams = aput g x s.teams := rfl
@[simp] theorem State.setTeam_clusters (s : State) (g : Nat) (x : Team) : (s.setTeam g x).clusters = s.clusters := rfl
@[simp] theorem State.setTeam_launches (s : State) (g : Nat) (x : Team) : (s.setTeam g x).launches = s.launches := rfl
@[simp] theorem State.setTeam_nextLaunch (s : State) (g : Nat) (x : Team) : (s.setTeam g x).nextLaunch = s.nextLaunch := rfl
@[simp] theorem State.setTeam_nextUnit (s : State) (g : Nat) (x : Team) : (s.setTeam g x).nextUnit = s.nextUnit := rfl
@[simp] theorem State.setTeam_cores (s : State) (g : Nat) (x : Team) : (s.setTeam g x).cores = s.cores := rfl
@[simp] theorem State.setTeam_copies (s : State) (g : Nat) (x : Team) : (s.setTeam g x).copies = s.copies := rfl
@[simp] theorem State.setTeam_mem (s : State) (g : Nat) (x : Team) : (s.setTeam g x).mem = s.mem := rfl
@[simp] theorem State.setTeam_hostMem (s : State) (g : Nat) (x : Team) : (s.setTeam g x).hostMem = s.hostMem := rfl
@[simp] theorem State.setTeam_ord (s : State) (g : Nat) (x : Team) : (s.setTeam g x).ord = s.ord := rfl
@[simp] theorem State.setTeam_mpois (s : State) (g : Nat) (x : Team) : (s.setTeam g x).mpois = s.mpois := rfl
@[simp] theorem State.setTeam_parks (s : State) (g : Nat) (x : Team) : (s.setTeam g x).parks = s.parks := rfl
@[simp] theorem State.setTeam_objs (s : State) (g : Nat) (x : Team) : (s.setTeam g x).objs = s.objs := rfl
@[simp] theorem State.setTeam_asids (s : State) (g : Nat) (x : Team) : (s.setTeam g x).asids = s.asids := rfl
@[simp] theorem State.setTeam_tlb (s : State) (g : Nat) (x : Team) : (s.setTeam g x).tlb = s.tlb := rfl
@[simp] theorem State.setTeam_tabs (s : State) (g : Nat) (x : Team) : (s.setTeam g x).tabs = s.tabs := rfl
@[simp] theorem State.setTeam_heaps (s : State) (g : Nat) (x : Team) : (s.setTeam g x).heaps = s.heaps := rfl
@[simp] theorem State.setTeam_collapses (s : State) (g : Nat) (x : Team) : (s.setTeam g x).collapses = s.collapses := rfl
@[simp] theorem State.setTeam_queues (s : State) (g : Nat) (x : Team) : (s.setTeam g x).queues = s.queues := rfl
@[simp] theorem State.setTeam_turns (s : State) (g : Nat) (x : Team) : (s.setTeam g x).turns = s.turns := rfl
@[simp] theorem State.setTeam_tt (s : State) (g : Nat) (x : Team) : (s.setTeam g x).tt = s.tt := rfl
@[simp] theorem State.setTeam_migq (s : State) (g : Nat) (x : Team) : (s.setTeam g x).migq = s.migq := rfl
@[simp] theorem State.setTeam_cmd (s : State) (g : Nat) (x : Team) : (s.setTeam g x).cmd = s.cmd := rfl
@[simp] theorem State.setTeam_inval (s : State) (g : Nat) (x : Team) : (s.setTeam g x).inval = s.inval := rfl
@[simp] theorem State.setTeam_repHead (s : State) (g : Nat) (x : Team) : (s.setTeam g x).repHead = s.repHead := rfl
@[simp] theorem State.setTeam_repTail (s : State) (g : Nat) (x : Team) : (s.setTeam g x).repTail = s.repTail := rfl
@[simp] theorem State.setTeam_repHeld (s : State) (g : Nat) (x : Team) : (s.setTeam g x).repHeld = s.repHeld := rfl
@[simp] theorem State.setTeam_repMem (s : State) (g : Nat) (x : Team) : (s.setTeam g x).repMem = s.repMem := rfl
@[simp] theorem State.setTeam_mboxes (s : State) (g : Nat) (x : Team) : (s.setTeam g x).mboxes = s.mboxes := rfl
@[simp] theorem State.setTeam_barOut (s : State) (g : Nat) (x : Team) : (s.setTeam g x).barOut = s.barOut := rfl
@[simp] theorem State.setTeam_stewards (s : State) (g : Nat) (x : Team) : (s.setTeam g x).stewards = s.stewards := rfl
@[simp] theorem State.setTeam_waitCalls (s : State) (g : Nat) (x : Team) : (s.setTeam g x).waitCalls = s.waitCalls := rfl
@[simp] theorem State.setTeam_domain (s : State) (g : Nat) (x : Team) : (s.setTeam g x).domain = s.domain := rfl
@[simp] theorem State.setTeam_self (s : State) (g : Nat) (x : Team) : (s.setTeam g x).self = s.self := rfl
@[simp] theorem State.setTeam_loops (s : State) (g : Nat) (x : Team) : (s.setTeam g x).loops = s.loops := rfl
@[simp] theorem State.setTeam_links (s : State) (g : Nat) (x : Team) : (s.setTeam g x).links = s.links := rfl
@[simp] theorem State.setTeam_kernels (s : State) (g : Nat) (x : Team) : (s.setTeam g x).kernels = s.kernels := rfl
@[simp] theorem State.setTeam_images (s : State) (g : Nat) (x : Team) : (s.setTeam g x).images = s.images := rfl
@[simp] theorem State.setTeam_mod (s : State) (g : Nat) (x : Team) : (s.setTeam g x).mod = s.mod := rfl
@[simp] theorem State.setTeam_shallot (s : State) (g : Nat) (x : Team) : (s.setTeam g x).shallot = s.shallot := rfl
@[simp] theorem State.setTeam_time (s : State) (g : Nat) (x : Team) : (s.setTeam g x).time = s.time := rfl
@[simp] theorem State.setTeam_slew (s : State) (g : Nat) (x : Team) : (s.setTeam g x).slew = s.slew := rfl
@[simp] theorem State.setTeam_slewRem (s : State) (g : Nat) (x : Team) : (s.setTeam g x).slewRem = s.slewRem := rfl
@[simp] theorem State.setTeam_cycles (s : State) (g : Nat) (x : Team) : (s.setTeam g x).cycles = s.cycles := rfl
@[simp] theorem State.setTeam_irqs (s : State) (g : Nat) (x : Team) : (s.setTeam g x).irqs = s.irqs := rfl
@[simp] theorem State.setTeam_log (s : State) (g : Nat) (x : Team) : (s.setTeam g x).log = s.log := rfl
@[simp] theorem State.setTeam_inputs (s : State) (g : Nat) (x : Team) : (s.setTeam g x).inputs = s.inputs := rfl
@[simp] theorem State.setTeam_cur (s : State) (g : Nat) (x : Team) : (s.setTeam g x).cur = s.cur := rfl
@[simp] theorem State.setTeam_fresh (s : State) (g : Nat) (x : Team) : (s.setTeam g x).fresh = s.fresh := rfl

@[simp] theorem State.setLaunch_groups (s : State) (g : Nat) (x : Launch) : (s.setLaunch g x).groups = s.groups := rfl
@[simp] theorem State.setLaunch_teams (s : State) (g : Nat) (x : Launch) : (s.setLaunch g x).teams = s.teams := rfl
@[simp] theorem State.setLaunch_clusters (s : State) (g : Nat) (x : Launch) : (s.setLaunch g x).clusters = s.clusters := rfl
@[simp] theorem State.setLaunch_launches (s : State) (g : Nat) (x : Launch) : (s.setLaunch g x).launches = aput g x s.launches := rfl
@[simp] theorem State.setLaunch_nextLaunch (s : State) (g : Nat) (x : Launch) : (s.setLaunch g x).nextLaunch = s.nextLaunch := rfl
@[simp] theorem State.setLaunch_nextUnit (s : State) (g : Nat) (x : Launch) : (s.setLaunch g x).nextUnit = s.nextUnit := rfl
@[simp] theorem State.setLaunch_cores (s : State) (g : Nat) (x : Launch) : (s.setLaunch g x).cores = s.cores := rfl
@[simp] theorem State.setLaunch_copies (s : State) (g : Nat) (x : Launch) : (s.setLaunch g x).copies = s.copies := rfl
@[simp] theorem State.setLaunch_mem (s : State) (g : Nat) (x : Launch) : (s.setLaunch g x).mem = s.mem := rfl
@[simp] theorem State.setLaunch_hostMem (s : State) (g : Nat) (x : Launch) : (s.setLaunch g x).hostMem = s.hostMem := rfl
@[simp] theorem State.setLaunch_ord (s : State) (g : Nat) (x : Launch) : (s.setLaunch g x).ord = s.ord := rfl
@[simp] theorem State.setLaunch_mpois (s : State) (g : Nat) (x : Launch) : (s.setLaunch g x).mpois = s.mpois := rfl
@[simp] theorem State.setLaunch_parks (s : State) (g : Nat) (x : Launch) : (s.setLaunch g x).parks = s.parks := rfl
@[simp] theorem State.setLaunch_objs (s : State) (g : Nat) (x : Launch) : (s.setLaunch g x).objs = s.objs := rfl
@[simp] theorem State.setLaunch_asids (s : State) (g : Nat) (x : Launch) : (s.setLaunch g x).asids = s.asids := rfl
@[simp] theorem State.setLaunch_tlb (s : State) (g : Nat) (x : Launch) : (s.setLaunch g x).tlb = s.tlb := rfl
@[simp] theorem State.setLaunch_tabs (s : State) (g : Nat) (x : Launch) : (s.setLaunch g x).tabs = s.tabs := rfl
@[simp] theorem State.setLaunch_heaps (s : State) (g : Nat) (x : Launch) : (s.setLaunch g x).heaps = s.heaps := rfl
@[simp] theorem State.setLaunch_collapses (s : State) (g : Nat) (x : Launch) : (s.setLaunch g x).collapses = s.collapses := rfl
@[simp] theorem State.setLaunch_queues (s : State) (g : Nat) (x : Launch) : (s.setLaunch g x).queues = s.queues := rfl
@[simp] theorem State.setLaunch_turns (s : State) (g : Nat) (x : Launch) : (s.setLaunch g x).turns = s.turns := rfl
@[simp] theorem State.setLaunch_tt (s : State) (g : Nat) (x : Launch) : (s.setLaunch g x).tt = s.tt := rfl
@[simp] theorem State.setLaunch_migq (s : State) (g : Nat) (x : Launch) : (s.setLaunch g x).migq = s.migq := rfl
@[simp] theorem State.setLaunch_cmd (s : State) (g : Nat) (x : Launch) : (s.setLaunch g x).cmd = s.cmd := rfl
@[simp] theorem State.setLaunch_inval (s : State) (g : Nat) (x : Launch) : (s.setLaunch g x).inval = s.inval := rfl
@[simp] theorem State.setLaunch_repHead (s : State) (g : Nat) (x : Launch) : (s.setLaunch g x).repHead = s.repHead := rfl
@[simp] theorem State.setLaunch_repTail (s : State) (g : Nat) (x : Launch) : (s.setLaunch g x).repTail = s.repTail := rfl
@[simp] theorem State.setLaunch_repHeld (s : State) (g : Nat) (x : Launch) : (s.setLaunch g x).repHeld = s.repHeld := rfl
@[simp] theorem State.setLaunch_repMem (s : State) (g : Nat) (x : Launch) : (s.setLaunch g x).repMem = s.repMem := rfl
@[simp] theorem State.setLaunch_mboxes (s : State) (g : Nat) (x : Launch) : (s.setLaunch g x).mboxes = s.mboxes := rfl
@[simp] theorem State.setLaunch_barOut (s : State) (g : Nat) (x : Launch) : (s.setLaunch g x).barOut = s.barOut := rfl
@[simp] theorem State.setLaunch_stewards (s : State) (g : Nat) (x : Launch) : (s.setLaunch g x).stewards = s.stewards := rfl
@[simp] theorem State.setLaunch_waitCalls (s : State) (g : Nat) (x : Launch) : (s.setLaunch g x).waitCalls = s.waitCalls := rfl
@[simp] theorem State.setLaunch_domain (s : State) (g : Nat) (x : Launch) : (s.setLaunch g x).domain = s.domain := rfl
@[simp] theorem State.setLaunch_self (s : State) (g : Nat) (x : Launch) : (s.setLaunch g x).self = s.self := rfl
@[simp] theorem State.setLaunch_loops (s : State) (g : Nat) (x : Launch) : (s.setLaunch g x).loops = s.loops := rfl
@[simp] theorem State.setLaunch_links (s : State) (g : Nat) (x : Launch) : (s.setLaunch g x).links = s.links := rfl
@[simp] theorem State.setLaunch_kernels (s : State) (g : Nat) (x : Launch) : (s.setLaunch g x).kernels = s.kernels := rfl
@[simp] theorem State.setLaunch_images (s : State) (g : Nat) (x : Launch) : (s.setLaunch g x).images = s.images := rfl
@[simp] theorem State.setLaunch_mod (s : State) (g : Nat) (x : Launch) : (s.setLaunch g x).mod = s.mod := rfl
@[simp] theorem State.setLaunch_shallot (s : State) (g : Nat) (x : Launch) : (s.setLaunch g x).shallot = s.shallot := rfl
@[simp] theorem State.setLaunch_time (s : State) (g : Nat) (x : Launch) : (s.setLaunch g x).time = s.time := rfl
@[simp] theorem State.setLaunch_slew (s : State) (g : Nat) (x : Launch) : (s.setLaunch g x).slew = s.slew := rfl
@[simp] theorem State.setLaunch_slewRem (s : State) (g : Nat) (x : Launch) : (s.setLaunch g x).slewRem = s.slewRem := rfl
@[simp] theorem State.setLaunch_cycles (s : State) (g : Nat) (x : Launch) : (s.setLaunch g x).cycles = s.cycles := rfl
@[simp] theorem State.setLaunch_irqs (s : State) (g : Nat) (x : Launch) : (s.setLaunch g x).irqs = s.irqs := rfl
@[simp] theorem State.setLaunch_log (s : State) (g : Nat) (x : Launch) : (s.setLaunch g x).log = s.log := rfl
@[simp] theorem State.setLaunch_inputs (s : State) (g : Nat) (x : Launch) : (s.setLaunch g x).inputs = s.inputs := rfl
@[simp] theorem State.setLaunch_cur (s : State) (g : Nat) (x : Launch) : (s.setLaunch g x).cur = s.cur := rfl
@[simp] theorem State.setLaunch_fresh (s : State) (g : Nat) (x : Launch) : (s.setLaunch g x).fresh = s.fresh := rfl

@[simp] theorem State.setCluster_groups (s : State) (g : Nat) (x : Cluster) : (s.setCluster g x).groups = s.groups := rfl
@[simp] theorem State.setCluster_teams (s : State) (g : Nat) (x : Cluster) : (s.setCluster g x).teams = s.teams := rfl
@[simp] theorem State.setCluster_clusters (s : State) (g : Nat) (x : Cluster) : (s.setCluster g x).clusters = aput g x s.clusters := rfl
@[simp] theorem State.setCluster_launches (s : State) (g : Nat) (x : Cluster) : (s.setCluster g x).launches = s.launches := rfl
@[simp] theorem State.setCluster_nextLaunch (s : State) (g : Nat) (x : Cluster) : (s.setCluster g x).nextLaunch = s.nextLaunch := rfl
@[simp] theorem State.setCluster_nextUnit (s : State) (g : Nat) (x : Cluster) : (s.setCluster g x).nextUnit = s.nextUnit := rfl
@[simp] theorem State.setCluster_cores (s : State) (g : Nat) (x : Cluster) : (s.setCluster g x).cores = s.cores := rfl
@[simp] theorem State.setCluster_copies (s : State) (g : Nat) (x : Cluster) : (s.setCluster g x).copies = s.copies := rfl
@[simp] theorem State.setCluster_mem (s : State) (g : Nat) (x : Cluster) : (s.setCluster g x).mem = s.mem := rfl
@[simp] theorem State.setCluster_hostMem (s : State) (g : Nat) (x : Cluster) : (s.setCluster g x).hostMem = s.hostMem := rfl
@[simp] theorem State.setCluster_ord (s : State) (g : Nat) (x : Cluster) : (s.setCluster g x).ord = s.ord := rfl
@[simp] theorem State.setCluster_mpois (s : State) (g : Nat) (x : Cluster) : (s.setCluster g x).mpois = s.mpois := rfl
@[simp] theorem State.setCluster_parks (s : State) (g : Nat) (x : Cluster) : (s.setCluster g x).parks = s.parks := rfl
@[simp] theorem State.setCluster_objs (s : State) (g : Nat) (x : Cluster) : (s.setCluster g x).objs = s.objs := rfl
@[simp] theorem State.setCluster_asids (s : State) (g : Nat) (x : Cluster) : (s.setCluster g x).asids = s.asids := rfl
@[simp] theorem State.setCluster_tlb (s : State) (g : Nat) (x : Cluster) : (s.setCluster g x).tlb = s.tlb := rfl
@[simp] theorem State.setCluster_tabs (s : State) (g : Nat) (x : Cluster) : (s.setCluster g x).tabs = s.tabs := rfl
@[simp] theorem State.setCluster_heaps (s : State) (g : Nat) (x : Cluster) : (s.setCluster g x).heaps = s.heaps := rfl
@[simp] theorem State.setCluster_collapses (s : State) (g : Nat) (x : Cluster) : (s.setCluster g x).collapses = s.collapses := rfl
@[simp] theorem State.setCluster_queues (s : State) (g : Nat) (x : Cluster) : (s.setCluster g x).queues = s.queues := rfl
@[simp] theorem State.setCluster_turns (s : State) (g : Nat) (x : Cluster) : (s.setCluster g x).turns = s.turns := rfl
@[simp] theorem State.setCluster_tt (s : State) (g : Nat) (x : Cluster) : (s.setCluster g x).tt = s.tt := rfl
@[simp] theorem State.setCluster_migq (s : State) (g : Nat) (x : Cluster) : (s.setCluster g x).migq = s.migq := rfl
@[simp] theorem State.setCluster_cmd (s : State) (g : Nat) (x : Cluster) : (s.setCluster g x).cmd = s.cmd := rfl
@[simp] theorem State.setCluster_inval (s : State) (g : Nat) (x : Cluster) : (s.setCluster g x).inval = s.inval := rfl
@[simp] theorem State.setCluster_repHead (s : State) (g : Nat) (x : Cluster) : (s.setCluster g x).repHead = s.repHead := rfl
@[simp] theorem State.setCluster_repTail (s : State) (g : Nat) (x : Cluster) : (s.setCluster g x).repTail = s.repTail := rfl
@[simp] theorem State.setCluster_repHeld (s : State) (g : Nat) (x : Cluster) : (s.setCluster g x).repHeld = s.repHeld := rfl
@[simp] theorem State.setCluster_repMem (s : State) (g : Nat) (x : Cluster) : (s.setCluster g x).repMem = s.repMem := rfl
@[simp] theorem State.setCluster_mboxes (s : State) (g : Nat) (x : Cluster) : (s.setCluster g x).mboxes = s.mboxes := rfl
@[simp] theorem State.setCluster_barOut (s : State) (g : Nat) (x : Cluster) : (s.setCluster g x).barOut = s.barOut := rfl
@[simp] theorem State.setCluster_stewards (s : State) (g : Nat) (x : Cluster) : (s.setCluster g x).stewards = s.stewards := rfl
@[simp] theorem State.setCluster_waitCalls (s : State) (g : Nat) (x : Cluster) : (s.setCluster g x).waitCalls = s.waitCalls := rfl
@[simp] theorem State.setCluster_domain (s : State) (g : Nat) (x : Cluster) : (s.setCluster g x).domain = s.domain := rfl
@[simp] theorem State.setCluster_self (s : State) (g : Nat) (x : Cluster) : (s.setCluster g x).self = s.self := rfl
@[simp] theorem State.setCluster_loops (s : State) (g : Nat) (x : Cluster) : (s.setCluster g x).loops = s.loops := rfl
@[simp] theorem State.setCluster_links (s : State) (g : Nat) (x : Cluster) : (s.setCluster g x).links = s.links := rfl
@[simp] theorem State.setCluster_kernels (s : State) (g : Nat) (x : Cluster) : (s.setCluster g x).kernels = s.kernels := rfl
@[simp] theorem State.setCluster_images (s : State) (g : Nat) (x : Cluster) : (s.setCluster g x).images = s.images := rfl
@[simp] theorem State.setCluster_mod (s : State) (g : Nat) (x : Cluster) : (s.setCluster g x).mod = s.mod := rfl
@[simp] theorem State.setCluster_shallot (s : State) (g : Nat) (x : Cluster) : (s.setCluster g x).shallot = s.shallot := rfl
@[simp] theorem State.setCluster_time (s : State) (g : Nat) (x : Cluster) : (s.setCluster g x).time = s.time := rfl
@[simp] theorem State.setCluster_slew (s : State) (g : Nat) (x : Cluster) : (s.setCluster g x).slew = s.slew := rfl
@[simp] theorem State.setCluster_slewRem (s : State) (g : Nat) (x : Cluster) : (s.setCluster g x).slewRem = s.slewRem := rfl
@[simp] theorem State.setCluster_cycles (s : State) (g : Nat) (x : Cluster) : (s.setCluster g x).cycles = s.cycles := rfl
@[simp] theorem State.setCluster_irqs (s : State) (g : Nat) (x : Cluster) : (s.setCluster g x).irqs = s.irqs := rfl
@[simp] theorem State.setCluster_log (s : State) (g : Nat) (x : Cluster) : (s.setCluster g x).log = s.log := rfl
@[simp] theorem State.setCluster_inputs (s : State) (g : Nat) (x : Cluster) : (s.setCluster g x).inputs = s.inputs := rfl
@[simp] theorem State.setCluster_cur (s : State) (g : Nat) (x : Cluster) : (s.setCluster g x).cur = s.cur := rfl
@[simp] theorem State.setCluster_fresh (s : State) (g : Nat) (x : Cluster) : (s.setCluster g x).fresh = s.fresh := rfl

@[simp] theorem State.setAsid_groups (s : State) (g : Nat) (x : Asid) : (s.setAsid g x).groups = s.groups := rfl
@[simp] theorem State.setAsid_teams (s : State) (g : Nat) (x : Asid) : (s.setAsid g x).teams = s.teams := rfl
@[simp] theorem State.setAsid_clusters (s : State) (g : Nat) (x : Asid) : (s.setAsid g x).clusters = s.clusters := rfl
@[simp] theorem State.setAsid_launches (s : State) (g : Nat) (x : Asid) : (s.setAsid g x).launches = s.launches := rfl
@[simp] theorem State.setAsid_nextLaunch (s : State) (g : Nat) (x : Asid) : (s.setAsid g x).nextLaunch = s.nextLaunch := rfl
@[simp] theorem State.setAsid_nextUnit (s : State) (g : Nat) (x : Asid) : (s.setAsid g x).nextUnit = s.nextUnit := rfl
@[simp] theorem State.setAsid_cores (s : State) (g : Nat) (x : Asid) : (s.setAsid g x).cores = s.cores := rfl
@[simp] theorem State.setAsid_copies (s : State) (g : Nat) (x : Asid) : (s.setAsid g x).copies = s.copies := rfl
@[simp] theorem State.setAsid_mem (s : State) (g : Nat) (x : Asid) : (s.setAsid g x).mem = s.mem := rfl
@[simp] theorem State.setAsid_hostMem (s : State) (g : Nat) (x : Asid) : (s.setAsid g x).hostMem = s.hostMem := rfl
@[simp] theorem State.setAsid_ord (s : State) (g : Nat) (x : Asid) : (s.setAsid g x).ord = s.ord := rfl
@[simp] theorem State.setAsid_mpois (s : State) (g : Nat) (x : Asid) : (s.setAsid g x).mpois = s.mpois := rfl
@[simp] theorem State.setAsid_parks (s : State) (g : Nat) (x : Asid) : (s.setAsid g x).parks = s.parks := rfl
@[simp] theorem State.setAsid_objs (s : State) (g : Nat) (x : Asid) : (s.setAsid g x).objs = s.objs := rfl
@[simp] theorem State.setAsid_asids (s : State) (g : Nat) (x : Asid) : (s.setAsid g x).asids = aput g x s.asids := rfl
@[simp] theorem State.setAsid_tlb (s : State) (g : Nat) (x : Asid) : (s.setAsid g x).tlb = s.tlb := rfl
@[simp] theorem State.setAsid_tabs (s : State) (g : Nat) (x : Asid) : (s.setAsid g x).tabs = s.tabs := rfl
@[simp] theorem State.setAsid_heaps (s : State) (g : Nat) (x : Asid) : (s.setAsid g x).heaps = s.heaps := rfl
@[simp] theorem State.setAsid_collapses (s : State) (g : Nat) (x : Asid) : (s.setAsid g x).collapses = s.collapses := rfl
@[simp] theorem State.setAsid_queues (s : State) (g : Nat) (x : Asid) : (s.setAsid g x).queues = s.queues := rfl
@[simp] theorem State.setAsid_turns (s : State) (g : Nat) (x : Asid) : (s.setAsid g x).turns = s.turns := rfl
@[simp] theorem State.setAsid_tt (s : State) (g : Nat) (x : Asid) : (s.setAsid g x).tt = s.tt := rfl
@[simp] theorem State.setAsid_migq (s : State) (g : Nat) (x : Asid) : (s.setAsid g x).migq = s.migq := rfl
@[simp] theorem State.setAsid_cmd (s : State) (g : Nat) (x : Asid) : (s.setAsid g x).cmd = s.cmd := rfl
@[simp] theorem State.setAsid_inval (s : State) (g : Nat) (x : Asid) : (s.setAsid g x).inval = s.inval := rfl
@[simp] theorem State.setAsid_repHead (s : State) (g : Nat) (x : Asid) : (s.setAsid g x).repHead = s.repHead := rfl
@[simp] theorem State.setAsid_repTail (s : State) (g : Nat) (x : Asid) : (s.setAsid g x).repTail = s.repTail := rfl
@[simp] theorem State.setAsid_repHeld (s : State) (g : Nat) (x : Asid) : (s.setAsid g x).repHeld = s.repHeld := rfl
@[simp] theorem State.setAsid_repMem (s : State) (g : Nat) (x : Asid) : (s.setAsid g x).repMem = s.repMem := rfl
@[simp] theorem State.setAsid_mboxes (s : State) (g : Nat) (x : Asid) : (s.setAsid g x).mboxes = s.mboxes := rfl
@[simp] theorem State.setAsid_barOut (s : State) (g : Nat) (x : Asid) : (s.setAsid g x).barOut = s.barOut := rfl
@[simp] theorem State.setAsid_stewards (s : State) (g : Nat) (x : Asid) : (s.setAsid g x).stewards = s.stewards := rfl
@[simp] theorem State.setAsid_waitCalls (s : State) (g : Nat) (x : Asid) : (s.setAsid g x).waitCalls = s.waitCalls := rfl
@[simp] theorem State.setAsid_domain (s : State) (g : Nat) (x : Asid) : (s.setAsid g x).domain = s.domain := rfl
@[simp] theorem State.setAsid_self (s : State) (g : Nat) (x : Asid) : (s.setAsid g x).self = s.self := rfl
@[simp] theorem State.setAsid_loops (s : State) (g : Nat) (x : Asid) : (s.setAsid g x).loops = s.loops := rfl
@[simp] theorem State.setAsid_links (s : State) (g : Nat) (x : Asid) : (s.setAsid g x).links = s.links := rfl
@[simp] theorem State.setAsid_kernels (s : State) (g : Nat) (x : Asid) : (s.setAsid g x).kernels = s.kernels := rfl
@[simp] theorem State.setAsid_images (s : State) (g : Nat) (x : Asid) : (s.setAsid g x).images = s.images := rfl
@[simp] theorem State.setAsid_mod (s : State) (g : Nat) (x : Asid) : (s.setAsid g x).mod = s.mod := rfl
@[simp] theorem State.setAsid_shallot (s : State) (g : Nat) (x : Asid) : (s.setAsid g x).shallot = s.shallot := rfl
@[simp] theorem State.setAsid_time (s : State) (g : Nat) (x : Asid) : (s.setAsid g x).time = s.time := rfl
@[simp] theorem State.setAsid_slew (s : State) (g : Nat) (x : Asid) : (s.setAsid g x).slew = s.slew := rfl
@[simp] theorem State.setAsid_slewRem (s : State) (g : Nat) (x : Asid) : (s.setAsid g x).slewRem = s.slewRem := rfl
@[simp] theorem State.setAsid_cycles (s : State) (g : Nat) (x : Asid) : (s.setAsid g x).cycles = s.cycles := rfl
@[simp] theorem State.setAsid_irqs (s : State) (g : Nat) (x : Asid) : (s.setAsid g x).irqs = s.irqs := rfl
@[simp] theorem State.setAsid_log (s : State) (g : Nat) (x : Asid) : (s.setAsid g x).log = s.log := rfl
@[simp] theorem State.setAsid_inputs (s : State) (g : Nat) (x : Asid) : (s.setAsid g x).inputs = s.inputs := rfl
@[simp] theorem State.setAsid_cur (s : State) (g : Nat) (x : Asid) : (s.setAsid g x).cur = s.cur := rfl
@[simp] theorem State.setAsid_fresh (s : State) (g : Nat) (x : Asid) : (s.setAsid g x).fresh = s.fresh := rfl

@[simp] theorem State.setCopy_groups (s : State) (g : Nat) (x : Copy) : (s.setCopy g x).groups = s.groups := rfl
@[simp] theorem State.setCopy_teams (s : State) (g : Nat) (x : Copy) : (s.setCopy g x).teams = s.teams := rfl
@[simp] theorem State.setCopy_clusters (s : State) (g : Nat) (x : Copy) : (s.setCopy g x).clusters = s.clusters := rfl
@[simp] theorem State.setCopy_launches (s : State) (g : Nat) (x : Copy) : (s.setCopy g x).launches = s.launches := rfl
@[simp] theorem State.setCopy_nextLaunch (s : State) (g : Nat) (x : Copy) : (s.setCopy g x).nextLaunch = s.nextLaunch := rfl
@[simp] theorem State.setCopy_nextUnit (s : State) (g : Nat) (x : Copy) : (s.setCopy g x).nextUnit = s.nextUnit := rfl
@[simp] theorem State.setCopy_cores (s : State) (g : Nat) (x : Copy) : (s.setCopy g x).cores = s.cores := rfl
@[simp] theorem State.setCopy_copies (s : State) (g : Nat) (x : Copy) : (s.setCopy g x).copies = aput g x s.copies := rfl
@[simp] theorem State.setCopy_mem (s : State) (g : Nat) (x : Copy) : (s.setCopy g x).mem = s.mem := rfl
@[simp] theorem State.setCopy_hostMem (s : State) (g : Nat) (x : Copy) : (s.setCopy g x).hostMem = s.hostMem := rfl
@[simp] theorem State.setCopy_ord (s : State) (g : Nat) (x : Copy) : (s.setCopy g x).ord = s.ord := rfl
@[simp] theorem State.setCopy_mpois (s : State) (g : Nat) (x : Copy) : (s.setCopy g x).mpois = s.mpois := rfl
@[simp] theorem State.setCopy_parks (s : State) (g : Nat) (x : Copy) : (s.setCopy g x).parks = s.parks := rfl
@[simp] theorem State.setCopy_objs (s : State) (g : Nat) (x : Copy) : (s.setCopy g x).objs = s.objs := rfl
@[simp] theorem State.setCopy_asids (s : State) (g : Nat) (x : Copy) : (s.setCopy g x).asids = s.asids := rfl
@[simp] theorem State.setCopy_tlb (s : State) (g : Nat) (x : Copy) : (s.setCopy g x).tlb = s.tlb := rfl
@[simp] theorem State.setCopy_tabs (s : State) (g : Nat) (x : Copy) : (s.setCopy g x).tabs = s.tabs := rfl
@[simp] theorem State.setCopy_heaps (s : State) (g : Nat) (x : Copy) : (s.setCopy g x).heaps = s.heaps := rfl
@[simp] theorem State.setCopy_collapses (s : State) (g : Nat) (x : Copy) : (s.setCopy g x).collapses = s.collapses := rfl
@[simp] theorem State.setCopy_queues (s : State) (g : Nat) (x : Copy) : (s.setCopy g x).queues = s.queues := rfl
@[simp] theorem State.setCopy_turns (s : State) (g : Nat) (x : Copy) : (s.setCopy g x).turns = s.turns := rfl
@[simp] theorem State.setCopy_tt (s : State) (g : Nat) (x : Copy) : (s.setCopy g x).tt = s.tt := rfl
@[simp] theorem State.setCopy_migq (s : State) (g : Nat) (x : Copy) : (s.setCopy g x).migq = s.migq := rfl
@[simp] theorem State.setCopy_cmd (s : State) (g : Nat) (x : Copy) : (s.setCopy g x).cmd = s.cmd := rfl
@[simp] theorem State.setCopy_inval (s : State) (g : Nat) (x : Copy) : (s.setCopy g x).inval = s.inval := rfl
@[simp] theorem State.setCopy_repHead (s : State) (g : Nat) (x : Copy) : (s.setCopy g x).repHead = s.repHead := rfl
@[simp] theorem State.setCopy_repTail (s : State) (g : Nat) (x : Copy) : (s.setCopy g x).repTail = s.repTail := rfl
@[simp] theorem State.setCopy_repHeld (s : State) (g : Nat) (x : Copy) : (s.setCopy g x).repHeld = s.repHeld := rfl
@[simp] theorem State.setCopy_repMem (s : State) (g : Nat) (x : Copy) : (s.setCopy g x).repMem = s.repMem := rfl
@[simp] theorem State.setCopy_mboxes (s : State) (g : Nat) (x : Copy) : (s.setCopy g x).mboxes = s.mboxes := rfl
@[simp] theorem State.setCopy_barOut (s : State) (g : Nat) (x : Copy) : (s.setCopy g x).barOut = s.barOut := rfl
@[simp] theorem State.setCopy_stewards (s : State) (g : Nat) (x : Copy) : (s.setCopy g x).stewards = s.stewards := rfl
@[simp] theorem State.setCopy_waitCalls (s : State) (g : Nat) (x : Copy) : (s.setCopy g x).waitCalls = s.waitCalls := rfl
@[simp] theorem State.setCopy_domain (s : State) (g : Nat) (x : Copy) : (s.setCopy g x).domain = s.domain := rfl
@[simp] theorem State.setCopy_self (s : State) (g : Nat) (x : Copy) : (s.setCopy g x).self = s.self := rfl
@[simp] theorem State.setCopy_loops (s : State) (g : Nat) (x : Copy) : (s.setCopy g x).loops = s.loops := rfl
@[simp] theorem State.setCopy_links (s : State) (g : Nat) (x : Copy) : (s.setCopy g x).links = s.links := rfl
@[simp] theorem State.setCopy_kernels (s : State) (g : Nat) (x : Copy) : (s.setCopy g x).kernels = s.kernels := rfl
@[simp] theorem State.setCopy_images (s : State) (g : Nat) (x : Copy) : (s.setCopy g x).images = s.images := rfl
@[simp] theorem State.setCopy_mod (s : State) (g : Nat) (x : Copy) : (s.setCopy g x).mod = s.mod := rfl
@[simp] theorem State.setCopy_shallot (s : State) (g : Nat) (x : Copy) : (s.setCopy g x).shallot = s.shallot := rfl
@[simp] theorem State.setCopy_time (s : State) (g : Nat) (x : Copy) : (s.setCopy g x).time = s.time := rfl
@[simp] theorem State.setCopy_slew (s : State) (g : Nat) (x : Copy) : (s.setCopy g x).slew = s.slew := rfl
@[simp] theorem State.setCopy_slewRem (s : State) (g : Nat) (x : Copy) : (s.setCopy g x).slewRem = s.slewRem := rfl
@[simp] theorem State.setCopy_cycles (s : State) (g : Nat) (x : Copy) : (s.setCopy g x).cycles = s.cycles := rfl
@[simp] theorem State.setCopy_irqs (s : State) (g : Nat) (x : Copy) : (s.setCopy g x).irqs = s.irqs := rfl
@[simp] theorem State.setCopy_log (s : State) (g : Nat) (x : Copy) : (s.setCopy g x).log = s.log := rfl
@[simp] theorem State.setCopy_inputs (s : State) (g : Nat) (x : Copy) : (s.setCopy g x).inputs = s.inputs := rfl
@[simp] theorem State.setCopy_cur (s : State) (g : Nat) (x : Copy) : (s.setCopy g x).cur = s.cur := rfl
@[simp] theorem State.setCopy_fresh (s : State) (g : Nat) (x : Copy) : (s.setCopy g x).fresh = s.fresh := rfl

@[simp] theorem State.setQueue_groups (s : State) (g : Nat) (x : Queue) : (s.setQueue g x).groups = s.groups := rfl
@[simp] theorem State.setQueue_teams (s : State) (g : Nat) (x : Queue) : (s.setQueue g x).teams = s.teams := rfl
@[simp] theorem State.setQueue_clusters (s : State) (g : Nat) (x : Queue) : (s.setQueue g x).clusters = s.clusters := rfl
@[simp] theorem State.setQueue_launches (s : State) (g : Nat) (x : Queue) : (s.setQueue g x).launches = s.launches := rfl
@[simp] theorem State.setQueue_nextLaunch (s : State) (g : Nat) (x : Queue) : (s.setQueue g x).nextLaunch = s.nextLaunch := rfl
@[simp] theorem State.setQueue_nextUnit (s : State) (g : Nat) (x : Queue) : (s.setQueue g x).nextUnit = s.nextUnit := rfl
@[simp] theorem State.setQueue_cores (s : State) (g : Nat) (x : Queue) : (s.setQueue g x).cores = s.cores := rfl
@[simp] theorem State.setQueue_copies (s : State) (g : Nat) (x : Queue) : (s.setQueue g x).copies = s.copies := rfl
@[simp] theorem State.setQueue_mem (s : State) (g : Nat) (x : Queue) : (s.setQueue g x).mem = s.mem := rfl
@[simp] theorem State.setQueue_hostMem (s : State) (g : Nat) (x : Queue) : (s.setQueue g x).hostMem = s.hostMem := rfl
@[simp] theorem State.setQueue_ord (s : State) (g : Nat) (x : Queue) : (s.setQueue g x).ord = s.ord := rfl
@[simp] theorem State.setQueue_mpois (s : State) (g : Nat) (x : Queue) : (s.setQueue g x).mpois = s.mpois := rfl
@[simp] theorem State.setQueue_parks (s : State) (g : Nat) (x : Queue) : (s.setQueue g x).parks = s.parks := rfl
@[simp] theorem State.setQueue_objs (s : State) (g : Nat) (x : Queue) : (s.setQueue g x).objs = s.objs := rfl
@[simp] theorem State.setQueue_asids (s : State) (g : Nat) (x : Queue) : (s.setQueue g x).asids = s.asids := rfl
@[simp] theorem State.setQueue_tlb (s : State) (g : Nat) (x : Queue) : (s.setQueue g x).tlb = s.tlb := rfl
@[simp] theorem State.setQueue_tabs (s : State) (g : Nat) (x : Queue) : (s.setQueue g x).tabs = s.tabs := rfl
@[simp] theorem State.setQueue_heaps (s : State) (g : Nat) (x : Queue) : (s.setQueue g x).heaps = s.heaps := rfl
@[simp] theorem State.setQueue_collapses (s : State) (g : Nat) (x : Queue) : (s.setQueue g x).collapses = s.collapses := rfl
@[simp] theorem State.setQueue_queues (s : State) (g : Nat) (x : Queue) : (s.setQueue g x).queues = aput g x s.queues := rfl
@[simp] theorem State.setQueue_turns (s : State) (g : Nat) (x : Queue) : (s.setQueue g x).turns = s.turns := rfl
@[simp] theorem State.setQueue_tt (s : State) (g : Nat) (x : Queue) : (s.setQueue g x).tt = s.tt := rfl
@[simp] theorem State.setQueue_migq (s : State) (g : Nat) (x : Queue) : (s.setQueue g x).migq = s.migq := rfl
@[simp] theorem State.setQueue_cmd (s : State) (g : Nat) (x : Queue) : (s.setQueue g x).cmd = s.cmd := rfl
@[simp] theorem State.setQueue_inval (s : State) (g : Nat) (x : Queue) : (s.setQueue g x).inval = s.inval := rfl
@[simp] theorem State.setQueue_repHead (s : State) (g : Nat) (x : Queue) : (s.setQueue g x).repHead = s.repHead := rfl
@[simp] theorem State.setQueue_repTail (s : State) (g : Nat) (x : Queue) : (s.setQueue g x).repTail = s.repTail := rfl
@[simp] theorem State.setQueue_repHeld (s : State) (g : Nat) (x : Queue) : (s.setQueue g x).repHeld = s.repHeld := rfl
@[simp] theorem State.setQueue_repMem (s : State) (g : Nat) (x : Queue) : (s.setQueue g x).repMem = s.repMem := rfl
@[simp] theorem State.setQueue_mboxes (s : State) (g : Nat) (x : Queue) : (s.setQueue g x).mboxes = s.mboxes := rfl
@[simp] theorem State.setQueue_barOut (s : State) (g : Nat) (x : Queue) : (s.setQueue g x).barOut = s.barOut := rfl
@[simp] theorem State.setQueue_stewards (s : State) (g : Nat) (x : Queue) : (s.setQueue g x).stewards = s.stewards := rfl
@[simp] theorem State.setQueue_waitCalls (s : State) (g : Nat) (x : Queue) : (s.setQueue g x).waitCalls = s.waitCalls := rfl
@[simp] theorem State.setQueue_domain (s : State) (g : Nat) (x : Queue) : (s.setQueue g x).domain = s.domain := rfl
@[simp] theorem State.setQueue_self (s : State) (g : Nat) (x : Queue) : (s.setQueue g x).self = s.self := rfl
@[simp] theorem State.setQueue_loops (s : State) (g : Nat) (x : Queue) : (s.setQueue g x).loops = s.loops := rfl
@[simp] theorem State.setQueue_links (s : State) (g : Nat) (x : Queue) : (s.setQueue g x).links = s.links := rfl
@[simp] theorem State.setQueue_kernels (s : State) (g : Nat) (x : Queue) : (s.setQueue g x).kernels = s.kernels := rfl
@[simp] theorem State.setQueue_images (s : State) (g : Nat) (x : Queue) : (s.setQueue g x).images = s.images := rfl
@[simp] theorem State.setQueue_mod (s : State) (g : Nat) (x : Queue) : (s.setQueue g x).mod = s.mod := rfl
@[simp] theorem State.setQueue_shallot (s : State) (g : Nat) (x : Queue) : (s.setQueue g x).shallot = s.shallot := rfl
@[simp] theorem State.setQueue_time (s : State) (g : Nat) (x : Queue) : (s.setQueue g x).time = s.time := rfl
@[simp] theorem State.setQueue_slew (s : State) (g : Nat) (x : Queue) : (s.setQueue g x).slew = s.slew := rfl
@[simp] theorem State.setQueue_slewRem (s : State) (g : Nat) (x : Queue) : (s.setQueue g x).slewRem = s.slewRem := rfl
@[simp] theorem State.setQueue_cycles (s : State) (g : Nat) (x : Queue) : (s.setQueue g x).cycles = s.cycles := rfl
@[simp] theorem State.setQueue_irqs (s : State) (g : Nat) (x : Queue) : (s.setQueue g x).irqs = s.irqs := rfl
@[simp] theorem State.setQueue_log (s : State) (g : Nat) (x : Queue) : (s.setQueue g x).log = s.log := rfl
@[simp] theorem State.setQueue_inputs (s : State) (g : Nat) (x : Queue) : (s.setQueue g x).inputs = s.inputs := rfl
@[simp] theorem State.setQueue_cur (s : State) (g : Nat) (x : Queue) : (s.setQueue g x).cur = s.cur := rfl
@[simp] theorem State.setQueue_fresh (s : State) (g : Nat) (x : Queue) : (s.setQueue g x).fresh = s.fresh := rfl

@[simp] theorem State.setMbox_groups (s : State) (g : Nat) (x : Mbox) : (s.setMbox g x).groups = s.groups := rfl
@[simp] theorem State.setMbox_teams (s : State) (g : Nat) (x : Mbox) : (s.setMbox g x).teams = s.teams := rfl
@[simp] theorem State.setMbox_clusters (s : State) (g : Nat) (x : Mbox) : (s.setMbox g x).clusters = s.clusters := rfl
@[simp] theorem State.setMbox_launches (s : State) (g : Nat) (x : Mbox) : (s.setMbox g x).launches = s.launches := rfl
@[simp] theorem State.setMbox_nextLaunch (s : State) (g : Nat) (x : Mbox) : (s.setMbox g x).nextLaunch = s.nextLaunch := rfl
@[simp] theorem State.setMbox_nextUnit (s : State) (g : Nat) (x : Mbox) : (s.setMbox g x).nextUnit = s.nextUnit := rfl
@[simp] theorem State.setMbox_cores (s : State) (g : Nat) (x : Mbox) : (s.setMbox g x).cores = s.cores := rfl
@[simp] theorem State.setMbox_copies (s : State) (g : Nat) (x : Mbox) : (s.setMbox g x).copies = s.copies := rfl
@[simp] theorem State.setMbox_mem (s : State) (g : Nat) (x : Mbox) : (s.setMbox g x).mem = s.mem := rfl
@[simp] theorem State.setMbox_hostMem (s : State) (g : Nat) (x : Mbox) : (s.setMbox g x).hostMem = s.hostMem := rfl
@[simp] theorem State.setMbox_ord (s : State) (g : Nat) (x : Mbox) : (s.setMbox g x).ord = s.ord := rfl
@[simp] theorem State.setMbox_mpois (s : State) (g : Nat) (x : Mbox) : (s.setMbox g x).mpois = s.mpois := rfl
@[simp] theorem State.setMbox_parks (s : State) (g : Nat) (x : Mbox) : (s.setMbox g x).parks = s.parks := rfl
@[simp] theorem State.setMbox_objs (s : State) (g : Nat) (x : Mbox) : (s.setMbox g x).objs = s.objs := rfl
@[simp] theorem State.setMbox_asids (s : State) (g : Nat) (x : Mbox) : (s.setMbox g x).asids = s.asids := rfl
@[simp] theorem State.setMbox_tlb (s : State) (g : Nat) (x : Mbox) : (s.setMbox g x).tlb = s.tlb := rfl
@[simp] theorem State.setMbox_tabs (s : State) (g : Nat) (x : Mbox) : (s.setMbox g x).tabs = s.tabs := rfl
@[simp] theorem State.setMbox_heaps (s : State) (g : Nat) (x : Mbox) : (s.setMbox g x).heaps = s.heaps := rfl
@[simp] theorem State.setMbox_collapses (s : State) (g : Nat) (x : Mbox) : (s.setMbox g x).collapses = s.collapses := rfl
@[simp] theorem State.setMbox_queues (s : State) (g : Nat) (x : Mbox) : (s.setMbox g x).queues = s.queues := rfl
@[simp] theorem State.setMbox_turns (s : State) (g : Nat) (x : Mbox) : (s.setMbox g x).turns = s.turns := rfl
@[simp] theorem State.setMbox_tt (s : State) (g : Nat) (x : Mbox) : (s.setMbox g x).tt = s.tt := rfl
@[simp] theorem State.setMbox_migq (s : State) (g : Nat) (x : Mbox) : (s.setMbox g x).migq = s.migq := rfl
@[simp] theorem State.setMbox_cmd (s : State) (g : Nat) (x : Mbox) : (s.setMbox g x).cmd = s.cmd := rfl
@[simp] theorem State.setMbox_inval (s : State) (g : Nat) (x : Mbox) : (s.setMbox g x).inval = s.inval := rfl
@[simp] theorem State.setMbox_repHead (s : State) (g : Nat) (x : Mbox) : (s.setMbox g x).repHead = s.repHead := rfl
@[simp] theorem State.setMbox_repTail (s : State) (g : Nat) (x : Mbox) : (s.setMbox g x).repTail = s.repTail := rfl
@[simp] theorem State.setMbox_repHeld (s : State) (g : Nat) (x : Mbox) : (s.setMbox g x).repHeld = s.repHeld := rfl
@[simp] theorem State.setMbox_repMem (s : State) (g : Nat) (x : Mbox) : (s.setMbox g x).repMem = s.repMem := rfl
@[simp] theorem State.setMbox_mboxes (s : State) (g : Nat) (x : Mbox) : (s.setMbox g x).mboxes = aput g x s.mboxes := rfl
@[simp] theorem State.setMbox_barOut (s : State) (g : Nat) (x : Mbox) : (s.setMbox g x).barOut = s.barOut := rfl
@[simp] theorem State.setMbox_stewards (s : State) (g : Nat) (x : Mbox) : (s.setMbox g x).stewards = s.stewards := rfl
@[simp] theorem State.setMbox_waitCalls (s : State) (g : Nat) (x : Mbox) : (s.setMbox g x).waitCalls = s.waitCalls := rfl
@[simp] theorem State.setMbox_domain (s : State) (g : Nat) (x : Mbox) : (s.setMbox g x).domain = s.domain := rfl
@[simp] theorem State.setMbox_self (s : State) (g : Nat) (x : Mbox) : (s.setMbox g x).self = s.self := rfl
@[simp] theorem State.setMbox_loops (s : State) (g : Nat) (x : Mbox) : (s.setMbox g x).loops = s.loops := rfl
@[simp] theorem State.setMbox_links (s : State) (g : Nat) (x : Mbox) : (s.setMbox g x).links = s.links := rfl
@[simp] theorem State.setMbox_kernels (s : State) (g : Nat) (x : Mbox) : (s.setMbox g x).kernels = s.kernels := rfl
@[simp] theorem State.setMbox_images (s : State) (g : Nat) (x : Mbox) : (s.setMbox g x).images = s.images := rfl
@[simp] theorem State.setMbox_mod (s : State) (g : Nat) (x : Mbox) : (s.setMbox g x).mod = s.mod := rfl
@[simp] theorem State.setMbox_shallot (s : State) (g : Nat) (x : Mbox) : (s.setMbox g x).shallot = s.shallot := rfl
@[simp] theorem State.setMbox_time (s : State) (g : Nat) (x : Mbox) : (s.setMbox g x).time = s.time := rfl
@[simp] theorem State.setMbox_slew (s : State) (g : Nat) (x : Mbox) : (s.setMbox g x).slew = s.slew := rfl
@[simp] theorem State.setMbox_slewRem (s : State) (g : Nat) (x : Mbox) : (s.setMbox g x).slewRem = s.slewRem := rfl
@[simp] theorem State.setMbox_cycles (s : State) (g : Nat) (x : Mbox) : (s.setMbox g x).cycles = s.cycles := rfl
@[simp] theorem State.setMbox_irqs (s : State) (g : Nat) (x : Mbox) : (s.setMbox g x).irqs = s.irqs := rfl
@[simp] theorem State.setMbox_log (s : State) (g : Nat) (x : Mbox) : (s.setMbox g x).log = s.log := rfl
@[simp] theorem State.setMbox_inputs (s : State) (g : Nat) (x : Mbox) : (s.setMbox g x).inputs = s.inputs := rfl
@[simp] theorem State.setMbox_cur (s : State) (g : Nat) (x : Mbox) : (s.setMbox g x).cur = s.cur := rfl
@[simp] theorem State.setMbox_fresh (s : State) (g : Nat) (x : Mbox) : (s.setMbox g x).fresh = s.fresh := rfl

/-! ### Updates of a group -/

@[simp] theorem Group.setFrag_live (g : Group) (f : Nat) (x : Frag) : (g.setFrag f x).live = g.live := rfl
@[simp] theorem Group.setFrag_exited (g : Group) (f : Nat) (x : Frag) : (g.setFrag f x).exited = g.exited := rfl
@[simp] theorem Group.setFrag_susp (g : Group) (f : Nat) (x : Frag) : (g.setFrag f x).susp = g.susp := rfl
@[simp] theorem Group.setFrag_halted (g : Group) (f : Nat) (x : Frag) : (g.setFrag f x).halted = g.halted := rfl
@[simp] theorem Group.setFrag_team (g : Group) (f : Nat) (x : Frag) : (g.setFrag f x).team = g.team := rfl
@[simp] theorem Group.setFrag_idx (g : Group) (f : Nat) (x : Frag) : (g.setFrag f x).idx = g.idx := rfl
@[simp] theorem Group.setFrag_role (g : Group) (f : Nat) (x : Frag) : (g.setFrag f x).role = g.role := rfl
@[simp] theorem Group.setFrag_allot (g : Group) (f : Nat) (x : Frag) : (g.setFrag f x).allot = g.allot := rfl
@[simp] theorem Group.setFrag_resv (g : Group) (f : Nat) (x : Frag) : (g.setFrag f x).resv = g.resv := rfl
@[simp] theorem Group.setFrag_prio (g : Group) (f : Nat) (x : Frag) : (g.setFrag f x).prio = g.prio := rfl
@[simp] theorem Group.setFrag_v (g : Group) (f : Nat) (x : Frag) : (g.setFrag f x).v = g.v := rfl
@[simp] theorem Group.setFrag_s (g : Group) (f : Nat) (x : Frag) : (g.setFrag f x).s = g.s := rfl
@[simp] theorem Group.setFrag_p (g : Group) (f : Nat) (x : Frag) : (g.setFrag f x).p = g.p := rfl
@[simp] theorem Group.setFrag_mode (g : Group) (f : Nat) (x : Frag) : (g.setFrag f x).mode = g.mode := rfl
@[simp] theorem Group.setFrag_flags (g : Group) (f : Nat) (x : Frag) : (g.setFrag f x).flags = g.flags := rfl
@[simp] theorem Group.setFrag_rset (g : Group) (f : Nat) (x : Frag) : (g.setFrag f x).rset = g.rset := rfl
@[simp] theorem Group.setFrag_pb (g : Group) (f : Nat) (x : Frag) : (g.setFrag f x).pb = g.pb := rfl
@[simp] theorem Group.setFrag_frags (g : Group) (f : Nat) (x : Frag) : (g.setFrag f x).frags = aput f x g.frags := rfl
@[simp] theorem Group.setFrag_joins (g : Group) (f : Nat) (x : Frag) : (g.setFrag f x).joins = g.joins := rfl
@[simp] theorem Group.setFrag_nextId (g : Group) (f : Nat) (x : Frag) : (g.setFrag f x).nextId = g.nextId := rfl
@[simp] theorem Group.setFrag_loads (g : Group) (f : Nat) (x : Frag) : (g.setFrag f x).loads = g.loads := rfl
@[simp] theorem Group.setFrag_stores (g : Group) (f : Nat) (x : Frag) : (g.setFrag f x).stores = g.stores := rfl
@[simp] theorem Group.setFrag_tiles (g : Group) (f : Nat) (x : Frag) : (g.setFrag f x).tiles = g.tiles := rfl
@[simp] theorem Group.setFrag_obj (g : Group) (f : Nat) (x : Frag) : (g.setFrag f x).obj = g.obj := rfl
@[simp] theorem Group.setFrag_held (g : Group) (f : Nat) (x : Frag) : (g.setFrag f x).held = g.held := rfl
@[simp] theorem Group.setFrag_seq (g : Group) (f : Nat) (x : Frag) : (g.setFrag f x).seq = g.seq := rfl
@[simp] theorem Group.setFrag_relSeq (g : Group) (f : Nat) (x : Frag) : (g.setFrag f x).relSeq = g.relSeq := rfl
@[simp] theorem Group.setFrag_objRel (g : Group) (f : Nat) (x : Frag) : (g.setFrag f x).objRel = g.objRel := rfl
@[simp] theorem Group.setFrag_cb (g : Group) (f : Nat) (x : Frag) : (g.setFrag f x).cb = g.cb := rfl
@[simp] theorem Group.setFrag_cbd (g : Group) (f : Nat) (x : Frag) : (g.setFrag f x).cbd = g.cbd := rfl
@[simp] theorem Group.setFrag_opn (g : Group) (f : Nat) (x : Frag) : (g.setFrag f x).opn = g.opn := rfl
@[simp] theorem Group.setFrag_pend (g : Group) (f : Nat) (x : Frag) : (g.setFrag f x).pend = g.pend := rfl
@[simp] theorem Group.setFrag_sfu (g : Group) (f : Nat) (x : Frag) : (g.setFrag f x).sfu = g.sfu := rfl
@[simp] theorem Group.setFrag_vpois (g : Group) (f : Nat) (x : Frag) : (g.setFrag f x).vpois = g.vpois := rfl
@[simp] theorem Group.setFrag_spois (g : Group) (f : Nat) (x : Frag) : (g.setFrag f x).spois = g.spois := rfl
@[simp] theorem Group.setFrag_lastEqp (g : Group) (f : Nat) (x : Frag) : (g.setFrag f x).lastEqp = g.lastEqp := rfl
@[simp] theorem Group.setFrag_eqpRole (g : Group) (f : Nat) (x : Frag) : (g.setFrag f x).eqpRole = g.eqpRole := rfl
@[simp] theorem Group.setFrag_justEqp (g : Group) (f : Nat) (x : Frag) : (g.setFrag f x).justEqp = g.justEqp := rfl
@[simp] theorem Group.setFrag_eqpMay (g : Group) (f : Nat) (x : Frag) : (g.setFrag f x).eqpMay = g.eqpMay := rfl
@[simp] theorem Group.setFrag_retired (g : Group) (f : Nat) (x : Frag) : (g.setFrag f x).retired = g.retired := rfl
@[simp] theorem Group.setFrag_xpc (g : Group) (f : Nat) (x : Frag) : (g.setFrag f x).xpc = g.xpc := rfl
@[simp] theorem Group.setFrag_xem (g : Group) (f : Nat) (x : Frag) : (g.setFrag f x).xem = g.xem := rfl
@[simp] theorem Group.setFrag_xmode (g : Group) (f : Nat) (x : Frag) : (g.setFrag f x).xmode = g.xmode := rfl
@[simp] theorem Group.setFrag_inh (g : Group) (f : Nat) (x : Frag) : (g.setFrag f x).inh = g.inh := rfl
@[simp] theorem Group.setFrag_xrec (g : Group) (f : Nat) (x : Frag) : (g.setFrag f x).xrec = g.xrec := rfl
@[simp] theorem Group.setFrag_hctx (g : Group) (f : Nat) (x : Frag) : (g.setFrag f x).hctx = g.hctx := rfl
@[simp] theorem Group.setFrag_late (g : Group) (f : Nat) (x : Frag) : (g.setFrag f x).late = g.late := rfl

@[simp] theorem Group.setV_live (g : Group) (r : Nat) (m : Lanes) (h : Nat → Word) : (g.setV r m h).live = g.live := rfl
@[simp] theorem Group.setV_exited (g : Group) (r : Nat) (m : Lanes) (h : Nat → Word) : (g.setV r m h).exited = g.exited := rfl
@[simp] theorem Group.setV_susp (g : Group) (r : Nat) (m : Lanes) (h : Nat → Word) : (g.setV r m h).susp = g.susp := rfl
@[simp] theorem Group.setV_halted (g : Group) (r : Nat) (m : Lanes) (h : Nat → Word) : (g.setV r m h).halted = g.halted := rfl
@[simp] theorem Group.setV_team (g : Group) (r : Nat) (m : Lanes) (h : Nat → Word) : (g.setV r m h).team = g.team := rfl
@[simp] theorem Group.setV_idx (g : Group) (r : Nat) (m : Lanes) (h : Nat → Word) : (g.setV r m h).idx = g.idx := rfl
@[simp] theorem Group.setV_role (g : Group) (r : Nat) (m : Lanes) (h : Nat → Word) : (g.setV r m h).role = g.role := rfl
@[simp] theorem Group.setV_allot (g : Group) (r : Nat) (m : Lanes) (h : Nat → Word) : (g.setV r m h).allot = g.allot := rfl
@[simp] theorem Group.setV_resv (g : Group) (r : Nat) (m : Lanes) (h : Nat → Word) : (g.setV r m h).resv = g.resv := rfl
@[simp] theorem Group.setV_prio (g : Group) (r : Nat) (m : Lanes) (h : Nat → Word) : (g.setV r m h).prio = g.prio := rfl
@[simp] theorem Group.setV_v (g : Group) (r : Nat) (m : Lanes) (h : Nat → Word) : (g.setV r m h).v = aset zeros32 r (lanes.map fun l => if m.getLsbD l then h l else g.vl r l) g.v := rfl
@[simp] theorem Group.setV_s (g : Group) (r : Nat) (m : Lanes) (h : Nat → Word) : (g.setV r m h).s = g.s := rfl
@[simp] theorem Group.setV_p (g : Group) (r : Nat) (m : Lanes) (h : Nat → Word) : (g.setV r m h).p = g.p := rfl
@[simp] theorem Group.setV_mode (g : Group) (r : Nat) (m : Lanes) (h : Nat → Word) : (g.setV r m h).mode = g.mode := rfl
@[simp] theorem Group.setV_flags (g : Group) (r : Nat) (m : Lanes) (h : Nat → Word) : (g.setV r m h).flags = g.flags := rfl
@[simp] theorem Group.setV_rset (g : Group) (r : Nat) (m : Lanes) (h : Nat → Word) : (g.setV r m h).rset = g.rset := rfl
@[simp] theorem Group.setV_pb (g : Group) (r : Nat) (m : Lanes) (h : Nat → Word) : (g.setV r m h).pb = g.pb := rfl
@[simp] theorem Group.setV_frags (g : Group) (r : Nat) (m : Lanes) (h : Nat → Word) : (g.setV r m h).frags = g.frags := rfl
@[simp] theorem Group.setV_joins (g : Group) (r : Nat) (m : Lanes) (h : Nat → Word) : (g.setV r m h).joins = g.joins := rfl
@[simp] theorem Group.setV_nextId (g : Group) (r : Nat) (m : Lanes) (h : Nat → Word) : (g.setV r m h).nextId = g.nextId := rfl
@[simp] theorem Group.setV_loads (g : Group) (r : Nat) (m : Lanes) (h : Nat → Word) : (g.setV r m h).loads = g.loads := rfl
@[simp] theorem Group.setV_stores (g : Group) (r : Nat) (m : Lanes) (h : Nat → Word) : (g.setV r m h).stores = g.stores := rfl
@[simp] theorem Group.setV_tiles (g : Group) (r : Nat) (m : Lanes) (h : Nat → Word) : (g.setV r m h).tiles = g.tiles := rfl
@[simp] theorem Group.setV_obj (g : Group) (r : Nat) (m : Lanes) (h : Nat → Word) : (g.setV r m h).obj = g.obj := rfl
@[simp] theorem Group.setV_held (g : Group) (r : Nat) (m : Lanes) (h : Nat → Word) : (g.setV r m h).held = g.held := rfl
@[simp] theorem Group.setV_seq (g : Group) (r : Nat) (m : Lanes) (h : Nat → Word) : (g.setV r m h).seq = g.seq := rfl
@[simp] theorem Group.setV_relSeq (g : Group) (r : Nat) (m : Lanes) (h : Nat → Word) : (g.setV r m h).relSeq = g.relSeq := rfl
@[simp] theorem Group.setV_objRel (g : Group) (r : Nat) (m : Lanes) (h : Nat → Word) : (g.setV r m h).objRel = g.objRel := rfl
@[simp] theorem Group.setV_cb (g : Group) (r : Nat) (m : Lanes) (h : Nat → Word) : (g.setV r m h).cb = g.cb := rfl
@[simp] theorem Group.setV_cbd (g : Group) (r : Nat) (m : Lanes) (h : Nat → Word) : (g.setV r m h).cbd = g.cbd := rfl
@[simp] theorem Group.setV_opn (g : Group) (r : Nat) (m : Lanes) (h : Nat → Word) : (g.setV r m h).opn = g.opn := rfl
@[simp] theorem Group.setV_pend (g : Group) (r : Nat) (m : Lanes) (h : Nat → Word) : (g.setV r m h).pend = g.pend := rfl
@[simp] theorem Group.setV_sfu (g : Group) (r : Nat) (m : Lanes) (h : Nat → Word) : (g.setV r m h).sfu = g.sfu := rfl
@[simp] theorem Group.setV_vpois (g : Group) (r : Nat) (m : Lanes) (h : Nat → Word) : (g.setV r m h).vpois = g.vpois := rfl
@[simp] theorem Group.setV_spois (g : Group) (r : Nat) (m : Lanes) (h : Nat → Word) : (g.setV r m h).spois = g.spois := rfl
@[simp] theorem Group.setV_lastEqp (g : Group) (r : Nat) (m : Lanes) (h : Nat → Word) : (g.setV r m h).lastEqp = g.lastEqp := rfl
@[simp] theorem Group.setV_eqpRole (g : Group) (r : Nat) (m : Lanes) (h : Nat → Word) : (g.setV r m h).eqpRole = g.eqpRole := rfl
@[simp] theorem Group.setV_justEqp (g : Group) (r : Nat) (m : Lanes) (h : Nat → Word) : (g.setV r m h).justEqp = g.justEqp := rfl
@[simp] theorem Group.setV_eqpMay (g : Group) (r : Nat) (m : Lanes) (h : Nat → Word) : (g.setV r m h).eqpMay = g.eqpMay := rfl
@[simp] theorem Group.setV_retired (g : Group) (r : Nat) (m : Lanes) (h : Nat → Word) : (g.setV r m h).retired = g.retired := rfl
@[simp] theorem Group.setV_xpc (g : Group) (r : Nat) (m : Lanes) (h : Nat → Word) : (g.setV r m h).xpc = g.xpc := rfl
@[simp] theorem Group.setV_xem (g : Group) (r : Nat) (m : Lanes) (h : Nat → Word) : (g.setV r m h).xem = g.xem := rfl
@[simp] theorem Group.setV_xmode (g : Group) (r : Nat) (m : Lanes) (h : Nat → Word) : (g.setV r m h).xmode = g.xmode := rfl
@[simp] theorem Group.setV_inh (g : Group) (r : Nat) (m : Lanes) (h : Nat → Word) : (g.setV r m h).inh = g.inh := rfl
@[simp] theorem Group.setV_xrec (g : Group) (r : Nat) (m : Lanes) (h : Nat → Word) : (g.setV r m h).xrec = g.xrec := rfl
@[simp] theorem Group.setV_hctx (g : Group) (r : Nat) (m : Lanes) (h : Nat → Word) : (g.setV r m h).hctx = g.hctx := rfl
@[simp] theorem Group.setV_late (g : Group) (r : Nat) (m : Lanes) (h : Nat → Word) : (g.setV r m h).late = g.late := rfl

@[simp] theorem Group.setVPois_live (g : Group) (r : Nat) (m : Lanes) : (g.setVPois r m).live = g.live := rfl
@[simp] theorem Group.setVPois_exited (g : Group) (r : Nat) (m : Lanes) : (g.setVPois r m).exited = g.exited := rfl
@[simp] theorem Group.setVPois_susp (g : Group) (r : Nat) (m : Lanes) : (g.setVPois r m).susp = g.susp := rfl
@[simp] theorem Group.setVPois_halted (g : Group) (r : Nat) (m : Lanes) : (g.setVPois r m).halted = g.halted := rfl
@[simp] theorem Group.setVPois_team (g : Group) (r : Nat) (m : Lanes) : (g.setVPois r m).team = g.team := rfl
@[simp] theorem Group.setVPois_idx (g : Group) (r : Nat) (m : Lanes) : (g.setVPois r m).idx = g.idx := rfl
@[simp] theorem Group.setVPois_role (g : Group) (r : Nat) (m : Lanes) : (g.setVPois r m).role = g.role := rfl
@[simp] theorem Group.setVPois_allot (g : Group) (r : Nat) (m : Lanes) : (g.setVPois r m).allot = g.allot := rfl
@[simp] theorem Group.setVPois_resv (g : Group) (r : Nat) (m : Lanes) : (g.setVPois r m).resv = g.resv := rfl
@[simp] theorem Group.setVPois_prio (g : Group) (r : Nat) (m : Lanes) : (g.setVPois r m).prio = g.prio := rfl
@[simp] theorem Group.setVPois_v (g : Group) (r : Nat) (m : Lanes) : (g.setVPois r m).v = g.v := rfl
@[simp] theorem Group.setVPois_s (g : Group) (r : Nat) (m : Lanes) : (g.setVPois r m).s = g.s := rfl
@[simp] theorem Group.setVPois_p (g : Group) (r : Nat) (m : Lanes) : (g.setVPois r m).p = g.p := rfl
@[simp] theorem Group.setVPois_mode (g : Group) (r : Nat) (m : Lanes) : (g.setVPois r m).mode = g.mode := rfl
@[simp] theorem Group.setVPois_flags (g : Group) (r : Nat) (m : Lanes) : (g.setVPois r m).flags = g.flags := rfl
@[simp] theorem Group.setVPois_rset (g : Group) (r : Nat) (m : Lanes) : (g.setVPois r m).rset = g.rset := rfl
@[simp] theorem Group.setVPois_pb (g : Group) (r : Nat) (m : Lanes) : (g.setVPois r m).pb = g.pb := rfl
@[simp] theorem Group.setVPois_frags (g : Group) (r : Nat) (m : Lanes) : (g.setVPois r m).frags = g.frags := rfl
@[simp] theorem Group.setVPois_joins (g : Group) (r : Nat) (m : Lanes) : (g.setVPois r m).joins = g.joins := rfl
@[simp] theorem Group.setVPois_nextId (g : Group) (r : Nat) (m : Lanes) : (g.setVPois r m).nextId = g.nextId := rfl
@[simp] theorem Group.setVPois_loads (g : Group) (r : Nat) (m : Lanes) : (g.setVPois r m).loads = g.loads := rfl
@[simp] theorem Group.setVPois_stores (g : Group) (r : Nat) (m : Lanes) : (g.setVPois r m).stores = g.stores := rfl
@[simp] theorem Group.setVPois_tiles (g : Group) (r : Nat) (m : Lanes) : (g.setVPois r m).tiles = g.tiles := rfl
@[simp] theorem Group.setVPois_obj (g : Group) (r : Nat) (m : Lanes) : (g.setVPois r m).obj = g.obj := rfl
@[simp] theorem Group.setVPois_held (g : Group) (r : Nat) (m : Lanes) : (g.setVPois r m).held = g.held := rfl
@[simp] theorem Group.setVPois_seq (g : Group) (r : Nat) (m : Lanes) : (g.setVPois r m).seq = g.seq := rfl
@[simp] theorem Group.setVPois_relSeq (g : Group) (r : Nat) (m : Lanes) : (g.setVPois r m).relSeq = g.relSeq := rfl
@[simp] theorem Group.setVPois_objRel (g : Group) (r : Nat) (m : Lanes) : (g.setVPois r m).objRel = g.objRel := rfl
@[simp] theorem Group.setVPois_cb (g : Group) (r : Nat) (m : Lanes) : (g.setVPois r m).cb = g.cb := rfl
@[simp] theorem Group.setVPois_cbd (g : Group) (r : Nat) (m : Lanes) : (g.setVPois r m).cbd = g.cbd := rfl
@[simp] theorem Group.setVPois_opn (g : Group) (r : Nat) (m : Lanes) : (g.setVPois r m).opn = g.opn := rfl
@[simp] theorem Group.setVPois_pend (g : Group) (r : Nat) (m : Lanes) : (g.setVPois r m).pend = g.pend := rfl
@[simp] theorem Group.setVPois_sfu (g : Group) (r : Nat) (m : Lanes) : (g.setVPois r m).sfu = g.sfu := rfl
@[simp] theorem Group.setVPois_vpois (g : Group) (r : Nat) (m : Lanes) : (g.setVPois r m).vpois = aset 0 r m g.vpois := rfl
@[simp] theorem Group.setVPois_spois (g : Group) (r : Nat) (m : Lanes) : (g.setVPois r m).spois = g.spois := rfl
@[simp] theorem Group.setVPois_lastEqp (g : Group) (r : Nat) (m : Lanes) : (g.setVPois r m).lastEqp = g.lastEqp := rfl
@[simp] theorem Group.setVPois_eqpRole (g : Group) (r : Nat) (m : Lanes) : (g.setVPois r m).eqpRole = g.eqpRole := rfl
@[simp] theorem Group.setVPois_justEqp (g : Group) (r : Nat) (m : Lanes) : (g.setVPois r m).justEqp = g.justEqp := rfl
@[simp] theorem Group.setVPois_eqpMay (g : Group) (r : Nat) (m : Lanes) : (g.setVPois r m).eqpMay = g.eqpMay := rfl
@[simp] theorem Group.setVPois_retired (g : Group) (r : Nat) (m : Lanes) : (g.setVPois r m).retired = g.retired := rfl
@[simp] theorem Group.setVPois_xpc (g : Group) (r : Nat) (m : Lanes) : (g.setVPois r m).xpc = g.xpc := rfl
@[simp] theorem Group.setVPois_xem (g : Group) (r : Nat) (m : Lanes) : (g.setVPois r m).xem = g.xem := rfl
@[simp] theorem Group.setVPois_xmode (g : Group) (r : Nat) (m : Lanes) : (g.setVPois r m).xmode = g.xmode := rfl
@[simp] theorem Group.setVPois_inh (g : Group) (r : Nat) (m : Lanes) : (g.setVPois r m).inh = g.inh := rfl
@[simp] theorem Group.setVPois_xrec (g : Group) (r : Nat) (m : Lanes) : (g.setVPois r m).xrec = g.xrec := rfl
@[simp] theorem Group.setVPois_hctx (g : Group) (r : Nat) (m : Lanes) : (g.setVPois r m).hctx = g.hctx := rfl
@[simp] theorem Group.setVPois_late (g : Group) (r : Nat) (m : Lanes) : (g.setVPois r m).late = g.late := rfl

@[simp] theorem Group.clrPend_live (g : Group) (a r : Nat) : (g.clrPend a r).live = g.live := rfl
@[simp] theorem Group.clrPend_exited (g : Group) (a r : Nat) : (g.clrPend a r).exited = g.exited := rfl
@[simp] theorem Group.clrPend_susp (g : Group) (a r : Nat) : (g.clrPend a r).susp = g.susp := rfl
@[simp] theorem Group.clrPend_halted (g : Group) (a r : Nat) : (g.clrPend a r).halted = g.halted := rfl
@[simp] theorem Group.clrPend_team (g : Group) (a r : Nat) : (g.clrPend a r).team = g.team := rfl
@[simp] theorem Group.clrPend_idx (g : Group) (a r : Nat) : (g.clrPend a r).idx = g.idx := rfl
@[simp] theorem Group.clrPend_role (g : Group) (a r : Nat) : (g.clrPend a r).role = g.role := rfl
@[simp] theorem Group.clrPend_allot (g : Group) (a r : Nat) : (g.clrPend a r).allot = g.allot := rfl
@[simp] theorem Group.clrPend_resv (g : Group) (a r : Nat) : (g.clrPend a r).resv = g.resv := rfl
@[simp] theorem Group.clrPend_prio (g : Group) (a r : Nat) : (g.clrPend a r).prio = g.prio := rfl
@[simp] theorem Group.clrPend_v (g : Group) (a r : Nat) : (g.clrPend a r).v = g.v := rfl
@[simp] theorem Group.clrPend_s (g : Group) (a r : Nat) : (g.clrPend a r).s = g.s := rfl
@[simp] theorem Group.clrPend_p (g : Group) (a r : Nat) : (g.clrPend a r).p = g.p := rfl
@[simp] theorem Group.clrPend_mode (g : Group) (a r : Nat) : (g.clrPend a r).mode = g.mode := rfl
@[simp] theorem Group.clrPend_flags (g : Group) (a r : Nat) : (g.clrPend a r).flags = g.flags := rfl
@[simp] theorem Group.clrPend_rset (g : Group) (a r : Nat) : (g.clrPend a r).rset = g.rset := rfl
@[simp] theorem Group.clrPend_pb (g : Group) (a r : Nat) : (g.clrPend a r).pb = g.pb := rfl
@[simp] theorem Group.clrPend_frags (g : Group) (a r : Nat) : (g.clrPend a r).frags = g.frags := rfl
@[simp] theorem Group.clrPend_joins (g : Group) (a r : Nat) : (g.clrPend a r).joins = g.joins := rfl
@[simp] theorem Group.clrPend_nextId (g : Group) (a r : Nat) : (g.clrPend a r).nextId = g.nextId := rfl
@[simp] theorem Group.clrPend_loads (g : Group) (a r : Nat) : (g.clrPend a r).loads = g.loads := rfl
@[simp] theorem Group.clrPend_stores (g : Group) (a r : Nat) : (g.clrPend a r).stores = g.stores := rfl
@[simp] theorem Group.clrPend_tiles (g : Group) (a r : Nat) : (g.clrPend a r).tiles = g.tiles := rfl
@[simp] theorem Group.clrPend_obj (g : Group) (a r : Nat) : (g.clrPend a r).obj = g.obj := rfl
@[simp] theorem Group.clrPend_held (g : Group) (a r : Nat) : (g.clrPend a r).held = g.held := rfl
@[simp] theorem Group.clrPend_seq (g : Group) (a r : Nat) : (g.clrPend a r).seq = g.seq := rfl
@[simp] theorem Group.clrPend_relSeq (g : Group) (a r : Nat) : (g.clrPend a r).relSeq = g.relSeq := rfl
@[simp] theorem Group.clrPend_objRel (g : Group) (a r : Nat) : (g.clrPend a r).objRel = g.objRel := rfl
@[simp] theorem Group.clrPend_cb (g : Group) (a r : Nat) : (g.clrPend a r).cb = g.cb := rfl
@[simp] theorem Group.clrPend_cbd (g : Group) (a r : Nat) : (g.clrPend a r).cbd = g.cbd := rfl
@[simp] theorem Group.clrPend_opn (g : Group) (a r : Nat) : (g.clrPend a r).opn = g.opn := rfl
@[simp] theorem Group.clrPend_pend (g : Group) (a r : Nat) : (g.clrPend a r).pend = g.pend.filter fun p => p != (a, r) := rfl
@[simp] theorem Group.clrPend_sfu (g : Group) (a r : Nat) : (g.clrPend a r).sfu = g.sfu := rfl
@[simp] theorem Group.clrPend_vpois (g : Group) (a r : Nat) : (g.clrPend a r).vpois = g.vpois := rfl
@[simp] theorem Group.clrPend_spois (g : Group) (a r : Nat) : (g.clrPend a r).spois = g.spois := rfl
@[simp] theorem Group.clrPend_lastEqp (g : Group) (a r : Nat) : (g.clrPend a r).lastEqp = g.lastEqp := rfl
@[simp] theorem Group.clrPend_eqpRole (g : Group) (a r : Nat) : (g.clrPend a r).eqpRole = g.eqpRole := rfl
@[simp] theorem Group.clrPend_justEqp (g : Group) (a r : Nat) : (g.clrPend a r).justEqp = g.justEqp := rfl
@[simp] theorem Group.clrPend_eqpMay (g : Group) (a r : Nat) : (g.clrPend a r).eqpMay = g.eqpMay := rfl
@[simp] theorem Group.clrPend_retired (g : Group) (a r : Nat) : (g.clrPend a r).retired = g.retired := rfl
@[simp] theorem Group.clrPend_xpc (g : Group) (a r : Nat) : (g.clrPend a r).xpc = g.xpc := rfl
@[simp] theorem Group.clrPend_xem (g : Group) (a r : Nat) : (g.clrPend a r).xem = g.xem := rfl
@[simp] theorem Group.clrPend_xmode (g : Group) (a r : Nat) : (g.clrPend a r).xmode = g.xmode := rfl
@[simp] theorem Group.clrPend_inh (g : Group) (a r : Nat) : (g.clrPend a r).inh = g.inh := rfl
@[simp] theorem Group.clrPend_xrec (g : Group) (a r : Nat) : (g.clrPend a r).xrec = g.xrec := rfl
@[simp] theorem Group.clrPend_hctx (g : Group) (a r : Nat) : (g.clrPend a r).hctx = g.hctx := rfl
@[simp] theorem Group.clrPend_late (g : Group) (a r : Nat) : (g.clrPend a r).late = g.late := rfl

@[simp] theorem Group.setSPois_live (g : Group) (r : Nat) (b : Bool) : (g.setSPois r b).live = g.live := rfl
@[simp] theorem Group.setSPois_exited (g : Group) (r : Nat) (b : Bool) : (g.setSPois r b).exited = g.exited := rfl
@[simp] theorem Group.setSPois_susp (g : Group) (r : Nat) (b : Bool) : (g.setSPois r b).susp = g.susp := rfl
@[simp] theorem Group.setSPois_halted (g : Group) (r : Nat) (b : Bool) : (g.setSPois r b).halted = g.halted := rfl
@[simp] theorem Group.setSPois_team (g : Group) (r : Nat) (b : Bool) : (g.setSPois r b).team = g.team := rfl
@[simp] theorem Group.setSPois_idx (g : Group) (r : Nat) (b : Bool) : (g.setSPois r b).idx = g.idx := rfl
@[simp] theorem Group.setSPois_role (g : Group) (r : Nat) (b : Bool) : (g.setSPois r b).role = g.role := rfl
@[simp] theorem Group.setSPois_allot (g : Group) (r : Nat) (b : Bool) : (g.setSPois r b).allot = g.allot := rfl
@[simp] theorem Group.setSPois_resv (g : Group) (r : Nat) (b : Bool) : (g.setSPois r b).resv = g.resv := rfl
@[simp] theorem Group.setSPois_prio (g : Group) (r : Nat) (b : Bool) : (g.setSPois r b).prio = g.prio := rfl
@[simp] theorem Group.setSPois_v (g : Group) (r : Nat) (b : Bool) : (g.setSPois r b).v = g.v := rfl
@[simp] theorem Group.setSPois_s (g : Group) (r : Nat) (b : Bool) : (g.setSPois r b).s = g.s := rfl
@[simp] theorem Group.setSPois_p (g : Group) (r : Nat) (b : Bool) : (g.setSPois r b).p = g.p := rfl
@[simp] theorem Group.setSPois_mode (g : Group) (r : Nat) (b : Bool) : (g.setSPois r b).mode = g.mode := rfl
@[simp] theorem Group.setSPois_flags (g : Group) (r : Nat) (b : Bool) : (g.setSPois r b).flags = g.flags := rfl
@[simp] theorem Group.setSPois_rset (g : Group) (r : Nat) (b : Bool) : (g.setSPois r b).rset = g.rset := rfl
@[simp] theorem Group.setSPois_pb (g : Group) (r : Nat) (b : Bool) : (g.setSPois r b).pb = g.pb := rfl
@[simp] theorem Group.setSPois_frags (g : Group) (r : Nat) (b : Bool) : (g.setSPois r b).frags = g.frags := rfl
@[simp] theorem Group.setSPois_joins (g : Group) (r : Nat) (b : Bool) : (g.setSPois r b).joins = g.joins := rfl
@[simp] theorem Group.setSPois_nextId (g : Group) (r : Nat) (b : Bool) : (g.setSPois r b).nextId = g.nextId := rfl
@[simp] theorem Group.setSPois_loads (g : Group) (r : Nat) (b : Bool) : (g.setSPois r b).loads = g.loads := rfl
@[simp] theorem Group.setSPois_stores (g : Group) (r : Nat) (b : Bool) : (g.setSPois r b).stores = g.stores := rfl
@[simp] theorem Group.setSPois_tiles (g : Group) (r : Nat) (b : Bool) : (g.setSPois r b).tiles = g.tiles := rfl
@[simp] theorem Group.setSPois_obj (g : Group) (r : Nat) (b : Bool) : (g.setSPois r b).obj = g.obj := rfl
@[simp] theorem Group.setSPois_held (g : Group) (r : Nat) (b : Bool) : (g.setSPois r b).held = g.held := rfl
@[simp] theorem Group.setSPois_seq (g : Group) (r : Nat) (b : Bool) : (g.setSPois r b).seq = g.seq := rfl
@[simp] theorem Group.setSPois_relSeq (g : Group) (r : Nat) (b : Bool) : (g.setSPois r b).relSeq = g.relSeq := rfl
@[simp] theorem Group.setSPois_objRel (g : Group) (r : Nat) (b : Bool) : (g.setSPois r b).objRel = g.objRel := rfl
@[simp] theorem Group.setSPois_cb (g : Group) (r : Nat) (b : Bool) : (g.setSPois r b).cb = g.cb := rfl
@[simp] theorem Group.setSPois_cbd (g : Group) (r : Nat) (b : Bool) : (g.setSPois r b).cbd = g.cbd := rfl
@[simp] theorem Group.setSPois_opn (g : Group) (r : Nat) (b : Bool) : (g.setSPois r b).opn = g.opn := rfl
@[simp] theorem Group.setSPois_pend (g : Group) (r : Nat) (b : Bool) : (g.setSPois r b).pend = g.pend := rfl
@[simp] theorem Group.setSPois_sfu (g : Group) (r : Nat) (b : Bool) : (g.setSPois r b).sfu = g.sfu := rfl
@[simp] theorem Group.setSPois_vpois (g : Group) (r : Nat) (b : Bool) : (g.setSPois r b).vpois = g.vpois := rfl
@[simp] theorem Group.setSPois_spois (g : Group) (r : Nat) (b : Bool) : (g.setSPois r b).spois = if b then (if g.spois.contains r then g.spois else r :: g.spois) else g.spois.filter (· != r) := rfl
@[simp] theorem Group.setSPois_lastEqp (g : Group) (r : Nat) (b : Bool) : (g.setSPois r b).lastEqp = g.lastEqp := rfl
@[simp] theorem Group.setSPois_eqpRole (g : Group) (r : Nat) (b : Bool) : (g.setSPois r b).eqpRole = g.eqpRole := rfl
@[simp] theorem Group.setSPois_justEqp (g : Group) (r : Nat) (b : Bool) : (g.setSPois r b).justEqp = g.justEqp := rfl
@[simp] theorem Group.setSPois_eqpMay (g : Group) (r : Nat) (b : Bool) : (g.setSPois r b).eqpMay = g.eqpMay := rfl
@[simp] theorem Group.setSPois_retired (g : Group) (r : Nat) (b : Bool) : (g.setSPois r b).retired = g.retired := rfl
@[simp] theorem Group.setSPois_xpc (g : Group) (r : Nat) (b : Bool) : (g.setSPois r b).xpc = g.xpc := rfl
@[simp] theorem Group.setSPois_xem (g : Group) (r : Nat) (b : Bool) : (g.setSPois r b).xem = g.xem := rfl
@[simp] theorem Group.setSPois_xmode (g : Group) (r : Nat) (b : Bool) : (g.setSPois r b).xmode = g.xmode := rfl
@[simp] theorem Group.setSPois_inh (g : Group) (r : Nat) (b : Bool) : (g.setSPois r b).inh = g.inh := rfl
@[simp] theorem Group.setSPois_xrec (g : Group) (r : Nat) (b : Bool) : (g.setSPois r b).xrec = g.xrec := rfl
@[simp] theorem Group.setSPois_hctx (g : Group) (r : Nat) (b : Bool) : (g.setSPois r b).hctx = g.hctx := rfl
@[simp] theorem Group.setSPois_late (g : Group) (r : Nat) (b : Bool) : (g.setSPois r b).late = g.late := rfl

@[simp] theorem Group.setS_live (g : Group) (k : Nat) (w : Word) : (g.setS k w).live = g.live := by
  unfold Group.setS; split <;> rfl
@[simp] theorem Group.setS_exited (g : Group) (k : Nat) (w : Word) : (g.setS k w).exited = g.exited := by
  unfold Group.setS; split <;> rfl
@[simp] theorem Group.setS_susp (g : Group) (k : Nat) (w : Word) : (g.setS k w).susp = g.susp := by
  unfold Group.setS; split <;> rfl
@[simp] theorem Group.setS_halted (g : Group) (k : Nat) (w : Word) : (g.setS k w).halted = g.halted := by
  unfold Group.setS; split <;> rfl
@[simp] theorem Group.setS_team (g : Group) (k : Nat) (w : Word) : (g.setS k w).team = g.team := by
  unfold Group.setS; split <;> rfl
@[simp] theorem Group.setS_idx (g : Group) (k : Nat) (w : Word) : (g.setS k w).idx = g.idx := by
  unfold Group.setS; split <;> rfl
@[simp] theorem Group.setS_role (g : Group) (k : Nat) (w : Word) : (g.setS k w).role = g.role := by
  unfold Group.setS; split <;> rfl
@[simp] theorem Group.setS_allot (g : Group) (k : Nat) (w : Word) : (g.setS k w).allot = g.allot := by
  unfold Group.setS; split <;> rfl
@[simp] theorem Group.setS_resv (g : Group) (k : Nat) (w : Word) : (g.setS k w).resv = g.resv := by
  unfold Group.setS; split <;> rfl
@[simp] theorem Group.setS_prio (g : Group) (k : Nat) (w : Word) : (g.setS k w).prio = g.prio := by
  unfold Group.setS; split <;> rfl
@[simp] theorem Group.setS_v (g : Group) (k : Nat) (w : Word) : (g.setS k w).v = g.v := by
  unfold Group.setS; split <;> rfl
@[simp] theorem Group.setS_p (g : Group) (k : Nat) (w : Word) : (g.setS k w).p = g.p := by
  unfold Group.setS; split <;> rfl
@[simp] theorem Group.setS_mode (g : Group) (k : Nat) (w : Word) : (g.setS k w).mode = g.mode := by
  unfold Group.setS; split <;> rfl
@[simp] theorem Group.setS_flags (g : Group) (k : Nat) (w : Word) : (g.setS k w).flags = g.flags := by
  unfold Group.setS; split <;> rfl
@[simp] theorem Group.setS_rset (g : Group) (k : Nat) (w : Word) : (g.setS k w).rset = g.rset := by
  unfold Group.setS; split <;> rfl
@[simp] theorem Group.setS_pb (g : Group) (k : Nat) (w : Word) : (g.setS k w).pb = g.pb := by
  unfold Group.setS; split <;> rfl
@[simp] theorem Group.setS_frags (g : Group) (k : Nat) (w : Word) : (g.setS k w).frags = g.frags := by
  unfold Group.setS; split <;> rfl
@[simp] theorem Group.setS_joins (g : Group) (k : Nat) (w : Word) : (g.setS k w).joins = g.joins := by
  unfold Group.setS; split <;> rfl
@[simp] theorem Group.setS_nextId (g : Group) (k : Nat) (w : Word) : (g.setS k w).nextId = g.nextId := by
  unfold Group.setS; split <;> rfl
@[simp] theorem Group.setS_loads (g : Group) (k : Nat) (w : Word) : (g.setS k w).loads = g.loads := by
  unfold Group.setS; split <;> rfl
@[simp] theorem Group.setS_stores (g : Group) (k : Nat) (w : Word) : (g.setS k w).stores = g.stores := by
  unfold Group.setS; split <;> rfl
@[simp] theorem Group.setS_tiles (g : Group) (k : Nat) (w : Word) : (g.setS k w).tiles = g.tiles := by
  unfold Group.setS; split <;> rfl
@[simp] theorem Group.setS_obj (g : Group) (k : Nat) (w : Word) : (g.setS k w).obj = g.obj := by
  unfold Group.setS; split <;> rfl
@[simp] theorem Group.setS_held (g : Group) (k : Nat) (w : Word) : (g.setS k w).held = g.held := by
  unfold Group.setS; split <;> rfl
@[simp] theorem Group.setS_seq (g : Group) (k : Nat) (w : Word) : (g.setS k w).seq = g.seq := by
  unfold Group.setS; split <;> rfl
@[simp] theorem Group.setS_relSeq (g : Group) (k : Nat) (w : Word) : (g.setS k w).relSeq = g.relSeq := by
  unfold Group.setS; split <;> rfl
@[simp] theorem Group.setS_objRel (g : Group) (k : Nat) (w : Word) : (g.setS k w).objRel = g.objRel := by
  unfold Group.setS; split <;> rfl
@[simp] theorem Group.setS_cb (g : Group) (k : Nat) (w : Word) : (g.setS k w).cb = g.cb := by
  unfold Group.setS; split <;> rfl
@[simp] theorem Group.setS_cbd (g : Group) (k : Nat) (w : Word) : (g.setS k w).cbd = g.cbd := by
  unfold Group.setS; split <;> rfl
@[simp] theorem Group.setS_opn (g : Group) (k : Nat) (w : Word) : (g.setS k w).opn = g.opn := by
  unfold Group.setS; split <;> rfl
@[simp] theorem Group.setS_pend (g : Group) (k : Nat) (w : Word) : (g.setS k w).pend = g.pend := by
  unfold Group.setS; split <;> rfl
@[simp] theorem Group.setS_sfu (g : Group) (k : Nat) (w : Word) : (g.setS k w).sfu = g.sfu := by
  unfold Group.setS; split <;> rfl
@[simp] theorem Group.setS_vpois (g : Group) (k : Nat) (w : Word) : (g.setS k w).vpois = g.vpois := by
  unfold Group.setS; split <;> rfl
@[simp] theorem Group.setS_spois (g : Group) (k : Nat) (w : Word) : (g.setS k w).spois = g.spois := by
  unfold Group.setS; split <;> rfl
@[simp] theorem Group.setS_lastEqp (g : Group) (k : Nat) (w : Word) : (g.setS k w).lastEqp = g.lastEqp := by
  unfold Group.setS; split <;> rfl
@[simp] theorem Group.setS_eqpRole (g : Group) (k : Nat) (w : Word) : (g.setS k w).eqpRole = g.eqpRole := by
  unfold Group.setS; split <;> rfl
@[simp] theorem Group.setS_justEqp (g : Group) (k : Nat) (w : Word) : (g.setS k w).justEqp = g.justEqp := by
  unfold Group.setS; split <;> rfl
@[simp] theorem Group.setS_eqpMay (g : Group) (k : Nat) (w : Word) : (g.setS k w).eqpMay = g.eqpMay := by
  unfold Group.setS; split <;> rfl
@[simp] theorem Group.setS_retired (g : Group) (k : Nat) (w : Word) : (g.setS k w).retired = g.retired := by
  unfold Group.setS; split <;> rfl
@[simp] theorem Group.setS_xpc (g : Group) (k : Nat) (w : Word) : (g.setS k w).xpc = g.xpc := by
  unfold Group.setS; split <;> rfl
@[simp] theorem Group.setS_xem (g : Group) (k : Nat) (w : Word) : (g.setS k w).xem = g.xem := by
  unfold Group.setS; split <;> rfl
@[simp] theorem Group.setS_xmode (g : Group) (k : Nat) (w : Word) : (g.setS k w).xmode = g.xmode := by
  unfold Group.setS; split <;> rfl
@[simp] theorem Group.setS_inh (g : Group) (k : Nat) (w : Word) : (g.setS k w).inh = g.inh := by
  unfold Group.setS; split <;> rfl
@[simp] theorem Group.setS_xrec (g : Group) (k : Nat) (w : Word) : (g.setS k w).xrec = g.xrec := by
  unfold Group.setS; split <;> rfl
@[simp] theorem Group.setS_hctx (g : Group) (k : Nat) (w : Word) : (g.setS k w).hctx = g.hctx := by
  unfold Group.setS; split <;> rfl
@[simp] theorem Group.setS_late (g : Group) (k : Nat) (w : Word) : (g.setS k w).late = g.late := by
  unfold Group.setS; split <;> rfl

@[simp] theorem Group.setP_live (g : Group) (k : Nat) (m v : Lanes) : (g.setP k m v).live = g.live := by
  unfold Group.setP; split <;> rfl
@[simp] theorem Group.setP_exited (g : Group) (k : Nat) (m v : Lanes) : (g.setP k m v).exited = g.exited := by
  unfold Group.setP; split <;> rfl
@[simp] theorem Group.setP_susp (g : Group) (k : Nat) (m v : Lanes) : (g.setP k m v).susp = g.susp := by
  unfold Group.setP; split <;> rfl
@[simp] theorem Group.setP_halted (g : Group) (k : Nat) (m v : Lanes) : (g.setP k m v).halted = g.halted := by
  unfold Group.setP; split <;> rfl
@[simp] theorem Group.setP_team (g : Group) (k : Nat) (m v : Lanes) : (g.setP k m v).team = g.team := by
  unfold Group.setP; split <;> rfl
@[simp] theorem Group.setP_idx (g : Group) (k : Nat) (m v : Lanes) : (g.setP k m v).idx = g.idx := by
  unfold Group.setP; split <;> rfl
@[simp] theorem Group.setP_role (g : Group) (k : Nat) (m v : Lanes) : (g.setP k m v).role = g.role := by
  unfold Group.setP; split <;> rfl
@[simp] theorem Group.setP_allot (g : Group) (k : Nat) (m v : Lanes) : (g.setP k m v).allot = g.allot := by
  unfold Group.setP; split <;> rfl
@[simp] theorem Group.setP_resv (g : Group) (k : Nat) (m v : Lanes) : (g.setP k m v).resv = g.resv := by
  unfold Group.setP; split <;> rfl
@[simp] theorem Group.setP_prio (g : Group) (k : Nat) (m v : Lanes) : (g.setP k m v).prio = g.prio := by
  unfold Group.setP; split <;> rfl
@[simp] theorem Group.setP_v (g : Group) (k : Nat) (m v : Lanes) : (g.setP k m v).v = g.v := by
  unfold Group.setP; split <;> rfl
@[simp] theorem Group.setP_s (g : Group) (k : Nat) (m v : Lanes) : (g.setP k m v).s = g.s := by
  unfold Group.setP; split <;> rfl
@[simp] theorem Group.setP_mode (g : Group) (k : Nat) (m v : Lanes) : (g.setP k m v).mode = g.mode := by
  unfold Group.setP; split <;> rfl
@[simp] theorem Group.setP_flags (g : Group) (k : Nat) (m v : Lanes) : (g.setP k m v).flags = g.flags := by
  unfold Group.setP; split <;> rfl
@[simp] theorem Group.setP_rset (g : Group) (k : Nat) (m v : Lanes) : (g.setP k m v).rset = g.rset := by
  unfold Group.setP; split <;> rfl
@[simp] theorem Group.setP_pb (g : Group) (k : Nat) (m v : Lanes) : (g.setP k m v).pb = g.pb := by
  unfold Group.setP; split <;> rfl
@[simp] theorem Group.setP_frags (g : Group) (k : Nat) (m v : Lanes) : (g.setP k m v).frags = g.frags := by
  unfold Group.setP; split <;> rfl
@[simp] theorem Group.setP_joins (g : Group) (k : Nat) (m v : Lanes) : (g.setP k m v).joins = g.joins := by
  unfold Group.setP; split <;> rfl
@[simp] theorem Group.setP_nextId (g : Group) (k : Nat) (m v : Lanes) : (g.setP k m v).nextId = g.nextId := by
  unfold Group.setP; split <;> rfl
@[simp] theorem Group.setP_loads (g : Group) (k : Nat) (m v : Lanes) : (g.setP k m v).loads = g.loads := by
  unfold Group.setP; split <;> rfl
@[simp] theorem Group.setP_stores (g : Group) (k : Nat) (m v : Lanes) : (g.setP k m v).stores = g.stores := by
  unfold Group.setP; split <;> rfl
@[simp] theorem Group.setP_tiles (g : Group) (k : Nat) (m v : Lanes) : (g.setP k m v).tiles = g.tiles := by
  unfold Group.setP; split <;> rfl
@[simp] theorem Group.setP_obj (g : Group) (k : Nat) (m v : Lanes) : (g.setP k m v).obj = g.obj := by
  unfold Group.setP; split <;> rfl
@[simp] theorem Group.setP_held (g : Group) (k : Nat) (m v : Lanes) : (g.setP k m v).held = g.held := by
  unfold Group.setP; split <;> rfl
@[simp] theorem Group.setP_seq (g : Group) (k : Nat) (m v : Lanes) : (g.setP k m v).seq = g.seq := by
  unfold Group.setP; split <;> rfl
@[simp] theorem Group.setP_relSeq (g : Group) (k : Nat) (m v : Lanes) : (g.setP k m v).relSeq = g.relSeq := by
  unfold Group.setP; split <;> rfl
@[simp] theorem Group.setP_objRel (g : Group) (k : Nat) (m v : Lanes) : (g.setP k m v).objRel = g.objRel := by
  unfold Group.setP; split <;> rfl
@[simp] theorem Group.setP_cb (g : Group) (k : Nat) (m v : Lanes) : (g.setP k m v).cb = g.cb := by
  unfold Group.setP; split <;> rfl
@[simp] theorem Group.setP_cbd (g : Group) (k : Nat) (m v : Lanes) : (g.setP k m v).cbd = g.cbd := by
  unfold Group.setP; split <;> rfl
@[simp] theorem Group.setP_opn (g : Group) (k : Nat) (m v : Lanes) : (g.setP k m v).opn = g.opn := by
  unfold Group.setP; split <;> rfl
@[simp] theorem Group.setP_pend (g : Group) (k : Nat) (m v : Lanes) : (g.setP k m v).pend = g.pend := by
  unfold Group.setP; split <;> rfl
@[simp] theorem Group.setP_sfu (g : Group) (k : Nat) (m v : Lanes) : (g.setP k m v).sfu = g.sfu := by
  unfold Group.setP; split <;> rfl
@[simp] theorem Group.setP_vpois (g : Group) (k : Nat) (m v : Lanes) : (g.setP k m v).vpois = g.vpois := by
  unfold Group.setP; split <;> rfl
@[simp] theorem Group.setP_spois (g : Group) (k : Nat) (m v : Lanes) : (g.setP k m v).spois = g.spois := by
  unfold Group.setP; split <;> rfl
@[simp] theorem Group.setP_lastEqp (g : Group) (k : Nat) (m v : Lanes) : (g.setP k m v).lastEqp = g.lastEqp := by
  unfold Group.setP; split <;> rfl
@[simp] theorem Group.setP_eqpRole (g : Group) (k : Nat) (m v : Lanes) : (g.setP k m v).eqpRole = g.eqpRole := by
  unfold Group.setP; split <;> rfl
@[simp] theorem Group.setP_justEqp (g : Group) (k : Nat) (m v : Lanes) : (g.setP k m v).justEqp = g.justEqp := by
  unfold Group.setP; split <;> rfl
@[simp] theorem Group.setP_eqpMay (g : Group) (k : Nat) (m v : Lanes) : (g.setP k m v).eqpMay = g.eqpMay := by
  unfold Group.setP; split <;> rfl
@[simp] theorem Group.setP_retired (g : Group) (k : Nat) (m v : Lanes) : (g.setP k m v).retired = g.retired := by
  unfold Group.setP; split <;> rfl
@[simp] theorem Group.setP_xpc (g : Group) (k : Nat) (m v : Lanes) : (g.setP k m v).xpc = g.xpc := by
  unfold Group.setP; split <;> rfl
@[simp] theorem Group.setP_xem (g : Group) (k : Nat) (m v : Lanes) : (g.setP k m v).xem = g.xem := by
  unfold Group.setP; split <;> rfl
@[simp] theorem Group.setP_xmode (g : Group) (k : Nat) (m v : Lanes) : (g.setP k m v).xmode = g.xmode := by
  unfold Group.setP; split <;> rfl
@[simp] theorem Group.setP_inh (g : Group) (k : Nat) (m v : Lanes) : (g.setP k m v).inh = g.inh := by
  unfold Group.setP; split <;> rfl
@[simp] theorem Group.setP_xrec (g : Group) (k : Nat) (m v : Lanes) : (g.setP k m v).xrec = g.xrec := by
  unfold Group.setP; split <;> rfl
@[simp] theorem Group.setP_hctx (g : Group) (k : Nat) (m v : Lanes) : (g.setP k m v).hctx = g.hctx := by
  unfold Group.setP; split <;> rfl
@[simp] theorem Group.setP_late (g : Group) (k : Nat) (m v : Lanes) : (g.setP k m v).late = g.late := by
  unfold Group.setP; split <;> rfl

@[simp] theorem Group.addPend_live (g : Group) (a r : Nat) : (g.addPend a r).live = g.live := by
  unfold Group.addPend; split <;> rfl
@[simp] theorem Group.addPend_exited (g : Group) (a r : Nat) : (g.addPend a r).exited = g.exited := by
  unfold Group.addPend; split <;> rfl
@[simp] theorem Group.addPend_susp (g : Group) (a r : Nat) : (g.addPend a r).susp = g.susp := by
  unfold Group.addPend; split <;> rfl
@[simp] theorem Group.addPend_halted (g : Group) (a r : Nat) : (g.addPend a r).halted = g.halted := by
  unfold Group.addPend; split <;> rfl
@[simp] theorem Group.addPend_team (g : Group) (a r : Nat) : (g.addPend a r).team = g.team := by
  unfold Group.addPend; split <;> rfl
@[simp] theorem Group.addPend_idx (g : Group) (a r : Nat) : (g.addPend a r).idx = g.idx := by
  unfold Group.addPend; split <;> rfl
@[simp] theorem Group.addPend_role (g : Group) (a r : Nat) : (g.addPend a r).role = g.role := by
  unfold Group.addPend; split <;> rfl
@[simp] theorem Group.addPend_allot (g : Group) (a r : Nat) : (g.addPend a r).allot = g.allot := by
  unfold Group.addPend; split <;> rfl
@[simp] theorem Group.addPend_resv (g : Group) (a r : Nat) : (g.addPend a r).resv = g.resv := by
  unfold Group.addPend; split <;> rfl
@[simp] theorem Group.addPend_prio (g : Group) (a r : Nat) : (g.addPend a r).prio = g.prio := by
  unfold Group.addPend; split <;> rfl
@[simp] theorem Group.addPend_v (g : Group) (a r : Nat) : (g.addPend a r).v = g.v := by
  unfold Group.addPend; split <;> rfl
@[simp] theorem Group.addPend_s (g : Group) (a r : Nat) : (g.addPend a r).s = g.s := by
  unfold Group.addPend; split <;> rfl
@[simp] theorem Group.addPend_p (g : Group) (a r : Nat) : (g.addPend a r).p = g.p := by
  unfold Group.addPend; split <;> rfl
@[simp] theorem Group.addPend_mode (g : Group) (a r : Nat) : (g.addPend a r).mode = g.mode := by
  unfold Group.addPend; split <;> rfl
@[simp] theorem Group.addPend_flags (g : Group) (a r : Nat) : (g.addPend a r).flags = g.flags := by
  unfold Group.addPend; split <;> rfl
@[simp] theorem Group.addPend_rset (g : Group) (a r : Nat) : (g.addPend a r).rset = g.rset := by
  unfold Group.addPend; split <;> rfl
@[simp] theorem Group.addPend_pb (g : Group) (a r : Nat) : (g.addPend a r).pb = g.pb := by
  unfold Group.addPend; split <;> rfl
@[simp] theorem Group.addPend_frags (g : Group) (a r : Nat) : (g.addPend a r).frags = g.frags := by
  unfold Group.addPend; split <;> rfl
@[simp] theorem Group.addPend_joins (g : Group) (a r : Nat) : (g.addPend a r).joins = g.joins := by
  unfold Group.addPend; split <;> rfl
@[simp] theorem Group.addPend_nextId (g : Group) (a r : Nat) : (g.addPend a r).nextId = g.nextId := by
  unfold Group.addPend; split <;> rfl
@[simp] theorem Group.addPend_loads (g : Group) (a r : Nat) : (g.addPend a r).loads = g.loads := by
  unfold Group.addPend; split <;> rfl
@[simp] theorem Group.addPend_stores (g : Group) (a r : Nat) : (g.addPend a r).stores = g.stores := by
  unfold Group.addPend; split <;> rfl
@[simp] theorem Group.addPend_tiles (g : Group) (a r : Nat) : (g.addPend a r).tiles = g.tiles := by
  unfold Group.addPend; split <;> rfl
@[simp] theorem Group.addPend_obj (g : Group) (a r : Nat) : (g.addPend a r).obj = g.obj := by
  unfold Group.addPend; split <;> rfl
@[simp] theorem Group.addPend_held (g : Group) (a r : Nat) : (g.addPend a r).held = g.held := by
  unfold Group.addPend; split <;> rfl
@[simp] theorem Group.addPend_seq (g : Group) (a r : Nat) : (g.addPend a r).seq = g.seq := by
  unfold Group.addPend; split <;> rfl
@[simp] theorem Group.addPend_relSeq (g : Group) (a r : Nat) : (g.addPend a r).relSeq = g.relSeq := by
  unfold Group.addPend; split <;> rfl
@[simp] theorem Group.addPend_objRel (g : Group) (a r : Nat) : (g.addPend a r).objRel = g.objRel := by
  unfold Group.addPend; split <;> rfl
@[simp] theorem Group.addPend_cb (g : Group) (a r : Nat) : (g.addPend a r).cb = g.cb := by
  unfold Group.addPend; split <;> rfl
@[simp] theorem Group.addPend_cbd (g : Group) (a r : Nat) : (g.addPend a r).cbd = g.cbd := by
  unfold Group.addPend; split <;> rfl
@[simp] theorem Group.addPend_opn (g : Group) (a r : Nat) : (g.addPend a r).opn = g.opn := by
  unfold Group.addPend; split <;> rfl
@[simp] theorem Group.addPend_sfu (g : Group) (a r : Nat) : (g.addPend a r).sfu = g.sfu := by
  unfold Group.addPend; split <;> rfl
@[simp] theorem Group.addPend_vpois (g : Group) (a r : Nat) : (g.addPend a r).vpois = g.vpois := by
  unfold Group.addPend; split <;> rfl
@[simp] theorem Group.addPend_spois (g : Group) (a r : Nat) : (g.addPend a r).spois = g.spois := by
  unfold Group.addPend; split <;> rfl
@[simp] theorem Group.addPend_lastEqp (g : Group) (a r : Nat) : (g.addPend a r).lastEqp = g.lastEqp := by
  unfold Group.addPend; split <;> rfl
@[simp] theorem Group.addPend_eqpRole (g : Group) (a r : Nat) : (g.addPend a r).eqpRole = g.eqpRole := by
  unfold Group.addPend; split <;> rfl
@[simp] theorem Group.addPend_justEqp (g : Group) (a r : Nat) : (g.addPend a r).justEqp = g.justEqp := by
  unfold Group.addPend; split <;> rfl
@[simp] theorem Group.addPend_eqpMay (g : Group) (a r : Nat) : (g.addPend a r).eqpMay = g.eqpMay := by
  unfold Group.addPend; split <;> rfl
@[simp] theorem Group.addPend_retired (g : Group) (a r : Nat) : (g.addPend a r).retired = g.retired := by
  unfold Group.addPend; split <;> rfl
@[simp] theorem Group.addPend_xpc (g : Group) (a r : Nat) : (g.addPend a r).xpc = g.xpc := by
  unfold Group.addPend; split <;> rfl
@[simp] theorem Group.addPend_xem (g : Group) (a r : Nat) : (g.addPend a r).xem = g.xem := by
  unfold Group.addPend; split <;> rfl
@[simp] theorem Group.addPend_xmode (g : Group) (a r : Nat) : (g.addPend a r).xmode = g.xmode := by
  unfold Group.addPend; split <;> rfl
@[simp] theorem Group.addPend_inh (g : Group) (a r : Nat) : (g.addPend a r).inh = g.inh := by
  unfold Group.addPend; split <;> rfl
@[simp] theorem Group.addPend_xrec (g : Group) (a r : Nat) : (g.addPend a r).xrec = g.xrec := by
  unfold Group.addPend; split <;> rfl
@[simp] theorem Group.addPend_hctx (g : Group) (a r : Nat) : (g.addPend a r).hctx = g.hctx := by
  unfold Group.addPend; split <;> rfl
@[simp] theorem Group.addPend_late (g : Group) (a r : Nat) : (g.addPend a r).late = g.late := by
  unfold Group.addPend; split <;> rfl

end Sys2Proof.Machine
end

