-- ==== Sys2Proof/Laws/Store.lean ====
section
/-! SUPPORT. Laws of maps by number and of memory: a read after a write, other keys left alone, and the canonical form kept. -/
set_option linter.all false
namespace Sys2Proof.Machine

/-! ### Maps -/

@[simp] theorem aput_aput {α} (k : Nat) (x y : α) (l : List (Nat × α)) : aput k x (aput k y l) = aput k x l := by
  induction l with
  | nil => simp [aput]
  | cons p r ih =>
    obtain ⟨a, b⟩ := p
    unfold aput
    by_cases h1 : k < a
    · simp [h1, aput]
    · by_cases h2 : k = a
      · simp [h2, aput]
      · simp [h1, h2, aput, ih]

@[simp] theorem aget_aput {α} (d : α) (k : Nat) (x : α) (l : List (Nat × α)) : aget d k (aput k x l) = x := by
  induction l with
  | nil => simp [aput, aget]
  | cons p r ih =>
    obtain ⟨a, b⟩ := p
    unfold aput
    by_cases h1 : k < a
    · simp [h1, aget]
    · by_cases h2 : k = a
      · simp [h2, aget]
      · simp [h1, h2, aget, ih, Ne.symm h2]

theorem aget_aput_ne {α} (d : α) {j k : Nat} (h : j ≠ k) (x : α) (l : List (Nat × α)) :
    aget d j (aput k x l) = aget d j l := by
  induction l with
  | nil => simp [aput, aget, h.symm]
  | cons p r ih =>
    obtain ⟨a, b⟩ := p
    unfold aput
    by_cases h1 : k < a
    · simp [h1, aget, h.symm]
    · by_cases h2 : k = a
      · subst h2; simp [aget, h.symm]
      · simp only [h1, h2, aget, ih, if_false]

/-- Below every key of a map with rising keys nothing is listed. -/
def below_ {α : Type} (k : Nat) (l : List (Nat × α)) : Prop := ∀ p ∈ l, k < p.1

theorem rising_cons {α} (k : Nat) (v : α) (l : List (Nat × α)) :
    rising ((k, v) :: l) = true ↔ below_ k l ∧ rising l = true := by
  induction l generalizing k v with
  | nil => simp [rising, below_]
  | cons p r ih =>
    obtain ⟨a, b⟩ := p
    rw [rising, Bool.and_eq_true, decide_eq_true_eq, ih a b]
    constructor
    · rintro ⟨h, h1, h2⟩
      refine ⟨fun p hp => ?_, h1, h2⟩
      rcases List.mem_cons.1 hp with rfl | hp
      · exact h
      · exact Nat.lt_trans h (h1 p hp)
    · rintro ⟨h, h2⟩
      exact ⟨h (a, b) (by simp), h2⟩

theorem aget_below {α} (d : α) {k : Nat} {l : List (Nat × α)} (h : below_ k l) : aget d k l = d := by
  induction l with
  | nil => rfl
  | cons p r ih =>
    obtain ⟨a, b⟩ := p
    have := h (a, b) (by simp)
    simp only [aget]
    rw [if_neg (by simp at this; omega)]
    exact ih fun p hp => h p (by simp [hp])

theorem mem_aput {α} {k : Nat} {x : α} {l : List (Nat × α)} {p : Nat × α} (h : p ∈ aput k x l) : p = (k, x) ∨ p ∈ l := by
  induction l with
  | nil => simpa [aput] using h
  | cons q r ih =>
    obtain ⟨a, b⟩ := q
    unfold aput at h
    split at h
    · simpa using h
    · split at h
      · rcases List.mem_cons.1 h with h | h
        · exact .inl h
        · exact .inr (by simp [h])
      · rcases List.mem_cons.1 h with h | h
        · exact .inr (by simp [h])
        · rcases ih h with h | h
          · exact .inl h
          · exact .inr (by simp [h])

theorem mem_adel {α} {k : Nat} {l : List (Nat × α)} {p : Nat × α} (h : p ∈ adel k l) : p ∈ l := by
  induction l with
  | nil => simp [adel] at h
  | cons q r ih =>
    obtain ⟨a, b⟩ := q
    unfold adel at h
    split at h
    · simp [ih h]
    · rcases List.mem_cons.1 h with h | h
      · simp [h]
      · simp [ih h]

theorem rising_aput {α} (k : Nat) (x : α) {l : List (Nat × α)} (h : rising l = true) : rising (aput k x l) = true := by
  induction l with
  | nil => simp [aput, rising]
  | cons q r ih =>
    obtain ⟨a, b⟩ := q
    have h' := (rising_cons a b r).1 h
    unfold aput
    split
    · rename_i hk
      rw [rising_cons]
      refine ⟨fun p hp => ?_, h⟩
      rcases List.mem_cons.1 hp with rfl | hp
      · exact hk
      · exact Nat.lt_trans hk (h'.1 p hp)
    · split
      · rename_i hk; subst hk
        rw [rising_cons]; exact h'
      · rename_i h1 h2
        rw [rising_cons]
        refine ⟨fun p hp => ?_, ih h'.2⟩
        rcases mem_aput hp with rfl | hp
        · simp; omega
        · exact h'.1 p hp

theorem rising_adel {α} (k : Nat) {l : List (Nat × α)} (h : rising l = true) : rising (adel k l) = true := by
  induction l with
  | nil => rfl
  | cons q r ih =>
    obtain ⟨a, b⟩ := q
    have h' := (rising_cons a b r).1 h
    unfold adel
    split
    · exact ih h'.2
    · rw [rising_cons]
      exact ⟨fun p hp => h'.1 p (mem_adel hp), ih h'.2⟩

theorem aget_adel {α} (d : α) (k : Nat) (l : List (Nat × α)) : aget d k (adel k l) = d := by
  induction l with
  | nil => rfl
  | cons q r ih =>
    obtain ⟨a, b⟩ := q
    unfold adel
    split
    · exact ih
    · rename_i hk
      simp only [aget]
      rw [if_neg (fun e => hk e.symm)]
      exact ih

theorem aget_adel_ne {α} (d : α) {j k : Nat} (h : j ≠ k) (l : List (Nat × α)) : aget d j (adel k l) = aget d j l := by
  induction l with
  | nil => rfl
  | cons q r ih =>
    obtain ⟨a, b⟩ := q
    unfold adel
    split
    · rename_i hk; subst hk
      simp only [aget]
      rw [if_neg (fun e => h e.symm)]
      exact ih
    · simp only [aget, ih]

theorem aget_aset {α} [DecidableEq α] (d : α) (k : Nat) (v : α) (l : List (Nat × α)) : aget d k (aset d k v l) = v := by
  unfold aset
  split
  · rename_i hv; rw [aget_adel d k, hv]
  · exact aget_aput d k v l

theorem aget_aset_ne {α} [DecidableEq α] (d : α) {j k : Nat} (h : j ≠ k) (v : α) (l : List (Nat × α)) :
    aget d j (aset d k v l) = aget d j l := by
  unfold aset
  split
  · exact aget_adel_ne d h l
  · exact aget_aput_ne d h v l

theorem rising_aset {α} [DecidableEq α] (d : α) (k : Nat) (v : α) {l : List (Nat × α)} (h : rising l = true) :
    rising (aset d k v l) = true := by
  unfold aset
  split
  · exact rising_adel k h
  · exact rising_aput k v h

theorem rising_filter {α} (p : Nat × α → Bool) {l : List (Nat × α)} (h : rising l = true) : rising (l.filter p) = true := by
  induction l with
  | nil => rfl
  | cons q r ih =>
    obtain ⟨a, b⟩ := q
    have h' := (rising_cons a b r).1 h
    rw [List.filter_cons]
    split
    · rw [rising_cons]
      exact ⟨fun p hp => h'.1 p (List.mem_filter.1 hp).1, ih h'.2⟩
    · exact ih h'.2

theorem rising_append {α} {l r : List (Nat × α)} (hl : rising l = true) (hr : rising r = true)
    (h : ∀ p ∈ l, ∀ q ∈ r, p.1 < q.1) : rising (l ++ r) = true := by
  induction l with
  | nil => exact hr
  | cons q t ih =>
    obtain ⟨a, b⟩ := q
    have h' := (rising_cons a b t).1 hl
    rw [List.cons_append, rising_cons]
    refine ⟨fun p hp => ?_, ih h'.2 fun p hp => h p (by simp [hp])⟩
    rcases List.mem_append.1 hp with hp | hp
    · exact h'.1 p hp
    · exact h (a, b) (by simp) p hp

theorem aget_filter {α} (d : α) (p : Nat × α → Bool) (k : Nat) (q : Bool) (hq : ∀ v, p (k, v) = q) (l : List (Nat × α)) :
    aget d k (l.filter p) = if q then aget d k l else d := by
  induction l with
  | nil => cases q <;> rfl
  | cons x r ih =>
    obtain ⟨a, b⟩ := x
    rw [List.filter_cons]
    by_cases hk : a = k
    · subst hk
      rw [hq b]
      cases q
      · simp only [Bool.false_eq_true, if_false]; simpa using ih
      · simp [aget]
    · by_cases hp : p (a, b) = true
      · rw [if_pos hp]
        simp only [aget, if_neg hk, ih]
      · rw [if_neg hp, ih]
        simp only [aget, if_neg hk]

theorem aget_append {α} (d : α) (k : Nat) (l r : List (Nat × α)) :
    aget d k (l ++ r) = if l.any (fun p => p.1 == k) then aget d k l else aget d k r := by
  induction l with
  | nil => simp
  | cons x t ih =>
    obtain ⟨a, b⟩ := x
    by_cases hk : a = k
    · subst hk; simp [aget]
    · have hk' : (a == k) = false := by simpa using hk
      simp only [List.cons_append, aget, if_neg hk, ih, List.any_cons, hk', Bool.false_or]

/-! ### Memory -/

theorem wf_iff (m : List Host.Cell) : Memory.wf m = true ↔ rising m = true ∧ ∀ p ∈ m, p.2 ≠ 0 := by
  simp [Memory.wf]

theorem mset_wf (m : List Host.Cell) (a : Nat) (b : Byte) (h : Memory.wf m = true) : Memory.wf (mset m a b) = true := by
  rw [wf_iff] at *
  refine ⟨rising_aset _ _ _ h.1, fun p hp => ?_⟩
  unfold mset aset at hp
  split at hp
  · exact h.2 p (mem_adel hp)
  · rename_i hb
    rcases mem_aput hp with rfl | hp
    · exact hb
    · exact h.2 p hp

theorem mget_mset (m : List Host.Cell) (a : Nat) (b : Byte) : mget (mset m a b) a = b := aget_aset _ _ _ _

theorem mget_mset_ne (m : List Host.Cell) {a c : Nat} (h : c ≠ a) (b : Byte) : mget (mset m a b) c = mget m c :=
  aget_aset_ne _ h _ _

theorem mem_cellsOf {a : Nat} {bs : List Byte} {p : Host.Cell} (h : p ∈ cellsOf a bs) :
    a ≤ p.1 ∧ p.1 < a + bs.length ∧ p.2 ≠ 0 := by
  induction bs generalizing a with
  | nil => simp [cellsOf] at h
  | cons b r ih =>
    unfold cellsOf at h
    split at h
    · have := ih h; simp only [List.length_cons]; exact ⟨by omega, by omega, this.2.2⟩
    · rename_i hb
      rcases List.mem_cons.1 h with rfl | h
      · simp only [List.length_cons]; exact ⟨Nat.le_refl _, by omega, hb⟩
      · have := ih h; simp only [List.length_cons]; exact ⟨by omega, by omega, this.2.2⟩

theorem rising_cellsOf (a : Nat) (bs : List Byte) : rising (cellsOf a bs) = true := by
  induction bs generalizing a with
  | nil => rfl
  | cons b r ih =>
    unfold cellsOf
    split
    · exact ih _
    · rw [rising_cons]
      exact ⟨fun p hp => (mem_cellsOf hp).1, ih _⟩

theorem mget_cellsOf (a : Nat) (bs : List Byte) (i : Nat) (h : i < bs.length) : mget (cellsOf a bs) (a + i) = bs[i] := by
  induction bs generalizing a i with
  | nil => simp at h
  | cons b r ih =>
    unfold cellsOf
    cases i with
    | zero =>
      split
      · rename_i hb
        have : aget memDefault (a + 0) (cellsOf (a + 1) r) = memDefault :=
          aget_below _ fun p hp => by have := mem_cellsOf hp; omega
        simp only [mget, this, List.getElem_cons_zero, hb]
      · simp [mget, aget]
    | succ n =>
      have := ih (a + 1) n (by simpa using h)
      rw [show a + 1 + n = a + (n + 1) by omega] at this
      split
      · simpa using this
      · simp only [mget, aget, if_neg (show ¬ a = a + (n + 1) by omega)] at *
        simpa using this

/-- A write keeps the canonical form. -/
theorem mwrite_wf (m : List Host.Cell) (a : Nat) (bs : List Byte) (h : Memory.wf m = true) :
    Memory.wf (mwrite m a bs) = true := by
  rw [wf_iff] at *
  unfold mwrite
  constructor
  · refine rising_append (rising_append (rising_filter _ h.1) (rising_cellsOf a bs) ?_) (rising_filter _ h.1) ?_
    · intro p hp q hq
      have h1 := (List.mem_filter.1 hp).2
      have h2 := mem_cellsOf hq
      simp only [decide_eq_true_eq] at h1
      omega
    · intro p hp q hq
      have h1 := (List.mem_filter.1 hq).2
      simp only [decide_eq_true_eq] at h1
      rcases List.mem_append.1 hp with hp | hp
      · have h2 := (List.mem_filter.1 hp).2
        simp only [decide_eq_true_eq] at h2
        omega
      · have := mem_cellsOf hp; omega
  · intro p hp
    rcases List.mem_append.1 hp with hp | hp
    · rcases List.mem_append.1 hp with hp | hp
      · exact h.2 p (List.mem_filter.1 hp).1
      · exact (mem_cellsOf hp).2.2
    · exact h.2 p (List.mem_filter.1 hp).1

/-- What a write leaves at every address. -/
theorem mget_mwrite (m : List Host.Cell) (a : Nat) (bs : List Byte) (c : Nat) :
    mget (mwrite m a bs) c = if h : a ≤ c ∧ c < a + bs.length then bs[c - a]'(by omega) else mget m c := by
  unfold mwrite mget
  rw [aget_append, aget_append]
  rw [aget_filter memDefault _ c (decide (c < a)) (fun _ => rfl)]
  rw [aget_filter memDefault _ c (decide (a + bs.length ≤ c)) (fun _ => rfl)]
  have hany : ∀ (l r : List Host.Cell), (l ++ r).any (fun p => p.1 == c) = (l.any (fun p => p.1 == c) || r.any (fun p => p.1 == c)) :=
    fun l r => List.any_append
  have hnone : ∀ (l : List Host.Cell), l.any (fun p => p.1 == c) = false → aget memDefault c l = memDefault := by
    intro l hl
    induction l with
    | nil => rfl
    | cons x t ih =>
      obtain ⟨p, q⟩ := x
      simp only [List.any_cons, Bool.or_eq_false_iff, beq_eq_false_iff_ne] at hl
      simp only [aget, if_neg hl.1]
      exact ih hl.2
  by_cases h : a ≤ c ∧ c < a + bs.length
  · rw [dif_pos h]
    have h1 : (m.filter fun c => decide (c.1 < a)).any (fun p => p.1 == c) = false := by
      rw [List.any_eq_false]
      intro p hp
      have := (List.mem_filter.1 hp).2
      simp only [decide_eq_true_eq] at this
      simp only [beq_iff_eq]; omega
    have h2 := mget_cellsOf a bs (c - a) (by omega)
    rw [show a + (c - a) = c by omega] at h2
    rw [hany, h1]
    simp only [Bool.false_or, Bool.false_eq_true, if_false]
    by_cases h3 : (cellsOf a bs).any (fun p => p.1 == c) = true
    · rw [if_pos h3]; exact h2
    · rw [if_neg h3]
      have h4 := hnone _ (Bool.eq_false_iff.2 h3)
      rw [if_neg (by simp; omega)]
      simp only [mget] at h2
      rw [← h2, h4]
  · rw [dif_neg h]
    have h1 : (cellsOf a bs).any (fun p => p.1 == c) = false := by
      rw [List.any_eq_false]
      intro p hp
      have := mem_cellsOf hp
      simp only [beq_iff_eq]; omega
    rw [hany, h1, Bool.or_false]
    by_cases h2 : c < a
    · have h3 : ¬ a + bs.length ≤ c := by omega
      by_cases h4 : (m.filter fun c => decide (c.1 < a)).any (fun p => p.1 == c) = true
      · rw [if_pos h4, if_pos h4]; simp [h2]
      · rw [if_neg h4]
        have h5 := hnone _ (Bool.eq_false_iff.2 h4)
        rw [aget_filter memDefault _ c (decide (c < a)) (fun _ => rfl)] at h5
        simp [h2] at h5
        simp [h3, h5]
    · have h3 : a + bs.length ≤ c := by omega
      have h4 : (m.filter fun c => decide (c.1 < a)).any (fun p => p.1 == c) = false := by
        rw [List.any_eq_false]
        intro p hp
        have := (List.mem_filter.1 hp).2
        simp only [decide_eq_true_eq] at this
        simp only [beq_iff_eq]; omega
      rw [h4]
      simp [h3]

/-- A read finds each byte at its address. -/
theorem mread_eq (m : List Host.Cell) (a n : Nat) : mread m a n = (List.range n).map fun i => mget m (a + i) := by
  unfold mread
  apply List.map_congr_left
  intro i hi
  have hi := List.mem_range.1 hi
  unfold mget
  rw [aget_filter memDefault _ (a + i) true]
  · rfl
  · intro v; simp; omega

end Sys2Proof.Machine
end

