-- ==== Sys2Proof/Laws/Issue.lean ====
section
/-! SUPPORT. Reading a part of the state after it was set; what issue does with an instruction that passes its checks, and with
one that does not; what it says of an instruction's own meaning. -/
set_option linter.all false
namespace Sys2Proof.Machine

/-! ### Parts of the state -/

@[simp] theorem grp_setGrp (s : State) (gid : Nat) (g : Group) : (s.setGrp gid g).grp gid = g := aget_aput _ _ _ _
theorem grp_setGrp_ne (s : State) {gid h : Nat} (hne : h ≠ gid) (g : Group) : (s.setGrp gid g).grp h = s.grp h :=
  aget_aput_ne _ hne _ _
@[simp] theorem setGrp_setGrp (s : State) (gid : Nat) (g h : Group) : (s.setGrp gid g).setGrp gid h = s.setGrp gid h := by
  simp [State.setGrp]
theorem modGrp_eq (s : State) (gid : Nat) (f : Group → Group) : s.modGrp gid f = s.setGrp gid (f (s.grp gid)) := rfl
@[simp] theorem grp_modGrp (s : State) (gid : Nat) (f : Group → Group) : (s.modGrp gid f).grp gid = f (s.grp gid) :=
  grp_setGrp _ _ _
theorem grp_modGrp_ne (s : State) {gid h : Nat} (hne : h ≠ gid) (f : Group → Group) : (s.modGrp gid f).grp h = s.grp h :=
  grp_setGrp_ne _ hne _

@[simp] theorem team_setGrp (s : State) (gid : Nat) (g : Group) (t : Nat) : (s.setGrp gid g).team t = s.team t := rfl
@[simp] theorem launch_setGrp (s : State) (gid : Nat) (g : Group) (l : Nat) : (s.setGrp gid g).launch l = s.launch l := rfl
@[simp] theorem str_setGrp (s : State) (gid : Nat) (g : Group) (t : Nat) : (s.setGrp gid g).str t = s.str t := rfl
@[simp] theorem grp_setTeam (s : State) (t : Nat) (x : Team) (g : Nat) : (s.setTeam t x).grp g = s.grp g := rfl
@[simp] theorem team_setTeam (s : State) (t : Nat) (x : Team) : (s.setTeam t x).team t = x := aget_aput _ _ _ _
theorem team_setTeam_ne (s : State) {t u : Nat} (h : u ≠ t) (x : Team) : (s.setTeam t x).team u = s.team u :=
  aget_aput_ne _ h _ _
@[simp] theorem setTeam_setTeam (s : State) (t : Nat) (x y : Team) : (s.setTeam t x).setTeam t y = s.setTeam t y := by
  simp [State.setTeam]
@[simp] theorem grp_modTeam (s : State) (t : Nat) (f : Team → Team) (g : Nat) : (s.modTeam t f).grp g = s.grp g := rfl
@[simp] theorem str_setStr (s : State) (t : Nat) (x : Stream) : (s.setStr t x).str t = x := by
  simp [State.setStr, State.modTeam, State.str, Team.str]
@[simp] theorem grp_setStr (s : State) (t : Nat) (x : Stream) (g : Nat) : (s.setStr t x).grp g = s.grp g := rfl

/-! ### Parts of a group -/

@[simp] theorem frag_setFrag (g : Group) (f : Nat) (x : Frag) : (g.setFrag f x).frag f = x := aget_aput _ _ _ _
theorem frag_setFrag_ne (g : Group) {f h : Nat} (hne : h ≠ f) (x : Frag) : (g.setFrag f x).frag h = g.frag h :=
  aget_aput_ne _ hne _ _
@[simp] theorem setFrag_setFrag (g : Group) (f : Nat) (x y : Frag) : (g.setFrag f x).setFrag f y = g.setFrag f y := by
  simp [Group.setFrag]

theorem aget_afind {α} (d : α) (k : Nat) (l : List (Nat × α)) {x : α} (h : afind k l = some x) : aget d k l = x := by
  induction l with
  | nil => simp [afind] at h
  | cons p r ih => obtain ⟨a, b⟩ := p; simp only [afind, aget] at *; split <;> simp_all

theorem frag_of {g : Group} {fid : Nat} {f : Frag} (h : afind fid g.frags = some f) : g.frag fid = f := aget_afind _ _ _ h

theorem afind_frag {g : Group} {fid : Nat} (h : (afind fid g.frags).isSome = true) : afind fid g.frags = some (g.frag fid) := by
  obtain ⟨f, hf⟩ := Option.isSome_iff_exists.1 h
  rw [frag_of hf, hf]

/-! ### Issue -/

/-- An instruction that passes its checks has the effect that its body gives, and ends as the body says. -/
theorem issueFrag_eq {s : State} {gid fid : Nat} {i : Info} (body : Ctx → State → Act)
    (hf : (afind fid (s.grp gid).frags).isSome = true)
    (hp : precheck s (s.grp gid) ((s.grp gid).frag fid) i = none)
    (hq : postcheck (s.grp gid) i (mkCtx gid fid (s.grp gid) ((s.grp gid).frag fid) i).act
      (mkCtx gid fid (s.grp gid) ((s.grp gid).frag fid) i).imm = none) :
    issueFrag s gid fid i body =
      finish (mkCtx gid fid (s.grp gid) ((s.grp gid).frag fid) i) (mkCtx gid fid (s.grp gid) ((s.grp gid).frag fid) i).act
        (body (mkCtx gid fid (s.grp gid) ((s.grp gid).frag fid) i) (enter s gid i)) := by
  unfold issueFrag
  simp only [afind_frag hf, hp, hq]

/-- An instruction that fails a check before its MODE is loaded takes that fault, and nothing else happens (R75). -/
theorem issueFrag_pre {s : State} {gid fid : Nat} {i : Info} (body : Ctx → State → Act) {e : FaultInfo}
    (hf : (afind fid (s.grp gid).frags).isSome = true)
    (hp : precheck s (s.grp gid) ((s.grp gid).frag fid) i = some e) :
    issueFrag s gid fid i body =
      takeFault s gid fid e (mkCtx gid fid (s.grp gid) ((s.grp gid).frag fid) i).act := by
  unfold issueFrag
  simp only [afind_frag hf, hp]

/-- One that fails a later check takes that fault with its MODE loaded. -/
theorem issueFrag_post {s : State} {gid fid : Nat} {i : Info} (body : Ctx → State → Act) {e : FaultInfo}
    (hf : (afind fid (s.grp gid).frags).isSome = true)
    (hp : precheck s (s.grp gid) ((s.grp gid).frag fid) i = none)
    (hq : postcheck (s.grp gid) i (mkCtx gid fid (s.grp gid) ((s.grp gid).frag fid) i).act
      (mkCtx gid fid (s.grp gid) ((s.grp gid).frag fid) i).imm = some e) :
    issueFrag s gid fid i body =
      takeFault (enter s gid i) gid fid e (mkCtx gid fid (s.grp gid) ((s.grp gid).frag fid) i).act := by
  unfold issueFrag
  simp only [afind_frag hf, hp, hq]

/-- What an instruction of a fragment comes to, once its checks pass. -/
theorem exec_of_issue {i : Instr} {body : Ctx → State → Act} (h : ∀ s, exec i s = issue s (describe s i) body)
    {s : State} {gid fid : Nat} (hc : CanIssue s gid fid i) :
    exec i s = .next (finish (ctxOf s gid fid i) (ctxOf s gid fid i).act (body (ctxOf s gid fid i) (entered s gid i))) := by
  obtain ⟨hcur, hf, hp, hq⟩ := hc
  rw [h, issue, hcur]
  simp only [issueFrag_eq body hf hp hq]
  rfl

/-- The same for an instruction that a stream may issue as well. -/
theorem exec_of_issueBoth {i : Instr} {wf : Bool} {body : Ctx → State → Act} {sbody : Nat → State → SAct}
    (h : ∀ s, exec i s = issueBoth s (describe s i) wf body sbody) {s : State} {gid fid : Nat} (hc : CanIssue s gid fid i) :
    exec i s = .next (finish (ctxOf s gid fid i) (ctxOf s gid fid i).act (body (ctxOf s gid fid i) (entered s gid i))) := by
  obtain ⟨hcur, hf, hp, hq⟩ := hc
  rw [h, issueBoth, hcur]
  simp only [issueFrag_eq body hf hp hq]
  rfl

theorem ctxOf_gid (s : State) (gid fid : Nat) (i : Instr) : (ctxOf s gid fid i).gid = gid := rfl
theorem ctxOf_fid (s : State) (gid fid : Nat) (i : Instr) : (ctxOf s gid fid i).fid = fid := rfl

/-- An instruction whose body is an effect on its group retires with it. -/
theorem runs_of_issue {i : Instr} {body : Ctx → State → Act} {F : Ctx → Group → Group}
    (h : ∀ s, exec i s = issue s (describe s i) body) (hb : ∀ c s, body c s = .done (onGrp s c (F c))) : Runs i F := by
  intro s gid fid hc
  rw [exec_of_issue h hc, hb]
  simp only [finish, onGrp, ctxOf_gid, ctxOf_fid, modGrp_eq, grp_setGrp, setGrp_setGrp, retired, enteredGrp, entered, enter, nextPc]

theorem runs_of_issueBoth {i : Instr} {wf : Bool} {body : Ctx → State → Act} {sbody : Nat → State → SAct}
    {F : Ctx → Group → Group} (h : ∀ s, exec i s = issueBoth s (describe s i) wf body sbody)
    (hb : ∀ c s, body c s = .done (onGrp s c (F c))) : Runs i F := by
  intro s gid fid hc
  rw [exec_of_issueBoth h hc, hb]
  simp only [finish, onGrp, ctxOf_gid, ctxOf_fid, modGrp_eq, grp_setGrp, setGrp_setGrp, retired, enteredGrp, entered, enter, nextPc]

/-- The same under a condition on the context and the group. -/
theorem runsIf_of_issue {i : Instr} {body : Ctx → State → Act} {P : Ctx → Group → Prop} {F : Ctx → Group → Group}
    (h : ∀ s, exec i s = issue s (describe s i) body)
    (hb : ∀ c s, P c (s.grp c.gid) → body c s = .done (onGrp s c (F c))) : RunsIf i P F := by
  intro s gid fid hc hP
  rw [exec_of_issue h hc, hb _ _ hP]
  simp only [finish, onGrp, ctxOf_gid, ctxOf_fid, modGrp_eq, grp_setGrp, setGrp_setGrp, retired, enteredGrp, entered, enter, nextPc]

/-- An instruction that goes on at a target. -/
theorem jumpsIf_of_issue {i : Instr} {body : Ctx → State → Act} {P : Ctx → Group → Prop} {F : Ctx → Group → Group}
    {pc : Ctx → Group → DWord} (h : ∀ s, exec i s = issue s (describe s i) body)
    (hb : ∀ c s, P c (s.grp c.gid) → body c s = .jump (onGrp s c (F c)) (pc c (s.grp c.gid))) : JumpsIf i P F pc := by
  intro s gid fid hc hP
  rw [exec_of_issue h hc, hb _ _ hP]
  simp only [finish, onGrp, ctxOf_gid, ctxOf_fid, modGrp_eq, grp_setGrp, setGrp_setGrp, jumped, enteredGrp, entered, enter]

/-- An instruction that takes a fault under a condition. -/
theorem faultsIf_of_issue {i : Instr} {body : Ctx → State → Act} {P : Ctx → Group → Prop} {e : Ctx → Group → FaultInfo}
    (h : ∀ s, exec i s = issue s (describe s i) body)
    (hb : ∀ c s, P c (s.grp c.gid) → body c s = .fault s (e c (s.grp c.gid))) : FaultsIf i P e := by
  intro s gid fid hc hP
  rw [exec_of_issue h hc, hb _ _ hP]
  rfl

/-- An instruction that places its fragments itself. -/
theorem staysIf_of_issue {i : Instr} {body : Ctx → State → Act} {P : Ctx → Group → Prop} {F : Ctx → Group → Group}
    (h : ∀ s, exec i s = issue s (describe s i) body)
    (hb : ∀ c s, P c (s.grp c.gid) → body c s = .stay (onGrp s c (F c))) : StaysIf i P F := by
  intro s gid fid hc hP
  rw [exec_of_issue h hc, hb _ _ hP]
  simp only [finish, onGrp, ctxOf_gid, ctxOf_fid, modGrp_eq, grp_setGrp, setGrp_setGrp, enteredGrp, entered, enter]

/-- An instruction that waits. -/
theorem waitsIf_of_issue {i : Instr} {body : Ctx → State → Act} {P : Ctx → State → Prop} {w : Ctx → State → Wait}
    (h : ∀ s, exec i s = issue s (describe s i) body)
    (hb : ∀ c s, P c s → body c s = .wait s (w c s)) : WaitsIf i P w := by
  intro s gid fid hc hP
  rw [exec_of_issue h hc, hb _ _ hP]
  rfl

/-- An instruction that takes a fault under a condition on the state. -/
theorem trapsIf_of_issue {i : Instr} {body : Ctx → State → Act} {P : Ctx → State → Prop} {e : Ctx → State → FaultInfo}
    (h : ∀ s, exec i s = issue s (describe s i) body)
    (hb : ∀ c s, P c s → body c s = .fault s (e c s)) : TrapsIf i P e := by
  intro s gid fid hc hP
  rw [exec_of_issue h hc, hb _ _ hP]
  rfl

/-- An instruction whose body does something to the state. -/
theorem doesIf_of_issue {i : Instr} {body : Ctx → State → Act} {P : Ctx → State → Prop} {R : Ctx → State → State → Prop}
    (h : ∀ s, exec i s = issue s (describe s i) body)
    (hb : ∀ c s, P c s → R c s (finish c c.act (body c s))) : DoesIf i P R := by
  intro s gid fid hc hP
  exact ⟨_, exec_of_issue h hc, hb _ _ hP⟩

/-! The same for an instruction that a stream may issue as well. -/

theorem runsIf_of_issueBoth {i : Instr} {wf : Bool} {body : Ctx → State → Act} {sbody : Nat → State → SAct} 
    {P : Ctx → Group → Prop} {F : Ctx → Group → Group}
    (h : ∀ s, exec i s = issueBoth s (describe s i) wf body sbody)
    (hb : ∀ c s, P c (s.grp c.gid) → body c s = .done (onGrp s c (F c))) : RunsIf i P F := by
  intro s gid fid hc hP
  rw [exec_of_issueBoth h hc, hb _ _ hP]
  simp only [finish, onGrp, ctxOf_gid, ctxOf_fid, modGrp_eq, grp_setGrp, setGrp_setGrp, retired, enteredGrp, entered, enter, nextPc]

theorem faultsIf_of_issueBoth {i : Instr} {wf : Bool} {body : Ctx → State → Act} {sbody : Nat → State → SAct} 
    {P : Ctx → Group → Prop} {e : Ctx → Group → FaultInfo}
    (h : ∀ s, exec i s = issueBoth s (describe s i) wf body sbody)
    (hb : ∀ c s, P c (s.grp c.gid) → body c s = .fault s (e c (s.grp c.gid))) : FaultsIf i P e := by
  intro s gid fid hc hP
  rw [exec_of_issueBoth h hc, hb _ _ hP]
  rfl

theorem staysIf_of_issueBoth {i : Instr} {wf : Bool} {body : Ctx → State → Act} {sbody : Nat → State → SAct} 
    {P : Ctx → Group → Prop} {F : Ctx → Group → Group}
    (h : ∀ s, exec i s = issueBoth s (describe s i) wf body sbody)
    (hb : ∀ c s, P c (s.grp c.gid) → body c s = .stay (onGrp s c (F c))) : StaysIf i P F := by
  intro s gid fid hc hP
  rw [exec_of_issueBoth h hc, hb _ _ hP]
  simp only [finish, onGrp, ctxOf_gid, ctxOf_fid, modGrp_eq, grp_setGrp, setGrp_setGrp, enteredGrp, entered, enter]

theorem waitsIf_of_issueBoth {i : Instr} {wf : Bool} {body : Ctx → State → Act} {sbody : Nat → State → SAct} 
    {P : Ctx → State → Prop} {w : Ctx → State → Wait}
    (h : ∀ s, exec i s = issueBoth s (describe s i) wf body sbody)
    (hb : ∀ c s, P c s → body c s = .wait s (w c s)) : WaitsIf i P w := by
  intro s gid fid hc hP
  rw [exec_of_issueBoth h hc, hb _ _ hP]
  rfl

theorem trapsIf_of_issueBoth {i : Instr} {wf : Bool} {body : Ctx → State → Act} {sbody : Nat → State → SAct} 
    {P : Ctx → State → Prop} {e : Ctx → State → FaultInfo}
    (h : ∀ s, exec i s = issueBoth s (describe s i) wf body sbody)
    (hb : ∀ c s, P c s → body c s = .fault s (e c s)) : TrapsIf i P e := by
  intro s gid fid hc hP
  rw [exec_of_issueBoth h hc, hb _ _ hP]
  rfl

theorem doesIf_of_issueBoth {i : Instr} {wf : Bool} {body : Ctx → State → Act} {sbody : Nat → State → SAct} 
    {P : Ctx → State → Prop} {R : Ctx → State → State → Prop}
    (h : ∀ s, exec i s = issueBoth s (describe s i) wf body sbody)
    (hb : ∀ c s, P c s → R c s (finish c c.act (body c s))) : DoesIf i P R := by
  intro s gid fid hc hP
  exact ⟨_, exec_of_issueBoth h hc, hb _ _ hP⟩

/-- Two effects that agree on the group have one result. -/
theorem onGrp_congr (s : State) (c : Ctx) {f f' : Group → Group} (h : f (s.grp c.gid) = f' (s.grp c.gid)) :
    onGrp s c f = onGrp s c f' := by
  simp only [onGrp, modGrp_eq, h]

/-- An instruction that does nothing but retire. -/
theorem runsIf_nothing {i : Instr} {body : Ctx → State → Act} {P : Ctx → Group → Prop}
    (h : ∀ s, exec i s = issue s (describe s i) body) (hb : ∀ c s, P c (s.grp c.gid) → body c s = .done s) :
    RunsIf i P fun _ g => g := by
  intro s gid fid hc hP
  rw [exec_of_issue h hc, hb _ _ hP]
  simp only [finish, ctxOf_gid, ctxOf_fid, modGrp_eq, grp_setGrp, setGrp_setGrp, retired, enteredGrp, entered, enter, nextPc]

/-- An instruction that only goes on at a target. -/
theorem jumpsIf_nothing {i : Instr} {body : Ctx → State → Act} {P : Ctx → Group → Prop} {pc : Ctx → Group → DWord}
    (h : ∀ s, exec i s = issue s (describe s i) body)
    (hb : ∀ c s, P c (s.grp c.gid) → body c s = .jump s (pc c (s.grp c.gid))) : JumpsIf i P (fun _ g => g) pc := by
  intro s gid fid hc hP
  rw [exec_of_issue h hc, hb _ _ hP]
  simp only [finish, ctxOf_gid, ctxOf_fid, modGrp_eq, grp_setGrp, setGrp_setGrp, jumped, enteredGrp, entered, enter]

/-- An instruction that does nothing but retire, for one that a stream may issue as well. -/
theorem runs_nothing_both_kinds {i : Instr} {wf : Bool} {body : Ctx → State → Act} {sbody : Nat → State → SAct}
    (h : ∀ s, exec i s = issueBoth s (describe s i) wf body sbody) (hb : ∀ c s, body c s = .done s) :
    Runs i fun _ g => g := by
  intro s gid fid hc
  rw [exec_of_issueBoth h hc, hb]
  simp only [finish, ctxOf_gid, ctxOf_fid, modGrp_eq, grp_setGrp, setGrp_setGrp, retired, enteredGrp, entered, enter, nextPc]

/-- The same for one that a fragment alone may issue. -/
theorem runs_nothing {i : Instr} {body : Ctx → State → Act}
    (h : ∀ s, exec i s = issue s (describe s i) body) (hb : ∀ c s, body c s = .done s) : Runs i fun _ g => g := by
  intro s gid fid hc
  rw [exec_of_issue h hc, hb]
  simp only [finish, ctxOf_gid, ctxOf_fid, modGrp_eq, grp_setGrp, setGrp_setGrp, retired, enteredGrp, entered, enter, nextPc]

/-! ### Both encodings at once -/

theorem runs_both {r : Option (BitVec 13)} {m : Instr} {f : BitVec 13 → Instr} {body : Ctx → State → Act}
    {F : Ctx → Group → Group} (h0 : ∀ s, exec m s = issue s (describe s m) body)
    (h1 : ∀ w s, exec (f w) s = issue s (describe s (f w)) body) (hb : ∀ c s, body c s = .done (onGrp s c (F c))) :
    Runs (both r m f) F := by
  cases r
  · exact runs_of_issue h0 hb
  · exact runs_of_issue (h1 _) hb

theorem runsIf_both {r : Option (BitVec 13)} {m : Instr} {f : BitVec 13 → Instr} {body : Ctx → State → Act}
    {P : Ctx → Group → Prop} {F : Ctx → Group → Group} (h0 : ∀ s, exec m s = issue s (describe s m) body)
    (h1 : ∀ w s, exec (f w) s = issue s (describe s (f w)) body)
    (hb : ∀ c s, P c (s.grp c.gid) → body c s = .done (onGrp s c (F c))) : RunsIf (both r m f) P F := by
  cases r
  · exact runsIf_of_issue h0 hb
  · exact runsIf_of_issue (h1 _) hb

theorem runsIf_nothing_both {r : Option (BitVec 13)} {m : Instr} {f : BitVec 13 → Instr} {body : Ctx → State → Act}
    {P : Ctx → Group → Prop} (h0 : ∀ s, exec m s = issue s (describe s m) body)
    (h1 : ∀ w s, exec (f w) s = issue s (describe s (f w)) body) (hb : ∀ c s, P c (s.grp c.gid) → body c s = .done s) :
    RunsIf (both r m f) P fun _ g => g := by
  cases r
  · exact runsIf_nothing h0 hb
  · exact runsIf_nothing (h1 _) hb

theorem jumpsIf_both {r : Option (BitVec 13)} {m : Instr} {f : BitVec 13 → Instr} {body : Ctx → State → Act}
    {P : Ctx → Group → Prop} {F : Ctx → Group → Group} {pc : Ctx → Group → DWord}
    (h0 : ∀ s, exec m s = issue s (describe s m) body) (h1 : ∀ w s, exec (f w) s = issue s (describe s (f w)) body)
    (hb : ∀ c s, P c (s.grp c.gid) → body c s = .jump (onGrp s c (F c)) (pc c (s.grp c.gid))) :
    JumpsIf (both r m f) P F pc := by
  cases r
  · exact jumpsIf_of_issue h0 hb
  · exact jumpsIf_of_issue (h1 _) hb

theorem faultsIf_both {r : Option (BitVec 13)} {m : Instr} {f : BitVec 13 → Instr} {body : Ctx → State → Act}
    {P : Ctx → Group → Prop} {e : Ctx → Group → FaultInfo} (h0 : ∀ s, exec m s = issue s (describe s m) body)
    (h1 : ∀ w s, exec (f w) s = issue s (describe s (f w)) body)
    (hb : ∀ c s, P c (s.grp c.gid) → body c s = .fault s (e c (s.grp c.gid))) : FaultsIf (both r m f) P e := by
  cases r
  · exact faultsIf_of_issue h0 hb
  · exact faultsIf_of_issue (h1 _) hb

theorem staysIf_both {r : Option (BitVec 13)} {m : Instr} {f : BitVec 13 → Instr} {body : Ctx → State → Act}
    {P : Ctx → Group → Prop} {F : Ctx → Group → Group} (h0 : ∀ s, exec m s = issue s (describe s m) body)
    (h1 : ∀ w s, exec (f w) s = issue s (describe s (f w)) body)
    (hb : ∀ c s, P c (s.grp c.gid) → body c s = .stay (onGrp s c (F c))) : StaysIf (both r m f) P F := by
  cases r
  · exact staysIf_of_issue h0 hb
  · exact staysIf_of_issue (h1 _) hb

theorem waitsIf_both {r : Option (BitVec 13)} {m : Instr} {f : BitVec 13 → Instr} {body : Ctx → State → Act}
    {P : Ctx → State → Prop} {w : Ctx → State → Wait} (h0 : ∀ s, exec m s = issue s (describe s m) body)
    (h1 : ∀ x s, exec (f x) s = issue s (describe s (f x)) body) (hb : ∀ c s, P c s → body c s = .wait s (w c s)) :
    WaitsIf (both r m f) P w := by
  cases r
  · exact waitsIf_of_issue h0 hb
  · exact waitsIf_of_issue (h1 _) hb

theorem trapsIf_both {r : Option (BitVec 13)} {m : Instr} {f : BitVec 13 → Instr} {body : Ctx → State → Act}
    {P : Ctx → State → Prop} {e : Ctx → State → FaultInfo} (h0 : ∀ s, exec m s = issue s (describe s m) body)
    (h1 : ∀ x s, exec (f x) s = issue s (describe s (f x)) body) (hb : ∀ c s, P c s → body c s = .fault s (e c s)) :
    TrapsIf (both r m f) P e := by
  cases r
  · exact trapsIf_of_issue h0 hb
  · exact trapsIf_of_issue (h1 _) hb

theorem doesIf_both {r : Option (BitVec 13)} {m : Instr} {f : BitVec 13 → Instr} {body : Ctx → State → Act}
    {P : Ctx → State → Prop} {R : Ctx → State → State → Prop} (h0 : ∀ s, exec m s = issue s (describe s m) body)
    (h1 : ∀ x s, exec (f x) s = issue s (describe s (f x)) body)
    (hb : ∀ c s, P c s → R c s (finish c c.act (body c s))) : DoesIf (both r m f) P R := by
  cases r
  · exact doesIf_of_issue h0 hb
  · exact doesIf_of_issue (h1 _) hb

/-! ### What retiring does -/

@[simp] theorem retired_mem (s : State) (gid fid : Nat) (i : Instr) (F : Ctx → Group → Group) :
    (retired s gid fid i F).mem = s.mem := rfl
theorem retired_grp (s : State) (gid fid : Nat) (i : Instr) (F : Ctx → Group → Group) :
    (retired s gid fid i F).grp gid =
      (F (ctxOf s gid fid i) (enteredGrp s gid i)).retire.goto fid (nextPc (ctxOf s gid fid i)) := grp_setGrp _ _ _
theorem retired_grp_ne (s : State) {gid h : Nat} (hne : h ≠ gid) (fid : Nat) (i : Instr) (F : Ctx → Group → Group) :
    (retired s gid fid i F).grp h = s.grp h := grp_setGrp_ne _ hne _

theorem goto_frag (g : Group) (fid : Nat) (pc : DWord) : ((g.goto fid pc).frag fid).pc = pc := by
  simp [Group.goto, Group.modFrag]
theorem retire_frag (g : Group) (fid : Nat) : g.retire.frag fid = g.frag fid := rfl

end Sys2Proof.Machine
end

