-- ==== Sys2Proof/Laws/Describe.lean ====
section
/-! SUPPORT. For every instruction of the general map, what `describe` gives: one equation each, so that no proof opens its match. -/
set_option linter.all false
namespace Sys2Proof.Machine

theorem describe_nop (s : State) :
    describe s (.nop) = Info.plain 0x00 none true [] := rfl
theorem describe_setm (m : BitVec 13) (s : State) :
    describe s (.setm m) = Info.plain 0x01 none true [] := rfl
theorem describe_setms (k : SReg) (s : State) :
    describe s (.setms k) = Info.plain 0x02 none true [rS k 1] := rfl
theorem describe_getm (k : SReg) (s : State) :
    describe s (.getm k) = Info.plain 0x03 none true [wS k 1] := rfl
theorem describe_bra (h : BitVec 2) (off : BitVec 22) (s : State) :
    describe s (.bra h off) = (Info.plain 0x04 none true []).withImm (.val (off.signExtend 64)) anyImm := rfl
theorem describe_brd (h : BitVec 2) (p : BitVec 3) (inv : Bool) (off : BitVec 18) (s : State) :
    describe s (.brd h p inv off) = (Info.plain 0x05 none true []).withImm (.val (off.signExtend 64)) anyImm := rfl
theorem describe_brx (h : BitVec 2) (v : VReg) (tbl : List (BitVec 32)) (s : State) :
    describe s (.brx h v tbl) = (Info.plain 0x06 none (tblOk tbl.length) [rV v 1]).plus tbl.length := rfl
theorem describe_callAddr (b : BitVec 3) (off : BitVec 21) (s : State) :
    describe s (.callAddr b off) = (Info.plain 0x07 none (b != 0) [wP b]).withImm (.val (off.signExtend 64)) anyImm := rfl
theorem describe_ret (b : BitVec 3) (s : State) :
    describe s (.ret b) = Info.plain 0x08 none (b != 0) [rP b] := rfl
theorem describe_markJoin (off : BitVec 22) (s : State) :
    describe s (.markJoin off) = (Info.plain 0x09 none true []).withImm (.val (off.signExtend 64)) anyImm := rfl
theorem describe_joinFrags (s : State) :
    describe s (.joinFrags) = Info.plain 0x0A none true [] := rfl
theorem describe_ppush (p : BitVec 3) (s : State) :
    describe s (.ppush p) = Info.plain 0x0B none true [] := rfl
theorem describe_pinv (s : State) :
    describe s (.pinv) = Info.plain 0x0C none true [] := rfl
theorem describe_ppop (s : State) :
    describe s (.ppop) = Info.plain 0x0D none true [] := rfl
theorem describe_emrd (k : SReg) (s : State) :
    describe s (.emrd k) = Info.plain 0x0E none true [wS k 1] := rfl
theorem describe_emwr (k : SReg) (s : State) :
    describe s (.emwr k) = Info.plain 0x0F none true [rS k 1] := rfl
theorem describe_waitc (a : BitVec 6) (b : BitVec 6) (c : BitVec 4) (d : BitVec 4) (s : State) :
    describe s (.waitc a b c d) = Info.plain 0x10 none true [] := rfl
theorem describe_cbatch (s : State) :
    describe s (.cbatch) = Info.plain 0x11 none true [] := rfl
theorem describe_waitb (n : BitVec 16) (s : State) :
    describe s (.waitb n) = Info.plain 0x12 none true [] := rfl
theorem describe_bar (c : BitVec 2) (i : BitVec 4) (s : State) :
    describe s (.bar c i) = Info.plain 0x13 none (barOk c i) [] := rfl
theorem describe_bara (c : BitVec 2) (i : BitVec 4) (s : State) :
    describe s (.bara c i) = Info.plain 0x14 none (barOk c i) [] := rfl
theorem describe_barw (c : BitVec 2) (i : BitVec 4) (s : State) :
    describe s (.barw c i) = Info.plain 0x15 none (barOk c i) [] := rfl
theorem describe_drain (c : BitVec 2) (i : BitVec 4) (s : State) :
    describe s (.drain c i) = Info.plain 0x16 none (barOk c i) [] := rfl
theorem describe_eqp (n : BitVec 16) (s : State) :
    describe s (.eqp n) = Info.plain 0x17 none (n != 0xFFFF) [] := rfl
theorem describe_migrTeam (cls : Bool) (n : BitVec 16) (s : State) :
    describe s (.migrTeam cls n) = Info.plain 0x18 none (n != 0xFFFF) [] := rfl
theorem describe_rolesw (i : BitVec 3) (s : State) :
    describe s (.rolesw i) = Info.plain 0x19 none true [] := rfl
theorem describe_yieldIssue (s : State) :
    describe s (.yieldIssue) = Info.plain 0x1A none true [] := rfl
theorem describe_exitFrag (s : State) :
    describe s (.exitFrag) = Info.plain 0x1B none true [] := rfl
theorem describe_trapCode (c : BitVec 16) (s : State) :
    describe s (.trapCode c) = Info.plain 0x1C none true [] := rfl
theorem describe_xret (skip : Bool) (s : State) :
    describe s (.xret skip) = Info.plain 0x1D none true [] := rfl
theorem describe_xrd (k : SReg) (i : BitVec 8) (s : State) :
    describe s (.xrd k i) = Info.plain 0x1E none (trapIndex i.toNat) [wS k 1] := rfl
theorem describe_xwr (k : SReg) (i : BitVec 8) (s : State) :
    describe s (.xwr k i) = Info.plain 0x1F none (trapIndex i.toNat) [rS k 1] := rfl
theorem describe_sread (k : SReg) (i : BitVec 8) (s : State) :
    describe s (.sread k i) = Info.plain 0x20 none (specialIndex i.toNat k.toNat) [wS k (if sreadWide i.toNat then 2 else 1)] := rfl
theorem describe_launchQueue (b : BitVec 3) (s : State) :
    describe s (.launchQueue b) = Info.plain 0x21 none true [rP b] := rfl
theorem describe_ifence (s : State) :
    describe s (.ifence) = Info.plain 0x22 none true [] := rfl
theorem describe_cpref (l : BitVec 2) (off : BitVec 22) (s : State) :
    describe s (.cpref l off) = (Info.plain 0x23 none true []).withImm (.val (off.signExtend 64)) anyImm := rfl
theorem describe_snooze (n : BitVec 16) (s : State) :
    describe s (.snooze n) = Info.plain 0x24 none true [] := rfl
theorem describe_loopCount (k : SReg) (off : BitVec 18) (s : State) :
    describe s (.loopCount k off) = (Info.plain 0x25 none true [rS k 1]).withImm (.val (off.signExtend 64)) anyImm := rfl
theorem describe_iadd (d : VReg) (a : VReg) (b : VReg) (s : State) :
    describe s (.iadd d a b) = Info.vec 0x30 none true (dab d a b) intTypes := rfl
theorem describe_isub (d : VReg) (a : VReg) (b : VReg) (s : State) :
    describe s (.isub d a b) = Info.vec 0x31 none true (dab d a b) intTypes := rfl
theorem describe_imul (d : VReg) (a : VReg) (b : VReg) (s : State) :
    describe s (.imul d a b) = Info.vec 0x32 none true (dab d a b) intTypes := rfl
theorem describe_imulh (d : VReg) (a : VReg) (b : VReg) (s : State) :
    describe s (.imulh d a b) = Info.vec 0x33 none true (dab d a b) intTypes := rfl
theorem describe_imad (d : VReg) (a : VReg) (b : VReg) (s : State) :
    describe s (.imad d a b) = Info.vec 0x34 none true (dabOld d a b) intTypes := rfl
theorem describe_idiv (d : VReg) (a : VReg) (b : VReg) (s : State) :
    describe s (.idiv d a b) = Info.vec 0x35 none true (dab d a b) intTypes := rfl
theorem describe_irem (d : VReg) (a : VReg) (b : VReg) (s : State) :
    describe s (.irem d a b) = Info.vec 0x36 none true (dab d a b) intTypes := rfl
theorem describe_imin (d : VReg) (a : VReg) (b : VReg) (s : State) :
    describe s (.imin d a b) = Info.vec 0x37 none true (dab d a b) intTypes := rfl
theorem describe_imax (d : VReg) (a : VReg) (b : VReg) (s : State) :
    describe s (.imax d a b) = Info.vec 0x38 none true (dab d a b) intTypes := rfl
theorem describe_iabs (d : VReg) (a : VReg) (s : State) :
    describe s (.iabs d a) = Info.vec 0x39 none true (da d a) intTypes := rfl
theorem describe_ineg (d : VReg) (a : VReg) (s : State) :
    describe s (.ineg d a) = Info.vec 0x3A none true (da d a) intTypes := rfl
theorem describe_iaddc (d : VReg) (a : VReg) (b : VReg) (s : State) :
    describe s (.iaddc d a b) = Info.vec 0x3B none true (dab d a b) carryTypes := rfl
theorem describe_icmp (c : BitVec 3) (p : BitVec 3) (a : VReg) (b : VReg) (s : State) :
    describe s (.icmp c p a b) = Info.vec 0x3C none (c.toNat < 6) (ab a b) intTypes := rfl
theorem describe_selLane (d : VReg) (a : VReg) (b : VReg) (s : State) :
    describe s (.selLane d a b) = (Info.vec 0x3D none true (fun ty => daMove d a ty ++ [wV b (regsOf ty)]) intTypes).bare := rfl
theorem describe_andBits (d : VReg) (a : VReg) (b : VReg) (s : State) :
    describe s (.andBits d a b) = Info.vec 0x3E none true (dab d a b) intTypes := rfl
theorem describe_orBits (d : VReg) (a : VReg) (b : VReg) (s : State) :
    describe s (.orBits d a b) = Info.vec 0x3F none true (dab d a b) intTypes := rfl
theorem describe_xorBits (d : VReg) (a : VReg) (b : VReg) (s : State) :
    describe s (.xorBits d a b) = Info.vec 0x40 none true (dab d a b) intTypes := rfl
theorem describe_notBits (d : VReg) (a : VReg) (s : State) :
    describe s (.notBits d a) = Info.vec 0x41 none true (da d a) intTypes := rfl
theorem describe_shl (d : VReg) (a : VReg) (b : VReg) (s : State) :
    describe s (.shl d a b) = Info.vec 0x42 none true (dab d a b) intTypes := rfl
theorem describe_shr (d : VReg) (a : VReg) (b : VReg) (s : State) :
    describe s (.shr d a b) = Info.vec 0x43 none true (dab d a b) intTypes := rfl
theorem describe_sar (d : VReg) (a : VReg) (b : VReg) (s : State) :
    describe s (.sar d a b) = Info.vec 0x44 none true (dab d a b) intTypes := rfl
theorem describe_rotl (d : VReg) (a : VReg) (b : VReg) (s : State) :
    describe s (.rotl d a b) = Info.vec 0x45 none true (dab d a b) intTypes := rfl
theorem describe_popc (d : VReg) (a : VReg) (s : State) :
    describe s (.popc d a) = Info.vec 0x46 none true (da d a) intTypes := rfl
theorem describe_clz (d : VReg) (a : VReg) (s : State) :
    describe s (.clz d a) = Info.vec 0x47 none true (da d a) intTypes := rfl
theorem describe_ctz (d : VReg) (a : VReg) (s : State) :
    describe s (.ctz d a) = Info.vec 0x48 none true (da d a) intTypes := rfl
theorem describe_brev (d : VReg) (a : VReg) (s : State) :
    describe s (.brev d a) = Info.vec 0x49 none true (da d a) intTypes := rfl
theorem describe_bfe (d : VReg) (a : VReg) (b : VReg) (s : State) :
    describe s (.bfe d a b) = Info.vec 0x4A none true (dab d a b) intTypes := rfl
theorem describe_bfi (d : VReg) (a : VReg) (b : VReg) (s : State) :
    describe s (.bfi d a b) = Info.vec 0x4B none true (dabOld d a b) intTypes := rfl
theorem describe_movLane (d : VReg) (a : VReg) (s : State) :
    describe s (.movLane d a) = Info.vec 0x4C none true (da d a) intTypes := rfl
theorem describe_movi (d : VReg) (i : BitVec 8) (s : State) :
    describe s (.movi d i) = ((Info.vec 0x4D none true (fun ty => [wV d (regsOf ty)]) intTypes).withImm (.byte i) anyImm).wideUnder is64 := rfl
theorem describe_lea (d : VReg) (k : VReg) (b : BitVec 3) (s : State) :
    describe s (.lea d k b) = (Info.vec 0x4E none (evenReg d.toNat) (fun _ => wV d 2 :: rP b :: offV k) intTypes).withImm .off anyImm := rfl
theorem describe_iaddi (d : VReg) (a : VReg) (i : BitVec 8) (s : State) :
    describe s (.iaddi d a i) = ((Info.vec 0x4F none true (da d a) intTypes).withImm (.byte i) anyImm).wideUnder is64 := rfl
theorem describe_sadd (d : SReg) (a : SReg) (b : SReg) (s : State) :
    describe s (.sadd d a b) = Info.plain 0x50 none true [wS d 1, rS a 1, rS b 1] := rfl
theorem describe_ssub (d : SReg) (a : SReg) (b : SReg) (s : State) :
    describe s (.ssub d a b) = Info.plain 0x51 none true [wS d 1, rS a 1, rS b 1] := rfl
theorem describe_smul (d : SReg) (a : SReg) (b : SReg) (s : State) :
    describe s (.smul d a b) = Info.plain 0x52 none true [wS d 1, rS a 1, rS b 1] := rfl
theorem describe_sand (d : SReg) (a : SReg) (b : SReg) (s : State) :
    describe s (.sand d a b) = Info.plain 0x53 none true [wS d 1, rS a 1, rS b 1] := rfl
theorem describe_sor (d : SReg) (a : SReg) (b : SReg) (s : State) :
    describe s (.sor d a b) = Info.plain 0x54 none true [wS d 1, rS a 1, rS b 1] := rfl
theorem describe_sxor (d : SReg) (a : SReg) (b : SReg) (s : State) :
    describe s (.sxor d a b) = Info.plain 0x55 none true [wS d 1, rS a 1, rS b 1] := rfl
theorem describe_sshl (d : SReg) (a : SReg) (b : SReg) (s : State) :
    describe s (.sshl d a b) = Info.plain 0x56 none true [wS d 1, rS a 1, rS b 1] := rfl
theorem describe_sshr (d : SReg) (a : SReg) (b : SReg) (s : State) :
    describe s (.sshr d a b) = Info.plain 0x57 none true [wS d 1, rS a 1, rS b 1] := rfl
theorem describe_scmp (c : BitVec 3) (p : BitVec 3) (a : SReg) (b : SReg) (s : State) :
    describe s (.scmp c p a b) = Info.plain 0x58 none (c.toNat < 6) [rS a 1, rS b 1] := rfl
theorem describe_smov (d : SReg) (a : SReg) (s : State) :
    describe s (.smov d a) = Info.plain 0x59 none true [wS d 1, rS a 1] := rfl
theorem describe_smovi (d : SReg) (i : BitVec 8) (s : State) :
    describe s (.smovi d i) = ((Info.plain 0x5A none true [wS d (if s.wideLit then 2 else 1)]).withImm (.byte i) anyImm).wideUnder fun _ => true := rfl
theorem describe_slea (d : SReg) (b : BitVec 3) (s : State) :
    describe s (.slea d b) = (Info.plain 0x5B none (evenReg d.toNat) [wS d 2, rP b]).withImm .off anyImm := rfl
theorem describe_vtos (d : SReg) (a : VReg) (s : State) :
    describe s (.vtos d a) = Info.plain 0x5C none true [wS d 1, wV a 1] := rfl
theorem describe_stov (d : VReg) (a : SReg) (s : State) :
    describe s (.stov d a) = Info.plain 0x5D none true [wV d 1, rS a 1] := rfl
theorem describe_smin (d : SReg) (a : SReg) (b : SReg) (s : State) :
    describe s (.smin d a b) = Info.plain 0x5E none true [wS d 1, rS a 1, rS b 1] := rfl
theorem describe_smax (d : SReg) (a : SReg) (b : SReg) (s : State) :
    describe s (.smax d a b) = Info.plain 0x5F none true [wS d 1, rS a 1, rS b 1] := rfl
theorem describe_fadd (d : VReg) (a : VReg) (b : VReg) (s : State) :
    describe s (.fadd d a b) = Info.vec 0x60 none true (dab d a b) floatTypes := rfl
theorem describe_fsub (d : VReg) (a : VReg) (b : VReg) (s : State) :
    describe s (.fsub d a b) = Info.vec 0x61 none true (dab d a b) floatTypes := rfl
theorem describe_fmul (d : VReg) (a : VReg) (b : VReg) (s : State) :
    describe s (.fmul d a b) = Info.vec 0x62 none true (dab d a b) floatTypes := rfl
theorem describe_ffma (d : VReg) (a : VReg) (b : VReg) (s : State) :
    describe s (.ffma d a b) = Info.vec 0x63 none true (dabOld d a b) floatTypes := rfl
theorem describe_fmin (d : VReg) (a : VReg) (b : VReg) (s : State) :
    describe s (.fmin d a b) = Info.vec 0x64 none true (dab d a b) floatTypes := rfl
theorem describe_fmax (d : VReg) (a : VReg) (b : VReg) (s : State) :
    describe s (.fmax d a b) = Info.vec 0x65 none true (dab d a b) floatTypes := rfl
theorem describe_fabs (d : VReg) (a : VReg) (s : State) :
    describe s (.fabs d a) = Info.vec 0x66 none true (da d a) floatTypes := rfl
theorem describe_fneg (d : VReg) (a : VReg) (s : State) :
    describe s (.fneg d a) = Info.vec 0x67 none true (da d a) floatTypes := rfl
theorem describe_fcmp (c : BitVec 3) (p : BitVec 3) (a : VReg) (b : VReg) (s : State) :
    describe s (.fcmp c p a b) = Info.vec 0x68 none (c.toNat < 7) (ab a b) floatTypes := rfl
theorem describe_fclass (d : VReg) (a : VReg) (s : State) :
    describe s (.fclass d a) = Info.vec 0x69 none true (fun ty => [wV d 1, rV a (regsOf ty)]) floatTypes := rfl
theorem describe_fdiv (d : VReg) (a : VReg) (b : VReg) (s : State) :
    describe s (.fdiv d a b) = Info.vec 0x6A none true (dab d a b) floatTypes := rfl
theorem describe_fsqrt (d : VReg) (a : VReg) (s : State) :
    describe s (.fsqrt d a) = Info.vec 0x6B none true (da d a) floatTypes := rfl
theorem describe_frnd (d : VReg) (a : VReg) (s : State) :
    describe s (.frnd d a) = Info.vec 0x6C none true (da d a) floatTypes := rfl
theorem describe_fldexp (d : VReg) (a : VReg) (b : VReg) (s : State) :
    describe s (.fldexp d a b) = Info.vec 0x6D none true (fun ty => da d a ty ++ [rV b 1]) floatTypes := rfl
theorem describe_fexpo (d : VReg) (a : VReg) (s : State) :
    describe s (.fexpo d a) = Info.vec 0x6E none true (fun ty => [wV d 1, rV a (regsOf ty)]) floatTypes := rfl
theorem describe_fsgnj (d : VReg) (a : VReg) (b : VReg) (s : State) :
    describe s (.fsgnj d a b) = Info.vec 0x6F none true (dab d a b) floatTypes := rfl
theorem describe_frcp (d : VReg) (a : VReg) (s : State) :
    describe s (.frcp d a) = Info.vec 0x70 none true (da d a) sfuTypes := rfl
theorem describe_frsq (d : VReg) (a : VReg) (s : State) :
    describe s (.frsq d a) = Info.vec 0x71 none true (da d a) sfuTypes := rfl
theorem describe_fex2 (d : VReg) (a : VReg) (s : State) :
    describe s (.fex2 d a) = Info.vec 0x72 none true (da d a) sfuTypes := rfl
theorem describe_flg2 (d : VReg) (a : VReg) (s : State) :
    describe s (.flg2 d a) = Info.vec 0x73 none true (da d a) sfuTypes := rfl
theorem describe_fsin (d : VReg) (a : VReg) (s : State) :
    describe s (.fsin d a) = Info.vec 0x74 none true (da d a) sfuTypes := rfl
theorem describe_fcos (d : VReg) (a : VReg) (s : State) :
    describe s (.fcos d a) = Info.vec 0x75 none true (da d a) sfuTypes := rfl
theorem describe_ftanh (d : VReg) (a : VReg) (s : State) :
    describe s (.ftanh d a) = Info.vec 0x76 none true (da d a) sfuTypes := rfl
theorem describe_cvt (d : VReg) (a : VReg) (src : BitVec 4) (s : State) :
    describe s (.cvt d a src) = Info.vec 0x80 none (src.toNat < 12) (fun ty => [wV d (regsOf ty), rV a (regsOf src.toNat)]) cvtTypes := rfl
theorem describe_cvti (d : VReg) (a : VReg) (src : BitVec 4) (s : State) :
    describe s (.cvti d a src) = Info.vec 0x81 none ((2 ≤ src.toNat && src.toNat ≤ 5)) (fun ty => [wV d (regsOf ty), rV a (regsOf src.toNat)]) intTypes := rfl
theorem describe_pack (d : VReg) (a : VReg) (b : VReg) (s : State) :
    describe s (.pack d a b) = Info.vec 0x82 none true (packU d a b) packTypes := rfl
theorem describe_unpk (d : VReg) (a : VReg) (s : State) :
    describe s (.unpk d a) = Info.vec 0x83 none true (unpkU d a) packTypes := rfl
theorem describe_qhist (d : VReg) (a : VReg) (b : VReg) (s : State) :
    describe s (.qhist d a b) = Info.vec 0x84 none true (fun _ => histR d ++ [rV a 1, wV b 1]) quantTypes := rfl
theorem describe_qscale (d : VReg) (a : VReg) (b : VReg) (s : State) :
    describe s (.qscale d a b) = Info.vec 0x85 none true (fun _ => wV d 1 :: histR a ++ [wV b 1]) quantTypes := rfl
theorem describe_quant (d : VReg) (a : VReg) (b : VReg) (s : State) :
    describe s (.quant d a b) = Info.vec 0x86 none true (dab d a b) quantTypes := rfl
theorem describe_deq (d : VReg) (a : VReg) (b : VReg) (s : State) :
    describe s (.deq d a b) = Info.vec 0x87 none true (dab d a b) quantTypes := rfl
theorem describe_qclr (d : VReg) (s : State) :
    describe s (.qclr d) = Info.vec 0x88 none true (fun _ => histW d) quantTypes := rfl
theorem describe_shfl (d : VReg) (a : VReg) (b : VReg) (s : State) :
    describe s (.shfl d a b) = Info.vec 0x90 none true (fun ty => daMove d a ty ++ [rV b 1]) crossTypes := rfl
theorem describe_shflu (d : VReg) (a : VReg) (i : BitVec 8) (s : State) :
    describe s (.shflu d a i) = (Info.vec 0x91 none true (daMove d a) crossTypes).withImm (.byte i) (below 32) := rfl
theorem describe_shfld (d : VReg) (a : VReg) (i : BitVec 8) (s : State) :
    describe s (.shfld d a i) = (Info.vec 0x92 none true (daMove d a) crossTypes).withImm (.byte i) (below 32) := rfl
theorem describe_shflx (d : VReg) (a : VReg) (i : BitVec 8) (s : State) :
    describe s (.shflx d a i) = (Info.vec 0x93 none true (daMove d a) crossTypes).withImm (.byte i) (below 32) := rfl
theorem describe_vote (d : SReg) (p : BitVec 3) (i : BitVec 8) (s : State) :
    describe s (.vote d p i) = (Info.vec 0x94 none true (fun _ => [wS d 1]) (fun _ => true)).withImm (.byte i) (below 3) := rfl
theorem describe_redu (d : VReg) (a : VReg) (i : BitVec 8) (s : State) :
    describe s (.redu d a i) = ((Info.vec 0x95 none true (da d a) crossTypes).withImm (.byte i) (below 7)).typed redTypes := rfl
theorem describe_scanLanes (d : VReg) (a : VReg) (i : BitVec 8) (s : State) :
    describe s (.scanLanes d a i) = ((Info.vec 0x96 none true (da d a) crossTypes).withImm (.byte i) (below 7)).typed redTypes := rfl
theorem describe_matchLanes (d : VReg) (a : VReg) (s : State) :
    describe s (.matchLanes d a) = Info.vec 0x97 none true (fun ty => [wV d 1, rV a (regsOf ty)]) crossTypes := rfl
theorem describe_bcast (d : VReg) (a : VReg) (i : BitVec 8) (s : State) :
    describe s (.bcast d a i) = (Info.vec 0x98 none true (daMove d a) crossTypes).withImm (.byte i) (below 32) := rfl
theorem describe_firstLane (d : VReg) (a : VReg) (s : State) :
    describe s (.firstLane d a) = Info.vec 0x99 none true (daMove d a) crossTypes := rfl
theorem describe_ldGlobal (d : VReg) (k : VReg) (sc : BitVec 3) (o : BitVec 2) (b : BitVec 3) (s : State) :
    describe s (.ldGlobal d k sc o b) = (Info.vec 0xA0 none (sc.toNat < 6) (memU k b (ldData d)) memTypes).withImm .off anyImm := rfl
theorem describe_stGlobal (d : VReg) (k : VReg) (sc : BitVec 3) (o : BitVec 2) (b : BitVec 3) (s : State) :
    describe s (.stGlobal d k sc o b) = (Info.vec 0xA1 none (sc.toNat < 6) (memU k b (stData d)) memTypes).withImm .off anyImm := rfl
theorem describe_ldx (d : VReg) (k : VReg) (sc : BitVec 3) (o : BitVec 2) (b : BitVec 3) (s : State) :
    describe s (.ldx d k sc o b) = (Info.vec 0xA2 none (sc.toNat < 6) (memU k b (ldData d)) extTypes).withImm .off anyImm := rfl
theorem describe_stx (d : VReg) (k : VReg) (sc : BitVec 3) (o : BitVec 2) (b : BitVec 3) (s : State) :
    describe s (.stx d k sc o b) = (Info.vec 0xA3 none (sc.toNat < 6) (memU k b (stData d)) extTypes).withImm .off anyImm := rfl
theorem describe_lds (d : VReg) (k : VReg) (s : State) :
    describe s (.lds d k) = (Info.vec 0xA4 none true (fun ty => wV d (regsOf ty) :: offV k) lsTypes).withImm .off anyImm := rfl
theorem describe_sts (d : VReg) (k : VReg) (s : State) :
    describe s (.sts d k) = (Info.vec 0xA5 none true (fun ty => rV d (regsOf ty) :: offV k) lsTypes).withImm .off anyImm := rfl
theorem describe_ldp (d : VReg) (k : VReg) (s : State) :
    describe s (.ldp d k) = (Info.vec 0xA6 none true (fun ty => wV d (regsOf ty) :: offV k) lsTypes).withImm .off anyImm := rfl
theorem describe_stp (d : VReg) (k : VReg) (s : State) :
    describe s (.stp d k) = (Info.vec 0xA7 none true (fun ty => rV d (regsOf ty) :: offV k) lsTypes).withImm .off anyImm := rfl
theorem describe_stn (d : VReg) (k : VReg) (sc : BitVec 3) (o : BitVec 2) (b : BitVec 3) (s : State) :
    describe s (.stn d k sc o b) = (Info.vec 0xA8 none (sc.toNat < 6) (memU k b (stData d)) memTypes).withImm .off anyImm := rfl
theorem describe_srset (k : SReg) (s : State) :
    describe s (.srset k) = Info.plain 0xA9 none true [rS k 1] := rfl
theorem describe_atadd (d : VReg) (k : VReg) (sc : BitVec 3) (o : BitVec 2) (b : BitVec 3) (s : State) :
    describe s (.atadd d k sc o b) = (Info.vec 0xAA none (sc.toNat < 6) (memU k b (stData d)) addTypes).withImm .off anyImm := rfl
theorem describe_atmin (d : VReg) (k : VReg) (sc : BitVec 3) (o : BitVec 2) (b : BitVec 3) (s : State) :
    describe s (.atmin d k sc o b) = (Info.vec 0xAB none (sc.toNat < 6) (memU k b (stData d)) minTypes).withImm .off anyImm := rfl
theorem describe_atmax (d : VReg) (k : VReg) (sc : BitVec 3) (o : BitVec 2) (b : BitVec 3) (s : State) :
    describe s (.atmax d k sc o b) = (Info.vec 0xAC none (sc.toNat < 6) (memU k b (stData d)) minTypes).withImm .off anyImm := rfl
theorem describe_atand (d : VReg) (k : VReg) (sc : BitVec 3) (o : BitVec 2) (b : BitVec 3) (s : State) :
    describe s (.atand d k sc o b) = (Info.vec 0xAD none (sc.toNat < 6) (memU k b (stData d)) logicTypes).withImm .off anyImm := rfl
theorem describe_ator (d : VReg) (k : VReg) (sc : BitVec 3) (o : BitVec 2) (b : BitVec 3) (s : State) :
    describe s (.ator d k sc o b) = (Info.vec 0xAE none (sc.toNat < 6) (memU k b (stData d)) logicTypes).withImm .off anyImm := rfl
theorem describe_atxor (d : VReg) (k : VReg) (sc : BitVec 3) (o : BitVec 2) (b : BitVec 3) (s : State) :
    describe s (.atxor d k sc o b) = (Info.vec 0xAF none (sc.toNat < 6) (memU k b (stData d)) logicTypes).withImm .off anyImm := rfl
theorem describe_atxch (d : VReg) (k : VReg) (sc : BitVec 3) (o : BitVec 2) (b : BitVec 3) (s : State) :
    describe s (.atxch d k sc o b) = (Info.vec 0xB0 none (sc.toNat < 6) (memU k b (stData d)) xchTypes).withImm .off anyImm := rfl
theorem describe_atcas (d : VReg) (k : VReg) (sc : BitVec 3) (o : BitVec 2) (b : BitVec 3) (s : State) :
    describe s (.atcas d k sc o b) = (Info.vec 0xB1 none (evenReg d.toNat && sc.toNat < 6) (memU k b (casData d)) xchTypes).withImm .off anyImm := rfl
theorem describe_redadd (d : VReg) (k : VReg) (sc : BitVec 3) (o : BitVec 2) (b : BitVec 3) (s : State) :
    describe s (.redadd d k sc o b) = (Info.vec 0xB2 none (sc.toNat < 6) (memU k b (stData d)) addTypes).withImm .off anyImm := rfl
theorem describe_redmin (d : VReg) (k : VReg) (sc : BitVec 3) (o : BitVec 2) (b : BitVec 3) (s : State) :
    describe s (.redmin d k sc o b) = (Info.vec 0xB3 none (sc.toNat < 6) (memU k b (stData d)) minTypes).withImm .off anyImm := rfl
theorem describe_redmax (d : VReg) (k : VReg) (sc : BitVec 3) (o : BitVec 2) (b : BitVec 3) (s : State) :
    describe s (.redmax d k sc o b) = (Info.vec 0xB4 none (sc.toNat < 6) (memU k b (stData d)) minTypes).withImm .off anyImm := rfl
theorem describe_fence (sc : BitVec 3) (o : BitVec 2) (seq : Bool) (s : State) :
    describe s (.fence sc o seq) = Info.plain 0xB5 none (sc.toNat < 6 && (!seq || o == 3)) [] := rfl
theorem describe_ofence (sc : BitVec 3) (o : BitVec 2) (b : BitVec 3) (s : State) :
    describe s (.ofence sc o b) = Info.plain 0xB6 none (sc.toNat < 6) [rP b] := rfl
theorem describe_rflush (n : SReg) (b : BitVec 3) (s : State) :
    describe s (.rflush n b) = (Info.plain 0xB7 none true [rS n 1, rP b]).withImm .off anyImm := rfl
theorem describe_rinv (n : SReg) (b : BitVec 3) (s : State) :
    describe s (.rinv n b) = (Info.plain 0xB8 none true [rS n 1, rP b]).withImm .off anyImm := rfl
theorem describe_pfetch (k : VReg) (b : BitVec 3) (s : State) :
    describe s (.pfetch k b) = (Info.plain 0xB9 none true (rP b :: offV k)).withImm .off anyImm := rfl
theorem describe_locate (k : VReg) (b : BitVec 3) (s : State) :
    describe s (.locate k b) = (Info.plain 0xBA none true (rP b :: offV k)).withImm .off anyImm := rfl
theorem describe_repark (n : SReg) (b : BitVec 3) (s : State) :
    describe s (.repark n b) = (Info.plain 0xBB none true [rS n 1, rP b]).withImm .off anyImm := rfl
theorem describe_unpark (n : SReg) (b : BitVec 3) (s : State) :
    describe s (.unpark n b) = (Info.plain 0xBC none true [rS n 1, rP b]).withImm .off anyImm := rfl
theorem describe_objdef (n : SReg) (b : BitVec 3) (s : State) :
    describe s (.objdef n b) = Info.plain 0xBD none true [wS n 1, rP b] := rfl
theorem describe_objdel (n : SReg) (s : State) :
    describe s (.objdel n) = Info.plain 0xBE none true [rS n 1] := rfl
theorem describe_pcommit (n : SReg) (b : BitVec 3) (s : State) :
    describe s (.pcommit n b) = (Info.plain 0xC0 none true [rS n 1, rP b]).withImm .off anyImm := rfl
theorem describe_pdecommit (n : SReg) (b : BitVec 3) (s : State) :
    describe s (.pdecommit n b) = (Info.plain 0xC1 none true [rS n 1, rP b]).withImm .off anyImm := rfl
theorem describe_allocBlock (n : SReg) (s : State) :
    describe s (.allocBlock n) = Info.plain 0xC2 none (evenReg n.toNat) [rS n 1, wS n 2] := rfl
theorem describe_freeBlock (n : SReg) (s : State) :
    describe s (.freeBlock n) = Info.plain 0xC3 none (evenReg n.toNat) [rS n 2] := rfl
theorem describe_pquery (n : SReg) (b : BitVec 3) (s : State) :
    describe s (.pquery n b) = (Info.plain 0xC4 none true [wS n 1, rP b]).withImm .off anyImm := rfl
theorem describe_tcopy (d : SReg) (a : SReg) (b : SReg) (s : State) :
    describe s (.tcopy d a b) = Info.plain 0xC8 none (evenReg b.toNat) (wS d 1 :: rS b 2 :: blockU a) := rfl
theorem describe_tcopym (d : SReg) (a : SReg) (b : SReg) (s : State) :
    describe s (.tcopym d a b) = Info.plain 0xC9 none (evenReg b.toNat) (wS d 1 :: rS b 2 :: blockU a) := rfl
theorem describe_chain (d : SReg) (a : SReg) (s : State) :
    describe s (.chain d a) = Info.plain 0xCA none true [wS d 1, rS a 1] := rfl
theorem describe_bbinit (a : SReg) (b : SReg) (s : State) :
    describe s (.bbinit a b) = Info.plain 0xCB none true [rS a 1, rS b 1] := rfl
theorem describe_bbexp (a : SReg) (b : SReg) (s : State) :
    describe s (.bbexp a b) = Info.plain 0xCC none true [rS a 1, rS b 1] := rfl
theorem describe_bbwait (d : SReg) (a : SReg) (s : State) :
    describe s (.bbwait d a) = Info.plain 0xCD none true [wS d 1, rS a 1] := rfl
theorem describe_bbinv (a : SReg) (s : State) :
    describe s (.bbinv a) = Info.plain 0xCE none true [rS a 1] := rfl
theorem describe_bbarr (a : SReg) (b : SReg) (s : State) :
    describe s (.bbarr a b) = Info.plain 0xCF none true [rS a 1, rS b 1] := rfl
theorem describe_rinit (a : SReg) (s : State) :
    describe s (.rinit a) = Info.plain 0xD0 none true [rS a 1] := rfl
theorem describe_racq (d : SReg) (a : SReg) (s : State) :
    describe s (.racq d a) = Info.plain 0xD1 none true [wS d 1, rS a 1] := rfl
theorem describe_rpub (d : SReg) (a : SReg) (b : SReg) (s : State) :
    describe s (.rpub d a b) = Info.plain 0xD2 none true [rS d 1, rS a 1, rS b 1] := rfl
theorem describe_rtake (d : SReg) (a : SReg) (s : State) :
    describe s (.rtake d a) = Info.plain 0xD3 none true [wS d 1, rS a 1] := rfl
theorem describe_rdone (a : SReg) (b : SReg) (s : State) :
    describe s (.rdone a b) = Info.plain 0xD4 none true [rS a 1, rS b 1] := rfl
theorem describe_rclose (a : SReg) (s : State) :
    describe s (.rclose a) = Info.plain 0xD5 none true [rS a 1] := rfl
theorem describe_spush (a : SReg) (b : SReg) (s : State) :
    describe s (.spush a b) = Info.plain 0xD6 none true [rS a 1, rS b 1] := rfl
theorem describe_lit (wide : Bool) (v : BitVec 64) (s : State) :
    describe s (.lit wide v) = Info.plain 0xFF none (litOk wide v) [] := rfl
theorem describe_nopRadish (w : BitVec 13) (s : State) :
    describe s (.nopRadish w) = Info.plain 0x00 (some w) true [] := rfl
theorem describe_getmRadish (w : BitVec 13) (k : SReg) (s : State) :
    describe s (.getmRadish w k) = Info.plain 0x03 (some w) true [wS k 1] := rfl
theorem describe_braRadish (w : BitVec 13) (h : BitVec 2) (off : RImm) (s : State) :
    describe s (.braRadish w h off) = (Info.plain 0x04 (some w) (rimmOk off) []).withImm (.rad off) anyImm := rfl
theorem describe_brdRadish (w : BitVec 13) (h : BitVec 2) (p : BitVec 3) (inv : Bool) (off : RImm) (s : State) :
    describe s (.brdRadish w h p inv off) = (Info.plain 0x05 (some w) (rimmOk off) []).withImm (.rad off) anyImm := rfl
theorem describe_brxRadish (w : BitVec 13) (h : BitVec 2) (v : VReg) (tbl : List (BitVec 64)) (s : State) :
    describe s (.brxRadish w h v tbl) = (Info.plain 0x06 (some w) (tblOk tbl.length) [rV v 1]).plus tbl.length := rfl
theorem describe_callAddrRadish (w : BitVec 13) (b : BitVec 3) (off : RImm) (s : State) :
    describe s (.callAddrRadish w b off) = (Info.plain 0x07 (some w) (b != 0 && rimmOk off) [wP b]).withImm (.rad off) anyImm := rfl
theorem describe_retRadish (w : BitVec 13) (b : BitVec 3) (s : State) :
    describe s (.retRadish w b) = Info.plain 0x08 (some w) (b != 0) [rP b] := rfl
theorem describe_markJoinRadish (w : BitVec 13) (off : RImm) (s : State) :
    describe s (.markJoinRadish w off) = (Info.plain 0x09 (some w) (rimmOk off) []).withImm (.rad off) anyImm := rfl
theorem describe_joinFragsRadish (w : BitVec 13) (s : State) :
    describe s (.joinFragsRadish w) = Info.plain 0x0A (some w) true [] := rfl
theorem describe_ppushRadish (w : BitVec 13) (p : BitVec 3) (s : State) :
    describe s (.ppushRadish w p) = Info.plain 0x0B (some w) true [] := rfl
theorem describe_pinvRadish (w : BitVec 13) (s : State) :
    describe s (.pinvRadish w) = Info.plain 0x0C (some w) true [] := rfl
theorem describe_ppopRadish (w : BitVec 13) (s : State) :
    describe s (.ppopRadish w) = Info.plain 0x0D (some w) true [] := rfl
theorem describe_emrdRadish (w : BitVec 13) (k : SReg) (s : State) :
    describe s (.emrdRadish w k) = Info.plain 0x0E (some w) true [wS k 1] := rfl
theorem describe_emwrRadish (w : BitVec 13) (k : SReg) (s : State) :
    describe s (.emwrRadish w k) = Info.plain 0x0F (some w) true [rS k 1] := rfl
theorem describe_waitcRadish (w : BitVec 13) (a : BitVec 6) (b : BitVec 6) (c : BitVec 4) (d : BitVec 4) (s : State) :
    describe s (.waitcRadish w a b c d) = Info.plain 0x10 (some w) true [] := rfl
theorem describe_cbatchRadish (w : BitVec 13) (s : State) :
    describe s (.cbatchRadish w) = Info.plain 0x11 (some w) true [] := rfl
theorem describe_waitbRadish (w : BitVec 13) (n : BitVec 16) (s : State) :
    describe s (.waitbRadish w n) = Info.plain 0x12 (some w) true [] := rfl
theorem describe_barRadish (w : BitVec 13) (c : BitVec 2) (i : BitVec 4) (s : State) :
    describe s (.barRadish w c i) = Info.plain 0x13 (some w) (barOk c i) [] := rfl
theorem describe_baraRadish (w : BitVec 13) (c : BitVec 2) (i : BitVec 4) (s : State) :
    describe s (.baraRadish w c i) = Info.plain 0x14 (some w) (barOk c i) [] := rfl
theorem describe_barwRadish (w : BitVec 13) (c : BitVec 2) (i : BitVec 4) (s : State) :
    describe s (.barwRadish w c i) = Info.plain 0x15 (some w) (barOk c i) [] := rfl
theorem describe_drainRadish (w : BitVec 13) (c : BitVec 2) (i : BitVec 4) (s : State) :
    describe s (.drainRadish w c i) = Info.plain 0x16 (some w) (barOk c i) [] := rfl
theorem describe_eqpRadish (w : BitVec 13) (n : BitVec 16) (s : State) :
    describe s (.eqpRadish w n) = Info.plain 0x17 (some w) (n != 0xFFFF) [] := rfl
theorem describe_migrTeamRadish (w : BitVec 13) (cls : Bool) (n : BitVec 16) (s : State) :
    describe s (.migrTeamRadish w cls n) = Info.plain 0x18 (some w) (n != 0xFFFF) [] := rfl
theorem describe_roleswRadish (w : BitVec 13) (i : BitVec 3) (s : State) :
    describe s (.roleswRadish w i) = Info.plain 0x19 (some w) true [] := rfl
theorem describe_yieldIssueRadish (w : BitVec 13) (s : State) :
    describe s (.yieldIssueRadish w) = Info.plain 0x1A (some w) true [] := rfl
theorem describe_exitFragRadish (w : BitVec 13) (s : State) :
    describe s (.exitFragRadish w) = Info.plain 0x1B (some w) true [] := rfl
theorem describe_trapCodeRadish (w : BitVec 13) (c : BitVec 16) (s : State) :
    describe s (.trapCodeRadish w c) = Info.plain 0x1C (some w) true [] := rfl
theorem describe_xretRadish (w : BitVec 13) (skip : Bool) (s : State) :
    describe s (.xretRadish w skip) = Info.plain 0x1D (some w) true [] := rfl
theorem describe_xrdRadish (w : BitVec 13) (k : SReg) (i : BitVec 8) (s : State) :
    describe s (.xrdRadish w k i) = Info.plain 0x1E (some w) (trapIndex i.toNat) [wS k 1] := rfl
theorem describe_xwrRadish (w : BitVec 13) (k : SReg) (i : BitVec 8) (s : State) :
    describe s (.xwrRadish w k i) = Info.plain 0x1F (some w) (trapIndex i.toNat) [rS k 1] := rfl
theorem describe_sreadRadish (w : BitVec 13) (k : SReg) (i : BitVec 8) (s : State) :
    describe s (.sreadRadish w k i) = Info.plain 0x20 (some w) (specialIndex i.toNat k.toNat) [wS k (if sreadWide i.toNat then 2 else 1)] := rfl
theorem describe_launchQueueRadish (w : BitVec 13) (b : BitVec 3) (s : State) :
    describe s (.launchQueueRadish w b) = Info.plain 0x21 (some w) true [rP b] := rfl
theorem describe_ifenceRadish (w : BitVec 13) (s : State) :
    describe s (.ifenceRadish w) = Info.plain 0x22 (some w) true [] := rfl
theorem describe_cprefRadish (w : BitVec 13) (l : BitVec 2) (off : RImm) (s : State) :
    describe s (.cprefRadish w l off) = (Info.plain 0x23 (some w) (rimmOk off) []).withImm (.rad off) anyImm := rfl
theorem describe_snoozeRadish (w : BitVec 13) (n : BitVec 16) (s : State) :
    describe s (.snoozeRadish w n) = Info.plain 0x24 (some w) true [] := rfl
theorem describe_loopCountRadish (w : BitVec 13) (k : SReg) (off : RImm) (s : State) :
    describe s (.loopCountRadish w k off) = (Info.plain 0x25 (some w) (rimmOk off) [rS k 1]).withImm (.rad off) anyImm := rfl
theorem describe_iaddRadish (w : BitVec 13) (d : VReg) (a : VReg) (b : VReg) (s : State) :
    describe s (.iaddRadish w d a b) = Info.vec 0x30 (some w) true (dab d a b) intTypes := rfl
theorem describe_isubRadish (w : BitVec 13) (d : VReg) (a : VReg) (b : VReg) (s : State) :
    describe s (.isubRadish w d a b) = Info.vec 0x31 (some w) true (dab d a b) intTypes := rfl
theorem describe_imulRadish (w : BitVec 13) (d : VReg) (a : VReg) (b : VReg) (s : State) :
    describe s (.imulRadish w d a b) = Info.vec 0x32 (some w) true (dab d a b) intTypes := rfl
theorem describe_imulhRadish (w : BitVec 13) (d : VReg) (a : VReg) (b : VReg) (s : State) :
    describe s (.imulhRadish w d a b) = Info.vec 0x33 (some w) true (dab d a b) intTypes := rfl
theorem describe_imadRadish (w : BitVec 13) (d : VReg) (a : VReg) (b : VReg) (s : State) :
    describe s (.imadRadish w d a b) = Info.vec 0x34 (some w) true (dabOld d a b) intTypes := rfl
theorem describe_idivRadish (w : BitVec 13) (d : VReg) (a : VReg) (b : VReg) (s : State) :
    describe s (.idivRadish w d a b) = Info.vec 0x35 (some w) true (dab d a b) intTypes := rfl
theorem describe_iremRadish (w : BitVec 13) (d : VReg) (a : VReg) (b : VReg) (s : State) :
    describe s (.iremRadish w d a b) = Info.vec 0x36 (some w) true (dab d a b) intTypes := rfl
theorem describe_iminRadish (w : BitVec 13) (d : VReg) (a : VReg) (b : VReg) (s : State) :
    describe s (.iminRadish w d a b) = Info.vec 0x37 (some w) true (dab d a b) intTypes := rfl
theorem describe_imaxRadish (w : BitVec 13) (d : VReg) (a : VReg) (b : VReg) (s : State) :
    describe s (.imaxRadish w d a b) = Info.vec 0x38 (some w) true (dab d a b) intTypes := rfl
theorem describe_iabsRadish (w : BitVec 13) (d : VReg) (a : VReg) (s : State) :
    describe s (.iabsRadish w d a) = Info.vec 0x39 (some w) true (da d a) intTypes := rfl
theorem describe_inegRadish (w : BitVec 13) (d : VReg) (a : VReg) (s : State) :
    describe s (.inegRadish w d a) = Info.vec 0x3A (some w) true (da d a) intTypes := rfl
theorem describe_iaddcRadish (w : BitVec 13) (d : VReg) (a : VReg) (b : VReg) (s : State) :
    describe s (.iaddcRadish w d a b) = Info.vec 0x3B (some w) true (dab d a b) carryTypes := rfl
theorem describe_icmpRadish (w : BitVec 13) (c : BitVec 3) (p : BitVec 3) (a : VReg) (b : VReg) (s : State) :
    describe s (.icmpRadish w c p a b) = Info.vec 0x3C (some w) (c.toNat < 6) (ab a b) intTypes := rfl
theorem describe_selLaneRadish (w : BitVec 13) (d : VReg) (a : VReg) (b : VReg) (s : State) :
    describe s (.selLaneRadish w d a b) = (Info.vec 0x3D (some w) true (fun ty => daMove d a ty ++ [wV b (regsOf ty)]) intTypes).bare := rfl
theorem describe_andBitsRadish (w : BitVec 13) (d : VReg) (a : VReg) (b : VReg) (s : State) :
    describe s (.andBitsRadish w d a b) = Info.vec 0x3E (some w) true (dab d a b) intTypes := rfl
theorem describe_orBitsRadish (w : BitVec 13) (d : VReg) (a : VReg) (b : VReg) (s : State) :
    describe s (.orBitsRadish w d a b) = Info.vec 0x3F (some w) true (dab d a b) intTypes := rfl
theorem describe_xorBitsRadish (w : BitVec 13) (d : VReg) (a : VReg) (b : VReg) (s : State) :
    describe s (.xorBitsRadish w d a b) = Info.vec 0x40 (some w) true (dab d a b) intTypes := rfl
theorem describe_notBitsRadish (w : BitVec 13) (d : VReg) (a : VReg) (s : State) :
    describe s (.notBitsRadish w d a) = Info.vec 0x41 (some w) true (da d a) intTypes := rfl
theorem describe_shlRadish (w : BitVec 13) (d : VReg) (a : VReg) (b : VReg) (s : State) :
    describe s (.shlRadish w d a b) = Info.vec 0x42 (some w) true (dab d a b) intTypes := rfl
theorem describe_shrRadish (w : BitVec 13) (d : VReg) (a : VReg) (b : VReg) (s : State) :
    describe s (.shrRadish w d a b) = Info.vec 0x43 (some w) true (dab d a b) intTypes := rfl
theorem describe_sarRadish (w : BitVec 13) (d : VReg) (a : VReg) (b : VReg) (s : State) :
    describe s (.sarRadish w d a b) = Info.vec 0x44 (some w) true (dab d a b) intTypes := rfl
theorem describe_rotlRadish (w : BitVec 13) (d : VReg) (a : VReg) (b : VReg) (s : State) :
    describe s (.rotlRadish w d a b) = Info.vec 0x45 (some w) true (dab d a b) intTypes := rfl
theorem describe_popcRadish (w : BitVec 13) (d : VReg) (a : VReg) (s : State) :
    describe s (.popcRadish w d a) = Info.vec 0x46 (some w) true (da d a) intTypes := rfl
theorem describe_clzRadish (w : BitVec 13) (d : VReg) (a : VReg) (s : State) :
    describe s (.clzRadish w d a) = Info.vec 0x47 (some w) true (da d a) intTypes := rfl
theorem describe_ctzRadish (w : BitVec 13) (d : VReg) (a : VReg) (s : State) :
    describe s (.ctzRadish w d a) = Info.vec 0x48 (some w) true (da d a) intTypes := rfl
theorem describe_brevRadish (w : BitVec 13) (d : VReg) (a : VReg) (s : State) :
    describe s (.brevRadish w d a) = Info.vec 0x49 (some w) true (da d a) intTypes := rfl
theorem describe_bfeRadish (w : BitVec 13) (d : VReg) (a : VReg) (b : VReg) (s : State) :
    describe s (.bfeRadish w d a b) = Info.vec 0x4A (some w) true (dab d a b) intTypes := rfl
theorem describe_bfiRadish (w : BitVec 13) (d : VReg) (a : VReg) (b : VReg) (s : State) :
    describe s (.bfiRadish w d a b) = Info.vec 0x4B (some w) true (dabOld d a b) intTypes := rfl
theorem describe_movLaneRadish (w : BitVec 13) (d : VReg) (a : VReg) (s : State) :
    describe s (.movLaneRadish w d a) = Info.vec 0x4C (some w) true (da d a) intTypes := rfl
theorem describe_moviRadish (w : BitVec 13) (d : VReg) (i : RImm) (s : State) :
    describe s (.moviRadish w d i) = ((Info.vec 0x4D (some w) (rimmOk i) (fun ty => [wV d (regsOf ty)]) intTypes).withImm (.rad i) anyImm).wideUnder is64 := rfl
theorem describe_leaRadish (w : BitVec 13) (d : VReg) (k : VReg) (b : BitVec 3) (off : RImm) (s : State) :
    describe s (.leaRadish w d k b off) = (Info.vec 0x4E (some w) (evenReg d.toNat && rimmOk off) (fun _ => wV d 2 :: rP b :: offV k) intTypes).withImm (.rad off) anyImm := rfl
theorem describe_iaddiRadish (w : BitVec 13) (d : VReg) (a : VReg) (i : RImm) (s : State) :
    describe s (.iaddiRadish w d a i) = ((Info.vec 0x4F (some w) (rimmOk i) (da d a) intTypes).withImm (.rad i) anyImm).wideUnder is64 := rfl
theorem describe_saddRadish (w : BitVec 13) (d : SReg) (a : SReg) (b : SReg) (s : State) :
    describe s (.saddRadish w d a b) = Info.plain 0x50 (some w) true [wS d 1, rS a 1, rS b 1] := rfl
theorem describe_ssubRadish (w : BitVec 13) (d : SReg) (a : SReg) (b : SReg) (s : State) :
    describe s (.ssubRadish w d a b) = Info.plain 0x51 (some w) true [wS d 1, rS a 1, rS b 1] := rfl
theorem describe_smulRadish (w : BitVec 13) (d : SReg) (a : SReg) (b : SReg) (s : State) :
    describe s (.smulRadish w d a b) = Info.plain 0x52 (some w) true [wS d 1, rS a 1, rS b 1] := rfl
theorem describe_sandRadish (w : BitVec 13) (d : SReg) (a : SReg) (b : SReg) (s : State) :
    describe s (.sandRadish w d a b) = Info.plain 0x53 (some w) true [wS d 1, rS a 1, rS b 1] := rfl
theorem describe_sorRadish (w : BitVec 13) (d : SReg) (a : SReg) (b : SReg) (s : State) :
    describe s (.sorRadish w d a b) = Info.plain 0x54 (some w) true [wS d 1, rS a 1, rS b 1] := rfl
theorem describe_sxorRadish (w : BitVec 13) (d : SReg) (a : SReg) (b : SReg) (s : State) :
    describe s (.sxorRadish w d a b) = Info.plain 0x55 (some w) true [wS d 1, rS a 1, rS b 1] := rfl
theorem describe_sshlRadish (w : BitVec 13) (d : SReg) (a : SReg) (b : SReg) (s : State) :
    describe s (.sshlRadish w d a b) = Info.plain 0x56 (some w) true [wS d 1, rS a 1, rS b 1] := rfl
theorem describe_sshrRadish (w : BitVec 13) (d : SReg) (a : SReg) (b : SReg) (s : State) :
    describe s (.sshrRadish w d a b) = Info.plain 0x57 (some w) true [wS d 1, rS a 1, rS b 1] := rfl
theorem describe_scmpRadish (w : BitVec 13) (c : BitVec 3) (p : BitVec 3) (a : SReg) (b : SReg) (s : State) :
    describe s (.scmpRadish w c p a b) = Info.plain 0x58 (some w) (c.toNat < 6) [rS a 1, rS b 1] := rfl
theorem describe_smovRadish (w : BitVec 13) (d : SReg) (a : SReg) (s : State) :
    describe s (.smovRadish w d a) = Info.plain 0x59 (some w) true [wS d 1, rS a 1] := rfl
theorem describe_smoviRadish (w : BitVec 13) (d : SReg) (i : RImm) (s : State) :
    describe s (.smoviRadish w d i) = ((Info.plain 0x5A (some w) (rimmPairOk i) [wS d (if (radPair i) then 2 else 1)]).withImm (.rad i) anyImm).wideUnder fun _ => radPair i := rfl
theorem describe_sleaRadish (w : BitVec 13) (d : SReg) (b : BitVec 3) (off : RImm) (s : State) :
    describe s (.sleaRadish w d b off) = (Info.plain 0x5B (some w) (evenReg d.toNat && rimmOk off) [wS d 2, rP b]).withImm (.rad off) anyImm := rfl
theorem describe_vtosRadish (w : BitVec 13) (d : SReg) (a : VReg) (s : State) :
    describe s (.vtosRadish w d a) = Info.plain 0x5C (some w) true [wS d 1, wV a 1] := rfl
theorem describe_stovRadish (w : BitVec 13) (d : VReg) (a : SReg) (s : State) :
    describe s (.stovRadish w d a) = Info.plain 0x5D (some w) true [wV d 1, rS a 1] := rfl
theorem describe_sminRadish (w : BitVec 13) (d : SReg) (a : SReg) (b : SReg) (s : State) :
    describe s (.sminRadish w d a b) = Info.plain 0x5E (some w) true [wS d 1, rS a 1, rS b 1] := rfl
theorem describe_smaxRadish (w : BitVec 13) (d : SReg) (a : SReg) (b : SReg) (s : State) :
    describe s (.smaxRadish w d a b) = Info.plain 0x5F (some w) true [wS d 1, rS a 1, rS b 1] := rfl
theorem describe_faddRadish (w : BitVec 13) (d : VReg) (a : VReg) (b : VReg) (s : State) :
    describe s (.faddRadish w d a b) = Info.vec 0x60 (some w) true (dab d a b) floatTypes := rfl
theorem describe_fsubRadish (w : BitVec 13) (d : VReg) (a : VReg) (b : VReg) (s : State) :
    describe s (.fsubRadish w d a b) = Info.vec 0x61 (some w) true (dab d a b) floatTypes := rfl
theorem describe_fmulRadish (w : BitVec 13) (d : VReg) (a : VReg) (b : VReg) (s : State) :
    describe s (.fmulRadish w d a b) = Info.vec 0x62 (some w) true (dab d a b) floatTypes := rfl
theorem describe_ffmaRadish (w : BitVec 13) (d : VReg) (a : VReg) (b : VReg) (s : State) :
    describe s (.ffmaRadish w d a b) = Info.vec 0x63 (some w) true (dabOld d a b) floatTypes := rfl
theorem describe_fminRadish (w : BitVec 13) (d : VReg) (a : VReg) (b : VReg) (s : State) :
    describe s (.fminRadish w d a b) = Info.vec 0x64 (some w) true (dab d a b) floatTypes := rfl
theorem describe_fmaxRadish (w : BitVec 13) (d : VReg) (a : VReg) (b : VReg) (s : State) :
    describe s (.fmaxRadish w d a b) = Info.vec 0x65 (some w) true (dab d a b) floatTypes := rfl
theorem describe_fabsRadish (w : BitVec 13) (d : VReg) (a : VReg) (s : State) :
    describe s (.fabsRadish w d a) = Info.vec 0x66 (some w) true (da d a) floatTypes := rfl
theorem describe_fnegRadish (w : BitVec 13) (d : VReg) (a : VReg) (s : State) :
    describe s (.fnegRadish w d a) = Info.vec 0x67 (some w) true (da d a) floatTypes := rfl
theorem describe_fcmpRadish (w : BitVec 13) (c : BitVec 3) (p : BitVec 3) (a : VReg) (b : VReg) (s : State) :
    describe s (.fcmpRadish w c p a b) = Info.vec 0x68 (some w) (c.toNat < 7) (ab a b) floatTypes := rfl
theorem describe_fclassRadish (w : BitVec 13) (d : VReg) (a : VReg) (s : State) :
    describe s (.fclassRadish w d a) = Info.vec 0x69 (some w) true (fun ty => [wV d 1, rV a (regsOf ty)]) floatTypes := rfl
theorem describe_fdivRadish (w : BitVec 13) (d : VReg) (a : VReg) (b : VReg) (s : State) :
    describe s (.fdivRadish w d a b) = Info.vec 0x6A (some w) true (dab d a b) floatTypes := rfl
theorem describe_fsqrtRadish (w : BitVec 13) (d : VReg) (a : VReg) (s : State) :
    describe s (.fsqrtRadish w d a) = Info.vec 0x6B (some w) true (da d a) floatTypes := rfl
theorem describe_frndRadish (w : BitVec 13) (d : VReg) (a : VReg) (s : State) :
    describe s (.frndRadish w d a) = Info.vec 0x6C (some w) true (da d a) floatTypes := rfl
theorem describe_fldexpRadish (w : BitVec 13) (d : VReg) (a : VReg) (b : VReg) (s : State) :
    describe s (.fldexpRadish w d a b) = Info.vec 0x6D (some w) true (fun ty => da d a ty ++ [rV b 1]) floatTypes := rfl
theorem describe_fexpoRadish (w : BitVec 13) (d : VReg) (a : VReg) (s : State) :
    describe s (.fexpoRadish w d a) = Info.vec 0x6E (some w) true (fun ty => [wV d 1, rV a (regsOf ty)]) floatTypes := rfl
theorem describe_fsgnjRadish (w : BitVec 13) (d : VReg) (a : VReg) (b : VReg) (s : State) :
    describe s (.fsgnjRadish w d a b) = Info.vec 0x6F (some w) true (dab d a b) floatTypes := rfl
theorem describe_frcpRadish (w : BitVec 13) (d : VReg) (a : VReg) (s : State) :
    describe s (.frcpRadish w d a) = Info.vec 0x70 (some w) true (da d a) sfuTypes := rfl
theorem describe_frsqRadish (w : BitVec 13) (d : VReg) (a : VReg) (s : State) :
    describe s (.frsqRadish w d a) = Info.vec 0x71 (some w) true (da d a) sfuTypes := rfl
theorem describe_fex2Radish (w : BitVec 13) (d : VReg) (a : VReg) (s : State) :
    describe s (.fex2Radish w d a) = Info.vec 0x72 (some w) true (da d a) sfuTypes := rfl
theorem describe_flg2Radish (w : BitVec 13) (d : VReg) (a : VReg) (s : State) :
    describe s (.flg2Radish w d a) = Info.vec 0x73 (some w) true (da d a) sfuTypes := rfl
theorem describe_fsinRadish (w : BitVec 13) (d : VReg) (a : VReg) (s : State) :
    describe s (.fsinRadish w d a) = Info.vec 0x74 (some w) true (da d a) sfuTypes := rfl
theorem describe_fcosRadish (w : BitVec 13) (d : VReg) (a : VReg) (s : State) :
    describe s (.fcosRadish w d a) = Info.vec 0x75 (some w) true (da d a) sfuTypes := rfl
theorem describe_ftanhRadish (w : BitVec 13) (d : VReg) (a : VReg) (s : State) :
    describe s (.ftanhRadish w d a) = Info.vec 0x76 (some w) true (da d a) sfuTypes := rfl
theorem describe_cvtRadish (w : BitVec 13) (d : VReg) (a : VReg) (src : BitVec 4) (s : State) :
    describe s (.cvtRadish w d a src) = Info.vec 0x80 (some w) (src.toNat < 12) (fun ty => [wV d (regsOf ty), rV a (regsOf src.toNat)]) cvtTypes := rfl
theorem describe_cvtiRadish (w : BitVec 13) (d : VReg) (a : VReg) (src : BitVec 4) (s : State) :
    describe s (.cvtiRadish w d a src) = Info.vec 0x81 (some w) ((2 ≤ src.toNat && src.toNat ≤ 5)) (fun ty => [wV d (regsOf ty), rV a (regsOf src.toNat)]) intTypes := rfl
theorem describe_packRadish (w : BitVec 13) (d : VReg) (a : VReg) (b : VReg) (s : State) :
    describe s (.packRadish w d a b) = Info.vec 0x82 (some w) true (packU d a b) packTypes := rfl
theorem describe_unpkRadish (w : BitVec 13) (d : VReg) (a : VReg) (s : State) :
    describe s (.unpkRadish w d a) = Info.vec 0x83 (some w) true (unpkU d a) packTypes := rfl
theorem describe_qhistRadish (w : BitVec 13) (d : VReg) (a : VReg) (b : VReg) (s : State) :
    describe s (.qhistRadish w d a b) = Info.vec 0x84 (some w) true (fun _ => histR d ++ [rV a 1, wV b 1]) quantTypes := rfl
theorem describe_qscaleRadish (w : BitVec 13) (d : VReg) (a : VReg) (b : VReg) (s : State) :
    describe s (.qscaleRadish w d a b) = Info.vec 0x85 (some w) true (fun _ => wV d 1 :: histR a ++ [wV b 1]) quantTypes := rfl
theorem describe_quantRadish (w : BitVec 13) (d : VReg) (a : VReg) (b : VReg) (s : State) :
    describe s (.quantRadish w d a b) = Info.vec 0x86 (some w) true (dab d a b) quantTypes := rfl
theorem describe_deqRadish (w : BitVec 13) (d : VReg) (a : VReg) (b : VReg) (s : State) :
    describe s (.deqRadish w d a b) = Info.vec 0x87 (some w) true (dab d a b) quantTypes := rfl
theorem describe_qclrRadish (w : BitVec 13) (d : VReg) (s : State) :
    describe s (.qclrRadish w d) = Info.vec 0x88 (some w) true (fun _ => histW d) quantTypes := rfl
theorem describe_shflRadish (w : BitVec 13) (d : VReg) (a : VReg) (b : VReg) (s : State) :
    describe s (.shflRadish w d a b) = Info.vec 0x90 (some w) true (fun ty => daMove d a ty ++ [rV b 1]) crossTypes := rfl
theorem describe_shfluRadish (w : BitVec 13) (d : VReg) (a : VReg) (i : RImm) (s : State) :
    describe s (.shfluRadish w d a i) = (Info.vec 0x91 (some w) (rimmOk i) (daMove d a) crossTypes).withImm (.rad i) (below 32) := rfl
theorem describe_shfldRadish (w : BitVec 13) (d : VReg) (a : VReg) (i : RImm) (s : State) :
    describe s (.shfldRadish w d a i) = (Info.vec 0x92 (some w) (rimmOk i) (daMove d a) crossTypes).withImm (.rad i) (below 32) := rfl
theorem describe_shflxRadish (w : BitVec 13) (d : VReg) (a : VReg) (i : RImm) (s : State) :
    describe s (.shflxRadish w d a i) = (Info.vec 0x93 (some w) (rimmOk i) (daMove d a) crossTypes).withImm (.rad i) (below 32) := rfl
theorem describe_voteRadish (w : BitVec 13) (d : SReg) (p : BitVec 3) (i : RImm) (s : State) :
    describe s (.voteRadish w d p i) = (Info.vec 0x94 (some w) (rimmOk i) (fun _ => [wS d 1]) (fun _ => true)).withImm (.rad i) (below 3) := rfl
theorem describe_reduRadish (w : BitVec 13) (d : VReg) (a : VReg) (i : RImm) (s : State) :
    describe s (.reduRadish w d a i) = ((Info.vec 0x95 (some w) (rimmOk i) (da d a) crossTypes).withImm (.rad i) (below 7)).typed redTypes := rfl
theorem describe_scanLanesRadish (w : BitVec 13) (d : VReg) (a : VReg) (i : RImm) (s : State) :
    describe s (.scanLanesRadish w d a i) = ((Info.vec 0x96 (some w) (rimmOk i) (da d a) crossTypes).withImm (.rad i) (below 7)).typed redTypes := rfl
theorem describe_matchLanesRadish (w : BitVec 13) (d : VReg) (a : VReg) (s : State) :
    describe s (.matchLanesRadish w d a) = Info.vec 0x97 (some w) true (fun ty => [wV d 1, rV a (regsOf ty)]) crossTypes := rfl
theorem describe_bcastRadish (w : BitVec 13) (d : VReg) (a : VReg) (i : RImm) (s : State) :
    describe s (.bcastRadish w d a i) = (Info.vec 0x98 (some w) (rimmOk i) (daMove d a) crossTypes).withImm (.rad i) (below 32) := rfl
theorem describe_firstLaneRadish (w : BitVec 13) (d : VReg) (a : VReg) (s : State) :
    describe s (.firstLaneRadish w d a) = Info.vec 0x99 (some w) true (daMove d a) crossTypes := rfl
theorem describe_ldGlobalRadish (w : BitVec 13) (d : VReg) (k : VReg) (sc : BitVec 3) (o : BitVec 2) (b : BitVec 3) (off : RImm) (s : State) :
    describe s (.ldGlobalRadish w d k sc o b off) = (Info.vec 0xA0 (some w) (sc.toNat < 6 && rimmOk off) (memU k b (ldData d)) memTypes).withImm (.rad off) anyImm := rfl
theorem describe_stGlobalRadish (w : BitVec 13) (d : VReg) (k : VReg) (sc : BitVec 3) (o : BitVec 2) (b : BitVec 3) (off : RImm) (s : State) :
    describe s (.stGlobalRadish w d k sc o b off) = (Info.vec 0xA1 (some w) (sc.toNat < 6 && rimmOk off) (memU k b (stData d)) memTypes).withImm (.rad off) anyImm := rfl
theorem describe_ldxRadish (w : BitVec 13) (d : VReg) (k : VReg) (sc : BitVec 3) (o : BitVec 2) (b : BitVec 3) (off : RImm) (s : State) :
    describe s (.ldxRadish w d k sc o b off) = (Info.vec 0xA2 (some w) (sc.toNat < 6 && rimmOk off) (memU k b (ldData d)) extTypes).withImm (.rad off) anyImm := rfl
theorem describe_stxRadish (w : BitVec 13) (d : VReg) (k : VReg) (sc : BitVec 3) (o : BitVec 2) (b : BitVec 3) (off : RImm) (s : State) :
    describe s (.stxRadish w d k sc o b off) = (Info.vec 0xA3 (some w) (sc.toNat < 6 && rimmOk off) (memU k b (stData d)) extTypes).withImm (.rad off) anyImm := rfl
theorem describe_ldsRadish (w : BitVec 13) (d : VReg) (k : VReg) (off : RImm) (s : State) :
    describe s (.ldsRadish w d k off) = (Info.vec 0xA4 (some w) (rimmOk off) (fun ty => wV d (regsOf ty) :: offV k) lsTypes).withImm (.rad off) anyImm := rfl
theorem describe_stsRadish (w : BitVec 13) (d : VReg) (k : VReg) (off : RImm) (s : State) :
    describe s (.stsRadish w d k off) = (Info.vec 0xA5 (some w) (rimmOk off) (fun ty => rV d (regsOf ty) :: offV k) lsTypes).withImm (.rad off) anyImm := rfl
theorem describe_ldpRadish (w : BitVec 13) (d : VReg) (k : VReg) (off : RImm) (s : State) :
    describe s (.ldpRadish w d k off) = (Info.vec 0xA6 (some w) (rimmOk off) (fun ty => wV d (regsOf ty) :: offV k) lsTypes).withImm (.rad off) anyImm := rfl
theorem describe_stpRadish (w : BitVec 13) (d : VReg) (k : VReg) (off : RImm) (s : State) :
    describe s (.stpRadish w d k off) = (Info.vec 0xA7 (some w) (rimmOk off) (fun ty => rV d (regsOf ty) :: offV k) lsTypes).withImm (.rad off) anyImm := rfl
theorem describe_stnRadish (w : BitVec 13) (d : VReg) (k : VReg) (sc : BitVec 3) (o : BitVec 2) (b : BitVec 3) (off : RImm) (s : State) :
    describe s (.stnRadish w d k sc o b off) = (Info.vec 0xA8 (some w) (sc.toNat < 6 && rimmOk off) (memU k b (stData d)) memTypes).withImm (.rad off) anyImm := rfl
theorem describe_srsetRadish (w : BitVec 13) (k : SReg) (s : State) :
    describe s (.srsetRadish w k) = Info.plain 0xA9 (some w) true [rS k 1] := rfl
theorem describe_ataddRadish (w : BitVec 13) (d : VReg) (k : VReg) (sc : BitVec 3) (o : BitVec 2) (b : BitVec 3) (off : RImm) (s : State) :
    describe s (.ataddRadish w d k sc o b off) = (Info.vec 0xAA (some w) (sc.toNat < 6 && rimmOk off) (memU k b (stData d)) addTypes).withImm (.rad off) anyImm := rfl
theorem describe_atminRadish (w : BitVec 13) (d : VReg) (k : VReg) (sc : BitVec 3) (o : BitVec 2) (b : BitVec 3) (off : RImm) (s : State) :
    describe s (.atminRadish w d k sc o b off) = (Info.vec 0xAB (some w) (sc.toNat < 6 && rimmOk off) (memU k b (stData d)) minTypes).withImm (.rad off) anyImm := rfl
theorem describe_atmaxRadish (w : BitVec 13) (d : VReg) (k : VReg) (sc : BitVec 3) (o : BitVec 2) (b : BitVec 3) (off : RImm) (s : State) :
    describe s (.atmaxRadish w d k sc o b off) = (Info.vec 0xAC (some w) (sc.toNat < 6 && rimmOk off) (memU k b (stData d)) minTypes).withImm (.rad off) anyImm := rfl
theorem describe_atandRadish (w : BitVec 13) (d : VReg) (k : VReg) (sc : BitVec 3) (o : BitVec 2) (b : BitVec 3) (off : RImm) (s : State) :
    describe s (.atandRadish w d k sc o b off) = (Info.vec 0xAD (some w) (sc.toNat < 6 && rimmOk off) (memU k b (stData d)) logicTypes).withImm (.rad off) anyImm := rfl
theorem describe_atorRadish (w : BitVec 13) (d : VReg) (k : VReg) (sc : BitVec 3) (o : BitVec 2) (b : BitVec 3) (off : RImm) (s : State) :
    describe s (.atorRadish w d k sc o b off) = (Info.vec 0xAE (some w) (sc.toNat < 6 && rimmOk off) (memU k b (stData d)) logicTypes).withImm (.rad off) anyImm := rfl
theorem describe_atxorRadish (w : BitVec 13) (d : VReg) (k : VReg) (sc : BitVec 3) (o : BitVec 2) (b : BitVec 3) (off : RImm) (s : State) :
    describe s (.atxorRadish w d k sc o b off) = (Info.vec 0xAF (some w) (sc.toNat < 6 && rimmOk off) (memU k b (stData d)) logicTypes).withImm (.rad off) anyImm := rfl
theorem describe_atxchRadish (w : BitVec 13) (d : VReg) (k : VReg) (sc : BitVec 3) (o : BitVec 2) (b : BitVec 3) (off : RImm) (s : State) :
    describe s (.atxchRadish w d k sc o b off) = (Info.vec 0xB0 (some w) (sc.toNat < 6 && rimmOk off) (memU k b (stData d)) xchTypes).withImm (.rad off) anyImm := rfl
theorem describe_atcasRadish (w : BitVec 13) (d : VReg) (k : VReg) (sc : BitVec 3) (o : BitVec 2) (b : BitVec 3) (off : RImm) (s : State) :
    describe s (.atcasRadish w d k sc o b off) = (Info.vec 0xB1 (some w) (evenReg d.toNat && sc.toNat < 6 && rimmOk off) (memU k b (casData d)) xchTypes).withImm (.rad off) anyImm := rfl
theorem describe_redaddRadish (w : BitVec 13) (d : VReg) (k : VReg) (sc : BitVec 3) (o : BitVec 2) (b : BitVec 3) (off : RImm) (s : State) :
    describe s (.redaddRadish w d k sc o b off) = (Info.vec 0xB2 (some w) (sc.toNat < 6 && rimmOk off) (memU k b (stData d)) addTypes).withImm (.rad off) anyImm := rfl
theorem describe_redminRadish (w : BitVec 13) (d : VReg) (k : VReg) (sc : BitVec 3) (o : BitVec 2) (b : BitVec 3) (off : RImm) (s : State) :
    describe s (.redminRadish w d k sc o b off) = (Info.vec 0xB3 (some w) (sc.toNat < 6 && rimmOk off) (memU k b (stData d)) minTypes).withImm (.rad off) anyImm := rfl
theorem describe_redmaxRadish (w : BitVec 13) (d : VReg) (k : VReg) (sc : BitVec 3) (o : BitVec 2) (b : BitVec 3) (off : RImm) (s : State) :
    describe s (.redmaxRadish w d k sc o b off) = (Info.vec 0xB4 (some w) (sc.toNat < 6 && rimmOk off) (memU k b (stData d)) minTypes).withImm (.rad off) anyImm := rfl
theorem describe_fenceRadish (w : BitVec 13) (sc : BitVec 3) (o : BitVec 2) (seq : Bool) (s : State) :
    describe s (.fenceRadish w sc o seq) = Info.plain 0xB5 (some w) (sc.toNat < 6 && (!seq || o == 3)) [] := rfl
theorem describe_ofenceRadish (w : BitVec 13) (sc : BitVec 3) (o : BitVec 2) (b : BitVec 3) (s : State) :
    describe s (.ofenceRadish w sc o b) = Info.plain 0xB6 (some w) (sc.toNat < 6) [rP b] := rfl
theorem describe_rflushRadish (w : BitVec 13) (n : SReg) (b : BitVec 3) (off : RImm) (s : State) :
    describe s (.rflushRadish w n b off) = (Info.plain 0xB7 (some w) (rimmOk off) [rS n 1, rP b]).withImm (.rad off) anyImm := rfl
theorem describe_rinvRadish (w : BitVec 13) (n : SReg) (b : BitVec 3) (off : RImm) (s : State) :
    describe s (.rinvRadish w n b off) = (Info.plain 0xB8 (some w) (rimmOk off) [rS n 1, rP b]).withImm (.rad off) anyImm := rfl
theorem describe_pfetchRadish (w : BitVec 13) (k : VReg) (b : BitVec 3) (off : RImm) (s : State) :
    describe s (.pfetchRadish w k b off) = (Info.plain 0xB9 (some w) (rimmOk off) (rP b :: offV k)).withImm (.rad off) anyImm := rfl
theorem describe_locateRadish (w : BitVec 13) (k : VReg) (b : BitVec 3) (off : RImm) (s : State) :
    describe s (.locateRadish w k b off) = (Info.plain 0xBA (some w) (rimmOk off) (rP b :: offV k)).withImm (.rad off) anyImm := rfl
theorem describe_reparkRadish (w : BitVec 13) (n : SReg) (b : BitVec 3) (off : RImm) (s : State) :
    describe s (.reparkRadish w n b off) = (Info.plain 0xBB (some w) (rimmOk off) [rS n 1, rP b]).withImm (.rad off) anyImm := rfl
theorem describe_unparkRadish (w : BitVec 13) (n : SReg) (b : BitVec 3) (off : RImm) (s : State) :
    describe s (.unparkRadish w n b off) = (Info.plain 0xBC (some w) (rimmOk off) [rS n 1, rP b]).withImm (.rad off) anyImm := rfl
theorem describe_objdefRadish (w : BitVec 13) (n : SReg) (b : BitVec 3) (s : State) :
    describe s (.objdefRadish w n b) = Info.plain 0xBD (some w) true [wS n 1, rP b] := rfl
theorem describe_objdelRadish (w : BitVec 13) (n : SReg) (s : State) :
    describe s (.objdelRadish w n) = Info.plain 0xBE (some w) true [rS n 1] := rfl
theorem describe_pcommitRadish (w : BitVec 13) (n : SReg) (b : BitVec 3) (off : RImm) (s : State) :
    describe s (.pcommitRadish w n b off) = (Info.plain 0xC0 (some w) (rimmOk off) [rS n 1, rP b]).withImm (.rad off) anyImm := rfl
theorem describe_pdecommitRadish (w : BitVec 13) (n : SReg) (b : BitVec 3) (off : RImm) (s : State) :
    describe s (.pdecommitRadish w n b off) = (Info.plain 0xC1 (some w) (rimmOk off) [rS n 1, rP b]).withImm (.rad off) anyImm := rfl
theorem describe_allocBlockRadish (w : BitVec 13) (n : SReg) (s : State) :
    describe s (.allocBlockRadish w n) = Info.plain 0xC2 (some w) (evenReg n.toNat) [rS n 1, wS n 2] := rfl
theorem describe_freeBlockRadish (w : BitVec 13) (n : SReg) (s : State) :
    describe s (.freeBlockRadish w n) = Info.plain 0xC3 (some w) (evenReg n.toNat) [rS n 2] := rfl
theorem describe_pqueryRadish (w : BitVec 13) (n : SReg) (b : BitVec 3) (off : RImm) (s : State) :
    describe s (.pqueryRadish w n b off) = (Info.plain 0xC4 (some w) (rimmOk off) [wS n 1, rP b]).withImm (.rad off) anyImm := rfl
theorem describe_tcopyRadish (w : BitVec 13) (d : SReg) (a : SReg) (b : SReg) (s : State) :
    describe s (.tcopyRadish w d a b) = Info.plain 0xC8 (some w) (evenReg b.toNat) (wS d 1 :: rS b 2 :: blockU a) := rfl
theorem describe_tcopymRadish (w : BitVec 13) (d : SReg) (a : SReg) (b : SReg) (s : State) :
    describe s (.tcopymRadish w d a b) = Info.plain 0xC9 (some w) (evenReg b.toNat) (wS d 1 :: rS b 2 :: blockU a) := rfl
theorem describe_chainRadish (w : BitVec 13) (d : SReg) (a : SReg) (s : State) :
    describe s (.chainRadish w d a) = Info.plain 0xCA (some w) true [wS d 1, rS a 1] := rfl
theorem describe_bbinitRadish (w : BitVec 13) (a : SReg) (b : SReg) (s : State) :
    describe s (.bbinitRadish w a b) = Info.plain 0xCB (some w) true [rS a 1, rS b 1] := rfl
theorem describe_bbexpRadish (w : BitVec 13) (a : SReg) (b : SReg) (s : State) :
    describe s (.bbexpRadish w a b) = Info.plain 0xCC (some w) true [rS a 1, rS b 1] := rfl
theorem describe_bbwaitRadish (w : BitVec 13) (d : SReg) (a : SReg) (s : State) :
    describe s (.bbwaitRadish w d a) = Info.plain 0xCD (some w) true [wS d 1, rS a 1] := rfl
theorem describe_bbinvRadish (w : BitVec 13) (a : SReg) (s : State) :
    describe s (.bbinvRadish w a) = Info.plain 0xCE (some w) true [rS a 1] := rfl
theorem describe_bbarrRadish (w : BitVec 13) (a : SReg) (b : SReg) (s : State) :
    describe s (.bbarrRadish w a b) = Info.plain 0xCF (some w) true [rS a 1, rS b 1] := rfl
theorem describe_rinitRadish (w : BitVec 13) (a : SReg) (s : State) :
    describe s (.rinitRadish w a) = Info.plain 0xD0 (some w) true [rS a 1] := rfl
theorem describe_racqRadish (w : BitVec 13) (d : SReg) (a : SReg) (s : State) :
    describe s (.racqRadish w d a) = Info.plain 0xD1 (some w) true [wS d 1, rS a 1] := rfl
theorem describe_rpubRadish (w : BitVec 13) (d : SReg) (a : SReg) (b : SReg) (s : State) :
    describe s (.rpubRadish w d a b) = Info.plain 0xD2 (some w) true [rS d 1, rS a 1, rS b 1] := rfl
theorem describe_rtakeRadish (w : BitVec 13) (d : SReg) (a : SReg) (s : State) :
    describe s (.rtakeRadish w d a) = Info.plain 0xD3 (some w) true [wS d 1, rS a 1] := rfl
theorem describe_rdoneRadish (w : BitVec 13) (a : SReg) (b : SReg) (s : State) :
    describe s (.rdoneRadish w a b) = Info.plain 0xD4 (some w) true [rS a 1, rS b 1] := rfl
theorem describe_rcloseRadish (w : BitVec 13) (a : SReg) (s : State) :
    describe s (.rcloseRadish w a) = Info.plain 0xD5 (some w) true [rS a 1] := rfl
theorem describe_spushRadish (w : BitVec 13) (a : SReg) (b : SReg) (s : State) :
    describe s (.spushRadish w a b) = Info.plain 0xD6 (some w) true [rS a 1, rS b 1] := rfl

end Sys2Proof.Machine
end

