-- ==== Sys2Proof/Laws/Dispatch.lean ====
section
/-! SUPPORT. For every constructor, what `exec` is: the issue of its body under the checks that `describe` gives, or the step of
the device. One equation each, so that no proof opens the dispatch. -/
set_option linter.all false
namespace Sys2Proof.Machine

theorem exec_nop (s : State) :
    exec (.nop) s = issueBoth s (describe s (.nop)) true (nopB) (strNopB) := rfl
theorem exec_setm (m : BitVec 13) (s : State) :
    exec (.setm m) s = issue s (describe s (.setm m)) (setmB m) := rfl
theorem exec_setms (k : SReg) (s : State) :
    exec (.setms k) s = issue s (describe s (.setms k)) (setmsB k) := rfl
theorem exec_getm (k : SReg) (s : State) :
    exec (.getm k) s = issue s (describe s (.getm k)) (getmB k) := rfl
theorem exec_bra (h : BitVec 2) (off : BitVec 22) (s : State) :
    exec (.bra h off) s = issue s (describe s (.bra h off)) (braB) := rfl
theorem exec_brd (h : BitVec 2) (p : BitVec 3) (inv : Bool) (off : BitVec 18) (s : State) :
    exec (.brd h p inv off) s = issue s (describe s (.brd h p inv off)) (brdB p inv) := rfl
theorem exec_brx (h : BitVec 2) (v : VReg) (tbl : List (BitVec 32)) (s : State) :
    exec (.brx h v tbl) s = issue s (describe s (.brx h v tbl)) (brxB v (tbl.map fun o => o.signExtend 64)) := rfl
theorem exec_callAddr (b : BitVec 3) (off : BitVec 21) (s : State) :
    exec (.callAddr b off) s = issue s (describe s (.callAddr b off)) (callB b) := rfl
theorem exec_ret (b : BitVec 3) (s : State) :
    exec (.ret b) s = issue s (describe s (.ret b)) (retB b) := rfl
theorem exec_markJoin (off : BitVec 22) (s : State) :
    exec (.markJoin off) s = issue s (describe s (.markJoin off)) (markB) := rfl
theorem exec_joinFrags (s : State) :
    exec (.joinFrags) s = issue s (describe s (.joinFrags)) (joinB) := rfl
theorem exec_ppush (p : BitVec 3) (s : State) :
    exec (.ppush p) s = issue s (describe s (.ppush p)) (ppushB p) := rfl
theorem exec_pinv (s : State) :
    exec (.pinv) s = issue s (describe s (.pinv)) (pinvB) := rfl
theorem exec_ppop (s : State) :
    exec (.ppop) s = issue s (describe s (.ppop)) (ppopB) := rfl
theorem exec_emrd (k : SReg) (s : State) :
    exec (.emrd k) s = issue s (describe s (.emrd k)) (emrdB k) := rfl
theorem exec_emwr (k : SReg) (s : State) :
    exec (.emwr k) s = issue s (describe s (.emwr k)) (emwrB k) := rfl
theorem exec_waitc (a : BitVec 6) (b : BitVec 6) (c : BitVec 4) (d : BitVec 4) (s : State) :
    exec (.waitc a b c d) s = issue s (describe s (.waitc a b c d)) (waitcB a b c d) := rfl
theorem exec_cbatch (s : State) :
    exec (.cbatch) s = issue s (describe s (.cbatch)) (cbatchB) := rfl
theorem exec_waitb (n : BitVec 16) (s : State) :
    exec (.waitb n) s = issue s (describe s (.waitb n)) (waitbB n) := rfl
theorem exec_bar (c : BitVec 2) (i : BitVec 4) (s : State) :
    exec (.bar c i) s = issueBoth s (describe s (.bar c i)) (barOk c i) (barB c i) (strBarB c i) := rfl
theorem exec_bara (c : BitVec 2) (i : BitVec 4) (s : State) :
    exec (.bara c i) s = issue s (describe s (.bara c i)) (baraB c i) := rfl
theorem exec_barw (c : BitVec 2) (i : BitVec 4) (s : State) :
    exec (.barw c i) s = issue s (describe s (.barw c i)) (barwB c i) := rfl
theorem exec_drain (c : BitVec 2) (i : BitVec 4) (s : State) :
    exec (.drain c i) s = issue s (describe s (.drain c i)) (drainB c i) := rfl
theorem exec_eqp (n : BitVec 16) (s : State) :
    exec (.eqp n) s = issue s (describe s (.eqp n)) (eqpB n) := rfl
theorem exec_migrTeam (cls : Bool) (n : BitVec 16) (s : State) :
    exec (.migrTeam cls n) s = issue s (describe s (.migrTeam cls n)) (migrB cls n) := rfl
theorem exec_rolesw (i : BitVec 3) (s : State) :
    exec (.rolesw i) s = issue s (describe s (.rolesw i)) (roleswB i) := rfl
theorem exec_yieldIssue (s : State) :
    exec (.yieldIssue) s = issue s (describe s (.yieldIssue)) (yieldB) := rfl
theorem exec_exitFrag (s : State) :
    exec (.exitFrag) s = issueBoth s (describe s (.exitFrag)) true (exitB) (strExitB) := rfl
theorem exec_trapCode (c : BitVec 16) (s : State) :
    exec (.trapCode c) s = issue s (describe s (.trapCode c)) (trapB c) := rfl
theorem exec_xret (skip : Bool) (s : State) :
    exec (.xret skip) s = issue s (describe s (.xret skip)) (xretB skip) := rfl
theorem exec_xrd (k : SReg) (i : BitVec 8) (s : State) :
    exec (.xrd k i) s = issue s (describe s (.xrd k i)) (xrdB k i) := rfl
theorem exec_xwr (k : SReg) (i : BitVec 8) (s : State) :
    exec (.xwr k i) s = issue s (describe s (.xwr k i)) (xwrB k i) := rfl
theorem exec_sread (k : SReg) (i : BitVec 8) (s : State) :
    exec (.sread k i) s = issue s (describe s (.sread k i)) (sreadB k i) := rfl
theorem exec_launchQueue (b : BitVec 3) (s : State) :
    exec (.launchQueue b) s = issue s (describe s (.launchQueue b)) (launchB b) := rfl
theorem exec_ifence (s : State) :
    exec (.ifence) s = issue s (describe s (.ifence)) (ifenceB) := rfl
theorem exec_cpref (l : BitVec 2) (off : BitVec 22) (s : State) :
    exec (.cpref l off) s = issue s (describe s (.cpref l off)) (cprefB) := rfl
theorem exec_snooze (n : BitVec 16) (s : State) :
    exec (.snooze n) s = issue s (describe s (.snooze n)) (snoozeB n) := rfl
theorem exec_loopCount (k : SReg) (off : BitVec 18) (s : State) :
    exec (.loopCount k off) s = issue s (describe s (.loopCount k off)) (loopB k) := rfl
theorem exec_iadd (d : VReg) (a : VReg) (b : VReg) (s : State) :
    exec (.iadd d a b) s = issue s (describe s (.iadd d a b)) (intB iaddOp d.toNat a.toNat b.toNat) := rfl
theorem exec_isub (d : VReg) (a : VReg) (b : VReg) (s : State) :
    exec (.isub d a b) s = issue s (describe s (.isub d a b)) (intB isubOp d.toNat a.toNat b.toNat) := rfl
theorem exec_imul (d : VReg) (a : VReg) (b : VReg) (s : State) :
    exec (.imul d a b) s = issue s (describe s (.imul d a b)) (intB imulOp d.toNat a.toNat b.toNat) := rfl
theorem exec_imulh (d : VReg) (a : VReg) (b : VReg) (s : State) :
    exec (.imulh d a b) s = issue s (describe s (.imulh d a b)) (intB imulhOp d.toNat a.toNat b.toNat) := rfl
theorem exec_imad (d : VReg) (a : VReg) (b : VReg) (s : State) :
    exec (.imad d a b) s = issue s (describe s (.imad d a b)) (intB imadOp d.toNat a.toNat b.toNat) := rfl
theorem exec_idiv (d : VReg) (a : VReg) (b : VReg) (s : State) :
    exec (.idiv d a b) s = issue s (describe s (.idiv d a b)) (intB idivOp d.toNat a.toNat b.toNat) := rfl
theorem exec_irem (d : VReg) (a : VReg) (b : VReg) (s : State) :
    exec (.irem d a b) s = issue s (describe s (.irem d a b)) (intB iremOp d.toNat a.toNat b.toNat) := rfl
theorem exec_imin (d : VReg) (a : VReg) (b : VReg) (s : State) :
    exec (.imin d a b) s = issue s (describe s (.imin d a b)) (intB iminOp d.toNat a.toNat b.toNat) := rfl
theorem exec_imax (d : VReg) (a : VReg) (b : VReg) (s : State) :
    exec (.imax d a b) s = issue s (describe s (.imax d a b)) (intB imaxOp d.toNat a.toNat b.toNat) := rfl
theorem exec_iabs (d : VReg) (a : VReg) (s : State) :
    exec (.iabs d a) s = issue s (describe s (.iabs d a)) (intB iabsOp d.toNat a.toNat a.toNat) := rfl
theorem exec_ineg (d : VReg) (a : VReg) (s : State) :
    exec (.ineg d a) s = issue s (describe s (.ineg d a)) (intB inegOp d.toNat a.toNat a.toNat) := rfl
theorem exec_iaddc (d : VReg) (a : VReg) (b : VReg) (s : State) :
    exec (.iaddc d a b) s = issue s (describe s (.iaddc d a b)) (iaddcB d.toNat a.toNat b.toNat) := rfl
theorem exec_icmp (c : BitVec 3) (p : BitVec 3) (a : VReg) (b : VReg) (s : State) :
    exec (.icmp c p a b) s = issue s (describe s (.icmp c p a b)) (icmpB c p a.toNat b.toNat) := rfl
theorem exec_selLane (d : VReg) (a : VReg) (b : VReg) (s : State) :
    exec (.selLane d a b) s = issue s (describe s (.selLane d a b)) (selB d.toNat a.toNat b.toNat) := rfl
theorem exec_andBits (d : VReg) (a : VReg) (b : VReg) (s : State) :
    exec (.andBits d a b) s = issue s (describe s (.andBits d a b)) (intB andOp d.toNat a.toNat b.toNat) := rfl
theorem exec_orBits (d : VReg) (a : VReg) (b : VReg) (s : State) :
    exec (.orBits d a b) s = issue s (describe s (.orBits d a b)) (intB orOp d.toNat a.toNat b.toNat) := rfl
theorem exec_xorBits (d : VReg) (a : VReg) (b : VReg) (s : State) :
    exec (.xorBits d a b) s = issue s (describe s (.xorBits d a b)) (intB xorOp d.toNat a.toNat b.toNat) := rfl
theorem exec_notBits (d : VReg) (a : VReg) (s : State) :
    exec (.notBits d a) s = issue s (describe s (.notBits d a)) (intB notOp d.toNat a.toNat a.toNat) := rfl
theorem exec_shl (d : VReg) (a : VReg) (b : VReg) (s : State) :
    exec (.shl d a b) s = issue s (describe s (.shl d a b)) (intB shlOp d.toNat a.toNat b.toNat) := rfl
theorem exec_shr (d : VReg) (a : VReg) (b : VReg) (s : State) :
    exec (.shr d a b) s = issue s (describe s (.shr d a b)) (intB shrOp d.toNat a.toNat b.toNat) := rfl
theorem exec_sar (d : VReg) (a : VReg) (b : VReg) (s : State) :
    exec (.sar d a b) s = issue s (describe s (.sar d a b)) (intB sarOp d.toNat a.toNat b.toNat) := rfl
theorem exec_rotl (d : VReg) (a : VReg) (b : VReg) (s : State) :
    exec (.rotl d a b) s = issue s (describe s (.rotl d a b)) (intB rotlOp d.toNat a.toNat b.toNat) := rfl
theorem exec_popc (d : VReg) (a : VReg) (s : State) :
    exec (.popc d a) s = issue s (describe s (.popc d a)) (intB popcOp d.toNat a.toNat a.toNat) := rfl
theorem exec_clz (d : VReg) (a : VReg) (s : State) :
    exec (.clz d a) s = issue s (describe s (.clz d a)) (intB clzOp d.toNat a.toNat a.toNat) := rfl
theorem exec_ctz (d : VReg) (a : VReg) (s : State) :
    exec (.ctz d a) s = issue s (describe s (.ctz d a)) (intB ctzOp d.toNat a.toNat a.toNat) := rfl
theorem exec_brev (d : VReg) (a : VReg) (s : State) :
    exec (.brev d a) s = issue s (describe s (.brev d a)) (intB brevOp d.toNat a.toNat a.toNat) := rfl
theorem exec_bfe (d : VReg) (a : VReg) (b : VReg) (s : State) :
    exec (.bfe d a b) s = issue s (describe s (.bfe d a b)) (fieldB bfeOp d.toNat a.toNat b.toNat) := rfl
theorem exec_bfi (d : VReg) (a : VReg) (b : VReg) (s : State) :
    exec (.bfi d a b) s = issue s (describe s (.bfi d a b)) (fieldB bfiOp d.toNat a.toNat b.toNat) := rfl
theorem exec_movLane (d : VReg) (a : VReg) (s : State) :
    exec (.movLane d a) s = issue s (describe s (.movLane d a)) (intB movOp d.toNat a.toNat a.toNat) := rfl
theorem exec_movi (d : VReg) (i : BitVec 8) (s : State) :
    exec (.movi d i) s = issue s (describe s (.movi d i)) (moviB d.toNat) := rfl
theorem exec_lea (d : VReg) (k : VReg) (b : BitVec 3) (s : State) :
    exec (.lea d k b) s = issue s (describe s (.lea d k b)) (leaB d.toNat k b) := rfl
theorem exec_iaddi (d : VReg) (a : VReg) (i : BitVec 8) (s : State) :
    exec (.iaddi d a i) s = issue s (describe s (.iaddi d a i)) (iaddiB d.toNat a.toNat) := rfl
theorem exec_sadd (d : SReg) (a : SReg) (b : SReg) (s : State) :
    exec (.sadd d a b) s = issue s (describe s (.sadd d a b)) (scalB (· + ·) d a b) := rfl
theorem exec_ssub (d : SReg) (a : SReg) (b : SReg) (s : State) :
    exec (.ssub d a b) s = issue s (describe s (.ssub d a b)) (scalB (· - ·) d a b) := rfl
theorem exec_smul (d : SReg) (a : SReg) (b : SReg) (s : State) :
    exec (.smul d a b) s = issue s (describe s (.smul d a b)) (scalB (· * ·) d a b) := rfl
theorem exec_sand (d : SReg) (a : SReg) (b : SReg) (s : State) :
    exec (.sand d a b) s = issue s (describe s (.sand d a b)) (scalB (· &&& ·) d a b) := rfl
theorem exec_sor (d : SReg) (a : SReg) (b : SReg) (s : State) :
    exec (.sor d a b) s = issue s (describe s (.sor d a b)) (scalB (· ||| ·) d a b) := rfl
theorem exec_sxor (d : SReg) (a : SReg) (b : SReg) (s : State) :
    exec (.sxor d a b) s = issue s (describe s (.sxor d a b)) (scalB (· ^^^ ·) d a b) := rfl
theorem exec_sshl (d : SReg) (a : SReg) (b : SReg) (s : State) :
    exec (.sshl d a b) s = issue s (describe s (.sshl d a b)) (scalB sshlOp d a b) := rfl
theorem exec_sshr (d : SReg) (a : SReg) (b : SReg) (s : State) :
    exec (.sshr d a b) s = issue s (describe s (.sshr d a b)) (scalB sshrOp d a b) := rfl
theorem exec_scmp (c : BitVec 3) (p : BitVec 3) (a : SReg) (b : SReg) (s : State) :
    exec (.scmp c p a b) s = issue s (describe s (.scmp c p a b)) (scmpB c p a b) := rfl
theorem exec_smov (d : SReg) (a : SReg) (s : State) :
    exec (.smov d a) s = issue s (describe s (.smov d a)) (smovB d a) := rfl
theorem exec_smovi (d : SReg) (i : BitVec 8) (s : State) :
    exec (.smovi d i) s = issue s (describe s (.smovi d i)) (smoviB s.wideLit d) := rfl
theorem exec_slea (d : SReg) (b : BitVec 3) (s : State) :
    exec (.slea d b) s = issue s (describe s (.slea d b)) (sleaB d b) := rfl
theorem exec_vtos (d : SReg) (a : VReg) (s : State) :
    exec (.vtos d a) s = issue s (describe s (.vtos d a)) (vtosB d a.toNat) := rfl
theorem exec_stov (d : VReg) (a : SReg) (s : State) :
    exec (.stov d a) s = issue s (describe s (.stov d a)) (stovB d.toNat a) := rfl
theorem exec_smin (d : SReg) (a : SReg) (b : SReg) (s : State) :
    exec (.smin d a b) s = issue s (describe s (.smin d a b)) (scalB sminOp d a b) := rfl
theorem exec_smax (d : SReg) (a : SReg) (b : SReg) (s : State) :
    exec (.smax d a b) s = issue s (describe s (.smax d a b)) (scalB smaxOp d a b) := rfl
theorem exec_fadd (d : VReg) (a : VReg) (b : VReg) (s : State) :
    exec (.fadd d a b) s = issue s (describe s (.fadd d a b)) (floatB faddOp d.toNat a.toNat b.toNat) := rfl
theorem exec_fsub (d : VReg) (a : VReg) (b : VReg) (s : State) :
    exec (.fsub d a b) s = issue s (describe s (.fsub d a b)) (floatB fsubOp d.toNat a.toNat b.toNat) := rfl
theorem exec_fmul (d : VReg) (a : VReg) (b : VReg) (s : State) :
    exec (.fmul d a b) s = issue s (describe s (.fmul d a b)) (floatB fmulOp d.toNat a.toNat b.toNat) := rfl
theorem exec_ffma (d : VReg) (a : VReg) (b : VReg) (s : State) :
    exec (.ffma d a b) s = issue s (describe s (.ffma d a b)) (floatB ffmaOp d.toNat a.toNat b.toNat) := rfl
theorem exec_fmin (d : VReg) (a : VReg) (b : VReg) (s : State) :
    exec (.fmin d a b) s = issue s (describe s (.fmin d a b)) (floatB fminOp d.toNat a.toNat b.toNat) := rfl
theorem exec_fmax (d : VReg) (a : VReg) (b : VReg) (s : State) :
    exec (.fmax d a b) s = issue s (describe s (.fmax d a b)) (floatB fmaxOp d.toNat a.toNat b.toNat) := rfl
theorem exec_fabs (d : VReg) (a : VReg) (s : State) :
    exec (.fabs d a) s = issue s (describe s (.fabs d a)) (fsignB 0 d.toNat a.toNat a.toNat) := rfl
theorem exec_fneg (d : VReg) (a : VReg) (s : State) :
    exec (.fneg d a) s = issue s (describe s (.fneg d a)) (fsignB 1 d.toNat a.toNat a.toNat) := rfl
theorem exec_fcmp (c : BitVec 3) (p : BitVec 3) (a : VReg) (b : VReg) (s : State) :
    exec (.fcmp c p a b) s = issue s (describe s (.fcmp c p a b)) (fcmpB c p a.toNat b.toNat) := rfl
theorem exec_fclass (d : VReg) (a : VReg) (s : State) :
    exec (.fclass d a) s = issue s (describe s (.fclass d a)) (fclassB d.toNat a.toNat) := rfl
theorem exec_fdiv (d : VReg) (a : VReg) (b : VReg) (s : State) :
    exec (.fdiv d a b) s = issue s (describe s (.fdiv d a b)) (floatB fdivOp d.toNat a.toNat b.toNat) := rfl
theorem exec_fsqrt (d : VReg) (a : VReg) (s : State) :
    exec (.fsqrt d a) s = issue s (describe s (.fsqrt d a)) (floatB fsqrtOp d.toNat a.toNat a.toNat) := rfl
theorem exec_frnd (d : VReg) (a : VReg) (s : State) :
    exec (.frnd d a) s = issue s (describe s (.frnd d a)) (floatB frndOp d.toNat a.toNat a.toNat) := rfl
theorem exec_fldexp (d : VReg) (a : VReg) (b : VReg) (s : State) :
    exec (.fldexp d a b) s = issue s (describe s (.fldexp d a b)) (fldexpB d.toNat a.toNat b.toNat) := rfl
theorem exec_fexpo (d : VReg) (a : VReg) (s : State) :
    exec (.fexpo d a) s = issue s (describe s (.fexpo d a)) (fexpoB d.toNat a.toNat) := rfl
theorem exec_fsgnj (d : VReg) (a : VReg) (b : VReg) (s : State) :
    exec (.fsgnj d a b) s = issue s (describe s (.fsgnj d a b)) (fsignB 2 d.toNat a.toNat b.toNat) := rfl
theorem exec_frcp (d : VReg) (a : VReg) (s : State) :
    exec (.frcp d a) s = issue s (describe s (.frcp d a)) (sfuB 0 d.toNat a.toNat) := rfl
theorem exec_frsq (d : VReg) (a : VReg) (s : State) :
    exec (.frsq d a) s = issue s (describe s (.frsq d a)) (sfuB 1 d.toNat a.toNat) := rfl
theorem exec_fex2 (d : VReg) (a : VReg) (s : State) :
    exec (.fex2 d a) s = issue s (describe s (.fex2 d a)) (sfuB 2 d.toNat a.toNat) := rfl
theorem exec_flg2 (d : VReg) (a : VReg) (s : State) :
    exec (.flg2 d a) s = issue s (describe s (.flg2 d a)) (sfuB 3 d.toNat a.toNat) := rfl
theorem exec_fsin (d : VReg) (a : VReg) (s : State) :
    exec (.fsin d a) s = issue s (describe s (.fsin d a)) (sfuB 4 d.toNat a.toNat) := rfl
theorem exec_fcos (d : VReg) (a : VReg) (s : State) :
    exec (.fcos d a) s = issue s (describe s (.fcos d a)) (sfuB 5 d.toNat a.toNat) := rfl
theorem exec_ftanh (d : VReg) (a : VReg) (s : State) :
    exec (.ftanh d a) s = issue s (describe s (.ftanh d a)) (sfuB 6 d.toNat a.toNat) := rfl
theorem exec_cvt (d : VReg) (a : VReg) (src : BitVec 4) (s : State) :
    exec (.cvt d a src) s = issue s (describe s (.cvt d a src)) (cvtB src.toNat d.toNat a.toNat) := rfl
theorem exec_cvti (d : VReg) (a : VReg) (src : BitVec 4) (s : State) :
    exec (.cvti d a src) s = issue s (describe s (.cvti d a src)) (cvtiB src.toNat d.toNat a.toNat) := rfl
theorem exec_pack (d : VReg) (a : VReg) (b : VReg) (s : State) :
    exec (.pack d a b) s = issue s (describe s (.pack d a b)) (packB d.toNat a.toNat b.toNat) := rfl
theorem exec_unpk (d : VReg) (a : VReg) (s : State) :
    exec (.unpk d a) s = issue s (describe s (.unpk d a)) (unpkB d.toNat a.toNat) := rfl
theorem exec_qhist (d : VReg) (a : VReg) (b : VReg) (s : State) :
    exec (.qhist d a b) s = issue s (describe s (.qhist d a b)) (qhistB d.toNat a.toNat b.toNat) := rfl
theorem exec_qscale (d : VReg) (a : VReg) (b : VReg) (s : State) :
    exec (.qscale d a b) s = issue s (describe s (.qscale d a b)) (qscaleB d.toNat a.toNat b.toNat) := rfl
theorem exec_quant (d : VReg) (a : VReg) (b : VReg) (s : State) :
    exec (.quant d a b) s = issue s (describe s (.quant d a b)) (quantB d.toNat a.toNat b.toNat) := rfl
theorem exec_deq (d : VReg) (a : VReg) (b : VReg) (s : State) :
    exec (.deq d a b) s = issue s (describe s (.deq d a b)) (deqB d.toNat a.toNat b.toNat) := rfl
theorem exec_qclr (d : VReg) (s : State) :
    exec (.qclr d) s = issue s (describe s (.qclr d)) (qclrB d.toNat) := rfl
theorem exec_shfl (d : VReg) (a : VReg) (b : VReg) (s : State) :
    exec (.shfl d a b) s = issue s (describe s (.shfl d a b)) (shflB d.toNat a.toNat b.toNat) := rfl
theorem exec_shflu (d : VReg) (a : VReg) (i : BitVec 8) (s : State) :
    exec (.shflu d a i) s = issue s (describe s (.shflu d a i)) (shfluB d.toNat a.toNat) := rfl
theorem exec_shfld (d : VReg) (a : VReg) (i : BitVec 8) (s : State) :
    exec (.shfld d a i) s = issue s (describe s (.shfld d a i)) (shfldB d.toNat a.toNat) := rfl
theorem exec_shflx (d : VReg) (a : VReg) (i : BitVec 8) (s : State) :
    exec (.shflx d a i) s = issue s (describe s (.shflx d a i)) (shflxB d.toNat a.toNat) := rfl
theorem exec_vote (d : SReg) (p : BitVec 3) (i : BitVec 8) (s : State) :
    exec (.vote d p i) s = issue s (describe s (.vote d p i)) (voteB d p) := rfl
theorem exec_redu (d : VReg) (a : VReg) (i : BitVec 8) (s : State) :
    exec (.redu d a i) s = issue s (describe s (.redu d a i)) (reduB d.toNat a.toNat) := rfl
theorem exec_scanLanes (d : VReg) (a : VReg) (i : BitVec 8) (s : State) :
    exec (.scanLanes d a i) s = issue s (describe s (.scanLanes d a i)) (scanB d.toNat a.toNat) := rfl
theorem exec_matchLanes (d : VReg) (a : VReg) (s : State) :
    exec (.matchLanes d a) s = issue s (describe s (.matchLanes d a)) (matchB d.toNat a.toNat) := rfl
theorem exec_bcast (d : VReg) (a : VReg) (i : BitVec 8) (s : State) :
    exec (.bcast d a i) s = issue s (describe s (.bcast d a i)) (bcastB d.toNat a.toNat) := rfl
theorem exec_firstLane (d : VReg) (a : VReg) (s : State) :
    exec (.firstLane d a) s = issue s (describe s (.firstLane d a)) (firstB d.toNat a.toNat) := rfl
theorem exec_ldGlobal (d : VReg) (k : VReg) (sc : BitVec 3) (o : BitVec 2) (b : BitVec 3) (s : State) :
    exec (.ldGlobal d k sc o b) s = issue s (describe s (.ldGlobal d k sc o b)) (loadB false d k sc o b) := rfl
theorem exec_stGlobal (d : VReg) (k : VReg) (sc : BitVec 3) (o : BitVec 2) (b : BitVec 3) (s : State) :
    exec (.stGlobal d k sc o b) s = issue s (describe s (.stGlobal d k sc o b)) (stB d k sc o b) := rfl
theorem exec_ldx (d : VReg) (k : VReg) (sc : BitVec 3) (o : BitVec 2) (b : BitVec 3) (s : State) :
    exec (.ldx d k sc o b) s = issue s (describe s (.ldx d k sc o b)) (loadB true d k sc o b) := rfl
theorem exec_stx (d : VReg) (k : VReg) (sc : BitVec 3) (o : BitVec 2) (b : BitVec 3) (s : State) :
    exec (.stx d k sc o b) s = issue s (describe s (.stx d k sc o b)) (stxB d k sc o b) := rfl
theorem exec_lds (d : VReg) (k : VReg) (s : State) :
    exec (.lds d k) s = issue s (describe s (.lds d k)) (ldsB d k) := rfl
theorem exec_sts (d : VReg) (k : VReg) (s : State) :
    exec (.sts d k) s = issue s (describe s (.sts d k)) (stsB d k) := rfl
theorem exec_ldp (d : VReg) (k : VReg) (s : State) :
    exec (.ldp d k) s = issue s (describe s (.ldp d k)) (ldpB d k) := rfl
theorem exec_stp (d : VReg) (k : VReg) (s : State) :
    exec (.stp d k) s = issue s (describe s (.stp d k)) (stpB d k) := rfl
theorem exec_stn (d : VReg) (k : VReg) (sc : BitVec 3) (o : BitVec 2) (b : BitVec 3) (s : State) :
    exec (.stn d k sc o b) s = issue s (describe s (.stn d k sc o b)) (stnB d k sc o b) := rfl
theorem exec_srset (k : SReg) (s : State) :
    exec (.srset k) s = issue s (describe s (.srset k)) (srsetB k) := rfl
theorem exec_atadd (d : VReg) (k : VReg) (sc : BitVec 3) (o : BitVec 2) (b : BitVec 3) (s : State) :
    exec (.atadd d k sc o b) s = issue s (describe s (.atadd d k sc o b)) (atomicB 0 d k sc o b) := rfl
theorem exec_atmin (d : VReg) (k : VReg) (sc : BitVec 3) (o : BitVec 2) (b : BitVec 3) (s : State) :
    exec (.atmin d k sc o b) s = issue s (describe s (.atmin d k sc o b)) (atomicB 1 d k sc o b) := rfl
theorem exec_atmax (d : VReg) (k : VReg) (sc : BitVec 3) (o : BitVec 2) (b : BitVec 3) (s : State) :
    exec (.atmax d k sc o b) s = issue s (describe s (.atmax d k sc o b)) (atomicB 2 d k sc o b) := rfl
theorem exec_atand (d : VReg) (k : VReg) (sc : BitVec 3) (o : BitVec 2) (b : BitVec 3) (s : State) :
    exec (.atand d k sc o b) s = issue s (describe s (.atand d k sc o b)) (atomicB 3 d k sc o b) := rfl
theorem exec_ator (d : VReg) (k : VReg) (sc : BitVec 3) (o : BitVec 2) (b : BitVec 3) (s : State) :
    exec (.ator d k sc o b) s = issue s (describe s (.ator d k sc o b)) (atomicB 4 d k sc o b) := rfl
theorem exec_atxor (d : VReg) (k : VReg) (sc : BitVec 3) (o : BitVec 2) (b : BitVec 3) (s : State) :
    exec (.atxor d k sc o b) s = issue s (describe s (.atxor d k sc o b)) (atomicB 5 d k sc o b) := rfl
theorem exec_atxch (d : VReg) (k : VReg) (sc : BitVec 3) (o : BitVec 2) (b : BitVec 3) (s : State) :
    exec (.atxch d k sc o b) s = issue s (describe s (.atxch d k sc o b)) (atomicB 6 d k sc o b) := rfl
theorem exec_atcas (d : VReg) (k : VReg) (sc : BitVec 3) (o : BitVec 2) (b : BitVec 3) (s : State) :
    exec (.atcas d k sc o b) s = issue s (describe s (.atcas d k sc o b)) (atomicB 7 d k sc o b) := rfl
theorem exec_redadd (d : VReg) (k : VReg) (sc : BitVec 3) (o : BitVec 2) (b : BitVec 3) (s : State) :
    exec (.redadd d k sc o b) s = issue s (describe s (.redadd d k sc o b)) (reduceB 0 d k sc o b) := rfl
theorem exec_redmin (d : VReg) (k : VReg) (sc : BitVec 3) (o : BitVec 2) (b : BitVec 3) (s : State) :
    exec (.redmin d k sc o b) s = issue s (describe s (.redmin d k sc o b)) (reduceB 1 d k sc o b) := rfl
theorem exec_redmax (d : VReg) (k : VReg) (sc : BitVec 3) (o : BitVec 2) (b : BitVec 3) (s : State) :
    exec (.redmax d k sc o b) s = issue s (describe s (.redmax d k sc o b)) (reduceB 2 d k sc o b) := rfl
theorem exec_fence (sc : BitVec 3) (o : BitVec 2) (seq : Bool) (s : State) :
    exec (.fence sc o seq) s = issue s (describe s (.fence sc o seq)) (fenceB sc o seq) := rfl
theorem exec_ofence (sc : BitVec 3) (o : BitVec 2) (b : BitVec 3) (s : State) :
    exec (.ofence sc o b) s = issue s (describe s (.ofence sc o b)) (ofenceB sc o b) := rfl
theorem exec_rflush (n : SReg) (b : BitVec 3) (s : State) :
    exec (.rflush n b) s = issue s (describe s (.rflush n b)) (rangeB 0 n b) := rfl
theorem exec_rinv (n : SReg) (b : BitVec 3) (s : State) :
    exec (.rinv n b) s = issue s (describe s (.rinv n b)) (rangeB 1 n b) := rfl
theorem exec_pfetch (k : VReg) (b : BitVec 3) (s : State) :
    exec (.pfetch k b) s = issue s (describe s (.pfetch k b)) (pfetchB k b) := rfl
theorem exec_locate (k : VReg) (b : BitVec 3) (s : State) :
    exec (.locate k b) s = issue s (describe s (.locate k b)) (locateB k b) := rfl
theorem exec_repark (n : SReg) (b : BitVec 3) (s : State) :
    exec (.repark n b) s = issue s (describe s (.repark n b)) (rangeB 2 n b) := rfl
theorem exec_unpark (n : SReg) (b : BitVec 3) (s : State) :
    exec (.unpark n b) s = issue s (describe s (.unpark n b)) (rangeB 3 n b) := rfl
theorem exec_objdef (n : SReg) (b : BitVec 3) (s : State) :
    exec (.objdef n b) s = issue s (describe s (.objdef n b)) (objdefB n b) := rfl
theorem exec_objdel (n : SReg) (s : State) :
    exec (.objdel n) s = issue s (describe s (.objdel n)) (objdelB n) := rfl
theorem exec_pcommit (n : SReg) (b : BitVec 3) (s : State) :
    exec (.pcommit n b) s = issue s (describe s (.pcommit n b)) (tileB 0xC0 n b) := rfl
theorem exec_pdecommit (n : SReg) (b : BitVec 3) (s : State) :
    exec (.pdecommit n b) s = issue s (describe s (.pdecommit n b)) (tileB 0xC1 n b) := rfl
theorem exec_allocBlock (n : SReg) (s : State) :
    exec (.allocBlock n) s = issue s (describe s (.allocBlock n)) (allocB n) := rfl
theorem exec_freeBlock (n : SReg) (s : State) :
    exec (.freeBlock n) s = issue s (describe s (.freeBlock n)) (freeB n) := rfl
theorem exec_pquery (n : SReg) (b : BitVec 3) (s : State) :
    exec (.pquery n b) s = issue s (describe s (.pquery n b)) (tileB 0xC4 n b) := rfl
theorem exec_tcopy (d : SReg) (a : SReg) (b : SReg) (s : State) :
    exec (.tcopy d a b) s = issue s (describe s (.tcopy d a b)) (tcopyB false d a b) := rfl
theorem exec_tcopym (d : SReg) (a : SReg) (b : SReg) (s : State) :
    exec (.tcopym d a b) s = issue s (describe s (.tcopym d a b)) (tcopyB true d a b) := rfl
theorem exec_chain (d : SReg) (a : SReg) (s : State) :
    exec (.chain d a) s = issue s (describe s (.chain d a)) (chainB d a) := rfl
theorem exec_bbinit (a : SReg) (b : SReg) (s : State) :
    exec (.bbinit a b) s = issue s (describe s (.bbinit a b)) (bbinitB a b) := rfl
theorem exec_bbexp (a : SReg) (b : SReg) (s : State) :
    exec (.bbexp a b) s = issue s (describe s (.bbexp a b)) (bbexpB a b) := rfl
theorem exec_bbwait (d : SReg) (a : SReg) (s : State) :
    exec (.bbwait d a) s = issue s (describe s (.bbwait d a)) (bbwaitB d a) := rfl
theorem exec_bbinv (a : SReg) (s : State) :
    exec (.bbinv a) s = issue s (describe s (.bbinv a)) (bbinvB a) := rfl
theorem exec_bbarr (a : SReg) (b : SReg) (s : State) :
    exec (.bbarr a b) s = issue s (describe s (.bbarr a b)) (bbarrB a b) := rfl
theorem exec_rinit (a : SReg) (s : State) :
    exec (.rinit a) s = issue s (describe s (.rinit a)) (rinitB a) := rfl
theorem exec_racq (d : SReg) (a : SReg) (s : State) :
    exec (.racq d a) s = issue s (describe s (.racq d a)) (ringGetB false d a) := rfl
theorem exec_rpub (d : SReg) (a : SReg) (b : SReg) (s : State) :
    exec (.rpub d a b) s = issue s (describe s (.rpub d a b)) (rpubB d a b) := rfl
theorem exec_rtake (d : SReg) (a : SReg) (s : State) :
    exec (.rtake d a) s = issueBoth s (describe s (.rtake d a)) (d.toNat < 16 && a.toNat < 16) (ringGetB true d a) (strRtakeB d a) := rfl
theorem exec_rdone (a : SReg) (b : SReg) (s : State) :
    exec (.rdone a b) s = issueBoth s (describe s (.rdone a b)) (a.toNat < 16 && b.toNat < 16) (rdoneB a b) (strRdoneB a b) := rfl
theorem exec_rclose (a : SReg) (s : State) :
    exec (.rclose a) s = issue s (describe s (.rclose a)) (rcloseB a) := rfl
theorem exec_spush (a : SReg) (b : SReg) (s : State) :
    exec (.spush a b) s = issue s (describe s (.spush a b)) (spushB a b) := rfl
theorem exec_mma64x64x64 (z : BitVec 8) (r : Bool) (x : BitVec 3) (m : BitVec 4) (s : State) :
    exec (.mma64x64x64 z r x m) s = issueMatrix s true (tilesOk z 1) (mmaB 0xE0 z.toNat r x.toNat m.toNat) := rfl
theorem exec_mma64x128x64 (z : BitVec 8) (r : Bool) (x : BitVec 3) (m : BitVec 4) (s : State) :
    exec (.mma64x128x64 z r x m) s = issueMatrix s true (tilesOk z 2) (mmaB 0xE1 z.toNat r x.toNat m.toNat) := rfl
theorem exec_mma128x128x64 (z : BitVec 8) (r : Bool) (x : BitVec 3) (m : BitVec 4) (s : State) :
    exec (.mma128x128x64 z r x m) s = issueMatrix s true (tilesOk z 4) (mmaB 0xE2 z.toNat r x.toNat m.toNat) := rfl
theorem exec_mma128x64x128 (z : BitVec 8) (r : Bool) (x : BitVec 3) (m : BitVec 4) (s : State) :
    exec (.mma128x64x128 z r x m) s = issueMatrix s true (tilesOk z 2) (mmaB 0xE3 z.toNat r x.toNat m.toNat) := rfl
theorem exec_fbset (m : BitVec 4) (s : State) :
    exec (.fbset m) s = issueMatrix s true noTiles (fbsetB m.toNat) := rfl
theorem exec_xld (x : BitVec 3) (m : BitVec 4) (s : State) :
    exec (.xld x m) s = issueMatrix s true noTiles (xldB x.toNat m.toNat) := rfl
theorem exec_xldr (x : BitVec 3) (m : BitVec 4) (s : State) :
    exec (.xldr x m) s = issueMatrix s true noTiles (xldrB x.toNat m.toNat) := rfl
theorem exec_zclr (z : BitVec 8) (m : BitVec 4) (s : State) :
    exec (.zclr z m) s = issueMatrix s true (tilesOk z 1) (zclrB z.toNat m.toNat) := rfl
theorem exec_zcvt (z : BitVec 8) (m : BitVec 4) (s : State) :
    exec (.zcvt z m) s = issueMatrix s true (tilesOk z 1) (zcvtB z.toNat m.toNat) := rfl
theorem exec_zst (z : BitVec 8) (m : BitVec 4) (s : State) :
    exec (.zst z m) s = issueMatrix s true (tilesOk z 1) (zstB z.toNat m.toNat) := rfl
theorem exec_zld (z : BitVec 8) (m : BitVec 4) (s : State) :
    exec (.zld z m) s = issueMatrix s true (tilesOk z 1) (zldB z.toNat m.toNat) := rfl
theorem exec_zadd (z : BitVec 8) (m : BitVec 4) (s : State) :
    exec (.zadd z m) s = issueMatrix s true (tilesOk z 1) (zaddB z.toNat m.toNat) := rfl
theorem exec_zscl (z : BitVec 8) (m : BitVec 4) (s : State) :
    exec (.zscl z m) s = issueMatrix s true (tilesOk z 1) (zsclB z.toNat m.toNat) := rfl
theorem exec_lit (wide : Bool) (v : BitVec 64) (s : State) :
    exec (.lit wide v) s = issueBoth s (describe s (.lit wide v)) true (litB wide v) (fun _ _ => .fault (flt 1 3)) := rfl
theorem exec_loadResultReturn (g : Nat) (ch : Nat) (s : State) :
    exec (.loadResultReturn g ch) s = .next (loadReturn s g ch) := rfl
theorem exec_storeAck (g : Nat) (ix : Nat) (ch : Nat) (s : State) :
    exec (.storeAck g ix ch) s = .next (storeAck s g ix ch) := rfl
theorem exec_tuberAnswer (g : Nat) (ch : Nat) (s : State) :
    exec (.tuberAnswer g ch) s = .next (tuberAnswer s g ch) := rfl
theorem exec_objectTableAnswer (g : Nat) (s : State) :
    exec (.objectTableAnswer g) s = .next (objAnswer s g) := rfl
theorem exec_sfuResultWrite (g : Nat) (s : State) :
    exec (.sfuResultWrite g) s = .next (sfuWrite s g) := rfl
theorem exec_locateFaultDetect (g : Nat) (f : Nat) (s : State) :
    exec (.locateFaultDetect g f) s = .next (locateDetect s g f) := rfl
theorem exec_copyPieceTransfer (c : Nat) (n : Nat) (ch : Nat) (s : State) :
    exec (.copyPieceTransfer c n ch) s = .next (transferPiece s c n ch) := rfl
theorem exec_copyComplete (c : Nat) (s : State) :
    exec (.copyComplete c) s = .next (completeCopy s c) := rfl
theorem exec_snoozeExpiry (g : Nat) (f : Nat) (s : State) :
    exec (.snoozeExpiry g f) s = .next (snoozeEnd s g f) := rfl
theorem exec_yieldExpiry (g : Nat) (f : Nat) (s : State) :
    exec (.yieldExpiry g f) s = .next (yieldEnd s g f) := rfl
theorem exec_issueAgePromotion (g : Nat) (f : Nat) (s : State) :
    exec (.issueAgePromotion g f) s = .next (promote s g f) := rfl
theorem exec_issueSlot (core : Nat) (seq : Bool) (ch : Nat) (s : State) :
    exec (.issueSlot core seq ch) s = .next (issueSlot s core seq ch) := rfl
theorem exec_packetAgePromotion (l : Nat) (n : Nat) (s : State) :
    exec (.packetAgePromotion l n) s = .next (packetAge s l n) := rfl
theorem exec_loopSlotPass (l : Nat) (n : Nat) (sl : Nat) (k : Nat) (offer : Option (Nat × Bool × Nat)) (s : State) :
    exec (.loopSlotPass l n sl k offer) s = .next (loopPass s l n sl k offer) := rfl
theorem exec_packetArrival (l : Nat) (sl : Nat) (came : Arrival) (s : State) :
    exec (.packetArrival l sl came) s = .next (packetArrive s l sl came.full came.crcOk came.acked) := rfl
theorem exec_lastChanceDrain (l : Nat) (n : Nat) (bulk : Bool) (s : State) :
    exec (.lastChanceDrain l n bulk) s = .next (lastDrain s l n bulk) := rfl
theorem exec_flitReceive (l : Nat) (pkt : PktId) (crcOk : Bool) (acked : Bool) (s : State) :
    exec (.flitReceive l pkt crcOk acked) s = .next (flitReceive s l pkt.src pkt.id crcOk acked) := rfl
theorem exec_retransmitTimeout (l : Nat) (pkt : PktId) (s : State) :
    exec (.retransmitTimeout l pkt) s = .next (retransmit s l pkt.src pkt.id) := rfl
theorem exec_eccErrorDetected (site : EccSite) (s : State) :
    exec (.eccErrorDetected site) s = .next (eccError s site) := rfl
theorem exec_collapseRequest (asid : Nat) (va : Nat) (s : State) :
    exec (.collapseRequest asid va) s = .next (collapseRequest s asid va) := rfl
theorem exec_collapseSplit (asid : Nat) (va : Nat) (dev : Nat) (frame : Nat) (ch : Nat) (s : State) :
    exec (.collapseSplit asid va dev frame ch) s = .next (collapseSplit s asid va dev frame ch) := rfl
theorem exec_collapseAck (asid : Nat) (va : Nat) (dev : Nat) (failed : Bool) (s : State) :
    exec (.collapseAck asid va dev failed) s = .next (collapseAck s asid va dev failed) := rfl
theorem exec_launchDispatch (pl : List PlaceAt) (back : Option Nat) (s : State) :
    exec (.launchDispatch pl back) s = .next (dispatch s pl back) := rfl
theorem exec_waitWordPoll (q : Nat) (s : State) :
    exec (.waitWordPoll q) s = .next (pollWaits s q) := rfl
theorem exec_headReserveTimeout (l : Nat) (s : State) :
    exec (.headReserveTimeout l) s = .next (headReserve s l) := rfl
theorem exec_ttRelease (e : Nat) (s : State) :
    exec (.ttRelease e) s = .next (ttPass s e) := rfl
theorem exec_migrationDispatch (core : Nat) (bal : Option Nat) (s : State) :
    exec (.migrationDispatch core bal) s = .next (migDispatch s core bal) := rfl
theorem exec_migrationAgeTimeout (t : Nat) (s : State) :
    exec (.migrationAgeTimeout t) s = .next (migAge s t) := rfl
theorem exec_migrationComplete (t : Nat) (s : State) :
    exec (.migrationComplete t) s = .next (migComplete s t) := rfl
theorem exec_preemptHalt (t : Nat) (s : State) :
    exec (.preemptHalt t) s = .next (preemptHalt s t) := rfl
theorem exec_preemptSaveComplete (t : Nat) (s : State) :
    exec (.preemptSaveComplete t) s = .next (saveComplete s t) := rfl
theorem exec_mailboxHeadWrite (fn : Nat) (v : BitVec 16) (s : State) :
    exec (.mailboxHeadWrite fn v) s = .next (headWrite s fn v) := rfl
theorem exec_mailboxCtailWrite (fn : Nat) (v : BitVec 16) (s : State) :
    exec (.mailboxCtailWrite fn v) s = .next (ctailWrite s fn v) := rfl
theorem exec_mailboxEntryTake (fn : Nat) (s : State) :
    exec (.mailboxEntryTake fn) s = .next (entryTake s fn) := rfl
theorem exec_completionWrite (fn : Nat) (s : State) :
    exec (.completionWrite fn) s = .next (completionWrite s fn) := rfl
theorem exec_sysExit (who : Caller) (a0 : Nat) (s : State) :
    exec (.sysExit who a0) s = .next (sysExit s who a0) := rfl
theorem exec_sysLog (who : Caller) (a0 : Nat) (a1 : Nat) (s : State) :
    exec (.sysLog who a0 a1) s = .next (sysLog s who a0 a1) := rfl
theorem exec_sysMap (who : Caller) (a0 : Nat) (a1 : Nat) (a2 : Nat) (frames : List Nat) (s : State) :
    exec (.sysMap who a0 a1 a2 frames) s = .next (sysMap s who a0 a1 a2 frames) := rfl
theorem exec_sysUnmap (who : Caller) (a0 : Nat) (a1 : Nat) (s : State) :
    exec (.sysUnmap who a0 a1) s = .next (sysUnmap s who a0 a1) := rfl
theorem exec_sysLaunch (who : Caller) (a0 : Nat) (a1 : Nat) (a2 : Nat) (a3 : Nat) (dest : Nat) (s : State) :
    exec (.sysLaunch who a0 a1 a2 a3 dest) s = .next (sysLaunch s who a0 a1 a2 a3 dest) := rfl
theorem exec_sysWait (who : Caller) (a0 : Nat) (a1 : Nat) (s : State) :
    exec (.sysWait who a0 a1) s = .next (sysWait s who a0 a1) := rfl
theorem exec_sysPool (who : Caller) (a0 : Nat) (frames : List Nat) (s : State) :
    exec (.sysPool who a0 frames) s = .next (sysPool s who a0 frames) := rfl
theorem exec_sysTtset (who : Caller) (a0 : Nat) (a1 : Nat) (a2 : Nat) (a3 : Nat) (s : State) :
    exec (.sysTtset who a0 a1 a2 a3) s = .next (sysTtset s who a0 a1 a2 a3) := rfl
theorem exec_sysDtpage (who : Caller) (va : Nat) (frames : List Nat) (cut : DtCut) (s : State) :
    exec (.sysDtpage who va frames cut) s = .next (sysDtpage s who va frames cut) := rfl
theorem exec_sysAttest (who : Caller) (a0 : Nat) (a1 : Nat) (s : State) :
    exec (.sysAttest who a0 a1) s = .next (sysAttest s who a0 a1) := rfl
theorem exec_sysRecord (who : Caller) (a0 : Nat) (a1 : Nat) (a2 : Nat) (a3 : Nat) (s : State) :
    exec (.sysRecord who a0 a1 a2 a3) s = .next (sysRecord s who a0 a1 a2 a3) := rfl
theorem exec_sysWaitTimeout (who : Caller) (s : State) :
    exec (.sysWaitTimeout who) s = .next (sysWaitTimeout s who) := rfl
theorem exec_queueTableWrite (q : Nat) (v : BitVec 128) (s : State) :
    exec (.queueTableWrite q v) s = .next (queueWrite s q v) := rfl
theorem exec_ttEntryWrite (e : Nat) (v : BitVec 256) (s : State) :
    exec (.ttEntryWrite e v) s = .next (ttWrite s e v) := rfl
theorem exec_asidDescriptorWrite (a : Nat) (v : BitVec 256) (badfree : Bool) (s : State) :
    exec (.asidDescriptorWrite a v badfree) s = .next (descWrite s a v badfree) := rfl
theorem exec_poolFeed (v : BitVec 64) (s : State) :
    exec (.poolFeed v) s = .next (poolFeed s v) := rfl
theorem exec_invalidateGo (v : BitVec 64) (s : State) :
    exec (.invalidateGo v) s = .next (invalGo s v) := rfl
theorem exec_invalidateDone (s : State) :
    exec (.invalidateDone) s = .next (invalDone s) := rfl
theorem exec_schedPreempt (s : State) :
    exec (.schedPreempt) s = .next (cmdPreempt s) := rfl
theorem exec_schedRestore (s : State) :
    exec (.schedRestore) s = .next (cmdRestore s) := rfl
theorem exec_schedResumeReplay (s : State) :
    exec (.schedResumeReplay) s = .next (cmdResume s false) := rfl
theorem exec_schedResumeSkip (s : State) :
    exec (.schedResumeSkip) s = .next (cmdResume s true) := rfl
theorem exec_schedEndLaunch (s : State) :
    exec (.schedEndLaunch) s = .next (cmdEnd s) := rfl
theorem exec_schedCmdReserved (c : BitVec 4) (s : State) :
    exec (.schedCmdReserved c) s = .next (if c.toNat < 5 then s else cmdReserved s) := rfl
theorem exec_schedCmdDone (s : State) :
    exec (.schedCmdDone) s = .next (cmdDone s) := rfl
theorem exec_faultQueueTailWrite (v : VReg) (s : State) :
    exec (.faultQueueTailWrite v) s = .next (tailWrite s v) := rfl
theorem exec_plimWrite (v : BitVec 16) (s : State) :
    exec (.plimWrite v) s = .next (plimWrite s v) := rfl
theorem exec_registerWrite (r : Reg) (v : BitVec 64) (s : State) :
    exec (.registerWrite r v) s = .next (regWrite s r v) := rfl
theorem exec_spdmRequest (nonce : Nat) (s : State) :
    exec (.spdmRequest nonce) s = .next (spdmRequest s nonce) := rfl
theorem exec_ptpMessage (offset : Int) (s : State) :
    exec (.ptpMessage offset) s = .next (ptpMessage s offset) := rfl
theorem exec_mainSupplyOn (fl : FlashState) (s : State) :
    exec (.mainSupplyOn fl) s = .next (supplyOn s fl) := rfl
theorem exec_mainSupplyOff (s : State) :
    exec (.mainSupplyOff) s = .next (supplyOff s) := rfl
theorem exec_idleRequest (on : Bool) (s : State) :
    exec (.idleRequest on) s = .next (idleRequest s on) := rfl
theorem exec_idleEnter (s : State) :
    exec (.idleEnter) s = .next (idleEnter s) := rfl
theorem exec_powerOverLimit (watts : Nat) (s : State) :
    exec (.powerOverLimit watts) s = .next (powerOver s watts) := rfl
theorem exec_junctionOver95c (die : Nat) (temp : Nat) (s : State) :
    exec (.junctionOver95c die temp) s = .next (junctionOver s die temp) := rfl
theorem exec_thermalTrip (cause : TripCause) (s : State) :
    exec (.thermalTrip cause) s = .next (thermalTrip s cause) := rfl
theorem exec_coolantFlowTimeout (s : State) :
    exec (.coolantFlowTimeout) s = .next (coolantTimeout s) := rfl
theorem exec_supplySagTrip (die : Nat) (s : State) :
    exec (.supplySagTrip die) s = .next (sagTrip s die) := rfl
theorem exec_unlistedOpcode (rad : Bool) (w : BitVec 64) (s : State) :
    exec (.unlistedOpcode rad w) s = execUnlistedOpcode rad w s := rfl
theorem exec_stewardCoreAccess (st : Nat) (acc : StewardAccess) (ch : Nat) (s : State) :
    exec (.stewardCoreAccess st acc ch) s = execStewardCoreAccess st acc ch s := rfl
theorem exec_shallotRequest (rq : ShallotReq) (s : State) :
    exec (.shallotRequest rq) s = .next (shallotRequest s rq) := rfl
theorem exec_bundleLoad (asid : Nat) (bd : Bundle) (s : State) :
    exec (.bundleLoad asid bd) s = .next (bundleLoad s asid bd) := rfl
theorem exec_grandmasterLost (s : State) :
    exec (.grandmasterLost) s = .next (ptpLost s) := rfl
theorem exec_powerWithinLimit (watts : Nat) (s : State) :
    exec (.powerWithinLimit watts) s = .next (powerWithin s watts) := rfl
theorem exec_junctionBelow95c (temp : Nat) (s : State) :
    exec (.junctionBelow95c temp) s = .next (junctionBelow s temp) := rfl
theorem exec_supplySagClear (die : Nat) (s : State) :
    exec (.supplySagClear die) s = .next (sagClear s die) := rfl
theorem exec_coolantFlowChange (low : Bool) (inlet : Nat) (s : State) :
    exec (.coolantFlowChange low inlet) s = .next (coolantFlow s low inlet) := rfl
theorem exec_mmaComplete (t : Nat) (s : State) :
    exec (.mmaComplete t) s = .next (unitDone s t) := rfl
theorem exec_nopRadish (w : BitVec 13) (s : State) :
    exec (.nopRadish w) s = issue s (describe s (.nopRadish w)) (nopB) := rfl
theorem exec_getmRadish (w : BitVec 13) (k : SReg) (s : State) :
    exec (.getmRadish w k) s = issue s (describe s (.getmRadish w k)) (getmB k) := rfl
theorem exec_braRadish (w : BitVec 13) (h : BitVec 2) (off : RImm) (s : State) :
    exec (.braRadish w h off) s = issue s (describe s (.braRadish w h off)) (braB) := rfl
theorem exec_brdRadish (w : BitVec 13) (h : BitVec 2) (p : BitVec 3) (inv : Bool) (off : RImm) (s : State) :
    exec (.brdRadish w h p inv off) s = issue s (describe s (.brdRadish w h p inv off)) (brdB p inv) := rfl
theorem exec_brxRadish (w : BitVec 13) (h : BitVec 2) (v : VReg) (tbl : List (BitVec 64)) (s : State) :
    exec (.brxRadish w h v tbl) s = issue s (describe s (.brxRadish w h v tbl)) (brxB v tbl) := rfl
theorem exec_callAddrRadish (w : BitVec 13) (b : BitVec 3) (off : RImm) (s : State) :
    exec (.callAddrRadish w b off) s = issue s (describe s (.callAddrRadish w b off)) (callB b) := rfl
theorem exec_retRadish (w : BitVec 13) (b : BitVec 3) (s : State) :
    exec (.retRadish w b) s = issue s (describe s (.retRadish w b)) (retB b) := rfl
theorem exec_markJoinRadish (w : BitVec 13) (off : RImm) (s : State) :
    exec (.markJoinRadish w off) s = issue s (describe s (.markJoinRadish w off)) (markB) := rfl
theorem exec_joinFragsRadish (w : BitVec 13) (s : State) :
    exec (.joinFragsRadish w) s = issue s (describe s (.joinFragsRadish w)) (joinB) := rfl
theorem exec_ppushRadish (w : BitVec 13) (p : BitVec 3) (s : State) :
    exec (.ppushRadish w p) s = issue s (describe s (.ppushRadish w p)) (ppushB p) := rfl
theorem exec_pinvRadish (w : BitVec 13) (s : State) :
    exec (.pinvRadish w) s = issue s (describe s (.pinvRadish w)) (pinvB) := rfl
theorem exec_ppopRadish (w : BitVec 13) (s : State) :
    exec (.ppopRadish w) s = issue s (describe s (.ppopRadish w)) (ppopB) := rfl
theorem exec_emrdRadish (w : BitVec 13) (k : SReg) (s : State) :
    exec (.emrdRadish w k) s = issue s (describe s (.emrdRadish w k)) (emrdB k) := rfl
theorem exec_emwrRadish (w : BitVec 13) (k : SReg) (s : State) :
    exec (.emwrRadish w k) s = issue s (describe s (.emwrRadish w k)) (emwrB k) := rfl
theorem exec_waitcRadish (w : BitVec 13) (a : BitVec 6) (b : BitVec 6) (c : BitVec 4) (d : BitVec 4) (s : State) :
    exec (.waitcRadish w a b c d) s = issue s (describe s (.waitcRadish w a b c d)) (waitcB a b c d) := rfl
theorem exec_cbatchRadish (w : BitVec 13) (s : State) :
    exec (.cbatchRadish w) s = issue s (describe s (.cbatchRadish w)) (cbatchB) := rfl
theorem exec_waitbRadish (w : BitVec 13) (n : BitVec 16) (s : State) :
    exec (.waitbRadish w n) s = issue s (describe s (.waitbRadish w n)) (waitbB n) := rfl
theorem exec_barRadish (w : BitVec 13) (c : BitVec 2) (i : BitVec 4) (s : State) :
    exec (.barRadish w c i) s = issue s (describe s (.barRadish w c i)) (barB c i) := rfl
theorem exec_baraRadish (w : BitVec 13) (c : BitVec 2) (i : BitVec 4) (s : State) :
    exec (.baraRadish w c i) s = issue s (describe s (.baraRadish w c i)) (baraB c i) := rfl
theorem exec_barwRadish (w : BitVec 13) (c : BitVec 2) (i : BitVec 4) (s : State) :
    exec (.barwRadish w c i) s = issue s (describe s (.barwRadish w c i)) (barwB c i) := rfl
theorem exec_drainRadish (w : BitVec 13) (c : BitVec 2) (i : BitVec 4) (s : State) :
    exec (.drainRadish w c i) s = issue s (describe s (.drainRadish w c i)) (drainB c i) := rfl
theorem exec_eqpRadish (w : BitVec 13) (n : BitVec 16) (s : State) :
    exec (.eqpRadish w n) s = issue s (describe s (.eqpRadish w n)) (eqpB n) := rfl
theorem exec_migrTeamRadish (w : BitVec 13) (cls : Bool) (n : BitVec 16) (s : State) :
    exec (.migrTeamRadish w cls n) s = issue s (describe s (.migrTeamRadish w cls n)) (migrB cls n) := rfl
theorem exec_roleswRadish (w : BitVec 13) (i : BitVec 3) (s : State) :
    exec (.roleswRadish w i) s = issue s (describe s (.roleswRadish w i)) (roleswB i) := rfl
theorem exec_yieldIssueRadish (w : BitVec 13) (s : State) :
    exec (.yieldIssueRadish w) s = issue s (describe s (.yieldIssueRadish w)) (yieldB) := rfl
theorem exec_exitFragRadish (w : BitVec 13) (s : State) :
    exec (.exitFragRadish w) s = issue s (describe s (.exitFragRadish w)) (exitB) := rfl
theorem exec_trapCodeRadish (w : BitVec 13) (c : BitVec 16) (s : State) :
    exec (.trapCodeRadish w c) s = issue s (describe s (.trapCodeRadish w c)) (trapB c) := rfl
theorem exec_xretRadish (w : BitVec 13) (skip : Bool) (s : State) :
    exec (.xretRadish w skip) s = issue s (describe s (.xretRadish w skip)) (xretB skip) := rfl
theorem exec_xrdRadish (w : BitVec 13) (k : SReg) (i : BitVec 8) (s : State) :
    exec (.xrdRadish w k i) s = issue s (describe s (.xrdRadish w k i)) (xrdB k i) := rfl
theorem exec_xwrRadish (w : BitVec 13) (k : SReg) (i : BitVec 8) (s : State) :
    exec (.xwrRadish w k i) s = issue s (describe s (.xwrRadish w k i)) (xwrB k i) := rfl
theorem exec_sreadRadish (w : BitVec 13) (k : SReg) (i : BitVec 8) (s : State) :
    exec (.sreadRadish w k i) s = issue s (describe s (.sreadRadish w k i)) (sreadB k i) := rfl
theorem exec_launchQueueRadish (w : BitVec 13) (b : BitVec 3) (s : State) :
    exec (.launchQueueRadish w b) s = issue s (describe s (.launchQueueRadish w b)) (launchB b) := rfl
theorem exec_ifenceRadish (w : BitVec 13) (s : State) :
    exec (.ifenceRadish w) s = issue s (describe s (.ifenceRadish w)) (ifenceB) := rfl
theorem exec_cprefRadish (w : BitVec 13) (l : BitVec 2) (off : RImm) (s : State) :
    exec (.cprefRadish w l off) s = issue s (describe s (.cprefRadish w l off)) (cprefB) := rfl
theorem exec_snoozeRadish (w : BitVec 13) (n : BitVec 16) (s : State) :
    exec (.snoozeRadish w n) s = issue s (describe s (.snoozeRadish w n)) (snoozeB n) := rfl
theorem exec_loopCountRadish (w : BitVec 13) (k : SReg) (off : RImm) (s : State) :
    exec (.loopCountRadish w k off) s = issue s (describe s (.loopCountRadish w k off)) (loopB k) := rfl
theorem exec_iaddRadish (w : BitVec 13) (d : VReg) (a : VReg) (b : VReg) (s : State) :
    exec (.iaddRadish w d a b) s = issue s (describe s (.iaddRadish w d a b)) (intB iaddOp d.toNat a.toNat b.toNat) := rfl
theorem exec_isubRadish (w : BitVec 13) (d : VReg) (a : VReg) (b : VReg) (s : State) :
    exec (.isubRadish w d a b) s = issue s (describe s (.isubRadish w d a b)) (intB isubOp d.toNat a.toNat b.toNat) := rfl
theorem exec_imulRadish (w : BitVec 13) (d : VReg) (a : VReg) (b : VReg) (s : State) :
    exec (.imulRadish w d a b) s = issue s (describe s (.imulRadish w d a b)) (intB imulOp d.toNat a.toNat b.toNat) := rfl
theorem exec_imulhRadish (w : BitVec 13) (d : VReg) (a : VReg) (b : VReg) (s : State) :
    exec (.imulhRadish w d a b) s = issue s (describe s (.imulhRadish w d a b)) (intB imulhOp d.toNat a.toNat b.toNat) := rfl
theorem exec_imadRadish (w : BitVec 13) (d : VReg) (a : VReg) (b : VReg) (s : State) :
    exec (.imadRadish w d a b) s = issue s (describe s (.imadRadish w d a b)) (intB imadOp d.toNat a.toNat b.toNat) := rfl
theorem exec_idivRadish (w : BitVec 13) (d : VReg) (a : VReg) (b : VReg) (s : State) :
    exec (.idivRadish w d a b) s = issue s (describe s (.idivRadish w d a b)) (intB idivOp d.toNat a.toNat b.toNat) := rfl
theorem exec_iremRadish (w : BitVec 13) (d : VReg) (a : VReg) (b : VReg) (s : State) :
    exec (.iremRadish w d a b) s = issue s (describe s (.iremRadish w d a b)) (intB iremOp d.toNat a.toNat b.toNat) := rfl
theorem exec_iminRadish (w : BitVec 13) (d : VReg) (a : VReg) (b : VReg) (s : State) :
    exec (.iminRadish w d a b) s = issue s (describe s (.iminRadish w d a b)) (intB iminOp d.toNat a.toNat b.toNat) := rfl
theorem exec_imaxRadish (w : BitVec 13) (d : VReg) (a : VReg) (b : VReg) (s : State) :
    exec (.imaxRadish w d a b) s = issue s (describe s (.imaxRadish w d a b)) (intB imaxOp d.toNat a.toNat b.toNat) := rfl
theorem exec_iabsRadish (w : BitVec 13) (d : VReg) (a : VReg) (s : State) :
    exec (.iabsRadish w d a) s = issue s (describe s (.iabsRadish w d a)) (intB iabsOp d.toNat a.toNat a.toNat) := rfl
theorem exec_inegRadish (w : BitVec 13) (d : VReg) (a : VReg) (s : State) :
    exec (.inegRadish w d a) s = issue s (describe s (.inegRadish w d a)) (intB inegOp d.toNat a.toNat a.toNat) := rfl
theorem exec_iaddcRadish (w : BitVec 13) (d : VReg) (a : VReg) (b : VReg) (s : State) :
    exec (.iaddcRadish w d a b) s = issue s (describe s (.iaddcRadish w d a b)) (iaddcB d.toNat a.toNat b.toNat) := rfl
theorem exec_icmpRadish (w : BitVec 13) (c : BitVec 3) (p : BitVec 3) (a : VReg) (b : VReg) (s : State) :
    exec (.icmpRadish w c p a b) s = issue s (describe s (.icmpRadish w c p a b)) (icmpB c p a.toNat b.toNat) := rfl
theorem exec_selLaneRadish (w : BitVec 13) (d : VReg) (a : VReg) (b : VReg) (s : State) :
    exec (.selLaneRadish w d a b) s = issue s (describe s (.selLaneRadish w d a b)) (selB d.toNat a.toNat b.toNat) := rfl
theorem exec_andBitsRadish (w : BitVec 13) (d : VReg) (a : VReg) (b : VReg) (s : State) :
    exec (.andBitsRadish w d a b) s = issue s (describe s (.andBitsRadish w d a b)) (intB andOp d.toNat a.toNat b.toNat) := rfl
theorem exec_orBitsRadish (w : BitVec 13) (d : VReg) (a : VReg) (b : VReg) (s : State) :
    exec (.orBitsRadish w d a b) s = issue s (describe s (.orBitsRadish w d a b)) (intB orOp d.toNat a.toNat b.toNat) := rfl
theorem exec_xorBitsRadish (w : BitVec 13) (d : VReg) (a : VReg) (b : VReg) (s : State) :
    exec (.xorBitsRadish w d a b) s = issue s (describe s (.xorBitsRadish w d a b)) (intB xorOp d.toNat a.toNat b.toNat) := rfl
theorem exec_notBitsRadish (w : BitVec 13) (d : VReg) (a : VReg) (s : State) :
    exec (.notBitsRadish w d a) s = issue s (describe s (.notBitsRadish w d a)) (intB notOp d.toNat a.toNat a.toNat) := rfl
theorem exec_shlRadish (w : BitVec 13) (d : VReg) (a : VReg) (b : VReg) (s : State) :
    exec (.shlRadish w d a b) s = issue s (describe s (.shlRadish w d a b)) (intB shlOp d.toNat a.toNat b.toNat) := rfl
theorem exec_shrRadish (w : BitVec 13) (d : VReg) (a : VReg) (b : VReg) (s : State) :
    exec (.shrRadish w d a b) s = issue s (describe s (.shrRadish w d a b)) (intB shrOp d.toNat a.toNat b.toNat) := rfl
theorem exec_sarRadish (w : BitVec 13) (d : VReg) (a : VReg) (b : VReg) (s : State) :
    exec (.sarRadish w d a b) s = issue s (describe s (.sarRadish w d a b)) (intB sarOp d.toNat a.toNat b.toNat) := rfl
theorem exec_rotlRadish (w : BitVec 13) (d : VReg) (a : VReg) (b : VReg) (s : State) :
    exec (.rotlRadish w d a b) s = issue s (describe s (.rotlRadish w d a b)) (intB rotlOp d.toNat a.toNat b.toNat) := rfl
theorem exec_popcRadish (w : BitVec 13) (d : VReg) (a : VReg) (s : State) :
    exec (.popcRadish w d a) s = issue s (describe s (.popcRadish w d a)) (intB popcOp d.toNat a.toNat a.toNat) := rfl
theorem exec_clzRadish (w : BitVec 13) (d : VReg) (a : VReg) (s : State) :
    exec (.clzRadish w d a) s = issue s (describe s (.clzRadish w d a)) (intB clzOp d.toNat a.toNat a.toNat) := rfl
theorem exec_ctzRadish (w : BitVec 13) (d : VReg) (a : VReg) (s : State) :
    exec (.ctzRadish w d a) s = issue s (describe s (.ctzRadish w d a)) (intB ctzOp d.toNat a.toNat a.toNat) := rfl
theorem exec_brevRadish (w : BitVec 13) (d : VReg) (a : VReg) (s : State) :
    exec (.brevRadish w d a) s = issue s (describe s (.brevRadish w d a)) (intB brevOp d.toNat a.toNat a.toNat) := rfl
theorem exec_bfeRadish (w : BitVec 13) (d : VReg) (a : VReg) (b : VReg) (s : State) :
    exec (.bfeRadish w d a b) s = issue s (describe s (.bfeRadish w d a b)) (fieldB bfeOp d.toNat a.toNat b.toNat) := rfl
theorem exec_bfiRadish (w : BitVec 13) (d : VReg) (a : VReg) (b : VReg) (s : State) :
    exec (.bfiRadish w d a b) s = issue s (describe s (.bfiRadish w d a b)) (fieldB bfiOp d.toNat a.toNat b.toNat) := rfl
theorem exec_movLaneRadish (w : BitVec 13) (d : VReg) (a : VReg) (s : State) :
    exec (.movLaneRadish w d a) s = issue s (describe s (.movLaneRadish w d a)) (intB movOp d.toNat a.toNat a.toNat) := rfl
theorem exec_moviRadish (w : BitVec 13) (d : VReg) (i : RImm) (s : State) :
    exec (.moviRadish w d i) s = issue s (describe s (.moviRadish w d i)) (moviB d.toNat) := rfl
theorem exec_leaRadish (w : BitVec 13) (d : VReg) (k : VReg) (b : BitVec 3) (off : RImm) (s : State) :
    exec (.leaRadish w d k b off) s = issue s (describe s (.leaRadish w d k b off)) (leaB d.toNat k b) := rfl
theorem exec_iaddiRadish (w : BitVec 13) (d : VReg) (a : VReg) (i : RImm) (s : State) :
    exec (.iaddiRadish w d a i) s = issue s (describe s (.iaddiRadish w d a i)) (iaddiB d.toNat a.toNat) := rfl
theorem exec_saddRadish (w : BitVec 13) (d : SReg) (a : SReg) (b : SReg) (s : State) :
    exec (.saddRadish w d a b) s = issue s (describe s (.saddRadish w d a b)) (scalB (· + ·) d a b) := rfl
theorem exec_ssubRadish (w : BitVec 13) (d : SReg) (a : SReg) (b : SReg) (s : State) :
    exec (.ssubRadish w d a b) s = issue s (describe s (.ssubRadish w d a b)) (scalB (· - ·) d a b) := rfl
theorem exec_smulRadish (w : BitVec 13) (d : SReg) (a : SReg) (b : SReg) (s : State) :
    exec (.smulRadish w d a b) s = issue s (describe s (.smulRadish w d a b)) (scalB (· * ·) d a b) := rfl
theorem exec_sandRadish (w : BitVec 13) (d : SReg) (a : SReg) (b : SReg) (s : State) :
    exec (.sandRadish w d a b) s = issue s (describe s (.sandRadish w d a b)) (scalB (· &&& ·) d a b) := rfl
theorem exec_sorRadish (w : BitVec 13) (d : SReg) (a : SReg) (b : SReg) (s : State) :
    exec (.sorRadish w d a b) s = issue s (describe s (.sorRadish w d a b)) (scalB (· ||| ·) d a b) := rfl
theorem exec_sxorRadish (w : BitVec 13) (d : SReg) (a : SReg) (b : SReg) (s : State) :
    exec (.sxorRadish w d a b) s = issue s (describe s (.sxorRadish w d a b)) (scalB (· ^^^ ·) d a b) := rfl
theorem exec_sshlRadish (w : BitVec 13) (d : SReg) (a : SReg) (b : SReg) (s : State) :
    exec (.sshlRadish w d a b) s = issue s (describe s (.sshlRadish w d a b)) (scalB sshlOp d a b) := rfl
theorem exec_sshrRadish (w : BitVec 13) (d : SReg) (a : SReg) (b : SReg) (s : State) :
    exec (.sshrRadish w d a b) s = issue s (describe s (.sshrRadish w d a b)) (scalB sshrOp d a b) := rfl
theorem exec_scmpRadish (w : BitVec 13) (c : BitVec 3) (p : BitVec 3) (a : SReg) (b : SReg) (s : State) :
    exec (.scmpRadish w c p a b) s = issue s (describe s (.scmpRadish w c p a b)) (scmpB c p a b) := rfl
theorem exec_smovRadish (w : BitVec 13) (d : SReg) (a : SReg) (s : State) :
    exec (.smovRadish w d a) s = issue s (describe s (.smovRadish w d a)) (smovB d a) := rfl
theorem exec_smoviRadish (w : BitVec 13) (d : SReg) (i : RImm) (s : State) :
    exec (.smoviRadish w d i) s = issue s (describe s (.smoviRadish w d i)) (smoviB (radPair i) d) := rfl
theorem exec_sleaRadish (w : BitVec 13) (d : SReg) (b : BitVec 3) (off : RImm) (s : State) :
    exec (.sleaRadish w d b off) s = issue s (describe s (.sleaRadish w d b off)) (sleaB d b) := rfl
theorem exec_vtosRadish (w : BitVec 13) (d : SReg) (a : VReg) (s : State) :
    exec (.vtosRadish w d a) s = issue s (describe s (.vtosRadish w d a)) (vtosB d a.toNat) := rfl
theorem exec_stovRadish (w : BitVec 13) (d : VReg) (a : SReg) (s : State) :
    exec (.stovRadish w d a) s = issue s (describe s (.stovRadish w d a)) (stovB d.toNat a) := rfl
theorem exec_sminRadish (w : BitVec 13) (d : SReg) (a : SReg) (b : SReg) (s : State) :
    exec (.sminRadish w d a b) s = issue s (describe s (.sminRadish w d a b)) (scalB sminOp d a b) := rfl
theorem exec_smaxRadish (w : BitVec 13) (d : SReg) (a : SReg) (b : SReg) (s : State) :
    exec (.smaxRadish w d a b) s = issue s (describe s (.smaxRadish w d a b)) (scalB smaxOp d a b) := rfl
theorem exec_faddRadish (w : BitVec 13) (d : VReg) (a : VReg) (b : VReg) (s : State) :
    exec (.faddRadish w d a b) s = issue s (describe s (.faddRadish w d a b)) (floatB faddOp d.toNat a.toNat b.toNat) := rfl
theorem exec_fsubRadish (w : BitVec 13) (d : VReg) (a : VReg) (b : VReg) (s : State) :
    exec (.fsubRadish w d a b) s = issue s (describe s (.fsubRadish w d a b)) (floatB fsubOp d.toNat a.toNat b.toNat) := rfl
theorem exec_fmulRadish (w : BitVec 13) (d : VReg) (a : VReg) (b : VReg) (s : State) :
    exec (.fmulRadish w d a b) s = issue s (describe s (.fmulRadish w d a b)) (floatB fmulOp d.toNat a.toNat b.toNat) := rfl
theorem exec_ffmaRadish (w : BitVec 13) (d : VReg) (a : VReg) (b : VReg) (s : State) :
    exec (.ffmaRadish w d a b) s = issue s (describe s (.ffmaRadish w d a b)) (floatB ffmaOp d.toNat a.toNat b.toNat) := rfl
theorem exec_fminRadish (w : BitVec 13) (d : VReg) (a : VReg) (b : VReg) (s : State) :
    exec (.fminRadish w d a b) s = issue s (describe s (.fminRadish w d a b)) (floatB fminOp d.toNat a.toNat b.toNat) := rfl
theorem exec_fmaxRadish (w : BitVec 13) (d : VReg) (a : VReg) (b : VReg) (s : State) :
    exec (.fmaxRadish w d a b) s = issue s (describe s (.fmaxRadish w d a b)) (floatB fmaxOp d.toNat a.toNat b.toNat) := rfl
theorem exec_fabsRadish (w : BitVec 13) (d : VReg) (a : VReg) (s : State) :
    exec (.fabsRadish w d a) s = issue s (describe s (.fabsRadish w d a)) (fsignB 0 d.toNat a.toNat a.toNat) := rfl
theorem exec_fnegRadish (w : BitVec 13) (d : VReg) (a : VReg) (s : State) :
    exec (.fnegRadish w d a) s = issue s (describe s (.fnegRadish w d a)) (fsignB 1 d.toNat a.toNat a.toNat) := rfl
theorem exec_fcmpRadish (w : BitVec 13) (c : BitVec 3) (p : BitVec 3) (a : VReg) (b : VReg) (s : State) :
    exec (.fcmpRadish w c p a b) s = issue s (describe s (.fcmpRadish w c p a b)) (fcmpB c p a.toNat b.toNat) := rfl
theorem exec_fclassRadish (w : BitVec 13) (d : VReg) (a : VReg) (s : State) :
    exec (.fclassRadish w d a) s = issue s (describe s (.fclassRadish w d a)) (fclassB d.toNat a.toNat) := rfl
theorem exec_fdivRadish (w : BitVec 13) (d : VReg) (a : VReg) (b : VReg) (s : State) :
    exec (.fdivRadish w d a b) s = issue s (describe s (.fdivRadish w d a b)) (floatB fdivOp d.toNat a.toNat b.toNat) := rfl
theorem exec_fsqrtRadish (w : BitVec 13) (d : VReg) (a : VReg) (s : State) :
    exec (.fsqrtRadish w d a) s = issue s (describe s (.fsqrtRadish w d a)) (floatB fsqrtOp d.toNat a.toNat a.toNat) := rfl
theorem exec_frndRadish (w : BitVec 13) (d : VReg) (a : VReg) (s : State) :
    exec (.frndRadish w d a) s = issue s (describe s (.frndRadish w d a)) (floatB frndOp d.toNat a.toNat a.toNat) := rfl
theorem exec_fldexpRadish (w : BitVec 13) (d : VReg) (a : VReg) (b : VReg) (s : State) :
    exec (.fldexpRadish w d a b) s = issue s (describe s (.fldexpRadish w d a b)) (fldexpB d.toNat a.toNat b.toNat) := rfl
theorem exec_fexpoRadish (w : BitVec 13) (d : VReg) (a : VReg) (s : State) :
    exec (.fexpoRadish w d a) s = issue s (describe s (.fexpoRadish w d a)) (fexpoB d.toNat a.toNat) := rfl
theorem exec_fsgnjRadish (w : BitVec 13) (d : VReg) (a : VReg) (b : VReg) (s : State) :
    exec (.fsgnjRadish w d a b) s = issue s (describe s (.fsgnjRadish w d a b)) (fsignB 2 d.toNat a.toNat b.toNat) := rfl
theorem exec_frcpRadish (w : BitVec 13) (d : VReg) (a : VReg) (s : State) :
    exec (.frcpRadish w d a) s = issue s (describe s (.frcpRadish w d a)) (sfuB 0 d.toNat a.toNat) := rfl
theorem exec_frsqRadish (w : BitVec 13) (d : VReg) (a : VReg) (s : State) :
    exec (.frsqRadish w d a) s = issue s (describe s (.frsqRadish w d a)) (sfuB 1 d.toNat a.toNat) := rfl
theorem exec_fex2Radish (w : BitVec 13) (d : VReg) (a : VReg) (s : State) :
    exec (.fex2Radish w d a) s = issue s (describe s (.fex2Radish w d a)) (sfuB 2 d.toNat a.toNat) := rfl
theorem exec_flg2Radish (w : BitVec 13) (d : VReg) (a : VReg) (s : State) :
    exec (.flg2Radish w d a) s = issue s (describe s (.flg2Radish w d a)) (sfuB 3 d.toNat a.toNat) := rfl
theorem exec_fsinRadish (w : BitVec 13) (d : VReg) (a : VReg) (s : State) :
    exec (.fsinRadish w d a) s = issue s (describe s (.fsinRadish w d a)) (sfuB 4 d.toNat a.toNat) := rfl
theorem exec_fcosRadish (w : BitVec 13) (d : VReg) (a : VReg) (s : State) :
    exec (.fcosRadish w d a) s = issue s (describe s (.fcosRadish w d a)) (sfuB 5 d.toNat a.toNat) := rfl
theorem exec_ftanhRadish (w : BitVec 13) (d : VReg) (a : VReg) (s : State) :
    exec (.ftanhRadish w d a) s = issue s (describe s (.ftanhRadish w d a)) (sfuB 6 d.toNat a.toNat) := rfl
theorem exec_cvtRadish (w : BitVec 13) (d : VReg) (a : VReg) (src : BitVec 4) (s : State) :
    exec (.cvtRadish w d a src) s = issue s (describe s (.cvtRadish w d a src)) (cvtB src.toNat d.toNat a.toNat) := rfl
theorem exec_cvtiRadish (w : BitVec 13) (d : VReg) (a : VReg) (src : BitVec 4) (s : State) :
    exec (.cvtiRadish w d a src) s = issue s (describe s (.cvtiRadish w d a src)) (cvtiB src.toNat d.toNat a.toNat) := rfl
theorem exec_packRadish (w : BitVec 13) (d : VReg) (a : VReg) (b : VReg) (s : State) :
    exec (.packRadish w d a b) s = issue s (describe s (.packRadish w d a b)) (packB d.toNat a.toNat b.toNat) := rfl
theorem exec_unpkRadish (w : BitVec 13) (d : VReg) (a : VReg) (s : State) :
    exec (.unpkRadish w d a) s = issue s (describe s (.unpkRadish w d a)) (unpkB d.toNat a.toNat) := rfl
theorem exec_qhistRadish (w : BitVec 13) (d : VReg) (a : VReg) (b : VReg) (s : State) :
    exec (.qhistRadish w d a b) s = issue s (describe s (.qhistRadish w d a b)) (qhistB d.toNat a.toNat b.toNat) := rfl
theorem exec_qscaleRadish (w : BitVec 13) (d : VReg) (a : VReg) (b : VReg) (s : State) :
    exec (.qscaleRadish w d a b) s = issue s (describe s (.qscaleRadish w d a b)) (qscaleB d.toNat a.toNat b.toNat) := rfl
theorem exec_quantRadish (w : BitVec 13) (d : VReg) (a : VReg) (b : VReg) (s : State) :
    exec (.quantRadish w d a b) s = issue s (describe s (.quantRadish w d a b)) (quantB d.toNat a.toNat b.toNat) := rfl
theorem exec_deqRadish (w : BitVec 13) (d : VReg) (a : VReg) (b : VReg) (s : State) :
    exec (.deqRadish w d a b) s = issue s (describe s (.deqRadish w d a b)) (deqB d.toNat a.toNat b.toNat) := rfl
theorem exec_qclrRadish (w : BitVec 13) (d : VReg) (s : State) :
    exec (.qclrRadish w d) s = issue s (describe s (.qclrRadish w d)) (qclrB d.toNat) := rfl
theorem exec_shflRadish (w : BitVec 13) (d : VReg) (a : VReg) (b : VReg) (s : State) :
    exec (.shflRadish w d a b) s = issue s (describe s (.shflRadish w d a b)) (shflB d.toNat a.toNat b.toNat) := rfl
theorem exec_shfluRadish (w : BitVec 13) (d : VReg) (a : VReg) (i : RImm) (s : State) :
    exec (.shfluRadish w d a i) s = issue s (describe s (.shfluRadish w d a i)) (shfluB d.toNat a.toNat) := rfl
theorem exec_shfldRadish (w : BitVec 13) (d : VReg) (a : VReg) (i : RImm) (s : State) :
    exec (.shfldRadish w d a i) s = issue s (describe s (.shfldRadish w d a i)) (shfldB d.toNat a.toNat) := rfl
theorem exec_shflxRadish (w : BitVec 13) (d : VReg) (a : VReg) (i : RImm) (s : State) :
    exec (.shflxRadish w d a i) s = issue s (describe s (.shflxRadish w d a i)) (shflxB d.toNat a.toNat) := rfl
theorem exec_voteRadish (w : BitVec 13) (d : SReg) (p : BitVec 3) (i : RImm) (s : State) :
    exec (.voteRadish w d p i) s = issue s (describe s (.voteRadish w d p i)) (voteB d p) := rfl
theorem exec_reduRadish (w : BitVec 13) (d : VReg) (a : VReg) (i : RImm) (s : State) :
    exec (.reduRadish w d a i) s = issue s (describe s (.reduRadish w d a i)) (reduB d.toNat a.toNat) := rfl
theorem exec_scanLanesRadish (w : BitVec 13) (d : VReg) (a : VReg) (i : RImm) (s : State) :
    exec (.scanLanesRadish w d a i) s = issue s (describe s (.scanLanesRadish w d a i)) (scanB d.toNat a.toNat) := rfl
theorem exec_matchLanesRadish (w : BitVec 13) (d : VReg) (a : VReg) (s : State) :
    exec (.matchLanesRadish w d a) s = issue s (describe s (.matchLanesRadish w d a)) (matchB d.toNat a.toNat) := rfl
theorem exec_bcastRadish (w : BitVec 13) (d : VReg) (a : VReg) (i : RImm) (s : State) :
    exec (.bcastRadish w d a i) s = issue s (describe s (.bcastRadish w d a i)) (bcastB d.toNat a.toNat) := rfl
theorem exec_firstLaneRadish (w : BitVec 13) (d : VReg) (a : VReg) (s : State) :
    exec (.firstLaneRadish w d a) s = issue s (describe s (.firstLaneRadish w d a)) (firstB d.toNat a.toNat) := rfl
theorem exec_ldGlobalRadish (w : BitVec 13) (d : VReg) (k : VReg) (sc : BitVec 3) (o : BitVec 2) (b : BitVec 3) (off : RImm) (s : State) :
    exec (.ldGlobalRadish w d k sc o b off) s = issue s (describe s (.ldGlobalRadish w d k sc o b off)) (loadB false d k sc o b) := rfl
theorem exec_stGlobalRadish (w : BitVec 13) (d : VReg) (k : VReg) (sc : BitVec 3) (o : BitVec 2) (b : BitVec 3) (off : RImm) (s : State) :
    exec (.stGlobalRadish w d k sc o b off) s = issue s (describe s (.stGlobalRadish w d k sc o b off)) (stB d k sc o b) := rfl
theorem exec_ldxRadish (w : BitVec 13) (d : VReg) (k : VReg) (sc : BitVec 3) (o : BitVec 2) (b : BitVec 3) (off : RImm) (s : State) :
    exec (.ldxRadish w d k sc o b off) s = issue s (describe s (.ldxRadish w d k sc o b off)) (loadB true d k sc o b) := rfl
theorem exec_stxRadish (w : BitVec 13) (d : VReg) (k : VReg) (sc : BitVec 3) (o : BitVec 2) (b : BitVec 3) (off : RImm) (s : State) :
    exec (.stxRadish w d k sc o b off) s = issue s (describe s (.stxRadish w d k sc o b off)) (stxB d k sc o b) := rfl
theorem exec_ldsRadish (w : BitVec 13) (d : VReg) (k : VReg) (off : RImm) (s : State) :
    exec (.ldsRadish w d k off) s = issue s (describe s (.ldsRadish w d k off)) (ldsB d k) := rfl
theorem exec_stsRadish (w : BitVec 13) (d : VReg) (k : VReg) (off : RImm) (s : State) :
    exec (.stsRadish w d k off) s = issue s (describe s (.stsRadish w d k off)) (stsB d k) := rfl
theorem exec_ldpRadish (w : BitVec 13) (d : VReg) (k : VReg) (off : RImm) (s : State) :
    exec (.ldpRadish w d k off) s = issue s (describe s (.ldpRadish w d k off)) (ldpB d k) := rfl
theorem exec_stpRadish (w : BitVec 13) (d : VReg) (k : VReg) (off : RImm) (s : State) :
    exec (.stpRadish w d k off) s = issue s (describe s (.stpRadish w d k off)) (stpB d k) := rfl
theorem exec_stnRadish (w : BitVec 13) (d : VReg) (k : VReg) (sc : BitVec 3) (o : BitVec 2) (b : BitVec 3) (off : RImm) (s : State) :
    exec (.stnRadish w d k sc o b off) s = issue s (describe s (.stnRadish w d k sc o b off)) (stnB d k sc o b) := rfl
theorem exec_srsetRadish (w : BitVec 13) (k : SReg) (s : State) :
    exec (.srsetRadish w k) s = issue s (describe s (.srsetRadish w k)) (srsetB k) := rfl
theorem exec_ataddRadish (w : BitVec 13) (d : VReg) (k : VReg) (sc : BitVec 3) (o : BitVec 2) (b : BitVec 3) (off : RImm) (s : State) :
    exec (.ataddRadish w d k sc o b off) s = issue s (describe s (.ataddRadish w d k sc o b off)) (atomicB 0 d k sc o b) := rfl
theorem exec_atminRadish (w : BitVec 13) (d : VReg) (k : VReg) (sc : BitVec 3) (o : BitVec 2) (b : BitVec 3) (off : RImm) (s : State) :
    exec (.atminRadish w d k sc o b off) s = issue s (describe s (.atminRadish w d k sc o b off)) (atomicB 1 d k sc o b) := rfl
theorem exec_atmaxRadish (w : BitVec 13) (d : VReg) (k : VReg) (sc : BitVec 3) (o : BitVec 2) (b : BitVec 3) (off : RImm) (s : State) :
    exec (.atmaxRadish w d k sc o b off) s = issue s (describe s (.atmaxRadish w d k sc o b off)) (atomicB 2 d k sc o b) := rfl
theorem exec_atandRadish (w : BitVec 13) (d : VReg) (k : VReg) (sc : BitVec 3) (o : BitVec 2) (b : BitVec 3) (off : RImm) (s : State) :
    exec (.atandRadish w d k sc o b off) s = issue s (describe s (.atandRadish w d k sc o b off)) (atomicB 3 d k sc o b) := rfl
theorem exec_atorRadish (w : BitVec 13) (d : VReg) (k : VReg) (sc : BitVec 3) (o : BitVec 2) (b : BitVec 3) (off : RImm) (s : State) :
    exec (.atorRadish w d k sc o b off) s = issue s (describe s (.atorRadish w d k sc o b off)) (atomicB 4 d k sc o b) := rfl
theorem exec_atxorRadish (w : BitVec 13) (d : VReg) (k : VReg) (sc : BitVec 3) (o : BitVec 2) (b : BitVec 3) (off : RImm) (s : State) :
    exec (.atxorRadish w d k sc o b off) s = issue s (describe s (.atxorRadish w d k sc o b off)) (atomicB 5 d k sc o b) := rfl
theorem exec_atxchRadish (w : BitVec 13) (d : VReg) (k : VReg) (sc : BitVec 3) (o : BitVec 2) (b : BitVec 3) (off : RImm) (s : State) :
    exec (.atxchRadish w d k sc o b off) s = issue s (describe s (.atxchRadish w d k sc o b off)) (atomicB 6 d k sc o b) := rfl
theorem exec_atcasRadish (w : BitVec 13) (d : VReg) (k : VReg) (sc : BitVec 3) (o : BitVec 2) (b : BitVec 3) (off : RImm) (s : State) :
    exec (.atcasRadish w d k sc o b off) s = issue s (describe s (.atcasRadish w d k sc o b off)) (atomicB 7 d k sc o b) := rfl
theorem exec_redaddRadish (w : BitVec 13) (d : VReg) (k : VReg) (sc : BitVec 3) (o : BitVec 2) (b : BitVec 3) (off : RImm) (s : State) :
    exec (.redaddRadish w d k sc o b off) s = issue s (describe s (.redaddRadish w d k sc o b off)) (reduceB 0 d k sc o b) := rfl
theorem exec_redminRadish (w : BitVec 13) (d : VReg) (k : VReg) (sc : BitVec 3) (o : BitVec 2) (b : BitVec 3) (off : RImm) (s : State) :
    exec (.redminRadish w d k sc o b off) s = issue s (describe s (.redminRadish w d k sc o b off)) (reduceB 1 d k sc o b) := rfl
theorem exec_redmaxRadish (w : BitVec 13) (d : VReg) (k : VReg) (sc : BitVec 3) (o : BitVec 2) (b : BitVec 3) (off : RImm) (s : State) :
    exec (.redmaxRadish w d k sc o b off) s = issue s (describe s (.redmaxRadish w d k sc o b off)) (reduceB 2 d k sc o b) := rfl
theorem exec_fenceRadish (w : BitVec 13) (sc : BitVec 3) (o : BitVec 2) (seq : Bool) (s : State) :
    exec (.fenceRadish w sc o seq) s = issue s (describe s (.fenceRadish w sc o seq)) (fenceB sc o seq) := rfl
theorem exec_ofenceRadish (w : BitVec 13) (sc : BitVec 3) (o : BitVec 2) (b : BitVec 3) (s : State) :
    exec (.ofenceRadish w sc o b) s = issue s (describe s (.ofenceRadish w sc o b)) (ofenceB sc o b) := rfl
theorem exec_rflushRadish (w : BitVec 13) (n : SReg) (b : BitVec 3) (off : RImm) (s : State) :
    exec (.rflushRadish w n b off) s = issue s (describe s (.rflushRadish w n b off)) (rangeB 0 n b) := rfl
theorem exec_rinvRadish (w : BitVec 13) (n : SReg) (b : BitVec 3) (off : RImm) (s : State) :
    exec (.rinvRadish w n b off) s = issue s (describe s (.rinvRadish w n b off)) (rangeB 1 n b) := rfl
theorem exec_pfetchRadish (w : BitVec 13) (k : VReg) (b : BitVec 3) (off : RImm) (s : State) :
    exec (.pfetchRadish w k b off) s = issue s (describe s (.pfetchRadish w k b off)) (pfetchB k b) := rfl
theorem exec_locateRadish (w : BitVec 13) (k : VReg) (b : BitVec 3) (off : RImm) (s : State) :
    exec (.locateRadish w k b off) s = issue s (describe s (.locateRadish w k b off)) (locateB k b) := rfl
theorem exec_reparkRadish (w : BitVec 13) (n : SReg) (b : BitVec 3) (off : RImm) (s : State) :
    exec (.reparkRadish w n b off) s = issue s (describe s (.reparkRadish w n b off)) (rangeB 2 n b) := rfl
theorem exec_unparkRadish (w : BitVec 13) (n : SReg) (b : BitVec 3) (off : RImm) (s : State) :
    exec (.unparkRadish w n b off) s = issue s (describe s (.unparkRadish w n b off)) (rangeB 3 n b) := rfl
theorem exec_objdefRadish (w : BitVec 13) (n : SReg) (b : BitVec 3) (s : State) :
    exec (.objdefRadish w n b) s = issue s (describe s (.objdefRadish w n b)) (objdefB n b) := rfl
theorem exec_objdelRadish (w : BitVec 13) (n : SReg) (s : State) :
    exec (.objdelRadish w n) s = issue s (describe s (.objdelRadish w n)) (objdelB n) := rfl
theorem exec_pcommitRadish (w : BitVec 13) (n : SReg) (b : BitVec 3) (off : RImm) (s : State) :
    exec (.pcommitRadish w n b off) s = issue s (describe s (.pcommitRadish w n b off)) (tileB 0xC0 n b) := rfl
theorem exec_pdecommitRadish (w : BitVec 13) (n : SReg) (b : BitVec 3) (off : RImm) (s : State) :
    exec (.pdecommitRadish w n b off) s = issue s (describe s (.pdecommitRadish w n b off)) (tileB 0xC1 n b) := rfl
theorem exec_allocBlockRadish (w : BitVec 13) (n : SReg) (s : State) :
    exec (.allocBlockRadish w n) s = issue s (describe s (.allocBlockRadish w n)) (allocB n) := rfl
theorem exec_freeBlockRadish (w : BitVec 13) (n : SReg) (s : State) :
    exec (.freeBlockRadish w n) s = issue s (describe s (.freeBlockRadish w n)) (freeB n) := rfl
theorem exec_pqueryRadish (w : BitVec 13) (n : SReg) (b : BitVec 3) (off : RImm) (s : State) :
    exec (.pqueryRadish w n b off) s = issue s (describe s (.pqueryRadish w n b off)) (tileB 0xC4 n b) := rfl
theorem exec_tcopyRadish (w : BitVec 13) (d : SReg) (a : SReg) (b : SReg) (s : State) :
    exec (.tcopyRadish w d a b) s = issue s (describe s (.tcopyRadish w d a b)) (tcopyB false d a b) := rfl
theorem exec_tcopymRadish (w : BitVec 13) (d : SReg) (a : SReg) (b : SReg) (s : State) :
    exec (.tcopymRadish w d a b) s = issue s (describe s (.tcopymRadish w d a b)) (tcopyB true d a b) := rfl
theorem exec_chainRadish (w : BitVec 13) (d : SReg) (a : SReg) (s : State) :
    exec (.chainRadish w d a) s = issue s (describe s (.chainRadish w d a)) (chainB d a) := rfl
theorem exec_bbinitRadish (w : BitVec 13) (a : SReg) (b : SReg) (s : State) :
    exec (.bbinitRadish w a b) s = issue s (describe s (.bbinitRadish w a b)) (bbinitB a b) := rfl
theorem exec_bbexpRadish (w : BitVec 13) (a : SReg) (b : SReg) (s : State) :
    exec (.bbexpRadish w a b) s = issue s (describe s (.bbexpRadish w a b)) (bbexpB a b) := rfl
theorem exec_bbwaitRadish (w : BitVec 13) (d : SReg) (a : SReg) (s : State) :
    exec (.bbwaitRadish w d a) s = issue s (describe s (.bbwaitRadish w d a)) (bbwaitB d a) := rfl
theorem exec_bbinvRadish (w : BitVec 13) (a : SReg) (s : State) :
    exec (.bbinvRadish w a) s = issue s (describe s (.bbinvRadish w a)) (bbinvB a) := rfl
theorem exec_bbarrRadish (w : BitVec 13) (a : SReg) (b : SReg) (s : State) :
    exec (.bbarrRadish w a b) s = issue s (describe s (.bbarrRadish w a b)) (bbarrB a b) := rfl
theorem exec_rinitRadish (w : BitVec 13) (a : SReg) (s : State) :
    exec (.rinitRadish w a) s = issue s (describe s (.rinitRadish w a)) (rinitB a) := rfl
theorem exec_racqRadish (w : BitVec 13) (d : SReg) (a : SReg) (s : State) :
    exec (.racqRadish w d a) s = issue s (describe s (.racqRadish w d a)) (ringGetB false d a) := rfl
theorem exec_rpubRadish (w : BitVec 13) (d : SReg) (a : SReg) (b : SReg) (s : State) :
    exec (.rpubRadish w d a b) s = issue s (describe s (.rpubRadish w d a b)) (rpubB d a b) := rfl
theorem exec_rtakeRadish (w : BitVec 13) (d : SReg) (a : SReg) (s : State) :
    exec (.rtakeRadish w d a) s = issue s (describe s (.rtakeRadish w d a)) (ringGetB true d a) := rfl
theorem exec_rdoneRadish (w : BitVec 13) (a : SReg) (b : SReg) (s : State) :
    exec (.rdoneRadish w a b) s = issue s (describe s (.rdoneRadish w a b)) (rdoneB a b) := rfl
theorem exec_rcloseRadish (w : BitVec 13) (a : SReg) (s : State) :
    exec (.rcloseRadish w a) s = issue s (describe s (.rcloseRadish w a)) (rcloseB a) := rfl
theorem exec_spushRadish (w : BitVec 13) (a : SReg) (b : SReg) (s : State) :
    exec (.spushRadish w a b) s = issue s (describe s (.spushRadish w a b)) (spushB a b) := rfl

end Sys2Proof.Machine
end

