-- ==== Sys2Proof/Machine/AsmText.lean ====
section
/-! DEFINITION. The text that jallas reads (R17 to R22): lines, labels, tokens, numbers, the two notations, and the suffix groups
of each class. -/
set_option linter.all false
namespace Sys2Proof.Asm

/-- An identifier, or any text. -/
abbrev Name := List Char

/-- Why jallas rejects a source, with the line it names (R17). -/
structure JErr where
  line : Nat
  why : String
  deriving DecidableEq, Repr

/-- A token of an operand. -/
inductive Tok where
  | id (n : Name)
  /-- a number, and whether it is written in hexadecimal -/
  | num (v : Int) (hex : Bool)
  | sym (c : Char)
  deriving DecidableEq, Repr

/-! ### Characters and numbers (R17) -/

def isLetter (c : Char) : Bool := ('a' ≤ c && c ≤ 'z') || ('A' ≤ c && c ≤ 'Z')
def isDig (c : Char) : Bool := '0' ≤ c && c ≤ '9'
def isWordChar (c : Char) : Bool := isLetter c || isDig c || c == '_'
def isBlank (c : Char) : Bool := c == ' ' || c == '\t' || c == '\r'
/-- The manual's minus sign and the keyboard's. -/
def isMinus (c : Char) : Bool := c == '-' || c == '−'
def lowerC (c : Char) : Char := if 'A' ≤ c && c ≤ 'Z' then Char.ofNat (c.toNat + 32) else c
def upperC (c : Char) : Char := if 'a' ≤ c && c ≤ 'z' then Char.ofNat (c.toNat - 32) else c

/-- The value of a digit of a base. -/
def digit (base : Nat) (c : Char) : Option Nat :=
  let v := if isDig c then c.toNat - 48 else if 'a' ≤ lowerC c && lowerC c ≤ 'f' then (lowerC c).toNat - 87 else 99
  if v < base then some v else none

/-- Digits of a base, with underscores only between digits; `ok` says that the character before was a digit. -/
def digits (base : Nat) : Bool → Nat → List Char → Option Nat
  | ok, acc, [] => if ok then some acc else none
  | ok, acc, c :: cs =>
    if c == '_' then (if ok then digits base false acc cs else none)
    else match digit base c with
      | some d => digits base true (acc * base + d) cs
      | none => none

/-- An unsigned number: decimal, or hexadecimal with the prefix 0x. -/
def natOf : List Char → Option Nat
  | '0' :: 'x' :: cs => digits 16 false 0 cs
  | cs => digits 10 false 0 cs

/-- Whether a number is written in hexadecimal. -/
def isHex : List Char → Bool
  | '0' :: 'x' :: _ => true
  | _ => false

/-- An identifier: a letter or "_", then letters, digits and "_". -/
def isIdent : Name → Bool
  | [] => false
  | c :: cs => (isLetter c || c == '_') && cs.all isWordChar

/-! ### Lines (R17) -/

def trimL (cs : List Char) : List Char := cs.dropWhile isBlank
def trim (cs : List Char) : List Char := (trimL (trimL cs).reverse).reverse

/-- The parts of a text between the occurrences of a character. -/
def splitAt (d : Char) : List Char → List (List Char)
  | [] => [[]]
  | c :: cs => match splitAt d cs with
    | [] => [[c]]
    | p :: ps => if c == d then [] :: p :: ps else (c :: p) :: ps

/-- The tokens of a text, none where a character or a number breaks R17; the fuel is its length. -/
def tokens : Nat → List Char → Option (List Tok)
  | 0, cs => if cs.all isBlank then some [] else none
  | n + 1, cs => match cs with
    | [] => some []
    | c :: rest =>
      if isBlank c then tokens n rest
      else if isLetter c || c == '_' then
        (tokens n (cs.dropWhile isWordChar)).map (.id (cs.takeWhile isWordChar) :: ·)
      else if isDig c then
        match natOf (cs.takeWhile isWordChar), tokens n (cs.dropWhile isWordChar) with
        | some v, some ts => some (.num v (isHex (cs.takeWhile isWordChar)) :: ts)
        | _, _ => none
      else if isMinus c then
        match natOf (rest.takeWhile isWordChar), tokens n (rest.dropWhile isWordChar) with
        | some v, some ts => some (.num (-(v : Int)) (isHex (rest.takeWhile isWordChar)) :: ts)
        | _, _ => none
      else if [',', ':', '[', ']', '(', ')', '+', '!'].contains c then (tokens n rest).map (.sym c :: ·)
      else none

def toks (cs : List Char) : Option (List Tok) := tokens cs.length cs

/-- The token lists between commas; none at all for no tokens. -/
def splitCommas (ts : List Tok) : List (List Tok) :=
  if ts.isEmpty then [] else
    ts.foldr (fun t acc => match acc with
      | [] => [[t]]
      | p :: ps => if t = .sym ',' then [] :: p :: ps else (t :: p) :: ps) [[]]

/-- What stands on a line after its label. -/
inductive Body where
  | none
  | dir (name : Name) (args : List (List Char))
  | ins (mnemonic : Name) (ops : List Char)
  deriving DecidableEq, Repr

structure Line where
  no : Nat
  label : Option Name
  body : Body
  deriving DecidableEq, Repr

/-- The text before a comment. -/
def uncomment (cs : List Char) : List Char := cs.takeWhile (· != ';')

/-- A label at the front of a line, and what follows it: an identifier, then ":". -/
def labelOf (cs : List Char) : Option Name × List Char :=
  let w := cs.takeWhile isWordChar
  match trimL (cs.dropWhile isWordChar) with
  | ':' :: rest => if isIdent w then (some w, trim rest) else (none, cs)
  | _ => (none, cs)

/-- A line of source (R17). -/
def lineOf (no : Nat) (cs : List Char) : Line :=
  let (lab, rest) := labelOf (trim (uncomment cs))
  match rest with
  | [] => ⟨no, lab, .none⟩
  | '.' :: r =>
    let args := trim (r.dropWhile isWordChar)
    ⟨no, lab, .dir (r.takeWhile isWordChar) (if args.isEmpty then [] else (splitAt ',' args).map trim)⟩
  | _ => ⟨no, lab, .ins (rest.takeWhile fun c => isWordChar c || c == '.') (trim (rest.dropWhile fun c => isWordChar c || c == '.'))⟩

/-- The lines of a source, numbered from 1. -/
def linesOf (src : List Char) : List Line :=
  (splitAt '\n' src).zipIdx.map fun l => lineOf (l.2 + 1) l.1

/-! ### Case (R18) -/

def allLower (n : Name) : Bool := n.all fun c => c == lowerC c
def allUpper (n : Name) : Bool := n.all fun c => c == upperC c

/-- A word of a line in the notation of its mnemonic, as its lower-case spelling; none where the cases mix. -/
def inCase (up : Bool) (n : Name) : Option Name :=
  if up then (if allUpper n then some (n.map lowerC) else none) else if allLower n then some n else none

/-- A word in the case of a notation. -/
def toCase (up : Bool) (n : Name) : Name := if up then n.map upperC else n.map lowerC

/-! ### Suffixes (R19 to R21) -/

/-- Table 1's groups in its order: 0 type, 1 rounding, 2 saturate, 3 flush, 4 scope, 5 order, 6 hint. -/
def suffixes : List (List String) :=
  [["s32", "n32", "f32", "f16", "bf16", "f64", "s64", "n64", "s16", "n16", "s8", "n8", "e4m3", "e5m2", "si8"],
   ["rne", "rtz", "rdn", "rup", "rna"],
   ["nosat", "sat"],
   ["noftz", "ftz"],
   ["group", "team", "cluster", "die", "device", "system"],
   ["relaxed", "acquire", "release", "acqrel"],
   ["hnone", "htaken", "hnot", "hdiv"]]

/-- A suffix's group and code. -/
def suffixOf (n : Name) : Option (Nat × Nat) :=
  suffixes.zipIdx.findSome? fun g => (g.1.findIdx? fun x => x == String.ofList n).map fun c => (g.2, c)

/-- How a group's code is spelled. -/
def suffixText (g c : Nat) : Name := ((suffixes.getD g []).getD c "").toList

/-- A guard is group 7: its code is MODE[3:0], the predicate and the invert bit. -/
def guardG : Nat := 7

/-- The suffix groups of a class, and whether it takes a guard (Table 2). -/
def takes (op : Nat) : Bool × List Nat :=
  if 0x30 ≤ op && op ≤ 0x4F then (true, [0, 2])
  else if (0x60 ≤ op && op ≤ 0x76) || (0x80 ≤ op && op ≤ 0x88) then (true, [0, 1, 2, 3])
  else if 0x90 ≤ op && op ≤ 0x99 then (true, [0])
  else if (0xA0 ≤ op && op ≤ 0xA3) || op == 0xA8 || (0xAA ≤ op && op ≤ 0xB4) then (true, [0, 4, 5])
  else if 0xA4 ≤ op && op ≤ 0xA7 then (true, [0])
  else if op == 0xB5 || op == 0xB6 then (false, [4, 5])
  else if 0x04 ≤ op && op ≤ 0x06 then (false, [6])
  else (false, [])

/-- The MODE fields a class takes: its groups 0 to 3, and the guard. -/
def takesMode (op : Nat) : List Nat := (takes op).2.filter (· < 4) ++ (if (takes op).1 then [guardG] else [])

/-- A group's lowest bit in MODE and its width (R43). -/
def modeAt (g : Nat) : Nat × Nat :=
  match g with
  | 0 => (4, 4)
  | 1 => (8, 3)
  | 2 => (11, 1)
  | 3 => (12, 1)
  | _ => (0, 4)

/-- A field of a MODE value. -/
def modeField (m g : Nat) : Nat := m / 2 ^ (modeAt g).1 % 2 ^ (modeAt g).2
/-- A MODE value with a field replaced. -/
def withField (m g c : Nat) : Nat := m - modeField m g * 2 ^ (modeAt g).1 + c * 2 ^ (modeAt g).1
/-- A MODE value with spelled fields replaced (R26). -/
def spell (m : Nat) (sp : List (Nat × Nat)) : Nat := sp.foldl (fun m x => withField m x.1 x.2) m

/-- The MODE of group entry (R25). -/
def entryMode : Nat := 0x20
/-- A MODE that jallas may emit: no reserved TYPE and no reserved RND (R20, R74) (DEDUCED, log 97). -/
def modeOk (m : Nat) : Bool := m < 2 ^ 13 && modeField m 0 < 15 && modeField m 1 < 5

/-- The suffixes of a line, in the order of Table 1 (R19); none where one is unknown, mixed in case or out of order. -/
def suffixesOf (up : Bool) (parts : List Name) : Option (List (Nat × Nat)) :=
  parts.foldr (fun p acc => match acc, (inCase up p).bind suffixOf with
    | some xs, some x => if xs.all (fun y => x.1 < y.1) then some (x :: xs) else none
    | _, _ => none) (some [])

/-- A guard at the front of the operands, (pn) or (!pn), and the tokens after it (R19). -/
def guardOf (up : Bool) (ts : List Tok) : Option (Option Nat × List Tok) :=
  let pred (n : Name) : Option Nat := match (inCase up n), n with
    | some ('p' :: ds), _ => (digits 10 false 0 ds).bind fun k => if k < 8 then some k else none
    | _, _ => none
  match ts with
  | .sym '(' :: .id n :: .sym ')' :: rest => (pred n).map fun k => (some k, rest)
  | .sym '(' :: .sym '!' :: .id n :: .sym ')' :: rest => (pred n).map fun k => (some (8 + k), rest)
  | .sym '(' :: _ => none
  | _ => some (none, ts)

/-! ### Writing a line -/

/-- The decimal digits of a number. -/
def natText (n : Nat) : Name := (Nat.toDigits 10 n)

/-- A token in a notation. A number keeps the base that the source gives it, without underscores or leading zeros, its
hexadecimal digits in lower case (DESIGN CHOICE, log 104). -/
def tokText (up : Bool) : Tok → Name
  | .id n => toCase up n
  | .num v hex => (if v < 0 then ['-'] else []) ++ if hex then '0' :: 'x' :: Nat.toDigits 16 v.natAbs else natText v.natAbs
  | .sym ':' => [':']
  | .sym '+' => [' ', '+', ' ']
  | .sym c => [c]

/-- An operand in a notation; a label keeps its case (R18). -/
def operandText (up isLabel : Bool) (ts : List Tok) : Name :=
  match ts with
  | .sym '[' :: .id n :: .sym ':' :: .id k :: rest =>
    '[' :: toCase up n ++ ':' :: ' ' :: toCase up k ++ rest.flatMap (tokText up)
  | _ => if isLabel then ts.flatMap fun t => match t with | .id n => n | t => tokText up t
  else ts.flatMap (tokText up)

/-- Texts with a separator between them. -/
def joinWith (sep : Name) : List Name → Name
  | [] => []
  | [x] => x
  | x :: xs => x ++ sep ++ joinWith sep xs

end Sys2Proof.Asm
end

