-- ==== Sys2Proof/Machine/AsmTable.lean ====
section
/-! DEFINITION. jallas's table of mnemonics: for each instruction its opcode and the operands of its compact form in chapters 05 to
09, with the fields of the Marrow word that they fill (R22, R61 to R71). -/
set_option linter.all false
namespace Sys2Proof.Asm

/-- An operand form of Table 3 or of an instruction's entry; `lo` is the lowest bit it fills in the word. -/
inductive Opd where
  /-- a v register, or a pair that starts at an even one -/
  | v (lo : Nat)
  | vPair (lo : Nat)
  | s (lo : Nat)
  | sPair (lo : Nat)
  /-- an s register or an even-odd pair -/
  | sOrPair (lo : Nat)
  /-- SMOVI's destination: a pair takes a 64-bit literal (R122) -/
  | sWide (lo : Nat)
  /-- an s register, or in the matrix role an m register (R167) -/
  | sm (lo : Nat)
  /-- the number b of a pair s(2b):s(2b+1), from `least` to 7 -/
  | pairNo (lo least : Nat)
  | p (lo : Nat)
  /-- BRD's predicate, with its invert bit below it (R86) -/
  | pInv (lo : Nat)
  | x (lo : Nat)
  | z (lo : Nat)
  | m (lo : Nat)
  /-- a number of a width in bits -/
  | num (lo width : Nat)
  /-- a count from 1 to 4 less one (R90) -/
  | lines (lo : Nat)
  | point (lo : Nat)
  /-- a word of a list, whose code is its place -/
  | kw (lo : Nat) (words : List String)
  /-- the same as a form I immediate -/
  | kwImm (words : List String)
  /-- a form I immediate, with a literal where it does not fit -/
  | imm
  /-- a form I immediate of a limited range -/
  | immTo (limit : Nat)
  /-- global memory with an offset register and a byte offset -/
  | mem
  /-- a base pair, with a byte offset where `off` -/
  | base (off : Bool)
  /-- local store and lane-private memory -/
  | near (pre : String)
  | bar
  /-- a label, and the width of its offset -/
  | label (width : Nat)
  /-- BRX's labels -/
  | table
  /-- a word that may be left out -/
  | opt (lo : Nat) (word : String)
  deriving DecidableEq, Repr

/-- An instruction line. -/
structure Ins where
  op : Nat
  /-- the 24 payload bits, without an offset, an immediate, and the fields of scope, order and hint -/
  pay : Nat
  /-- an immediate, or a byte offset where `isOff` -/
  imm : Option Int
  isOff : Bool
  /-- a form I immediate that takes a literal where it does not fit -/
  lit : Bool
  /-- SMOVI to a pair -/
  pair : Bool
  labels : List Name
  width : Nat
  deriving DecidableEq, Repr

def Ins.plus (i : Ins) (v lo : Nat) : Ins := { i with pay := i.pay + v * 2 ^ lo }

/-! ### Operands -/

/-- A register name: its file's letter or letters, then its number, which is written as R17 writes decimal numbers: leading zeros
and underscores between digits are allowed (DESIGN CHOICE, log 104). -/
def regNo (up : Bool) (pre : String) (limit : Nat) (n : Name) : Option Nat :=
  match inCase up n with
  | some l =>
    if l.take pre.length = pre.toList then
      (digits 10 false 0 (l.drop pre.length)).bind fun k => if k < limit then some k else none
    else none
  | none => none

/-- A register, or the even register of a pair and whether a pair is written. -/
def regOrPair (up : Bool) (pre : String) (limit : Nat) : List Tok → Option (Nat × Bool)
  | [.id n] => (regNo up pre limit n).map (·, false)
  | [.id n, .sym ':', .num k _] => (regNo up pre limit n).bind fun r =>
      if r % 2 = 0 && k == (r : Int) + 1 then some (r, true) else none
  | _ => none

/-- The place of a word in a list, in the notation of its line. -/
def wordNo (up : Bool) (words : List String) : List Tok → Option Nat
  | [.id n] => (inCase up n).bind fun l => words.findIdx? fun w => w == String.ofList l
  | _ => none

/-- A number from 0 below a limit. -/
def numBelow (limit : Nat) : List Tok → Option Nat
  | [.num v _] => if 0 ≤ v && v < limit then some v.toNat else none
  | _ => none

/-- A byte offset's range (R22). -/
def offOk (v : Int) : Bool := -(2 ^ 31) ≤ v && v < 2 ^ 31

/-- The offset register and the byte offset after a base: "+ vk", "+ offset", both in this order, or neither (R22)
(DEDUCED, log 104). -/
def offsets (up reg : Bool) (ts : List Tok) : Option (Nat × Int) :=
  let off (k : Nat) : List Tok → Option (Nat × Int)
    | [.sym ']'] => some (k, 0)
    | [.sym '+', .num v _, .sym ']'] => if offOk v then some (k, v) else none
    | _ => none
  match ts with
  | .sym '+' :: .id n :: rest => if reg then (regNo up "v" 255 n).bind fun k => off k rest else none
  | ts => off 0xFF ts

/-- [s2b:2b+1 …]: the pair's number, the offset register and the byte offset (R22). -/
def globalMem (up reg : Bool) : List Tok → Option (Nat × Nat × Int)
  | .sym '[' :: .id n :: .sym ':' :: .num k h :: rest => (regOrPair up "s" 16 [.id n, .sym ':', .num k h]).bind fun r =>
      (offsets up reg rest).map fun o => (r.1 / 2, o)
  | _ => none

/-- [ls: …] and [pv: …] (R151), with or without the offset register (R70) (DEDUCED, log 104). -/
def nearMem (up : Bool) (pre : String) : List Tok → Option (Nat × Int)
  | .sym '[' :: .id n :: .sym ':' :: rest =>
    if inCase up n = some pre.toList then
      match rest with
      | .num v _ :: [.sym ']'] => if offOk v then some (0xFF, v) else none
      | .id _ :: _ => offsets up true (.sym '+' :: rest)
      | _ => none
    else none
  | _ => none

/-- The names of the types that CVT and CVTI name as their source: codes 0 to 0xB (R129). -/
def sourceTypes : List String := (suffixes.getD 0 []).take 12

def conds : List String := ["eq", "ne", "lt", "le", "gt", "ge"]

/-- A hardware barrier: its class and index (R97, R98). -/
def barNo (up : Bool) : List Tok → Option Nat
  | [.id n] => ([("tb", 16), ("kb", 8), ("gb", 4)].zipIdx).findSome? fun c => (regNo up c.1.1 c.1.2 n).map (c.2 * 16 + ·)
  | _ => none

/-- What an operand adds to its instruction; none where it breaks its form. -/
def operand (up matrix : Bool) (o : Opd) (ts : List Tok) (i : Ins) : Option Ins :=
  match o with
  | .v lo => (regOrPair up "v" 256 ts).map fun r => i.plus r.1 lo
  | .vPair lo => (regOrPair up "v" 256 ts).bind fun r => if r.2 then some (i.plus r.1 lo) else none
  | .s lo => (regOrPair up "s" 64 ts).bind fun r => if r.2 then none else some (i.plus r.1 lo)
  | .sPair lo => (regOrPair up "s" 64 ts).bind fun r => if r.2 then some (i.plus r.1 lo) else none
  | .sOrPair lo => (regOrPair up "s" 64 ts).map fun r => i.plus r.1 lo
  | .sWide lo => (regOrPair up "s" 64 ts).map fun r => { i.plus r.1 lo with pair := r.2 }
  | .sm lo => (regOrPair up (if matrix then "m" else "s") (if matrix then 16 else 64) ts).bind fun r =>
      if r.2 then none else some (i.plus r.1 lo)
  | .pairNo lo least => (regOrPair up "s" 16 ts).bind fun r => if r.2 && least ≤ r.1 / 2 then some (i.plus (r.1 / 2) lo) else none
  | .p lo => match ts with
    | [.id n] => (regNo up "p" 8 n).map (i.plus · lo)
    | _ => none
  | .pInv lo => match ts with
    | [.id n] => (regNo up "p" 8 n).map (i.plus · lo)
    | [.sym '!', .id n] => (regNo up "p" 8 n).map fun k => (i.plus k lo).plus 1 (lo - 1)
    | _ => none
  | .x lo => match ts with
    | [.id n] => (regNo up "x" 8 n).map (i.plus · lo)
    | _ => none
  | .z lo => match ts with
    | [.id n] => (regNo up "z" 192 n).map (i.plus · lo)
    | _ => none
  | .m lo => match ts with
    | [.id n] => (regNo up "m" 16 n).map (i.plus · lo)
    | _ => none
  | .num lo w => (numBelow (2 ^ w) ts).map (i.plus · lo)
  | .lines lo => (numBelow 5 ts).bind fun k => if k = 0 then none else some (i.plus (k - 1) lo)
  | .point lo => (numBelow 0xFFFF ts).map (i.plus · lo)
  | .kw lo ws => (wordNo up ws ts).map (i.plus · lo)
  | .kwImm ws => (wordNo up ws ts).map fun k => { i with imm := some (k : Int) }
  | .imm => match ts with
    | [.num v _] => some { i with imm := some v, lit := true }
    | _ => none
  | .immTo n => (numBelow (n + 1) ts).map fun k => { i with imm := some (k : Int) }
  | .mem => (globalMem up true ts).map fun a => { (i.plus a.1 0).plus a.2.1 8 with imm := some a.2.2, isOff := true }
  | .base off => (globalMem up false ts).bind fun a =>
      if off then some { (i.plus a.1 0).plus 0xFF 8 with imm := some a.2.2, isOff := true }
      else if a.2.2 = 0 then some ((i.plus a.1 0).plus 0xFF 8) else none
  | .near pre => (nearMem up pre ts).map fun a => { i.plus a.1 8 with imm := some a.2, isOff := true }
  | .bar => (barNo up ts).map (i.plus · 0)
  | .label w => match ts with
    | [.id n] => some { i with labels := [n], width := w }
    | _ => none
  | .table => none
  | .opt lo w => if wordNo up [w] ts = some 0 then some (i.plus 1 lo) else none

/-- The labels of a BRX. -/
def labelNames : List (List Tok) → Option (List Name)
  | [] => some []
  | [.id n] :: rest => (labelNames rest).map (n :: ·)
  | _ => none

/-- The operands of a line; a BRX takes all that are left as its table, from 1 to 255 (R87). -/
def operands (up matrix : Bool) : List Opd → List (List Tok) → Ins → Option Ins
  | [], [], i => some i
  | [.opt _ _], [], i => some i
  | [.table], ts, i => if 1 ≤ ts.length && ts.length ≤ 255 then (labelNames ts).map fun ls => { i.plus ls.length 0 with labels := ls }
      else none
  | o :: os, t :: ts, i => (operand up matrix o t i).bind (operands up matrix os ts)
  | _, _, _ => none

/-! ### The mnemonics -/

/-- A mnemonic: its opcode, its operands, and payload bits that every word of it has. -/
structure Mnem where
  name : String
  op : Nat
  ops : List Opd
  fixed : Nat
  deriving DecidableEq, Repr

def mn (op : Nat) (name : String) (ops : List Opd) (fixed : Nat := 0) : Mnem := ⟨name, op, ops, fixed⟩
/-- d, a, b and d, a over v registers (R61). -/
def vvv (op : Nat) (name : String) : Mnem := mn op name [.v 16, .v 8, .v 0]
def vv (op : Nat) (name : String) : Mnem := mn op name [.v 16, .v 8]
def sss (op : Nat) (name : String) : Mnem := mn op name [.s 16, .s 8, .s 0]
/-- A load, store, atomic or reduction (R149). -/
def gm (op : Nat) (name : String) : Mnem := mn op name [.v 16, .mem]
def zm (op : Nat) (name : String) : Mnem := mn op name [.z 16, .m 0]

/-- Control (R84 to R112). SETM's and EQP's lines are written as R83 and R32 allow. -/
def mnemsControl : List Mnem :=
  [mn 0x00 "nop" [], mn 0x01 "setm" [.num 0 13], mn 0x02 "setms" [.s 0], mn 0x03 "getm" [.s 0],
   mn 0x04 "bra" [.label 22], mn 0x05 "brd" [.pInv 19, .label 18], mn 0x06 "brx" [.v 8, .table],
   mn 0x07 "call" [.pairNo 21 1, .label 21], mn 0x08 "ret" [.pairNo 0 1], mn 0x09 "mark" [.label 22], mn 0x0A "join" [],
   mn 0x0B "ppush" [.p 0], mn 0x0C "pinv" [], mn 0x0D "ppop" [], mn 0x0E "emrd" [.s 0], mn 0x0F "emwr" [.s 0],
   mn 0x10 "waitc" [.num 18 6, .num 12 6, .num 8 4, .num 4 4], mn 0x11 "cbatch" [], mn 0x12 "waitb" [.num 0 16],
   mn 0x13 "bar" [.bar], mn 0x14 "bara" [.bar], mn 0x15 "barw" [.bar], mn 0x16 "drain" [.bar],
   mn 0x18 "migr" [.kw 16 ["marrow", "radish"], .point 0], mn 0x19 "rolesw" [.num 0 3], mn 0x1A "yield" [], mn 0x1B "exit" [],
   mn 0x1C "trap" [.num 0 16], mn 0x1D "xret" [.kw 0 ["replay", "skip"]], mn 0x1E "xrd" [.s 8, .num 0 8],
   mn 0x1F "xwr" [.s 8, .num 0 8], mn 0x20 "sread" [.sOrPair 8, .num 0 8], mn 0x21 "launch" [.pairNo 0 0], mn 0x22 "ifence" [],
   mn 0x23 "cpref" [.label 22, .lines 22], mn 0x24 "snooze" [.num 0 16], mn 0x25 "loop" [.s 18, .label 18]]

/-- Vector integer and logic, and scalar (R115 to R123). -/
def mnemsInt : List Mnem :=
  [vvv 0x30 "iadd", vvv 0x31 "isub", vvv 0x32 "imul", vvv 0x33 "imulh", vvv 0x34 "imad", vvv 0x35 "idiv", vvv 0x36 "irem",
   vvv 0x37 "imin", vvv 0x38 "imax", vv 0x39 "iabs", vv 0x3A "ineg", vvv 0x3B "iaddc",
   mn 0x3C "icmp" [.p 16, .kw 21 conds, .v 8, .v 0], vvv 0x3D "sel", vvv 0x3E "and", vvv 0x3F "or", vvv 0x40 "xor", vv 0x41 "not",
   vvv 0x42 "shl", vvv 0x43 "shr", vvv 0x44 "sar", vvv 0x45 "rotl", vv 0x46 "popc", vv 0x47 "clz", vv 0x48 "ctz", vv 0x49 "brev",
   vvv 0x4A "bfe", vvv 0x4B "bfi", vv 0x4C "mov", mn 0x4D "movi" [.v 16, .imm], mn 0x4E "lea" [.vPair 16, .mem],
   mn 0x4F "iaddi" [.v 16, .v 8, .imm]] ++
  [sss 0x50 "sadd", sss 0x51 "ssub", sss 0x52 "smul", sss 0x53 "sand", sss 0x54 "sor", sss 0x55 "sxor", sss 0x56 "sshl",
   sss 0x57 "sshr", mn 0x58 "scmp" [.p 16, .kw 21 conds, .s 8, .s 0], mn 0x59 "smov" [.s 16, .s 8],
   mn 0x5A "smovi" [.sWide 16, .imm], mn 0x5B "slea" [.sPair 16, .base true], mn 0x5C "vtos" [.s 16, .v 8],
   mn 0x5D "stov" [.v 16, .s 8], sss 0x5E "smin", sss 0x5F "smax"]

/-- Floating point, conversion, quantisation and cross-lane (R124 to R141). -/
def mnemsFloat : List Mnem :=
  [vvv 0x60 "fadd", vvv 0x61 "fsub", vvv 0x62 "fmul", vvv 0x63 "ffma", vvv 0x64 "fmin", vvv 0x65 "fmax", vv 0x66 "fabs", vv 0x67 "fneg",
   mn 0x68 "fcmp" [.p 16, .kw 21 (conds ++ ["uo"]), .v 8, .v 0], vv 0x69 "fclass", vvv 0x6A "fdiv", vv 0x6B "fsqrt", vv 0x6C "frnd",
   vvv 0x6D "fldexp", vv 0x6E "fexpo", vvv 0x6F "fsgnj", vv 0x70 "frcp", vv 0x71 "frsq", vv 0x72 "fex2", vv 0x73 "flg2",
   vv 0x74 "fsin", vv 0x75 "fcos", vv 0x76 "ftanh"] ++
  [mn 0x80 "cvt" [.v 16, .v 8, .kw 0 sourceTypes], mn 0x81 "cvti" [.v 16, .v 8, .kw 0 sourceTypes], vvv 0x82 "pack", vv 0x83 "unpk",
   vvv 0x84 "qhist", vvv 0x85 "qscale", vvv 0x86 "quant", vvv 0x87 "deq", mn 0x88 "qclr" [.v 16]] ++
  [vvv 0x90 "shfl", mn 0x91 "shflu" [.v 16, .v 8, .immTo 31], mn 0x92 "shfld" [.v 16, .v 8, .immTo 31],
   mn 0x93 "shflx" [.v 16, .v 8, .immTo 31], mn 0x94 "vote" [.s 16, .p 8, .kwImm ["all", "any", "ballot"]],
   mn 0x95 "redu" [.v 16, .v 8, .kwImm ["add", "mul", "min", "max", "and", "or", "xor"]],
   mn 0x96 "scan" [.v 16, .v 8, .kwImm ["add", "mul", "min", "max", "and", "or", "xor"]], vv 0x97 "match",
   mn 0x98 "bcast" [.v 16, .v 8, .immTo 31], vv 0x99 "first"]

/-- Memory (R149 to R166). -/
def mnemsMemory : List Mnem :=
  [gm 0xA0 "ld", gm 0xA1 "st", gm 0xA2 "ldx", gm 0xA3 "stx", mn 0xA4 "lds" [.v 16, .near "ls"], mn 0xA5 "sts" [.v 16, .near "ls"],
   mn 0xA6 "ldp" [.v 16, .near "pv"], mn 0xA7 "stp" [.v 16, .near "pv"], gm 0xA8 "stn", mn 0xA9 "srset" [.s 0], gm 0xAA "atadd",
   gm 0xAB "atmin", gm 0xAC "atmax", gm 0xAD "atand", gm 0xAE "ator", gm 0xAF "atxor", gm 0xB0 "atxch", gm 0xB1 "atcas",
   gm 0xB2 "redadd", gm 0xB3 "redmin", gm 0xB4 "redmax"] ++
  [mn 0xB5 "fence" [.opt 0 "sc"] 0xFF00, mn 0xB6 "ofence" [.base false], mn 0xB7 "rflush" [.s 16, .base true],
   mn 0xB8 "rinv" [.s 16, .base true], mn 0xB9 "pfetch" [.mem], mn 0xBA "locate" [.mem], mn 0xBB "repark" [.s 16, .base true],
   mn 0xBC "unpark" [.s 16, .base true], mn 0xBD "objdef" [.s 16, .base false], mn 0xBE "objdel" [.s 16] 0xFF00,
   mn 0xC0 "pcommit" [.s 16, .base true], mn 0xC1 "pdecommit" [.s 16, .base true], mn 0xC2 "alloc" [.sPair 16] 0xFF00,
   mn 0xC3 "free" [.sPair 16] 0xFF00, mn 0xC4 "pquery" [.s 16, .base true]]

/-- The asynchronous engines and the matrix stream (R167, R186). -/
def mnemsEngine : List Mnem :=
  [mn 0xC8 "tcopy" [.s 16, .s 8, .sPair 0], mn 0xC9 "tcopym" [.s 16, .s 8, .sPair 0], mn 0xCA "chain" [.s 16, .s 8],
   mn 0xCB "bbinit" [.s 8, .s 0], mn 0xCC "bbexp" [.s 8, .s 0], mn 0xCD "bbwait" [.s 16, .s 8], mn 0xCE "bbinv" [.s 8],
   mn 0xCF "bbarr" [.s 8, .s 0], mn 0xD0 "rinit" [.s 8], mn 0xD1 "racq" [.s 16, .s 8], mn 0xD2 "rpub" [.s 16, .s 8, .s 0],
   mn 0xD3 "rtake" [.sm 16, .sm 8], mn 0xD4 "rdone" [.sm 8, .sm 0], mn 0xD5 "rclose" [.s 8], mn 0xD6 "spush" [.s 8, .s 0]] ++
  [mn 0xE0 "mma.64.64.64" [.z 16, .x 8, .m 0, .opt 11 "reuse"], mn 0xE1 "mma.64.128.64" [.z 16, .x 8, .m 0, .opt 11 "reuse"],
   mn 0xE2 "mma.128.128.64" [.z 16, .x 8, .m 0, .opt 11 "reuse"], mn 0xE3 "mma.128.64.128" [.z 16, .x 8, .m 0, .opt 11 "reuse"],
   mn 0xE4 "fbset" [.m 0], mn 0xE5 "xld" [.x 8, .m 0], mn 0xE6 "xldr" [.x 8, .m 0], zm 0xE7 "zclr", zm 0xE8 "zcvt", zm 0xE9 "zst",
   zm 0xEA "zld", zm 0xEB "zadd", zm 0xEC "zscl"]

def mnems : List Mnem := mnemsControl ++ mnemsInt ++ mnemsFloat ++ mnemsMemory ++ mnemsEngine

/-- An instruction line read (R18 to R22). -/
structure Read where
  up : Bool
  m : Mnem
  ins : Ins
  /-- the groups 0 to 6 and the guard that the line spells -/
  sp : List (Nat × Nat)
  ops : List (List Tok)
  deriving DecidableEq, Repr

/-- Whether an operand's words are labels. -/
def Opd.isLabel : Opd → Bool
  | .label _ => true
  | .table => true
  | _ => false

/-- A suffix group that neither notation may write on a class that does not take it: scope, order and hint (R21). -/
def fieldGroup (g : Nat) : Bool := 4 ≤ g && g < 7

/-- The groups a line writes are those its class and notation allow (R21): a compact line some of its class's, a verbose line
all of them and further MODE fields; FENCE and OFENCE both of theirs. -/
def spellOk (up : Bool) (op : Nat) (sp : List (Nat × Nat)) : Bool :=
  let written := sp.map (·.1)
  let cls := (takes op).2 ++ (if (takes op).1 then [guardG] else [])
  if up then cls.all written.contains && written.all fun g => cls.contains g || !fieldGroup g
  else written.all cls.contains && (op != 0xB5 && op != 0xB6 || cls.all written.contains)

/-- Reads an instruction line: its mnemonic and suffixes, its guard, its operands; or why it is rejected. -/
def readIns (matrix : Bool) (word : Name) (rest : List Char) : Except String Read :=
  let up := match word with
    | c :: _ => c != lowerC c
    | [] => false
  match inCase up word with
  | none => .error "the cases of the mnemonic and its suffixes differ (R18)"
  | some w =>
    let parts := splitAt '.' w
    let whole := mnems.find? fun (m : Mnem) => m.name == String.ofList w
    let m? : Option (Mnem × List Name) := match whole with
      | some m => some (m, [])
      | none => (mnems.find? fun (m : Mnem) => m.name == String.ofList (parts.headD [])).map fun m => (m, parts.drop 1)
    match m? with
    | none => .error "no such mnemonic"
    | some (m, sufs) =>
      if up && (m.op == 1 || m.op == 2) then .error "SETM and SETMS have no verbose form (R83)"
      else match suffixesOf false sufs, toks rest with
        | some sp, some ts => match guardOf up ts with
          | some (g, ts) =>
            let sp := sp ++ (match g with | some c => [(guardG, c)] | none => [])
            if !spellOk up m.op sp then .error "the suffixes are not those of the class (R21)"
            else
              let ops := splitCommas ts
              match operands up matrix m.ops ops ⟨m.op, m.fixed, none, false, false, false, [], 0⟩ with
              | some i =>
                let scope := ((sp.find? (·.1 == 4)).map (·.2)).getD 4
                let order := ((sp.find? (·.1 == 5)).map (·.2)).getD 0
                let hint := ((sp.find? (·.1 == 6)).map (·.2)).getD 0
                let i := if (takes m.op).2.contains 4 then (i.plus scope 5).plus order 3 else i
                let i := if (takes m.op).2.contains 6 then i.plus hint 22 else i
                if m.op == 0xB5 && i.pay % 2 == 1 && order != 3 then .error "SC needs the order acqrel (R70)"
                else .ok ⟨up, m, i, sp, ops⟩
              | none => .error "an operand breaks its form (R22)"
          | none => .error "the guard breaks its form (R19)"
        | _, _ => .error "a suffix or a token breaks R17, R19 or R20"

/-- An operand's tokens as the verbose notation writes them: the byte offset of a memory operand is written where it is zero as
well (R144). -/
def Opd.verbose (o : Opd) (ts : List Tok) : List Tok :=
  let zero : List Tok := ts.dropLast ++ [.sym '+', .num 0 false, .sym ']']
  -- a number after '+' is an offset; one after ':' is one in near memory, and the odd register of a base pair elsewhere
  match o, ts.reverse with
  | .base false, _ => ts
  | .near _, .sym ']' :: .num _ _ :: _ => ts
  | .near _, _ => zero
  | .mem, .sym ']' :: .num _ _ :: .sym '+' :: _ => ts
  | .mem, _ => zero
  | .base true, .sym ']' :: .num _ _ :: .sym '+' :: _ => ts
  | .base true, _ => zero
  | _, _ => ts

/-- The text of a line in a notation, with the suffixes and the guard given (R19, R28). -/
def Read.text (r : Read) (up : Bool) (sp : List (Nat × Nat)) : Name :=
  let suf := (List.range 7).flatMap fun g => match sp.find? (·.1 == g) with
    | some x => '.' :: toCase up (suffixText g x.2)
    | none => []
  let guard := match sp.find? (·.1 == guardG) with
    | some x => [' ', '('] ++ (if 8 ≤ x.2 then ['!'] else []) ++ toCase up ('p' :: natText (x.2 % 8)) ++ [')']
    | none => []
  let labels := (List.range r.ops.length).map fun k => ((r.m.ops.getD k .table).isLabel)
  let shown := r.ops.zipIdx.map fun o => if up then (r.m.ops.getD o.2 .table).verbose o.1 else o.1
  let ops := joinWith [',', ' '] ((shown.zip labels).map fun o => operandText up o.2 o.1)
  toCase up r.m.name.toList ++ suf ++ guard ++ (if r.ops.isEmpty then [] else ' ' :: ops)

end Sys2Proof.Asm
end

