-- ==== Sys2Proof/Machine/AsmMode.lean ====
section
/-! DEFINITION. jallas's pass over a kernel: its directives (R24), the tracked mode of Table 5 (R25 to R27), where a SETM is placed and
what each notation writes (R28, R29), and the MODE each Radish word carries (R30). -/
set_option linter.all false
namespace Sys2Proof.Asm
open Sys2Proof.Machine

/-! ### Lines of a kernel -/

inductive PBody where
  | none
  | dir (name : Name) (args : List (List Char))
  | ins (r : Read)
  deriving DecidableEq, Repr

structure PLine where
  no : Nat
  label : Option Name
  body : PBody
  deriving DecidableEq, Repr

/-- The value of a directive's number. -/
def numArg (cs : List Char) : Option Int :=
  match toks cs with
  | some [.num v _] => some v
  | _ => none

/-- The value of a directive's number within a range. -/
def natArg (lo hi : Nat) (cs : List Char) : Option Nat :=
  (numArg cs).bind fun v => if (lo : Int) ≤ v && v ≤ (hi : Int) then some v.toNat else none

/-- Reads the lines of a kernel: what stands after .data is data up to the next .role, and the role's kind decides whether RTAKE
and RDONE name m registers. -/
def readLines (matrix data : Bool) : List Line → Except JErr (List PLine)
  | [] => .ok []
  | l :: ls => match l.body with
    | .none => (readLines matrix data ls).map (⟨l.no, l.label, .none⟩ :: ·)
    | .dir n args =>
      let matrix := if n = "role".toList then args.getD 1 [] = "matrix".toList else matrix
      let data := if n = "role".toList then false else data || n = "data".toList
      (readLines matrix data ls).map (⟨l.no, l.label, .dir n args⟩ :: ·)
    | .ins w rest =>
      if data then .error ⟨l.no, "an instruction after .data"⟩
      else match readIns matrix w rest with
        | .ok r => (readLines matrix data ls).map (⟨l.no, l.label, .ins r⟩ :: ·)
        | .error e => .error ⟨l.no, e⟩

/-! ### What labels are used for -/

/-- Branches that transfer to their label: BRA, BRD, CALL and LOOP (R26) (DEDUCED, log 98). -/
def isDirect (op : Nat) : Bool := op == 0x04 || op == 0x05 || op == 0x07 || op == 0x25

/-- The direct branches of a kernel, each with its label and line, and the labels used otherwise than as a branch target. -/
structure Refs where
  direct : List (Name × Nat)
  other : List Name
  deriving DecidableEq, Repr

def refsOf (ls : List PLine) : Refs :=
  ⟨ls.flatMap fun l => match l.body with
      | .ins r => if isDirect r.m.op then r.ins.labels.map (·, l.no) else []
      | _ => [],
   ls.flatMap fun l => match l.body with
      | .ins r => if r.m.op == 6 then r.ins.labels else []
      | .dir n args => if n = "byte".toList || n = "word".toList || n = "quad".toList || n = "handler".toList then args else []
      | .none => []⟩

/-! ### The tracked mode -/

/-- The tracked mode: a MODE, unknown, or set at run time by SETMS (R26, R27). -/
inductive TM where
  | known (m : Nat)
  | unknown
  | runtime
  deriving DecidableEq, Repr

def TM.known? : TM → Option Nat
  | .known m => some m
  | _ => none

/-- An instruction of the kernel, as the sections will hold it. -/
structure Item where
  no : Nat
  role : Nat
  matrix : Bool
  /-- the SETM that jallas places before it in the Marrow section (R28, R29) -/
  setm : Option Nat
  ins : Ins
  /-- the MODE its Radish word carries (R30), which is the MODE in force where `exact` -/
  mode : Nat
  exact : Bool
  /-- pads to this boundary with NOPs instead (.align) -/
  pad : Nat
  deriving DecidableEq, Repr

/-- SETM and SETMS have no Radish word (R79). -/
def Item.marrowOnly (i : Item) : Bool := i.matrix || i.ins.op == 1 || i.ins.op == 2

structure RoleDef where
  name : Name
  kind : Nat
  count : Nat
  regs : Option Nat
  cls : Nat
  switch : List Name
  members : Nat
  /-- the item at its entry -/
  first : Nat
  deriving DecidableEq, Repr

/-- An equivalence point of the text: its number, role, item and slot base. -/
structure PointDef where
  no : Nat
  n : Nat
  role : Nat
  item : Nat
  base : Option Nat
  deriving DecidableEq, Repr

/-- Data: bytes, or the value of a label in a width. -/
inductive Datum where
  | bytes (bs : List Byte)
  | label (width : Nat) (n : Name) (no : Nat)
  deriving DecidableEq, Repr

def Datum.size : Datum → Nat
  | .bytes bs => bs.length
  | .label w _ _ => w

/-- A kernel as the pass over its text builds it. -/
structure Kern where
  name : Name
  team : Option Nat
  w : Nat
  h : Nat
  ls : Nat
  carve : Nat
  handler : Option Name
  grid : Nat × Nat × Nat
  accum : Nat
  priv : Nat
  policy : Nat
  startRadish : Bool
  warm : List (Name × Nat)
  roles : List RoleDef
  items : List Item
  labels : List (Name × Nat)
  points : List PointDef
  /-- what stands after .data, and its labels -/
  data : List Datum
  dataLabels : List (Name × Nat)
  inData : Bool
  /-- what .ring and .bbar lay out in local store -/
  local_ : List (Nat × List Byte)
  localLabels : List (Name × Nat)
  localEnd : Nat
  tm : TM
  /-- the verbose tracked mode (R28) -/
  vt : TM
  /-- the next line is reached by fall-through -/
  falls : Bool
  /-- a .mode that stands before the next line -/
  pend : Option Nat
  /-- the .mode of each label that has one -/
  expects : List (Name × Nat)
  /-- the modes at each branch so far to a label -/
  seen : List (Name × TM × TM)
  lastPoint : Option Nat
  /-- R28 leaves it without a verbose form -/
  noVerbose : Bool
  verbose : List Name
  compact : List Name

def Kern.start (n : Name) : Kern :=
  ⟨n, none, 1, 1, 0, 0, none, (1, 1, 1), 0, 0, 0, false, [], [], [], [], [], [], [], false, [], [], 0, .unknown, .unknown, false, none, [], [],
   none, false, [], []⟩

def Kern.roleNo (k : Kern) : Nat := k.roles.length - 1
def Kern.inMatrix (k : Kern) : Bool := match k.roles.getLast? with
  | some r => r.kind == 2
  | none => false

/-- The verbose text, and the compact text, gains a line. -/
def Kern.say (k : Kern) (v c : List Name) : Kern := { k with verbose := k.verbose ++ v, compact := k.compact ++ c }

/-- A label that more than one path reaches, or a backward branch, or whose address is used otherwise (Table 5)
(DEDUCED, log 98). -/
def merges (R : Refs) (n : Name) (no : Nat) (falls : Bool) : Bool :=
  let ds := R.direct.filter (·.1 == n)
  R.other.contains n || 2 ≤ ds.length || (1 ≤ ds.length && falls) || ds.any (no ≤ ·.2)

/-- The tracked modes at a label, without a .mode (Table 5). -/
def labelModes (R : Refs) (k : Kern) (n : Name) (no : Nat) : TM × TM :=
  if merges R n no k.falls then (.unknown, .unknown)
  else match R.direct.any (·.1 == n), k.seen.find? (·.1 == n) with
    | true, some x => x.2
    | _, _ => (k.tm, k.vt)

/-- A path whose known mode differs from a .mode (R26). -/
def differs (t : TM) (v : Nat) : Bool := match t with
  | .known m => m != v
  | _ => false

/-- A label is defined once in a kernel (R17). -/
def Kern.defines (k : Kern) (n : Name) : Bool :=
  k.labels.any (·.1 == n) || k.dataLabels.any (·.1 == n) || k.localLabels.any (·.1 == n)

/-- The start of a line: its .mode, and its label (R26). The label of a .data line names the data that follows; one before the
first .role names the entry of that role; one on a .role line after .data still names the data (DESIGN CHOICE, log 105). -/
def lineStart (R : Refs) (k : Kern) (no : Nat) (label : Option Name) (isData : Bool) : Except JErr Kern :=
  match label with
  | none => match k.pend with
    | none => .ok k
    | some v =>
      if k.falls && differs k.tm v then .error ⟨no, ".mode differs from the tracked mode (R26)"⟩
      else .ok { k with tm := .known v, vt := .known v, pend := none }
  | some n =>
    if k.defines n then .error ⟨no, "a label is defined twice (R17)"⟩
    else if k.inData || isData then .ok { k with dataLabels := k.dataLabels ++ [(n, (k.data.map Datum.size).sum)] }
    else
      let t := labelModes R k n no
      let bad := match k.pend with
        | some v => (k.falls && differs k.tm v) || k.seen.any fun x => x.1 == n && differs x.2.1 v
        | none => false
      if bad then .error ⟨no, ".mode differs from the tracked mode of a path (R26)"⟩
      else
        let (a, b) := match k.pend with
          | some v => (TM.known v, TM.known v)
          | none => t
        .ok (Kern.say { k with
            labels := k.labels ++ [(n, k.items.length)]
            tm := a
            vt := b
            falls := true
            pend := none
            expects := match k.pend with
              | some v => k.expects ++ [(n, v)]
              | none => k.expects } [n ++ [':']] [n ++ [':']])

/-- What a line leaves of the tracked modes, by its opcode (Table 5). -/
def afterLine (op : Nat) (k : Kern) : Kern :=
  if op == 0x07 || op == 0x06 then { k with tm := .unknown, vt := .unknown, falls := true }
  else if op == 0x04 || op == 0x08 || op == 0x1B || op == 0x1D || op == 0x19 then { k with tm := .unknown, vt := .unknown, falls := false }
  else { k with falls := true }

/-- The fields a verbose line writes for a MODE: its class's, and those in which the MODE differs from the verbose tracked
mode (R28). -/
def verboseFields (op : Nat) (m : Nat) (vt : TM) : List (Nat × Nat) :=
  let v := vt.known?.getD entryMode
  ([0, 1, 2, 3, guardG].filter fun g => (takesMode op).contains g || modeField m g != modeField v g).map fun g => (g, modeField m g)

/-- Scope, order and hint as both notations write them: the line's own, or Table 2's defaults. -/
def wordFields (r : Read) : List (Nat × Nat) :=
  ([4, 5, 6].filter (takes r.m.op).2.contains).map fun g =>
    (g, match r.sp.find? (·.1 == g) with
      | some x => x.2
      | none => if g == 4 then 4 else 0)

/-! ### Lane registers and the widths of their values (R22, R39) -/

/-- Registers that stand for the v operands of a line, all apart, so that what an instruction does with each is seen. -/
def standIn (j : Nat) : Nat := 16 * (j + 1)

/-- The line's word with the stand-ins in place of its v operands. -/
def standInWord (r : Read) : Word :=
  let pay := r.m.ops.zipIdx.foldl (fun p x => match x.1 with
    | .v lo => p - p / 2 ^ lo % 256 * 2 ^ lo + standIn x.2 * 2 ^ lo
    | _ => p) r.ins.pay
  BitVec.ofNat 32 (r.ins.op * 2 ^ 24 + pay)

/-- How many registers each v operand's value takes under a type; 0 for a run of registers that is no 64-bit value: UNPK's, a
histogram, ATCAS's two values of 32 bits. -/
def valueRegs (r : Read) (ty j : Nat) : Nat :=
  if (r.m.op = 0x83 ∧ j = 0) ∨ r.m.op = 0x84 ∨ r.m.op = 0x85 ∨ r.m.op = 0x88 ∨ (r.m.op = 0xB1 ∧ regsOf ty = 1) then 0
  else
    let w := standInWord r
    match decodeMarrow w (List.replicate (marrowExtra w) 0) with
    | .error _ => 0
    | .ok i => (((describe State.reset i).uses ty).find? fun u => u.file == 0 && u.num == standIn j).elim 0 (·.n)

/-- A 64-bit value is written as an even-odd pair, or named by its even register as R39 names it; any other value is not written as
a pair (R22, R39) (DEDUCED, log 104). -/
def pairsOk (r : Read) (mode : Nat) : Bool :=
  (r.m.ops.zip r.ops).zipIdx.all fun x => match x.1.1 with
    | .v _ => match regOrPair r.up "v" 256 x.1.2, valueRegs r (modeField mode 0) x.2 with
      | some (_, true), n => n != 1
      | some (v, false), n => n != 2 || v % 2 == 0
      | none, _ => true
    | _ => true

/-- An instruction line under the tracked mode: the MODE it takes, the SETM before it, and the modes after it (R27 to R29)
(DEDUCED, log 103). -/
def insLine (k : Kern) (no : Nat) (r : Read) : Except JErr Kern :=
  let sp := r.sp.filter fun x => !fieldGroup x.1
  let needs := (takes r.m.op).1
  let put (k : Kern) (setm : Option Nat) (mode : Nat) (exact : Bool) : Kern :=
    { k with items := k.items ++ [⟨no, k.roleNo, k.inMatrix, setm, r.ins, mode, exact, 0⟩] }
  let setmText (o : Option Nat) : List Name := match o with
    | some m => ["setm ".toList ++ natText m]
    | none => []
  -- both texts of a line whose MODE is m
  let texts (k : Kern) (m : Nat) (setm : Option Nat) : Kern :=
    -- the matrix stream has no MODE: its lines write no further field (R186)
    let vf := (verboseFields r.m.op m k.vt).filter fun x => !k.inMatrix || (takesMode r.m.op).contains x.1
    { k.say [r.text true (vf ++ wordFields r)] (setmText setm ++ [r.text false (wordFields r)]) with
      vt := if vf.isEmpty then k.vt else .known m }
  let plain (k : Kern) : Kern := k.say [r.text true (wordFields r)] [r.text false (wordFields r)]
  -- the MODE whose type the registers' widths follow, where it is known or does not matter
  let widths (m : Nat) : Bool := pairsOk r m
  let untyped : Bool := !(takesMode r.m.op).contains 0
  let bad : Except JErr Kern := .error ⟨no, "a pair for a value of 32 bits, or an odd register for one of 64 (R22, R39)"⟩
  if r.m.op == 1 then
    if modeOk r.ins.pay then .ok { put (k.say [] [r.text false []]) none r.ins.pay true with tm := .known r.ins.pay }
    else .error ⟨no, "a reserved MODE value (R20)"⟩
  else if r.m.op == 2 then .ok { put (k.say [] [r.text false []]) none 0 false with tm := .runtime }
  else if r.up then
    let m := spell (k.tm.known?.getD entryMode) sp
    if sp.isEmpty && k.tm.known?.isNone then (if untyped && !widths 0 then bad else .ok (plain (put k none m false)))
    else if !widths m then bad
    else
      let setm := if sp.isEmpty || k.tm = .known m then none else some m
      .ok { texts (put k setm m true) m setm with tm := .known m }
  else match k.tm with
    | .known t =>
      let m := spell t sp
      let setm := if m = t then none else some m
      if !widths m then bad
      else .ok { texts (put k setm m true) m setm with tm := .known m }
    | .unknown =>
      if needs then .error ⟨no, "a compact line needs a MODE field and the tracked mode is unknown (R27)"⟩
      else if untyped && !widths 0 then bad
      else .ok (plain (put k none (k.vt.known?.getD entryMode) false))
    | .runtime =>
      if needs && !sp.isEmpty then .error ⟨no, "a MODE suffix while MODE is set at run time (R27)"⟩
      else if untyped && !widths 0 then bad
      else .ok { plain (put k none (k.vt.known?.getD entryMode) false) with noVerbose := k.noVerbose || needs }

/-- An instruction line: its place, its branches' paths, and what follows it (R26, R102). -/
def insStmt (k : Kern) (no : Nat) (r : Read) : Except JErr Kern :=
  if k.roles.isEmpty then .error ⟨no, "an instruction before the first .role (R24)"⟩
  else if r.m.op == 0x18 && k.lastPoint != some (r.ins.pay % 2 ^ 16) then .error ⟨no, "migr does not follow .eqp with its number (R102)"⟩
  else match insLine k no r with
    | .error e => .error e
    | .ok k =>
      let paths := if isDirect r.m.op || r.m.op == 6 then r.ins.labels else []
      if paths.any fun n => k.expects.any fun x => x.1 == n && differs k.tm x.2 then
        .error ⟨no, "the tracked mode differs from the label's .mode (R26)"⟩
      else .ok { afterLine r.m.op { k with seen := k.seen ++ paths.map fun n => (n, k.tm, k.vt) } with lastPoint := none }

/-! ### Directives (R24) -/

/-- Replaces the current role. -/
def Kern.role (k : Kern) (f : RoleDef → RoleDef) : Kern :=
  { k with roles := k.roles.dropLast ++ (match k.roles.getLast? with | some r => [f r] | none => []) }

/-- The decimals of .float: digits with at most one point, as a sign, an integer and a power of ten. -/
def decimal (cs : List Char) : Option (Bool × Nat × Nat) :=
  let (neg, ds) := match cs with
    | c :: r => if isMinus c then (true, r) else (false, cs)
    | [] => (false, [])
  match splitAt '.' ds with
  | [a] => (digits 10 false 0 a).map fun v => (neg, v, 0)
  | [a, b] =>
    -- an underscore stands between digits of one side of the point (R17); one side may be empty
    let part (x : List Char) : Bool := x.isEmpty || (digits 10 false 0 x).isSome
    if part a && part b then (digits 10 false 0 (a ++ b)).map fun v => (neg, v, (b.filter (· != '_')).length) else none
  | _ => none

/-- A decimal as binary32, rounded once with RNE; none where it overflows (R24, the chapter on arithmetic results). -/
def floatBits (cs : List Char) : Option Nat :=
  (decimal cs).bind fun d =>
    let num := d.2.1 * 2 ^ 200
    let den := 10 ^ d.2.2
    let r := (roundTo Machine.f32 0 false d.1 (num / den) (-200) (num % den != 0)).1
    if r % 2 ^ 31 = Machine.f32.infBits then none else some r

/-- A value of .byte, .word or .quad, of a width in bytes. -/
def datum (width no : Nat) (cs : List Char) : Option Datum :=
  match numArg cs with
  | some v => if -(2 ^ (8 * width - 1) : Int) ≤ v && v < 2 ^ (8 * width) then
      some (.bytes (natLe width (v % 2 ^ (8 * width)).toNat)) else none
  | none => if isIdent cs then some (.label width cs no) else none

def allSome {α : Type} : List (Option α) → Option (List α)
  | [] => some []
  | some x :: xs => (allSome xs).map (x :: ·)
  | none :: _ => none

/-- The 128-byte layout record (R169): base, format, rank, flags, then rank extents, rank strides and rank box extents
(DESIGN CHOICE, log 99). -/
def layoutBytes (vs : List Nat) : Option (List Byte) :=
  let r := vs.getD 2 0
  let put (w lo : Nat) : List Byte := (List.range 8).flatMap fun i => natLe w (if i < r then vs.getD (lo + i) 0 else 0)
  if 1 ≤ r && r ≤ 8 && vs.length = 4 + 3 * r then
    some (natLe 8 (vs.getD 0 0) ++ natLe 1 (vs.getD 1 0) ++ natLe 1 r ++ natLe 2 (vs.getD 3 0) ++ natLe 4 0 ++
      put 4 4 ++ put 8 (4 + r) ++ put 2 (4 + 2 * r))
  else none

/-- The next multiple of a boundary. -/
def alignUp (a n : Nat) : Nat := if n = 0 then a else (a + n - 1) / n * n

/-- Pads data to a boundary with zero bytes. -/
def Kern.padData (k : Kern) (n : Nat) : Kern :=
  let size := (k.data.map Datum.size).sum
  { k with data := k.data ++ [.bytes (List.replicate (alignUp size n - size) 0)] }

/-- The directives that lay out data (R24, R169, R176, R179). .byte, .word, .quad, .float and .layout are accepted only after .data, and
.align before the first .role only there (DESIGN CHOICE, log 99). The NOPs that .align puts in code are reached by fall-through only where the line before them is
left by fall-through (R26). -/
def dataDir (k : Kern) (no : Nat) (n : String) (args : List (List Char)) : Option Kern :=
  match n with
  | "byte" => if k.inData && !args.isEmpty then (allSome (args.map (datum 1 no))).map fun d => { k with data := k.data ++ d } else none
  | "word" => if k.inData && !args.isEmpty then (allSome (args.map (datum 4 no))).map fun d => { k with data := k.data ++ d } else none
  | "quad" => if k.inData && !args.isEmpty then (allSome (args.map (datum 8 no))).map fun d => { k with data := k.data ++ d } else none
  | "float" => if k.inData && !args.isEmpty then (allSome (args.map floatBits)).map fun d =>
      { k with data := k.data ++ d.map fun v => .bytes (natLe 4 v) } else none
  | "align" => match args with
    | [a] => (natArg 1 (2 ^ 64 - 1) a).bind fun v =>
        if 2 ^ Nat.log2 v ≠ v then none
        else if k.inData then some (k.padData v)
        else if k.roles.isEmpty then none
        else some { k with items := k.items ++
          [⟨no, k.roleNo, k.inMatrix, none, ⟨0, 0, none, false, false, false, [], 0⟩, k.tm.known?.getD entryMode, false, v⟩] }
    | _ => none
  | "layout" => match args with
    | a :: vs => if k.inData && isIdent a && !k.defines a then
        (allSome (vs.map (natArg 0 (2 ^ 64 - 1)))).bind fun xs => (layoutBytes xs).map fun bs =>
          let k := k.padData 128
          { k with dataLabels := k.dataLabels ++ [(a, (k.data.map Datum.size).sum)], data := k.data ++ [.bytes bs] }
      else none
    | [] => none
  | "ring" => match args with
    | [a, ns, sz] => match natArg 2 64 ns, natArg 32 65536 sz with
      | some n, some b =>
        if isIdent a && !k.defines a && b % 16 = 0 then
          let d := alignUp k.localEnd 32
          some { k with
            local_ := k.local_ ++ [(d, natLe 4 (d + 32) ++ natLe 4 b ++ natLe 1 n ++ List.replicate 23 0)]
            localLabels := k.localLabels ++ [(a, d)]
            localEnd := d + 32 + n * b }
        else none
      | _, _ => none
    | _ => none
  | "bbar" => match args with
    | [a] => if isIdent a && !k.defines a then
        let d := alignUp k.localEnd 16
        some { k with localLabels := k.localLabels ++ [(a, d)], localEnd := d + 16 }
      else none
    | _ => none
  | _ => none

/-- The directives that fill the launch record (R24, R271 to R273). -/
def recordDir (k : Kern) (n : String) (args : List (List Char)) : Option Kern :=
  let one (lo hi : Nat) (f : Nat → Kern) : Option Kern := match args with
    | [a] => (natArg lo hi a).map f
    | _ => none
  match n with
  | "team" => one 0 32 fun v => { k with team := some v }
  | "cluster" => match args.map (natArg 1 12) with
    | [some w, some h] => if w * h ≤ 12 then some { k with w := w, h := h } else none
    | _ => none
  | "ls" => one 0 524288 fun v => { k with ls := v }
  | "carve" => one 0 256 fun v => { k with carve := v }
  | "handler" => match args with
    | [a] => if isIdent a then some { k with handler := some a } else none
    | _ => none
  | "grid" => match args.map (natArg 1 65535) with
    | [some x, some y, some z] => some { k with grid := (x, y, z) }
    | _ => none
  | "accum" => one 0 192 fun v => { k with accum := v }
  | "private" => (one 0 (4 * 65535) fun v => { k with priv := v }).bind fun k => if k.priv % 4 = 0 then some k else none
  | "migrate" => match args with
    | [p, c] => match ["none".toList, "migr".toList, "any".toList].findIdx? (· == p), ["marrow".toList, "radish".toList].findIdx? (· == c) with
      | some p, some c => some { k with policy := p, startRadish := c == 1 }
      | _, _ => none
    | _ => none
  | "warm" => match args with
    | [a, l] => (natArg 1 32 l).bind fun l => if isIdent a && k.warm.length < 8 then some { k with warm := k.warm ++ [(a, l)] } else none
    | _ => none
  | "regs" => if k.roles.isEmpty || k.inMatrix then none else
      (one 16 256 fun v => k.role fun r => { r with regs := some v }).bind fun k =>
        if (k.roles.getLast?.bind (·.regs)).getD 0 % 8 = 0 then some k else none
  | "class" => if k.roles.isEmpty then none else one 0 3 fun v => k.role fun r => { r with cls := v }
  | "switch" => if k.roles.isEmpty || args.isEmpty || !args.all isIdent then none else some (k.role fun r => { r with switch := r.switch ++ args })
  | "member" => if k.roles.isEmpty || args.isEmpty then none else
      (allSome (args.map fun a => (toks a).bind (barNo false))).map fun bs =>
        k.role fun r => { r with members := bs.foldl (fun m b => m ||| 2 ^ (if b < 16 then b else if b < 32 then b else b - 8)) r.members }
  | _ => none

/-- The tracked mode at the entry of a role: that of R25, but unknown where branches or other uses of a label reach it too (Table 5); none
where a .mode at such a label differs from it (R26). -/
def roleMode (R : Refs) (k : Kern) (kind : Nat) : Option TM :=
  let here := (k.labels.filter (·.2 == k.items.length)).map (·.1)
  match k.expects.find? fun e => here.contains e.1 with
  | some e => if e.2 = entryMode then some (.known entryMode) else none
  | none =>
    if kind < 2 && here.any (fun n => R.other.contains n || R.direct.any (·.1 == n)) then some .unknown else some (.known entryMode)

/-- A directive of a kernel. A second .eqp with one number in one role, and an .eqp in the matrix role, are rejected
(DESIGN CHOICE, log 105). -/
def dirStmt (R : Refs) (k : Kern) (no : Nat) (n : Name) (args : List (List Char)) : Except JErr Kern :=
  let bad : Except JErr Kern := .error ⟨no, "a directive breaks its form (R24)"⟩
  let k := { k with lastPoint := none }
  let raw := [('.' :: n ++ ' ' :: joinWith [',', ' '] args)]
  match String.ofList n with
  | "mode" => match args with
    | [a] => (match natArg 0 (2 ^ 13 - 1) a with
      | some v => if modeOk v && !k.inData then .ok { k.say raw raw with pend := some v } else bad
      | none => bad)
    | _ => bad
  | "role" => match args with
    | [a, kd, c] =>
      (match ["copy".toList, "vector".toList, "matrix".toList].findIdx? (· == kd), natArg 1 32 c with
      | some kind, some count => match roleMode R k kind with
        | none => .error ⟨no, ".mode differs from the tracked mode of a path (R26)"⟩
        | some tm => if isIdent a && k.roles.length < 8 && !(k.roles.any fun r => r.name == a) && (kind < 2 || count = 1) then
          .ok { k.say raw raw with
            roles := k.roles ++ [⟨a, kind, count, none, 2, [], 0, k.items.length⟩]
            inData := false
            tm := tm
            vt := tm
            falls := true }
        else bad
      | _, _ => bad)
    | _ => bad
  | "data" => if args.isEmpty then .ok { k.say raw raw with inData := true } else bad
  | "eqp" =>
    let ns := match args with
      | [a] => (natArg 0 0xFFFE a).map (·, none)
      | [a, b] => match natArg 0 0xFFFE a, natArg 0 262144 b with
        | some n, some v => if v % 128 = 0 then some (n, some v) else none
        | _, _ => none
      | _ => none
    match ns, k.tm with
    | some (n, base), .known m =>
      if k.roles.isEmpty || k.inMatrix || k.inData || k.points.any (fun p => p.n == n && p.role == k.roleNo) then bad
      else .ok { k.say raw raw with
        points := k.points ++ [⟨no, n, k.roleNo, k.items.length, base⟩]
        items := k.items ++ [⟨no, k.roleNo, false, none, ⟨0x17, n, none, false, false, false, [], 0⟩, m, true, 0⟩]
        falls := true
        lastPoint := some n }
    | some _, _ => .error ⟨no, "the tracked mode at .eqp is unknown or set at run time (R32)"⟩
    | none, _ => bad
  | s => match recordDir k s args with
    | some k => .ok (k.say raw raw)
    | none => match dataDir k no s args with
      | some k => .ok (k.say raw raw)
      | none => bad

/-- A line of a kernel; a blank line is none. -/
def stmt (R : Refs) (k : Kern) (l : PLine) : Except JErr Kern :=
  match l.label, l.body with
  | none, .none => .ok k
  | _, _ => match lineStart R k l.no l.label (match l.body with
      | .dir n _ => n = "data".toList
      | _ => false) with
    | .error e => .error e
    | .ok k => match l.body with
      | .none => .ok k
      | .dir n args => dirStmt R k l.no n args
      | .ins r => insStmt k l.no r

/-- The lines of a kernel in text order. -/
def stmts (R : Refs) : Kern → List PLine → Except JErr Kern
  | k, [] => .ok k
  | k, l :: ls => match stmt R k l with
    | .ok k => stmts R k ls
    | .error e => .error e

end Sys2Proof.Asm
end

