-- ==== Sys2Proof/Machine/AsmLive.lean ====
section
/-! DEFINITION. What jallas finds out about a role's code for its state-mapping tables: where control can go, which v registers are live at
a point (R351), the predicate-stack depth there (R352), and whether a call reaches it (R88). -/
set_option linter.all false
namespace Sys2Proof.Asm
open Sys2Proof.Machine

/-- The item a label stands at. -/
def Kern.at (k : Kern) (n : Name) : Option Nat := (k.labels.find? (·.1 == n)).map (·.2)

/-- The items of an instruction's labels. -/
def Kern.targets (k : Kern) (i : Ins) : List Nat := i.labels.filterMap k.at

/-- Where control goes after an item: the next item, its branch's targets (R85 to R89). A RET, EXIT, XRET or ROLESW leaves the text. -/
def successors (k : Kern) (j : Nat) (i : Item) : List Nat :=
  let op := i.ins.op
  if op == 0x04 then k.targets i.ins
  else if op == 0x05 || op == 0x06 || op == 0x25 then (j + 1) :: k.targets i.ins
  else if op == 0x08 || op == 0x1B || op == 0x1D || op == 0x19 then []
  else [j + 1]

/-- The same with CALL's target and the line after it: both are reached. -/
def successorsC (k : Kern) (j : Nat) (i : Item) : List Nat :=
  if i.ins.op == 0x07 then (j + 1) :: k.targets i.ins else successors k j i

/-- The nodes reached from a list by a successor function; the fuel bounds the visits. -/
def reach {α : Type} [DecidableEq α] (next : α → List α) : Nat → List α → List α → List α
  | 0, _, seen => seen
  | _ + 1, [], seen => seen
  | n + 1, x :: todo, seen => if x ∈ seen then reach next n todo seen else reach next n (next x ++ todo) (x :: seen)

/-- A bound on the edges of a search with a number of states for each item. -/
def fuelOf (k : Kern) (states : Nat) : Nat :=
  ((k.items.map fun i => i.ins.labels.length + 2).sum + 2) * states

/-! ### The predicate stack at a point (R352) -/

/-- Where a fragment is and what structured state it has there: the depth of its predicate stack, and the depth saved by each MARK
that is open, the innermost first. -/
structure Place where
  at_ : Nat
  depth : Nat
  marks : List Nat
  deriving DecidableEq, Repr

/-- The structured state after an instruction (R51, R52): a JOIN brings back the stack that its MARK saved. A push on a full stack, a pop
of an empty one, a ninth MARK and a JOIN without one fault and leave the state; a handler may skip them. -/
def Place.step (p : Place) (op next : Nat) : Place :=
  if op == 0x0B then { p with at_ := next, depth := min 8 (p.depth + 1) }
  else if op == 0x0D then { p with at_ := next, depth := p.depth - 1 }
  else if op == 0x09 then { p with at_ := next, marks := if p.marks.length < 8 then p.depth :: p.marks else p.marks }
  else if op == 0x0A then match p.marks with
    | d :: ms => ⟨next, d, ms⟩
    | [] => { p with at_ := next }
  else { p with at_ := next }

def placeNext (k : Kern) (p : Place) : List Place :=
  match k.items[p.at_]? with
  | none => []
  | some i => (successorsC k p.at_ i).map (p.step i.ins.op)

/-- The structured states with which paths reach an item: from the entry of any role of groups, as a path may lead into another role's
text (R102). -/
def placesAt (k : Kern) (item : Nat) : List Place :=
  let roots : List Place := (k.roles.filter (·.kind < 2)).map fun r => ⟨r.first, 0, []⟩
  (reach (placeNext k) (fuelOf k 400 + roots.length) roots []).filter (·.at_ == item)

/-- The items that a call's target reaches through direct branches and fall-through (R88). -/
def calledItems (k : Kern) : List Nat :=
  let roots := k.items.flatMap fun i => if i.ins.op == 0x07 then k.targets i.ins else []
  reach (fun j => match k.items[j]? with
    | some i => if i.ins.op == 0x06 then [j + 1] else successorsC k j i
    | none => []) (fuelOf k 1 + roots.length) roots []

/-! ### Liveness (R351) -/

/-- What an instruction does to the v registers: what it reads and what it writes, each a first register and a count. The uses
that issue checks give them; of SEL, VTOS and the cross-lane instructions issue leaves the sources to the meaning, and all but the
first use are reads. -/
def vAccess (i : Item) : List (Nat × Nat) × List (Nat × Nat) :=
  let w : Word := BitVec.ofNat 32 (i.ins.op * 2 ^ 24 + i.ins.pay)
  let ty := modeField i.mode 0
  match decodeMarrow w (List.replicate (marrowExtra w) 0) with
  | .error _ => ([], [])
  | .ok ins =>
    let us := (describe State.reset ins).uses ty
    let v (us : List Use) := (us.filter (·.file == 0)).map fun u => (u.num, u.n)
    if i.ins.op == 0x3D || i.ins.op == 0x5C || (0x90 ≤ i.ins.op && i.ins.op ≤ 0x99) then (v (us.drop 1), v (us.take 1))
    else (v (us.filter (·.rd)), v (us.filter fun u => !u.rd))

/-- Whether a write of it covers every lane of EM: a class without a guard, or guard p0 not inverted (R351). Where MODE is not
known, a guarded write covers nothing. -/
def writesAll (i : Item) : Bool := !(takes i.ins.op).1 || (i.exact && modeField i.mode guardG == 0)

/-- A MARK that is open on a path: whether it stands after the point, and for its JOIN the pushes after the point that its saved stack
holds and whether that stack is shorter than the point's. -/
structure Open where
  after : Bool
  pushed : List Bool
  below : Bool
  deriving DecidableEq, Repr

/-- A path of R351: the item it has come to; whether EM still has every lane of the point; for each PPUSH after the point, the same
before it; whether the stack has been shorter than the point's; and the MARKs that are open. -/
structure Path where
  at_ : Nat
  whole : Bool
  pushed : List Bool
  below : Bool
  marks : List Open
  deriving DecidableEq, Repr

/-- A write here ends a value (R351). -/
def Path.clean (p : Path) : Bool := p.whole && p.pushed.isEmpty && !p.below && !p.marks.any (·.after)

/-- The path after an item. A JOIN takes up its MARK's stack; lanes that a push or an EMWR has taken away are not back
(DEDUCED, log 100). -/
def Path.step (p : Path) (i : Item) (next : Nat) : Path :=
  match i.ins.op with
  | 0x0F => { p with at_ := next, whole := false }
  | 0x0C => { p with at_ := next, whole := false }
  | 0x0B => { p with at_ := next, pushed := p.whole :: p.pushed, whole := false }
  | 0x0D => match p.pushed with
    | w :: ws => { p with at_ := next, whole := w, pushed := ws }
    | [] => { p with at_ := next, whole := false, below := true }
  | 0x09 => { p with at_ := next, marks := if p.marks.length < 8 then ⟨true, p.pushed, p.below⟩ :: p.marks else p.marks }
  | 0x0A => match p.marks with
    | m :: ms => ⟨next, p.whole && p.pushed == m.pushed && p.below == m.below, m.pushed, m.below, ms⟩
    | [] => { p with at_ := next }
  | _ => { p with at_ := next }

/-- The path that starts after a point, with the MARKs open there. -/
def Path.start (p : Place) : Path :=
  ⟨p.at_ + 1, true, [], false, p.marks.map fun d => ⟨false, List.replicate (d - p.depth) false, d < p.depth⟩⟩

/-- Whether a register lies in a range. -/
def hits (v : Nat) (xs : List (Nat × Nat)) : Bool := xs.any fun x => x.1 ≤ v && v < x.1 + x.2

/-- The paths after one for a register: none after a read of it or after a write that ends its value. A CALL is followed into its
target and past it; the table of accesses is by item. -/
def liveNext (k : Kern) (acc : List (List (Nat × Nat) × List (Nat × Nat))) (v : Nat) (p : Path) : List Path :=
  match k.items[p.at_]? with
  | none => []
  | some i =>
    let a := acc.getD p.at_ ([], [])
    if hits v a.1 || (hits v a.2 && p.clean && writesAll i) || 8 < p.pushed.length then []
    else (successorsC k p.at_ i).map (p.step i)

/-- The items after which control is at a label whose address is used otherwise than by a branch or a BRX table: there every register is
taken as read (R351). -/
def opaqueItems (R : Refs) (ls : List PLine) (k : Kern) : List Nat :=
  let used := ls.flatMap fun l => match l.body with
    | .dir n args => if n = "byte".toList || n = "word".toList || n = "quad".toList then args else []
    | _ => []
  used.filterMap k.at

/-- The reads of a register that paths from a point reach before its value ends: the widths of the reads, and whether one of them is at
an opaque label. -/
def liveReads (k : Kern) (acc : List (List (Nat × Nat) × List (Nat × Nat))) (opq : List Nat) (from_ : List Path) (v : Nat) : List (Nat × Nat) × Bool :=
  let ps := reach (liveNext k acc v) (fuelOf k 400) from_ []
  (ps.flatMap fun p => ((acc.getD p.at_ ([], [])).1.filter fun x => x.1 ≤ v && v < x.1 + x.2),
   ps.any fun p => opq.contains p.at_)

/-- The live values at a point: single registers, and pairs where some read takes both registers of an even-odd pair as one
64-bit operand (DEDUCED, log 100). -/
def liveValues (k : Kern) (acc : List (List (Nat × Nat) × List (Nat × Nat))) (opq : List Nat) (from_ : List Path) : List (Nat × Bool) :=
  let named := (acc.flatMap fun a => a.1.flatMap fun x => (List.range x.2).map (x.1 + ·)).eraseDups
  let rs := (List.range 256).filter fun v => named.contains v || !opq.isEmpty
  let live := (rs.map fun v => (v, liveReads k acc opq from_ v)).filter fun x => !x.2.1.isEmpty || x.2.2
  -- both registers live, and some read takes the two as one operand
  let pairAt (e : Nat) : Bool := live.any (·.1 == e) && live.any (·.1 == e + 1) && live.any fun x =>
    (x.1 == e || x.1 == e + 1) && x.2.1.any fun r => r.1 == e && r.2 == 2
  (live.map (·.1)).filterMap fun v =>
    if pairAt (v - v % 2) then (if v % 2 == 0 then some (v, true) else none) else some (v, false)

end Sys2Proof.Asm
end

