-- ==== Sys2Proof/Machine/Jallas.lean ====
section
/-! DEFINITION. What jallas writes for a kernel (R33): the Marrow and Radish words with their literals and offsets (R23, R30, R31), the
state-mapping tables (R104, R352), the launch record (R271 to R273) and the errata section (R342); and the source as a whole. -/
set_option linter.all false
namespace Sys2Proof.Asm
open Sys2Proof.Machine

/-! ### Immediates and literals (R23, R66) -/

/-- The range of an immediate that may be a literal. -/
def immOk (wide : Bool) (v : Int) : Bool :=
  if wide then -(2 ^ 63) ≤ v && v < 2 ^ 64 else -(2 ^ 31) ≤ v && v < 2 ^ 32

/-- MOVI and IADDI under a 64-bit integer type take 64-bit values; where MODE is not known, one that needs 64 bits is such a value. -/
def Item.wide (i : Item) : Bool :=
  (i.ins.op == 0x4D || i.ins.op == 0x4F) &&
    if i.exact then modeField i.mode 0 == 6 || modeField i.mode 0 == 7 else i.ins.imm.any fun v => !immOk false v

def word32 (v : Int) : Word := BitVec.ofInt 32 v
def word64 (v : Int) : DWord := BitVec.ofInt 64 v

def litWords (v : Int) : List Word := [0xFF000000, word32 v]
def litWords64 (v : Int) : List Word := [0xFF000001, (word64 v).extractLsb' 0 32, (word64 v).extractLsb' 32 32]

/-- The LIT and literal words before an instruction of the Marrow section. -/
def Item.lits (i : Item) : List Word :=
  match i.ins.imm with
  | none => []
  | some v =>
    if i.ins.isOff then (if v = 0 then [] else litWords v)
    else if !i.ins.lit then []
    else if i.ins.pair then litWords64 v
    else if -128 ≤ v && v ≤ 127 then []
    else if i.wide && !(-(2 ^ 31) ≤ v && v < 2 ^ 31) then litWords64 v
    else litWords v

/-- The form I byte: the immediate, or zero where a literal replaces it. -/
def Item.byteB (i : Item) : Nat :=
  match i.ins.imm with
  | some v => if i.ins.isOff || !i.lits.isEmpty then 0 else (v % 256).toNat
  | none => 0

/-- The value a Radish word carries: a 32-bit consumer's is sign-extended from its 32 bits (R78). -/
def Item.radVal (i : Item) (v : Int) : DWord := if i.wide || i.ins.pair then word64 v else (word32 v).signExtend 64

def fits16 (v : DWord) : Bool := -32768 ≤ v.toInt && v.toInt ≤ 32767

/-- A value as it is written lies in the range of [15:0] (R23). -/
def inField (v : Int) : Bool := -32768 ≤ v && v ≤ 32767

/-! ### Layout (R31) -/

/-- How many words pad an address to a boundary in bytes. -/
def padWords (bytes size a : Nat) : Nat :=
  let n := bytes / size
  if n ≤ 1 then 0 else (n - a % n) % n

/-- An item's words in the Marrow section. -/
def Item.marrowSize (i : Item) (a : Nat) : Nat :=
  if i.pad ≠ 0 then padWords i.pad 4 a
  else (if i.setm.isSome then 1 else 0) + i.lits.length + 1 + (if i.ins.op == 6 then i.ins.labels.length else 0)

/-- An item's words in the Radish section; `long` says that a branch's offset takes the literal word. -/
def Item.radishSize (long : Bool) (i : Item) (a : Nat) : Nat :=
  if i.marrowOnly then 0
  else if i.pad ≠ 0 then padWords i.pad 8 a
  else 1 + (if i.ins.op == 6 then i.ins.labels.length else 0) + (if i.ins.pair || long then 1 else match i.ins.imm with
    | some v => if inField v then 0 else 1
    | none => 0)

/-- The address of each item and of the end, in words. -/
def addrs (size : Item → Nat → Nat) : Nat → List Item → List Nat
  | a, [] => [a]
  | a, i :: is => a :: addrs size (a + size i a) is

def marrowAddrs (k : Kern) : List Nat := addrs Item.marrowSize 0 k.items

/-- The Radish addresses, for the items whose branch offsets are long. -/
def radishAddrs (k : Kern) (long : List Bool) : List Nat :=
  let go : Nat → List (Item × Bool) → List Nat := fun a xs =>
    (xs.foldl (fun (acc : List Nat × Nat) x => (acc.1 ++ [acc.2 + x.1.radishSize x.2 acc.2], acc.2 + x.1.radishSize x.2 acc.2)) ([a], a)).1
  go 0 (k.items.zip long)

/-- The offset of an instruction with one label, in words from an address. -/
def offsetOf (k : Kern) (as : List Nat) (i : Ins) (at_ : Nat) : Int :=
  match i.labels with
  | n :: _ => match k.at n with
    | some t => (as.getD t 0 : Int) - at_
    | none => 0
  | [] => 0

/-- A branch, call, mark, prefetch or loop offset: what [15:0] or the Radish literal holds. -/
def hasOffset (i : Ins) : Bool := i.width ≠ 0

/-- Which Radish offsets do not fit [15:0]; a longer word may move a target out of reach of another, so the sweep repeats. -/
def relax (k : Kern) : Nat → List Bool → List Bool
  | 0, long => long
  | n + 1, long =>
    let as := radishAddrs k long
    let long' := ((k.items.zip long).zipIdx).map fun x =>
      x.1.2 || (hasOffset x.1.1.ins && !fits16 (word64 (offsetOf k as x.1.1.ins (as.getD x.2 0))))
    if long' = long then long else relax k n long'

def longOffsets (k : Kern) : List Bool := relax k (k.items.length + 1) (k.items.map fun _ => false)

/-! ### Words -/

/-- An offset in a field of a width. -/
def offField (v : Int) (w : Nat) : Nat := (v % 2 ^ w).toNat

/-- The Marrow word of an item whose own word stands at an address (R60 to R65). -/
def Item.word (k : Kern) (as : List Nat) (i : Item) (at_ : Nat) : Word :=
  BitVec.ofNat 32 (i.ins.op * 2 ^ 24 + i.ins.pay + i.byteB + offField (offsetOf k as i.ins at_) i.ins.width)

/-- The address of an item's own word: past its SETM and literals. -/
def Item.ownAt (i : Item) (a : Nat) : Nat := a + (if i.setm.isSome then 1 else 0) + i.lits.length

/-- An item's words of the Marrow section. -/
def Item.marrow (k : Kern) (as : List Nat) (i : Item) (a : Nat) : List Word :=
  if i.pad ≠ 0 then List.replicate (padWords i.pad 4 a) 0
  else (match i.setm with | some m => [BitVec.ofNat 32 (0x01000000 + m)] | none => []) ++ i.lits ++
    i.word k as (i.ownAt a) ::
      (if i.ins.op == 6 then i.ins.labels.map fun n => word32 ((as.getD ((k.at n).getD 0) 0 : Int) - i.ownAt a) else [])

/-- A Radish word: the Marrow word, the MODE, the hint, and the low 17 bits (R30). -/
def radWord (w : Word) (mode hint : Nat) (lit : Bool) (low : BitVec 16) : DWord :=
  BitVec.ofNat 64 (w.toNat * 2 ^ 32 + modeField mode guardG % 8 * 2 ^ 29 + modeField mode guardG / 8 * 2 ^ 28 + modeField mode 0 * 2 ^ 24 +
    modeField mode 1 * 2 ^ 21 + modeField mode 2 * 2 ^ 20 + modeField mode 3 * 2 ^ 19 + hint * 2 ^ 17 + (if lit then 65536 else 0) + low.toNat)

/-- An item's words of the Radish section, with its Marrow word in the upper half. -/
def Item.radish (k : Kern) (ms rs : List Nat) (long : Bool) (i : Item) (am ar : Nat) : List DWord :=
  if i.marrowOnly then []
  else if i.pad ≠ 0 then List.replicate (padWords i.pad 8 ar) (radWord 0 i.mode 0 false 0)
  else
    let w := i.word k ms (i.ownAt am)
    let hint := if (takes i.ins.op).2.contains 6 then i.ins.pay / 2 ^ 22 else 0
    -- the value that the word carries, and whether [15:0] takes it
    let val : Option (DWord × Bool) :=
      if hasOffset i.ins then (let v := word64 (offsetOf k rs i.ins ar); some (v, !long && fits16 v))
      else i.ins.imm.map fun v => (i.radVal v, inField v)
    let tbl := if i.ins.op == 6 then i.ins.labels.map fun n => word64 ((rs.getD ((k.at n).getD 0) 0 : Int) - ar) else []
    match val with
    | none => radWord w i.mode hint false 0 :: tbl
    | some (v, fits) =>
      if i.ins.pair then [radWord w i.mode hint true 1, v]
      else if !fits then [radWord w i.mode hint true 0, v]
      else radWord w i.mode hint false (v.setWidth 16) :: tbl

def marrowWords (k : Kern) : List Word :=
  let as := marrowAddrs k
  (k.items.zip as).flatMap fun x => x.1.marrow k as x.2

def radishWords (k : Kern) : List DWord :=
  let ms := marrowAddrs k
  let long := longOffsets k
  let rs := radishAddrs k long
  (((k.items.zip long).zip ms).zip rs).flatMap fun x => x.1.1.1.radish k ms rs x.1.1.2 x.1.2 x.2

/-! ### State-mapping tables (R104, R352) -/

/-- A value and where a direction of the point puts it: in its register, or in a slot. -/
structure Placed where
  src : Nat
  pair : Bool
  slot : Option Nat
  deriving DecidableEq, Repr

/-- Places the live values below and above the destination's allotment, slots in ascending order (R352): also how many slots are taken. -/
def place (allot : Nat) (vs : List (Nat × Bool)) : List Placed × Nat :=
  vs.foldl (fun acc v =>
    if v.1 + (if v.2 then 1 else 0) < allot then (acc.1 ++ [⟨v.1, v.2, none⟩], acc.2)
    else (acc.1 ++ [⟨v.1, v.2, some acc.2⟩], acc.2 + (if v.2 then 2 else 1))) ([], 0)

def entryWord (p : Placed) : Nat :=
  p.src * 2 ^ 20 + (match p.slot with
    | some s => 2 ^ 19 + s * 2 ^ 8
    | none => p.src * 2 ^ 8) + (if p.pair then 1 else 0)

/-- A state-mapping table (R104). -/
def tableBytes (mode depth base : Nat) (ps : List Placed) (g : Nat) : List Byte :=
  natLe 4 mode ++ natLe 1 depth ++ natLe 1 (2 ^ depth - 1) ++ natLe 2 ps.length ++ natLe 4 base ++ natLe 2 g ++
    natLe 2 0 ++ List.replicate 32 0 ++ ps.flatMap fun p => natLe 4 (entryWord p)

/-- The groups of the team: those of its roles that are no matrix stream. -/
def Kern.groups (k : Kern) : Nat := (k.roles.map fun r => if r.kind == 2 then 0 else r.count).sum

/-- The values and the depth of a point, or why it is rejected (R88, R352). -/
def pointState (R : Refs) (ls : List PLine) (k : Kern) (p : PointDef) : Except JErr (Nat × List (Nat × Bool)) :=
  let ps := placesAt k p.item
  let ds := (ps.map (·.depth)).eraseDups
  if 1 < ds.length then .error ⟨p.no, "the predicate-stack depth differs by path (R352)"⟩
  else if (calledItems k).contains p.item then .error ⟨p.no, ".eqp is reached from a call target (R88)"⟩
  else .ok (ds.headD 0, liveValues k (k.items.map vAccess) (opaqueItems R ls k)
    ((if ps.isEmpty then [⟨p.item, 0, []⟩] else ps).map Path.start))

/-- The two tables of a point: Marrow to Radish, Radish to Marrow (R352). -/
def pointTables (R : Refs) (ls : List PLine) (k : Kern) (p : PointDef) : Except JErr (List Byte × List Byte) :=
  match pointState R ls k p with
  | .error e => .error e
  | .ok (d, vs) =>
    let mode := ((k.items[p.item]?).map (·.mode)).getD 0
    let allot := ((k.roles[p.role]?).bind (·.regs)).getD 0
    let a := place 256 vs
    let b := place allot vs
    let base := p.base.getD 0
    let past := base + 128 * (k.groups * b.2)
    if b.2 ≠ 0 && p.base.isNone then .error ⟨p.no, "a live value needs a slot and .eqp gives no slot base (R352)"⟩
    else if b.2 ≠ 0 && (past > k.ls || past > 262144) then .error ⟨p.no, "the slots of the point reach past the window (R352)"⟩
    else .ok (tableBytes mode d base a.1 a.2, tableBytes mode d base b.1 b.2)

/-- The points of a kernel with their addresses and tables; the first that is rejected. -/
def points (R : Refs) (ls : List PLine) (k : Kern) : Except JErr (List EqPoint) :=
  let ms := marrowAddrs k
  let rs := radishAddrs k (longOffsets k)
  k.points.foldr (fun p acc => match pointTables R ls k p, acc with
    | .ok t, .ok ps => .ok (⟨p.n, p.role, 0, 4 * ms.getD p.item 0, 8 * rs.getD p.item 0, t.1, t.2⟩ :: ps)
    | .error e, _ => .error e
    | _, .error e => .error e) (.ok [])

/-- The bytes of .geari.eqmap: the point records, then the tables of each (R104) (DEDUCED, log 101). -/
def eqmapBytes (ps : List EqPoint) : List Byte :=
  let recs := ps.foldl (fun (acc : List Byte × Nat) p =>
    (acc.1 ++ natLe 2 p.point ++ natLe 1 p.role ++ natLe 5 0 ++ natLe 8 p.marrow ++ natLe 8 p.radish ++ natLe 4 acc.2 ++
      natLe 4 (acc.2 + p.toRadish.length), acc.2 + p.toRadish.length + p.toMarrow.length)) ([], 32 * ps.length)
  recs.1 ++ ps.flatMap fun p => p.toRadish ++ p.toMarrow

/-! ### The launch record (R271 to R273) -/

/-- A label's byte offset in the Marrow section. -/
def marrowOffset (k : Kern) (n : Name) : Option Nat := (k.at n).map fun j => 4 * (marrowAddrs k).getD j 0

/-- A handler's offset in the Radish section: none where it stands in the matrix role. -/
def radishHandler (k : Kern) (n : Name) : Nat :=
  match k.at n with
  | some j => if (k.items[j]?).any (·.matrix) then 0xFFFFFFFF else 8 * (radishAddrs k (longOffsets k)).getD j 0
  | none => 0xFFFFFFFF

/-- A warm-line entry: an offset in the Marrow section, or in the data (R272) (DESIGN CHOICE, log 102). -/
def warmEntry (k : Kern) (w : Name × Nat) : Nat :=
  match marrowOffset k w.1 with
  | some a => a / 128 * 128 + (w.2 - 1) * 4 + 1
  | none => (((k.dataLabels.find? (·.1 == w.1)).map (·.2)).getD 0) / 128 * 128 + (w.2 - 1) * 4 + 2

/-- A role entry (R273). -/
def roleEntry (k : Kern) (radish : Bool) (r : RoleDef) : List Byte :=
  let rs := radishAddrs k (longOffsets k)
  natLe 3 ((marrowAddrs k).getD r.first 0) ++ natLe 3 (if radish && r.kind < 2 then rs.getD r.first 0 else 0xFFFFFF) ++
    natLe 1 (r.kind + 4 * r.count) ++ natLe 1 (r.regs.getD 0 / 8) ++ natLe 1 r.cls ++
    natLe 1 ((k.roles.zipIdx.filter fun x => r.switch.contains x.1.name).map (2 ^ ·.2)).sum ++ natLe 4 r.members

/-- The 256-byte record, with zero for what the resident OS and the control program fill in (R271, R332). -/
def recordBytes (k : Kern) (radish : Bool) : List Byte :=
  natLe 24 0 ++ natLe 4 ((k.handler.bind (marrowOffset k)).getD 0xFFFFFFFF) ++
    natLe 4 (match k.handler with
      | some n => if radish then radishHandler k n else 0xFFFFFFFF
      | none => 0xFFFFFFFF) ++
    natLe 24 0 ++ natLe 2 k.grid.1 ++ natLe 2 k.grid.2.1 ++ natLe 2 k.grid.2.2 ++ natLe 1 (k.w + 16 * k.h) ++ natLe 1 (k.team.getD k.groups) ++
    natLe 1 (k.policy + (if k.startRadish then 4 else 0)) ++ natLe 2 0 ++ natLe 1 k.accum ++ natLe 4 k.ls ++ natLe 1 (k.carve / 32) ++
    natLe 1 0 ++ natLe 2 (k.priv / 4) ++ natLe 4 0 ++
    ((List.range 8).flatMap fun i => natLe 8 (match k.warm[i]? with
      | some w => warmEntry k w
      | none => 0)) ++
    (List.range 8).flatMap fun i => match k.roles[i]? with
      | some r => roleEntry k radish r
      | none => natLe 6 0 ++ natLe 1 3 ++ natLe 7 0

/-- The errata section: level 1, no erratum (R342). -/
def errataBytes : List Byte := natLe 4 deviceLevel ++ natLe 4 0

/-! ### A kernel -/

/-- What jallas makes of a kernel (R33). The data and the local-store image have no section; the two texts are those of R28 and
R29. -/
structure Object where
  name : Name
  marrow : List Word
  radish : Option (List DWord)
  points : List EqPoint
  eqmap : List Byte
  record : List Byte
  errata : List Byte
  data : List Byte
  local_ : List (Nat × List Byte)
  verbose : Option (List Name)
  compact : List Name
  deriving DecidableEq, Repr

/-- The value of a label in data: its offset in the Marrow section, in the data, or in local store (DESIGN CHOICE, log 99). -/
def labelValue (k : Kern) (n : Name) : Option Nat :=
  match marrowOffset k n with
  | some a => some a
  | none => ((k.dataLabels ++ k.localLabels).find? (·.1 == n)).map (·.2)

def datumBytes (k : Kern) : Datum → List Byte
  | .bytes bs => bs
  | .label w n _ => natLe w ((labelValue k n).getD 0)

/-- An instruction that the sections cannot hold: a label that is not the kernel's or has no Radish word, an offset past its
field, an immediate past its range (R22, R23, R31). -/
def itemError (k : Kern) (radish : Bool) (as : List Nat) (x : Item × Nat) : Option JErr :=
  let i := x.1
  let o := offsetOf k as i.ins (i.ownAt x.2)
  if i.ins.labels.any fun n => (k.at n).isNone then some ⟨i.no, "a branch target is not a label of the kernel's code (R22)"⟩
  else if radish && !i.matrix && i.ins.labels.any (fun n => match k.at n with
      | some j => (k.items[j]?).any (·.matrix)
      | none => false) then some ⟨i.no, "a branch target has no Radish word (R33)"⟩
  else if hasOffset i.ins && !(-(2 ^ (i.ins.width - 1)) ≤ o && o < 2 ^ (i.ins.width - 1)) then some ⟨i.no, "a branch target is out of range (R63)"⟩
  else match i.ins.imm with
    | some v => if i.ins.lit && !immOk (i.wide || i.ins.pair) v then some ⟨i.no, "an immediate is out of range (R23)"⟩ else none
    | none => none

/-- What is wrong with a kernel as a whole (R24, R28): its roles and team, its labels, its words. On Radish .carve takes what the
record can hold; the resident OS checks the rest (R240) (DEDUCED, log 105). A .ring or .bbar that reaches past the .ls window is rejected
(DESIGN CHOICE, log 105). -/
def kernelError (k : Kern) (no : Nat) : Option JErr :=
  if k.roles.isEmpty then some ⟨no, "a kernel without a role"⟩
  else if k.roles.any fun r => r.kind < 2 && r.regs.isNone then some ⟨no, "a copy or vector role without .regs (R24)"⟩
  else if k.team.any (· != k.groups) then some ⟨no, ".team is not the sum of the roles' groups (R24)"⟩
  else if k.roles.any fun r => r.switch.any fun n => !(k.roles.any fun q => q.name == n) then some ⟨no, ".switch names no role of the kernel"⟩
  else if k.handler.any fun n => (k.at n).isNone then some ⟨no, ".handler names no label of the kernel's code"⟩
  else if k.warm.any fun w => (k.at w.1).isNone && !(k.dataLabels.any (·.1 == w.1)) then some ⟨no, ".warm names no label of the kernel"⟩
  else if k.ls < k.localEnd then some ⟨no, ".ring and .bbar reach past the .ls window"⟩
  else if if k.startRadish then k.carve % 32 ≠ 0 else k.carve ≠ 0 ∧ k.carve ≠ 32 ∧ k.carve ≠ 64 ∧ k.carve ≠ 128 then
    some ⟨no, ".carve is none of the starting class's values (R24, R240)"⟩
  else if k.noVerbose && (k.policy != 0 || k.startRadish) then some ⟨no, "a kernel without a verbose form cannot migrate or start in Radish (R28)"⟩
  else match k.data.findSome? fun d => match d with
      | .label w n no => match labelValue k n with
        | none => some (⟨no, "no such label"⟩ : JErr)
        | some v => if v < 2 ^ (8 * w) then none else some ⟨no, "a label's value does not fit (R24)"⟩
      | .bytes _ => none with
    | some e => some e
    | none =>
      let as := marrowAddrs k
      (k.items.zip as).findSome? (itemError k (!k.noVerbose) as)

/-- Assembles a kernel: the lines between .kernel and .end. -/
def kernel (name : Name) (no : Nat) (ls : List Line) : Except JErr Object :=
  match readLines false false ls with
  | .error e => .error e
  | .ok pl =>
    let R := refsOf pl
    match stmts R (.start name) pl with
    | .error e => .error e
    | .ok k => match kernelError k no with
      | some e => .error e
      | none =>
        match points R pl k with
        | .error e => .error e
        | .ok pts =>
          let ps := if k.noVerbose then [] else pts
          .ok ⟨name, marrowWords k, if k.noVerbose then none else some (radishWords k), ps, eqmapBytes ps,
            recordBytes k (!k.noVerbose), errataBytes, k.data.flatMap (datumBytes k), k.local_,
            if k.noVerbose then none else some k.verbose, k.compact⟩

/-- The kernels of a source, in the order of their .kernel directives (R24, R342); `open_` is the kernel being read. -/
def kernels : Option (Name × List Line) → List Line → Except JErr (List Object)
  | none, [] => .ok []
  | some k, [] => .error ⟨(k.2.headD ⟨0, none, .none⟩).no, "a kernel without .end (R24)"⟩
  | none, l :: ls => match l.label, l.body with
    | none, .none => kernels none ls
    | lab, .dir n [a] =>
      -- a label of the .kernel line is the kernel's
      if n = "kernel".toList && isIdent a then kernels (some (a, if lab.isSome then [⟨l.no, lab, .none⟩] else [])) ls
      else .error ⟨l.no, "outside a kernel (R24)"⟩
    | _, _ => .error ⟨l.no, "outside a kernel (R24)"⟩
  | some k, l :: ls => match l.body with
    | .dir n args =>
      if n = "end".toList && args.isEmpty then
        match kernel k.1 l.no (k.2 ++ [⟨l.no, l.label, .none⟩]), kernels none ls with
        | .ok o, .ok os => .ok (o :: os)
        | .error e, _ => .error e
        | _, .error e => .error e
      else if n = "kernel".toList then .error ⟨l.no, "a kernel within a kernel (R24)"⟩
      else kernels (some (k.1, k.2 ++ [l])) ls
    | _ => kernels (some (k.1, k.2 ++ [l])) ls

/-- jallas: the objects of a source, or the line that it rejects and why (R17, R33). At most 64 kernels, each with a name of its own of
at most 31 characters (R342). -/
def jallas (src : List Char) : Except JErr (List Object) :=
  match kernels none (linesOf src) with
  | .error e => .error e
  | .ok os =>
    if 64 < os.length || os.any (31 < ·.name.length) || os.any fun o => 1 < (os.filter (·.name == o.name)).length then
      .error ⟨0, "more than 64 kernels, or a kernel's name (R342)"⟩
    else .ok os

/-! ### Into the bundle -/

def wordBytes64 (w : DWord) : List Byte := natLe 8 w.toNat

/-- A section of a kernel: of type PROGBITS; its flags, address and alignment as given. -/
def Object.sect (o : Object) (stem : String) (flags addr align : Nat) (bytes : List Byte) : Section :=
  ⟨nameBytes stem ++ [0x2E] ++ o.name.map (fun c => BitVec.ofNat 8 c.toNat), 1, flags, addr, align, bytes.length, bytes⟩

/-- A kernel's sections in the bundle, its code at the addresses it is mapped to (R33, R342). -/
def Object.sections (o : Object) (marrowBase radishBase : Nat) : List Section :=
  [o.sect ".geari.marrow" 6 marrowBase 4096 (o.marrow.flatMap wordBytes)] ++
    (o.radish.map fun r => o.sect ".geari.radish" 6 radishBase 4096 (r.flatMap wordBytes64)).toList ++
    [o.sect ".geari.eqmap" 0 0 1 o.eqmap, o.sect ".geari.launch" 0 0 256 o.record, o.sect ".geari.errata" 0 0 1 o.errata]

/-- The bundle of some kernels, each with the addresses of its code, and of the sections of a control program. -/
def bundleFile (os : List (Object × Nat × Nat)) (control : List Section) : List Byte :=
  elfFile (control ++ os.flatMap fun o => o.1.sections o.2.1 o.2.2)

end Sys2Proof.Asm
end

