-- ==== Sys2Proof/Tests/Slice0.lean ====
section
/-! SUPPORT. Tests: words written out from the spec's encodings, terms that are not well formed, single steps on small states,
and a state and operands that meet the hypotheses of every statement. -/
set_option linter.all false
namespace Sys2Proof.Tests.Slice0
set_option Elab.async false
open Sys2Proof Sys2Proof.Machine

/-- Marrow words with opcode 0x00 to 0x0F, from the fields of their encodings (R60 to R72). -/
theorem test_marrow_words_0 : decodeMarrow 0x00000000#32 [] = .ok (.nop) ∧
    decodeMarrow 0x01001321#32 [] = .ok (.setm 4897) ∧
    decodeMarrow 0x02000002#32 [] = .ok (.setms 2) ∧
    decodeMarrow 0x03000002#32 [] = .ok (.getm 2) ∧
    decodeMarrow 0x04A00005#32 [] = .ok (.bra 2 2097157) ∧
    decodeMarrow 0x05A60005#32 [] = .ok (.brd 2 4 true 131077) ∧
    decodeMarrow 0x07500005#32 [] = .ok (.callAddr 2 1048581) ∧
    decodeMarrow 0x08000002#32 [] = .ok (.ret 2) ∧
    decodeMarrow 0x09200005#32 [] = .ok (.markJoin 2097157) ∧
    decodeMarrow 0x0A000000#32 [] = .ok (.joinFrags) ∧
    decodeMarrow 0x0B000002#32 [] = .ok (.ppush 2) ∧
    decodeMarrow 0x0C000000#32 [] = .ok (.pinv) ∧
    decodeMarrow 0x0D000000#32 [] = .ok (.ppop) ∧
    decodeMarrow 0x0E000002#32 [] = .ok (.emrd 2) ∧
    decodeMarrow 0x0F000002#32 [] = .ok (.emwr 2) :=
  ⟨rfl, rfl, rfl, rfl, rfl, rfl, rfl, rfl, rfl, rfl, rfl, rfl, rfl, rfl, rfl⟩

/-- Marrow words with opcode 0x10 to 0x1F, from the fields of their encodings (R60 to R72). -/
theorem test_marrow_words_1 : decodeMarrow 0x10084680#32 [] = .ok (.waitc 2 4 6 8) ∧
    decodeMarrow 0x11000000#32 [] = .ok (.cbatch) ∧
    decodeMarrow 0x12008123#32 [] = .ok (.waitb 33059) ∧
    decodeMarrow 0x13000016#32 [] = .ok (.bar 1 6) ∧
    decodeMarrow 0x14000016#32 [] = .ok (.bara 1 6) ∧
    decodeMarrow 0x15000016#32 [] = .ok (.barw 1 6) ∧
    decodeMarrow 0x16000016#32 [] = .ok (.drain 1 6) ∧
    decodeMarrow 0x17008123#32 [] = .ok (.eqp 33059) ∧
    decodeMarrow 0x18018123#32 [] = .ok (.migrTeam true 33059) ∧
    decodeMarrow 0x19000002#32 [] = .ok (.rolesw 2) ∧
    decodeMarrow 0x1A000000#32 [] = .ok (.yieldIssue) ∧
    decodeMarrow 0x1B000000#32 [] = .ok (.exitFrag) ∧
    decodeMarrow 0x1C008123#32 [] = .ok (.trapCode 33059) ∧
    decodeMarrow 0x1D000001#32 [] = .ok (.xret true) ∧
    decodeMarrow 0x1E000421#32 [] = .ok (.xrd 4 33) ∧
    decodeMarrow 0x1F000421#32 [] = .ok (.xwr 4 33) :=
  ⟨rfl, rfl, rfl, rfl, rfl, rfl, rfl, rfl, rfl, rfl, rfl, rfl, rfl, rfl, rfl, rfl⟩

/-- Marrow words with opcode 0x20 to 0x2F, from the fields of their encodings (R60 to R72). -/
theorem test_marrow_words_2 : decodeMarrow 0x20000412#32 [] = .ok (.sread 4 18) ∧
    decodeMarrow 0x21000002#32 [] = .ok (.launchQueue 2) ∧
    decodeMarrow 0x22000000#32 [] = .ok (.ifence) ∧
    decodeMarrow 0x23A00005#32 [] = .ok (.cpref 2 2097157) ∧
    decodeMarrow 0x24008123#32 [] = .ok (.snooze 33059) ∧
    decodeMarrow 0x250A0005#32 [] = .ok (.loopCount 2 131077) :=
  ⟨rfl, rfl, rfl, rfl, rfl, rfl⟩

/-- Marrow words with opcode 0x30 to 0x3F, from the fields of their encodings (R60 to R72). -/
theorem test_marrow_words_3 : decodeMarrow 0x30020406#32 [] = .ok (.iadd 2 4 6) ∧
    decodeMarrow 0x31020406#32 [] = .ok (.isub 2 4 6) ∧
    decodeMarrow 0x32020406#32 [] = .ok (.imul 2 4 6) ∧
    decodeMarrow 0x33020406#32 [] = .ok (.imulh 2 4 6) ∧
    decodeMarrow 0x34020406#32 [] = .ok (.imad 2 4 6) ∧
    decodeMarrow 0x35020406#32 [] = .ok (.idiv 2 4 6) ∧
    decodeMarrow 0x36020406#32 [] = .ok (.irem 2 4 6) ∧
    decodeMarrow 0x37020406#32 [] = .ok (.imin 2 4 6) ∧
    decodeMarrow 0x38020406#32 [] = .ok (.imax 2 4 6) ∧
    decodeMarrow 0x39020400#32 [] = .ok (.iabs 2 4) ∧
    decodeMarrow 0x3A020400#32 [] = .ok (.ineg 2 4) ∧
    decodeMarrow 0x3B020406#32 [] = .ok (.iaddc 2 4 6) ∧
    decodeMarrow 0x3C440608#32 [] = .ok (.icmp 2 4 6 8) ∧
    decodeMarrow 0x3D020406#32 [] = .ok (.selLane 2 4 6) ∧
    decodeMarrow 0x3E020406#32 [] = .ok (.andBits 2 4 6) ∧
    decodeMarrow 0x3F020406#32 [] = .ok (.orBits 2 4 6) :=
  ⟨rfl, rfl, rfl, rfl, rfl, rfl, rfl, rfl, rfl, rfl, rfl, rfl, rfl, rfl, rfl, rfl⟩

/-- Marrow words with opcode 0x40 to 0x4F, from the fields of their encodings (R60 to R72). -/
theorem test_marrow_words_4 : decodeMarrow 0x40020406#32 [] = .ok (.xorBits 2 4 6) ∧
    decodeMarrow 0x41020400#32 [] = .ok (.notBits 2 4) ∧
    decodeMarrow 0x42020406#32 [] = .ok (.shl 2 4 6) ∧
    decodeMarrow 0x43020406#32 [] = .ok (.shr 2 4 6) ∧
    decodeMarrow 0x44020406#32 [] = .ok (.sar 2 4 6) ∧
    decodeMarrow 0x45020406#32 [] = .ok (.rotl 2 4 6) ∧
    decodeMarrow 0x46020400#32 [] = .ok (.popc 2 4) ∧
    decodeMarrow 0x47020400#32 [] = .ok (.clz 2 4) ∧
    decodeMarrow 0x48020400#32 [] = .ok (.ctz 2 4) ∧
    decodeMarrow 0x49020400#32 [] = .ok (.brev 2 4) ∧
    decodeMarrow 0x4A020406#32 [] = .ok (.bfe 2 4 6) ∧
    decodeMarrow 0x4B020406#32 [] = .ok (.bfi 2 4 6) ∧
    decodeMarrow 0x4C020400#32 [] = .ok (.movLane 2 4) ∧
    decodeMarrow 0x4D020004#32 [] = .ok (.movi 2 4) ∧
    decodeMarrow 0x4E020406#32 [] = .ok (.lea 2 4 6) ∧
    decodeMarrow 0x4F020406#32 [] = .ok (.iaddi 2 4 6) :=
  ⟨rfl, rfl, rfl, rfl, rfl, rfl, rfl, rfl, rfl, rfl, rfl, rfl, rfl, rfl, rfl, rfl⟩

/-- Marrow words with opcode 0x50 to 0x5F, from the fields of their encodings (R60 to R72). -/
theorem test_marrow_words_5 : decodeMarrow 0x50020406#32 [] = .ok (.sadd 2 4 6) ∧
    decodeMarrow 0x51020406#32 [] = .ok (.ssub 2 4 6) ∧
    decodeMarrow 0x52020406#32 [] = .ok (.smul 2 4 6) ∧
    decodeMarrow 0x53020406#32 [] = .ok (.sand 2 4 6) ∧
    decodeMarrow 0x54020406#32 [] = .ok (.sor 2 4 6) ∧
    decodeMarrow 0x55020406#32 [] = .ok (.sxor 2 4 6) ∧
    decodeMarrow 0x56020406#32 [] = .ok (.sshl 2 4 6) ∧
    decodeMarrow 0x57020406#32 [] = .ok (.sshr 2 4 6) ∧
    decodeMarrow 0x58440608#32 [] = .ok (.scmp 2 4 6 8) ∧
    decodeMarrow 0x59020400#32 [] = .ok (.smov 2 4) ∧
    decodeMarrow 0x5A020004#32 [] = .ok (.smovi 2 4) ∧
    decodeMarrow 0x5B02FF04#32 [] = .ok (.slea 2 4) ∧
    decodeMarrow 0x5C020400#32 [] = .ok (.vtos 2 4) ∧
    decodeMarrow 0x5D020400#32 [] = .ok (.stov 2 4) ∧
    decodeMarrow 0x5E020406#32 [] = .ok (.smin 2 4 6) ∧
    decodeMarrow 0x5F020406#32 [] = .ok (.smax 2 4 6) :=
  ⟨rfl, rfl, rfl, rfl, rfl, rfl, rfl, rfl, rfl, rfl, rfl, rfl, rfl, rfl, rfl, rfl⟩

/-- Marrow words with opcode 0x60 to 0x6F, from the fields of their encodings (R60 to R72). -/
theorem test_marrow_words_6 : decodeMarrow 0x60020406#32 [] = .ok (.fadd 2 4 6) ∧
    decodeMarrow 0x61020406#32 [] = .ok (.fsub 2 4 6) ∧
    decodeMarrow 0x62020406#32 [] = .ok (.fmul 2 4 6) ∧
    decodeMarrow 0x63020406#32 [] = .ok (.ffma 2 4 6) ∧
    decodeMarrow 0x64020406#32 [] = .ok (.fmin 2 4 6) ∧
    decodeMarrow 0x65020406#32 [] = .ok (.fmax 2 4 6) ∧
    decodeMarrow 0x66020400#32 [] = .ok (.fabs 2 4) ∧
    decodeMarrow 0x67020400#32 [] = .ok (.fneg 2 4) ∧
    decodeMarrow 0x68440608#32 [] = .ok (.fcmp 2 4 6 8) ∧
    decodeMarrow 0x69020400#32 [] = .ok (.fclass 2 4) ∧
    decodeMarrow 0x6A020406#32 [] = .ok (.fdiv 2 4 6) ∧
    decodeMarrow 0x6B020400#32 [] = .ok (.fsqrt 2 4) ∧
    decodeMarrow 0x6C020400#32 [] = .ok (.frnd 2 4) ∧
    decodeMarrow 0x6D020406#32 [] = .ok (.fldexp 2 4 6) ∧
    decodeMarrow 0x6E020400#32 [] = .ok (.fexpo 2 4) ∧
    decodeMarrow 0x6F020406#32 [] = .ok (.fsgnj 2 4 6) :=
  ⟨rfl, rfl, rfl, rfl, rfl, rfl, rfl, rfl, rfl, rfl, rfl, rfl, rfl, rfl, rfl, rfl⟩

/-- Marrow words with opcode 0x70 to 0x7F, from the fields of their encodings (R60 to R72). -/
theorem test_marrow_words_7 : decodeMarrow 0x70020400#32 [] = .ok (.frcp 2 4) ∧
    decodeMarrow 0x71020400#32 [] = .ok (.frsq 2 4) ∧
    decodeMarrow 0x72020400#32 [] = .ok (.fex2 2 4) ∧
    decodeMarrow 0x73020400#32 [] = .ok (.flg2 2 4) ∧
    decodeMarrow 0x74020400#32 [] = .ok (.fsin 2 4) ∧
    decodeMarrow 0x75020400#32 [] = .ok (.fcos 2 4) ∧
    decodeMarrow 0x76020400#32 [] = .ok (.ftanh 2 4) :=
  ⟨rfl, rfl, rfl, rfl, rfl, rfl, rfl⟩

/-- Marrow words with opcode 0x80 to 0x8F, from the fields of their encodings (R60 to R72). -/
theorem test_marrow_words_8 : decodeMarrow 0x80020406#32 [] = .ok (.cvt 2 4 6) ∧
    decodeMarrow 0x81020406#32 [] = .ok (.cvti 2 4 6) ∧
    decodeMarrow 0x82020406#32 [] = .ok (.pack 2 4 6) ∧
    decodeMarrow 0x83020400#32 [] = .ok (.unpk 2 4) ∧
    decodeMarrow 0x84020406#32 [] = .ok (.qhist 2 4 6) ∧
    decodeMarrow 0x85020406#32 [] = .ok (.qscale 2 4 6) ∧
    decodeMarrow 0x86020406#32 [] = .ok (.quant 2 4 6) ∧
    decodeMarrow 0x87020406#32 [] = .ok (.deq 2 4 6) ∧
    decodeMarrow 0x88020000#32 [] = .ok (.qclr 2) :=
  ⟨rfl, rfl, rfl, rfl, rfl, rfl, rfl, rfl, rfl⟩

/-- Marrow words with opcode 0x90 to 0x9F, from the fields of their encodings (R60 to R72). -/
theorem test_marrow_words_9 : decodeMarrow 0x90020406#32 [] = .ok (.shfl 2 4 6) ∧
    decodeMarrow 0x91020406#32 [] = .ok (.shflu 2 4 6) ∧
    decodeMarrow 0x92020406#32 [] = .ok (.shfld 2 4 6) ∧
    decodeMarrow 0x93020406#32 [] = .ok (.shflx 2 4 6) ∧
    decodeMarrow 0x94020406#32 [] = .ok (.vote 2 4 6) ∧
    decodeMarrow 0x95020406#32 [] = .ok (.redu 2 4 6) ∧
    decodeMarrow 0x96020406#32 [] = .ok (.scanLanes 2 4 6) ∧
    decodeMarrow 0x97020400#32 [] = .ok (.matchLanes 2 4) ∧
    decodeMarrow 0x98020406#32 [] = .ok (.bcast 2 4 6) ∧
    decodeMarrow 0x99020400#32 [] = .ok (.firstLane 2 4) :=
  ⟨rfl, rfl, rfl, rfl, rfl, rfl, rfl, rfl, rfl, rfl⟩

/-- Marrow words with opcode 0xA0 to 0xAF, from the fields of their encodings (R60 to R72). -/
theorem test_marrow_words_a : decodeMarrow 0xA00204C2#32 [] = .ok (.ldGlobal 2 4 6 0 2) ∧
    decodeMarrow 0xA10204C2#32 [] = .ok (.stGlobal 2 4 6 0 2) ∧
    decodeMarrow 0xA20204C2#32 [] = .ok (.ldx 2 4 6 0 2) ∧
    decodeMarrow 0xA30204C2#32 [] = .ok (.stx 2 4 6 0 2) ∧
    decodeMarrow 0xA4020400#32 [] = .ok (.lds 2 4) ∧
    decodeMarrow 0xA5020400#32 [] = .ok (.sts 2 4) ∧
    decodeMarrow 0xA6020400#32 [] = .ok (.ldp 2 4) ∧
    decodeMarrow 0xA7020400#32 [] = .ok (.stp 2 4) ∧
    decodeMarrow 0xA80204C2#32 [] = .ok (.stn 2 4 6 0 2) ∧
    decodeMarrow 0xA9000002#32 [] = .ok (.srset 2) ∧
    decodeMarrow 0xAA0204C2#32 [] = .ok (.atadd 2 4 6 0 2) ∧
    decodeMarrow 0xAB0204C2#32 [] = .ok (.atmin 2 4 6 0 2) ∧
    decodeMarrow 0xAC0204C2#32 [] = .ok (.atmax 2 4 6 0 2) ∧
    decodeMarrow 0xAD0204C2#32 [] = .ok (.atand 2 4 6 0 2) ∧
    decodeMarrow 0xAE0204C2#32 [] = .ok (.ator 2 4 6 0 2) ∧
    decodeMarrow 0xAF0204C2#32 [] = .ok (.atxor 2 4 6 0 2) :=
  ⟨rfl, rfl, rfl, rfl, rfl, rfl, rfl, rfl, rfl, rfl, rfl, rfl, rfl, rfl, rfl, rfl⟩

/-- Marrow words with opcode 0xB0 to 0xBF, from the fields of their encodings (R60 to R72). -/
theorem test_marrow_words_b : decodeMarrow 0xB00204C2#32 [] = .ok (.atxch 2 4 6 0 2) ∧
    decodeMarrow 0xB10204C2#32 [] = .ok (.atcas 2 4 6 0 2) ∧
    decodeMarrow 0xB20204C2#32 [] = .ok (.redadd 2 4 6 0 2) ∧
    decodeMarrow 0xB30204C2#32 [] = .ok (.redmin 2 4 6 0 2) ∧
    decodeMarrow 0xB40204C2#32 [] = .ok (.redmax 2 4 6 0 2) ∧
    decodeMarrow 0xB500FF99#32 [] = .ok (.fence 4 3 true) ∧
    decodeMarrow 0xB600FF46#32 [] = .ok (.ofence 2 0 6) ∧
    decodeMarrow 0xB702FF04#32 [] = .ok (.rflush 2 4) ∧
    decodeMarrow 0xB802FF04#32 [] = .ok (.rinv 2 4) ∧
    decodeMarrow 0xB9000204#32 [] = .ok (.pfetch 2 4) ∧
    decodeMarrow 0xBA000204#32 [] = .ok (.locate 2 4) ∧
    decodeMarrow 0xBB02FF04#32 [] = .ok (.repark 2 4) ∧
    decodeMarrow 0xBC02FF04#32 [] = .ok (.unpark 2 4) ∧
    decodeMarrow 0xBD02FF04#32 [] = .ok (.objdef 2 4) ∧
    decodeMarrow 0xBE02FF00#32 [] = .ok (.objdel 2) :=
  ⟨rfl, rfl, rfl, rfl, rfl, rfl, rfl, rfl, rfl, rfl, rfl, rfl, rfl, rfl, rfl⟩

/-- Marrow words with opcode 0xC0 to 0xCF, from the fields of their encodings (R60 to R72). -/
theorem test_marrow_words_c : decodeMarrow 0xC002FF04#32 [] = .ok (.pcommit 2 4) ∧
    decodeMarrow 0xC102FF04#32 [] = .ok (.pdecommit 2 4) ∧
    decodeMarrow 0xC202FF00#32 [] = .ok (.allocBlock 2) ∧
    decodeMarrow 0xC302FF00#32 [] = .ok (.freeBlock 2) ∧
    decodeMarrow 0xC402FF04#32 [] = .ok (.pquery 2 4) ∧
    decodeMarrow 0xC8020406#32 [] = .ok (.tcopy 2 4 6) ∧
    decodeMarrow 0xC9020406#32 [] = .ok (.tcopym 2 4 6) ∧
    decodeMarrow 0xCA020400#32 [] = .ok (.chain 2 4) ∧
    decodeMarrow 0xCB000204#32 [] = .ok (.bbinit 2 4) ∧
    decodeMarrow 0xCC000204#32 [] = .ok (.bbexp 2 4) ∧
    decodeMarrow 0xCD020400#32 [] = .ok (.bbwait 2 4) ∧
    decodeMarrow 0xCE000200#32 [] = .ok (.bbinv 2) ∧
    decodeMarrow 0xCF000204#32 [] = .ok (.bbarr 2 4) :=
  ⟨rfl, rfl, rfl, rfl, rfl, rfl, rfl, rfl, rfl, rfl, rfl, rfl, rfl⟩

/-- Marrow words with opcode 0xD0 to 0xDF, from the fields of their encodings (R60 to R72). -/
theorem test_marrow_words_d : decodeMarrow 0xD0000200#32 [] = .ok (.rinit 2) ∧
    decodeMarrow 0xD1020400#32 [] = .ok (.racq 2 4) ∧
    decodeMarrow 0xD2020406#32 [] = .ok (.rpub 2 4 6) ∧
    decodeMarrow 0xD3020400#32 [] = .ok (.rtake 2 4) ∧
    decodeMarrow 0xD4000204#32 [] = .ok (.rdone 2 4) ∧
    decodeMarrow 0xD5000200#32 [] = .ok (.rclose 2) ∧
    decodeMarrow 0xD6000204#32 [] = .ok (.spush 2 4) :=
  ⟨rfl, rfl, rfl, rfl, rfl, rfl, rfl⟩

/-- Marrow words with opcode 0xE0 to 0xEF, from the fields of their encodings (R60 to R72). -/
theorem test_marrow_words_e : decodeMarrow 0xE0020E08#32 [] = .ok (.mma64x64x64 2 true 6 8) ∧
    decodeMarrow 0xE1020E08#32 [] = .ok (.mma64x128x64 2 true 6 8) ∧
    decodeMarrow 0xE2020E08#32 [] = .ok (.mma128x128x64 2 true 6 8) ∧
    decodeMarrow 0xE3020E08#32 [] = .ok (.mma128x64x128 2 true 6 8) ∧
    decodeMarrow 0xE4000002#32 [] = .ok (.fbset 2) ∧
    decodeMarrow 0xE5000204#32 [] = .ok (.xld 2 4) ∧
    decodeMarrow 0xE6000204#32 [] = .ok (.xldr 2 4) ∧
    decodeMarrow 0xE7020004#32 [] = .ok (.zclr 2 4) ∧
    decodeMarrow 0xE8020004#32 [] = .ok (.zcvt 2 4) ∧
    decodeMarrow 0xE9020004#32 [] = .ok (.zst 2 4) ∧
    decodeMarrow 0xEA020004#32 [] = .ok (.zld 2 4) ∧
    decodeMarrow 0xEB020004#32 [] = .ok (.zadd 2 4) ∧
    decodeMarrow 0xEC020004#32 [] = .ok (.zscl 2 4) :=
  ⟨rfl, rfl, rfl, rfl, rfl, rfl, rfl, rfl, rfl, rfl, rfl, rfl, rfl⟩

/-- Radish words with opcode 0x00 to 0x0F: the Marrow word above, MODE, hint and immediate below (R76 to R79). -/
theorem test_radish_words_0 : decodeRadish 0x00000000B2700000#64 [] = .ok (.nopRadish 0xb2d) ∧
    decodeRadish 0x03000002B2700000#64 [] = .ok (.getmRadish 0xb2d 2) ∧
    decodeRadish 0x04000000B2728005#64 [] = .ok (.braRadish 0xb2d 1 ⟨0x8005, none⟩) ∧
    decodeRadish 0x05240000B2728005#64 [] = .ok (.brdRadish 0xb2d 1 4 true ⟨0x8005, none⟩) ∧
    decodeRadish 0x07400000B2708005#64 [] = .ok (.callAddrRadish 0xb2d 2 ⟨0x8005, none⟩) ∧
    decodeRadish 0x08000002B2700000#64 [] = .ok (.retRadish 0xb2d 2) ∧
    decodeRadish 0x09000000B2708005#64 [] = .ok (.markJoinRadish 0xb2d ⟨0x8005, none⟩) ∧
    decodeRadish 0x0A000000B2700000#64 [] = .ok (.joinFragsRadish 0xb2d) ∧
    decodeRadish 0x0B000002B2700000#64 [] = .ok (.ppushRadish 0xb2d 2) ∧
    decodeRadish 0x0C000000B2700000#64 [] = .ok (.pinvRadish 0xb2d) ∧
    decodeRadish 0x0D000000B2700000#64 [] = .ok (.ppopRadish 0xb2d) ∧
    decodeRadish 0x0E000002B2700000#64 [] = .ok (.emrdRadish 0xb2d 2) ∧
    decodeRadish 0x0F000002B2700000#64 [] = .ok (.emwrRadish 0xb2d 2) :=
  ⟨rfl, rfl, rfl, rfl, rfl, rfl, rfl, rfl, rfl, rfl, rfl, rfl, rfl⟩

/-- Radish words with opcode 0x10 to 0x1F: the Marrow word above, MODE, hint and immediate below (R76 to R79). -/
theorem test_radish_words_1 : decodeRadish 0x10084680B2700000#64 [] = .ok (.waitcRadish 0xb2d 2 4 6 8) ∧
    decodeRadish 0x11000000B2700000#64 [] = .ok (.cbatchRadish 0xb2d) ∧
    decodeRadish 0x12008123B2700000#64 [] = .ok (.waitbRadish 0xb2d 33059) ∧
    decodeRadish 0x13000016B2700000#64 [] = .ok (.barRadish 0xb2d 1 6) ∧
    decodeRadish 0x14000016B2700000#64 [] = .ok (.baraRadish 0xb2d 1 6) ∧
    decodeRadish 0x15000016B2700000#64 [] = .ok (.barwRadish 0xb2d 1 6) ∧
    decodeRadish 0x16000016B2700000#64 [] = .ok (.drainRadish 0xb2d 1 6) ∧
    decodeRadish 0x17008123B2700000#64 [] = .ok (.eqpRadish 0xb2d 33059) ∧
    decodeRadish 0x18018123B2700000#64 [] = .ok (.migrTeamRadish 0xb2d true 33059) ∧
    decodeRadish 0x19000002B2700000#64 [] = .ok (.roleswRadish 0xb2d 2) ∧
    decodeRadish 0x1A000000B2700000#64 [] = .ok (.yieldIssueRadish 0xb2d) ∧
    decodeRadish 0x1B000000B2700000#64 [] = .ok (.exitFragRadish 0xb2d) ∧
    decodeRadish 0x1C008123B2700000#64 [] = .ok (.trapCodeRadish 0xb2d 33059) ∧
    decodeRadish 0x1D000001B2700000#64 [] = .ok (.xretRadish 0xb2d true) ∧
    decodeRadish 0x1E000421B2700000#64 [] = .ok (.xrdRadish 0xb2d 4 33) ∧
    decodeRadish 0x1F000421B2700000#64 [] = .ok (.xwrRadish 0xb2d 4 33) :=
  ⟨rfl, rfl, rfl, rfl, rfl, rfl, rfl, rfl, rfl, rfl, rfl, rfl, rfl, rfl, rfl, rfl⟩

/-- Radish words with opcode 0x20 to 0x2F: the Marrow word above, MODE, hint and immediate below (R76 to R79). -/
theorem test_radish_words_2 : decodeRadish 0x20000412B2700000#64 [] = .ok (.sreadRadish 0xb2d 4 18) ∧
    decodeRadish 0x21000002B2700000#64 [] = .ok (.launchQueueRadish 0xb2d 2) ∧
    decodeRadish 0x22000000B2700000#64 [] = .ok (.ifenceRadish 0xb2d) ∧
    decodeRadish 0x23800000B2708005#64 [] = .ok (.cprefRadish 0xb2d 2 ⟨0x8005, none⟩) ∧
    decodeRadish 0x24008123B2700000#64 [] = .ok (.snoozeRadish 0xb2d 33059) ∧
    decodeRadish 0x25080000B2708005#64 [] = .ok (.loopCountRadish 0xb2d 2 ⟨0x8005, none⟩) :=
  ⟨rfl, rfl, rfl, rfl, rfl, rfl⟩

/-- Radish words with opcode 0x30 to 0x3F: the Marrow word above, MODE, hint and immediate below (R76 to R79). -/
theorem test_radish_words_3 : decodeRadish 0x30020406B2700000#64 [] = .ok (.iaddRadish 0xb2d 2 4 6) ∧
    decodeRadish 0x31020406B2700000#64 [] = .ok (.isubRadish 0xb2d 2 4 6) ∧
    decodeRadish 0x32020406B2700000#64 [] = .ok (.imulRadish 0xb2d 2 4 6) ∧
    decodeRadish 0x33020406B2700000#64 [] = .ok (.imulhRadish 0xb2d 2 4 6) ∧
    decodeRadish 0x34020406B2700000#64 [] = .ok (.imadRadish 0xb2d 2 4 6) ∧
    decodeRadish 0x35020406B2700000#64 [] = .ok (.idivRadish 0xb2d 2 4 6) ∧
    decodeRadish 0x36020406B2700000#64 [] = .ok (.iremRadish 0xb2d 2 4 6) ∧
    decodeRadish 0x37020406B2700000#64 [] = .ok (.iminRadish 0xb2d 2 4 6) ∧
    decodeRadish 0x38020406B2700000#64 [] = .ok (.imaxRadish 0xb2d 2 4 6) ∧
    decodeRadish 0x39020400B2700000#64 [] = .ok (.iabsRadish 0xb2d 2 4) ∧
    decodeRadish 0x3A020400B2700000#64 [] = .ok (.inegRadish 0xb2d 2 4) ∧
    decodeRadish 0x3B020406B2700000#64 [] = .ok (.iaddcRadish 0xb2d 2 4 6) ∧
    decodeRadish 0x3C440608B2700000#64 [] = .ok (.icmpRadish 0xb2d 2 4 6 8) ∧
    decodeRadish 0x3D020406B2700000#64 [] = .ok (.selLaneRadish 0xb2d 2 4 6) ∧
    decodeRadish 0x3E020406B2700000#64 [] = .ok (.andBitsRadish 0xb2d 2 4 6) ∧
    decodeRadish 0x3F020406B2700000#64 [] = .ok (.orBitsRadish 0xb2d 2 4 6) :=
  ⟨rfl, rfl, rfl, rfl, rfl, rfl, rfl, rfl, rfl, rfl, rfl, rfl, rfl, rfl, rfl, rfl⟩

/-- Radish words with opcode 0x40 to 0x4F: the Marrow word above, MODE, hint and immediate below (R76 to R79). -/
theorem test_radish_words_4 : decodeRadish 0x40020406B2700000#64 [] = .ok (.xorBitsRadish 0xb2d 2 4 6) ∧
    decodeRadish 0x41020400B2700000#64 [] = .ok (.notBitsRadish 0xb2d 2 4) ∧
    decodeRadish 0x42020406B2700000#64 [] = .ok (.shlRadish 0xb2d 2 4 6) ∧
    decodeRadish 0x43020406B2700000#64 [] = .ok (.shrRadish 0xb2d 2 4 6) ∧
    decodeRadish 0x44020406B2700000#64 [] = .ok (.sarRadish 0xb2d 2 4 6) ∧
    decodeRadish 0x45020406B2700000#64 [] = .ok (.rotlRadish 0xb2d 2 4 6) ∧
    decodeRadish 0x46020400B2700000#64 [] = .ok (.popcRadish 0xb2d 2 4) ∧
    decodeRadish 0x47020400B2700000#64 [] = .ok (.clzRadish 0xb2d 2 4) ∧
    decodeRadish 0x48020400B2700000#64 [] = .ok (.ctzRadish 0xb2d 2 4) ∧
    decodeRadish 0x49020400B2700000#64 [] = .ok (.brevRadish 0xb2d 2 4) ∧
    decodeRadish 0x4A020406B2700000#64 [] = .ok (.bfeRadish 0xb2d 2 4 6) ∧
    decodeRadish 0x4B020406B2700000#64 [] = .ok (.bfiRadish 0xb2d 2 4 6) ∧
    decodeRadish 0x4C020400B2700000#64 [] = .ok (.movLaneRadish 0xb2d 2 4) ∧
    decodeRadish 0x4D020000B2708005#64 [] = .ok (.moviRadish 0xb2d 2 ⟨0x8005, none⟩) ∧
    decodeRadish 0x4E020406B2708005#64 [] = .ok (.leaRadish 0xb2d 2 4 6 ⟨0x8005, none⟩) ∧
    decodeRadish 0x4F020400B2708005#64 [] = .ok (.iaddiRadish 0xb2d 2 4 ⟨0x8005, none⟩) :=
  ⟨rfl, rfl, rfl, rfl, rfl, rfl, rfl, rfl, rfl, rfl, rfl, rfl, rfl, rfl, rfl, rfl⟩

/-- Radish words with opcode 0x50 to 0x5F: the Marrow word above, MODE, hint and immediate below (R76 to R79). -/
theorem test_radish_words_5 : decodeRadish 0x50020406B2700000#64 [] = .ok (.saddRadish 0xb2d 2 4 6) ∧
    decodeRadish 0x51020406B2700000#64 [] = .ok (.ssubRadish 0xb2d 2 4 6) ∧
    decodeRadish 0x52020406B2700000#64 [] = .ok (.smulRadish 0xb2d 2 4 6) ∧
    decodeRadish 0x53020406B2700000#64 [] = .ok (.sandRadish 0xb2d 2 4 6) ∧
    decodeRadish 0x54020406B2700000#64 [] = .ok (.sorRadish 0xb2d 2 4 6) ∧
    decodeRadish 0x55020406B2700000#64 [] = .ok (.sxorRadish 0xb2d 2 4 6) ∧
    decodeRadish 0x56020406B2700000#64 [] = .ok (.sshlRadish 0xb2d 2 4 6) ∧
    decodeRadish 0x57020406B2700000#64 [] = .ok (.sshrRadish 0xb2d 2 4 6) ∧
    decodeRadish 0x58440608B2700000#64 [] = .ok (.scmpRadish 0xb2d 2 4 6 8) ∧
    decodeRadish 0x59020400B2700000#64 [] = .ok (.smovRadish 0xb2d 2 4) ∧
    decodeRadish 0x5A020000B2708005#64 [] = .ok (.smoviRadish 0xb2d 2 ⟨0x8005, none⟩) ∧
    decodeRadish 0x5B02FF04B2708005#64 [] = .ok (.sleaRadish 0xb2d 2 4 ⟨0x8005, none⟩) ∧
    decodeRadish 0x5C020400B2700000#64 [] = .ok (.vtosRadish 0xb2d 2 4) ∧
    decodeRadish 0x5D020400B2700000#64 [] = .ok (.stovRadish 0xb2d 2 4) ∧
    decodeRadish 0x5E020406B2700000#64 [] = .ok (.sminRadish 0xb2d 2 4 6) ∧
    decodeRadish 0x5F020406B2700000#64 [] = .ok (.smaxRadish 0xb2d 2 4 6) :=
  ⟨rfl, rfl, rfl, rfl, rfl, rfl, rfl, rfl, rfl, rfl, rfl, rfl, rfl, rfl, rfl, rfl⟩

/-- Radish words with opcode 0x60 to 0x6F: the Marrow word above, MODE, hint and immediate below (R76 to R79). -/
theorem test_radish_words_6 : decodeRadish 0x60020406B2700000#64 [] = .ok (.faddRadish 0xb2d 2 4 6) ∧
    decodeRadish 0x61020406B2700000#64 [] = .ok (.fsubRadish 0xb2d 2 4 6) ∧
    decodeRadish 0x62020406B2700000#64 [] = .ok (.fmulRadish 0xb2d 2 4 6) ∧
    decodeRadish 0x63020406B2700000#64 [] = .ok (.ffmaRadish 0xb2d 2 4 6) ∧
    decodeRadish 0x64020406B2700000#64 [] = .ok (.fminRadish 0xb2d 2 4 6) ∧
    decodeRadish 0x65020406B2700000#64 [] = .ok (.fmaxRadish 0xb2d 2 4 6) ∧
    decodeRadish 0x66020400B2700000#64 [] = .ok (.fabsRadish 0xb2d 2 4) ∧
    decodeRadish 0x67020400B2700000#64 [] = .ok (.fnegRadish 0xb2d 2 4) ∧
    decodeRadish 0x68440608B2700000#64 [] = .ok (.fcmpRadish 0xb2d 2 4 6 8) ∧
    decodeRadish 0x69020400B2700000#64 [] = .ok (.fclassRadish 0xb2d 2 4) ∧
    decodeRadish 0x6A020406B2700000#64 [] = .ok (.fdivRadish 0xb2d 2 4 6) ∧
    decodeRadish 0x6B020400B2700000#64 [] = .ok (.fsqrtRadish 0xb2d 2 4) ∧
    decodeRadish 0x6C020400B2700000#64 [] = .ok (.frndRadish 0xb2d 2 4) ∧
    decodeRadish 0x6D020406B2700000#64 [] = .ok (.fldexpRadish 0xb2d 2 4 6) ∧
    decodeRadish 0x6E020400B2700000#64 [] = .ok (.fexpoRadish 0xb2d 2 4) ∧
    decodeRadish 0x6F020406B2700000#64 [] = .ok (.fsgnjRadish 0xb2d 2 4 6) :=
  ⟨rfl, rfl, rfl, rfl, rfl, rfl, rfl, rfl, rfl, rfl, rfl, rfl, rfl, rfl, rfl, rfl⟩

/-- Radish words with opcode 0x70 to 0x7F: the Marrow word above, MODE, hint and immediate below (R76 to R79). -/
theorem test_radish_words_7 : decodeRadish 0x70020400B2700000#64 [] = .ok (.frcpRadish 0xb2d 2 4) ∧
    decodeRadish 0x71020400B2700000#64 [] = .ok (.frsqRadish 0xb2d 2 4) ∧
    decodeRadish 0x72020400B2700000#64 [] = .ok (.fex2Radish 0xb2d 2 4) ∧
    decodeRadish 0x73020400B2700000#64 [] = .ok (.flg2Radish 0xb2d 2 4) ∧
    decodeRadish 0x74020400B2700000#64 [] = .ok (.fsinRadish 0xb2d 2 4) ∧
    decodeRadish 0x75020400B2700000#64 [] = .ok (.fcosRadish 0xb2d 2 4) ∧
    decodeRadish 0x76020400B2700000#64 [] = .ok (.ftanhRadish 0xb2d 2 4) :=
  ⟨rfl, rfl, rfl, rfl, rfl, rfl, rfl⟩

/-- Radish words with opcode 0x80 to 0x8F: the Marrow word above, MODE, hint and immediate below (R76 to R79). -/
theorem test_radish_words_8 : decodeRadish 0x80020406B2700000#64 [] = .ok (.cvtRadish 0xb2d 2 4 6) ∧
    decodeRadish 0x81020406B2700000#64 [] = .ok (.cvtiRadish 0xb2d 2 4 6) ∧
    decodeRadish 0x82020406B2700000#64 [] = .ok (.packRadish 0xb2d 2 4 6) ∧
    decodeRadish 0x83020400B2700000#64 [] = .ok (.unpkRadish 0xb2d 2 4) ∧
    decodeRadish 0x84020406B2700000#64 [] = .ok (.qhistRadish 0xb2d 2 4 6) ∧
    decodeRadish 0x85020406B2700000#64 [] = .ok (.qscaleRadish 0xb2d 2 4 6) ∧
    decodeRadish 0x86020406B2700000#64 [] = .ok (.quantRadish 0xb2d 2 4 6) ∧
    decodeRadish 0x87020406B2700000#64 [] = .ok (.deqRadish 0xb2d 2 4 6) ∧
    decodeRadish 0x88020000B2700000#64 [] = .ok (.qclrRadish 0xb2d 2) :=
  ⟨rfl, rfl, rfl, rfl, rfl, rfl, rfl, rfl, rfl⟩

/-- Radish words with opcode 0x90 to 0x9F: the Marrow word above, MODE, hint and immediate below (R76 to R79). -/
theorem test_radish_words_9 : decodeRadish 0x90020406B2700000#64 [] = .ok (.shflRadish 0xb2d 2 4 6) ∧
    decodeRadish 0x91020400B2708005#64 [] = .ok (.shfluRadish 0xb2d 2 4 ⟨0x8005, none⟩) ∧
    decodeRadish 0x92020400B2708005#64 [] = .ok (.shfldRadish 0xb2d 2 4 ⟨0x8005, none⟩) ∧
    decodeRadish 0x93020400B2708005#64 [] = .ok (.shflxRadish 0xb2d 2 4 ⟨0x8005, none⟩) ∧
    decodeRadish 0x94020400B2708005#64 [] = .ok (.voteRadish 0xb2d 2 4 ⟨0x8005, none⟩) ∧
    decodeRadish 0x95020400B2708005#64 [] = .ok (.reduRadish 0xb2d 2 4 ⟨0x8005, none⟩) ∧
    decodeRadish 0x96020400B2708005#64 [] = .ok (.scanLanesRadish 0xb2d 2 4 ⟨0x8005, none⟩) ∧
    decodeRadish 0x97020400B2700000#64 [] = .ok (.matchLanesRadish 0xb2d 2 4) ∧
    decodeRadish 0x98020400B2708005#64 [] = .ok (.bcastRadish 0xb2d 2 4 ⟨0x8005, none⟩) ∧
    decodeRadish 0x99020400B2700000#64 [] = .ok (.firstLaneRadish 0xb2d 2 4) :=
  ⟨rfl, rfl, rfl, rfl, rfl, rfl, rfl, rfl, rfl, rfl⟩

/-- Radish words with opcode 0xA0 to 0xAF: the Marrow word above, MODE, hint and immediate below (R76 to R79). -/
theorem test_radish_words_a : decodeRadish 0xA00204C2B2708005#64 [] = .ok (.ldGlobalRadish 0xb2d 2 4 6 0 2 ⟨0x8005, none⟩) ∧
    decodeRadish 0xA10204C2B2708005#64 [] = .ok (.stGlobalRadish 0xb2d 2 4 6 0 2 ⟨0x8005, none⟩) ∧
    decodeRadish 0xA20204C2B2708005#64 [] = .ok (.ldxRadish 0xb2d 2 4 6 0 2 ⟨0x8005, none⟩) ∧
    decodeRadish 0xA30204C2B2708005#64 [] = .ok (.stxRadish 0xb2d 2 4 6 0 2 ⟨0x8005, none⟩) ∧
    decodeRadish 0xA4020400B2708005#64 [] = .ok (.ldsRadish 0xb2d 2 4 ⟨0x8005, none⟩) ∧
    decodeRadish 0xA5020400B2708005#64 [] = .ok (.stsRadish 0xb2d 2 4 ⟨0x8005, none⟩) ∧
    decodeRadish 0xA6020400B2708005#64 [] = .ok (.ldpRadish 0xb2d 2 4 ⟨0x8005, none⟩) ∧
    decodeRadish 0xA7020400B2708005#64 [] = .ok (.stpRadish 0xb2d 2 4 ⟨0x8005, none⟩) ∧
    decodeRadish 0xA80204C2B2708005#64 [] = .ok (.stnRadish 0xb2d 2 4 6 0 2 ⟨0x8005, none⟩) ∧
    decodeRadish 0xA9000002B2700000#64 [] = .ok (.srsetRadish 0xb2d 2) ∧
    decodeRadish 0xAA0204C2B2708005#64 [] = .ok (.ataddRadish 0xb2d 2 4 6 0 2 ⟨0x8005, none⟩) ∧
    decodeRadish 0xAB0204C2B2708005#64 [] = .ok (.atminRadish 0xb2d 2 4 6 0 2 ⟨0x8005, none⟩) ∧
    decodeRadish 0xAC0204C2B2708005#64 [] = .ok (.atmaxRadish 0xb2d 2 4 6 0 2 ⟨0x8005, none⟩) ∧
    decodeRadish 0xAD0204C2B2708005#64 [] = .ok (.atandRadish 0xb2d 2 4 6 0 2 ⟨0x8005, none⟩) ∧
    decodeRadish 0xAE0204C2B2708005#64 [] = .ok (.atorRadish 0xb2d 2 4 6 0 2 ⟨0x8005, none⟩) ∧
    decodeRadish 0xAF0204C2B2708005#64 [] = .ok (.atxorRadish 0xb2d 2 4 6 0 2 ⟨0x8005, none⟩) :=
  ⟨rfl, rfl, rfl, rfl, rfl, rfl, rfl, rfl, rfl, rfl, rfl, rfl, rfl, rfl, rfl, rfl⟩

/-- Radish words with opcode 0xB0 to 0xBF: the Marrow word above, MODE, hint and immediate below (R76 to R79). -/
theorem test_radish_words_b : decodeRadish 0xB00204C2B2708005#64 [] = .ok (.atxchRadish 0xb2d 2 4 6 0 2 ⟨0x8005, none⟩) ∧
    decodeRadish 0xB10204C2B2708005#64 [] = .ok (.atcasRadish 0xb2d 2 4 6 0 2 ⟨0x8005, none⟩) ∧
    decodeRadish 0xB20204C2B2708005#64 [] = .ok (.redaddRadish 0xb2d 2 4 6 0 2 ⟨0x8005, none⟩) ∧
    decodeRadish 0xB30204C2B2708005#64 [] = .ok (.redminRadish 0xb2d 2 4 6 0 2 ⟨0x8005, none⟩) ∧
    decodeRadish 0xB40204C2B2708005#64 [] = .ok (.redmaxRadish 0xb2d 2 4 6 0 2 ⟨0x8005, none⟩) ∧
    decodeRadish 0xB500FF99B2700000#64 [] = .ok (.fenceRadish 0xb2d 4 3 true) ∧
    decodeRadish 0xB600FF46B2700000#64 [] = .ok (.ofenceRadish 0xb2d 2 0 6) ∧
    decodeRadish 0xB702FF04B2708005#64 [] = .ok (.rflushRadish 0xb2d 2 4 ⟨0x8005, none⟩) ∧
    decodeRadish 0xB802FF04B2708005#64 [] = .ok (.rinvRadish 0xb2d 2 4 ⟨0x8005, none⟩) ∧
    decodeRadish 0xB9000204B2708005#64 [] = .ok (.pfetchRadish 0xb2d 2 4 ⟨0x8005, none⟩) ∧
    decodeRadish 0xBA000204B2708005#64 [] = .ok (.locateRadish 0xb2d 2 4 ⟨0x8005, none⟩) ∧
    decodeRadish 0xBB02FF04B2708005#64 [] = .ok (.reparkRadish 0xb2d 2 4 ⟨0x8005, none⟩) ∧
    decodeRadish 0xBC02FF04B2708005#64 [] = .ok (.unparkRadish 0xb2d 2 4 ⟨0x8005, none⟩) ∧
    decodeRadish 0xBD02FF04B2700000#64 [] = .ok (.objdefRadish 0xb2d 2 4) ∧
    decodeRadish 0xBE02FF00B2700000#64 [] = .ok (.objdelRadish 0xb2d 2) :=
  ⟨rfl, rfl, rfl, rfl, rfl, rfl, rfl, rfl, rfl, rfl, rfl, rfl, rfl, rfl, rfl⟩

/-- Radish words with opcode 0xC0 to 0xCF: the Marrow word above, MODE, hint and immediate below (R76 to R79). -/
theorem test_radish_words_c : decodeRadish 0xC002FF04B2708005#64 [] = .ok (.pcommitRadish 0xb2d 2 4 ⟨0x8005, none⟩) ∧
    decodeRadish 0xC102FF04B2708005#64 [] = .ok (.pdecommitRadish 0xb2d 2 4 ⟨0x8005, none⟩) ∧
    decodeRadish 0xC202FF00B2700000#64 [] = .ok (.allocBlockRadish 0xb2d 2) ∧
    decodeRadish 0xC302FF00B2700000#64 [] = .ok (.freeBlockRadish 0xb2d 2) ∧
    decodeRadish 0xC402FF04B2708005#64 [] = .ok (.pqueryRadish 0xb2d 2 4 ⟨0x8005, none⟩) ∧
    decodeRadish 0xC8020406B2700000#64 [] = .ok (.tcopyRadish 0xb2d 2 4 6) ∧
    decodeRadish 0xC9020406B2700000#64 [] = .ok (.tcopymRadish 0xb2d 2 4 6) ∧
    decodeRadish 0xCA020400B2700000#64 [] = .ok (.chainRadish 0xb2d 2 4) ∧
    decodeRadish 0xCB000204B2700000#64 [] = .ok (.bbinitRadish 0xb2d 2 4) ∧
    decodeRadish 0xCC000204B2700000#64 [] = .ok (.bbexpRadish 0xb2d 2 4) ∧
    decodeRadish 0xCD020400B2700000#64 [] = .ok (.bbwaitRadish 0xb2d 2 4) ∧
    decodeRadish 0xCE000200B2700000#64 [] = .ok (.bbinvRadish 0xb2d 2) ∧
    decodeRadish 0xCF000204B2700000#64 [] = .ok (.bbarrRadish 0xb2d 2 4) :=
  ⟨rfl, rfl, rfl, rfl, rfl, rfl, rfl, rfl, rfl, rfl, rfl, rfl, rfl⟩

/-- Radish words with opcode 0xD0 to 0xDF: the Marrow word above, MODE, hint and immediate below (R76 to R79). -/
theorem test_radish_words_d : decodeRadish 0xD0000200B2700000#64 [] = .ok (.rinitRadish 0xb2d 2) ∧
    decodeRadish 0xD1020400B2700000#64 [] = .ok (.racqRadish 0xb2d 2 4) ∧
    decodeRadish 0xD2020406B2700000#64 [] = .ok (.rpubRadish 0xb2d 2 4 6) ∧
    decodeRadish 0xD3020400B2700000#64 [] = .ok (.rtakeRadish 0xb2d 2 4) ∧
    decodeRadish 0xD4000204B2700000#64 [] = .ok (.rdoneRadish 0xb2d 2 4) ∧
    decodeRadish 0xD5000200B2700000#64 [] = .ok (.rcloseRadish 0xb2d 2) ∧
    decodeRadish 0xD6000204B2700000#64 [] = .ok (.spushRadish 0xb2d 2 4) :=
  ⟨rfl, rfl, rfl, rfl, rfl, rfl, rfl⟩

/-- BRX and LIT take their further words from the words that follow them (R63, R66): a table of two offsets, +5 and -1, and
narrow and wide literals, low word first. -/
theorem test_marrow_words_further :
    decodeMarrowList [0x06400302#32, 0x00000005#32, 0xFFFFFFFF#32, 0x00000000#32] =
      some (.ok (.brx 1 3 [5#32, 0xFFFFFFFF#32], [0x00000000#32])) ∧
    decodeMarrowList [0xFF000000#32, 0x89ABCDEF#32] = some (.ok (.lit false 0x89ABCDEF#64, [])) ∧
    decodeMarrowList [0xFF000001#32, 0x89ABCDEF#32, 0x01234567#32] = some (.ok (.lit true 0x0123456789ABCDEF#64, [])) ∧
    decodeMarrowList [0x06400302#32, 0x00000005#32] = none :=
  ⟨rfl, rfl, rfl, rfl⟩

/-- A Radish BRX has a table of double words, its hint at [18:17]; a literal word follows bit 16 (R76, R78). -/
theorem test_radish_words_further :
    decodeRadishList [0x0600030200020000#64, 7#64, 0xFFFFFFFFFFFFFFFF#64] =
      some (.ok (.brxRadish 0 1 3 [7#64, 0xFFFFFFFFFFFFFFFF#64], [])) ∧
    decodeRadishList [0x4D02000010010000#64, 0x0123456789ABCDEF#64] =
      some (.ok (.moviRadish 8 2 ⟨0, some 0x0123456789ABCDEF#64⟩, [])) ∧
    decodeRadishList [0x4D02000020008001#64] = some (.ok (.moviRadish 1 2 ⟨0x8001, none⟩, [])) ∧
    decodeRadishList [0x4D02000010010000#64] = none :=
  ⟨rfl, rfl, rfl, rfl⟩

/-- Words that are not instructions are rejected by name: an unlisted opcode, a bit an encoding fixes at zero, a register out
of its file, and the opcodes of a role Radish does not run (R60, R61, R73, R79). -/
theorem test_words_rejected :
    decodeMarrow 0xF0000000#32 [] = .error .unlisted ∧
    decodeMarrow 0x00000001#32 [] = .error .reserved ∧
    decodeMarrow 0xFF000002#32 [0#32, 0#32] = .error .reserved ∧
    decodeRadish 0xF000000000000000#64 [] = .error .unlisted ∧
    decodeRadish 0x0000000000000001#64 [] = .error .reserved ∧
    decodeRadish 0xE000000000000000#64 [] = .error .role :=
  ⟨rfl, rfl, rfl, rfl, rfl, rfl⟩

/-- Control words that R73 reserves: an empty table, pair 0 as a return pair, a barrier out of its class, point 0xFFFF, and
indices no list names (R63, R111, R112). -/
theorem test_wf_refuses_control :
    WellFormed (.brx 0 0 []) = false ∧ WellFormed (.brx 0 0 (List.replicate 256 0)) = false ∧
    WellFormed (.callAddr 0 0) = false ∧ WellFormed (.ret 0) = false ∧
    WellFormed (.bar 3 0) = false ∧ WellFormed (.bara 1 8) = false ∧ WellFormed (.barw 2 4) = false ∧
    WellFormed (.drain 3 1) = false ∧ WellFormed (.eqp 0xFFFF) = false ∧ WellFormed (.migrTeam false 0xFFFF) = false ∧
    WellFormed (.xrd 0 5) = false ∧ WellFormed (.xwr 0 0x3C) = false ∧ WellFormed (.sread 0 0x0F) = false ∧
    WellFormed (.sread 1 0x10) = false ∧ WellFormed (.brxRadish 0 0 0 []) = false ∧
    WellFormed (.callAddrRadish 0 0 ⟨0, none⟩) = false ∧ WellFormed (.retRadish 0 0) = false ∧
    WellFormed (.barRadish 0 1 8) = false ∧ WellFormed (.eqpRadish 0 0xFFFF) = false ∧
    WellFormed (.xrdRadish 0 0 0x11) = false ∧ WellFormed (.sreadRadish 0 0 0x1B) = false :=
  ⟨rfl, by simp only [WellFormed, List.length_replicate]; rfl, rfl, rfl, rfl, rfl, rfl, rfl, rfl, rfl, rfl, rfl, rfl, rfl, rfl, rfl, rfl, rfl, rfl, rfl, rfl⟩

/-- Conditions, registers of a pair and formats that R73 reserves (R39, R61, R64, R65). -/
theorem test_wf_refuses_operands :
    WellFormed (.icmp 6 0 0 0) = false ∧ WellFormed (.scmp 7 0 0 0) = false ∧ WellFormed (.fcmp 7 0 0 0) = false ∧
    WellFormed (.lea 1 0 0) = false ∧ WellFormed (.slea 3 0) = false ∧ WellFormed (.cvt 0 0 12) = false ∧
    WellFormed (.cvti 0 0 1) = false ∧ WellFormed (.cvti 0 0 6) = false ∧
    WellFormed (.icmpRadish 0 6 0 0 0) = false ∧ WellFormed (.fcmpRadish 0 7 0 0 0) = false ∧
    WellFormed (.leaRadish 0 1 0 0 ⟨0, none⟩) = false ∧ WellFormed (.cvtRadish 0 0 0 12) = false :=
  ⟨rfl, rfl, rfl, rfl, rfl, rfl, rfl, rfl, rfl, rfl, rfl, rfl⟩

/-- Memory words that R73 reserves: scopes 6 and 7, an odd register of a pair, and a sequentially consistent fence that is
not acquire-release (R62, R157). -/
theorem test_wf_refuses_memory :
    WellFormed (.ldGlobal 0 0 6 0 0) = false ∧ WellFormed (.stGlobal 0 0 7 0 0) = false ∧
    WellFormed (.atadd 0 0 6 0 0) = false ∧ WellFormed (.atcas 1 0 0 0 0) = false ∧
    WellFormed (.redadd 0 0 7 0 0) = false ∧ WellFormed (.fence 6 3 false) = false ∧
    WellFormed (.fence 0 2 true) = false ∧ WellFormed (.ofence 6 0 0) = false ∧
    WellFormed (.allocBlock 1) = false ∧ WellFormed (.freeBlock 3) = false ∧
    WellFormed (.tcopy 0 0 1) = false ∧ WellFormed (.tcopym 0 0 1) = false ∧
    WellFormed (.ldGlobalRadish 0 0 0 6 0 0 ⟨0, none⟩) = false ∧ WellFormed (.fenceRadish 0 0 1 true) = false :=
  ⟨rfl, rfl, rfl, rfl, rfl, rfl, rfl, rfl, rfl, rfl, rfl, rfl, rfl, rfl⟩

/-- Literals that R66 and R78 reserve: a narrow literal above 32 bits, and an immediate beside a Radish literal word. -/
theorem test_wf_refuses_literals :
    WellFormed (.lit false 0x100000000) = false ∧ WellFormed (.moviRadish 0 0 ⟨1, some 0⟩) = false ∧
    WellFormed (.smoviRadish 0 0 ⟨2, some 0⟩) = false ∧ WellFormed (.braRadish 0 0 ⟨5, some 5⟩) = false :=
  ⟨rfl, rfl, rfl, rfl⟩

/-- Terms at the boundary of each check that are well formed. -/
theorem test_wf_accepts :
    WellFormed (.brx 0 0 (List.replicate 255 0)) = true ∧ WellFormed (.callAddr 1 0) = true ∧
    WellFormed (.bar 0 15) = true ∧ WellFormed (.bar 1 7) = true ∧ WellFormed (.bar 2 3) = true ∧
    WellFormed (.eqp 0xFFFE) = true ∧ WellFormed (.sread 2 0x1A) = true ∧ WellFormed (.fcmp 6 0 0 0) = true ∧
    WellFormed (.cvt 0 0 11) = true ∧ WellFormed (.fence 5 3 true) = true ∧ WellFormed (.lit false 0xFFFFFFFF) = true ∧
    WellFormed (.smoviRadish 0 0 ⟨1, some 0⟩) = true :=
  ⟨by simp only [WellFormed, List.length_replicate]; rfl, rfl, rfl, rfl, rfl, rfl, rfl, rfl, rfl, rfl, rfl, rfl⟩

/-! ### States and operands that meet the hypotheses of the statements -/

/-- The least launch of one vector group, at VA 0, whose turn it is; group 1, fragment 0, of team 0. -/
def ws : State := State.reset.placed 0x30
/-- The same with the group changed. -/
def wg (f : Group → Group) : State := ws.modGrp 1 f
/-- The same under a MODE. -/
def wmode (m : Word) : State := wg fun g => { g with mode := m }
/-- A copy group in its place. -/
def wc : State := State.reset.placed 0xC8
/-- A matrix stream in its place. -/
def wx : State := State.reset.placed 0xE0

/-- `CanIssue` for group 1, fragment 0, as a Bool. -/
def canB (s : State) (i : Instr) : Bool :=
  decide (s.cur = some (.frag 1 0)) && (afind 0 (s.grp 1).frags).isSome &&
    (precheck s (s.grp 1) ((s.grp 1).frag 0) (describe s i)).isNone &&
    (postcheck (s.grp 1) (describe s i) (ctxOf s 1 0 i).act (ctxOf s 1 0 i).imm).isNone

theorem canIssue_of_canB (s : State) (i : Instr) (h : canB s i = true) : CanIssue s 1 0 i := by
  simp only [canB, Bool.and_eq_true, decide_eq_true_eq, Option.isNone_iff_eq_none] at h
  exact ⟨h.1.1.1, h.1.1.2, h.1.2, h.2⟩

theorem canIssue_of_all (s : State) (l : List Instr) (h : l.all (canB s) = true) : ∀ i ∈ l, CanIssue s 1 0 i :=
  fun i hi => canIssue_of_canB s i (List.all_eq_true.mp h i hi)

/-- The hypotheses of `RunsIf` and its like, on the group. -/
def Meets (s : State) (i : Instr) (P : Ctx → Group → Prop) : Prop :=
  CanIssue s 1 0 i ∧ P (ctxOf s 1 0 i) (enteredGrp s 1 i)
/-- The hypotheses of `DoesIf` and its like, on the state. -/
def MeetsIn (s : State) (i : Instr) (P : Ctx → State → Prop) : Prop :=
  CanIssue s 1 0 i ∧ P (ctxOf s 1 0 i) (entered s 1 i)

theorem meets (s : State) (i : Instr) (P : Ctx → Group → Prop) (h : canB s i = true)
    (p : P (ctxOf s 1 0 i) (enteredGrp s 1 i)) : Meets s i P := ⟨canIssue_of_canB s i h, p⟩
theorem meetsIn (s : State) (i : Instr) (P : Ctx → State → Prop) (h : canB s i = true)
    (p : P (ctxOf s 1 0 i) (entered s 1 i)) : MeetsIn s i P := ⟨canIssue_of_canB s i h, p⟩
/-- The fragment changed. -/
def wf (f : Frag → Frag) : State := wg fun g => g.modFrag 0 f
/-- n join records, the fragment under the first. -/
def wjoins (n : Nat) (f : Group → Group) : State := wg fun g =>
  f ({ g with joins := (List.range n).map fun i => (i + 1, ⟨0, 0, [], none⟩) }.modFrag 0 fun f => { f with inner := some 1 })
/-- Team 0, launch 0 and the bytes of its record changed. -/
def wt (s : State) (f : Team → Team) : State := s.setTeam 0 (f (s.team 0))
def wl (s : State) (f : Launch → Launch) : State := s.setLaunch 0 (f (s.launch 0))
def wr (s : State) (i : Nat) (b : Byte) : State := wl s fun l => { l with record := l.record.set i b }
/-- Words in the page that VA 0 maps. -/
def wwords (s : State) (va : Nat) (ws : List Word) : State :=
  { s with mem := mwrite s.mem (devKey s.self (0x20000 + va)) (ws.flatMap wordBytes) }
/-- Team barrier 15. -/
def wbar (b : Bar) (f : Group → Group) : State := wt (wg f) fun t => { t with tb := [(15, b)] }
/-- Team barrier 15 of two groups, nothing arrived. -/
def wbar0 : Bar := { Bar.empty with expect := 2, members := [1, 2] }

theorem witness_IntegerArithmeticWritesSatOfExactValue :
    (∀ i ∈ [Instr.iadd 1 2 3, .isub 1 2 3, .imul 1 2 3, .imulh 1 2 3, .imad 1 2 3, .imin 1 2 3, .imax 1 2 3, .iabs 1 2, .ineg 1 2],
      CanIssue (wmode 0) 1 0 i) ∧
    (∀ i ∈ [Instr.iaddRadish 0x800 1 2 3, .isubRadish 0 1 2 3, .imulRadish 0 1 2 3, .imulhRadish 0 1 2 3, .imadRadish 0 1 2 3,
      .iminRadish 0 1 2 3, .imaxRadish 0 1 2 3, .iabsRadish 0 1 2, .inegRadish 0 1 2], CanIssue ws 1 0 i) ∧
    (∀ i ∈ [Instr.selLane 1 2 3, .selLaneRadish 0 1 2 3], Meets (wmode 0) i fun c g =>
      g.poisAt c.ty 2 (activeMask g c.mode c.em) = false ∧
      g.poisAt c.ty 3 (c.em &&& ~~~(activeMask g c.mode c.em)) = false) :=
  ⟨canIssue_of_all _ _ rfl, canIssue_of_all _ _ rfl, by
    simp only [List.forall_mem_cons, List.not_mem_nil, false_imp_iff, implies_true, and_true]
    exact ⟨meets _ _ _ rfl ⟨rfl, rfl⟩, meets _ _ _ rfl ⟨rfl, rfl⟩⟩⟩

theorem witness_DivisionTruncatesAndZeroDivisorIsDefined :
    (∀ i ∈ [Instr.idiv 1 2 3, .irem 1 2 3], CanIssue (wmode 0) 1 0 i) ∧
    (∀ i ∈ [Instr.idivRadish 0 1 2 3, .iremRadish 0 1 2 3], CanIssue ws 1 0 i) :=
  ⟨canIssue_of_all _ _ rfl, canIssue_of_all _ _ rfl⟩

/-- Both types that IADDC accepts, a type that it does not, and the two conditions that are reserved. -/
theorem witness_CarryAddAndComparesWritePredicates :
    (∀ i ∈ [Instr.iaddc 1 2 3, .icmp 5 7 1 2, .scmp 5 0 1 2, .iaddcRadish 0 1 2 3, .icmpRadish 0 0 0 1 2, .scmpRadish 0 5 0 1 2],
      CanIssue (wmode 0) 1 0 i) ∧
    CanIssue (wmode 0x10) 1 0 (.iaddc 1 2 3) ∧
    (ws.cur = some (.frag 1 0) ∧ (afind 0 (ws.grp 1).frags).isSome = true ∧
      precheck ws (ws.grp 1) ((ws.grp 1).frag 0) (describe ws (.iaddc 1 2 3)) = none ∧
      (ctxOf ws 1 0 (.iaddc 1 2 3)).ty ≠ 0 ∧ (ctxOf ws 1 0 (.iaddc 1 2 3)).ty ≠ 1) ∧
    (6 ≤ (6 : BitVec 3).toNat ∧ 6 ≤ (7 : BitVec 3).toNat) :=
  ⟨canIssue_of_all _ _ rfl, canIssue_of_canB _ _ rfl, ⟨rfl, rfl, rfl, by decide, by decide⟩, by decide⟩

theorem witness_LogicAndBitResults :
    (∀ i ∈ [Instr.andBits 1 2 3, .orBits 1 2 3, .xorBits 1 2 3, .notBits 1 2, .shl 1 2 3, .shr 1 2 3, .sar 1 2 3, .rotl 1 2 3,
      .popc 1 2, .clz 1 2, .ctz 1 2, .brev 1 2, .bfe 1 2 3, .bfi 1 2 3], CanIssue (wmode 0x10) 1 0 i) ∧
    (∀ i ∈ [Instr.andBitsRadish 0 1 2 3, .orBitsRadish 0 1 2 3, .xorBitsRadish 0 1 2 3, .notBitsRadish 0 1 2, .shlRadish 0 1 2 3,
      .shrRadish 0 1 2 3, .sarRadish 0 1 2 3, .rotlRadish 0 1 2 3, .popcRadish 0 1 2, .clzRadish 0 1 2, .ctzRadish 0 1 2,
      .brevRadish 0 1 2, .bfeRadish 0 1 2 3, .bfiRadish 0 1 2 3], CanIssue ws 1 0 i) :=
  ⟨canIssue_of_all _ _ rfl, canIssue_of_all _ _ rfl⟩

/-- A Marrow immediate with and without a literal, and a Radish one likewise. -/
theorem witness_MoveAndAddressResults :
    (∀ i ∈ [Instr.movLane 1 2, .movLaneRadish 0 1 2, .movi 1 0x80, .iaddi 1 2 0x7F, .moviRadish 0 1 ⟨0x8000, none⟩,
      .moviRadish 0 1 ⟨0, some 5⟩, .iaddiRadish 0 1 2 ⟨5, none⟩, .lea 2 0xFF 7, .lea 2 3 0, .leaRadish 0 2 0xFF 1 ⟨4, none⟩],
      CanIssue (wmode 0) 1 0 i) ∧
    (∀ i ∈ [Instr.movi 1 0, .lea 2 3 0],
      CanIssue (wg fun g => { g with mode := 0 }.modFrag 0 fun f => { f with lit := some ⟨0xFFFFFFFF, false, 0⟩ }) 1 0 i) ∧
    ((⟨4, none⟩ : RImm).lit = none ∧ (⟨0, some 9⟩ : RImm).lit = some 9) :=
  ⟨canIssue_of_all _ _ rfl, canIssue_of_all _ _ rfl, rfl, rfl⟩

/-- VTOS with no lane in EM and with lane 0 not poisoned; SMOVI with both literals. -/
theorem witness_ScalarResults :
    (∀ i ∈ [Instr.sadd 1 2 3, .ssub 1 2 3, .smul 1 2 3, .sand 1 2 3, .sor 1 2 3, .sxor 1 2 3, .sshl 1 2 3, .sshr 1 2 3,
      .smin 1 2 3, .smax 1 2 3, .smov 1 2, .smovi 1 5, .slea 2 0, .stov 1 2, .saddRadish 0 1 2 3, .ssubRadish 0 1 2 3,
      .smulRadish 0 1 2 3, .sandRadish 0 1 2 3, .sorRadish 0 1 2 3, .sxorRadish 0 1 2 3, .sshlRadish 0 1 2 3,
      .sshrRadish 0 1 2 3, .sminRadish 0 1 2 3, .smaxRadish 0 1 2 3, .smovRadish 0 1 2, .smoviRadish 0 2 ⟨1, some 5⟩,
      .smoviRadish 0 3 ⟨0, some 5⟩, .sleaRadish 0 2 0 ⟨4, none⟩, .stovRadish 0 1 2], CanIssue ws 1 0 i) ∧
    CanIssue (wg fun g => g.modFrag 0 fun f => { f with lit := some ⟨5, true, 0⟩ }) 1 0 (.smovi 2 0) ∧
    (∀ i ∈ [Instr.vtos 1 2, .vtosRadish 0 1 2], Meets ws i fun c g =>
      c.em = 0 ∨ ∃ l, lowLane c.em = some l ∧ (g.vPois 2).getLsbD l = false) ∧
    (Meets (wg fun g => g.modFrag 0 fun f => { f with em := 0 }) (.vtos 1 2) fun c g =>
      c.em = 0 ∨ ∃ l, lowLane c.em = some l ∧ (g.vPois 2).getLsbD l = false) :=
  ⟨canIssue_of_all _ _ rfl, canIssue_of_canB _ _ rfl, by
    simp only [List.forall_mem_cons, List.not_mem_nil, false_imp_iff, implies_true, and_true]
    exact ⟨meets _ _ _ rfl (.inr ⟨0, rfl, rfl⟩), meets _ _ _ rfl (.inr ⟨0, rfl, rfl⟩)⟩, meets _ _ _ rfl (.inl rfl)⟩

theorem witness_FloatArithmeticResults :
    (∀ i ∈ [Instr.fadd 1 2 3, .fsub 1 2 3, .fmul 1 2 3, .ffma 1 2 3, .fdiv 1 2 3, .fsqrt 1 2, .frnd 1 2, .fldexp 1 2 3,
      .fexpo 1 2, .fmin 1 2 3, .fmax 1 2 3, .fabs 1 2, .fneg 1 2, .fsgnj 1 2 3], CanIssue ws 1 0 i) ∧
    (∀ i ∈ [Instr.faddRadish 0x20 1 2 3, .fsubRadish 0x20 1 2 3, .fmulRadish 0x20 1 2 3, .ffmaRadish 0x20 1 2 3,
      .fdivRadish 0x20 1 2 3, .fsqrtRadish 0x20 1 2, .frndRadish 0x20 1 2, .fldexpRadish 0x20 1 2 3, .fexpoRadish 0x20 1 2,
      .fminRadish 0x20 1 2 3, .fmaxRadish 0x20 1 2 3, .fabsRadish 0x20 1 2, .fnegRadish 0x20 1 2, .fsgnjRadish 0x20 1 2 3],
      CanIssue ws 1 0 i) :=
  ⟨canIssue_of_all _ _ rfl, canIssue_of_all _ _ rfl⟩

theorem witness_FloatSpecialCasesGiveNanInfinityAndFlags : (1 : Nat) ≠ 0 := by decide

/-- Conditions 0 and 6, two finite numbers, and a NaN with condition 0. -/
theorem witness_FloatCompareAndClassResults :
    (∀ i ∈ [Instr.fcmp 0 0 1 2, .fcmp 6 7 1 2, .fcmpRadish 0x20 6 7 1 2, .fclass 1 2, .fclassRadish 0x20 1 2],
      CanIssue ws 1 0 i) ∧
    ((Num.fin false 1 0).isNan = false ∧ (Num.inf true).isNan = false) ∧
    (((Num.nan false).isNan = true ∨ (Num.inf true).isNan = true) ∧ 0 < 7) :=
  ⟨canIssue_of_all _ _ rfl, ⟨rfl, rfl⟩, .inl rfl, by decide⟩

/-- The queue at 0, 15 and 16 results, and no active lane. -/
theorem witness_SpecialFunctionResultsEnterTheQueue :
    (∀ i ∈ [Instr.frcp 1 2, .frsq 1 2, .fex2 1 2, .flg2 1 2, .fsin 1 2, .fcos 1 2, .ftanh 1 2, .frcpRadish 0x20 1 2,
      .frsqRadish 0x20 1 2, .fex2Radish 0x20 1 2, .flg2Radish 0x20 1 2, .fsinRadish 0x20 1 2, .fcosRadish 0x20 1 2,
      .ftanhRadish 0x20 1 2], CanIssue ws 1 0 i) ∧
    (Meets (wg fun g => { g with sfu := List.replicate 15 ⟨9, 1, [], none⟩ }) (.frcp 1 2) fun c g =>
      c.act ≠ 0 ∧ g.sfu.length < 16) ∧
    (Meets (wg fun g => g.modFrag 0 fun f => { f with em := 0 }) (.frcp 1 2) fun c _ => c.act = 0) ∧
    (MeetsIn (wg fun g => { g with sfu := List.replicate 16 ⟨9, 1, [], none⟩ }) (.frcp 1 2) fun c s =>
      c.act ≠ 0 ∧ 16 ≤ (s.grp c.gid).sfu.length) :=
  ⟨canIssue_of_all _ _ rfl, meets _ _ _ rfl ⟨by decide, by decide⟩, meets _ _ _ rfl rfl, meetsIn _ _ _ rfl ⟨by decide, by decide⟩⟩

theorem witness_ConversionResults :
    CanIssue ws 1 0 (.cvt 1 2 11) ∧
    (∀ i ∈ [Instr.cvti 1 2 2, .cvti 1 2 5, .cvtiRadish 0 1 2 3], CanIssue (wmode 0) 1 0 i) ∧
    (∀ i ∈ [Instr.pack 1 2 3, .unpk 4 2, .cvtRadish 0 1 2 3, .packRadish 0x30 1 2 3, .unpkRadish 0x30 4 2],
      CanIssue (wmode 0x30) 1 0 i) ∧
    isFloat 0 = false :=
  ⟨canIssue_of_canB _ _ rfl, canIssue_of_all _ _ rfl, canIssue_of_all _ _ rfl, rfl⟩

/-- An active lane and none, and the width field of QSCALE at 1,024 and at 1,025. -/
theorem witness_QuantisationResults :
    (∀ i ∈ [Instr.qclr 2, .qclrRadish 0x20 2, .quant 1 2 3, .deq 1 2 3, .quantRadish 0x20 1 2 3, .deqRadish 0x20 1 2 3],
      CanIssue ws 1 0 i) ∧
    (∀ i ∈ [Instr.qhist 4 2 3, .qhistRadish 0x20 4 2 3], Meets ws i fun c g => histPois g 4 = false ∧ lowLane c.act ≠ none) ∧
    (Meets (wg fun g => g.modFrag 0 fun f => { f with em := 0 }) (.qhist 4 2 3) fun c _ => lowLane c.act = none) ∧
    (Meets (wg fun g => g.putV 3 1 fun _ => 0x100000) (.qscale 1 4 3) fun c g => histPois g 4 = false ∧ lowLane c.act ≠ none ∧
      bits (g.vl 3 ((lowLane c.act).getD 0)).toNat 10 11 ≤ 1024) ∧
    (Meets (wg fun g => g.putV 3 1 fun _ => 0x100400) (.qscale 1 4 3) fun c g => histPois g 4 = false ∧ lowLane c.act ≠ none ∧
      1024 < bits (g.vl 3 ((lowLane c.act).getD 0)).toNat 10 11) :=
  ⟨canIssue_of_all _ _ rfl, by
    simp only [List.forall_mem_cons, List.not_mem_nil, false_imp_iff, implies_true, and_true]
    exact ⟨meets _ _ _ rfl ⟨rfl, by decide⟩, meets _ _ _ rfl ⟨rfl, by decide⟩⟩,
    meets _ _ _ rfl rfl, meets _ _ _ rfl ⟨rfl, by decide, by decide⟩, meets _ _ _ rfl ⟨rfl, by decide, by decide⟩⟩

theorem witness_ShufflesReadActiveSourceLanes :
    (∀ i ∈ [Instr.shfl 1 2 3, .firstLane 1 2, .shflu 1 2 31, .shfld 1 2 31, .shflx 1 2 31, .bcast 1 2 31, .shflRadish 0 1 2 3,
      .firstLaneRadish 0 1 2, .shfluRadish 0 1 2 ⟨1, none⟩, .shfldRadish 0 1 2 ⟨1, none⟩, .shflxRadish 0 1 2 ⟨1, none⟩,
      .bcastRadish 0 1 2 ⟨1, none⟩], Meets (wmode 0) i (cleanReg 2)) ∧
    Meets (wmode 0x10) (.shfl 2 4 6) (cleanReg 4) := by
  refine ⟨fun i hi => ⟨canIssue_of_all (wmode 0) _ rfl i hi, ?_⟩, meets _ _ _ rfl ⟨rfl, fun _ => rfl⟩⟩
  simp only [List.mem_cons, List.not_mem_nil, or_false] at hi
  rcases hi with rfl | rfl | rfl | rfl | rfl | rfl | rfl | rfl | rfl | rfl | rfl | rfl <;> exact ⟨rfl, fun _ => rfl⟩

theorem witness_VoteReduceScanMatchResults :
    (∀ i ∈ [Instr.vote 1 2 0, .vote 1 2 2, .redu 1 2 0, .scanLanes 1 2 0, .matchLanes 1 2, .voteRadish 0 1 2 ⟨1, none⟩,
      .reduRadish 0 1 2 ⟨0, none⟩, .scanLanesRadish 0 1 2 ⟨0, none⟩, .matchLanesRadish 0 1 2], CanIssue (wmode 0) 1 0 i) ∧
    (∀ i ∈ [Instr.redu 1 2 0, .scanLanes 1 2 0], Meets (wmode 0) i fun c _ => c.act ≠ 0) ∧
    (∀ i ∈ [Instr.reduRadish 0 1 2 ⟨0, none⟩, .scanLanesRadish 0 1 2 ⟨0, none⟩],
      Meets (wf fun f => { f with em := 0 }) i fun c _ => c.act = 0) :=
  ⟨canIssue_of_all _ _ rfl, by
    simp only [List.forall_mem_cons, List.not_mem_nil, false_imp_iff, implies_true, and_true]
    exact ⟨meets _ _ _ rfl (by decide), meets _ _ _ rfl (by decide)⟩, by
    simp only [List.forall_mem_cons, List.not_mem_nil, false_imp_iff, implies_true, and_true]
    exact ⟨meets _ _ _ rfl rfl, meets _ _ _ rfl rfl⟩⟩

/-- The greatest value that MODE holds, TYPE 15, RND 5 and a bit above [12]. -/
theorem witness_ModeInstructionsWriteAndReadMode :
    (∀ i ∈ [Instr.nop, .getm 1, .nopRadish 0, .getmRadish 0 1], CanIssue ws 1 0 i) ∧
    (Meets ws (.setm 0x1CEF) fun _ _ => legalMode ((0x1CEF : BitVec 13).zeroExtend 32)) ∧
    (Meets ws (.setm 0x0F0) fun _ _ => ¬legalMode ((0x0F0 : BitVec 13).zeroExtend 32)) ∧
    (Meets ws (.setm 0x500) fun _ _ => ¬legalMode ((0x500 : BitVec 13).zeroExtend 32)) ∧
    (Meets (wg fun g => g.putS 5 0x30) (.setms 5) fun _ g => legalMode (g.sreg 5)) ∧
    (Meets (wg fun g => g.putS 5 0x2000) (.setms 5) fun _ g => ¬legalMode (g.sreg 5)) :=
  ⟨canIssue_of_all _ _ rfl, meets _ _ _ rfl (by unfold legalMode; decide), meets _ _ _ rfl (by unfold legalMode; decide), meets _ _ _ rfl (by unfold legalMode; decide),
    meets _ _ _ rfl (by unfold legalMode; decide), meets _ _ _ rfl (by unfold legalMode; decide)⟩

/-- A BRD with all lanes taken and none, a RET to an aligned and a misaligned address, a LOOP count of 2, 1 and 0. -/
theorem witness_BranchesMoveTheWholeFragment :
    (∀ i ∈ [Instr.bra 0 5, .callAddr 1 0x1FFFFF, .cpref 0 5, .braRadish 0 0 ⟨5, none⟩, .callAddrRadish 0 7 ⟨5, none⟩,
      .cprefRadish 0 0 ⟨5, none⟩], CanIssue ws 1 0 i) ∧
    (Meets ws (.brd 0 0 false 5) fun c g => takenLanes 0 false c g = c.em) ∧
    (Meets ws (.brd 0 0 true 5) fun c g => takenLanes 0 true c g ≠ c.em ∧ takenLanes 0 true c g = 0) ∧
    (Meets ws (.ret 1) fun c g => (g.sreg64 2).toNat % (if c.rad then 8 else 4) = 0) ∧
    (Meets (wg fun g => g.putS 2 4) (.retRadish 0 1) fun c g => (g.sreg64 2).toNat % (if c.rad then 8 else 4) ≠ 0) ∧
    (Meets (wg fun g => g.putS 9 2) (.loopCount 9 5) fun _ g => 2 ≤ (g.sreg 9).toNat) ∧
    (Meets (wg fun g => g.putS 9 1) (.loopCountRadish 0 9 ⟨5, none⟩) fun _ g => (g.sreg 9).toNat < 2) ∧
    (Meets ws (.loopCount 9 5) fun _ g => (g.sreg 9).toNat < 2) :=
  ⟨canIssue_of_all _ _ rfl, meets _ _ _ rfl (by decide), meets _ _ _ rfl (by decide), meets _ _ _ rfl (by decide),
    meets _ _ _ rfl (by decide), meets _ _ _ rfl (by decide), meets _ _ _ rfl (by decide), meets _ _ _ rfl (by decide)⟩

/-- No lane, one target, two targets with 33 and with 34 entries, two targets with no join record. -/
theorem witness_TableBranchSendsEachLaneToItsTarget :
    (∀ l ∈ [0, 31], l < 32) ∧
    (Meets (wf fun f => { f with em := 0 }) (.brx 0 1 [5]) fun c g => tableParts 1 [5] c g = []) ∧
    (Meets ws (.brx 0 1 [5]) fun c g => ∃ p, tableParts 1 [5] c g = [p]) ∧
    (Meets (wjoins 30 fun g => g.putV 1 1 fun _ => 7) (.brx 0 1 [5]) fun c g => 2 ≤ (tableParts 1 [5] c g).length ∧
      (fragOf c g).inner.isSome = true ∧ tableUsed g + (tableParts 1 [5] c g).length ≤ 33) ∧
    (Meets (wg fun g => g.putV 1 1 fun _ => 7) (.brxRadish 0 0 1 [5]) fun c g => 2 ≤ (tableParts 1 [5] c g).length ∧
      (fragOf c g).inner = none) ∧
    (Meets (wjoins 31 fun g => g.putV 1 1 fun _ => 7) (.brx 0 1 [5]) fun c g => 2 ≤ (tableParts 1 [5] c g).length ∧
      (fragOf c g).inner.isSome = true ∧ 33 < tableUsed g + (tableParts 1 [5] c g).length) :=
  ⟨by decide, meets _ _ _ rfl rfl, meets _ _ _ rfl ⟨_, rfl⟩, meets _ _ _ rfl ⟨by decide, rfl, by decide⟩,
    meets _ _ _ rfl ⟨by decide, rfl⟩, meets _ _ _ rfl ⟨by decide, rfl, by decide⟩⟩

/-- A divergent BRD with 31 and 32 entries used and with no join record; MARK at chains of 7 and 8 and tables of 31 and 32; a
JOIN at its record's address, elsewhere and with no record; fragments that all wait at it and that do not. -/
theorem witness_DivergenceAndJoinsManageTheSplitTable :
    (Meets (wjoins 30 fun g => g.setP 1 1 1) (.brd 0 1 false 5) fun c g => takenLanes 1 false c g ≠ c.em ∧
      takenLanes 1 false c g ≠ 0 ∧ (fragOf c g).inner.isSome = true ∧ tableUsed g < 32) ∧
    (Meets (wg fun g => g.setP 1 1 1) (.brdRadish 0 0 1 true ⟨5, none⟩) fun c g => takenLanes 1 true c g ≠ c.em ∧
      takenLanes 1 true c g ≠ 0 ∧ (fragOf c g).inner = none) ∧
    (Meets (wjoins 31 fun g => g.setP 1 1 1) (.brd 0 1 false 5) fun c g => takenLanes 1 false c g ≠ c.em ∧
      takenLanes 1 false c g ≠ 0 ∧ (fragOf c g).inner.isSome = true ∧ 32 ≤ tableUsed g) ∧
    (Meets (wjoins 30 id) (.markJoin 5) fun c g => (g.chain (fragOf c g)).length < 8 ∧ tableUsed g < 32) ∧
    (Meets (wg fun g => { g with joins := (List.range 8).map fun i => (i + 1, ⟨0, 0, [], some (i + 2)⟩) }.modFrag 0
        fun f => { f with inner := some 1 }) (.markJoinRadish 0 ⟨5, none⟩) fun c g => 8 ≤ (g.chain (fragOf c g)).length) ∧
    (Meets (wjoins 31 id) (.markJoin 5) fun c g => (g.chain (fragOf c g)).length < 8 ∧ 32 ≤ tableUsed g) ∧
    (Meets (wjoins 1 id) .joinFrags fun c g => ∃ j k, (fragOf c g).inner = some j ∧ afind j g.joins = some k ∧ k.target = c.pc) ∧
    (Meets ws (.joinFragsRadish 0) fun c g => (fragOf c g).inner = none) ∧
    (Meets (wg fun g => { g with joins := [(1, ⟨4, 0, [], none⟩)] }.modFrag 0 fun f => { f with inner := some 1 }) .joinFrags
      fun c g => ∃ j k, (fragOf c g).inner = some j ∧ afind j g.joins = some k ∧ k.target ≠ c.pc) ∧
    (let g := (wjoins 1 fun g => g.await 0 (.join 1)).grp 1
     ∃ k p q, afind 1 g.joins = some k ∧ (g.frags.filter fun p => (g.chain p.2).contains 1) = p :: q ∧
      ((g.frags.filter fun p => (g.chain p.2).contains 1).all fun p => p.2.wait == .join 1) = true) ∧
    (let g := (wjoins 1 id).grp 1
     ((g.frags.filter fun p => (g.chain p.2).contains 1).all fun p => p.2.wait == .join 1) = false) :=
  ⟨meets _ _ _ rfl ⟨by decide, by decide, rfl, by decide⟩, meets _ _ _ rfl ⟨by decide, by decide, rfl⟩,
    meets _ _ _ rfl ⟨by decide, by decide, rfl, by decide⟩, meets _ _ _ rfl ⟨by decide, by decide⟩,
    meets _ _ _ rfl (by decide), meets _ _ _ rfl ⟨by decide, by decide⟩, meets _ _ _ rfl ⟨_, _, rfl, rfl, rfl⟩,
    meets _ _ _ rfl rfl, meets _ _ _ rfl ⟨_, _, rfl, rfl, by decide⟩, ⟨_, _, _, rfl, rfl, rfl⟩, rfl⟩

/-- The predicate stack at 7 and 8 entries, at 1 and at none; a mask within the bottom entry and one beyond it. -/
theorem witness_PredicateStackAndExecutionMask :
    (∀ i ∈ [Instr.emrd 1, .emrdRadish 0 1], CanIssue ws 1 0 i) ∧
    (Meets (wf fun f => { f with stack := List.replicate 7 0 }) (.ppush 1) fun c g => (fragOf c g).stack.length < 8) ∧
    (Meets (wf fun f => { f with stack := List.replicate 8 0 }) (.ppushRadish 0 1) fun c g => 8 ≤ (fragOf c g).stack.length) ∧
    (∀ i ∈ [Instr.pinv, .ppop, .pinvRadish 0, .ppopRadish 0],
      Meets (wf fun f => { f with stack := [1] }) i fun c g => (fragOf c g).stack ≠ []) ∧
    (∀ i ∈ [Instr.pinv, .ppop, .pinvRadish 0, .ppopRadish 0], Meets ws i fun c g => (fragOf c g).stack = []) ∧
    (Meets (wg fun g => g.putS 3 1) (.emwr 3) fun c g =>
      g.sreg 3 &&& ~~~((fragOf c g).stack.getLastD (fragOf c g).em) = 0) ∧
    (Meets (wg fun g => (g.putS 3 3).modFrag 0 fun f => { f with stack := [1] }) (.emwrRadish 0 3) fun c g =>
      g.sreg 3 &&& ~~~((fragOf c g).stack.getLastD (fragOf c g).em) ≠ 0) := by
  refine ⟨canIssue_of_all _ _ rfl, meets _ _ _ rfl (by decide), meets _ _ _ rfl (by decide),
    fun i hi => ⟨canIssue_of_all (wf fun f => { f with stack := [1] }) _ rfl i hi, ?_⟩,
    fun i hi => ⟨canIssue_of_all ws _ rfl i hi, ?_⟩, meets _ _ _ rfl (by decide), meets _ _ _ rfl (by decide)⟩ <;>
  · simp only [List.mem_cons, List.not_mem_nil, or_false] at hi
    rcases hi with rfl | rfl | rfl | rfl <;> first | rfl | decide

/-- What `Reserved` asks of a state: a group that may issue the instruction. -/
theorem witness_Reserved : ∀ i ∈ [Instr.icmp 6 1 2 3, .icmpRadish 0 7 1 2 3, .scmp 7 1 2 3, .scmpRadish 0 6 1 2 3, .brx 0 1 [], .brxRadish 0 0 1 []],
    ws.cur = some (.frag 1 0) ∧ (afind 0 (ws.grp 1).frags).isSome = true ∧ roleAllows (ws.kindOf (ws.grp 1)) (describe ws i).op = true := by
  decide +kernel

/-- Counters at their bounds and past them; 14 and 15 batches open; a batch complete, open and too old; SNOOZE of 1 and 0. -/
theorem witness_WaitInstructionsGoOnOrWait :
    (Meets ws (.waitc 0 0 0 0) fun _ g => countersMet 0 0 0 0 g) ∧
    (MeetsIn (wg fun g => { g with cb := 1 }) (.waitcRadish 0 0 0 0 0) fun c s => ¬countersMet 0 0 0 0 (s.grp c.gid)) ∧
    (MeetsIn (wg fun g => { g with cb := 15 }) .cbatch fun c s => batchLag (s.grp c.gid) = 15) ∧
    (MeetsIn (wg fun g => { g with cb := 14 }) (.cbatchRadish 0) fun c s => batchLag (s.grp c.gid) ≠ 15) ∧
    (Meets ws (.waitb 1) fun _ g => 2 ^ 15 ≤ batchAge g 1) ∧
    (MeetsIn (wg fun g => { g with cb := 2 }) (.waitb 2) fun c s => batchAge (s.grp c.gid) 2 < 2 ^ 15 ∧
      batchAge (s.grp c.gid) 2 < batchLag (s.grp c.gid)) ∧
    (MeetsIn (wg fun g => { g with cb := 2 }) (.waitbRadish 0 0) fun c s => batchAge (s.grp c.gid) 0 < 2 ^ 15 ∧
      batchLag (s.grp c.gid) ≤ batchAge (s.grp c.gid) 0) ∧
    (∀ i ∈ [Instr.yieldIssue, .snooze 0, .snooze 1, .yieldIssueRadish 0, .snoozeRadish 0 0, .snoozeRadish 0 1], CanIssue ws 1 0 i) ∧
    ((1 : BitVec 16) ≠ 0) :=
  ⟨meets _ _ _ rfl (by unfold countersMet; decide), meetsIn _ _ _ rfl (by unfold countersMet; decide),
    meetsIn _ _ _ rfl (by decide), meetsIn _ _ _ rfl (by decide), meets _ _ _ rfl (by decide),
    meetsIn _ _ _ rfl (by decide), meetsIn _ _ _ rfl (by decide), canIssue_of_all _ _ rfl, by decide⟩

/-- For each barrier instruction: two fragments, no member, stores or copies under way, its own arrival pending, an arrival; the
phase it waits in over and not over; BARW with and without an arrival of its own before. -/
theorem witness_BarrierInstructionsArriveAndWait :
    (∀ i ∈ [Instr.bar 0 15, .bara 0 15, .barw 0 15, .drain 0 15], (MeetsIn (wbar wbar0 fun g => g.setFrag 1 (Frag.entry 0)) i fun c s =>
      (∀ a b p, c.wait ≠ .phase a b p) ∧ 1 < (s.grp c.gid).frags.length) ∧
     (MeetsIn ws i fun c s => (∀ a b p, c.wait ≠ .phase a b p) ∧ (s.grp c.gid).frags.length ≤ 1 ∧ c.gid ∉ (barOf 0 15 c s).members)) ∧
    (∀ i ∈ [Instr.bar 0 15, .bara 0 15, .drain 0 15],
      MeetsIn (wbar wbar0 fun g => { g with stores := [⟨0, 0, .store, 0, 4, 0, 0, false, [], [], 0, 0, 0, 0, 0⟩] }) i fun c s =>
      (∀ a b p, c.wait ≠ .phase a b p) ∧ uniformMember 0 15 c s ∧ (s.grp c.gid).stores ≠ []) ∧
    (∀ i ∈ [Instr.bar 0 15, .baraRadish 0 0 15], MeetsIn (wbar { wbar0 with arrived := 1, pend := [(1, 0)] } id) i fun c s =>
      (∀ a b p, c.wait ≠ .phase a b p) ∧ uniformMember 0 15 c s ∧ (s.grp c.gid).stores = [] ∧
        (c.gid, (barOf 0 15 c s).phase) ∈ (barOf 0 15 c s).pend) ∧
    (∀ i ∈ [Instr.bar 0 15, .bara 0 15, .drainRadish 0 0 15], MeetsIn (wbar wbar0 id) i fun c s =>
      (∀ a b p, c.wait ≠ .phase a b p) ∧ uniformMember 0 15 c s ∧ (s.grp c.gid).stores = [] ∧ s.copiesOf c.gid = [] ∧
        (c.gid, (barOf 0 15 c s).phase) ∉ (barOf 0 15 c s).pend) ∧
    (∀ i ∈ [Instr.bar 0 15, .barw 0 15],
      (MeetsIn (wbar { wbar0 with phase := 1 } fun g => g.await 0 (.phase 0 15 0)) i fun c s =>
        c.wait = .phase 0 15 0 ∧ 0 < (s.bar (s.grp c.gid).team 0 15).phase) ∧
      (MeetsIn (wbar wbar0 fun g => g.await 0 (.phase 0 15 0)) i fun c s =>
        c.wait = .phase 0 15 0 ∧ (s.bar (s.grp c.gid).team 0 15).phase ≤ 0)) ∧
    (MeetsIn (wbar { wbar0 with arrived := 1, pend := [(1, 0)] } id) (.barw 0 15) fun c s =>
      (∀ a b p, c.wait ≠ .phase a b p) ∧ uniformMember 0 15 c s ∧ (∃ q ∈ (barOf 0 15 c s).pend, q.1 = c.gid) ∧
        ∀ q ∈ (barOf 0 15 c s).pend, q.1 = c.gid → q.2 = (barOf 0 15 c s).phase) ∧
    (MeetsIn (wbar wbar0 id) (.barw 0 15) fun c s => (∀ a b p, c.wait ≠ .phase a b p) ∧ uniformMember 0 15 c s ∧
      (∀ q ∈ (barOf 0 15 c s).pend, q.1 ≠ c.gid) ∧ counted (barOf 0 15 c s) < (barOf 0 15 c s).expect) ∧
    (MeetsIn (wbar { wbar0 with gone := [(2, 0)], expect := 1 } id) (.barwRadish 0 0 15) fun c s =>
      (∀ a b p, c.wait ≠ .phase a b p) ∧ uniformMember 0 15 c s ∧
      (∀ q ∈ (barOf 0 15 c s).pend, q.1 ≠ c.gid) ∧ (barOf 0 15 c s).expect ≤ counted (barOf 0 15 c s)) ∧
    (MeetsIn (wbar { wbar0 with phase := 1, pend := [(1, 0)] } id) (.barwRadish 0 0 15) fun c s =>
      (∀ a b p, c.wait ≠ .phase a b p) ∧ uniformMember 0 15 c s ∧
        ∃ q ∈ (barOf 0 15 c s).pend, q.1 = c.gid ∧ ∀ q ∈ (barOf 0 15 c s).pend, q.1 = c.gid → q.2 < (barOf 0 15 c s).phase) := by
  have run (c : Ctx) (h : c.wait = .run) : ∀ a b p, c.wait ≠ .phase a b p := fun a b p e => by rw [h] at e; nomatch e
  simp only [List.forall_mem_cons, List.not_mem_nil, false_imp_iff, implies_true, and_true]
  refine ⟨⟨⟨?_, ?_⟩, ⟨?_, ?_⟩, ⟨?_, ?_⟩, ⟨?_, ?_⟩⟩, ⟨?_, ?_, ?_⟩, ⟨?_, ?_⟩, ⟨?_, ?_, ?_⟩, ⟨⟨?_, ?_⟩, ⟨?_, ?_⟩⟩, ?_, ?_, ?_, ?_⟩ <;>
    first
    | exact meetsIn _ _ _ rfl ⟨run _ rfl, by decide⟩
    | exact meetsIn _ _ _ rfl ⟨run _ rfl, by unfold uniformMember; decide⟩
    | exact meetsIn _ _ _ rfl ⟨rfl, by decide⟩
    | exact meetsIn _ _ _ rfl ⟨run _ rfl, by unfold uniformMember; decide, ⟨(1, 0), .head _, rfl⟩, by decide⟩
    | exact meetsIn _ _ _ rfl ⟨run _ rfl, by unfold uniformMember; decide, (1, 0), .head _, rfl, by decide⟩

/-- A launch with policy 2 and a kernel that has point 7 for role 0; the group has just passed point 7. -/
def wmig (f : Group → Group) : State :=
  { wl (wr (wg fun g => f { g with justEqp := some 7 }) 64 2) fun l => { l with kernel := some 0 } with
    kernels := [⟨0, 0, [], 0, 0, [⟨7, 0, 0, 0, [], []⟩], []⟩] }

/-- EQP of one fragment and of two; MIGR for each of its faults in their order, and its arrival; ROLESW likewise. -/
theorem witness_EquivalencePointMigrationAndRole :
    (Meets ws (.eqp 7) fun _ g => g.frags.length ≤ 1) ∧
    (Meets (wg fun g => g.setFrag 1 (Frag.entry 0)) (.eqpRadish 0 7) fun _ g => 1 < g.frags.length) ∧
    (MeetsIn ws (.migrTeam false 7) fun c s => (∀ a b, c.wait ≠ .migr a b) ∧ ¬((s.launchOf (s.grp c.gid)).policy ≠ 0)) ∧
    (MeetsIn (wt (wmig id) fun t => { t with stream := some Stream.empty }) (.migrTeam true 7) fun c s =>
      (∀ a b, c.wait ≠ .migr a b) ∧ (s.launchOf (s.grp c.gid)).policy ≠ 0 ∧
        ¬((s.team (s.grp c.gid).team).stream = none ∨ true = false)) ∧
    (MeetsIn (wmig fun g => g.setFrag 1 (Frag.entry 0)) (.migrTeam true 7) fun c s => (∀ a b, c.wait ≠ .migr a b) ∧
      (s.launchOf (s.grp c.gid)).policy ≠ 0 ∧ ((s.team (s.grp c.gid).team).stream = none ∨ true = false) ∧
        ¬((s.grp c.gid).frags.length ≤ 1 ∧ (s.grp c.gid).joins = [])) ∧
    (MeetsIn (wmig id) (.migrTeam true 8) fun c s => (∀ a b, c.wait ≠ .migr a b) ∧
      (s.launchOf (s.grp c.gid)).policy ≠ 0 ∧ ((s.team (s.grp c.gid).team).stream = none ∨ true = false) ∧
        ((s.grp c.gid).frags.length ≤ 1 ∧ (s.grp c.gid).joins = []) ∧
        ((s.grp c.gid).loads = [] ∧ (s.grp c.gid).stores = [] ∧ (s.grp c.gid).tiles = [] ∧ (s.grp c.gid).opn = false) ∧
        (s.grp c.gid).justEqp ≠ some 8) ∧
    (MeetsIn (wmig fun g => { g with opn := true }) (.migrTeam true 7) fun c s => (∀ a b, c.wait ≠ .migr a b) ∧
      (s.launchOf (s.grp c.gid)).policy ≠ 0 ∧ ((s.team (s.grp c.gid).team).stream = none ∨ true = false) ∧
        ((s.grp c.gid).frags.length ≤ 1 ∧ (s.grp c.gid).joins = []) ∧
        ¬((s.grp c.gid).loads = [] ∧ (s.grp c.gid).stores = [] ∧ (s.grp c.gid).tiles = [] ∧ (s.grp c.gid).opn = false)) ∧
    (MeetsIn (wmig id) (.migrTeamRadish 0 true 7) fun c s => (∀ a b, c.wait ≠ .migr a b) ∧
      (s.launchOf (s.grp c.gid)).policy ≠ 0 ∧ ((s.team (s.grp c.gid).team).stream = none ∨ true = false) ∧
        ((s.grp c.gid).frags.length ≤ 1 ∧ (s.grp c.gid).joins = []) ∧
        ((s.grp c.gid).justEqp = some 7 ∧ (s.grp c.gid).loads = [] ∧ (s.grp c.gid).stores = [] ∧ (s.grp c.gid).tiles = [] ∧
          (s.grp c.gid).opn = false) ∧ hasPoint s (s.grp c.gid) 7 = true ∧ (s.team (s.grp c.gid).team).migr = none ∧
        c.gid ∈ s.liveGroups (s.grp c.gid).team ∧ ∀ e ∈ s.migq, e.team ≠ (s.grp c.gid).team) ∧
    (MeetsIn (wt (wmig id) fun t => { t with migr := some (true, 8, []) }) (.migrTeam true 7) fun c s =>
      (∀ a b, c.wait ≠ .migr a b) ∧
      (s.launchOf (s.grp c.gid)).policy ≠ 0 ∧ ((s.team (s.grp c.gid).team).stream = none ∨ true = false) ∧
        ((s.grp c.gid).frags.length ≤ 1 ∧ (s.grp c.gid).joins = []) ∧
        ((s.grp c.gid).justEqp = some 7 ∧ (s.grp c.gid).loads = [] ∧ (s.grp c.gid).stores = [] ∧ (s.grp c.gid).tiles = [] ∧
          (s.grp c.gid).opn = false) ∧ hasPoint s (s.grp c.gid) 7 = true ∧
        ∃ m, (s.team (s.grp c.gid).team).migr = some m ∧ (m.1 ≠ true ∨ m.2.1 ≠ 7)) ∧
    (MeetsIn (wr (wg fun g => { g with justEqp := some 7 }) 64 2) (.migrTeam true 7) fun c s => (∀ a b, c.wait ≠ .migr a b) ∧
      (s.launchOf (s.grp c.gid)).policy ≠ 0 ∧ ((s.team (s.grp c.gid).team).stream = none ∨ true = false) ∧
        ((s.grp c.gid).frags.length ≤ 1 ∧ (s.grp c.gid).joins = []) ∧
        ((s.grp c.gid).justEqp = some 7 ∧ (s.grp c.gid).loads = [] ∧ (s.grp c.gid).stores = [] ∧ (s.grp c.gid).tiles = [] ∧
          (s.grp c.gid).opn = false) ∧ ∀ p ∈ s.points (s.launchOf (s.grp c.gid)), p.point = 7 → p.role ≠ (s.grp c.gid).role) ∧
    (MeetsIn (wg fun g => { g with loads := [⟨0, 0, .load false, 0, 4, 4, 0, false, none, [], [], [], 0, 0, 0, 0, 0⟩] }) (.rolesw 0) fun c s =>
      (s.grp c.gid).frags.length ≤ 1 ∧ (s.grp c.gid).loads ≠ []) ∧
    (MeetsIn (wg fun g => { g with tiles := [⟨0xBA, 0, 0, none, 0, 0, 0⟩] }) (.roleswRadish 0 0) fun c s =>
      (s.grp c.gid).frags.length ≤ 1 ∧ (s.grp c.gid).loads = [] ∧ (s.grp c.gid).tiles ≠ []) ∧
    (MeetsIn (wg fun g => { g with opn := true }) (.rolesw 7) fun c s =>
      (s.grp c.gid).frags.length ≤ 1 ∧ (s.grp c.gid).loads = [] ∧ (s.grp c.gid).tiles = [] ∧ (s.grp c.gid).opn = true) ∧
    (MeetsIn (wg fun g => g.setFrag 1 (Frag.entry 0)) (.rolesw 0) fun c s => 1 < (s.grp c.gid).frags.length) ∧
    (MeetsIn ws (.rolesw 0) fun c s => ((s.grp c.gid).frags.length ≤ 1 ∧ (s.grp c.gid).loads = [] ∧ (s.grp c.gid).tiles = [] ∧
        (s.grp c.gid).opn = false) ∧
      ¬((s.launchOf (s.grp c.gid)).roleKind 0 < 2 ∧ ((s.launchOf (s.grp c.gid)).role (s.grp c.gid).role 9 1).testBit 0 = true)) ∧
    (MeetsIn (wr ws 153 1) (.roleswRadish 0 0) fun c s => ((s.grp c.gid).frags.length ≤ 1 ∧ (s.grp c.gid).loads = [] ∧
        (s.grp c.gid).tiles = [] ∧ (s.grp c.gid).opn = false) ∧
      ((s.launchOf (s.grp c.gid)).roleKind 0 < 2 ∧ ((s.launchOf (s.grp c.gid)).role (s.grp c.gid).role 9 1).testBit 0 = true)) := by
  have run (c : Ctx) (h : c.wait = .run) : ∀ a b, c.wait ≠ .migr a b := fun a b e => by rw [h] at e; nomatch e
  exact ⟨meets _ _ _ rfl (by decide), meets _ _ _ rfl (by decide), meetsIn _ _ _ rfl ⟨run _ rfl, by decide⟩,
    meetsIn _ _ _ rfl ⟨run _ rfl, by decide, by decide⟩, meetsIn _ _ _ rfl ⟨run _ rfl, by decide, .inl rfl, by decide⟩,
    meetsIn _ _ _ rfl ⟨run _ rfl, by decide, .inl rfl, ⟨by decide, rfl⟩, ⟨rfl, rfl, rfl, rfl⟩, by decide⟩,
    meetsIn _ _ _ rfl ⟨run _ rfl, by decide, .inl rfl, ⟨by decide, rfl⟩, fun h => absurd h.2.2.2 (by decide)⟩,
    meetsIn _ _ _ rfl ⟨run _ rfl, by decide, .inl rfl, ⟨by decide, rfl⟩, ⟨rfl, rfl, rfl, rfl, rfl⟩, rfl, rfl, by decide, by decide⟩,
    meetsIn _ _ _ rfl ⟨run _ rfl, by decide, .inl rfl, ⟨by decide, rfl⟩, ⟨rfl, rfl, rfl, rfl, rfl⟩, rfl, _, rfl, .inr (by decide)⟩,
    meetsIn _ _ _ rfl ⟨run _ rfl, by decide, .inl rfl, ⟨by decide, rfl⟩, ⟨rfl, rfl, rfl, rfl, rfl⟩, by decide⟩,
    meetsIn _ _ _ rfl ⟨by decide, by decide⟩, meetsIn _ _ _ rfl ⟨by decide, rfl, by decide⟩, meetsIn _ _ _ rfl ⟨by decide, rfl, rfl, rfl⟩,
    meetsIn _ _ _ rfl (by decide), meetsIn _ _ _ rfl ⟨⟨by decide, rfl, rfl, rfl⟩, by decide⟩,
    meetsIn _ _ _ rfl ⟨⟨by decide, rfl, rfl, rfl⟩, by decide, rfl⟩⟩

/-- Two fragments under one join record, the other in some wait. -/
def wjoin (w : Wait) : State := wjoins 1 fun g => g.setFrag 1 { Frag.entry 0 with inner := some 1, wait := w }

/-- One fragment, of a group with and without a join record; two, with no record, with one at whose JOIN the other waits, with one at which
it does not, and in a handler. -/
theorem witness_ExitRetiresLanesAndFenceOfCode :
    (∀ i ∈ [Instr.exitFrag, .exitFragRadish 0], MeetsIn ws i fun c s => ∃ f, (s.grp c.gid).frags = [(c.fid, f)]) ∧
    (MeetsIn (wjoins 1 id) .exitFrag fun c s => ∃ f, (s.grp c.gid).frags = [(c.fid, f)]) ∧
    (∀ i ∈ [Instr.exitFrag, .exitFragRadish 0], MeetsIn (wg fun g => g.setFrag 1 (Frag.entry 0)) i fun c s =>
      (∃ k f, k ≠ c.fid ∧ afind k (s.grp c.gid).frags = some f) ∧ (s.grp c.gid).joins = []) ∧
    (MeetsIn (wjoin (.join 1)) .exitFrag fun c s => (∃ k f, k ≠ c.fid ∧ afind k (s.grp c.gid).frags = some f) ∧
      ∃ j k, (s.grp c.gid).joins = [(j, k)] ∧
        ∀ p ∈ adel c.fid (s.grp c.gid).frags, j ∈ ({ s.grp c.gid with frags := adel c.fid (s.grp c.gid).frags }).chain p.2 → p.2.wait = .join j) ∧
    (MeetsIn (wjoin .run) .exitFrag fun c s => (∃ k f, k ≠ c.fid ∧ afind k (s.grp c.gid).frags = some f) ∧
      ∃ j k, (s.grp c.gid).joins = [(j, k)] ∧
        ∃ p ∈ adel c.fid (s.grp c.gid).frags, j ∈ ({ s.grp c.gid with frags := adel c.fid (s.grp c.gid).frags }).chain p.2 ∧ p.2.wait ≠ .join j) ∧
    (MeetsIn (wg fun g => { g.setFrag 1 (Frag.entry 0) with inh := true, hctx := some (0, [], []) }) .exitFrag fun c s =>
      (∃ k f, k ≠ c.fid ∧ afind k (s.grp c.gid).frags = some f) ∧ (s.grp c.gid).inh = true ∧ ∃ st js, (s.grp c.gid).hctx = some (c.fid, st, js)) ∧
    (∀ i ∈ [Instr.ifence, .ifenceRadish 0], CanIssue ws 1 0 i) := by
  refine ⟨?_, meetsIn _ _ _ rfl ⟨_, rfl⟩, ?_, meetsIn _ _ _ rfl ⟨⟨1, _, by decide, rfl⟩, 1, _, rfl, by decide⟩,
    meetsIn _ _ _ rfl ⟨⟨1, _, by decide, rfl⟩, 1, _, rfl, _, .head _, by decide, by decide⟩,
    meetsIn _ _ _ rfl ⟨⟨1, _, by decide, rfl⟩, rfl, _, _, rfl⟩, canIssue_of_all _ _ rfl⟩ <;>
  simp only [List.forall_mem_cons, List.not_mem_nil, false_imp_iff, implies_true, and_true]
  · exact ⟨meetsIn _ _ _ rfl ⟨_, rfl⟩, meetsIn _ _ _ rfl ⟨_, rfl⟩⟩
  · exact ⟨meetsIn _ _ _ rfl ⟨⟨1, _, by decide, rfl⟩, rfl⟩, meetsIn _ _ _ rfl ⟨⟨1, _, by decide, rfl⟩, rfl⟩⟩

/-- In no handler; in one with the stack as found and not; XPC aligned and not. -/
theorem witness_TrapAndReturnFromHandler :
    (∀ i ∈ [Instr.trapCode 0xFFFF, .trapCodeRadish 0 1], CanIssue ws 1 0 i) ∧
    (∀ i ∈ [Instr.xret false, .xret true, .xretRadish 0 false], Meets ws i fun _ g => g.inh = false ∨ g.hctx = none) ∧
    (∀ i ∈ [Instr.xret false, .xret true, .xretRadish 0 false],
      Meets (wg fun g => { g with inh := true, hctx := some (0, [1], []) }) i fun c g =>
      g.inh = true ∧ g.hctx.isSome = true ∧ ¬∃ k st js, g.hctx = some (k, st, js) ∧ (g.frag c.fid).stack = st ∧ g.joins = js) ∧
    (∀ i ∈ [Instr.xret false, .xret true, .xretRadish 0 false],
      Meets (wg fun g => { g with inh := true, hctx := some (0, [], []), xpc := 2 }) i fun c g =>
      g.inh = true ∧ (∃ k st js, g.hctx = some (k, st, js) ∧ (g.frag c.fid).stack = st ∧ g.joins = js) ∧
        g.xpc.toNat % (if c.rad then 8 else 4) ≠ 0) ∧
    (∀ i ∈ [Instr.xret false, .xret true, .xretRadish 0 false],
      Meets (wg fun g => { g with inh := true, hctx := some (0, [], []), xpc := 8 }) i fun c g =>
      g.inh = true ∧ (∃ k st js, g.hctx = some (k, st, js) ∧ (g.frag c.fid).stack = st ∧ g.joins = js) ∧
        g.xpc.toNat % (if c.rad then 8 else 4) = 0) := by
  refine ⟨canIssue_of_all _ _ rfl, ?_, ?_, ?_, ?_⟩ <;>
  simp only [List.forall_mem_cons, List.not_mem_nil, false_imp_iff, implies_true, and_true]
  · exact ⟨meets _ _ _ rfl (.inl rfl), meets _ _ _ rfl (.inl rfl), meets _ _ _ rfl (.inl rfl)⟩
  · have no (g : Group) (h : g.hctx = some (0, [1], [])) (e : (g.frag 0).stack = []) :
        ¬∃ k st js, g.hctx = some (k, st, js) ∧ (g.frag 0).stack = st ∧ g.joins = js := by
      rintro ⟨k, st, js, a, b, -⟩
      rw [h] at a; rw [e] at b; subst b
      simp at a
    exact ⟨meets _ _ _ rfl ⟨rfl, rfl, no _ rfl rfl⟩, meets _ _ _ rfl ⟨rfl, rfl, no _ rfl rfl⟩,
      meets _ _ _ rfl ⟨rfl, rfl, no _ rfl rfl⟩⟩
  · exact ⟨meets _ _ _ rfl ⟨rfl, ⟨_, _, _, rfl, rfl, rfl⟩, by decide⟩, meets _ _ _ rfl ⟨rfl, ⟨_, _, _, rfl, rfl, rfl⟩, by decide⟩,
      meets _ _ _ rfl ⟨rfl, ⟨_, _, _, rfl, rfl, rfl⟩, by decide⟩⟩
  · exact ⟨meets _ _ _ rfl ⟨rfl, ⟨_, _, _, rfl, rfl, rfl⟩, by decide⟩, meets _ _ _ rfl ⟨rfl, ⟨_, _, _, rfl, rfl, rfl⟩, by decide⟩,
      meets _ _ _ rfl ⟨rfl, ⟨_, _, _, rfl, rfl, rfl⟩, by decide⟩⟩

/-- Where every group that is a member runs, nobody waits. -/
theorem not_someWaits (s : State) (q : Nat × Nat) (b : Bar) (h : ∀ m ∈ b.members, m < 2 ^ 40 ∧ ∀ f ∈ (s.grp m).frags, f.2.wait = .run) :
    ¬someWaits s q b := by
  rintro ⟨m, hm, ⟨f, hf, p, -, w | w⟩ | ⟨k, -⟩⟩
  · rw [(h m hm).2 f hf] at w; nomatch w
  · rw [(h m hm).2 f hf] at w; nomatch w
  · exact absurd (h m hm).1 (by omega)

/-- The first and last index of each range; a barrier with nothing arrived, one with an arrival, one at which a member waits, and the
EXPECT 0 and one more than the members. -/
theorem witness_TrapRegistersReadAndWrite :
    (∀ i ∈ [Instr.xrd 1 0, .xrd 1 4, .xrd 1 8, .xrd 1 0x10, .xrd 1 0x20, .xrd 1 0x3B, .xrdRadish 0 1 0x37], CanIssue ws 1 0 i) ∧
    (trapIndex 0 = true ∧ trapIndex 4 = true ∧ trapIndex 8 = true ∧ trapIndex 0x10 = true ∧ trapIndex 0x3B = true) ∧
    (∀ i ∈ [Instr.xwr 1 0, .xwr 1 3, .xwrRadish 0 1 2], Meets ws i fun _ g => g.inh = false) ∧
    (∀ i ∈ [Instr.xwr 1 0, .xwr 1 1, .xwr 1 2], Meets (wg fun g => { g with inh := true }) i fun _ g => g.inh = true) ∧
    (Meets (wg fun g => { (g.putS 1 0x30) with inh := true }) (.xwr 1 3) fun _ g => g.inh = true ∧ legalMode (g.sreg 1)) ∧
    (Meets (wg fun g => { (g.putS 1 0xF0) with inh := true }) (.xwr 1 3) fun _ g => g.inh = true ∧ ¬legalMode (g.sreg 1)) ∧
    (∀ i ∈ [Instr.xwr 1 0x10, .xwr 1 4, .xwr 1 8, .xwr 1 15], CanIssue ws 1 0 i) ∧
    (MeetsIn (wbar { wbar0 with arrived := 1, pend := [(1, 0)] } id) (.xwr 1 0x2F) fun c s => (s.bar (s.grp c.gid).team 0 15).arrived ≠ 0) ∧
    (MeetsIn (wbar wbar0 fun g => g.setFrag 1 { Frag.entry 0 with wait := .phase 0 15 0 }) (.xwr 1 0x2F) fun c s =>
      someWaits s (0, 15) (s.bar (s.grp c.gid).team 0 15)) ∧
    (∀ n ∈ [0, 3], MeetsIn (wbar wbar0 fun g => g.putS 1 n) (.xwr 1 0x2F) fun c s => (s.bar (s.grp c.gid).team 0 15).arrived = 0 ∧
      ¬someWaits s (0, 15) (s.bar (s.grp c.gid).team 0 15) ∧ (((s.grp c.gid).sreg 1).toNat % 2 ^ 14 = 0 ∨
        (s.bar (s.grp c.gid).team 0 15).members.length < ((s.grp c.gid).sreg 1).toNat % 2 ^ 14)) ∧
    (MeetsIn (wbar wbar0 fun g => g.putS 1 2) (.xwrRadish 0 1 0x2F) fun c s => (s.bar (s.grp c.gid).team 0 15).arrived = 0 ∧
      ¬someWaits s (0, 15) (s.bar (s.grp c.gid).team 0 15) ∧
      (s.bar (s.grp c.gid).team 0 15).gone = [] ∧ 0 < ((s.grp c.gid).sreg 1).toNat % 2 ^ 14 ∧
      ((s.grp c.gid).sreg 1).toNat % 2 ^ 14 ≤ (s.bar (s.grp c.gid).team 0 15).members.length) := by
  refine ⟨canIssue_of_all _ _ rfl, by decide, ?_, ?_, ?_, ?_, canIssue_of_all _ _ rfl, ?_, ?_, ?_, ?_⟩
  · simp only [List.forall_mem_cons, List.not_mem_nil, false_imp_iff, implies_true, and_true]
    exact ⟨meets _ _ _ rfl rfl, meets _ _ _ rfl rfl, meets _ _ _ rfl rfl⟩
  · simp only [List.forall_mem_cons, List.not_mem_nil, false_imp_iff, implies_true, and_true]
    exact ⟨meets _ _ _ rfl rfl, meets _ _ _ rfl rfl, meets _ _ _ rfl rfl⟩
  · exact meets _ _ _ rfl ⟨rfl, by unfold legalMode; decide⟩
  · exact meets _ _ _ rfl ⟨rfl, by unfold legalMode; decide⟩
  · exact meetsIn _ _ _ rfl (by decide)
  · exact meetsIn _ _ _ rfl ⟨1, .head _, .inl ⟨_, .tail _ (.head _), 0, Nat.le_refl _, .inl rfl⟩⟩
  · simp only [List.forall_mem_cons, List.not_mem_nil, false_imp_iff, implies_true, and_true]
    exact ⟨meetsIn _ _ _ rfl ⟨rfl, not_someWaits _ _ _ (by decide), by decide⟩, meetsIn _ _ _ rfl ⟨rfl, not_someWaits _ _ _ (by decide), by decide⟩⟩
  · exact meetsIn _ _ _ rfl ⟨rfl, not_someWaits _ _ _ (by decide), by decide⟩

theorem witness_SpecialValuesRead :
    (∀ i ∈ [Instr.sread 0 0, .sread 1 0x0E, .sread 2 0x10, .sread 62 0x1A, .sreadRadish 0 0 0x14], CanIssue ws 1 0 i) ∧
    (specialIndex 0 0 = true ∧ specialIndex 0x0E 1 = true ∧ specialIndex 0x10 2 = true ∧ specialIndex 0x1A 62 = true) :=
  ⟨canIssue_of_all _ _ rfl, by decide⟩

/-- A MOVI behind a narrow LIT, an SMOVI behind a wide one, a NOP there, and a LIT as its own consumer. -/
theorem witness_LiteralIsHeldForItsConsumer :
    (∀ w ∈ [false, true], MeetsIn (wwords (wmode 0x10) 8 [0x4D010000, 0x5A010000]) (.lit w 5) fun c s =>
      ((s.grp c.gid).frag c.fid).lit = none ∧ ∃ v, litWord w c s = .ok v ∧ acceptsLit (s.grp c.gid).mode w v = true) ∧
    (∀ w ∈ [false, true], MeetsIn ws (.lit w 5) fun c s => ((s.grp c.gid).frag c.fid).lit ≠ none ∨
      ∃ v, litWord w c s = .ok v ∧ acceptsLit (s.grp c.gid).mode w v = false) ∧
    (MeetsIn (wf fun f => { f with lit := some ⟨5, false, 0⟩ }) (.lit false 5) fun c s =>
      ((s.grp c.gid).frag c.fid).lit ≠ none) ∧
    acceptsLit 0x10 true 0x5A010000 = true ∧ acceptsLit 0x20 false 0xA0000000 = true := by
  refine ⟨?_, ?_, meetsIn _ _ _ rfl (by decide), rfl, rfl⟩ <;>
  simp only [List.forall_mem_cons, List.not_mem_nil, false_imp_iff, implies_true, and_true]
  · exact ⟨meetsIn _ _ _ rfl ⟨rfl, _, rfl, rfl⟩, meetsIn _ _ _ rfl ⟨rfl, _, rfl, rfl⟩⟩
  · exact ⟨meetsIn _ _ _ rfl (.inr ⟨_, rfl, rfl⟩), meetsIn _ _ _ rfl (.inr ⟨_, rfl, rfl⟩)⟩

/-- A launch with a handler at the code base and one without. -/
theorem witness_TakingAFaultWritesItsRecord :
    ((flt 1 4).cause + 256 * (flt 1 4).flag < 2 ^ 16 ∧ (fltA 5 0 (2 ^ 57 - 1)).cause < 2 ^ 16) ∧
    (let s := wr (wr (wr (wr ws 24 0) 25 0) 26 0) 27 0
     (s.launchOf (s.grp 1)).handler false = some 0 ∧ (s.grp 1).inh = false ∧ handlerOk 1 4 = true ∧ (s.grp 1).sfu = []) ∧
    ((ws.launchOf (ws.grp 1)).handler false = none ∧ ws.repHead - ws.repTail ≠ 255 ∧ ws.repHeld = []) := by decide

/-- With one candidate, none, for every byte, a granule has one outcome, whatever the device chooses. -/
theorem chooseGranule_none (ks : List Nat) (w : Whole) (ch : Nat) :
    (chooseGranule ks (ks.map fun _ => [none]) w ch).1 = ks.map fun _ => none := by
  have e : ∀ (l : List Nat) (ch : Nat), (pickEach (l.map fun _ => [none]) ch).1 = l.map fun _ => none := by
    intro l
    induction l with
    | nil => intro; rfl
    | cons a l ih => intro ch; simp only [List.map_cons, pickEach, ih, List.length_singleton, Nat.mod_one]; rfl
  have f (all : Bool) : ∀ (l : List Nat) (got : List (Nat × List Cand × Cand)), (∀ g ∈ got, g.2.2 = none) →
      wholeFrom all got (List.zip l (l.map fun _ => [none])) = [(got.map (·.2.2)).reverse ++ l.map fun _ => none] := by
    intro l
    induction l with
    | nil => intro got _; simp [wholeFrom]
    | cons a l ih =>
      intro got h
      have ok : (got.all fun g => agrees all g.2.2 none [none] && agrees all none g.2.2 g.2.1) = true := by
        rw [List.all_eq_true]; intro g hg; rw [h g hg]; rfl
      simp only [List.map_cons, List.zip_cons_cons, wholeFrom, List.flatMap_cons, List.flatMap_nil, List.append_nil, ok, if_true]
      rw [ih _ (by simpa using h)]
      simp
  have g (all : Bool) := f all ks [] (by simp)
  cases w
  · exact e ks ch
  all_goals simp only [chooseGranule, g, pick, List.length_singleton, Nat.mod_one]; rfl

/-- With no write of any agent, a load's bytes are those in memory. -/
theorem loadCands_none (s : State) (nd ag : Nat) (b : ByteRef) (n ch : Nat) (p : Place) (acq : Option Nat) (strong : Bool)
    (hn : n ≤ 4) (h : ∀ x, candidates s nd ag x p acq = [none]) :
    (loadCands s nd ag b n p acq strong ch).1 = (List.range n).map fun i => (b.key + i, none) := by
  have z (l : List Nat) : List.zip l (l.map fun _ => (none : Cand)) = l.map fun x => (x, none) := by
    induction l <;> simp_all
  simp only [loadCands, granules, if_pos hn, List.foldl_cons, List.foldl_nil, List.nil_append, h, chooseGranule_none, z, List.map_map]
  rfl

/-- With no write and nothing observed, a byte has one candidate: what stood there first. -/
theorem candidates_quiet (s : State) (n ag : Nat) (b : ByteRef) (p : Place) (acq : Option Nat) (hw : s.ord.writes = [])
    (ho : (s.ord.ag ag).obs = []) (ha : s.ord.acqObs = []) : candidates s n ag b p acq = [none] := by
  cases acq <;> simp [candidates, floorOf, hw, ho, ha]

/-- The parts of a record's lines that a read takes at a time, each with its offset, its length and its key. -/
def quietParts (ls : List (Nat × Nat × Nat)) : List (Nat × Nat × Nat) :=
  ls.flatMap fun p => (partsOf 4 p.1 p.2.1).map fun x => (x.1, x.2, p.2.2 + (x.1 - p.1))
/-- The bytes that memory holds there. -/
def quietBytes (s : State) (ls : List (Nat × Nat × Nat)) : List Byte :=
  (quietParts ls).flatMap fun x => (List.range x.2.1).map fun i => s.peek (x.2.2 + i)

/-- A record's lines are those. -/
def linesAre (r : Except FaultInfo (List (Nat × Nat × Nat × Nat × Nat))) (ls : List (Nat × Nat × Nat)) : Bool :=
  match r with | .ok x => x.map (fun p => (p.1, p.2.1, p.2.2.1)) == ls | .error _ => false

/-- With no write and nothing observed, a run of relaxed loads gives the bytes in memory and observes nothing. -/
theorem loads_quiet (s : State) (asid ag nd : Nat) (pl : Place) (ch : Nat → Nat) (hs : s.shallot.owner = []) :
    ∀ (xs : List (Nat × Nat × Nat)) (o : Ord) (acc : List Byte), (∀ x ∈ xs, x.2.1 ≤ 4) → o.writes = [] → (o.ag ag).obs = [] → o.acqObs = [] →
      ∃ o' : Ord, xs.foldl (fun (p : State × List Byte) x =>
        if p.1.foreign asid x.2.2 then (p.1, p.2 ++ List.replicate x.2.1 0)
        else
          let got := (loadCands p.1 nd ag ⟨x.2.2, x.1⟩ x.2.1 pl none true (ch x.1)).1
          (returnLoad p.1 ag nd pl 4 false true [] got, p.2 ++ got.map fun q => candByte p.1 q.1 q.2)) ({ s with ord := o }, acc) =
        ({ s with ord := o' }, acc ++ xs.flatMap fun x => (List.range x.2.1).map fun i => s.peek (x.2.2 + i)) := by
  intro xs
  induction xs with
  | nil => intro o acc _ _ _ _; exact ⟨o, by simp⟩
  | cons x xs ih =>
    intro o acc h4 hw ho ha
    have hk (k : Nat) : State.foreign { s with ord := o } asid k = false := by
      have : keyOf { s with ord := o } k = 0 := by simp [keyOf, hs, aget, afind]
      simp [State.foreign, this]
    have hb (k : Nat) : candByte { s with ord := o } k none = s.peek k := by
      simp [candByte, State.initByte, hw]; rfl
    have hl := loadCands_none { s with ord := o } nd ag ⟨x.2.2, x.1⟩ x.2.1 (ch x.1) pl none true (h4 x (by simp))
      (fun y => candidates_quiet _ _ _ _ _ _ hw ho ha)
    simp only [List.foldl_cons, hk, Bool.false_eq_true, if_false, hl]
    have hr : returnLoad { s with ord := o } ag nd pl 4 false true [] ((List.range x.2.1).map fun i => (x.2.2 + i, none)) =
        { s with ord := o.setAg ag { o.ag ag with obs := (o.ag ag).obs, pend := (o.ag ag).pend } } := by
      simp [returnLoad, List.filterMap_map, Function.comp_def]
    rw [hr]
    obtain ⟨o', e⟩ := ih (o.setAg ag { o.ag ag with obs := (o.ag ag).obs, pend := (o.ag ag).pend })
      (acc ++ (List.range x.2.1).map fun i => s.peek (x.2.2 + i)) (fun y hy => h4 y (by simp [hy])) hw
      (by simp [Ord.setAg, Ord.ag] at ho ⊢; exact ho) ha
    refine ⟨o', ?_⟩
    simp only [List.map_map, Function.comp_def, hb, List.flatMap_cons, ← List.append_assoc]
    exact e

theorem partsOf_four : ∀ a m, ∀ x ∈ partsOf 4 a m, x.2 ≤ 4 := by
  intro a m x hx
  unfold partsOf at hx
  split at hx
  · simp at hx
  · obtain ⟨i, -, rfl⟩ := List.mem_map.mp hx
    show min (a + m) ((a / 4 + i) * 4 + 4) - max a ((a / 4 + i) * 4) ≤ 4
    omega

/-- What a record's read gives in a state with no event yet: the bytes in memory. -/
theorem readRecord_quiet (s : State) (c : Ctx) (va n : Nat) (ls : List (Nat × Nat × Nat)) (r : List Byte)
    (ho : s.ord = State.reset.ord) (hs : s.shallot.owner = []) (hl : linesAre (recordLines c s va n) ls = true)
    (hr : quietBytes s ls = r) : ∃ u, readRecord c s va n = .ok (u, r) := by
  obtain ⟨l5, hl, e5⟩ : ∃ l5, recordLines c s va n = .ok l5 ∧ l5.map (fun p => (p.1, p.2.1, p.2.2.1)) = ls := by
    revert hl; cases recordLines c s va n <;> simp [linesAre]
  have e : recordEvent c s = (0, (State.reset.ord.newNode []).2) := by
    simp only [recordEvent, ho]; rfl
  have q : (l5.flatMap fun p => (partsOf 4 p.1 p.2.1).map fun x => (x.1, x.2, p.2.2.1 + (x.1 - p.1))) = quietParts ls := by
    rw [← e5, quietParts, List.flatMap_map]
  have h4 : ∀ x ∈ quietParts ls, x.2.1 ≤ 4 := by
    intro x hx
    simp only [quietParts, List.mem_flatMap, List.mem_map] at hx
    obtain ⟨p, -, y, hy, rfl⟩ := hx
    exact partsOf_four _ _ _ hy
  simp only [readRecord, hl, e, Except.map, q]
  obtain ⟨o', f⟩ := loads_quiet s (s.asidOf (s.grp c.gid)) (laneAgent c.gid ((lanesOf c.em).headD 0)) 0 (s.placeOf c.gid)
    (fun k => Config.free s.fresh 0 (k / 4)) hs (quietParts ls)
    ((State.reset.ord.newNode []).2.setAg (laneAgent c.gid ((lanesOf c.em).headD 0))
      { (State.reset.ord.newNode []).2.ag (laneAgent c.gid ((lanesOf c.em).headD 0)) with at_ := some 0 }) [] h4 rfl
    (by simp only [Ord.setAg, Ord.ag, aget_aput]; rfl) rfl
  refine ⟨{ s with ord := o' }, ?_⟩
  rw [← hr, quietBytes]
  exact congrArg Except.ok f

/-- A launch record of one team of one vector group. -/
def launchRec : List Byte := (((((placedRecord 1).set 56 1).set 58 1).set 60 1).set 62 0x11).set 63 1

/-- The bytes of that record that are not zero. -/
def launchBytes : List (Nat × Byte) :=
  ((List.range 8).map fun i => (24 + i, 0xFF)) ++ [(56, 1), (58, 1), (60, 1), (62, 0x11), (63, 1), (150, 5), (151, 32)] ++
    (List.range 7).map fun i => (164 + 14 * i, 3)

/-- Bytes of the page at VA 0. -/
def wbytes (s : State) (bs : List (Nat × Byte)) : State :=
  { s with mem := bs.foldl (fun m (p : Nat × Byte) => mwrite m (devKey s.self (0x20000 + p.1)) [p.2]) s.mem }
/-- Bytes of the team's window. -/
def wwin (s : State) (bs : List (Nat × Byte)) : State :=
  wt s fun t => { t with win := bs.foldl (fun m (p : Nat × Byte) => mwrite m p.1 [p.2]) t.win }
/-- The least launch with bytes of the page at VA 0 and queue 0 enabled for its context with n launches in it. -/
def wq (bs : List (Nat × Byte)) (n : Nat) : State := (wbytes ws bs).setQueue 0 ⟨0, 0, true, List.replicate n 9⟩

/-- The lines of a record of n lines at VA 0, which translates to 0x20000. -/
def lines0 (n : Nat) : List (Nat × Nat × Nat) := (List.range n).map fun i => (128 * i, 128, devKey 0 (0x20000 + 128 * i))

/-- A group with a returning atomic outstanding. -/
def watom (f : Group → Group) : State :=
  wg fun g => f { g with loads := [⟨0, 0, .atomic 0, 0, 4, 3, 0, true, none, [], [], [], 0, 0, 0, 0, 0⟩] }

/-- No lane; an address that is not a multiple of 256; an atomic outstanding; a queue of another context; a record whose grid is
empty; a sound one before a queue with 63 and with 64 launches. -/
theorem witness_LaunchQueuesItsRecord :
    (∀ i ∈ [Instr.launchQueue 0, .launchQueueRadish 0 0], Meets (wf fun f => { f with em := 0 }) i fun c _ => c.em = 0) ∧
    (MeetsIn (wg fun g => g.putS 2 0x80) (.launchQueue 1) fun c s => c.em ≠ 0 ∧ ((s.grp c.gid).sreg64 2).toNat % 256 ≠ 0) ∧
    (MeetsIn (watom id) (.launchQueue 0) fun c s => c.em ≠ 0 ∧ ((s.grp c.gid).sreg64 0).toNat % 256 = 0 ∧
      recordWaits c s ((s.grp c.gid).sreg64 0).toNat 256 = true) ∧
    (MeetsIn ws (.launchQueue 0) fun c s => (c.em ≠ 0 ∧ ((s.grp c.gid).sreg64 0).toNat % 256 = 0 ∧
      recordWaits c s ((s.grp c.gid).sreg64 0).toNat 256 = false ∧
      ∃ u, readRecord c s ((s.grp c.gid).sreg64 0).toNat 256 = .ok (u, List.replicate 256 0)) ∧
      (s.queue (field (List.replicate 256 0) 65 1)).en = false) ∧
    (MeetsIn (wq [] 0) (.launchQueue 0) fun c s => (c.em ≠ 0 ∧ ((s.grp c.gid).sreg64 0).toNat % 256 = 0 ∧
      recordWaits c s ((s.grp c.gid).sreg64 0).toNat 256 = false ∧
      ∃ u, readRecord c s ((s.grp c.gid).sreg64 0).toNat 256 = .ok (u, List.replicate 256 0)) ∧
      (s.queue (field (List.replicate 256 0) 65 1)).en = true ∧
      (s.queue (field (List.replicate 256 0) 65 1)).asid = s.asidOf (s.grp c.gid) ∧
      recordCause (newLaunch s (s.asidOf (s.grp c.gid)) (List.replicate 256 0) (some 0) 0) 0 false = some "field") ∧
    (MeetsIn (wq launchBytes 63) (.launchQueue 0) fun c s => (c.em ≠ 0 ∧ ((s.grp c.gid).sreg64 0).toNat % 256 = 0 ∧
      recordWaits c s ((s.grp c.gid).sreg64 0).toNat 256 = false ∧
      ∃ u, readRecord c s ((s.grp c.gid).sreg64 0).toNat 256 = .ok (u, launchRec)) ∧
      ((s.queue (field launchRec 65 1)).en = true ∧ (s.queue (field launchRec 65 1)).asid = s.asidOf (s.grp c.gid)) ∧
      recordCause (newLaunch s (s.asidOf (s.grp c.gid)) launchRec (some (field launchRec 65 1)) (s.queue (field launchRec 65 1)).cls)
        (s.queue (field launchRec 65 1)).cls false = none ∧ (s.queue (field launchRec 65 1)).pending.length < 64) ∧
    (MeetsIn (wq launchBytes 64) (.launchQueueRadish 0 0) fun c s => (c.em ≠ 0 ∧ ((s.grp c.gid).sreg64 0).toNat % 256 = 0 ∧
      recordWaits c s ((s.grp c.gid).sreg64 0).toNat 256 = false ∧
      ∃ u, readRecord c s ((s.grp c.gid).sreg64 0).toNat 256 = .ok (u, launchRec)) ∧
      ((s.queue (field launchRec 65 1)).en = true ∧ (s.queue (field launchRec 65 1)).asid = s.asidOf (s.grp c.gid)) ∧
      recordCause (newLaunch s (s.asidOf (s.grp c.gid)) launchRec (some (field launchRec 65 1)) (s.queue (field launchRec 65 1)).cls)
        (s.queue (field launchRec 65 1)).cls false = none ∧ 64 ≤ (s.queue (field launchRec 65 1)).pending.length) := by
  have quiet (s : State) (c : Ctx) (r : List Byte) (h1 : s.ord = State.reset.ord) (h2 : s.shallot.owner = [])
      (h3 : linesAre (recordLines c s 0 256) (lines0 2) = true) (h4 : quietBytes s (lines0 2) = r) :
      ∃ u, readRecord c s 0 256 = .ok (u, r) := readRecord_quiet s c 0 256 (lines0 2) r h1 h2 h3 h4
  refine ⟨?_, meetsIn _ _ _ rfl ⟨by decide, by decide⟩, meetsIn _ _ _ rfl ⟨by decide, rfl, rfl⟩,
    meetsIn _ _ _ rfl ⟨⟨by decide, rfl, by decide +kernel, ?_⟩, rfl⟩,
    meetsIn _ _ _ rfl ⟨⟨by decide, rfl, by decide +kernel, ?_⟩, rfl, rfl, by decide +kernel⟩,
    meetsIn _ _ _ rfl ⟨⟨by decide, rfl, by decide +kernel, ?_⟩, ⟨rfl, rfl⟩, by decide +kernel, by decide⟩,
    meetsIn _ _ _ rfl ⟨⟨by decide, rfl, by decide +kernel, ?_⟩, ⟨rfl, rfl⟩, by decide +kernel, by decide⟩⟩
  · simp only [List.forall_mem_cons, List.not_mem_nil, false_imp_iff, implies_true, and_true]
    exact ⟨meets _ _ _ rfl rfl, meets _ _ _ rfl rfl⟩
  all_goals exact quiet _ _ _ rfl rfl (by decide +kernel) (by decide +kernel)

/-- The least launch with lane 0 alone in EM and VA 0 to 0xFFFF readable and writable. -/
def wm (f : Group → Group) : State :=
  { wg (fun g => f (g.modFrag 0 fun f => { f with em := 1 })) with
    mem := placedEntry (devKey 0 0x14000) (1 + 2 + 2 ^ 4 + 2 ^ 5 + 2 ^ 6 + 2 ^ 7 + 2 ^ 15 + 0x20000) ws.mem }
/-- n loads and m stores under way. -/
def wqueues (n m : Nat) (g : Group) : Group :=
  { g with loads := List.replicate n ⟨0, 0, .pfetch, 0, 4, 0, 0, false, none, [], [], [], 0, 0, 0, 0, 0⟩
           stores := List.replicate m ⟨0, 0, .store, 0, 4, 0, 0, false, [], [], 0, 0, 0, 0, 0⟩ }
/-- A REPARK, and an STN of the line of address 0xFFF8, for core 1, that have yet to perform. -/
def wrepark (g : Group) : Group := { g with stores := [⟨0, 0, .range 2 0x20000001 0xFFFC 1, 0, 4, 0, 0, true, [], [], 0, 0, 0, 0, 0⟩] }
def wstn (g : Group) : Group :=
  { g with stores := [⟨0, 0, .stn 0x20000001, 0, 4, 0, 0, true, [⟨0, 0xFFF8, 0x2FFF8, 0⟩], [(0, 0, 1)], 0, 0, 0, 0, 0⟩] }
/-- The line of 0xFFF8 parked for core 1. -/
def wparked (s : State) : State := { s with parks := [⟨0x2FFF8 / 128, 0, 0x20000001, [(0, [1])], 0, []⟩] }
/-- The page of VA 0 in a Shared object of die 0, the group on die 1. -/
def wshared (s : State) : State := { wt s (fun t => { t with core := 64 }) with objs := [(0, ⟨0, 0, 65536, 1, []⟩)] }

theorem only0 (m : Lanes) (h : m = 1) : ∀ l < 32, m.getLsbD l = true → l = 0 := by subst h; decide

theorem passAt0 (k : Acc) (w : Nat) (m : Lanes) (addr : Nat → Nat) (c : Ctx) (s : State) (h : m = 1)
    (p : lanePasses k w c s 0 (addr 0)) : lanesPass k w m addr c s := fun l hl hm => by
  obtain rfl := only0 m h l hl hm; exact p

theorem notParked (k : Acc) (m : Lanes) (addr : Nat → Nat) (c : Ctx) (s : State) (h : s.parks = []) :
    noneParkedAway k m addr c s := fun l _ _ key _ _ _ => by simp [excluded, State.parkOf, h]

theorem noneStn (k : Acc) (m : Lanes) (addr : Nat → Nat) (c : Ctx) (s : State) (h : ∀ op ∈ (s.grp c.gid).stores, op.kind = .store) :
    noneToPark k m addr c s := by
  intro op ho
  have e := h op ho
  exact ⟨fun d f => (by rw [e] at f; nomatch f), fun d lo n f => (by rw [e] at f; nomatch f)⟩

theorem reparks (k : Acc) (m : Lanes) (addr : Nat → Nat) (c : Ctx) (s : State) (op : StoreOp) (ho : op ∈ (s.grp c.gid).stores)
    (e : op.kind = .range 2 0x20000001 0xFFFC 1) (i : inSet s 0x20000001 (s.coreOf (s.grp c.gid)) = false) (h : m.getLsbD 0 = true)
    (a : addr 0 = 0xFFFC) : ¬noneToPark k m addr c s := by
  intro n
  have q := (n op ho).2 _ _ _ e i (by decide) 0 (by decide) h
  rw [a] at q; omega

theorem stnParks (k : Acc) (m : Lanes) (addr : Nat → Nat) (c : Ctx) (s : State) (op : StoreOp) (ho : op ∈ (s.grp c.gid).stores)
    (e : op.kind = .stn 0x20000001) (i : inSet s 0x20000001 (s.coreOf (s.grp c.gid)) = false) (h : m.getLsbD 0 = true)
    (p : op.parked = [0x2FFF8 / 128]) (x : Nat × Nat) (t : translate s (s.asidOf (s.grp c.gid)) (addr 0) k 0 = .ok 0x2FFFC x.1 x.2) :
    ¬noneToPark k m addr c s := by
  intro n
  have q := (n op ho).1 _ e i 0 (by decide) h _ _ _ t
  rw [p] at q; exact q (by decide)

theorem isParked (k : Acc) (w : Nat) (m : Lanes) (addr : Nat → Nat) (c : Ctx) (s : State) (h : m = 1) (q : lanePasses k w c s 0 (addr 0))
    (x : Nat × Nat × Nat) (t : translate s (s.asidOf (s.grp c.gid)) (addr 0) k 0 = .ok x.1 x.2.1 x.2.2)
    (e : excluded s x.1 (s.coreOf (s.grp c.gid)) (s.asidOf (s.grp c.gid)) = true) : parkedAway k w m addr c s :=
  ⟨passAt0 _ _ _ _ _ _ h q, fun n => Bool.noConfusion (e.symm.trans (n 0 (by decide) (by subst h; decide) _ _ _ t))⟩

/-- No active lane; the queue with 63 and 62 loads; behind an STN and a REPARK of the group that have yet to park its line; a lane that
passes at the top of the page. -/
theorem witness_LoadsAndAtomicsEnterTheLoadQueue :
    (∀ i ∈ [Instr.ldGlobal 1 2 5 3 1, .atadd 1 2 3 3 1], Meets (wm fun g => g.modFrag 0 fun f => { f with em := 0 }) i fun c _ =>
      c.act = 0 ∧ served c = 0) ∧
    (∀ i ∈ [Instr.ldGlobal 1 2 5 3 1, .ldxRadish 0x30 1 0xFF 0 0 1 ⟨0, none⟩, .atadd 1 2 3 3 1, .atcas 2 4 0 0 1], MeetsIn (wm (wqueues 63 0)) i fun c s =>
      c.act ≠ 0 ∧ served c ≠ 0 ∧ 63 ≤ (s.grp c.gid).loads.length) ∧
    (∀ i ∈ [Instr.ldGlobal 1 0xFF 5 3 1, .ldxRadish 0x30 1 0xFF 0 0 1 ⟨0, none⟩, .ldGlobalRadish 0x20 1 0xFF 0 0 1 ⟨0, none⟩],
      MeetsIn (wm fun g => (wqueues 62 0 g).putS 2 0xFFFC) i fun c s => c.act ≠ 0 ∧
      (s.grp c.gid).loads.length < 63 ∧ lanesPass .read (widthOf c.ty) c.act (eaOf 0xFF 1 c s) c s ∧
      noneParkedAway .read c.act (eaOf 0xFF 1 c s) c s ∧ noneToPark .read c.act (eaOf 0xFF 1 c s) c s) ∧
    (∀ i ∈ [Instr.ldGlobal 1 0xFF 5 3 1, .ldxRadish 0x30 1 0xFF 0 0 1 ⟨0, none⟩], MeetsIn (wm fun g => (wrepark g).putS 2 0xFFFC) i fun c s =>
      c.act ≠ 0 ∧ (s.grp c.gid).loads.length < 63 ∧ lanesPass .read (widthOf c.ty) c.act (eaOf 0xFF 1 c s) c s ∧
      ¬noneToPark .read c.act (eaOf 0xFF 1 c s) c s) ∧
    (MeetsIn (wm fun g => (wstn g).putS 2 0xFFFC) (.ldGlobal 1 0xFF 5 3 1) fun c s =>
      c.act ≠ 0 ∧ (s.grp c.gid).loads.length < 63 ∧ lanesPass .read (widthOf c.ty) c.act (eaOf 0xFF 1 c s) c s ∧
      ¬noneToPark .read c.act (eaOf 0xFF 1 c s) c s) ∧
    (∀ i ∈ [Instr.atadd 1 0xFF 3 3 1, .atcas 2 0xFF 0 0 1], MeetsIn (wm fun g => { ((wrepark g).putS 2 0xFFFC) with mode := 0 }) i fun c s =>
      served c ≠ 0 ∧ (s.grp c.gid).loads.length < 63 ∧ lanesPass .atomic (widthOf c.ty) (served c) (eaOf 0xFF 1 c s) c s ∧
      ¬noneToPark .atomic (served c) (eaOf 0xFF 1 c s) c s) ∧
    (∀ i ∈ [Instr.atadd 1 0xFF 3 3 1, .atmin 1 0xFF 0 0 1, .atmax 1 0xFF 0 0 1, .atand 1 0xFF 0 0 1, .ator 1 0xFF 0 0 1,
      .atxor 1 0xFF 0 0 1, .atxch 1 0xFF 0 0 1, .atcas 2 0xFF 0 0 1, .ataddRadish 0 1 0xFF 5 0 1 ⟨0, none⟩],
      MeetsIn (wm fun g => { ((wqueues 62 0 g).putS 2 0xFFFC) with mode := 0 }) i fun c s => served c ≠ 0 ∧
      (s.grp c.gid).loads.length < 63 ∧ lanesPass .atomic (widthOf c.ty) (served c) (eaOf 0xFF 1 c s) c s ∧
      noneParkedAway .atomic (served c) (eaOf 0xFF 1 c s) c s ∧ noneToPark .atomic (served c) (eaOf 0xFF 1 c s) c s) := by
  simp only [List.forall_mem_cons, List.not_mem_nil, false_imp_iff, implies_true, and_true]
  refine ⟨⟨?_, ?_⟩, ⟨?_, ?_, ?_, ?_⟩, ⟨?_, ?_, ?_⟩, ⟨?_, ?_⟩, ?_, ⟨?_, ?_⟩, ⟨?_, ?_, ?_, ?_, ?_, ?_, ?_, ?_, ?_⟩⟩ <;> first
    | exact meets _ _ _ rfl ⟨rfl, rfl⟩
    | exact meetsIn _ _ _ rfl (by decide)
    | exact meetsIn _ _ _ rfl ⟨by decide, by decide, passAt0 _ _ _ _ _ _ rfl ⟨rfl, _, _, _, rfl, fun _ => rfl⟩, notParked _ _ _ _ _ rfl,
        noneStn _ _ _ _ _ (by decide)⟩
    | exact meetsIn _ _ _ rfl ⟨by decide, by decide, passAt0 _ _ _ _ _ _ rfl ⟨rfl, _, _, _, rfl, fun _ => rfl⟩,
        reparks _ _ _ _ _ _ (.head _) rfl rfl rfl rfl⟩
    | exact meetsIn _ _ _ rfl ⟨by decide, by decide, passAt0 _ _ _ _ _ _ rfl ⟨rfl, _, _, _, rfl, fun _ => rfl⟩,
        stnParks _ _ _ _ _ _ (.head _) rfl rfl rfl rfl (_, _) rfl⟩

/-- Lane 0 at address 1 of page 0, at the page that nothing maps, in a Shared object of another die, and at a line parked for core 1, for
each class. -/
theorem witness_FailingLanesStopTheWholeAccess :
    (∀ i ∈ [Instr.ldGlobal 1 0xFF 5 3 1, .atadd 1 0xFF 3 3 1, .stGlobal 1 0xFF 0 0 1, .stn 1 0xFF 0 0 1,
      .redadd 1 0xFF 0 0 1, .ldxRadish 0x30 1 0xFF 0 0 1 ⟨0, none⟩, .stxRadish 0x30 1 0xFF 0 0 1 ⟨0, none⟩],
      MeetsIn (wm fun g => { ((wqueues 62 62 g).putS 2 1) with mode := 0 }) i fun c s => (s.grp c.gid).loads.length < 63 ∧
      (s.grp c.gid).stores.length < 63 ∧ ∀ k ∈ [Acc.read, .write, .atomic],
        misalignedFirst k (widthOf c.ty) c.act (eaOf 0xFF 1 c s) c s ∧ misalignedFirst k (widthOf c.ty) (served c) (eaOf 0xFF 1 c s) c s) ∧
    (∀ i ∈ [Instr.ldGlobal 1 0xFF 5 3 1, .atadd 1 0xFF 3 3 1, .stGlobal 1 0xFF 0 0 1, .stn 1 0xFF 0 0 1,
      .redadd 1 0xFF 0 0 1, .ldxRadish 0x30 1 0xFF 0 0 1 ⟨0, none⟩, .stxRadish 0x30 1 0xFF 0 0 1 ⟨0, none⟩],
      MeetsIn (wm fun g => { ((wqueues 62 62 g).putS 2 0x10000) with mode := 0 }) i fun c s => (s.grp c.gid).loads.length < 63 ∧
      (s.grp c.gid).stores.length < 63 ∧ ∀ k ∈ [Acc.read, .write, .atomic],
        unmappedFirst k (widthOf c.ty) c.act (eaOf 0xFF 1 c s) c s 0 6 0 ∧
        unmappedFirst k (widthOf c.ty) (served c) (eaOf 0xFF 1 c s) c s 0 6 0) ∧
    (∀ i ∈ [Instr.atadd 1 0xFF 3 3 1, .stGlobal 1 0xFF 0 0 1, .stn 1 0xFF 0 0 1, .redmax 1 0xFF 0 0 1],
      MeetsIn (wshared (wm fun g => { ((wqueues 62 62 g).putS 2 0xFFFC) with mode := 0 })) i fun c s => (s.grp c.gid).loads.length < 63 ∧
      (s.grp c.gid).stores.length < 63 ∧ ∀ k ∈ [Acc.write, .atomic], sharedFirst k (widthOf c.ty) c.act (eaOf 0xFF 1 c s) c s 0 ∧
        sharedFirst k (widthOf c.ty) (served c) (eaOf 0xFF 1 c s) c s 0) ∧
    (∀ i ∈ [Instr.ldGlobal 1 0xFF 5 3 1, .ldxRadish 0x30 1 0xFF 0 0 1 ⟨0, none⟩], MeetsIn (wparked (wm fun g => (wqueues 62 62 g).putS 2 0xFFFC)) i fun c s =>
      (s.grp c.gid).loads.length < 63 ∧ parkedAway .read (widthOf c.ty) c.act (eaOf 0xFF 1 c s) c s ∧
        noneToPark .read c.act (eaOf 0xFF 1 c s) c s) ∧
    (MeetsIn (wparked (wm fun g => (wqueues 62 62 g).putS 2 0xFFFC)) (.atadd 1 0xFF 3 3 1) fun c s =>
      (s.grp c.gid).loads.length < 63 ∧ parkedAway .atomic (widthOf c.ty) (served c) (eaOf 0xFF 1 c s) c s ∧
        noneToPark .atomic (served c) (eaOf 0xFF 1 c s) c s) ∧
    (∀ i ∈ [Instr.stGlobal 1 0xFF 0 0 1, .stxRadish 0x30 1 0xFF 0 0 1 ⟨0, none⟩], MeetsIn (wparked (wm fun g => (wqueues 62 62 g).putS 2 0xFFFC)) i fun c s =>
      (s.grp c.gid).stores.length < 63 ∧ parkedAway .write (widthOf c.ty) (served c) (eaOf 0xFF 1 c s) c s ∧
        noneToPark .write (served c) (eaOf 0xFF 1 c s) c s) := by
  have shr (k : Acc) (w : Nat) (m : Lanes) (a : Nat → Nat) (c : Ctx) (s : State) (h : m = 1) (p : a 0 % w = 0) (x : Nat × Nat × Nat)
      (q : translate s (s.asidOf (s.grp c.gid)) (a 0) k 0 = .ok x.1 x.2.1 x.2.2)
      (r : sharedFault s (s.asidOf (s.grp c.gid)) (a 0) x.1 (s.coreOf (s.grp c.gid)) = true) : sharedFirst k w m a c s 0 :=
    ⟨by decide, by subst h; decide, p, ⟨_, _, _, q, r⟩, fun j hj => absurd hj (Nat.not_lt_zero j)⟩
  have mis (k : Acc) (w : Nat) (m : Lanes) (a : Nat → Nat) (c : Ctx) (s : State) (h : m.getLsbD 0 = true) (p : a 0 % w ≠ 0) :
      misalignedFirst k w m a c s := ⟨0, by decide, h, p, fun j hj => absurd hj (Nat.not_lt_zero j)⟩
  have unm (k : Acc) (w : Nat) (m : Lanes) (a : Nat → Nat) (c : Ctx) (s : State) (h : m = 1) (p : a 0 % w = 0)
      (q : translate s (s.asidOf (s.grp c.gid)) (a 0) k 0 = .fault 6 0) : unmappedFirst k w m a c s 0 6 0 :=
    ⟨by decide, by subst h; decide, fun l hl hm => by obtain rfl := only0 m h l hl hm; exact p, q,
      fun j hj => absurd hj (Nat.not_lt_zero j)⟩
  simp only [List.forall_mem_cons, List.not_mem_nil, false_imp_iff, implies_true, and_true]
  refine ⟨⟨?_, ?_, ?_, ?_, ?_, ?_, ?_⟩, ⟨?_, ?_, ?_, ?_, ?_, ?_, ?_⟩, ⟨?_, ?_, ?_, ?_⟩, ⟨?_, ?_⟩, ?_, ?_, ?_⟩
  iterate 7 exact meetsIn _ _ _ rfl ⟨by decide, by decide, ⟨mis _ _ _ _ _ _ rfl (by decide), mis _ _ _ _ _ _ rfl (by decide)⟩,
    ⟨mis _ _ _ _ _ _ rfl (by decide), mis _ _ _ _ _ _ rfl (by decide)⟩, mis _ _ _ _ _ _ rfl (by decide), mis _ _ _ _ _ _ rfl (by decide)⟩
  iterate 7 exact meetsIn _ _ _ rfl ⟨by decide, by decide, ⟨unm _ _ _ _ _ _ rfl rfl rfl, unm _ _ _ _ _ _ rfl rfl rfl⟩,
    ⟨unm _ _ _ _ _ _ rfl rfl rfl, unm _ _ _ _ _ _ rfl rfl rfl⟩, unm _ _ _ _ _ _ rfl rfl rfl, unm _ _ _ _ _ _ rfl rfl rfl⟩
  iterate 4 exact meetsIn _ _ _ rfl ⟨by decide, by decide, ⟨shr _ _ _ _ _ _ rfl rfl (_, _, _) rfl rfl, shr _ _ _ _ _ _ rfl rfl (_, _, _) rfl rfl⟩,
    shr _ _ _ _ _ _ rfl rfl (_, _, _) rfl rfl, shr _ _ _ _ _ _ rfl rfl (_, _, _) rfl rfl⟩
  iterate 5 exact meetsIn _ _ _ rfl ⟨by decide, isParked _ _ _ _ _ _ rfl ⟨rfl, _, _, _, rfl, fun _ => rfl⟩ (_, _, _) rfl rfl,
    noneStn _ _ _ _ _ (by decide)⟩

/-- RSET names core 1, on which a team of context 5 is resident. -/
def wpxc : State :=
  ((wm fun g => { (g.putS 2 0xFFFC) with rset := 0x20000001 }).setTeam 9 { Team.empty with resident := true, core := 1, launch := 9 }).setLaunch 9
    { Launch.empty with asid := 5 }

/-- As for the loads; and an STN whose RSET names a core of another context's, which is an ordinary store, and one with an empty RSET. -/
theorem witness_StoresEnterTheStoreQueue :
    (∀ i ∈ [Instr.stGlobal 1 2 5 3 1, .stn 1 2 0 0 1, .redadd 1 2 0 0 1, .stxRadish 0x30 1 2 0 0 1 ⟨0, none⟩],
      Meets (wm fun g => g.modFrag 0 fun f => { f with em := 0 }) i fun c _ => c.act = 0 ∧ served c = 0) ∧
    (∀ i ∈ [Instr.stGlobal 1 2 5 3 1, .stn 1 2 0 0 1, .redadd 1 2 0 0 1, .stxRadish 0x30 1 2 0 0 1 ⟨0, none⟩],
      MeetsIn (wm (wqueues 0 63)) i fun c s => c.act ≠ 0 ∧ served c ≠ 0 ∧ 63 ≤ (s.grp c.gid).stores.length) ∧
    (∀ i ∈ [Instr.stGlobal 1 0xFF 5 3 1, .stn 1 0xFF 0 0 1, .redadd 1 0xFF 0 0 1, .redmin 1 0xFF 0 0 1, .redmax 1 0xFF 0 0 1,
      .stxRadish 0x30 1 0xFF 0 0 1 ⟨0, none⟩],
      MeetsIn (wm fun g => { ((wqueues 0 62 g).putS 2 0xFFFC) with mode := 0 }) i fun c s => c.act ≠ 0 ∧ served c ≠ 0 ∧
      (s.grp c.gid).stores.length < 63 ∧ ∀ k ∈ [Acc.write, .atomic], lanesPass k (widthOf c.ty) (served c) (eaOf 0xFF 1 c s) c s ∧
      lanesPass k (widthOf c.ty) c.act (eaOf 0xFF 1 c s) c s ∧ noneParkedAway k (served c) (eaOf 0xFF 1 c s) c s ∧
      noneToPark k (served c) (eaOf 0xFF 1 c s) c s) ∧
    (∀ i ∈ [Instr.stGlobal 1 0xFF 5 3 1, .stxRadish 0x30 1 0xFF 0 0 1 ⟨0, none⟩], MeetsIn (wm fun g => (wrepark g).putS 2 0xFFFC) i fun c s =>
      served c ≠ 0 ∧ (s.grp c.gid).stores.length < 63 ∧ lanesPass .write (widthOf c.ty) (served c) (eaOf 0xFF 1 c s) c s ∧
      ¬noneToPark .write (served c) (eaOf 0xFF 1 c s) c s) ∧
    (MeetsIn wpxc (.stn 1 0xFF 0 0 1) fun c s => lanesPass .write (widthOf c.ty) (served c) (eaOf 0xFF 1 c s) c s ∧
      stnPxc s (s.asidOf (s.grp c.gid)) (s.grp c.gid).rset = true ∧ ∃ l key leaf level, l < 32 ∧ (served c).getLsbD l = true ∧
        translate s (s.asidOf (s.grp c.gid)) (eaOf 0xFF 1 c s l) .write l = .ok key leaf level ∧
        stnOrdinary s (s.asidOf (s.grp c.gid)) (s.team (s.grp c.gid).team).launch (s.grp c.gid).rset key (leafPark leaf) = true) ∧
    (MeetsIn (wm fun g => g.putS 2 0xFFFC) (.stn 1 0xFF 0 0 1) fun c s => lanesPass .write (widthOf c.ty) (served c) (eaOf 0xFF 1 c s) c s ∧
      stnPxc s (s.asidOf (s.grp c.gid)) (s.grp c.gid).rset = false) := by
  simp only [List.forall_mem_cons, List.not_mem_nil, false_imp_iff, implies_true, and_true]
  refine ⟨⟨?_, ?_, ?_, ?_⟩, ⟨?_, ?_, ?_, ?_⟩, ⟨?_, ?_, ?_, ?_, ?_, ?_⟩, ⟨?_, ?_⟩, ?_, ?_⟩ <;> first
    | exact meets _ _ _ rfl ⟨rfl, rfl⟩
    | exact meetsIn _ _ _ rfl ⟨passAt0 _ _ _ _ _ _ rfl ⟨rfl, _, _, _, rfl, fun _ => rfl⟩, rfl, 0, _, _, _, by decide, rfl, rfl, rfl⟩
    | exact meetsIn _ _ _ rfl ⟨passAt0 _ _ _ _ _ _ rfl ⟨rfl, _, _, _, rfl, fun _ => rfl⟩, rfl⟩
    | exact meetsIn _ _ _ rfl (by decide)
    | exact meetsIn _ _ _ rfl ⟨by decide, by decide, by decide,
        ⟨passAt0 _ _ _ _ _ _ rfl ⟨rfl, _, _, _, rfl, fun _ => rfl⟩, passAt0 _ _ _ _ _ _ rfl ⟨rfl, _, _, _, rfl, fun _ => rfl⟩,
          notParked _ _ _ _ _ rfl, noneStn _ _ _ _ _ (by decide)⟩,
        passAt0 _ _ _ _ _ _ rfl ⟨rfl, _, _, _, rfl, fun _ => rfl⟩, passAt0 _ _ _ _ _ _ rfl ⟨rfl, _, _, _, rfl, fun _ => rfl⟩,
          notParked _ _ _ _ _ rfl, noneStn _ _ _ _ _ (by decide)⟩
    | exact meetsIn _ _ _ rfl ⟨by decide, by decide, passAt0 _ _ _ _ _ _ rfl ⟨rfl, _, _, _, rfl, fun _ => rfl⟩,
        reparks _ _ _ _ _ _ (.head _) rfl rfl rfl rfl⟩

/-- The last offset of a window of 65,536 bytes, a misaligned one and the first one past it. -/
theorem witness_LocalStoreReadsAndWritesTheWindow :
    (∀ i ∈ [Instr.lds 1 3, .sts 1 3, .ldsRadish 0 1 3 ⟨0, none⟩], MeetsIn (wm fun g => g.putV 3 1 fun _ => 2) i fun c s =>
      ∃ l, l < 32 ∧ c.act.getLsbD l = true ∧ offOf 3 c s l % widthOf c.ty ≠ 0 ∧
        ∀ j < l, c.act.getLsbD j = true → offOf 3 c s j % widthOf c.ty = 0 ∧ offOf 3 c s j < (winOf c s).winSize) ∧
    (∀ i ∈ [Instr.lds 1 3, .stsRadish 0 1 3 ⟨0, none⟩], MeetsIn (wm fun g => g.putV 3 1 fun _ => 65536) i fun c s =>
      outsideFirst (widthOf c.ty) (winOf c s).winSize c.act 3 c s) ∧
    (∀ i ∈ [Instr.lds 1 3, .sts 1 3, .stsRadish 0 1 3 ⟨0, none⟩], MeetsIn (wm fun g => g.putV 3 1 fun _ => 65532) i fun c s =>
      offsetsPass (widthOf c.ty) (winOf c s).winSize c.act 3 c s ∧ (s.grp c.gid).loads = []) ∧
    (MeetsIn (wm fun g => (wqueues 1 0 g).putV 3 1 fun _ => 65532) (.sts 1 3) fun c s => c.act ≠ 0 ∧
      offsetsPass (widthOf c.ty) (winOf c s).winSize c.act 3 c s ∧ (s.grp c.gid).loads ≠ []) := by
  simp only [List.forall_mem_cons, List.not_mem_nil, false_imp_iff, implies_true, and_true]
  refine ⟨⟨?_, ?_, ?_⟩, ⟨?_, ?_⟩, ⟨?_, ?_, ?_⟩, ?_⟩ <;> first
    | exact meetsIn _ _ _ rfl ⟨0, by decide, rfl, by decide, fun j hj => absurd hj (Nat.not_lt_zero j)⟩
    | exact meetsIn _ _ _ rfl ⟨0, by decide, rfl, by decide, by decide, fun j hj => absurd hj (Nat.not_lt_zero j)⟩
    | exact meetsIn _ _ _ rfl ⟨fun l hl hm => by obtain rfl := only0 _ rfl l hl hm; decide, rfl⟩
    | exact meetsIn _ _ _ rfl ⟨by decide, fun l hl hm => by obtain rfl := only0 _ rfl l hl hm; decide, by decide⟩

/-- A private size of 8 bytes: no lane, a misaligned offset, the first one past it, full queues, the last word. -/
theorem witness_PrivateAccessesEnterTheirQueues :
    (∀ i ∈ [Instr.ldp 1 3, .stpRadish 0 1 3 ⟨0, none⟩], Meets (wm fun g => g.modFrag 0 fun f => { f with em := 0 }) i fun c _ => c.act = 0) ∧
    (∀ i ∈ [Instr.ldp 1 3, .stp 1 3], MeetsIn (wr (wm fun g => (wqueues 62 62 g).putV 3 1 fun _ => 2) 74 2) i fun c s =>
      (s.grp c.gid).loads.length < 63 ∧ (s.grp c.gid).stores.length < 63 ∧
        ∃ l, l < 32 ∧ c.act.getLsbD l = true ∧ offOf 3 c s l % widthOf c.ty ≠ 0 ∧
          ∀ j < l, c.act.getLsbD j = true → offOf 3 c s j % widthOf c.ty = 0 ∧
            offOf 3 c s j < 4 * field (s.launchOf (s.grp c.gid)).record 74 2) ∧
    (∀ i ∈ [Instr.ldp 1 3, .stp 1 3], MeetsIn (wr (wm fun g => (wqueues 62 62 g).putV 3 1 fun _ => 8) 74 2) i fun c s =>
      (s.grp c.gid).loads.length < 63 ∧ (s.grp c.gid).stores.length < 63 ∧
        outsideFirst (widthOf c.ty) (4 * field (s.launchOf (s.grp c.gid)).record 74 2) c.act 3 c s) ∧
    (MeetsIn (wm (wqueues 63 0)) (.ldp 1 3) fun c s => c.act ≠ 0 ∧ 63 ≤ (s.grp c.gid).loads.length) ∧
    (MeetsIn (wm (wqueues 0 63)) (.stp 1 3) fun c s => c.act ≠ 0 ∧ 63 ≤ (s.grp c.gid).stores.length) ∧
    (∀ i ∈ [Instr.ldp 1 3, .stp 1 3, .ldpRadish 0 1 3 ⟨0, none⟩],
      MeetsIn (wr (wm fun g => (wqueues 62 62 g).putV 3 1 fun _ => 4) 74 2) i fun c s => c.act ≠ 0 ∧
      (s.grp c.gid).loads.length < 63 ∧ (s.grp c.gid).stores.length < 63 ∧
      offsetsPass (widthOf c.ty) (4 * field (s.launchOf (s.grp c.gid)).record 74 2) c.act 3 c s ∧
      (∀ q ∈ privsOf 3 c s, lanePasses .read 1 c s q.1 q.2) ∧ ∀ q ∈ privsOf 3 c s, lanePasses .write 1 c s q.1 q.2) := by
  have one (P : Nat × Nat → Prop) (c : Ctx) (s : State) (x : Nat × Nat) (e : privsOf 3 c s = [x]) (h : P x) : ∀ q ∈ privsOf 3 c s, P q := by
    rw [e]; simpa using h
  simp only [List.forall_mem_cons, List.not_mem_nil, false_imp_iff, implies_true, and_true]
  refine ⟨⟨?_, ?_⟩, ⟨?_, ?_⟩, ⟨?_, ?_⟩, ?_, ?_, ⟨?_, ?_, ?_⟩⟩ <;> first
    | exact meets _ _ _ rfl rfl
    | exact meetsIn _ _ _ rfl (by decide)
    | exact meetsIn _ _ _ rfl ⟨by decide, by decide, 0, by decide, rfl, by decide, by decide, fun j hj => absurd hj (Nat.not_lt_zero j)⟩
    | exact meetsIn _ _ _ rfl ⟨by decide, by decide, 0, by decide, rfl, by decide, fun j hj => absurd hj (Nat.not_lt_zero j)⟩
    | exact meetsIn _ _ _ rfl ⟨by decide, by decide, by decide, fun l hl hm => by obtain rfl := only0 _ rfl l hl hm; decide,
        one _ _ _ _ rfl ⟨Nat.mod_one _, _, _, _, rfl, fun e => by simp at e⟩, one _ _ _ _ rfl ⟨Nat.mod_one _, _, _, _, rfl, fun _ => rfl⟩⟩

/-- Orders 0 and 3; a sequentially consistent fence behind a load, behind a store and behind neither; a descriptor of each kind's
check; a range of no byte, of one byte at the top of the address space and of two. -/
theorem witness_FencesRangesAndReaderSets :
    (∀ i ∈ [Instr.fence 5 0 false, .fence 0 1 false, .fence 3 3 true, .ofence 0 0 1, .ofence 5 3 1, .fenceRadish 0 2 2 false,
      .ofenceRadish 0 0 1 1], CanIssue ws 1 0 i) ∧
    (∀ n ∈ [(1, 0), (0, 1)], MeetsIn (wg (wqueues n.1 n.2)) (.fence 3 3 true) fun c s =>
      (s.grp c.gid).loads ≠ [] ∨ (s.grp c.gid).stores ≠ []) ∧
    (MeetsIn ws (.fenceRadish 0 3 3 true) fun c s => (s.grp c.gid).loads = [] ∧ (s.grp c.gid).stores = []) ∧
    (MeetsIn ws (.srset 5) fun c s => descOk s (s.team (s.grp c.gid).team).launch ((s.grp c.gid).sreg 5) = true) ∧
    (MeetsIn (wg fun g => g.putS 5 0x20000100) (.srsetRadish 0 5) fun c s => descOk s (s.team (s.grp c.gid).team).launch ((s.grp c.gid).sreg 5) = false) ∧
    (descOk ws 0 0x200000FF = true ∧ (0x200000FF : Word).toNat / 2 ^ 29 = 1 ∧ descOk ws 0 0x8000000F = true ∧
      descOk ws 0 0x61000FFF = true ∧ descOk ws 0 0x62000000 = false ∧ (0x61000FFF : Word).toNat / 2 ^ 29 = 3 ∧
      (0x8000000F : Word).toNat / 2 ^ 29 = 4 ∧ (0 : Word).toNat / 2 ^ 29 = 0) ∧
    (∀ i ∈ [Instr.rflush 5 1, .rinv 5 1, .repark 5 1, .unparkRadish 0 5 1 ⟨0, none⟩],
      (Meets (wf fun f => { f with em := 0 }) i fun c _ => c.em = 0) ∧
      (MeetsIn (wg (wqueues 0 63)) i fun c s => c.em ≠ 0 ∧ 63 ≤ (s.grp c.gid).stores.length) ∧
      (MeetsIn (wg (wqueues 0 62)) i fun c s => (s.grp c.gid).stores.length < 63 ∧ ((s.grp c.gid).sreg 5).toNat = 0) ∧
      (MeetsIn (wg fun g => ((g.putS 2 0xFFFFFFFF).putS 3 0x01FFFFFF).putS 5 2) i fun c s => c.em ≠ 0 ∧ (s.grp c.gid).stores.length < 63 ∧
        ((s.grp c.gid).sreg 5).toNat ≠ 0 ∧
        2 ^ 57 < (((s.grp c.gid).sreg64 2).toNat + c.imm.toNat) % 2 ^ 64 + ((s.grp c.gid).sreg 5).toNat) ∧
      (MeetsIn (wg fun g => ((g.putS 2 0xFFFFFFFF).putS 3 0x01FFFFFF).putS 5 1) i fun c s => (s.grp c.gid).stores.length < 63 ∧
        ((s.grp c.gid).sreg 5).toNat ≠ 0 ∧
        (((s.grp c.gid).sreg64 2).toNat + c.imm.toNat) % 2 ^ 64 + ((s.grp c.gid).sreg 5).toNat ≤ 2 ^ 57 ∧ c.em ≠ 0)) ∧
    (∀ i ∈ [Instr.pfetch 0xFF 1, .locate 0xFF 1, .pfetchRadish 0 0xFF 1 ⟨0, none⟩, .locateRadish 0 0xFF 1 ⟨0, none⟩],
      (Meets (wm fun g => g.modFrag 0 fun f => { f with em := 0 }) i fun c _ => c.em = 0) ∧
      (MeetsIn (wm (wqueues 63 0)) i fun c s => c.em ≠ 0 ∧ 63 ≤ (s.grp c.gid).loads.length) ∧
      (MeetsIn (wm (wqueues 62 0)) i fun c s => c.em ≠ 0 ∧ (s.grp c.gid).loads.length < 63 ∧
        lanesPass .read 1 c.em (eaOf 0xFF 1 c s) c s)) := by
  simp only [List.forall_mem_cons, List.not_mem_nil, false_imp_iff, implies_true, and_true]
  refine ⟨by simpa using canIssue_of_all ws [Instr.fence 5 0 false, .fence 0 1 false, .fence 3 3 true, .ofence 0 0 1, .ofence 5 3 1,
      .fenceRadish 0 2 2 false, .ofenceRadish 0 0 1 1] rfl,
    ⟨meetsIn _ _ _ rfl (by decide), meetsIn _ _ _ rfl (by decide)⟩, meetsIn _ _ _ rfl ⟨rfl, rfl⟩, meetsIn _ _ _ rfl rfl,
    meetsIn _ _ _ rfl rfl, by decide, ?_, ?_⟩
  · refine ⟨⟨?_, ?_, ?_, ?_, ?_⟩, ⟨?_, ?_, ?_, ?_, ?_⟩, ⟨?_, ?_, ?_, ?_, ?_⟩, ?_, ?_, ?_, ?_, ?_⟩ <;> first
      | exact meets _ _ _ rfl rfl
      | exact meetsIn _ _ _ rfl (by decide)
  · refine ⟨⟨?_, ?_, ?_⟩, ⟨?_, ?_, ?_⟩, ⟨?_, ?_, ?_⟩, ?_, ?_, ?_⟩ <;> first
      | exact meets _ _ _ rfl rfl
      | exact meetsIn _ _ _ rfl (by decide)
      | exact meetsIn _ _ _ rfl ⟨by decide, by decide, passAt0 _ _ _ _ _ _ rfl ⟨rfl, _, _, _, rfl, fun e => by simp at e⟩⟩

/-- A shape record of one axis of one element of one byte, at address 0. -/
def shapeRec : List Byte := (((List.replicate 128 0).set 9 1).set 16 1).set 112 1

/-- No lane; an object under way; a record that is no shape, one that is, one that asks for state 4; an object of the context and none; a tile list with 15 and 14
entries; addresses misaligned, past the address space, without a table and with one; sizes 0, 1, 65,536 and 65,537. -/
theorem witness_ObjectsTilesAndHeapAreRequested :
    (∀ i ∈ [Instr.objdef 5 1, .objdelRadish 0 5, .pcommit 5 1, .pdecommit 5 1, .pquery 5 1, .allocBlock 4, .freeBlockRadish 0 4],
      Meets (wf fun f => { f with em := 0 }) i fun c _ => c.em = 0) ∧
    (∀ i ∈ [Instr.objdef 5 1, .objdelRadish 0 5], MeetsIn (wg fun g => { g with obj := some ⟨0, false, 0, 0, 0, 0, 0, []⟩ }) i fun c s =>
      c.em ≠ 0 ∧ (s.grp c.gid).obj.isSome = true) ∧
    (MeetsIn (watom id) (.objdef 5 1) fun c s => c.em ≠ 0 ∧ (s.grp c.gid).obj = none ∧
      recordWaits c s ((s.grp c.gid).sreg64 2).toNat 128 = true) ∧
    (MeetsIn ws (.objdef 5 1) fun c s => (c.em ≠ 0 ∧ (s.grp c.gid).obj = none ∧
      recordWaits c s ((s.grp c.gid).sreg64 2).toNat 128 = false ∧
      ∃ u, readRecord c s ((s.grp c.gid).sreg64 2).toNat 128 = .ok (u, List.replicate 128 0)) ∧
      field (List.replicate 128 0) 10 1 ≠ 4 ∧ shapeOk (List.replicate 128 0) = false) ∧
    (MeetsIn (wq [(9, 1), (16, 1), (112, 1)] 0) (.objdefRadish 0 5 1) fun c s => (c.em ≠ 0 ∧ (s.grp c.gid).obj = none ∧
      recordWaits c s ((s.grp c.gid).sreg64 2).toNat 128 = false ∧
      ∃ u, readRecord c s ((s.grp c.gid).sreg64 2).toNat 128 = .ok (u, shapeRec)) ∧ field shapeRec 10 1 ≠ 4 ∧ shapeOk shapeRec = true) ∧
    (MeetsIn (wq [(10, 4)] 0) (.objdef 5 1) fun c s => (c.em ≠ 0 ∧ (s.grp c.gid).obj = none ∧
      recordWaits c s ((s.grp c.gid).sreg64 2).toNat 128 = false ∧
      ∃ u, readRecord c s ((s.grp c.gid).sreg64 2).toNat 128 = .ok (u, (List.replicate 128 0).set 10 4)) ∧
      field ((List.replicate 128 (0 : Byte)).set 10 4) 10 1 = 4) ∧
    (MeetsIn ws (.objdel 5) fun c s => c.em ≠ 0 ∧ (s.grp c.gid).obj = none ∧
      ∀ o, afind ((s.grp c.gid).sreg 5).toNat s.objs = some o → o.asid ≠ s.asidOf (s.grp c.gid)) ∧
    (MeetsIn { ws with objs := [(0, ⟨0, 0, 256, 0, []⟩)] } (.objdel 5) fun c s => c.em ≠ 0 ∧ (s.grp c.gid).obj = none ∧
      afind ((s.grp c.gid).sreg 5).toNat s.objs = some ⟨0, 0, 256, 0, []⟩ ∧ 0 = s.asidOf (s.grp c.gid)) ∧
    (∀ i ∈ [Instr.pcommit 5 1, .pdecommit 5 1, .pquery 5 1, .allocBlock 4, .freeBlockRadish 0 4],
      MeetsIn (wg fun g => { g with tiles := List.replicate 15 ⟨0xC4, 0, 0, none, 0, 0, 0⟩ }) i fun c s =>
        c.em ≠ 0 ∧ 15 ≤ (s.grp c.gid).tiles.length) ∧
    (∀ i ∈ [Instr.pcommit 5 1, .pdecommit 5 1, .pqueryRadish 0 5 1 ⟨0, none⟩],
      (MeetsIn (wg fun g => { (g.putS 2 4) with tiles := List.replicate 14 ⟨0xC4, 0, 0, none, 0, 0, 0⟩ }) i fun c s =>
        (c.em ≠ 0 ∧ (s.grp c.gid).tiles.length < 15) ∧ (((s.grp c.gid).sreg64 2).toNat + c.imm.toNat) % 2 ^ 64 % 65536 ≠ 0) ∧
      (MeetsIn (wg fun g => g.putS 3 0x02000000) i fun c s => (c.em ≠ 0 ∧ (s.grp c.gid).tiles.length < 15) ∧
        (((s.grp c.gid).sreg64 2).toNat + c.imm.toNat) % 2 ^ 64 % 65536 = 0 ∧
        2 ^ 57 ≤ (((s.grp c.gid).sreg64 2).toNat + c.imm.toNat) % 2 ^ 64) ∧
      (MeetsIn (wg fun g => g.putS 3 0x01000000) i fun c s => (c.em ≠ 0 ∧ (s.grp c.gid).tiles.length < 15) ∧
        (((s.grp c.gid).sreg64 2).toNat + c.imm.toNat) % 2 ^ 64 % 65536 = 0 ∧
        (((s.grp c.gid).sreg64 2).toNat + c.imm.toNat) % 2 ^ 64 < 2 ^ 57 ∧
        subTable s (s.asidOf (s.grp c.gid)) ((((s.grp c.gid).sreg64 2).toNat + c.imm.toNat) % 2 ^ 64) = none) ∧
      (MeetsIn (wg fun g => g.putS 5 65535) i fun c s => (c.em ≠ 0 ∧ (s.grp c.gid).tiles.length < 15) ∧
        (((s.grp c.gid).sreg64 2).toNat + c.imm.toNat) % 2 ^ 64 % 65536 = 0 ∧
        (((s.grp c.gid).sreg64 2).toNat + c.imm.toNat) % 2 ^ 64 < 2 ^ 57 ∧
        (subTable s (s.asidOf (s.grp c.gid)) ((((s.grp c.gid).sreg64 2).toNat + c.imm.toNat) % 2 ^ 64)).isSome = true ∧
        ((s.grp c.gid).sreg 5).toNat ≤ 65535)) ∧
    (∀ n ∈ [0, 65537], MeetsIn (wg fun g => g.putS 4 n) (.allocBlock 4) fun c s => (c.em ≠ 0 ∧ (s.grp c.gid).tiles.length < 15) ∧
      (((s.grp c.gid).sreg 4).toNat = 0 ∨ 65536 < ((s.grp c.gid).sreg 4).toNat)) ∧
    (∀ n ∈ [1, 65536], MeetsIn (wg fun g => g.putS 4 n) (.allocBlockRadish 0 4) fun c s => (c.em ≠ 0 ∧ (s.grp c.gid).tiles.length < 15) ∧
      0 < ((s.grp c.gid).sreg 4).toNat ∧ ((s.grp c.gid).sreg 4).toNat ≤ 65536) ∧
    (MeetsIn ws (.freeBlock 4) fun c s => c.em ≠ 0 ∧ (s.grp c.gid).tiles.length < 15) := by
  simp only [List.forall_mem_cons, List.not_mem_nil, false_imp_iff, implies_true, and_true]
  refine ⟨⟨?_, ?_, ?_, ?_, ?_, ?_, ?_⟩, ⟨?_, ?_⟩, ?_, meetsIn _ _ _ rfl ⟨⟨by decide, rfl, by decide +kernel, ?_⟩, by decide, by decide⟩,
    meetsIn _ _ _ rfl ⟨⟨by decide, rfl, by decide +kernel, ?_⟩, by decide, by decide⟩,
    meetsIn _ _ _ rfl ⟨⟨by decide, rfl, by decide +kernel, ?_⟩, by decide⟩, meetsIn _ _ _ rfl ⟨by decide, rfl, ?_⟩,
    meetsIn _ _ _ rfl ⟨by decide, rfl, rfl, rfl⟩, ⟨?_, ?_, ?_, ?_, ?_⟩, ⟨⟨?_, ?_, ?_, ?_⟩, ⟨?_, ?_, ?_, ?_⟩, ?_, ?_, ?_, ?_⟩, ⟨?_, ?_⟩,
    ⟨?_, ?_⟩, ?_⟩
  case refine_14 => intro o e; exact nomatch (show (none : Option Obj) = some o from e)
  all_goals first
    | exact meets _ _ _ rfl rfl
    | exact meetsIn _ _ _ rfl (by decide)
    | exact readRecord_quiet _ _ 0 128 (lines0 1) _ rfl rfl (by decide +kernel) (by decide +kernel)
    | skip

/-! Reads of the window with no write of any agent. -/

/-- The bytes of the window as they stand, taken word by word. -/
def standing (s : State) (tid off n : Nat) : List Byte := (partsOf 4 off n).flatMap fun x =>
  (((List.range 4).map fun i => s.peek (lsKey tid (x.1 / 4 * 4) + i)).drop (x.1 - x.1 / 4 * 4)).take x.2

theorem initByte_quiet (s : State) (k : Nat) (hw : s.ord.writes = []) : s.initByte k = s.peek k := by
  rw [State.initByte, hw]; rfl

/-- With no write and nothing observed, a read of the window gives what stands there and observes nothing. -/
theorem lsRead_quiet (s : State) (o : Ord) (gid l tid off ch nd : Nat) (hw : o.writes = []) (ho : (o.ag (laneAgent gid l)).obs = [])
    (ha : o.acqObs = []) : ∃ o', lsRead { s with ord := o } gid l tid off 4 ch nd =
      ({ s with ord := o' }, (List.range 4).map fun i => s.peek (lsKey tid off + i)) ∧
      o'.writes = [] ∧ (o'.ag (laneAgent gid l)).obs = [] ∧ o'.acqObs = [] := by
  refine ⟨o.setAg (laneAgent gid l) { o.ag (laneAgent gid l) with obs := (o.ag (laneAgent gid l)).obs, pend := (o.ag (laneAgent gid l)).pend },
    ?_, hw, by simp [Ord.setAg, Ord.ag] at ho ⊢; exact ho, ha⟩
  rw [lsRead, lsCands, loadCands_none _ _ _ _ _ _ _ _ _ (by decide) fun b => candidates_quiet _ _ _ _ _ _ hw ho ha]
  refine Prod.ext ?_ ?_
  · simp [returnLoad, List.filterMap_map, Function.comp_def]
  · simp only [List.map_map]
    exact List.map_congr_left fun i _ => initByte_quiet _ _ hw

theorem lsBytes_quiet (c : Ctx) (s : State) (off n nd : Nat) (hw : s.ord.writes = [])
    (ho : (s.ord.ag (laneAgent c.gid ((lanesOf c.em).headD 0))).obs = []) (ha : s.ord.acqObs = []) :
    (lsBytes c s off n nd).2 = standing s (s.grp c.gid).team off n := by
  have f : ∀ (xs : List (Nat × Nat)) (o : Ord) (acc : List Byte), o.writes = [] →
      (o.ag (laneAgent c.gid ((lanesOf c.em).headD 0))).obs = [] → o.acqObs = [] →
      (xs.foldl (fun (p : State × List Byte) x =>
        let o := x.1 / 4 * 4
        let r := lsRead p.1 c.gid ((lanesOf c.em).headD 0) (s.grp c.gid).team o 4 (Config.free s.fresh 0 (x.1 / 4)) nd
        (r.1, p.2 ++ (r.2.drop (x.1 - o)).take x.2)) ({ s with ord := o }, acc)).2 =
      acc ++ xs.flatMap fun x =>
        (((List.range 4).map fun i => s.peek (lsKey (s.grp c.gid).team (x.1 / 4 * 4) + i)).drop (x.1 - x.1 / 4 * 4)).take x.2 := by
    intro xs
    induction xs with
    | nil => intro o acc _ _ _; simp
    | cons x xs ih =>
      intro o acc hw ho ha
      obtain ⟨o', e, h1, h2, h3⟩ := lsRead_quiet s o c.gid ((lanesOf c.em).headD 0) (s.grp c.gid).team (x.1 / 4 * 4)
        (Config.free s.fresh 0 (x.1 / 4)) nd hw ho ha
      simp only [List.foldl_cons, e, ih o' _ h1 h2 h3, List.flatMap_cons, List.append_assoc]
  exact f _ s.ord [] hw ho ha

/-- A plain tensor record of one axis of four f32 elements, and a group whose command block from s5 has no barrier. -/
def copyBytes : List (Nat × Byte) := [(8, 2), (9, 1), (16, 4), (48, 4), (112, 4)]
def copyRec : List Byte := (((((List.replicate 128 0).set 8 2).set 9 1).set 16 4).set 48 4).set 112 4
/-- The least launch of one copy group, with the group changed. -/
def wcg (f : Group → Group) : State := wc.modGrp 1 f
def wcopy (bs : List (Nat × Byte)) (k : Word) : State := wr (wbytes (wcg fun g => (g.putS 6 0xFFFFFFFF).putS 7 k) bs) 62 0x11

/-- The record that a copy reads at VA 0. -/
theorem readCopy (s : State) (c : Ctx) (rec : List Byte) (ho : s.ord = State.reset.ord) (hs : s.shallot.owner = [])
    (hl : linesAre (recordLines c s 0 128) (lines0 1) = true) (hr : quietBytes s (lines0 1) = rec) : ∃ u, readRecord c s 0 128 = .ok (u, rec) :=
  readRecord_quiet s c 0 128 (lines0 1) rec ho hs hl hr

/-- 255 and 256 copies on the core. -/
def wbusy (n : Nat) : State := { wc with copies := (List.range n).map fun i => (i, Copy.empty) }

/-- No lane; the engine full; a misaligned record; a record that is none; a scale record in a team without a stream; a plain copy
and a multicast; a chain without elements and one of four. -/
theorem witness_CopiesAndChainsStart :
    (∀ i ∈ [Instr.tcopy 4 5 2, .tcopym 4 5 2, .chain 4 5, .chainRadish 0 4 5], Meets (wcg fun g => g.modFrag 0 fun f => { f with em := 0 }) i fun c _ => ¬acts c) ∧
    (∀ i ∈ [Instr.tcopy 4 5 2, .tcopymRadish 0 4 5 2, .chain 4 5], MeetsIn (wbusy 256) i fun c s => acts c ∧ ¬engineRoom c s) ∧
    (∀ i ∈ [Instr.tcopy 4 5 2, .tcopymRadish 0 4 5 2], MeetsIn { wcg (fun g => g.putS 2 0x40) with copies := (wbusy 255).copies } i fun c s =>
      acts c ∧ engineRoom c s ∧ ((s.grp c.gid).sreg64 2).toNat % 128 ≠ 0) ∧
    (∀ i ∈ [Instr.tcopy 4 5 2, .tcopymRadish 0 4 5 2], MeetsIn (wcg fun g => { g with loads := (watom id).grp 1 |>.loads }) i fun c s =>
      acts c ∧ engineRoom c s ∧ ((s.grp c.gid).sreg64 2).toNat % 128 = 0 ∧
      recordWaits c s ((s.grp c.gid).sreg64 2).toNat 128 = true) ∧
    (∀ i ∈ [Instr.tcopy 4 5 2, .tcopym 4 5 2], MeetsIn wc i fun c s => acts c ∧ engineRoom c s ∧ ((s.grp c.gid).sreg64 2).toNat % 128 = 0 ∧
      recordWaits c s ((s.grp c.gid).sreg64 2).toNat 128 = false ∧ (∃ u, readRecord c s ((s.grp c.gid).sreg64 2).toNat 128 = .ok (u, List.replicate 128 0)) ∧ recOk (List.replicate 128 0) false = false ∧
      recOk (List.replicate 128 0) true = false) ∧
    (MeetsIn (wcopy ((10, 2) :: copyBytes) 0) (.tcopy 4 5 2) fun c s => acts c ∧ engineRoom c s ∧
      ((s.grp c.gid).sreg64 2).toNat % 128 = 0 ∧
      recordWaits c s ((s.grp c.gid).sreg64 2).toNat 128 = false ∧ (∃ u, readRecord c s ((s.grp c.gid).sreg64 2).toNat 128 = .ok (u, copyRec.set 10 2)) ∧ recOk (copyRec.set 10 2) false = true ∧
      recScale (copyRec.set 10 2) = true ∧ (winOf c s).stream = none) ∧
    (MeetsIn (wcopy copyBytes 0) (.tcopy 4 5 2) fun c s => acts c ∧ engineRoom c s ∧ ((s.grp c.gid).sreg64 2).toNat % 128 = 0 ∧
      recordWaits c s ((s.grp c.gid).sreg64 2).toNat 128 = false ∧ (∃ u, readRecord c s ((s.grp c.gid).sreg64 2).toNat 128 = .ok (u, copyRec)) ∧ recOk copyRec false = true ∧ recScale copyRec = false ∧
      blockReady 5 (recRank copyRec) c s ∧ blockWord 5 2 c s = 0 ∧ objectFits (blockWord 5 0 c s) (boxBytes copyRec) 16 c s ∧
      blockWord 5 1 c s = 0xFFFFFFFF) ∧
    (MeetsIn (wcopy copyBytes 1) (.tcopym 4 5 2) fun c s => acts c ∧ engineRoom c s ∧ ((s.grp c.gid).sreg64 2).toNat % 128 = 0 ∧
      recordWaits c s ((s.grp c.gid).sreg64 2).toNat 128 = false ∧ (∃ u, readRecord c s ((s.grp c.gid).sreg64 2).toNat 128 = .ok (u, copyRec)) ∧ recOk copyRec true = true ∧ recScale copyRec = false ∧
      blockReady 5 (recRank copyRec) c s ∧ blockWord 5 2 c s ≠ 0 ∧
      blockWord 5 2 c s < 2 ^ clusterSize s (s.cluster (winOf c s).cluster) ∧
      objectFits (blockWord 5 0 c s) (boxBytes copyRec) 16 c s ∧ blockWord 5 1 c s = 0xFFFFFFFF) ∧
    (MeetsIn (wcg fun g => { g with loads := [⟨0, 0, .load false, 0, 4, 3, 1, true, none, [], [], [], 0, 0, 0, 0, 0⟩] }) (.chain 4 5) fun c s =>
      acts c ∧ engineRoom c s ∧ objectPasses (sIn 5 c s) 96 16 c s ∧ (s.grp c.gid).acquiring = true) ∧
    (MeetsIn wc (.chain 4 5) fun c s => (acts c ∧ engineRoom c s ∧ objectPasses (sIn 5 c s) 96 16 c s ∧
      (s.grp c.gid).acquiring = false) ∧ chainOk (lsBytes c (fragEvent c s []).2 (sIn 5 c s) 96 (fragEvent c s []).1).2 = false) ∧
    (MeetsIn (wwin wc [(16, 4), (20, 2), (21, 2)]) (.chainRadish 0 4 5) fun c s => (acts c ∧ engineRoom c s ∧
      objectPasses (sIn 5 c s) 96 16 c s ∧ (s.grp c.gid).acquiring = false) ∧
      chainOk (lsBytes c (fragEvent c s []).2 (sIn 5 c s) 96 (fragEvent c s []).1).2 = true) ∧
    chainOk (((((List.replicate 96 0).set 16 4).set 20 2).set 21 2)) = true := by
  have blk (c : Ctx) (s : State) (hp : (s.grp c.gid).pend = []) (hq : (s.grp c.gid).spois = []) : blockReady 5 1 c s :=
    ⟨by decide, by decide, fun k _ _ => ⟨by simp [Group.isPend, hp], by simp [hq]⟩⟩
  simp only [List.forall_mem_cons, List.not_mem_nil, false_imp_iff, implies_true, and_true]
  refine ⟨⟨?_, ?_, ?_, ?_⟩, ⟨?_, ?_, ?_⟩, ⟨?_, ?_⟩, ⟨?_, ?_⟩, ⟨?_, ?_⟩, ?_, ?_, ?_, ?_, ?_, ?_, by decide +kernel⟩
  all_goals first
    | exact meets _ _ _ rfl (by unfold acts; decide)
    | exact meetsIn _ _ _ rfl (by unfold acts engineRoom; decide +kernel)
    | exact meetsIn _ _ _ rfl (by unfold acts engineRoom objectPasses objectFits; decide +kernel)
    | exact meetsIn _ _ _ rfl ⟨by unfold acts; decide, by unfold engineRoom; decide, by decide, by decide +kernel,
        readCopy _ _ _ rfl rfl (by decide +kernel) (by decide +kernel), by decide +kernel, by decide +kernel⟩
    | skip
  · refine meetsIn _ _ _ rfl ⟨by unfold acts; decide, by unfold engineRoom; decide, by decide, by decide +kernel, ?_, by decide +kernel, by decide +kernel,
      blk _ _ rfl rfl, by decide, by unfold objectFits; decide +kernel, by decide⟩
    exact readCopy (entered (wcopy copyBytes 0) 1 (.tcopy 4 5 2)) (ctxOf (wcopy copyBytes 0) 1 0 (.tcopy 4 5 2)) _ rfl rfl
      (by decide +kernel) (by decide +kernel)
  · refine meetsIn _ _ _ rfl ⟨by unfold acts; decide, by unfold engineRoom; decide, by decide, by decide +kernel, ?_, by decide +kernel, by decide +kernel,
      blk _ _ rfl rfl, by decide, by decide +kernel, by unfold objectFits; decide +kernel, by decide⟩
    exact readCopy (entered (wcopy copyBytes 1) 1 (.tcopym 4 5 2)) (ctxOf (wcopy copyBytes 1) 1 0 (.tcopym 4 5 2)) _ rfl rfl
      (by decide +kernel) (by decide +kernel)
  · refine meetsIn _ _ _ rfl ⟨⟨by unfold acts; decide, by unfold engineRoom; decide, by unfold objectPasses objectFits; decide, rfl⟩, ?_⟩
    rw [lsBytes_quiet _ _ _ _ _ rfl (by decide +kernel) rfl]; decide +kernel
  · refine meetsIn _ _ _ rfl ⟨⟨by unfold acts; decide, by unfold engineRoom; decide, by unfold objectPasses objectFits; decide, rfl⟩, ?_⟩
    rw [lsBytes_quiet _ _ _ _ _ rfl (by decide +kernel) rfl]; decide +kernel

/-- No lane; offsets 8, 65,536 and the last one that fits; a count of 0 and of 1; a generation over by its count, by a flag, not over; a
wait that has been released; one that re-evaluates a poisoned barrier, one begun anew, one that is over and one that is not. -/
theorem witness_ByteBarriersFollowTheirGenerations :
    (∀ i ∈ [Instr.bbinit 5 6, .bbinv 5, .bbexp 5 6, .bbarr 5 6, .bbwait 4 5, .bbinitRadish 0 5 6],
      Meets (wf fun f => { f with em := 0 }) i fun c _ => ¬acts c) ∧
    (∀ i ∈ [Instr.bbinit 5 6, .bbinv 5, .bbexp 5 6, .bbarr 5 6, .bbexpRadish 0 5 6],
      (MeetsIn (wg fun g => g.putS 5 8) i fun c s => acts c ∧ c.wait ≠ .closed ∧ sIn 5 c s % 16 ≠ 0) ∧
      (MeetsIn (wt ws fun t => { t with wpois := [0] }) i fun c s => acts c ∧ c.wait ≠ .closed ∧ objectFits (sIn 5 c s) 16 16 c s ∧
        winPois (winOf c s) (sIn 5 c s) 16 = true) ∧
      (MeetsIn (wg fun g => g.putS 5 65536) i fun c s => acts c ∧ c.wait ≠ .closed ∧ sIn 5 c s % 16 = 0 ∧ (winOf c s).winSize < sIn 5 c s + 16)) ∧
    (MeetsIn ws (.bbinit 5 6) fun c s => (acts c ∧ objectPasses (sIn 5 c s) 16 16 c s) ∧ sIn 6 c s = 0) ∧
    (∀ i ∈ [Instr.bbinit 5 6, .bbinv 5, .bbexp 5 6, .bbarr 5 6, .bbarrRadish 0 5 6, .bbinvRadish 0 5],
      MeetsIn (wg fun g => (g.putS 5 65520).putS 6 1) i fun c s =>
      (acts c ∧ objectPasses (sIn 5 c s) 16 16 c s) ∧ sIn 6 c s ≠ 0 ∧ quietIn c s) ∧
    (MeetsIn (wg (wqueues 0 1)) (.bbarr 5 6) fun c s => (acts c ∧ objectPasses (sIn 5 c s) 16 16 c s) ∧ ¬quietIn c s) ∧
    (∀ b ∈ [[], [(0, (1 : Byte)), (10, 2)]], MeetsIn (wwin ws b) (.bbwait 4 5) fun c s => (¬∃ o g st, c.wait = .bbar o g st) ∧
      (acts c ∧ objectPasses (sIn 5 c s) 16 16 c s) ∧ ((bbAt (sIn 5 c s) c s).arr = (bbAt (sIn 5 c s) c s).exp ∨
        (bbAt (sIn 5 c s) c s).fl / 2 ≠ 0)) ∧
    (MeetsIn (wwin ws [(0, 1)]) (.bbwaitRadish 0 4 5) fun c s => (¬∃ o g st, c.wait = .bbar o g st) ∧
      (acts c ∧ objectPasses (sIn 5 c s) 16 16 c s) ∧ (bbAt (sIn 5 c s) c s).arr ≠ (bbAt (sIn 5 c s) c s).exp ∧
        (bbAt (sIn 5 c s) c s).fl / 2 = 0) ∧
    (MeetsIn (wg fun g => g.await 0 (.bbar 0 0 (some 3))) (.bbwait 4 5) fun c _ => acts c ∧ c.wait = .bbar 0 0 (some 3)) ∧
    (MeetsIn (wg fun g => g.putS 5 8) (.bbwait 4 5) fun c s => acts c ∧ c.wait = .run ∧ sIn 5 c s % 16 ≠ 0) ∧
    (MeetsIn (wg fun g => g.putS 5 65536) (.bbwait 4 5) fun c s => acts c ∧ c.wait = .run ∧ sIn 5 c s % 16 = 0 ∧ (winOf c s).winSize < sIn 5 c s + 16) ∧
    (MeetsIn (wt ws fun t => { t with wpois := [0] }) (.bbwaitRadish 0 4 5) fun c s => acts c ∧ c.wait = .run ∧ objectFits (sIn 5 c s) 16 16 c s ∧
      winPois (winOf c s) (sIn 5 c s) 16 = true) ∧
    (MeetsIn (wt (wg fun g => g.await 0 (.bbar 0 0 none)) fun t => { t with wpois := [0] }) (.bbwait 4 5) fun c s =>
      (acts c ∧ c.wait = .bbar 0 0 none ∧ objectFits 0 16 16 c s) ∧ winPois (winOf c s) 0 16 = true) ∧
    (∀ g ∈ [0, 1], MeetsIn (wg fun x => x.await 0 (.bbar 0 g none)) (.bbwait 4 5) fun c s =>
      ((acts c ∧ c.wait = .bbar 0 g none ∧ objectFits 0 16 16 c s) ∧ winPois (winOf c s) 0 16 = false) ∧ ((bbAt 0 c s).gen = g ↔ g = 0) ∧
      ((bbAt 0 c s).arr = (bbAt 0 c s).exp ∨ (bbAt 0 c s).fl / 2 ≠ 0)) ∧
    (MeetsIn (wwin (wg fun x => x.await 0 (.bbar 0 0 none)) [(0, 1)]) (.bbwaitRadish 0 4 5) fun c s =>
      ((acts c ∧ c.wait = .bbar 0 0 none ∧ objectFits 0 16 16 c s) ∧ winPois (winOf c s) 0 16 = false) ∧ (bbAt 0 c s).gen = 0 ∧
      ¬((bbAt 0 c s).arr = (bbAt 0 c s).exp ∨ (bbAt 0 c s).fl / 2 ≠ 0)) := by
  have run (c : Ctx) (h : c.wait = .run) : ¬∃ o g st, c.wait = .bbar o g st := fun ⟨_, _, _, e⟩ => by rw [h] at e; nomatch e
  simp only [List.forall_mem_cons, List.not_mem_nil, false_imp_iff, implies_true, and_true]
  refine ⟨⟨?_, ?_, ?_, ?_, ?_, ?_⟩, ⟨⟨?_, ?_, ?_⟩, ⟨?_, ?_, ?_⟩, ⟨?_, ?_, ?_⟩, ⟨?_, ?_, ?_⟩, ?_, ?_, ?_⟩, ?_,
    ⟨?_, ?_, ?_, ?_, ?_, ?_⟩, ?_, ⟨?_, ?_⟩, ?_, ?_, ?_, ?_, ?_, ?_, ⟨?_, ?_⟩, ?_⟩
  all_goals first
    | exact meets _ _ _ rfl (by unfold acts; decide)
    | exact meetsIn _ _ _ rfl (by unfold acts objectPasses objectFits; decide)
    | exact meetsIn _ _ _ rfl (by unfold acts objectPasses objectFits quietIn; decide)
    | exact meetsIn _ _ _ rfl (by unfold acts; decide)
    | exact meetsIn _ _ _ rfl (by unfold acts objectFits; decide)
    | exact meetsIn _ _ _ rfl (by unfold acts objectFits; decide +kernel)
    | exact meetsIn _ _ _ rfl ⟨run _ rfl, by unfold acts objectPasses objectFits; decide⟩

/-- A ring at offset 0 with two slots of 32 bytes from 64, further bytes, and a group. -/
def wring (bs : List (Nat × Byte)) (f : Group → Group) : State := wwin (wg f) ([(0, 64), (4, 32), (8, 2)] ++ bs)

/-- No lane; offsets 8 and 65,536; poison; a ring whose descriptor fails; RINIT with a reserved field, past the window, with and without
a waiter; an instruction that RCLOSE served, with 62 loads and with 63; RACQ of a closed ring, a free slot and a full one, with 63 loads;
RTAKE of a full slot, of a closed empty ring and of an open one; a slot in each state for RPUB and RDONE, with a store under way;
RCLOSE with a waiter of each kind, the slot free and not. -/
theorem witness_StageRingsPassSlotsInOrder :
    (∀ i ∈ [Instr.rinit 5, .racq 4 5, .rtake 4 5, .rdone 5 6, .rclose 5, .rpub 5 6 7, .rinitRadish 0 5, .rdoneRadish 0 5 6],
      Meets (wf fun f => { f with em := 0 }) i fun c _ => ¬acts c) ∧
    (∀ i ∈ [Instr.rinit 5, .racq 4 5, .rtake 4 5, .rdone 5 6, .rclose 5, .rpub 5 6 7, .racqRadish 0 4 5],
      (MeetsIn (wg fun g => g.putS 5 8) i fun c s => acts c ∧ c.wait ≠ .closed ∧ sIn 5 c s % 32 ≠ 0) ∧
      (MeetsIn (wt ws fun t => { t with wpois := [0] }) i fun c s => acts c ∧ c.wait ≠ .closed ∧ objectFits (sIn 5 c s) 32 32 c s ∧
        winPois (winOf c s) (sIn 5 c s) 32 = true) ∧
      (MeetsIn (wg fun g => g.putS 5 65536) i fun c s => acts c ∧ c.wait ≠ .closed ∧ sIn 5 c s % 32 = 0 ∧
        (winOf c s).winSize < sIn 5 c s + 32)) ∧
    (∀ i ∈ [Instr.racq 4 5, .rtake 4 5, .rdone 5 6, .rclose 5], MeetsIn ws i fun c s => acts c ∧ c.wait ≠ .closed ∧
      objectPasses (sIn 5 c s) 32 32 c s ∧ (ringAt (sIn 5 c s) c s).ok (winOf c s).winSize = false) ∧
    (MeetsIn (wring [(9, 4)] id) (.rinit 5) fun c s => (acts c ∧ objectPasses (sIn 5 c s) 32 32 c s) ∧
      (ringAt (sIn 5 c s) c s).rsv ≠ 0) ∧
    (MeetsIn (wring [(2, 1)] id) (.rinitRadish 0 5) fun c s => (acts c ∧ objectPasses (sIn 5 c s) 32 32 c s) ∧
      ((ringAt (sIn 5 c s) c s).table = true ∧ (ringAt (sIn 5 c s) c s).rsv = 0 ∧ (ringAt (sIn 5 c s) c s).rsv2 = 0) ∧
      ¬(ringAt (sIn 5 c s) c s).fits (winOf c s).winSize = true) ∧
    (MeetsIn (wring [] fun g => (g.setFrag 1 (Frag.entry 0)).modFrag 1 fun f => { f with wait := .ring 0 true 0 }) (.rinit 5) fun c s =>
      (acts c ∧ objectPasses (sIn 5 c s) 32 32 c s) ∧
      ((ringAt (sIn 5 c s) c s).table = true ∧ (ringAt (sIn 5 c s) c s).rsv = 0 ∧ (ringAt (sIn 5 c s) c s).rsv2 = 0) ∧
      (ringAt (sIn 5 c s) c s).fits (winOf c s).winSize = true ∧ ringWaiters s (teamIn c s) (sIn 5 c s) ≠ []) ∧
    (MeetsIn (wring [] id) (.rinit 5) fun c s => (acts c ∧ objectPasses (sIn 5 c s) 32 32 c s) ∧
      ((ringAt (sIn 5 c s) c s).table = true ∧ (ringAt (sIn 5 c s) c s).rsv = 0 ∧ (ringAt (sIn 5 c s) c s).rsv2 = 0) ∧
      (ringAt (sIn 5 c s) c s).fits (winOf c s).winSize = true ∧ ringWaiters s (teamIn c s) (sIn 5 c s) = []) ∧
    (∀ i ∈ [Instr.racq 4 5, .rtakeRadish 0 4 5],
      (MeetsIn (wg fun g => (wqueues 62 0 g).await 0 .closed) i fun c s => acts c ∧ c.wait = .closed ∧ (s.grp c.gid).loads.length < 63) ∧
      (MeetsIn (wg fun g => (wqueues 63 0 g).await 0 .closed) i fun c s => acts c ∧ c.wait = .closed ∧ 63 ≤ (s.grp c.gid).loads.length) ∧
      (MeetsIn (wring [] (wqueues 63 0)) i fun c s => (acts c ∧ c.wait ≠ .closed ∧ ringPasses (sIn 5 c s) c s ∧
        slotClean (sIn 5 c s) (ringAt (sIn 5 c s) c s).head c s ∧ slotClean (sIn 5 c s) (ringAt (sIn 5 c s) c s).tail c s) ∧
        c.wait = .run ∧ 63 ≤ (s.grp c.gid).loads.length)) ∧
    (MeetsIn (wring [(9, 1)] (wqueues 62 0)) (.racq 4 5) fun c s => ((acts c ∧ c.wait ≠ .closed ∧ ringPasses (sIn 5 c s) c s ∧
      slotClean (sIn 5 c s) (ringAt (sIn 5 c s) c s).head c s) ∧
      ringFirst s (teamIn c s) (sIn 5 c s) false (ringOrder c s) = true ∧ (s.grp c.gid).loads.length < 63) ∧
      (ringAt (sIn 5 c s) c s).closed = true) ∧
    (MeetsIn (wring [(10, 1)] (wqueues 62 0)) (.racqRadish 0 4 5) fun c s => ((acts c ∧ c.wait ≠ .closed ∧ ringPasses (sIn 5 c s) c s ∧
      slotClean (sIn 5 c s) (ringAt (sIn 5 c s) c s).head c s) ∧
      ringFirst s (teamIn c s) (sIn 5 c s) false (ringOrder c s) = true ∧ (s.grp c.gid).loads.length < 63) ∧
      (ringAt (sIn 5 c s) c s).closed = false ∧ slotAt (sIn 5 c s) (ringAt (sIn 5 c s) c s).head c s = 0) ∧
    (MeetsIn (wring [(11, 1), (101, 2)] (wqueues 62 0)) (.rtake 4 5) fun c s => ((acts c ∧ c.wait ≠ .closed ∧ ringPasses (sIn 5 c s) c s ∧
      slotClean (sIn 5 c s) (ringAt (sIn 5 c s) c s).tail c s) ∧
      ringFirst s (teamIn c s) (sIn 5 c s) true (ringOrder c s) = true ∧ (s.grp c.gid).loads.length < 63) ∧
      slotAt (sIn 5 c s) (ringAt (sIn 5 c s) c s).tail c s = 2) ∧
    (MeetsIn (wring [(9, 1)] id) (.rtakeRadish 0 4 5) fun c s => ((acts c ∧ c.wait ≠ .closed ∧ ringPasses (sIn 5 c s) c s ∧
      slotClean (sIn 5 c s) (ringAt (sIn 5 c s) c s).tail c s) ∧
      ringFirst s (teamIn c s) (sIn 5 c s) true (ringOrder c s) = true ∧ (s.grp c.gid).loads.length < 63) ∧
      (ringAt (sIn 5 c s) c s).closed = true ∧ slotAt (sIn 5 c s) (ringAt (sIn 5 c s) c s).tail c s = 0) ∧
    (MeetsIn (wring [(69, 1)] id) (.racq 4 5) fun c s => (acts c ∧ c.wait ≠ .closed ∧ ringPasses (sIn 5 c s) c s ∧
      slotClean (sIn 5 c s) (ringAt (sIn 5 c s) c s).head c s) ∧ (s.grp c.gid).loads.length < 63 ∧
      (ringAt (sIn 5 c s) c s).closed = false ∧ slotAt (sIn 5 c s) (ringAt (sIn 5 c s) c s).head c s ≠ 0) ∧
    (MeetsIn (wring [] fun g => (wqueues 63 0 g).await 0 (.ring 0 true 3)) (.rtake 4 5) fun c s =>
      (acts c ∧ c.wait ≠ .closed ∧ ringPasses (sIn 5 c s) c s ∧ slotClean (sIn 5 c s) (ringAt (sIn 5 c s) c s).tail c s) ∧
      c.wait = .ring 0 true 3 ∧ slotAt (sIn 5 c s) (ringAt (sIn 5 c s) c s).tail c s ≠ 2 ∧ (ringAt (sIn 5 c s) c s).closed = false) ∧
    (MeetsIn (wring [] fun g => g.putS 6 96) (.rpub 5 6 7) fun c s => (acts c ∧ ringPasses (sIn 5 c s) c s ∧
      (ringAt (sIn 5 c s) c s).index (sIn 6 c s) = some 1 ∧ slotClean (sIn 5 c s) 1 c s) ∧ slotAt (sIn 5 c s) 1 c s ≠ 1) ∧
    (∀ n ∈ [0, 1], MeetsIn (wring [(101, 1)] fun g => ((wqueues 0 n g).putS 6 96).putS 7 0x2000010) (.rpubRadish 0 5 6 7) fun c s =>
      ((acts c ∧ ringPasses (sIn 5 c s) c s ∧
      (ringAt (sIn 5 c s) c s).index (sIn 6 c s) = some 1 ∧ slotClean (sIn 5 c s) 1 c s) ∧ slotAt (sIn 5 c s) 1 c s = 1 ∧
      sIn 7 c s % 2 ^ 24 ≤ (ringAt (sIn 5 c s) c s).sbytes - 16 ∧ sIn 7 c s < 2 ^ 26) ∧ (quietIn c s ↔ n = 0)) ∧
    (MeetsIn (wring [] fun g => g.putS 6 64) (.rdone 5 6) fun c s => (acts c ∧ ringPasses (sIn 5 c s) c s ∧
      (ringAt (sIn 5 c s) c s).index (sIn 6 c s) = some 0 ∧ slotClean (sIn 5 c s) 0 c s) ∧ slotAt (sIn 5 c s) 0 c s ≠ 3) ∧
    (∀ n ∈ [0, 1], MeetsIn (wring [(69, 3)] fun g => (wqueues 0 n g).putS 6 64) (.rdone 5 6) fun c s => ((acts c ∧ ringPasses (sIn 5 c s) c s ∧
      (ringAt (sIn 5 c s) c s).index (sIn 6 c s) = some 0 ∧ slotClean (sIn 5 c s) 0 c s) ∧ slotAt (sIn 5 c s) 0 c s = 3) ∧
      (quietIn c s ↔ n = 0) ∧ ringApart (sIn 5 c s) (ringAt (sIn 5 c s) c s)) ∧
    (MeetsIn (wring [] fun g => (g.setFrag 1 (Frag.entry 0)).modFrag 1 fun f => { f with wait := .ring 0 false 0 }) (.rclose 5) fun c s =>
      acts c ∧ ringPasses (sIn 5 c s) c s ∧ ((s.grp 1).frag 1).wait = .ring (sIn 5 c s) false 0) ∧
    (∀ b ∈ [0, 1], MeetsIn (wt (wring [(69, b)] fun g => (g.setFrag 1 (Frag.entry 0)).modFrag 1 fun f => { f with wait := .ring 0 true 0 }) fun t =>
        { t with stream := some { Stream.empty with wait := .ring 0 true 1 } }) (.rcloseRadish 0 5) fun c s =>
      acts c ∧ ringPasses (sIn 5 c s) c s ∧ ((s.grp 1).frag 1).wait = .ring (sIn 5 c s) true 0 ∧
      ((winOf c s).stream.map (·.wait)) = some (.ring (sIn 5 c s) true 1) ∧ ringApart (sIn 5 c s) (ringAt (sIn 5 c s) c s) ∧
      (slotAt (sIn 5 c s) (ringAt (sIn 5 c s) c s).tail c s = 0 ↔ b = 0)) := by
  simp only [List.forall_mem_cons, List.not_mem_nil, false_imp_iff, implies_true, and_true]
  refine ⟨⟨?_, ?_, ?_, ?_, ?_, ?_, ?_, ?_⟩, ⟨⟨?_, ?_, ?_⟩, ⟨?_, ?_, ?_⟩, ⟨?_, ?_, ?_⟩, ⟨?_, ?_, ?_⟩, ⟨?_, ?_, ?_⟩, ⟨?_, ?_, ?_⟩, ?_, ?_, ?_⟩,
    ⟨?_, ?_, ?_, ?_⟩, ?_, ?_, ?_, ?_, ⟨⟨?_, ?_, ?_⟩, ?_, ?_, ?_⟩, ?_, ?_, ?_, ?_, ?_, ?_, ?_, ⟨?_, ?_⟩, ?_, ⟨?_, ?_⟩, ?_, ?_, ?_⟩
  all_goals first
    | exact meets _ _ _ rfl (by unfold acts; decide)
    | exact meetsIn _ _ _ rfl (by unfold acts; decide)
    | exact meetsIn _ _ _ rfl (by unfold acts objectFits; decide)
    | exact meetsIn _ _ _ rfl (by unfold acts objectPasses objectFits; decide)
    | exact meetsIn _ _ _ rfl (by unfold acts objectPasses objectFits; decide +kernel)
    | exact meetsIn _ _ _ rfl (by unfold acts ringPasses objectPasses objectFits; decide +kernel)
    | exact meetsIn _ _ _ rfl (by unfold acts ringPasses slotClean objectPasses objectFits; decide +kernel)
    | exact meetsIn _ _ _ rfl (by unfold acts ringPasses slotClean objectPasses objectFits quietIn; decide +kernel)
    | exact meetsIn _ _ _ rfl (by unfold acts ringPasses slotClean objectPasses objectFits ringApart quietIn; decide +kernel)
    | exact meetsIn _ _ _ rfl (by unfold acts ringPasses objectPasses objectFits ringApart; decide +kernel)

/-- A copy group and a stream of one team. -/
def wspush (f : Group → Group) (x : Stream) : State := wt (wcg f) fun t => { t with stream := some x }

/-- No lane; no stream; counts 0 and 1,025; a FIFO with 16 batches and with 15; a batch that ends past the window and
one whose last word is poisoned. -/
theorem witness_ScaleBatchesEnterTheirFifo :
    (∀ i ∈ [Instr.spush 5 6, .spushRadish 0 5 6], Meets (wcg fun g => g.modFrag 0 fun f => { f with em := 0 }) i fun c _ => ¬acts c) ∧
    (MeetsIn wc (.spush 5 6) fun c s => acts c ∧ (winOf c s).stream = none) ∧
    (∀ n ∈ [0, 0x8020000], MeetsIn (wspush (fun g => g.putS 5 n) Stream.empty) (.spushRadish 0 5 6) fun c s =>
      acts c ∧ (winOf c s).stream ≠ none ∧
      ¬(sIn 5 c s < 2 ^ 28 ∧ 1 ≤ sIn 5 c s / 2 ^ 17 % 2 ^ 11 ∧ sIn 5 c s / 2 ^ 17 % 2 ^ 11 ≤ 1024)) ∧
    (MeetsIn (wspush (fun g => g.putS 5 0x8010000) { Stream.empty with sb := List.replicate 16 ⟨0, []⟩ }) (.spush 5 6) fun c s =>
      (acts c ∧ (winOf c s).stream ≠ none ∧ (sIn 5 c s < 2 ^ 28 ∧ 1 ≤ sIn 5 c s / 2 ^ 17 % 2 ^ 11 ∧ sIn 5 c s / 2 ^ 17 % 2 ^ 11 ≤ 1024) ∧
        sIn 6 c s + sIn 5 c s / 2 ^ 17 % 2 ^ 11 ≤ (winOf c s).winSize ∧ winPois (winOf c s) (sIn 6 c s) (sIn 5 c s / 2 ^ 17 % 2 ^ 11) = false) ∧
      fifoFull s (teamIn c s) ((sIn 5 c s).testBit 16) = true) ∧
    (MeetsIn (wspush (fun g => g.putS 5 0x30000) { Stream.empty with sb := List.replicate 15 ⟨0, []⟩ }) (.spush 5 6) fun c s =>
      (acts c ∧ (winOf c s).stream ≠ none ∧ (sIn 5 c s < 2 ^ 28 ∧ 1 ≤ sIn 5 c s / 2 ^ 17 % 2 ^ 11 ∧ sIn 5 c s / 2 ^ 17 % 2 ^ 11 ≤ 1024) ∧
        sIn 6 c s + sIn 5 c s / 2 ^ 17 % 2 ^ 11 ≤ (winOf c s).winSize ∧ winPois (winOf c s) (sIn 6 c s) (sIn 5 c s / 2 ^ 17 % 2 ^ 11) = false) ∧
      ¬(fifoFull s (teamIn c s) ((sIn 5 c s).testBit 16) = true ∨ scaleBusy s c.gid ((sIn 5 c s).testBit 16) = true)) ∧
    (MeetsIn (wspush (fun g => (g.putS 5 0x20000).putS 6 65536) Stream.empty) (.spush 5 6) fun c s => acts c ∧ (winOf c s).stream ≠ none ∧
      (sIn 5 c s < 2 ^ 28 ∧ 1 ≤ sIn 5 c s / 2 ^ 17 % 2 ^ 11 ∧ sIn 5 c s / 2 ^ 17 % 2 ^ 11 ≤ 1024) ∧
      (winOf c s).winSize < sIn 6 c s + sIn 5 c s / 2 ^ 17 % 2 ^ 11) ∧
    (MeetsIn (wt (wspush (fun g => (g.putS 5 0x20000).putS 6 65535) Stream.empty) fun t => { t with wpois := [16383] }) (.spush 5 6) fun c s =>
      acts c ∧ (winOf c s).stream ≠ none ∧
      (sIn 5 c s < 2 ^ 28 ∧ 1 ≤ sIn 5 c s / 2 ^ 17 % 2 ^ 11 ∧ sIn 5 c s / 2 ^ 17 % 2 ^ 11 ≤ 1024) ∧
      sIn 6 c s + sIn 5 c s / 2 ^ 17 % 2 ^ 11 ≤ (winOf c s).winSize ∧ winPois (winOf c s) (sIn 6 c s) (sIn 5 c s / 2 ^ 17 % 2 ^ 11) = true) := by
  simp only [List.forall_mem_cons, List.not_mem_nil, false_imp_iff, implies_true, and_true]
  refine ⟨⟨?_, ?_⟩, ?_, ⟨?_, ?_⟩, ?_, ?_, ?_, ?_⟩
  all_goals first
    | exact meets _ _ _ rfl (by unfold acts; decide)
    | exact meetsIn _ _ _ rfl (by unfold acts; decide)
    | exact meetsIn _ _ _ rfl (by unfold acts; decide +kernel)

/-- The least launch of one matrix stream, changed; its team's window with bytes. -/
def wxs (f : Stream → Stream) : State := wx.setStr 0 (f (wx.str 0))
/-- m1 holds a value. -/
def wm1 (v : Word) (f : Stream → Stream) : State := wxs fun x => f { x with m := [(1, v)] }
/-- The hypotheses of a statement about a stream. -/
def MeetsStr (s : State) (P : Nat → State → Prop) : Prop := s.cur = some (.stream 0) ∧ P 0 s

/-- FB at its greatest and past each field; a latched tile; XLD at the last place of the window; a slot taken and none; ZCLR of all
tiles; the unit busy and not; a tile open and closed; each operand past each of its limits; offsets that are misaligned and past the
window; a taken slot past it and poisoned; ZLD and ZST at the last place of the window, as f32 and as f16. -/
theorem witness_MatrixRegistersAndTiles :
    (MeetsStr (wm1 0x533 id) fun t s => mClean t s 1 ∧ mIn t s 1 % 16 ≤ 3 ∧ mIn t s 1 / 16 % 16 ≤ 3 ∧ mIn t s 1 / 256 % 8 < 6 ∧
      mIn t s 1 / 4096 % 16 = 0) ∧
    (∀ v ∈ [4, 0x40, 0x600, 0x1000], MeetsStr (wm1 v id) fun t s => mClean t s 1 ∧ (3 < mIn t s 1 % 16 ∨ 3 < mIn t s 1 / 16 % 16 ∨
      6 ≤ mIn t s 1 / 256 % 8 ∨ mIn t s 1 / 4096 % 16 ≠ 0)) ∧
    (MeetsStr (wm1 0 fun x => { x with latch := some 3 }) fun t s => mClean t s 1 ∧ latched (s.str t) 2 = true) ∧
    (MeetsStr (wm1 57344 id) fun t s => mClean t s 1 ∧ latched (s.str t) 7 = false ∧ rangePasses t (mIn t s 1) 8192 64 s) ∧
    (MeetsStr (wm1 0 fun x => { x with taken := [(0, 64)] }) fun t s => mClean t s 1 ∧ latched (s.str t) 7 = false ∧
      (s.str t).taken.find? (fun p => p.1 == mIn t s 1) = some (mIn t s 1, 64) ∧ (64 : Nat) < 2 ^ 32 ∧
      winPois (s.team t) 64 4 = false ∧ rangePasses t (64 + 16) (min (s.win t 64 4) 8192) 1 s) ∧
    (MeetsStr (wm1 0 id) fun t s => mClean t s 1 ∧ latched (s.str t) 7 = false ∧ ∀ p ∈ (s.str t).taken, p.1 ≠ mIn t s 1) ∧
    (MeetsStr (wm1 1 fun x => { x with busy := true }) fun t s => (mClean t s 1 ∧ 7 < (s.str t).tiles) ∧ tileClosed (s.str t) 7 ∧
      ¬(s.str t).busy = false ∧ (mIn t s 1 % 4 ≤ 1 ∧ mIn t s 1 / 4 % 64 = 0 ∧ mIn t s 1 / 256 % 256 ≠ 0xFF ∧ mIn t s 1 < 2 ^ 16) ∧
      mIn t s 1 < 0xFF ∧ mIn t s 1 < (s.str t).tiles ∧ tileClosed (s.str t) (mIn t s 1) ∧ 1 ≤ mIn t s 1 ∧ 7 + mIn t s 1 ≤ (s.str t).tiles) ∧
    (MeetsStr (wm1 8 id) fun t s => (mClean t s 1 ∧ 0 < (s.str t).tiles) ∧ (s.str t).busy = false ∧ 1 ≤ mIn t s 1 ∧ 0 + mIn t s 1 ≤ (s.str t).tiles) ∧
    (MeetsStr (wm1 0 fun x => { x with z := [(7, { ZTile.empty with opened := true })] }) fun t s => (mClean t s 1 ∧ 7 < (s.str t).tiles) ∧
      (mIn t s 1 % 4 ≤ 1 ∧ mIn t s 1 / 4 % 64 = 0 ∧ mIn t s 1 / 256 % 256 ≠ 0xFF ∧ mIn t s 1 < 2 ^ 16) ∧ mIn t s 1 < (s.str t).tiles ∧
      mIn t s 1 < 0xFF ∧ (mIn t s 1 / 2 ^ 19 < 3 ∧ (mIn t s 1 / 2 ^ 19 = 0 ∨ fbMode (s.str t).fb ≠ 1)) ∧ mIn t s 1 % 2 ^ 19 % 64 = 0 ∧
      mIn t s 1 % 2 ^ 19 + 4096 * 4 ≤ (s.team t).winSize ∧ winPois (s.team t) (mIn t s 1 % 2 ^ 19) (4096 * 4) = false ∧
      ((s.str t).tile 7).opened = true) ∧
    (MeetsStr (wm1 0 fun x => { x with z := [(0, { ZTile.empty with opened := true })] }) fun t s => (mClean t s 1 ∧ 7 < (s.str t).tiles) ∧
      mIn t s 1 < (s.str t).tiles ∧ ((s.str t).tile (mIn t s 1)).opened = true) ∧
    (∀ v ∈ [2, 4, 0xFF00, 0x10000], MeetsStr (wm1 v id) fun t s => (mClean t s 1 ∧ 7 < (s.str t).tiles) ∧
      ¬(mIn t s 1 % 4 ≤ 1 ∧ mIn t s 1 / 4 % 64 = 0 ∧ mIn t s 1 / 256 % 256 ≠ 0xFF ∧ mIn t s 1 < 2 ^ 16)) ∧
    (MeetsStr (wm1 8 id) fun t s => (mClean t s 1 ∧ 7 < (s.str t).tiles) ∧ ¬mIn t s 1 < (s.str t).tiles ∧
      ¬(1 ≤ mIn t s 1 ∧ 7 + mIn t s 1 ≤ (s.str t).tiles)) ∧
    (MeetsStr (wm1 0 id) fun t s => (mClean t s 1 ∧ 7 < (s.str t).tiles) ∧ ¬(1 ≤ mIn t s 1 ∧ 7 + mIn t s 1 ≤ (s.str t).tiles)) ∧
    (MeetsStr (wm1 0xFF id) fun t s => (mClean t s 1 ∧ 7 < (s.str t).tiles) ∧ ¬mIn t s 1 < 0xFF) ∧
    (MeetsStr (wm1 0x180000 id) fun t s => (mClean t s 1 ∧ 7 < (s.str t).tiles) ∧ ¬mIn t s 1 / 2 ^ 19 < 3) ∧
    (MeetsStr (wm1 0x80000 fun x => { x with fb := 0x800 }) fun t s => (mClean t s 1 ∧ 7 < (s.str t).tiles) ∧
      ¬(mIn t s 1 / 2 ^ 19 = 0 ∨ fbMode (s.str t).fb ≠ 1)) ∧
    (MeetsStr (wm1 32 id) fun t s => (mClean t s 1 ∧ 7 < (s.str t).tiles) ∧ latched (s.str t) 7 = false ∧ mIn t s 1 / 2 ^ 19 = 0 ∧
      mIn t s 1 % 64 ≠ 0 ∧ mIn t s 1 % 2 ^ 19 % 64 ≠ 0) ∧
    (MeetsStr (wm1 57408 id) fun t s => (mClean t s 1 ∧ 7 < (s.str t).tiles) ∧ latched (s.str t) 7 = false ∧ mIn t s 1 / 2 ^ 19 = 0 ∧
      mIn t s 1 % 64 = 0 ∧ mIn t s 1 % 2 ^ 19 % 64 = 0 ∧ (s.team t).winSize < mIn t s 1 + 8192 ∧
      (s.team t).winSize < mIn t s 1 % 2 ^ 19 + 4096 * 4) ∧
    (∀ n ∈ [0, 1], MeetsStr (wt (wm1 0 fun x => { x with taken := [(0, 65528)] }) fun t => { t with wpois := List.replicate n 16382 }) fun t s =>
      (mClean t s 1 ∧ latched (s.str t) 7 = false ∧ (s.str t).taken.find? (fun p => p.1 == mIn t s 1) = some (mIn t s 1, 65528) ∧
        (65528 : Nat) < 2 ^ 32) ∧ (winPois (s.team t) 65528 4 = false ↔ n = 0) ∧
      (s.team t).winSize < 65528 + 16 + min (s.win t 65528 4) 8192) ∧
    (MeetsStr (wm1 0x8E000 id) fun t s => (mClean t s 1 ∧ 7 < (s.str t).tiles) ∧ ((s.str t).tile 7).opened = false ∧ tileClosed (s.str t) 7 ∧
      mIn t s 1 / 2 ^ 19 = 1 ∧ fbMode (s.str t).fb ≠ 1 ∧ rangePasses t (mIn t s 1 % 2 ^ 19) 8192 64 s) ∧
    (MeetsStr (wm1 0xFE01 id) fun t s => (mClean t s 1 ∧ 7 < (s.str t).tiles) ∧ (s.str t).busy = false ∧ tileClosed (s.str t) 7 ∧
      mIn t s 1 % 4 ≤ 1 ∧ mIn t s 1 / 4 % 64 = 0 ∧ mIn t s 1 / 256 % 256 ≠ 0xFF ∧ mIn t s 1 < 2 ^ 16) ∧
    (MeetsStr (wm1 6 id) fun t s => (mClean t s 1 ∧ 7 < (s.str t).tiles) ∧ (s.str t).busy = false ∧ tileClosed (s.str t) 7 ∧
      mIn t s 1 < (s.str t).tiles ∧ tileClosed (s.str t) (mIn t s 1)) ∧
    (MeetsStr (wm1 0xFE id) fun t s => (mClean t s 1 ∧ 7 < (s.str t).tiles) ∧ (s.str t).busy = false ∧ tileClosed (s.str t) 7 ∧ mIn t s 1 < 0xFF) ∧
    (MeetsStr (wm1 49152 id) fun t s => (mClean t s 1 ∧ 7 < (s.str t).tiles) ∧ ((s.str t).tile 7).opened = false ∧ tileClosed (s.str t) 7 ∧
      (mIn t s 1 / 2 ^ 19 < 3 ∧ (mIn t s 1 / 2 ^ 19 = 0 ∨ fbMode (s.str t).fb ≠ 1)) ∧ rangePasses t (mIn t s 1 % 2 ^ 19) 16384 64 s ∧
      mIn t s 1 % 2 ^ 19 % 64 = 0 ∧ mIn t s 1 % 2 ^ 19 + 16384 ≤ (s.team t).winSize) := by
  simp only [List.forall_mem_cons, List.not_mem_nil, false_imp_iff, implies_true, and_true]
  refine ⟨?_, ⟨?_, ?_, ?_, ?_⟩, ?_, ?_, ?_, ?_, ?_, ?_, ?_, ?_, ⟨?_, ?_, ?_, ?_⟩, ?_, ?_, ?_, ?_, ?_, ?_, ?_, ⟨?_, ?_⟩, ?_, ?_, ?_, ?_, ?_⟩ <;>
    unfold MeetsStr <;>
    (simp only [mClean, tileClosed, rangePasses]; decide +kernel)

/-- The hypotheses of a product of 64 by 64 by 64 into tile 7 from x tile 7 at the last place of the window, for an outcome of its check. -/
def mmaMeets (s : State) (c : MmaChk → Prop) (busy : Bool) : Prop :=
  MeetsStr s fun t s => mClean t s 1 ∧ 7 + (shapes 0xE0).c ≤ (s.str t).tiles ∧ 7 % aTiles (shapes 0xE0) (s.str t).fb = 0 ∧
    rangePasses t (mIn t s 1) (64 * bRows (shapes 0xE0) (s.str t).fb * (shapes 0xE0).n) 64 s ∧
    (∀ q ∈ (s.str t).xpois, ¬(7 ≤ q.1 ∧ q.1 < 7 + aTiles (shapes 0xE0) (s.str t).fb)) ∧
    (∀ q ∈ (s.str t).zpois, ¬(7 ≤ q.1 ∧ q.1 < 7 + (shapes 0xE0).c)) ∧ c (mmaCheck (s.str t) (shapes 0xE0) 7) ∧ (s.str t).busy = busy

/-- A check that passes, with the block position and the batches to take. -/
def isGo (k : MmaChk) (p n : Nat) : Bool := match k with | .go a b => a == p && b == n | _ => false

theorem of_isGo (k : MmaChk) (p n : Nat) (h : isGo k p n = true) : k = .go p n := by
  cases k <;> simp_all [isGo]

/-- An odd x tile for two; a tile of other parameters; no batch; a block left open, on an idle and on a busy unit; two blocks ended by
batches; the identities' ranges. -/
theorem witness_MatrixProductsAccumulateBlocks :
    (MeetsStr (wm1 0 id) fun t s => mClean t s 1 ∧ 0 + (shapes 0xE3).c ≤ (s.str t).tiles ∧ 1 % aTiles (shapes 0xE3) (s.str t).fb ≠ 0) ∧
    (MeetsStr (wm1 32 id) fun t s => mClean t s 1 ∧ 7 + (shapes 0xE0).c ≤ (s.str t).tiles ∧ 7 % aTiles (shapes 0xE0) (s.str t).fb = 0 ∧
      mIn t s 1 % 64 ≠ 0) ∧
    (MeetsStr (wm1 65472 id) fun t s => mClean t s 1 ∧ 7 + (shapes 0xE0).c ≤ (s.str t).tiles ∧ 7 % aTiles (shapes 0xE0) (s.str t).fb = 0 ∧
      mIn t s 1 % 64 = 0 ∧ (s.team t).winSize < mIn t s 1 + 64 * bRows (shapes 0xE0) (s.str t).fb * (shapes 0xE0).n) ∧
    mmaMeets (wm1 53248 fun x => { x with z := [(7, { ZTile.empty with opened := true })] }) (fun k => k = .fault (flt 10 3)) false ∧
    mmaMeets (wm1 53248 id) (fun k => k = .wait) false ∧
    mmaMeets (wm1 53248 fun x => { x with fb := 0x500 }) (fun k => k = .go 0 0) false ∧
    mmaMeets (wm1 53248 fun x => { x with fb := 0x500, busy := true }) (fun k => k = .go 0 0) true ∧
    mmaMeets (wm1 53248 fun x => { x with sa := [⟨0, List.replicate 128 127⟩], sb := [⟨0, List.replicate 128 127⟩] })
      (fun k => k = .go 0 2) false ∧
    ((0xFF : Nat) = 0xFF ∧ (0 : Nat) ≠ 0xFF ∧ 0 < 32 ∧ 0 + 31 < 32) := by
  refine ⟨⟨rfl, by unfold mClean; decide, by decide, by decide⟩, ⟨rfl, by unfold mClean; decide +kernel⟩,
    ⟨rfl, by unfold mClean; decide +kernel⟩, ?_, ?_, ?_, ?_,
    ⟨rfl, by unfold mClean; decide, by decide, by decide +kernel, by unfold rangePasses; decide +kernel, by decide +kernel,
        by decide +kernel, of_isGo _ _ _ (by decide +kernel), rfl⟩, by decide⟩ <;>
    exact ⟨rfl, by unfold mClean; decide, by decide, by decide, by unfold rangePasses; decide, by decide, by decide, rfl, rfl⟩

/-- A stream with one batch of each kind, of tags t, m and n bytes, each e. -/
def wbatches (t m n : Nat) (e : Byte) : Stream := { Stream.empty with sa := [⟨t, List.replicate m e⟩], sb := [⟨0, List.replicate n e⟩] }

/-- Each case of the checks of R192 for 64 by 64 by 64 into tile 0: a tile of other parameters, a product that ends no block, no batch,
a wrong tag, wrong counts, in integer mode a scale that is not 127, and none of them. -/
theorem witness_MmaChecked :
    let nb := fun (x : Stream) => ((x.tile 0).pos + effK (shapes 0xE0) x.fb) / blockLen x.fb
    let tags := fun (x : Stream) => ∃ a b, x.sa = [a] ∧ x.sb = [b] ∧ a.tag = (x.fb.extractLsb' 16 16).toNat ∧ b.tag = (x.fb.extractLsb' 16 16).toNat
    let counts := fun (x : Stream) => ∃ a b, x.sa = [a] ∧ x.sb = [b] ∧ a.bytes.length = 64 * nb x ∧ b.bytes.length = 64 * nb x
    let ones := fun (x : Stream) => x.fb.toNat / 2048 % 2 = 1 → ∀ b ∈ x.sa ++ x.sb, ∀ e ∈ b.bytes, e = 127
    blockChanged { Stream.empty with z := [(0, { ZTile.empty with opened := true })] } 1 0 ∧
    (¬blockChanged { Stream.empty with fb := 0x500 } 1 0 ∧ nb { Stream.empty with fb := 0x500 } = 0) ∧
    (¬blockChanged Stream.empty 1 0 ∧ nb Stream.empty ≠ 0 ∧ Stream.empty.sa = []) ∧
    (¬blockChanged (wbatches 1 128 128 127) 1 0 ∧ nb (wbatches 1 128 128 127) ≠ 0 ∧ ¬tags (wbatches 1 128 128 127)) ∧
    (¬blockChanged (wbatches 0 128 127 127) 1 0 ∧ nb (wbatches 0 128 127 127) ≠ 0 ∧ tags (wbatches 0 128 127 127) ∧
      ¬counts (wbatches 0 128 127 127)) ∧
    (let x := { wbatches 0 128 128 126 with fb := 0x800 }
     ¬blockChanged x 1 0 ∧ nb x ≠ 0 ∧ tags x ∧ counts x ∧ ¬ones x) ∧
    (let x := { wbatches 0 128 128 127 with fb := 0x800 }
     ¬blockChanged x 1 0 ∧ nb x ≠ 0 ∧ tags x ∧ counts x ∧ ones x) := by
  have un (x : Stream) (h : x.z = []) : ¬blockChanged x 1 0 := by
    rintro ⟨i, -, h1 | h1 | h1⟩ <;> simp [Stream.tile, h, ZTile.empty, aget, afind] at h1
  refine ⟨⟨0, by decide, .inl ⟨rfl, by decide⟩⟩, ⟨un _ rfl, by decide⟩, ⟨un _ rfl, by decide, rfl⟩, ⟨un _ rfl, by decide, ?_⟩,
    ⟨un _ rfl, by decide, ⟨_, _, rfl, rfl, rfl, rfl⟩, ?_⟩,
    ⟨un _ rfl, by decide, ⟨_, _, rfl, rfl, rfl, rfl⟩, ⟨_, _, rfl, rfl, by decide +kernel, by decide +kernel⟩, ?_⟩,
    ⟨un _ rfl, by decide, ⟨_, _, rfl, rfl, rfl, rfl⟩, ⟨_, _, rfl, rfl, by decide +kernel, by decide +kernel⟩, fun _ => by decide +kernel⟩⟩
  · rintro ⟨a, b, e, -, h, -⟩
    obtain rfl : _ = a := (List.cons.inj e).1
    exact absurd h (by decide)
  · rintro ⟨a, b, -, e, -, h⟩
    obtain rfl : _ = b := (List.cons.inj e).1
    exact absurd h (by decide +kernel)
  · intro h
    exact absurd (h (by decide +kernel) ⟨0, List.replicate 128 126⟩ (by simp [wbatches]) 126 (by simp)) (by decide)

/-- What the ring instructions of a stream ask of the ring at offset 0, which m register k names, and of the slot at its tail. -/
def ringOk (t k : Nat) (s : State) : Prop :=
  k ∉ (s.str t).mpois ∧ (aget 0 k (s.str t).m).toNat = 0 ∧ 0 % 32 = 0 ∧ 0 + 32 ≤ (s.team t).winSize ∧ winPois (s.team t) 0 32 = false ∧
    (s.ring t 0).ok (s.team t).winSize = true ∧ winPois (s.team t) ((s.ring t 0).slot (s.ring t 0).tail + 4) 4 = false ∧
    (s.str t).wait ≠ .closed

/-- Team barrier 15 with the stream as a member, and without; one arrival short of its phase and two; a ring slot full, none, taken. -/
theorem witness_StreamsRunTheirGeneralInstructions :
    MeetsStr wx (fun _ _ => True) ∧
    (MeetsStr wx fun t s => (∀ a c p, (s.str t).wait ≠ .phase a c p) ∧ streamMember t ∉ (s.bar t 0 15).members) ∧
    (MeetsStr (wt (wxs fun x => { x with busy := true }) fun t => { t with tb := [(15, { wbar0 with members := [streamMember 0] })] }) fun t s =>
      (∀ a c p, (s.str t).wait ≠ .phase a c p) ∧ streamMember t ∈ (s.bar t 0 15).members ∧ (s.str t).busy = true) ∧
    (∀ n ∈ [1, 2], MeetsStr (wt wx fun t => { t with tb := [(15, { wbar0 with expect := n, members := [streamMember 0] })] }) fun t s =>
      (∀ a c p, (s.str t).wait ≠ .phase a c p) ∧ streamMember t ∈ (s.bar t 0 15).members ∧ (s.str t).busy = false ∧
      (streamMember t, (s.bar t 0 15).phase) ∉ (s.bar t 0 15).pend ∧ (s.bar t 0 15).gone = []) ∧
    (MeetsStr (wxs fun x => { x with wait := .closed }) fun t s => 15 ∉ (s.str t).mpois ∧ (s.str t).wait = .closed) ∧
    (MeetsStr (wwin wx [(0, 64), (4, 32), (8, 2), (69, 2)]) fun t s => ringOk t 15 s ∧
      (∀ o k n, (s.str t).wait ≠ .ring o k n) ∧ s.slotState t (s.ring t 0) (s.ring t 0).tail = 2 ∧ ringFirst s t 0 true s.nextUnit = true) ∧
    (MeetsStr (wwin wx [(0, 64), (4, 32), (8, 2)]) fun t s => ringOk t 15 s ∧
      (∀ o k n, (s.str t).wait ≠ .ring o k n) ∧ s.slotState t (s.ring t 0) (s.ring t 0).tail ≠ 2 ∧ (s.ring t 0).closed = false) ∧
    (MeetsStr (wwin (wm1 64 id) [(0, 64), (4, 32), (8, 2), (69, 3)]) fun t s => ringOk t 2 s ∧ 1 ∉ (s.str t).mpois ∧
      (s.ring t 0).index (mIn t s 1) = some 0 ∧ winPois (s.team t) (mIn t s 1 + 4) 4 = false ∧ s.slotState t (s.ring t 0) 0 = 3) ∧
    (MeetsStr { wt wx (fun t => { t with groups := [1] }) with groups := [(1, { Group.empty with live := true })] } fun t s =>
      (s.team t).resident = true ∧ ∃ g ∈ (s.team t).groups, (s.grp g).live = true) := by
  have ph (x : Stream) (h : x.wait = .run) : ∀ a c p, x.wait ≠ .phase a c p := fun a c p e => by rw [h] at e; nomatch e
  have rg (x : Stream) (h : x.wait = .run) : ∀ o k n, x.wait ≠ .ring o k n := fun a c p e => by rw [h] at e; nomatch e
  simp only [List.forall_mem_cons, List.not_mem_nil, false_imp_iff, implies_true, and_true]
  exact ⟨⟨rfl, trivial⟩, ⟨rfl, ph _ rfl, by decide⟩, ⟨rfl, ph _ rfl, by decide, rfl⟩,
    ⟨⟨rfl, ph _ rfl, by decide, rfl, by decide, rfl⟩, ⟨rfl, ph _ rfl, by decide, rfl, by decide, rfl⟩⟩,
    ⟨rfl, by decide, rfl⟩,
    ⟨rfl, by unfold ringOk; decide +kernel, rg _ rfl, by decide +kernel, by decide +kernel⟩,
    ⟨rfl, by unfold ringOk; decide +kernel, rg _ rfl, by decide +kernel, by decide +kernel⟩,
    ⟨rfl, by unfold ringOk; decide +kernel, by decide, by decide +kernel, by decide +kernel, by decide +kernel⟩, ⟨rfl, rfl, 1, by decide, rfl⟩⟩

/-- A load of lane 5 and a store of lane 0 under way, whose write is entered; an atomic of lane 5, of a scope and an order. -/
def wld : LoadOp := ⟨1, 0, .load false, 2, 4, 0, 0, false, some (0, 7), [⟨5, 0, devKey 0 0x20000, 0⟩], [], [], 0, 0, 0, 0, 0⟩
def wst : StoreOp := ⟨0, 0, .store, 2, 4, 0, 0, false, [⟨0, 0, devKey 0 0x20000, 3⟩], [], 0, 0, 0, 0, 0⟩
def wwr : WriteRec := ⟨3, 32, ⟨0, 0, 0, 0, 0, 0⟩, devKey 0 0x20000, [1, 2, 3, 4], false, 0, false, false, [], none, [], [], false⟩
def wat (sc o : Nat) : LoadOp := ⟨1, 0, .atomic 0, 1, 4, sc, o, true, some (0, 7), [⟨5, 0, devKey 0 0x20000, 0⟩], [(5, 1, 0)], [], 0, 0, 0, 0, 0⟩
def wpend : State :=
  { wg (fun g => { g with loads := [wld], stores := [wst], pend := [(0, 7)] }) with ord := { Ord.empty with writes := [wwr] } }
/-- A group with one operation in its load queue, or in its store queue. -/
def wone (op : LoadOp) : State := wg fun g => { g with loads := [op] }
def wstore (op : StoreOp) : State := wg fun g => { g with stores := [op] }
/-- An atomic that happens before a load of its bytes and has yet to perform. -/
def wblocked : State :=
  { wone { wld with accs := [⟨5, 0, devKey 0 0x20000, 1⟩] } with
    ord := { Ord.empty with past := #[0, 1], pendAt := [(0, devKey 0 0x20000, 4)] } }

/-- A load that finds its line at home and one that need not, an atomic at group and at device scope, a ring result and a prefetch; a
plain store, an STN, a reduction and a range operation; an empty queue, a load that must wait, a load of one register. -/
theorem witness_LoadsAndStoresComplete :
    (∀ ch ∈ [0, 1], (wpend.grp 1).loads = wld :: [] ∧ returnsNow wpend 1 ch wld) ∧
    (∀ ch ∈ [0, 1], ((wone (wat 3 1)).grp 1).loads = wat 3 1 :: [] ∧ returnsNow (wone (wat 3 1)) 1 ch (wat 3 1)) ∧
    (((wone (wat 5 3)).grp 1).loads = wat 5 3 :: [] ∧ returnsNow (wone (wat 5 3)) 1 0 (wat 5 3)) ∧
    (∀ k ∈ [LoadKind.pfetch, .locate, .result 9], ((wone { wld with kind := k }).grp 1).loads = { wld with kind := k } :: [] ∧
      returnsNow (wone { wld with kind := k }) 1 0 { wld with kind := k }) ∧
    (∀ k ∈ [StoreKind.store, .stn 0x20000000, .red 1, .range 0 0 0 64], ((wstore { wst with kind := k }).grp 1).stores[0]? = some { wst with kind := k } ∧
      performsNow (wstore { wst with kind := k }) 1 0 { wst with kind := k }) ∧
    (ws.grp 1).loads = [] ∧
    ((wblocked.grp 1).loads = { wld with accs := [⟨5, 0, devKey 0 0x20000, 1⟩] } :: [] ∧
      loadMay wblocked { wld with accs := [⟨5, 0, devKey 0 0x20000, 1⟩] } = false) ∧
    oneLane wld ⟨5, 0, devKey 0 0x20000, 0⟩ false 7 ∧
    (loadCands ws 0 0 ⟨0, 0⟩ 4 (ws.placeOf 1) none true 0).1 ≠ [] ∧
    ((wpend.grp 1).stores[0]? = some wst ∧ performsNow wpend 1 0 wst ∧ (wpend.grp 1).exited = false ∧ wst.kind = .store ∧
      wst.accs = [⟨0, 0, devKey 0 0x20000, 3⟩] ∧ wpend.portFailed (devKey 0 0x20000) = false ∧
      (wpend.ord.writes.find? fun x => x.node == 3 && !x.done) = some wwr ∧ wwr.addr < 2 ^ 70 ∧ wwr.covers (devKey 0 0x20003) = true) := by
  have no (s : State) (l : List LaneAcc) (h : s.copies = []) : unclaimed s l := fun c hc => by rw [h] at hc; nomatch hc
  simp only [List.forall_mem_cons, List.not_mem_nil, false_imp_iff, implies_true, and_true]
  refine ⟨⟨⟨?_, ?_⟩, ?_, ?_⟩, ⟨⟨?_, ?_⟩, ?_, ?_⟩, ⟨?_, ?_⟩, ⟨⟨?_, trivial⟩, ⟨?_, trivial⟩, ?_, trivial⟩, ⟨⟨?_, ?_⟩, ⟨?_, ?_⟩, ⟨?_, ?_⟩, ?_, ?_⟩, rfl,
    ⟨?_, ?_⟩, ⟨rfl, rfl, rfl, rfl, .inr rfl⟩, ?_, ?_, ?_, ?_⟩
  all_goals first
    | exact ⟨by decide +kernel, by decide +kernel, fun _ => no _ _ rfl⟩
    | exact ⟨by decide +kernel, fun _ => by decide +kernel, no _ _ rfl, fun _ => rfl⟩
    | exact ⟨by decide +kernel, fun _ => by decide +kernel, no _ _ rfl, fun h => absurd h (by decide)⟩
    | exact ⟨by decide +kernel, no _ _ rfl, by decide +kernel, by decide +kernel⟩
    | exact ⟨by decide +kernel, no _ _ rfl, by decide +kernel, (by decide +kernel : lateExcl wpend 1 wst.accs = 0)⟩
    | exact ⟨by decide +kernel, no _ _ rfl, by decide +kernel, fun _ => rfl⟩
    | exact ⟨by decide +kernel, no _ _ rfl, by decide +kernel, trivial⟩
    | decide +kernel

/-- Tile, object and special-function results, a held access, copies at each of their steps (a unit loaded, a line claimed and written,
a poisoned source, a page that is not there), and fragments that sleep, yield, age and are ready. -/
def wtile (op : Nat) : TileOp := ⟨op, 0, 1, some 4, 0, 5, 1⟩
def wobj (del : Bool) : State := wg fun g => { g with obj := some ⟨0, del, 4, 0, 0, 256, 0, []⟩ }
def wcp : Copy := { Copy.empty with gid := 1, layout := copyRec, cmd := [0, 0xFFFFFFFF, 0, 0], total := 1, dst := 4 }
def wcps (c : Copy) : State := { ws with copies := [(9, c)] }
/-- A storing copy with its one unit still to write, to a line that it has claimed or has not. -/
def wcs (claim : Option (Nat × List Nat)) : Copy :=
  let c := { wcp with layout := copyRec.set 10 1, stop := 1, left := [0], pieces := [(1, devKey 0 0x20000)] }
  { c with lines := c.linesOf [0], claim := claim }
def wheld : HeldOp := ⟨none, none, 1, [devKey 0 0x20000], 0⟩
def wpark : Park := ⟨devKey 0 0x20000 / 128, 0, 0x80000002, [(2, [1])], 0, []⟩

/-- `undisturbed`, as a Bool. -/
def quietCopy (s : State) (c : Nat) (cp : Copy) : Bool :=
  (s.copies.all fun x => x.1 == c || x.2.claim.isNone) && cp.next.isNone && !unitsPois s cp cp.left
theorem undisturbed_of_quiet (s : State) (c : Nat) (cp : Copy) (h : quietCopy s c cp = true) : undisturbed s c cp := by
  simp only [quietCopy, Bool.and_eq_true, List.all_eq_true, Bool.or_eq_true, beq_iff_eq, Option.isNone_iff_eq_none,
    Bool.not_eq_true'] at h
  exact ⟨fun x hx hn => (h.1.1 x hx).resolve_left hn, h.1.2, h.2⟩

theorem witness_QueuesAnswerAndSlotsIssue :
    (∀ op ∈ [0xC0, 0xC1, 0xC2, 0xC3, 0xC4], let s := wg fun g => { g with tiles := [wtile op] }
      (s.grp 1).tiles = wtile op :: [] ∧ ¬tileWaits s 1 (wtile op)) ∧
    (ws.grp 1).tiles = [] ∧
    (let s := wg fun g => { g with tiles := [wtile 0xC3], stores := [wst] }
     tileWaits s 1 (wtile 0xC3) ∧ (s.grp 1).tiles.head? = some (wtile 0xC3)) ∧
    (let s := wg fun g => { g with tiles := [wtile 0xC1], loads := [wld] }
     tileWaits s 1 (wtile 0xC1) ∧ (s.grp 1).tiles.head? = some (wtile 0xC1)) ∧
    (∀ d ∈ [true, false], ((wobj d).grp 1).obj.isSome = true ∧ (afind 0 ((wobj d).grp 1).frags).isSome = true) ∧
    ((wg fun g => { g with sfu := [⟨4, 1, [], none⟩] }).grp 1).sfu = ⟨4, 1, [], none⟩ :: [] ∧
    (let s := { wg (fun g => { g with held := [(0, wheld)] }.await 0 (.locate 0)) with parks := [wpark] }
     afind 0 (s.grp 1).held = some wheld ∧ ((s.grp 1).frag 0).wait = .locate 0 ∧ faultsNow (s.grp 1) 0 = true ∧
      ∀ k ∈ wheld.keys, excluded s k (s.coreOf (s.grp 1)) (s.asidOf (s.grp 1)) = true) ∧
    (let c := { wcp with stop := 1, left := [0] }
     afind 9 (wcps c).copies = some c ∧ c.fin = false ∧ c.done < c.stop ∧ c.left ≠ [] ∧ c.left.Nodup ∧ quietCopy (wcps c) 9 c = true ∧
       c.stores = false ∧ c.scale = none ∧ (∀ u ∈ c.left, c.lo + 16 * u + 16 ≤ 2 ^ 33) ∧ c.dests = [] ∧ (wcps c).ord.writes = []) ∧
    (let c := wcs none
     afind 9 (wcps c).copies = some c ∧ c.fin = false ∧ c.done < c.stop ∧ c.left ≠ [] ∧ quietCopy (wcps c) 9 c = true ∧
       c.stores = true ∧ c.lines ≠ []) ∧
    (let c := wcs (some (devKey 0 0x20000 / 128, []))
     afind 9 (wcps c).copies = some c ∧ c.fin = false ∧ c.done < c.stop ∧ c.left ≠ [] ∧ quietCopy (wcps c) 9 c = true ∧
       c.stores = true ∧ devKey 0 0x20000 / 128 < 2 ^ 60 ∧ (∃ x ∈ c.todo, x.2 / 128 = devKey 0 0x20000 / 128) ∧
       (wcps c).ord.writes = [] ∧ (wcps c).foreign ((wcps c).asidOf ((wcps c).grp c.gid)) (devKey 0 0x20000 / 128 * 128) = false ∧
       (wcps c).portFailed (devKey 0 0x20000 / 128 * 128) = false) ∧
    (let c := wcs none
     let s := wt (wcps c) fun t => { t with wpois := [0] }
     afind 9 s.copies = some c ∧ c.fin = false ∧ c.done < c.stop ∧ c.left ≠ [] ∧ unitsPois s c c.unread = true) ∧
    (afind 9 (wcps wcp).copies = some wcp ∧ wcp.fin = false ∧ wcp.stop ≤ wcp.done ∧ wcp.claim = none ∧
      ∃ tr, nextCheck (wcps wcp) wcp = .ok tr ∧
        quietCopy (wcps wcp) 9 { wcp with pieces := tr, left := (List.range (nextPiece (wcps wcp) wcp - wcp.done)).map (wcp.done + ·) } = true ∧
        ∀ a ∈ pieceAccs wcp wcp.done (nextPiece (wcps wcp) wcp - wcp.done), (a.2 = .read →
          blocked (wcps wcp) wcp.node ({ wcp with pieces := tr }.key a.1 false) 8 = false) ∧
          (a.2 = .write → (wcps wcp).collapsing ((wcps wcp).asidOf ((wcps wcp).grp wcp.gid)) a.1 = false)) ∧
    (let c := { wcp with layout := copyRec.set 2 1 }
     afind 9 (wcps c).copies = some c ∧ c.fin = false ∧ c.stop ≤ c.done ∧ nextCheck (wcps c) c = .fail 1) ∧
    (let s := wcps { wcp with fin := true }
     afind 9 s.copies = some { wcp with fin := true } ∧ wcp.ended = false ∧ scaleReady s { wcp with fin := true } = true) ∧
    (let s := wg fun g => g.await 0 (.snooze 0 0)
     ((s.grp 1).frag 0).wait = .snooze 0 0 ∧ 0 + 0 ≤ s.coreCyc (s.coreOf (s.grp 1))) ∧
    (let s := wg fun g => g.await 0 (.yield 0 [])
     ((s.grp 1).frag 0).wait = .yield 0 [] ∧ ∀ o ∈ ([] : List (Nat × Nat)), ready s o.1 o.2 = false) ∧
    (let s := wf fun f => { f with age := 256 }
     ready s 1 0 = true ∧ 256 ≤ ((s.grp 1).frag 0).age) ∧
    ((∃ b ∈ readyOn ws 0, mayTake ws 0 b) ∧ ∀ b ∈ readyOn ws 0, (ws.grp b.1).prio ≤ 3) ∧
    (let s := { ws with cores := [(0, { Core.empty with taken := [(1, 0)] })] }
     ∀ b ∈ readyOn s 0, ¬mayTake s 0 b) ∧
    ws.mod.throt = false ∧
    (let s := { ws with cores := [(0, { Core.empty with slow := [2, 1, 0] })], cycles := [(0, 3)] }
     3 ≤ coreCycle s 0 ∧ (∀ i ∈ [1, 2, 3], coreCycle s 0 - i ∈ (s.core 0).slow) ∧ coreCycle s 0 ∉ (s.core 0).slow) ∧
    (∃ x, (0, x) ∈ wx.teams ∧ x.core = 0 ∧ streamReady wx 0 = true) ∧
    (wx.team 0).stream = some (wx.str 0) := by
  refine ⟨by unfold tileWaits; decide +kernel, rfl, by unfold tileWaits; decide +kernel, by unfold tileWaits; decide +kernel,
    by decide +kernel, rfl, by decide +kernel, by decide +kernel, by decide +kernel, by decide +kernel, by decide +kernel,
    ⟨by decide +kernel, rfl, by decide, rfl, _, rfl, by decide +kernel, by decide +kernel⟩, by decide +kernel, by decide +kernel, by decide +kernel, by decide +kernel, by decide +kernel,
    by unfold mayTake; decide +kernel, by unfold mayTake; decide +kernel, rfl, by decide +kernel, ⟨wx.team 0, .head _, rfl, rfl⟩, rfl⟩

/-- Loops with a packet in a slot, in a queue and in a last chance; a link; pages with copies. -/
def wpkt (age n : Nat) : Pkt := ⟨3, 1, false, 2, age, false, none, n⟩
def wloop (sl : Slot) (nd : Node) : State := { ws with loops := [(0, ⟨[(5, sl)], [(2, nd)]⟩)] }
def wlink (l : Nat) (u : List Unacked) : State := { ws with links := [(l, ⟨u, [], false⟩)], cycles := [(8 + (linkDies l).headD 0, 4096)] }
/-- A page whose leaf is duplicated, and a fragment held at it. -/
def wdup : State := { wg (fun g => g.await 0 (.collapse 0 [(0, 0)])) with
  mem := placedEntry (devKey 0 0x14000) (1 + 2 + 2 ^ 4 + 2 ^ 6 + 2 ^ 7 + 2 ^ 15 + 0x20000 + 2 ^ 48) ws.mem }

theorem witness_LoopsLinksErrorsAndCollapse :
    ((wloop ⟨some (wpkt 0 0), none⟩ Node.empty).loop 0).slot 5 = ⟨some (wpkt 0 0), none⟩ ∧
    (let s := wloop Slot.empty { Node.empty with urgent := [wpkt 511 0] }
     ((s.loop 0).slot 5) = Slot.empty ∧ (nodeAtPass s 0 2 0 none).oldest ≠ []) ∧
    (let s := wloop Slot.empty { Node.empty with urgent := [wpkt 510 0] }
     ((s.loop 0).slot 5) = Slot.empty ∧ (nodeAtPass s 0 2 0 none).oldest = [] ∧
      (nodeAtPass s 0 2 0 none).urgent ++ (nodeAtPass s 0 2 0 none).bulk = wpkt 511 0 :: []) ∧
    ((wloop ⟨some (wpkt 0 2), none⟩ Node.empty).loop 0).slot 5 = ⟨some (wpkt 0 2), none⟩ ∧ 2 ≤ (wpkt 0 2).arrivals ∧
    ((wloop Slot.empty { Node.empty with lastU := some (wpkt 0 0) }).loop 0).node 2 = { Node.empty with lastU := some (wpkt 0 0) } ∧
    ((wlink 3 []).link 3).failed = false ∧ ({ ws with links := [(3, ⟨[], [], true⟩)] }.link 3).failed = true ∧
    (∀ u ∈ [⟨1, 6, 7, 0, none⟩, (⟨1, 6, 8, 0, none⟩ : Unacked)], isLink 3 = true ∧ ((wlink 3 [u]).link 3).failed = false ∧
      (((wlink 3 [u]).link 3).unacked.find? fun x => x.src == 1 && x.id == 6) = some u ∧ u.sent + 4096 ≤ (wlink 3 [u]).linkCyc 3) ∧
    (let u : Unacked := ⟨2, 1, 7, 0, some (wpkt 0 0)⟩
     isLink 24 = true ∧ ((wlink 24 [u]).link 24).failed = false ∧
      (((wlink 24 [u]).link 24).unacked.find? fun x => x.src == 2 && x.id == 1) = some u ∧ u.sent + 4096 ≤ (wlink 24 [u]).linkCyc 24 ∧
      (((wlink 24 [u]).loop 0).node 2).room false = true ∧ ∀ q ∈ (((wlink 24 [u]).loop 0).node 2).queued, q.id ≠ 1) ∧
    passes 0 2 5 0 none ws ∧ passes 0 2 5 0 (some (1, false, 27)) ws ∧ ¬passes 0 2 5 0 (some (1, false, 28)) ws ∧
    passes 271 39 199 4 none ws ∧ ¬passes 0 2 5 1 none ws ∧ ¬passes 272 0 0 0 none ws ∧
    ¬passes 0 2 5 0 none { ws with links := [(24, ⟨[], [], true⟩)] } ∧
    ((ws.grp 1).live = true ∧ (wx.str 0).live = true ∧ (ws.team 0).alive = true) ∧
    entryAt ws 0 (2 ^ 56) = none ∧
    (∃ e, entryAt wdup 0 0 = some (0x14000, e, 4) ∧ dupOf e ≠ 0 ∧ bits e 56 8 = wdup.self ∧ devKey wdup.self 0x14000 < 2 ^ 70) ∧
    heldIn wdup 0 0 = [(1, 0, [(0, 0)])] ∧
    (unperformed wdup 0 (fun p => p / 32 == 0 / 2 ^ 21) = false ∧
      unperformed (wdup.modGrp 1 fun g => { g with loads := [wld] }) 0 (fun p => p / 32 == 0 / 2 ^ 21) = true) := by
  refine ⟨rfl, by decide +kernel, by decide +kernel, rfl, by decide, rfl, rfl, rfl, by decide +kernel, by decide +kernel,
    ⟨by decide, rfl, fun _ h => nomatch h⟩, ⟨by decide, rfl, fun _ h => by cases h; decide⟩, fun h => absurd (h.2.2 _ rfl) (by decide),
    ⟨by decide, rfl, fun _ h => nomatch h⟩, fun h => absurd h.1 (by decide), fun h => absurd h.1 (by decide), fun h => absurd h.2.1 (by decide),
    by decide +kernel, by decide +kernel, ⟨1 + 2 + 2 ^ 4 + 2 ^ 6 + 2 ^ 7 + 2 ^ 15 + 0x20000 + 2 ^ 48, by decide +kernel⟩, by decide +kernel, by decide +kernel⟩

/-- The least launch in ON, a queue of class 0 whose head is launch 5, and launch 5. -/
def won : State := { ws with mod := { ws.mod with state := 2 } }
def whead (r : List Byte) (f : Launch → Launch) : State :=
  { (won.setQueue 0 ⟨0, 0, true, [5]⟩).setLaunch 5 (f (newLaunch ws 0 r (some 0) 0)) with time := 100000 }
/-- A record whose cluster no die has room for. -/
def wideRec : List Byte := launchRec.set 62 0x14
/-- A record of entry 3 of the time-triggered table, with no wait word. -/
def ttRec : List Byte := launchRec.set 66 131
def wtt (f : TtEnt → TtEnt) : State :=
  { wwords ws 0 (bytesWords ttRec) with tt := [(3, f ⟨0, 0, 10000, true, false, 0, 0⟩)], time := 5 }
/-- The team in the migration queue. -/
def wmove (dest : Option Nat) : State := { ws with migq := [⟨0, false, 7, 0, 0, false, dest⟩] }

/-- A group of a launch of policy 2 at point 7, which has a record. -/
def weqp : State := { wt (wg fun g => { g with justEqp := some 7, eqpMay := true }) id with
  launches := [(0, { ws.launch 0 with record := launchRec.set 64 2, kernel := some 4 })]
  kernels := [⟨0, 4, [], 0, 0, [⟨7, 0, 0, 0, [], []⟩], []⟩] }

/-- A place for a cluster of one team of one group. -/
def wplace (core : Nat) : PlaceAt := { core := core, number := 4095, pb := [0x80] }
/-- Launch 0 in class 3, whose context has a save area of 64 KiB from 0x100000. -/
def wvictim (f : Team → Team) : State :=
  let s := whead wideRec id
  { wt (wl s fun l => { l with cls := 3 }) f with
    mem := placedEntry (devKey 0 0x100000) 0x100000 s.mem
    asids := [(0, { s.asid 0 with sarea := 16 })] }
/-- The team of launch 0, saved by the scheduler, its group live. -/
def wsaved : State :=
  { wt won fun t => { t with resident := false, preempt := 3, bySched := true } with
    launches := [(0, { ws.launch 0 with record := launchRec })]
    clusters := [(0, ⟨0, 0, 0, 0, []⟩)] }

theorem witness_SchedulerPlacesReleasesAndMoves :
    (ws.mod.state ≠ 2 ∧ ws.mod.state ≠ 3) ∧
    ((won.mod.state = 2 ∨ won.mod.state = 3) ∧ ∀ h ∈ heads won, dispatchable won h = false) ∧
    (let s := whead launchRec id
     (s.mod.state = 2 ∨ s.mod.state = 3) ∧ (heads s).find? (dispatchable s) = some (5, some 0, 0)) ∧
    (won.mod.state = 2 ∨ won.mod.state = 3) ∧
    (let s := whead launchRec id
     ∃ args, fitsAt s 5 (wplace 1) args ∧ (rectCores (s.launch 5).w (s.launch 5).h 1)[0]? = some 1 ∧ (s.launch 5).groupRoles[0]? = some 0) ∧
    keptBack (whead wideRec fun l => { l with reserved := true }) 1 ∧ keptBack (whead wideRec fun l => { l with lack := some 0 }) 1 ∧
    backAt wsaved 0 1 ∧
    (let s := whead launchRec id
     ∃ h ∈ heads s, dispatchable s h = true) ∧
    (let s := wvictim id
     (s.mod.state = 2 ∨ s.mod.state = 3) ∧ (∀ h ∈ heads s, dispatchable s h = false) ∧ (heads s).find? (lacksRoom s) = some (5, some 0, 0) ∧
      victim s 0 = some (0, 0x100000)) ∧
    ((won.mod.state = 2 ∨ won.mod.state = 3) ∧ ∀ h ∈ heads won, lacksRoom won h = false) ∧
    (let s := whead (launchRec.set 32 8) id
     (s.queue 0).pending = 5 :: [] ∧ (s.launch 5).placed = 0 ∧ ∀ x ∈ waitReads s (s.launch 5), x ≠ none) ∧
    (let s := whead wideRec fun l => { l with lack := some 0 }
     (5, some 0, 0) ∈ heads s ∧ lacksRoom s (5, some 0, 0) = true ∧ (s.launch 5).lack = some 0 ∧ 0 + 100000 ≤ s.time) ∧
    (∀ x, ¬ttDue ws 3 x) ∧
    (∃ x l, ttDue (wtt id) 3 x ∧ x.run = false ∧ (wtt id).time < x.next.toNat + x.period.toNat ∧ ttRecord (wtt id) 3 x = some l) ∧
    (∃ x, let s := wtt fun x => { x with run := true }
     ttDue s 3 x ∧ (x.run = true ∨ x.next.toNat + x.period.toNat ≤ s.time ∨ ttRecord s 3 x = none)) ∧
    (let s := wmove none
     ((serveOrder s.time (s.migq.filter fun m => m.dest.isNone)).find? fun m =>
        (s.team m.team).resident && !(migCores s m.team m.radish).isEmpty) = some ⟨0, false, 7, 0, 0, false, none⟩ ∧
      0 ∈ migCores s 0 false) ∧
    (∀ core ∈ [1, 255], core < 256 ∧ (balanceEntry weqp 0 (isRadishCore core)).isSome = true) ∧
    (let s := wmove (some 3)
     (s.migq.find? fun m => m.team == 0) = some ⟨0, false, 7, 0, 0, false, some 3⟩ ∧ (s.team 0).resident = true ∧
      ∀ g ∈ (s.team 0).groups, s.copiesOf g = []) := by
  have h : (ttRecord (wtt id) 3 ⟨0, 0, 10000, true, false, 0, 0⟩).isSome = true := by decide +kernel
  obtain ⟨l, hl⟩ := Option.isSome_iff_exists.mp h
  have a : ((fun s => (if (s.launch 5).placed = 0 then readArgs s (s.launch 5) else (s.launch 5).args).isSome) (whead launchRec id)) = true := by
    decide +kernel
  obtain ⟨args, ha⟩ := Option.isSome_iff_exists.mp a
  refine ⟨by decide +kernel, by decide +kernel, by decide +kernel, by decide +kernel, ⟨args, ⟨ha, by decide +kernel⟩, by decide +kernel⟩,
    ⟨(5, some 0, 0), by decide +kernel, by decide, .inl rfl⟩, ⟨(5, some 0, 0), by decide +kernel, by decide, .inr ⟨0, rfl, by decide, by decide +kernel⟩⟩,
    ⟨by decide +kernel, (by rintro ⟨h, hh, -⟩; rw [show heads wsaved = [] by decide +kernel] at hh; exact nomatch hh), by decide +kernel⟩,
    by decide +kernel, by decide +kernel, by decide +kernel, by decide +kernel,
    by decide +kernel, (by rintro x ⟨e, -⟩; exact nomatch (show none = some x from e)), ⟨_, l, ⟨rfl, rfl, by decide⟩, rfl, by decide +kernel, hl⟩,
    ⟨⟨0, 0, 10000, true, true, 0, 0⟩, ⟨rfl, rfl, by decide⟩, .inl rfl⟩, by decide +kernel, by decide +kernel, by decide +kernel⟩

/-- The least launch with its cluster listed; a team's own part changed; and the command block of launch 0, its save area at 0x100000. -/
def wcl : State := { ws with clusters := [(0, ⟨0, 0, 0, 0, []⟩)] }
def wcm (size : Nat) (f : Team → Team) : State :=
  { wt wcl f with cmd := ⟨0, 0xFFF, 0, 0, false, 0x100000, false, 0, 0, 0, []⟩, mem := placedEntry (devKey 0 0x100000) size ws.mem }
/-- The same command block under way. -/
def wbz (op : Nat) (f : Team → Team) : State :=
  { wt wcl f with cmd := ⟨0, 0xFFF, 0, 0, false, 0x100000, true, 0, op, 0, [0]⟩ }
/-- A suspended group, and a suspended stream. -/
def wsus : State := (wcm 0 id).modGrp 1 fun g => { g with susp := some 0 }
def wsus2 : State := { wx with
  clusters := [(0, ⟨0, 0, 0, 0, []⟩)], cmd := ⟨0, 0xFFF, 0, 0, true, 0, false, 0, 0, 0, []⟩
  teams := [(0, { wx.team 0 with stream := some { wx.str 0 with susp := true } })] }

theorem witness_PreemptionAndSchedulerCommands :
    (let s := wt ws fun t => { t with preempt := 1 }
     (s.team 0).preempt = 1 ∧ (s.team 0).resident = true ∧ (s.str 0).busy = false) ∧
    ({ wx with teams := [(0, { wx.team 0 with stream := some { wx.str 0 with busy := true } })] }.str 0).busy = true ∧
    (let s := wt ws fun t => { t with preempt := 2 }
     (s.team 0).preempt = 2 ∧ ∀ g ∈ (s.team 0).groups, Group.idle s g) ∧
    (∃ g ∈ (wpend.team 0).groups, (wpend.grp g).loads ≠ [] ∨ (wpend.grp g).stores ≠ []) ∧
    (wbz 0 id).cmd.busy = true ∧
    (State.reset.cmd.busy = false ∧ launchKnown State.reset = false) ∧
    (∀ size, size = 0x20000 ∨ size = 0 → let s := wcm size id
     s.cmd.busy = false ∧ launchKnown s = true ∧ cmdTeams s ≠ [] ∧ (∀ x ∈ cmdTeams s, (s.team x).resident = true ∧ (s.team x).preempt = 0) ∧
      cmdArea s ((cmdTeams s).map (imageParts s)).sum = decide (size = 0x20000)) ∧
    (let s := wcm 0 fun t => { t with preempt := 1 }
     s.cmd.busy = false ∧ launchKnown s = true ∧ ∃ x ∈ cmdTeams s, (s.team x).resident = false ∨ (s.team x).preempt ≠ 0) ∧
    (let s := wcm 0x20000 fun t => { t with preempt := 3, resident := false, saveAt := some 0x100000 }
     s.cmd.busy = false ∧ launchKnown s = true ∧ cmdTeams s ≠ [] ∧ (∀ x ∈ cmdTeams s, (s.team x).preempt = 3 ∧ (s.team x).bySched = false) ∧
      cmdArea s ((cmdTeams s).map (imageParts s)).sum = true ∧
      ∀ p ∈ layImages s s.cmd.save.toNat (cmdTeams s), (s.team p.1).saveAt = some p.2) ∧
    (wsus.cmd.busy = false ∧ launchKnown wsus = true ∧ cmdTeam wsus = some 0 ∧ wsus.cmd.stream = false ∧
        (wsus.team 0).groups[wsus.cmd.group.toNat]? = some 1 ∧ (wsus.grp 1).live = true ∧ (wsus.grp 1).susp = some 0) ∧
    (wsus2.cmd.busy = false ∧ launchKnown wsus2 = true ∧ cmdTeam wsus2 = some 0 ∧ wsus2.cmd.stream = true ∧
        (wsus2.team 0).stream.isSome = true ∧ (wsus2.str 0).live = true ∧ (wsus2.str 0).susp = true) ∧
    (let s := wbz 1 id
     s.cmd.busy = true ∧ ∀ x ∈ s.cmd.teams, cmdOver s x = true) ∧
    (∃ x ∈ (wbz 0 id).cmd.teams, cmdOver (wbz 0 id) x = false) := by
  refine ⟨by decide +kernel, rfl, ⟨rfl, ?_⟩, ⟨1, .head _, .inl (List.cons_ne_nil _ _)⟩, rfl, by decide +kernel, ?_, by decide +kernel,
    by decide +kernel, by decide +kernel, by decide +kernel, by decide +kernel, by decide +kernel⟩
  · intro g hg
    obtain rfl : g = 1 := by simpa using (show g ∈ [1] from hg)
    exact ⟨rfl, rfl, rfl, rfl, rfl⟩
  · rintro size (rfl | rfl) <;> decide +kernel

/-- Function 3 of the mailbox changed; its block enabled and ready with n entries in its ring. -/
def wmb (m : Mbox) : State := ws.setMbox 3 m
def wmbIn (n : BitVec 16) : State := wmb { Mbox.empty with en := true, ready := true, head := n }

theorem witness_MailboxRings :
    (let s := wmb Mbox.empty
     3 < 17 ∧ ((16 : BitVec 16) - (s.mbox 3).tail).toNat ≤ (s.mbox 3).size ∧
      ((s.mbox 3).head - (s.mbox 3).tail).toNat ≤ ((16 : BitVec 16) - (s.mbox 3).tail).toNat) ∧
    (let s := wmb Mbox.empty
     3 < 17 ∧ ((s.mbox 3).size < ((17 : BitVec 16) - (s.mbox 3).tail).toNat ∨
      ((17 : BitVec 16) - (s.mbox 3).tail).toNat < ((s.mbox 3).head - (s.mbox 3).tail).toNat)) ∧
    (let s := wmb { Mbox.empty with chead := 2 }
     3 < 17 ∧ ((s.mbox 3).chead - 2).toNat ≤ ((s.mbox 3).chead - (s.mbox 3).ctail).toNat) ∧
    (let s := wmb { Mbox.empty with chead := 2 }
     3 < 17 ∧ ((s.mbox 3).chead - (s.mbox 3).ctail).toNat < ((s.mbox 3).chead - 3).toNat) ∧
    (let s := wmbIn 1
     ∃ e, (s.mbox 3).en = true ∧ (s.mbox 3).ready = true ∧ (s.mbox 3).tail ≠ (s.mbox 3).head ∧ (s.mbox 3).cplFull = false ∧
      e = entryOf (mread s.hostMem ((s.mbox 3).ring.toNat + 64 * ((s.mbox 3).tail.toNat % (s.mbox 3).size)) 64)) ∧
    (let s := wmbIn 0
     (s.mbox 3).en = false ∨ (s.mbox 3).ready = false ∨ (s.mbox 3).tail = (s.mbox 3).head ∨ (s.mbox 3).cplFull = true) ∧
    (let s := wmb { Mbox.empty with held := [(5, 1)] }
     (s.mbox 3).held = (5, 1) :: [] ∧ (s.mbox 3).cplFull = false) :=
  ⟨by decide +kernel, by decide +kernel, by decide +kernel, by decide +kernel, ⟨_, rfl, rfl, by decide, by decide, rfl⟩, by decide +kernel,
    by decide +kernel⟩

/-- A steward core as a caller in context 0; kernel 4 of context 0; a launch that runs and a wait call for it. -/
def who : Caller := .steward 0 0
def wker : Kernel := ⟨0, 4, launchRec, 0, 0, [], []⟩
def wsys : State := { (ws.setQueue 0 ⟨0, 0, true, []⟩) with
  mem := (wm id).mem, kernels := [wker] }

theorem witness_SystemCallsAnswer :
    CallMade ws who 1 [] ∧
    ¬CallMade ws (.mailbox 3 7) 1 [] ∧ ¬CallMade ws (.steward 16 0) 1 [] ∧ ¬CallMade ws (.steward 0 256) 1 [] ∧
    (CallMade ws who 3 [0, 65536] ∧ ¬unmapWaits ws who 0 65536) ∧
    unmapWaits (wg fun g => { g with loads := [wld] }) who 0 65536 ∧ ¬unmapWaits (wg fun g => { g with loads := [wld] }) who 65536 0 ∧
    CallMade (wmb { Mbox.empty with taken := [(7, 0, [5])] }) (.mailbox 3 7) 0 [5] ∧
    (CallMade ws who 1 [65536, 8] ∧ spans (served_ ws who 1 [65536, 8]) (callerAsid (served_ ws who 1 [65536, 8]) who) 65536 8 .read = none) ∧
    (∃ l, CallMade ws who 1 [0, 8] ∧ spans (served_ ws who 1 [0, 8]) (callerAsid (served_ ws who 1 [0, 8]) who) 0 8 .read = some l) ∧
    mapBad 0 0 0 ∧
    (∀ a, 65536 ≤ a → a ≤ 2 ^ 57 → a % 65536 = 0 → ¬mapBad (2 ^ 57 - a) a 0) ∧
    (let attr := 2 ^ 50
     ¬mapBad 0 65536 attr ∧ bits attr 50 6 ≠ 0 ∧ CallMade ws who 2 [0, 65536, attr] ∧
      afind (bits attr 50 6) ws.shallot.keys ≠ some (callerAsid (served_ ws who 2 [0, 65536, attr]) who)) ∧
    (CallMade ws who 4 [4, 0, 0, 0] ∧ (ws.kernel (callerAsid (served_ ws who 4 [4, 0, 0, 0]) who) 4 = none ∨ 0 % 256 ≠ 0 ∨ 256 ≤ 0)) ∧
    (let s := { ws with kernels := [wker] }
     CallMade s who 4 [4, 0, 0, 0] ∧ s.kernel (callerAsid (served_ s who 4 [4, 0, 0, 0]) who) 4 = some wker ∧ 0 % 256 = 0 ∧ 0 < 256 ∧
      ((s.queue 0).en = false ∨ (s.queue 0).asid ≠ callerAsid (served_ s who 4 [4, 0, 0, 0]) who)) ∧
    (CallMade wsys who 4 [4, 0, 0, 0] ∧ launchPasses (served_ wsys who 4 [4, 0, 0, 0]) who 4 0 0 0 wker) ∧
    (CallMade ws who 10 [4, 0, 1, 0] ∧ (ws.kernel (callerAsid (served_ ws who 10 [4, 0, 1, 0]) who) 4 = none ∨ 0 % 256 ≠ 0 ∨ 1 % 256 ≠ 0)) ∧
    (CallMade ws who 5 [1, 0] ∧ ws.nextLaunch ≤ 1) ∧
    (let s := { ws with nextLaunch := 2 }
     CallMade s who 5 [1, 0] ∧ 1 < s.nextLaunch ∧ afind 1 s.launches = none) ∧
    (CallMade ws who 5 [0, 0] ∧ 0 < ws.nextLaunch ∧ afind 0 ws.launches = some (ws.launch 0) ∧
      (ws.launch 0).asid = callerAsid (served_ ws who 5 [0, 0]) who) ∧
    (let s := { ws with waitCalls := [⟨who, 0, 0⟩] }
     (s.waitCalls.find? fun x => x.who == who && decide (x.until_ ≤ s.time)) = some ⟨who, 0, 0⟩) ∧
    (let s := ws.setAsid 0 { ws.asid 0 with dtpage := 65536 }
     CallMade s who 8 [] ∧ (s.asid (callerAsid (served_ s who 8 []) who)).dtpage ≠ 0) := by
  have core0 (s : State) (n : Nat) (l : List Nat) : CallMade s who n l := ⟨by show 0 < 256; decide, by show 0 < 16; decide⟩
  have h : (spans ws 0 0 8 .read).isSome = true := by decide +kernel
  obtain ⟨l, hl⟩ := Option.isSome_iff_exists.mp h
  refine ⟨core0 .., ?_, fun h => absurd h.2 (by decide), fun h => absurd h.1 (by decide), ⟨core0 .., by unfold unmapWaits; decide +kernel⟩,
    by unfold unmapWaits; decide +kernel, by unfold unmapWaits; decide +kernel, ⟨by decide, (7, 0, [5]), .head _, rfl, rfl, rfl⟩,
    ⟨core0 .., by decide +kernel⟩, ⟨l, core0 .., hl⟩, .inr (.inr (.inr (.inr (.inr (.inl rfl))))),
    ?_, ⟨?_, by decide, core0 .., by decide +kernel⟩, ⟨core0 .., .inl rfl⟩, ⟨core0 .., rfl, rfl, by decide, .inl rfl⟩,
    ⟨core0 .., rfl, rfl, by decide, rfl, rfl, rfl, by decide +kernel, by decide +kernel, by decide +kernel⟩, ⟨core0 .., .inl rfl⟩,
    ⟨core0 .., by decide⟩, ⟨core0 .., by decide, rfl⟩, ⟨core0 .., by decide, rfl, rfl⟩, by decide +kernel, ⟨core0 .., by decide +kernel⟩⟩
  · rintro ⟨-, e, he, -⟩; exact nomatch (show e ∈ [] from he)
  · intro a h1 h2 h3 h
    simp only [mapBad, show attrBits 0 = 0 by decide, show bits 0 2 2 = 0 by decide, show bits 0 8 2 = 0 by decide, show leafBits (4 - 0) = 16 by decide] at h
    omega
  · unfold mapBad; decide

/-- With no write of any agent, no keyed frame and nothing parked, a steward core's read of four bytes finds what stands there. -/
theorem stewRead_quiet (s : State) (o : Ord) (i key n ch : Nat) (hn : n ≤ 4) (hs : s.shallot.owner = []) (hp : s.parks = [])
    (hw : o.writes = []) (ho : (o.ag (stewardAgent i)).obs = []) (ha : o.acqObs = []) :
    ∃ o', stewRead { s with ord := o } i key n false ch = ({ s with ord := o' }, (List.range n).map fun j => s.peek (key + j)) ∧
      o'.writes = [] ∧ (o'.ag (stewardAgent i)).obs = [] ∧ o'.acqObs = [] := by
  have hk : keyOf { s with ord := o } key = 0 := by simp [keyOf, hs, aget, afind]
  have hu : State.unpark { s with ord := o } (key / 128) = { s with ord := o } := by simp [State.unpark, hp]
  obtain ⟨m, q⟩ : ∃ m, m = (o.event (stewardAgent i) []).2 := ⟨_, rfl⟩
  have w1 : m.writes = [] := by rw [q]; exact hw
  have w2 : (m.ag (stewardAgent i)).obs = [] := by
    rw [q]; simp only [Ord.event, Ord.setAg, Ord.ag, aget_aput]; exact ho
  have w3 : m.acqObs = [] := by rw [q]; exact ha
  refine ⟨m.setAg (stewardAgent i) { m.ag (stewardAgent i) with obs := (m.ag (stewardAgent i)).obs, pend := (m.ag (stewardAgent i)).pend },
    ?_, w1, by simp only [Ord.setAg, Ord.ag, aget_aput]; exact w2, w3⟩
  simp only [stewRead, hk, hu, ne_eq, not_true, if_false, Bool.false_eq_true]
  rw [← q, loadCands_none _ _ _ _ _ _ _ _ _ hn fun b => candidates_quiet _ _ _ _ _ _ w1 w2 w3]
  refine Prod.ext ?_ ?_
  · simp [returnLoad, List.filterMap_map, Function.comp_def]
  · simp only [List.map_map]
    exact List.map_congr_left fun j _ => initByte_quiet _ _ w1

/-- What the resident OS then reads: the bytes as they stand. -/
def osBytes (s : State) (l : List (Nat × Nat)) : List Byte :=
  (l.flatMap fun p => partsOf 4 p.1 p.2).flatMap fun x => (List.range x.2).map fun j => s.peek (x.1 + j)

theorem osRead_quiet (s : State) (i asid a n : Nat) (l : List (Nat × Nat)) (hl : spans s asid a n .read = some l)
    (hs : s.shallot.owner = []) (hp : s.parks = []) (hw : s.ord.writes = []) (ho : (s.ord.ag (stewardAgent i)).obs = [])
    (ha : s.ord.acqObs = []) : ∃ o', osRead s i asid a n = some ({ s with ord := o' }, osBytes s l) := by
  have f : ∀ (xs : List (Nat × Nat)) (k : Nat) (o : Ord) (acc : List Byte), (∀ x ∈ xs, x.2 ≤ 4) → o.writes = [] →
      (o.ag (stewardAgent i)).obs = [] → o.acqObs = [] →
      ∃ o', (xs.zipIdx k).foldl (fun (r : State × List Byte) p =>
        let x := stewRead r.1 i p.1.1 p.1.2 false (Config.free s.fresh 0 p.2)
        (x.1, r.2 ++ x.2)) ({ s with ord := o }, acc) =
        ({ s with ord := o' }, acc ++ xs.flatMap fun x => (List.range x.2).map fun j => s.peek (x.1 + j)) := by
    intro xs
    induction xs with
    | nil => intro k o acc _ _ _ _; exact ⟨o, by simp⟩
    | cons x xs ih =>
      intro k o acc h4 hw ho ha
      obtain ⟨o1, e, h1, h2, h3⟩ := stewRead_quiet s o i x.1 x.2 (Config.free s.fresh 0 k) (h4 x (by simp)) hs hp hw ho ha
      obtain ⟨o2, e2⟩ := ih (k + 1) o1 (acc ++ (List.range x.2).map fun j => s.peek (x.1 + j)) (fun y hy => h4 y (by simp [hy])) h1 h2 h3
      refine ⟨o2, ?_⟩
      simp only [List.zipIdx_cons, List.foldl_cons, e, List.flatMap_cons, ← List.append_assoc]
      exact e2
  obtain ⟨o', e⟩ := f (l.flatMap fun p => partsOf 4 p.1 p.2) 0 s.ord [] (fun x hx => by
    obtain ⟨p, -, h⟩ := List.mem_flatMap.mp hx
    exact partsOf_four _ _ _ h) hw ho ha
  exact ⟨o', by rw [osRead, hl]; exact congrArg some e⟩

/-- The queue's context with page 0 for writing too, kernel 4, and entry 5 of the time-triggered table to be set. -/
def wtts : State := { wsys with mem := (wbytes (wm id) launchBytes).mem }
/-- A leaf of 2 MiB at VA 0. -/
def wbig : State := { ws with mem := placedEntry (devKey 0 0x13000) (1 + 2 + 2 ^ 4 + 2 ^ 7 + 2 ^ 15) ws.mem }
/-- What a map of pages from 65536 on, or of the Devicetree page, gives. -/
def isOk (r : Except Nat State) (p : State → Bool) : Bool := match r with | .ok v => p v | .error _ => false

theorem of_isOk (r : Except Nat State) (p : State → Bool) (h : isOk r p = true) : ∃ v, r = .ok v ∧ p v = true := by
  cases r <;> simp_all [isOk]

theorem of_isErr (r : Except Nat State) (e : Nat) (h : (match r with | .error x => x == e | .ok _ => false) = true) : r = .error e := by
  cases r <;> simp_all

/-- A map where a leaf stands, of a page, and of one leaf; an unmap of a part of a leaf, of a misaligned address and of a whole leaf; a
record, a launch and a pool call that pass; ttset with an entry of its own, of another context's and of a record out of reach; attest with
and without its nonce; dtpage the first time, with its page and with no frame. -/
theorem witness_SystemCallsSucceed :
    (CallMade wsys who 2 [0, 65536, 0x10] ∧ mapGives (served_ wsys who 2 [0, 65536, 0x10]) who 0 65536 0x10 [] (.error 3)) ∧
    (∃ u, CallMade ws who 2 [65536, 65536, 0x8010] ∧ tablesReach ws (callerAsid ws who) ∧ 65536 = 2 ^ leafBits (4 - bits 0x8010 2 2) ∧
      bits 0x8010 15 1 = 1 ∧ mapGives (served_ ws who 2 [65536, 65536, 0x8010]) who 65536 65536 0x8010 [3] (.ok u)) ∧
    (CallMade ws who 3 [1, 65536] ∧ ¬unmapWaits ws who 1 65536 ∧ unmapBad 1 65536) ∧
    (CallMade wbig who 3 [0, 65536] ∧ ¬unmapWaits wbig who 0 65536 ∧ ¬unmapWhole (served_ wbig who 3 [0, 65536]) (callerAsid wbig who) 0 65536) ∧
    (¬unmapBad 0 65536 ∧ CallMade ws who 3 [0, 65536] ∧ ¬unmapWaits ws who 0 65536 ∧ tablesReach ws (callerAsid ws who) ∧
      unmapWhole ws (callerAsid ws who) 0 65536 ∧ ∃ e, unmaps ws (callerAsid ws who) 0 65536 e) ∧
    (∃ r key, CallMade wsys who 10 [4, 0, 256, 0] ∧ recordPasses (served_ wsys who 10 [4, 0, 256, 0]) who 4 0 256 r ∧
      landsAt (served_ wsys who 10 [4, 0, 256, 0]) (callerAsid wsys who) 256 r.length key) ∧
    (∃ key, landsAt (served_ wsys who 4 [4, 0, 0, 0]) (callerAsid wsys who) 0 (buildRecord wker 0 0 (List.replicate 24 0)).length key) ∧
    (CallMade ws who 6 [1] ∧ 0 < 1 ∧ 3 * 65536 < memLimit ∧ feedOk ws (callerAsid ws who) 3 = true) ∧
    (∃ key, CallMade wtts who 7 [5, 0, 7, 10000] ∧ ttsetPasses (served_ wtts who 7 [5, 0, 7, 10000]) who 5 0 10000 key) ∧
    (let s := { ws with tt := [(5, ⟨0, 0, 10000, true, false, 3, 0⟩)] }
     CallMade s who 7 [5, 0, 7, 10000] ∧ (aget TtEnt.empty 5 s.tt).en = true ∧ (aget TtEnt.empty 5 s.tt).asid.toNat ≠ callerAsid s who) ∧
    (CallMade ws who 7 [5, 65536, 7, 10000] ∧ spans (served_ ws who 7 [5, 65536, 7, 10000]) (callerAsid ws who) 65536 256 .read = none) ∧
    (∃ bytes, CallMade wsys who 9 [0, 0] ∧ attestPasses (served_ wsys who 9 [0, 0]) who 0 0 bytes) ∧
    (CallMade ws who 9 [65536, 0] ∧ spans (served_ ws who 9 [65536, 0]) (callerAsid ws who) 65536 32 .read = none) ∧
    (∃ v, CallMade ws who 8 [] ∧ dtpagePasses (served_ ws who 8 []) who 65536 3 [] ⟨[0], [(0, 65536)]⟩ v ∧
      keyOf v (devKey v.self (3 * 65536)) = 0 ∧ v.portFailed (devKey v.self (3 * 65536)) = false ∧ devKey v.self (3 * 65536) < 2 ^ 70) ∧
    (CallMade ws who 8 [] ∧ (ws.asid (callerAsid (served_ ws who 8 []) who)).dtpage = 0) := by
  have core0 (s : State) (n : Nat) (l : List Nat) : CallMade s who n l := ⟨by show 0 < 256; decide, by show 0 < 16; decide⟩
  obtain ⟨u, hu, -⟩ := of_isOk (mapRange ws 0 0 65536 1 0x8010 [3]) (fun _ => true) (by decide +kernel)
  obtain ⟨v, hv, qv⟩ := of_isOk (mapRange (zeroFrame ws 3) 0 0 65536 1 dtAttr [3])
    (fun v => keyOf v (devKey v.self (3 * 65536)) == 0 && !v.portFailed (devKey v.self (3 * 65536)) && decide (devKey v.self (3 * 65536) < 2 ^ 70))
    (by decide +kernel)
  simp only [Bool.and_eq_true, beq_iff_eq, Bool.not_eq_true', decide_eq_true_eq] at qv
  have at0 : entryAt ws 0 0 = some (0x14000, 1 + 2 + 2 ^ 4 + 2 ^ 6 + 2 ^ 7 + 2 ^ 15 + 0x20000, 4) := by decide +kernel
  have big : entryAt wbig 0 0 = some (0x13000, 1 + 2 + 2 ^ 4 + 2 ^ 7 + 2 ^ 15, 3) := by decide +kernel
  obtain ⟨o, ho⟩ := osRead_quiet wtts 0 0 0 256 [(devKey 0 0x20000, 256)] (by decide +kernel) rfl rfl rfl rfl rfl
  obtain ⟨o2, ho2⟩ := osRead_quiet wsys 0 0 0 32 [(devKey 0 0x20000, 32)] (by decide +kernel) rfl rfl rfl rfl rfl
  refine ⟨⟨core0 .., by unfold mapBad; decide, .inl rfl, ?_⟩, ⟨u, core0 .., by unfold tablesReach; decide, by decide, by decide, by unfold mapBad; decide, .inl rfl, hu⟩,
    ⟨core0 .., by unfold unmapWaits; decide +kernel, by unfold unmapBad; decide⟩, ⟨core0 .., by unfold unmapWaits; decide +kernel, ?_⟩,
    ⟨by unfold unmapBad; decide, core0 .., by unfold unmapWaits; decide +kernel, by unfold tablesReach; decide, ?_, _, 0, .head _, at0⟩,
    ⟨_, devKey 0 0x20100, core0 .., ⟨wker, rfl, rfl, rfl, rfl, by decide +kernel⟩, by unfold landsAt; decide +kernel⟩,
    ⟨devKey 0 0x20000, by unfold landsAt; decide +kernel⟩, ⟨core0 .., by decide, by decide, by decide +kernel⟩,
    ⟨devKey 0 0x20042, core0 .., by decide, rfl, by decide, by decide, fun h => absurd h (by decide), _, ho, ?_, ?_⟩,
    ⟨core0 .., by decide, by decide⟩, ⟨core0 .., by decide +kernel⟩, ⟨_, core0 .., _, ho2, rfl, ?_⟩, ⟨core0 .., by decide +kernel⟩,
    ⟨v, core0 .., ⟨rfl, rfl, by decide, by decide, by decide +kernel, hv⟩, qv.1.1, qv.1.2, qv.2⟩, ⟨core0 .., rfl⟩⟩
  · exact of_isErr (mapRange wsys 0 0 0 1 0x10 []) 3 (by decide +kernel)
  · intro h
    exact absurd (h 0 (.head _) _ big).2 (by decide)
  · intro p hp e he
    obtain rfl : p = 0 := by simpa using (show p ∈ [0] from hp)
    obtain rfl := Option.some.inj (at0.symm.trans he)
    decide
  · exact (by decide +kernel : recordCause (newLaunch wtts 0 (setField (osBytes wtts [(devKey 0 0x20000, 256)]) 66 1 (128 + 5)) none 0) 0 true =
      none)
  · exact (by unfold landsAt; decide +kernel : landsAt wtts 0 66 1 (devKey 0 0x20042))
  · intro n hn h
    have e : spans wsys 0 0 n .write = none := h
    rcases Nat.eq_zero_or_pos n with rfl | hp
    · exact nomatch e
    · have q : pagesOf 0 n = [0] := by
        rw [pagesOf, if_neg (by omega), show (0 + n - 1) / 65536 - 0 / 65536 + 1 = 1 by omega]; rfl
      have w : (match translate wsys 0 0 .write 0 with | .ok _ _ _ => true | _ => false) = true := by decide +kernel
      simp only [spans, q, List.foldl_cons, List.foldl_nil, Nat.max_self] at e
      revert w e
      cases translate wsys 0 0 .write 0 <;> simp

/-- A report, and a queue of fault reports that is full and holds one more. -/
def wrep : Report := ⟨0, 0, 0, 0, 0, 0, 0, [], 0⟩
def wfull : State := { ws with repHead := 255, repHeld := [wrep] }

/-- Sixteen 4 KiB pages being invalidated while the group has some loads outstanding. -/
def winval (l : List LoadOp) : State := { wg (fun g => { g with loads := l }) with inval := { ws.inval with work := some ⟨0, 16, 0, false⟩ } }

theorem witness_TablesAndRegistersAreWritten :
    (255 < 256 ∧ ((ws.queue 255).pending = [] ∨ ((ws.queue 255).asid = bits (0 : BitVec 128).toNat 0 8 ∧ (ws.queue 255).cls = bits (0 : BitVec 128).toNat 8 2))) ∧
    (let s := ws.setQueue 255 ⟨0, 0, true, [0]⟩
     (s.queue 255).pending ≠ [] ∧ ((s.queue 255).asid ≠ bits (1 : BitVec 128).toNat 0 8 ∨ (s.queue 255).cls ≠ bits (1 : BitVec 128).toNat 8 2)) ∧
    (63 < 64 ∧ ((BitVec.ofNat 256 (2 ^ 160 + 10000 * 2 ^ 128)).getLsbD 160 = true → 10000 ≤ bits (BitVec.ofNat 256 (2 ^ 160 + 10000 * 2 ^ 128)).toNat 128 32)) ∧
    asidResident ws 255 = false ∧ asidResident ws 0 = true ∧
    feedable ws 1 0xFFFF ∧
    ¬feedable (ws.setAsid 0 { ws.asid 0 with pool := [0] }) 0 0 ∧
    (ws.inval.busy = false ∧ (1 : DWord).getLsbD 0 = true) ∧
    (ws.inval.busy = true ∨ (0 : DWord).getLsbD 0 = false) ∧
    ((winval []).inval.work = some ⟨0, 16, 0, false⟩ ∧ unperformed (winval []) 0 (InvalRange.meets ⟨0, 16, 0, false⟩) = false) ∧
    ((winval [wld]).inval.work = some ⟨0, 16, 0, false⟩ ∧ unperformed (winval [wld]) 0 (InvalRange.meets ⟨0, 16, 0, false⟩) = true) ∧
    ws.inval.work = none ∧
    (let s := { ws with repHead := 3 }
     s.repHeld = [] ∧ (s.repHead - 3).toNat ≤ (s.repHead - s.repTail).toNat) ∧
    (wfull.repHeld = [wrep] ∧ wfull.repHead - wfull.repTail = 255 ∧ wfull.repHead - 1 ≠ 255 ∧
      (wfull.repHead - 1).toNat ≤ (wfull.repHead - wfull.repTail).toNat) ∧
    (ws.repHead - ws.repTail).toNat < (ws.repHead - 1).toNat ∧
    (16 < 17 ∧ 143 < 144) := by
  refine ⟨by decide +kernel, by decide +kernel, by decide +kernel, rfl, rfl, ⟨?_, .inl rfl⟩, ?_, by decide, by decide, by decide +kernel,
    by decide +kernel, rfl, by decide +kernel, by decide +kernel, by decide +kernel, by decide⟩
  · intro a ha
    obtain rfl : a = (0, { Asid.empty with en := true, root := 0x10 }) := by simpa using (show a ∈ [(0, { Asid.empty with en := true, root := 0x10 })] from ha)
    exact List.not_mem_nil
  · rintro ⟨h, -⟩; exact h (0, _) (.head _) (.head _)

/-- Frame 2 owned by key 5 of context 0. -/
def wkey : State := { ws with shallot := { ws.shallot with owner := [(2, 5)], keys := [(5, 0)] } }

/-- A copy has claimed the line at 0x20000. -/
def wclaim : State := { ws with copies := [(0, { Copy.empty with claim := some (here ws 0x20000 / 128, []) })] }

theorem witness_StewardAccessesKeysAndBundles :
    (0x30000000000 < 2 ^ 48 ∧ memAt 0x30000000000 8 = false) ∧
    keyedAt wkey 0 0x20000 8 ∧ plainAt ws 15 0x20000 8 ∧
    (plainAt ws 0 0x20008 8 ∧ here ws 0x20008 + 8 ≤ 2 ^ 70 ∧ ws.ord = Ord.empty) ∧
    (2 ^ 48 ≤ 2 ^ 48 + 0xFF0 ∧ (regLoad ws (2 ^ 48 + 0xFF0) 8).isSome = true) ∧
    (2 ^ 48 ≤ 2 ^ 48 + 0x100478 ∧ (2 ^ 48 + 0x100478) % 8 + 8 ≤ 8 ∧ (regAt (2 ^ 48 + 0x100478 - 2 ^ 48)).isSome = true) ∧
    (2 ^ 48 ≤ 2 ^ 48 + 0x100480 ∧ regAt (2 ^ 48 + 0x100480 - 2 ^ 48) = none) ∧
    (memAt 0x20000 8 = true ∧ (ws.steward 0).resv ≠ some (0x20000, [0, 0, 0, 0, 0, 0, 0, (0 : Byte)].length, lastWrite ws (here ws 0x20000))) ∧
    (let s := ws.setSteward 0 ⟨some (0x20000, 4, none), 0⟩
     4 % 2 = 0 ∧ plainAt s 0 0x20000 4 ∧ here s 0x20000 < 2 ^ 70 ∧ (s.steward 0).resv = some (0x20000, 4, lastWrite s (here s 0x20000))) ∧
    (1 ≤ 63 ∧ 63 ≤ 63 ∧ 255 < 256 ∧ 15 < 16 ∧ 10 < 11) ∧
    (reaches (.lr 0x20000 8 true false) 0x20000 8 ∧ memAt 0x20000 8 = true ∧ stewWaits wclaim 0 (here wclaim 0x20000) 8 = true) ∧
    (2 * 65536 < memLimit ∧ aget 0 2 wkey.shallot.owner ≠ 0 ∧ rising wkey.shallot.owner = true) :=
  ⟨by decide +kernel, ⟨by decide, by decide +kernel, by decide +kernel, by decide +kernel⟩, ⟨by decide, by decide +kernel, by decide +kernel, by decide +kernel, by decide +kernel⟩,
    ⟨⟨by decide, by decide +kernel, by decide +kernel, by decide +kernel, by decide +kernel⟩, by decide +kernel, rfl⟩, by decide +kernel, by decide +kernel,
    by decide +kernel, ⟨by decide +kernel, by decide +kernel⟩,
    ⟨rfl, ⟨by decide, by decide +kernel, by decide +kernel, by decide +kernel, by decide +kernel⟩, by decide +kernel, by decide +kernel⟩, by decide,
    ⟨.inr (.inr (.inl ⟨true, false, rfl⟩)), by decide +kernel, by decide +kernel⟩, by decide +kernel⟩

/-- Boot images that pass and fail, and what the boot finds. -/
def wimg (ok : Bool) : FlashImage := ⟨ok, ok, 1, 5, [1, 2]⟩
def wflash (sh os : Bool) : FlashState := ⟨wimg false, wimg sh, wimg os, wimg false, 1, 143, 0x1000, 0x100000, []⟩

/-- A bundle with a control program of one byte, and a kernel "k" with an errata section. -/
def wctl (addr : Nat) : Section := ⟨nameBytes ".text", 1, 6, addr, 1, 1, [7]⟩
def wkernel (errata : List Byte) : List Section :=
  [⟨nameBytes ".geari.marrow.k", 1, 6, 0x10000, 4096, 4, [0, 0, 0, 0]⟩, ⟨nameBytes ".geari.launch.k", 1, 2, 0x20000, 256, 256, launchRec⟩,
    ⟨nameBytes ".geari.errata.k", 1, 0, 0, 1, errata.length, errata⟩]
def wbundle (l : List Section) : Bundle := ⟨elfFile l, []⟩

/-- What reading gives of the bundle with that kernel and program (R33, R342). -/
theorem test_bundle_read : readBundle (wbundle (wctl 0x30000 :: wkernel (natLe 4 1 ++ natLe 4 1 ++ natLe 4 9))).file =
    some ([⟨nameBytes "k", launchRec, [], natLe 4 1 ++ natLe 4 1 ++ natLe 4 9, [0, 0, 0, 0], [], 0x10000, 0⟩],
      [⟨0x30000, 0x80D0, [7]⟩]) := by decide +kernel
/-- No file; errata of level 2, and a section that counts an id it does not hold; a program past 2^57 and one that is not. -/
theorem witness_bundles : readBundle [] = none ∧
    bundleCause ws 0 (wbundle (wkernel (natLe 4 2 ++ natLe 4 0))) = some "level" ∧
    bundleCause ws 0 (wbundle (wkernel (natLe 4 1 ++ natLe 4 1))) = some "ELF" ∧
    (let b := wbundle (wctl (2 ^ 57) :: wkernel (natLe 4 1 ++ natLe 4 0))
     (∃ x ∈ loadedOf b, 2 ^ 57 < x.addr + x.bytes.length) ∧ bundleCause ws 0 b = none) ∧
    (let b := wbundle (wctl (2 ^ 57 - 1) :: wkernel (natLe 4 1 ++ natLe 4 0))
     (∀ x ∈ loadedOf b, x.addr + x.bytes.length ≤ 2 ^ 57) ∧ bundleCause ws 0 b = none) := by decide +kernel
/-- The Devicetree is a blob of version 17 whose size its header gives, in less than 64 KiB (R341). -/
theorem test_devicetree : let b := devicetree State.reset
    b.take 4 = [0xD0, 0x0D, 0xFE, 0xED] ∧ leNat ((b.drop 4).take 4).reverse = b.length ∧ (b.drop 20).take 4 = [0, 0, 0, 17] ∧
      b.length < 65536 := by decide +kernel

theorem witness_BootPowerCoolingAndTime :
    (ws.mod.state < 2 ∧ bootSlot (wflash false true).shallotA (wflash false true).shallotB 1 = none) ∧
    (ws.mod.state < 2 ∧ bootSlot (wflash true false).shallotA (wflash true false).shallotB 1 = some (wimg true) ∧
      bootSlot (wflash true false).osA (wflash true false).osB 1 = none) ∧
    (ws.mod.state < 2 ∧ bootSlot (wflash true true).shallotA (wflash true true).shallotB 1 = some (wimg true) ∧
      bootSlot (wflash true true).osA (wflash true true).osB 1 = some (wimg true)) ∧
    (2 ≤ won.mod.state ∧ (wflash true true).index ≤ 143) ∧
    (let s := { State.reset with mod := { Module.reset with state := 2, idleReq := true } }
     s.mod.idleReq = true ∧ s.mod.state = 2 ∧ ∀ x ∈ s.teams, x.2.resident = false) ∧
    (won.mod.idleReq = false ∨ won.mod.state ≠ 2 ∨ ∃ x ∈ won.teams, x.2.resident = true) ∧
    ws.mod.plim.toNat < 3601 ∧ 3600 ≤ ws.mod.plim.toNat ∧ (4 < 5 ∧ 95 < 96 ∧ 95 < 104 ∧ 104 < 105 ∧ 105 ≤ 105 ∧ 95 ≤ 95 ∧ 5 ≤ 5) ∧
    (∃ h ∈ ({ ws with mod := { ws.mod with hot := [(1, 97)] } } : State).mod.hot, h.1 ≠ 0) ∧
    (let s := { won with mod := { won.mod with lowFlow := some 0 }, time := 1000000000 }
     s.mod.lowFlow = some 0 ∧ 0 + 1000000000 ≤ s.time) ∧
    (∀ t0, ({ won with mod := { won.mod with lowFlow := some 1 }, time := 1000000000 } : State).mod.lowFlow = some t0 → 1000000000 < t0 + 1000000000) ∧
    won.mod.lowFlow = none ∧
    (let s := { State.reset with inputs := [.tick 5 [7]], slewRem := 1995, slew := 3 }
     s.cur = none ∧ s.inputs = .tick 5 [7] :: [] ∧ s.mod.state ≠ 0 ∧ s.slewRem < 2000 ∧ 2000 ≤ s.slewRem + 5 ∧ s.slew ≠ 0) := by
  refine ⟨by decide, by decide, by decide, by decide, by decide, by decide, by decide, by decide, by decide, by decide, by decide, ?_, rfl, by decide⟩
  rintro t0 h
  obtain rfl : 1 = t0 := Option.some.inj h
  decide

/-- `passesWord` as a Bool, of group 1, fragment 0. -/
def passB (s : State) (i : Instr) : Bool :=
  roleAllows (s.kindOf (s.grp 1)) (describe s i).op && !litMisuse (describe s i) (modeType ((describe s i).mode (s.grp 1))) &&
    (describe s i).wf && (usesOf s 1 i).all (fun u => !u.odd && !u.past && (u.file != 0 || u.num + u.n ≤ (s.grp 1).allot)) &&
    (describe s i).immOk (ctxOf s 1 0 i).imm

theorem passes_of (s : State) (i : Instr) (h : passB s i = true) : passesWord s 1 0 i := by
  simp only [passB, Bool.and_eq_true, Bool.not_eq_true', List.all_eq_true, Bool.or_eq_true, bne_iff_ne, decide_eq_true_eq] at h
  obtain ⟨⟨⟨⟨h1, h2⟩, h3⟩, h4⟩, h5⟩ := h
  refine ⟨h1, h2, ?_, ?_⟩
  · rintro (h | ⟨u, hu, h | h⟩ | h)
    · simp [h3] at h
    · simp [(h4 u hu).1.1] at h
    · simp [(h4 u hu).1.2] at h
    · simp [h5] at h
  · rintro ⟨u, hu, h, k⟩
    rcases (h4 u hu).2 with g | g
    · exact g h
    · omega

theorem fine_of (s : State) (i : Instr) (h : ((describe s i).wf && (usesOf s 1 i).all (fun u => !u.odd && !u.past) &&
    (describe s i).immOk (ctxOf s 1 0 i).imm) = true) : ¬reservedField s 1 0 i := by
  simp only [Bool.and_eq_true, Bool.not_eq_true', List.all_eq_true] at h
  obtain ⟨⟨h3, h4⟩, h5⟩ := h
  rintro (h | ⟨u, hu, h | h⟩ | h)
  · simp [h3] at h
  · simp [(h4 u hu).1] at h
  · simp [(h4 u hu).2] at h
  · simp [h5] at h

/-- Each fault in its turn: a lane instruction in a copy role, a literal of more than 32 bits, an odd pair, a register past its file, a
reserved condition, a register outside the allotment, a MODE no rule allows, a type IADDC does not take, a pending register, poison in
an active lane (one that was there, one that an interlocked SFU result brings), and a matrix opcode; and further words that could not
be fetched, with a type that is taken and one that is not. -/
theorem witness_IssueChecksFaultInOrder :
    (isGeneral (.iadd 1 2 3) = true ∧ wc.cur = some (.frag 1 0) ∧ (afind 0 (wc.grp 1).frags).isSome = true ∧
      roleAllows (wc.kindOf (wc.grp 1)) (describe wc (.iadd 1 2 3)).op = false) ∧
    (let i := Instr.iaddiRadish 0 1 2 ⟨0, some 0x8000_0000⟩
     isGeneral i = true ∧ litMisuse (describe ws i) (modeType ((describe ws i).mode (ws.grp 1))) = true) ∧
    (reservedField (wmode 0x60) 1 0 (.iadd 3 2 4) ∧ reservedField (wmode 0) 1 0 (.icmp 6 5 1 2)) ∧
    (let s := wg fun g => { g with mode := 0, allot := 8 }
     outsideAllot s 1 (.iadd 8 2 3) ∧ ¬reservedField s 1 0 (.iadd 8 2 3)) ∧
    (passesWord ws 1 0 (.iaddRadish 0x1FFF 1 2 3) ∧ modeLegal ((describe ws (.iaddRadish 0x1FFF 1 2 3)).mode (ws.grp 1)) = false) ∧
    (let s := wg fun g => { g with mode := 0, late := some (5, 1, 0x2000, 0xFFFFFFFF) }
     passesWord s 1 0 (.iadd 1 2 3) ∧ (s.grp 1).late = some (5, 1, 0x2000, 0xFFFFFFFF) ∧
      (describe s (.iadd 1 2 3)).types (ctxOf s 1 0 (.iadd 1 2 3)).imm (modeType ((describe s (.iadd 1 2 3)).mode (s.grp 1))) = true) ∧
    (let s := wg fun g => { g with late := some (5, 1, 0x2000, 0xFFFFFFFF) }
     passesWord s 1 0 (.iadd 1 2 3) ∧ (s.grp 1).late ≠ none ∧
      (describe s (.iadd 1 2 3)).types (ctxOf s 1 0 (.iadd 1 2 3)).imm (modeType ((describe s (.iadd 1 2 3)).mode (s.grp 1))) = false) ∧
    (passesWord ws 1 0 (.iadd 1 2 3) ∧ (ws.grp 1).late = none ∧
      (describe ws (.iadd 1 2 3)).types (ctxOf ws 1 0 (.iadd 1 2 3)).imm (modeType ((describe ws (.iadd 1 2 3)).mode (ws.grp 1))) = false) ∧
    (let s := wg fun g => { g with mode := 0, pend := [(0, 2)] }
     passesWord s 1 0 (.iadd 1 2 3) ∧ (s.grp 1).late = none ∧
      (describe s (.iadd 1 2 3)).types (ctxOf s 1 0 (.iadd 1 2 3)).imm (modeType ((describe s (.iadd 1 2 3)).mode (s.grp 1))) = true ∧
      (∃ p, names s 1 (.iadd 1 2 3) p ∧ (s.grp 1).isPend p.1 p.2 = true)) ∧
    (let s := wg fun g => { g with mode := 0, vpois := [(2, 0x80000000)] }
     passesWord s 1 0 (.iadd 1 2 3) ∧ (s.grp 1).late = none ∧
      (∀ p, names s 1 (.iadd 1 2 3) p → (s.grp 1).isPend p.1 p.2 = false) ∧
      poisonedUse ((s.grp 1).interlock (usesOf s 1 (.iadd 1 2 3))) (usesOf s 1 (.iadd 1 2 3)) (ctxOf s 1 0 (.iadd 1 2 3)).act = true) ∧
    (let s := wg fun g => { g with mode := 0, vpois := [(2, 0x80000000)], sfu := [⟨2, 0x80000000, List.replicate 32 7, none⟩] }
     poisonedUse ((s.grp 1).interlock (usesOf s 1 (.iadd 1 2 3))) (usesOf s 1 (.iadd 1 2 3)) (ctxOf s 1 0 (.iadd 1 2 3)).act = false) ∧
    (∃ w r, encodeWords (.mma64x64x64 1 false 2 3) = w :: r ∧ isMatrixOp (opcodeOf w) = true ∧ isRadishForm (.mma64x64x64 1 false 2 3) = false) :=
  ⟨by decide +kernel, by decide +kernel, ⟨.inr (.inl ⟨⟨0, 3, 2, false⟩, by decide +kernel, .inl (by decide +kernel)⟩), .inl (by decide +kernel)⟩,
    ⟨⟨⟨0, 8, 1, false⟩, by decide +kernel, rfl, by decide +kernel⟩, fine_of _ _ (by decide +kernel)⟩,
    ⟨passes_of _ _ (by decide +kernel), by decide +kernel⟩, ⟨passes_of _ _ (by decide +kernel), rfl, by decide +kernel⟩,
    ⟨passes_of _ _ (by decide +kernel), nofun, by decide +kernel⟩, ⟨passes_of _ _ (by decide +kernel), rfl, by decide +kernel⟩,
    ⟨passes_of _ _ (by decide +kernel), rfl, by decide +kernel, (0, 2), ⟨⟨0, 2, 1, true⟩, by decide +kernel, rfl, .head _⟩, by decide +kernel⟩,
    ⟨passes_of _ _ (by decide +kernel), rfl, fun p _ => rfl, by decide +kernel⟩, by decide +kernel,
    ⟨_, _, rfl, by decide +kernel, rfl⟩⟩

/-- What a fetch gives, as an option. -/
def okWords (r : Except FaultInfo (List Word)) : Option (List Word) := match r with | .ok l => some l | .error _ => none
/-- A fetch of n words at an address that no page maps. -/
def badFetch (r : Except FaultInfo (List Word)) : Bool := match r with | .ok _ => false | .error _ => true
theorem of_badFetch (r : Except FaultInfo (List Word)) (h : badFetch r = true) : ∃ e, r = .error e := by
  cases r <;> simp_all [badFetch]
theorem of_okWords (r : Except FaultInfo (List Word)) (l : List Word) (h : okWords r = some l) : r = .ok l := by
  cases r <;> simp_all [okWords]

/-- IADD fetched by a group in its place, MMA.64x64x64 and LIT by a stream; a word that no opcode lists; two words of Radish; a PC that
no page maps; and with no agent running an event, a write of the host, and its read and writes at BAR0. -/
def wrad : State := wt (wwords ws 0 [0x02000000, 0x30010203]) fun t => { t with core := 3 }
def wevent (i : Input) : State := { State.reset with inputs := [i] }
/-- The same in another power state, after the boot. -/
def wstate (n : Nat) (i : Input) : State := { wevent i with mod := { State.reset.mod with state := n, bootStep := 5 } }

theorem witness_StepRunsWhatItFetches :
    (∀ w, w = 0x30010203 ∨ w = 0x26000000 → let s := wwords ws 0 [w]
     s.cur = some (.frag 1 0) ∧ afind 0 (s.grp 1).frags = some ((s.grp 1).frag 0) ∧ s.radOf (s.grp 1) = false ∧
      finds s (s.fragFetcher 1 0 ((s.grp 1).frag 0)) 1 [w]) ∧
    listedOp false (opcodeOf 0x26000000#32) = false ∧
    (let s := wwords ws 0 [0x30010203]
     let x := s.fragFetcher 1 0 ((s.grp 1).frag 0)
     roleAllows (s.kindOf (s.grp 1)) (opcodeOf 0x30010203#32) = true ∧ listedOp false (opcodeOf 0x30010203#32) = true ∧
      fetchWords (s.noteFetch x) (fetchAgent 1) (s.placeOf 1) (s.asidOf (s.grp 1)) (((s.grp 1).frag 0).pc + 4) (marrowExtra 0x30010203#32) = .ok [] ∧
      decodeMarrow 0x30010203#32 [] = .ok (.iadd 1 2 3)) ∧
    (let s := wrad
     let x := s.fragFetcher 1 0 ((s.grp 1).frag 0)
     s.cur = some (.frag 1 0) ∧ afind 0 (s.grp 1).frags = some ((s.grp 1).frag 0) ∧ s.radOf (s.grp 1) = true ∧
      finds s x 2 [0x02000000, 0x30010203] ∧ listedOp true (opcodeOf 0x30010203#32) = true ∧
      roleAllows (s.kindOf (s.grp 1)) (opcodeOf 0x30010203#32) = true ∧
      fetchWords (s.noteFetch x) (fetchAgent 1) (s.placeOf 1) (s.asidOf (s.grp 1)) (((s.grp 1).frag 0).pc + 8)
        (2 * radishExtra (0x30010203#32 ++ 0x02000000#32)) = .ok [] ∧
      decodeRadish (0x30010203#32 ++ 0x02000000#32) (pairUp []) = .ok (.iaddRadish 0x20 1 2 3)) ∧
    (∃ w i, let s := wwords wx 0 [w]
     s.cur = some (.stream 0) ∧ (s.str 0).live = true ∧ finds s (s.streamFetcher 0) 1 [w] ∧ listedOp false (opcodeOf w) = true ∧
      streamAllows (opcodeOf w) = true ∧ opcodeOf w ≠ 0xFF ∧
      fetchWords (s.noteFetch (s.streamFetcher 0)) (streamFetch 0) (s.streamPlace 0) (s.launch (s.team 0).launch).asid ((s.str 0).pc + 4)
        (marrowExtra w) = .ok [] ∧ decodeMarrow w [] = .ok i) ∧
    (let s := wwords wx 0 [0xFF000000]
     s.cur = some (.stream 0) ∧ (s.str 0).live = true ∧ finds s (s.streamFetcher 0) 1 [0xFF000000] ∧ opcodeOf 0xFF000000#32 = 0xFF) ∧
    (let s := wg fun g => { g with frags := [(0, { g.frag 0 with pc := 0x7000000000 })] }
     s.cur = some (.frag 1 0) ∧ afind 0 (s.grp 1).frags = some ((s.grp 1).frag 0) ∧ ((s.grp 1).frag 0).pc = 0x7000000000 ∧
     ∃ e, fetchWords s (fetchAgent 1) (s.placeOf 1) (s.asidOf (s.grp 1)) ((s.grp 1).frag 0).pc
      (if s.radOf (s.grp 1) = true then 2 else 1) = .error e) ∧
    (let s := wx.setStr 0 { wx.str 0 with pc := 0x7000000000 }
     s.cur = some (.stream 0) ∧ (s.str 0).live = true ∧ (s.str 0).pc = 0x7000000000 ∧
     ∃ e, fetchWords s (streamFetch 0) (s.streamPlace 0) (s.launch (s.team 0).launch).asid (s.str 0).pc 1 = .error e) ∧
    ((wevent (.barRead 3 0 4)).cur = none ∧ (wevent (.barRead 3 0 4)).inputs = .barRead 3 0 4 :: [] ∧ (wevent (.barRead 3 0 4)).mod.state ≠ 0) ∧
    ((wevent (.barWrite 3 32 [1])).cur = none ∧ (wevent (.barWrite 3 32 [1])).inputs = .barWrite 3 32 [1] :: []) ∧
    ((wevent (.barWrite 3 8 [1])).cur = none ∧ (wevent (.barWrite 3 8 [1])).inputs = .barWrite 3 8 [1] :: [] ∧
      (wevent (.barWrite 3 8 [1])).mod.state ≠ 0) ∧
    ((wevent (.ev .mainSupplyOff)).cur = none ∧ (wevent (.ev .mainSupplyOff)).inputs = .ev .mainSupplyOff :: [] ∧
      (wevent (.ev .mainSupplyOff)).mod.state = 1 ∧ bySteward .mainSupplyOff = false) ∧
    (let i := Instr.idleRequest true
     (wstate 2 (.ev i)).cur = none ∧ (wstate 2 (.ev i)).inputs = .ev i :: [] ∧ (wstate 2 (.ev i)).mod.state ≠ 0 ∧
      5 ≤ (wstate 2 (.ev i)).mod.bootStep ∧
      (wevent (.ev i)).cur = none ∧ (wevent (.ev i)).inputs = .ev i :: [] ∧ (wevent (.ev i)).mod.bootStep < 5 ∧ bySteward i = true) ∧
    (let x := Input.tick 5 [7]
     (wstate 0 x).cur = none ∧ (wstate 0 x).inputs = x :: [] ∧ (wstate 0 x).mod.state = 0 ∧
      (∀ fl, x ≠ .ev (.mainSupplyOn fl)) ∧ ∀ a bs, x ≠ .host a bs) ∧
    ((wevent (.host 5 [1, 2])).cur = none ∧ (wevent (.host 5 [1, 2])).inputs = .host 5 [1, 2] :: []) ∧
    (State.reset.cur = none ∧ State.reset.inputs = []) := by
  refine ⟨?_, by decide, ⟨by decide +kernel, by decide +kernel, rfl, rfl⟩,
    ⟨rfl, rfl, rfl, of_okWords _ _ (by decide +kernel), by decide, by decide +kernel, rfl, rfl⟩,
    ⟨0x00000000, .nop, rfl, rfl, of_okWords _ _ (by decide +kernel), by decide, by decide, by decide, rfl, rfl⟩,
    ⟨rfl, rfl, of_okWords _ _ (by decide +kernel), by decide⟩, ⟨rfl, rfl, rfl, of_badFetch _ (by decide +kernel)⟩,
    ⟨rfl, rfl, rfl, of_badFetch _ (by decide +kernel)⟩, ⟨rfl, rfl, by decide⟩, ⟨rfl, rfl⟩, ⟨rfl, rfl, by decide⟩, ⟨rfl, rfl, rfl, rfl⟩,
    ⟨rfl, rfl, by decide, by decide, rfl, rfl, by decide, rfl⟩, ⟨rfl, rfl, rfl, nofun, nofun⟩, ⟨rfl, rfl⟩, rfl, rfl⟩
  rintro w (rfl | rfl)
  · exact ⟨rfl, rfl, rfl, of_okWords _ _ (by decide +kernel)⟩
  · exact ⟨rfl, rfl, rfl, of_okWords _ _ (by decide +kernel)⟩

theorem witness_DecodingReadsBackEveryEncoding :
    (WellFormed (.bfi 1 2 3) = true ∧ encodeWords (.bfi 1 2 3) ≠ [] ∧ isRadishForm (.bfi 1 2 3) = false) ∧
    (WellFormed (.bfiRadish 0x1234 1 2 3) = true ∧ encodeWords (.bfiRadish 0x1234 1 2 3) ≠ [] ∧ isRadishForm (.bfiRadish 0x1234 1 2 3) = true) := by
  decide +kernel

theorem witness_EveryStepKeepsMemoryCanonical : MemInv ws ∧ ∃ t, Machine.step ws = .next t := by
  refine ⟨by unfold MemInv; decide +kernel, ?_⟩
  have h : (match Machine.step ws with | .next _ => true | _ => false) = true := by decide +kernel
  split at h
  · exact ⟨_, by assumption⟩
  · simp at h

/-- A step that stops: a steward core loads from an address past memory. -/
theorem witness_OnlyMissingMemoryStopsAStep :
    Machine.step (wstate 2 (.ev (.stewardCoreAccess 0 (.load 0x30000000000 8) 0))) = .fault (.noMemory 0x30000000000) := by rfl

/-! ### jallas: the manual's own fragments -/

/-- A vector role of one group that holds the lines. -/
def asmKernel (ls : List String) : List Char :=
  (".kernel k\n.role main, vector, 1\n.regs 16\n" ++ String.intercalate "\n" ls ++ "\n.end").toList

/-- The Marrow and Radish words of the lines, or the line that jallas rejects. -/
def asmWords (ls : List String) : Except Nat (List (BitVec 32) × Option (List (BitVec 64))) :=
  match Asm.jallas (asmKernel ls) with
  | .ok [o] => .ok (o.marrow, o.radish)
  | .ok _ => .error 0
  | .error e => .error e.line

/-- The verbose lines that jallas writes for the lines, after .role and .regs. -/
def asmVerbose (ls : List String) : Option (List String) :=
  match Asm.jallas (asmKernel ls) with
  | .ok [o] => o.verbose.map fun t => (t.drop 2).map String.ofList
  | _ => none

/-- Chapter 04's fragment, compact. -/
def frag04 : List String :=
  ["mark done", "ld.acquire v5, [s8:9 + v2 + 0x40]", "waitc 0, 63, 15, 15     ; loads <= 0 before v5 is read", "brd.hdiv p1, done",
   "fadd v5, v5, v5", "done:   join"]

theorem test_jallas_fragment04 : (asmWords frag04).toOption = some
    ([0x09000007, 0xFF000000, 0x00000040, 0xA005028C, 0x1003FFF0, 0x05C80002, 0x60050505, 0x0A000000],
     some [0x0900000702000005, 0xA005028C02000040, 0x1003FFF002000000, 0x05C8000202060002, 0x6005050502000000, 0x0A00000002000000]) := by
  decide +kernel

/-- Chapter 02's fragment, compact (Table 6). -/
def frag02 : List String :=
  ["setm 0x0000_0020", "fadd v3, v1, v2", "fmul.rtz v4, v3, v3", "setm 0x0000_0002", "iaddi v5, v5, 17", "iaddi v6, v6, 300"]

theorem test_jallas_fragment02 : (asmWords frag02).toOption = some
    ([0x01000020, 0x60030102, 0x01000120, 0x62040303, 0x01000002, 0x4F050511, 0xFF000000, 0x0000012C, 0x4F060600],
     some [0x6003010202000000, 0x6204030302200000, 0x4F05051140000011, 0x4F0606004000012C]) := by decide +kernel

theorem test_jallas_fragment02_to_verbose : asmVerbose frag02 = some
    ["FADD.F32.RNE.NOSAT.NOFTZ (P0) V3, V1, V2", "FMUL.F32.RTZ.NOSAT.NOFTZ (P0) V4, V3, V3", "IADDI.S32.RNE.NOSAT (P2) V5, V5, 17",
     "IADDI.S32.NOSAT (P2) V6, V6, 300"] := by decide +kernel

theorem test_jallas_fragment02_from_verbose : ((asmWords
    ["FADD.F32.RNE.NOSAT.NOFTZ (P0) V3, V1, V2", "FMUL.F32.RTZ.NOSAT.NOFTZ (P0) V4, V3, V3", "IADDI.S32.RNE.NOSAT (P2) V5, V5, 17",
     "IADDI.S32.NOSAT (P2) V6, V6, 300"]).toOption.map (·.1)) =
    some [0x60030102, 0x01000120, 0x62040303, 0x01000002, 0x4F050511, 0xFF000000, 0x0000012C, 0x4F060600] := by decide +kernel

/-- Words of chapter 14 and of R186. -/
theorem test_jallas_store : (Asm.readIns false "st.system.release".toList "v3, [s10:11 + v12]".toList).toOption.map
    (fun r => r.ins.op * 2 ^ 24 + r.ins.pay) = some 0xA1030CB5 := by decide +kernel

theorem test_jallas_matrix : (Asm.readIns true "mma.128.128.64".toList "z8, x2, m5, reuse".toList).toOption.map
    (fun r => r.ins.op * 2 ^ 24 + r.ins.pay) = some 0xE2080A05 := by decide +kernel

/-- R104's table of point 2: v3 and v40:41 in place, v200 in slot 0, under an allotment of 64. -/
theorem test_jallas_table : (Asm.place 64 [(3, false), (40, true), (200, false)]).1.map Asm.entryWord = [0x00300300, 0x02802801, 0x0C880000] ∧
    (Asm.place 64 [(3, false), (40, true), (200, false)]).2 = 1 := by decide +kernel

/-- The chapter on arithmetic results: .float 0.1. -/
theorem test_jallas_float : Asm.floatBits "0.1".toList = some 0x3DCCCCCD := by decide +kernel

theorem test_jallas_mixed_case_rejected : (Asm.readIns false "fadd".toList "V1, v2, v3".toList).toOption = none := by decide +kernel
theorem test_jallas_unknown_mode_rejected : (asmWords ["call s2:3, f", "fadd v1, v2, v3", "f: exit"]) = .error 5 := by decide +kernel
theorem test_jallas_mode_differs_rejected : (asmWords [".mode 0", "nop"]) = .error 5 := by decide +kernel
theorem test_jallas_verbose_setm_rejected : (Asm.readIns false "SETM".toList "0".toList).toOption = none := by decide +kernel
theorem test_jallas_team_rejected : (asmWords [".team 2", "exit"]) = .error 6 := by decide +kernel
/-- R24, R17: a .word with no operand, and a blank between a sign and its digits. -/
theorem test_jallas_no_operand_rejected : (asmWords [".word", "exit"]).toOption = none := by decide +kernel
theorem test_jallas_split_number_rejected : Asm.floatBits "- 1.5".toList = none ∧ Asm.floatBits "-1.5".toList = some 0xBFC00000 := by decide +kernel
/-- R23, R27: after setms a value of 64 bits takes two literal words. -/
theorem test_jallas_wide_after_setms : ((asmWords ["setms s4", "iaddi v2, v2, 0x1_0000_0000", "exit"]).toOption.map (·.1)) =
    some [0x02000004, 0xFF000001, 0, 1, 0x4F020200, 0x1B000000] := by decide +kernel

/-! ### One step on small states, with results from the rules' own numbers -/

/-- Lane 0 of v1 after an instruction, under a MODE, with lane 0 of v2 and v3 set. -/
def lane0 (m : Word) (a b : Word) (i : Instr) : Option Word :=
  match exec i (wg fun g => { g with mode := m, v := [(2, [a]), (3, [b])] }) with
  | .next t => some (((aget [] 1 (t.grp 1).v)).headD 0)
  | _ => none

theorem test_iadd_wraps : lane0 0 0x7FFFFFFF 1 (.iadd 1 2 3) = some 0x80000000 := by decide +kernel
theorem test_iadd_saturates : lane0 0x800 0x7FFFFFFF 1 (.iadd 1 2 3) = some 0x7FFFFFFF := by decide +kernel
theorem test_idiv_truncates : lane0 0 (-7) 2 (.idiv 1 2 3) = some (-3) := by decide +kernel
theorem test_irem_takes_dividend_sign : lane0 0 (-7) 2 (.irem 1 2 3) = some (-1) := by decide +kernel
theorem test_shr_past_width : lane0 0 0x80000000 33 (.shr 1 2 3) = some 0 := by decide +kernel
theorem test_clz_of_zero : lane0 0 0 0 (.clz 1 2) = some 32 := by decide +kernel
theorem test_fadd_one_one : lane0 0x20 0x3F800000 0x3F800000 (.fadd 1 2 3) = some 0x40000000 := by decide +kernel
theorem test_fadd_inf_minus_inf : lane0 0x20 0x7F800000 0xFF800000 (.fadd 1 2 3) = some 0x7FC00000 := by decide +kernel

end Sys2Proof.Tests.Slice0
end

/-! The predicate stack and the execution mask (R51, R92, R93): what each meaning does in each of its cases, then what each
instruction does in both encodings. -/
namespace Sys2Proof.Machine

/-! ### The words of the instructions (R92, R93) -/

theorem encodeWords_ppush (p : BitVec 3) : encodeWords (.ppush p) = [0x0B#8 ++ 0#21 ++ p] := rfl
theorem encodeWords_pinv : encodeWords .pinv = [0x0C000000] := rfl
theorem encodeWords_ppop : encodeWords .ppop = [0x0D000000] := rfl
theorem encodeWords_emrd (k : SReg) : encodeWords (.emrd k) = [0x0E#8 ++ 0#18 ++ k] := rfl
theorem encodeWords_emwr (k : SReg) : encodeWords (.emwr k) = [0x0F#8 ++ 0#18 ++ k] := rfl

/-! ### The effects on the group -/

/-- PPUSH saves EM on the stack and narrows it by a predicate register. -/
def pushMask (p : BitVec 3) (c : Ctx) (g : Group) : Group :=
  g.setFrag c.fid { fragOf c g with stack := (fragOf c g).em :: (fragOf c g).stack, em := (fragOf c g).em &&& g.preg p.toNat }

/-- PINV turns EM to the other lanes of the top of the stack. -/
def invertMask (c : Ctx) (g : Group) : Group :=
  g.setFrag c.fid { fragOf c g with em := (fragOf c g).stack.headD 0 &&& ~~~(fragOf c g).em }

/-- PPOP takes EM back from the top of the stack. -/
def popMask (c : Ctx) (g : Group) : Group :=
  g.setFrag c.fid { fragOf c g with em := (fragOf c g).stack.headD 0, stack := (fragOf c g).stack.tail }

/-- EMWR sets EM to a scalar register. -/
def writeMask (k : SReg) (c : Ctx) (g : Group) : Group := g.setFrag c.fid { fragOf c g with em := g.sreg k.toNat }

/-- The value of a scalar register has no bit outside the fragment's lane set (R93). -/
def WithinLaneSet (k : SReg) (c : Ctx) (g : Group) : Prop :=
  g.sreg k.toNat &&& ~~~(fragOf c g).laneSet = 0

/-! ### The meanings, case by case -/

section Meanings
variable {c : Ctx} {s : State}

theorem ppushB_of_room {p : BitVec 3} (h : (fragOf c (s.grp c.gid)).stack.length < 8) :
    ppushB p c s = .done (onGrp s c (pushMask p c)) := if_neg (Nat.not_le.mpr h)

theorem ppushB_of_full {p : BitVec 3} (h : 8 ≤ (fragOf c (s.grp c.gid)).stack.length) :
    ppushB p c s = .fault s (flt 11 0) := if_pos h

theorem pinvB_of_saved (h : (fragOf c (s.grp c.gid)).stack ≠ []) : pinvB c s = .done (onGrp s c (invertMask c)) := by
  obtain ⟨t, r, hst⟩ := List.exists_cons_of_ne_nil h
  have hst' : ((s.grp c.gid).frag c.fid).stack = t :: r := hst
  simp only [pinvB, hst', onGrp, modGrp_eq, invertMask, fragOf, List.headD_cons]

theorem pinvB_of_empty (h : (fragOf c (s.grp c.gid)).stack = []) : pinvB c s = .fault s (flt 11 1) := by
  have hst : ((s.grp c.gid).frag c.fid).stack = [] := h
  simp only [pinvB, hst]

theorem ppopB_of_saved (h : (fragOf c (s.grp c.gid)).stack ≠ []) : ppopB c s = .done (onGrp s c (popMask c)) := by
  obtain ⟨t, r, hst⟩ := List.exists_cons_of_ne_nil h
  have hst' : ((s.grp c.gid).frag c.fid).stack = t :: r := hst
  simp only [ppopB, hst', onGrp, modGrp_eq, popMask, fragOf, List.headD_cons, List.tail_cons]

theorem ppopB_of_empty (h : (fragOf c (s.grp c.gid)).stack = []) : ppopB c s = .fault s (flt 11 1) := by
  have hst : ((s.grp c.gid).frag c.fid).stack = [] := h
  simp only [ppopB, hst]

theorem emrdB_eq (k : SReg) : emrdB k c s = .done (onGrp s c fun g => g.putS k.toNat c.em) := rfl

theorem emwrB_of_within {k : SReg} (h : WithinLaneSet k c (s.grp c.gid)) :
    emwrB k c s = .done (onGrp s c (writeMask k c)) := if_neg (not_not_intro h)

theorem emwrB_of_beyond {k : SReg} (h : ¬WithinLaneSet k c (s.grp c.gid)) : emwrB k c s = .fault s (flt 1 4) := if_pos h

end Meanings

/-! ### The instructions, in both encodings -/

section Instructions
variable (r : Option (BitVec 13)) (p : BitVec 3) (k : SReg)

theorem ppush_runs : RunsIf (both r (.ppush p) fun w => .ppushRadish w p) (fun c g => (fragOf c g).stack.length < 8) (pushMask p) :=
  runsIf_both (exec_ppush p) (exec_ppushRadish · p) fun _ _ => ppushB_of_room

theorem ppush_overflows :
    FaultsIf (both r (.ppush p) fun w => .ppushRadish w p) (fun c g => 8 ≤ (fragOf c g).stack.length) (fun _ _ => flt 11 0) :=
  faultsIf_both (exec_ppush p) (exec_ppushRadish · p) fun _ _ => ppushB_of_full

theorem pinv_runs : RunsIf (both r .pinv .pinvRadish) (fun c g => (fragOf c g).stack ≠ []) invertMask :=
  runsIf_both exec_pinv exec_pinvRadish fun _ _ => pinvB_of_saved

theorem pinv_underflows : FaultsIf (both r .pinv .pinvRadish) (fun c g => (fragOf c g).stack = []) (fun _ _ => flt 11 1) :=
  faultsIf_both exec_pinv exec_pinvRadish fun _ _ => pinvB_of_empty

theorem ppop_runs : RunsIf (both r .ppop .ppopRadish) (fun c g => (fragOf c g).stack ≠ []) popMask :=
  runsIf_both exec_ppop exec_ppopRadish fun _ _ => ppopB_of_saved

theorem ppop_underflows : FaultsIf (both r .ppop .ppopRadish) (fun c g => (fragOf c g).stack = []) (fun _ _ => flt 11 1) :=
  faultsIf_both exec_ppop exec_ppopRadish fun _ _ => ppopB_of_empty

theorem emrd_runs : Runs (both r (.emrd k) fun w => .emrdRadish w k) (fun c g => g.putS k.toNat c.em) :=
  runs_both (exec_emrd k) (exec_emrdRadish · k) fun _ _ => emrdB_eq k

theorem emwr_runs : RunsIf (both r (.emwr k) fun w => .emwrRadish w k) (WithinLaneSet k) (writeMask k) :=
  runsIf_both (exec_emwr k) (exec_emwrRadish · k) fun _ _ => emwrB_of_within

theorem emwr_faults_beyond :
    FaultsIf (both r (.emwr k) fun w => .emwrRadish w k) (fun c g => ¬WithinLaneSet k c g) (fun _ _ => flt 1 4) :=
  faultsIf_both (exec_emwr k) (exec_emwrRadish · k) fun _ _ => emwrB_of_beyond

end Instructions

/-- Settles O19: in each encoding the meaning of the instruction takes the branch that the stack's depth, or the lane set,
selects. -/
theorem predicateStackAndExecutionMask : Obligations.PredicateStackAndExecutionMask := by
  intro r p k
  exact ⟨⟨encodeWords_ppush p, encodeWords_pinv, encodeWords_ppop, encodeWords_emrd k, encodeWords_emwr k⟩,
    ppush_runs r p, ppush_overflows r p, pinv_runs r, pinv_underflows r, ppop_runs r, ppop_underflows r,
    emrd_runs r k, emwr_runs r k, emwr_faults_beyond r k⟩

end Sys2Proof.Machine

/-! Mode (R43, R74, R84): what each meaning does with a value that MODE may hold and with one that it may not, which MODE an
instruction finds as it begins, and what each instruction does. -/
namespace Sys2Proof.Machine

/-! ### The words of the instructions (R84) -/

theorem encodeWords_nop : encodeWords .nop = [0] := rfl
theorem encodeWords_setm (m : BitVec 13) : encodeWords (.setm m) = [0x01#8 ++ 0#11 ++ m] := rfl
theorem encodeWords_setms (k : SReg) : encodeWords (.setms k) = [0x02#8 ++ 0#18 ++ k] := rfl
theorem encodeWords_getm (k : SReg) : encodeWords (.getm k) = [0x03#8 ++ 0#18 ++ k] := rfl

/-! ### Radish words with the first sixteen opcodes (R76, R79) -/

theorem decodeRadish_of_first_opcodes {w : BitVec 64} {n : Nat} (ex : List (BitVec 64)) (h : opcodeOf (radUpper w) = n)
    (hn : n < 16) : decodeRadish w ex = decodeRadish0 n (radUpper w) w ex := by
  have hdiv : opcodeOf (radUpper w) / 16 = 0 := by omega
  have hmod : opcodeOf (radUpper w) % 16 = n := by omega
  simp only [decodeRadish, hdiv, hmod]

/-- Opcodes 0x01 and 0x02, SETM and SETMS in Marrow, stand in no Radish word. -/
theorem decodeRadish_unlisted_of_setm_opcode {w : BitVec 64} (ex : List (BitVec 64))
    (h : opcodeOf (radUpper w) = 0x01 ∨ opcodeOf (radUpper w) = 0x02) : decodeRadish w ex = .error .unlisted := by
  rcases h with h | h
  · exact decodeRadish_of_first_opcodes ex h (by decide)
  · exact decodeRadish_of_first_opcodes ex h (by decide)

/-! ### A scalar write to s0 (R40) -/

@[simp] theorem Group.setS_zero (g : Group) (w : Word) : g.setS 0 w = g := if_pos rfl

theorem Group.putS_zero (g : Group) (w : Word) : g.putS 0 w = g.setSPois 0 false := by
  rw [Group.putS, Group.setS_zero]

theorem sameRegs_putS_zero (g : Group) (w : Word) : SameRegs g (g.putS 0 w) := by
  rw [Group.putS_zero]
  exact ⟨rfl, rfl, rfl⟩

theorem sameSpecials_putS_zero (g : Group) (w : Word) : SameSpecials g (g.putS 0 w) := by
  rw [Group.putS_zero]
  exact ⟨rfl, rfl, rfl, rfl, rfl, rfl, rfl, rfl, rfl⟩

/-! ### The MODE that an instruction begins with (R48, R77) -/

@[simp] theorem Group.applySfu_mode (g : Group) (r : SfuRes) : (g.applySfu r).mode = g.mode := by
  unfold Group.applySfu
  cases r.hi with
  | none => rfl
  | some h => rfl

theorem foldl_applySfu_mode (q : List SfuRes) (g : Group) : (q.foldl Group.applySfu g).mode = g.mode := by
  induction q generalizing g with
  | nil => rfl
  | cons r q ih => rw [List.foldl_cons, ih, Group.applySfu_mode]

@[simp] theorem Group.drainSfu_mode (g : Group) : g.drainSfu.mode = g.mode := foldl_applySfu_mode g.sfu g

@[simp] theorem Group.interlock_mode (g : Group) (us : List Use) : (g.interlock us).mode = g.mode := by
  unfold Group.interlock
  split
  · exact g.drainSfu_mode
  · rfl

theorem enteredGrp_mode (s : State) (gid : Nat) (i : Instr) :
    (enteredGrp s gid i).mode = (describe s i).mode (s.grp gid) := by
  rw [enteredGrp, entered, enter, grp_modGrp, Group.interlock_mode]

/-! ### The check of a new value (R43, R74) -/

theorem modeLegal_iff (m : Word) : modeLegal m = true ↔ legalMode m := by
  simp only [modeLegal, Bool.and_eq_true, decide_eq_true_eq, bne_iff_ne, and_assoc]
  exact Iff.rfl

section Meanings
variable {c : Ctx} {s : State} {v : Word}

theorem setModeB_of_legal (h : legalMode v) : setModeB v c s = .done (onGrp s c fun g => { g with mode := v }) :=
  if_pos ((modeLegal_iff v).mpr h)

theorem setModeB_of_illegal (h : ¬legalMode v) : setModeB v c s = .fault s (flt 2 0) :=
  if_neg (mt (modeLegal_iff v).mp h)

/-- SETMS writes the value that its register holds as the instruction begins. -/
theorem setmsB_of_legal {k : SReg} (h : legalMode ((s.grp c.gid).sreg k.toNat)) :
    setmsB k c s = .done (onGrp s c fun g => { g with mode := g.sreg k.toNat }) := setModeB_of_legal h

theorem getmB_eq (k : SReg) : getmB k c s = .done (onGrp s c fun g => g.putS k.toNat g.mode) := rfl

end Meanings

/-! ### The instructions -/

theorem nop_runs (r : Option (BitVec 13)) : Runs (both r .nop .nopRadish) fun _ g => g := by
  cases r with
  | none => exact runs_nothing_both_kinds exec_nop fun _ _ => rfl
  | some w => exact runs_nothing (exec_nopRadish w) fun _ _ => rfl

theorem setm_runs (m : BitVec 13) :
    RunsIf (.setm m) (fun _ _ => legalMode (m.zeroExtend 32)) (fun _ g => { g with mode := m.zeroExtend 32 }) :=
  runsIf_of_issue (exec_setm m) fun _ _ => setModeB_of_legal

theorem setm_faults (m : BitVec 13) :
    FaultsIf (.setm m) (fun _ _ => ¬legalMode (m.zeroExtend 32)) (fun _ _ => flt 2 0) :=
  faultsIf_of_issue (exec_setm m) fun _ _ => setModeB_of_illegal

theorem setms_runs (k : SReg) :
    RunsIf (.setms k) (fun _ g => legalMode (g.sreg k.toNat)) (fun _ g => { g with mode := g.sreg k.toNat }) :=
  runsIf_of_issue (exec_setms k) fun _ _ => setmsB_of_legal

theorem setms_faults (k : SReg) :
    FaultsIf (.setms k) (fun _ g => ¬legalMode (g.sreg k.toNat)) (fun _ _ => flt 2 0) :=
  faultsIf_of_issue (exec_setms k) fun _ _ => setModeB_of_illegal

theorem getm_runs (r : Option (BitVec 13)) (k : SReg) :
    Runs (both r (.getm k) fun w => .getmRadish w k) fun _ g => g.putS k.toNat g.mode :=
  runs_both (exec_getm k) (exec_getmRadish · k) fun _ _ => getmB_eq k

/-- The MODE that GETM reads on a Radish core is the one of its own word. -/
theorem getmRadish_enters_with_its_mode (s : State) (gid : Nat) (w : BitVec 13) (k : SReg) :
    (enteredGrp s gid (.getmRadish w k)).mode = w.zeroExtend 32 := by
  rw [enteredGrp_mode, describe_getmRadish]
  rfl

/-- Settles O15: the check of SETM and SETMS is R43's legality, so each takes the branch that its value selects; the MODE that
GETM reads is the one its issue loaded. -/
theorem modeInstructionsWriteAndReadMode : Obligations.ModeInstructionsWriteAndReadMode :=
  ⟨nop_runs, fun m => ⟨setm_runs m, setm_faults m⟩, fun k => ⟨setms_runs k, setms_faults k⟩, getm_runs,
    fun g => ⟨sameRegs_putS_zero g g.mode, sameSpecials_putS_zero g g.mode⟩, getmRadish_enters_with_its_mode,
    fun m k => ⟨encodeWords_nop, encodeWords_setm m, encodeWords_setms k, encodeWords_getm k⟩,
    fun _ ex => decodeRadish_unlisted_of_setm_opcode ex⟩

end Sys2Proof.Machine

/-! Division, carry addition and comparison (R117, R118, R119, R123): issue's answer to a field or a type that is not allowed,
what a lane operation writes, what each meaning does, and then what each instruction does in both encodings. -/
namespace Sys2Proof.Machine

/-! ### Reserved fields and types that are not accepted (R73, R74, R75) -/

/-- With the role and the literal in order, fields that are not well formed are what the checks find first. -/
theorem precheck_of_not_wf {s : State} {g : Group} {i : Info} (f : Frag) (hrole : roleAllows (s.kindOf g) i.op = true)
    (hlit : litMisuse i (modeType (i.mode g)) = false) (hwf : i.wf = false) : precheck s g f i = some (flt 1 1) := by
  simp [precheck, hrole, hlit, hwf]

/-- A type that is not accepted is found before any pending or poisoned register. -/
theorem postcheck_of_unaccepted_type {g : Group} {i : Info} {imm : DWord} (act : Lanes)
    (ht : i.types imm (modeType (i.mode g)) = false) : postcheck g i act imm = some (flt 2 1) := by
  simp [postcheck, ht]

section Checks
variable {i : Instr} {body : Ctx → State → Act}

theorem reserved_of_not_wf (h : ∀ s, exec i s = issue s (describe s i) body)
    (hlit : ∀ s ty, litMisuse (describe s i) ty = false) (hwf : ∀ s, (describe s i).wf = false) : Reserved i := by
  intro s gid fid hcur hf hrole
  have hp := precheck_of_not_wf ((s.grp gid).frag fid) hrole (hlit s _) (hwf s)
  rw [h, issue, hcur]
  exact congrArg Host.Outcome.next (issueFrag_pre body hf hp)

theorem exec_of_unaccepted_type (h : ∀ s, exec i s = issue s (describe s i) body) {s : State} {gid fid : Nat}
    (hcur : s.cur = some (.frag gid fid)) (hf : (afind fid (s.grp gid).frags).isSome = true)
    (hp : precheck s (s.grp gid) ((s.grp gid).frag fid) (describe s i) = none)
    (ht : (describe s i).types (ctxOf s gid fid i).imm (ctxOf s gid fid i).ty = false) :
    exec i s = .next (takeFault (entered s gid i) gid fid (flt 2 1) (ctxOf s gid fid i).act) := by
  have hq := postcheck_of_unaccepted_type (g := s.grp gid) (ctxOf s gid fid i).act ht
  rw [h, issue, hcur]
  exact congrArg Host.Outcome.next (issueFrag_post body hf hp hq)

end Checks

/-! ### The words of the instructions (R117, R118, R119) -/

section Words
variable (d a b : VReg)

theorem encodeWords_idiv : encodeWords (.idiv d a b) = [0x35#8 ++ d ++ a ++ b] := rfl
theorem encodeWords_irem : encodeWords (.irem d a b) = [0x36#8 ++ d ++ a ++ b] := rfl
theorem encodeWords_iaddc : encodeWords (.iaddc d a b) = [0x3B#8 ++ d ++ a ++ b] := rfl
theorem encodeWords_icmp (cond p : BitVec 3) :
    encodeWords (.icmp cond p a b) = [0x3C#8 ++ cond ++ 0#2 ++ p ++ a ++ b] := rfl

/-- The example of R119: icmp p1, ge, v9, v10. -/
theorem encodeWords_icmp_example : encodeWords (.icmp 5 1 9 10) = [0x3CA1090A] := by decide

end Words

/-! ### What a lane operation writes (R113) -/

/-- A lane operation that gives f of the group's registers in every lane writes f to the active lanes. -/
theorem intB_eq_toLanes {op : LaneOp} {d a b : VReg} {f : Ctx → Group → Nat → Nat}
    (h : ∀ c g l, op c.ty (modeSat c.mode) (srcBits c g a l) (srcBits c g b l) (srcBits c g d l) = f c g l)
    (c : Ctx) (s : State) : intB op d.toNat a.toNat b.toNat c s = .done (onGrp s c (toLanes d f c)) := by
  have hlanes := funext (h c (s.grp c.gid))
  exact congrArg Act.done (onGrp_congr s c (congrArg ((s.grp c.gid).putT c.ty d.toNat c.act) hlanes))

/-! ### Division (R118) -/

@[simp] theorem wrapT_zero (t : Nat) : wrapT t 0 = 0 := by simp [wrapT]

/-- The quotient that IDIV writes in a lane. -/
def laneQuotient (a b : VReg) (c : Ctx) (g : Group) (l : Nat) : Nat :=
  if srcBits c g b l = 0 then 2 ^ wBits c.ty - 1
  else if srcInt c g a l = minOf c.ty ∧ srcInt c g b l = -1 then satIn c (-(srcInt c g a l))
  else satIn c ((srcInt c g a l).tdiv (srcInt c g b l))

/-- The remainder that IREM writes in a lane. -/
def laneRemainder (a b : VReg) (c : Ctx) (g : Group) (l : Nat) : Nat :=
  if srcBits c g b l = 0 then srcBits c g a l
  else if srcInt c g a l = minOf c.ty ∧ srcInt c g b l = -1 then 0
  else wrapIn c (srcInt c g a l - (srcInt c g a l).tdiv (srcInt c g b l) * srcInt c g b l)

section Division
variable (d a b : VReg) (c : Ctx) (g : Group) (l : Nat)

/-- The minimum over -1 needs no case of its own: the quotient toward zero is -a there too, which Sat takes into the type. -/
theorem idivOp_eq_laneQuotient :
    idivOp c.ty (modeSat c.mode) (srcBits c g a l) (srcBits c g b l) (srcBits c g d l) = laneQuotient a b c g l := by
  have hop (hb : srcBits c g b l ≠ 0) :
      idivOp c.ty (modeSat c.mode) (srcBits c g a l) (srcBits c g b l) (srcBits c g d l) =
        satIn c ((srcInt c g a l).tdiv (srcInt c g b l)) := if_neg hb
  by_cases hb : srcBits c g b l = 0
  · simp only [idivOp, laneQuotient, if_pos hb]
  by_cases hmin : srcInt c g a l = minOf c.ty ∧ srcInt c g b l = -1
  · rw [hop hb, laneQuotient, if_neg hb, if_pos hmin, hmin.2, Int.tdiv_neg, Int.tdiv_one]
  · rw [hop hb, laneQuotient, if_neg hb, if_neg hmin]

/-- The minimum over -1 needs no case of its own: every number is a multiple of -1. -/
theorem iremOp_eq_laneRemainder :
    iremOp c.ty (modeSat c.mode) (srcBits c g a l) (srcBits c g b l) (srcBits c g d l) = laneRemainder a b c g l := by
  have hop (hb : srcBits c g b l ≠ 0) :
      iremOp c.ty (modeSat c.mode) (srcBits c g a l) (srcBits c g b l) (srcBits c g d l) =
        wrapT c.ty ((srcInt c g a l).tmod (srcInt c g b l)) := if_neg hb
  by_cases hb : srcBits c g b l = 0
  · simp only [iremOp, laneRemainder, if_pos hb]
  by_cases hmin : srcInt c g a l = minOf c.ty ∧ srcInt c g b l = -1
  · rw [hop hb, laneRemainder, if_neg hb, if_pos hmin, hmin.2, Int.tmod_neg, Int.tmod_one, wrapT_zero]
  · rw [hop hb, laneRemainder, if_neg hb, if_neg hmin, Int.tmod_def, mul_comm, wrapIn]

end Division

/-! ### Conditions and predicates (R41, R119) -/

theorem holdsCond_eq_condOk : holdsCond = condOk := rfl

@[simp] theorem Group.setP_zero (g : Group) (m v : Lanes) : g.setP 0 m v = g := if_pos rfl

theorem carryTypes_eq_false {ty : Nat} (h0 : ty ≠ 0) (h1 : ty ≠ 1) : carryTypes ty = false :=
  decide_eq_false (by omega)

/-! ### The effects on the group -/

/-- IADDC's sum in a lane, with the carry that p7 holds. -/
def carrySum (a b : VReg) (g : Group) (l : Nat) : Nat :=
  (g.vl a.toNat l).toNat + (g.vl b.toNat l).toNat + (if (g.preg 7).getLsbD l then 1 else 0)

/-- IADDC writes the sum's low half to d and its carry to p7. -/
def addCarry (d a b : VReg) (c : Ctx) (g : Group) : Group :=
  (g.putV d.toNat c.act fun l => BitVec.ofNat 32 (carrySum a b g l)).setP 7 c.act
    (maskOf fun l => decide (2 ^ 32 ≤ carrySum a b g l))

/-- ICMP writes its comparison of each active lane. -/
def compareLanes (cond p : BitVec 3) (a b : VReg) (c : Ctx) (g : Group) : Group :=
  g.setP p.toNat c.act (maskOf fun l => holdsCond cond.toNat (srcInt c g a l) (srcInt c g b l))

/-- SCMP writes its one comparison in every lane of EM. -/
def compareScalars (cond p : BitVec 3) (a b : SReg) (c : Ctx) (g : Group) : Group :=
  g.setP p.toNat c.em (if holdsCond cond.toNat (sVal g a).toInt (sVal g b).toInt then BitVec.allOnes 32 else 0)

section Meanings
variable (c : Ctx) (s : State)

theorem iaddcB_eq (d a b : VReg) : iaddcB d.toNat a.toNat b.toNat c s = .done (onGrp s c (addCarry d a b c)) := rfl

theorem icmpB_eq (cond p : BitVec 3) (a b : VReg) :
    icmpB cond p a.toNat b.toNat c s = .done (onGrp s c (compareLanes cond p a b c)) := by
  unfold icmpB compareLanes
  rw [holdsCond_eq_condOk]
  rfl

theorem scmpB_eq (cond p : BitVec 3) (a b : SReg) :
    scmpB cond p a b c s = .done (onGrp s c (compareScalars cond p a b c)) := by
  unfold scmpB compareScalars
  rw [holdsCond_eq_condOk]
  rfl

end Meanings

/-! ### The instructions, in both encodings -/

section Instructions
variable (r : Option (BitVec 13)) (d a b : VReg) (x y : SReg) (cond p : BitVec 3)

theorem idiv_runs : Runs (both r (.idiv d a b) fun w => .idivRadish w d a b) (toLanes d (laneQuotient a b)) :=
  runs_both (exec_idiv d a b) (exec_idivRadish · d a b) (intB_eq_toLanes (idivOp_eq_laneQuotient d a b))

theorem irem_runs : Runs (both r (.irem d a b) fun w => .iremRadish w d a b) (toLanes d (laneRemainder a b)) :=
  runs_both (exec_irem d a b) (exec_iremRadish · d a b) (intB_eq_toLanes (iremOp_eq_laneRemainder d a b))

theorem iaddc_runs : Runs (both r (.iaddc d a b) fun w => .iaddcRadish w d a b) (addCarry d a b) :=
  runs_both (exec_iaddc d a b) (exec_iaddcRadish · d a b) fun c s => iaddcB_eq c s d a b

theorem iaddc_faults_on_other_types {s : State} {gid fid : Nat} (hcur : s.cur = some (.frag gid fid))
    (hf : (afind fid (s.grp gid).frags).isSome = true) :
    let i := both r (.iaddc d a b) fun w => .iaddcRadish w d a b
    precheck s (s.grp gid) ((s.grp gid).frag fid) (describe s i) = none →
    (ctxOf s gid fid i).ty ≠ 0 → (ctxOf s gid fid i).ty ≠ 1 →
    exec i s = .next (takeFault (entered s gid i) gid fid (flt 2 1) (ctxOf s gid fid i).act) := by
  cases r with
  | none => exact fun hp h0 h1 => exec_of_unaccepted_type (exec_iaddc d a b) hcur hf hp (carryTypes_eq_false h0 h1)
  | some w => exact fun hp h0 h1 => exec_of_unaccepted_type (exec_iaddcRadish w d a b) hcur hf hp (carryTypes_eq_false h0 h1)

theorem icmp_runs : Runs (both r (.icmp cond p a b) fun w => .icmpRadish w cond p a b) (compareLanes cond p a b) :=
  runs_both (exec_icmp cond p a b) (exec_icmpRadish · cond p a b) fun c s => icmpB_eq c s cond p a b

theorem scmp_runs : Runs (both r (.scmp cond p x y) fun w => .scmpRadish w cond p x y) (compareScalars cond p x y) :=
  runs_both (exec_scmp cond p x y) (exec_scmpRadish · cond p x y) fun c s => scmpB_eq c s cond p x y

variable {cond}

theorem icmp_reserved (hcond : 6 ≤ cond.toNat) :
    Reserved (both r (.icmp cond p a b) fun w => .icmpRadish w cond p a b) := by
  have hwf : decide (cond.toNat < 6) = false := decide_eq_false (Nat.not_lt.mpr hcond)
  cases r with
  | none => exact reserved_of_not_wf (exec_icmp cond p a b) (fun _ _ => rfl) fun _ => hwf
  | some w => exact reserved_of_not_wf (exec_icmpRadish w cond p a b) (fun _ _ => rfl) fun _ => hwf

theorem scmp_reserved (hcond : 6 ≤ cond.toNat) :
    Reserved (both r (.scmp cond p x y) fun w => .scmpRadish w cond p x y) := by
  have hwf : decide (cond.toNat < 6) = false := decide_eq_false (Nat.not_lt.mpr hcond)
  cases r with
  | none => exact reserved_of_not_wf (exec_scmp cond p x y) (fun _ _ => rfl) fun _ => hwf
  | some w => exact reserved_of_not_wf (exec_scmpRadish w cond p x y) (fun _ _ => rfl) fun _ => hwf

end Instructions

/-- Settles O2: in each encoding the meaning is a lane operation, whose two branches agree with the three of R118. -/
theorem divisionTruncatesAndZeroDivisorIsDefined : Obligations.DivisionTruncatesAndZeroDivisorIsDefined := by
  intro r d a b
  exact ⟨⟨encodeWords_idiv d a b, encodeWords_irem d a b⟩, idiv_runs r d a b, irem_runs r d a b⟩

theorem carryAddKeepsItsCarryInP7 : CarryAddKeepsItsCarryInP7 := by
  intro r d a b
  exact ⟨encodeWords_iaddc d a b, iaddc_runs r d a b, fun _ _ _ => iaddc_faults_on_other_types r d a b⟩

theorem comparesWriteOnePredicate : ComparesWriteOnePredicate := by
  intro r cond p
  exact ⟨fun a b => icmp_runs r a b cond p, fun x y => scmp_runs r x y cond p,
    fun a b x y hcond => ⟨icmp_reserved r a b p hcond, scmp_reserved r x y p hcond⟩,
    fun a b => encodeWords_icmp a b cond p, encodeWords_icmp_example, Group.setP_zero⟩

/-- Settles O3: IADDC's type fault comes from the check after MODE is loaded, and the fault of conditions 6 and 7 from the one
before; past both, each meaning is its effect on the group. -/
theorem carryAddAndComparesWritePredicates : Obligations.CarryAddAndComparesWritePredicates :=
  ⟨carryAddKeepsItsCarryInP7, comparesWriteOnePredicate⟩

end Sys2Proof.Machine

/-! Decoding and encoding (R60 to R79): a field of a word is read back from where the layout puts it; the words, then the bytes of an
instruction read back; and so for every instruction of both encodings. -/
namespace Sys2Proof.Machine

/-! ### Bytes and words (R1, R76) -/

theorem bytesWords_wordBytes (w : BitVec 32) (bs : List Byte) : bytesWords (wordBytes w ++ bs) = w :: bytesWords bs := by
  have hw : w.extractLsb' 24 8 ++ w.extractLsb' 16 8 ++ w.extractLsb' 8 8 ++ w.extractLsb' 0 8 = w := by
    ext i hi
    simp only [BitVec.getElem_append, BitVec.getElem_extractLsb']
    split_ifs <;> (rw [← BitVec.getLsbD_eq_getElem]; congr 1; omega)
  exact congrArg (· :: bytesWords bs) hw

/-- Words read back from their bytes. -/
theorem bytesWords_flatMap_wordBytes (ws : List (BitVec 32)) : bytesWords (ws.flatMap wordBytes) = ws := by
  induction ws with
  | nil => rfl
  | cons w r ih => rw [List.flatMap_cons, bytesWords_wordBytes, ih]

theorem append_halves (v : BitVec 64) : v.extractLsb' 32 32 ++ v.extractLsb' 0 32 = v := by
  ext i hi
  simp only [BitVec.getElem_append, BitVec.getElem_extractLsb']
  split_ifs <;> (rw [← BitVec.getLsbD_eq_getElem]; congr 1; omega)

/-- The words of a Radish table read back from their halves. -/
theorem pairUp_radTbl (t : List (BitVec 64)) : pairUp (radTbl t) = t := by
  induction t with
  | nil => rfl
  | cons v r ih =>
    have hcons : pairUp (radTbl (v :: r)) = (v.extractLsb' 32 32 ++ v.extractLsb' 0 32) :: pairUp (radTbl r) := rfl
    rw [hcons, ih, append_halves]

/-- The literal word of a Radish immediate reads back from its halves. -/
theorem pairUp_radLit (r : RImm) : pairUp (radLit r) = r.lit.toList := by
  obtain ⟨imm, lit⟩ := r
  cases lit with
  | none => rfl
  | some v => exact pairUp_radTbl [v]

/-! ### Fields (R60, R76) -/

/-- A bit above the last field of a word is a bit of the fields before it. -/
theorem getLsbD_append_of_le {m n : Nat} (x : BitVec m) (y : BitVec n) {i : Nat} (h : n ≤ i) :
    (x ++ y).getLsbD i = x.getLsbD (i - n) := by
  simp [BitVec.getLsbD_append, h]

/-- A bit of the last field of a word. -/
theorem getLsbD_append_of_lt {m n : Nat} (x : BitVec m) (y : BitVec n) {i : Nat} (h : i < n) :
    (x ++ y).getLsbD i = y.getLsbD i := by
  simp [BitVec.getLsbD_append, h]

theorem getLsbD_ofBool_zero (b : Bool) : (BitVec.ofBool b).getLsbD 0 = b := by cases b <;> rfl

section RadishWord
variable (u : BitVec 32) (m : BitVec 13) (h : BitVec 2) (r : RImm)

@[simp] theorem radUpper_append (l : BitVec 32) : radUpper (u ++ l) = u := by
  simp (disch := decide) only [radUpper, BitVec.extractLsb'_append_eq_of_le, Nat.sub_self, BitVec.extractLsb'_eq_self]

theorem extractLsb'_radLow {lo n : Nat} (hlt : lo + n ≤ 32) :
    (u ++ radLow m h r).extractLsb' lo n = (radLow m h r).extractLsb' lo n := BitVec.extractLsb'_append_eq_of_add_le hlt

/-- MODE's fields stand in a Radish word in the reverse of their order in MODE (R30). -/
@[simp] theorem radMode_append : radMode (u ++ radLow m h r) = m := by
  have hfields : radMode (u ++ radLow m h r) = m.extractLsb' 12 1 ++ m.extractLsb' 11 1 ++ m.extractLsb' 8 3 ++ m.extractLsb' 4 4 ++
      m.extractLsb' 3 1 ++ m.extractLsb' 0 3 := by
    simp (disch := decide) only [radMode, extractLsb'_radLow, radLow, BitVec.extractLsb'_append_eq_of_le,
      BitVec.extractLsb'_append_eq_of_add_le, Nat.reduceSub, BitVec.extractLsb'_eq_self]
  rw [hfields]
  ext i hi
  simp only [BitVec.getElem_append, BitVec.getElem_extractLsb']
  split_ifs <;> (rw [← BitVec.getLsbD_eq_getElem]; congr 1; omega)

@[simp] theorem radHint_append : radHint (u ++ radLow m h r) = h := by
  simp (disch := decide) only [radHint, extractLsb'_radLow, radLow, BitVec.extractLsb'_append_eq_of_le,
    BitVec.extractLsb'_append_eq_of_add_le, Nat.reduceSub, BitVec.extractLsb'_eq_self]

theorem litBit_append : (u ++ radLow m h r).getLsbD 16 = r.lit.isSome := by
  simp (disch := decide) only [getLsbD_append_of_lt, radLow, getLsbD_append_of_le, Nat.sub_self, getLsbD_ofBool_zero]

@[simp] theorem radImm_append : radImm (u ++ radLow m h r) r.lit.toList = r := by
  have himm : (u ++ radLow m h r).extractLsb' 0 16 = r.imm := by
    simp (disch := decide) only [extractLsb'_radLow, radLow, BitVec.extractLsb'_append_eq_of_add_le, BitVec.extractLsb'_eq_self]
  rw [radImm, himm, litBit_append]
  obtain ⟨imm, lit⟩ := r
  cases lit with
  | none => rfl
  | some v => rfl

@[simp] theorem noHint_append : noHint (u ++ radLow m 0#2 r) = true := by
  rw [noHint, show (u ++ radLow m 0#2 r).extractLsb' 17 2 = 0#2 from radHint_append u m 0#2 r]
  rfl

@[simp] theorem noImm_append : noImm (u ++ radLow m h RImm.zero) = true := by
  have hlow : (u ++ radLow m h RImm.zero).extractLsb' 0 17 = 0#17 := by
    rw [extractLsb'_radLow _ _ _ _ (by decide), radLow, BitVec.append_assoc]
    exact (BitVec.extractLsb'_append_eq_of_add_le (by decide)).trans rfl
  rw [noImm, hlow]
  rfl

@[simp] theorem noLow_append : noLow (u ++ radLow m 0#2 RImm.zero) = true := by
  have hlow : (u ++ radLow m 0#2 RImm.zero).extractLsb' 0 19 = 0#19 := by
    rw [extractLsb'_radLow _ _ _ _ (by decide), radLow, BitVec.append_assoc, BitVec.append_assoc]
    exact (BitVec.extractLsb'_append_eq_of_add_le (by decide)).trans rfl
  rw [noLow, hlow]
  rfl

end RadishWord

/-! ### An instruction reads back from its bytes when it does from its words -/

/-- What the statement says of one instruction. -/
def ReadsBack (i : Instr) : Prop :=
  (isRadishForm i = false → decodeMarrowBytes (encode i) = some (.ok i)) ∧
    (isRadishForm i = true → decodeRadishBytes (encode i) = some (.ok i))

theorem readsBack_of_marrow {i : Instr} {w : BitVec 32} {ex : List (BitVec 32)} (hform : isRadishForm i = false)
    (henc : encodeWords i = w :: ex) (hex : marrowExtra w = ex.length) (hdec : decodeMarrow w ex = .ok i) : ReadsBack i := by
  refine ⟨fun _ => ?_, fun h => by simp [hform] at h⟩
  rw [decodeMarrowBytes, encode, bytesWords_flatMap_wordBytes, henc, decodeMarrowList, hex, if_neg (Nat.lt_irrefl _),
    List.take_length, hdec]
  rfl

/-- A Marrow word with no further words. -/
theorem readsBack_of_word {i : Instr} {w : BitVec 32} (hform : isRadishForm i = false) (henc : encodeWords i = [w])
    (hop : opcodeOf w ≠ 0x06 ∧ opcodeOf w ≠ 0xFF ∧ decodeMarrow w [] = .ok i) : ReadsBack i := by
  obtain ⟨hbrx, hlit, hdec⟩ := hop
  exact readsBack_of_marrow hform henc (by simp [marrowExtra, hbrx, hlit]) hdec

theorem readsBack_of_radish {i : Instr} {u l : BitVec 32} {ex : List (BitVec 32)} (hform : isRadishForm i = true)
    (henc : encodeWords i = l :: u :: ex) (hex : radishExtra (u ++ l) = (pairUp ex).length)
    (hdec : decodeRadish (u ++ l) (pairUp ex) = .ok i) : ReadsBack i := by
  refine ⟨fun h => by simp [hform] at h, fun _ => ?_⟩
  rw [decodeRadishBytes, encode, bytesWords_flatMap_wordBytes, henc, pairUp, decodeRadishList, hex, if_neg (Nat.lt_irrefl _),
    List.take_length, hdec]
  rfl

/-- A Radish word with its immediate and no table. -/
theorem readsBack_of_radishWord {i : Instr} {u : BitVec 32} {m : BitVec 13} {h : BitVec 2} {r : RImm}
    (hform : isRadishForm i = true) (henc : encodeWords i = radLow m h r :: u :: radLit r)
    (hop : opcodeOf u ≠ 0x06 ∧ decodeRadish (u ++ radLow m h r) r.lit.toList = .ok i) : ReadsBack i := by
  obtain ⟨hbrx, hdec⟩ := hop
  refine readsBack_of_radish hform henc ?_ (by rw [pairUp_radLit, hdec])
  rw [radishExtra, radUpper_append, if_neg hbrx, litBit_append, pairUp_radLit]
  cases r.lit <;> rfl

/-! ### The instructions with further words (R63, R66, R78) -/

theorem toNat_ofNat_length {n : Nat} (h : tblOk n = true) : (BitVec.ofNat 8 n).toNat = n := by
  simp only [tblOk, Bool.and_eq_true, decide_eq_true_eq] at h
  exact Nat.mod_eq_of_lt (by omega)

theorem readsBack_brx (h : BitVec 2) (v : VReg) (tbl : List (BitVec 32)) (hlen : tblOk tbl.length = true) :
    ReadsBack (.brx h v tbl) := by
  refine readsBack_of_marrow rfl rfl ?_ ?_
  · simp (disch := decide) only [marrowExtra, opcodeOf, fld, BitVec.extractLsb'_append_eq_of_le, BitVec.extractLsb'_append_eq_of_add_le,
      Nat.reduceSub, BitVec.extractLsb'_eq_self, BitVec.toNat_ofNat, Nat.reducePow, Nat.reduceMod, Nat.reduceDiv, if_true, toNat_ofNat_length hlen]
  · simp (disch := decide) only [decodeMarrow, opcodeOf, fld, BitVec.extractLsb'_append_eq_of_le, BitVec.extractLsb'_append_eq_of_add_le,
      Nat.reduceSub, BitVec.extractLsb'_eq_self, BitVec.toNat_ofNat, Nat.reducePow, Nat.reduceMod, Nat.reduceDiv, decodeMarrow0]
    rfl

theorem readsBack_brxRadish (w : BitVec 13) (h : BitVec 2) (v : VReg) (tbl : List (BitVec 64))
    (hlen : tblOk tbl.length = true) : ReadsBack (.brxRadish w h v tbl) := by
  refine readsBack_of_radish rfl rfl ?_ ?_
  · rw [pairUp_radTbl]
    simp (disch := decide) only [radishExtra, radUpper_append, opcodeOf, fld, BitVec.extractLsb'_append_eq_of_le, BitVec.extractLsb'_append_eq_of_add_le,
      Nat.reduceSub, BitVec.extractLsb'_eq_self, BitVec.toNat_ofNat, Nat.reducePow, Nat.reduceMod, Nat.reduceDiv, if_true, toNat_ofNat_length hlen]
  · rw [pairUp_radTbl]
    simp (disch := decide) only [decodeRadish, radUpper_append, opcodeOf, fld, BitVec.extractLsb'_append_eq_of_le, BitVec.extractLsb'_append_eq_of_add_le,
      Nat.reduceSub, BitVec.extractLsb'_eq_self, BitVec.toNat_ofNat, Nat.reducePow, Nat.reduceMod, Nat.reduceDiv, decodeRadish0, radMode_append, radHint_append, noImm_append]
    rfl

/-- A literal below 2 ^ 32 is its low word. -/
theorem zero_append_low {v : BitVec 64} (hv : v.toNat < 2 ^ 32) : 0#32 ++ v.extractLsb' 0 32 = v := by
  apply BitVec.eq_of_toNat_eq
  simp only [BitVec.toNat_append, BitVec.toNat_ofNat, Nat.zero_mod, Nat.zero_shiftLeft, Nat.zero_or, BitVec.extractLsb'_toNat,
    Nat.shiftRight_zero]
  exact Nat.mod_eq_of_lt hv

/-- The fields of a LIT's first word. -/
theorem litWord_fields (wide : Bool) :
    opcodeOf (0xFF#8 ++ 0#23 ++ BitVec.ofBool wide) = 0xFF ∧ bit (0xFF#8 ++ 0#23 ++ BitVec.ofBool wide) 0 = wide ∧
      fld (0xFF#8 ++ 0#23 ++ BitVec.ofBool wide) 1 23 = 0 := by
  cases wide <;> decide

theorem readsBack_lit (wide : Bool) (v : BitVec 64) (hv : litOk wide v = true) : ReadsBack (.lit wide v) := by
  obtain ⟨hop, hwide, hzero⟩ := litWord_fields wide
  have hdec (ex : List (BitVec 32)) : decodeMarrow (0xFF#8 ++ 0#23 ++ BitVec.ofBool wide) ex =
      .ok (.lit wide (if wide then ex.getD 1 0 ++ ex.headD 0 else 0#32 ++ ex.headD 0)) := by
    simp only [decodeMarrow, hop, decodeLit, hzero, hwide]
    rfl
  have hex : marrowExtra (0xFF#8 ++ 0#23 ++ BitVec.ofBool wide) = if wide then 2 else 1 := by
    simp only [marrowExtra, hop, hwide]
    rfl
  cases wide with
  | true => exact readsBack_of_marrow rfl rfl hex ((hdec _).trans (congrArg (fun x => Except.ok (Instr.lit true x)) (append_halves v)))
  | false =>
    have hlt : v.toNat < 2 ^ 32 := by simpa [litOk] using hv
    exact readsBack_of_marrow rfl rfl hex ((hdec _).trans (congrArg (fun x => Except.ok (Instr.lit false x)) (zero_append_low hlt)))


/-! ### Every instruction -/

/-- The instructions of Marrow words; a step of the device has no words. -/
def isMarrowForm (i : Instr) : Bool := !(encodeWords i).isEmpty && !isRadishForm i

theorem readsBack_of_isMarrowForm (i : Instr) (hwf : WellFormed i = true) (h : isMarrowForm i = true) : ReadsBack i := by
  cases i
  case brx => exact readsBack_brx _ _ _ hwf
  case lit => exact readsBack_lit _ _ hwf
  case nop | setm | setms | getm | bra | brd | callAddr | ret | markJoin | joinFrags | ppush | pinv | ppop | emrd |
    emwr | waitc | cbatch | waitb | bar | bara | barw | drain | eqp | migrTeam | rolesw | yieldIssue | exitFrag |
    trapCode | xret | xrd | xwr | sread | launchQueue | ifence | cpref | snooze | loopCount | iadd | isub | imul |
    imulh | imad | idiv | irem | imin | imax | iabs | ineg | iaddc | icmp | selLane | andBits | orBits | xorBits |
    notBits | shl | shr | sar | rotl | popc | clz | ctz | brev | bfe | bfi | movLane | movi | lea | iaddi | sadd |
    ssub | smul | sand | sor | sxor | sshl | sshr | scmp | smov | smovi | slea | vtos | stov | smin | smax | fadd |
    fsub | fmul | ffma | fmin | fmax | fabs | fneg | fcmp | fclass | fdiv | fsqrt | frnd | fldexp | fexpo | fsgnj |
    frcp | frsq | fex2 | flg2 | fsin | fcos | ftanh | cvt | cvti | pack | unpk | qhist | qscale | quant | deq | qclr |
    shfl | shflu | shfld | shflx | vote | redu | scanLanes | matchLanes | bcast | firstLane | ldGlobal | stGlobal |
    ldx | stx | lds | sts | ldp | stp | stn | srset | atadd | atmin | atmax | atand | ator | atxor | atxch | atcas |
    redadd | redmin | redmax | fence | ofence | rflush | rinv | pfetch | locate | repark | unpark | objdef | objdel |
    pcommit | pdecommit | allocBlock | freeBlock | pquery | tcopy | tcopym | chain | bbinit | bbexp | bbwait | bbinv |
    bbarr | rinit | racq | rpub | rtake | rdone | rclose | spush | mma64x64x64 | mma64x128x64 | mma128x128x64 |
    mma128x64x128 | fbset | xld | xldr | zclr | zcvt | zst | zld | zadd | zscl =>
    refine readsBack_of_word rfl rfl ?_
    simp (disch := decide) only [decodeMarrow, opcodeOf, fld, BitVec.extractLsb'_append_eq_of_le, BitVec.extractLsb'_append_eq_of_add_le,
      Nat.reduceSub, BitVec.extractLsb'_eq_self, BitVec.toNat_ofNat, Nat.reducePow, Nat.reduceMod, Nat.reduceDiv,
      bit, getLsbD_append_of_le, getLsbD_append_of_lt, getLsbD_ofBool_zero,
      decodeMarrow0, decodeMarrow1, decodeMarrow2, decodeMarrow3, decodeMarrow4, decodeMarrow5, decodeMarrow6, decodeMarrow7, decodeMarrow8, decodeMarrow9, decodeMarrowA, decodeMarrowB, decodeMarrowC, decodeMarrowD, decodeMarrowE,
      reqd, and_true, true_and, BitVec.ofNat_eq_ofNat, beq_self_eq_true, Bool.and_self, if_true, ne_eq, reduceCtorEq, not_false_eq_true, and_self, OfNat.ofNat_ne_zero, Nat.reduceEqDiff, not_false]
  all_goals exact absurd h Bool.false_ne_true

theorem readsBack_of_isRadishForm (i : Instr) (hwf : WellFormed i = true) (h : isRadishForm i = true) : ReadsBack i := by
  cases i
  case brxRadish => exact readsBack_brxRadish _ _ _ _ hwf
  case nopRadish | getmRadish | braRadish | brdRadish | callAddrRadish | retRadish | markJoinRadish | joinFragsRadish
    | ppushRadish | pinvRadish | ppopRadish | emrdRadish | emwrRadish | waitcRadish | cbatchRadish | waitbRadish |
    barRadish | baraRadish | barwRadish | drainRadish | eqpRadish | migrTeamRadish | roleswRadish | yieldIssueRadish |
    exitFragRadish | trapCodeRadish | xretRadish | xrdRadish | xwrRadish | sreadRadish | launchQueueRadish |
    ifenceRadish | cprefRadish | snoozeRadish | loopCountRadish | iaddRadish | isubRadish | imulRadish | imulhRadish |
    imadRadish | idivRadish | iremRadish | iminRadish | imaxRadish | iabsRadish | inegRadish | iaddcRadish |
    icmpRadish | selLaneRadish | andBitsRadish | orBitsRadish | xorBitsRadish | notBitsRadish | shlRadish | shrRadish
    | sarRadish | rotlRadish | popcRadish | clzRadish | ctzRadish | brevRadish | bfeRadish | bfiRadish | movLaneRadish
    | moviRadish | leaRadish | iaddiRadish | saddRadish | ssubRadish | smulRadish | sandRadish | sorRadish |
    sxorRadish | sshlRadish | sshrRadish | scmpRadish | smovRadish | smoviRadish | sleaRadish | vtosRadish |
    stovRadish | sminRadish | smaxRadish | faddRadish | fsubRadish | fmulRadish | ffmaRadish | fminRadish | fmaxRadish
    | fabsRadish | fnegRadish | fcmpRadish | fclassRadish | fdivRadish | fsqrtRadish | frndRadish | fldexpRadish |
    fexpoRadish | fsgnjRadish | frcpRadish | frsqRadish | fex2Radish | flg2Radish | fsinRadish | fcosRadish |
    ftanhRadish | cvtRadish | cvtiRadish | packRadish | unpkRadish | qhistRadish | qscaleRadish | quantRadish |
    deqRadish | qclrRadish | shflRadish | shfluRadish | shfldRadish | shflxRadish | voteRadish | reduRadish |
    scanLanesRadish | matchLanesRadish | bcastRadish | firstLaneRadish | ldGlobalRadish | stGlobalRadish | ldxRadish |
    stxRadish | ldsRadish | stsRadish | ldpRadish | stpRadish | stnRadish | srsetRadish | ataddRadish | atminRadish |
    atmaxRadish | atandRadish | atorRadish | atxorRadish | atxchRadish | atcasRadish | redaddRadish | redminRadish |
    redmaxRadish | fenceRadish | ofenceRadish | rflushRadish | rinvRadish | pfetchRadish | locateRadish | reparkRadish
    | unparkRadish | objdefRadish | objdelRadish | pcommitRadish | pdecommitRadish | allocBlockRadish |
    freeBlockRadish | pqueryRadish | tcopyRadish | tcopymRadish | chainRadish | bbinitRadish | bbexpRadish |
    bbwaitRadish | bbinvRadish | bbarrRadish | rinitRadish | racqRadish | rpubRadish | rtakeRadish | rdoneRadish |
    rcloseRadish | spushRadish =>
    refine readsBack_of_radishWord rfl rfl ?_
    simp (disch := decide) only [decodeRadish, opcodeOf, fld, BitVec.extractLsb'_append_eq_of_le, BitVec.extractLsb'_append_eq_of_add_le,
      Nat.reduceSub, BitVec.extractLsb'_eq_self, BitVec.toNat_ofNat, Nat.reducePow, Nat.reduceMod, Nat.reduceDiv,
      bit, getLsbD_append_of_le, getLsbD_append_of_lt, getLsbD_ofBool_zero,
      decodeRadish0, decodeRadish1, decodeRadish2, decodeRadish3, decodeRadish4, decodeRadish5, decodeRadish6, decodeRadish7, decodeRadish8, decodeRadish9, decodeRadishA, decodeRadishB, decodeRadishC, decodeRadishD,
      radUpper_append, radMode_append, radHint_append, radImm_append, noHint_append, noImm_append, noLow_append,
      reqd, and_true, true_and, BitVec.ofNat_eq_ofNat, beq_self_eq_true, Bool.and_self, if_true, ne_eq, reduceCtorEq, not_false_eq_true, and_self, OfNat.ofNat_ne_zero, Nat.reduceEqDiff, not_false]
  all_goals exact absurd h Bool.false_ne_true

theorem readsBack_of_wellFormed (i : Instr) (hwf : WellFormed i = true) (hw : encodeWords i ≠ []) : ReadsBack i := by
  cases hform : isRadishForm i with
  | true => exact readsBack_of_isRadishForm i hwf hform
  | false => exact readsBack_of_isMarrowForm i hwf (by simp [isMarrowForm, hform, hw])

/-- Settles O57: every field stands where its layout puts it, so the words of an instruction read back, and so do its bytes. -/
theorem decodingReadsBackEveryEncoding : Obligations.DecodingReadsBackEveryEncoding := readsBack_of_wellFormed

end Sys2Proof.Machine

/-! Integer, logic, move and scalar instructions (R116, R120 to R122): what each meaning writes to its lanes or its scalar register,
then what each instruction does in both encodings. -/
namespace Sys2Proof.Machine

/-! ### Integer arithmetic (R116) -/

/-- No lane that SEL reads is poisoned: its first source where the guard holds, its second elsewhere (R116, R318). -/
def selReadsClean (a b : VReg) (c : Ctx) (g : Group) : Prop :=
  g.poisAt c.ty a.toNat (activeMask g c.mode c.em) = false ∧
    g.poisAt c.ty b.toNat (c.em &&& ~~~(activeMask g c.mode c.em)) = false

theorem selB_of_clean {d a b : VReg} {c : Ctx} {s : State} (h : selReadsClean a b c (s.grp c.gid)) :
    selB d.toNat a.toNat b.toNat c s = .done (onGrp s c fun g => g.putT c.ty d.toNat c.em fun l =>
      if (activeMask g c.mode c.em).getLsbD l then srcBits c g a l else srcBits c g b l) := by
  obtain ⟨ha, hb⟩ := h
  simp only [selB, ha, hb, Bool.or_self]
  rfl

/-- Settles O1: in each encoding the meaning is the lane operation of its table, and SEL's past its check of poison is its choice of
a lane's source. -/
theorem integerArithmeticWritesSatOfExactValue : Obligations.IntegerArithmeticWritesSatOfExactValue := by
  intro r d a b
  exact ⟨runs_both (exec_iadd d a b) (exec_iaddRadish · d a b) (intB_eq_toLanes fun _ _ _ => rfl),
    runs_both (exec_isub d a b) (exec_isubRadish · d a b) (intB_eq_toLanes fun _ _ _ => rfl),
    runs_both (exec_imul d a b) (exec_imulRadish · d a b) (intB_eq_toLanes fun _ _ _ => rfl),
    runs_both (exec_imulh d a b) (exec_imulhRadish · d a b) (intB_eq_toLanes fun _ _ _ => rfl),
    runs_both (exec_imad d a b) (exec_imadRadish · d a b) (intB_eq_toLanes fun _ _ _ => rfl),
    runs_both (exec_imin d a b) (exec_iminRadish · d a b) (intB_eq_toLanes fun _ _ _ => rfl),
    runs_both (exec_imax d a b) (exec_imaxRadish · d a b) (intB_eq_toLanes fun _ _ _ => rfl),
    runs_both (exec_iabs d a) (exec_iabsRadish · d a) (intB_eq_toLanes (b := a) fun _ _ _ => rfl),
    runs_both (exec_ineg d a) (exec_inegRadish · d a) (intB_eq_toLanes (b := a) fun _ _ _ => rfl),
    runsIf_both (exec_selLane d a b) (exec_selLaneRadish · d a b) fun _ _ => selB_of_clean⟩

/-! ### Logic and bits (R120) -/

theorem wBits_le (ty : Nat) : wBits ty ≤ 64 := by
  unfold wBits widthOf
  split <;> decide

theorem one_le_wBits (ty : Nat) : 1 ≤ wBits ty := by
  unfold wBits widthOf
  split <;> decide

theorem maxOf_lt (ty : Nat) : maxOf ty < (2 ^ 64 : Nat) := by
  have hfull : 2 ^ wBits ty ≤ 2 ^ 64 := Nat.pow_le_pow_right (by decide) (wBits_le ty)
  have hhalf : 2 ^ (wBits ty - 1) ≤ 2 ^ wBits ty := Nat.pow_le_pow_right (by decide) (Nat.sub_le _ _)
  unfold maxOf
  split <;> omega

theorem neg_lt_minOf (ty : Nat) : -(2 ^ 64 : Nat) < minOf ty := by
  have hhalf : 2 ^ (wBits ty - 1) ≤ 2 ^ 63 :=
    Nat.pow_le_pow_right (by decide) (by have := wBits_le ty; omega)
  unfold minOf
  split <;> omega

theorem minOf_le_maxOf (ty : Nat) : minOf ty ≤ maxOf ty := by
  have hhalf : 1 ≤ 2 ^ (wBits ty - 1) := Nat.one_le_two_pow
  have hfull : 1 ≤ 2 ^ wBits ty := Nat.one_le_two_pow
  unfold minOf maxOf
  split <;> omega

/-- Past 64 places a shift that saturates gives the same bound as one of 64 places. -/
theorem clampT_shift_min (ty n : Nat) (i : Int) : clampT ty (i * (2 ^ min n 64 : Nat)) = clampT ty (i * (2 ^ n : Nat)) := by
  rcases Nat.le_total n 64 with hn | hn
  · rw [Nat.min_eq_left hn]
  have hpow : ((2 ^ 64 : Nat) : Int) ≤ (2 ^ n : Nat) := Int.ofNat_le.mpr (Nat.pow_le_pow_right (by decide) hn)
  have hmax := maxOf_lt ty
  have hmin := neg_lt_minOf ty
  rw [Nat.min_eq_right hn]
  unfold clampT
  rcases Int.lt_trichotomy i 0 with hi | hi | hi
  · have h64 : i * (2 ^ 64 : Nat) ≤ -(2 ^ 64 : Nat) := by nlinarith
    have hlow : i * (2 ^ n : Nat) ≤ -(2 ^ 64 : Nat) := by nlinarith
    have := minOf_le_maxOf ty
    omega
  · rw [hi, Int.zero_mul, Int.zero_mul]
  · have h64 : (2 ^ 64 : Nat) ≤ i * (2 ^ 64 : Nat) := by nlinarith
    have hhigh : (2 ^ 64 : Nat) ≤ i * (2 ^ n : Nat) := by nlinarith
    omega

/-- What SHL writes in a lane. -/
def laneShl (a b : VReg) (c : Ctx) (g : Group) (l : Nat) : Nat :=
  if modeSat c.mode then satIn c (srcInt c g a l * (2 ^ countIn c g b l : Nat))
  else if wBits c.ty ≤ countIn c g b l then 0
  else srcBits c g a l * 2 ^ countIn c g b l % 2 ^ wBits c.ty

theorem shlOp_eq_laneShl (d a b : VReg) (c : Ctx) (g : Group) (l : Nat) :
    shlOp c.ty (modeSat c.mode) (srcBits c g a l) (srcBits c g b l) (srcBits c g d l) = laneShl a b c g l := by
  cases hsat : modeSat c.mode with
  | false => simp only [shlOp, laneShl, hsat]; rfl
  | true =>
    have hclamp := clampT_shift_min c.ty (countIn c g b l) (srcInt c g a l)
    simp only [shlOp, laneShl, satIn, satT, hsat, if_true]
    exact congrArg (wrapT c.ty) hclamp

/-- BFE and BFI read their control word from one register of b. -/
theorem fieldB_eq_toLanes {op : LaneOp} {d a b : VReg} {f : Ctx → Group → Nat → Nat}
    (h : ∀ c g l, op c.ty (modeSat c.mode) (srcBits c g a l) (g.vl b.toNat l).toNat (srcBits c g d l) = f c g l)
    (c : Ctx) (s : State) : fieldB op d.toNat a.toNat b.toNat c s = .done (onGrp s c (toLanes d f c)) :=
  congrArg Act.done (onGrp_congr s c (congrArg ((s.grp c.gid).putT c.ty d.toNat c.act) (funext (h c (s.grp c.gid)))))

/-- Settles O4: in each encoding the meaning is the lane operation of its table. -/
theorem logicAndBitResults : Obligations.LogicAndBitResults := by
  intro r d a b
  exact ⟨runs_both (exec_andBits d a b) (exec_andBitsRadish · d a b) (intB_eq_toLanes fun _ _ _ => rfl),
    runs_both (exec_orBits d a b) (exec_orBitsRadish · d a b) (intB_eq_toLanes fun _ _ _ => rfl),
    runs_both (exec_xorBits d a b) (exec_xorBitsRadish · d a b) (intB_eq_toLanes fun _ _ _ => rfl),
    runs_both (exec_notBits d a) (exec_notBitsRadish · d a) (intB_eq_toLanes (b := a) fun _ _ _ => rfl),
    runs_both (exec_shl d a b) (exec_shlRadish · d a b) (intB_eq_toLanes (shlOp_eq_laneShl d a b)),
    runs_both (exec_shr d a b) (exec_shrRadish · d a b) (intB_eq_toLanes fun _ _ _ => rfl),
    runs_both (exec_sar d a b) (exec_sarRadish · d a b) (intB_eq_toLanes fun _ _ _ => rfl),
    runs_both (exec_rotl d a b) (exec_rotlRadish · d a b) (intB_eq_toLanes fun _ _ _ => rfl),
    runs_both (exec_popc d a) (exec_popcRadish · d a) (intB_eq_toLanes (b := a) fun _ _ _ => rfl),
    runs_both (exec_clz d a) (exec_clzRadish · d a) (intB_eq_toLanes (b := a) fun _ _ _ => rfl),
    runs_both (exec_ctz d a) (exec_ctzRadish · d a) (intB_eq_toLanes (b := a) fun _ _ _ => rfl),
    runs_both (exec_brev d a) (exec_brevRadish · d a) (intB_eq_toLanes (b := a) fun _ _ _ => rfl),
    runs_both (exec_bfe d a b) (exec_bfeRadish · d a b) (fieldB_eq_toLanes fun _ _ _ => rfl),
    runs_both (exec_bfi d a b) (exec_bfiRadish · d a b) (fieldB_eq_toLanes fun _ _ _ => rfl)⟩

/-! ### Moves, immediates and addresses (R121) -/

theorem leaB_eq (d k : VReg) (b : BitVec 3) (c : Ctx) (s : State) :
    leaB d.toNat k b c s =
      .done (onGrp s c fun g => g.putV64 d.toNat c.act fun l => BitVec.ofNat 64 (effAddr g b k c.imm l)) := by
  simp only [leaB, effAddr, BitVec.ofNat_toNat, BitVec.setWidth_eq]

theorem immOf_rad_of_lit {x : RImm} {v : DWord} (h : x.lit = some v) : immOf (.rad x) none = v := by
  simp only [immOf, h]

theorem immOf_rad_of_none {x : RImm} (h : x.lit = none) : immOf (.rad x) none = x.imm.signExtend 64 := by
  simp only [immOf, h]

/-- Settles O5: each meaning is its effect on the group, and an immediate is read where its form says. -/
theorem moveAndAddressResults : Obligations.MoveAndAddressResults := by
  refine ⟨fun r d a => runs_both (exec_movLane d a) (exec_movLaneRadish · d a) (intB_eq_toLanes (b := a) fun _ _ _ => rfl),
    fun d a i => ⟨runs_of_issue (exec_movi d i) fun _ _ => rfl, runs_of_issue (exec_iaddi d a i) fun _ _ => rfl⟩,
    fun w d a i => ⟨runs_of_issue (exec_moviRadish w d i) fun _ _ => rfl, runs_of_issue (exec_iaddiRadish w d a i) fun _ _ => rfl⟩,
    fun w d k b off => ⟨runs_of_issue (exec_lea d k b) (leaB_eq d k b), runs_of_issue (exec_leaRadish w d k b off) (leaB_eq d k b)⟩,
    fun b x => ⟨rfl, fun v pc => ⟨rfl, rfl, rfl⟩, rfl, immOf_rad_of_none, fun _ => immOf_rad_of_lit⟩⟩

/-! ### Scalar instructions (R122) -/

/-- VTOS has no lane to read, or the lane is not poisoned. -/
def vtosReadsClean (a : VReg) (c : Ctx) (g : Group) : Prop :=
  c.em = 0 ∨ ∃ l, lowLane c.em = some l ∧ (g.vPois a.toNat).getLsbD l = false

/-- VTOS copies the lowest lane of EM. -/
def copyLowLane (d : SReg) (a : VReg) (c : Ctx) (g : Group) : Group :=
  match lowLane c.em with
  | none => g
  | some l => g.putS d.toNat (g.vl a.toNat l)

@[simp] theorem lowLane_zero : lowLane 0 = none := by decide

/-- Two effects that agree where the condition holds. -/
theorem RunsIf.congr {i : Instr} {P : Ctx → Group → Prop} {F F' : Ctx → Group → Group} (h : RunsIf i P F)
    (hF : ∀ c g, P c g → F c g = F' c g) : RunsIf i P F' := by
  intro s gid fid hc hP
  rw [h s gid fid hc hP]
  simp only [retired, hF _ _ hP]

theorem RunsIf.or {i : Instr} {P Q : Ctx → Group → Prop} {F : Ctx → Group → Group} (h : RunsIf i P F) (h' : RunsIf i Q F) :
    RunsIf i (fun c g => P c g ∨ Q c g) F :=
  fun s gid fid hc hPQ => hPQ.elim (h s gid fid hc) (h' s gid fid hc)

section Vtos
variable {d : SReg} {a : VReg} {c : Ctx} {s : State}

theorem vtosB_of_no_lane (h : c.em = 0) : vtosB d a.toNat c s = .done s := by simp only [vtosB, h, lowLane_zero]

theorem vtosB_of_clean (h : ∃ l, lowLane c.em = some l ∧ ((s.grp c.gid).vPois a.toNat).getLsbD l = false) :
    vtosB d a.toNat c s = .done (onGrp s c (copyLowLane d a c)) := by
  obtain ⟨l, hl, hclean⟩ := h
  simp only [vtosB, hl, hclean, Bool.false_eq_true, if_false]
  refine congrArg Act.done (onGrp_congr s c ?_)
  simp only [copyLowLane, hl]

end Vtos

theorem vtos_runs (r : Option (BitVec 13)) (d : SReg) (a : VReg) :
    RunsIf (both r (.vtos d a) fun w => .vtosRadish w d a)
      (fun c g => c.em = 0 ∨ ∃ l, lowLane c.em = some l ∧ (g.vPois a.toNat).getLsbD l = false) (copyLowLane d a) := by
  refine RunsIf.or (RunsIf.congr (runsIf_nothing_both (exec_vtos d a) (exec_vtosRadish · d a) fun _ _ => vtosB_of_no_lane) ?_)
    (runsIf_both (exec_vtos d a) (exec_vtosRadish · d a) fun _ _ => vtosB_of_clean)
  intro c g hem
  simp only [copyLowLane, hem, lowLane_zero]

/-- What an instruction does in one state, whose body is an effect on its group there. -/
theorem exec_of_done {i : Instr} {s : State} {gid fid : Nat} {body : Ctx → State → Act} {F : Ctx → Group → Group}
    (h : exec i s = issue s (describe s i) body) (hb : ∀ c t, body c t = .done (onGrp t c (F c))) (hc : CanIssue s gid fid i) :
    exec i s = .next (retired s gid fid i F) := by
  have hfinish : exec i s =
      .next (finish (ctxOf s gid fid i) (ctxOf s gid fid i).act (body (ctxOf s gid fid i) (entered s gid i))) := by
    obtain ⟨hcur, hf, hp, hq⟩ := hc
    rw [h, issue, hcur]
    simp only [issueFrag_eq body hf hp hq]
    rfl
  rw [hfinish, hb]
  simp only [finish, onGrp, ctxOf_gid, ctxOf_fid, modGrp_eq, grp_setGrp, setGrp_setGrp, retired, enteredGrp, entered, enter, nextPc]

/-- Whether SMOVI writes a pair is read off the state that it issues in. -/
theorem smovi_runs (d : SReg) (i : BitVec 8) (s : State) (gid fid : Nat) (hc : CanIssue s gid fid (.smovi d i)) :
    exec (.smovi d i) s = .next (retired s gid fid (.smovi d i) fun c g =>
      if s.wideLit then g.putS64 d.toNat c.imm else g.putS d.toNat (c.imm.extractLsb' 0 32)) :=
  exec_of_done (exec_smovi d i s) (fun _ _ => rfl) hc

/-- Settles O6: each meaning is its effect on the group. -/
theorem scalarResults : Obligations.ScalarResults := by
  refine ⟨fun r d a b => ⟨?_, ?_, ?_, ?_, ?_, ?_, ?_, ?_, ?_, ?_, ?_⟩, smovi_runs, ?_, ?_, vtos_runs, ?_⟩
  · exact runs_both (exec_sadd d a b) (exec_saddRadish · d a b) fun _ _ => rfl
  · exact runs_both (exec_ssub d a b) (exec_ssubRadish · d a b) fun _ _ => rfl
  · exact runs_both (exec_smul d a b) (exec_smulRadish · d a b) fun _ _ => rfl
  · exact runs_both (exec_sand d a b) (exec_sandRadish · d a b) fun _ _ => rfl
  · exact runs_both (exec_sor d a b) (exec_sorRadish · d a b) fun _ _ => rfl
  · exact runs_both (exec_sxor d a b) (exec_sxorRadish · d a b) fun _ _ => rfl
  · exact runs_both (exec_sshl d a b) (exec_sshlRadish · d a b) fun _ _ => rfl
  · exact runs_both (exec_sshr d a b) (exec_sshrRadish · d a b) fun _ _ => rfl
  · exact runs_both (exec_smin d a b) (exec_sminRadish · d a b) fun _ _ => rfl
  · exact runs_both (exec_smax d a b) (exec_smaxRadish · d a b) fun _ _ => rfl
  · exact runs_both (exec_smov d a) (exec_smovRadish · d a) fun _ _ => rfl
  · exact fun w d i => runs_of_issue (exec_smoviRadish w d i) fun _ _ => rfl
  · exact fun w d b off => ⟨runs_of_issue (exec_slea d b) fun _ _ => rfl, runs_of_issue (exec_sleaRadish w d b off) fun _ _ => rfl⟩
  · exact fun r d a => runs_both (exec_stov d a) (exec_stovRadish · d a) fun _ _ => rfl

end Sys2Proof.Machine

/-! Floating-point, special-function, conversion and quantisation instructions (R124 to R135): what each meaning writes and raises,
the special cases of the operations, then what each instruction does in both encodings. -/
namespace Sys2Proof.Machine

/-! ### Lane operations that raise flags (R124, R125) -/

/-- A floating operation whose value on the group's registers is f writes f and raises its flags. -/
theorem floatB_eq_toLanesFlagged {op : FloatOp} {d a b : VReg} {f : Ctx → Group → Nat → Nat × Nat}
    (h : ∀ c g l, op (fmtOf c.ty) c.mode (srcNum c g a l) (srcNum c g b l) (srcNum c g d l) = f c g l) (c : Ctx) (s : State) :
    floatB op d.toNat a.toNat b.toNat c s = .done (onGrp s c (toLanesFlagged d f c)) := by
  obtain rfl : _ = f := funext fun c => funext fun g => funext fun l => h c g l
  rfl

/-- Settles O7: in each encoding the meaning is the operation of its table on the values that the lanes hold. -/
theorem floatArithmeticResults : Obligations.FloatArithmeticResults := by
  intro r d a b
  exact ⟨runs_both (exec_fadd d a b) (exec_faddRadish · d a b) (floatB_eq_toLanesFlagged fun _ _ _ => rfl),
    runs_both (exec_fsub d a b) (exec_fsubRadish · d a b) (floatB_eq_toLanesFlagged fun _ _ _ => rfl),
    runs_both (exec_fmul d a b) (exec_fmulRadish · d a b) (floatB_eq_toLanesFlagged fun _ _ _ => rfl),
    runs_both (exec_ffma d a b) (exec_ffmaRadish · d a b) (floatB_eq_toLanesFlagged fun _ _ _ => rfl),
    runs_both (exec_fdiv d a b) (exec_fdivRadish · d a b) (floatB_eq_toLanesFlagged fun _ _ _ => rfl),
    runs_both (exec_fsqrt d a) (exec_fsqrtRadish · d a) (floatB_eq_toLanesFlagged (b := a) fun _ _ _ => rfl),
    runs_both (exec_frnd d a) (exec_frndRadish · d a) (floatB_eq_toLanesFlagged (b := a) fun _ _ _ => rfl),
    runs_both (exec_fldexp d a b) (exec_fldexpRadish · d a b) fun _ _ => rfl,
    runs_both (exec_fexpo d a) (exec_fexpoRadish · d a) fun _ _ => rfl,
    runs_both (exec_fmin d a b) (exec_fminRadish · d a b) (floatB_eq_toLanesFlagged fun _ _ _ => rfl),
    runs_both (exec_fmax d a b) (exec_fmaxRadish · d a b) (floatB_eq_toLanesFlagged fun _ _ _ => rfl),
    runs_both (exec_fabs d a) (exec_fabsRadish · d a) fun _ _ => rfl,
    runs_both (exec_fneg d a) (exec_fnegRadish · d a) fun _ _ => rfl,
    runs_both (exec_fsgnj d a b) (exec_fsgnjRadish · d a b) fun _ _ => rfl⟩

/-! ### Special cases of the operations (R125) -/

section SpecialCases
variable (F : Fmt) (rm : Nat) (ftz n k : Bool) (e : Int) {m : Nat}

theorem fAdd_inf_opposite : fAdd F rm ftz (.inf n) (.inf (!n)) = (F.nanBits, 1) := by cases n <;> rfl

theorem fAdd_inf_equal : fAdd F rm ftz (.inf n) (.inf n) = (F.signBit n + F.infBits, 0) := by cases n <;> rfl

theorem fFma_zero_inf (x : Num) : fFma F rm ftz (.fin n 0 e) (.inf k) x = (F.nanBits, 1) := rfl

theorem fDiv_by_zero (hm : m ≠ 0) :
    fDiv F rm ftz (.fin n m e) (.fin k 0 e) = (F.signBit (n != k) + F.infBits, 2) := if_neg hm

theorem fSqrt_negative (hm : m ≠ 0) : fSqrt F rm ftz (.fin true m e) = (F.nanBits, 1) := if_neg hm

theorem fMinMax_nan_nan (mx : Bool) :
    fMinMax F mx (.nan n) (.nan k) = (F.nanBits, if n || k then 1 else 0) := by cases n <;> cases k <;> rfl

end SpecialCases

/-- Settles O8: each operation's first branches are its special cases. -/
theorem floatSpecialCasesGiveNanInfinityAndFlags : Obligations.FloatSpecialCasesGiveNanInfinityAndFlags := by
  intro F rm ftz n k m e hm
  exact ⟨fAdd_inf_opposite F rm ftz n, fAdd_inf_equal F rm ftz n, rfl, rfl, fFma_zero_inf F rm ftz n k e,
    fDiv_by_zero F rm ftz n k e hm, rfl, rfl, rfl, fSqrt_negative F rm ftz e hm, rfl, rfl, rfl, rfl, rfl,
    fMinMax_nan_nan F n k, fun _ => rfl, fun _ => rfl⟩

/-! ### Comparison and class (R126, R127) -/

theorem isSig_of_number {a : Num} (h : a.isNan = false) : a.isSig = false := by
  cases a with
  | nan _ => exact nomatch h
  | inf _ => rfl
  | fin _ _ _ => rfl

/-- Of two numbers, FCMP gives the ordered comparison and raises nothing. -/
theorem fCmpOk_of_numbers {a b : Num} (ha : a.isNan = false) (hb : b.isNan = false) :
    fCmpOk 0 a b = (decide (fCmp a b = 0), 0) ∧ fCmpOk 1 a b = (decide (fCmp a b ≠ 0), 0) ∧
    fCmpOk 2 a b = (decide (fCmp a b < 0), 0) ∧ fCmpOk 3 a b = (decide (fCmp a b ≤ 0), 0) ∧
    fCmpOk 4 a b = (decide (fCmp a b > 0), 0) ∧ fCmpOk 5 a b = (decide (fCmp a b ≥ 0), 0) ∧ fCmpOk 6 a b = (false, 0) := by
  have hsig : sigNv a b = 0 := by simp only [sigNv, isSig_of_number ha, isSig_of_number hb, Bool.or_self, Bool.false_eq_true, if_false]
  simp only [fCmpOk, ha, hb, hsig, Bool.or_self, Bool.not_false, Bool.true_and, Bool.false_or, Bool.false_eq_true, if_false, and_true]
  exact ⟨congrArg (·, 0) (beq_eq_decide _ _), congrArg (·, 0) (by rw [bne, beq_eq_decide, decide_not])⟩

/-- With a NaN, ne and uo hold and no other condition; lt, le, gt and ge raise NV, as a signalling NaN does under each. -/
theorem fCmpOk_of_nan {a b : Num} {k : Nat} (h : a.isNan = true ∨ b.isNan = true) (hk : k < 7) :
    (fCmpOk k a b).1 = decide (k = 1 ∨ k = 6) ∧
      (fCmpOk k a b).2 = if (2 ≤ k ∧ k ≤ 5) ∨ a.isSig ∨ b.isSig then 1 else 0 := by
  have hnan : (a.isNan || b.isNan) = true := (Bool.or_eq_true _ _).mpr h
  interval_cases k <;> simp [fCmpOk, hnan, sigNv]

/-- Settles O9: FCMP is its table on the values that the lanes hold, FCLASS its mask on their bits. -/
theorem floatCompareAndClassResults : Obligations.FloatCompareAndClassResults :=
  ⟨fun _ cond p a b => runs_both (exec_fcmp cond p a b) (exec_fcmpRadish · cond p a b) fun _ _ => rfl,
    fun _ _ => fCmpOk_of_numbers, fun _ _ _ => fCmpOk_of_nan,
    fun _ d a => runs_both (exec_fclass d a) (exec_fclassRadish · d a) fun _ _ => rfl⟩

/-! ### Special functions (R128) -/

/-- The results of the special-function unit, one a lane; none in a lane that is not active. -/
def sfuLanes (fn : Nat) (a : VReg) (c : Ctx) (g : Group) : List (Nat × Nat) :=
  lanes.map fun l => if c.act.getLsbD l then sfuLane fn c.ty (modeFtz c.mode) (srcBits c g a l) else (0, 0)

/-- A result enters the queue behind the others; its flags are raised. -/
def enterSfu (fn : Nat) (d a : VReg) (c : Ctx) (g : Group) : Group :=
  { (g.raise ((sfuLanes fn a c g).foldl (fun n p => Nat.lor n p.2) 0)) with
    sfu := g.sfu ++ [⟨d.toNat, c.act, (sfuLanes fn a c g).map fun p => BitVec.ofNat 32 p.1, none⟩] }

/-- What R128 says of an instruction of the unit. -/
def SfuEnters (i : Instr) (fn : Nat) (d a : VReg) : Prop :=
  RunsIf i (fun c g => c.act ≠ 0 ∧ g.sfu.length < 16) (enterSfu fn d a) ∧
    RunsIf i (fun c _ => c.act = 0) (fun _ g => g) ∧
    WaitsIf i (fun c s => c.act ≠ 0 ∧ 16 ≤ (s.grp c.gid).sfu.length) (fun _ _ => .sfu)

section Sfu
variable {fn : Nat} {d a : VReg} {c : Ctx} {s : State}

theorem sfuB_of_room (h : c.act ≠ 0 ∧ (s.grp c.gid).sfu.length < 16) :
    sfuB fn d.toNat a.toNat c s = .done (onGrp s c (enterSfu fn d a c)) := by
  obtain ⟨hact, hroom⟩ := h
  simp only [sfuB, if_neg hact, if_neg (Nat.not_le.mpr hroom)]
  exact congrArg Act.done (onGrp_congr s c rfl)

theorem sfuB_of_no_lane (h : c.act = 0) : sfuB fn d.toNat a.toNat c s = .done s := if_pos h

theorem sfuB_of_full (h : c.act ≠ 0 ∧ 16 ≤ (s.grp c.gid).sfu.length) : sfuB fn d.toNat a.toNat c s = .wait s .sfu := by
  obtain ⟨hact, hfull⟩ := h
  simp only [sfuB, if_neg hact, if_pos hfull]

theorem sfuEnters_both {r : Option (BitVec 13)} {m : Instr} {f : BitVec 13 → Instr}
    (h0 : ∀ s, exec m s = issue s (describe s m) (sfuB fn d.toNat a.toNat))
    (h1 : ∀ w s, exec (f w) s = issue s (describe s (f w)) (sfuB fn d.toNat a.toNat)) : SfuEnters (both r m f) fn d a :=
  ⟨runsIf_both h0 h1 fun _ _ => sfuB_of_room, runsIf_nothing_both h0 h1 fun _ _ => sfuB_of_no_lane,
    waitsIf_both h0 h1 fun _ _ => sfuB_of_full⟩

end Sfu

/-- Settles O10: the seven instructions are one meaning at seven functions. -/
theorem specialFunctionResultsEnterTheQueue : Obligations.SpecialFunctionResultsEnterTheQueue := by
  intro r d a lane F all
  have hall : ∀ p ∈ all, SfuEnters p.2 p.1 d a := by
    simp only [all, List.forall_mem_cons]
    exact ⟨sfuEnters_both (exec_frcp d a) (exec_frcpRadish · d a), sfuEnters_both (exec_frsq d a) (exec_frsqRadish · d a),
      sfuEnters_both (exec_fex2 d a) (exec_fex2Radish · d a), sfuEnters_both (exec_flg2 d a) (exec_flg2Radish · d a),
      sfuEnters_both (exec_fsin d a) (exec_fsinRadish · d a), sfuEnters_both (exec_fcos d a) (exec_fcosRadish · d a),
      sfuEnters_both (exec_ftanh d a) (exec_ftanhRadish · d a), fun _ h => absurd h List.not_mem_nil⟩
  exact hall

/-! ### Conversions (R129 to R131) -/

theorem convert_integers {src ty : Nat} (rm : Nat) (ftz sat : Bool) (v : Nat) (hty : isFloat ty = false) (hsrc : isFloat src = false) :
    convert src ty rm ftz sat v = (satT ty sat (intOf src v), 0) := by
  simp only [convert, hty, hsrc, Bool.false_eq_true, if_false]

/-- The quiet NaN of f32 converts to the integer 0 with NV. -/
theorem convert_nan_to_integer {ty : Nat} (rm : Nat) (sat : Bool) (hty : isFloat ty = false) :
    convert 2 ty rm false sat 0x7FC0_0000 = (0, 1) := by
  have hnan : unpack (fmtOf 2) false 0x7FC0_0000 = .nan false := by decide
  have hsrc : isFloat 2 = true := rfl
  simp only [convert, hty, hsrc, hnan, Bool.false_eq_true, if_false, if_true, floatToInt]

/-- Settles O11: in each encoding the meaning is `convert` on what the lanes hold; of integers that is Sat. -/
theorem conversionResults : Obligations.ConversionResults := by
  intro r d a b src
  exact ⟨runs_both (exec_cvt d a src) (exec_cvtRadish · d a src) fun _ _ => rfl,
    runs_both (exec_cvti d a src) (exec_cvtiRadish · d a src) fun _ _ => rfl,
    runs_both (exec_pack d a b) (exec_packRadish · d a b) fun _ _ => rfl,
    runs_both (exec_unpk d a) (exec_unpkRadish · d a) fun _ _ => rfl,
    fun _ v rm ftz hty hsrc => ⟨convert_integers rm ftz true v hty hsrc, convert_integers rm ftz false v hty hsrc⟩,
    fun _ rm sat _ hty => ⟨rfl, convert_nan_to_integer rm sat hty⟩⟩

/-! ### Quantisation (R132 to R135) -/

/-- The control word of QHIST and QSCALE: that of the lowest active lane. -/
def ctlWord (b : VReg) (c : Ctx) (g : Group) : Nat := (g.vl b.toNat ((lowLane c.act).getD 0)).toNat

/-- The histogram and the control word that QHIST and QSCALE read are not poisoned. -/
def histReadsClean (h b : VReg) (c : Ctx) (g : Group) : Prop :=
  histPois g h.toNat = false ∧ ∃ l, lowLane c.act = some l ∧ (g.vPois b.toNat).getLsbD l = false

/-- QHIST counts the active lanes in the bins. -/
def countBins (d a b : VReg) (c : Ctx) (g : Group) : Group :=
  let ix := (lanesOf c.act).map fun l => histIx (g.vl a.toNat l).toNat (bits (ctlWord b c g) 0 8)
  (setHist g d.toNat fun i => min (histBin g d.toNat i + (ix.filter (· == some i)).length) 0xFFFF_FFFF).raise
    (if ix.any (·.isNone) then 1 else 0)

/-- QSCALE writes its scale to the active lanes. -/
def writeScale (d a b : VReg) (c : Ctx) (g : Group) : Group :=
  g.putV d.toNat c.act fun _ => BitVec.ofNat 32 (qscaleOf (histBin g a.toNat) (bits (ctlWord b c g) 0 8)
    (bits (ctlWord b c g) 10 11) (fmtWidth (bits (ctlWord b c g) 8 2)) + bits (ctlWord b c g) 8 2 * 256)

section Quantise
variable {d a b : VReg} {c : Ctx} {s : State}

theorem qhistB_of_clean (h : histReadsClean d b c (s.grp c.gid)) :
    qhistB d.toNat a.toNat b.toNat c s = .done (onGrp s c (countBins d a b c)) := by
  obtain ⟨hhist, l, hl, hctl⟩ := h
  simp only [qhistB, hl, hhist, ctlPois, hctl, Bool.or_self, Bool.false_eq_true, if_false]
  refine congrArg Act.done (onGrp_congr s c ?_)
  simp only [countBins, ctlWord, hl, Option.getD_some]

theorem qhistB_of_no_lane (h : lowLane c.act = none) : qhistB d.toNat a.toNat b.toNat c s = .done s := by
  simp only [qhistB, h]

theorem qscaleB_of_clean
    (h : histPois (s.grp c.gid) a.toNat = false ∧
      (∃ l, lowLane c.act = some l ∧ ((s.grp c.gid).vPois b.toNat).getLsbD l = false) ∧
      bits (ctlWord b c (s.grp c.gid)) 10 11 ≤ 1024) :
    qscaleB d.toNat a.toNat b.toNat c s = .done (onGrp s c (writeScale d a b c)) := by
  obtain ⟨hhist, ⟨l, hl, hctl⟩, hq⟩ := h
  simp only [ctlWord, hl, Option.getD_some] at hq
  simp only [qscaleB, hl, hhist, ctlPois, hctl, Bool.or_self, Bool.false_eq_true, if_false, gt_iff_lt, if_neg (Nat.not_lt.mpr hq)]
  refine congrArg Act.done (onGrp_congr s c ?_)
  simp only [writeScale, ctlWord, hl, Option.getD_some]

theorem qscaleB_of_bad_count
    (h : histPois (s.grp c.gid) a.toNat = false ∧
      (∃ l, lowLane c.act = some l ∧ ((s.grp c.gid).vPois b.toNat).getLsbD l = false) ∧
      1024 < bits (ctlWord b c (s.grp c.gid)) 10 11) :
    qscaleB d.toNat a.toNat b.toNat c s = .fault s (flt 1 4) := by
  obtain ⟨hhist, ⟨l, hl, hctl⟩, hq⟩ := h
  simp only [ctlWord, hl, Option.getD_some] at hq
  simp only [qscaleB, hl, hhist, ctlPois, hctl, Bool.or_self, Bool.false_eq_true, if_false, gt_iff_lt, if_pos hq]

end Quantise

/-- Settles O12: each meaning takes the branch that its lanes, its poison and its count select. -/
theorem quantisationResults : Obligations.QuantisationResults := by
  intro r d a b
  exact ⟨runs_both (exec_qclr d) (exec_qclrRadish · d) fun _ _ => rfl,
    runsIf_both (exec_qhist d a b) (exec_qhistRadish · d a b) fun _ _ => qhistB_of_clean,
    runsIf_nothing_both (exec_qhist d a b) (exec_qhistRadish · d a b) fun _ _ => qhistB_of_no_lane,
    runsIf_both (exec_qscale d a b) (exec_qscaleRadish · d a b) fun _ _ => qscaleB_of_clean,
    faultsIf_both (exec_qscale d a b) (exec_qscaleRadish · d a b) fun _ _ => qscaleB_of_bad_count,
    runs_both (exec_quant d a b) (exec_quantRadish · d a b) fun _ _ => rfl,
    runs_both (exec_deq d a b) (exec_deqRadish · d a b) fun _ _ => rfl⟩

end Sys2Proof.Machine

/-! Cross-lane instructions (R136 to R141): what a move, a vote, a reduction, a scan and a match write, then what each instruction
does in both encodings. -/
namespace Sys2Proof.Machine

/-! ### Moves between lanes (R136, R137) -/

theorem poisAt_of_cleanReg {a : VReg} {c : Ctx} {g : Group} (m : Lanes) (h : cleanReg a c g) :
    g.poisAt c.ty a.toNat m = false := by
  obtain ⟨hlow, hhigh⟩ := h
  cases hty : is64 c.ty with
  | false => simp [Group.poisAt, hlow, hty]
  | true => simp [Group.poisAt, hlow, hhigh hty]

theorem extractLsb'_zeroExtend_word (w : Word) : (w.zeroExtend 64).extractLsb' 0 32 = w := by
  apply BitVec.eq_of_toNat_eq
  simp only [BitVec.extractLsb'_toNat, BitVec.truncate_eq_setWidth, BitVec.toNat_setWidth, Nat.shiftRight_zero]
  have := w.isLt
  omega

/-- Raw bits written as they are read: a whole register, or a pair under a 64-bit type. -/
theorem putRaw_rawBits (g : Group) (ty d a : Nat) (m : Lanes) (k : Nat → Nat) :
    putRaw g ty d m (fun l => rawBits g ty a (k l)) =
      if is64 ty then g.putV64 d m fun l => g.vl64 a (k l) else g.putV d m fun l => g.vl a (k l) := by
  cases hty : is64 ty <;> simp [putRaw, rawBits, hty, extractLsb'_zeroExtend_word]

theorem moveB_of_clean {d a : VReg} {src : Ctx → Group → Nat → Option Nat} {c : Ctx} {s : State}
    (h : cleanReg a c (s.grp c.gid)) : moveB (src c) d.toNat a.toNat c s = .done (onGrp s c (movesFrom d a src c)) := by
  simp only [moveB, poisAt_of_cleanReg _ h, Bool.false_eq_true, if_false]
  exact congrArg Act.done (onGrp_congr s c (putRaw_rawBits _ _ _ _ _ _))

/-- An instruction whose meaning is a move from the source lanes src. -/
theorem move_runs {i : Instr} {body : Ctx → State → Act} {d a : VReg} {src : Ctx → Group → Nat → Option Nat}
    (h : ∀ s, exec i s = issue s (describe s i) body) (hb : ∀ c s, body c s = moveB (src c) d.toNat a.toNat c s) :
    RunsIf i (cleanReg a) (movesFrom d a src) :=
  runsIf_of_issue h fun c s hclean => (hb c s).trans (moveB_of_clean hclean)

theorem move_runs_both {r : Option (BitVec 13)} {m : Instr} {f : BitVec 13 → Instr} {body : Ctx → State → Act} {d a : VReg}
    {src : Ctx → Group → Nat → Option Nat} (h0 : ∀ s, exec m s = issue s (describe s m) body)
    (h1 : ∀ w s, exec (f w) s = issue s (describe s (f w)) body)
    (hb : ∀ c s, body c s = moveB (src c) d.toNat a.toNat c s) : RunsIf (both r m f) (cleanReg a) (movesFrom d a src) :=
  runsIf_both h0 h1 fun c s hclean => (hb c s).trans (moveB_of_clean hclean)

theorem bits_zero_five (v : Nat) : bits v 0 5 = v % 32 := by simp [bits]

/-- Settles O13: every shuffle is one move, from the source lanes that its table gives. -/
theorem shufflesReadActiveSourceLanes : Obligations.ShufflesReadActiveSourceLanes := by
  refine ⟨fun r d a b => ⟨move_runs_both (exec_shfl d a b) (exec_shflRadish · d a b) fun c s => ?_,
    move_runs_both (exec_firstLane d a) (exec_firstLaneRadish · d a) fun _ _ => rfl⟩, ?_⟩
  · simp only [shflB, bits_zero_five]
  rintro i d a src (⟨⟨n, rfl⟩ | ⟨w, n, rfl⟩, rfl⟩ | ⟨⟨n, rfl⟩ | ⟨w, n, rfl⟩, rfl⟩ | ⟨⟨n, rfl⟩ | ⟨w, n, rfl⟩, rfl⟩ |
    ⟨⟨n, rfl⟩ | ⟨w, n, rfl⟩, rfl⟩)
  · exact move_runs (exec_shflu d a n) fun _ _ => rfl
  · exact move_runs (exec_shfluRadish w d a n) fun _ _ => rfl
  · exact move_runs (exec_shfld d a n) fun _ _ => rfl
  · exact move_runs (exec_shfldRadish w d a n) fun _ _ => rfl
  · exact move_runs (exec_shflx d a n) fun _ _ => rfl
  · exact move_runs (exec_shflxRadish w d a n) fun _ _ => rfl
  · exact move_runs (exec_bcast d a n) fun _ _ => rfl
  · exact move_runs (exec_bcastRadish w d a n) fun _ _ => rfl

/-! ### Votes, reductions, scans and matches (R138 to R141) -/

/-- VOTE's result: whether all hold, whether any holds, or the ballot. -/
def voteResult (p : BitVec 3) (c : Ctx) (g : Group) : Word :=
  if c.imm.toNat = 0 then (if g.preg p.toNat &&& c.act = c.act then 1 else 0)
  else if c.imm.toNat = 1 then (if g.preg p.toNat &&& c.act = 0 then 0 else 1)
  else g.preg p.toNat &&& c.act

theorem voteB_eq (d : SReg) (p : BitVec 3) (c : Ctx) (s : State) :
    voteB d p c s = .done (onGrp s c fun g => g.putS d.toNat (voteResult p c g)) := by
  refine congrArg Act.done (onGrp_congr s c (congrArg ((s.grp c.gid).putS d.toNat) ?_))
  unfold voteResult
  split
  case h_1 h => rw [if_pos h]
  case h_2 h => simp only [h, one_ne_zero, if_false, if_true]
  case h_3 h0 h1 => rw [if_neg h0, if_neg h1]

/-- REDU writes the reduction to the active lanes and raises its flags. -/
def reduceLanes (d a : VReg) (c : Ctx) (g : Group) : Group :=
  let t := redTree (redOp c.imm.toNat c.ty c.mode)
    (lanes.map fun l => if c.act.getLsbD l then srcBits c g a l else redIdent c.imm.toNat c.ty)
  (g.putT c.ty d.toNat c.act fun _ => t.1).raise t.2

/-- SCAN writes each active lane's prefix and raises the flags. -/
def scanPrefixes (d a : VReg) (c : Ctx) (g : Group) : Group :=
  let t := scanSteps (redOp c.imm.toNat c.ty c.mode)
    (lanes.map fun l => if c.act.getLsbD l then srcBits c g a l else redIdent c.imm.toNat c.ty)
  (g.putT c.ty d.toNat c.act fun l => t.1.getD l 0).raise t.2

section Lanes
variable {d a : VReg} {c : Ctx} {s : State}

theorem reduB_of_lanes (h : c.act ≠ 0) : reduB d.toNat a.toNat c s = .done (onGrp s c (reduceLanes d a c)) := if_neg h
theorem reduB_of_no_lane (h : c.act = 0) : reduB d.toNat a.toNat c s = .done s := if_pos h
theorem scanB_of_lanes (h : c.act ≠ 0) : scanB d.toNat a.toNat c s = .done (onGrp s c (scanPrefixes d a c)) := if_neg h
theorem scanB_of_no_lane (h : c.act = 0) : scanB d.toNat a.toNat c s = .done s := if_pos h

end Lanes

/-- An instruction that does nothing with no active lane, and else has an effect on its group. -/
theorem runsIf_by_lanes {i : Instr} {body : Ctx → State → Act} {F : Ctx → Group → Group}
    (h : ∀ s, exec i s = issue s (describe s i) body) (hnone : ∀ c s, c.act = 0 → body c s = .done s)
    (hsome : ∀ c s, c.act ≠ 0 → body c s = .done (onGrp s c (F c))) :
    RunsIf i (fun c _ => c.act = 0) (fun _ g => g) ∧ RunsIf i (fun c _ => c.act ≠ 0) F :=
  ⟨runsIf_nothing h hnone, runsIf_of_issue h hsome⟩

theorem zeroExtend_word_beq (x y : Word) : (x.zeroExtend 64 == y.zeroExtend 64) = (x == y) := by
  rw [Bool.eq_iff_iff, beq_iff_eq, beq_iff_eq]
  refine ⟨fun h => ?_, congrArg _⟩
  rw [← extractLsb'_zeroExtend_word x, h, extractLsb'_zeroExtend_word]

theorem rawBits_beq (g : Group) (ty a j l : Nat) :
    (rawBits g ty a j == rawBits g ty a l) = if is64 ty then g.vl64 a j == g.vl64 a l else g.vl a j == g.vl a l := by
  cases hty : is64 ty <;> simp [rawBits, hty, zeroExtend_word_beq]

/-- Settles O14: each meaning is its effect on the group; REDU and SCAN alone look whether a lane is active. -/
theorem voteReduceScanMatchResults : Obligations.VoteReduceScanMatchResults := by
  refine ⟨?_, ?_, ?_, fun r d a => runs_both (exec_matchLanes d a) (exec_matchLanesRadish · d a) fun c s => ?_⟩
  · rintro d p i (⟨n, rfl⟩ | ⟨w, n, rfl⟩)
    · exact runs_of_issue (exec_vote d p n) (voteB_eq d p)
    · exact runs_of_issue (exec_voteRadish w d p n) (voteB_eq d p)
  · rintro d a i (⟨n, rfl⟩ | ⟨w, n, rfl⟩)
    · exact runsIf_by_lanes (exec_redu d a n) (fun _ _ => reduB_of_no_lane) fun _ _ => reduB_of_lanes
    · exact runsIf_by_lanes (exec_reduRadish w d a n) (fun _ _ => reduB_of_no_lane) fun _ _ => reduB_of_lanes
  · rintro d a i (⟨n, rfl⟩ | ⟨w, n, rfl⟩)
    · exact runsIf_by_lanes (exec_scanLanes d a n) (fun _ _ => scanB_of_no_lane) fun _ _ => scanB_of_lanes
    · exact runsIf_by_lanes (exec_scanLanesRadish w d a n) (fun _ _ => scanB_of_no_lane) fun _ _ => scanB_of_lanes
  · simp only [matchB, rawBits_beq]

end Sys2Proof.Machine

/-! Branches, calls, returns, loops, divergence and joins (R52, R85 to R91): what each meaning does in each of its cases, then what each
instruction does in both encodings. -/
namespace Sys2Proof.Machine

/-! ### Branches, calls and returns (R85, R86, R88 to R90) -/

theorem target_eq_targetOf (c : Ctx) : target c c.imm = targetOf c := rfl

section Branches
variable {p : BitVec 3} {inv : Bool} {b : BitVec 3} {k : SReg} {c : Ctx} {s : State}

theorem brdB_of_all (h : takenLanes p inv c (s.grp c.gid) = c.em) : brdB p inv c s = .jump s (targetOf c) := if_pos h

theorem brdB_of_none (h : takenLanes p inv c (s.grp c.gid) ≠ c.em ∧ takenLanes p inv c (s.grp c.gid) = 0) :
    brdB p inv c s = .jump s (nextPc c) := by
  obtain ⟨hall, hnone⟩ := h
  exact (if_neg hall).trans (if_pos hnone)

theorem retB_of_aligned (h : ((s.grp c.gid).sreg64 (2 * b.toNat)).toNat % (if c.rad then 8 else 4) = 0) :
    retB b c s = .jump s ((s.grp c.gid).sreg64 (2 * b.toNat)) := if_neg (not_not_intro h)

theorem retB_of_misaligned (h : ((s.grp c.gid).sreg64 (2 * b.toNat)).toNat % (if c.rad then 8 else 4) ≠ 0) :
    retB b c s = .fault s (fltA 5 0 ((s.grp c.gid).sreg64 (2 * b.toNat)).toNat) := if_pos h

/-- LOOP branches while its count, less one, is not zero. -/
theorem loopB_of_more (h : 2 ≤ ((s.grp c.gid).sreg k.toNat).toNat) :
    loopB k c s = .jump (onGrp s c fun g => g.putS k.toNat (g.sreg k.toNat - 1)) (targetOf c) := by
  have hzero : (s.grp c.gid).sreg k.toNat ≠ 0 := fun h0 => by simp [h0] at h
  have hone : (s.grp c.gid).sreg k.toNat - 1 ≠ 0 := by bv_omega
  simp only [loopB, if_neg hzero, if_neg hone, target_eq_targetOf]
  exact congrArg (Act.jump · _) (onGrp_congr s c rfl)

theorem loopB_of_last (h : ((s.grp c.gid).sreg k.toNat).toNat < 2) :
    loopB k c s = .jump (onGrp s c fun g => g.putS k.toNat 0) (nextPc c) := by
  have hcount : (if (s.grp c.gid).sreg k.toNat = 0 then (s.grp c.gid).sreg k.toNat else (s.grp c.gid).sreg k.toNat - 1) = 0 := by
    split
    case isTrue h0 => exact h0
    case isFalse h0 => bv_omega
  simp only [loopB, hcount, if_true]

end Branches

/-- A fact about an instruction of both encodings whose words have fields that its meaning does not read. -/
theorem jumps_of_issue {i : Instr} {body : Ctx → State → Act} {F : Ctx → Group → Group} {pc : Ctx → Group → DWord}
    (h : ∀ s, exec i s = issue s (describe s i) body)
    (hb : ∀ c s, body c s = .jump (onGrp s c (F c)) (pc c (s.grp c.gid))) : JumpsIf i (fun _ _ => True) F pc :=
  jumpsIf_of_issue h fun c s _ => hb c s

/-- BRD whose lanes agree. -/
theorem brd_jumps {i : Instr} {p : BitVec 3} {inv : Bool} (h : ∀ s, exec i s = issue s (describe s i) (brdB p inv)) :
    JumpsIf i (fun c g => takenLanes p inv c g = c.em) (fun _ g => g) (fun c _ => targetOf c) ∧
      JumpsIf i (fun c g => takenLanes p inv c g ≠ c.em ∧ takenLanes p inv c g = 0) (fun _ g => g) (fun c _ => nextPc c) :=
  ⟨jumpsIf_nothing h fun _ _ => brdB_of_all, jumpsIf_nothing h fun _ _ => brdB_of_none⟩

theorem loop_jumps {i : Instr} {k : SReg} (h : ∀ s, exec i s = issue s (describe s i) (loopB k)) :
    JumpsIf i (fun _ g => 2 ≤ (g.sreg k.toNat).toNat) (fun _ g => g.putS k.toNat (g.sreg k.toNat - 1)) (fun c _ => targetOf c) ∧
      JumpsIf i (fun _ g => (g.sreg k.toNat).toNat < 2) (fun _ g => g.putS k.toNat 0) (fun c _ => nextPc c) :=
  ⟨jumpsIf_of_issue h fun _ _ => loopB_of_more, jumpsIf_of_issue h fun _ _ => loopB_of_last⟩

theorem ret_jumps_or_faults {i : Instr} {b : BitVec 3} (h : ∀ s, exec i s = issue s (describe s i) (retB b)) :
    JumpsIf i (fun c g => (g.sreg64 (2 * b.toNat)).toNat % (if c.rad then 8 else 4) = 0) (fun _ g => g)
        (fun _ g => g.sreg64 (2 * b.toNat)) ∧
      FaultsIf i (fun c g => (g.sreg64 (2 * b.toNat)).toNat % (if c.rad then 8 else 4) ≠ 0)
        (fun _ g => fltA 5 0 (g.sreg64 (2 * b.toNat)).toNat) :=
  ⟨jumpsIf_nothing h fun _ _ => retB_of_aligned, faultsIf_of_issue h fun _ _ => retB_of_misaligned⟩

/-- Settles O16: each meaning takes the branch that its lanes, its address or its count select. -/
theorem branchesMoveTheWholeFragment : Obligations.BranchesMoveTheWholeFragment := by
  refine ⟨?_, ?_, ?_, fun b r => ?_, ?_, ?_, fun _ _ _ _ _ => rfl⟩
  · rintro i (⟨h, off, rfl⟩ | ⟨w, h, off, rfl⟩)
    · exact jumpsIf_nothing (exec_bra h off) fun _ _ _ => rfl
    · exact jumpsIf_nothing (exec_braRadish w h off) fun _ _ _ => rfl
  · rintro p inv i (⟨h, off, rfl⟩ | ⟨w, h, off, rfl⟩)
    · exact brd_jumps (exec_brd h p inv off)
    · exact brd_jumps (exec_brdRadish w h p inv off)
  · rintro b i (⟨off, rfl⟩ | ⟨w, off, rfl⟩)
    · exact jumps_of_issue (exec_callAddr b off) fun _ _ => rfl
    · exact jumps_of_issue (exec_callAddrRadish w b off) fun _ _ => rfl
  · cases r with
    | none => exact ret_jumps_or_faults (exec_ret b)
    | some w => exact ret_jumps_or_faults (exec_retRadish w b)
  · rintro k i (⟨off, rfl⟩ | ⟨w, off, rfl⟩)
    · exact loop_jumps (exec_loopCount k off)
    · exact loop_jumps (exec_loopCountRadish w k off)
  · rintro i (⟨l, off, rfl⟩ | ⟨w, l, off, rfl⟩)
    · exact runs_nothing (exec_cpref l off) fun _ _ => rfl
    · exact runs_nothing (exec_cprefRadish w l off) fun _ _ => rfl

/-! ### Divergence (R52, R86) -/

/-- Some lanes of EM go to the target and some do not. -/
def Diverges (p : BitVec 3) (inv : Bool) (c : Ctx) (g : Group) : Prop :=
  takenLanes p inv c g ≠ c.em ∧ takenLanes p inv c g ≠ 0

section Divergence
variable {p : BitVec 3} {inv : Bool} {c : Ctx} {s : State}

theorem brdB_of_diverges (h : Diverges p inv c (s.grp c.gid)) :
    brdB p inv c s = branchTo [(targetOf c, takenLanes p inv c (s.grp c.gid)),
      (nextPc c, c.em &&& ~~~takenLanes p inv c (s.grp c.gid))] c s := by
  obtain ⟨hall, hnone⟩ := h
  exact (if_neg hall).trans (if_neg hnone)

/-- A branch to two targets looks for a record, then for room in the split table. -/
theorem branchTo_two (q r : DWord × Lanes) :
    branchTo [q, r] c s =
      if (fragOf c (s.grp c.gid)).inner.isNone then .fault s (flt 12 0)
      else if 32 ≤ tableUsed (s.grp c.gid) then .fault s (flt 13 0)
      else .stay (onGrp s c fun g => splitInto g c.fid (fragOf c g) [q, r]) := by
  have hroom : (s.grp c.gid).frags.length + (s.grp c.gid).joins.length + [q, r].length - 1 > 32 ↔
      32 ≤ tableUsed (s.grp c.gid) := by
    simp only [tableUsed, List.length_cons, List.length_nil]
    omega
  simp only [branchTo, hroom]
  rfl

theorem brdB_splits (h : takenLanes p inv c (s.grp c.gid) ≠ c.em ∧ takenLanes p inv c (s.grp c.gid) ≠ 0 ∧
      (fragOf c (s.grp c.gid)).inner.isSome = true ∧ tableUsed (s.grp c.gid) < 32) :
    brdB p inv c s = .stay (onGrp s c fun g => splitInTwo c g (takenLanes p inv c g)) := by
  obtain ⟨hall, hnone, hrec, hroom⟩ := h
  have hrec' : (fragOf c (s.grp c.gid)).inner.isNone = false := by rw [Option.isNone_eq_false_iff, hrec]
  rw [brdB_of_diverges ⟨hall, hnone⟩, branchTo_two, hrec', if_neg Bool.false_ne_true, if_neg (Nat.not_le.mpr hroom)]
  exact congrArg Act.stay (onGrp_congr s c rfl)

theorem brdB_without_record (h : takenLanes p inv c (s.grp c.gid) ≠ c.em ∧ takenLanes p inv c (s.grp c.gid) ≠ 0 ∧
      (fragOf c (s.grp c.gid)).inner = none) : brdB p inv c s = .fault s (flt 12 0) := by
  obtain ⟨hall, hnone, hrec⟩ := h
  rw [brdB_of_diverges ⟨hall, hnone⟩, branchTo_two, hrec]
  rfl

theorem brdB_of_full_table (h : takenLanes p inv c (s.grp c.gid) ≠ c.em ∧ takenLanes p inv c (s.grp c.gid) ≠ 0 ∧
      (fragOf c (s.grp c.gid)).inner.isSome = true ∧ 32 ≤ tableUsed (s.grp c.gid)) :
    brdB p inv c s = .fault s (flt 13 0) := by
  obtain ⟨hall, hnone, hrec, hfull⟩ := h
  have hrec' : (fragOf c (s.grp c.gid)).inner.isNone = false := by rw [Option.isNone_eq_false_iff, hrec]
  rw [brdB_of_diverges ⟨hall, hnone⟩, branchTo_two, hrec', if_neg Bool.false_ne_true, if_pos hfull]

end Divergence

theorem brd_splits_or_faults {i : Instr} {p : BitVec 3} {inv : Bool} (h : ∀ s, exec i s = issue s (describe s i) (brdB p inv)) :
    StaysIf i (fun c g => takenLanes p inv c g ≠ c.em ∧ takenLanes p inv c g ≠ 0 ∧ (fragOf c g).inner.isSome = true ∧ tableUsed g < 32)
      (fun c g => splitInTwo c g (takenLanes p inv c g)) ∧
    FaultsIf i (fun c g => takenLanes p inv c g ≠ c.em ∧ takenLanes p inv c g ≠ 0 ∧ (fragOf c g).inner = none)
      (fun _ _ => flt 12 0) ∧
    FaultsIf i (fun c g => takenLanes p inv c g ≠ c.em ∧ takenLanes p inv c g ≠ 0 ∧ (fragOf c g).inner.isSome = true ∧
      32 ≤ tableUsed g) (fun _ _ => flt 13 0) :=
  ⟨staysIf_of_issue h fun _ _ => brdB_splits, faultsIf_of_issue h fun _ _ => brdB_without_record,
    faultsIf_of_issue h fun _ _ => brdB_of_full_table⟩

theorem divergentBranchSplitsInTwo : DivergentBranchSplitsInTwo := by
  rintro p inv i (⟨h, off, rfl⟩ | ⟨w, h, off, rfl⟩)
  · exact brd_splits_or_faults (exec_brd h p inv off)
  · exact brd_splits_or_faults (exec_brdRadish w h p inv off)

/-! ### MARK and JOIN (R52, R91) -/

/-- MARK opens a record under the innermost one. -/
def openRecord (c : Ctx) (g : Group) : Group :=
  { g with joins := aput g.nextId ⟨targetOf c, 0, (fragOf c g).stack, (fragOf c g).inner⟩ g.joins
           nextId := g.nextId + 1 }.setFrag c.fid { fragOf c g with inner := some g.nextId }

/-- The innermost record of the fragment stands at the address of its JOIN. -/
def AtItsJoin (c : Ctx) (g : Group) : Prop :=
  ∃ j k, (fragOf c g).inner = some j ∧ afind j g.joins = some k ∧ k.target = c.pc

/-- JOIN arrives at the innermost record, and fuses the fragments if all have. -/
def arriveAtJoin (c : Ctx) (g : Group) : Group :=
  let j := ((fragOf c g).inner).getD 0
  let k := aget ⟨0, 0, [], none⟩ j g.joins
  tryFuse ({ g with joins := aput j { k with arrived := k.arrived ||| (fragOf c g).em } g.joins }.setFrag c.fid
    { fragOf c g with wait := .join j }) j (if c.rad then 8 else 4)

section MarkJoin
variable {c : Ctx} {s : State}

theorem markB_of_room (h : ((s.grp c.gid).chain (fragOf c (s.grp c.gid))).length < 8 ∧ tableUsed (s.grp c.gid) < 32) :
    markB c s = .done (onGrp s c (openRecord c)) := by
  obtain ⟨hdepth, hroom⟩ := h
  exact (if_neg (Nat.not_le.mpr hdepth)).trans (if_neg (by simp only [tableUsed] at hroom; omega))

theorem markB_of_deep (h : 8 ≤ ((s.grp c.gid).chain (fragOf c (s.grp c.gid))).length) : markB c s = .fault s (flt 11 2) :=
  if_pos h

theorem markB_of_full_table
    (h : ((s.grp c.gid).chain (fragOf c (s.grp c.gid))).length < 8 ∧ 32 ≤ tableUsed (s.grp c.gid)) :
    markB c s = .fault s (flt 13 0) := by
  obtain ⟨hdepth, hfull⟩ := h
  exact (if_neg (Nat.not_le.mpr hdepth)).trans (if_pos (by simp only [tableUsed] at hfull; omega))

theorem joinB_of_record {j : Nat} {k : Join} (hin : (fragOf c (s.grp c.gid)).inner = some j)
    (hrec : afind j (s.grp c.gid).joins = some k) :
    joinB c s = if k.target ≠ c.pc then .fault s (flt 12 1) else .stay (onGrp s c (arriveAtJoin c)) := by
  have hin' : ((s.grp c.gid).frag c.fid).inner = some j := hin
  have harrive : arriveAtJoin c (s.grp c.gid) = tryFuse ({ s.grp c.gid with
      joins := aput j { k with arrived := k.arrived ||| (fragOf c (s.grp c.gid)).em } (s.grp c.gid).joins }.setFrag c.fid
        { fragOf c (s.grp c.gid) with wait := .join j }) j (if c.rad then 8 else 4) := by
    simp only [arriveAtJoin, hin, Option.getD_some, aget_afind _ _ _ hrec]
  simp only [joinB, onGrp, modGrp_eq, harrive, fragOf, hin', hrec]
  rfl

theorem joinB_at_record (h : AtItsJoin c (s.grp c.gid)) : joinB c s = .stay (onGrp s c (arriveAtJoin c)) := by
  obtain ⟨j, k, hin, hrec, htarget⟩ := h
  rw [joinB_of_record hin hrec, if_neg (not_not_intro htarget)]

theorem joinB_elsewhere (h : (fragOf c (s.grp c.gid)).inner = none ∨
      ∃ j k, (fragOf c (s.grp c.gid)).inner = some j ∧ afind j (s.grp c.gid).joins = some k ∧ k.target ≠ c.pc) :
    joinB c s = .fault s (flt 12 1) := by
  rcases h with hin | ⟨j, k, hin, hrec, htarget⟩
  · have hin' : ((s.grp c.gid).frag c.fid).inner = none := hin
    simp only [joinB, hin']
  · rw [joinB_of_record hin hrec, if_pos htarget]

end MarkJoin

/-- The fragments created under a record. -/
def fragsUnder (g : Group) (j : Nat) : List (Nat × Frag) := g.frags.filter fun p => (g.chain p.2).contains j

/-- When every fragment under a record waits at its JOIN they become one, which stands behind the JOIN; the record is gone. -/
theorem tryFuse_of_all {g : Group} {j : Nat} {k : Join} {p : Nat × Frag} {q : List (Nat × Frag)} (word : Nat)
    (hrec : afind j g.joins = some k) (hunder : fragsUnder g j = p :: q)
    (hall : ((fragsUnder g j).all fun p => p.2.wait == .join j) = true) :
    (tryFuse g j word).frags = aput p.1
        ⟨(fragsUnder g j).foldl (fun m p => m ||| p.2.em) 0, k.target + BitVec.ofNat 64 word, k.stack, k.parent, .run, 0, false,
          none, none, (g.frag p.1).did + 1⟩
        (g.frags.filter fun x => !((fragsUnder g j).any fun y => y.1 == x.1)) ∧
      (tryFuse g j word).joins = adel j g.joins := by
  unfold fragsUnder at *
  simp only [hunder] at hall
  simp only [tryFuse, hrec, hunder, hall, if_true, and_self]

theorem tryFuse_of_some_elsewhere {g : Group} {j : Nat} {k : Join} (word : Nat) (hrec : afind j g.joins = some k)
    (hall : ((fragsUnder g j).all fun p => p.2.wait == .join j) = false) : tryFuse g j word = g := by
  unfold fragsUnder at hall
  cases hunder : g.frags.filter fun p => (g.chain p.2).contains j with
  | nil => rw [hunder] at hall; exact nomatch hall
  | cons p q =>
    simp only [hunder] at hall
    simp only [tryFuse, hrec, hunder, hall, Bool.false_eq_true, if_false]

theorem mark_runs_or_faults {i : Instr} (h : ∀ s, exec i s = issue s (describe s i) markB) :
    RunsIf i (fun c g => (g.chain (fragOf c g)).length < 8 ∧ tableUsed g < 32) openRecord ∧
      FaultsIf i (fun c g => 8 ≤ (g.chain (fragOf c g)).length) (fun _ _ => flt 11 2) ∧
      FaultsIf i (fun c g => (g.chain (fragOf c g)).length < 8 ∧ 32 ≤ tableUsed g) (fun _ _ => flt 13 0) :=
  ⟨runsIf_of_issue h fun _ _ => markB_of_room, faultsIf_of_issue h fun _ _ => markB_of_deep,
    faultsIf_of_issue h fun _ _ => markB_of_full_table⟩

theorem markAndJoinManageTheSplitTable : MarkAndJoinManageTheSplitTable := by
  refine ⟨?_, fun r => ⟨staysIf_both exec_joinFrags exec_joinFragsRadish fun _ _ => joinB_at_record,
    faultsIf_both exec_joinFrags exec_joinFragsRadish fun _ _ => joinB_elsewhere⟩, fun g j word k hrec => ?_⟩
  · rintro i (⟨off, rfl⟩ | ⟨w, off, rfl⟩)
    · exact mark_runs_or_faults (exec_markJoin off)
    · exact mark_runs_or_faults (exec_markJoinRadish w off)
  · exact ⟨fun _ _ => tryFuse_of_all word hrec, tryFuse_of_some_elsewhere word hrec⟩

/-- Settles O18: BRD, MARK and JOIN take the branch that their lanes, their records and the table's room select; what fusing leaves is
read off `tryFuse`. -/
theorem divergenceAndJoinsManageTheSplitTable : Obligations.DivergenceAndJoinsManageTheSplitTable :=
  ⟨divergentBranchSplitsInTwo, markAndJoinManageTheSplitTable⟩

end Sys2Proof.Machine

/-! Rules of the state that the later proofs share: what an instruction leaves when it is done, what a scalar register reads after a
write, and the two kinds of side effect that leave everything else as it was: what the device notes of an access, and events. -/
namespace Sys2Proof.Machine

/-! ### What `finish` leaves -/

section Finish
variable (c : Ctx) (m : Lanes) (s s' : State)

@[simp] theorem finish_done_mem : (finish c m (.done s')).mem = s'.mem := rfl
@[simp] theorem finish_stay_mem : (finish c m (.stay s')).mem = s'.mem := rfl
@[simp] theorem finish_wait_mem (w : Wait) : (finish c m (.wait s' w)).mem = s'.mem := rfl

theorem finish_done_grp : (finish c m (.done s')).grp c.gid = (s'.grp c.gid).retire.goto c.fid (nextPc c) := grp_modGrp _ _ _
theorem finish_stay_grp : (finish c m (.stay s')).grp c.gid = (s'.grp c.gid).retire.passOn c.fid := grp_modGrp _ _ _
theorem finish_wait_grp (w : Wait) : (finish c m (.wait s' w)).grp c.gid = (s'.grp c.gid).await c.fid w := grp_modGrp _ _ _

theorem finish_stay_grp_ne {k : Nat} (h : k ≠ c.gid) : (finish c m (.stay s')).grp k = s'.grp k := grp_modGrp_ne _ h _

variable {s s'}

/-- An instruction that is done has gone on behind itself. -/
theorem wentOn_done (h : (s'.grp c.gid).retired = (s.grp c.gid).retired) : WentOn c s (finish c m (.done s')) := by
  rw [WentOn, finish_done_grp]
  exact ⟨goto_frag _ _ _, congrArg (· + 1) h⟩

theorem sameRegs_done (h : SameRegs (s.grp c.gid) (s'.grp c.gid)) :
    SameRegs (s.grp c.gid) ((finish c m (.done s')).grp c.gid) := by
  rw [finish_done_grp]
  exact h

theorem sameSpecials_done (h : SameSpecials (s.grp c.gid) (s'.grp c.gid)) :
    SameSpecials (s.grp c.gid) ((finish c m (.done s')).grp c.gid) := by
  rw [finish_done_grp]
  exact h

theorem sameRegs_wait {w : Wait} (h : SameRegs (s.grp c.gid) (s'.grp c.gid)) :
    SameRegs (s.grp c.gid) ((finish c m (.wait s' w)).grp c.gid) := by
  rw [finish_wait_grp]
  exact h

theorem await_frag (g : Group) (fid : Nat) (w : Wait) : (g.await fid w).frag fid = { g.frag fid with wait := w } :=
  frag_setFrag _ _ _

end Finish

/-! ### A scalar register and its pair after a write -/

section Scalars
variable (g : Group) (k : Nat) (w : Word) (x : DWord)

theorem sreg_setS : (g.setS k w).sreg k = if k = 0 then 0 else w := by
  unfold Group.setS Group.sreg
  split
  · rfl
  · exact aget_aset _ _ _ _

theorem sreg_setS_ne {j : Nat} (h : j ≠ k) : (g.setS k w).sreg j = g.sreg j := by
  unfold Group.setS Group.sreg
  by_cases hk : k = 0
  · rw [if_pos hk]
  · rw [if_neg hk]
    exact if_congr Iff.rfl rfl (aget_aset_ne _ h _ _)

theorem sreg_putS : (g.putS k w).sreg k = if k = 0 then 0 else w := sreg_setS g k w
theorem sreg_putS_ne {j : Nat} (h : j ≠ k) : (g.putS k w).sreg j = g.sreg j := sreg_setS_ne g k w h

theorem sreg_putS64_high : (g.putS64 k x).sreg (k + 1) = x.extractLsb' 32 32 :=
  (sreg_setS _ _ _).trans (if_neg (Nat.succ_ne_zero k))

theorem sreg_putS64_low : (g.putS64 k x).sreg k = if k = 0 then 0 else x.extractLsb' 0 32 :=
  (sreg_setS_ne _ _ _ (Nat.ne_add_one k)).trans (sreg_setS _ _ _)

theorem sreg_putS64_ne {j : Nat} (h : j ≠ k) (h1 : j ≠ k + 1) : (g.putS64 k x).sreg j = g.sreg j :=
  (sreg_setS_ne _ _ _ h1).trans (sreg_setS_ne _ _ _ h)

theorem setS_v : (g.setS k w).v = g.v := by unfold Group.setS; split <;> rfl
theorem setS_p : (g.setS k w).p = g.p := by unfold Group.setS; split <;> rfl
theorem setS_retired : (g.setS k w).retired = g.retired := by unfold Group.setS; split <;> rfl
theorem setS_specials : SameSpecials g (g.setS k w) := by
  unfold Group.setS
  split <;> exact ⟨rfl, rfl, rfl, rfl, rfl, rfl, rfl, rfl, rfl⟩

theorem SameSpecials.trans {g h k : Group} (p : SameSpecials g h) (q : SameSpecials h k) : SameSpecials g k := by
  obtain ⟨p1, p2, p3, p4, p5, p6, p7, p8, p9⟩ := p
  obtain ⟨q1, q2, q3, q4, q5, q6, q7, q8, q9⟩ := q
  exact ⟨q1.trans p1, q2.trans p2, q3.trans p3, q4.trans p4, q5.trans p5, q6.trans p6, q7.trans p7, q8.trans p8, q9.trans p9⟩

theorem putS64_v : (g.putS64 k x).v = g.v := (setS_v _ _ _).trans (setS_v _ _ _)
theorem putS64_p : (g.putS64 k x).p = g.p := (setS_p _ _ _).trans (setS_p _ _ _)
theorem putS64_retired : (g.putS64 k x).retired = g.retired := (setS_retired _ _ _).trans (setS_retired _ _ _)
theorem putS64_specials : SameSpecials g (g.putS64 k x) := (setS_specials g _ _).trans (setS_specials _ _ _)

end Scalars

/-! ### What the device notes of an access -/

/-- The second state differs in translations kept, parked lines and Shallot's counts alone. -/
def NotesOnly (s t : State) : Prop := t = { s with tlb := t.tlb, tabs := t.tabs, parks := t.parks, shallot := t.shallot }

namespace NotesOnly

theorem refl (s : State) : NotesOnly s s := rfl

theorem trans {s t u : State} (h : NotesOnly s t) (k : NotesOnly t u) : NotesOnly s u := by
  unfold NotesOnly at *
  rw [k, h]

theorem foldl {α : Type} {f : State → α → State} (h : ∀ s a, NotesOnly s (f s a)) (l : List α) (s : State) :
    NotesOnly s (l.foldl f s) := by
  induction l generalizing s with
  | nil => exact refl s
  | cons a l ih => exact (h s a).trans (ih _)

variable {s t : State} (h : NotesOnly s t)
include h

theorem eq : t = { s with tlb := t.tlb, tabs := t.tabs, parks := t.parks, shallot := t.shallot } := h
theorem mem : t.mem = s.mem := by rw [h.eq]
theorem hostMem : t.hostMem = s.hostMem := by rw [h.eq]
theorem grp (k : Nat) : t.grp k = s.grp k := by rw [h.eq]; rfl
theorem groups : t.groups = s.groups := by rw [h.eq]
theorem teams : t.teams = s.teams := by rw [h.eq]
theorem copies : t.copies = s.copies := by rw [h.eq]
theorem ord : t.ord = s.ord := by rw [h.eq]

end NotesOnly

theorem unpark_notes (s : State) (line : Nat) : NotesOnly s (s.unpark line) := rfl

theorem crossDemote_notes (s : State) (key asid : Nat) : NotesOnly s (crossDemote s key asid) := by
  unfold crossDemote
  split
  · split
    · exact unpark_notes s _
    · exact .refl s
  · exact .refl s

theorem refuseAll_notes (s : State) (asid : Nat) (keys : List Nat) : NotesOnly s (refuseAll s asid keys) :=
  NotesOnly.foldl (fun s _ => (rfl : NotesOnly s (refuse s))) _ _

theorem noteTlb_notes (s : State) (asid va leaf level : Nat) : NotesOnly s (noteTlb s asid va leaf level) := rfl

theorem noteWords_notes (s : State) (asid : Nat) (pc : DWord) (n : Nat) : NotesOnly s (s.noteWords asid pc n) := by
  refine NotesOnly.foldl (fun s i => ?_) _ _
  dsimp only
  split
  · exact ((crossDemote_notes _ _ _).trans (refuseAll_notes _ _ _)).trans (noteTlb_notes _ _ _ _ _)
  · exact .refl s

/-! ### Events -/

/-- The second state differs in its record of events alone. -/
def OrdOnly (s t : State) : Prop := t = { s with ord := t.ord }

namespace OrdOnly

theorem refl (s : State) : OrdOnly s s := rfl

theorem trans {s t u : State} (h : OrdOnly s t) (k : OrdOnly t u) : OrdOnly s u := by
  unfold OrdOnly at *
  rw [k, h]

theorem foldl {α : Type} {f : State → α → State} (h : ∀ s a, OrdOnly s (f s a)) (l : List α) (s : State) :
    OrdOnly s (l.foldl f s) := by
  induction l generalizing s with
  | nil => exact refl s
  | cons a l ih => exact (h s a).trans (ih _)

variable {s t : State} (h : OrdOnly s t)
include h

theorem eq : t = { s with ord := t.ord } := h
theorem mem : t.mem = s.mem := by rw [h.eq]
theorem hostMem : t.hostMem = s.hostMem := by rw [h.eq]
theorem grp (k : Nat) : t.grp k = s.grp k := by rw [h.eq]; rfl
theorem groups : t.groups = s.groups := by rw [h.eq]
theorem teams : t.teams = s.teams := by rw [h.eq]
theorem team (k : Nat) : t.team k = s.team k := by rw [h.eq]; rfl
theorem copies : t.copies = s.copies := by rw [h.eq]
theorem bar (tid k i : Nat) : t.bar tid k i = s.bar tid k i := by rw [h.eq]; rfl

end OrdOnly

theorem lanesEvent_ord (s : State) (gid : Nat) (ls more wmore : List Nat) :
    OrdOnly s (lanesEvent s gid ls more wmore).2 := rfl

theorem groupEvent_ord (s : State) (gid : Nat) (more : List Nat) : OrdOnly s (groupEvent s gid more).2 := rfl

theorem fragEvent_ord (c : Ctx) (s : State) (more : List Nat) : OrdOnly s (fragEvent c s more).2 := rfl

end Sys2Proof.Machine

/-! TRAP, XRET, XRD, XWR, SREAD and LIT (R66, R67, R100, R109 to R112). -/
namespace Sys2Proof.Machine

/-! ### TRAP and XRET (R109, R110) -/

theorem trapRaisesTheSoftwareTrap : TrapRaisesTheSoftwareTrap := fun _ k =>
  faultsIf_both (exec_trapCode k) (exec_trapCodeRadish · k) fun _ _ _ => rfl

/-- The handler left the predicate stack and the join records as it found them. -/
def stacksAsFound (c : Ctx) (g : Group) : Prop :=
  ∃ k st js, g.hctx = some (k, st, js) ∧ (g.frag c.fid).stack = st ∧ g.joins = js

section Xret
variable {skip : Bool} {c : Ctx} {s : State}

theorem xretB_outside (h : (s.grp c.gid).inh = false ∨ (s.grp c.gid).hctx = none) : xretB skip c s = .fault s (flt 1 5) := by
  cases hctx : (s.grp c.gid).hctx with
  | none => simp only [xretB, hctx]
  | some x =>
    have hinh : (s.grp c.gid).inh = false := h.resolve_right (by rw [hctx]; exact nofun)
    simp only [xretB, hctx, hinh, Bool.not_false, if_true]

theorem xretB_changed (hinh : (s.grp c.gid).inh = true) (hctx : (s.grp c.gid).hctx.isSome = true)
    (h : ¬stacksAsFound c (s.grp c.gid)) : xretB skip c s = .fault s (flt 11 3) := by
  obtain ⟨⟨k, st, js⟩, hctx⟩ := Option.isSome_iff_exists.1 hctx
  have hne : ((s.grp c.gid).frag c.fid).stack ≠ st || (s.grp c.gid).joins ≠ js := by
    simp only [Bool.or_eq_true, decide_eq_true_eq]
    by_contra hno
    push Not at hno
    exact h ⟨k, st, js, hctx, hno⟩
  simp only [xretB, hctx, hinh, Bool.not_true, Bool.false_eq_true, if_false]
  exact if_pos hne

/-- In a handler that kept stack and records XRET looks at the alignment of XPC. -/
theorem xretB_of_asFound (hinh : (s.grp c.gid).inh = true) (h : stacksAsFound c (s.grp c.gid)) :
    xretB skip c s = if (s.grp c.gid).xpc.toNat % (if c.rad then 8 else 4) ≠ 0 then .fault s (fltA 5 0 (s.grp c.gid).xpc.toNat)
      else .stay (onGrp (if skip then s.noteWords (s.asidOf (s.grp c.gid)) (s.grp c.gid).xpc (if c.rad then 2 else 1) else s) c
        fun g => g.xret c.fid
          (if skip then (s.grp c.gid).xpc + BitVec.ofNat 64 (wholeLen s (fetchAgent c.gid) (s.placeOf c.gid)
            (s.asidOf (s.grp c.gid)) c.rad (s.grp c.gid).xpc) else (s.grp c.gid).xpc)
          (if !skip && bits (aget 0 0 (s.grp c.gid).xrec).toNat 0 8 == 7 then some (aget 0 7 (s.grp c.gid).xrec) else none)) := by
  obtain ⟨k, st, js, hctx, hst, hjs⟩ := h
  simp only [xretB, hctx, hinh, hst, hjs, Bool.not_true, ne_eq, not_true, decide_false, Bool.or_self, Bool.false_eq_true,
    if_false]
  rfl

theorem xretB_misaligned (hinh : (s.grp c.gid).inh = true) (h : stacksAsFound c (s.grp c.gid))
    (ha : (s.grp c.gid).xpc.toNat % (if c.rad then 8 else 4) ≠ 0) :
    xretB skip c s = .fault s (fltA 5 0 (s.grp c.gid).xpc.toNat) :=
  (xretB_of_asFound hinh h).trans (if_pos ha)

/-- The lanes that a replay after a LOCATE fault serves. -/
def replayMask (g : Group) : Option Lanes := if (aget 0 0 g.xrec).toNat % 256 = 7 then some (aget 0 7 g.xrec) else none

theorem bits_zero_eight (v : Nat) : bits v 0 8 = v % 256 := congrArg (· % 256) (Nat.div_one v)

theorem replayMask_eq (g : Group) :
    (if bits (aget 0 0 g.xrec).toNat 0 8 == 7 then some (aget 0 7 g.xrec) else none) = replayMask g := by
  rw [bits_zero_eight]
  exact if_congr beq_iff_eq rfl rfl

theorem xretB_replays (hinh : (s.grp c.gid).inh = true) (h : stacksAsFound c (s.grp c.gid))
    (ha : (s.grp c.gid).xpc.toNat % (if c.rad then 8 else 4) = 0) :
    xretB false c s = .stay (onGrp s c fun g => g.xret c.fid g.xpc (replayMask g)) := by
  rw [xretB_of_asFound hinh h, if_neg (not_not_intro ha)]
  exact congrArg Act.stay (onGrp_congr s c (congrArg ((s.grp c.gid).xret c.fid (s.grp c.gid).xpc) (replayMask_eq _)))

theorem xretB_skips (hinh : (s.grp c.gid).inh = true) (h : stacksAsFound c (s.grp c.gid))
    (ha : (s.grp c.gid).xpc.toNat % (if c.rad then 8 else 4) = 0) :
    xretB true c s = .stay (onGrp (s.noteWords (s.asidOf (s.grp c.gid)) (s.grp c.gid).xpc (if c.rad then 2 else 1)) c
      fun g => g.xret c.fid ((s.grp c.gid).xpc + BitVec.ofNat 64 (wholeLen s (fetchAgent c.gid) (s.placeOf c.gid)
            (s.asidOf (s.grp c.gid)) c.rad (s.grp c.gid).xpc)) none) := by
  rw [xretB_of_asFound hinh h, if_neg (not_not_intro ha)]
  rfl

end Xret

theorem xret_leaves (g : Group) (f : Nat) (pc : DWord) (m : Option Lanes) :
    ((g.xret f pc m).frag f).em = g.xem ∧ ((g.xret f pc m).frag f).pc = pc ∧ ((g.xret f pc m).frag f).replay = m := by
  have h : (g.xret f pc m).frag f = _ := frag_setFrag _ _ _
  simp only [h, and_self]

theorem returnFromHandlerRestores : ReturnFromHandlerRestores := by
  intro r
  refine ⟨fun skip => ?_, fun skip => ?_, fun skip => ?_, ?_, ?_, fun g f pc m => ?_⟩
  · exact faultsIf_both (exec_xret skip) (exec_xretRadish · skip) fun _ _ => xretB_outside
  · exact faultsIf_both (exec_xret skip) (exec_xretRadish · skip) fun _ _ ⟨hinh, hctx, h⟩ => xretB_changed hinh hctx h
  · exact faultsIf_both (exec_xret skip) (exec_xretRadish · skip) fun _ _ ⟨hinh, h, ha⟩ => xretB_misaligned hinh h ha
  · exact staysIf_both (exec_xret false) (exec_xretRadish · false) fun _ _ ⟨hinh, h, ha⟩ => xretB_replays hinh h ha
  · refine doesIf_both (exec_xret true) (exec_xretRadish · true) fun c s ⟨hinh, h, ha⟩ => ?_
    rw [xretB_skips hinh h ha]
    refine ⟨?_, fun k hk => ?_, ?_⟩
    · rw [finish_stay_grp, onGrp, grp_modGrp, (noteWords_notes _ _ _ _).grp]
    · rw [finish_stay_grp_ne _ _ _ hk, onGrp, grp_modGrp_ne _ hk, (noteWords_notes _ _ _ _).grp]
    · exact (noteWords_notes _ _ _ _).mem
  · obtain ⟨hem, hpc, hreplay⟩ := xret_leaves g f pc m
    exact ⟨hem, rfl, hpc, rfl, rfl, ⟨rfl, rfl, rfl⟩, rfl, rfl, hreplay⟩

/-- Settles O24: XRET looks at the handler, then at stack and records, then at XPC. -/
theorem trapAndReturnFromHandler : Obligations.TrapAndReturnFromHandler :=
  ⟨trapRaisesTheSoftwareTrap, returnFromHandlerRestores⟩

end Sys2Proof.Machine

/-! Trap registers, special values and literals (R66, R67, R100, R111, R112). -/
namespace Sys2Proof.Machine

/-! ### XRD (R111) -/

theorem barIndex_tb {i : Nat} (h : 0x20 ≤ i ∧ i < 0x30) : barIndex i = some (0, i - 0x20) := if_pos h
theorem barIndex_kb {i : Nat} (h : 0x30 ≤ i ∧ i < 0x38) : barIndex i = some (1, i - 0x30) :=
  (if_neg (by omega)).trans (if_pos h)
theorem barIndex_gb {i : Nat} (h : 0x38 ≤ i ∧ i < 0x3C) : barIndex i = some (2, i - 0x38) :=
  (if_neg (by omega)).trans ((if_neg (by omega)).trans (if_pos h))
theorem barIndex_none {i : Nat} (h : i < 0x20) : barIndex i = none :=
  (if_neg (by omega)).trans ((if_neg (by omega)).trans (if_neg (by omega)))

theorem trapIndex_cases {i : Nat} (h : trapIndex i = true) :
    i < 5 ∨ (8 ≤ i ∧ i < 0x10) ∨ i = 0x10 ∨ (0x20 ≤ i ∧ i < 0x30) ∨ (0x30 ≤ i ∧ i < 0x38) ∨ (0x38 ≤ i ∧ i < 0x3C) := by
  simp only [trapIndex, Bool.or_eq_true, Bool.and_eq_true, decide_eq_true_eq] at h
  omega

theorem xrdValue_of_bar (s : State) (g : Group) {i : Nat} {q : Nat × Nat} (h : barIndex i = some q) :
    xrdValue s g i = (s.bar g.team q.1 q.2).word := by
  unfold xrdValue
  rw [h]

theorem trapValue_of_bar (s : State) (g : Group) {i : Nat} (h : 0x20 ≤ i) :
    trapValue s g i = if i < 0x30 then (s.bar g.team 0 (i - 0x20)).word
      else if i < 0x38 then (s.bar g.team 1 (i - 0x30)).word else (s.bar g.team 2 (i - 0x38)).word := by
  unfold trapValue
  rw [if_neg (by omega), if_neg (by omega), if_neg (by omega), if_neg (by omega), if_neg (by omega), if_neg (by omega),
    if_neg (by omega)]

theorem xrdValue_eq_trapValue (s : State) (g : Group) {i : Nat} (h : trapIndex i = true) : xrdValue s g i = trapValue s g i := by
  rcases trapIndex_cases h with h | ⟨hlo, hhi⟩ | rfl | h | h | h
  · interval_cases i <;> rfl
  · interval_cases i <;> rfl
  · rfl
  · rw [xrdValue_of_bar s g (barIndex_tb h), trapValue_of_bar s g h.1, if_pos h.2]
  · rw [xrdValue_of_bar s g (barIndex_kb h), trapValue_of_bar s g (by omega), if_neg (by omega), if_pos h.2]
  · rw [xrdValue_of_bar s g (barIndex_gb h), trapValue_of_bar s g (by omega), if_neg (by omega), if_neg (by omega)]

theorem sreg_number_eq_zero {k : SReg} : k.toNat = 0 ↔ k = 0 := ⟨fun h => BitVec.eq_of_toNat_eq h, fun h => h ▸ rfl⟩

/-! ### SREAD (R112) -/

theorem specialIndex_cases {i k : Nat} (h : specialIndex i k = true) :
    i < 0x0F ∨ i = 0x10 ∨ i = 0x12 ∨ i = 0x14 ∨ i = 0x16 ∨ i = 0x18 ∨ i = 0x1A := by
  simp only [specialIndex, Bool.or_eq_true, Bool.and_eq_true, decide_eq_true_eq, beq_iff_eq] at h
  omega

theorem sreadValue_eq_specialValue (s : State) (g : Group) (rad : Bool) {i k : Nat} (h : specialIndex i k = true) :
    sreadValue s g rad i = specialValue s g rad i := by
  rcases specialIndex_cases h with h | rfl | rfl | rfl | rfl | rfl | rfl
  · interval_cases i <;> rfl
  all_goals rfl

theorem extract_low_ofNat (v : Nat) : (BitVec.ofNat 64 v).extractLsb' 0 32 = BitVec.ofNat 32 v := by
  apply BitVec.eq_of_toNat_eq
  simp only [BitVec.extractLsb'_toNat, BitVec.toNat_ofNat, Nat.shiftRight_zero]
  omega

theorem extract_high_ofNat (v : Nat) : (BitVec.ofNat 64 v).extractLsb' 32 32 = BitVec.ofNat 32 (v / 2 ^ 32) := by
  apply BitVec.eq_of_toNat_eq
  simp only [BitVec.extractLsb'_toNat, BitVec.toNat_ofNat, Nat.shiftRight_eq_div_pow]
  omega

/-! ### What writing one or two scalar registers leaves -/

section Write
variable (c : Ctx) (m : Lanes) (s : State) {f : Group → Group}

/-- An instruction whose effect changes the scalar registers of its group alone. -/
theorem done_of_scalars (hv : (f (s.grp c.gid)).v = (s.grp c.gid).v) (hp : (f (s.grp c.gid)).p = (s.grp c.gid).p)
    (hs : SameSpecials (s.grp c.gid) (f (s.grp c.gid))) (hr : (f (s.grp c.gid)).retired = (s.grp c.gid).retired) :
    let t := finish c m (.done (onGrp s c f))
    WentOn c s t ∧ (∀ j, (t.grp c.gid).sreg j = (f (s.grp c.gid)).sreg j) ∧ (t.grp c.gid).v = (s.grp c.gid).v ∧
      (t.grp c.gid).p = (s.grp c.gid).p ∧ SameSpecials (s.grp c.gid) (t.grp c.gid) ∧ t.mem = s.mem := by
  have hg : (onGrp s c f).grp c.gid = f (s.grp c.gid) := grp_modGrp _ _ _
  refine ⟨wentOn_done _ _ (by rw [hg, hr]), fun j => ?_, ?_, ?_, sameSpecials_done _ _ (by rw [hg]; exact hs), rfl⟩
  · rw [finish_done_grp, hg]; rfl
  · rw [finish_done_grp, hg]; exact hv
  · rw [finish_done_grp, hg]; exact hp

end Write

/-- Settles O26: the value of the index goes to the register, or in halves to the pair. -/
theorem specialValuesRead : Obligations.SpecialValuesRead := by
  intro r k i
  refine doesIf_both (exec_sread k i) (exec_sreadRadish · k i) fun c s h => ?_
  have hval := sreadValue_eq_specialValue s (s.grp c.gid) c.rad h
  by_cases hi : i.toNat < 0x10
  · have hw : sreadWide i.toNat = false := decide_eq_false (by omega)
    simp only [sreadB, hw, Bool.false_eq_true, if_false, if_pos hi]
    obtain ⟨hon, hs, hv, hp, hsp, hm⟩ := done_of_scalars c c.act s
      (f := fun g => g.putS k.toNat (BitVec.ofNat 32 (sreadValue s g c.rad i.toNat)))
      (setS_v _ _ _) (setS_p _ _ _) (setS_specials _ _ _) (setS_retired _ _ _)
    refine ⟨hon, ⟨?_, fun j hj => ?_⟩, hv, hp, hsp, hm⟩
    · rw [hs, sreg_putS, hval]
      exact if_congr sreg_number_eq_zero rfl rfl
    · rw [hs, sreg_putS_ne _ _ _ hj]
  · have hw : sreadWide i.toNat = true := decide_eq_true (by omega)
    simp only [sreadB, hw, if_true, if_neg hi]
    obtain ⟨hon, hs, hv, hp, hsp, hm⟩ := done_of_scalars c c.act s
      (f := fun g => g.putS64 k.toNat (BitVec.ofNat 64 (sreadValue s g c.rad i.toNat)))
      (putS64_v _ _ _) (putS64_p _ _ _) (putS64_specials _ _ _) (putS64_retired _ _ _)
    refine ⟨hon, ⟨?_, fun hk => ?_, fun j hj hj' => ?_⟩, hv, hp, hsp, hm⟩
    · rw [hs, sreg_putS64_high, hval, extract_high_ofNat]
    · rw [hs, sreg_putS64_low, hval, extract_low_ofNat, if_neg (mt sreg_number_eq_zero.mp hk)]
    · rw [hs, sreg_putS64_ne _ _ _ hj hj']

/-! ### XWR (R100, R111) -/

section Xwr
variable {k : SReg} {i : BitVec 8} {c : Ctx} {s : State}

theorem xwrB_outside (hi : i.toNat < 4) (h : (s.grp c.gid).inh = false) : xwrB k i c s = .fault s (flt 1 5) := by
  simp only [xwrB, barIndex_none (Nat.lt_trans hi (by decide)), if_pos hi, h, Bool.not_false, if_true]

theorem xwrB_xpc_low (h : (s.grp c.gid).inh = true) :
    xwrB k 0 c s = .done (onGrp s c fun g => { g with xpc := g.xpc.extractLsb' 32 32 ++ g.sreg k.toNat }) := by
  simp only [xwrB, h]
  exact congrArg Act.done (onGrp_congr s c rfl)

theorem xwrB_xpc_high (h : (s.grp c.gid).inh = true) :
    xwrB k 1 c s = .done (onGrp s c fun g => { g with xpc := g.sreg k.toNat ++ g.xpc.extractLsb' 0 32 }) := by
  simp only [xwrB, h]
  exact congrArg Act.done (onGrp_congr s c rfl)

theorem xwrB_xem (h : (s.grp c.gid).inh = true) :
    xwrB k 2 c s = .done (onGrp s c fun g => { g with xem := g.sreg k.toNat }) := by
  simp only [xwrB, h]
  exact congrArg Act.done (onGrp_congr s c rfl)

theorem xwrB_xmode (h : (s.grp c.gid).inh = true) :
    xwrB k 3 c s = if modeLegal ((s.grp c.gid).sreg k.toNat)
      then .done (onGrp s c fun g => { g with xmode := (s.grp c.gid).sreg k.toNat }) else .fault s (flt 2 0) := by
  simp only [xwrB, h]
  rfl

theorem xwrB_flags : xwrB k 0x10 c s =
    .done (onGrp s c fun g => { g with flags := g.flags &&& ~~~((s.grp c.gid).sreg k.toNat &&& flagBits) }) := rfl

theorem xwrB_ignored (h : i = 4 ∨ (8 ≤ i.toNat ∧ i.toNat < 16)) : xwrB k i c s = .done s := by
  have hlo : 4 ≤ i.toNat ∧ i.toNat < 16 := by
    rcases h with rfl | h
    · decide
    · omega
  have hne : i ≠ 0x10 := by
    rintro rfl
    exact absurd hlo.2 (by decide)
  simp only [xwrB, barIndex_none (by omega : i.toNat < 0x20), if_neg (Nat.not_lt.mpr hlo.1), if_neg hne]

theorem xwrB_of_bar {q : Nat × Nat} (h : barIndex i.toNat = some q) :
    xwrB k i c s = xwrBar q.1 q.2 ((s.grp c.gid).sreg k.toNat) c s := by
  simp only [xwrB, h]

end Xwr

theorem onBar_iff (q : Nat × Nat) (phase : Nat) (w : Wait) : w.onBar q.1 q.2 phase = true ↔ waitsOn q phase w := by
  cases w with
  | phase a b p =>
    simp only [Wait.onBar, waitsOn, Bool.and_eq_true, beq_iff_eq, decide_eq_true_eq, Wait.phase.injEq, reduceCtorEq, or_false]
    exact ⟨fun ⟨⟨ha, hb⟩, hp⟩ => ⟨p, hp, ha, hb, rfl⟩, fun ⟨_, hp, ha, hb, he⟩ => ⟨⟨ha, hb⟩, he ▸ hp⟩⟩
  | nextPhase a b p =>
    simp only [Wait.onBar, waitsOn, Bool.and_eq_true, beq_iff_eq, decide_eq_true_eq, Wait.nextPhase.injEq, reduceCtorEq, false_or]
    exact ⟨fun ⟨⟨ha, hb⟩, hp⟩ => ⟨p, hp, ha, hb, rfl⟩, fun ⟨_, hp, ha, hb, he⟩ => ⟨⟨ha, hb⟩, he ▸ hp⟩⟩
  | _ => simp only [Wait.onBar, waitsOn, reduceCtorEq, Bool.false_eq_true, or_self, and_false, exists_false]

theorem barWaited_iff (s : State) (q : Nat × Nat) (b : Bar) : barWaited s q.1 q.2 b = true ↔ someWaits s q b := by
  simp only [barWaited, someWaits, List.any_eq_true, Bool.or_eq_true, Bool.and_eq_true, decide_eq_true_eq, onBar_iff,
    streamMember, Nat.add_zero, ge_iff_le]

section XwrBar
variable {q : Nat × Nat} {v : Word} {c : Ctx} {s : State}

theorem extract_expect (v : Word) : (v.extractLsb' 0 14).toNat = v.toNat % 2 ^ 14 := by
  rw [BitVec.extractLsb'_toNat, Nat.shiftRight_zero]

theorem xwrBar_busy (h : (s.bar (s.grp c.gid).team q.1 q.2).arrived ≠ 0 ∨
      someWaits s q (s.bar (s.grp c.gid).team q.1 q.2)) : xwrBar q.1 q.2 v c s = .fault s (flt 14 0) := by
  rw [← barWaited_iff] at h
  exact if_pos (by simpa only [Bool.or_eq_true, decide_eq_true_eq] using h)

theorem xwrBar_quiet (ha : (s.bar (s.grp c.gid).team q.1 q.2).arrived = 0)
    (hw : ¬someWaits s q (s.bar (s.grp c.gid).team q.1 q.2)) :
    xwrBar q.1 q.2 v c s = if v.toNat % 2 ^ 14 = 0 ∨ v.toNat % 2 ^ 14 > (s.bar (s.grp c.gid).team q.1 q.2).members.length
      then .fault s (flt 1 4)
      else .done ((barAdvance s { s.bar (s.grp c.gid).team q.1 q.2 with expect := v.toNat % 2 ^ 14, arrived := 0, arr := [] }).1.setBar
        (s.grp c.gid).team q.1 q.2
        (barAdvance s { s.bar (s.grp c.gid).team q.1 q.2 with expect := v.toNat % 2 ^ 14, arrived := 0, arr := [] }).2) := by
  rw [← barWaited_iff, Bool.not_eq_true] at hw
  simp only [xwrBar, ha, hw, ne_eq, not_true, decide_false, Bool.or_self, Bool.false_eq_true, if_false, extract_expect,
    Bool.or_eq_true, decide_eq_true_eq]

end XwrBar

/-- Nothing completes a phase at which nothing has arrived and nobody has left. -/
theorem barAdvance_of_empty (s : State) {b : Bar} (ha : b.arrived = 0) (hg : b.gone = []) (he : 0 < b.expect) :
    barAdvance s b = (s, b) := by
  have hu : b.uncounted = 0 := by simp only [Bar.uncounted, hg, List.filter_nil, List.length_nil]
  exact if_neg (by omega)

theorem launch_setLaunch (s : State) (l : Nat) (x : Launch) : (s.setLaunch l x).launch l = x := aget_aput _ _ _ _
theorem cluster_setCluster (s : State) (k : Nat) (x : Cluster) : (s.setCluster k x).cluster k = x := aget_aput _ _ _ _

theorem bar_setBar (s : State) (tid cls i : Nat) (b : Bar) : (s.setBar tid cls i b).bar tid cls i = b := by
  unfold State.setBar State.bar
  split
  · simp only [team_setTeam, aget_aput]
  · have hteam : ∀ x, (s.setCluster (s.team tid).cluster x).team tid = s.team tid := fun _ => rfl
    simp only [hteam, cluster_setCluster, aget_aput]
  · have hteam : ∀ x, (s.setLaunch (s.team tid).launch x).team tid = s.team tid := fun _ => rfl
    simp only [hteam, launch_setLaunch, aget_aput]

theorem grp_setBar (s : State) (tid cls i k : Nat) (b : Bar) : (s.setBar tid cls i b).grp k = s.grp k := by
  unfold State.setBar
  split <;> rfl

/-- Settles O25: the index selects the register, and a barrier's EXPECT is set or refused by who has come to it. -/
theorem trapRegistersReadAndWrite : Obligations.TrapRegistersReadAndWrite := by
  intro r k
  refine ⟨fun i => ?_, fun i hi => ?_, ?_, ?_, ?_, ?_, ?_, ?_, fun i hi => ?_, fun i q hi => ?_⟩
  · refine doesIf_both (exec_xrd k i) (exec_xrdRadish · k i) fun c s h => ?_
    obtain ⟨hon, hs, hv, hp, hsp, hm⟩ := done_of_scalars c c.act s (f := fun g => g.putS k.toNat (xrdValue s g i.toNat))
      (setS_v _ _ _) (setS_p _ _ _) (setS_specials _ _ _) (setS_retired _ _ _)
    refine ⟨hon, ?_, fun j hj => (hs j).trans (sreg_putS_ne _ _ _ hj), hv, hp, hsp, hm⟩
    refine (hs _).trans ((sreg_putS _ _ _).trans ?_)
    rw [xrdValue_eq_trapValue _ _ h]
    exact if_congr sreg_number_eq_zero rfl rfl
  · exact faultsIf_both (exec_xwr k i) (exec_xwrRadish · k i) fun _ _ => xwrB_outside hi
  · exact runsIf_both (exec_xwr k 0) (exec_xwrRadish · k 0) fun _ _ => xwrB_xpc_low
  · exact runsIf_both (exec_xwr k 1) (exec_xwrRadish · k 1) fun _ _ => xwrB_xpc_high
  · exact runsIf_both (exec_xwr k 2) (exec_xwrRadish · k 2) fun _ _ => xwrB_xem
  · refine runsIf_both (exec_xwr k 3) (exec_xwrRadish · k 3) fun c s ⟨hinh, hleg⟩ => ?_
    rw [xwrB_xmode hinh, if_pos ((modeLegal_iff _).mpr hleg)]
    exact congrArg Act.done (onGrp_congr s c rfl)
  · refine faultsIf_both (exec_xwr k 3) (exec_xwrRadish · k 3) fun c s ⟨hinh, hleg⟩ => ?_
    exact (xwrB_xmode hinh).trans (if_neg (mt (modeLegal_iff _).mp hleg))
  · exact runsIf_both (exec_xwr k 0x10) (exec_xwrRadish · k 0x10) fun c s _ =>
      xwrB_flags.trans (congrArg Act.done (onGrp_congr s c rfl))
  · cases r with
    | none => exact runs_nothing (exec_xwr k i) fun _ _ => xwrB_ignored hi
    | some w => exact runs_nothing (exec_xwrRadish w k i) fun _ _ => xwrB_ignored hi
  · have hq : barIndex i.toNat = some q := by
      rcases hi with ⟨h1, h2, rfl⟩ | ⟨h1, h2, rfl⟩ | ⟨h1, h2, rfl⟩
      · exact barIndex_tb ⟨h1, h2⟩
      · exact barIndex_kb ⟨h1, h2⟩
      · exact barIndex_gb ⟨h1, h2⟩
    refine ⟨?_, ?_, ?_⟩
    · exact trapsIf_both (exec_xwr k i) (exec_xwrRadish · k i) fun _ _ h => (xwrB_of_bar hq).trans (xwrBar_busy h)
    · exact trapsIf_both (exec_xwr k i) (exec_xwrRadish · k i) fun _ _ ⟨ha, hw, h⟩ =>
        (xwrB_of_bar hq).trans ((xwrBar_quiet ha hw).trans (if_pos h))
    · refine doesIf_both (exec_xwr k i) (exec_xwrRadish · k i) fun c s ⟨ha, hw, hg, hpos, hle⟩ => ?_
      rw [xwrB_of_bar hq, xwrBar_quiet ha hw, if_neg (by omega),
        barAdvance_of_empty s (b := { s.bar (s.grp c.gid).team q.1 q.2 with
          expect := ((s.grp c.gid).sreg k.toNat).toNat % 2 ^ 14, arrived := 0, arr := [] }) rfl hg hpos]
      refine ⟨wentOn_done _ _ (by rw [grp_setBar]), ?_⟩
      exact bar_setBar _ _ _ _ _

/-! ### LIT (R66, R67) -/

section Lit
variable {wide : Bool} {v : DWord} {c : Ctx} {s : State}

theorem litB_of_literal (h : ((s.grp c.gid).frag c.fid).lit ≠ none) : litB wide v c s = .fault s (flt 1 3) :=
  if_pos (Option.isSome_iff_ne_none.mpr h)

theorem litB_of_word {w : Word} (h : ((s.grp c.gid).frag c.fid).lit = none) (hw : litWord wide c s = .ok w) :
    litB wide v c s = if acceptsLit (s.grp c.gid).mode wide w
      then .same (s.setGrp c.gid ((s.grp c.gid).setFrag c.fid { (s.grp c.gid).frag c.fid with
        pc := litNext wide c, lit := some ⟨v, wide, c.pc⟩, wait := .run }))
      else .fault s (flt 1 3) := by
  unfold litWord litNext at hw
  simp only [litB, h, Option.isSome_none, Bool.false_eq_true, if_false, hw]
  rfl

end Lit

theorem opcodeOf_eq (w : Word) : opcodeOf w = w.toNat / 2 ^ 24 := by
  rw [opcodeOf, fld, BitVec.extractLsb'_toNat, Nat.shiftRight_eq_div_pow]
  omega

/-- The consumers of a 64-bit literal (R66). -/
theorem acceptsLit_wide {mode w : Word} (h : acceptsLit mode true w = true) :
    w.toNat / 2 ^ 24 ∈ [0x4D, 0x4F, 0x5A] ∧ w.toNat % 256 = 0 := by
  rw [← opcodeOf_eq]
  dsimp only [acceptsLit] at h
  split at h
  · simp only [Bool.and_eq_true, beq_iff_eq, Bool.not_true, Bool.false_or, Bool.or_eq_true] at h
    obtain ⟨hlow, hop⟩ := h
    refine ⟨?_, ?_⟩
    · rcases hop with hop | ⟨hop | hop, -⟩ <;> rw [hop] <;> decide
    · have := congrArg BitVec.toNat hlow
      rwa [fld, BitVec.extractLsb'_toNat, Nat.shiftRight_zero] at this
  · simp only [Bool.not_true, Bool.and_false, Bool.false_eq_true] at h

/-- A LIT is no consumer of a literal. -/
theorem acceptsLit_not_lit {mode w : Word} {wide : Bool} (h : acceptsLit mode wide w = true) : w.toNat / 2 ^ 24 ≠ 0xFF := by
  rw [← opcodeOf_eq]
  intro hop
  simp [acceptsLit, hop, isFormI, isFormMLit] at h

/-- Settles O27: LIT looks for a literal held already, then at the word after its literal words. -/
theorem literalIsHeldForItsConsumer : Obligations.LiteralIsHeldForItsConsumer := by
  intro wide v
  refine ⟨?_, ?_, fun mode w h => ?_, fun mode w h => ?_⟩
  · refine doesIf_of_issueBoth (exec_lit wide v) fun c s ⟨hl, w, hw, ha⟩ => ?_
    rw [litB_of_word hl hw, if_pos ha]
    rfl
  · refine trapsIf_of_issueBoth (exec_lit wide v) fun c s h => ?_
    by_cases hl : ((s.grp c.gid).frag c.fid).lit = none
    · obtain ⟨w, hw, ha⟩ := h.resolve_left (not_not_intro hl)
      rw [litB_of_word hl hw, ha, if_neg Bool.false_ne_true]
    · exact litB_of_literal hl
  · exact acceptsLit_wide h
  · exact acceptsLit_not_lit h

end Sys2Proof.Machine

/-! Waiting on counters and batches, and giving up issue (R94 to R96). -/
namespace Sys2Proof.Machine

/-! ### Closing a batch (R95) -/

/-- Only CBD of the group has changed. -/
def CbdOnly (gid : Nat) (s t : State) : Prop :=
  t.mem = s.mem ∧ t.hostMem = s.hostMem ∧ t.copies = s.copies ∧ t.ord = s.ord ∧ ∃ n, t.grp gid = { s.grp gid with cbd := n }

theorem advanceCbd_cbdOnly (gid n : Nat) (s : State) : CbdOnly gid s (advanceCbd s gid n) := by
  induction n generalizing s with
  | zero => exact ⟨rfl, rfl, rfl, rfl, (s.grp gid).cbd, rfl⟩
  | succ n ih =>
    unfold advanceCbd
    dsimp only
    split
    · exact ⟨rfl, rfl, rfl, rfl, (s.grp gid).cbd, rfl⟩
    · split
      · exact ⟨rfl, rfl, rfl, rfl, (s.grp gid).cbd, rfl⟩
      · obtain ⟨hm, hh, hc, ho, k, hk⟩ := ih (s.setGrp gid { s.grp gid with cbd := (s.grp gid).cbd + 1 })
        refine ⟨hm, hh, hc, ho, k, ?_⟩
        rw [hk, grp_setGrp]

/-- The copies as closing the open batch of a group leaves them. -/
def closedCopy (gid : Nat) (n : BitVec 16) (x : Copy) : Copy :=
  if x.gid = gid ∧ x.batch = none then { x with batch := some n } else x

theorem closeBatch_leaves (s : State) (gid : Nat) :
    (closeBatch s gid).mem = s.mem ∧ (closeBatch s gid).hostMem = s.hostMem ∧ (closeBatch s gid).ord = s.ord ∧
      (closeBatch s gid).copies = s.copies.map (fun c => (c.1, closedCopy gid ((s.grp gid).cb + 1) c.2)) ∧
      ∃ n, (closeBatch s gid).grp gid = { s.grp gid with cb := (s.grp gid).cb + 1, opn := false, cbd := n } := by
  obtain ⟨hm, hh, hc, ho, n, hn⟩ := advanceCbd_cbdOnly gid 16
    { s.setGrp gid { s.grp gid with cb := (s.grp gid).cb + 1, opn := false } with
      copies := s.copies.map fun c => if c.2.gid = gid ∧ c.2.batch = none
        then (c.1, { c.2 with batch := some ((s.grp gid).cb + 1) }) else c }
  refine ⟨hm, hh, ho, hc.trans (List.map_congr_left fun c _ => ?_), n, hn.trans ?_⟩
  · unfold closedCopy
    split <;> rfl
  · exact congrArg (fun g : Group => { g with cbd := n })
      (grp_setGrp s gid { s.grp gid with cb := (s.grp gid).cb + 1, opn := false })

theorem afind_map {α β : Type} (f : α → β) (k : Nat) (l : List (Nat × α)) :
    afind k (l.map fun c => (c.1, f c.2)) = (afind k l).map f := by
  induction l with
  | nil => rfl
  | cons p r ih =>
    simp only [List.map_cons, afind]
    split
    · rfl
    · exact ih

/-! ### The meanings -/

section Meanings
variable {c : Ctx} {s : State} {n : BitVec 16}

theorem waitbB_of_complete (hn : batchAge (s.grp c.gid) n < 2 ^ 15) (h : batchLag (s.grp c.gid) ≤ batchAge (s.grp c.gid) n) :
    waitbB n c s = .done (fragEvent c s (copyNodes s c.gid (batchCovers n))).2 :=
  (if_neg (Nat.not_le.mpr hn)).trans (if_pos h)

theorem waitbB_of_open (hn : batchAge (s.grp c.gid) n < 2 ^ 15) (h : batchAge (s.grp c.gid) n < batchLag (s.grp c.gid)) :
    waitbB n c s = .wait s (.batch n) :=
  (if_neg (Nat.not_le.mpr hn)).trans (if_neg (Nat.not_le.mpr h))

theorem cbatchB_of_room (h : batchLag (s.grp c.gid) ≠ 15) : cbatchB c s = .done (closeBatch s c.gid) := if_neg h

theorem snoozeB_of_pos (h : n ≠ 0) : snoozeB n c s =
    .stay (onGrp s c fun g => (g.goto c.fid (nextPc c)).await c.fid (.snooze (ownCycle c s) n.toNat)) := if_neg h

end Meanings

/-- Moving on the fragments of a group leaves the place and the wait of each. -/
theorem passOn_frag (g : Group) (fid : Nat) :
    ((g.passOn fid).frag fid).pc = (g.frag fid).pc ∧ ((g.passOn fid).frag fid).wait = (g.frag fid).wait := by
  have hmap : ∀ l : List (Nat × Frag), ((aget Frag.none_ fid (l.map fun p =>
        if p.1 = fid then (p.1, { p.2 with did := p.2.did + 1 }) else p)).pc = (aget Frag.none_ fid l).pc) ∧
      ((aget Frag.none_ fid (l.map fun p =>
        if p.1 = fid then (p.1, { p.2 with did := p.2.did + 1 }) else p)).wait = (aget Frag.none_ fid l).wait) := by
    intro l
    induction l with
    | nil => exact ⟨rfl, rfl⟩
    | cons p r ih =>
      by_cases hp : p.1 = fid
      · simp only [List.map_cons, if_pos hp, aget, hp, if_true, and_self]
      · simp only [List.map_cons, if_neg hp, aget, hp, if_false, ih, and_self]
  exact hmap g.frags

section Moves
variable (g : Group) (fid : Nat)

theorem SameRegs.trans {g h k : Group} (p : SameRegs g h) (q : SameRegs h k) : SameRegs g k := by
  obtain ⟨pv, ps, pp⟩ := p
  obtain ⟨qv, qs, qp⟩ := q
  exact ⟨qv.trans pv, qs.trans ps, qp.trans pp⟩

theorem sameRegs_goto (pc : DWord) : SameRegs g (g.goto fid pc) := ⟨rfl, rfl, rfl⟩
theorem sameRegs_await (w : Wait) : SameRegs g (g.await fid w) := ⟨rfl, rfl, rfl⟩
theorem sameRegs_retire_passOn : SameRegs g (g.retire.passOn fid) := ⟨rfl, rfl, rfl⟩
theorem sameSpecials_goto (pc : DWord) : SameSpecials g (g.goto fid pc) := ⟨rfl, rfl, rfl, rfl, rfl, rfl, rfl, rfl, rfl⟩
theorem sameSpecials_await (w : Wait) : SameSpecials g (g.await fid w) := ⟨rfl, rfl, rfl, rfl, rfl, rfl, rfl, rfl, rfl⟩
theorem sameSpecials_retire_passOn : SameSpecials g (g.retire.passOn fid) := ⟨rfl, rfl, rfl, rfl, rfl, rfl, rfl, rfl, rfl⟩
theorem retired_retire_passOn : (g.retire.passOn fid).retired = g.retired + 1 := rfl
theorem retired_goto_await (pc : DWord) (w : Wait) : ((g.goto fid pc).await fid w).retired = g.retired := rfl

end Moves

theorem snooze_leaves (c : Ctx) (m : Lanes) (s : State) (w : Wait) :
    let t := finish c m (.stay (onGrp s c fun g => (g.goto c.fid (nextPc c)).await c.fid w))
    WentOn c s t ∧ ((t.grp c.gid).frag c.fid).wait = w ∧ SameRegs (s.grp c.gid) (t.grp c.gid) ∧
      SameSpecials (s.grp c.gid) (t.grp c.gid) ∧ t.mem = s.mem := by
  dsimp only
  have hg := finish_stay_grp c m (onGrp s c fun g => (g.goto c.fid (nextPc c)).await c.fid w)
  have hon : (onGrp s c fun g => (g.goto c.fid (nextPc c)).await c.fid w).grp c.gid =
    ((s.grp c.gid).goto c.fid (nextPc c)).await c.fid w := grp_modGrp _ _ _
  rw [hon] at hg
  obtain ⟨hpc, hw⟩ := passOn_frag (((s.grp c.gid).goto c.fid (nextPc c)).await c.fid w).retire c.fid
  rw [WentOn, hg, hpc, hw, retire_frag, await_frag, goto_frag]
  refine ⟨⟨rfl, ?_⟩, rfl, ?_, ?_, rfl⟩
  · rw [retired_retire_passOn, retired_goto_await]
  · exact ((sameRegs_goto _ _ _).trans (sameRegs_await _ _ _)).trans (sameRegs_retire_passOn _ _)
  · exact ((sameSpecials_goto _ _ _).trans (sameSpecials_await _ _ _)).trans (sameSpecials_retire_passOn _ _)

/-- Settles O20: each looks at its counters, and goes on or waits. -/
theorem waitInstructionsGoOnOrWait : Obligations.WaitInstructionsGoOnOrWait := by
  intro r
  refine ⟨fun a b t d => ⟨?_, ?_⟩, ⟨?_, ?_⟩, fun n => ⟨?_, ?_, ?_⟩, ?_, fun n => ?_, ?_⟩
  · exact runsIf_nothing_both (exec_waitc a b t d) (exec_waitcRadish · a b t d) fun _ _ h => if_pos h
  · exact waitsIf_both (exec_waitc a b t d) (exec_waitcRadish · a b t d) fun _ _ h => if_neg h
  · exact waitsIf_both exec_cbatch exec_cbatchRadish fun _ _ h => if_pos h
  · refine doesIf_both exec_cbatch exec_cbatchRadish fun c s h => ?_
    obtain ⟨hm, -, -, hc, n, hn⟩ := closeBatch_leaves s c.gid
    rw [cbatchB_of_room h]
    refine ⟨wentOn_done _ _ (by rw [hn]), ?_, ?_, sameRegs_done _ _ ?_, sameSpecials_done _ _ ?_, hm, fun k x hx => ?_⟩
    · rw [finish_done_grp, hn]; rfl
    · rw [finish_done_grp, hn]; rfl
    · rw [hn]; exact ⟨rfl, rfl, rfl⟩
    · rw [hn]; exact ⟨rfl, rfl, rfl, rfl, rfl, rfl, rfl, rfl, rfl⟩
    · have hcopies : (finish c c.act (.done (closeBatch s c.gid))).copies = _ := hc
      rw [hcopies, afind_map, hx]
      rfl
  · exact faultsIf_both (exec_waitb n) (exec_waitbRadish · n) fun _ _ h => if_pos h
  · exact waitsIf_both (exec_waitb n) (exec_waitbRadish · n) fun _ _ ⟨hn, h⟩ => waitbB_of_open hn h
  · refine doesIf_both (exec_waitb n) (exec_waitbRadish · n) fun c s ⟨hn, h⟩ => ?_
    rw [waitbB_of_complete hn h]
    have hg := (fragEvent_ord c s (copyNodes s c.gid (batchCovers n))).grp c.gid
    refine ⟨wentOn_done _ _ (by rw [hg]), sameRegs_done _ _ ?_, sameSpecials_done _ _ ?_, rfl, rfl⟩
    · rw [hg]; exact ⟨rfl, rfl, rfl⟩
    · rw [hg]; exact ⟨rfl, rfl, rfl, rfl, rfl, rfl, rfl, rfl, rfl⟩
  · exact waitsIf_both exec_yieldIssue exec_yieldIssueRadish fun _ _ _ => rfl
  · refine doesIf_both (exec_snooze n) (exec_snoozeRadish · n) fun c s h => ?_
    rw [snoozeB_of_pos h]
    exact snooze_leaves _ _ _ _
  · exact waitsIf_both (exec_snooze 0) (exec_snoozeRadish · 0) fun _ _ _ => rfl

end Sys2Proof.Machine

/-! What an instruction finds as its effect begins, and one form for the instructions of both kinds of issue. -/
namespace Sys2Proof.Machine

/-! ### Special-function results that land (R48) -/

/-- Two groups differ in lane registers, their poison and the special-function queue alone. -/
def LandOnly (g h : Group) : Prop := h = { g with v := h.v, vpois := h.vpois, sfu := h.sfu }

theorem LandOnly.trans {g h k : Group} (p : LandOnly g h) (q : LandOnly h k) : LandOnly g k := by
  unfold LandOnly at *
  rw [q, p]

theorem setV_lands (g : Group) (r : Nat) (m : Lanes) (f : Nat → Word) : LandOnly g (g.setV r m f) := rfl

theorem putV_lands (g : Group) (r : Nat) (m : Lanes) (f : Nat → Word) : LandOnly g ((g.setV r m f).clrVPois r m) :=
  (setV_lands g r m f).trans (rfl : LandOnly _ ((g.setV r m f).clrVPois r m))

theorem applySfu_lands (g : Group) (r : SfuRes) : LandOnly g (g.applySfu r) := by
  unfold Group.applySfu
  cases r.hi with
  | none => exact putV_lands g _ _ _
  | some h => exact (putV_lands g _ _ _).trans (putV_lands _ _ _ _)

theorem foldl_applySfu_lands (q : List SfuRes) (g : Group) : LandOnly g (q.foldl Group.applySfu g) := by
  induction q generalizing g with
  | nil => rfl
  | cons r q ih => exact (applySfu_lands g r).trans (ih _)

theorem drainSfu_lands (g : Group) : LandOnly g g.drainSfu :=
  (foldl_applySfu_lands g.sfu g).trans (rfl : LandOnly _ { g.sfu.foldl Group.applySfu g with sfu := [] })

theorem interlock_lands (g : Group) (us : List Use) : LandOnly g (g.interlock us) := by
  unfold Group.interlock
  split
  · exact drainSfu_lands g
  · rfl

theorem LandOnly.eq {g h : Group} (p : LandOnly g h) : h = { g with v := h.v, vpois := h.vpois, sfu := h.sfu } := p

theorem LandOnly.frags {g h : Group} (p : LandOnly g h) : h.frags = g.frags := by rw [p.eq]

theorem LandOnly.frag {g h : Group} (p : LandOnly g h) (f : Nat) : h.frag f = g.frag f := by
  unfold Group.frag
  rw [p.frags]

theorem entered_frags (s : State) (gid : Nat) (i : Instr) : ((entered s gid i).grp gid).frags = (s.grp gid).frags := by
  rw [entered, enter, grp_modGrp]
  exact (interlock_lands _ _).frags

/-! ### Instructions of both kinds of issue -/

/-- The context describes the fragment that issues. -/
structure AtIssue (c : Ctx) (s : State) : Prop where
  there : (afind c.fid (s.grp c.gid).frags).isSome = true
  pc : ((s.grp c.gid).frag c.fid).pc = c.pc
  wait : ((s.grp c.gid).frag c.fid).wait = c.wait
  em : ((s.grp c.gid).frag c.fid).em = c.em

theorem atIssue_entered {s : State} {gid fid : Nat} {i : Instr} (h : CanIssue s gid fid i) :
    AtIssue (ctxOf s gid fid i) (entered s gid i) := by
  obtain ⟨-, hf, -, -⟩ := h
  have hfrags := entered_frags s gid i
  have hfrag : ((entered s gid i).grp gid).frag fid = (s.grp gid).frag fid := by rw [Group.frag, hfrags]; rfl
  refine ⟨?_, ?_, ?_, ?_⟩
  · rw [ctxOf_gid, hfrags]; exact hf
  all_goals rw [ctxOf_gid, ctxOf_fid, hfrag]; rfl

/-- A fragment's instruction that passes its checks does what its meaning says. -/
def Means (i : Instr) (body : Ctx → State → Act) : Prop :=
  ∀ s gid fid, CanIssue s gid fid i →
    exec i s = .next (finish (ctxOf s gid fid i) (ctxOf s gid fid i).act (body (ctxOf s gid fid i) (entered s gid i)))

namespace Means

theorem of_issue {i : Instr} {body : Ctx → State → Act} (h : ∀ s, exec i s = issue s (describe s i) body) : Means i body :=
  fun _ _ _ hc => exec_of_issue h hc

theorem of_issueBoth {i : Instr} {wf : Bool} {body : Ctx → State → Act} {sbody : Nat → State → SAct}
    (h : ∀ s, exec i s = issueBoth s (describe s i) wf body sbody) : Means i body :=
  fun _ _ _ hc => exec_of_issueBoth h hc

theorem both {r : Option (BitVec 13)} {m : Instr} {f : BitVec 13 → Instr} {body : Ctx → State → Act} (h0 : Means m body)
    (h1 : ∀ w, Means (f w) body) : Means (Machine.both r m f) body := by
  cases r with
  | none => exact h0
  | some w => exact h1 w

theorem of_issues {r : Option (BitVec 13)} {m : Instr} {f : BitVec 13 → Instr} {body : Ctx → State → Act}
    (h0 : ∀ s, exec m s = issue s (describe s m) body) (h1 : ∀ w s, exec (f w) s = issue s (describe s (f w)) body) :
    Means (Machine.both r m f) body :=
  both (of_issue h0) fun w => of_issue (h1 w)

variable {i : Instr} {body : Ctx → State → Act} (h : Means i body)
include h

theorem waits {P : Ctx → State → Prop} {w : Ctx → State → Wait} (hb : ∀ c s, P c s → body c s = .wait s (w c s)) :
    WaitsIf i P w := by
  intro s gid fid hc hP
  rw [h s gid fid hc, hb _ _ hP]
  rfl

theorem traps {P : Ctx → State → Prop} {e : Ctx → State → FaultInfo} (hb : ∀ c s, P c s → body c s = .fault s (e c s)) :
    TrapsIf i P e := by
  intro s gid fid hc hP
  rw [h s gid fid hc, hb _ _ hP]
  rfl

theorem does {P : Ctx → State → Prop} {R : Ctx → State → State → Prop}
    (hb : ∀ c s, AtIssue c s → P c s → R c s (finish c c.act (body c s))) : DoesIf i P R :=
  fun s gid fid hc hP => ⟨_, h s gid fid hc, hb _ _ (atIssue_entered hc) hP⟩

end Means

end Sys2Proof.Machine

/-! Hardware barriers (R97 to R100): what an arrival leaves of its instance, and what each instruction does in each of its cases. -/
namespace Sys2Proof.Machine

/-! ### Arrivals and phases (R98) -/

/-- The members that have left and count in the current phase of an instance in which a member has just arrived. -/
theorem uncounted_of_arrival (b : Bar) (m node : Nat) :
    ({ b with arrived := b.arrived + 1, arr := node :: b.arr,
              pend := (m, b.phase) :: b.pend.filter fun p => p.1 != m } : Bar).uncounted =
      (b.gone.filter fun x => x.1 ≠ m ∧ (x.1, b.phase) ∉ b.pend).length := by
  unfold Bar.uncounted
  refine congrArg List.length (List.filter_congr fun x _ => ?_)
  rw [Bool.eq_iff_iff]
  by_cases hx : x.1 = m
  · simp [hx]
  · simp only [List.any_cons, List.any_filter, Bool.not_eq_true', Bool.or_eq_false_iff, List.any_eq_false, Bool.and_eq_true,
      bne_iff_ne, beq_iff_eq, decide_eq_true_eq, Prod.mk.injEq]
    exact ⟨fun h => ⟨hx, fun hin => h.2 _ hin ⟨hx, rfl⟩⟩, fun h =>
      ⟨by simpa using fun he => absurd he.symm hx, fun p hp he => h.2 (he.2 ▸ hp)⟩⟩

theorem uncounted_eq (b : Bar) : b.uncounted = (b.gone.filter fun x => (x.1, b.phase) ∉ b.pend).length := by
  unfold Bar.uncounted
  refine congrArg List.length (List.filter_congr fun x _ => ?_)
  rw [Bool.eq_iff_iff]
  simp only [Bool.not_eq_true', List.any_eq_false, beq_iff_eq, decide_eq_true_eq]
  exact ⟨fun h hin => h _ hin rfl, fun h p hp he => h (he ▸ hp)⟩

theorem barAdvance_ord (s : State) (b : Bar) : OrdOnly s (barAdvance s b).1 := by
  unfold barAdvance
  split <;> rfl

theorem barAdvance_of_less (s : State) {b : Bar} (h : b.arrived + b.uncounted < b.expect) : barAdvance s b = (s, b) :=
  if_neg (Nat.not_le.mpr h)

theorem barAdvance_of_full (s : State) {b : Bar} (h : b.expect ≤ b.arrived + b.uncounted) :
    (barAdvance s b).2.phase = b.phase + 1 ∧ (barAdvance s b).2.arrived = 0 ∧
      ∀ p ∈ (barAdvance s b).2.pend, p.2 ≠ b.phase := by
  unfold barAdvance
  rw [if_pos h]
  exact ⟨rfl, rfl, fun p hp => by simpa using (List.mem_filter.mp hp).2⟩

theorem barAdvance_keeps (s : State) (b : Bar) : (barAdvance s b).2.expect = b.expect ∧ (barAdvance s b).2.members = b.members ∧
    (barAdvance s b).2.gone = b.gone := by
  unfold barAdvance
  split <;> exact ⟨rfl, rfl, rfl⟩

theorem mem_setBar (s : State) (tid cls i : Nat) (b : Bar) : (s.setBar tid cls i b).mem = s.mem := by
  unfold State.setBar
  split <;> rfl

/-- Setting an instance of a state that differs from another in its events alone. -/
theorem setBar_leaves {s t : State} (h : OrdOnly s t) (tid cls i : Nat) (b : Bar) :
    (∀ k, (t.setBar tid cls i b).grp k = s.grp k) ∧ (t.setBar tid cls i b).mem = s.mem ∧ (t.setBar tid cls i b).bar tid cls i = b :=
  ⟨fun k => (grp_setBar _ _ _ _ _ _).trans (h.grp k), (mem_setBar _ _ _ _ _).trans h.mem, bar_setBar _ _ _ _ _⟩

/-- An arrival as the instance holds it before the phase is looked at. -/
def Bar.entered (b : Bar) (m node : Nat) : Bar :=
  { b with arrived := b.arrived + 1, arr := node :: b.arr, pend := (m, b.phase) :: b.pend.filter fun p => p.1 != m }

theorem arriveAs_leaves (s : State) (gid tid cls i : Nat) (more : List Nat) :
    (∀ k, (arriveAs s gid tid cls i more).grp k = s.grp k) ∧ (arriveAs s gid tid cls i more).mem = s.mem ∧
      ∃ u node, OrdOnly s u ∧ (arriveAs s gid tid cls i more).bar tid cls i = (barAdvance u ((s.bar tid cls i).entered gid node)).2 := by
  have ho := groupEvent_ord s gid more
  have hb := ho.bar tid cls i
  obtain ⟨hg, hm, hbar⟩ := setBar_leaves (ho.trans (barAdvance_ord _ ((s.bar tid cls i).entered gid (groupEvent s gid more).1)))
    tid cls i (barAdvance (groupEvent s gid more).2 ((s.bar tid cls i).entered gid (groupEvent s gid more).1)).2
  have heq : arriveAs s gid tid cls i more =
      (barAdvance (groupEvent s gid more).2 ((s.bar tid cls i).entered gid (groupEvent s gid more).1)).1.setBar tid cls i
        (barAdvance (groupEvent s gid more).2 ((s.bar tid cls i).entered gid (groupEvent s gid more).1)).2 := by
    rw [← hb]
    rfl
  rw [heq]
  exact ⟨hg, hm, _, _, ho, hbar⟩

theorem arrivedIn_of_entered (c : Ctx) (b : Bar) (node : Nat) (u : State) :
    ArrivedIn c b (barAdvance u (b.entered c.gid node)).2 := by
  obtain ⟨he, hm, hg⟩ := barAdvance_keeps u (b.entered c.gid node)
  have hu := uncounted_of_arrival b c.gid node
  refine ⟨he, hm, hg, fun h => ?_, fun h => ?_⟩
  · rw [barAdvance_of_less u (b := b.entered c.gid node) (by rw [← hu] at h; exact h)]
    exact ⟨rfl, rfl, List.mem_cons_self⟩
  · obtain ⟨hp, ha, hpend⟩ := barAdvance_of_full u (b := b.entered c.gid node) (by rw [← hu] at h; exact h)
    exact ⟨ha, hp, hpend⟩

theorem ArrivedIn.phase {c : Ctx} {b b' : Bar} (h : ArrivedIn c b b') : b'.phase = b.phase ∨ b'.phase = b.phase + 1 := by
  obtain ⟨-, -, -, hless, hfull⟩ := h
  rcases Nat.lt_or_ge (b.arrived + 1 + (b.gone.filter fun m => m.1 ≠ c.gid ∧ (m.1, b.phase) ∉ b.pend).length) b.expect with hc | hc
  · exact .inl (hless hc).2.1
  · exact .inr (hfull hc).2.1

theorem arrivedIn_arriveAs (c : Ctx) (s : State) (tid cls i : Nat) (more : List Nat) :
    ArrivedIn c (s.bar tid cls i) ((arriveAs s c.gid tid cls i more).bar tid cls i) := by
  obtain ⟨-, -, u, node, -, hbar⟩ := arriveAs_leaves s c.gid tid cls i more
  rw [hbar]
  exact arrivedIn_of_entered c _ node u

theorem barReturn_ord (s : State) (gid tid cls i p : Nat) : OrdOnly s (barReturn s gid tid cls i p) := by
  unfold barReturn
  split
  · exact groupEvent_ord _ _ _
  · exact .refl s

/-- Looking at the phase without arriving. -/
theorem barLook_leaves (s : State) (tid cls i : Nat) :
    (∀ k, (barLook s tid cls i).grp k = s.grp k) ∧ (barLook s tid cls i).mem = s.mem ∧
      (barLook s tid cls i).bar tid cls i = (barAdvance s (s.bar tid cls i)).2 :=
  setBar_leaves (barAdvance_ord s (s.bar tid cls i)) tid cls i _

/-! ### The meanings in their cases -/

section Meanings
variable {k : BitVec 2} {i : BitVec 4} {c : Ctx} {s : State}

/-- The fragment does not come back to a phase that it waits for. -/
def Fresh (c : Ctx) : Prop := ∀ a b p, c.wait ≠ .phase a b p

theorem barB_of_fresh (h : Fresh c) : barB k i c s = arriveB false k i c s fun t =>
    awaitPhase c t (s.grp c.gid).team k.toNat i.toNat (s.bar (s.grp c.gid).team k.toNat i.toNat).phase := by
  unfold barB
  dsimp only
  split
  case h_1 a b p hw => exact absurd hw (h a b p)
  case h_2 => rfl

/-- BARW looks for the group's own arrival, and without one at the current phase. -/
theorem barwB_of_fresh (h : Fresh c) : barwB k i c s = uniform c s fun s' =>
    if !(s'.bar (s.grp c.gid).team k.toNat i.toNat).members.contains c.gid then .fault s' (flt 3 1)
    else match (s'.bar (s.grp c.gid).team k.toNat i.toNat).pend.find? fun p => p.1 == c.gid with
      | some p => awaitPhase c s' (s.grp c.gid).team k.toNat i.toNat p.2
      | none => awaitPhase c (barLook s' (s.grp c.gid).team k.toNat i.toNat) (s.grp c.gid).team k.toNat i.toNat
          (s'.bar (s.grp c.gid).team k.toNat i.toNat).phase := by
  unfold barwB
  dsimp only
  split
  case h_1 a b p hw => exact absurd hw (h a b p)
  case h_2 => rfl

theorem barB_of_phase {a b p : Nat} (h : c.wait = .phase a b p) :
    barB k i c s = awaitPhase c s (s.grp c.gid).team a b p := by
  simp only [barB, h]

theorem barwB_of_phase {a b p : Nat} (h : c.wait = .phase a b p) :
    barwB k i c s = awaitPhase c s (s.grp c.gid).team a b p := by
  simp only [barwB, h]

theorem uniform_of_many {f : State → Act} (h : 1 < (s.grp c.gid).frags.length) : uniform c s f = .fault s (flt 12 2) := if_pos h

theorem uniform_of_one {f : State → Act} (h : (s.grp c.gid).frags.length ≤ 1) : uniform c s f = f s := if_neg (Nat.not_lt.mpr h)

variable {drain : Bool} {f : State → Act}

theorem arriveB_of_many (h : 1 < (s.grp c.gid).frags.length) : arriveB drain k i c s f = .fault s (flt 12 2) :=
  uniform_of_many h

theorem arriveB_of_stranger (h1 : (s.grp c.gid).frags.length ≤ 1) (h : c.gid ∉ (barOf k i c s).members) :
    arriveB drain k i c s f = .fault s (flt 3 1) :=
  (uniform_of_one h1).trans (if_pos (by simpa [barOf] using h))

/-- A member with one fragment waits for its stores, its copies and its own arrival, and then arrives. -/
theorem arriveB_of_member (h : uniformMember k i c s) : arriveB drain k i c s f =
    if !(s.grp c.gid).stores.isEmpty then .wait s (if drain then .copies else .stores)
    else if drain && !(s.copiesOf c.gid).isEmpty then .wait s .copies
    else if (barOf k i c s).pendNow c.gid then .wait s (.nextPhase k.toNat i.toNat (barOf k i c s).phase)
    else f (arriveAs s c.gid (s.grp c.gid).team k.toNat i.toNat (if drain then copyNodes s c.gid fun _ => true else [])) := by
  obtain ⟨h1, hm⟩ := h
  exact (uniform_of_one h1).trans (if_neg (by simpa [barOf] using hm))

theorem pendNow_iff (b : Bar) (m : Nat) : b.pendNow m = true ↔ (m, b.phase) ∈ b.pend := by
  simp [Bar.pendNow]

theorem arriveB_of_stores (h : uniformMember k i c s) (hs : (s.grp c.gid).stores ≠ []) :
    arriveB drain k i c s f = .wait s (if drain then .copies else .stores) :=
  (arriveB_of_member h).trans (if_pos (by simpa using hs))

theorem arriveB_of_copies (h : uniformMember k i c s) (hs : (s.grp c.gid).stores = []) (hc : s.copiesOf c.gid ≠ []) :
    arriveB true k i c s f = .wait s .copies :=
  (arriveB_of_member h).trans ((if_neg (by simp [hs])).trans (if_pos (by simpa using hc)))

theorem arriveB_of_pending (h : uniformMember k i c s) (hs : (s.grp c.gid).stores = [])
    (hp : (c.gid, (barOf k i c s).phase) ∈ (barOf k i c s).pend) :
    arriveB false k i c s f = .wait s (.nextPhase k.toNat i.toNat (barOf k i c s).phase) :=
  (arriveB_of_member h).trans ((if_neg (by simp [hs])).trans ((if_neg (by simp)).trans (if_pos ((pendNow_iff _ _).mpr hp))))

theorem arriveB_arrives (h : uniformMember k i c s) (hs : (s.grp c.gid).stores = []) (hc : drain = true → s.copiesOf c.gid = [])
    (hp : (c.gid, (barOf k i c s).phase) ∉ (barOf k i c s).pend) : arriveB drain k i c s f =
      f (arriveAs s c.gid (s.grp c.gid).team k.toNat i.toNat (if drain then copyNodes s c.gid fun _ => true else [])) := by
  refine (arriveB_of_member h).trans ((if_neg (by simp [hs])).trans ((if_neg ?_).trans (if_neg (mt (pendNow_iff _ _).mp hp))))
  cases drain with
  | false => simp
  | true => simp [hc rfl]

theorem awaitPhase_of_over {tid a b p : Nat} (h : p < (s.bar tid a b).phase) :
    awaitPhase c s tid a b p = .done (barReturn s c.gid tid a b p) := if_pos h

theorem awaitPhase_of_current {tid a b p : Nat} (h : (s.bar tid a b).phase ≤ p) :
    awaitPhase c s tid a b p = .wait s (.phase a b p) := if_neg (Nat.not_lt.mpr h)

/-- BARW of a member with one fragment. -/
theorem barwB_of_member (hf : Fresh c) (h : uniformMember k i c s) : barwB k i c s =
    match (barOf k i c s).pend.find? fun p => p.1 == c.gid with
    | some p => awaitPhase c s (s.grp c.gid).team k.toNat i.toNat p.2
    | none => awaitPhase c (barLook s (s.grp c.gid).team k.toNat i.toNat) (s.grp c.gid).team k.toNat i.toNat (barOf k i c s).phase := by
  obtain ⟨h1, hm⟩ := h
  rw [barwB_of_fresh hf, uniform_of_one h1, if_neg (by simpa [barOf] using hm)]
  rfl

theorem barwB_of_own (hf : Fresh c) (h : uniformMember k i c s) {q : Nat × Nat}
    (hq : ((barOf k i c s).pend.find? fun p => p.1 == c.gid) = some q) :
    barwB k i c s = awaitPhase c s (s.grp c.gid).team k.toNat i.toNat q.2 := by
  rw [barwB_of_member hf h, hq]

theorem barwB_of_none (hf : Fresh c) (h : uniformMember k i c s) (hq : ∀ q ∈ (barOf k i c s).pend, q.1 ≠ c.gid) :
    barwB k i c s = awaitPhase c (barLook s (s.grp c.gid).team k.toNat i.toNat) (s.grp c.gid).team k.toNat i.toNat
      (barOf k i c s).phase := by
  have hnone : ((barOf k i c s).pend.find? fun p => p.1 == c.gid) = none :=
    List.find?_eq_none.mpr fun q hmem => by simpa using hq q hmem
  rw [barwB_of_member hf h, hnone]

/-- The group's own arrival that BARW finds. -/
theorem find_own {l : List (Nat × Nat)} {m : Nat} (h : ∃ q ∈ l, q.1 = m) :
    ∃ q, (l.find? fun p => p.1 == m) = some q ∧ q ∈ l ∧ q.1 = m := by
  obtain ⟨q, hq⟩ := Option.isSome_iff_exists.mp (List.find?_isSome.mpr (by simpa using h : ∃ x ∈ l, (x.1 == m) = true))
  exact ⟨q, hq, List.mem_of_find?_eq_some hq, by simpa using List.find?_some hq⟩

end Meanings

/-! ### What an arrival and a return leave of the group -/

section Leaves
variable {c : Ctx} {s t : State} {m : Lanes}

theorem sameSpecials_refl (g : Group) : SameSpecials g g := ⟨rfl, rfl, rfl, rfl, rfl, rfl, rfl, rfl, rfl⟩
theorem sameRegs_refl (g : Group) : SameRegs g g := ⟨rfl, rfl, rfl⟩

/-- An instruction that leaves its group as it was, and goes on. -/
theorem done_leaves (hg : t.grp c.gid = s.grp c.gid) (hm : t.mem = s.mem) :
    WentOn c s (finish c m (.done t)) ∧ SameRegs (s.grp c.gid) ((finish c m (.done t)).grp c.gid) ∧
      SameSpecials (s.grp c.gid) ((finish c m (.done t)).grp c.gid) ∧ (finish c m (.done t)).mem = s.mem :=
  ⟨wentOn_done _ _ (by rw [hg]), sameRegs_done _ _ (by rw [hg]; exact sameRegs_refl _),
    sameSpecials_done _ _ (by rw [hg]; exact sameSpecials_refl _), hm⟩

/-- One that leaves it as it was, and waits at issue. -/
theorem wait_leaves {w : Wait} (h : AtIssue c s) (hg : t.grp c.gid = s.grp c.gid) (hm : t.mem = s.mem) :
    AlsoWaits w c (finish c m (.wait t w)) ∧ SameRegs (s.grp c.gid) ((finish c m (.wait t w)).grp c.gid) ∧
      (finish c m (.wait t w)).mem = s.mem := by
  refine ⟨?_, sameRegs_wait _ _ (by rw [hg]; exact sameRegs_refl _), hm⟩
  rw [AlsoWaits, finish_wait_grp, await_frag, hg]
  exact ⟨rfl, h.pc⟩

theorem done_bar (tid a b : Nat) : (finish c m (.done t)).bar tid a b = t.bar tid a b := rfl
theorem wait_bar (w : Wait) (tid a b : Nat) : (finish c m (.wait t w)).bar tid a b = t.bar tid a b := rfl

/-- The return from a phase. -/
theorem return_leaves (hg : t.grp c.gid = s.grp c.gid) (hm : t.mem = s.mem) (tid a b p : Nat) :
    WentOn c s (finish c m (.done (barReturn t c.gid tid a b p))) ∧
      SameRegs (s.grp c.gid) ((finish c m (.done (barReturn t c.gid tid a b p))).grp c.gid) ∧
      (finish c m (.done (barReturn t c.gid tid a b p))).mem = s.mem := by
  have ho := barReturn_ord t c.gid tid a b p
  obtain ⟨hw, hr, -, hmem⟩ := done_leaves (m := m) ((ho.grp c.gid).trans hg) (ho.mem.trans hm)
  exact ⟨hw, hr, hmem⟩

end Leaves

/-! ### The four instructions -/

section Instructions
variable (r : Option (BitVec 13)) (k : BitVec 2) (i : BitVec 4)

theorem bar_means : Means (both r (.bar k i) fun w => .barRadish w k i) (barB k i) :=
  Means.both (Means.of_issueBoth (exec_bar k i)) fun w => Means.of_issue (exec_barRadish w k i)
theorem bara_means : Means (both r (.bara k i) fun w => .baraRadish w k i) (baraB k i) :=
  Means.of_issues (exec_bara k i) (exec_baraRadish · k i)
theorem barw_means : Means (both r (.barw k i) fun w => .barwRadish w k i) (barwB k i) :=
  Means.of_issues (exec_barw k i) (exec_barwRadish · k i)
theorem drain_means : Means (both r (.drain k i) fun w => .drainRadish w k i) (drainB k i) :=
  Means.of_issues (exec_drain k i) (exec_drainRadish · k i)

end Instructions

theorem bara_ne_drain (r : Option (BitVec 13)) (k : BitVec 2) (i : BitVec 4) :
    (both r (.bara k i) fun w => .baraRadish w k i) ≠ both r (.drain k i) fun w => .drainRadish w k i := by
  cases r <;> exact nofun

/-- Settles O21: the uniformity of the group, its membership, what it still has under way and the phases of the instance select the
case. -/
theorem barrierInstructionsArriveAndWait : Obligations.BarrierInstructionsArriveAndWait := by
  intro r k i
  have hbar := bar_means r k i
  have hbara := bara_means r k i
  have hbarw := barw_means r k i
  have hdrain := drain_means r k i
  refine ⟨fun x hx => ?_, fun x hx => ?_, ?_, fun x hx => ?_, fun x hx => ?_, ?_, fun x hx a b p => ?_, ?_, ?_, ?_⟩
  · rcases hx with rfl | rfl | rfl | rfl
    · exact ⟨hbar.traps fun c s ⟨hf, h⟩ => (barB_of_fresh hf).trans (uniform_of_many h),
        hbar.traps fun c s ⟨hf, h1, h⟩ => (barB_of_fresh hf).trans (arriveB_of_stranger h1 h)⟩
    · exact ⟨hbara.traps fun c s ⟨_, h⟩ => arriveB_of_many h, hbara.traps fun c s ⟨_, h1, h⟩ => arriveB_of_stranger h1 h⟩
    · refine ⟨hbarw.traps fun c s ⟨hf, h⟩ => (barwB_of_fresh hf).trans (uniform_of_many h),
        hbarw.traps fun c s ⟨hf, h1, h⟩ => ?_⟩
      rw [barwB_of_fresh hf, uniform_of_one h1]
      exact if_pos (by simpa [barOf] using h)
    · exact ⟨hdrain.traps fun c s ⟨_, h⟩ => arriveB_of_many h, hdrain.traps fun c s ⟨_, h1, h⟩ => arriveB_of_stranger h1 h⟩
  · rcases hx with rfl | rfl
    · exact hbar.waits fun c s ⟨hf, h, hs⟩ => (barB_of_fresh hf).trans (arriveB_of_stores h hs)
    · exact hbara.waits fun c s ⟨_, h, hs⟩ => arriveB_of_stores h hs
  · refine hdrain.waits fun c s ⟨_, h, hs⟩ => ?_
    by_cases hst : (s.grp c.gid).stores = []
    · exact arriveB_of_copies h hst (hs.resolve_left (not_not_intro hst))
    · exact arriveB_of_stores h hst
  · rcases hx with rfl | rfl
    · exact hbar.waits fun c s ⟨hf, h, hs, hp⟩ => (barB_of_fresh hf).trans (arriveB_of_pending h hs hp)
    · exact hbara.waits fun c s ⟨_, h, hs, hp⟩ => arriveB_of_pending h hs hp
  · have harrives : ∀ (c : Ctx) (s : State) (more : List Nat),
        WentOn c s (finish c c.act (.done (arriveAs s c.gid (s.grp c.gid).team k.toNat i.toNat more))) ∧
        ArrivedIn c (barOf k i c s) ((finish c c.act (.done (arriveAs s c.gid (s.grp c.gid).team k.toNat i.toNat more))).bar
          (s.grp c.gid).team k.toNat i.toNat) ∧
        SameRegs (s.grp c.gid) ((finish c c.act (.done (arriveAs s c.gid (s.grp c.gid).team k.toNat i.toNat more))).grp c.gid) ∧
        SameSpecials (s.grp c.gid) ((finish c c.act (.done (arriveAs s c.gid (s.grp c.gid).team k.toNat i.toNat more))).grp c.gid) ∧
        (finish c c.act (.done (arriveAs s c.gid (s.grp c.gid).team k.toNat i.toNat more))).mem = s.mem := by
      intro c s more
      obtain ⟨hg, hm, -⟩ := arriveAs_leaves s c.gid (s.grp c.gid).team k.toNat i.toNat more
      obtain ⟨hw, hr, hs, hmem⟩ := done_leaves (m := c.act) (hg c.gid) hm
      exact ⟨hw, arrivedIn_arriveAs c s _ _ _ more, hr, hs, hmem⟩
    rcases hx with rfl | rfl
    · refine hbara.does fun c s _ ⟨_, h, hs, _, hp⟩ => ?_
      rw [show baraB k i c s = _ from arriveB_arrives h hs (fun hd => absurd hd Bool.false_ne_true) hp]
      exact harrives c s _
    · refine hdrain.does fun c s _ ⟨_, h, hs, hc, hp⟩ => ?_
      rw [show drainB k i c s = _ from arriveB_arrives h hs (fun _ => hc rfl) hp]
      exact harrives c s _
  · refine hbar.does fun c s hat ⟨hf, h, hs, hp⟩ => ?_
    rw [barB_of_fresh hf, arriveB_arrives h hs (fun hd => absurd hd Bool.false_ne_true) hp]
    obtain ⟨hg, hm, -⟩ := arriveAs_leaves s c.gid (s.grp c.gid).team k.toNat i.toNat []
    have harr := arrivedIn_arriveAs c s (s.grp c.gid).team k.toNat i.toNat []
    rw [if_neg Bool.false_ne_true]
    generalize arriveAs s c.gid (s.grp c.gid).team k.toNat i.toNat [] = u at hg hm harr ⊢
    rcases harr.phase with hcur | hover
    · rw [awaitPhase_of_current (Nat.le_of_eq hcur), wait_bar]
      obtain ⟨hw, hr, hmem⟩ := wait_leaves (m := c.act) (w := .phase k.toNat i.toNat (barOf k i c s).phase) hat (hg c.gid) hm
      exact ⟨harr, (if_pos hcur).mpr hw, hr, hmem⟩
    · rw [awaitPhase_of_over (hover.symm ▸ Nat.lt_succ_self _), done_bar, (barReturn_ord _ _ _ _ _ _).bar]
      obtain ⟨hw, hr, hmem⟩ := return_leaves (m := c.act) (hg c.gid) hm (s.grp c.gid).team k.toNat i.toNat (barOf k i c s).phase
      exact ⟨harr, (if_neg (hover.symm ▸ Nat.succ_ne_self _)).mpr hw, hr, hmem⟩
  · rcases hx with rfl | rfl
    · refine ⟨hbar.does fun c s _ ⟨hw, h⟩ => ?_, hbar.waits fun c s ⟨hw, h⟩ => (barB_of_phase hw).trans (awaitPhase_of_current h)⟩
      rw [barB_of_phase hw, awaitPhase_of_over h]
      exact return_leaves rfl rfl _ _ _ _
    · refine ⟨hbarw.does fun c s _ ⟨hw, h⟩ => ?_, hbarw.waits fun c s ⟨hw, h⟩ => (barwB_of_phase hw).trans (awaitPhase_of_current h)⟩
      rw [barwB_of_phase hw, awaitPhase_of_over h]
      exact return_leaves rfl rfl _ _ _ _
  · refine hbarw.waits fun c s ⟨hf, h, hown, hall⟩ => ?_
    obtain ⟨q, hq, hmem, hqm⟩ := find_own hown
    rw [barwB_of_own hf h hq, hall q hmem hqm]
    exact awaitPhase_of_current (Nat.le_refl _)
  · refine hbarw.does fun c s hat ⟨hf, h, hnone⟩ => ?_
    rw [barwB_of_none hf h hnone]
    obtain ⟨hg, hm, hb⟩ := barLook_leaves s (s.grp c.gid).team k.toNat i.toNat
    have hcount : counted (barOf k i c s) = (barOf k i c s).arrived + (barOf k i c s).uncounted := by
      rw [uncounted_eq]; rfl
    generalize barLook s (s.grp c.gid).team k.toNat i.toNat = u at hg hm hb ⊢
    rw [hcount]
    rcases Nat.lt_or_ge ((barOf k i c s).arrived + (barOf k i c s).uncounted) (barOf k i c s).expect with hless | hfull
    · have hsame : u.bar (s.grp c.gid).team k.toNat i.toNat = barOf k i c s := hb.trans
        (congrArg Prod.snd (barAdvance_of_less s hless))
      rw [awaitPhase_of_current (Nat.le_of_eq (congrArg Bar.phase hsame)), wait_bar]
      obtain ⟨hw, hr, hmem⟩ := wait_leaves (m := c.act) (w := .phase k.toNat i.toNat (barOf k i c s).phase) hat (hg c.gid) hm
      exact ⟨fun _ => ⟨hw, hsame⟩, fun hf => absurd hless (Nat.not_lt.mpr hf), hr, hmem⟩
    · obtain ⟨hph, ha, -⟩ := barAdvance_of_full s hfull
      have hover : (u.bar (s.grp c.gid).team k.toNat i.toNat).phase = (barOf k i c s).phase + 1 := (congrArg Bar.phase hb).trans hph
      rw [awaitPhase_of_over (hover.symm ▸ Nat.lt_succ_self _), done_bar, (barReturn_ord _ _ _ _ _ _).bar]
      obtain ⟨hw, hr, hmem⟩ := return_leaves (m := c.act) (hg c.gid) hm (s.grp c.gid).team k.toNat i.toNat (barOf k i c s).phase
      exact ⟨fun hl => absurd hl (Nat.not_lt.mpr hfull), fun _ => ⟨hw, hover, (congrArg Bar.arrived hb).trans ha⟩, hr, hmem⟩
  · refine hbarw.does fun c s _ ⟨hf, h, ⟨q, hmem, hqm, hall⟩⟩ => ?_
    obtain ⟨q', hq', hmem', hqm'⟩ := find_own ⟨q, hmem, hqm⟩
    rw [barwB_of_own hf h hq', awaitPhase_of_over (hall q' hmem' hqm')]
    exact return_leaves rfl rfl _ _ _ _

end Sys2Proof.Machine

/-! Taking a fault (R309 to R311, R313). -/
namespace Sys2Proof.Machine

/-! ### The record (R310) -/

/-- Eight words entered one after another are each read where they stand. -/
theorem eight_words (w0 w1 w2 w3 w4 w5 w6 w7 : Nat) :
    let r := ([w0, w1, w2, w3, w4, w5, w6, w7].zipIdx).foldl
      (fun (l : List (Nat × Word)) p => aset 0 p.2 (BitVec.ofNat 32 p.1) l) []
    aget 0 0 r = BitVec.ofNat 32 w0 ∧ aget 0 1 r = BitVec.ofNat 32 w1 ∧ aget 0 2 r = BitVec.ofNat 32 w2 ∧
      aget 0 3 r = BitVec.ofNat 32 w3 ∧ aget 0 4 r = BitVec.ofNat 32 w4 ∧ aget 0 5 r = BitVec.ofNat 32 w5 ∧
      aget 0 6 r = BitVec.ofNat 32 w6 ∧ aget 0 7 r = BitVec.ofNat 32 w7 := by
  simp only [List.zipIdx_cons, List.zipIdx_nil, List.foldl_cons, List.foldl_nil, Nat.zero_add, Nat.reduceAdd]
  have hsame := fun (i : Nat) (v : Word) (l : List (Nat × Word)) => aget_aset 0 i v l
  have hother := fun (i j : Nat) (h : i ≠ j) (v : Word) (l : List (Nat × Word)) => aget_aset_ne 0 h v l
  refine ⟨?_, ?_, ?_, ?_, ?_, ?_, ?_, ?_⟩ <;>
    simp only [hsame, hother, ne_eq, reduceCtorEq, not_false_eq_true, OfNat.ofNat_ne_zero, zero_ne_one, one_ne_zero,
      Nat.reduceEqDiff, OfNat.zero_ne_ofNat, OfNat.one_ne_ofNat, OfNat.ofNat_ne_one]

theorem mkXrec_record {e : FaultInfo} (he : e.cause + 256 * e.flag < 2 ^ 16) (pc : DWord) (point : BitVec 16) (rad nest : Bool)
    (other : DWord) (m : Lanes) :
    faultRecord e pc point rad nest other m (mkXrec e pc point rad nest false other (e.mask.getD m)) := by
  obtain ⟨h0, h1, h2, h3, h4, h5, h6, h7⟩ := eight_words
    (e.cause + 256 * e.flag + 2 ^ 16 * (if e.va then bits e.ea 32 16 else 0)) (pc.extractLsb' 0 32).toNat
    (pc.extractLsb' 32 32).toNat
    (point.toNat + 2 ^ 16 * (if rad then 1 else 0) + 2 ^ 17 * (if nest then 1 else 0) + 2 ^ 18 * (if false then 1 else 0) +
      2 ^ 19 * (if e.va then bits e.ea 48 9 else 0))
    (other.extractLsb' 0 32).toNat (other.extractLsb' 32 32).toNat (e.ea % 2 ^ 32) (e.mask.getD m).toNat
  have hpoint := point.isLt
  have hhi : (if e.va then bits e.ea 48 9 else 0) < 2 ^ 9 := by
    split
    · exact Nat.mod_lt _ (by decide)
    · decide
  refine ⟨?_, h1.trans (BitVec.ofNat_toNat ..), h2.trans (BitVec.ofNat_toNat ..), ?_, h4.trans (BitVec.ofNat_toNat ..),
    h5.trans (BitVec.ofNat_toNat ..), h6.trans ?_, h7.trans (BitVec.ofNat_toNat ..)⟩
  · exact (congrArg BitVec.toNat h0).trans (BitVec.toNat_ofNat _ _)
  · refine (congrArg BitVec.toNat h3).trans ((BitVec.toNat_ofNat _ _).trans ?_)
    rw [if_neg Bool.false_ne_true, Nat.mul_zero, Nat.add_zero]
    refine Nat.mod_eq_of_lt ?_
    split <;> split <;> omega
  · apply BitVec.eq_of_toNat_eq
    rw [BitVec.toNat_ofNat, BitVec.toNat_ofNat, Nat.mod_mod]

/-! ### The group that has taken a fault -/

/-- The recorded PC of a fault. -/
def faultPcOf (g : Group) (fid : Nat) (e : FaultInfo) : DWord := e.pc.getD (g.frag fid).faultPc

/-- The eight fault registers of a fault. -/
def recordOf (s : State) (gid fid : Nat) (e : FaultInfo) (m : Lanes) : List (Nat × Word) :=
  mkXrec e (faultPcOf (s.grp gid) fid e) (s.grp gid).lastEqp (s.radOf (s.grp gid)) (s.grp gid).inh false
    (s.otherAddr (s.launchOf (s.grp gid)) (s.grp gid).eqpRole (s.grp gid).lastEqp (s.radOf (s.grp gid))) (e.mask.getD m)

/-- The group with the registers of a fault, before it enters a handler or is suspended. -/
def recorded (s : State) (gid fid : Nat) (e : FaultInfo) (m : Lanes) : Group :=
  { (s.grp gid).drainSfu.dropHeld with
    xrec := recordOf s gid fid e m, xpc := faultPcOf (s.grp gid) fid e, xem := ((s.grp gid).frag fid).em
    xmode := (s.grp gid).mode }

/-- The group in its handler at an address. -/
def inHandler (s : State) (gid fid : Nat) (e : FaultInfo) (m : Lanes) (a : DWord) : Group :=
  { recorded s gid fid e m with
    inh := true, mode := 0x20, hctx := some (fid, ((s.grp gid).frag fid).stack, (recorded s gid fid e m).joins) }.setFrag fid
    { (s.grp gid).frag fid with
      pc := a, lit := none, wait := .run, replay := none, age := 0, promoted := false, did := ((s.grp gid).frag fid).did + 1 }

/-- The group that the fault suspends. -/
def suspended (s : State) (gid fid : Nat) (e : FaultInfo) (m : Lanes) : Group :=
  { recorded s gid fid e m with susp := some fid }.setFrag fid
    { (s.grp gid).frag fid with lit := none, wait := .run, did := ((s.grp gid).frag fid).did + 1 }

/-- What landing results and dropping held accesses keeps of a group. -/
theorem drained_keeps (g : Group) : SameSpecials g g.drainSfu.dropHeld ∧ g.drainSfu.dropHeld.s = g.s ∧
    g.drainSfu.dropHeld.p = g.p ∧ g.drainSfu.dropHeld.susp = g.susp ∧ g.drainSfu.dropHeld.joins = g.joins ∧
    g.drainSfu.dropHeld.idx = g.idx ∧ g.drainSfu.dropHeld.team = g.team ∧ g.drainSfu.dropHeld.held = [] ∧
    g.drainSfu.dropHeld.v = g.drainSfu.v := by
  obtain ⟨v, vp, q, h⟩ : ∃ v vp q, g.drainSfu = { g with v := v, vpois := vp, sfu := q } := ⟨_, _, _, (drainSfu_lands g).eq⟩
  rw [h]
  exact ⟨⟨rfl, rfl, rfl, rfl, rfl, rfl, rfl, rfl, rfl⟩, rfl, rfl, rfl, rfl, rfl, rfl, rfl, rfl⟩

theorem drainSfu_v_of_empty {g : Group} (h : g.sfu = []) : g.drainSfu.v = g.v := by
  unfold Group.drainSfu
  rw [h]
  rfl

/-- What the registers of a fault are, and what the group keeps. -/
theorem recorded_leaves (s : State) (gid fid : Nat) (e : FaultInfo) (m : Lanes) :
    (recorded s gid fid e m).xrec = recordOf s gid fid e m ∧ (recorded s gid fid e m).xpc = faultPcOf (s.grp gid) fid e ∧
      (recorded s gid fid e m).xem = ((s.grp gid).frag fid).em ∧ (recorded s gid fid e m).xmode = (s.grp gid).mode ∧
      (recorded s gid fid e m).mode = (s.grp gid).mode ∧ (recorded s gid fid e m).inh = (s.grp gid).inh ∧
      (recorded s gid fid e m).s = (s.grp gid).s ∧ (recorded s gid fid e m).p = (s.grp gid).p ∧
      (recorded s gid fid e m).flags = (s.grp gid).flags ∧ (recorded s gid fid e m).v = (s.grp gid).drainSfu.v ∧
      (recorded s gid fid e m).held = [] ∧ (recorded s gid fid e m).joins = (s.grp gid).joins ∧
      (recorded s gid fid e m).susp = (s.grp gid).susp ∧ (recorded s gid fid e m).idx = (s.grp gid).idx ∧
      (recorded s gid fid e m).team = (s.grp gid).team := by
  obtain ⟨⟨hmode, hflags, -, -, -, -, -, hinh, -⟩, hs, hp, hsusp, hjoins, hidx, hteam, hheld, hv⟩ := drained_keeps (s.grp gid)
  exact ⟨rfl, rfl, rfl, rfl, hmode, hinh, hs, hp, hflags, hv, hheld, hjoins, hsusp, hidx, hteam⟩

/-! ### The two ways of a fault (R309, R311, R313) -/

/-- The report of a fault that suspends its group, as the model forms it. -/
def suspendReport (s : State) (gid fid : Nat) (e : FaultInfo) (m : Lanes) : Report :=
  ⟨(s.launchOf (s.grp gid)).asid, s.coreOf (recorded s gid fid e m), (recorded s gid fid e m).idx,
    (s.team (recorded s gid fid e m).team).launch, faultPcOf (s.grp gid) fid e, ((s.grp gid).frag fid).em,
    (recorded s gid fid e m).xmode, recordOf s gid fid e m, s.time⟩

section TakeFault
variable {s : State} {gid fid : Nat} {e : FaultInfo} {m : Lanes}

theorem takeFault_eq : takeFault s gid fid e m =
    match (s.launchOf (s.grp gid)).handler (s.radOf (s.grp gid)) with
    | some a =>
      if !(recorded s gid fid e m).inh && handlerOk e.cause e.flag then s.setGrp gid (inHandler s gid fid e m a)
      else (s.setGrp gid (suspended s gid fid e m)).report (suspendReport s gid fid e m)
    | none => (s.setGrp gid (suspended s gid fid e m)).report (suspendReport s gid fid e m) := by
  rfl

theorem takeFault_to_handler {a : DWord} (ha : (s.launchOf (s.grp gid)).handler (s.radOf (s.grp gid)) = some a)
    (hinh : (s.grp gid).inh = false) (hok : handlerOk e.cause e.flag = true) :
    takeFault s gid fid e m = s.setGrp gid (inHandler s gid fid e m a) := by
  have h : (recorded s gid fid e m).inh = false := (recorded_leaves s gid fid e m).2.2.2.2.2.1.trans hinh
  rw [takeFault_eq, ha]
  exact if_pos (by rw [hok, h]; rfl)

theorem takeFault_suspends (h : (s.launchOf (s.grp gid)).handler (s.radOf (s.grp gid)) = none ∨ (s.grp gid).inh = true ∨
      handlerOk e.cause e.flag = false) :
    takeFault s gid fid e m = (s.setGrp gid (suspended s gid fid e m)).report (suspendReport s gid fid e m) := by
  have hinh : (recorded s gid fid e m).inh = (s.grp gid).inh := (recorded_leaves s gid fid e m).2.2.2.2.2.1
  rw [takeFault_eq]
  cases ha : (s.launchOf (s.grp gid)).handler (s.radOf (s.grp gid)) with
  | none => rfl
  | some a =>
    refine if_neg ?_
    rcases h.resolve_left (by rw [ha]; exact nofun) with hin | hbad
    · rw [hinh, hin]
      exact Bool.false_ne_true
    · rw [hbad, Bool.and_false]
      exact Bool.false_ne_true

theorem suspendReport_eq : suspendReport s gid fid e m =
    reportOf s gid fid (faultPcOf (s.grp gid) fid e) (recordOf s gid fid e m) := by
  obtain ⟨-, -, -, hmode, -, -, -, -, -, -, -, -, -, hidx, hteam⟩ := recorded_leaves s gid fid e m
  simp only [suspendReport, reportOf, State.asidOf, State.coreOf, hmode, hidx, hteam]

end TakeFault

/-- A report changes the report queue alone. -/
def ReportOnly (s t : State) : Prop :=
  t = { s with repHeld := t.repHeld, repMem := t.repMem, repHead := t.repHead, irqs := t.irqs }

theorem report_only (s : State) (x : Report) : ReportOnly s (s.report x) := by
  unfold State.report
  split <;> rfl

theorem ReportOnly.eq {s t : State} (h : ReportOnly s t) :
    t = { s with repHeld := t.repHeld, repMem := t.repMem, repHead := t.repHead, irqs := t.irqs } := h
theorem ReportOnly.grp {s t : State} (h : ReportOnly s t) (k : Nat) : t.grp k = s.grp k := by rw [h.eq]; rfl
theorem ReportOnly.mem {s t : State} (h : ReportOnly s t) : t.mem = s.mem := by rw [h.eq]

theorem afind_aput {α : Type} (k : Nat) (x : α) (l : List (Nat × α)) : afind k (aput k x l) = some x := by
  induction l with
  | nil => simp [aput, afind]
  | cons p r ih =>
    simp only [aput]
    split
    · simp [afind]
    · split
      · simp [afind]
      · rename_i h1 h2
        simp [afind, Ne.symm h2, ih]

/-- A report enters the queue while there is room and nothing is held. -/
theorem report_enters {s : State} (x : Report) (hroom : s.repHead - s.repTail ≠ 255) (hheld : s.repHeld = []) :
    afind s.repHead.toNat (s.report x).repMem = some x ∧ (s.report x).repHead = s.repHead + 1 := by
  unfold State.report
  rw [if_neg (by rw [hheld]; simpa using hroom)]
  exact ⟨afind_aput _ _ _, rfl⟩

/-- The group after a fault has the registers of the fault, whichever way it goes. -/
theorem takeFault_grp (s : State) (gid fid : Nat) (e : FaultInfo) (m : Lanes) :
    (∃ a, (takeFault s gid fid e m).grp gid = inHandler s gid fid e m a) ∨
      (takeFault s gid fid e m).grp gid = suspended s gid fid e m := by
  by_cases h : (s.launchOf (s.grp gid)).handler (s.radOf (s.grp gid)) = none ∨ (s.grp gid).inh = true ∨
      handlerOk e.cause e.flag = false
  · refine .inr ?_
    rw [takeFault_suspends h, (report_only _ _).grp, grp_setGrp]
  · simp only [not_or, Bool.not_eq_true, Bool.not_eq_false] at h
    obtain ⟨hne, hinh, hok⟩ := h
    obtain ⟨a, ha⟩ := Option.ne_none_iff_exists'.mp hne
    refine .inl ⟨a, ?_⟩
    rw [takeFault_to_handler ha hinh hok, grp_setGrp]

theorem takeFault_xrec (s : State) (gid fid : Nat) (e : FaultInfo) (m : Lanes) :
    ((takeFault s gid fid e m).grp gid).xrec = recordOf s gid fid e m := by
  rcases takeFault_grp s gid fid e m with ⟨a, h⟩ | h <;> rw [h] <;> rfl

theorem takeFault_elsewhere (s : State) (gid fid : Nat) (e : FaultInfo) (m : Lanes) :
    (takeFault s gid fid e m).mem = s.mem ∧ ∀ k, k ≠ gid → (takeFault s gid fid e m).grp k = s.grp k := by
  by_cases h : (s.launchOf (s.grp gid)).handler (s.radOf (s.grp gid)) = none ∨ (s.grp gid).inh = true ∨
      handlerOk e.cause e.flag = false
  · rw [takeFault_suspends h]
    exact ⟨(report_only _ _).mem, fun k hk => ((report_only _ _).grp k).trans (grp_setGrp_ne _ hk _)⟩
  · simp only [not_or, Bool.not_eq_true, Bool.not_eq_false] at h
    obtain ⟨hne, hinh, hok⟩ := h
    obtain ⟨a, ha⟩ := Option.ne_none_iff_exists'.mp hne
    rw [takeFault_to_handler ha hinh hok]
    exact ⟨rfl, fun k hk => grp_setGrp_ne _ hk _⟩

/-- Settles O28: the record is laid down first; then the launch's handler runs, or the group is suspended and reported. -/
theorem takingAFaultWritesItsRecord : Obligations.TakingAFaultWritesItsRecord := by
  intro s gid fid e m g f t h l rad pc he
  have hpc : pc = faultPcOf g fid e := rfl
  obtain ⟨hrec, hxpc, hxem, hxmode, hmode, hinh, hs, hp, hfl, hv, hheld, hjoins, hsusp, -, -⟩ := recorded_leaves s gid fid e m
  obtain ⟨hmem, hother⟩ := takeFault_elsewhere s gid fid e m
  have hxrec : h.xrec = recordOf s gid fid e m := takeFault_xrec s gid fid e m
  have hv' : g.sfu = [] → (recorded s gid fid e m).v = g.v := fun hq => hv.trans (drainSfu_v_of_empty hq)
  have hkeeps : h.xpc = pc ∧ h.xem = f.em ∧ h.xmode = g.mode ∧ h.s = g.s ∧ h.p = g.p ∧ h.flags = g.flags ∧
      (g.sfu = [] → h.v = g.v) ∧ h.held = [] ∧ ∀ w, (h.frag fid).wait ≠ .locate w := by
    rcases takeFault_grp s gid fid e m with ⟨a, hg⟩ | hg
    · have hh : h = inHandler s gid fid e m a := hg
      rw [hh]
      exact ⟨hxpc, hxem, hxmode, hs, hp, hfl, hv', hheld, fun w => by rw [inHandler, frag_setFrag]; exact nofun⟩
    · have hh : h = suspended s gid fid e m := hg
      rw [hh]
      exact ⟨hxpc, hxem, hxmode, hs, hp, hfl, hv', hheld, fun w => by rw [suspended, frag_setFrag]; exact nofun⟩
  obtain ⟨k1, k2, k3, k4, k5, k6, k7, k8, k9⟩ := hkeeps
  refine ⟨?_, k1, k2, k3, k4, k5, k6, k7, hmem, hother, k8, k9, fun a ha hin hok => ?_, fun hno => ?_⟩
  · rw [hxrec]
    exact mkXrec_record he _ _ _ _ _ _
  · have hh : h = inHandler s gid fid e m a := by
      have ht : t = s.setGrp gid (inHandler s gid fid e m a) := takeFault_to_handler ha hin hok
      exact (congrArg (State.grp · gid) ht).trans (grp_setGrp _ _ _)
    rw [hh]
    refine ⟨rfl, rfl, ?_, ?_, ?_, hsusp⟩
    · rw [inHandler, frag_setFrag]
    · rw [inHandler, frag_setFrag]
    · exact congrArg (fun j => some (fid, f.stack, j)) hjoins
  · have ht : t = (s.setGrp gid (suspended s gid fid e m)).report (suspendReport s gid fid e m) := takeFault_suspends hno
    have hh : h = suspended s gid fid e m :=
      (congrArg (State.grp · gid) ht).trans (((report_only _ _).grp gid).trans (grp_setGrp _ _ _))
    refine ⟨?_, ?_, ?_, ?_, fun hroom hq => ?_⟩
    · rw [hh]; rfl
    · rw [hh]; exact hinh
    · rw [hh]; exact hmode
    · rw [hh, suspended, frag_setFrag]
    · obtain ⟨hin, hhead⟩ := report_enters (s := s.setGrp gid (suspended s gid fid e m)) (suspendReport s gid fid e m) hroom hq
      rw [hxrec, hpc, ht]
      exact ⟨hin.trans (congrArg some suspendReport_eq), hhead⟩

end Sys2Proof.Machine

/-! Equivalence points, migration and roles (R55, R101, R102, R105). -/
namespace Sys2Proof.Machine

/-! ### EQP (R101) -/

theorem beq_nil {α : Type} [BEq α] (l : List α) : (l == []) = l.isEmpty := by cases l <;> rfl

theorem busyCounter_isNone (g : Group) :
    (busyCounter g).isNone = (g.loads == [] && g.stores == [] && g.tiles == [] && !g.opn) := by
  unfold busyCounter Group.ldc Group.stc Group.tlc
  cases g.loads with
  | cons => rfl
  | nil =>
    cases g.stores with
    | cons => rfl
    | nil =>
      cases g.tiles with
      | cons => rfl
      | nil => cases g.opn <;> rfl

theorem eqpMeets_eq (s : State) (g : Group) (n : BitVec 16) :
    eqpMeets s g n = (g.joins == [] && g.loads == [] && g.stores == [] && g.tiles == [] && !g.opn && hasPoint s g n) := by
  rw [eqpMeets, busyCounter_isNone]
  simp only [beq_nil, Bool.and_assoc]

/-- The group as an EQP at point n leaves it. -/
def passedPoint (c : Ctx) (s : State) (n : BitVec 16) (g : Group) : Group :=
  { (g.goto c.fid (nextPc c)) with
    lastEqp := n, eqpRole := s.pointRole g n c.pc, justEqp := some n, eqpMay := (s.launchOf g).policy == 2 && eqpMeets s g n }

/-- Staying after an effect on the group alone. -/
theorem finish_stay_onGrp (c : Ctx) (m : Lanes) (s : State) (f : Group → Group) :
    finish c m (.stay (onGrp s c f)) = s.setGrp c.gid ((f (s.grp c.gid)).retire.passOn c.fid) := by
  simp only [finish, onGrp, modGrp_eq, grp_setGrp, setGrp_setGrp]

theorem pointRole_elsewhere {s : State} {g : Group} {n : BitVec 16} {pc : DWord}
    (h : ∀ p ∈ s.points (s.launchOf g), p.point = n.toNat → pointAddr (s.launchOf g) p (s.radOf g) ≠ pc) :
    s.pointRole g n pc = g.role := by
  have hnone : ((s.points (s.launchOf g)).find? fun p =>
      p.point == n.toNat && pointAddr (s.launchOf g) p (s.radOf g) == pc) = none :=
    List.find?_eq_none.mpr fun p hp => by simpa using h p hp
  simp only [State.pointRole, hnone, Option.map_none, Option.getD_none]

theorem pointRole_here {s : State} {g : Group} {n : BitVec 16} {pc : DWord} {p : PointTab} (hp : p ∈ s.points (s.launchOf g))
    (hn : p.point = n.toNat) (ha : pointAddr (s.launchOf g) p (s.radOf g) = pc) :
    ∃ q ∈ s.points (s.launchOf g), q.point = n.toNat ∧ pointAddr (s.launchOf g) q (s.radOf g) = pc ∧
      s.pointRole g n pc = q.role := by
  have hex : ∃ x ∈ s.points (s.launchOf g),
      (x.point == n.toNat && pointAddr (s.launchOf g) x (s.radOf g) == pc) = true := ⟨p, hp, by simp [hn, ha]⟩
  obtain ⟨q, hq⟩ := Option.isSome_iff_exists.mp (List.find?_isSome.mpr hex)
  have hprop := List.find?_some hq
  simp only [Bool.and_eq_true, beq_iff_eq] at hprop
  refine ⟨q, List.mem_of_find?_eq_some hq, hprop.1, hprop.2, ?_⟩
  simp only [State.pointRole, hq, Option.map_some, Option.getD_some]

theorem eqp_means (r : Option (BitVec 13)) (n : BitVec 16) : Means (both r (.eqp n) fun w => .eqpRadish w n) (eqpB n) :=
  Means.of_issues (exec_eqp n) (exec_eqpRadish · n)

/-! ### MIGR (R102, R283) -/

section Migr
variable {k : Bool} {n : BitVec 16} {c : Ctx} {s : State}

/-- MIGR of a group that does not wait at one already. -/
def firstMigr (k : Bool) (n : BitVec 16) (c : Ctx) (s : State) : Act :=
  if (s.launchOf (s.grp c.gid)).policy = 0 then .fault s (flt 3 2)
  else if (s.team (s.grp c.gid).team).stream.isSome && k then .fault s (flt 3 5)
  else if (s.grp c.gid).frags.length > 1 || !(s.grp c.gid).joins.isEmpty then .fault s (flt 12 2)
  else match busyCounter (s.grp c.gid) with
    | some j => .fault s (fltV 4 1 (j + 256 * 4))
    | none =>
      if (s.grp c.gid).justEqp ≠ some n then .fault s (flt 4 1)
      else if !hasPoint s (s.grp c.gid) n then .fault s (fltV 4 1 (256 * 7))
      else if (match (s.team (s.grp c.gid).team).migr with | some m => m.1 != k || m.2.1 != n.toNat | none => false)
        then .fault s (flt 12 3)
      else .wait (migrArrive s c.gid k n) (.migr k n)

theorem migrB_of_first (h : ∀ a b, c.wait ≠ .migr a b) : migrB k n c s = firstMigr k n c s := by
  unfold migrB
  split
  case h_1 a b hw => exact absurd hw (h a b)
  case h_2 => rfl

/-- R102's conditions before those of the group itself. -/
structure MayMigrate (k : Bool) (c : Ctx) (s : State) : Prop where
  policy : (s.launchOf (s.grp c.gid)).policy ≠ 0
  stream : (s.team (s.grp c.gid).team).stream = none ∨ k = false

/-- The group has one fragment and no join record. -/
def oneFragment (g : Group) : Prop := g.frags.length ≤ 1 ∧ g.joins = []

/-- Nothing of the group is outstanding. -/
def quietGroup (g : Group) : Prop := g.loads = [] ∧ g.stores = [] ∧ g.tiles = [] ∧ g.opn = false

theorem busyCounter_of_quiet {g : Group} : busyCounter g = none ↔ quietGroup g := by
  rw [← Option.isNone_iff_eq_none, busyCounter_isNone]
  simp only [beq_nil, Bool.and_eq_true, List.isEmpty_iff, Bool.not_eq_true', and_assoc, quietGroup]

theorem firstMigr_forbidden (h : ¬(s.launchOf (s.grp c.gid)).policy ≠ 0) : firstMigr k n c s = .fault s (flt 3 2) :=
  if_pos (not_not.mp h)

theorem firstMigr_stream (hp : (s.launchOf (s.grp c.gid)).policy ≠ 0)
    (h : ¬((s.team (s.grp c.gid).team).stream = none ∨ k = false)) : firstMigr k n c s = .fault s (flt 3 5) := by
  simp only [not_or, Bool.not_eq_false] at h
  obtain ⟨hs, hk⟩ := h
  exact (if_neg hp).trans (if_pos (by rw [hk, Bool.and_true]; exact Option.isSome_iff_ne_none.mpr hs))

theorem firstMigr_of_may (h : MayMigrate k c s) : firstMigr k n c s =
    if (s.grp c.gid).frags.length > 1 || !(s.grp c.gid).joins.isEmpty then .fault s (flt 12 2)
    else match busyCounter (s.grp c.gid) with
      | some j => .fault s (fltV 4 1 (j + 256 * 4))
      | none =>
        if (s.grp c.gid).justEqp ≠ some n then .fault s (flt 4 1)
        else if !hasPoint s (s.grp c.gid) n then .fault s (fltV 4 1 (256 * 7))
        else if (match (s.team (s.grp c.gid).team).migr with | some m => m.1 != k || m.2.1 != n.toNat | none => false)
          then .fault s (flt 12 3)
        else .wait (migrArrive s c.gid k n) (.migr k n) := by
  obtain ⟨hp, hs⟩ := h
  refine (if_neg hp).trans ((if_neg ?_).trans rfl)
  rcases hs with hs | hs <;> simp [hs]

theorem firstMigr_many (h : MayMigrate k c s) (h1 : ¬oneFragment (s.grp c.gid)) : firstMigr k n c s = .fault s (flt 12 2) := by
  refine (firstMigr_of_may h).trans (if_pos ?_)
  simp only [oneFragment, not_and_or, Nat.not_le] at h1
  simpa using h1

/-- A MIGR of a group with one fragment. -/
theorem firstMigr_of_one (h : MayMigrate k c s) (h1 : oneFragment (s.grp c.gid)) : firstMigr k n c s =
    match busyCounter (s.grp c.gid) with
    | some j => .fault s (fltV 4 1 (j + 256 * 4))
    | none =>
      if (s.grp c.gid).justEqp ≠ some n then .fault s (flt 4 1)
      else if !hasPoint s (s.grp c.gid) n then .fault s (fltV 4 1 (256 * 7))
      else if (match (s.team (s.grp c.gid).team).migr with | some m => m.1 != k || m.2.1 != n.toNat | none => false)
        then .fault s (flt 12 3)
      else .wait (migrArrive s c.gid k n) (.migr k n) := by
  obtain ⟨hf, hj⟩ := h1
  exact (firstMigr_of_may h).trans (if_neg (by simp [hj, Nat.not_lt.mpr hf]))

theorem firstMigr_busy (h : MayMigrate k c s) (h1 : oneFragment (s.grp c.gid)) (hq : ¬quietGroup (s.grp c.gid)) :
    ∃ j, firstMigr k n c s = .fault s (fltV 4 1 (j + 256 * 4)) := by
  obtain ⟨j, hj⟩ := Option.ne_none_iff_exists'.mp (mt busyCounter_of_quiet.mp hq)
  exact ⟨j, by rw [firstMigr_of_one h h1, hj]⟩

/-- A MIGR of a group with nothing outstanding. -/
theorem firstMigr_of_quiet (h : MayMigrate k c s) (h1 : oneFragment (s.grp c.gid)) (hq : quietGroup (s.grp c.gid)) :
    firstMigr k n c s =
      if (s.grp c.gid).justEqp ≠ some n then .fault s (flt 4 1)
      else if !hasPoint s (s.grp c.gid) n then .fault s (fltV 4 1 (256 * 7))
      else if (match (s.team (s.grp c.gid).team).migr with | some m => m.1 != k || m.2.1 != n.toNat | none => false)
        then .fault s (flt 12 3)
      else .wait (migrArrive s c.gid k n) (.migr k n) := by
  rw [firstMigr_of_one h h1, busyCounter_of_quiet.mpr hq]

theorem firstMigr_elsewhere (h : MayMigrate k c s) (h1 : oneFragment (s.grp c.gid)) (hq : quietGroup (s.grp c.gid))
    (hj : (s.grp c.gid).justEqp ≠ some n) : firstMigr k n c s = .fault s (flt 4 1) :=
  (firstMigr_of_quiet h h1 hq).trans (if_pos hj)

theorem hasPoint_eq_false {g : Group}
    (h : ∀ p ∈ s.points (s.launchOf g), p.point = n.toNat → p.role ≠ g.role) : hasPoint s g n = false := by
  refine List.any_eq_false.mpr fun p hp => ?_
  simpa using h p hp

theorem firstMigr_no_point (h : MayMigrate k c s) (h1 : oneFragment (s.grp c.gid)) (hq : quietGroup (s.grp c.gid))
    (hj : (s.grp c.gid).justEqp = some n) (hp : hasPoint s (s.grp c.gid) n = false) :
    firstMigr k n c s = .fault s (fltV 4 1 (256 * 7)) :=
  (firstMigr_of_quiet h h1 hq).trans ((if_neg (not_not_intro hj)).trans (if_pos (by rw [hp]; rfl)))

theorem firstMigr_at_point (h : MayMigrate k c s) (h1 : oneFragment (s.grp c.gid)) (hq : quietGroup (s.grp c.gid))
    (hj : (s.grp c.gid).justEqp = some n) (hp : hasPoint s (s.grp c.gid) n = true) :
    firstMigr k n c s =
      if (match (s.team (s.grp c.gid).team).migr with | some m => m.1 != k || m.2.1 != n.toNat | none => false)
        then .fault s (flt 12 3)
      else .wait (migrArrive s c.gid k n) (.migr k n) :=
  (firstMigr_of_quiet h h1 hq).trans ((if_neg (not_not_intro hj)).trans (if_neg (by rw [hp]; exact Bool.false_ne_true)))

end Migr

/-- A migration in which a team gathers changes that team and the migration queue alone. -/
theorem migSettle_leaves (s : State) (tid : Nat) : ∃ q, migSettle s tid = { s with migq := q } := by
  unfold migSettle
  dsimp only
  split
  · exact ⟨s.migq, rfl⟩
  · split
    · exact ⟨s.migq, rfl⟩
    · exact ⟨_, rfl⟩

theorem liveGroups_setMigr (s : State) (tid : Nat) (m : Option (Bool × Nat × List Nat)) :
    (s.setTeam tid { s.team tid with migr := m }).liveGroups tid = s.liveGroups tid := by
  unfold State.liveGroups
  rw [team_setTeam]
  rfl

/-- The first group of a team to arrive. -/
theorem migrArrive_first {s : State} {gid : Nat} {k : Bool} {n : BitVec 16}
    (hm : (s.team (s.grp gid).team).migr = none) (hlive : gid ∈ s.liveGroups (s.grp gid).team)
    (hq : ∀ e ∈ s.migq, e.team ≠ (s.grp gid).team) :
    ((migrArrive s gid k n).team (s.grp gid).team).migr = some (k, n.toNat, [gid]) ∧
      (migrArrive s gid k n).migq = (if (s.liveGroups (s.grp gid).team).all [gid].contains
        then s.migq ++ [⟨(s.grp gid).team, k, n.toNat, teamClass s (s.grp gid).team, s.time, false, none⟩] else s.migq) ∧
      (∀ j, (migrArrive s gid k n).grp j = s.grp j) ∧ (migrArrive s gid k n).mem = s.mem := by
  generalize ht : (s.grp gid).team = tid at *
  have harr : migrArrive s gid k n =
      migSettle (s.setTeam tid { s.team tid with migr := some (k, n.toNat, [gid]) }) tid := by
    simp only [migrArrive, ht, hm]
  have hl := liveGroups_setMigr s tid (some (k, n.toNat, [gid]))
  have hcls : teamClass (s.setTeam tid { s.team tid with migr := some (k, n.toNat, [gid]) }) tid = teamClass s tid := by
    unfold teamClass
    rw [hl]
    rfl
  rw [harr]
  obtain ⟨q, hkeep⟩ := migSettle_leaves (s.setTeam tid { s.team tid with migr := some (k, n.toNat, [gid]) }) tid
  refine ⟨?_, ?_, fun j => ?_, ?_⟩
  · rw [hkeep]
    exact congrArg Team.migr (team_setTeam s tid _)
  · unfold migSettle
    have hne : (s.liveGroups tid).isEmpty = false := by
      cases h : s.liveGroups tid with
      | nil => rw [h] at hlive; exact absurd hlive (by simp)
      | cons => rfl
    have hno : (s.migq.any fun e => e.team == tid) = false := List.any_eq_false.mpr fun e he => by simpa using hq e he
    have hqs : (s.setTeam tid { s.team tid with migr := some (k, n.toNat, [gid]) }).migq = s.migq := rfl
    simp only [team_setTeam, hl, hne, hqs, hno, hcls, Bool.false_or, Bool.or_false, Bool.not_eq_true']
    cases (s.liveGroups tid).all [gid].contains <;> rfl
  · rw [hkeep]; rfl
  · rw [hkeep]; rfl

theorem migr_means (r : Option (BitVec 13)) (k : Bool) (n : BitVec 16) :
    Means (both r (.migrTeam k n) fun w => .migrTeamRadish w k n) (migrB k n) :=
  Means.of_issues (exec_migrTeam k n) (exec_migrTeamRadish · k n)

theorem all_contains_iff (l : List Nat) (m : Nat) : l.all [m].contains = true ↔ ∀ g ∈ l, g = m := by
  simp [List.all_eq_true]

/-! ### ROLESW (R38, R105) -/

section Rolesw
variable {i : BitVec 3} {c : Ctx} {s : State}

/-- The group in role i of its launch. -/
def inRole (c : Ctx) (s : State) (i : Nat) (g : Group) : Group :=
  { ((g.keepV (min ((s.launchOf (s.grp c.gid)).allot i c.rad) (s.grp c.gid).allot)).goto c.fid
      ((s.launchOf (s.grp c.gid)).entry i c.rad)) with
    role := i, allot := (s.launchOf (s.grp c.gid)).allot i c.rad
    prio := bits ((s.launchOf (s.grp c.gid)).role i 8 1) 0 2, mode := 0x20 }

/-- The role may be taken. -/
def roleOffered (i : Nat) (s : State) (g : Group) : Prop :=
  (s.launchOf g).roleKind i < 2 ∧ ((s.launchOf g).role g.role 9 1).testBit i = true

theorem roleswB_of_one (h : (s.grp c.gid).frags.length ≤ 1) : roleswB i c s =
    if (s.grp c.gid).ldc ≠ 0 then .fault s (fltV 4 2 (256 * 4))
    else if (s.grp c.gid).tlc ≠ 0 then .fault s (fltV 4 2 (2 + 256 * 4))
    else if (s.grp c.gid).opn then .fault s (fltV 4 2 (3 + 256 * 4))
    else if (s.launchOf (s.grp c.gid)).roleKind i.toNat ≥ 2 ||
        !Nat.testBit ((s.launchOf (s.grp c.gid)).role (s.grp c.gid).role 9 1) i.toNat then .fault s (flt 3 4)
    else .stay (onGrp s c (inRole c s i.toNat)) := uniform_of_one h

theorem roleswB_loads (h : (s.grp c.gid).frags.length ≤ 1) (hl : (s.grp c.gid).loads ≠ []) :
    roleswB i c s = .fault s (fltV 4 2 (256 * 4)) :=
  (roleswB_of_one h).trans (if_pos (mt List.length_eq_zero_iff.mp hl))

theorem roleswB_of_no_loads (h : (s.grp c.gid).frags.length ≤ 1) (hl : (s.grp c.gid).loads = []) : roleswB i c s =
    if (s.grp c.gid).tlc ≠ 0 then .fault s (fltV 4 2 (2 + 256 * 4))
    else if (s.grp c.gid).opn then .fault s (fltV 4 2 (3 + 256 * 4))
    else if (s.launchOf (s.grp c.gid)).roleKind i.toNat ≥ 2 ||
        !Nat.testBit ((s.launchOf (s.grp c.gid)).role (s.grp c.gid).role 9 1) i.toNat then .fault s (flt 3 4)
    else .stay (onGrp s c (inRole c s i.toNat)) :=
  (roleswB_of_one h).trans (if_neg (not_not_intro (List.length_eq_zero_iff.mpr hl)))

theorem roleswB_tiles (h : (s.grp c.gid).frags.length ≤ 1) (hl : (s.grp c.gid).loads = []) (ht : (s.grp c.gid).tiles ≠ []) :
    roleswB i c s = .fault s (fltV 4 2 (2 + 256 * 4)) :=
  (roleswB_of_no_loads h hl).trans (if_pos (mt List.length_eq_zero_iff.mp ht))

theorem roleswB_of_no_tiles (h : (s.grp c.gid).frags.length ≤ 1) (hl : (s.grp c.gid).loads = []) (ht : (s.grp c.gid).tiles = []) :
    roleswB i c s =
    if (s.grp c.gid).opn then .fault s (fltV 4 2 (3 + 256 * 4))
    else if (s.launchOf (s.grp c.gid)).roleKind i.toNat ≥ 2 ||
        !Nat.testBit ((s.launchOf (s.grp c.gid)).role (s.grp c.gid).role 9 1) i.toNat then .fault s (flt 3 4)
    else .stay (onGrp s c (inRole c s i.toNat)) :=
  (roleswB_of_no_loads h hl).trans (if_neg (not_not_intro (List.length_eq_zero_iff.mpr ht)))

theorem roleOffered_iff : ((s.launchOf (s.grp c.gid)).roleKind i.toNat ≥ 2 ||
    !Nat.testBit ((s.launchOf (s.grp c.gid)).role (s.grp c.gid).role 9 1) i.toNat) = true ↔ ¬roleOffered i.toNat s (s.grp c.gid) := by
  simp only [roleOffered, Bool.or_eq_true, decide_eq_true_eq, Bool.not_eq_true', not_and_or, Nat.not_lt, Bool.not_eq_true]

/-- ROLESW of a group with one fragment and nothing outstanding. -/
theorem roleswB_of_idle (h : (s.grp c.gid).frags.length ≤ 1 ∧ (s.grp c.gid).loads = [] ∧ (s.grp c.gid).tiles = [] ∧
      (s.grp c.gid).opn = false) : roleswB i c s =
    if (s.launchOf (s.grp c.gid)).roleKind i.toNat ≥ 2 ||
        !Nat.testBit ((s.launchOf (s.grp c.gid)).role (s.grp c.gid).role 9 1) i.toNat then .fault s (flt 3 4)
    else .stay (onGrp s c (inRole c s i.toNat)) := by
  obtain ⟨h1, hl, ht, ho⟩ := h
  exact (roleswB_of_no_tiles h1 hl ht).trans (if_neg (by rw [ho]; exact Bool.false_ne_true))

end Rolesw

/-- Reading a list of pairs from which the keys past a bound are gone. -/
theorem aget_below_filter {α : Type} (d : α) (n q : Nat) (l : List (Nat × α)) :
    aget d q (l.filter fun p => p.1 < n) = if q < n then aget d q l else d := by
  induction l with
  | nil => simp [aget]
  | cons p r ih =>
    by_cases hp : p.1 < n
    · rw [List.filter_cons_of_pos (by simpa using hp)]
      simp only [aget]
      split
      · rename_i he
        rw [if_pos (he ▸ hp)]
      · exact ih
    · rw [List.filter_cons_of_neg (by simpa using hp), ih]
      split
      · rename_i hq
        have hne : p.1 ≠ q := fun he => hp (he ▸ hq)
        simp only [aget, hne, if_false]
      · rfl

/-- The registers of a group in a new role: those below both allotments stay, those it gains are zero. -/
theorem keepV_vreg (g : Group) (a q : Nat) :
    (q < a → (g.keepV a).vreg q = g.drainSfu.vreg q) ∧ (a ≤ q → (g.keepV a).vreg q = zeros32 ∧ (g.keepV a).vPois q = 0) := by
  have hv := aget_below_filter zeros32 a q g.drainSfu.v
  have hp := aget_below_filter (0 : Lanes) a q g.drainSfu.vpois
  exact ⟨fun h => hv.trans (if_pos h), fun h => ⟨hv.trans (if_neg (Nat.not_lt.mpr h)), hp.trans (if_neg (Nat.not_lt.mpr h))⟩⟩

theorem keepV_keeps (g : Group) (a : Nat) : (g.keepV a).s = g.s ∧ (g.keepV a).p = g.p ∧ (g.keepV a).flags = g.flags ∧
    (g.keepV a).rset = g.rset ∧ (g.keepV a).stores = g.stores ∧ (g.keepV a).cb = g.cb ∧ (g.keepV a).cbd = g.cbd ∧
    (g.keepV a).retired = g.retired := by
  obtain ⟨v, vp, q, h⟩ : ∃ v vp q, g.drainSfu = { g with v := v, vpois := vp, sfu := q } := ⟨_, _, _, (drainSfu_lands g).eq⟩
  unfold Group.keepV
  rw [h]
  exact ⟨rfl, rfl, rfl, rfl, rfl, rfl, rfl, rfl⟩

/-- The group in its new role, once the instruction has retired. -/
theorem inRole_leaves (c : Ctx) (s : State) (i : Nat) (g : Group) :
    let h := ((inRole c s i g).retire).passOn c.fid
    let l := s.launchOf (s.grp c.gid)
    let k := g.keepV (min (l.allot i c.rad) (s.grp c.gid).allot)
    (h.role = i ∧ h.mode = 0x20 ∧ h.allot = l.allot i c.rad ∧ h.prio = bits (l.role i 8 1) 0 2) ∧
      (h.frag c.fid).pc = l.entry i c.rad ∧
      (h.s = g.s ∧ h.p = g.p ∧ h.flags = g.flags ∧ h.rset = g.rset ∧ h.stores = g.stores ∧ h.cb = g.cb ∧ h.cbd = g.cbd ∧
        h.retired = g.retired + 1) ∧
      (∀ q, h.vreg q = k.vreg q) ∧ ∀ q, h.vPois q = k.vPois q := by
  intro h l k
  obtain ⟨ks, kp, kf, kr, kst, kcb, kcbd, kret⟩ := keepV_keeps g (min (l.allot i c.rad) (s.grp c.gid).allot)
  refine ⟨⟨rfl, rfl, rfl, rfl⟩, (passOn_frag _ _).1.trans (goto_frag k _ _), ?_, fun q => ?_, fun q => ?_⟩
  · exact ⟨ks, kp, kf, kr, kst, kcb, kcbd, congrArg (· + 1) kret⟩
  · rfl
  · rfl

theorem rolesw_means (r : Option (BitVec 13)) (i : BitVec 3) :
    Means (both r (.rolesw i) fun w => .roleswRadish w i) (roleswB i) :=
  Means.of_issues (exec_rolesw i) (exec_roleswRadish · i)

/-- Settles O22: EQP by uniformity, MIGR by the conditions of R102 in their order, ROLESW by those of R105. -/
theorem equivalencePointMigrationAndRole : Obligations.EquivalencePointMigrationAndRole := by
  intro r
  refine ⟨fun n => ⟨?_, ?_⟩, fun k n => ?_, fun i => ?_⟩
  · refine (eqp_means r n).does fun c s _ h => ?_
    rw [show eqpB n c s = .stay (onGrp s c (passedPoint c s n)) from uniform_of_one h, finish_stay_onGrp]
    refine ⟨?_, ?_, ?_, ?_⟩
    · rw [grp_setGrp]
      refine congrArg (Group.passOn · c.fid) ?_
      unfold passedPoint
      rw [eqpMeets_eq]
      rfl
    · rw [grp_setGrp]
    · rw [grp_setGrp]
      exact pointRole_elsewhere
    · rw [grp_setGrp]
      exact fun p hp hn ha => pointRole_here hp hn ha
  · refine faultsIf_both (exec_eqp n) (exec_eqpRadish · n) fun c s h => uniform_of_many h
  · have hm := migr_means r k n
    refine ⟨?_, ?_, ?_, ?_, ?_, ?_, ?_, ?_⟩
    · exact hm.traps fun c s ⟨hf, h⟩ => (migrB_of_first hf).trans (firstMigr_forbidden h)
    · exact hm.traps fun c s ⟨hf, ha, h⟩ => (migrB_of_first hf).trans (firstMigr_stream ha h)
    · exact hm.traps fun c s ⟨hf, ha, hs, h⟩ => (migrB_of_first hf).trans (firstMigr_many ⟨ha, hs⟩ h)
    · refine hm.does fun c s _ ⟨hf, ha, hs, h1, hq⟩ => ?_
      obtain ⟨j, hj⟩ := firstMigr_busy (n := n) ⟨ha, hs⟩ h1 hq
      obtain ⟨h0, -⟩ := mkXrec_record (e := fltV 4 1 (j + 256 * 4)) (show 4 + 256 * 1 < 2 ^ 16 by decide) (faultPcOf (s.grp c.gid) c.fid (fltV 4 1 (j + 256 * 4)))
        (s.grp c.gid).lastEqp (s.radOf (s.grp c.gid)) (s.grp c.gid).inh
        (s.otherAddr (s.launchOf (s.grp c.gid)) (s.grp c.gid).eqpRole (s.grp c.gid).lastEqp (s.radOf (s.grp c.gid))) c.act
      rw [migrB_of_first hf, hj]
      exact congrArg (· % 2 ^ 16)
        ((congrArg (fun x => (aget 0 0 x).toNat) (takeFault_xrec s c.gid c.fid (fltV 4 1 (j + 256 * 4)) c.act)).trans h0)
    · exact hm.traps fun c s ⟨hf, ha, hs, h1, hq, h⟩ => (migrB_of_first hf).trans (firstMigr_elsewhere ⟨ha, hs⟩ h1 hq h)
    · exact hm.traps fun c s ⟨hf, ha, hs, h1, ⟨hj, hq⟩, h⟩ =>
        (migrB_of_first hf).trans (firstMigr_no_point ⟨ha, hs⟩ h1 hq hj (hasPoint_eq_false h))
    · refine hm.does fun c s hat ⟨hf, ha, hs, h1, ⟨hj, hq⟩, hp, hmig, hlive, hqueue⟩ => ?_
      rw [migrB_of_first hf, firstMigr_at_point ⟨ha, hs⟩ h1 hq hj hp, hmig, if_neg Bool.false_ne_true]
      obtain ⟨harr, hmigq, hg, hmem⟩ := migrArrive_first (k := k) (n := n) hmig hlive hqueue
      obtain ⟨hw, hr, hm'⟩ := wait_leaves (m := c.act) (w := .migr k n) hat (hg c.gid) hmem
      have hnow : (finish c c.act (.wait (migrArrive s c.gid k n) (.migr k n))).migq = _ := hmigq
      refine ⟨hw, harr, ?_, ?_, hr, hm'⟩
      · rw [← all_contains_iff, hnow]
        cases (s.liveGroups (s.grp c.gid).team).all [c.gid].contains <;> simp
      · rw [hnow]
        cases (s.liveGroups (s.grp c.gid).team).all [c.gid].contains <;> simp
    · refine hm.traps fun c s ⟨hf, ha, hs, h1, ⟨hj, hq⟩, hp, m, hmig, hne⟩ => ?_
      rw [migrB_of_first hf, firstMigr_at_point ⟨ha, hs⟩ h1 hq hj hp, hmig]
      exact if_pos (by simpa using hne)
  · have hm := rolesw_means r i
    refine ⟨?_, ?_, ?_, ?_, ?_, ?_⟩
    · exact hm.traps fun c s h => uniform_of_many h
    · exact hm.traps fun c s ⟨h, hl⟩ => roleswB_loads h hl
    · exact hm.traps fun c s ⟨h, hl, ht⟩ => roleswB_tiles h hl ht
    · exact hm.traps fun c s ⟨h, hl, ht, ho⟩ => (roleswB_of_no_tiles h hl ht).trans (if_pos ho)
    · exact hm.traps fun c s ⟨hi, h⟩ => (roleswB_of_idle hi).trans (if_pos (roleOffered_iff.mpr h))
    · refine hm.does fun c s _ ⟨hi, h⟩ => ?_
      rw [(roleswB_of_idle hi).trans (if_neg (not_not_intro h ∘ roleOffered_iff.mp)), finish_stay_onGrp]
      dsimp only
      rw [grp_setGrp]
      obtain ⟨⟨h1, h2, h3, h4⟩, hpc, ⟨k1, k2, k3, k4, k5, k6, k7, k8⟩, hv, hp⟩ := inRole_leaves c s i.toNat (s.grp c.gid)
      refine ⟨h1, h2, hpc, h3, h4.trans (congrArg (· % 4) (Nat.div_one _)), k8, k1, k2, k3, k4, k5, k6, k7, rfl, fun q => ⟨?_, ?_⟩⟩
      · rw [h3]
        exact fun hq => (hv q).trans ((keepV_vreg _ _ q).1 (Nat.lt_min.mpr hq))
      · intro hq _
        obtain ⟨z1, z2⟩ := (keepV_vreg (s.grp c.gid)
          (min ((s.launchOf (s.grp c.gid)).allot i.toNat c.rad) (s.grp c.gid).allot) q).2 (Nat.le_trans (Nat.min_le_right _ _) hq)
        exact ⟨(hv q).trans z1, (hp q).trans z2⟩

end Sys2Proof.Machine

/-! The end of a fragment and of its group, and the fence of code (R46, R53, R106, R108). -/
namespace Sys2Proof.Machine

/-! ### What settling a team and a launch leaves (R106) -/

/-- Groups and memory are as they were. -/
def GroupsMem (s t : State) : Prop := t.groups = s.groups ∧ t.mem = s.mem

namespace GroupsMem

theorem refl (s : State) : GroupsMem s s := ⟨rfl, rfl⟩
theorem trans {s t u : State} (h : GroupsMem s t) (k : GroupsMem t u) : GroupsMem s u := ⟨k.1.trans h.1, k.2.trans h.2⟩

theorem foldl {α : Type} {f : State → α → State} (h : ∀ s a, GroupsMem s (f s a)) (l : List α) (s : State) :
    GroupsMem s (l.foldl f s) := by
  induction l generalizing s with
  | nil => exact refl s
  | cons a l ih => exact (h s a).trans (ih _)

theorem grp {s t : State} (h : GroupsMem s t) (k : Nat) : t.grp k = s.grp k := by unfold State.grp; rw [h.1]
theorem byte {s t : State} (h : GroupsMem s t) (a : Nat) : t.byte a = s.byte a := by unfold State.byte; rw [h.2]

end GroupsMem

theorem answer_groupsMem (s : State) (who : Caller) (v : DWord) : GroupsMem s (s.answer who v) := by
  unfold State.answer
  split <;> exact ⟨rfl, rfl⟩

theorem endLaunch_groupsMem (s : State) (l : Nat) : GroupsMem s (endLaunch s l) := by
  have htt : GroupsMem s (match (s.launch l).tt with
      | some e => { s with tt := aput e { aget TtEnt.empty e s.tt with run := false } s.tt }
      | none => s) := by
    split <;> exact ⟨rfl, rfl⟩
  have hcalls : ∀ (u : State) (l : List WaitCall), GroupsMem u (l.foldl (fun s w => s.answer w.who 0) u) :=
    fun u l => GroupsMem.foldl (fun s (w : WaitCall) => answer_groupsMem s w.who 0) l u
  exact (htt.trans (hcalls _ _)).trans ⟨rfl, rfl⟩

theorem settleTeam_groupsMem (s : State) (tid : Nat) : GroupsMem s (settleTeam s tid) := by
  unfold settleTeam
  dsimp only
  split
  · exact .refl s
  split
  · exact .refl s
  split
  · exact .refl s
  split
  · exact ⟨rfl, rfl⟩
  split
  · exact GroupsMem.trans ⟨rfl, rfl⟩ (endLaunch_groupsMem _ _)
  · exact ⟨rfl, rfl⟩

theorem migSettle_groupsMem (s : State) (tid : Nat) : GroupsMem s (migSettle s tid) := by
  obtain ⟨q, hq⟩ := migSettle_leaves s tid
  rw [hq]
  exact ⟨rfl, rfl⟩

/-! ### Lane-private lines that are dropped (R46) -/

theorem pokes_groups (s : State) (k : Nat) (bs : List Byte) : (s.pokes k bs).groups = s.groups := by
  unfold State.pokes
  split <;> rfl

theorem pokes_byte {s : State} {k a : Nat} (b : Byte) (h : a ≠ k) : (s.pokes k [b]).byte a = s.byte a := by
  unfold State.pokes
  split
  · exact (mget_mwrite _ _ _ _).trans (dif_neg (by simp only [List.length_singleton]; omega))
  · rfl

theorem foldl_pokes {f : Nat × Byte → Byte} (l : List (Nat × Byte)) (s : State) :
    (l.foldl (fun s x => s.pokes x.1 [f x]) s).groups = s.groups ∧
      ∀ a, (∀ x ∈ l, x.1 ≠ a) → (l.foldl (fun s x => s.pokes x.1 [f x]) s).byte a = s.byte a := by
  induction l generalizing s with
  | nil => exact ⟨rfl, fun _ _ => rfl⟩
  | cons x l ih =>
    obtain ⟨hg, hb⟩ := ih (s.pokes x.1 [f x])
    refine ⟨hg.trans (pokes_groups _ _ _), fun a ha => (hb a fun y hy => ha y (List.mem_cons_of_mem _ hy)).trans ?_⟩
    exact pokes_byte _ (ha x List.mem_cons_self).symm

/-- Taking writes back leaves the groups, and every byte that none of those writes covers. -/
theorem unwrite_leaves (s : State) (p : WriteRec → Bool) : (unwrite s p).groups = s.groups ∧
    ∀ a, (∀ w ∈ s.ord.writes, p w = true → w.covers a = false) → (unwrite s p).byte a = s.byte a := by
  unfold unwrite
  dsimp only
  generalize hks : (((s.ord.writes.filter fun w => w.done && p w).flatMap fun w =>
    (List.range w.bytes.length).map (w.addr + ·)).eraseDups) = ks
  obtain ⟨hg, hb⟩ := foldl_pokes (f := fun x => match ((s.ord.writes.filter fun w => !(w.done && p w)).map fun w =>
      { w with old := w.old.zipIdx.map fun (b : Byte × Nat) => ((ks.map fun k => (k, s.initByte k)).lookup (w.addr + b.2)).getD b.1 }).find?
        fun w => w.done && w.covers x.1 with
      | some w => w.byteAt x.1
      | none => x.2) (ks.map fun k => (k, s.initByte k))
    { s with ord := { s.ord with writes := (s.ord.writes.filter fun w => !(w.done && p w)).map fun w =>
      { w with old := w.old.zipIdx.map fun (b : Byte × Nat) => ((ks.map fun k => (k, s.initByte k)).lookup (w.addr + b.2)).getD b.1 } } }
  refine ⟨hg, fun a ha => hb a fun x hx hxa => ?_⟩
  obtain ⟨k, hk, rfl⟩ := List.mem_map.mp hx
  rw [← hks, List.mem_eraseDups] at hk
  obtain ⟨w, hw, hkw⟩ := List.mem_flatMap.mp hk
  obtain ⟨hwm, hwp⟩ := List.mem_filter.mp hw
  obtain ⟨i, hi, hki⟩ := List.mem_map.mp hkw
  rw [Bool.and_eq_true] at hwp
  have hcov := ha w hwm hwp.2
  have hyes : w.covers a = true := by
    have hlt := List.mem_range.mp hi
    simp only at hxa
    simp only [WriteRec.covers, Bool.and_eq_true, decide_eq_true_eq]
    omega
  exact absurd (hyes.symm.trans hcov) Bool.true_eq_false_eq_False

theorem dropPriv_leaves (s : State) (gid : Nat) : (dropPriv s gid).groups = s.groups ∧
    ∀ a, (∀ w ∈ s.ord.writes, w.priv = true → w.place.group = gid → w.covers a = false) → (dropPriv s gid).byte a = s.byte a := by
  unfold dropPriv
  dsimp only
  split
  · obtain ⟨hg, hb⟩ := unwrite_leaves s fun w =>
      (w.priv && w.place.group == gid) && Config.free s.fresh 6 (w.addr / 128) % 2 == 1
    refine ⟨hg, fun a ha => hb a fun w hw hp => ?_⟩
    simp only [Bool.and_eq_true, beq_iff_eq] at hp
    obtain ⟨⟨hpriv, hgrp⟩, -⟩ := hp
    exact ha w hw hpriv hgrp
  · exact ⟨rfl, fun _ _ => rfl⟩

/-! ### A group that has exited (R98, R106) -/

/-- Groups, memory, copies and writes are as they were. -/
def Untouched (s t : State) : Prop :=
  t.groups = s.groups ∧ t.mem = s.mem ∧ t.copies = s.copies ∧ t.ord.writes = s.ord.writes

namespace Untouched

theorem refl (s : State) : Untouched s s := ⟨rfl, rfl, rfl, rfl⟩

theorem trans {s t u : State} (h : Untouched s t) (k : Untouched t u) : Untouched s u := by
  obtain ⟨h1, h2, h3, h4⟩ := h
  obtain ⟨k1, k2, k3, k4⟩ := k
  exact ⟨k1.trans h1, k2.trans h2, k3.trans h3, k4.trans h4⟩

theorem foldl {α : Type} {f : State → α → State} (h : ∀ s a, Untouched s (f s a)) (l : List α) (s : State) :
    Untouched s (l.foldl f s) := by
  induction l generalizing s with
  | nil => exact refl s
  | cons a l ih => exact (h s a).trans (ih _)

end Untouched

theorem foldl_setAg_writes (l : List Nat) (n : Nat) (o : Ord) :
    (l.foldl (fun o a => o.setAg a { o.ag a with at_ := some n }) o).writes = o.writes := by
  induction l generalizing o with
  | nil => rfl
  | cons a l ih => exact (ih _).trans rfl

theorem groupEvent_untouched (s : State) (gid : Nat) (more : List Nat) : Untouched s (groupEvent s gid more).2 :=
  ⟨rfl, rfl, rfl, (foldl_setAg_writes _ _ _).trans rfl⟩

theorem setBar_untouched (s : State) (tid cls i : Nat) (b : Bar) : Untouched s (s.setBar tid cls i b) := by
  unfold State.setBar
  split <;> exact ⟨rfl, rfl, rfl, rfl⟩

theorem barAdvance_untouched (s : State) (b : Bar) : Untouched s (barAdvance s b).1 := by
  unfold barAdvance
  split <;> exact ⟨rfl, rfl, rfl, rfl⟩

theorem barLeave_untouched (s : State) (tid cls i m n : Nat) : Untouched s (barLeave s tid cls i m n) :=
  (barAdvance_untouched s _).trans (setBar_untouched _ _ _ _ _)

/-- The state in which a group that has exited counts at its barriers. -/
theorem leaveBars_untouched (s : State) (gid tid n : Nat) : Untouched s (allBars.foldl (fun s p =>
    let b := s.bar tid p.1 p.2
    if b.members.contains gid && !(b.gone.any fun m => m.1 == gid) then barLeave s tid p.1 p.2 gid n else s) s) := by
  refine Untouched.foldl (fun s p => ?_) _ _
  dsimp only
  split
  · exact barLeave_untouched _ _ _ _ _ _
  · exact .refl s

/-- What settling an exited group leaves of it, and of memory. -/
structure Settled (s t : State) (gid : Nat) : Prop where
  group : ∃ l, t.grp gid = { s.grp gid with live := l }
  free : (s.grp gid).exited = true → (s.grp gid).stores = [] → s.copiesOf gid = [] → (s.grp gid).loads = [] → (t.grp gid).live = false
  busy : (s.grp gid).stores ≠ [] → (t.grp gid).live = (s.grp gid).live
  byte : ∀ a, (∀ w ∈ s.ord.writes, w.priv = true → w.place.group = gid → w.covers a = false) → t.byte a = s.byte a

theorem settleGroup_settles (s : State) (gid : Nat) : Settled s (settleGroup s gid) gid := by
  unfold settleGroup
  dsimp only
  split
  case isTrue h =>
    refine ⟨⟨_, rfl⟩, fun he hs _ _ => ?_, fun _ => rfl, fun _ _ => rfl⟩
    simpa [he, hs] using h
  case isFalse h =>
    rw [Bool.or_eq_true, not_or, Bool.not_eq_true', Bool.not_eq_false, Bool.not_eq_true', Bool.not_eq_false] at h
    obtain ⟨-, hstores⟩ := h
    have hu := (groupEvent_untouched s gid []).trans
      (leaveBars_untouched (groupEvent s gid []).2 gid (s.grp gid).team (groupEvent s gid []).1)
    generalize allBars.foldl (fun s' p =>
      let b := s'.bar (s.grp gid).team p.1 p.2
      if b.members.contains gid && !(b.gone.any fun m => m.1 == gid) then barLeave s' (s.grp gid).team p.1 p.2 gid (groupEvent s gid []).1
      else s') (groupEvent s gid []).2 = u at hu ⊢
    obtain ⟨hgroups, hmem, hcopies, hwrites⟩ := hu
    have hgrp : u.grp gid = s.grp gid := by unfold State.grp; rw [hgroups]
    have hcop : u.copiesOf gid = s.copiesOf gid := by unfold State.copiesOf; rw [hcopies]
    have hst : (s.grp gid).stores = [] := List.isEmpty_iff.mp hstores
    rw [hcop]
    split
    case isTrue hfree =>
      obtain ⟨hdg, hdb⟩ := dropPriv_leaves u gid
      have hset := settleTeam_groupsMem ((dropPriv u gid).modGrp gid fun g => { g with live := false }) (s.grp gid).team
      have hfin : (settleTeam ((dropPriv u gid).modGrp gid fun g => { g with live := false }) (s.grp gid).team).grp gid =
          { s.grp gid with live := false } := by
        rw [hset.grp, grp_modGrp, State.grp, hdg, ← hgrp]
        rfl
      refine ⟨⟨false, hfin⟩, fun _ _ _ _ => by rw [hfin], fun hs => absurd hst hs, fun a ha => ?_⟩
      refine (hset.byte a).trans ((hdb a (by rw [hwrites]; exact ha)).trans ?_)
      unfold State.byte
      rw [hmem]
    case isFalse hbusy =>
      refine ⟨⟨_, hgrp⟩, fun _ _ hc hl => ?_, fun _ => by rw [hgrp], fun a _ => by unfold State.byte; rw [hmem]⟩
      exact absurd (by rw [hc, hl]; rfl) hbusy

/-- The group with its fragments and results gone, as it retires. -/
def emptied (g : Group) : Group :=
  { g with exited := true, loads := g.loads.filterMap LoadOp.orphan, pend := [], sfu := [], frags := [], joins := [] }

theorem copiesOf_closed (s t : State) (gid : Nat) (n : BitVec 16)
    (h : t.copies = s.copies.map fun c => (c.1, closedCopy gid n c.2)) : t.copiesOf gid = [] ↔ s.copiesOf gid = [] := by
  unfold State.copiesOf
  rw [h, List.filter_map, List.map_eq_nil_iff]
  have hsame : ((fun c : Nat × Copy => c.2.gid == gid && !c.2.ended) ∘ fun (c : Nat × Copy) => (c.1, closedCopy gid n c.2)) =
      fun c => c.2.gid == gid && !c.2.ended := by
    funext c
    simp only [Function.comp, closedCopy]
    split <;> rfl
  rw [hsame]

/-- What the end of a group leaves of it. -/
structure Retired (s t : State) (gid : Nat) : Prop where
  group : ∃ l cb cbd opn, t.grp gid = { emptied (s.grp gid) with live := l, cb := cb, cbd := cbd, opn := opn }
  free : (s.grp gid).stores = [] → s.copiesOf gid = [] → (emptied (s.grp gid)).loads = [] → (t.grp gid).live = false
  busy : (s.grp gid).stores ≠ [] → (t.grp gid).live = (s.grp gid).live
  byte : ∀ a, (∀ w ∈ s.ord.writes, w.priv = true → w.place.group = gid → w.covers a = false) → t.byte a = s.byte a

theorem retireGroup_retires (s : State) (gid : Nat) : Retired s (retireGroup s gid) gid := by
  obtain ⟨q, hq⟩ := migSettle_leaves (s.modGrp gid emptied) ((s.modGrp gid emptied).grp gid).team
  have heq : retireGroup s gid = settleGroup (if ((migSettle (s.modGrp gid emptied) ((s.modGrp gid emptied).grp gid).team).grp gid).opn
      then closeBatch (migSettle (s.modGrp gid emptied) ((s.modGrp gid emptied).grp gid).team) gid
      else migSettle (s.modGrp gid emptied) ((s.modGrp gid emptied).grp gid).team) gid := rfl
  rw [heq, hq]
  have hgrp : ({ s.modGrp gid emptied with migq := q } : State).grp gid = emptied (s.grp gid) := grp_modGrp s gid emptied
  have hcop : ({ s.modGrp gid emptied with migq := q } : State).copiesOf gid = s.copiesOf gid := rfl
  have hbyte : ∀ a, ({ s.modGrp gid emptied with migq := q } : State).byte a = s.byte a := fun _ => rfl
  have hwr : ({ s.modGrp gid emptied with migq := q } : State).ord.writes = s.ord.writes := rfl
  generalize ({ s.modGrp gid emptied with migq := q } : State) = u at hgrp hcop hbyte hwr ⊢
  split
  case isFalse =>
    obtain ⟨⟨l, hl⟩, hfree, hbusy, hb⟩ := settleGroup_settles u gid
    rw [hgrp] at hl hfree hbusy
    rw [hcop] at hfree
    refine ⟨⟨l, _, _, _, hl⟩, fun hs hc hld => hfree rfl hs hc hld, fun hs => hbusy hs, fun a ha => ?_⟩
    exact (hb a (by rw [hwr]; exact ha)).trans (hbyte a)
  case isTrue =>
    obtain ⟨hm, -, ho, hc, k, hk⟩ := closeBatch_leaves u gid
    obtain ⟨⟨l, hl⟩, hfree, hbusy, hb⟩ := settleGroup_settles (closeBatch u gid) gid
    have hcc := copiesOf_closed u (closeBatch u gid) gid _ hc
    rw [hk, hgrp] at hl hfree hbusy
    refine ⟨⟨l, _, _, _, hl⟩, fun hs hcp hld => hfree rfl hs (hcc.mpr (hcop.trans hcp)) hld, fun hs => hbusy hs, fun a ha => ?_⟩
    refine (hb a (by rw [ho, hwr]; exact ha)).trans (Eq.trans ?_ (hbyte a))
    unfold State.byte
    rw [hm]

/-! ### Join records after an exit (R53) -/

/-- The same group with its handler left, where it was in one. -/
def handlerLeft (g : Group) (i : Bool) (x : Option (Nat × List Lanes × List (Nat × Join))) : Group := { g with inh := i, hctx := x }

/-- Fusing looks at fragments and join records alone. -/
theorem tryFuse_handlerLeft (g : Group) (i : Bool) (x : Option (Nat × List Lanes × List (Nat × Join))) (j w : Nat) :
    tryFuse (handlerLeft g i x) j w = handlerLeft (tryFuse g j w) i x := by
  have hj : (handlerLeft g i x).joins = g.joins := rfl
  have hf : (handlerLeft g i x).frags = g.frags := rfl
  have hc : ∀ f, (handlerLeft g i x).chain f = g.chain f := fun _ => rfl
  have hg : ∀ k, (handlerLeft g i x).frag k = g.frag k := fun _ => rfl
  unfold tryFuse
  rw [hj, hf]
  simp only [hc, hg]
  split
  · rfl
  · split
    · rfl
    · split <;> rfl

theorem fuseAll_handlerLeft (g : Group) (i : Bool) (x : Option (Nat × List Lanes × List (Nat × Join))) (w : Nat) :
    fuseAll (handlerLeft g i x) w = handlerLeft (fuseAll g w) i x := by
  unfold fuseAll
  rw [show (handlerLeft g i x).joins = g.joins from rfl]
  generalize (g.joins.map (·.1)).reverse = l
  induction l generalizing g with
  | nil => rfl
  | cons j l ih => rw [List.foldl_cons, List.foldl_cons, tryFuse_handlerLeft, ih]

/-- Fusing changes fragments and join records alone. -/
def FuseOnly (g h : Group) : Prop := h = { g with frags := h.frags, joins := h.joins }

theorem tryFuse_only (g : Group) (j w : Nat) : FuseOnly g (tryFuse g j w) := by
  unfold FuseOnly tryFuse
  split
  · rfl
  · dsimp only
    split
    · rfl
    · split <;> rfl

theorem aput_ne_nil {α : Type} (k : Nat) (x : α) (l : List (Nat × α)) : aput k x l ≠ [] := by
  cases l with
  | nil => exact nofun
  | cons p r =>
    unfold aput
    split
    · exact nofun
    · split <;> exact nofun

theorem tryFuse_frags_ne_nil {g : Group} (j w : Nat) (h : g.frags ≠ []) : (tryFuse g j w).frags ≠ [] := by
  unfold tryFuse
  split
  · exact h
  · dsimp only
    split
    · exact h
    · split
      · exact aput_ne_nil _ _ _
      · exact h

theorem tryFuse_frags_nil {g : Group} (j w : Nat) (h : g.frags = []) : (tryFuse g j w).frags = [] := by
  unfold tryFuse
  split
  · exact h
  · rw [h]
    rfl

theorem FuseOnly.trans {g h k : Group} (p : FuseOnly g h) (q : FuseOnly h k) : FuseOnly g k := by
  unfold FuseOnly at *
  rw [q, p]

theorem fuseAll_leaves (g : Group) (w : Nat) : FuseOnly g (fuseAll g w) ∧ (g.frags ≠ [] → (fuseAll g w).frags ≠ []) ∧
    (g.frags = [] → (fuseAll g w).frags = []) := by
  unfold fuseAll
  generalize (g.joins.map (·.1)).reverse = l
  induction l generalizing g with
  | nil => exact ⟨rfl, id, id⟩
  | cons j l ih =>
    obtain ⟨h1, h2, h3⟩ := ih (tryFuse g j w)
    exact ⟨(tryFuse_only g j w).trans h1, fun h => h2 (tryFuse_frags_ne_nil j w h), fun h => h3 (tryFuse_frags_nil j w h)⟩

theorem fuseAll_no_joins {g : Group} (w : Nat) (h : g.joins = []) : fuseAll g w = g := by
  unfold fuseAll
  rw [h]
  rfl

theorem fuseAll_one_join {g : Group} {j : Nat} {k : Join} (w : Nat) (h : g.joins = [(j, k)]) : fuseAll g w = tryFuse g j w := by
  unfold fuseAll
  rw [h]
  rfl

theorem mem_fragsUnder {g : Group} {j : Nat} {p : Nat × Frag} : p ∈ fragsUnder g j ↔ p ∈ g.frags ∧ j ∈ g.chain p.2 := by
  simp [fragsUnder]

/-- The one open record, whose other fragments all wait at its JOIN. -/
theorem fuse_one_of_all {g : Group} {j : Nat} {k : Join} (w : Nat) (h : g.joins = [(j, k)])
    (hall : ∀ p ∈ g.frags, j ∈ g.chain p.2 → p.2.wait = .join j) : (fuseAll g w).joins = [] := by
  have hrec : afind j g.joins = some k := by rw [h]; simp [afind]
  have hdel : adel j g.joins = [] := by rw [h]; simp [adel]
  rw [fuseAll_one_join w h]
  cases hunder : fragsUnder g j with
  | nil =>
    have hu : (g.frags.filter fun p => (g.chain p.2).contains j) = [] := hunder
    simp only [tryFuse, hrec, hu, hdel]
  | cons p q =>
    have hw : ((fragsUnder g j).all fun p => p.2.wait == .join j) = true := by
      refine List.all_eq_true.mpr fun x hx => ?_
      obtain ⟨hx1, hx2⟩ := mem_fragsUnder.mp hx
      exact beq_iff_eq.mpr (hall x hx1 hx2)
    exact (tryFuse_of_all w hrec hunder hw).2.trans hdel

/-- The one open record, of which some fragment is elsewhere. -/
theorem fuse_one_of_elsewhere {g : Group} {j : Nat} {k : Join} {p : Nat × Frag} (w : Nat) (h : g.joins = [(j, k)])
    (hp : p ∈ g.frags) (hc : j ∈ g.chain p.2) (hw : p.2.wait ≠ .join j) : fuseAll g w = g := by
  have hrec : afind j g.joins = some k := by rw [h]; simp [afind]
  rw [fuseAll_one_join w h]
  refine tryFuse_of_some_elsewhere w hrec (Bool.eq_false_iff.mpr fun hall => hw ?_)
  exact beq_iff_eq.mp (List.all_eq_true.mp hall p (mem_fragsUnder.mpr ⟨hp, hc⟩))

/-! ### EXIT (R53, R106) -/

/-- The group without the fragment that exits, out of its handler where it was the handler's. -/
def withoutFrag (g : Group) (fid : Nat) : Group := { g with frags := adel fid g.frags }

/-- The handler's fragment exits. -/
def leavesHandler (g : Group) (fid : Nat) : Bool := match g.hctx with | some h => g.inh && h.1 == fid | none => false

/-- The group after the exit of a fragment. -/
def afterExit (c : Ctx) (g : Group) : Group :=
  if leavesHandler g c.fid then handlerLeft (fuseAll (withoutFrag g c.fid) (if c.rad then 8 else 4)) false none
  else fuseAll (withoutFrag g c.fid) (if c.rad then 8 else 4)

theorem exitB_eq (c : Ctx) (s : State) : exitB c s =
    .stay (if (afterExit c (s.grp c.gid)).frags.isEmpty then retireGroup (s.setGrp c.gid (afterExit c (s.grp c.gid))) c.gid
      else s.setGrp c.gid (afterExit c (s.grp c.gid))) := by
  have hfuse := fuseAll_handlerLeft (withoutFrag (s.grp c.gid) c.fid) false none (if c.rad then 8 else 4)
  have hbody : ∀ b, fuseAll (withoutFrag (if b = true then handlerLeft (s.grp c.gid) false none else s.grp c.gid) c.fid)
      (if c.rad then 8 else 4) = if b = true then handlerLeft (fuseAll (withoutFrag (s.grp c.gid) c.fid) (if c.rad then 8 else 4)) false none
        else fuseAll (withoutFrag (s.grp c.gid) c.fid) (if c.rad then 8 else 4) := by
    intro b
    cases b with
    | false => rfl
    | true => exact hfuse
  have h : exitB c s = .stay (if (fuseAll (withoutFrag (if leavesHandler (s.grp c.gid) c.fid = true
      then handlerLeft (s.grp c.gid) false none else s.grp c.gid) c.fid) (if c.rad then 8 else 4)).frags.isEmpty
      then retireGroup (s.setGrp c.gid (fuseAll (withoutFrag (if leavesHandler (s.grp c.gid) c.fid = true
        then handlerLeft (s.grp c.gid) false none else s.grp c.gid) c.fid) (if c.rad then 8 else 4))) c.gid
      else s.setGrp c.gid (fuseAll (withoutFrag (if leavesHandler (s.grp c.gid) c.fid = true
        then handlerLeft (s.grp c.gid) false none else s.grp c.gid) c.fid) (if c.rad then 8 else 4))) := rfl
  rw [h, hbody]
  rfl

/-- What the group keeps as a fragment exits. -/
theorem afterExit_leaves (c : Ctx) (g : Group) :
    (afterExit c g).frags = (fuseAll (withoutFrag g c.fid) (if c.rad then 8 else 4)).frags ∧
      (afterExit c g).joins = (fuseAll (withoutFrag g c.fid) (if c.rad then 8 else 4)).joins ∧
      SameRegs g (afterExit c g) ∧ (afterExit c g).exited = g.exited ∧ (afterExit c g).loads = g.loads ∧
      (afterExit c g).stores = g.stores ∧ (afterExit c g).live = g.live ∧ (leavesHandler g c.fid = true → (afterExit c g).inh = false) := by
  obtain ⟨hf, -, -⟩ := fuseAll_leaves (withoutFrag g c.fid) (if c.rad then 8 else 4)
  unfold afterExit
  generalize fuseAll (withoutFrag g c.fid) (if c.rad then 8 else 4) = h at hf ⊢
  have hkeep : h.v = g.v ∧ h.s = g.s ∧ h.p = g.p ∧ h.exited = g.exited ∧ h.loads = g.loads ∧ h.stores = g.stores ∧ h.live = g.live := by
    unfold FuseOnly at hf
    rw [hf]
    exact ⟨rfl, rfl, rfl, rfl, rfl, rfl, rfl⟩
  obtain ⟨h1, h2, h3, h4, h5, h6, h7⟩ := hkeep
  split
  case isTrue hl => exact ⟨rfl, rfl, ⟨h1, h2, h3⟩, h4, h5, h6, h7, fun _ => rfl⟩
  case isFalse hl => exact ⟨rfl, rfl, ⟨h1, h2, h3⟩, h4, h5, h6, h7, fun hy => absurd hy hl⟩

theorem exit_means (r : Option (BitVec 13)) : Means (both r .exitFrag .exitFragRadish) exitB :=
  Means.both (Means.of_issueBoth exec_exitFrag) fun w => Means.of_issue (exec_exitFragRadish w)

/-- Moving the fragments of a group on leaves a list of fragments without that one as it is. -/
theorem map_did_of_absent (fid : Nat) (l : List (Nat × Frag)) :
    (adel fid l).map (fun p => if p.1 = fid then (p.1, { p.2 with did := p.2.did + 1 }) else p) = adel fid l := by
  induction l with
  | nil => rfl
  | cons p r ih =>
    unfold adel
    split
    · exact ih
    · rename_i hne
      rw [List.map_cons, ih, if_neg (Ne.symm hne)]

theorem orphan_dst {op op' : LoadOp} (h : op.orphan = some op') : op'.dst = none := by
  unfold LoadOp.orphan at h
  split at h
  · rw [← Option.some.inj h]
  · exact nomatch h

/-- The exit of the last fragment. -/
theorem exit_last (c : Ctx) (m : Lanes) (s : State) {f : Frag} (hf : (s.grp c.gid).frags = [(c.fid, f)]) :
    let t := finish c m (exitB c s)
    (t.grp c.gid).frags = [] ∧ (t.grp c.gid).joins = [] ∧ (t.grp c.gid).exited = true ∧
    (t.grp c.gid).loads = (s.grp c.gid).loads.filterMap LoadOp.orphan ∧ (∀ op ∈ (t.grp c.gid).loads, op.dst = none) ∧
    (t.grp c.gid).stores = (s.grp c.gid).stores ∧
    ((s.grp c.gid).stores = [] ∧ s.copiesOf c.gid = [] ∧ (t.grp c.gid).loads = [] → (t.grp c.gid).live = false) ∧
    ((s.grp c.gid).stores ≠ [] → (t.grp c.gid).live = (s.grp c.gid).live) ∧
    ∀ a, (∀ w ∈ s.ord.writes, w.priv = true → w.place.group = c.gid → w.covers a = false) → t.byte a = s.byte a := by
  intro t
  obtain ⟨hfr, -, -, -, hlo, hst, hli, -⟩ := afterExit_leaves c (s.grp c.gid)
  have hempty : (afterExit c (s.grp c.gid)).frags = [] := by
    rw [hfr]
    refine (fuseAll_leaves _ _).2.2 ?_
    simp only [withoutFrag, hf, adel, if_true]
  have ht : t = finish c m (.stay (retireGroup (s.setGrp c.gid (afterExit c (s.grp c.gid))) c.gid)) := by
    simp only [t, exitB_eq, hempty, List.isEmpty_nil, if_true]
  obtain ⟨⟨l, cb, cbd, opn, hgrp⟩, hfree, hbusy, hbyte⟩ := retireGroup_retires (s.setGrp c.gid (afterExit c (s.grp c.gid))) c.gid
  rw [grp_setGrp] at hgrp hfree hbusy
  have htg : t.grp c.gid = { emptied (afterExit c (s.grp c.gid)) with live := l, cb := cb, cbd := cbd, opn := opn }.retire.passOn c.fid := by
    rw [ht, finish_stay_grp, hgrp]
  have hloads : (t.grp c.gid).loads = (s.grp c.gid).loads.filterMap LoadOp.orphan := by
    rw [htg]
    exact congrArg (List.filterMap LoadOp.orphan) hlo
  have hlive : (t.grp c.gid).live = l := by rw [htg]; rfl
  have hlive' : ((retireGroup (s.setGrp c.gid (afterExit c (s.grp c.gid))) c.gid).grp c.gid).live = l := by rw [hgrp]
  refine ⟨by rw [htg]; rfl, by rw [htg]; rfl, by rw [htg]; rfl, hloads, fun op hop => ?_, ?_, fun ⟨h1, h2, h3⟩ => ?_, fun h => ?_, fun a ha => ?_⟩
  · rw [hloads] at hop
    obtain ⟨x, -, hx⟩ := List.mem_filterMap.mp hop
    exact orphan_dst hx
  · rw [htg]
    exact hst
  · rw [hlive, ← hlive']
    refine hfree (hst.trans h1) h2 (Eq.trans ?_ h3)
    rw [htg]
    rfl
  · rw [hlive, ← hlive', hbusy (by rw [hst]; exact h), hli]
  · rw [ht]
    exact hbyte a ha

theorem adel_ne_nil {α : Type} {k j : Nat} {l : List (Nat × α)} {x : α} (hne : k ≠ j) (h : afind k l = some x) : adel j l ≠ [] := by
  intro hnil
  have hget : afind k (adel j l) = some x := by
    clear hnil
    induction l with
    | nil => exact nomatch h
    | cons p r ih =>
      unfold afind at h
      unfold adel
      split at h
      · rename_i hk
        rw [if_neg (fun hj => hne (hk.symm ▸ hj.symm))]
        unfold afind
        rw [if_pos hk, h]
      · rename_i hk
        split
        · exact ih h
        · unfold afind
          rw [if_neg hk]
          exact ih h
  rw [hnil] at hget
  exact nomatch hget

/-- The exit of one of several fragments. -/
theorem exit_other (c : Ctx) (m : Lanes) (s : State) {k : Nat} {f : Frag} (hk : k ≠ c.fid)
    (hf : afind k (s.grp c.gid).frags = some f) :
    finish c m (exitB c s) = s.setGrp c.gid ((afterExit c (s.grp c.gid)).retire.passOn c.fid) := by
  have hne : (afterExit c (s.grp c.gid)).frags ≠ [] := by
    rw [(afterExit_leaves c (s.grp c.gid)).1]
    exact (fuseAll_leaves _ _).2.1 (adel_ne_nil hk hf)
  rw [exitB_eq, if_neg (by simpa using hne)]
  simp only [finish, modGrp_eq, grp_setGrp, setGrp_setGrp]

/-! ### IFENCE (R108, R246) -/

theorem testBit_upToAll (o : Ord) (ps : List Nat) (m : Nat) (h : m ∈ ps) : (o.upToAll ps).testBit m = true := by
  have hfold : ∀ (l : List Nat) (a : Nat), (a.testBit m = true ∨ m ∈ l) → (l.foldl (fun x p => x ||| o.upTo p) a).testBit m = true := by
    intro l
    induction l with
    | nil => exact fun a ha => ha.resolve_right (by simp)
    | cons p r ih =>
      intro a ha
      refine ih _ ?_
      rcases ha with ha | ha
      · exact .inl (by rw [Nat.testBit_or, ha, Bool.true_or])
      · rcases List.mem_cons.mp ha with rfl | ha
        · refine .inl ?_
          rw [Nat.testBit_or, Ord.upTo, Nat.testBit_or]
          simp
        · exact .inr ha
  exact hfold ps 0 (.inr h)

/-- What happens before a new event: each of its direct predecessors. -/
theorem hb_newNode (o : Ord) {ps : List Nat} {m : Nat} (h : m ∈ ps) : (o.newNode ps).2.hb m (o.newNode ps).1 = true := by
  have hb : (o.newNode ps).2.before (o.newNode ps).1 = o.upToAll ps := by
    simp [Ord.before, Ord.newNode, Ord.newNode2]
  rw [Ord.hb, hb]
  exact testBit_upToAll o ps m h

/-- The events that an IFENCE follows: the last of each of the fragment's lanes, and the last fetch. -/
def fencedEvents (c : Ctx) (s : State) : List Nat :=
  ((lanesOf (c.own s)).filterMap fun l => (s.ord.ag (laneAgent c.gid l)).at_) ++ (s.ord.ag (fetchAgent c.gid)).at_.toList

/-- The events with that of an IFENCE as the last fetch of its group. -/
def fencedOrd (c : Ctx) (s : State) : Ord :=
  let x := s.ord.newNode (fencedEvents c s)
  x.2.setAg (fetchAgent c.gid) { x.2.ag (fetchAgent c.gid) with at_ := some x.1 }

theorem ifenceB_eq (c : Ctx) (s : State) : ifenceB c s = .done { s with ord := fencedOrd c s } := rfl

theorem ag_setAg (o : Ord) (a : Nat) (x : AgentOrd) : (o.setAg a x).ag a = x := aget_aput _ _ _ _

/-! ### The lanes of a fragment (R93, R246) -/

theorem fragMask_em (g : Group) (k l : Nat) (h : (g.frag k).em.getLsbD l = true) : (g.fragMask k).getLsbD l = true := by
  unfold Group.fragMask
  rw [BitVec.getLsbD_or, h, Bool.or_true]

theorem fragMask_alone {g : Group} {k : Nat} (h : g.frags = [(k, g.frag k)]) (l : Nat) :
    (g.fragMask k).getLsbD l = true ↔ ((g.frag k).em ||| (g.frag k).stack.getLastD (g.frag k).em).getLsbD l = true := by
  have hmask : g.fragMask k = (g.frag k).laneSet ||| (g.frag k).em := by
    unfold Group.fragMask
    rw [h]
    simp only [List.foldl_cons, List.foldl_nil, if_true]
  rw [hmask, BitVec.or_comm]
  rfl

/-- Settles O23: the last fragment's exit retires the group; another's leaves the rest, with what fusing does; IFENCE makes one event. -/
theorem exitRetiresLanesAndFenceOfCode : Obligations.ExitRetiresLanesAndFenceOfCode := by
  intro r
  refine ⟨?_, ?_, ?_, fun g k l _ => ⟨fragMask_em g k l, fun h => fragMask_alone h l⟩⟩
  · exact (exit_means r).does fun c s _ ⟨f, hf⟩ => exit_last c c.act s hf
  · refine (exit_means r).does fun c s _ ⟨k, f, hk, hf⟩ => ?_
    obtain ⟨hfr, hjo, hregs, hex, -, -, -, hinh⟩ := afterExit_leaves c (s.grp c.gid)
    rw [exit_other c c.act s hk hf, grp_setGrp]
    have hframes : ((afterExit c (s.grp c.gid)).retire.passOn c.fid).frags =
        (fuseAll (withoutFrag (s.grp c.gid) c.fid) (if c.rad then 8 else 4)).frags.map
          (fun p => if p.1 = c.fid then (p.1, { p.2 with did := p.2.did + 1 }) else p) :=
      congrArg (List.map _) hfr
    have hstay : fuseAll (withoutFrag (s.grp c.gid) c.fid) (if c.rad then 8 else 4) = withoutFrag (s.grp c.gid) c.fid →
        ((afterExit c (s.grp c.gid)).retire.passOn c.fid).frags = adel c.fid (s.grp c.gid).frags := by
      intro h
      rw [hframes, h]
      exact map_did_of_absent _ _
    refine ⟨hframes, hjo, fun h => hstay (fuseAll_no_joins _ h), fun j k h hall => ?_, fun j k p h hp hc hw => ?_,
      hregs, hex, rfl, fun hin ⟨st, js, hctx⟩ => ?_⟩
    · exact hjo.trans (fuse_one_of_all (g := withoutFrag (s.grp c.gid) c.fid) _ h hall)
    · have hsame := fuse_one_of_elsewhere (g := withoutFrag (s.grp c.gid) c.fid) (if c.rad then 8 else 4) h hp hc hw
      exact ⟨hjo.trans ((congrArg Group.joins hsame).trans h), hstay hsame⟩
    · exact hinh (by simp [leavesHandler, hctx, hin])
  · refine (Means.of_issues exec_ifence exec_ifenceRadish).does fun c s _ _ => ?_
    rw [ifenceB_eq]
    obtain ⟨hw, hr, hs, hm⟩ := done_leaves (c := c) (s := s) (m := c.act) (t := { s with ord := fencedOrd c s }) rfl rfl
    refine ⟨hw, hr, hs, hm, (s.ord.newNode (fencedEvents c s)).1, congrArg AgentOrd.at_ (ag_setAg _ _ _), fun l hl hlane m hat _ => ?_,
      fun m hat _ => ?_⟩
    · refine hb_newNode s.ord (List.mem_append_left _ (List.mem_filterMap.mpr ⟨l, ?_, hat⟩))
      exact List.mem_filter.mpr ⟨List.mem_range.mpr hl, hlane⟩
    · exact hb_newNode s.ord (List.mem_append_right _ (by rw [hat]; exact List.mem_singleton_self m))

end Sys2Proof.Machine

/-! The order of the checks of issue (R37, R39, R48, R73 to R75, R318). -/
namespace Sys2Proof.Machine

/-! ### What a fragment's turn at an instruction comes to -/

/-- A fragment issues the instruction with some meaning. -/
def Issues (i : Instr) : Prop :=
  ∀ s gid fid, s.cur = some (.frag gid fid) → ∃ body, exec i s = .next (issueFrag s gid fid (describe s i) body)

/-- A fragment that comes to the instruction takes the role fault. -/
def RefusesGroups (i : Instr) : Prop :=
  ∀ s gid fid, s.cur = some (.frag gid fid) → exec i s = .next (takeFault s gid fid (flt 3 0) ((s.grp gid).frag fid).em)

/-- Whether the first word of an instruction has a matrix opcode. -/
def matrixWord (i : Instr) : Bool := match encodeWords i with | w :: _ => isMatrixOp (opcodeOf w) | [] => false

section Turns
variable {s : State} {gid fid : Nat} (h : s.cur = some (.frag gid fid))
include h

theorem issue_of_frag (i : Info) (body : Ctx → State → Act) : issue s i body = .next (issueFrag s gid fid i body) := by
  simp only [issue, h]

theorem issueBoth_of_frag (i : Info) (wf : Bool) (body : Ctx → State → Act) (sbody : Nat → State → SAct) :
    issueBoth s i wf body sbody = .next (issueFrag s gid fid i body) := by
  simp only [issueBoth, h]

theorem issueMatrix_of_frag (wf : Bool) (allot : Nat → Bool) (sbody : Nat → State → SAct) :
    issueMatrix s wf allot sbody = .next (takeFault s gid fid (flt 3 0) ((s.grp gid).frag fid).em) := by
  simp only [issueMatrix, h]

end Turns

/-- A Marrow instruction has a meaning for a fragment, or a matrix opcode. -/
theorem issues_or_refuses_of_isMarrowForm (i : Instr) (h : isMarrowForm i = true) :
    (matrixWord i = false ∧ Issues i) ∨ (matrixWord i = true ∧ RefusesGroups i) := by
  cases i
  case lit wide v =>
    refine .inl ⟨?_, fun s gid fid hc => ⟨_, (exec_lit wide v s).trans (issueBoth_of_frag hc _ _ _ _)⟩⟩
    simp (disch := decide) only [matrixWord, encodeWords, isMatrixOp, opcodeOf, fld, BitVec.extractLsb'_append_eq_of_le, Nat.reduceSub,
      BitVec.extractLsb'_eq_self, BitVec.toNat_ofNat, Nat.reducePow, Nat.reduceMod, Nat.reduceLeDiff, decide_false, decide_true,
      Bool.and_false]
  case nop | bar | exitFrag | rtake | rdone =>
    refine .inl ⟨?_, fun s gid fid hc => ⟨_, issueBoth_of_frag hc _ _ _ _⟩⟩
    simp (disch := decide) only [matrixWord, encodeWords, isMatrixOp, opcodeOf, fld, BitVec.extractLsb'_append_eq_of_le, Nat.reduceSub,
      BitVec.extractLsb'_eq_self, BitVec.toNat_ofNat, Nat.reducePow, Nat.reduceMod, Nat.reduceLeDiff, decide_false, decide_true,
      Bool.and_true, Bool.and_false, Bool.false_and]
  case mma64x64x64 | mma64x128x64 | mma128x128x64 | mma128x64x128 | fbset | xld | xldr | zclr | zcvt | zst | zld
    | zadd | zscl =>
    refine .inr ⟨?_, fun s gid fid hc => issueMatrix_of_frag hc _ _ _⟩
    simp (disch := decide) only [matrixWord, encodeWords, isMatrixOp, opcodeOf, fld, BitVec.extractLsb'_append_eq_of_le, Nat.reduceSub,
      BitVec.extractLsb'_eq_self, BitVec.toNat_ofNat, Nat.reducePow, Nat.reduceMod, Nat.reduceLeDiff, decide_true, Bool.and_self]
  case setm | setms | getm | bra | brd | callAddr | ret | markJoin | joinFrags | ppush | pinv | ppop | emrd | emwr
    | waitc | cbatch | waitb | bara | barw | drain | eqp | migrTeam | rolesw | yieldIssue | trapCode | xret | xrd
    | xwr | sread | launchQueue | ifence | cpref | snooze | loopCount | iadd | isub | imul | imulh | imad | idiv
    | irem | imin | imax | iabs | ineg | iaddc | icmp | selLane | andBits | orBits | xorBits | notBits | shl | shr
    | sar | rotl | popc | clz | ctz | brev | bfe | bfi | movLane | movi | lea | iaddi | sadd | ssub | smul | sand
    | sor | sxor | sshl | sshr | scmp | smov | smovi | slea | vtos | stov | smin | smax | fadd | fsub | fmul | ffma
    | fmin | fmax | fabs | fneg | fcmp | fclass | fdiv | fsqrt | frnd | fldexp | fexpo | fsgnj | frcp | frsq | fex2
    | flg2 | fsin | fcos | ftanh | cvt | cvti | pack | unpk | qhist | qscale | quant | deq | qclr | shfl | shflu
    | shfld | shflx | vote | redu | scanLanes | matchLanes | bcast | firstLane | ldGlobal | stGlobal | ldx | stx | lds
    | sts | ldp | stp | stn | srset | atadd | atmin | atmax | atand | ator | atxor | atxch | atcas | redadd | redmin
    | redmax | fence | ofence | rflush | rinv | pfetch | locate | repark | unpark | objdef | objdel | pcommit
    | pdecommit | allocBlock | freeBlock | pquery | tcopy | tcopym | chain | bbinit | bbexp | bbwait | bbinv | bbarr
    | rinit | racq | rpub | rclose | spush | brx =>
    refine .inl ⟨?_, fun s gid fid hc => ⟨_, issue_of_frag hc _ _⟩⟩
    simp (disch := decide) only [matrixWord, encodeWords, isMatrixOp, opcodeOf, fld, BitVec.extractLsb'_append_eq_of_le, Nat.reduceSub,
      BitVec.extractLsb'_eq_self, BitVec.toNat_ofNat, Nat.reducePow, Nat.reduceMod, Nat.reduceLeDiff, decide_false, decide_true,
      Bool.and_true, Bool.and_false, Bool.false_and]
  all_goals exact absurd h Bool.false_ne_true

theorem issues_of_isRadishForm (i : Instr) (h : isRadishForm i = true) : Issues i := by
  cases i
  case nopRadish | getmRadish | braRadish | brdRadish | callAddrRadish | retRadish | markJoinRadish | joinFragsRadish
    | ppushRadish | pinvRadish | ppopRadish | emrdRadish | emwrRadish | waitcRadish | cbatchRadish | waitbRadish
    | barRadish | baraRadish | barwRadish | drainRadish | eqpRadish | migrTeamRadish | roleswRadish | yieldIssueRadish
    | exitFragRadish | trapCodeRadish | xretRadish | xrdRadish | xwrRadish | sreadRadish | launchQueueRadish
    | ifenceRadish | cprefRadish | snoozeRadish | loopCountRadish | iaddRadish | isubRadish | imulRadish | imulhRadish
    | imadRadish | idivRadish | iremRadish | iminRadish | imaxRadish | iabsRadish | inegRadish | iaddcRadish
    | icmpRadish | selLaneRadish | andBitsRadish | orBitsRadish | xorBitsRadish | notBitsRadish | shlRadish
    | shrRadish | sarRadish | rotlRadish | popcRadish | clzRadish | ctzRadish | brevRadish | bfeRadish | bfiRadish
    | movLaneRadish | moviRadish | leaRadish | iaddiRadish | saddRadish | ssubRadish | smulRadish | sandRadish
    | sorRadish | sxorRadish | sshlRadish | sshrRadish | scmpRadish | smovRadish | smoviRadish | sleaRadish
    | vtosRadish | stovRadish | sminRadish | smaxRadish | faddRadish | fsubRadish | fmulRadish | ffmaRadish
    | fminRadish | fmaxRadish | fabsRadish | fnegRadish | fcmpRadish | fclassRadish | fdivRadish | fsqrtRadish
    | frndRadish | fldexpRadish | fexpoRadish | fsgnjRadish | frcpRadish | frsqRadish | fex2Radish | flg2Radish
    | fsinRadish | fcosRadish | ftanhRadish | cvtRadish | cvtiRadish | packRadish | unpkRadish | qhistRadish
    | qscaleRadish | quantRadish | deqRadish | qclrRadish | shflRadish | shfluRadish | shfldRadish | shflxRadish
    | voteRadish | reduRadish | scanLanesRadish | matchLanesRadish | bcastRadish | firstLaneRadish | ldGlobalRadish
    | stGlobalRadish | ldxRadish | stxRadish | ldsRadish | stsRadish | ldpRadish | stpRadish | stnRadish | srsetRadish
    | ataddRadish | atminRadish | atmaxRadish | atandRadish | atorRadish | atxorRadish | atxchRadish | atcasRadish
    | redaddRadish | redminRadish | redmaxRadish | fenceRadish | ofenceRadish | rflushRadish | rinvRadish
    | pfetchRadish | locateRadish | reparkRadish | unparkRadish | objdefRadish | objdelRadish | pcommitRadish
    | pdecommitRadish | allocBlockRadish | freeBlockRadish | pqueryRadish | tcopyRadish | tcopymRadish | chainRadish
    | bbinitRadish | bbexpRadish | bbwaitRadish | bbinvRadish | bbarrRadish | rinitRadish | racqRadish | rpubRadish
    | rtakeRadish | rdoneRadish | rcloseRadish | spushRadish | brxRadish =>
    exact fun s gid fid hc => ⟨_, issue_of_frag hc _ _⟩
  all_goals exact absurd h Bool.false_ne_true

theorem matrixWord_eq_true_iff (i : Instr) :
    matrixWord i = true ↔ ∃ w r, encodeWords i = w :: r ∧ isMatrixOp (opcodeOf w) = true := by
  unfold matrixWord
  cases encodeWords i with
  | nil => simp
  | cons w r => simp

theorem issues_of_isGeneral (i : Instr) (h : isGeneral i = true) : Issues i := by
  cases hform : isRadishForm i with
  | true => exact issues_of_isRadishForm i hform
  | false =>
    have hwords : ∃ w r, encodeWords i = w :: r ∧ isMatrixOp (opcodeOf w) = false := by
      rw [isGeneral, hform, Bool.false_or] at h
      cases henc : encodeWords i with
      | nil => rw [henc] at h; exact absurd h Bool.false_ne_true
      | cons w r =>
        rw [henc] at h
        exact ⟨w, r, rfl, by simpa using h⟩
    obtain ⟨w, r, henc, hop⟩ := hwords
    rcases issues_or_refuses_of_isMarrowForm i (by simp [isMarrowForm, henc, hform]) with ⟨-, hi⟩ | ⟨hm, -⟩
    · exact hi
    · rw [matrixWord, henc] at hm
      exact absurd (hm.symm.trans hop) Bool.true_eq_false_eq_False

theorem refuses_of_matrixWord (i : Instr) (h : ∃ w r, encodeWords i = w :: r ∧ isMatrixOp (opcodeOf w) = true ∧ isRadishForm i = false) :
    RefusesGroups i := by
  obtain ⟨w, r, henc, hop, hform⟩ := h
  have hm : matrixWord i = true := (matrixWord_eq_true_iff i).mpr ⟨w, r, henc, hop⟩
  rcases issues_or_refuses_of_isMarrowForm i (by simp [isMarrowForm, henc, hform]) with ⟨hno, -⟩ | ⟨-, hr⟩
  · exact absurd (hm.symm.trans hno) Bool.true_eq_false_eq_False
  · exact hr

/-! ### The checks in their order (R75) -/

section Checks
variable {i : Instr} {s : State} {gid fid : Nat}

theorem reservedField_iff : reservedField s gid fid i ↔ (!(describe s i).wf || (usesOf s gid i).any Use.odd || (usesOf s gid i).any Use.past ||
    !(describe s i).immOk (immOf (describe s i).imm ((s.grp gid).frag fid).lit)) = true := by
  have himm : (ctxOf s gid fid i).imm = immOf (describe s i).imm ((s.grp gid).frag fid).lit := rfl
  simp only [reservedField, himm, Bool.or_eq_true, Bool.not_eq_true', List.any_eq_true]
  constructor
  · rintro (h | ⟨u, hu, h | h⟩ | h)
    · exact .inl (.inl (.inl h))
    · exact .inl (.inl (.inr ⟨u, hu, h⟩))
    · exact .inl (.inr ⟨u, hu, h⟩)
    · exact .inr h
  · rintro (((h | ⟨u, hu, h⟩) | ⟨u, hu, h⟩) | h)
    · exact .inl h
    · exact .inr (.inl ⟨u, hu, .inl h⟩)
    · exact .inr (.inl ⟨u, hu, .inr h⟩)
    · exact .inr (.inr h)

theorem outsideAllot_iff : outsideAllot s gid i ↔
    ((usesOf s gid i).any fun u => u.file == 0 && u.num + u.n > (s.grp gid).allot) = true := by
  simp only [outsideAllot, List.any_eq_true, Bool.and_eq_true, beq_iff_eq, decide_eq_true_eq, gt_iff_lt]

theorem precheck_eq : precheck s (s.grp gid) ((s.grp gid).frag fid) (describe s i) =
    if !roleAllows (s.kindOf (s.grp gid)) (describe s i).op then some (flt 3 0)
    else if litMisuse (describe s i) (modeType ((describe s i).mode (s.grp gid))) then some (flt 1 3)
    else if !(describe s i).wf || (usesOf s gid i).any Use.odd || (usesOf s gid i).any Use.past ||
        !(describe s i).immOk (immOf (describe s i).imm ((s.grp gid).frag fid).lit) then some (flt 1 1)
    else if (usesOf s gid i).any fun u => u.file == 0 && u.num + u.n > (s.grp gid).allot then some (flt 1 2)
    else if (describe s i).rad.isSome && !modeLegal ((describe s i).mode (s.grp gid)) then some (flt 2 0)
    else none := rfl

variable (hrole : roleAllows (s.kindOf (s.grp gid)) (describe s i).op = true)
  (hlit : litMisuse (describe s i) (modeType ((describe s i).mode (s.grp gid))) = false)

theorem precheck_of_role (h : roleAllows (s.kindOf (s.grp gid)) (describe s i).op = false) :
    precheck s (s.grp gid) ((s.grp gid).frag fid) (describe s i) = some (flt 3 0) :=
  precheck_eq.trans (if_pos (by rw [h]; rfl))

include hrole

theorem precheck_of_literal (h : litMisuse (describe s i) (modeType ((describe s i).mode (s.grp gid))) = true) :
    precheck s (s.grp gid) ((s.grp gid).frag fid) (describe s i) = some (flt 1 3) :=
  precheck_eq.trans ((if_neg (by rw [hrole]; exact Bool.false_ne_true)).trans (if_pos h))

include hlit

theorem precheck_of_fields : precheck s (s.grp gid) ((s.grp gid).frag fid) (describe s i) =
    if !(describe s i).wf || (usesOf s gid i).any Use.odd || (usesOf s gid i).any Use.past ||
        !(describe s i).immOk (immOf (describe s i).imm ((s.grp gid).frag fid).lit) then some (flt 1 1)
    else if (usesOf s gid i).any fun u => u.file == 0 && u.num + u.n > (s.grp gid).allot then some (flt 1 2)
    else if (describe s i).rad.isSome && !modeLegal ((describe s i).mode (s.grp gid)) then some (flt 2 0)
    else none :=
  precheck_eq.trans ((if_neg (by rw [hrole]; exact Bool.false_ne_true)).trans (if_neg (by rw [hlit]; exact Bool.false_ne_true)))

theorem precheck_of_reserved (h : reservedField s gid fid i) :
    precheck s (s.grp gid) ((s.grp gid).frag fid) (describe s i) = some (flt 1 1) :=
  (precheck_of_fields hrole hlit).trans (if_pos (reservedField_iff.mp h))

theorem precheck_of_outside (hres : ¬reservedField s gid fid i) (h : outsideAllot s gid i) :
    precheck s (s.grp gid) ((s.grp gid).frag fid) (describe s i) = some (flt 1 2) :=
  (precheck_of_fields hrole hlit).trans ((if_neg (mt reservedField_iff.mpr hres)).trans (if_pos (outsideAllot_iff.mp h)))

omit hrole hlit

theorem precheck_of_passesWord (h : passesWord s gid fid i) : precheck s (s.grp gid) ((s.grp gid).frag fid) (describe s i) =
    if (describe s i).rad.isSome && !modeLegal ((describe s i).mode (s.grp gid)) then some (flt 2 0) else none := by
  obtain ⟨hrole, hlit, hres, hout⟩ := h
  exact (precheck_of_fields hrole hlit).trans
    ((if_neg (mt reservedField_iff.mpr hres)).trans (if_neg (mt outsideAllot_iff.mpr hout)))

/-- The checks with MODE loaded, once the type is accepted. -/
theorem postcheck_of_type
    (h : (describe s i).types (ctxOf s gid fid i).imm (modeType ((describe s i).mode (s.grp gid))) = true) :
    postcheck (s.grp gid) (describe s i) (ctxOf s gid fid i).act (ctxOf s gid fid i).imm =
      match lateFault (s.grp gid) with
      | some e => some e
      | none => match pendingUse (s.grp gid) (usesOf s gid i) with
        | some p => some (fltV 4 0 (p.2 + 256 * p.1))
        | none => if poisonedUse ((s.grp gid).interlock (usesOf s gid i)) (usesOf s gid i) (ctxOf s gid fid i).act
            then some (flt 15 0) else none := by
  unfold postcheck
  exact if_neg (by rw [h]; exact Bool.false_ne_true)

end Checks

theorem mem_named {us : List Use} {p : Nat × Nat} :
    (p ∈ us.flatMap fun u => u.regs.map fun r => (u.file, r)) ↔ ∃ u ∈ us, u.file = p.1 ∧ p.2 ∈ u.regs := by
  simp only [List.mem_flatMap, List.mem_map]
  constructor
  · rintro ⟨u, hu, r, hr, rfl⟩
    exact ⟨u, hu, rfl, hr⟩
  · rintro ⟨u, hu, hf, hr⟩
    exact ⟨u, hu, p.2, hr, by rw [hf]⟩

theorem pendingUse_of_named {g : Group} {us : List Use}
    (h : ∃ p : Nat × Nat, (∃ u ∈ us, u.file = p.1 ∧ p.2 ∈ u.regs) ∧ g.isPend p.1 p.2 = true) :
    ∃ p, pendingUse g us = some p ∧ (∃ u ∈ us, u.file = p.1 ∧ p.2 ∈ u.regs) ∧ g.isPend p.1 p.2 = true := by
  obtain ⟨q, hq, hpend⟩ := h
  obtain ⟨p, hp⟩ := Option.isSome_iff_exists.mp (List.find?_isSome (p := fun p : Nat × Nat => g.isPend p.1 p.2).mpr
    ⟨q, mem_named.mpr hq, hpend⟩)
  exact ⟨p, hp, mem_named.mp (List.mem_of_find?_eq_some hp), List.find?_some (p := fun p : Nat × Nat => g.isPend p.1 p.2) hp⟩

theorem pendingUse_of_none {g : Group} {us : List Use}
    (h : ∀ p : Nat × Nat, (∃ u ∈ us, u.file = p.1 ∧ p.2 ∈ u.regs) → g.isPend p.1 p.2 = false) : pendingUse g us = none :=
  List.find?_eq_none.mpr fun p hp => by rw [h p (mem_named.mp hp)]; exact Bool.false_ne_true

/-- Settles O54: an instruction of the general map runs its word's checks, then those with MODE loaded, each before the next. -/
theorem issueChecksFaultInOrder : Obligations.IssueChecksFaultInOrder := by
  refine ⟨fun i s gid fid hgen hcur hf => ?_, fun i s gid fid h hcur => refuses_of_matrixWord i h s gid fid hcur,
    fun s gid fid rad w hcur => ?_⟩
  · obtain ⟨body, hexec⟩ := issues_of_isGeneral i hgen s gid fid hcur
    have hpre : ∀ {e}, precheck s (s.grp gid) ((s.grp gid).frag fid) (describe s i) = some e → traps s gid fid i e :=
      fun hp => hexec.trans (congrArg Host.Outcome.next (issueFrag_pre body hf hp))
    refine ⟨fun h => hpre (precheck_of_role h), fun hr h => hpre (precheck_of_literal hr h),
      fun hr hl h => hpre (precheck_of_reserved hr hl h), fun hr hl hres h => hpre (precheck_of_outside hr hl hres h),
      fun hp hrad hm => hpre ((precheck_of_passesWord hp).trans (if_pos (by rw [hrad, hm]; rfl))), fun hp hlegal => ?_⟩
    have hnone : precheck s (s.grp gid) ((s.grp gid).frag fid) (describe s i) = none := by
      refine (precheck_of_passesWord hp).trans (if_neg ?_)
      intro h
      rw [Bool.and_eq_true] at h
      obtain ⟨hrad, hm⟩ := h
      rw [hlegal hrad] at hm
      exact absurd hm Bool.false_ne_true
    have hpost : ∀ {e}, postcheck (s.grp gid) (describe s i) (ctxOf s gid fid i).act (ctxOf s gid fid i).imm = some e →
        trapsEntered s gid fid i e :=
      fun hq => hexec.trans (congrArg Host.Outcome.next (issueFrag_post body hf hnone hq))
    refine ⟨fun ht => hpost ?_, fun cl f ea em hlate ht => hpost ?_, fun hlate ht => ⟨fun hpend => ?_, fun hno hpois => hpost ?_⟩⟩
    · unfold postcheck
      exact if_pos (by rw [ht]; rfl)
    · rw [postcheck_of_type ht]
      simp only [lateFault, hlate, Option.map_some]
    · obtain ⟨p, hp, hnamed, hpd⟩ := pendingUse_of_named hpend
      refine ⟨p, hnamed, hpd, hpost ?_⟩
      rw [postcheck_of_type ht]
      simp only [lateFault, hlate, Option.map_none, hp]
    · rw [postcheck_of_type ht]
      simp only [lateFault, hlate, Option.map_none, pendingUse_of_none hno, hpois, if_true]
  · have hexec : exec (.unlistedOpcode rad w) s = .next (takeFault s gid fid
        (if rad && isMatrixOp (opcodeOf (radUpper w)) then flt 3 0 else flt 1 0) ((s.grp gid).frag fid).em) := by
      rw [exec_unlistedOpcode, execUnlistedOpcode, hcur]
    simp only [hexec, Bool.and_eq_true]

end Sys2Proof.Machine

/-! How a step ends (R73, R353), the state that reset leaves, and words written out from the encodings. -/
namespace Sys2Proof.Machine

/-- Settles O56: the decoder evaluated on each word. -/
theorem wordsDecodeAsTheirEncodingsSay : Obligations.WordsDecodeAsTheirEncodingsSay := by
  unfold Obligations.WordsDecodeAsTheirEncodingsSay
  decide

/-- Settles O59: each part of the reset state is read off its definition. -/
theorem resetLeavesTheSpecsValues : Obligations.ResetLeavesTheSpecsValues :=
  ⟨⟨rfl, rfl⟩, rfl, rfl, rfl, rfl, rfl, rfl, rfl, rfl, rfl, fun _ => rfl, fun _ => ⟨rfl, rfl⟩, fun _ => rfl, fun _ => rfl,
    fun _ => ⟨rfl, rfl, rfl, rfl⟩, rfl, rfl, rfl, rfl⟩

/-! ### Every meaning ends in a next state -/

/-- The one event that may stop a step. -/
def isSteward : Instr → Bool
  | .stewardCoreAccess _ _ _ => true
  | _ => false

/-- A run that ends in a next state. -/
def Ends (r : Ran) : Prop := ∃ t, r = .next t

theorem issue_ends (s : State) (i : Info) (body : Ctx → State → Act) : Ends (issue s i body) := by
  unfold issue
  split <;> exact ⟨_, rfl⟩

theorem issueBoth_ends (s : State) (i : Info) (wf : Bool) (body : Ctx → State → Act) (sbody : Nat → State → SAct) :
    Ends (issueBoth s i wf body sbody) := by
  unfold issueBoth
  split <;> exact ⟨_, rfl⟩

theorem issueMatrix_ends (s : State) (wf : Bool) (allot : Nat → Bool) (sbody : Nat → State → SAct) :
    Ends (issueMatrix s wf allot sbody) := by
  unfold issueMatrix
  split <;> exact ⟨_, rfl⟩

theorem unlistedOpcode_ends (rad : Bool) (w : BitVec 64) (s : State) : Ends (execUnlistedOpcode rad w s) := by
  unfold execUnlistedOpcode
  split <;> exact ⟨_, rfl⟩

theorem exec_ends (i : Instr) (s : State) (h : isSteward i = false) : Ends (exec i s) := by
  cases i
  case stewardCoreAccess => exact absurd h Bool.true_eq_false_eq_False
  case lit wide v =>
    rw [exec_lit]
    exact issueBoth_ends _ _ _ _ _
  case unlistedOpcode => exact unlistedOpcode_ends _ _ _
  case nop | bar | exitFrag | rtake | rdone =>
    exact issueBoth_ends _ _ _ _ _
  case mma64x64x64 | mma64x128x64 | mma128x128x64 | mma128x64x128 | fbset | xld | xldr | zclr | zcvt | zst | zld
    | zadd | zscl =>
    exact issueMatrix_ends _ _ _ _
  case setm | setms | getm | bra | brd | callAddr | ret | markJoin | joinFrags | ppush | pinv | ppop | emrd | emwr
    | waitc | cbatch | waitb | bara | barw | drain | eqp | migrTeam | rolesw | yieldIssue | trapCode | xret | xrd
    | xwr | sread | launchQueue | ifence | cpref | snooze | loopCount | iadd | isub | imul | imulh | imad | idiv
    | irem | imin | imax | iabs | ineg | iaddc | icmp | selLane | andBits | orBits | xorBits | notBits | shl | shr
    | sar | rotl | popc | clz | ctz | brev | bfe | bfi | movLane | movi | lea | iaddi | sadd | ssub | smul | sand
    | sor | sxor | sshl | sshr | scmp | smov | smovi | slea | vtos | stov | smin | smax | fadd | fsub | fmul | ffma
    | fmin | fmax | fabs | fneg | fcmp | fclass | fdiv | fsqrt | frnd | fldexp | fexpo | fsgnj | frcp | frsq | fex2
    | flg2 | fsin | fcos | ftanh | cvt | cvti | pack | unpk | qhist | qscale | quant | deq | qclr | shfl | shflu
    | shfld | shflx | vote | redu | scanLanes | matchLanes | bcast | firstLane | ldGlobal | stGlobal | ldx | stx | lds
    | sts | ldp | stp | stn | srset | atadd | atmin | atmax | atand | ator | atxor | atxch | atcas | redadd | redmin
    | redmax | fence | ofence | rflush | rinv | pfetch | locate | repark | unpark | objdef | objdel | pcommit
    | pdecommit | allocBlock | freeBlock | pquery | tcopy | tcopym | chain | bbinit | bbexp | bbwait | bbinv | bbarr
    | rinit | racq | rpub | rclose | spush | brx | nopRadish | getmRadish | braRadish | brdRadish | callAddrRadish
    | retRadish | markJoinRadish | joinFragsRadish | ppushRadish | pinvRadish | ppopRadish | emrdRadish | emwrRadish
    | waitcRadish | cbatchRadish | waitbRadish | barRadish | baraRadish | barwRadish | drainRadish | eqpRadish
    | migrTeamRadish | roleswRadish | yieldIssueRadish | exitFragRadish | trapCodeRadish | xretRadish | xrdRadish
    | xwrRadish | sreadRadish | launchQueueRadish | ifenceRadish | cprefRadish | snoozeRadish | loopCountRadish
    | iaddRadish | isubRadish | imulRadish | imulhRadish | imadRadish | idivRadish | iremRadish | iminRadish
    | imaxRadish | iabsRadish | inegRadish | iaddcRadish | icmpRadish | selLaneRadish | andBitsRadish | orBitsRadish
    | xorBitsRadish | notBitsRadish | shlRadish | shrRadish | sarRadish | rotlRadish | popcRadish | clzRadish
    | ctzRadish | brevRadish | bfeRadish | bfiRadish | movLaneRadish | moviRadish | leaRadish | iaddiRadish
    | saddRadish | ssubRadish | smulRadish | sandRadish | sorRadish | sxorRadish | sshlRadish | sshrRadish
    | scmpRadish | smovRadish | smoviRadish | sleaRadish | vtosRadish | stovRadish | sminRadish | smaxRadish
    | faddRadish | fsubRadish | fmulRadish | ffmaRadish | fminRadish | fmaxRadish | fabsRadish | fnegRadish
    | fcmpRadish | fclassRadish | fdivRadish | fsqrtRadish | frndRadish | fldexpRadish | fexpoRadish | fsgnjRadish
    | frcpRadish | frsqRadish | fex2Radish | flg2Radish | fsinRadish | fcosRadish | ftanhRadish | cvtRadish
    | cvtiRadish | packRadish | unpkRadish | qhistRadish | qscaleRadish | quantRadish | deqRadish | qclrRadish
    | shflRadish | shfluRadish | shfldRadish | shflxRadish | voteRadish | reduRadish | scanLanesRadish
    | matchLanesRadish | bcastRadish | firstLaneRadish | ldGlobalRadish | stGlobalRadish | ldxRadish | stxRadish
    | ldsRadish | stsRadish | ldpRadish | stpRadish | stnRadish | srsetRadish | ataddRadish | atminRadish
    | atmaxRadish | atandRadish | atorRadish | atxorRadish | atxchRadish | atcasRadish | redaddRadish | redminRadish
    | redmaxRadish | fenceRadish | ofenceRadish | rflushRadish | rinvRadish | pfetchRadish | locateRadish
    | reparkRadish | unparkRadish | objdefRadish | objdelRadish | pcommitRadish | pdecommitRadish | allocBlockRadish
    | freeBlockRadish | pqueryRadish | tcopyRadish | tcopymRadish | chainRadish | bbinitRadish | bbexpRadish
    | bbwaitRadish | bbinvRadish | bbarrRadish | rinitRadish | racqRadish | rpubRadish | rtakeRadish | rdoneRadish
    | rcloseRadish | spushRadish | brxRadish =>
    exact issue_ends _ _ _
  all_goals exact ⟨_, rfl⟩

/-! ### The decoders give no event -/

/-- What is decoded, if anything, is not that event. -/
def NotSteward : Except Reject Instr → Prop
  | .ok i => isSteward i = false
  | .error _ => True

@[simp] theorem notSteward_ok (i : Instr) : NotSteward (.ok i) ↔ isSteward i = false := Iff.rfl
@[simp] theorem notSteward_error (r : Reject) : NotSteward (.error r) ↔ True := Iff.rfl
@[simp] theorem notSteward_reqd (b : Bool) (i : Instr) : NotSteward (reqd b i) ↔ (b = true → isSteward i = false) := by
  cases b <;> simp [reqd]

section Digits
variable (lo : Nat) (w : BitVec 32) (x : BitVec 64) (ex : List (BitVec 32)) (rx : List (BitVec 64))

theorem decodeMarrow0_notSteward : NotSteward (decodeMarrow0 lo w ex) := by
  unfold decodeMarrow0
  split <;> simp [isSteward]

theorem decodeMarrow1_notSteward : NotSteward (decodeMarrow1 lo w ex) := by
  unfold decodeMarrow1
  split <;> simp [isSteward]

theorem decodeMarrow2_notSteward : NotSteward (decodeMarrow2 lo w ex) := by
  unfold decodeMarrow2
  split <;> simp [isSteward]

theorem decodeMarrow3_notSteward : NotSteward (decodeMarrow3 lo w ex) := by
  unfold decodeMarrow3
  split <;> simp [isSteward]

theorem decodeMarrow4_notSteward : NotSteward (decodeMarrow4 lo w ex) := by
  unfold decodeMarrow4
  split <;> simp [isSteward]

theorem decodeMarrow5_notSteward : NotSteward (decodeMarrow5 lo w ex) := by
  unfold decodeMarrow5
  split <;> simp [isSteward]

theorem decodeMarrow6_notSteward : NotSteward (decodeMarrow6 lo w ex) := by
  unfold decodeMarrow6
  split <;> simp [isSteward]

theorem decodeMarrow7_notSteward : NotSteward (decodeMarrow7 lo w ex) := by
  unfold decodeMarrow7
  split <;> simp [isSteward]

theorem decodeMarrow8_notSteward : NotSteward (decodeMarrow8 lo w ex) := by
  unfold decodeMarrow8
  split <;> simp [isSteward]

theorem decodeMarrow9_notSteward : NotSteward (decodeMarrow9 lo w ex) := by
  unfold decodeMarrow9
  split <;> simp [isSteward]

theorem decodeMarrowA_notSteward : NotSteward (decodeMarrowA lo w ex) := by
  unfold decodeMarrowA
  split <;> simp [isSteward]

theorem decodeMarrowB_notSteward : NotSteward (decodeMarrowB lo w ex) := by
  unfold decodeMarrowB
  split <;> simp [isSteward]

theorem decodeMarrowC_notSteward : NotSteward (decodeMarrowC lo w ex) := by
  unfold decodeMarrowC
  split <;> simp [isSteward]

theorem decodeMarrowD_notSteward : NotSteward (decodeMarrowD lo w ex) := by
  unfold decodeMarrowD
  split <;> simp [isSteward]

theorem decodeMarrowE_notSteward : NotSteward (decodeMarrowE lo w ex) := by
  unfold decodeMarrowE
  split <;> simp [isSteward]

theorem decodeRadish0_notSteward : NotSteward (decodeRadish0 lo w x rx) := by
  unfold decodeRadish0
  split <;> simp [isSteward]

theorem decodeRadish1_notSteward : NotSteward (decodeRadish1 lo w x rx) := by
  unfold decodeRadish1
  split <;> simp [isSteward]

theorem decodeRadish2_notSteward : NotSteward (decodeRadish2 lo w x rx) := by
  unfold decodeRadish2
  split <;> simp [isSteward]

theorem decodeRadish3_notSteward : NotSteward (decodeRadish3 lo w x rx) := by
  unfold decodeRadish3
  split <;> simp [isSteward]

theorem decodeRadish4_notSteward : NotSteward (decodeRadish4 lo w x rx) := by
  unfold decodeRadish4
  split <;> simp [isSteward]

theorem decodeRadish5_notSteward : NotSteward (decodeRadish5 lo w x rx) := by
  unfold decodeRadish5
  split <;> simp [isSteward]

theorem decodeRadish6_notSteward : NotSteward (decodeRadish6 lo w x rx) := by
  unfold decodeRadish6
  split <;> simp [isSteward]

theorem decodeRadish7_notSteward : NotSteward (decodeRadish7 lo w x rx) := by
  unfold decodeRadish7
  split <;> simp [isSteward]

theorem decodeRadish8_notSteward : NotSteward (decodeRadish8 lo w x rx) := by
  unfold decodeRadish8
  split <;> simp [isSteward]

theorem decodeRadish9_notSteward : NotSteward (decodeRadish9 lo w x rx) := by
  unfold decodeRadish9
  split <;> simp [isSteward]

theorem decodeRadishA_notSteward : NotSteward (decodeRadishA lo w x rx) := by
  unfold decodeRadishA
  split <;> simp [isSteward]

theorem decodeRadishB_notSteward : NotSteward (decodeRadishB lo w x rx) := by
  unfold decodeRadishB
  split <;> simp [isSteward]

theorem decodeRadishC_notSteward : NotSteward (decodeRadishC lo w x rx) := by
  unfold decodeRadishC
  split <;> simp [isSteward]

theorem decodeRadishD_notSteward : NotSteward (decodeRadishD lo w x rx) := by
  unfold decodeRadishD
  split <;> simp [isSteward]

end Digits

theorem decodeLit_notSteward (w : BitVec 32) (ex : List (BitVec 32)) : NotSteward (decodeLit w ex) := by
  unfold decodeLit
  split <;> simp [isSteward]

theorem decodeMarrow_notSteward (w : BitVec 32) (ex : List (BitVec 32)) : NotSteward (decodeMarrow w ex) := by
  unfold decodeMarrow
  dsimp only
  split
  · exact decodeMarrow0_notSteward _ _ _
  · exact decodeMarrow1_notSteward _ _ _
  · exact decodeMarrow2_notSteward _ _ _
  · exact decodeMarrow3_notSteward _ _ _
  · exact decodeMarrow4_notSteward _ _ _
  · exact decodeMarrow5_notSteward _ _ _
  · exact decodeMarrow6_notSteward _ _ _
  · exact decodeMarrow7_notSteward _ _ _
  · exact decodeMarrow8_notSteward _ _ _
  · exact decodeMarrow9_notSteward _ _ _
  · exact decodeMarrowA_notSteward _ _ _
  · exact decodeMarrowB_notSteward _ _ _
  · exact decodeMarrowC_notSteward _ _ _
  · exact decodeMarrowD_notSteward _ _ _
  · exact decodeMarrowE_notSteward _ _ _
  · split
    · exact decodeLit_notSteward _ _
    · trivial

theorem decodeRadish_notSteward (w : BitVec 64) (ex : List (BitVec 64)) : NotSteward (decodeRadish w ex) := by
  unfold decodeRadish
  dsimp only
  split
  · exact decodeRadish0_notSteward _ _ _ _
  · exact decodeRadish1_notSteward _ _ _ _
  · exact decodeRadish2_notSteward _ _ _ _
  · exact decodeRadish3_notSteward _ _ _ _
  · exact decodeRadish4_notSteward _ _ _ _
  · exact decodeRadish5_notSteward _ _ _ _
  · exact decodeRadish6_notSteward _ _ _ _
  · exact decodeRadish7_notSteward _ _ _ _
  · exact decodeRadish8_notSteward _ _ _ _
  · exact decodeRadish9_notSteward _ _ _ _
  · exact decodeRadishA_notSteward _ _ _ _
  · exact decodeRadishB_notSteward _ _ _ _
  · exact decodeRadishC_notSteward _ _ _ _
  · exact decodeRadishD_notSteward _ _ _ _
  · split <;> trivial
  · trivial

/-! ### Turns and events -/

theorem mapNext_ends {r : Ran} (f : State → State) (h : Ends r) : Ends (r.mapNext f) := by
  obtain ⟨t, rfl⟩ := h
  exact ⟨f t, rfl⟩

theorem runLate_ends (s : State) (x : Fetcher) (e : FaultInfo) {run : State → Ran} (h : ∀ t, Ends (run t)) :
    Ends (runLate s x e run) := by
  unfold runLate
  split
  · exact ⟨_, rfl⟩
  · exact mapNext_ends _ (h _)

theorem exec_ends_of_decoded {d : Except Reject Instr} {i : Instr} (hd : NotSteward d) (h : d = .ok i) (s : State) : Ends (exec i s) := by
  subst h
  exact exec_ends i s hd

theorem runMarrow_ends (s : State) (x : Fetcher) (w : Word) : Ends (runMarrow s x w) := by
  unfold runMarrow
  split
  · exact ⟨_, rfl⟩
  split
  · exact ⟨_, rfl⟩
  split
  · exact ⟨_, rfl⟩
  split
  · split
    · exact ⟨_, rfl⟩
    · rename_i i hdec
      exact runLate_ends _ _ _ fun t => exec_ends_of_decoded (decodeMarrow_notSteward _ _) hdec t
  · dsimp only
    split
    · exact ⟨_, rfl⟩
    · rename_i i hdec
      exact exec_ends_of_decoded (decodeMarrow_notSteward _ _) hdec _

theorem runRadish_ends (w : BitVec 64) (ex : List (BitVec 64)) (s : State) {rej : Reject → Ran} (h : ∀ r, Ends (rej r)) :
    Ends (runRadish w ex s rej id) := by
  unfold runRadish ranOf
  split
  · rename_i i hdec
    exact exec_ends_of_decoded (decodeRadish_notSteward w ex) hdec s
  · exact h _

theorem runRadishWord_ends (s : State) (x : Fetcher) (w : DWord) : Ends (runRadishWord s x w) := by
  unfold runRadishWord
  dsimp only
  split
  · exact ⟨_, rfl⟩
  split
  · exact ⟨_, rfl⟩
  split
  · exact runLate_ends _ _ _ fun t => runRadish_ends _ _ _ fun r => ⟨_, rfl⟩
  · exact runRadish_ends _ _ _ fun r => ⟨_, rfl⟩

theorem runAt_ends (s : State) (x : Fetcher) : Ends (runAt s x) := by
  unfold runAt
  split
  · exact ⟨_, rfl⟩
  · dsimp only
    split
    · exact runRadishWord_ends _ _ _
    · exact runMarrow_ends _ _ _

theorem runAgent_ends (s : State) (a : Agent) : Ends (runAgent s a) := by
  cases a with
  | frag gid fid =>
    unfold runAgent
    dsimp only
    split
    · exact runAt_ends _ _
    · exact ⟨_, rfl⟩
  | stream tid =>
    unfold runAgent
    dsimp only
    split
    · exact runAt_ends _ _
    · exact ⟨_, rfl⟩

/-- An input ends in a next state, or is a steward core's access to an address with neither memory nor a register. -/
theorem runInput_ends (s : State) (x : Input) : Ends (runInput s x) ∨
    ∃ st acc ch, st < 16 ∧ x = .ev (.stewardCoreAccess st acc ch) ∧ stewAccess s st acc ch = none ∧
      runInput s x = .fault (.noMemory (accPa acc)) := by
  cases x with
  | ev i =>
    cases hmay : s.mayHappen i with
    | false => exact .inl ⟨s, by simp only [runInput, hmay, Bool.false_eq_true, if_false]⟩
    | true =>
      have hrun : runInput s (.ev i) = exec i s := by simp only [runInput, hmay, if_true]
      rw [hrun]
      cases hi : isSteward i with
      | false => exact .inl (exec_ends i s hi)
      | true =>
        cases i
        case stewardCoreAccess st acc ch =>
          have hexec : exec (.stewardCoreAccess st acc ch) s = execStewardCoreAccess st acc ch s := rfl
          rw [hexec]
          unfold execStewardCoreAccess
          by_cases hst : st ≥ 16
          · rw [if_pos hst]
            exact .inl ⟨s, rfl⟩
          · rw [if_neg hst]
            cases hacc : stewAccess s st acc ch with
            | some t => exact .inl ⟨t, rfl⟩
            | none => exact .inr ⟨st, acc, ch, Nat.lt_of_not_le hst, rfl, hacc, rfl⟩
        all_goals exact absurd hi Bool.false_ne_true
  | tick ns d => exact .inl ⟨_, rfl⟩
  | host a bs => exact .inl ⟨_, rfl⟩
  | barWrite fn off bs => exact .inl ⟨_, rfl⟩
  | barRead fn off n => exact .inl ⟨_, rfl⟩

/-- Settles O60: an agent's turn ends in a next state, and so does every input but that access. -/
theorem onlyMissingMemoryStopsAStep : Obligations.OnlyMissingMemoryStopsAStep := by
  intro s
  unfold step
  cases hcur : s.cur with
  | some a => exact .inl (mapNext_ends _ (runAgent_ends s a))
  | none =>
    unfold event
    cases hin : s.inputs with
    | nil => exact .inl ⟨s, rfl⟩
    | cons x r =>
      rcases runInput_ends { s with inputs := r } x with h | ⟨st, acc, ch, hst, hx, hacc, hrun⟩
      · exact .inl (mapNext_ends _ h)
      · refine .inr ⟨st, acc, ch, r, hst, rfl, by rw [hx], ?_, hcur ▸ hacc⟩
        dsimp only
        rw [hrun]
        rfl

end Sys2Proof.Machine

/-! A step runs what it fetches (R60, R75, R76, R183, R329, R340, R346). -/
namespace Sys2Proof.Machine

section Turns
variable {s : State}

theorem step_of_frag {gid fid : Nat} {f : Frag} (hcur : s.cur = some (.frag gid fid)) (hf : afind fid (s.grp gid).frags = some f) :
    step s = (runAt s (s.fragFetcher gid fid f)).mapNext (endTurn (.frag gid fid)) := by
  simp only [step, hcur, turn, runAgent, hf]

theorem step_of_stream {tid : Nat} (hcur : s.cur = some (.stream tid)) (hlive : (s.str tid).live = true) :
    step s = (runAt s (s.streamFetcher tid)).mapNext (endTurn (.stream tid)) := by
  simp only [step, hcur, turn, runAgent, hlive, if_true]

theorem step_of_input {x : Input} {r : List Input} (hcur : s.cur = none) (hin : s.inputs = x :: r) :
    step s = (runInput { s with inputs := r } x).mapNext endEvent := by
  simp only [step, hcur, event, hin]

variable {x : Fetcher}

theorem runAt_of_marrow {w : Word} (hrad : x.rad = false) (h : finds s x 1 [w]) : runAt s x = runMarrow (s.noteFetch x) x w := by
  unfold finds at h
  simp only [runAt, hrad, Bool.false_eq_true, if_false, h, List.headD_cons]

theorem runAt_of_radish {lo hi : Word} (hrad : x.rad = true) (h : finds s x 2 [lo, hi]) :
    runAt s x = runRadishWord (s.noteFetch x) x (hi ++ lo) := by
  unfold finds at h
  simp only [runAt, hrad, if_true, h]
  rfl

theorem runAt_of_no_fetch {e : FaultInfo} (h : fetchWords s x.agent x.place x.asid x.pc (if x.rad then 2 else 1) = .error e) :
    runAt s x = .next (x.take s none e) := by
  simp only [runAt, h]

theorem runMarrow_of_unlisted {w : Word} (h : listedOp false (opcodeOf w) = false) :
    runMarrow s x w = .next (x.take s (some (w, x.mode)) (flt 1 0)) := if_pos (by rw [h]; rfl)

/-- A Marrow word that its agent may issue, decoded with its further words. -/
theorem runMarrow_of_decoded {w : Word} {ex : List Word} {i : Instr} (hl : listedOp false (opcodeOf w) = true)
    (ha : x.allows (opcodeOf w) = true) (hlit : (x.frag.isNone && opcodeOf w == 0xFF) = false)
    (hf : fetchWords s x.agent x.place x.asid (x.pc + 4) (marrowExtra w) = .ok ex) (hd : decodeMarrow w ex = .ok i) :
    runMarrow s x w = exec i (s.noteWords x.asid (x.pc + 4) (marrowExtra w)) := by
  simp only [runMarrow, hl, ha, hlit, hf, hd, Bool.not_true, Bool.false_eq_true, if_false]

/-- A LIT in a stream. -/
theorem runMarrow_of_stream_lit {w : Word} (ha : x.allows (opcodeOf w) = true) (hx : x.frag = none) (hop : opcodeOf w = 0xFF) :
    runMarrow s x w = .next (x.take s none (flt 1 3)) := by
  have hl : listedOp false (opcodeOf w) = true := by rw [hop]; rfl
  have hlit : (x.frag.isNone && opcodeOf w == 0xFF) = true := by rw [hx, hop]; rfl
  simp only [runMarrow, hl, ha, hlit, Bool.not_true, Bool.false_eq_true, if_false, if_true]

/-- A Radish word that its agent may issue, decoded with its further words. -/
theorem runRadishWord_of_decoded {w : DWord} {ex : List Word} {i : Instr} (hl : listedOp true (opcodeOf (radUpper w)) = true)
    (ha : x.allows (opcodeOf (radUpper w)) = true)
    (hf : fetchWords s x.agent x.place x.asid (x.pc + 8) (2 * radishExtra w) = .ok ex) (hd : decodeRadish w (pairUp ex) = .ok i) :
    runRadishWord s x w = exec i (s.noteWords x.asid (x.pc + 8) (2 * radishExtra w)) := by
  simp only [runRadishWord, hl, ha, hf, runRadish, ranOf, hd, Bool.not_true, Bool.false_eq_true, if_false, id]

end Turns

/-! ### The host's inputs (R329) -/

theorem mread_mwrite (m : List Host.Cell) (a : Nat) (bs : List Byte) : mread (mwrite m a bs) a bs.length = bs := by
  rw [mread_eq]
  refine List.ext_getElem (by simp) fun i h1 h2 => ?_
  rw [List.getElem_map, List.getElem_range, mget_mwrite, dif_pos ⟨by omega, by omega⟩]
  congr 1
  omega

theorem mget_mwrite_outside (m : List Host.Cell) {a : Nat} {bs : List Byte} {k : Nat} (h : k < a ∨ a + bs.length ≤ k) :
    mget (mwrite m a bs) k = mget m k := (mget_mwrite m a bs k).trans (dif_neg (by omega))

theorem getD_map_range {α : Type} (f : Nat → α) (n : Nat) (d : α) {j : Nat} (h : j < n) : ((List.range n).map f).getD j d = f j := by
  simp [List.getD, h]

theorem barByte_eq (s : State) (fn off : Nat) :
    barByte s fn off = if off < 32 then BitVec.ofNat 8 (bits (mboxImage s fn) (8 * off) 8) else 0 := rfl

/-- Settles O55: the turn of the agent that has the slot, or the next input. -/
theorem stepRunsWhatItFetches : Obligations.StepRunsWhatItFetches := by
  refine ⟨fun s gid fid f w ex i hcur hf hrad hfind => ⟨fun hl => ?_, fun hl ha hfw hd => ?_⟩,
    fun s gid fid f lo hi ex i hcur hf hrad hfind hl ha hfw hd => ?_, fun s tid w ex i hcur hlive hfind hl ha hlit hfw hd => ?_,
    fun s tid w hcur hlive hfind hop => ?_, fun s gid fid f e hcur hf he => ?_, fun s tid e hcur hlive he => ?_,
    fun s i r hcur hin hmay => ?_, fun s i r hcur hin hboot hst => ?_, fun s x r hcur hin hoff hno hnh => ?_,
    fun s a bs r hcur hin => ?_, fun s fn off n r hcur hin hon hfn hoff => ?_, fun s fn off bs r hcur hin hoff => ?_,
    fun s fn off bs r hcur hin hon hfn hoff hin8 hne => ?_, fun s hcur hin => ?_⟩
  · rw [step_of_frag hcur hf, runAt_of_marrow hrad hfind, runMarrow_of_unlisted hl]
    rfl
  · rw [step_of_frag hcur hf, runAt_of_marrow hrad hfind, runMarrow_of_decoded hl ha rfl hfw hd]
    rfl
  · have hu : radUpper (hi ++ lo) = hi := radUpper_append hi lo
    rw [step_of_frag hcur hf, runAt_of_radish hrad hfind, runRadishWord_of_decoded (by rw [hu]; exact hl) (by rw [hu]; exact ha) hfw hd]
    rfl
  · have hno : ((s.streamFetcher tid).frag.isNone && opcodeOf w == 0xFF) = false := by
      rw [beq_eq_false_iff_ne.mpr hlit, Bool.and_false]
    rw [step_of_stream hcur hlive, runAt_of_marrow rfl hfind, runMarrow_of_decoded hl ha hno hfw hd]
    rfl
  · have ha : (s.streamFetcher tid).allows (opcodeOf w) = true := by rw [hop]; rfl
    rw [step_of_stream hcur hlive, runAt_of_marrow rfl hfind, runMarrow_of_stream_lit ha rfl hop]
    rfl
  · rw [step_of_frag hcur hf, runAt_of_no_fetch he]
    rfl
  · rw [step_of_stream hcur hlive, runAt_of_no_fetch he]
    rfl
  · have hyes : ({ s with inputs := r } : State).mayHappen i = true := by
      rcases hmay with ⟨hst, hboot⟩ | ⟨fl, rfl⟩
      · unfold State.mayHappen
        rw [if_neg hst]
        rcases hboot with hb | hb
        · simp [hb]
        · simp [hb]
      · unfold State.mayHappen
        split
        · rfl
        · rfl
    rw [step_of_input hcur hin, runInput, hyes, if_pos rfl]
  · have hno : ({ s with inputs := r } : State).mayHappen i = false := by
      unfold State.mayHappen
      split
      · split
        · exact absurd hst Bool.false_ne_true
        · rfl
      · simp [hst, Nat.not_le.mpr hboot]
    rw [step_of_input hcur hin, runInput, hno, if_neg Bool.false_ne_true]
    rfl
  · rw [step_of_input hcur hin]
    cases x with
    | ev i =>
      have hne : ({ s with inputs := r } : State).mayHappen i = false := by
        unfold State.mayHappen
        rw [if_pos hoff]
        split
        · rename_i fl
          exact absurd rfl (hno fl)
        · rfl
      rw [runInput, hne, if_neg Bool.false_ne_true]
      rfl
    | tick ns d => rw [runInput, if_pos hoff]; rfl
    | host a bs => exact absurd rfl (hnh a bs)
    | barWrite fn off bs => rw [runInput, if_pos hoff]; rfl
    | barRead fn off n => rw [runInput, if_pos hoff]; rfl
  · rw [step_of_input hcur hin]
    exact ⟨_, rfl, rfl, mread_mwrite _ _ _, fun k hk => mget_mwrite_outside _ hk⟩
  · have hread : barRead { s with inputs := r } fn off n = { { s with inputs := r } with
        barOut := (List.range n).map fun i => barByte { s with inputs := r } fn (off + i) } := if_neg (by omega)
    rw [step_of_input hcur hin, runInput, if_neg hon, hread]
    refine ⟨_, rfl, rfl, rfl, rfl, by simp [endEvent], fun j hj => ?_⟩
    exact (getD_map_range _ n 0 hj).trans (barByte_eq _ _ _)
  · have hw : barWrite { s with inputs := r } fn off bs = { s with inputs := r } := if_pos (by omega)
    rw [step_of_input hcur hin, runInput, hw, ite_self]
    rfl
  · have hw : barWrite { s with inputs := r } fn off bs = regStore { s with inputs := r } (.mbox fn off) bs :=
      if_neg (by simp [hne]; omega)
    rw [step_of_input hcur hin, runInput, if_neg hon, hw]
    rfl
  · simp only [step, hcur, event, hin]

end Sys2Proof.Machine

/-! Proofs: the mailbox of R330: what the doorbells, the taking of an entry and the writing of a completion leave. -/

namespace Sys2Proof.Machine

theorem Happens.of_exec {i : Instr} {P : State → Prop} {R : State → State → Prop} {f : State → State}
    (hexec : ∀ s, exec i s = .next (f s)) (h : ∀ s, P s → R s (f s)) : Happens i P R :=
  fun s hs => ⟨f s, hexec s, h s hs⟩

theorem mbox_setMbox_same (s : State) (fn : Nat) (m : Mbox) : (s.setMbox fn m).mbox fn = m := aget_aput _ _ _ _

theorem headWrite_in_range {s : State} {fn : Nat} {v : BitVec 16} (hfn : fn < 17)
    (hv : (v - (s.mbox fn).tail).toNat ≤ (s.mbox fn).size ∧
      ((s.mbox fn).head - (s.mbox fn).tail).toNat ≤ (v - (s.mbox fn).tail).toNat) :
    headWrite s fn v = s.setMbox fn { s.mbox fn with head := v } := by
  unfold headWrite
  rw [if_neg (by omega), if_neg (by omega)]

theorem headWrite_out_of_range {s : State} {fn : Nat} {v : BitVec 16} (hfn : fn < 17)
    (hv : (s.mbox fn).size < (v - (s.mbox fn).tail).toNat ∨
      (v - (s.mbox fn).tail).toNat < ((s.mbox fn).head - (s.mbox fn).tail).toNat) :
    headWrite s fn v = s.setMbox fn { s.mbox fn with err := true } := by
  unfold headWrite
  rw [if_neg (by omega), if_pos hv]

theorem ctailWrite_in_range {s : State} {fn : Nat} {v : BitVec 16} (hfn : fn < 17)
    (hv : ((s.mbox fn).chead - v).toNat ≤ ((s.mbox fn).chead - (s.mbox fn).ctail).toNat) :
    ctailWrite s fn v = s.setMbox fn { s.mbox fn with ctail := v } := by
  unfold ctailWrite
  rw [if_neg (by omega), if_neg (by omega)]

theorem ctailWrite_out_of_range {s : State} {fn : Nat} {v : BitVec 16} (hfn : fn < 17)
    (hv : ((s.mbox fn).chead - (s.mbox fn).ctail).toNat < ((s.mbox fn).chead - v).toNat) :
    ctailWrite s fn v = s.setMbox fn { s.mbox fn with err := true } := by
  unfold ctailWrite
  rw [if_neg (by omega), if_pos hv]

/-- An entry is there to be taken, and the completion ring has room for its answer. -/
def entryReady (s : State) (fn : Nat) : Prop :=
  (s.mbox fn).en = true ∧ (s.mbox fn).ready = true ∧ (s.mbox fn).tail ≠ (s.mbox fn).head ∧ (s.mbox fn).cplFull = false

/-- The entry at TAIL. -/
def entryAtTail (s : State) (fn : Nat) : BitVec 16 × Nat × List DWord :=
  entryOf (mread s.hostMem ((s.mbox fn).ring.toNat + 64 * ((s.mbox fn).tail.toNat % (s.mbox fn).size)) 64)

theorem entryTake_ready {s : State} {fn : Nat} (h : entryReady s fn) :
    entryTake s fn = s.setMbox fn (if (entryAtTail s fn).2.1 > 10
      then { s.mbox fn with tail := (s.mbox fn).tail + 1, held := (s.mbox fn).held ++ [((entryAtTail s fn).1, -1)] }
      else { s.mbox fn with tail := (s.mbox fn).tail + 1, taken := (s.mbox fn).taken ++ [entryAtTail s fn] }) := by
  obtain ⟨hen, hready, htail, hroom⟩ := h
  unfold entryTake
  rw [if_neg (by simp [hen, hready, htail, hroom])]
  dsimp only
  change (if (entryAtTail s fn).2.1 > 10 then _ else _) = _
  split <;> rfl

theorem entryTake_not_ready {s : State} {fn : Nat} (h : (s.mbox fn).en = false ∨ (s.mbox fn).ready = false ∨
    (s.mbox fn).tail = (s.mbox fn).head ∨ (s.mbox fn).cplFull = true) : entryTake s fn = s := by
  unfold entryTake
  refine if_pos ?_
  rcases h with h | h | h | h <;> simp [h]

@[simp] theorem natLe_length (n v : Nat) : (natLe n v).length = n := by
  induction n generalizing v with
  | zero => rfl
  | succ n ih => simp [natLe, ih]

/-- The address of the completion that is written next. -/
def cplAddr (m : Mbox) : Nat := m.cpl.toNat + 16 * (m.chead.toNat % m.size)
/-- The sixteen bytes of a completion: its tag, the phase bit and its result. -/
def cplBytes (m : Mbox) (tag : BitVec 16) (v : DWord) : List Byte :=
  natLe 2 tag.toNat ++ [BitVec.ofNat 8 (1 - m.chead.toNat / m.size % 2)] ++ List.replicate 5 0 ++ natLe 8 v.toNat

theorem cplBytes_length (m : Mbox) (tag : BitVec 16) (v : DWord) : (cplBytes m tag v).length = 16 := by simp [cplBytes]

theorem completionWrite_room {s : State} {fn : Nat} {tag : BitVec 16} {v : DWord} {r : List (BitVec 16 × DWord)}
    (hheld : (s.mbox fn).held = (tag, v) :: r) (hroom : (s.mbox fn).cplFull = false) :
    completionWrite s fn =
      State.setMbox { s with hostMem := mwrite s.hostMem (cplAddr (s.mbox fn)) (cplBytes (s.mbox fn) tag v) } fn
        { s.mbox fn with held := r, chead := (s.mbox fn).chead + 1, msix := (s.mbox fn).msix + 1 } := by
  unfold completionWrite
  simp only [hheld, hroom]
  rfl

/-- Settles O49: the two doorbells in and out of range, the taking of an entry, and the writing of a completion. -/
theorem mailboxRings : Obligations.MailboxRings := by
  unfold Obligations.MailboxRings
  refine ⟨fun fn v => .of_exec (exec_mailboxHeadWrite fn v) fun s h => ?_,
    fun fn v => .of_exec (exec_mailboxHeadWrite fn v) fun s h => ?_,
    fun fn v => .of_exec (exec_mailboxCtailWrite fn v) fun s h => ?_,
    fun fn v => .of_exec (exec_mailboxCtailWrite fn v) fun s h => ?_,
    fun fn e => .of_exec (exec_mailboxEntryTake fn) fun s h => ?_,
    fun fn => .of_exec (exec_mailboxEntryTake fn) fun s h => ?_,
    fun fn tag v r => .of_exec (exec_completionWrite fn) fun s h => ?_⟩
  · rw [headWrite_in_range h.1 h.2, mbox_setMbox_same]
  · rw [headWrite_out_of_range h.1 h.2, mbox_setMbox_same]
  · rw [ctailWrite_in_range h.1 h.2, mbox_setMbox_same]
  · rw [ctailWrite_out_of_range h.1 h.2, mbox_setMbox_same]
  · obtain ⟨hen, hready, htail, hroom, rfl⟩ := h
    rw [entryTake_ready ⟨hen, hready, htail, hroom⟩, mbox_setMbox_same]
    change _ ∧ _ ∧ ((entryAtTail s fn).2.1 ≤ 10 → _) ∧ (10 < (entryAtTail s fn).2.1 → _)
    split
    next hlarge => exact ⟨rfl, rfl, fun h => absurd h (by omega), fun _ => ⟨rfl, rfl⟩⟩
    next hsmall => exact ⟨rfl, rfl, fun _ => ⟨rfl, rfl⟩, fun h => absurd h hsmall⟩
  · exact entryTake_not_ready h
  · obtain ⟨hheld, hroom⟩ := h
    rw [completionWrite_room hheld hroom, mbox_setMbox_same]
    refine ⟨rfl, rfl, rfl, rfl, ?_, fun k hk => mget_mwrite_outside _ (by rw [cplBytes_length]; exact hk)⟩
    exact (congrArg _ (cplBytes_length (s.mbox fn) tag v).symm).trans (mread_mwrite _ _ _)

end Sys2Proof.Machine

/-! Proofs: boot, power states, the power limit, sensors and HOLD, clock stretching, device time and the status block. -/

namespace Sys2Proof.Machine

/-! ### What the end of a launch leaves alone (R106, R320) -/

/-- Memories, writes, module registers, log and interrupts are as they were. -/
def Aside (s t : State) : Prop :=
  t.mem = s.mem ∧ t.hostMem = s.hostMem ∧ t.ord.writes = s.ord.writes ∧ t.mod = s.mod ∧ t.irqs = s.irqs ∧ t.log = s.log

namespace Aside

theorem refl (s : State) : Aside s s := ⟨rfl, rfl, rfl, rfl, rfl, rfl⟩

theorem trans {s t u : State} (h : Aside s t) (k : Aside t u) : Aside s u := by
  obtain ⟨h1, h2, h3, h4, h5, h6⟩ := h
  obtain ⟨k1, k2, k3, k4, k5, k6⟩ := k
  exact ⟨k1.trans h1, k2.trans h2, k3.trans h3, k4.trans h4, k5.trans h5, k6.trans h6⟩

theorem foldl {α : Type} {f : State → α → State} (h : ∀ s a, Aside s (f s a)) (l : List α) (s : State) :
    Aside s (l.foldl f s) := by
  induction l generalizing s with
  | nil => exact refl s
  | cons a l ih => exact (h s a).trans (ih _)

end Aside

theorem answer_aside (s : State) (who : Caller) (v : DWord) : Aside s (s.answer who v) := by
  unfold State.answer
  split <;> exact .refl s

theorem endLaunch_aside (s : State) (l : Nat) : Aside s (endLaunch s l) := by
  have htt : Aside s (match (s.launch l).tt with
      | some e => { s with tt := aput e { aget TtEnt.empty e s.tt with run := false } s.tt }
      | none => s) := by
    split <;> exact .refl s
  have hcalls : ∀ (u : State) (l : List WaitCall), Aside u (l.foldl (fun s w => s.answer w.who 0) u) :=
    fun u l => Aside.foldl (fun s (w : WaitCall) => answer_aside s w.who 0) l u
  exact (htt.trans (hcalls _ _)).trans (.refl _)

theorem settleTeam_aside (s : State) (tid : Nat) : Aside s (settleTeam s tid) := by
  unfold settleTeam
  dsimp only
  split
  · exact .refl s
  split
  · exact .refl s
  split
  · exact .refl s
  split
  · exact .refl s
  split
  · exact Aside.trans (.refl s) (endLaunch_aside _ _)
  · exact .refl s

theorem migSettle_aside (s : State) (tid : Nat) : Aside s (migSettle s tid) := by
  obtain ⟨q, hq⟩ := migSettle_leaves s tid
  rw [hq]
  exact .refl s

theorem advanceCbd_aside (gid n : Nat) (s : State) : Aside s (advanceCbd s gid n) := by
  induction n generalizing s with
  | zero => exact .refl s
  | succ n ih =>
    unfold advanceCbd
    dsimp only
    split
    · exact .refl s
    · split
      · exact .refl s
      · exact Aside.trans (.refl s) (ih _)

theorem closeBatch_aside (s : State) (gid : Nat) : Aside s (closeBatch s gid) :=
  Aside.trans (.refl s) (advanceCbd_aside gid 16 _)

theorem groupEvent_aside (s : State) (gid : Nat) (more : List Nat) : Aside s (groupEvent s gid more).2 := by
  obtain ⟨-, -, -, hw⟩ := groupEvent_untouched s gid more
  exact ⟨rfl, rfl, hw, rfl, rfl, rfl⟩

theorem setBar_aside (s : State) (tid cls i : Nat) (b : Bar) : Aside s (s.setBar tid cls i b) := by
  unfold State.setBar
  split <;> exact .refl s

theorem barAdvance_aside (s : State) (b : Bar) : Aside s (barAdvance s b).1 := by
  unfold barAdvance
  split <;> exact .refl s

theorem barLeave_aside (s : State) (tid cls i m n : Nat) : Aside s (barLeave s tid cls i m n) :=
  (barAdvance_aside s _).trans (setBar_aside _ _ _ _ _)

theorem dequeue_aside (s : State) (lid : Nat) : Aside s (dequeue s lid) := by
  unfold dequeue
  split <;> exact .refl s

/-! ### Ending launches drops lane-private lines alone (R46, R106) -/

/-- No lane-private write covers a byte. -/
def Public (s : State) (a : Nat) : Prop := ∀ w ∈ s.ord.writes, w.priv = true → w.covers a = false

/-- Of bytes that no lane-private write covers nothing has changed, nor of module registers, log and interrupts. -/
def EndsOnly (s t : State) : Prop :=
  (∀ a, Public s a → Public t a ∧ t.byte a = s.byte a) ∧ t.mod = s.mod ∧ t.irqs = s.irqs ∧ t.log = s.log

namespace EndsOnly

theorem refl (s : State) : EndsOnly s s := ⟨fun _ h => ⟨h, rfl⟩, rfl, rfl, rfl⟩

theorem trans {s t u : State} (h : EndsOnly s t) (k : EndsOnly t u) : EndsOnly s u := by
  obtain ⟨h1, h2, h3, h4⟩ := h
  obtain ⟨k1, k2, k3, k4⟩ := k
  refine ⟨fun a ha => ?_, k2.trans h2, k3.trans h3, k4.trans h4⟩
  obtain ⟨ht, hbt⟩ := h1 a ha
  obtain ⟨hu, hbu⟩ := k1 a ht
  exact ⟨hu, hbu.trans hbt⟩

theorem foldl {α : Type} {f : State → α → State} (h : ∀ s a, EndsOnly s (f s a)) (l : List α) (s : State) :
    EndsOnly s (l.foldl f s) := by
  induction l generalizing s with
  | nil => exact refl s
  | cons a l ih => exact (h s a).trans (ih _)

end EndsOnly

theorem Aside.endsOnly {s t : State} (h : Aside s t) : EndsOnly s t := by
  obtain ⟨hmem, -, hwr, hmod, hirqs, hlog⟩ := h
  refine ⟨fun a ha => ⟨?_, ?_⟩, hmod, hirqs, hlog⟩
  · unfold Public
    rw [hwr]
    exact ha
  · unfold State.byte
    rw [hmem]

theorem pokes_sides (s : State) (k : Nat) (bs : List Byte) : (s.pokes k bs).ord = s.ord ∧ (s.pokes k bs).mod = s.mod ∧
    (s.pokes k bs).irqs = s.irqs ∧ (s.pokes k bs).log = s.log := by
  unfold State.pokes
  split <;> exact ⟨rfl, rfl, rfl, rfl⟩

theorem foldl_pokes_sides {f : Nat × Byte → List Byte} (l : List (Nat × Byte)) (s : State) :
    (l.foldl (fun s x => s.pokes x.1 (f x)) s).ord = s.ord ∧ (l.foldl (fun s x => s.pokes x.1 (f x)) s).mod = s.mod ∧
      (l.foldl (fun s x => s.pokes x.1 (f x)) s).irqs = s.irqs ∧ (l.foldl (fun s x => s.pokes x.1 (f x)) s).log = s.log := by
  induction l generalizing s with
  | nil => exact ⟨rfl, rfl, rfl, rfl⟩
  | cons x l ih =>
    obtain ⟨h1, h2, h3, h4⟩ := ih (s.pokes x.1 (f x))
    obtain ⟨k1, k2, k3, k4⟩ := pokes_sides s x.1 (f x)
    exact ⟨h1.trans k1, h2.trans k2, h3.trans k3, h4.trans k4⟩

/-- The writes that are left cover what they covered. -/
theorem unwrite_sides (s : State) (p : WriteRec → Bool) :
    (∀ w ∈ (unwrite s p).ord.writes, ∃ v ∈ s.ord.writes, w.priv = v.priv ∧ ∀ a, w.covers a = v.covers a) ∧
      (unwrite s p).mod = s.mod ∧ (unwrite s p).irqs = s.irqs ∧ (unwrite s p).log = s.log := by
  unfold unwrite
  dsimp only
  refine ⟨fun w hw => ?_, (foldl_pokes_sides _ _).2.1, (foldl_pokes_sides _ _).2.2.1, (foldl_pokes_sides _ _).2.2.2⟩
  rw [(foldl_pokes_sides _ _).1] at hw
  obtain ⟨v, hv, rfl⟩ := List.mem_map.mp hw
  exact ⟨v, (List.mem_filter.mp hv).1, rfl, fun _ => rfl⟩

theorem unwrite_endsOnly (s : State) (p : WriteRec → Bool) (hp : ∀ w, p w = true → w.priv = true) : EndsOnly s (unwrite s p) := by
  obtain ⟨hwr, hmod, hirqs, hlog⟩ := unwrite_sides s p
  refine ⟨fun a ha => ⟨fun w hw hpriv => ?_, (unwrite_leaves s p).2 a fun w hw h => ha w hw (hp w h)⟩, hmod, hirqs, hlog⟩
  obtain ⟨v, hv, hvp, hvc⟩ := hwr w hw
  rw [hvc]
  exact ha v hv (hvp.symm.trans hpriv)

theorem dropPriv_endsOnly (s : State) (gid : Nat) : EndsOnly s (dropPriv s gid) := by
  unfold dropPriv
  dsimp only
  split
  · refine (unwrite_endsOnly s _ fun w hw => ?_).trans (.refl _)
    simp only [Bool.and_eq_true] at hw
    exact hw.1.1
  · exact .refl s

theorem settleGroup_endsOnly (s : State) (gid : Nat) : EndsOnly s (settleGroup s gid) := by
  unfold settleGroup
  dsimp only
  split
  · exact .refl s
  · have hbars : Aside (groupEvent s gid []).2 (allBars.foldl (fun s' p =>
        let b := s'.bar (s.grp gid).team p.1 p.2
        if b.members.contains gid && !(b.gone.any fun m => m.1 == gid) then
          barLeave s' (s.grp gid).team p.1 p.2 gid (groupEvent s gid []).1
        else s') (groupEvent s gid []).2) := by
      refine Aside.foldl (fun s p => ?_) _ _
      dsimp only
      split
      · exact barLeave_aside _ _ _ _ _ _
      · exact .refl s
    have h := ((groupEvent_aside s gid []).trans hbars).endsOnly
    generalize allBars.foldl (fun s' p =>
      let b := s'.bar (s.grp gid).team p.1 p.2
      if b.members.contains gid && !(b.gone.any fun m => m.1 == gid) then barLeave s' (s.grp gid).team p.1 p.2 gid (groupEvent s gid []).1
      else s') (groupEvent s gid []).2 = u at h ⊢
    split
    · refine ((h.trans (dropPriv_endsOnly u gid)).trans (Aside.endsOnly ?_)).trans (settleTeam_aside _ _).endsOnly
      exact .refl _
    · exact h

theorem retireGroup_endsOnly (s : State) (gid : Nat) : EndsOnly s (retireGroup s gid) := by
  have h : Aside s (migSettle (s.modGrp gid emptied) ((s.modGrp gid emptied).grp gid).team) :=
    Aside.trans (.refl s) (migSettle_aside _ _)
  have heq : retireGroup s gid = settleGroup (if ((migSettle (s.modGrp gid emptied) ((s.modGrp gid emptied).grp gid).team).grp gid).opn
      then closeBatch (migSettle (s.modGrp gid emptied) ((s.modGrp gid emptied).grp gid).team) gid
      else migSettle (s.modGrp gid emptied) ((s.modGrp gid emptied).grp gid).team) gid := rfl
  rw [heq]
  refine EndsOnly.trans (Aside.endsOnly ?_) (settleGroup_endsOnly _ gid)
  split
  · exact h.trans (closeBatch_aside _ _)
  · exact h

theorem endTeam_endsOnly (s : State) (tid : Nat) : EndsOnly s (endTeam s tid) := by
  have hgroups : EndsOnly s ((s.team tid).groups.foldl (fun s g =>
      if (s.grp g).live && !(s.grp g).exited then retireGroup (s.modGrp g fun g => { g with susp := none, hctx := none }) g else s) s) := by
    refine EndsOnly.foldl (fun s g => ?_) _ _
    split
    · refine EndsOnly.trans (Aside.endsOnly ?_) (retireGroup_endsOnly _ g)
      exact .refl s
    · exact .refl s
  have hstream : ∀ s : State, EndsOnly s (if (s.team tid).stream.isSome
      then s.setStr tid { s.str tid with live := false, susp := false, busy := false } else s) := by
    intro s
    split
    · exact Aside.endsOnly (.refl s)
    · exact .refl s
  exact (hgroups.trans (hstream _)).trans (settleTeam_aside _ _).endsOnly

theorem endLaunchNow_endsOnly (s : State) (lid : Nat) : EndsOnly s (endLaunchNow s lid) := by
  unfold endLaunchNow
  split
  · exact .refl s
  next l _ =>
    have hstart : EndsOnly s ((dequeue s lid).setLaunch lid { l with ending := true }) :=
      ((dequeue_aside s lid).trans (.refl _)).endsOnly
    dsimp only
    generalize (dequeue s lid).setLaunch lid { l with ending := true } = u at hstart
    have hteams := hstart.trans (.foldl endTeam_endsOnly (teamsOf u fun t => t.launch == lid && t.alive) u)
    split
    · exact hteams.trans (endLaunch_aside _ _).endsOnly
    · exact hteams

/-- What the ending of every launch of some contexts leaves. -/
theorem endContexts_leaves (s : State) (p : Nat → Bool) (what : String) :
    (∀ a, Public s a → (endContexts s p what).byte a = s.byte a) ∧ (endContexts s p what).mod = s.mod ∧
      (endContexts s p what).irqs = s.irqs + 1 ∧ (endContexts s p what).log = s.log ++ [what] := by
  obtain ⟨hbyte, hmod, hirqs, hlog⟩ : EndsOnly s ((s.launches.filter fun l => p l.2.asid).foldl (fun s l => endLaunchNow s l.1) s) :=
    .foldl (fun s (l : Nat × Launch) => endLaunchNow_endsOnly s l.1) _ s
  exact ⟨fun a ha => (hbyte a ha).2, hmod, congrArg (· + 1) hirqs, congrArg (· ++ [what]) hlog⟩

theorem enterHold_heldFor (s : State) (cause : Nat) : HeldFor cause s (enterHold s cause) := by
  unfold HeldFor enterHold
  split
  · rfl
  · obtain ⟨hbyte, hmod, hirqs, hlog⟩ := endContexts_leaves s (fun _ => true) "hold"
    exact ⟨rfl, congrArg (fun m : Module => m.holdc ||| BitVec.ofNat 32 (2 ^ cause)) hmod, hirqs, hlog, hbyte⟩

/-! ### The sensors (R348) -/

theorem junctionOver_over {s : State} {die temp : Nat} (hdie : die < 5) (htemp : 95 < temp) :
    junctionOver s die temp = if temp ≥ 105 then enterHold (sensed s die temp) 0 else sensed s die temp := by
  unfold junctionOver
  dsimp only
  rw [if_neg (show ¬temp ≤ 95 by omega)]
  exact if_neg (by rintro (h | h); exacts [absurd h (by omega), absurd h (by simp)])

theorem junctionOver_cool {s : State} {die temp : Nat} (hdie : die < 5) (htemp : temp ≤ 95) (h : ∃ h ∈ s.mod.hot, h.1 ≠ die) :
    junctionOver s die temp = { s with mod := { s.mod with
      tmax := hottest (s.mod.hot.filter fun h => h.1 != die), hot := s.mod.hot.filter fun h => h.1 != die, throt := true } } := by
  obtain ⟨x, hx, hne⟩ := h
  have hrest : (s.mod.hot.filter fun h => h.1 != die).isEmpty = false := by
    rw [List.isEmpty_eq_false_iff]
    exact List.ne_nil_of_mem (List.mem_filter.mpr ⟨hx, by simpa using hne⟩)
  unfold junctionOver
  dsimp only
  rw [if_pos htemp]
  rw [if_neg (by rw [hrest]; simp; omega), if_neg (by omega)]

theorem foldl_max_eq (l : List Nat) (n : Nat) :
    n ≤ l.foldl max n ∧ (∀ x ∈ l, x ≤ l.foldl max n) ∧ (l.foldl max n = n ∨ l.foldl max n ∈ l) := by
  induction l generalizing n with
  | nil => exact ⟨Nat.le_refl n, nofun, .inl rfl⟩
  | cons x l ih =>
    obtain ⟨hn, hall, hmem⟩ := ih (max n x)
    refine ⟨(Nat.le_max_left n x).trans hn, fun y hy => ?_, ?_⟩
    · rcases List.mem_cons.mp hy with rfl | hy
      · exact (Nat.le_max_right n y).trans hn
      · exact hall y hy
    · rcases hmem with h | h
      · rcases Nat.le_total n x with hle | hle
        · exact .inr (List.mem_cons.mpr (.inl (h.trans (Nat.max_eq_right hle))))
        · exact .inl (h.trans (Nat.max_eq_left hle))
      · exact .inr (List.mem_cons_of_mem _ h)

theorem hottest_toNat (l : List (Nat × Nat)) : (hottest l).toNat = min 255 ((l.map (·.2)).foldl max 0) := by
  unfold hottest
  rw [BitVec.toNat_ofNat]
  exact Nat.mod_eq_of_lt (by omega)

theorem hottest_is_max (l : List (Nat × Nat)) : (∀ h ∈ l, min 255 h.2 ≤ (hottest l).toNat) ∧
    (l ≠ [] → ∃ h ∈ l, (hottest l).toNat = min 255 h.2) := by
  obtain ⟨-, hall, hmem⟩ := foldl_max_eq (l.map (·.2)) 0
  rw [hottest_toNat]
  refine ⟨fun h hh => ?_, fun hne => ?_⟩
  · have := hall h.2 (List.mem_map_of_mem hh)
    omega
  · rcases hmem with h0 | hm
    · obtain ⟨x, r, rfl⟩ := List.exists_cons_of_ne_nil hne
      have := hall x.2 (List.mem_map_of_mem List.mem_cons_self)
      exact ⟨x, List.mem_cons_self, by omega⟩
    · obtain ⟨x, hx, he⟩ := List.mem_map.mp hm
      exact ⟨x, hx, by rw [he]⟩

/-! ### Boot (R340) -/

theorem devicetree_congr {s t : State} (hself : t.self = s.self) (hlinks : t.links = s.links) : devicetree t = devicetree s := by
  have hpeer : peerNode t = peerNode s := by
    funext p
    unfold peerNode State.link
    rw [hlinks]
  unfold devicetree dtTree
  rw [hself, hpeer]
  rfl

/-- The resident OS serves mailboxes: nothing but them has changed. -/
theorem serves_mboxes (l : List (Nat × Nat)) (c : State) : ∃ m, l.foldl (fun (c : State) (f : Nat × Nat) =>
    if f.1 < 17 ∧ f.2 < 256 then c.setMbox f.1 { c.mbox f.1 with ready := true, asid := f.2 } else c) c = { c with mboxes := m } := by
  induction l generalizing c with
  | nil => exact ⟨c.mboxes, rfl⟩
  | cons f l ih =>
    rw [List.foldl_cons]
    split
    · obtain ⟨m, hm⟩ := ih (c.setMbox f.1 { c.mbox f.1 with ready := true, asid := f.2 })
      exact ⟨m, hm⟩
    · exact ih c

/-- The state in which the boot starts. -/
def coldAt (s : State) (fl : FlashState) : State := { s.cold with self := fl.index }

/-- The memory once the resident OS image and the Devicetree have been loaded. -/
def bootMem (s : State) (fl : FlashState) (o : FlashImage) : List Host.Cell :=
  mwrite (mwrite [] (devKey fl.index fl.osAt) (o.bytes.take (2 ^ 40 - fl.osAt))) (devKey fl.index fl.dtAt)
    ((devicetree (coldAt s fl)).take (2 ^ 40 - fl.dtAt))

section Boots
variable {s : State} {fl : FlashState} (hindex : fl.index ≤ 143) (hstate : s.mod.state < 2)
include hindex hstate

theorem supplyOn_stops_at_2 (h : bootSlot fl.shallotA fl.shallotB fl.rollback = none) :
    supplyOn s fl = { coldAt s fl with mod := { (coldAt s fl).mod with bootStep := 2 } } := by
  unfold supplyOn
  rw [if_neg (by omega), h]
  rfl

theorem supplyOn_stops_at_3 {a : FlashImage} (ha : bootSlot fl.shallotA fl.shallotB fl.rollback = some a)
    (h : bootSlot fl.osA fl.osB fl.rollback = none) : supplyOn s fl = { coldAt s fl with
      shallot := { (coldAt s fl).shallot with measured := [a.digest] }, mod := { (coldAt s fl).mod with bootStep := 3 } } := by
  unfold supplyOn
  rw [if_neg (by omega), ha, h]
  rfl

theorem supplyOn_boots {a o : FlashImage} (ha : bootSlot fl.shallotA fl.shallotB fl.rollback = some a)
    (ho : bootSlot fl.osA fl.osB fl.rollback = some o) : ∃ m, supplyOn s fl = { coldAt s fl with
      mem := bootMem s fl o, shallot := { (coldAt s fl).shallot with measured := [a.digest, o.digest] }
      mod := { (coldAt s fl).mod with bootStep := 5, state := 2 }, mboxes := m } := by
  unfold supplyOn
  rw [if_neg (by omega), ha, ho]
  exact serves_mboxes fl.serves _

end Boots

theorem bootMem_loaded (s : State) (fl : FlashState) (o : FlashImage) {t : State} (hself : t.self = fl.index)
    (hlinks : t.links = (coldAt s fl).links) (hmem : t.mem = bootMem s fl o) : BootLoaded fl o t := by
  have hdt : devicetree t = devicetree (coldAt s fl) := devicetree_congr hself hlinks
  unfold BootLoaded
  rw [hdt]
  simp only [hmem, State.byte, bootMem]
  refine ⟨mread_mwrite _ _ _, fun hapart => ?_, fun k hdtk hosk => ?_⟩
  · refine Eq.trans ?_ (mread_mwrite [] (devKey fl.index fl.osAt) (o.bytes.take (2 ^ 40 - fl.osAt)))
    rw [mread_eq, mread_eq]
    refine List.map_congr_left fun i hi => mget_mwrite_outside _ ?_
    have := List.mem_range.mp hi
    unfold devKey
    omega
  · rw [mget_mwrite_outside _ hdtk, mget_mwrite_outside _ hosk]
    rfl

/-! ### Device time (R349) -/

theorem noteLack_launches (s : State) : ∃ l, noteLack s = { s with launches := l } := by
  have h : ∀ (hs : List (Nat × Option Nat × Nat)) (f : State → Nat × Option Nat × Nat → Launch → Launch) (s : State),
      ∃ l, hs.foldl (fun s h => s.modLaunch h.1 (f s h)) s = { s with launches := l } := by
    intro hs f
    induction hs with
    | nil => exact fun s => ⟨s.launches, rfl⟩
    | cons x hs ih =>
      intro s
      obtain ⟨l, hl⟩ := ih (s.modLaunch x.1 (f s x))
      exact ⟨l, hl⟩
  exact h _ (fun s h l => if lacksRoom s h then { l with lack := some (l.lack.getD s.time) } else { l with lack := none }) s

/-- The correction of a tick. -/
def slewOf (s : State) (ns : Nat) : Int := slewStep (s.slewRem + ns) s.slew

theorem tick_clock (s : State) (ns : Nat) (d : List Nat) :
    (tick s ns d).time = ((s.time + ns : Nat) + slewOf s ns).toNat ∧ (tick s ns d).slew = s.slew - slewOf s ns ∧
      (tick s ns d).slewRem = (if s.slew = slewOf s ns then 0 else (s.slewRem + ns) % 2000) ∧ (tick s ns d).mem = s.mem := by
  obtain ⟨l, hl⟩ := noteLack_launches s
  unfold tick
  rw [hl]
  exact ⟨rfl, rfl, rfl, rfl⟩

theorem slewOf_bounds (s : State) (ns : Nat) :
    -(((s.slewRem + ns) / 2000 : Nat) : Int) ≤ slewOf s ns ∧ slewOf s ns ≤ ((s.slewRem + ns) / 2000 : Nat) ∧
      (0 ≤ s.slew → 0 ≤ slewOf s ns ∧ slewOf s ns ≤ s.slew) ∧ (s.slew ≤ 0 → slewOf s ns ≤ 0 ∧ s.slew ≤ slewOf s ns) ∧
      (s.slew ≠ 0 → 2000 ≤ s.slewRem + ns → slewOf s ns ≠ 0) := by
  unfold slewOf slewStep
  omega

/-! ### The status block (R350) -/

theorem statusBlock_fields (s : State) : bits (statusBlock s) 0 16 = s.mod.power.toNat ∧ bits (statusBlock s) 16 16 = s.mod.plim.toNat ∧
    bits (statusBlock s) 32 8 = s.mod.tmax.toNat ∧ bits (statusBlock s) 40 8 = s.mod.tcool.toNat ∧
    bits (statusBlock s) 48 3 = s.mod.state % 8 ∧ bits (statusBlock s) 51 1 = s.mod.throt.toNat ∧
    bits (statusBlock s) 52 1 = s.mod.sync.toNat ∧ bits (statusBlock s) 53 11 = 0 ∧ bits (statusBlock s) 64 32 = s.mod.corr.toNat ∧
    bits (statusBlock s) 96 32 = s.mod.holdc.toNat := by
  have h1 := s.mod.power.isLt
  have h2 := s.mod.plim.isLt
  have h3 := s.mod.tmax.isLt
  have h4 := s.mod.tcool.isLt
  have h5 := Bool.toNat_lt s.mod.throt
  have h6 := Bool.toNat_lt s.mod.sync
  have h7 := s.mod.corr.isLt
  have h8 := s.mod.holdc.isLt
  unfold bits statusBlock
  dsimp only
  generalize s.mod.power.toNat = a at *
  generalize s.mod.plim.toNat = b at *
  generalize s.mod.tmax.toNat = c at *
  generalize s.mod.tcool.toNat = d at *
  generalize s.mod.throt.toNat = e at *
  generalize s.mod.sync.toNat = f at *
  generalize s.mod.corr.toNat = g at *
  generalize s.mod.holdc.toNat = h at *
  omega

/-- Settles O53: the outcomes of the boot, the power states, the sensors and HOLD, the ticks of device time and the status block. -/
theorem bootPowerCoolingAndTime : Obligations.BootPowerCoolingAndTime := by
  unfold Obligations.BootPowerCoolingAndTime
  refine ⟨fun fl hfl => .of_exec (exec_mainSupplyOn fl) fun s h => ?_, fun fl a hfl => .of_exec (exec_mainSupplyOn fl) fun s h => ?_,
    fun fl a o hfl => .of_exec (exec_mainSupplyOn fl) fun s h => ?_, fun fl => .of_exec (exec_mainSupplyOn fl) fun s h => ?_,
    .of_exec exec_mainSupplyOff fun s _ => ⟨rfl, rfl, rfl, rfl, rfl, rfl⟩, .of_exec (exec_idleRequest true) fun s _ => rfl,
    .of_exec (exec_idleRequest false) fun s _ => rfl, .of_exec exec_idleEnter fun s h => ?_, .of_exec exec_idleEnter fun s h => ?_,
    fun w => .of_exec (exec_powerOverLimit w) fun s h => ?_, fun w => .of_exec (exec_powerWithinLimit w) fun s h => ?_,
    fun die temp hdie hlo hhi => .of_exec (exec_junctionOver95c die temp) fun s _ => ?_,
    fun die temp hdie hhi => .of_exec (exec_junctionOver95c die temp) fun s _ => ?_,
    fun die temp hdie hlo => .of_exec (exec_junctionOver95c die temp) fun s h => ?_,
    fun die temp hdie => .of_exec (exec_junctionOver95c die temp) fun s _ => ?_, hottest_is_max,
    fun temp htemp => .of_exec (exec_junctionBelow95c temp) fun s _ => ?_,
    fun die temp hdie hhi => .of_exec (exec_thermalTrip (.junction die temp)) fun s _ => ?_,
    fun die temp h => .of_exec (exec_thermalTrip (.junction die temp)) fun s _ => ?_,
    .of_exec (exec_thermalTrip .supply) fun s _ => enterHold_heldFor s 2,
    fun t0 => .of_exec exec_coolantFlowTimeout fun s h => ?_, .of_exec exec_coolantFlowTimeout fun s h => ?_,
    fun inlet => .of_exec (exec_coolantFlowChange true inlet) fun s h => ?_,
    fun inlet => .of_exec (exec_coolantFlowChange false inlet) fun s _ => ⟨rfl, rfl⟩,
    fun die => .of_exec (exec_supplySagTrip die) fun s _ => ⟨?_, rfl⟩,
    fun die => .of_exec (exec_supplySagClear die) fun s _ => ⟨?_, rfl⟩,
    fun off => .of_exec (exec_ptpMessage off) fun s _ => rfl, .of_exec exec_grandmasterLost fun s _ => rfl,
    fun s ns cyc r hcur hin hst => ?_, statusBlock_fields⟩
  · rw [supplyOn_stops_at_2 hfl h.1 h.2]
    exact ⟨rfl, rfl, rfl, rfl, rfl⟩
  · rw [supplyOn_stops_at_3 hfl h.1 h.2.1 h.2.2]
    exact ⟨rfl, rfl, rfl, rfl⟩
  · obtain ⟨m, hm⟩ := supplyOn_boots hfl h.1 h.2.1 h.2.2
    rw [hm]
    exact ⟨rfl, rfl, rfl, rfl, rfl, bootMem_loaded s fl o rfl rfl rfl, rfl⟩
  · unfold supplyOn
    exact if_pos h
  · obtain ⟨hreq, hon, hnone⟩ := h
    unfold idleEnter
    rw [if_pos (by simp [hreq, hon]; exact fun a b => hnone (a, b))]
    exact ⟨rfl, rfl, rfl⟩
  · unfold idleEnter
    refine if_neg ?_
    rcases h with h | h | ⟨x, hx, hr⟩
    · simp [h]
    · simp [h]
    · simp only [Bool.and_eq_true, Bool.not_eq_true', List.any_eq_false]
      exact fun h => h.2 x hx hr
  · unfold powerOver
    exact if_neg (by omega)
  · unfold powerWithin
    exact if_pos h
  · rw [junctionOver_over hdie hlo]
    exact if_neg (by omega)
  · rw [junctionOver_over hdie (by omega), if_pos hhi]
    exact enterHold_heldFor _ 0
  · rw [junctionOver_cool hdie hlo h]
    exact ⟨rfl, rfl, rfl, rfl, rfl⟩
  · unfold junctionOver
    exact if_pos (.inl hdie)
  · unfold junctionBelow
    rw [if_pos htemp]
    exact ⟨rfl, rfl, rfl, rfl, rfl⟩
  · unfold thermalTrip
    dsimp only
    rw [if_pos hhi, junctionOver_over hdie (by omega), if_pos hhi]
    exact enterHold_heldFor _ 0
  · unfold thermalTrip
    dsimp only
    split
    next hhi =>
      unfold junctionOver
      exact if_pos (.inl (by omega))
    next => rfl
  · obtain ⟨hlow, htime⟩ := h
    unfold coolantTimeout
    rw [hlow]
    dsimp only
    rw [if_pos htime]
    exact enterHold_heldFor s 1
  · unfold coolantTimeout
    split
    next t0 h0 => exact if_neg (by have := h t0 h0; omega)
    next => rfl
  · unfold coolantFlow
    rw [h]
    exact ⟨rfl, rfl⟩
  · unfold sagTrip
    dsimp only
    split
    next h => exact List.contains_iff_mem.mp h
    next => exact List.mem_cons_self
  · simp [sagClear]
  · refine ⟨endEvent (tick { s with inputs := r } ns cyc), ?_, ?_⟩
    · rw [step_of_input hcur hin]
      simp only [runInput, if_neg hst]
      rfl
    · obtain ⟨htime, hslew, hrem, hmem⟩ := tick_clock { s with inputs := r } ns cyc
      have hk := slewOf_bounds s ns
      change (tick _ ns cyc).time = ((s.time + ns : Nat) + slewOf s ns).toNat at htime
      change (tick _ ns cyc).slew = s.slew - slewOf s ns at hslew
      change (tick _ ns cyc).slewRem = (if s.slew = slewOf s ns then 0 else (s.slewRem + ns) % 2000) at hrem
      change (tick _ ns cyc).mem = s.mem at hmem
      change (tick { s with inputs := r } ns cyc).time ≤ _ ∧ _ ≤ (tick { s with inputs := r } ns cyc).time + _ ∧
        (tick { s with inputs := r } ns cyc).mem = _ ∧ (_ → ((tick { s with inputs := r } ns cyc).time : Int) +
          (tick { s with inputs := r } ns cyc).slew = _ ∧ (tick { s with inputs := r } ns cyc).slewRem < 2000 ∧
          _ ≤ (tick { s with inputs := r } ns cyc).time ∧ (_ → _ → (tick { s with inputs := r } ns cyc).slew.natAbs < _))
      rw [htime, hslew, hrem]
      refine ⟨by omega, by omega, hmem, fun hlt => ⟨by omega, ?_, by omega, fun hle hne => ?_⟩⟩
      · split <;> omega
      · have := hk.2.2.2.2 hne hle
        omega

end Sys2Proof.Machine

/-! Proofs: the invalidation drops whole leaves, of which one may be larger than the 64 KiB page that the range is compared with. -/

namespace Sys2Proof.Machine

/-- A 2 MiB leaf that Tuber keeps for page 0, and an invalidation under way of the 4 KiB from 0x10000: within the leaf, outside the page. -/
def bigLeafState : State := { State.reset with
  tlb := [⟨0, 0, 3, 0⟩], inval := ⟨⟨0x10000, 1, 0, false⟩, some ⟨0x10000, 1, 0, false⟩⟩ }

theorem bigLeafState_invalidates : invalDone bigLeafState =
    { bigLeafState with tlb := [], inval := ⟨⟨0x10000, 1, 0, false⟩, none⟩, irqs := 1 } := rfl

/-- Refutes O51: its clause of INVALIDATE_DONE keeps each cached translation whose own 64 KiB page the range does not meet, but a
cached leaf of 2 MiB is dropped when the range meets any part of it. -/
theorem not_tablesAndRegistersAreWritten : ¬ Obligations.TablesAndRegistersAreWritten := by
  unfold Obligations.TablesAndRegistersAreWritten
  intro h
  obtain ⟨-, -, -, -, -, -, -, -, -, hdone, -⟩ := h
  obtain ⟨t, ht, -, -, -, htlb, -⟩ := hdone ⟨0x10000, 1, 0, false⟩ bigLeafState ⟨rfl, rfl⟩
  rw [exec_invalidateDone, bigLeafState_invalidates] at ht
  cases ht
  have hkept : (⟨0, 0, 3, 0⟩ : Tlb) ∈ ([] : List Tlb) := (htlb _).mpr ⟨List.mem_cons_self, by decide⟩
  exact absurd hkept List.not_mem_nil

end Sys2Proof.Machine

/-! What reading a record in memory leaves (R107, R163, R168): events, translations kept, parked lines and counts, and spent choices; and
what a fault leaves alone. -/
namespace Sys2Proof.Machine

/-! ### A fault touches its group and the reports -/

/-- The second state differs in its groups and in the report queue alone. -/
def FaultOnly (s t : State) : Prop :=
  t = { s with groups := t.groups, repHeld := t.repHeld, repMem := t.repMem, repHead := t.repHead, irqs := t.irqs }

theorem FaultOnly.eq {s t : State} (h : FaultOnly s t) :
    t = { s with groups := t.groups, repHeld := t.repHeld, repMem := t.repMem, repHead := t.repHead, irqs := t.irqs } := h

theorem takeFault_only (s : State) (gid fid : Nat) (e : FaultInfo) (m : Lanes) : FaultOnly s (takeFault s gid fid e m) := by
  by_cases h : (s.launchOf (s.grp gid)).handler (s.radOf (s.grp gid)) = none ∨ (s.grp gid).inh = true ∨
      handlerOk e.cause e.flag = false
  · rw [takeFault_suspends h]
    have hr := report_only (s.setGrp gid (suspended s gid fid e m)) (suspendReport s gid fid e m)
    unfold FaultOnly
    rw [hr.eq]
    rfl
  · simp only [not_or, Bool.not_eq_true, Bool.not_eq_false] at h
    obtain ⟨hne, hinh, hok⟩ := h
    obtain ⟨a, ha⟩ := Option.ne_none_iff_exists'.mp hne
    rw [takeFault_to_handler ha hinh hok]
    rfl

theorem takeFault_launches (s : State) (gid fid : Nat) (e : FaultInfo) (m : Lanes) : (takeFault s gid fid e m).launches = s.launches := by
  rw [(takeFault_only s gid fid e m).eq]

/-- The cause that a fault leaves in XREC0. -/
theorem takeFault_cause {s : State} {gid fid : Nat} {e : FaultInfo} {m : Lanes} (he : e.cause + 256 * e.flag < 2 ^ 16) :
    (aget 0 0 ((takeFault s gid fid e m).grp gid).xrec).toNat % 256 = e.cause % 256 := by
  rw [takeFault_xrec]
  have h0 := (mkXrec_record he (faultPcOf (s.grp gid) fid e) (s.grp gid).lastEqp (s.radOf (s.grp gid)) (s.grp gid).inh
    (s.otherAddr (s.launchOf (s.grp gid)) (s.grp gid).eqpRole (s.grp gid).lastEqp (s.radOf (s.grp gid))) m).1
  refine (congrArg (· % 256) h0).trans ?_
  omega

/-! ### An instruction that does nothing -/

theorem Means.nothing {i : Instr} {body : Ctx → State → Act} (h : Means i body) {P : Ctx → Group → Prop}
    (hb : ∀ c s, P c (s.grp c.gid) → body c s = .done s) : RunsIf i P fun _ g => g := by
  intro s gid fid hc hP
  rw [h s gid fid hc, hb _ _ hP]
  simp only [finish, ctxOf_gid, ctxOf_fid, modGrp_eq, grp_setGrp, setGrp_setGrp, retired, enteredGrp, entered, enter, nextPc]

/-! ### What reading a record leaves -/

/-- The second state differs in events, translations kept, parked lines, Shallot's counts and spent choices alone. -/
def Beside (s t : State) : Prop :=
  t = { s with ord := t.ord, tlb := t.tlb, tabs := t.tabs, parks := t.parks, shallot := t.shallot, fresh := t.fresh }

namespace Beside

theorem refl (s : State) : Beside s s := rfl

theorem trans {s t u : State} (h : Beside s t) (k : Beside t u) : Beside s u := by
  unfold Beside at *
  rw [k, h]

theorem of_ord {s t : State} (h : OrdOnly s t) : Beside s t := by
  unfold Beside
  rw [h.eq]

theorem of_notes {s t : State} (h : NotesOnly s t) : Beside s t := by
  unfold Beside
  rw [h.eq]

variable {s t : State} (h : Beside s t)
include h

theorem eq : t = { s with ord := t.ord, tlb := t.tlb, tabs := t.tabs, parks := t.parks, shallot := t.shallot, fresh := t.fresh } := h
theorem mem : t.mem = s.mem := by rw [h.eq]
theorem byte (k : Nat) : t.byte k = s.byte k := by rw [h.eq]; rfl
theorem grp (k : Nat) : t.grp k = s.grp k := by rw [h.eq]; rfl
theorem launches : t.launches = s.launches := by rw [h.eq]
theorem nextLaunch : t.nextLaunch = s.nextLaunch := by rw [h.eq]
theorem queue (q : Nat) : t.queue q = s.queue q := by rw [h.eq]; rfl
theorem copies : t.copies = s.copies := by rw [h.eq]

end Beside

theorem returnLoad_ord (s : State) (agent node : Nat) (place : Place) (sc : Nat) (acq strong : Bool)
    (fences : List (Nat × Nat × Option (Nat × Nat))) (got : List (Nat × Cand)) :
    OrdOnly s (returnLoad s agent node place sc acq strong fences got) := rfl

section Records
variable {c : Ctx} {s u : State} {va n : Nat} {rec : List Byte}

/-- Reading a record changes events alone. -/
theorem readRecord_ord (h : readRecord c s va n = .ok (u, rec)) : OrdOnly s u := by
  unfold readRecord at h
  cases hl : recordLines c s va n with
  | error e => rw [hl] at h; exact nomatch h
  | ok ls =>
    rw [hl] at h
    simp only [Except.map, Except.ok.injEq] at h
    have hfold : ∀ (l : List (Nat × Nat × Nat)) (f : State × List Byte → Nat × Nat × Nat → State × List Byte),
        (∀ p x, OrdOnly p.1 (f p x).1) → ∀ p, OrdOnly p.1 (l.foldl f p).1 := by
      intro l f hf
      induction l with
      | nil => exact fun p => .refl p.1
      | cons x l ih => exact fun p => (hf p x).trans (ih _)
    have hu : _ = u := congrArg Prod.fst h
    rw [← hu]
    refine OrdOnly.trans ?_ (hfold _ _ (fun p x => ?_) _)
    · rfl
    · split
      · exact .refl _
      · exact returnLoad_ord _ _ _ _ _ _ _ _ _

theorem noteRecord_beside (c : Ctx) (s : State) (va n : Nat) : Beside s (noteRecord c s va n) := by
  unfold noteRecord
  dsimp only
  split
  · rfl
  · next ls _ =>
    refine (Beside.of_notes (NotesOnly.trans (NotesOnly.foldl (fun s p => ?_) _ s) (refuseAll_notes _ _ _))).trans rfl
    exact (crossDemote_notes _ _ _).trans (noteTlb_notes _ _ _ _ _)

/-- What an instruction that has read a record finds. -/
theorem readRecord_beside (h : readRecord c s va n = .ok (u, rec)) : Beside s (noteRecord c u va n) :=
  (Beside.of_ord (readRecord_ord h)).trans (noteRecord_beside c u va n)

theorem withRecord_waits {k : List Byte → State → Act} (h : recordWaits c s va n = true) :
    withRecord c s va n k = .wait s .acquire := if_pos h

theorem withRecord_reads {k : List Byte → State → Act} (h : recordWaits c s va n = false)
    (hr : readRecord c s va n = .ok (u, rec)) : withRecord c s va n k = k rec (noteRecord c u va n) := by
  unfold withRecord
  rw [if_neg (by rw [h]; exact Bool.false_ne_true), hr]

end Records

end Sys2Proof.Machine

/-! Proofs: LAUNCH reads its record and queues it, waits or faults (R107, R274). -/
namespace Sys2Proof.Machine

theorem means_launchQueue (r : Option (BitVec 13)) (b : BitVec 3) :
    Means (both r (.launchQueue b) fun w => .launchQueueRadish w b) (launchB b) :=
  .of_issues (exec_launchQueue b) fun w => exec_launchQueueRadish w b

/-- The address that LAUNCH names. -/
def launchAddr (b : BitVec 3) (c : Ctx) (s : State) : Nat := ((s.grp c.gid).sreg64 (2 * b.toNat)).toNat

section Launch
variable {b : BitVec 3} {c : Ctx} {s : State}

theorem launchB_no_lane (h : c.em = 0) : launchB b c s = .done s := if_pos h

theorem launchB_misaligned (hem : c.em ≠ 0) (ha : launchAddr b c s % 256 ≠ 0) :
    launchB b c s = .fault s (fltL 5 0 (launchAddr b c s) true (leaderMask c)) := by
  unfold launchB
  dsimp only
  rw [if_neg hem]
  exact if_pos ha

variable (hem : c.em ≠ 0) (ha : launchAddr b c s % 256 = 0)
include hem ha

theorem launchB_acquire (hw : recordWaits c s (launchAddr b c s) 256 = true) : launchB b c s = .wait s .acquire := by
  unfold launchB
  dsimp only
  rw [if_neg hem]
  exact (if_neg (not_not_intro ha)).trans (withRecord_waits hw)

variable {u : State} {rec : List Byte} (hw : recordWaits c s (launchAddr b c s) 256 = false)
  (hr : readRecord c s (launchAddr b c s) 256 = .ok (u, rec))
include hw hr

/-- LAUNCH once it has read its record. -/
theorem launchB_read : launchB b c s =
    (if !(s.queue (field rec 65 1)).en || (s.queue (field rec 65 1)).asid != s.asidOf (s.grp c.gid) then
      .fault (noteRecord c u (launchAddr b c s) 256) (flt 6 (Config.free s.fresh 5 1 % 9))
    else if (recordCause (newLaunch s (s.asidOf (s.grp c.gid)) rec (some (field rec 65 1)) (s.queue (field rec 65 1)).cls)
        (s.queue (field rec 65 1)).cls false).isSome then .fault (noteRecord c u (launchAddr b c s) 256) (flt 1 4)
    else if (s.queue (field rec 65 1)).pending.length ≥ 64 then .wait s (.queue (field rec 65 1))
    else .done (enqueueLaunch (noteRecord c u (launchAddr b c s) 256) (field rec 65 1)
      (newLaunch s (s.asidOf (s.grp c.gid)) rec (some (field rec 65 1)) (s.queue (field rec 65 1)).cls))) := by
  unfold launchB
  dsimp only
  rw [if_neg hem]
  exact (if_neg (not_not_intro ha)).trans (withRecord_reads hw hr)

theorem launchB_refused (h : ¬((s.queue (field rec 65 1)).en = true ∧ (s.queue (field rec 65 1)).asid = s.asidOf (s.grp c.gid))) :
    launchB b c s = .fault (noteRecord c u (launchAddr b c s) 256) (flt 6 (Config.free s.fresh 5 1 % 9)) := by
  rw [launchB_read hem ha hw hr]
  refine if_pos ?_
  rw [Bool.or_eq_true, Bool.not_eq_true', bne_iff_ne]
  rcases not_and_or.mp h with h | h
  · exact .inl (Bool.eq_false_iff.mpr h)
  · exact .inr h

variable (hallowed : (s.queue (field rec 65 1)).en = true ∧ (s.queue (field rec 65 1)).asid = s.asidOf (s.grp c.gid))
include hallowed

theorem launchB_unsound (h : recordCause (newLaunch s (s.asidOf (s.grp c.gid)) rec (some (field rec 65 1))
    (s.queue (field rec 65 1)).cls) (s.queue (field rec 65 1)).cls false ≠ none) :
    launchB b c s = .fault (noteRecord c u (launchAddr b c s) 256) (flt 1 4) := by
  rw [launchB_read hem ha hw hr, if_neg (by simp [hallowed])]
  exact if_pos (Option.isSome_iff_ne_none.mpr h)

variable (hsound : recordCause (newLaunch s (s.asidOf (s.grp c.gid)) rec (some (field rec 65 1))
    (s.queue (field rec 65 1)).cls) (s.queue (field rec 65 1)).cls false = none)
include hsound

theorem launchB_full (h : 64 ≤ (s.queue (field rec 65 1)).pending.length) :
    launchB b c s = .wait s (.queue (field rec 65 1)) := by
  rw [launchB_read hem ha hw hr, if_neg (by simp [hallowed]), hsound, if_neg (by exact nofun)]
  exact if_pos h

theorem launchB_queues (h : (s.queue (field rec 65 1)).pending.length < 64) :
    launchB b c s = .done (enqueueLaunch (noteRecord c u (launchAddr b c s) 256) (field rec 65 1)
      (newLaunch s (s.asidOf (s.grp c.gid)) rec (some (field rec 65 1)) (s.queue (field rec 65 1)).cls)) := by
  rw [launchB_read hem ha hw hr, if_neg (by simp [hallowed]), hsound, if_neg (by exact nofun)]
  exact if_neg (by omega)

end Launch

section Enqueue
variable (s : State) (q : Nat) (l : Launch)

theorem enqueueLaunch_queue : ((enqueueLaunch s q l).queue q).pending = (s.queue q).pending ++ [s.nextLaunch] := by
  unfold enqueueLaunch State.queue State.setQueue
  rw [aget_aput]

theorem enqueueLaunch_launch : (enqueueLaunch s q l).launch s.nextLaunch = l := aget_aput _ _ _ _

theorem enqueueLaunch_launch_ne {k : Nat} (h : k ≠ s.nextLaunch) : (enqueueLaunch s q l).launch k = s.launch k := aget_aput_ne _ h _ _

end Enqueue

/-- Settles O29: LAUNCH in the order of R107's checks, and the launch that a sound record becomes. -/
theorem launchQueuesItsRecord : Obligations.LaunchQueuesItsRecord := by
  unfold Obligations.LaunchQueuesItsRecord
  intro r b
  have hm := means_launchQueue r b
  refine ⟨hm.nothing fun c s h => launchB_no_lane h, hm.traps fun c s h => launchB_misaligned h.1 h.2, hm.waits fun c s h => launchB_acquire h.1 h.2.1 h.2.2,
    fun rec => ⟨hm.does fun c s hc h => ?_, hm.does fun c s hc h => ?_, hm.waits fun c s h => ?_, hm.does fun c s hc h => ?_⟩⟩
  · obtain ⟨⟨hem, ha, hw, u, hr⟩, hno⟩ := h
    rw [launchB_refused hem ha hw hr hno]
    refine ⟨(takeFault_cause ?_).trans rfl, (takeFault_launches _ _ _ _ _).trans (readRecord_beside hr).launches⟩
    have := Nat.mod_lt (Config.free s.fresh 5 1) (show 9 > 0 by decide)
    simp only [flt]
    omega
  · obtain ⟨⟨hem, ha, hw, u, hr⟩, hallowed, hunsound⟩ := h
    rw [launchB_unsound hem ha hw hr hallowed hunsound]
    exact ⟨u, hr, rfl, (takeFault_launches _ _ _ _ _).trans (readRecord_beside hr).launches⟩
  · obtain ⟨⟨hem, ha, hw, u, hr⟩, hallowed, hsound, hfull⟩ := h
    exact launchB_full hem ha hw hr hallowed hsound hfull
  · obtain ⟨⟨hem, ha, hw, u, hr⟩, hallowed, hsound, hroom⟩ := h
    have hb := readRecord_beside hr
    rw [launchB_queues hem ha hw hr hallowed hsound hroom]
    change Beside s (noteRecord c u (launchAddr b c s) 256) at hb
    generalize noteRecord c u (launchAddr b c s) 256 = v at hb
    have hgrp := hb.grp c.gid
    have hlaunch : ∀ (t : State) k, (finish c c.act (.done t)).launch k = t.launch k := fun _ _ => rfl
    have hqueue : ∀ (t : State) k, (finish c c.act (.done t)).queue k = t.queue k := fun _ _ => rfl
    rw [hqueue, hlaunch, enqueueLaunch_queue, hb.queue, hb.nextLaunch, ← hb.nextLaunch, enqueueLaunch_launch, hb.nextLaunch]
    refine ⟨wentOn_done c _ (congrArg Group.retired hgrp), rfl, congrArg (· + 1) hb.nextLaunch, rfl, rfl, rfl,
      fun l hl => (enqueueLaunch_launch_ne v (field rec 65 1) _ (by rw [hb.nextLaunch]; exact hl)).trans (congrArg (aget _ l) hb.launches),
      sameRegs_done c _ ?_, sameSpecials_done c _ ?_, hb.mem⟩
    · change SameRegs _ (v.grp c.gid)
      rw [hgrp]
      exact sameRegs_refl _
    · change SameSpecials _ (v.grp c.gid)
      rw [hgrp]
      exact sameSpecials_refl _

end Sys2Proof.Machine

/-! The lanes of a memory access: masks, the checks of R145 and what they come to, parked lines, and what an access leaves as it enters
its queue. -/
namespace Sys2Proof.Machine

/-! ### Masks -/

theorem mem_lanesOf {m : Lanes} {l : Nat} : l ∈ lanesOf m ↔ l < 32 ∧ m.getLsbD l = true := by
  simp [lanesOf, lanes]

theorem lanesOf_rising (m : Lanes) : (lanesOf m).Pairwise (· < ·) := List.pairwise_lt_range.filter _

theorem one_shiftLeft_getLsbD (l i : Nat) : (1#32 <<< l).getLsbD i = (decide (i < 32) && decide (i = l)) := by
  rw [BitVec.getLsbD_shiftLeft]
  by_cases h : i = l
  · subst h
    simp
  · rcases Nat.lt_or_ge i l with hlt | hge
    · simp [h, hlt]
    · have : i - l ≠ 0 := by omega
      simp [h, this]

theorem foldl_mask_getLsbD (f : Nat → Bool) (ls : List Nat) (m : Lanes) (i : Nat) :
    (ls.foldl (fun m l => if f l then m ||| (1#32 <<< l) else m) m).getLsbD i =
      (m.getLsbD i || (decide (i < 32) && (decide (i ∈ ls) && f i))) := by
  induction ls generalizing m with
  | nil => simp
  | cons l ls ih =>
    have hstep : (if f l then m ||| (1#32 <<< l) else m).getLsbD i =
        (m.getLsbD i || (decide (i < 32) && (decide (i = l) && f i))) := by
      by_cases hl : i = l
      · subst hl
        cases hf : f i
        · rw [if_neg Bool.false_ne_true, Bool.and_false, Bool.and_false, Bool.or_false]
        · rw [if_pos rfl, BitVec.getLsbD_or, one_shiftLeft_getLsbD, Bool.and_true]
      · rw [decide_eq_false hl, Bool.false_and, Bool.and_false, Bool.or_false]
        split
        · rw [BitVec.getLsbD_or, one_shiftLeft_getLsbD, decide_eq_false hl, Bool.and_false, Bool.or_false]
        · rfl
    rw [List.foldl_cons, ih, hstep, Bool.or_assoc, ← Bool.and_or_distrib_left, ← Bool.and_or_distrib_right]
    simp only [List.mem_cons, Bool.decide_or]

theorem maskOf_getLsbD (f : Nat → Bool) (i : Nat) : (maskOf f).getLsbD i = (decide (i < 32) && f i) := by
  unfold maskOf lanes
  rw [foldl_mask_getLsbD]
  by_cases h : i < 32 <;> simp [h]

theorem maskOf_eq_zero {f : Nat → Bool} : maskOf f = 0 ↔ ∀ i < 32, f i = false := by
  constructor
  · intro h i hi
    have hbit : (maskOf f).getLsbD i = false := by rw [h]; exact BitVec.getLsbD_zero
    rwa [maskOf_getLsbD, decide_eq_true hi, Bool.true_and] at hbit
  · intro h
    refine BitVec.eq_of_getLsbD_eq fun i hi => ?_
    rw [maskOf_getLsbD, h i hi, Bool.and_false]
    exact BitVec.getLsbD_zero.symm

theorem maskOf_congr {f g : Nat → Bool} (h : ∀ i < 32, f i = g i) : maskOf f = maskOf g := by
  refine BitVec.eq_of_getLsbD_eq fun i hi => ?_
  rw [maskOf_getLsbD, maskOf_getLsbD, h i hi]

theorem lanesOf_ne_nil {m : Lanes} (h : m ≠ 0) : lanesOf m ≠ [] := by
  intro hnil
  refine h (BitVec.eq_of_getLsbD_eq fun i hi => Eq.trans ?_ BitVec.getLsbD_zero.symm)
  rw [← Bool.not_eq_true]
  exact fun hb => List.not_mem_nil (hnil ▸ mem_lanesOf.mpr ⟨hi, hb⟩)

/-- A lane of a mask with those below it. -/
theorem lanesOf_split {m : Lanes} {l : Nat} (hl : l < 32) (hm : m.getLsbD l = true) :
    ∃ pre post, lanesOf m = pre ++ l :: post ∧ ∀ j ∈ pre, j < l ∧ m.getLsbD j = true := by
  obtain ⟨pre, post, h⟩ := List.append_of_mem (mem_lanesOf.mpr ⟨hl, hm⟩)
  have hrise := lanesOf_rising m
  rw [h, List.pairwise_append] at hrise
  refine ⟨pre, post, h, fun j hj => ⟨hrise.2.2 j hj l List.mem_cons_self, ?_⟩⟩
  exact (mem_lanesOf.mp (h ▸ List.mem_append_left _ hj)).2

/-! ### Addresses (R143) -/

theorem effAddr_eq (k : VReg) (b : BitVec 3) (c : Ctx) (s : State) : effAddr (s.grp c.gid) b k c.imm = eaOf k b c s := by
  funext l
  unfold effAddr eaOf
  rw [BitVec.toNat_add, BitVec.toNat_add, Nat.mod_add_mod]
  split <;> rfl

theorem locAddr_eq (k : VReg) (c : Ctx) (s : State) : locAddr (s.grp c.gid) k c.imm = offOf k c s := by
  funext l
  unfold locAddr offOf
  rw [BitVec.toNat_add, BitVec.extractLsb'_toNat, Nat.shiftRight_zero, Nat.add_mod_mod]
  split <;> rfl

/-! ### What a lane's check comes to (R145, R297) -/

/-- The check of a lane's access as an instruction makes it. -/
def laneCheck (k : Acc) (w : Nat) (c : Ctx) (s : State) (x : Nat × Nat) : LaneRes :=
  checkLane s (s.asidOf (s.grp c.gid)) (s.coreOf (s.grp c.gid)) k w x.2 x.1

/-- Lanes that passed, each with the translation it found. -/
def Passed (k : Acc) (c : Ctx) (s : State) (xs : List (Nat × Nat)) (as_ : List (Nat × Nat × Nat × Nat × Nat)) : Prop :=
  as_.map (fun a => (a.1, a.2.1)) = xs ∧
    ∀ a ∈ as_, translate s (s.asidOf (s.grp c.gid)) a.2.1 k a.1 = .ok a.2.2.1 a.2.2.2.1 a.2.2.2.2

/-- The failures among results, as the fault of an access lists them. -/
def badOf : LaneRes → Option (Nat × Nat × Nat × Nat) | .bad l va c f => some (l, va, c, f) | _ => none

theorem lanesFault_eq (rs : List LaneRes) : lanesFault rs = match rs.filterMap badOf with
    | [] => none
    | (_, va, c, f) :: _ => some (fltL c f va true (maskOf fun i => (rs.filterMap badOf).any fun b => b.1 == i && b.2.2.1 == c)) := by
  have h : lanesFault rs = match rs.filterMap badOf with
      | [] => none
      | (_, va, c, f) :: _ => some (fltL c f va true (maskOf fun i => (rs.filterMap badOf).any fun b => b.1 == i && b.2.2.1 == c)) := rfl
  exact h

/-- Translation has no fault of alignment. -/
theorem answerOf_cause {s : State} {asid va : Nat} {k : Acc} {w : Walk} {c f : Nat} (h : answerOf s asid va k w = .fault c f) : c ≠ 5 := by
  unfold answerOf at h
  cases w with
  | noMap => simp only [Xlate.fault.injEq] at h; omega
  | malformed => simp only [Xlate.fault.injEq] at h; omega
  | leaf e level =>
    simp only [checkLeaf] at h
    split at h
    · simp only [Xlate.fault.injEq] at h; omega
    split at h
    · simp only [Xlate.fault.injEq] at h; omega
    split at h
    · simp only [Xlate.fault.injEq] at h; omega
    split at h
    · simp only [Xlate.fault.injEq] at h; omega
    split at h
    · simp only [Xlate.fault.injEq] at h; omega
    split at h
    · simp only [Xlate.fault.injEq] at h; omega
    split at h <;> exact nomatch h

theorem translate_cause {s : State} {asid va : Nat} {k : Acc} {i c f : Nat} (h : translate s asid va k i = .fault c f) : c ≠ 5 := by
  unfold translate at h
  dsimp only at h
  split at h
  · exact answerOf_cause h
  · split at h
    · exact answerOf_cause h
    · exact answerOf_cause h

section Lane
variable {k : Acc} {w : Nat} {c : Ctx} {s : State} {l va : Nat}

theorem laneCheck_misaligned (h : va % w ≠ 0) : laneCheck k w c s (l, va) = .bad l va 5 0 := if_pos h

theorem laneCheck_refused {cause flag : Nat} (h : va % w = 0)
    (ht : translate s (s.asidOf (s.grp c.gid)) va k l = .fault cause flag) : laneCheck k w c s (l, va) = .bad l va cause flag := by
  unfold laneCheck checkLane
  rw [if_neg (not_not_intro h), ht]

theorem laneCheck_shared {key leaf level : Nat} (h : va % w = 0) (hk : k = .write ∨ k = .atomic)
    (ht : translate s (s.asidOf (s.grp c.gid)) va k l = .ok key leaf level)
    (hs : sharedFault s (s.asidOf (s.grp c.gid)) va key (s.coreOf (s.grp c.gid)) = true) :
    laneCheck k w c s (l, va) = .bad l va 9 0 := by
  unfold laneCheck checkLane
  rw [if_neg (not_not_intro h), ht]
  exact if_pos ⟨hk, hs⟩

theorem laneCheck_passes (h : lanePasses k w c s l va) : ∃ key leaf level,
    translate s (s.asidOf (s.grp c.gid)) va k l = .ok key leaf level ∧ laneCheck k w c s (l, va) = .ok l va key leaf level := by
  obtain ⟨halign, key, leaf, level, ht, hshare⟩ := h
  refine ⟨key, leaf, level, ht, ?_⟩
  unfold laneCheck checkLane
  rw [if_neg (not_not_intro halign), ht]
  exact if_neg fun hs => by rw [hshare hs.1] at hs; exact Bool.false_ne_true hs.2

/-- Of a lane's faults that of alignment is the misaligned address's alone. -/
theorem laneCheck_cause {l' va' cause flag : Nat} (h : laneCheck k w c s (l, va) = .bad l' va' cause flag) :
    l' = l ∧ (cause = 5 ↔ va % w ≠ 0) := by
  unfold laneCheck checkLane at h
  split at h
  · next hmis =>
    simp only [LaneRes.bad.injEq] at h
    exact ⟨h.1.symm, fun _ => hmis, fun _ => h.2.2.1.symm⟩
  · next halign =>
    split at h
    · next ht =>
      simp only [LaneRes.bad.injEq] at h
      obtain ⟨h1, -, h3, -⟩ := h
      exact ⟨h1.symm, fun h5 => absurd (h3.trans h5) (translate_cause ht), fun hm => absurd hm halign⟩
    · exact nomatch h
    · split at h
      · simp only [LaneRes.bad.injEq] at h
        obtain ⟨h1, -, h3, -⟩ := h
        exact ⟨h1.symm, fun h5 => by omega, fun hm => absurd hm halign⟩
      · exact nomatch h

end Lane

section Accesses
variable {k : Acc} {w : Nat} {c : Ctx} {s : State}

/-- Where every access passes, the instruction goes on with what they found. -/
theorem withAccs_pass {xs : List (Nat × Nat)} (h : ∀ x ∈ xs, lanePasses k w c s x.1 x.2) :
    ∃ as_, Passed k c s xs as_ ∧ ∀ go, withAccs c s k w xs go = go as_ := by
  have hlist : ∃ as_, Passed k c s xs as_ ∧
      xs.map (laneCheck k w c s) = as_.map fun a => .ok a.1 a.2.1 a.2.2.1 a.2.2.2.1 a.2.2.2.2 := by
    induction xs with
    | nil => exact ⟨[], ⟨rfl, nofun⟩, rfl⟩
    | cons x xs ih =>
      obtain ⟨as_, ⟨hxs, hall⟩, hmap⟩ := ih fun y hy => h y (List.mem_cons_of_mem _ hy)
      obtain ⟨key, leaf, level, ht, hc⟩ := laneCheck_passes (h x List.mem_cons_self)
      refine ⟨(x.1, x.2, key, leaf, level) :: as_, ⟨?_, fun a ha => ?_⟩, ?_⟩
      · rw [List.map_cons, hxs]
      · rcases List.mem_cons.mp ha with rfl | ha
        · exact ht
        · exact hall a ha
      · rw [List.map_cons, List.map_cons, hmap]
        exact congrArg (· :: _) hc
  obtain ⟨as_, hp, hmap⟩ := hlist
  refine ⟨as_, hp, fun go => ?_⟩
  have hbad : (xs.map (laneCheck k w c s)).filterMap badOf = [] := by
    rw [hmap, List.filterMap_map]
    exact List.filterMap_eq_nil_iff.mpr fun a _ => rfl
  have hheld : lanesHeld (xs.map (laneCheck k w c s)) = [] := by
    unfold lanesHeld
    rw [hmap, List.filterMap_map]
    exact List.filterMap_eq_nil_iff.mpr fun a _ => rfl
  have hok : lanesOk (xs.map (laneCheck k w c s)) = as_ := by
    unfold lanesOk
    rw [hmap, List.filterMap_map]
    exact (List.filterMap_congr fun a _ => rfl).trans List.filterMap_some
  have hfault : lanesFault (xs.map (laneCheck k w c s)) = none := by rw [lanesFault_eq, hbad]
  change (match lanesFault (xs.map (laneCheck k w c s)) with
    | some f => Act.fault s f
    | none => match lanesHeld (xs.map (laneCheck k w c s)) with
      | [] => go (lanesOk (xs.map (laneCheck k w c s)))
      | h => .wait s (.collapse (s.asidOf (s.grp c.gid)) h)) = go as_
  rw [hfault, hheld, hok]

theorem withLanes_pass {m : Lanes} {addr : Nat → Nat} (h : lanesPass k w m addr c s) :
    ∃ as_, Passed k c s ((lanesOf m).map fun l => (l, addr l)) as_ ∧ ∀ go, withLanes c s k w m addr go = go as_ := by
  refine withAccs_pass fun x hx => ?_
  obtain ⟨l, hl, rfl⟩ := List.mem_map.mp hx
  exact h l (mem_lanesOf.mp hl).1 (mem_lanesOf.mp hl).2

/-- The faults that the lanes of an access have. -/
def badsOf (k : Acc) (w : Nat) (m : Lanes) (addr : Nat → Nat) (c : Ctx) (s : State) : List (Nat × Nat × Nat × Nat) :=
  ((lanesOf m).map fun l => laneCheck k w c s (l, addr l)).filterMap badOf

/-- The lowest failing lane's fault is that of the access. -/
theorem withLanes_fails {m : Lanes} {addr : Nat → Nat} {l cause flag : Nat} (hl : l < 32) (hm : m.getLsbD l = true)
    (hbad : laneCheck k w c s (l, addr l) = .bad l (addr l) cause flag) (hpass : ∀ j < l, m.getLsbD j = true → lanePasses k w c s j (addr j))
    (go : List (Nat × Nat × Nat × Nat × Nat) → Act) :
    withLanes c s k w m addr go = .fault s (fltL cause flag (addr l) true
      (maskOf fun i => (badsOf k w m addr c s).any fun b => b.1 == i && b.2.2.1 == cause)) ∧
      (l, addr l, cause, flag) ∈ badsOf k w m addr c s := by
  obtain ⟨pre, post, hsplit, hpre⟩ := lanesOf_split hl hm
  have hnone : (pre.map fun l => laneCheck k w c s (l, addr l)).filterMap badOf = [] := by
    rw [List.filterMap_map]
    refine List.filterMap_eq_nil_iff.mpr fun j hj => ?_
    obtain ⟨key, leaf, level, -, hc⟩ := laneCheck_passes (hpass j (hpre j hj).1 (hpre j hj).2)
    simp only [Function.comp, hc, badOf]
  have hbads : ∃ r, badsOf k w m addr c s = (l, addr l, cause, flag) :: r := by
    unfold badsOf
    rw [hsplit, List.map_append, List.filterMap_append, hnone, List.map_cons, hbad]
    exact ⟨_, rfl⟩
  obtain ⟨r, hr⟩ := hbads
  refine ⟨?_, hr ▸ List.mem_cons_self⟩
  have hfault : lanesFault (((lanesOf m).map fun l => (l, addr l)).map (laneCheck k w c s)) = some (fltL cause flag (addr l) true
      (maskOf fun i => (badsOf k w m addr c s).any fun b => b.1 == i && b.2.2.1 == cause)) := by
    rw [lanesFault_eq, List.map_map]
    change (match badsOf k w m addr c s with
      | [] => none
      | (_, va, c', f) :: _ => some (fltL c' f va true (maskOf fun i => (badsOf k w m addr c s).any fun b => b.1 == i && b.2.2.1 == c'))) = _
    rw [hr]
  change (match lanesFault (((lanesOf m).map fun l => (l, addr l)).map (laneCheck k w c s)) with
    | some f => Act.fault s f
    | none => match lanesHeld (((lanesOf m).map fun l => (l, addr l)).map (laneCheck k w c s)) with
      | [] => go (lanesOk (((lanesOf m).map fun l => (l, addr l)).map (laneCheck k w c s)))
      | h => .wait s (.collapse (s.asidOf (s.grp c.gid)) h)) = _
  rw [hfault]

/-- The alignment fault names the misaligned lanes. -/
theorem withLanes_misaligned {m : Lanes} {addr : Nat → Nat} (h : misalignedFirst k w m addr c s)
    (go : List (Nat × Nat × Nat × Nat × Nat) → Act) : withLanes c s k w m addr go = .fault s (alignFault w m addr true) := by
  obtain ⟨l, hl, hm, hmis, hpass⟩ := h
  rw [(withLanes_fails hl hm (laneCheck_misaligned hmis) hpass go).1]
  obtain ⟨pre, post, hsplit, hpre⟩ := lanesOf_split hl hm
  have hhead : (misaligned w m addr).headD 0 = l := by
    have hnone : pre.filter (fun l => addr l % w != 0) = [] := by
      refine List.filter_eq_nil_iff.mpr fun j hj => ?_
      rw [bne_iff_ne]
      exact not_not_intro (hpass j (hpre j hj).1 (hpre j hj).2).1
    unfold misaligned
    rw [hsplit, List.filter_append, hnone, List.nil_append, List.filter_cons_of_pos (by simpa using hmis)]
    rfl
  unfold alignFault
  rw [hhead]
  refine congrArg (fun x => Act.fault s (fltL 5 0 (addr l) true x)) (maskOf_congr fun i hi => ?_)
  rw [Bool.eq_iff_iff, List.any_eq_true, List.contains_iff_mem]
  constructor
  · rintro ⟨b, hb, hbi⟩
    rw [Bool.and_eq_true, beq_iff_eq, beq_iff_eq] at hbi
    obtain ⟨rfl, h5⟩ := hbi
    obtain ⟨r, hr, hrb⟩ := List.mem_filterMap.mp hb
    obtain ⟨j, hj, rfl⟩ := List.mem_map.mp hr
    cases hck : laneCheck k w c s (j, addr j) with
    | ok => rw [hck] at hrb; exact nomatch hrb
    | held => rw [hck] at hrb; exact nomatch hrb
    | bad l' va' c' f' =>
      rw [hck] at hrb
      obtain rfl := Option.some.inj hrb
      obtain ⟨rfl, hc⟩ := laneCheck_cause hck
      exact List.mem_filter.mpr ⟨hj, bne_iff_ne.mpr (hc.mp h5)⟩
  · intro hmem
    obtain ⟨hj, hjm⟩ := List.mem_filter.mp hmem
    refine ⟨(i, addr i, 5, 0), List.mem_filterMap.mpr ⟨_, List.mem_map.mpr ⟨i, hj, rfl⟩, ?_⟩, by simp⟩
    rw [laneCheck_misaligned (bne_iff_ne.mp hjm)]
    rfl

/-- Any other failure: the fault names the lane. -/
theorem withLanes_bad {m : Lanes} {addr : Nat → Nat} {l cause flag : Nat} (hl : l < 32) (hm : m.getLsbD l = true)
    (hbad : laneCheck k w c s (l, addr l) = .bad l (addr l) cause flag) (hpass : ∀ j < l, m.getLsbD j = true → lanePasses k w c s j (addr j)) :
    ∃ f : Lanes, f.getLsbD l = true ∧ ∀ go, withLanes c s k w m addr go = .fault s (fltL cause flag (addr l) true f) := by
  refine ⟨_, ?_, fun go => (withLanes_fails hl hm hbad hpass go).1⟩
  rw [maskOf_getLsbD, decide_eq_true hl, Bool.true_and]
  exact List.any_eq_true.mpr ⟨_, (withLanes_fails hl hm hbad hpass fun _ => .done s).2, by simp⟩

end Accesses

/-! ### Local offsets (R144, R151) -/

section Offsets
variable {w lim : Nat} {m : Lanes} {addr : Nat → Nat}

/-- The failure of a lane's offset. -/
def offCheck (w lim : Nat) (addr : Nat → Nat) (l : Nat) : Option (Nat × Nat) :=
  if addr l % w ≠ 0 then some (5, 0) else if addr l ≥ lim then some (6, 8) else none

theorem lsFault_eq (w lim : Nat) (m : Lanes) (addr : Nat → Nat) : lsFault w lim m addr =
    match (lanesOf m).filterMap (fun l => (offCheck w lim addr l).map fun e => (l, e)) with
    | [] => none
    | (l, e) :: _ => some (fltL e.1 e.2 (addr l) false
        (maskOf fun i => ((lanesOf m).filterMap fun l => (offCheck w lim addr l).map fun e => (l, e)).any fun b => b.1 == i && b.2.1 == e.1)) := rfl

theorem lsFault_none (h : ∀ l < 32, m.getLsbD l = true → addr l % w = 0 ∧ addr l < lim) : lsFault w lim m addr = none := by
  have hnil : (lanesOf m).filterMap (fun l => (offCheck w lim addr l).map fun e => (l, e)) = [] := by
    refine List.filterMap_eq_nil_iff.mpr fun l hl => ?_
    obtain ⟨hlt, hbit⟩ := mem_lanesOf.mp hl
    obtain ⟨ha, hin⟩ := h l hlt hbit
    unfold offCheck
    rw [if_neg (not_not_intro ha), if_neg (by omega)]
    rfl
  rw [lsFault_eq, hnil]

/-- The lowest failing lane's fault is that of the access, and names the lanes of its class. -/
theorem lsFault_first {l : Nat} {e : Nat × Nat} {p : Nat → Bool} (hl : l < 32) (hm : m.getLsbD l = true)
    (hbad : offCheck w lim addr l = some e) (hpass : ∀ j < l, m.getLsbD j = true → addr j % w = 0 ∧ addr j < lim)
    (hp : ∀ j, p j = true ↔ ∃ f, offCheck w lim addr j = some f ∧ f.1 = e.1) :
    lsFault w lim m addr = some (fltL e.1 e.2 (addr (((lanesOf m).filter p).headD 0)) false (maskOf fun i => ((lanesOf m).filter p).contains i)) := by
  obtain ⟨pre, post, hsplit, hpre⟩ := lanesOf_split hl hm
  have hok : ∀ j ∈ pre, offCheck w lim addr j = none := by
    intro j hj
    obtain ⟨ha, hin⟩ := hpass j (hpre j hj).1 (hpre j hj).2
    unfold offCheck
    rw [if_neg (not_not_intro ha), if_neg (by omega)]
  have hhead : ((lanesOf m).filter p).headD 0 = l := by
    have hnone : pre.filter p = [] := by
      refine List.filter_eq_nil_iff.mpr fun j hj => ?_
      rw [hp, hok j hj]
      exact fun ⟨f, hf, _⟩ => nomatch hf
    rw [hsplit, List.filter_append, hnone, List.nil_append, List.filter_cons_of_pos ((hp l).mpr ⟨e, hbad, rfl⟩)]
    rfl
  have hbads : ∃ r, (lanesOf m).filterMap (fun l => (offCheck w lim addr l).map fun e => (l, e)) = (l, e) :: r := by
    have hnone : pre.filterMap (fun l => (offCheck w lim addr l).map fun e => (l, e)) = [] :=
      List.filterMap_eq_nil_iff.mpr fun j hj => by rw [hok j hj]; rfl
    rw [hsplit, List.filterMap_append, hnone, List.nil_append, List.filterMap_cons, hbad]
    exact ⟨_, rfl⟩
  obtain ⟨r, hr⟩ := hbads
  have hmask : (maskOf fun i => ((lanesOf m).filterMap fun l => (offCheck w lim addr l).map fun e => (l, e)).any
      fun b => b.1 == i && b.2.1 == e.1) = maskOf fun i => ((lanesOf m).filter p).contains i := by
    refine maskOf_congr fun i _ => ?_
    rw [Bool.eq_iff_iff, List.any_eq_true, List.contains_iff_mem, List.mem_filter, hp]
    constructor
    · rintro ⟨b, hb, hbi⟩
      rw [Bool.and_eq_true, beq_iff_eq, beq_iff_eq] at hbi
      obtain ⟨j, hj, hjb⟩ := List.mem_filterMap.mp hb
      obtain ⟨f, hf, rfl⟩ := Option.map_eq_some_iff.mp hjb
      obtain ⟨rfl, hfe⟩ := hbi
      exact ⟨hj, f, hf, hfe⟩
    · rintro ⟨hi, f, hf, hfe⟩
      exact ⟨(i, f), List.mem_filterMap.mpr ⟨i, hi, by rw [hf]; rfl⟩, by simp [hfe]⟩
  rw [lsFault_eq, ← hmask, hhead]
  simp only [hr]

theorem lsFault_misaligned {l : Nat} (hl : l < 32) (hm : m.getLsbD l = true) (hmis : addr l % w ≠ 0)
    (hpass : ∀ j < l, m.getLsbD j = true → addr j % w = 0 ∧ addr j < lim) : lsFault w lim m addr = some (alignFault w m addr false) := by
  refine lsFault_first (e := (5, 0)) (p := fun l => addr l % w != 0) hl hm (if_pos hmis) hpass fun j => ?_
  unfold offCheck
  rw [bne_iff_ne]
  constructor
  · exact fun h => ⟨(5, 0), if_pos h, rfl⟩
  · rintro ⟨f, hf, h5⟩
    split at hf
    · assumption
    · split at hf
      · obtain rfl := Option.some.inj hf
        exact absurd h5 (by decide)
      · exact nomatch hf

theorem lsFault_outside {l : Nat} (hl : l < 32) (hm : m.getLsbD l = true) (hal : addr l % w = 0) (hout : lim ≤ addr l)
    (hpass : ∀ j < l, m.getLsbD j = true → addr j % w = 0 ∧ addr j < lim) :
    lsFault w lim m addr = some (fltL 6 8 (addr (((lanesOf m).filter fun l => addr l % w == 0 && decide (lim ≤ addr l)).headD 0)) false
      (maskOf fun i => ((lanesOf m).filter fun l => addr l % w == 0 && decide (lim ≤ addr l)).contains i)) := by
  have hck : offCheck w lim addr l = some (6, 8) := by
    unfold offCheck
    rw [if_neg (not_not_intro hal), if_pos hout]
  refine lsFault_first (e := (6, 8)) hl hm hck hpass fun j => ?_
  unfold offCheck
  rw [Bool.and_eq_true, beq_iff_eq, decide_eq_true_eq]
  constructor
  · exact fun ⟨ha, ho⟩ => ⟨(6, 8), by rw [if_neg (not_not_intro ha), if_pos ho], rfl⟩
  · rintro ⟨f, hf, h6⟩
    split at hf
    · obtain rfl := Option.some.inj hf
      exact absurd h6 (by decide)
    · next ha =>
      split at hf
      · next ho => exact ⟨not_not.mp ha, ho⟩
      · exact nomatch hf

end Offsets

/-! ### Parked lines (R153, R154, R241) -/

section Parked
variable {k : Acc} {c : Ctx} {s : State} {m : Lanes} {addr : Nat → Nat} {as_ : List (Nat × Nat × Nat × Nat × Nat)}
  (hp : Passed k c s ((lanesOf m).map fun l => (l, addr l)) as_)
include hp

theorem Passed.lane {a : Nat × Nat × Nat × Nat × Nat} (ha : a ∈ as_) : a.1 < 32 ∧ m.getLsbD a.1 = true ∧ a.2.1 = addr a.1 ∧
    translate s (s.asidOf (s.grp c.gid)) (addr a.1) k a.1 = .ok a.2.2.1 a.2.2.2.1 a.2.2.2.2 := by
  obtain ⟨hxs, hall⟩ := hp
  have hmem : (a.1, a.2.1) ∈ (lanesOf m).map fun l => (l, addr l) := hxs ▸ List.mem_map_of_mem (f := fun a => (a.1, a.2.1)) ha
  obtain ⟨l, hl, hla⟩ := List.mem_map.mp hmem
  obtain ⟨h1, h2⟩ := Prod.mk.inj hla
  have hva : a.2.1 = addr a.1 := by rw [← h1, ← h2]
  exact ⟨h1 ▸ (mem_lanesOf.mp hl).1, h1 ▸ (mem_lanesOf.mp hl).2, hva, hva ▸ hall a ha⟩

theorem Passed.has {l : Nat} (hl : l < 32) (hm : m.getLsbD l = true) : ∃ a ∈ as_, a.1 = l := by
  have hmem : (l, addr l) ∈ as_.map fun a => (a.1, a.2.1) := hp.1 ▸ List.mem_map.mpr ⟨l, mem_lanesOf.mpr ⟨hl, hm⟩, rfl⟩
  obtain ⟨a, ha, hla⟩ := List.mem_map.mp hmem
  exact ⟨a, ha, (Prod.mk.inj hla).1⟩

/-- A condition on the lanes' translations, in the two ways of stating it. -/
theorem Passed.any_iff (p : Nat → Nat → Prop) : (∃ a ∈ as_, p a.1 a.2.2.1) ↔
    ∃ l < 32, m.getLsbD l = true ∧ ∃ key leaf level, translate s (s.asidOf (s.grp c.gid)) (addr l) k l = .ok key leaf level ∧ p l key := by
  constructor
  · rintro ⟨a, ha, h⟩
    obtain ⟨hl, hm, -, ht⟩ := hp.lane ha
    exact ⟨a.1, hl, hm, _, _, _, ht, h⟩
  · rintro ⟨l, hl, hm, key, leaf, level, ht, h⟩
    obtain ⟨a, ha, rfl⟩ := hp.has hl hm
    obtain ⟨-, -, -, ht'⟩ := hp.lane ha
    rw [ht] at ht'
    obtain ⟨rfl, -, -⟩ := Xlate.ok.inj ht'
    exact ⟨a, ha, h⟩

theorem exclMask_getLsbD {l : Nat} (hl : l < 32) :
    (exclMask s (s.coreOf (s.grp c.gid)) (s.asidOf (s.grp c.gid)) as_).getLsbD l = true ↔
      ∃ key, laneReaches k m addr c s l key ∧ excluded s key (s.coreOf (s.grp c.gid)) (s.asidOf (s.grp c.gid)) = true := by
  unfold exclMask laneReaches
  rw [maskOf_getLsbD, decide_eq_true hl, Bool.true_and, List.any_eq_true]
  simp only [Bool.and_eq_true, beq_iff_eq]
  rw [hp.any_iff fun i key => i = l ∧ excluded s key (s.coreOf (s.grp c.gid)) (s.asidOf (s.grp c.gid)) = true]
  constructor
  · rintro ⟨i, hi, hm, key, leaf, level, ht, rfl, he⟩
    exact ⟨key, ⟨hi, hm, leaf, level, ht⟩, he⟩
  · rintro ⟨key, ⟨hi, hm, leaf, level, ht⟩, he⟩
    exact ⟨l, hi, hm, key, leaf, level, ht, rfl, he⟩

theorem exclMask_eq_zero : exclMask s (s.coreOf (s.grp c.gid)) (s.asidOf (s.grp c.gid)) as_ = 0 ↔ noneParkedAway k m addr c s := by
  constructor
  · intro h l hl hm key leaf level ht
    rw [← Bool.not_eq_true]
    intro he
    have := (exclMask_getLsbD hp hl).mpr ⟨key, ⟨hl, hm, leaf, level, ht⟩, he⟩
    rw [h] at this
    exact Bool.false_ne_true (BitVec.getLsbD_zero.symm.trans this)
  · intro h
    refine BitVec.eq_of_getLsbD_eq fun l hl => Eq.trans ?_ BitVec.getLsbD_zero.symm
    rw [← Bool.not_eq_true]
    intro hb
    obtain ⟨key, ⟨hi, hm, leaf, level, ht⟩, he⟩ := (exclMask_getLsbD hp hl).mp hb
    rw [h l hi hm key leaf level ht] at he
    exact Bool.false_ne_true he

theorem ownPark_iff : ownPark s c.gid as_ = true ↔ ¬noneToPark k m addr c s := by
  unfold ownPark noneToPark
  simp only [List.any_eq_true, not_forall, exists_prop]
  refine exists_congr fun op => and_congr_right fun _ => ?_
  have hline : (∃ a ∈ as_, op.parked.contains (a.2.2.1 / 128) = true) ↔ ∃ l < 32, m.getLsbD l = true ∧ ∃ key leaf level,
      translate s (s.asidOf (s.grp c.gid)) (addr l) k l = .ok key leaf level ∧ key / 128 ∈ op.parked := by
    simpa only [List.contains_iff_mem] using hp.any_iff fun _ key => key / 128 ∈ op.parked
  have hrange : ∀ lo n, (∃ a ∈ as_, lo / 128 ≤ a.2.1 / 128 ∧ a.2.1 / 128 ≤ (lo + n - 1) / 128) ↔
      ∃ l < 32, m.getLsbD l = true ∧ lo / 128 ≤ addr l / 128 ∧ addr l / 128 ≤ (lo + n - 1) / 128 := by
    intro lo n
    constructor
    · rintro ⟨a, ha, h⟩
      obtain ⟨hl, hm, hva, -⟩ := hp.lane ha
      exact ⟨a.1, hl, hm, hva ▸ h⟩
    · rintro ⟨l, hl, hm, h⟩
      obtain ⟨a, ha, rfl⟩ := hp.has hl hm
      obtain ⟨-, -, hva, -⟩ := hp.lane ha
      exact ⟨a, ha, hva.symm ▸ h⟩
  rw [not_and_or]
  split
  · next d hk =>
    rw [Bool.and_eq_true, Bool.not_eq_true', List.any_eq_true, hline, hk]
    constructor
    · rintro ⟨hin, l, hl, hm, key, leaf, level, ht, hmem⟩
      exact .inl fun h => h d rfl hin l hl hm key leaf level ht hmem
    · rintro (h | h)
      · simp only [not_forall, not_not] at h
        obtain ⟨d', hd, hin, l, hl, hm, key, leaf, level, ht, hmem⟩ := h
        obtain rfl := StoreKind.stn.inj hd
        exact ⟨hin, l, hl, hm, key, leaf, level, ht, hmem⟩
      · exact absurd (fun d lo n hd => nomatch hd) h
  · next d lo n hk =>
    rw [Bool.and_eq_true, Bool.and_eq_true, Bool.not_eq_true', bne_iff_ne, List.any_eq_true, hk]
    simp only [Bool.and_eq_true, decide_eq_true_eq]
    rw [hrange]
    constructor
    · rintro ⟨⟨hin, hn⟩, l, hl, hm, hlo, hhi⟩
      refine .inr fun h => ?_
      have := h d lo n rfl hin hn l hl hm
      omega
    · rintro (h | h)
      · exact absurd (fun d hd => nomatch hd) h
      · simp only [not_forall] at h
        obtain ⟨d', lo', n', hd, hin, hn, l, hl, hm, hout⟩ := h
        obtain ⟨-, rfl, rfl, rfl⟩ := StoreKind.range.inj hd
        exact ⟨⟨hin, hn⟩, l, hl, hm, by omega, by omega⟩
  · next h1 h2 =>
    refine iff_of_false Bool.false_ne_true ?_
    rintro (h | h)
    · exact h fun d hd => absurd hd (h1 d)
    · exact h fun d lo n hd => absurd hd (h2 d lo n)

end Parked

/-! ### What an access leaves as it enters its queue -/

theorem noteAll_notes (s : State) (asid : Nat) (as_ : List (Nat × Nat × Nat × Nat × Nat)) :
    ∃ tl tb, noteAll s asid as_ = { s with tlb := tl, tabs := tb, fresh := s.fresh + 1 } := by
  unfold noteAll
  have h : ∃ tl tb, as_.foldl (fun s a => noteTlb s asid a.2.1 a.2.2.2.1 a.2.2.2.2) s = { s with tlb := tl, tabs := tb } := by
    induction as_ generalizing s with
    | nil => exact ⟨s.tlb, s.tabs, rfl⟩
    | cons a as_ ih =>
      obtain ⟨tl, tb, h⟩ := ih (noteTlb s asid a.2.1 a.2.2.2.1 a.2.2.2.2)
      exact ⟨tl, tb, h⟩
  obtain ⟨tl, tb, h⟩ := h
  exact ⟨tl, tb, by rw [h]⟩

theorem noteAll_beside (s : State) (asid : Nat) (as_ : List (Nat × Nat × Nat × Nat × Nat)) : Beside s (noteAll s asid as_) := by
  obtain ⟨tl, tb, h⟩ := noteAll_notes s asid as_
  rw [h]
  rfl

/-- An access's event list: the state changes in events alone, each lane has its access, and no write is entered. -/
theorem laneEvents_spec (s : State) (gid : Nat) (xs : List (Nat × Nat × Nat)) :
    OrdOnly s (laneEvents s gid xs).2 ∧ (laneEvents s gid xs).2.ord.writes = s.ord.writes ∧
      (laneEvents s gid xs).1.map (fun a => (a.lane, a.va, a.pa)) = xs := by
  have h : ∀ (xs : List (Nat × Nat × Nat)) (p : List LaneAcc × State),
      let r := xs.foldl (fun (p : List LaneAcc × State) a =>
        let ag := laneAgent gid a.1
        let (n, o) := p.2.ord.event ag []
        (p.1 ++ [⟨a.1, a.2.1, a.2.2, n⟩], { p.2 with ord := o })) p
      OrdOnly p.2 r.2 ∧ r.2.ord.writes = p.2.ord.writes ∧
        r.1.map (fun a => (a.lane, a.va, a.pa)) = p.1.map (fun a => (a.lane, a.va, a.pa)) ++ xs := by
    intro xs
    induction xs with
    | nil => exact fun p => ⟨.refl _, rfl, (List.append_nil _).symm⟩
    | cons x xs ih =>
      intro p
      obtain ⟨h1, h2, h3⟩ := ih (p.1 ++ [⟨x.1, x.2.1, x.2.2, (p.2.ord.event (laneAgent gid x.1) []).1⟩],
        { p.2 with ord := (p.2.ord.event (laneAgent gid x.1) []).2 })
      refine ⟨h1.eq, h2.trans rfl, h3.trans ?_⟩
      rw [List.map_append, List.append_assoc]
      rfl
  exact h xs ([], s)

theorem noteFloor_ord (s : State) (agent node k n : Nat) (place : Place) (sc : Nat) :
    OrdOnly s (noteFloor s agent node k n place sc) := rfl

theorem noteFloors_ord (s : State) (gid : Nat) (acq : Bool) (sc w : Nat) (accs : List LaneAcc) :
    OrdOnly s (noteFloors s gid acq sc w accs) := by
  unfold noteFloors
  split
  · exact OrdOnly.foldl (fun s (a : LaneAcc) => noteFloor_ord s (laneAgent gid a.lane) a.node a.pa w (s.placeOf gid) sc) _ _
  · exact .refl s

/-- The accesses that the lanes' events stand for are those of the lanes that passed. -/
theorem accessesAt_of_events {k : Acc} {c : Ctx} {s u : State} {as_ : List (Nat × Nat × Nat × Nat × Nat)}
    (hall : ∀ a ∈ as_, translate s (s.asidOf (s.grp c.gid)) a.2.1 k a.1 = .ok a.2.2.1 a.2.2.2.1 a.2.2.2.2) :
    accessesAt k (as_.map fun a => (a.1, a.2.1)) c s (laneEvents u c.gid (as_.map fun a => (a.1, a.2.1, a.2.2.1))).1 := by
  have hspec := (laneEvents_spec u c.gid (as_.map fun a => (a.1, a.2.1, a.2.2.1))).2.2
  constructor
  · have := congrArg (List.map fun x : Nat × Nat × Nat => (x.1, x.2.1)) hspec
    rw [List.map_map, List.map_map] at this
    exact this
  · intro x hx
    have hmem := List.mem_map_of_mem (f := fun a : LaneAcc => (a.lane, a.va, a.pa)) hx
    rw [hspec] at hmem
    obtain ⟨a, ha, hax⟩ := List.mem_map.mp hmem
    simp only [Prod.mk.injEq] at hax
    obtain ⟨h1, h2, h3⟩ := hax
    have ht := hall a ha
    rw [h1, h2, h3] at ht
    exact ⟨_, _, ht⟩

/-! ### Pending registers -/

theorem addPend_isPend (g : Group) (file r f q : Nat) :
    (g.addPend file r).isPend f q = true ↔ g.isPend f q = true ∨ (f = file ∧ q = r ∧ ¬(file = 1 ∧ r = 0)) := by
  unfold Group.addPend
  by_cases hz : file = 1 ∧ r = 0
  · obtain ⟨rfl, rfl⟩ := hz
    simp
  · by_cases hp : g.isPend file r = true
    · rw [if_pos (by rw [hp]; rfl)]
      refine ⟨.inl, fun h => h.elim id fun ⟨h1, h2, _⟩ => by rw [h1, h2]; exact hp⟩
    · rw [if_neg (by simp only [Bool.or_eq_true, Bool.and_eq_true, beq_iff_eq]; exact not_or.mpr ⟨hp, hz⟩)]
      unfold Group.isPend
      rw [List.any_append]
      simp only [Bool.or_eq_true, List.any_cons, List.any_nil, Bool.or_false, beq_iff_eq, Prod.mk.injEq]
      refine or_congr_right ⟨fun ⟨h1, h2⟩ => ⟨h1.symm, h2.symm, hz⟩, fun ⟨h1, h2, _⟩ => ⟨h1.symm, h2.symm⟩⟩

/-- Two groups differ in what is pending alone. -/
def PendOnly (g h : Group) : Prop := h = { g with pend := h.pend }

theorem addPend_only (g : Group) (file r : Nat) : PendOnly g (g.addPend file r) := by
  unfold Group.addPend
  split <;> rfl

theorem PendOnly.trans {g h k : Group} (p : PendOnly g h) (q : PendOnly h k) : PendOnly g k := by
  unfold PendOnly at *
  rw [q, p]

theorem PendOnly.eq {g h : Group} (p : PendOnly g h) : h = { g with pend := h.pend } := p

theorem addPendV_spec (g : Group) (d n : Nat) : PendOnly g (addPendV g d n) ∧ PendingAlso 0 d n g (addPendV g d n) := by
  unfold addPendV
  induction n with
  | zero =>
    refine ⟨rfl, fun f r => ⟨.inl, fun h => h.elim id fun h => ?_⟩⟩
    omega
  | succ n ih =>
    rw [List.range_succ, List.foldl_append]
    obtain ⟨ho, hp⟩ := ih
    refine ⟨ho.trans (addPend_only _ _ _), fun f r => ?_⟩
    rw [List.foldl_cons, List.foldl_nil, addPend_isPend, hp f r]
    constructor
    · rintro ((h | h) | ⟨rfl, rfl, h⟩)
      · exact .inl h
      · exact .inr (by omega)
      · exact .inr (by omega)
    · rintro (h | ⟨rfl, h1, h2, h3⟩)
      · exact .inl (.inl h)
      · by_cases hr : r = d + n
        · exact .inr ⟨rfl, hr, by omega⟩
        · exact .inl (.inr (by omega))

/-! ### An operation that enters its queue -/

/-- The operation as the load queue holds it. -/
def queuedLoad (g : Group) (op : LoadOp) : LoadOp := { op with seq := g.seq, after := g.relSeq }
/-- The operation as the store queue holds it. -/
def queuedStore (g : Group) (op : StoreOp) : StoreOp := { op with seq := g.seq, after := g.relSeq }

section Entering
variable {c : Ctx} {s u : State} {m : Lanes} (h : Beside s u)
include h

/-- A load whose destination is n lane registers from d. -/
theorem pushLoad_leaves {op : LoadOp} {d n : Nat} (hf : op.frag = c.fid) (hd : op.dst = some (0, d)) :
    WentOn c s (finish c m (.done (pushLoad u c.gid op n))) ∧ KeptAtIssue c s (finish c m (.done (pushLoad u c.gid op n))) ∧
      OneLoadMore c s (finish c m (.done (pushLoad u c.gid op n))) (queuedLoad (s.grp c.gid) op) ∧
      PendingAlso 0 d n (s.grp c.gid) ((finish c m (.done (pushLoad u c.gid op n))).grp c.gid) := by
  obtain ⟨ho, hp⟩ := addPendV_spec (s.grp c.gid) d n
  have hgrp : (pushLoad u c.gid op n).grp c.gid = { addPendV (s.grp c.gid) d n with
      loads := (s.grp c.gid).loads ++ [queuedLoad (s.grp c.gid) op], seq := (s.grp c.gid).seq + 1 } := by
    unfold pushLoad queuedLoad
    rw [grp_modGrp, h.grp, hd]
    dsimp only
    rw [ho.eq]
  have hfin : (finish c m (.done (pushLoad u c.gid op n))).grp c.gid = ({ addPendV (s.grp c.gid) d n with
      loads := (s.grp c.gid).loads ++ [queuedLoad (s.grp c.gid) op], seq := (s.grp c.gid).seq + 1 } : Group).retire.goto c.fid (nextPc c) := by
    rw [finish_done_grp, hgrp]
  refine ⟨wentOn_done c m ?_, ⟨?_, ?_, ?_, ?_⟩, ⟨?_, hf, ?_, ?_⟩, ?_⟩
  · rw [hgrp, ho.eq]
  · rw [hfin, ho.eq]
    exact sameRegs_refl _
  · rw [hfin, ho.eq]
    exact sameSpecials_refl _
  · exact h.mem
  · change u.teams = s.teams
    rw [h.eq]
  · rw [hfin, ho.eq]
    rfl
  · rw [hfin, ho.eq]
    rfl
  · rw [hfin, ho.eq]
    rfl
  · rw [hfin]
    exact hp

/-- A load without a destination. -/
theorem pushLoad_no_dst_leaves {op : LoadOp} {n : Nat} (hf : op.frag = c.fid) (hd : op.dst = none) :
    WentOn c s (finish c m (.done (pushLoad u c.gid op n))) ∧ KeptAtIssue c s (finish c m (.done (pushLoad u c.gid op n))) ∧
      OneLoadMore c s (finish c m (.done (pushLoad u c.gid op n))) (queuedLoad (s.grp c.gid) op) ∧
      ((finish c m (.done (pushLoad u c.gid op n))).grp c.gid).pend = (s.grp c.gid).pend := by
  have hgrp : (pushLoad u c.gid op n).grp c.gid = { s.grp c.gid with
      loads := (s.grp c.gid).loads ++ [queuedLoad (s.grp c.gid) op], seq := (s.grp c.gid).seq + 1 } := by
    unfold pushLoad queuedLoad
    rw [grp_modGrp, h.grp, hd]
  have hfin := finish_done_grp c m (pushLoad u c.gid op n)
  rw [hgrp] at hfin
  refine ⟨wentOn_done c m (by rw [hgrp]), ⟨?_, ?_, h.mem, ?_⟩, ⟨?_, hf, ?_, ?_⟩, ?_⟩
  · rw [hfin]
    exact sameRegs_refl _
  · rw [hfin]
    exact sameSpecials_refl _
  · change u.teams = s.teams
    rw [h.eq]
  all_goals rw [hfin]; rfl

/-- A store. -/
theorem pushStore_leaves {op : StoreOp} (hf : op.frag = c.fid) :
    WentOn c s (finish c m (.done (pushStore u c.gid op))) ∧ KeptAtIssue c s (finish c m (.done (pushStore u c.gid op))) ∧
      OneStoreMore c s (finish c m (.done (pushStore u c.gid op))) (queuedStore (s.grp c.gid) op) ∧
      ((finish c m (.done (pushStore u c.gid op))).grp c.gid).pend = (s.grp c.gid).pend := by
  have hgrp : (pushStore u c.gid op).grp c.gid = { s.grp c.gid with
      stores := (s.grp c.gid).stores ++ [queuedStore (s.grp c.gid) op], seq := (s.grp c.gid).seq + 1 } := by
    unfold pushStore
    rw [grp_modGrp, h.grp]
    rfl
  have hfin := finish_done_grp c m (pushStore u c.gid op)
  rw [hgrp] at hfin
  refine ⟨wentOn_done c m (by rw [hgrp]), ⟨?_, ?_, h.mem, ?_⟩, ⟨?_, hf, ?_, ?_⟩, ?_⟩
  · rw [hfin]
    exact sameRegs_refl _
  · rw [hfin]
    exact sameSpecials_refl _
  · change u.teams = s.teams
    rw [h.eq]
  all_goals rw [hfin]; rfl

end Entering

end Sys2Proof.Machine

/-! Proofs: LD, LDX and the returning atomics enter the load queue (R145, R149, R150, R155). -/
namespace Sys2Proof.Machine

/-! ### The lanes' events -/

/-- The accesses of the lanes that passed with their events, and the state with what they used noted. -/
def eventsOf (c : Ctx) (s : State) (as_ : List (Nat × Nat × Nat × Nat × Nat)) : List LaneAcc × State :=
  laneEvents (noteAll s (s.asidOf (s.grp c.gid)) as_) c.gid (as_.map fun a => (a.1, a.2.1, a.2.2.1))

theorem eventsOf_beside (c : Ctx) (s : State) (as_ : List (Nat × Nat × Nat × Nat × Nat)) : Beside s (eventsOf c s as_).2 :=
  (noteAll_beside _ _ _).trans (.of_ord (laneEvents_spec _ _ _).1)

theorem eventsOf_accesses {k : Acc} {c : Ctx} {s : State} {xs : List (Nat × Nat)} {as_ : List (Nat × Nat × Nat × Nat × Nat)}
    (hp : Passed k c s xs as_) : accessesAt k xs c s (eventsOf c s as_).1 := by
  obtain ⟨rfl, hall⟩ := hp
  exact accessesAt_of_events hall

/-- A mask that excludes nobody leaves every lane. -/
theorem filter_none_excluded {α : Type} (f : α → Nat) (l : List α) : (l.filter fun a => !(0 : Lanes).getLsbD (f a)) = l := by
  refine List.filter_eq_self.mpr fun a _ => ?_
  rw [Bool.not_eq_true']
  exact BitVec.getLsbD_zero

/-! ### Loads -/

theorem means_globalLoads {r : Option (BitVec 13)} {d k : VReg} {sc : BitVec 3} {o : BitVec 2} {b : BitVec 3} {off : RImm}
    {x : Instr × Bool} (hx : globalLoads r d k sc o b off x) : Means x.1 (loadB x.2 d k sc o b) := by
  rcases List.mem_cons.mp hx with rfl | hx
  · exact .of_issues (exec_ldGlobal d k sc o b) fun w => exec_ldGlobalRadish w d k sc o b off
  · obtain rfl := List.mem_singleton.mp hx
    exact .of_issues (exec_ldx d k sc o b) fun w => exec_ldxRadish w d k sc o b off

/-- The load of an instruction, without its accesses. -/
def loadOf (ext : Bool) (d : VReg) (sc : BitVec 3) (o : BitVec 2) (c : Ctx) (s : State) : LoadOp :=
  mkLoad c s (.load ext) sc.toNat o.toNat (some (0, d.toNat))

/-- A load once its lanes have passed. -/
def loadGo (ext : Bool) (d : VReg) (sc : BitVec 3) (o : BitVec 2) (c : Ctx) (s : State)
    (as_ : List (Nat × Nat × Nat × Nat × Nat)) : Act :=
  if ownPark s c.gid as_ then .wait s .stores
  else if exclMask s (s.coreOf (s.grp c.gid)) (s.asidOf (s.grp c.gid)) as_ ≠ 0 then
    holdAt c s (exclMask s (s.coreOf (s.grp c.gid)) (s.asidOf (s.grp c.gid)) as_) as_ (some (loadOf ext d sc o c s)) none
  else .done (pushLoad (noteFloors (eventsOf c s as_).2 c.gid (acquires 0 o.toNat) sc.toNat (widthOf c.ty) (eventsOf c s as_).1) c.gid
    { loadOf ext d sc o c s with accs := (eventsOf c s as_).1 } (if ext then 1 else regsOf c.ty))

section Loads
variable {ext : Bool} {d k : VReg} {sc : BitVec 3} {o : BitVec 2} {b : BitVec 3} {c : Ctx} {s : State}

theorem loadB_full (hact : c.act ≠ 0) (h : 63 ≤ (s.grp c.gid).loads.length) : loadB ext d k sc o b c s = .wait s (.full 0) := by
  unfold loadB
  dsimp only
  rw [if_neg hact]
  exact if_pos h

theorem loadB_go (hact : c.act ≠ 0) (h : (s.grp c.gid).loads.length < 63) :
    loadB ext d k sc o b c s = withLanes c s .read (widthOf c.ty) c.act (eaOf k b c s) (loadGo ext d sc o c s) := by
  unfold loadB
  dsimp only
  rw [if_neg hact, effAddr_eq]
  exact if_neg (Nat.not_le.mpr h)

end Loads

/-! ### Returning atomics -/

theorem means_returningAtomics {r : Option (BitVec 13)} {d k : VReg} {sc : BitVec 3} {o : BitVec 2} {b : BitVec 3} {off : RImm}
    {x : Instr × Nat} (hx : returningAtomics r d k sc o b off x) : Means x.1 (atomicB x.2 d k sc o b) := by
  unfold returningAtomics at hx
  simp only [List.mem_cons, List.not_mem_nil, or_false] at hx
  obtain rfl | rfl | rfl | rfl | rfl | rfl | rfl | rfl := hx
  · exact .of_issues (exec_atadd d k sc o b) fun w => exec_ataddRadish w d k sc o b off
  · exact .of_issues (exec_atmin d k sc o b) fun w => exec_atminRadish w d k sc o b off
  · exact .of_issues (exec_atmax d k sc o b) fun w => exec_atmaxRadish w d k sc o b off
  · exact .of_issues (exec_atand d k sc o b) fun w => exec_atandRadish w d k sc o b off
  · exact .of_issues (exec_ator d k sc o b) fun w => exec_atorRadish w d k sc o b off
  · exact .of_issues (exec_atxor d k sc o b) fun w => exec_atxorRadish w d k sc o b off
  · exact .of_issues (exec_atxch d k sc o b) fun w => exec_atxchRadish w d k sc o b off
  · exact .of_issues (exec_atcas d k sc o b) fun w => exec_atcasRadish w d k sc o b off

/-- The lanes of an atomic that an excluding line holds back. -/
def atomicExcl (sc : BitVec 3) (c : Ctx) (s : State) (as_ : List (Nat × Nat × Nat × Nat × Nat)) : Lanes :=
  if sc.toNat ≤ 3 then exclMask s (s.coreOf (s.grp c.gid)) (s.asidOf (s.grp c.gid)) as_ else 0

/-- The atomic of an instruction for the lanes it serves, without its accesses. -/
def atomicOf (aop : Nat) (d : VReg) (sc : BitVec 3) (o : BitVec 2) (c : Ctx) (s : State) (srv as_ : List (Nat × Nat × Nat × Nat × Nat)) : LoadOp :=
  { mkLoad c s (.atomic aop) sc.toNat o.toNat (some (0, d.toNat)) with
    opv := srv.map fun a => (a.1, atOperands (s.grp c.gid) c.ty d.toNat a.1), two := twoMask as_ }

/-- An atomic once its lanes have passed. -/
def atomicGo (aop : Nat) (d : VReg) (sc : BitVec 3) (o : BitVec 2) (c : Ctx) (s : State)
    (as_ : List (Nat × Nat × Nat × Nat × Nat)) : Act :=
  let srv := as_.filter fun a => !(atomicExcl sc c s as_).getLsbD a.1
  let ev := laneEvents (noteAll s (s.asidOf (s.grp c.gid)) as_) c.gid (srv.map fun a => (a.1, a.2.1, a.2.2.1))
  if sc.toNat ≤ 3 ∧ ownPark s c.gid as_ then .wait s .stores
  else if atomicExcl sc c s as_ ≠ 0 then holdAt c s (atomicExcl sc c s as_) as_
    (some { atomicOf aop d sc o c s srv as_ with accs := srv.map fun a => ⟨a.1, a.2.1, a.2.2.1, 0⟩ }) none
  else .done (pushLoad ((noteFloors ev.2 c.gid (acquires 2 o.toNat) sc.toNat (widthOf c.ty) ev.1).notePend (pendOf (widthOf c.ty) ev.1)) c.gid
    { atomicOf aop d sc o c s srv as_ with accs := ev.1 } (regsOf c.ty))

section Atomics
variable {aop : Nat} {d k : VReg} {sc : BitVec 3} {o : BitVec 2} {b : BitVec 3} {c : Ctx} {s : State}

theorem atomicB_no_lane (h : served c = 0) : atomicB aop d k sc o b c s = .done s := if_pos h

theorem atomicB_full (hact : served c ≠ 0) (h : 63 ≤ (s.grp c.gid).loads.length) : atomicB aop d k sc o b c s = .wait s (.full 0) := by
  unfold atomicB
  dsimp only
  exact (if_neg hact).trans (if_pos h)

theorem atomicB_go (hact : served c ≠ 0) (h : (s.grp c.gid).loads.length < 63) :
    atomicB aop d k sc o b c s = withLanes c s .atomic (widthOf c.ty) (served c) (eaOf k b c s) (atomicGo aop d sc o c s) := by
  unfold atomicB
  dsimp only
  rw [effAddr_eq]
  exact (if_neg hact).trans (if_neg (Nat.not_le.mpr h))

variable {as_ : List (Nat × Nat × Nat × Nat × Nat)}

theorem atomicGo_waits (hsc : sc.toNat ≤ 3) (h : ownPark s c.gid as_ = true) : atomicGo aop d sc o c s as_ = .wait s .stores :=
  if_pos ⟨hsc, h⟩

theorem atomicGo_enters (hown : ¬(sc.toNat ≤ 3 ∧ ownPark s c.gid as_ = true)) (hex : atomicExcl sc c s as_ = 0) :
    atomicGo aop d sc o c s as_ = .done (pushLoad ((noteFloors (eventsOf c s as_).2 c.gid (acquires 2 o.toNat) sc.toNat (widthOf c.ty)
        (eventsOf c s as_).1).notePend (pendOf (widthOf c.ty) (eventsOf c s as_).1)) c.gid
      { atomicOf aop d sc o c s as_ as_ with accs := (eventsOf c s as_).1 } (regsOf c.ty)) := by
  unfold atomicGo
  dsimp only
  rw [if_neg hown, hex, filter_none_excluded, if_neg (not_not_intro rfl)]
  rfl

end Atomics

/-- Settles O30: a load or atomic whose lanes pass, in the order of its checks. -/
theorem loadsAndAtomicsEnterTheLoadQueue : Obligations.LoadsAndAtomicsEnterTheLoadQueue := by
  unfold Obligations.LoadsAndAtomicsEnterTheLoadQueue
  intro r d k sc o b off
  constructor
  · intro x hx
    have hm := means_globalLoads hx
    refine ⟨hm.nothing fun c s h => if_pos h, hm.waits fun c s h => loadB_full h.1 h.2, hm.waits fun c s h => ?_,
      hm.does fun c s _ h => ?_⟩
    · obtain ⟨hact, hroom, hpass, hown⟩ := h
      obtain ⟨as_, hp, hgo⟩ := withLanes_pass hpass
      rw [loadB_go hact hroom, hgo]
      exact if_pos ((ownPark_iff hp).mpr hown)
    · obtain ⟨hact, hroom, hpass, haway, hown⟩ := h
      obtain ⟨as_, hp, hgo⟩ := withLanes_pass hpass
      have hbody : loadB x.2 d k sc o b c s = _ := (loadB_go hact hroom).trans ((hgo _).trans
        ((if_neg fun h => (ownPark_iff hp).mp h hown).trans (if_neg (not_not_intro ((exclMask_eq_zero hp).mpr haway)))))
      rw [hbody]
      obtain ⟨h1, h2, h3, h4⟩ := pushLoad_leaves (m := c.act) (n := if x.2 then 1 else regsOf c.ty)
        ((eventsOf_beside c s as_).trans (.of_ord (noteFloors_ord _ c.gid (acquires 0 o.toNat) sc.toNat (widthOf c.ty) (eventsOf c s as_).1)))
        (show ({ loadOf x.2 d sc o c s with accs := (eventsOf c s as_).1 } : LoadOp).frag = c.fid from rfl) rfl
      exact ⟨_, h1, h2, h3, rfl, rfl, rfl, rfl, rfl, rfl, eventsOf_accesses hp, h4⟩
  · intro x hx
    have hm := means_returningAtomics hx
    refine ⟨hm.nothing fun c s h => atomicB_no_lane h, hm.waits fun c s h => atomicB_full h.1 h.2, hm.waits fun c s h => ?_,
      hm.does fun c s _ h => ?_⟩
    · obtain ⟨hact, hsc, hroom, hpass, hown⟩ := h
      obtain ⟨as_, hp, hgo⟩ := withLanes_pass hpass
      rw [atomicB_go hact hroom, hgo]
      exact atomicGo_waits hsc ((ownPark_iff hp).mpr hown)
    · obtain ⟨hact, hroom, hpass, hpark⟩ := h
      obtain ⟨as_, hp, hgo⟩ := withLanes_pass hpass
      have hown : ¬(sc.toNat ≤ 3 ∧ ownPark s c.gid as_ = true) := fun h => (ownPark_iff hp).mp h.2 (hpark h.1).2
      have hex : atomicExcl sc c s as_ = 0 := by
        unfold atomicExcl
        split
        next hsc => exact (exclMask_eq_zero hp).mpr (hpark hsc).1
        next => rfl
      rw [atomicB_go hact hroom, hgo, atomicGo_enters hown hex]
      obtain ⟨h1, h2, h3, h4⟩ := pushLoad_leaves (m := c.act) (n := regsOf c.ty)
        ((eventsOf_beside c s as_).trans ((Beside.of_ord (noteFloors_ord _ c.gid (acquires 2 o.toNat) sc.toNat (widthOf c.ty)
          (eventsOf c s as_).1)).trans (.of_ord (rfl : OrdOnly _ (State.notePend _ (pendOf (widthOf c.ty) (eventsOf c s as_).1))))))
        (show ({ atomicOf x.2 d sc o c s as_ as_ with accs := (eventsOf c s as_).1 } : LoadOp).frag = c.fid from rfl) rfl
      refine ⟨_, h1, h2, h3, rfl, rfl, rfl, rfl, rfl, rfl, eventsOf_accesses hp, fun l hl hbit => ?_, h4⟩
      obtain ⟨a, ha, rfl⟩ := hp.has hl hbit
      exact List.mem_map.mpr ⟨a, ha, rfl⟩

end Sys2Proof.Machine

/-! Proofs: ST, STX, STN and the reductions enter the store queue, a store with its writes (R149, R150, R153, R155). -/
namespace Sys2Proof.Machine

/-! ### What the lanes' events leave -/

/-- The events of some of the lanes that passed, with what all of them used noted. -/
def eventsFor (c : Ctx) (s : State) (as_ srv : List (Nat × Nat × Nat × Nat × Nat)) : List LaneAcc × State :=
  laneEvents (noteAll s (s.asidOf (s.grp c.gid)) as_) c.gid (srv.map fun a => (a.1, a.2.1, a.2.2.1))

theorem eventsFor_beside (c : Ctx) (s : State) (as_ srv : List (Nat × Nat × Nat × Nat × Nat)) : Beside s (eventsFor c s as_ srv).2 :=
  (noteAll_beside _ _ _).trans (.of_ord (laneEvents_spec _ _ _).1)

theorem eventsFor_writes (c : Ctx) (s : State) (as_ srv : List (Nat × Nat × Nat × Nat × Nat)) :
    (eventsFor c s as_ srv).2.ord.writes = s.ord.writes := by
  obtain ⟨tl, tb, h⟩ := noteAll_notes s (s.asidOf (s.grp c.gid)) as_
  refine (laneEvents_spec _ _ _).2.1.trans ?_
  rw [h]

/-- Shallot refuses after the events what it refused before them. -/
theorem eventsFor_foreign (c : Ctx) (s : State) (as_ srv : List (Nat × Nat × Nat × Nat × Nat)) :
    (eventsFor c s as_ srv).2.foreign = s.foreign := by
  obtain ⟨tl, tb, h⟩ := noteAll_notes s (s.asidOf (s.grp c.gid)) as_
  have hord := (laneEvents_spec (noteAll s (s.asidOf (s.grp c.gid)) as_) c.gid (srv.map fun a => (a.1, a.2.1, a.2.2.1))).1
  unfold eventsFor
  rw [hord.eq, h]
  rfl

theorem Beside.asidOf {s t : State} (h : Beside s t) (g : Group) : t.asidOf g = s.asidOf g := by rw [h.eq]; rfl

/-! ### The writes that a store enters (R149, R249, R306) -/

/-- The writes of some accesses, in the order in which they are entered. -/
def EnteredFor {α : Type} (R : α → WriteRec → Prop) (accs : List α) (ws : List WriteRec) : Prop :=
  ws.length = accs.length ∧ ∀ p ∈ accs.zip ws.reverse, R p.1 p.2

theorem EnteredFor.cons {α : Type} {R : α → WriteRec → Prop} {a : α} {x : WriteRec} {accs : List α} {ws : List WriteRec}
    (hx : R a x) (h : EnteredFor R accs ws) : EnteredFor R (a :: accs) (ws ++ [x]) := by
  obtain ⟨hlen, hall⟩ := h
  refine ⟨by simp [hlen], fun p hp => ?_⟩
  rw [List.reverse_append, List.reverse_singleton, List.singleton_append, List.zip_cons_cons] at hp
  rcases List.mem_cons.mp hp with rfl | hp
  · exact hx
  · exact hall p hp

/-- Entering writes, one for each access that Shallot lets pass, changes W(x) alone. -/
theorem foldl_addWrite {α : Type} {pa : α → Nat} {asid : State → Nat} {f : State → α → WriteRec} {R : α → WriteRec → Prop}
    (hasid : ∀ s w, asid (s.addWrite w) = asid s) (hf : ∀ s a, R a (f s a)) (accs : List α) (s : State) :
    ∃ ws, accs.foldl (fun s a => if s.foreign (asid s) (pa a) then s else s.addWrite (f s a)) s =
        { s with ord := { s.ord with writes := ws ++ s.ord.writes } } ∧
      EnteredFor R (accs.filter fun a => !s.foreign (asid s) (pa a)) ws := by
  induction accs generalizing s with
  | nil => exact ⟨[], rfl, rfl, nofun⟩
  | cons a accs ih =>
    rw [List.foldl_cons]
    cases hfor : s.foreign (asid s) (pa a) with
    | true =>
      obtain ⟨ws, hs, hr⟩ := ih s
      refine ⟨ws, hs, ?_⟩
      rw [List.filter_cons_of_neg (by rw [hfor]; decide)]
      exact hr
    | false =>
      obtain ⟨ws, hs, hr⟩ := ih (s.addWrite (f s a))
      rw [hasid] at hr
      refine ⟨ws ++ [f s a], ?_, ?_⟩
      · rw [if_neg Bool.false_ne_true, hs, List.append_assoc]
        rfl
      · rw [List.filter_cons_of_pos (by rw [hfor]; rfl)]
        exact EnteredFor.cons (hf s a) hr

theorem enterWrites_spec (s : State) (c : Ctx) (sc o w : Nat) (accs : List LaneAcc) (val : Nat → Nat) :
    ∃ ws, enterWrites s c.gid sc o w accs val = { s with ord := { s.ord with writes := ws ++ s.ord.writes } } ∧
      EnteredFor (writeOf c s sc o w val) (accs.filter fun a => !s.foreign (s.asidOf (s.grp c.gid)) a.pa) ws :=
  foldl_addWrite (asid := fun s => s.asidOf (s.grp c.gid)) (fun _ _ => rfl)
    (fun _ _ => ⟨rfl, rfl, rfl, rfl, rfl, rfl, rfl, rfl⟩) accs s

/-! ### The lanes that write (R149) -/

theorem topLanes_are_writers {k : Acc} {c : Ctx} {s : State} {m : Lanes} {addr : Nat → Nat} {as_ : List (Nat × Nat × Nat × Nat × Nat)}
    (hp : Passed k c s ((lanesOf m).map fun l => (l, addr l)) as_) :
    Passed k c s ((writers m addr).map fun l => (l, addr l)) (topLanes as_) := by
  obtain ⟨hxs, hall⟩ := hp
  refine ⟨?_, fun a ha => hall a (List.mem_filter.mp ha).1⟩
  have htop : topLanes as_ = as_.filter ((fun y : Nat × Nat => !((as_.map fun a => (a.1, a.2.1)).any fun z => z.2 == y.2 && decide (y.1 < z.1))) ∘
      fun a => (a.1, a.2.1)) := by
    unfold topLanes
    refine List.filter_congr fun a _ => ?_
    rw [Function.comp, List.any_map]
    rfl
  rw [htop, ← List.filter_map, hxs, List.filter_map]
  refine congrArg (List.map _) (List.filter_congr fun l _ => ?_)
  rw [Function.comp, List.any_map]
  rfl

/-! ### The flags that a store raises (R150, R153) -/

/-- What `opvFlags` finds is what the lanes' values raise. -/
theorem opvFlags_storeOpv {k : Acc} {c : Ctx} {s : State} {m : Lanes} {addr : Nat → Nat} {as_ : List (Nat × Nat × Nat × Nat × Nat)}
    (hp : Passed k c s ((lanesOf m).map fun l => (l, addr l)) as_) (kind : StoreKind) (vals : Nat → Nat × Nat) :
    opvFlags (storeOpv s c.gid kind vals as_) m = BitVec.ofNat 32 ((lanesOf m).foldl (fun n l => Nat.lor n (vals l).2) 0) := by
  have hhalf : ∀ (b : Bool) (n : Nat), ((if b then 1 else 0) + 2 * n) / 2 = n := by
    intro b n
    cases b <;> simp <;> omega
  have hfold : ∀ (l : List (Nat × Nat × Nat × Nat × Nat)) (n : Nat), (∀ a ∈ l, m.getLsbD a.1 = true) →
      (storeOpv s c.gid kind vals l).foldl (fun n x => if m.getLsbD x.1 then Nat.lor n (x.2.2 / 2) else n) n =
        (l.map (·.1)).foldl (fun n l => Nat.lor n (vals l).2) n := by
    intro l
    induction l with
    | nil => exact fun n _ => rfl
    | cons a l ih =>
      intro n ha
      unfold storeOpv
      rw [List.map_cons, List.foldl_cons, List.map_cons, List.foldl_cons, if_pos (ha a List.mem_cons_self), hhalf]
      exact ih _ fun b hb => ha b (List.mem_cons_of_mem _ hb)
  have hlanes : as_.map (·.1) = lanesOf m := by
    have := congrArg (List.map (·.1)) hp.1
    rw [List.map_map, List.map_map] at this
    exact this.trans (List.map_id _)
  unfold opvFlags
  rw [hfold as_ 0 fun a ha => (hp.lane ha).2.1, hlanes]

theorem foldl_lor_zero (l : List Nat) : l.foldl (fun n _ => Nat.lor n 0) 0 = 0 := by
  induction l with
  | nil => rfl
  | cons a l ih => exact ih

/-! ### Stores -/

/-- The store of an instruction, without its accesses. -/
def storeOf (kind : StoreKind) (vals : Nat → Nat × Nat) (sc : BitVec 3) (o : BitVec 2) (c : Ctx) (s : State)
    (as_ : List (Nat × Nat × Nat × Nat × Nat)) : StoreOp :=
  { mkStore c s kind sc.toNat o.toNat with opv := storeOpv s c.gid kind vals as_ }

/-- The lanes of a store that an excluding line holds back. -/
def storeExcl (kind : StoreKind) (c : Ctx) (s : State) (as_ : List (Nat × Nat × Nat × Nat × Nat)) : Lanes :=
  match kind with | .store => exclMask s (s.coreOf (s.grp c.gid)) (s.asidOf (s.grp c.gid)) as_ | _ => 0

/-- An STN that stays an ordinary store sets PXC. -/
def storePxc (kind : StoreKind) (c : Ctx) (s : State) (as_ : List (Nat × Nat × Nat × Nat × Nat)) : Bool :=
  match kind with
  | .stn d => stnPxc s (s.asidOf (s.grp c.gid)) d && as_.any fun a => !parksAt s c.gid kind a
  | _ => false

/-- A store once its lanes have passed. -/
def storeGo (kind : StoreKind) (vals : Nat → Nat × Nat) (sc : BitVec 3) (o : BitVec 2) (c : Ctx) (s : State)
    (as_ : List (Nat × Nat × Nat × Nat × Nat)) : Act :=
  let srv := topLanes (as_.filter fun a => !(storeExcl kind c s as_).getLsbD a.1)
  if kind = .store ∧ ownPark s c.gid as_ then .wait s .stores
  else if storeExcl kind c s as_ ≠ 0 then holdAt c s (storeExcl kind c s as_) as_ none
    (some { storeOf kind vals sc o c s as_ with accs := srv.map fun a => ⟨a.1, a.2.1, a.2.2.1, 0⟩ })
  else .done (pushStore ((enterWrites (eventsFor c s as_ srv).2 c.gid sc.toNat o.toNat (widthOf c.ty) (eventsFor c s as_ srv).1
      fun l => (vals l).1).modGrp c.gid fun g =>
        { g with flags := g.flags ||| opvFlags (storeOf kind vals sc o c s as_).opv (served c) ||| (if storePxc kind c s as_ then 0x100 else 0) })
    c.gid { storeOf kind vals sc o c s as_ with accs := (eventsFor c s as_ srv).1 })

section Stores
variable {kind : StoreKind} {val : Group → Word → Nat → Nat × Nat} {d k : VReg} {sc : BitVec 3} {o : BitVec 2} {b : BitVec 3}
  {c : Ctx} {s : State}

theorem storeB_no_lane (h : served c = 0) : storeB kind val d k sc o b c s = .done s := if_pos h

theorem storeB_full (hact : served c ≠ 0) (h : 63 ≤ (s.grp c.gid).stores.length) : storeB kind val d k sc o b c s = .wait s (.full 1) := by
  unfold storeB
  dsimp only
  exact (if_neg hact).trans (if_pos h)

theorem storeB_go (hact : served c ≠ 0) (h : (s.grp c.gid).stores.length < 63) :
    storeB kind val d k sc o b c s =
      withLanes c s .write (widthOf c.ty) (served c) (eaOf k b c s) (storeGo kind (val (s.grp c.gid) c.mode) sc o c s) := by
  unfold storeB
  dsimp only
  rw [effAddr_eq]
  exact (if_neg hact).trans (if_neg (Nat.not_le.mpr h))

end Stores

/-- The group with the flags that a store raises. -/
def raised (vals : Nat → Nat × Nat) (m : Lanes) (pxc : Bool) (g : Group) : Group :=
  { g with flags := g.flags ||| BitVec.ofNat 32 ((lanesOf m).foldl (fun n l => Nat.lor n (vals l).2) 0) ||| (if pxc then 0x100 else 0) }

/-- What a store leaves as it enters its queue: its operation, its writes and its flags. -/
structure StoreEntered (kind : StoreKind) (vals : Nat → Nat × Nat) (sc : BitVec 3) (o : BitVec 2) (addr : Nat → Nat) (c : Ctx) (s t : State)
    (as_ : List (Nat × Nat × Nat × Nat × Nat)) (op : StoreOp) : Prop where
  went : WentOn c s t
  regs : SameRegs (s.grp c.gid) (t.grp c.gid)
  mode : (t.grp c.gid).mode = (s.grp c.gid).mode
  mem : t.mem = s.mem
  teams : t.teams = s.teams
  more : OneStoreMore c s t op
  pend : (t.grp c.gid).pend = (s.grp c.gid).pend
  kind_eq : op.kind = kind
  ty : op.ty = c.ty
  width : op.width = widthOf c.ty
  scope : op.sc = sc.toNat
  order : op.ord = o.toNat
  accs : accessesAre .write (writers (served c) addr) addr c s op.accs
  writes : ∃ ws, t.ord.writes = ws ++ s.ord.writes ∧
    EnteredFor (writeOf c s sc.toNat o.toNat (widthOf c.ty) fun l => (vals l).1) (entering c s op.accs) ws
  flags : (t.grp c.gid).flags = (s.grp c.gid).flags |||
    BitVec.ofNat 32 ((lanesOf (served c)).foldl (fun n l => Nat.lor n (vals l).2) 0) ||| (if storePxc kind c s as_ then 0x100 else 0)

theorem storeGo_enters {kind : StoreKind} {vals : Nat → Nat × Nat} {sc : BitVec 3} {o : BitVec 2} {addr : Nat → Nat} {c : Ctx} {s : State}
    {m : Lanes} {as_ : List (Nat × Nat × Nat × Nat × Nat)} (hp : Passed .write c s ((lanesOf (served c)).map fun l => (l, addr l)) as_)
    (hown : ¬(kind = .store ∧ ownPark s c.gid as_ = true)) (hex : storeExcl kind c s as_ = 0) :
    ∃ op, StoreEntered kind vals sc o addr c s (finish c m (storeGo kind vals sc o c s as_)) as_ op := by
  have hgo : storeGo kind vals sc o c s as_ = .done (pushStore ((enterWrites (eventsFor c s as_ (topLanes as_)).2 c.gid sc.toNat o.toNat
      (widthOf c.ty) (eventsFor c s as_ (topLanes as_)).1 fun l => (vals l).1).modGrp c.gid fun g =>
        { g with flags := g.flags ||| opvFlags (storeOf kind vals sc o c s as_).opv (served c) ||| (if storePxc kind c s as_ then 0x100 else 0) })
      c.gid { storeOf kind vals sc o c s as_ with accs := (eventsFor c s as_ (topLanes as_)).1 }) := by
    unfold storeGo
    dsimp only
    rw [if_neg hown, hex, filter_none_excluded, if_neg (not_not_intro rfl)]
  have hb := eventsFor_beside c s as_ (topLanes as_)
  have hw := eventsFor_writes c s as_ (topLanes as_)
  have hf := eventsFor_foreign c s as_ (topLanes as_)
  have haccs : accessesAre .write (writers (served c) addr) addr c s (eventsFor c s as_ (topLanes as_)).1 := by
    obtain ⟨htop, hall⟩ := topLanes_are_writers hp
    unfold accessesAre
    rw [← htop]
    exact accessesAt_of_events hall
  obtain ⟨ws, hws, hentered⟩ := enterWrites_spec (eventsFor c s as_ (topLanes as_)).2 c sc.toNat o.toNat (widthOf c.ty)
    (eventsFor c s as_ (topLanes as_)).1 fun l => (vals l).1
  rw [hb.grp, hb.asidOf, hf] at hentered
  have hflags := opvFlags_storeOpv hp kind vals
  rw [hgo, hws]
  change opvFlags (storeOf kind vals sc o c s as_).opv (served c) = _ at hflags
  rw [hflags]
  generalize (eventsFor c s as_ (topLanes as_)).2 = u at hb hw hf hentered
  generalize (eventsFor c s as_ (topLanes as_)).1 = accs at haccs hentered
  have hbeside : Beside (s.modGrp c.gid (raised vals (served c) (storePxc kind c s as_)))
      (State.modGrp { u with ord := { u.ord with writes := ws ++ u.ord.writes } } c.gid (raised vals (served c) (storePxc kind c s as_))) := by
    rw [hb.eq]
    rfl
  have hgrp := grp_modGrp s c.gid (raised vals (served c) (storePxc kind c s as_))
  obtain ⟨hwent, ⟨hregs, ⟨hmode, hfl, -⟩, hmem, hteams⟩, ⟨hstores, -, hloads, htiles⟩, hpend⟩ := pushStore_leaves (m := m) hbeside
    (op := { storeOf kind vals sc o c s as_ with accs := accs }) rfl
  unfold WentOn at hwent
  rw [hgrp] at hwent hregs hmode hfl hstores hloads htiles hpend
  refine ⟨queuedStore (raised vals (served c) (storePxc kind c s as_) (s.grp c.gid)) { storeOf kind vals sc o c s as_ with accs := accs }, hwent, hregs, hmode, hmem, hteams,
    ⟨hstores, rfl, hloads, htiles⟩, hpend, rfl, rfl, rfl, rfl, rfl, haccs, ⟨ws, ?_, hentered⟩, hfl⟩
  change ws ++ u.ord.writes = _
  rw [hw]

/-! ### Reductions -/

theorem means_reductions {r : Option (BitVec 13)} {d k : VReg} {sc : BitVec 3} {o : BitVec 2} {b : BitVec 3} {off : RImm}
    {x : Instr × Nat} (hx : reductions r d k sc o b off x) : Means x.1 (reduceB x.2 d k sc o b) := by
  unfold reductions at hx
  simp only [List.mem_cons, List.not_mem_nil, or_false] at hx
  obtain rfl | rfl | rfl := hx
  · exact .of_issues (exec_redadd d k sc o b) fun w => exec_redaddRadish w d k sc o b off
  · exact .of_issues (exec_redmin d k sc o b) fun w => exec_redminRadish w d k sc o b off
  · exact .of_issues (exec_redmax d k sc o b) fun w => exec_redmaxRadish w d k sc o b off

/-- The reduction of an instruction, without its accesses. -/
def reductionOf (aop : Nat) (d : VReg) (sc : BitVec 3) (o : BitVec 2) (c : Ctx) (s : State) (as_ : List (Nat × Nat × Nat × Nat × Nat)) : StoreOp :=
  { mkStore c s (.red aop) sc.toNat o.toNat with
    opv := as_.map fun (a : Nat × Nat × Nat × Nat × Nat) => (a.1, atOperands (s.grp c.gid) c.ty d.toNat a.1), two := twoMask as_ }

/-- A reduction once its lanes have passed. -/
def reduceGo (aop : Nat) (d : VReg) (sc : BitVec 3) (o : BitVec 2) (c : Ctx) (s : State) (as_ : List (Nat × Nat × Nat × Nat × Nat)) : Act :=
  .done (pushStore ((eventsOf c s as_).2.notePend (pendOf (widthOf c.ty) (eventsOf c s as_).1)) c.gid
    { reductionOf aop d sc o c s as_ with accs := (eventsOf c s as_).1 })

section Reductions
variable {aop : Nat} {d k : VReg} {sc : BitVec 3} {o : BitVec 2} {b : BitVec 3} {c : Ctx} {s : State}

theorem reduceB_full (hact : c.act ≠ 0) (h : 63 ≤ (s.grp c.gid).stores.length) : reduceB aop d k sc o b c s = .wait s (.full 1) := by
  unfold reduceB
  dsimp only
  exact (if_neg hact).trans (if_pos h)

theorem reduceB_go (hact : c.act ≠ 0) (h : (s.grp c.gid).stores.length < 63) :
    reduceB aop d k sc o b c s = withLanes c s .atomic (widthOf c.ty) c.act (eaOf k b c s) (reduceGo aop d sc o c s) := by
  unfold reduceB
  dsimp only
  rw [effAddr_eq]
  exact (if_neg hact).trans (if_neg (Nat.not_le.mpr h))

end Reductions

/-! ### The three stores -/

section Three
variable {r : Option (BitVec 13)} {d k : VReg} {sc : BitVec 3} {o : BitVec 2} {b : BitVec 3} {off : RImm}

theorem means_st : Means (both r (.stGlobal d k sc o b) fun w => .stGlobalRadish w d k sc o b off) (storeB .store (stVal d) d k sc o b) :=
  .of_issues (exec_stGlobal d k sc o b) fun w => exec_stGlobalRadish w d k sc o b off

theorem means_stx : Means (both r (.stx d k sc o b) fun w => .stxRadish w d k sc o b off) (storeB .store (stxVal d) d k sc o b) :=
  .of_issues (exec_stx d k sc o b) fun w => exec_stxRadish w d k sc o b off

theorem means_stn : Means (both r (.stn d k sc o b) fun w => .stnRadish w d k sc o b off) (stnB d k sc o b) :=
  .of_issues (exec_stn d k sc o b) fun w => exec_stnRadish w d k sc o b off

theorem st_ne_stn : (both r (.stGlobal d k sc o b) fun w => .stGlobalRadish w d k sc o b off) ≠
    both r (.stn d k sc o b) fun w => .stnRadish w d k sc o b off := by cases r <;> exact nofun

theorem stx_ne_stn : (both r (.stx d k sc o b) fun w => .stxRadish w d k sc o b off) ≠
    both r (.stn d k sc o b) fun w => .stnRadish w d k sc o b off := by cases r <;> exact nofun

theorem st_ne_stx : (both r (.stGlobal d k sc o b) fun w => .stGlobalRadish w d k sc o b off) ≠
    both r (.stx d k sc o b) fun w => .stxRadish w d k sc o b off := by cases r <;> exact nofun

end Three

/-- What an ordinary store waits for and does. -/
theorem ordinary_store {x : Instr} {val : Group → Word → Nat → Nat × Nat} {d k : VReg} {sc : BitVec 3} {o : BitVec 2} {b : BitVec 3}
    (hm : Means x (storeB .store val d k sc o b)) :
    WaitsIf x (fun c s => served c ≠ 0 ∧ (s.grp c.gid).stores.length < 63 ∧
      lanesPass .write (widthOf c.ty) (served c) (eaOf k b c s) c s ∧ ¬noneToPark .write (served c) (eaOf k b c s) c s) (fun _ _ => .stores) ∧
    DoesIf x (fun c s => served c ≠ 0 ∧ (s.grp c.gid).stores.length < 63 ∧ lanesPass .write (widthOf c.ty) (served c) (eaOf k b c s) c s ∧
        noneParkedAway .write (served c) (eaOf k b c s) c s ∧ noneToPark .write (served c) (eaOf k b c s) c s)
      fun c s t => ∃ as_ op, StoreEntered .store (val (s.grp c.gid) c.mode) sc o (eaOf k b c s) c s t as_ op := by
  refine ⟨hm.waits fun c s h => ?_, hm.does fun c s _ h => ?_⟩
  · obtain ⟨hact, hroom, hpass, hown⟩ := h
    obtain ⟨as_, hp, hgo⟩ := withLanes_pass hpass
    rw [storeB_go hact hroom, hgo]
    exact if_pos ⟨rfl, (ownPark_iff hp).mpr hown⟩
  · obtain ⟨hact, hroom, hpass, haway, hown⟩ := h
    obtain ⟨as_, hp, hgo⟩ := withLanes_pass hpass
    rw [storeB_go hact hroom, hgo]
    obtain ⟨op, h⟩ := storeGo_enters (kind := .store) (vals := val (s.grp c.gid) c.mode) (sc := sc) (o := o) (m := c.act) hp
      (fun h => (ownPark_iff hp).mp h.2 hown) ((exclMask_eq_zero hp).mpr haway)
    exact ⟨as_, op, h⟩

/-- What an STN does. -/
theorem nearby_store {x : Instr} {d k : VReg} {sc : BitVec 3} {o : BitVec 2} {b : BitVec 3} (hm : Means x (stnB d k sc o b)) :
    DoesIf x (fun c s => served c ≠ 0 ∧ (s.grp c.gid).stores.length < 63 ∧ lanesPass .write (widthOf c.ty) (served c) (eaOf k b c s) c s)
      fun c s t => ∃ as_ op, Passed .write c s ((lanesOf (served c)).map fun l => (l, eaOf k b c s l)) as_ ∧
        StoreEntered (.stn (s.grp c.gid).rset) (stVal d (s.grp c.gid) c.mode) sc o (eaOf k b c s) c s t as_ op := by
  refine hm.does fun c s _ h => ?_
  obtain ⟨hact, hroom, hpass⟩ := h
  obtain ⟨as_, hp, hgo⟩ := withLanes_pass hpass
  unfold stnB
  rw [storeB_go hact hroom, hgo]
  obtain ⟨op, h⟩ := storeGo_enters (kind := .stn (s.grp c.gid).rset) (vals := stVal d (s.grp c.gid) c.mode) (sc := sc) (o := o) (m := c.act) hp
    (fun h => nomatch h.1) rfl
  exact ⟨as_, op, hp, h⟩

/-- When an STN sets PXC. -/
theorem storePxc_iff {c : Ctx} {s : State} {d : Word} {m : Lanes} {addr : Nat → Nat} {as_ : List (Nat × Nat × Nat × Nat × Nat)}
    (hp : Passed .write c s ((lanesOf m).map fun l => (l, addr l)) as_) :
    storePxc (.stn d) c s as_ = true ↔ stnPxc s (s.asidOf (s.grp c.gid)) d = true ∧ ∃ l key leaf level, l < 32 ∧ m.getLsbD l = true ∧
      translate s (s.asidOf (s.grp c.gid)) (addr l) .write l = .ok key leaf level ∧
      stnOrdinary s (s.asidOf (s.grp c.gid)) (s.team (s.grp c.gid).team).launch d key (leafPark leaf) = true := by
  have hparks : ∀ a : Nat × Nat × Nat × Nat × Nat, (!parksAt s c.gid (.stn d) a) =
      stnOrdinary s (s.asidOf (s.grp c.gid)) (s.team (s.grp c.gid).team).launch d a.2.2.1 (leafPark a.2.2.2.1) := fun a => Bool.not_not _
  unfold storePxc
  rw [Bool.and_eq_true, List.any_eq_true]
  refine and_congr_right fun _ => ⟨?_, ?_⟩
  · rintro ⟨a, ha, h⟩
    obtain ⟨hl, hm, -, ht⟩ := hp.lane ha
    exact ⟨a.1, _, _, _, hl, hm, ht, hparks a ▸ h⟩
  · rintro ⟨l, key, leaf, level, hl, hm, ht, h⟩
    obtain ⟨a, ha, rfl⟩ := hp.has hl hm
    obtain ⟨-, -, -, ht'⟩ := hp.lane ha
    rw [ht] at ht'
    obtain ⟨rfl, rfl, -⟩ := Xlate.ok.inj ht'
    exact ⟨a, ha, (hparks a).trans h⟩

/-- Settles O32: the checks before a store's lanes pass, then the three stores one by one, then the reductions. -/
theorem storesEnterTheStoreQueue : Obligations.StoresEnterTheStoreQueue := by
  unfold Obligations.StoresEnterTheStoreQueue
  intro r d k sc o b off st stx stn
  have hst : Means st _ := means_st
  have hstx : Means stx _ := means_stx
  have hstn : Means stn _ := means_stn
  have hne1 : st ≠ stn := st_ne_stn
  have hne2 : stx ≠ stn := stx_ne_stn
  have hne3 : st ≠ stx := st_ne_stx
  refine ⟨fun x hx => ?_, fun x hx => ?_, fun x hx => ?_⟩
  · simp only [List.mem_cons, List.not_mem_nil, or_false] at hx
    obtain rfl | rfl | rfl := hx
    · exact ⟨hst.nothing fun c s h => storeB_no_lane h, hst.waits fun c s h => storeB_full h.1 h.2, fun _ => (ordinary_store hst).1⟩
    · exact ⟨hstx.nothing fun c s h => storeB_no_lane h, hstx.waits fun c s h => storeB_full h.1 h.2, fun _ => (ordinary_store hstx).1⟩
    · exact ⟨hstn.nothing fun c s h => storeB_no_lane h, hstn.waits fun c s h => storeB_full h.1 h.2, fun h => absurd rfl h⟩
  · simp only [List.mem_cons, List.not_mem_nil, or_false] at hx
    obtain rfl | rfl | rfl := hx
    · intro s gid fid hc h
      obtain ⟨hact, hroom, hpass, hpark⟩ := h
      obtain ⟨t, ht, as_, op, e⟩ := (ordinary_store hst).2 s gid fid hc ⟨hact, hroom, hpass, (hpark hne1).1, (hpark hne1).2⟩
      refine ⟨t, ht, op, e.went, e.regs, e.mode, e.mem, e.teams, e.more, e.pend, ?_, e.ty, e.width, e.scope, e.order, e.accs, ?_, fun _ => ?_,
        fun h => absurd h hne3, fun h => absurd h hne1⟩
      · rw [if_neg hne1]
        exact e.kind_eq
      · simp only [if_neg hne3]
        exact e.writes
      · have hfl := e.flags
        rw [show (fun n l => Nat.lor n (stVal d ((entered s gid st).grp (ctxOf s gid fid st).gid) (ctxOf s gid fid st).mode l).2) =
          fun n _ => Nat.lor n 0 from rfl, foldl_lor_zero] at hfl
        exact hfl.trans ((BitVec.or_zero).trans BitVec.or_zero)
    · intro s gid fid hc h
      obtain ⟨hact, hroom, hpass, hpark⟩ := h
      obtain ⟨t, ht, as_, op, e⟩ := (ordinary_store hstx).2 s gid fid hc ⟨hact, hroom, hpass, (hpark hne2).1, (hpark hne2).2⟩
      refine ⟨t, ht, op, e.went, e.regs, e.mode, e.mem, e.teams, e.more, e.pend, ?_, e.ty, e.width, e.scope, e.order, e.accs, ?_,
        fun h => absurd h.symm hne3, fun _ => ?_, fun h => absurd h hne2⟩
      · rw [if_neg hne2]
        exact e.kind_eq
      · simp only [if_true]
        exact e.writes
      · exact e.flags.trans BitVec.or_zero
    · intro s gid fid hc h
      obtain ⟨hact, hroom, hpass, -⟩ := h
      obtain ⟨t, ht, as_, op, hp, e⟩ := nearby_store hstn s gid fid hc ⟨hact, hroom, hpass⟩
      refine ⟨t, ht, op, e.went, e.regs, e.mode, e.mem, e.teams, e.more, e.pend, ?_, e.ty, e.width, e.scope, e.order, e.accs, ?_,
        fun h => absurd h.symm hne1, fun h => absurd h.symm hne2, fun _ stays hstays => ?_⟩
      · rw [if_pos rfl]
        exact e.kind_eq
      · simp only [if_neg hne2.symm]
        exact e.writes
      · have hfl := e.flags
        rw [show (fun n l => Nat.lor n (stVal d ((entered s gid stn).grp (ctxOf s gid fid stn).gid) (ctxOf s gid fid stn).mode l).2) =
          fun n _ => Nat.lor n 0 from rfl, foldl_lor_zero] at hfl
        have hpxc := storePxc_iff (d := ((entered s gid stn).grp (ctxOf s gid fid stn).gid).rset) hp
        rw [← hstays] at hpxc
        refine ⟨fun h => ?_, fun h => ?_⟩
        · rw [if_pos (hpxc.mpr h)] at hfl
          exact hfl.trans (congrArg (· ||| (0x100 : Word)) BitVec.or_zero)
        · rw [if_neg fun hx => h (hpxc.mp hx)] at hfl
          exact hfl.trans (BitVec.or_zero.trans BitVec.or_zero)
  · have hm := means_reductions hx
    refine ⟨hm.nothing fun c s h => if_pos h, hm.waits fun c s h => reduceB_full h.1 h.2, hm.does fun c s _ h => ?_⟩
    obtain ⟨hact, hroom, hpass⟩ := h
    obtain ⟨as_, hp, hgo⟩ := withLanes_pass hpass
    rw [reduceB_go hact hroom, hgo]
    obtain ⟨h1, h2, h3, h4⟩ := pushStore_leaves (m := c.act)
      ((eventsOf_beside c s as_).trans (.of_ord (rfl : OrdOnly _ (State.notePend _ (pendOf (widthOf c.ty) (eventsOf c s as_).1)))))
      (show ({ reductionOf x.2 d sc o c s as_ with accs := (eventsOf c s as_).1 } : StoreOp).frag = c.fid from rfl)
    refine ⟨_, h1, h2, h3, rfl, rfl, rfl, rfl, eventsOf_accesses hp, fun l hl hbit => ?_, h4⟩
    obtain ⟨a, ha, rfl⟩ := hp.has hl hbit
    exact List.mem_map.mpr ⟨a, ha, rfl⟩

end Sys2Proof.Machine

/-! Proofs: the lowest failing lane decides the fault of a global access, and an access at a line parked away is held (R145, R154, R241). -/
namespace Sys2Proof.Machine

theorem ne_zero_of_lane {m : Lanes} {l : Nat} (h : m.getLsbD l = true) : m ≠ 0 := by
  rintro rfl
  exact Bool.false_ne_true (BitVec.getLsbD_zero.symm.trans h)

/-- An instruction whose effect begins with the checks of its lanes, where there is room for it. -/
theorem stops_of_withLanes {x : Instr} {body : Ctx → State → Act} (hm : Means x body) {acc : Acc} {m : Ctx → Lanes} {room : Ctx → State → Prop}
    {k : VReg} {b : BitVec 3} (hfetch : acc ≠ .fetch) (l cause flag : Nat)
    (hgo : ∀ c s, m c ≠ 0 → room c s → ∃ go, body c s = withLanes c s acc (widthOf c.ty) (m c) (eaOf k b c s) go) :
    TrapsIf x (fun c s => room c s ∧ misalignedFirst acc (widthOf c.ty) (m c) (eaOf k b c s) c s)
      (fun c s => alignFault (widthOf c.ty) (m c) (eaOf k b c s) true) ∧
    DoesIf x (fun c s => room c s ∧ unmappedFirst acc (widthOf c.ty) (m c) (eaOf k b c s) c s l cause flag)
      (fun c s t => ∃ f, t = takeFault s c.gid c.fid (fltL cause flag (eaOf k b c s l) true f) c.act ∧ f.getLsbD l = true) ∧
    (acc ≠ .read → DoesIf x (fun c s => room c s ∧ sharedFirst acc (widthOf c.ty) (m c) (eaOf k b c s) c s l)
      (fun c s t => ∃ f, t = takeFault s c.gid c.fid (fltL 9 0 (eaOf k b c s l) true f) c.act ∧ f.getLsbD l = true)) := by
  refine ⟨hm.traps fun c s h => ?_, hm.does fun c s _ h => ?_, fun hacc => hm.does fun c s _ h => ?_⟩
  · obtain ⟨hroom, hfirst⟩ := h
    have hlane : m c ≠ 0 := by
      obtain ⟨j, -, hj, -⟩ := hfirst
      exact ne_zero_of_lane hj
    obtain ⟨go, hbody⟩ := hgo c s hlane hroom
    rw [hbody]
    exact withLanes_misaligned hfirst go
  · obtain ⟨hroom, hl, hbit, halign, ht, hpass⟩ := h
    obtain ⟨go, hbody⟩ := hgo c s (ne_zero_of_lane hbit) hroom
    obtain ⟨f, hf, hfault⟩ := withLanes_bad hl hbit (laneCheck_refused (halign l hl hbit) ht) hpass
    rw [hbody, hfault go]
    exact ⟨f, rfl, hf⟩
  · obtain ⟨hroom, hl, hbit, halign, ⟨key, leaf, level, ht, hshared⟩, hpass⟩ := h
    obtain ⟨go, hbody⟩ := hgo c s (ne_zero_of_lane hbit) hroom
    have hkind : acc = .write ∨ acc = .atomic := by
      cases acc with
      | read => exact absurd rfl hacc
      | write => exact .inl rfl
      | atomic => exact .inr rfl
      | fetch => exact absurd rfl hfetch
    obtain ⟨f, hf, hfault⟩ := withLanes_bad hl hbit (laneCheck_shared halign hkind ht hshared) hpass
    rw [hbody, hfault go]
    exact ⟨f, rfl, hf⟩

/-! ### An access held at a parked line -/

theorem Passed.rising {k : Acc} {c : Ctx} {s : State} {m : Lanes} {addr : Nat → Nat} {as_ : List (Nat × Nat × Nat × Nat × Nat)}
    (hp : Passed k c s ((lanesOf m).map fun l => (l, addr l)) as_) : as_.Pairwise fun a b => a.1 < b.1 := by
  have hlanes : as_.map (·.1) = lanesOf m := by
    have := congrArg (List.map (·.1)) hp.1
    rw [List.map_map, List.map_map] at this
    exact this.trans (List.map_id _)
  have hrise := lanesOf_rising m
  rwa [← hlanes, List.pairwise_map] at hrise

theorem holdAt_holds {k : Acc} {c : Ctx} {s : State} {m : Lanes} {addr : Nat → Nat} {as_ : List (Nat × Nat × Nat × Nat × Nat)}
    (hc : AtIssue c s) (hp : Passed k c s ((lanesOf m).map fun l => (l, addr l)) as_) (haway : ¬noneParkedAway k m addr c s)
    (ld : Option LoadOp) (st : Option StoreOp) :
    HeldAtParked k m addr c s
      (finish c c.act (holdAt c s (exclMask s (s.coreOf (s.grp c.gid)) (s.asidOf (s.grp c.gid)) as_) as_ ld st)) := by
  have hbits := fun l (hl : l < 32) => exclMask_getLsbD hp hl
  have hex : ∃ a ∈ as_, (exclMask s (s.coreOf (s.grp c.gid)) (s.asidOf (s.grp c.gid)) as_).getLsbD a.1 = true := by
    simp only [noneParkedAway, not_forall] at haway
    obtain ⟨l, hl, hm, key, leaf, level, ht, he⟩ := haway
    obtain ⟨a, ha, rfl⟩ := hp.has hl hm
    exact ⟨a, ha, (hbits a.1 hl).mpr ⟨key, ⟨hl, hm, leaf, level, ht⟩, Bool.not_eq_false _ ▸ he⟩⟩
  have hhas : ∀ j < 32, (exclMask s (s.coreOf (s.grp c.gid)) (s.asidOf (s.grp c.gid)) as_).getLsbD j = true → ∃ a ∈ as_, a.1 = j := by
    intro j hj hjb
    obtain ⟨key, ⟨-, hm, -⟩, -⟩ := (hbits j hj).mp hjb
    exact hp.has hj hm
  unfold holdAt
  dsimp only
  generalize exclMask s (s.coreOf (s.grp c.gid)) (s.asidOf (s.grp c.gid)) as_ = ex at hbits hex hhas
  obtain ⟨a, r, hbad⟩ : ∃ a r, as_.filter (fun a => ex.getLsbD a.1) = a :: r := by
    obtain ⟨a, ha, hax⟩ := hex
    exact List.exists_cons_of_ne_nil (List.ne_nil_of_mem (List.mem_filter.mpr ⟨ha, hax⟩))
  have hmem : a ∈ as_.filter fun a => ex.getLsbD a.1 := hbad ▸ List.mem_cons_self
  obtain ⟨ha, hax⟩ := List.mem_filter.mp hmem
  obtain ⟨hl, -, hva, -⟩ := hp.lane ha
  have hrise := hp.rising.filter fun a => ex.getLsbD a.1
  rw [hbad] at hrise
  have hgrp : (s.modGrp c.gid fun g => { g with held := aput c.fid ⟨ld, st, ex, (as_.filter fun a => ex.getLsbD a.1).map (·.2.2.1),
      ((as_.filter fun a => ex.getLsbD a.1).head?.map (·.2.1)).getD 0⟩ g.held }).grp c.gid = _ := grp_modGrp _ _ _
  unfold HeldAtParked AlsoWaits KeptAtIssue
  rw [finish_wait_grp, hgrp, await_frag]
  refine ⟨⟨rfl, hc.pc⟩, ⟨sameRegs_refl _, sameSpecials_refl _, rfl, rfl⟩, rfl, rfl, _, afind_aput _ _ _, hbits,
    a.1, hl, hax, ?_, fun j hj => ?_⟩
  · rw [hbad]
    exact hva
  · rw [← Bool.not_eq_true]
    intro hjb
    obtain ⟨e, he, rfl⟩ := hhas j (Nat.lt_trans hj hl) hjb
    have hin : e ∈ a :: r := hbad ▸ List.mem_filter.mpr ⟨he, hjb⟩
    rcases List.mem_cons.mp hin with rfl | hin
    · exact Nat.lt_irrefl _ hj
    · exact Nat.lt_asymm hj (List.rel_of_pairwise_cons hrise hin)

theorem parkedAway_lane {k : Acc} {w : Nat} {m : Lanes} {addr : Nat → Nat} {c : Ctx} {s : State} (h : parkedAway k w m addr c s) : m ≠ 0 := by
  obtain ⟨-, haway⟩ := h
  simp only [noneParkedAway, not_forall] at haway
  obtain ⟨l, -, hm, -⟩ := haway
  exact ne_zero_of_lane hm

/-- An ordinary store: its faults, and the wait at a parked line. -/
theorem ordinary_store_stops {x : Instr} {val : Group → Word → Nat → Nat × Nat} {d k : VReg} {sc : BitVec 3} {o : BitVec 2} {b : BitVec 3}
    (hm : Means x (storeB .store val d k sc o b)) :
    DoesIf x (fun c s => (s.grp c.gid).stores.length < 63 ∧ parkedAway .write (widthOf c.ty) (served c) (eaOf k b c s) c s ∧
        noneToPark .write (served c) (eaOf k b c s) c s)
      (fun c s t => HeldAtParked .write (served c) (eaOf k b c s) c s t) := by
  refine hm.does fun c s hc h => ?_
  obtain ⟨hroom, hpark, hown⟩ := h
  have hact := parkedAway_lane hpark
  obtain ⟨hpass, haway⟩ := hpark
  obtain ⟨as_, hp, hgo⟩ := withLanes_pass hpass
  rw [storeB_go hact hroom, hgo]
  have hex : storeExcl .store c s as_ = exclMask s (s.coreOf (s.grp c.gid)) (s.asidOf (s.grp c.gid)) as_ := rfl
  unfold storeGo
  dsimp only
  rw [if_neg fun h => (ownPark_iff hp).mp h.2 hown, hex, if_pos fun h => haway ((exclMask_eq_zero hp).mp h)]
  exact holdAt_holds hc hp haway _ _

/-- Settles O31: each global access begins with the checks of its lanes; a load, store or atomic is held after them. -/
theorem failingLanesStopTheWholeAccess : Obligations.FailingLanesStopTheWholeAccess := by
  unfold Obligations.FailingLanesStopTheWholeAccess
  intro r d k sc o b off l cause flag stops loads stores stn
  have hstore : ∀ {kind : StoreKind} {val : Group → Word → Nat → Nat × Nat} (c : Ctx) (s : State), served c ≠ 0 → stores c s →
      ∃ go, storeB kind val d k sc o b c s = withLanes c s .write (widthOf c.ty) (served c) (eaOf k b c s) go :=
    fun c s hact hroom => ⟨_, storeB_go hact hroom⟩
  refine ⟨fun x hx => ?_, fun x hx => ?_, fun x hx => ?_, ?_, fun x hx => ?_⟩
  · have hm := means_globalLoads hx
    refine ⟨stops_of_withLanes (acc := .read) (m := Ctx.act) (room := loads) (k := k) (b := b) hm nofun l cause flag fun c s hact hroom => ⟨_, loadB_go hact hroom⟩, hm.does fun c s hc h => ?_⟩
    obtain ⟨hroom, hpark, hown⟩ := h
    have hact := parkedAway_lane hpark
    obtain ⟨hpass, haway⟩ := hpark
    obtain ⟨as_, hp, hgo⟩ := withLanes_pass hpass
    rw [loadB_go hact hroom, hgo]
    unfold loadGo
    rw [if_neg fun h => (ownPark_iff hp).mp h hown, if_pos fun h => haway ((exclMask_eq_zero hp).mp h)]
    exact holdAt_holds hc hp haway _ _
  · have hm := means_returningAtomics hx
    refine ⟨stops_of_withLanes (acc := .atomic) (m := served) (room := loads) (k := k) (b := b) hm nofun l cause flag fun c s hact hroom => ⟨_, atomicB_go hact hroom⟩, hm.does fun c s hc h => ?_⟩
    obtain ⟨hsc, hroom, hpark, hown⟩ := h
    have hact := parkedAway_lane hpark
    obtain ⟨hpass, haway⟩ := hpark
    obtain ⟨as_, hp, hgo⟩ := withLanes_pass hpass
    have hex : atomicExcl sc c s as_ = exclMask s (s.coreOf (s.grp c.gid)) (s.asidOf (s.grp c.gid)) as_ := if_pos hsc
    rw [atomicB_go hact hroom, hgo]
    unfold atomicGo
    dsimp only
    rw [if_neg fun h => (ownPark_iff hp).mp h.2 hown, hex, if_pos fun h => haway ((exclMask_eq_zero hp).mp h)]
    exact holdAt_holds hc hp haway _ _
  · simp only [List.mem_cons, List.not_mem_nil, or_false] at hx
    obtain rfl | rfl := hx
    · exact ⟨stops_of_withLanes (acc := .write) (m := served) (room := stores) (k := k) (b := b) means_st nofun l cause flag hstore, ordinary_store_stops means_st⟩
    · exact ⟨stops_of_withLanes (acc := .write) (m := served) (room := stores) (k := k) (b := b) means_stx nofun l cause flag hstore, ordinary_store_stops means_stx⟩
  · exact stops_of_withLanes (acc := .write) (m := served) (room := stores) (k := k) (b := b) means_stn nofun l cause flag fun c s hact hroom => hstore c s hact hroom
  · exact stops_of_withLanes (acc := .atomic) (m := Ctx.act) (room := stores) (k := k) (b := b) (means_reductions hx) nofun l cause flag fun c s hact hroom => ⟨_, reduceB_go hact hroom⟩

end Sys2Proof.Machine

/-! Proofs: LDP and STP check their offsets and enter their queues as accesses of the private region (R151, R221). -/
namespace Sys2Proof.Machine

/-! ### The words of a private access -/

theorem privAddr_eq (k : VReg) (c : Ctx) (s : State) (l : Nat) :
    privAddr (s.grp c.gid).pb.toNat (locAddr (s.grp c.gid) k c.imm l) l = privOf k c s l := by
  rw [locAddr_eq]
  rfl

theorem privAddr_next (k : VReg) (c : Ctx) (s : State) (l : Nat) :
    privAddr (s.grp c.gid).pb.toNat (locAddr (s.grp c.gid) k c.imm l + 4) l = privOf k c s l + 128 := by
  rw [locAddr_eq]
  unfold privAddr privOf
  omega

theorem privWords_eq (k : VReg) (c : Ctx) (s : State) :
    ((lanesOf c.act).flatMap fun l => (privWords (widthOf c.ty) (locAddr (s.grp c.gid) k c.imm l)).map
      fun o => (l, privAddr (s.grp c.gid).pb.toNat o l)) = privsOf k c s := by
  unfold privsOf
  refine congrArg (fun f => (lanesOf c.act).flatMap f) (funext fun l => ?_)
  unfold privWords
  split
  · rw [List.map_singleton, privAddr_eq]
  · rw [List.map_cons, List.map_singleton, privAddr_eq, privAddr_next]

section Checks
variable {c : Ctx} {s : State} {k : VReg} {acc : Acc} {go : List (Nat × Nat × Nat × Nat × Nat) → Act}

theorem withPriv_fault {e : FaultInfo} (h : lsFault (widthOf c.ty) (s.launchOf (s.grp c.gid)).private_ c.act (offOf k c s) = some e) :
    withPriv c s acc k go = .fault s e := by
  unfold withPriv
  dsimp only
  rw [locAddr_eq, h]

theorem withPriv_passes (h : offsetsPass (widthOf c.ty) (s.launchOf (s.grp c.gid)).private_ c.act k c s) :
    withPriv c s acc k go = withAccs c s acc 1 (privsOf k c s) go := by
  unfold withPriv
  dsimp only
  rw [privWords_eq, locAddr_eq, lsFault_none h]

end Checks

/-! ### LDP and STP once their words have passed -/

/-- The load that an LDP becomes, without its accesses. -/
def privLoad (d : VReg) (c : Ctx) (s : State) : LoadOp :=
  { mkLoad c s (.load false) 0 0 (some (0, d.toNat)) with width := min 4 (widthOf c.ty) }

def ldpGo (d : VReg) (c : Ctx) (s : State) (as_ : List (Nat × Nat × Nat × Nat × Nat)) : Act :=
  .done (pushLoad (eventsOf c s as_).2 c.gid { privLoad d c (eventsOf c s as_).2 with accs := (eventsOf c s as_).1 } (regsOf c.ty))

/-- The write of a word: of a 64-bit value the odd ones are the high halves. -/
def privWrite (g : Group) (d : VReg) (c : Ctx) (s : State) (p : LaneAcc × Nat) : WriteRec :=
  ⟨p.1.node, laneAgent c.gid p.1.lane, s.placeOf c.gid, p.1.pa,
    natLe (min (widthOf c.ty) 4) (if widthOf c.ty == 8 && p.2 % 2 == 1 then storeVal g c.ty d.toNat p.1.lane / 2 ^ 32
      else storeVal g c.ty d.toNat p.1.lane), false, 0, false, false, [], none, [], [], true⟩

/-- The words of an STP enter their writes. -/
def privWrites (g : Group) (d : VReg) (c : Ctx) (accs : List LaneAcc) (s : State) : State :=
  accs.zipIdx.foldl (fun u p => if u.foreign (u.asidOf g) p.1.pa then u else u.addWrite (privWrite g d c u p)) s

def stpGo (d : VReg) (c : Ctx) (s : State) (as_ : List (Nat × Nat × Nat × Nat × Nat)) : Act :=
  let u := privWrites (s.grp c.gid) d c (eventsOf c s as_).1 (eventsOf c s as_).2
  .done (pushStore u c.gid { mkStore c u .store 0 0 with accs := (eventsOf c s as_).1 })

section Bodies
variable {d k : VReg} {c : Ctx} {s : State}

theorem ldpB_full (hact : c.act ≠ 0) (h : 63 ≤ (s.grp c.gid).loads.length) : ldpB d k c s = .wait s (.full 0) := by
  unfold ldpB
  dsimp only
  exact (if_neg hact).trans (if_pos h)

theorem ldpB_go (hact : c.act ≠ 0) (h : (s.grp c.gid).loads.length < 63) : ldpB d k c s = withPriv c s .read k (ldpGo d c s) := by
  unfold ldpB
  dsimp only
  exact (if_neg hact).trans (if_neg (Nat.not_le.mpr h))

theorem stpB_full (hact : c.act ≠ 0) (h : 63 ≤ (s.grp c.gid).stores.length) : stpB d k c s = .wait s (.full 1) := by
  unfold stpB
  dsimp only
  exact (if_neg hact).trans (if_pos h)

theorem stpB_go (hact : c.act ≠ 0) (h : (s.grp c.gid).stores.length < 63) : stpB d k c s = withPriv c s .write k (stpGo d c s) := by
  unfold stpB
  dsimp only
  exact (if_neg hact).trans (if_neg (Nat.not_le.mpr h))

end Bodies

/-! ### The writes of an STP -/

/-- Of pairs laid out one after another the odd ones are second. -/
theorem getElem?_pairs {α β : Type} (f g : α → β) (l : List α) (i : Nat) {b : β} (h : (l.flatMap fun a => [f a, g a])[i]? = some b) :
    ∃ a, b = if i % 2 = 1 then g a else f a := by
  induction l generalizing i with
  | nil => exact nomatch h
  | cons a l ih =>
    rw [List.flatMap_cons] at h
    match i with
    | 0 => exact ⟨a, (Option.some.inj h).symm⟩
    | 1 => exact ⟨a, (Option.some.inj h).symm⟩
    | i + 2 =>
      obtain ⟨x, hx⟩ := ih i h
      exact ⟨x, by rw [hx, Nat.add_mod_right]⟩

/-- A word is the high half of its lane's value exactly where it stands at the second offset. -/
theorem privWord_high {k : VReg} {c : Ctx} {s : State} {accs : List LaneAcc}
    (haccs : accs.map (fun a => (a.lane, a.va)) = privsOf k c s) {a : LaneAcc} {i : Nat} (h : (a, i) ∈ accs.zipIdx) :
    (widthOf c.ty == 8 && i % 2 == 1) = !decide (a.va = privOf k c s a.lane) := by
  have hget : (privsOf k c s)[i]? = some (a.lane, a.va) := by
    rw [← haccs, List.getElem?_map, List.mem_zipIdx_iff_getElem?.mp h]
    rfl
  have hwidth : widthOf c.ty ≤ 4 ∨ widthOf c.ty = 8 := by
    unfold widthOf
    split <;> decide
  unfold privsOf at hget
  rcases hwidth with hw | hw
  · simp only [if_pos hw] at hget
    have hmem := List.mem_of_getElem? hget
    obtain ⟨l, -, hl⟩ := List.mem_flatMap.mp hmem
    obtain ⟨h1, h2⟩ := Prod.mk.inj (List.mem_singleton.mp hl)
    rw [h2, h1, decide_eq_true rfl, beq_false_of_ne (show widthOf c.ty ≠ 8 by omega)]
    rfl
  · simp only [hw, show ¬8 ≤ 4 by decide, if_false] at hget
    obtain ⟨l, hl⟩ := getElem?_pairs (fun l => (l, privOf k c s l)) (fun l => (l, privOf k c s l + 128)) _ i hget
    rw [hw]
    split at hl
    · next hodd =>
      obtain ⟨h1, h2⟩ := Prod.mk.inj hl
      rw [h2, h1, hodd, decide_eq_false (by omega)]
      rfl
    · next heven =>
      obtain ⟨h1, h2⟩ := Prod.mk.inj hl
      rw [h2, h1, decide_eq_true rfl, beq_false_of_ne (show i % 2 ≠ 1 from heven)]
      rfl

/-- What an STP's word enters in W(x). -/
def privWriteOf (d k : VReg) (c : Ctx) (s : State) (a : LaneAcc) (x : WriteRec) : Prop :=
  x.node = a.node ∧ x.agent = laneAgent c.gid a.lane ∧ x.addr = a.pa ∧ x.priv = true ∧ x.strong = false ∧
    x.done = false ∧ x.bytes = natLe (min (widthOf c.ty) 4)
      ((s.grp c.gid).rdT c.ty d.toNat a.lane / if a.va = privOf k c s a.lane then 1 else 2 ^ 32)

theorem privWrite_is {d k : VReg} {c : Ctx} {s u : State} {accs : List LaneAcc}
    (haccs : accs.map (fun a => (a.lane, a.va)) = privsOf k c s) {p : LaneAcc × Nat} (h : p ∈ accs.zipIdx) :
    privWriteOf d k c s p.1 (privWrite (s.grp c.gid) d c u p) := by
  refine ⟨rfl, rfl, rfl, rfl, rfl, rfl, ?_⟩
  unfold privWrite
  dsimp only
  rw [privWord_high haccs h]
  by_cases hva : p.1.va = privOf k c s p.1.lane
  · rw [decide_eq_true hva, if_pos hva, Nat.div_one]
    rfl
  · rw [decide_eq_false hva, if_neg hva]
    rfl

/-- The same for all the words that Shallot lets pass. -/
theorem privWrites_entered {d k : VReg} {c : Ctx} {s u : State} {accs : List LaneAcc}
    (haccs : accs.map (fun a => (a.lane, a.va)) = privsOf k c s) :
    ∃ ws, privWrites (s.grp c.gid) d c accs u = { u with ord := { u.ord with writes := ws ++ u.ord.writes } } ∧
      EnteredFor (privWriteOf d k c s) (accs.filter fun a => !u.foreign (u.asidOf (s.grp c.gid)) a.pa) ws := by
  obtain ⟨ws, hws, hlen, hall⟩ := foldl_addWrite (asid := fun u => u.asidOf (s.grp c.gid)) (pa := fun p : LaneAcc × Nat => p.1.pa)
    (f := fun u p => privWrite (s.grp c.gid) d c u p) (R := fun p x => p ∈ accs.zipIdx → privWriteOf d k c s p.1 x) (fun _ _ => rfl)
    (fun u p h => privWrite_is haccs h) accs.zipIdx u
  have hfilter : (accs.filter fun a => !u.foreign (u.asidOf (s.grp c.gid)) a.pa) =
      (accs.zipIdx.filter fun p => !u.foreign (u.asidOf (s.grp c.gid)) p.1.pa).map Prod.fst := by
    conv_lhs => rw [← List.zipIdx_map_fst 0 accs, List.filter_map]
    rfl
  refine ⟨ws, hws, ?_⟩
  rw [hfilter]
  refine ⟨hlen.trans (List.length_map _).symm, fun p hp => ?_⟩
  rw [List.zip_map_left] at hp
  obtain ⟨q, hq, rfl⟩ := List.mem_map.mp hp
  exact hall q hq (List.mem_filter.mp (List.of_mem_zip hq).1).1

/-- Settles O34: the two instructions' checks, then what each leaves. -/
theorem privateAccessesEnterTheirQueues : Obligations.PrivateAccessesEnterTheirQueues := by
  unfold Obligations.PrivateAccessesEnterTheirQueues
  intro r d k off ldp stp w size
  have hldp : Means ldp (ldpB d k) := .of_issues (exec_ldp d k) fun w => exec_ldpRadish w d k off
  have hstp : Means stp (stpB d k) := .of_issues (exec_stp d k) fun w => exec_stpRadish w d k off
  have hgo : ∀ x ∈ [ldp, stp], ∃ body, Means x body ∧ (∀ c s, c.act = 0 → body c s = .done s) ∧ ∀ c s, c.act ≠ 0 →
      (s.grp c.gid).loads.length < 63 → (s.grp c.gid).stores.length < 63 → ∃ acc go, body c s = withPriv c s acc k go := by
    intro x hx
    simp only [List.mem_cons, List.not_mem_nil, or_false] at hx
    obtain rfl | rfl := hx
    · exact ⟨_, hldp, fun c s h => if_pos h, fun c s hact hl _ => ⟨_, _, ldpB_go hact hl⟩⟩
    · exact ⟨_, hstp, fun c s h => if_pos h, fun c s hact _ hs => ⟨_, _, stpB_go hact hs⟩⟩
  refine ⟨fun x hx => ?_, hldp.waits fun c s h => ldpB_full h.1 h.2, hstp.waits fun c s h => stpB_full h.1 h.2,
    hldp.does fun c s _ h => ?_, hstp.does fun c s _ h => ?_⟩
  · obtain ⟨body, hm, hnone, hbody⟩ := hgo x hx
    refine ⟨hm.nothing fun c s h => hnone c s h, hm.traps fun c s h => ?_, hm.traps fun c s h => ?_⟩
    · obtain ⟨hl, hs, j, hj, hbit, hmis, hpass⟩ := h
      obtain ⟨acc, go, hb⟩ := hbody c s (ne_zero_of_lane hbit) hl hs
      rw [hb]
      exact withPriv_fault (lsFault_misaligned hj hbit hmis hpass)
    · obtain ⟨hl, hs, j, hj, hbit, hal, hout, hpass⟩ := h
      obtain ⟨acc, go, hb⟩ := hbody c s (ne_zero_of_lane hbit) hl hs
      rw [hb]
      exact withPriv_fault (lsFault_outside hj hbit hal hout hpass)
  · obtain ⟨hact, hroom, hoff, hpass⟩ := h
    obtain ⟨as_, hp, hacc⟩ := withAccs_pass hpass
    rw [ldpB_go hact hroom, withPriv_passes hoff, hacc]
    obtain ⟨h1, h2, h3, h4⟩ := pushLoad_leaves (m := c.act) (n := regsOf c.ty) (eventsOf_beside c s as_)
      (show ({ privLoad d c (eventsOf c s as_).2 with accs := (eventsOf c s as_).1 } : LoadOp).frag = c.fid from rfl) rfl
    exact ⟨_, h1, h2, h3, rfl, rfl, rfl, rfl, eventsOf_accesses hp, h4⟩
  · obtain ⟨hact, hroom, hoff, hpass⟩ := h
    obtain ⟨as_, hp, hacc⟩ := withAccs_pass hpass
    rw [stpB_go hact hroom, withPriv_passes hoff, hacc]
    have hb := eventsOf_beside c s as_
    have hf : (eventsOf c s as_).2.foreign = s.foreign := eventsFor_foreign c s as_ as_
    have hw : (eventsOf c s as_).2.ord.writes = s.ord.writes := eventsFor_writes c s as_ as_
    have haccs := eventsOf_accesses hp
    obtain ⟨ws, hws, hentered⟩ := privWrites_entered (d := d) (u := (eventsOf c s as_).2) haccs.1
    rw [hb.asidOf, hf] at hentered
    unfold stpGo
    dsimp only
    rw [hws]
    generalize (eventsOf c s as_).2 = u at hb hf hw hentered
    obtain ⟨h1, h2, h3, -⟩ := pushStore_leaves (m := c.act)
      (hb.trans (.of_ord (rfl : OrdOnly u { u with ord := { u.ord with writes := ws ++ u.ord.writes } })))
      (show ({ mkStore c { u with ord := { u.ord with writes := ws ++ u.ord.writes } } .store 0 0 with
        accs := (eventsOf c s as_).1 } : StoreOp).frag = c.fid from rfl)
    refine ⟨_, h1, h2, h3, rfl, rfl, haccs, ws, ?_, hentered⟩
    change ws ++ u.ord.writes = _
    rw [hw]

end Sys2Proof.Machine

/-! Proofs: fences, the default descriptor, the range instructions, PFETCH and LOCATE (R147, R152, R157 to R161). -/
namespace Sys2Proof.Machine

/-! ### Fences -/

/-- A group after a fence: the fences noted on its loads, and the numbers of its releases. -/
def fenced (g : Group) (ls : List LoadOp) (rel : Nat) (objs : List (Nat × Nat × Nat)) : Group :=
  { g with loads := ls, relSeq := rel, objRel := objs }

/-- A fence changes events and its group's notes of fences alone. -/
structure FenceLeaves (c : Ctx) (s t : State) (rel : Nat) : Prop where
  mem : t.mem = s.mem
  teams : t.teams = s.teams
  grp : ∃ ls objs, ls.length = (s.grp c.gid).loads.length ∧ t.grp c.gid = fenced (s.grp c.gid) ls rel objs

theorem FenceLeaves.start {c : Ctx} {s : State} (o : Ord) : FenceLeaves c s { s with ord := o } (s.grp c.gid).relSeq :=
  ⟨rfl, rfl, (s.grp c.gid).loads, (s.grp c.gid).objRel, rfl, rfl⟩

theorem FenceLeaves.loads {c : Ctx} {s t : State} {rel : Nat} (h : FenceLeaves c s t rel) (f : LoadOp → LoadOp) :
    FenceLeaves c s (t.modGrp c.gid fun g => { g with loads := g.loads.map f }) rel := by
  obtain ⟨hmem, hteams, ls, objs, hlen, hgrp⟩ := h
  refine ⟨hmem, hteams, ls.map f, objs, (List.length_map f).trans hlen, ?_⟩
  rw [grp_modGrp, hgrp]
  rfl

theorem FenceLeaves.release {c : Ctx} {s t : State} {rel : Nat} (h : FenceLeaves c s t rel) :
    FenceLeaves c s (t.modGrp c.gid fun g => { g with relSeq := g.seq }) (s.grp c.gid).seq := by
  obtain ⟨hmem, hteams, ls, objs, hlen, hgrp⟩ := h
  refine ⟨hmem, hteams, ls, objs, hlen, ?_⟩
  rw [grp_modGrp, hgrp]
  rfl

theorem FenceLeaves.objRelease {c : Ctx} {s t : State} {rel : Nat} (h : FenceLeaves c s t rel) (b : Nat × Nat) :
    FenceLeaves c s (t.modGrp c.gid fun g => { g with objRel := (g.seq, b.1, b.2) :: g.objRel }) rel := by
  obtain ⟨hmem, hteams, ls, objs, hlen, hgrp⟩ := h
  refine ⟨hmem, hteams, ls, ((s.grp c.gid).seq, b.1, b.2) :: objs, hlen, ?_⟩
  rw [grp_modGrp, hgrp]
  rfl

/-- The release that a fence of the whole memory leaves. -/
def relAfter (c : Ctx) (s : State) (o : Nat) (obj : Option (Nat × Nat)) : Nat :=
  if (o == 2 || o == 3) && obj.isNone then (s.grp c.gid).seq else (s.grp c.gid).relSeq

theorem fenceLanes_leaves (c : Ctx) (s : State) (sc o : Nat) (seq : Bool) (obj : Option (Nat × Nat)) :
    FenceLeaves c s (fenceLanes c s sc o seq obj) (relAfter c s o obj) := by
  unfold fenceLanes relAfter
  dsimp only
  generalize (lanesOf (c.own s)).foldl _ _ = r
  have hrel : FenceLeaves c s (if (o == 2 || o == 3) = true then State.modGrp { s with ord := r.2 } c.gid fun g => match obj with
      | none => { g with relSeq := g.seq }
      | some b => { g with objRel := (g.seq, b.1, b.2) :: g.objRel }
    else { s with ord := r.2 }) (if ((o == 2 || o == 3) && obj.isNone) = true then (s.grp c.gid).seq else (s.grp c.gid).relSeq) := by
    cases o == 2 || o == 3 with
    | false => exact .start _
    | true =>
      cases obj with
      | none => exact (FenceLeaves.start r.2).release
      | some b => exact (FenceLeaves.start r.2).objRelease b
  split
  · exact hrel.loads _
  · exact hrel

section Kept
variable {c : Ctx} {s t : State} {m : Lanes} {rel : Nat} (h : FenceLeaves c s t rel)
include h

theorem FenceLeaves.finished : WentOn c s (finish c m (.done t)) ∧
    (KeptAtIssue c s (finish c m (.done t)) ∧ ((finish c m (.done t)).grp c.gid).stores = (s.grp c.gid).stores ∧
      ((finish c m (.done t)).grp c.gid).pend = (s.grp c.gid).pend ∧
      ((finish c m (.done t)).grp c.gid).loads.length = (s.grp c.gid).loads.length) ∧
    ((finish c m (.done t)).grp c.gid).relSeq = rel := by
  obtain ⟨hmem, hteams, ls, objs, hlen, hgrp⟩ := h
  have hfin := finish_done_grp c m t
  rw [hgrp] at hfin
  refine ⟨wentOn_done c m (by rw [hgrp]; rfl), ⟨⟨?_, ?_, hmem, hteams⟩, ?_, ?_, ?_⟩, ?_⟩
  · rw [hfin]
    exact sameRegs_refl _
  · rw [hfin]
    exact sameSpecials_refl _
  · rw [hfin]
    rfl
  · rw [hfin]
    rfl
  · rw [hfin]
    exact hlen
  · rw [hfin]
    rfl

end Kept

/-- An instruction that does nothing keeps everything. -/
theorem nothing_finished (c : Ctx) (s : State) (m : Lanes) : WentOn c s (finish c m (.done s)) ∧
    (KeptAtIssue c s (finish c m (.done s)) ∧ ((finish c m (.done s)).grp c.gid).stores = (s.grp c.gid).stores ∧
      ((finish c m (.done s)).grp c.gid).pend = (s.grp c.gid).pend ∧
      ((finish c m (.done s)).grp c.gid).loads.length = (s.grp c.gid).loads.length) := by
  obtain ⟨h1, h2, -⟩ := (FenceLeaves.start (c := c) (s := s) s.ord).finished (m := m)
  exact ⟨h1, h2⟩

section Fences
variable {sc : BitVec 3} {o : BitVec 2} {seq : Bool} {b : BitVec 3} {c : Ctx} {s : State}

theorem fenceB_none (h : o = 0) : fenceB sc o seq c s = .done s := if_pos h

theorem fenceB_waits (ho : o ≠ 0) (hseq : seq = true) (h : (s.grp c.gid).loads ≠ [] ∨ (s.grp c.gid).stores ≠ []) :
    fenceB sc o seq c s = .wait s .release := by
  unfold fenceB
  dsimp only
  rw [if_neg ho, hseq]
  refine if_pos ?_
  rw [Bool.true_and, Bool.not_eq_true', Bool.and_eq_false_iff]
  exact h.imp (List.isEmpty_eq_false_iff.mpr ·) (List.isEmpty_eq_false_iff.mpr ·)

theorem fenceB_fences (ho : o ≠ 0) (h : seq = true → (s.grp c.gid).loads = [] ∧ (s.grp c.gid).stores = []) :
    fenceB sc o seq c s = .done (fenceLanes c s sc.toNat o.toNat seq none) := by
  unfold fenceB
  dsimp only
  rw [if_neg ho]
  refine if_neg fun hw => ?_
  rw [Bool.and_eq_true, Bool.not_eq_true'] at hw
  obtain ⟨hl, hs⟩ := h hw.1
  rw [hl, hs] at hw
  exact nomatch hw.2

theorem ofenceB_none (h : o = 0) : ofenceB sc o b c s = .done s := by
  unfold ofenceB
  dsimp only
  split
  · exact fenceB_none h
  · exact if_pos h

theorem ofenceB_fences (ho : o ≠ 0) : ∃ obj, ofenceB sc o b c s = .done (fenceLanes c s sc.toNat o.toNat false obj) := by
  unfold ofenceB
  dsimp only
  split
  · exact ⟨none, fenceB_fences ho nofun⟩
  · exact ⟨_, if_neg ho⟩

/-- The release of a fence by its order field. -/
theorem relAfter_none : relAfter c s o.toNat none = if o = 2 ∨ o = 3 then (s.grp c.gid).seq else (s.grp c.gid).relSeq := by
  have h : ((o.toNat == 2 || o.toNat == 3) && (none : Option (Nat × Nat)).isNone) = true ↔ o = 2 ∨ o = 3 := by
    rw [Option.isNone_none, Bool.and_true, Bool.or_eq_true, beq_iff_eq, beq_iff_eq, BitVec.toNat_eq, BitVec.toNat_eq]
    rfl
  unfold relAfter
  rw [if_congr h rfl rfl]

end Fences

/-! ### The default descriptor (R152) -/

theorem descOk_kinds (s : State) (l : Nat) (d : Word) : (descOk s l d = true → d.toNat / 2 ^ 29 ≤ 4) ∧
    (d.toNat / 2 ^ 29 = 0 → descOk s l d = decide (d = 0)) ∧
    (d.toNat / 2 ^ 29 = 1 → descOk s l d = decide (d.toNat % 2 ^ 29 < 256)) ∧
    (d.toNat / 2 ^ 29 = 3 → descOk s l d = decide (d.toNat / 2 ^ 25 % 16 = 0)) ∧
    (d.toNat / 2 ^ 29 = 4 → descOk s l d = decide (0 < d.toNat % 2 ^ 29 ∧ d.toNat % 2 ^ 29 < 16)) := by
  have hlt := d.isLt
  have hkind : descKind d = d.toNat / 2 ^ 29 := by
    unfold descKind bits
    omega
  unfold descOk
  dsimp only
  rw [hkind]
  refine ⟨fun h => ?_, fun h => ?_, fun h => ?_, fun h => ?_, fun h => ?_⟩
  · split at h
    · omega
    · omega
    · omega
    · omega
    · omega
    · exact nomatch h
  · rw [h]
    change (d.toNat == 0) = _
    rw [Bool.eq_iff_iff, beq_iff_eq, decide_eq_true_eq, BitVec.toNat_eq]
    rfl
  · rw [h]
    change (bits d.toNat 8 21 == 0) = _
    rw [Bool.eq_iff_iff, beq_iff_eq, decide_eq_true_eq]
    unfold bits
    omega
  · rw [h]
    change (bits d.toNat 25 4 == 0) = _
    rw [Bool.eq_iff_iff, beq_iff_eq, decide_eq_true_eq]
    unfold bits
    omega
  · rw [h]
    change (bits d.toNat 4 25 == 0 && descDies d != 0) = _
    rw [Bool.eq_iff_iff, Bool.and_eq_true, beq_iff_eq, bne_iff_ne, decide_eq_true_eq]
    unfold descDies bits
    omega

/-! ### Ranges, PFETCH and LOCATE -/

theorem means_rangeOps {r : Option (BitVec 13)} {n : SReg} {b : BitVec 3} {off : RImm} {x : Instr × Nat} (hx : rangeOps r n b off x) :
    Means x.1 (rangeB x.2 n b) := by
  unfold rangeOps at hx
  simp only [List.mem_cons, List.not_mem_nil, or_false] at hx
  obtain rfl | rfl | rfl | rfl := hx
  · exact .of_issues (exec_rflush n b) fun w => exec_rflushRadish w n b off
  · exact .of_issues (exec_rinv n b) fun w => exec_rinvRadish w n b off
  · exact .of_issues (exec_repark n b) fun w => exec_reparkRadish w n b off
  · exact .of_issues (exec_unpark n b) fun w => exec_unparkRadish w n b off

/-- The start of a range. -/
def rangeAddr (b : BitVec 3) (c : Ctx) (s : State) : Nat := (((s.grp c.gid).sreg64 (2 * b.toNat)).toNat + c.imm.toNat) % 2 ^ 64
/-- Its length. -/
def rangeLen (n : SReg) (c : Ctx) (s : State) : Nat := ((s.grp c.gid).sreg n.toNat).toNat

section Ranges
variable {rop : Nat} {n : SReg} {b : BitVec 3} {c : Ctx} {s : State}

theorem rangeB_eq : rangeB rop n b c s =
    (if c.em = 0 then .done s
    else if (s.grp c.gid).stores.length ≥ 63 then .wait s (.full 1)
    else if rangeLen n c s ≠ 0 ∧ rangeAddr b c s + rangeLen n c s > 2 ^ 57 then .fault s (fltA 6 0 (rangeAddr b c s))
    else if rangeLen n c s = 0 then .done s
    else .done (pushStore s c.gid (mkStore c s (.range rop (s.grp c.gid).rset (rangeAddr b c s) (rangeLen n c s)) 4 0))) := by
  unfold rangeB
  dsimp only
  rw [BitVec.toNat_add]
  rfl

theorem rangeB_empty (hroom : (s.grp c.gid).stores.length < 63) (h : rangeLen n c s = 0) : rangeB rop n b c s = .done s := by
  have hpast : ¬(rangeLen n c s ≠ 0 ∧ rangeAddr b c s + rangeLen n c s > 2 ^ 57) := fun hx => hx.1 h
  rw [rangeB_eq, if_neg (show ¬(s.grp c.gid).stores.length ≥ 63 by omega), if_neg hpast, if_pos h]
  exact ite_self _

theorem rangeB_past (hem : c.em ≠ 0) (hroom : (s.grp c.gid).stores.length < 63) (hlen : rangeLen n c s ≠ 0)
    (h : 2 ^ 57 < rangeAddr b c s + rangeLen n c s) : rangeB rop n b c s = .fault s (fltA 6 0 (rangeAddr b c s)) := by
  rw [rangeB_eq, if_neg hem, if_neg (by omega), if_pos ⟨hlen, h⟩]

theorem rangeB_enters (hem : c.em ≠ 0) (hroom : (s.grp c.gid).stores.length < 63) (hlen : rangeLen n c s ≠ 0)
    (h : rangeAddr b c s + rangeLen n c s ≤ 2 ^ 57) : rangeB rop n b c s =
      .done (pushStore s c.gid (mkStore c s (.range rop (s.grp c.gid).rset (rangeAddr b c s) (rangeLen n c s)) 4 0)) := by
  rw [rangeB_eq, if_neg hem, if_neg (by omega), if_neg (fun hx => Nat.not_lt.mpr h hx.2), if_neg hlen]

end Ranges

/-- A LOCATE once its lanes have passed. -/
def locateGo (c : Ctx) (s : State) (as_ : List (Nat × Nat × Nat × Nat × Nat)) : Act :=
  let u := noteAll s (s.asidOf (s.grp c.gid)) as_
  .done (pushLoad u c.gid { mkLoad c u .locate 4 0 none with accs := as_.map fun a => ⟨a.1, a.2.1, a.2.2.1, 0⟩ } 0)

section Prefetches
variable {k : VReg} {b : BitVec 3} {c : Ctx} {s : State}

theorem pfetchB_full (hem : c.em ≠ 0) (h : 63 ≤ (s.grp c.gid).loads.length) : pfetchB k b c s = .wait s (.full 0) :=
  (if_neg hem).trans (if_pos h)

theorem pfetchB_enters (hem : c.em ≠ 0) (h : (s.grp c.gid).loads.length < 63) :
    pfetchB k b c s = .done (pushLoad s c.gid (mkLoad c s .pfetch 4 0 none) 0) :=
  (if_neg hem).trans (if_neg (Nat.not_le.mpr h))

theorem locateB_full (hem : c.em ≠ 0) (h : 63 ≤ (s.grp c.gid).loads.length) : locateB k b c s = .wait s (.full 0) :=
  (if_neg hem).trans (if_pos h)

theorem locateB_go (hem : c.em ≠ 0) (h : (s.grp c.gid).loads.length < 63) :
    locateB k b c s = withLanes c s .read 1 c.em (eaOf k b c s) (locateGo c s) := by
  unfold locateB
  dsimp only
  rw [effAddr_eq]
  exact (if_neg hem).trans (if_neg (Nat.not_le.mpr h))

/-- The accesses of a LOCATE are those of its lanes. -/
theorem locate_accesses {xs : List (Nat × Nat)} {as_ : List (Nat × Nat × Nat × Nat × Nat)} (hp : Passed .read c s xs as_) :
    accessesAt .read xs c s (as_.map fun a => ⟨a.1, a.2.1, a.2.2.1, 0⟩) := by
  obtain ⟨rfl, hall⟩ := hp
  refine ⟨List.map_map, fun x hx => ?_⟩
  obtain ⟨a, ha, rfl⟩ := List.mem_map.mp hx
  exact ⟨_, _, hall a ha⟩

end Prefetches

/-- Settles O35: each instruction by its checks. -/
theorem fencesRangesAndReaderSets : Obligations.FencesRangesAndReaderSets := by
  unfold Obligations.FencesRangesAndReaderSets
  intro r k n sc o b off kept
  refine ⟨fun seq => ?_, ?_, ?_, descOk_kinds, fun x hx => ?_, fun x hx => ?_, ?_, ?_⟩
  · have hm : Means (both r (.fence sc o seq) fun w => .fenceRadish w sc o seq) (fenceB sc o seq) :=
      .of_issues (exec_fence sc o seq) fun w => exec_fenceRadish w sc o seq
    refine ⟨hm.nothing fun c s h => fenceB_none h, hm.waits fun c s h => fenceB_waits h.1 h.2.1 h.2.2, hm.does fun c s _ h => ?_⟩
    rw [fenceB_fences h.1 h.2]
    obtain ⟨h1, h2, h3⟩ := (fenceLanes_leaves c s sc.toNat o.toNat seq none).finished (m := c.act)
    exact ⟨h1, h2, h3.trans relAfter_none⟩
  · have hm : Means (both r (.ofence sc o b) fun w => .ofenceRadish w sc o b) (ofenceB sc o b) :=
      .of_issues (exec_ofence sc o b) fun w => exec_ofenceRadish w sc o b
    refine ⟨hm.nothing fun c s h => ofenceB_none h, hm.does fun c s _ h => ?_⟩
    obtain ⟨obj, hobj⟩ := ofenceB_fences (sc := sc) (b := b) (c := c) (s := s) h
    rw [hobj]
    obtain ⟨h1, h2, -⟩ := (fenceLanes_leaves c s sc.toNat o.toNat false obj).finished (m := c.act)
    exact ⟨h1, h2⟩
  · have hm : Means (both r (.srset n) fun w => .srsetRadish w n) (srsetB n) := .of_issues (exec_srset n) fun w => exec_srsetRadish w n
    refine ⟨hm.does fun c s _ h => ?_, hm.traps fun c s h => ?_⟩
    · rw [show srsetB n c s = .done (onGrp s c fun g => { g with rset := (s.grp c.gid).sreg n.toNat }) from if_pos h]
      have hgrp : (onGrp s c fun g => { g with rset := (s.grp c.gid).sreg n.toNat }).grp c.gid =
          { s.grp c.gid with rset := (s.grp c.gid).sreg n.toNat } := grp_modGrp _ _ _
      have hfin := finish_done_grp c c.act (onGrp s c fun g => { g with rset := (s.grp c.gid).sreg n.toNat })
      rw [hgrp] at hfin
      refine ⟨wentOn_done c c.act (by rw [hgrp]), ?_, ?_, ?_, ?_, rfl⟩
      · rw [hfin]
        rfl
      · rw [hfin]
        exact sameRegs_refl _
      · rw [hfin]
        rfl
      · rw [hfin]
        rfl
    · exact if_neg (by rw [h]; exact Bool.false_ne_true)
  · have hm := means_rangeOps hx
    refine ⟨hm.nothing fun c s h => if_pos h, hm.waits fun c s h => (if_neg h.1).trans (if_pos h.2), hm.does fun c s _ h => ?_,
      hm.traps fun c s h => rangeB_past h.1 h.2.1 h.2.2.1 h.2.2.2, hm.does fun c s _ h => ?_⟩
    · rw [rangeB_empty h.1 h.2]
      exact nothing_finished c s c.act
    · obtain ⟨hroom, hlen, hin, hem⟩ := h
      rw [rangeB_enters hem hroom hlen hin]
      obtain ⟨h1, h2, h3, h4⟩ := pushStore_leaves (m := c.act) (Beside.refl s)
        (show (mkStore c s (.range x.2 (s.grp c.gid).rset (rangeAddr b c s) (rangeLen n c s)) 4 0).frag = c.fid from rfl)
      exact ⟨_, h1, h2, h3, rfl, h4⟩
  · simp only [List.mem_cons, List.not_mem_nil, or_false] at hx
    obtain rfl | rfl := hx
    · have hm : Means (both r (.pfetch k b) fun w => .pfetchRadish w k b off) (pfetchB k b) :=
        .of_issues (exec_pfetch k b) fun w => exec_pfetchRadish w k b off
      exact ⟨hm.nothing fun c s h => if_pos h, hm.waits fun c s h => pfetchB_full h.1 h.2⟩
    · have hm : Means (both r (.locate k b) fun w => .locateRadish w k b off) (locateB k b) :=
        .of_issues (exec_locate k b) fun w => exec_locateRadish w k b off
      exact ⟨hm.nothing fun c s h => if_pos h, hm.waits fun c s h => locateB_full h.1 h.2⟩
  · have hm : Means (both r (.pfetch k b) fun w => .pfetchRadish w k b off) (pfetchB k b) :=
      .of_issues (exec_pfetch k b) fun w => exec_pfetchRadish w k b off
    refine hm.does fun c s _ h => ?_
    rw [pfetchB_enters h.1 h.2]
    obtain ⟨h1, h2, h3, h4⟩ := pushLoad_no_dst_leaves (m := c.act) (n := 0) (Beside.refl s)
      (show (mkLoad c s .pfetch 4 0 none).frag = c.fid from rfl) rfl
    exact ⟨_, h1, h2, h3, rfl, rfl, h4⟩
  · have hm : Means (both r (.locate k b) fun w => .locateRadish w k b off) (locateB k b) :=
      .of_issues (exec_locate k b) fun w => exec_locateRadish w k b off
    refine hm.does fun c s _ h => ?_
    obtain ⟨hem, hroom, hpass⟩ := h
    obtain ⟨as_, hp, hgo⟩ := withLanes_pass hpass
    rw [locateB_go hem hroom, hgo]
    obtain ⟨h1, h2, h3, h4⟩ := pushLoad_no_dst_leaves (m := c.act) (n := 0) (noteAll_beside s (s.asidOf (s.grp c.gid)) as_)
      (show ({ mkLoad c (noteAll s (s.asidOf (s.grp c.gid)) as_) .locate 4 0 none with
        accs := as_.map fun a => ⟨a.1, a.2.1, a.2.2.1, 0⟩ } : LoadOp).frag = c.fid from rfl) rfl
    exact ⟨_, h1, h2, h3, rfl, rfl, locate_accesses hp, h4⟩

end Sys2Proof.Machine

/-! Proofs: OBJDEF and OBJDEL hand over their request, the tile and heap instructions enter the tile queue (R163 to R166). -/
namespace Sys2Proof.Machine

/-! ### Objects -/

/-- A group that waits for the object table. -/
def askedFor (op : ObjOp) (g : Group) : Group := { g with obj := some op }

theorem object_asked {c : Ctx} {s u : State} (hc : AtIssue c s) (hb : Beside s u) (op : ObjOp) :
    AlsoWaits .object c (finish c c.act (.wait (u.modGrp c.gid (askedFor op)) .object)) ∧
      ((finish c c.act (.wait (u.modGrp c.gid (askedFor op)) .object)).grp c.gid).obj = some op ∧
      KeptAtIssue c s (finish c c.act (.wait (u.modGrp c.gid (askedFor op)) .object)) ∧
      (finish c c.act (.wait (u.modGrp c.gid (askedFor op)) .object)).objs = s.objs := by
  have hgrp : (u.modGrp c.gid (askedFor op)).grp c.gid = askedFor op (s.grp c.gid) := (grp_modGrp _ _ _).trans (congrArg _ (hb.grp c.gid))
  unfold AlsoWaits KeptAtIssue
  rw [finish_wait_grp, hgrp, await_frag]
  refine ⟨⟨rfl, hc.pc⟩, rfl, ⟨sameRegs_refl _, sameSpecials_refl _, hb.mem, ?_⟩, ?_⟩
  · change u.teams = s.teams
    rw [hb.eq]
  · change u.objs = s.objs
    rw [hb.eq]

theorem means_objdef (r : Option (BitVec 13)) (n : SReg) (b : BitVec 3) :
    Means (both r (.objdef n b) fun w => .objdefRadish w n b) (objdefB n b) := .of_issues (exec_objdef n b) fun w => exec_objdefRadish w n b

theorem means_objdel (r : Option (BitVec 13)) (n : SReg) : Means (both r (.objdel n) fun w => .objdelRadish w n) (objdelB n) :=
  .of_issues (exec_objdel n) fun w => exec_objdelRadish w n

section Objdef
variable {n : SReg} {b : BitVec 3} {c : Ctx} {s : State} (hem : c.em ≠ 0)
include hem

theorem objdefB_busy (h : (s.grp c.gid).obj.isSome = true) : objdefB n b c s = .wait s .object := (if_neg hem).trans (if_pos h)

theorem objdelB_busy (h : (s.grp c.gid).obj.isSome = true) : objdelB n c s = .wait s .object := (if_neg hem).trans (if_pos h)

variable (hobj : (s.grp c.gid).obj = none)
include hobj

theorem objdefB_acquire (h : recordWaits c s ((s.grp c.gid).sreg64 (2 * b.toNat)).toNat 128 = true) :
    objdefB n b c s = .wait s .acquire := by
  unfold objdefB
  dsimp only
  rw [if_neg hem, hobj]
  exact (if_neg nofun).trans (withRecord_waits h)

theorem objdefB_read {u : State} {rec : List Byte} (h : recordWaits c s ((s.grp c.gid).sreg64 (2 * b.toNat)).toNat 128 = false)
    (hr : readRecord c s ((s.grp c.gid).sreg64 (2 * b.toNat)).toNat 128 = .ok (u, rec)) :
    objdefB n b c s = (if field rec 10 1 = 4 then
        .fault (noteRecord c u ((s.grp c.gid).sreg64 (2 * b.toNat)).toNat 128) (fltA 6 2 ((s.grp c.gid).sreg64 (2 * b.toNat)).toNat)
      else if !shapeOk rec then .fault (noteRecord c u ((s.grp c.gid).sreg64 (2 * b.toNat)).toNat 128) (flt 1 4)
      else .wait ((noteRecord c u ((s.grp c.gid).sreg64 (2 * b.toNat)).toNat 128).modGrp c.gid
        (askedFor ⟨c.fid, false, n.toNat, 0, field rec 0 8, footOf rec, field rec 10 1, rec⟩)) .object) := by
  unfold objdefB
  dsimp only
  rw [if_neg hem, hobj]
  exact (if_neg nofun).trans (withRecord_reads h hr)

theorem objdelB_refused (h : ∀ o, afind ((s.grp c.gid).sreg n.toNat).toNat s.objs = some o → o.asid ≠ s.asidOf (s.grp c.gid)) :
    objdelB n c s = .fault s (flt 1 4) := by
  unfold objdelB
  dsimp only
  rw [if_neg hem, hobj]
  cases ho : afind ((s.grp c.gid).sreg n.toNat).toNat s.objs with
  | none => rfl
  | some o => exact if_pos (h o ho)

theorem objdelB_asks {o : Obj} (ho : afind ((s.grp c.gid).sreg n.toNat).toNat s.objs = some o) (hasid : o.asid = s.asidOf (s.grp c.gid)) :
    objdelB n c s = .wait (s.modGrp c.gid
      (askedFor ⟨c.fid, true, 0, ((s.grp c.gid).sreg n.toNat).toNat, o.base, o.foot, o.state, o.shape⟩)) .object := by
  unfold objdelB
  dsimp only
  rw [if_neg hem, hobj, ho]
  exact if_neg (not_not_intro hasid)

end Objdef

/-! ### The tile queue -/

/-- One tile operation more, with the scalar registers from d that it makes pending. -/
structure TileEntered (op va cnt : Nat) (dst : Option Nat) (c : Ctx) (s t : State) (d n : Nat) : Prop where
  tile : WentOn c s t ∧ KeptAtIssue c s t ∧ (t.grp c.gid).loads = (s.grp c.gid).loads ∧ (t.grp c.gid).stores = (s.grp c.gid).stores ∧
    ∃ q, (t.grp c.gid).tiles = (s.grp c.gid).tiles ++ [q] ∧ q.op = op ∧ q.va = va ∧ q.n = cnt ∧ q.dst = dst
  pend : PendingAlso 1 d n (s.grp c.gid) (t.grp c.gid)

theorem pushTile_enters {c : Ctx} {s u : State} {m : Lanes} {F : Group → Group} {h : Group} {q : TileOp} {d n : Nat} (hb : OrdOnly s u)
    (hF : F (s.grp c.gid) = { h with tiles := (s.grp c.gid).tiles ++ [q] }) (hp : PendOnly (s.grp c.gid) h)
    (hd : PendingAlso 1 d n (s.grp c.gid) h) :
    TileEntered q.op q.va q.n q.dst c s (finish c m (.done (u.modGrp c.gid F))) d n := by
  have hgrp : (u.modGrp c.gid F).grp c.gid = { h with tiles := (s.grp c.gid).tiles ++ [q] } := by
    rw [grp_modGrp, hb.grp, hF]
  have hfin := finish_done_grp c m (u.modGrp c.gid F)
  rw [hgrp] at hfin
  refine ⟨⟨wentOn_done c m (by rw [hgrp, hp.eq]), ⟨?_, ?_, hb.mem, hb.teams⟩, ?_, ?_, q, ?_, rfl, rfl, rfl, rfl⟩, ?_⟩
  · rw [hfin, hp.eq]
    exact sameRegs_refl _
  · rw [hfin, hp.eq]
    exact sameSpecials_refl _
  · rw [hfin, hp.eq]
    rfl
  · rw [hfin, hp.eq]
    rfl
  · rw [hfin]
    rfl
  · rw [hfin]
    exact hd

theorem pendingAlso_none (file d : Nat) (g : Group) : PendingAlso file d 0 g g := fun f r => ⟨.inl, fun h => h.elim id fun h => by omega⟩

theorem pendingAlso_one (d : Nat) (g : Group) : PendingAlso 1 d 1 g (g.addPend 1 d) := by
  intro f r
  rw [addPend_isPend]
  refine or_congr_right ⟨fun ⟨h1, h2, h3⟩ => ⟨h1, by omega⟩, fun ⟨h1, h2, h3, h4⟩ => ⟨h1, by omega, by omega⟩⟩

theorem pendingAlso_two (d : Nat) (g : Group) : PendingAlso 1 d 2 g ((g.addPend 1 d).addPend 1 (d + 1)) := by
  intro f r
  rw [addPend_isPend, addPend_isPend, or_assoc]
  refine or_congr_right ⟨fun h => ?_, fun ⟨h1, h2, h3, h4⟩ => ?_⟩
  · rcases h with ⟨h1, h2, h3⟩ | ⟨h1, h2, h3⟩ <;> exact ⟨h1, by omega⟩
  · by_cases hr : r = d
    · exact .inl ⟨h1, hr, by omega⟩
    · exact .inr ⟨h1, by omega, by omega⟩

/-- The address that a tile instruction names. -/
def tileAddr (b : BitVec 3) (c : Ctx) (s : State) : Nat := (((s.grp c.gid).sreg64 (2 * b.toNat)).toNat + c.imm.toNat) % 2 ^ 64
/-- Its count. -/
def tileCount (n : SReg) (c : Ctx) (s : State) : Nat := ((s.grp c.gid).sreg n.toNat).toNat

/-- The group with a tile operation more. -/
def tiled (top : Nat) (n : SReg) (b : BitVec 3) (c : Ctx) (s : State) (g : Group) : Group :=
  let h := if top = 0xC4 then g.addPend 1 n.toNat else g
  { h with tiles := h.tiles ++ [⟨top, tileAddr b c s, tileCount n c s, if top = 0xC4 then some n.toNat else none, (fragEvent c s []).1, h.seq,
    c.own (fragEvent c s []).2⟩] }

section Tiles
variable {top : Nat} {n : SReg} {b : BitVec 3} {c : Ctx} {s : State}

theorem tileB_eq : tileB top n b c s =
    (if c.em = 0 then .done s
    else if (s.grp c.gid).tiles.length ≥ 15 then .wait s (.full 2)
    else if tileAddr b c s % 65536 ≠ 0 then .fault s (fltA 5 0 (tileAddr b c s))
    else if tileAddr b c s ≥ 2 ^ 57 then .fault s (fltA 6 0 (tileAddr b c s))
    else if top ≠ 0xC4 ∧ (subTable s (s.asidOf (s.grp c.gid)) (tileAddr b c s)).isNone then .fault s (fltA 6 7 (tileAddr b c s))
    else if top ≠ 0xC4 ∧ tileCount n c s > 65535 then .fault s (flt 1 4)
    else .done ((fragEvent c s []).2.modGrp c.gid (tiled top n b c s))) := by
  unfold tileB
  dsimp only
  rw [BitVec.toNat_add]
  rfl

variable (hem : c.em ≠ 0) (hroom : (s.grp c.gid).tiles.length < 15)
include hem hroom

theorem tileB_misaligned (h : tileAddr b c s % 65536 ≠ 0) : tileB top n b c s = .fault s (fltA 5 0 (tileAddr b c s)) := by
  rw [tileB_eq, if_neg hem, if_neg (by omega), if_pos h]

theorem tileB_past (ha : tileAddr b c s % 65536 = 0) (h : 2 ^ 57 ≤ tileAddr b c s) :
    tileB top n b c s = .fault s (fltA 6 0 (tileAddr b c s)) := by
  rw [tileB_eq, if_neg hem, if_neg (by omega), if_neg (not_not_intro ha), if_pos h]

theorem tileB_no_table (ha : tileAddr b c s % 65536 = 0) (hin : tileAddr b c s < 2 ^ 57) (htop : top ≠ 0xC4)
    (h : subTable s (s.asidOf (s.grp c.gid)) (tileAddr b c s) = none) : tileB top n b c s = .fault s (fltA 6 7 (tileAddr b c s)) := by
  rw [tileB_eq, if_neg hem, if_neg (by omega), if_neg (not_not_intro ha), if_neg (by omega), if_pos ⟨htop, by rw [h]; rfl⟩]

theorem tileB_enters (ha : tileAddr b c s % 65536 = 0) (hin : tileAddr b c s < 2 ^ 57)
    (h : top ≠ 0xC4 → (subTable s (s.asidOf (s.grp c.gid)) (tileAddr b c s)).isSome = true ∧ tileCount n c s ≤ 65535) :
    tileB top n b c s = .done ((fragEvent c s []).2.modGrp c.gid (tiled top n b c s)) := by
  have htable : ¬(top ≠ 0xC4 ∧ (subTable s (s.asidOf (s.grp c.gid)) (tileAddr b c s)).isNone = true) := by
    rintro ⟨htop, hnone⟩
    have := (h htop).1
    rw [Option.isNone_iff_eq_none] at hnone
    rw [hnone] at this
    exact nomatch this
  have hcount : ¬(top ≠ 0xC4 ∧ tileCount n c s > 65535) := fun ⟨htop, hgt⟩ => Nat.not_lt.mpr (h htop).2 hgt
  rw [tileB_eq, if_neg hem, if_neg (by omega), if_neg (not_not_intro ha), if_neg (by omega), if_neg htable, if_neg hcount]

theorem allocB_refused (h : tileCount n c s = 0 ∨ 65536 < tileCount n c s) : allocB n c s = .fault s (flt 1 4) := by
  unfold allocB
  dsimp only
  exact (if_neg hem).trans ((if_neg (Nat.not_le.mpr hroom)).trans (if_pos h))

end Tiles

/-- The group with an ALLOC more. -/
def allocating (n : SReg) (c : Ctx) (s : State) (g : Group) : Group :=
  { (g.addPend 1 n.toNat).addPend 1 (n.toNat + 1) with
    tiles := g.tiles ++ [⟨0xC2, 0, tileCount n c s, some n.toNat, (fragEvent c s []).1, g.seq, c.own (fragEvent c s []).2⟩] }

/-- The group with a FREE more. -/
def freeing (n : SReg) (c : Ctx) (s : State) (g : Group) : Group :=
  { g with tiles := g.tiles ++ [⟨0xC3, (g.sreg64 n.toNat).toNat, 0, none, (fragEvent c s []).1, g.seq, c.own (fragEvent c s []).2⟩] }

section Heap
variable {n : SReg} {c : Ctx} {s : State} (hem : c.em ≠ 0) (hroom : (s.grp c.gid).tiles.length < 15)
include hem hroom

theorem allocB_enters (h0 : 0 < tileCount n c s) (h1 : tileCount n c s ≤ 65536) :
    allocB n c s = .done ((fragEvent c s []).2.modGrp c.gid (allocating n c s)) := by
  have hsize : ¬(tileCount n c s = 0 ∨ tileCount n c s > 65536) := by omega
  unfold allocB
  dsimp only
  exact (if_neg hem).trans ((if_neg (Nat.not_le.mpr hroom)).trans (if_neg hsize))

theorem freeB_enters : freeB n c s = .done ((fragEvent c s []).2.modGrp c.gid (freeing n c s)) := by
  unfold freeB
  dsimp only
  exact (if_neg hem).trans (if_neg (Nat.not_le.mpr hroom))

end Heap

theorem tiled_enters {top : Nat} {n : SReg} {b : BitVec 3} {c : Ctx} {s : State} (m : Lanes) :
    TileEntered top (tileAddr b c s) (tileCount n c s) (if top = 0xC4 then some n.toNat else none) c s
      (finish c m (.done ((fragEvent c s []).2.modGrp c.gid (tiled top n b c s)))) n.toNat (if top = 0xC4 then 1 else 0) := by
  by_cases htop : top = 0xC4
  · rw [if_pos htop, if_pos htop]
    have hF : tiled top n b c s (s.grp c.gid) = { (s.grp c.gid).addPend 1 n.toNat with
        tiles := (s.grp c.gid).tiles ++ [⟨top, tileAddr b c s, tileCount n c s, some n.toNat, (fragEvent c s []).1,
          ((s.grp c.gid).addPend 1 n.toNat).seq, c.own (fragEvent c s []).2⟩] } := by
      unfold tiled
      rw [if_pos htop, if_pos htop, (addPend_only (s.grp c.gid) 1 n.toNat).eq]
    exact pushTile_enters (fragEvent_ord c s []) hF (addPend_only _ _ _) (pendingAlso_one _ _)
  · rw [if_neg htop, if_neg htop]
    have hF : tiled top n b c s (s.grp c.gid) = { s.grp c.gid with
        tiles := (s.grp c.gid).tiles ++ [⟨top, tileAddr b c s, tileCount n c s, none, (fragEvent c s []).1,
          (s.grp c.gid).seq, c.own (fragEvent c s []).2⟩] } := by
      unfold tiled
      rw [if_neg htop, if_neg htop]
    exact pushTile_enters (fragEvent_ord c s []) hF rfl (pendingAlso_none _ _ _)

/-- Settles O36: objects, then tiles, then the heap, each by its checks. -/
theorem objectsTilesAndHeapAreRequested : Obligations.ObjectsTilesAndHeapAreRequested := by
  unfold Obligations.ObjectsTilesAndHeapAreRequested
  intro r n b off waitsFor
  refine ⟨?_, ?_, ?_⟩
  · have hm := means_objdef r n b
    refine ⟨hm.nothing fun c s h => if_pos h, hm.waits fun c s h => objdefB_busy h.1 h.2,
      hm.waits fun c s h => objdefB_acquire h.1 h.2.1 h.2.2, fun rec => ⟨hm.does fun c s hc h => ?_, hm.does fun c s hc h => ?_,
        hm.does fun c s hc h => ?_⟩⟩
    · obtain ⟨⟨hem, hobj, hw, u, hr⟩, h4⟩ := h
      rw [objdefB_read hem hobj hw hr, if_pos h4]
      refine ⟨u, hr, ?_, rfl⟩
      change (takeFault _ _ _ _ _).objs = _
      rw [(takeFault_only _ _ _ _ _).eq, (readRecord_beside hr).eq]
    · obtain ⟨⟨hem, hobj, hw, u, hr⟩, h4, hbad⟩ := h
      rw [objdefB_read hem hobj hw hr, if_neg h4, if_pos (by rw [hbad]; rfl)]
      refine ⟨u, hr, ?_, rfl⟩
      change (takeFault _ _ _ _ _).objs = _
      rw [(takeFault_only _ _ _ _ _).eq, (readRecord_beside hr).eq]
    · obtain ⟨⟨hem, hobj, hw, u, hr⟩, h4, hgood⟩ := h
      rw [objdefB_read hem hobj hw hr, if_neg h4, if_neg (by rw [hgood]; exact Bool.false_ne_true)]
      exact object_asked hc (readRecord_beside hr) _
  · have hm := means_objdel r n
    refine ⟨hm.nothing fun c s h => if_pos h, hm.waits fun c s h => objdelB_busy h.1 h.2,
      hm.traps fun c s h => objdelB_refused h.1 h.2.1 h.2.2, fun o => hm.does fun c s hc h => ?_⟩
    obtain ⟨hem, hobj, ho, hasid⟩ := h
    rw [objdelB_asks hem hobj ho hasid]
    exact object_asked hc (.refl s) _
  · intro tile addr cnt free all heap
    have htiles : ∀ x ∈ all, Means x.1 (tileB x.2 n b) := by
      intro x hx
      simp only [all, List.mem_cons, List.not_mem_nil, or_false] at hx
      obtain rfl | rfl | rfl := hx
      · exact .of_issues (exec_pcommit n b) fun w => exec_pcommitRadish w n b off
      · exact .of_issues (exec_pdecommit n b) fun w => exec_pdecommitRadish w n b off
      · exact .of_issues (exec_pquery n b) fun w => exec_pqueryRadish w n b off
    have halloc : Means (both r (.allocBlock n) fun w => .allocBlockRadish w n) (allocB n) :=
      .of_issues (exec_allocBlock n) fun w => exec_allocBlockRadish w n
    have hfree : Means (both r (.freeBlock n) fun w => .freeBlockRadish w n) (freeB n) :=
      .of_issues (exec_freeBlock n) fun w => exec_freeBlockRadish w n
    refine ⟨fun i hi => ?_, fun x hx => ?_, halloc.traps fun c s h => allocB_refused h.1.1 h.1.2 h.2, halloc.does fun c s _ h => ?_,
      hfree.does fun c s _ h => ?_⟩
    · rcases hi with hi | hi
      · obtain ⟨x, hx, rfl⟩ := List.mem_map.mp hi
        have hm := htiles x hx
        exact ⟨hm.nothing fun c s h => if_pos h, hm.waits fun c s h => (if_neg h.1).trans (if_pos h.2)⟩
      · simp only [heap, List.mem_cons, List.not_mem_nil, or_false] at hi
        obtain rfl | rfl := hi
        · exact ⟨halloc.nothing fun c s h => if_pos h, halloc.waits fun c s h => (if_neg h.1).trans (if_pos h.2)⟩
        · exact ⟨hfree.nothing fun c s h => if_pos h, hfree.waits fun c s h => (if_neg h.1).trans (if_pos h.2)⟩
    · have hm := htiles x hx
      refine ⟨hm.traps fun c s h => tileB_misaligned h.1.1 h.1.2 h.2, hm.traps fun c s h => tileB_past h.1.1 h.1.2 h.2.1 h.2.2,
        hm.traps fun c s h => tileB_no_table h.1.1 h.1.2 h.2.1 h.2.2.1 h.2.2.2.1 h.2.2.2.2, hm.does fun c s _ h => ?_⟩
      obtain ⟨⟨hem, hroom⟩, ha, hin, hcan⟩ := h
      rw [tileB_enters hem hroom ha hin hcan]
      obtain ⟨htile, hpend⟩ := tiled_enters (top := x.2) (n := n) (b := b) (c := c) (s := s) c.act
      exact ⟨htile, hpend⟩
    · obtain ⟨⟨hem, hroom⟩, h0, h1⟩ := h
      rw [allocB_enters hem hroom h0 h1]
      obtain ⟨htile, hpend⟩ := pushTile_enters (m := c.act) (fragEvent_ord c s []) (F := allocating n c s) rfl
        ((addPend_only _ 1 n.toNat).trans (addPend_only _ 1 (n.toNat + 1))) (pendingAlso_two _ _)
      exact ⟨htile, hpend⟩
    · obtain ⟨hem, hroom⟩ := h
      rw [freeB_enters hem hroom]
      obtain ⟨htile, hpend⟩ := pushTile_enters (m := c.act) (fragEvent_ord c s []) (F := freeing n c s) (h := s.grp c.gid) rfl rfl
        (pendingAlso_none 1 n.toNat _)
      exact ⟨htile, hpend⟩

end Sys2Proof.Machine

/-! Bytes of numbers, lanes of vector registers, and what a local-store write leaves of a window (R151, R220): shared by the local store and
the engines. -/
namespace Sys2Proof.Machine

/-! ### Numbers as bytes -/

theorem natLe_getElem? (n v i : Nat) (h : i < n) : (natLe n v)[i]? = some (BitVec.ofNat 8 (v / 2 ^ (8 * i))) := by
  induction n generalizing v i with
  | zero => exact nomatch h
  | succ n ih =>
    cases i with
    | zero => simp [natLe]
    | succ i =>
      rw [natLe, List.getElem?_cons_succ, ih _ _ (Nat.lt_of_succ_lt_succ h), Nat.div_div_eq_div_mul,
        show 256 * 2 ^ (8 * i) = 2 ^ (8 * (i + 1)) by rw [Nat.mul_succ, Nat.pow_add, Nat.mul_comm]]

theorem leNat_lt (bs : List Byte) : leNat bs < 2 ^ (8 * bs.length) := by
  induction bs with
  | nil => decide
  | cons b bs ih =>
    have hb : b.toNat < 256 := b.isLt
    rw [leNat, List.length_cons, Nat.mul_succ, Nat.pow_add]
    omega

theorem leNat_natLe (n v : Nat) : leNat (natLe n v) = v % 2 ^ (8 * n) := by
  induction n generalizing v with
  | zero => rw [Nat.mul_zero, Nat.pow_zero, Nat.mod_one]; rfl
  | succ n ih =>
    rw [natLe, leNat, ih, BitVec.toNat_ofNat, Nat.mul_succ, Nat.pow_add, Nat.mul_comm (2 ^ (8 * n)), Nat.mod_mul]

/-- Bytes that stand one by one as those of a number are that number. -/
theorem mread_eq_natLe {m : List Host.Cell} {a n v : Nat} (h : ∀ i < n, mget m (a + i) = BitVec.ofNat 8 (v / 2 ^ (8 * i))) :
    mread m a n = natLe n v := by
  refine List.ext_getElem? fun i => ?_
  rw [mread_eq]
  by_cases hi : i < n
  · rw [List.getElem?_map, List.getElem?_range hi, natLe_getElem? n v i hi, Option.map_some, h i hi]
  · rw [List.getElem?_eq_none (by rw [List.length_map, List.length_range]; omega), List.getElem?_eq_none (by rw [natLe_length]; omega)]

/-! ### Lanes of a vector register -/

section Vl
variable (g : Group) (r : Nat) (m : Lanes)

theorem vl_setV (f : Nat → Word) {l : Nat} (hl : l < 32) : (g.setV r m f).vl r l = if m.getLsbD l then f l else g.vl r l := by
  unfold Group.vl Group.vreg
  rw [Group.setV_v, aget_aset]
  unfold lanes
  rw [List.getD_eq_getElem?_getD, List.getElem?_map, List.getElem?_range hl]
  rfl

theorem vl_setV_ne (f : Nat → Word) {q l : Nat} (h : q ≠ r) : (g.setV r m f).vl q l = g.vl q l := by
  unfold Group.vl Group.vreg
  rw [Group.setV_v, aget_aset_ne _ h]

theorem vl_setV64_low (f : Nat → DWord) {l : Nat} (hl : l < 32) :
    (g.setV64 r m f).vl r l = if m.getLsbD l then (f l).extractLsb' 0 32 else g.vl r l := by
  unfold Group.setV64
  rw [vl_setV_ne _ _ _ _ (Nat.succ_ne_self r).symm, vl_setV _ _ _ _ hl]

theorem vl_setV64_high (f : Nat → DWord) {l : Nat} (hl : l < 32) :
    (g.setV64 r m f).vl (r + 1) l = if m.getLsbD l then (f l).extractLsb' 32 32 else g.vl (r + 1) l := by
  unfold Group.setV64
  rw [vl_setV _ _ _ _ hl, vl_setV_ne _ _ _ _ (Nat.succ_ne_self r)]

theorem vl_setV64_ne (f : Nat → DWord) {q l : Nat} (h : q ≠ r) (h1 : q ≠ r + 1) : (g.setV64 r m f).vl q l = g.vl q l := by
  unfold Group.setV64
  rw [vl_setV_ne _ _ _ _ h1, vl_setV_ne _ _ _ _ h]

end Vl

/-! ### Teams -/

theorem team_modTeam (s : State) (tid : Nat) (f : Team → Team) : (s.modTeam tid f).team tid = f (s.team tid) := aget_aput _ _ _ _

theorem team_modTeam_ne (s : State) {tid u : Nat} (h : u ≠ tid) (f : Team → Team) : (s.modTeam tid f).team u = s.team u :=
  aget_aput_ne _ h _ _

/-! ### One write of a window -/

/-- The ordering state and the teams alone have changed. -/
def TeamsOnly (s t : State) : Prop := t = { s with ord := t.ord, teams := t.teams }

namespace TeamsOnly

theorem refl (s : State) : TeamsOnly s s := rfl

theorem trans {s t u : State} (h : TeamsOnly s t) (k : TeamsOnly t u) : TeamsOnly s u := by
  unfold TeamsOnly at *
  rw [k, h]

theorem of_ord {s t : State} (h : OrdOnly s t) : TeamsOnly s t := by
  unfold TeamsOnly
  rw [h.eq]

variable {s t : State} (h : TeamsOnly s t)
include h

theorem eq : t = { s with ord := t.ord, teams := t.teams } := h
theorem mem : t.mem = s.mem := by rw [h.eq]
theorem groups : t.groups = s.groups := by rw [h.eq]
theorem grp (k : Nat) : t.grp k = s.grp k := by rw [h.eq]; rfl
theorem nextUnit : t.nextUnit = s.nextUnit := by rw [h.eq]

end TeamsOnly

/-- A team's window has become another, with its poison marks; the rest of it, and the other teams, are as they were. -/
structure WindowNow (tid : Nat) (win : List Host.Cell) (s t : State) : Prop where
  only : TeamsOnly s t
  here : t.team tid = { s.team tid with win := win, wpois := (t.team tid).wpois }
  others : ∀ u, u ≠ tid → t.team u = s.team u

namespace WindowNow
variable {tid : Nat} {win win' : List Host.Cell} {s t u : State}

theorem of_ord (h : OrdOnly s t) : WindowNow tid (s.team tid).win s t := ⟨.of_ord h, by rw [h.team], fun _ _ => h.team _⟩

theorem trans (h : WindowNow tid win s t) (k : WindowNow tid win' t u) : WindowNow tid win' s u :=
  ⟨h.only.trans k.only, by rw [k.here, h.here], fun v hv => (k.others v hv).trans (h.others v hv)⟩

theorem win_eq (h : WindowNow tid win s t) : (t.team tid).win = win := by rw [h.here]
theorem bbs (h : WindowNow tid win s t) : (t.team tid).bbs = (s.team tid).bbs := by rw [h.here]

end WindowNow

/-- The record of a local-store write. -/
def lsRecord (ag : Nat) (pl : Place) (tid o : Nat) (bytes : List Byte) (node : Nat) : WriteRec :=
  ⟨node, ag, pl, lsKey tid o, bytes, true, 1, false, false, [], none, [], [], false⟩

section Key
variable {tid o : Nat} (ho : o < 2 ^ 33)

theorem lsKey_sub (tid o : Nat) : lsKey tid o - 2 ^ 70 = 2 ^ 33 * tid + o := by
  rw [lsKey, Nat.add_assoc, Nat.add_sub_cancel_left, Nat.mul_comm]

theorem lsKey_ge (tid o : Nat) : ¬lsKey tid o < 2 ^ 70 := by
  rw [lsKey, Nat.add_assoc]
  exact Nat.not_lt.mpr (Nat.le_add_right _ _)

include ho

theorem lsKey_team : (lsKey tid o - 2 ^ 70) / 2 ^ 33 = tid := by
  rw [lsKey_sub, Nat.mul_add_div (Nat.two_pow_pos 33), Nat.div_eq_of_lt ho, Nat.add_zero]

theorem lsKey_off : (lsKey tid o - 2 ^ 70) % 2 ^ 33 = o := by
  rw [lsKey_sub, Nat.mul_add_mod, Nat.mod_eq_of_lt ho]

theorem pokes_lsKey (s : State) (bs : List Byte) :
    s.pokes (lsKey tid o) bs = s.modTeam tid fun t => { t with win := mwrite t.win o bs } := by
  unfold State.pokes
  rw [if_neg (lsKey_ge tid o), lsKey_team ho, lsKey_off ho]

end Key

theorem perform_first {s : State} {w : WriteRec} {ws : List WriteRec} (h : s.ord.writes = w :: ws) (hd : w.done = false) :
    s.perform w.node = { s.pokes w.addr w.bytes with ord := { (s.pokes w.addr w.bytes).ord with
      writes := { w with done := true, old := s.peeks w.addr w.bytes.length } :: ((s.pokes w.addr w.bytes).ord.writes.filter
        fun v => v.node != w.node || v.done) } } := by
  have hfind : s.ord.writes.find? (fun v => v.node == w.node && !v.done) = some w := by
    rw [h]
    exact List.find?_cons_of_pos (by rw [hd, beq_self_eq_true]; rfl)
  unfold State.perform
  rw [hfind]

theorem perform_lsRecord (s : State) (ag : Nat) (pl : Place) {tid o : Nat} (bytes : List Byte) (node : Nat) (ho : o < 2 ^ 33) :
    WindowNow tid (mwrite (s.team tid).win o bytes) s ((s.addWrite (lsRecord ag pl tid o bytes node)).perform node) := by
  have h := perform_first (s := s.addWrite (lsRecord ag pl tid o bytes node)) rfl rfl
  rw [show (lsRecord ag pl tid o bytes node).addr = lsKey tid o from rfl, show (lsRecord ag pl tid o bytes node).bytes = bytes from rfl,
    show (lsRecord ag pl tid o bytes node).node = node from rfl, pokes_lsKey ho] at h
  have hteam : ((s.addWrite (lsRecord ag pl tid o bytes node)).perform node).team tid =
      { s.team tid with win := mwrite (s.team tid).win o bytes } := by
    rw [h]
    exact aget_aput Team.empty tid _ s.teams
  refine ⟨by rw [h]; rfl, by rw [hteam], fun u hu => ?_⟩
  rw [h]
  exact aget_aput_ne Team.empty hu _ s.teams

theorem lsWriteAs_now (s : State) (ag : Nat) (pl : Place) {tid o : Nat} (bytes : List Byte) (node : Nat) (ho : o < 2 ^ 33) :
    WindowNow tid (mwrite (s.team tid).win o bytes) s (lsWriteAs s ag pl tid o bytes node) := by
  obtain ⟨honly, hhere, hothers⟩ := perform_lsRecord s ag pl (tid := tid) bytes node ho
  have hteam : (lsWriteAs s ag pl tid o bytes node).team tid = { ((s.addWrite (lsRecord ag pl tid o bytes node)).perform node).team tid with
      wpois := (((s.addWrite (lsRecord ag pl tid o bytes node)).perform node).team tid).wpois.filter
        fun x => !(o ≤ x * 4 && x * 4 + 4 ≤ o + bytes.length) } := team_modTeam _ _ _
  refine ⟨honly.trans rfl, ?_, fun u hu => (team_modTeam_ne _ hu _).trans (hothers u hu)⟩
  rw [hteam, hhere]

/-! ### Runs of cells -/

/-- What bytes at an offset leave of a window. -/
def overlay (o : Nat) (bs : List Byte) (f : Nat → Byte) (a : Nat) : Byte := if o ≤ a ∧ a < o + bs.length then bs.getD (a - o) 0 else f a

theorem mget_mwrite_overlay (m : List Host.Cell) (o : Nat) (bs : List Byte) : mget (mwrite m o bs) = overlay o bs (mget m) := by
  funext a
  rw [mget_mwrite, overlay]
  split
  case isTrue h => exact (List.getD_eq_getElem _ _ (by omega)).symm
  case isFalse h => rfl

theorem overlay_nil (o : Nat) (f : Nat → Byte) : overlay o [] f = f := by
  funext a
  exact if_neg (by simp)

theorem overlay_cons (o : Nat) (b : Byte) (bs : List Byte) (f : Nat → Byte) :
    overlay o (b :: bs) f = overlay (o + 1) bs (Function.update f o b) := by
  funext a
  unfold overlay
  by_cases h0 : a = o
  · subst h0
    rw [if_pos ⟨le_rfl, by rw [List.length_cons]; omega⟩, if_neg (by omega), Nat.sub_self, Function.update_self]
    rfl
  · by_cases h : o + 1 ≤ a ∧ a < o + 1 + bs.length
    · rw [if_pos h, if_pos (by rw [List.length_cons]; omega), show a - o = (a - (o + 1)) + 1 by omega]
      rfl
    · rw [if_neg h, if_neg (by rw [List.length_cons]; omega), Function.update_of_ne h0]

/-- Bytes of runs pass through a function of their offset before they are written. -/
def overlayRuns (adj : Nat → Byte → Byte) (rs : List (Nat × List Byte)) (f : Nat → Byte) : Nat → Byte :=
  rs.foldl (fun f r => overlay r.1 (r.2.zipIdx.map fun b => adj (r.1 + b.2) b.1) f) f

/-- The same, cell by cell. -/
def overlayCells (adj : Nat → Byte → Byte) (cs : List (Nat × Byte)) (f : Nat → Byte) : Nat → Byte :=
  cs.foldl (fun f c => Function.update f c.1 (adj c.1 c.2)) f

theorem zipIdx_adj_cons (adj : Nat → Byte → Byte) (k : Nat) (b : Byte) (bs : List Byte) :
    ((b :: bs).zipIdx.map fun x => adj (k + x.2) x.1) = adj k b :: (bs.zipIdx.map fun x => adj (k + 1 + x.2) x.1) := by
  rw [List.zipIdx_cons, List.map_cons, List.zipIdx_succ, List.map_map]
  refine congrArg (_ :: ·) (List.map_congr_left fun x _ => ?_)
  exact congrArg (adj · x.1) (by simp; omega)

theorem overlayRuns_runsOf (adj : Nat → Byte → Byte) (cs : List (Nat × Byte)) (f : Nat → Byte) :
    overlayRuns adj (runsOf cs) f = overlayCells adj cs f := by
  induction cs generalizing f with
  | nil => rfl
  | cons c cs ih =>
    obtain ⟨k, b⟩ := c
    have hstep : overlayRuns adj (runsOf ((k, b) :: cs)) f = overlayRuns adj (runsOf cs) (Function.update f k (adj k b)) := by
      have hone : overlay k ([b].zipIdx.map fun x => adj (k + x.2) x.1) f = Function.update f k (adj k b) := by
        rw [zipIdx_adj_cons, overlay_cons]
        exact overlay_nil _ _
      rw [runsOf]
      cases hr : runsOf cs with
      | nil => exact hone
      | cons r rs =>
        obtain ⟨k', bs⟩ := r
        dsimp only
        split
        case isTrue hk =>
          subst hk
          exact congrArg (overlayRuns adj rs) (by dsimp only; rw [zipIdx_adj_cons, overlay_cons])
        case isFalse => exact congrArg (overlayRuns adj ((k', bs) :: rs)) hone
    rw [hstep, ih]
    rfl

theorem overlayCells_absent (adj : Nat → Byte → Byte) {cs : List (Nat × Byte)} (f : Nat → Byte) {a : Nat} (h : ∀ c ∈ cs, c.1 ≠ a) :
    overlayCells adj cs f a = f a := by
  induction cs generalizing f with
  | nil => rfl
  | cons c cs ih =>
    exact (ih _ fun x hx => h x (List.mem_cons_of_mem _ hx)).trans (Function.update_of_ne (h c List.mem_cons_self).symm _ _)

theorem overlayCells_present (adj : Nat → Byte → Byte) {cs : List (Nat × Byte)} (hr : rising cs = true) (f : Nat → Byte) {a : Nat} {b : Byte}
    (h : (a, b) ∈ cs) : overlayCells adj cs f a = adj a b := by
  induction cs generalizing f with
  | nil => exact nomatch h
  | cons c cs ih =>
    obtain ⟨k, x⟩ := c
    obtain ⟨hbelow, hr⟩ := (rising_cons k x cs).mp hr
    rcases List.mem_cons.mp h with h | h
    · obtain ⟨rfl, rfl⟩ := Prod.mk.inj h
      exact (overlayCells_absent adj _ fun c hc => (Nat.ne_of_lt (hbelow c hc)).symm).trans (Function.update_self _ _ _)
    · exact ih hr _ h

theorem runsOf_starts {cs : List (Nat × Byte)} {r : Nat × List Byte} (h : r ∈ runsOf cs) : ∃ b, (r.1, b) ∈ cs := by
  induction cs generalizing r with
  | nil => exact nomatch h
  | cons c cs ih =>
    obtain ⟨k, b⟩ := c
    have hlater : ∀ q ∈ runsOf cs, ∃ b', (q.1, b') ∈ (k, b) :: cs := fun q hq =>
      (ih hq).imp fun _ hx => List.mem_cons_of_mem _ hx
    rw [runsOf] at h
    split at h
    case h_1 k' bs rs hr =>
      split at h
      · rcases List.mem_cons.mp h with rfl | h
        · exact ⟨b, List.mem_cons_self⟩
        · exact hlater r (by rw [hr]; exact List.mem_cons_of_mem _ h)
      · rcases List.mem_cons.mp h with rfl | h
        · exact ⟨b, List.mem_cons_self⟩
        · exact hlater r (by rw [hr]; exact h)
    case h_2 =>
      rw [List.mem_singleton.mp h]
      exact ⟨b, List.mem_cons_self⟩

end Sys2Proof.Machine

/-! What a read of a team's window finds (R151, R251), and the checks of an object in it (R168): shared by the local store and the engines. -/
namespace Sys2Proof.Machine

/-! ### The candidates of a byte that no write holds -/

/-- No write of the ordering state holds a byte of a window. -/
def byteSettled (s : State) (tid o : Nat) : Prop := ∀ w ∈ s.ord.writes, w.covers (lsKey tid o) = false

theorem candidates_none {s : State} {n agent : Nat} {b : ByteRef} {place : Place} {acq : Option Nat}
    (h : ∀ w ∈ s.ord.writes, w.covers b.key = false) : ∀ d ∈ candidates s n agent b place acq, d = none := by
  have hws : s.ord.writes.filter (fun w => w.covers b.key) = [] := List.filter_eq_nil_iff.mpr fun w hw => by rw [h w hw]; decide
  intro d hd
  unfold candidates at hd
  dsimp only at hd
  rw [hws] at hd
  rcases List.mem_append.mp hd with hd | hd
  · exact nomatch hd
  · split at hd
    · exact List.mem_singleton.mp hd
    · exact nomatch hd

/-- A candidate taken for a byte: one of its list, or the initial write where the list is empty. -/
def taken (d : Cand) (cs : List Cand) : Prop := d ∈ cs ∨ (cs = [] ∧ d = none)

theorem wholeFrom_takes (all : Bool) (l : List (Nat × List Cand)) : ∀ (got : List (Nat × List Cand × Cand)) (a : List Cand),
    a ∈ wholeFrom all got l → ∃ ds, a = (got.map (·.2.2)).reverse ++ ds ∧ List.Forall₂ (fun d p => taken d p.2) ds l := by
  induction l with
  | nil =>
    intro got a ha
    exact ⟨[], by rw [List.append_nil]; exact List.mem_singleton.mp ha, .nil⟩
  | cons p l ih =>
    obtain ⟨k, cs⟩ := p
    intro got a ha
    obtain ⟨d, hd, ha⟩ := List.mem_flatMap.mp ha
    split at ha
    · obtain ⟨ds, hds, hall⟩ := ih _ _ ha
      refine ⟨d :: ds, ?_, .cons (.inl hd) hall⟩
      rw [hds, List.map_cons, List.reverse_cons, List.append_assoc, List.singleton_append]
    · exact nomatch ha

theorem pickEach_takes (l : List (List Cand)) (ch : Nat) : List.Forall₂ taken (pickEach l ch).1 l := by
  induction l generalizing ch with
  | nil => exact .nil
  | cons cs l ih =>
    refine .cons ?_ (ih _)
    cases h : cs[ch % cs.length]? with
    | none =>
      refine .inr ⟨List.eq_nil_of_length_eq_zero ?_, rfl⟩
      have hle := List.getElem?_eq_none_iff.mp h
      rcases Nat.eq_zero_or_pos cs.length with h0 | hpos
      · exact h0
      · exact absurd (Nat.mod_lt ch hpos) (Nat.not_lt.mpr hle)
    | some d => exact .inl (List.mem_of_getElem? h)

theorem chooseGranule_takes {ks : List Nat} {cs : List (List Cand)} (h : ks.length = cs.length) (w : Whole) (ch : Nat) :
    List.Forall₂ taken (chooseGranule ks cs w ch).1 cs := by
  unfold chooseGranule
  dsimp only
  split
  case h_2 => exact pickEach_takes cs ch
  case h_1 a ha =>
    have hmem := List.mem_of_getElem? ha
    cases w with
    | bytes => exact nomatch hmem
    | strong | all =>
      obtain ⟨ds, rfl, hall⟩ := wholeFrom_takes _ _ _ _ hmem
      rw [← List.map_snd_zip (l₁ := ks) (l₂ := cs) h.ge]
      exact List.forall₂_map_right_iff.mpr hall

theorem granules_flatten (k n : Nat) : (granules k n).flatten = (List.range n).map (k + ·) := by
  unfold granules
  split
  · simp
  · rename_i hn
    obtain ⟨m, rfl⟩ := Nat.exists_eq_add_of_le (Nat.le_of_not_le hn)
    simp [List.range_add, Nat.add_assoc]

section LoadCands
variable (s : State) (node agent : Nat) (b : ByteRef) (place : Place) (acq : Option Nat) (strong : Bool)

/-- A byte with what was taken for it. -/
def takenAt (x : Nat × Cand) : Prop := taken x.2 (candidates s node agent ⟨x.1, b.va + (x.1 - b.key)⟩ place acq)

theorem granule_takes (ks : List Nat) (w : Whole) (ch : Nat) :
    let r := chooseGranule ks (ks.map fun x => candidates s node agent ⟨x, b.va + (x - b.key)⟩ place acq) w ch
    (List.zip ks r.1).map (·.1) = ks ∧ ∀ x ∈ List.zip ks r.1, takenAt s node agent b place acq x := by
  have h := chooseGranule_takes (ks := ks) (cs := ks.map fun x => candidates s node agent ⟨x, b.va + (x - b.key)⟩ place acq)
    (List.length_map _).symm w ch
  dsimp only
  generalize (chooseGranule ks _ w ch).1 = ds at h ⊢
  have h := List.forall₂_map_right_iff.mp h
  refine ⟨List.map_fst_zip (by rw [h.length_eq]), fun x hx => ?_⟩
  obtain ⟨k, d⟩ := x
  have hswap : (d, k) ∈ List.zip ds ks := by
    rw [← List.zip_swap]
    exact List.mem_map.mpr ⟨(k, d), hx, rfl⟩
  exact (List.forall₂_iff_zip.mp h).2 hswap

theorem loadCands_takes (n ch : Nat) :
    (loadCands s node agent b n place acq strong ch).1.map (·.1) = (List.range n).map (b.key + ·) ∧
      ∀ x ∈ (loadCands s node agent b n place acq strong ch).1, takenAt s node agent b place acq x := by
  rw [← granules_flatten]
  unfold loadCands
  dsimp only
  generalize granules b.key n = gs
  have key : ∀ acc : List (Nat × Cand) × Nat, (∀ x ∈ acc.1, takenAt s node agent b place acq x) →
      let r := gs.foldl (fun acc ks =>
        let r := chooseGranule ks (ks.map fun x => candidates s node agent ⟨x, b.va + (x - b.key)⟩ place acq)
          (if strong then .strong else .bytes) acc.2
        (acc.1 ++ List.zip ks r.1, r.2)) acc
      r.1.map (·.1) = acc.1.map (·.1) ++ gs.flatten ∧ ∀ x ∈ r.1, takenAt s node agent b place acq x := by
    induction gs with
    | nil => exact fun acc h => ⟨(List.append_nil _).symm, h⟩
    | cons ks gs ih =>
      intro acc h
      obtain ⟨hk, ht⟩ := granule_takes s node agent b place acq ks (if strong then .strong else .bytes) acc.2
      obtain ⟨h1, h2⟩ := ih (acc.1 ++ List.zip ks (chooseGranule ks (ks.map fun x => candidates s node agent ⟨x, b.va + (x - b.key)⟩ place acq)
          (if strong then .strong else .bytes) acc.2).1, _) fun x hx => (List.mem_append.mp hx).elim (h x) (ht x)
      refine ⟨h1.trans ?_, h2⟩
      rw [List.map_append, hk, List.append_assoc, List.flatten_cons]
  exact key ([], ch) fun x hx => nomatch hx

end LoadCands

/-! ### One read of a window -/

theorem peek_lsKey (s : State) {tid o : Nat} (ho : o < 2 ^ 33) : s.peek (lsKey tid o) = mget (s.team tid).win o := by
  unfold State.peek
  rw [if_neg (lsKey_ge tid o), lsKey_team ho, lsKey_off ho]

theorem candByte_settled {s : State} {tid o : Nat} (ho : o < 2 ^ 33) (h : byteSettled s tid o) :
    candByte s (lsKey tid o) none = mget (s.team tid).win o := by
  have hfirst : ∀ ws : List WriteRec, (∀ w ∈ ws, w.covers (lsKey tid o) = false) → ∀ a : Option WriteRec,
      ws.foldl (fun a w => if w.done && w.covers (lsKey tid o) then some w else a) a = a := by
    intro ws
    induction ws with
    | nil => exact fun _ _ => rfl
    | cons w ws ih =>
      intro hws a
      rw [List.foldl_cons, hws w (by simp), Bool.and_false]
      exact ih (fun v hv => hws v (by simp [hv])) a
  unfold candByte State.initByte
  dsimp only
  rw [hfirst _ h none]
  exact peek_lsKey s ho

/-- Bytes read at an offset of a window: as many as were asked for, and those that no write holds are what stands there. -/
def WindowRead (s : State) (tid o n : Nat) (bs : List Byte) : Prop :=
  bs.length = n ∧ ∀ i < n, o + i < 2 ^ 33 → byteSettled s tid (o + i) → bs[i]? = some (mget (s.team tid).win (o + i))

/-- The state after reads: the ordering state alone has changed, and no write of it. -/
def ReadsOnly (s t : State) : Prop := OrdOnly s t ∧ t.ord.writes = s.ord.writes

theorem ReadsOnly.refl (s : State) : ReadsOnly s s := ⟨.refl s, rfl⟩

theorem ReadsOnly.trans {s t u : State} (h : ReadsOnly s t) (k : ReadsOnly t u) : ReadsOnly s u := ⟨h.1.trans k.1, k.2.trans h.2⟩

theorem ReadsOnly.windowRead {s t : State} (h : ReadsOnly s t) {tid o n : Nat} {bs : List Byte} (hr : WindowRead t tid o n bs) :
    WindowRead s tid o n bs :=
  ⟨hr.1, fun i hi ho hs => (hr.2 i hi ho (by unfold byteSettled; rw [h.2]; exact hs)).trans (by rw [h.1.team])⟩

theorem fragEvent_reads (c : Ctx) (s : State) (more : List Nat) : ReadsOnly s (fragEvent c s more).2 := by
  have key : ∀ (ags : List Nat) (n : Nat) (o : Ord),
      (ags.foldl (fun o a => o.setAg a { o.ag a with at_ := some n }) o).writes = o.writes := by
    intro ags n
    induction ags with
    | nil => exact fun _ => rfl
    | cons a ags ih => exact fun o => ih _
  exact ⟨fragEvent_ord c s more, key _ _ _⟩

section Read
variable (s : State) (gid l tid o w ch node : Nat)

theorem lsRead_reads : ReadsOnly s (lsRead s gid l tid o w ch node).1 := ⟨returnLoad_ord .., rfl⟩

theorem lsRead_finds : WindowRead s tid o w (lsRead s gid l tid o w ch node).2 := by
  obtain ⟨hkeys, htaken⟩ := loadCands_takes s node (laneAgent gid l) (winRef tid o) (s.placeOf gid) none true w ch
  have hgot : (lsRead s gid l tid o w ch node).2 =
      (loadCands s node (laneAgent gid l) (winRef tid o) w (s.placeOf gid) none true ch).1.map fun x => candByte s x.1 x.2 := rfl
  generalize (loadCands s node (laneAgent gid l) (winRef tid o) w (s.placeOf gid) none true ch).1 = got at *
  have hlen : got.length = w := by
    have := congrArg List.length hkeys
    rwa [List.length_map, List.length_map, List.length_range] at this
  rw [hgot]
  refine ⟨by rw [List.length_map, hlen], fun i hi ho hset => ?_⟩
  have hi' : i < got.length := hlen ▸ hi
  have hkey : got[i].1 = lsKey tid (o + i) := by
    have h : (got.map (·.1))[i]? = ((List.range w).map ((winRef tid o).key + ·))[i]? := by rw [hkeys]
    rw [List.getElem?_map, List.getElem?_map, List.getElem?_eq_getElem hi', List.getElem?_range hi] at h
    exact (Option.some.inj h).trans (Nat.add_assoc _ _ _)
  have hnone : got[i].2 = none := by
    rcases htaken _ (List.getElem_mem hi') with h | h
    · exact candidates_none (by rw [hkey]; exact hset) _ h
    · exact h.2
  rw [List.getElem?_map, List.getElem?_eq_getElem hi', Option.map_some, hkey, hnone, candByte_settled ho hset]

end Read

/-! ### A range read word by word -/

theorem WindowRead.append {s : State} {tid o n m : Nat} {bs cs : List Byte} (h : WindowRead s tid o n bs)
    (k : WindowRead s tid (o + n) m cs) : WindowRead s tid o (n + m) (bs ++ cs) := by
  refine ⟨by rw [List.length_append, h.1, k.1], fun i hi ho hs => ?_⟩
  by_cases hin : i < n
  · rw [List.getElem?_append_left (by rw [h.1]; exact hin)]
    exact h.2 i hin ho hs
  · have hoff : o + n + (i - n) = o + i := by omega
    rw [List.getElem?_append_right (by rw [h.1]; omega), h.1, k.2 (i - n) (by omega) (by omega) (by rw [hoff]; exact hs), hoff]

theorem WindowRead.part {s : State} {tid o w d n : Nat} {bs : List Byte} (h : WindowRead s tid o w bs) (hn : d + n ≤ w) :
    WindowRead s tid (o + d) n ((bs.drop d).take n) := by
  refine ⟨by rw [List.length_take, List.length_drop, h.1]; omega, fun i hi ho hs => ?_⟩
  have hoff : o + d + i = o + (d + i) := by omega
  rw [List.getElem?_take_of_lt hi, List.getElem?_drop, h.2 (d + i) (by omega) (by omega) (by rw [← hoff]; exact hs), hoff]

theorem WindowRead.all {s : State} {tid o n : Nat} {bs : List Byte} (h : WindowRead s tid o n bs) (ho : o + n ≤ 2 ^ 33)
    (hs : ∀ i < n, byteSettled s tid (o + i)) : bs = mread (s.team tid).win o n := by
  refine List.ext_getElem? fun i => ?_
  rw [mread_eq]
  by_cases hi : i < n
  · rw [h.2 i hi (by omega) (hs i hi), List.getElem?_map, List.getElem?_range hi]
    rfl
  · rw [List.getElem?_eq_none (by rw [h.1]; omega), List.getElem?_eq_none (by rw [List.length_map, List.length_range]; omega)]

theorem byteSettled_of_window {s : State} {tid off n i : Nat} (h : windowSettled tid off n s) (hi : i < n) : byteSettled s tid (off + i) := by
  intro w hw
  have hk : lsKey tid (off + i) = lsKey tid off + i := (Nat.add_assoc _ _ _).symm
  have hapart := h w hw
  rw [hk, WriteRec.covers, Bool.and_eq_false_iff, decide_eq_false_iff_not, decide_eq_false_iff_not]
  omega

/-- One part of `lsBytes`: its aligned word is read, and the part of it taken. -/
def partStep (c : Ctx) (fresh gid tid node : Nat) (p : State × List Byte) (x : Nat × Nat) : State × List Byte :=
  ((lsRead p.1 gid ((lanesOf c.em).headD 0) tid (x.1 / 4 * 4) 4 (Config.free fresh 0 (x.1 / 4)) node).1,
    p.2 ++ ((lsRead p.1 gid ((lanesOf c.em).headD 0) tid (x.1 / 4 * 4) 4 (Config.free fresh 0 (x.1 / 4)) node).2.drop (x.1 - x.1 / 4 * 4)).take x.2)

theorem lsBytes_eq (c : Ctx) (s : State) (off n node : Nat) :
    lsBytes c s off n node = (partsOf 4 off n).foldl (partStep c s.fresh c.gid (s.grp c.gid).team node) (s, []) := rfl

theorem partStep_finds {c : Ctx} {fresh gid tid node : Nat} {s : State} {p : State × List Byte} {o m : Nat} {x : Nat × Nat} (hp : ReadsOnly s p.1)
    (hr : WindowRead s tid o m p.2) (hx : x.1 = o + m) (hin : x.1 + x.2 ≤ x.1 / 4 * 4 + 4) :
    ReadsOnly s (partStep c fresh gid tid node p x).1 ∧ WindowRead s tid o (m + x.2) (partStep c fresh gid tid node p x).2 := by
  have hword := lsRead_finds p.1 gid ((lanesOf c.em).headD 0) tid (x.1 / 4 * 4) 4 (Config.free fresh 0 (x.1 / 4)) node
  refine ⟨hp.trans (lsRead_reads ..), hr.append ?_⟩
  have hpart := hp.windowRead (hword.part (d := x.1 - x.1 / 4 * 4) (n := x.2) (by omega))
  rw [show x.1 / 4 * 4 + (x.1 - x.1 / 4 * 4) = o + m by omega] at hpart
  exact hpart

theorem lsBytes_finds (c : Ctx) (s : State) (off n node : Nat) :
    ReadsOnly s (lsBytes c s off n node).1 ∧ WindowRead s (s.grp c.gid).team off n (lsBytes c s off n node).2 := by
  rw [lsBytes_eq]
  unfold partsOf
  split
  case isTrue h => exact ⟨.refl s, by rw [h]; rfl, fun i hi => by omega⟩
  case isFalse h =>
    have key : ∀ k ≤ (off + n - 1) / 4 - off / 4 + 1,
        let r := ((List.range k).map fun i => (max off ((off / 4 + i) * 4), min (off + n) ((off / 4 + i) * 4 + 4) - max off ((off / 4 + i) * 4))).foldl
          (partStep c s.fresh c.gid (s.grp c.gid).team node) (s, [])
        ReadsOnly s r.1 ∧ WindowRead s (s.grp c.gid).team off (if k = 0 then 0 else min (off + n) ((off / 4 + k) * 4) - off) r.2 := by
      intro k
      induction k with
      | zero => exact fun _ => ⟨.refl s, rfl, fun i hi => by simp at hi⟩
      | succ k ih =>
        intro hk
        obtain ⟨h1, h2⟩ := ih (by omega)
        rw [List.range_succ, List.map_append, List.foldl_append]
        have hstep := partStep_finds (c := c) (fresh := s.fresh) (gid := c.gid) (node := node)
          (x := (max off ((off / 4 + k) * 4), min (off + n) ((off / 4 + k) * 4 + 4) - max off ((off / 4 + k) * 4))) h1 h2
          (by dsimp only; split <;> omega) (by dsimp only; omega)
        refine ⟨hstep.1, ?_⟩
        have hlen : (if k + 1 = 0 then 0 else min (off + n) ((off / 4 + (k + 1)) * 4) - off) = (if k = 0 then 0 else
            min (off + n) ((off / 4 + k) * 4) - off) + (min (off + n) ((off / 4 + k) * 4 + 4) - max off ((off / 4 + k) * 4)) := by
          rw [if_neg (Nat.succ_ne_zero k)]
          split <;> omega
        rw [hlen]
        exact hstep.2
    have := key ((off + n - 1) / 4 - off / 4 + 1) le_rfl
    dsimp only at this
    rw [if_neg (Nat.succ_ne_zero _), show min (off + n) ((off / 4 + ((off + n - 1) / 4 - off / 4 + 1)) * 4) - off = n by omega] at this
    exact this

/-! ### The checks of an object (R168) -/

section Objects
variable {c : Ctx} {s : State} {off n al : Nat}

theorem objFault_none (h : objectFits off n al c s) : objFault c s (s.grp c.gid).team off n al = none := by
  obtain ⟨ha, hin⟩ := h
  unfold objFault
  rw [if_neg (not_not_intro ha)]
  exact if_neg (Nat.not_lt.mpr hin)

theorem objFault_misaligned {tid : Nat} (h : off % al ≠ 0) : objFault c s tid off n al = some (fltL 5 0 off false (leaderMask c)) := if_pos h

theorem objFault_outside (h : off % al = 0) (hout : (winOf c s).winSize < off + n) :
    objFault c s (s.grp c.gid).team off n al = some (fltL 6 8 off false (leaderMask c)) :=
  (if_neg (not_not_intro h)).trans (if_pos hout)

theorem withObj_passes {k : Act} (h : objectPasses off n al c s) : withObj c s off n al k = k := by
  obtain ⟨hfits, hclean⟩ := h
  unfold withObj
  dsimp only
  rw [objFault_none hfits]
  exact if_neg (by rw [show winPois (s.team (s.grp c.gid).team) off n = false from hclean]; decide)

theorem withObj_misaligned {k : Act} (h : off % al ≠ 0) : withObj c s off n al k = .fault s (fltL 5 0 off false (leaderMask c)) := by
  unfold withObj
  dsimp only
  rw [objFault_misaligned h]

theorem withObj_outside {k : Act} (h : off % al = 0) (hout : (winOf c s).winSize < off + n) :
    withObj c s off n al k = .fault s (fltL 6 8 off false (leaderMask c)) := by
  unfold withObj
  dsimp only
  rw [objFault_outside h hout]

theorem withObj_poisoned {k : Act} (h : objectFits off n al c s) (hp : winPois (winOf c s) off n = true) :
    withObj c s off n al k = .fault s (flt 15 1) := by
  unfold withObj
  dsimp only
  rw [objFault_none h]
  exact if_pos hp

end Objects

theorem engineB_acts {c : Ctx} {s : State} {k : State → Act} (h : acts c) : engineB c s k = k s := if_neg h

theorem engineB_nothing {c : Ctx} {s : State} {k : State → Act} (h : ¬acts c) : engineB c s k = .done s := if_pos (not_not.mp h)

end Sys2Proof.Machine

/-! O40: a scale batch is read from the window and stands behind the others of its FIFO (R182). -/
namespace Sys2Proof.Machine

theorem means_spush (r : Option (BitVec 13)) (a b : SReg) :
    Means (both r (.spush a b) fun w => .spushRadish w a b) (spushB a b) := .of_issues (exec_spush a b) fun w => exec_spushRadish w a b

/-- The FIFO that a control word names. -/
def toSb (a : SReg) (c : Ctx) (s : State) : Bool := bits (sIn a c s) 16 1 == 1
/-- The number of its bytes. -/
def batchLen (a : SReg) (c : Ctx) (s : State) : Nat := sIn a c s / 2 ^ 17 % 2 ^ 11

/-- The state that has read the batch's bytes. -/
def batchRead (a b : SReg) (c : Ctx) (s : State) : State × List Byte :=
  lsBytes c (fragEvent c s []).2 (sIn b c s) (batchLen a c s) (fragEvent c s []).1

/-- The state with the batch in its FIFO. -/
def batchPushed (a b : SReg) (c : Ctx) (s : State) : State :=
  pushBatch { (batchRead a b c s).1 with fresh := (batchRead a b c s).1.fresh + 1 } (teamIn c s) (toSb a c s)
    ⟨bits (sIn a c s) 0 16, (batchRead a b c s).2⟩

theorem toSb_eq (a : SReg) (c : Ctx) (s : State) : toSb a c s = (sIn a c s).testBit 16 := by
  rw [Nat.testBit_eq_decide_div_mod_eq]
  rfl

/-- A control word that passes R182's checks. -/
def batchLegal (a : SReg) (c : Ctx) (s : State) : Prop := sIn a c s < 2 ^ 28 ∧ 1 ≤ batchLen a c s ∧ batchLen a c s ≤ 1024

theorem batchLegal_iff (a : SReg) (c : Ctx) (s : State) :
    ¬(bits (sIn a c s) 28 4 ≠ 0 ∨ batchLen a c s = 0 ∨ batchLen a c s > 1024) ↔ batchLegal a c s := by
  have hw : sIn a c s < 2 ^ 32 := ((s.grp c.gid).sreg a.toNat).isLt
  unfold batchLegal bits
  omega

section Spush
variable {a b : SReg} {c : Ctx} {s : State} (hem : acts c)
include hem

theorem spushB_no_stream (h : (winOf c s).stream = none) : spushB a b c s = .fault s (flt 3 3) := by
  unfold spushB
  rw [engineB_acts hem]
  exact if_pos (by rw [Option.isNone_iff_eq_none]; exact h)

variable (hx : (winOf c s).stream ≠ none)
include hx

theorem spushB_stream : spushB a b c s =
    if bits (sIn a c s) 28 4 ≠ 0 ∨ batchLen a c s = 0 ∨ batchLen a c s > 1024 then .fault s (flt 1 4)
    else withObj c s (sIn b c s) (batchLen a c s) 1
      (if fifoFull s (teamIn c s) (toSb a c s) || scaleBusy s c.gid (toSb a c s) then .wait s (.fifo (toSb a c s))
       else .done (batchPushed a b c s)) := by
  unfold spushB
  rw [engineB_acts hem]
  exact if_neg (by rw [Option.isNone_iff_eq_none]; exact hx)

theorem spushB_illegal (h : ¬batchLegal a c s) : spushB a b c s = .fault s (flt 1 4) := by
  rw [spushB_stream hem hx]
  exact if_pos (by rw [← batchLegal_iff] at h; exact not_not.mp h)

variable (hl : batchLegal a c s)
include hl

theorem spushB_legal : spushB a b c s = withObj c s (sIn b c s) (batchLen a c s) 1
    (if fifoFull s (teamIn c s) (toSb a c s) || scaleBusy s c.gid (toSb a c s) then .wait s (.fifo (toSb a c s))
     else .done (batchPushed a b c s)) := by
  rw [spushB_stream hem hx]
  exact if_neg ((batchLegal_iff a c s).mpr hl)

variable (hp : objectPasses (sIn b c s) (batchLen a c s) 1 c s)
include hp

theorem spushB_waits (h : fifoFull s (teamIn c s) (toSb a c s) = true ∨ scaleBusy s c.gid (toSb a c s) = true) :
    spushB a b c s = .wait s (.fifo (toSb a c s)) := by
  rw [spushB_legal hem hx hl, withObj_passes hp]
  exact if_pos (by simpa using h)

theorem spushB_pushes (h : ¬(fifoFull s (teamIn c s) (toSb a c s) = true ∨ scaleBusy s c.gid (toSb a c s) = true)) :
    spushB a b c s = .done (batchPushed a b c s) := by
  rw [spushB_legal hem hx hl, withObj_passes hp]
  exact if_neg (by simpa using h)

end Spush

theorem pushBatch_leaves (s : State) (tid : Nat) (sb : Bool) (q : Batch) :
    (pushBatch s tid sb q).mem = s.mem ∧ (pushBatch s tid sb q).groups = s.groups ∧ (∀ u, u ≠ tid → (pushBatch s tid sb q).team u = s.team u) ∧
    ((pushBatch s tid sb q).str tid).sa = (s.str tid).sa ++ (if sb then [] else [q]) ∧
    ((pushBatch s tid sb q).str tid).sb = (s.str tid).sb ++ (if sb then [q] else []) := by
  have hstr : (pushBatch s tid sb q).str tid =
      (if sb then { s.str tid with sb := (s.str tid).sb ++ [q] } else { s.str tid with sa := (s.str tid).sa ++ [q] }) := by
    unfold State.str pushBatch State.setStr
    rw [team_modTeam]
    rfl
  refine ⟨rfl, rfl, fun u hu => team_modTeam_ne s hu _, ?_⟩
  rw [hstr]
  cases sb
  · exact ⟨rfl, (List.append_nil _).symm⟩
  · exact ⟨(List.append_nil _).symm, rfl⟩

/-- What SPUSH leaves where its batch enters. -/
theorem batchPushed_leaves (a b : SReg) (c : Ctx) (s : State) (m : Lanes) :
    let t := finish c m (.done (batchPushed a b c s))
    WentOn c s t ∧ EngineKept c s t ∧ ∃ q : Batch, q.tag = sIn a c s % 2 ^ 16 ∧ q.bytes.length = batchLen a c s ∧
      (t.str (teamIn c s)).sa = (s.str (teamIn c s)).sa ++ (if toSb a c s then [] else [q]) ∧
      (t.str (teamIn c s)).sb = (s.str (teamIn c s)).sb ++ (if toSb a c s then [q] else []) ∧
      (windowSettled (teamIn c s) (sIn b c s) (batchLen a c s) s → q.bytes = mread (winOf c s).win (sIn b c s) (batchLen a c s)) := by
  have hev := fragEvent_reads c s []
  obtain ⟨hread, hbytes⟩ := lsBytes_finds c (fragEvent c s []).2 (sIn b c s) (batchLen a c s) (fragEvent c s []).1
  have hu := hev.trans hread
  rw [hev.1.grp] at hbytes
  have hbytes := hev.windowRead hbytes
  obtain ⟨hmem, hgroups, hteams, hsa, hsb⟩ := pushBatch_leaves { (batchRead a b c s).1 with fresh := (batchRead a b c s).1.fresh + 1 }
    (teamIn c s) (toSb a c s) ⟨bits (sIn a c s) 0 16, (batchRead a b c s).2⟩
  have hgrp : (batchPushed a b c s).grp c.gid = s.grp c.gid := hu.1.grp c.gid
  have hstr : (batchRead a b c s).1.str (teamIn c s) = s.str (teamIn c s) := congrArg Team.str (hu.1.team _)
  refine ⟨wentOn_done c m (by rw [hgrp]), ⟨hu.1.mem, sameRegs_done c m (by rw [hgrp]; exact sameRegs_refl _),
    sameSpecials_done c m (by rw [hgrp]; exact sameSpecials_refl _), fun u hne => (hteams u hne).trans (hu.1.team u)⟩,
    ⟨bits (sIn a c s) 0 16, (batchRead a b c s).2⟩, by rw [bits, Nat.pow_zero, Nat.div_one], hbytes.1, hsa.trans ?_, hsb.trans ?_, fun hset => ?_⟩
  · rw [← hstr]
    rfl
  · rw [← hstr]
    rfl
  · have hoff : sIn b c s < 2 ^ 32 := ((s.grp c.gid).sreg b.toNat).isLt
    have hn : batchLen a c s < 2 ^ 11 := Nat.mod_lt _ (Nat.two_pow_pos 11)
    exact hbytes.all (by omega) fun i hi => byteSettled_of_window hset hi

/-- Settles O40: the checks of R182 in their order, then the FIFO, then the bytes read. -/
theorem scaleBatchesEnterTheirFifo : Obligations.ScaleBatchesEnterTheirFifo := by
  unfold Obligations.ScaleBatchesEnterTheirFifo
  intro r a b
  have hm := means_spush r a b
  have hpass : ∀ {c : Ctx} {s : State}, sIn b c s + batchLen a c s ≤ (winOf c s).winSize →
      winPois (winOf c s) (sIn b c s) (batchLen a c s) = false → objectPasses (sIn b c s) (batchLen a c s) 1 c s :=
    fun hin hclean => ⟨⟨Nat.mod_one _, hin⟩, hclean⟩
  simp only [← toSb_eq]
  refine ⟨hm.nothing fun c s h => engineB_nothing h, hm.traps fun c s h => spushB_no_stream h.1 h.2,
    hm.traps fun c s ⟨hem, hx, hl⟩ => spushB_illegal hem hx hl, hm.traps fun c s ⟨hem, hx, hl, hout⟩ => ?_,
    hm.traps fun c s ⟨hem, hx, hl, hin, hp⟩ => ?_, hm.waits fun c s ⟨⟨hem, hx, hl, hin, hp⟩, hfull⟩ => spushB_waits hem hx hl (hpass hin hp) hfull,
    hm.does fun c s _ ⟨⟨hem, hx, hl, hin, hp⟩, hfull⟩ => ?_⟩
  · rw [spushB_legal hem hx hl]
    exact withObj_outside (Nat.mod_one _) hout
  · rw [spushB_legal hem hx hl]
    exact withObj_poisoned ⟨Nat.mod_one _, hin⟩ hp
  · rw [spushB_pushes hem hx hl (hpass hin hp) hfull]
    exact batchPushed_leaves a b c s c.act

end Sys2Proof.Machine

/-! O33: LDS reads and STS writes the team window (R151, R220, R252). -/
namespace Sys2Proof.Machine

theorem means_lds (r : Option (BitVec 13)) (d k : VReg) (off : RImm) :
    Means (both r (.lds d k) fun w => .ldsRadish w d k off) (ldsB d k) := .of_issues (exec_lds d k) fun w => exec_ldsRadish w d k off

theorem means_sts (r : Option (BitVec 13)) (d k : VReg) (off : RImm) :
    Means (both r (.sts d k) fun w => .stsRadish w d k off) (stsB d k) := .of_issues (exec_sts d k) fun w => exec_stsRadish w d k off

theorem lsEvent_reads (s : State) (gid : Nat) (ls : List Nat) : ReadsOnly s (lsEvent s gid ls).2 := ⟨rfl, rfl⟩

theorem offOf_lt (k : VReg) (c : Ctx) (s : State) (l : Nat) : offOf k c s l < 2 ^ 32 := Nat.mod_lt _ (Nat.two_pow_pos 32)

theorem widthOf_cases (ty : Nat) : widthOf ty = 1 ∨ widthOf ty = 2 ∨ widthOf ty = 4 ∨ widthOf ty = 8 := by
  unfold widthOf
  split <;> simp

/-! ### LDS -/

/-- The values that the lanes of an LDS have read, each from its bytes of the window. -/
structure LanesRead (s : State) (tid w : Nat) (addr : Nat → Nat) (ls : List Nat) (vals : List (Nat × Nat)) : Prop where
  lanes : vals.map (·.1) = ls
  read : ∀ x ∈ vals, ∃ bs, WindowRead s tid (addr x.1) w bs ∧ x.2 = leNat bs

theorem LanesRead.lookup {s : State} {tid w : Nat} {addr : Nat → Nat} {ls : List Nat} {vals : List (Nat × Nat)}
    (h : LanesRead s tid w addr ls vals) {l : Nat} (hl : l ∈ ls) :
    ∃ bs, WindowRead s tid (addr l) w bs ∧ (vals.lookup l).getD 0 = leNat bs := by
  rw [← h.lanes] at hl
  obtain ⟨x, hx, rfl⟩ := List.mem_map.mp hl
  cases hlook : vals.lookup x.1 with
  | none =>
    rw [List.lookup_eq_none_iff] at hlook
    exact absurd (hlook x hx) (by simp)
  | some v =>
    obtain ⟨l₁, l₂, rfl, -⟩ := List.lookup_eq_some_iff.mp hlook
    exact h.read (x.1, v) (by simp)

theorem lsLoads_reads (s : State) (gid tid w node : Nat) (addr : Nat → Nat) (ls : List Nat) :
    ReadsOnly s (lsLoads s gid tid w node addr ls).1 ∧ LanesRead s tid w addr ls (lsLoads s gid tid w node addr ls).2 := by
  have key : ∀ (p : State × List (Nat × Nat)) (done : List Nat), ReadsOnly s p.1 → LanesRead s tid w addr done p.2 →
      let q := ls.foldl (fun (p : State × List (Nat × Nat)) l =>
        let r := lsRead p.1 gid l tid (addr l) w (Config.free s.fresh 0 l) node
        (r.1, p.2 ++ [(l, leNat r.2)])) p
      ReadsOnly s q.1 ∧ LanesRead s tid w addr (done ++ ls) q.2 := by
    induction ls with
    | nil => exact fun p done hs hl => ⟨hs, by rw [List.append_nil]; exact hl⟩
    | cons l ls ih =>
      intro p done hs hl
      have hread := lsRead_finds p.1 gid l tid (addr l) w (Config.free s.fresh 0 l) node
      rw [List.append_cons]
      refine ih _ (done ++ [l]) (hs.trans (lsRead_reads ..)) ⟨by rw [List.map_append, hl.lanes]; rfl, fun x hx => ?_⟩
      rcases List.mem_append.mp hx with hx | hx
      · exact hl.read x hx
      · rw [List.mem_singleton.mp hx]
        exact ⟨_, hs.windowRead hread, rfl⟩
  exact key (s, []) [] (.refl s) ⟨rfl, fun x hx => nomatch hx⟩

/-- The reads of an LDS. -/
def ldsRead (k : VReg) (c : Ctx) (s : State) : State × List (Nat × Nat) :=
  lsLoads (lsEvent s c.gid (lanesOf c.act)).2 c.gid (s.grp c.gid).team (widthOf c.ty) (lsEvent s c.gid (lanesOf c.act)).1
    (locAddr (s.grp c.gid) k c.imm) (lanesOf c.act)

/-- Marks the lanes of a mask as poisoned in n registers from d. -/
def markPois (d n : Nat) (m : Lanes) (g : Group) : Group :=
  if m = 0 then g else (List.range n).foldl (fun g i => g.setVPois (d + i) (g.vPois (d + i) ||| m)) g

/-- What an LDS writes to the register for a lane. -/
def ldsVal (k : VReg) (c : Ctx) (s : State) (l : Nat) : Nat := regOfMem c.ty (((ldsRead k c s).2.lookup l).getD 0)

/-- The group with the values that an LDS has read. -/
def ldsPut (d k : VReg) (c : Ctx) (s : State) (g : Group) : Group :=
  markPois d.toNat (regsOf c.ty) (maskOf fun l => c.act.getLsbD l && winPois (s.team (s.grp c.gid).team) (locAddr (s.grp c.gid) k c.imm l) (widthOf c.ty))
    (if is64 c.ty then g.putV64 d.toNat c.act fun l => BitVec.ofNat 64 (ldsVal k c s l)
     else g.putV d.toNat c.act fun l => BitVec.ofNat 32 (ldsVal k c s l))

theorem ldsB_reads {d k : VReg} {c : Ctx} {s : State} (hact : c.act ≠ 0)
    (h : lsFault (widthOf c.ty) (winOf c s).winSize c.act (offOf k c s) = none) :
    ldsB d k c s = .done (State.modGrp { (ldsRead k c s).1 with fresh := (ldsRead k c s).1.fresh + 1 } c.gid (ldsPut d k c s)) := by
  unfold ldsB
  dsimp only
  rw [← locAddr_eq] at h
  rw [show lsFault (widthOf c.ty) (s.team (s.grp c.gid).team).winSize c.act (locAddr (s.grp c.gid) k c.imm) = none from h]
  exact if_neg hact

theorem markPois_lands (d n : Nat) (m : Lanes) (g : Group) : LandOnly g (markPois d n m g) ∧ (markPois d n m g).v = g.v := by
  unfold markPois
  split
  · exact ⟨rfl, rfl⟩
  · induction List.range n generalizing g with
    | nil => exact ⟨rfl, rfl⟩
    | cons i is ih =>
      obtain ⟨h1, h2⟩ := ih (g.setVPois (d + i) (g.vPois (d + i) ||| m))
      exact ⟨LandOnly.trans (rfl : LandOnly g (g.setVPois (d + i) (g.vPois (d + i) ||| m))) h1, h2⟩

theorem clrVPois_lands (g : Group) (r : Nat) (m : Lanes) : LandOnly g (g.clrVPois r m) := rfl

theorem putV64_lands (g : Group) (r : Nat) (m : Lanes) (f : Nat → DWord) : LandOnly g (g.putV64 r m f) :=
  (((setV_lands g r m _).trans (setV_lands _ (r + 1) m _)).trans (clrVPois_lands _ r m)).trans (clrVPois_lands _ (r + 1) m)

theorem ldsPut_lands (d k : VReg) (c : Ctx) (s : State) (g : Group) : LandOnly g (ldsPut d k c s g) := by
  refine LandOnly.trans ?_ (markPois_lands _ _ _ _).1
  split
  · exact putV64_lands _ _ _ _
  · exact putV_lands _ _ _ _

theorem vl_of_v {g h : Group} (hv : g.v = h.v) (q l : Nat) : g.vl q l = h.vl q l := by
  unfold Group.vl Group.vreg
  rw [hv]

theorem rdT_of_v {g h : Group} (hv : g.v = h.v) (ty r l : Nat) : g.rdT ty r l = h.rdT ty r l := by
  unfold Group.rdT storeVal Group.vl64
  rw [vl_of_v hv, vl_of_v hv]

section Put
variable {d k : VReg} {c : Ctx} {s : State} (g : Group) (q l : Nat)

theorem ldsPut_vl_64 (h : is64 c.ty = true) :
    (ldsPut d k c s g).vl q l = (g.setV64 d.toNat c.act fun l => BitVec.ofNat 64 (ldsVal k c s l)).vl q l := by
  refine (vl_of_v (markPois_lands _ _ _ _).2 q l).trans ?_
  rw [if_pos h]
  exact vl_of_v rfl q l

theorem ldsPut_vl_32 (h : is64 c.ty = false) :
    (ldsPut d k c s g).vl q l = (g.setV d.toNat c.act fun l => BitVec.ofNat 32 (ldsVal k c s l)).vl q l := by
  refine (vl_of_v (markPois_lands _ _ _ _).2 q l).trans ?_
  rw [if_neg (by rw [h]; decide)]
  exact vl_of_v rfl q l

end Put

theorem ldsPut_vl_kept {d k : VReg} {c : Ctx} {s : State} {g : Group} {q l : Nat} (hl : l < 32)
    (h : (q < d.toNat ∨ d.toNat + regsOf c.ty ≤ q) ∨ c.act.getLsbD l = false) : (ldsPut d k c s g).vl q l = g.vl q l := by
  have hregs : regsOf c.ty = if is64 c.ty then 2 else 1 := rfl
  split at hregs
  case isTrue h64 =>
    rw [ldsPut_vl_64 _ _ _ h64]
    by_cases hq : q = d.toNat
    · subst hq
      rw [vl_setV64_low _ _ _ _ hl, if_neg (by rw [h.resolve_left (by omega)]; decide)]
    · by_cases hq1 : q = d.toNat + 1
      · subst hq1
        rw [vl_setV64_high _ _ _ _ hl, if_neg (by rw [h.resolve_left (by omega)]; decide)]
      · exact vl_setV64_ne _ _ _ _ hq hq1
  case isFalse h64 =>
    rw [ldsPut_vl_32 _ _ _ (by simpa using h64)]
    by_cases hq : q = d.toNat
    · subst hq
      rw [vl_setV _ _ _ _ hl, if_neg (by rw [h.resolve_left (by omega)]; decide)]
    · exact vl_setV_ne _ _ _ _ hq

theorem widthOf_is64 {ty : Nat} (h : is64 ty = true) : widthOf ty = 8 := by
  have : ty = 5 ∨ ty = 6 ∨ ty = 7 := by simpa [is64, or_assoc] using h
  rcases this with rfl | rfl | rfl <;> rfl

theorem widthOf_ne_8 {ty : Nat} (h : is64 ty = false) : widthOf ty ≠ 8 := by
  unfold widthOf
  split
  case h_5 | h_6 | h_7 => exact nomatch h
  all_goals decide

theorem regOfMem_is64 {ty v : Nat} (h : is64 ty = true) : regOfMem ty v = v := by
  have : ty = 5 ∨ ty = 6 ∨ ty = 7 := by simpa [is64, or_assoc] using h
  rcases this with rfl | rfl | rfl <;> rfl

theorem signExtend_mod {n v : Nat} (hn : n ≤ 32) (hv : v < 2 ^ n) : ((BitVec.ofNat n v).signExtend 32).toNat % 2 ^ 32 % 2 ^ n = v := by
  have hback : ((BitVec.ofNat n v).signExtend 32).setWidth n = BitVec.ofNat n v := by
    refine BitVec.eq_of_getLsbD_eq fun i hi => ?_
    rw [BitVec.getLsbD_setWidth, BitVec.getLsbD_signExtend]
    simp [hi, Nat.lt_of_lt_of_le hi hn]
  have h := congrArg BitVec.toNat hback
  rw [BitVec.toNat_setWidth, BitVec.toNat_ofNat, Nat.mod_eq_of_lt hv] at h
  rw [Nat.mod_eq_of_lt ((BitVec.ofNat n v).signExtend 32).isLt, h]

/-- A value that a register takes from memory and gives back under its type is the one that stood there. -/
theorem regOfMem_mod {ty v : Nat} (h64 : is64 ty = false) (h : v < 2 ^ (8 * widthOf ty)) :
    regOfMem ty v % 2 ^ 32 % 2 ^ (8 * widthOf ty) = v := by
  unfold regOfMem
  by_cases h8 : ty = 8
  · subst h8
    exact signExtend_mod (by decide) h
  · rw [if_neg h8]
    by_cases h10 : ty = 10 ∨ ty = 14
    · rw [if_pos h10]
      rcases h10 with rfl | rfl <;> exact signExtend_mod (by decide) h
    · rw [if_neg h10, Nat.mod_eq_of_lt (Nat.lt_of_lt_of_le h ?_), Nat.mod_eq_of_lt h]
      have hw : widthOf ty ≤ 4 := by
        rcases widthOf_cases ty with hw | hw | hw | hw
        · omega
        · omega
        · omega
        · exact absurd hw (widthOf_ne_8 h64)
      exact Nat.pow_le_pow_right (by decide) (by omega)

theorem ldsPut_rdT {d k : VReg} {c : Ctx} {s : State} {g : Group} {l : Nat} (hl : l < 32) (hact : c.act.getLsbD l = true)
    (hv : ((ldsRead k c s).2.lookup l).getD 0 < 2 ^ (8 * widthOf c.ty)) :
    (ldsPut d k c s g).rdT c.ty d.toNat l = ((ldsRead k c s).2.lookup l).getD 0 := by
  unfold Group.rdT storeVal
  split
  case isTrue h64 =>
    rw [widthOf_is64 h64] at hv
    have hval : ldsVal k c s l = ((ldsRead k c s).2.lookup l).getD 0 := regOfMem_is64 h64
    unfold Group.vl64
    rw [ldsPut_vl_64 _ _ _ h64, ldsPut_vl_64 _ _ _ h64, vl_setV64_low _ _ _ _ hl, vl_setV64_high _ _ _ _ hl, if_pos hact, if_pos hact, hval,
      BitVec.extractLsb'_append_extractLsb'_eq_extractLsb' (by decide), BitVec.extractLsb'_eq_self, BitVec.toNat_ofNat, Nat.mod_eq_of_lt hv]
  case isFalse h64 =>
    rw [ldsPut_vl_32 _ _ _ (by simpa using h64), vl_setV _ _ _ _ hl, if_pos hact, BitVec.toNat_ofNat]
    exact regOfMem_mod (by simpa using h64) hv

/-- What an LDS leaves once its offsets have passed (R151). -/
structure LdsLeft (d k : VReg) (c : Ctx) (s t : State) : Prop where
  on : WentOn c s t
  grp : ∃ h, LandOnly (s.grp c.gid) h ∧ t.grp c.gid = h.retire.goto c.fid (nextPc c)
  mem : t.mem = s.mem
  teams : t.teams = s.teams
  kept : ∀ q, ∀ l < 32, (q < d.toNat ∨ d.toNat + regsOf c.ty ≤ q) ∨ c.act.getLsbD l = false → (t.grp c.gid).vl q l = (s.grp c.gid).vl q l
  read : ∀ l < 32, c.act.getLsbD l = true → ∃ bs, WindowRead s (s.grp c.gid).team (offOf k c s l) (widthOf c.ty) bs ∧
    (t.grp c.gid).rdT c.ty d.toNat l = leNat bs

theorem ldsB_leaves (d k : VReg) (c : Ctx) (s : State) (h : offsetsPass (widthOf c.ty) (winOf c s).winSize c.act k c s) :
    LdsLeft d k c s (finish c c.act (ldsB d k c s)) := by
  have hnone : lsFault (widthOf c.ty) (winOf c s).winSize c.act (offOf k c s) = none := lsFault_none h
  by_cases hact : c.act = 0
  · have hbody : ldsB d k c s = .done s := by
      unfold ldsB
      dsimp only
      rw [← locAddr_eq] at hnone
      rw [show lsFault (widthOf c.ty) (s.team (s.grp c.gid).team).winSize c.act (locAddr (s.grp c.gid) k c.imm) = none from hnone]
      exact if_pos hact
    rw [hbody]
    refine ⟨wentOn_done c _ rfl, ⟨_, (rfl : LandOnly (s.grp c.gid) (s.grp c.gid)), finish_done_grp c _ s⟩, rfl, rfl,
      fun q l _ _ => vl_of_v (sameRegs_done c c.act (sameRegs_refl _)).1 q l, fun l _ hl => ?_⟩
    · rw [hact] at hl
      simp at hl
  · rw [ldsB_reads hact hnone]
    have hev := lsEvent_reads s c.gid (lanesOf c.act)
    obtain ⟨hreads, hlanes⟩ := lsLoads_reads (lsEvent s c.gid (lanesOf c.act)).2 c.gid (s.grp c.gid).team (widthOf c.ty)
      (lsEvent s c.gid (lanesOf c.act)).1 (locAddr (s.grp c.gid) k c.imm) (lanesOf c.act)
    have hu : ReadsOnly s (ldsRead k c s).1 := hev.trans hreads
    have hgrp : (State.modGrp { (ldsRead k c s).1 with fresh := (ldsRead k c s).1.fresh + 1 } c.gid (ldsPut d k c s)).grp c.gid =
        ldsPut d k c s (s.grp c.gid) := (grp_modGrp _ _ _).trans (congrArg _ (hu.1.grp _))
    have hlands := ldsPut_lands d k c s (s.grp c.gid)
    have hfin := finish_done_grp c c.act (State.modGrp { (ldsRead k c s).1 with fresh := (ldsRead k c s).1.fresh + 1 } c.gid (ldsPut d k c s))
    rw [hgrp] at hfin
    have hv := (sameRegs_done (s := State.modGrp { (ldsRead k c s).1 with fresh := (ldsRead k c s).1.fresh + 1 } c.gid (ldsPut d k c s)) c c.act
      (sameRegs_refl _)).1
    rw [hgrp] at hv
    refine ⟨wentOn_done c _ ?_, ⟨_, hlands, hfin⟩, hu.1.mem, hu.1.teams, fun q l hl hq => ?_, fun l hl hon => ?_⟩
    · rw [hgrp, hlands.eq]
    · rw [vl_of_v hv]
      exact ldsPut_vl_kept hl hq
    · obtain ⟨bs, hread, hval⟩ := hlanes.lookup (mem_lanesOf.mpr ⟨hl, hon⟩)
      have hread := hev.windowRead hread
      rw [locAddr_eq] at hread
      refine ⟨bs, hread, ?_⟩
      have hlt := leNat_lt bs
      rw [hread.1, ← hval] at hlt
      rw [rdT_of_v hv, ← hval]
      exact ldsPut_rdT hl hon hlt

/-! ### STS -/

theorem afind_aput_ne {α : Type} {j k : Nat} (h : j ≠ k) (x : α) (l : List (Nat × α)) : afind j (aput k x l) = afind j l := by
  induction l with
  | nil => simp [aput, afind, h.symm]
  | cons p r ih =>
    obtain ⟨k', v'⟩ := p
    unfold aput
    split
    · simp [afind, h.symm]
    · split
      case isTrue hk =>
        subst hk
        simp [afind, h.symm]
      case isFalse => simp [afind, ih]

theorem mem_of_afind {α : Type} {k : Nat} {x : α} {l : List (Nat × α)} (h : afind k l = some x) : (k, x) ∈ l := by
  induction l with
  | nil => exact nomatch h
  | cons p r ih =>
    obtain ⟨k', v'⟩ := p
    rw [afind] at h
    split at h
    case isTrue hk =>
      rw [hk, Option.some.inj h]
      exact List.mem_cons_self
    case isFalse => exact List.mem_cons_of_mem _ (ih h)

theorem afind_of_mem {α : Type} {k : Nat} {x : α} {l : List (Nat × α)} (h : (k, x) ∈ l) : ∃ y, afind k l = some y := by
  induction l with
  | nil => exact nomatch h
  | cons p r ih =>
    obtain ⟨k', v'⟩ := p
    rw [afind]
    split
    · exact ⟨v', rfl⟩
    case isFalse hk =>
      refine ih ((List.mem_cons.mp h).resolve_left fun he => hk ?_)
      exact (congrArg Prod.fst he).symm

/-- The cells with the bytes of a lane written into them. -/
def laneCells (o : Nat) (bs : List Byte) (m : List Host.Cell) : List Host.Cell := bs.zipIdx.foldl (fun m b => aput (o + b.2) b.1 m) m

theorem stsCells_eq (g : Group) (ty : Nat) (d : VReg) (addr : Nat → Nat) (ls : List Nat) :
    stsCells g ty d addr ls = ls.foldl (fun m l => laneCells (addr l) (natLe (widthOf ty) (storeVal g ty d.toNat l)) m) [] := rfl

theorem laneCells_rising (o : Nat) (bs : List Byte) {m : List Host.Cell} (h : rising m = true) : rising (laneCells o bs m) = true := by
  unfold laneCells
  induction bs.zipIdx generalizing m with
  | nil => exact h
  | cons b bs ih => exact ih (rising_aput _ _ h)

theorem laneCells_afind (o : Nat) (bs : List Byte) (m : List Host.Cell) (a : Nat) :
    afind a (laneCells o bs m) = if o ≤ a ∧ a < o + bs.length then bs[a - o]? else afind a m := by
  unfold laneCells
  have key : ∀ (k : Nat) (m : List Host.Cell), afind a ((bs.zipIdx k).foldl (fun m b => aput (o + b.2) b.1 m) m) =
      if o + k ≤ a ∧ a < o + k + bs.length then bs[a - (o + k)]? else afind a m := by
    induction bs with
    | nil => exact fun k m => (if_neg (by simp)).symm
    | cons b bs ih =>
      intro k m
      rw [List.zipIdx_cons, List.foldl_cons, ih, List.length_cons]
      by_cases h0 : a = o + k
      · subst h0
        rw [if_neg (by omega), if_pos (by omega), Nat.sub_self, afind_aput]
        rfl
      · by_cases h : o + (k + 1) ≤ a ∧ a < o + (k + 1) + bs.length
        · rw [if_pos h, if_pos (by omega), show a - (o + k) = (a - (o + (k + 1))) + 1 by omega]
          rfl
        · rw [if_neg h, if_neg (by omega), afind_aput_ne h0]
  exact key 0 m

section Cells
variable (g : Group) (ty : Nat) (d : VReg) (addr : Nat → Nat)

theorem stsCells_rising (ls : List Nat) : rising (stsCells g ty d addr ls) = true := by
  rw [stsCells_eq]
  have key : ∀ m : List Host.Cell, rising m = true →
      rising (ls.foldl (fun m l => laneCells (addr l) (natLe (widthOf ty) (storeVal g ty d.toNat l)) m) m) = true := by
    induction ls with
    | nil => exact fun m h => h
    | cons l ls ih => exact fun m h => ih _ (laneCells_rising _ _ h)
  exact key [] rfl

theorem afind_lanes_absent {ls : List Nat} (m : List Host.Cell) {a : Nat} (h : ∀ l ∈ ls, ¬(addr l ≤ a ∧ a < addr l + widthOf ty)) :
    afind a (ls.foldl (fun m l => laneCells (addr l) (natLe (widthOf ty) (storeVal g ty d.toNat l)) m) m) = afind a m := by
  induction ls generalizing m with
  | nil => rfl
  | cons l ls ih =>
    rw [List.foldl_cons, ih _ fun x hx => h x (List.mem_cons_of_mem _ hx), laneCells_afind, natLe_length,
      if_neg (h l List.mem_cons_self)]

theorem stsCells_absent {ls : List Nat} {a : Nat} (h : ∀ l ∈ ls, ¬(addr l ≤ a ∧ a < addr l + widthOf ty)) :
    ∀ c ∈ stsCells g ty d addr ls, c.1 ≠ a := by
  rintro ⟨k, b⟩ hc rfl
  obtain ⟨y, hy⟩ := afind_of_mem hc
  rw [stsCells_eq, afind_lanes_absent g ty d addr [] h] at hy
  exact nomatch hy

/-- The byte of the last lane that covers it stands in the cells. -/
theorem stsCells_present {pre post : List Nat} {l i : Nat} (hi : i < widthOf ty)
    (h : ∀ j ∈ post, ¬(addr j ≤ addr l + i ∧ addr l + i < addr j + widthOf ty)) :
    (addr l + i, BitVec.ofNat 8 (storeVal g ty d.toNat l / 2 ^ (8 * i))) ∈ stsCells g ty d addr (pre ++ l :: post) := by
  refine mem_of_afind ?_
  rw [stsCells_eq, List.foldl_append, List.foldl_cons, afind_lanes_absent g ty d addr _ h, laneCells_afind, natLe_length,
    if_pos ⟨by omega, by omega⟩, Nat.add_sub_cancel_left, natLe_getElem? _ _ _ hi]

end Cells

/-- The byte that an STS leaves at an offset: its own, or the device's update of a live barrier's word (R176). -/
def barrierByte (bbs : List (Nat × Nat)) (node a : Nat) (b : Byte) : Byte :=
  match bbs.find? fun x => x.1 ≤ a && a < x.1 + 16 with
  | some x => if Config.free node 7 (a / 4) % 2 = 1 then BitVec.ofNat 8 (x.2 / 2 ^ (8 * (a - x.1))) else b
  | none => b

theorem stsBytes_eq (s : State) (tid o node : Nat) (bytes : List Byte) :
    stsBytes s tid o node bytes = bytes.zipIdx.map fun b => barrierByte (s.team tid).bbs node (o + b.2) b.1 := rfl

theorem barrierByte_cases (bbs : List (Nat × Nat)) (node a : Nat) (b : Byte) : barrierByte bbs node a b = b ∨
    ∃ x ∈ bbs, heldByBarrier x a ∧ barrierByte bbs node a b = BitVec.ofNat 8 (x.2 / 2 ^ (8 * (a - x.1))) := by
  unfold barrierByte
  cases hf : bbs.find? fun x => x.1 ≤ a && a < x.1 + 16 with
  | none => exact .inl rfl
  | some x =>
    dsimp only
    split
    · exact .inr ⟨x, List.mem_of_find?_eq_some hf, by simpa [heldByBarrier] using List.find?_some hf, rfl⟩
    · exact .inl rfl

theorem writeRuns_now (gid tid node : Nat) {rs : List (Nat × List Byte)} (hrs : ∀ r ∈ rs, r.1 < 2 ^ 33) (s : State) :
    ∃ win, WindowNow tid win s (rs.foldl (fun s r => lsWrite s gid tid r.1 (stsBytes s tid r.1 node r.2) node) s) ∧
      mget win = overlayRuns (barrierByte (s.team tid).bbs node) rs (mget (s.team tid).win) := by
  induction rs generalizing s with
  | nil => exact ⟨_, .of_ord (.refl s), rfl⟩
  | cons r rs ih =>
    have hone := lsWriteAs_now s (lsAgent gid) (s.placeOf gid) (tid := tid) (stsBytes s tid r.1 node r.2) node (hrs r List.mem_cons_self)
    obtain ⟨win, hnow, hwin⟩ := ih (fun x hx => hrs x (List.mem_cons_of_mem _ hx)) (lsWrite s gid tid r.1 (stsBytes s tid r.1 node r.2) node)
    refine ⟨win, hone.trans hnow, hwin.trans ?_⟩
    rw [show ((lsWrite s gid tid r.1 (stsBytes s tid r.1 node r.2) node).team tid).bbs = (s.team tid).bbs from hone.bbs,
      show ((lsWrite s gid tid r.1 (stsBytes s tid r.1 node r.2) node).team tid).win = _ from hone.win_eq, mget_mwrite_overlay, stsBytes_eq]
    rfl

/-- The state that has written the cells of an STS. -/
def stsWritten (d k : VReg) (c : Ctx) (s : State) : State :=
  (runsOf (stsCells (s.grp c.gid) c.ty d (offOf k c s) (lanesOf c.act))).foldl (fun u r =>
    lsWrite u c.gid (s.grp c.gid).team r.1 (stsBytes u (s.grp c.gid).team r.1 (lsEvent s c.gid (lanesOf c.act)).1 r.2)
      (lsEvent s c.gid (lanesOf c.act)).1) (lsEvent s c.gid (lanesOf c.act)).2

section Sts
variable {d k : VReg} {c : Ctx} {s : State} (h : lsFault (widthOf c.ty) (winOf c s).winSize c.act (offOf k c s) = none)
include h

theorem stsB_nothing (hact : c.act = 0) : stsB d k c s = .done s := by
  unfold stsB
  dsimp only
  rw [locAddr_eq, show lsFault (widthOf c.ty) (s.team (s.grp c.gid).team).winSize c.act (offOf k c s) = none from h]
  exact if_pos hact

variable (hact : c.act ≠ 0)
include hact

theorem stsB_waits (hl : (s.grp c.gid).loads ≠ []) : stsB d k c s = .wait s (.ctr 0 63 15 15) := by
  unfold stsB
  dsimp only
  rw [locAddr_eq, show lsFault (widthOf c.ty) (s.team (s.grp c.gid).team).winSize c.act (offOf k c s) = none from h]
  exact (if_neg hact).trans (if_pos (by simpa using hl))

theorem stsB_writes (hl : (s.grp c.gid).loads = []) : stsB d k c s = .done (stsWritten d k c s) := by
  unfold stsB
  dsimp only
  rw [locAddr_eq, show lsFault (widthOf c.ty) (s.team (s.grp c.gid).team).winSize c.act (offOf k c s) = none from h]
  exact (if_neg hact).trans (if_neg (by simp [hl]))

end Sts

theorem stsWritten_now (d k : VReg) (c : Ctx) (s : State) : ∃ win, WindowNow (s.grp c.gid).team win s (stsWritten d k c s) ∧
    mget win = overlayCells (barrierByte (winOf c s).bbs (lsEvent s c.gid (lanesOf c.act)).1)
      (stsCells (s.grp c.gid) c.ty d (offOf k c s) (lanesOf c.act)) (mget (winOf c s).win) := by
  have hstarts : ∀ r ∈ runsOf (stsCells (s.grp c.gid) c.ty d (offOf k c s) (lanesOf c.act)), r.1 < 2 ^ 33 := by
    intro r hr
    obtain ⟨b, hb⟩ := runsOf_starts hr
    by_contra hge
    refine stsCells_absent (s.grp c.gid) c.ty d (offOf k c s) (fun l _ hcov => ?_) (r.1, b) hb rfl
    have hoff := offOf_lt k c s l
    have hw : widthOf c.ty ≤ 8 := by rcases widthOf_cases c.ty with hw | hw | hw | hw <;> omega
    omega
  obtain ⟨win, hnow, hwin⟩ := writeRuns_now c.gid (s.grp c.gid).team (lsEvent s c.gid (lanesOf c.act)).1 hstarts
    (lsEvent s c.gid (lanesOf c.act)).2
  have hev : WindowNow (s.grp c.gid).team _ s (lsEvent s c.gid (lanesOf c.act)).2 := .of_ord rfl
  refine ⟨win, hev.trans hnow, hwin.trans ?_⟩
  rw [overlayRuns_runsOf]
  rfl

/-- Of the lanes that name a byte the highest comes last: no later lane covers a byte of one that writes (R149). -/
theorem writer_split {w : Nat} {m : Lanes} {addr : Nat → Nat} (hal : ∀ l < 32, m.getLsbD l = true → addr l % w = 0) {l : Nat}
    (hl : l ∈ writers m addr) : ∃ pre post, lanesOf m = pre ++ l :: post ∧
      ∀ i < w, ∀ j ∈ post, ¬(addr j ≤ addr l + i ∧ addr l + i < addr j + w) := by
  obtain ⟨hmem, hlast⟩ := List.mem_filter.mp hl
  obtain ⟨pre, post, hsplit⟩ := List.append_of_mem hmem
  refine ⟨pre, post, hsplit, fun i hi j hj hcov => ?_⟩
  have hrise := lanesOf_rising m
  rw [hsplit] at hrise
  have hlt : l < j := List.rel_of_pairwise_cons (List.pairwise_append.mp hrise).2.1 hj
  have hjm : j ∈ lanesOf m := by
    rw [hsplit]
    exact List.mem_append_right _ (List.mem_cons_of_mem _ hj)
  obtain ⟨hj32, hjon⟩ := mem_lanesOf.mp hjm
  obtain ⟨hl32, hlon⟩ := mem_lanesOf.mp hmem
  have heq : addr j = addr l := by
    have hdiv : (addr l + i) / w = addr l / w := by
      obtain ⟨q, hq⟩ := Nat.dvd_of_mod_eq_zero (hal l hl32 hlon)
      rw [hq, Nat.mul_add_div (by omega), Nat.div_eq_of_lt hi, Nat.add_zero, Nat.mul_div_cancel_left _ (by omega)]
    have hdivj : (addr l + i) / w = addr j / w := by
      obtain ⟨q, hq⟩ := Nat.dvd_of_mod_eq_zero (hal j hj32 hjon)
      obtain ⟨x, hx⟩ := Nat.exists_eq_add_of_le hcov.1
      rw [hx, hq, Nat.mul_add_div (by omega), Nat.div_eq_of_lt (by omega), Nat.add_zero, Nat.mul_div_cancel_left _ (by omega)]
    rw [← Nat.div_mul_cancel (Nat.dvd_of_mod_eq_zero (hal j hj32 hjon)), ← hdivj, hdiv,
      Nat.div_mul_cancel (Nat.dvd_of_mod_eq_zero (hal l hl32 hlon))]
  have : (lanesOf m).any (fun j => addr j == addr l && decide (l < j)) = true :=
    List.any_eq_true.mpr ⟨j, hjm, by simp [heq, hlt]⟩
  rw [this] at hlast
  exact nomatch hlast

/-- What STS leaves of the window: each byte of a lane that writes, and the bytes that no lane names. -/
theorem stsWindow (d k : VReg) (c : Ctx) (s : State) (h : offsetsPass (widthOf c.ty) (winOf c s).winSize c.act k c s) (node : Nat) :
    let f := overlayCells (barrierByte (winOf c s).bbs node) (stsCells (s.grp c.gid) c.ty d (offOf k c s) (lanesOf c.act)) (mget (winOf c s).win)
    (∀ l ∈ writers c.act (offOf k c s), ∀ i < widthOf c.ty, f (offOf k c s l + i) = barrierByte (winOf c s).bbs node (offOf k c s l + i)
      (BitVec.ofNat 8 ((s.grp c.gid).rdT c.ty d.toNat l / 2 ^ (8 * i)))) ∧
    ∀ a, (∀ l < 32, c.act.getLsbD l = true → a < offOf k c s l ∨ offOf k c s l + widthOf c.ty ≤ a) → f a = mget (winOf c s).win a := by
  refine ⟨fun l hl i hi => ?_, fun a ha => ?_⟩
  · obtain ⟨pre, post, hsplit, hpost⟩ := writer_split (w := widthOf c.ty) (fun l hl hon => (h l hl hon).1) hl
    refine overlayCells_present _ (stsCells_rising ..) _ ?_
    rw [hsplit]
    exact stsCells_present _ _ _ _ hi (hpost i hi)
  · refine overlayCells_absent _ _ (stsCells_absent _ _ _ _ fun l hl hcov => ?_)
    obtain ⟨hl32, hon⟩ := mem_lanesOf.mp hl
    have := ha l hl32 hon
    omega

theorem storeVal_lt (g : Group) (ty d l : Nat) : storeVal g ty d l < 2 ^ (8 * widthOf ty) := by
  unfold storeVal
  split
  case isTrue h64 =>
    rw [widthOf_is64 h64]
    exact (g.vl64 d l).isLt
  case isFalse => exact Nat.mod_lt _ (Nat.two_pow_pos _)

theorem localB_fault {d k : VReg} {c : Ctx} {s : State} {e : FaultInfo}
    (h : lsFault (widthOf c.ty) (winOf c s).winSize c.act (offOf k c s) = some e) : ldsB d k c s = .fault s e ∧ stsB d k c s = .fault s e := by
  unfold ldsB stsB
  dsimp only
  rw [locAddr_eq, show lsFault (widthOf c.ty) (s.team (s.grp c.gid).team).winSize c.act (offOf k c s) = some e from h]
  exact ⟨rfl, rfl⟩

/-- An STS whose offsets pass and that need not wait leaves a window, the bytes of its lanes over those that stood there. -/
theorem stsB_leaves {d k : VReg} {c : Ctx} {s : State} (h : offsetsPass (widthOf c.ty) (winOf c s).winSize c.act k c s)
    (hl : (s.grp c.gid).loads = []) : ∃ u win node, stsB d k c s = .done u ∧ WindowNow (s.grp c.gid).team win s u ∧
      mget win = overlayCells (barrierByte (winOf c s).bbs node) (stsCells (s.grp c.gid) c.ty d (offOf k c s) (lanesOf c.act))
        (mget (winOf c s).win) := by
  by_cases hact : c.act = 0
  · refine ⟨s, _, 0, stsB_nothing (lsFault_none h) hact, .of_ord (.refl s), ?_⟩
    rw [hact]
    rfl
  · obtain ⟨win, hnow, hwin⟩ := stsWritten_now d k c s
    exact ⟨_, win, _, stsB_writes (lsFault_none h) hact hl, hnow, hwin⟩

/-- Settles O33: the checks of the offsets, then what an LDS reads and an STS writes. -/
theorem localStoreReadsAndWritesTheWindow : Obligations.LocalStoreReadsAndWritesTheWindow := by
  unfold Obligations.LocalStoreReadsAndWritesTheWindow
  intro r d k off lds sts w
  have hlds := means_lds r d k off
  have hsts := means_sts r d k off
  have hfaults : ∀ x ∈ [lds, sts], ∃ body, Means x body ∧
      ∀ c s e, lsFault (w c) (winOf c s).winSize c.act (offOf k c s) = some e → body c s = .fault s e := by
    intro x hx
    rcases List.mem_cons.mp hx with rfl | hx
    · exact ⟨_, hlds, fun c s e h => (localB_fault (d := d) h).1⟩
    · rw [List.mem_singleton.mp hx]
      exact ⟨_, hsts, fun c s e h => (localB_fault (d := d) h).2⟩
  refine ⟨fun x hx => ?_, hlds.does fun c s _ h => ?_, hsts.waits fun c s ⟨hact, hpass, hl⟩ => stsB_waits (lsFault_none hpass) hact hl,
    hsts.does fun c s _ ⟨hpass, hl⟩ => ?_⟩
  · obtain ⟨body, hm, hb⟩ := hfaults x hx
    exact ⟨hm.traps fun c s ⟨l, hl, hon, hmis, hpass⟩ => hb c s _ (lsFault_misaligned hl hon hmis hpass),
      hm.traps fun c s ⟨l, hl, hon, hal, hout, hpass⟩ => hb c s _ (lsFault_outside hl hon hal hout hpass)⟩
  · obtain ⟨hon, ⟨g, hg, hgrp⟩, hmem, hteams, hkept, hread⟩ := ldsB_leaves d k c s h
    refine ⟨hon, ?_, ?_, ?_, hmem, hteams, ?_, hkept, fun l hl hlon hset => ?_⟩
    · rw [hgrp, hg.eq]
      rfl
    · rw [hgrp, hg.eq]
      rfl
    · rw [hgrp, hg.eq]
      exact sameSpecials_refl _
    · rw [hgrp, hg.eq]
      rfl
    · obtain ⟨bs, hbs, hval⟩ := hread l hl hlon
      have hoff := offOf_lt k c s l
      have hw : widthOf c.ty ≤ 8 := by rcases widthOf_cases c.ty with hw | hw | hw | hw <;> omega
      rw [hval, hbs.all (by omega) fun i hi y hy => hset y hy i hi]
      rfl
  · obtain ⟨u, win, node, hbody, hnow, hwin⟩ := stsB_leaves (d := d) hpass hl
    obtain ⟨hmine, hother⟩ := stsWindow d k c s hpass node
    rw [← hwin] at hmine hother
    have hgrp : u.grp c.gid = s.grp c.gid := hnow.only.grp _
    have hfin := finish_done_grp c c.act u
    rw [hgrp] at hfin
    have hteam : winOf c (finish c c.act (.done u)) = u.team (s.grp c.gid).team := by
      unfold winOf
      rw [hfin]
      rfl
    rw [hbody]
    refine ⟨wentOn_done c _ (by rw [hgrp]), sameRegs_done c _ (by rw [hgrp]; exact sameRegs_refl _),
      sameSpecials_done c _ (by rw [hgrp]; exact sameSpecials_refl _), hnow.only.mem, by rw [hfin]; rfl, ?_⟩
    rw [hteam, hnow.win_eq]
    refine ⟨fun l hl => ⟨fun hfree => ?_, fun i hi => ?_⟩, hother, hnow.others⟩
    · have hread : mread win (offOf k c s l) (w c) = natLe (w c) ((s.grp c.gid).rdT c.ty d.toNat l) := by
        refine mread_eq_natLe fun i hi => (hmine l hl i hi).trans ?_
        exact (barrierByte_cases _ _ _ _).resolve_right fun ⟨x, hx, hheld, _⟩ => hfree x hx i hi hheld
      rw [hread, leNat_natLe]
      exact Nat.mod_eq_of_lt (storeVal_lt _ _ _ _)
    · have hb := hmine l hl i hi
      rcases barrierByte_cases (winOf c s).bbs node (offOf k c s l + i) (BitVec.ofNat 8 ((s.grp c.gid).rdT c.ty d.toNat l / 2 ^ (8 * i)))
        with hown | ⟨x, hx, hheld, hdev⟩
      · exact .inl (hb.trans hown)
      · exact .inr ⟨x, hx, hheld, hb.trans hdev⟩

end Sys2Proof.Machine

/-! O38 fails: a waiter's offset is not bounded, and past 2^33 the key of a window's byte names the next team's window. -/
namespace Sys2Proof.Machine

/-- A group that waits with BBWAIT on generation 0 of a barrier at 2^33 of a window of 2^34 bytes: the barrier is over, with one waiter. -/
def farBarrier : State :=
  ((State.reset.placed 0x30).modGrp 1 fun g => g.await 0 (.bbar (2 ^ 33) 0 none)).modTeam 0 fun t =>
    { t with winSize := 2 ^ 34, win := [(2 ^ 33 + 12, 1)] }

/-- Its context at the BBWAIT. -/
def farCtx : Ctx := ctxOf farBarrier 1 0 (.bbwait 4 5)

theorem farBarrier_can : CanIssue farBarrier 1 0 (.bbwait 4 5) := ⟨rfl, rfl, rfl, rfl⟩

theorem farBarrier_before : bbAt (2 ^ 33) farCtx (entered farBarrier 1 (.bbwait 4 5)) = ⟨0, 0, 0, 0, 1⟩ := by decide

/-- The barrier's words are written under another team's keys, so it still has its waiter. -/
theorem farBarrier_after : ∃ t, exec (.bbwait 4 5) farBarrier = .next t ∧ (bbAt (2 ^ 33) farCtx t).waiters = 1 := ⟨_, rfl, by decide⟩

/-- Refutes O38: its clauses of a BBWAIT that waits allow every offset, and WAITERS does not fall for a barrier at 2^33, in a window
larger than any that the spec has. -/
theorem not_byteBarriersFollowTheirGenerations : ¬ Obligations.ByteBarriersFollowTheirGenerations := by
  unfold Obligations.ByteBarriersFollowTheirGenerations
  intro h
  obtain ⟨-, -, -, -, -, -, -, -, -, hwaits, -⟩ := h none 4 5 0
  obtain ⟨-, -, hover, -⟩ := hwaits (2 ^ 33) 0
  have hsound : (acts farCtx ∧ farCtx.wait = .bbar (2 ^ 33) 0 none ∧ objectFits (2 ^ 33) 16 16 farCtx (entered farBarrier 1 (.bbwait 4 5))) ∧
      winPois (winOf farCtx (entered farBarrier 1 (.bbwait 4 5))) (2 ^ 33) 16 = false := by
    refine ⟨⟨?_, rfl, ?_⟩, rfl⟩
    · exact (by decide : farCtx.em ≠ 0)
    · exact (by decide : 2 ^ 33 % 16 = 0 ∧ 2 ^ 33 + 16 ≤ (winOf farCtx (entered farBarrier 1 (.bbwait 4 5))).winSize)
  obtain ⟨t, ht, -, -, ⟨hfewer, -⟩, -⟩ := hover farBarrier 1 0 farBarrier_can
    ⟨hsound, congrArg BB.gen farBarrier_before, .inl ((congrArg BB.arr farBarrier_before).trans (congrArg BB.exp farBarrier_before).symm)⟩
  obtain ⟨u, hu, hwaiters⟩ := farBarrier_after
  cases ht.symm.trans hu
  have hsame : (bbAt (2 ^ 33) farCtx t).waiters = (bbAt (2 ^ 33) farCtx (entered farBarrier 1 (.bbwait 4 5))).waiters - 1 :=
    congrArg BB.waiters hfewer
  rw [hwaiters, farBarrier_before] at hsame
  exact absurd hsame (by decide)

end Sys2Proof.Machine

/-! O37 fails: TCOPYM reads the barrier of every member that its mask names, and faults where one of them is poisoned (R171, R318). -/
namespace Sys2Proof.Machine

/-! ### A record that no write of the ordering state holds -/

/-- One part of a record's read. -/
def recordStep (asid ag nd : Nat) (pl : Place) (fresh : Nat) (p : State × List Byte) (x : Nat × Nat × Nat) : State × List Byte :=
  if p.1.foreign asid x.2.2 then (p.1, p.2 ++ List.replicate x.2.1 0)
  else
    let got := (loadCands p.1 nd ag ⟨x.2.2, x.1⟩ x.2.1 pl none true (Config.free fresh 0 (x.1 / 4))).1
    (returnLoad p.1 ag nd pl 4 false true [] got, p.2 ++ got.map fun q => candByte p.1 q.1 q.2)

/-- The bytes of memory that a part names. -/
def partBytes (s : State) (x : Nat × Nat × Nat) : List Byte := (List.range x.2.1).map fun i => s.peek (x.2.2 + i)

theorem candByte_unwritten {s : State} (h : s.ord.writes = []) (k : Nat) : candByte s k none = s.peek k := by
  unfold candByte State.initByte
  rw [h]
  rfl

theorem peek_ordOnly {s t : State} (h : OrdOnly s t) (k : Nat) : t.peek k = s.peek k := by
  rw [h.eq]
  rfl

theorem recordStep_reads {s : State} {asid ag nd : Nat} {pl : Place} {fresh : Nat} {p : State × List Byte} {x : Nat × Nat × Nat}
    (hord : OrdOnly s p.1) (hw : p.1.ord.writes = []) (hf : s.foreign asid x.2.2 = false) :
    OrdOnly s (recordStep asid ag nd pl fresh p x).1 ∧ (recordStep asid ag nd pl fresh p x).1.ord.writes = [] ∧
      (recordStep asid ag nd pl fresh p x).2 = p.2 ++ partBytes s x := by
  have hf' : p.1.foreign asid x.2.2 = false := by
    rw [hord.eq]
    exact hf
  obtain ⟨hkeys, htaken⟩ := loadCands_takes p.1 nd ag ⟨x.2.2, x.1⟩ pl none true x.2.1 (Config.free fresh 0 (x.1 / 4))
  have hbytes : (loadCands p.1 nd ag ⟨x.2.2, x.1⟩ x.2.1 pl none true (Config.free fresh 0 (x.1 / 4))).1.map (fun q => candByte p.1 q.1 q.2) =
      partBytes s x := by
    have hread : ∀ q ∈ (loadCands p.1 nd ag ⟨x.2.2, x.1⟩ x.2.1 pl none true (Config.free fresh 0 (x.1 / 4))).1,
        candByte p.1 q.1 q.2 = s.peek q.1 := by
      intro q hq
      have hnone : q.2 = none := (htaken q hq).elim (candidates_none (by rw [hw]; exact fun w h => nomatch h) q.2) And.right
      rw [hnone, candByte_unwritten hw, peek_ordOnly hord]
    rw [List.map_congr_left hread, ← Function.comp_def s.peek, ← List.map_map, hkeys, List.map_map]
    rfl
  unfold recordStep
  rw [if_neg (by rw [hf']; decide)]
  exact ⟨hord.trans (returnLoad_ord ..), hw, congrArg (p.2 ++ ·) hbytes⟩

theorem recordSteps_read {s : State} {asid ag nd : Nat} {pl : Place} {fresh : Nat} (xs : List (Nat × Nat × Nat)) {p : State × List Byte}
    (hord : OrdOnly s p.1) (hw : p.1.ord.writes = []) (hf : ∀ x ∈ xs, s.foreign asid x.2.2 = false) :
    (xs.foldl (recordStep asid ag nd pl fresh) p).2 = p.2 ++ xs.flatMap (partBytes s) := by
  induction xs generalizing p with
  | nil => exact (List.append_nil _).symm
  | cons x xs ih =>
    obtain ⟨h1, h2, h3⟩ := recordStep_reads (ag := ag) (nd := nd) (pl := pl) (fresh := fresh) hord hw (hf x List.mem_cons_self)
    rw [List.foldl_cons, ih h1 h2 fun y hy => hf y (List.mem_cons_of_mem _ hy), h3, List.append_assoc, List.flatMap_cons]

/-- The parts of a record's lines that are read one by one. -/
def recordParts (ls : List (Nat × Nat × Nat × Nat × Nat)) : List (Nat × Nat × Nat) :=
  ls.flatMap fun p => (partsOf 4 p.1 p.2.1).map fun x => (x.1, x.2, p.2.2.1 + (x.1 - p.1))

/-- The state in which a record's read begins. -/
def recordStart (c : Ctx) (s : State) : State :=
  let ag := laneAgent c.gid ((lanesOf c.em).headD 0)
  let o := (recordEvent c s).2
  { s with ord := o.setAg ag { o.ag ag with at_ := some (recordEvent c s).1 } }

theorem readRecord_eq {c : Ctx} {s : State} {va n : Nat} {ls : List (Nat × Nat × Nat × Nat × Nat)} (h : recordLines c s va n = .ok ls) :
    readRecord c s va n = .ok ((recordParts ls).foldl (recordStep (s.asidOf (s.grp c.gid)) (laneAgent c.gid ((lanesOf c.em).headD 0))
      (recordEvent c s).1 (s.placeOf c.gid) s.fresh) (recordStart c s, [])) := by
  unfold readRecord
  rw [h]
  rfl

theorem readRecord_unwritten {c : Ctx} {s : State} {va n : Nat} {ls : List (Nat × Nat × Nat × Nat × Nat)} (hls : recordLines c s va n = .ok ls)
    (hw : s.ord.writes = []) (hf : ∀ x ∈ recordParts ls, s.foreign (s.asidOf (s.grp c.gid)) x.2.2 = false) :
    ∃ u, readRecord c s va n = .ok (u, (recordParts ls).flatMap (partBytes s)) := by
  have h := recordSteps_read (s := s) (asid := s.asidOf (s.grp c.gid)) (ag := laneAgent c.gid ((lanesOf c.em).headD 0)) (nd := (recordEvent c s).1)
    (pl := s.placeOf c.gid) (fresh := s.fresh) (recordParts ls) (p := (recordStart c s, [])) rfl hw hf
  exact ⟨_, (readRecord_eq hls).trans (congrArg Except.ok (Prod.ext rfl h))⟩

/-! ### A multicast whose barrier is poisoned in another member's window -/

section Poisoned
variable {d a b : SReg} {c : Ctx} {s u : State} {rec : List Byte} (hem : acts c) (hroom : engineRoom c s)
  (hal : ((s.grp c.gid).sreg64 b.toNat).toNat % 128 = 0) (hwait : recordWaits c s ((s.grp c.gid).sreg64 b.toNat).toNat 128 = false)
  (hread : readRecord c s ((s.grp c.gid).sreg64 b.toNat).toNat 128 = .ok (u, rec))
  (hok : recOk rec true = true) (hscale : recScale rec = false)
  (hblock : a.toNat ≠ 0 ∧ a.toNat + 2 + recRank rec ≤ 63) (hpend : cmdPend (s.grp c.gid) a.toNat (recRank rec) = none)
  (hspois : ((List.range (recRank rec)).any fun k => (s.grp c.gid).spois.contains (a.toNat + 3 + k)) = false)
  (hmask : blockWord a.toNat 2 c s ≠ 0 ∧ blockWord a.toNat 2 c s < 2 ^ clusterSize s (s.cluster (winOf c s).cluster))
  (hbox : objectFits (blockWord a.toNat 0 c s) (boxBytes rec) 16 c s) (hbar : blockWord a.toNat 1 c s ≠ 0xFFFFFFFF)
  (hbarFits : objectFits (blockWord a.toNat 1 c s) 16 16 c s)
  (hpois : ∃ m ∈ membersOf s (winOf c s).cluster (blockWord a.toNat 2 c s), winPois (s.team m) (blockWord a.toNat 1 c s) 16 = true)
include hem hroom hal hwait hread hok hscale hblock hpend hspois hmask hbox hbar hbarFits hpois

theorem tcopymB_poisoned : tcopyB true d a b c s =
    .fault (noteRecord c u ((s.grp c.gid).sreg64 b.toNat).toNat 128) (flt 15 1) := by
  have hv := readRecord_beside hread
  generalize hvdef : noteRecord c u ((s.grp c.gid).sreg64 b.toNat).toNat 128 = v at hv
  unfold tcopyB
  rw [engineB_acts hem]
  dsimp only
  rw [if_neg (show ¬(s.copies.filter fun x => x.2.core == (s.team (s.grp c.gid).team).core && !x.2.ended).length ≥ 256 from Nat.not_le.mpr hroom), if_neg (not_not_intro hal), withRecord_reads hwait hread, hvdef]
  rw [if_neg (by rw [hok]; decide), if_neg (by rw [hscale]; simp), if_neg (by omega), hpend]
  dsimp only
  have hteam : ∀ k, v.team k = s.team k := fun k => by rw [hv.eq]; rfl
  have hmem : ∀ cl x, membersOf v cl x = membersOf s cl x := fun cl x => by rw [hv.eq]; rfl
  have hsize : clusterSize v (v.cluster (winOf c s).cluster) = clusterSize s (s.cluster (winOf c s).cluster) := by rw [hv.eq]; rfl
  have hfault : ∀ {off n : Nat}, objectFits off n 16 c s → objFault c v (s.grp c.gid).team off n 16 = none := by
    intro off n h
    unfold objFault
    rw [hteam]
    exact objFault_none h
  obtain ⟨m, hm, hpm⟩ := hpois
  have hbad : (blockWord a.toNat 1 c s ≠ 0xFFFFFFFF) ∧ (((s.grp c.gid).team :: membersOf v (winOf c s).cluster (blockWord a.toNat 2 c s)).any
      fun m => winPois (v.team m) (blockWord a.toNat 1 c s) 16) = true :=
    ⟨hbar, List.any_eq_true.mpr ⟨m, List.mem_cons_of_mem _ (by rw [hmem]; exact hm), by rw [hteam]; exact hpm⟩⟩
  rw [if_neg (by rw [hspois]; decide), if_neg, if_neg (by rw [hscale]; decide)]
  · rw [show objFault c v (s.grp c.gid).team ((s.grp c.gid).sreg a.toNat).toNat (boxBytes rec) 16 = none from hfault hbox]
    dsimp only
    rw [if_neg (show ¬((s.grp c.gid).sreg (a.toNat + 1)).toNat = 0xFFFFFFFF from hbar),
      show objFault c v (s.grp c.gid).team ((s.grp c.gid).sreg (a.toNat + 1)).toNat 16 16 = none from hfault hbarFits]
    exact if_pos hbad
  · rw [if_pos rfl]
    exact fun h => h.elim hmask.1 (Nat.not_le.mpr (hsize ▸ hmask.2))

end Poisoned

/-! ### A state in which it happens -/

/-- The bytes of a plain tensor record of one axis of four f32 elements. -/
def plainRecord : List (Nat × Byte) := [(8, 2), (9, 1), (16, 4), (48, 4), (112, 4)]

/-- A copy group whose command block at s5 has its barrier at 0 and names member 1 of its cluster of two, whose window is poisoned there;
the record of the copy stands at VA 0. -/
def poisonedMember : State :=
  let s := (State.reset.placed 0xC8).modGrp 1 fun g => (g.putS 6 0).putS 7 2
  let s := { s with
    mem := plainRecord.foldl (fun m (p : Nat × Byte) => mwrite m (0x20000 + p.1) [p.2]) s.mem
    launches := s.launches.map fun (p : Nat × Launch) => (p.1, { p.2 with record := p.2.record.set 62 0x12 }) }
  s.setTeam 5 { Team.empty with resident := true, member := 1, wpois := [0] }

theorem poisonedMember_can : CanIssue poisonedMember 1 0 (.tcopym 4 5 2) := ⟨rfl, rfl, rfl, rfl⟩

/-- Its context and state at the TCOPYM. -/
def poisonedCtx : Ctx := ctxOf poisonedMember 1 0 (.tcopym 4 5 2)
def poisonedState : State := entered poisonedMember 1 (.tcopym 4 5 2)

/-- The one line of the record. -/
def plainLines : List (Nat × Nat × Nat × Nat × Nat) := [(0, 128, 0x20000, 164051, 4)]
/-- The record. -/
def plainBytes : List Byte := (recordParts plainLines).flatMap (partBytes poisonedState)

theorem poisonedState_lines : recordLines poisonedCtx poisonedState 0 128 = .ok plainLines := by
  have h : (match recordLines poisonedCtx poisonedState 0 128 with | .ok ls => decide (ls = plainLines) | .error _ => false) = true := by
    decide +kernel
  cases hr : recordLines poisonedCtx poisonedState 0 128 with
  | ok ls =>
    rw [hr] at h
    rw [of_decide_eq_true h]
  | error e =>
    rw [hr] at h
    exact nomatch h

theorem poisonedState_record : ∃ u, readRecord poisonedCtx poisonedState 0 128 = .ok (u, plainBytes) :=
  readRecord_unwritten poisonedState_lines rfl (by decide +kernel)

theorem plainBytes_ok : recOk plainBytes true = true ∧ recScale plainBytes = false ∧ recRank plainBytes = 1 ∧ boxBytes plainBytes = 16 := by
  decide +kernel

/-- The hypotheses of the statement's clause of a copy that starts. -/
theorem poisonedState_meets : acts poisonedCtx ∧ engineRoom poisonedCtx poisonedState ∧
    recordWaits poisonedCtx poisonedState 0 128 = false ∧
    (blockWord 5 2 poisonedCtx poisonedState ≠ 0 ∧
      blockWord 5 2 poisonedCtx poisonedState < 2 ^ clusterSize poisonedState (poisonedState.cluster (winOf poisonedCtx poisonedState).cluster)) ∧
    objectFits (blockWord 5 0 poisonedCtx poisonedState) 16 16 poisonedCtx poisonedState ∧
    objectPasses (blockWord 5 1 poisonedCtx poisonedState) 16 16 poisonedCtx poisonedState ∧
    blockWord 5 1 poisonedCtx poisonedState ≠ 0xFFFFFFFF := by
  unfold acts engineRoom objectPasses objectFits
  decide +kernel

theorem poisonedState_block : blockReady 5 1 poisonedCtx poisonedState :=
  ⟨by decide, by decide, fun k _ _ => ⟨rfl, List.not_mem_nil⟩⟩

/-- The other member, whose window is poisoned at the barrier. -/
theorem poisonedState_other : (5 : Nat) ∈ membersOf poisonedState (winOf poisonedCtx poisonedState).cluster (blockWord 5 2 poisonedCtx poisonedState) ∧
    winPois (poisonedState.team 5) (blockWord 5 1 poisonedCtx poisonedState) 16 = true := by
  decide +kernel

/-- Refutes O37: a multicast whose barrier passes in the group's own window takes the poison-use fault where the barrier is poisoned in
another member's; the statement has it start. -/
theorem not_copiesAndChainsStart : ¬ Obligations.CopiesAndChainsStart := by
  unfold Obligations.CopiesAndChainsStart TensorCopiesStart
  rintro ⟨h, -⟩
  obtain ⟨-, -, -, -, hread⟩ := h none 4 5 2 true
  obtain ⟨-, -, hstarts⟩ := hread plainBytes
  obtain ⟨hacts, hroom, hwaits, hmask, hbox, hbar, hne⟩ := poisonedState_meets
  obtain ⟨hok, hscale, hrank, hbytes⟩ := plainBytes_ok
  obtain ⟨u, hu⟩ := poisonedState_record
  have hbody : tcopyB true 4 5 2 poisonedCtx poisonedState = .fault (noteRecord poisonedCtx u 0 128) (flt 15 1) :=
    tcopymB_poisoned (a := 5) (b := 2) hacts hroom rfl hwaits hu hok hscale ⟨by decide, by rw [hrank]; decide⟩ (by rw [hrank]; rfl)
      (by rw [hrank]; rfl) hmask (by rw [hbytes]; exact hbox) hne hbar.1 ⟨5, poisonedState_other⟩
  have hexec := exec_of_issue (exec_tcopym 4 5 2) poisonedMember_can
  rw [show tcopyB true 4 5 2 (ctxOf poisonedMember 1 0 (.tcopym 4 5 2)) (entered poisonedMember 1 (.tcopym 4 5 2)) = _ from hbody] at hexec
  obtain ⟨t, ht, cp, ⟨-, -, hcopy, -⟩, -⟩ := hstarts poisonedMember 1 0 poisonedMember_can
    ⟨⟨hacts, hroom, rfl, hwaits, u, hu⟩, hok, fun hs => (nomatch hscale.symm.trans hs), hrank ▸ poisonedState_block, hmask,
      fun _ => hbytes ▸ hbox, fun _ => hbar⟩
  cases ht.symm.trans hexec
  have hcopies : (takeFault (noteRecord poisonedCtx u 0 128) 1 0 (flt 15 1) poisonedCtx.act).copies = [] := by
    rw [(takeFault_only _ _ _ _ _).eq]
    exact (readRecord_beside hu).copies
  have hnone : afind (entered poisonedMember 1 (.tcopym 4 5 2)).nextUnit
      (takeFault (noteRecord poisonedCtx u 0 128) 1 0 (flt 15 1) poisonedCtx.act).copies = none := by
    rw [hcopies]
    rfl
  exact nomatch hnone.symm.trans hcopy

end Sys2Proof.Machine

/-! O45 fails: of an element that crosses two frames the machine judges the bytes by the frame of each granule (R306), `loadedByte` by the
frame of the first byte alone. -/
namespace Sys2Proof.Machine

/-- A loading copy of one unit whose elements, each at address 0, lie from the last byte of frame 0 into frame 1. -/
def acrossFrames : Copy where
  gid := 1
  core := 0
  chain := false
  layout := []
  cmd := []
  dests := [(0, none)]
  batch := none
  pieces := [(0, 0xFFFF)]
  done := 0
  start := 0
  stop := 1
  total := 1
  code := 0
  stale := false
  fin := false
  ended := false
  dst := 4
  node := 0
  nodes := []
  scale := none
  sbytes := []
  seq := 0
  left := [0]
  lines := []
  claim := none
  next := none
  rel := []

/-- The copy under way, where frame 1 is of a key that its context does not own and holds the byte 1. -/
def lockedNeighbour : State :=
  let s := State.reset.placed 0x30
  { s with copies := [(0, acrossFrames)], mem := [(0x10000, 1)], shallot := { s.shallot with owner := [(1, 5)] } }

/-- The unit's second byte lands as zero, though the byte of memory is 1. -/
theorem lockedNeighbour_lands :
    mget ((transferPiece lockedNeighbour 0 1 0).team 0).win 1 = 0 ∧ loadedByte lockedNeighbour acrossFrames 0 1 = 1 := by
  decide +kernel

theorem lockedNeighbour_midPiece : midPiece lockedNeighbour 0 acrossFrames := ⟨rfl, rfl, by decide, by decide⟩

theorem lockedNeighbour_undisturbed : undisturbed lockedNeighbour 0 acrossFrames := by
  refine ⟨fun x hx hne => ?_, rfl, by decide +kernel⟩
  cases List.mem_singleton.mp hx
  exact absurd rfl hne

/-- Refutes O45: where an element crosses into a frame of a key that its context does not own, the machine loads zeros for the bytes of
that frame, and `loadedByte` demands the bytes of memory. -/
theorem not_queuesAnswerAndSlotsIssue : ¬ Obligations.QueuesAnswerAndSlotsIssue := by
  unfold Obligations.QueuesAnswerAndSlotsIssue
  intro h
  obtain ⟨-, -, -, -, -, -, hloads, -⟩ := h
  have hbounds : ∀ u ∈ acrossFrames.left, acrossFrames.lo + 16 * u + 16 ≤ 2 ^ 33 := by decide
  have hnobar : ∀ q ∈ acrossFrames.dests, ∀ b, q.2 = some b → b.1 + 16 ≤ 2 ^ 33 := fun q hq b hb => by
    cases List.mem_singleton.mp hq
    cases hb
  obtain ⟨t, ht, u, hu, -, -, hlanded, -⟩ := hloads 0 0 acrossFrames lockedNeighbour
    ⟨lockedNeighbour_midPiece, lockedNeighbour_undisturbed, rfl, rfl, hbounds, hnobar⟩
  cases List.mem_singleton.mp hu
  cases (exec_copyPieceTransfer 0 1 0 lockedNeighbour).symm.trans ht
  have hsettled : unitSettled lockedNeighbour acrossFrames 0 := fun e _ b _ w hw => nomatch hw
  have hbyte := hlanded hsettled (0, none) (List.mem_singleton.mpr rfl) rfl 1 (by decide) fun q hq _ b hb => by
    cases List.mem_singleton.mp hq
    cases hb
  obtain ⟨hzero, hone⟩ := lockedNeighbour_lands
  exact absurd (hzero.symm.trans (hbyte.trans hone)) (by decide)

end Sys2Proof.Machine

/-! O47 fails: a launch record of width 0, which `fitsAt` allows, places a cluster without a team, and an old team of that cluster's number
of the model's own, as it ends, takes the new cluster away. -/
namespace Sys2Proof.Machine

/-- A launch whose record gives its clusters width 0 and its teams a matrix stream, with one cluster placed. -/
def flatLaunch : Launch := { Launch.empty with record := List.replicate 150 0 ++ [2], args := some [], queue := some 0, placed := 1 }

/-- The launch at the head of its queue, and a team of it without groups and stream whose cluster is the next that is placed. -/
def flatHead : State :=
  { State.reset with
    mod := { State.reset.mod with state := 2 }
    launches := [(7, flatLaunch)]
    queues := [(0, { Queue.empty with pending := [7] })]
    asids := [(0, { Asid.empty with en := true })]
    teams := [(1, { Team.empty with resident := true, launch := 7, cluster := 5 })]
    nextUnit := 5 }

/-- A place on core 0, under cluster number 1. -/
def flatPlace : PlaceAt := ⟨0, 1, []⟩

theorem flatHead_dispatchable : (heads flatHead).find? (dispatchable flatHead) = some (7, some 0, 0) := by decide +kernel

theorem flatHead_fits : fitsAt flatHead 7 flatPlace [] :=
  ⟨by decide +kernel, by decide +kernel, by decide +kernel, .inr (by decide +kernel)⟩

/-- The placed cluster is gone once the old team has ended. -/
theorem flatHead_clusterGone : ((dispatch flatHead [flatPlace] none).cluster flatHead.nextUnit).number = 0 := by decide +kernel

/-- Refutes O47: the clause of a placement allows a record of width 0 and a team that already stands under the next cluster's number; the
cluster placed then ends at once with that team, and has not the number of its place. -/
theorem not_schedulerPlacesReleasesAndMoves : ¬ Obligations.SchedulerPlacesReleasesAndMoves := by
  unfold Obligations.SchedulerPlacesReleasesAndMoves
  intro h
  obtain ⟨-, -, -, -, hplaces, -⟩ := h
  obtain ⟨t, ht, -, -, hnumber, -⟩ := hplaces flatPlace (7, some 0, 0) [] flatHead ⟨.inl rfl, flatHead_dispatchable, flatHead_fits⟩
  cases (exec_launchDispatch [flatPlace] none flatHead).symm.trans ht
  exact absurd (hnumber.symm.trans flatHead_clusterGone) (by decide)

end Sys2Proof.Machine

/-! The layer of the resident OS: how a call begins and answers, what its reads and writes of memory leave (R331, R353), and the table
entries that it writes (R294, R299). -/
namespace Sys2Proof.Machine

/-! ### How a call begins and answers -/

/-- The second state differs in answers alone: steward cores' a0 and the mailbox. -/
def AnswerOnly (s t : State) : Prop := t = { s with stewards := t.stewards, mboxes := t.mboxes }

/-- A state in which a call is served: the mailbox alone differs, and neither its contexts nor the completions that it holds. -/
def Served (s u : State) : Prop :=
  u = { s with mboxes := u.mboxes } ∧ ∀ fn, (u.mbox fn).held = (s.mbox fn).held ∧ (u.mbox fn).asid = (s.mbox fn).asid

theorem Served.refl (s : State) : Served s s := ⟨rfl, fun _ => ⟨rfl, rfl⟩⟩

theorem setMbox_taken_served (s : State) (fn : Nat) (l : List (BitVec 16 × Nat × List DWord)) :
    Served s (s.setMbox fn { s.mbox fn with taken := l }) := by
  refine ⟨rfl, fun k => ?_⟩
  by_cases hk : k = fn
  · subst hk
    rw [mbox_setMbox_same]
    exact ⟨rfl, rfl⟩
  · have hother : (s.setMbox fn { s.mbox fn with taken := l }).mbox k = s.mbox k := aget_aput_ne _ hk _ _
    rw [hother]
    exact ⟨rfl, rfl⟩

theorem callBegin_served {s u : State} {who : Caller} {num : Nat} {args : List Nat} (h : callBegin s who num args = some u) :
    Served s u := by
  unfold callBegin at h
  split at h
  · cases h
  · cases who with
    | steward core asid =>
      dsimp only at h
      split at h
      · cases h
        exact .refl s
      · cases h
    | mailbox fn tag =>
      dsimp only at h
      split at h
      · cases h
        exact setMbox_taken_served s fn _
      · cases h

theorem served_served (s : State) (who : Caller) (num : Nat) (args : List Nat) : Served s (served_ s who num args) := by
  unfold served_
  cases h : callBegin s who num args with
  | none => exact .refl s
  | some u => exact callBegin_served h

theorem callerAsid_served {s u : State} (h : Served s u) (who : Caller) : callerAsid u who = callerAsid s who := by
  cases who with
  | steward core asid => rfl
  | mailbox fn tag => exact (h.2 fn).2

/-- What `callBegin` looks for among the entries that a mailbox function has taken. -/
theorem entry_matches {tag : BitVec 16} {num : Nat} {args : List Nat} (e : BitVec 16 × Nat × List DWord) :
    (e.1 == tag && e.2.1 == num && (e.2.2.take args.length).map (·.toNat) == args) = true ↔
      e.1 = tag ∧ e.2.1 = num ∧ (e.2.2.take args.length).map (·.toNat) = args := by
  rw [Bool.and_eq_true, Bool.and_eq_true, beq_iff_eq, beq_iff_eq, beq_iff_eq, and_assoc]

theorem callBegin_made {s : State} {who : Caller} {num : Nat} {args : List Nat} (h : CallMade s who num args) :
    callBegin s who num args = some (served_ s who num args) := by
  obtain ⟨hasid, hwho⟩ := h
  have hsome : ∃ u, callBegin s who num args = some u := by
    unfold callBegin
    rw [if_neg (by omega)]
    cases who with
    | steward core asid => exact ⟨s, if_pos hwho⟩
    | mailbox fn tag =>
      obtain ⟨e, he, hmatch⟩ := hwho
      have hfound : ((s.mbox fn).taken.find? fun e =>
          e.1 == tag && e.2.1 == num && (e.2.2.take args.length).map (·.toNat) == args).isSome = true :=
        List.find?_isSome.mpr ⟨e, he, (entry_matches e).mpr hmatch⟩
      obtain ⟨x, hx⟩ := Option.isSome_iff_exists.mp hfound
      exact ⟨_, by dsimp only; rw [hx]⟩
  obtain ⟨u, hu⟩ := hsome
  unfold served_
  rw [hu]
  rfl

theorem callBegin_not_made {s : State} {who : Caller} {num : Nat} {args : List Nat} (h : ¬CallMade s who num args) :
    callBegin s who num args = none := by
  unfold callBegin
  by_cases hasid : callerAsid s who ≥ 256
  · exact if_pos hasid
  rw [if_neg hasid]
  cases who with
  | steward core asid => exact if_neg fun hc => h ⟨by omega, hc⟩
  | mailbox fn tag =>
    have hnone : (s.mbox fn).taken.find? (fun e => e.1 == tag && e.2.1 == num && (e.2.2.take args.length).map (·.toNat) == args) = none :=
      List.find?_eq_none.mpr fun e he hmatch => h ⟨by omega, e, he, (entry_matches e).mp hmatch⟩
    dsimp only
    rw [hnone]

theorem answer_only (s : State) (who : Caller) (v : DWord) : AnswerOnly s (s.answer who v) := by cases who <;> rfl

theorem answer_answered {s u : State} (who : Caller) (v : DWord) (h : ∀ fn, (u.mbox fn).held = (s.mbox fn).held) :
    Answered who s (u.answer who v) v := by
  cases who with
  | steward core asid => exact congrArg Steward.out (aget_aput _ _ _ _)
  | mailbox fn tag =>
    have hsame : ((u.answer (.mailbox fn tag) v).mbox fn).held = (u.mbox fn).held ++ [(tag, v)] :=
      congrArg Mbox.held (mbox_setMbox_same u fn _)
    exact hsame.trans (by rw [h fn])

section Call
variable {s : State} {who : Caller} {num : Nat} {args : List Nat} {body : State → State × DWord}

theorem call_not_made (h : ¬CallMade s who num args) : call s who num args body = s := by
  unfold call
  rw [callBegin_not_made h]

theorem call_made (h : CallMade s who num args) :
    call s who num args body = (body (served_ s who num args)).1.answer who (body (served_ s who num args)).2 := by
  unfold call
  rw [callBegin_made h]

theorem held_of_mboxes {s u v : State} (h : Served s u) (hv : v.mboxes = u.mboxes) (fn : Nat) :
    (v.mbox fn).held = (s.mbox fn).held := by
  have hsame : v.mbox fn = u.mbox fn := congrArg (aget Mbox.empty fn) hv
  rw [hsame, (h.2 fn).1]

/-- A call that is made answers what its body gives, and leaves what its body leaves. -/
theorem call_answers (h : CallMade s who num args) {v : State} {x : DWord} (hb : body (served_ s who num args) = (v, x))
    (hv : v.mboxes = (served_ s who num args).mboxes) :
    Answered who s (call s who num args body) x ∧ AnswerOnly v (call s who num args body) := by
  rw [call_made h, hb]
  exact ⟨answer_answered who x (held_of_mboxes (served_served s who num args) hv), answer_only v who x⟩

/-- A call whose body changes nothing answers, and changes nothing else. -/
theorem call_refuses (h : CallMade s who num args) {x : DWord}
    (hb : body (served_ s who num args) = (served_ s who num args, x)) :
    Answered who s (call s who num args body) x ∧ AnswerOnly s (call s who num args body) := by
  obtain ⟨hans, honly⟩ := call_answers h hb rfl
  refine ⟨hans, ?_⟩
  unfold AnswerOnly at *
  rw [honly, (served_served s who num args).1]

/-- A call whose body leaves the mailbox as it was always answers, and nothing happens where it is not made. -/
theorem call_total (hbody : ∀ u, (body u).1.mboxes = u.mboxes) :
    (CallMade s who num args → ∃ x, Answered who s (call s who num args body) x) ∧
    (¬CallMade s who num args → call s who num args body = s) :=
  ⟨fun h => ⟨_, (call_answers h rfl (hbody _)).1⟩, call_not_made⟩

end Call

theorem AnswerOnly.tables {s t : State} (h : AnswerOnly s t) : TablesKept s t := by
  unfold AnswerOnly at h
  rw [h]
  exact ⟨rfl, rfl, rfl, rfl, rfl, rfl, rfl⟩

/-! ### What the resident OS's accesses leave (R353) -/

/-- The second state differs in what reads leave: the ordering state, parked lines and Shallot's count. -/
def OsReads (s t : State) : Prop :=
  t = { s with ord := t.ord, parks := t.parks, shallot := { s.shallot with refused := t.shallot.refused } }

/-- The second state differs in what reads and writes of memory leave. -/
def OsOnly (s t : State) : Prop :=
  t = { s with mem := t.mem, mpois := t.mpois, ord := t.ord, teams := t.teams, parks := t.parks, log := t.log, tlb := t.tlb
               shallot := { s.shallot with refused := t.shallot.refused } }

theorem OsReads.trans {s t u : State} (h : OsReads s t) (k : OsReads t u) : OsReads s u := by
  unfold OsReads at *
  rw [k, h]

theorem OsOnly.trans {s t u : State} (h : OsOnly s t) (k : OsOnly t u) : OsOnly s u := by
  unfold OsOnly at *
  rw [k, h]

theorem OsReads.only {s t : State} (h : OsReads s t) : OsOnly s t := by
  unfold OsReads at h
  unfold OsOnly
  rw [h]

theorem OsOnly.foldl {α : Type} {f : State → α → State} (h : ∀ s a, OsOnly s (f s a)) (l : List α) (s : State) :
    OsOnly s (l.foldl f s) := by
  induction l generalizing s with
  | nil => exact (rfl : OsOnly s s)
  | cons a l ih => exact (h s a).trans (ih _)

theorem OsOnly.eq {s t : State} (h : OsOnly s t) :
    t = { s with mem := t.mem, mpois := t.mpois, ord := t.ord, teams := t.teams, parks := t.parks, log := t.log, tlb := t.tlb
                 shallot := { s.shallot with refused := t.shallot.refused } } := h

theorem OsOnly.mboxes {s t : State} (h : OsOnly s t) : t.mboxes = s.mboxes := by rw [h.eq]

theorem stewRead_reads (s : State) (i key n : Nat) (aq : Bool) (ch : Nat) : OsReads s (stewRead s i key n aq ch).1 := by
  unfold stewRead
  split
  · exact rfl
  · cases aq <;> exact rfl

theorem osRead_reads {s : State} {i asid a n : Nat} {r : State × List Byte} (h : osRead s i asid a n = some r) : OsReads s r.1 := by
  have key : ∀ (l : List ((Nat × Nat) × Nat)) (r : State × List Byte), OsReads s r.1 →
      OsReads s (l.foldl (fun (r : State × List Byte) p =>
        ((stewRead r.1 i p.1.1 p.1.2 false (Config.free s.fresh 0 p.2)).1,
          r.2 ++ (stewRead r.1 i p.1.1 p.1.2 false (Config.free s.fresh 0 p.2)).2)) r).1 := by
    intro l
    induction l with
    | nil => exact fun _ hr => hr
    | cons p l ih => exact fun r hr => ih _ (hr.trans (stewRead_reads _ _ _ _ _ _))
  unfold osRead at h
  cases hspans : spans s asid a n .read with
  | none => rw [hspans] at h; cases h
  | some l =>
    rw [hspans] at h
    cases h
    exact key _ _ rfl

theorem osRead_of_no_span {s : State} {i asid a n : Nat} (h : spans s asid a n .read = none) : osRead s i asid a n = none := by
  unfold osRead
  rw [h]
  rfl

theorem osRead_of_span {s : State} {i asid a n : Nat} {l : List (Nat × Nat)} (h : spans s asid a n .read = some l) :
    ∃ r, osRead s i asid a n = some r := by
  unfold osRead
  rw [h]
  exact ⟨_, rfl⟩

/-- The second state differs in what one performed write leaves: memory or a window, and the ordering state. -/
def WriteOnly (s t : State) : Prop := t = { s with mem := t.mem, ord := t.ord, teams := t.teams }

theorem WriteOnly.trans {s t u : State} (h : WriteOnly s t) (k : WriteOnly t u) : WriteOnly s u := by
  unfold WriteOnly at *
  rw [k, h]

theorem WriteOnly.only {s t : State} (h : WriteOnly s t) : OsOnly s t := by
  unfold WriteOnly at h
  unfold OsOnly
  rw [h]

theorem withOrd_writes (s : State) (o : Ord) : WriteOnly s { s with ord := o } := rfl

theorem pokes_writes (s : State) (k : Nat) (bs : List Byte) : WriteOnly s (s.pokes k bs) := by
  unfold State.pokes
  split <;> exact rfl

theorem perform_writes (s : State) (n : Nat) : WriteOnly s (s.perform n) := by
  unfold State.perform
  split
  · exact rfl
  · exact (pokes_writes s _ _).trans rfl

/-- A write is entered, performed and acknowledged. -/
def performed (s : State) (w : WriteRec) : State := ((s.addWrite w).perform w.node).ackW w.node

theorem performed_writes (s : State) (w : WriteRec) : WriteOnly s (performed s w) := by
  have hadd : WriteOnly s (s.addWrite w) := withOrd_writes s _
  have hack : WriteOnly ((s.addWrite w).perform w.node) (performed s w) := withOrd_writes _ _
  exact (hadd.trans (perform_writes _ _)).trans hack

theorem performed_mem (s : State) {w : WriteRec} (hd : w.done = false) (hw : w.addr < 2 ^ 70) :
    (performed s w).mem = mwrite s.mem w.addr w.bytes := by
  have h : ((s.addWrite w).perform w.node).mem = ((s.addWrite w).pokes w.addr w.bytes).mem :=
    by rw [perform_first (s := s.addWrite w) (w := w) rfl hd]
  have hpokes : ((s.addWrite w).pokes w.addr w.bytes).mem = mwrite s.mem w.addr w.bytes := by
    unfold State.pokes
    rw [if_pos hw]
    rfl
  exact h.trans hpokes

/-- The state in which a steward core's write is entered: the lines that it reaches are home, and it has its event. -/
def stewReady (s : State) (i key n : Nat) : State :=
  let u := (partsOf 128 key n).foldl (fun s p => s.unpark (p.1 / 128)) s
  { u with ord := (u.ord.event (stewardAgent i) []).2 }

/-- What a steward core writes. -/
def stewRecord (s : State) (i key : Nat) (bytes : List Byte) (rl : Bool) : WriteRec :=
  let nd := (((partsOf 128 key bytes.length).foldl (fun s p => s.unpark (p.1 / 128)) s).ord.event (stewardAgent i) []).1
  let u := stewReady s i key bytes.length
  ⟨nd, stewardAgent i, stewardPlace u i, key, bytes, true, 5, false, false,
    relOf (u.ord.ag (stewardAgent i)) nd (stewardPlace u i) 5 rl true, none, [], [], false⟩

theorem stewWrite_performed {s : State} {key : Nat} (hkey : keyOf s key = 0) (hport : s.portFailed key = false) (i : Nat)
    (bytes : List Byte) (rl : Bool) :
    stewWrite s i key bytes rl = performed (stewReady s i key bytes.length) (stewRecord s i key bytes rl) := by
  unfold stewWrite
  rw [if_neg (not_not.mpr hkey), if_neg (by rw [hport]; decide)]
  rfl

theorem unparks_notes (l : List (Nat × Nat)) (s : State) : NotesOnly s (l.foldl (fun s p => s.unpark (p.1 / 128)) s) :=
  NotesOnly.foldl (fun s _ => unpark_notes s _) l s

theorem unparks_only (l : List (Nat × Nat)) (s : State) : OsOnly s (l.foldl (fun s p => s.unpark (p.1 / 128)) s) :=
  OsOnly.foldl (f := fun s (p : Nat × Nat) => s.unpark (p.1 / 128)) (fun _ _ => rfl) l s

theorem stewReady_only (s : State) (i key n : Nat) : OsOnly s (stewReady s i key n) :=
  (unparks_only _ s).trans (withOrd_writes _ _).only

theorem stewWrite_only (s : State) (i key : Nat) (bytes : List Byte) (rl : Bool) : OsOnly s (stewWrite s i key bytes rl) := by
  by_cases hkey : keyOf s key = 0
  · cases hport : s.portFailed key with
    | true =>
      unfold stewWrite
      rw [if_neg (not_not.mpr hkey), if_pos hport]
      exact rfl
    | false =>
      rw [stewWrite_performed hkey hport]
      exact (stewReady_only s i key _).trans (performed_writes _ _).only
  · unfold stewWrite
    rw [if_pos hkey]
    exact rfl

theorem stewWrite_mem {s : State} {key : Nat} (hkey : keyOf s key = 0) (hport : s.portFailed key = false) (hlt : key < 2 ^ 70)
    (i : Nat) (bytes : List Byte) (rl : Bool) : (stewWrite s i key bytes rl).mem = mwrite s.mem key bytes := by
  have hready : (stewReady s i key bytes.length).mem = s.mem := (unparks_notes _ s).mem
  rw [stewWrite_performed hkey hport, performed_mem _ rfl hlt, hready]
  rfl

theorem osWrite_only {s t : State} {i asid a : Nat} {bytes : List Byte} (h : osWrite s i asid a bytes = some t) : OsOnly s t := by
  have key : ∀ (l : List (Nat × Nat)) (r : State × List Byte), OsOnly s r.1 →
      OsOnly s (l.foldl (fun (r : State × List Byte) p => (stewWrite r.1 i p.1 (r.2.take p.2) false, r.2.drop p.2)) r).1 := by
    intro l
    induction l with
    | nil => exact fun _ hr => hr
    | cons p l ih => exact fun r hr => ih _ (hr.trans (stewWrite_only _ _ _ _ _))
  unfold osWrite at h
  cases hspans : spans s asid a bytes.length .write with
  | none => rw [hspans] at h; cases h
  | some l =>
    rw [hspans] at h
    cases h
    exact key l (s, bytes) rfl

theorem osWrite_of_span {s : State} {i asid a : Nat} {bytes : List Byte} (h : spans s asid a bytes.length .write ≠ none) :
    ∃ t, osWrite s i asid a bytes = some t := by
  unfold osWrite
  cases hspans : spans s asid a bytes.length .write with
  | none => exact absurd hspans h
  | some l => exact ⟨_, rfl⟩

theorem osWrite_lands {s t : State} {i asid a key : Nat} {bytes : List Byte} (hland : landsAt s asid a bytes.length key)
    (h : osWrite s i asid a bytes = some t) : t.mem = mwrite s.mem key bytes := by
  obtain ⟨hspan, hkey, hport, hlt⟩ := hland
  unfold osWrite at h
  rw [hspan] at h
  cases h
  refine (stewWrite_mem hkey hport hlt i _ false).trans ?_
  rw [List.take_length]

/-! ### Table entries that the resident OS writes (R294, R299) -/

theorem putEntryAs_writes (s : State) (ag : Nat) (pl : Place) (sc : Nat) (rel : Bool) (pa v : Nat) :
    WriteOnly s (putEntryAs s ag pl sc rel pa v) := (withOrd_writes s (s.ord.event ag []).2).trans (performed_writes _ _)

theorem putEntryAs_mem {s : State} {pa : Nat} (h : devKey s.self pa < 2 ^ 70) (ag : Nat) (pl : Place) (sc : Nat) (rel : Bool) (v : Nat) :
    (putEntryAs s ag pl sc rel pa v).mem = mwrite s.mem (devKey s.self pa) (natLe 8 v) :=
  performed_mem { s with ord := (s.ord.event ag []).2 } rfl h

theorem osEntry_writes (s : State) (i pa v : Nat) : WriteOnly s (osEntry s i pa v) := putEntryAs_writes _ _ _ _ _ _ _

theorem osEntry_only (s : State) (i pa v : Nat) : OsOnly s (osEntry s i pa v) := (osEntry_writes s i pa v).only

theorem osEntry_self (s : State) (i pa v : Nat) : (osEntry s i pa v).self = s.self := by rw [(osEntry_only s i pa v).eq]

theorem osEntry_tlb (s : State) (i pa v : Nat) : (osEntry s i pa v).tlb = s.tlb := by
  have h := osEntry_writes s i pa v
  unfold WriteOnly at h
  rw [h]

theorem osEntry_mem {s : State} {pa : Nat} (h : devKey s.self pa < 2 ^ 70) (i v : Nat) :
    (osEntry s i pa v).mem = mwrite s.mem (devKey s.self pa) (natLe 8 v) := putEntryAs_mem h _ _ _ _ _

theorem osEntry_rd {s : State} {pa v : Nat} (h : devKey s.self pa < 2 ^ 70) (i : Nat) (hv : v < 2 ^ 64) :
    (osEntry s i pa v).rd (devKey s.self pa) 8 = v := by
  unfold State.rd
  rw [osEntry_mem h]
  have hread := mread_mwrite s.mem (devKey s.self pa) (natLe 8 v)
  rw [natLe_length] at hread
  rw [hread, leNat_natLe]
  exact Nat.mod_eq_of_lt hv

theorem osEntry_byte {s : State} {pa : Nat} (h : devKey s.self pa < 2 ^ 70) (i v : Nat) {k : Nat}
    (hk : k < devKey s.self pa ∨ devKey s.self pa + 8 ≤ k) : (osEntry s i pa v).byte k = s.byte k := by
  unfold State.byte
  rw [osEntry_mem h]
  exact mget_mwrite_outside _ (by rw [natLe_length]; exact hk)

theorem rd_congr {s t : State} {k n : Nat} (h : ∀ j < n, t.byte (k + j) = s.byte (k + j)) : t.rd k n = s.rd k n := by
  unfold State.rd
  rw [mread_eq, mread_eq]
  exact congrArg leNat (List.map_congr_left fun j hj => h j (List.mem_range.mp hj))

theorem osEntry_rd_apart {s : State} {pa : Nat} (h : devKey s.self pa < 2 ^ 70) (i v : Nat) {k n : Nat}
    (hk : k + n ≤ devKey s.self pa ∨ devKey s.self pa + 8 ≤ k) : (osEntry s i pa v).rd k n = s.rd k n :=
  rd_congr fun j hj => osEntry_byte h i v (by omega)

theorem zeroFrame_only (s : State) (f : Nat) : OsOnly s (zeroFrame s f) := rfl

theorem mapLeaf_go_only (i va level leaf fuel : Nat) (s : State) (node lv : Nat) (fs : List Nat) {r : State × List Nat}
    (h : mapLeaf.go i va level leaf fuel s node lv fs = .ok r) : OsOnly s r.1 := by
  induction fuel generalizing s node lv fs with
  | zero => cases h
  | succ fuel ih =>
    unfold mapLeaf.go at h
    dsimp only at h
    split at h
    · split at h
      · cases h
      · cases h
        exact osEntry_only _ _ _ _
    · split at h
      · split at h
        · cases h
        · exact ih _ _ _ _ h
      · split at h
        · cases h
        · split at h
          · cases h
          · exact ((zeroFrame_only s _).trans (osEntry_only _ _ _ _)).trans (ih _ _ _ _ h)

theorem mapLeaf_only {s : State} {i asid va level leaf : Nat} {fs : List Nat} {r : State × List Nat}
    (h : mapLeaf s i asid va level leaf fs = .ok r) : OsOnly s r.1 := mapLeaf_go_only _ _ _ _ _ _ _ _ _ h

theorem mapRange_only {s t : State} {c asid va n attr : Nat} {frames : List Nat} (h : mapRange s c asid va n attr frames = .ok t) :
    OsOnly s t := by
  have key : ∀ (step : State → List Nat → Nat → Except Nat (State × List Nat))
      (_ : ∀ s fs i r, step s fs i = .ok r → OsOnly s r.1) (l : List Nat) (r : Except Nat (State × List Nat))
      (_ : ∀ x, r = .ok x → OsOnly s x.1) (x : State × List Nat)
      (_ : l.foldl (fun (r : Except Nat (State × List Nat)) i => match r with | .error e => .error e | .ok (s, fs) => step s fs i) r = .ok x),
      OsOnly s x.1 := by
    intro step hstep l
    induction l with
    | nil => exact fun r hr x hx => hr x hx
    | cons i l ih =>
      refine fun r hr x hx => ih _ (fun y hy => ?_) x hx
      cases r with
      | error e => cases hy
      | ok z => exact (hr z rfl).trans (hstep _ _ _ _ hy)
  unfold mapRange at h
  dsimp only at h
  generalize (if (bits attr 15 1 == 1) = true then n else 0) = data at h
  split at h
  · cases h
  split at h
  · cases h
  revert h
  generalize hfold : List.foldl _ _ _ = r
  intro h
  cases r with
  | error e => cases h
  | ok x =>
    cases h
    refine key (fun s fs i => _) (fun s fs i r hr => mapLeaf_only hr) _ _ (fun y hy => ?_) x hfold
    cases hy
    exact rfl

end Sys2Proof.Machine

/-! The system calls of R331: every call answers, and each of its errors changes nothing else. -/
namespace Sys2Proof.Machine

/-! ### What the relations of the layer keep -/

section Kept
variable {s t : State}

theorem Served.answerOnly (h : Served s t) : AnswerOnly s t := by
  obtain ⟨h, -⟩ := h
  unfold AnswerOnly
  rw [h]

theorem AnswerOnly.eq (h : AnswerOnly s t) : t = { s with stewards := t.stewards, mboxes := t.mboxes } := h
theorem AnswerOnly.mem (h : AnswerOnly s t) : t.mem = s.mem := by rw [h.eq]
theorem AnswerOnly.byte (h : AnswerOnly s t) (k : Nat) : t.byte k = s.byte k := congrArg (mget · k) h.mem
theorem AnswerOnly.rd (h : AnswerOnly s t) (k n : Nat) : t.rd k n = s.rd k n := rd_congr fun _ _ => h.byte _
theorem AnswerOnly.asids (h : AnswerOnly s t) : t.asids = s.asids := by rw [h.eq]
theorem AnswerOnly.asid (h : AnswerOnly s t) (a : Nat) : t.asid a = s.asid a := congrArg (aget Asid.empty a) h.asids
theorem AnswerOnly.launches (h : AnswerOnly s t) : t.launches = s.launches := by rw [h.eq]
theorem AnswerOnly.queues (h : AnswerOnly s t) : t.queues = s.queues := by rw [h.eq]
theorem AnswerOnly.tt (h : AnswerOnly s t) : t.tt = s.tt := by rw [h.eq]
theorem AnswerOnly.groups (h : AnswerOnly s t) : t.groups = s.groups := by rw [h.eq]
theorem AnswerOnly.log (h : AnswerOnly s t) : t.log = s.log := by rw [h.eq]
theorem AnswerOnly.tlb (h : AnswerOnly s t) : t.tlb = s.tlb := by rw [h.eq]
theorem AnswerOnly.self (h : AnswerOnly s t) : t.self = s.self := by rw [h.eq]
theorem AnswerOnly.shallot (h : AnswerOnly s t) : t.shallot = s.shallot := by rw [h.eq]
theorem AnswerOnly.nextLaunch (h : AnswerOnly s t) : t.nextLaunch = s.nextLaunch := by rw [h.eq]
theorem AnswerOnly.waitCalls (h : AnswerOnly s t) : t.waitCalls = s.waitCalls := by rw [h.eq]
theorem AnswerOnly.kernels (h : AnswerOnly s t) : t.kernels = s.kernels := by rw [h.eq]
theorem AnswerOnly.time (h : AnswerOnly s t) : t.time = s.time := by rw [h.eq]

theorem OsOnly.asids (h : OsOnly s t) : t.asids = s.asids := by rw [h.eq]
theorem OsOnly.launches (h : OsOnly s t) : t.launches = s.launches := by rw [h.eq]
theorem OsOnly.queues (h : OsOnly s t) : t.queues = s.queues := by rw [h.eq]
theorem OsOnly.tt (h : OsOnly s t) : t.tt = s.tt := by rw [h.eq]
theorem OsOnly.groups (h : OsOnly s t) : t.groups = s.groups := by rw [h.eq]
theorem OsOnly.nextLaunch (h : OsOnly s t) : t.nextLaunch = s.nextLaunch := by rw [h.eq]
theorem OsOnly.self (h : OsOnly s t) : t.self = s.self := by rw [h.eq]
theorem OsOnly.measured (h : OsOnly s t) : t.shallot.measured = s.shallot.measured := by rw [h.eq]
theorem OsOnly.spdm (h : OsOnly s t) : t.shallot.spdm = s.shallot.spdm := by rw [h.eq]

theorem OsReads.eq (h : OsReads s t) :
    t = { s with ord := t.ord, parks := t.parks, shallot := { s.shallot with refused := t.shallot.refused } } := h
theorem OsReads.mem (h : OsReads s t) : t.mem = s.mem := by rw [h.eq]
theorem OsReads.byte (h : OsReads s t) (k : Nat) : t.byte k = s.byte k := congrArg (mget · k) h.mem
theorem OsReads.log (h : OsReads s t) : t.log = s.log := by rw [h.eq]

theorem OsReads.tables (h : OsReads s t) : TablesKept s t := by
  rw [h.eq]
  exact ⟨rfl, rfl, rfl, rfl, rfl, rfl, rfl⟩

theorem TablesKept.trans {u : State} (h : TablesKept s t) (k : TablesKept t u) : TablesKept s u := by
  obtain ⟨h1, h2, h3, h4, h5, h6, h7⟩ := h
  obtain ⟨k1, k2, k3, k4, k5, k6, k7⟩ := k
  exact ⟨k1.trans h1, k2.trans h2, k3.trans h3, k4.trans h4, k5.trans h5, k6.trans h6, k7.trans h7⟩

end Kept

theorem served_only (s : State) (who : Caller) (num : Nat) (args : List Nat) : AnswerOnly s (served_ s who num args) :=
  (served_served s who num args).answerOnly

theorem callerAsid_served_ (s : State) (who : Caller) (num : Nat) (args : List Nat) :
    callerAsid (served_ s who num args) who = callerAsid s who := callerAsid_served (served_served s who num args) who

/-! ### Every call answers -/

theorem waitBlock_reads {s : State} {i asid a : Nat} {w : State × List Byte} (h : waitBlock s i asid a = .ok w) : OsReads s w.1 := by
  unfold waitBlock at h
  split at h
  · cases h
    exact rfl
  split at h
  · cases h
  split at h
  · next r hr =>
    split at h
    · cases h
      exact show OsReads s r.1 from osRead_reads hr
    · cases h
  · cases h

theorem waitBlock_none (s : State) (i asid : Nat) : waitBlock s i asid 0 = .ok (s, List.replicate 24 0) := if_pos rfl

theorem feed_asids (s : State) (asid f : Nat) : feed s asid f = { s with asids := (feed s asid f).asids } := by
  unfold feed
  split <;> rfl

theorem feeds_asids (l : List Nat) (s : State) (asid : Nat) :
    l.foldl (fun s f => feed s asid f) s = { s with asids := (l.foldl (fun s f => feed s asid f) s).asids } := by
  induction l generalizing s with
  | nil => rfl
  | cons f l ih =>
    rw [List.foldl_cons, ih, feed_asids s asid f]

/-- A call is answered where it is made, and nothing happens where it is not. -/
def Total (s : State) (who : Caller) (num : Nat) (args : List Nat) (t : State) : Prop :=
  (CallMade s who num args → ∃ x, Answered who s t x) ∧ (¬CallMade s who num args → t = s)

theorem sysLog_total (s : State) (who : Caller) (a n : Nat) : Total s who 1 [a, n] (sysLog s who a n) := call_total fun u => by
  dsimp only
  split
  · rfl
  · next r hr => exact (osRead_reads hr).only.mboxes

theorem sysMap_total (s : State) (who : Caller) (va n attr : Nat) (frames : List Nat) :
    Total s who 2 [va, n, attr] (sysMap s who va n attr frames) := call_total fun u => by
  dsimp only
  split
  · rfl
  split
  · rfl
  split
  · rfl
  · next t ht => exact (mapRange_only ht).mboxes

theorem sysLaunch_total (s : State) (who : Caller) (idx arg q wb dest : Nat) :
    Total s who 4 [idx, arg, q, wb] (sysLaunch s who idx arg q wb dest) := call_total fun u => by
  dsimp only
  split
  · rfl
  split
  · rfl
  split
  · rfl
  split
  · rfl
  next w hw =>
  split
  · rfl
  split
  · rfl
  split
  · rfl
  next t ht => exact (osWrite_only ht).mboxes.trans (waitBlock_reads hw).only.mboxes

theorem sysPool_total (s : State) (who : Caller) (n : Nat) (frames : List Nat) : Total s who 6 [n] (sysPool s who n frames) :=
  call_total fun u => by
    dsimp only
    split
    · rfl
    · rw [feeds_asids]

theorem sysTtset_total (s : State) (who : Caller) (e rec_ first period : Nat) :
    Total s who 7 [e, rec_, first, period] (sysTtset s who e rec_ first period) := call_total fun u => by
  dsimp only
  split
  · rfl
  split
  · rfl
  split
  · rfl
  next r hr =>
  split
  · rfl
  split
  · rfl
  next t ht => exact (osWrite_only ht).mboxes.trans (osRead_reads hr).only.mboxes

/-- What a dtpage call leaves once its page is mapped: the process tree `blob` is written to frame `f`, and the context knows its page. -/
def dtpageWritten (who : Caller) (va asid f : Nat) (blob : List Byte) (t : State) : State :=
  let w := stewWrite t (callerCore who) (devKey t.self (f * 65536)) blob false
  w.setAsid asid { w.asid asid with dtpage := BitVec.ofNat 64 va }

/-- What a dtpage call does and answers; `blob` is the process tree, `map f` what the mapping of frame `f` gives. They are variables
here, so that no case of the call is decided by evaluating them. -/
def dtpageAnswer (who : Caller) (va asid : Nat) (frames : List Nat) (blob : List Byte) (map : Nat → Except Nat State) (s : State) :
    State × DWord :=
  if (s.asid asid).dtpage ≠ 0 then (s, (s.asid asid).dtpage)
  else if va % 65536 ≠ 0 ∨ va = 0 ∨ va ≥ 2 ^ 57 ∨ blob.length > 65536 then (s, callErr 4)
  else match frames with
  | [] => (s, callErr 4)
  | f :: _ => match map f with
    | .error _ => (s, callErr 4)
    | .ok t => (dtpageWritten who va asid f blob t, BitVec.ofNat 64 va)

theorem sysDtpage_eq (s : State) (who : Caller) (va : Nat) (frames : List Nat) (cut : DtCut) :
    sysDtpage s who va frames cut = call s who 8 [] fun u =>
      dtpageAnswer who va (callerAsid u who) frames (processTree u (callerAsid u who) cut)
        (fun f => mapRange (zeroFrame u f) (callerCore who) (callerAsid u who) va 1 dtAttr frames) u := by
  rw [sysDtpage]
  rfl

section Dtpage
variable {who : Caller} {va asid : Nat} {frames : List Nat} {blob : List Byte} {map : Nat → Except Nat State} {u : State}

/-- What holds of the state and of every page written holds of what the call leaves. -/
theorem dtpageAnswer_keeps {P : State → Prop} (hu : P u) (hw : ∀ f t, map f = .ok t → P (dtpageWritten who va asid f blob t)) :
    P (dtpageAnswer who va asid frames blob map u).1 := by
  unfold dtpageAnswer
  split
  · exact hu
  split
  · exact hu
  split
  · exact hu
  split
  · exact hu
  next t ht => exact hw _ t ht

theorem dtpageAnswer_of_mapped {f : Nat} {fs : List Nat} {t : State} (hfirst : (u.asid asid).dtpage = 0)
    (hgood : ¬(va % 65536 ≠ 0 ∨ va = 0 ∨ va ≥ 2 ^ 57 ∨ blob.length > 65536)) (ht : map f = .ok t) :
    dtpageAnswer who va asid (f :: fs) blob map u = (dtpageWritten who va asid f blob t, BitVec.ofNat 64 va) := by
  unfold dtpageAnswer
  rw [if_neg (not_not_intro hfirst), if_neg hgood]
  dsimp only
  rw [ht]

theorem dtpageWritten_mboxes (t : State) (f : Nat) : (dtpageWritten who va asid f blob t).mboxes = t.mboxes :=
  (State.setAsid_mboxes _ _ _).trans (stewWrite_only t (callerCore who) (devKey t.self (f * 65536)) blob false).mboxes

end Dtpage

theorem sysDtpage_total (s : State) (who : Caller) (va : Nat) (frames : List Nat) (cut : DtCut) :
    Total s who 8 [] (sysDtpage s who va frames cut) := by
  rw [sysDtpage_eq]
  refine call_total fun u => dtpageAnswer_keeps (P := fun t => t.mboxes = u.mboxes) rfl fun f t ht => ?_
  have hzero : (zeroFrame u f).mboxes = u.mboxes := rfl
  exact (dtpageWritten_mboxes t f).trans ((mapRange_only ht).mboxes.trans hzero)

theorem sysAttest_total (s : State) (who : Caller) (nonce rep : Nat) : Total s who 9 [nonce, rep] (sysAttest s who nonce rep) :=
  call_total fun u => by
    dsimp only
    split
    · rfl
    next r hr =>
    split
    · rfl
    next t ht => exact (osWrite_only ht).mboxes.trans (osRead_reads hr).only.mboxes

theorem sysRecord_total (s : State) (who : Caller) (idx arg dest wb : Nat) :
    Total s who 10 [idx, arg, dest, wb] (sysRecord s who idx arg dest wb) := call_total fun u => by
  dsimp only
  split
  · rfl
  split
  · rfl
  split
  · rfl
  next w hw =>
  split
  · rfl
  split
  · rfl
  next t ht => exact (osWrite_only ht).mboxes.trans (waitBlock_reads hw).only.mboxes

theorem calls_total {who : Caller} {a0 a1 a2 a3 dest : Nat} {frames : List Nat} {cut : DtCut} {x : Instr × Nat × List Nat}
    (hx : calls who a0 a1 a2 a3 dest frames cut x) (s : State) : ∃ t, exec x.1 s = .next t ∧ Total s who x.2.1 x.2.2 t := by
  unfold calls at hx
  simp only [List.mem_cons, List.not_mem_nil, or_false] at hx
  rcases hx with rfl | rfl | rfl | rfl | rfl | rfl | rfl | rfl
  · exact ⟨_, exec_sysLog _ _ _ s, sysLog_total s who a0 a1⟩
  · exact ⟨_, exec_sysMap _ _ _ _ _ s, sysMap_total s who a0 a1 a2 frames⟩
  · exact ⟨_, exec_sysLaunch _ _ _ _ _ _ s, sysLaunch_total s who a0 a1 a2 a3 dest⟩
  · exact ⟨_, exec_sysPool _ _ _ s, sysPool_total s who a0 frames⟩
  · exact ⟨_, exec_sysTtset _ _ _ _ _ s, sysTtset_total s who a0 a1 a2 a3⟩
  · exact ⟨_, exec_sysDtpage _ _ _ _ s, sysDtpage_total s who a0 frames cut⟩
  · exact ⟨_, exec_sysAttest _ _ _ s, sysAttest_total s who a0 a1⟩
  · exact ⟨_, exec_sysRecord _ _ _ _ _ s, sysRecord_total s who a0 a1 a2 a3⟩

/-! ### Errors -/

section Errors
variable {s : State} {who : Caller}

/-- A call is answered with an error, and changes nothing else. -/
def Refused (who : Caller) (s t : State) (x : DWord) : Prop := Answered who s t x ∧ AnswerOnly s t

theorem Refused.tables {t : State} {x : DWord} (h : Refused who s t x) : Answered who s t x ∧ TablesKept s t := ⟨h.1, h.2.tables⟩

theorem sysLog_refused {a n : Nat} (hm : CallMade s who 1 [a, n])
    (hspan : spans (served_ s who 1 [a, n]) (callerAsid (served_ s who 1 [a, n]) who) a n .read = none) :
    Refused who s (sysLog s who a n) (-3) := by
  unfold sysLog
  refine call_refuses hm ?_
  dsimp only
  rw [osRead_of_no_span hspan]
  rfl

theorem sysMap_bad {va n attr : Nat} {frames : List Nat} (hm : CallMade s who 2 [va, n, attr]) (hbad : mapBad va n attr) :
    Refused who s (sysMap s who va n attr frames) (-2) := call_refuses hm (if_pos hbad)

theorem sysMap_key {va n attr : Nat} {frames : List Nat} (hm : CallMade s who 2 [va, n, attr]) (hgood : ¬mapBad va n attr)
    (hkey : bits attr 50 6 ≠ 0)
    (howner : afind (bits attr 50 6) (served_ s who 2 [va, n, attr]).shallot.keys ≠ some (callerAsid (served_ s who 2 [va, n, attr]) who)) :
    Refused who s (sysMap s who va n attr frames) (-3) := call_refuses hm ((if_neg hgood).trans (if_pos ⟨hkey, howner⟩))

/-- What `sysMap` does once the checks before the table pass. -/
theorem sysMap_passes {va n attr : Nat} {frames : List Nat} {r : Except Nat State} (hm : CallMade s who 2 [va, n, attr])
    (hgives : mapGives (served_ s who 2 [va, n, attr]) who va n attr frames r) :
    (∀ e, r = .error e → Refused who s (sysMap s who va n attr frames) (callErr e)) ∧
    ∀ v, r = .ok v → Answered who s (sysMap s who va n attr frames) 0 ∧ AnswerOnly v (sysMap s who va n attr frames) := by
  obtain ⟨hgood, hkey, hrange⟩ := hgives
  have howned : ¬(bits attr 50 6 ≠ 0 ∧
      afind (bits attr 50 6) (served_ s who 2 [va, n, attr]).shallot.keys ≠ some (callerAsid (served_ s who 2 [va, n, attr]) who)) :=
    fun ⟨h0, ho⟩ => hkey.elim h0 ho
  refine ⟨fun e he => call_refuses hm ?_, fun v hv => ?_⟩
  · subst he
    refine (if_neg hgood).trans ((if_neg howned).trans ?_)
    rw [hrange]
  · subst hv
    refine call_answers hm ((if_neg hgood).trans ((if_neg howned).trans ?_)) (mapRange_only hrange).mboxes
    rw [hrange]

theorem sysLaunch_bad {idx arg q wb dest : Nat} (hm : CallMade s who 4 [idx, arg, q, wb])
    (h : s.kernel (callerAsid (served_ s who 4 [idx, arg, q, wb]) who) idx = none ∨ arg % 256 ≠ 0 ∨ 256 ≤ q) :
    Refused who s (sysLaunch s who idx arg q wb dest) (-2) := by
  have hk : (served_ s who 4 [idx, arg, q, wb]).kernel (callerAsid (served_ s who 4 [idx, arg, q, wb]) who) idx =
      s.kernel (callerAsid (served_ s who 4 [idx, arg, q, wb]) who) idx := by
    unfold State.kernel
    rw [(served_only s who 4 [idx, arg, q, wb]).kernels]
  unfold sysLaunch
  refine call_refuses hm ?_
  dsimp only
  rw [hk]
  split
  · rfl
  · next k hsome =>
    refine if_pos (h.resolve_left fun hnone => ?_)
    rw [hsome] at hnone
    cases hnone

theorem sysLaunch_queue {idx arg q wb dest : Nat} {k : Kernel} (hm : CallMade s who 4 [idx, arg, q, wb])
    (hk : s.kernel (callerAsid (served_ s who 4 [idx, arg, q, wb]) who) idx = some k) (harg : arg % 256 = 0) (hq : q < 256)
    (hqueue : (s.queue q).en = false ∨ (s.queue q).asid ≠ callerAsid (served_ s who 4 [idx, arg, q, wb]) who) :
    Refused who s (sysLaunch s who idx arg q wb dest) (-3) := by
  have hsame : (served_ s who 4 [idx, arg, q, wb]).queue q = s.queue q :=
    congrArg (aget Queue.empty q) (served_only s who 4 [idx, arg, q, wb]).queues
  have hku : (served_ s who 4 [idx, arg, q, wb]).kernel (callerAsid (served_ s who 4 [idx, arg, q, wb]) who) idx = some k := by
    rw [← hk]
    unfold State.kernel
    rw [(served_only s who 4 [idx, arg, q, wb]).kernels]
  unfold sysLaunch
  refine call_refuses hm ?_
  dsimp only
  rw [hku]
  dsimp only
  rw [if_neg (by omega), hsame]
  refine if_pos ?_
  rcases hqueue with h | h
  · rw [h]
    rfl
  · rw [Bool.or_eq_true]
    exact .inr (bne_iff_ne.mpr h)

theorem sysRecord_bad {idx arg dest wb : Nat} (hm : CallMade s who 10 [idx, arg, dest, wb])
    (h : s.kernel (callerAsid (served_ s who 10 [idx, arg, dest, wb]) who) idx = none ∨ arg % 256 ≠ 0 ∨ dest % 256 ≠ 0) :
    Refused who s (sysRecord s who idx arg dest wb) (-2) := by
  have hk : (served_ s who 10 [idx, arg, dest, wb]).kernel (callerAsid (served_ s who 10 [idx, arg, dest, wb]) who) idx =
      s.kernel (callerAsid (served_ s who 10 [idx, arg, dest, wb]) who) idx := by
    unfold State.kernel
    rw [(served_only s who 10 [idx, arg, dest, wb]).kernels]
  unfold sysRecord
  refine call_refuses hm ?_
  dsimp only
  rw [hk]
  split
  · rfl
  · next k hsome =>
    refine if_pos (h.resolve_left fun hnone => ?_)
    rw [hsome] at hnone
    cases hnone

theorem sysTtset_bad {e rec_ first period : Nat} (hm : CallMade s who 7 [e, rec_, first, period])
    (h : 64 ≤ e ∨ rec_ % 256 ≠ 0 ∨ period < 10000 ∨ 2 ^ 32 ≤ period) : Refused who s (sysTtset s who e rec_ first period) (-2) :=
  call_refuses hm (if_pos h)

theorem sysTtset_refused {e rec_ first period : Nat} (hm : CallMade s who 7 [e, rec_, first, period])
    (hgood : e < 64 ∧ rec_ % 256 = 0 ∧ 10000 ≤ period ∧ period < 2 ^ 32)
    (h : ((aget TtEnt.empty e s.tt).en = true ∧ (aget TtEnt.empty e s.tt).asid.toNat ≠ callerAsid s who) ∨
      spans (served_ s who 7 [e, rec_, first, period]) (callerAsid s who) rec_ 256 .read = none) :
    Refused who s (sysTtset s who e rec_ first period) (-3) := by
  unfold sysTtset
  refine call_refuses hm ?_
  dsimp only
  rw [if_neg (by omega), (served_only s who 7 [e, rec_, first, period]).tt, callerAsid_served_]
  rcases h with ⟨hen, hasid⟩ | hspan
  · refine if_pos ?_
    rw [hen]
    exact bne_iff_ne.mpr hasid
  · rw [osRead_of_no_span hspan]
    split <;> rfl

theorem sysAttest_refused {nonce rep : Nat} (hm : CallMade s who 9 [nonce, rep])
    (hspan : spans (served_ s who 9 [nonce, rep]) (callerAsid s who) nonce 32 .read = none) :
    Refused who s (sysAttest s who nonce rep) (-3) := by
  unfold sysAttest
  refine call_refuses hm ?_
  dsimp only
  rw [callerAsid_served_, osRead_of_no_span hspan]
  rfl

theorem sysDtpage_bad {va : Nat} {frames : List Nat} {cut : DtCut} (hm : CallMade s who 8 [])
    (hva : va % 65536 ≠ 0 ∨ va = 0 ∨ 2 ^ 57 ≤ va ∨ frames = [])
    (hfirst : (s.asid (callerAsid (served_ s who 8 []) who)).dtpage = 0) : Refused who s (sysDtpage s who va frames cut) (-4) := by
  unfold sysDtpage
  refine call_refuses hm ?_
  dsimp only
  rw [(served_only s who 8 []).asid, if_neg (not_not.mpr hfirst)]
  split
  · rfl
  · next hgood =>
    have hnone : frames = [] := by
      rcases hva with h | h | h | h
      · exact absurd (.inl h) hgood
      · exact absurd (.inr (.inl h)) hgood
      · exact absurd (.inr (.inr (.inl h))) hgood
      · exact h
    rw [hnone]
    rfl

theorem sysDtpage_again {va : Nat} {frames : List Nat} {cut : DtCut} (hm : CallMade s who 8 [])
    (hbuilt : (s.asid (callerAsid (served_ s who 8 []) who)).dtpage ≠ 0) :
    Refused who s (sysDtpage s who va frames cut) (s.asid (callerAsid (served_ s who 8 []) who)).dtpage := by
  unfold sysDtpage
  refine call_refuses hm ?_
  dsimp only
  rw [(served_only s who 8 []).asid, if_pos hbuilt]

/-- The body of an unmap. -/
def unmapBody (who : Caller) (va n : Nat) (s : State) : State × DWord :=
  let asid := callerAsid s who
  if va % 65536 ≠ 0 ∨ n % 65536 ≠ 0 ∨ n = 0 ∨ va + n > 2 ^ 57 then (s, callErr 2)
  else
    let es := (pagesOf va n).filterMap fun p => (entryAt s asid p).map fun e => (p, e)
    let whole (p : Nat) (e : Nat × Nat × Nat) : Bool :=
      let size := 2 ^ leafBits e.2.2
      va ≤ p / size * size && p / size * size + size ≤ va + n
    if !(es.all fun e => whole e.1 e.2) then (s, callErr 2)
    else (es.foldl (fun s e => dropTlb (osEntry s (callerCore who) e.2.1 0) asid e.1) s, 0)

theorem sysUnmap_ready {va n : Nat} (hready : ¬unmapWaits s who va n) : sysUnmap s who va n = call s who 3 [va, n] (unmapBody who va n) :=
  if_neg hready

theorem sysUnmap_waits {va n : Nat} (h : unmapWaits s who va n) : sysUnmap s who va n = s := if_pos h

theorem sysUnmap_bad {va n : Nat} (hm : CallMade s who 3 [va, n]) (hready : ¬unmapWaits s who va n)
    (h : unmapBad va n ∨ ¬unmapWhole (served_ s who 3 [va, n]) (callerAsid s who) va n) :
    Refused who s (sysUnmap s who va n) (-2) := by
  rw [sysUnmap_ready hready]
  refine call_refuses hm ?_
  unfold unmapBody
  by_cases hbad : unmapBad va n
  · exact if_pos hbad
  refine (if_neg hbad).trans (if_pos ?_)
  have hpart := h.resolve_left hbad
  rw [callerAsid_served_]
  rw [Bool.not_eq_true']
  refine Bool.eq_false_iff.mpr fun hall => hpart fun p hp e he => ?_
  have hmem : (p, e) ∈ (pagesOf va n).filterMap fun p => (entryAt (served_ s who 3 [va, n]) (callerAsid s who) p).map fun e => (p, e) :=
    List.mem_filterMap.mpr ⟨p, hp, by rw [he]; rfl⟩
  have hwhole := List.all_eq_true.mp hall _ hmem
  rw [Bool.and_eq_true, decide_eq_true_iff, decide_eq_true_iff] at hwhole
  exact hwhole

end Errors

end Sys2Proof.Machine

/-! Proofs: the system calls of R331: what each has changed once it answers without an error. -/
namespace Sys2Proof.Machine

/-! ### One leaf that map builds (R294, R296) -/

theorem vaIndex_lt (va level : Nat) : vaIndex va level < 2 ^ 9 := by
  unfold vaIndex bits
  split
  · exact Nat.mod_lt _ (by decide)
  · exact Nat.mod_lt _ (by decide)
  · exact Nat.mod_lt _ (by decide)
  · exact Nat.mod_lt _ (by decide)
  · exact (Nat.mod_lt _ (by decide)).trans (by decide)

theorem node_lt (e : Nat) : bits e 8 40 * 2 ^ 8 < 2 ^ 48 := by
  have h : bits e 8 40 < 2 ^ 40 := Nat.mod_lt _ (by decide)
  omega

theorem node_aligned (e : Nat) : bits e 8 40 * 2 ^ 8 % 8 = 0 := by omega

/-- An entry of a node below 2^48 lies where the ordering rules take it for memory. -/
theorem entry_key_lt {self node va level : Nat} (hself : self < 256) (hnode : node < 2 ^ 48) :
    devKey self (node + 8 * vaIndex va level) < 2 ^ 70 := by
  have hix := vaIndex_lt va level
  unfold devKey
  omega

theorem bits_zero_one (e : Nat) : bits e 0 1 = e % 2 := by
  unfold bits
  rw [Nat.pow_zero, Nat.div_one, Nat.pow_one]

theorem entryAt_go_key {s : State} {va fuel node : Nat} {e : Nat × Nat × Nat} (hself : s.self < 256) (hnode : node < 2 ^ 48)
    (h : entryAt.go s va fuel node = some e) : devKey s.self e.1 < 2 ^ 70 := by
  induction fuel generalizing node with
  | zero => cases h
  | succ fuel ih =>
    unfold entryAt.go at h
    dsimp only at h
    split at h
    · cases h
    split at h
    · cases h
      exact entry_key_lt hself hnode
    split at h
    · cases h
    · exact ih (node_lt _) h

theorem entryAt_key {s : State} {asid va : Nat} {e : Nat × Nat × Nat} (hreach : tablesReach s asid) (h : entryAt s asid va = some e) :
    devKey s.self e.1 < 2 ^ 70 := by
  obtain ⟨hself, hroot⟩ := hreach
  unfold entryAt at h
  split at h
  · cases h
  · exact entryAt_go_key hself (by omega) h

/-- A state in which one table entry of another has become a leaf. -/
structure LeafPut (s t : State) (pa leaf : Nat) : Prop where
  self : t.self = s.self
  here : t.rd (devKey s.self pa) 8 = leaf
  others : ∀ k, k % 8 = 0 → k ≠ devKey s.self pa → t.rd k 8 = s.rd k 8

/-- Where no node is to be built, map writes its leaf in an entry that was not valid, and a walk finds the leaf there. -/
theorem mapLeaf_go_existing {i va level leaf fuel : Nat} {s : State} {node lv : Nat} {r : State × List Nat}
    (h : mapLeaf.go i va level leaf fuel s node lv [] = .ok r) (hlv : lv + fuel = 5) (hself : s.self < 256) (hnode : node < 2 ^ 48)
    (halign : node % 8 = 0) (hleaf : leaf % 4 = 3) :
    ∃ pa, devKey s.self pa < 2 ^ 70 ∧ devKey s.self pa % 8 = 0 ∧ s.rd (devKey s.self pa) 8 % 2 = 0 ∧ r.1 = osEntry s i pa leaf ∧
      ∀ t, LeafPut s t pa leaf → ∀ e, entryAt.go t va fuel node = some e → e = (pa, leaf, level) := by
  induction fuel generalizing node lv with
  | zero => cases h
  | succ fuel ih =>
    have hlevel : 4 - fuel = lv := by omega
    unfold mapLeaf.go at h
    dsimp only at h
    have hpaAlign : devKey s.self (node + 8 * vaIndex va lv) % 8 = 0 := by
      unfold devKey
      omega
    split at h
    · next hat =>
      split at h
      · cases h
      · next hfree =>
        cases h
        rw [bits_zero_one] at hfree
        refine ⟨_, entry_key_lt hself hnode, hpaAlign, by omega, rfl, fun t ht e he => ?_⟩
        unfold entryAt.go at he
        dsimp only at he
        rw [hlevel, ht.self, ht.here, if_neg (by rw [bits_zero_one]; omega),
          if_pos (by unfold bits; rw [Nat.pow_one]; omega)] at he
        cases he
        rw [hat]
    · split at h
      · next hvalid =>
        split at h
        · cases h
        · next htable =>
          obtain ⟨pa, hkey, hpa, hodd, hput, hwalk⟩ := ih h (by omega) (node_lt _) (node_aligned _)
          refine ⟨pa, hkey, hpa, hodd, hput, fun t ht e he => hwalk t ht e ?_⟩
          have hne : devKey s.self (node + 8 * vaIndex va lv) ≠ devKey s.self pa := fun heq => by
            rw [heq, bits_zero_one] at hvalid
            omega
          unfold entryAt.go at he
          dsimp only at he
          rw [hlevel, ht.self, ht.others _ hpaAlign hne, if_neg (by omega), if_neg htable] at he
          split at he
          · cases he
          · exact he
      · cases h

theorem osEntry_leafPut {s : State} {pa leaf : Nat} (hkey : devKey s.self pa < 2 ^ 70) (halign : devKey s.self pa % 8 = 0) (i : Nat)
    (hleaf : leaf < 2 ^ 64) : LeafPut s (osEntry s i pa leaf) pa leaf :=
  ⟨osEntry_self s i pa leaf, osEntry_rd hkey i hleaf, fun k hk hne => osEntry_rd_apart hkey i leaf (by omega)⟩

theorem LeafPut.congr {s t u : State} {pa leaf : Nat} (h : LeafPut s t pa leaf) (hu : AnswerOnly t u) : LeafPut s u pa leaf :=
  ⟨hu.self.trans h.self, (hu.rd _ _).trans h.here, fun k hk hne => (hu.rd _ _).trans (h.others k hk hne)⟩

/-- The leaf that a map of one frame writes. -/
def oneLeaf (s : State) (attr f : Nat) : Nat := 3 + attr + f * 65536 + s.self * 2 ^ 56

theorem attrBits_eq (a : Nat) : attrBits a = bits a 2 14 * 4 + bits a 50 6 * 2 ^ 50 := rfl

theorem oneLeaf_bounds {s : State} {attr f : Nat} (hself : s.self < 256) (hattr : attr = attrBits attr) (hf : f * 65536 ≤ memLimit) :
    oneLeaf s attr f % 4 = 3 ∧ oneLeaf s attr f < 2 ^ 64 := by
  have hlow : bits attr 2 14 < 2 ^ 14 := Nat.mod_lt _ (by decide)
  have hhigh : bits attr 50 6 < 2 ^ 6 := Nat.mod_lt _ (by decide)
  rw [attrBits_eq] at hattr
  unfold memLimit at hf
  unfold oneLeaf
  generalize bits attr 2 14 = x at *
  generalize bits attr 50 6 = y at *
  omega

theorem mapRange_one {u w : State} {c asid va attr f : Nat} (hcmt : bits attr 15 1 = 1) (h : mapRange u c asid va 1 attr [f] = .ok w) :
    f * 65536 ≤ memLimit ∧ ∃ r, mapLeaf u c asid va (4 - bits attr 2 2) (oneLeaf u attr f) [] = .ok r ∧ r.1 = w := by
  have hc : (bits attr 15 1 == 1) = true := beq_iff_eq.mpr hcmt
  unfold mapRange at h
  dsimp only at h
  rw [if_pos hc, if_neg (show ¬[f].length < 1 from Nat.lt_irrefl 1)] at h
  split at h
  · cases h
  · next hok =>
    have hframe : f * 65536 ≤ memLimit := by
      rw [Bool.or_eq_true, not_or] at hok
      have hall := hok.1
      simp only [List.take_one, List.head?_cons, Option.toList_some, List.all_cons, List.all_nil, Bool.and_true, Bool.not_eq_true',
        Bool.not_eq_false, Bool.and_eq_true, decide_eq_true_iff] at hall
      obtain ⟨⟨-, hfit⟩, -⟩ := hall
      exact (Nat.le_add_right _ _).trans hfit
    refine ⟨hframe, ?_⟩
    have hone : List.range 1 = [0] := rfl
    rw [hone, List.foldl_cons, List.foldl_nil] at h
    dsimp only at h
    rw [Nat.zero_mul, Nat.add_zero] at h
    change Except.map (fun x : State × List Nat => x.1) (mapLeaf u c asid va (4 - bits attr 2 2) (oneLeaf u attr f) []) = .ok w at h
    cases hleaf : mapLeaf u c asid va (4 - bits attr 2 2) (oneLeaf u attr f) [] with
    | error e => rw [hleaf] at h; cases h
    | ok r =>
      rw [hleaf] at h
      cases h
      exact ⟨r, rfl, rfl⟩

/-! ### The entries that unmap clears (R299) -/

/-- One entry is cleared, and the translations of its page are dropped. -/
def clearEntry (i asid : Nat) (s : State) (e : Nat × Nat × Nat × Nat) : State := dropTlb (osEntry s i e.2.1 0) asid e.1

/-- A byte of a table entry. -/
def inEntry (s : State) (e : Nat × Nat × Nat × Nat) (k : Nat) : Prop := devKey s.self e.2.1 ≤ k ∧ k < devKey s.self e.2.1 + 8

theorem clearEntry_only (i asid : Nat) (s : State) (e : Nat × Nat × Nat × Nat) : OsOnly s (clearEntry i asid s e) :=
  (osEntry_only s i e.2.1 0).trans rfl

theorem clearEntry_inside {i asid : Nat} {s : State} {e : Nat × Nat × Nat × Nat} (hkey : devKey s.self e.2.1 < 2 ^ 70) {k : Nat}
    (hk : inEntry s e k) : (clearEntry i asid s e).byte k = 0 := by
  obtain ⟨hlo, hhi⟩ := hk
  have hmem : (clearEntry i asid s e).mem = mwrite s.mem (devKey s.self e.2.1) (natLe 8 0) := osEntry_mem hkey i 0
  unfold State.byte
  rw [hmem, mget_mwrite, dif_pos ⟨hlo, by rw [natLe_length]; exact hhi⟩]
  have hget := natLe_getElem? 8 0 (k - devKey s.self e.2.1) (by omega)
  rw [Nat.zero_div] at hget
  exact Option.some.inj ((List.getElem?_eq_getElem _).symm.trans hget)

theorem clearEntry_outside {i asid : Nat} {s : State} {e : Nat × Nat × Nat × Nat} (hkey : devKey s.self e.2.1 < 2 ^ 70) {k : Nat}
    (hk : ¬inEntry s e k) : (clearEntry i asid s e).byte k = s.byte k :=
  osEntry_byte hkey i 0 (by unfold inEntry at hk; omega)

theorem clearEntry_tlb (i asid : Nat) (s : State) (e : Nat × Nat × Nat × Nat) {x : Tlb} (hx : x ∈ (clearEntry i asid s e).tlb) :
    x ∈ s.tlb ∧ (x.asid = asid → x.serves (vpage e.1) = false) := by
  obtain ⟨hin, hkeep⟩ := List.mem_filter.mp hx
  rw [osEntry_tlb] at hin
  refine ⟨hin, fun hasid => ?_⟩
  rw [beq_iff_eq.mpr hasid, Bool.true_and] at hkeep
  exact (Bool.not_eq_true' _).mp hkeep

/-- What clearing a list of entries leaves. -/
structure Cleared (i asid : Nat) (s t : State) (es : List (Nat × Nat × Nat × Nat)) : Prop where
  inside : ∀ k, (∃ e ∈ es, inEntry s e k) → t.byte k = 0
  outside : ∀ k, (∀ e ∈ es, ¬inEntry s e k) → t.byte k = s.byte k
  tlb : ∀ x ∈ t.tlb, x ∈ s.tlb ∧ (x.asid = asid → ∀ e ∈ es, x.serves (vpage e.1) = false)

theorem clearEntries_only (i asid : Nat) (es : List (Nat × Nat × Nat × Nat)) (s : State) :
    OsOnly s (es.foldl (clearEntry i asid) s) := OsOnly.foldl (clearEntry_only i asid) es s

theorem clearEntries {i asid : Nat} (es : List (Nat × Nat × Nat × Nat)) (s : State)
    (hkeys : ∀ e ∈ es, devKey s.self e.2.1 < 2 ^ 70) : Cleared i asid s (es.foldl (clearEntry i asid) s) es := by
  induction es generalizing s with
  | nil => exact ⟨fun k ⟨e, he, _⟩ => (nomatch he), fun _ _ => rfl, fun x hx => ⟨hx, fun _ e he => (nomatch he)⟩⟩
  | cons a es ih =>
    have hself : (clearEntry i asid s a).self = s.self := (clearEntry_only i asid s a).self
    have hin : ∀ e k, inEntry (clearEntry i asid s a) e k ↔ inEntry s e k := fun e k => by
      unfold inEntry
      rw [hself]
    have hrest := ih (clearEntry i asid s a) fun e he => by
      rw [hself]
      exact hkeys e (List.mem_cons_of_mem _ he)
    have ha := hkeys a List.mem_cons_self
    refine ⟨fun k hk => ?_, fun k hk => ?_, fun x hx => ?_⟩
    · by_cases hlater : ∃ e ∈ es, inEntry s e k
      · obtain ⟨e, he, hek⟩ := hlater
        exact hrest.inside k ⟨e, he, (hin e k).mpr hek⟩
      · have hnow : inEntry s a k := by
          obtain ⟨e, he, hek⟩ := hk
          rcases List.mem_cons.mp he with rfl | he
          · exact hek
          · exact absurd ⟨e, he, hek⟩ hlater
        exact (hrest.outside k fun e he hek => hlater ⟨e, he, (hin e k).mp hek⟩).trans (clearEntry_inside ha hnow)
    · exact (hrest.outside k fun e he hek => hk e (List.mem_cons_of_mem _ he) ((hin e k).mp hek)).trans
        (clearEntry_outside ha (hk a List.mem_cons_self))
    · obtain ⟨hx1, hx2⟩ := hrest.tlb x hx
      obtain ⟨hx3, hx4⟩ := clearEntry_tlb i asid s a hx1
      refine ⟨hx3, fun hasid e he => ?_⟩
      rcases List.mem_cons.mp he with rfl | he
      · exact hx4 hasid
      · exact hx2 hasid e he

/-- Answers beside a clearing matter to none of what it leaves. -/
theorem Cleared.congr {i asid : Nat} {s u v t : State} {es : List (Nat × Nat × Nat × Nat)} (h : Cleared i asid u v es)
    (hu : AnswerOnly s u) (ht : AnswerOnly v t) : Cleared i asid s t es := by
  have hin : ∀ e k, inEntry u e k ↔ inEntry s e k := fun e k => by
    unfold inEntry
    rw [hu.self]
  refine ⟨fun k ⟨e, he, hek⟩ => ?_, fun k hk => ?_, fun x hx => ?_⟩
  · exact (ht.byte k).trans (h.inside k ⟨e, he, (hin e k).mpr hek⟩)
  · exact (ht.byte k).trans ((h.outside k fun e he hek => hk e he ((hin e k).mp hek)).trans (hu.byte k))
  · rw [ht.tlb] at hx
    obtain ⟨h1, h2⟩ := h.tlb x hx
    exact ⟨hu.tlb ▸ h1, h2⟩

/-- The entries that an unmap clears, each with its page. -/
def unmapEntries (s : State) (asid va n : Nat) : List (Nat × Nat × Nat × Nat) :=
  (pagesOf va n).filterMap fun p => (entryAt s asid p).map fun e => (p, e)

theorem mem_unmapEntries {s : State} {asid va n : Nat} {x : Nat × Nat × Nat × Nat} :
    x ∈ unmapEntries s asid va n ↔ x.1 ∈ pagesOf va n ∧ entryAt s asid x.1 = some x.2 := by
  unfold unmapEntries
  rw [List.mem_filterMap]
  constructor
  · rintro ⟨p, hp, hx⟩
    obtain ⟨e, he, rfl⟩ := Option.map_eq_some_iff.mp hx
    exact ⟨hp, he⟩
  · rintro ⟨hp, he⟩
    exact ⟨x.1, hp, by rw [he]; rfl⟩

theorem unmapBody_clears {who : Caller} {va n : Nat} {s : State} (hgood : ¬unmapBad va n)
    (hwhole : unmapWhole s (callerAsid s who) va n) :
    unmapBody who va n s =
      ((unmapEntries s (callerAsid s who) va n).foldl (clearEntry (callerCore who) (callerAsid s who)) s, 0) := by
  unfold unmapBody
  refine (if_neg hgood).trans (if_neg ?_)
  rw [Bool.not_eq_true', Bool.not_eq_false]
  refine List.all_eq_true.mpr fun x hx => ?_
  obtain ⟨hp, he⟩ := mem_unmapEntries.mp hx
  rw [Bool.and_eq_true, decide_eq_true_iff, decide_eq_true_iff]
  exact hwhole x.1 hp x.2 he

theorem entryAt_go_congr {s t : State} (hself : t.self = s.self) (hrd : ∀ k, t.rd k 8 = s.rd k 8) (va fuel node : Nat) :
    entryAt.go t va fuel node = entryAt.go s va fuel node := by
  induction fuel generalizing node with
  | zero => rfl
  | succ fuel ih =>
    unfold entryAt.go
    dsimp only
    rw [hself, hrd, ih]

theorem AnswerOnly.entryAt {s t : State} (h : AnswerOnly s t) (asid va : Nat) : Machine.entryAt t asid va = Machine.entryAt s asid va := by
  unfold Machine.entryAt
  rw [h.asid, entryAt_go_congr h.self fun k => h.rd k 8]

theorem rd_zeros {s : State} {k n : Nat} (h : ∀ j < n, s.byte (k + j) = 0) : s.rd k n = 0 := by
  have hzeros : mread s.mem k n = natLe n 0 := mread_eq_natLe fun i hi => by
    rw [Nat.zero_div]
    exact h i hi
  unfold State.rd
  rw [hzeros, leNat_natLe, Nat.zero_mod]

/-! ### What each call has changed -/

section Served
variable {s : State} {who : Caller}

theorem sysMap_oneLeaf {va n attr f : Nat} {w : State} (hn : n = 2 ^ leafBits (4 - bits attr 2 2)) (hcmt : bits attr 15 1 = 1)
    (hm : CallMade s who 2 [va, n, attr]) (hreach : tablesReach s (callerAsid s who))
    (hgives : mapGives (served_ s who 2 [va, n, attr]) who va n attr [f] (.ok w)) :
    ∃ pa, s.rd (devKey s.self pa) 8 % 2 = 0 ∧ (sysMap s who va n attr [f]).rd (devKey s.self pa) 8 = oneLeaf s attr f ∧
      (∀ k, k < devKey s.self pa ∨ devKey s.self pa + 8 ≤ k → (sysMap s who va n attr [f]).byte k = s.byte k) ∧
      ∀ e, entryAt (sysMap s who va n attr [f]) (callerAsid s who) va = some e → e = (pa, oneLeaf s attr f, 4 - bits attr 2 2) := by
  obtain ⟨hans, honly⟩ := (sysMap_passes hm hgives).2 w rfl
  obtain ⟨hgood, -, hrange⟩ := hgives
  have hu := served_only s who 2 [va, n, attr]
  have hattr : attr = attrBits attr := by
    by_contra hne
    exact hgood (.inl hne)
  have hone : n / 2 ^ leafBits (4 - bits attr 2 2) = 1 := by
    rw [hn]
    exact Nat.div_self (Nat.two_pow_pos _)
  rw [hone, callerAsid_served_] at hrange
  obtain ⟨hframe, r, hleaf, rfl⟩ := mapRange_one hcmt hrange
  obtain ⟨hself, hroot⟩ := hreach
  have hsame : oneLeaf (served_ s who 2 [va, n, attr]) attr f = oneLeaf s attr f := by
    unfold oneLeaf
    rw [hu.self]
  obtain ⟨hbits, hlt⟩ := oneLeaf_bounds hself hattr hframe
  rw [hsame] at hleaf
  unfold mapLeaf at hleaf
  rw [hu.asid] at hleaf
  obtain ⟨pa, hkey, halign, hfree, hput, hwalk⟩ := mapLeaf_go_existing hleaf rfl (by rw [hu.self]; exact hself) (by omega) (by omega) hbits
  have hleafPut := osEntry_leafPut hkey halign (callerCore who) hlt
  rw [← hput] at hleafPut
  have hfinal := hleafPut.congr honly
  refine ⟨pa, ?_, ?_, fun k hk => ?_, fun e he => ?_⟩
  · rw [← hu.self, ← hu.rd]
    exact hfree
  · rw [← hu.self]
    exact hfinal.here
  · rw [← hu.self] at hk
    rw [honly.byte, hput, osEntry_byte hkey _ _ hk, hu.byte]
  · refine hwalk _ hfinal e ?_
    have hroot' : (sysMap s who va n attr [f]).asid (callerAsid s who) = s.asid (callerAsid s who) := by
      rw [honly.asid, hput, ← hu.asid]
      exact congrArg (aget Asid.empty _) (osEntry_only _ _ _ _).asids
    unfold entryAt at he
    rw [hroot'] at he
    split at he
    · cases he
    · exact he

theorem sysUnmap_clears {va n : Nat} (hgood : ¬unmapBad va n) (hm : CallMade s who 3 [va, n]) (hready : ¬unmapWaits s who va n)
    (hreach : tablesReach s (callerAsid s who)) (hwhole : unmapWhole s (callerAsid s who) va n) :
    Answered who s (sysUnmap s who va n) 0 ∧
      Cleared (callerCore who) (callerAsid s who) s (sysUnmap s who va n) (unmapEntries s (callerAsid s who) va n) := by
  have hu := served_only s who 3 [va, n]
  have hes : unmapEntries (served_ s who 3 [va, n]) (callerAsid s who) va n = unmapEntries s (callerAsid s who) va n := by
    unfold unmapEntries
    simp only [hu.entryAt]
  have hwhole' : unmapWhole (served_ s who 3 [va, n]) (callerAsid (served_ s who 3 [va, n]) who) va n := by
    rw [callerAsid_served_]
    intro p hp e he
    rw [hu.entryAt] at he
    exact hwhole p hp e he
  have hbody := unmapBody_clears hgood hwhole'
  rw [callerAsid_served_, hes] at hbody
  have hclear := clearEntries (i := callerCore who) (asid := callerAsid s who) (unmapEntries s (callerAsid s who) va n)
    (served_ s who 3 [va, n]) fun e he => by
      rw [hu.self]
      exact entryAt_key hreach (mem_unmapEntries.mp he).2
  rw [sysUnmap_ready hready]
  obtain ⟨hans, honly⟩ := call_answers hm hbody (clearEntries_only _ _ _ _).mboxes
  exact ⟨hans, hclear.congr hu honly⟩

theorem unmapBody_mboxes (who : Caller) (va n : Nat) (u : State) : (unmapBody who va n u).1.mboxes = u.mboxes := by
  unfold unmapBody
  dsimp only
  split
  · rfl
  split
  · rfl
  · exact (clearEntries_only (callerCore who) (callerAsid u who) _ u).mboxes

theorem sysLog_logs {a n : Nat} {l : List (Nat × Nat)} (hm : CallMade s who 1 [a, n])
    (hspan : spans (served_ s who 1 [a, n]) (callerAsid (served_ s who 1 [a, n]) who) a n .read = some l) :
    Answered who s (sysLog s who a n) (BitVec.ofNat 64 n) ∧ TablesKept s (sysLog s who a n) ∧
      ∃ text, (sysLog s who a n).log = s.log ++ [text] := by
  have hu := served_only s who 1 [a, n]
  obtain ⟨r, hr⟩ := osRead_of_span (i := callerCore who) hspan
  have hreads := osRead_reads hr
  have hcall : Answered who s (sysLog s who a n) (BitVec.ofNat 64 n) ∧
      AnswerOnly { r.1 with log := r.1.log ++ [String.ofList (r.2.map fun b => Char.ofNat b.toNat)] } (sysLog s who a n) := by
    unfold sysLog
    refine call_answers hm ?_ hreads.only.mboxes
    dsimp only
    rw [hr]
  obtain ⟨hans, honly⟩ := hcall
  refine ⟨hans, ((hu.tables.trans hreads.tables).trans ⟨rfl, rfl, rfl, rfl, rfl, rfl, rfl⟩).trans honly.tables,
    String.ofList (r.2.map fun b => Char.ofNat b.toNat), ?_⟩
  rw [honly.log]
  dsimp only
  rw [hreads.log, hu.log]

theorem unmaps_iff {asid va n : Nat} {e : Nat × Nat × Nat} :
    unmaps s asid va n e ↔ ∃ p, (p, e) ∈ unmapEntries s asid va n := by
  unfold unmaps
  exact ⟨fun ⟨p, hp, he⟩ => ⟨p, mem_unmapEntries.mpr ⟨hp, he⟩⟩, fun ⟨p, hx⟩ => ⟨p, mem_unmapEntries.mp hx⟩⟩

theorem vpage_eq (va : Nat) : vpage va = va / 65536 := rfl

/-- The launch that a launch call of a kernel queues. -/
def calledLaunch (u : State) (asid idx q : Nat) (r : List Byte) : Launch :=
  { newLaunch u asid r (some q) (u.queue q).cls with kernel := some idx }

theorem sysLaunch_queues {idx arg q dest : Nat} {k : Kernel} (hm : CallMade s who 4 [idx, arg, q, 0])
    (hpass : launchPasses (served_ s who 4 [idx, arg, q, 0]) who idx arg q dest k) :
    Answered who s (sysLaunch s who idx arg q 0 dest) (BitVec.ofNat 64 s.nextLaunch) ∧
      ∃ w l, osWrite (served_ s who 4 [idx, arg, q, 0]) (callerCore who) (callerAsid s who) dest
          (buildRecord k arg q (List.replicate 24 0)) = some w ∧ l.record = buildRecord k arg q (List.replicate 24 0) ∧
        AnswerOnly (enqueueLaunch w q l) (sysLaunch s who idx arg q 0 dest) := by
  obtain ⟨hk, harg, hq, hdest, hen, hasid, hroom, hcause, hspan⟩ := hpass
  rw [callerAsid_served_] at *
  obtain ⟨w, hw⟩ := osWrite_of_span (i := callerCore who) hspan
  have hnext : w.nextLaunch = s.nextLaunch := (osWrite_only hw).nextLaunch.trans (served_only s who _ _).nextLaunch
  rw [← hnext]
  unfold sysLaunch
  refine And.imp_right (fun honly => ⟨w, calledLaunch (served_ s who 4 [idx, arg, q, 0]) (callerAsid s who) idx q
    (buildRecord k arg q (List.replicate 24 0)), hw, rfl, honly⟩) (call_answers hm ?_ ?_)
  · dsimp only
    rw [callerAsid_served_, hk]
    dsimp only
    rw [if_neg (by omega), if_neg (by rw [hen, hasid, bne_self_eq_false]; decide), waitBlock_none]
    dsimp only
    rw [hcause]
    dsimp only
    rw [if_neg (by omega), hw]
    rfl
  · exact (osWrite_only hw).mboxes

theorem sysRecord_writes {idx arg dest key : Nat} {r : List Byte} (hm : CallMade s who 10 [idx, arg, dest, 0])
    (hpass : recordPasses (served_ s who 10 [idx, arg, dest, 0]) who idx arg dest r)
    (hland : landsAt (served_ s who 10 [idx, arg, dest, 0]) (callerAsid s who) dest r.length key) :
    Answered who s (sysRecord s who idx arg dest 0) 0 ∧
      ∃ w, osWrite (served_ s who 10 [idx, arg, dest, 0]) (callerCore who) (callerAsid s who) dest r = some w ∧
        AnswerOnly w (sysRecord s who idx arg dest 0) := by
  obtain ⟨k, hk, hr, harg, hdest, hcause⟩ := hpass
  rw [callerAsid_served_] at *
  obtain ⟨w, hw⟩ := osWrite_of_span (i := callerCore who) (s := served_ s who 10 [idx, arg, dest, 0]) (asid := callerAsid s who)
    (a := dest) (bytes := r) (by rw [hland.1]; simp)
  unfold sysRecord
  refine And.imp_right (fun honly => ⟨w, hw, honly⟩) (call_answers hm ?_ (osWrite_only hw).mboxes)
  dsimp only
  rw [callerAsid_served_, hk]
  dsimp only
  rw [if_neg (by omega), waitBlock_none]
  dsimp only
  rw [← hr, hcause]
  dsimp only
  rw [hw]

/-! Pools (R334) -/

theorem feed_pool (u : State) (asid f : Nat) : ((feed u asid f).asid asid).pool =
    (u.asid asid).pool ++ if feedOk u asid f = true then [f] else [] := by
  unfold feed
  split
  · exact congrArg Asid.pool (aget_aput _ _ _ _)
  · exact (List.append_nil _).symm

theorem feeds_pool (l : List Nat) (u : State) (asid : Nat) : ∃ add,
    ((l.foldl (fun s f => feed s asid f) u).asid asid).pool = (u.asid asid).pool ++ add ∧ add.length ≤ l.length ∧ ∀ f ∈ add, f ∈ l := by
  induction l generalizing u with
  | nil => exact ⟨[], (List.append_nil _).symm, Nat.le_refl _, fun f hf => hf⟩
  | cons f l ih =>
    obtain ⟨add, hpool, hlen, hmem⟩ := ih (feed u asid f)
    rw [feed_pool, List.append_assoc] at hpool
    refine ⟨_, hpool, ?_, fun x hx => ?_⟩
    · rw [List.length_append, List.length_cons]
      split <;> simp <;> omega
    · rcases List.mem_append.mp hx with hx | hx
      · split at hx
        · exact List.mem_cons.mpr (.inl (List.mem_singleton.mp hx))
        · cases hx
      · exact List.mem_cons_of_mem _ (hmem x hx)

theorem feeds_head {u : State} {asid f : Nat} (hf : feedOk u asid f = true) (l : List Nat) :
    ∃ add, (((f :: l).foldl (fun s f => feed s asid f) u).asid asid).pool = (u.asid asid).pool ++ f :: add := by
  obtain ⟨add, hpool, -⟩ := feeds_pool l (feed u asid f) asid
  rw [feed_pool, if_pos hf, List.append_assoc] at hpool
  exact ⟨add, hpool⟩

/-- The frames that a pool call offers. -/
def offered (n : Nat) (frames : List Nat) : List Nat := (frames.take n).filter fun f => f * 65536 < memLimit

/-- The state of a pool call after its frames are fed. -/
def fed (u : State) (asid n : Nat) (frames : List Nat) : State := (offered n frames).foldl (fun s f => feed s asid f) u

/-- What a pool call does and answers. -/
def poolAnswer (u : State) (asid n : Nat) (frames : List Nat) : State × DWord :=
  if ((fed u asid n frames).asid asid).pool.length - (u.asid asid).pool.length = 0 ∧ n ≠ 0 then (u, callErr 4)
  else (fed u asid n frames, BitVec.ofNat 64 (((fed u asid n frames).asid asid).pool.length - (u.asid asid).pool.length))

theorem sysPool_eq (n : Nat) (frames : List Nat) :
    sysPool s who n frames = call s who 6 [n] fun u => poolAnswer u (callerAsid u who) n frames := rfl

/-- A pool call leaves the state it found, with -4, where frames were asked for and none was added, and else the fed state. -/
theorem sysPool_leaves {n : Nat} {frames add : List Nat} (hm : CallMade s who 6 [n])
    (hpool : ((fed (served_ s who 6 [n]) (callerAsid s who) n frames).asid (callerAsid s who)).pool =
      (s.asid (callerAsid s who)).pool ++ add) :
    (add = [] ∧ n ≠ 0 → Refused who s (sysPool s who n frames) (-4)) ∧
    (¬(add = [] ∧ n ≠ 0) → Answered who s (sysPool s who n frames) (BitVec.ofNat 64 add.length) ∧
      AnswerOnly (fed (served_ s who 6 [n]) (callerAsid s who) n frames) (sysPool s who n frames)) := by
  have hcount : ((fed (served_ s who 6 [n]) (callerAsid s who) n frames).asid (callerAsid s who)).pool.length -
      ((served_ s who 6 [n]).asid (callerAsid s who)).pool.length = add.length := by
    rw [hpool, (served_only s who 6 [n]).asid, List.length_append, Nat.add_sub_cancel_left]
  have hsame : poolAnswer (served_ s who 6 [n]) (callerAsid (served_ s who 6 [n]) who) n frames =
      if add.length = 0 ∧ n ≠ 0 then (served_ s who 6 [n], callErr 4)
      else (fed (served_ s who 6 [n]) (callerAsid s who) n frames, BitVec.ofNat 64 add.length) := by
    unfold poolAnswer
    rw [callerAsid_served_, hcount]
  rw [sysPool_eq]
  refine ⟨fun ⟨hadd, hn⟩ => call_refuses hm (hsame.trans (if_pos ⟨by rw [hadd]; rfl, hn⟩)), fun hsome => ?_⟩
  refine call_answers hm (hsame.trans (if_neg fun ⟨hlen, hn⟩ => hsome ⟨List.eq_nil_of_length_eq_zero hlen, hn⟩)) ?_
  unfold fed
  rw [feeds_asids]

theorem sysPool_adds {n : Nat} {frames : List Nat} (hm : CallMade s who 6 [n]) : ∃ add,
    ((sysPool s who n frames).asid (callerAsid s who)).pool = (s.asid (callerAsid s who)).pool ++ add ∧ add.length ≤ n ∧
      (∀ f ∈ add, f ∈ frames) ∧ Answered who s (sysPool s who n frames) (if add = [] ∧ n ≠ 0 then -4 else BitVec.ofNat 64 add.length) ∧
      (sysPool s who n frames).mem = s.mem := by
  obtain ⟨add, hpool, hlen, hmem⟩ := feeds_pool (offered n frames) (served_ s who 6 [n]) (callerAsid s who)
  rw [(served_only s who 6 [n]).asid] at hpool
  have hshort : add.length ≤ n := hlen.trans ((List.length_filter_le _ _).trans (List.length_take_le _ _))
  have hfrom : ∀ f ∈ add, f ∈ frames := fun f hf => List.mem_of_mem_take (List.mem_filter.mp (hmem f hf)).1
  obtain ⟨hrefused, hfed⟩ := sysPool_leaves hm hpool
  by_cases hnone : add = [] ∧ n ≠ 0
  · obtain ⟨hans, honly⟩ := hrefused hnone
    refine ⟨add, ?_, hshort, hfrom, ?_, honly.mem⟩
    · rw [honly.asid, hnone.1, List.append_nil]
    · rw [if_pos hnone]
      exact hans
  · obtain ⟨hans, honly⟩ := hfed hnone
    refine ⟨add, ?_, hshort, hfrom, ?_, ?_⟩
    · rw [honly.asid]
      exact hpool
    · rw [if_neg hnone]
      exact hans
    · rw [honly.mem, ← (served_only s who 6 [n]).mem]
      unfold fed
      rw [feeds_asids]

theorem sysPool_takes {n f : Nat} {fs : List Nat} (hn : 0 < n) (hf : f * 65536 < memLimit) (hm : CallMade s who 6 [n])
    (hok : feedOk s (callerAsid s who) f = true) : f ∈ ((sysPool s who n (f :: fs)).asid (callerAsid s who)).pool := by
  have hu := served_only s who 6 [n]
  have hok' : feedOk (served_ s who 6 [n]) (callerAsid s who) f = true := by
    unfold feedOk at hok ⊢
    rw [hu.asids, hu.shallot]
    exact hok
  have hoffer : offered n (f :: fs) = f :: (fs.take (n - 1)).filter fun f => f * 65536 < memLimit := by
    obtain ⟨m, rfl⟩ := Nat.exists_eq_succ_of_ne_zero (Nat.pos_iff_ne_zero.mp hn)
    unfold offered
    rw [List.take_succ_cons]
    exact List.filter_cons_of_pos (decide_eq_true hf)
  obtain ⟨add, hpool⟩ := feeds_head hok' ((fs.take (n - 1)).filter fun f => f * 65536 < memLimit)
  rw [hu.asid] at hpool
  obtain ⟨-, hfed⟩ := sysPool_leaves (frames := f :: fs) hm (by unfold fed; rw [hoffer]; exact hpool)
  obtain ⟨-, honly⟩ := hfed fun h => List.cons_ne_nil _ _ h.1
  rw [honly.asid]
  unfold fed
  rw [hoffer, hpool]
  exact List.mem_append_right _ List.mem_cons_self

/-! ttset, attest, dtpage and wait -/

/-- The entry of the time-triggered table that ttset leaves. -/
def ttEntry (t : TtEnt) (asid rec_ first period : Nat) : TtEnt :=
  { t with next := BitVec.ofNat 64 first, record := BitVec.ofNat 64 rec_, period := BitVec.ofNat 32 period, en := true
           asid := BitVec.ofNat 8 asid }

theorem sysTtset_sets {e rec_ first period key : Nat} (hm : CallMade s who 7 [e, rec_, first, period])
    (hpass : ttsetPasses (served_ s who 7 [e, rec_, first, period]) who e rec_ period key) :
    Answered who s (sysTtset s who e rec_ first period) 0 ∧ (sysTtset s who e rec_ first period).byte key = BitVec.ofNat 8 (128 + e) ∧
      (sysTtset s who e rec_ first period).launches = s.launches ∧
      afind e (sysTtset s who e rec_ first period).tt = some (ttEntry (aget TtEnt.empty e s.tt) (callerAsid s who) rec_ first period) := by
  obtain ⟨he, hrec, hlo, hhi, hmine, r, hr, hcause, hland⟩ := hpass
  have hu := served_only s who 7 [e, rec_, first, period]
  rw [callerAsid_served_] at *
  rw [hu.tt] at hmine
  obtain ⟨w, hw⟩ := osWrite_of_span (i := callerCore who) (s := r.1) (asid := callerAsid s who) (a := rec_ + 66)
    (bytes := [BitVec.ofNat 8 (128 + e)]) (by
      have hspan := hland.1
      rw [List.length_singleton, hspan]
      simp)
  have hwrites := osWrite_only hw
  have hreads := (osRead_reads hr).tables
  obtain ⟨-, -, hlaunches, -, htt, -, -⟩ := hreads
  have hown : ¬((aget TtEnt.empty e s.tt).en && (aget TtEnt.empty e s.tt).asid.toNat != callerAsid s who) = true := fun hbad => by
    rw [Bool.and_eq_true, bne_iff_ne] at hbad
    exact hbad.2 (hmine hbad.1)
  have hcall : Answered who s (sysTtset s who e rec_ first period) 0 ∧
      AnswerOnly { w with tt := aput e (ttEntry (aget TtEnt.empty e s.tt) (callerAsid s who) rec_ first period) w.tt }
        (sysTtset s who e rec_ first period) := by
    unfold sysTtset
    refine call_answers hm ?_ (hwrites.mboxes.trans (osRead_reads hr).only.mboxes)
    dsimp only
    rw [if_neg (by omega), callerAsid_served_, hu.tt, if_neg hown, hr]
    dsimp only
    rw [hcause]
    dsimp only
    rw [hw]
    rfl
  obtain ⟨hans, honly⟩ := hcall
  refine ⟨hans, ?_, ?_, ?_⟩
  · have hbyte : w.byte key = BitVec.ofNat 8 (128 + e) := by
      unfold State.byte
      rw [osWrite_lands hland hw, mget_mwrite, dif_pos ⟨Nat.le_refl _, by rw [List.length_singleton]; omega⟩]
      simp
    exact (honly.byte key).trans hbyte
  · exact honly.launches.trans (hwrites.launches.trans (hlaunches.trans hu.launches))
  · rw [honly.tt]
    exact afind_aput _ _ _

theorem sysAttest_reports {nonce rep : Nat} {bytes : List Byte} (hm : CallMade s who 9 [nonce, rep])
    (hpass : attestPasses (served_ s who 9 [nonce, rep]) who nonce rep bytes) :
    (∃ n, n < 65536 ∧ Answered who s (sysAttest s who nonce rep) (BitVec.ofNat 64 n)) ∧
      (sysAttest s who nonce rep).shallot.spdm =
        s.shallot.spdm ++ [(leNat bytes, s.shallot.measured, (sysAttest s who nonce rep).shallot.refused)] := by
  obtain ⟨r, hr, rfl, hspans⟩ := hpass
  have hu := served_only s who 9 [nonce, rep]
  rw [callerAsid_served_] at *
  have hn : Config.free (served_ s who 9 [nonce, rep]).fresh 4 0 % 65536 < 65536 := Nat.mod_lt _ (by decide)
  obtain ⟨w, hw⟩ := osWrite_of_span (i := callerCore who) (s := { r.1 with fresh := r.1.fresh + 2 }) (asid := callerAsid s who) (a := rep)
    (bytes := (List.range (Config.free (served_ s who 9 [nonce, rep]).fresh 4 0 % 65536)).map fun i =>
      BitVec.ofNat 8 (Config.free (served_ s who 9 [nonce, rep]).fresh 4 (i + 1))) (by
      rw [List.length_map, List.length_range]
      exact hspans _ hn)
  have hwrites := osWrite_only hw
  have hreads := (osRead_reads hr).only
  have hcall : Answered who s (sysAttest s who nonce rep) (BitVec.ofNat 64 (Config.free (served_ s who 9 [nonce, rep]).fresh 4 0 % 65536)) ∧
      AnswerOnly { w with shallot := { w.shallot with spdm := w.shallot.spdm ++ [(leNat r.2, w.shallot.measured, w.shallot.refused)] } }
        (sysAttest s who nonce rep) := by
    unfold sysAttest
    refine call_answers hm ?_ (hwrites.mboxes.trans hreads.mboxes)
    dsimp only
    rw [callerAsid_served_, hr]
    dsimp only
    rw [hw]
  obtain ⟨hans, honly⟩ := hcall
  refine ⟨⟨_, hn, hans⟩, ?_⟩
  have hspdm : w.shallot.spdm = s.shallot.spdm := hwrites.spdm.trans (hreads.spdm.trans (congrArg Shallot.spdm hu.shallot))
  have hmeasured : w.shallot.measured = s.shallot.measured :=
    hwrites.measured.trans (hreads.measured.trans (congrArg Shallot.measured hu.shallot))
  rw [honly.shallot]
  dsimp only
  rw [hspdm, hmeasured]

theorem sysDtpage_builds {va f : Nat} {fs : List Nat} {cut : DtCut} {v : State} (hm : CallMade s who 8 [])
    (hpass : dtpagePasses (served_ s who 8 []) who va f fs cut v) :
    Answered who s (sysDtpage s who va (f :: fs) cut) (BitVec.ofNat 64 va) ∧
      ((sysDtpage s who va (f :: fs) cut).asid (callerAsid s who)).dtpage = BitVec.ofNat 64 va ∧
      (sysDtpage s who va (f :: fs) cut).mem = (stewWrite v (callerCore who) (devKey v.self (f * 65536))
        (processTree (served_ s who 8 []) (callerAsid s who) cut) false).mem := by
  obtain ⟨hfirst, halign, hpos, hlt, hlen, hmap⟩ := hpass
  rw [callerAsid_served_] at *
  rw [sysDtpage_eq]
  have hzero : (zeroFrame (served_ s who 8 []) f).mboxes = (served_ s who 8 []).mboxes := rfl
  have hmboxes := (dtpageWritten_mboxes (who := who) (va := va) (asid := callerAsid s who)
    (blob := processTree (served_ s who 8 []) (callerAsid s who) cut) v f).trans ((mapRange_only hmap).mboxes.trans hzero)
  obtain ⟨hans, honly⟩ := call_answers (body := fun u => dtpageAnswer who va (callerAsid u who) (f :: fs)
    (processTree u (callerAsid u who) cut) (fun f' => mapRange (zeroFrame u f') (callerCore who) (callerAsid u who) va 1 dtAttr (f :: fs)) u)
    hm (by rw [callerAsid_served_]; exact dtpageAnswer_of_mapped hfirst (by omega) hmap) hmboxes
  refine ⟨hans, ?_, ?_⟩
  · rw [honly.asid]
    exact congrArg Asid.dtpage (aget_aput _ _ _ _)
  · exact honly.mem.trans (State.setAsid_mem _ _ _)

theorem sysWait_begins {id ns : Nat} (hm : CallMade s who 5 [id, ns]) (hid : id < s.nextLaunch) {t : State}
    (hnone : afind id s.launches = none → t = (served_ s who 5 [id, ns]).answer who 0)
    (hsome : ∀ l, afind id s.launches = some l → l.asid = callerAsid s who ∧
      t = { served_ s who 5 [id, ns] with waitCalls := s.waitCalls ++ [⟨who, id, s.time + ns⟩] }) :
    sysWait s who id ns = t := by
  have hu := served_only s who 5 [id, ns]
  unfold sysWait
  rw [callBegin_made hm]
  dsimp only
  rw [if_neg (by rw [hu.nextLaunch]; omega)]
  have hsame : afind id (served_ s who 5 [id, ns]).launches = afind id s.launches := congrArg (afind id) hu.launches
  cases hl : afind id s.launches with
  | none =>
    rw [hsame, hl]
    exact (hnone hl).symm
  | some l =>
    obtain ⟨hasid, rfl⟩ := hsome l hl
    rw [hsame, hl]
    dsimp only
    rw [callerAsid_served_, if_neg (not_not.mpr hasid), hu.waitCalls, hu.time]

theorem sysWait_unknown {id ns : Nat} (hm : CallMade s who 5 [id, ns]) (hid : s.nextLaunch ≤ id) :
    sysWait s who id ns = (served_ s who 5 [id, ns]).answer who (-2) := by
  unfold sysWait
  rw [callBegin_made hm]
  exact if_pos (by rw [(served_only s who 5 [id, ns]).nextLaunch]; exact hid)

theorem answer_served {num : Nat} {args : List Nat} (x : DWord) :
    Answered who s ((served_ s who num args).answer who x) x ∧ ((served_ s who num args).answer who x).waitCalls = s.waitCalls :=
  ⟨answer_answered who x (held_of_mboxes (served_served s who num args) rfl),
    (answer_only _ who x).waitCalls.trans (served_only s who num args).waitCalls⟩

end Served

/-- Settles O50: call by call, the errors first; each success by what its body leaves. -/
theorem systemCallsAnswer : Obligations.SystemCallsAnswer := by
  unfold Obligations.SystemCallsAnswer
  refine ⟨fun who a0 a1 a2 a3 dest frames cut x hx => ⟨fun s hm => ?_, fun s hm => ?_⟩,
    fun who va n => ⟨.of_exec (exec_sysUnmap who va n) fun s ⟨hm, hready⟩ => ?_, .of_exec (exec_sysUnmap who va n) fun s h => ?_⟩,
    fun fn tag a0 => .of_exec (exec_sysExit _ a0) fun s hm => ?_, fun core asid a0 => .of_exec (exec_sysExit _ a0) fun s _ => rfl,
    fun who va n => .of_exec (exec_sysLog who va n) fun s ⟨hm, hspan⟩ => ?_,
    fun who va n l => .of_exec (exec_sysLog who va n) fun s ⟨hm, hspan⟩ => ?_,
    fun who va n attr frames hbad => .of_exec (exec_sysMap who va n attr frames) fun s hm => (sysMap_bad hm hbad).tables,
    fun who va n attr frames hgood hkey => .of_exec (exec_sysMap who va n attr frames) fun s ⟨hm, howner⟩ => ?_,
    fun who va n attr frames e => .of_exec (exec_sysMap who va n attr frames) fun s ⟨hm, hgives⟩ =>
      ((sysMap_passes hm hgives).1 e rfl).tables,
    fun who va n attr frames u => .of_exec (exec_sysMap who va n attr frames) fun s ⟨hm, hgives⟩ => ?_,
    fun who va n attr f u hn hcmt => .of_exec (exec_sysMap who va n attr [f]) fun s ⟨hm, hreach, hgives⟩ =>
      sysMap_oneLeaf hn hcmt hm hreach hgives,
    fun who va n => .of_exec (exec_sysUnmap who va n) fun s ⟨hm, hready, h⟩ => (sysUnmap_bad hm hready h).tables,
    fun who va n hgood => .of_exec (exec_sysUnmap who va n) fun s ⟨hm, hready, hreach, hwhole⟩ => ?_,
    fun who idx arg q wb dest => .of_exec (exec_sysLaunch who idx arg q wb dest) fun s ⟨hm, h⟩ => (sysLaunch_bad hm h).tables,
    fun who idx arg q wb dest k => .of_exec (exec_sysLaunch who idx arg q wb dest) fun s ⟨hm, hk, harg, hq, hqueue⟩ =>
      (sysLaunch_queue hm hk harg hq hqueue).tables,
    fun who idx arg q dest k => .of_exec (exec_sysLaunch who idx arg q 0 dest) fun s ⟨hm, hpass⟩ => ?_,
    fun who idx arg dest wb => .of_exec (exec_sysRecord who idx arg dest wb) fun s ⟨hm, h⟩ => (sysRecord_bad hm h).tables,
    fun who idx arg dest r key => .of_exec (exec_sysRecord who idx arg dest 0) fun s ⟨hm, hpass, hland⟩ => ?_,
    fun who n frames => .of_exec (exec_sysPool who n frames) fun s hm => sysPool_adds hm,
    fun who n f fs hn hf => .of_exec (exec_sysPool who n (f :: fs)) fun s ⟨hm, hok⟩ => sysPool_takes hn hf hm hok,
    fun who e rec_ first period key => .of_exec (exec_sysTtset who e rec_ first period) fun s ⟨hm, hpass⟩ => sysTtset_sets hm hpass,
    fun who e rec_ first period => .of_exec (exec_sysTtset who e rec_ first period) fun s ⟨hm, he, hrec, hlo, hhi, h⟩ =>
      (sysTtset_refused hm ⟨he, hrec, hlo, hhi⟩ h).tables,
    fun who nonce rep bytes => .of_exec (exec_sysAttest who nonce rep) fun s ⟨hm, hpass⟩ => sysAttest_reports hm hpass,
    fun who nonce rep => .of_exec (exec_sysAttest who nonce rep) fun s ⟨hm, hspan⟩ => (sysAttest_refused hm hspan).tables,
    fun who id ns => .of_exec (exec_sysWait who id ns) fun s ⟨hm, hid⟩ => ?_,
    fun who id ns => .of_exec (exec_sysWait who id ns) fun s ⟨hm, hid, hdone⟩ => ?_,
    fun who id ns l => .of_exec (exec_sysWait who id ns) fun s ⟨hm, hid, hl, hasid⟩ => ?_,
    fun who w => .of_exec (exec_sysWaitTimeout who) fun s hfind => ?_,
    fun who e rec_ first period hbad => .of_exec (exec_sysTtset who e rec_ first period) fun s hm => (sysTtset_bad hm hbad).tables,
    fun who va f fs cut v => .of_exec (exec_sysDtpage who va (f :: fs) cut) fun s ⟨hm, hpass⟩ => ?_,
    fun who va frames cut hva => .of_exec (exec_sysDtpage who va frames cut) fun s ⟨hm, hfirst⟩ => (sysDtpage_bad hm hva hfirst).tables,
    fun who va frames cut => .of_exec (exec_sysDtpage who va frames cut) fun s ⟨hm, hbuilt⟩ => (sysDtpage_again hm hbuilt).tables⟩
  · obtain ⟨t, ht, htotal⟩ := calls_total hx s
    exact ⟨t, ht, htotal.1 hm⟩
  · obtain ⟨t, ht, htotal⟩ := calls_total hx s
    exact ⟨t, ht, htotal.2 hm⟩
  · rw [sysUnmap_ready hready]
    exact (call_total (unmapBody_mboxes who va n)).1 hm
  · by_cases hw : unmapWaits s who va n
    · exact sysUnmap_waits hw
    · rw [sysUnmap_ready hw]
      exact call_not_made (h.resolve_right hw)
  · obtain ⟨hans, honly⟩ := call_answers (body := fun s => ({ s with fresh := s.fresh + 1 }, BitVec.ofNat 64 (Config.free s.fresh 4 0))) hm rfl rfl
    exact ⟨⟨_, hans⟩, ((served_only s _ 0 [a0]).tables.trans ⟨rfl, rfl, rfl, rfl, rfl, rfl, rfl⟩).trans honly.tables⟩
  · obtain ⟨hans, honly⟩ := sysLog_refused hm hspan
    exact ⟨hans, honly.tables, honly.log⟩
  · exact sysLog_logs hm hspan
  · rw [(served_only s who 2 [va, n, attr]).shallot.symm] at howner
    exact (sysMap_key hm hgood hkey howner).tables
  · obtain ⟨hans, honly⟩ := (sysMap_passes hm hgives).2 u rfl
    have hmap := mapRange_only hgives.2.2
    have hu := served_only s who 2 [va, n, attr]
    exact ⟨hans, honly.mem, honly.asids.trans (hmap.asids.trans hu.asids), honly.launches.trans (hmap.launches.trans hu.launches),
      honly.groups.trans (hmap.groups.trans hu.groups)⟩
  · obtain ⟨hans, hclear⟩ := sysUnmap_clears hgood hm hready hreach hwhole
    refine ⟨hans, fun e he => ?_, fun k hk => ?_, fun x hx => ?_⟩
    · obtain ⟨p, hp⟩ := unmaps_iff.mp he
      exact rd_zeros fun j hj => hclear.inside _ ⟨(p, e), hp, Nat.le_add_right _ _, Nat.add_lt_add_left hj _⟩
    · refine hclear.outside k fun x hx hek => ?_
      obtain ⟨hlo, hhi⟩ := hek
      have hout := hk x.2 (unmaps_iff.mpr ⟨x.1, hx⟩)
      omega
    · obtain ⟨h1, h2⟩ := hclear.tlb x hx
      refine ⟨h1, fun hasid p hp hmapped => ?_⟩
      obtain ⟨e, he⟩ := Option.ne_none_iff_exists'.mp hmapped
      exact h2 hasid (p, e) (mem_unmapEntries.mpr ⟨hp, he⟩)
  · obtain ⟨hans, w, l, hw, hrec, honly⟩ := sysLaunch_queues hm hpass
    have hu := served_only s who 4 [idx, arg, q, 0]
    have hnext : w.nextLaunch = s.nextLaunch := (osWrite_only hw).nextLaunch.trans hu.nextLaunch
    have hqueue : w.queue q = s.queue q := congrArg (aget Queue.empty q) ((osWrite_only hw).queues.trans hu.queues)
    refine ⟨hans, ?_, ?_, ?_, fun key hland => ?_⟩
    · have hpending := congrArg (fun x : List (Nat × Queue) => (aget Queue.empty q x).pending) honly.queues
      refine hpending.trans ((congrArg Queue.pending (aget_aput _ _ _ _)).trans ?_)
      rw [← hqueue, ← hnext]
    · exact honly.nextLaunch.trans (congrArg (· + 1) hnext)
    · have hlaunch := congrArg (aget Launch.empty s.nextLaunch) honly.launches
      refine (congrArg Launch.record (hlaunch.trans ?_)).trans hrec
      rw [← hnext]
      exact aget_aput _ _ _ _
    · have hmem : (sysLaunch s who idx arg q 0 dest).mem = w.mem := honly.mem
      rw [hmem, osWrite_lands hland hw]
      exact mread_mwrite _ _ _
  · obtain ⟨hans, w, hw, honly⟩ := sysRecord_writes hm hpass hland
    have hu := served_only s who 10 [idx, arg, dest, 0]
    have hwrites := osWrite_only hw
    have hmem : (sysRecord s who idx arg dest 0).mem = mwrite s.mem key r := by
      rw [honly.mem, osWrite_lands hland hw, hu.mem]
    refine ⟨hans, ?_, fun k hk => ?_, honly.launches.trans (hwrites.launches.trans hu.launches),
      honly.queues.trans (hwrites.queues.trans hu.queues), honly.nextLaunch.trans (hwrites.nextLaunch.trans hu.nextLaunch)⟩
    · rw [hmem]
      exact mread_mwrite _ _ _
    · unfold State.byte
      rw [hmem]
      exact mget_mwrite_outside _ hk
  · rw [sysWait_unknown hm hid]
    exact answer_served (-2)
  · rw [sysWait_begins hm hid (fun _ => rfl) fun l hl => by rw [hdone] at hl; cases hl]
    exact answer_served 0
  · rw [callerAsid_served_] at hasid
    rw [sysWait_begins hm hid (fun hnone => by rw [hl] at hnone; cases hnone) fun l' hl' => ⟨by rw [hl] at hl'; cases hl'; exact hasid, rfl⟩]
  · have hwait : sysWaitTimeout s who = ({ s with waitCalls := s.waitCalls.erase w }).answer who 1 := by
      unfold sysWaitTimeout
      rw [hfind]
    rw [hwait]
    exact ⟨answer_answered who 1 fun _ => rfl, (answer_only _ who 1).waitCalls⟩
  · obtain ⟨hans, hpage, hmem⟩ := sysDtpage_builds hm hpass
    refine ⟨hans, hpage, fun hkey hport hlt => ?_⟩
    rw [hmem, stewWrite_mem hkey hport hlt]
    exact mread_mwrite _ _ _

end Sys2Proof.Machine

/-! ### The queues of loads and stores complete (R47, R94, R149, R243, R250) -/

namespace Sys2Proof.Machine

/-! ### What a returned operation writes of its group -/

/-- Only the lane and scalar registers, their poison marks and the list of pending registers differ. -/
def ResultOnly (g h : Group) : Prop := h = { g with v := h.v, vpois := h.vpois, s := h.s, spois := h.spois, pend := h.pend }

theorem ResultOnly.refl (g : Group) : ResultOnly g g := rfl

theorem ResultOnly.trans {g h k : Group} (p : ResultOnly g h) (q : ResultOnly h k) : ResultOnly g k := by
  unfold ResultOnly at *
  rw [q, p]

theorem putS_result (g : Group) (k : Nat) (w : Word) : ResultOnly g (g.putS k w) := by
  unfold Group.putS Group.setS
  split <;> rfl

theorem putV_result (g : Group) (r : Nat) (m : Lanes) (f : Nat → Word) : ResultOnly g (g.putV r m f) ∧ (g.putV r m f).s = g.s := ⟨rfl, rfl⟩

theorem setV_result (g : Group) (r : Nat) (m : Lanes) (f : Nat → Word) : ResultOnly g (g.setV r m f) := rfl
theorem clrVPois_result (g : Group) (r : Nat) (m : Lanes) : ResultOnly g (g.clrVPois r m) := rfl

theorem putV64_result (g : Group) (r : Nat) (m : Lanes) (f : Nat → DWord) : ResultOnly g (g.putV64 r m f) ∧ (g.putV64 r m f).s = g.s :=
  ⟨(((setV_result g r m _).trans (setV_result _ (r + 1) m _)).trans (clrVPois_result _ r m)).trans (clrVPois_result _ (r + 1) m), rfl⟩

/-- The marking of one register of a returned operation. -/
def landMark (d : Nat) (pois : Lanes) (g : Group) (i : Nat) : Group :=
  (if pois = 0 then g else g.setVPois (d + i) (g.vPois (d + i) ||| pois)).clrPend 0 (d + i)

theorem landMark_result (d : Nat) (pois : Lanes) (g : Group) (i : Nat) : ResultOnly g (landMark d pois g i) := by
  unfold landMark
  split <;> rfl

theorem landMark_v (d : Nat) (pois : Lanes) (g : Group) (i : Nat) : (landMark d pois g i).v = g.v := by
  unfold landMark
  split <;> rfl

theorem landMark_s (d : Nat) (pois : Lanes) (g : Group) (i : Nat) : (landMark d pois g i).s = g.s := by
  unfold landMark
  split <;> rfl

theorem isPend_clrPend (g : Group) (f r f' r' : Nat) :
    (g.clrPend f r).isPend f' r' = (g.isPend f' r' && decide ((f', r') ≠ (f, r))) := by
  rw [Bool.eq_iff_iff]
  simp only [Group.isPend, Group.clrPend, List.any_eq_true, List.mem_filter, Bool.and_eq_true, decide_eq_true_eq, beq_iff_eq, bne_iff_ne]
  constructor
  · rintro ⟨p, ⟨hp, hne⟩, rfl⟩
    exact ⟨⟨_, hp, rfl⟩, hne⟩
  · rintro ⟨⟨p, hp, rfl⟩, hne⟩
    exact ⟨_, ⟨hp, hne⟩, rfl⟩

theorem landMark_isPend (d : Nat) (pois : Lanes) (g : Group) (i f r : Nat) :
    (landMark d pois g i).isPend f r = (g.isPend f r && decide ((f, r) ≠ (0, d + i))) := by
  unfold landMark
  rw [isPend_clrPend]
  split <;> rfl

theorem foldl_landMark (d : Nat) (pois : Lanes) (l : List Nat) (g : Group) :
    ResultOnly g (l.foldl (landMark d pois) g) ∧ (l.foldl (landMark d pois) g).v = g.v ∧ (l.foldl (landMark d pois) g).s = g.s ∧
      ∀ i ∈ l, (l.foldl (landMark d pois) g).isPend 0 (d + i) = false := by
  have keeps : ∀ (l : List Nat) (g : Group) (r : Nat), g.isPend 0 r = false → (l.foldl (landMark d pois) g).isPend 0 r = false := by
    intro l
    induction l with
    | nil => exact fun _ _ h => h
    | cons j l ih => exact fun g r h => ih _ r (by rw [landMark_isPend, h, Bool.false_and])
  induction l generalizing g with
  | nil => exact ⟨rfl, rfl, rfl, fun _ h => nomatch h⟩
  | cons j l ih =>
    obtain ⟨h1, h2, h3, h4⟩ := ih (landMark d pois g j)
    refine ⟨(landMark_result d pois g j).trans h1, h2.trans (landMark_v ..), h3.trans (landMark_s ..), fun i hi => ?_⟩
    rcases List.mem_cons.mp hi with rfl | hi
    · exact keeps l _ _ (by rw [landMark_isPend]; simp)
    · exact h4 i hi

theorem vreg_setV_ne {r q : Nat} (h : q ≠ r) (g : Group) (m : Lanes) (f : Nat → Word) : (g.setV r m f).vreg q = g.vreg q :=
  aget_aset_ne _ h _ _

theorem vreg_putV_ne {r q : Nat} (h : q ≠ r) (g : Group) (m : Lanes) (f : Nat → Word) : (g.putV r m f).vreg q = g.vreg q :=
  vreg_setV_ne h g m f

theorem vreg_putV64_ne {r q : Nat} (h : q ≠ r) (h1 : q ≠ r + 1) (g : Group) (m : Lanes) (f : Nat → DWord) :
    (g.putV64 r m f).vreg q = g.vreg q := (vreg_setV_ne h1 _ _ _).trans (vreg_setV_ne h g m _)

/-- The registers of an operation's destination, in number. -/
def LoadOp.landWidth (op : LoadOp) : Nat := match op.kind with | .load true => 1 | _ => regsOf op.ty

theorem landWidth_cases (op : LoadOp) : op.landWidth = 1 ∨ op.landWidth = 2 := by
  unfold LoadOp.landWidth regsOf
  split
  · exact .inl rfl
  · split
    · exact .inr rfl
    · exact .inl rfl

/-- What writing an operation's result leaves of its group. -/
structure Lands (op : LoadOp) (g h : Group) : Prop where
  only : ResultOnly g h
  vreg : ∀ r, (0, r) ∉ destRegs op → h.vreg r = g.vreg r
  sreg : ∀ k, (1, k) ∉ destRegs op → h.sreg k = g.sreg k
  free : ∀ x ∈ destRegs op, h.isPend x.1 x.2 = false

theorem destRegs_none {op : LoadOp} (h : op.dst = none) : destRegs op = [] := by
  unfold destRegs
  rw [h]
  cases op.kind <;> rfl

theorem destRegs_some {op : LoadOp} {f d : Nat} (hk : op.kind ≠ .pfetch ∧ op.kind ≠ .locate) (h : op.dst = some (f, d)) :
    destRegs op = if f = 1 then [(1, d)] else (List.range op.landWidth).map fun i => (0, d + i) := by
  unfold destRegs LoadOp.landWidth
  rw [h]
  cases hop : op.kind
  case pfetch => exact absurd hop hk.1
  case locate => exact absurd hop hk.2
  case load ext => cases ext <;> rfl
  all_goals rfl

theorem destRegs_scalar {op : LoadOp} {d : Nat} (hk : op.kind ≠ .pfetch ∧ op.kind ≠ .locate) (h : op.dst = some (1, d)) :
    destRegs op = [(1, d)] := (destRegs_some hk h).trans (if_pos rfl)

theorem destRegs_lanes {op : LoadOp} {f d : Nat} (hk : op.kind ≠ .pfetch ∧ op.kind ≠ .locate) (h : op.dst = some (f, d)) (hf : f ≠ 1) :
    destRegs op = (List.range op.landWidth).map fun i => (0, d + i) := (destRegs_some hk h).trans (if_neg hf)

/-- The value that an operation returned to a lane, and what its destination takes of it. -/
def LoadOp.landValue (op : LoadOp) (vals : List (Nat × Nat)) (l : Nat) : Nat :=
  let v := (vals.filter fun p => p.1 == l).foldr (fun p n => p.2 + 2 ^ (8 * op.width) * n) 0
  match op.kind with
  | .load true => ldxReg op.ty v
  | .load false => regOfMem op.ty v
  | _ => v

/-- The group with the values of a returned operation in its lane registers, not yet marked. -/
def LoadOp.landPut (op : LoadOp) (d : Nat) (g : Group) (vals : List (Nat × Nat)) : Group :=
  let m := maskOf fun l => vals.any fun p => p.1 == l
  if op.landWidth = 2 then g.putV64 d m fun l => BitVec.ofNat 64 (op.landValue vals l)
  else g.putV d m fun l => BitVec.ofNat 32 (op.landValue vals l)

theorem land_lanes {op : LoadOp} {f d : Nat} (h : op.dst = some (f, d)) (hf : f ≠ 1) (g : Group) (vals : List (Nat × Nat)) (pois : Lanes) :
    op.land g vals pois = (List.range op.landWidth).foldl (landMark d pois) (op.landPut d g vals) := by
  unfold LoadOp.land
  rw [h]
  dsimp only
  rw [if_neg hf]
  rfl

theorem landPut_result (op : LoadOp) (d : Nat) (g : Group) (vals : List (Nat × Nat)) :
    ResultOnly g (op.landPut d g vals) ∧ (op.landPut d g vals).s = g.s := by
  unfold LoadOp.landPut
  dsimp only
  split
  · exact putV64_result _ _ _ _
  · exact putV_result _ _ _ _

theorem vreg_landPut_ne {op : LoadOp} {d r : Nat} (h : ∀ i < op.landWidth, r ≠ d + i) (g : Group) (vals : List (Nat × Nat)) :
    (op.landPut d g vals).vreg r = g.vreg r := by
  have := landWidth_cases op
  unfold LoadOp.landPut
  dsimp only
  split
  · exact vreg_putV64_ne (h 0 (by omega)) (h 1 (by omega)) _ _ _
  · exact vreg_putV_ne (h 0 (by omega)) _ _ _

theorem land_lands {op : LoadOp} (hk : op.kind ≠ .pfetch ∧ op.kind ≠ .locate) (g : Group) (vals : List (Nat × Nat)) (pois : Lanes) :
    Lands op g (op.land g vals pois) := by
  rcases hd : op.dst with _ | ⟨f, d⟩
  · have hl : op.land g vals pois = g := by unfold LoadOp.land; rw [hd]
    rw [hl]
    exact ⟨rfl, fun _ _ => rfl, fun _ _ => rfl, fun x hx => by rw [destRegs_none hd] at hx; exact nomatch hx⟩
  by_cases hf : f = 1
  · subst hf
    have hl : ∃ w, op.land g vals pois = (g.putS d w).clrPend 1 d := by
      unfold LoadOp.land
      rw [hd]
      exact ⟨_, if_pos rfl⟩
    obtain ⟨w, hl⟩ := hl
    rw [hl]
    refine ⟨(putS_result g d w).trans rfl, fun r _ => ?_, fun k hkd => ?_, fun x hx => ?_⟩
    · unfold Group.putS Group.setS
      split <;> rfl
    · rw [destRegs_scalar hk hd, List.mem_singleton, Prod.mk.injEq, not_and] at hkd
      exact sreg_putS_ne _ _ _ (hkd rfl)
    · rw [destRegs_scalar hk hd, List.mem_singleton] at hx
      rw [hx, isPend_clrPend]
      simp
  · obtain ⟨hu, hus⟩ := landPut_result op d g vals
    obtain ⟨m1, m2, m3, m4⟩ := foldl_landMark d pois (List.range op.landWidth) (op.landPut d g vals)
    rw [land_lanes hd hf]
    refine ⟨hu.trans m1, fun r hr => ?_, fun k _ => ?_, fun x hx => ?_⟩
    · unfold Group.vreg
      rw [m2]
      refine vreg_landPut_ne (fun i hi he => hr ?_) g vals
      rw [destRegs_lanes hk hd hf, List.mem_map]
      exact ⟨i, List.mem_range.mpr hi, by rw [he]⟩
    · unfold Group.sreg
      rw [m3, hus]
    · rw [destRegs_lanes hk hd hf, List.mem_map] at hx
      obtain ⟨i, hi, rfl⟩ := hx
      exact m4 i hi

/-- The lane registers that a load of one lane to one register leaves. -/
theorem land_oneLane_v {op : LoadOp} {a : LaneAcc} {ext : Bool} {d : Nat} (h : oneLane op a ext d) (g : Group) (n : Nat) (pois : Lanes) :
    (op.land g [(a.lane, n)] pois).v =
      (g.putV d (maskOf fun l => l == a.lane) fun _ => BitVec.ofNat 32 (loadedReg ext op.ty n)).v := by
  obtain ⟨-, -, hk, hd, hw⟩ := h
  have hn : op.landWidth ≠ 2 := by
    unfold LoadOp.landWidth
    rw [hk]
    rcases hw with rfl | hw
    · exact Nat.succ_ne_self 1 |>.symm
    · cases ext
      · exact fun h2 => absurd (hw.symm.trans h2) (by decide)
      · exact Nat.succ_ne_self 1 |>.symm
  have hval : op.landValue [(a.lane, n)] a.lane = loadedReg ext op.ty n := by
    unfold LoadOp.landValue
    rw [hk]
    cases ext <;> simp [loadedReg]
  rw [land_lanes hd (by decide)]
  refine ((foldl_landMark d pois _ _).2.1).trans ?_
  unfold LoadOp.landPut
  dsimp only
  rw [if_neg hn]
  have hm : (maskOf fun l => [(a.lane, n)].any fun p => p.1 == l) = maskOf fun l => l == a.lane :=
    maskOf_congr fun i _ => by simp [Bool.beq_comm]
  rw [hm]
  unfold Group.putV Group.setV Group.clrVPois Group.setVPois
  dsimp only
  congr 1
  refine List.map_congr_left fun l _ => ?_
  rw [maskOf_getLsbD]
  split
  case isTrue hl =>
    rw [Bool.and_eq_true, beq_iff_eq] at hl
    rw [hl.2, hval]
  case isFalse => rfl

/-! ### What performing and returning leave of the state -/

/-- Only the placing of lines and what counts accesses differ. -/
def PlaceOnly (s t : State) : Prop :=
  t = { s with tlb := t.tlb, tabs := t.tabs, parks := t.parks, shallot := t.shallot, cores := t.cores, mpois := t.mpois }

namespace PlaceOnly

theorem refl (s : State) : PlaceOnly s s := rfl

theorem trans {s t u : State} (h : PlaceOnly s t) (k : PlaceOnly t u) : PlaceOnly s u := by
  unfold PlaceOnly at *
  rw [k, h]

theorem foldl {α : Type} {f : State → α → State} (h : ∀ s a, PlaceOnly s (f s a)) (l : List α) (s : State) :
    PlaceOnly s (l.foldl f s) := by
  induction l generalizing s with
  | nil => exact refl s
  | cons a l ih => exact (h s a).trans (ih _)

theorem of_notes {s t : State} (h : NotesOnly s t) : PlaceOnly s t := by
  unfold PlaceOnly
  rw [h.eq]

variable {s t : State} (h : PlaceOnly s t)
include h

theorem eq : t = { s with tlb := t.tlb, tabs := t.tabs, parks := t.parks, shallot := t.shallot, cores := t.cores, mpois := t.mpois } := h
theorem groupsMem : GroupsMem s t := by rw [h.eq]; exact ⟨rfl, rfl⟩
theorem ord : t.ord = s.ord := by rw [h.eq]
theorem portFailed (k : Nat) : t.portFailed k = s.portFailed k := by rw [h.eq]; rfl

end PlaceOnly

theorem countHit_place (s : State) (key core cl asid : Nat) : PlaceOnly s (countHit s key core cl asid) := by
  unfold countHit
  split
  · dsimp only
    split <;> rfl
  · rfl

theorem touchLines_place (s : State) (gid : Nat) (accs : List LaneAcc) : PlaceOnly s (touchLines s gid accs) :=
  PlaceOnly.foldl (fun s _ => (PlaceOnly.of_notes (crossDemote_notes s _ _)).trans (countHit_place _ _ _ _ _)) _ _

theorem settleParks_place (n : Nat) (s : State) : PlaceOnly s (settleParks s n) := by
  induction n generalizing s with
  | zero => rfl
  | succ n ih =>
    unfold settleParks
    split
    · rfl
    · exact (PlaceOnly.foldl (fun s l => (rfl : PlaceOnly s (demoteLine s l))) _ _).trans (ih _)

theorem parkLine_place (s : State) (va key asid : Nat) (d : Word) : PlaceOnly s (parkLine s va key asid d) := by
  unfold parkLine
  dsimp only
  refine PlaceOnly.trans ?_ (settleParks_place _ _)
  split <;> rfl

theorem stnPlace_place (s : State) (va key asid : Nat) (d : Word) (o : Bool) : PlaceOnly s (stnPlace s va key asid d o) := by
  unfold stnPlace
  split
  · rfl
  · exact (PlaceOnly.of_notes (crossDemote_notes s _ _)).trans (parkLine_place _ _ _ _ _)

theorem locateLine_place (s : State) (va key core asid cl : Nat) : PlaceOnly s (locateLine s va key core asid cl) := by
  unfold locateLine
  split
  · rfl
  · split
    · rfl
    · split
      · rfl
      · split
        · exact parkLine_place _ _ _ _ _
        · rfl

theorem rangeOne_place (rop : Nat) (desc : Word) (gid : Nat) (s : State) (va : Nat) : PlaceOnly s (rangeOne rop desc gid s va) := by
  unfold rangeOne
  dsimp only
  split
  · rfl
  · split
    · rfl
    · split
      · exact .of_notes (crossDemote_notes s _ _)
      · exact (PlaceOnly.of_notes (crossDemote_notes s _ _)).trans (stnPlace_place _ _ _ _ _ _)
    · rfl

theorem clearPois_place (s : State) (keys : List (Nat × Nat)) : PlaceOnly s (clearPois s keys) := by
  unfold clearPois
  split <;> rfl

theorem loadLane_groupsMem (s : State) (gid : Nat) (op : LoadOp) (a : LaneAcc) (ch : Nat) :
    GroupsMem s (loadLane s gid op a ch).1 := by
  unfold loadLane
  split <;> exact ⟨rfl, rfl⟩

/-- A fold whose accumulator carries the state changes of it what its steps change. -/
theorem foldl_fst_groups {α β : Type} {f : State × β → α → State × β} (h : ∀ p a, (f p a).1.groups = p.1.groups) (l : List α)
    (p : State × β) : (l.foldl f p).1.groups = p.1.groups := by
  induction l generalizing p with
  | nil => rfl
  | cons a l ih => exact (ih _).trans (h p a)

theorem foldl_fst_groupsMem {α β : Type} {f : State × β → α → State × β} (h : ∀ p a, GroupsMem p.1 (f p a).1) (l : List α)
    (p : State × β) : GroupsMem p.1 (l.foldl f p).1 := by
  induction l generalizing p with
  | nil => exact .refl _
  | cons a l ih => exact (h p a).trans (ih _)

theorem perform_groups (s : State) (n : Nat) : (s.perform n).groups = s.groups := by
  unfold State.perform
  split
  · rfl
  · exact pokes_groups _ _ _

theorem atomicLane_groups (s : State) (gid aop ty w sc ord : Nat) (red : Bool) (two : Lanes)
    (fences : List (Nat × Nat × Option (Nat × Nat))) (a : LaneAcc) (x y ch : Nat) :
    (atomicLane s gid aop ty w sc ord red two fences a x y ch).1.groups = s.groups := by
  unfold atomicLane
  dsimp only
  have hu : ((if (red || decide (sc ≥ 4)) = true then s.unpark (a.pa / 128) else s).endPend a.node).groups = s.groups := by
    split <;> rfl
  generalize (if (red || decide (sc ≥ 4)) = true then s.unpark (a.pa / 128) else s).endPend a.node = u at hu ⊢
  split
  · exact hu
  · split
    · exact hu
    · exact (perform_groups _ _).trans hu

theorem atomicRun_groups (s : State) (gid aop ty w sc ord : Nat) (red : Bool) (two : Lanes)
    (fences : Nat → List (Nat × Nat × Option (Nat × Nat))) (opv : List (Nat × Nat × Nat)) (accs : List LaneAcc) (ch : Nat) :
    (atomicRun s gid aop ty w sc ord red two fences opv accs ch).1.groups = s.groups :=
  foldl_fst_groups (f := fun (p : State × List (Nat × Nat) × Nat) (a : LaneAcc) =>
    let o := (opv.lookup a.lane).getD (0, 0)
    let x := atomicLane p.1 gid aop ty w sc ord red two (fences a.lane) a o.1 o.2 p.2.2
    (x.1, p.2.1 ++ [(a.lane, x.2.1)], x.2.2)) (fun p a => atomicLane_groups _ _ _ _ _ _ _ _ _ _ _ _ _ _) accs (s, [], ch)

/-- Writes of some events alone perform: groups stay, every write that stands was there with its bytes, and a byte that none of
those events writes stays. -/
structure PerformsOf (nodes : Nat → Prop) (s t : State) : Prop where
  groups : t.groups = s.groups
  writes : ∀ w ∈ t.ord.writes, ∃ v ∈ s.ord.writes, v.node = w.node ∧ v.addr = w.addr ∧ v.bytes = w.bytes
  byte : ∀ k, (∀ w ∈ s.ord.writes, nodes w.node → w.covers k = false) → t.byte k = s.byte k

namespace PerformsOf

theorem of_place {nodes : Nat → Prop} {s t : State} (h : PlaceOnly s t) : PerformsOf nodes s t :=
  ⟨h.groupsMem.1, fun w hw => ⟨w, by rwa [← h.ord], rfl, rfl, rfl⟩, fun k _ => h.groupsMem.byte k⟩

theorem trans {nodes : Nat → Prop} {s t u : State} (h : PerformsOf nodes s t) (k : PerformsOf nodes t u) : PerformsOf nodes s u where
  groups := k.groups.trans h.groups
  writes := fun w hw => by
    obtain ⟨v, hv, h1, h2, h3⟩ := k.writes w hw
    obtain ⟨x, hx, k1, k2, k3⟩ := h.writes v hv
    exact ⟨x, hx, k1.trans h1, k2.trans h2, k3.trans h3⟩
  byte := fun a ha => by
    refine (k.byte a fun w hw hn => ?_).trans (h.byte a ha)
    obtain ⟨v, hv, h1, h2, h3⟩ := h.writes w hw
    have := ha v hv (h1 ▸ hn)
    unfold WriteRec.covers at this ⊢
    rwa [← h2, ← h3]

theorem foldl {α : Type} {nodes : Nat → Prop} {f : State → α → State} (l : List α) (h : ∀ s, ∀ a ∈ l, PerformsOf nodes s (f s a)) (s : State) :
    PerformsOf nodes s (l.foldl f s) := by
  induction l generalizing s with
  | nil => exact of_place (.refl s)
  | cons a l ih =>
    exact (h s a List.mem_cons_self).trans (ih (fun s b hb => h s b (List.mem_cons_of_mem _ hb)) _)

end PerformsOf

theorem pokes_byte_outside {s : State} {k a : Nat} {bs : List Byte} (h : a < k ∨ k + bs.length ≤ a) :
    (s.pokes k bs).byte a = s.byte a := by
  unfold State.pokes State.byte
  split
  · exact mget_mwrite_outside _ h
  · rfl

theorem pokes_ord (s : State) (k : Nat) (bs : List Byte) : (s.pokes k bs).ord = s.ord := by
  unfold State.pokes
  split <;> rfl

theorem perform_performs (s : State) (n : Nat) : PerformsOf (· = n) s (s.perform n) := by
  unfold State.perform
  split
  case h_1 => exact .of_place (.refl s)
  case h_2 w hw =>
    have hmem := List.mem_of_find?_eq_some hw
    have hnode : w.node = n := by
      have := List.find?_some hw
      simp only [Bool.and_eq_true, beq_iff_eq] at this
      exact this.1
    refine ⟨pokes_groups _ _ _, fun v hv => ?_, fun k hk => ?_⟩
    · rcases List.mem_cons.mp hv with rfl | hv
      · exact ⟨w, hmem, rfl, rfl, rfl⟩
      · have := (List.mem_filter.mp hv).1
        rw [pokes_ord] at this
        exact ⟨v, this, rfl, rfl, rfl⟩
    · have hc := hk w hmem hnode
      refine pokes_byte_outside (s := s) ?_
      unfold WriteRec.covers at hc
      simp only [Bool.and_eq_false_iff, decide_eq_false_iff_not] at hc
      dsimp only
      omega

theorem setWrites_performs {nodes : Nat → Prop} (s : State) {f : WriteRec → WriteRec}
    (h : ∀ w, (f w).node = w.node ∧ (f w).addr = w.addr ∧ (f w).bytes = w.bytes) : PerformsOf nodes s (setWrites s f) := by
  refine ⟨rfl, fun v hv => ?_, fun _ _ => rfl⟩
  obtain ⟨w, hw, rfl⟩ := List.mem_map.mp hv
  obtain ⟨h1, h2, h3⟩ := h w
  exact ⟨w, hw, h1.symm, h2.symm, h3.symm⟩

theorem ackW_performs {nodes : Nat → Prop} (s : State) (n : Nat) : PerformsOf nodes s (s.ackW n) :=
  setWrites_performs s fun w => by split <;> exact ⟨rfl, rfl, rfl⟩

theorem performAt_performs (s : State) (n key : Nat) : PerformsOf (· = n) s (performAt s n key) := by
  unfold performAt
  split
  · exact ⟨rfl, fun w hw => ⟨w, (List.mem_filter.mp hw).1, rfl, rfl, rfl⟩, fun _ _ => rfl⟩
  · exact (perform_performs s n).trans (ackW_performs _ n)

theorem PerformsOf.mono {p q : Nat → Prop} (h : ∀ n, p n → q n) {s t : State} (k : PerformsOf p s t) : PerformsOf q s t :=
  ⟨k.groups, k.writes, fun a ha => k.byte a fun w hw hn => ha w hw (h _ hn)⟩

/-- The accesses of a store perform and are acknowledged. -/
def ackAccs (s : State) (asid : Nat) (accs : List LaneAcc) : State :=
  clearPois (accs.foldl (fun (s : State) (a : LaneAcc) => performAt s a.node a.pa) (refuseAll s asid (accs.map (·.pa))))
    (accs.map (writeSpan (refuseAll s asid (accs.map (·.pa)))))

theorem ackAccs_performs (s : State) (asid : Nat) (accs : List LaneAcc) :
    PerformsOf (fun n => ∃ a ∈ accs, a.node = n) s (ackAccs s asid accs) := by
  have h1 : PerformsOf (fun n => ∃ a ∈ accs, a.node = n) s (refuseAll s asid (accs.map (·.pa))) :=
    .of_place (.of_notes (refuseAll_notes s asid _))
  have h2 := PerformsOf.foldl (nodes := fun n => ∃ a ∈ accs, a.node = n) (f := fun (s : State) (a : LaneAcc) => performAt s a.node a.pa) accs
    (fun s a ha => (performAt_performs s a.node a.pa).mono fun n hn => ⟨a, ha, hn.symm⟩) (refuseAll s asid (accs.map (·.pa)))
  exact (h1.trans h2).trans (.of_place (clearPois_place _ _))

/-- The byte that a performed write leaves. -/
theorem perform_byte {s : State} {n : Nat} {w : WriteRec} (h : (s.ord.writes.find? fun x => x.node == n && !x.done) = some w)
    (hk : w.addr < 2 ^ 70) {k : Nat} (hc : w.covers k = true) : (s.perform n).byte k = w.byteAt k := by
  simp only [WriteRec.covers, Bool.and_eq_true, decide_eq_true_eq] at hc
  unfold State.perform
  rw [h]
  dsimp only
  unfold State.pokes
  rw [if_pos hk]
  refine (mget_mwrite s.mem w.addr w.bytes k).trans ?_
  rw [dif_pos hc]
  exact (List.getD_eq_getElem _ _ (by omega)).symm

/-! ### The steps -/

theorem holdClaimed_none {s : State} {accs : List LaneAcc} (h : unclaimed s accs) : holdClaimed s accs = none := by
  unfold holdClaimed
  dsimp only
  rw [if_neg]
  rw [List.any_eq_true]
  rintro ⟨c, hc, hne⟩
  rcases hcl : c.2.claim with _ | ⟨line, held⟩
  · simp [hcl] at hne
  · have : (accs.filter fun a => a.pa / 128 == line && !s.ord.hb a.node c.2.node) = [] :=
      List.filter_eq_nil_iff.mpr fun a ha hx => h c hc line held hcl a ha (by simpa using (Bool.and_eq_true_iff.mp hx).1)
    simp [hcl, this] at hne

/-- The operation has left the queue of loads. -/
def popLoad (gid : Nat) (rest : List LoadOp) (s : State) : State := settleGroup (s.modGrp gid fun g => { g with loads := rest }) gid

/-- The operation has left the queue of stores. -/
def popStore (gid : Nat) (op : StoreOp) (s : State) : State :=
  settleGroup (s.modGrp gid fun g => { g with stores := g.stores.filter fun t => t.seq != op.seq }) gid

theorem settleGroup_standing {s : State} {gid : Nat} (h : (s.grp gid).exited = false) : settleGroup s gid = s := by
  unfold settleGroup
  exact if_pos (by rw [h]; simp)

/-- What LOAD_RESULT_RETURN makes of a group whose oldest operation returns whole. -/
theorem popLoad_completes {op : LoadOp} {rest : List LoadOp} {s u : State} {gid : Nat} (h : Lands op (s.grp gid) (u.grp gid)) :
    ((popLoad gid rest u).grp gid).loads = rest ∧ ((popLoad gid rest u).grp gid).stores = (s.grp gid).stores ∧
      QueueKept s (popLoad gid rest u) gid (destRegs op) ∧
      (∀ x ∈ destRegs op, ((popLoad gid rest u).grp gid).isPend x.1 x.2 = false) ∧
      ((popLoad gid rest u).grp gid).v = (u.grp gid).v ∧
      ((s.grp gid).exited = false → (popLoad gid rest u).mem = u.mem) := by
  obtain ⟨l, hl⟩ := (settleGroup_settles (u.modGrp gid fun g => { g with loads := rest }) gid).group
  rw [grp_modGrp] at hl
  change (popLoad gid rest u).grp gid = _ at hl
  obtain ⟨only, vreg, sreg, free⟩ := h
  have ho := only
  unfold ResultOnly at ho
  rw [hl]
  refine ⟨rfl, (congrArg Group.stores ho).trans rfl, ⟨?_, ?_, ?_, ?_, ?_⟩, free, rfl, fun hx => ?_⟩
  · rw [hl, ho]
  · rw [hl, ho]
    exact ⟨rfl, rfl, rfl, rfl, rfl, rfl, rfl, rfl, rfl⟩
  · rw [hl, ho]
  · rw [hl]
    exact vreg
  · rw [hl]
    exact sreg
  · unfold popLoad
    rw [settleGroup_standing]
    · rfl
    · rw [grp_modGrp, ho]
      exact hx

theorem popStore_completes {op : StoreOp} {s u : State} {gid : Nat} (h : u.groups = s.groups) :
    ((popStore gid op u).grp gid).stores = (s.grp gid).stores.filter (fun x => x.seq != op.seq) ∧
      ((popStore gid op u).grp gid).loads = (s.grp gid).loads ∧ SameRegs (s.grp gid) ((popStore gid op u).grp gid) ∧
      QueueKept s (popStore gid op u) gid [] ∧ ((s.grp gid).exited = false → (popStore gid op u).mem = u.mem) := by
  have hg : u.grp gid = s.grp gid := by unfold State.grp; rw [h]
  obtain ⟨l, hl⟩ := (settleGroup_settles (u.modGrp gid fun g => { g with stores := g.stores.filter fun t => t.seq != op.seq }) gid).group
  rw [grp_modGrp, hg] at hl
  change (popStore gid op u).grp gid = _ at hl
  unfold QueueKept
  rw [hl]
  refine ⟨rfl, rfl, ⟨rfl, rfl, rfl⟩, ⟨rfl, ⟨rfl, rfl, rfl, rfl, rfl, rfl, rfl, rfl, rfl⟩, rfl, fun _ _ => rfl, fun _ _ => rfl⟩, fun hx => ?_⟩
  unfold popStore
  rw [settleGroup_standing]
  · rfl
  · rw [grp_modGrp, hg]
    exact hx

/-- One more lane of a load returns. -/
def returnLane (gid : Nat) (op : LoadOp) (p : State × List (Nat × Nat) × Nat) (a : LaneAcc) : State × List (Nat × Nat) × Nat :=
  let x := loadLane p.1 gid op a p.2.2
  (x.1, p.2.1 ++ [(a.lane, x.2.1)], x.2.2)

/-- The state in which the lanes of a load have returned, with their values. -/
def loadedLanes (s : State) (gid : Nat) (op : LoadOp) (ch : Nat) : State × List (Nat × Nat) × Nat :=
  op.accs.foldl (returnLane gid op) (touchLines s gid op.accs, [], ch / 2)

theorem loadedLanes_groupsMem (s : State) (gid : Nat) (op : LoadOp) (ch : Nat) : GroupsMem s (loadedLanes s gid op ch).1 :=
  (touchLines_place s gid op.accs).groupsMem.trans (foldl_fst_groupsMem (f := returnLane gid op) (fun _ _ => loadLane_groupsMem _ _ _ _ _) _ _)

/-- A load whose turn has come returns to its destination. -/
theorem loadReturn_load {s : State} {g ch : Nat} {op : LoadOp} {rest : List LoadOp} {ext : Bool} (hl : (s.grp g).loads = op :: rest)
    (hk : op.kind = .load ext) (h : returnsNow s g ch op) : loadReturn s g ch = popLoad g rest
      ((loadedLanes s g op ch).1.modGrp g fun x => op.land x (loadedLanes s g op ch).2.1 (poisLanes (touchLines s g op.accs) op)) := by
  unfold returnsNow at h
  rw [hk] at h
  obtain ⟨hmay, hex, hcl⟩ := h
  unfold loadReturn
  dsimp only
  rw [hl]
  dsimp only
  rw [hk]
  dsimp only
  rw [if_neg (by rw [hmay]; decide), if_neg (fun hx => hx.1 hex)]
  have hnone : (if ch % 2 = 1 then holdClaimed s op.accs else none) = none := by
    split
    case isTrue hodd => exact holdClaimed_none (hcl hodd)
    case isFalse => rfl
  rw [hnone]
  rfl

/-- What stands in the group as its atomic has performed. -/
def atomicState (s : State) (g ch aop : Nat) (op : LoadOp) : State × List (Nat × Nat) :=
  atomicRun (if op.sc ≥ 4 then s else touchLines s g (op.accs.take (atomicLanes op.sc op.accs.length ch))) g aop op.ty op.width op.sc
    op.ord false op.two (fun l => (op.acqFences.filter fun f => f.1 == l).map (·.2)) op.opv
    (op.accs.take (atomicLanes op.sc op.accs.length ch)) (ch / 2)

theorem atomicState_groups (s : State) (g ch aop : Nat) (op : LoadOp) : (atomicState s g ch aop op).1.groups = s.groups := by
  refine (atomicRun_groups _ _ _ _ _ _ _ _ _ _ _ _ _).trans ?_
  split
  · rfl
  · exact (touchLines_place _ _ _).groupsMem.1

theorem atomicLanes_whole {sc n ch : Nat} (h : 4 ≤ sc → ch % 2 = 0) : atomicLanes sc n ch = n := by
  unfold atomicLanes
  refine if_neg fun hx => ?_
  have := h hx.1
  omega

theorem loadReturn_atomic {s : State} {g ch : Nat} {op : LoadOp} {rest : List LoadOp} {aop : Nat} (hl : (s.grp g).loads = op :: rest)
    (hk : op.kind = .atomic aop) (h : returnsNow s g ch op) : ∃ pois, loadReturn s g ch = popLoad g rest
      ((atomicState s g ch aop op).1.modGrp g fun x => op.land x (atomicState s g ch aop op).2 pois) := by
  unfold returnsNow at h
  rw [hk] at h
  obtain ⟨hmay, hex, hcl, hch⟩ := h
  have hex0 : (if op.sc ≤ 3 then lateExcl s g op.accs else 0) = 0 := by
    split
    case isTrue h3 => exact hex h3
    case isFalse => rfl
  unfold loadReturn
  dsimp only
  rw [hl]
  dsimp only
  rw [hk]
  dsimp only
  rw [if_neg (by rw [hmay]; decide), holdClaimed_none hcl]
  dsimp only
  rw [hex0, if_neg (fun hx => hx.1 rfl)]
  have hd : (op.accs.drop (atomicLanes op.sc op.accs.length ch)).isEmpty = true := by
    rw [atomicLanes_whole hch, List.drop_length]
    rfl
  rw [if_pos hd]
  exact ⟨_, rfl⟩

theorem loadReturn_completes {s : State} {g ch : Nat} {op : LoadOp} {rest : List LoadOp} (hl : (s.grp g).loads = op :: rest)
    (h : returnsNow s g ch op) : ∃ u : State, loadReturn s g ch = popLoad g rest u ∧ Lands op (s.grp g) (u.grp g) ∧
      ((∀ a, op.kind ≠ .atomic a) → u.mem = s.mem) := by
  rcases hk : op.kind with ext | aop | _ | _ | v
  · refine ⟨_, loadReturn_load hl hk h, ?_, fun _ => (loadedLanes_groupsMem s g op ch).2⟩
    rw [grp_modGrp, (loadedLanes_groupsMem s g op ch).grp]
    exact land_lands (by rw [hk]; exact ⟨(nomatch ·), (nomatch ·)⟩) _ _ _
  · obtain ⟨pois, hr⟩ := loadReturn_atomic hl hk h
    refine ⟨_, hr, ?_, fun hx => absurd rfl (hx aop)⟩
    have hg : (atomicState s g ch aop op).1.grp g = s.grp g := by unfold State.grp; rw [atomicState_groups]
    rw [grp_modGrp, hg]
    exact land_lands (by rw [hk]; exact ⟨(nomatch ·), (nomatch ·)⟩) _ _ _
  · refine ⟨s, ?_, ⟨.refl _, fun _ _ => rfl, fun _ _ => rfl, fun x hx => ?_⟩, fun _ => rfl⟩
    · unfold loadReturn
      dsimp only
      rw [hl]
      dsimp only
      rw [hk]
      rfl
    · unfold destRegs at hx
      rw [hk] at hx
      exact nomatch hx
  · refine ⟨op.accs.foldl (fun (x : State) (a : LaneAcc) => locateLine x a.va a.pa (x.coreOf (s.grp g)) (x.asidOf (s.grp g))
      (x.team (s.grp g).team).cluster) s, ?_, ?_, fun _ => ?_⟩
    · unfold loadReturn
      dsimp only
      rw [hl]
      dsimp only
      rw [hk]
      rfl
    · rw [(PlaceOnly.foldl (fun x (a : LaneAcc) => locateLine_place x a.va a.pa _ _ _) op.accs s).groupsMem.grp]
      refine ⟨.refl _, fun _ _ => rfl, fun _ _ => rfl, fun x hx => ?_⟩
      unfold destRegs at hx
      rw [hk] at hx
      exact nomatch hx
    · exact (PlaceOnly.foldl (fun x (a : LaneAcc) => locateLine_place x a.va a.pa _ _ _) op.accs s).groupsMem.2
  · refine ⟨(lanesEvent s g (lanesOf op.em) (op.opv.map (·.1)) (op.opv.map (·.1))).2.modGrp g fun x => op.land x [(0, v.toNat)] 0, ?_, ?_, fun _ => rfl⟩
    · unfold loadReturn
      dsimp only
      rw [hl]
      dsimp only
      rw [hk]
      rfl
    · rw [grp_modGrp, (lanesEvent_ord s g _ _ _).grp]
      exact land_lands (by rw [hk]; exact ⟨(nomatch ·), (nomatch ·)⟩) _ _ _

theorem loadResultReturnCompletes : LoadResultReturnCompletes := by
  intro s g ch op rest hl h
  obtain ⟨u, hu, hlands, hmem⟩ := loadReturn_completes hl h
  obtain ⟨h1, h2, h3, h4, -, h6⟩ := popLoad_completes (rest := rest) hlands
  refine ⟨_, exec_loadResultReturn g ch s, ?_⟩
  rw [hu]
  exact ⟨h1, h2, h3, h4, fun ha hx => (h6 hx).trans (hmem ha)⟩

/-- What a store that performs whole makes of the state, before it leaves its queue. -/
def storedState (s : State) (g ch : Nat) (op : StoreOp) : State :=
  match op.kind with
  | .range rop desc a n => (lineVas a n).foldl (rangeOne rop desc g) s
  | .red aop => (atomicRun s g aop op.ty op.width op.sc op.ord true op.two (fun _ => []) op.opv
      (op.accs.take (atomicLanes op.sc op.accs.length ch)) (ch / 2)).1
  | .stn desc => ackAccs (op.accs.foldl (fun (s' : State) (a : LaneAcc) =>
      stnPlace s' a.va a.pa (s.asidOf (s.grp g)) desc !(op.parked.contains (a.pa / 128))) s) (s.asidOf (s.grp g)) op.accs
  | .store => ackAccs (touchLines s g op.accs) (s.asidOf (s.grp g)) op.accs

theorem storeAck_eq {s : State} {g ix ch : Nat} {op : StoreOp} (hop : (s.grp g).stores[ix]? = some op) (h : performsNow s g ch op) :
    storeAck s g ix ch = popStore g op (storedState s g ch op) := by
  obtain ⟨hmay, hcl, hpk, hkind⟩ := h
  unfold storeAck
  dsimp only
  rw [hop]
  dsimp only
  rw [if_neg (by rw [hmay, hpk]; decide), holdClaimed_none hcl]
  dsimp only
  unfold storedState
  rcases hk : op.kind with _ | d | aop | ⟨rop, desc, a, n⟩
  · rw [hk] at hkind
    dsimp only
    rw [if_neg (fun hx => hx.1 hkind)]
    rfl
  · rfl
  · rw [hk] at hkind
    dsimp only
    rw [if_pos (by rw [atomicLanes_whole hkind, List.drop_length]; rfl)]
    rfl
  · rfl

theorem storedState_groups (s : State) (g ch : Nat) (op : StoreOp) : (storedState s g ch op).groups = s.groups := by
  unfold storedState
  split
  · exact (PlaceOnly.foldl (rangeOne_place _ _ _) _ _).groupsMem.1
  · exact atomicRun_groups _ _ _ _ _ _ _ _ _ _ _ _ _
  · exact (ackAccs_performs _ _ _).groups.trans (PlaceOnly.foldl (fun x (a : LaneAcc) => stnPlace_place x _ _ _ _ _) _ _).groupsMem.1
  · exact (ackAccs_performs _ _ _).groups.trans (touchLines_place _ _ _).groupsMem.1

theorem storedState_byte {s : State} {g ch : Nat} {op : StoreOp} (hk : ∀ a, op.kind ≠ .red a) {k : Nat} (h : ¬opCovers s op k) :
    (storedState s g ch op).byte k = s.byte k := by
  have hno : ∀ {u : State}, PlaceOnly s u → ∀ w ∈ u.ord.writes, (∃ a ∈ op.accs, a.node = w.node) → w.covers k = false := by
    intro u hu w hw ⟨a, ha, hn⟩
    rw [hu.ord] at hw
    exact Bool.eq_false_iff.mpr fun hc => h ⟨a, ha, w, hw, hn.symm, hc⟩
  unfold storedState
  split
  case h_1 => exact (PlaceOnly.foldl (rangeOne_place _ _ _) _ _).groupsMem.byte k
  case h_2 hr => exact absurd hr (hk _)
  case h_3 d _ =>
    have hp := PlaceOnly.foldl (fun x (a : LaneAcc) => stnPlace_place x a.va a.pa (s.asidOf (s.grp g)) d !(op.parked.contains (a.pa / 128))) op.accs s
    exact ((ackAccs_performs _ _ _).byte k (hno hp)).trans (hp.groupsMem.byte k)
  case h_4 =>
    have hp := touchLines_place s g op.accs
    exact ((ackAccs_performs _ _ _).byte k (hno hp)).trans (hp.groupsMem.byte k)

theorem storeAckCompletes : StoreAckCompletes := by
  intro s g ix ch op hop h
  obtain ⟨h1, h2, h3, h4, h5⟩ := popStore_completes (op := op) (storedState_groups s g ch op)
  refine ⟨_, exec_storeAck g ix ch s, ?_⟩
  rw [storeAck_eq hop h]
  exact ⟨h1, h2, h3, h4, fun hk hx k hc => (congrArg (mget · k) (h5 hx)).trans (storedState_byte hk hc)⟩

/-- What the write of a store's one access leaves in memory. -/
theorem storedState_lands {s : State} {g ch : Nat} {op : StoreOp} {a : LaneAcc} {w : WriteRec} (hk : op.kind = .store) (ha : op.accs = [a])
    (hp : s.portFailed a.pa = false) (hw : (s.ord.writes.find? fun x => x.node == a.node && !x.done) = some w) (h70 : w.addr < 2 ^ 70)
    {k : Nat} (hc : w.covers k = true) : (storedState s g ch op).byte k = w.byteAt k := by
  have hu : PlaceOnly s (refuseAll (touchLines s g op.accs) (s.asidOf (s.grp g)) (op.accs.map (·.pa))) :=
    (touchLines_place s g op.accs).trans (.of_notes (refuseAll_notes _ _ _))
  unfold storedState
  rw [hk]
  dsimp only
  unfold ackAccs
  refine ((clearPois_place _ _).groupsMem.byte k).trans ?_
  generalize refuseAll (touchLines s g op.accs) (s.asidOf (s.grp g)) (op.accs.map (·.pa)) = u at hu ⊢
  rw [ha]
  change (performAt u a.node a.pa).byte k = _
  unfold performAt
  rw [if_neg (by rw [hu.portFailed, hp]; decide)]
  exact perform_byte (by rw [hu.ord]; exact hw) h70 hc

/-- Settles O44: what a queue's step leaves is said once for the group (`Lands`, `popLoad_completes`, `popStore_completes`) and once
for memory (`PerformsOf`). -/
theorem loadsAndStoresComplete : Obligations.LoadsAndStoresComplete := by
  unfold Obligations.LoadsAndStoresComplete
  refine ⟨loadResultReturnCompletes, storeAckCompletes, fun g ch => ?_, fun g ch op rest ext hk => ?_, fun g ch op rest a ext d h1 => ?_,
    fun s node agent b n pl acq strong ch p hp => ?_, fun g ix ch op a w => ?_⟩
  · refine .of_exec (exec_loadResultReturn g ch) fun s hl => ?_
    unfold loadReturn
    dsimp only
    rw [hl]
  · refine .of_exec (exec_loadResultReturn g ch) ?_
    rintro s ⟨hl, hmay⟩
    unfold loadReturn
    dsimp only
    rw [hl]
    dsimp only
    rw [hk]
    dsimp only
    rw [if_pos (by rw [hmay]; decide)]
  · refine .of_exec (exec_loadResultReturn g ch) ?_
    rintro s ⟨hl, h⟩
    obtain ⟨hacc, -, hk, -, -⟩ := id h1
    have hg := loadedLanes_groupsMem s g op ch
    have hlands : Lands op (s.grp g) (((loadedLanes s g op ch).1.modGrp g fun x =>
        op.land x (loadedLanes s g op ch).2.1 (poisLanes (touchLines s g op.accs) op)).grp g) := by
      rw [grp_modGrp, hg.grp]
      exact land_lands (by rw [hk]; exact ⟨(nomatch ·), (nomatch ·)⟩) _ _ _
    obtain ⟨-, -, -, -, hv, -⟩ := popLoad_completes (rest := rest) hlands
    rw [loadReturn_load hl hk h, hv, grp_modGrp, hg.grp]
    have hvals : (loadedLanes s g op ch).2.1 = [(a.lane, (loadLane (touchLines s g op.accs) g op a (ch / 2)).2.1)] := by
      unfold loadedLanes
      rw [hacc]
      rfl
    rw [hvals]
    exact land_oneLane_v h1 _ _ _
  · exact ((loadCands_takes _ _ _ _ _ _ _ _ _).2 p hp).imp_right And.left
  · refine .of_exec (exec_storeAck g ix ch) ?_
    rintro s ⟨hop, h, hx, hk, ha, hpf, hw, h70⟩ k hc
    obtain ⟨-, -, -, -, hmem⟩ := popStore_completes (op := op) (storedState_groups s g ch op)
    rw [storeAck_eq hop h]
    exact (congrArg (mget · k) (hmem hx)).trans (storedState_lands hk ha hpf hw h70 hc)

end Sys2Proof.Machine

/-! Ring descriptors and slots as they stand in a window: reading back what was written (R179, R180). -/
namespace Sys2Proof.Machine

/-! ### Reads of a window after a write -/

theorem mread_append (m : List Host.Cell) (a n k : Nat) : mread m a (n + k) = mread m a n ++ mread m (a + n) k := by
  rw [mread_eq, mread_eq, mread_eq, List.range_add, List.map_append, List.map_map]
  exact congrArg (_ ++ ·) (List.map_congr_left fun i _ => congrArg (mget m) (Nat.add_assoc a n i).symm)

theorem mread_length (m : List Host.Cell) (a n : Nat) : (mread m a n).length = n := by
  rw [mread_eq, List.length_map, List.length_range]

theorem mread_mwrite_outside (m : List Host.Cell) {a : Nat} {bs : List Byte} {o n : Nat} (h : o + n ≤ a ∨ a + bs.length ≤ o) :
    mread (mwrite m a bs) o n = mread m o n := by
  rw [mread_eq, mread_eq]
  refine List.map_congr_left fun i hi => mget_mwrite_outside m ?_
  have := List.mem_range.mp hi
  omega

theorem leNat_append (as bs : List Byte) : leNat (as ++ bs) = leNat as + 2 ^ (8 * as.length) * leNat bs := by
  induction as with
  | nil => rw [List.nil_append, List.length_nil, leNat, Nat.mul_zero, Nat.pow_zero, Nat.one_mul, Nat.zero_add]
  | cons a as ih =>
    rw [List.cons_append, leNat, leNat, ih, List.length_cons, Nat.mul_succ, Nat.pow_add]
    ring

/-- The number that n bytes of memory hold. -/
def numAt (m : List Host.Cell) (o n : Nat) : Nat := leNat (mread m o n)

theorem numAt_lt (m : List Host.Cell) (o n : Nat) : numAt m o n < 2 ^ (8 * n) := by
  have h := leNat_lt (mread m o n)
  rwa [mread_length] at h

theorem numAt_add (m : List Host.Cell) (o n k : Nat) : numAt m o (n + k) = numAt m o n + 2 ^ (8 * n) * numAt m (o + n) k := by
  unfold numAt
  rw [mread_append, leNat_append, mread_length]

theorem numAt_outside (m : List Host.Cell) {a : Nat} {bs : List Byte} {o n : Nat} (h : o + n ≤ a ∨ a + bs.length ≤ o) :
    numAt (mwrite m a bs) o n = numAt m o n := congrArg leNat (mread_mwrite_outside m h)

theorem numAt_natLe (m : List Host.Cell) (o n v : Nat) : numAt (mwrite m o (natLe n v)) o n = v % 2 ^ (8 * n) := by
  have h := mread_mwrite m o (natLe n v)
  rw [natLe_length] at h
  unfold numAt
  rw [h, leNat_natLe]

/-! ### The descriptor of a ring -/

/-- The fields of a descriptor from its 32 bytes (R179). -/
def ringOf (v : Nat) : Ring :=
  ⟨bits v 0 32, bits v 32 32, bits v 64 8, bits v 72 1 == 1, bits v 73 1 == 1, bits v 74 6, bits v 80 8, bits v 88 8,
    bits v 96 32, bits v 128 32, bits v 160 32, bits v 192 64⟩

theorem ring_eq (s : State) (tid off : Nat) : s.ring tid off = ringOf (numAt (s.team tid).win off 32) := rfl

/-- Every field of a descriptor has its width. -/
structure Ring.Bounded (r : Ring) : Prop where
  base : r.base < 2 ^ 32
  sbytes : r.sbytes < 2 ^ 32
  slots : r.slots < 2 ^ 8
  rsv : r.rsv < 2 ^ 6
  head : r.head < 2 ^ 8
  tail : r.tail < 2 ^ 8
  rsv2 : r.rsv2 < 2 ^ 32
  phase : r.phase < 2 ^ 64

theorem ringOf_bounded (v : Nat) : (ringOf v).Bounded :=
  ⟨Nat.mod_lt _ (Nat.two_pow_pos _), Nat.mod_lt _ (Nat.two_pow_pos _), Nat.mod_lt _ (Nat.two_pow_pos _), Nat.mod_lt _ (Nat.two_pow_pos _),
    Nat.mod_lt _ (Nat.two_pow_pos _), Nat.mod_lt _ (Nat.two_pow_pos _), Nat.mod_lt _ (Nat.two_pow_pos _), Nat.mod_lt _ (Nat.two_pow_pos _)⟩

theorem b2n_cases (b : Bool) : (b = true ∧ b2n b = 1) ∨ (b = false ∧ b2n b = 0) := by cases b <;> simp [b2n]

theorem b2n_beq {b : Bool} {n : Nat} (h : n = b2n b) : (n == 1) = b := by
  rcases b2n_cases b with ⟨hb, hn⟩ | ⟨hb, hn⟩ <;> rw [h, hn, hb] <;> rfl

/-- A field of n bits between what stands below it and what stands above it. -/
theorem bits_between {v low x high a n : Nat} (hv : v = low + x * 2 ^ a + high * 2 ^ (a + n)) (hl : low < 2 ^ a) (hx : x < 2 ^ n) :
    bits v a n = x := by
  unfold bits
  rw [hv, Nat.pow_add, show low + x * 2 ^ a + high * (2 ^ a * 2 ^ n) = low + (x + high * 2 ^ n) * 2 ^ a by ring,
    Nat.add_mul_div_right _ _ (Nat.two_pow_pos a), Nat.div_eq_of_lt hl, Nat.zero_add, Nat.add_mul_mod_self_right, Nat.mod_eq_of_lt hx]

/-- A descriptor reads back as it was written, its counters modulo 2^32. -/
theorem ringOf_val {r : Ring} (h : r.Bounded) : ringOf (r.val % 2 ^ (8 * 32)) =
    { r with pubs := r.pubs % 2 ^ 32, dones := r.dones % 2 ^ 32 } := by
  obtain ⟨h1, h2, h3, h4, h5, h6, h7, h8⟩ := h
  obtain ⟨base, sbytes, slots, closed, fault, rsv, head, tail, pubs, dones, rsv2, phase⟩ := r
  dsimp only at h1 h2 h3 h4 h5 h6 h7 h8
  have hp : pubs % 2 ^ 32 < 2 ^ 32 := Nat.mod_lt _ (Nat.two_pow_pos _)
  have hd : dones % 2 ^ 32 < 2 ^ 32 := Nat.mod_lt _ (Nat.two_pow_pos _)
  have hc : b2n closed < 2 := by rcases b2n_cases closed with ⟨-, h⟩ | ⟨-, h⟩ <;> omega
  have hf : b2n fault < 2 := by rcases b2n_cases fault with ⟨-, h⟩ | ⟨-, h⟩ <;> omega
  unfold ringOf Ring.val
  dsimp only
  generalize pubs % 2 ^ 32 = p at hp ⊢
  generalize dones % 2 ^ 32 = q at hd ⊢
  generalize hcl : b2n closed = cl at hc ⊢
  generalize hfl : b2n fault = fl at hf ⊢
  have hlt : base + sbytes * 2 ^ 32 + slots * 2 ^ 64 + cl * 2 ^ 72 + fl * 2 ^ 73 + rsv * 2 ^ 74 + head * 2 ^ 80 + tail * 2 ^ 88 + p * 2 ^ 96 +
      q * 2 ^ 128 + rsv2 * 2 ^ 160 + phase * 2 ^ 192 < 2 ^ (8 * 32) := by omega
  rw [Nat.mod_eq_of_lt hlt]
  have e1 : cl = bits (base + sbytes * 2 ^ 32 + slots * 2 ^ 64 + cl * 2 ^ 72 + fl * 2 ^ 73 + rsv * 2 ^ 74 + head * 2 ^ 80 + tail * 2 ^ 88 +
      p * 2 ^ 96 + q * 2 ^ 128 + rsv2 * 2 ^ 160 + phase * 2 ^ 192) 72 1 :=
    (bits_between (low := base + sbytes * 2 ^ 32 + slots * 2 ^ 64)
      (high := fl + rsv * 2 ^ 1 + head * 2 ^ 7 + tail * 2 ^ 15 + p * 2 ^ 23 + q * 2 ^ 55 + rsv2 * 2 ^ 87 + phase * 2 ^ 119) (by omega) (by omega) (by omega)).symm
  have e2 : fl = bits (base + sbytes * 2 ^ 32 + slots * 2 ^ 64 + cl * 2 ^ 72 + fl * 2 ^ 73 + rsv * 2 ^ 74 + head * 2 ^ 80 + tail * 2 ^ 88 +
      p * 2 ^ 96 + q * 2 ^ 128 + rsv2 * 2 ^ 160 + phase * 2 ^ 192) 73 1 :=
    (bits_between (low := base + sbytes * 2 ^ 32 + slots * 2 ^ 64 + cl * 2 ^ 72)
      (high := rsv + head * 2 ^ 6 + tail * 2 ^ 14 + p * 2 ^ 22 + q * 2 ^ 54 + rsv2 * 2 ^ 86 + phase * 2 ^ 118) (by omega) (by omega) (by omega)).symm
  refine Ring.mk.injEq .. |>.mpr ⟨?_, ?_, ?_, b2n_beq (e1.symm.trans hcl.symm), b2n_beq (e2.symm.trans hfl.symm), ?_, ?_, ?_, ?_, ?_, ?_, ?_⟩
  · exact bits_between (low := 0) (high := sbytes + slots * 2 ^ 32 + cl * 2 ^ 40 + fl * 2 ^ 41 + rsv * 2 ^ 42 + head * 2 ^ 48 + tail * 2 ^ 56 +
      p * 2 ^ 64 + q * 2 ^ 96 + rsv2 * 2 ^ 128 + phase * 2 ^ 160) (by omega) (by omega) h1
  · exact bits_between (low := base) (high := slots + cl * 2 ^ 8 + fl * 2 ^ 9 + rsv * 2 ^ 10 + head * 2 ^ 16 + tail * 2 ^ 24 + p * 2 ^ 32 +
      q * 2 ^ 64 + rsv2 * 2 ^ 96 + phase * 2 ^ 128) (by omega) (by omega) h2
  · exact bits_between (low := base + sbytes * 2 ^ 32) (high := cl + fl * 2 ^ 1 + rsv * 2 ^ 2 + head * 2 ^ 8 + tail * 2 ^ 16 + p * 2 ^ 24 +
      q * 2 ^ 56 + rsv2 * 2 ^ 88 + phase * 2 ^ 120) (by omega) (by omega) h3
  · exact bits_between (low := base + sbytes * 2 ^ 32 + slots * 2 ^ 64 + cl * 2 ^ 72 + fl * 2 ^ 73) (high := head + tail * 2 ^ 8 + p * 2 ^ 16 +
      q * 2 ^ 48 + rsv2 * 2 ^ 80 + phase * 2 ^ 112) (by omega) (by omega) h4
  · exact bits_between (low := base + sbytes * 2 ^ 32 + slots * 2 ^ 64 + cl * 2 ^ 72 + fl * 2 ^ 73 + rsv * 2 ^ 74) (high := tail + p * 2 ^ 8 +
      q * 2 ^ 40 + rsv2 * 2 ^ 72 + phase * 2 ^ 104) (by omega) (by omega) h5
  · exact bits_between (low := base + sbytes * 2 ^ 32 + slots * 2 ^ 64 + cl * 2 ^ 72 + fl * 2 ^ 73 + rsv * 2 ^ 74 + head * 2 ^ 80)
      (high := p + q * 2 ^ 32 + rsv2 * 2 ^ 64 + phase * 2 ^ 96) (by omega) (by omega) h6
  · exact bits_between (low := base + sbytes * 2 ^ 32 + slots * 2 ^ 64 + cl * 2 ^ 72 + fl * 2 ^ 73 + rsv * 2 ^ 74 + head * 2 ^ 80 + tail * 2 ^ 88)
      (high := q + rsv2 * 2 ^ 32 + phase * 2 ^ 64) (by omega) (by omega) hp
  · exact bits_between (low := base + sbytes * 2 ^ 32 + slots * 2 ^ 64 + cl * 2 ^ 72 + fl * 2 ^ 73 + rsv * 2 ^ 74 + head * 2 ^ 80 + tail * 2 ^ 88 +
      p * 2 ^ 96) (high := rsv2 + phase * 2 ^ 32) (by omega) (by omega) hd
  · exact bits_between (low := base + sbytes * 2 ^ 32 + slots * 2 ^ 64 + cl * 2 ^ 72 + fl * 2 ^ 73 + rsv * 2 ^ 74 + head * 2 ^ 80 + tail * 2 ^ 88 +
      p * 2 ^ 96 + q * 2 ^ 128) (high := phase) (by omega) (by omega) h7
  · exact bits_between (low := base + sbytes * 2 ^ 32 + slots * 2 ^ 64 + cl * 2 ^ 72 + fl * 2 ^ 73 + rsv * 2 ^ 74 + head * 2 ^ 80 + tail * 2 ^ 88 +
      p * 2 ^ 96 + q * 2 ^ 128 + rsv2 * 2 ^ 160) (high := 0) (by omega) (by omega) h8

/-! ### STATE of a slot -/

/-- STATE of the slot that begins at an offset. -/
def slotIn (m : List Host.Cell) (o : Nat) : Nat := bits (numAt m o 16) 40 2

theorem slotState_eq (s : State) (tid : Nat) (r : Ring) (j : Nat) : s.slotState tid r j = slotIn (s.team tid).win (r.slot j) := rfl

/-- STATE stands in the second byte of the slot's second word. -/
theorem slotIn_eq (m : List Host.Cell) (o : Nat) : slotIn m o = bits (numAt m (o + 4) 4) 8 2 := by
  have h1 := numAt_add m o 4 12
  have h2 := numAt_add m (o + 4) 4 8
  have l1 := numAt_lt m o 4
  have l2 := numAt_lt m (o + 4) 4
  unfold slotIn
  rw [show (16 : Nat) = 4 + 12 from rfl, h1, show (12 : Nat) = 4 + 8 from rfl, h2]
  unfold bits
  omega

theorem slotIn_outside (m : List Host.Cell) {a : Nat} {bs : List Byte} {o : Nat} (h : o + 16 ≤ a ∨ a + bs.length ≤ o) :
    slotIn (mwrite m a bs) o = slotIn m o := by
  unfold slotIn
  rw [numAt_outside m h]

/-- The word of a slot with another STATE. -/
def stateWord (v st : Nat) : Nat := v - bits v 8 2 * 256 + st * 256

theorem slotIn_stateWord (m : List Host.Cell) (o : Nat) {st : Nat} (h : st < 4) :
    slotIn (mwrite m (o + 4) (natLe 4 (stateWord (numAt m (o + 4) 4) st))) o = st := by
  have hlt := numAt_lt m (o + 4) 4
  rw [slotIn_eq, numAt_natLe]
  unfold stateWord bits
  omega

/-- The first 8 bytes of a slot, as RPUB writes them. -/
theorem slotIn_header (m : List Host.Cell) (o v : Nat) : slotIn (mwrite m o (natLe 8 v)) o = bits v 40 2 := by
  have h1 := numAt_natLe m o 8 v
  have h2 := numAt_add (mwrite m o (natLe 8 v)) o 8 8
  unfold slotIn
  rw [show (16 : Nat) = 8 + 8 from rfl, h2, h1]
  unfold bits
  omega

theorem numAt_header (m : List Host.Cell) (o v : Nat) : numAt (mwrite m o (natLe 8 v)) o 4 = v % 2 ^ 32 := by
  have h1 := numAt_natLe m o 8 v
  have h2 := numAt_add (mwrite m o (natLe 8 v)) o 4 4
  have h3 := numAt_lt (mwrite m o (natLe 8 v)) o 4
  rw [show (4 + 4 : Nat) = 8 from rfl, h1] at h2
  omega

/-! ### Slots of a ring that passes -/

section Slots
variable {r : Ring} {off win j : Nat}

theorem slot_end (h : j < r.slots) : r.slot j + r.sbytes ≤ r.base + r.slots * r.sbytes := by
  unfold Ring.slot
  have := Nat.mul_le_mul_right r.sbytes (Nat.succ_le_of_lt h)
  rw [Nat.succ_mul] at this
  omega

theorem slot_apart (ha : ringApart off r) (hj : j < r.slots) (h32 : 32 ≤ r.sbytes) : r.slot j + 16 ≤ off ∨ off + 32 ≤ r.slot j := by
  have := slot_end hj
  have hge : r.base ≤ r.slot j := Nat.le_add_right _ _
  rcases ha with h | h
  · exact .inr (h.trans hge)
  · omega

theorem slots_apart {i : Nat} (h : i ≠ j) (h32 : 32 ≤ r.sbytes) : r.slot i + 32 ≤ r.slot j ∨ r.slot j + 32 ≤ r.slot i := by
  unfold Ring.slot
  rcases Nat.lt_or_gt_of_ne h with h | h
  · have := Nat.mul_le_mul_right r.sbytes (Nat.succ_le_of_lt h)
    rw [Nat.succ_mul] at this
    omega
  · have := Nat.mul_le_mul_right r.sbytes (Nat.succ_le_of_lt h)
    rw [Nat.succ_mul] at this
    omega

/-- What the check of Table 6 says of sizes. -/
theorem table_sizes (h : r.table = true) : 32 ≤ r.sbytes ∧ r.sbytes ≤ 65536 ∧ 2 ≤ r.slots ∧ r.slots ≤ 64 := by
  simp only [Ring.table, Bool.and_eq_true, decide_eq_true_eq] at h
  omega

theorem ok_parts (h : r.ok win = true) : r.table = true ∧ r.head < r.slots ∧ r.tail < r.slots ∧ r.rsv = 0 ∧ r.rsv2 = 0 := by
  simp only [Ring.ok, Bool.and_eq_true, decide_eq_true_eq, beq_iff_eq] at h
  obtain ⟨⟨⟨⟨⟨h1, -⟩, h2⟩, h3⟩, h4⟩, h5⟩ := h
  exact ⟨h1, h2, h3, h4, h5⟩

theorem slot_lt (hb : r.base < 2 ^ 32) (h : r.table = true) (hj : j < r.slots) : r.slot j + 16 < 2 ^ 33 := by
  obtain ⟨h1, h2, h3, h4⟩ := table_sizes h
  have := slot_end hj
  have hm : r.slots * r.sbytes ≤ 64 * 65536 := Nat.mul_le_mul h4 h2
  omega

theorem index_some {o : Nat} (h : r.index o = some j) : j < r.slots ∧ r.slot j = o := by
  have h1 := List.mem_of_find?_eq_some h
  have h2 := List.find?_some h
  exact ⟨List.mem_range.mp h1, beq_iff_eq.mp h2⟩

end Slots

/-! ### Writes of a team's window -/

/-- A team's window has become another; memory, groups and the other teams are as they were. -/
structure WindowBecomes (tid : Nat) (win : List Host.Cell) (s t : State) : Prop where
  only : TeamsOnly s t
  win_eq : (t.team tid).win = win
  others : ∀ u, u ≠ tid → t.team u = s.team u

namespace WindowBecomes
variable {tid : Nat} {win win' : List Host.Cell} {s t u : State}

theorem of_now (h : WindowNow tid win s t) : WindowBecomes tid win s t := ⟨h.only, h.win_eq, h.others⟩

theorem of_ord (h : OrdOnly s t) : WindowBecomes tid (s.team tid).win s t := of_now (.of_ord h)

theorem trans (h : WindowBecomes tid win s t) (k : WindowBecomes tid win' t u) : WindowBecomes tid win' s u :=
  ⟨h.only.trans k.only, k.win_eq, fun v hv => (k.others v hv).trans (h.others v hv)⟩

/-- A change of a team that leaves its window. -/
theorem modTeam (h : WindowBecomes tid win s t) {f : Team → Team} (hf : ∀ x, (f x).win = x.win) :
    WindowBecomes tid win s (t.modTeam tid f) :=
  ⟨h.only.trans rfl, by rw [team_modTeam, hf, h.win_eq], fun v hv => (team_modTeam_ne t hv f).trans (h.others v hv)⟩

theorem write (h : WindowBecomes tid win s t) (ag : Nat) (pl : Place) {o : Nat} (bytes : List Byte) (node : Nat) (ho : o < 2 ^ 33) :
    WindowBecomes tid (mwrite win o bytes) s (lsWriteAs t ag pl tid o bytes node) := by
  have := of_now (lsWriteAs_now t ag pl (tid := tid) bytes node ho)
  rw [h.win_eq] at this
  exact h.trans this

theorem update (h : WindowBecomes tid win s t) (ag : Nat) (pl : Place) {o : Nat} (bytes : List Byte) (node : Nat) (ho : o < 2 ^ 33) :
    WindowBecomes tid (mwrite win o bytes) s (lsUpdate t ag pl tid o bytes node) := (h.write ag pl bytes node ho).modTeam fun _ => rfl

theorem setRing {w : Who} (h : WindowBecomes w.tid win s t) {off : Nat} (ho : off < 2 ^ 33) (r : Ring) :
    WindowBecomes w.tid (mwrite win off (natLe 32 r.val)) s (setRing t w off r) := h.update _ _ _ _ ho

theorem setSlot {w : Who} (h : WindowBecomes w.tid win s t) {o : Nat} (ho : o + 4 < 2 ^ 33) (st : Nat) :
    WindowBecomes w.tid (mwrite win (o + 4) (natLe 4 (stateWord (numAt win (o + 4) 4) st))) s (setSlot t w o st) := by
  have := h.update w.ag w.pl (natLe 4 (stateWord (t.win w.tid (o + 4) 4) st)) w.node ho
  rw [show t.win w.tid (o + 4) 4 = numAt win (o + 4) 4 by rw [← h.win_eq]; rfl] at this
  unfold Machine.setSlot
  rw [show t.win w.tid (o + 4) 4 = numAt win (o + 4) 4 by rw [← h.win_eq]; rfl]
  exact this

theorem dropEvs (h : WindowBecomes tid win s t) (o k : Nat) : WindowBecomes tid win s (dropEvs t tid o k) := h.modTeam fun _ => rfl
theorem noteEv (h : WindowBecomes tid win s t) (o k n : Nat) : WindowBecomes tid win s (noteEv t tid o k n) := h.modTeam fun _ => rfl

theorem ring_eq (h : WindowBecomes tid win s t) (off : Nat) : t.ring tid off = ringOf (numAt win off 32) := by
  rw [Machine.ring_eq, h.win_eq]

theorem slotState (h : WindowBecomes tid win s t) (r : Ring) (j : Nat) : t.slotState tid r j = slotIn win (r.slot j) := by
  rw [slotState_eq, h.win_eq]

end WindowBecomes

/-- The descriptor that a write of it leaves, whatever stood there. -/
theorem ringOf_written (m : List Host.Cell) (off : Nat) {r : Ring} (h : r.Bounded) :
    ringOf (numAt (mwrite m off (natLe 32 r.val)) off 32) = { r with pubs := r.pubs % 2 ^ 32, dones := r.dones % 2 ^ 32 } := by
  rw [numAt_natLe, ringOf_val h]

end Sys2Proof.Machine

/-! O39: the stage rings. Every ring instruction writes its descriptor last, so the descriptor reads back as it was written, and a slot
as it was written where the slots lie apart from the descriptor (R179, R180). -/
namespace Sys2Proof.Machine

/-! ### The checks of a descriptor -/

section Checks
variable {c : Ctx} {s : State} {off : Nat} {k : Act}

theorem withRing_passes (h : ringPasses off c s) : withRing c s off k = k := by
  obtain ⟨hobj, hok⟩ := h
  unfold withRing
  dsimp only
  rw [withObj_passes hobj]
  exact if_pos hok

theorem withRing_refused (h : objectPasses off 32 32 c s) (hok : (ringAt off c s).ok (winOf c s).winSize = false) :
    withRing c s off k = .fault s (flt 1 4) := by
  unfold withRing
  dsimp only
  rw [withObj_passes h]
  exact if_neg (by rw [show (s.ring (s.grp c.gid).team off).ok (s.team (s.grp c.gid).team).winSize = false from hok]; decide)

end Checks

/-- A body that checks the object at its ring's offset first takes the faults of R168. -/
theorem objectChecked_of {x : Instr} {body : Ctx → State → Act} (hm : Means x body) {comes : Ctx → Prop} {a : SReg} {n al : Nat}
    (h : ∀ c s, acts c → comes c → ∃ k, body c s = withObj c s (sIn a c s) n al k) : ObjectChecked x comes (sIn a) n al := by
  refine ⟨hm.traps fun c s ⟨hem, hc, hal⟩ => ?_, hm.traps fun c s ⟨hem, hc, hal, hout⟩ => ?_, hm.traps fun c s ⟨hem, hc, hfit, hp⟩ => ?_⟩
  · obtain ⟨k, hk⟩ := h c s hem hc
    rw [hk, withObj_misaligned hal]
  · obtain ⟨k, hk⟩ := h c s hem hc
    rw [hk, withObj_outside hal hout]
  · obtain ⟨k, hk⟩ := h c s hem hc
    rw [hk, withObj_poisoned hfit hp]

theorem sIn_lt (a : SReg) (c : Ctx) (s : State) : sIn a c s < 2 ^ 32 := ((s.grp c.gid).sreg a.toNat).isLt

/-! ### What a ring instruction leaves -/

/-- Memory, groups and the other teams are as they were. -/
def RingOnly (tid : Nat) (s t : State) : Prop := t.mem = s.mem ∧ t.groups = s.groups ∧ ∀ u, u ≠ tid → t.team u = s.team u

theorem WindowBecomes.ringOnly {tid : Nat} {win : List Host.Cell} {s t : State} (h : WindowBecomes tid win s t) : RingOnly tid s t :=
  ⟨h.only.mem, h.only.groups, h.others⟩

theorem RingOnly.grp {tid : Nat} {s t : State} (h : RingOnly tid s t) (k : Nat) : t.grp k = s.grp k := by
  unfold State.grp
  rw [h.2.1]

/-- What the ring statements keep of memory, the group and the other teams. -/
def RingKept (c : Ctx) (s t : State) : Prop :=
  t.mem = s.mem ∧ SameSpecials (s.grp c.gid) (t.grp c.gid) ∧ SameRegs (s.grp c.gid) (t.grp c.gid) ∧ ∀ u, u ≠ teamIn c s → t.team u = s.team u

section Left
variable {c : Ctx} {m : Lanes} {s u : State} (h : RingOnly (teamIn c s) s u)
include h

theorem ring_done_leaves : WentOn c s (finish c m (.done u)) ∧ RingKept c s (finish c m (.done u)) := by
  have hg := h.grp c.gid
  exact ⟨wentOn_done c m (by rw [hg]), h.1, sameSpecials_done c m (by rw [hg]; exact sameSpecials_refl _),
    sameRegs_done c m (by rw [hg]; exact sameRegs_refl _), h.2.2⟩

theorem ringAt_done (off : Nat) : ringAt off c (finish c m (.done u)) = u.ring (teamIn c s) off := by
  have ht : teamIn c (finish c m (.done u)) = teamIn c s := by
    unfold teamIn
    rw [finish_done_grp, ← h.grp c.gid]
    rfl
  unfold ringAt
  rw [ht]
  rfl

theorem slotAt_done (off j : Nat) : slotAt off j c (finish c m (.done u)) = u.slotState (teamIn c s) (u.ring (teamIn c s) off) j := by
  have ht : teamIn c (finish c m (.done u)) = teamIn c s := by
    unfold teamIn
    rw [finish_done_grp, ← h.grp c.gid]
    rfl
  unfold slotAt
  rw [ringAt_done h, ht]
  rfl

/-- A served RACQ or RTAKE. -/
def RingGot (d : SReg) (v : Nat) (c : Ctx) (s t : State) : Prop :=
  WentOn c s t ∧ RingKept c s t ∧ PendingAlso 1 d.toNat 1 (s.grp c.gid) (t.grp c.gid) ∧
    ∃ op, OneLoadMore c s t op ∧ op.kind = .result (BitVec.ofNat 32 v) ∧ op.dst = some (1, d.toNat)

omit h in
theorem addPend_scalar (g : Group) (d : Nat) : PendOnly g (g.addPend 1 d) ∧ PendingAlso 1 d 1 g (g.addPend 1 d) := by
  refine ⟨addPend_only g 1 d, fun f r => ?_⟩
  rw [addPend_isPend]
  constructor
  · rintro (h | ⟨rfl, rfl, h3⟩)
    · exact .inl h
    · exact .inr ⟨rfl, le_rfl, Nat.lt_succ_self _, h3⟩
  · rintro (h | ⟨rfl, h1, h2, h3⟩)
    · exact .inl h
    · obtain rfl : r = d := by omega
      exact .inr ⟨rfl, rfl, h3⟩

/-- The state in which the result of a ring instruction has entered the load queue. -/
def ringEntered (c : Ctx) (s : State) (d : SReg) (v : Nat) (ev : List Nat) : State :=
  let op : LoadOp := { mkLoad c s (.result (BitVec.ofNat 32 v)) 1 1 (some (1, d.toNat)) with
    ty := 1, width := 4, strong := true, opv := ev.map fun n => (n, 0, 0) }
  s.modGrp c.gid fun g => { (g.addPend 1 d.toNat) with loads := g.loads ++ [{ op with seq := g.seq }], seq := g.seq + 1 }

omit h in
theorem ringIssue_eq (c : Ctx) (s : State) (d : SReg) (v : Nat) (ev : List Nat) :
    ringIssue c s d v ev = .done (ringEntered c s d v ev) := rfl

theorem ringIssue_leaves (d : SReg) (v : Nat) (ev : List Nat) :
    RingGot d v c s (finish c m (ringIssue c u d v ev)) ∧
      (finish c m (ringIssue c u d v ev)).teams = u.teams ∧
      (∀ off, ringAt off c (finish c m (ringIssue c u d v ev)) = u.ring (teamIn c s) off) ∧
      ∀ off j, slotAt off j c (finish c m (ringIssue c u d v ev)) = u.slotState (teamIn c s) (u.ring (teamIn c s) off) j := by
  obtain ⟨ho, hp⟩ := addPend_scalar (s.grp c.gid) d.toNat
  rw [ringIssue_eq]
  have hgrp : ∃ op : LoadOp, op.frag = c.fid ∧ op.kind = .result (BitVec.ofNat 32 v) ∧ op.dst = some (1, d.toNat) ∧
      (ringEntered c u d v ev).grp c.gid = { (s.grp c.gid).addPend 1 d.toNat with
        loads := (s.grp c.gid).loads ++ [op], seq := (s.grp c.gid).seq + 1 } := by
    unfold ringEntered
    rw [grp_modGrp, h.grp]
    exact ⟨_, rfl, rfl, rfl, rfl⟩
  obtain ⟨op, hf, hk, hd, hgrp⟩ := hgrp
  have hfin := finish_done_grp c m (ringEntered c u d v ev)
  rw [hgrp] at hfin
  have hteam : teamIn c (finish c m (.done (ringEntered c u d v ev))) = teamIn c s := by
    unfold teamIn
    rw [hfin, ho.eq]
    rfl
  refine ⟨⟨wentOn_done c m (by rw [hgrp, ho.eq]), ⟨h.1, ?_, ?_, h.2.2⟩, ?_, op, ⟨?_, hf, ?_, ?_⟩, hk, hd⟩, rfl, fun off => ?_, fun off j => ?_⟩
  · rw [hfin, ho.eq]
    exact sameSpecials_refl _
  · rw [hfin, ho.eq]
    exact sameRegs_refl _
  · rw [hfin]
    exact hp
  · rw [hfin]
    rfl
  · rw [hfin, ho.eq]
    rfl
  · rw [hfin, ho.eq]
    rfl
  · unfold ringAt
    rw [hteam]
    rfl
  · unfold slotAt ringAt
    rw [hteam]
    rfl

end Left

/-! ### A slot and the descriptor are written -/

/-- A ring's descriptor is written after a slot's STATE. -/
def slotThenRing (win : List Host.Cell) (off o st : Nat) (r : Ring) : List Host.Cell :=
  mwrite (mwrite win (o + 4) (natLe 4 (stateWord (numAt win (o + 4) 4) st))) off (natLe 32 r.val)

theorem WindowBecomes.slotThenRing {w : Who} {win : List Host.Cell} {s t : State} (h : WindowBecomes w.tid win s t) {off o : Nat}
    (ho : o + 4 < 2 ^ 33) (hoff : off < 2 ^ 33) (st : Nat) (r : Ring) :
    WindowBecomes w.tid (slotThenRing win off o st r) s (Machine.setRing (Machine.setSlot t w o st) w off r) := (h.setSlot ho st).setRing hoff r

theorem slotThenRing_slot {win : List Host.Cell} {off st j : Nat} {q r : Ring} (ha : ringApart off q) (hj : j < q.slots) (h32 : 32 ≤ q.sbytes)
    (hst : st < 4) : slotIn (slotThenRing win off (q.slot j) st r) (q.slot j) = st := by
  unfold slotThenRing
  rw [slotIn_outside _ (by rw [natLe_length]; exact slot_apart ha hj h32), slotIn_stateWord _ _ hst]

theorem slotThenRing_ring (win : List Host.Cell) (off o st : Nat) {r : Ring} (h : r.Bounded) :
    ringOf (numAt (slotThenRing win off o st r) off 32) = { r with pubs := r.pubs % 2 ^ 32, dones := r.dones % 2 ^ 32 } :=
  ringOf_written _ _ h

theorem ringAt_bounded (off : Nat) (c : Ctx) (s : State) : (ringAt off c s).Bounded := ringOf_bounded _

theorem ringAt_counters (off : Nat) (c : Ctx) (s : State) :
    (ringAt off c s).pubs % 2 ^ 32 = (ringAt off c s).pubs ∧ (ringAt off c s).dones % 2 ^ 32 = (ringAt off c s).dones :=
  ⟨Nat.mod_mod_of_dvd _ (dvd_refl _), Nat.mod_mod_of_dvd _ (dvd_refl _)⟩

/-- A slot of a ring that passes lies within the reach of a window offset. -/
theorem slot_reach {off j : Nat} {c : Ctx} {s : State} (ht : (ringAt off c s).table = true) (hj : j < (ringAt off c s).slots) :
    (ringAt off c s).slot j + 4 < 2 ^ 33 := by
  have := slot_lt (ringAt_bounded off c s).base ht hj
  omega

/-! ### RACQ and RTAKE -/

section Get
variable {k : Bool} {d a : SReg} {c : Ctx} {s : State}

/-- The order in which a fragment came, where it waits at a ring already. -/
def arrivedOf (w : Wait) : Option Nat := match w with | .ring _ _ n => some n | _ => none

/-- The slot at which RTAKE, or RACQ, stands. -/
def Ring.at_ (k : Bool) (r : Ring) : Nat := if k then r.tail else r.head

/-- The state in which the order of arrival is settled. -/
def arrivedState (c : Ctx) (s : State) : State := match arrivedOf c.wait with | some _ => s | none => { s with nextUnit := s.nextUnit + 1 }

/-- RACQ and RTAKE behind the checks of the descriptor. -/
def ringGo (k : Bool) (d a : SReg) (c : Ctx) (s : State) : Act :=
  let u := arrivedState c s
  if slotPois s (teamIn c s) ((ringAt (sIn a c s) c s).slot ((ringAt (sIn a c s) c s).at_ k)) then .fault s (flt 15 1)
  else if (arrivedOf c.wait).isNone && (s.grp c.gid).ldc ≥ 63 then .wait s (.full 0)
  else if !(ringServes u (teamIn c s) (sIn a c s) k && ringFirst u (teamIn c s) (sIn a c s) k (ringOrder c s)) || (s.grp c.gid).ldc ≥ 63 then
    .wait u (.ring (sIn a c s) k (ringOrder c s))
  else
    let x := whoGrp c u
    let y := ringServe x.2 x.1 (sIn a c s) k
    ringIssue c y.1 d y.2.1 y.2.2

theorem ringGetB_closed (hem : acts c) (hw : c.wait = .closed) :
    ringGetB k d a c s = if (s.grp c.gid).ldc ≥ 63 then .wait s .closed else ringIssue c s d 0xFFFF_FFFF [] := by
  unfold ringGetB
  rw [engineB_acts hem, hw]

theorem ringGetB_open (hem : acts c) (hw : c.wait ≠ .closed) : ringGetB k d a c s = withRing c s (sIn a c s) (ringGo k d a c s) := by
  unfold ringGetB ringGo arrivedState ringOrder
  rw [engineB_acts hem]
  dsimp only
  split
  case h_1 h => exact absurd h hw
  case h_2 =>
    cases c.wait <;> rfl

theorem arrivedState_only : RingOnly (teamIn c s) s (arrivedState c s) ∧ (arrivedState c s).teams = s.teams := by
  unfold arrivedState
  split <;> exact ⟨⟨rfl, rfl, fun _ _ => rfl⟩, rfl⟩

theorem arrivedState_teams : (arrivedState c s).teams = s.teams := arrivedState_only.2

theorem arrivedState_groups : (arrivedState c s).groups = s.groups := arrivedState_only.1.2.1

theorem ringServes_arrived (off : Nat) : ringServes (arrivedState c s) (teamIn c s) off k = ringServes s (teamIn c s) off k := by
  unfold arrivedState
  split <;> rfl

theorem ringFirst_arrived (off n : Nat) : ringFirst (arrivedState c s) (teamIn c s) off k n = ringFirst s (teamIn c s) off k n := by
  unfold arrivedState
  split <;> rfl

/-- The state in which a ring instruction's event stands. -/
def actingState (c : Ctx) (s : State) : State := (whoGrp c (arrivedState c s)).2

theorem acting_becomes : WindowBecomes (teamIn c s) (winOf c s).win (arrivedState c s) (actingState c s) := by
  have := WindowBecomes.of_ord (tid := teamIn c s) (fragEvent_ord c (arrivedState c s) [])
  rwa [show ((arrivedState c s).team (teamIn c s)).win = (winOf c s).win by unfold State.team winOf; rw [arrivedState_teams]; rfl] at this

/-- A window that a ring instruction has made of its team's. -/
theorem ringOnly_of_acting {win : List Host.Cell} {u : State} (h : WindowBecomes (teamIn c s) win (arrivedState c s) u) :
    RingOnly (teamIn c s) s u := by
  obtain ⟨h1, h2, h3⟩ := h.ringOnly
  obtain ⟨⟨k1, k2, k3⟩, -⟩ := arrivedState_only (c := c) (s := s)
  exact ⟨h1.trans k1, h2.trans k2, fun u hu => (h3 u hu).trans (k3 u hu)⟩

/-- A ring instruction of a group waits, served or not, while it may not go on. -/
def ringMay (k : Bool) (a : SReg) (c : Ctx) (s : State) : Prop :=
  acts c ∧ c.wait ≠ .closed ∧ ringPasses (sIn a c s) c s ∧ slotClean (sIn a c s) ((ringAt (sIn a c s) c s).at_ k) c s

theorem ringGetB_full (h : ringMay k a c s) (hw : ¬∃ o k n, c.wait = .ring o k n) (hf : 63 ≤ (s.grp c.gid).loads.length) :
    ringGetB k d a c s = .wait s (.full 0) := by
  obtain ⟨hem, hcl, hp, hclean⟩ := h
  have harr : arrivedOf c.wait = none := by
    unfold arrivedOf
    split
    · next o k n heq => exact absurd ⟨o, k, n, heq⟩ hw
    · rfl
  rw [ringGetB_open hem hcl, withRing_passes hp]
  unfold ringGo
  dsimp only
  rw [if_neg (by rw [show slotPois s (teamIn c s) _ = false from hclean]; decide), if_pos (by rw [harr]; simpa [Group.ldc] using hf)]

theorem ringGetB_stays (h : ringMay k a c s) (hw : (∃ o k n, c.wait = .ring o k n) ∨ (s.grp c.gid).loads.length < 63)
    (hno : ringServes s (teamIn c s) (sIn a c s) k = false) :
    ringGetB k d a c s = .wait (arrivedState c s) (.ring (sIn a c s) k (ringOrder c s)) := by
  obtain ⟨hem, hcl, hp, hclean⟩ := h
  have hroom : ((arrivedOf c.wait).isNone && decide ((s.grp c.gid).ldc ≥ 63)) = false := by
    rcases hw with ⟨o, k, n, hw⟩ | hl
    · rw [hw]
      rfl
    · rw [show decide ((s.grp c.gid).ldc ≥ 63) = false from decide_eq_false (by unfold Group.ldc; omega), Bool.and_false]
  rw [ringGetB_open hem hcl, withRing_passes hp]
  unfold ringGo
  dsimp only
  rw [if_neg (by rw [show slotPois s (teamIn c s) _ = false from hclean]; decide), if_neg (by rw [hroom]; decide),
    if_pos (by rw [ringServes_arrived, hno]; rfl)]

theorem ringGetB_serves (h : ringMay k a c s) (hf : ringFirst s (teamIn c s) (sIn a c s) k (ringOrder c s) = true)
    (hl : (s.grp c.gid).loads.length < 63) (hyes : ringServes s (teamIn c s) (sIn a c s) k = true) :
    ∃ ev, ringGetB k d a c s = ringIssue c (ringServe (actingState c s) (whoGrp c (arrivedState c s)).1 (sIn a c s) k).1 d
      (ringServe (actingState c s) (whoGrp c (arrivedState c s)).1 (sIn a c s) k).2.1 ev := by
  obtain ⟨hem, hcl, hp, hclean⟩ := h
  have hnot : decide ((s.grp c.gid).ldc ≥ 63) = false := decide_eq_false (by unfold Group.ldc; omega)
  rw [ringGetB_open hem hcl, withRing_passes hp]
  unfold ringGo
  dsimp only
  rw [if_neg (by rw [show slotPois s (teamIn c s) _ = false from hclean]; decide), if_neg (by rw [hnot, Bool.and_false]; decide),
    if_neg (by rw [ringServes_arrived, ringFirst_arrived, hyes, hf, hnot]; decide)]
  exact ⟨_, rfl⟩

theorem ringServes_eq (off : Nat) : ringServes s (teamIn c s) off k =
    if k then slotAt off (ringAt off c s).tail c s == 2 || ((ringAt off c s).closed && slotAt off (ringAt off c s).tail c s == 0)
    else (ringAt off c s).closed || slotAt off (ringAt off c s).head c s == 0 := rfl

theorem stays_leaves (hc : AtIssue c s) (m : Lanes) (w : Wait) :
    let t := finish c m (.wait (arrivedState c s) w)
    AlsoWaits w c t ∧ RingKept c s t ∧ (t.grp c.gid).loads = (s.grp c.gid).loads ∧ t.teams = s.teams := by
  obtain ⟨ho, hteams⟩ := arrivedState_only (c := c) (s := s)
  have hfin := finish_wait_grp c m (arrivedState c s) w
  rw [ho.grp] at hfin
  refine ⟨⟨?_, ?_⟩, ⟨ho.1, ?_, ?_, ho.2.2⟩, ?_, hteams⟩
  · rw [hfin, await_frag]
  · rw [hfin, await_frag]
    exact hc.pc
  · rw [hfin]
    exact sameSpecials_refl _
  · rw [hfin]
    exact sameRegs_refl _
  · rw [hfin]
    rfl

/-- The ring that the atomic unit finds. -/
theorem acting_ring (off : Nat) : (actingState c s).ring (teamIn c s) off = ringAt off c s := acting_becomes.ring_eq off

theorem acting_slot (r : Ring) (j : Nat) : (actingState c s).slotState (teamIn c s) r j = s.slotState (teamIn c s) r j :=
  acting_becomes.slotState r j

/-- What RACQ or RTAKE makes of the descriptor. -/
def Ring.advance (k : Bool) (r : Ring) : Ring :=
  if k then { r with tail := (r.tail + 1) % r.slots } else { r with head := (r.head + 1) % r.slots }

/-- The STATE that RACQ or RTAKE gives its slot. -/
def servedState (k : Bool) : Nat := if k then 3 else 1

/-- The end, where there is no slot to serve. -/
theorem ringServe_end (h : (k = true ∧ slotAt (sIn a c s) (ringAt (sIn a c s) c s).tail c s ≠ 2) ∨ (k = false ∧ (ringAt (sIn a c s) c s).closed = true)) :
    ringServe (actingState c s) (whoGrp c (arrivedState c s)).1 (sIn a c s) k = (actingState c s, 0xFFFF_FFFF, []) := by
  have hr : (actingState c s).ring (whoGrp c (arrivedState c s)).1.tid (sIn a c s) = ringAt (sIn a c s) c s := by
    rw [show (whoGrp c (arrivedState c s)).1.tid = teamIn c s by unfold teamIn; rw [← arrivedState_only.1.grp]; rfl]
    exact acting_ring _
  unfold ringServe
  dsimp only
  rw [hr]
  rcases h with ⟨rfl, h⟩ | ⟨rfl, h⟩
  · rw [if_pos rfl, if_neg]
    rw [show (whoGrp c (arrivedState c s)).1.tid = teamIn c s by unfold teamIn; rw [← arrivedState_only.1.grp]; rfl, acting_slot]
    exact h
  · rw [if_neg (by decide), if_pos h]

/-- The next slot is served: its STATE and the descriptor are written. -/
theorem ringServe_slot (hp : ringPasses (sIn a c s) c s)
    (h : (k = true ∧ slotAt (sIn a c s) (ringAt (sIn a c s) c s).tail c s = 2) ∨ (k = false ∧ (ringAt (sIn a c s) c s).closed = false)) :
    let r := ringAt (sIn a c s) c s
    let x := ringServe (actingState c s) (whoGrp c (arrivedState c s)).1 (sIn a c s) k
    x.2.1 = r.slot (r.at_ k) ∧
      WindowBecomes (teamIn c s) (slotThenRing (winOf c s).win (sIn a c s) (r.slot (r.at_ k)) (servedState k) (r.advance k)) (arrivedState c s) x.1 := by
  have htid : (whoGrp c (arrivedState c s)).1.tid = teamIn c s := by unfold teamIn; rw [← arrivedState_only.1.grp]; rfl
  obtain ⟨ht, hhead, htail, -, -⟩ := ok_parts hp.2
  have hoff : sIn a c s < 2 ^ 33 := (sIn_lt a c s).trans (by decide)
  have hb := acting_becomes (c := c) (s := s)
  have hr := acting_ring (c := c) (s := s) (sIn a c s)
  have hslot := acting_slot (c := c) (s := s) (ringAt (sIn a c s) c s) (ringAt (sIn a c s) c s).tail
  rw [← htid] at hb hr hslot ⊢
  unfold ringServe
  dsimp only
  rw [hr]
  rcases h with ⟨rfl, h⟩ | ⟨rfl, h⟩
  · rw [if_pos rfl, if_pos (by rw [hslot, htid]; exact h)]
    exact ⟨rfl, hb.slotThenRing (slot_reach ht htail) hoff 3 _⟩
  · rw [if_neg (by decide), if_neg (by rw [h]; decide)]
    exact ⟨rfl, hb.slotThenRing (slot_reach ht hhead) hoff 1 _⟩

theorem advance_bounded (hp : ringPasses (sIn a c s) c s) : ((ringAt (sIn a c s) c s).advance k).Bounded := by
  obtain ⟨ht, hhead, htail, -, -⟩ := ok_parts hp.2
  obtain ⟨-, -, h2, h64⟩ := table_sizes ht
  obtain ⟨b1, b2, b3, b4, b5, b6, b7, b8⟩ := ringAt_bounded (sIn a c s) c s
  have hmod : ∀ n, n % (ringAt (sIn a c s) c s).slots < 2 ^ 8 := fun n => by
    have := Nat.mod_lt n (show (ringAt (sIn a c s) c s).slots > 0 by omega)
    omega
  cases k
  · exact ⟨b1, b2, b3, b4, hmod _, b6, b7, b8⟩
  · exact ⟨b1, b2, b3, b4, b5, hmod _, b7, b8⟩

/-- A served RACQ or RTAKE with a slot. -/
theorem ringGetB_gets (m : Lanes) (h : ringMay k a c s) (hf : ringFirst s (teamIn c s) (sIn a c s) k (ringOrder c s) = true)
    (hl : (s.grp c.gid).loads.length < 63)
    (hs : (k = true ∧ slotAt (sIn a c s) (ringAt (sIn a c s) c s).tail c s = 2) ∨
      (k = false ∧ (ringAt (sIn a c s) c s).closed = false ∧ slotAt (sIn a c s) (ringAt (sIn a c s) c s).head c s = 0)) :
    let o := ringAt (sIn a c s) c s
    let t := finish c m (ringGetB k d a c s)
    RingGot d (o.slot (o.at_ k)) c s t ∧
      (ringApart (sIn a c s) o → ringAt (sIn a c s) c t = o.advance k ∧ slotAt (sIn a c s) (o.at_ k) c t = servedState k) := by
  have hp := h.2.2.1
  have hyes : ringServes s (teamIn c s) (sIn a c s) k = true := by
    rw [ringServes_eq]
    rcases hs with ⟨rfl, hs⟩ | ⟨rfl, -, hs⟩
    · rw [if_pos rfl, hs]
      rfl
    · rw [if_neg (by decide), hs, beq_self_eq_true, Bool.or_true]
  obtain ⟨hv, hb⟩ := ringServe_slot (k := k) hp (hs.imp_right fun x => ⟨x.1, x.2.1⟩)
  obtain ⟨ev, he⟩ := ringGetB_serves (d := d) h hf hl hyes
  obtain ⟨hgot, -, hring, hslot⟩ := ringIssue_leaves (m := m) (ringOnly_of_acting hb) d (ringServe (actingState c s) (whoGrp c (arrivedState c s)).1 (sIn a c s) k).2.1 ev
  dsimp only
  rw [he]
  refine ⟨by rw [hv] at hgot ⊢; exact hgot, fun ha => ?_⟩
  obtain ⟨ht, hhead, htail, -, -⟩ := ok_parts hp.2
  have hnew : ((ringServe (actingState c s) (whoGrp c (arrivedState c s)).1 (sIn a c s) k).1).ring (teamIn c s) (sIn a c s) =
      (ringAt (sIn a c s) c s).advance k := by
    rw [hb.ring_eq, slotThenRing_ring _ _ _ _ (advance_bounded hp)]
    obtain ⟨h1, h2⟩ := ringAt_counters (sIn a c s) c s
    cases k
    · exact Ring.mk.injEq .. |>.mpr ⟨rfl, rfl, rfl, rfl, rfl, rfl, rfl, rfl, h1, h2, rfl, rfl⟩
    · exact Ring.mk.injEq .. |>.mpr ⟨rfl, rfl, rfl, rfl, rfl, rfl, rfl, rfl, h1, h2, rfl, rfl⟩
  have hat : (ringAt (sIn a c s) c s).at_ k < (ringAt (sIn a c s) c s).slots := by
    cases k
    · exact hhead
    · exact htail
  refine ⟨(hring _).trans hnew, (hslot _ _).trans ?_⟩
  rw [hnew, hb.slotState, show ((ringAt (sIn a c s) c s).advance k).slot ((ringAt (sIn a c s) c s).at_ k) =
    (ringAt (sIn a c s) c s).slot ((ringAt (sIn a c s) c s).at_ k) by cases k <;> rfl]
  exact slotThenRing_slot ha hat (table_sizes ht).1 (by cases k <;> decide)

/-- The end of the ring. -/
theorem ringGetB_ends (m : Lanes) (h : ringMay k a c s) (hf : ringFirst s (teamIn c s) (sIn a c s) k (ringOrder c s) = true)
    (hl : (s.grp c.gid).loads.length < 63) (hc : (ringAt (sIn a c s) c s).closed = true)
    (hs : k = true → slotAt (sIn a c s) (ringAt (sIn a c s) c s).tail c s = 0) :
    RingGot d 0xFFFF_FFFF c s (finish c m (ringGetB k d a c s)) := by
  have hyes : ringServes s (teamIn c s) (sIn a c s) k = true := by
    rw [ringServes_eq, hc]
    cases k
    · rfl
    · rw [if_pos rfl, hs rfl]
      rfl
  have hend := ringServe_end (k := k) (a := a) (c := c) (s := s) (by
    cases k
    · exact .inr ⟨rfl, hc⟩
    · exact .inl ⟨rfl, by rw [hs rfl]; decide⟩)
  obtain ⟨ev, he⟩ := ringGetB_serves (d := d) h hf hl hyes
  rw [he, hend]
  exact (ringIssue_leaves (m := m) (ringOnly_of_acting acting_becomes) d _ ev).1

end Get

/-! ### RINIT, RPUB and RDONE -/

theorem who_tid (c : Ctx) (s : State) : (whoGrp c s).1.tid = teamIn c s := rfl

theorem who_becomes (c : Ctx) (s : State) : WindowBecomes (teamIn c s) (winOf c s).win s (whoGrp c s).2 := .of_ord (fragEvent_ord c s [])

section Init
variable {a : SReg} {c : Ctx} {s : State}

/-- RINIT frees one slot. -/
def freeSlot (w : Who) (r : Ring) (s : State) (j : Nat) : State :=
  dropEvs (dropEvs (setSlot s w (r.slot j) 0) w.tid (r.slot j) evPub) w.tid (r.slot j) evDone

/-- The window after one more slot is freed. -/
def freedWin (r : Ring) (win : List Host.Cell) (j : Nat) : List Host.Cell :=
  mwrite win (r.slot j + 4) (natLe 4 (stateWord (numAt win (r.slot j + 4) 4) 0))

theorem freeSlot_becomes {w : Who} {r : Ring} {win : List Host.Cell} {s t : State} (h : WindowBecomes w.tid win s t) (l : List Nat)
    (hl : ∀ j ∈ l, r.slot j + 4 < 2 ^ 33) : WindowBecomes w.tid (l.foldl (freedWin r) win) s (l.foldl (freeSlot w r) t) := by
  induction l generalizing win t with
  | nil => exact h
  | cons j l ih =>
    exact ih (((h.setSlot (hl j List.mem_cons_self) 0).dropEvs _ _).dropEvs _ _) fun i hi => hl i (List.mem_cons_of_mem _ hi)

theorem freedWin_slot {r : Ring} (h32 : 32 ≤ r.sbytes) (l : List Nat) {win : List Host.Cell} {j : Nat}
    (h : j ∈ l ∨ slotIn win (r.slot j) = 0) : slotIn (l.foldl (freedWin r) win) (r.slot j) = 0 := by
  induction l generalizing win with
  | nil => exact h.resolve_left (fun h => nomatch h)
  | cons i l ih =>
    refine ih (win := freedWin r win i) ?_
    by_cases hij : j = i
    · exact .inr (by rw [hij]; exact slotIn_stateWord _ _ (by decide))
    · rcases h with h | h
      · exact .inl ((List.mem_cons.mp h).resolve_left hij)
      · refine .inr ?_
        unfold freedWin
        rw [slotIn_outside _ (by rw [natLe_length]; have := slots_apart (r := r) hij h32; omega), h]

/-- The descriptor that RINIT writes. -/
def Ring.fresh (r : Ring) : Ring := ⟨r.base, r.sbytes, r.slots, false, false, 0, 0, 0, 0, 0, 0, 0⟩

/-- RINIT on a ring it accepts. -/
def ringInit (c : Ctx) (s : State) (off : Nat) : State :=
  let r := ringAt off c s
  setRing ((List.range r.slots).foldl (freeSlot (whoGrp c s).1 r) (whoGrp c s).2) (whoGrp c s).1 off r.fresh

theorem rinitB_eq (hem : acts c) : rinitB a c s = withObj c s (sIn a c s) 32 32
    (if !(ringAt (sIn a c s) c s).table || (ringAt (sIn a c s) c s).rsv != 0 || (ringAt (sIn a c s) c s).rsv2 != 0 then .fault s (flt 1 4)
     else if !(ringAt (sIn a c s) c s).fits (winOf c s).winSize then
       .fault s (fltL 6 8 (ringAt (sIn a c s) c s).base false (leaderMask c))
     else if !(ringWaiters s (teamIn c s) (sIn a c s)).isEmpty then .fault s (flt 14 1)
     else .done (ringInit c s (sIn a c s))) := by
  unfold rinitB
  rw [engineB_acts hem]
  rfl

theorem ringInit_becomes {off : Nat} (ht : (ringAt off c s).table = true) (hoff : off < 2 ^ 33) :
    WindowBecomes (teamIn c s) (mwrite ((List.range (ringAt off c s).slots).foldl (freedWin (ringAt off c s)) (winOf c s).win) off
      (natLe 32 (ringAt off c s).fresh.val)) s (ringInit c s off) :=
  (freeSlot_becomes (w := (whoGrp c s).1) (who_becomes c s) _ fun _ hj => slot_reach ht (List.mem_range.mp hj)).setRing
    (w := (whoGrp c s).1) hoff _

theorem ringInit_leaves {off : Nat} (m : Lanes) (ht : (ringAt off c s).table = true) (hoff : off < 2 ^ 33) :
    let o := ringAt off c s
    let t := finish c m (.done (ringInit c s off))
    WentOn c s t ∧ RingKept c s t ∧ ringAt off c t = o.fresh ∧ (ringApart off o → ∀ j < o.slots, slotAt off j c t = 0) := by
  have hb := ringInit_becomes ht hoff
  obtain ⟨h1, h2⟩ := ring_done_leaves (m := m) hb.ringOnly
  have hnew : (ringInit c s off).ring (teamIn c s) off = (ringAt off c s).fresh := by
    obtain ⟨b1, b2, b3, -⟩ := ringAt_bounded off c s
    have hbound : (ringAt off c s).fresh.Bounded := ⟨b1, b2, b3, Nat.two_pow_pos 6, Nat.two_pow_pos 8, Nat.two_pow_pos 8, Nat.two_pow_pos 32,
      Nat.two_pow_pos 64⟩
    rw [hb.ring_eq, ringOf_written _ _ hbound]
    rfl
  refine ⟨h1, h2, (ringAt_done hb.ringOnly off).trans hnew, fun ha j hj => (slotAt_done hb.ringOnly off j).trans ?_⟩
  obtain ⟨h32, -⟩ := table_sizes ht
  rw [hnew, hb.slotState, slotIn_outside _ (by rw [natLe_length]; exact slot_apart (r := ringAt off c s) ha hj h32)]
  exact freedWin_slot h32 _ (.inl (List.mem_range.mpr hj))

end Init

section Pub
variable {d a b : SReg} {c : Ctx} {s : State} {j : Nat}

/-- RPUB's header of a slot. -/
def headerOf (h : Nat) : Nat := bits h 0 24 + bits h 24 1 * 2 ^ 32 + bits h 25 1 * 2 ^ 33 + 2 * 2 ^ 40

/-- What RPUB makes of the descriptor. -/
def Ring.published (r : Ring) (j h : Nat) : Ring :=
  { r with phase := Nat.lor r.phase (2 ^ j), pubs := r.pubs + 1, fault := r.fault || bits h 25 1 == 1 }

/-- RPUB of slot j, once it may release. -/
def ringPub (c : Ctx) (s : State) (off slot h j : Nat) : State :=
  let w := (whoGrp c s).1
  noteEv (dropEvs (setRing (lsWriteAs (whoGrp c s).2 w.ag w.pl (teamIn c s) slot (natLe 8 (headerOf h)) w.node) w off
    ((ringAt off c s).published j h)) (teamIn c s) slot evPub) (teamIn c s) slot evPub w.node

theorem rpubB_eq (hem : acts c) : ∃ k, rpubB d a b c s = withRing c s (sIn d c s) k ∧
    ((ringAt (sIn d c s) c s).index (sIn a c s) = some j → slotClean (sIn d c s) j c s → k =
      if slotAt (sIn d c s) j c s ≠ 1 then .fault s (flt 1 6)
      else if bits (sIn b c s) 0 24 > (ringAt (sIn d c s) c s).sbytes - 16 ∨ bits (sIn b c s) 26 6 ≠ 0 then .fault s (flt 1 4)
      else releaseB c s (.done (ringPub c s (sIn d c s) (sIn a c s) (sIn b c s) j))) := by
  unfold rpubB
  rw [engineB_acts hem]
  refine ⟨_, rfl, fun hj hclean => ?_⟩
  change (match (ringAt (sIn d c s) c s).index (sIn a c s) with | none => _ | some j => _) = _
  rw [hj]
  dsimp only
  obtain ⟨-, hslot⟩ := index_some hj
  have hp : slotPois s (s.grp c.gid).team (sNat s c a) = false := by
    unfold slotClean at hclean
    rw [hslot] at hclean
    exact hclean
  rw [if_neg (by rw [hp]; decide)]
  rfl

theorem releaseB_quiet {k : Act} (h : quietIn c s) : releaseB c s k = k := by
  unfold releaseB
  rw [h.1, h.2]
  rfl

theorem releaseB_waits {k : Act} (h : ¬quietIn c s) : releaseB c s k = .wait s .release := by
  unfold releaseB
  rw [if_neg]
  rw [Bool.and_eq_true, List.isEmpty_iff, List.isEmpty_iff]
  exact h

theorem headerOf_parts (h : Nat) : ∃ n e, n = h % 2 ^ 24 ∧ e < 4 ∧ headerOf h = n + e * 2 ^ 32 + 2 * 2 ^ 40 := by
  refine ⟨h % 2 ^ 24, h / 2 ^ 24 % 2 + h / 2 ^ 25 % 2 * 2, rfl, by omega, ?_⟩
  unfold headerOf bits
  rw [Nat.pow_zero, Nat.div_one]
  omega

theorem headerOf_state (h : Nat) : bits (headerOf h) 40 2 = 2 := by
  obtain ⟨n, e, hn, he, heq⟩ := headerOf_parts h
  rw [heq]
  exact bits_between (low := n + e * 2 ^ 32) (high := 0) (by omega) (by omega) (by omega)

theorem headerOf_length (h : Nat) : headerOf h % 2 ^ 32 = h % 2 ^ 24 := by
  obtain ⟨n, e, hn, he, heq⟩ := headerOf_parts h
  omega

theorem published_bounded {off h : Nat} (hp : ringPasses off c s) (hj : j < (ringAt off c s).slots) : ((ringAt off c s).published j h).Bounded := by
  obtain ⟨b1, b2, b3, b4, b5, b6, b7, b8⟩ := ringAt_bounded off c s
  obtain ⟨-, -, -, h64⟩ := table_sizes (ok_parts hp.2).1
  exact ⟨b1, b2, b3, b4, b5, b6, b7, Nat.or_lt_two_pow b8 (Nat.pow_lt_pow_right (by decide) (by omega))⟩

theorem ringPub_becomes {off slot h : Nat} (hs : slot < 2 ^ 33) (hoff : off < 2 ^ 33) :
    WindowBecomes (teamIn c s) (mwrite (mwrite (winOf c s).win slot (natLe 8 (headerOf h))) off (natLe 32 ((ringAt off c s).published j h).val)) s
      (ringPub c s off slot h j) :=
  (((who_becomes c s).write _ _ _ _ hs).setRing (w := (whoGrp c s).1) hoff _).dropEvs _ _ |>.noteEv _ _ _

theorem ringPub_leaves {off slot h : Nat} (m : Lanes) (hp : ringPasses off c s) (hoff : off < 2 ^ 33) (hi : (ringAt off c s).index slot = some j)
    (hh : h < 2 ^ 26) :
    let o := ringAt off c s
    let t := finish c m (.done (ringPub c s off slot h j))
    WentOn c s t ∧ RingKept c s t ∧ (ringApart off o →
      ringAt off c t = { o with phase := Nat.lor o.phase (2 ^ j), pubs := (o.pubs + 1) % 2 ^ 32, fault := o.fault || decide (2 ^ 25 ≤ h) } ∧
      slotAt off j c t = 2 ∧ t.win (teamIn c s) slot 4 = h % 2 ^ 24) := by
  obtain ⟨hj, rfl⟩ := index_some hi
  obtain ⟨ht, -⟩ := ok_parts hp.2
  have hb := ringPub_becomes (c := c) (s := s) (j := j) (off := off) (slot := (ringAt off c s).slot j) (h := h)
    (by have := slot_reach ht hj; omega) hoff
  obtain ⟨h1, h2⟩ := ring_done_leaves (m := m) hb.ringOnly
  refine ⟨h1, h2, fun ha => ?_⟩
  obtain ⟨h32, -⟩ := table_sizes ht
  have hap := slot_apart ha hj h32
  have hnew : (ringPub c s off ((ringAt off c s).slot j) h j).ring (teamIn c s) off = { ringAt off c s with
      phase := Nat.lor (ringAt off c s).phase (2 ^ j), pubs := ((ringAt off c s).pubs + 1) % 2 ^ 32,
      fault := (ringAt off c s).fault || decide (2 ^ 25 ≤ h) } := by
    rw [hb.ring_eq, ringOf_written _ _ (published_bounded hp hj)]
    refine Ring.mk.injEq .. |>.mpr ⟨rfl, rfl, rfl, rfl, congrArg (_ || ·) ?_, rfl, rfl, rfl, rfl, (ringAt_counters off c s).2, rfl, rfl⟩
    rw [Bool.eq_iff_iff, beq_iff_eq, decide_eq_true_eq]
    unfold bits
    omega
  refine ⟨(ringAt_done hb.ringOnly off).trans hnew, (slotAt_done hb.ringOnly off j).trans ?_, ?_⟩
  · rw [hnew, hb.slotState]
    refine (slotIn_outside _ (by rw [natLe_length]; exact hap)).trans ?_
    exact (slotIn_header _ _ _).trans (headerOf_state h)
  · change numAt ((ringPub c s off ((ringAt off c s).slot j) h j).team (teamIn c s)).win _ 4 = _
    rw [hb.win_eq, numAt_outside _ (by rw [natLe_length]; omega), numAt_header, headerOf_length]

end Pub

section Done
variable {a b : SReg} {c : Ctx} {s : State} {j : Nat}

/-- What RDONE makes of the descriptor. -/
def Ring.returned (r : Ring) (j : Nat) : Ring := { r with phase := r.phase - bits r.phase j 1 * 2 ^ j, dones := r.dones + 1 }

/-- RDONE of slot j. -/
def ringFreed (c : Ctx) (s : State) (off slot j : Nat) : State :=
  let w := (whoGrp c s).1
  noteEv (dropEvs (setRing (setSlot (whoGrp c s).2 w slot 0) w off ((ringAt off c s).returned j)) (teamIn c s) slot evDone) (teamIn c s) slot
    evDone w.node

theorem rdoneB_eq (hem : acts c) : ∃ k, rdoneB a b c s = withRing c s (sIn a c s) k ∧
    ((ringAt (sIn a c s) c s).index (sIn b c s) = some j → slotClean (sIn a c s) j c s → k =
      if slotAt (sIn a c s) j c s ≠ 3 then .fault s (flt 1 6)
      else releaseB c s (.done (ringFreed c s (sIn a c s) (sIn b c s) j))) := by
  unfold rdoneB
  rw [engineB_acts hem]
  refine ⟨_, rfl, fun hj hclean => ?_⟩
  obtain ⟨-, hslot⟩ := index_some hj
  have hb := who_becomes c s
  have hring : (whoGrp c s).2.ring (whoGrp c s).1.tid (sNat s c a) = ringAt (sIn a c s) c s := hb.ring_eq _
  have hp : slotPois (whoGrp c s).2 (whoGrp c s).1.tid (sNat s c b) = false := by
    unfold slotClean at hclean
    rw [hslot] at hclean
    exact hclean
  have hst : (whoGrp c s).2.slotState (whoGrp c s).1.tid (ringAt (sIn a c s) c s) j = slotAt (sIn a c s) j c s := hb.slotState _ _
  dsimp only
  unfold ringDone
  dsimp only
  rw [hring, show (ringAt (sIn a c s) c s).index (sNat s c b) = some j from hj]
  dsimp only
  rw [if_neg (by rw [hp]; decide), hst]
  by_cases h3 : slotAt (sIn a c s) j c s ≠ 3
  · rw [if_pos h3, if_pos h3]
  · rw [if_neg h3, if_neg h3]
    rfl

theorem testBit_clear (p j i : Nat) : (p - bits p j 1 * 2 ^ j).testBit i = (p.testBit i && i != j) := by
  have hp : p = 2 ^ j * (p / 2 ^ j) + p % 2 ^ j := (Nat.div_add_mod p (2 ^ j)).symm
  have hlt : p % 2 ^ j < 2 ^ j := Nat.mod_lt _ (Nat.two_pow_pos j)
  have hb : bits p j 1 = p / 2 ^ j % 2 := rfl
  rw [hb]
  have hq : p - p / 2 ^ j % 2 * 2 ^ j = 2 ^ j * (p / 2 ^ j / 2 * 2) + p % 2 ^ j := by
    have h2 : 2 ^ j * (p / 2 ^ j) = 2 ^ j * (p / 2 ^ j / 2 * 2) + p / 2 ^ j % 2 * 2 ^ j := by
      rw [Nat.mul_comm (p / 2 ^ j % 2), ← Nat.mul_add, Nat.mul_comm _ 2, Nat.div_add_mod]
    omega
  rw [hq, Nat.testBit_two_pow_mul_add _ hlt]
  conv_rhs => rw [hp, Nat.testBit_two_pow_mul_add _ hlt]
  by_cases hij : i < j
  · rw [if_pos hij, if_pos hij, bne_iff_ne.mpr (Nat.ne_of_lt hij), Bool.and_true]
  · rw [if_neg hij, if_neg hij]
    rcases hd : i - j with _ | n
    · have : i = j := by omega
      rw [this, bne_self_eq_false, Bool.and_false, Nat.testBit_zero, Nat.mul_mod_left]
      rfl
    · rw [bne_iff_ne.mpr (by omega : i ≠ j), Bool.and_true, Nat.testBit_succ, Nat.testBit_succ, Nat.mul_div_cancel _ (by decide)]

theorem ringFreed_leaves {off slot : Nat} (m : Lanes) (hp : ringPasses off c s) (hoff : off < 2 ^ 33) (hi : (ringAt off c s).index slot = some j) :
    let o := ringAt off c s
    let t := finish c m (.done (ringFreed c s off slot j))
    WentOn c s t ∧ RingKept c s t ∧ (ringApart off o → slotAt off j c t = 0 ∧ (ringAt off c t).dones = (o.dones + 1) % 2 ^ 32 ∧
      ∀ i, (ringAt off c t).phase.testBit i = (o.phase.testBit i && i != j)) := by
  obtain ⟨hj, rfl⟩ := index_some hi
  obtain ⟨ht, -⟩ := ok_parts hp.2
  have hb : WindowBecomes (teamIn c s) (slotThenRing (winOf c s).win off ((ringAt off c s).slot j) 0 ((ringAt off c s).returned j)) s
      (ringFreed c s off ((ringAt off c s).slot j) j) :=
    ((who_becomes c s).slotThenRing (w := (whoGrp c s).1) (slot_reach ht hj) hoff 0 _).dropEvs _ _ |>.noteEv _ _ _
  obtain ⟨h1, h2⟩ := ring_done_leaves (m := m) hb.ringOnly
  refine ⟨h1, h2, fun ha => ?_⟩
  have hbound : ((ringAt off c s).returned j).Bounded := by
    obtain ⟨b1, b2, b3, b4, b5, b6, b7, b8⟩ := ringAt_bounded off c s
    exact ⟨b1, b2, b3, b4, b5, b6, b7, (Nat.sub_le _ _).trans_lt b8⟩
  have hnew := (hb.ring_eq off).trans (slotThenRing_ring _ off _ _ hbound)
  have hring := ringAt_done (m := m) hb.ringOnly off
  refine ⟨(slotAt_done hb.ringOnly off j).trans ?_, ?_, fun i => ?_⟩
  · rw [hnew, hb.slotState]
    exact slotThenRing_slot (q := ringAt off c s) ha hj (table_sizes ht).1 (by decide)
  · rw [hring, hnew]
    rfl
  · rw [hring, hnew]
    exact testBit_clear _ _ _

end Done

/-! ### RCLOSE -/

section Close
variable {a : SReg} {c : Ctx} {s : State}

/-- A list of fragments or groups after a change of each. -/
theorem aget_mapped {α : Type} (d : α) (φ : α → α) (h : φ d = d) (k : Nat) (l : List (Nat × α)) :
    aget d k (l.map fun p => (p.1, φ p.2)) = φ (aget d k l) := by
  induction l with
  | nil => exact h.symm
  | cons p l ih =>
    obtain ⟨j, x⟩ := p
    rw [List.map_cons, aget, aget]
    split
    · rfl
    · exact ih

/-- What RCLOSE makes of a fragment. -/
def Frag.onClose (off : Nat) (free : Bool) (f : Frag) : Frag := { f with wait := f.wait.onClose off free }

/-- What RCLOSE makes of a group. -/
def Group.onClose (tid off : Nat) (free : Bool) (g : Group) : Group :=
  if g.team = tid then { g with frags := g.frags.map fun (f : Nat × Frag) => (f.1, f.2.onClose off free) } else g

/-- The slot of the next RTAKE is free. -/
def nextFree (s : State) (tid off : Nat) : Bool := s.slotState tid (s.ring tid off) (s.ring tid off).tail == 0

theorem closeWaiters_grp (s : State) (tid off k : Nat) : (closeWaiters s tid off).grp k =
    (s.grp k).onClose tid off (nextFree s tid off) := by
  have h : (closeWaiters s tid off).groups = s.groups.map fun p =>
      (p.1, p.2.onClose tid off (nextFree s tid off)) := by
    refine List.map_congr_left fun p _ => ?_
    unfold Group.onClose
    split <;> rfl
  unfold State.grp
  rw [h]
  refine aget_mapped Group.empty _ ?_ k s.groups
  unfold Group.onClose
  split <;> rfl

theorem frag_onClose {tid off : Nat} {free : Bool} {g : Group} (h : g.team = tid) (f : Nat) :
    (g.onClose tid off free).frag f = (g.frag f).onClose off free := by
  unfold Group.onClose
  rw [if_pos h]
  exact aget_mapped Frag.none_ _ rfl f g.frags

theorem frag_onClose_ne {tid off : Nat} {free : Bool} {g : Group} (h : g.team ≠ tid) (f : Nat) :
    (g.onClose tid off free).frag f = g.frag f := by
  unfold Group.onClose
  rw [if_neg h]

/-- A group that RCLOSE comes to keeps all but what its fragments wait for. -/
theorem onClose_keeps (tid off : Nat) (free : Bool) (g : Group) : (g.onClose tid off free).team = g.team ∧
    (g.onClose tid off free).retired = g.retired ∧ SameSpecials g (g.onClose tid off free) ∧ SameRegs g (g.onClose tid off free) := by
  unfold Group.onClose
  split
  · exact ⟨rfl, rfl, ⟨rfl, rfl, rfl, rfl, rfl, rfl, rfl, rfl, rfl⟩, rfl, rfl, rfl⟩
  · exact ⟨rfl, rfl, ⟨rfl, rfl, rfl, rfl, rfl, rfl, rfl, rfl, rfl⟩, rfl, rfl, rfl⟩

theorem onClose_take (off n : Nat) (free : Bool) : Wait.onClose off free (.ring off true n) = if free then .closed else .ring off true n := by
  cases free <;> simp [Wait.onClose]

theorem onClose_acquire (off n : Nat) (free : Bool) : Wait.onClose off free (.ring off false n) = .closed := by
  simp [Wait.onClose]

theorem onClose_other {off : Nat} {free : Bool} {w : Wait} (h : ∀ k n, w ≠ .ring off k n) : w.onClose off free = w := by
  unfold Wait.onClose
  split
  · next o k n => exact if_neg fun hx => h k n (by rw [hx.1])
  · rfl

/-- What RCLOSE makes of the descriptor. -/
def Ring.shut (r : Ring) : Ring := { r with closed := true }

/-- The ring is closed, its waiters not yet served. -/
def ringShut (c : Ctx) (s : State) (off : Nat) : State := setRing (whoGrp c s).2 (whoGrp c s).1 off (ringAt off c s).shut

theorem rcloseB_eq (hem : acts c) : rcloseB a c s = withRing c s (sIn a c s) (.done (closeWaiters (ringShut c s (sIn a c s)) (teamIn c s) (sIn a c s))) := by
  unfold rcloseB
  rw [engineB_acts hem]
  rfl

theorem ringShut_becomes {off : Nat} (hoff : off < 2 ^ 33) : WindowBecomes (teamIn c s)
    (mwrite (winOf c s).win off (natLe 32 (ringAt off c s).shut.val)) s (ringShut c s off) :=
  (who_becomes c s).setRing (w := (whoGrp c s).1) hoff _

theorem ringShut_ring {off : Nat} (hoff : off < 2 ^ 33) : (ringShut c s off).ring (teamIn c s) off = (ringAt off c s).shut := by
  obtain ⟨b1, b2, b3, b4, b5, b6, b7, b8⟩ := ringAt_bounded off c s
  have hbound : (ringAt off c s).shut.Bounded := ⟨b1, b2, b3, b4, b5, b6, b7, b8⟩
  rw [(ringShut_becomes hoff).ring_eq, ringOf_written _ _ hbound]
  obtain ⟨h1, h2⟩ := ringAt_counters off c s
  exact Ring.mk.injEq .. |>.mpr ⟨rfl, rfl, rfl, rfl, rfl, rfl, rfl, rfl, h1, h2, rfl, rfl⟩

/-- Whether RCLOSE finds the slot of the next RTAKE free. -/
theorem ringShut_slot {off : Nat} (hoff : off < 2 ^ 33) (hp : ringPasses off c s) (ha : ringApart off (ringAt off c s)) :
    nextFree (ringShut c s off) (teamIn c s) off = (slotAt off (ringAt off c s).tail c s == 0) := by
  obtain ⟨ht, -, htail, -, -⟩ := ok_parts hp.2
  unfold nextFree
  rw [ringShut_ring hoff, (ringShut_becomes hoff).slotState,
    slotIn_outside _ (by rw [natLe_length]; exact slot_apart (r := ringAt off c s) ha htail (table_sizes ht).1)]
  rfl

theorem closeWaiters_team (u : State) (tid off : Nat) : (closeWaiters u tid off).team tid = { u.team tid with
    stream := (u.team tid).stream.map fun x => { x with wait := x.wait.onClose off (nextFree u tid off) } } :=
  team_modTeam _ _ _

/-- What RCLOSE leaves: every fragment but its own waits for what RCLOSE makes of its wait. -/
theorem rclose_leaves {off : Nat} (m : Lanes) (hoff : off < 2 ^ 33) :
    let t := finish c m (.done (closeWaiters (ringShut c s off) (teamIn c s) off))
    let free := nextFree (ringShut c s off) (teamIn c s) off
    WentOn c s t ∧ RingKept c s t ∧ ringAt off c t = (ringAt off c s).shut ∧ WindowKept off 32 c s t ∧
    (∀ g f, (g, f) ≠ (c.gid, c.fid) → ((t.grp g).frag f).wait =
      if (s.grp g).team = teamIn c s then (((s.grp g).frag f).wait).onClose off free else ((s.grp g).frag f).wait) ∧
    ∀ x, (winOf c s).stream = some x → (t.str (teamIn c s)).wait = x.wait.onClose off free := by
  have hb := ringShut_becomes (c := c) (s := s) hoff
  have hring := ringShut_ring (c := c) (s := s) hoff
  have hteam := closeWaiters_team (ringShut c s off) (teamIn c s) off
  have hgrp : ∀ g, (closeWaiters (ringShut c s off) (teamIn c s) off).grp g = (s.grp g).onClose (teamIn c s) off
      (nextFree (ringShut c s off) (teamIn c s) off) :=
    fun g => by rw [closeWaiters_grp, hb.ringOnly.grp]
  have hothers : ∀ u, u ≠ teamIn c s → (closeWaiters (ringShut c s off) (teamIn c s) off).team u = s.team u :=
    fun u hu => (team_modTeam_ne _ hu _).trans (hb.others u hu)
  have hmem : (closeWaiters (ringShut c s off) (teamIn c s) off).mem = s.mem := hb.only.mem
  have hstream : ((ringShut c s off).team (teamIn c s)).stream = (winOf c s).stream := by
    have hu : ringShut c s off = (lsWriteAs (whoGrp c s).2 (whoGrp c s).1.ag (whoGrp c s).1.pl (teamIn c s) off
        (natLe 32 (ringAt off c s).shut.val) (whoGrp c s).1.node).modTeam (teamIn c s) fun t => { t with wpois := ((whoGrp c s).2.team (teamIn c s)).wpois } := rfl
    rw [hu, team_modTeam]
    have hnow := (lsWriteAs_now (whoGrp c s).2 (whoGrp c s).1.ag (whoGrp c s).1.pl (tid := teamIn c s) (natLe 32 (ringAt off c s).shut.val)
      (whoGrp c s).1.node hoff).here
    rw [hnow, (fragEvent_ord c s []).team (teamIn c s) |> (show (whoGrp c s).2.team (teamIn c s) = s.team (teamIn c s) from ·)]
    rfl
  dsimp only
  generalize nextFree (ringShut c s off) (teamIn c s) off = free at hgrp hteam ⊢
  generalize closeWaiters (ringShut c s off) (teamIn c s) off = u at hgrp hteam hothers hmem ⊢
  obtain ⟨kt, kr, ks, kg⟩ := onClose_keeps (teamIn c s) off free (s.grp c.gid)
  have htid : teamIn c (finish c m (.done u)) = teamIn c s := by
    unfold teamIn
    rw [finish_done_grp, hgrp]
    exact kt
  have hwin : ((finish c m (.done u)).team (teamIn c s)).win = mwrite (winOf c s).win off (natLe 32 (ringAt off c s).shut.val) := by
    change (u.team (teamIn c s)).win = _
    rw [hteam]
    exact hb.win_eq
  refine ⟨wentOn_done c m (by rw [hgrp]; exact kr), ⟨hmem, sameSpecials_done c m (by rw [hgrp]; exact ks),
    sameRegs_done c m (by rw [hgrp]; exact kg), hothers⟩, ?_, fun x hx => ?_, fun g f hne => ?_, fun x hx => ?_⟩
  · unfold ringAt
    rw [htid, ring_eq, hwin, ← hb.win_eq]
    exact hring
  · rw [hwin]
    exact mget_mwrite_outside _ (by rw [natLe_length]; exact hx)
  · have hsame : ((finish c m (.done u)).grp g).frag f = ((s.grp g).onClose (teamIn c s) off free).frag f := by
      by_cases hg : g = c.gid
      · subst hg
        rw [finish_done_grp, hgrp]
        exact aget_aput_ne _ (fun hf => hne (by rw [hf])) _ _
      · rw [show (finish c m (.done u)).grp g = u.grp g from grp_modGrp_ne _ hg _, hgrp]
    rw [hsame]
    split
    case isTrue ht => rw [frag_onClose ht]; rfl
    case isFalse ht => rw [frag_onClose_ne ht]
  · have : (finish c m (.done u)).str (teamIn c s) = { x with wait := x.wait.onClose off free } := by
      change (u.team (teamIn c s)).str = _
      rw [hteam]
      unfold Team.str
      rw [hstream, hx]
      rfl
    rw [this]

end Close

/-! ### The instructions -/

section Means
variable (r : Option (BitVec 13)) (d a b : SReg)

theorem means_rinit : Means (both r (.rinit a) fun w => .rinitRadish w a) (rinitB a) := .of_issues (exec_rinit a) fun w => exec_rinitRadish w a
theorem means_racq : Means (both r (.racq d a) fun w => .racqRadish w d a) (ringGetB false d a) :=
  .of_issues (exec_racq d a) fun w => exec_racqRadish w d a
theorem means_rtake : Means (both r (.rtake d a) fun w => .rtakeRadish w d a) (ringGetB true d a) :=
  .both (.of_issueBoth (exec_rtake d a)) fun w => .of_issue (exec_rtakeRadish w d a)
theorem means_rpub : Means (both r (.rpub d a b) fun w => .rpubRadish w d a b) (rpubB d a b) :=
  .of_issues (exec_rpub d a b) fun w => exec_rpubRadish w d a b
theorem means_rdone : Means (both r (.rdone a b) fun w => .rdoneRadish w a b) (rdoneB a b) :=
  .both (.of_issueBoth (exec_rdone a b)) fun w => .of_issue (exec_rdoneRadish w a b)
theorem means_rclose : Means (both r (.rclose a) fun w => .rcloseRadish w a) (rcloseB a) :=
  .of_issues (exec_rclose a) fun w => exec_rcloseRadish w a

end Means

/-- A ring instruction whose descriptor is checked as R180 says. -/
structure RingChecked (x : Instr) (body : Ctx → State → Act) (comes : Ctx → Prop) (a : SReg) : Prop where
  means : Means x body
  idle : ∀ c s, ¬acts c → body c s = .done s
  checks : ∀ c s, acts c → comes c → ∃ k, body c s = withRing c s (sIn a c s) k

theorem RingChecked.object {x : Instr} {body : Ctx → State → Act} {comes : Ctx → Prop} {a : SReg} (h : RingChecked x body comes a) :
    RunsIf x (fun c _ => ¬acts c) (fun _ g => g) ∧ ObjectChecked x comes (sIn a) 32 32 :=
  ⟨h.means.nothing fun c s hn => h.idle c (s := s) hn, objectChecked_of h.means fun c s hem hc => (h.checks c s hem hc).imp' _ fun _ hk => hk⟩

theorem RingChecked.refuses {x : Instr} {body : Ctx → State → Act} {comes : Ctx → Prop} {a : SReg} (h : RingChecked x body comes a) :
    TrapsIf x (fun c s => acts c ∧ comes c ∧ objectPasses (sIn a c s) 32 32 c s ∧ (ringAt (sIn a c s) c s).ok (winOf c s).winSize = false)
      (fun _ _ => flt 1 4) := by
  refine h.means.traps fun c s ⟨hem, hc, hp, hok⟩ => ?_
  obtain ⟨k, hk⟩ := h.checks c s hem hc
  rw [hk, withRing_refused hp hok]

section Checked
variable (r : Option (BitVec 13)) (d a b : SReg)

theorem racq_checked : RingChecked (both r (.racq d a) fun w => .racqRadish w d a) (ringGetB false d a) unserved a :=
  ⟨means_racq r d a, fun _ _ hn => engineB_nothing hn, fun _ _ hem hc => ⟨_, ringGetB_open hem hc⟩⟩
theorem rtake_checked : RingChecked (both r (.rtake d a) fun w => .rtakeRadish w d a) (ringGetB true d a) unserved a :=
  ⟨means_rtake r d a, fun _ _ hn => engineB_nothing hn, fun _ _ hem hc => ⟨_, ringGetB_open hem hc⟩⟩
theorem rpub_checked : RingChecked (both r (.rpub d a b) fun w => .rpubRadish w d a b) (rpubB d a b) (fun _ => True) d :=
  ⟨means_rpub r d a b, fun _ _ hn => engineB_nothing hn, fun _ _ hem _ => (rpubB_eq (j := 0) hem).imp fun _ hk => hk.1⟩
theorem rdone_checked : RingChecked (both r (.rdone a b) fun w => .rdoneRadish w a b) (rdoneB a b) unserved a :=
  ⟨means_rdone r a b, fun _ _ hn => engineB_nothing hn, fun _ _ hem _ => (rdoneB_eq (j := 0) hem).imp fun _ hk => hk.1⟩
theorem rclose_checked : RingChecked (both r (.rclose a) fun w => .rcloseRadish w a) (rcloseB a) unserved a :=
  ⟨means_rclose r a, fun _ _ hn => engineB_nothing hn, fun _ _ hem _ => ⟨_, rcloseB_eq hem⟩⟩

end Checked

/-! ### The statement, instruction by instruction -/

section Settles
variable (r : Option (BitVec 13)) (d a b : SReg)

theorem rinit_settles :
    let init := both r (.rinit a) fun w => .rinitRadish w a
    let passes := fun (c : Ctx) (s : State) => acts c ∧ objectPasses (sIn a c s) 32 32 c s
    let sound := fun (c : Ctx) (s : State) =>
      (ringAt (sIn a c s) c s).table = true ∧ (ringAt (sIn a c s) c s).rsv = 0 ∧ (ringAt (sIn a c s) c s).rsv2 = 0
    let fits := fun (c : Ctx) (s : State) => (ringAt (sIn a c s) c s).fits (winOf c s).winSize = true
    TrapsIf init (fun c s => passes c s ∧ ¬sound c s) (fun _ _ => flt 1 4) ∧
    TrapsIf init (fun c s => passes c s ∧ sound c s ∧ ¬fits c s) (fun c s => fltL 6 8 (ringAt (sIn a c s) c s).base false (leaderMask c)) ∧
    TrapsIf init (fun c s => passes c s ∧ sound c s ∧ fits c s ∧ ringWaiters s (teamIn c s) (sIn a c s) ≠ []) (fun _ _ => flt 14 1) ∧
    DoesIf init (fun c s => passes c s ∧ sound c s ∧ fits c s ∧ ringWaiters s (teamIn c s) (sIn a c s) = []) (fun c s t =>
      WentOn c s t ∧ RingKept c s t ∧ ringAt (sIn a c s) c t = (ringAt (sIn a c s) c s).fresh ∧
      (ringApart (sIn a c s) (ringAt (sIn a c s) c s) → ∀ j < (ringAt (sIn a c s) c s).slots, slotAt (sIn a c s) j c t = 0)) := by
  intro init passes sound fits
  have hm := means_rinit r a
  have hbad : ∀ x : Ring, (!x.table || x.rsv != 0 || x.rsv2 != 0) = true ↔ ¬(x.table = true ∧ x.rsv = 0 ∧ x.rsv2 = 0) := fun x => by
    rw [Bool.or_eq_true, Bool.or_eq_true, Bool.not_eq_true', bne_iff_ne, bne_iff_ne]
    cases x.table <;> simp [imp_iff_not_or]
  have hpast : ∀ {c s}, passes c s → sound c s → rinitB a c s =
      if !(ringAt (sIn a c s) c s).fits (winOf c s).winSize then
        .fault s (fltL 6 8 (ringAt (sIn a c s) c s).base false (leaderMask c))
      else if !(ringWaiters s (teamIn c s) (sIn a c s)).isEmpty then .fault s (flt 14 1)
      else .done (ringInit c s (sIn a c s)) := fun ⟨hem, hp⟩ hs => by
    rw [rinitB_eq hem, withObj_passes hp, if_neg (fun hx => (hbad _).mp hx hs)]
  refine ⟨hm.traps fun c s ⟨⟨hem, hp⟩, hs⟩ => ?_, hm.traps fun c s ⟨hp, hs, hf⟩ => ?_, hm.traps fun c s ⟨hp, hs, hf, hw⟩ => ?_,
    hm.does fun c s _ ⟨hp, hs, hf, hw⟩ => ?_⟩
  · rw [rinitB_eq hem, withObj_passes hp, if_pos ((hbad _).mpr hs)]
  · rw [hpast hp hs, if_pos (by rw [Bool.not_eq_true', ← Bool.not_eq_true]; exact hf)]
  · rw [hpast hp hs, if_neg (by rw [show (ringAt (sIn a c s) c s).fits (winOf c s).winSize = true from hf]; decide),
      if_pos (by simpa using hw)]
  · rw [hpast hp hs, if_neg (by rw [show (ringAt (sIn a c s) c s).fits (winOf c s).winSize = true from hf]; decide), if_neg (by rw [hw]; decide)]
    exact ringInit_leaves c.act hs.1 ((sIn_lt a c s).trans (by decide))

/-- An RACQ or RTAKE that RCLOSE has served. -/
theorem served_by_close {k : Bool} {x : Instr} (hm : Means x (ringGetB k d a)) :
    DoesIf x (fun c s => acts c ∧ c.wait = .closed ∧ (s.grp c.gid).loads.length < 63)
      (fun c s t => RingGot d 0xFFFF_FFFF c s t ∧ t.teams = s.teams) ∧
    WaitsIf x (fun c s => acts c ∧ c.wait = .closed ∧ 63 ≤ (s.grp c.gid).loads.length) (fun _ _ => .closed) := by
  refine ⟨hm.does fun c s _ ⟨hem, hw, hl⟩ => ?_, hm.waits fun c s ⟨hem, hw, hl⟩ => ?_⟩
  · rw [ringGetB_closed hem hw, if_neg (by unfold Group.ldc; omega)]
    obtain ⟨h1, h2, -, -⟩ := ringIssue_leaves (c := c) (m := c.act) (s := s) (u := s) ⟨rfl, rfl, fun _ _ => rfl⟩ d 0xFFFF_FFFF []
    exact ⟨h1, h2⟩
  · rw [ringGetB_closed hem hw]
    exact if_pos hl

/-- RACQ and RTAKE that wait: for room, or for their slot. -/
theorem ring_waits {k : Bool} {x : Instr} (hm : Means x (ringGetB k d a)) :
    WaitsIf x (fun c s => ringMay k a c s ∧ (¬∃ o k n, c.wait = .ring o k n) ∧ 63 ≤ (s.grp c.gid).loads.length) (fun _ _ => .full 0) ∧
    DoesIf x (fun c s => ringMay k a c s ∧ ((∃ o k n, c.wait = .ring o k n) ∨ (s.grp c.gid).loads.length < 63) ∧
        ringServes s (teamIn c s) (sIn a c s) k = false) (fun c s t =>
      AlsoWaits (.ring (sIn a c s) k (ringOrder c s)) c t ∧ RingKept c s t ∧ (t.grp c.gid).loads = (s.grp c.gid).loads ∧ t.teams = s.teams) := by
  refine ⟨hm.waits fun c s ⟨h, hw, hf⟩ => ringGetB_full h hw hf, hm.does fun c s hc ⟨h, hw, hno⟩ => ?_⟩
  rw [ringGetB_stays h hw hno]
  exact stays_leaves hc c.act _

theorem rpub_settles (j : Nat) :
    let pub := both r (.rpub d a b) fun w => .rpubRadish w d a b
    let mine := fun (c : Ctx) (s : State) => acts c ∧ ringPasses (sIn d c s) c s ∧
      (ringAt (sIn d c s) c s).index (sIn a c s) = some j ∧ slotClean (sIn d c s) j c s
    let filled := fun (c : Ctx) (s : State) => mine c s ∧ slotAt (sIn d c s) j c s = 1 ∧
      sIn b c s % 2 ^ 24 ≤ (ringAt (sIn d c s) c s).sbytes - 16 ∧ sIn b c s < 2 ^ 26
    TrapsIf pub (fun c s => mine c s ∧ slotAt (sIn d c s) j c s ≠ 1) (fun _ _ => flt 1 6) ∧
    WaitsIf pub (fun c s => filled c s ∧ ¬quietIn c s) (fun _ _ => .release) ∧
    DoesIf pub (fun c s => filled c s ∧ quietIn c s) (fun c s t =>
      let o := ringAt (sIn d c s) c s
      WentOn c s t ∧ RingKept c s t ∧ (ringApart (sIn d c s) o →
        ringAt (sIn d c s) c t = { o with phase := Nat.lor o.phase (2 ^ j), pubs := (o.pubs + 1) % 2 ^ 32, fault := o.fault || decide (2 ^ 25 ≤ sIn b c s) } ∧
        slotAt (sIn d c s) j c t = 2 ∧ t.win (teamIn c s) (sIn a c s) 4 = sIn b c s % 2 ^ 24)) := by
  intro pub mine filled
  have hm := means_rpub r d a b
  have hbody : ∀ {c s}, mine c s → rpubB d a b c s =
      if slotAt (sIn d c s) j c s ≠ 1 then .fault s (flt 1 6)
      else if bits (sIn b c s) 0 24 > (ringAt (sIn d c s) c s).sbytes - 16 ∨ bits (sIn b c s) 26 6 ≠ 0 then .fault s (flt 1 4)
      else releaseB c s (.done (ringPub c s (sIn d c s) (sIn a c s) (sIn b c s) j)) := fun {c s} ⟨hem, hp, hi, hclean⟩ => by
    obtain ⟨k, hk, hk'⟩ := rpubB_eq (d := d) (a := a) (b := b) (s := s) (j := j) hem
    rw [hk, withRing_passes hp, hk' hi hclean]
  have hfilled : ∀ {c s}, filled c s → rpubB d a b c s = releaseB c s (.done (ringPub c s (sIn d c s) (sIn a c s) (sIn b c s) j)) :=
    fun {c s} ⟨hmine, hst, hlen, hlt⟩ => by
    rw [hbody hmine, if_neg (not_not_intro hst), if_neg]
    unfold bits
    omega
  refine ⟨hm.traps fun c s ⟨hmine, hst⟩ => ?_, hm.waits fun c s ⟨hf, hq⟩ => ?_, hm.does fun c s _ ⟨hf, hq⟩ => ?_⟩
  · rw [hbody hmine, if_pos hst]
  · rw [hfilled hf, releaseB_waits hq]
  · rw [hfilled hf, releaseB_quiet hq]
    obtain ⟨⟨-, hp, hi, -⟩, -, -, hlt⟩ := hf
    exact ringPub_leaves c.act hp ((sIn_lt d c s).trans (by decide)) hi hlt

theorem rdone_settles (j : Nat) :
    let done := both r (.rdone a b) fun w => .rdoneRadish w a b
    let mine := fun (c : Ctx) (s : State) => acts c ∧ ringPasses (sIn a c s) c s ∧
      (ringAt (sIn a c s) c s).index (sIn b c s) = some j ∧ slotClean (sIn a c s) j c s
    let taken := fun (c : Ctx) (s : State) => mine c s ∧ slotAt (sIn a c s) j c s = 3
    TrapsIf done (fun c s => mine c s ∧ slotAt (sIn a c s) j c s ≠ 3) (fun _ _ => flt 1 6) ∧
    WaitsIf done (fun c s => taken c s ∧ ¬quietIn c s) (fun _ _ => .release) ∧
    DoesIf done (fun c s => taken c s ∧ quietIn c s) (fun c s t =>
      let o := ringAt (sIn a c s) c s
      WentOn c s t ∧ RingKept c s t ∧ (ringApart (sIn a c s) o →
        slotAt (sIn a c s) j c t = 0 ∧ (ringAt (sIn a c s) c t).dones = (o.dones + 1) % 2 ^ 32 ∧
        ∀ i, (ringAt (sIn a c s) c t).phase.testBit i = (o.phase.testBit i && i != j))) := by
  intro done mine taken
  have hm := means_rdone r a b
  have hbody : ∀ {c s}, mine c s → rdoneB a b c s =
      if slotAt (sIn a c s) j c s ≠ 3 then .fault s (flt 1 6)
      else releaseB c s (.done (ringFreed c s (sIn a c s) (sIn b c s) j)) := fun {c s} ⟨hem, hp, hi, hclean⟩ => by
    obtain ⟨k, hk, hk'⟩ := rdoneB_eq (a := a) (b := b) (s := s) (j := j) hem
    rw [hk, withRing_passes hp, hk' hi hclean]
  refine ⟨hm.traps fun c s ⟨hmine, hst⟩ => ?_, hm.waits fun c s ⟨⟨hmine, hst⟩, hq⟩ => ?_, hm.does fun c s _ ⟨⟨hmine, hst⟩, hq⟩ => ?_⟩
  · rw [hbody hmine, if_pos hst]
  · rw [hbody hmine, if_neg (not_not_intro hst), releaseB_waits hq]
  · rw [hbody hmine, if_neg (not_not_intro hst), releaseB_quiet hq]
    exact ringFreed_leaves c.act hmine.2.1 ((sIn_lt a c s).trans (by decide)) hmine.2.2.1

/-- Settles O39: the descriptor's checks, then each instruction's write of a slot and of the descriptor. -/
theorem stageRingsPassSlotsInOrder : Obligations.StageRingsPassSlotsInOrder := by
  unfold Obligations.StageRingsPassSlotsInOrder
  intro r d a b
  have hacq := means_racq r d a
  have htake := means_rtake r d a
  refine ⟨?_, (rpub_checked r d a b).object.1, (rpub_checked r d a b).object.2, ?_, rinit_settles r a, ⟨?_, ?_, ?_, ?_, ?_, ?_, ?_, ?_, ?_⟩,
    fun j => ?_, ?_⟩
  · intro x hx
    simp only [List.mem_cons, List.not_mem_nil, or_false] at hx
    rcases hx with rfl | rfl | rfl | rfl | rfl
    · exact ⟨(means_rinit r a).nothing fun c s hn => engineB_nothing hn, objectChecked_of (means_rinit r a) fun c s hem _ => ⟨_, rinitB_eq hem⟩⟩
    · exact (racq_checked r d a).object
    · exact (rtake_checked r d a).object
    · exact (rdone_checked r a b).object
    · exact (rclose_checked r a).object
  · intro x hx
    simp only [List.mem_cons, List.not_mem_nil, or_false] at hx
    rcases hx with rfl | rfl | rfl | rfl
    · exact (racq_checked r d a).refuses
    · exact (rtake_checked r d a).refuses
    · exact (rdone_checked r a b).refuses
    · exact (rclose_checked r a).refuses
  · intro x hx
    simp only [List.mem_cons, List.not_mem_nil, or_false] at hx
    rcases hx with rfl | rfl
    · exact served_by_close d a hacq
    · exact served_by_close d a htake
  · exact (ring_waits d a hacq).1
  · exact (ring_waits d a htake).1
  · exact hacq.does fun c s _ ⟨⟨h, hf, hl⟩, hc⟩ => ringGetB_ends c.act h hf hl hc fun hk => nomatch hk
  · exact hacq.does fun c s _ ⟨⟨h, hf, hl⟩, hc, hs⟩ => ringGetB_gets c.act h hf hl (.inr ⟨rfl, hc, hs⟩)
  · exact htake.does fun c s _ ⟨⟨h, hf, hl⟩, hs⟩ => ringGetB_gets c.act h hf hl (.inl ⟨rfl, hs⟩)
  · exact htake.does fun c s _ ⟨⟨h, hf, hl⟩, hc, hs⟩ => ringGetB_ends c.act h hf hl hc fun _ => hs
  · intro s gid fid hc ⟨h, hw, hcl, hs⟩
    refine (ring_waits d a hacq).2 s gid fid hc ⟨h, hw, ?_⟩
    rw [ringServes_eq, if_neg (by decide), hcl, beq_eq_false_iff_ne.mpr hs]
    rfl
  · intro s gid fid hc ⟨h, hw, hs, hcl⟩
    refine (ring_waits d a htake).2 s gid fid hc ⟨h, hw, ?_⟩
    rw [ringServes_eq, if_pos rfl, beq_eq_false_iff_ne.mpr hs, Bool.false_or]
    rcases hcl with hcl | hcl
    · rw [hcl, Bool.false_and]
    · rw [beq_eq_false_iff_ne.mpr hcl, Bool.and_false]
  · obtain ⟨h1, h2, h3⟩ := rpub_settles r d a b j
    exact ⟨h1, h2, h3, rdone_settles r a b j⟩
  · refine (means_rclose r a).does fun c s _ ⟨hem, hp⟩ => ?_
    have hoff : sIn a c s < 2 ^ 33 := (sIn_lt a c s).trans (by decide)
    rw [rcloseB_eq hem, withRing_passes hp]
    obtain ⟨h1, h2, h3, h4, hfrag, hstr⟩ := rclose_leaves (c := c) (s := s) c.act hoff
    refine ⟨h1, h2, h3, h4, fun g f n hne ht hw => ?_, fun ha => ⟨fun g f n hne ht hw => ⟨fun hz => ?_, fun hz => ?_⟩, fun x n hx hw => ⟨fun hz => ?_, fun hz => ?_⟩⟩,
      fun g f hne hw => ?_⟩
    · rw [hfrag g f hne, if_pos ht, hw, onClose_acquire]
    · rw [hfrag g f hne, if_pos ht, hw, onClose_take, ringShut_slot hoff hp ha, hz]
      rfl
    · rw [hfrag g f hne, if_pos ht, hw, onClose_take, ringShut_slot hoff hp ha, beq_eq_false_iff_ne.mpr hz]
      rfl
    · rw [hstr x hx, hw, onClose_take, ringShut_slot hoff hp ha, hz]
      rfl
    · rw [hstr x hx, hw, onClose_take, ringShut_slot hoff hp ha, beq_eq_false_iff_ne.mpr hz]
      rfl
    · rw [hfrag g f hne, onClose_other hw, ite_self]

end Settles

end Sys2Proof.Machine

/-! The matrix stream: what the issue of its instructions does with their meanings, what it reads of its window, and what a write of its
tiles leaves (R183 to R199). -/
namespace Sys2Proof.Machine

/-! ### Issue -/

/-- The stream's instructions of the matrix unit. -/
def MatrixMeans (i : Instr) (allot : Nat → Bool) (body : Nat → State → SAct) : Prop := ∀ s, exec i s = issueMatrix s true allot body

namespace MatrixMeans
variable {i : Instr} {allot : Nat → Bool} {body : Nat → State → SAct} (h : MatrixMeans i allot body)
include h

theorem exec_eq {s : State} {tid : Nat} (hc : s.cur = some (.stream tid)) (ha : allot (s.str tid).tiles = true) :
    exec i s = .next (finishStream tid (body tid s) s) := by
  rw [h, issueMatrix, hc]
  dsimp only
  rw [if_neg (by decide), if_neg (by rw [ha]; decide)]

theorem faults {P : Nat → State → Prop} {f : Nat → State → FaultInfo}
    (hb : ∀ tid s, P tid s → allot (s.str tid).tiles = true ∧ body tid s = .fault (f tid s)) : StreamFaultsIf i P f := by
  intro s tid hc hP
  obtain ⟨ha, hbody⟩ := hb tid s hP
  rw [h.exec_eq hc ha, hbody]
  rfl

theorem waits {P : Nat → State → Prop} {w : Nat → State → Wait}
    (hb : ∀ tid s, P tid s → allot (s.str tid).tiles = true ∧ body tid s = .wait s (w tid s)) : StreamWaitsIf i P w := by
  intro s tid hc hP
  obtain ⟨ha, hbody⟩ := hb tid s hP
  rw [h.exec_eq hc ha, hbody]
  rfl

theorem does {P : Nat → State → Prop} {R : Nat → State → State → Prop}
    (hb : ∀ tid s, P tid s → allot (s.str tid).tiles = true ∧ ∃ u : State, body tid s = .done u ∧ R tid s (u.setStr tid (u.str tid).next)) :
    StreamDoesIf i P R := by
  intro s tid hc hP
  obtain ⟨ha, u, hbody, hR⟩ := hb tid s hP
  refine ⟨_, h.exec_eq hc ha, ?_⟩
  rw [hbody]
  exact hR

end MatrixMeans

theorem withM_clean {tid : Nat} {s : State} {m : BitVec 4} (h : mClean tid s m) (f : Stream → Nat → SAct) :
    withM tid s m.toNat f = f (s.str tid) (mIn tid s m) := by
  unfold withM
  dsimp only
  rw [if_neg (by rw [List.contains_iff_mem]; exact h)]
  rfl

theorem mIn_lt (tid : Nat) (s : State) (m : BitVec 4) : mIn tid s m < 2 ^ 32 := (aget (0 : Word) m.toNat (s.str tid).m).isLt

/-! ### The stream after a change -/

/-- The state in which a stream has become another and gone on. -/
def strNow (u : State) (tid : Nat) (x : Stream) : State := u.setStr tid x.next

theorem modTeam_modTeam (s : State) (tid : Nat) (f g : Team → Team) : (s.modTeam tid f).modTeam tid g = s.modTeam tid fun x => g (f x) := by
  have h : (s.modTeam tid f).modTeam tid g = { s with teams := aput tid (g ((s.modTeam tid f).team tid)) (aput tid (f (s.team tid)) s.teams) } := rfl
  rw [h, team_modTeam, aput_aput]
  rfl

theorem modStr_goes (u : State) (tid : Nat) (f : Stream → Stream) :
    (modStr u tid f).setStr tid ((modStr u tid f).str tid).next = strNow u tid (f (u.str tid)) := by
  unfold modStr strNow
  rw [str_setStr]
  exact modTeam_modTeam _ _ _ _

section Now
variable (u : State) (tid : Nat) (x : Stream)

theorem strNow_str : (strNow u tid x).str tid = x.next := str_setStr _ _ _
theorem strNow_mem : (strNow u tid x).mem = u.mem := rfl
theorem strNow_win : ((strNow u tid x).team tid).win = (u.team tid).win := by
  unfold strNow State.setStr
  rw [team_modTeam]
theorem strNow_others {t : Nat} (h : t ≠ tid) : (strNow u tid x).team t = u.team t := team_modTeam_ne _ h _

end Now

theorem strEvent_reads (s : State) (tid : Nat) (more : List Nat) : ReadsOnly s (strEvent s tid more).2 := ⟨rfl, rfl⟩

theorem ReadsOnly.str {s t : State} (h : ReadsOnly s t) (tid : Nat) : t.str tid = s.str tid := congrArg Team.str (h.1.team tid)

/-! ### Ranges of the window -/

section Ranges
variable {tid off n al : Nat} {s : State}

theorem strRange_misaligned (rd : Bool) (h : off % al ≠ 0) : strRange s tid off n al rd = some (fltV 5 0 off) := if_pos h

theorem strRange_outside (rd : Bool) (h : off % al = 0) (hout : (s.team tid).winSize < off + n) :
    strRange s tid off n al rd = some (fltV 6 8 off) := (if_neg (not_not_intro h)).trans (if_pos hout)

theorem strRange_poisoned (h : off % al = 0) (hin : off + n ≤ (s.team tid).winSize) (hp : winPois (s.team tid) off n = true) :
    strRange s tid off n al true = some (flt 15 1) :=
  (if_neg (not_not_intro h)).trans ((if_neg (Nat.not_lt.mpr hin)).trans (if_pos (by rw [hp]; rfl)))

theorem strRange_fits (h : off % al = 0) (hin : off + n ≤ (s.team tid).winSize) : strRange s tid off n al false = none :=
  (if_neg (not_not_intro h)).trans ((if_neg (Nat.not_lt.mpr hin)).trans (if_neg (by rw [Bool.false_and]; decide)))

theorem strRange_passes (h : rangePasses tid off n al s) : strRange s tid off n al true = none := by
  obtain ⟨ha, hin, hp⟩ := h
  exact (if_neg (not_not_intro ha)).trans ((if_neg (Nat.not_lt.mpr hin)).trans (if_neg (by rw [hp]; decide)))

/-- A word on which no write bears reads as it stands. -/
theorem strWord_settled (hs : windowSettled tid off 4 s) (ho : off + 4 ≤ 2 ^ 33) (node : Nat) :
    strWord s tid off node = mread (s.team tid).win off 4 := by
  unfold strWord
  dsimp only
  rw [if_neg]
  · have hk : ∀ i < 4, s.peek (lsKey tid off + i) = mget (s.team tid).win (off + i) := fun i hi => by
      rw [show lsKey tid off + i = lsKey tid (off + i) by unfold lsKey; omega]
      exact peek_lsKey s (by omega)
    rw [mread_eq]
    exact congrArg₂ List.cons (hk 0 (by decide)) (congrArg₂ List.cons (hk 1 (by decide)) (congrArg₂ List.cons (hk 2 (by decide))
      (congrArg₂ List.cons (hk 3 (by decide)) rfl)))
  · rw [List.any_eq_true]
    rintro ⟨w, hw, h⟩
    simp only [Bool.and_eq_true, decide_eq_true_eq] at h
    exact hs w hw h

theorem windowSettled.part {o k : Nat} (hs : windowSettled tid off n s) (h1 : off ≤ o) (h2 : o + k ≤ off + n) : windowSettled tid o k s := by
  intro w hw h
  refine hs w hw ?_
  unfold lsKey at h ⊢
  omega

theorem flatMap_mread (m : List Host.Cell) (off k w : Nat) :
    ((List.range k).flatMap fun i => mread m (off + w * i) w) = mread m off (w * k) := by
  induction k with
  | zero => rw [Nat.mul_zero]; rfl
  | succ k ih =>
    rw [List.range_succ, List.flatMap_append, ih, Nat.mul_succ, mread_append]
    simp

theorem take_mread (m : List Host.Cell) (off : Nat) {n k : Nat} (h : n ≤ k) : (mread m off k).take n = mread m off n := by
  obtain ⟨j, rfl⟩ := Nat.exists_eq_add_of_le h
  rw [mread_append]
  exact List.take_left' (mread_length _ _ _)

/-- A range on which no write bears reads as it stands. -/
theorem strRead_settled {k : Nat} (hs : windowSettled tid off k s) (hk : (n + 3) / 4 * 4 ≤ k) (ho : off + k ≤ 2 ^ 33) (node : Nat) :
    strRead s tid off n node = mread (s.team tid).win off n := by
  unfold strRead
  have hwords : ((List.range ((n + 3) / 4)).flatMap fun i => strWord s tid (off + 4 * i) node) =
      (List.range ((n + 3) / 4)).flatMap fun i => mread (s.team tid).win (off + 4 * i) 4 := by
    refine List.flatMap_congr fun i hi => strWord_settled (hs.part (by omega) ?_) ?_ node
    · have := List.mem_range.mp hi
      omega
    · have := List.mem_range.mp hi
      omega
  rw [hwords, flatMap_mread, take_mread _ _ (by omega)]

theorem ReadsOnly.settled {t : State} (h : ReadsOnly s t) (hs : windowSettled tid off n s) : windowSettled tid off n t := by
  intro w hw
  rw [h.2] at hw
  exact hs w hw

theorem getD_mread (m : List Host.Cell) {i : Nat} (h : i < n) : (mread m off n).getD i 0 = mget m (off + i) := by
  rw [mread_eq]
  exact getD_map_range _ _ _ h

end Ranges

/-! ### Operand tiles -/

theorem xbyte_setX (x : Stream) (t : Nat) {bs : List Byte} {i : Nat} (h : i < bs.length) : (x.setX t bs).xbyte t i = (bs.getD i 0).toNat := by
  unfold Stream.xbyte Stream.setX
  rw [aget_aput, mget_mwrite, dif_pos ⟨Nat.zero_le i, by omega⟩]
  exact congrArg BitVec.toNat (List.getD_eq_getElem _ _ h).symm

theorem xbyte_setX_ne (x : Stream) {t y : Nat} (h : y ≠ t) (bs : List Byte) (i : Nat) : (x.setX t bs).xbyte y i = x.xbyte y i := by
  unfold Stream.xbyte Stream.setX
  rw [aget_aput_ne _ h]

/-! ### Sparse lists of elements -/

/-- The elements that differ from a default, in the order of their numbers. -/
def sparse {α β : Type} [DecidableEq α] (d : α) (p : β → α) (rs : List (Nat × β)) : List (Nat × α) :=
  rs.foldr (fun r acc => if p r.2 = d then acc else (r.1, p r.2) :: acc) []

theorem aget_sparse {α β : Type} [DecidableEq α] (d : α) (p : β → α) (g : Nat → β) (l : List Nat) (e : Nat) :
    aget d e (sparse d p (l.map fun e => (e, g e))) = if e ∈ l then p (g e) else d := by
  induction l with
  | nil => rfl
  | cons k l ih =>
    have hstep : sparse d p ((k :: l).map fun e => (e, g e)) = if p (g k) = d then sparse d p (l.map fun e => (e, g e))
        else (k, p (g k)) :: sparse d p (l.map fun e => (e, g e)) := rfl
    rw [hstep]
    by_cases hk : k = e
    · subst hk
      rw [if_pos List.mem_cons_self]
      by_cases hd : p (g k) = d
      · rw [if_pos hd, ih]
        split
        · rfl
        · exact hd.symm
      · rw [if_neg hd, aget, if_pos rfl]
    · have hmem : (e ∈ k :: l) = (e ∈ l) := by
        rw [List.mem_cons]
        exact propext ⟨fun h => h.resolve_left (Ne.symm hk), .inr⟩
      simp only [hmem]
      split
      · exact ih
      · rw [aget, if_neg hk, ih]

theorem foldl_lor_testBit {β : Type} (p : β → Nat) (l : List β) (n i : Nat) :
    (l.foldl (fun m r => Nat.lor m (p r)) n).testBit i = true ↔ n.testBit i = true ∨ ∃ r ∈ l, (p r).testBit i = true := by
  induction l generalizing n with
  | nil => simp
  | cons r l ih =>
    rw [List.foldl_cons, ih, show Nat.lor n (p r) = n ||| p r from rfl, Nat.testBit_or, Bool.or_eq_true]
    simp only [List.mem_cons, exists_eq_or_imp, or_assoc]

theorem or_ofNat_getLsbD (x : Word) (n : Nat) {i : Nat} (h : i < 32) :
    (x ||| BitVec.ofNat 32 n).getLsbD i = true ↔ x.getLsbD i = true ∨ n.testBit i = true := by
  rw [BitVec.getLsbD_or, BitVec.getLsbD_ofNat, Bool.or_eq_true, decide_eq_true h, Bool.true_and]

/-! ### Tiles -/

theorem tile_setTile (x : Stream) (t : Nat) (z : ZTile) : (x.setTile t z).tile t = z := aget_aput _ _ _ _
theorem tile_setTile_ne (x : Stream) {t y : Nat} (h : y ≠ t) (z : ZTile) : (x.setTile t z).tile y = x.tile y := aget_aput_ne _ h _ _

/-- Only the accumulator tiles, their poison and MSTAT differ. -/
def TilesOnly (x y : Stream) : Prop := y = { x with z := y.z, zpois := y.zpois, mstat := y.mstat }

namespace TilesOnly

theorem refl (x : Stream) : TilesOnly x x := rfl
theorem trans {x y w : Stream} (h : TilesOnly x y) (k : TilesOnly y w) : TilesOnly x w := by
  unfold TilesOnly at *
  rw [k, h]
theorem foldl {α : Type} {f : Stream → α → Stream} (h : ∀ x a, TilesOnly x (f x a)) (l : List α) (x : Stream) : TilesOnly x (l.foldl f x) := by
  induction l generalizing x with
  | nil => exact refl x
  | cons a l ih => exact (h x a).trans (ih _)

/-- What the statements of the accumulator instructions keep. -/
theorem kept {x y : Stream} (h : TilesOnly x y) : StreamKept x y.next ∧ y.next.x = x.x ∧ y.next.fb = x.fb ∧ y.next.sa = x.sa ∧ y.next.sb = x.sb := by
  unfold TilesOnly at h
  rw [h]
  exact ⟨⟨rfl, rfl, rfl, rfl, rfl, rfl⟩, rfl, rfl, rfl, rfl⟩

end TilesOnly

/-- The elements of a list, by their numbers, become what a function makes of them. -/
def mapOver (l : List Nat) (x : Stream) (z : Nat) (f : Nat → Word → Word × Nat) : Stream :=
  { x.setTile z { x.tile z with el := sparse 0 Prod.fst (l.map fun e => (e, f e (zAt x z e))) } with
    mstat := x.mstat ||| BitVec.ofNat 32 ((l.map fun e => (e, f e (zAt x z e))).foldl (fun m r => Nat.lor m r.2.2) 0) }

theorem mapOver_tile (l : List Nat) (x : Stream) (z : Nat) (f : Nat → Word → Word × Nat) : (mapOver l x z f).tile z = { x.tile z with
    el := sparse 0 Prod.fst (l.map fun e => (e, f e (zAt x z e))) } := tile_setTile _ _ _

theorem mapOver_only (l : List Nat) (x : Stream) (z : Nat) (f : Nat → Word → Word × Nat) : TilesOnly x (mapOver l x z f) := rfl

theorem mapOver_tile_ne (l : List Nat) (x : Stream) {y z : Nat} (f : Nat → Word → Word × Nat) (h : y ≠ z) :
    (mapOver l x z f).tile y = x.tile y := tile_setTile_ne _ h _

theorem zAt_mapOver (l : List Nat) (x : Stream) (z : Nat) (f : Nat → Word → Word × Nat) {e : Nat} (h : e ∈ l) :
    zAt (mapOver l x z f) z e = (f e (zAt x z e)).1 := by
  rw [zAt, mapOver_tile]
  exact (aget_sparse 0 Prod.fst (fun e => f e (zAt x z e)) l e).trans (if_pos h)

section MapTile
variable (x : Stream) (z : Nat) (f : Nat → Word → Word × Nat)

theorem mapTile_eq : mapTile x z f = mapOver (List.range 4096) x z f := rfl

theorem mapTile_only : TilesOnly x (mapTile x z f) := by rw [mapTile_eq]; exact mapOver_only _ _ _ _

theorem mapTile_tile : (mapTile x z f).tile z = { x.tile z with
    el := sparse 0 Prod.fst ((List.range 4096).map fun e => (e, f e (zAt x z e))) } := by rw [mapTile_eq, mapOver_tile]

theorem mapTile_tile_ne {y : Nat} (h : y ≠ z) : (mapTile x z f).tile y = x.tile y := by rw [mapTile_eq, mapOver_tile_ne _ _ _ h]

theorem zAt_mapTile {e : Nat} (h : e < 4096) : zAt (mapTile x z f) z e = (f e (zAt x z e)).1 := by
  rw [mapTile_eq, zAt_mapOver _ _ _ _ (List.mem_range.mpr h)]

theorem mapTile_mstat : (mapTile x z f).mstat = x.mstat ||| BitVec.ofNat 32
    (((List.range 4096).map fun e => (e, f e (zAt x z e))).foldl (fun m r => Nat.lor m r.2.2) 0) := by rw [mapTile_eq, mapOver]

/-- MSTAT under a change whose only bit is bit 0. -/
theorem mapTile_mstatAlso {c : Prop} (hf : ∀ e, (f e (zAt x z e)).2 = 0 ∨ (f e (zAt x z e)).2 = 1)
    (hc : (∃ e < 4096, (f e (zAt x z e)).2 = 1) ↔ c) : mstatAlso x (mapTile x z f) c := by
  intro i hi
  rw [mapTile_mstat, or_ofNat_getLsbD _ _ hi, foldl_lor_testBit, Nat.zero_testBit]
  refine or_congr Iff.rfl ?_
  constructor
  · rintro (h | ⟨r, hr, h⟩)
    · exact absurd h (by decide)
    · obtain ⟨e, he, rfl⟩ := List.mem_map.mp hr
      dsimp only at h
      rcases hf e with h0 | h1
      · rw [h0, Nat.zero_testBit] at h
        exact absurd h (by decide)
      · rw [h1, Nat.testBit_one_eq_true_iff_self_eq_zero] at h
        exact ⟨h, hc.mp ⟨e, List.mem_range.mp he, h1⟩⟩
  · rintro ⟨rfl, h⟩
    obtain ⟨e, he, h1⟩ := hc.mpr h
    exact .inr ⟨_, List.mem_map.mpr ⟨e, List.mem_range.mpr he, rfl⟩, by dsimp only; rw [h1]; decide⟩

/-- MSTAT under a change that sets no bit. -/
theorem mapTile_mstat_same (hf : ∀ e, (f e (zAt x z e)).2 = 0) : (mapTile x z f).mstat = x.mstat := by
  have h : mstatAlso x (mapTile x z f) False := mapTile_mstatAlso x z f (fun e => .inl (hf e))
    ⟨fun ⟨e, _, h1⟩ => absurd ((hf e).symm.trans h1) (by decide), False.elim⟩
  refine BitVec.eq_of_getLsbD_eq fun i hi => ?_
  have := h i hi
  rw [Bool.eq_iff_iff, this]
  simp

end MapTile

end Sys2Proof.Machine

/-! O41: the register, tile and accumulator instructions of the matrix stream (R187, R188, R195 to R198). -/
namespace Sys2Proof.Machine

/-! ### The widths of converted values (R202, R203) -/

theorem ite_succ_le {c : Prop} [Decidable c] {n k : Nat} (h : n < k) : (if c then n + 1 else n) ≤ k := by
  split
  · exact h
  · exact h.le

theorem ite_lt {c : Prop} [Decidable c] {a b k : Nat} (ha : a < k) (hb : b < k) : (if c then a else b) < k := by
  split
  · exact ha
  · exact hb

theorem roundGrid_le {rm : Nat} {neg : Bool} {m L f : Nat} {e q : Int} (hm : m < 2 ^ (L + 1)) (h : e + L < q + f) :
    (roundGrid rm neg m e q).1 ≤ 2 ^ f := by
  unfold roundGrid
  split
  case isTrue hq =>
    dsimp only
    calc m * 2 ^ (e - q).toNat ≤ 2 ^ (L + 1) * 2 ^ (e - q).toNat := Nat.mul_le_mul_right _ hm.le
      _ = 2 ^ (L + 1 + (e - q).toNat) := (Nat.pow_add ..).symm
      _ ≤ 2 ^ f := Nat.pow_le_pow_right (by decide) (by omega)
  case isFalse hq =>
    have hlo : m / 2 ^ (q - e).toNat < 2 ^ f := by
      refine Nat.div_lt_of_lt_mul ?_
      rw [← Nat.pow_add]
      exact hm.trans_le (Nat.pow_le_pow_right (by decide) (by omega))
    exact ite_succ_le hlo

/-- A format whose largest encodings lie below its sign bit. -/
structure Fmt.Sound (F : Fmt) : Prop where
  exp : 1 ≤ F.e
  max : F.maxBits < 2 ^ (F.e + F.f)
  inf : F.infBits < 2 ^ (F.e + F.f)
  nan : F.nanBits < 2 ^ (F.e + F.f)

theorem signed_lt {F : Fmt} (neg : Bool) {b : Nat} (h : b < 2 ^ (F.e + F.f)) : F.signBit neg + b < 2 ^ F.width := by
  have hw : 2 ^ F.width = 2 * 2 ^ (F.e + F.f) := by rw [Fmt.width, Nat.add_assoc, Nat.add_comm, Nat.pow_succ, Nat.mul_comm]
  have hs : F.signBit neg ≤ 2 ^ (F.e + F.f) := by
    unfold Fmt.signBit
    split
    · exact le_rfl
    · exact Nat.zero_le _
  omega

theorem roundTo_lt {F : Fmt} (hF : F.Sound) (rm : Nat) (ftz neg : Bool) (m : Nat) (e : Int) (sticky : Bool) :
    (roundTo F rm ftz neg m e sticky).1 < 2 ^ F.width := by
  have hz := signed_lt (F := F) neg (b := 0) (Nat.two_pow_pos _)
  have hsub : 2 ^ F.f < 2 ^ (F.e + F.f) := Nat.pow_lt_pow_right (by decide) (by have := hF.exp; omega)
  unfold roundTo
  split
  · exact hz
  · rename_i hne
    dsimp only
    have hpos : 4 * m + (if sticky = true then 1 else 0) ≠ 0 := by
      intro h0
      refine hne ⟨by omega, ?_⟩
      cases sticky
      · rfl
      · simp at h0
    generalize 4 * m + (if sticky = true then 1 else 0) = M at hpos
    have hM := Nat.lt_log2_self (n := M)
    have hx : ∀ c : Prop, [Decidable c] → (0 : Int) ≤ if c then 1 else 0 := fun c _ => by split <;> decide
    have hx := hx ((roundGrid rm neg M (e - 2) (e - 2 + ↑(M.log2 + 1) - ↑(F.f + 1))).1 = 2 ^ (F.f + 1))
    generalize (if _ = 2 ^ (F.f + 1) then (1 : Int) else 0) = x at hx ⊢
    split
    case isTrue htop =>
      have hr : (roundGrid rm neg M (e - 2) F.qmin).1 ≤ 2 ^ F.f := by
        refine roundGrid_le hM ?_
        omega
      split
      · split
        · exact hz
        · exact signed_lt neg (hr.trans_lt hsub)
      · exact signed_lt neg (hr.trans_lt hsub)
    case isFalse =>
      split
      · unfold overflowBits
        dsimp only
        exact signed_lt neg (ite_lt hF.inf hF.max)
      · rename_i hb
        exact signed_lt neg ((Nat.not_lt.mp hb).trans_lt hF.max)

theorem f32_sound : f32.Sound := ⟨by decide, by decide, by decide, by decide⟩
theorem f16_sound : f16.Sound := ⟨by decide, by decide, by decide, by decide⟩
theorem bf16_sound : bf16.Sound := ⟨by decide, by decide, by decide, by decide⟩

theorem pack_lt {F : Fmt} (hF : F.Sound) (x : Num) : pack F x < 2 ^ F.width := by
  cases x with
  | nan s => exact lt_of_le_of_lt (Nat.le_add_left _ _) (signed_lt false hF.nan)
  | inf n => exact signed_lt n hF.inf
  | fin n m e => exact roundTo_lt hF _ _ _ _ _ _

theorem widenF32_lt (ty v : Nat) : widenF32 ty v < 2 ^ 32 := pack_lt f32_sound _

theorem narrowF32_lt {ty : Nat} (h : ty = 3 ∨ ty = 4) (rm : Nat) (ftz sat : Bool) (v : Nat) : (narrowF32 ty rm ftz sat v).1 < 2 ^ 16 := by
  have hF : (fmtOf ty).Sound ∧ (fmtOf ty).width = 16 ∧ fmtOf ty ≠ e4m3 ∧ fmtOf ty ≠ e5m2 := by
    rcases h with rfl | rfl
    · exact ⟨f16_sound, rfl, by decide, by decide⟩
    · exact ⟨bf16_sound, rfl, by decide, by decide⟩
  obtain ⟨hs, hw, h1, h2⟩ := hF
  unfold narrowF32
  dsimp only
  rw [← hw]
  split
  · exact lt_of_le_of_lt (Nat.le_add_left _ _) (signed_lt false hs.nan)
  · rw [if_neg h1]
    exact signed_lt _ hs.inf
  · rw [if_neg (fun hx => hx.1.elim h1 h2)]
    exact roundTo_lt hs _ _ _ _ _ _

/-- The saturation of a signed 32-bit sum (R192). -/
theorem clampT_s32 (r : Int) : clampT 0 r = max (-(2 ^ 31 : Int)) (min (2 ^ 31 - 1) r) := rfl

theorem wrapT_s32 (r : Int) : BitVec.ofNat 32 (wrapT 0 r) = BitVec.ofInt 32 r := by
  refine BitVec.eq_of_toNat_eq ?_
  rw [BitVec.toNat_ofNat, BitVec.toNat_ofInt]
  have : wrapT 0 r = (r % (2 ^ 32 : Nat)).toNat := rfl
  rw [this]
  omega

theorem clampT_s32_ne (r : Int) : clampT 0 r ≠ r ↔ r < -(2 ^ 31) ∨ 2 ^ 31 - 1 < r := by
  rw [clampT_s32]
  omega

theorem zcvtI_flag (e : Nat) (w : Word) : (zcvtI e w).2 = 0 ∨ (zcvtI e w).2 = 1 := by
  unfold zcvtI
  split
  · exact .inr rfl
  · exact .inr rfl
  · dsimp only
    split
    · exact .inr rfl
    · exact .inl rfl

/-! ### The meanings -/

section Meanings
variable (m : BitVec 4) (z : BitVec 8) (x : BitVec 3)

theorem means_fbset : MatrixMeans (.fbset m) noTiles (fbsetB m.toNat) := exec_fbset m
theorem means_xld : MatrixMeans (.xld x m) noTiles (xldB x.toNat m.toNat) := exec_xld x m
theorem means_xldr : MatrixMeans (.xldr x m) noTiles (xldrB x.toNat m.toNat) := exec_xldr x m
theorem means_zclr : MatrixMeans (.zclr z m) (tilesOk z 1) (zclrB z.toNat m.toNat) := exec_zclr z m
theorem means_zcvt : MatrixMeans (.zcvt z m) (tilesOk z 1) (zcvtB z.toNat m.toNat) := exec_zcvt z m
theorem means_zst : MatrixMeans (.zst z m) (tilesOk z 1) (zstB z.toNat m.toNat) := exec_zst z m
theorem means_zld : MatrixMeans (.zld z m) (tilesOk z 1) (zldB z.toNat m.toNat) := exec_zld z m
theorem means_zadd : MatrixMeans (.zadd z m) (tilesOk z 1) (zaddB z.toNat m.toNat) := exec_zadd z m
theorem means_zscl : MatrixMeans (.zscl z m) (tilesOk z 1) (zsclB z.toNat m.toNat) := exec_zscl z m

theorem tilesOk_one {n : Nat} (h : z.toNat < n) : tilesOk z 1 n = true := decide_eq_true h

end Meanings

/-! ### FBSET, XLD and XLDR -/

section Operands
variable {m : BitVec 4} {t tid : Nat} {s : State}

theorem fbsetB_legal (hm : mClean tid s m) (h : mIn tid s m % 16 ≤ 3 ∧ mIn tid s m / 16 % 16 ≤ 3 ∧ mIn tid s m / 256 % 8 < 6 ∧
    mIn tid s m / 4096 % 16 = 0) : fbsetB m.toNat tid s = .done (modStr s tid fun x => { x with fb := aget 0 m.toNat (s.str tid).m }) := by
  unfold fbsetB
  rw [withM_clean hm, if_neg]
  · have hv : BitVec.ofNat 32 (mIn tid s m) = aget 0 m.toNat (s.str tid).m := BitVec.ofNat_toNat _ _ |>.trans (by rw [BitVec.setWidth_eq])
    rw [hv]
  · unfold bits
    omega

theorem fbsetB_illegal (hm : mClean tid s m) (h : 3 < mIn tid s m % 16 ∨ 3 < mIn tid s m / 16 % 16 ∨ 6 ≤ mIn tid s m / 256 % 8 ∨
    mIn tid s m / 4096 % 16 ≠ 0) : fbsetB m.toNat tid s = .fault (flt 1 4) := by
  unfold fbsetB
  rw [withM_clean hm, if_pos]
  unfold bits
  omega

theorem xldB_latched (hm : mClean tid s m) (h : latched (s.str tid) t = true) : xldB t m.toNat tid s = .fault (fltV 4 4 (t + 768)) := by
  unfold xldB
  rw [withM_clean hm, if_pos h]
  rfl

theorem xldrB_latched (hm : mClean tid s m) (h : latched (s.str tid) t = true) : xldrB t m.toNat tid s = .fault (fltV 4 4 (t + 768)) := by
  unfold xldrB
  rw [withM_clean hm, if_pos h]
  rfl

theorem xldB_checks (hm : mClean tid s m) (h : latched (s.str tid) t = false) : xldB t m.toNat tid s =
    match strRange s tid (mIn tid s m) 8192 64 true with
    | some f => .fault f
    | none => .done (modStr { (strEvent s tid []).2 with fresh := s.fresh + 1 } tid fun x =>
        x.setX t (strRead (strEvent s tid []).2 tid (mIn tid s m) 8192 (strEvent s tid []).1)) := by
  unfold xldB
  rw [withM_clean hm, if_neg (by rw [h]; decide)]
  cases strRange s tid (mIn tid s m) 8192 64 true <;> rfl

/-- What filling an operand tile leaves. -/
theorem setX_leaves {u : State} (hu : ReadsOnly s u) (fresh : Nat) (bs : List Byte) :
    let t' := strNow { u with fresh := fresh } tid ((s.str tid).setX t bs)
    StreamKept (s.str tid) (t'.str tid) ∧ t'.mem = s.mem ∧ (t'.str tid).z = (s.str tid).z ∧
      (∀ y, y ≠ t → ∀ i, (t'.str tid).xbyte y i = (s.str tid).xbyte y i) ∧
      ∀ i < bs.length, (t'.str tid).xbyte t i = (bs.getD i 0).toNat := by
  dsimp only
  rw [strNow_str, strNow_mem]
  exact ⟨⟨rfl, rfl, rfl, rfl, rfl, rfl⟩, hu.1.mem, rfl, fun y hy i => xbyte_setX_ne _ hy _ _, fun i hi => xbyte_setX _ _ hi⟩

theorem xldrB_no_slot (hm : mClean tid s m) (h : latched (s.str tid) t = false) (hn : ∀ p ∈ (s.str tid).taken, p.1 ≠ mIn tid s m) :
    xldrB t m.toNat tid s = .fault (flt 1 6) := by
  unfold xldrB
  have hf : (s.str tid).taken.find? (fun p => p.1 == mIn tid s m) = none :=
    List.find?_eq_none.mpr fun p hp => by rw [beq_iff_eq]; exact hn p hp
  rw [withM_clean hm, if_neg (by rw [h]; decide), hf]

theorem xldrB_slot {slot : Nat} (hm : mClean tid s m) (h : latched (s.str tid) t = false)
    (hf : (s.str tid).taken.find? (fun p => p.1 == mIn tid s m) = some (mIn tid s m, slot)) : xldrB t m.toNat tid s =
    if winPois (s.team tid) slot 4 then .fault (flt 15 1)
    else match strRange s tid (slot + 16) (min (s.win tid slot 4) 8192) 1 true with
    | some f => .fault (if f.cause = 6 then fltV 6 8 slot else f)
    | none => .done (modStr { (strEvent s tid []).2 with fresh := s.fresh + 1 } tid fun x =>
        x.setX t (strRead (strEvent s tid []).2 tid (slot + 16) (min (s.win tid slot 4) 8192) (strEvent s tid []).1 ++
          List.replicate (8192 - min (s.win tid slot 4) 8192) 0)) := by
  unfold xldrB
  rw [withM_clean hm, if_neg (by rw [h]; decide), hf]
  dsimp only
  split
  · rfl
  · cases strRange s tid (slot + 16) (min (s.win tid slot 4) 8192) 1 true <;> rfl

end Operands

theorem fbset_settles (m : BitVec 4) :
    StreamRunsIf (.fbset m) (fun tid s => mClean tid s m ∧ mIn tid s m % 16 ≤ 3 ∧ mIn tid s m / 16 % 16 ≤ 3 ∧ mIn tid s m / 256 % 8 < 6 ∧
      mIn tid s m / 4096 % 16 = 0) (fun x => { x with fb := aget 0 m.toNat x.m }) ∧
    StreamFaultsIf (.fbset m) (fun tid s => mClean tid s m ∧ (3 < mIn tid s m % 16 ∨ 3 < mIn tid s m / 16 % 16 ∨ 6 ≤ mIn tid s m / 256 % 8 ∨
      mIn tid s m / 4096 % 16 ≠ 0)) (fun _ _ => flt 1 4) := by
  refine ⟨fun s tid hc ⟨hm, hl⟩ => ?_, (means_fbset m).faults fun tid s ⟨hm, hl⟩ => ⟨rfl, fbsetB_illegal hm hl⟩⟩
  rw [(means_fbset m).exec_eq hc rfl, fbsetB_legal hm hl]
  exact congrArg _ (modStr_goes _ _ _)

theorem xld_settles (x : BitVec 3) (m : BitVec 4) :
    StreamDoesIf (.xld x m) (fun tid s => mClean tid s m ∧ latched (s.str tid) x.toNat = false ∧ rangePasses tid (mIn tid s m) 8192 64 s)
      (fun tid s t => StreamKept (s.str tid) (t.str tid) ∧ t.mem = s.mem ∧ (t.str tid).z = (s.str tid).z ∧
        (∀ y, y ≠ x.toNat → ∀ i, (t.str tid).xbyte y i = (s.str tid).xbyte y i) ∧
        (windowSettled tid (mIn tid s m) 8192 s →
          ∀ i < 8192, (t.str tid).xbyte x.toNat i = (mget (s.team tid).win (mIn tid s m + i)).toNat)) ∧
    RangeChecked (.xld x m) (fun tid s => mClean tid s m ∧ latched (s.str tid) x.toNat = false) (fun tid s => mIn tid s m) (fun _ _ => 8192) := by
  have h := means_xld m x
  refine ⟨h.does fun tid s ⟨hm, hl, hr⟩ => ⟨rfl, ?_⟩, h.faults fun tid s ⟨⟨hm, hl⟩, hal⟩ => ⟨rfl, ?_⟩,
    h.faults fun tid s ⟨⟨hm, hl⟩, hal, hout⟩ => ⟨rfl, ?_⟩⟩
  · refine ⟨_, by rw [xldB_checks hm hl, strRange_passes hr], ?_⟩
    rw [modStr_goes]
    have hu := strEvent_reads s tid []
    obtain ⟨h1, h2, h3, h4, h5⟩ := setX_leaves (t := x.toNat) (tid := tid) hu (s.fresh + 1)
      (strRead (strEvent s tid []).2 tid (mIn tid s m) 8192 (strEvent s tid []).1)
    rw [show ({ (strEvent s tid []).2 with fresh := s.fresh + 1 } : State).str tid = s.str tid from hu.str tid]
    refine ⟨h1, h2, h3, h4, fun hs i hi => ?_⟩
    have hv := mIn_lt tid s m
    have hread := strRead_settled (n := 8192) (hu.settled hs) (by decide) (by omega) (strEvent s tid []).1
    rw [hu.1.team] at hread
    rw [hread] at h5 ⊢
    rw [h5 i (by rw [mread_length]; exact hi), getD_mread _ hi]
  · rw [xldB_checks hm hl, strRange_misaligned _ hal]
  · rw [xldB_checks hm hl, strRange_outside _ hal hout]

theorem xldr_settles (x : BitVec 3) (m : BitVec 4) (slot : Nat) :
    let held := fun (tid : Nat) (s : State) => mClean tid s m ∧ latched (s.str tid) x.toNat = false ∧
      (s.str tid).taken.find? (fun p => p.1 == mIn tid s m) = some (mIn tid s m, slot) ∧ slot < 2 ^ 32
    StreamFaultsIf (.xldr x m) (fun tid s => held tid s ∧ winPois (s.team tid) slot 4 = false ∧
      (s.team tid).winSize < slot + 16 + min (s.win tid slot 4) 8192) (fun _ _ => fltV 6 8 slot) ∧
    StreamFaultsIf (.xldr x m) (fun tid s => held tid s ∧ winPois (s.team tid) slot 4 = true) (fun _ _ => flt 15 1) ∧
    StreamDoesIf (.xldr x m) (fun tid s => mClean tid s m ∧ latched (s.str tid) x.toNat = false ∧
        (s.str tid).taken.find? (fun p => p.1 == mIn tid s m) = some (mIn tid s m, slot) ∧ slot < 2 ^ 32 ∧
        winPois (s.team tid) slot 4 = false ∧ rangePasses tid (slot + 16) (min (s.win tid slot 4) 8192) 1 s)
      (fun tid s t => StreamKept (s.str tid) (t.str tid) ∧ t.mem = s.mem ∧ (t.str tid).z = (s.str tid).z ∧
        (∀ y, y ≠ x.toNat → ∀ i, (t.str tid).xbyte y i = (s.str tid).xbyte y i) ∧
        (windowSettled tid (slot + 16) 8192 s → ∀ i < 8192, (t.str tid).xbyte x.toNat i =
          if i < s.win tid slot 4 then (mget (s.team tid).win (slot + 16 + i)).toNat else 0)) := by
  intro held
  have h := means_xldr m x
  refine ⟨h.faults fun tid s ⟨⟨hm, hl, hf, _⟩, hp, hout⟩ => ⟨rfl, ?_⟩, h.faults fun tid s ⟨⟨hm, hl, hf, _⟩, hp⟩ => ⟨rfl, ?_⟩,
    h.does fun tid s ⟨hm, hl, hf, h32, hp, hr⟩ => ⟨rfl, ?_⟩⟩
  · rw [xldrB_slot hm hl hf, if_neg (by rw [hp]; decide), strRange_outside _ (Nat.mod_one _) hout]
    rfl
  · rw [xldrB_slot hm hl hf, if_pos hp]
  · refine ⟨_, by rw [xldrB_slot hm hl hf, if_neg (by rw [hp]; decide), strRange_passes hr], ?_⟩
    rw [modStr_goes]
    have hu := strEvent_reads s tid []
    generalize hn : min (s.win tid slot 4) 8192 = n at hr ⊢
    have hn8 : n ≤ 8192 := by omega
    obtain ⟨h1, h2, h3, h4, h5⟩ := setX_leaves (t := x.toNat) (tid := tid) hu (s.fresh + 1)
      (strRead (strEvent s tid []).2 tid (slot + 16) n (strEvent s tid []).1 ++ List.replicate (8192 - n) 0)
    rw [show ({ (strEvent s tid []).2 with fresh := s.fresh + 1 } : State).str tid = s.str tid from hu.str tid]
    refine ⟨h1, h2, h3, h4, fun hs i hi => ?_⟩
    have hread := strRead_settled (n := n) (hu.settled hs) (by omega) (by omega) (strEvent s tid []).1
    rw [hu.1.team] at hread
    rw [hread] at h5 ⊢
    rw [h5 i (by rw [List.length_append, mread_length, List.length_replicate]; omega)]
    by_cases hin : i < n
    · rw [List.getD_append _ _ _ _ (by rw [mread_length]; exact hin), getD_mread _ hin, if_pos (by omega)]
    · rw [List.getD_append_right _ _ _ _ (by rw [mread_length]; omega), mread_length, if_neg (by omega)]
      simp [List.getD_replicate]

end Sys2Proof.Machine

/-! O41: the accumulator instructions of the matrix stream (R195 to R198), and the whole statement. -/
namespace Sys2Proof.Machine

/-! ### Numbers that stand one after another -/

section Numbers
variable (w : Nat) (g : Nat → Nat)

theorem length_flatMap_natLe (k : Nat) : ((List.range k).flatMap fun e => natLe w (g e)).length = w * k := by
  induction k with
  | zero => rfl
  | succ k ih => rw [List.range_succ, List.flatMap_append, List.length_append, ih, List.flatMap_singleton, natLe_length, Nat.mul_succ]

theorem getElem?_flatMap_natLe {k e i : Nat} (he : e < k) (hi : i < w) :
    ((List.range k).flatMap fun e => natLe w (g e))[w * e + i]? = some (BitVec.ofNat 8 (g e / 2 ^ (8 * i))) := by
  induction k with
  | zero => exact nomatch he
  | succ k ih =>
    have hlen := length_flatMap_natLe w g k
    rw [List.range_succ, List.flatMap_append, List.flatMap_singleton]
    by_cases hk : e < k
    · have : w * e + w ≤ w * k := by rw [← Nat.mul_succ]; exact Nat.mul_le_mul_left w hk
      rw [List.getElem?_append_left (by omega), ih hk]
    · obtain rfl : e = k := by omega
      rw [List.getElem?_append_right (by omega), hlen, Nat.add_sub_cancel_left, natLe_getElem? _ _ _ hi]

/-- Each of the numbers reads back from where it was written. -/
theorem numAt_flatMap (m : List Host.Cell) (o : Nat) {k e : Nat} (he : e < k) :
    numAt (mwrite m o ((List.range k).flatMap fun e => natLe w (g e))) (o + w * e) w = g e % 2 ^ (8 * w) := by
  have hread : mread (mwrite m o ((List.range k).flatMap fun e => natLe w (g e))) (o + w * e) w = natLe w (g e) := by
    refine mread_eq_natLe fun i hi => ?_
    have hlen := length_flatMap_natLe w g k
    have hek : w * e + w ≤ w * k := by rw [← Nat.mul_succ]; exact Nat.mul_le_mul_left w he
    have hget := getElem?_flatMap_natLe w g he hi
    rw [mget_mwrite, dif_pos ⟨by omega, by omega⟩]
    have hat : o + w * e + i - o = w * e + i := by omega
    refine Option.some.inj ((List.getElem?_eq_getElem _).symm.trans ?_)
    rw [hat, hget]
  unfold numAt
  rw [hread, leNat_natLe]

end Numbers

theorem drop_take_mread (m : List Host.Cell) (o : Nat) {n a k : Nat} (h : a + k ≤ n) : ((mread m o n).drop a).take k = mread m (o + a) k := by
  obtain ⟨j, rfl⟩ := Nat.exists_eq_add_of_le h
  rw [Nat.add_assoc, mread_append, List.drop_left' (mread_length _ _ _), take_mread _ _ (Nat.le_add_right k j)]

/-! ### Checks of the accumulator instructions -/

section Checks
variable {x : Stream} {zs : List Nat} {z tid : Nat} {s : State}

theorem onClosed_opened (k : SAct) (hz : z ∈ zs) (h : (x.tile z).opened = true) : onClosed x zs k = .fault (flt 10 4) :=
  if_pos (List.any_eq_true.mpr ⟨z, hz, h⟩)

theorem onClosed_closed (k : SAct) (h : ∀ z ∈ zs, tileClosed x z) : onClosed x zs k = k := by
  unfold onClosed
  rw [if_neg, if_neg]
  · rw [List.any_eq_true]
    rintro ⟨z, hz, hp⟩
    obtain ⟨p, hp, he⟩ := List.any_eq_true.mp hp
    exact (h z hz).2 p hp (eq_of_beq he)
  · rw [List.any_eq_true]
    rintro ⟨z, hz, ho⟩
    exact absurd ((h z hz).1.symm.trans ho) (by decide)

theorem onUnit_busy (k : SAct) (h : ¬(s.str tid).busy = false) : onUnit tid s k = .wait s .matrix :=
  if_pos (Bool.not_eq_false _ ▸ h)

theorem onUnit_idle (k : SAct) (h : (s.str tid).busy = false) : onUnit tid s k = k := if_neg (by rw [h]; decide)

/-- The address word that ZST and ZLD accept (R196). -/
def AddrOk (fb : Word) (v : Nat) : Prop := v / 2 ^ 19 < 3 ∧ (v / 2 ^ 19 = 0 ∨ fbMode fb ≠ 1)

/-- The bytes of a tile in the format of an address word (R196). -/
def tileBytes (v : Nat) : Nat := 4096 * if v / 2 ^ 19 = 0 then 4 else 2

theorem tileBytes_le (v : Nat) : tileBytes v ≤ 16384 := by
  unfold tileBytes
  split <;> decide

variable {v : Nat} (rd : Bool)

theorem zAddr_bad (hv : v < 2 ^ 32) (h : ¬AddrOk x.fb v) : zAddr s tid x v rd = .error (flt 1 4) := by
  refine if_pos ?_
  unfold AddrOk at h
  unfold bits
  by_cases hm : fbMode x.fb = 1
  · simp only [hm, and_true]
    omega
  · simp only [hm, and_false, or_false]
    omega

theorem zAddr_ok (h : AddrOk x.fb v) : zAddr s tid x v rd = match strRange s tid (v % 2 ^ 19) (tileBytes v) 64 rd with
    | some e => .error e
    | none => .ok (v % 2 ^ 19, v / 2 ^ 19) := by
  obtain ⟨h3, hmode⟩ := h
  have h0 : bits v 0 19 = v % 2 ^ 19 := by unfold bits; omega
  have h19 : bits v 19 2 = v / 2 ^ 19 := by unfold bits; omega
  have h21 : bits v 21 11 = 0 := by unfold bits; omega
  unfold zAddr
  dsimp only
  rw [h0, h19, h21, if_neg]
  · rfl
  · rintro (h | h | ⟨h, hm⟩)
    · exact h rfl
    · omega
    · exact hmode.elim h fun hn => hn hm

theorem zAddr_misaligned (h : AddrOk x.fb v) (hal : v % 2 ^ 19 % 64 ≠ 0) : zAddr s tid x v rd = .error (fltV 5 0 (v % 2 ^ 19)) := by
  rw [zAddr_ok rd h, strRange_misaligned rd hal]

theorem zAddr_outside (h : AddrOk x.fb v) (hal : v % 2 ^ 19 % 64 = 0) (hout : (s.team tid).winSize < v % 2 ^ 19 + tileBytes v) :
    zAddr s tid x v rd = .error (fltV 6 8 (v % 2 ^ 19)) := by
  rw [zAddr_ok rd h, strRange_outside rd hal hout]

theorem zAddr_fits (h : AddrOk x.fb v) (hal : v % 2 ^ 19 % 64 = 0) (hin : v % 2 ^ 19 + tileBytes v ≤ (s.team tid).winSize) :
    zAddr s tid x v false = .ok (v % 2 ^ 19, v / 2 ^ 19) := by
  rw [zAddr_ok _ h, strRange_fits hal hin]

theorem zAddr_passes (h : AddrOk x.fb v) (hr : rangePasses tid (v % 2 ^ 19) (tileBytes v) 64 s) :
    zAddr s tid x v true = .ok (v % 2 ^ 19, v / 2 ^ 19) := by
  rw [zAddr_ok _ h, strRange_passes hr]

end Checks

/-! ### What the bodies are where their checks pass -/

/-- What ZCVT makes of an element (R197). -/
def cvtOf (v : Nat) (_ : Nat) (w : Word) : Word × Nat := if v % 4 = 0 then zcvtF (v / 256) w else zcvtI (v / 256) w
/-- What ZSCL makes of an element (R197). -/
def sclOf (v : Nat) (_ : Nat) (w : Word) : Word × Nat := (BitVec.ofNat 32 (fLdexp f32 0 false (unpack f32 false w.toNat) ((v : Int) - 127)).1, 0)
/-- What ZADD makes of an element (R197). -/
def addOf (x : Stream) (src e : Nat) (w : Word) : Word × Nat :=
  if fbMode x.fb = 1 then
    (BitVec.ofNat 32 (wrapT 0 (clampT 0 (w.toInt + (zAt x src e).toInt))),
      if clampT 0 (w.toInt + (zAt x src e).toInt) ≠ w.toInt + (zAt x src e).toInt then 1 else 0)
  else (BitVec.ofNat 32 (fAdd f32 0 false (unpack f32 false w.toNat) (unpack f32 false (zAt x src e).toNat)).1, 0)
/-- What ZLD reads for an element (R196). -/
def ldOf (f : Nat) (bs : List Byte) (e : Nat) (_ : Word) : Word × Nat :=
  (BitVec.ofNat 32 (if f = 0 then leNat ((bs.drop ((if f = 0 then 4 else 2) * e)).take (if f = 0 then 4 else 2))
    else widenF32 (sfmtTy f) (leNat ((bs.drop ((if f = 0 then 4 else 2) * e)).take (if f = 0 then 4 else 2)))), 0)
/-- The bytes that ZST writes (R196). -/
def stBytes (x : Stream) (z f : Nat) : List Byte := (List.range 4096).flatMap fun e =>
  if f = 0 then natLe 4 (zAt x z e).toNat else natLe 2 (narrowF32 (sfmtTy f) 0 false false (zAt x z e).toNat).1
/-- What ZCLR makes of a stream (R195). -/
def clearedTiles (z n : Nat) (x : Stream) : Stream := (List.range n).foldl (fun y i => y.setTile (z + i) ZTile.empty) x

section Bodies
variable {m : BitVec 4} {z tid : Nat} {s : State} (hm : mClean tid s m)
include hm

theorem zclrB_bad (h : ¬(1 ≤ mIn tid s m ∧ z + mIn tid s m ≤ (s.str tid).tiles)) : zclrB z m.toNat tid s = .fault (flt 1 4) := by
  unfold zclrB
  rw [withM_clean hm, if_pos (by omega)]

theorem zclrB_ok (h : 1 ≤ mIn tid s m ∧ z + mIn tid s m ≤ (s.str tid).tiles) :
    zclrB z m.toNat tid s = onUnit tid s (.done (modStr s tid (clearedTiles z (mIn tid s m)))) := by
  unfold zclrB
  rw [withM_clean hm, if_neg (by omega)]
  rfl

theorem zcvtB_bad (h : ¬(mIn tid s m % 4 ≤ 1 ∧ mIn tid s m / 4 % 64 = 0 ∧ mIn tid s m / 256 % 256 ≠ 0xFF ∧ mIn tid s m < 2 ^ 16)) :
    zcvtB z m.toNat tid s = .fault (flt 1 4) := by
  have hv := mIn_lt tid s m
  unfold zcvtB
  rw [withM_clean hm]
  refine if_pos ?_
  unfold bits
  omega

theorem zcvtB_ok (h : mIn tid s m % 4 ≤ 1 ∧ mIn tid s m / 4 % 64 = 0 ∧ mIn tid s m / 256 % 256 ≠ 0xFF ∧ mIn tid s m < 2 ^ 16) :
    zcvtB z m.toNat tid s = onClosed (s.str tid) [z] (onUnit tid s (.done (modStr s tid fun x => mapTile x z (cvtOf (mIn tid s m))))) := by
  have h0 : bits (mIn tid s m) 0 2 = mIn tid s m % 4 := by unfold bits; omega
  have h8 : bits (mIn tid s m) 8 8 = mIn tid s m / 256 := by unfold bits; omega
  unfold zcvtB
  rw [withM_clean hm]
  dsimp only
  rw [h0, h8, if_neg]
  · rfl
  · unfold bits
    omega

theorem zsclB_bad (h : ¬mIn tid s m < 0xFF) : zsclB z m.toNat tid s = .fault (flt 1 4) := by
  unfold zsclB
  rw [withM_clean hm, if_pos (by omega)]

theorem zsclB_ok (h : mIn tid s m < 0xFF) :
    zsclB z m.toNat tid s = onClosed (s.str tid) [z] (onUnit tid s (.done (modStr s tid fun x => mapTile x z (sclOf (mIn tid s m))))) := by
  unfold zsclB
  rw [withM_clean hm, if_neg (by omega)]
  rfl

theorem zaddB_bad (h : ¬mIn tid s m < (s.str tid).tiles) : zaddB z m.toNat tid s = .fault (flt 1 4) := by
  unfold zaddB
  rw [withM_clean hm, if_pos (by omega)]

theorem zaddB_ok (h : mIn tid s m < (s.str tid).tiles) : zaddB z m.toNat tid s = onClosed (s.str tid) [z, mIn tid s m]
    (onUnit tid s (.done (modStr s tid fun x => mapTile x z (addOf x (mIn tid s m))))) := by
  unfold zaddB
  rw [withM_clean hm, if_neg (by omega)]
  rfl

theorem zstB_error {f : FaultInfo} (h : zAddr s tid (s.str tid) (mIn tid s m) false = .error f) : zstB z m.toNat tid s = .fault f := by
  unfold zstB
  rw [withM_clean hm, h]

theorem zstB_ok {off f : Nat} (h : zAddr s tid (s.str tid) (mIn tid s m) false = .ok (off, f)) :
    zstB z m.toNat tid s = onClosed (s.str tid) [z] (.done (lsWriteAs (strEvent s tid []).2 (streamAgent tid)
      ((strEvent s tid []).2.streamPlace tid) tid off (stBytes (s.str tid) z f) (strEvent s tid []).1)) := by
  unfold zstB
  rw [withM_clean hm, h]
  rfl

theorem zldB_error {f : FaultInfo} (h : zAddr s tid (s.str tid) (mIn tid s m) true = .error f) : zldB z m.toNat tid s = .fault f := by
  unfold zldB
  rw [withM_clean hm, h]

theorem zldB_opened {p : Nat × Nat} (h : zAddr s tid (s.str tid) (mIn tid s m) true = .ok p) (ho : ((s.str tid).tile z).opened = true) :
    zldB z m.toNat tid s = .fault (flt 10 4) := by
  unfold zldB
  rw [withM_clean hm, h]
  exact if_pos ho

theorem zldB_ok {off f : Nat} (h : zAddr s tid (s.str tid) (mIn tid s m) true = .ok (off, f)) (ho : ((s.str tid).tile z).opened = false) :
    zldB z m.toNat tid s = .done (modStr { (strEvent s tid []).2 with fresh := s.fresh + 1 } tid fun x =>
      mapTile x z (ldOf f (strRead (strEvent s tid []).2 tid off (4096 * if f = 0 then 4 else 2) (strEvent s tid []).1))) := by
  unfold zldB
  rw [withM_clean hm, h]
  exact if_neg (by rw [ho]; decide)

end Bodies

/-! ### What an accumulator instruction leaves -/

section Leaves
variable {s u : State} {tid z : Nat} {y : Stream}

/-- The parts of a stream that the accumulator instructions keep. -/
def OthersKept (x y : Stream) : Prop := StreamKept x y ∧ y.x = x.x ∧ y.fb = x.fb ∧ y.sa = x.sa ∧ y.sb = x.sb

theorem tile_next (x : Stream) (t : Nat) : x.next.tile t = x.tile t := rfl
theorem zAt_next (x : Stream) (t e : Nat) : zAt x.next t e = zAt x t e := rfl
theorem mstat_next (x : Stream) : x.next.mstat = x.mstat := rfl
theorem mstatAlso_next {x y : Stream} {c : Prop} (h : mstatAlso x y c) : mstatAlso x y.next c := h

/-- Nothing but tile z, its poison and MSTAT differs of the stream. -/
def OnlyTile (tid z : Nat) (s t : State) : Prop :=
  OthersKept (s.str tid) (t.str tid) ∧ t.mem = s.mem ∧ ∀ y, y ≠ z → (t.str tid).tile y = (s.str tid).tile y

theorem TilesOnly.others (h : TilesOnly (s.str tid) y) : OthersKept (s.str tid) ((strNow u tid y).str tid) := by
  rw [strNow_str]
  exact h.kept

theorem mapTile_onlyTile (hmem : u.mem = s.mem) (f : Nat → Word → Word × Nat) : OnlyTile tid z s (strNow u tid (mapTile (s.str tid) z f)) := by
  refine ⟨(mapTile_only _ z f).others, hmem, fun y hy => ?_⟩
  rw [strNow_str, tile_next]
  exact mapTile_tile_ne _ z f hy

theorem zAt_strNow (f : Nat → Word → Word × Nat) {e : Nat} (he : e < 4096) :
    zAt ((strNow u tid (mapTile (s.str tid) z f)).str tid) z e = (f e (zAt (s.str tid) z e)).1 := by
  rw [strNow_str, zAt_next]
  exact zAt_mapTile _ _ _ he

theorem clearedTiles_leaves (z n : Nat) (x : Stream) : TilesOnly x (clearedTiles z n x) ∧ (clearedTiles z n x).mstat = x.mstat ∧
    ∀ y, (clearedTiles z n x).tile y = if z ≤ y ∧ y < z + n then ZTile.empty else x.tile y := by
  unfold clearedTiles
  induction n with
  | zero => exact ⟨TilesOnly.refl x, rfl, fun y => (if_neg (by omega)).symm⟩
  | succ n ih =>
    obtain ⟨honly, hstat, htile⟩ := ih
    rw [List.range_succ, List.foldl_append, List.foldl_cons, List.foldl_nil]
    refine ⟨honly.trans rfl, hstat, fun y => ?_⟩
    by_cases hy : y = z + n
    · rw [hy, tile_setTile, if_pos (by omega)]
    · rw [tile_setTile_ne _ hy, htile]
      by_cases hin : z ≤ y ∧ y < z + n
      · rw [if_pos hin, if_pos (by omega)]
      · rw [if_neg hin, if_neg (by omega)]

end Leaves

/-! ### The statement's clauses -/

/-- The conditions on the operand of each instruction (R195 to R197). -/
def CvtOk (v : Nat) : Prop := v % 4 ≤ 1 ∧ v / 4 % 64 = 0 ∧ v / 256 % 256 ≠ 0xFF ∧ v < 2 ^ 16
def ClrOk (x : Stream) (z v : Nat) : Prop := 1 ≤ v ∧ z + v ≤ x.tiles

/-- The tile of an instruction exists, and its operand holds no poison. -/
def TileFits (m : BitVec 4) (z : BitVec 8) (tid : Nat) (s : State) : Prop := mClean tid s m ∧ z.toNat < (s.str tid).tiles

section Clauses
variable (m : BitVec 4) (z : BitVec 8)

/-- The address of an access is accepted, aligned and within the window (R196). -/
def AccessPlaced (tid : Nat) (s : State) : Prop :=
  AddrOk (s.str tid).fb (mIn tid s m) ∧ mIn tid s m % 2 ^ 19 % 64 = 0 ∧ mIn tid s m % 2 ^ 19 + tileBytes (mIn tid s m) ≤ (s.team tid).winSize

theorem bad_operand_faults {i : Instr} {ok : Nat → State → Prop} (h : (i, ok) ∈ [(Instr.zcvt z m, fun tid s => CvtOk (mIn tid s m)),
      (.zadd z m, fun tid s => mIn tid s m < (s.str tid).tiles), (.zscl z m, fun tid s => mIn tid s m < 0xFF),
      (.zst z m, fun tid s => AddrOk (s.str tid).fb (mIn tid s m)), (.zld z m, fun tid s => AddrOk (s.str tid).fb (mIn tid s m)),
      (.zclr z m, fun tid s => ClrOk (s.str tid) z.toNat (mIn tid s m))]) :
    StreamFaultsIf i (fun tid s => TileFits m z tid s ∧ ¬ok tid s) (fun _ _ => flt 1 4) := by
  simp only [List.mem_cons, Prod.mk.injEq, List.not_mem_nil, or_false] at h
  rcases h with ⟨rfl, rfl⟩ | ⟨rfl, rfl⟩ | ⟨rfl, rfl⟩ | ⟨rfl, rfl⟩ | ⟨rfl, rfl⟩ | ⟨rfl, rfl⟩
  · exact (means_zcvt m z).faults fun tid s ⟨⟨hm, hz⟩, hbad⟩ => ⟨tilesOk_one z hz, zcvtB_bad hm hbad⟩
  · exact (means_zadd m z).faults fun tid s ⟨⟨hm, hz⟩, hbad⟩ => ⟨tilesOk_one z hz, zaddB_bad hm hbad⟩
  · exact (means_zscl m z).faults fun tid s ⟨⟨hm, hz⟩, hbad⟩ => ⟨tilesOk_one z hz, zsclB_bad hm hbad⟩
  · exact (means_zst m z).faults fun tid s ⟨⟨hm, hz⟩, hbad⟩ => ⟨tilesOk_one z hz, zstB_error hm (zAddr_bad _ (mIn_lt tid s m) hbad)⟩
  · exact (means_zld m z).faults fun tid s ⟨⟨hm, hz⟩, hbad⟩ => ⟨tilesOk_one z hz, zldB_error hm (zAddr_bad _ (mIn_lt tid s m) hbad)⟩
  · exact (means_zclr m z).faults fun tid s ⟨⟨hm, hz⟩, hbad⟩ => ⟨tilesOk_one z hz, zclrB_bad hm hbad⟩

theorem open_block_faults {i : Instr} {ok : Nat → State → Prop} (h : (i, ok) ∈ [(Instr.zcvt z m, fun tid s => CvtOk (mIn tid s m)),
      (.zadd z m, fun tid s => mIn tid s m < (s.str tid).tiles), (.zscl z m, fun tid s => mIn tid s m < 0xFF),
      (.zst z m, AccessPlaced m), (.zld z m, fun tid s => AccessPlaced m tid s ∧
        winPois (s.team tid) (mIn tid s m % 2 ^ 19) (tileBytes (mIn tid s m)) = false)]) :
    StreamFaultsIf i (fun tid s => TileFits m z tid s ∧ ok tid s ∧ ((s.str tid).tile z.toNat).opened = true) (fun _ _ => flt 10 4) := by
  simp only [List.mem_cons, Prod.mk.injEq, List.not_mem_nil, or_false] at h
  rcases h with ⟨rfl, rfl⟩ | ⟨rfl, rfl⟩ | ⟨rfl, rfl⟩ | ⟨rfl, rfl⟩ | ⟨rfl, rfl⟩
  · exact (means_zcvt m z).faults fun tid s ⟨⟨hm, hz⟩, hok, ho⟩ =>
      ⟨tilesOk_one z hz, (zcvtB_ok hm hok).trans (onClosed_opened _ List.mem_cons_self ho)⟩
  · exact (means_zadd m z).faults fun tid s ⟨⟨hm, hz⟩, hok, ho⟩ =>
      ⟨tilesOk_one z hz, (zaddB_ok hm hok).trans (onClosed_opened _ List.mem_cons_self ho)⟩
  · exact (means_zscl m z).faults fun tid s ⟨⟨hm, hz⟩, hok, ho⟩ =>
      ⟨tilesOk_one z hz, (zsclB_ok hm hok).trans (onClosed_opened _ List.mem_cons_self ho)⟩
  · exact (means_zst m z).faults fun tid s ⟨⟨hm, hz⟩, ⟨hok, hal, hin⟩, ho⟩ =>
      ⟨tilesOk_one z hz, (zstB_ok hm (zAddr_fits hok hal hin)).trans (onClosed_opened _ List.mem_cons_self ho)⟩
  · exact (means_zld m z).faults fun tid s ⟨⟨hm, hz⟩, ⟨⟨hok, hal, hin⟩, hp⟩, ho⟩ =>
      ⟨tilesOk_one z hz, zldB_opened hm (zAddr_passes hok ⟨hal, hin, hp⟩) ho⟩

theorem zadd_open_source_faults : StreamFaultsIf (.zadd z m) (fun tid s => TileFits m z tid s ∧ mIn tid s m < (s.str tid).tiles ∧
    ((s.str tid).tile (mIn tid s m)).opened = true) (fun _ _ => flt 10 4) :=
  (means_zadd m z).faults fun tid s ⟨⟨hm, hz⟩, hok, ho⟩ =>
    ⟨tilesOk_one z hz, (zaddB_ok hm hok).trans (onClosed_opened _ (List.mem_cons_of_mem _ List.mem_cons_self) ho)⟩

theorem access_range_checked {i : Instr} (h : i ∈ [Instr.zst z m, .zld z m]) :
    RangeChecked i (fun tid s => TileFits m z tid s ∧ AddrOk (s.str tid).fb (mIn tid s m)) (fun tid s => mIn tid s m % 2 ^ 19)
      (fun tid s => tileBytes (mIn tid s m)) := by
  simp only [List.mem_cons, List.not_mem_nil, or_false] at h
  rcases h with rfl | rfl
  · exact ⟨(means_zst m z).faults fun tid s ⟨⟨⟨hm, hz⟩, hok⟩, hal⟩ => ⟨tilesOk_one z hz, zstB_error hm (zAddr_misaligned _ hok hal)⟩,
      (means_zst m z).faults fun tid s ⟨⟨⟨hm, hz⟩, hok⟩, hal, hout⟩ => ⟨tilesOk_one z hz, zstB_error hm (zAddr_outside _ hok hal hout)⟩⟩
  · exact ⟨(means_zld m z).faults fun tid s ⟨⟨⟨hm, hz⟩, hok⟩, hal⟩ => ⟨tilesOk_one z hz, zldB_error hm (zAddr_misaligned _ hok hal)⟩,
      (means_zld m z).faults fun tid s ⟨⟨⟨hm, hz⟩, hok⟩, hal, hout⟩ => ⟨tilesOk_one z hz, zldB_error hm (zAddr_outside _ hok hal hout)⟩⟩

theorem tileClosed_one {x : Stream} {z : Nat} (h : tileClosed x z) : ∀ y ∈ [z], tileClosed x y := fun _ hy => List.mem_singleton.mp hy ▸ h

theorem tileClosed_two {x : Stream} {z v : Nat} (h : tileClosed x z) (hv : tileClosed x v) : ∀ y ∈ [z, v], tileClosed x y := by
  intro y hy
  rcases List.mem_cons.mp hy with rfl | hy
  · exact h
  · exact tileClosed_one hv y hy

theorem busy_unit_waits {i : Instr} {ok : Nat → State → Prop}
    (h : (i, ok) ∈ [(Instr.zcvt z m, fun tid s => tileClosed (s.str tid) z.toNat ∧ CvtOk (mIn tid s m)),
      (.zscl z m, fun tid s => tileClosed (s.str tid) z.toNat ∧ mIn tid s m < 0xFF),
      (.zadd z m, fun tid s => tileClosed (s.str tid) z.toNat ∧ mIn tid s m < (s.str tid).tiles ∧ tileClosed (s.str tid) (mIn tid s m)),
      (.zclr z m, fun tid s => ClrOk (s.str tid) z.toNat (mIn tid s m))]) :
    StreamWaitsIf i (fun tid s => TileFits m z tid s ∧ ¬(s.str tid).busy = false ∧ ok tid s) (fun _ _ => .matrix) := by
  simp only [List.mem_cons, Prod.mk.injEq, List.not_mem_nil, or_false] at h
  rcases h with ⟨rfl, rfl⟩ | ⟨rfl, rfl⟩ | ⟨rfl, rfl⟩ | ⟨rfl, rfl⟩
  · exact (means_zcvt m z).waits fun tid s ⟨⟨hm, hz⟩, hb, hcl, hok⟩ =>
      ⟨tilesOk_one z hz, by rw [zcvtB_ok hm hok, onClosed_closed _ (tileClosed_one hcl), onUnit_busy _ hb]⟩
  · exact (means_zscl m z).waits fun tid s ⟨⟨hm, hz⟩, hb, hcl, hok⟩ =>
      ⟨tilesOk_one z hz, by rw [zsclB_ok hm hok, onClosed_closed _ (tileClosed_one hcl), onUnit_busy _ hb]⟩
  · exact (means_zadd m z).waits fun tid s ⟨⟨hm, hz⟩, hb, hcl, hok, hsrc⟩ =>
      ⟨tilesOk_one z hz, by rw [zaddB_ok hm hok, onClosed_closed _ (tileClosed_two hcl hsrc), onUnit_busy _ hb]⟩
  · exact (means_zclr m z).waits fun tid s ⟨⟨hm, hz⟩, hb, hok⟩ => ⟨tilesOk_one z hz, by rw [zclrB_ok hm hok, onUnit_busy _ hb]⟩

theorem zclr_clears : StreamDoesIf (.zclr z m)
    (fun tid s => TileFits m z tid s ∧ (s.str tid).busy = false ∧ ClrOk (s.str tid) z.toNat (mIn tid s m))
    (fun tid s t => OthersKept (s.str tid) (t.str tid) ∧ t.mem = s.mem ∧ (t.str tid).mstat = (s.str tid).mstat ∧
      ∀ y, (t.str tid).tile y = if z.toNat ≤ y ∧ y < z.toNat + mIn tid s m then ZTile.empty else (s.str tid).tile y) := by
  refine (means_zclr m z).does fun tid s ⟨⟨hm, hz⟩, hidle, hok⟩ => ⟨tilesOk_one z hz, _, by rw [zclrB_ok hm hok, onUnit_idle _ hidle], ?_⟩
  rw [modStr_goes]
  obtain ⟨honly, hstat, htile⟩ := clearedTiles_leaves z.toNat (mIn tid s m) (s.str tid)
  refine ⟨honly.others, rfl, ?_⟩
  rw [strNow_str]
  exact ⟨hstat, htile⟩

theorem cvtOf_flag (v e : Nat) (w : Word) : (cvtOf v e w).2 = 0 ∨ (cvtOf v e w).2 = 1 := by
  unfold cvtOf
  split
  · exact .inl rfl
  · exact zcvtI_flag _ _

theorem zcvt_converts : StreamDoesIf (.zcvt z m)
    (fun tid s => TileFits m z tid s ∧ (s.str tid).busy = false ∧ tileClosed (s.str tid) z.toNat ∧ CvtOk (mIn tid s m))
    (fun tid s t => OnlyTile tid z.toNat s t ∧
      mstatAlso (s.str tid) (t.str tid) (mIn tid s m % 4 = 1 ∧ ∃ e < 4096, cvtMoved (mIn tid s m / 256) (zAt (s.str tid) z.toNat e)) ∧
      ∀ e < 4096, zAt (t.str tid) z.toNat e = (if mIn tid s m % 4 = 0 then zcvtF (mIn tid s m / 256) (zAt (s.str tid) z.toNat e)
        else zcvtI (mIn tid s m / 256) (zAt (s.str tid) z.toNat e)).1) := by
  refine (means_zcvt m z).does fun tid s ⟨⟨hm, hz⟩, hidle, hcl, hok⟩ => ⟨tilesOk_one z hz, _,
    by rw [zcvtB_ok hm hok, onClosed_closed _ (tileClosed_one hcl), onUnit_idle _ hidle], ?_⟩
  rw [modStr_goes]
  refine ⟨mapTile_onlyTile rfl _, ?_, fun e he => zAt_strNow _ he⟩
  rw [strNow_str]
  refine mstatAlso_next (mapTile_mstatAlso _ _ _ (fun e => cvtOf_flag _ _ _) ?_)
  have hlow := hok.1
  unfold cvtOf cvtMoved
  by_cases h0 : mIn tid s m % 4 = 0
  · simp only [h0, if_true]
    exact ⟨fun ⟨e, _, h⟩ => (nomatch h), fun h => (nomatch h.1)⟩
  · have h1 : mIn tid s m % 4 = 1 := by omega
    simp only [h1, if_false, Nat.one_ne_zero, true_and]

theorem zscl_scales : StreamDoesIf (.zscl z m)
    (fun tid s => TileFits m z tid s ∧ (s.str tid).busy = false ∧ tileClosed (s.str tid) z.toNat ∧ mIn tid s m < 0xFF)
    (fun tid s t => OnlyTile tid z.toNat s t ∧ (t.str tid).mstat = (s.str tid).mstat ∧
      ∀ e < 4096, zAt (t.str tid) z.toNat e = BitVec.ofNat 32 (fLdexp f32 0 false (unpack f32 false (zAt (s.str tid) z.toNat e).toNat)
        ((mIn tid s m : Int) - 127)).1) := by
  refine (means_zscl m z).does fun tid s ⟨⟨hm, hz⟩, hidle, hcl, hok⟩ => ⟨tilesOk_one z hz, _,
    by rw [zsclB_ok hm hok, onClosed_closed _ (tileClosed_one hcl), onUnit_idle _ hidle], ?_⟩
  rw [modStr_goes]
  refine ⟨mapTile_onlyTile rfl _, ?_, fun e he => zAt_strNow _ he⟩
  rw [strNow_str, mstat_next]
  exact mapTile_mstat_same _ _ _ fun e => rfl

theorem addOf_flag (x : Stream) (src e : Nat) (w : Word) : (addOf x src e w).2 = 0 ∨ (addOf x src e w).2 = 1 := by
  unfold addOf
  split
  · dsimp only
    split
    · exact .inr rfl
    · exact .inl rfl
  · exact .inl rfl

theorem zadd_adds : StreamDoesIf (.zadd z m)
    (fun tid s => TileFits m z tid s ∧ (s.str tid).busy = false ∧ tileClosed (s.str tid) z.toNat ∧ mIn tid s m < (s.str tid).tiles ∧
      tileClosed (s.str tid) (mIn tid s m))
    (fun tid s t => OnlyTile tid z.toNat s t ∧
      mstatAlso (s.str tid) (t.str tid) (fbMode (s.str tid).fb = 1 ∧ ∃ e < 4096,
        (zAt (s.str tid) z.toNat e).toInt + (zAt (s.str tid) (mIn tid s m) e).toInt < -(2 ^ 31) ∨
        2 ^ 31 - 1 < (zAt (s.str tid) z.toNat e).toInt + (zAt (s.str tid) (mIn tid s m) e).toInt) ∧
      ∀ e < 4096, zAt (t.str tid) z.toNat e =
        if fbMode (s.str tid).fb = 1 then BitVec.ofInt 32 (max (-(2 ^ 31 : Int)) (min (2 ^ 31 - 1)
          ((zAt (s.str tid) z.toNat e).toInt + (zAt (s.str tid) (mIn tid s m) e).toInt)))
        else BitVec.ofNat 32 (fAdd f32 0 false (unpack f32 false (zAt (s.str tid) z.toNat e).toNat)
          (unpack f32 false (zAt (s.str tid) (mIn tid s m) e).toNat)).1) := by
  refine (means_zadd m z).does fun tid s ⟨⟨hm, hz⟩, hidle, hcl, hok, hsrc⟩ => ⟨tilesOk_one z hz, _,
    by rw [zaddB_ok hm hok, onClosed_closed _ (tileClosed_two hcl hsrc), onUnit_idle _ hidle], ?_⟩
  rw [modStr_goes]
  refine ⟨mapTile_onlyTile rfl _, ?_, fun e he => (zAt_strNow _ he).trans ?_⟩
  · rw [strNow_str]
    refine mstatAlso_next (mapTile_mstatAlso _ _ _ (fun e => addOf_flag _ _ _ _) ?_)
    unfold addOf
    by_cases hmode : fbMode (s.str tid).fb = 1
    · simp only [hmode, if_true, true_and]
      refine exists_congr fun e => and_congr_right fun _ => ?_
      rw [← clampT_s32_ne]
      split <;> simp_all
    · simp only [hmode, if_false, false_and]
      exact ⟨fun ⟨e, _, h⟩ => (nomatch h), False.elim⟩
  · unfold addOf
    split
    · rw [wrapT_s32, clampT_s32]
    · rfl

/-- What ZLD makes of an element, from the bytes of a settled window (R196). -/
theorem ldOf_settled (win : List Host.Cell) (o : Nat) {v e : Nat} (he : e < 4096) (w : Word) :
    (v / 2 ^ 19 = 0 → (ldOf (v / 2 ^ 19) (mread win o (tileBytes v)) e w).1.toNat = numAt win (o + 4 * e) 4) ∧
    (v / 2 ^ 19 ≠ 0 → (ldOf (v / 2 ^ 19) (mread win o (tileBytes v)) e w).1.toNat =
      widenF32 (sfmtTy (v / 2 ^ 19)) (numAt win (o + 2 * e) 2)) := by
  unfold ldOf tileBytes
  constructor
  · intro h0
    have hlt := numAt_lt win (o + 4 * e) 4
    simp only [h0, if_true]
    rw [drop_take_mread _ _ (by omega), BitVec.toNat_ofNat]
    exact Nat.mod_eq_of_lt hlt
  · intro h0
    simp only [h0, if_false]
    rw [drop_take_mread _ _ (by omega), BitVec.toNat_ofNat]
    exact Nat.mod_eq_of_lt (widenF32_lt _ _)

theorem zld_loads : StreamDoesIf (.zld z m) (fun tid s => TileFits m z tid s ∧ ((s.str tid).tile z.toNat).opened = false ∧
      AddrOk (s.str tid).fb (mIn tid s m) ∧ rangePasses tid (mIn tid s m % 2 ^ 19) (tileBytes (mIn tid s m)) 64 s)
    (fun tid s t => OnlyTile tid z.toNat s t ∧ (t.str tid).mstat = (s.str tid).mstat ∧
      (windowSettled tid (mIn tid s m % 2 ^ 19) (tileBytes (mIn tid s m)) s → ∀ e < 4096,
        (mIn tid s m / 2 ^ 19 = 0 → (zAt (t.str tid) z.toNat e).toNat = s.win tid (mIn tid s m % 2 ^ 19 + 4 * e) 4) ∧
        (mIn tid s m / 2 ^ 19 ≠ 0 → (zAt (t.str tid) z.toNat e).toNat =
          widenF32 (sfmtTy (mIn tid s m / 2 ^ 19)) (s.win tid (mIn tid s m % 2 ^ 19 + 2 * e) 2)))) := by
  refine (means_zld m z).does fun tid s ⟨⟨hm, hz⟩, hcl, hok, hr⟩ => ⟨tilesOk_one z hz, _, by rw [zldB_ok hm (zAddr_passes hok hr) hcl], ?_⟩
  rw [modStr_goes]
  have hu := strEvent_reads s tid []
  rw [show ({ (strEvent s tid []).2 with fresh := s.fresh + 1 } : State).str tid = s.str tid from hu.str tid]
  refine ⟨mapTile_onlyTile hu.1.mem _, ?_, fun hs e he => ?_⟩
  · rw [strNow_str, mstat_next]
    exact mapTile_mstat_same _ _ _ fun e => rfl
  · rw [zAt_strNow _ he]
    have hsize := tileBytes_le (mIn tid s m)
    have hread := strRead_settled (n := tileBytes (mIn tid s m)) (hu.settled hs)
      (by unfold tileBytes; split <;> decide) (by omega) (strEvent s tid []).1
    rw [hu.1.team] at hread
    rw [show 4096 * (if mIn tid s m / 2 ^ 19 = 0 then 4 else 2) = tileBytes (mIn tid s m) from rfl, hread]
    exact ldOf_settled _ _ he _

/-- The bytes that ZST writes, as numbers of one width. -/
theorem stBytes_eq (x : Stream) (z f : Nat) : stBytes x z f = (List.range 4096).flatMap fun e => natLe (if f = 0 then 4 else 2)
    (if f = 0 then (zAt x z e).toNat else (narrowF32 (sfmtTy f) 0 false false (zAt x z e).toNat).1) := by
  unfold stBytes
  refine List.flatMap_congr fun e _ => ?_
  split <;> rfl

theorem stBytes_length (x : Stream) (z v : Nat) : (stBytes x z (v / 2 ^ 19)).length = tileBytes v := by
  rw [stBytes_eq, length_flatMap_natLe, Nat.mul_comm]
  rfl

theorem sfmtTy_half (f : Nat) : sfmtTy f = 3 ∨ sfmtTy f = 4 := by
  unfold sfmtTy
  split
  · exact .inr rfl
  · exact .inl rfl

theorem stBytes_reads (win : List Host.Cell) (o : Nat) (x : Stream) (z f : Nat) {e : Nat} (he : e < 4096) :
    (f = 0 → numAt (mwrite win o (stBytes x z f)) (o + 4 * e) 4 = (zAt x z e).toNat) ∧
    (f ≠ 0 → numAt (mwrite win o (stBytes x z f)) (o + 2 * e) 2 = (narrowF32 (sfmtTy f) 0 false false (zAt x z e).toNat).1) := by
  rw [stBytes_eq]
  constructor
  · intro h0
    simp only [h0, if_true]
    rw [numAt_flatMap _ _ _ _ he]
    exact Nat.mod_eq_of_lt (zAt x z e).isLt
  · intro h0
    simp only [h0, if_false]
    rw [numAt_flatMap _ _ _ _ he]
    exact Nat.mod_eq_of_lt (narrowF32_lt (sfmtTy_half f) _ _ _ _)

theorem zst_stores : StreamDoesIf (.zst z m)
    (fun tid s => TileFits m z tid s ∧ tileClosed (s.str tid) z.toNat ∧ AccessPlaced m tid s)
    (fun tid s t => OthersKept (s.str tid) (t.str tid) ∧ t.mem = s.mem ∧ (t.str tid).z = (s.str tid).z ∧ (t.str tid).mstat = (s.str tid).mstat ∧
      (∀ e < 4096, (mIn tid s m / 2 ^ 19 = 0 → t.win tid (mIn tid s m % 2 ^ 19 + 4 * e) 4 = (zAt (s.str tid) z.toNat e).toNat) ∧
        (mIn tid s m / 2 ^ 19 ≠ 0 → t.win tid (mIn tid s m % 2 ^ 19 + 2 * e) 2 =
          (narrowF32 (sfmtTy (mIn tid s m / 2 ^ 19)) 0 false false (zAt (s.str tid) z.toNat e).toNat).1)) ∧
      (∀ q, q < mIn tid s m % 2 ^ 19 ∨ mIn tid s m % 2 ^ 19 + tileBytes (mIn tid s m) ≤ q →
        mget (t.team tid).win q = mget (s.team tid).win q) ∧
      ∀ u, u ≠ tid → t.team u = s.team u) := by
  refine (means_zst m z).does fun tid s ⟨⟨hm, hz⟩, hcl, hok, hal, hin⟩ => ⟨tilesOk_one z hz, _,
    by rw [zstB_ok hm (zAddr_fits hok hal hin), onClosed_closed _ (tileClosed_one hcl)], ?_⟩
  have hu := strEvent_reads s tid []
  have hnow := lsWriteAs_now (strEvent s tid []).2 (streamAgent tid) ((strEvent s tid []).2.streamPlace tid) (tid := tid)
    (o := mIn tid s m % 2 ^ 19) (stBytes (s.str tid) z.toNat (mIn tid s m / 2 ^ 19)) (strEvent s tid []).1 (by omega)
  generalize lsWriteAs (strEvent s tid []).2 (streamAgent tid) ((strEvent s tid []).2.streamPlace tid) tid (mIn tid s m % 2 ^ 19)
    (stBytes (s.str tid) z.toNat (mIn tid s m / 2 ^ 19)) (strEvent s tid []).1 = u at hnow
  have hstr : u.str tid = s.str tid := (congrArg Team.str hnow.here).trans (hu.str tid)
  have hwin : ((strNow u tid (s.str tid)).team tid).win =
      mwrite (s.team tid).win (mIn tid s m % 2 ^ 19) (stBytes (s.str tid) z.toNat (mIn tid s m / 2 ^ 19)) := by
    rw [strNow_win, hnow.win_eq, hu.1.team]
  rw [hstr]
  change OthersKept (s.str tid) ((strNow u tid (s.str tid)).str tid) ∧ _
  refine ⟨(TilesOnly.refl _).others, hnow.only.mem.trans hu.1.mem, ?_, ?_, fun e he => ?_, fun q hq => ?_, fun t ht => ?_⟩
  · exact (congrArg Stream.z (strNow_str u tid (s.str tid)) :)
  · exact (congrArg Stream.mstat (strNow_str u tid (s.str tid)) :)
  · unfold State.win
    rw [show u.setStr tid (s.str tid).next = strNow u tid (s.str tid) from rfl, hwin]
    exact stBytes_reads _ _ _ _ _ he
  · rw [show u.setStr tid (s.str tid).next = strNow u tid (s.str tid) from rfl, hwin]
    exact mget_mwrite_outside _ (by rw [stBytes_length]; exact hq)
  · exact (strNow_others u tid (s.str tid) ht).trans ((hnow.others t ht).trans (hu.1.team t))

end Clauses

/-- Settles O41: each instruction's checks read its operand alone, and what passes them is one change of an operand tile, of an accumulator
tile element by element, or of the window, of which the other tiles, registers and bytes know nothing. -/
theorem matrixRegistersAndTiles : Obligations.MatrixRegistersAndTiles := by
  unfold Obligations.MatrixRegistersAndTiles
  intro m
  obtain ⟨hfb, hfbBad⟩ := fbset_settles m
  refine ⟨hfb, hfbBad, fun x => ?_, fun z => ?_⟩
  · obtain ⟨hxld, hxldRange⟩ := xld_settles x m
    exact ⟨(means_xld m x).faults fun tid s ⟨hm, hl⟩ => ⟨rfl, xldB_latched hm hl⟩,
      (means_xldr m x).faults fun tid s ⟨hm, hl⟩ => ⟨rfl, xldrB_latched hm hl⟩, hxld, hxldRange, fun slot => xldr_settles x m slot,
      (means_xldr m x).faults fun tid s ⟨hm, hl, hn⟩ => ⟨rfl, xldrB_no_slot hm hl hn⟩⟩
  · exact ⟨fun i ok => bad_operand_faults m z, fun i ok => open_block_faults m z, zadd_open_source_faults m z, fun i => access_range_checked m z,
      fun i ok => busy_unit_waits m z, zclr_clears m z, zcvt_converts m z, zadd_adds m z, zscl_scales m z, zld_loads m z, zst_stores m z⟩

end Sys2Proof.Machine

/-! A matrix product as the model runs it: the elements it reads, the tiles it writes, and what it leaves of the stream (R189 to R194). -/
namespace Sys2Proof.Machine

/-! ### Shapes -/

/-- What the four shapes of the product have in common (R189). -/
structure Shape.Sound (sh : Shape) : Prop where
  row : ∀ y < sh.c, ∀ e < 4096, 64 * (y / (sh.n / 64)) + e / 64 < sh.m
  col : ∀ e < 4096, ∀ y, 64 * (y % (sh.n / 64)) + e % 64 < sh.n
  depth : 64 ∣ sh.k
  deep : sh.k ≤ 128
  some_k : 0 < sh.k
  wide : sh.n ≤ 128
  size : sh.m * sh.k ≤ 16384

theorem elBits_le (f : Nat) : elBits f ≤ 16 := by
  unfold elBits
  split <;> decide

section Shapes
variable {sh : Shape} (hs : sh.Sound) (fb : Word)
include hs

theorem effK_dvd : 64 ∣ effK sh fb := by
  unfold effK
  split
  · exact Dvd.dvd.mul_left hs.depth 2
  · exact hs.depth

theorem effK_pos : 0 < effK sh fb := by
  have := hs.some_k
  unfold effK
  split <;> omega

theorem effK_le : effK sh fb ≤ 256 := by
  have := hs.deep
  unfold effK
  split <;> omega

theorem aBits_le : sh.m * effK sh fb * elBits (fbA fb) ≤ 262144 := by
  unfold effK
  split
  case isTrue h =>
    have := hs.size
    rw [h.1, show elBits 2 = 4 from rfl]
    calc sh.m * (2 * sh.k) * 4 = 8 * (sh.m * sh.k) := by ring
      _ ≤ 262144 := by omega
  case isFalse h =>
    calc sh.m * sh.k * elBits (fbA fb) ≤ 16384 * 16 := Nat.mul_le_mul hs.size (elBits_le _)
      _ ≤ 262144 := by decide

theorem aTiles_lt : aTiles sh fb < 8 := by
  have := aBits_le hs fb
  unfold aTiles
  omega

theorem bRows_le : bRows sh fb ≤ 8 := by
  have h : effK sh fb * elBits (fbB fb) ≤ 256 * 16 := Nat.mul_le_mul (effK_le hs fb) (elBits_le _)
  unfold bRows
  omega

/-- The bytes of B. -/
theorem bBytes_le : 64 * bRows sh fb * sh.n ≤ 65536 := by
  calc 64 * bRows sh fb * sh.n ≤ 64 * 8 * 128 := Nat.mul_le_mul (Nat.mul_le_mul_left _ (bRows_le hs fb)) hs.wide
    _ = 65536 := by decide

end Shapes

/-! ### Elements -/

/-- An element is read from the bytes of its row alone (R190, R204). -/
theorem elemAt_congr {f : Nat} {rd rd' : Nat → Nat} {base k K : Nat} (hk : k < K) (hK : 64 ∣ K)
    (h : ∀ q, base ≤ q → q < base + K * elBits f / 8 → rd q = rd' q) : elemAt f rd base k = elemAt f rd' base k := by
  obtain ⟨j, rfl⟩ := hK
  unfold elemAt elBits at *
  split at h
  · rw [h _ (by omega) (by omega)]
  · dsimp only
    rw [h _ (by omega) (by omega), h (base + 3 * (k / 4) + 1) (by omega) (by omega), h (base + 3 * (k / 4) + 2) (by omega) (by omega)]
  · rw [h _ (by omega) (by omega)]
  · rw [h _ (by omega) (by omega), h (base + 2 * k + 1) (by omega) (by omega)]

theorem getD_toArray_map_range {α : Type} (f : Nat → α) (n : Nat) (d : α) {i : Nat} (h : i < n) :
    (((List.range n).map f).toArray).getD i d = f i := by
  simp [Array.getD, h]

theorem row_index {i k K : Nat} (h : k < K) : (i * K + k) / K = i ∧ (i * K + k) % K = k := by
  constructor
  · rw [Nat.mul_comm, Nat.mul_add_div (by omega), Nat.div_eq_of_lt h, Nat.add_zero]
  · rw [Nat.mul_comm, Nat.mul_add_mod, Nat.mod_eq_of_lt h]

theorem row_index_lt {i k K m : Nat} (hi : i < m) (hk : k < K) : i * K + k < m * K :=
  calc i * K + k < i * K + K := Nat.add_lt_add_left hk _
    _ = (i + 1) * K := (Nat.succ_mul i K).symm
    _ ≤ m * K := Nat.mul_le_mul_right K hi

/-- The elements of the rows of an operand, as the product holds them. -/
def rowElems (f : Nat) (rd : Nat → Nat) (rows K stride : Nat) : Array Int :=
  ((List.range (rows * K)).map fun j => elemAt f rd (j / K * stride) (j % K)).toArray

theorem rowElems_getD (f : Nat) (rd : Nat → Nat) {rows K stride i k : Nat} (hi : i < rows) (hk : k < K) :
    (rowElems f rd rows K stride).getD (i * K + k) 0 = elemAt f rd (i * stride) k := by
  unfold rowElems
  rw [getD_toArray_map_range _ _ _ (row_index_lt hi hk), (row_index hk).1, (row_index hk).2]

/-- The bytes of A's x tiles, in order. -/
def aBytes (x : Stream) (sh : Shape) (a : Nat) : Array Nat :=
  ((List.range (8192 * aTiles sh x.fb)).map fun i => x.xbyte (a + i / 8192) (i % 8192)).toArray

def bBytes (bb : List Byte) : Array Nat := (bb.map (·.toNat)).toArray

theorem bBytes_mread (m : List Host.Cell) (o : Nat) {n i : Nat} (h : i < n) : (bBytes (mread m o n)).getD i 0 = (mget m (o + i)).toNat := by
  unfold bBytes
  rw [mread_eq, List.map_map]
  exact getD_toArray_map_range _ _ _ h

section Rows
variable {sh : Shape} (hs : sh.Sound) (x : Stream)
include hs

/-- The rows of A are within its x tiles. -/
theorem aRow_le {i : Nat} (hi : i < sh.m) :
    i * (effK sh x.fb * elBits (fbA x.fb) / 8) + effK sh x.fb * elBits (fbA x.fb) / 8 ≤ 8192 * aTiles sh x.fb := by
  obtain ⟨j, hj⟩ := effK_dvd hs x.fb
  have h1 : i * (effK sh x.fb * elBits (fbA x.fb) / 8) + effK sh x.fb * elBits (fbA x.fb) / 8 ≤
      sh.m * (effK sh x.fb * elBits (fbA x.fb) / 8) := by
    rw [← Nat.succ_mul]
    exact Nat.mul_le_mul_right _ hi
  have h2 : sh.m * (effK sh x.fb * elBits (fbA x.fb) / 8) * 8 ≤ sh.m * effK sh x.fb * elBits (fbA x.fb) := by
    rw [Nat.mul_assoc, Nat.mul_assoc]
    exact Nat.mul_le_mul_left _ (Nat.div_mul_le_self _ _)
  unfold aTiles
  omega

theorem aElem_held (a : Nat) {i k : Nat} (hi : i < sh.m) (hk : k < effK sh x.fb) :
    (rowElems (fbA x.fb) (fun q => (aBytes x sh a).getD q 0) sh.m (effK sh x.fb) (effK sh x.fb * elBits (fbA x.fb) / 8)).getD
      (i * effK sh x.fb + k) 0 = aElem x sh a i k := by
  rw [rowElems_getD _ _ hi hk]
  refine elemAt_congr hk (effK_dvd hs x.fb) fun q _ hq => ?_
  have := aRow_le hs x hi
  exact getD_toArray_map_range _ _ _ (by omega)

theorem bElem_held (win : List Host.Cell) (o : Nat) {n k : Nat} (hn : n < sh.n) (hk : k < effK sh x.fb) :
    (rowElems (fbB x.fb) (fun q => (bBytes (mread win o (64 * bRows sh x.fb * sh.n))).getD q 0) sh.n (effK sh x.fb)
      (64 * bRows sh x.fb)).getD (n * effK sh x.fb + k) 0 = bElem x sh (fun i => (mget win (o + i)).toNat) n k := by
  rw [rowElems_getD _ _ hn hk]
  refine elemAt_congr hk (effK_dvd hs x.fb) fun q _ hq => bBytes_mread win o ?_
  have hrow : n * (64 * bRows sh x.fb) + 64 * bRows sh x.fb ≤ 64 * bRows sh x.fb * sh.n := by
    rw [← Nat.succ_mul, Nat.mul_comm _ sh.n]
    exact Nat.mul_le_mul_right _ hn
  have hbits : effK sh x.fb * elBits (fbB x.fb) / 8 ≤ 64 * bRows sh x.fb := by
    unfold bRows
    omega
  omega

end Rows

/-! ### Blocks (R192) -/

section Blocks
variable {mode L p : Nat} {ab ab' : Nat → Int} {ea eb : Nat → Nat}

theorem dotBlocks_congr {K : Nat} (h : ∀ k < K, ab k = ab' k) (st : Int × Word × Nat) :
    dotBlocks mode L p ab ea eb K st = dotBlocks mode L p ab' ea eb K st := by
  induction K with
  | zero => rfl
  | succ K ih => rw [dotBlocks, dotBlocks, ih fun k hk => h k (Nat.lt_succ_of_lt hk), h K (Nat.lt_succ_self K)]

theorem dotBlocks_step {k : Nat} {st : Int × Word × Nat} {P : Int} {acc : Word} {ms : Nat}
    (h : dotBlocks mode L p ab ea eb k st = (P, acc, ms)) :
    dotBlocks mode L p ab ea eb (k + 1) st = if (p + k + 1) % L ≠ 0 then (P + ab k, acc, ms) else
      let r := blockInto mode acc (P + ab k) (ea ((p + k + 1) / L - 1)) (eb ((p + k + 1) / L - 1))
      (0, r.1, Nat.lor ms r.2) := by
  rw [dotBlocks, h]
  exact (ite_not ..).symm

/-- Within one block nothing but the partial sum changes. -/
theorem dotBlocks_within {K : Nat} (hK : p + K < L) (P : Int) (acc : Word) :
    dotBlocks mode L p ab ea eb K (P, acc, 0) = (P + ((List.range K).map ab).sum, acc, 0) := by
  induction K with
  | zero => rw [List.range_zero, List.map_nil, List.sum_nil, Int.add_zero]; rfl
  | succ K ih =>
    rw [dotBlocks_step (ih (by omega)), if_pos (by rw [Nat.mod_eq_of_lt (by omega)]; omega), List.range_succ, List.map_append, List.sum_append,
      List.map_singleton, List.sum_singleton, Int.add_assoc]

end Blocks

/-! ### The tiles that a product writes -/

/-- The results of one tile, by element. -/
def tileResults (out : Nat → Nat → Int × Word × Nat) (l : List Nat) (t : Nat) : List (Nat × Int × Word × Nat) := l.map fun e => (e, out t e)

/-- A tile after a product: its elements, and its open block where one is left (R192). -/
def productTile (pos : Nat) (par : List Nat) (rs : List (Nat × Int × Word × Nat)) : ZTile :=
  if pos = 0 then ⟨sparse 0 (fun r => r.2.1) rs, false, 0, [], []⟩ else ⟨sparse 0 (fun r => r.2.1) rs, true, pos, par, sparse 0 (fun r => r.1) rs⟩

def productStat (rs : List (Nat × Int × Word × Nat)) : Nat := rs.foldl (fun m r => Nat.lor m r.2.2.2) 0

/-- The output tiles, one after another. -/
def productTiles (z c : Nat) (tile : Nat → ZTile) (stat : Nat → Nat) (x : Stream) : Stream :=
  (List.range c).foldl (fun y t => { y.setTile (z + t) (tile t) with mstat := y.mstat ||| BitVec.ofNat 32 (stat t) }) x

section ProductTiles
variable (z : Nat) (tile : Nat → ZTile) (stat : Nat → Nat) (x : Stream)

theorem productTiles_succ (c : Nat) : productTiles z (c + 1) tile stat x =
    { (productTiles z c tile stat x).setTile (z + c) (tile c) with
      mstat := (productTiles z c tile stat x).mstat ||| BitVec.ofNat 32 (stat c) } := by
  unfold productTiles
  rw [List.range_succ, List.foldl_append]
  rfl

theorem productTiles_only (c : Nat) : TilesOnly x (productTiles z c tile stat x) := by
  induction c with
  | zero => exact TilesOnly.refl x
  | succ c ih =>
    rw [productTiles_succ]
    exact ih.trans rfl

theorem productTiles_outside (c : Nat) {y : Nat} (h : y < z ∨ z + c ≤ y) : (productTiles z c tile stat x).tile y = x.tile y := by
  induction c with
  | zero => rfl
  | succ c ih =>
    rw [productTiles_succ]
    exact (tile_setTile_ne _ (by omega) _).trans (ih (by omega))

theorem productTiles_tile {c y : Nat} (h : y < c) : (productTiles z c tile stat x).tile (z + y) = tile y := by
  induction c with
  | zero => exact nomatch h
  | succ c ih =>
    rw [productTiles_succ]
    by_cases hy : y = c
    · rw [hy]
      exact tile_setTile _ _ _
    · exact (tile_setTile_ne _ (by omega) _).trans (ih (by omega))

theorem productTiles_mstat (c : Nat) {i : Nat} (hi : i < 32) : (productTiles z c tile stat x).mstat.getLsbD i = true ↔
    x.mstat.getLsbD i = true ∨ ∃ y < c, (stat y).testBit i = true := by
  induction c with
  | zero => exact ⟨.inl, fun h => h.elim id fun ⟨_, h, _⟩ => (nomatch h)⟩
  | succ c ih =>
    rw [productTiles_succ, or_ofNat_getLsbD _ _ hi, ih, or_assoc]
    refine or_congr_right ⟨?_, fun ⟨y, hy, h⟩ => ?_⟩
    · rintro (⟨y, hy, h⟩ | h)
      · exact ⟨y, Nat.lt_succ_of_lt hy, h⟩
      · exact ⟨c, Nat.lt_succ_self c, h⟩
    · by_cases hc : y = c
      · exact .inr (hc ▸ h)
      · exact .inl ⟨y, by omega, h⟩

end ProductTiles

section Results
variable (out : Nat → Nat → Int × Word × Nat) (l : List Nat) (t pos : Nat) (par : List Nat)

theorem productTile_block : (productTile pos par (tileResults out l t)).opened = decide (pos ≠ 0) ∧
    (productTile pos par (tileResults out l t)).pos = pos := by
  unfold productTile
  by_cases h : pos = 0
  · rw [if_pos h, h]
    exact ⟨rfl, rfl⟩
  · rw [if_neg h]
    exact ⟨(decide_eq_true h).symm, rfl⟩

theorem productTile_el {e : Nat} (he : e ∈ l) : aget 0 e (productTile pos par (tileResults out l t)).el = (out t e).2.1 := by
  have h := (aget_sparse 0 (fun r : Int × Word × Nat => r.2.1) (out t) l e).trans (if_pos he)
  unfold productTile
  split
  · exact h
  · exact h

theorem productTile_sums {e : Nat} (he : e ∈ l) (hpos : pos ≠ 0) : aget 0 e (productTile pos par (tileResults out l t)).sums = (out t e).1 := by
  unfold productTile
  rw [if_neg hpos]
  exact (aget_sparse 0 (fun r : Int × Word × Nat => r.1) (out t) l e).trans (if_pos he)

theorem productStat_bit (i : Nat) : (productStat (tileResults out l t)).testBit i = true ↔ ∃ e ∈ l, (out t e).2.2.testBit i = true := by
  unfold productStat tileResults
  rw [foldl_lor_testBit (fun r : Nat × Int × Word × Nat => r.2.2.2), Nat.zero_testBit]
  simp

end Results

/-! ### The product -/

/-- What a product makes of one element of an output tile (R192). -/
def mmaOut (x : Stream) (sh : Shape) (z a p : Nat) (bb : List Byte) (t e : Nat) : Int × Word × Nat :=
  dotBlocks (fbMode x.fb) (32 * 2 ^ fbL x.fb) p
    (fun k =>
      (rowElems (fbA x.fb) (fun q => (aBytes x sh a).getD q 0) sh.m (effK sh x.fb) (effK sh x.fb * elBits (fbA x.fb) / 8)).getD
        ((64 * (t / (sh.n / 64)) + e / 64) * effK sh x.fb + k) 0 *
      (rowElems (fbB x.fb) (fun q => (bBytes bb).getD q 0) sh.n (effK sh x.fb) (64 * bRows sh x.fb)).getD
        ((64 * (t % (sh.n / 64)) + e % 64) * effK sh x.fb + k) 0)
    (fun j => (((x.sa.head?.map (·.bytes)).getD []).getD (j * sh.m + (64 * (t / (sh.n / 64)) + e / 64)) 0).toNat)
    (fun j => (((x.sb.head?.map (·.bytes)).getD []).getD (j * sh.n + (64 * (t % (sh.n / 64)) + e % 64)) 0).toNat) (effK sh x.fb)
    (aget 0 e (x.tile (z + t)).sums, aget 0 e (x.tile (z + t)).el, 0)

/-- The stream with the product's output tiles, the unit busy and the latch set. -/
def mmaHeld (x : Stream) (sh : Shape) (z a p : Nat) (reuse : Bool) (bb : List Byte) (l : List Nat) : Stream :=
  { productTiles z sh.c (fun t => productTile ((p + effK sh x.fb) % (32 * 2 ^ fbL x.fb)) (fbPar x.fb) (tileResults (mmaOut x sh z a p bb) l t))
      (fun t => productStat (tileResults (mmaOut x sh z a p bb) l t)) x with
    busy := true, latch := if reuse then some (a * 8 + aTiles sh x.fb) else none }

/-- The stream whose oldest scale batches are taken where blocks were completed (R192). -/
def takeBatches (nb : Nat) (fb : Word) (x : Stream) : Stream :=
  if nb = 0 then x else { x with sa := x.sa.drop 1, sb := x.sb.drop 1, fb := BitVec.ofNat 16 (fbTag fb + 1) ++ fb.extractLsb' 0 16 }

theorem mmaRun_eq (x : Stream) (sh : Shape) (z a p nb : Nat) (reuse : Bool) (bb : List Byte) :
    mmaRun x sh z a p nb reuse bb = takeBatches nb x.fb (mmaHeld x sh z a p reuse bb (List.range 4096)) := rfl

end Sys2Proof.Machine

/-! O42: the products of the matrix stream (R189 to R194, R208 to R212). -/
namespace Sys2Proof.Machine

/-! ### The checks of tiles and batches (R192) -/

theorem fbPar_fields (w : Word) : fbPar w = [w.toNat % 16, w.toNat / 16 % 16, w.toNat / 256 % 8, w.toNat / 2048 % 2] := by
  have hlow : fbPar w = [w.toNat / 1 % 16, w.toNat / 16 % 16, w.toNat / 256 % 8, w.toNat / 2048 % 2] := rfl
  rw [hlow, Nat.div_one]

theorem fbTag_field (w : Word) : fbTag w = (w.extractLsb' 16 16).toNat := by
  unfold fbTag bits
  rw [BitVec.extractLsb'_toNat, Nat.shiftRight_eq_div_pow]

section Check
variable {x : Stream} {sh : Shape} {z : Nat}

theorem blockChanged_iff : (((List.range sh.c).map fun i => x.tile (z + i)).any fun t =>
      (t.opened && t.par != fbPar x.fb) || t.opened != (x.tile z).opened || t.pos != (x.tile z).pos) = true ↔ blockChanged x sh.c z := by
  rw [fbPar_fields]
  simp only [List.any_map, List.any_eq_true, List.mem_range, Function.comp, Bool.or_eq_true, Bool.and_eq_true, bne_iff_ne, blockChanged, or_assoc]

theorem mmaCheck_changed (h : blockChanged x sh.c z) : mmaCheck x sh z = .fault (flt 10 3) := if_pos (blockChanged_iff.mpr h)

/-- The blocks that a product completes (R192). -/
def blocksDone (x : Stream) (sh : Shape) (z : Nat) : Nat := ((x.tile z).pos + effK sh x.fb) / (32 * 2 ^ fbL x.fb)

/-- The checks of the oldest scale batches (R192). -/
def batchCheck (x : Stream) (sh : Shape) (z nb : Nat) : MmaChk :=
  match x.sa, x.sb with
  | a :: _, b :: _ =>
    if a.tag ≠ fbTag x.fb ∨ b.tag ≠ fbTag x.fb then .fault (flt 10 0)
    else if a.bytes.length ≠ sh.m * nb ∨ b.bytes.length ≠ sh.n * nb then .fault (flt 10 1)
    else if fbMode x.fb = 1 ∧ (a.bytes ++ b.bytes).any fun e => e != 127 then .fault (flt 10 2)
    else .go (x.tile z).pos nb
  | _, _ => .wait

theorem mmaCheck_same (h : ¬blockChanged x sh.c z) : mmaCheck x sh z =
    if blocksDone x sh z = 0 then .go (x.tile z).pos 0 else batchCheck x sh z (blocksDone x sh z) := by
  unfold mmaCheck
  dsimp only
  rw [if_neg (mt blockChanged_iff.mp h)]
  unfold batchCheck
  rfl

theorem mma_checked (sh : Shape) : MmaChecked sh := by
  intro x z pos nb tag
  refine ⟨mmaCheck_changed, fun h hnb => (mmaCheck_same h).trans (if_pos hnb), fun h hnb hempty => ?_,
    fun a as_ b bs h hnb ha hb => ?_⟩
  · refine (mmaCheck_same h).trans ((if_neg hnb).trans ?_)
    rw [batchCheck]
    rcases hempty with he | he
    · rw [he]
    · rw [he]
      cases x.sa <;> rfl
  · have hcheck : mmaCheck x sh z = batchCheck x sh z nb := (mmaCheck_same h).trans (if_neg hnb)
    have htag : fbTag x.fb = tag.toNat := fbTag_field _
    have hones : (fbMode x.fb = 1 ∧ ((a.bytes ++ b.bytes).any fun e => e != 127) = true) ↔
        ¬(x.fb.toNat / 2048 % 2 = 1 → ∀ e ∈ a.bytes ++ b.bytes, e = 127) := by
      rw [show fbMode x.fb = x.fb.toNat / 2048 % 2 from rfl, List.any_eq_true, Classical.not_imp]
      simp only [bne_iff_ne, not_forall, exists_prop]
    rw [hcheck, batchCheck, ha, hb]
    dsimp only
    rw [htag]
    refine ⟨fun ht => if_pos ?_, fun ⟨hta, htb⟩ hc => ?_, fun ⟨hta, htb⟩ ⟨hca, hcb⟩ ho => ?_, fun ⟨hta, htb⟩ ⟨hca, hcb⟩ ho => ?_⟩
    · by_contra hn
      exact ht ⟨not_not.mp fun h => hn (.inl h), not_not.mp fun h => hn (.inr h)⟩
    · rw [if_neg (not_or.mpr ⟨not_not_intro hta, not_not_intro htb⟩), if_pos]
      by_contra hn
      exact hc ⟨not_not.mp fun h => hn (.inl h), not_not.mp fun h => hn (.inr h)⟩
    · rw [if_neg (not_or.mpr ⟨not_not_intro hta, not_not_intro htb⟩), if_neg (not_or.mpr ⟨not_not_intro hca, not_not_intro hcb⟩),
        if_pos (hones.mpr ho)]
    · rw [if_neg (not_or.mpr ⟨not_not_intro hta, not_not_intro htb⟩), if_neg (not_or.mpr ⟨not_not_intro hca, not_not_intro hcb⟩),
        if_neg fun h => hones.mp h ho]

end Check

/-! ### Issue of a product -/

/-- The shapes of the four products. -/
theorem shapes_sound {op : Nat} (h : op = 0xE0 ∨ op = 0xE1 ∨ op = 0xE2 ∨ op = 0xE3) : (shapes op).Sound := by
  rcases h with rfl | rfl | rfl | rfl
  · exact ⟨fun y hy e he => by change y < 1 at hy; change 64 * (y / 1) + e / 64 < 64; omega,
      fun e he y => by change 64 * (y % 1) + e % 64 < 64; omega, by decide, by decide, by decide, by decide, by decide⟩
  · exact ⟨fun y hy e he => by change y < 2 at hy; change 64 * (y / 2) + e / 64 < 64; omega,
      fun e he y => by change 64 * (y % 2) + e % 64 < 128; omega, by decide, by decide, by decide, by decide, by decide⟩
  · exact ⟨fun y hy e he => by change y < 4 at hy; change 64 * (y / 2) + e / 64 < 128; omega,
      fun e he y => by change 64 * (y % 2) + e % 64 < 128; omega, by decide, by decide, by decide, by decide, by decide⟩
  · exact ⟨fun y hy e he => by change y < 2 at hy; change 64 * (y / 1) + e / 64 < 128; omega,
      fun e he y => by change 64 * (y % 1) + e % 64 < 64; omega, by decide, by decide, by decide, by decide, by decide⟩

theorem products_mean {z : BitVec 8} {reuse : Bool} {x : BitVec 3} {m : BitVec 4} {p : Instr × Nat} (h : products z reuse x m p) :
    MatrixMeans p.1 (tilesOk z (shapes p.2).c) (mmaB p.2 z.toNat reuse x.toNat m.toNat) ∧ (shapes p.2).Sound := by
  unfold products at h
  simp only [List.mem_cons, List.not_mem_nil, or_false] at h
  rcases h with rfl | rfl | rfl | rfl
  · exact ⟨exec_mma64x64x64 z reuse x m, shapes_sound (.inl rfl)⟩
  · exact ⟨exec_mma64x128x64 z reuse x m, shapes_sound (.inr (.inl rfl))⟩
  · exact ⟨exec_mma128x128x64 z reuse x m, shapes_sound (.inr (.inr (.inl rfl)))⟩
  · exact ⟨exec_mma128x64x128 z reuse x m, shapes_sound (.inr (.inr (.inr rfl)))⟩

/-- The bytes of B that a product reads (R190). -/
def bSize (sh : Shape) (x : Stream) : Nat := 64 * bRows sh x.fb * sh.n

/-- What comes before a product's checks of its tiles and batches passes. -/
structure ProductReady (m : BitVec 4) (sh : Shape) (z a tid : Nat) (s : State) : Prop where
  clean : mClean tid s m
  tiles : z + sh.c ≤ (s.str tid).tiles
  first : a % aTiles sh (s.str tid).fb = 0
  range : rangePasses tid (mIn tid s m) (bSize sh (s.str tid)) 64 s
  xpois : ∀ q ∈ (s.str tid).xpois, ¬(a ≤ q.1 ∧ q.1 < a + aTiles sh (s.str tid).fb)
  zpois : ∀ q ∈ (s.str tid).zpois, ¬(z ≤ q.1 ∧ q.1 < z + sh.c)

section Issue
variable {op z a tid : Nat} {reuse : Bool} {m : BitVec 4} {s : State}

theorem mmaB_first_tile (hm : mClean tid s m) (h : a % aTiles (shapes op) (s.str tid).fb ≠ 0) :
    mmaB op z reuse a m.toNat tid s = .fault (flt 1 4) := by
  unfold mmaB
  rw [withM_clean hm]
  exact if_pos h

theorem mmaB_range (hm : mClean tid s m) (h : a % aTiles (shapes op) (s.str tid).fb = 0) {f : FaultInfo}
    (hr : strRange s tid (mIn tid s m) (bSize (shapes op) (s.str tid)) 64 true = some f) : mmaB op z reuse a m.toNat tid s = .fault f := by
  unfold bSize at hr
  unfold mmaB
  rw [withM_clean hm]
  dsimp only
  rw [if_neg (not_not_intro h), hr]

/-- What a product does where its checks pass. -/
def mmaGo (op z : Nat) (reuse : Bool) (a : Nat) (m : BitVec 4) (tid : Nat) (s : State) (pos nb : Nat) : SAct :=
  if (s.str tid).busy then .wait s .matrix
  else .done (modStr { (strEvent s tid []).2 with fresh := s.fresh + 1 } tid fun x => mmaRun x (shapes op) z a pos nb reuse
    (strRead (strEvent s tid []).2 tid (mIn tid s m) (bSize (shapes op) (s.str tid)) (strEvent s tid []).1))

theorem no_poison_between {l : List (Nat × Nat)} {a b : Nat} (h : ∀ q ∈ l, ¬(a ≤ q.1 ∧ q.1 < b)) :
    ¬(l.any fun p => decide (a ≤ p.1) && decide (p.1 < b)) = true := by
  rw [List.any_eq_true]
  rintro ⟨q, hq, hin⟩
  rw [Bool.and_eq_true, decide_eq_true_eq, decide_eq_true_eq] at hin
  exact h q hq hin

theorem mmaB_ready (h : ProductReady m (shapes op) z a tid s) : mmaB op z reuse a m.toNat tid s =
    match mmaCheck (s.str tid) (shapes op) z with
    | .fault f => .fault f
    | .wait => .wait s .scales
    | .go pos nb => mmaGo op z reuse a m tid s pos nb := by
  have hr := strRange_passes h.range
  unfold bSize at hr
  unfold mmaB
  rw [withM_clean h.clean]
  dsimp only
  rw [if_neg (not_not_intro h.first), hr]
  dsimp only
  rw [if_neg (no_poison_between h.xpois), if_neg (no_poison_between h.zpois)]
  cases mmaCheck (s.str tid) (shapes op) z <;> rfl

end Issue

/-! ### What a product leaves -/

section Taken
variable (nb : Nat) (fb : Word) (x : Stream)

theorem takeBatches_eq : takeBatches nb fb x = { x with sa := (takeBatches nb fb x).sa, sb := (takeBatches nb fb x).sb, fb := (takeBatches nb fb x).fb } := by
  unfold takeBatches
  split <;> rfl

theorem takeBatches_sa : (takeBatches nb fb x).sa = x.sa.drop (if nb = 0 then 0 else 1) := by
  unfold takeBatches
  split <;> rfl

theorem takeBatches_sb : (takeBatches nb fb x).sb = x.sb.drop (if nb = 0 then 0 else 1) := by
  unfold takeBatches
  split <;> rfl

theorem takeBatches_fb : (takeBatches nb x.fb x).fb.toNat =
    x.fb.toNat % 2 ^ 16 + 2 ^ 16 * ((x.fb.toNat / 2 ^ 16 + if nb = 0 then 0 else 1) % 2 ^ 16) := by
  have hlt : x.fb.toNat < 2 ^ 32 := x.fb.isLt
  unfold takeBatches
  split
  · omega
  · have htag : fbTag x.fb = x.fb.toNat / 2 ^ 16 % 2 ^ 16 := rfl
    change (BitVec.ofNat 16 (fbTag x.fb + 1) ++ x.fb.extractLsb' 0 16).toNat = _
    rw [BitVec.toNat_append, ← Nat.shiftLeft_add_eq_or_of_lt (x.fb.extractLsb' 0 16).isLt, Nat.shiftLeft_eq, BitVec.toNat_ofNat,
      BitVec.extractLsb'_toNat, Nat.shiftRight_zero, htag]
    omega

end Taken

section Leaves
variable (x : Stream) (sh : Shape) (z a p nb : Nat) (reuse : Bool) (bb : List Byte)

/-- The parts of the stream that a product alone changes. -/
theorem mmaRun_held (l : List Nat) : let y := takeBatches nb x.fb (mmaHeld x sh z a p reuse bb l)
    let w := productTiles z sh.c (fun t => productTile ((p + effK sh x.fb) % (32 * 2 ^ fbL x.fb)) (fbPar x.fb) (tileResults (mmaOut x sh z a p bb) l t))
      (fun t => productStat (tileResults (mmaOut x sh z a p bb) l t)) x
    StreamKept x y.next ∧ y.x = x.x ∧ y.busy = true ∧ y.latch = (if reuse then some (a * 8 + aTiles sh x.fb) else none) ∧
    y.sa = x.sa.drop (if nb = 0 then 0 else 1) ∧ y.sb = x.sb.drop (if nb = 0 then 0 else 1) ∧
    y.fb.toNat = x.fb.toNat % 2 ^ 16 + 2 ^ 16 * ((x.fb.toNat / 2 ^ 16 + if nb = 0 then 0 else 1) % 2 ^ 16) ∧
    (∀ t, y.tile t = w.tile t) ∧ y.mstat = w.mstat := by
  intro y w
  have honly : TilesOnly x w := productTiles_only _ _ _ _ _
  obtain ⟨hkept, hx, hfb, hsa, hsb⟩ := honly.kept
  have hy : y = { mmaHeld x sh z a p reuse bb l with sa := y.sa, sb := y.sb, fb := y.fb } := takeBatches_eq _ _ _
  have hheld : mmaHeld x sh z a p reuse bb l = { w with busy := true, latch := if reuse then some (a * 8 + aTiles sh x.fb) else none } := rfl
  have hfb' : (mmaHeld x sh z a p reuse bb l).fb = x.fb := hfb
  have htake := takeBatches_fb nb (mmaHeld x sh z a p reuse bb l)
  rw [hfb'] at htake
  rw [hheld] at hy
  refine ⟨?_, ?_, ?_, ?_, (takeBatches_sa _ _ _).trans (congrArg _ hsa), (takeBatches_sb _ _ _).trans (congrArg _ hsb), htake, ?_, ?_⟩
  · rw [hy]
    exact hkept
  · rw [hy]
    exact hx
  · rw [hy]
  · rw [hy]
  · intro t
    rw [hy]
    rfl
  · rw [hy]

end Leaves

/-- The latch after a product holds the x tiles of A where it was asked to (R194). -/
theorem latched_product {y : Stream} {reuse : Bool} {a t : Nat} (ht : t < 8) (h : y.latch = if reuse then some (a * 8 + t) else none) (k : Nat) :
    latched y k = (reuse && decide (a ≤ k) && decide (k < a + t)) := by
  unfold latched
  rw [h]
  cases reuse
  · rfl
  · have h1 : (a * 8 + t) / 8 = a := by omega
    have h2 : (a * 8 + t) % 8 = t := by omega
    simp only [if_true, h1, h2, Bool.true_and]

/-- One element of the product, from the tiles and the window's bytes (R190, R192). -/
def productDot (x : Stream) (sh : Shape) (z a p : Nat) (win : List Host.Cell) (o y e : Nat) : Int × Word × Nat :=
  dotBlocks (fbMode x.fb) (blockLen x.fb) p
    (fun k => aElem x sh a (64 * (y / (sh.n / 64)) + e / 64) k *
      bElem x sh (fun i => (mget win (o + i)).toNat) (64 * (y % (sh.n / 64)) + e % 64) k)
    (fun j => (((x.sa.head?.map (·.bytes)).getD []).getD (j * sh.m + (64 * (y / (sh.n / 64)) + e / 64)) 0).toNat)
    (fun j => (((x.sb.head?.map (·.bytes)).getD []).getD (j * sh.n + (64 * (y % (sh.n / 64)) + e % 64)) 0).toNat) (effK sh x.fb)
    (aget 0 e (x.tile (z + y)).sums, zAt x (z + y) e, 0)

theorem mmaOut_eq {sh : Shape} (hs : sh.Sound) (x : Stream) (z a p : Nat) (win : List Host.Cell) (o : Nat) {y e : Nat} (hy : y < sh.c)
    (he : e < 4096) : mmaOut x sh z a p (mread win o (bSize sh x)) y e = productDot x sh z a p win o y e :=
  dotBlocks_congr (fun k hk => congrArg₂ (· * ·) (aElem_held hs x a (hs.row y hy e he) hk) (bElem_held hs x win o (hs.col e he y) hk)) _

/-- What a product leaves of its stream. -/
def ProductLeaves (a b : Stream) (sh : Shape) (z x pos nb : Nat) (reuse : Bool) : Prop :=
  b.x = a.x ∧ b.busy = true ∧ (∀ y, latched b y = (reuse && decide (x ≤ y) && decide (y < x + aTiles sh a.fb))) ∧
  b.sa = a.sa.drop (if nb = 0 then 0 else 1) ∧ b.sb = a.sb.drop (if nb = 0 then 0 else 1) ∧
  b.fb.toNat = a.fb.toNat % 2 ^ 16 + 2 ^ 16 * ((a.fb.toNat / 2 ^ 16 + if nb = 0 then 0 else 1) % 2 ^ 16) ∧
  (∀ y, y < z ∨ z + sh.c ≤ y → b.tile y = a.tile y) ∧
  ∀ y < sh.c, (b.tile (z + y)).opened = decide ((pos + effK sh a.fb) % blockLen a.fb ≠ 0) ∧
    (b.tile (z + y)).pos = (pos + effK sh a.fb) % blockLen a.fb

/-- The elements, open sums and MSTAT bits that a product leaves. -/
def ProductValues (a b : Stream) (sh : Shape) (z pos : Nat) (dot : Nat → Nat → Int × Word × Nat) : Prop :=
  (∀ y < sh.c, ∀ e < 4096, zAt b (z + y) e = (dot y e).2.1 ∧
    ((pos + effK sh a.fb) % blockLen a.fb ≠ 0 → aget 0 e (b.tile (z + y)).sums = (dot y e).1)) ∧
  ∀ i < 32, b.mstat.getLsbD i = true ↔ a.mstat.getLsbD i = true ∨ ∃ y < sh.c, ∃ e < 4096, (dot y e).2.2.testBit i = true

section Product
variable {sh : Shape} (hs : sh.Sound) (x : Stream) (z a p nb : Nat) (reuse : Bool) (bb : List Byte)
include hs

theorem mmaRun_leaves : StreamKept x (mmaRun x sh z a p nb reuse bb).next ∧
    ProductLeaves x (mmaRun x sh z a p nb reuse bb).next sh z a p nb reuse := by
  rw [mmaRun_eq]
  obtain ⟨hkept, hx, hbusy, hlatch, hsa, hsb, hfb, htile, hmstat⟩ := mmaRun_held x sh z a p nb reuse bb (List.range 4096)
  generalize takeBatches nb x.fb (mmaHeld x sh z a p reuse bb (List.range 4096)) = y at *
  refine ⟨hkept, hx, hbusy, latched_product (aTiles_lt hs x.fb) hlatch, hsa, hsb, hfb, fun t ht => ?_, fun t ht => ?_⟩
  · rw [tile_next, htile]
    exact productTiles_outside _ _ _ _ _ ht
  · rw [tile_next, htile, productTiles_tile _ _ _ _ ht]
    exact productTile_block _ _ _ _ _

theorem mmaRun_values : ProductValues x (mmaRun x sh z a p nb reuse bb).next sh z p (mmaOut x sh z a p bb) := by
  rw [mmaRun_eq]
  obtain ⟨-, -, -, -, -, -, -, htile, hmstat⟩ := mmaRun_held x sh z a p nb reuse bb (List.range 4096)
  generalize takeBatches nb x.fb (mmaHeld x sh z a p reuse bb (List.range 4096)) = y at *
  refine ⟨fun t ht e he => ⟨?_, fun hopen => ?_⟩, fun i hi => ?_⟩
  · rw [zAt_next, zAt, htile, productTiles_tile _ _ _ _ ht]
    exact productTile_el _ _ _ _ _ (List.mem_range.mpr he)
  · rw [tile_next, htile, productTiles_tile _ _ _ _ ht]
    exact productTile_sums _ _ _ _ _ (List.mem_range.mpr he) hopen
  · rw [mstat_next, hmstat, productTiles_mstat _ _ _ _ _ hi]
    simp only [productStat_bit, List.mem_range]

end Product

theorem ProductValues.congr {a b : Stream} {sh : Shape} {z pos : Nat} {dot dot' : Nat → Nat → Int × Word × Nat}
    (h : ProductValues a b sh z pos dot) (heq : ∀ y < sh.c, ∀ e < 4096, dot y e = dot' y e) : ProductValues a b sh z pos dot' := by
  refine ⟨fun y hy e he => heq y hy e he ▸ h.1 y hy e he, fun i hi => (h.2 i hi).trans (or_congr_right ?_)⟩
  refine exists_congr fun y => and_congr_right fun hy => exists_congr fun e => and_congr_right fun he => ?_
  rw [heq y hy e he]

section Runs
variable {i : Instr} {op z a : Nat} {reuse : Bool} {m : BitVec 4} {zb : BitVec 8}
  (h : MatrixMeans i (tilesOk zb (shapes op).c) (mmaB op zb.toNat reuse a m.toNat))
include h

theorem product_range_checked : RangeChecked i (fun tid s => mClean tid s m ∧ zb.toNat + (shapes op).c ≤ (s.str tid).tiles ∧
      a % aTiles (shapes op) (s.str tid).fb = 0) (fun tid s => mIn tid s m) (fun tid s => bSize (shapes op) (s.str tid)) :=
  ⟨h.faults fun _ _ ⟨⟨hm, hz, hfirst⟩, hal⟩ => ⟨decide_eq_true hz, mmaB_range hm hfirst (strRange_misaligned _ hal)⟩,
    h.faults fun _ _ ⟨⟨hm, hz, hfirst⟩, hal, hout⟩ => ⟨decide_eq_true hz, mmaB_range hm hfirst (strRange_outside _ hal hout)⟩⟩

theorem product_accumulates (hs : (shapes op).Sound) (pos nb : Nat) :
    StreamDoesIf i (fun tid s => ProductReady m (shapes op) zb.toNat a tid s ∧ mmaCheck (s.str tid) (shapes op) zb.toNat = .go pos nb ∧
        (s.str tid).busy = false) fun tid s t =>
      StreamKept (s.str tid) (t.str tid) ∧ t.mem = s.mem ∧ ProductLeaves (s.str tid) (t.str tid) (shapes op) zb.toNat a pos nb reuse ∧
      (windowSettled tid (mIn tid s m) (bSize (shapes op) (s.str tid)) s → ProductValues (s.str tid) (t.str tid) (shapes op) zb.toNat pos
        (productDot (s.str tid) (shapes op) zb.toNat a pos (s.team tid).win (mIn tid s m))) := by
  refine h.does fun tid s ⟨hr, hgo, hidle⟩ => ⟨decide_eq_true hr.tiles, _, by rw [mmaB_ready hr, hgo]; exact if_neg (by rw [hidle]; decide), ?_⟩
  rw [modStr_goes]
  have hu := strEvent_reads s tid []
  rw [show ({ (strEvent s tid []).2 with fresh := s.fresh + 1 } : State).str tid = s.str tid from hu.str tid]
  obtain ⟨hkept, hleaves⟩ := mmaRun_leaves hs (s.str tid) zb.toNat a pos nb reuse
    (strRead (strEvent s tid []).2 tid (mIn tid s m) (bSize (shapes op) (s.str tid)) (strEvent s tid []).1)
  rw [strNow_str]
  refine ⟨hkept, hu.1.mem, hleaves, fun hsettled => ?_⟩
  have hv := mIn_lt tid s m
  have hsize : bSize (shapes op) (s.str tid) ≤ 65536 := bBytes_le hs _
  have hread := strRead_settled (n := bSize (shapes op) (s.str tid)) (hu.settled hsettled)
    (by unfold bSize; rw [Nat.mul_assoc]; omega) (by omega) (strEvent s tid []).1
  rw [hu.1.team] at hread
  rw [hread]
  exact (mmaRun_values hs _ _ _ _ _ _ _).congr fun y hy e he => mmaOut_eq hs _ _ _ _ _ _ hy he

end Runs

/-! ### One block's accumulation (R192, R211, R212) -/

theorem blockInto_integer (acc : Word) (S : Int) (ea eb : Nat) : blockInto 1 acc S ea eb =
    (BitVec.ofInt 32 (max (-(2 ^ 31 : Int)) (min (2 ^ 31 - 1) (acc.toInt + S))),
      if acc.toInt + S < -(2 ^ 31) ∨ 2 ^ 31 - 1 < acc.toInt + S then 1 else 0) := by
  refine (if_pos rfl).trans (congrArg₂ Prod.mk ?_ ?_)
  · rw [wrapT_s32, clampT_s32]
  · exact if_congr (clampT_s32_ne _) rfl rfl

section Float
variable (acc : Word) {S : Int} {ea eb : Nat}

theorem blockInto_nan (h : ea = 0xFF ∨ eb = 0xFF) : blockInto 0 acc S ea eb = (0x7FC0_0000, 2) := (if_neg (by decide)).trans (if_pos h)

theorem blockInto_zero (ha : ea ≠ 0xFF) (hb : eb ≠ 0xFF) : blockInto 0 acc 0 ea eb = (acc, 0) :=
  (if_neg (by decide)).trans ((if_neg (not_or.mpr ⟨ha, hb⟩)).trans (if_pos rfl))

theorem blockInto_sum (ha : ea ≠ 0xFF) (hb : eb ≠ 0xFF) (hS : S ≠ 0) : blockInto 0 acc S ea eb =
    (BitVec.ofNat 32 (fAdd f32 0 false (unpack f32 false acc.toNat) (.fin (decide (S < 0)) S.natAbs ((ea : Int) + eb - 254))).1, 0) :=
  (if_neg (by decide)).trans ((if_neg (not_or.mpr ⟨ha, hb⟩)).trans ((if_neg hS).trans (by rw [Int.natCast_add])))

end Float

/-- Settles O42: each output element is one fold over k of the rule's blocks, and it reads no byte outside A's x tiles and B's range; the
checks come before the product and read the stream alone. -/
theorem matrixProductsAccumulateBlocks : Obligations.MatrixProductsAccumulateBlocks := by
  unfold Obligations.MatrixProductsAccumulateBlocks
  refine ⟨fun z reuse x m p hp => ?_, fun acc S ea eb => ⟨blockInto_integer acc S ea eb, blockInto_nan acc, blockInto_zero acc, blockInto_sum acc⟩,
    fun mode L p ab ea eb k st => ⟨rfl, fun P acc ms => dotBlocks_step⟩, fun mode L p ab ea eb K P acc _ hK => dotBlocks_within hK P acc⟩
  obtain ⟨h, hs⟩ := products_mean hp
  intro sh bytes ready
  have hready : ∀ tid s, ready tid s → ProductReady m (shapes p.2) z.toNat x.toNat tid s := fun tid s ⟨hm, hz, hfirst, hr, hx, hzp⟩ =>
    ⟨hm, hz, hfirst, hr, hx, hzp⟩
  refine ⟨h.faults fun tid s ⟨hm, hz, hfirst⟩ => ⟨decide_eq_true hz, mmaB_first_tile hm hfirst⟩, product_range_checked h, mma_checked _,
    fun f => h.faults fun tid s ⟨hr, hf⟩ => ⟨decide_eq_true (hready tid s hr).tiles, by rw [mmaB_ready (hready tid s hr), hf]⟩,
    h.waits fun tid s ⟨hr, hw⟩ => ⟨decide_eq_true (hready tid s hr).tiles, by rw [mmaB_ready (hready tid s hr), hw]⟩, fun pos nb => ⟨?_, ?_⟩⟩
  · exact h.waits fun tid s ⟨hr, hgo, hbusy⟩ => ⟨decide_eq_true (hready tid s hr).tiles, by
      rw [mmaB_ready (hready tid s hr), hgo]
      exact if_pos hbusy⟩
  · intro s tid hc ⟨hr, hgo, hidle⟩
    obtain ⟨t, hexec, hkept, hmem, ⟨hx, hbusy, hlatch, hsa, hsb, hfb, hout, htile⟩, hval⟩ :=
      product_accumulates h hs pos nb s tid hc ⟨hready tid s hr, hgo, hidle⟩
    exact ⟨t, hexec, hkept, hmem, hx, hbusy, hlatch, hsa, hsb, hfb, hout, htile, hval⟩

end Sys2Proof.Machine

/-! O58: every operation of the model leaves the memories of device and host in canonical form (log 3). -/
namespace Sys2Proof.Machine

/-- Two memories in canonical form. -/
def Canon (m n : List Host.Cell) : Prop := Memory.wf m = true ∧ Memory.wf n = true

/-- The invariant, stated of the two memories alone: a change of any other field does not show in it. -/
@[reducible] def MemOk (s : State) : Prop := Canon s.mem s.hostMem

theorem memOk_iff (s : State) : MemOk s ↔ MemInv s := Iff.rfl

/-- The state that an instruction's meaning ends with keeps the invariant. -/
def Act.Ok : Act → Prop
  | .done s => MemOk s
  | .jump s _ => MemOk s
  | .stay s => MemOk s
  | .same s => MemOk s
  | .wait s _ => MemOk s
  | .fault s _ => MemOk s

def SAct.Ok : SAct → Prop
  | .done s => MemOk s
  | .stay s => MemOk s
  | .wait s _ => MemOk s
  | .fault _ => True

/-! ### What changes a memory -/

theorem Canon.write {m n : List Host.Cell} (h : Canon m n) (a : Nat) (bs : List Byte) : Canon (mwrite m a bs) n :=
  ⟨mwrite_wf m a bs h.1, h.2⟩

theorem Canon.hostWrite {m n : List Host.Cell} (h : Canon m n) (a : Nat) (bs : List Byte) : Canon m (mwrite n a bs) :=
  ⟨h.1, mwrite_wf n a bs h.2⟩

theorem Canon.filter {m n : List Host.Cell} (h : Canon m n) (q : Host.Cell → Bool) : Canon (m.filter q) n := by
  obtain ⟨hm, hn⟩ := h
  obtain ⟨hr, hz⟩ := (wf_iff m).mp hm
  exact ⟨(wf_iff _).mpr ⟨rising_filter q hr, fun p hp => hz p (List.mem_of_mem_filter hp)⟩, hn⟩

/-! ### Control -/

section Control
variable {s t : State} {w : Wait} {f : FaultInfo} {pc : DWord} {c : Prop} [Decidable c] {a b : Act} {x y : SAct}

theorem Act.ok_done : (Act.done s).Ok ↔ MemOk s := Iff.rfl
theorem Act.ok_jump : (Act.jump s pc).Ok ↔ MemOk s := Iff.rfl
theorem Act.ok_stay : (Act.stay s).Ok ↔ MemOk s := Iff.rfl
theorem Act.ok_same : (Act.same s).Ok ↔ MemOk s := Iff.rfl
theorem Act.ok_wait : (Act.wait s w).Ok ↔ MemOk s := Iff.rfl
theorem Act.ok_fault : (Act.fault s f).Ok ↔ MemOk s := Iff.rfl
theorem SAct.ok_done : (SAct.done s).Ok ↔ MemOk s := Iff.rfl
theorem SAct.ok_stay : (SAct.stay s).Ok ↔ MemOk s := Iff.rfl
theorem SAct.ok_wait : (SAct.wait s w).Ok ↔ MemOk s := Iff.rfl
theorem SAct.ok_fault : (SAct.fault f).Ok ↔ True := Iff.rfl

theorem memOk_ite : MemOk (if c then s else t) ↔ if c then MemOk s else MemOk t := by split <;> rfl
theorem ok_ite : (if c then a else b).Ok ↔ if c then a.Ok else b.Ok := by split <;> rfl
theorem sOk_ite : (if c then x else y).Ok ↔ if c then x.Ok else y.Ok := by split <;> rfl

theorem memOk_if (hs : MemOk s) (ht : MemOk t) : MemOk (if c then s else t) := by
  split
  · exact hs
  · exact ht

theorem ok_if (ha : a.Ok) (hb : b.Ok) : (if c then a else b).Ok := by
  split
  · exact ha
  · exact hb

theorem sOk_if (hx : x.Ok) (hy : y.Ok) : (if c then x else y).Ok := by
  split
  · exact hx
  · exact hy

theorem memOk_ite_fst {β : Type} {p q : State × β} : MemOk (if c then p else q).1 ↔ if c then MemOk p.1 else MemOk q.1 := by split <;> rfl

theorem memOk_if_fst {β : Type} {p q : State × β} (hp : MemOk p.1) (hq : MemOk q.1) : MemOk (if c then p else q).1 := by
  split
  · exact hp
  · exact hq

end Control

/-- A run of operations that leave the memories as they are. -/
theorem memOk_foldl {α : Type} {f : State → α → State} (hf : ∀ t a, MemOk (f t a) ↔ MemOk t) (s : State) (l : List α) :
    MemOk (l.foldl f s) ↔ MemOk s := by
  induction l generalizing s with
  | nil => exact Iff.rfl
  | cons a l ih => exact (ih (f s a)).trans (hf s a)

/-- A run of operations that keep the invariant. -/
theorem MemOk.foldl {α : Type} {f : State → α → State} (hf : ∀ t a, MemOk t → MemOk (f t a)) {s : State} (h : MemOk s) (l : List α) :
    MemOk (l.foldl f s) := by
  induction l generalizing s with
  | nil => exact h
  | cons a l ih => exact ih (hf s a h)

section Pairs
variable {α β : Type} {s : State}

theorem memOk_foldl_fst {f : State × β → α → State × β} (hf : ∀ p a, MemOk (f p a).1 ↔ MemOk p.1) (p : State × β) (l : List α) :
    MemOk (l.foldl f p).1 ↔ MemOk p.1 := by
  induction l generalizing p with
  | nil => exact Iff.rfl
  | cons a l ih => exact (ih (f p a)).trans (hf p a)

theorem memOk_foldl_snd {f : β × State → α → β × State} (hf : ∀ p a, MemOk (f p a).2 ↔ MemOk p.2) (p : β × State) (l : List α) :
    MemOk (l.foldl f p).2 ↔ MemOk p.2 := by
  induction l generalizing p with
  | nil => exact Iff.rfl
  | cons a l ih => exact (ih (f p a)).trans (hf p a)

theorem MemOk.foldl_fst {f : State × β → α → State × β} (hf : ∀ p a, MemOk p.1 → MemOk (f p a).1) {p : State × β} (h : MemOk p.1)
    (l : List α) : MemOk (l.foldl f p).1 := by
  induction l generalizing p with
  | nil => exact h
  | cons a l ih => exact ih (hf p a h)

end Pairs

section Partial
variable {α β ε : Type} {p : β → Prop}

/-- What holds of the value of a run that may fail. -/
theorem foldl_except {f : Except ε β → α → Except ε β} (hf : ∀ r a v, (∀ u, r = .ok u → p u) → f r a = .ok v → p v)
    {r : Except ε β} (hr : ∀ u, r = .ok u → p u) (l : List α) {v : β} (hv : l.foldl f r = .ok v) : p v := by
  induction l generalizing r with
  | nil => exact hr v hv
  | cons a l ih => exact ih (fun u hu => hf r a u hr hu) hv

theorem foldl_option {f : Option β → α → Option β} (hf : ∀ r a v, (∀ u, r = some u → p u) → f r a = some v → p v) {r : Option β}
    (hr : ∀ u, r = some u → p u) (l : List α) {v : β} (hv : l.foldl f r = some v) : p v := by
  induction l generalizing r with
  | nil => exact hr v hv
  | cons a l ih => exact ih (fun u hu => hf r a u hr hu) hv

theorem ok_of_if_error {c : Prop} [Decidable c] {e : ε} {r : Except ε β} {v : β} (h : (if c then .error e else r) = .ok v) : r = .ok v := by
  split at h
  · exact nomatch h
  · exact h

theorem except_map_ok {f : β → α} {r : Except ε β} {v : α} (h : r.map f = .ok v) : ∃ u, r = .ok u ∧ f u = v := by
  cases r with
  | error e => exact nomatch h
  | ok u => exact ⟨u, rfl, Except.ok.inj h⟩

end Partial

end Sys2Proof.Machine

/-! O58: one lemma for each operation of the model, in its order: the memories stay as they are (an equivalence), or stay canonical. -/
namespace Sys2Proof.Machine

section Operations
variable {s : State}

/-! ### The operations of Ops.lean -/

theorem memOk_setGrp {gid : Nat} {g : Group} : MemOk (s.setGrp gid g) ↔ MemOk s := Iff.rfl

theorem memOk_modGrp {gid : Nat} {f : Group → Group} : MemOk (s.modGrp gid f) ↔ MemOk s := Iff.rfl

theorem memOk_setTeam {t : Nat} {x : Team} : MemOk (s.setTeam t x) ↔ MemOk s := Iff.rfl

theorem memOk_modTeam {t : Nat} {f : Team → Team} : MemOk (s.modTeam t f) ↔ MemOk s := Iff.rfl

theorem memOk_setLaunch {l : Nat} {x : Launch} : MemOk (s.setLaunch l x) ↔ MemOk s := Iff.rfl

theorem memOk_modLaunch {l : Nat} {f : Launch → Launch} : MemOk (s.modLaunch l f) ↔ MemOk s := Iff.rfl

theorem memOk_setCluster {c : Nat} {x : Cluster} : MemOk (s.setCluster c x) ↔ MemOk s := Iff.rfl

theorem memOk_setAsid {a : Nat} {x : Asid} : MemOk (s.setAsid a x) ↔ MemOk s := Iff.rfl

theorem memOk_setCopy {c : Nat} {x : Copy} : MemOk (s.setCopy c x) ↔ MemOk s := Iff.rfl

theorem memOk_setQueue {q : Nat} {x : Queue} : MemOk (s.setQueue q x) ↔ MemOk s := Iff.rfl

theorem memOk_setMbox {f : Nat} {x : Mbox} : MemOk (s.setMbox f x) ↔ MemOk s := Iff.rfl

theorem memOk_answer {who : Caller} {v : DWord} : MemOk (s.answer who v) ↔ MemOk s := by
  unfold State.answer
  split <;> simp only [MemOk, iff_self, memOk_setMbox]

theorem memOk_setStr {t : Nat} {x : Stream} : MemOk (s.setStr t x) ↔ MemOk s := Iff.rfl

theorem memOk_lostStore : MemOk s.lostStore ↔ MemOk s := Iff.rfl

/-! ### The operations of Translate.lean -/

theorem memOk_noteTlb {asid va leaf level : Nat} : MemOk (noteTlb s asid va leaf level) ↔ MemOk s := Iff.rfl

theorem memOk_refuse : MemOk (refuse s) ↔ MemOk s := Iff.rfl

theorem memOk_refuseAll {asid : Nat} {keys : List Nat} : MemOk (refuseAll s asid keys) ↔ MemOk s := by
  unfold refuseAll
  simp only [MemOk, memOk_foldl, implies_true, iff_self, memOk_refuse]

/-! ### The operations of Order.lean -/

theorem memOk_pokes (h : MemOk s) {k : Nat} {bs : List Byte} : MemOk (s.pokes k bs) := by
  unfold State.pokes
  split
  · exact h.write _ _
  · exact h

theorem memOk_notePend {ps : List (Nat × Nat × Nat)} : MemOk (s.notePend ps) ↔ MemOk s := Iff.rfl

theorem memOk_endPend {node : Nat} : MemOk (s.endPend node) ↔ MemOk s := Iff.rfl

theorem memOk_addWrite {w : WriteRec} : MemOk (s.addWrite w) ↔ MemOk s := Iff.rfl

theorem memOk_perform (h : MemOk s) {node : Nat} : MemOk (s.perform node) := by
  unfold State.perform
  split <;> simp only [MemOk, memOk_pokes, h]

theorem memOk_ackW {node : Nat} : MemOk (s.ackW node) ↔ MemOk s := Iff.rfl

theorem memOk_returnLoad {agent node : Nat} {place : Place} {sc : Nat} {acq strong : Bool} {fences : List (Nat × Nat × Option (Nat × Nat))}
    {got : List (Nat × Cand)} : MemOk (returnLoad s agent node place sc acq strong fences got) ↔ MemOk s :=
  Iff.rfl

theorem memOk_noteFloor {agent node k n : Nat} {place : Place} {sc : Nat} : MemOk (noteFloor s agent node k n place sc) ↔ MemOk s := Iff.rfl

/-! ### The operations of Trap.lean -/

theorem memOk_report {r : Report} : MemOk (s.report r) ↔ MemOk s := by
  unfold State.report
  simp only [MemOk, memOk_ite, ite_self, iff_self]

theorem memOk_takeFault_osFault {gid fid : Nat} {f : Frag} {g : Group} {l : Launch} {xr : List (Nat × Word)} {pc : DWord} :
    MemOk (takeFault.osFault s gid fid f g l xr pc) ↔ MemOk s := by
  unfold takeFault.osFault
  simp only [MemOk, iff_self, memOk_report, memOk_setGrp]

theorem memOk_takeFault {gid fid : Nat} {fi : FaultInfo} {mask : Lanes} : MemOk (takeFault s gid fid fi mask) ↔ MemOk s := by
  unfold takeFault
  dsimp only
  (repeat' split) <;> simp only [MemOk, iff_self, memOk_setGrp, memOk_takeFault_osFault]

theorem memOk_takeStreamFault {tid : Nat} {fi : FaultInfo} : MemOk (takeStreamFault s tid fi) ↔ MemOk s := by
  unfold takeStreamFault
  simp only [MemOk, iff_self, memOk_report, memOk_setStr]

/-! ### The operations of Issue.lean -/

theorem memOk_finish {c : Ctx} {mask : Lanes} {a : Act} (ha : a.Ok) : MemOk (finish c mask a) := by
  cases a with
  | fault s e => exact memOk_takeFault.mpr ha
  | done | jump | stay | same | wait => exact ha

theorem memOk_enter {gid : Nat} {i : Info} : MemOk (enter s gid i) ↔ MemOk s := Iff.rfl

theorem memOk_issueFrag (h : MemOk s) {gid fid : Nat} {i : Info} {body : Ctx → State → Act} (hbody : ∀ c t, MemOk t → (body c t).Ok) :
    MemOk (issueFrag s gid fid i body) := by
  unfold issueFrag
  dsimp only
  (repeat' split) <;> simp only [MemOk, memOk_takeFault, memOk_enter, memOk_finish, h, hbody]

theorem memOk_finishStream (h : MemOk s) {tid : Nat} {a : SAct} (ha : a.Ok) : MemOk (finishStream tid a s) := by
  cases a with
  | fault e => exact memOk_takeStreamFault.mpr h
  | done | stay | wait => exact ha

/-! ### The operations of Park.lean -/

theorem memOk_unpark {line : Nat} : MemOk (s.unpark line) ↔ MemOk s := Iff.rfl

theorem memOk_demoteLine {line : Nat} : MemOk (demoteLine s line) ↔ MemOk s := Iff.rfl

theorem memOk_settleParks {n : Nat} : MemOk (settleParks s n) ↔ MemOk s := by
  induction n generalizing s with
  | zero => exact Iff.rfl
  | succ n ih =>
    rw [settleParks]
    split
    · exact Iff.rfl
    · exact ih.trans (memOk_foldl (fun _ _ => memOk_demoteLine) _ _)

theorem memOk_parkLine {va key asid : Nat} {d : Word} : MemOk (parkLine s va key asid d) ↔ MemOk s := by
  unfold parkLine
  simp only [MemOk, memOk_ite, ite_self, iff_self, memOk_unpark, memOk_settleParks]

theorem memOk_crossDemote {key asid : Nat} : MemOk (crossDemote s key asid) ↔ MemOk s := by
  unfold crossDemote
  split <;> simp only [MemOk, memOk_ite, ite_self, iff_self, memOk_unpark]

theorem memOk_stnPlace {va key asid : Nat} {d : Word} {ordinary : Bool} : MemOk (stnPlace s va key asid d ordinary) ↔ MemOk s := by
  unfold stnPlace
  simp only [MemOk, memOk_ite, ite_self, iff_self, memOk_unpark, memOk_parkLine, memOk_crossDemote]

theorem memOk_noteRead {asid va n i : Nat} : MemOk (s.noteRead asid va n i) ↔ MemOk s := by
  unfold State.noteRead
  split <;> simp only [MemOk, memOk_foldl, implies_true, iff_self, memOk_crossDemote, memOk_noteTlb, memOk_refuseAll]

theorem memOk_countHit {key core cl asid : Nat} : MemOk (countHit s key core cl asid) ↔ MemOk s := by
  unfold countHit
  split <;> simp only [MemOk, memOk_ite, ite_self, iff_self]

theorem memOk_locateLine {va key core asid cl : Nat} : MemOk (locateLine s va key core asid cl) ↔ MemOk s := by
  unfold locateLine
  (repeat' split) <;> simp only [MemOk, iff_self, memOk_unpark, memOk_parkLine]

/-! ### The operations of Barrier.lean -/

theorem memOk_lanesEvent {gid : Nat} {ls more wmore : List Nat} : MemOk (lanesEvent s gid ls more wmore).2 ↔ MemOk s := Iff.rfl

theorem memOk_groupEvent {gid : Nat} {more : List Nat} : MemOk (groupEvent s gid more).2 ↔ MemOk s := Iff.rfl

theorem memOk_fragEvent {c : Ctx} {more : List Nat} : MemOk (fragEvent c s more).2 ↔ MemOk s := Iff.rfl

theorem memOk_groupFence {gid : Nat} {acq rel : Bool} : MemOk (groupFence s gid acq rel) ↔ MemOk s := Iff.rfl

theorem memOk_setBar {tid cls i : Nat} {b : Bar} : MemOk (s.setBar tid cls i b) ↔ MemOk s := by
  unfold State.setBar
  split <;> simp only [MemOk, iff_self, memOk_setTeam, memOk_setCluster, memOk_setLaunch]

theorem memOk_barAdvance {b : Bar} : MemOk (barAdvance s b).1 ↔ MemOk s := by
  unfold barAdvance
  split <;> simp only [MemOk, iff_self]

theorem memOk_barArrive {tid cls i member node : Nat} : MemOk (barArrive s tid cls i member node) ↔ MemOk s := by
  unfold barArrive
  simp only [MemOk, iff_self, memOk_barAdvance, memOk_setBar]

theorem memOk_barLeave {tid cls i member node : Nat} : MemOk (barLeave s tid cls i member node) ↔ MemOk s := by
  unfold barLeave
  simp only [MemOk, iff_self, memOk_barAdvance, memOk_setBar]

theorem memOk_barLook {tid cls i : Nat} : MemOk (barLook s tid cls i) ↔ MemOk s := by
  unfold barLook
  simp only [MemOk, iff_self, memOk_barAdvance, memOk_setBar]

theorem memOk_barReturn {gid tid cls i p : Nat} : MemOk (barReturn s gid tid cls i p) ↔ MemOk s := by
  unfold barReturn
  split <;> simp only [MemOk, iff_self, memOk_groupEvent]

theorem memOk_advanceCbd {gid n : Nat} : MemOk (advanceCbd s gid n) ↔ MemOk s := by
  induction n generalizing s with
  | zero => exact Iff.rfl
  | succ n ih =>
    rw [advanceCbd]
    split
    · exact Iff.rfl
    · split
      · exact Iff.rfl
      · exact ih

theorem memOk_closeBatch {gid : Nat} : MemOk (closeBatch s gid) ↔ MemOk s := by
  unfold closeBatch
  simp only [MemOk, iff_self, memOk_setGrp, memOk_advanceCbd]

theorem memOk_endLaunch {lid : Nat} : MemOk (endLaunch s lid) ↔ MemOk s := by
  unfold endLaunch
  dsimp only
  (repeat' split) <;> simp only [MemOk, memOk_foldl, implies_true, iff_self, memOk_answer]

theorem memOk_settleTeam {tid : Nat} : MemOk (settleTeam s tid) ↔ MemOk s := by
  unfold settleTeam
  simp only [MemOk, memOk_ite, ite_self, iff_self, memOk_setTeam, memOk_setLaunch, memOk_endLaunch]

theorem memOk_unwrite (h : MemOk s) {p : WriteRec → Bool} : MemOk (unwrite s p) := by
  unfold unwrite
  refine MemOk.foldl (fun _ _ ht => memOk_pokes ht) ?_ _
  exact h

theorem memOk_dropPriv (h : MemOk s) {gid : Nat} : MemOk (dropPriv s gid) := by
  unfold dropPriv
  simp only [MemOk, memOk_ite, ite_self, memOk_unwrite, h]

theorem memOk_flushPriv {gid : Nat} : MemOk (flushPriv s gid) ↔ MemOk s := Iff.rfl

theorem memOk_settleGroup (h : MemOk s) {gid : Nat} : MemOk (settleGroup s gid) := by
  unfold settleGroup
  simp only [MemOk, memOk_ite, memOk_foldl, ite_self, implies_true, iff_self, memOk_groupEvent, memOk_barLeave, memOk_settleTeam,
    memOk_modGrp, memOk_dropPriv, h]

theorem memOk_migSettle {tid : Nat} : MemOk (migSettle s tid) ↔ MemOk s := by
  unfold migSettle
  split <;> simp only [MemOk, memOk_ite, ite_self, iff_self]

theorem memOk_retireGroup (h : MemOk s) {gid : Nat} : MemOk (retireGroup s gid) := by
  unfold retireGroup
  simp only [MemOk, memOk_ite, ite_self, memOk_modGrp, memOk_migSettle, memOk_settleGroup, memOk_closeBatch, h]

/-! ### The operations of Code.lean -/

theorem memOk_noteWords {asid : Nat} {pc : DWord} {n : Nat} : MemOk (s.noteWords asid pc n) ↔ MemOk s := by
  unfold State.noteWords
  refine memOk_foldl (fun t a => ?_) _ _
  dsimp only
  split
  · exact memOk_noteTlb.trans (memOk_refuseAll.trans memOk_crossDemote)
  · exact Iff.rfl

/-! ### The operations of Control.lean -/

theorem memOk_onGrp {c : Ctx} {f : Group → Group} : MemOk (onGrp s c f) ↔ MemOk s := Iff.rfl

theorem memOk_nopB (h : MemOk s) {c : Ctx} : (nopB c s).Ok := h

theorem memOk_setModeB (h : MemOk s) {v : Word} {c : Ctx} : (setModeB v c s).Ok := by
  unfold setModeB
  simp only [MemOk, Act.ok_done, Act.ok_fault, ok_ite, ite_self, memOk_onGrp, h]

theorem memOk_setmB (h : MemOk s) {m : BitVec 13} {c : Ctx} : (setmB m c s).Ok := by
  unfold setmB
  simp only [MemOk, memOk_setModeB, h]

theorem memOk_setmsB (h : MemOk s) {k : SReg} {c : Ctx} : (setmsB k c s).Ok := by
  unfold setmsB
  simp only [MemOk, memOk_setModeB, h]

theorem memOk_getmB (h : MemOk s) {k : SReg} {c : Ctx} : (getmB k c s).Ok := h

theorem memOk_braB (h : MemOk s) {c : Ctx} : (braB c s).Ok := h

theorem memOk_branchTo (h : MemOk s) {parts : List (DWord × Lanes)} {c : Ctx} : (branchTo parts c s).Ok := by
  unfold branchTo
  split <;> simp only [MemOk, Act.ok_jump, Act.ok_stay, Act.ok_fault, ok_ite, ite_self, memOk_setGrp, h]

theorem memOk_brdB (h : MemOk s) {p : BitVec 3} {inv : Bool} {c : Ctx} : (brdB p inv c s).Ok := by
  unfold brdB
  simp only [MemOk, Act.ok_jump, ok_ite, ite_self, memOk_branchTo, h]

theorem memOk_brxB (h : MemOk s) {v : VReg} {tbl : List DWord} {c : Ctx} : (brxB v tbl c s).Ok := by
  unfold brxB
  simp only [MemOk, memOk_branchTo, h]

theorem memOk_callB (h : MemOk s) {b : BitVec 3} {c : Ctx} : (callB b c s).Ok := h

theorem memOk_retB (h : MemOk s) {b : BitVec 3} {c : Ctx} : (retB b c s).Ok := by
  unfold retB
  simp only [MemOk, Act.ok_jump, Act.ok_fault, ok_ite, ite_self, h]

theorem memOk_loopB (h : MemOk s) {k : SReg} {c : Ctx} : (loopB k c s).Ok := by
  unfold loopB
  simp only [MemOk, Act.ok_jump, ok_ite, ite_self, memOk_onGrp, h]

theorem memOk_cprefB (h : MemOk s) {c : Ctx} : (cprefB c s).Ok := h

theorem memOk_markB (h : MemOk s) {c : Ctx} : (markB c s).Ok := by
  unfold markB
  simp only [MemOk, Act.ok_done, Act.ok_fault, ok_ite, ite_self, memOk_setGrp, h]

theorem memOk_joinB (h : MemOk s) {c : Ctx} : (joinB c s).Ok := by
  unfold joinB
  dsimp only
  (repeat' split) <;> simp only [MemOk, Act.ok_stay, Act.ok_fault, memOk_setGrp, h]

theorem memOk_ppushB (h : MemOk s) {p : BitVec 3} {c : Ctx} : (ppushB p c s).Ok := by
  unfold ppushB
  simp only [MemOk, Act.ok_done, Act.ok_fault, ok_ite, ite_self, memOk_setGrp, h]

theorem memOk_pinvB (h : MemOk s) {c : Ctx} : (pinvB c s).Ok := by
  unfold pinvB
  dsimp only
  (repeat' split) <;> simp only [MemOk, Act.ok_done, Act.ok_fault, memOk_setGrp, h]

theorem memOk_ppopB (h : MemOk s) {c : Ctx} : (ppopB c s).Ok := by
  unfold ppopB
  dsimp only
  (repeat' split) <;> simp only [MemOk, Act.ok_done, Act.ok_fault, memOk_setGrp, h]

theorem memOk_emrdB (h : MemOk s) {k : SReg} {c : Ctx} : (emrdB k c s).Ok := h

theorem memOk_emwrB (h : MemOk s) {k : SReg} {c : Ctx} : (emwrB k c s).Ok := by
  unfold emwrB
  simp only [MemOk, Act.ok_done, Act.ok_fault, ok_ite, ite_self, memOk_setGrp, h]

theorem memOk_waitcB (h : MemOk s) {a b : BitVec 6} {t d : BitVec 4} {c : Ctx} : (waitcB a b t d c s).Ok := by
  unfold waitcB
  simp only [MemOk, Act.ok_done, Act.ok_wait, ok_ite, ite_self, h]

theorem memOk_cbatchB (h : MemOk s) {c : Ctx} : (cbatchB c s).Ok := by
  unfold cbatchB
  simp only [MemOk, Act.ok_done, Act.ok_wait, ok_ite, ite_self, memOk_closeBatch, h]

theorem memOk_waitbB (h : MemOk s) {n : BitVec 16} {c : Ctx} : (waitbB n c s).Ok := by
  unfold waitbB
  simp only [MemOk, Act.ok_done, Act.ok_wait, Act.ok_fault, ok_ite, ite_self, memOk_fragEvent, h]

theorem memOk_yieldB (h : MemOk s) {c : Ctx} : (yieldB c s).Ok := h

theorem memOk_snoozeB (h : MemOk s) {n : BitVec 16} {c : Ctx} : (snoozeB n c s).Ok := by
  unfold snoozeB
  simp only [MemOk, Act.ok_stay, ok_ite, ite_self, memOk_yieldB, memOk_onGrp, h]

theorem memOk_uniform (h : MemOk s) {c : Ctx} {k : State → Act} (hk : ∀ t, MemOk t → (k t).Ok) : (uniform c s k).Ok := by
  unfold uniform
  simp only [MemOk, Act.ok_fault, ok_ite, ite_self, h, hk]

theorem memOk_arriveAs {gid tid cls i : Nat} {more : List Nat} : MemOk (arriveAs s gid tid cls i more) ↔ MemOk s := by
  unfold arriveAs
  simp only [MemOk, iff_self, memOk_groupEvent, memOk_barArrive]

theorem memOk_arriveB (h : MemOk s) {drain : Bool} {cls : BitVec 2} {i : BitVec 4} {c : Ctx} {k : State → Act}
    (hk : ∀ t, MemOk t → (k t).Ok) : (arriveB drain cls i c s k).Ok :=
  memOk_uniform h fun _ ht => ok_if ht (ok_if ht (ok_if ht (ok_if ht (hk _ (memOk_arriveAs.mpr ht)))))

theorem memOk_awaitPhase (h : MemOk s) {c : Ctx} {tid cls i p : Nat} : (awaitPhase c s tid cls i p).Ok := by
  unfold awaitPhase
  simp only [MemOk, Act.ok_done, Act.ok_wait, ok_ite, ite_self, memOk_barReturn, h]

theorem memOk_barB (h : MemOk s) {cls : BitVec 2} {i : BitVec 4} {c : Ctx} : (barB cls i c s).Ok := by
  unfold barB
  dsimp only
  split
  · exact memOk_awaitPhase h
  · exact memOk_arriveB h fun _ ht => memOk_awaitPhase ht

theorem memOk_baraB (h : MemOk s) {cls : BitVec 2} {i : BitVec 4} {c : Ctx} : (baraB cls i c s).Ok := memOk_arriveB h fun _ ht => ht

theorem memOk_drainB (h : MemOk s) {cls : BitVec 2} {i : BitVec 4} {c : Ctx} : (drainB cls i c s).Ok := memOk_arriveB h fun _ ht => ht

theorem memOk_barwB (h : MemOk s) {cls : BitVec 2} {i : BitVec 4} {c : Ctx} : (barwB cls i c s).Ok := by
  unfold barwB
  dsimp only
  split
  · exact memOk_awaitPhase h
  · refine memOk_uniform h fun t ht => ok_if ht ?_
    split
    · exact memOk_awaitPhase ht
    · exact memOk_awaitPhase (memOk_barLook.mpr ht)

theorem memOk_eqpB (h : MemOk s) {n : BitVec 16} {c : Ctx} : (eqpB n c s).Ok := memOk_uniform h fun _ ht => ht

theorem memOk_migrArrive {gid : Nat} {cls : Bool} {n : BitVec 16} : MemOk (migrArrive s gid cls n) ↔ MemOk s := by
  unfold migrArrive
  simp only [MemOk, iff_self, memOk_migSettle, memOk_setTeam]

theorem memOk_migrB (h : MemOk s) {cls : Bool} {n : BitVec 16} {c : Ctx} : (migrB cls n c s).Ok := by
  unfold migrB
  dsimp only
  (repeat' split) <;> simp only [MemOk, Act.ok_wait, Act.ok_fault, memOk_migrArrive, h]

theorem memOk_roleswB (h : MemOk s) {i : BitVec 3} {c : Ctx} : (roleswB i c s).Ok := by
  refine memOk_uniform h fun t ht => ?_
  dsimp only
  (repeat' split) <;> exact ht

theorem memOk_exitB (h : MemOk s) {c : Ctx} : (exitB c s).Ok := by
  unfold exitB
  simp only [MemOk, Act.ok_stay, memOk_ite, ite_self, memOk_setGrp, memOk_retireGroup, h]

theorem memOk_ifenceB (h : MemOk s) {c : Ctx} : (ifenceB c s).Ok := h

theorem memOk_trapB (h : MemOk s) {code : BitVec 16} {c : Ctx} : (trapB code c s).Ok := h

theorem memOk_xretB (h : MemOk s) {skip : Bool} {c : Ctx} : (xretB skip c s).Ok := by
  unfold xretB
  dsimp only
  (repeat' split) <;> simp only [MemOk, Act.ok_stay, Act.ok_fault, memOk_onGrp, memOk_noteWords, h]

theorem memOk_xrdB (h : MemOk s) {k : SReg} {i : BitVec 8} {c : Ctx} : (xrdB k i c s).Ok := h

theorem memOk_xwrBar (h : MemOk s) {cls i : Nat} {v : Word} {c : Ctx} : (xwrBar cls i v c s).Ok := by
  unfold xwrBar
  simp only [MemOk, Act.ok_done, Act.ok_fault, ok_ite, ite_self, memOk_barAdvance, memOk_setBar, h]

theorem memOk_xwrB (h : MemOk s) {k : SReg} {i : BitVec 8} {c : Ctx} : (xwrB k i c s).Ok := by
  unfold xwrB
  dsimp only
  (repeat' split) <;> simp only [MemOk, Act.ok_done, Act.ok_fault, memOk_xwrBar, memOk_onGrp, h]

theorem memOk_sreadB (h : MemOk s) {k : SReg} {i : BitVec 8} {c : Ctx} : (sreadB k i c s).Ok := h

theorem memOk_litB (h : MemOk s) {wide : Bool} {v : DWord} {c : Ctx} : (litB wide v c s).Ok := by
  unfold litB
  dsimp only
  (repeat' split) <;> simp only [MemOk, Act.ok_same, Act.ok_fault, memOk_setGrp, h]

/-! ### The operations of Integer.lean -/

theorem memOk_intB (h : MemOk s) {op : LaneOp} {d a b : Nat} {c : Ctx} : (intB op d a b c s).Ok := h

theorem memOk_fieldB (h : MemOk s) {op : LaneOp} {d a b : Nat} {c : Ctx} : (fieldB op d a b c s).Ok := h

theorem memOk_selB (h : MemOk s) {d a b : Nat} {c : Ctx} : (selB d a b c s).Ok := by
  unfold selB
  simp only [MemOk, Act.ok_done, Act.ok_fault, ok_ite, ite_self, memOk_onGrp, h]

theorem memOk_iaddcB (h : MemOk s) {d a b : Nat} {c : Ctx} : (iaddcB d a b c s).Ok := h

theorem memOk_icmpB (h : MemOk s) {cond p : BitVec 3} {a b : Nat} {c : Ctx} : (icmpB cond p a b c s).Ok := h

theorem memOk_moviB (h : MemOk s) {d : Nat} {c : Ctx} : (moviB d c s).Ok := h

theorem memOk_iaddiB (h : MemOk s) {d a : Nat} {c : Ctx} : (iaddiB d a c s).Ok := h

theorem memOk_leaB (h : MemOk s) {d : Nat} {k : VReg} {b : BitVec 3} {c : Ctx} : (leaB d k b c s).Ok := h

theorem memOk_scalB (h : MemOk s) {f : Word → Word → Word} {d a b : SReg} {c : Ctx} : (scalB f d a b c s).Ok := h

theorem memOk_smovB (h : MemOk s) {d a : SReg} {c : Ctx} : (smovB d a c s).Ok := h

theorem memOk_smoviB (h : MemOk s) {pair : Bool} {d : SReg} {c : Ctx} : (smoviB pair d c s).Ok := h

theorem memOk_sleaB (h : MemOk s) {d : SReg} {b : BitVec 3} {c : Ctx} : (sleaB d b c s).Ok := h

theorem memOk_scmpB (h : MemOk s) {cond p : BitVec 3} {a b : SReg} {c : Ctx} : (scmpB cond p a b c s).Ok := h

theorem memOk_vtosB (h : MemOk s) {d : SReg} {a : Nat} {c : Ctx} : (vtosB d a c s).Ok := by
  unfold vtosB
  split <;> simp only [MemOk, Act.ok_done, Act.ok_fault, ok_ite, ite_self, memOk_onGrp, h]

theorem memOk_stovB (h : MemOk s) {d : Nat} {a : SReg} {c : Ctx} : (stovB d a c s).Ok := h

/-! ### The operations of FloatOps.lean -/

theorem memOk_floatB (h : MemOk s) {op : FloatOp} {d a b : Nat} {c : Ctx} : (floatB op d a b c s).Ok := h

theorem memOk_fldexpB (h : MemOk s) {d a b : Nat} {c : Ctx} : (fldexpB d a b c s).Ok := h

theorem memOk_fexpoB (h : MemOk s) {d a : Nat} {c : Ctx} : (fexpoB d a c s).Ok := h

theorem memOk_fclassB (h : MemOk s) {d a : Nat} {c : Ctx} : (fclassB d a c s).Ok := h

theorem memOk_fsignB (h : MemOk s) {k d a b : Nat} {c : Ctx} : (fsignB k d a b c s).Ok := h

theorem memOk_fcmpB (h : MemOk s) {cond p : BitVec 3} {a b : Nat} {c : Ctx} : (fcmpB cond p a b c s).Ok := h

theorem memOk_sfuB (h : MemOk s) {fn d a : Nat} {c : Ctx} : (sfuB fn d a c s).Ok := by
  unfold sfuB
  simp only [MemOk, Act.ok_done, Act.ok_wait, ok_ite, ite_self, memOk_onGrp, h]

theorem memOk_cvtB (h : MemOk s) {src d a : Nat} {c : Ctx} : (cvtB src d a c s).Ok := h

theorem memOk_cvtiB (h : MemOk s) {src d a : Nat} {c : Ctx} : (cvtiB src d a c s).Ok := h

theorem memOk_packB (h : MemOk s) {d a b : Nat} {c : Ctx} : (packB d a b c s).Ok := h

theorem memOk_unpkB (h : MemOk s) {d a : Nat} {c : Ctx} : (unpkB d a c s).Ok := h

theorem memOk_qclrB (h : MemOk s) {h' : Nat} {c : Ctx} : (qclrB h' c s).Ok := h

theorem memOk_qhistB (h : MemOk s) {h' a b : Nat} {c : Ctx} : (qhistB h' a b c s).Ok := by
  unfold qhistB
  split <;> simp only [MemOk, Act.ok_done, Act.ok_fault, ok_ite, ite_self, memOk_onGrp, h]

theorem memOk_qscaleB (h : MemOk s) {d h' b : Nat} {c : Ctx} : (qscaleB d h' b c s).Ok := by
  unfold qscaleB
  split <;> simp only [MemOk, Act.ok_done, Act.ok_fault, ok_ite, ite_self, memOk_onGrp, h]

theorem memOk_quantB (h : MemOk s) {d a b : Nat} {c : Ctx} : (quantB d a b c s).Ok := h

theorem memOk_deqB (h : MemOk s) {d a b : Nat} {c : Ctx} : (deqB d a b c s).Ok := h

/-! ### The operations of Memory.lean -/

theorem memOk_withAccs (h : MemOk s) {c : Ctx} {k : Acc} {w : Nat} {xs : List (Nat × Nat)} {go : List (Nat × Nat × Nat × Nat × Nat) → Act}
    (hgo : ∀ l, (go l).Ok) : (withAccs c s k w xs go).Ok := by
  unfold withAccs
  dsimp only
  (repeat' split) <;> simp only [MemOk, Act.ok_wait, Act.ok_fault, h, hgo]

theorem memOk_withLanes (h : MemOk s) {c : Ctx} {k : Acc} {w : Nat} {m : Lanes} {addr : Nat → Nat}
    {go : List (Nat × Nat × Nat × Nat × Nat) → Act} (hgo : ∀ l, (go l).Ok) : (withLanes c s k w m addr go).Ok := by
  unfold withLanes
  simp only [MemOk, implies_true, memOk_withAccs, h, hgo]

theorem memOk_noteAll {asid : Nat} {as_ : List (Nat × Nat × Nat × Nat × Nat)} : MemOk (noteAll s asid as_) ↔ MemOk s := by
  unfold noteAll
  simp only [MemOk, memOk_foldl, implies_true, iff_self, memOk_noteTlb]

theorem memOk_laneEvents {gid : Nat} {as_ : List (Nat × Nat × Nat)} : MemOk (laneEvents s gid as_).2 ↔ MemOk s := by
  unfold laneEvents
  refine memOk_foldl_snd (fun p a => ?_) _ _
  exact Iff.rfl

theorem memOk_pushLoad {gid : Nat} {op : LoadOp} {dregs : Nat} : MemOk (pushLoad s gid op dregs) ↔ MemOk s := Iff.rfl

theorem memOk_pushStore {gid : Nat} {op : StoreOp} : MemOk (pushStore s gid op) ↔ MemOk s := Iff.rfl

theorem memOk_holdAt (h : MemOk s) {c : Ctx} {excl : Lanes} {as_ : List (Nat × Nat × Nat × Nat × Nat)} {ld : Option LoadOp}
    {st : Option StoreOp} : (holdAt c s excl as_ ld st).Ok :=
  h

theorem memOk_noteFloors {gid : Nat} {acq : Bool} {sc w : Nat} {accs : List LaneAcc} :
    MemOk (noteFloors s gid acq sc w accs) ↔ MemOk s := by
  unfold noteFloors
  simp only [MemOk, memOk_ite, memOk_foldl, ite_self, implies_true, iff_self, memOk_noteFloor]

theorem memOk_loadB (h : MemOk s) {ext : Bool} {d k : VReg} {sc : BitVec 3} {o : BitVec 2} {b : BitVec 3} {c : Ctx} :
    (loadB ext d k sc o b c s).Ok := by
  unfold loadB
  simp only [MemOk, Act.ok_done, Act.ok_wait, ok_ite, ite_self, implies_true, memOk_withLanes, memOk_holdAt, memOk_noteAll,
    memOk_laneEvents, memOk_noteFloors, memOk_pushLoad, h]

theorem memOk_enterWrites {gid sc o w : Nat} {accs : List LaneAcc} {val : Nat → Nat} :
    MemOk (enterWrites s gid sc o w accs val) ↔ MemOk s := by
  unfold enterWrites
  simp only [MemOk, memOk_ite, memOk_foldl, ite_self, implies_true, iff_self, memOk_addWrite]

theorem memOk_storeB (h : MemOk s) {kind : StoreKind} {val : Group → Word → Nat → Nat × Nat} {d k : VReg} {sc : BitVec 3} {o : BitVec 2}
    {b : BitVec 3} {c : Ctx} : (storeB kind val d k sc o b c s).Ok := by
  unfold storeB
  simp only [MemOk, Act.ok_done, Act.ok_wait, ok_ite, ite_self, implies_true, memOk_withLanes, memOk_holdAt, memOk_noteAll,
    memOk_laneEvents, memOk_enterWrites, memOk_modGrp, memOk_pushStore, h]

theorem memOk_stB (h : MemOk s) {d k : VReg} {sc : BitVec 3} {o : BitVec 2} {b : BitVec 3} {c : Ctx} : (stB d k sc o b c s).Ok := by
  unfold stB
  simp only [MemOk, memOk_storeB, h]

theorem memOk_stxB (h : MemOk s) {d k : VReg} {sc : BitVec 3} {o : BitVec 2} {b : BitVec 3} {c : Ctx} : (stxB d k sc o b c s).Ok := by
  unfold stxB
  simp only [MemOk, memOk_storeB, h]

theorem memOk_stnB (h : MemOk s) {d k : VReg} {sc : BitVec 3} {o : BitVec 2} {b : BitVec 3} {c : Ctx} : (stnB d k sc o b c s).Ok := by
  unfold stnB
  simp only [MemOk, memOk_storeB, h]

theorem memOk_clearPois {keys : List (Nat × Nat)} : MemOk (clearPois s keys) ↔ MemOk s := by
  unfold clearPois
  simp only [MemOk, memOk_ite, ite_self, iff_self]

theorem memOk_atomicB (h : MemOk s) {aop : Nat} {d k : VReg} {sc : BitVec 3} {o : BitVec 2} {b : BitVec 3} {c : Ctx} :
    (atomicB aop d k sc o b c s).Ok := by
  unfold atomicB
  simp only [MemOk, Act.ok_done, Act.ok_wait, ok_ite, ite_self, implies_true, memOk_withLanes, memOk_holdAt, memOk_noteAll,
    memOk_laneEvents, memOk_noteFloors, memOk_pushLoad, memOk_notePend, h]

theorem memOk_reduceB (h : MemOk s) {aop : Nat} {d k : VReg} {sc : BitVec 3} {o : BitVec 2} {b : BitVec 3} {c : Ctx} :
    (reduceB aop d k sc o b c s).Ok := by
  unfold reduceB
  simp only [MemOk, Act.ok_done, Act.ok_wait, ok_ite, ite_self, implies_true, memOk_withLanes, memOk_noteAll, memOk_laneEvents,
    memOk_pushStore, memOk_notePend, h]

theorem memOk_lsRead {gid l tid o w ch node : Nat} : MemOk (lsRead s gid l tid o w ch node).1 ↔ MemOk s := Iff.rfl

theorem memOk_lsEvent {gid : Nat} {ls : List Nat} : MemOk (lsEvent s gid ls).2 ↔ MemOk s := Iff.rfl

theorem memOk_lsLoads {gid tid w node : Nat} {addr : Nat → Nat} {ls : List Nat} : MemOk (lsLoads s gid tid w node addr ls).1 ↔ MemOk s := by
  unfold lsLoads
  refine memOk_foldl_fst (fun p a => ?_) _ _
  exact memOk_lsRead

theorem memOk_ldsB (h : MemOk s) {d k : VReg} {c : Ctx} : (ldsB d k c s).Ok := by
  unfold ldsB
  dsimp only
  (repeat' split) <;> simp only [MemOk, Act.ok_done, Act.ok_fault, memOk_lsEvent, memOk_lsLoads, memOk_modGrp, h]

theorem memOk_lsWriteAs (h : MemOk s) {ag : Nat} {pl : Place} {tid o : Nat} {bytes : List Byte} {node : Nat} :
    MemOk (lsWriteAs s ag pl tid o bytes node) := by
  unfold lsWriteAs
  simp only [MemOk, memOk_addWrite, memOk_perform, memOk_modTeam, h]

theorem memOk_lsWrite (h : MemOk s) {gid tid o : Nat} {bytes : List Byte} {node : Nat} : MemOk (lsWrite s gid tid o bytes node) := by
  unfold lsWrite
  simp only [MemOk, memOk_lsWriteAs, h]

theorem memOk_stsB (h : MemOk s) {d k : VReg} {c : Ctx} : (stsB d k c s).Ok := by
  unfold stsB
  dsimp only
  split
  · exact h
  · split
    · exact h
    · split
      · exact h
      · exact MemOk.foldl (fun _ _ ht => memOk_lsWrite ht) (memOk_lsEvent.mpr h) _

theorem memOk_withPriv (h : MemOk s) {c : Ctx} {k : Acc} {kr : VReg} {go : List (Nat × Nat × Nat × Nat × Nat) → Act} (hgo : ∀ l, (go l).Ok) :
    (withPriv c s k kr go).Ok := by
  unfold withPriv
  dsimp only
  (repeat' split) <;> simp only [MemOk, Act.ok_fault, implies_true, memOk_withAccs, h, hgo]

theorem memOk_ldpB (h : MemOk s) {d k : VReg} {c : Ctx} : (ldpB d k c s).Ok := by
  unfold ldpB
  simp only [MemOk, Act.ok_done, Act.ok_wait, ok_ite, ite_self, implies_true, memOk_withPriv, memOk_noteAll, memOk_laneEvents,
    memOk_pushLoad, h]

theorem memOk_stpB (h : MemOk s) {d k : VReg} {c : Ctx} : (stpB d k c s).Ok := by
  unfold stpB
  simp only [MemOk, Act.ok_done, Act.ok_wait, memOk_ite, ok_ite, memOk_foldl, ite_self, implies_true, iff_self, memOk_withPriv,
    memOk_noteAll, memOk_laneEvents, memOk_addWrite, memOk_pushStore, h]

theorem memOk_srsetB (h : MemOk s) {k : SReg} {c : Ctx} : (srsetB k c s).Ok := by
  unfold srsetB
  simp only [MemOk, Act.ok_done, Act.ok_fault, ok_ite, ite_self, memOk_onGrp, h]

theorem memOk_fenceLanes {c : Ctx} {sc o : Nat} {seq : Bool} {obj : Option (Nat × Nat)} :
    MemOk (fenceLanes c s sc o seq obj) ↔ MemOk s := by
  unfold fenceLanes
  simp only [MemOk, memOk_ite, ite_self, iff_self, memOk_modGrp]

theorem memOk_fenceB (h : MemOk s) {sc : BitVec 3} {o : BitVec 2} {seq : Bool} {c : Ctx} : (fenceB sc o seq c s).Ok := by
  unfold fenceB
  simp only [MemOk, Act.ok_done, Act.ok_wait, ok_ite, ite_self, memOk_fenceLanes, h]

theorem memOk_ofenceB (h : MemOk s) {sc : BitVec 3} {o : BitVec 2} {b : BitVec 3} {c : Ctx} : (ofenceB sc o b c s).Ok := by
  unfold ofenceB
  dsimp only
  (repeat' split) <;> simp only [MemOk, Act.ok_done, memOk_fenceB, memOk_fenceLanes, h]

theorem memOk_rangeB (h : MemOk s) {rop : Nat} {n : SReg} {b : BitVec 3} {c : Ctx} : (rangeB rop n b c s).Ok := by
  unfold rangeB
  simp only [MemOk, Act.ok_done, Act.ok_wait, Act.ok_fault, ok_ite, ite_self, memOk_pushStore, h]

theorem memOk_pfetchB (h : MemOk s) {k : VReg} {b : BitVec 3} {c : Ctx} : (pfetchB k b c s).Ok := by
  unfold pfetchB
  simp only [MemOk, Act.ok_done, Act.ok_wait, ok_ite, ite_self, memOk_pushLoad, h]

theorem memOk_locateB (h : MemOk s) {k : VReg} {b : BitVec 3} {c : Ctx} : (locateB k b c s).Ok := by
  unfold locateB
  simp only [MemOk, Act.ok_done, Act.ok_wait, ok_ite, ite_self, implies_true, memOk_withLanes, memOk_noteAll, memOk_pushLoad, h]

theorem memOk_readRecord (h : MemOk s) {c : Ctx} {va n : Nat} {t : State × List Byte} (ht : readRecord c s va n = .ok t) : MemOk t.1 := by
  unfold readRecord at ht
  cases hl : recordLines c s va n with
  | error e =>
    rw [hl] at ht
    exact nomatch ht
  | ok ls =>
    rw [hl] at ht
    obtain rfl := Except.ok.inj ht
    refine (memOk_foldl_fst (fun p a => ?_) _ _).mpr ?_
    · rw [memOk_ite_fst, memOk_returnLoad, ite_self]
    · exact h

theorem memOk_noteRecord {c : Ctx} {va n : Nat} : MemOk (noteRecord c s va n) ↔ MemOk s := by
  unfold noteRecord
  split <;> simp only [MemOk, memOk_foldl, implies_true, iff_self, memOk_noteTlb, memOk_crossDemote, memOk_refuseAll]

theorem memOk_withRecord (h : MemOk s) {c : Ctx} {va n : Nat} {k : List Byte → State → Act} (hk : ∀ b t, MemOk t → (k b t).Ok) :
    (withRecord c s va n k).Ok := by
  unfold withRecord
  split
  · exact h
  · split
    · exact memOk_noteRecord.mpr h
    · next r hr => exact hk _ _ (memOk_noteRecord.mpr (memOk_readRecord h hr))

theorem memOk_objdefB (h : MemOk s) {n : SReg} {b : BitVec 3} {c : Ctx} : (objdefB n b c s).Ok := by
  unfold objdefB
  exact ok_if h (ok_if h (memOk_withRecord h fun _ _ ht => ok_if ht (ok_if ht (memOk_modGrp.mpr ht))))

theorem memOk_objdelB (h : MemOk s) {n : SReg} {c : Ctx} : (objdelB n c s).Ok := by
  unfold objdelB
  dsimp only
  (repeat' split) <;> simp only [MemOk, Act.ok_done, Act.ok_wait, Act.ok_fault, memOk_modGrp, h]

theorem memOk_tileB (h : MemOk s) {top : Nat} {n : SReg} {b : BitVec 3} {c : Ctx} : (tileB top n b c s).Ok := by
  unfold tileB
  simp only [MemOk, Act.ok_done, Act.ok_wait, Act.ok_fault, ok_ite, ite_self, memOk_fragEvent, memOk_modGrp, h]

theorem memOk_allocB (h : MemOk s) {n : SReg} {c : Ctx} : (allocB n c s).Ok := by
  unfold allocB
  simp only [MemOk, Act.ok_done, Act.ok_wait, Act.ok_fault, ok_ite, ite_self, memOk_fragEvent, memOk_modGrp, h]

theorem memOk_freeB (h : MemOk s) {n : SReg} {c : Ctx} : (freeB n c s).Ok := by
  unfold freeB
  simp only [MemOk, Act.ok_done, Act.ok_wait, ok_ite, ite_self, memOk_fragEvent, memOk_modGrp, h]

/-! ### The operations of Engine.lean -/

theorem memOk_engineB (h : MemOk s) {c : Ctx} {k : State → Act} (hk : ∀ t, MemOk t → (k t).Ok) : (engineB c s k).Ok := by
  unfold engineB
  simp only [MemOk, Act.ok_done, ok_ite, ite_self, h, hk]

theorem memOk_withObj (h : MemOk s) {c : Ctx} {off n al : Nat} {k : Act} (hk : k.Ok) : (withObj c s off n al k).Ok := by
  unfold withObj
  dsimp only
  (repeat' split) <;> simp only [MemOk, Act.ok_fault, h, hk]

theorem memOk_releaseB (h : MemOk s) {c : Ctx} {k : Act} (hk : k.Ok) : (releaseB c s k).Ok := by
  unfold releaseB
  simp only [MemOk, Act.ok_wait, ok_ite, ite_self, h, hk]

theorem memOk_releaseBB {tid off st : Nat} {gen : Nat → Bool} : MemOk (releaseBB s tid off st gen) ↔ MemOk s := Iff.rfl

theorem memOk_lsUpdate (h : MemOk s) {ag : Nat} {pl : Place} {tid off : Nat} {bytes : List Byte} {node : Nat} :
    MemOk (lsUpdate s ag pl tid off bytes node) := by
  unfold lsUpdate
  simp only [MemOk, memOk_modTeam, memOk_lsWriteAs, h]

theorem memOk_putBB (h : MemOk s) {ag : Nat} {pl : Place} {tid off node : Nat} {init : Bool} {b : BB} :
    MemOk (putBB s ag pl tid off node init b) := by
  unfold putBB
  simp only [MemOk, memOk_modTeam, memOk_lsUpdate, h]

theorem memOk_setBB (h : MemOk s) {ag : Nat} {pl : Place} {tid off node : Nat} {b : BB} : MemOk (setBB s ag pl tid off node b) := by
  unfold setBB
  simp only [MemOk, memOk_ite, ite_self, memOk_putBB, memOk_releaseBB, h]

theorem memOk_noteEv {tid off kind node : Nat} : MemOk (noteEv s tid off kind node) ↔ MemOk s := Iff.rfl

theorem memOk_dropEvs {tid off kind : Nat} : MemOk (dropEvs s tid off kind) ↔ MemOk s := Iff.rfl

theorem memOk_arriveBB (h : MemOk s) {ag : Nat} {pl : Place} {tid off gen n node : Nat} :
    MemOk (arriveBB s ag pl tid off gen n node).1 := by
  unfold arriveBB
  dsimp only
  (repeat' split) <;> simp only [MemOk, memOk_setBB, memOk_noteEv, h]

theorem memOk_nextGen (h : MemOk s) {c : Ctx} {off : Nat} {n : Option Nat} : MemOk (nextGen c s off n) := by
  unfold nextGen
  simp only [MemOk, memOk_fragEvent, memOk_releaseBB, memOk_dropEvs, memOk_putBB, h]

theorem memOk_bbinitB (h : MemOk s) {a b : SReg} {c : Ctx} : (bbinitB a b c s).Ok :=
  memOk_engineB h fun _ ht => memOk_withObj ht (ok_if ht (memOk_nextGen ht))

theorem memOk_bbinvB (h : MemOk s) {a : SReg} {c : Ctx} : (bbinvB a c s).Ok :=
  memOk_engineB h fun _ ht => memOk_withObj ht (memOk_nextGen ht)

theorem memOk_bbexpB (h : MemOk s) {a b : SReg} {c : Ctx} : (bbexpB a b c s).Ok :=
  memOk_engineB h fun _ ht => memOk_withObj ht (memOk_setBB (memOk_fragEvent.mpr ht))

theorem memOk_bbarrB (h : MemOk s) {a b : SReg} {c : Ctx} : (bbarrB a b c s).Ok :=
  memOk_engineB h fun _ ht => memOk_withObj ht (memOk_releaseB ht (memOk_arriveBB (memOk_fragEvent.mpr ht)))

theorem memOk_bbReturn (h : MemOk s) {d : SReg} {c : Ctx} {off gen st : Nat} : (bbReturn d c s off gen st).Ok := h

theorem memOk_bbwaitB (h : MemOk s) {d a : SReg} {c : Ctx} : (bbwaitB d a c s).Ok := by
  refine memOk_engineB h fun t ht => ?_
  dsimp only
  have hput : ∀ {w off b}, MemOk (putBB (fragEvent c t []).2 (lsAgent c.gid) w (t.grp c.gid).team off (fragEvent c t []).1 false b) :=
    memOk_putBB (memOk_fragEvent.mpr ht)
  split
  · exact memOk_bbReturn ht
  · split
    · exact hput
    · split
      · exact memOk_bbReturn ht
      · split
        · exact memOk_bbReturn hput
        · exact ht
  · refine memOk_withObj ht ?_
    split
    · exact memOk_bbReturn ht
    · exact hput

theorem memOk_setRing (h : MemOk s) {w : Who} {off : Nat} {r : Ring} : MemOk (setRing s w off r) := by
  unfold setRing
  simp only [MemOk, memOk_lsUpdate, h]

theorem memOk_setSlot (h : MemOk s) {w : Who} {o st : Nat} : MemOk (setSlot s w o st) := by
  unfold setSlot
  simp only [MemOk, memOk_lsUpdate, h]

theorem memOk_ringDone (h : MemOk s) {w : Who} {off slot : Nat} {t : State} (ht : ringDone s w off slot = .ok t) : MemOk t := by
  unfold ringDone at ht
  dsimp only at ht
  split at ht
  · exact nomatch ht
  · split at ht
    · exact nomatch ht
    · split at ht
      · exact nomatch ht
      · obtain rfl := Except.ok.inj ht
        exact memOk_noteEv.mpr (memOk_dropEvs.mpr (memOk_setRing (memOk_setSlot h)))

theorem memOk_ringServe (h : MemOk s) {w : Who} {off : Nat} {take : Bool} : MemOk (ringServe s w off take).1 := by
  unfold ringServe
  dsimp only
  (repeat' split) <;> simp only [MemOk, memOk_setRing, memOk_setSlot, h]

theorem memOk_whoGrp {c : Ctx} : MemOk (whoGrp c s).2 ↔ MemOk s := Iff.rfl

theorem memOk_withRing (h : MemOk s) {c : Ctx} {off : Nat} {k : Act} (hk : k.Ok) : (withRing c s off k).Ok := by
  unfold withRing
  simp only [MemOk, Act.ok_fault, ok_ite, ite_self, memOk_withObj, h, hk]

theorem memOk_rinitB (h : MemOk s) {a : SReg} {c : Ctx} : (rinitB a c s).Ok := by
  refine memOk_engineB h fun t ht => memOk_withObj ht (ok_if ht (ok_if ht (ok_if ht (memOk_setRing (MemOk.foldl (fun u j hu => ?_) ?_ _)))))
  · exact memOk_dropEvs.mpr (memOk_dropEvs.mpr (memOk_setSlot hu))
  · exact memOk_whoGrp.mpr ht

theorem memOk_ringIssue (h : MemOk s) {c : Ctx} {d : SReg} {v : Nat} {ev : List Nat} : (ringIssue c s d v ev).Ok := h

theorem memOk_ringGetB (h : MemOk s) {take : Bool} {d a : SReg} {c : Ctx} : (ringGetB take d a c s).Ok := by
  refine memOk_engineB h fun t ht => ?_
  dsimp only
  split
  · exact ok_if ht (memOk_ringIssue ht)
  · refine memOk_withRing ht (ok_if ht (ok_if ht (ok_if ?_ (memOk_ringIssue (memOk_ringServe (memOk_whoGrp.mpr ?_))))))
    · split <;> exact ht
    · split <;> exact ht

theorem memOk_rpubB (h : MemOk s) {d a b : SReg} {c : Ctx} : (rpubB d a b c s).Ok := by
  refine memOk_engineB h fun t ht => memOk_withRing ht ?_
  dsimp only
  split
  · exact ht
  · split
    · exact ht
    · split
      · exact ht
      · split
        · exact ht
        · exact memOk_releaseB ht (memOk_noteEv.mpr (memOk_dropEvs.mpr (memOk_setRing (memOk_lsWriteAs (memOk_whoGrp.mpr ht)))))

theorem memOk_rdoneB (h : MemOk s) {a b : SReg} {c : Ctx} : (rdoneB a b c s).Ok := by
  refine memOk_engineB h fun t ht => memOk_withRing ht ?_
  dsimp only
  split
  · exact ht
  · next u hu => exact memOk_releaseB ht (memOk_ringDone (memOk_whoGrp.mpr ht) hu)

theorem memOk_closeWaiters {tid off : Nat} : MemOk (closeWaiters s tid off) ↔ MemOk s := Iff.rfl

theorem memOk_rcloseB (h : MemOk s) {a : SReg} {c : Ctx} : (rcloseB a c s).Ok :=
  memOk_engineB h fun _ ht => memOk_withRing ht (memOk_closeWaiters.mpr (memOk_setRing (memOk_whoGrp.mpr ht)))

theorem memOk_pushBatch {tid : Nat} {sb : Bool} {b : Batch} : MemOk (pushBatch s tid sb b) ↔ MemOk s := Iff.rfl

theorem memOk_lsBytes {c : Ctx} {off n node : Nat} : MemOk (lsBytes c s off n node).1 ↔ MemOk s := by
  unfold lsBytes
  refine memOk_foldl_fst (fun p a => ?_) _ _
  exact memOk_lsRead

theorem memOk_spushB (h : MemOk s) {a b : SReg} {c : Ctx} : (spushB a b c s).Ok := by
  refine memOk_engineB h fun t ht => ok_if ht (ok_if ht (memOk_withObj ht (ok_if ht (memOk_pushBatch.mpr ?_))))
  exact memOk_lsBytes.mpr (memOk_fragEvent.mpr ht)

theorem memOk_readGens {c : Ctx} {off node : Nat} {ts : List Nat} : MemOk (readGens c s off node ts).1 ↔ MemOk s := by
  unfold readGens
  refine memOk_foldl_fst (fun p a => ?_) _ _
  exact memOk_lsRead

theorem memOk_startCopy {c : Ctx} {d : SReg} {cp : Copy} : MemOk (startCopy c s d cp) ↔ MemOk s := Iff.rfl

theorem memOk_tcopyB (h : MemOk s) {multi : Bool} {d a b : SReg} {c : Ctx} : (tcopyB multi d a b c s).Ok := by
  refine memOk_engineB h fun t ht => ok_if ht (ok_if ht (memOk_withRecord ht fun b u hu => ok_if hu (ok_if hu (ok_if hu ?_))))
  split
  · exact hu
  · refine ok_if hu (ok_if hu ?_)
    split
    · exact hu
    · split
      · exact hu
      · refine ok_if hu (memOk_startCopy.mpr (memOk_if_fst ?_ (memOk_readGens.mpr ?_)))
        · exact memOk_fragEvent.mpr hu
        · exact memOk_fragEvent.mpr hu

theorem memOk_chainB (h : MemOk s) {d a : SReg} {c : Ctx} : (chainB d a c s).Ok := by
  refine memOk_engineB h fun t ht => ok_if ht (memOk_withObj ht (ok_if ht ?_))
  have hb := memOk_lsBytes (off := sNat t c a) (n := 96) (node := (fragEvent c t []).1) (c := c) |>.mpr
    (memOk_fragEvent (c := c) (more := []) |>.mpr ht)
  exact ok_if ht (memOk_startCopy.mpr hb)

theorem memOk_copyWrite (h : MemOk s) {cid node key : Nat} {pl : Place} {bytes : List Byte} :
    MemOk (copyWrite s cid node key pl bytes) := by
  unfold copyWrite
  simp only [MemOk, memOk_ite, ite_self, memOk_lostStore, memOk_addWrite, memOk_clearPois, memOk_ackW, memOk_perform, h]

theorem memOk_holdReads (h : MemOk s) {cid what node : Nat} {bs : List ByteRef} {find : Bool} {t : State}
    (ht : holdReads s cid what node bs find = some t) : MemOk t := by
  unfold holdReads at ht
  dsimp only at ht
  split at ht
  · obtain rfl := Option.some.inj ht
    exact h
  · exact nomatch ht

theorem memOk_demoteReads {asid : Nat} {bs : List ByteRef} : MemOk (demoteReads s asid bs) ↔ MemOk s := by
  unfold demoteReads
  simp only [MemOk, memOk_foldl, implies_true, iff_self, memOk_crossDemote]

theorem memOk_copyEvent {cp : Copy} : MemOk (copyEvent s cp).2 ↔ MemOk s := by
  unfold copyEvent
  split <;> simp only [MemOk, iff_self]

theorem memOk_writeLine (h : MemOk s) {cid line : Nat} {held : List Nat} {ch : Nat} : MemOk (writeLine s cid line held ch) := by
  unfold writeLine
  dsimp only
  have hev : MemOk (copyEvent s (s.copy cid)).2 := memOk_copyEvent.mpr h
  split
  · next t ht => exact memOk_holdReads hev ht
  · exact MemOk.foldl (fun _ _ hu => memOk_copyWrite hu) (memOk_demoteReads.mpr hev) _

theorem memOk_arriveUnits (h : MemOk s) {cid : Nat} {us : List Nat} {nd : Nat} : MemOk (arriveUnits s cid us nd) := by
  unfold arriveUnits
  dsimp only
  refine MemOk.foldl_fst (fun p a hp => MemOk.foldl_fst (fun q d hq => ?_) hp _) h _
  split
  · exact memOk_if_fst (memOk_arriveBB hq) hq
  · exact hq

theorem memOk_landStored (h : MemOk s) {cid : Nat} : MemOk (landStored s cid) := by
  unfold landStored
  refine MemOk.foldl (fun _ _ ht => memOk_arriveUnits ?_) h _
  exact ht

theorem memOk_storeMove (h : MemOk s) {cid ch : Nat} : MemOk (storeMove s cid ch) := by
  unfold storeMove
  dsimp only
  (repeat' split) <;> simp only [MemOk, memOk_landStored, memOk_writeLine, memOk_setCopy, memOk_unpark, h]

theorem memOk_loadMove (h : MemOk s) {cid ch : Nat} : MemOk (loadMove s cid ch) := by
  unfold loadMove
  dsimp only
  split
  · exact h
  · have hev : MemOk (copyEvent s (s.copy cid)).2 := memOk_copyEvent.mpr h
    split
    · next t ht => exact memOk_holdReads hev ht
    · refine memOk_arriveUnits (memOk_if ?_ (MemOk.foldl (fun u d hu => memOk_if (memOk_lsWriteAs hu) hu) ?_ _))
      · exact memOk_demoteReads.mpr hev
      · exact memOk_demoteReads.mpr hev

theorem memOk_failBytes (h : MemOk s) {cid ch : Nat} : MemOk (failBytes s cid ch) := by
  unfold failBytes
  refine memOk_if h (MemOk.foldl (fun t i ht => memOk_if ht (MemOk.foldl (fun u d hu => memOk_if (memOk_lsWriteAs hu) hu) ?_ _)) ?_ _)
  · exact memOk_refuseAll.mpr ht
  · exact h

theorem memOk_failPiece (h : MemOk s) {cid code ch : Nat} : MemOk (failPiece s cid code ch) := by
  unfold failPiece
  simp only [MemOk, memOk_failBytes, memOk_setCopy, h]

theorem memOk_notePieces {asid : Nat} {tr : List (Nat × Nat)} : MemOk (notePieces s asid tr) ↔ MemOk s := by
  unfold notePieces
  refine memOk_foldl (fun t a => ?_) _ _
  split
  · exact memOk_noteTlb
  · exact Iff.rfl

theorem memOk_beginPiece {cid : Nat} {cp : Copy} {stop : Nat} {tr : List (Nat × Nat)} : MemOk (beginPiece s cid cp stop tr) ↔ MemOk s := by
  unfold beginPiece
  simp only [MemOk, iff_self, memOk_refuseAll, memOk_notePieces, memOk_setCopy]

theorem memOk_copyMoves (h : MemOk s) {cid n n' : Nat} : MemOk (copyMoves s cid n n') := by
  induction n generalizing s n' with
  | zero => exact h
  | succ n ih =>
    rw [copyMoves]
    exact memOk_if h (memOk_if (memOk_failPiece h) (ih (memOk_if (memOk_storeMove h) (memOk_loadMove h))))

theorem memOk_transferPiece (h : MemOk s) {cid n ch : Nat} : MemOk (transferPiece s cid n ch) := by
  unfold transferPiece
  split
  · exact h
  · dsimp only
    split
    · exact h
    · split
      · next t ht =>
        (repeat' split at ht) <;> cases ht
        · exact h
        · exact memOk_failPiece h
        · exact h
        · exact h
      · next t ht =>
        have hb : MemOk t := by
          (repeat' split at ht) <;> cases ht
          · exact h
          · exact memOk_beginPiece.mpr h
        exact memOk_if (memOk_setCopy.mpr (memOk_copyMoves hb)) (memOk_copyMoves hb)

theorem memOk_completeCopy (h : MemOk s) {cid : Nat} : MemOk (completeCopy s cid) := by
  unfold completeCopy
  split
  · exact h
  · next cp _ =>
    dsimp only
    refine memOk_if h (memOk_settleGroup (memOk_advanceCbd.mpr (memOk_modGrp.mpr (memOk_setCopy.mpr ?_))))
    have hdest : ∀ c : Prop, [Decidable c] → ∀ t : State, MemOk t → ∀ f : State → Nat × Option (Nat × Nat) → State,
        (∀ u d, MemOk u → MemOk (f u d)) → MemOk (if c then t else cp.dests.foldl f t) :=
      fun c _ t ht f hf => memOk_if ht (MemOk.foldl hf ht _)
    split
    · refine memOk_if (memOk_pushBatch.mpr (hdest _ _ ?_ _ fun u d hu => ?_)) (hdest _ _ ?_ _ fun u d hu => ?_)
      · exact h
      · split
        · exact memOk_if (memOk_noteEv.mpr (memOk_setBB hu)) hu
        · exact hu
      · exact h
      · split
        · exact memOk_if (memOk_noteEv.mpr (memOk_setBB hu)) hu
        · exact hu
    · refine hdest _ _ ?_ _ fun u d hu => ?_
      · exact h
      · split
        · exact memOk_if (memOk_noteEv.mpr (memOk_setBB hu)) hu
        · exact hu

/-! ### The operations of Async.lean -/

theorem memOk_touchLines {gid : Nat} {accs : List LaneAcc} : MemOk (touchLines s gid accs) ↔ MemOk s := by
  unfold touchLines
  simp only [MemOk, memOk_foldl, implies_true, iff_self, memOk_countHit, memOk_crossDemote]

theorem memOk_holdClaimed (h : MemOk s) {accs : List LaneAcc} {t : State} (ht : holdClaimed s accs = some t) : MemOk t := by
  unfold holdClaimed at ht
  dsimp only at ht
  split at ht
  · obtain rfl := Option.some.inj ht
    exact h
  · exact nomatch ht

theorem memOk_standBefore {gid frag : Nat} {pc : DWord} {did : Nat} : MemOk (standBefore s gid frag pc did) ↔ MemOk s := Iff.rfl

theorem memOk_lateFaultAt {gid frag : Nat} {pc : DWord} {did : Nat} {accs : List LaneAcc} {excl : Lanes} :
    MemOk (lateFaultAt s gid frag pc did accs excl) ↔ MemOk s := by
  unfold lateFaultAt
  simp only [MemOk, iff_self, memOk_takeFault, memOk_standBefore]

theorem memOk_loadLane {gid : Nat} {op : LoadOp} {a : LaneAcc} {ch : Nat} : MemOk (loadLane s gid op a ch).1 ↔ MemOk s := by
  unfold loadLane
  split <;> simp only [MemOk, iff_self, memOk_refuse, memOk_returnLoad]

theorem memOk_atomicLane (h : MemOk s) {gid aop ty w sc ord : Nat} {red : Bool} {two : Lanes}
    {fences : List (Nat × Nat × Option (Nat × Nat))} {a : LaneAcc} {x y ch : Nat} :
    MemOk (atomicLane s gid aop ty w sc ord red two fences a x y ch).1 := by
  unfold atomicLane
  dsimp only
  (repeat' split) <;> simp only [MemOk, memOk_unpark, memOk_endPend, memOk_refuse, memOk_lostStore, memOk_returnLoad, memOk_addWrite,
    memOk_ackW, memOk_perform, h]

theorem memOk_atomicRun (h : MemOk s) {gid aop ty w sc ord : Nat} {red : Bool} {two : Lanes}
    {fences : Nat → List (Nat × Nat × Option (Nat × Nat))} {opv : List (Nat × Nat × Nat)} {accs : List LaneAcc} {ch : Nat} :
    MemOk (atomicRun s gid aop ty w sc ord red two fences opv accs ch).1 := by
  unfold atomicRun
  refine MemOk.foldl_fst (fun p a hp => ?_) ?_ _
  · exact memOk_atomicLane hp
  · exact h

theorem memOk_loseWrite {node : Nat} : MemOk (loseWrite s node) ↔ MemOk s := Iff.rfl

theorem memOk_performAt (h : MemOk s) {node key : Nat} : MemOk (performAt s node key) := by
  unfold performAt
  simp only [MemOk, memOk_ite, ite_self, memOk_loseWrite, memOk_ackW, memOk_perform, h]

theorem memOk_loadReturn (h : MemOk s) {gid ch : Nat} : MemOk (loadReturn s gid ch) := by
  unfold loadReturn
  dsimp only
  split
  · exact h
  · next op rest _ =>
    have hpop : ∀ t : State, MemOk t → MemOk (settleGroup (t.modGrp gid fun g => { g with loads := rest }) gid) :=
      fun t ht => memOk_settleGroup (memOk_modGrp.mpr ht)
    split
    · exact hpop _ h
    · refine hpop _ ((memOk_foldl (fun t a => ?_) _ _).mpr h)
      exact memOk_locateLine
    · refine hpop _ (memOk_modGrp.mpr ?_)
      exact memOk_lanesEvent.mpr h
    · refine memOk_if h (memOk_if (memOk_if (memOk_lateFaultAt.mpr (hpop _ (memOk_modGrp.mpr h)))
        (memOk_standBefore.mpr (hpop _ (memOk_modGrp.mpr h)))) ?_)
      split
      · next t ht =>
        split at ht
        · exact memOk_holdClaimed h ht
        · exact nomatch ht
      · refine hpop _ (memOk_modGrp.mpr ((memOk_foldl_fst (fun p a => ?_) _ _).mpr ?_))
        · exact memOk_loadLane
        · exact memOk_touchLines.mpr h
    · refine memOk_if h ?_
      split
      · next t ht => exact memOk_holdClaimed h ht
      · have hend : ∀ (t : State) (l : List LaneAcc), MemOk t → MemOk (l.foldl (fun s a => s.endPend a.node) t) :=
          fun t l ht => (memOk_foldl (fun _ _ => memOk_endPend) t l).mpr ht
        refine memOk_if (memOk_if ?_ ?_) ?_
        · exact memOk_standBefore.mpr (hpop _ (memOk_modGrp.mpr (hend _ _ h)))
        · exact memOk_lateFaultAt.mpr (hpop _ (memOk_modGrp.mpr (memOk_modGrp.mpr (hend _ _ (memOk_atomicRun (memOk_touchLines.mpr h))))))
        · have hrun : ∀ l two fences ch',
            MemOk (atomicRun (if op.sc ≥ 4 then s else touchLines s gid (op.accs.take (atomicLanes op.sc op.accs.length ch))) gid
              l op.ty op.width op.sc op.ord false two fences op.opv (op.accs.take (atomicLanes op.sc op.accs.length ch)) ch').1 :=
            fun _ _ _ _ => memOk_atomicRun (memOk_if h (memOk_touchLines.mpr h))
          exact memOk_if (hpop _ (memOk_modGrp.mpr (hrun _ _ _ _))) (memOk_modGrp.mpr (memOk_modGrp.mpr (hrun _ _ _ _)))

theorem memOk_rangeOne {rop : Nat} {desc : Word} {gid va : Nat} : MemOk (rangeOne rop desc gid s va) ↔ MemOk s := by
  unfold rangeOne
  dsimp only
  (repeat' split) <;> simp only [MemOk, iff_self, memOk_crossDemote, memOk_stnPlace, memOk_unpark]

theorem memOk_dropWrites {accs : List LaneAcc} : MemOk (dropWrites s accs) ↔ MemOk s := Iff.rfl

theorem memOk_storeAck (h : MemOk s) {gid ix ch : Nat} : MemOk (storeAck s gid ix ch) := by
  unfold storeAck
  dsimp only
  split
  · exact h
  · next op _ =>
    refine memOk_if h ?_
    split
    · next t ht => exact memOk_holdClaimed h ht
    · have hpop : ∀ t : State, MemOk t → MemOk (settleGroup
          (t.modGrp gid fun g => { g with stores := g.stores.filter fun u => u.seq != op.seq }) gid) :=
        fun t ht => memOk_settleGroup (memOk_modGrp.mpr ht)
      have hack : ∀ (t : State) (accs : List LaneAcc) (l : List Nat), MemOk t → MemOk (accs.foldl
          (fun (s : State) (a : LaneAcc) => performAt s a.node a.pa) (refuseAll t (s.asidOf (s.grp gid)) l)) :=
        fun t accs l ht => MemOk.foldl (fun _ _ hu => memOk_performAt hu) (memOk_refuseAll.mpr ht) accs
      split
      · exact hpop _ ((memOk_foldl (fun _ _ => memOk_rangeOne) _ _).mpr h)
      · exact memOk_if (hpop _ (memOk_atomicRun h)) (memOk_modGrp.mpr (memOk_atomicRun h))
      · refine hpop _ (memOk_clearPois.mpr (hack _ _ _ ((memOk_foldl (fun t a => ?_) _ _).mpr h)))
        exact memOk_stnPlace
      · refine memOk_if (memOk_if (memOk_lateFaultAt.mpr ?_) (memOk_standBefore.mpr ?_)) (hpop _ (memOk_clearPois.mpr ?_))
        · exact hpop _ (memOk_modGrp.mpr (memOk_dropWrites.mpr (memOk_clearPois.mpr (hack _ _ _ h))))
        · exact hpop _ (memOk_modGrp.mpr (memOk_dropWrites.mpr (memOk_clearPois.mpr (hack _ _ _ h))))
        · exact hack _ _ _ (memOk_touchLines.mpr h)

theorem memOk_putEntryAs (h : MemOk s) {ag : Nat} {pl : Place} {sc : Nat} {rel : Bool} {pa v : Nat} :
    MemOk (putEntryAs s ag pl sc rel pa v) := by
  unfold putEntryAs
  simp only [MemOk, memOk_addWrite, memOk_ackW, memOk_perform, h]

theorem memOk_putEntry (h : MemOk s) {pa v : Nat} : MemOk (putEntry s pa v) := by
  unfold putEntry
  simp only [MemOk, memOk_putEntryAs, h]

theorem memOk_zeroFrame (h : MemOk s) {frame : Nat} : MemOk (zeroFrame s frame) := h.filter _

theorem memOk_dropTlb {asid va : Nat} : MemOk (dropTlb s asid va) ↔ MemOk s := Iff.rfl

theorem memOk_takeFrame {asid f : Nat} : MemOk (takeFrame s asid f) ↔ MemOk s := Iff.rfl

theorem memOk_commitTile (h : MemOk s) {asid ch va : Nat} {t : State} (ht : commitTile asid ch s va = some t) : MemOk t := by
  unfold commitTile at ht
  dsimp only at ht
  (repeat' split at ht) <;> cases ht
  · exact h
  · exact memOk_dropTlb.mpr (memOk_putEntry (memOk_zeroFrame (memOk_takeFrame.mpr h)))

theorem memOk_decommitTile (h : MemOk s) {asid va : Nat} {t : State} (ht : decommitTile asid s va = some t) : MemOk t := by
  unfold decommitTile at ht
  dsimp only at ht
  (repeat' split at ht) <;> cases ht
  · exact h
  · refine memOk_dropTlb.mpr (memOk_putEntry ?_)
    exact h

theorem memOk_tiles (h : MemOk s) {op : State → Nat → Option State} {n n' : Nat} (hop : ∀ t i u, MemOk t → op t i = some u → MemOk u) :
    MemOk (tiles op s n n') := by
  induction n' generalizing s n with
  | zero => exact h
  | succ k ih =>
    rw [tiles]
    split
    · exact h
    · next t ht => exact ih (hop _ _ _ h ht)

theorem memOk_setHeap {h' : Heap} : MemOk (s.setHeap h') ↔ MemOk s := Iff.rfl

theorem memOk_newSlab (h : MemOk s) {asid die cls ch : Nat} {t : State} (ht : newSlab s asid die cls ch = some t) : MemOk t := by
  unfold newSlab at ht
  split at ht
  · exact nomatch ht
  · next va _ =>
    dsimp only at ht
    split at ht
    · exact nomatch ht
    · next u hu =>
      obtain rfl := Option.some.inj ht
      have hready : ∀ c : Prop, [Decidable c] → (if c then some s else commitTile asid ch s va) = some u → MemOk u := fun c _ hc => by
        split at hc
        · exact Option.some.inj hc ▸ h
        · exact memOk_commitTile h hc
      exact memOk_setHeap.mpr (hready _ hu)

theorem memOk_allocServe (h : MemOk s) {asid die size ch : Nat} : MemOk (allocServe s asid die size ch).1 := by
  unfold allocServe
  dsimp only
  have hs : MemOk (if (decide (ch % 2 = 1) || ((s.heapOf asid die).free.filter fun b => b.2.1 == blockClass size).isEmpty) = true
      then (newSlab s asid die (blockClass size) (ch / 2)).getD s else s) := by
    split
    · cases hn : newSlab s asid die (blockClass size) (ch / 2) with
      | none => exact h
      | some t => exact memOk_newSlab h hn
    · exact h
  split
  · exact hs
  · exact hs

theorem memOk_freeServe {asid va node : Nat} : MemOk (freeServe s asid va node) ↔ MemOk s := by
  unfold freeServe
  split
  · exact Iff.rfl
  · refine memOk_setHeap.trans (memOk_foldl (fun t v => ?_) _ _)
    split
    · exact memOk_unpark
    · exact Iff.rfl

theorem memOk_tuberAnswer (h : MemOk s) {gid ch : Nat} : MemOk (tuberAnswer s gid ch) := by
  unfold tuberAnswer
  dsimp only
  split
  · exact h
  · next op rest _ =>
    refine memOk_if h ?_
    split
    · exact memOk_modGrp.mpr (memOk_tiles h fun _ _ _ hu hc => memOk_commitTile hu hc)
    · exact memOk_if h (memOk_modGrp.mpr (memOk_tiles h fun _ _ _ hu hc => memOk_decommitTile hu hc))
    · have ha := memOk_allocServe (asid := s.asidOf (s.grp gid)) (die := dieOf (s.coreOf (s.grp gid))) (size := op.n) (ch := ch) h
      have hl := memOk_lanesEvent (gid := gid) (ls := lanesOf op.em) (more := []) (wmore := []) |>.mpr ha
      refine memOk_modGrp.mpr (memOk_modGrp.mpr ?_)
      split
      · exact hl
      · exact hl
    · exact memOk_modGrp.mpr (memOk_freeServe.mpr h)
    · exact memOk_modGrp.mpr h

theorem memOk_moveDirs {asid : Nat} {op : ObjOp} : MemOk (moveDirs s asid op) ↔ MemOk s := by
  unfold moveDirs
  refine memOk_settleParks.trans (memOk_foldl (fun t v => ?_) _ _)
  split <;> exact Iff.rfl

theorem memOk_objDefine {asid : Nat} {op : ObjOp} : MemOk (objDefine s asid op).1 ↔ MemOk s := by
  unfold objDefine
  dsimp only
  (repeat' split) <;> simp only [MemOk, iff_self]

theorem memOk_objDelete {asid : Nat} {op : ObjOp} : MemOk (objDelete s asid op) ↔ MemOk s := by
  unfold objDelete
  refine memOk_foldl (fun t v => ?_) _ _
  split
  · exact memOk_unpark
  · exact Iff.rfl

theorem memOk_objAnswer {gid : Nat} : MemOk (objAnswer s gid) ↔ MemOk s := by
  unfold objAnswer
  dsimp only
  (repeat' split) <;> simp only [MemOk, iff_self, memOk_modGrp, memOk_objDelete, memOk_objDefine, memOk_moveDirs]

theorem memOk_sfuWrite {gid : Nat} : MemOk (sfuWrite s gid) ↔ MemOk s := Iff.rfl

theorem memOk_serveHeld {gid : Nat} {h' : HeldOp} : MemOk (serveHeld s gid h') ↔ MemOk s := by
  unfold serveHeld
  dsimp only
  (repeat' split) <;> simp only [MemOk, iff_self, memOk_laneEvents, memOk_enterWrites, memOk_modGrp, memOk_pushStore, memOk_noteFloors,
    memOk_pushLoad, memOk_notePend]

theorem memOk_locateDetect {gid fid : Nat} : MemOk (locateDetect s gid fid) ↔ MemOk s := by
  unfold locateDetect
  dsimp only
  (repeat' split) <;> simp only [MemOk, iff_self, memOk_serveHeld, memOk_modGrp, memOk_takeFault]

theorem memOk_wake {gid fid : Nat} : MemOk (wake s gid fid) ↔ MemOk s := Iff.rfl

theorem memOk_snoozeEnd {gid fid : Nat} : MemOk (snoozeEnd s gid fid) ↔ MemOk s := by
  unfold snoozeEnd
  (repeat' split) <;> simp only [MemOk, iff_self, memOk_wake]

theorem memOk_yieldEnd {gid fid : Nat} : MemOk (yieldEnd s gid fid) ↔ MemOk s := by
  unfold yieldEnd
  dsimp only
  (repeat' split) <;> simp only [MemOk, iff_self, memOk_modGrp]

theorem memOk_promote {gid fid : Nat} : MemOk (promote s gid fid) ↔ MemOk s := by
  unfold promote
  simp only [MemOk, memOk_ite, ite_self, iff_self, memOk_modGrp]

theorem memOk_hadTurn {a : Nat × Nat} : MemOk (hadTurn s a) ↔ MemOk s := Iff.rfl

theorem memOk_issueSlot {core : Nat} {sequencer : Bool} {ch : Nat} : MemOk (issueSlot s core sequencer ch) ↔ MemOk s := by
  unfold issueSlot
  dsimp only
  (repeat' split) <;> simp only [MemOk, iff_self, memOk_hadTurn]

theorem memOk_unitDone {tid : Nat} : MemOk (unitDone s tid) ↔ MemOk s := by
  unfold unitDone
  simp only [MemOk, memOk_ite, ite_self, iff_self, memOk_setStr]

/-! ### The operations of Record.lean -/

theorem memOk_enqueueLaunch {q : Nat} {l : Launch} : MemOk (enqueueLaunch s q l) ↔ MemOk s := Iff.rfl

theorem memOk_launchB (h : MemOk s) {b : BitVec 3} {c : Ctx} : (launchB b c s).Ok := by
  unfold launchB
  exact ok_if h (ok_if h (memOk_withRecord h fun _ _ ht => ok_if ht (ok_if ht (ok_if h (memOk_enqueueLaunch.mpr ht)))))

/-! ### The operations of Sched.lean -/

theorem memOk_noteLack : MemOk (noteLack s) ↔ MemOk s := by
  unfold noteLack
  simp only [MemOk, memOk_foldl, implies_true, iff_self, memOk_modLaunch]

theorem memOk_headReserve {lid : Nat} : MemOk (headReserve s lid) ↔ MemOk s := by
  unfold headReserve
  simp only [MemOk, memOk_ite, ite_self, iff_self, memOk_modLaunch]

theorem memOk_dequeue {lid : Nat} : MemOk (dequeue s lid) ↔ MemOk s := by
  unfold dequeue
  split <;> simp only [MemOk, iff_self, memOk_setQueue]

theorem memOk_endUnstarted {lid : Nat} {cause : String} : MemOk (endUnstarted s lid cause) ↔ MemOk s := by
  unfold endUnstarted
  simp only [MemOk, iff_self, memOk_endLaunch, memOk_dequeue]

theorem memOk_pollWaits {q : Nat} : MemOk (pollWaits s q) ↔ MemOk s := by
  unfold pollWaits
  split <;> simp only [MemOk, memOk_ite, memOk_foldl, ite_self, implies_true, iff_self, memOk_noteRead, memOk_endUnstarted, memOk_setLaunch]

theorem memOk_demotePod {core : Nat} : MemOk (demotePod s core) ↔ MemOk s := Iff.rfl

theorem memOk_setCarve {core c : Nat} : MemOk (setCarve s core c) ↔ MemOk s := by
  unfold setCarve
  simp only [MemOk, memOk_ite, ite_self, iff_self, memOk_demotePod]

theorem memOk_noteArgs {l : Launch} : MemOk (noteArgs s l) ↔ MemOk s := by
  unfold noteArgs
  simp only [MemOk, memOk_ite, memOk_foldl, ite_self, implies_true, iff_self, memOk_noteRead]

theorem memOk_placeTeam {lid cid core member : Nat} {pbs : List DWord} : MemOk (placeTeam s lid cid core member pbs) ↔ MemOk s := by
  unfold placeTeam
  simp only [MemOk, memOk_foldl, implies_true, iff_self, memOk_setCarve, memOk_setGrp, memOk_setTeam, memOk_modTeam]

theorem memOk_placeCluster {lid : Nat} {p : PlaceAt} : MemOk (placeCluster s lid p) ↔ MemOk s := by
  unfold placeCluster
  simp only [MemOk, memOk_foldl, implies_true, iff_self, memOk_setCluster, memOk_placeTeam, memOk_modLaunch]

theorem memOk_placeAll (h : MemOk s) {lid : Nat} {l : List PlaceAt} {t : State} (ht : placeAll lid s l = some t) : MemOk t := by
  induction l generalizing s with
  | nil => exact Option.some.inj ht ▸ h
  | cons p l ih =>
    rw [placeAll] at ht
    split at ht
    · exact ih (memOk_placeCluster.mpr h) ht
    · exact nomatch ht

theorem memOk_gridBars {lid : Nat} : MemOk (gridBars s lid) ↔ MemOk s := Iff.rfl

theorem memOk_placeHead (h : MemOk s) {h' : Nat × Option Nat × Nat} {pl : List PlaceAt} : MemOk (placeHead s h' pl) := by
  unfold placeHead
  refine memOk_if h ?_
  dsimp only
  split
  · refine memOk_endUnstarted.mpr ?_
    exact memOk_noteArgs.mpr h
  · split
    · exact h
    · next t ht =>
      have hb : MemOk (if (s.launch h'.1).hasGb then gridBars t h'.1 else t) :=
        memOk_if (memOk_gridBars.mpr (memOk_placeAll (memOk_setLaunch.mpr (memOk_if (memOk_noteArgs.mpr h) h)) ht))
          (memOk_placeAll (memOk_setLaunch.mpr (memOk_if (memOk_noteArgs.mpr h) h)) ht)
      refine (memOk_foldl (fun _ _ => memOk_settleTeam) _ _).mpr (memOk_if (memOk_dequeue.mpr ?_) ?_)
      · exact hb
      · exact hb

theorem memOk_requestHalt {at_ : Nat} {ts : List Nat} {sched : Bool} : MemOk (requestHalt s at_ ts sched) ↔ MemOk s := by
  unfold requestHalt
  simp only [MemOk, memOk_foldl, implies_true, iff_self, memOk_modTeam]

theorem memOk_preemptFor : MemOk (preemptFor s) ↔ MemOk s := by
  unfold preemptFor
  (repeat' split) <;> simp only [MemOk, iff_self, memOk_requestHalt]

theorem memOk_restoreCluster {cid base : Nat} : MemOk (restoreCluster s cid base) ↔ MemOk s := by
  unfold restoreCluster
  simp only [MemOk, memOk_ite, memOk_foldl, ite_self, implies_true, iff_self, memOk_setCluster, memOk_setCarve, memOk_modTeam,
    memOk_groupFence, memOk_settleTeam]

theorem memOk_dispatch (h : MemOk s) {pl : List PlaceAt} {back : Option Nat} : MemOk (dispatch s pl back) := by
  unfold dispatch
  refine memOk_if h ?_
  split
  · exact memOk_restoreCluster.mpr h
  · exact h
  · exact memOk_if h (memOk_preemptFor.mpr h)
  · split
    · exact memOk_placeHead h
    · exact h

theorem memOk_leaveBB (h : MemOk s) {tid gid : Nat} {w : Wait} : MemOk (leaveBB s tid gid w) := by
  unfold leaveBB
  split <;> simp only [MemOk, memOk_ite, ite_self, memOk_lsEvent, memOk_putBB, h]

theorem memOk_preemptHalt (h : MemOk s) {tid : Nat} : MemOk (preemptHalt s tid) := by
  unfold preemptHalt
  refine memOk_if h (memOk_modTeam.mpr ((memOk_foldl (fun _ _ => memOk_modGrp) _ _).mpr (MemOk.foldl (fun t w ht => ?_) h _)))
  exact memOk_leaveBB ht

theorem memOk_writeImage (h : MemOk s) {base n : Nat} : MemOk (writeImage s base n) := h.write _ _

theorem memOk_saveComplete (h : MemOk s) {tid : Nat} : MemOk (saveComplete s tid) := by
  unfold saveComplete
  dsimp only
  (repeat' split) <;> simp only [MemOk, memOk_foldl, implies_true, iff_self, memOk_demotePod, memOk_groupFence, memOk_flushPriv,
    memOk_writeImage, memOk_modTeam, h]

theorem memOk_endTeam (h : MemOk s) {tid : Nat} : MemOk (endTeam s tid) := by
  unfold endTeam
  refine memOk_settleTeam.mpr (memOk_if (memOk_setStr.mpr ?_) ?_)
  all_goals exact MemOk.foldl (fun _ _ ht => memOk_if (memOk_retireGroup (memOk_modGrp.mpr ht)) ht) h _

theorem memOk_endLaunchNow (h : MemOk s) {lid : Nat} : MemOk (endLaunchNow s lid) := by
  unfold endLaunchNow
  split
  · exact h
  · refine memOk_if (memOk_endLaunch.mpr ?_) ?_
    all_goals exact MemOk.foldl (fun _ _ ht => memOk_endTeam ht) (memOk_setLaunch.mpr (memOk_dequeue.mpr h)) _

theorem memOk_endContexts (h : MemOk s) {p : Nat → Bool} {what : String} : MemOk (endContexts s p what) := by
  unfold endContexts
  exact MemOk.foldl (fun _ _ ht => memOk_endLaunchNow ht) h _

theorem memOk_deviceError (h : MemOk s) {p : Nat → Bool} {what : String} : MemOk (deviceError s p what) := by
  unfold deviceError
  simp only [MemOk, memOk_endContexts, h]

theorem memOk_ttPass {e : Nat} : MemOk (ttPass s e) ↔ MemOk s := by
  unfold ttPass
  dsimp only
  (repeat' split) <;> simp only [MemOk, iff_self, memOk_noteRead]

/-! ### The operations of Power.lean -/

theorem memOk_cold (h : MemOk s) : MemOk s.cold := ⟨rfl, h.2⟩

theorem memOk_loadHbm (h : MemOk s) {pa : Nat} {bytes : List Byte} : MemOk (s.loadHbm pa bytes) := h.write _ _

theorem memOk_supplyOn (h : MemOk s) {fl : FlashState} : MemOk (supplyOn s fl) := by
  unfold supplyOn
  have hc : MemOk s.cold := memOk_cold h
  generalize s.cold = c at hc ⊢
  refine memOk_if h ?_
  dsimp only
  split
  · exact hc
  · split
    · exact hc
    · refine MemOk.foldl (fun t f ht => memOk_if (memOk_setMbox.mpr ht) ht) ?_ _
      refine memOk_loadHbm (memOk_loadHbm ?_)
      exact hc

theorem memOk_supplyOff (h : MemOk s) : MemOk (supplyOff s) := by
  unfold supplyOff
  simp only [MemOk, memOk_cold, h]

theorem memOk_idleRequest {on : Bool} : MemOk (idleRequest s on) ↔ MemOk s := by
  unfold idleRequest
  simp only [MemOk, memOk_ite, ite_self, iff_self]

theorem memOk_idleEnter : MemOk (idleEnter s) ↔ MemOk s := by
  unfold idleEnter
  simp only [MemOk, memOk_ite, ite_self, iff_self]

theorem memOk_enterHold (h : MemOk s) {cause : Nat} : MemOk (enterHold s cause) := by
  unfold enterHold
  simp only [MemOk, memOk_ite, ite_self, memOk_endContexts, h]

theorem memOk_powerOver {watts : Nat} : MemOk (powerOver s watts) ↔ MemOk s := by
  unfold powerOver
  simp only [MemOk, memOk_ite, ite_self, iff_self]

theorem memOk_powerWithin {watts : Nat} : MemOk (powerWithin s watts) ↔ MemOk s := by
  unfold powerWithin
  simp only [MemOk, memOk_ite, ite_self, iff_self]

theorem memOk_junctionOver (h : MemOk s) {die temp : Nat} : MemOk (junctionOver s die temp) := by
  unfold junctionOver
  simp only [MemOk, memOk_ite, ite_self, memOk_enterHold, h]

theorem memOk_junctionBelow {temp : Nat} : MemOk (junctionBelow s temp) ↔ MemOk s := by
  unfold junctionBelow
  simp only [MemOk, memOk_ite, ite_self, iff_self]

theorem memOk_thermalTrip (h : MemOk s) {c : TripCause} : MemOk (thermalTrip s c) := by
  unfold thermalTrip
  split <;> simp only [MemOk, memOk_ite, ite_self, memOk_junctionOver, memOk_enterHold, h]

theorem memOk_coolantFlow {low : Bool} {inlet : Nat} : MemOk (coolantFlow s low inlet) ↔ MemOk s := Iff.rfl

theorem memOk_coolantTimeout (h : MemOk s) : MemOk (coolantTimeout s) := by
  unfold coolantTimeout
  split <;> simp only [MemOk, memOk_ite, ite_self, memOk_enterHold, h]

theorem memOk_plimWrite {v : BitVec 16} : MemOk (plimWrite s v) ↔ MemOk s := by
  unfold plimWrite
  simp only [MemOk, memOk_ite, ite_self, iff_self]

theorem memOk_sagTrip {die : Nat} : MemOk (sagTrip s die) ↔ MemOk s := Iff.rfl

theorem memOk_sagClear {die : Nat} : MemOk (sagClear s die) ↔ MemOk s := Iff.rfl

theorem memOk_ptpMessage {offset : Int} : MemOk (ptpMessage s offset) ↔ MemOk s := Iff.rfl

theorem memOk_ptpLost : MemOk (ptpLost s) ↔ MemOk s := Iff.rfl

theorem memOk_tick {ns : Nat} {d : List Nat} : MemOk (tick s ns d) ↔ MemOk s := by
  unfold tick
  simp only [MemOk, iff_self, memOk_noteLack]

/-! ### The operations of Migrate.lean -/

theorem memOk_beginMove {tid : Nat} : MemOk (beginMove s tid) ↔ MemOk s := by
  unfold beginMove
  simp only [MemOk, memOk_foldl, implies_true, iff_self, memOk_demotePod, memOk_groupFence, memOk_flushPriv]

theorem memOk_migDispatch {core : Nat} {bal : Option Nat} : MemOk (migDispatch s core bal) ↔ MemOk s := by
  unfold migDispatch
  (repeat' split) <;> simp only [MemOk, memOk_foldl, implies_true, iff_self, memOk_modGrp, memOk_beginMove]

theorem memOk_migAge {tid : Nat} : MemOk (migAge s tid) ↔ MemOk s := Iff.rfl

theorem memOk_dstTo (h : MemOk s) {gid tid : Nat} {tab : List Byte} {j : Nat} {slot : Bool} {n node : Nat} {m : Moved} :
    MemOk (dstTo s gid tid tab j slot n node m) := by
  unfold dstTo
  simp only [MemOk, memOk_ite, ite_self, memOk_lsWrite, memOk_modTeam, memOk_modGrp, h]

theorem memOk_applyEntry (h : MemOk s) {old : Group} {win : Team} {gid tid : Nat} {tab : List Byte} {node e : Nat} :
    MemOk (applyEntry old win gid tid tab node s e) :=
  MemOk.foldl (fun _ _ ht => memOk_dstTo ht) h _

theorem memOk_moveGroup (h : MemOk s) {m : MigEnt} {core : Nat} {oldWin : Team} {gid : Nat} : MemOk (moveGroup m core oldWin s gid) := by
  unfold moveGroup
  dsimp only
  have hev : MemOk (groupEvent s gid []).2 := memOk_groupEvent.mpr h
  refine memOk_if h (memOk_if (memOk_modGrp.mpr (memOk_setGrp.mpr hev)) ?_)
  split
  · exact memOk_modGrp.mpr (memOk_setGrp.mpr hev)
  · exact memOk_modGrp.mpr (MemOk.foldl (fun _ _ ht => memOk_applyEntry ht) (memOk_setGrp.mpr hev) _)

theorem memOk_migComplete (h : MemOk s) {tid : Nat} : MemOk (migComplete s tid) := by
  unfold migComplete
  split
  · exact h
  · split
    · exact h
    · refine memOk_if h (memOk_setCluster.mpr ((memOk_foldl (fun _ _ => memOk_groupFence) _ _).mpr (memOk_modTeam.mpr
        (MemOk.foldl (fun _ _ ht => memOk_moveGroup ht) (memOk_if ?_ (memOk_setCarve.mpr ?_)) _))))
      · exact h
      · exact h

theorem memOk_noteCollapse {asid va pa old : Nat} : MemOk (noteCollapse s asid va pa old) ↔ MemOk s := by
  unfold noteCollapse
  simp only [MemOk, memOk_ite, ite_self, iff_self]

theorem memOk_collapseRequest (h : MemOk s) {asid va : Nat} : MemOk (collapseRequest s asid va) := by
  unfold collapseRequest
  split <;> simp only [MemOk, memOk_ite, ite_self, memOk_putEntry, memOk_noteCollapse, h]

theorem memOk_drop2M {asid va : Nat} : MemOk (drop2M s asid va) ↔ MemOk s := Iff.rfl

theorem memOk_dropTile {frame : Nat} : MemOk (dropTile s frame) ↔ MemOk s := Iff.rfl

theorem memOk_collapseSplit (h : MemOk s) {asid va dev frame ch : Nat} : MemOk (collapseSplit s asid va dev frame ch) := by
  unfold collapseSplit
  split
  · exact h
  · next pa e level _ =>
    have hnote : MemOk (noteCollapse s asid va pa e) := memOk_noteCollapse.mpr h
    generalize noteCollapse s asid va pa e = t at hnote ⊢
    refine memOk_if h (memOk_if (memOk_if h (memOk_putEntry hnote)) (memOk_if
      (memOk_drop2M.mpr (memOk_putEntry (memOk_dropTile.mpr hnote))) (memOk_if hnote ?_)))
    dsimp only
    split
    · exact memOk_putEntry hnote
    · next node _ =>
      refine memOk_drop2M.mpr (memOk_putEntry (memOk_dropTile.mpr ?_))
      generalize hu : List.foldl _ _ _ = u
      show MemOk u
      rw [← hu]
      exact MemOk.foldl (fun _ _ ht => memOk_putEntry ht) (memOk_takeFrame.mpr hnote) _

theorem memOk_undoCollapse (h : MemOk s) {asid va : Nat} : MemOk (undoCollapse s asid va) := by
  unfold undoCollapse
  dsimp only
  (repeat' split) <;> simp only [MemOk, memOk_setAsid, memOk_drop2M, memOk_putEntry, h]

theorem memOk_collapseAck (h : MemOk s) {asid va dev : Nat} {failed : Bool} : MemOk (collapseAck s asid va dev failed) := by
  unfold collapseAck
  simp only [MemOk, memOk_ite, memOk_foldl, ite_self, implies_true, iff_self, memOk_undoCollapse, memOk_setCopy, memOk_takeFault,
    memOk_wake, h]

/-! ### The operations of Host.lean -/

theorem memOk_stewRead {i key n : Nat} {aq : Bool} {ch : Nat} : MemOk (stewRead s i key n aq ch).1 ↔ MemOk s := by
  unfold stewRead
  split <;> simp only [MemOk, memOk_ite, ite_self, iff_self, memOk_refuse, memOk_unpark, memOk_noteFloor, memOk_returnLoad]

theorem memOk_stewWrite (h : MemOk s) {i key : Nat} {bytes : List Byte} {rl : Bool} : MemOk (stewWrite s i key bytes rl) := by
  unfold stewWrite
  simp only [MemOk, memOk_ite, memOk_foldl, ite_self, implies_true, iff_self, memOk_refuse, memOk_lostStore, memOk_unpark, memOk_addWrite,
    memOk_ackW, memOk_perform, h]

theorem memOk_osRead (h : MemOk s) {i asid a n : Nat} {t : State × List Byte} (ht : osRead s i asid a n = some t) : MemOk t.1 := by
  unfold osRead at ht
  obtain ⟨l, -, rfl⟩ := Option.map_eq_some_iff.mp ht
  refine (memOk_foldl_fst (fun _ _ => ?_) _ _).mpr ?_
  · exact memOk_stewRead
  · exact h

theorem memOk_osWrite (h : MemOk s) {i asid a : Nat} {bytes : List Byte} {t : State} (ht : osWrite s i asid a bytes = some t) :
    MemOk t := by
  unfold osWrite at ht
  obtain ⟨l, -, rfl⟩ := Option.map_eq_some_iff.mp ht
  refine MemOk.foldl_fst (fun _ _ hp => ?_) ?_ _
  · exact memOk_stewWrite hp
  · exact h

theorem memOk_headWrite {fn : Nat} {v : BitVec 16} : MemOk (headWrite s fn v) ↔ MemOk s := by
  unfold headWrite
  simp only [MemOk, memOk_ite, ite_self, iff_self, memOk_setMbox]

theorem memOk_ctailWrite {fn : Nat} {v : BitVec 16} : MemOk (ctailWrite s fn v) ↔ MemOk s := by
  unfold ctailWrite
  simp only [MemOk, memOk_ite, ite_self, iff_self, memOk_setMbox]

theorem memOk_entryTake {fn : Nat} : MemOk (entryTake s fn) ↔ MemOk s := by
  unfold entryTake
  simp only [MemOk, memOk_ite, ite_self, iff_self, memOk_setMbox]

theorem memOk_completionWrite (h : MemOk s) {fn : Nat} : MemOk (completionWrite s fn) := by
  unfold completionWrite
  dsimp only
  split
  · exact h
  · split
    · exact h
    · exact h.hostWrite _ _

theorem memOk_callBegin (h : MemOk s) {who : Caller} {num : Nat} {args : List Nat} {t : State} (ht : callBegin s who num args = some t) :
    MemOk t := by
  unfold callBegin at ht
  dsimp only at ht
  (repeat' split at ht) <;> cases ht <;> exact h

theorem memOk_call (h : MemOk s) {who : Caller} {num : Nat} {args : List Nat} {body : State → State × DWord}
    (hbody : ∀ t, MemOk t → MemOk (body t).1) : MemOk (call s who num args body) := by
  unfold call
  split
  · exact h
  · next t ht => exact memOk_answer.mpr (hbody _ (memOk_callBegin h ht))

theorem memOk_sysExit (h : MemOk s) {who : Caller} {code : Nat} : MemOk (sysExit s who code) := by
  unfold sysExit
  split
  · exact h
  · exact memOk_call h fun _ ht => ht

theorem memOk_sysLog (h : MemOk s) {who : Caller} {a n : Nat} : MemOk (sysLog s who a n) := by
  refine memOk_call h fun t ht => ?_
  split
  · exact ht
  · next r hr => exact memOk_osRead ht hr

theorem memOk_osEntry (h : MemOk s) {i pa v : Nat} : MemOk (osEntry s i pa v) := by
  unfold osEntry
  simp only [MemOk, memOk_putEntryAs, h]

theorem memOk_mapLeaf_go (h : MemOk s) {i va level leaf n n' n'' : Nat} {l : List Nat} {t : State × List Nat}
    (ht : mapLeaf.go i va level leaf n s n' n'' l = .ok t) : MemOk t.1 := by
  induction n generalizing s n' n'' l with
  | zero => exact nomatch ht
  | succ n ih =>
    unfold mapLeaf.go at ht
    dsimp only at ht
    split at ht
    · split at ht
      · exact nomatch ht
      · obtain rfl := Except.ok.inj ht
        exact memOk_osEntry h
    · split at ht
      · split at ht
        · exact nomatch ht
        · exact ih h ht
      · split at ht
        · exact nomatch ht
        · split at ht
          · exact nomatch ht
          · exact ih (memOk_osEntry (memOk_zeroFrame h)) ht

theorem memOk_mapLeaf (h : MemOk s) {i asid va level leaf : Nat} {frames : List Nat} {t : State × List Nat}
    (ht : mapLeaf s i asid va level leaf frames = .ok t) : MemOk t.1 :=
  memOk_mapLeaf_go h ht

theorem memOk_mapRange (h : MemOk s) {c asid va n attr : Nat} {frames : List Nat} {t : State}
    (ht : mapRange s c asid va n attr frames = .ok t) : MemOk t := by
  unfold mapRange at ht
  obtain ⟨r, hr, rfl⟩ := except_map_ok (ok_of_if_error (ok_of_if_error ht))
  refine foldl_except (p := fun r : State × List Nat => MemOk r.1) (fun r i v hu hv => ?_) (fun u hu => ?_) _ hr
  · cases r with
    | error e => exact nomatch (show Except.error e = Except.ok v from hv)
    | ok u => exact memOk_mapLeaf (hu u rfl) hv
  · exact Except.ok.inj hu ▸ h

theorem memOk_sysMap (h : MemOk s) {who : Caller} {va n attr : Nat} {frames : List Nat} : MemOk (sysMap s who va n attr frames) := by
  refine memOk_call h fun t ht => ?_
  dsimp only
  split
  · exact ht
  · split
    · exact ht
    · split
      · exact ht
      · next u hu => exact memOk_mapRange ht hu

theorem memOk_sysUnmap (h : MemOk s) {who : Caller} {va n : Nat} : MemOk (sysUnmap s who va n) := by
  unfold sysUnmap
  split
  · exact h
  · refine memOk_call h fun t ht => ?_
    dsimp only
    split
    · exact ht
    · split
      · exact ht
      · exact MemOk.foldl (fun _ _ hu => memOk_dropTlb.mpr (memOk_osEntry hu)) ht _

theorem memOk_waitBlock (h : MemOk s) {i asid a : Nat} {t : State × List Byte} (ht : waitBlock s i asid a = .ok t) : MemOk t.1 := by
  unfold waitBlock at ht
  (repeat' split at ht) <;> cases ht
  · exact h
  · next r hr _ => exact (memOk_osRead h hr :)

theorem memOk_sysLaunch (h : MemOk s) {who : Caller} {idx arg q wb dest : Nat} : MemOk (sysLaunch s who idx arg q wb dest) := by
  refine memOk_call h fun t ht => ?_
  dsimp only
  split
  · exact ht
  · split
    · exact ht
    · split
      · exact ht
      · split
        · exact ht
        · next w hw =>
          split
          · exact ht
          · split
            · exact ht
            · split
              · exact ht
              · next u hu => exact memOk_enqueueLaunch.mpr (memOk_osWrite (memOk_waitBlock ht hw) hu)

theorem memOk_sysRecord (h : MemOk s) {who : Caller} {idx arg dest wb : Nat} : MemOk (sysRecord s who idx arg dest wb) := by
  refine memOk_call h fun t ht => ?_
  dsimp only
  split
  · exact ht
  · split
    · exact ht
    · split
      · exact ht
      · next w hw =>
        split
        · exact ht
        · split
          · exact ht
          · next u hu => exact memOk_osWrite (memOk_waitBlock ht hw) hu

theorem memOk_sysWait (h : MemOk s) {who : Caller} {id timeout : Nat} : MemOk (sysWait s who id timeout) := by
  unfold sysWait
  split
  · exact h
  · next t ht =>
    have hb := memOk_callBegin h ht
    split
    · exact memOk_answer.mpr hb
    · split
      · exact memOk_answer.mpr hb
      · split
        · exact memOk_answer.mpr hb
        · exact hb

theorem memOk_sysWaitTimeout {who : Caller} : MemOk (sysWaitTimeout s who) ↔ MemOk s := by
  unfold sysWaitTimeout
  split <;> simp only [MemOk, iff_self, memOk_answer]

theorem memOk_feed {asid f : Nat} : MemOk (feed s asid f) ↔ MemOk s := by
  unfold feed
  simp only [MemOk, memOk_ite, ite_self, iff_self, memOk_setAsid]

theorem memOk_sysPool (h : MemOk s) {who : Caller} {n : Nat} {frames : List Nat} : MemOk (sysPool s who n frames) := by
  refine memOk_call h fun t ht => ?_
  dsimp only
  split
  · exact ht
  · exact (memOk_foldl (fun _ _ => memOk_feed) _ _).mpr ht

theorem memOk_sysTtset (h : MemOk s) {who : Caller} {e rec first period : Nat} : MemOk (sysTtset s who e rec first period) := by
  refine memOk_call h fun t ht => ?_
  dsimp only
  split
  · exact ht
  · split
    · exact ht
    · split
      · exact ht
      · next r hr =>
        split
        · exact ht
        · split
          · exact ht
          · next u hu => exact (memOk_osWrite (memOk_osRead ht hr) hu :)

theorem memOk_dtpageWritten (h : MemOk s) {who : Caller} {va asid f : Nat} {blob : List Byte} :
    MemOk (dtpageWritten who va asid f blob s) := memOk_setAsid.mpr (memOk_stewWrite h)

theorem memOk_sysDtpage (h : MemOk s) {who : Caller} {va : Nat} {frames : List Nat} {cut : DtCut} :
    MemOk (sysDtpage s who va frames cut) := by
  rw [sysDtpage_eq]
  exact memOk_call h fun t ht => dtpageAnswer_keeps (P := MemOk) ht fun _ _ hu => memOk_dtpageWritten (memOk_mapRange (memOk_zeroFrame ht) hu)

theorem memOk_sysAttest (h : MemOk s) {who : Caller} {nonce rep : Nat} : MemOk (sysAttest s who nonce rep) := by
  refine memOk_call h fun t ht => ?_
  dsimp only
  split
  · exact ht
  · next r hr =>
    split
    · exact ht
    · next u hu => exact (memOk_osWrite (by exact memOk_osRead ht hr) hu :)

/-! ### The operations of Regs.lean -/

theorem memOk_queueWrite {q : Nat} {v : BitVec 128} : MemOk (queueWrite s q v) ↔ MemOk s := by
  unfold queueWrite
  simp only [MemOk, memOk_ite, ite_self, iff_self, memOk_setQueue]

theorem memOk_ttWrite {e : Nat} {v : BitVec 256} : MemOk (ttWrite s e v) ↔ MemOk s := by
  unfold ttWrite
  simp only [MemOk, memOk_ite, ite_self, iff_self]

theorem memOk_descWrite {a : Nat} {v : BitVec 256} {badfree : Bool} : MemOk (descWrite s a v badfree) ↔ MemOk s := by
  unfold descWrite
  simp only [MemOk, memOk_ite, ite_self, iff_self, memOk_setAsid]

theorem memOk_poolFeed {v : DWord} : MemOk (poolFeed s v) ↔ MemOk s := by
  unfold poolFeed
  simp only [MemOk, iff_self, memOk_feed]

theorem memOk_invalGo {v : DWord} : MemOk (invalGo s v) ↔ MemOk s := by
  unfold invalGo
  simp only [MemOk, memOk_ite, ite_self, iff_self]

theorem memOk_invalDone : MemOk (invalDone s) ↔ MemOk s := by
  unfold invalDone
  dsimp only
  (repeat' split) <;> simp only [MemOk, iff_self, memOk_setAsid]

theorem memOk_cmdStart {op res : Nat} {ts : List Nat} : MemOk (cmdStart s op res ts) ↔ MemOk s := Iff.rfl

theorem memOk_cmdPreempt : MemOk (cmdPreempt s) ↔ MemOk s := by
  unfold cmdPreempt
  simp only [MemOk, memOk_ite, ite_self, iff_self, memOk_cmdStart, memOk_requestHalt]

theorem memOk_cmdRestore : MemOk (cmdRestore s) ↔ MemOk s := by
  unfold cmdRestore
  simp only [MemOk, memOk_ite, memOk_foldl, ite_self, implies_true, iff_self, memOk_cmdStart, memOk_modTeam]

theorem memOk_resumeGroup {gid fid : Nat} {skip : Bool} : MemOk (resumeGroup s gid fid skip) ↔ MemOk s := by
  unfold resumeGroup
  simp only [MemOk, memOk_ite, ite_self, iff_self, memOk_setGrp, memOk_noteWords]

theorem memOk_resumeStream {tid : Nat} {skip : Bool} : MemOk (resumeStream s tid skip) ↔ MemOk s := by
  unfold resumeStream
  simp only [MemOk, memOk_ite, ite_self, iff_self, memOk_setStr, memOk_noteWords]

theorem memOk_cmdResume {skip : Bool} : MemOk (cmdResume s skip) ↔ MemOk s := by
  unfold cmdResume
  dsimp only
  (repeat' split) <;> simp only [MemOk, iff_self, memOk_cmdStart, memOk_resumeStream, memOk_resumeGroup]

theorem memOk_cmdEnd (h : MemOk s) : MemOk (cmdEnd s) := by
  unfold cmdEnd
  simp only [MemOk, memOk_ite, ite_self, memOk_cmdStart, memOk_endLaunchNow, h]

theorem memOk_cmdReserved : MemOk (cmdReserved s) ↔ MemOk s := by
  unfold cmdReserved
  simp only [MemOk, memOk_ite, ite_self, iff_self, memOk_cmdStart]

theorem memOk_cmdDone : MemOk (cmdDone s) ↔ MemOk s := by
  unfold cmdDone
  simp only [MemOk, memOk_ite, ite_self, iff_self]

theorem memOk_releaseReports {n : Nat} : MemOk (releaseReports s n) ↔ MemOk s := by
  induction n generalizing s with
  | zero => exact Iff.rfl
  | succ n ih =>
    rw [releaseReports]
    split
    · exact Iff.rfl
    · split
      · exact Iff.rfl
      · exact ih

theorem memOk_tailWrite {v : BitVec 8} : MemOk (tailWrite s v) ↔ MemOk s := by
  unfold tailWrite
  simp only [MemOk, memOk_ite, ite_self, iff_self, memOk_releaseReports]

theorem memOk_regWrite {r : Reg} {v : DWord} : MemOk (regWrite s r v) ↔ MemOk s := by
  unfold regWrite
  split <;> simp only [MemOk, memOk_ite, ite_self, iff_self, memOk_setMbox]

theorem memOk_cmdCode (h : MemOk s) {c : Nat} : MemOk (cmdCode s c) := by
  unfold cmdCode
  split <;> simp only [MemOk, memOk_cmdPreempt, memOk_cmdRestore, memOk_cmdResume, memOk_cmdEnd, memOk_cmdReserved, h]

theorem memOk_regStore (h : MemOk s) {r : RegAt} {bytes : List Byte} : MemOk (regStore s r bytes) := by
  unfold regStore
  dsimp only
  (repeat' split) <;> simp only [MemOk, memOk_queueWrite, memOk_ttWrite, memOk_descWrite, memOk_poolFeed, memOk_regWrite, memOk_invalGo,
    memOk_cmdCode, memOk_tailWrite, memOk_headWrite, memOk_ctailWrite, h]

theorem memOk_barRead {fn off n : Nat} : MemOk (barRead s fn off n) ↔ MemOk s := by
  unfold barRead
  simp only [MemOk, memOk_ite, ite_self, iff_self]

theorem memOk_barWrite (h : MemOk s) {fn off : Nat} {bytes : List Byte} : MemOk (barWrite s fn off bytes) := by
  unfold barWrite
  simp only [MemOk, memOk_ite, ite_self, memOk_regStore, h]

theorem memOk_setSteward {i : Nat} {x : Steward} : MemOk (s.setSteward i x) ↔ MemOk s := Iff.rfl

theorem memOk_stewAmo (h : MemOk s) {i op pa n x : Nat} {aq rl : Bool} {ch : Nat} : MemOk (stewAmo s i op pa n x aq rl ch).1 := by
  rw [stewAmo]
  refine memOk_if_fst (memOk_refuse.mpr h) ?_
  refine memOk_ackW.mpr (memOk_perform (memOk_addWrite.mpr (memOk_returnLoad.mpr (memOk_if (memOk_noteFloor.mpr ?_) ?_))))
  all_goals exact (memOk_unpark (line := devKey s.self pa / 128)).mpr h

theorem memOk_stewAccess (h : MemOk s) {i : Nat} {acc : StewardAccess} {ch : Nat} {t : State} (ht : stewAccess s i acc ch = some t) :
    MemOk t := by
  unfold stewAccess at ht
  dsimp only at ht
  split at ht
  · (repeat' split at ht)
    · obtain ⟨v, -, rfl⟩ := Option.map_eq_some_iff.mp ht
      exact h
    · exact nomatch ht
    · exact Option.some.inj ht ▸ h
    · exact Option.some.inj ht ▸ memOk_setSteward.mpr (memOk_stewRead.mpr h)
  · (repeat' split at ht)
    · exact nomatch ht
    · obtain ⟨r, -, rfl⟩ := Option.map_eq_some_iff.mp ht
      exact memOk_regStore h
    · exact nomatch ht
    · exact Option.some.inj ht ▸ h
    · exact Option.some.inj ht ▸ memOk_stewWrite h
  · split at ht
    · exact nomatch ht
    · split at ht
      · exact Option.some.inj ht ▸ h
      · cases ht
        refine memOk_setSteward.mpr (memOk_stewRead.mpr (memOk_if ?_ h))
        exact h
  · split at ht
    · exact nomatch ht
    · split at ht
      · exact Option.some.inj ht ▸ h
      · cases ht
        refine memOk_setSteward.mpr (memOk_if ?_ (memOk_if (memOk_stewWrite h) h))
        exact memOk_if (memOk_stewWrite h) h
  · split at ht
    · exact nomatch ht
    · split at ht
      · exact Option.some.inj ht ▸ h
      · exact Option.some.inj ht ▸ memOk_setSteward.mpr (memOk_stewAmo h)
  · exact Option.some.inj ht ▸ h
  · split at ht
    · exact Option.some.inj ht ▸ h
    · exact Option.some.inj ht ▸ h

/-! ### The operations of Cross.lean -/

theorem memOk_moveB (h : MemOk s) {src : Group → Nat → Option Nat} {d a : Nat} {c : Ctx} : (moveB src d a c s).Ok := by
  unfold moveB
  simp only [MemOk, Act.ok_done, Act.ok_fault, ok_ite, ite_self, memOk_onGrp, h]

theorem memOk_shflB (h : MemOk s) {d a b : Nat} {c : Ctx} : (shflB d a b c s).Ok := by
  unfold shflB
  simp only [MemOk, memOk_moveB, h]

theorem memOk_shfluB (h : MemOk s) {d a : Nat} {c : Ctx} : (shfluB d a c s).Ok := by
  unfold shfluB
  simp only [MemOk, memOk_moveB, h]

theorem memOk_shfldB (h : MemOk s) {d a : Nat} {c : Ctx} : (shfldB d a c s).Ok := by
  unfold shfldB
  simp only [MemOk, memOk_moveB, h]

theorem memOk_shflxB (h : MemOk s) {d a : Nat} {c : Ctx} : (shflxB d a c s).Ok := by
  unfold shflxB
  simp only [MemOk, memOk_moveB, h]

theorem memOk_bcastB (h : MemOk s) {d a : Nat} {c : Ctx} : (bcastB d a c s).Ok := by
  unfold bcastB
  simp only [MemOk, memOk_moveB, h]

theorem memOk_firstB (h : MemOk s) {d a : Nat} {c : Ctx} : (firstB d a c s).Ok := by
  unfold firstB
  simp only [MemOk, memOk_moveB, h]

theorem memOk_voteB (h : MemOk s) {d : SReg} {p : BitVec 3} {c : Ctx} : (voteB d p c s).Ok := h

theorem memOk_reduB (h : MemOk s) {d a : Nat} {c : Ctx} : (reduB d a c s).Ok := by
  unfold reduB
  simp only [MemOk, Act.ok_done, ok_ite, ite_self, memOk_onGrp, h]

theorem memOk_scanB (h : MemOk s) {d a : Nat} {c : Ctx} : (scanB d a c s).Ok := by
  unfold scanB
  simp only [MemOk, Act.ok_done, ok_ite, ite_self, memOk_onGrp, h]

theorem memOk_matchB (h : MemOk s) {d a : Nat} {c : Ctx} : (matchB d a c s).Ok := h

/-! ### The operations of Matrix.lean -/

theorem memOk_strEvent {tid : Nat} {more : List Nat} : MemOk (strEvent s tid more).2 ↔ MemOk s := Iff.rfl

theorem memOk_withM {tid k : Nat} {f : Stream → Nat → SAct} (hf : ∀ x v, (f x v).Ok) : (withM tid s k f).Ok := by
  unfold withM
  simp only [SAct.ok_fault, sOk_ite, ite_self, hf]

theorem memOk_modStr {tid : Nat} {f : Stream → Stream} : MemOk (modStr s tid f) ↔ MemOk s := Iff.rfl

theorem memOk_strNopB (h : MemOk s) {n : Nat} : (strNopB n s).Ok := h

theorem memOk_strBarB (h : MemOk s) {cls : BitVec 2} {i : BitVec 4} {tid : Nat} : (strBarB cls i tid s).Ok := by
  unfold strBarB
  dsimp only
  (repeat' split) <;> simp only [MemOk, SAct.ok_done, SAct.ok_wait, SAct.ok_fault, memOk_strEvent, memOk_barArrive, h]

theorem memOk_strRtakeB (h : MemOk s) {d a : SReg} {tid : Nat} : (strRtakeB d a tid s).Ok := by
  refine memOk_withM fun x off => sOk_if h ?_
  dsimp only
  split
  · exact trivial
  · refine sOk_if trivial ?_
    have hn : MemOk (match x.wait with | .ring _ _ n => (n, s) | _ => (s.nextUnit, { s with nextUnit := s.nextUnit + 1 })).2 := by
      split <;> exact h
    exact sOk_if hn (memOk_modStr.mpr (memOk_strEvent.mpr (memOk_ringServe (memOk_strEvent.mpr hn))))

theorem memOk_strRdoneB (h : MemOk s) {a b : SReg} {tid : Nat} : (strRdoneB a b tid s).Ok := by
  refine memOk_withM fun x off => memOk_withM fun _ slot => ?_
  split
  · exact trivial
  · dsimp only
    split
    · exact trivial
    · next t ht => exact memOk_modStr.mpr (memOk_ringDone (memOk_strEvent.mpr h) ht)

theorem memOk_strExitB (h : MemOk s) {tid : Nat} : (strExitB tid s).Ok := by
  unfold strExitB
  simp only [MemOk, SAct.ok_stay, memOk_ite, memOk_foldl, ite_self, implies_true, iff_self, memOk_strEvent, memOk_barLeave,
    memOk_settleTeam, memOk_modStr, h]

theorem memOk_fbsetB (h : MemOk s) {m tid : Nat} : (fbsetB m tid s).Ok := by
  unfold fbsetB
  simp only [MemOk, SAct.ok_done, SAct.ok_fault, sOk_ite, ite_self, implies_true, memOk_withM, memOk_modStr, h]

theorem memOk_xldB (h : MemOk s) {t m tid : Nat} : (xldB t m tid s).Ok := by
  refine memOk_withM fun x off => sOk_if trivial ?_
  split
  · exact trivial
  · exact h

theorem memOk_xldrB (h : MemOk s) {t m tid : Nat} : (xldrB t m tid s).Ok := by
  refine memOk_withM fun x off => sOk_if trivial ?_
  split
  · exact trivial
  · refine sOk_if trivial ?_
    split
    · exact trivial
    · exact h

theorem memOk_mmaB (h : MemOk s) {op z : Nat} {reuse : Bool} {a m tid : Nat} : (mmaB op z reuse a m tid s).Ok := by
  refine memOk_withM fun x mb => sOk_if trivial ?_
  split
  · exact trivial
  · refine sOk_if trivial (sOk_if trivial ?_)
    split
    · exact trivial
    · exact h
    · exact sOk_if h h

theorem memOk_onUnit (h : MemOk s) {tid : Nat} {k : SAct} (hk : k.Ok) : (onUnit tid s k).Ok := by
  unfold onUnit
  simp only [MemOk, SAct.ok_wait, sOk_ite, ite_self, h, hk]

theorem memOk_zclrB (h : MemOk s) {z m tid : Nat} : (zclrB z m tid s).Ok := by
  unfold zclrB
  simp only [MemOk, SAct.ok_done, SAct.ok_fault, sOk_ite, ite_self, implies_true, memOk_withM, memOk_onUnit, memOk_modStr, h]

theorem memOk_onClosed {x : Stream} {zs : List Nat} {k : SAct} (hk : k.Ok) : (onClosed x zs k).Ok := by
  unfold onClosed
  simp only [SAct.ok_fault, sOk_ite, ite_self, hk]

theorem memOk_zcvtB (h : MemOk s) {z m tid : Nat} : (zcvtB z m tid s).Ok := by
  refine memOk_withM fun x v => ?_
  dsimp only
  split
  · exact trivial
  · exact memOk_onClosed (memOk_onUnit h h)

theorem memOk_zstB (h : MemOk s) {z m tid : Nat} : (zstB z m tid s).Ok := by
  refine memOk_withM fun x v => ?_
  split
  · exact trivial
  · exact memOk_onClosed (memOk_lsWriteAs (memOk_strEvent.mpr h))

theorem memOk_zldB (h : MemOk s) {z m tid : Nat} : (zldB z m tid s).Ok := by
  refine memOk_withM fun x v => ?_
  split
  · exact trivial
  · exact sOk_if trivial h

theorem memOk_zaddB (h : MemOk s) {z m tid : Nat} : (zaddB z m tid s).Ok := by
  refine memOk_withM fun x v => ?_
  split
  · exact trivial
  · exact memOk_onClosed (memOk_onUnit h h)

theorem memOk_zsclB (h : MemOk s) {z m tid : Nat} : (zsclB z m tid s).Ok := by
  refine memOk_withM fun x v => ?_
  split
  · exact trivial
  · exact memOk_onClosed (memOk_onUnit h h)

/-! ### The operations of Bundle.lean -/

theorem memOk_freeFrame (h : MemOk s) {f : Nat} : MemOk (freeFrame s f) := (memOk_zeroFrame h).write _ _

theorem memOk_newKey (h : MemOk s) {k : Nat} : MemOk (newKey s k) := MemOk.foldl (fun _ _ ht => memOk_freeFrame ht) h _

theorem memOk_giveKey (h : MemOk s) {k asid : Nat} : MemOk (giveKey s k asid) := by
  unfold giveKey
  split <;> simp only [MemOk, memOk_ite, ite_self, memOk_newKey, h]

theorem memOk_assignFrame (h : MemOk s) {k f : Nat} : MemOk (assignFrame k s f) := by
  unfold assignFrame
  simp only [MemOk, memOk_ite, ite_self, memOk_zeroFrame, memOk_freeFrame, h]

theorem memOk_shallotRequest (h : MemOk s) {r : ShallotReq} : MemOk (shallotRequest s r) := by
  unfold shallotRequest
  split
  · split
    · exact memOk_newKey h
    · exact h
  · split
    · exact memOk_giveKey h
    · exact h
  · split
    · exact MemOk.foldl (fun _ _ ht => memOk_assignFrame ht) h _
    · exact h
  · split <;> exact h

theorem memOk_spdmRequest {nonce : Nat} : MemOk (spdmRequest s nonce) ↔ MemOk s := Iff.rfl

theorem memOk_mapPage (h : MemOk s) {asid attr p : Nat} {fs : List Nat} {t : State × List Nat} (ht : mapPage s asid attr p fs = some t) :
    MemOk t.1 := by
  unfold mapPage at ht
  split at ht
  · dsimp only at ht
    split at ht
    · exact nomatch ht
    · obtain rfl := Option.some.inj ht
      dsimp only
      split
      · exact h
      · exact memOk_dropTlb.mpr (memOk_osEntry h)
  · split at ht
    · exact nomatch ht
    · split at ht
      · exact nomatch ht
      · split at ht
        · exact nomatch ht
        · next x hx => exact Option.some.inj ht ▸ memOk_mapLeaf (memOk_zeroFrame h) hx

theorem memOk_mapSection {asid : Nat} {x : Loaded} {r : Option (State × List Nat)} (hr : ∀ t, r = some t → MemOk t.1)
    {t : State × List Nat} (ht : mapSection asid x r = some t) : MemOk t.1 := by
  unfold mapSection at ht
  refine foldl_option (p := fun r : State × List Nat => MemOk r.1) (fun r a v hu hv => ?_) hr _ ht
  cases r with
  | none => exact nomatch hv
  | some u => exact memOk_mapPage (hu u rfl) hv

theorem memOk_writeSection (h : MemOk s) {asid : Nat} {x : Loaded} : MemOk (writeSection asid x s) := by
  unfold writeSection
  refine MemOk.foldl_fst (fun p a hp => ?_) h _
  dsimp only
  split
  · exact memOk_stewWrite hp
  · exact hp

theorem memOk_bundleLoad (h : MemOk s) {asid : Nat} {b : Bundle} : MemOk (bundleLoad s asid b) := by
  unfold bundleLoad
  refine memOk_if h ?_
  split
  · exact h
  · refine memOk_if ?_ ?_
    · exact h
    · split
      · exact h
      · next t fs ht =>
        have hsec : MemOk (t, fs).1 := foldl_option (p := fun r : State × List Nat => MemOk r.1) (fun _ _ _ hu hv => memOk_mapSection hu hv)
          (fun u hu => Option.some.inj hu ▸ h) _ ht
        exact (MemOk.foldl (fun _ _ hu => memOk_writeSection hu) hsec _ :)

/-! ### The operations of Loop.lean -/

theorem memOk_setLoop {l : Nat} {x : Loop} : MemOk (s.setLoop l x) ↔ MemOk s := Iff.rfl

theorem memOk_setLink {l : Nat} {x : Link} : MemOk (s.setLink l x) ↔ MemOk s := Iff.rfl

theorem memOk_takeEjected {id : Nat} : MemOk (takeEjected s id) ↔ MemOk s := Iff.rfl

theorem memOk_loopPass {l n sl k : Nat} {offer : Option (Nat × Bool × Nat)} : MemOk (loopPass s l n sl k offer) ↔ MemOk s := by
  unfold loopPass
  dsimp only
  (repeat' split) <;> simp only [MemOk, iff_self, memOk_takeEjected, memOk_setLink, memOk_setLoop]

theorem memOk_packetAge {l n : Nat} : MemOk (packetAge s l n) ↔ MemOk s := Iff.rfl

theorem memOk_packetArrive {l sl : Nat} {full crcOk acked : Bool} : MemOk (packetArrive s l sl full crcOk acked) ↔ MemOk s := by
  unfold packetArrive
  dsimp only
  (repeat' split) <;> simp only [MemOk, iff_self, memOk_setLoop, memOk_setLink]

theorem memOk_lastDrain {l n : Nat} {bulk : Bool} : MemOk (lastDrain s l n bulk) ↔ MemOk s := Iff.rfl

theorem memOk_flitReceive {l src pkt : Nat} {crcOk acked : Bool} : MemOk (flitReceive s l src pkt crcOk acked) ↔ MemOk s := by
  unfold flitReceive
  simp only [MemOk, memOk_ite, ite_self, iff_self, memOk_setLink]

theorem memOk_failLink (h : MemOk s) {l : Nat} : MemOk (failLink s l) := by
  unfold failLink
  simp only [MemOk, memOk_setLink, memOk_deviceError, h]

theorem memOk_requeue (h : MemOk s) {t : State} {l n : Nat} {p : Pkt} (ht : MemOk t) : MemOk (requeue s t l n p) := memOk_if h ht

theorem memOk_retransmit (h : MemOk s) {l src pkt : Nat} : MemOk (retransmit s l src pkt) := by
  unfold retransmit
  dsimp only
  split
  · exact h
  · refine memOk_if h (memOk_if (memOk_failLink h) ?_)
    split
    · exact memOk_setLink.mpr h
    · exact memOk_requeue h (memOk_setLink.mpr h)

theorem memOk_eccError (h : MemOk s) {site : EccSite} : MemOk (eccError s site) := by
  unfold eccError
  split <;> simp only [MemOk, memOk_ite, ite_self, memOk_modGrp, memOk_setStr, memOk_modTeam, memOk_deviceError, h]

/-! ### The operations of Fetch.lean -/

theorem memOk_noteFetch {x : Fetcher} : MemOk (s.noteFetch x) ↔ MemOk s := by
  unfold State.noteFetch
  simp only [MemOk, iff_self, memOk_noteWords]

theorem memOk_endTurn {a : Agent} : MemOk (endTurn a s) ↔ MemOk s := Iff.rfl

theorem memOk_endEvent : MemOk (endEvent s) ↔ MemOk s := Iff.rfl

end Operations

end Sys2Proof.Machine

/-! O58: what an instruction, an event, a turn and a step leave of the memories. -/
namespace Sys2Proof.Machine

/-- A run that ends in a next state ends in one that keeps the invariant. -/
def RanOk : Ran → Prop
  | .next t => MemOk t
  | .fault _ | .refused _ => True

section Issue
variable {s : State}

theorem issue_ok (h : MemOk s) {i : Info} {body : Ctx → State → Act} (hbody : ∀ c t, MemOk t → (body c t).Ok) : RanOk (issue s i body) := by
  unfold issue
  split
  · exact memOk_issueFrag h hbody
  · exact memOk_takeStreamFault.mpr h
  · exact h

theorem issueBoth_ok (h : MemOk s) {i : Info} {wf : Bool} {body : Ctx → State → Act} {sbody : Nat → State → SAct}
    (hbody : ∀ c t, MemOk t → (body c t).Ok) (hs : ∀ tid t, MemOk t → (sbody tid t).Ok) : RanOk (issueBoth s i wf body sbody) := by
  unfold issueBoth
  split
  · exact memOk_issueFrag h hbody
  · exact memOk_if (memOk_takeStreamFault.mpr h) (memOk_if (memOk_takeStreamFault.mpr h) (memOk_finishStream h (hs _ _ h)))
  · exact h

theorem issueMatrix_ok (h : MemOk s) {wf : Bool} {allot : Nat → Bool} {sbody : Nat → State → SAct}
    (hs : ∀ tid t, MemOk t → (sbody tid t).Ok) : RanOk (issueMatrix s wf allot sbody) := by
  unfold issueMatrix
  split
  · exact memOk_takeFault.mpr h
  · exact memOk_if (memOk_takeStreamFault.mpr h) (memOk_if (memOk_takeStreamFault.mpr h) (memOk_finishStream h (hs _ _ h)))
  · exact h

theorem unlistedOpcode_ok (h : MemOk s) {rad : Bool} {w : BitVec 64} : RanOk (execUnlistedOpcode rad w s) := by
  unfold execUnlistedOpcode
  split
  · exact memOk_takeFault.mpr h
  · exact memOk_takeStreamFault.mpr h
  · exact h

theorem stewardCoreAccess_ok (h : MemOk s) {st ch : Nat} {acc : StewardAccess} : RanOk (execStewardCoreAccess st acc ch s) := by
  unfold execStewardCoreAccess
  split
  · exact h
  · split
    · next t ht => exact memOk_stewAccess h ht
    · trivial

/-- One arm for each meaning: an instruction's goes through the checks of issue, an event's is the operation itself. -/
theorem exec_ok (h : MemOk s) (i : Instr) : RanOk (exec i s) := by
  cases i
  case lit wide v =>
    rw [exec_lit]
    exact issueBoth_ok h (fun _ _ ht => memOk_litB ht) fun _ _ _ => trivial
  case unlistedOpcode => exact unlistedOpcode_ok h
  case stewardCoreAccess => exact stewardCoreAccess_ok h
  case schedCmdReserved => exact memOk_if h (memOk_cmdReserved.mpr h)
  case setm => exact issue_ok h fun _ _ ht => memOk_setmB ht
  case setms => exact issue_ok h fun _ _ ht => memOk_setmsB ht
  case getm | getmRadish => exact issue_ok h fun _ _ ht => memOk_getmB ht
  case bra | braRadish => exact issue_ok h fun _ _ ht => memOk_braB ht
  case brd | brdRadish => exact issue_ok h fun _ _ ht => memOk_brdB ht
  case brx | brxRadish => exact issue_ok h fun _ _ ht => memOk_brxB ht
  case callAddr | callAddrRadish => exact issue_ok h fun _ _ ht => memOk_callB ht
  case ret | retRadish => exact issue_ok h fun _ _ ht => memOk_retB ht
  case markJoin | markJoinRadish => exact issue_ok h fun _ _ ht => memOk_markB ht
  case joinFrags | joinFragsRadish => exact issue_ok h fun _ _ ht => memOk_joinB ht
  case ppush | ppushRadish => exact issue_ok h fun _ _ ht => memOk_ppushB ht
  case pinv | pinvRadish => exact issue_ok h fun _ _ ht => memOk_pinvB ht
  case ppop | ppopRadish => exact issue_ok h fun _ _ ht => memOk_ppopB ht
  case emrd | emrdRadish => exact issue_ok h fun _ _ ht => memOk_emrdB ht
  case emwr | emwrRadish => exact issue_ok h fun _ _ ht => memOk_emwrB ht
  case waitc | waitcRadish => exact issue_ok h fun _ _ ht => memOk_waitcB ht
  case cbatch | cbatchRadish => exact issue_ok h fun _ _ ht => memOk_cbatchB ht
  case waitb | waitbRadish => exact issue_ok h fun _ _ ht => memOk_waitbB ht
  case bara | baraRadish => exact issue_ok h fun _ _ ht => memOk_baraB ht
  case barw | barwRadish => exact issue_ok h fun _ _ ht => memOk_barwB ht
  case drain | drainRadish => exact issue_ok h fun _ _ ht => memOk_drainB ht
  case eqp | eqpRadish => exact issue_ok h fun _ _ ht => memOk_eqpB ht
  case migrTeam | migrTeamRadish => exact issue_ok h fun _ _ ht => memOk_migrB ht
  case rolesw | roleswRadish => exact issue_ok h fun _ _ ht => memOk_roleswB ht
  case yieldIssue | yieldIssueRadish => exact issue_ok h fun _ _ ht => memOk_yieldB ht
  case trapCode | trapCodeRadish => exact issue_ok h fun _ _ ht => memOk_trapB ht
  case xret | xretRadish => exact issue_ok h fun _ _ ht => memOk_xretB ht
  case xrd | xrdRadish => exact issue_ok h fun _ _ ht => memOk_xrdB ht
  case xwr | xwrRadish => exact issue_ok h fun _ _ ht => memOk_xwrB ht
  case sread | sreadRadish => exact issue_ok h fun _ _ ht => memOk_sreadB ht
  case launchQueue | launchQueueRadish => exact issue_ok h fun _ _ ht => memOk_launchB ht
  case ifence | ifenceRadish => exact issue_ok h fun _ _ ht => memOk_ifenceB ht
  case cpref | cprefRadish => exact issue_ok h fun _ _ ht => memOk_cprefB ht
  case snooze | snoozeRadish => exact issue_ok h fun _ _ ht => memOk_snoozeB ht
  case loopCount | loopCountRadish => exact issue_ok h fun _ _ ht => memOk_loopB ht
  case iadd | isub | imul | imulh | imad | idiv | irem | imin | imax | iabs | ineg | andBits | orBits | xorBits | notBits | shl |
    shr | sar | rotl | popc | clz | ctz | brev | movLane | iaddRadish | isubRadish | imulRadish | imulhRadish | imadRadish |
    idivRadish | iremRadish | iminRadish | imaxRadish | iabsRadish | inegRadish | andBitsRadish | orBitsRadish | xorBitsRadish |
    notBitsRadish | shlRadish | shrRadish | sarRadish | rotlRadish | popcRadish | clzRadish | ctzRadish | brevRadish | movLaneRadish
    =>
    exact issue_ok h fun _ _ ht => memOk_intB ht
  case iaddc | iaddcRadish => exact issue_ok h fun _ _ ht => memOk_iaddcB ht
  case icmp | icmpRadish => exact issue_ok h fun _ _ ht => memOk_icmpB ht
  case selLane | selLaneRadish => exact issue_ok h fun _ _ ht => memOk_selB ht
  case bfe | bfi | bfeRadish | bfiRadish => exact issue_ok h fun _ _ ht => memOk_fieldB ht
  case movi | moviRadish => exact issue_ok h fun _ _ ht => memOk_moviB ht
  case lea | leaRadish => exact issue_ok h fun _ _ ht => memOk_leaB ht
  case iaddi | iaddiRadish => exact issue_ok h fun _ _ ht => memOk_iaddiB ht
  case sadd | ssub | smul | sand | sor | sxor | sshl | sshr | smin | smax | saddRadish | ssubRadish | smulRadish | sandRadish |
    sorRadish | sxorRadish | sshlRadish | sshrRadish | sminRadish | smaxRadish =>
    exact issue_ok h fun _ _ ht => memOk_scalB ht
  case scmp | scmpRadish => exact issue_ok h fun _ _ ht => memOk_scmpB ht
  case smov | smovRadish => exact issue_ok h fun _ _ ht => memOk_smovB ht
  case smovi | smoviRadish => exact issue_ok h fun _ _ ht => memOk_smoviB ht
  case slea | sleaRadish => exact issue_ok h fun _ _ ht => memOk_sleaB ht
  case vtos | vtosRadish => exact issue_ok h fun _ _ ht => memOk_vtosB ht
  case stov | stovRadish => exact issue_ok h fun _ _ ht => memOk_stovB ht
  case fadd | fsub | fmul | ffma | fmin | fmax | fdiv | fsqrt | frnd | faddRadish | fsubRadish | fmulRadish | ffmaRadish |
    fminRadish | fmaxRadish | fdivRadish | fsqrtRadish | frndRadish =>
    exact issue_ok h fun _ _ ht => memOk_floatB ht
  case fabs | fneg | fsgnj | fabsRadish | fnegRadish | fsgnjRadish => exact issue_ok h fun _ _ ht => memOk_fsignB ht
  case fcmp | fcmpRadish => exact issue_ok h fun _ _ ht => memOk_fcmpB ht
  case fclass | fclassRadish => exact issue_ok h fun _ _ ht => memOk_fclassB ht
  case fldexp | fldexpRadish => exact issue_ok h fun _ _ ht => memOk_fldexpB ht
  case fexpo | fexpoRadish => exact issue_ok h fun _ _ ht => memOk_fexpoB ht
  case frcp | frsq | fex2 | flg2 | fsin | fcos | ftanh | frcpRadish | frsqRadish | fex2Radish | flg2Radish | fsinRadish |
    fcosRadish | ftanhRadish =>
    exact issue_ok h fun _ _ ht => memOk_sfuB ht
  case cvt | cvtRadish => exact issue_ok h fun _ _ ht => memOk_cvtB ht
  case cvti | cvtiRadish => exact issue_ok h fun _ _ ht => memOk_cvtiB ht
  case pack | packRadish => exact issue_ok h fun _ _ ht => memOk_packB ht
  case unpk | unpkRadish => exact issue_ok h fun _ _ ht => memOk_unpkB ht
  case qhist | qhistRadish => exact issue_ok h fun _ _ ht => memOk_qhistB ht
  case qscale | qscaleRadish => exact issue_ok h fun _ _ ht => memOk_qscaleB ht
  case quant | quantRadish => exact issue_ok h fun _ _ ht => memOk_quantB ht
  case deq | deqRadish => exact issue_ok h fun _ _ ht => memOk_deqB ht
  case qclr | qclrRadish => exact issue_ok h fun _ _ ht => memOk_qclrB ht
  case shfl | shflRadish => exact issue_ok h fun _ _ ht => memOk_shflB ht
  case shflu | shfluRadish => exact issue_ok h fun _ _ ht => memOk_shfluB ht
  case shfld | shfldRadish => exact issue_ok h fun _ _ ht => memOk_shfldB ht
  case shflx | shflxRadish => exact issue_ok h fun _ _ ht => memOk_shflxB ht
  case vote | voteRadish => exact issue_ok h fun _ _ ht => memOk_voteB ht
  case redu | reduRadish => exact issue_ok h fun _ _ ht => memOk_reduB ht
  case scanLanes | scanLanesRadish => exact issue_ok h fun _ _ ht => memOk_scanB ht
  case matchLanes | matchLanesRadish => exact issue_ok h fun _ _ ht => memOk_matchB ht
  case bcast | bcastRadish => exact issue_ok h fun _ _ ht => memOk_bcastB ht
  case firstLane | firstLaneRadish => exact issue_ok h fun _ _ ht => memOk_firstB ht
  case ldGlobal | ldx | ldGlobalRadish | ldxRadish => exact issue_ok h fun _ _ ht => memOk_loadB ht
  case stGlobal | stGlobalRadish => exact issue_ok h fun _ _ ht => memOk_stB ht
  case stx | stxRadish => exact issue_ok h fun _ _ ht => memOk_stxB ht
  case lds | ldsRadish => exact issue_ok h fun _ _ ht => memOk_ldsB ht
  case sts | stsRadish => exact issue_ok h fun _ _ ht => memOk_stsB ht
  case ldp | ldpRadish => exact issue_ok h fun _ _ ht => memOk_ldpB ht
  case stp | stpRadish => exact issue_ok h fun _ _ ht => memOk_stpB ht
  case stn | stnRadish => exact issue_ok h fun _ _ ht => memOk_stnB ht
  case srset | srsetRadish => exact issue_ok h fun _ _ ht => memOk_srsetB ht
  case atadd | atmin | atmax | atand | ator | atxor | atxch | atcas | ataddRadish | atminRadish | atmaxRadish | atandRadish |
    atorRadish | atxorRadish | atxchRadish | atcasRadish =>
    exact issue_ok h fun _ _ ht => memOk_atomicB ht
  case redadd | redmin | redmax | redaddRadish | redminRadish | redmaxRadish => exact issue_ok h fun _ _ ht => memOk_reduceB ht
  case fence | fenceRadish => exact issue_ok h fun _ _ ht => memOk_fenceB ht
  case ofence | ofenceRadish => exact issue_ok h fun _ _ ht => memOk_ofenceB ht
  case rflush | rinv | repark | unpark | rflushRadish | rinvRadish | reparkRadish | unparkRadish =>
    exact issue_ok h fun _ _ ht => memOk_rangeB ht
  case pfetch | pfetchRadish => exact issue_ok h fun _ _ ht => memOk_pfetchB ht
  case locate | locateRadish => exact issue_ok h fun _ _ ht => memOk_locateB ht
  case objdef | objdefRadish => exact issue_ok h fun _ _ ht => memOk_objdefB ht
  case objdel | objdelRadish => exact issue_ok h fun _ _ ht => memOk_objdelB ht
  case pcommit | pdecommit | pquery | pcommitRadish | pdecommitRadish | pqueryRadish => exact issue_ok h fun _ _ ht => memOk_tileB ht
  case allocBlock | allocBlockRadish => exact issue_ok h fun _ _ ht => memOk_allocB ht
  case freeBlock | freeBlockRadish => exact issue_ok h fun _ _ ht => memOk_freeB ht
  case tcopy | tcopym | tcopyRadish | tcopymRadish => exact issue_ok h fun _ _ ht => memOk_tcopyB ht
  case chain | chainRadish => exact issue_ok h fun _ _ ht => memOk_chainB ht
  case bbinit | bbinitRadish => exact issue_ok h fun _ _ ht => memOk_bbinitB ht
  case bbexp | bbexpRadish => exact issue_ok h fun _ _ ht => memOk_bbexpB ht
  case bbwait | bbwaitRadish => exact issue_ok h fun _ _ ht => memOk_bbwaitB ht
  case bbinv | bbinvRadish => exact issue_ok h fun _ _ ht => memOk_bbinvB ht
  case bbarr | bbarrRadish => exact issue_ok h fun _ _ ht => memOk_bbarrB ht
  case rinit | rinitRadish => exact issue_ok h fun _ _ ht => memOk_rinitB ht
  case racq | racqRadish | rtakeRadish => exact issue_ok h fun _ _ ht => memOk_ringGetB ht
  case rpub | rpubRadish => exact issue_ok h fun _ _ ht => memOk_rpubB ht
  case rclose | rcloseRadish => exact issue_ok h fun _ _ ht => memOk_rcloseB ht
  case spush | spushRadish => exact issue_ok h fun _ _ ht => memOk_spushB ht
  case nopRadish => exact issue_ok h fun _ _ ht => memOk_nopB ht
  case barRadish => exact issue_ok h fun _ _ ht => memOk_barB ht
  case exitFragRadish => exact issue_ok h fun _ _ ht => memOk_exitB ht
  case rdoneRadish => exact issue_ok h fun _ _ ht => memOk_rdoneB ht
  case nop => exact issueBoth_ok h (fun _ _ ht => memOk_nopB ht) fun _ _ ht => memOk_strNopB ht
  case bar => exact issueBoth_ok h (fun _ _ ht => memOk_barB ht) fun _ _ ht => memOk_strBarB ht
  case exitFrag => exact issueBoth_ok h (fun _ _ ht => memOk_exitB ht) fun _ _ ht => memOk_strExitB ht
  case rtake => exact issueBoth_ok h (fun _ _ ht => memOk_ringGetB ht) fun _ _ ht => memOk_strRtakeB ht
  case rdone => exact issueBoth_ok h (fun _ _ ht => memOk_rdoneB ht) fun _ _ ht => memOk_strRdoneB ht
  case mma64x64x64 | mma64x128x64 | mma128x128x64 | mma128x64x128 => exact issueMatrix_ok h fun _ _ ht => memOk_mmaB ht
  case fbset => exact issueMatrix_ok h fun _ _ ht => memOk_fbsetB ht
  case xld => exact issueMatrix_ok h fun _ _ ht => memOk_xldB ht
  case xldr => exact issueMatrix_ok h fun _ _ ht => memOk_xldrB ht
  case zclr => exact issueMatrix_ok h fun _ _ ht => memOk_zclrB ht
  case zcvt => exact issueMatrix_ok h fun _ _ ht => memOk_zcvtB ht
  case zst => exact issueMatrix_ok h fun _ _ ht => memOk_zstB ht
  case zld => exact issueMatrix_ok h fun _ _ ht => memOk_zldB ht
  case zadd => exact issueMatrix_ok h fun _ _ ht => memOk_zaddB ht
  case zscl => exact issueMatrix_ok h fun _ _ ht => memOk_zsclB ht
  case loadResultReturn => exact memOk_loadReturn h
  case storeAck => exact memOk_storeAck h
  case tuberAnswer => exact memOk_tuberAnswer h
  case objectTableAnswer => exact memOk_objAnswer.mpr h
  case sfuResultWrite => exact memOk_sfuWrite.mpr h
  case locateFaultDetect => exact memOk_locateDetect.mpr h
  case copyPieceTransfer => exact memOk_transferPiece h
  case copyComplete => exact memOk_completeCopy h
  case snoozeExpiry => exact memOk_snoozeEnd.mpr h
  case yieldExpiry => exact memOk_yieldEnd.mpr h
  case issueAgePromotion => exact memOk_promote.mpr h
  case issueSlot => exact memOk_issueSlot.mpr h
  case packetAgePromotion => exact memOk_packetAge.mpr h
  case loopSlotPass => exact memOk_loopPass.mpr h
  case packetArrival => exact memOk_packetArrive.mpr h
  case lastChanceDrain => exact memOk_lastDrain.mpr h
  case flitReceive => exact memOk_flitReceive.mpr h
  case retransmitTimeout => exact memOk_retransmit h
  case eccErrorDetected => exact memOk_eccError h
  case collapseRequest => exact memOk_collapseRequest h
  case collapseSplit => exact memOk_collapseSplit h
  case collapseAck => exact memOk_collapseAck h
  case launchDispatch => exact memOk_dispatch h
  case waitWordPoll => exact memOk_pollWaits.mpr h
  case headReserveTimeout => exact memOk_headReserve.mpr h
  case ttRelease => exact memOk_ttPass.mpr h
  case migrationDispatch => exact memOk_migDispatch.mpr h
  case migrationAgeTimeout => exact memOk_migAge.mpr h
  case migrationComplete => exact memOk_migComplete h
  case preemptHalt => exact memOk_preemptHalt h
  case preemptSaveComplete => exact memOk_saveComplete h
  case mailboxHeadWrite => exact memOk_headWrite.mpr h
  case mailboxCtailWrite => exact memOk_ctailWrite.mpr h
  case mailboxEntryTake => exact memOk_entryTake.mpr h
  case completionWrite => exact memOk_completionWrite h
  case sysExit => exact memOk_sysExit h
  case sysLog => exact memOk_sysLog h
  case sysMap => exact memOk_sysMap h
  case sysUnmap => exact memOk_sysUnmap h
  case sysLaunch => exact memOk_sysLaunch h
  case sysWait => exact memOk_sysWait h
  case sysPool => exact memOk_sysPool h
  case sysTtset => exact memOk_sysTtset h
  case sysDtpage => exact memOk_sysDtpage h
  case sysAttest => exact memOk_sysAttest h
  case sysRecord => exact memOk_sysRecord h
  case sysWaitTimeout => exact memOk_sysWaitTimeout.mpr h
  case queueTableWrite => exact memOk_queueWrite.mpr h
  case ttEntryWrite => exact memOk_ttWrite.mpr h
  case asidDescriptorWrite => exact memOk_descWrite.mpr h
  case poolFeed => exact memOk_poolFeed.mpr h
  case invalidateGo => exact memOk_invalGo.mpr h
  case invalidateDone => exact memOk_invalDone.mpr h
  case schedPreempt => exact memOk_cmdPreempt.mpr h
  case schedRestore => exact memOk_cmdRestore.mpr h
  case schedResumeReplay => exact memOk_cmdResume.mpr h
  case schedResumeSkip => exact memOk_cmdResume.mpr h
  case schedEndLaunch => exact memOk_cmdEnd h
  case schedCmdDone => exact memOk_cmdDone.mpr h
  case faultQueueTailWrite => exact memOk_tailWrite.mpr h
  case plimWrite => exact memOk_plimWrite.mpr h
  case registerWrite => exact memOk_regWrite.mpr h
  case spdmRequest => exact memOk_spdmRequest.mpr h
  case ptpMessage => exact memOk_ptpMessage.mpr h
  case mainSupplyOn => exact memOk_supplyOn h
  case mainSupplyOff => exact memOk_supplyOff h
  case idleRequest => exact memOk_idleRequest.mpr h
  case idleEnter => exact memOk_idleEnter.mpr h
  case powerOverLimit => exact memOk_powerOver.mpr h
  case junctionOver95c => exact memOk_junctionOver h
  case thermalTrip => exact memOk_thermalTrip h
  case coolantFlowTimeout => exact memOk_coolantTimeout h
  case supplySagTrip => exact memOk_sagTrip.mpr h
  case shallotRequest => exact memOk_shallotRequest h
  case bundleLoad => exact memOk_bundleLoad h
  case grandmasterLost => exact memOk_ptpLost.mpr h
  case powerWithinLimit => exact memOk_powerWithin.mpr h
  case junctionBelow95c => exact memOk_junctionBelow.mpr h
  case supplySagClear => exact memOk_sagClear.mpr h
  case coolantFlowChange => exact memOk_coolantFlow.mpr h
  case mmaComplete => exact memOk_unitDone.mpr h
end Issue

/-! ### Fetching -/

section Fetch
variable {s : State} {x : Fetcher}

/-- The fetcher's way to take a fault keeps the invariant. -/
def Fetcher.Keeps (x : Fetcher) : Prop := ∀ t op e, MemOk t → MemOk (x.take t op e)

theorem fragFetcher_keeps (s : State) (gid fid : Nat) (f : Frag) : (s.fragFetcher gid fid f).Keeps := fun _ _ _ ht => memOk_takeFault.mpr ht

theorem streamFetcher_keeps (s : State) (tid : Nat) : (s.streamFetcher tid).Keeps := fun _ _ _ ht => memOk_takeStreamFault.mpr ht

theorem mapNext_ok {r : Ran} {f : State → State} (h : RanOk r) (hf : ∀ t, MemOk t → MemOk (f t)) : RanOk (r.mapNext f) := by
  cases r with
  | next t => exact hf t h
  | fault | refused => trivial

theorem runLate_ok (h : MemOk s) (hx : x.Keeps) {e : FaultInfo} {run : State → Ran} (hrun : ∀ t, MemOk t → RanOk (run t)) :
    RanOk (runLate s x e run) := by
  unfold runLate
  split
  · exact hx _ _ _ h
  · exact mapNext_ok (hrun _ (memOk_modGrp.mpr h)) fun _ ht => memOk_modGrp.mpr ht

theorem runMarrow_ok (h : MemOk s) (hx : x.Keeps) {w : Word} : RanOk (runMarrow s x w) := by
  unfold runMarrow
  split
  · exact hx _ _ _ h
  split
  · exact hx _ _ _ h
  split
  · exact hx _ _ _ h
  split
  · split
    · exact hx _ _ _ h
    · exact runLate_ok h hx fun _ ht => exec_ok ht _
  · dsimp only
    split
    · exact hx _ _ _ (memOk_noteWords.mpr h)
    · exact exec_ok (memOk_noteWords.mpr h) _

theorem runRadish_ok (h : MemOk s) {w : BitVec 64} {ex : List (BitVec 64)} {rej : Reject → Ran} (hrej : ∀ r, RanOk (rej r)) :
    RanOk (runRadish w ex s rej id) := by
  unfold runRadish ranOf
  split
  · exact exec_ok h _
  · exact hrej _

theorem runRadishWord_ok (h : MemOk s) (hx : x.Keeps) {w : DWord} : RanOk (runRadishWord s x w) := by
  unfold runRadishWord
  dsimp only
  split
  · exact hx _ _ _ h
  split
  · exact hx _ _ _ h
  split
  · exact runLate_ok h hx fun _ ht => runRadish_ok ht fun _ => hx _ _ _ h
  · exact runRadish_ok (memOk_noteWords.mpr h) fun _ => hx _ _ _ (memOk_noteWords.mpr h)

theorem runAt_ok (h : MemOk s) (hx : x.Keeps) : RanOk (runAt s x) := by
  unfold runAt
  split
  · exact hx _ _ _ h
  · dsimp only
    split
    · exact runRadishWord_ok (memOk_noteFetch.mpr h) hx
    · exact runMarrow_ok (memOk_noteFetch.mpr h) hx

theorem runAgent_ok (h : MemOk s) (a : Agent) : RanOk (runAgent s a) := by
  cases a with
  | frag gid fid =>
    unfold runAgent
    dsimp only
    split
    · exact runAt_ok h (fragFetcher_keeps _ _ _ _)
    · exact h
  | stream tid =>
    unfold runAgent
    dsimp only
    split
    · exact runAt_ok h (streamFetcher_keeps _ _)
    · exact h

end Fetch

/-! ### Inputs and steps -/

theorem runInput_ok {s : State} (h : MemOk s) (x : Input) : RanOk (runInput s x) := by
  cases x with
  | ev i =>
    unfold runInput
    dsimp only
    split
    · exact exec_ok h i
    · exact h
  | tick ns d => exact memOk_if h (memOk_tick.mpr h)
  | host a bs => exact Canon.hostWrite h a bs
  | barWrite fn off bs => exact memOk_if h (memOk_barWrite h)
  | barRead fn off n => exact memOk_if h (memOk_barRead.mpr h)

theorem step_ok {s : State} (h : MemOk s) : RanOk (step s) := by
  unfold step
  split
  · exact mapNext_ok (runAgent_ok h _) fun _ ht => memOk_endTurn.mpr ht
  · unfold event
    split
    · exact h
    · next i r _ =>
      have hin : RanOk (runInput { s with inputs := r } i) := runInput_ok (s := { s with inputs := r }) h i
      exact mapNext_ok hin fun _ ht => memOk_endEvent.mpr ht

/-- Settles O58: a step runs one operation of the model with its ends, and each of them keeps the invariant. -/
theorem everyStepKeepsMemoryCanonical : Obligations.EveryStepKeepsMemoryCanonical := by
  unfold Obligations.EveryStepKeepsMemoryCanonical
  intro s t h hstep
  have hok := step_ok ((memOk_iff s).mpr h)
  rw [hstep] at hok
  exact (memOk_iff t).mp hok

end Sys2Proof.Machine
